-- ==== Sys2Proof/Word.lean ====
section
/-! DEFINITION. The word types of the block: 8-bit bytes, 32-bit registers, 64-bit memory words. -/

namespace Sys2Proof

/-- A byte of memory. -/
abbrev Byte := BitVec 8

/-- A register (R37: every register is 32 bits wide). -/
abbrev Word := BitVec 32

/-- A 64-bit word of memory, of a command or of an engine instruction. -/
abbrev DWord := BitVec 64

end Sys2Proof
end

