-- ==== Sys2Proof/Syntax.lean ====
section
/-! DEFINITION. The commands of the block: the one inductive `Instr`, a constructor per row of the table of operations and
events. -/

namespace Sys2Proof

/-- Who makes a register access (R35). -/
inductive Requester where
  | host (agent : Nat)
  | trowel (core : Nat)
  | keystone
  | debug
deriving DecidableEq, Repr

/-- A work item of a step or training template (R150), as Emrath emits it: its routine, its argument words (R320), the
brick it is pinned to, the layer it serves, whether the layer's walk waits for it, which argument takes the low half of its append
record's address (R165), which pair of arguments takes the address of its adapter version's weights (R210), and the Bed ranges that
it wants as resident copies: Bed offset, global base and bytes (R256). -/
structure TItem where
  set : Nat
  routine : Nat
  args : List Nat
  pin : Option Nat
  layer : Nat
  beforeWalk : Bool
  recArg : Option Nat := none
  adArg : Option Nat := none
  residents : List (Nat × Nat × Nat) := []
deriving DecidableEq, Repr

/-- Where a template keeps what its work shares with the step builder and the walks, by local address: rotated queries, the softmax
records and weights, the attention output and its format, the logit vectors, and the places in Beds that a chunk's attended pages are
copied to, page after page (R187). -/
structure TPlaces where
  queries : Nat := 0
  scratch : Nat := 0
  output : Nat := 0
  outFmt : Nat := 0
  logits : Nat := 0
  beds : List Nat := []
deriving DecidableEq, Repr

/-- A template-table entry (R318), as Emrath emits it: kind 1 is a command list, 2 a step template, 3 a training template. -/
structure Template where
  kind : Nat
  cmds : List (List Nat) := []
  items : List TItem := []
  lists : List (Nat × List (Nat × Nat × Nat × Nat)) := []  -- descriptors for the k-th Hod engine of the partition
  places : TPlaces := {}
deriving DecidableEq, Repr

/-- The commands and events of the block: one constructor per row of the table of operations and events. An operand is what
the outside world or the device's physics supplies; whatever the state determines is no operand. -/
inductive Instr where
  /-- POWER_UP (R437): Input reaches 39.0 V with PWR_EN high; the sequencer checks the coolant, then ramps the four rail groups in order and arms the clamps and monitors. Operands: input voltage (20 mV), coolant flow (0.1 L/min) and inlet temperature (0.5 °C) as sensed. -/
  | powerUp (vin flow tInlet : Nat)
  /-- COOLANT_HOLD_RELEASE (R22): Coolant flow and inlet temperature return within range during power-up, and power-up continues. Operands: the coolant as sensed. -/
  | coolantHoldRelease (flow tInlet : Nat)
  /-- INPUT_LOSS_SHUTDOWN (R18): Input stays below 37.0 V for 20 µs; all rails fall with cause 0x01. Operands: the input voltage (20 mV) and how long it has stayed there. -/
  | inputLossShutdown (vin us : Nat)
  /-- OVERVOLTAGE_SHUTDOWN (R18): Input stays above 60 V for 20 µs; the input stage disconnects with cause 0x02. Operands: as above. -/
  | overvoltageShutdown (vin us : Nat)
  /-- INPUT_POWER_SAMPLE (R20): The sequencer's 1 µs measurement of input power; averages above 6.5 kW start the hardware clamp. Operands: input power in W averaged over 1 µs and 1 ms, and the input and coolant as sensed. -/
  | inputPowerSample (w1us w1ms vin flow tInlet now : Nat)
  /-- POWER_LIMIT_SHUTDOWN (R20): Input power still exceeds 6.8 kW over a 1 ms average; power-limit shutdown with cause 0x03. Operands: input power in W averaged over 1 ms. -/
  | powerLimitShutdown (w1ms : Nat)
  /-- COOLANT_SHUTDOWN (R22): Flow below 4.0 L/min or inlet above 48 °C for 100 ms while running; coolant shutdown. Operands: the coolant as sensed and how long it has stayed so. -/
  | coolantShutdown (flow tInlet ms : Nat)
  /-- VIN_PRSNT_OPEN (R21): The short presence contact opens and the hot-swap stage disconnects the input. -/
  | vinPrsntOpen
  /-- EMERG_OFF (R27): EMERG_OFF_N low for 1 µs turns the rails off within 10 µs. Operands: how long the pin has been low. -/
  | emergOff (us : Nat)
  /-- PWR_EN_FALL (R27): PWR_EN goes low: no new page programs, then rails off once programs finish. -/
  | pwrEnFall
  /-- COLD_RESET (R445): COLD_RESET_N low for 1 µs with rails on, or Keystone at the supervisor's request, clears all volatile state and re-enters boot. Operands: the pin (and how long it has been low), or Keystone at the supervisor's request. -/
  | coldReset (byPin : Bool) (us : Nat)
  /-- REFERENCE_LOST (R31): The reference stops or departs by more than 1,000 ppm for 2 µs; shutdown with cause 0x05. Operands: what the monitor sees and for how long. -/
  | referenceLost (stopped : Bool) (ppm us : Nat)
  /-- CABLE_SUPPLY_TRIP (R24): CBL_3V3 current above 4.8 A for 100 µs turns off that connector's supply and takes its links down. Operands: connector, current and how long. -/
  | cableSupplyTrip (conn mA us : Nat)
  /-- CABLE_INSERT (R25): A cable is inserted; firmware reads it over the two-wire bus and trains its links. Operands: connector (the Quoin die's number). -/
  | cableInsert (conn : Nat)
  /-- CABLE_REMOVE (R25): A cable is removed, taking the connector's links down. -/
  | cableRemove (conn : Nat)
  /-- POWER_STATUS_READ (R29): A SMBus block read of command 0x00 returns the 64-bit power status word. Operands: the SMBus target address and command. -/
  | powerStatusRead (addr cmd : Nat)
  /-- TAP_INSTRUCTION (R28): An IEEE 1149.1 instruction; only mandatory ones and boundary scan act until a debug authorisation is accepted. Operands: whether it is one of the IEEE 1149.1 mandatory instructions or boundary scan. -/
  | tapInstruction (mandatory : Bool)
  /-- REGISTER_WRITE (R40): A write to a register field with no behaviour of its own, checked for width, rights and locks. Operands: the register's byte address in the window, the access size and the value. -/
  | registerWrite (req : Requester) (addr len : Nat) (data : Nat)
  /-- READ_CLEAR (R40): A read of an RC register returns and clears it, unless the page is locked against the reader. Operands: the register's byte address in the window and the access size. -/
  | readClear (req : Requester) (addr len : Nat)
  /-- BLK_SEL_WRITE (R49): A write to the requester's own copy of a block's select register selects the instance for all selected pages. Operands: the page whose BLK_SEL is written and the value. -/
  | blkSelWrite (req : Requester) (page : Nat) (value : Word)
  /-- BLK_ERR_CLEAR (R47): A W1C write clears error cause bits; VALID clears when BLK_ERR becomes zero. Operands: the page whose BLK_ERR is written and the value. -/
  | blkErrClear (req : Requester) (page : Nat) (value : Word)
  /-- LOCK_SET (R52): Keystone writes BLK_LOCK, locking a page or instance until cold reset. Operands: the page whose BLK_LOCK Keystone writes, for the instance it has selected, and the value. -/
  | lockSet (page : Nat) (value : Word)
  /-- QUIESCE (R43): A write to BLK_CTRL.QUIESCE makes the instance accept no new work. Operands: the page whose BLK_CTRL is written and the value. -/
  | quiesce (req : Requester) (page : Nat) (value : Word)
  /-- COMP_RESET (R448): A write of 1 to COMP_RESET starts a component reset of a quiesced instance whose precondition holds. Operands: the page whose COMP_RESET is written with 1. -/
  | compReset (req : Requester) (page : Nat)
  /-- COMPONENT_RESET_DONE (R448): A component reset finishes within its limit of Table 17-6 and COMP_RESET reads 0. Operands: the block's code, the instance, and whether what the reset retrains or retests passes. -/
  | componentResetDone (blk inst : Nat) (pass : Bool)
  /-- PASS_MV (R62): A KIND 0x1 pass descriptor reaches its bank, which runs a weight matrix-vector pass. Operands: the Hod engine whose next descriptor it is. -/
  | passMv (hod : Nat)
  /-- PASS_SCORE (R62): A KIND 0x2 pass descriptor runs a key-score pass into a softmax group. Operands: as above. -/
  | passScore (hod : Nat)
  /-- PASS_VALUE (R62): A KIND 0x3 pass descriptor runs a weighted value pass into a value-merge group. Operands: as above. -/
  | passValue (hod : Nat)
  /-- PASS_OUTLIER (R62): A KIND 0x4 pass descriptor runs a BF16 outlier-channel pass. Operands: as above. -/
  | passOutlier (hod : Nat)
  /-- LATCH (R68): A LATCH descriptor loads query latches of the masked banks, at once or at the end of a running pass. Operands: as above. -/
  | latch (hod : Nat)
  /-- GROUP_OPEN (R78): A GROUP_OPEN descriptor asks a stack reducer to open a reduction group. Operands: as above. -/
  | groupOpen (hod : Nat)
  /-- GROUP_SPACE_RESERVED (R78): Reduction-buffer space becomes free and the waiting group reserves it and opens. Operands: the stack whose reduction buffer has room. -/
  | groupSpaceReserved (stack : Nat)
  /-- COMPUTE_ACTIVATE (R70): The stack controller issues a compute activate once the compute timing rules allow it. Operands: the stack, the bank within it and the time (ns). -/
  | computeActivate (stack bank now : Nat)
  /-- YIELD_POINT (R75): A pass reaches a yield point; due refresh and held accesses are served, then the pass resumes. Operands: as above. -/
  | yieldPoint (stack bank now : Nat)
  /-- REFRESH_DUE (R74): A per-bank refresh falls due; it is pulled in or taken at the next yield point. Operands: the bank; whether the controller pulls one in rather than meets one due. -/
  | refreshDue (stack bank : Nat) (pullIn : Bool)
  /-- ORDINARY_ACCESS (R75): An ordinary read or write reaches a bank, entering its hold queue if the bank is in a pass. Operands: partition, kind, local address, bytes written or length read, time (ns), and the stored bits that a fault has inverted in the first word. -/
  | ordinaryAccess (part : Nat) (write : Bool) (addr : Nat) (data : List Byte) (len now : Nat) (fault : BitVec 72)
  /-- PASS_END (R69): A pass ends; the bank unit delivers its accumulators as one contribution and clears them. Operands: as above. -/
  | passEnd (stack bank now : Nat)
  /-- CONTRIBUTION (R79): A contribution or forwarded block reaches a group; complete blocks are written to DEST or forwarded home. Operands: which of the contributions on their way arrives. -/
  | contribution (k : Nat)
  /-- MEMORY_SIDE_ADD (R83): An atomic element-wise add into stack memory. Operands: partition, element type (Table 3-11), local address and operands. -/
  | memorySideAdd (part type addr : Nat) (data : List Byte)
  /-- MERGE_IDLE_FLUSH (R84): A merge-buffer entry idle for 512 ns is written to DRAM. Operands: the line (local address / 64) idle for 512 ns. -/
  | mergeIdleFlush (line : Nat)
  /-- REG_INDEX_WRITE (R90): A write to REG_INDEX selects a region-table entry and reloads the requester's staged low half. Operands: the write to REG_INDEX. -/
  | regIndexWrite (req : Requester) (value : Word)
  /-- REG_ENTRY_LO_WRITE (R90): A 4-byte write stages the low half; an 8-byte write commits the entry at once. Operands: the 4-byte write, or the 8-byte write with its high half. -/
  | regEntryLoWrite (req : Requester) (value : Word) (high : Option Word)
  /-- REG_ENTRY_HI_WRITE (R90): A write of REG_ENTRY_HI commits both halves or refuses with 0x0306. Operands: the write to REG_ENTRY_HI. -/
  | regEntryHiWrite (req : Requester) (value : Word)
  /-- REGION_FILL_DONE (R466): The zero fill of a granule whose owner changed ends, and the commit takes effect. Operands: the granule whose fill ends. -/
  | regionFillDone (granule : Nat)
  /-- ROW_SPARE (R95): STK_RPR_CMD OP 0x1 copies a row to a spare row and switches it outside a pass. Operands: the write to STK_RPR_CMD with OP 1, in the stack the requester has selected. -/
  | rowSpare (req : Requester) (die bank row : Nat)
  /-- BANK_SPARE (R95): STK_RPR_CMD OP 0x2 copies a bank to a spare bank and switches it outside a pass. Operands: the write to STK_RPR_CMD with OP 2. -/
  | bankSpare (req : Requester) (die bank : Nat)
  /-- REPAIR_DONE (R95): A row or bank repair finishes its copy and switches. -/
  | repairDone (stack : Nat)
  /-- STK_TRAIN_START (R95): A write of 1 to STK_TRAIN.START starts stack training, self-test and fill. Operands: the write of START to STK_TRAIN of the selected stack. -/
  | stkTrainStart (req : Requester)
  /-- STK_TRAIN_DONE (R402): Stack training ends in phase 4 or fails in phase 5. Operands: 0 or the first failing channel plus 1, the DRAM dies and the channels that trained. -/
  | stkTrainDone (stack result dieOk chOk : Nat)
  /-- COMPUTE_TIMING_WRITE (R71): A write to STK_TCAW, STK_TCRRD, STK_CONC, STK_TCPW or STK_DERATE, stored no looser than level 0. Operands: which of STK_TCAW, STK_TCRRD, STK_CONC, STK_TCPW, STK_DERATE (0 to 4) and the value. -/
  | computeTimingWrite (req : Requester) (reg : Nat) (value : Word)
  /-- STACK_HOT_END (R73): A hot stack's reading stays at or below 83 °C for 100 ms and the normal refresh interval returns. -/
  | stackHotEnd (stack now : Nat)
  /-- TLOAD (R103): Loads a tile weight bank from the Bed into the shadow bank. Operands: the physical brick, the brick cycle of issue, and the words of arrays it reads that have parity errors (array 0 or 1 a weight bank, 2 accumulators, 3 MV latch, 4 result buffer, 5 scale table, 6 parameter block; and the word's number). -/
  | tload (brick cycle : Nat) (par : List (Nat × Nat))
  /-- TMUL (R104): Streams rows through a loaded bank into the accumulator memory once issue conditions hold. Operands: the physical brick, the brick cycle of issue, and the words of arrays it reads that have parity errors (array 0 or 1 a weight bank, 2 accumulators, 3 MV latch, 4 result buffer, 5 scale table, 6 parameter block; and the word's number). -/
  | tmul (brick cycle : Nat) (par : List (Nat × Nat))
  /-- MVLD (R112): Loads BF16 elements from the Bed into the MV latch. Operands: the physical brick, the brick cycle of issue, and the words of arrays it reads that have parity errors (array 0 or 1 a weight bank, 2 accumulators, 3 MV latch, 4 result buffer, 5 scale table, 6 parameter block; and the word's number). -/
  | mvld (brick cycle : Nat) (par : List (Nat × Nat))
  /-- MVCFG (R113): Sets where following MVMULs deliver. Operands: the physical brick and the brick cycle of issue. -/
  | mvcfg (brick cycle : Nat)
  /-- MVMUL (R114): Multiplies weight rows against latched slots, to the result buffer or a reduction group. Operands: the physical brick, the brick cycle of issue, and the words of arrays it reads that have parity errors (array 0 or 1 a weight bank, 2 accumulators, 3 MV latch, 4 result buffer, 5 scale table, 6 parameter block; and the word's number). -/
  | mvmul (brick cycle : Nat) (par : List (Nat × Nat))
  /-- VOP_COPY (R117): Vector function COPY. Operands: the physical brick, the brick cycle of issue, and the words of arrays it reads that have parity errors (array 0 or 1 a weight bank, 2 accumulators, 3 MV latch, 4 result buffer, 5 scale table, 6 parameter block; and the word's number). -/
  | vopCopy (brick cycle : Nat) (par : List (Nat × Nat))
  /-- VOP_ADD (R117): Vector function ADD. Operands: the physical brick, the brick cycle of issue, and the words of arrays it reads that have parity errors (array 0 or 1 a weight bank, 2 accumulators, 3 MV latch, 4 result buffer, 5 scale table, 6 parameter block; and the word's number). -/
  | vopAdd (brick cycle : Nat) (par : List (Nat × Nat))
  /-- VOP_MUL (R117): Vector function MUL. Operands: the physical brick, the brick cycle of issue, and the words of arrays it reads that have parity errors (array 0 or 1 a weight bank, 2 accumulators, 3 MV latch, 4 result buffer, 5 scale table, 6 parameter block; and the word's number). -/
  | vopMul (brick cycle : Nat) (par : List (Nat × Nat))
  /-- VOP_MAX (R117): Vector function MAX. Operands: the physical brick, the brick cycle of issue, and the words of arrays it reads that have parity errors (array 0 or 1 a weight bank, 2 accumulators, 3 MV latch, 4 result buffer, 5 scale table, 6 parameter block; and the word's number). -/
  | vopMax (brick cycle : Nat) (par : List (Nat × Nat))
  /-- VOP_RELU (R117): Vector function RELU. Operands: the physical brick, the brick cycle of issue, and the words of arrays it reads that have parity errors (array 0 or 1 a weight bank, 2 accumulators, 3 MV latch, 4 result buffer, 5 scale table, 6 parameter block; and the word's number). -/
  | vopRelu (brick cycle : Nat) (par : List (Nat × Nat))
  /-- VOP_SIGMOID (R117): Vector function SIGMOID. Operands: the physical brick, the brick cycle of issue, and the words of arrays it reads that have parity errors (array 0 or 1 a weight bank, 2 accumulators, 3 MV latch, 4 result buffer, 5 scale table, 6 parameter block; and the word's number). -/
  | vopSigmoid (brick cycle : Nat) (par : List (Nat × Nat))
  /-- VOP_SILU (R117): Vector function SILU. Operands: the physical brick, the brick cycle of issue, and the words of arrays it reads that have parity errors (array 0 or 1 a weight bank, 2 accumulators, 3 MV latch, 4 result buffer, 5 scale table, 6 parameter block; and the word's number). -/
  | vopSilu (brick cycle : Nat) (par : List (Nat × Nat))
  /-- VOP_GELU_TANH (R117): Vector function GELU_TANH. Operands: the physical brick, the brick cycle of issue, and the words of arrays it reads that have parity errors (array 0 or 1 a weight bank, 2 accumulators, 3 MV latch, 4 result buffer, 5 scale table, 6 parameter block; and the word's number). -/
  | vopGeluTanh (brick cycle : Nat) (par : List (Nat × Nat))
  /-- VOP_GATE_SILU (R117): Vector function GATE_SILU. Operands: the physical brick, the brick cycle of issue, and the words of arrays it reads that have parity errors (array 0 or 1 a weight bank, 2 accumulators, 3 MV latch, 4 result buffer, 5 scale table, 6 parameter block; and the word's number). -/
  | vopGateSilu (brick cycle : Nat) (par : List (Nat × Nat))
  /-- VOP_EXP (R117): Vector function EXP. Operands: the physical brick, the brick cycle of issue, and the words of arrays it reads that have parity errors (array 0 or 1 a weight bank, 2 accumulators, 3 MV latch, 4 result buffer, 5 scale table, 6 parameter block; and the word's number). -/
  | vopExp (brick cycle : Nat) (par : List (Nat × Nat))
  /-- VOP_RECIP (R117): Vector function RECIP. Operands: the physical brick, the brick cycle of issue, and the words of arrays it reads that have parity errors (array 0 or 1 a weight bank, 2 accumulators, 3 MV latch, 4 result buffer, 5 scale table, 6 parameter block; and the word's number). -/
  | vopRecip (brick cycle : Nat) (par : List (Nat × Nat))
  /-- VOP_RSQRT (R117): Vector function RSQRT. Operands: the physical brick, the brick cycle of issue, and the words of arrays it reads that have parity errors (array 0 or 1 a weight bank, 2 accumulators, 3 MV latch, 4 result buffer, 5 scale table, 6 parameter block; and the word's number). -/
  | vopRsqrt (brick cycle : Nat) (par : List (Nat × Nat))
  /-- VOP_LNORM (R117): Vector row function LNORM. Operands: the physical brick, the brick cycle of issue, and the words of arrays it reads that have parity errors (array 0 or 1 a weight bank, 2 accumulators, 3 MV latch, 4 result buffer, 5 scale table, 6 parameter block; and the word's number). -/
  | vopLnorm (brick cycle : Nat) (par : List (Nat × Nat))
  /-- VOP_RMSNORM (R117): Vector row function RMSNORM. Operands: the physical brick, the brick cycle of issue, and the words of arrays it reads that have parity errors (array 0 or 1 a weight bank, 2 accumulators, 3 MV latch, 4 result buffer, 5 scale table, 6 parameter block; and the word's number). -/
  | vopRmsnorm (brick cycle : Nat) (par : List (Nat × Nat))
  /-- VOP_NSTAT (R117): Vector row function NSTAT giving sum and sum of squares. Operands: the physical brick, the brick cycle of issue, and the words of arrays it reads that have parity errors (array 0 or 1 a weight bank, 2 accumulators, 3 MV latch, 4 result buffer, 5 scale table, 6 parameter block; and the word's number). -/
  | vopNstat (brick cycle : Nat) (par : List (Nat × Nat))
  /-- VOP_NAPPLY (R117): Vector row function NAPPLY using supplied statistics. Operands: the physical brick, the brick cycle of issue, and the words of arrays it reads that have parity errors (array 0 or 1 a weight bank, 2 accumulators, 3 MV latch, 4 result buffer, 5 scale table, 6 parameter block; and the word's number). -/
  | vopNapply (brick cycle : Nat) (par : List (Nat × Nat))
  /-- VOP_ROPE (R119): Vector row function ROPE rotating queries by position. Operands: the physical brick, the brick cycle of issue, and the words of arrays it reads that have parity errors (array 0 or 1 a weight bank, 2 accumulators, 3 MV latch, 4 result buffer, 5 scale table, 6 parameter block; and the word's number). -/
  | vopRope (brick cycle : Nat) (par : List (Nat × Nat))
  /-- VCFG_SCALE_TABLE (R118): VCFG WHAT 0 loads the 1,024-entry scale table. Operands: the physical brick, the brick cycle of issue, and the words of arrays it reads that have parity errors (array 0 or 1 a weight bank, 2 accumulators, 3 MV latch, 4 result buffer, 5 scale table, 6 parameter block; and the word's number). -/
  | vcfgScaleTable (brick cycle : Nat) (par : List (Nat × Nat))
  /-- VCFG_PARAMETER_BLOCK (R118): VCFG WHAT 1 loads the vector parameter block. Operands: the physical brick, the brick cycle of issue, and the words of arrays it reads that have parity errors (array 0 or 1 a weight bank, 2 accumulators, 3 MV latch, 4 result buffer, 5 scale table, 6 parameter block; and the word's number). -/
  | vcfgParameterBlock (brick cycle : Nat) (par : List (Nat × Nat))
  /-- STORE (R121): Reads rows from a source, converts, optionally rotates, and writes them in a layout to the Bed or a global address. Operands: the physical brick, the brick cycle of issue, and the words of arrays it reads that have parity errors (array 0 or 1 a weight bank, 2 accumulators, 3 MV latch, 4 result buffer, 5 scale table, 6 parameter block; and the word's number). -/
  | store (brick cycle : Nat) (par : List (Nat × Nat))
  /-- ISSUE_TIMEOUT (R110): An instruction waits at its queue head longer than BRK_ISSUE_TMO; the brick's work halts with 0x0A02 and flushes. Operands: the physical brick, the engine (0 tile, 1 MV, 2 vector, 3 store) and how long its head has waited. -/
  | issueTimeout (brick engine us : Nat)
  /-- INBOUND_ADMIT (R100): An inbound transfer into a Bed segment is admitted and clears PRESENT, or is held behind an issued instruction. Operands: the brick, the Bed offset, the bytes, the Bed offsets of words that arrive poisoned, and the brick cycle. -/
  | inboundAdmit (brick off : Nat) (data : List Byte) (bad : List Nat) (cycle : Nat)
  /-- INBOUND_LANDED (R100): Every admitted inbound transfer into a segment has landed and PRESENT is set. Operands: the brick, which of its transfers lands, and the brick cycle. -/
  | inboundLanded (brick k cycle : Nat)
  /-- BRING_IN_SPARE (R130): BRK_MAP_CMD OP 0x1 passes a quiesced logical brick's number to a spare. Operands: the write to BRK_MAP_CMD with OP 1. -/
  | bringInSpare (req : Requester) (logical spare : Nat)
  /-- RETIRE_BRICK (R130): BRK_MAP_CMD OP 0x2 retires the selected brick without replacement. Operands: the write to BRK_MAP_CMD with OP 2. -/
  | retireBrick (req : Requester)
  /-- BRICK_CLEAR_DONE (R131): The 8,192-cycle clearing of a brick that changed partition ends. -/
  | brickClearDone (brick : Nat)
  /-- ALU_ADD (R138): Mason ALU funct ADD. Operands: the physical brick, and whether the fetched word has a parity error. -/
  | aluAdd (brick : Nat) (parity : Bool)
  /-- ALU_SUB (R138): Mason ALU funct SUB. Operands: the physical brick, and whether the fetched word has a parity error. -/
  | aluSub (brick : Nat) (parity : Bool)
  /-- ALU_AND (R137): Mason ALU funct AND. Operands: the physical brick, and whether the fetched word has a parity error. -/
  | aluAnd (brick : Nat) (parity : Bool)
  /-- ALU_OR (R137): Mason ALU funct OR. Operands: the physical brick, and whether the fetched word has a parity error. -/
  | aluOr (brick : Nat) (parity : Bool)
  /-- ALU_XOR (R137): Mason ALU funct XOR. Operands: the physical brick, and whether the fetched word has a parity error. -/
  | aluXor (brick : Nat) (parity : Bool)
  /-- ALU_SLL (R138): Mason ALU funct SLL. Operands: the physical brick, and whether the fetched word has a parity error. -/
  | aluSll (brick : Nat) (parity : Bool)
  /-- ALU_SRL (R138): Mason ALU funct SRL. Operands: the physical brick, and whether the fetched word has a parity error. -/
  | aluSrl (brick : Nat) (parity : Bool)
  /-- ALU_SRA (R138): Mason ALU funct SRA. Operands: the physical brick, and whether the fetched word has a parity error. -/
  | aluSra (brick : Nat) (parity : Bool)
  /-- ALU_SLT (R137): Mason ALU funct SLT. Operands: the physical brick, and whether the fetched word has a parity error. -/
  | aluSlt (brick : Nat) (parity : Bool)
  /-- ALU_SLTU (R137): Mason ALU funct SLTU. Operands: the physical brick, and whether the fetched word has a parity error. -/
  | aluSltu (brick : Nat) (parity : Bool)
  /-- ALU_MIN (R137): Mason ALU funct MIN. Operands: the physical brick, and whether the fetched word has a parity error. -/
  | aluMin (brick : Nat) (parity : Bool)
  /-- ALU_MAX (R137): Mason ALU funct MAX. Operands: the physical brick, and whether the fetched word has a parity error. -/
  | aluMax (brick : Nat) (parity : Bool)
  /-- ALU_MINU (R137): Mason ALU funct MINU. Operands: the physical brick, and whether the fetched word has a parity error. -/
  | aluMinu (brick : Nat) (parity : Bool)
  /-- ALU_MAXU (R137): Mason ALU funct MAXU. Operands: the physical brick, and whether the fetched word has a parity error. -/
  | aluMaxu (brick : Nat) (parity : Bool)
  /-- ALU_MUL (R138): Mason ALU funct MUL, low 32 bits. Operands: the physical brick, and whether the fetched word has a parity error. -/
  | aluMul (brick : Nat) (parity : Bool)
  /-- ALU_MULH (R138): Mason ALU funct MULH, signed high 32 bits. Operands: the physical brick, and whether the fetched word has a parity error. -/
  | aluMulh (brick : Nat) (parity : Bool)
  /-- ALU_MULHU (R138): Mason ALU funct MULHU, unsigned high 32 bits. Operands: the physical brick, and whether the fetched word has a parity error. -/
  | aluMulhu (brick : Nat) (parity : Bool)
  /-- ALU_DIV (R138): Mason ALU funct DIV with the special cases of division by zero and overflow. Operands: the physical brick, and whether the fetched word has a parity error. -/
  | aluDiv (brick : Nat) (parity : Bool)
  /-- ALU_DIVU (R138): Mason ALU funct DIVU. Operands: the physical brick, and whether the fetched word has a parity error. -/
  | aluDivu (brick : Nat) (parity : Bool)
  /-- ALU_REM (R138): Mason ALU funct REM. Operands: the physical brick, and whether the fetched word has a parity error. -/
  | aluRem (brick : Nat) (parity : Bool)
  /-- ALU_REMU (R138): Mason ALU funct REMU. Operands: the physical brick, and whether the fetched word has a parity error. -/
  | aluRemu (brick : Nat) (parity : Bool)
  /-- ADDI (R137): Adds a sign-extended immediate. Operands: the physical brick, and whether the fetched word has a parity error. -/
  | addi (brick : Nat) (parity : Bool)
  /-- ANDI (R137): ANDs a zero-extended immediate. Operands: the physical brick, and whether the fetched word has a parity error. -/
  | andi (brick : Nat) (parity : Bool)
  /-- ORI (R137): ORs a zero-extended immediate. Operands: the physical brick, and whether the fetched word has a parity error. -/
  | ori (brick : Nat) (parity : Bool)
  /-- XORI (R137): XORs a zero-extended immediate. Operands: the physical brick, and whether the fetched word has a parity error. -/
  | xori (brick : Nat) (parity : Bool)
  /-- SLTI (R137): Signed compare with an immediate. Operands: the physical brick, and whether the fetched word has a parity error. -/
  | slti (brick : Nat) (parity : Bool)
  /-- SLTIU (R137): Unsigned compare with an immediate. Operands: the physical brick, and whether the fetched word has a parity error. -/
  | sltiu (brick : Nat) (parity : Bool)
  /-- SLLI (R137): Shift left by an immediate. Operands: the physical brick, and whether the fetched word has a parity error. -/
  | slli (brick : Nat) (parity : Bool)
  /-- SRLI (R137): Logical shift right by an immediate. Operands: the physical brick, and whether the fetched word has a parity error. -/
  | srli (brick : Nat) (parity : Bool)
  /-- SRAI (R137): Arithmetic shift right by an immediate. Operands: the physical brick, and whether the fetched word has a parity error. -/
  | srai (brick : Nat) (parity : Bool)
  /-- LUI (R137): Loads an immediate into the upper 16 bits. Operands: the physical brick, and whether the fetched word has a parity error. -/
  | lui (brick : Nat) (parity : Bool)
  /-- LW (R135): Loads a word from the Mason local space. Operands: the physical brick, whether the fetched word has a parity error, and the bits of the data-memory word that have been inverted (64 data bits, then 8 check bits). -/
  | lw (brick : Nat) (parity : Bool) (fault : BitVec 72)
  /-- LH (R135): Loads a sign-extended halfword. Operands: the physical brick, whether the fetched word has a parity error, and the bits of the data-memory word that have been inverted (64 data bits, then 8 check bits). -/
  | lh (brick : Nat) (parity : Bool) (fault : BitVec 72)
  /-- LHU (R135): Loads a zero-extended halfword. Operands: the physical brick, whether the fetched word has a parity error, and the bits of the data-memory word that have been inverted (64 data bits, then 8 check bits). -/
  | lhu (brick : Nat) (parity : Bool) (fault : BitVec 72)
  /-- LB (R135): Loads a sign-extended byte. Operands: the physical brick, whether the fetched word has a parity error, and the bits of the data-memory word that have been inverted (64 data bits, then 8 check bits). -/
  | lb (brick : Nat) (parity : Bool) (fault : BitVec 72)
  /-- LBU (R135): Loads a zero-extended byte. Operands: the physical brick, whether the fetched word has a parity error, and the bits of the data-memory word that have been inverted (64 data bits, then 8 check bits). -/
  | lbu (brick : Nat) (parity : Bool) (fault : BitVec 72)
  /-- SW (R136): Stores a word to data memory or the Bed. Operands: the physical brick, whether the fetched word has a parity error, and the bits of the data-memory word that have been inverted (64 data bits, then 8 check bits). -/
  | sw (brick : Nat) (parity : Bool) (fault : BitVec 72)
  /-- SH (R136): Stores a halfword, merging in the Bed. Operands: the physical brick, whether the fetched word has a parity error, and the bits of the data-memory word that have been inverted (64 data bits, then 8 check bits). -/
  | sh (brick : Nat) (parity : Bool) (fault : BitVec 72)
  /-- SB (R136): Stores a byte, merging in the Bed. Operands: the physical brick, whether the fetched word has a parity error, and the bits of the data-memory word that have been inverted (64 data bits, then 8 check bits). -/
  | sb (brick : Nat) (parity : Bool) (fault : BitVec 72)
  /-- BEQ (R137): Branches if equal. Operands: the physical brick, and whether the fetched word has a parity error. -/
  | beq (brick : Nat) (parity : Bool)
  /-- BNE (R137): Branches if not equal. Operands: the physical brick, and whether the fetched word has a parity error. -/
  | bne (brick : Nat) (parity : Bool)
  /-- BLT (R137): Branches if signed less. Operands: the physical brick, and whether the fetched word has a parity error. -/
  | blt (brick : Nat) (parity : Bool)
  /-- BGE (R137): Branches if signed greater or equal. Operands: the physical brick, and whether the fetched word has a parity error. -/
  | bge (brick : Nat) (parity : Bool)
  /-- BLTU (R137): Branches if unsigned less. Operands: the physical brick, and whether the fetched word has a parity error. -/
  | bltu (brick : Nat) (parity : Bool)
  /-- BGEU (R137): Branches if unsigned greater or equal. Operands: the physical brick, and whether the fetched word has a parity error. -/
  | bgeu (brick : Nat) (parity : Bool)
  /-- JAL (R137): Jumps relative and links. Operands: the physical brick, and whether the fetched word has a parity error. -/
  | jal (brick : Nat) (parity : Bool)
  /-- JALR (R137): Jumps to a register plus offset and links. Operands: the physical brick, and whether the fetched word has a parity error. -/
  | jalr (brick : Nat) (parity : Bool)
  /-- EPUSH (R139): Pushes an engine instruction from two registers, stalling on a full queue. Operands: the physical brick, and whether the fetched word has a parity error. -/
  | epush (brick : Nat) (parity : Bool)
  /-- EPUSHM (R139): Pushes an engine instruction from data memory. Operands: the physical brick, whether the fetched word has a parity error, and the bits of the data-memory word that have been inverted (64 data bits, then 8 check bits). -/
  | epushm (brick : Nat) (parity : Bool) (fault : BitVec 72)
  /-- SPUSHM (R139): Pushes a stream descriptor to an address FIFO, faulting on a push deadlock. Operands: the physical brick, whether the fetched word has a parity error, and the bits of the data-memory word that have been inverted (64 data bits, then 8 check bits). -/
  | spushm (brick : Nat) (parity : Bool) (fault : BitVec 72)
  /-- MASON_WAIT (R137): Waits until the selected WAIT conditions hold. Operands: the physical brick, and whether the fetched word has a parity error. -/
  | masonWait (brick : Nat) (parity : Bool)
  /-- WAITI (R137): Waits until the last instruction pushed to an engine has issued. Operands: the physical brick, and whether the fetched word has a parity error. -/
  | waiti (brick : Nat) (parity : Bool)
  /-- WAITC (R137): Delays the next instruction by a count of cycles. Operands: the physical brick, and whether the fetched word has a parity error. -/
  | waitc (brick : Nat) (parity : Bool)
  /-- END (R149): Ends the routine; the work item ends once every WAIT condition holds. Operands: the physical brick, and whether the fetched word has a parity error. -/
  | mEnd (brick : Nat) (parity : Bool)
  /-- WORK_ITEM_START (R149): A work item starts on an idle brick: set load if needed, work descriptor written, registers set, routine entered. Operands: the step number, the item's place in the step, the brick cycle. -/
  | workItemStart (step item cycle : Nat)
  /-- WORK_ITEM_END (R148): A work item ends or halts; FULL bits clear and FIFOs flush. Operands: the physical brick and the brick cycle. -/
  | workItemEnd (brick cycle : Nat)
  /-- STEP (R311): STEP command runs steps of a model slot until its count, stop register or drain ends it. Operands: the partition and the queue. -/
  | stepCmd (part queue : Nat)
  /-- STEP_ADMISSION (R198): The step builder admits a step: forms work, checks sequences, allocates pages, snapshots and places work. Operands: the number of the running command, in order of fetching. -/
  | stepAdmission (cmd : Nat)
  /-- PLACEMENT (R203): A waiting work item is placed on a free brick of the pool. Operands: the partition. -/
  | placement (part : Nat)
  /-- WALK_START (R175): The step builder starts a layer's walk once its append and query work items end. Operands: the step's number, the sequence, 0 or the draft pass and the layer; stored bits to invert first in the first snapshot word that the walk reads; repeated while the walk has rounds or groups to begin. -/
  | walkStart (step seq pass layer : Nat) (fault : BitVec 72)
  /-- WALK_COMBINE (R178): Once every local record is written, the walking engine combines them and delivers the global record. Operands: the walk and the head, slot group and query position. -/
  | walkCombine (walk head sg pos : Nat)
  /-- ROUND_COMBINE (R182): The walking engine combines a multi-round walk's round outputs into the attention output. Operands: as above. -/
  | roundCombine (walk head sg pos : Nat)
  /-- WALK_TIMEOUT (R189): A walk waits longer than HOD_WALK_TMO and ends with 0x030C. Operands: the walk and how long it has waited at one point. -/
  | walkTimeout (walk us : Nat)
  /-- STEP_COMMIT (R201): A step completes: tokens are selected, sequences committed, publications applied and the completion record written. Operands: the step's number. -/
  | stepCommit (step : Nat)
  /-- PAGE_RELEASE (R171): A removed page returns to the pool once no admitted step names it. Operands: the partition and the page number. -/
  | pageRelease (part page : Nat)
  /-- SEQ_OPEN (R192): Opens a sequence-table entry from an open record, with optional prefix lookup. Operands: the partition and the queue. -/
  | seqOpen (part queue : Nat)
  /-- SET_INPUT (R217): SEQ_EDIT kind 0x1 raises HLEN. Operands: the partition and the queue. -/
  | setInput (part queue : Nat)
  /-- TRUNCATE (R217): SEQ_EDIT kind 0x2 truncates CLEN and HLEN. Operands: the partition and the queue. -/
  | truncate (part queue : Nat)
  /-- SET_FLOOR (R217): SEQ_EDIT kind 0x3 sets ATTN_LO. Operands: the partition and the queue. -/
  | setFloor (part queue : Nat)
  /-- REBIND (R210): SEQ_EDIT kind 0x4 binds the current adapter version of a slot. Operands: the partition and the queue. -/
  | rebind (part queue : Nat)
  /-- SET_SPEC (R217): SEQ_EDIT kind 0x5 sets SPEC_D, RULE, TEMP and SEED. Operands: the partition and the queue. -/
  | setSpec (part queue : Nat)
  /-- SET_CLASS (R217): SEQ_EDIT kind 0x6 sets ACLASS, CHUNK and STOP_TOK. Operands: the partition and the queue. -/
  | setClass (part queue : Nat)
  /-- HOLD (R217): SEQ_EDIT kind 0x7 puts the sequence in HELD. Operands: the partition and the queue. -/
  | hold (part queue : Nat)
  /-- RELEASE (R217): SEQ_EDIT kind 0x8 returns the sequence to READY, or to RECOVERING if SUSPECT. Operands: the partition and the queue. -/
  | release (part queue : Nat)
  /-- PAGES (R170): SEQ_EDIT kind 0x9 replaces page-list entries. Operands: the partition and the queue. -/
  | pages (part queue : Nat)
  /-- SEQ_EDIT_APPLY (R217): A waiting edit is applied whole once its sequence has no admitted step, after its checks are repeated. Operands: the sequence-table index. -/
  | seqEditApply (seq : Nat)
  /-- SEQ_CLOSE (R219): Puts a sequence in CLOSING, waits for its step, releases pages and frees the entry. Operands: the partition and the queue. -/
  | seqClose (part queue : Nat)
  /-- SEQ_CLOSE_FINISH (R219): After the holding step commits, the closing sequence's pages and adapter are released and the entry becomes FREE. Operands: the sequence-table index. -/
  | seqCloseFinish (seq : Nat)
  /-- ADAPTER_INSTALL (R209): Installs a new adapter version after its signature check and makes it current. Operands: the partition, the queue and whether the image's signature checks. -/
  | adapterInstall (part queue : Nat) (sigOk : Bool)
  /-- ADAPTER_RETIRE (R209): Makes the slot's current version no longer current. Operands: the partition and the queue. -/
  | adapterRetire (part queue : Nat)
  /-- PREFIX_PUBLISH (R213): Publishes a sequence's blocks up to a count. Operands: the partition and the queue. -/
  | prefixPublish (part queue : Nat)
  /-- SEQ_POOL_ADD (R171): A write appends a page number to the pool ring, or is discarded when full. Operands: the requester and the page number written. -/
  | seqPoolAdd (req : Requester) (page : Nat)
  /-- SEQ_POOL_SIZE_WRITE (R163): A write to the pool ring base or size, refused while the ring holds entries. Operands: half 0 the base's low word, 1 its high word, 2 the size. -/
  | seqPoolSizeWrite (req : Requester) (half : Nat) (value : Word)
  /-- SEQ_QUOTA_WRITE (R192): A write of a partition's sequence quota, ignored if it breaks the sum or USED. Operands: the value written to SEQ_QUOTA of the partition shown. -/
  | seqQuotaWrite (req : Requester) (value : Word)
  /-- SEQ_PFX_MODE_WRITE (R212): A write to the prefix-index mode, base or size, checked against the arena. Operands: what 0 the mode, 1 and 2 the arena's base, 3 its size. -/
  | seqPfxModeWrite (req : Requester) (what : Nat) (value : Word)
  /-- COPY (R239): Copies a tensor as a plain move or a permuting copy through the Bond network. Operands: the partition, the queue, and the destination elements (numbered batch element by batch element, row by row) that meet a parity error in their plane. -/
  | copy (part queue : Nat) (parity : List Nat)
  /-- LAYOUT (R312): Permuting copy, with optional transpose. Operands: as COPY. -/
  | layout (part queue : Nat) (parity : List Nat)
  /-- GATHER (R242): Writes source rows chosen by an index tensor, under an out-of-range policy. Operands: as COPY. -/
  | gather (part queue : Nat) (parity : List Nat)
  /-- YRD_BENTRY_WRITE (R250): A block-table write, refused for WORK blocks in use or kind 3. Operands: the write to YRD_BENTRY of the block the requester shows. -/
  | yrdBentryWrite (req : Requester) (value : Word)
  /-- BLOCK_CONVERSION_DONE (R250): The block's previous owner's commands have ended; it is written back, zeroed and takes its new kind. -/
  | blockConversionDone (block : Nat)
  /-- YARD_ACCESS (R253): A read, write or add passes through the slab of its line, cached, written through or forwarded. Operands: partition, 0 read, 1 write or 2 add and its type, credit class, global address, operands or length, and the stored bits a fault has inverted. -/
  | yardAccess (part op type cls addr : Nat) (data : List Byte) (len : Nat) (fault : BitVec 72)
  /-- STREAM_DECLARE (R255): A sequential range is declared and assigned a prefetcher. Operands: the partition served, the global base and the length of the range. -/
  | streamDeclare (part base len : Nat)
  /-- YRD_SPARE_CMD (R272): Replaces an active slab with a spare, copying and mirroring writes. Operands: the write to YRD_SPARE_CMD. -/
  | yrdSpareCmd (req : Requester) (op logical : Nat)
  /-- SLAB_REPLACE_DONE (R272): The slab copy ends and the logical number switches. -/
  | slabReplaceDone
  /-- YRD_CLS_WRITE (R267): A credit-class floor or cap write, ignored if floors exceed 1,024. Operands: the write to YRD_CLSk. -/
  | yrdClsWrite (req : Requester) (cls : Nat) (value : Word)
  /-- YRD_Q_CACHE_WRITE (R254): A cache floor or cap write, ignored if floors exceed capacity. Operands: the write to YRD_Q_CACHE of the partition the requester shows. -/
  | yrdQCacheWrite (req : Requester) (value : Word)
  /-- ACQUIRE (R259): Drops cached copies of other devices' memory and Bed-resident copies over a range or partition. Operands: the partition and the queue. -/
  | acquire (part queue : Nat)
  /-- PARTITION_CREATE (R277): PRT_CMD OP 1 moves an UNUSED partition to CONFIG. Operands: the write to PRT_CMD with OP 1, for the partition the requester has selected. -/
  | partitionCreate (req : Requester)
  /-- PARTITION_ACTIVATE (R277): PRT_CMD OP 2 moves CONFIG to ACTIVE. Operands: the write to PRT_CMD with OP 2. -/
  | partitionActivate (req : Requester)
  /-- PARTITION_DRAIN (R277): PRT_CMD OP 3 moves ACTIVE to DRAINING. Operands: the write to PRT_CMD with OP 3. -/
  | partitionDrain (req : Requester)
  /-- PARTITION_RELEASE (R277): PRT_CMD OP 4 returns a partition's resources unowned and moves it to UNUSED. Operands: the write to PRT_CMD with OP 4. -/
  | partitionRelease (req : Requester)
  /-- DRAIN_COMPLETE (R277): A DRAINING partition with no admitted step enters CONFIG. -/
  | drainComplete (part : Nat)
  /-- POOL_ASSIGN (R276): A PRT_POOL write changes a brick pool, refused by exclusivity or capacity. Operands: which PRT_POOL word and the value. -/
  | poolAssign (req : Requester) (k : Nat) (value : Word)
  /-- BGRP_ASSIGN (R275): A PRT_BGRP write changes a partition's bank groups. Operands: which PRT_BGRP word and the value. -/
  | bgrpAssign (req : Requester) (k : Nat) (value : Word)
  /-- HOD_ASSIGN (R276): A PRT_HOD write changes a partition's Hod engines. Operands: which PRT_HOD word and the value. -/
  | hodAssign (req : Requester) (half : Nat) (value : Word)
  /-- PRT_MODE_WRITE (R278): A guarantee-mode write, accepted only in CONFIG. -/
  | prtModeWrite (req : Requester) (value : Word)
  /-- REGULATOR_WRITE (R282): A regulator floor or cap write, ignored if it breaks the limits. Operands: which of the six regulator registers (0 to 5) and the value. -/
  | regulatorWrite (req : Requester) (reg : Nat) (value : Word)
  /-- REGULATOR_REFILL (R279): Every 1 µs the floor and cap buckets refill and waiting requests proceed. -/
  | regulatorRefill
  /-- CYT_COMMIT (R286): A write of 1 to COMMIT checks the shadow cycle table. Operands: the write of 1 to COMMIT. -/
  | cytCommit (req : Requester)
  /-- CYT_ENABLE_WRITE (R293): A write of ENABLE starts the period counter at 0 under the live table. Operands: the write of ENABLE. -/
  | cytEnableWrite (req : Requester) (on : Bool)
  /-- CYT_SHIFT (R287): A one-time shift of the next period's length. Operands: the write to CYT_SHIFT. -/
  | cytShift (req : Requester) (value : Word)
  /-- PERIOD_WRAP (R291): The period counter wraps; balances reload with debt and a pending commit applies. -/
  | periodWrap (part : Nat)
  /-- SLOT_WINDOW_END (R292): A slot's window ends; budget left with waiting work sets SHORT. -/
  | slotWindowEnd (part slot : Nat)
  /-- BUDGET_STOP (R290): A balance falls below its overdraft limit and the slot's work is stopped with 0x0503. Operands: the partition and the live slot. -/
  | budgetStop (part slot : Nat)
  /-- QUEUE_DOORBELL_WRITE (R296): A write of PRT_QTAIL or LNT_QDB advances a command ring's tail. Operands: none: the write of PRT_QTAIL of the queue shown; some n: the write of LNT_QDBn. -/
  | queueDoorbellWrite (req : Requester) (index : Option Nat) (value : Word)
  /-- COMMAND_FETCH (R297): The device fetches a command-ring entry, parking the queue on a ring fault. Operands: the partition and the queue. -/
  | commandFetch (part queue : Nat)
  /-- REPLAY (R319): Admits a template's recorded commands in order. Operands: the partition and the queue. -/
  | replay (part queue : Nat)
  /-- PATCH (R317): Writes or adds values to parameter registers at admission. Operands: the partition and the queue. -/
  | patch (part queue : Nat)
  /-- FENCE (R313): Holds admission until earlier commands of the queue, or partition, complete. Operands: the partition and the queue. -/
  | fence (part queue : Nat)
  /-- MODEL_LOAD (R416): Loads a sealed model image from the Footing into a slot. Operands: the queue, the outcomes of the signature check and of the outlier check of R415, and the kinds of the image's templates in index order (2: a step template). -/
  | modelLoad (part queue : Nat) (sigOk outliersOk : Bool) (kinds : List Nat)
  /-- MODEL_LOAD_BLOCK (R416): A 1 MiB block streams in and is checked against its manifest entry, retried once on failure. Operands: the model slot, whether the block's hash agrees, whether it does on the retry, and the channels that deliver a unit of it poisoned. -/
  | modelLoadBlock (slot : Nat) (ok retryOk : Bool) (ue : List Nat)
  /-- MODEL_LOAD_COMPLETE (R416): Templates and records are written, granules become Open and hashed, the slot becomes READY and is measured. Operands: the model slot and the image's templates by entry number, as Emrath emits them. -/
  | modelLoadComplete (slot : Nat) (templates : List (Nat × Template))
  /-- REDUCE_REMOTE (R315): Adds a source element by element into a destination on any device. Operands: the partition and the queue. -/
  | reduceRemote (part queue : Nat)
  /-- WAIT (R314): WAIT command holds admission until a flag meets a condition or times out. Operands: the partition and the queue. -/
  | waitCmd (part queue : Nat)
  /-- WAIT_EVALUATE (R314): A WAIT re-evaluates its flag on a write to its line or every 10 µs. Operands: the partition and the queue. -/
  | waitEvaluate (part queue : Nat)
  /-- WAIT_TIMEOUT (R314): A WAIT's TIMEOUT_US runs out and it completes with 0x0107. Operands: the partition, the queue and the time since the WAIT was admitted. -/
  | waitTimeout (part queue us : Nat)
  /-- SIGNAL (R314): Writes or adds a value to a flag. Operands: the partition and the queue. -/
  | signal (part queue : Nat)
  /-- NOP (R310): Does nothing and completes. Operands: the partition and the queue. -/
  | nop (part queue : Nat)
  /-- TRAIN_STEP (R315): Runs a training template as a single step charged to ADAPTER_TRAIN. Operands: the partition and the queue. -/
  | trainStep (part queue : Nat)
  /-- MARKER (R313): Completes when earlier commands of the queue complete, holding nothing back. Operands: the partition and the queue. -/
  | marker (part queue : Nat)
  /-- COMPLETION_RECORD (R306): A command's completion record is written once room exists and all its effects are performed. Operands: the partition and the queue whose completion ring takes the record. -/
  | completionRecord (part ring : Nat)
  /-- PRT_QCTRL_ENABLE (R295): A write of a queue's ENABLE, accepted only with the rings its kind needs. Operands: the write of ENABLE of the queue shown. -/
  | prtQctrlEnable (req : Requester) (on : Bool)
  /-- RING_HEAD_WRITE (R306): The host advances a completion or result ring head, freeing room for waiting records and steps. Operands: the write of PRT_CQHEAD, or of PRT_RQHEAD. -/
  | ringHeadWrite (req : Requester) (res : Bool) (value : Word)
  /-- FLUSH (R323): PRT_QRESUME FLUSH bit discards commands from the admission point to the tail with 0x0108. Operands: the FLUSH bits written to PRT_QRESUME. -/
  | flush (req : Requester) (queues : Nat)
  /-- RESUME (R323): PRT_QRESUME RESUME bit restarts admission of a parked queue. Operands: the RESUME bits written to PRT_QRESUME. -/
  | resume (req : Requester) (queues : Nat)
  /-- PRT_PVAL_WRITE (R317): A host write of a parameter register, taking effect at some later admission. Operands: the write to PRT_PVAL_LO, of 4 bytes or of 8 with the high half. -/
  | prtPvalWrite (req : Requester) (lo : Word) (high : Option Word)
  /-- FLIT_RECEIVE (R333): A Lintel flit arrives; it is taken in and acknowledged, or NAKed on error. Operands: the link, the flit's kind, FSEQ, ACK and credit returns, and its outcome. -/
  | flitReceive (link kind fseq ack rq pw data : Nat) (ackValid crcOk : Bool)
  /-- NAK_FLIT (R333): A NAK flit causes a resend from the named flit, or a retrain after 8 in a row. Operands: the link and the FSEQ it names. -/
  | nakFlit (link fseq : Nat)
  /-- MODULE_FAILURE (R326): A UCIe module fails beyond lane repair; its half of the link goes down. Operands: the module, 0 to 7. -/
  | moduleFailure (module : Nat)
  /-- MRD (R331): Host memory read, answered by CPLD. Operands: the link and the fields of the header; bad: a reserved field is not zero. -/
  | mrd (link tid agent part len addr : Nat) (bad : Bool)
  /-- MWR (R334): Posted host memory write. Operands: as above, with the payload. -/
  | mwr (link agent part addr : Nat) (data : List Byte) (bad : Bool)
  /-- MWRC (R331): Host memory write answered by CPL once performed. Operands: as above. -/
  | mwrc (link tid agent part addr : Nat) (data : List Byte) (bad : Bool)
  /-- DB (R339): Doorbell transaction for a queue or H2F ring. Operands: as above, with the target and TAIL. -/
  | db (link agent part target tail : Nat) (bad : Bool)
  /-- SIDEBAND_READ (R327): Vendor-defined 4-byte register read over the UCIe sideband. Operands: the host agent and the register's byte address in the window. -/
  | sidebandRead (agent addr : Nat)
  /-- SIDEBAND_WRITE (R327): Vendor-defined 4-byte register write over the UCIe sideband. Operands: as above. -/
  | sidebandWrite (agent addr : Nat) (value : Word)
  /-- RING_DOORBELL (R339): A write to LNT_RDBc tells firmware the channel's H2F ring has messages. Operands: the write to LNT_RDBc. -/
  | ringDoorbell (req : Requester) (channel : Nat)
  /-- INTR_HOLDOFF_END (R341): A source's HOLD_US ends and pending raises are delivered. -/
  | intrHoldoffEnd (source : Nat)
  /-- LNT_IVEC_WRITE (R341): A write of a vector entry; clearing MASK delivers a pending source. Operands: the write to LNT_IVEC of the source the requester shows. -/
  | lntIvecWrite (req : Requester) (value : Word)
  /-- ATTACH (R346): ATTACH message on channel 0 compares interface majors, or on channel p+1 attaches a partition. Operands: the channel, and the agent that wrote the ring. -/
  | attach (channel agent : Nat)
  /-- DETACH (R350): DETACH message starts a partition's silence, skipping grace with PARK_NOW. Operands: the channel whose H2F ring holds the message. -/
  | detach (channel : Nat)
  /-- QUERY_STATE (R345): Returns device state, partition state and silence phase. Operands: as above. -/
  | queryState (channel : Nat)
  /-- UNKNOWN_MESSAGE (R345): A message of unknown type or channel is answered with 0x0603 or discarded. Operands: as above. -/
  | unknownMessage (channel : Nat)
  /-- HEARTBEAT (R349): A write to LNT_HBp restarts the partition's heartbeat count. Operands: the write to LNT_HBp. -/
  | heartbeat (req : Requester) (part : Nat)
  /-- HEARTBEAT_TIMEOUT (R349): No heartbeat for LNT_HB_TMO ms; the partition's silence begins. Operands: the partition and the time since its last heartbeat. -/
  | heartbeatTimeout (part ms : Nat)
  /-- RING_FULL_SILENCE (R349): A completion or result ring stays full for PRT_SILENCE ms; the partition parks at once. Operands: the partition, the queue whose completion or result ring is full, and for how long. -/
  | ringFullSilence (part ring ms : Nat)
  /-- SILENCE_GRACE_END (R351): The grace ends and the partition and its READY sequences enter PARKED. Operands: the partition and how long it has been silent. -/
  | silenceGraceEnd (part ms : Nat)
  /-- RETAIN_EXPIRY (R354): The retain time ends with no reattach; the partition's sequences are released to the expiry list. Operands: the partition and how long it has been parked. -/
  | retainExpiry (part secs : Nat)
  /-- LINK_TRAIN (R360): QLK_CTRL.TRAIN starts training a DOWN link. Operands: the write of TRAIN to QLK_CTRL of the link the requester has selected. -/
  | linkTrain (req : Requester)
  /-- LINK_DISABLE (R360): A write of QLK_CTRL.DISABLE takes the link to DISABLED or releases it. Operands: the write of DISABLE. -/
  | linkDisable (req : Requester) (on : Bool)
  /-- TRAINING_DONE (R360): Training succeeds and the link enters KEYING. Operands: the link and how many of its two lane pairs trained. -/
  | trainingDone (link pairs : Nat)
  /-- TRAINING_TIMEOUT (R360): Training lasts 500 ms and the link goes down with cause 2. Operands: the link and how long it has trained. -/
  | trainingTimeout (link ms : Nat)
  /-- KEYING_TIMEOUT (R360): Keying lasts 20 ms and the link goes down with cause 6. Operands: the link and how long it has been keying. -/
  | keyingTimeout (link ms : Nat)
  /-- FRAME_RECEIVE (R364): A Quoin frame arrives; it is taken in if FEC, tag and FSEQ are good, else discarded with a NAK. Operands: the link, the frame's header fields, the codewords corrected, and its outcome. -/
  | frameReceive (link kind fseq fack rqh rqd mgt epoch corrected : Nat) (ackValid fecOk tagOk : Bool)
  /-- NAK_FRAME (R365): A NAK frame causes a resend from the named data frame under fresh counters. Operands: the link and the FSEQ it names. -/
  | nakFrame (link fseq : Nat)
  /-- RETRAIN_DONE (R361): A retrain ends; unacknowledged frames are resent, or three failures take the link down. -/
  | retrainDone (link : Nat) (ok : Bool)
  /-- LANE_DROP (R359): A lane fails or stays bad for 100 ms; the link retrains as DEGRADED or goes down. Operands: the link, the lane, how long it has been bad, and whether a lane pair is left. -/
  | laneDrop (link lane ms : Nat) (pairOk : Bool)
  /-- RRD (R371): Remote read request received and checked. Operands: the link and the fields of the header; bad: it reuses a TID still outstanding or has a refused field. -/
  | rrd (link tid src dst part len addr : Nat) (bad : Bool)
  /-- RWR (R371): Remote write request received and checked. Operands: as above, with the payload. -/
  | rwr (link tid src dst part addr : Nat) (data : List Byte) (bad : Bool)
  /-- RADD (R371): Remote add request received and checked. Operands: as above. -/
  | radd (link tid src dst part type addr : Nat) (data : List Byte) (bad : Bool)
  /-- OWNRD (R372): Owner-table read, nulling entries not owned by the local partition. Operands: as above. -/
  | ownrd (link tid src dst part len addr : Nat) (bad : Bool)
  /-- RACK (R373): Remote acknowledgement received into its reserved slot. Operands: the link and the fields of the response. -/
  | rack (link tid status : Nat)
  /-- RDAT (R373): Remote read data received into its reserved slot. Operands: as above. -/
  | rdat (link tid status : Nat) (data : List Byte)
  /-- KX_HELLO (R375): Key-exchange hello with nonce, device number and certificate chain. Operands: the link, the peer's device number and version, its root hash, and whether its chain checks. -/
  | kxHello (link peer version : Nat) (hash : List Byte) (chainOk : Bool)
  /-- KX_INIT (R375): Initiator's ML-KEM encapsulation key and signature. -/
  | kxInit (link : Nat) (sigOk : Bool)
  /-- KX_RESP (R375): Responder's ML-KEM ciphertext and signature; keys are derived. -/
  | kxResp (link : Nat) (sigOk : Bool)
  /-- KX_DONE (R375): First encrypted frame under new keys; the link enters UP or the epoch advances. -/
  | kxDone (link : Nat)
  /-- CREDIT_TIMEOUT (R368): REQ messages wait CRED_TMO µs with no credit; the link goes down with cause 4. Operands: the link and how long a request has waited with no credit. -/
  | creditTimeout (link us : Nat)
  /-- RESPONSE_TIMEOUT (R368): A request gets no response within RSP_TMO µs; the link goes down with cause 5. Operands: the link, the request and how long it has had no response. -/
  | responseTimeout (link tid us : Nat)
  /-- REKEY_DUE (R376): 2^31 frames or REKEY_S seconds pass and a rekey starts. Operands: the link and the age of its keys. -/
  | rekeyDue (link secs : Nat)
  /-- TAG_FAILURE_LIMIT (R377): More than 16 tag failures in 1 ms take the link down with cause 7. Operands: the link, and how many tags failed in how long. -/
  | tagFailureLimit (link count us : Nat)
  /-- SPARE_TRANSMITTER (R358): QLK_SPARE_CMD OP 0x1 replaces a lane's transmitter with a spare. Operands: the write to QLK_SPARE_CMD with OP 1. -/
  | spareTransmitter (req : Requester) (lane : Nat)
  /-- SPARE_RECEIVER (R358): QLK_SPARE_CMD OP 0x2 replaces a lane's receiver with a spare. Operands: the write to QLK_SPARE_CMD with OP 2. -/
  | spareReceiver (req : Requester) (lane : Nat)
  /-- SCRUB_SWEEP_START (R390): A scrub sweep starts every PERIOD_MS. Operands: the checker (block code and instance) and the time (ns). -/
  | scrubSweepStart (blk inst now : Nat)
  /-- SCRUB_VISIT (R391): The scrub visits a word or granule, correcting, poisoning or finding an Open fault and rotating reader sets. Operands: the local address of the word, the time (ns), and the stored bits that a fault has inverted. -/
  | scrubVisit (addr now : Nat) (fault : BitVec 72)
  /-- SCRUB_LATE (R390): A sweep has not ended at 0.9 × PERIOD_MS. Operands: the checker and the time (ns). -/
  | scrubLate (blk inst now : Nat)
  /-- OPEN_FAULT_MARK (R398): Sequences concerned by an Open fault are marked SUSPECT and prefix entries removed. Operands: which of the Open faults found and not yet marked. -/
  | openFaultMark (k : Nat)
  /-- SCRUB_RELOAD (R393): A faulty weight block is reloaded from the Footing copy. Operands: the local address of the block. -/
  | scrubReload (addr : Nat)
  /-- RELOAD_DONE (R393): A reload ends; on hash failure the slot becomes LOADING and RELOAD_FAIL is set. Operands: the block, whether its hash agrees after the reload, and the channels that deliver a unit of it poisoned. -/
  | reloadDone (addr : Nat) (ok : Bool) (ue : List Nat)
  /-- RELOAD_RETRY (R393): Every 1 s a failed reload is retried. Operands: the block. -/
  | reloadRetry (addr : Nat)
  /-- RECOMPUTE (R400): A SUSPECT sequence with no admitted step enters RECOVERING and is recomputed from P0. Operands: the sequence-table index. -/
  | recompute (seq : Nat)
  /-- RECOMPUTE_END (R400): Recomputation ends, clearing SUSPECT, or fails with 0x0403 leaving the sequence HELD. Operands: the sequence-table index. -/
  | recomputeEnd (seq : Nat)
  /-- IMAGE_CREATE (R409): FTG_IMG_CMD OP 1 reserves a directory entry in STAGING. Operands: the write to FTG_IMG_CMD with OP 1. -/
  | imageCreate (req : Requester) (kind owner : Nat)
  /-- SEAL (R411): FTG_IMG_CMD OP 2 starts verification of a staged image. Operands: the write to FTG_IMG_CMD with OP 2. -/
  | seal (req : Requester)
  /-- SEAL_DONE (R411): Verification ends; the image becomes SEALED or FREE with 0x0901. Operands: outcomes of Keystone's cryptographic checks of the image's bytes. -/
  | sealDone (image : Nat) (sigOk manifestOk hashesOk blocksOk : Bool)
  /-- IMAGE_DELETE (R412): FTG_IMG_CMD OP 3 deletes a sealed image unless in use. Operands: the write to FTG_IMG_CMD with OP 3. -/
  | imageDelete (req : Requester)
  /-- IMAGE_ABORT (R409): FTG_IMG_CMD OP 4 returns a staging image to FREE. Operands: the write to FTG_IMG_CMD with OP 4. -/
  | imageAbort (req : Requester)
  /-- STAGING_WRITE (R410): A write through the staging window lands in image units. Operands: the local address in the staging window and the bytes. -/
  | stagingWrite (req : Requester) (addr : Nat) (data : List Byte)
  /-- RETENTION_SAMPLE (R418): Each block is sampled per 7 days and after power-up, rewriting weak blocks. Operands: the channel and the corrections the block's worst codeword needed. -/
  | retentionSample (chan bits : Nat)
  /-- BLOCK_DEFECT (R418): A block fails to program or erase and is retired to a spare. -/
  | blockDefect (chan : Nat)
  /-- WATCHDOG_EXPIRY (R423): A core's watchdog is not written for TRW_WDT ms and it restarts. Operands: the core, how long its watchdog has not been written, the time (ns). -/
  | watchdogExpiry (core ms now : Nat)
  /-- CORE_EXCEPTION (R423): An unhandled exception or SRAM uncorrectable word restarts the core. Operands: the core, 2 (exception) or 3 (uncorrectable SRAM word), the address, the time. -/
  | coreException (core cause addr now : Nat)
  /-- CORE_RESTART_WRITE (R423): TRW_CORE_CTRL.RESTART restarts the selected core with cause 4. Operands: the write of RESTART to TRW_CORE_CTRL. -/
  | coreRestartWrite (req : Requester) (now : Nat)
  /-- CORE_RETIRE_WRITE (R428): TRW_CORE_CTRL.RETIRE retires the selected core. Operands: the write of RETIRE to TRW_CORE_CTRL. -/
  | coreRetireWrite (req : Requester)
  /-- RESTART_PHASE_END (R424): A restart phase finishes and the next begins, ending in rebuild and service. Operands: the load phase's image check; at the end of the rebuild the corrected words the journal read met, and its uncorrectable words: the place of the procedure in the core's journal and the word's address; the time (ns). -/
  | restartPhaseEnd (core : Nat) (imageOk : Bool) (journalCe : Nat) (journalBad : List (Nat × Nat)) (now : Nat)
  /-- RESTART_PHASE_OVERRUN (R424): A restart phase overruns its limit and the restart begins again with cause 8. -/
  | restartPhaseOverrun (core : Nat) (imageOk : Bool) (now : Nat)
  /-- CRASH_LOOP_RETIRE (R428): LOOP_COUNT restarts within LOOP_S retire the core and move its duties. -/
  | crashLoopRetire (core : Nat)
  /-- DUTY_MOVE (R422): A duty moves to another core after that core's rebuild. -/
  | dutyMove (duty core : Nat)
  /-- UNIT_AUDIT (R515): The once-per-second audit compares units' registers with journals and counters. Operands: the unit (block code and instance) and whether its registers agree with the journal and counters. -/
  | unitAudit (blk inst : Nat) (agrees : Bool)
  /-- RECONCILE (R517): The supervisor reconciles a quarantined unit or retires it. Operands: the unit and the outcomes of rewriting its registers, of its self-test and of a component reset. -/
  | reconcile (blk inst : Nat) (rewriteOk selfTestOk resetOk : Bool)
  /-- IDLE_SELFTEST (R132): A brick idle for 1 s runs its self-test, at most hourly. Operands: the brick, how long it has idled, the time since its last self-test, the outcome. -/
  | idleSelftest (brick idleMs sinceMs : Nat) (pass : Bool)
  /-- KEYSTONE_BOOT (R439): Keystone ROM loads fuses, forms identity, self-tests, mounts the Footing, checks images and starts T0. Operands: the outcomes of Keystone's steps, the hash of the identity, and the firmware images whose check passes. -/
  | keystoneBoot (fusesOk identityOk selfTestOk mountOk : Bool) (idHash : List Byte) (passing : List Nat)
  /-- BRINGUP (R440): T0 assigns duties; stacks, bricks, Yard, Lintel, links and Kiln start in parallel. Operands: what fails its self-test: stacks, physical bricks, physical slabs, Bond planes, Quoin dies, and whether the Lintel encoder check passes. -/
  | bringup (failedStacks failedBricks failedSlabs failedPlanes failedQuoins : List Nat) (encoderOk : Bool)
  /-- FILL_START (R441): Once every present stack has finished or failed self-test, the zero fill starts. -/
  | fillStart
  /-- STARTUP_RELEASE (R441): The fill ends; locks set, credits granted, FW_READY set and the device enters STANDBY. Operands: where firmware places channel 0: its rings' local addresses, the exchange area, and the log2 of the rings' sizes. -/
  | startupRelease (h2f f2h exch logH logF : Nat)
  /-- RELEASE_TIMEOUT (R443): Release is not reached within 2 s of T0's start and start-up fails. Operands: the time since T0 started. -/
  | releaseTimeout (ms : Nat)
  /-- WARM_RESET (R446): COMP_RESET of SEQ page 0 by a device-right holder starts a warm reset. Operands: the write of COMP_RESET to SEQ page 0. -/
  | warmReset (req : Requester)
  /-- WARM_RESET_DRAIN_END (R446): After at most 10 ms draining, the fill runs and release follows. Operands: how long it has drained. -/
  | warmResetDrainEnd (ms : Nat)
  /-- PARTITION_RESET (R447): COMP_RESET of a PRT instance halts and clears the partition and enters CONFIG. Operands: the write of COMP_RESET to PRT_CTRL of the partition the requester has selected. -/
  | partitionReset (req : Requester)
  /-- KS_CERTS (R458): Returns the device certificate chain. -/
  | ksCerts
  /-- KS_ATTEST (R471): Signs an attestation report for a partition. Operands: the signature Keystone forms. -/
  | ksAttest (sig : List Byte)
  /-- KS_BIND (R460): Binds an owner public key to a partition in CONFIG. -/
  | ksBind
  /-- GRANT_HOST_RIGHTS (R462): KS_GRANT of GKIND 1 replaces a partition's host-agent rights. Operands: whether the grant's signature checks under the bound key. -/
  | grantHostRights (sigOk : Bool)
  /-- GRANT_IMPORT (R468): KS_GRANT of GKIND 2 adds or removes an import entry for a remote partition. Operands: as above. -/
  | grantImport (sigOk : Bool)
  /-- GRANT_LOCK (R462): KS_GRANT of GKIND 3 locks the partition's PRT pages. Operands: as above. -/
  | grantLock (sigOk : Bool)
  /-- KS_PEER (R467): Sets the link peer policy, taking down links whose peer no longer qualifies. -/
  | ksPeer
  /-- KS_DEBUG (R470): Accepts a debug authorisation, opening test access. Operands: as above. -/
  | ksDebug (sigOk : Bool)
  /-- ACTIVATE (R475): Activates a sealed firmware image, one instance at a time. Operands: whether the image's check passes. -/
  | activate (checkOk : Bool)
  /-- ACTIVATION_INSTANCE (R476): The next instance pauses, switches image and resumes after its gap. Operands: whether the instance comes up on the new image, and how long it paused. -/
  | activationInstance (ok : Bool) (ms : Nat)
  /-- CONFIRM (R480): Fixes pending components, blowing anti-rollback fuses. -/
  | confirm
  /-- REVERT (R481): Falls back pending components to their old images. -/
  | revert
  /-- AUTOMATIC_FALLBACK (R481): A failing pending component starts a fallback of every pending component. Operands: the pending component that fails. -/
  | automaticFallback (component : Nat)
  /-- UPD_STATUS (R482): Returns the pending mask and running versions. -/
  | updStatus
  /-- SENSOR_SAMPLE (R487): Kiln samples a sensor, checks it and updates its region's reading. Operands: the sensor, its reading (0.25 °C units) and the time (ns). -/
  | sensorSample (sensor : Nat) (temp : Int) (now : Nat)
  /-- THROTTLE_REQ (R490): T3 sends a throttle request for a near onset to channel 0 and the partitions named. Operands: the region and the reduction T3 asks for. -/
  | throttleReq (region amount now : Nat)
  /-- THROTTLE_ACK (R490): The host's acknowledgement is recorded in KLN_ACKED. Operands: the channel whose H2F ring holds the acknowledgement. -/
  | throttleAck (chan : Nat)
  /-- THERMAL_GRACE_END (R491): A region's grace ends and enforcement begins unless the reading is 3 °C below near. -/
  | thermalGraceEnd (region now : Nat)
  /-- ENFORCEMENT_STEP (R491): Every 10 ms an enforced die's ceiling falls a further 100 MHz while hot. -/
  | enforcementStep (region now : Nat)
  /-- NEAR_END (R489): A region's reading stays 3 °C below near for 100 ms and it stops being near. -/
  | nearEnd (region now : Nat)
  /-- POWER_BUDGET_SAMPLE (R492): The 10 ms input power is compared with the permitted power, starting near, enforcement or easing. Operands: input power in W averaged over 10 ms, and the input and coolant as sensed. -/
  | powerBudgetSample (w10ms vin flow tInlet now : Nat)
  /-- POWER_CEILING_STEP (R492): Under power enforcement the power ceiling falls 100 MHz every 1 ms. -/
  | powerCeilingStep (now : Nat)
  /-- CLAMP_RELEASE (R493): A clamp's reading stays 5 °C below for 10 ms and the clamp is released. Operands: the region (28 is power). -/
  | clampRelease (region now : Nat)
  /-- CLOCK_RAMP_STEP (R493): After a clamp release the clock rises 100 MHz every 100 µs. -/
  | clockRampStep (die now : Nat)
  /-- THERMAL_TRIP (R494): A region at its trip temperature for 1 ms causes shutdown with cause 0x07. -/
  | thermalTrip (region now : Nat)
  /-- SENSOR_FLAG_CLEAR (R496): The Trowel complex writes 1 to clear a sensor flag. Operands: the write to KLN_SENSFAULTk. -/
  | sensorFlagClear (req : Requester) (k : Nat) (value : Word)
  /-- CEIL_MHZ_WRITE (R491): A write of a die's enforcement ceiling, stored within the easing limit. Operands: the write to KLN_CLKd and the time (ns). -/
  | ceilMhzWrite (req : Requester) (die : Nat) (value : Word) (now : Nat)
  /-- KLN_STK_LEVEL_WRITE (R491): A write of stack levels, stored no lower than the reading requires. Operands: the write to KLN_STK_LEVEL and the time (ns). -/
  | klnStkLevelWrite (req : Requester) (value : Word) (now : Nat)
  /-- EP_WINDOW_END (R500): At each energy-profile window's end T3 adjusts the profile ceiling. Operands: input energy of the window, mJ. -/
  | epWindowEnd (mJ : Nat)
  /-- RECOVERY_COMPLETE (R509): No sequence remains RECOVERING and the partition returns to ACTIVE. -/
  | recoveryComplete (part : Nat)
  /-- LIVE_RELEASE (R510): Under LIVE a damaged sequence is released with a LOST record once it has no admitted step. Operands: the sequence-table index. -/
  | liveRelease (seq : Nat)
  /-- STACK_LOST (R512): A stack leaves ready or quiesced unbidden; pool entries, slots and sequences using it are affected. -/
  | stackLost (stack : Nat)
  /-- VIN_PRSNT_MATE (R21): The short presence contact VIN_PRSNT_N mates and the hot-swap stage stops holding the input disconnected. -/
  | vinPrsntMate
  /-- INPUT_BELOW_30_V (R29): The input falls below 30 V, the sequencer stops, and the latched power status word with its shutdown cause is lost. -/
  | inputBelow30V (vin : Nat)
  /-- COLD_RESET_N_RISE (R445): COLD_RESET_N rises after a cold reset and boot resumes, reaching STANDBY 362 ms later. -/
  | coldResetNRise
  /-- UCIE_RETRAIN_END (R333): A UCIe link retrain ends; unacknowledged flits are resent, or a third failure takes the link down. -/
  | ucieRetrainEnd (link : Nat) (ok : Bool)
  /-- HOST_LINK_RETURN (R350): A down host link is back, ending a silence whose cause was the link. Operands: the link that trained again. -/
  | hostLinkReturn (link : Nat)
  /-- COUNTER_EXHAUSTED (R376): A direction's TXCTR reaches 2^32 under one key and the link goes down with cause 8. -/
  | counterExhausted (link : Nat)
  /-- SLOT_WINDOW_START (R288): The period counter reaches a slot's START_US; the slot becomes active and its class is granted. -/
  | slotWindowStart (part slot : Nat)
  /-- FOOTING_DIE_FAIL (R419): A Footing NAND die fails; images with units on it become partly unreadable and DIE_FAIL is set. Operands: the die and the images with units on it. -/
  | footingDieFail (chan die : Nat) (images : List Nat)
deriving DecidableEq, Repr

end Sys2Proof
end

