-- ==== Sys2Proof/Machine/Maps.lean ====
section
/-! DEFINITION. Sparse maps held as sorted lists in one canonical form: keys strictly rising, no entry equal to the default
of its key. Equal maps are equal lists. Plain integer and byte helpers stand beside them. -/

namespace Sys2Proof.Machine

/-- Read key `k`; an unlisted key reads as its default. -/
def smGet {α : Type} (d : Nat → α) : List (Nat × α) → Nat → α
  | [], k => d k
  | (j, v) :: m, k => if k = j then v else smGet d m k

/-- Remove key `k` from a sorted list. -/
def smDel {α : Type} : List (Nat × α) → Nat → List (Nat × α)
  | [], _ => []
  | (j, v) :: m, k => if k = j then m else (j, v) :: smDel m k

/-- Put `v` at key `k` of a sorted list, whatever stood there. -/
def smPut {α : Type} : List (Nat × α) → Nat → α → List (Nat × α)
  | [], k, v => [(k, v)]
  | (j, w) :: m, k, v =>
    if k = j then (k, v) :: m else if k < j then (k, v) :: (j, w) :: m else (j, w) :: smPut m k v

/-- Write `v` at key `k`, keeping the canonical form: the default's value removes the entry. -/
def smSet {α : Type} [DecidableEq α] (d : Nat → α) (m : List (Nat × α)) (k : Nat) (v : α) : List (Nat × α) :=
  if v = d k then smDel m k else smPut m k v

/-- Keys strictly rise. -/
def smSorted {α : Type} : List (Nat × α) → Bool
  | [] => true
  | [_] => true
  | (j, _) :: (k, w) :: m => j < k && smSorted ((k, w) :: m)

/-- The canonical form: keys strictly rise and no entry equals its default. -/
def smWf {α : Type} [DecidableEq α] (d : Nat → α) (m : List (Nat × α)) : Bool :=
  smSorted m && m.all (fun e => decide (e.2 ≠ d e.1))

/-- Bit `i` of a number. -/
def nbit (n i : Nat) : Bool := (n / 2 ^ i) % 2 == 1

/-- Bits [hi:lo] of a number. -/
def nbits (n hi lo : Nat) : Nat := (n / 2 ^ lo) % 2 ^ (hi + 1 - lo)

/-- Set or clear bit `i` of a number. -/
def nsetBit (n i : Nat) (b : Bool) : Nat :=
  if b then (if nbit n i then n else n + 2 ^ i) else (if nbit n i then n - 2 ^ i else n)

/-- How many of the lowest `w` bits are set. -/
def npop : Nat → Nat → Nat
  | _, 0 => 0
  | n, w + 1 => n % 2 + npop (n / 2) w

/-- The numbers i below `w` whose bit is set in `n`, in rising order. -/
def bitsOf (n w : Nat) : List Nat := (List.range w).filter (nbit n)

/-- A number as `n` bytes, least significant first (R14). -/
def leBytes : Nat → Nat → List Byte
  | _, 0 => []
  | v, n + 1 => BitVec.ofNat 8 v :: leBytes (v / 256) n

/-- The number that bytes spell, least significant first (R14). -/
def leNat : List Byte → Nat
  | [] => 0
  | b :: bs => b.toNat + 256 * leNat bs

/-- Clamp `v` to lie between `lo` and `hi`. -/
def clampN (lo hi v : Nat) : Nat := if v < lo then lo else if hi < v then hi else v

/-- A number read as a signed value of `w` bits. -/
def signedN (w v : Nat) : Int := if v % 2 ^ w < 2 ^ (w - 1) then (v % 2 ^ w : Nat) else (v % 2 ^ w : Nat) - (2 ^ w : Nat)

/-- Bytes `[off, off + n)` of a byte list, zeros beyond its end. -/
def sliceB (bs : List Byte) (off n : Nat) : List Byte := (List.range n).map (fun i => (bs[off + i]?).getD 0)

/-- The little-endian field of `n` bytes at byte `off` of a byte list. -/
def fieldB (bs : List Byte) (off n : Nat) : Nat := leNat (sliceB bs off n)

/-- Bytes of a record of length `len` whose listed fields (offset, size, value) are set and whose other bytes are zero. -/
def recB (len : Nat) (fs : List (Nat × Nat × Nat)) : List Byte :=
  (List.range len).map fun i =>
    match fs.find? (fun f => f.1 ≤ i && i < f.1 + f.2.1) with
    | some f => BitVec.ofNat 8 (f.2.2 / 256 ^ (i - f.1))
    | none => 0

/-! ## Lists without repeats -/

/-- The elements of a list, each once, in the order of their first places. -/
def uniq {α : Type} [DecidableEq α] : List α → List α
  | [] => []
  | x :: xs => x :: (uniq xs).filter fun y => y ≠ x

end Sys2Proof.Machine
end

