-- ==== Sys2Proof/Machine/Keccak.lean ====
section
/-! DEFINITION. The hashes the spec names: SHAKE128 for block hashes and the selector (R205, R211), SHA3-256 for manifests, measurements
and objects (R411, R456, R461), SHAKE256 for the Footing's keys (R469). All three are one sponge over 1,600 bits, held as 25 lanes of 64
bits, lane x + 5y. -/

namespace Sys2Proof.Machine

/-- Lane `i` of a sponge. -/
def lane (a : List Nat) (i : Nat) : Nat := a.getD i 0

/-- Turn a lane left by `r` places. -/
def laneTurn (v r : Nat) : Nat := (v * 2 ^ r + v / 2 ^ (64 - r)) % 2 ^ 64

/-- The register that the round constants are read from: eight bits, with feedback at 0, 4, 5 and 6. -/
def spongeTap (r : Nat) : Nat := if r < 128 then 2 * r else (2 * r) ^^^ 0x171

/-- A round's constant: the register's lowest bit at seven steps gives bits 0, 1, 3, 7, 15, 31 and 63. -/
def spongeConst : Nat → Nat → Nat → Nat × Nat
  | 0, _, r => (0, r)
  | n + 1, place, r =>
    let rest := spongeConst n (2 * place + 1) (spongeTap r)
    (r % 2 * 2 ^ place + rest.1, rest.2)

/-- The constants of `n` rounds, from a state of the register. -/
def spongeConsts : Nat → Nat → List Nat
  | 0, _ => []
  | n + 1, r => (spongeConst 7 0 r).1 :: spongeConsts n (spongeConst 7 0 r).2

/-- The path over the lanes: from (x, y) to (y, 2x + 3y). The lane at its place t goes to place t + 1, turned by (t + 1)(t + 2)/2. Each entry
is where a lane goes, where it comes from, and by how much it turns. -/
def spongePath : Nat → Nat → Nat → Nat → List (Nat × Nat × Nat)
  | 0, _, _, _ => []
  | n + 1, t, x, y =>
    let y' := (2 * x + 3 * y) % 5
    (y + 5 * y', x + 5 * y, (t + 1) * (t + 2) / 2 % 64) :: spongePath n (t + 1) y y'

/-- By lane: which lane it takes and how far that one turns. -/
def spongeMoves : List (Nat × Nat) := (List.range 25).map fun i =>
  match (spongePath 24 0 1 0).find? fun e => e.1 = i with
  | some e => e.2
  | none => (i, 0)

/-- One round: every column's parity is folded into its neighbours, the lanes are moved and turned, each row is mixed, and the constant
enters lane 0. -/
def spongeRound (a : List Nat) (k : Nat) : List Nat :=
  let parity := (List.range 5).map fun x => (List.range 5).foldl (fun v y => v ^^^ lane a (x + 5 * y)) 0
  let fold := (List.range 5).map fun x => lane parity ((x + 4) % 5) ^^^ laneTurn (lane parity ((x + 1) % 5)) 1
  let moved := spongeMoves.map fun e => laneTurn (lane a e.1 ^^^ lane fold (e.1 % 5)) e.2
  let mixed := (List.range 25).map fun i =>
    let next (j : Nat) : Nat := lane moved ((i % 5 + j) % 5 + i / 5 * 5)
    lane moved i ^^^ (next 2 - (next 1 &&& next 2))
  (lane mixed 0 ^^^ k) :: mixed.drop 1

/-- The permutation: 24 rounds. -/
def spongeMix (a : List Nat) : List Nat := (spongeConsts 24 1).foldl spongeRound a

/-- Take in the blocks of a padded message, `rate` bytes each. -/
def spongeIn (rate : Nat) : Nat → List Nat → List Byte → List Nat
  | 0, a, _ => a
  | n + 1, a, m => spongeIn rate n (spongeMix ((List.range 25).map fun i =>
      if 8 * i < rate then lane a i ^^^ fieldB m (8 * i) 8 else lane a i)) (m.drop rate)

/-- A message with its padding: the domain byte first, and the last byte's top bit set. -/
def spongePadded (rate dom : Nat) (m : List Byte) : List Byte :=
  let gap := rate - m.length % rate
  m ++ (if gap = 1 then [BitVec.ofNat 8 (dom + 128)]
    else BitVec.ofNat 8 dom :: List.replicate (gap - 2) 0#8 ++ [0x80#8])

/-- The bytes of `n` blocks read out. -/
def spongeOut (rate : Nat) : Nat → List Nat → List Byte
  | 0, _ => []
  | n + 1, a => ((a.flatMap fun v => leBytes v 8).take rate) ++ spongeOut rate n (spongeMix a)

/-- `len` bytes of the sponge's output for a message. -/
def sponge (rate dom : Nat) (m : List Byte) (len : Nat) : List Byte :=
  let a := spongeIn rate (m.length / rate + 1) (List.replicate 25 0) (spongePadded rate dom m)
  (spongeOut rate ((len + rate - 1) / rate) a).take len

/-- `len` bytes of SHAKE128 of a message. -/
def shake128 (m : List Byte) (len : Nat) : List Byte := sponge 168 0x1F m len

/-- `len` bytes of SHAKE256 of a message. -/
def shake256 (m : List Byte) (len : Nat) : List Byte := sponge 136 0x1F m len

/-- SHA3-256 of a message. -/
def sha3 (m : List Byte) : List Byte := sponge 136 0x06 m 32

end Sys2Proof.Machine
end

