-- ==== Sys2Proof/Config.lean ====
section
/-! DEFINITION. What an implementation fixes and the values the spec leaves open. Every constant here is opaque: nothing
in Lean can evaluate it, so no statement can lean on a value of it. -/

namespace Sys2Proof

/-- The boot nonce of R470, "a random value drawn at each cold reset": the free value of the n-th draw (State.freeCount
counts the draws). -/
opaque Config.bootNonce : Nat → BitVec 64

/-- A free word: the n-th value the spec leaves open (State.freeCount counts the draws). -/
opaque Config.freeWord : Nat → BitVec 64

/-- Which of the values within a function's error bound the device delivers (R117, R119, R177, R205): the function's number and its
operands. The spec gives the bound and no more. -/
opaque Config.ulpPick : Nat → List Nat → Nat

/-- Which of the phase errors below 2⁻²⁴ rad the rotary circuit has (R119): base, scale, dimensions, pair and position. -/
opaque Config.phasePick : List Nat → Nat

/-- What an element function of the vector unit gives where its formula has no value or an operand is infinite, which the spec does
not say: the function's number and its operands. -/
opaque Config.vecFn : Nat → List Nat → BitVec 32

/-- What a row function gives where its formula has no value (Table 4-8): the function, the row's elements with ε and the statistics, and
the element asked for. -/
opaque Config.rowFn : Nat → List Nat → Nat → BitVec 32

/-- Does `NAPPLY` apply `LNORM`'s formula to its statistics, or `RMSNORM`'s? Table 4-8 says "`LNORM` or `RMSNORM`" and no field of the
instruction says which. -/
opaque Config.napplyCentres : Bool

/-- Cycles from a first early read to the halt under TRAP: R147 says "within 4 cycles". The brick and the cycle of the event. -/
opaque Config.trapDelay : Nat → Nat → Nat

/-- Spare blocks the Footing was made with (`FTG_SPARE`, "per device"). -/
opaque Config.footingSpares : Nat

/-- The rotation ρ of R252, "fixed in the device", of which the spec gives only that it depends on its argument. -/
opaque Config.slabRotation : Nat → Nat

end Sys2Proof
end

