-- ==== Sys2Proof/Machine/RegTable.lean ====
section
/-! DEFINITION. The register table: every register the spec's register tables give the block (chapters 3 to 20), with its
address (page times 0x1000 plus offset), how many consecutive registers it names, how its copies are told apart, its reset
value, and the masks of its access codes (Table 2-1). Fields are named here once. -/

namespace Sys2Proof.Machine

/-- One field of a register: the register's address (page · 0x1000 + offset) and its bits [hi:lo]. -/
structure Fld where
  addr : Nat
  hi : Nat
  lo : Nat
deriving DecidableEq, Repr

/-- How the copies of a register are told apart (R49, R50 and the index registers of each chapter). -/
inductive Dim where
  | single | inst | reqr | queue | param | view | seqPart | yardPart | block | channel | isrc | sidx | granule
  | cytSlot | image | imprt
deriving DecidableEq, Repr

/-- One register of a field table: masks by access code of Table 2-1; `trowel` and `keystone` mask the fields only
those requesters write. -/
structure RegRow where
  addr : Nat
  count : Nat
  dim : Dim
  reset : Nat
  rw : Nat
  w1c : Nat
  w1s : Nat
  rc : Nat
  wo : Nat
  trowel : Nat
  keystone : Nat
deriving DecidableEq, Repr

/-- The registers of the KST block. -/
def regRowsKst : List RegRow := [
  ⟨0x40, 1, .single, 0, 0, 0, 0, 0, 0, 0, 0⟩,
  ⟨0x44, 1, .single, 0, 0, 0, 0, 0, 0, 0, 0⟩,
  ⟨0x48, 1, .single, 0, 0, 0, 0, 0, 0, 0, 0⟩,
  ⟨0x4c, 1, .single, 0, 0, 0, 0, 0, 0, 0, 0⟩,
  ⟨0x50, 1, .single, 0, 0, 0, 0, 0, 0, 0, 0⟩,
  ⟨0x60, 8, .single, 0, 0, 0, 0, 0, 0, 0, 0⟩,
  ⟨0x80, 8, .single, 0, 0, 0, 0, 0, 0, 0, 0⟩,
  ⟨0x1040, 64, .single, 0, 0, 0, 0, 0, 0, 0, 0⟩,
  ⟨0x1140, 256, .single, 0, 0, 0, 0, 0, 0, 0, 0⟩,
  ⟨0x2040, 1, .single, 0, 0, 0, 0, 0, 0, 0, 0⟩,
  ⟨0x2044, 1, .single, 0, 0, 0, 0, 0, 0, 0, 0⟩,
  ⟨0x2048, 1, .single, 0, 0, 0, 0, 0, 0, 0, 0⟩,
  ⟨0x204c, 1, .single, 0, 0, 0, 0, 0, 0, 0, 0⟩,
  ⟨0x2050, 1, .single, 0, 0, 0, 0, 0, 0, 0, 0⟩,
  ⟨0x3040, 512, .single, 0, 0, 0, 0, 0, 0, 0, 0⟩,
  ⟨0x3840, 64, .single, 0, 0, 0, 0, 0, 0, 0, 0⟩,
  ⟨0x3940, 32, .single, 0, 0, 0, 0, 0, 0, 0, 0⟩,
  ⟨0x3a00, 256, .single, 0, 0, 0, 0, 0, 0, 0, 0⟩,
  ⟨0x3e00, 1, .single, 1, 0, 0, 0, 0, 0, 0, 0⟩,
  ⟨0x3e04, 1, .single, 0, 0, 0, 0, 0, 0, 0, 0⟩,
  ⟨0x4040, 4, .single, 0, 0, 0, 0, 0, 0, 0, 0⟩,
  ⟨0x4050, 1, .single, 0, 0, 0, 0, 0, 0, 0, 0⟩,
  ⟨0x4060, 4, .single, 0, 0, 0, 0, 0, 0, 0, 0⟩,
  ⟨0x4070, 4, .single, 0, 0, 0, 0, 0, 0, 0, 0⟩,
  ⟨0x5040, 1, .single, 0, 0, 0, 0, 0, 0, 0, 0⟩,
  ⟨0x5048, 1, .single, 0, 0, 0, 0, 0, 0, 0, 0⟩,
  ⟨0x504c, 1, .single, 0, 0, 0, 0, 0, 0, 0, 0⟩]

/-- The registers of the TRW block. -/
def regRowsTrw : List RegRow := [
  ⟨0x10040, 1, .inst, 0, 0, 0, 0, 0, 0, 0, 0⟩,
  ⟨0x10044, 1, .inst, 0, 0, 0, 0xc0000000, 0, 0, 0x40000000, 0⟩,
  ⟨0x10048, 1, .inst, 0, 0, 0, 0, 0, 0, 0, 0⟩,
  ⟨0x1004c, 1, .inst, 5, 0xf, 0, 0, 0, 0, 0xf, 0⟩,
  ⟨0x11040, 1, .inst, 0, 0, 0, 0, 0, 0, 0, 0⟩,
  ⟨0x11044, 1, .inst, 0, 0, 0, 0, 0, 0, 0, 0⟩,
  ⟨0x11048, 1, .inst, 0, 0, 0, 0, 0xffffffff, 0, 0, 0⟩,
  ⟨0x1104c, 1, .inst, 0, 0, 0, 0, 0, 0, 0, 0⟩,
  ⟨0x11050, 1, .inst, 0, 0, 0, 0, 0, 0, 0, 0⟩,
  ⟨0x12040, 1, .single, 0x6543210, 0, 0, 0, 0, 0, 0, 0⟩,
  ⟨0x12044, 1, .single, 0x30a, 0xffff, 0, 0, 0, 0, 0xffff, 0⟩,
  ⟨0x12048, 1, .single, 0, 0, 0, 0, 0xffff, 0, 0, 0⟩]

/-- The registers of the KLN block. -/
def regRowsKln : List RegRow := [
  ⟨0x20040, 1, .single, 0x5f696e00, 0, 0, 0, 0, 0, 0, 0⟩,
  ⟨0x20044, 1, .single, 0x58616658, 0, 0, 0, 0, 0, 0, 0⟩,
  ⟨0x20048, 1, .single, 0x5f696e00, 0, 0, 0, 0, 0, 0, 0⟩,
  ⟨0x2004c, 1, .single, 0, 0, 0, 0, 0, 0, 0, 0⟩,
  ⟨0x20050, 1, .single, 0, 0, 0, 0, 0, 0, 0, 0⟩,
  ⟨0x20054, 1, .single, 0, 0, 0, 0, 0xffffffff, 0, 0, 0⟩,
  ⟨0x20058, 1, .single, 0, 0, 0, 0, 0, 0, 0, 0⟩,
  ⟨0x21040, 1, .single, 0, 0x7f, 0, 0, 0, 0, 0, 0⟩,
  ⟨0x21080, 32, .view, 0, 0, 0, 0, 0, 0, 0, 0⟩,
  ⟨0x22040, 67, .single, 0, 0, 0xffffffff, 0, 0, 0, 0xffffffff, 0⟩,
  ⟨0x22150, 1, .single, 0, 0, 0, 0, 0, 0, 0, 0⟩,
  ⟨0x22154, 1, .single, 0, 0, 0, 0, 0, 0, 0, 0⟩,
  ⟨0x23040, 8, .single, 0x7d007d0, 0xfff, 0, 0, 0, 0, 0xfff, 0⟩,
  ⟨0x23060, 1, .single, 0, 0xffffffff, 0, 0, 0, 0, 0xffffffff, 0⟩,
  ⟨0x23064, 1, .single, 0x7d0, 0, 0, 0, 0, 0, 0, 0⟩,
  ⟨0x23068, 1, .single, 0, 0, 0, 0, 0, 0, 0, 0⟩,
  ⟨0x2306c, 1, .single, 0, 0, 0, 0, 0, 0, 0, 0⟩,
  ⟨0x23070, 1, .single, 0, 0, 0, 0, 0, 0, 0, 0⟩,
  ⟨0x23074, 1, .single, 0, 0, 0, 0, 0, 0, 0, 0⟩,
  ⟨0x23078, 1, .single, 0, 0, 0, 0, 0, 0, 0, 0⟩,
  ⟨0x2307c, 1, .single, 0x7d0, 0, 0, 0, 0, 0, 0, 0⟩,
  ⟨0x24040, 1, .single, 0x64, 0x8000ffff, 0, 0, 0, 0, 0, 0⟩,
  ⟨0x24044, 1, .single, 0, 0xffff, 0, 0, 0, 0, 0, 0⟩,
  ⟨0x24048, 1, .single, 0x3e8, 0xfff, 0, 0, 0, 0, 0, 0⟩,
  ⟨0x2404c, 1, .single, 0, 0, 0, 0, 0, 0, 0, 0⟩,
  ⟨0x24050, 1, .single, 0, 0, 0, 0, 0, 0, 0, 0⟩]

/-- The registers of the LNT block. -/
def regRowsLnt : List RegRow := [
  ⟨0x30040, 1, .single, 0, 0, 0, 0, 0, 0, 0, 0⟩,
  ⟨0x30044, 1, .single, 0, 0xffffffff, 0, 0, 0, 0, 0xffffffff, 0⟩,
  ⟨0x30048, 1, .single, 0, 0xffffffff, 0, 0, 0, 0, 0, 0⟩,
  ⟨0x3004c, 1, .single, 0, 0, 0, 0, 0, 0, 0, 0⟩,
  ⟨0x30050, 1, .single, 0x80200800, 0, 0, 0, 0, 0, 0, 0⟩,
  ⟨0x30054, 1, .single, 0, 0, 0, 0, 0xffffffff, 0, 0, 0⟩,
  ⟨0x30058, 1, .single, 0, 0, 0, 0, 0xffffffff, 0, 0, 0⟩,
  ⟨0x3005c, 1, .single, 0, 0, 0, 0, 0xffffffff, 0, 0, 0⟩,
  ⟨0x30060, 1, .single, 0, 0, 0, 0, 0, 0, 0, 0⟩,
  ⟨0x31040, 256, .single, 0, 0, 0, 0, 0, 0xffff, 0, 0⟩,
  ⟨0x31440, 33, .single, 0, 0, 0, 0, 0, 0xffffffff, 0, 0⟩,
  ⟨0x32040, 1, .reqr, 0, 0x1ff, 0, 0, 0, 0, 0, 0⟩,
  ⟨0x32044, 1, .isrc, 0, 0xc007ffff, 0, 0, 0, 0, 0, 0⟩,
  ⟨0x32080, 16, .view, 0, 0, 0, 0, 0, 0, 0, 0⟩,
  ⟨0x33040, 1, .reqr, 0, 0x3f, 0, 0, 0, 0, 0, 0⟩,
  ⟨0x33044, 1, .channel, 0, 0xffffffc0, 0, 0, 0, 0, 0, 0⟩,
  ⟨0x33048, 1, .channel, 0, 0xfff, 0, 0, 0, 0, 0, 0⟩,
  ⟨0x3304c, 1, .channel, 0, 0xf, 0, 0, 0, 0, 0, 0⟩,
  ⟨0x33050, 1, .channel, 0, 0xffffffc0, 0, 0, 0, 0, 0, 0⟩,
  ⟨0x33054, 1, .channel, 0, 0xfff, 0, 0, 0, 0, 0, 0⟩,
  ⟨0x33058, 1, .channel, 0, 0xf, 0, 0, 0, 0, 0, 0⟩,
  ⟨0x3305c, 1, .channel, 0, 0, 0, 0, 0, 0, 0, 0⟩,
  ⟨0x34040, 32, .single, 0, 0, 0, 0, 0, 0xffffffff, 0, 0⟩,
  ⟨0x340c0, 1, .single, 0xfa, 0xffff, 0, 0, 0, 0, 0, 0⟩,
  ⟨0x340c4, 1, .single, 0, 0, 0, 0, 0, 0, 0, 0⟩,
  ⟨0x340c8, 1, .single, 0, 0, 0, 0, 0, 0, 0, 0⟩,
  ⟨0x340cc, 1, .single, 0, 0, 0, 0, 0, 0, 0, 0⟩,
  ⟨0x340d0, 1, .reqr, 0, 0x1f, 0, 0, 0, 0, 0, 0⟩,
  ⟨0x340d4, 1, .sidx, 0, 0, 0, 0, 0, 0, 0, 0⟩,
  ⟨0x340d8, 1, .sidx, 0, 0, 0, 0, 0, 0, 0, 0⟩]

/-- The registers of the FTG block. -/
def regRowsFtg : List RegRow := [
  ⟨0x40040, 1, .single, 0, 0, 0, 0, 0, 0, 0, 0⟩,
  ⟨0x40044, 1, .reqr, 0, 0xfff, 0, 0, 0, 0, 0, 0⟩,
  ⟨0x40048, 1, .single, 0, 0, 0, 0, 0, 0xfdf00000, 0, 0⟩,
  ⟨0x4004c, 1, .image, 0, 0, 0, 0, 0, 0, 0, 0⟩,
  ⟨0x40050, 1, .image, 0, 0xffffffff, 0, 0, 0, 0, 0, 0⟩,
  ⟨0x40054, 1, .image, 0, 0xfff, 0, 0, 0, 0, 0, 0⟩,
  ⟨0x40058, 1, .reqr, 0, 0xfff00ff, 0, 0, 0, 0, 0, 0⟩,
  ⟨0x4005c, 1, .single, 0, 0, 0, 0, 0, 0, 0, 0⟩,
  ⟨0x40060, 1, .single, 0, 0, 0, 0, 0, 0, 0, 0⟩,
  ⟨0x40064, 1, .single, 0, 0, 0, 0, 0, 0, 0, 0⟩,
  ⟨0x40068, 1, .single, 0, 0, 0, 0, 0, 0, 0, 0⟩,
  ⟨0x41040, 1, .inst, 0, 0, 0, 0, 0, 0, 0, 0⟩,
  ⟨0x41044, 1, .inst, 0, 0, 0, 0, 0, 0, 0, 0⟩,
  ⟨0x41048, 1, .inst, 0, 0, 0, 0, 0xffffffff, 0, 0, 0⟩,
  ⟨0x4104c, 1, .inst, 0, 0, 0, 0, 0xffffffff, 0, 0, 0⟩,
  ⟨0x41050, 1, .inst, 0, 0, 0, 0, 0xffffffff, 0, 0, 0⟩,
  ⟨0x42040, 1, .single, 0, 0, 0, 0, 0, 0, 0, 0⟩,
  ⟨0x42044, 1, .single, 0, 0, 0, 0, 0, 0, 0, 0⟩,
  ⟨0x42048, 1, .single, 0, 0, 0, 0, 0, 0, 0, 0⟩,
  ⟨0x4204c, 1, .single, 0x100, 0xfffff, 0, 0, 0, 0, 0xfffff, 0⟩,
  ⟨0x42050, 1, .single, 0, 0, 0, 0, 0, 0, 0, 0⟩,
  ⟨0x42054, 1, .single, 0x60, 0xff, 0, 0, 0, 0, 0xff, 0⟩]

/-- The registers of the REG block. -/
def regRowsReg : List RegRow := [
  ⟨0x100040, 1, .reqr, 0, 0x7fff, 0, 0, 0, 0, 0, 0⟩,
  ⟨0x100048, 1, .granule, 0, 0xffffffff, 0, 0, 0, 0, 0, 0⟩,
  ⟨0x10004c, 1, .granule, 0x20000000, 0xffffffff, 0, 0, 0, 0, 0, 0⟩,
  ⟨0x100050, 1, .single, 0, 0, 0, 0, 0, 0, 0, 0⟩,
  ⟨0x100054, 1, .single, 0, 0, 0, 0, 0, 0, 0, 0⟩,
  ⟨0x101040, 1, .single, 0xe10, 0xfff, 0, 0, 0, 0, 0xfff, 0⟩,
  ⟨0x101044, 1, .single, 0, 0, 0, 0, 0, 0, 0, 0⟩,
  ⟨0x101048, 1, .single, 0, 0, 0, 0, 0xffff, 0, 0, 0⟩,
  ⟨0x10104c, 1, .single, 0, 0, 0, 0, 0xffffffff, 0, 0, 0⟩,
  ⟨0x101050, 1, .single, 0, 0, 0, 0, 0xffffffff, 0, 0, 0⟩,
  ⟨0x101054, 1, .single, 0, 0, 0, 0, 0xffffffff, 0, 0, 0⟩,
  ⟨0x101058, 1, .single, 0, 0, 0, 0, 0xffffffff, 0, 0, 0⟩,
  ⟨0x10105c, 1, .single, 0, 0, 0, 0, 0, 0, 0, 0⟩,
  ⟨0x101060, 1, .single, 0, 0, 0, 0, 0, 0, 0, 0⟩,
  ⟨0x101064, 1, .single, 0, 0, 0, 0, 0xffffffff, 0, 0, 0⟩,
  ⟨0x101068, 1, .single, 0, 0, 0, 0, 0xffffffff, 0, 0, 0⟩]

/-- The registers of the YRD block. -/
def regRowsYrd : List RegRow := [
  ⟨0x110040, 1, .reqr, 0, 0x7fff, 0, 0, 0, 0, 0, 0⟩,
  ⟨0x110044, 1, .block, 0, 0xff000000, 0, 0, 0, 0, 0xff000000, 0⟩,
  ⟨0x110048, 1, .single, 0, 0, 0, 0, 0, 0, 0, 0⟩,
  ⟨0x11004c, 1, .single, 0xc00400, 0x3ff07ff, 0, 0, 0, 0, 0x3ff07ff, 0⟩,
  ⟨0x110050, 1, .single, 0x100, 0, 0, 0, 0, 0, 0, 0⟩,
  ⟨0x110054, 1, .single, 0x800400, 0x3ff07ff, 0, 0, 0, 0, 0x3ff07ff, 0⟩,
  ⟨0x110058, 1, .single, 0x800400, 0x3ff07ff, 0, 0, 0, 0, 0x3ff07ff, 0⟩,
  ⟨0x11005c, 1, .single, 0x800400, 0x3ff07ff, 0, 0, 0, 0, 0x3ff07ff, 0⟩,
  ⟨0x110060, 1, .single, 0x200400, 0x3ff07ff, 0, 0, 0, 0, 0x3ff07ff, 0⟩,
  ⟨0x110064, 1, .single, 0, 0, 0, 0, 0, 0, 0, 0⟩,
  ⟨0x110068, 1, .single, 0, 0, 0, 0, 0xffffffff, 0, 0, 0⟩,
  ⟨0x11006c, 1, .single, 0, 0, 0, 0, 0xffffffff, 0, 0, 0⟩,
  ⟨0x110070, 1, .single, 0, 0, 0, 0, 0, 0xf000003f, 0xf000003f, 0⟩,
  ⟨0x110074, 1, .single, 0, 0, 0, 0, 0, 0, 0, 0⟩,
  ⟨0x111040, 1, .inst, 0x200, 0, 0, 0, 0, 0, 0, 0⟩,
  ⟨0x111044, 1, .inst, 0x80000040, 0x800001ff, 0, 0, 0, 0, 0x800001ff, 0⟩,
  ⟨0x111048, 1, .inst, 0, 0, 0, 0, 0, 0, 0, 0⟩,
  ⟨0x11104c, 1, .inst, 0, 0, 0, 0, 0, 0, 0, 0⟩,
  ⟨0x111050, 1, .inst, 0, 0, 0, 0, 0, 0, 0, 0⟩,
  ⟨0x111054, 1, .inst, 0, 0, 0, 0, 0, 0, 0, 0⟩,
  ⟨0x111058, 1, .inst, 0, 0, 0, 0, 0, 0, 0, 0⟩,
  ⟨0x11105c, 1, .inst, 0, 0, 0, 0, 0, 0, 0, 0⟩,
  ⟨0x111060, 1, .inst, 0, 0, 0, 0, 0x7ff, 0, 0, 0⟩,
  ⟨0x111064, 1, .inst, 0, 0, 0, 0, 0xffffffff, 0, 0, 0⟩,
  ⟨0x111068, 1, .inst, 0, 0, 0, 0, 0xffffffff, 0, 0, 0⟩,
  ⟨0x11106c, 1, .inst, 0, 0, 0, 0, 0, 0, 0, 0⟩,
  ⟨0x112040, 1, .reqr, 0, 0x1f, 0, 0, 0, 0, 0, 0⟩,
  ⟨0x112044, 1, .yardPart, 0, 0, 0, 0, 0, 0, 0, 0⟩,
  ⟨0x112048, 1, .yardPart, 0, 0, 0, 0, 0, 0, 0, 0⟩,
  ⟨0x11204c, 1, .yardPart, 0, 0, 0, 0, 0, 0, 0, 0⟩,
  ⟨0x112050, 1, .yardPart, 0, 0, 0, 0, 0x1fffff, 0, 0, 0⟩,
  ⟨0x112054, 1, .yardPart, 0xffff0000, 0xffffffff, 0, 0, 0, 0, 0xffffffff, 0⟩,
  ⟨0x112058, 1, .yardPart, 0, 0, 0, 0, 0, 0, 0, 0⟩,
  ⟨0x11205c, 1, .yardPart, 0, 0, 0, 0, 0xffffffff, 0, 0, 0⟩]

/-- The registers of the BND block. -/
def regRowsBnd : List RegRow := [
  ⟨0x120040, 1, .single, 0x3200, 0, 0, 0, 0, 0, 0, 0⟩,
  ⟨0x120044, 1, .single, 0, 0, 0, 0, 0, 0, 0, 0⟩,
  ⟨0x120048, 1, .single, 0, 0, 0, 0, 0, 0, 0, 0⟩,
  ⟨0x12004c, 1, .single, 0, 0, 0, 0, 0, 0, 0, 0⟩,
  ⟨0x120050, 1, .single, 0, 0, 0, 0, 0, 0, 0, 0⟩,
  ⟨0x120054, 1, .single, 0, 0, 0, 0, 0xffffffff, 0, 0, 0⟩,
  ⟨0x120058, 1, .single, 0, 0, 0, 0, 0xffffffff, 0, 0, 0⟩,
  ⟨0x12005c, 1, .single, 0, 0, 0, 0, 0xffffffff, 0, 0, 0⟩,
  ⟨0x120060, 1, .single, 0, 0, 0, 0, 0xffffffff, 0, 0, 0⟩]

/-- The registers of the HOD block. -/
def regRowsHod : List RegRow := [
  ⟨0x130040, 1, .inst, 0, 0, 0, 0, 0, 0, 0, 0⟩,
  ⟨0x130044, 1, .inst, 0x3e8, 0xfffff, 0, 0, 0, 0, 0xfffff, 0⟩,
  ⟨0x130048, 1, .inst, 0, 0, 0, 0, 0, 0, 0, 0⟩,
  ⟨0x13004c, 1, .inst, 0, 0, 0, 0, 0, 0, 0, 0⟩,
  ⟨0x130050, 1, .inst, 0, 0, 0, 0, 0xffffffff, 0, 0, 0⟩,
  ⟨0x131040, 1, .inst, 0, 0, 0, 0, 0, 0, 0, 0⟩,
  ⟨0x131044, 1, .inst, 0, 0, 0, 0, 0, 0, 0, 0⟩,
  ⟨0x131048, 1, .inst, 0, 0, 0, 0, 0, 0, 0, 0⟩,
  ⟨0x13104c, 1, .inst, 0, 0, 0x80000000, 0, 0, 0, 0, 0⟩,
  ⟨0x131050, 1, .inst, 0, 0, 0, 0, 0, 0, 0, 0⟩,
  ⟨0x131054, 1, .inst, 0, 0, 0, 0, 0, 0, 0, 0⟩]

/-- The registers of the SEQ block. -/
def regRowsSeq : List RegRow := [
  ⟨0x140040, 1, .single, 0, 1, 0, 0, 0, 0, 1, 0⟩,
  ⟨0x140044, 1, .single, 0, 0, 0, 0, 0, 0, 0, 0⟩,
  ⟨0x140048, 1, .single, 0, 0, 0, 0, 0, 0, 0, 0⟩,
  ⟨0x14004c, 1, .single, 0, 0, 0, 0, 0, 0, 0, 0⟩,
  ⟨0x140050, 1, .single, 0, 0, 0x80000000, 0, 0, 0, 0, 0⟩,
  ⟨0x140054, 1, .single, 0, 0, 0, 0, 0xffffffff, 0, 0, 0⟩,
  ⟨0x140058, 1, .reqr, 0, 0x3f, 0, 0, 0, 0, 0, 0⟩,
  ⟨0x14005c, 1, .view, 0, 0, 0, 0, 0, 0, 0, 0⟩,
  ⟨0x140060, 1, .reqr, 0, 0x3ff, 0, 0, 0, 0, 0, 0⟩,
  ⟨0x140064, 1, .view, 0, 0, 0, 0, 0, 0, 0, 0⟩,
  ⟨0x140068, 1, .single, 0, 0, 0, 0, 0xffff, 0, 0, 0⟩,
  ⟨0x141040, 1, .reqr, 0, 0x1fff, 0, 0, 0, 0, 0, 0⟩,
  ⟨0x141080, 32, .view, 0, 0, 0, 0, 0, 0, 0, 0⟩,
  ⟨0x142040, 1, .reqr, 0, 0x1f, 0, 0, 0, 0, 0, 0⟩,
  ⟨0x142044, 1, .seqPart, 0, 0x3fff, 0, 0, 0, 0, 0x3fff, 0⟩,
  ⟨0x142048, 1, .seqPart, 0, 0xffffffc0, 0, 0, 0, 0, 0, 0⟩,
  ⟨0x14204c, 1, .seqPart, 0, 0xfff, 0, 0, 0, 0, 0, 0⟩,
  ⟨0x142050, 1, .seqPart, 0, 0x1f, 0, 0, 0, 0, 0, 0⟩,
  ⟨0x142054, 1, .seqPart, 0, 0, 0, 0, 0, 0, 0, 0⟩,
  ⟨0x142058, 1, .seqPart, 0, 0, 0, 0, 0, 0, 0, 0⟩,
  ⟨0x14205c, 1, .seqPart, 0, 0, 0, 0, 0, 0xffffffff, 0, 0⟩,
  ⟨0x142060, 1, .seqPart, 0, 0xffffff, 0, 0, 0, 0, 0, 0⟩,
  ⟨0x142064, 1, .seqPart, 0x21000, 0xfffff, 0, 0, 0, 0, 0, 0⟩,
  ⟨0x142068, 1, .seqPart, 0x100, 0x1fff, 0, 0, 0, 0, 0, 0⟩,
  ⟨0x143040, 1, .seqPart, 0, 3, 0, 0, 0, 0, 0, 0⟩,
  ⟨0x143044, 1, .seqPart, 0, 0xffffffff, 0, 0, 0, 0, 0, 0⟩,
  ⟨0x143048, 1, .seqPart, 0, 0xfff, 0, 0, 0, 0, 0, 0⟩,
  ⟨0x14304c, 1, .seqPart, 0, 0, 0, 0, 0, 0, 0, 0⟩,
  ⟨0x143050, 1, .seqPart, 0, 0, 0, 0, 0xffffffff, 0, 0, 0⟩,
  ⟨0x143054, 1, .seqPart, 0, 0, 0, 0, 0xffffffff, 0, 0, 0⟩,
  ⟨0x143058, 1, .seqPart, 0, 0, 0, 0, 0xffffffff, 0, 0, 0⟩,
  ⟨0x14305c, 1, .seqPart, 0, 0xffff, 0, 0, 0, 0, 0, 0⟩]

/-- The registers of the PRT block. -/
def regRowsPrt : List RegRow := [
  ⟨0x150040, 1, .inst, 0, 0, 0x80000000, 0, 0, 0, 0, 0⟩,
  ⟨0x150044, 1, .inst, 0, 0, 0, 0, 0, 0xf, 0, 0⟩,
  ⟨0x150048, 1, .inst, 0, 1, 0, 0, 0, 0, 0, 0⟩,
  ⟨0x15004c, 1, .inst, 0, 0xff, 0, 0, 0, 0, 0xff, 0⟩,
  ⟨0x151040, 8, .inst, 0, 0xfffffff0, 0, 0, 0, 0, 0xfffffff0, 0⟩,
  ⟨0x151060, 4, .inst, 0, 0xffffffff, 0, 0, 0, 0, 0xffffffff, 0⟩,
  ⟨0x151070, 1, .inst, 0, 0xffffffff, 0, 0, 0, 0, 0xffffffff, 0⟩,
  ⟨0x151074, 1, .inst, 0, 0xffffffff, 0, 0, 0, 0, 0xffffffff, 0⟩,
  ⟨0x151078, 1, .inst, 0, 0, 0, 0, 0, 0, 0, 0⟩,
  ⟨0x152040, 1, .inst, 0, 0xfffff, 0, 0, 0, 0, 0xfffff, 0⟩,
  ⟨0x152044, 1, .inst, 0xfffff, 0xfffff, 0, 0, 0, 0, 0xfffff, 0⟩,
  ⟨0x152048, 1, .inst, 0, 0xfffff, 0, 0, 0, 0, 0xfffff, 0⟩,
  ⟨0x15204c, 1, .inst, 0xfffff, 0xfffff, 0, 0, 0, 0, 0xfffff, 0⟩,
  ⟨0x152050, 1, .inst, 0, 0xfffff, 0, 0, 0, 0, 0xfffff, 0⟩,
  ⟨0x152054, 1, .inst, 0xfffff, 0xfffff, 0, 0, 0, 0, 0xfffff, 0⟩,
  ⟨0x152058, 1, .inst, 0, 0, 0, 0, 0xffffffff, 0, 0, 0⟩,
  ⟨0x15205c, 1, .inst, 0, 0, 0, 0, 0xffffffff, 0, 0, 0⟩,
  ⟨0x152060, 1, .inst, 0, 0, 0, 0, 0xffffffff, 0, 0, 0⟩,
  ⟨0x153040, 1, .reqr, 0, 7, 0, 0, 0, 0, 0, 0⟩,
  ⟨0x153044, 1, .queue, 0, 1, 0x60000000, 0, 0, 0, 0, 0⟩,
  ⟨0x153048, 1, .queue, 0, 0xffffffc0, 0, 0, 0, 0, 0, 0⟩,
  ⟨0x15304c, 1, .queue, 0, 0xfff, 0, 0, 0, 0, 0, 0⟩,
  ⟨0x153050, 1, .queue, 0, 0xf, 0, 0, 0, 0, 0, 0⟩,
  ⟨0x153054, 1, .queue, 0, 0, 0, 0, 0, 0, 0, 0⟩,
  ⟨0x153058, 1, .queue, 0, 0xffff, 0, 0, 0, 0, 0, 0⟩,
  ⟨0x15305c, 1, .queue, 0, 0, 0, 0, 0, 0, 0, 0⟩,
  ⟨0x153060, 1, .queue, 0, 0, 0, 0, 0, 0, 0, 0⟩,
  ⟨0x153064, 1, .queue, 0x200, 0x3ff, 0, 0, 0, 0, 0, 0⟩,
  ⟨0x153068, 1, .queue, 0, 0xffffffc0, 0, 0, 0, 0, 0, 0⟩,
  ⟨0x15306c, 1, .queue, 0, 0xfff, 0, 0, 0, 0, 0, 0⟩,
  ⟨0x153070, 1, .queue, 0, 0xf, 0, 0, 0, 0, 0, 0⟩,
  ⟨0x153074, 1, .queue, 0, 0xffff, 0, 0, 0, 0, 0, 0⟩,
  ⟨0x153078, 1, .queue, 0, 0, 0, 0, 0, 0, 0, 0⟩,
  ⟨0x15307c, 1, .queue, 0, 0xffffffc0, 0, 0, 0, 0, 0, 0⟩,
  ⟨0x153080, 1, .queue, 0, 0xfff, 0, 0, 0, 0, 0, 0⟩,
  ⟨0x153084, 1, .queue, 0, 0xf, 0, 0, 0, 0, 0, 0⟩,
  ⟨0x153088, 1, .queue, 0, 0xffff, 0, 0, 0, 0, 0, 0⟩,
  ⟨0x15308c, 1, .queue, 0, 0, 0, 0, 0, 0, 0, 0⟩,
  ⟨0x153090, 1, .inst, 0, 0, 0, 0, 0, 0xffff, 0, 0⟩,
  ⟨0x153094, 1, .queue, 0, 0, 0, 0, 0, 0, 0, 0⟩,
  ⟨0x153098, 1, .reqr, 0, 0xff, 0, 0, 0, 0, 0, 0⟩,
  ⟨0x1530a0, 1, .param, 0, 0xffffffff, 0, 0, 0, 0, 0, 0⟩,
  ⟨0x1530a4, 1, .param, 0, 0xffffffff, 0, 0, 0, 0, 0, 0⟩,
  ⟨0x154040, 1, .inst, 0x7d0, 0xffff, 0, 0, 0, 0, 0, 0⟩,
  ⟨0x154044, 1, .inst, 0x78, 0xffff, 0, 0, 0, 0, 0, 0⟩,
  ⟨0x155040, 1, .inst, 0, 1, 0, 0, 0, 0, 0, 0⟩]

/-- The registers of the CYT block. -/
def regRowsCyt : List RegRow := [
  ⟨0x160040, 1, .inst, 0, 1, 0, 0, 0, 2, 0, 0⟩,
  ⟨0x160044, 1, .inst, 0x2710, 0x1ffff, 0, 0, 0, 0, 0, 0⟩,
  ⟨0x160048, 1, .inst, 0, 0x1ff, 0, 0, 0, 0, 0, 0⟩,
  ⟨0x16004c, 1, .inst, 0, 0, 0, 0, 0, 0, 0, 0⟩,
  ⟨0x160050, 1, .inst, 0, 0, 0, 0, 0, 0, 0, 0⟩,
  ⟨0x160054, 1, .inst, 0, 0, 0, 0, 0, 0x3ffff, 0, 0⟩,
  ⟨0x160058, 1, .inst, 0, 0x3f, 0, 0, 0, 0, 0, 0⟩,
  ⟨0x16005c, 1, .inst, 0, 0, 0, 0, 0, 0, 0, 0⟩,
  ⟨0x161040, 1, .reqr, 0, 0xff, 0, 0, 0, 0, 0, 0⟩,
  ⟨0x161044, 1, .cytSlot, 0, 0xfffff000, 0, 0, 0, 0, 0, 0⟩,
  ⟨0x161048, 1, .cytSlot, 0, 0xffff80ff, 0, 0, 0, 0, 0, 0⟩,
  ⟨0x16104c, 1, .cytSlot, 0, 0x3fffffff, 0, 0, 0, 0, 0, 0⟩,
  ⟨0x161050, 1, .cytSlot, 0, 0xfffffff, 0, 0, 0, 0, 0, 0⟩,
  ⟨0x161054, 1, .cytSlot, 0, 0xfffffff, 0, 0, 0, 0, 0, 0⟩,
  ⟨0x161058, 1, .view, 0, 0, 0, 0, 0, 0, 0, 0⟩,
  ⟨0x16105c, 1, .view, 0, 0, 0, 0, 0, 0, 0, 0⟩,
  ⟨0x161060, 1, .view, 0, 0, 0, 0, 0, 0, 0, 0⟩,
  ⟨0x161064, 1, .cytSlot, 0, 0, 0, 0, 0xffff, 0, 0, 0⟩]

/-- The registers of the STK block. -/
def regRowsStk : List RegRow := [
  ⟨0x200040, 1, .inst, 0, 0, 0, 0, 0, 0, 0, 0⟩,
  ⟨0x200044, 1, .inst, 0, 0, 0, 0x80000000, 0, 0, 0x80000000, 0⟩,
  ⟨0x200048, 1, .inst, 0, 0, 0, 0, 0, 0, 0, 0⟩,
  ⟨0x20004c, 1, .inst, 0, 0, 0, 0, 0, 0, 0, 0⟩,
  ⟨0x201040, 1, .inst, 0x2808, 0xffff, 0, 0, 0, 0, 0, 0⟩,
  ⟨0x201044, 1, .inst, 4, 0xff, 0, 0, 0, 0, 0, 0⟩,
  ⟨0x201048, 1, .inst, 0x20, 0x3f, 0, 0, 0, 0, 0, 0⟩,
  ⟨0x20104c, 1, .inst, 0x300, 0x3ff, 0, 0, 0, 0, 0, 0⟩,
  ⟨0x201050, 1, .inst, 0, 0x300, 0, 0, 0, 0, 0, 0⟩,
  ⟨0x201054, 1, .inst, 0x118002e, 0, 0, 0, 0, 0, 0, 0⟩,
  ⟨0x202040, 32, .view, 0xffffffff, 0, 0, 0, 0, 0, 0, 0⟩,
  ⟨0x2020c0, 1, .inst, 0, 0, 0, 0, 0, 0, 0, 0⟩,
  ⟨0x203040, 1, .inst, 8, 0xf, 0, 0, 0, 0, 0, 0⟩,
  ⟨0x203044, 1, .inst, 0, 0, 0, 0, 0, 0, 0, 0⟩,
  ⟨0x204040, 1, .inst, 0, 0, 0, 0, 0, 0xfffcffff, 0, 0⟩,
  ⟨0x204044, 1, .inst, 0, 0, 0, 0, 0, 0, 0, 0⟩,
  ⟨0x204048, 1, .inst, 0x60018000, 0, 0, 0, 0, 0, 0, 0⟩,
  ⟨0x20404c, 1, .inst, 0xaaaaaaaa, 0, 0, 0, 0, 0, 0, 0⟩,
  ⟨0x205040, 1, .inst, 0, 0, 0, 0, 0xffffffff, 0, 0, 0⟩,
  ⟨0x205044, 1, .inst, 0, 0, 0, 0, 0xffffffff, 0, 0, 0⟩,
  ⟨0x205048, 1, .inst, 0, 0, 0, 0, 0xffffffff, 0, 0, 0⟩,
  ⟨0x20504c, 1, .inst, 0, 0, 0, 0, 0xffff, 0, 0, 0⟩,
  ⟨0x205050, 1, .inst, 0, 0, 0, 0, 0xffffffff, 0, 0, 0⟩]

/-- The registers of the QLK block. -/
def regRowsQlk : List RegRow := [
  ⟨0x210040, 1, .inst, 0, 0, 0, 0, 0, 0, 0, 0⟩,
  ⟨0x210044, 1, .inst, 0, 0x40000000, 0, 0x80000000, 0, 0, 0xc0000000, 0⟩,
  ⟨0x210048, 1, .inst, 0x27102710, 0xffffffff, 0, 0, 0, 0, 0xffffffff, 0⟩,
  ⟨0x21004c, 1, .inst, 0, 0, 0, 0, 0, 0, 0, 0⟩,
  ⟨0x210400, 128, .inst, 0, 0xffffffff, 0, 0, 0, 0, 0xffffffff, 0⟩,
  ⟨0x211040, 1, .inst, 0, 0, 0, 0, 0, 0, 0, 0⟩,
  ⟨0x211044, 1, .inst, 0, 0, 0, 0, 0, 0, 0, 0⟩,
  ⟨0x211048, 1, .inst, 0, 0, 0, 0, 0, 0xfc000000, 0xfc000000, 0⟩,
  ⟨0x21104c, 1, .inst, 0x44, 0, 0, 0, 0, 0, 0, 0⟩,
  ⟨0x211050, 1, .inst, 0, 0, 0, 0, 0, 0, 0, 0⟩,
  ⟨0x212040, 1, .inst, 0x80200040, 0, 0, 0, 0, 0, 0, 0⟩,
  ⟨0x212044, 1, .inst, 0, 0, 0, 0, 0, 0, 0, 0⟩,
  ⟨0x212048, 1, .inst, 0x4001000, 0xff00, 0, 0, 0, 0, 0xff00, 0⟩,
  ⟨0x21204c, 1, .inst, 0, 0, 0, 0, 0xffffffff, 0, 0, 0⟩,
  ⟨0x212050, 1, .inst, 0, 0, 0, 0, 0xffffffff, 0, 0, 0⟩,
  ⟨0x212054, 1, .inst, 0, 0, 0, 0, 0xffffffff, 0, 0, 0⟩,
  ⟨0x212058, 1, .inst, 0, 0, 0, 0, 0xffffffff, 0, 0, 0⟩,
  ⟨0x21205c, 1, .inst, 0, 0, 0, 0, 0xffffffff, 0, 0, 0⟩,
  ⟨0x213040, 1, .inst, 0, 0, 0, 0, 0, 0, 0, 0⟩,
  ⟨0x213044, 1, .inst, 0, 0, 0, 0, 0, 0, 0, 0⟩,
  ⟨0x213048, 1, .inst, 0, 0, 0, 0, 0, 0, 0, 0⟩,
  ⟨0x21304c, 1, .inst, 0x258, 0xffff, 0, 0, 0, 0, 0xffff, 0⟩,
  ⟨0x213050, 1, .inst, 0, 0, 0, 0, 0xffffffff, 0, 0, 0⟩,
  ⟨0x213054, 1, .reqr, 0, 0x1f, 0, 0, 0, 0, 0, 0⟩,
  ⟨0x213058, 1, .imprt, 0, 0xfffffe00, 0, 0, 0, 0, 0, 0xfffffe00⟩,
  ⟨0x214040, 1, .inst, 0, 0, 0, 0, 0, 0, 0, 0⟩,
  ⟨0x214044, 1, .inst, 0, 0, 0, 0, 0, 0, 0, 0⟩,
  ⟨0x214048, 1, .inst, 0, 0, 0, 0, 0, 0, 0, 0⟩,
  ⟨0x21404c, 1, .inst, 0, 0, 0, 0, 0, 0, 0, 0⟩,
  ⟨0x214050, 1, .inst, 0, 0, 0, 0, 0xffffffff, 0, 0, 0⟩,
  ⟨0x214054, 1, .inst, 0, 0, 0, 0, 0xffffffff, 0, 0, 0⟩]

/-- The registers of the BRK block. -/
def regRowsBrk : List RegRow := [
  ⟨0x300040, 1, .inst, 0, 0, 0, 0, 0, 0, 0, 0⟩,
  ⟨0x300044, 1, .inst, 0, 0, 0, 0, 0, 0xffffc03f, 0xffffc03f, 0⟩,
  ⟨0x300048, 1, .inst, 0, 0, 0, 0, 0, 0, 0, 0⟩,
  ⟨0x30004c, 1, .inst, 0x3e8, 0xfffff, 0, 0, 0, 0, 0xfffff, 0⟩,
  ⟨0x300050, 8, .view, 0xffffffff, 0, 0, 0, 0, 0, 0, 0⟩,
  ⟨0x301040, 1, .inst, 0, 0, 0xc0000000, 0, 0, 0, 0, 0⟩,
  ⟨0x301044, 1, .inst, 0, 0, 0, 0, 0, 0, 0, 0⟩,
  ⟨0x301048, 1, .inst, 0, 0, 0, 0, 0xffffffff, 0, 0, 0⟩,
  ⟨0x302040, 1, .inst, 0, 0, 0, 0, 0xffffffff, 0, 0, 0⟩,
  ⟨0x302044, 1, .inst, 0, 0, 0, 0, 0xffffffff, 0, 0, 0⟩,
  ⟨0x302048, 1, .inst, 0, 0, 0, 0, 0xffffffff, 0, 0, 0⟩,
  ⟨0x30204c, 1, .inst, 0, 0, 0, 0, 0, 0, 0, 0⟩,
  ⟨0x302050, 1, .inst, 0, 0, 0, 0, 0, 0, 0, 0⟩,
  ⟨0x302054, 1, .inst, 0, 0, 0, 0, 0, 0, 0, 0⟩]

/-! Register addresses. -/

namespace A

def KST_STATE : Nat := 0x40
def KST_DEVNUM : Nat := 0x44
def KST_CD_MASK : Nat := 0x48
def KST_STK_MASK : Nat := 0x4c
def KST_QD_MASK : Nat := 0x50
def KST_ID_HASH : Nat := 0x60
def KST_ROOT_HASH : Nat := 0x80
def KST_MEAS : Nat := 0x1040
def KST_PMEAS : Nat := 0x1140
def KST_ATT_CNT_LO : Nat := 0x2040
def KST_ATT_CNT_HI : Nat := 0x2044
def KST_SVC_STAT : Nat := 0x2048
def KST_PEER_MODE : Nat := 0x204c
def KST_PEER_COUNT : Nat := 0x2050
def KST_KEYHASH : Nat := 0x3040
def KST_KEYSTAT : Nat := 0x3840
def KST_GCOUNT : Nat := 0x3940
def KST_GRANT : Nat := 0x3a00
def KST_DEVRIGHT_LO : Nat := 0x3e00
def KST_DEVRIGHT_HI : Nat := 0x3e04
def KST_ARB : Nat := 0x4040
def KST_UPD_STAT : Nat := 0x4050
def KST_RUNVER : Nat := 0x4060
def KST_OLDIMG : Nat := 0x4070
def KST_DBG_STAT : Nat := 0x5040
def KST_BOOT_NONCE_LO : Nat := 0x5048
def KST_BOOT_NONCE_HI : Nat := 0x504c
def TRW_CORE_STATE : Nat := 0x10040
def TRW_CORE_CTRL : Nat := 0x10044
def TRW_CORE_CAUSE : Nat := 0x10048
def TRW_WDT : Nat := 0x1004c
def TRW_HEARTBEAT : Nat := 0x11040
def TRW_RESTARTS : Nat := 0x11044
def TRW_RESTART_MAX : Nat := 0x11048
def TRW_IMG_VER : Nat := 0x1104c
def TRW_LOOP : Nat := 0x11050
def TRW_DUTY : Nat := 0x12040
def TRW_LOOP_LIMIT : Nat := 0x12044
def TRW_JOURNAL : Nat := 0x12048
def KLN_LIM_DIE : Nat := 0x20040
def KLN_LIM_STK : Nat := 0x20044
def KLN_LIM_MB : Nat := 0x20048
def KLN_PERMIT : Nat := 0x2004c
def KLN_CLAMP : Nat := 0x20050
def KLN_CLAMP_CNT : Nat := 0x20054
def KLN_PIN : Nat := 0x20058
def KLN_SWIN : Nat := 0x21040
def KLN_SREAD : Nat := 0x21080
def KLN_SENSFAULT : Nat := 0x22040
def KLN_DERATED : Nat := 0x22150
def KLN_SFAULT_CNT : Nat := 0x22154
def KLN_CLK : Nat := 0x23040
def KLN_STK_LEVEL : Nat := 0x23060
def KLN_POWER_CEIL : Nat := 0x23064
def KLN_NEAR : Nat := 0x23068
def KLN_ENF : Nat := 0x2306c
def KLN_GRACE : Nat := 0x23070
def KLN_REQ : Nat := 0x23074
def KLN_ACKED : Nat := 0x23078
def KLN_EP_CEIL : Nat := 0x2307c
def KLN_EP_CTRL : Nat := 0x24040
def KLN_EP_TARGET : Nat := 0x24044
def KLN_EP_FLOOR : Nat := 0x24048
def KLN_EP_MEASURED : Nat := 0x2404c
def KLN_EP_TOKENS : Nat := 0x24050
def LNT_LINK : Nat := 0x30040
def LNT_IFVER : Nat := 0x30044
def LNT_DRVVER : Nat := 0x30048
def LNT_ATTACH : Nat := 0x3004c
def LNT_CREDIT : Nat := 0x30050
def LNT_CRC_CNT : Nat := 0x30054
def LNT_REPLAY_CNT : Nat := 0x30058
def LNT_RETRAIN_CNT : Nat := 0x3005c
def LNT_PWSTAT : Nat := 0x30060
def LNT_QDB : Nat := 0x31040
def LNT_RDB : Nat := 0x31440
def LNT_ISRC : Nat := 0x32040
def LNT_IVEC : Nat := 0x32044
def LNT_IPEND : Nat := 0x32080
def LNT_RCH : Nat := 0x33040
def LNT_H2F_BASE_LO : Nat := 0x33044
def LNT_H2F_BASE_HI : Nat := 0x33048
def LNT_H2F_SIZE : Nat := 0x3304c
def LNT_F2H_BASE_LO : Nat := 0x33050
def LNT_F2H_BASE_HI : Nat := 0x33054
def LNT_F2H_SIZE : Nat := 0x33058
def LNT_RSTAT : Nat := 0x3305c
def LNT_HB : Nat := 0x34040
def LNT_HB_TMO : Nat := 0x340c0
def LNT_ATTACHED : Nat := 0x340c4
def LNT_SILENT : Nat := 0x340c8
def LNT_PARKED : Nat := 0x340cc
def LNT_SIDX : Nat := 0x340d0
def LNT_SSTAT : Nat := 0x340d4
def LNT_EXPIRED : Nat := 0x340d8
def FTG_STATE : Nat := 0x40040
def FTG_IMG_IDX : Nat := 0x40044
def FTG_IMG_CMD : Nat := 0x40048
def FTG_IMG_STAT : Nat := 0x4004c
def FTG_IMG_SIZE_LO : Nat := 0x40050
def FTG_IMG_SIZE_HI : Nat := 0x40054
def FTG_WIN : Nat := 0x40058
def FTG_FREE : Nat := 0x4005c
def FTG_LOAD : Nat := 0x40060
def FTG_LOAD_DONE : Nat := 0x40064
def FTG_LOAD_TOTAL : Nat := 0x40068
def FTG_CH_STATE : Nat := 0x41040
def FTG_CH_RD : Nat := 0x41044
def FTG_CH_CE : Nat := 0x41048
def FTG_CH_RETRY : Nat := 0x4104c
def FTG_CH_UE : Nat := 0x41050
def FTG_PE_MAX : Nat := 0x42040
def FTG_PE_AVG : Nat := 0x42044
def FTG_SPARE : Nat := 0x42048
def FTG_SPARE_LOW : Nat := 0x4204c
def FTG_REFRESHED : Nat := 0x42050
def FTG_REFRESH_BITS : Nat := 0x42054
def REG_INDEX : Nat := 0x100040
def REG_ENTRY_LO : Nat := 0x100048
def REG_ENTRY_HI : Nat := 0x10004c
def REG_COUNT : Nat := 0x100050
def REG_GEN : Nat := 0x100054
def REG_SCRUB_CTL : Nat := 0x101040
def REG_SCRUB_SWEEPS : Nat := 0x101044
def REG_SCRUB_LAG : Nat := 0x101048
def REG_OPEN_FAULTS : Nat := 0x10104c
def REG_GUARD_CE : Nat := 0x101050
def REG_GUARD_UE : Nat := 0x101054
def REG_HASH_MISMATCH : Nat := 0x101058
def REG_RELOADS : Nat := 0x10105c
def REG_RELOAD_STAT : Nat := 0x101060
def REG_SUSPECT_CNT : Nat := 0x101064
def REG_RECOMPUTES : Nat := 0x101068
def YRD_BIDX : Nat := 0x110040
def YRD_BENTRY : Nat := 0x110044
def YRD_BGEN : Nat := 0x110048
def YRD_CLS0 : Nat := 0x11004c
def YRD_CLS1 : Nat := 0x110050
def YRD_CLS2 : Nat := 0x110054
def YRD_CLS3 : Nat := 0x110058
def YRD_CLS4 : Nat := 0x11005c
def YRD_CLS5 : Nat := 0x110060
def YRD_ACQ_CNT : Nat := 0x110064
def YRD_ACQ_MAX : Nat := 0x110068
def YRD_STALL_MAX : Nat := 0x11006c
def YRD_SPARE_CMD : Nat := 0x110070
def YRD_SPARE_STAT : Nat := 0x110074
def YRD_SLAB_STATE : Nat := 0x111040
def YRD_PF_CTL : Nat := 0x111044
def YRD_HITS : Nat := 0x111048
def YRD_MISSES : Nat := 0x11104c
def YRD_PF_LINES : Nat := 0x111050
def YRD_PF_USED : Nat := 0x111054
def YRD_PF_ACTIVE : Nat := 0x111058
def YRD_QOCC : Nat := 0x11105c
def YRD_QPEAK : Nat := 0x111060
def YRD_CE_CNT : Nat := 0x111064
def YRD_UE_CNT : Nat := 0x111068
def YRD_DIRTY : Nat := 0x11106c
def YRD_QIDX : Nat := 0x112040
def YRD_Q_LAND : Nat := 0x112044
def YRD_Q_WORK : Nat := 0x112048
def YRD_Q_WUSED : Nat := 0x11204c
def YRD_Q_WPEAK : Nat := 0x112050
def YRD_Q_CACHE : Nat := 0x112054
def YRD_Q_COCC : Nat := 0x112058
def YRD_Q_WAITS : Nat := 0x11205c
def BND_PLANES : Nat := 0x120040
def BND_PLANE_OK_LO : Nat := 0x120044
def BND_PLANE_OK_HI : Nat := 0x120048
def BND_ELEMS_LO : Nat := 0x12004c
def BND_ELEMS_HI : Nat := 0x120050
def BND_OVERLAP_CNT : Nat := 0x120054
def BND_RANGE_CNT : Nat := 0x120058
def BND_COALESCED : Nat := 0x12005c
def BND_PARITY_CNT : Nat := 0x120060
def HOD_STATE : Nat := 0x130040
def HOD_WALK_TMO : Nat := 0x130044
def HOD_WALKS : Nat := 0x130048
def HOD_PASSES : Nat := 0x13004c
def HOD_GROUP_WAIT : Nat := 0x130050
def HOD_CUR_SEQ : Nat := 0x131040
def HOD_CUR_LAYER : Nat := 0x131044
def HOD_CUR_PAGE : Nat := 0x131048
def HOD_FAULT : Nat := 0x13104c
def HOD_FAULT_PAGE : Nat := 0x131050
def HOD_FAULT_LOC : Nat := 0x131054
def SEQ_CTRL : Nat := 0x140040
def SEQ_INFLIGHT : Nat := 0x140044
def SEQ_STEPS_LO : Nat := 0x140048
def SEQ_STEPS_HI : Nat := 0x14004c
def SEQ_ADMIT_FAIL : Nat := 0x140050
def SEQ_ADMIT_FCNT : Nat := 0x140054
def SEQ_MS_IDX : Nat := 0x140058
def SEQ_MS_STAT : Nat := 0x14005c
def SEQ_AS_IDX : Nat := 0x140060
def SEQ_AS_STAT : Nat := 0x140064
def SEQ_SELECT_MAX : Nat := 0x140068
def SEQ_IDX : Nat := 0x141040
def SEQ_ENTRY : Nat := 0x141080
def SEQ_PIDX : Nat := 0x142040
def SEQ_QUOTA : Nat := 0x142044
def SEQ_POOL_BASE_LO : Nat := 0x142048
def SEQ_POOL_BASE_HI : Nat := 0x14204c
def SEQ_POOL_SIZE : Nat := 0x142050
def SEQ_POOL_HEAD : Nat := 0x142054
def SEQ_POOL_TAIL : Nat := 0x142058
def SEQ_POOL_ADD : Nat := 0x14205c
def SEQ_POOL_LOW : Nat := 0x142060
def SEQ_POLICY : Nat := 0x142064
def SEQ_MAXSEQ : Nat := 0x142068
def SEQ_PFX_MODE : Nat := 0x143040
def SEQ_PFX_BASE_LO : Nat := 0x143044
def SEQ_PFX_BASE_HI : Nat := 0x143048
def SEQ_PFX_BLOCKS : Nat := 0x14304c
def SEQ_PFX_HITS : Nat := 0x143050
def SEQ_PFX_MISSES : Nat := 0x143054
def SEQ_PFX_EVICTS : Nat := 0x143058
def SEQ_PFX_SIZE : Nat := 0x14305c
def PRT_STATE : Nat := 0x150040
def PRT_CMD : Nat := 0x150044
def PRT_MODE : Nat := 0x150048
def PRT_OWNER : Nat := 0x15004c
def PRT_POOL : Nat := 0x151040
def PRT_BGRP : Nat := 0x151060
def PRT_HOD_LO : Nat := 0x151070
def PRT_HOD_HI : Nat := 0x151074
def PRT_POOL_COUNT : Nat := 0x151078
def PRT_RG_STK_FLOOR : Nat := 0x152040
def PRT_RG_STK_CAP : Nat := 0x152044
def PRT_RG_YRD_FLOOR : Nat := 0x152048
def PRT_RG_YRD_CAP : Nat := 0x15204c
def PRT_RG_LNK_FLOOR : Nat := 0x152050
def PRT_RG_LNK_CAP : Nat := 0x152054
def PRT_RG_WAIT_STK : Nat := 0x152058
def PRT_RG_WAIT_YRD : Nat := 0x15205c
def PRT_RG_WAIT_LNK : Nat := 0x152060
def PRT_QSEL : Nat := 0x153040
def PRT_QCTRL : Nat := 0x153044
def PRT_QBASE_LO : Nat := 0x153048
def PRT_QBASE_HI : Nat := 0x15304c
def PRT_QSIZE : Nat := 0x153050
def PRT_QHEAD : Nat := 0x153054
def PRT_QTAIL : Nat := 0x153058
def PRT_QADMIT : Nat := 0x15305c
def PRT_QINFLIGHT : Nat := 0x153060
def PRT_QRUNAHEAD : Nat := 0x153064
def PRT_CQBASE_LO : Nat := 0x153068
def PRT_CQBASE_HI : Nat := 0x15306c
def PRT_CQSIZE : Nat := 0x153070
def PRT_CQHEAD : Nat := 0x153074
def PRT_CQTAIL : Nat := 0x153078
def PRT_RQBASE_LO : Nat := 0x15307c
def PRT_RQBASE_HI : Nat := 0x153080
def PRT_RQSIZE : Nat := 0x153084
def PRT_RQHEAD : Nat := 0x153088
def PRT_RQTAIL : Nat := 0x15308c
def PRT_QRESUME : Nat := 0x153090
def PRT_QERR : Nat := 0x153094
def PRT_PIDX : Nat := 0x153098
def PRT_PVAL_LO : Nat := 0x1530a0
def PRT_PVAL_HI : Nat := 0x1530a4
def PRT_SILENCE : Nat := 0x154040
def PRT_RETAIN : Nat := 0x154044
def PRT_HAZARD : Nat := 0x155040
def CYT_CTRL : Nat := 0x160040
def CYT_PERIOD : Nat := 0x160044
def CYT_NSLOTS : Nat := 0x160048
def CYT_COUNT : Nat := 0x16004c
def CYT_PERIODS : Nat := 0x160050
def CYT_SHIFT : Nat := 0x160054
def CYT_IDLE : Nat := 0x160058
def CYT_REFUSE : Nat := 0x16005c
def CYT_SIDX : Nat := 0x161040
def CYT_SLOT0 : Nat := 0x161044
def CYT_SLOT1 : Nat := 0x161048
def CYT_SLOT2 : Nat := 0x16104c
def CYT_SLOT3 : Nat := 0x161050
def CYT_SLOT4 : Nat := 0x161054
def CYT_BAL_BRK : Nat := 0x161058
def CYT_BAL_COL : Nat := 0x16105c
def CYT_BAL_YRD : Nat := 0x161060
def CYT_SLSTAT : Nat := 0x161064
def STK_STATE : Nat := 0x200040
def STK_TRAIN : Nat := 0x200044
def STK_CHOK_LO : Nat := 0x200048
def STK_CHOK_HI : Nat := 0x20004c
def STK_TCAW : Nat := 0x201040
def STK_TCRRD : Nat := 0x201044
def STK_CONC : Nat := 0x201048
def STK_TCPW : Nat := 0x20104c
def STK_DERATE : Nat := 0x201050
def STK_DRAMT : Nat := 0x201054
def STK_BUSTAT : Nat := 0x202040
def STK_PASSCNT : Nat := 0x2020c0
def STK_REFCTL : Nat := 0x203040
def STK_REFCNT : Nat := 0x203044
def STK_RPR_CMD : Nat := 0x204040
def STK_RPR_STAT : Nat := 0x204044
def STK_SPARE_ROWS : Nat := 0x204048
def STK_SPARE_BANKS : Nat := 0x20404c
def STK_CE_CNT : Nat := 0x205040
def STK_UE_CNT : Nat := 0x205044
def STK_MERGE_POISON : Nat := 0x205048
def STK_HOLD_MAX : Nat := 0x20504c
def STK_PASS_REFUSED : Nat := 0x205050
def QLK_STATE : Nat := 0x210040
def QLK_CTRL : Nat := 0x210044
def QLK_TMO : Nat := 0x210048
def QLK_DOWN_CAUSE : Nat := 0x21004c
def QLK_REACH : Nat := 0x210400
def QLK_TXMAP : Nat := 0x211040
def QLK_RXMAP : Nat := 0x211044
def QLK_SPARE_CMD : Nat := 0x211048
def QLK_SPARE_STAT : Nat := 0x21104c
def QLK_LANE_SNR : Nat := 0x211050
def QLK_CRED_INIT : Nat := 0x212040
def QLK_CRED_NOW : Nat := 0x212044
def QLK_RETRY : Nat := 0x212048
def QLK_NAK_CNT : Nat := 0x21204c
def QLK_REPLAY_CNT : Nat := 0x212050
def QLK_RETRAIN_CNT : Nat := 0x212054
def QLK_FEC_CE : Nat := 0x212058
def QLK_FEC_UE : Nat := 0x21205c
def QLK_KEYSTAT : Nat := 0x213040
def QLK_TXCTR_LO : Nat := 0x213044
def QLK_TXCTR_HI : Nat := 0x213048
def QLK_REKEY : Nat := 0x21304c
def QLK_TAGFAIL_CNT : Nat := 0x213050
def QLK_IMPORT_IDX : Nat := 0x213054
def QLK_IMPORT : Nat := 0x213058
def QLK_TXF_LO : Nat := 0x214040
def QLK_TXF_HI : Nat := 0x214044
def QLK_RXF_LO : Nat := 0x214048
def QLK_RXF_HI : Nat := 0x21404c
def QLK_MISDIR_CNT : Nat := 0x214050
def QLK_DENY_CNT : Nat := 0x214054
def BRK_STATE : Nat := 0x300040
def BRK_MAP_CMD : Nat := 0x300044
def BRK_MAP_STAT : Nat := 0x300048
def BRK_ISSUE_TMO : Nat := 0x30004c
def BRK_PRESENT : Nat := 0x300050
def BRK_HAZ : Nat := 0x301040
def BRK_HAZ_ADDR : Nat := 0x301044
def BRK_HAZ_CNT : Nat := 0x301048
def BRK_POISON_CNT : Nat := 0x302040
def BRK_PARITY_CNT : Nat := 0x302044
def BRK_ISSUE_WAIT_MAX : Nat := 0x302048
def BRK_CYCLES : Nat := 0x30204c
def BRK_TILE_BUSY : Nat := 0x302050
def BRK_TILE_ROWS : Nat := 0x302054

end A

/-! Register fields. -/

namespace F

def KST_STATE_STATE : Fld := ⟨0x40, 31, 29⟩
def KST_STATE_DEBUG : Fld := ⟨0x40, 28, 28⟩
def KST_STATE_FAIL_STEP : Fld := ⟨0x40, 2, 0⟩
def KST_DEVNUM_DEVICE : Fld := ⟨0x44, 11, 0⟩
def KST_CD_MASK_GRADE : Fld := ⟨0x48, 9, 8⟩
def KST_CD_MASK_CD : Fld := ⟨0x48, 7, 0⟩
def KST_STK_MASK_STACKS : Fld := ⟨0x4c, 15, 0⟩
def KST_QD_MASK_QUOIN : Fld := ⟨0x50, 7, 0⟩
def KST_ID_HASH_HASH : Fld := ⟨0x60, 31, 0⟩
def KST_ROOT_HASH_HASH : Fld := ⟨0x80, 31, 0⟩
def KST_MEAS_VALUE : Fld := ⟨0x1040, 31, 0⟩
def KST_PMEAS_VALUE : Fld := ⟨0x1140, 31, 0⟩
def KST_ATT_CNT_LO_COUNT : Fld := ⟨0x2040, 31, 0⟩
def KST_ATT_CNT_HI_COUNT : Fld := ⟨0x2044, 31, 0⟩
def KST_SVC_STAT_BUSY : Fld := ⟨0x2048, 31, 31⟩
def KST_SVC_STAT_MTYPE : Fld := ⟨0x2048, 30, 24⟩
def KST_SVC_STAT_STATUS : Fld := ⟨0x2048, 15, 0⟩
def KST_PEER_MODE_LIST : Fld := ⟨0x204c, 0, 0⟩
def KST_PEER_COUNT_COUNT : Fld := ⟨0x2050, 6, 0⟩
def KST_KEYHASH_HASH : Fld := ⟨0x3040, 31, 0⟩
def KST_KEYSTAT_PARTS : Fld := ⟨0x3840, 31, 0⟩
def KST_GCOUNT_COUNTER : Fld := ⟨0x3940, 31, 0⟩
def KST_GRANT_MASK : Fld := ⟨0x3a00, 31, 0⟩
def KST_DEVRIGHT_LO_MASK : Fld := ⟨0x3e00, 31, 0⟩
def KST_DEVRIGHT_HI_MASK : Fld := ⟨0x3e04, 31, 0⟩
def KST_ARB_FUSES_LEFT : Fld := ⟨0x4040, 15, 8⟩
def KST_ARB_COUNT : Fld := ⟨0x4040, 7, 0⟩
def KST_UPD_STAT_BUSY : Fld := ⟨0x4050, 31, 31⟩
def KST_UPD_STAT_OP : Fld := ⟨0x4050, 30, 28⟩
def KST_UPD_STAT_COMPONENT : Fld := ⟨0x4050, 27, 26⟩
def KST_UPD_STAT_INSTANCE : Fld := ⟨0x4050, 25, 20⟩
def KST_UPD_STAT_PENDING : Fld := ⟨0x4050, 19, 16⟩
def KST_UPD_STAT_STATUS : Fld := ⟨0x4050, 15, 0⟩
def KST_RUNVER_VERSION : Fld := ⟨0x4060, 31, 0⟩
def KST_OLDIMG_VALID : Fld := ⟨0x4070, 31, 31⟩
def KST_OLDIMG_IMAGE : Fld := ⟨0x4070, 11, 0⟩
def KST_DBG_STAT_ACCEPTED : Fld := ⟨0x5040, 31, 31⟩
def KST_DBG_STAT_STATUS : Fld := ⟨0x5040, 15, 0⟩
def KST_BOOT_NONCE_LO_NONCE : Fld := ⟨0x5048, 31, 0⟩
def KST_BOOT_NONCE_HI_NONCE : Fld := ⟨0x504c, 31, 0⟩
def TRW_CORE_STATE_PHASE : Fld := ⟨0x10040, 31, 29⟩
def TRW_CORE_STATE_DUTIES : Fld := ⟨0x10040, 6, 0⟩
def TRW_CORE_CTRL_RESTART : Fld := ⟨0x10044, 31, 31⟩
def TRW_CORE_CTRL_RETIRE : Fld := ⟨0x10044, 30, 30⟩
def TRW_CORE_CAUSE_INFO : Fld := ⟨0x10048, 31, 8⟩
def TRW_CORE_CAUSE_CAUSE : Fld := ⟨0x10048, 7, 0⟩
def TRW_WDT_MS : Fld := ⟨0x1004c, 3, 0⟩
def TRW_HEARTBEAT_COUNT : Fld := ⟨0x11040, 31, 0⟩
def TRW_RESTARTS_COUNT : Fld := ⟨0x11044, 31, 0⟩
def TRW_RESTART_MAX_US : Fld := ⟨0x11048, 31, 0⟩
def TRW_IMG_VER_SEC_VER : Fld := ⟨0x1104c, 31, 0⟩
def TRW_LOOP_COUNT : Fld := ⟨0x11050, 3, 0⟩
def TRW_DUTY_CORE : Fld := ⟨0x12040, 27, 0⟩
def TRW_LOOP_LIMIT_LOOP_COUNT : Fld := ⟨0x12044, 15, 8⟩
def TRW_LOOP_LIMIT_LOOP_S : Fld := ⟨0x12044, 7, 0⟩
def TRW_JOURNAL_OPEN : Fld := ⟨0x12048, 23, 16⟩
def TRW_JOURNAL_CE : Fld := ⟨0x12048, 15, 0⟩
def KLN_LIM_DIE_NEAR : Fld := ⟨0x20040, 31, 24⟩
def KLN_LIM_DIE_CLAMP : Fld := ⟨0x20040, 23, 16⟩
def KLN_LIM_DIE_TRIP : Fld := ⟨0x20040, 15, 8⟩
def KLN_LIM_DIE_L1 : Fld := ⟨0x20040, 7, 0⟩
def KLN_LIM_STK_NEAR : Fld := ⟨0x20044, 31, 24⟩
def KLN_LIM_STK_CLAMP : Fld := ⟨0x20044, 23, 16⟩
def KLN_LIM_STK_TRIP : Fld := ⟨0x20044, 15, 8⟩
def KLN_LIM_STK_L1 : Fld := ⟨0x20044, 7, 0⟩
def KLN_LIM_MB_NEAR : Fld := ⟨0x20048, 31, 24⟩
def KLN_LIM_MB_CLAMP : Fld := ⟨0x20048, 23, 16⟩
def KLN_LIM_MB_TRIP : Fld := ⟨0x20048, 15, 8⟩
def KLN_LIM_MB_L1 : Fld := ⟨0x20048, 7, 0⟩
def KLN_PERMIT_W10 : Fld := ⟨0x2004c, 15, 0⟩
def KLN_CLAMP_ACTIVE : Fld := ⟨0x20050, 28, 0⟩
def KLN_CLAMP_CNT_COUNT : Fld := ⟨0x20054, 31, 0⟩
def KLN_PIN_W10 : Fld := ⟨0x20058, 15, 0⟩
def KLN_SWIN_WINDOW : Fld := ⟨0x21040, 6, 0⟩
def KLN_SREAD_VALID : Fld := ⟨0x21080, 31, 31⟩
def KLN_SREAD_FAST : Fld := ⟨0x21080, 30, 30⟩
def KLN_SREAD_TEMP : Fld := ⟨0x21080, 15, 0⟩
def KLN_SENSFAULT_FLAG : Fld := ⟨0x22040, 31, 0⟩
def KLN_DERATED_REGION : Fld := ⟨0x22150, 27, 0⟩
def KLN_SFAULT_CNT_COUNT : Fld := ⟨0x22154, 11, 0⟩
def KLN_CLK_LIMITER : Fld := ⟨0x23040, 31, 28⟩
def KLN_CLK_CUR_MHZ : Fld := ⟨0x23040, 27, 16⟩
def KLN_CLK_CEIL_MHZ : Fld := ⟨0x23040, 11, 0⟩
def KLN_STK_LEVEL_LEVEL : Fld := ⟨0x23060, 31, 0⟩
def KLN_POWER_CEIL_MHZ : Fld := ⟨0x23064, 11, 0⟩
def KLN_NEAR_REGION : Fld := ⟨0x23068, 28, 0⟩
def KLN_ENF_REGION : Fld := ⟨0x2306c, 28, 0⟩
def KLN_GRACE_MS : Fld := ⟨0x23070, 15, 0⟩
def KLN_REQ_NUMBER : Fld := ⟨0x23074, 15, 0⟩
def KLN_ACKED_NUMBER : Fld := ⟨0x23078, 15, 0⟩
def KLN_EP_CEIL_MHZ : Fld := ⟨0x2307c, 11, 0⟩
def KLN_EP_CTRL_EP_ENABLE : Fld := ⟨0x24040, 31, 31⟩
def KLN_EP_CTRL_WINDOW_MS : Fld := ⟨0x24040, 15, 0⟩
def KLN_EP_TARGET_TARGET_MJ : Fld := ⟨0x24044, 15, 0⟩
def KLN_EP_FLOOR_FLOOR_MHZ : Fld := ⟨0x24048, 11, 0⟩
def KLN_EP_MEASURED_MJ : Fld := ⟨0x2404c, 31, 0⟩
def KLN_EP_TOKENS_COUNT : Fld := ⟨0x24050, 31, 0⟩
def LNT_LINK_MOD_UP : Fld := ⟨0x30040, 31, 24⟩
def LNT_LINK_RATE_A : Fld := ⟨0x30040, 23, 20⟩
def LNT_LINK_RATE_B : Fld := ⟨0x30040, 19, 16⟩
def LNT_LINK_MOD_REPAIRED : Fld := ⟨0x30040, 15, 8⟩
def LNT_LINK_B_UP : Fld := ⟨0x30040, 1, 1⟩
def LNT_LINK_A_UP : Fld := ⟨0x30040, 0, 0⟩
def LNT_IFVER_MAJOR : Fld := ⟨0x30044, 31, 16⟩
def LNT_IFVER_MINOR : Fld := ⟨0x30044, 15, 0⟩
def LNT_DRVVER_MAJOR : Fld := ⟨0x30048, 31, 16⟩
def LNT_DRVVER_MINOR : Fld := ⟨0x30048, 15, 0⟩
def LNT_ATTACH_DEV : Fld := ⟨0x3004c, 31, 30⟩
def LNT_ATTACH_STATUS : Fld := ⟨0x3004c, 15, 0⟩
def LNT_CREDIT_RQ : Fld := ⟨0x30050, 31, 22⟩
def LNT_CREDIT_PW : Fld := ⟨0x30050, 21, 12⟩
def LNT_CREDIT_DATA : Fld := ⟨0x30050, 11, 0⟩
def LNT_CRC_CNT_COUNT : Fld := ⟨0x30054, 31, 0⟩
def LNT_REPLAY_CNT_COUNT : Fld := ⟨0x30058, 31, 0⟩
def LNT_RETRAIN_CNT_COUNT : Fld := ⟨0x3005c, 31, 0⟩
def LNT_PWSTAT_PART : Fld := ⟨0x30060, 31, 27⟩
def LNT_PWSTAT_AGENT : Fld := ⟨0x30060, 26, 21⟩
def LNT_PWSTAT_STATUS : Fld := ⟨0x30060, 15, 0⟩
def LNT_QDB_TAIL : Fld := ⟨0x31040, 15, 0⟩
def LNT_RDB_ANY : Fld := ⟨0x31440, 31, 0⟩
def LNT_ISRC_SOURCE : Fld := ⟨0x32040, 8, 0⟩
def LNT_IVEC_ENABLE : Fld := ⟨0x32044, 31, 31⟩
def LNT_IVEC_MASK : Fld := ⟨0x32044, 30, 30⟩
def LNT_IVEC_PENDING : Fld := ⟨0x32044, 29, 29⟩
def LNT_IVEC_HOLD_US : Fld := ⟨0x32044, 18, 11⟩
def LNT_IVEC_VECTOR : Fld := ⟨0x32044, 10, 0⟩
def LNT_IPEND_PENDING : Fld := ⟨0x32080, 31, 0⟩
def LNT_RCH_CHANNEL : Fld := ⟨0x33040, 5, 0⟩
def LNT_H2F_BASE_LO_BASE : Fld := ⟨0x33044, 31, 6⟩
def LNT_H2F_BASE_HI_BASE : Fld := ⟨0x33048, 11, 0⟩
def LNT_H2F_SIZE_LOG2 : Fld := ⟨0x3304c, 3, 0⟩
def LNT_F2H_BASE_LO_BASE : Fld := ⟨0x33050, 31, 6⟩
def LNT_F2H_BASE_HI_BASE : Fld := ⟨0x33054, 11, 0⟩
def LNT_F2H_SIZE_LOG2 : Fld := ⟨0x33058, 3, 0⟩
def LNT_RSTAT_ATTACHED : Fld := ⟨0x3305c, 31, 31⟩
def LNT_RSTAT_FWFLAGS : Fld := ⟨0x3305c, 3, 0⟩
def LNT_HB_ANY : Fld := ⟨0x34040, 31, 0⟩
def LNT_HB_TMO_MS : Fld := ⟨0x340c0, 15, 0⟩
def LNT_ATTACHED_MASK : Fld := ⟨0x340c4, 31, 0⟩
def LNT_SILENT_MASK : Fld := ⟨0x340c8, 31, 0⟩
def LNT_PARKED_MASK : Fld := ⟨0x340cc, 31, 0⟩
def LNT_SIDX_PARTITION : Fld := ⟨0x340d0, 4, 0⟩
def LNT_SSTAT_PHASE : Fld := ⟨0x340d4, 31, 29⟩
def LNT_SSTAT_CAUSE : Fld := ⟨0x340d4, 28, 26⟩
def LNT_SSTAT_MS_LEFT : Fld := ⟨0x340d4, 25, 0⟩
def LNT_EXPIRED_COUNT : Fld := ⟨0x340d8, 13, 0⟩
def FTG_STATE_STORE : Fld := ⟨0x40040, 31, 29⟩
def FTG_STATE_SEALED : Fld := ⟨0x40040, 11, 0⟩
def FTG_IMG_IDX_IMAGE : Fld := ⟨0x40044, 11, 0⟩
def FTG_IMG_CMD_OP : Fld := ⟨0x40048, 31, 28⟩
def FTG_IMG_CMD_KIND : Fld := ⟨0x40048, 27, 26⟩
def FTG_IMG_CMD_OWNER : Fld := ⟨0x40048, 24, 20⟩
def FTG_IMG_STAT_BUSY : Fld := ⟨0x4004c, 31, 31⟩
def FTG_IMG_STAT_FAIL : Fld := ⟨0x4004c, 30, 30⟩
def FTG_IMG_STAT_STATE : Fld := ⟨0x4004c, 29, 27⟩
def FTG_IMG_STAT_KIND : Fld := ⟨0x4004c, 26, 25⟩
def FTG_IMG_STAT_OWNER : Fld := ⟨0x4004c, 24, 20⟩
def FTG_IMG_STAT_STATUS : Fld := ⟨0x4004c, 15, 0⟩
def FTG_IMG_SIZE_LO_BYTES : Fld := ⟨0x40050, 31, 0⟩
def FTG_IMG_SIZE_HI_BYTES : Fld := ⟨0x40054, 11, 0⟩
def FTG_WIN_IMAGE : Fld := ⟨0x40058, 27, 16⟩
def FTG_WIN_SEGMENT : Fld := ⟨0x40058, 7, 0⟩
def FTG_FREE_GB : Fld := ⟨0x4005c, 31, 0⟩
def FTG_LOAD_ACTIVE : Fld := ⟨0x40060, 31, 31⟩
def FTG_LOAD_RELOAD : Fld := ⟨0x40060, 30, 30⟩
def FTG_LOAD_MSLOT : Fld := ⟨0x40060, 29, 24⟩
def FTG_LOAD_IMAGE : Fld := ⟨0x40060, 11, 0⟩
def FTG_LOAD_DONE_MIB : Fld := ⟨0x40064, 31, 0⟩
def FTG_LOAD_TOTAL_MIB : Fld := ⟨0x40068, 31, 0⟩
def FTG_CH_STATE_STATE : Fld := ⟨0x41040, 31, 30⟩
def FTG_CH_STATE_DIES_OK : Fld := ⟨0x41040, 29, 26⟩
def FTG_CH_RD_GIB : Fld := ⟨0x41044, 31, 0⟩
def FTG_CH_CE_COUNT : Fld := ⟨0x41048, 31, 0⟩
def FTG_CH_RETRY_COUNT : Fld := ⟨0x4104c, 31, 0⟩
def FTG_CH_UE_COUNT : Fld := ⟨0x41050, 31, 0⟩
def FTG_PE_MAX_CYCLES : Fld := ⟨0x42040, 15, 0⟩
def FTG_PE_AVG_CYCLES : Fld := ⟨0x42044, 15, 0⟩
def FTG_SPARE_BLOCKS : Fld := ⟨0x42048, 19, 0⟩
def FTG_SPARE_LOW_BLOCKS : Fld := ⟨0x4204c, 19, 0⟩
def FTG_REFRESHED_COUNT : Fld := ⟨0x42050, 31, 0⟩
def FTG_REFRESH_BITS_REFRESH_BITS : Fld := ⟨0x42054, 7, 0⟩
def REG_INDEX_GRANULE : Fld := ⟨0x100040, 14, 0⟩
def REG_ENTRY_LO_ENTRY_LO : Fld := ⟨0x100048, 31, 0⟩
def REG_ENTRY_HI_ENTRY_HI : Fld := ⟨0x10004c, 31, 0⟩
def REG_COUNT_ENTRIES : Fld := ⟨0x100050, 15, 0⟩
def REG_GEN_GEN : Fld := ⟨0x100054, 31, 0⟩
def REG_SCRUB_CTL_SWEEPING : Fld := ⟨0x101040, 31, 31⟩
def REG_SCRUB_CTL_PERIOD_MS : Fld := ⟨0x101040, 11, 0⟩
def REG_SCRUB_SWEEPS_COUNT : Fld := ⟨0x101044, 31, 0⟩
def REG_SCRUB_LAG_MS : Fld := ⟨0x101048, 15, 0⟩
def REG_OPEN_FAULTS_COUNT : Fld := ⟨0x10104c, 31, 0⟩
def REG_GUARD_CE_COUNT : Fld := ⟨0x101050, 31, 0⟩
def REG_GUARD_UE_COUNT : Fld := ⟨0x101054, 31, 0⟩
def REG_HASH_MISMATCH_COUNT : Fld := ⟨0x101058, 31, 0⟩
def REG_RELOADS_COUNT : Fld := ⟨0x10105c, 31, 0⟩
def REG_RELOAD_STAT_BUSY : Fld := ⟨0x101060, 31, 31⟩
def REG_RELOAD_STAT_FAIL : Fld := ⟨0x101060, 30, 30⟩
def REG_RELOAD_STAT_MSLOT : Fld := ⟨0x101060, 5, 0⟩
def REG_SUSPECT_CNT_COUNT : Fld := ⟨0x101064, 31, 0⟩
def REG_RECOMPUTES_FAILED : Fld := ⟨0x101068, 31, 16⟩
def REG_RECOMPUTES_DONE : Fld := ⟨0x101068, 15, 0⟩
def YRD_BIDX_BLOCK : Fld := ⟨0x110040, 14, 0⟩
def YRD_BENTRY_KIND : Fld := ⟨0x110044, 31, 30⟩
def YRD_BENTRY_OWNED : Fld := ⟨0x110044, 29, 29⟩
def YRD_BENTRY_OWNER : Fld := ⟨0x110044, 28, 24⟩
def YRD_BENTRY_BUSY : Fld := ⟨0x110044, 23, 23⟩
def YRD_BGEN_GEN : Fld := ⟨0x110048, 31, 0⟩
def YRD_CLS0_FLOOR : Fld := ⟨0x11004c, 25, 16⟩
def YRD_CLS0_CAP : Fld := ⟨0x11004c, 10, 0⟩
def YRD_CLS1_FLOOR : Fld := ⟨0x110050, 25, 16⟩
def YRD_CLS1_CAP : Fld := ⟨0x110050, 10, 0⟩
def YRD_CLS2_FLOOR : Fld := ⟨0x110054, 25, 16⟩
def YRD_CLS2_CAP : Fld := ⟨0x110054, 10, 0⟩
def YRD_CLS3_FLOOR : Fld := ⟨0x110058, 25, 16⟩
def YRD_CLS3_CAP : Fld := ⟨0x110058, 10, 0⟩
def YRD_CLS4_FLOOR : Fld := ⟨0x11005c, 25, 16⟩
def YRD_CLS4_CAP : Fld := ⟨0x11005c, 10, 0⟩
def YRD_CLS5_FLOOR : Fld := ⟨0x110060, 25, 16⟩
def YRD_CLS5_CAP : Fld := ⟨0x110060, 10, 0⟩
def YRD_ACQ_CNT_COUNT : Fld := ⟨0x110064, 31, 0⟩
def YRD_ACQ_MAX_NS : Fld := ⟨0x110068, 31, 0⟩
def YRD_STALL_MAX_NS : Fld := ⟨0x11006c, 31, 0⟩
def YRD_SPARE_CMD_OP : Fld := ⟨0x110070, 31, 28⟩
def YRD_SPARE_CMD_LOGICAL : Fld := ⟨0x110070, 5, 0⟩
def YRD_SPARE_STAT_BUSY : Fld := ⟨0x110074, 31, 31⟩
def YRD_SPARE_STAT_FAIL : Fld := ⟨0x110074, 30, 30⟩
def YRD_SPARE_STAT_SPARES_LEFT : Fld := ⟨0x110074, 9, 8⟩
def YRD_SPARE_STAT_PROGRESS : Fld := ⟨0x110074, 7, 0⟩
def YRD_SLAB_STATE_ROLE : Fld := ⟨0x111040, 31, 30⟩
def YRD_SLAB_STATE_LOGICAL : Fld := ⟨0x111040, 29, 24⟩
def YRD_SLAB_STATE_CACHE_BLOCKS : Fld := ⟨0x111040, 9, 0⟩
def YRD_PF_CTL_ENABLE : Fld := ⟨0x111044, 31, 31⟩
def YRD_PF_CTL_DEPTH : Fld := ⟨0x111044, 8, 0⟩
def YRD_HITS_COUNT : Fld := ⟨0x111048, 31, 0⟩
def YRD_MISSES_COUNT : Fld := ⟨0x11104c, 31, 0⟩
def YRD_PF_LINES_COUNT : Fld := ⟨0x111050, 31, 0⟩
def YRD_PF_USED_COUNT : Fld := ⟨0x111054, 31, 0⟩
def YRD_PF_ACTIVE_STREAMS : Fld := ⟨0x111058, 6, 0⟩
def YRD_QOCC_ENTRIES : Fld := ⟨0x11105c, 10, 0⟩
def YRD_QPEAK_ENTRIES : Fld := ⟨0x111060, 10, 0⟩
def YRD_CE_CNT_COUNT : Fld := ⟨0x111064, 31, 0⟩
def YRD_UE_CNT_COUNT : Fld := ⟨0x111068, 31, 0⟩
def YRD_DIRTY_LINES : Fld := ⟨0x11106c, 23, 0⟩
def YRD_QIDX_PARTITION : Fld := ⟨0x112040, 4, 0⟩
def YRD_Q_LAND_BLOCKS : Fld := ⟨0x112044, 14, 0⟩
def YRD_Q_WORK_BLOCKS : Fld := ⟨0x112048, 14, 0⟩
def YRD_Q_WUSED_KIB : Fld := ⟨0x11204c, 20, 0⟩
def YRD_Q_WPEAK_KIB : Fld := ⟨0x112050, 20, 0⟩
def YRD_Q_CACHE_CAP : Fld := ⟨0x112054, 31, 16⟩
def YRD_Q_CACHE_FLOOR : Fld := ⟨0x112054, 15, 0⟩
def YRD_Q_COCC_UNITS : Fld := ⟨0x112058, 15, 0⟩
def YRD_Q_WAITS_COUNT : Fld := ⟨0x11205c, 31, 0⟩
def BND_PLANES_PHYS : Fld := ⟨0x120040, 13, 8⟩
def BND_PLANES_ACTIVE : Fld := ⟨0x120040, 5, 0⟩
def BND_PLANE_OK_LO_OK : Fld := ⟨0x120044, 31, 0⟩
def BND_PLANE_OK_HI_OK : Fld := ⟨0x120048, 17, 0⟩
def BND_ELEMS_LO_COUNT : Fld := ⟨0x12004c, 31, 0⟩
def BND_ELEMS_HI_COUNT : Fld := ⟨0x120050, 31, 0⟩
def BND_OVERLAP_CNT_COUNT : Fld := ⟨0x120054, 31, 0⟩
def BND_RANGE_CNT_COUNT : Fld := ⟨0x120058, 31, 0⟩
def BND_COALESCED_COUNT : Fld := ⟨0x12005c, 31, 0⟩
def BND_PARITY_CNT_COUNT : Fld := ⟨0x120060, 31, 0⟩
def HOD_STATE_ACTIVITY : Fld := ⟨0x130040, 31, 29⟩
def HOD_STATE_ASSIGNED : Fld := ⟨0x130040, 28, 28⟩
def HOD_STATE_PARTITION : Fld := ⟨0x130040, 27, 23⟩
def HOD_WALK_TMO_US : Fld := ⟨0x130044, 19, 0⟩
def HOD_WALKS_COUNT : Fld := ⟨0x130048, 31, 0⟩
def HOD_PASSES_COUNT : Fld := ⟨0x13004c, 31, 0⟩
def HOD_GROUP_WAIT_NS : Fld := ⟨0x130050, 31, 0⟩
def HOD_CUR_SEQ_VALID : Fld := ⟨0x131040, 31, 31⟩
def HOD_CUR_SEQ_PHASE : Fld := ⟨0x131040, 30, 27⟩
def HOD_CUR_SEQ_SEQ : Fld := ⟨0x131040, 12, 0⟩
def HOD_CUR_LAYER_ROUND : Fld := ⟨0x131044, 31, 16⟩
def HOD_CUR_LAYER_LAYER : Fld := ⟨0x131044, 7, 0⟩
def HOD_CUR_PAGE_PAGE : Fld := ⟨0x131048, 31, 0⟩
def HOD_FAULT_VALID : Fld := ⟨0x13104c, 31, 31⟩
def HOD_FAULT_SEQ : Fld := ⟨0x13104c, 28, 16⟩
def HOD_FAULT_STATUS : Fld := ⟨0x13104c, 15, 0⟩
def HOD_FAULT_PAGE_PAGE : Fld := ⟨0x131050, 31, 0⟩
def HOD_FAULT_LOC_INDEX : Fld := ⟨0x131054, 19, 8⟩
def HOD_FAULT_LOC_LAYER : Fld := ⟨0x131054, 7, 0⟩
def SEQ_CTRL_ENABLE : Fld := ⟨0x140040, 0, 0⟩
def SEQ_INFLIGHT_STEPS : Fld := ⟨0x140044, 12, 0⟩
def SEQ_STEPS_LO_COUNT : Fld := ⟨0x140048, 31, 0⟩
def SEQ_STEPS_HI_COUNT : Fld := ⟨0x14004c, 31, 0⟩
def SEQ_ADMIT_FAIL_VALID : Fld := ⟨0x140050, 31, 31⟩
def SEQ_ADMIT_FAIL_SEQ : Fld := ⟨0x140050, 28, 16⟩
def SEQ_ADMIT_FAIL_STATUS : Fld := ⟨0x140050, 15, 0⟩
def SEQ_ADMIT_FCNT_COUNT : Fld := ⟨0x140054, 31, 0⟩
def SEQ_MS_IDX_SLOT : Fld := ⟨0x140058, 5, 0⟩
def SEQ_MS_STAT_STATE : Fld := ⟨0x14005c, 31, 30⟩
def SEQ_MS_STAT_PARTITION : Fld := ⟨0x14005c, 28, 24⟩
def SEQ_MS_STAT_GEN : Fld := ⟨0x14005c, 15, 0⟩
def SEQ_AS_IDX_SLOT : Fld := ⟨0x140060, 9, 0⟩
def SEQ_AS_STAT_STATE : Fld := ⟨0x140064, 31, 30⟩
def SEQ_AS_STAT_MSLOT : Fld := ⟨0x140064, 29, 24⟩
def SEQ_AS_STAT_LIVE : Fld := ⟨0x140064, 23, 20⟩
def SEQ_AS_STAT_CUR_VER : Fld := ⟨0x140064, 15, 0⟩
def SEQ_SELECT_MAX_NS : Fld := ⟨0x140068, 15, 0⟩
def SEQ_IDX_ENTRY : Fld := ⟨0x141040, 12, 0⟩
def SEQ_ENTRY_BYTES : Fld := ⟨0x141080, 31, 0⟩
def SEQ_PIDX_PARTITION : Fld := ⟨0x142040, 4, 0⟩
def SEQ_QUOTA_USED : Fld := ⟨0x142044, 29, 16⟩
def SEQ_QUOTA_QUOTA : Fld := ⟨0x142044, 13, 0⟩
def SEQ_POOL_BASE_LO_BASE : Fld := ⟨0x142048, 31, 6⟩
def SEQ_POOL_BASE_HI_BASE : Fld := ⟨0x14204c, 11, 0⟩
def SEQ_POOL_SIZE_LOG2 : Fld := ⟨0x142050, 4, 0⟩
def SEQ_POOL_HEAD_INDEX : Fld := ⟨0x142054, 23, 0⟩
def SEQ_POOL_TAIL_INDEX : Fld := ⟨0x142058, 23, 0⟩
def SEQ_POOL_ADD_PAGE : Fld := ⟨0x14205c, 31, 0⟩
def SEQ_POOL_LOW_COUNT : Fld := ⟨0x142060, 23, 0⟩
def SEQ_POLICY_INFLIGHT : Fld := ⟨0x142064, 19, 16⟩
def SEQ_POLICY_STEP_TOKENS : Fld := ⟨0x142064, 15, 0⟩
def SEQ_MAXSEQ_MAX_SEQ : Fld := ⟨0x142068, 12, 0⟩
def SEQ_PFX_MODE_MODE : Fld := ⟨0x143040, 1, 0⟩
def SEQ_PFX_BASE_LO_BASE : Fld := ⟨0x143044, 31, 0⟩
def SEQ_PFX_BASE_HI_BASE : Fld := ⟨0x143048, 11, 0⟩
def SEQ_PFX_BLOCKS_COUNT : Fld := ⟨0x14304c, 23, 0⟩
def SEQ_PFX_HITS_COUNT : Fld := ⟨0x143050, 31, 0⟩
def SEQ_PFX_MISSES_COUNT : Fld := ⟨0x143054, 31, 0⟩
def SEQ_PFX_EVICTS_COUNT : Fld := ⟨0x143058, 31, 0⟩
def SEQ_PFX_SIZE_MIB : Fld := ⟨0x14305c, 15, 0⟩
def PRT_STATE_FAIL : Fld := ⟨0x150040, 31, 31⟩
def PRT_STATE_STATE : Fld := ⟨0x150040, 2, 0⟩
def PRT_CMD_OP : Fld := ⟨0x150044, 3, 0⟩
def PRT_MODE_LIVE : Fld := ⟨0x150048, 0, 0⟩
def PRT_OWNER_BOUND : Fld := ⟨0x15004c, 31, 31⟩
def PRT_OWNER_KEY : Fld := ⟨0x15004c, 7, 0⟩
def PRT_POOL_FIRST : Fld := ⟨0x151040, 31, 18⟩
def PRT_POOL_COUNT : Fld := ⟨0x151040, 17, 4⟩
def PRT_BGRP_GROUPS : Fld := ⟨0x151060, 31, 0⟩
def PRT_HOD_LO_ENGINES : Fld := ⟨0x151070, 31, 0⟩
def PRT_HOD_HI_ENGINES : Fld := ⟨0x151074, 31, 0⟩
def PRT_POOL_COUNT_BRICKS : Fld := ⟨0x151078, 13, 0⟩
def PRT_RG_STK_FLOOR_GBPS : Fld := ⟨0x152040, 19, 0⟩
def PRT_RG_STK_CAP_GBPS : Fld := ⟨0x152044, 19, 0⟩
def PRT_RG_YRD_FLOOR_GBPS : Fld := ⟨0x152048, 19, 0⟩
def PRT_RG_YRD_CAP_GBPS : Fld := ⟨0x15204c, 19, 0⟩
def PRT_RG_LNK_FLOOR_GBPS : Fld := ⟨0x152050, 19, 0⟩
def PRT_RG_LNK_CAP_GBPS : Fld := ⟨0x152054, 19, 0⟩
def PRT_RG_WAIT_STK_COUNT : Fld := ⟨0x152058, 31, 0⟩
def PRT_RG_WAIT_YRD_COUNT : Fld := ⟨0x15205c, 31, 0⟩
def PRT_RG_WAIT_LNK_COUNT : Fld := ⟨0x152060, 31, 0⟩
def PRT_QSEL_QUEUE : Fld := ⟨0x153040, 2, 0⟩
def PRT_QCTRL_PARKED : Fld := ⟨0x153044, 31, 31⟩
def PRT_QCTRL_DB_REFUSED : Fld := ⟨0x153044, 30, 30⟩
def PRT_QCTRL_RING_FAULT : Fld := ⟨0x153044, 29, 29⟩
def PRT_QCTRL_ENABLE : Fld := ⟨0x153044, 0, 0⟩
def PRT_QBASE_LO_BASE : Fld := ⟨0x153048, 31, 6⟩
def PRT_QBASE_HI_BASE : Fld := ⟨0x15304c, 11, 0⟩
def PRT_QSIZE_LOG2 : Fld := ⟨0x153050, 3, 0⟩
def PRT_QHEAD_INDEX : Fld := ⟨0x153054, 15, 0⟩
def PRT_QTAIL_INDEX : Fld := ⟨0x153058, 15, 0⟩
def PRT_QADMIT_INDEX : Fld := ⟨0x15305c, 15, 0⟩
def PRT_QINFLIGHT_COUNT : Fld := ⟨0x153060, 9, 0⟩
def PRT_QRUNAHEAD_LIMIT : Fld := ⟨0x153064, 9, 0⟩
def PRT_CQBASE_LO_BASE : Fld := ⟨0x153068, 31, 6⟩
def PRT_CQBASE_HI_BASE : Fld := ⟨0x15306c, 11, 0⟩
def PRT_CQSIZE_LOG2 : Fld := ⟨0x153070, 3, 0⟩
def PRT_CQHEAD_INDEX : Fld := ⟨0x153074, 15, 0⟩
def PRT_CQTAIL_INDEX : Fld := ⟨0x153078, 15, 0⟩
def PRT_RQBASE_LO_BASE : Fld := ⟨0x15307c, 31, 6⟩
def PRT_RQBASE_HI_BASE : Fld := ⟨0x153080, 11, 0⟩
def PRT_RQSIZE_LOG2 : Fld := ⟨0x153084, 3, 0⟩
def PRT_RQHEAD_INDEX : Fld := ⟨0x153088, 15, 0⟩
def PRT_RQTAIL_INDEX : Fld := ⟨0x15308c, 15, 0⟩
def PRT_QRESUME_FLUSH : Fld := ⟨0x153090, 15, 8⟩
def PRT_QRESUME_RESUME : Fld := ⟨0x153090, 7, 0⟩
def PRT_QERR_TAG : Fld := ⟨0x153094, 31, 16⟩
def PRT_QERR_STATUS : Fld := ⟨0x153094, 15, 0⟩
def PRT_PIDX_REG : Fld := ⟨0x153098, 7, 0⟩
def PRT_PVAL_LO_VALUE : Fld := ⟨0x1530a0, 31, 0⟩
def PRT_PVAL_HI_VALUE : Fld := ⟨0x1530a4, 31, 0⟩
def PRT_SILENCE_MS : Fld := ⟨0x154040, 15, 0⟩
def PRT_RETAIN_S : Fld := ⟨0x154044, 15, 0⟩
def PRT_HAZARD_TRAP : Fld := ⟨0x155040, 0, 0⟩
def CYT_CTRL_PENDING : Fld := ⟨0x160040, 31, 31⟩
def CYT_CTRL_COMMIT : Fld := ⟨0x160040, 1, 1⟩
def CYT_CTRL_ENABLE : Fld := ⟨0x160040, 0, 0⟩
def CYT_PERIOD_US : Fld := ⟨0x160044, 16, 0⟩
def CYT_NSLOTS_COUNT : Fld := ⟨0x160048, 8, 0⟩
def CYT_COUNT_US : Fld := ⟨0x16004c, 16, 0⟩
def CYT_PERIODS_COUNT : Fld := ⟨0x160050, 31, 0⟩
def CYT_SHIFT_US : Fld := ⟨0x160054, 17, 0⟩
def CYT_IDLE_MASK : Fld := ⟨0x160058, 5, 0⟩
def CYT_REFUSE_SLOT : Fld := ⟨0x16005c, 16, 8⟩
def CYT_REFUSE_CHECK : Fld := ⟨0x16005c, 2, 0⟩
def CYT_SIDX_SLOT : Fld := ⟨0x161040, 7, 0⟩
def CYT_SLOT0_START_US : Fld := ⟨0x161044, 31, 15⟩
def CYT_SLOT0_CLASS : Fld := ⟨0x161044, 14, 12⟩
def CYT_SLOT1_LEN_US : Fld := ⟨0x161048, 31, 15⟩
def CYT_SLOT1_OVERDRAFT : Fld := ⟨0x161048, 7, 0⟩
def CYT_SLOT2_BRICK_US : Fld := ⟨0x16104c, 29, 0⟩
def CYT_SLOT3_COLOPS : Fld := ⟨0x161050, 27, 0⟩
def CYT_SLOT4_YARD : Fld := ⟨0x161054, 27, 0⟩
def CYT_BAL_BRK_BALANCE : Fld := ⟨0x161058, 31, 0⟩
def CYT_BAL_COL_BALANCE : Fld := ⟨0x16105c, 31, 0⟩
def CYT_BAL_YRD_BALANCE : Fld := ⟨0x161060, 31, 0⟩
def CYT_SLSTAT_ACTIVE : Fld := ⟨0x161064, 31, 31⟩
def CYT_SLSTAT_SHORT : Fld := ⟨0x161064, 30, 30⟩
def CYT_SLSTAT_STOPS : Fld := ⟨0x161064, 15, 0⟩
def STK_STATE_DIE_OK : Fld := ⟨0x200040, 31, 16⟩
def STK_STATE_TEMP_MAX : Fld := ⟨0x200040, 15, 8⟩
def STK_STATE_LEVEL : Fld := ⟨0x200040, 7, 6⟩
def STK_STATE_HOT : Fld := ⟨0x200040, 5, 5⟩
def STK_TRAIN_START : Fld := ⟨0x200044, 31, 31⟩
def STK_TRAIN_PHASE : Fld := ⟨0x200044, 30, 28⟩
def STK_TRAIN_RESULT : Fld := ⟨0x200044, 15, 0⟩
def STK_CHOK_LO_CH_OK : Fld := ⟨0x200048, 31, 0⟩
def STK_CHOK_HI_CH_OK : Fld := ⟨0x20004c, 31, 0⟩
def STK_TCAW_WINDOW_NS : Fld := ⟨0x201040, 15, 8⟩
def STK_TCAW_MAX_ACT : Fld := ⟨0x201040, 7, 0⟩
def STK_TCRRD_NS : Fld := ⟨0x201044, 7, 0⟩
def STK_CONC_BANKS : Fld := ⟨0x201048, 5, 0⟩
def STK_TCPW_ACTS : Fld := ⟨0x20104c, 9, 0⟩
def STK_DERATE_FLOOR : Fld := ⟨0x201050, 9, 8⟩
def STK_DERATE_KILN_LEVEL : Fld := ⟨0x201050, 1, 0⟩
def STK_DRAMT_TRFCPB : Fld := ⟨0x201054, 31, 16⟩
def STK_DRAMT_TRC : Fld := ⟨0x201054, 15, 0⟩
def STK_BUSTAT_READY : Fld := ⟨0x202040, 31, 0⟩
def STK_PASSCNT_PASSES : Fld := ⟨0x2020c0, 31, 0⟩
def STK_REFCTL_PULLIN_MAX : Fld := ⟨0x203040, 3, 0⟩
def STK_REFCNT_IN_PASS : Fld := ⟨0x203044, 31, 0⟩
def STK_RPR_CMD_OP : Fld := ⟨0x204040, 31, 28⟩
def STK_RPR_CMD_DIE : Fld := ⟨0x204040, 27, 24⟩
def STK_RPR_CMD_BANK : Fld := ⟨0x204040, 23, 18⟩
def STK_RPR_CMD_ROW : Fld := ⟨0x204040, 15, 0⟩
def STK_RPR_STAT_BUSY : Fld := ⟨0x204044, 31, 31⟩
def STK_RPR_STAT_FAIL : Fld := ⟨0x204044, 30, 30⟩
def STK_RPR_STAT_EXHAUSTED : Fld := ⟨0x204044, 29, 29⟩
def STK_RPR_STAT_PROGRESS : Fld := ⟨0x204044, 7, 0⟩
def STK_SPARE_ROWS_MIN_BANK : Fld := ⟨0x204048, 31, 24⟩
def STK_SPARE_ROWS_TOTAL : Fld := ⟨0x204048, 16, 0⟩
def STK_SPARE_BANKS_LEFT : Fld := ⟨0x20404c, 31, 0⟩
def STK_CE_CNT_COUNT : Fld := ⟨0x205040, 31, 0⟩
def STK_UE_CNT_COUNT : Fld := ⟨0x205044, 31, 0⟩
def STK_MERGE_POISON_COUNT : Fld := ⟨0x205048, 31, 0⟩
def STK_HOLD_MAX_NS : Fld := ⟨0x20504c, 15, 0⟩
def STK_PASS_REFUSED_COUNT : Fld := ⟨0x205050, 31, 0⟩
def QLK_STATE_STATE : Fld := ⟨0x210040, 31, 29⟩
def QLK_STATE_WIDTH : Fld := ⟨0x210040, 28, 27⟩
def QLK_STATE_CABLE : Fld := ⟨0x210040, 26, 26⟩
def QLK_STATE_PEER_VALID : Fld := ⟨0x210040, 25, 25⟩
def QLK_STATE_PEER_DEV : Fld := ⟨0x210040, 24, 13⟩
def QLK_CTRL_TRAIN : Fld := ⟨0x210044, 31, 31⟩
def QLK_CTRL_DISABLE : Fld := ⟨0x210044, 30, 30⟩
def QLK_TMO_RSP_TMO : Fld := ⟨0x210048, 31, 16⟩
def QLK_TMO_CRED_TMO : Fld := ⟨0x210048, 15, 0⟩
def QLK_DOWN_CAUSE_CAUSE : Fld := ⟨0x21004c, 3, 0⟩
def QLK_REACH_REACH : Fld := ⟨0x210400, 31, 0⟩
def QLK_TXMAP_MAP : Fld := ⟨0x211040, 23, 0⟩
def QLK_RXMAP_MAP : Fld := ⟨0x211044, 23, 0⟩
def QLK_SPARE_CMD_OP : Fld := ⟨0x211048, 31, 28⟩
def QLK_SPARE_CMD_LANE : Fld := ⟨0x211048, 27, 26⟩
def QLK_SPARE_STAT_BUSY : Fld := ⟨0x21104c, 31, 31⟩
def QLK_SPARE_STAT_FAIL : Fld := ⟨0x21104c, 30, 30⟩
def QLK_SPARE_STAT_TX_LEFT : Fld := ⟨0x21104c, 7, 4⟩
def QLK_SPARE_STAT_RX_LEFT : Fld := ⟨0x21104c, 3, 0⟩
def QLK_LANE_SNR_SNR : Fld := ⟨0x211050, 31, 0⟩
def QLK_CRED_INIT_RQH : Fld := ⟨0x212040, 31, 22⟩
def QLK_CRED_INIT_RQD : Fld := ⟨0x212040, 21, 8⟩
def QLK_CRED_INIT_MGT : Fld := ⟨0x212040, 7, 0⟩
def QLK_CRED_NOW_RQH : Fld := ⟨0x212044, 31, 22⟩
def QLK_CRED_NOW_RQD : Fld := ⟨0x212044, 21, 8⟩
def QLK_CRED_NOW_MGT : Fld := ⟨0x212044, 7, 0⟩
def QLK_RETRY_DEPTH : Fld := ⟨0x212048, 31, 16⟩
def QLK_RETRY_NAK_LIMIT : Fld := ⟨0x212048, 15, 8⟩
def QLK_NAK_CNT_COUNT : Fld := ⟨0x21204c, 31, 0⟩
def QLK_REPLAY_CNT_COUNT : Fld := ⟨0x212050, 31, 0⟩
def QLK_RETRAIN_CNT_COUNT : Fld := ⟨0x212054, 31, 0⟩
def QLK_FEC_CE_COUNT : Fld := ⟨0x212058, 31, 0⟩
def QLK_FEC_UE_COUNT : Fld := ⟨0x21205c, 31, 0⟩
def QLK_KEYSTAT_TX_EPOCH : Fld := ⟨0x213040, 31, 30⟩
def QLK_KEYSTAT_RX_EPOCH : Fld := ⟨0x213040, 29, 28⟩
def QLK_KEYSTAT_KEYED : Fld := ⟨0x213040, 27, 27⟩
def QLK_KEYSTAT_REKEYING : Fld := ⟨0x213040, 26, 26⟩
def QLK_TXCTR_LO_TXCTR : Fld := ⟨0x213044, 31, 0⟩
def QLK_TXCTR_HI_TXCTR : Fld := ⟨0x213048, 31, 0⟩
def QLK_REKEY_REKEY_S : Fld := ⟨0x21304c, 15, 0⟩
def QLK_TAGFAIL_CNT_COUNT : Fld := ⟨0x213050, 31, 0⟩
def QLK_IMPORT_IDX_ENTRY : Fld := ⟨0x213054, 4, 0⟩
def QLK_IMPORT_VALID : Fld := ⟨0x213058, 31, 31⟩
def QLK_IMPORT_SRC_DEV : Fld := ⟨0x213058, 30, 19⟩
def QLK_IMPORT_SRC_PART : Fld := ⟨0x213058, 18, 14⟩
def QLK_IMPORT_LOCAL_PART : Fld := ⟨0x213058, 13, 9⟩
def QLK_TXF_LO_COUNT : Fld := ⟨0x214040, 31, 0⟩
def QLK_TXF_HI_COUNT : Fld := ⟨0x214044, 31, 0⟩
def QLK_RXF_LO_COUNT : Fld := ⟨0x214048, 31, 0⟩
def QLK_RXF_HI_COUNT : Fld := ⟨0x21404c, 31, 0⟩
def QLK_MISDIR_CNT_COUNT : Fld := ⟨0x214050, 31, 0⟩
def QLK_DENY_CNT_COUNT : Fld := ⟨0x214054, 31, 0⟩
def BRK_STATE_ROLE : Fld := ⟨0x300040, 31, 30⟩
def BRK_STATE_LOGICAL : Fld := ⟨0x300040, 29, 16⟩
def BRK_STATE_ASSIGNED : Fld := ⟨0x300040, 15, 15⟩
def BRK_STATE_PARTITION : Fld := ⟨0x300040, 14, 10⟩
def BRK_MAP_CMD_OP : Fld := ⟨0x300044, 31, 28⟩
def BRK_MAP_CMD_LOGICAL : Fld := ⟨0x300044, 27, 14⟩
def BRK_MAP_CMD_SPARE : Fld := ⟨0x300044, 5, 0⟩
def BRK_MAP_STAT_BUSY : Fld := ⟨0x300048, 31, 31⟩
def BRK_MAP_STAT_FAIL : Fld := ⟨0x300048, 30, 30⟩
def BRK_MAP_STAT_SPARES_LEFT : Fld := ⟨0x300048, 5, 0⟩
def BRK_ISSUE_TMO_US : Fld := ⟨0x30004c, 19, 0⟩
def BRK_PRESENT_PRESENT : Fld := ⟨0x300050, 31, 0⟩
def BRK_HAZ_VALID : Fld := ⟨0x301040, 31, 31⟩
def BRK_HAZ_MULTI : Fld := ⟨0x301040, 30, 30⟩
def BRK_HAZ_ENGINE : Fld := ⟨0x301040, 29, 27⟩
def BRK_HAZ_PC : Fld := ⟨0x301040, 12, 0⟩
def BRK_HAZ_ADDR_SPACE : Fld := ⟨0x301044, 19, 19⟩
def BRK_HAZ_ADDR_ADDR : Fld := ⟨0x301044, 18, 0⟩
def BRK_HAZ_CNT_COUNT : Fld := ⟨0x301048, 31, 0⟩
def BRK_POISON_CNT_COUNT : Fld := ⟨0x302040, 31, 0⟩
def BRK_PARITY_CNT_COUNT : Fld := ⟨0x302044, 31, 0⟩
def BRK_ISSUE_WAIT_MAX_CYCLES : Fld := ⟨0x302048, 31, 0⟩
def BRK_CYCLES_COUNT : Fld := ⟨0x30204c, 31, 0⟩
def BRK_TILE_BUSY_COUNT : Fld := ⟨0x302050, 31, 0⟩
def BRK_TILE_ROWS_COUNT : Fld := ⟨0x302054, 31, 0⟩

end F

end Sys2Proof.Machine
end

