-- ==== Sys2Proof/Machine/State.lean ====
section
/-! DEFINITION. The state of the block as plain data: every register, memory, queue, table and pin the spec gives the
machine, the queue of waiting commands, and the state right after reset. Registers stand in one sparse store (`regs`),
keyed by address, instance and sub-index; RegTable.lean holds the register table and Ops.lean the one way to read and write
them. -/

namespace Sys2Proof.Machine

/-- The register blocks of Table 2-10. -/
inductive Blk where
  | kst | trw | kln | lnt | ftg | reg | yrd | bnd | hod | seq | prt | cyt | stk | qlk | brk
deriving DecidableEq, Repr

/-- The device states of Table 17-1. -/
inductive DevState where
  | off | boot | bringup | standby | ready | warmReset | failed
deriving DecidableEq, Repr

/-- What leaves the block, in order: answers to requesters, host traffic, frames, interrupts and the words the service
connector reads. The model only appends to this record and never reads it. -/
inductive Out where
  | regReply (r : Requester) (status data : Nat)
  | cpl (link tid status : Nat)
  | cpld (link tid status : Nat) (data : List Byte)
  | intr (vector source : Nat)
  | fwIntr (core block inst cause : Nat)
  | sideband (status value : Nat)
  | smbus (word : Nat)
  | flit (link kind fseq ack : Nat)
  | frame (qlink kind fseq : Nat)
  | message (qlink : Nat) (name : String) (tid status : Nat) (data : List Byte)
  | tap (bypass : Bool)
  | memReply (part status : Nat) (data : List Byte)
  | console (failure : Nat)
deriving DecidableEq, Repr

/-- One link connector's cable and its `CBL_3V3` supply (R24, R25). -/
inductive Cable where
  | absent | powered | tripped
deriving DecidableEq, Repr

/-- The power sequencer, the connectors' pins and the fields of the power status word (chapter 1). -/
structure Power where
  pwrState : Nat := 0          -- PWR_STATE of Table 1-8
  cause : Nat := 0             -- PWR_CAUSE
  vin : Nat := 0               -- 20 mV units
  pin : Nat := 0               -- 2 W units
  flow : Nat := 0              -- 0.1 L/min units
  tInlet : Nat := 0            -- 0.5 °C units
  tjMax : Nat := 0             -- °C
  wordChanged : Bool := false  -- SMB_ALERT_N is low
  pwrEn : Bool := false
  coldResetN : Bool := true
  vinPrsnt : Bool := true      -- VIN_PRSNT_N mated
  pwrGood : Bool := false
  svc3v3 : Bool := false
  thermTripN : Bool := true
  smbAddr0 : Bool := false
  smbAddr1 : Bool := false
  cables : List (Nat × Cable) := []
deriving DecidableEq, Repr

/-- The device state, the grade and the fuses (chapters 0 and 17). -/
structure Device where
  st : DevState := .off
  gradeC : Bool := false       -- KR1696-C
  devNum : Nat := 0
  rootHash : List Byte := []
  footingSeed : List Byte := []  -- the fused Footing key seed (R469)
  arb : List (Nat × Nat) := []  -- blown fuses of each anti-rollback counter
  identity : List Byte := []   -- hash of the identity derived at power-up (R439); kept over a cold reset
  releaseHeld : Bool := false  -- start-up failure with firmware running (R444): bricks and Hod engines stay held
  romRecovery : Bool := false  -- Keystone's ROM holds the device for recovery (R483)
  fillRunning : Bool := false
  stacksDone : List Nat := []  -- stacks that finished or failed training in this start-up
  draining : Bool := false     -- a warm reset drains
  warmResets : Nat := 0        -- since cold reset
  failStep : Nat := 0
deriving DecidableEq, Repr

/-- A Footing directory entry (R409). -/
structure Image where
  state : Nat := 0             -- 0 FREE, 1 STAGING, 2 SEALING, 3 SEALED
  kind : Nat := 0
  owner : Nat := 0
  size : Nat := 0              -- bytes reserved (`FTG_IMG_SIZE`)
  gen : Nat := 0               -- advances on DELETE (R408)
  busy : Bool := false
  fail : Bool := false
  status : Nat := 0
  badDie : Bool := false       -- units on a failed die (R419)
deriving DecidableEq, Repr

/-- The Footing store (chapter 15). -/
structure Footing where
  dir : List (Nat × Image) := []
  data : List (Nat × Byte) := []       -- payload by (generation · 4,096 + image) · 2^44 + offset
  keyReg : List Byte := []             -- the controller's key register: the XTS key of the transfer in progress (R469)
  written : List (Nat × Nat) := []     -- unit (image · 2^32 + unit): mask of bytes written and not yet a whole unit
  programmed : List Nat := []          -- units already programmed, in rising order
  certs : List Byte := []              -- the reserved certificate area's chain (R454)
  waiting : List (Nat × Nat) := []     -- image commands (entry, value) waiting for the Footing duty (Table 16-4)
  deadDies : List Nat := []
  pendComps : List Nat := []           -- pending firmware components, last activated first (R476)
  oldImg : List (Nat × Nat) := []      -- image a fallback of each pending component restores
  loads : List Nat := []               -- MODEL_LOADs in the order of admission, by command
  blocksRead : Nat := 0                -- 1 MiB blocks the load paths have read
  brickRecord : List Nat := []         -- the brick repair record: physical bricks retired (R519)
  sparesUsed : Nat := 0                -- spare blocks taken since manufacture
  repairRecord : List (Nat × Nat) := []-- the repair record: stack · 2^32 + die and bank, with the row plus one or 0 (a bank)
deriving DecidableEq, Repr

/-- One procedure of a duty journal not yet complete (R427): the duty's core, the procedure's kind (1 repair, 2 brick mapping,
3 slab replacement, 4 MODEL_LOAD, 5 activation) and what it works on. -/
structure JEntry where
  core : Nat
  kind : Nat
  on : Nat
deriving DecidableEq, Repr

/-- The Trowel complex beyond its registers (chapter 16). -/
structure Trowel where
  journal : List JEntry := []
  winStart : List (Nat × Nat) := []    -- start of each core's LOOP_S window, ns
  lapseFrom : List (Nat × Nat) := []   -- last watchdog write before each core's lapse, ns
  moves : List (Nat × Nat) := []       -- duties on their way to a core that rebuilds (duty, core)
  lapsed : List Nat := []              -- duties lapsed until a cold reset
  heldErrs : List (Nat × Nat × Nat) := []  -- error interrupts waiting for the supervisor duty (R48): block, instance, cause
deriving DecidableEq, Repr

/-- One temperature sensor (R486, R487). -/
structure Sensor where
  temp : Int := 0              -- 0.25 °C units
  present : Bool := false      -- a reading has been taken
  fast : Bool := false
  nbRun : Nat := 0             -- consecutive samples failing the neighbour check
deriving DecidableEq, Repr

/-- Kiln beyond its registers (chapter 20). -/
structure Kiln where
  sensors : List (Nat × Sensor) := []
  reading : List (Nat × Int) := []     -- each region's reading, 0.25 °C units
  grace : List (Nat × Nat) := []       -- regions whose grace runs, with its start, ns
  spared : List Nat := []              -- near regions whose grace ended without enforcement (R489)
  asked : List Nat := []               -- near onsets T3 has not yet sent a request for
  ramp : List (Nat × Nat) := []        -- a die's rising clock after a clamp release, MHz
  lastEase : List (Nat × Nat) := []    -- last rise of a die's CEIL_MHZ, ms
  since : List (Nat × Nat) := []       -- since when a condition of a region holds (8 · region + condition), ns plus one
  p10 : Nat := 0                       -- input power averaged over 10 ms, W
  epTokens : Nat := 0                  -- tokens emitted in the running energy-profile window
deriving DecidableEq, Repr

/-- An import that a standing kind-2 grant asks for (R468). -/
structure ImportGrant where
  part : Nat
  peer : List Byte
  srcDev : Nat
  srcPart : Nat
  links : Nat
deriving DecidableEq, Repr

/-- Keystone beyond its registers (chapters 18 and 19). -/
structure Keystone where
  ownerKeys : List (Nat × List Byte) := []
  imports : List ImportGrant := []
  peerList : List (List Byte) := []
  peerMode : Nat := 0
  slotsBusy : List (Nat × List Byte) := []  -- exchange slots and the replies to their requests
  exchBase : Nat := 0                  -- the exchange area in channel 0's WORK blocks
  actImage : Nat := 0                  -- the image an activation or fallback brings in
  actLeft : List Nat := []             -- instances still to switch
  pausing : Bool := false              -- the first of them is in its pause
  fallLeft : List Nat := []            -- components a fallback has still to take back, the current one first
  runImage : List (Nat × Nat) := []    -- running image number of each component
  actMsg : List Byte := []             -- the ACTIVATE or REVERT in progress, whose reply is still to be written
  overruns : List (Nat × Nat) := []    -- pause overruns of each component while pending
  meas : List (Nat × List Byte) := []  -- measurement registers: MEAS0-7, then PMEASp as 8 + p (R456)
deriving DecidableEq, Repr

/-- One UCIe link of Lintel (R325 to R334). -/
structure HLink where
  rxNext : Nat := 0            -- next FSEQ expected
  txNext : Nat := 0            -- next FSEQ to send
  replay : List (Nat × List Out) := []  -- flits sent and not acknowledged, oldest first: FSEQ and what it carries
  toSend : List Out := []      -- completions and interrupts that wait for room in the replay buffer
  naks : Nat := 0              -- NAKs in a row naming the flit at the head of the replay buffer
  retrains : Nat := 0          -- retrains failed in a row
  retraining : Bool := false
  tids : List Nat := []        -- outstanding TIDs
  rq : Nat := 0                -- credits the host may still use
  pw : Nat := 0
  data : Nat := 0
  failed : Nat := 0            -- modules of the link failed beyond repair (bit mask 0-3)
deriving DecidableEq, Repr

/-- A firmware message not yet in its F2H ring (R344). -/
abbrev Msg := List Byte

/-- Lintel beyond its registers (chapter 12). -/
structure Lintel where
  linkA : HLink := {}
  linkB : HLink := {}
  holdoff : List Nat := []             -- sources in their HOLD_US
  held : List (Nat × List Msg) := []   -- F2H messages held, by channel
  ahead : Nat := 0                     -- messages of channel 0 acted on from `HEAD` on, the first still unanswered (R427)
  bells : List Nat := []               -- channels whose H2F doorbell rang since their ring was last found empty
  minor : Nat := 0                     -- interface minor in use
  major : Nat := 0
  expiry : List (Nat × List (Nat × Nat × Nat)) := []  -- by partition: sequence, GEN, queue (R354)
  expiryAt : List (Nat × Nat) := []    -- where the lists lie: partition and WORK unit (R250)
deriving DecidableEq, Repr

/-- Who owns a piece of work: no one, a command in flight, or work of an admitted step: sequence q; the draft stage of
sequence q as 8,192 + q; a training step's own work as 16,384; every sequence served under the template of given positions
as 16,385 and under the chunk template as 16,386; every draft stage as 16,387; the sequences of work item k as 32,768 + k. -/
inductive Own where
  | none
  | cmd (id : Nat)
  | step (num : Nat) (seq : Nat)
deriving DecidableEq, Repr

/-- Who asked for an access to memory, and is told when it has been served: pieces of work (told what went wrong), a partition
by an access of its own, a command that reads other devices' memory at global address `ga`, a host request (1 `MRD`, 2 `MWR`, 3 `MWRC`), or a request of another device with its response's `TOP`
and, where it reads owner-table entries, the partition they are shown to (R372). -/
inductive Asker where
  | work (os : List Own)
  | part (p : Nat)
  | read (id ga : Nat)
  | host (link kind tid agent part addr len : Nat)
  | peer (link top tid slots part : Nat) (owners : Bool)
deriving DecidableEq, Repr

/-- An access to local memory: 0 a read of `len` bytes, 1 a write of those bytes of `data` that are given, 2 an element-by-element
add of Table 3-11, 3 the scrub's read of a word, which only takes its turn; `bad` names words that a write leaves poisoned. -/
structure Access where
  op : Nat
  addr : Nat
  len : Nat
  type : Nat := 0
  data : List (Option Byte) := []
  bad : List Nat := []
deriving DecidableEq, Repr


/-- A line of the Yard cache (R252 to R255). A local line is a tag: its data is the memory's own; a line of another
device's memory holds its 64 bytes. -/
structure YLine where
  line : Nat                   -- global address / 64
  slab : Nat
  part : Nat
  dirty : Bool
  remote : Bool
  prefetched : Bool
  bytes : List Byte
  errs : List (Nat × Nat × Nat) := []  -- words whose copy is not clean: word of the line, inverted data bits, syndrome (R273)
deriving DecidableEq, Repr

/-- A declared sequential stream (R255). -/
structure Stream where
  slab : Nat
  part : Nat
  first : Nat                  -- first line of the range
  next : Nat                   -- next line to fetch
  last : Nat                   -- last line of the range
deriving DecidableEq, Repr

/-- A resident copy that a Bed keeps of a global range, or a brick of its routine set's image (R256); `coming` names the addresses of
requests for bytes of another device that it waits for. -/
structure Resident where
  brick : Nat
  base : Nat
  len : Nat
  routineSet : Bool
  off : Nat := 0
  coming : List Nat := []
deriving DecidableEq, Repr

/-- A block-table write whose conversion has not ended (R250): the block, its new entry, and the owner before (plus one; 0: none). -/
structure Conv where
  block : Nat
  entry : Nat
  was : Nat
deriving DecidableEq, Repr

/-- A request that waits for its slab's request queue, for a fill-buffer line or for its partition's regulator (R266, R267, R279):
who asked, its class, its global address, the access, and since when. -/
structure YReq where
  asker : Asker
  part : Nat
  cls : Nat
  slab : Nat
  ga : Nat
  acc : Access
  since : Nat
  counted : Bool := false      -- its wait for a refill is counted
deriving DecidableEq, Repr

/-- The Yard beyond its registers (chapter 9). -/
structure Yard where
  lines : List YLine := []             -- oldest use first
  streams : List Stream := []
  resident : List Resident := []
  converting : List Conv := []
  slabOf : List (Nat × Nat) := []      -- logical slab: physical slab, where not the same number
  spares : List Nat := []              -- physical slabs that are spares
  retired : List Nat := []             -- physical slabs retired
  units : List (Nat × Nat) := []       -- WORK space in use: 1 KiB units (local address / 1,024) and the partition
  waiting : List YReq := []            -- in order of arrival
  passed : List (Nat × Nat) := []      -- grants of a slab since a waiting class under its floor had one (slab · 8 + class)
  replacing : Option (Nat × Nat) := none  -- logical slab and the spare it is copied to
deriving DecidableEq, Repr

/-- Which physical brick serves each logical brick, and which bricks are retired (chapter 4). -/
structure BrickMap where
  phys : List (Nat × Nat) := []        -- logical brick: its physical brick, where not 1,344·⌊l/1,280⌋ + l mod 1,280
  gone : List Nat := []                -- logical bricks retired without replacement
  spares : List (Nat × List Nat) := []  -- by die: its spares by index (number within the die), where not 1,280 to 1,343
  retired : List Nat := []             -- physical bricks retired
deriving DecidableEq, Repr

/-- A slot of a live cycle table (Table 10-5) with its balances; the three measures are brick-microseconds, column operations
(units of 4,096) and Yard bytes (units of 64 KiB). -/
structure CSlot where
  start : Nat := 0
  len : Nat := 0
  cls : Nat := 0
  overdraft : Nat := 0
  budget : List Nat := [0, 0, 0]
  bal : List Int := [0, 0, 0]
  rest : List Nat := [0, 0, 0]         -- parts of a unit charged and not yet making a whole one
  active : Bool := false               -- the window is current
  wanted : Bool := false               -- the class had work waiting in this window
deriving DecidableEq, Repr

/-- A live cycle table (R286 to R293). -/
structure Cycle where
  period : Nat := 10000
  slots : List CSlot := []
  shift : Int := 0                     -- pending one-time shift
  pend : Option (Nat × List CSlot) := none
deriving DecidableEq, Repr

/-- The buckets of one regulator (R279), bytes. -/
structure Bucket where
  floor : Nat := 0
  cap : Nat := 0
deriving DecidableEq, Repr

/-- Bytes of a piece of work that a regulator (0 STACK, 1 YARD, 2 LINK) has still to cover (R279). -/
structure Owed where
  part : Nat
  res : Nat
  bytes : Nat
  own : Own
deriving DecidableEq, Repr

/-- Partitions beyond their registers (chapter 10). -/
structure Part where
  cycles : List (Nat × Cycle) := []
  buckets : List (Nat × Bucket) := []  -- by partition · 3 + resource
  owed : List Owed := []               -- in order of arrival
  leavingBricks : List (Nat × Nat) := []-- bricks that leave a pool when their work item ends, with the partition
  leavingHods : List (Nat × Nat) := []
  wasIn : List (Nat × Nat) := []       -- physical brick: the partition that last held it (R131)
  clearing : List Nat := []            -- physical bricks being cleared (R131)
deriving DecidableEq, Repr

/-- A merge-buffer entry (R84): the 64-byte line (local address / 64) and its valid bytes by offset. -/
structure MEntry where
  line : Nat
  bytes : List (Nat × Byte)
  owners : List Own := []      -- the work whose writes it holds
deriving DecidableEq, Repr

/-- What a reduction group serves: a plain command, or one (head, slot group, position, round) of a walk. -/
structure WalkTag where
  walk : Nat
  head : Nat
  sg : Nat
  pos : Nat
  round : Nat
deriving DecidableEq, Repr

/-- A stack descriptor on its way (R66): its four words and its owner. -/
structure Desc where
  w0 : Nat
  w1 : Nat
  w2 : Nat
  w3 : Nat
  part : Nat
  own : Own
  tag : Option WalkTag := none
  page : Option (Nat × Nat) := none  -- of a walk's pass: page index and page number
  phase : Nat := 0             -- of a walk's descriptor: `PHASE` of Table 6-10
deriving DecidableEq, Repr

/-- A pass at a bank (Table 3-4). -/
structure Pass where
  kind : Nat
  fmt : Nat
  slots : Nat                  -- SLOTMASK
  base : Nat
  cols : Nat
  latchOff : Nat
  lanes : Nat
  outBase : Nat
  group : Nat
  seq : Option Nat
  own : Own
deriving DecidableEq, Repr

/-- A latch load that waits at a bank: the slots, the first element, each selected slot's elements, what issued it, and whether
a source word was poisoned (R521). -/
structure LLoad where
  slots : Nat
  off : Nat
  elems : List (List Nat)
  own : Own
  bad : Bool := false
deriving DecidableEq, Repr

/-- The model's own: elements `lo` to `hi` − 1 of a slot (bank · 8 + slot) that a LATCH of `own` loaded from a poisoned source
(R521). -/
structure LMark where
  slot : Nat
  lo : Nat
  hi : Nat
  own : Own
deriving DecidableEq, Repr

/-- Work aimed at one bank, in the order received (R68). -/
inductive BWork where
  | pass (p : Pass)
  | latch (l : LLoad)
deriving DecidableEq, Repr

/-- An ordinary access held at a computing bank (R75): the access, when it entered the hold queue, and the ticket it is answered
under. -/
structure Held where
  acc : Access
  arrived : Nat
  ticket : Nat
deriving DecidableEq, Repr

/-- An access of which parts are held at computing banks: how many, the first status and the bytes so far, and for a request that
passed a slab the credit class of its queue entry (slab · 8 + class). -/
structure Ticket where
  id : Nat
  asker : Asker
  entry : Option Nat := none
  addr : Nat
  len : Nat
  left : Nat
  status : Nat := 0
  data : List (Nat × Byte) := []
deriving DecidableEq, Repr

/-- A bank in a pass. -/
structure Run where
  pass : Pass
  next : Nat := 0              -- next column operation
  acc : List (Nat × Nat) := [] -- lane · 8 + slot: FP32 pattern
  held : List Held := []       -- the hold queue, the first eight, and behind it the channel queue
  refresh : Bool := false      -- a refresh fell due
deriving DecidableEq, Repr

/-- A reduction group (Table 3-6, R78 to R81, R177, R180). -/
structure Group where
  post : Nat
  outfmt : Nat
  slots : Nat
  dest : Nat
  outputs : Nat
  contrib : Nat
  home : Nat
  part : Nat
  own : Own
  tag : Option WalkTag := none
  scale : Nat := 0             -- SM_SCALE of a softmax group
  sums : List (Nat × Nat) := []-- output · 8 + slot: FP32 pattern; of a softmax group, the scaled scores delivered
  count : List (Nat × Nat) := []-- contributions by 32-output block
  done : List Nat := []        -- blocks written or forwarded, or complete in a softmax group
  bad : List Nat := []         -- blocks whose sums are poisoned
  stats : List (Nat × Nat) := []-- (m, ℓ) of each of 8 slots, FP32 patterns
  global : Option (List (Nat × Nat)) := none  -- the delivered (M, L)
  local_ : Bool := false       -- the local record is written
  units : List Nat := []       -- of a round's output: the WORK units that `dest` is an offset in (R182)
deriving DecidableEq, Repr

/-- A contribution on its way to a group: sums by output · 8 + slot. -/
structure Contrib where
  group : Nat
  outBase : Nat
  lanes : Nat
  slots : Nat
  sums : List (Nat × Nat)
  bad : Bool
  own : Own
deriving DecidableEq, Repr

/-- Stacks, bank units, reducers and the region table beyond their registers (chapter 3). Keys of banks are
stack · 1024 + bank, of groups stack · 256 + index. -/
structure Banks where
  regions : List (Nat × Nat) := []     -- region-table entries by granule, where not at reset value
  fills : List (Nat × Nat) := []       -- commits that wait for their zero fill: granule, new entry
  merge : List MEntry := []            -- oldest first
  lists : List (Nat × List Desc) := [] -- descriptors each Hod engine has yet to send
  work : List (Nat × List BWork) := []
  runs : List (Nat × Run) := []
  latch : List (Nat × Nat) := []       -- (bank · 8 + slot) · 960 + element: BF16 pattern
  latchBad : List LMark := []
  groups : List (Nat × Group) := []
  waiting : List (Nat × Group) := []   -- groups that wait for reduction-buffer space, first come first
  arriving : List Contrib := []
  pulled : List (Nat × Nat) := []      -- refreshes pulled in, by bank
  queued : List (Nat × Held) := []     -- accesses that a paused stack's queues hold, by bank (R476)
  tickets : List Ticket := []          -- accesses held in part
  nextTicket : Nat := 1
  acts : List (Nat × Nat) := []        -- compute activates of the last microsecond: bank key, time (ns)
  repair : List (Nat × Nat) := []      -- repair running in a stack: the command word plus one
  rowSpares : List (Nat × Nat) := []   -- spare rows used, by bank key
deriving DecidableEq, Repr

/-- What a command sampled when it was admitted: the region table (R67, R92) and the block-table writes then pending (R250). -/
structure Seen where
  regions : List (Nat × Nat) := []
  conv : List Conv := []
deriving DecidableEq, Repr

/-- An engine instruction in its queue (R101): the word, the Mason instruction that pushed it, its place in program order and
the first cycle it may issue in. -/
structure EIns where
  word : Nat
  pc : Nat
  order : Nat
  ready : Nat
deriving DecidableEq, Repr

/-- A stream descriptor in an address FIFO (Table 5-7). -/
structure SDesc where
  w0 : Nat
  w1 : Nat
  w2 : Nat
  w3 : Nat
  ready : Nat
deriving DecidableEq, Repr

/-- A tile weight bank: its format, its bytes in TILE32 layout and the cycle from which it is usable. -/
structure WBank where
  fmt : Nat := 0
  bytes : List Byte := []
  ready : Nat := 0
  bad : Bool := false
deriving DecidableEq, Repr

/-- A Mason register result on its way (R143). -/
structure RegW where
  reg : Nat
  val : Nat
  vis : Nat
  order : Nat
deriving DecidableEq, Repr

/-- An inbound transfer admitted into the Bed and not landed, or held (R100, R109): its bytes, the words of it that are poisoned
(by offset), and the access that waits for it to land. -/
structure Inbound where
  off : Nat
  data : List Byte
  held : Bool
  bad : List Nat := []
  ticket : Option Nat := none
deriving DecidableEq, Repr

/-- An engine instruction that has issued and not made its last write, or a Mason store on its way to the Bed (R143): what it took
at issue, the reads and writes it has made, and what it has read and not yet written. -/
structure Job where
  ins : EIns
  eng : Nat                    -- its engine; 4: the Mason core
  t0 : Nat                     -- the cycle it issued in
  units : List Nat := []       -- addresses of its stream's units; those of a `TMUL`, an `MVMUL` and a `VOP` go as they are read
  aux : List Nat := []         -- units of its second stream
  n : Nat := 0                 -- number of its stream's units
  lo : Nat := 0                -- lowest and highest byte of its stream's footprint
  hi : Nat := 0
  lit : Bool := false          -- the second stream's units are the positions themselves
  fmt : Nat := 0               -- `TMUL`: its bank's format
  dst : Nat := 0               -- `MVMUL`: `DST`, `GROUP` and `OUT_BASE`
  group : Nat := 0
  out : Nat := 0
  len : Nat := 0               -- `VOP`: elements of a row
  pb : List Byte := []         -- parameter block, as it was read
  rd : Nat := 0
  wr : Nat := 0
  buf : List (List Nat × Bool) := []     -- what it has read and not yet written, with poison
  buf2 : List (List Nat × Bool) := []    -- the same of its second stream
  half : List Nat × Bool := ([], false)  -- the row whose bytes the next row of a `STORE` completes
  bad : Bool := false          -- every output is poisoned
  told : Bool := false         -- it has been counted as one that consumed poison
deriving DecidableEq, Repr

/-- A write that an instruction made while one earlier in program order was still to end (R144). Spaces: 0 Bed word, 1 accumulator
row, 2 result-buffer output, 3 parameter block. -/
structure Mark where
  space : Nat
  addr : Nat
  order : Nat
deriving DecidableEq, Repr

/-- The work item a brick runs. -/
structure BRun where
  step : Nat
  item : Nat                   -- its place in the step's items
  seqs : List Nat
  part : Nat
  trap : Bool
  hazard : Bool := false
  ended : Bool := false        -- the Mason core has executed END
  start : Nat := 0             -- the cycle it took the brick in
  stopAt : Option Nat := none  -- under TRAP: the last cycle before the brick halts it
deriving DecidableEq, Repr

/-- A physical brick (chapters 4 and 5). Engines are 0 tile, 1 MV path, 2 vector unit, 3 store path. -/
structure Brick where
  run : Option BRun := none
  x : List (Nat × Nat) := []           -- x1 to x31
  xOrder : List (Nat × Nat) := []      -- program order of the last write to each register
  pend : List RegW := []
  pc : Nat := 0
  clk : Nat := 0                       -- cycle of the next Mason instruction
  order : Nat := 0                     -- Mason instructions executed
  held : Option (Nat × Nat) := none    -- routine set and generation loaded
  code : List Nat := []
  entries : List Nat := []             -- the loaded set's routine table
  dmem : List (Nat × Byte) := []
  dsynd : List (Nat × Byte) := []      -- syndromes of data-memory words that are not zero
  queues : List (List EIns) := [[], [], [], []]
  idle : List Nat := [0, 0, 0, 0]      -- cycle of each engine's last write
  popped : List Nat := [0, 0, 0, 0]    -- cycle of each engine's last issue
  fifos : List (List SDesc) := [[], [], [], [], [], []]
  banks : List WBank := [{}, {}]
  lastBank : Nat := 0                  -- bank of the last `TMUL`
  free : List Nat := [0, 0, 0, 0]      -- first cycle in which each engine can take its next instruction
  acc : List (Nat × List Nat) := []
  accInt : List Nat := []              -- rows last written as INT32
  full : List Nat := []
  accBad : List Nat := []              -- poisoned elements: row · 32 + column
  latch : List (Nat × Nat) := []       -- slot · 2048 + element: BF16
  latchBad : List Nat := []            -- poisoned latch elements
  latchReady : Nat := 0
  rb : List (Nat × Nat) := []          -- output · 8 + slot: FP32
  rbFull : List Nat := []
  rbBad : List Nat := []               -- poisoned elements: output · 8 + slot
  mvDst : Nat := 0
  mvGroup : Nat := 0
  mvOut : Nat := 0
  scale : List (Nat × Nat) := []
  scaleBad : List Nat := []            -- poisoned entries of the scale table
  pblock : List Byte := []
  pblockBad : Bool := false
  vecq : List (Nat × Bool) := []       -- results in the store path's vector queue, with poison
  absent : List Nat := []              -- segments whose `PRESENT` is 0
  inbound : List Inbound := []
  now : Nat := 0                       -- every cycle before it has passed
  jobs : List Job := []
  marks : List Mark := []
  bedEnd : Nat := 0                    -- cycle the last Mason Bed store lands
deriving DecidableEq, Repr

/-- A model slot: its slot record (Table 7-3), its KV geometry record (Table 6-1) and what it was loaded from (R415, R416). -/
structure MSlot where
  st : Nat := 0                -- 0 EMPTY, 1 LOADING, 2 READY
  part : Nat := 0
  gen : Nat := 0
  vocab : Nat := 0
  select : Nat := 0
  tplGiven : Nat := 0
  tplChunk : Nat := 0
  tplDraft : Nat := 0xFFFF
  kvHeads : Nat := 0
  qPerKv : Nat := 0
  headDim : Nat := 0
  kvFmt : Nat := 0
  layers : Nat := 0
  window : Nat := 0
  smScale : Nat := 0
  image : Nat := 0             -- the Footing image it was loaded from
  base : Nat := 0              -- local address of its loaded area
  area : Nat := 0              -- its length in bytes, holes included
  setBase : Nat := 0
  tplBase : Nat := 0
deriving DecidableEq, Repr

/-- A sequence-table entry (Table 7-1). -/
structure Seq where
  st : Nat := 0                -- Table 7-2
  part : Nat := 0
  rule : Nat := 0
  autoPub : Bool := false
  lookup : Bool := false
  suspect : Bool := false
  aclass : Nat := 0
  mslot : Nat := 0
  dslot : Nat := 0
  aslot : Nat := 0
  aver : Nat := 0
  specD : Nat := 0
  chunk : Nat := 0
  clen : Nat := 0
  hlen : Nat := 0
  dlen : Nat := 0
  attnLo : Nat := 0
  temp : Nat := 0
  plBase : Nat := 0
  dplBase : Nat := 0
  tokBase : Nat := 0
  tokCap : Nat := 0
  plCap : Nat := 0
  dplCap : Nat := 0
  seed : Nat := 0
  cookie : Nat := 0
  lastHash : List Byte := List.replicate 16 0
  pfxPub : Nat := 0
  stopTok : Nat := 0
  lastStep : Nat := 0
  status : Nat := 0
  queue : Nat := 0
  gen : Nat := 0
  retainMs : Nat := 0
  fails : Nat := 0             -- failures in a row that count under R506
  heldByFail : Bool := false   -- the retry limit left it HELD
  damaged : Bool := false      -- to be rebuilt or released (R507)
  p0 : Nat := 0                -- lowest position a recomputation starts from (R400, R512)
  parkedFrom : Nat := 0        -- the state a parked sequence returns to
  recFrom : Nat := 0           -- the state a recomputation returns to
  recAt : Nat := 0             -- next position it recomputes
  rebuilding : Bool := false   -- its pages are replaced and its chunks run
  lastAdmit : Nat := 0         -- the last step it was admitted in
  restart : Bool := false      -- marked again while it is recomputed (R400)
deriving DecidableEq, Repr

/-- An adapter slot (R209): its model slot, its live versions with the FRX address of each, and the current one. -/
structure ASlot where
  mslot : Nat := 0
  part : Nat := 0
  live : List (Nat × Nat) := []-- version, image address
  cur : Nat := 0               -- 0: none
  next : Nat := 1
deriving DecidableEq, Repr

/-- A sequence's work in an admitted step (R198). -/
structure SWork where
  seq : Nat
  c : Nat                      -- CLEN at admission
  given : Nat := 0
  drafts : Nat := 0
  draftOnly : Nat := 0         -- positions of a draft catch-up
  turn : Bool := false
  stage : Bool := false        -- a draft stage runs (R204)
  carry : Bool := false        -- the chunk is carried through the draft model (R200)
  dlen : Nat := 0              -- DLEN at admission
  cls : Nat := 0               -- the class charged
  slot : Option Nat := none    -- the cycle-table slot that granted it
  pages : List (List Nat) := []-- by layer: the page numbers it uses, from page firstPage on
  firstPage : Nat := 0
  low : Nat := 0               -- first page index of the snapshot (R169)
  dpages : List (List Nat) := []  -- the draft list's
  dfirst : Nat := 0
  dlow : Nat := 0
  toks : List Nat := []        -- the drafts chosen so far (R204)
  cut : Bool := false          -- its append records have lost the drafts of a draft stage that failed (R208)
  aslot : Nat := 0xFFFF
  aver : Nat := 0
  adapter : Nat := 0           -- address of the version's image
  places : TPlaces := {}
  dplaces : TPlaces := {}
  status : Nat := 0
  left : Bool := false         -- left out at admission (R173, R199)
  skipped : Bool := false      -- its draft stage failed (R208)
  emptyAttn : Bool := false
  again : Bool := false        -- positions computed again: no token is emitted (R400)
deriving DecidableEq, Repr

/-- A work item of an admitted step, with its arguments resolved (R150). -/
structure WItem where
  item : TItem
  args : List Nat
  seqs : List Nat              -- whom it serves, as in `Own.step`
  pass : Nat := 0              -- 0 the model's own work; k the k-th draft pass
  brick : Option Nat := none   -- the logical brick it runs on
  gen : Nat := 0               -- that brick's state generation at placement (R515)
  ended : Bool := false
deriving DecidableEq, Repr

/-- A walk: the attention of one sequence for one layer (R174 to R184). Pass 0 is the model's own, pass k that of the k-th draft
pass. -/
structure Walk where
  id : Nat
  hod : Nat
  part : Nat
  step : Nat
  seq : Nat
  work : Nat                   -- the sequence's place among the step's works
  pass : Nat
  layer : Nat
  mslot : Nat
  first : Nat                  -- position of its first query
  count : Nat                  -- query positions
  bucket : Nat
  places : TPlaces
  buf : Nat := 0               -- offset of its round buffers in its step's WORK space
  rounds : List (List (Nat × Nat)) := []  -- by round: page index and page number
  round : Nat := 0
  units : List WalkTag := []   -- what the walk covers, by round
  at_ : Nat × Nat := (0, 0)    -- page index and number of its last pass
  todo : List WalkTag := []    -- what waits for group indices
  combined : List (WalkTag × List (Nat × Nat)) := []  -- what has its global record
  merged : List WalkTag := []  -- units whose rounds are combined
deriving DecidableEq, Repr

/-- A template's descriptors that a step has still to give to its Hod engines: the draft pass they belong to (0: none), whom they
serve, and those of each engine. -/
structure SList where
  pass : Nat
  serves : List Nat
  descs : List (Nat × List Desc)
deriving DecidableEq, Repr

/-- An admitted step that has not completed: kind 0 a STEP's, 1 a training step, 2 a recomputation (R400). -/
structure StepRun where
  num : Nat
  cmd : Nat                    -- the command it belongs to
  part : Nat
  mslot : Nat
  kind : Nat := 0
  trap : Bool := false         -- the hazard policy it took (R147)
  units : List Nat := []       -- the units of WORK space it holds
  seen : Seen := {}            -- what its command sampled
  works : List SWork := []
  items : List WItem := []
  lists : List SList := []
  walked : List (Nat × Nat × Nat) := []  -- (sequence, pass, layer) whose walk has ended
  slot : Option Nat := none    -- the slot that granted a training step
  status : Nat := 0            -- of a training step
  acks : Nat := 0              -- stores to other devices not yet acknowledged
deriving DecidableEq, Repr

/-- An entry of a prefix index: the block hash, its page set and when it was last matched. -/
structure PEntry where
  hash : List Byte
  pages : List Nat             -- by layer
  used : Nat
  mslot : Nat
  step : Nat                   -- the step whose commit published it
deriving DecidableEq, Repr

/-- A SEQ_EDIT or SEQ_CLOSE that waits for its sequence (R217, R219). -/
structure SWait where
  cmd : Nat
  seq : Nat
deriving DecidableEq, Repr

/-- The serving engine beyond its registers (chapters 6 and 7). -/
structure Serving where
  mslots : List (Nat × MSlot) := []
  seqs : List (Nat × Seq) := []
  aslots : List (Nat × ASlot) := []
  tpls : List (Nat × Template) := []   -- by partition · 4096 + entry
  sets : List (Nat × Nat × Nat) := []  -- routine sets: partition · 256 + set, global address, generation
  steps : List StepRun := []
  walks : List Walk := []
  nextWalk : Nat := 1
  pointer : List (Nat × Nat) := []     -- round-robin pointer by partition
  prefixes : List (Nat × List PEntry) := []
  pools : List (Nat × Nat) := []       -- entries each pool ring holds
  removed : List (Nat × Nat) := []     -- pages removed from a list while an admitted step names them: partition, page
  turn : Nat := 31                     -- the partition the step builder served last (R284)
  choice : Nat := 31                   -- the partition the token selector served last
  matches_ : Nat := 0                  -- lookups made, for "least recently matched"
  edits : List SWait := []
deriving DecidableEq, Repr

/-- An Open fault found and not yet marked (R392 to R394): its address and kind (byte 18 of R404's message). -/
structure OFault where
  addr : Nat
  kind : Nat
  since : Nat                  -- steps admitted when the visit before began (R398)
deriving DecidableEq, Repr

/-- The scrub, the reader sets and reloads (chapter 14). Granule keys; a set's members are sequences, 8,192 standing for
`UNATTRIBUTED`. -/
structure Integrity where
  cur : List (Nat × List Nat) := []
  prev : List (Nat × List Nat) := []
  visitStep : List (Nat × Nat × Nat) := []  -- by granule: the last step admitted when its latest visit and the one before began
  faults : List OFault := []
  sweeps : List (Nat × Nat) := []      -- checkers in a sweep (block code · 2^16 + instance): start, ms plus one
  reloads : List (Nat × Nat) := []     -- blocks whose reload is wanted: local address, 0 waiting or 1 failed
deriving DecidableEq, Repr

/-- What a request to another device serves. -/
inductive QUse where
  | ack (a : Asker)            -- a write or add
  | read (id : Nat)            -- bytes a command waits for
  | fill (slab cls part : Nat) (keep : Bool) (wants : List (Asker × Nat × Nat)) -- a Yard line: whether it is kept, and the
      -- accesses that wait for bytes of it (offset and length)
  | flag (id : Nat)            -- the flag of a WAIT
  | bed (brick off : Nat) (own : Own) (keep : Bool)  -- bytes of a resident copy, for a work item that waits to start
  | host (link kind tid agent part : Nat) -- a host request (R337): 1 MRD, 2 MWR, 3 MWRC
deriving DecidableEq, Repr

/-- A request to another device (Table 13-4): 1 RRD, 2 RWR, 3 RADD, 4 OWNRD; the address is global. -/
structure QMsg where
  top : Nat
  addr : Nat
  part : Nat
  type : Nat
  len : Nat
  data : List Byte
  use : QUse
deriving DecidableEq, Repr

/-- One link beyond its registers (R362 to R378). -/
structure QLink where
  rxNext : Nat := 0            -- next FSEQ expected
  txNext : Nat := 0            -- FSEQ of the next data frame
  replay : List Nat := []      -- FSEQs sent and not acknowledged, oldest first
  naks : Nat := 0              -- NAKs in a row
  retrains : Nat := 0          -- retrains failed in a row
  retraining : Bool := false
  sent : List (Nat × QMsg) := []  -- requests sent, by TID
  waiting : List QMsg := []    -- requests that wait for credit, oldest first
  tid : Nat := 0               -- next TID tried
  usedH : Nat := 0             -- header credits consumed since training
  usedD : Nat := 0
  usedM : Nat := 0
  gotH : Nat := 0              -- credits last received
  gotD : Nat := 0
  gotM : Nat := 0
  freedH : Nat := 0            -- entries this side has freed since training
  freedD : Nat := 0
  peerHash : List Byte := []   -- the keyed peer's identity hash
  kx : Nat := 0                -- key-exchange steps done: bit 0 hello sent, 1 hello taken, 2 init, 3 resp, 4 done sent
  framesRx : Nat := 0          -- frames received under the current key
  answers : List (Nat × Nat × Nat × List Byte) := []  -- responses to send: TOP, TID, status, data
  mgt : List (String × Nat) := []  -- key messages that wait for credit, with their lengths
  rekeyDue : Bool := false
  txUsed : List Nat := []      -- transmitters taken out of use
  rxUsed : List Nat := []
deriving DecidableEq, Repr

/-- The Quoin links beyond their registers (chapter 13). -/
structure Links where
  links : List (Nat × QLink) := []
  deadQuoins : List Nat := []          -- Quoin dies whose buffer test failed: their links stay down (Table 14-7)
  discard : List (Nat × Nat) := []     -- link and TID of requests abandoned by a warm reset (R446)
  unread : List Nat := []              -- connectors whose cable the links duty has not read yet (R25, R442)
  held : List QMsg := []               -- requests for which every link that could take them is quiesced (Table 2-5)
  unpaid : List QMsg := []             -- requests whose partition's LINK regulator has still to cover them (R279)
deriving DecidableEq, Repr

/-- A command fetched from a ring and not completed (R297). -/
structure Cmd where
  id : Nat
  part : Nat
  queue : Nat
  words : List Nat             -- its eight words, substituted once it is admitted
  phase : Nat := 0             -- 0 fetched, 1 running, 2 done but for answers of other devices and its record
  status : Nat := 0
  result : Nat := 0
  count : Nat := 0             -- steps admitted by a STEP; blocks to come of a MODEL_LOAD
  stopped : Bool := false      -- a STEP that admits no further step
  index : Nat := 0xFFFF        -- first failing recorded command of a REPLAY
  replay : Option Nat := none  -- the REPLAY it was recorded for
  place : Nat := 0             -- its place in that list
  ownTag : Bool := false       -- it was recorded with a TAG of its own, which is refused (R319)
  regOff : Nat := 0            -- offset of register numbers in the arguments of its steps (R319)
  units : List Nat := []       -- the units of WORK space it holds
  seen : Seen := {}            -- what it sampled at its admission
  slot : Option Nat := none    -- cycle-table slot that granted it
  counted : Bool := false      -- its delayed admission is counted in YRD_Q_WAITS
  waits : List Nat := []       -- commands a FENCE or MARKER waits for
  remote : List (Nat × Byte) := []     -- bytes of other devices read for it, by global address
  asked : Bool := false        -- those reads have been sent
  descs : List (List Byte) := []       -- the tensor descriptors it has read
  stage : Nat := 0             -- 1 owner tables to read, 2 checked and to move (R235, R237)
  lost : Nat := 0              -- bytes of its writes that another device did not take
  acks : Nat := 0              -- requests to other devices not yet answered
deriving DecidableEq, Repr

/-- A record waiting to be written in its ring (R305, R306): a command's, a step's, an event's or a ring fault's. -/
structure Rec where
  part : Nat
  ring : Nat                   -- the queue whose completion ring takes it
  origin : Nat                 -- the queue of origin
  tag : Nat
  opcode : Nat
  flags : Nat                  -- `RFLAGS` bits [2:1]: 2 a step's, 4 an event's
  status : Nat
  result : Nat
  irq : Bool
  quiet : Bool := false        -- the command completes without a record
  parks : Bool := false        -- the queue of origin parks when it is written
  cmd : Option Nat := none
deriving DecidableEq, Repr

/-- Queues and commands beyond their registers (chapter 11). -/
structure Queues where
  cmds : List Cmd := []        -- by queue in ring order; recorded commands follow their REPLAY
  nextId : Nat := 1
  recs : List Rec := []        -- in the order of completion
  reserved : List (Nat × Nat) := []  -- result entries reserved by admitted steps, by step number
  last : List (Nat × Nat) := []      -- the ordinary queue last served, by partition
deriving DecidableEq, Repr

/-- Why the machine stops with a fault. No command of this block does: the spec describes an effect, a status or a refusal
of the request for every command, so the type is empty (safe: nothing is cut short). -/
inductive Fault where
deriving DecidableEq, Repr

/-- Why a command has no meaning. -/
inductive Refusal where
  /-- Raised by an arm of Machine/Dispatch.lean for a command the model has not reached (safe: the machine stops). -/
  | notModelled (mnemonic : String)
  /-- Raised by TAP_INSTRUCTION for a test-access instruction other than the mandatory ones and boundary scan once a debug
  authorisation is accepted: the spec opens them (R28, R470) and does not say what they do (safe: the machine stops). -/
  | testAccessUnspecified
deriving DecidableEq, Repr

/-- The whole state. -/
structure State where
  /-- Commands waiting, first in, first out. -/
  pending : List Instr := []
  /-- The latest time a time-stamped event has named, ns. -/
  now : Nat := 0
  /-- How many free values have been drawn (the model's own counter). -/
  freeCount : Nat := 0
  pw : Power := {}
  dv : Device := {}
  /-- Every register of the register space: key (address, instance, sub-index), canonical. -/
  regs : List (Nat × Word) := []
  /-- Stack memory, Bed windows and the Yard direct window by 44-bit local address; unlisted bytes are zero. -/
  mem : List Host.Cell := []
  /-- Syndrome of each stored 64-bit word that is not clean (R382), by local address / 8. -/
  synd : List (Nat × Byte) := []
  /-- The state generation of each unit (management and data path): block code · 2^16 + instance. -/
  unitGen : List (Nat × Nat) := []
  ftg : Footing := {}
  tr : Trowel := {}
  kl : Kiln := {}
  ks : Keystone := {}
  ln : Lintel := {}
  yd : Yard := {}
  pt : Part := {}
  bm : BrickMap := {}
  bk : Banks := {}
  /-- Physical bricks. -/
  br : List (Nat × Brick) := []
  lk : Links := {}
  qu : Queues := {}
  sv : Serving := {}
  it : Integrity := {}
  out : List Out := []
deriving DecidableEq, Repr

/-- The block right after reset: power off, every register at its reset value (the register store lists only what differs
from it), every memory word zero, no command waiting. -/
def State.reset : State := {}

end Sys2Proof.Machine
end

