-- ==== Sys2Proof/Machine/Ops.lean ====
section
/-! DEFINITION. The shared operations over registers, fields, memory and what leaves the block: register reads and writes by
field, unit presence and unit state, memory words with their syndromes, error capture, interrupts and firmware messages. -/

namespace Sys2Proof.Machine

/-- The outcome type of every meaning. -/
abbrev Res := Host.Outcome State Fault Refusal

/-- A command that takes the block to `s`. -/
def done (s : State) : Res := .next s

/-! ## Status codes used by more than one chapter (Tables 0-6 and the chapters' own) -/

namespace St
def ok : Nat := 0x0000
def badOpcode : Nat := 0x0101
def badField : Nat := 0x0102
def stateRefused : Nat := 0x0103
def absentUnit : Nat := 0x0104
def waitTimeout : Nat := 0x0107
def layoutOverlap : Nat := 0x0201
def indexRange : Nat := 0x0301
def regionGuarded : Nat := 0x0302
def lengthLimit : Nat := 0x0303
def addressUnmapped : Nat := 0x0304
def commitRefused : Nat := 0x0306
def regionNotOwned : Nat := 0x0307
def stackUnavailable : Nat := 0x0308
def walkTimeout : Nat := 0x030C
def imageAbsent : Nat := 0x030D
def footingFull : Nat := 0x030E
def imageCorrupt : Nat := 0x030F
def poisonConsumed : Nat := 0x0401
def suspect : Nat := 0x0402
def recomputeFailed : Nat := 0x0403
def expired : Nat := 0x0501
def lost : Nat := 0x0502
def budgetExceeded : Nat := 0x0503
def slotNotReady : Nat := 0x0505
def logitsInvalid : Nat := 0x0506
def ifverMismatch : Nat := 0x0601
def accessDenied : Nat := 0x0602
def msgUnknown : Nat := 0x0603
def attachRefused : Nat := 0x0604
def unitStateMismatch : Nat := 0x0701
def registerWidth : Nat := 0x0702
def registerLocked : Nat := 0x0703
def dutyLapsed : Nat := 0x0704
def deviceResetting : Nat := 0x0705
def linkDown : Nat := 0x0801
def remoteDenied : Nat := 0x0802
def noRoute : Nat := 0x0803
def imageRejected : Nat := 0x0901
def rollbackRefused : Nat := 0x0902
def objectRejected : Nat := 0x0903
def replayed : Nat := 0x0904
def ownerState : Nat := 0x0905
def incompatible : Nat := 0x0906
def hazardObserved : Nat := 0x0A01
end St

/-! ## Registers -/

/-- The key of a register's copy in the store: address, instance, sub-index. -/
def regKey (addr i j : Nat) : Nat := (addr * 0x4000 + i) * 0x8000 + j

/-- The table rows of the block whose pages hold `page`. -/
def rowsOfPage (page : Nat) : List RegRow :=
  if page < 0x10 then regRowsKst else if page < 0x20 then regRowsTrw else if page < 0x30 then regRowsKln
  else if page < 0x40 then regRowsLnt else if page < 0x100 then regRowsFtg else if page < 0x110 then regRowsReg
  else if page < 0x120 then regRowsYrd else if page < 0x130 then regRowsBnd else if page < 0x140 then regRowsHod
  else if page < 0x150 then regRowsSeq else if page < 0x160 then regRowsPrt else if page < 0x200 then regRowsCyt
  else if page < 0x210 then regRowsStk else if page < 0x300 then regRowsQlk else regRowsBrk

/-- The register-table row that an address falls in. -/
def rowOf (addr : Nat) : Option RegRow :=
  (rowsOfPage (addr / 0x1000)).find? fun r => r.addr ≤ addr && addr < r.addr + 4 * r.count

/-- Reset value of the register at a key: the table's for the chapters' registers; for the common header, `BLK_STAT` resets
to off (0x1 in [31:28], Table 2-6) and every other header register to zero. -/
def regDefault (key : Nat) : Word :=
  let addr := key / 0x8000 / 0x4000
  if addr % 0x1000 < 0x40 then (if addr % 0x1000 = 0x0C then 0x10000000#32 else 0#32)
  else match rowOf addr with
    | some r => BitVec.ofNat 32 r.reset
    | none => 0#32

/-- The stored value of a register's copy. -/
def State.reg (s : State) (addr : Nat) (i j : Nat := 0) : Word := smGet regDefault s.regs (regKey addr i j)

/-- Store a register's copy. -/
def State.setReg (s : State) (addr : Nat) (v : Word) (i j : Nat := 0) : State :=
  { s with regs := smSet regDefault s.regs (regKey addr i j) v }

/-- The width of a field. -/
def Fld.width (f : Fld) : Nat := f.hi + 1 - f.lo

/-- Read a field as a number. -/
def State.getF (s : State) (f : Fld) (i j : Nat := 0) : Nat := ((s.reg f.addr i j).toNat / 2 ^ f.lo) % 2 ^ f.width

/-- A register value with one field replaced. -/
def putField (old : Nat) (hi lo v : Nat) : Nat :=
  old - ((old / 2 ^ lo) % 2 ^ (hi + 1 - lo)) * 2 ^ lo + (v % 2 ^ (hi + 1 - lo)) * 2 ^ lo

/-- Write a field; the value is cut to the field's width. -/
def State.setF (s : State) (f : Fld) (v : Nat) (i j : Nat := 0) : State :=
  s.setReg f.addr (BitVec.ofNat 32 (putField (s.reg f.addr i j).toNat f.hi f.lo v)) i j

/-- Is a one-bit field set? -/
def State.flag (s : State) (f : Fld) (i j : Nat := 0) : Bool := s.getF f i j == 1

/-- Write a one-bit field. -/
def State.setFlag (s : State) (f : Fld) (b : Bool) (i j : Nat := 0) : State := s.setF f (if b then 1 else 0) i j

/-- Add to a counter that saturates at its field's maximum. -/
def State.bump (s : State) (f : Fld) (n : Nat := 1) (i j : Nat := 0) : State :=
  s.setF f (min (s.getF f i j + n) (2 ^ f.width - 1)) i j

/-- Add to a counter that wraps. -/
def State.bumpW (s : State) (f : Fld) (n : Nat := 1) (i j : Nat := 0) : State := s.setF f (s.getF f i j + n) i j

/-- Raise a maximum register. -/
def State.raiseMax (s : State) (f : Fld) (v : Nat) (i j : Nat := 0) : State :=
  s.setF f (max (s.getF f i j) (min v (2 ^ f.width - 1))) i j

/-- Set or clear bit `b` of a mask field. -/
def State.setBit (s : State) (f : Fld) (b : Nat) (v : Bool) (i j : Nat := 0) : State :=
  s.setF f (nsetBit (s.getF f i j) b v) i j

/-- Is bit `b` of a mask field set? -/
def State.bit (s : State) (f : Fld) (b : Nat) (i j : Nat := 0) : Bool := nbit (s.getF f i j) b

/-- The k-th register of a run of `count` like registers, as a field. -/
def Fld.nth (f : Fld) (k : Nat) : Fld := { f with addr := f.addr + 4 * k }

/-- A 64-bit value held in a LO/HI pair. -/
def State.getPair (s : State) (lo hi : Nat) (i j : Nat := 0) : Nat :=
  (s.reg lo i j).toNat + (s.reg hi i j).toNat * 2 ^ 32

/-- Store a 64-bit value in a LO/HI pair. -/
def State.setPair (s : State) (lo hi v : Nat) (i j : Nat := 0) : State :=
  (s.setReg lo (BitVec.ofNat 32 v) i j).setReg hi (BitVec.ofNat 32 (v / 2 ^ 32)) i j

/-! ## Blocks, instances and unit state (Tables 2-2 to 2-10) -/

/-- A block's code (Table 2-10). -/
def Blk.code : Blk → Nat
  | .kst => 1 | .trw => 2 | .kln => 3 | .lnt => 4 | .ftg => 5 | .reg => 6 | .yrd => 7 | .bnd => 8 | .hod => 9
  | .seq => 10 | .prt => 11 | .cyt => 12 | .stk => 13 | .qlk => 14 | .brk => 15

/-- A block's first page. -/
def Blk.page0 : Blk → Nat
  | .kst => 0x000 | .trw => 0x010 | .kln => 0x020 | .lnt => 0x030 | .ftg => 0x040 | .reg => 0x100 | .yrd => 0x110
  | .bnd => 0x120 | .hod => 0x130 | .seq => 0x140 | .prt => 0x150 | .cyt => 0x160 | .stk => 0x200 | .qlk => 0x210
  | .brk => 0x300

/-- How many pages a block has. -/
def Blk.pages : Blk → Nat
  | .kst => 6 | .trw => 3 | .kln => 5 | .lnt => 5 | .ftg => 3 | .reg => 2 | .yrd => 3 | .bnd => 1 | .hod => 2
  | .seq => 4 | .prt => 6 | .cyt => 2 | .stk => 6 | .qlk => 5 | .brk => 3

/-- A block's instance count. -/
def Blk.insts : Blk → Nat
  | .trw => 8 | .ftg => 8 | .yrd => 50 | .hod => 64 | .prt => 32 | .cyt => 32 | .stk => 16 | .qlk => 64 | .brk => 10752
  | _ => 1

/-- All blocks, in page order. -/
def Blk.all : List Blk :=
  [.kst, .trw, .kln, .lnt, .ftg, .reg, .yrd, .bnd, .hod, .seq, .prt, .cyt, .stk, .qlk, .brk]

/-- The block that holds a page, if the page map lists it (R39, R54). -/
def blkOfPage (page : Nat) : Option Blk := Blk.all.find? fun b => b.page0 ≤ page && page < b.page0 + b.pages

/-- Does the block's select register govern this page (Table 2-10)? -/
def pageSelected (b : Blk) (page : Nat) : Bool :=
  match b with
  | .trw => page < 0x12 | .ftg => page == 0x41 | .yrd => page == 0x111
  | .hod => true | .prt => true | .cyt => true | .stk => true | .qlk => true | .brk => true
  | _ => false

/-- The instance number under which the block-wide header set of unselected pages is held (R49). -/
def blockWide : Nat := 0x3FFF

/-- Key parts of the common header registers. -/
def hdrAddr (b : Blk) (off : Nat) : Nat := b.page0 * 0x1000 + off

/-- A header field of a block. -/
def hdrF (b : Blk) (off hi lo : Nat) : Fld := ⟨hdrAddr b off, hi, lo⟩

/-- The fused-off instances of the grade (R4): those never powered. -/
def State.fusedOff (s : State) (b : Blk) (i : Nat) : Bool :=
  s.dv.gradeC && (match b with
    | .stk => 12 ≤ i | .qlk => 48 ≤ i | .brk => 8064 ≤ i
    | _ => false)

/-- An instance number the block has and the grade powers. -/
def State.present (s : State) (b : Blk) (i : Nat) : Bool := i < b.insts && !s.fusedOff b i

/-- `UNIT_STATE` of an instance (Table 2-6). -/
def State.unit (s : State) (b : Blk) (i : Nat := 0) : Nat := s.getF (hdrF b 0x0C 31 28) i

/-- The generation of a unit: it advances with every change of unit state, mapping or ownership through registers. -/
def State.genOf (s : State) (b : Blk) (i : Nat) : Nat := smGet (fun _ => 0) s.unitGen (b.code * 0x10000 + i)

/-- Advance a unit's generation. -/
def State.bumpGen (s : State) (b : Blk) (i : Nat) : State :=
  { s with unitGen := smSet (fun _ => 0) s.unitGen (b.code * 0x10000 + i) (s.genOf b i + 1) }

/-- Change `UNIT_STATE`, advancing the generation. -/
def State.setUnit (s : State) (b : Blk) (i st : Nat) : State := (s.setF (hdrF b 0x0C 31 28) st i).bumpGen b i

/-- `QUIESCE` of an instance. -/
def State.quiesced (s : State) (b : Blk) (i : Nat) : Bool := s.flag (hdrF b 0x08 0 0) i

/-- `COMP_RESET` reads 1. -/
def State.resetting (s : State) (b : Blk) (i : Nat) : Bool := s.flag (hdrF b 0x08 31 31) i

/-! ## Memory: bytes, words and the address-folded code -/

/-- What an unlisted byte reads as: the zero of the start-up fill (R403). -/
def memDefault (_ : Nat) : Byte := 0#8

/-- A word not listed is clean. -/
def syndDefault (_ : Nat) : Byte := 0#8

/-- The memory's canonical form: addresses strictly rising, no entry equal to what an unlisted address reads as. -/
def Memory.wf (m : List Host.Cell) : Bool := smWf memDefault m

/-- Read one byte as stored. -/
def State.byte (s : State) (a : Nat) : Byte := smGet memDefault s.mem a

/-- Write one stored byte. -/
def memPut (m : List Host.Cell) (a : Nat) (b : Byte) : List Host.Cell := smSet memDefault m a b

/-- Write stored bytes from address `a` on. -/
def memPutAll : List Host.Cell → Nat → List Byte → List Host.Cell
  | m, _, [] => m
  | m, a, b :: bs => memPutAll (memPut m a b) (a + 1) bs

/-- Clear stored bytes `[a, a + n)`. -/
def memClear (m : List Host.Cell) (a n : Nat) : List Host.Cell := m.filter fun c => c.1 < a || a + n ≤ c.1

/-- Raw bytes as stored. -/
def State.bytes (s : State) (a n : Nat) : List Byte := (List.range n).map fun i => s.byte (a + i)

/-- Weight of an 8-bit value. -/
def weight8 (v : Nat) : Nat := npop v 8

/-- The data columns D(0) to D(63) of Table 14-1. -/
def dataColumns : List Nat :=
  (List.range 256).filter (fun v => weight8 v == 3) ++ [0x1F, 0x2F, 0x37, 0x3B, 0x3D, 0x3E, 0x4F, 0x57]

/-- The address columns A(0) to A(43) of Table 14-1. -/
def addrColumns : List Nat :=
  ((List.range 256).filter (fun v => 128 ≤ v && weight8 v % 2 == 0)).take 44

/-- Exclusive-OR of the columns whose bit is set in `v`. -/
def foldColumns (cols : List Nat) (v : Nat) : Nat :=
  (cols.zipIdx).foldl (fun acc p => if nbit v p.2 then acc ^^^ p.1 else acc) 0

/-- The check bits of a data word at a fold address (R381). -/
def checkBits (data fold : Nat) : Nat := foldColumns dataColumns data ^^^ foldColumns addrColumns fold

/-- The outcome of decoding a syndrome (Table 14-2). -/
inductive Ecc where
  | clean | poisoned | checkBit (j : Nat) | dataBit (i : Nat) | uncorrectable
deriving DecidableEq, Repr

/-- Decode a syndrome, taking the rows of Table 14-2 in order. -/
def decodeSyndrome (v : Nat) : Ecc :=
  if v = 0 then .clean else if v = 0xFF then .poisoned
  else match (List.range 8).find? (fun j => v == 2 ^ j) with
    | some j => .checkBit j
    | none => match dataColumns.zipIdx.find? (fun p => p.1 == v) with
      | some p => .dataBit p.2
      | none => .uncorrectable

/-- The syndrome of the stored word holding address `a`. -/
def State.syndOf (s : State) (a : Nat) : Nat := (smGet syndDefault s.synd (a / 8)).toNat

/-- Set the syndrome of the word holding address `a`. -/
def State.setSynd (s : State) (a v : Nat) : State :=
  { s with synd := smSet syndDefault s.synd (a / 8) (BitVec.ofNat 8 v) }

/-- How a checker reads the word holding address `a`. -/
def State.ecc (s : State) (a : Nat) : Ecc := decodeSyndrome (s.syndOf a)

/-- A word that a checker delivers poisoned. -/
def Ecc.bad : Ecc → Bool
  | .poisoned => true | .uncorrectable => true | _ => false

/-- The word-aligned addresses of the words that bytes `[a, a + n)` touch. -/
def wordsOf (a n : Nat) : List Nat :=
  if n = 0 then [] else (List.range ((a + n - 1) / 8 - a / 8 + 1)).map fun k => (a / 8 + k) * 8

/-- One byte as its word's checker delivers it (R382). -/
def State.okByte (s : State) (a : Nat) : Byte := match s.ecc a with
  | .dataBit i => if i / 8 = a % 8 then s.byte a ^^^ BitVec.ofNat 8 (2 ^ (i % 8)) else s.byte a
  | _ => s.byte a

/-- Bytes as their words' checkers deliver them. -/
def State.okBytes (s : State) (a n : Nat) : List Byte := (List.range n).map fun i => s.okByte (a + i)

/-- A little-endian number, checked. -/
def State.rdN (s : State) (a n : Nat) : Nat := leNat (s.okBytes a n)

/-- Does any word under `[a, a + n)` read as poisoned or uncorrectable? -/
def State.anyBad (s : State) (a n : Nat) : Bool := (wordsOf a n).any fun w => (s.ecc w).bad

/-- Correct the word holding `a` in place if its syndrome names one stored bit. -/
def State.correctWord (s : State) (a : Nat) : State :=
  match s.ecc a with
  | .checkBit _ => s.setSynd a 0
  | .dataBit i =>
    let b := a / 8 * 8 + i / 8
    ({ s with mem := memPut s.mem b (s.byte b ^^^ BitVec.ofNat 8 (2 ^ (i % 8))) } : State).setSynd a 0
  | _ => s

/-- Poison the word holding `a` (R386). -/
def State.poisonWord (s : State) (a : Nat) : State := s.setSynd a 0xFF

/-- Poison every word under `[a, a + n)`. -/
def State.poisonRange (s : State) (a n : Nat) : State := (wordsOf a n).foldl (fun t w => t.poisonWord w) s

/-- Write bytes at `a`. A full word becomes clean; a narrower write is merged with the corrected old word, and is dropped
where the old word is uncorrectable, which then stays poisoned (R389). -/
def State.wr (s : State) (a : Nat) (bs : List Byte) : State :=
  let n := bs.length
  let full (w : Nat) : Bool := a ≤ w && w + 8 ≤ a + n
  let bad (w : Nat) : Bool := !full w && (s.ecc w).bad
  let s1 := (wordsOf a n).foldl (fun t w =>
    if full w then t.setSynd w 0 else if (s.ecc w).bad then t.setSynd w 0xFF else t.correctWord w) s
  let kept := (bs.zipIdx).filter fun p => !bad ((a + p.2) / 8 * 8)
  { s1 with mem := kept.foldl (fun m p => memPut m (a + p.2) p.1) s1.mem }

/-- Write a number of `n` bytes. -/
def State.wrN (s : State) (a n v : Nat) : State := s.wr a (leBytes v n)

/-- Fill `[a, a + n)` with zero words carrying valid check bits. -/
def State.fillZero (s : State) (a n : Nat) : State :=
  { s with mem := memClear s.mem a n, synd := s.synd.filter fun e => e.1 * 8 + 8 ≤ a || a + n ≤ e.1 * 8 }

/-! ## Free values and time -/

/-- Draw the next free value (the spec leaves it open). -/
def State.free (s : State) : Nat × State := ((Config.freeWord s.freeCount).toNat, { s with freeCount := s.freeCount + 1 })

/-- A time-stamped event moves the block's latest known time forward. -/
def State.at (s : State) (t : Nat) : State := { s with now := max s.now t }

/-- Append to what leaves the block. -/
def State.emit (s : State) (o : Out) : State := { s with out := s.out ++ [o] }

/-! ## The host link's sending side (R328 to R333) -/

/-- A host link: 0 is link A, 1 link B. -/
def State.hlink (s : State) (l : Nat) : HLink := if l = 0 then s.ln.linkA else s.ln.linkB

/-- Replace a host link. -/
def State.setHlink (s : State) (l : Nat) (x : HLink) : State :=
  if l = 0 then { s with ln := { s.ln with linkA := x } } else { s with ln := { s.ln with linkB := x } }

/-- `A_UP` or `B_UP`. -/
def State.hlinkUp (s : State) (l : Nat) : Bool := s.flag (if l = 0 then F.LNT_LINK_A_UP else F.LNT_LINK_B_UP)

/-- Flits that a completion or interrupt fills, each begun in a flit of its own (R329). -/
def Out.flits : Out → Nat
  | .cpld _ _ _ d => ((d.length + 15) / 16 + 15) / 15
  | _ => 1

/-- Send what waits on a link while the replay buffer has room for it (R333). -/
def State.sendHost (s : State) (l : Nat) : Nat → State
  | 0 => s
  | n + 1 =>
    let x := s.hlink l
    match x.toSend with
    | [] => s
    | o :: os =>
      if s.hlinkUp l && !x.retraining && x.replay.length + o.flits ≤ 256 then
        let sent := (List.range o.flits).map fun k => ((x.txNext + k) % 4096, if k = 0 then [o] else [])
        let t := s.setHlink l { x with toSend := os, replay := x.replay ++ sent, txNext := (x.txNext + o.flits) % 4096 }
        let t := sent.foldl (fun u f => u.emit (.flit l 0 f.1 ((x.rxNext + 4095) % 4096))) t
        (t.emit o).sendHost l n
      else s

/-- A completion or interrupt sets out on a link. -/
def State.toHost (s : State) (l : Nat) (o : Out) : State :=
  (s.setHlink l { s.hlink l with toSend := (s.hlink l).toSend ++ [o] }).sendHost l 4096

/-- The link that interrupts take. -/
def State.intrLink (s : State) : Option Nat := if s.hlinkUp 0 then some 0 else if s.hlinkUp 1 then some 1 else none

/-! ## Interrupts (R341) and error capture (R45, R48) -/

/-- Send an `INTR` for a source that is pending, enabled, unmasked and not in its holdoff; while no host link is up the source
stays pending. -/
def State.deliver (s : State) (src : Nat) : State :=
  match s.intrLink with
  | none => s
  | some l =>
    if s.flag F.LNT_IVEC_PENDING src && s.flag F.LNT_IVEC_ENABLE src && !s.flag F.LNT_IVEC_MASK src
        && !s.ln.holdoff.contains src then
      let s1 := (s.setFlag F.LNT_IVEC_PENDING false src).toHost l (.intr (s.getF F.LNT_IVEC_VECTOR src) src)
      if s.getF F.LNT_IVEC_HOLD_US src = 0 then s1 else { s1 with ln := { s1.ln with holdoff := src :: s1.ln.holdoff } }
    else s

/-- Raise an interrupt source; a source with `ENABLE` 0 never sets `PENDING`. -/
def State.raise (s : State) (src : Nat) : State :=
  if s.flag F.LNT_IVEC_ENABLE src then (s.setFlag F.LNT_IVEC_PENDING true src).deliver src else s

/-- The core that holds a duty, if any (`TRW_DUTY`, 0xF is lapsed). -/
def State.dutyCore (s : State) (d : Nat) : Option Nat :=
  let c := nbits (s.getF F.TRW_DUTY_CORE) (4 * d + 3) (4 * d)
  if c = 0xF then none else some c

/-- Is a duty served: held by a core that firmware has started and whose `PHASE` is 0? -/
def State.dutyServed (s : State) (d : Nat) : Bool :=
  match s.dutyCore d with
  | some c => s.getF F.TRW_CORE_STATE_PHASE c == 0 && s.unit .trw c != 1
  | none => false

/-- The host source that an error interrupt of a block also goes to (R48, Table 12-4). -/
def errSource (b : Blk) (i : Nat) : Option Nat :=
  match b with
  | .prt => some (256 + i) | .cyt => some (256 + i) | .seq => some 288 | .lnt => some 289 | _ => none

/-- The error interrupt of R48: to the core that serves the supervisor duty, held while none does, and to the host. -/
def State.errIrq (s : State) (b : Blk) (i cause : Nat) : State :=
  let held : State := { s with tr := { s.tr with heldErrs := s.tr.heldErrs ++ [(b.code, i, cause)] } }
  let s1 := match s.dutyCore 0 with
    | some c => if s.dutyServed 0 then s.emit (.fwIntr c b.code i cause) else held
    | none => held
  match errSource b i with
  | some src => s1.raise src
  | none => s1

/-- Record an error in an instance's set (R45): the cause bit, then the capture of its global address or `OVERFLOW`, and the
interrupt of R48 on a 0-to-1 change. -/
def State.err (s : State) (b : Blk) (i cause : Nat) (addr : Option Nat := none) : State :=
  let was := s.bit (hdrF b 0x10 30 0) cause i
  let valid := s.flag (hdrF b 0x24 31 31) i
  let s1 := s.setBit (hdrF b 0x10 30 0) cause true i
  let s2 := if valid then s1.setFlag (hdrF b 0x10 31 31) true i
    else match addr with
      | some a => (s1.setReg (hdrAddr b 0x20) (BitVec.ofNat 32 a) i).setReg (hdrAddr b 0x24)
          (BitVec.ofNat 32 (0x80000000 + cause * 0x1000000 + (a / 2 ^ 52 % 0x1000) * 0x1000 + a / 2 ^ 32 % 0x1000)) i
      | none => s1
  if !was && !s.bit (hdrF b 0x14 30 0) cause i && s.flag (hdrF b 0x08 8 8) i then s2.errIrq b i cause else s2

/-- A local address as a global one of this device (R7). -/
def State.global (s : State) (a : Nat) : Nat := s.dv.devNum * 2 ^ 52 + a

/-- The device number of a global address. -/
def devOf (a : Nat) : Nat := a / 2 ^ 52 % 4096

/-- The local address of a global one. -/
def localOf (a : Nat) : Nat := a % 2 ^ 44

/-! ## Firmware messages (R342 to R345) -/

/-- A 64-byte message. -/
def mkMsg (mtype mflags msgId mstatus : Nat) (payload : List (Nat × Nat × Nat)) : Msg :=
  recB 64 ([(0, 2, mtype), (2, 1, mflags), (4, 4, msgId), (8, 2, mstatus)] ++ payload)

/-- Base of a channel's F2H ring. -/
def State.f2hBase (s : State) (c : Nat) : Nat := s.getPair A.LNT_F2H_BASE_LO A.LNT_F2H_BASE_HI c / 64 * 64

/-- Base of a channel's H2F ring. -/
def State.h2fBase (s : State) (c : Nat) : Nat := s.getPair A.LNT_H2F_BASE_LO A.LNT_H2F_BASE_HI c / 64 * 64

/-- The interrupt source of a channel. -/
def chanSource (c : Nat) : Nat := if c = 0 then 290 else 255 + c

/-- Put one message into a channel's F2H ring if the ring exists and has room. -/
def State.f2hPut (s : State) (c : Nat) (m : Msg) : Option State :=
  let k := s.getF F.LNT_F2H_SIZE_LOG2 c
  let base := s.f2hBase c
  let tail := s.rdN base 2
  let head := s.rdN (base + 64) 2
  if 4 ≤ k && k ≤ 12 && (tail + 65536 - head) % 65536 < 2 ^ k then
    some (((s.wr (base + 128 + 64 * (tail % 2 ^ k)) m).wrN base 2 ((tail + 1) % 65536)).raise (chanSource c))
  else none

/-- Move held messages of a channel into its ring while there is room and the host-rings duty is served. -/
def State.f2hFlush (s : State) (c : Nat) : Nat → State
  | 0 => s
  | n + 1 =>
    match smGet (fun _ => []) s.ln.held c with
    | [] => s
    | m :: ms =>
      if s.dutyServed 6 then
        match s.f2hPut c m with
        | some t => ({ t with ln := { t.ln with held := smSet (fun _ => []) t.ln.held c ms } } : State).f2hFlush c n
        | none => s
      else s

/-- Firmware sends a message: into the ring, or held, up to 256 a channel, the oldest dropped, counted in `DROPPED` and
the channel's source raised (R344). -/
def State.f2h (s : State) (c : Nat) (m : Msg) : State :=
  let q := smGet (fun _ => []) s.ln.held c
  let s0 : State :=
    if q.length < 256 then { s with ln := { s.ln with held := smSet (fun _ => []) s.ln.held c (q ++ [m]) } }
    else
      let s1 : State := { s with ln := { s.ln with held := smSet (fun _ => []) s.ln.held c (q.tail ++ [m]) } }
      let base := s1.f2hBase c
      (if s1.getF F.LNT_F2H_SIZE_LOG2 c = 0 then s1 else s1.wrN (base + 12) 4 (s1.rdN (base + 12) 4 + 1)).raise (chanSource c)
  s0.f2hFlush c 257

/-- The next message of a channel's H2F ring that firmware has been told of and has not yet acted on (R339). -/
def State.h2fPeek (s : State) (c : Nat) : Option Msg :=
  let k := s.getF F.LNT_H2F_SIZE_LOG2 c
  let base := s.h2fBase c
  let tail := s.rdN base 2
  let head := (s.rdN (base + 64) 2 + if c = 0 then s.ln.ahead else 0) % 65536
  if s.ln.bells.contains c && 4 ≤ k && k ≤ 12 && tail ≠ head then some (s.okBytes (base + 128 + 64 * (head % 2 ^ k)) 64) else none

/-- Advance `HEAD` of a channel's H2F ring: the message has been acted on and any reply written. While an earlier message of
channel 0 is unanswered, `HEAD` waits for its reply (R427). -/
def State.h2fDone (s : State) (c : Nat) : State :=
  if c = 0 && s.ln.ahead ≠ 0 then { s with ln := { s.ln with ahead := s.ln.ahead + 1 } }
  else
    let base := s.h2fBase c
    let head := (s.rdN (base + 64) 2 + 1) % 65536
    let t := s.wrN (base + 64) 2 head
    if head = s.rdN base 2 then { t with ln := { t.ln with bells := t.ln.bells.filter (· ≠ c) } } else t

/-- The message at the front of channel 0 is acted on, and its reply comes later. -/
def State.h2fTake (s : State) : State := { s with ln := { s.ln with ahead := s.ln.ahead + 1 } }

/-- The reply kept back is written, and `HEAD` passes every message acted on. -/
def State.h2fLate (s : State) (m : Msg) (mstatus : Nat) : State :=
  let s1 := if fieldB m 2 1 % 2 = 1 then s.f2h 0 (mkMsg (0x8000 + fieldB m 0 2) 2 (fieldB m 4 4) mstatus []) else s
  let base := s1.h2fBase 0
  ({ s1 with ln := { s1.ln with ahead := 0 } } : State).wrN (base + 64) 2 ((s1.rdN (base + 64) 2 + s1.ln.ahead) % 65536)

/-- Answer the message at the head of a channel and consume it: a reply of type 0x8000 + type echoing `MSG_ID`, written
only when one is expected. -/
def State.h2fAnswer (s : State) (c : Nat) (m : Msg) (mstatus : Nat) (payload : List (Nat × Nat × Nat)) : State :=
  let s1 := if fieldB m 2 1 % 2 = 1 then
      s.f2h c (mkMsg (0x8000 + fieldB m 0 2) 2 (fieldB m 4 4) mstatus payload) else s
  s1.h2fDone c

/-- Write the firmware flags of a channel into `LNT_RSTAT` and both firmware-written headers (R343). -/
def State.setFwFlags (s : State) (c v : Nat) : State :=
  let s1 := s.setF F.LNT_RSTAT_FWFLAGS v c
  let s2 := if s1.getF F.LNT_F2H_SIZE_LOG2 c = 0 then s1 else s1.wrN (s1.f2hBase c + 4) 4 v
  let s3 := if s2.getF F.LNT_H2F_SIZE_LOG2 c = 0 then s2 else s2.wrN (s2.h2fBase c + 68) 4 v
  if s.getF F.LNT_RSTAT_FWFLAGS c = v then s3 else if c = 0 then s3.raise 290 else s3

/-- Send `QUARANTINE` on channel 0 (Table 21-4). -/
def State.msgQuarantine (s : State) (b : Blk) (event i status step addr stepNo : Nat) : State :=
  s.f2h 0 (mkMsg 0x8014 0 0 0 [(16, 1, b.code), (17, 1, event), (18, 2, i), (20, 2, status), (22, 1, step),
    (24, 8, addr), (32, 8, stepNo)])

end Sys2Proof.Machine
end

