-- ==== Sys2Proof/Machine/LinkState.lean ====
section
/-! DEFINITION. What a Quoin link is made of: its state, its connector's cable and the start of its training (R24, R25,
R357, R360); and which instance a firmware switch has paused (R476, R477). -/

namespace Sys2Proof.Machine

/-- An update operation is running. -/
def State.updBusy (s : State) : Bool := s.flag F.KST_UPD_STAT_BUSY

/-- The instance of a component whose turn it is to take a new image is in its pause (R476). -/
def State.inPause (s : State) (comp i : Nat) : Bool :=
  s.updBusy && s.ks.pausing && s.ks.actLeft.head? == some i && s.getF F.KST_UPD_STAT_COMPONENT == comp

/-- A stack or a Quoin die is paused while it takes a new image (R476, R477). -/
def State.paused (s : State) (b : Blk) (i : Nat) : Bool :=
  match b with
  | .stk => s.inPause 2 i
  | .qlk => s.inPause 3 i
  | _ => false

/-- Some stack or Quoin die is paused. -/
def State.anyPaused (s : State) : Bool := (List.range 16).any (s.paused .stk) || (List.range 8).any (s.paused .qlk)

/-- Keystone takes a new image: its services, Footing transfers, key exchanges and rekeys wait (Table 19-3). -/
def State.keystonePaused (s : State) : Bool := s.inPause 1 0

/-- A link's state beyond its registers. -/
def State.qlink (s : State) (l : Nat) : QLink := smGet (fun _ => {}) s.lk.links l

/-- Replace it. -/
def State.setQlink (s : State) (l : Nat) (x : QLink) : State :=
  { s with lk := { s.lk with links := smSet (fun _ => {}) s.lk.links l x } }

/-- `STATE` of a link (Table 13-2). -/
def State.linkState (s : State) (l : Nat) : Nat := s.getF F.QLK_STATE_STATE l

/-- Only `UP` and `DEGRADED` carry messages. -/
def State.linkUp (s : State) (l : Nat) : Bool := s.linkState l == 3 || s.linkState l == 4

/-- Nothing passes on a link: it retrains, or its Quoin die is paused, which holds its links as a retrain does (R361, R476). -/
def State.linkStill (s : State) (l : Nat) : Bool := (s.qlink l).retraining || s.paused .qlk (l / 8)

/-- The links of a connector: those of its Quoin die that the grade has. -/
def State.connLinks (s : State) (conn : Nat) : List Nat := ((List.range 8).map (8 * conn + ·)).filter fun l => s.present .qlk l

/-- The cable of a connector. -/
def State.cable (s : State) (conn : Nat) : Cable := smGet (fun _ => .absent) s.pw.cables conn

/-- Training starts from `DOWN` where a powered cable is present (R360). -/
def State.linkTrain (s : State) (l : Nat) : State :=
  if s.present .qlk l && s.linkState l = 0 && s.cable (l / 8) = .powered && !s.lk.deadQuoins.contains (l / 8) then
    let x := s.qlink l
    let t := (s.setQlink l { txUsed := x.txUsed, rxUsed := x.rxUsed }).setFlag F.QLK_CTRL_TRAIN true l
    let t := ((t.setF F.QLK_STATE_STATE 1 l).setF F.QLK_STATE_WIDTH 0 l).setFlag F.QLK_STATE_PEER_VALID false l
    (t.setF F.QLK_STATE_PEER_DEV 0 l).setUnit .qlk l 2
  else s

/-- Firmware reads the cables that wait for it and trains their links, once the links duty is served (R25, R442). -/
def State.readCables (s : State) : State :=
  if s.dutyServed 2 && s.dv.st ≠ .boot then
    let t : State := { s with lk := { s.lk with unread := [] } }
    s.lk.unread.foldl (fun u c => (u.connLinks c).foldl State.linkTrain u) t
  else s

end Sys2Proof.Machine
end

