-- ==== Sys2Proof/Machine/Footing.lean ====
section
/-! DEFINITION. The Footing store: the image directory and its commands, the staging window, the FRX layout and media
management, and the keys of its images (chapter 15, with R455, R469 and R473). -/

namespace Sys2Proof.Machine

/-- A directory entry. -/
def State.image (s : State) (i : Nat) : Image := smGet (fun _ => {}) s.ftg.dir i

/-- Replace a directory entry. -/
def State.setImage (s : State) (i : Nat) (e : Image) : State :=
  { s with ftg := { s.ftg with dir := smSet (fun _ => {}) s.ftg.dir i e } }

/-- The size an image reserved (`FTG_IMG_SIZE` of its entry). -/
def State.imageSize (s : State) (i : Nat) : Nat := (s.image i).size

/-- A write of half of `FTG_IMG_SIZE`: the size for a `CREATE` of a free entry. -/
def State.imageSizeWrite (s : State) (i : Nat) (high : Bool) (v : Nat) : State :=
  let e := s.image i
  if e.state ≠ 0 then s
  else s.setImage i { e with size := if high then v % 4096 * 2 ^ 32 + e.size % 2 ^ 32 else e.size / 2 ^ 32 * 2 ^ 32 + v % 2 ^ 32 }

/-- Payload capacity in use, bytes. -/
def State.footingUsed (s : State) : Nat :=
  (s.ftg.dir.filter (fun e => e.2.state ≠ 0)).foldl (fun n e => n + s.imageSize e.1) 0

/-- User capacity of the Footing: 6 TB (Table 15-1). -/
def footingCapacity : Nat := 6000000000000

/-- How many entries are in a state. -/
def State.imagesIn (s : State) (st : Nat) : Nat := (s.ftg.dir.filter fun e => e.2.state = st).length

/-- Where a payload byte of an image stands. Units are written under the key of the image and its generation, so under another
generation none of them reads as what was written (R408). -/
def State.payloadKey (s : State) (i off : Nat) : Nat := ((s.image i).gen * 4096 + i) * 2 ^ 44 + off

/-- A payload byte of an image. -/
def State.payload (s : State) (i off : Nat) : Byte := smGet memDefault s.ftg.data (s.payloadKey i off)

/-- The Footing key (R469). -/
def State.footingKey (s : State) : List Byte := shake256 s.dv.footingSeed 32

/-- The XTS key of an image under its present generation (R408, R469). -/
def State.imageKey (s : State) (i : Nat) : List Byte :=
  shake256 (s.footingKey ++ leBytes i 4 ++ leBytes (s.image i).gen 4) 64

/-- Keystone delivers an image's key for a transfer: the controller's key register holds it. -/
def State.keyIn (s : State) (i : Nat) : State := { s with ftg := { s.ftg with keyReg := s.imageKey i } }

/-- A transfer ends: the controller's key register is cleared. -/
def State.keyOut (s : State) : State := { s with ftg := { s.ftg with keyReg := [] } }

/-- Release an image's units: its payload, unit masks and programmed units. -/
def State.releaseUnits (s : State) (i : Nat) : State :=
  { s with ftg := { s.ftg with
      data := s.ftg.data.filter (fun e => e.1 / 2 ^ 44 % 4096 ≠ i)
      written := s.ftg.written.filter (fun e => e.1 / 2 ^ 32 ≠ i)
      programmed := s.ftg.programmed.filter (fun u => u / 2 ^ 32 ≠ i) } }

/-- An image that a model slot other than `EMPTY`, or a load in progress, was loaded from (R412). -/
def State.imageInUse (s : State) (i : Nat) : Bool := s.sv.mslots.any fun e => e.2.st ≠ 0 && e.2.image = i

/-! ## The FRX layout (R414), read through any byte reader -/

/-- A little-endian field of an image. -/
def frxN (rd : Nat → Byte) (off n : Nat) : Nat := leNat ((List.range n).map fun i => rd (off + i))

/-- Are bytes `[off, off + n)` all zero? -/
def frxZero (rd : Nat → Byte) (off n : Nat) : Bool := (List.range n).all fun i => rd (off + i) = 0

/-- One section entry. -/
structure Section where
  type : Nat
  offset : Nat
  length : Nat
  destOff : Nat
deriving DecidableEq, Repr

/-- The k-th section entry of an image. -/
def frxSection (rd : Nat → Byte) (k : Nat) : Section :=
  let b := 64 + 64 * k
  ⟨frxN rd b 1, frxN rd (b + 8) 8, frxN rd (b + 16) 8, frxN rd (b + 24) 8⟩

/-- The sections of an image, in table order. -/
def frxSections (rd : Nat → Byte) : List Section := (List.range (min 32 (frxN rd 7 1))).map (frxSection rd)

/-- A loaded section: routine sets and weights (Table 15-4). -/
def Section.loaded (x : Section) : Bool := x.type == 4 || x.type == 5

/-- How many sections of a type. -/
def countType (xs : List Section) (t : Nat) : Nat := (xs.filter fun x => x.type = t).length

/-- Two destination ranges that meet. -/
def Section.meets (a b : Section) : Bool := a.destOff < b.destOff + b.length && b.destOff < a.destOff + a.length

/-- No two destinations of a list meet. -/
def noOverlap : List Section → Bool
  | [] => true
  | x :: xs => xs.all (fun y => !x.meets y) && noOverlap xs

/-- Section-type counts by kind (Table 15-4). -/
def kindRule (kind : Nat) (xs : List Section) : Bool :=
  match kind with
  | 1 => countType xs 1 = 1 && countType xs 2 = 1 && countType xs 3 ≤ 1 && countType xs 4 ≤ 1 && 1 ≤ countType xs 5
      && countType xs 6 = 1 && xs.all (fun x => 1 ≤ x.type && x.type ≤ 6)
      && xs.all (fun x => if x.type = 1 || x.type = 2 then x.length = 64 else true)
  | 2 => countType xs 7 = 1 && xs.length = 1
  | 3 => 1 ≤ countType xs 8 && xs.all (fun x => x.type = 8)
  | _ => false

/-- The layout of R414: the header of Table 15-3, the section entries, Table 15-4 and the destination rules. -/
def frxLayoutOk (rd : Nat → Byte) (kind : Nat) : Bool :=
  let n := frxN rd 7 1
  let xs := frxSections rd
  frxN rd 0 4 = 0x31585246 && frxN rd 4 2 = 1 && frxN rd 6 1 = kind && 1 ≤ n && n ≤ 32 && frxN rd 8 8 % 4096 = 0
    && (kind = 3 || frxN rd 16 4 = 0) && frxZero rd 56 8 && frxZero rd (64 + 64 * n) (64 * (32 - n))
    && xs.all (fun x => x.offset % 4096 = 0 && 8192 ≤ x.offset)
    && (List.range n).all (fun k => frxZero rd (64 + 64 * k + 1) 7)
    && xs.all (fun x => !x.loaded || (x.destOff % 2 ^ 26 = 0 && x.length % 2 ^ 26 = 0))
    && noOverlap (xs.filter Section.loaded) && kindRule kind xs

/-- The signer rule of R455: reserved bits zero and the class and key of Table 18-2 (an owner key bound to the partition, or a
firmware-signing certificate). -/
def State.signerOk (s : State) (rd : Nat → Byte) (kind part : Nat) : Bool :=
  let g := frxN rd 20 4
  nbits g 23 8 = 0 &&
    (if kind = 3 then nbits g 31 24 = 1
     else nbits g 31 24 = 2 && s.flag F.PRT_OWNER_BOUND part && s.getF F.PRT_OWNER_KEY part = nbits g 7 0)

/-- Where the first 0x08 section of a firmware image starts. -/
def frxComponentAt (rd : Nat → Byte) : Nat :=
  match (frxSections rd).find? (fun x => x.type == 8) with
  | some x => x.offset
  | none => 0

/-- The component record of a firmware image (Table 19-1) keeps its table, and `SEC_VER` is at most 128 (R473). -/
def componentOk (rd : Nat → Byte) : Bool :=
  let b := frxComponentAt rd
  let c := frxN rd b 1
  c ≤ 3 && frxZero rd (b + 2) 2 && frxZero rd (b + 12) 4 && frxZero rd (b + 48) 208 && frxN rd 16 4 ≤ 128
    && (c = 0 || frxN rd (b + 8) 4 = 0) && frxN rd (b + 16 + 8 * c) 8 = 0

/-- The last command's outcome in an entry. -/
def State.imageStat (s : State) (i : Nat) (status : Nat) : State :=
  s.setImage i { s.image i with fail := status != 0, status := status, busy := false }

/-- An image command on entry `i` (R409, R411, R412): the value written to `FTG_IMG_CMD`. -/
def State.imageCmdRun (s : State) (i v : Nat) : State :=
  let e := s.image i
  let kind := nbits v 27 26
  match nbits v 31 28 with
  | 1 =>
    if e.state ≠ 0 then s.imageStat i St.stateRefused
    else if kind ≠ 1 && kind ≠ 3 then s.imageStat i St.badField
    else if footingCapacity < s.footingUsed + s.imageSize i || s.getF F.FTG_STATE_STORE = 3 then
      s.imageStat i St.footingFull
    else s.setImage i { gen := e.gen, state := 1, kind := kind, owner := nbits v 24 20, size := e.size }
  | 2 =>
    if e.state ≠ 1 then s.imageStat i St.stateRefused
    else (s.setImage i { e with state := 2, busy := true, fail := false, status := 0 }).keyIn i
  | 3 =>
    if e.state ≠ 3 || s.imageInUse i then s.imageStat i St.stateRefused
    else (s.releaseUnits i).setImage i { gen := e.gen + 1 }
  | 4 =>
    if e.state ≠ 1 then s.imageStat i St.stateRefused
    else (s.releaseUnits i).setImage i { gen := e.gen }
  | _ => s.setImage i { e with fail := true, status := St.badField }

/-- A write to `FTG_IMG_CMD` by a requester whose `FTG_IMG_IDX` names entry `i`: carried out while the Footing duty is served
or Keystone's ROM holds the device (R483), else waiting for the duty (Table 16-4). -/
def State.imageCmd (s : State) (i v : Nat) : State :=
  if (s.image i).busy then s.setImage i { s.image i with fail := true, status := St.stateRefused }
  else if s.dutyServed 4 || s.dv.romRecovery then s.imageCmdRun i v
  else ({ s with ftg := { s.ftg with waiting := s.ftg.waiting ++ [(i, v)] } } : State).setImage i { s.image i with busy := true }

/-- Carry out the image commands that waited for the Footing duty. -/
def State.imageCmdsResume (s : State) : State :=
  let w := s.ftg.waiting
  let s1 : State := { s with ftg := { s.ftg with waiting := [] } }
  w.foldl (fun t c => (t.setImage c.1 { t.image c.1 with busy := false }).imageCmdRun c.1 c.2) s1

/-- SEAL_DONE (R411): on success `SEALED`, the directory committed; on failure `FREE` with its units released and
`SEAL_REJECTED` set. -/
def execSealDone (image : Nat) (sigOk manifestOk hashesOk blocksOk : Bool) (s : State) : Res :=
  let e := s.image image
  if e.state ≠ 2 || s.keystonePaused then done s
  else
    let s := s.keyOut
    let rd := s.payload image
    let good := sigOk && manifestOk && hashesOk && blocksOk && frxLayoutOk rd e.kind && s.signerOk rd e.kind e.owner
      && (e.kind ≠ 3 || componentOk rd) && !e.badDie
    if good then done (s.setImage image { e with state := 3, busy := false, fail := false, status := 0 })
    else
      let s1 := (s.releaseUnits image).setImage image { gen := e.gen, fail := true, status := St.imageRejected }
      let s2 := s1.err .ftg blockWide 4
      done (if sigOk then s2 else s2.err .kst 0 0)

/-- A unit is programmed or a block rewritten: the least-worn free blocks take it (R418), so the most worn block and the mean rise by at most
one cycle; by how much the spec leaves to the build of the blocks. -/
def State.wear (s : State) : State :=
  let r := s.free
  let most := s.getF F.FTG_PE_MAX_CYCLES
  let mean := s.getF F.FTG_PE_AVG_CYCLES
  let most' := min 65535 (most + r.1 % 2)
  (r.2.setF F.FTG_PE_MAX_CYCLES most').setF F.FTG_PE_AVG_CYCLES (min most' (mean + r.1 / 2 % 2))

/-- Mark bytes `[off, off + n)` of a unit as written, programming the unit when all 4,096 are. -/
def State.markWritten (s : State) (key off n : Nat) : State :=
  let mask := (List.range n).foldl (fun m k => nsetBit m (off + k) true) (smGet (fun _ => 0) s.ftg.written key)
  if npop mask 4096 = 4096 then
    let t : State := { s with ftg := { s.ftg with
        written := smDel s.ftg.written key
        programmed := s.ftg.programmed ++ [key] } }
    t.wear
  else { s with ftg := { s.ftg with written := smPut s.ftg.written key mask } }

/-- Does the staging buffer (4 MiB) still hold a free unit, or the unit already? -/
def State.stagingRoom (s : State) (key : Nat) : Bool :=
  s.ftg.written.any (fun e => e.1 = key) || s.ftg.written.length < 1024

/-- A write through the staging window at byte offset `off` of image `i`, one unit's part at a time: into a programmed unit it
is discarded and sets `STAGE_REWRITE`; while the staging buffer is full it waits, so nothing of it is taken in. -/
def State.stagePut (s : State) (i : Nat) : Nat → List Byte → Nat → State
  | _, _, 0 => s
  | off, bs, fuel + 1 =>
    let n := min bs.length (4096 - off % 4096)
    if n = 0 then s
    else
      let key := i * 2 ^ 32 + off / 4096
      let s1 := if s.ftg.programmed.contains key then s.err .ftg blockWide 3
        else if s.stagingRoom key then
          (State.markWritten { s with ftg := { s.ftg with data := memPutAll s.ftg.data (s.payloadKey i off) (bs.take n) } }
            key (off % 4096) n)
        else s
      s1.stagePut i (off + n) (bs.drop n) fuel

/-- The image and byte offset a requester's `FTG_WIN` gives an address in the staging window (R410). -/
def State.stageAt (s : State) (rc addr : Nat) : Nat × Nat :=
  (s.getF F.FTG_WIN_IMAGE 0 rc, s.getF F.FTG_WIN_SEGMENT 0 rc * 2 ^ 36 + addr % 2 ^ 36)

/-- A write through the window: unmapped unless the image is `STAGING`. It is one transfer, so the key register is clear after it. -/
def State.stageWrite (s : State) (rc addr : Nat) (bs : List Byte) : Nat × State :=
  let (i, off) := s.stageAt rc addr
  if (s.image i).state ≠ 1 then (St.addressUnmapped, s) else (St.ok, (s.stagePut i off bs (bs.length + 1)).keyOut)

/-- A read through the window. -/
def State.stageRead (s : State) (rc addr n : Nat) : Nat × List Byte :=
  let (i, off) := s.stageAt rc addr
  if (s.image i).state ≠ 1 then (St.addressUnmapped, List.replicate n 0)
  else (St.ok, (List.range n).map fun k => s.payload i (off + k))

/-- RETENTION_SAMPLE (R418): a block whose worst codeword needs more than `REFRESH_BITS` corrections is rewritten, while the
Footing duty is served and moves are still made. -/
def execRetentionSample (chan bits : Nat) (s : State) : Res :=
  let s1 := if 0 < bits && chan < 8 then s.bump F.FTG_CH_CE_COUNT 1 chan else s
  done (if s.getF F.FTG_REFRESH_BITS_REFRESH_BITS < bits && chan < 8 && s.dutyServed 4 && s.getF F.FTG_STATE_STORE = 2 then
    (s1.bumpW F.FTG_REFRESHED_COUNT).wear else s1)

/-- BLOCK_DEFECT (R418, R419): the block is retired to a spare; below `FTG_SPARE_LOW` sets `SPARE_LOW`, and with none left the
store becomes read-only. -/
def execBlockDefect (chan : Nat) (s : State) : Res :=
  let n := s.getF F.FTG_SPARE_BLOCKS
  if n = 0 || 8 ≤ chan then done s
  else
    let s1 := ({ s with ftg := { s.ftg with sparesUsed := s.ftg.sparesUsed + 1 } } : State).setF F.FTG_SPARE_BLOCKS (n - 1)
    let s2 := if n - 1 < s.getF F.FTG_SPARE_LOW_BLOCKS then s1.err .ftg blockWide 1 else s1
    done (if n = 1 then (s2.setF F.FTG_STATE_STORE 3).err .ftg blockWide 2 else s2)

/-- FOOTING_DIE_FAIL (R419): the die is unusable, the images with units on it are readable only in part, `DIE_FAIL` is set. -/
def execFootingDieFail (chan die : Nat) (images : List Nat) (s : State) : Res :=
  if chan < 8 && die < 4 then
    let s1 := s.setBit F.FTG_CH_STATE_DIES_OK die false chan
    let s2 := images.foldl (fun t i => if (t.image i).state = 0 then t else t.setImage i { t.image i with badDie := true }) s1
    done (({ s2 with ftg := { s2.ftg with deadDies := s2.ftg.deadDies ++ [chan * 4 + die] } } : State).err .ftg chan 5)
  else done s

end Sys2Proof.Machine
end

