-- ==== Sys2Proof/Machine/Trowel.lean ====
section
/-! DEFINITION. The Trowel complex: duties, the watchdog, restarts and their phases, crash loops and the hot spare
(chapter 16). -/

namespace Sys2Proof.Machine

/-- A requester's code, by which its copies of select and index registers are held. -/
def reqCode : Requester → Nat
  | .host a => a % 64 | .trowel c => 64 + c % 8 | .keystone => 72 | .debug => 73

/-- A core's phase (Table 16-10). -/
def State.phase (s : State) (c : Nat) : Nat := s.getF F.TRW_CORE_STATE_PHASE c

/-- The duties a core holds. -/
def State.dutiesOf (s : State) (c : Nat) : List Nat := (List.range 7).filter fun d => s.dutyCore d == some c

/-- Put a duty's holder into `TRW_DUTY`; 0xF is lapsed. -/
def State.setDuty (s : State) (d c : Nat) : State :=
  s.setF F.TRW_DUTY_CORE (putField (s.getF F.TRW_DUTY_CORE) (4 * d + 3) (4 * d) c)

/-- Record a procedure in the journal of the core that holds a duty (R427). -/
def State.journalOpen (s : State) (duty kind on : Nat) : State :=
  { s with tr := { s.tr with journal := s.tr.journal ++ [⟨(s.dutyCore duty).getD 0, kind, on⟩] } }

/-- A journalled procedure is complete. -/
def State.journalClose (s : State) (kind on : Nat) : State :=
  { s with tr := { s.tr with journal := s.tr.journal.filter fun e => !(e.kind = kind && e.on = on) } }

/-- The channels that have a ring. -/
def State.channels (s : State) : List Nat :=
  (List.range 33).filter fun c => s.getF F.LNT_F2H_SIZE_LOG2 c ≠ 0 || s.getF F.LNT_H2F_SIZE_LOG2 c ≠ 0

/-- Set or clear one firmware flag on every channel (R343, R344). -/
def State.fwFlagAll (s : State) (bit : Nat) (v : Bool) : State :=
  s.channels.foldl (fun t c => t.setFwFlags c (nsetBit (t.getF F.LNT_RSTAT_FWFLAGS c) bit v)) s

/-- The block of a code (Table 2-10). -/
def blkOfCode (c : Nat) : Option Blk := Blk.all.find? fun b => b.code = c

/-- The held error interrupts are raised, once each, to the core that takes the supervisor duty; one whose cause bit software
has cleared meanwhile is not (R48). -/
def State.raiseHeldErrs (s : State) : State :=
  match s.dutyCore 0 with
  | none => s
  | some c =>
    let t : State := { s with tr := { s.tr with heldErrs := [] } }
    (s.tr.heldErrs.filter fun e => match blkOfCode e.1 with
      | some b => s.bit (hdrF b 0x10 30 0) e.2.2 e.2.1
      | none => false).foldl (fun u e => u.emit (.fwIntr c e.1 e.2.1 e.2.2)) t

/-- A duty begins to be served: what waited for it goes on (Table 16-4). -/
def State.dutyServes (s : State) (d : Nat) : State :=
  match d with
  | 0 => s.raiseHeldErrs
  | 2 => s.readCables
  | 4 => s.imageCmdsResume
  | 6 => s.channels.foldl (fun t c => t.f2hFlush c 257) s
  | _ => s

/-- Drop a core's copies of select and index registers and its staged halves (R424, R50, R90). -/
def State.dropCopies (s : State) (c : Nat) : State :=
  { s with regs := s.regs.filter fun e =>
      let addr := e.1 / 0x8000 / 0x4000
      !(e.1 % 0x8000 = 64 + c && (addr % 0x1000 = 0x18 || addr = A.REG_ENTRY_LO
        || (match rowOf addr with | some r => r.dim == .reqr | none => false))) }

/-- Count a restart in the core's `LOOP_S` window (R428). -/
def State.countLoop (s : State) (c : Nat) : State :=
  let start := smGet (fun _ => 0) s.tr.winStart c
  let span := max 1 (s.getF F.TRW_LOOP_LIMIT_LOOP_S) * 1000000000
  if start = 0 || span ≤ s.now + 1 - start then
    let s1 : State := { s with tr := { s.tr with winStart := smSet (fun _ => 0) s.tr.winStart c (s.now + 1) } }
    s1.setF F.TRW_LOOP_COUNT 1 c
  else s.bump F.TRW_LOOP_COUNT 1 c

/-- Begin a restart of a core from phase 1 (R423, R424). -/
def State.restartCore (s : State) (c cause info : Nat) : State :=
  let s1 := ((s.setF F.TRW_CORE_CAUSE_CAUSE cause c).setF F.TRW_CORE_CAUSE_INFO info c).setF F.TRW_CORE_STATE_PHASE 1 c
  let s2 := ((s1.bump F.TRW_RESTARTS_COUNT 1 c).countLoop c).setUnit .trw c 6
  let s3 : State := if smGet (fun _ => 0) s2.tr.lapseFrom c = 0 then
      { s2 with tr := { s2.tr with lapseFrom := smSet (fun _ => 0) s2.tr.lapseFrom c (s2.now + 1) } } else s2
  let s4 := (s3.dropCopies c).err .trw c 0
  if (s.dutiesOf c).contains 6 then s4.fwFlagAll 1 true else s4

/-- `FW_RESTARTED` on channel 0 (Table 12-6). -/
def State.msgRestarted (s : State) (c : Nat) : State :=
  s.f2h 0 (mkMsg 0x8013 0 0 0 [(16, 1, c), (17, 1, s.getF F.TRW_CORE_CAUSE_CAUSE c), (20, 4, s.getF F.TRW_RESTARTS_COUNT c)])

/-- A core takes the duties that were moving to it. -/
def State.takeMoves (s : State) (c : Nat) : State :=
  let mine := s.tr.moves.filter fun m => m.2 = c
  let s1 : State := { s with tr := { s.tr with moves := s.tr.moves.filter fun m => m.2 ≠ c } }
  mine.foldl (fun t m => (t.setDuty m.1 c).dutyServes m.1) s1

/-- A restart ends: the core serves again (R344, R424, R427). -/
def State.coreServes (s : State) (c : Nat) : State :=
  let from_ := smGet (fun _ => 0) s.tr.lapseFrom c
  let s1 := ((s.setF F.TRW_CORE_STATE_PHASE 0 c).setFlag F.TRW_CORE_CTRL_RESTART false c).setUnit .trw c 3
  let s2 := (s1.setF (hdrF .trw 0x08 31 31) 0 c).raiseMax F.TRW_RESTART_MAX_US ((s1.now + 1 - from_) / 1000) c
  let s3 : State := { s2 with tr := { s2.tr with lapseFrom := smSet (fun _ => 0) s2.tr.lapseFrom c 0 } }
  let s4 := s3.takeMoves c
  let s5 := if (s4.dutiesOf c).contains 6 then
      s4.channels.foldl (fun t k =>
        let t1 := t.setFwFlags k (nsetBit (t.getF F.LNT_RSTAT_FWFLAGS k) 1 false)
        let t2 := if t1.getF F.LNT_F2H_SIZE_LOG2 k = 0 then t1 else t1.wrN (t1.f2hBase k + 8) 4 (t1.rdN (t1.f2hBase k + 8) 4 + 1)
        if t2.getF F.LNT_H2F_SIZE_LOG2 k = 0 then t2 else t2.wrN (t2.h2fBase k + 72) 4 (t2.rdN (t2.h2fBase k + 72) 4 + 1)) s4
    else s4
  ((s5.dutiesOf c).foldl State.dutyServes s5).msgRestarted c

/-- A duty that finds no core lapses until a cold reset (R428, R429). -/
def State.dutyLapses (s : State) (d : Nat) : State :=
  let s1 : State := { (s.setDuty d 0xF) with tr := { s.tr with lapsed := s.tr.lapsed ++ [d] } }
  let s2 := s1.err .trw blockWide 2
  if d = 6 then s2.fwFlagAll 0 false else s2

/-- The lowest-numbered core in service that holds, or is to hold, fewer than two duties. -/
def State.freeCore (s : State) : Option Nat :=
  (List.range 8).find? fun c => s.phase c = 0 && (s.dutiesOf c).length + (s.tr.moves.filter fun m => m.2 = c).length < 2

/-- Place one duty of a retired core (R428): T7 while idle or taking over, else the lowest core with room, else it lapses. -/
def State.placeDuty (s : State) (d : Nat) (toT7 : Bool) : State :=
  let s1 := s.setDuty d 0xF
  if toT7 then { s1 with tr := { s1.tr with moves := s1.tr.moves ++ [(d, 7)] } }
  else match s1.freeCore with
    | some c => { s1 with tr := { s1.tr with moves := s1.tr.moves ++ [(d, c)] } }
    | none => s1.dutyLapses d

/-- Retire a core (R428): its duties move, the supervisor's first. -/
def State.retireCore (s : State) (c : Nat) : State :=
  if s.phase c = 5 then s
  else
    let ds := s.dutiesOf c
    let idle := s.phase 7 = 6 && c ≠ 7
    let s1 := ((s.setF F.TRW_CORE_STATE_PHASE 5 c).setUnit .trw c 1).err .trw c 1
    let s2 := if ds.contains 6 then s1.fwFlagAll 1 true else s1
    let s3 := ds.foldl (fun t d => t.placeDuty d idle) s2
    if idle && !ds.isEmpty then s3.restartCore 7 7 0 else s3

/-- WATCHDOG_EXPIRY (R423): not written for `TRW_WDT` ms; a retired or idle core is not watched. -/
def execWatchdogExpiry (core ms now : Nat) (s : State) : Res :=
  let t := s.at now
  done (if core < 8 && t.phase core = 0 && t.unit .trw core = 3 && t.getF F.TRW_WDT_MS core ≤ ms then
    State.restartCore { t with tr := { t.tr with
      lapseFrom := smSet (fun _ => 0) t.tr.lapseFrom core (t.now + 1 - ms * 1000000) } } core 1 0 else t)

/-- CORE_EXCEPTION (R423): an unhandled exception (2), or an uncorrectable word in the local SRAM or image copy (3). -/
def execCoreException (core cause addr now : Nat) (s : State) : Res :=
  let t := s.at now
  done (if core < 8 && t.phase core = 0 && t.unit .trw core = 3 && (cause = 2 || cause = 3) then
    t.restartCore core cause (if cause = 2 then nbits addr 25 2 else 0) else t)

/-- A write of `RESTART` for the selected core (R423, R430): one restart, with the cause that arrived first. -/
def State.writeRestart (s : State) (c : Nat) : State :=
  if s.phase c = 0 && s.unit .trw c = 3 then (s.setFlag F.TRW_CORE_CTRL_RESTART true c).restartCore c 4 0 else s

/-- The block whose procedure a journal entry records, for `QUARANTINE`: a stack's repair, a brick's mapping, the Yard's slab
replacement, the Footing's MODEL_LOAD, Keystone's activation. -/
def JEntry.blk (e : JEntry) : Blk :=
  match e.kind with
  | 1 => .stk | 2 => .brk | 3 => .yrd | 4 => .ftg | _ => .kst

/-- The rebuild reads a core's journal (R427, Table 16-11): corrected words are counted, and a procedure whose words are
uncorrectable is lost and reported. -/
def State.readJournal (s : State) (core ce : Nat) (bad : List (Nat × Nat)) : State :=
  let mine := s.tr.journal.filter fun e => e.core = core
  let lost := bad.filterMap fun b => (mine[b.1]?).map fun e => (e, b.2)
  let t := s.bump F.TRW_JOURNAL_CE ce
  let t : State := { t with tr := { t.tr with journal := t.tr.journal.filter fun e => !(lost.any fun x => x.1 = e) } }
  lost.foldl (fun u x => (u.err .trw blockWide 4 (some x.2)).msgQuarantine x.1.blk 4 x.1.on 0 0 x.2 0) t

/-- RESTART_PHASE_END (R424): the next phase begins; a failed image check of the load phase restarts with cause 6. -/
def execRestartPhaseEnd (core : Nat) (imageOk : Bool) (journalCe : Nat) (journalBad : List (Nat × Nat)) (now : Nat)
    (s : State) : Res :=
  let t := s.at now
  if 8 ≤ core then done t
  else match t.phase core with
    | 1 => done (t.setF F.TRW_CORE_STATE_PHASE 2 core)
    | 2 => done (if imageOk then t.setF F.TRW_CORE_STATE_PHASE 3 core else (t.err .trw core 3).restartCore core 6 0)
    | 3 => done (t.setF F.TRW_CORE_STATE_PHASE 4 core)
    | 4 => done ((t.readJournal core journalCe journalBad).coreServes core)
    | _ => done t

/-- RESTART_PHASE_OVERRUN (R424): the attempt ends and begins again from phase 1 with cause 8, or 6 where the image check of
the load phase failed. -/
def execRestartPhaseOverrun (core : Nat) (imageOk : Bool) (now : Nat) (s : State) : Res :=
  let t := s.at now
  let p := t.phase core
  if core < 8 && 1 ≤ p && p ≤ 4 then
    done (if p = 2 && !imageOk then (t.err .trw core 3).restartCore core 6 0 else t.restartCore core 8 0)
  else done t

/-- CRASH_LOOP_RETIRE (R428): `LOOP_COUNT` restarts within `LOOP_S` seconds retire the core. -/
def execCrashLoopRetire (core : Nat) (s : State) : Res :=
  done (if core < 8 && max 1 (s.getF F.TRW_LOOP_LIMIT_LOOP_COUNT) ≤ s.getF F.TRW_LOOP_COUNT core && s.phase core ≠ 6 then
    s.retireCore core else s)

/-- DUTY_MOVE (R422): the receiving core has rebuilt for the duty and starts to serve it; a core holds at most two, and a duty
lapsed for good stays lapsed. -/
def execDutyMove (duty core : Nat) (s : State) : Res :=
  let others := (s.dutiesOf core).filter (· ≠ duty)
  done (if duty < 7 && core < 8 && s.phase core = 0 && s.unit .trw core = 3 && others.length < 2
      && !s.tr.lapsed.contains duty then
    let s1 : State := { s with tr := { s.tr with moves := s.tr.moves.filter fun m => m.1 ≠ duty } }
    let s2 := (s1.setDuty duty core).dutyServes duty
    let s3 := if duty = 6 then s2.fwFlagAll 1 false else s2
    s3.msgRestarted core
    else s)

end Sys2Proof.Machine
end

