-- ==== Sys2Proof/Machine/Cycle.lean ====
section
/-! DEFINITION. Cycle tables and regulators (R279 to R293): commit checks, grants, charging, wraps and windows, buckets. -/

namespace Sys2Proof.Machine

/-- How many logical bricks the grade has active (Table 0-2). -/
def State.activeBricks (s : State) : Nat := if s.dv.gradeC then 7680 else 10240

/-- Logical bricks in a partition's pool: those of its ranges that the grade has and that are not retired. -/
def State.poolCount (s : State) (p : Nat) : Nat :=
  (List.range 8).foldl (fun n k =>
    let f := s.getF (F.PRT_POOL_FIRST.nth k) p
    let c := s.getF (F.PRT_POOL_COUNT.nth k) p
    n + (min s.activeBricks (f + c) - min s.activeBricks f)
      - (s.bm.gone.filter fun l => f ≤ l && l < f + c).length) 0

/-- Is a logical brick in a partition's pool? -/
def State.inPool (s : State) (p l : Nat) : Bool :=
  l < s.activeBricks && !s.bm.gone.contains l &&
    (List.range 8).any fun k =>
      s.getF (F.PRT_POOL_FIRST.nth k) p ≤ l && l < s.getF (F.PRT_POOL_FIRST.nth k) p + s.getF (F.PRT_POOL_COUNT.nth k) p

/-- Bank groups a partition holds. -/
def State.groupCount (s : State) (p : Nat) : Nat :=
  (List.range 4).foldl (fun n k => n + npop (s.getF (F.PRT_BGRP_GROUPS.nth k) p) 32) 0

/-- Does a partition hold bank group g? -/
def State.holdsGroup (s : State) (p g : Nat) : Bool := s.bit (F.PRT_BGRP_GROUPS.nth (g / 32)) (g % 32) p

/-- Does a partition hold Hod engine h? -/
def State.holdsHod (s : State) (p h : Nat) : Bool :=
  if h < 32 then s.bit F.PRT_HOD_LO_ENGINES h p else s.bit F.PRT_HOD_HI_ENGINES (h - 32) p

/-- A partition's live cycle table. -/
def State.cycle (s : State) (p : Nat) : Cycle := smGet (fun _ => {}) s.pt.cycles p

/-- Replace a partition's live cycle table. -/
def State.setCycle (s : State) (p : Nat) (c : Cycle) : State :=
  { s with pt := { s.pt with cycles := smSet (fun _ => {}) s.pt.cycles p c } }

/-- The shadow slots of a partition's cycle table, from the slot registers (R293). -/
def State.shadowSlots (s : State) (p n : Nat) : List CSlot :=
  (List.range n).map fun k =>
    let b := [s.getF F.CYT_SLOT2_BRICK_US p k, s.getF F.CYT_SLOT3_COLOPS p k, s.getF F.CYT_SLOT4_YARD p k]
    { start := s.getF F.CYT_SLOT0_START_US p k, len := s.getF F.CYT_SLOT1_LEN_US p k, cls := s.getF F.CYT_SLOT0_CLASS p k,
      overdraft := min 100 (s.getF F.CYT_SLOT1_OVERDRAFT p k), budget := b, bal := b.map Int.ofNat }

/-- Is a slot's window current at microsecond t? -/
def CSlot.covers (x : CSlot) (t : Nat) : Bool := x.start ≤ t && t < x.start + x.len

/-- The sum of a measure's rates over the slots active at t: Σ budget · unit ÷ LEN. -/
def rateAt (xs : List CSlot) (m unit t : Nat) : Rat :=
  ((xs.filter fun x => x.covers t).map fun x => ((x.budget.getD m 0 * unit : Nat) : Rat) / (x.len : Rat)).sum

/-- The first microsecond (in time) at which a measure's rates pass its limit, and the lowest-numbered slot then active. A sum
of rates only rises where a window starts. -/
def firstOver (xs : List CSlot) (m unit limit : Nat) : Option Nat :=
  let starts := (xs.map CSlot.start).mergeSort (fun a b => a ≤ b)
  match starts.find? (fun t => (limit : Rat) < rateAt xs m unit t) with
  | some t => some (xs.findIdx fun x => x.covers t)
  | none => none

/-- The first slot that overlaps an earlier slot of its class. -/
def classClash (xs : List CSlot) : Option Nat :=
  (List.range xs.length).find? fun i => (List.range i).any fun j =>
    match xs[i]?, xs[j]? with
    | some a, some b => a.cls = b.cls && a.start < b.start + b.len && b.start < a.start + a.len
    | _, _ => false

/-- The checks of R286 on a table, in order: the failing check and slot, or none. -/
def State.cycleFails (s : State) (p period n : Nat) (xs : List CSlot) : Option (Nat × Nat) :=
  if period < 1000 || 100000 < period || 256 < n then some (1, 0)
  else match (List.range xs.length).find? (fun i => match xs[i]? with
      | some x => 5 < x.cls || period < x.start + x.len || x.len = 0
      | none => false) with
    | some i => some (2, i)
    | none => match classClash xs with
      | some i => some (3, i)
      | none => match firstOver xs 0 1 (s.poolCount p) with
        | some i => some (4, i)
        | none => match firstOver xs 1 4096 (32000 * s.groupCount p) with
          | some i => some (5, i)
          | none => match firstOver xs 2 65536 (s.getF F.PRT_RG_YRD_CAP_GBPS p * 1000) with
            | some i => some (6, i)
            | none => none

/-- The capacity checks 4 to 6 hold for a partition's committed table (R276). -/
def State.cycleFits (s : State) (p : Nat) : Bool :=
  let ok (xs : List CSlot) : Bool := (firstOver xs 0 1 (s.poolCount p)).isNone
    && (firstOver xs 1 4096 (32000 * s.groupCount p)).isNone
    && (firstOver xs 2 65536 (s.getF F.PRT_RG_YRD_CAP_GBPS p * 1000)).isNone
  ok (s.cycle p).slots && (match (s.cycle p).pend with
    | some x => ok x.2
    | none => true)

/-- Windows set by the counter's value. -/
def windowsAt (xs : List CSlot) (t : Nat) : List CSlot := xs.map fun x => { x with active := x.covers t, wanted := false }

/-- Show the live slots in `CYT_SLSTAT.ACTIVE`. -/
def State.showSlots (s : State) (p : Nat) : State :=
  ((s.cycle p).slots.zipIdx).foldl (fun t x => t.setFlag F.CYT_SLSTAT_ACTIVE x.1.active p x.2) s

/-- Apply a committed table: balances reload with no carried debt (R293). -/
def State.applyTable (s : State) (p period : Nat) (xs : List CSlot) : State :=
  let c := s.cycle p
  let ys := windowsAt xs (if s.flag F.CYT_CTRL_ENABLE p then 0 else s.getF F.CYT_COUNT_US p)
  ((s.setCycle p { c with period := period, slots := ys, pend := none }).setFlag F.CYT_CTRL_PENDING false p).showSlots p

/-- A write of 1 to `COMMIT` (R286, R293). -/
def State.cytCommit (s : State) (p : Nat) : State :=
  let period := s.getF F.CYT_PERIOD_US p
  let n := s.getF F.CYT_NSLOTS_COUNT p
  let xs := s.shadowSlots p n
  match s.cycleFails p period n xs with
  | some (chk, slot) =>
    ((s.setF F.CYT_REFUSE_CHECK chk p).setF F.CYT_REFUSE_SLOT slot p).err .cyt p 0
  | none =>
    if s.flag F.CYT_CTRL_ENABLE p then
      (s.setCycle p { s.cycle p with pend := some (period, xs) }).setFlag F.CYT_CTRL_PENDING true p
    else s.applyTable p period xs

/-- Start the counter at 0 under the live table, balances reloaded (R293; Table 17-6 "as at `ENABLE`"). -/
def State.cytRestart (s : State) (p : Nat) : State :=
  let c := s.cycle p
  let xs := windowsAt (c.slots.map fun x => { x with bal := x.budget.map Int.ofNat, rest := [0, 0, 0] }) 0
  ((s.setF F.CYT_COUNT_US 0 p).setCycle p { c with slots := xs }).showSlots p

/-- A write of `ENABLE` (R293): a change from 0 to 1 starts the counter at 0 under the live table; while `ENABLE` is 0 an
accepted commit applies at once. -/
def State.cytEnable (s : State) (p : Nat) (on : Bool) : State :=
  let was := s.flag F.CYT_CTRL_ENABLE p
  let s1 := s.setFlag F.CYT_CTRL_ENABLE on p
  if on && !was then s1.cytRestart p
  else if on then s1
  else match (s1.cycle p).pend with
    | some (period, xs) => s1.applyTable p period xs
    | none => s1

/-- A write to `CYT_SHIFT` (R287): ignored where |s| exceeds half the period. -/
def State.cytShift (s : State) (p v : Nat) : State :=
  let d := signedN 18 v
  let c := s.cycle p
  if (c.period : Int) < 2 * d || 2 * d < -(c.period : Int) then s else s.setCycle p { c with shift := d }

/-- PERIOD_WRAP (R287, R291, R293): the counter wraps; a pending commit applies, else every balance reloads to its budget plus
any debt. -/
def execPeriodWrap (part : Nat) (s : State) : Res :=
  if part < 32 && s.flag F.CYT_CTRL_ENABLE part then
    let c := s.cycle part
    let s1 := (s.setF F.CYT_COUNT_US 0 part).bumpW F.CYT_PERIODS_COUNT 1 part
    match c.pend with
    | some (period, xs) => done ((s1.setCycle part { c with shift := 0 }).applyTable part period xs)
    | none =>
      let xs := c.slots.map fun x => { x with bal := (x.budget.zip x.bal).map fun b => (b.1 : Int) + min b.2 0 }
      done ((s1.setCycle part { c with slots := windowsAt xs 0, shift := 0 }).showSlots part)
  else done s

/-- Replace one live slot. -/
def State.setSlot (s : State) (p i : Nat) (x : CSlot) : State :=
  let c := s.cycle p
  s.setCycle p { c with slots := c.slots.set i x }

/-- SLOT_WINDOW_START (R288): the counter reaches a slot's `START_US`; the slot is active. -/
def execSlotWindowStart (part slot : Nat) (s : State) : Res :=
  match (s.cycle part).slots[slot]? with
  | some x =>
    if part < 32 && s.flag F.CYT_CTRL_ENABLE part then
      done (((s.setSlot part slot { x with active := true, wanted := false }).setF F.CYT_COUNT_US x.start part).setFlag
        F.CYT_SLSTAT_ACTIVE true part slot)
    else done s
  | none => done s

/-- A budgeted measure of a slot has balance left. -/
def CSlot.left (x : CSlot) : Bool := (x.budget.zip x.bal).any fun b => b.1 ≠ 0 && 0 < b.2

/-- SLOT_WINDOW_END (R292): budget left with waiting work sets `SHORT`. -/
def execSlotWindowEnd (part slot : Nat) (s : State) : Res :=
  match (s.cycle part).slots[slot]? with
  | some x =>
    if part < 32 && x.active then
      let short := x.left && x.wanted
      let s1 := ((s.setSlot part slot { x with active := false, wanted := false }).setFlag
        F.CYT_SLSTAT_ACTIVE false part slot).setFlag F.CYT_SLSTAT_SHORT short part slot
      let s2 := s1.setF F.CYT_COUNT_US ((x.start + x.len) % max 1 (s.cycle part).period) part
      done (if short then s2.err .cyt part 2 else s2)
    else done s
  | none => done s

/-- Every budgeted balance of a slot is above zero. -/
def CSlot.grants (x : CSlot) : Bool := x.active && (x.budget.zip x.bal).all fun b => b.1 = 0 || 0 < b.2

/-- How a class is granted at an admission (R288): not at all, without a charge, or by a slot. -/
inductive Grant where
  | no | free | slot (i : Nat)
deriving DecidableEq, Repr

/-- The grant of class c; `others` says that work of a class with a granting slot waits. -/
def State.grant (s : State) (p c : Nat) (others : Bool) : Grant :=
  if !s.flag F.CYT_CTRL_ENABLE p then .free
  else match (s.cycle p).slots.findIdx? (fun x => x.cls = c && x.grants) with
    | some i => .slot i
    | none => if s.bit F.CYT_IDLE_MASK c p && !others then .free else .no

/-- Charge `n` sub-units of a measure to a granting slot (`unit` sub-units make one unit of the balance); an unbudgeted
measure is not charged (R286, R289). -/
def State.charge (s : State) (p i m n unit : Nat) : State :=
  match (s.cycle p).slots[i]? with
  | some x =>
    if x.budget.getD m 0 = 0 then s
    else
      let r := x.rest.getD m 0 + n
      s.setSlot p i { x with bal := x.bal.set m (x.bal.getD m 0 - (r / unit : Nat)), rest := x.rest.set m (r % unit) }
  | none => s

/-- A balance has fallen below −`OVERDRAFT` % of its budget (R290). -/
def CSlot.overdrawn (x : CSlot) : Bool :=
  (x.budget.zip x.bal).any fun b => b.1 ≠ 0 && b.2 * 100 < -((b.1 * x.overdraft : Nat) : Int)

/-! ## Regulators (R279 to R282) -/

/-- The floor register of resource 0 STACK, 1 YARD, 2 LINK. -/
def rgFloor (r : Nat) : Fld := match r with
  | 0 => F.PRT_RG_STK_FLOOR_GBPS | 1 => F.PRT_RG_YRD_FLOOR_GBPS | _ => F.PRT_RG_LNK_FLOOR_GBPS

/-- The cap register of a resource. -/
def rgCap (r : Nat) : Fld := match r with
  | 0 => F.PRT_RG_STK_CAP_GBPS | 1 => F.PRT_RG_YRD_CAP_GBPS | _ => F.PRT_RG_LNK_CAP_GBPS

/-- The most that all floors of a resource may sum to (Table 10-3). -/
def State.rgLimit (s : State) (r : Nat) : Nat :=
  match r with
  | 0 => if s.dv.gradeC then 35370 else 47160
  | 1 => 57600
  | _ => if s.dv.gradeC then 4320 else 5760

/-- Sum of the floors of a resource over all partitions. -/
def State.rgSum (s : State) (r : Nat) : Nat := (List.range 32).foldl (fun n p => n + s.getF (rgFloor r) p) 0

/-- A write to a regulator register (even: floor, odd: cap): ignored with `RG_REFUSED` where it breaks R282. -/
def State.rgWrite (s : State) (p k v : Nat) : State :=
  let r := k / 2
  let t := if k % 2 = 0 then s.setF (rgFloor r) v p else s.setF (rgCap r) v p
  if t.rgLimit r < t.rgSum r || t.getF (rgCap r) p < t.getF (rgFloor r) p then s.err .prt p 3 else t

/-- The device rate of a resource (Table 10-3). -/
def State.rgRate (s : State) (r : Nat) : Nat :=
  match r with
  | 0 => if s.dv.gradeC then 39300 else 52400
  | 1 => 64000
  | _ => if s.dv.gradeC then 4800 else 6400

/-- A `CAP` above the device rate caps nothing (R282). -/
def State.rgFree (s : State) (p r : Nat) : Bool := s.rgRate r < s.getF (rgCap r) p

/-- The buckets of a partition's regulator. -/
def State.bucket (s : State) (p r : Nat) : Bucket := smGet (fun _ => {}) s.pt.buckets (p * 3 + r)

/-- Replace them. -/
def State.setBucket (s : State) (p r : Nat) (b : Bucket) : State :=
  { s with pt := { s.pt with buckets := smSet (fun _ => {}) s.pt.buckets (p * 3 + r) b } }

/-- A refill (R279): every bucket takes its microsecond's bytes and never holds more than two. -/
def State.refill (s : State) : State :=
  ((List.range 32).flatMap fun p => (List.range 3).map fun r => (p, r)).foldl (fun t k =>
    let f := s.getF (rgFloor k.2) k.1 * 1000
    let c := s.getF (rgCap k.2) k.1 * 1000
    let b := s.bucket k.1 k.2
    t.setBucket k.1 k.2 { floor := min (2 * f) (b.floor + f), cap := min (2 * c) (b.cap + c) }) s

/-- The wait counter of a resource. -/
def rgWait (r : Nat) : Fld := match r with
  | 0 => F.PRT_RG_WAIT_STK_COUNT | 1 => F.PRT_RG_WAIT_YRD_COUNT | _ => F.PRT_RG_WAIT_LNK_COUNT

/-- How a regulator takes a request of `n` bytes (R279). -/
inductive Fare where
  | guaranteed | shared | waits
deriving DecidableEq, Repr

/-- The way a request of `n` bytes travels now. -/
def State.fare (s : State) (p r n : Nat) : Fare :=
  if n ≤ (s.bucket p r).floor then .guaranteed
  else if s.rgFree p r || n ≤ (s.bucket p r).cap then .shared
  else .waits

/-- Take a request's bytes from the buckets: from both, or from the cap bucket alone. -/
def State.takeFare (s : State) (p r n : Nat) : State :=
  let b := s.bucket p r
  s.setBucket p r { floor := if n ≤ b.floor then b.floor - n else b.floor, cap := b.cap - n }

end Sys2Proof.Machine
end

