-- ==== Sys2Proof/Machine/Access.lean ====
section
/-! DEFINITION. Memory as commands reach it: the address map, the region table, the block table, who may touch what and with
which status, ordinary reads and writes through the checkers, host rights and how a command's status is recorded
(chapters 0, 3, 9, 14, 18). -/

namespace Sys2Proof.Machine

/-! ## The address map (R7 to R10, R519) -/

/-- Size of one stack. -/
def stackBytes : Nat := 96 * 2 ^ 30

/-- Where a local address lies. -/
inductive Area where
  | stack (st : Nat)
  | bed (brick : Nat)
  | yard (block : Nat)
  | staging
  | regs
  | unmapped
deriving DecidableEq, Repr

/-- First address of the Bed windows. -/
def bedBase : Nat := 0x80000000000

/-- First address of the Yard direct window. -/
def yardBase : Nat := 0xA0000000000

/-- First address of the register space. -/
def regBase : Nat := 0xF0000000000

/-- The physical brick that serves a logical brick; none where the logical brick is absent. -/
def State.physOf (s : State) (l : Nat) : Option Nat :=
  if s.bm.gone.contains l || (if s.dv.gradeC then 7680 else 10240) ≤ l then none
  else some (smGet (fun l => l / 1280 * 1344 + l % 1280) s.bm.phys l)

/-- The logical brick that a physical brick serves. -/
def State.logicalOf (s : State) (n : Nat) : Option Nat :=
  let l0 := n / 1344 * 1280 + n % 1344
  if n % 1344 < 1280 && s.physOf l0 = some n then some l0
  else ((List.range 1280).map fun k => n / 1344 * 1280 + k).find? fun l => s.physOf l == some n

/-! ## The region table (Table 3-12, R87, R91) -/

/-- An entry as stored. -/
def State.regionRaw (s : State) (g : Nat) : Nat := smGet (fun _ => 0x2000000000000000) s.bk.regions g

/-- An entry as read: `SPREAD` is that of the stripe set's entry in stack S0. -/
def State.region (s : State) (g : Nat) : Nat := nsetBit (s.regionRaw g) 59 (nbit (s.regionRaw (g % 1536)) 59)

/-- Granule of a stack-memory address. -/
def granule (a : Nat) : Nat := a / 2 ^ 26

/-- Stacks in the device: 16 on the KR1696-A, 12 on the KR1696-C. -/
def State.stackCount (s : State) : Nat := if s.dv.gradeC then 12 else 16

/-- Stack that holds an address: the LOCAL stack, or the rotated one of a SPREAD granule (R58, R59). -/
def State.heldBy (s : State) (a : Nat) : Nat :=
  if nbit (s.region (granule a)) 59 then (a / stackBytes + a % stackBytes / 4096) % s.stackCount else a / stackBytes

/-- Address of the byte at offset `o` of a stack: the inverse of `heldBy` (R59). -/
def State.addrIn (s : State) (st o : Nat) : Nat :=
  let n := s.stackCount
  (if nbit (s.region (granule o)) 59 then (st + (n - o / 4096 % n)) % n else st) * stackBytes + o

/-! ## Areas -/

/-- The area of a local address; absent stacks and the windows of spare and retired bricks are unmapped. -/
def State.area (s : State) (a : Nat) : Area :=
  if a < 16 * stackBytes then
    if s.present .stk (a / stackBytes) then .stack (s.heldBy a) else .unmapped
  else if bedBase ≤ a && a < bedBase + 10752 * 2 ^ 20 then
    let n := (a - bedBase) / 2 ^ 20
    if (a - bedBase) % 2 ^ 20 < 2 ^ 19 && s.present .brk n && (s.logicalOf n).isSome then .bed n else .unmapped
  else if yardBase ≤ a && a < yardBase + 24576 * 2 ^ 16 then .yard ((a - yardBase) / 2 ^ 16)
  else if 0xE0000000000 ≤ a && a < 0xE1000000000 then .staging
  else if regBase ≤ a && a < regBase + 2 ^ 28 then .regs
  else .unmapped

/-- Local address of a byte of a brick's Bed. -/
def bedAddr (brick off : Nat) : Nat := bedBase + brick * 2 ^ 20 + off

/-! ## Granules -/

/-- Is the granule Open? -/
def State.isOpen (s : State) (g : Nat) : Bool := s.region g / 2 ^ 62 == 1

/-- Is the granule mutable? -/
def State.isMutable (s : State) (g : Nat) : Bool := nbit (s.region g) 61

/-- The owner of a granule. -/
def State.granuleOwner (s : State) (g : Nat) : Option Nat :=
  if nbit (s.region g) 58 then some (nbits (s.region g) 57 53) else none

/-- A stack serves accesses: ready or quiesced (R96). -/
def State.stackServes (s : State) (st : Nat) : Bool := s.unit .stk st == 3 || s.unit .stk st == 4

/-- A stack takes new passes, latch loads and groups (R96). -/
def State.stackComputes (s : State) (st : Nat) : Bool := s.unit .stk st == 3 && !s.quiesced .stk st

/-! ## The block table (R248, R249) -/

/-- Kind of a Yard block: 0 CACHE, 1 LAND, 2 WORK. -/
def State.blockKind (s : State) (b : Nat) : Nat := s.getF F.YRD_BENTRY_KIND 0 b

/-- Owner of a Yard block. -/
def State.blockOwner (s : State) (b : Nat) : Option Nat :=
  if s.flag F.YRD_BENTRY_OWNED 0 b then some (s.getF F.YRD_BENTRY_OWNER 0 b) else none

/-- Kind and owner of a block as an access finds them: a block whose entry has been written and not yet converted shows the new
entry, and no owner until the block has been zeroed for it (R250). -/
def State.blockSeen (s : State) (b : Nat) : Nat × Option Nat :=
  match s.yd.converting.find? fun c => c.block = b with
  | none => (s.blockKind b, s.blockOwner b)
  | some c =>
    let owner := if nbit c.entry 5 then some (c.entry % 32) else none
    (c.entry / 64, if s.blockKind b = 0 || s.blockOwner b ≠ owner then none else owner)

/-! ## Host rights (R335, Table 18-9) -/

/-- The rights of a partition entry, in register order. -/
inductive Right where
  | memR | memW | reg | db
deriving DecidableEq, Repr

/-- A right's place in its partition's entry. -/
def Right.idx : Right → Nat
  | .memR => 0 | .memW => 1 | .reg => 2 | .db => 3

/-- Does an agent hold a right for a partition? -/
def State.hasRight (s : State) (agent p : Nat) (r : Right) : Bool :=
  s.bit (F.KST_GRANT_MASK.nth (p * 8 + r.idx * 2 + agent / 32)) (agent % 32)

/-- Does an agent hold the device right? -/
def State.deviceRight (s : State) (agent : Nat) : Bool :=
  if agent < 32 then s.bit F.KST_DEVRIGHT_LO_MASK agent else s.bit F.KST_DEVRIGHT_HI_MASK (agent % 32)

/-! ## Who may touch what -/

/-- On whose behalf memory is accessed. `load` is the Footing load path of a partition, which alone writes immutable
granules (R88); `agent` is a host agent under a partition's rights. -/
inductive Who where
  | part (p : Nat)
  | agent (a p : Nat)
  | firmware
  | load (p : Nat)
deriving DecidableEq, Repr

/-- The partition an accessor acts for. -/
def Who.partition : Who → Option Nat
  | .part p => some p | .agent _ p => some p | .firmware => none | .load p => some p

/-- Is the block one of channel 0's rings or the exchange area (R249, R342, R458)? -/
def State.channel0Block (s : State) (b : Nat) : Bool :=
  let lo := yardBase + b * 2 ^ 16
  let hits (base n : Nat) : Bool := base != 0 && base < lo + 2 ^ 16 && lo < base + n
  hits (s.f2hBase 0) (128 + 64 * 2 ^ s.getF F.LNT_F2H_SIZE_LOG2 0) ||
    hits (s.h2fBase 0) (128 + 64 * 2 ^ s.getF F.LNT_H2F_SIZE_LOG2 0) || hits s.ks.exchBase (2 ^ 15)

/-- Is a logical brick a partition's: in its pool, or leaving it and not yet gone (R276)? -/
def State.holdsBrick (s : State) (p l : Nat) : Bool := s.inPool p l || s.pt.leavingBricks.any fun e => e.1 = l && e.2 = p

/-- Status of an access that touches one place (R10, R88, R93, R96, R249, R256). -/
def State.placeStatus (s : State) (w : Who) (write : Bool) (a : Nat) : Nat :=
  match s.area a with
  | .unmapped => St.addressUnmapped
  | .staging => St.addressUnmapped
  | .regs => St.addressUnmapped
  | .stack st =>
    let g := granule a
    if w.partition.isSome && s.granuleOwner g != w.partition then St.regionNotOwned
    else if !s.stackServes st then St.stackUnavailable
    else match w with
      | .load _ => St.ok
      | _ => if write && !s.isMutable g then 0x0305 else St.ok
  | .bed n =>
    match w.partition, s.logicalOf n with
    | some p, some l => if s.holdsBrick p l then St.ok else St.regionNotOwned
    | _, _ => St.ok
  | .yard b =>
    match w, (s.blockSeen b).1 with
    | .firmware, _ => if s.blockKind b = 0 then St.addressUnmapped else St.ok
    | _, 0 => St.addressUnmapped
    | .agent x _, 2 => if s.deviceRight x && s.channel0Block b then St.ok else St.addressUnmapped
    | _, 2 => St.addressUnmapped
    | _, _ => if (s.blockSeen b).2 = w.partition && w.partition.isSome then St.ok else St.regionNotOwned

/-- Addresses that stand for every place `[a, a + n)` touches: of stack memory, the first 4 KiB blocks of each granule, as many as
there are stacks, since a SPREAD granule lies in all of them in turn (R59); Bed-window halves; Yard blocks. -/
def placesOf (a n : Nat) : List Nat :=
  if n = 0 then []
  else
    let starts (u a n : Nat) : List Nat := a :: (List.range ((a + n - 1) / u - a / u)).map fun k => (a / u + k + 1) * u
    if a < 16 * stackBytes then
      (starts (2 ^ 26) a n).flatMap fun x =>
        let fin := min (a + n) ((x / 2 ^ 26 + 1) * 2 ^ 26)
        (starts 4096 x (min (fin - x) (2 ^ 16)))
    else starts (if a < yardBase then 2 ^ 19 else 2 ^ 16) a n

/-- The first status that stops an access to local `[a, a + n)`, or 0. -/
def State.rangeStatus (s : State) (w : Who) (write : Bool) (a n : Nat) : Nat :=
  (((placesOf a n).map (s.placeStatus w write)).find? (· ≠ 0)).getD St.ok

/-! ## What admitted work sampled (R67, R92, R250) -/

/-- The state as the checks of a piece of work see it: the region table and the block table as its command sampled them. -/
def State.sampled (s : State) (o : Own) : State :=
  let under (x : Seen) : State := { s with bk := { s.bk with regions := x.regions }, yd := { s.yd with converting := x.conv } }
  match o with
  | .none => s
  | .cmd id => match s.qu.cmds.find? fun c => c.id = id with
    | some c => if c.phase = 0 then s else under c.seen
    | none => s
  | .step num _ => match s.sv.steps.find? fun x => x.num = num with
    | some x => under x.seen
    | none => s

/-- What is sampled now. -/
def State.sample (s : State) : Seen := { regions := s.bk.regions, conv := s.yd.converting }

/-! ## Statuses of work -/

/-- The sequences' codes that an owner's code stands for: a work item's are those it serves, 32,768 + its place. -/
def StepRun.codes (x : StepRun) (q : Nat) : List Nat :=
  if 32768 ≤ q then ((x.items[q - 32768]?).map fun i => i.seqs).getD [] else [q]

/-- Does a code name a sequence's draft work, which a failure leaves out and no more (R208)? -/
def SWork.isDraft (w : SWork) (q : Nat) : Bool := q = 8192 + w.seq || q = 16387

/-- Does a code name a sequence's own work? -/
def SWork.isOwn (w : SWork) (q : Nat) : Bool :=
  w.seq = q || (q = 16385 && !w.turn && w.draftOnly = 0) || (q = 16386 && w.turn)

/-- A step's work of a code takes a status: the first one stands, over the hazard status. -/
def StepRun.fail (x : StepRun) (status q : Nat) : StepRun :=
  let first (old : Nat) : Nat := if old = 0 || old = 0x0A01 then status else old
  if q = 16384 then { x with status := first x.status }
  else { x with works := x.works.map fun w =>
    if w.isDraft q then { w with skipped := w.skipped || w.stage || w.carry || w.draftOnly ≠ 0 }
    else if w.isOwn q && !w.left then { w with status := first w.status } else w }

/-- Change one admitted step. -/
def State.onStep (s : State) (num : Nat) (f : StepRun → StepRun) : State :=
  { s with sv := { s.sv with steps := s.sv.steps.map fun x => if x.num = num then f x else x } }

/-- A pass, a group or a store reports a status to the work that owns it: the first one stands. -/
def State.workFail (s : State) (o : Own) (status : Nat) : State :=
  match o with
  | .none => s
  | .cmd id => { s with qu := { s.qu with cmds := s.qu.cmds.map fun c =>
      if c.id = id && c.status = 0 then { c with status := status } else c } }
  | .step num q => s.onStep num fun x => (x.codes q).foldl (fun y c => y.fail status c) x

/-- Priority of an activity class (Table 10-4). -/
def classPriority (c : Nat) : Nat := [1, 2, 3, 0, 4, 5].getD c 6

/-- Does a slot still have a balance above zero in every budgeted measure? -/
def State.solvent (s : State) (p i : Nat) : Bool := match (s.cycle p).slots[i]? with
  | some x => (x.budget.zip x.bal).all fun b => b.1 = 0 || 0 < b.2
  | none => false

/-- Work of a recovery, which the cycle table never stops (R508). -/
def State.recoveryWork (s : State) (o : Own) : Bool := match o with
  | .step num _ => s.sv.steps.any fun x => x.num = num && x.kind = 2
  | _ => false

/-- The classes and granting slots that a piece of work is charged to, each class once, by priority (R285, R289); a
recovery's only while the slot has a balance above zero (R508). -/
def State.chargedTo (s : State) (o : Own) : Nat × List (Nat × Option Nat) :=
  match o with
  | .none => (0, [])
  | .cmd id => match s.qu.cmds.find? fun c => c.id = id with
    | some c => (c.part, [(5, c.slot)])
    | none => (0, [])
  | .step num q => match s.sv.steps.find? fun x => x.num = num with
    | none => (0, [])
    | some x =>
      if x.kind = 1 then (x.part, [(4, x.slot)])
      else
        let ws := x.works.filter fun w => !w.left
          && (x.codes q).any fun c => w.isOwn c || c = 8192 + w.seq || (c = 16387 && w.stage)
        let slot (w : SWork) : Option Nat := if x.kind = 2 then w.slot.filter (s.solvent x.part) else w.slot
        let cs := (ws.map fun w => (w.cls, slot w)).foldl (fun m e => if m.any (fun f => f.1 = e.1) then m else m ++ [e]) []
        (x.part, cs.mergeSort fun a b => classPriority a.1 ≤ classPriority b.1)

/-- The parts of `n` that several classes are charged: equal, the remainder to the class of highest priority. -/
def shares (n k : Nat) : List Nat := (List.range k).map fun i => if i = 0 then n / k + n % k else n / k

/-- Charge a piece of work (R289): measure m, n sub-units of which `unit` make a unit of the balance. -/
def State.chargeOwn (s : State) (o : Own) (m n unit : Nat) : State :=
  let r := s.chargedTo o
  ((r.2.zip (shares n r.2.length)).foldl (fun t e => match e.1.2 with
    | some i => t.charge r.1 i m e.2 unit
    | none => t) s)

/-- Would charging leave a granting slot of the work overdrawn (R290)? -/
def State.wouldOverdraw (s : State) (o : Own) (m n unit : Nat) : Bool :=
  let r := s.chargedTo o
  let t := s.chargeOwn o m n unit
  !s.recoveryWork o && r.2.any fun e => match e.2 with
    | some i => match (t.cycle r.1).slots[i]? with
      | some x => x.overdrawn
      | none => false
    | none => false

/-! ## Bricks being cleared (R131, R256) -/

/-- A physical brick. -/
def State.brick (s : State) (n : Nat) : Brick := smGet (fun _ => {}) s.br n

/-- Replace a brick. -/
def State.setBrick (s : State) (n : Nat) (b : Brick) : State := { s with br := smSet (fun _ => {}) s.br n b }

/-- Everything the clearing zeroes: the Bed, the arrays, the memories and the set (R131, R152). -/
def State.clearBrick (s : State) (n : Nat) : State :=
  let t := (s.fillZero (bedAddr n 0) (2 ^ 19)).setBrick n { clk := (s.brick n).clk }
  { t with yd := { t.yd with resident := t.yd.resident.filter fun x => x.brick ≠ n } }

/-- The clearing of a brick that is being cleared ends. -/
def State.settleBrick (s : State) (n : Nat) : State :=
  if s.pt.clearing.contains n then
    let t := s.clearBrick n
    { t with pt := { t.pt with clearing := t.pt.clearing.filter (· ≠ n) } }
  else s

/-- An access to the Bed of a brick that is being cleared is held until the clearing ends (R256). -/
def State.settle (s : State) (a : Nat) : State :=
  match s.area a with
  | .bed n => s.settleBrick n
  | _ => s

/-- A command of partition `p` that moves data goes on once the clearing of its partition's bricks has ended (R256). -/
def State.settlePool (s : State) (p : Nat) : State :=
  s.pt.clearing.foldl (fun t n => match t.logicalOf n with
    | some l => if t.holdsBrick p l then t.settleBrick n else t
    | none => t) s

end Sys2Proof.Machine
end

