-- ==== Sys2Proof/Machine/CmdBase.lean ====
section
/-! DEFINITION. What the parts share of commands: their fields, their records and completion (R305 to R307), the requests they
wait for, the regulators they pay (R279 to R282), and how a host request is answered (R331, R336). -/

namespace Sys2Proof.Machine

/-! ## Commands and their records (R305 to R307) -/

/-- Header fields of a command (Table 11-2). -/
def Cmd.hdr (c : Cmd) (hi lo : Nat) : Nat := nbits (c.words.getD 0 0) hi lo

/-- `OPCODE`. -/
def Cmd.op (c : Cmd) : Nat := c.hdr 63 56

/-- Word k of a command. -/
def Cmd.word (c : Cmd) (k : Nat) : Nat := c.words.getD k 0

/-- The command of a number. -/
def State.cmdOf (s : State) (id : Nat) : Option Cmd := s.qu.cmds.find? fun c => c.id = id

/-- Change one command. -/
def State.onCmd (s : State) (id : Nat) (f : Cmd → Cmd) : State :=
  { s with qu := { s.qu with cmds := s.qu.cmds.map fun c => if c.id = id then f c else c } }

/-- The record of a completed command. -/
def Cmd.record (c : Cmd) : Rec :=
  { part := c.part, ring := if c.hdr 50 50 = 1 then 7 else c.queue, origin := c.queue, tag := c.hdr 47 32, opcode := c.op
    flags := 0, status := c.status
    result := if c.op = 4 || c.op = 5 then c.result - c.lost else c.result, irq := c.hdr 52 52 = 1
    quiet := c.status = 0 && (c.hdr 51 51 = 1 || c.replay.isSome)
    -- a command that is discarded was never admitted, and parks nothing (R323; DEDUCED, log 74)
    parks := c.status ≠ 0 && c.status ≠ 0x0108 && c.hdr 55 55 = 1 && c.replay.isNone, cmd := some c.id }

/-- A failing recorded command tells its REPLAY, which admits nothing more where `STOP_ON_ERR` is set (R319). -/
def State.tellReplay (s : State) (c : Cmd) (status : Nat) : State :=
  match c.replay with
  | none => s
  | some r =>
    if status = 0 then s
    else
      let stop := c.hdr 55 55 = 1
      let t := s.onCmd r fun d => { d with
        index := min d.index c.place
        status := if stop && d.status = 0 then status else d.status }
      if stop then
        { t with qu := { t.qu with cmds := t.qu.cmds.filter fun d => !(d.replay = some r && d.phase = 0 && c.place < d.place) } }
      else t

/-- A command that has done everything joins the records to write. -/
def State.complete (s : State) (id : Nat) : State :=
  match s.cmdOf id with
  | some c => ({ s with qu := { s.qu with recs := s.qu.recs ++ [c.record] } } : State).tellReplay c c.status
  | none => s

/-- One more request of a piece of work to another device is outstanding. -/
def State.oweAck (s : State) (o : Own) (n : Nat) : State :=
  match o with
  | .none => s
  | .cmd id => s.onCmd id fun c => { c with acks := c.acks + n }
  | .step num _ => { s with sv := { s.sv with steps := s.sv.steps.map fun x =>
      if x.num = num then { x with acks := x.acks + n } else x } }

/-- One of them is answered. -/
def State.takeAck (s : State) (o : Own) : State :=
  match o with
  | .none => s
  | .cmd id =>
    let t := s.onCmd id fun c => { c with acks := c.acks - 1 }
    match t.cmdOf id with
    | some c => if c.phase = 2 && c.acks = 0 then t.complete id else t
    | none => t
  | .step num _ => { s with sv := { s.sv with steps := s.sv.steps.map fun x =>
      if x.num = num then { x with acks := x.acks - 1 } else x } }

/-- Bytes of a command's write that were not transferred: its `RESULT` leaves them out (Table 11-7). -/
def State.loseBytes (s : State) (o : Own) (n : Nat) : State :=
  match o with
  | .cmd id => s.onCmd id fun c => { c with lost := c.lost + n }
  | _ => s

/-- The bytes that a command asked for have come. -/
def State.remoteBytes (s : State) (id addr : Nat) (data : List Byte) : State :=
  { s with qu := { s.qu with cmds := s.qu.cmds.map fun c =>
      if c.id = id then { c with remote := (data.zipIdx).foldl (fun r b => smPut r (addr + b.2) b.1) c.remote } else c } }

/-! ## Regulators and the cycle table: what moving bytes costs (R279, R285, R289) -/

/-- Take `n` bytes from the buckets of a partition's regulator as far as they go, in requests of 64 bytes: guaranteed ones from both
buckets, then shared ones from the cap bucket alone. The bytes not covered are left over. -/
def State.pay (s : State) (p r n : Nat) : Nat × State :=
  let b := s.bucket p r
  let whole (m k : Nat) : Nat := if m ≤ k then m else k / 64 * 64
  let g := whole n b.floor
  let h := if s.rgFree p r then n - g else whole (n - g) (b.cap - g)
  (n - g - h, s.setBucket p r { floor := b.floor - g, cap := b.cap - g - h })

/-- A piece of work moves `n` bytes of a resource: what the regulator does not cover it owes, counted by requests, and it waits
for a refill to cover them before it ends. -/
def State.moved (s : State) (o : Own) (p r n : Nat) : State :=
  let x := s.pay p r n
  if x.1 = 0 then x.2
  else
    let t := x.2.bump (rgWait r) ((x.1 + 63) / 64) p
    ({ t with pt := { t.pt with owed := t.pt.owed ++ [⟨p, r, x.1, o⟩] } } : State).oweAck o 1

/-- A refill covers what is owed, first come first; work that owes nothing more goes on. -/
def State.payOwed (s : State) : State :=
  s.pt.owed.foldl (fun t e =>
    let x := t.pay e.part e.res e.bytes
    if x.1 = 0 then x.2.takeAck e.own
    else { x.2 with pt := { x.2.pt with owed := x.2.pt.owed ++ [{ e with bytes := x.1 }] } })
    ({ s with pt := { s.pt with owed := [] } } : State)

/-! ## Requests of the host -/

/-- `LNT_PWSTAT` of a failing posted write, unless a capture stands (R336). -/
def State.pwStat (s : State) (status agent part : Nat) : State :=
  if s.flag (hdrF .lnt 0x24 31 31) then s
  else ((s.setF F.LNT_PWSTAT_PART part).setF F.LNT_PWSTAT_AGENT agent).setF F.LNT_PWSTAT_STATUS status

/-- A posted write has failed (R336): its address is captured, and `LNT_PWSTAT` with it. -/
def State.postedFail (s : State) (status agent part addr : Nat) : State :=
  (s.pwStat status agent part).err .lnt 0 0 (some addr)

/-- A doorbell transaction has failed: it carries no address, so the cause stands alone (R45). -/
def State.postedRefused (s : State) (status agent part : Nat) : State := (s.pwStat status agent part).err .lnt 0 0

/-- Credits that a host request of `n` data bytes holds are returned (R332). -/
def State.freeHost (s : State) (l kind n : Nat) : State :=
  let x := s.hlink l
  let units := if kind = 1 then 0 else (n + 63) / 64
  s.setHlink l { x with
    rq := if kind = 2 then x.rq else min 512 (x.rq + 1)
    pw := if kind = 2 then min 512 (x.pw + 1) else x.pw
    data := min 2048 (x.data + units) }

/-- A host request is answered: 1 `MRD`, 2 `MWR`, 3 `MWRC` (R331, R336). Of one whose link has gone down since (`l` 2 or 3), only the
capture of a failed posted write is left. -/
def State.hostAnswer (s : State) (l kind tid agent part addr len status : Nat) (data : List Byte) : State :=
  let t := if l < 2 then s.freeHost l kind len else s
  if kind = 2 then (if status = 0 then t else t.postedFail status agent part addr)
  else if l < 2 && (t.hlink l).tids.contains tid then
    let t := t.setHlink l { t.hlink l with tids := (t.hlink l).tids.filter (· ≠ tid) }
    if kind = 1 then t.toHost l (.cpld l tid status (if status = 0 then data else List.replicate len 0))
    else t.toHost l (.cpl l tid status)
  else t

end Sys2Proof.Machine
end

