-- ==== Sys2Proof/Machine/Kiln.lean ====
section
/-! DEFINITION. Kiln: sensors, regions, thresholds, brick clocks, requests, enforcement, clamps and the energy profile
(chapter 20). Temperatures are in units of 0.25 °C, powers in W, clocks in MHz, times in ns. -/

namespace Sys2Proof.Machine

/-- Region bit of the power region (R492). -/
def powerRegion : Nat := 28

/-- The sensors of a region (Table 20-1). -/
def regionSensors (r : Nat) : List Nat :=
  if r < 8 then (List.range 256).map (256 * r + ·)
  else if r < 24 then (List.range 4).map (2048 + 4 * (r - 8) + ·)
  else if r < 28 then (List.range 4).map (2112 + 4 * (r - 24) + ·)
  else []

/-- The region of a sensor. -/
def sensorRegion (n : Nat) : Nat := if n < 2048 then n / 256 else if n < 2112 then 8 + (n - 2048) / 4 else 24 + (n - 2112) / 4

/-- The neighbours of a sensor (Table 20-1). -/
def sensorNeighbours (n : Nat) : List Nat :=
  if n < 2048 then
    let x := n % 16
    let y := n / 16 % 16
    (if 0 < x then [n - 1] else []) ++ (if x < 15 then [n + 1] else []) ++
      (if 0 < y then [n - 16] else []) ++ (if y < 15 then [n + 16] else [])
  else ((List.range 4).map (n / 4 * 4 + ·)).filter (· ≠ n)

/-- A region's near threshold (Table 20-2). -/
def nearAt (r : Nat) : Int := if 8 ≤ r && r < 24 then 88 * 4 else 95 * 4

/-- A region's clamp temperature. -/
def clampAt (r : Nat) : Int := if 8 ≤ r && r < 24 then 97 * 4 else 105 * 4

/-- A region's trip temperature. -/
def tripAt (r : Nat) : Int := if 8 ≤ r && r < 24 then 102 * 4 else 110 * 4

/-- The stack level a reading has reached (Table 20-2). -/
def levelFor (t : Int) : Nat := if 94 * 4 ≤ t then 3 else if 91 * 4 ≤ t then 2 else if 88 * 4 ≤ t then 1 else 0

/-- A level's threshold. -/
def levelAt (l : Nat) : Int := if 3 ≤ l then 94 * 4 else if l = 2 then 91 * 4 else 88 * 4

/-- The Course dies of a region: itself, or those above a quadrant; every die for the power region. -/
def regionDies (r : Nat) : List Nat :=
  if r < 8 then [r] else if r < 24 then [] else if r < 28 then [2 * (r - 24), 2 * (r - 24) + 1] else List.range 8

/-- The stacks of a region: itself, or a quadrant's four. -/
def regionStacks (r : Nat) : List Nat :=
  if r < 8 then [] else if r < 24 then [r - 8] else if r < 28 then (List.range 4).map (4 * (r - 24) + ·) else []

/-- A region that the grade has (R486: sensors of absent units belong to no region). -/
def State.regionPresent (s : State) (r : Nat) : Bool :=
  r < 28 && !(s.dv.gradeC && (r == 6 || r == 7 || (20 ≤ r && r < 24)))

/-- Is a sensor flagged in `KLN_SENSFAULT`? -/
def State.sensorFlagged (s : State) (n : Nat) : Bool := s.bit (F.KLN_SENSFAULT_FLAG.nth (n / 32)) (n % 32)

/-- A sensor's state. -/
def State.sensor (s : State) (n : Nat) : Sensor := smGet (fun _ => {}) s.kl.sensors n

/-- A sensor whose reading counts: present and not flagged. -/
def State.sensorValid (s : State) (n : Nat) : Bool :=
  (s.sensor n).present && !s.sensorFlagged n && s.regionPresent (sensorRegion n)

/-- The readings of a list of sensors that are valid. -/
def State.validTemps (s : State) (ns : List Nat) : List Int :=
  (ns.filter s.sensorValid).map fun n => (s.sensor n).temp

/-- The greatest of a list of readings. -/
def hottest : List Int → Option Int
  | [] => none
  | t :: ts => match hottest ts with
    | none => some t
    | some u => some (max t u)

/-- The reading a region acts on: its hottest valid sensor (R487). -/
def State.regionReading (s : State) (r : Nat) : Option Int := hottest (s.validTemps (regionSensors r))

/-- Is a region's reading at or above `t`? -/
def State.readingAtLeast (s : State) (r : Nat) (t : Int) : Bool :=
  match s.regionReading r with | some u => t ≤ u | none => false

/-- Is a region's reading at or below `t`? A region without a valid sensor is not. -/
def State.readingAtMost (s : State) (r : Nat) (t : Int) : Bool :=
  match s.regionReading r with | some u => u ≤ t | none => false

/-- How many sensors of a region are flagged. -/
def State.flaggedIn (s : State) (r : Nat) : Nat := ((regionSensors r).filter s.sensorFlagged).length

/-- More than a quarter of a region's sensors flagged (R498). -/
def State.shouldDerate (s : State) (r : Nat) : Bool := if r < 8 then 65 ≤ s.flaggedIn r else 2 ≤ s.flaggedIn r

/-- Every sensor of a region flagged (R498). -/
def State.allFlagged (s : State) (r : Nat) : Bool := s.flaggedIn r == (regionSensors r).length

/-- Is a clamp acting on a die: its own, its quadrant's or the power clamp? -/
def State.dieClamped (s : State) (d : Nat) : Bool :=
  s.bit F.KLN_CLAMP_ACTIVE d || s.bit F.KLN_CLAMP_ACTIVE (24 + d / 2) || s.bit F.KLN_CLAMP_ACTIVE powerRegion

/-- Is a clamp acting on a stack: its own or its quadrant's? Then no compute activate is issued (R493). -/
def State.stackClamped (s : State) (st : Nat) : Bool :=
  s.bit F.KLN_CLAMP_ACTIVE (8 + st) || s.bit F.KLN_CLAMP_ACTIVE (24 + st / 4)

/-- A stack's Kiln level: its entry of `KLN_STK_LEVEL`, with the floor of 2 of a derated stack or quadrant (R498). -/
def State.kilnLevel (s : State) (st : Nat) : Nat :=
  let l := nbits (s.getF F.KLN_STK_LEVEL_LEVEL) (2 * st + 1) (2 * st)
  if s.bit F.KLN_DERATED_REGION (8 + st) || s.bit F.KLN_DERATED_REGION (24 + st / 4) then max l 2 else l

/-- Note whether a condition of a region holds, and since when: 0 a stack reads 3 °C below its level's threshold (R491), 1 a stack reads
83 °C or less (R73), 2 it reads 3 °C below near, 3 it reads 5 °C below the clamp, 4 it reads at the trip temperature (R489, R493, R494), the
power conditions of R492 and R493 as 2 and 3 of the power region. -/
def State.note (s : State) (r k : Nat) (holds : Bool) : State :=
  let old := smGet (fun _ => 0) s.kl.since (8 * r + k)
  { s with kl := { s.kl with since := smSet (fun _ => 0) s.kl.since (8 * r + k) (if !holds then 0 else if old = 0 then s.now + 1 else old) } }

/-- Start the time of a condition anew; conditions 5 and 6 are the last step down and up of what a region (32 + d: the ramp of die d) slows. -/
def State.setSince (s : State) (r k : Nat) (holds : Bool) : State :=
  { s with kl := { s.kl with since := smSet (fun _ => 0) s.kl.since (8 * r + k) (if holds then s.now + 1 else 0) } }

/-- How long a condition has held, if it holds. -/
def State.held (s : State) (r k : Nat) : Option Nat := match smGet (fun _ => 0) s.kl.since (8 * r + k) with
  | 0 => none
  | n => some (s.now + 1 - n)

/-- Has a condition held for `ns`? -/
def State.heldFor (s : State) (r k ns : Nat) : Bool := match s.held r k with
  | some n => ns ≤ n
  | none => false

/-- Replace a stack's entry of `KLN_STK_LEVEL`. -/
def State.setKilnLevel (s : State) (st l : Nat) : State :=
  s.setF F.KLN_STK_LEVEL_LEVEL (putField (s.getF F.KLN_STK_LEVEL_LEVEL) (2 * st + 1) (2 * st) l)

/-- The ceilings on a die's brick clock with their `LIMITER` codes (Table 20-3); a clock still rising after a clamp release
is limited by its ramp, shown as the clamp. -/
def State.ceilings (s : State) (d : Nat) : List (Nat × Nat) :=
  [(1, s.getF (F.KLN_CLK_CEIL_MHZ.nth d))]
  ++ (if s.bit F.KLN_DERATED_REGION d || s.bit F.KLN_DERATED_REGION (24 + d / 2) then [(2, 1400)] else [])
  ++ [(3, s.getF F.KLN_POWER_CEIL_MHZ), (4, s.getF F.KLN_EP_CEIL_MHZ)]
  ++ (if s.dieClamped d then [(5, 1000)] else match smGet (fun _ => 0) s.kl.ramp d with
      | 0 => []
      | m => [(5, m)])

/-- The lowest of a list of ceilings, the first named on a tie, from 2,000 MHz with limiter 0. -/
def lowestCeiling : List (Nat × Nat) → Nat × Nat
  | [] => (0, 2000)
  | (c, m) :: cs => let r := lowestCeiling cs; if m < 2000 && m ≤ r.2 then (c, m) else r

/-- Set the frequency in force and the limiter of one die (R488). -/
def State.setClock (s : State) (d : Nat) : State :=
  let c := lowestCeiling (s.ceilings d)
  (s.setF (F.KLN_CLK_CUR_MHZ.nth d) (c.2 / 50 * 50)).setF (F.KLN_CLK_LIMITER.nth d) c.1

/-- Set the frequency of every die: simultaneous changes take effect as one (R34, R495). -/
def State.setClocks (s : State) : State := (List.range 8).foldl State.setClock s

/-- A near region's grace, ns (R489). -/
def graceNs : Nat := 50000000

/-- What is left of a region's grace, ms. -/
def State.graceLeft (s : State) (r : Nat) : Nat := match s.kl.grace.find? fun e => e.1 = r with
  | some e => (e.2 + graceNs - s.now + 999999) / 1000000
  | none => 0

/-- `KLN_GRACE`: the shortest grace still running, ms; 0 where none runs. -/
def State.graceShown (s : State) : Nat := ((s.kl.grace.map fun e => s.graceLeft e.1).min?).getD 0

/-- A region becomes near (R489). -/
def State.nearOnset (s : State) (r : Nat) : State :=
  let s1 := ((s.setBit F.KLN_NEAR_REGION r true).raise 291).err .kln 0 0
  { s1 with kl := { s1.kl with grace := s1.kl.grace ++ [(r, s1.now)], asked := s1.kl.asked ++ [r] } }

/-- Lower a die's enforcement ceiling, not below 1.00 GHz. -/
def State.lowerCeil (s : State) (mhz d : Nat) : State :=
  let c := s.getF (F.KLN_CLK_CEIL_MHZ.nth d)
  if c ≤ 1000 then s else s.setF (F.KLN_CLK_CEIL_MHZ.nth d) (max 1000 (c - mhz))

/-- Raise a stack's level to the one its own or its enforced region's reading has reached. -/
def State.raiseLevel (s : State) (t : Int) (st : Nat) : State :=
  let cur := nbits (s.getF F.KLN_STK_LEVEL_LEVEL) (2 * st + 1) (2 * st)
  if cur < levelFor t then s.setKilnLevel st (levelFor t) else s

/-- Enforcement of a thermal region (R491), or of the power region (R492). -/
def State.enforce (s : State) (r : Nat) : State :=
  let s0 : State := { s with kl := { s.kl with grace := s.kl.grace.filter (fun e => e.1 ≠ r), spared := s.kl.spared.filter (· ≠ r) } }
  let s1 := (s0.setBit F.KLN_ENF_REGION r true).setSince r 5 true
  if r = powerRegion then s1.err .kln 0 5
  else
    let s2 := (regionDies r).foldl (fun t d => t.lowerCeil 200 d) s1
    let s3 := (regionStacks r).foldl (fun t st => match t.regionReading r with
      | some u => t.raiseLevel u st
      | none => t) s2
    (s3.err .kln 0 1).setClocks

/-- A clamp starts to act (R493). -/
def State.clampOn (s : State) (r : Nat) : State :=
  if s.bit F.KLN_CLAMP_ACTIVE r then s
  else
    let s1 := (((s.setBit F.KLN_CLAMP_ACTIVE r true).bump F.KLN_CLAMP_CNT_COUNT).raise 291).err .kln 0 2
    ({ s1 with kl := { s1.kl with ramp := (regionDies r).foldl (fun m d => smSet (fun _ => 0) m d 0) s1.kl.ramp } }).setClocks

/-- A clamp is released: the clocks it held start to rise (R493). -/
def State.clampOff (s : State) (r : Nat) : State :=
  let s1 := (regionDies r).foldl (fun t d => t.setSince (32 + d) 5 true) (s.setBit F.KLN_CLAMP_ACTIVE r false)
  ({ s1 with kl := { s1.kl with
      ramp := (regionDies r).foldl (fun m d => if s1.dieClamped d then m else smSet (fun _ => 0) m d 1000) s1.kl.ramp } }).setClocks

/-- Set or clear a region's derating after its flags changed (R498). -/
def State.rederate (s : State) (r : Nat) : State :=
  let was := s.bit F.KLN_DERATED_REGION r
  let now := s.shouldDerate r
  let s1 := if was = now then s else s.setBit F.KLN_DERATED_REGION r now
  let s2 := if !was && now then s1.err .kln 0 4 else s1
  let s3 := if s2.allFlagged r then s2.clampOn r else s2
  -- a stack whose sensors are all flagged is hot (R73)
  (if s2.allFlagged r && 8 ≤ r && r < 24 then s3.setFlag F.STK_STATE_HOT true (r - 8) else s3).setClocks

/-- The median check of R496: does a reading differ by more than 12 °C from the median of its neighbours' valid readings?
The median of an even number of readings is the mean of the middle two. -/
def offMedian (t : Int) (ns : List Int) : Bool :=
  let o := ns.mergeSort (fun a b => a ≤ b)
  let n := o.length
  let lo := (o[(n - 1) / 2]?).getD t
  let hi := (o[n / 2]?).getD t
  n ≠ 0 && (96 < 2 * t - (lo + hi) || 2 * t - (lo + hi) < -96)

/-- The first check of R496 that a new reading fails; the neighbour check fails on the 32nd consecutive sample. -/
def State.sensorFails (s : State) (n : Nat) (t : Int) (nbRun : Nat) : Bool :=
  let o := s.sensor n
  let lim : Int := if o.fast then 8 else 160
  t < -80 || 600 < t || (o.present && (lim < t - o.temp || t - o.temp < -lim)) || 32 ≤ nbRun

/-- What a region does with its new reading: near onset, enforcement without a fresh grace, rising stack levels and the
clamp (R489, R491, R493), and the hot-stack rule (R73, R487). -/
def State.regionAct (s : State) (r : Nat) : State :=
  match s.regionReading r with
  | none => s
  | some u =>
    let s1 := if nearAt r ≤ u then
        (if !s.bit F.KLN_NEAR_REGION r then s.nearOnset r
         else if s.kl.spared.contains r then s.enforce r else s)
      else s
    let s2 := if s1.bit F.KLN_ENF_REGION r then (regionStacks r).foldl (fun t st => t.raiseLevel u st) s1 else s1
    let s3 := if clampAt r ≤ u then s2.clampOn r else s2
    if 8 ≤ r && r < 24 then
      let st := r - 8
      let s4 := s3.setF F.STK_STATE_TEMP_MAX (if 0 ≤ u then u.toNat / 4 else 0) st
      if 340 < u then s4.setFlag F.STK_STATE_HOT true st else s4
    else s3

/-- What a region's reading has meant for how long is noted at each sample. -/
def State.noteReading (s : State) (r : Nat) : State :=
  let t := ((s.note r 2 (s.readingAtMost r (nearAt r - 12))).note r 3 (s.readingAtMost r (clampAt r - 20))).note r 4
    (s.readingAtLeast r (tripAt r))
  if 8 ≤ r && r < 24 then
    let l := nbits (s.getF F.KLN_STK_LEVEL_LEVEL) (2 * (r - 8) + 1) (2 * (r - 8))
    (t.note r 0 (s.readingAtMost r (levelAt l - 12))).note r 1 (s.readingAtMost r 332)
  else t

/-- The 64-bit power status word (Table 1-8). -/
def Power.word (p : Power) : Nat :=
  p.cause % 256 * 2 ^ 56 + p.vin % 4096 * 2 ^ 44 + p.pin % 4096 * 2 ^ 32 + p.flow % 256 * 2 ^ 24 + p.tInlet % 256 * 2 ^ 16
    + p.tjMax % 256 * 2 ^ 8 + p.pwrState % 16 * 2 ^ 4

/-- Change the power state; `SMB_ALERT_N` goes low when the word changes (Table 1-7). -/
def State.setPw (s : State) (p : Power) : State :=
  { s with pw := { p with wordChanged := p.wordChanged || p.word ≠ s.pw.word } }

/-- What the input and coolant sensors measure goes into the power status word (Table 1-8). -/
def State.senseInput (s : State) (vin flow tInlet : Nat) : State :=
  s.setPw { s.pw with vin := min vin 4095, flow := min flow 255, tInlet := min tInlet 255 }

/-- The hottest valid junction sensor of every region stands in `TJ_MAX` (Table 1-8), °C. -/
def State.showTj (s : State) : State :=
  let t := (hottest ((s.kl.sensors.filter fun e => s.sensorValid e.1).map fun e => e.2.temp)).getD 0
  s.setPw { s.pw with tjMax := min 255 (if 0 ≤ t then t.toNat / 4 else 0) }

/-- SENSOR_SAMPLE (R487, R496 to R498): one sample of one sensor. -/
def State.sensorSample (s : State) (n : Nat) (t : Int) : State :=
  let r := sensorRegion n
  if n < 2128 && s.regionPresent r && s.dv.st ≠ .off then
    let o := s.sensor n
    let nb := (sensorNeighbours n).filter (fun m => !s.sensorFlagged m)
    let run := if !nb.isEmpty && offMedian t (s.validTemps nb) then o.nbRun + 1 else 0
    let flagged := s.sensorFlagged n
    let fails := !flagged && s.sensorFails n t run
    -- only a valid reading decides how often the sensor is sampled
    let fast := if flagged || fails then o.fast else if clampAt r - 20 ≤ t then true else if t ≤ clampAt r - 24 then false else o.fast
    let sn : Sensor := { temp := t, present := true, fast := fast, nbRun := run }
    let s1 : State := { s with kl := { s.kl with sensors := smSet (fun _ => {}) s.kl.sensors n sn } }
    let s2 := if fails then
        (((s1.setBit (F.KLN_SENSFAULT_FLAG.nth (n / 32)) (n % 32) true).bump F.KLN_SFAULT_CNT_COUNT).err .kln 0 3).rederate r
      else s1
    let s3 := s2.regionAct r
    s3.showTj.noteReading r
  else s

/-- SENSOR_SAMPLE. -/
def execSensorSample (sensor : Nat) (temp : Int) (now : Nat) (s : State) : Res := done ((s.at now).sensorSample sensor temp)

/-- STACK_HOT_END (R73): the reading has stayed at or below 83 °C for 100 ms; the normal refresh interval returns. -/
def execStackHotEnd (stack now : Nat) (s : State) : Res :=
  let t := s.at now
  done (if stack < 16 && t.readingAtMost (8 + stack) 332 && t.heldFor (8 + stack) 1 100000000 then
    t.setFlag F.STK_STATE_HOT false stack else t)

/-- THERMAL_GRACE_END (R489, R491): enforcement after 50 ms, unless the reading lies 3 °C below near, when the region stays near
without enforcement. -/
def execThermalGraceEnd (region now : Nat) (s : State) : Res :=
  let t := s.at now
  done (if t.kl.grace.any fun e => e.1 = region && e.2 + graceNs ≤ t.now then
    (if region ≠ powerRegion && t.readingAtMost region (nearAt region - 12) then
      { t with kl := { t.kl with grace := t.kl.grace.filter (fun e => e.1 ≠ region), spared := t.kl.spared ++ [region] } }
     else t.enforce region)
    else t)

/-- ENFORCEMENT_STEP (R491): every 10 ms an enforced region's dies fall a further 100 MHz while its reading is at or above 95 °C. -/
def execEnforcementStep (region now : Nat) (s : State) : Res :=
  let t := s.at now
  done (if region < 28 && t.bit F.KLN_ENF_REGION region && t.readingAtLeast region 380 && t.heldFor region 5 10000000 then
    (((regionDies region).foldl (fun u d => u.lowerCeil 100 d) t).setSince region 5 true).setClocks else t)

/-- The power P₁₀ is below 95 % of the permitted power. -/
def State.powerCalm (s : State) : Bool := s.kl.p10 * 100 < 95 * (s.getF F.KLN_PERMIT_W10 * 10)

/-- NEAR_END (R489, R492): for 100 ms the reading has stayed 3 °C below near, or the power below 95 %; the region stops being near. -/
def execNearEnd (region now : Nat) (s : State) : Res :=
  let t := s.at now
  let calm := if region = powerRegion then t.powerCalm else t.readingAtMost region (nearAt region - 12)
  done (if t.bit F.KLN_NEAR_REGION region && calm && t.heldFor region 2 100000000 then
    let s1 := (t.setBit F.KLN_NEAR_REGION region false).setBit F.KLN_ENF_REGION region false
    { s1 with kl := { s1.kl with
      grace := s1.kl.grace.filter (fun e => e.1 ≠ region), spared := s1.kl.spared.filter (· ≠ region),
      asked := s1.kl.asked.filter (· ≠ region) } }
    else t)

/-- The input power that the coolant permits (Table 1-5), W. -/
def coolantPower (flow tInlet : Nat) : Nat :=
  if 95 ≤ flow && tInlet ≤ 80 then 6500
  else (if 95 ≤ flow then 6500 else 6500 * flow / 95) - 250 * (tInlet - 80) / 2

/-- The permitted input power of R492, W. -/
def State.permitted (s : State) : Nat :=
  min 6500 (min (coolantPower s.pw.flow s.pw.tInlet) (if s.pw.vin < 2000 then s.pw.vin * 34 / 10 else 6500))

/-- POWER_BUDGET_SAMPLE (R22, R492): the permitted power follows the coolant and the input; near at 97 %, enforcement at once
above 105 %, easing by T3 once no longer near, by 50 MHz per 10 ms. -/
def execPowerBudgetSample (w10ms vin flow tInlet now : Nat) (s : State) : Res :=
  let s := (s.at now).senseInput vin flow tInlet
  let p := s.permitted
  let s1 : State := { s with kl := { s.kl with p10 := w10ms } }
  let s2 := (s1.setF F.KLN_PERMIT_W10 (p / 10)).setF F.KLN_PIN_W10 (w10ms / 10)
  let near := s2.bit F.KLN_NEAR_REGION powerRegion
  let s3 := if 97 * p ≤ w10ms * 100 && !near then s2.nearOnset powerRegion else s2
  let s4 := if 105 * p < w10ms * 100 && !s3.bit F.KLN_ENF_REGION powerRegion then s3.enforce powerRegion else s3
  let s4 := s4.note powerRegion 2 s4.powerCalm
  let c := s4.getF F.KLN_POWER_CEIL_MHZ
  let rested := match s4.held powerRegion 6 with
    | some n => 10000000 ≤ n
    | none => true
  done (if !s4.bit F.KLN_NEAR_REGION powerRegion && c < 2000 && s4.dutyServed 3 && rested then
    ((s4.setF F.KLN_POWER_CEIL_MHZ (min 2000 (c + 50))).setSince powerRegion 6 true).setClocks else s4)

/-- POWER_CEILING_STEP (R492): under enforcement the power ceiling falls by 100 MHz every 1 ms until P₁₀ is below 95 %. -/
def execPowerCeilingStep (now : Nat) (s : State) : Res :=
  let t := s.at now
  let c := t.getF F.KLN_POWER_CEIL_MHZ
  done (if t.bit F.KLN_ENF_REGION powerRegion && !t.powerCalm && 1000 < c && t.heldFor powerRegion 5 1000000 then
    ((t.setF F.KLN_POWER_CEIL_MHZ (max 1000 (c - 100))).setSince powerRegion 5 true).setClocks else t)

/-- CLAMP_RELEASE (R493): the reading has stayed 5 °C below the clamp for 10 ms, or the 1 ms power below 6.2 kW for 1 ms. -/
def execClampRelease (region now : Nat) (s : State) : Res :=
  let t := s.at now
  let calm := if region = powerRegion then t.heldFor powerRegion 3 1000000
    else t.readingAtMost region (clampAt region - 20) && t.heldFor region 3 10000000
  done (if t.bit F.KLN_CLAMP_ACTIVE region && calm then t.clampOff region else t)

/-- CLOCK_RAMP_STEP (R493): after a clamp release the clock rises 100 MHz every 100 µs, up to the lowest of the other ceilings. -/
def execClockRampStep (die now : Nat) (s : State) : Res :=
  let t := s.at now
  let m := smGet (fun _ => 0) t.kl.ramp die
  if m = 0 || !t.heldFor (32 + die) 5 100000 then done t
  else
    let free : State := { t with kl := { t.kl with ramp := smSet (fun _ => 0) t.kl.ramp die 0 } }
    let top := (lowestCeiling (free.ceilings die)).2
    done (if top ≤ m + 100 then free.setClock die
      else (({ t with kl := { t.kl with ramp := smSet (fun _ => 0) t.kl.ramp die (m + 100) } } : State).setSince (32 + die) 5 true).setClock
        die)

/-- The partitions with bricks in their pools on a Course die (1,280 active bricks a die). -/
def State.partsOnDie (s : State) (d : Nat) : List Nat :=
  (List.range 32).filter fun p => (List.range 8).any fun k =>
    let f := s.getF (F.PRT_POOL_FIRST.nth k) p
    let n := s.getF (F.PRT_POOL_COUNT.nth k) p
    0 < n && f < 1280 * (d + 1) && 1280 * d < f + n

/-- The partitions with bank groups in a stack (R275). -/
def State.partsOnStack (s : State) (st : Nat) : List Nat :=
  (List.range 32).filter fun p => (List.range 8).any fun g => s.bit (F.PRT_BGRP_GROUPS.nth (st / 4)) (st % 4 * 8 + g) p

/-- The partitions a throttle request names (R490, R492). -/
def State.partsNamed (s : State) (r : Nat) : List Nat :=
  if r = powerRegion then (List.range 32).filter fun p => s.getF F.PRT_STATE_STATE p == 2
  else (List.range 32).filter fun p =>
    (regionDies r).any (fun d => (s.partsOnDie d).contains p) || (regionStacks r).any (fun st => (s.partsOnStack st).contains p)

/-- THROTTLE_REQ (R490): T3 sends one request for a near onset on channel 0 and on the channels of the partitions named. -/
def execThrottleReq (region amount now : Nat) (s : State) : Res :=
  let s := s.at now
  done (if s.kl.asked.contains region && s.dutyServed 3 then
    let n := (s.getF F.KLN_REQ_NUMBER + 1) % 65536
    let ps := s.partsNamed region
    let kind := if region < 8 then 0 else if region < 24 then 1 else if region < 28 then 2 else 3
    let index := if region < 8 then region else if region < 24 then region - 8 else if region < 28 then region - 24 else 0
    let reading := if region = powerRegion then s.kl.p10 / 10 else match s.regionReading region with
      | some u => (u % 65536).toNat
      | none => 0
    let m := mkMsg 0x8011 0 0 0 [(16, 2, n), (18, 1, kind), (19, 1, index), (20, 1, amount),
      (24, 4, ps.foldl (fun a p => a + 2 ^ p) 0), (28, 2, reading), (30, 2, s.graceLeft region)]
    let s1 := s.setF F.KLN_REQ_NUMBER n
    let s2 : State := { s1 with kl := { s1.kl with asked := s1.kl.asked.filter (· ≠ region) } }
    ps.foldl (fun t p => t.f2h (p + 1) m) (s2.f2h 0 m)
    else s)

/-- THROTTLE_ACK (R490): the host's acknowledgement is recorded in `KLN_ACKED` and has no other effect. -/
def execThrottleAck (chan : Nat) (s : State) : Res :=
  done (match s.h2fPeek chan with
    | some m =>
      if fieldB m 0 2 = 0x0011 && s.dutyServed 6 then
        (s.raiseMax F.KLN_ACKED_NUMBER (fieldB m 16 2)).h2fAnswer chan m 0 []
      else s
    | none => s)

/-- Clear sensor flags (R496): the write of 1 by the Trowel complex; counts, deratings and the clamp of an all-flagged
region follow. -/
def State.clearSensorFlags (s : State) (k v : Nat) : State :=
  let ns := ((bitsOf v 32).map (32 * k + ·)).filter fun n => n < 2128 && s.sensorFlagged n
  State.showTj (ns.foldl (fun t n =>
    let r := sensorRegion n
    let was := t.allFlagged r
    let t1 := (t.setBit (F.KLN_SENSFAULT_FLAG.nth (n / 32)) (n % 32) false).setF F.KLN_SFAULT_CNT_COUNT (t.getF F.KLN_SFAULT_CNT_COUNT - 1)
    let t2 : State := { t1 with kl := { t1.kl with sensors := smSet (fun _ => {}) t1.kl.sensors n { t1.sensor n with nbRun := 0 } } }
    let t3 := (t2.rederate r).noteReading r
    if was && !(t3.readingAtLeast r (clampAt r)) then t3.clampOff r else t3) s)

/-- The write of a die's enforcement ceiling (R491): T3 may raise it by at most 50 MHz per 10 ms; a faster write is stored
at the limit; values are stored in 50 MHz steps from 800 to 2,000. -/
def State.writeCeil (s : State) (d v : Nat) : State :=
  let cur := s.getF (F.KLN_CLK_CEIL_MHZ.nth d)
  let want := clampN 800 2000 (v % 4096 / 50 * 50)
  let last := smGet (fun _ => 0) s.kl.lastEase d
  let room := if last = 0 then 50 else 50 * ((s.now + 1 - last) / 10000000)
  let put := if want ≤ cur then want else min want (cur + room)
  let s1 := s.setF (F.KLN_CLK_CEIL_MHZ.nth d) put
  (if cur < put then { s1 with kl := { s1.kl with lastEase := smSet (fun _ => 0) s1.kl.lastEase d (s.now + 1) } } else s1).setClock d

/-- The write of stack levels (R491): lowered by one for each 100 ms in which the reading stays 3 °C below the level's
threshold, and never below the level the reading requires. -/
def State.writeLevels (s : State) (v : Nat) : State :=
  (List.range 16).foldl (fun t st =>
    let cur := nbits (t.getF F.KLN_STK_LEVEL_LEVEL) (2 * st + 1) (2 * st)
    let want := nbits v (2 * st + 1) (2 * st)
    let steps := ((t.held (8 + st) 0).getD 0) / 100000000
    let need := match t.regionReading (8 + st) with | some u => levelFor u | none => 0
    let put := if cur ≤ want then want else max (max want (cur - steps)) need
    let t1 := t.setKilnLevel st put
    if put < cur then t1.setSince (8 + st) 0 true else t1) s

/-- EP_WINDOW_END (R500): T3 adjusts the energy-profile ceiling by the window's energy per token. -/
def execEpWindowEnd (mJ : Nat) (s : State) : Res :=
  if s.flag F.KLN_EP_CTRL_EP_ENABLE && s.dutyServed 3 then
    let n := s.kl.epTokens
    let s1 : State := { s with kl := { s.kl with epTokens := 0 } }
    let s2 := s1.setF F.KLN_EP_TOKENS_COUNT n
    let c := s.getF F.KLN_EP_CEIL_MHZ
    let target := s.getF F.KLN_EP_TARGET_TARGET_MJ
    if n = 0 then done s2
    else
      let s3 := s2.setF F.KLN_EP_MEASURED_MJ (min (mJ / n) (2 ^ 32 - 1))
      done (if target = 0 then s3
        else if target * n < mJ then (s3.setF F.KLN_EP_CEIL_MHZ (if c ≤ s.getF F.KLN_EP_FLOOR_FLOOR_MHZ then c
          else max (s.getF F.KLN_EP_FLOOR_FLOOR_MHZ) (c - 50))).setClocks
        else if mJ * 100 < 90 * target * n then (s3.setF F.KLN_EP_CEIL_MHZ (min 2000 (c + 50))).setClocks
        else s3)
  else done s

end Sys2Proof.Machine
end

