-- ==== Sys2Proof/Machine/BankBase.lean ====
section
/-! DEFINITION. Banks (chapter 3): the modes, where a bank lies, query latches, the compute timing rules with the partitions'
shares (R283), and how a pass starts. -/

namespace Sys2Proof.Machine

/-! ## Modes (Table 3-2) -/

/-- Most column operations of a pass. -/
def modeCols (fmt : Nat) : Nat := if fmt ≤ 2 then 960 else if fmt ≤ 4 then 480 else 448

/-- Column operations from one yield point to the next. -/
def modeYield (fmt : Nat) : Nat := if fmt = 5 then 32 else 64

/-- Latch elements that one column operation uses. -/
def modeElems (fmt : Nat) : Nat := if fmt = 3 || fmt = 4 then 2 else 1

/-- Lanes in use. -/
def modeLanes (fmt : Nat) : Nat := if fmt = 5 then 16 else 32

/-! ## Places -/

/-- Stack of a stack-memory address. -/
def stackOf (a : Nat) : Nat := a / stackBytes

/-- Bank number within the stack under the LOCAL mapping (R58). -/
def bankOf (a : Nat) : Nat := let o := a % stackBytes; nbits o 20 17 * 64 + nbits o 16 11

/-- Row number of an address. -/
def rowIn (a : Nat) : Nat := nbits (a % stackBytes) 36 21

/-- Key of a bank. -/
def bankKey (st b : Nat) : Nat := st * 1024 + b

/-- Key of the bank that holds an address. -/
def State.bankAt (s : State) (a : Nat) : Nat := bankKey (s.heldBy a) (bankOf a)

/-! ## Work at a bank -/

/-- Work waiting at a bank. -/
def State.bankWork (s : State) (bk : Nat) : List BWork := smGet (fun _ => []) s.bk.work bk

/-- Replace the work waiting at a bank. -/
def State.setBankWork (s : State) (bk : Nat) (w : List BWork) : State :=
  { s with bk := { s.bk with work := smSet (fun _ => []) s.bk.work bk w } }

/-- The run of a bank in a pass. -/
def State.runAt (s : State) (bk : Nat) : Option Run := (s.bk.runs.find? fun e => e.1 = bk).map (·.2)

/-- Replace or remove a bank's run. -/
def State.setRun (s : State) (bk : Nat) (r : Option Run) : State :=
  { s with bk := { s.bk with runs := match r with | some x => smPut s.bk.runs bk x | none => smDel s.bk.runs bk } }

/-! ## Query latches (R61, R68, R521) -/

/-- Key of a latch element. -/
def latchKey (bk slot e : Nat) : Nat := (bk * 8 + slot) * 960 + e

/-- A latch element, BF16. -/
def State.latchAt (s : State) (bk slot e : Nat) : Nat := smGet (fun _ => 0) s.bk.latch (latchKey bk slot e)

/-- What is left of a marked range of elements beside a newly loaded one. -/
def LMark.less (m : LMark) (lo hi : Nat) : List LMark :=
  (if m.lo < min m.hi lo then [{ m with hi := min m.hi lo }] else []) ++
    (if max m.lo hi < m.hi then [{ m with lo := max m.lo hi }] else [])

/-- Load a bank's latch; elements loaded anew lose their mark, and a load from a poisoned source marks its own. -/
def State.loadLatch (s : State) (bk : Nat) (l : LLoad) : State :=
  let ps := ((bitsOf l.slots 8).zip l.elems).flatMap fun p => (p.2.zipIdx).map fun e => (latchKey bk p.1 (l.off + e.2), e.1)
  let n := (l.elems.headD []).length
  let keys := (bitsOf l.slots 8).map fun slot => bk * 8 + slot
  { s with bk := { s.bk with
      latch := ps.foldl (fun m e => smSet (fun _ => 0) m e.1 e.2) s.bk.latch
      latchBad := (s.bk.latchBad.flatMap fun m => if keys.contains m.slot then m.less l.off (l.off + n) else [m])
        ++ if l.bad then keys.map fun k => ⟨k, l.off, l.off + n, l.own⟩ else [] } }

/-- Latch loads at the front of an idle bank's work take effect, `n` at most. -/
def State.latchesGo (s : State) (bk : Nat) : Nat → State
  | 0 => s
  | n + 1 =>
    match s.runAt bk, s.bankWork bk with
    | none, .latch l :: rest => ((s.loadLatch bk l).setBankWork bk rest).latchesGo bk n
    | _, _ => s

/-- All of them take effect, unless the stack is paused (R476). -/
def State.latchesLoad (s : State) (bk : Nat) : State :=
  if s.paused .stk (bk / 1024) then s else s.latchesGo bk (s.bankWork bk).length

/-- Do two pieces of work belong to one command's step or to one command? -/
def Own.together : Own → Own → Bool
  | .step n _, .step m _ => n = m
  | .cmd a, .cmd b => a = b
  | _, _ => false

/-- A pass uses slots that a LATCH of its command loaded from a poisoned source: its sequences complete with 0x0401 (R521). -/
def State.usesBadLatch (s : State) (bk : Nat) (p : Pass) : State :=
  if (bitsOf p.slots 8).any fun slot => s.bk.latchBad.any fun e => e.slot = bk * 8 + slot && e.own.together p.own then
    s.workFail p.own St.poisonConsumed
  else s

/-! ## Compute timing rules (R70, R71, R493) -/

/-- The level in force in a stack: the tighter of Kiln's and `STK_DERATE.FLOOR`. -/
def State.level (s : State) (st : Nat) : Nat := max (s.kilnLevel st) (s.getF F.STK_DERATE_FLOOR st)

/-- tCAW window at a level, ns. -/
def levelCaw (l : Nat) : Nat := match l with | 0 => 40 | 1 => 50 | 2 => 64 | _ => 100

/-- tCRRD at a level, ns. -/
def levelCrrd (l : Nat) : Nat := match l with | 0 => 4 | 1 => 5 | 2 => 8 | _ => 12

/-- Banks of a die in a pass at once. -/
def levelBanks (l : Nat) : Nat := match l with | 0 => 32 | 1 => 28 | 2 => 24 | _ => 16

/-- Compute activates of a stack per microsecond. -/
def levelCpw (l : Nat) : Nat := match l with | 0 => 768 | 1 => 640 | 2 => 512 | _ => 256

/-- Die key (stack · 16 + die) of a bank key. -/
def dieOf (bk : Nat) : Nat := bk / 64

/-! ## The partitions' shares of a stack (R283) -/

/-- The partitions that hold a stack's bank groups, group by group. -/
def State.holders (s : State) (st : Nat) : List (Option Nat) :=
  (List.range 8).map fun k => (List.range 32).find? fun p => s.holdsGroup p (st * 8 + k)

/-- The holder of a bank. -/
def holderOf (hs : List (Option Nat)) (bk : Nat) : Option Nat := (hs[bk % 64 / 8]?).join

/-- Bank groups of a stack that a partition holds. -/
def groupsOf (hs : List (Option Nat)) (p : Nat) : Nat := hs.countP (· == some p)

/-- The partitions with a pass waiting at an idle bank of those that `here` picks. -/
def State.waiters (s : State) (hs : List (Option Nat)) (here : Nat → Bool) : List Nat :=
  uniq (s.bk.work.filterMap fun e => match e.2 with
    | .pass _ :: _ => if here e.1 && (s.runAt e.1).isNone then holderOf hs e.1 else none
    | _ => none)

/-- May a partition take one more: while it is below its share, or while no partition that waits is below its own? -/
def shareOk (p : Nat) (waiters : List Nat) (below : Nat → Bool) : Bool := below p || waiters.all fun q => q = p || !below q

/-- Do the shares of the compute activates and of a die's banks in a pass let this bank start at time t? -/
def State.sharesAllow (s : State) (bk t : Nat) (acts banks : Nat) : Bool :=
  let st := bk / 1024
  let hs := s.holders st
  match holderOf hs bk with
  | none => true
  | some p =>
    let used (q : Nat) : Nat := s.bk.acts.countP fun e => e.1 / 1024 = st && t < e.2 + 1000 && holderOf hs e.1 = some q
    let runs (q : Nat) : Nat := s.bk.runs.countP fun e => dieOf e.1 = dieOf bk && holderOf hs e.1 = some q
    shareOk p (s.waiters hs fun b => b / 1024 = st) (fun q => used q * 8 < groupsOf hs q * acts)
      && shareOk p (s.waiters hs fun b => dieOf b = dieOf bk) (fun q => runs q < groupsOf hs q * banks / 8)

/-- Do the compute timing rules and the shares allow an activate of this bank at time t? -/
def State.mayActivate (s : State) (bk t : Nat) : Bool :=
  let st := bk / 1024
  let l := s.level st
  let die := s.bk.acts.filter fun e => dieOf e.1 = dieOf bk
  let caw := max (levelCaw l) (s.getF F.STK_TCAW_WINDOW_NS st)
  let running := (s.bk.runs.filter fun e => dieOf e.1 = dieOf bk).length
  let banks := min (levelBanks l) (s.getF F.STK_CONC_BANKS st)
  let acts := min (levelCpw l) (s.getF F.STK_TCPW_ACTS st)
  !s.stackClamped st
    && (die.filter fun e => t < e.2 + caw).length < min 8 (s.getF F.STK_TCAW_MAX_ACT st)
    && die.all (fun e => e.1 = bk || e.2 + max (levelCrrd l) (s.getF F.STK_TCRRD_NS st) ≤ t)
    && running < banks
    && (s.bk.acts.filter fun e => e.1 / 1024 = st && t < e.2 + 1000).length < acts
    && s.sharesAllow bk t acts banks

/-- The first pass waiting at an idle bank starts, if the rules allow it now (R70). -/
def State.activate (s : State) (bk : Nat) : State :=
  match s.runAt bk, s.bankWork bk with
  | none, .pass p :: rest =>
    if s.mayActivate bk s.now && s.stackServes (bk / 1024) && !s.paused .stk (bk / 1024) then
      let t := ((s.setBankWork bk rest).setRun bk (some { pass := p })).usesBadLatch bk p
      { t with bk := { t.bk with acts := (t.bk.acts.filter fun e => s.now < e.2 + 1000) ++ [(bk, s.now)] } }
    else s
  | _, _ => s

end Sys2Proof.Machine
end

