-- ==== Sys2Proof/Machine/Numbers.lean ====
section
/-! DEFINITION. Numbers: the element formats of Table 8-1 as exact dyadic values, conversion (R224) and FP32 and integer
arithmetic (R63, R82). -/

namespace Sys2Proof.Machine

/-- A value: ±m · 2^e exactly (zero keeps its sign), an infinity, or NaN. -/
inductive Num where
  | fin (neg : Bool) (m : Nat) (e : Int)
  | inf (neg : Bool)
  | nan
deriving DecidableEq, Repr

/-- A floating-point format: exponent bits, mantissa bits, bias, bits of the largest finite value, whether it has infinities,
and the NaN it writes (none: it has no NaN). -/
structure FFmt where
  eb : Nat
  mb : Nat
  bias : Nat
  maxFin : Nat
  hasInf : Bool
  nanBits : Option Nat
deriving DecidableEq, Repr

def fmtE4M3 : FFmt := ⟨4, 3, 7, 0x7E, false, some 0x7F⟩
def fmtE5M2 : FFmt := ⟨5, 2, 15, 0x7B, true, some 0x7E⟩
def fmtE2M1 : FFmt := ⟨2, 1, 1, 0x7, false, none⟩
def fmtBF16 : FFmt := ⟨8, 7, 127, 0x7F7F, true, some 0x7FC0⟩
def fmtFP16 : FFmt := ⟨5, 10, 15, 0x7BFF, true, some 0x7E00⟩
def fmtFP32 : FFmt := ⟨8, 23, 127, 0x7F7FFFFF, true, some 0x7FC00000⟩

/-- The floating-point format of a code of Table 8-1; the integer codes 2 and 4 have none. -/
def ffmtOf (code : Nat) : Option FFmt :=
  match code with
  | 0 => some fmtE4M3 | 1 => some fmtE5M2 | 3 => some fmtE2M1 | 5 => some fmtBF16 | 6 => some fmtFP16 | 7 => some fmtFP32
  | _ => none

/-- Bits of an element of a format code. -/
def fmtBits (code : Nat) : Nat :=
  match code with
  | 0 => 8 | 1 => 8 | 2 => 8 | 3 => 4 | 4 => 4 | 5 => 16 | 6 => 16 | _ => 32

/-- Decode a floating-point pattern (R222). -/
def FFmt.decode (f : FFmt) (bits : Nat) : Num :=
  let neg := nbit bits (f.eb + f.mb)
  let mag := bits % 2 ^ (f.eb + f.mb)
  let ex := mag / 2 ^ f.mb
  let man := mag % 2 ^ f.mb
  if f.maxFin < mag then (if f.hasInf && man = 0 then .inf neg else .nan)
  else if ex = 0 then .fin neg man (1 - f.bias - f.mb : Int)
  else .fin neg (2 ^ f.mb + man) ((ex : Int) - f.bias - f.mb)

/-- Decode a signed integer of `w` bits. -/
def intNum (w bits : Nat) : Num :=
  let v := signedN w bits
  .fin (v < 0) v.natAbs 0

/-- Decode an element of any format code. -/
def decodeNum (code bits : Nat) : Num :=
  match ffmtOf code with
  | some f => f.decode bits
  | none => intNum (fmtBits code) bits

/-- m ÷ d to the nearest integer, ties to even. -/
def divRNE (m d : Nat) : Nat :=
  let q := m / d
  let r := m % d
  if d < 2 * r || (2 * r = d && q % 2 = 1) then q + 1 else q

/-- m · 2^k to the nearest integer, ties to even. -/
def scaleRNE (m : Nat) (k : Int) : Nat := if 0 ≤ k then m * 2 ^ k.toNat else divRNE m (2 ^ (-k).toNat)

/-- The magnitude bits of m · 2^e rounded to a format, subnormals included, ties to even; above `maxFin` it overflows. -/
def FFmt.roundMag (f : FFmt) (m : Nat) (e : Int) : Nat :=
  if m = 0 then 0
  else
    let qmin : Int := 1 - f.bias - f.mb
    let q := max qmin ((Nat.log2 m : Int) + e - f.mb)
    (q - qmin).toNat * 2 ^ f.mb + scaleRNE m (e - q)

/-- A sign on magnitude bits. -/
def FFmt.signed (f : FFmt) (neg : Bool) (mag : Nat) : Nat := if neg then mag + 2 ^ (f.eb + f.mb) else mag

/-- The infinity's magnitude bits of a format that has one. -/
def FFmt.infMag (f : FFmt) : Nat := (2 ^ f.eb - 1) * 2 ^ f.mb

/-- Narrowing by conversion (Table 8-2): finite overflow saturates. -/
def FFmt.convert (f : FFmt) (v : Num) : Nat :=
  match v with
  | .nan => f.nanBits.getD 0
  | .inf neg => f.signed neg (if f.hasInf then f.infMag else f.maxFin)
  | .fin neg m e => f.signed neg (min f.maxFin (f.roundMag m e))

/-- Narrowing to a signed integer of `w` bits (Table 8-2). -/
def convertInt (w : Nat) (v : Num) : Nat :=
  let hi := 2 ^ (w - 1) - 1
  let put (neg : Bool) (n : Nat) : Nat := if neg then (2 ^ w - min n (hi + 1)) % 2 ^ w else min n hi
  match v with
  | .nan => 0
  | .inf neg => put neg (hi + 1)
  | .fin neg m e => put neg (scaleRNE m e)

/-- Conversion to a format code (R224). -/
def encodeNum (code : Nat) (v : Num) : Nat :=
  match ffmtOf code with
  | some f => f.convert v
  | none => convertInt (fmtBits code) v

/-- Conversion between format codes. -/
def convertFmt (src dst bits : Nat) : Nat := encodeNum dst (decodeNum src bits)

/-- The exact sum of two values; an exact zero is +0 unless both are −0. -/
def Num.add (a b : Num) : Num :=
  match a, b with
  | .nan, _ => .nan
  | _, .nan => .nan
  | .inf x, .inf y => if x = y then .inf x else .nan
  | .inf x, _ => .inf x
  | _, .inf y => .inf y
  | .fin x m e, .fin y n f =>
    let g := min e f
    let i : Int := (if x then -1 else 1) * (m * 2 ^ (e - g).toNat : Nat) + (if y then -1 else 1) * (n * 2 ^ (f - g).toNat : Nat)
    if i = 0 then .fin (x && y) 0 g else .fin (i < 0) i.natAbs g

/-- The exact product of two values. -/
def Num.mul (a b : Num) : Num :=
  match a, b with
  | .nan, _ => .nan
  | _, .nan => .nan
  | .inf x, .inf y => .inf (x != y)
  | .inf x, .fin y n _ => if n = 0 then .nan else .inf (x != y)
  | .fin x m _, .inf y => if m = 0 then .nan else .inf (x != y)
  | .fin x m e, .fin y n f => .fin (x != y) (m * n) (e + f)

/-- The value with its sign changed. -/
def Num.neg : Num → Num
  | .fin x m e => .fin (!x) m e
  | .inf x => .inf (!x)
  | .nan => .nan

/-- Is a value below another (NaN is not)? -/
def Num.lt (a b : Num) : Bool :=
  match a, b with
  | .nan, _ => false
  | _, .nan => false
  | .inf x, .inf y => x && !y
  | .inf x, .fin _ _ _ => x
  | .fin _ _ _, .inf y => !y
  | .fin x m e, .fin y n f =>
    let g := min e f
    let u : Int := (if x then -1 else 1) * (m * 2 ^ (e - g).toNat : Nat)
    let v : Int := (if y then -1 else 1) * (n * 2 ^ (f - g).toNat : Nat)
    u < v

/-- One rounding of an exact value to FP32 as arithmetic: overflow becomes ±∞, NaN the canonical quiet NaN (R63). -/
def round32 (v : Num) : Nat :=
  match v with
  | .nan => 0x7FC00000
  | .inf neg => fmtFP32.signed neg fmtFP32.infMag
  | .fin neg m e => fmtFP32.signed neg (min fmtFP32.infMag (fmtFP32.roundMag m e))

/-- An FP32 pattern's value. -/
def num32 (bits : Nat) : Num := fmtFP32.decode bits

/-- FP32 addition. -/
def add32 (a b : Nat) : Nat := round32 ((num32 a).add (num32 b))

/-- FP32 multiplication. -/
def mul32 (a b : Nat) : Nat := round32 ((num32 a).mul (num32 b))

/-- An exact product added to an FP32 accumulator with one rounding (R63). -/
def mac32 (acc : Nat) (w x : Num) : Nat := round32 ((num32 acc).add (w.mul x))

/-- FP32 maximum; a NaN operand gives NaN. -/
def max32 (a b : Nat) : Nat :=
  if num32 a = .nan || num32 b = .nan then 0x7FC00000 else if (num32 a).lt (num32 b) then b else a

/-- Two's complement addition, wrapping at `w` bits. -/
def addWrap (w a b : Nat) : Nat := (a + b) % 2 ^ w

/-- One element of a memory-side add (Table 3-11): 0 FP32, 1 BF16, 2 INT32, 3 INT64. -/
def msAdd (type a b : Nat) : Nat :=
  match type with
  | 0 => add32 a b
  | 1 => fmtBF16.convert (num32 (round32 ((fmtBF16.decode a).add (fmtBF16.decode b))))
  | 2 => addWrap 32 a b
  | _ => addWrap 64 a b

/-- Bytes of an element of a memory-side add type. -/
def msBytes (type : Nat) : Nat := match type with | 0 => 4 | 1 => 2 | 2 => 4 | _ => 8

end Sys2Proof.Machine
end

