-- ==== Sys2Proof/Machine/BrickBase.lean ====
section
/-! DEFINITION. Engine instructions and address streams of a brick: their fields and which of them are malformed (R102, R141), where a
`STORE` places its elements (R233), the cycles in which an issued instruction reads and writes (R143), and the transfers that an
issued product holds back (R109). Engines are 0 tile, 1 MV path, 2 vector unit, 3 store path. -/

namespace Sys2Proof.Machine

/-! ## Instruction words (Tables 4-2 to 4-10) -/

/-- `OP`. -/
def eOp (w : Nat) : Nat := nbits w 63 58

/-- Functions of Table 4-8. -/
def vopFuncs : List Nat := [0x00, 0x01, 0x02, 0x03, 0x04, 0x05, 0x06, 0x07, 0x08, 0x09, 0x0A, 0x0B, 0x10, 0x11, 0x12, 0x13, 0x14]

/-- `FUNC` of a `VOP`. -/
def vFunc (w : Nat) : Nat := nbits w 57 52

/-- Is a function a row function? -/
def rowFunc (f : Nat) : Bool := 0x10 ≤ f && f ≤ 0x14

/-- Does a function take a second operand? -/
def twoOperand (f : Nat) : Bool := [0x01, 0x02, 0x03, 0x08, 0x13, 0x14].contains f

/-- `SRC` of a `VOP`. -/
def vSrc (w : Nat) : Nat := nbits w 51 50

/-- `COUNT` of a `VOP`. -/
def vCount (w : Nat) : Nat := nbits w 37 22

/-- Elements of a unit of a `VOP`'s operands: 32 of an accumulator row, 64 in the Bed. With `SRC` 0 the second operand's units are
read as 128 bytes of BF16 of which the first 32 elements count, since Table 5-6 says only "As VA" (DESIGN CHOICE, log 23). -/
def vPer (w : Nat) : Nat := if vSrc w = 0 then 32 else 64

/-- Bytes of a weight bank. -/
def bankBytes (fmt : Nat) : Nat := if 5 ≤ fmt then 2048 else 1024

/-- Input channels per row. -/
def tileInputs (fmt : Nat) : Nat := if fmt = 3 || fmt = 4 then 64 else 32

/-- Cycles per row. -/
def tileCycles (w : Nat) : Nat := if 5 ≤ w then 4 else 1

/-- Bytes of the elements of a count in a format. -/
def packBytes (fmt n : Nat) : Nat := (n * fmtBits fmt + 7) / 8

/-- Accumulator row of row i of a `TMUL` (R104). -/
def accRow (base span i : Nat) : Nat := (base + i % span) % 1024

/-- `KBLK`, decoded. -/
def mvBlocks (w : Nat) : Nat := if nbits w 34 30 = 0 then 32 else nbits w 34 30

/-- Cycles per output (Table 4-7). -/
def mvCycles (fmt kblk : Nat) : Nat := if fmt ≤ 2 then kblk else if fmt ≤ 4 then (kblk + 1) / 2 else 2 * kblk

/-- Cycles of one row of a row function (Table 4-6). -/
def rowCycles (len : Nat) : Nat := 12 + 2 * ((len + 63) / 64)

/-- Is a word an instruction of an engine whose opcode, reserved fields and ranges are right (R102, R103 to R121)? What depends on the
brick's state or on a stream is checked at issue. -/
def engineWord (e w : Nat) : Bool :=
  let off := nbits w 18 0
  let fits (n : Nat) : Bool := off % 64 = 0 && off + n ≤ 2 ^ 19
  if e = 0 then
    (eOp w = 1 && nbits w 56 54 ≠ 7 && nbits w 53 19 = 0 && fits (bankBytes (nbits w 56 54)))
      || (eOp w = 2 && nbits w 56 54 ≠ 7 && nbits w 51 48 = 0 && nbits w 10 0 = 0 && nbits w 47 32 ≠ 0 && nbits w 21 11 ≠ 0
        && nbits w 21 11 ≤ 1024)
  else if e = 1 then
    (eOp w = 3 && nbits w 57 50 ≠ 0 && nbits w 49 38 ≠ 0 && nbits w 49 38 ≤ 2048 && nbits w 37 27 + nbits w 49 38 ≤ 2048
        && nbits w 26 19 = 0 && fits (npop (nbits w 57 50) 8 * nbits w 49 38 * 2))
      || (eOp w = 4 && nbits w 56 48 = 0 && nbits w 15 0 = 0 && nbits w 31 16 % 16 = 0 && nbits w 43 40 = 0)
      || (eOp w = 5 && nbits w 57 55 < 6 && nbits w 54 47 ≠ 0 && nbits w 45 35 + 64 * mvBlocks w ≤ 2048 && nbits w 29 20 ≠ 0
        && nbits w 29 20 ≤ 512 && nbits w 9 0 = 0)
  else if e = 2 then
    (eOp w = 6 && vopFuncs.contains (vFunc w) && vSrc w ≠ 3 && !nbit w 48 && nbits w 21 0 = 0 && vCount w ≠ 0)
      || (eOp w = 7 && nbits w 57 56 < 2 && nbits w 55 19 = 0 && fits (if nbits w 57 56 = 0 then 4096 else 64))
  else
    eOp w = 8 && nbits w 57 56 ≠ 3 && nbits w 52 50 ≠ 7 && nbits w 46 31 ≠ 0 && nbits w 20 15 ≠ 0 && nbits w 20 15 ≤ 32
      && nbits w 14 0 = 0

/-! ## Address streams (R140, R141) -/

/-- `SPACE` of a descriptor. -/
def SDesc.space (d : SDesc) : Nat := nbits d.w0 63 62

/-- Is it the last of its stream? -/
def SDesc.last (d : SDesc) : Bool := nbit d.w0 61

/-- `COUNT`. -/
def SDesc.count (d : SDesc) : Nat := nbits d.w1 31 16

/-- `REP`. -/
def SDesc.rep (d : SDesc) : Nat := nbits d.w2 31 16

/-- `BASE`, `STRIDE` and `OUTER`. -/
def SDesc.base (d : SDesc) : Nat := nbits d.w0 43 0
def SDesc.stride (d : SDesc) : Int := signedN 32 (nbits d.w1 63 32)
def SDesc.outer (d : SDesc) : Int := signedN 32 (nbits d.w2 63 32)

/-- Address of unit k; a global address carries its device number. A local address that leaves its 44 bits wraps, of which R140 says
nothing (DESIGN CHOICE, log 70); a Bed address that does lies past the Bed. -/
def SDesc.unit (d : SDesc) (k : Nat) : Nat :=
  let a : Int := (d.base : Int) + (k % d.count : Nat) * d.stride + (k / d.count : Nat) * d.outer
  if d.space = 2 then nbits d.w0 55 44 * 2 ^ 52 + (a % (2 ^ 44 : Nat)).toNat
  else if d.space = 1 then (a % 1024).toNat
  else if d.space = 3 then (a % (2 ^ 32 : Nat)).toNat
  else (if a < 0 then 2 ^ 44 else a.toNat)

/-- Fields of a descriptor out of range. -/
def SDesc.bad (d : SDesc) : Bool :=
  nbits d.w0 60 56 ≠ 0 || (d.space ≠ 2 && nbits d.w0 55 44 ≠ 0) || d.count = 0 || d.rep = 0 || nbits d.w1 15 0 ≠ 0
    || nbits d.w2 15 0 ≠ 0 || d.w3 ≠ 0 || (d.space = 0 && 2 ^ 19 ≤ d.base) || (d.space = 1 && 1024 ≤ d.base)
    || (d.space = 3 && 2 ^ 32 ≤ d.base)

/-- Are all addresses of a descriptor multiples of `align`? Those of `BASE` and of the steps it takes are enough. -/
def SDesc.aligned (d : SDesc) (align : Nat) : Bool :=
  d.base % align = 0 && (d.count = 1 || d.stride % (align : Int) = 0) && (d.rep = 1 || d.outer % (align : Int) = 0)

/-- The corner units of a descriptor. -/
def SDesc.corners (d : SDesc) : List Nat :=
  let c := d.count
  [0, c - 1, c * (d.rep - 1), c * d.rep - 1].map d.unit

/-- The complete stream at the head of a FIFO, with what follows it. -/
def takeStream : List SDesc → Option (List SDesc × List SDesc)
  | [] => none
  | d :: ds => if d.last then some ([d], ds) else match takeStream ds with
    | some r => some (d :: r.1, r.2)
    | none => none

/-- All units of a stream, in order. -/
def unitsOf (ds : List SDesc) : List Nat := ds.flatMap fun d => (List.range (d.count * d.rep)).map d.unit

/-- Number of units. -/
def unitCount (ds : List SDesc) : Nat := ds.foldl (fun n d => n + d.count * d.rep) 0

/-- Does a stream match: the spaces allowed, `units` units, every address aligned and, in the Bed, below 512 KiB (R141)? -/
def streamOk (ds : List SDesc) (spaces : List Nat) (units align size : Nat) : Bool :=
  ds.all (fun d => !d.bad && spaces.contains d.space
    && (d.space = 1 || d.space = 3 || d.aligned align)
    && (d.space ≠ 0 || d.corners.all fun a => a + size ≤ 2 ^ 19)) && unitCount ds = units

/-- Lowest and highest Bed byte of a stream's units. -/
def footprint (ds : List SDesc) (size : Nat) : Nat × Nat :=
  let cs := ds.flatMap SDesc.corners
  (cs.foldl min (2 ^ 19), cs.foldl (fun m a => max m (a + size - 1)) 0)

/-- Every segment of a footprint is present (R107, R115). -/
def Brick.presentIn (b : Brick) (fp : Nat × Nat) : Bool := b.absent.all fun g => g < fp.1 / 2048 || fp.2 / 2048 < g

/-! ## Where the elements of a `STORE` go (Table 8-6, R233) -/

/-- One placed element: the address of its byte, whether it is a nibble (and which), and its bits. -/
structure Placed where
  addr : Nat
  nib : Option Nat
  bits : Nat
deriving DecidableEq, Repr

/-- Where element j of row i goes; row i's unit by `u`. -/
def placeElem (layout fmt : Nat) (u : Nat → Nat) (i j bits : Nat) : Placed :=
  let four := fmtBits fmt = 4
  let z := fmtBits fmt / 8
  let at_ (a k : Nat) : Placed := ⟨a, if four then some (k % 2) else none, bits⟩
  match layout with
  | 1 => if four then at_ (u (i / 32 * 32 + j) + i % 32 / 2) (i % 32) else at_ (u (i / 32 * 32 + j) + i % 32 * z) 0
  | 2 => if four then at_ (u i + (j / 16 * 256 + j % 16) / 2) j else at_ (u i + (j / 16 * 256 + j % 16) * z) 0
  | 4 => if four then at_ (u i + j / 2 * 32) j else at_ (u i + j * 32 * z) 0
  | 5 => if four then at_ (u (i / 2 * 2) + j) i else at_ (u i + j * z) 0
  | 6 => at_ (u i + 32 * j) 0
  | _ => if four then at_ (u i + j / 2) j else at_ (u i + j * z) 0

/-- Alignment of a layout's units (Table 8-6, R166): it asks none of COL and KVPG. -/
def unitAlign (layout fmt : Nat) : Nat :=
  let z := max 1 (fmtBits fmt / 8)
  match layout with
  | 1 => 1 | 2 => max 1 (16 * fmtBits fmt / 8) | 3 => max 1 (32 * fmtBits fmt / 8) | 5 => 32 | 6 => 1 | _ => z

/-- Constraints of Table 8-6, R166 and R167 that a `STORE` breaks. -/
def storeBad (layout fmt rows cols : Nat) (rope : Bool) (headDim : Nat) (units : List Nat) : Bool :=
  let four := fmtBits fmt = 4
  (four && [0, 2, 3, 4].contains layout && cols % 2 ≠ 0) || (layout = 1 && rows % 32 ≠ 0) || (layout = 4 && fmt = 7)
    || (layout = 5 && (6 ≤ fmt || (fmt = 5 && 16 < cols) || (four && rows % 2 ≠ 0)))
    || (layout = 6 && (3 ≤ fmt || units.any fun u => nbits u 9 5 ≠ 0))
    || (rope && (cols ≠ 32 || headDim % 32 ≠ 0 || headDim = 0 || rows % (headDim / 32) ≠ 0))

/-- Bytes that element j of row i of a `STORE` stands in. -/
def elemAt (layout fmt : Nat) (u : Nat → Nat) (i j : Nat) : Nat × Nat := ((placeElem layout fmt u i j 0).addr, max 1 (fmtBits fmt / 8))

/-! ## The course of an issued instruction (R143) -/

/-- Units in one row of a row function's operand a, or in all of an element function's. -/
def Job.unitsPer (j : Job) : Nat := (j.len + vPer j.ins.word - 1) / vPer j.ins.word

/-- Reads that an instruction makes. -/
def Job.reads (j : Job) : Nat :=
  let w := j.ins.word
  if j.eng = 4 then 0
  else match eOp w with
    | 1 => 1 | 2 => nbits w 47 32 | 3 => 1 | 5 => nbits w 29 20 * mvBlocks w | 6 => j.n | 7 => 1 | 8 => nbits w 46 31
    | _ => 0

/-- Writes that it makes. -/
def Job.writes (j : Job) : Nat :=
  let w := j.ins.word
  if j.eng = 4 then 1
  else match eOp w with
    | 1 => 1 | 2 => nbits w 47 32 | 3 => 1 | 5 => if j.dst = 0 then nbits w 29 20 else 1
    | 6 => if rowFunc (vFunc w) then j.n / max 1 j.unitsPer else j.n
    | 7 => 1 | 8 => nbits w 46 31 | _ => 0

/-- Cycle of read k. Table 5-8 gives none for a load of a bank, a latch or a table, taken at issue, nor for an `MVMUL`'s reads, taken
from issue + 2 on at the rate of the MV port (DESIGN CHOICE, log 70). -/
def Job.readAt (j : Job) (k : Nat) : Nat :=
  let w := j.ins.word
  match eOp w with
  | 2 => j.t0 + 2 + k * tileCycles j.fmt
  | 5 => j.t0 + 2 + k / mvBlocks w * mvCycles (nbits w 57 55) (mvBlocks w) + k % mvBlocks w * packBytes (nbits w 57 55) 64 / 64
  | 6 => if rowFunc (vFunc w) then j.t0 + 2 + k / max 1 j.unitsPer * rowCycles j.len + k % max 1 j.unitsPer else j.t0 + 2 + k
  | 8 => j.t0 + 2 + k
  | _ => j.t0

/-- Cycle of write k (Table 5-8). -/
def Job.writeAt (j : Job) (k : Nat) : Nat :=
  let w := j.ins.word
  if j.eng = 4 then j.t0 + 20
  else match eOp w with
    | 1 => j.t0 + 32
    | 2 => j.t0 + 14 + k * tileCycles j.fmt
    | 3 => j.t0 + 2 + (npop (nbits w 57 50) 8 * nbits w 49 38 + 31) / 32
    | 5 => j.t0 + 10 + (if j.dst = 0 then k + 1 else nbits w 29 20) * mvCycles (nbits w 57 55) (mvBlocks w)
    | 6 => if rowFunc (vFunc w) then j.t0 + (k + 1) * rowCycles j.len else j.t0 + (if 5 ≤ vFunc w then 10 else 4) + k
    | 7 => j.t0 + 2 + (if nbits w 57 56 = 0 then 16 else 1)
    | _ => j.t0 + 2 + k + (if nbit w 49 then 12 else 8)

/-- Cycle of its last write. -/
def Job.ends (j : Job) : Nat := j.writeAt (j.writes - 1)

/-- Does write k, or one after it up to the last, go to a location the monitor tracks (R145)? Spaces: 0 Bed word, 1 accumulator row, 2
result-buffer output, 3 parameter block. -/
def Job.writesTo (j : Job) (space addr : Nat) : Bool :=
  let w := j.ins.word
  let rest := (List.range (j.writes - j.wr)).map (j.wr + ·)
  if j.eng = 4 then space = 0 && j.units.any fun a => a / 8 * 8 = addr
  else match eOp w with
    | 2 => space = 1 && rest.any fun k => accRow (nbits w 31 22) (nbits w 21 11) k = addr
    | 5 => space = 2 && j.dst = 0 && nbits w 18 10 + j.wr ≤ addr && addr < nbits w 18 10 + nbits w 29 20
    | 7 => space = 3 && nbits w 57 56 = 1
    | 8 => space = 0 && !nbit w 47 && rest.any fun k => (List.range (nbits w 20 15)).any fun c =>
        let e := elemAt (nbits w 52 50) (nbits w 55 53) (fun u => j.units.getD u 0) k c
        e.1 < addr + 8 && addr < e.1 + e.2
    | _ => false

/-- The instructions in a queue, as they would run with the streams that stand in the FIFOs now: what they will write (R144). `ds` and
`dst` are the FIFO that feeds the engine's addresses and the MV path's `DST`, as the instructions before leave them. -/
def queuedJobs (e : Nat) : List EIns → List SDesc → Nat → List Job
  | [], _, _ => []
  | i :: is, ds, dst =>
    let takes := (e = 0 && eOp i.word = 2) || (e = 1 && eOp i.word = 5) || (e = 3 && eOp i.word = 8)
    let st := if takes then (takeStream ds).getD (ds, []) else ([], ds)
    let dst' := if e = 1 && eOp i.word = 4 then nbits i.word 57 57 else dst
    { ins := i, eng := e, t0 := 0, units := unitsOf st.1, dst := dst' } :: queuedJobs e is st.2 dst'

/-- Everything pushed and not yet ended, in queues or issued. -/
def Brick.outstanding (b : Brick) : List Job :=
  b.jobs ++ queuedJobs 0 (b.queues.getD 0 []) (b.fifos.getD 0 []) 0 ++ queuedJobs 1 (b.queues.getD 1 []) (b.fifos.getD 1 []) b.mvDst
    ++ queuedJobs 2 (b.queues.getD 2 []) [] 0 ++ queuedJobs 3 (b.queues.getD 3 []) (b.fifos.getD 4 []) 0

/-- Is a read of a location by an instruction at a place in program order early: is a write of it, earlier in that order, still to be
made (R144)? -/
def Brick.early (b : Brick) (order space addr : Nat) : Bool := b.outstanding.any fun j => j.ins.order < order && j.writesTo space addr

/-- Is it overtaken: has a write later in program order been made? -/
def Brick.overtaken (b : Brick) (order space addr : Nat) : Bool :=
  b.marks.any fun m => m.space = space && m.addr = addr && order < m.order

/-- A write is made. It is kept in mind while instructions before it in program order are outstanding. -/
def Brick.mark (b : Brick) (space addr order : Nat) : Brick :=
  let before (o : Nat) : Bool := b.outstanding.any fun j => j.ins.order < o
  { b with marks := (b.marks.filter fun m => before m.order) ++ if before order then [⟨space, addr, order⟩] else [] }

/-! ## Transfers into the Bed (R100, R109) -/

/-- The segments that `[off, off + n)` touches. -/
def segsOf (off n : Nat) : List Nat :=
  if n = 0 then [] else (List.range ((off + n - 1) / 2048 - off / 2048 + 1)).map (off / 2048 + ·)

/-- Does an issued `TMUL` or `MVMUL` with rows still to be read have a segment of the range in its footprint? -/
def Brick.readsIn (b : Brick) (off n : Nat) : Bool :=
  b.jobs.any fun j => (eOp j.ins.word = 2 || eOp j.ins.word = 5) && j.eng < 2 && j.rd < j.reads
    && 0 < n && j.lo / 2048 ≤ (off + n - 1) / 2048 && off / 2048 ≤ j.hi / 2048

/-- A transfer is admitted: `PRESENT` of its segments is cleared, and it is held while an issued product reads there. -/
def Brick.takeInbound (b : Brick) (x : Inbound) : Brick :=
  { b with inbound := b.inbound ++ [{ x with held := b.readsIn x.off x.data.length }]
           absent := b.absent ++ (segsOf x.off x.data.length).filter fun g => !b.absent.contains g }

/-- A transfer has landed: a segment with no other one admitted is present again. -/
def Brick.landed (b : Brick) (k : Nat) : Brick :=
  let rest := b.inbound.eraseIdx k
  { b with inbound := rest, absent := b.absent.filter fun g => rest.any fun y => (segsOf y.off y.data.length).contains g }

end Sys2Proof.Machine
end

