-- ==== Sys2Proof/Machine/LinkBase.lean ====
section
/-! DEFINITION. Messages to and from other devices: routing, credits, TIDs and sending (R367 to R370), what they cost
(R279), writes of a piece of work on another device, and responses to other devices' requests. -/

namespace Sys2Proof.Machine

/-- The `QLK_REACH` bit of a device. -/
def State.reaches (s : State) (l dev : Nat) : Bool := s.bit (F.QLK_REACH_REACH.nth (dev / 32)) (dev % 32) l

/-- The link a request takes, or the status it fails with (R370). A quiesced link takes no new work (Table 2-5): none is
answered where every link that is up is quiesced, and the request waits. -/
def State.route (s : State) (dev addr : Nat) : Except Nat (Option Nat) :=
  let reach := (List.range 64).filter fun l => s.present .qlk l && s.reaches l dev
  let up := reach.filter s.linkUp
  let open_ := up.filter fun l => !s.quiesced .qlk l
  if reach = [] then .error St.noRoute
  else if up = [] then .error St.linkDown
  else .ok (open_[addr % 2 ^ 44 / 4096 % open_.length]?)

/-- 16-byte data slots of a request (R369). -/
def QMsg.slots (m : QMsg) : Nat := if m.top = 2 || m.top = 3 then (m.len + 15) / 16 else 0

/-- Frames that carry a message. -/
def QMsg.frames (m : QMsg) : Nat := (m.slots + 30) / 30

/-- Header credit available to send (R367). -/
def QLink.creditH (x : QLink) : Nat := (x.gotH + 512 + 1024 - x.usedH % 1024) % 1024

/-- Data-slot credit available to send. -/
def QLink.creditD (x : QLink) : Nat := (x.gotD + 8192 + 16384 - x.usedD % 16384) % 16384

/-- Management credit available to send. -/
def QLink.creditM (x : QLink) : Nat := (x.gotM + 64 + 256 - x.usedM % 256) % 256

/-- Send one data frame: a new `FSEQ`, kept for replay, under the next `TXCTR` (R363, R365, R374). A key frame (kind 3) is sequenced in
the same way, in clear and under no counter (R375). -/
def State.sendFrame (s : State) (l : Nat) (kind : Nat := 0) : State :=
  let x := s.qlink l
  let t := s.setQlink l { x with txNext := (x.txNext + 1) % 4096, replay := x.replay ++ [x.txNext] }
  let t := if kind = 3 then t else
    let u := t.setPair A.QLK_TXCTR_LO A.QLK_TXCTR_HI (t.getPair A.QLK_TXCTR_LO A.QLK_TXCTR_HI l + 1) l
    u.setPair A.QLK_TXF_LO A.QLK_TXF_HI (u.getPair A.QLK_TXF_LO A.QLK_TXF_HI l + 1) l
  t.emit (.frame l kind x.txNext)

/-- A name for a message in what leaves the block. -/
def topName (top : Nat) : String :=
  match top with
  | 1 => "RRD" | 2 => "RWR" | 3 => "RADD" | 4 => "OWNRD" | 8 => "RACK" | 9 => "RDAT" | _ => "KXMSG"

/-- Transaction numbers of a link: TIDs are 12 bits wide. -/
def tidCount : Nat := 4096

/-- Frames a link's replay buffer holds. -/
def replayFrames : Nat := 1024

/-- The next free TID of a link from its counter on: one of no outstanding request and of none abandoned. -/
@[irreducible] def State.freeTid (s : State) (l : Nat) (x : QLink) : Option Nat :=
  ((List.range tidCount).map fun k => (x.tid + k) % tidCount).find? fun t =>
    !s.lk.discard.contains (l, t) && !x.sent.any fun e => e.1 = t

/-- Send the oldest waiting requests of a link while credit, a TID and replay room last (R365, R368, R369). -/
def State.sendWaiting (s : State) (l : Nat) : Nat → State
  | 0 => s
  | n + 1 =>
    let x := s.qlink l
    match x.waiting with
    | [] => s
    | m :: ms =>
      if s.linkUp l && !s.linkStill l && 1 ≤ x.creditH && m.slots ≤ x.creditD && x.sent.length < tidCount
          && x.replay.length + m.frames ≤ replayFrames then
        match s.freeTid l x with
        | none => s
        | some tid =>
          let t := s.setQlink l { x with waiting := ms, sent := x.sent ++ [(tid, m)], tid := (tid + 1) % tidCount
                                         usedH := x.usedH + 1, usedD := x.usedD + m.slots }
          let t := (List.range m.frames).foldl (fun u _ => u.sendFrame l) t
          (t.emit (.message l (topName m.top) tid 0 m.data)).sendWaiting l n
      else s

/-- Bytes of a request's slots and of its response's, which the LINK regulator charges (R279, R369). -/
def QMsg.cost (m : QMsg) : Nat := 16 * (1 + m.slots) + 16 * (1 + if m.top = 1 || m.top = 4 then (m.len + 15) / 16 else 0)

/-- A request that is paid for takes its place on a link; it waits there, and goes as soon as it may; or the status it fails with. -/
def State.placeRemote (s : State) (m : QMsg) : Nat × State :=
  match s.route (devOf m.addr) m.addr with
  | .error c => (c, s)
  | .ok none => (0, { s with lk := { s.lk with held := s.lk.held ++ [m] } })
  | .ok (some l) =>
    let x := s.qlink l
    (0, (s.setQlink l { x with waiting := x.waiting ++ [m] }).sendWaiting l 4096)

/-- A request sets out: it waits for its partition's LINK regulator before it takes anything else (R280), then for its link; or the
status it fails with. -/
def State.sendRemote (s : State) (m : QMsg) : Nat × State :=
  match s.route (devOf m.addr) m.addr with
  | .error c => (c, s)
  | .ok _ =>
    if s.fare m.part 2 m.cost = .waits then
      (0, { s.bump (rgWait 2) 1 m.part with lk := { s.lk with unpaid := s.lk.unpaid ++ [m] } })
    else (s.takeFare m.part 2 m.cost).placeRemote m

/-- Requests taken from a list set out again by `f`; those that no link can carry are left over. -/
def resend (f : State → QMsg → Nat × State) (ms : List QMsg) (s : State) : List QMsg × State :=
  ms.foldl (fun u m => match f u.2 m with
    | (0, v) => (u.1, v)
    | (_, v) => (u.1 ++ [m], v)) ([], s)

/-- The pieces of `[a, a + n)` that lie within aligned 256-byte blocks (R369). -/
def blocks256 (a n : Nat) : List (Nat × Nat) :=
  if n = 0 then []
  else (List.range ((a + n - 1) / 256 - a / 256 + 1)).map fun k =>
    let lo := max a ((a / 256 + k) * 256)
    (lo, min (a + n) ((a / 256 + k + 1) * 256) - lo)

/-- Write bytes on another device for a piece of work: an `RWR` (or `RADD` of `type`) for each 256-byte block. -/
def State.writeRemote (s : State) (o : Own) (part ga : Nat) (bs : List Byte) (top : Nat := 2) (type : Nat := 0) : State :=
  (blocks256 ga bs.length).foldl (fun t b =>
    let m : QMsg := { top := top, addr := b.1, part := part, type := type, len := b.2
                      data := sliceB bs (b.1 - ga) b.2, use := .ack (.work [o]) }
    match t.sendRemote m with
    | (0, u) => u.oweAck o 1
    | (c, u) => (u.workFail o c).loseBytes o b.2) s

/-! ## Responses to other devices -/

/-- Send the oldest responses that wait, while the replay buffer has room. -/
def State.sendAnswers (s : State) (l : Nat) : Nat → State
  | 0 => s
  | n + 1 =>
    let x := s.qlink l
    match x.answers with
    | [] => s
    | a :: rest =>
      let frames := ((a.2.2.2.length + 15) / 16 + 30) / 30
      if s.linkUp l && !s.linkStill l && x.replay.length + frames ≤ replayFrames then
        let t := s.setQlink l { x with answers := rest }
        let t := (List.range frames).foldl (fun u _ => u.sendFrame l) t
        (t.emit (.message l (topName a.1) a.2.1 a.2.2.1 a.2.2.2)).sendAnswers l n
      else s

/-- Send the oldest key messages that wait, while management credit and replay room last (R367, R376). -/
def State.sendMgt (s : State) (l : Nat) : Nat → State
  | 0 => s
  | n + 1 =>
    let x := s.qlink l
    match x.mgt with
    | [] => s
    | m :: rest =>
      let frames := ((m.2 + 15) / 16 + 30) / 30
      if s.linkUp l && !s.linkStill l && 1 ≤ x.creditM && x.replay.length + frames ≤ replayFrames then
        let t := s.setQlink l { x with mgt := rest, usedM := (x.usedM + 1) % 256 }
        let t := (List.range frames).foldl (fun u _ => u.sendFrame l) t
        (t.emit (.message l m.1 0 0 [])).sendMgt l n
      else s

/-- What waits on a link goes on. -/
def State.linkGo (s : State) (l : Nat) : State :=
  let t := s.sendMgt l (s.qlink l).mgt.length
  let t := t.sendAnswers l (t.qlink l).answers.length
  t.sendWaiting l (t.qlink l).waiting.length

/-- A response waits to be sent, and what the request held is free again (R367). -/
def State.answer (s : State) (l top tid status : Nat) (data : List Byte) (slots : Nat) : State :=
  let x := s.qlink l
  (s.setQlink l { x with answers := x.answers ++ [(top, tid, status, data)], freedH := (x.freedH + 1) % 1024
                         freedD := (x.freedD + slots) % 16384 }).linkGo l

/-- An owner-table entry as another device may see it: null where it names memory here that its partition does not own
(R372). -/
def State.ownerEntry (s : State) (p e : Nat) : Nat :=
  if devOf e = s.dv.devNum && s.placeStatus (.part p) false (localOf e) = St.regionNotOwned then 2 ^ 64 - 1 else e

end Sys2Proof.Machine
end

