-- ==== Sys2Proof/Machine/Memory.lean ====
section
/-! DEFINITION. Ordinary accesses to local memory: the checkers that read it, the accesses that computing banks hold (R75 to R77),
the memory-side adders (R82, R83), the merge buffer (R84 to R86), and the end of a command (R257). -/

namespace Sys2Proof.Machine

/-! ## The checkers -/

/-- May a checker rewrite the word in place (R387)? -/
def State.rewritable (s : State) (a : Nat) : Bool := if a < 16 * stackBytes then s.isMutable (granule a) else true

/-- Count a correctable or an uncorrectable word where it lies (Tables 3-16, 3-17, 9-7, 9-8). -/
def State.countEcc (s : State) (w : Nat) (ue : Bool) : State :=
  match s.area w with
  | .stack st =>
    if ue then (s.bump F.STK_UE_CNT_COUNT 1 st).err .stk st 0 (some (s.global w))
    else
      let t := s.bump F.STK_CE_CNT_COUNT 1 st
      if t.getF F.STK_CE_CNT_COUNT st = 65537 then t.err .stk st 1 else t
  | .yard b =>
    let sl := smGet (fun l => l) s.yd.slabOf (b / 512)
    if ue then (s.bump F.YRD_UE_CNT_COUNT 1 sl).err .yrd sl 0 (some (s.global w))
    else
      let t := s.bump F.YRD_CE_CNT_COUNT 1 sl
      if t.getF F.YRD_CE_CNT_COUNT sl = 65537 then t.err .yrd sl 1 else t
  | _ => s

/-- Does the word lie in an Open granule? -/
def State.openWord (s : State) (w : Nat) : Bool := w < 16 * stackBytes && s.isOpen (granule w)

/-- `HASHED` of a granule. -/
def State.isHashed (s : State) (g : Nat) : Bool := nbit (s.region g) 60

/-- Base of the manifest store's part for a slot (R416 step 2). -/
def State.manifestStore (s : State) (m : Nat) : Nat := (if s.dv.gradeC then 12 else 16) * stackBytes - 2 ^ 29 + m * 2 ^ 23

/-- The stored data bits of a 1 MiB block. -/
def State.blockBits (s : State) (block : Nat) : List Byte :=
  ({ s with mem := s.mem.filter fun c => block ≤ c.1 && c.1 < block + 2 ^ 20 } : State).bytes block (2 ^ 20)

/-- Do the stored data bits of a hashed block differ from its manifest entry (R393)? -/
def State.hashDiffers (s : State) (block : Nat) : Bool :=
  let e := s.region (granule block)
  decide (sha3 (s.blockBits block) ≠
    s.okBytes (s.manifestStore (nbits e 52 47) + 32 * (e % 2 ^ 32 + block % 2 ^ 26 / 2 ^ 20)) 32)

/-- An Open fault is found (R392 to R394): it is counted, captured and waits to be marked; a hashed block waits for its
reload, and one that already waits is not found again. `since` is the last step admitted before the sweep visit that counts
(R398). Kinds: 0 correctable, 1 uncorrectable, 2 poisoned, 3 hash mismatch. -/
def State.openFault (s : State) (w kind since : Nat) : State :=
  let block := w / 2 ^ 20 * 2 ^ 20
  let hashed := s.isHashed (granule w)
  if hashed && s.it.reloads.any (fun e => e.1 = block) then s
  else
    let at_ := if kind = 3 then block else w
    let t := (s.bump F.REG_OPEN_FAULTS_COUNT).err .reg 0 1 (some (s.global at_))
    let t := if hashed then t.err .reg 0 3 (some (s.global block)) else t
    let t := if hashed && (kind = 3 || s.hashDiffers block) then t.bump F.REG_HASH_MISMATCH_COUNT else t
    { t with it := { t.it with
        faults := if t.it.faults.any (fun f => f.addr = at_) then t.it.faults else t.it.faults ++ [⟨at_, kind, since⟩]
        reloads := if hashed then t.it.reloads ++ [(block, 0)] else t.it.reloads } }

/-- The last steps admitted when a granule's latest sweep visit and the one before it began. -/
def State.visits (s : State) (g : Nat) : Nat × Nat := match s.it.visitStep.find? fun e => e.1 = g with
  | some e => e.2
  | none => (0, 0)

/-- Does an ordinary read put a correctable word right in place? A Yard word (R273), and a word of an Open granule outside the
hashed blocks (R392, R394); other words are delivered corrected and stay as they are until the scrub meets them (R391). -/
def State.rightsInPlace (s : State) (w : Nat) : Bool :=
  if w < 16 * stackBytes then s.openWord w && !s.isHashed (granule w) else yardBase ≤ w

/-- A checker of an ordinary read meets the word at `w`: it counts it, puts it right where `rightsInPlace` says, or marks an
uncorrectable one poisoned where it may (R382, R387), and reports an Open fault (R394). -/
def State.checkWord (s : State) (w : Nat) : State :=
  let report (kind : Nat) (t : State) : State := if s.openWord w then t.openFault w kind (s.visits (granule w)).1 else t
  match s.ecc w with
  | .clean => s
  | .poisoned => report 2 s
  | .uncorrectable => report 1 ((if s.rewritable w then s.poisonWord w else s).countEcc w true)
  | _ => report 0 ((if s.rightsInPlace w then s.correctWord w else s).countEcc w false)

/-! ## The merge buffer as readers see it (R85) -/

/-- The merge-buffer entry of a line. -/
def State.mergeOf (s : State) (a : Nat) : Option MEntry := s.bk.merge.find? fun e => e.line = a / 64

/-- One byte of the stored word or, where the merge buffer holds it, of its entry. -/
def State.mergedByte (s : State) (a : Nat) : Byte :=
  match s.mergeOf a with
  | some e => smGet (fun _ => s.okByte a) e.bytes (a % 64)
  | none => s.okByte a

/-- Does the merge buffer hold every byte of the word at `w`? -/
def State.wordMerged (s : State) (w : Nat) : Bool :=
  match s.mergeOf w with
  | some e => (List.range 8).all fun k => e.bytes.any fun b => b.1 = w % 64 + k
  | none => false

/-- Does a read of the word at `w` find it poisoned? -/
def State.wordBad (s : State) (w : Nat) : Bool := (s.ecc w).bad && !s.wordMerged w

/-! ## Carrying out an access on the stored words -/

/-- Write the given ones of a word's eight bytes: a whole word takes fresh check bits; otherwise the word is read, corrected and
merged, or, where it is uncorrectable, stays poisoned, the bytes dropped and the loss counted (R84, R86, R389). -/
def State.putWord (s : State) (w : Nat) (xs : List (Option Byte)) : State × Bool :=
  let put (t : State) : State :=
    { t with mem := (xs.zipIdx).foldl (fun m p => match p.1 with
        | some b => memPut m (w + p.2) b
        | none => m) t.mem }
  if xs.all Option.isNone then (s, false)
  else if xs.all Option.isSome && xs.length = 8 then ((put s).setSynd w 0, false)
  else if (s.ecc w).bad then
    let t := s.poisonWord w
    (if w < 16 * stackBytes then
      (t.bump F.STK_MERGE_POISON_COUNT 1 (s.heldBy w)).err .stk (s.heldBy w) 4 (some (s.global w)) else t, true)
  else (put (s.correctWord w), false)

/-- Write a run of bytes, word by word (`n` words at most); the flag says that bytes were dropped. -/
def State.putRun (s : State) (a : Nat) (xs : List (Option Byte)) : Nat → State × Bool
  | 0 => (s, false)
  | n + 1 =>
    if xs = [] then (s, false)
    else
      let k := 8 - a % 8
      let part := List.replicate (a % 8) none ++ xs.take k
      let r := s.putWord (a / 8 * 8) (part ++ List.replicate (8 - part.length) none)
      let t := r.1.putRun (a + k) (xs.drop k) n
      (t.1, r.2 || t.2)

/-- Add one element to the stored word where it is not poisoned; the flag reports poison (R82, R83). -/
def State.addStored (s : State) (type a v : Nat) : State × Bool :=
  let n := msBytes type
  let t := s.checkWord (a / 8 * 8)
  if t.wordBad (a / 8 * 8) then (t, true)
  else ((t.putRun a ((leBytes (msAdd type (leNat ((List.range n).map fun k => t.mergedByte (a + k))) v) n).map some) 1).1, false)

/-- Carry out an access: its status, the bytes read and the state after. -/
def State.perform (s : State) (x : Access) : Nat × List Byte × State :=
  let st (bad : Bool) : Nat := if bad then St.poisonConsumed else St.ok
  if x.op = 0 then
    let ws := wordsOf x.addr x.len
    (st (ws.any s.wordBad), (List.range x.len).map fun k => s.mergedByte (x.addr + k),
      (ws.filter fun w => !s.wordMerged w).foldl State.checkWord s)
  else if x.op = 1 then
    let r := s.putRun x.addr x.data (x.len / 8 + 2)
    (st r.2, [], x.bad.foldl State.poisonWord r.1)
  else if x.op = 3 then (St.ok, [], s)
  else
    let n := msBytes x.type
    let r := (List.range (x.len / n)).foldl (fun (acc : State × Bool) i =>
      let y := acc.1.addStored x.type (x.addr + i * n) (leNat (((x.data.drop (i * n)).take n).map fun b => b.getD 0))
      (y.1, acc.2 || y.2)) (s, false)
    (st r.2, [], r.1)

/-! ## Accesses at computing banks (R75 to R77) -/

/-- Memory as it stands once every held access has been served: what a read that arrives now returns, since a bank serves its
accesses in the order of arrival. -/
def State.asServed (s : State) : State :=
  let go (t : State) (h : Held) : State := if h.acc.op = 0 || h.acc.op = 3 then t else (t.perform h.acc).2.2
  s.bk.queued.foldl (fun t e => go t e.2) (s.bk.runs.foldl (fun t r => r.2.held.foldl go t) s)

/-- One byte as an ordinary read returns it. -/
def State.rdByte (s : State) (a : Nat) : Byte := s.asServed.mergedByte a

/-- Does any word under `[a, a + n)` read as poisoned? -/
def State.readBad (s : State) (a n : Nat) : Bool := (wordsOf a n).any s.asServed.wordBad

/-- A read of local `[a, a + n)` by a piece of work: the bytes, whether any word is poisoned, and the state after the checkers. -/
def State.readB (s : State) (a n : Nat) : List Byte × Bool × State :=
  let v := s.asServed
  let ws := wordsOf a n
  ((List.range n).map fun k => v.mergedByte (a + k), ws.any v.wordBad,
    (ws.filter fun w => !s.wordMerged w && s.syndOf w = v.syndOf w).foldl State.checkWord s)

/-- A read of a little-endian number. -/
def State.readN (s : State) (a n : Nat) : Nat × Bool × State :=
  let r := s.readB a n
  (leNat r.1, r.2.1, r.2.2)

/-- The part of an access within `[lo, lo + n)`. -/
def Access.cut (x : Access) (lo n : Nat) : Access :=
  { x with addr := lo, len := n, data := (x.data.drop (lo - x.addr)).take n
           bad := x.bad.filter fun w => lo < w + 8 && w < lo + n }

/-- Pieces of `[a, a + n)` within aligned blocks of `u` bytes. -/
def piecesOf (u a n : Nat) : List (Nat × Nat) :=
  if n = 0 then []
  else (List.range ((a + n - 1) / u - a / u + 1)).map fun k =>
    let lo := max a ((a / u + k) * u)
    (lo, min (a + n) ((a / u + k + 1) * u) - lo)

/-- An access reaches the bank of its row: a pass that waits there and may start goes first, as it arrived first (R77); a bank in
a pass holds the access under a ticket, as a paused stack's queues do (R476), and none is answered; an unavailable stack answers
with 0x0308 (R96). -/
def State.reach (s : State) (ticket : Nat) (x : Access) : Option (Nat × List Byte) × State :=
  let bk := s.bankAt x.addr
  if !s.stackServes (bk / 1024) then (some (St.stackUnavailable, List.replicate x.len 0), s)
  else if s.paused .stk (bk / 1024) then
    (none, { s with bk := { s.bk with queued := s.bk.queued ++ [(bk, ⟨x, s.now, ticket⟩)] } })
  else
    let t := s.activate bk
    match t.runAt bk with
    | some r =>
      let h : Held := ⟨x, if r.held.length < 8 then t.now else 0, ticket⟩
      (none, t.setRun bk (some { r with held := r.held ++ [h] }))
    | none =>
      let r := t.perform x
      (some (r.1, r.2.1), r.2.2)

/-- Tell the asker of an access how it ended. Work is told what went wrong; firmware delivers the messages it holds wherever a
host's write has made room in their ring (R344). -/
def State.answerAsker (s : State) (k : Asker) (status : Nat) (data : List Byte) : State :=
  match k with
  | .work os => if status = 0 then s else os.foldl (fun t o => t.workFail o status) s
  | .part p => s.emit (.memReply p status data)
  | .read id ga => (if status = 0 then s.remoteBytes id ga data else s.workFail (.cmd id) status).takeAck (.cmd id)
  | .host l kind tid agent part addr len =>
    (if kind = 1 then s else s.ln.held.foldl (fun t e => t.f2hFlush e.1 257) s).hostAnswer l kind tid agent part addr len status data
  | .peer l top tid slots p owners =>
    let d := if top = 8 then [] else if status ≠ 0 then List.replicate data.length 0
      else if owners then (List.range (data.length / 8)).flatMap fun k => leBytes (s.ownerEntry p (fieldB data (8 * k) 8)) 8
      else data
    s.answer l top tid status d slots

/-- The pieces of work that wait for a ticket. -/
def Asker.owners : Asker → List Own
  | .work os => os
  | _ => []

/-- A ticket is made out for an access, `left` pieces of which wait. -/
def State.issueTicket (s : State) (k : Asker) (x : Access) (entry : Option Nat) (left status : Nat) (data : List (Nat × Byte)) : State :=
  let w : Ticket := { id := s.bk.nextTicket, asker := k, entry := entry, addr := x.addr, len := if x.op = 0 then x.len else 0
                      left := left, status := status, data := data }
  let t : State := { s with bk := { s.bk with tickets := s.bk.tickets ++ [w], nextTicket := s.bk.nextTicket + 1 } }
  k.owners.foldl (fun u o => u.oweAck o 1) t

/-- A transfer into a Bed that an issued product still reads is admitted and held until it has landed (R109); any other lands at once. -/
def State.submitBed (s : State) (k : Asker) (x : Access) (entry : Option Nat) (n off : Nat) : State :=
  if x.op ≠ 0 && (s.brick n).readsIn off x.len then
    let b := (s.brick n).takeInbound { off := off, data := x.data.map fun b => b.getD 0, held := true
                                       bad := x.bad.map fun w => w - bedAddr n 0, ticket := some s.bk.nextTicket }
    (s.setBrick n b).issueTicket k x entry 1 0 []
  else
    let r := s.perform x
    r.2.2.answerAsker k r.1 r.2.1

/-- An access to local memory: each of its rows' pieces is carried out or held, and the asker is told when the last is served.
`entry` names the slab queue entry that the access holds meanwhile. -/
def State.submit (s : State) (k : Asker) (x : Access) (entry : Option Nat := none) : State :=
  if 16 * stackBytes ≤ x.addr then
    match s.area x.addr with
    | .bed n => s.submitBed k x entry n ((x.addr - bedBase) % 2 ^ 20)
    | _ =>
      let r := s.perform x
      r.2.2.answerAsker k r.1 r.2.1
  else
    let id := s.bk.nextTicket
    let z : State × Nat × Nat × List (Nat × Byte) := (piecesOf 2048 x.addr x.len).foldl (fun acc p =>
      match acc.1.reach id (x.cut p.1 p.2) with
      | (none, t) => (t, acc.2.1 + 1, acc.2.2.1, acc.2.2.2)
      | (some r, t) => (t, acc.2.1, if acc.2.2.1 = 0 then r.1 else acc.2.2.1,
          acc.2.2.2 ++ (r.2.zipIdx).map fun b => (p.1 + b.2, b.1))) (s, 0, 0, [])
    if z.2.1 = 0 then z.1.answerAsker k z.2.2.1 (z.2.2.2.map (·.2))
    else z.1.issueTicket k x entry z.2.1 z.2.2.1 z.2.2.2

/-- One piece held under a ticket has been served; the last one answers its asker. -/
def State.pieceServed (s : State) (id status addr : Nat) (data : List Byte) : State :=
  match s.bk.tickets.find? fun w => w.id = id with
  | none => s
  | some w =>
    let w := { w with left := w.left - 1, status := if w.status = 0 then status else w.status
                      data := w.data ++ (data.zipIdx).map fun b => (addr + b.2, b.1) }
    let rest := s.bk.tickets.filter fun y => y.id ≠ id
    if w.left ≠ 0 then
      { s with bk := { s.bk with tickets := s.bk.tickets.map fun y => if y.id = id then w else y } }
    else
      let t := ({ s with bk := { s.bk with tickets := rest } } : State).answerAsker w.asker w.status
        ((List.range w.len).map fun i => smGet (fun _ => 0) (w.data.mergeSort fun a b => a.1 ≤ b.1) (w.addr + i))
      w.asker.owners.foldl (fun u o => u.takeAck o) t

/-- Serve one held access (R75, R76): a write is applied whole. -/
def State.serveHeld (s : State) (bk : Nat) (h : Held) : State :=
  let r := s.perform h.acc
  (r.2.2.raiseMax F.STK_HOLD_MAX_NS (s.now - h.arrived) (bk / 1024)).pieceServed h.ticket r.1 h.acc.addr r.2.1

/-- A stack that was paused goes on: its queues' accesses are served, and latch loads that waited take effect (R476). -/
def State.stackResumes (s : State) (st : Nat) : State :=
  let mine := s.bk.queued.filter fun e => e.1 / 1024 = st
  let t : State := { s with bk := { s.bk with queued := s.bk.queued.filter fun e => e.1 / 1024 ≠ st } }
  let t := mine.foldl (fun u e =>
    match u.runAt e.1 with
    | some r => u.setRun e.1 (some { r with held := r.held ++ [{ e.2 with arrived := if r.held.length < 8 then u.now else 0 }] })
    | none =>
      let r := u.perform e.2.acc
      r.2.2.pieceServed e.2.ticket r.1 e.2.acc.addr r.2.1) t
  (t.bk.work.filter fun e => e.1 / 1024 = st).foldl (fun u e => u.latchesLoad e.1) t

/-! ## Writes (R84, R86, R389) -/

/-- Write a merge-buffer entry to DRAM; what was dropped on an uncorrectable word is told to the work it belongs to. -/
def State.mergeOut (s : State) (e : MEntry) : State :=
  let t : State := { s with bk := { s.bk with merge := s.bk.merge.filter fun f => f.line ≠ e.line } }
  t.submit (.work e.owners)
    { op := 1, addr := e.line * 64, len := 64
      data := (List.range 64).map fun k => (e.bytes.find? fun b => b.1 = k).map (·.2) }

/-- Write out every entry that holds bytes of `[a, a + n)`. -/
def State.mergeOutRange (s : State) (a n : Nat) : State :=
  (s.bk.merge.filter fun e => a < e.line * 64 + 64 && e.line * 64 < a + n).foldl State.mergeOut s

/-- A piece of work ends: the entries that hold its writes are written (R84). -/
def State.flushOwn (s : State) (p : Own → Bool) : State :=
  (s.bk.merge.filter fun e => e.owners.any p).foldl State.mergeOut s

/-- Bytes enter the merge buffer for a piece of work, the oldest entry of the stack leaving it where it is full. -/
def State.mergeIn (s : State) (o : Own) (a : Nat) (bs : List Byte) : State :=
  (bs.zipIdx).foldl (fun t p =>
    let x := a + p.2
    match t.mergeOf x with
    | some e =>
      { t with bk := { t.bk with merge := t.bk.merge.map fun f =>
          if f.line = e.line then
            { f with bytes := smPut f.bytes (x % 64) p.1, owners := if f.owners.contains o then f.owners else f.owners ++ [o] }
          else f } }
    | none =>
      let here := t.bk.merge.filter fun e => t.heldBy (e.line * 64) = t.heldBy x
      let t1 := if here.length < 256 then t else match here with
        | e :: _ => t.mergeOut e
        | [] => t
      { t1 with bk := { t1.bk with merge := t1.bk.merge ++ [⟨x / 64, [(x % 64, p.1)], [o]⟩] } }) s

/-- A write by something that ends with it: merged bytes of the range go first, then the write itself. `bad` names the words it
leaves poisoned. -/
def State.writeB (s : State) (a : Nat) (bs : List Byte) (o : Own := .none) (bad : List Nat := []) : State :=
  (s.mergeOutRange a bs.length).submit (.work [o]) { op := 1, addr := a, len := bs.length, data := bs.map some, bad := bad }

/-- A write inside a piece of work that goes on: whole words go through, the rest enters the merge buffer. -/
def State.storeB (s : State) (o : Own) (a : Nat) (bs : List Byte) (bad : List Nat := []) : State :=
  let head := min bs.length ((8 - a % 8) % 8)
  let body := (bs.length - head) / 8 * 8
  if 16 * stackBytes ≤ a || bad ≠ [] then s.writeB a bs o bad
  else
    let t := s.mergeIn o a (bs.take head)
    let t := if body = 0 then t else t.writeB (a + head) ((bs.drop head).take body) o
    t.mergeIn o (a + head + body) (bs.drop (head + body))

/-! ## Memory-side adders (R82, R83) -/

/-- A vector of operands that may be added at `a` (R82): the elements are aligned and lie in stack memory, where the adders are (DESIGN
CHOICE, log 75). -/
def addFits (type a n : Nat) : Bool := type ≤ 3 && a % msBytes type = 0 && n % msBytes type = 0 && a + n ≤ 16 * stackBytes

/-- Add a vector of operands. A piece of work's narrow sums enter the merge buffer at a bank that is idle (R84); otherwise the
elements are added to the stored words. -/
def State.addB (s : State) (k : Asker) (type a : Nat) (bs : List Byte) (entry : Option Nat := none) : State :=
  let n := msBytes type
  match k with
  | .work [o] =>
    if n = 8 then (s.mergeOutRange a bs.length).submit k { op := 2, addr := a, len := bs.length, type := type, data := bs.map some }
    else (List.range (bs.length / n)).foldl (fun t i =>
      let x := a + i * n
      let el := (bs.drop (i * n)).take n
      let u := t.activate (t.bankAt x)
      if (u.runAt (u.bankAt x)).isSome || !u.stackServes (u.bankAt x / 1024) then
        (u.mergeOutRange x n).submit k { op := 2, addr := x, len := n, type := type, data := el.map some }
      else
        let r := u.readB x n
        if r.2.1 then r.2.2.workFail o St.poisonConsumed
        else r.2.2.mergeIn o x (leBytes (msAdd type (leNat r.1) (leNat el)) n)) s
  | _ => (s.mergeOutRange a bs.length).submit k { op := 2, addr := a, len := bs.length, type := type, data := bs.map some } entry

/-- A memory-side add by `w` for an asker: the first status that stops it, or its elements are added (R82, R88, R93). -/
def State.memAdd (s : State) (w : Who) (k : Asker) (type a : Nat) (bs : List Byte) (entry : Option Nat := none) : State :=
  if !addFits type a bs.length then s.answerAsker k St.badField []
  else match s.rangeStatus w true a bs.length with
    | 0 => s.addB k type a bs entry
    | c => s.answerAsker k c []

/-- Does a bank hold an access to bytes of `[a, a + n)`? -/
def State.heldOver (s : State) (a n : Nat) : Bool :=
  let hits (h : Held) : Bool := h.acc.addr < a + n && a < h.acc.addr + h.acc.len
  s.bk.runs.any (fun e => e.2.held.any hits) || s.bk.queued.any fun e => hits e.2

/-! ## The end of a command (R257) -/

/-- A command has done its work: its merge-buffer entries are written, its status stands if it has one, and it completes once
everything it waits for has been served and answered. -/
def State.finish (s : State) (id status result : Nat) : State :=
  let s := s.flushOwn (· == .cmd id)
  match s.cmdOf id with
  | none => s
  | some c =>
    let st := if c.status = 0 then status else c.status
    let t := s.onCmd id fun d => { d with phase := 2, status := st, result := result }
    if c.acks = 0 then t.complete id else t

end Sys2Proof.Machine
end

