-- ==== Sys2Proof/Machine/Slab.lean ====
section
/-! DEFINITION. The slabs of the Yard (chapter 9): the lines they cache, the credit classes and what waits for them, how traffic
passes them and what it costs (R279, R285), and the answers that come back over the links. -/

namespace Sys2Proof.Machine

/-! ## Slabs, lines and the cache (R252 to R255) -/

/-- The logical slab of a line (global address / 64). -/
def slabOfLine (line : Nat) : Nat := (line + Config.slabRotation (line * 64 / 3072)) % 48

/-- The physical slab behind a logical one. -/
def State.physSlab (s : State) (l : Nat) : Nat := smGet (fun l => l) s.yd.slabOf l

/-- CACHE blocks of a logical slab. -/
def State.cacheBlocks (s : State) (slab : Nat) : Nat :=
  ((List.range 512).filter fun k => s.blockKind (slab * 512 + k) = 0).length

/-- The set of a line: the spec gives 16 ways and not the index. -/
def lineSet (line sets : Nat) : Nat := line / 48 % sets

/-- Lines a partition holds. -/
def State.linesOf (s : State) (p : Nat) : Nat := (s.yd.lines.filter fun x => x.part = p).length

/-- The line to give up for a fill of partition p among the lines of a full set, oldest first (R254). -/
def State.victim (s : State) (p : Nat) (ways : List YLine) : Option YLine :=
  let own := ways.find? fun x => x.part = p
  if s.getF F.YRD_Q_CACHE_CAP p * 1024 < s.linesOf p && own.isSome then own
  else ways.find? fun x => x.part = p || s.getF F.YRD_Q_CACHE_FLOOR x.part * 1024 < s.linesOf x.part

/-- The cached line, if any. -/
def State.findLine (s : State) (line : Nat) : Option YLine := s.yd.lines.find? fun x => x.line = line

/-- Put a line, the most recently used, in place of any of its address. -/
def State.putLine (s : State) (x : YLine) : State :=
  { s with yd := { s.yd with lines := s.yd.lines.filter (fun y => y.line ≠ x.line) ++ [x] } }

/-- Count a correctable or an uncorrectable word of a slab (R273). -/
def State.slabEcc (s : State) (slab : Nat) (ue : Bool) (addr : Nat) : State :=
  let ph := s.physSlab slab
  if ue then (s.bump F.YRD_UE_CNT_COUNT 1 ph).err .yrd ph 0 (some addr)
  else
    let t := s.bump F.YRD_CE_CNT_COUNT 1 ph
    if t.getF F.YRD_CE_CNT_COUNT ph = 65537 then t.err .yrd ph 1 else t

/-- A line leaves the Yard. A dirty one is written back, charged to the partition it is tagged with; a word of it that is
uncorrectable is written back still poisoned (R273). -/
def State.lineOut (s : State) (x : YLine) : State :=
  let t : State := { s with yd := { s.yd with lines := s.yd.lines.filter fun y => y.line ≠ x.line } }
  if !x.dirty then t
  else
    (x.errs.foldl (fun u e => if (decodeSyndrome e.2.2).bad then
        (u.poisonWord (localOf (x.line * 64) + 8 * e.1)).slabEcc x.slab true (x.line * 64 + 8 * e.1)
      else u) t).moved .none x.part 0 64

/-- Drop a line, if it is cached. -/
def State.dropLine (s : State) (line : Nat) : State :=
  match s.findLine line with
  | some x => s.lineOut x
  | none => s

/-- Allocate a line, if its slab has storage and its set a way to give (R252, R254); the flag says whether it did. -/
def State.allocLine (s : State) (x : YLine) : Bool × State :=
  let sets := s.cacheBlocks x.slab * 64
  if sets = 0 then (false, s)
  else
    let ways := s.yd.lines.filter fun y => y.slab = x.slab && lineSet y.line sets = lineSet x.line sets
    if ways.length < 16 then (true, s.putLine x)
    else match s.victim x.part ways with
      | some v => (true, (s.lineOut v).putLine x)
      | none => (false, s)

/-- The words of a line's copy that an access uses are checked: a correctable one is put right; for an uncorrectable one the line
leaves the Yard, written back poisoned where it is dirty, to be fetched again where it is clean (R273). -/
def State.checkLine (s : State) (x : YLine) (ks : List Nat) : State :=
  x.errs.foldl (fun t e =>
    match t.findLine x.line with
    | none => t
    | some y =>
      if !ks.contains e.1 || e.2.2 = 0 then t
      else if (decodeSyndrome e.2.2).bad then
        if y.dirty then t.lineOut y else (t.lineOut y).slabEcc x.slab true (x.line * 64 + 8 * e.1)
      else
        let d := match decodeSyndrome e.2.2 with
          | .dataBit i => e.2.1 ^^^ 2 ^ i
          | _ => e.2.1
        let kept := y.errs.filter fun f => f.1 ≠ e.1
        (t.putLine { y with errs := if d = 0 then kept else kept ++ [(e.1, d, 0)] }).slabEcc x.slab false (x.line * 64 + 8 * e.1)) s

/-- Invert bits of the copy that a cached line holds of the word at global address `ga` (R381, R382). -/
def State.flipLine (s : State) (x : YLine) (ga : Nat) (fault : BitVec 72) : State :=
  let k := ga / 8 % 8
  let f := fault.toNat
  let old := ((x.errs.find? fun e => e.1 = k).map (·.2)).getD (0, 0)
  let d := old.1 ^^^ (f % 2 ^ 64)
  let syn := old.2 ^^^ foldColumns dataColumns (f % 2 ^ 64) ^^^ (f / 2 ^ 64)
  s.putLine { x with errs := x.errs.filter (fun e => e.1 ≠ k) ++ if d = 0 && syn = 0 then [] else [(k, d, syn)] }

/-- Bytes read through a line, with what is wrong in its copy. -/
def YLine.through (x : YLine) (off : Nat) (bs : List Byte) : List Byte :=
  (bs.zipIdx).map fun b =>
    let a := off + b.2
    match x.errs.find? fun e => e.1 = a / 8 with
    | some e => b.1 ^^^ BitVec.ofNat 8 (e.2.1 / 2 ^ (8 * (a % 8)))
    | none => b.1

/-! ## One line's access (R253) -/

/-- Words of line `line` within local or global `[a, a + n)`. -/
def lineWords (line a n : Nat) : List Nat :=
  (List.range 8).filter fun k => a < line * 64 + 8 * k + 8 && line * 64 + 8 * k < a + n

/-- A read finds its line or not: counted, checked, and of this device's memory filled. -/
def State.lineRead (s : State) (part line : Nat) (ks : List Nat) (remote : Bool) : State :=
  let slab := slabOfLine line
  let ph := s.physSlab slab
  match s.findLine line with
  | some x =>
    let t := (s.bumpW F.YRD_HITS_COUNT 1 ph).putLine { x with prefetched := false }
    let t := if x.prefetched then t.bumpW F.YRD_PF_USED_COUNT 1 ph else t
    if x.errs = [] then t else t.checkLine x ks
  | none =>
    let t := s.bumpW F.YRD_MISSES_COUNT 1 ph
    if remote then t
    else (t.allocLine { line := line, slab := slab, part := part, dirty := false, remote := false, prefetched := false, bytes := [] }).2

/-- A write updates the line: of a Guarded granule it becomes dirty, allocated where need be; of an Open one it stays as DRAM
is. Words written whole leave nothing wrong in the copy; of others the copy is checked first. -/
def State.lineWrite (s : State) (part line : Nat) (opened : Bool) (ks whole : List Nat) : State :=
  let slab := slabOfLine line
  match s.findLine line with
  | some x =>
    let t := if x.errs = [] then s else s.checkLine x (ks.filter fun k => !whole.contains k)
    (match t.findLine line with
     | some y => t.putLine { y with dirty := !opened, errs := y.errs.filter fun e => !whole.contains e.1 }
     | none => t)
  | none =>
    if opened then s
    else (s.allocLine { line := line, slab := slab, part := part, dirty := true, remote := false, prefetched := false, bytes := [] }).2

/-- Lines that global `[ga, ga + n)` touches. -/
def linesOver (ga n : Nat) : List Nat :=
  if n = 0 then [] else (List.range ((ga + n - 1) / 64 - ga / 64 + 1)).map fun k => ga / 64 + k

/-- Lines that a range of this device's memory touches. -/
def State.linesIn (s : State) (a n : Nat) : List Nat := linesOver (s.global a) n

/-- An access to stack memory passes the slabs of its lines, for a partition. -/
def State.passLines (s : State) (part op a n : Nat) : State :=
  let ga := s.global a
  (s.linesIn a n).foldl (fun t line =>
    let ks := lineWords line ga n
    if op = 0 then t.lineRead part line ks false
    else if op = 1 then
      t.lineWrite part line (s.isOpen (granule a)) ks (ks.filter fun k => ga ≤ line * 64 + 8 * k && line * 64 + 8 * k + 8 ≤ ga + n)
    else t.dropLine line) s

/-- Does the Yard serve an access itself: a read whose lines it holds, or a write of a Guarded granule to lines it holds, which stays
there until it is written back? -/
def State.yardServes (s : State) (op a n : Nat) : Bool :=
  a < 16 * stackBytes && (op = 0 || (op = 1 && !s.isOpen (granule a)))
    && (s.linesIn a n).all (fun line => (s.findLine line).isSome) && !s.heldOver a n

/-- Bytes that an access to stack memory moves on stack channels: a read of lines the Yard does not hold fills them, a write of a
Guarded granule stays in the Yard until it is written back (R253, R279). -/
def State.stackBytesOf (s : State) (op a n : Nat) : Nat :=
  if 16 * stackBytes ≤ a then 0
  else if op = 0 then ((s.linesIn a n).filter fun line => (s.findLine line).isNone).length * 64
  else if op = 1 && !s.isOpen (granule a) && s.cacheBlocks (slabOfLine (s.global a / 64)) ≠ 0 then 0
  else n

/-- A piece of work moves `[a, a + n)` of this device's memory: the cycle table charges every byte that moves; lines and regulators are
met by what passes the slabs, which a Bed does not (R253, R279, R285, R289). What firmware does for no one is charged to no one. -/
def State.traffic (s : State) (o : Own) (part op a n : Nat) : State :=
  let t := s.chargeOwn o 2 n 65536
  if o = .none then t
  else if a < 16 * stackBytes then ((t.passLines part op a n).moved o part 0 (s.stackBytesOf op a n)).moved o part 1 n
  else if yardBase ≤ a then t.moved o part 1 n
  else t

/-- The partition that a piece of work belongs to. -/
def State.partOf (s : State) (o : Own) : Nat := (s.chargedTo o).1

/-- A piece of work reads local memory: the bytes, whether any word is poisoned, and the state after. -/
def State.loadFor (s : State) (o : Own) (a n : Nat) : List Byte × Bool × State := (s.traffic o (s.partOf o) 0 a n).readB a n

/-- A piece of work writes local memory: into the lines of a Guarded granule, which the Yard keeps, or on to the stacks. -/
def State.storeFor (s : State) (o : Own) (a : Nat) (bs : List Byte) (bad : List Nat := []) : State :=
  let t := s.traffic o (s.partOf o) 1 a bs.length
  if t.yardServes 1 a bs.length then
    let u := t.mergeOutRange a bs.length
    let r := u.perform { op := 1, addr := a, len := bs.length, data := bs.map some, bad := bad }
    r.2.2.answerAsker (.work [o]) r.1 []
  else t.storeB o a bs bad

/-- A piece of work adds to local memory, once its checks have passed. -/
def State.addFor (s : State) (o : Own) (type a : Nat) (bs : List Byte) : State :=
  (s.traffic o (s.partOf o) 2 a bs.length).addB (.work [o]) type a bs

/-- A piece of work copies rows of 2 KiB through the stack channels, every word checked; poison goes along word by word. -/
def State.copyRows (s : State) (o : Own) (rows : List (Nat × Nat)) : State :=
  rows.foldl (fun t e =>
    let bad := (wordsOf e.1 2048).filter t.asServed.wordBad
    let r := t.loadFor o e.1 2048
    r.2.2.storeFor o e.2 r.1 (bad.map fun w => e.2 + (w - e.1))) s

/-! ## Writes to other devices (R253, R263) -/

/-- Fills that `p` picks are not kept when they come, nor, where `beds` says so, are the bytes of resident copies: they may be older than
what came after they were asked for. -/
def State.dropFills (s : State) (p : QMsg → Bool) (beds : Bool) : State :=
  let f (m : QMsg) : QMsg := match m.use with
    | .fill sl c q _ ws => if p m then { m with use := .fill sl c q false ws } else m
    | .bed n off o _ => if beds && p m then { m with use := .bed n off o false } else m
    | _ => m
  { s with lk := { s.lk with
    links := s.lk.links.map fun e => (e.1, { e.2 with sent := e.2.sent.map fun r => (r.1, f r.2), waiting := e.2.waiting.map f })
    held := s.lk.held.map f, unpaid := s.lk.unpaid.map f } }

/-- A write of another device's memory passes: the copies of its lines are dropped, those on their way included. -/
def State.forgetCopies (s : State) (ga n : Nat) : State :=
  ((linesOver ga n).foldl State.dropLine s).dropFills (fun m => m.addr < ga + n && ga < m.addr + m.len) false

/-- A piece of work's bytes for or from another device pass the slabs: the cycle table and the YARD regulator are charged (R279, R289). -/
def State.passAway (s : State) (o : Own) (part n : Nat) : State := (s.chargeOwn o 2 n 65536).moved o part 1 n

/-- A piece of work writes another device's memory (or adds to it, `top` 3). -/
def State.writeAway (s : State) (o : Own) (part ga : Nat) (bs : List Byte) (top : Nat := 2) (type : Nat := 0) : State :=
  ((s.forgetCopies ga bs.length).passAway o part bs.length).writeRemote o part ga bs top type

/-! ## WORK space made of units (R251) -/

/-- The local address of offset `o` in space made of units. -/
def spaceAt (us : List Nat) (o : Nat) : Nat := us.getD (o / 1024) 0 * 1024 + o % 1024

/-- A piece of work reads its space: the bytes, whether any word is poisoned, and the state after. -/
def State.readSpace (s : State) (o : Own) (us : List Nat) (off n : Nat) : List Byte × Bool × State :=
  (piecesOf 1024 off n).foldl (fun (acc : List Byte × Bool × State) p =>
    let r := acc.2.2.loadFor o (spaceAt us p.1) p.2
    (acc.1 ++ r.1, acc.2.1 || r.2.1, r.2.2)) ([], false, s)

/-- A piece of work writes its space; `bad` names words by their offset. -/
def State.writeSpace (s : State) (o : Own) (us : List Nat) (off : Nat) (bs : List Byte) (bad : List Nat := []) : State :=
  (piecesOf 1024 off bs.length).foldl (fun t p =>
    t.storeFor o (spaceAt us p.1) (sliceB bs (p.1 - off) p.2)
      ((bad.filter fun w => p.1 < w + 8 && w < p.1 + p.2).map (spaceAt us))) s

/-! ## Credit classes (R265 to R268) -/

/-- The registers of a class. -/
def clsFloor (k : Nat) : Fld := ⟨A.YRD_CLS0 + 4 * k, 25, 16⟩

/-- The cap of a class. -/
def clsCap (k : Nat) : Fld := ⟨A.YRD_CLS0 + 4 * k, 10, 0⟩

/-- The requests to other devices that this device has not had answered. -/
def State.requests (s : State) : List QMsg :=
  (s.lk.links.flatMap fun e => e.2.sent.map (·.2) ++ e.2.waiting) ++ s.lk.held ++ s.lk.unpaid

/-- Fills of a slab that are on their way, each with a line of its fill buffer. -/
def State.fills (s : State) (slab : Nat) : Nat :=
  s.requests.countP fun m => match m.use with | .fill sl _ _ _ _ => sl == slab | _ => false

/-- Request-queue entries that a class holds in a slab: its fills from other devices, and its accesses that banks hold. -/
def State.classUse (s : State) (slab k : Nat) : Nat :=
  (s.requests.countP fun m => match m.use with | .fill sl c _ _ _ => sl == slab && c == k | _ => false)
    + s.bk.tickets.countP fun w => w.entry == some (slab * 8 + k)

/-- Does the slab admit one more request of the class (R267)? -/
def State.classAdmits (s : State) (slab k : Nat) : Bool :=
  let ks := [0, 2, 3, 4, 5]
  let floors := ks.foldl (fun n j => n + s.getF (clsFloor j)) 0
  let shared := ks.foldl (fun n j => n + (s.classUse slab j - s.getF (clsFloor j))) 0
  s.classUse slab k < s.getF (clsCap k) && (s.classUse slab k < s.getF (clsFloor k) || shared + floors < 1024)

/-- Order of the classes at a hop (R268): responses, writebacks, management, link ingress, host, requests; 6 stands for an access that
a partition's row makes at a stack, past the slabs: it takes no entry and waits for its STACK regulator only. -/
def grantOrder : List Nat := [1, 2, 5, 3, 4, 0, 6]

/-- The slab of a global address: of a line, or of a direct-window block (R249, R252). -/
def State.slabOf (s : State) (ga : Nat) : Nat :=
  let a := localOf ga
  if devOf ga = s.dv.devNum && yardBase ≤ a && a < yardBase + 24576 * 65536 then (a - yardBase) / 2 ^ 25
  else slabOfLine (ga / 64)

/-- May the Yard cache a line of another device: one of its stack memory (R252)? -/
def remoteCacheable (ga : Nat) : Bool := localOf ga < 16 * stackBytes

/-- A read of another device's line that is not cached and not on its way. -/
def State.needsFill (s : State) (q : YReq) : Bool :=
  q.acc.op = 0 && devOf q.ga ≠ s.dv.devNum && (s.findLine (q.ga / 64)).isNone

/-- The stacks that local `[a, a + n)` lies in, and their die paused for a component's switch (R477). -/
def State.pausedAt (s : State) (a n : Nat) : Bool :=
  a < 16 * stackBytes && (placesOf a n).any fun x => s.paused .stk (s.heldBy x)

/-- May a waiting request go on: its class admits it, a fill-buffer line is free for its fill, its slab takes new work, what it is aimed
at is not paused, and the regulator of its partition has its bytes (R43, R266, R267, R279, R281, R477)? -/
def State.yardMay (s : State) (q : YReq) : Bool :=
  let here := devOf q.ga = s.dv.devNum
  if q.cls = 6 then s.fare q.part 0 q.acc.len ≠ .waits && !s.pausedAt (localOf q.ga) q.acc.len
  else s.classAdmits q.slab q.cls && !(s.needsFill q && 256 ≤ s.fills q.slab) && !s.quiesced .yrd (s.physSlab q.slab)
    && !(here && s.pausedAt (localOf q.ga) q.acc.len)
    && (q.cls = 5 || (s.fare q.part 1 q.acc.len ≠ .waits
      && !(here && s.fare q.part 0 (s.stackBytesOf q.acc.op (localOf q.ga) q.acc.len) = .waits)))

/-- On whose behalf a request acts. -/
def YReq.who (q : YReq) : Who :=
  match q.asker with
  | .host _ _ _ agent part _ _ => .agent agent part
  | _ => .part q.part

/-- A request of this device's memory is served (R249, R253). -/
def State.serveLocal (s : State) (q : YReq) : State :=
  let x := q.acc
  let entry := some (q.slab * 8 + q.cls)
  if x.op = 2 && !addFits x.type x.addr x.len then s.answerAsker q.asker St.badField []
  else match s.rangeStatus q.who (x.op != 0) x.addr x.len with
  | 0 =>
    let s := s.settle x.addr
    let held := s.yardServes x.op x.addr x.len
    let t := if x.addr < 16 * stackBytes && q.cls ≠ 6 then s.passLines q.part x.op x.addr x.len else s
    if x.op = 2 then t.addB q.asker x.type x.addr (x.data.map fun b => b.getD 0) entry
    else
      let t := if x.op = 1 then t.mergeOutRange x.addr x.len else t
      if q.cls ≠ 6 && (if x.op = 0 then held else t.yardServes x.op x.addr x.len) then
        let r := t.perform x
        -- what is wrong in a copy that still passes its check is delivered with it
        let bs := match t.findLine (q.ga / 64) with
          | some y => if q.ga % 64 + x.len ≤ 64 then y.through (q.ga % 64) r.2.1 else r.2.1
          | none => r.2.1
        r.2.2.answerAsker q.asker r.1 bs
      else t.submit q.asker x entry
  | c => s.answerAsker q.asker c (match q.asker with
    | .peer _ _ _ _ _ _ => List.replicate (if x.op = 0 then x.len else 0) 0
    | _ => [])

/-- A request of another device's memory is served: a read through a clean copy, or by a fill that one on its way serves as well;
writes and adds are forwarded and the copy dropped (R253, R263). -/
def State.serveRemote (s : State) (q : YReq) : State :=
  let x := q.acc
  let line := q.ga / 64
  if x.op = 0 then
    let t := s.lineRead q.part line (lineWords line q.ga x.len) true
    match t.findLine line with
    | some y => t.answerAsker q.asker 0 (y.through (q.ga % 64) (sliceB y.bytes (q.ga % 64) x.len))
    | none =>
      let want := (q.asker, q.ga % 64, x.len)
      let join (m : QMsg) : QMsg := match m.use with
        | .fill sl c p true ws => if m.addr = line * 64 then { m with use := .fill sl c p true (ws ++ [want]) } else m
        | _ => m
      let joins (m : QMsg) : Bool := match m.use with
        | .fill _ _ _ true _ => m.addr = line * 64
        | _ => false
      if t.requests.any joins then
        { t with lk := { t.lk with
          links := t.lk.links.map fun e => (e.1, { e.2 with sent := e.2.sent.map fun r => (r.1, join r.2), waiting := e.2.waiting.map join })
          held := t.lk.held.map join, unpaid := t.lk.unpaid.map join } }
      else
        match t.sendRemote { top := 1, addr := line * 64, part := q.part, type := 0, len := 64, data := []
                             use := .fill q.slab q.cls q.part true [want] } with
        | (0, u) => u
        | (c, u) => u.answerAsker q.asker c []
  else
    let m : QMsg := { top := if x.op = 1 then 2 else 3, addr := q.ga, part := q.part, type := x.type, len := x.len
                      data := x.data.map fun b => b.getD 0, use := .ack q.asker }
    match (s.forgetCopies q.ga x.len).sendRemote m with
    | (0, t) => t
    | (c, t) => t.answerAsker q.asker c []

/-- A request is granted its entry: it pays, and is served. -/
def State.grantReq (s : State) (q : YReq) : State :=
  let here := devOf q.ga = s.dv.devNum
  if q.cls = 6 then (s.takeFare q.part 0 q.acc.len).serveLocal q
  else
  let t := (s.raiseMax F.YRD_STALL_MAX_NS (s.now - q.since)).raiseMax F.YRD_QPEAK_ENTRIES
    (grantOrder.foldl (fun n k => n + s.classUse q.slab k) 1) (s.physSlab q.slab)
  let t := if q.cls = 5 then t else t.takeFare q.part 1 q.acc.len
  let t := if q.cls = 5 || !here then t else t.takeFare q.part 0 (s.stackBytesOf q.acc.op (localOf q.ga) q.acc.len)
  if here then t.serveLocal q else t.serveRemote q

/-- Grants of a slab since a waiting class under its floor had one. -/
def State.passedOver (s : State) (slab k : Nat) : Nat := smGet (fun _ => 0) s.yd.passed (slab * 8 + k)

/-- The class that the slab's queue grants next among those with a request that may go: one under its floor that 15 grants have
passed over, or the first in order (R268). -/
def State.nextClass (s : State) (slab : Nat) (ready : List YReq) : Option Nat :=
  let has (k : Nat) : Bool := ready.any fun q => q.cls = k
  match grantOrder.find? fun k => has k && s.classUse slab k < s.getF (clsFloor k) && 15 ≤ s.passedOver slab k with
  | some k => some k
  | none => grantOrder.find? has

/-- Grant what waits in a slab while anything may go: by class, and within a class guaranteed traffic before shared (R268, R279). -/
def State.yardGo (s : State) (slab : Nat) : Nat → State
  | 0 => s
  | n + 1 =>
    let ready := s.yd.waiting.filter fun q => q.slab = slab && s.yardMay q
    match s.nextClass slab ready with
    | none => s
    | some k =>
      let own := ready.filter fun q => q.cls = k
      match (own.find? fun q => s.fare q.part 1 q.acc.len = .guaranteed).orElse fun _ => own.head? with
      | none => s
      | some q =>
        let passed := grantOrder.foldl (fun m j =>
          if j = k then smSet (fun _ => 0) m (slab * 8 + j) 0
          else if (ready.any fun r => r.cls = j) && s.classUse slab j < s.getF (clsFloor j) then
            smSet (fun _ => 0) m (slab * 8 + j) (smGet (fun _ => 0) m (slab * 8 + j) + 1)
          else m) s.yd.passed
        let t : State := { s with yd := { s.yd with waiting := s.yd.waiting.erase q, passed := passed } }
        (t.grantReq q).yardGo slab n

/-- Everything that waits in the Yard goes on as far as it may. -/
def State.yardAll (s : State) : State :=
  (uniq (s.yd.waiting.map fun q => q.slab)).foldl (fun t sl => t.yardGo sl t.yd.waiting.length) s

/-- Requests that still wait for a refill are counted once (R279). -/
def State.countWaits (s : State) : State :=
  let dry (t : State) (q : YReq) (r : Nat) : Bool := match r with
    | 1 => q.cls ≠ 6 && t.fare q.part 1 q.acc.len = .waits
    | _ => devOf q.ga = t.dv.devNum && t.fare q.part 0 (t.stackBytesOf q.acc.op (localOf q.ga) q.acc.len) = .waits
  let t := s.yd.waiting.foldl (fun t q =>
    if q.counted || q.cls = 5 then t
    else if dry s q 1 then t.bump (rgWait 1) 1 q.part
    else if dry s q 0 then t.bump (rgWait 0) 1 q.part else t) s
  { t with yd := { t.yd with waiting := t.yd.waiting.map fun q =>
      if q.cls ≠ 5 && (dry s q 1 || dry s q 0) then { q with counted := true } else q } }

/-- A request arrives at its slab: it waits at its source until it may go on. -/
def State.enter (s : State) (k : Asker) (part cls ga : Nat) (x : Access) : State :=
  let q : YReq := { asker := k, part := part, cls := cls, slab := s.slabOf ga, ga := ga, acc := x, since := s.now }
  let t : State := { s with yd := { s.yd with waiting := s.yd.waiting ++ [q] } }
  (t.yardGo q.slab t.yd.waiting.length).countWaits

/-! ## Answers that come back over the links (R253, R266, R378) -/

/-- Bytes of a resident copy have come for a work item that waits to start, or their source's status, which ends the item. Where an
ACQUIRE has come since they were asked for, they are dropped (R256, R259). -/
def State.bedFilled (s : State) (n off : Nat) (o : Own) (keep : Bool) (addr status : Nat) (data : List Byte) : State :=
  let mine (x : Resident) : Bool := x.brick = n && !x.routineSet && x.coming.contains addr
  if status ≠ 0 then
    let t : State := { s with yd := { s.yd with resident := s.yd.resident.filter fun x => !mine x } }
    let t := t.workFail o status
    match o with
    | .step num q => t.onStep num fun x => { x with items := x.items.modify (q - 32768) fun i => { i with ended := true } }
    | _ => t
  else if !keep || !s.yd.resident.any mine then s
  else
    let t := (s.perform { op := 1, addr := bedAddr n off, len := data.length, data := data.map some }).2.2
    { t with yd := { t.yd with resident := t.yd.resident.map fun x => if mine x then { x with coming := x.coming.erase addr } else x } }

/-- A request is answered, by its response or locally: its status and data go to what it serves. A fill is kept where no ACQUIRE has
come since it was sent and the line is not cached by now. -/
def State.answerUse (s : State) (m : QMsg) (status : Nat) (data : List Byte) : State :=
  match m.use with
  | .ack k =>
    let t := s.answerAsker k status []
    k.owners.foldl (fun u o => (if status = 0 then u else u.loseBytes o m.len).takeAck o) t
  | .read id => (if status = 0 then s.remoteBytes id m.addr data else s.workFail (.cmd id) status).takeAck (.cmd id)
  | .flag id => (if status = 0 then s.remoteBytes id m.addr data else s.workFail (.cmd id) status).takeAck (.cmd id)
  | .bed n off o keep => (s.bedFilled n off o keep m.addr status data).takeAck o
  | .fill slab _ part keep wants =>
    let t := wants.foldl (fun u w => u.answerAsker w.1 status (if status = 0 then sliceB data w.2.1 w.2.2 else [])) s
    let t := if status = 0 && keep && remoteCacheable m.addr && (t.findLine (m.addr / 64)).isNone then
        (t.allocLine { line := m.addr / 64, slab := slab, part := part, dirty := false, remote := true, prefetched := wants = []
                       bytes := data }).2
      else t
    t.yardGo slab t.yd.waiting.length
  | .host l kind tid agent part => s.hostAnswer l kind tid agent part m.addr m.len status data

/-- Requests set out again by `f`; those that no link can carry are answered as the link's fall says (R370, R378). -/
def State.goAgain (s : State) (f : State → QMsg → Nat × State) (ms : List QMsg) : State :=
  let x := resend f ms s
  x.1.foldl (fun u m => u.answerUse m St.linkDown []) x.2

/-- What waited for a link out of quiesce goes on. -/
def State.goHeld (s : State) : State :=
  ({ s with lk := { s.lk with held := [] } } : State).goAgain State.placeRemote s.lk.held

/-- What waited for the LINK regulator goes on as far as its buckets reach. -/
def State.goUnpaid (s : State) : State :=
  s.lk.unpaid.foldl (fun u m =>
    if u.fare m.part 2 m.cost = .waits then { u with lk := { u.lk with unpaid := u.lk.unpaid ++ [m] } }
    else match (u.takeFare m.part 2 m.cost).placeRemote m with
      | (0, v) => v
      | (c, v) => v.answerUse m c []) ({ s with lk := { s.lk with unpaid := [] } } : State)

/-- The requests that came in on a link are served, and their responses discarded (R378). -/
def State.forgetPeer (s : State) (l : Nat) : State :=
  let f (k : Asker) : Asker := match k with
    | .peer m _ _ _ _ _ => if m = l then .work [] else k
    | _ => k
  { s with
    yd := { s.yd with waiting := s.yd.waiting.map fun q => { q with asker := f q.asker } }
    bk := { s.bk with tickets := s.bk.tickets.map fun w => { w with asker := f w.asker } } }

/-- A link goes down (R378): its cause is recorded, what waits is sent elsewhere or fails, what was sent is answered locally,
keys and the replay buffer are dropped. -/
def State.linkDown (s : State) (l cause : Nat) : State :=
  let x := s.qlink l
  let t := ((s.setF F.QLK_STATE_STATE 0 l).setF F.QLK_STATE_WIDTH 0 l).setF F.QLK_DOWN_CAUSE_CAUSE cause l
  let t := ((t.setFlag F.QLK_CTRL_TRAIN false l).setReg A.QLK_KEYSTAT 0 l).setFlag F.QLK_SPARE_STAT_BUSY false l
  let t := (List.range 32).foldl (fun u k => u.setReg A.QLK_IMPORT 0 l k) t
  let t := (t.setPair A.QLK_TXCTR_LO A.QLK_TXCTR_HI 0 l).setQlink l { txUsed := x.txUsed, rxUsed := x.rxUsed }
  let t : State := { t with lk := { t.lk with discard := t.lk.discard.filter fun e => e.1 ≠ l } }
  let t := ((t.setUnit .qlk l 1).err .qlk l 0).forgetPeer l
  let t := x.sent.foldl (fun u e => u.answerUse e.2 St.linkDown []) t
  (t.goAgain State.placeRemote x.waiting).goHeld

end Sys2Proof.Machine
end

