-- ==== Sys2Proof/Machine/Bank.lean ====
section
/-! DEFINITION. Stacks and bank units (chapter 3): descriptors and their checks, latch loads, passes, yield points, refresh and
ordinary accesses at a bank. -/

namespace Sys2Proof.Machine

/-! ## Descriptor checks (R66, R67) -/

/-- `KIND` of a descriptor. -/
def Desc.kind (d : Desc) : Nat := nbits d.w0 63 60

/-- The sequence a descriptor names; a LATCH has no such field. -/
def Desc.seq (d : Desc) : Option Nat := if d.kind ≠ 8 && nbit d.w2 50 then some (nbits d.w2 63 51) else none

/-- The pass a descriptor spells. -/
def Desc.pass (d : Desc) : Pass :=
  { kind := d.kind, fmt := nbits d.w0 59 57, slots := nbits d.w0 56 49, base := nbits d.w0 43 0, cols := nbits d.w1 63 54,
    latchOff := nbits d.w1 53 44, lanes := nbits d.w1 43 38, outBase := nbits d.w1 31 16, group := nbits d.w1 15 0,
    seq := d.seq, own := d.own }

/-- Rows a pass reads. -/
def Pass.rows (p : Pass) : Nat := (p.cols + 63) / 64

/-- Fields of a pass out of range (Table 3-4). -/
def Desc.badPass (d : Desc) : Bool :=
  let p := d.pass
  (if p.kind = 4 then p.fmt ≠ 5 else 4 < p.fmt) || p.slots = 0 || nbits d.w0 48 44 ≠ 0 || p.base % 2048 ≠ 0
    || 16 * stackBytes ≤ p.base || p.cols = 0 || modeCols p.fmt < p.cols || 960 < p.latchOff + modeElems p.fmt * p.cols
    || p.lanes = 0 || modeLanes p.fmt < p.lanes || nbits d.w1 37 32 ≠ 0 || p.outBase % 16 ≠ 0
    || 32 < p.outBase % 32 + p.lanes || nbits p.group 11 8 ≠ 0 || nbits d.w2 49 0 ≠ 0 || d.w3 ≠ 0
    || 49152 < rowIn p.base + p.rows

/-- Fields of a LATCH out of range (Table 3-5). -/
def Desc.badLatch (d : Desc) : Bool :=
  let src := nbits d.w0 43 0
  src % 64 ≠ 0 || !(src < 16 * stackBytes || (yardBase ≤ src && src < yardBase + 24576 * 65536)) || nbits d.w2 63 54 = 0
    || 960 < nbits d.w2 63 54 + nbits d.w2 53 44 || nbits d.w2 43 0 ≠ 0 || d.w3 ≠ 0

/-- The group a GROUP_OPEN asks for (Table 3-6). -/
def Desc.group (d : Desc) : Group :=
  { post := nbits d.w0 59 58, outfmt := nbits d.w0 57 56, slots := nbits d.w0 55 48, dest := nbits d.w0 43 0,
    outputs := nbits d.w1 63 48, contrib := nbits d.w1 47 40, home := nbits d.w1 39 36, part := d.part, own := d.own }

/-- Reduction-buffer space a group reserves (R78). -/
def Group.space (g : Group) : Nat := (g.outputs * npop g.slots 8 * 4 + 1023) / 1024 * 1024

/-- Bytes per output element. -/
def Group.elemBytes (g : Group) : Nat := if g.outfmt = 1 then 2 else 4

/-- Bytes that a group writes from `DEST` on: its outputs, of a softmax group the record of (m, ℓ) and the weights, of a value merge
the outputs and the record (R79, R177, R180). -/
def Group.bytes (g : Group) : Nat :=
  let k := npop g.slots 8
  match g.post with
  | 1 => 64 + k * g.outputs * 2
  | 2 => k * g.outputs * g.elemBytes + 64
  | _ => k * g.outputs * g.elemBytes

/-- Fields of a GROUP_OPEN out of range (Table 3-6, R78, R177). -/
def Desc.badGroup (d : Desc) : Bool :=
  let g := d.group
  let own := nbits d.w1 15 12
  g.post = 3 || 2 ≤ g.outfmt || nbits d.w0 47 44 ≠ 0 || g.outputs = 0 || g.contrib = 0 || nbits d.w1 35 16 ≠ 0
    || nbits d.w1 11 8 ≠ 0 || nbits d.w2 49 0 ≠ 0 || d.w3 ≠ 0 || 4 * 2 ^ 20 < g.space
    || (g.home = own && (g.dest % 64 ≠ 0
        || !(g.dest < 16 * stackBytes || (yardBase ≤ g.dest && g.dest < yardBase + 24576 * 65536))))
    || (g.post = 1 && !(g.outfmt = 1 && g.contrib = 1 && g.home = own))

/-- The stack a descriptor is aimed at. -/
def Desc.stack (d : Desc) : Nat :=
  if d.kind = 8 then nbits d.w0 47 44 else if d.kind = 9 then nbits d.w1 15 12 else stackOf (nbits d.w0 43 0)

/-- The address a descriptor names: `BASE`, `SRC` or `DEST`. -/
def Desc.addr (d : Desc) : Nat := nbits d.w0 43 0

/-- The granules a pass touches. -/
def Pass.granules (p : Pass) : List Nat := uniq ((List.range p.rows).map fun r => granule (p.base + r * 2 ^ 21))

/-- Does a partition hold the bank group of bank j (0 to 63) of a die of a stack (R275)? -/
def State.holdsBank (s : State) (p st j : Nat) : Bool := s.holdsGroup p (st * 8 + j / 8)

/-- The code that a descriptor fails with, or 0 (R67, R275), its region-table entries taken from `s`. Of several checks that fail, the
order here decides (DESIGN CHOICE, log 67). -/
def State.descStatus (s : State) (d : Desc) : Nat :=
  let k := d.kind
  if k = 8 then
    if d.badLatch then St.badField
    else if !s.present .stk d.stack then St.absentUnit
    else if (bitsOf d.w1 64).any fun j => !s.holdsBank d.part d.stack j then St.regionNotOwned
    else match s.rangeStatus (.part d.part) false d.addr (npop (nbits d.w0 55 48) 8 * nbits d.w2 63 54 * 2) with
      | 0 => if s.stackComputes d.stack then St.ok else St.stackUnavailable
      | c => c
  else if k = 9 then
    if d.badGroup then St.badField
    else if !s.present .stk d.stack || !s.present .stk d.group.home then St.absentUnit
    else if !s.stackComputes d.stack then St.stackUnavailable
    else if d.group.home = d.stack then s.rangeStatus (.part d.part) true d.addr d.group.bytes else St.ok
  else if 1 ≤ k && k ≤ 4 then
    let p := d.pass
    if d.badPass then St.badField
    else if !s.present .stk (p.group / 4096) then St.absentUnit
    else if !s.present .stk d.stack then St.addressUnmapped
    else if p.granules.any fun g => !s.isOpen g then St.regionGuarded
    else if p.granules.any (fun g => s.granuleOwner g ≠ some d.part) || !s.holdsBank d.part d.stack (bankOf p.base % 64)
    then St.regionNotOwned
    else if s.stackComputes d.stack then St.ok else St.stackUnavailable
  else St.badField

/-- Record a refused descriptor in the stack it is aimed at (Table 3-17). -/
def State.passRefused (s : State) (d : Desc) : State :=
  if s.present .stk d.stack then
    (s.bump F.STK_PASS_REFUSED_COUNT 1 d.stack).err .stk d.stack 3 (some (s.global d.addr))
  else s

/-- A command hands its descriptors to a Hod engine: all are checked before the first is issued (R67). -/
def State.giveList (s : State) (hod : Nat) (ds : List Desc) : Nat × State :=
  match ds.find? fun d => s.descStatus d ≠ 0 with
  | some d => (s.descStatus d, s.passRefused d)
  | none =>
    let old := smGet (fun _ => []) s.bk.lists hod
    (0, { s with bk := { s.bk with lists := smSet (fun _ => []) s.bk.lists hod (old ++ ds) } })

/-! ## Sending descriptors -/

/-- A Hod engine with neither walks nor descriptors leaves the partition it was taken from (R276). -/
def State.hodFreed (s : State) (hod : Nat) : State :=
  if smGet (fun _ => []) s.bk.lists hod = [] && !(s.sv.walks.any fun w => w.hod = hod) then
    { s with pt := { s.pt with leavingHods := s.pt.leavingHods.filter fun e => e.1 ≠ hod } }
  else s

/-- What an engine's registers show of a walk (Table 6-10). -/
def State.showWalk (s : State) (w : Walk) (phase : Nat) : State :=
  ((((s.setFlag F.HOD_CUR_SEQ_VALID true w.hod).setF F.HOD_CUR_SEQ_PHASE phase w.hod).setF F.HOD_CUR_SEQ_SEQ w.seq w.hod).setF
    F.HOD_CUR_LAYER_ROUND w.round w.hod).setF F.HOD_CUR_LAYER_LAYER w.layer w.hod

/-- A walk's descriptor is issued: the walk notes its page, the registers what it does. -/
def State.noteWalk (s : State) (hod : Nat) (d : Desc) : State :=
  match d.tag with
  | none => s
  | some g => match s.sv.walks.find? fun w => w.id = g.walk with
    | none => s
    | some w =>
      let pg := d.page.getD w.at_
      let t : State := { s with sv := { s.sv with walks := s.sv.walks.map fun x => if x.id = w.id then { x with at_ := pg } else x } }
      (t.showWalk w d.phase).setF F.HOD_CUR_PAGE_PAGE pg.2 hod

/-- Take the next descriptor of an engine's list if it is of the kind asked for. -/
def State.nextDesc (s : State) (hod : Nat) (kind : Nat → Bool) : Option (Desc × State) :=
  match smGet (fun _ => []) s.bk.lists hod with
  | d :: rest =>
    if kind d.kind then
      some (d, (({ s with bk := { s.bk with lists := smSet (fun _ => []) s.bk.lists hod rest } } : State).noteWalk hod d).hodFreed
        hod)
    else none
  | [] => none

/-- The key of the group that a `GROUP` field names. -/
def groupKey (g : Nat) : Nat := g / 4096 * 256 + g % 256

/-- Must a pass wait for the group it names? Its GROUP_OPEN waits for space, or another engine has still to send it for the same
command; and so for the group in its `HOME` stack, which must be open before a pass is issued to a group elsewhere (R78, R79). -/
def State.groupWaits (s : State) (hod : Nat) (d : Desc) : Bool :=
  let key := groupKey d.pass.group
  let asked (k : Nat) : Bool := s.bk.waiting.any (fun e => e.1 = k) || s.bk.lists.any fun e => e.1 ≠ hod && e.2.any fun x =>
    x.kind = 9 && groupKey (nbits x.w1 15 0) = k && x.own.together d.own
  asked key || (match s.bk.groups.find? fun e => e.1 = key with
    | some e => e.2.home ≠ key / 256 && asked (e.2.home * 256 + key % 256)
    | none => false)

/-- A pass with a sequence sets its bit in the current reader set of every granule its rows touch; one without sets
`UNATTRIBUTED` (R397). -/
def State.readerMarks (s : State) (p : Pass) : State :=
  let q := p.seq.getD 8192
  { s with it := { s.it with cur := p.granules.foldl (fun m g =>
      let old := smGet (fun _ => []) m g
      if old.contains q then m else smSet (fun _ => []) m g (old ++ [q])) s.it.cur } }

/-- A pass descriptor reaches its bank: it waits there for its compute activate; a pass that would take its slot's balance
over the limit is not issued, and a stack gone unavailable answers in its place (R68, R78, R96, R289, R290). -/
def State.sendPass (s : State) (hod kind : Nat) : State :=
  match s.nextDesc hod (· == kind) with
  | none => s
  | some (d, t) =>
    if s.groupWaits hod d || s.wouldOverdraw d.own 1 d.pass.cols 4096 then s
    else if !s.stackServes d.stack then t.workFail d.own St.stackUnavailable
    else
      let bk := s.bankAt d.pass.base
      (((t.setBankWork bk (t.bankWork bk ++ [.pass d.pass])).readerMarks d.pass).chargeOwn d.own 1 d.pass.cols 4096).bumpW
        F.HOD_PASSES_COUNT 1 hod

/-- PASS_MV (R62, R68). -/
def execPassMv (hod : Nat) (s : State) : Res := done (s.sendPass hod 1)

/-- PASS_SCORE (R62, R176). -/
def execPassScore (hod : Nat) (s : State) : Res := done (s.sendPass hod 2)

/-- PASS_VALUE (R62, R179). -/
def execPassValue (hod : Nat) (s : State) : Res := done (s.sendPass hod 3)

/-- PASS_OUTLIER (R62, R228). -/
def execPassOutlier (hod : Nat) (s : State) : Res := done (s.sendPass hod 4)

/-- The elements that a LATCH reads: a poisoned word loads +0 and the flag reports it (R521). -/
def State.latchSource (s : State) (o : Own) (a slots count : Nat) : List (List Nat) × Bool × State :=
  let r := s.loadFor o a (slots * count * 2)
  ((List.range slots).map fun k => (List.range count).map fun e =>
      let x := (k * count + e) * 2
      if s.readBad (a + x) 2 then 0 else fieldB r.1 x 2,
    r.2.1, r.2.2)

/-- LATCH (R68, R96, R521): banks of the mask outside passes load at once, the others at the end of their pass. A stack that the load
or its source is aimed at and that does not serve answers with 0x0308. -/
def execLatch (hod : Nat) (s : State) : Res :=
  match s.nextDesc hod (· == 8) with
  | none => done s
  | some (d, t) =>
    let slots := nbits d.w0 55 48
    let n := npop slots 8 * nbits d.w2 63 54 * 2
    let away := (d.addr < 16 * stackBytes && (placesOf d.addr n).any fun a => !t.stackServes (t.heldBy a)) || !t.stackServes d.stack
    if away then done (t.workFail d.own St.stackUnavailable)
    else
      let r := t.latchSource d.own d.addr (npop slots 8) (nbits d.w2 63 54)
      let l : LLoad := { slots := slots, off := nbits d.w2 53 44, elems := r.1, own := d.own, bad := r.2.1 }
      let inStep : Bool := match d.own with
        | .step _ _ => true
        | _ => false
      let t1 := if r.2.1 && (d.tag.isSome || !inStep) then r.2.2.workFail d.own St.poisonConsumed else r.2.2
      done ((bitsOf d.w1 64).foldl (fun u b =>
        let bk := bankKey d.stack (nbits d.w0 59 56 * 64 + b)
        (u.setBankWork bk (u.bankWork bk ++ [.latch l])).latchesLoad bk) t1)

/-- COMPUTE_ACTIVATE (R70): the first pass waiting at an idle bank starts, if the rules allow it at `now`. -/
def execComputeActivate (stack bank now : Nat) (s : State) : Res := done ((s.at now).activate (bankKey stack bank))

/-! ## A pass reads its rows (R62, R63, R65) -/

/-- Address of column operation n of a pass. -/
def Pass.colAddr (p : Pass) (n : Nat) : Nat := p.base + n / 64 * 2 ^ 21 + n % 64 * 32

/-- One column operation: every lane multiplies its weights of the stored bytes against the latch and accumulates. -/
def State.column (s : State) (bk : Nat) (p : Pass) (n : Nat) (acc : List (Nat × Nat)) : List (Nat × Nat) :=
  let a := p.colAddr n
  (bitsOf p.slots 8).foldl (fun m slot =>
    (List.range (modeLanes p.fmt)).foldl (fun m k =>
      let e := p.latchOff + modeElems p.fmt * n
      let x (i : Nat) : Num := decodeNum 5 (s.latchAt bk slot (e + i))
      let key := k * 8 + slot
      let old := smGet (fun _ => 0) m key
      let new :=
        if p.fmt = 5 then mac32 old (decodeNum 5 (leNat (s.bytes (a + 2 * k) 2))) (x 0)
        else if p.fmt = 3 || p.fmt = 4 then
          let b := (s.byte (a + k)).toNat
          mac32 (mac32 old (decodeNum p.fmt (b % 16)) (x 0)) (decodeNum p.fmt (b / 16)) (x 1)
        else mac32 old (decodeNum p.fmt (s.byte (a + k)).toNat) (x 0)
      smSet (fun _ => 0) m key new) m) acc

/-- A run reads columns up to `stop`. -/
def State.readColumns (s : State) (bk : Nat) (r : Run) (stop : Nat) : Run :=
  { r with next := stop
           acc := (List.range (stop - r.next)).foldl (fun acc k => s.column bk r.pass (r.next + k) acc) r.acc }

/-- Accesses of the channel queue enter a hold queue that has room, and count as arriving now (R75). -/
def State.refillHold (s : State) (hs : List Held) : List Held :=
  (hs.take 8).map (fun h => if h.arrived = 0 then { h with arrived := s.now } else h) ++ hs.drop 8

/-- What a yield point serves: the refresh due, then the held accesses in the order of arrival, eight at most (R75). -/
def State.serveYield (s : State) (bk : Nat) (r : Run) : State :=
  let s1 := if r.refresh then s.bumpW F.STK_REFCNT_IN_PASS 1 (bk / 1024) else s
  let t := s1.setRun bk (some { r with refresh := false, held := s.refillHold (r.held.drop 8) })
  (r.held.take 8).foldl (fun u h => u.serveHeld bk h) t

/-- Requests that waited for queue entries in the Yard go on once accesses have been served (R266). -/
def State.afterService (s : State) : State := if s.yd.waiting = [] then s else s.yardAll

/-- YIELD_POINT (R72, R75): the pass has read one more yield interval; what is due is served and it resumes. -/
def execYieldPoint (stack bank now : Nat) (s : State) : Res :=
  let bk := bankKey stack bank
  let s := s.at now
  match s.runAt bk with
  | none => done s
  | some r =>
    let stop := r.next + modeYield r.pass.fmt
    if r.pass.cols ≤ stop then done s
    else done (s.serveYield bk (s.readColumns bk r stop)).afterService

/-- PASS_END (R69, R72): the last columns are read, the delivered lanes leave as one contribution, what is held is served by the bank
now idle, and loads that waited for the bank take effect. -/
def execPassEnd (stack bank now : Nat) (s : State) : Res :=
  let bk := bankKey stack bank
  let s := s.at now
  match s.runAt bk with
  | none => done s
  | some r =>
    if r.next + modeYield r.pass.fmt < r.pass.cols then done s
    else
      let p := r.pass
      let fin := s.readColumns bk r p.cols
      let sums := (List.range p.lanes).flatMap fun k => (bitsOf p.slots 8).map fun slot =>
        ((p.outBase + k) * 8 + slot, smGet (fun _ => 0) fin.acc (k * 8 + slot))
      let c : Contrib := { group := groupKey p.group, outBase := p.outBase, lanes := p.lanes
                           slots := p.slots, sums := sums, bad := false, own := p.own }
      let t := (if r.refresh then s.bumpW F.STK_REFCNT_IN_PASS 1 stack else s).bumpW F.STK_PASSCNT_PASSES 1 stack
      let t := (s.refillHold fin.held).foldl (fun u h => u.serveHeld bk { h with arrived := if h.arrived = 0 then s.now else h.arrived })
        (t.setRun bk none)
      done ((({ t with bk := { t.bk with arriving := t.bk.arriving ++ [c] } } : State).latchesLoad bk).afterService)

/-- REFRESH_DUE (R74): an idle bank takes or pulls in the refresh; a bank in a pass takes it at the next yield point, unless
one pulled in covers it. -/
def execRefreshDue (stack bank : Nat) (pullIn : Bool) (s : State) : Res :=
  let bk := bankKey stack bank
  let n := smGet (fun _ => 0) s.bk.pulled bk
  match s.runAt bk with
  | none =>
    if pullIn && n < min 8 (s.getF F.STK_REFCTL_PULLIN_MAX stack) then
      done { s with bk := { s.bk with pulled := smSet (fun _ => 0) s.bk.pulled bk (n + 1) } }
    else if pullIn then done s
    else done { s with bk := { s.bk with pulled := smSet (fun _ => 0) s.bk.pulled bk (n - 1) } }
  | some r =>
    if pullIn then done s
    else if 0 < n then done { s with bk := { s.bk with pulled := smSet (fun _ => 0) s.bk.pulled bk (n - 1) } }
    else done (s.setRun bk (some { r with refresh := true }))

/-- Invert stored bits of the word holding `a`: 64 data bits, then 8 check bits; the syndrome follows (R381, R382). -/
def State.flipBits (s : State) (a : Nat) (fault : BitVec 72) : State :=
  let w := a / 8 * 8
  let f := fault.toNat
  if f = 0 then s
  else
    let data := leNat (s.bytes w 8) ^^^ (f % 2 ^ 64)
    let syn := s.syndOf w ^^^ foldColumns dataColumns (f % 2 ^ 64) ^^^ (f / 2 ^ 64)
    ({ s with mem := memPutAll s.mem w (leBytes data 8) } : State).setSynd w syn

/-- ORDINARY_ACCESS (R75, R77, R93, R96, R279): a read or write of a partition reaches the bank of its address under the
partition's STACK regulator; the bank serves it, or holds it while it is in a pass. `fault` inverts stored bits first. -/
def execOrdinaryAccess (part : Nat) (write : Bool) (addr : Nat) (data : List Byte) (len now : Nat) (fault : BitVec 72)
    (s : State) : Res :=
  let s := s.at now
  let n := if write then data.length else len
  if 16 * stackBytes < addr + n then done (s.emit (.memReply part St.addressUnmapped []))
  else match s.rangeStatus (.part part) write addr n with
  | 0 =>
    done ((s.flipBits addr fault).enter (.part part) part 6 (s.global addr)
      { op := if write then 1 else 0, addr := addr, len := n, data := data.map some })
  | c => done (s.emit (.memReply part c []))

end Sys2Proof.Machine
end

