-- ==== Sys2Proof/Machine/Bounded.lean ====
section
/-! DEFINITION. Functions that the spec gives as a formula with a bound on the error (R117, R119, R205): the exact value of the
formula to 448 fraction bits, and a result that is some binary32 value within the bound of it. -/

namespace Sys2Proof.Machine

/-! ## A result within a bound -/

/-- Place of a binary32 pattern in the order of values: 0 for ±0, the pattern for positive ones, its negation for negative ones. -/
def ordOf (x : Nat) : Int := if x < 2 ^ 31 then (x : Int) else -((x - 2 ^ 31 : Nat) : Int)

/-- The pattern at a place of that order; beyond the infinities there is none. -/
def atOrd (i : Int) : Nat :=
  let n := min i.natAbs 0x7F800000
  if i < 0 then 2 ^ 31 + n else n

/-- Exact value of a finite pattern; an infinity stands for ±2^128, the value past the largest finite one. -/
def ordVal (x : Nat) : Num :=
  match num32 x with
  | .inf neg => .fin neg 1 128
  | v => v

/-- Absolute value. -/
def Num.abs : Num → Num
  | .fin _ m e => .fin false m e
  | .inf _ => .inf false
  | .nan => .nan

/-- A unit of the last place of binary32 at a value. -/
def ulpOf (v : Num) : Num :=
  match v with
  | .fin _ m e => .fin false 1 (if m = 0 then -149 else max (-149) ((Nat.log2 m : Int) + e - 23))
  | _ => .fin false 0 0

/-- The binary32 patterns within `k` units of the last place of a finite value. -/
def nearBits (k : Nat) (v : Num) : List Nat :=
  let r := ordOf (round32 v)
  let ok (x : Nat) : Bool := !((ulpOf v).mul (.fin false k 0)).lt ((ordVal x).add v.neg).abs
  ((List.range (2 * k + 1)).map fun (j : Nat) => atOrd (r + (j : Int) - (k : Int))).eraseDups.filter ok

/-- A result known within `k` units of the last place of the exact value: which one, the spec leaves open (`pick`). An exact zero is
delivered as it is. -/
def within (k : Nat) (v : Num) (pick : Nat) : Nat :=
  match v with
  | .fin _ 0 _ => round32 v
  | .fin _ _ _ => let c := nearBits k v; c.getD (pick % c.length) (round32 v)
  | _ => round32 v

/-! ## Fixed point -/

/-- Fraction bits. -/
def fxBits : Nat := 448

/-- One. -/
def fxOne : Int := 2 ^ fxBits

/-- Product. -/
def fxMul (a b : Int) : Int := a * b / fxOne

/-- A finite value in fixed point. -/
def Num.fx : Num → Int
  | .fin neg m e =>
    let k := e + fxBits
    let a : Nat := if 0 ≤ k then m * 2 ^ k.toNat else m / 2 ^ (-k).toNat
    if neg then -a else a
  | _ => 0

/-- A fixed-point number times 2^k as a value. -/
def fxNum (a : Int) (k : Int := 0) : Num := .fin (a < 0) a.natAbs (k - fxBits)

/-- π. -/
def fxPi : Int :=
  0x3243f6a8885a308d313198a2e03707344a4093822299f31d0082efa98ec4e6c89452821e638d01377be5466cf34e90c6cc0ac29b7c97c50dd

/-- Terms of 2·artanh z = ln ((1 + z) ÷ (1 − z)): `p` is z^(2i + 1), `n` terms are left. -/
def artanhTerms (z2 : Int) : Nat → Int → Int → Int
  | 0, _, _ => 0
  | n + 1, p, d => p / d + artanhTerms z2 n (fxMul p z2) (d + 2)

/-- 2·artanh z for |z| up to 1/3. -/
def fxArtanh2 (z : Int) : Int := 2 * artanhTerms (fxMul z z) 145 z 1

/-- ln 2. -/
def fxLn2 : Int := fxArtanh2 (fxOne / 3)

/-- ln of a positive value m · 2^e. -/
def fxLn (m : Nat) (e : Int) : Int :=
  let l := Nat.log2 m
  let x : Int := (m : Int) * fxOne / (2 ^ l : Nat)
  (e + l) * fxLn2 + fxArtanh2 ((x - fxOne) * fxOne / (x + fxOne))

/-- Terms of the exponential series from the i-th on, `p` being the one before. -/
def expTerms (x : Int) : Nat → Int → Int → Int
  | 0, _, _ => 0
  | n + 1, p, i => let q := fxMul p x / i; q + expTerms x n q (i + 1)

/-- e^x: a mantissa and a power of two, for x in fixed point. -/
def fxExp (x : Int) : Int × Int :=
  let k := x / fxLn2
  let r := x - k * fxLn2
  (fxOne + expTerms r 100 fxOne 1, k)

/-- e^(a ÷ b), b > 0, as a value; far outside binary32's range it stands for any value there. -/
def expVal (a b : Int) : Num :=
  if 200 * b < a then .fin false 1 256
  else if a < -200 * b then .fin false 1 (-256)
  else let r := fxExp (a * fxOne / b); fxNum r.1 r.2

/-- Terms of the sine and cosine series: `p` is the term before, divided by i and i + 1 next. -/
def trigTerms (x2 : Int) : Nat → Int → Int → Int
  | 0, _, _ => 0
  | n + 1, p, i => let q := -(fxMul p x2 / (i * (i + 1))); q + trigTerms x2 n q (i + 2)

/-- Cosine and sine of an angle, which is first taken modulo 2π into [−π, π). -/
def fxCosSin (phi : Int) : Int × Int :=
  let x := (phi + fxPi) % (2 * fxPi) - fxPi
  let x2 := fxMul x x
  (fxOne + trigTerms x2 80 fxOne 1, x + trigTerms x2 80 x 2)

/-- Bits of the integer square root of n from bit `k` down, `r` found so far. -/
def sqrtBits (n : Nat) : Nat → Nat → Nat
  | 0, r => r
  | k + 1, r => let c := r + 2 ^ k; sqrtBits n k (if c * c ≤ n then c else r)

/-- Integer square root. -/
def isqrt (n : Nat) : Nat := sqrtBits n (Nat.log2 n / 2 + 1) 0

/-- a · √(n ÷ q), q > 0, as a value: to at least 200 significant bits. -/
def rootRatio (a : Int) (n q : Nat) : Num :=
  let num := a.natAbs * a.natAbs * n
  let sh := Nat.log2 q + 400 - min (Nat.log2 q + 400) (Nat.log2 num)
  let sh := sh + sh % 2
  .fin (a < 0) (isqrt (num * 2 ^ sh / q)) (-((sh / 2 : Nat) : Int))

/-- a ÷ b as a value, b ≠ 0: to at least 200 significant bits. -/
def quotVal (a b : Int) : Num :=
  let sh := Nat.log2 b.natAbs + 400 - min (Nat.log2 b.natAbs + 400) (Nat.log2 a.natAbs)
  .fin ((a < 0) != (b < 0)) (a.natAbs * 2 ^ sh / b.natAbs) (-(sh : Int))

/-! ## The formulas of Table 4-8 -/

/-- A finite binary32 value in units of 2^−149. -/
def units149 (x : Nat) : Int :=
  match num32 x with
  | .fin neg m e => if neg then -((m * 2 ^ (e + 149).toNat : Nat) : Int) else ((m * 2 ^ (e + 149).toNat : Nat) : Int)
  | _ => 0

/-- Is a pattern a finite value? -/
def finite32 (x : Nat) : Bool := x / 2 ^ 23 % 256 ≠ 255

/-- Is a pattern a NaN? -/
def isNan32 (x : Nat) : Bool := x / 2 ^ 23 % 256 = 255 && x % 2 ^ 23 ≠ 0

/-- The logistic function 1 ÷ (1 + e^(−y)) of y in fixed point. -/
def fxLogistic (y : Int) : Num :=
  if y < -200 * fxOne then (let r := fxExp (max y (-400 * fxOne)); fxNum r.1 r.2)
  else if 500 * fxOne < y then .fin false 1 0
  else
    let r := fxExp (-y)
    -- 1 ÷ (1 + m · 2^k)
    if 0 ≤ r.2 then quotVal fxOne (fxOne + r.1 * 2 ^ r.2.toNat)
    else quotVal (fxOne * 2 ^ (-r.2).toNat) (fxOne * 2 ^ (-r.2).toNat + r.1)

/-- √(2 ÷ π). -/
def fxRoot2Pi : Int := isqrt ((2 * fxOne * fxOne * fxOne / fxPi).toNat)

/-- The tanh form of GELU: a · logistic(2 · √(2 ÷ π) · (a + 0.044715 · a³)). -/
def geluVal (a : Num) : Num :=
  let y :=
    if (Num.fin false 64 0).lt a then 1000 * fxOne
    else if a.lt (.fin true 64 0) then -1000 * fxOne
    else
      let x := a.fx
      2 * fxMul fxRoot2Pi (x + fxMul (fxMul x x) x * 44715 / 1000000)
  a.mul (fxLogistic y)

/-- The logistic function of a binary32 value. -/
def logisticVal (a : Num) : Num :=
  fxLogistic (if (Num.fin false 1000 0).lt a then 1000 * fxOne else if a.lt (.fin true 1000 0) then -1000 * fxOne else a.fx)

/-- The exact value of a bounded element function (Table 4-8) where its formula has one on finite operands. -/
def boundedVal (f a b : Nat) : Option Num :=
  let x := num32 a
  let u := units149 a
  if !finite32 a then none
  else match f with
    | 0x05 => some (logisticVal x)
    | 0x06 => some (x.mul (logisticVal x))
    | 0x07 => some (geluVal x)
    | 0x08 => if finite32 b then some ((x.mul (logisticVal x)).mul (num32 b)) else none
    | 0x09 => some (expVal u (2 ^ 149))
    | 0x0A => if u = 0 then none else some (quotVal (2 ^ 149) u)
    | 0x0B => if u ≤ 0 then none else some (rootRatio 1 (2 ^ 149) u.toNat)
    | _ => none

/-- The bound of a function, in units of the last place (Table 4-8). -/
def boundOf (f : Nat) : Nat := if f = 0x09 || f = 0x0A || f = 0x0B then 1 else 2

/-- A bounded element function: NaN for a NaN operand; a value within its bound; and, where the formula has no value or an operand is
infinite, of which the spec says nothing, a free value. -/
def bounded (f a b : Nat) : Nat :=
  if isNan32 a || (f = 0x08 && isNan32 b) then 0x7FC00000
  else match boundedVal f a b with
    | some v => within (boundOf f) v (Config.ulpPick f [a, b])
    | none => (Config.vecFn f [a, b]).toNat

/-- Element x of a row less the row's mean, over √(variance + ε), exactly: with all in units of 2^−149, n elements of sum `s` and of
summed squared deviations (times n²) `q`. -/
def lnormVal (x s : Int) (n q e : Nat) : Option Num :=
  let r := q + e * n ^ 3 * 2 ^ 149
  if r = 0 then none else some (rootRatio (n * x - s) n r)

/-- Element x of a row over √(mean square + ε), `q` the sum of squares. -/
def rmsVal (x : Int) (n q e : Nat) : Option Num :=
  let r := q + e * n * 2 ^ 149
  if r = 0 then none else some (rootRatio x n r)

/-- Element x under statistics of n elements: sum `s` and sum of squares `q`, both in units of 2^−149. -/
def statVal (centred : Bool) (x s q : Int) (n e : Nat) : Option Num :=
  if centred then
    let r := (n * q + e * n * n) * 2 ^ 149 - s * s
    if r ≤ 0 then none else some (rootRatio (n * x - s) 1 r.toNat)
  else
    let r := (q + e * n) * 2 ^ 149
    if r ≤ 0 then none else some (rootRatio x n r.toNat)

/-- `LNORM`, `RMSNORM` and `NAPPLY` of a row (Table 4-8): each element within 2 units of the last place of its formula. What the spec
gives no value for (an element that is no number, a root of nothing) is a free value. -/
def rowBounded (f : Nat) (row : List Nat) (eps : Nat) (stats : List Nat) : List Nat :=
  let n := row.length
  let us := row.map units149
  let s := us.foldl (· + ·) 0
  let e := (units149 eps).toNat
  let qd := us.foldl (fun t x => t + (((n : Int) * x - s).natAbs) ^ 2) 0
  let qs := us.foldl (fun t x => t + x.natAbs ^ 2) 0
  let val (x : Int) : Option Num :=
    if f = 0x10 then lnormVal x s n qd e
    else if f = 0x11 then rmsVal x n qs e
    else statVal Config.napplyCentres x (units149 (stats.getD 0 0)) (units149 (stats.getD 1 0)) n e
  (row.zipIdx).map fun p =>
    match (if (row ++ stats).all finite32 then val (units149 p.1) else none) with
    | some v => within 2 v (Config.ulpPick f (p.2 :: eps :: row ++ stats))
    | none => (Config.rowFn f (row ++ eps :: stats) p.2).toNat

/-! ## Exponentials and quotients of the softmax and of the selector (R177, R178, R182, R205) -/

/-- e^(x − y) for finite binary32 values, within 2 units of the last place; e^0 is exactly 1 (R177). -/
def expDiff (x y : Nat) : Nat :=
  if units149 x = units149 y then 0x3F800000
  else within 2 (expVal (units149 x - units149 y) (2 ^ 149)) (Config.ulpPick 0x20 [x, y])

/-- x ÷ y within 2 units of the last place; a quotient by 1 is x (R184). -/
def quot32 (x y : Nat) : Nat :=
  if y = 0x3F800000 then x
  else if !finite32 x || !finite32 y || units149 y = 0 then (Config.vecFn 0x21 [x, y]).toNat
  else within 2 (quotVal (units149 x) (units149 y)) (Config.ulpPick 0x21 [x, y])

/-- e^((x − y) ÷ t) for finite values and t > 0, within 2 units of the last place (R205). -/
def expScaled (x y t : Nat) : Nat :=
  within 2 (expVal (units149 x - units149 y) (units149 t)) (Config.ulpPick 0x22 [x, y, t])

/-! ## Rotary coding (R119) -/

/-- The phase of a pair, before its error: φ = p · s · θ^(−2j ÷ d). -/
def ropePhase (theta scale d j p : Nat) : Int :=
  match num32 theta, num32 scale with
  | .fin _ m e, .fin _ sm se =>
    let r := fxExp (-(2 * (j : Int) * fxLn m e / (d : Int)))
    (Num.fin false (p * sm) se |>.mul (fxNum r.1 r.2)).fx
  | _, _ => 0

/-- The error of a phase, below 2^−24 rad either way: which, the spec leaves open. -/
def phaseError (theta scale d j p : Nat) : Int :=
  ((Config.phasePick [theta, scale, d, j, p] % (2 ^ (fxBits - 23) - 1) : Nat) : Int) - ((2 ^ (fxBits - 24) - 1 : Nat) : Int)

/-- A rotated pair: each element within 2 units of the last place of its formula at the phase; an element that is no number gives
free values. -/
def rotate (theta scale d j p x y : Nat) : Nat × Nat :=
  if !finite32 x || !finite32 y then
    ((Config.vecFn 0x14 [theta, scale, d, j, p, x, y, 0]).toNat, (Config.vecFn 0x14 [theta, scale, d, j, p, x, y, 1]).toNat)
  else
    let cs := fxCosSin (ropePhase theta scale d j p + phaseError theta scale d j p)
    let c := fxNum cs.1
    let s := fxNum cs.2
    let pick (k : Nat) : Nat := Config.ulpPick 0x14 [theta, scale, d, j, p, x, y, k]
    (within 2 (((num32 x).mul c).add ((num32 y).mul s).neg) (pick 0),
      within 2 (((num32 x).mul s).add ((num32 y).mul c)) (pick 1))

end Sys2Proof.Machine
end

