-- ==== Sys2Proof/Machine/Reducer.lean ====
section
/-! DEFINITION. The stack reducers, the memory-side adders and the merge buffer (chapter 3), with the softmax and value-merge
post-operations (chapter 6). -/

namespace Sys2Proof.Machine

/-! ## Values of the post-operations (R177, R178) -/

/-- Negative infinity in FP32. -/
def negInf32 : Nat := 0xFF800000

/-- Is a pattern a NaN or an infinity? -/
def special32 (x : Nat) : Bool := x / 2 ^ 23 % 256 == 255

/-! ## Groups -/

/-- A group, by stack · 256 + index. -/
def State.groupAt (s : State) (k : Nat) : Option Group := (s.bk.groups.find? fun e => e.1 = k).map (·.2)

/-- Replace or remove (close) a group. -/
def State.setGroup (s : State) (k : Nat) (g : Option Group) : State :=
  { s with bk := { s.bk with groups := match g with | some x => smPut s.bk.groups k x | none => smDel s.bk.groups k } }

/-- Reduction-buffer space in use in a stack. -/
def State.bufferUsed (s : State) (st : Nat) : Nat :=
  (s.bk.groups.filter fun e => e.1 / 256 = st).foldl (fun n e => n + e.2.space) 0

/-- A partition's groups open in a stack. -/
def State.groupsOpen (s : State) (p st : Nat) : List Group :=
  (s.bk.groups.filter fun e => e.1 / 256 = st && e.2.part = p).map (·.2)

/-- May a partition's group open in a stack beside what it has open there: within its n ÷ 8 of the buffer and of the 256 group indices,
or while no partition that waits is below its share (R283)? -/
def State.reducerShare (s : State) (st : Nat) (g : Group) : Bool :=
  let hs := s.holders st
  let waiters := uniq ((s.bk.waiting.filter fun e => e.1 / 256 = st).map fun e => e.2.part)
  let used (p : Nat) : Nat := (s.groupsOpen p st).foldl (fun n x => n + x.space) 0
  let need (p : Nat) : Nat := if p = g.part then g.space else 1
  shareOk g.part waiters (fun p => (used p + need p) * 8 ≤ groupsOf hs p * (4 * 2 ^ 20))
    && shareOk g.part waiters (fun p => (s.groupsOpen p st).length < groupsOf hs p * 32)

/-- The first group waiting in a stack that its partition's share lets open, in order of arrival. -/
def State.nextOpen (s : State) (st : Nat) : Option (Nat × Group) :=
  s.bk.waiting.find? fun e => e.1 / 256 = st && s.reducerShare st e.2

/-- Groups that wait in a stack open in order while there is room and the stack is not paused (R78, R476). -/
def State.openWaiting (s : State) (st : Nat) : Nat → State
  | 0 => s
  | n + 1 =>
    match s.nextOpen st with
    | none => s
    | some e =>
      if s.bufferUsed st + e.2.space ≤ 4 * 2 ^ 20 && !s.paused .stk st then
        (({ s with bk := { s.bk with waiting := s.bk.waiting.erase e } } : State).setGroup e.1 (some e.2)).openWaiting st n
      else s

/-- The last of a walk's groups is closed and nothing of it remains: the walk ends, and its layer's attention is done
(R174, R175). -/
def State.walkOver (s : State) (id : Nat) : State :=
  match s.sv.walks.find? fun w => w.id = id with
  | none => s
  | some w =>
    let mine (t : Option WalkTag) : Bool := match t with
      | some g => g.walk = id
      | none => false
    let open_ := s.bk.groups.any (fun e => mine e.2.tag) || s.bk.waiting.any (fun e => mine e.2.tag)
      || s.bk.lists.any fun e => e.2.any fun d => mine d.tag
    let whole := w.todo = [] && w.units.all fun u => w.combined.any fun c => c.1 = u
    let joined := w.rounds.length ≤ 1 || w.units.all fun u => w.merged.any fun c =>
      c.head = u.head && c.sg = u.sg && c.pos = u.pos
    if open_ || !whole || !joined then s
    else
      let t : State := { s with sv := { s.sv with
        walks := s.sv.walks.filter fun x => x.id ≠ id
        steps := s.sv.steps.map fun x => if x.num = w.step then { x with walked := x.walked ++ [(w.seq, w.pass, w.layer)] } else x } }
      let t := t.bumpW F.HOD_WALKS_COUNT 1 w.hod
      let t := if t.sv.walks.any fun x => x.hod = w.hod then t else t.setFlag F.HOD_CUR_SEQ_VALID false w.hod
      t.hodFreed w.hod

/-- A descriptor asks for a group: refused where its index is open or waiting, else it waits for space (R78). -/
def State.askGroup (s : State) (d : Desc) (g : Group) : State :=
  let k := nbits d.w1 15 12 * 256 + nbits d.w1 7 0
  if !s.stackServes d.stack then s.workFail d.own St.stackUnavailable
  else if (s.groupAt k).isSome || s.bk.waiting.any (fun e => e.1 = k) then (s.passRefused d).workFail d.own St.badField
  else ({ s with bk := { s.bk with waiting := s.bk.waiting ++ [(k, g)] } } : State).openWaiting d.stack 1

/-- `SM_SCALE` of the model slot of a descriptor's walk or sequence (R177). -/
def State.smScale (s : State) (d : Desc) : Nat :=
  match d.tag.bind fun g => s.sv.walks.find? fun w => w.id = g.walk with
  | some w => (smGet (fun _ => {}) s.sv.mslots w.mslot : MSlot).smScale
  | none => match d.seq with
  | some q => (smGet (fun _ => {}) s.sv.mslots (smGet (fun _ => {}) s.sv.seqs q).mslot : MSlot).smScale
  | none => 0x3F800000

/-- GROUP_OPEN (R78). -/
def execGroupOpen (hod : Nat) (s : State) : Res :=
  match s.nextDesc hod (· == 9) with
  | none => done s
  | some (d, t) => done (t.askGroup d { d.group with scale := s.smScale d, tag := d.tag })

/-- GROUP_SPACE_RESERVED (R78). -/
def execGroupSpaceReserved (stack : Nat) (s : State) : Res := done (s.openWaiting stack 1)

/-- Number of 32-output blocks of a group. -/
def Group.blocks (g : Group) : Nat := (g.outputs + 31) / 32

/-- The outputs of a block. -/
def Group.blockOuts (g : Group) (b : Nat) : List Nat := (List.range 32).map (32 * b + ·) |>.filter (· < g.outputs)

/-- A sum of a group. -/
def Group.sum (g : Group) (o slot : Nat) : Nat := smGet (fun _ => 0) g.sums (o * 8 + slot)

/-- A result is written for the work that owns it: a stack that does not serve takes nothing, and a place that has changed hands or
kind is refused (R88, R93, R96). -/
def State.putFor (s : State) (o : Own) (part a : Nat) (bs : List Byte) (bad : List Nat := []) : State :=
  match (s.sampled o).rangeStatus (.part part) true a bs.length with
  | 0 => s.storeFor o a bs bad
  | c => s.workFail o c

/-- A group's result is written; a round's output goes into the step's own WORK space (R182). -/
def State.groupWrite (s : State) (g : Group) (a : Nat) (bs : List Byte) (bad : List Nat := []) : State :=
  if g.units ≠ [] then s.writeSpace g.own g.units a bs bad else s.putFor g.own g.part a bs bad

/-- Write a block's outputs to `DEST`, slot-major, in `OUTFMT` (R79). -/
def State.writeBlock (s : State) (g : Group) (b : Nat) : State :=
  ((bitsOf g.slots 8).zipIdx).foldl (fun t p =>
    let a := g.dest + (p.2 * g.outputs + 32 * b) * g.elemBytes
    let bytes := (g.blockOuts b).flatMap fun o =>
      let v := g.sum o p.1
      leBytes (if g.outfmt = 1 then convertFmt 7 5 v else v) g.elemBytes
    t.groupWrite g a bytes (if g.bad.contains b then wordsOf a bytes.length else [])) s

/-- Forward a block to the group of the same index in the home stack, as one contribution (R79). -/
def State.forwardBlock (s : State) (k : Nat) (g : Group) (b : Nat) : State :=
  let c : Contrib := { group := g.home * 256 + k % 256, outBase := 32 * b, lanes := (g.blockOuts b).length
                       slots := g.slots, bad := g.bad.contains b, own := g.own
                       sums := (g.blockOuts b).flatMap fun o => (bitsOf g.slots 8).map fun sl => (o * 8 + sl, g.sum o sl) }
  { s with bk := { s.bk with arriving := s.bk.arriving ++ [c] } }

/-- The 64-byte record of (m, ℓ) by slot (R177). -/
def recordBytes (g : Group) (xs : List (Nat × Nat)) : List Byte :=
  (List.range 8).flatMap fun sl =>
    let v := if nbit g.slots sl then xs.getD sl (0, 0) else (0, 0)
    leBytes v.1 4 ++ leBytes v.2 4

/-- The canonical quiet NaN of FP32. -/
def nan32 : Nat := 0x7FC00000

/-- The running maximum and sum of a slot take in the scores of a completed block: a raised maximum rescales the sum once, then each
score adds its exponential; a NaN or infinite score spoils the slot (R177). -/
def statBlock (st : Nat × Nat) (xs : List Nat) : Nat × Nat :=
  if xs = [] then st
  else if xs.any special32 || st.1 = nan32 then (nan32, nan32)
  else
    let m := xs.foldl max32 st.1
    let l := if st.1 = negInf32 then 0 else if m = st.1 then st.2 else mul32 st.2 (expDiff st.1 m)
    (m, xs.foldl (fun l x => add32 l (expDiff x m)) l)

/-- Write the weights of a softmax group to `DEST` + 64 (R177, step 4). -/
def State.writeWeights (s : State) (g : Group) (gl : List (Nat × Nat)) : State :=
  ((bitsOf g.slots 8).zipIdx).foldl (fun t p =>
    let ml := gl.getD p.1 (0, 0)
    let w (o : Nat) : Nat :=
      if special32 ml.1 || special32 ml.2 then 0x7FC0
      else if g.sums.any (fun e => e.1 = o * 8 + p.1) then
        convertFmt 7 5 (quot32 (expDiff (g.sum o p.1) ml.1) ml.2)
      else 0
    t.groupWrite g (g.dest + 64 + p.2 * g.outputs * 2) ((List.range g.outputs).flatMap fun o => leBytes (w o) 2)) s

/-- A group whose blocks are all complete goes on as its post-operation says, and closes (R79, R81, R177, R180). -/
def State.groupTick (s : State) (k : Nat) : State :=
  match s.groupAt k with
  | none => s
  | some g =>
    if g.done.length < g.blocks then s
    else if g.post = 1 then
      if !g.local_ then (s.groupWrite g g.dest (recordBytes g g.stats)).setGroup k (some { g with local_ := true })
      else match g.global with
        | some gl => ((s.writeWeights g gl).setGroup k none).openWaiting (k / 256) 1
        | none => s
    else if g.post = 2 && g.home = k / 256 then
      match g.global with
      | some gl =>
        let t := (List.range g.blocks).foldl (fun u b => u.writeBlock g b) s
        let u := ((t.groupWrite g (g.dest + npop g.slots 8 * g.outputs * g.elemBytes) (recordBytes g gl)).setGroup k none).openWaiting
          (k / 256) 1
        match g.tag with
        | some x => u.walkOver x.walk
        | none => u
      | none => s
    else (s.setGroup k none).openWaiting (k / 256) 1

/-- A block has all its contributions (R79, R177, R180). -/
def State.blockDone (s : State) (k : Nat) (g : Group) (b : Nat) : State :=
  let g1 := { g with done := g.done ++ [b] }
  let t :=
    if g.post = 1 then
      let sc (o sl : Nat) : Nat := mul32 g.scale (g.sum o sl)
      let outs := (g.blockOuts b).filter fun o => g.sums.any fun e => e.1 / 8 = o
      let st := (List.range 8).map fun sl =>
        statBlock (g.stats.getD sl (negInf32, 0)) (outs.map fun o => sc o sl)
      let sums := outs.foldl (fun m o => (bitsOf g.slots 8).foldl (fun m sl => smPut m (o * 8 + sl) (sc o sl)) m) g.sums
      s.setGroup k (some { g1 with stats := st, sums := sums })
    else if g.home ≠ k / 256 then (s.forwardBlock k g b).setGroup k (some g1)
    else if g.post = 2 then s.setGroup k (some g1)
    else (s.writeBlock g b).setGroup k (some g1)
  t.groupTick k

/-- The blocks a contribution touches. -/
def Contrib.blocks (c : Contrib) : List Nat :=
  if c.lanes = 0 then [] else (List.range ((c.outBase + c.lanes - 1) / 32 - c.outBase / 32 + 1)).map (c.outBase / 32 + ·)

/-- Is a contribution discarded whole (R69)? -/
def Contrib.discarded (c : Contrib) (g : Group) : Bool :=
  (bitsOf c.slots 8).any (fun sl => !nbit g.slots sl) || g.outputs < c.outBase + c.lanes
    || c.blocks.any (fun b => g.contrib ≤ smGet (fun _ => 0) g.count b)

/-- A contribution reaches its group (R69, R79, R80). -/
def State.contribute (s : State) (c : Contrib) : State :=
  match s.groupAt c.group with
  | none => s.workFail c.own St.badField
  | some g =>
    if c.discarded g then s.workFail c.own St.badField
    else
      let sums := c.sums.foldl (fun m e =>
        smPut m e.1 (if m.any (fun x => x.1 = e.1) then add32 (smGet (fun _ => 0) m e.1) e.2 else add32 0 e.2)) g.sums
      let cnt := c.blocks.foldl (fun m b => smPut m b (smGet (fun _ => 0) m b + 1)) g.count
      let g1 := { g with sums := sums, count := cnt, bad := if c.bad then g.bad ++ c.blocks else g.bad }
      c.blocks.foldl (fun t b =>
        match t.groupAt c.group with
        | some h => if smGet (fun _ => 0) cnt b = h.contrib && !h.done.contains b then t.blockDone c.group h b else t
        | none => t) (s.setGroup c.group (some g1))

/-- CONTRIBUTION (R79, R80): the k-th contribution on its way arrives; the order of arrival is open. -/
def execContribution (k : Nat) (s : State) : Res :=
  match s.bk.arriving[k]? with
  | none => done s
  | some c => done (({ s with bk := { s.bk with arriving := s.bk.arriving.eraseIdx k } } : State).contribute c)

/-- The groups a command opened close with it; blocks not complete are neither written nor forwarded (R81). -/
def State.closeGroups (s : State) (p : Own → Bool) : State :=
  let gone := s.bk.groups.filter fun e => p e.2.own
  let t : State := { s with bk := { s.bk with
    groups := s.bk.groups.filter fun e => !p e.2.own, waiting := s.bk.waiting.filter fun e => !p e.2.own } }
  gone.foldl (fun u e => u.openWaiting (e.1 / 256) 1) t

/-! ## Memory-side adders (R82, R83) -/

/-- MEMORY_SIDE_ADD (R82, R83, R88, R93, R279): under the partition's STACK regulator. -/
def execMemorySideAdd (part type addr : Nat) (data : List Byte) (s : State) : Res :=
  if !addFits type addr data.length then done (s.emit (.memReply part St.badField []))
  else done (s.enter (.part part) part 6 (s.global addr)
    { op := 2, addr := addr, len := data.length, type := type, data := data.map some })

/-- MERGE_IDLE_FLUSH (R84): the entry of the line is written to DRAM. -/
def execMergeIdleFlush (line : Nat) (s : State) : Res :=
  match s.bk.merge.find? fun e => e.line = line with
  | some e => done (s.mergeOut e)
  | none => done s

end Sys2Proof.Machine
end

