-- ==== Sys2Proof/Machine/Stacks.lean ====
section
/-! DEFINITION. Region-table commits, stack repairs, stack training and the compute-timing registers (chapter 3). -/

namespace Sys2Proof.Machine

/-! ## Region commits (R90 to R94, R466) -/

/-- Granules of the grade. -/
def State.granules (s : State) : Nat := if s.dv.gradeC then 18432 else 24576

/-- The entry a commit would store: a host changes only `KIND` and `MUTABLE`; reserved bits are zero; outside stack S0
`SPREAD` is not stored (R90, R91). -/
def State.commitValue (s : State) (r : Requester) (g lo hi : Nat) : Nat :=
  let asked := lo % 2 ^ 32 + (hi / 2 ^ 15 % 2 ^ 17) * 2 ^ 47
  let old := s.regionRaw g
  let v := match r with
    | .host _ => old % 2 ^ 61 + asked / 2 ^ 61 * 2 ^ 61
    | _ => asked
  if g < 1536 then v else nsetBit v 59 false

/-- Does a granule of the stripe set of `g` satisfy `p`? -/
def State.stripeAny (s : State) (g : Nat) (p : Nat → Bool) : Bool :=
  (List.range (if s.dv.gradeC then 12 else 16)).any fun st => p (st * 1536 + g % 1536)

/-- Is the commit of `v` refused (R90)? -/
def State.commitRefused (s : State) (g v : Nat) : Bool :=
  let was := nbit (s.regionRaw (g % 1536)) 59
  let spread := if g < 1536 then nbit v 59 else was
  2 ≤ v / 2 ^ 62 || (v / 2 ^ 62 = 1 && spread) || (spread && !was && s.stripeAny g s.isOpen)
    || (nbit v 60 && nbit v 61) || (spread != was && s.stripeAny g fun h => nbit (s.region h) 58)

/-- Store an entry and count the commit. -/
def State.putRegion (s : State) (g v : Nat) : State :=
  ({ s with bk := { s.bk with regions := smSet (fun _ => 0x2000000000000000) s.bk.regions g v } } : State).bumpW F.REG_GEN_GEN

/-- A commit attempt of a requester: its status and the state after, the requester's staged half reloaded. -/
def State.regCommit (s : State) (r : Requester) (lo hi : Nat) : Nat × State :=
  let g := s.getF F.REG_INDEX_GRANULE 0 (reqCode r)
  if s.granules ≤ g then (St.ok, s)
  else
    let allowed := match r with
      | .host a => match s.granuleOwner g with
        | some p => s.hasRight a p .reg
        | none => false
      | _ => true
    if !allowed then (St.accessDenied, s)
    else
      let v := s.commitValue r g lo hi
      let old := s.regionRaw g
      let res : Nat × State :=
        if s.commitRefused g v then (St.commitRefused, s.err .reg 0 0 (some (s.global (g * 2 ^ 26))))
        else if (nbit old 58 && !nbit v 58) || nbits old 57 53 ≠ nbits v 57 53 then
          (St.ok, { s with bk := { s.bk with fills := smPut s.bk.fills g v } })
        else (St.ok, s.putRegion g v)
      (res.1, res.2.setReg A.REG_ENTRY_LO (BitVec.ofNat 32 (res.2.regionRaw g)) 0 (reqCode r))

/-- A write of `REG_INDEX` selects a granule and reloads the requester's staged half (R90). -/
def State.regIndexWrite (s : State) (r : Requester) (v : Nat) : State :=
  let t := s.setF F.REG_INDEX_GRANULE v 0 (reqCode r)
  let g := v % 2 ^ 15
  t.setReg A.REG_ENTRY_LO (if s.granules ≤ g then 0 else BitVec.ofNat 32 (s.regionRaw g)) 0 (reqCode r)

/-- A 4-byte write of `REG_ENTRY_LO` stages the low half (R90). -/
def State.regStage (s : State) (r : Requester) (v : Nat) : State :=
  if s.granules ≤ s.getF F.REG_INDEX_GRANULE 0 (reqCode r) then s
  else s.setReg A.REG_ENTRY_LO (BitVec.ofNat 32 v) 0 (reqCode r)

/-- The staged half of a requester. -/
def State.regStaged (s : State) (r : Requester) : Nat := (s.reg A.REG_ENTRY_LO 0 (reqCode r)).toNat

/-- REGION_FILL_DONE (R466): the granule is filled with zero words and the commit takes effect. -/
def execRegionFillDone (granule : Nat) (s : State) : Res :=
  match s.bk.fills.find? fun e => e.1 = granule with
  | none => done s
  | some e =>
    let t := (s.fillZero (granule * 2 ^ 26) (2 ^ 26)).putRegion granule e.2
    done { t with bk := { t.bk with
      fills := smDel t.bk.fills granule, merge := t.bk.merge.filter fun m => m.line / 2 ^ 20 ≠ granule } }

/-! ## Repairs (R95) -/

/-- Firmware's repair record of a row (row plus one) or a bank (0) of a stack's bank. -/
def State.recordRepair (s : State) (bk row : Nat) : State :=
  { s with ftg := { s.ftg with repairRecord := s.ftg.repairRecord ++ [(bk, row)] } }

/-- Offset within its stack of a row of a bank: 2 KiB (R58). -/
def rowOffset (die bank row : Nat) : Nat := row * 2 ^ 21 + die * 2 ^ 17 + bank * 2 ^ 11

/-- Spare banks left on a die. -/
def State.bankSpares (s : State) (st die : Nat) : Nat := nbits (s.getF F.STK_SPARE_BANKS_LEFT st) (2 * die + 1) (2 * die)

/-- A write of `STK_RPR_CMD`: a repair starts, or fails for want of a spare or of a known `OP`. -/
def State.rprCmd (s : State) (st v : Nat) : State :=
  let op := nbits v 31 28
  let die := nbits v 27 24
  let bk := bankKey st (die * 64 + nbits v 23 18)
  let fail (s : State) : State := s.setFlag F.STK_RPR_STAT_FAIL true st
  let start (s : State) : State :=
    (((({ s with bk := { s.bk with repair := smPut s.bk.repair st (v + 1) } } : State).setFlag F.STK_RPR_STAT_BUSY true st).setFlag
      F.STK_RPR_STAT_FAIL false st).setF F.STK_RPR_STAT_PROGRESS 0 st).journalOpen 1 1 st
  let gone (s : State) : State :=
    ((fail s).setFlag F.STK_RPR_STAT_EXHAUSTED true st).err .stk st 5
      (some (s.global (s.addrIn st (rowOffset die (nbits v 23 18) (nbits v 15 0)))))
  if s.flag F.STK_RPR_STAT_BUSY st then s
  else if op = 1 then (if smGet (fun _ => 0) s.bk.rowSpares bk < 96 then start s else gone s)
  else if op = 2 then (if 0 < s.bankSpares st die then start s else gone s)
  else fail s

/-- The copy corrects every correctable word of the words listed. -/
def State.correctAll (s : State) (p : Nat → Bool) : State :=
  (s.synd.filter fun e => p (e.1 * 8)).foldl (fun t e => t.correctWord (e.1 * 8)) s

/-- REPAIR_DONE (R95): the copy ends, corrected, and the spare is switched in while the bank is in no pass. -/
def execRepairDone (stack : Nat) (s : State) : Res :=
  match s.bk.repair.find? fun e => e.1 = stack with
  | none => done s
  | some e =>
    let v := e.2 - 1
    let die := nbits v 27 24
    let bank := nbits v 23 18
    let row := nbits v 15 0
    let bk := bankKey stack (die * 64 + bank)
    if (s.runAt bk).isSome then done s
    else
      let t : State := { s with bk := { s.bk with repair := smDel s.bk.repair stack } }
      let t := (t.setFlag F.STK_RPR_STAT_BUSY false stack).journalClose 1 stack
      if nbits v 31 28 = 1 then
        let a := t.addrIn stack (rowOffset die bank row)
        let n := smGet (fun _ => 0) t.bk.rowSpares bk + 1
        let u : State := { (t.correctAll fun x => a ≤ x && x < a + 2048) with
          bk := { t.bk with rowSpares := smSet (fun _ => 0) t.bk.rowSpares bk n } }
        let u := u.setF F.STK_SPARE_ROWS_TOTAL (u.getF F.STK_SPARE_ROWS_TOTAL stack - 1) stack
        done ((u.setF F.STK_SPARE_ROWS_MIN_BANK (min (u.getF F.STK_SPARE_ROWS_MIN_BANK stack) (96 - n)) stack).recordRepair
          bk (row + 1))
      else
        let u := t.correctAll fun x => x < 16 * stackBytes && t.bankAt x = bk
        let left := u.getF F.STK_SPARE_BANKS_LEFT stack
        done ((u.setF F.STK_SPARE_BANKS_LEFT (putField left (2 * die + 1) (2 * die) (u.bankSpares stack die - 1)) stack).recordRepair
          bk 0)

/-! ## Training (R402, R440, R443) -/

/-- A write of 1 to `STK_TRAIN.START` by a Trowel core. -/
def State.stkTrain (s : State) (st : Nat) : State :=
  if s.flag F.STK_TRAIN_START st then s
  else (((s.setFlag F.STK_TRAIN_START true st).setF F.STK_TRAIN_PHASE 1 st).setF F.STK_TRAIN_RESULT 0 st).setUnit .stk st 2

/-- Every word a stack holds is filled with zero. -/
def State.fillStack (s : State) (st : Nat) : State :=
  let kept (a : Nat) : Bool := 16 * stackBytes ≤ a || s.heldBy a ≠ st
  { s with mem := s.mem.filter (fun c => kept c.1), synd := s.synd.filter fun e => kept (e.1 * 8) }

/-- STK_TRAIN_DONE (R95, R402, R440, R443): `result` 0 is a pass, else the first failing channel plus 1. In start-up a
trained stack waits for the common fill; at any other time its own fill has run and it is ready. -/
def execStkTrainDone (stack result dieOk chOk : Nat) (s : State) : Res :=
  if !s.flag F.STK_TRAIN_START stack then done s
  else
    let t := (s.setFlag F.STK_TRAIN_START false stack).setF F.STK_TRAIN_RESULT result stack
    let t := (t.setF F.STK_STATE_DIE_OK dieOk stack).setPair A.STK_CHOK_LO A.STK_CHOK_HI chOk stack
    let t : State := { t with dv := { t.dv with stacksDone := if t.dv.stacksDone.contains stack then t.dv.stacksDone
      else t.dv.stacksDone ++ [stack] } }
    if result ≠ 0 then done (((t.setF F.STK_TRAIN_PHASE 5 stack).setUnit .stk stack 1).err .stk stack 2)
    else if t.dv.st = .bringup then done (t.setF F.STK_TRAIN_PHASE 3 stack)
    else done (((t.fillStack stack).setF F.STK_TRAIN_PHASE 4 stack).setUnit .stk stack 3)

/-! ## Compute-timing registers (R71) -/

/-- A count written as 0 is stored as 1, above the level-0 value as that value. -/
def tighter (hi v : Nat) : Nat := if v = 0 then 1 else min v hi

/-- What a write of a compute-timing register stores (Table 3-16). -/
def timingValue (addr v : Nat) : Nat :=
  if addr = A.STK_TCAW then max 40 (nbits v 15 8) * 256 + tighter 8 (nbits v 7 0)
  else if addr = A.STK_TCRRD then max 4 (nbits v 7 0)
  else if addr = A.STK_CONC then tighter 32 (nbits v 5 0)
  else if addr = A.STK_TCPW then tighter 768 (nbits v 9 0)
  else if addr = A.STK_DERATE then nbits v 9 8 * 256
  else v

end Sys2Proof.Machine
end

