-- ==== Sys2Proof/Machine/YardOps.lean ====
section
/-! DEFINITION. The Yard (chapter 9): class limits and quotas, streams, accesses of a partition, the block table, spares, WORK space and
ACQUIRE. -/

namespace Sys2Proof.Machine

/-! ## Limits (R254, R267) -/

/-- A write of `YRD_CLSk` (R267). -/
def State.clsWrite (s : State) (k v : Nat) : State :=
  let floor := if k = 5 then max 32 (nbits v 25 16) else nbits v 25 16
  let cap := clampN floor 1024 (nbits v 10 0)
  if k = 1 then s
  else
    let t := (s.setF (clsFloor k) floor).setF (clsCap k) cap
    if 1024 < [0, 2, 3, 4, 5].foldl (fun n j => n + t.getF (clsFloor j)) 0 then s.err .yrd blockWide 4 else t

/-- A write of `YRD_Q_CACHE` of a partition (R254). -/
def State.quotaCacheWrite (s : State) (p v : Nat) : State :=
  let t := s.setReg A.YRD_Q_CACHE (BitVec.ofNat 32 v) p
  let total := (List.range 48).foldl (fun n sl => n + s.cacheBlocks sl) 0
  if total < (List.range 32).foldl (fun n q => n + t.getF F.YRD_Q_CACHE_FLOOR q) 0 then s.err .yrd blockWide 4 else t

/-! ## Streams (R255) -/

/-- May a prefetcher fetch a line for a partition now? A line of this device's stack memory that the partition may read, or one of
another device's stack memory for which the slab has a fill-buffer line; a line that may not be cached is passed over. -/
inductive Fetch where
  | skip | wait | local_ | remote
deriving DecidableEq, Repr

/-- What a prefetcher does about a line. -/
def State.fetchOf (s : State) (part line : Nat) : Fetch :=
  let slab := slabOfLine line
  let ga := line * 64
  if (s.findLine line).isSome || s.cacheBlocks slab = 0 then .skip
  else if devOf ga = s.dv.devNum then
    if ga / 2 ^ 44 % 256 ≠ 0 || 16 * stackBytes ≤ localOf ga || s.rangeStatus (.part part) false (localOf ga) 64 ≠ 0 then .skip
    else if s.classAdmits slab 0 && s.fare part 1 64 ≠ .waits && s.fare part 0 64 ≠ .waits then .local_ else .wait
  else if !remoteCacheable ga then .skip
  else if s.classAdmits slab 0 && s.fills slab < 256 && s.fare part 1 64 ≠ .waits then .remote else .wait

/-- Fetch the lines of a stream that lie within the prefetch depth, as far as the slabs admit it. -/
def State.prefetch (s : State) (st : Stream) : Nat → State × Stream
  | 0 => (s, st)
  | n + 1 =>
    if st.last < st.next then (s, st)
    else
      let slab := slabOfLine st.next
      let on (t : State) : State × Stream := t.prefetch { st with next := st.next + 1 } n
      match s.fetchOf st.part st.next with
      | .skip => on s
      | .wait => (s, st)
      | .local_ =>
        let r := ((s.takeFare st.part 1 64).takeFare st.part 0 64).allocLine
          { line := st.next, slab := slab, part := st.part, dirty := false, remote := false, prefetched := true, bytes := [] }
        on (if r.1 then r.2.bumpW F.YRD_PF_LINES_COUNT 1 (s.physSlab slab) else s)
      | .remote =>
        match (s.takeFare st.part 1 64).sendRemote { top := 1, addr := st.next * 64, part := st.part, type := 0, len := 64, data := []
                                                     use := .fill slab 0 st.part true [] } with
        | (0, t) => on (t.bumpW F.YRD_PF_LINES_COUNT 1 (s.physSlab slab))
        | _ => on s

/-- The streams that hold a line run on from it. -/
def State.streamsRun (s : State) (line : Nat) : State :=
  s.yd.streams.foldl (fun t st =>
    let depth := t.getF F.YRD_PF_CTL_DEPTH (t.physSlab st.slab)
    if st.first ≤ line && line ≤ st.last && st.next ≤ line + depth then
      let r := t.prefetch st (line + depth + 1 - st.next)
      { r.1 with yd := { r.1.yd with streams :=
          (r.1.yd.streams.erase st) ++ (if r.2.last < r.2.next then [] else [r.2]) } }
    else t) s

/-- STREAM_DECLARE (R255): the slab of the first line assigns a prefetcher if it has one free and assigns streams. -/
def execStreamDeclare (part base len : Nat) (s : State) : Res :=
  let first := base / 64
  let slab := s.slabOf base
  let ph := s.physSlab slab
  if len = 0 || !s.flag F.YRD_PF_CTL_ENABLE ph || 64 ≤ (s.yd.streams.filter fun x => x.slab = slab).length then done s
  else
    let st : Stream := { slab := slab, part := part, first := first, next := first, last := (base + len - 1) / 64 }
    done (({ s with yd := { s.yd with streams := s.yd.streams ++ [st] } } : State).streamsRun first)

/-! ## Accesses of a partition (R249, R253, R265 to R268, R279 to R281) -/

/-- YARD_ACCESS: a read (0), write (1) or add (2) of a partition, of credit class `cls`, reaches the slab of its address. Within a line, or
in the direct window, it is one request; it waits at its source where its class, the slab's fill buffer or its regulator gives it
nothing. `fault` inverts bits of the word first: of the line's copy where the Yard holds one, else of the stored word. -/
def execYardAccess (part op type cls addr : Nat) (data : List Byte) (len : Nat) (fault : BitVec 72) (s : State) : Res :=
  let n := if op = 0 then len else data.length
  let a := localOf addr
  let window : Bool := devOf addr = s.dv.devNum && yardBase ≤ a && a < yardBase + 24576 * 65536
  if addr / 2 ^ 44 % 256 ≠ 0 || (!window && 64 < addr % 64 + n) || 2 < op || !([0, 2, 3, 4, 5].contains cls) then
    done (s.emit (.memReply part St.addressUnmapped []))
  else
    let t := match s.findLine (addr / 64) with
      | some x => if fault = 0 then s else s.flipLine x addr fault
      | none => if devOf addr = s.dv.devNum then s.flipBits a fault else s
    let u := t.enter (.part part) part cls addr { op := op, addr := a, len := n, type := type, data := data.map some }
    done (if op = 0 then u.streamsRun (addr / 64) else u)

/-- REGULATOR_REFILL (R279): every bucket takes a refill; what is owed is covered, and what waits goes on as far as the buckets reach. -/
def execRegulatorRefill (s : State) : Res := done (((s.refill.payOwed).goUnpaid).yardAll).countWaits

/-! ## The block table (R248 to R250) -/

/-- Does a WORK block hold device structures in use (R250)? -/
def State.blockInUse (s : State) (b : Nat) : Bool :=
  s.channel0Block b || s.ln.expiryAt.any fun e => e.2 / 64 = yardBase / 65536 + b

/-- A write of `YRD_BENTRY` by firmware: refused, or the block begins its conversion. -/
def State.bentryWrite (s : State) (b v : Nat) : State :=
  if 24576 ≤ b then s
  else if v / 2 ^ 30 % 4 = 3 || (s.blockKind b = 2 && s.blockInUse b) then
    s.err .yrd blockWide 3 (some (s.global (yardBase + b * 65536)))
  else
    let was := match s.blockOwner b with | some p => p + 1 | none => 0
    let c : Conv := { block := b, entry := nbits v 31 24, was := was }
    let t : State := { s with yd := { s.yd with converting := s.yd.converting.filter (fun x => x.block ≠ b) ++ [c] } }
    (t.setFlag F.YRD_BENTRY_BUSY true 0 b).bumpW F.YRD_BGEN_GEN

/-- Lines a slab can no longer hold leave it, the least recently used first, dirty ones written back (R250). -/
def State.trimSlab (s : State) (slab : Nat) : State :=
  let here := s.yd.lines.filter fun x => x.slab = slab
  (here.take (here.length - s.cacheBlocks slab * 1024)).foldl State.lineOut s

/-- BLOCK_CONVERSION_DONE (R250): once the previous owner's earlier commands and steps have ended. -/
def execBlockConversionDone (block : Nat) (s : State) : Res :=
  match s.yd.converting.find? fun c => c.block = block with
  | none => done s
  | some c =>
    let held := c.was ≠ 0 && (s.qu.cmds.any (fun x => x.part + 1 = c.was && x.phase ≠ 0 && !x.seen.conv.contains c)
      || s.sv.steps.any (fun x => x.part + 1 = c.was && !x.seen.conv.contains c))
    if held then done s
    else
      let owner := if nbit c.entry 5 then c.entry % 32 + 1 else 0
      let a := yardBase + block * 65536
      let fill := (s.blockKind block = 0 && c.entry / 64 ≠ 0) || owner ≠ c.was
      let t := if fill then s.fillZero a 65536 else s
      let t := t.setReg A.YRD_BENTRY (BitVec.ofNat 32 (c.entry * 2 ^ 24)) 0 block
      let t : State := { t with yd := { t.yd with converting := t.yd.converting.filter fun x => x.block ≠ block } }
      done (t.trimSlab (block / 512))

/-! ## Spares (R272) -/

/-- A write of `YRD_SPARE_CMD`: a replacement starts, or fails. -/
def State.slabSpare (s : State) (op logical : Nat) : State :=
  let fail := (s.setFlag F.YRD_SPARE_STAT_FAIL true).err .yrd blockWide 5
  if s.flag F.YRD_SPARE_STAT_BUSY then s
  else if op ≠ 1 || 48 ≤ logical then fail
  else match s.yd.spares with
    | [] => fail
    | sp :: _ =>
      let t : State := { s with yd := { s.yd with
        replacing := some (logical, sp) } }
      let t := (s.yd.lines.filter fun x => x.slab = logical).foldl State.lineOut t
      (((t.setFlag F.YRD_SPARE_STAT_BUSY true).setFlag F.YRD_SPARE_STAT_FAIL false).setF F.YRD_SPARE_STAT_PROGRESS 0).journalOpen
        1 3 logical

/-- SLAB_REPLACE_DONE (R245, R272): the copy, corrected, ends and the logical number switches; the old slab and its plane are retired. -/
def execSlabReplaceDone (s : State) : Res :=
  match s.yd.replacing with
  | none => done s
  | some (l, sp) =>
    let lo := yardBase + l * 2 ^ 25
    let t := s.correctAll fun x => lo ≤ x && x < lo + 2 ^ 25
    let old := t.physSlab l
    let t : State := { t with yd := { t.yd with
      replacing := none, slabOf := smSet (fun l => l) t.yd.slabOf l sp, spares := t.yd.spares.erase sp
      retired := t.yd.retired ++ [old] } }
    let t := ((t.setUnit .yrd sp 3).setUnit .yrd old 1).setFlag F.YRD_SPARE_STAT_BUSY false
    let ok := t.getPair A.BND_PLANE_OK_LO A.BND_PLANE_OK_HI
    let t := (t.setPair A.BND_PLANE_OK_LO A.BND_PLANE_OK_HI (if nbit ok old then ok - 2 ^ old else ok)).bumpGen .bnd old
    done ((t.setF F.YRD_SPARE_STAT_SPARES_LEFT t.yd.spares.length).journalClose 3 l)

/-! ## WORK space (R251) -/

/-- The WORK blocks a partition owns, those being converted apart. -/
def State.workBlocks (s : State) (p : Nat) : List Nat :=
  (s.regs.filterMap fun e =>
    let b := e.1 % 0x8000
    if e.1 / 0x8000 = A.YRD_BENTRY * 0x4000 && b < 24576 && s.blockKind b = 2 && s.blockOwner b = some p then some b else none).filter
    fun b => !s.yd.converting.any fun c => c.block = b

/-- WORK space a partition owns, KiB. -/
def State.workOwned (s : State) (p : Nat) : Nat := (s.workBlocks p).length * 64

/-- WORK space in use, KiB. -/
def State.workUsed (s : State) (p : Nat) : Nat := s.yd.units.countP fun e => e.2 = p

/-- Units of 1 KiB that a partition's WORK blocks have free, lowest address first (DESIGN CHOICE, log 68). -/
def State.freeUnits (s : State) (p : Nat) : List Nat :=
  (s.workBlocks p).flatMap fun b => ((List.range 64).map fun k => (yardBase + b * 65536) / 1024 + k).filter fun u =>
    !s.yd.units.any fun e => e.1 = u

/-- Take `n` KiB of WORK space, if it is free: the units and the state after. -/
def State.takeWork (s : State) (p n : Nat) : Option (List Nat × State) :=
  if n = 0 then some ([], s)
  else
    let us := (s.freeUnits p).take n
    if us.length < n then none
    else
      let t : State := { s with yd := { s.yd with units := s.yd.units ++ us.map fun u => (u, p) } }
      some (us, t.raiseMax F.YRD_Q_WPEAK_KIB (t.workUsed p) p)

/-- Give units of WORK space back. -/
def State.giveWork (s : State) (us : List Nat) : State :=
  { s with yd := { s.yd with units := s.yd.units.filter fun e => !us.contains e.1 } }

/-! ## The expiry list (R354) -/

/-- Listed sequences that 1 KiB of WORK space holds: 16 bytes each (DESIGN CHOICE, log 71). -/
def expiryPerUnit : Nat := 64

/-- A partition's expiry list (R354): index, generation and queue of each sequence. -/
def State.expiryOf (s : State) (p : Nat) : List (Nat × Nat × Nat) := smGet (fun _ => []) s.ln.expiry p

/-- Sequences join a partition's expiry list, which lies in its WORK blocks, as far as they have room. -/
def State.listExpired (s : State) (p : Nat) (qs : List (Nat × Nat × Nat)) : State :=
  let list := s.expiryOf p ++ qs
  let more := (list.length + expiryPerUnit - 1) / expiryPerUnit - s.ln.expiryAt.countP fun e => e.1 = p
  let (us, t) := (s.takeWork p (min more (s.freeUnits p).length)).getD ([], s)
  { t with ln := { t.ln with expiry := smSet (fun _ => []) t.ln.expiry p list, expiryAt := t.ln.expiryAt ++ us.map fun u => (p, u) } }

/-- The list is cleared, and its WORK space is free. -/
def State.clearExpired (s : State) (p : Nat) : State :=
  let t := s.giveWork ((s.ln.expiryAt.filter fun e => e.1 = p).map (·.2))
  { t with ln := { t.ln with expiry := smDel t.ln.expiry p, expiryAt := t.ln.expiryAt.filter fun e => e.1 ≠ p } }

/-! ## ACQUIRE (R259 to R261) -/

/-- Is a Bed-resident copy in a brick of the partition? -/
def State.residentOf (s : State) (part : Nat) (x : Resident) : Bool := match s.logicalOf x.brick with
  | some l => s.holdsBrick part l
  | none => false

/-- An ACQUIRE: drop the copies of other devices' memory, their streams and fills, and the Bed-resident copies of a partition's bricks, that
the tests pick. -/
def State.acquire (s : State) (part : Nat) (line : YLine → Bool) (stream : Stream → Bool) (fill : QMsg → Bool) (copy : Resident → Bool) :
    State :=
  let t : State := { s with yd := { s.yd with
    lines := s.yd.lines.filter fun x => !(x.remote && line x)
    streams := s.yd.streams.filter fun x => !(devOf (x.first * 64) != s.dv.devNum && stream x)
    resident := s.yd.resident.filter fun x => !(copy x && s.residentOf part x) } }
  (t.dropFills fill true).bumpW F.YRD_ACQ_CNT_COUNT

/-- Over a range. -/
def State.acquireRange (s : State) (part base len : Nat) : State :=
  let meets (a n : Nat) : Bool := a < base + len && base < a + n
  s.acquire part (fun x => meets (x.line * 64) 64) (fun x => meets (x.first * 64) ((x.last + 1 - x.first) * 64))
    (fun m => meets m.addr m.len) fun x => meets x.base x.len

/-- Over all lines of other devices filled for a partition. -/
def State.acquirePart (s : State) (part : Nat) : State :=
  s.acquire part (fun x => x.part = part) (fun x => x.part = part) (fun m => m.part = part) fun _ => true

/-- Over all lines of other devices. -/
def State.acquireAll (s : State) (part : Nat) : State :=
  s.acquire part (fun _ => true) (fun _ => true) (fun _ => true) fun _ => true

end Sys2Proof.Machine
end

