-- ==== Sys2Proof/Machine/BrickOps.lean ====
section
/-! DEFINITION. What the engines and the Mason core of a brick share (chapters 4 and 5): the hazard monitor, reads and writes of the Bed,
poison and parity, halting and the end of a work item, clearing and mapping. -/

namespace Sys2Proof.Machine

/-! ## Halting and ending (R102, R110, R126, R147, R148, R154) -/

/-- The owner of a work item's writes: all its sequences. -/
def BRun.own (r : BRun) : Own := .step r.step (32768 + r.item)

/-- Flush a brick's queues and FIFOs, clear every `FULL` bit and free it (R110, R148). -/
def Brick.flush (b : Brick) : Brick :=
  { b with run := none, queues := [[], [], [], []], fifos := [[], [], [], [], [], []], full := [], rbFull := []
           vecq := [], jobs := [], marks := [], pend := [] }

/-- The work item of a brick is over for its step. -/
def State.itemOver (s : State) (r : BRun) : State :=
  s.onStep r.step fun x => { x with items := x.items.modify r.item fun i => { i with ended := true } }

/-- A brick leaves its pool if it was to leave when its work item ended (R276). -/
def State.brickFreed (s : State) (n : Nat) : State :=
  match s.logicalOf n with
  | none => s
  | some l =>
    match s.pt.leavingBricks.find? fun e => e.1 = l with
    | none => s
    | some e => ({ s with pt := { s.pt with
        leavingBricks := smDel s.pt.leavingBricks e.1, wasIn := smPut s.pt.wasIn n e.2 } } : State).bumpGen .brk n

/-- The cycle a brick has reached: its Mason core's next instruction, or beyond it. -/
def Brick.cycle (b : Brick) : Nat := max b.clk b.now

/-- Charge the time a work item has held its brick, up to cycle `c`, in equal parts to its classes (R285, R289). -/
def State.chargeBrick (s : State) (n c : Nat) : State :=
  let b := s.brick n
  match b.run with
  | none => s
  | some r =>
    let t := s.chargeOwn r.own 0 (c - r.start) (max 1 (s.getF (F.KLN_CLK_CUR_MHZ.nth (n / 1344))))
    t.setBrick n { b with run := some { r with start := max r.start c } }

/-- Halt a brick's work item with a status: its sequences take it, the brick is flushed and returns to its pool. -/
def State.halt (s : State) (n status : Nat) : State :=
  let s := s.chargeBrick n (s.brick n).cycle
  let b := s.brick n
  match b.run with
  | none => s
  | some r => (((s.setBrick n b.flush).workFail r.own status).itemOver r).brickFreed n

/-- Halt for a malformed engine instruction (R102). -/
def State.engineIllegal (s : State) (n : Nat) : State := (s.halt n 0x0A03).err .brk n 2

/-! ## The hazard monitor (R144 to R147) -/

/-- The monitor records an event in cycle `c` (R146); under TRAP the first one sets the cycle the brick halts the item after, which
R147 puts within 4 cycles. -/
def State.hazard (s : State) (n engine pc space addr c : Nat) : State :=
  let t := if s.flag F.BRK_HAZ_VALID n then s.setFlag F.BRK_HAZ_MULTI true n
    else
      let u := ((s.setFlag F.BRK_HAZ_VALID true n).setF F.BRK_HAZ_ENGINE engine n).setF F.BRK_HAZ_PC pc n
      (u.setF F.BRK_HAZ_ADDR_SPACE space n).setF F.BRK_HAZ_ADDR_ADDR addr n
  let t := t.bump F.BRK_HAZ_CNT_COUNT 1 n
  let b := t.brick n
  match b.run with
  | some r => t.setBrick n { b with run := some { r with
      hazard := true
      stopAt := if r.trap && r.stopAt.isNone then some (c + Config.trapDelay n c % 5) else r.stopAt } }
  | none => t

/-- `ADDR` of a location of the monitor's spaces (R146): the parameter block's is 0x7_FFFF. -/
def hazAddr (space addr : Nat) : Nat := if space = 3 then 0x7FFFF else addr

/-- The monitor looks at a read, in cycle `c`, of a location by an instruction of an engine (0 to 3; 4: the Mason core): early or overtaken
reads are events. What is `early` besides, the reader says. -/
def State.watch (s : State) (n engine : Nat) (i : EIns) (space addr c : Nat) (early : Bool := false) : State :=
  let b := s.brick n
  if early || b.early i.order space addr || b.overtaken i.order space addr then
    s.hazard n (if engine = 4 then 0 else engine + 1) i.pc (if space = 0 then 0 else 1) (hazAddr space addr) c
  else s

/-! ## The Bed -/

/-- Read Bed bytes in cycle `c`, by an instruction of an engine: the bytes, whether any word is poisoned, and the state after the monitor
and the checkers. -/
def State.bedRead (s : State) (n engine : Nat) (i : EIns) (off len c : Nat) : List Byte × Bool × State :=
  let ws := wordsOf off len
  let t := ws.foldl (fun u w => u.watch n engine i 0 w c) s
  (s.okBytes (bedAddr n off) len, s.anyBad (bedAddr n off) len, (wordsOf (bedAddr n off) len).foldl State.checkWord t)

/-- An instruction writes Bed bytes; `bad` poisons every word they touch. The flag says that bytes were dropped on a poisoned word. -/
def State.bedWrite (s : State) (n : Nat) (i : EIns) (off : Nat) (bs : List Byte) (bad : Bool) : Bool × State :=
  let r := s.putRun (bedAddr n off) (bs.map some) (bs.length / 8 + 2)
  let t := if bad then r.1.poisonRange (bedAddr n off) bs.length else r.1
  (r.2, t.setBrick n ((wordsOf off bs.length).foldl (fun b w => b.mark 0 w i.order) (t.brick n)))

/-! ## Poison and parity (R126, R127) -/

/-- An instruction consumes poison: it is counted once, and the sequences of the work item own the poisoned outputs, since the spec gives
no row map that says which of them does (DESIGN CHOICE, log 70). -/
def State.poisoned (s : State) (n : Nat) (addr : Option Nat) : State :=
  let t := (s.bump F.BRK_POISON_CNT_COUNT 1 n).err .brk n 0 (addr.map s.global)
  match (t.brick n).run with
  | some r => t.workFail r.own St.poisonConsumed
  | none => t

/-- A job that has met poison, if `p`, has consumed it. -/
def State.meets (s : State) (n : Nat) (j : Job) (p : Bool) (addr : Option Nat) : State × Job :=
  if p && !j.told then (s.poisoned n addr, { j with told := true }) else (s, j)

/-- Add to a list what it does not hold. -/
def addNew (xs ys : List Nat) : List Nat := xs ++ ys.filter fun y => !xs.contains y

/-- A word of an array is poisoned (R127). Arrays: 0 and 1 the weight banks, 2 the accumulators (row · 32 + column), 3 the MV latch (two
elements a word, slot · 1,024 + pair), 4 the result buffer (output · 8 + slot), 5 the scale table, 6 the parameter block. -/
def Brick.poisonWord (b : Brick) (array word : Nat) : Brick :=
  match array with
  | 2 => { b with accBad := addNew b.accBad [word] }
  | 3 => { b with latchBad := addNew b.latchBad [2 * word, 2 * word + 1] }
  | 4 => { b with rbBad := addNew b.rbBad [word] }
  | 5 => { b with scaleBad := addNew b.scaleBad [word] }
  | 6 => { b with pblockBad := true }
  | k => { b with banks := b.banks.modify k fun x => { x with bad := true } }

/-- Words of arrays that an instruction reads have parity errors (R127): each is poisoned, counted and reported. -/
def State.parity (s : State) (n : Nat) (par : List (Nat × Nat)) : State :=
  par.foldl (fun t p => ((t.setBrick n ((t.brick n).poisonWord p.1 p.2)).bump F.BRK_PARITY_CNT_COUNT 1 n).err .brk n 4) s

/-! ## Issue -/

/-- The instruction at the head of an engine's queue, if the brick runs a work item and the instruction may issue in cycle c. -/
def State.head (s : State) (n e c : Nat) : Option EIns :=
  let b := s.brick n
  if b.run.isNone || c < b.now then none
  else match (b.queues.getD e []).head? with
    | some i => if i.ready ≤ c && b.popped.getD e 0 ≤ c then some i else none
    | none => none

/-- Remove the head of an engine's queue, issued in cycle c; `job` is what goes on, the engine being free again in cycle `free`. -/
def Brick.issue (b : Brick) (e c free : Nat) (job : Option Job) : Brick :=
  { b with queues := b.queues.modify e List.tail, popped := b.popped.set e c, free := b.free.set e free
           jobs := b.jobs ++ job.toList
           idle := match job with | some j => b.idle.set e (max j.ends (b.idle.getD e 0)) | none => b.idle }

/-- The longest wait at a queue's head. -/
def State.noteWait (s : State) (n : Nat) (i : EIns) (c : Nat) : State := s.raiseMax F.BRK_ISSUE_WAIT_MAX_CYCLES (c - i.ready) n

/-! ## Clearing and mapping (R130, R131, R132) -/

/-- BRICK_CLEAR_DONE (R131): the clearing of a brick that changed partition ends. -/
def execBrickClearDone (brick : Nat) (s : State) : Res :=
  done (s.settleBrick brick)

/-- The spares of a die, by index: the physical bricks that start-up left with `ROLE` 1 (R519). -/
def State.spareBrick (s : State) (die i : Nat) : Option Nat :=
  match (smGet (fun _ => (List.range 64).map (1280 + ·)) s.bm.spares die)[i]? with
  | some k =>
    let n := die * 1344 + k
    if (s.logicalOf n).isSome || s.bm.retired.contains n then none else some n
  | none => none

/-- Spares still to be had on a die. -/
def State.sparesLeft (s : State) (die : Nat) : Nat :=
  ((List.range (smGet (fun _ => (List.range 64).map (1280 + ·)) s.bm.spares die).length).filter
    fun i => (s.spareBrick die i).isSome).length

/-- A brick is quiesced and has no work in flight (R130): no item runs on it or has been placed on it. -/
def State.brickIdle (s : State) (n : Nat) : Bool :=
  s.quiesced .brk n && (s.brick n).run.isNone &&
    !s.sv.steps.any fun x => x.items.any fun i => !i.ended && i.brick.isSome && i.brick = s.logicalOf n

/-- A physical brick is retired: it joins the brick repair record (R519). -/
def State.retirePhys (s : State) (n : Nat) : State :=
  { s with bm := { s.bm with retired := s.bm.retired ++ [n] }
           ftg := { s.ftg with brickRecord := s.ftg.brickRecord ++ [n] } }

/-- A brick is retired: its logical number loses it without replacement (R130). -/
def State.retireBrick (s : State) (n : Nat) : State :=
  let t : State := match s.logicalOf n with
    | some l => { s with bm := { s.bm with gone := s.bm.gone ++ [l] } }
    | none => s
  (t.retirePhys n).setUnit .brk n 1

/-- A write of `BRK_MAP_CMD` with the selected brick `n` (R130). -/
def State.mapCmd (s : State) (n op logical spare : Nat) : State :=
  let die := n / 1344
  let fail := s.setFlag F.BRK_MAP_STAT_FAIL true n
  let ok (t : State) : State := (t.setFlag F.BRK_MAP_STAT_FAIL false n)
  if op = 1 then
    match s.physOf logical, s.spareBrick die spare with
    | some old, some sp =>
      if logical / 1280 = die && s.brickIdle old && old / 1344 = die then
        let t : State := { s with bm := { s.bm with
          phys := smSet (fun l => l / 1280 * 1344 + l % 1280) s.bm.phys logical sp } }
        let t := t.retirePhys old
        ok (((t.setUnit .brk old 1).setUnit .brk sp 3).setFlag (hdrF .brk 0x08 0 0) false sp)
      else fail
    | _, _ => fail
  else if op = 2 then
    if (s.logicalOf n).isSome && s.brickIdle n then ok (s.retireBrick n) else fail
  else fail

/-- IDLE_SELFTEST (R132): a brick idle for 1 s runs its self-test, at most hourly; a brick that fails is reported. -/
def execIdleSelftest (brick idleMs sinceMs : Nat) (pass : Bool) (s : State) : Res :=
  if (s.brick brick).run.isSome || idleMs < 1000 || sinceMs < 3600000 || s.unit .brk brick ≠ 3 || pass then done s
  else done ((s.err .brk brick 5).setUnit .brk brick 5)

end Sys2Proof.Machine
end

