-- ==== Sys2Proof/Machine/Queue.lean ====
section
/-! DEFINITION. Queues (chapter 11): rings, doorbells, fetching, admission with its checks, completion records, parking, and what
the commands share: reading and writing memory of this and other devices. -/

namespace Sys2Proof.Machine

/-! ## Rings (R295, R296) -/

/-- Entries of a queue's command ring as a power of two; 0: none. -/
def State.qlog (s : State) (p q : Nat) : Nat := if q = 7 then 0 else s.getF F.PRT_QSIZE_LOG2 p q

/-- Base of the command ring. -/
def State.qbase (s : State) (p q : Nat) : Nat := s.getPair A.PRT_QBASE_LO A.PRT_QBASE_HI p q / 64 * 64

/-- Base of the completion ring. -/
def State.cqbase (s : State) (p q : Nat) : Nat := s.getPair A.PRT_CQBASE_LO A.PRT_CQBASE_HI p q / 64 * 64

/-- Base of the result ring. -/
def State.rqbase (s : State) (p q : Nat) : Nat := s.getPair A.PRT_RQBASE_LO A.PRT_RQBASE_HI p q / 64 * 64

/-- Status of an access to a slot of a partition's ring, which lies in granules or LAND blocks that it owns (R295, R300); of a slot in a
stack that is unavailable, that stack's. -/
def State.ringStatus (s : State) (p : Nat) (write : Bool) (a n : Nat) : Nat :=
  match s.area a, s.rangeStatus (.part p) write a n with
  | .stack _, 0 => 0
  | .yard _, 0 => 0
  | _, c => if c = St.stackUnavailable then c else St.regionNotOwned

/-- The device writes a slot of a partition's ring: it passes the slabs, uncharged (R253, R281); one that may not be written is left. -/
def State.ringWrite (s : State) (p a : Nat) (bs : List Byte) : State :=
  if s.ringStatus p true a bs.length ≠ 0 then s
  else (if a < 16 * stackBytes then s.passLines p 1 a bs.length else s).writeB a bs

/-- The device reads a slot of a partition's ring. -/
def State.ringRead (s : State) (p a n : Nat) : List Byte × Bool × State :=
  (if a < 16 * stackBytes then s.passLines p 0 a n else s).readB a n

/-- Distance between two free-running positions. -/
def ringGap (tail head : Nat) : Nat := (tail + 65536 - head) % 65536

/-- Room in a completion ring, in records. -/
def State.cqRoom (s : State) (p q : Nat) : Nat :=
  if s.getF F.PRT_CQSIZE_LOG2 p q = 0 then 0
  else 2 ^ s.getF F.PRT_CQSIZE_LOG2 p q - ringGap (s.getF F.PRT_CQTAIL_INDEX p q) (s.getF F.PRT_CQHEAD_INDEX p q)

/-- Result entries an admitted step has reserved in a ring. -/
def State.rqReserved (s : State) (p q : Nat) : Nat :=
  s.qu.reserved.foldl (fun n e => if e.1 = p * 8 + q then n + e.2 else n) 0

/-- Room in a result ring that is neither filled nor reserved. -/
def State.rqRoom (s : State) (p q : Nat) : Nat :=
  if s.getF F.PRT_RQSIZE_LOG2 p q = 0 then 0
  else 2 ^ s.getF F.PRT_RQSIZE_LOG2 p q - ringGap (s.getF F.PRT_RQTAIL_INDEX p q) (s.getF F.PRT_RQHEAD_INDEX p q)
    - s.rqReserved p q

/-- A doorbell of queue q of partition p (R296, R339). -/
def State.doorbell (s : State) (p q tail : Nat) : State :=
  let k := s.qlog p q
  if k = 0 || 2 ^ k < ringGap tail (s.getF F.PRT_QHEAD_INDEX p q) then s.setFlag F.PRT_QCTRL_DB_REFUSED true p q
  else s.setF F.PRT_QTAIL_INDEX tail p q

/-- Commands of a queue fetched and not completed, recorded ones apart. -/
def State.inflight (s : State) (p q : Nat) : Nat :=
  (s.qu.cmds.filter fun c => c.part = p && c.queue = q && c.replay.isNone).length

/-- A write of a queue's `ENABLE` (R295). -/
def State.queueEnable (s : State) (p q : Nat) (on : Bool) : State :=
  if on && (s.getF F.PRT_CQSIZE_LOG2 p q = 0 || (q ≠ 7 && s.qlog p q = 0)) then s
  else s.setFlag F.PRT_QCTRL_ENABLE on p q

/-- May a queue's ring bases and sizes be changed (R295)? -/
def State.ringsFree (s : State) (p q : Nat) : Bool := !s.flag F.PRT_QCTRL_ENABLE p q && s.inflight p q = 0

/-- A write of a completion or result ring head; one beyond the tail is ignored. -/
def State.ringHead (s : State) (head tail : Fld) (p q v : Nat) : State :=
  if ringGap v (s.getF head p q) ≤ ringGap (s.getF tail p q) (s.getF head p q) then s.setF head v p q else s

/-! ## Fetching (R297, R300) -/

/-- `PARKED` of a queue. -/
def State.queueParked (s : State) (p q : Nat) : Bool := s.flag F.PRT_QCTRL_PARKED p q

/-- Park a queue on a record (R322). -/
def State.park (s : State) (p q tag status : Nat) : State :=
  ((s.setFlag F.PRT_QCTRL_PARKED true p q).setF F.PRT_QERR_TAG tag p q).setF F.PRT_QERR_STATUS status p q

/-- Append a record to those waiting. -/
def State.addRec (s : State) (r : Rec) : State := { s with qu := { s.qu with recs := s.qu.recs ++ [r] } }

/-- Put a fetched command at the end of its queue. -/
def State.addCmd (s : State) (p q : Nat) (ws : List Nat) : State :=
  { s with qu := { s.qu with
      cmds := s.qu.cmds ++ [{ id := s.qu.nextId, part := p, queue := q, words := ws }]
      nextId := s.qu.nextId + 1 } }

/-- COMMAND_FETCH: the next entry of a command ring is fetched, or its fault parks the queue. -/
def execCommandFetch (part queue : Nat) (s : State) : Res :=
  let head := s.getF F.PRT_QHEAD_INDEX part queue
  let k := s.qlog part queue
  if s.getF F.PRT_STATE_STATE part = 0 || s.dv.st ≠ .ready || !s.flag F.PRT_QCTRL_ENABLE part queue || k = 0
      || head = s.getF F.PRT_QTAIL_INDEX part queue || s.getF F.PRT_QRUNAHEAD_LIMIT part queue ≤ s.inflight part queue
      || (s.queueParked part queue && s.flag F.PRT_QCTRL_RING_FAULT part queue) then done s
  else
    let a := s.qbase part queue + head % 2 ^ k * 64
    let st := s.ringStatus part false a 64
    let r := s.ringRead part a 64
    let code := if st ≠ 0 then st else if r.2.1 then St.poisonConsumed else 0
    if code ≠ 0 then
      let t := (if st ≠ 0 then s else r.2.2).setFlag F.PRT_QCTRL_RING_FAULT true part queue
      done ((t.park part queue 0xFFFF code).addRec
        { part := part, ring := queue, origin := queue, tag := 0xFFFF, opcode := 0, flags := 0, status := code, result := 0
          irq := false, parks := true })
    else
      let ws := (List.range 8).map fun i => fieldB r.1 (8 * i) 8
      done ((r.2.2.setF F.PRT_QHEAD_INDEX (head + 1) part queue).addCmd part queue ws)

/-! ## Which command may be admitted (R294, R299, R303, R304) -/

/-- The partition and the device serve queues (Table 10-2, R347, R351, R446). -/
def State.served (s : State) (p : Nat) : Bool :=
  let st := s.getF F.PRT_STATE_STATE p
  s.dv.st = .ready && !s.dv.draining && (st = 1 || st = 2 || st = 3 || st = 5)

/-- Commands of a queue, in order. -/
def State.queueCmds (s : State) (p q : Nat) : List Cmd := s.qu.cmds.filter fun c => c.part = p && c.queue = q

/-- The next command of a queue to admit. -/
def State.headCmd (s : State) (p q : Nat) : Option Cmd := (s.queueCmds p q).find? fun c => c.phase = 0

/-- Commands of the queue before a command that have not completed, its own REPLAY apart. -/
def State.earlier (s : State) (c : Cmd) : List Cmd :=
  (s.queueCmds c.part c.queue).takeWhile (fun d => d.id ≠ c.id) |>.filter fun d => c.replay ≠ some d.id

/-- May the head of a queue be admitted, as far as its queue says? -/
def State.mayAdmit (s : State) (c : Cmd) : Bool :=
  s.served c.part && s.flag F.PRT_QCTRL_ENABLE c.part c.queue && !s.queueParked c.part c.queue
    && !((s.earlier c).any fun d => d.op = 0x08 || d.op = 0x11) && !(c.hdr 54 54 = 1 && s.earlier c ≠ [])
    && !((s.qu.recs.any fun r => r.part = c.part && r.ring = c.queue && !r.quiet) && s.cqRoom c.part c.queue = 0)

/-- Admission priority of a queue (Table 11-1), the ordinary queues in rotation. -/
def State.queueRank (s : State) (p q : Nat) : Nat :=
  if q = 4 then 0 else if q = 5 then 1 else if q = 6 then 2
  else 3 + (q + 3 - smGet (fun _ => 3) s.qu.last p) % 4

/-- The classes a work item of a step is charged to. -/
def State.itemClasses (s : State) (x : StepRun) (i : WItem) : List Nat :=
  i.seqs.flatMap fun q => (s.chargedTo (.step x.num q)).2.map fun e => e.1

/-- Work of another class that has a granting slot waits for a brick (R288). -/
def State.othersWait (s : State) (p c : Nat) : Bool :=
  s.sv.steps.any fun x => x.part = p && x.items.any fun it => it.brick.isNone && !it.ended &&
    (s.itemClasses x it).any fun k => k ≠ c && (s.cycle p).slots.any fun sl => sl.cls = k && sl.grants

/-- Opcodes charged to BULK (R285). -/
def bulkOp (op : Nat) : Bool := [4, 5, 6, 0x0C, 0x0E, 0x0F, 0x10].contains op

/-- A command of an opcode charged to BULK must wait for its class. -/
def State.bulkWaits (s : State) (c : Cmd) : Bool := bulkOp c.op && s.grant c.part 5 (s.othersWait c.part 5) = .no

/-- A queue of the partition with an admissible head that need not wait for WORK space or its class goes before this one. -/
def State.outranked (s : State) (c : Cmd) : Bool :=
  (List.range 7).any fun q => q ≠ c.queue && s.queueRank c.part q < s.queueRank c.part c.queue &&
    (match s.headCmd c.part q with
     | some d => s.mayAdmit d && !d.counted && !s.bulkWaits d
     | none => false)

/-- The command that a row of opcode `op` would admit. -/
def State.admissible (s : State) (p q : Nat) : Option Cmd :=
  match s.headCmd p q with
  | some c => if s.mayAdmit c && !s.outranked c then some c else none
  | none => none

/-! ## The admission checks (R294, R301, R302, R316, Table 11-7) -/

/-- Opcodes of Table 11-6. -/
def opcodeKnown (op : Nat) : Bool := (1 ≤ op && op ≤ 0x14) || op = 0x1F

/-- Opcodes that a queue accepts (Table 11-1). -/
def queueAccepts (q op : Nat) : Bool :=
  if q < 4 then true
  else if q < 6 then [1, 2, 3, 7, 8, 9, 0xA, 0xB, 0x11, 0x12, 0x13, 0x1F].contains op
  else if q = 6 then !([1, 2, 0x14].contains op)
  else false

/-- A parameter register. -/
def State.param (s : State) (p q r : Nat) : Nat := s.getPair A.PRT_PVAL_LO A.PRT_PVAL_HI p (q * 256 + r % 256)

/-- Write a parameter register. -/
def State.setParam (s : State) (p q r v : Nat) : State := s.setPair A.PRT_PVAL_LO A.PRT_PVAL_HI v p (q * 256 + r % 256)

/-- The command with its parameters put in; none where the mask has another bit set (R316). A REPLAY has no body to put them
in: its `SUBST` acts on the recorded commands (R319; DEDUCED). -/
def State.substituted (s : State) (c : Cmd) : Option Cmd :=
  if c.hdr 31 31 = 0 || c.op = 0x02 then some c
  else
    let set := c.hdr 28 24
    let mask := s.param c.part c.queue (8 * set)
    if mask % 2 = 1 || 256 ≤ mask then none
    else some { c with words := (c.words.zipIdx).map fun w =>
      if w.2 ≠ 0 && nbit mask w.2 then s.param c.part c.queue (8 * set + w.2) else w.1 }

/-- Words k and above of a command are zero. -/
def Cmd.zeroFrom (c : Cmd) (k : Nat) : Bool := (c.words.drop k).all (· = 0)

/-- Fields of a SEQ_EDIT out of range (Table 11-10). -/
def Cmd.editBad (c : Cmd) : Bool :=
  let w2 := c.word 2
  let w3 := c.word 3
  match c.hdr 23 20 with
  | 1 => 2 ^ 32 ≤ w2 || w3 ≠ 0
  | 2 => 2 ^ 32 ≤ w2 || w3 ≠ 0
  | 3 => 2 ^ 32 ≤ w2 || w3 ≠ 0
  | 4 => 2 ^ 16 ≤ w2 || w3 ≠ 0
  | 5 => nbits w2 31 9 ≠ 0
  | 6 => nbits w2 31 11 ≠ 0 || nbits w2 7 3 ≠ 0 || w3 ≠ 0
  | 7 => w2 ≠ 0 || w3 ≠ 0
  | 8 => w2 ≠ 0 || w3 ≠ 0
  | 9 => nbits w2 62 56 ≠ 0 || nbits w2 47 44 ≠ 0 || nbits w2 31 13 ≠ 0 || nbits w2 12 0 = 0 || 4096 < nbits w2 12 0
      || w3 % 4 ≠ 0
  | _ => true

/-- Fields of a command out of range or reserved ones not zero (Tables 11-2 and 11-7). -/
def Cmd.badFields (c : Cmd) : Bool :=
  let h := c.hdr
  c.hdr 49 48 ≠ 0 || c.hdr 30 29 ≠ 0 ||
  (match c.op with
   | 0x01 => h 17 0 ≠ 0 || nbits (c.word 1) 63 42 ≠ 0 || !c.zeroFrom 2
   | 0x02 => h 23 12 ≠ 0 || !c.zeroFrom 1
   | 0x03 => h 15 9 ≠ 0 || h 7 3 ≠ 0 || h 2 0 = 0 || 255 < h 23 16 + h 2 0 - 1 || !c.zeroFrom (h 2 0 + 1)
   | 0x04 => h 23 0 ≠ 0 || c.word 1 % 64 ≠ 0 || c.word 2 % 64 ≠ 0 || !c.zeroFrom 3
   | 0x05 => h 23 1 ≠ 0 || c.word 1 % 64 ≠ 0 || c.word 2 % 64 ≠ 0 || !c.zeroFrom 3
   | 0x06 => h 23 2 ≠ 0 || h 1 0 = 3 || c.word 1 % 64 ≠ 0 || c.word 2 % 4 ≠ 0 || c.word 3 = 0 || 16777216 < c.word 3
      || c.word 4 % 64 ≠ 0 || !c.zeroFrom 5
   | 0x07 => h 23 1 ≠ 0 || (if h 0 0 = 1 then !c.zeroFrom 1 else c.word 2 = 0 || 2 ^ 44 < c.word 2 || !c.zeroFrom 3)
   | 0x08 => h 23 1 ≠ 0 || !c.zeroFrom 1
   | 0x09 => h 23 0 ≠ 0 || c.word 1 % 64 ≠ 0 || !c.zeroFrom 2
   | 0x0A => h 19 13 ≠ 0 || 2 ^ 32 ≤ c.word 1 || c.editBad || !c.zeroFrom 4
   | 0x0B => h 23 13 ≠ 0 || 2 ^ 32 ≤ c.word 1 || !c.zeroFrom 2
   | 0x0C => h 23 10 ≠ 0 || 64 ≤ c.word 2 || !c.zeroFrom 3
   | 0x0D => h 23 10 ≠ 0 || !c.zeroFrom 1
   | 0x0E => h 23 6 ≠ 0 || 2 ^ 32 ≤ c.word 1 || 2 ^ 44 ≤ c.word 2 || c.word 2 % 2 ^ 26 ≠ 0 || 16 * stackBytes ≤ c.word 2
      || nbits (c.word 3) 15 12 ≠ 0 || 2 ^ 24 ≤ c.word 3 || !c.zeroFrom 4
   | 0x0F => h 23 13 ≠ 0 || 2 ^ 32 ≤ c.word 1 || 2 ^ 32 ≤ c.word 2 || !c.zeroFrom 3
   | 0x10 => h 23 2 ≠ 0 || 2 ^ 40 ≤ c.word 3 || !c.zeroFrom 4
   | 0x11 => h 23 2 ≠ 0 || h 1 0 = 3 || c.word 1 % 8 ≠ 0 || 2 ^ 32 ≤ c.word 3 || !c.zeroFrom 4
   | 0x12 => h 23 1 ≠ 0 || c.word 1 % 8 ≠ 0 || !c.zeroFrom 3
   | 0x13 => h 23 0 ≠ 0 || !c.zeroFrom 1
   | 0x14 => h 23 10 ≠ 0 || 2 ^ 12 ≤ c.word 1 || !c.zeroFrom 2
   | 0x1F => h 23 0 ≠ 0 || !c.zeroFrom 2
   | _ => true) ||
  (c.replay.isSome && (c.op = 0x02 || c.ownTag || c.hdr 51 51 = 1))

/-! ## Admission -/

/-- A command is admitted: its words as substituted, what it samples (R67, R92, R250); the admission point and the rotation move. -/
def State.begin_ (s : State) (c : Cmd) : State :=
  let t := s.onCmd c.id fun d => { d with phase := 1, words := c.words, seen := s.sample }
  let t := if c.replay.isNone then t.bumpW F.PRT_QADMIT_INDEX 1 c.part c.queue else t
  if c.queue < 4 then { t with qu := { t.qu with last := smSet (fun _ => 3) t.qu.last c.part c.queue } } else t

/-- Admit the head of a queue for opcode `op` (R298, R302): `pre` gives the code of steps 4 to 6 of Table 11-3 and of the
blocks' own checks, `space` the WORK space it needs in KiB, `body` runs it; a command charged to BULK waits for its class. -/
def State.admitRow (s : State) (p q op : Nat) (pre : Cmd → State → Nat) (space : Cmd → State → Nat)
    (body : Cmd → State → State) : Res :=
  match s.admissible p q with
  | none => done s
  | some c =>
    let refuse (d : Cmd) (code : Nat) : Res := done ((s.begin_ d).finish c.id code 0)
    if !opcodeKnown c.op then refuse c St.badOpcode
    else if !queueAccepts q c.op then refuse c 0x0105
    else if c.op ≠ op then done s
    else match s.substituted c with
      | none => refuse c St.badField
      | some d =>
        if d.badFields then refuse c St.badField
        else
          let code := pre d s
          if code ≠ 0 then refuse d code
          else match (if bulkOp op then s.grant p 5 (s.othersWait p 5) else Grant.free) with
            | .no => done s
            | g =>
              let n := space d s
              match s.takeWork p n with
              | none =>
                if c.counted then done s
                else done ((s.bump F.YRD_Q_WAITS_COUNT 1 p).onCmd c.id fun e => { e with counted := true })
              | some (us, t) =>
                let sl := match g with
                  | .slot i => some i
                  | _ => none
                let e := { d with units := us, slot := sl, seen := s.sample }
                let u := (t.begin_ e).onCmd c.id fun x => { x with units := us, slot := sl }
                done (body { e with phase := 1 } u)

/-- The running command of a queue and opcode whose reads of other devices have been answered. -/
def State.resumed (s : State) (p q op : Nat) : Option Cmd :=
  (s.queueCmds p q).find? fun c => c.phase = 1 && c.op = op && c.asked && c.acks = 0

/-- A row of a command that may read other devices: it goes on with one that waited, or admits the next. -/
def State.runRow (s : State) (p q op : Nat) (pre : Cmd → State → Nat) (space : Cmd → State → Nat)
    (body : Cmd → State → State) : Res :=
  match s.resumed p q op with
  | some c => done (body c s)
  | none => s.admitRow p q op pre space body

/-! ## Memory of this and other devices, for a command -/

/-- Pieces of ranges on other devices that a command has not yet read. -/
def State.missing (s : State) (c : Cmd) (top : Nat) (ranges : List (Nat × Nat)) : List (Nat × Nat) :=
  ((ranges.filter fun r => devOf r.1 ≠ s.dv.devNum).flatMap fun r => piecesOf (if top = 4 then 128 else 64) r.1 r.2).filter
    fun b => !((List.range b.2).all fun k => c.remote.any fun e => e.1 = b.1 + k)

/-- Ask for ranges on other devices: none where nothing is missing; else the state in which the command waits, or ends with
the code that its reads failed with. -/
def State.needs (s : State) (id top : Nat) (ranges : List (Nat × Nat)) : Option State :=
  match s.cmdOf id with
  | none => none
  | some c =>
    if c.status ≠ 0 then some (s.finish id c.status 0)
    else
      let ms := s.missing c top ranges
      if ms = [] then none
      else
        let t := ms.foldl (fun t b =>
          let t := t.chargeOwn (.cmd id) 2 b.2 65536
          if top ≠ 4 then
            (t.oweAck (.cmd id) 1).enter (.read id b.1) c.part 0 b.1 { op := 0, addr := localOf b.1, len := b.2 }
          else match t.sendRemote { top := top, addr := b.1, part := c.part, type := 0, len := b.2, data := [], use := .read id } with
            | (0, u) => u.oweAck (.cmd id) 1
            | (e, u) => u.workFail (.cmd id) e) (s.onCmd id fun d => { d with asked := true })
        match t.cmdOf id with
        | some d => some (if d.acks = 0 && d.status ≠ 0 then t.finish id d.status 0 else t)
        | none => some t

/-- A byte by its global address, as the command sees it. -/
def State.gByte (s : State) (c : Cmd) (ga : Nat) : Byte :=
  if devOf ga = s.dv.devNum then s.rdByte (localOf ga) else smGet (fun _ => 0) c.remote ga

/-- Bytes by their global address. -/
def State.gBytes (s : State) (c : Cmd) (ga n : Nat) : List Byte := (List.range n).map fun k => s.gByte c (ga + k)

/-- A command reads a range: of this device's memory it passes the slabs and the checkers (R253, R387, R394). -/
def State.look (s : State) (c : Cmd) (ga n : Nat) : State :=
  if devOf ga = s.dv.devNum then (s.loadFor (.cmd c.id) (localOf ga) n).2.2 else s

/-- Do bytes of this device hold poison? Words of other devices that do are answered with a status instead (Table 14-4). -/
def State.gBad (s : State) (ga n : Nat) : Bool := devOf ga = s.dv.devNum && s.readBad (localOf ga) n

/-- The status of a command's access to a global range: this device's rules here, by what the command sampled (R92); the target's answer
elsewhere. -/
def State.gStatus (s : State) (c : Cmd) (write : Bool) (ga n : Nat) : Nat :=
  if ga / 2 ^ 44 % 256 ≠ 0 then St.addressUnmapped
  else if devOf ga = s.dv.devNum then (s.sampled (.cmd c.id)).rangeStatus (.part c.part) write (localOf ga) n else 0

/-- Write bytes at a global address for a command; `bad` says which words to write as poisoned. A poisoned word is not sent
to another device (Table 14-4). -/
def State.gWrite (s : State) (c : Cmd) (ga : Nat) (bs : List Byte) (bad : List Nat) : State :=
  if devOf ga = s.dv.devNum then s.storeFor (.cmd c.id) (localOf ga) bs (bad.map localOf)
  else
    (piecesOf 256 ga bs.length).foldl (fun t b =>
      if bad.any fun w => b.1 < w + 8 && w < b.1 + b.2 then (t.workFail (.cmd c.id) St.poisonConsumed).loseBytes (.cmd c.id) b.2
      else t.writeAway (.cmd c.id) c.part b.1 (sliceB bs (b.1 - ga) b.2)) s

/-! ## Completion (R305 to R307, R322) -/

/-- A command leaves its queue: its WORK space is free, and what waited for it goes on (R304, R313, R319). -/
def State.leave (s : State) (id : Nat) : State :=
  match s.cmdOf id with
  | none => s
  | some c =>
    let t := if c.units = [] then s else s.giveWork c.units
    let t : State := { t with qu := { t.qu with
      cmds := (t.qu.cmds.filter fun d => d.id ≠ id).map fun d => { d with waits := d.waits.filter (· ≠ id) } } }
    let ready := t.qu.cmds.filter fun d => d.phase = 1 && (((d.op = 0x08 || d.op = 0x1F) && d.waits = [])
      || (d.op = 0x02 && !(t.qu.cmds.any fun e => e.replay = some d.id)))
    ready.foldl (fun u d => u.finish d.id 0 (if d.op = 0x1F then d.word 1 else if d.op = 0x02 then d.index else 0)) t

/-- Bytes of a completion record at ring position `pos` of a ring of 2^k. -/
def Rec.bytes (r : Rec) (pos k : Nat) : List Byte :=
  let phase := if pos / 2 ^ k % 2 = 0 then 1 else 0
  recB 16 [(0, 2, r.tag), (2, 1, r.opcode), (3, 1, phase + r.flags + (if r.parks then 8 else 0) + r.origin * 16),
    (4, 2, r.status), (6, 1, r.part), (8, 8, r.result)]

/-- COMPLETION_RECORD: the oldest record waiting for a ring is written where the ring has room; a quiet command just ends. -/
def execCompletionRecord (part ring : Nat) (s : State) : Res :=
  match s.qu.recs.find? fun r => r.part = part && r.ring = ring with
  | none => done s
  | some r =>
    if !r.quiet && s.cqRoom part ring = 0 then done s
    else
      let t : State := { s with qu := { s.qu with recs := s.qu.recs.erase r } }
      let t :=
        if r.quiet then t
        else
          let pos := t.getF F.PRT_CQTAIL_INDEX part ring
          let k := t.getF F.PRT_CQSIZE_LOG2 part ring
          let a := t.cqbase part ring + pos % 2 ^ k * 16
          let t := (t.ringWrite part a (r.bytes pos k)).setF F.PRT_CQTAIL_INDEX (pos + 1) part ring
          let t := if r.parks then t.park part r.origin r.tag r.status else t
          if r.irq then t.raise (8 * part + ring) else t
      done (match r.cmd with
        | some id => t.leave id
        | none => t)

/-- An event record for a sequence (R309). -/
def State.event (s : State) (seq status : Nat) : State :=
  let e := smGet (fun _ => {}) s.sv.seqs seq
  s.addRec { part := e.part, ring := e.queue, origin := e.queue, tag := 0, opcode := 0, flags := 4, status := status
             result := e.gen * 2 ^ 32 + seq, irq := true }

/-! ## Resuming and flushing (R323) -/

/-- A `FLUSH` bit: everything from the admission point to the tail is discarded. -/
def State.flushQueue (s : State) (p q : Nat) : State :=
  let s1 := ((s.queueCmds p q).filter fun c => c.phase = 0 && c.replay.isNone).foldl (fun t c =>
    (t.onCmd c.id fun d => { d with phase := 1 }).finish c.id 0x0108 0) s
  let k := s.qlog p q
  let head := s.getF F.PRT_QHEAD_INDEX p q
  let tail := s.getF F.PRT_QTAIL_INDEX p q
  let s2 := (List.range (if k = 0 then 0 else ringGap tail head)).foldl (fun t i =>
    let a := t.qbase p q + (head + i) % 65536 % 2 ^ k * 64
    let r := t.ringRead p a 64
    let away := t.ringStatus p false a 64 ≠ 0
    let w := if away || r.2.1 then 0xFFFF00000000 else fieldB r.1 0 8
    let t := if away then t else r.2.2
    let id := t.qu.nextId
    ((t.addCmd p q [w, 0, 0, 0, 0, 0, 0, 0]).onCmd id fun d => { d with phase := 1 }).finish id 0x0108 0) s1
  (s2.setF F.PRT_QHEAD_INDEX tail p q).setF F.PRT_QADMIT_INDEX tail p q

/-- A write of `PRT_QRESUME` (R323). -/
def State.queueResume (s : State) (p flush resume : Nat) : State :=
  let s1 := (bitsOf flush 8).foldl (fun t q => t.flushQueue p q) s
  (bitsOf resume 8).foldl (fun t q => if t.queueParked p q then t.setFlag F.PRT_QCTRL_PARKED false p q else t) s1

end Sys2Proof.Machine
end

