-- ==== Sys2Proof/Machine/Layout.lean ====
section
/-! DEFINITION. Tensors (chapter 8): descriptors and their checks, where each layout places an element, owner tables, and the
COPY, LAYOUT and GATHER commands with the Bond network's counters. -/

namespace Sys2Proof.Machine

/-! ## Descriptors (Table 8-7) -/

/-- A tensor descriptor. -/
structure TDesc where
  base : Nat
  rows : Nat
  cols : Nat
  batch : Nat
  fmt : Nat
  layout : Nat
  flags : Nat
  pitch : Nat
  bpitch : Nat
  seg : Nat
  bps : Nat
  blkRows : Nat
  blkCols : Nat
  zero : Bool                  -- its reserved bytes are zero
deriving DecidableEq, Repr

/-- A descriptor from its 64 bytes. -/
def readDesc (b : List Byte) : TDesc :=
  { base := fieldB b 0 8, rows := fieldB b 8 4, cols := fieldB b 12 4, batch := fieldB b 16 4, fmt := fieldB b 20 1
    layout := fieldB b 21 1, flags := fieldB b 22 1, pitch := fieldB b 24 8, bpitch := fieldB b 32 8, seg := fieldB b 40 2
    bps := fieldB b 42 1, blkRows := fieldB b 48 4, blkCols := fieldB b 52 4
    zero := fieldB b 23 1 = 0 && fieldB b 43 5 = 0 && fieldB b 56 8 = 0 }

/-- Bits of an element. -/
def TDesc.bits (d : TDesc) : Nat := fmtBits d.fmt

/-- Bytes of `n` elements, rounded up. -/
def TDesc.bytesOf (d : TDesc) (n : Nat) : Nat := (n * d.bits + 7) / 8

/-- Is the tensor owned block by block? -/
def TDesc.owned (d : TDesc) : Bool := nbit d.flags 0

/-- Quotient rounded up. -/
def ceilDiv (a b : Nat) : Nat := (a + b - 1) / b

/-- Input channels of a TILE32 block. -/
def TDesc.tileH (d : TDesc) : Nat := if d.bits = 4 then 64 else 32

/-- Bytes of a TILE32 block. -/
def TDesc.tileK (d : TDesc) : Nat := if d.bits = 16 then 2048 else 1024

/-- Output channels of a BANKSTRIPE unit. -/
def TDesc.unitB (d : TDesc) : Nat := if d.fmt = 5 then 16 else 32

/-- Input channels of one row of a BANKSTRIPE unit. -/
def TDesc.rowIn (d : TDesc) : Nat := if d.bits = 4 then 128 else 64

/-- Rows of a BANKSTRIPE unit. -/
def TDesc.unitU (d : TDesc) : Nat := d.seg / d.rowIn

/-- Where an element lies: the byte offset and the nibble (0 low, 1 high; of wider elements 0). -/
def TDesc.place (d : TDesc) (i j : Nat) : Nat × Nat :=
  let b := d.bits
  let at_ (off idx pair : Nat) : Nat × Nat := (off + idx * b / 8, if b = 4 then pair % 2 else 0)
  match d.layout with
  | 0 => at_ (i * d.pitch) j j
  | 1 => at_ (j * d.pitch) i i
  | 2 => at_ (i / 16 * d.pitch + j / 16 * (256 * b / 8)) (i % 16 * 16 + j % 16) j
  | 3 => at_ (i / 32 * d.pitch + j / 32 * (1024 * b / 8)) (i % 32 * 32 + j % 32) j
  | 4 =>
    let o := i / 32 * d.pitch + j / d.tileH * d.tileK
    if b = 4 then (o + j % 64 / 2 * 32 + i % 32, j % 2) else (o + (j % 32 * 32 + i % 32) * (b / 8), 0)
  | _ => (0, 0)

/-- Local address of the first byte of BANKSTRIPE unit (b, s) of a tensor at `base` (R232). -/
def TDesc.unitAt (d : TDesc) (base b s : Nat) : Nat :=
  let o := base % stackBytes
  (base / stackBytes + b / d.bps) * stackBytes + (o / 2 ^ 21 + s / 16 * d.unitU) * 2 ^ 21 + s % 16 * 2 ^ 17
    + (o / 2 ^ 11 % 64 + b % d.bps) * 2 ^ 11

/-- Where an element of a BANKSTRIPE tensor at `base` lies. -/
def TDesc.stripe (d : TDesc) (base i j : Nat) : Nat × Nat :=
  let k := i % d.unitB
  let x := j % d.seg
  let e := if d.bits = 4 then x / 2 else x
  let col := d.unitAt base (i / d.unitB) (j / d.seg) + e / 64 * 2 ^ 21 + e % 64 * 32
  if d.bits = 4 then (col + k, x % 2) else (col + k * (d.bits / 8), 0)

/-! ## Checks (R231, R232, R234 to R236) -/

/-- Rows, columns of the space one address covers: the owner block's, or the tensor's. -/
def TDesc.blkDims (d : TDesc) : Nat × Nat := if d.owned then (d.blkRows, d.blkCols) else (d.rows, d.cols)

/-- Lines that hold `r` × `c` elements with their padding, and the bytes of one; BANKSTRIPE has none. -/
def TDesc.linesOf (d : TDesc) (r c : Nat) : Nat × Nat :=
  match d.layout with
  | 0 => (r, d.bytesOf c)
  | 1 => (c, d.bytesOf r)
  | 2 => (ceilDiv r 16, ceilDiv c 16 * (256 * d.bits / 8))
  | 3 => (ceilDiv r 32, ceilDiv c 32 * (1024 * d.bits / 8))
  | 4 => (ceilDiv r 32, ceilDiv c d.tileH * d.tileK)
  | _ => (0, 0)

/-- The least `PITCH` (Table 8-5). -/
def TDesc.minPitch (d : TDesc) : Nat := (d.linesOf d.blkDims.1 d.blkDims.2).2

/-- Alignment of `BASE` and `PITCH`. -/
def TDesc.align (d : TDesc) : Nat := if d.layout ≤ 1 then max 1 (d.bits / 8) else 64

/-- Bytes from the first to the last of `r` × `c` elements with their padding, from their address on (not BANKSTRIPE). -/
def TDesc.extent (d : TDesc) (r c : Nat) : Nat := ((d.linesOf r c).1 - 1) * d.pitch + (d.linesOf r c).2

/-- Units of a BANKSTRIPE tensor. -/
def TDesc.units (d : TDesc) : List (Nat × Nat) :=
  (List.range (ceilDiv d.rows d.unitB)).flatMap fun b => (List.range (ceilDiv d.cols d.seg)).map fun s => (b, s)

/-- Bytes from the first to the last of a BANKSTRIPE tensor whose base is at `base`. -/
def TDesc.stripeExtent (d : TDesc) (base : Nat) : Nat :=
  d.units.foldl (fun m u => max m (d.unitAt base u.1 u.2 + (d.unitU - 1) * 2 ^ 21 + 2048 - base)) 0

/-- A BANKSTRIPE tensor whose base is at a local address breaks R232. -/
def State.stripeBad (s : State) (d : TDesc) (base : Nat) : Bool :=
  let o := base % stackBytes
  16 * stackBytes ≤ base || nbits o 20 17 ≠ 0 || nbits o 10 0 ≠ 0 || d.seg = 0 || d.seg % d.rowIn ≠ 0
    || (if d.fmt = 5 then 448 else 960) < d.seg || d.bps = 0 || 64 < d.bps || 64 < o / 2 ^ 11 % 64 + d.bps
    || !((List.range ((ceilDiv d.rows d.unitB - 1) / d.bps + 1)).all fun k => s.present .stk (base / stackBytes + k))
    || 49152 < o / 2 ^ 21 + ceilDiv (ceilDiv d.cols d.seg) 16 * d.unitU

/-- Fields of a descriptor out of range, its alignment, its pitches and its format (R235, step 2). -/
def State.descBad (s : State) (d : TDesc) : Bool :=
  let big (n : Nat) : Bool := n = 0 || 2 ^ 31 ≤ n
  let stripe := d.layout = 5
  !d.zero || big d.rows || big d.cols || big d.batch || 7 < d.fmt || 5 < d.layout || 1 < d.flags
    || (d.layout = 4 && d.fmt = 7) || (stripe && 5 < d.fmt)
    || (!stripe && (d.seg ≠ 0 || d.bps ≠ 0)) || (!d.owned && (d.blkRows ≠ 0 || d.blkCols ≠ 0))
    || (!stripe && (d.pitch < d.minPitch || d.pitch % d.align ≠ 0))
    || (!stripe && !d.owned && d.base % d.align ≠ 0)
    || (d.owned && (stripe || d.blkRows = 0 || d.blkCols = 0
      || (d.layout = 2 && (d.blkRows % 16 ≠ 0 || d.blkCols % 16 ≠ 0))
      || (d.layout = 3 && (d.blkRows % 32 ≠ 0 || d.blkCols % 32 ≠ 0))
      || (d.layout = 4 && (d.blkRows % 32 ≠ 0 || d.blkCols % d.tileH ≠ 0))
      || 65536 < d.batch * ceilDiv d.rows (max 1 d.blkRows) * ceilDiv d.cols (max 1 d.blkCols)))
    || (!d.owned && 1 < d.batch && (if stripe then false else d.bpitch < d.extent d.rows d.cols || d.bpitch % d.align ≠ 0))
    || (stripe && ((List.range d.batch).any fun t => s.stripeBad d (localOf d.base + t * d.bpitch)))
    || (stripe && 1 < d.batch && d.bpitch < d.stripeExtent (localOf d.base))

/-! ## Owner tables (R236, R237) -/

/-- Rows of blocks. -/
def TDesc.blkP (d : TDesc) : Nat := ceilDiv d.rows d.blkRows

/-- Columns of blocks. -/
def TDesc.blkQ (d : TDesc) : Nat := ceilDiv d.cols d.blkCols

/-- Entries of the owner table. -/
def TDesc.entries (d : TDesc) : Nat := if d.owned then d.batch * d.blkP * d.blkQ else 0

/-- A tensor as a command uses it: its descriptor and its private copy of the owner table. -/
structure Tensor where
  d : TDesc
  table : List Nat
deriving DecidableEq, Repr

/-- A part of a tensor that one address covers (an owner block, or all of a batch element): that address, its first row and column,
and its rows and columns. -/
structure TBlock where
  base : Nat
  i0 : Nat
  j0 : Nat
  rows : Nat
  cols : Nat
deriving DecidableEq, Repr

/-- The parts of batch element t. -/
def Tensor.blocks (x : Tensor) (t : Nat) : List TBlock :=
  let d := x.d
  if d.owned then
    (List.range d.blkP).flatMap fun p => (List.range d.blkQ).map fun q =>
      { base := x.table.getD (t * d.blkP * d.blkQ + p * d.blkQ + q) 0, i0 := p * d.blkRows, j0 := q * d.blkCols
        rows := min d.blkRows (d.rows - p * d.blkRows), cols := min d.blkCols (d.cols - q * d.blkCols) }
  else [⟨d.base + (if d.batch = 1 then 0 else t * d.bpitch), 0, 0, d.rows, d.cols⟩]

/-- Global address and nibble of element (i, j) of a part. -/
def TBlock.at (d : TDesc) (k : TBlock) (i j : Nat) : Nat × Nat :=
  if d.layout = 5 then
    let p := d.stripe (localOf k.base) i j
    (k.base / 2 ^ 52 * 2 ^ 52 + p.1, p.2)
  else
    let p := d.place i j
    (k.base + p.1, p.2)

/-- Global address and nibble of element (i, j) of batch element t. -/
def Tensor.at (x : Tensor) (t i j : Nat) : Nat × Nat :=
  match (x.blocks t).find? fun k => k.i0 ≤ i && i < k.i0 + k.rows && k.j0 ≤ j && j < k.j0 + k.cols with
  | some k => k.at x.d (i - k.i0) (j - k.j0)
  | none => (0, 0)

/-- The footprint of a part (R235, step 4): its address and length. -/
def TBlock.footprint (d : TDesc) (k : TBlock) : Nat × Nat :=
  (k.base, if d.layout = 5 then d.stripeExtent (localOf k.base) else d.extent k.rows k.cols)

/-- The runs of bytes that hold a part, padding included. -/
def TBlock.runs (d : TDesc) (k : TBlock) : List (Nat × Nat) :=
  if d.layout = 5 then
    d.units.flatMap fun u => (List.range d.unitU).map fun r =>
      (k.base / 2 ^ 52 * 2 ^ 52 + d.unitAt (localOf k.base) u.1 u.2 + r * 2 ^ 21, 2048)
  else
    let l := d.linesOf k.rows k.cols
    (List.range l.1).map fun n => (k.base + n * d.pitch, l.2)

/-- All parts. -/
def Tensor.allBlocks (x : Tensor) : List TBlock := (List.range x.d.batch).flatMap x.blocks

/-- All footprints. -/
def Tensor.allFootprints (x : Tensor) : List (Nat × Nat) := x.allBlocks.map (TBlock.footprint x.d)

/-- All runs of bytes. -/
def Tensor.runs (x : Tensor) : List (Nat × Nat) := x.allBlocks.flatMap (TBlock.runs x.d)

/-- The single interval on each device (R240): device, first byte, last byte. -/
def Tensor.intervals (x : Tensor) : List (Nat × Nat × Nat) :=
  let fs := x.allFootprints
  (uniq (fs.map fun f => devOf f.1)).map fun dev =>
    let ms := fs.filter fun f => devOf f.1 = dev
    (dev, ms.foldl (fun m f => min m (localOf f.1)) (2 ^ 44), ms.foldl (fun m f => max m (localOf f.1 + f.2 - 1)) 0)

/-- Do two lists of intervals share a byte? -/
def overlap (a b : List (Nat × Nat × Nat)) : Bool :=
  a.any fun x => b.any fun y => x.1 = y.1 && x.2.1 ≤ y.2.2 && y.2.1 ≤ x.2.2

/-- Rows and columns that a write of `r` × `c` elements covers, padding included (R232, R235). -/
def TDesc.padded (d : TDesc) (r c : Nat) : Nat × Nat :=
  let up (n u : Nat) : Nat := ceilDiv n u * u
  match d.layout with
  | 0 => (r, if d.bits = 4 then up c 2 else c)
  | 1 => (if d.bits = 4 then up r 2 else r, c)
  | 2 => (up r 16, up c 16)
  | 3 => (up r 32, up c 32)
  | 4 => (up r 32, up c d.tileH)
  | _ => (up r d.unitB, up c d.seg)

/-- The cells that a write of a part covers: address and nibble, and the tensor's element there; none for padding. -/
def TBlock.cells (d : TDesc) (k : TBlock) : List ((Nat × Nat) × Option (Nat × Nat)) :=
  let pad := d.padded k.rows k.cols
  (List.range pad.1).flatMap fun i => (List.range pad.2).map fun j =>
    (k.at d i j, if i < k.rows && j < k.cols then some (k.i0 + i, k.j0 + j) else none)

/-- Bytes a tensor's write covers. -/
def Tensor.written (x : Tensor) : Nat :=
  (x.allBlocks.map fun k => (x.d.padded k.rows k.cols).1 * (x.d.padded k.rows k.cols).2 * x.d.bits / 8).sum

/-! ## Moving elements -/

/-- Does an element's word hold poison, where it lies on this device? -/
def State.elemBad (s : State) (x : Tensor) (a : Nat) : Bool := s.gBad a (max 1 (x.d.bits / 8))

/-- One element's bits. -/
def State.elem (s : State) (c : Cmd) (x : Tensor) (t i j : Nat) : Nat :=
  let p := x.at t i j
  if x.d.bits = 4 then ((s.gByte c p.1).toNat / 16 ^ p.2) % 16 else leNat (s.gBytes c p.1 (x.d.bits / 8))

/-- An element as the destination takes it: converted where the formats differ (R239), with its poison (R225). -/
def State.carried (s : State) (c : Cmd) (x y : Tensor) (t i j : Nat) : Nat × Bool :=
  let v := s.elem c x t i j
  (if x.d.fmt = y.d.fmt then v else convertFmt x.d.fmt y.d.fmt v, s.elemBad x (x.at t i j).1)

/-- Put one element into a map of bytes. -/
def putElem (bits : Nat) (m : List (Nat × Byte)) (p : Nat × Nat) (v : Nat) : List (Nat × Byte) :=
  if bits = 4 then
    let old := (smGet (fun _ => (0 : Byte)) m p.1).toNat
    smPut m p.1 (BitVec.ofNat 8 (old - old / 16 ^ p.2 % 16 * 16 ^ p.2 + v % 16 * 16 ^ p.2))
  else (leBytes v (bits / 8)).zipIdx.foldl (fun m b => smPut m (p.1 + b.2) b.1) m

/-- Contiguous runs of a sorted map of bytes. -/
def runsOf : List (Nat × Byte) → List (Nat × List Byte)
  | [] => []
  | (a, b) :: m => match runsOf m with
    | (a', bs) :: rs => if a' = a + 1 then (a, b :: bs) :: rs else (a, [b]) :: (a', bs) :: rs
    | [] => [(a, [b])]

/-- Elements of a tensor by their number, batch element by batch element and row by row. -/
def TDesc.numbered (d : TDesc) (n : Nat) : Nat × Nat × Nat := (n / (d.rows * d.cols), n / d.cols % d.rows, n % d.cols)

/-- Write a tensor whose element (t, i, j) takes `src t i j`: its bits and whether they are poisoned. The elements numbered in
`parity` have met a parity error in a stage register of their plane: their words are written poisoned too (R245). -/
def State.putTensor (s : State) (c : Cmd) (y : Tensor) (parity : List Nat) (src : Nat → Nat → Nat → Nat × Bool) : State :=
  let hurt := parity.map y.d.numbered
  let cells := (List.range y.d.batch).flatMap fun t => (y.blocks t).flatMap fun k => (k.cells y.d).map fun e => match e.2 with
    | some p =>
      let v := src t p.1 p.2
      (e.1, v.1, v.2 || hurt.contains (t, p.1, p.2))
    | none => (e.1, 0, false)
  let m := cells.foldl (fun m e => putElem y.d.bits m e.1 e.2.1) []
  let bad := uniq ((cells.filter fun e => e.2.2).map fun e => e.1.1 / 8 * 8)
  (runsOf m).foldl (fun u r => u.gWrite c r.1 r.2 (bad.filter fun w => r.1 < w + 8 && w < r.1 + r.2.length)) s

/-- A permuting move passes the planes: its elements are counted, and so are the parity errors they meet, with the destination
addresses (R245). Firmware retires the slab and its plane by `YRD_SPARE_CMD`. -/
def State.planes (s : State) (y : Tensor) (parity : List Nat) : State :=
  let n := y.d.rows * y.d.cols * y.d.batch
  let t := s.setPair A.BND_ELEMS_LO A.BND_ELEMS_HI (s.getPair A.BND_ELEMS_LO A.BND_ELEMS_HI + n)
  (parity.filter (· < n)).foldl (fun u k =>
    let p := y.d.numbered k
    (u.bump F.BND_PARITY_CNT_COUNT).err .bnd 0 0 (some (y.at p.1 p.2.1 p.2.2).1)) t

/-! ## Descriptors, owner tables and checks of a command (R235 to R237, R240, R298) -/

/-- What COPY, LAYOUT and GATHER differ in: which descriptors are refused and which shapes agree, whether a move is a plain one, the index
tensor's range, whether a coalescing set is taken, and the move itself. -/
structure TJob where
  refused : TDesc → TDesc → Bool
  agree : TDesc → TDesc → Bool
  plain : TDesc → TDesc → Bool
  index : List (Nat × Nat)
  set : Bool
  move : Cmd → Tensor → Tensor → State → State

/-- KiB of the private copy of an owner table. -/
def TDesc.tableKiB (d : TDesc) : Nat := (8 * d.entries + 1023) / 1024

/-- WORK space, KiB, of the owner-table copies that the descriptors of a command on this device need (R237); those of other devices'
take theirs once they are read. -/
def State.tableSpace (s : State) (c : Cmd) (addrs : List Nat) : Nat :=
  addrs.foldl (fun n a =>
    if devOf a = s.dv.devNum && s.gStatus c false a 64 = 0 && !s.gBad a 64 then
      let d := readDesc (s.gBytes c a 64)
      if s.descBad d then n else n + d.tableKiB
    else n) 0

/-- The first failing code of the ranges a command touches (R235, step 4). -/
def State.rangesStatus (s : State) (c : Cmd) (write : Bool) (rs : List (Nat × Nat)) : Nat :=
  ((rs.map fun r => s.gStatus c write r.1 r.2).find? (· ≠ 0)).getD 0

/-- The descriptors a command has read. -/
def Cmd.tdescs (c : Cmd) : List TDesc := c.descs.map readDesc

/-- Where in the command's WORK space the copy of the k-th tensor's owner table lies. -/
def Cmd.tableAt (c : Cmd) (k n : Nat) : Nat := spaceAt c.units (((c.tdescs.take k).map TDesc.tableKiB).sum * 1024 + n)

/-- The k-th tensor of a command, with its private owner table. -/
def State.tensor (s : State) (c : Cmd) (k : Nat) : Tensor :=
  let d := c.tdescs.getD k (readDesc [])
  ⟨d, (List.range d.entries).map fun n => s.rdN (c.tableAt k (8 * n)) 8⟩

/-- Does a command's copy of its owner tables hold a poisoned word (R237, R273)? -/
def State.tableBad (s : State) (c : Cmd) : Bool :=
  (c.tdescs.zipIdx).any fun e => (List.range e.1.entries).any fun n => (s.ecc (c.tableAt e.2 (8 * n))).bad

/-- The owner tables that the descriptors of a command name. -/
def Cmd.tables (c : Cmd) : List (Nat × Nat) := (c.tdescs.filter TDesc.owned).map fun d => (d.base, 8 * d.entries)

/-- The inputs are at hand: the command moves its elements. -/
def State.jobMoves (s : State) (id : Nat) (j : TJob) : State :=
  match s.cmdOf id with
  | none => s
  | some c =>
    let x := s.tensor c 0
    match s.needs id 1 (j.index ++ x.runs) with
    | some t => t
    | none => if s.tableBad c then s.finish id St.poisonConsumed 0 else j.move c x (s.tensor c 1) s

/-- The tensors are known: the ACQUIRE of the inputs (R261), then the checks of the ranges and of overlap, a source's code before a
destination's (DESIGN CHOICE, log 69). -/
def State.jobRanges (s : State) (id : Nat) (j : TJob) : State :=
  match s.cmdOf id with
  | none => s
  | some c =>
    let x := s.tensor c 0
    let y := s.tensor c 1
    let ins := j.index ++ x.allFootprints
    let s := if c.hdr 53 53 = 1 then ins.foldl (fun t f => t.acquireRange c.part f.1 f.2) s else s
    let own := j.index.map fun r => (devOf r.1, localOf r.1, localOf r.1 + r.2 - 1)
    match s.rangesStatus c false ins with
    | 0 => match s.rangesStatus c true y.allFootprints with
      | 0 =>
        if !j.plain x.d y.d && overlap (own ++ x.intervals) y.intervals then
          (s.bump F.BND_OVERLAP_CNT_COUNT).finish id St.layoutOverlap 0
        else (s.onCmd id fun d => { d with stage := 2 }).jobMoves id j
      | e => s.finish id e 0
    | e => s.finish id e 0

/-- The owner tables are read once, into the private copy (R237); an invalid entry is captured (Table 8-11). -/
def State.jobTables (s : State) (id : Nat) (j : TJob) : State :=
  match s.cmdOf id with
  | none => s
  | some c =>
    match s.needs id 4 c.tables with
    | some t => t
    | none =>
      let t := c.tables.foldl (fun t r => t.look c r.1 r.2) s
      if c.tables.any fun r => s.gBad r.1 r.2 then t.finish id St.poisonConsumed 0
      else
        let es := c.tables.flatMap fun r => (List.range (r.2 / 8)).map fun k => (r.1 + 8 * k, leNat (s.gBytes c (r.1 + 8 * k) 8))
        match es.find? fun e => e.2 = 2 ^ 64 - 1 || e.2 / 2 ^ 44 % 256 ≠ 0 with
        | some e => (t.err .bnd 0 2 (some e.1)).finish id 0x0203 0
        | none =>
          let t := (c.tdescs.zipIdx).foldl (fun t e => (List.range e.1.entries).foldl (fun t n =>
            t.wr (c.tableAt e.2 (8 * n)) (s.gBytes c (e.1.base + 8 * n) 8)) t) t
          t.jobRanges id j

/-- The descriptors are read: the WORK space of the owner tables is taken, and where the command keeps a coalescing set, what is then
free of it (R237, R244, R251). -/
def State.jobSpace (s : State) (id : Nat) (j : TJob) : State :=
  match s.cmdOf id with
  | none => s
  | some c =>
    match s.takeWork c.part ((c.tdescs.map TDesc.tableKiB).sum - c.units.length) with
    | none =>
      (if c.counted then s else s.bump F.YRD_Q_WAITS_COUNT 1 c.part).onCmd id fun d => { d with asked := true, counted := true }
    | some (us, t) =>
      let n := if j.set then min 16384 (t.workOwned c.part - t.workUsed c.part) else 0
      let (vs, t) := (t.takeWork c.part n).getD ([], t)
      (t.onCmd id fun d => { d with units := d.units ++ us ++ vs, count := vs.length, stage := 1 }).jobTables id j

/-- A command reads its descriptors at global addresses `a` and `b` and checks them, both at each step (R235). -/
def State.jobDescs (s : State) (c : Cmd) (j : TJob) (a b : Nat) : State :=
  match s.rangesStatus c false [(a, 64), (b, 64)] with
  | 0 =>
    match s.needs c.id 1 [(a, 64), (b, 64)] with
    | some t => t
    | none =>
      let t := (s.look c a 64).look c b 64
      let bs := [s.gBytes c a 64, s.gBytes c b 64]
      let x := readDesc (s.gBytes c a 64)
      let y := readDesc (s.gBytes c b 64)
      if s.gBad a 64 || s.gBad b 64 then t.finish c.id St.poisonConsumed 0
      else if s.descBad x || s.descBad y || j.refused x y then t.finish c.id St.badField 0
      else if !j.agree x y then t.finish c.id 0x0202 0
      else
        let u := t.onCmd c.id fun d => { d with descs := bs }
        match u.rangesStatus c false ({ c with descs := bs } : Cmd).tables with
        | 0 => u.jobSpace c.id j
        | e => u.finish c.id e 0
  | e => s.finish c.id e 0

/-- A command of two tensors begins, or goes on where it waited. -/
def State.jobRuns (c : Cmd) (j : TJob) (a b : Nat) (s : State) : State :=
  let s := s.settlePool c.part
  if c.stage = 2 then s.jobMoves c.id j
  else if c.stage = 1 then s.jobTables c.id j
  else if c.descs ≠ [] then s.jobSpace c.id j
  else s.jobDescs c j a b

/-! ## COPY and LAYOUT (R239 to R241, R312) -/

/-- Is a COPY a plain move (R239)? -/
def plainPair (x y : TDesc) : Bool :=
  x.layout = y.layout && x.fmt = y.fmt && x.rows = y.rows && x.cols = y.cols && x.batch = y.batch && x.bpitch = y.bpitch
    && !x.owned && !y.owned && (if x.layout = 5 then x.seg = y.seg && x.bps = y.bps else x.pitch = y.pitch)

/-- The move of a COPY or LAYOUT. A plain move bypasses the planes; either way the whole source is read before the destination is
written. -/
def State.copyMove (plain trans : Bool) (parity : List Nat) (c : Cmd) (x y : Tensor) (s : State) : State :=
  let t := x.runs.foldl (fun t f => t.look c f.1 f.2) s
  let t := if plain then t else t.planes y parity
  (t.putTensor c y (if plain then [] else parity) fun t i j =>
    if trans then s.carried c x y t j i else s.carried c x y t i j).finish c.id 0 (y.written % 2 ^ 48)

/-- The job of a COPY, or of a LAYOUT with or without `TRANSPOSE`. -/
def copyJob (copy trans : Bool) (parity : List Nat) : TJob :=
  { refused := fun _ _ => false
    agree := fun x y => x.batch = y.batch && (if trans then y.rows = x.cols && y.cols = x.rows else y.rows = x.rows && y.cols = x.cols)
    plain := fun x y => copy && plainPair x y
    index := []
    set := false
    move := fun c x y s => s.copyMove (copy && plainPair x.d y.d) trans parity c x y }

/-- COPY (R239). -/
def execCopy (part queue : Nat) (parity : List Nat) (s : State) : Res :=
  s.runRow part queue 0x04 (fun _ _ => 0) (fun c t => t.tableSpace c [c.word 1, c.word 2])
    (fun c t => t.jobRuns c (copyJob true false parity) (c.word 1) (c.word 2))

/-- LAYOUT (R312). -/
def execLayout (part queue : Nat) (parity : List Nat) (s : State) : Res :=
  s.runRow part queue 0x05 (fun _ _ => 0) (fun c t => t.tableSpace c [c.word 1, c.word 2])
    (fun c t => t.jobRuns c (copyJob false (c.hdr 0 0 = 1) parity) (c.word 1) (c.word 2))

/-! ## GATHER (R242 to R244) -/

/-- The rows that a GATHER fetches, in order, with a coalescing set of `cap` rows: the least recently used row leaves a full set. -/
def fetchedRows (cap : Nat) : List Nat → List Nat → List Nat
  | _, [] => []
  | set, r :: rs =>
    if set.contains r then fetchedRows cap (set.erase r ++ [r]) rs
    else r :: fetchedRows cap (if cap = 0 then [] else (if set.length < cap then set else set.tail) ++ [r]) rs

/-- The runs of bytes that hold a row of a tensor of one batch element. -/
def Tensor.rowRuns (x : Tensor) (r : Nat) : List (Nat × Nat) :=
  let bytes := (List.range x.d.cols).foldl (fun m j => putElem x.d.bits m (x.at 0 r j) 0) []
  (runsOf bytes).map fun e => (e.1, e.2.length)

/-- The source row of an index under a policy: none writes zeros. -/
def gatherRow (policy rows idx : Nat) : Option Nat :=
  let v := signedN 32 idx
  if 0 ≤ v && v < rows then some v.toNat
  else if policy = 2 then some (if v < 0 then 0 else rows - 1) else none

/-- The move of a GATHER. -/
def State.gatherMove (parity : List Nat) (c : Cmd) (x y : Tensor) (s : State) : State :=
  let n := c.word 3
  let ia := c.word 2
  let t := s.look c ia (4 * n)
  if s.gBad ia (4 * n) then t.finish c.id St.poisonConsumed 0
  else
    let policy := c.hdr 1 0
    let idx := (List.range n).map fun k => leNat (s.gBytes c (ia + 4 * k) 4)
    let outs := (idx.filter fun v => let w := signedN 32 v; !(0 ≤ w && w < x.d.rows)).length
    let t := t.bump F.BND_RANGE_CNT_COUNT outs
    if policy = 0 && outs ≠ 0 then t.finish c.id St.indexRange (outs % 2 ^ 32)
    else
      let rows := idx.map (gatherRow policy x.d.rows)
      let used := rows.filterMap id
      let fetched := fetchedRows (c.count * 1024 / max 1 (x.d.bytesOf x.d.cols)) [] used
      let t := t.bump F.BND_COALESCED_COUNT (used.length - fetched.length)
      let t := fetched.foldl (fun t r => (x.rowRuns r).foldl (fun t f => t.look c f.1 f.2) t) t
      ((t.planes y parity).putTensor c y parity fun _ i j => match rows.getD i none with
        | some r => s.carried c x y 0 r j
        | none => (0, false)).finish c.id 0 (outs % 2 ^ 32)

/-- The job of a GATHER. -/
def gatherJob (c : Cmd) (parity : List Nat) : TJob :=
  { refused := fun x y => x.batch ≠ 1 || y.batch ≠ 1
    agree := fun x y => y.rows = c.word 3 && y.cols = x.cols
    plain := fun _ _ => false
    index := [(c.word 2, 4 * c.word 3)]
    set := true
    move := fun c x y s => s.gatherMove parity c x y }

/-- GATHER (R242). Its coalescing set takes the WORK space then free; it does not wait for any (R244). -/
def execGather (part queue : Nat) (parity : List Nat) (s : State) : Res :=
  s.runRow part queue 0x06 (fun _ _ => 0) (fun c t => t.tableSpace c [c.word 1, c.word 4])
    (fun c t => t.jobRuns c (gatherJob c parity) (c.word 1) (c.word 4))

end Sys2Proof.Machine
end

