-- ==== Sys2Proof/Machine/Commands.lean ====
section
/-! DEFINITION. The commands that act on memory and on their own queue (chapter 11): ACQUIRE, FENCE, MARKER, NOP, SIGNAL, WAIT,
PATCH, REPLAY and REDUCE_REMOTE. -/

namespace Sys2Proof.Machine

/-- No check, no space. -/
def noPre (_ : Cmd) (_ : State) : Nat := 0

/-- NOP (R310). -/
def execNop (part queue : Nat) (s : State) : Res := s.admitRow part queue 0x13 noPre noPre fun c t => t.finish c.id 0 0

/-- ACQUIRE (R259, R261). -/
def execAcquire (part queue : Nat) (s : State) : Res :=
  s.admitRow part queue 0x07 noPre noPre fun c t =>
    (if c.hdr 0 0 = 1 then t.acquireAll part else t.acquireRange part (c.word 1) (c.word 2)).finish c.id 0 0

/-- A command begins to wait for others; it is done where there is none. -/
def State.waitFor (s : State) (c : Cmd) (ids : List Nat) (result : Nat) : State :=
  if ids = [] then s.finish c.id 0 result else s.onCmd c.id fun d => { d with waits := ids }

/-- FENCE (R313). -/
def execFence (part queue : Nat) (s : State) : Res :=
  s.admitRow part queue 0x08 noPre noPre fun c t =>
    let own := (t.earlier c).map fun d => d.id
    let others := (t.qu.cmds.filter fun d => d.part = part && d.queue ≠ queue && d.phase ≠ 0).map fun d => d.id
    t.waitFor c (if c.hdr 0 0 = 1 then own ++ others else own) 0

/-- MARKER (R313). -/
def execMarker (part queue : Nat) (s : State) : Res :=
  s.admitRow part queue 0x1F noPre noPre fun c t => t.waitFor c ((t.earlier c).map fun d => d.id) (c.word 1)

/-- SIGNAL (R314). -/
def execSignal (part queue : Nat) (s : State) : Res :=
  s.admitRow part queue 0x12 noPre noPre fun c t =>
    let t := t.settlePool part
    let a := c.word 1
    if c.hdr 0 0 = 1 && a / 2 ^ 44 % 256 = 0 && 16 * stackBytes ≤ localOf a then t.finish c.id St.badField 0
    else match t.gStatus c true a 8 with
      | 0 =>
        let u := if c.hdr 0 0 = 0 then t.gWrite c a (leBytes (c.word 2) 8) []
          else if devOf a = t.dv.devNum then t.addFor (.cmd c.id) 3 (localOf a) (leBytes (c.word 2) 8)
          else t.writeAway (.cmd c.id) part a (leBytes (c.word 2) 8) 3 3
        u.finish c.id 0 0
      | e => t.finish c.id e 0

/-! ## WAIT (R314) -/

/-- Does a flag meet a WAIT's condition? -/
def Cmd.flagMet (c : Cmd) (v : Nat) : Bool :=
  match c.hdr 1 0 with
  | 0 => c.word 2 ≤ v
  | 1 => v = c.word 2
  | _ => v &&& c.word 2 ≠ 0

/-- Evaluate a WAIT's condition: on this device at once; a flag elsewhere is asked for, and tested when it has come. -/
def State.evalWait (s : State) (c : Cmd) : State :=
  let s := s.settlePool c.part
  let a := c.word 1
  if c.acks ≠ 0 then s
  else if c.status ≠ 0 then s.finish c.id c.status 0
  else match s.gStatus c false a 8 with
    | 0 =>
      if devOf a = s.dv.devNum then
        let r := s.loadFor (.cmd c.id) (localOf a) 8
        if r.2.1 then r.2.2.finish c.id St.poisonConsumed 0
        else if c.flagMet (leNat r.1) then r.2.2.finish c.id 0 (leNat r.1) else r.2.2
      else
        let v := leNat (s.gBytes c a 8)
        if c.remote ≠ [] && c.flagMet v then s.finish c.id 0 v
        else
          let t := s.onCmd c.id fun d => { d with remote := [] }
          match (t.passAway (.cmd c.id) c.part 8).sendRemote { top := 1, addr := a, part := c.part, type := 0, len := 8, data := []
                                                               use := .flag c.id } with
          | (0, u) => u.oweAck (.cmd c.id) 1
          | (e, u) => u.finish c.id e 0
    | e => s.finish c.id e 0

/-- WAIT: admitted, and evaluated for the first time. -/
def execWaitCmd (part queue : Nat) (s : State) : Res := s.admitRow part queue 0x11 noPre noPre fun c t => t.evalWait c

/-- The WAIT a queue holds. -/
def State.waiting (s : State) (p q : Nat) : Option Cmd := (s.queueCmds p q).find? fun c => c.phase = 1 && c.op = 0x11

/-- WAIT_EVALUATE: the flag's line was written, or 10 µs passed, or the flag came from its device. -/
def execWaitEvaluate (part queue : Nat) (s : State) : Res :=
  match s.waiting part queue with
  | some c => done (s.evalWait c)
  | none => done s

/-- WAIT_TIMEOUT: `us` µs have passed since the WAIT was admitted. -/
def execWaitTimeout (part queue us : Nat) (s : State) : Res :=
  match s.waiting part queue with
  | some c => if c.word 3 ≠ 0 && c.word 3 ≤ us then done (s.finish c.id St.waitTimeout 0) else done s
  | none => done s

/-! ## PATCH and REPLAY (R317 to R319) -/

/-- PATCH. -/
def execPatch (part queue : Nat) (s : State) : Res :=
  s.admitRow part queue 0x03 noPre noPre fun c t =>
    ((List.range (c.hdr 2 0)).foldl (fun u i =>
      let r := c.hdr 23 16 + i
      let v := c.word (i + 1)
      u.setParam part queue r (if c.hdr 8 8 = 1 then (u.param part queue r + v) % 2 ^ 64 else v)) t).finish c.id 0 0

/-- A template-table entry of a partition. -/
def State.template (s : State) (p n : Nat) : Option Template := (s.sv.tpls.find? fun e => e.1 = p * 4096 + n).map fun e => e.2

/-- Replace a field of a command word. -/
def setBits (w hi lo v : Nat) : Nat := putField w hi lo v

/-- The commands a REPLAY admits, as commands of its queue (R319). -/
def recorded (c : Cmd) (ws : List (List Nat)) (id : Nat) : List Cmd :=
  let subst := c.hdr 31 31 = 1
  (ws.zipIdx).map fun e =>
    let w0 := e.1.getD 0 0
    let w1 := if subst then setBits w0 28 24 ((nbits w0 28 24 + c.hdr 28 24) % 32) else w0
    { id := id + e.2, part := c.part, queue := c.queue, words := setBits w1 47 32 (c.hdr 47 32) :: e.1.drop 1
      replay := some c.id, place := e.2, ownTag := nbits w0 47 32 ≠ 0, regOff := if subst then c.hdr 28 24 * 8 else 0 }

/-- Checks of a REPLAY: the entry's kind and emptiness, and steps only in an active partition (R318, Table 11-9). -/
def replayPre (c : Cmd) (s : State) : Nat :=
  match s.template c.part (c.hdr 11 0) with
  | none => St.stateRefused
  | some t =>
    if t.kind ≠ 1 then St.badField
    else if s.getF F.PRT_STATE_STATE c.part ≠ 2 && t.cmds.any fun w =>
        nbits (w.getD 0 0) 63 56 = 0x01 || nbits (w.getD 0 0) 63 56 = 0x14 then St.stateRefused
    else 0

/-- REPLAY: its recorded commands stand next in its queue. -/
def execReplay (part queue : Nat) (s : State) : Res :=
  s.admitRow part queue 0x02 replayPre noPre fun c t =>
    let u := if c.hdr 53 53 = 1 then t.acquirePart part else t
    match u.template part (c.hdr 11 0) with
    | none => u
    | some tp =>
      let rs := recorded c tp.cmds u.qu.nextId
      let cmds := u.qu.cmds.flatMap fun d => if d.id = c.id then d :: rs else [d]
      { u with qu := { u.qu with cmds := cmds, nextId := u.qu.nextId + rs.length } }

/-! ## REDUCE_REMOTE (R315, R82) -/

/-- Fields of a REDUCE_REMOTE that no other command has: the source's device, the destination's memory, the element size. -/
def reducePre (c : Cmd) (s : State) : Nat :=
  let n := msBytes (c.hdr 1 0)
  let d := c.word 2
  if devOf (c.word 1) ≠ s.dv.devNum || 16 * stackBytes < localOf d + c.word 3 || c.word 3 % n ≠ 0
      || d % n ≠ 0 then St.badField else 0

/-- Pieces of `[src, src + n)` of this device, split as the destination `dst` is, that hold no poison; the piece of an element from a
poisoned word is not added, and its command is told (R83, R386). -/
def State.addPieces (s : State) (c : Cmd) (u src dst n : Nat) (add : State → Nat → List Byte → State) : State :=
  let bytes := (s.loadFor (.cmd c.id) src n).1
  let t := (s.loadFor (.cmd c.id) src n).2.2
  (piecesOf u dst n).foldl (fun t b =>
    if s.readBad (src + (b.1 - dst)) b.2 then t.workFail (.cmd c.id) St.poisonConsumed
    else add t b.1 (sliceB bytes (b.1 - dst) b.2)) t

/-- REDUCE_REMOTE. -/
def execReduceRemote (part queue : Nat) (s : State) : Res :=
  s.admitRow part queue 0x10 reducePre noPre fun c t =>
    let t := t.settlePool part
    let src := localOf (c.word 1)
    let dst := c.word 2
    let n := c.word 3
    let type := c.hdr 1 0
    let t := if c.hdr 53 53 = 1 then t.acquireRange part (c.word 1) n else t
    match t.gStatus c false (c.word 1) n with
    | 0 =>
      if dst / 2 ^ 44 % 256 ≠ 0 then t.finish c.id St.addressUnmapped 0
      else if n = 0 then t.finish c.id 0 0
      else match t.gStatus c true dst n with
        | 0 =>
          let u := if devOf dst = t.dv.devNum then
              t.addPieces c (msBytes type) src (localOf dst) n fun v a bs => v.addFor (.cmd c.id) type a bs
            else t.addPieces c 256 src dst n fun v a bs => v.writeAway (.cmd c.id) part a bs 3 type
          u.finish c.id 0 0
        | e => t.finish c.id e 0
    | e => t.finish c.id e 0

end Sys2Proof.Machine
end

