-- ==== Sys2Proof/Machine/Seqs.lean ====
section
/-! DEFINITION. Sequences, pages, the page pool, adapters and the prefix index (chapters 6 and 7): what the step builder, the edits
and the commits share. -/

namespace Sys2Proof.Machine

/-! ## Tables -/

/-- A sequence-table entry. -/
def State.seq (s : State) (q : Nat) : Seq := smGet (fun _ => {}) s.sv.seqs q

/-- Replace it. -/
def State.setSeq (s : State) (q : Nat) (e : Seq) : State :=
  { s with sv := { s.sv with seqs := smSet (fun _ => {}) s.sv.seqs q e } }

/-- A model slot. -/
def State.mslot (s : State) (m : Nat) : MSlot := smGet (fun _ => {}) s.sv.mslots m

/-- Replace it. -/
def State.setMslot (s : State) (m : Nat) (e : MSlot) : State :=
  { s with sv := { s.sv with mslots := smSet (fun _ => {}) s.sv.mslots m e } }

/-- An adapter slot. -/
def State.aslot (s : State) (a : Nat) : ASlot := smGet (fun _ => {}) s.sv.aslots a

/-- Replace it. -/
def State.setAslot (s : State) (a : Nat) (e : ASlot) : State :=
  { s with sv := { s.sv with aslots := smSet (fun _ => {}) s.sv.aslots a e } }

/-- The number of the last step admitted. -/
def State.stepCount (s : State) : Nat := s.getPair A.SEQ_STEPS_LO A.SEQ_STEPS_HI

/-- An admitted step. -/
def State.stepOf (s : State) (num : Nat) : Option StepRun := s.sv.steps.find? fun x => x.num = num

/-- Is the sequence in an admitted step? -/
def State.inStep (s : State) (q : Nat) : Bool := s.sv.steps.any fun x => x.works.any fun w => w.seq = q && !w.left

/-- Entries a partition holds. -/
def State.seqsOf (s : State) (p : Nat) : List (Nat × Seq) := s.sv.seqs.filter fun e => e.2.st ≠ 0 && e.2.part = p

/-- Extend a measurement register (R456). -/
def State.measure (s : State) (k : Nat) (event : List Byte) : State :=
  let old := smGet (fun _ => List.replicate 32 (0 : Byte)) s.ks.meas k
  { s with ks := { s.ks with meas := smSet (fun _ => List.replicate 32 (0 : Byte)) s.ks.meas k (sha3 (old ++ sha3 event)) } }

/-! ## Geometry and pages (R157 to R160) -/

/-- `KEY_ROWS`. -/
def MSlot.keyRows (m : MSlot) : Nat := (m.headDim + 63) / 64

/-- Value slices. -/
def MSlot.slices (m : MSlot) : Nat := m.headDim / 32

/-- Slot groups. -/
def MSlot.groups (m : MSlot) : Nat := (m.qPerKv + 7) / 8

/-- The null page number. -/
def nullPage : Nat := 0xFFFFFFFF

/-- `STACK` of a page number. -/
def pgStack (p : Nat) : Nat := p / 2 ^ 28

/-- `BANK`. -/
def pgBank (p : Nat) : Nat := p / 2 ^ 22 % 64

/-- `BAND`. -/
def pgBand (p : Nat) : Nat := p % 65536

/-- Local address of row u of item i of a page's frame (R159). -/
def MSlot.rowAddr (m : MSlot) (p i u : Nat) : Nat :=
  pgStack p * stackBytes + (pgBand p * m.keyRows + u) * 2 ^ 21 + i % 16 * 2 ^ 17 + (pgBank p + i / 16) * 2 ^ 11

/-- The rows of a page's frame. -/
def MSlot.frame (m : MSlot) (p : Nat) : List Nat :=
  (List.range (4 * m.kvHeads)).flatMap fun i => (List.range m.keyRows).map fun u => m.rowAddr p i u

/-- The granules of a page's frame. -/
def MSlot.frameGranules (m : MSlot) (p : Nat) : List Nat := uniq ((m.frame p).map granule)

/-- The code a page number fails R160 with, or 0. -/
def State.pageStatus (s : State) (m : MSlot) (part p : Nat) : Nat :=
  if p = nullPage then 0x0309
  else if !s.present .stk (pgStack p) then St.absentUnit
  else if nbits p 21 16 ≠ 0 || 63 < pgBank p + (4 * m.kvHeads - 1) / 16 || 49152 < (pgBand p + 1) * m.keyRows
      || (m.frameGranules p).any (fun g => !s.isOpen g || !s.isMutable g || s.granuleOwner g ≠ some part) then 0x0309
  else 0

/-! ## Page lists (R162) -/

/-- One page list: base, `PL_CAP`, layers and the model slot whose geometry it has. -/
structure PList where
  base : Nat
  cap : Nat
  layers : Nat
  m : MSlot
deriving DecidableEq, Repr

/-- A sequence's page list. -/
def State.mainList (s : State) (e : Seq) : PList := ⟨e.plBase, e.plCap, (s.mslot e.mslot).layers, s.mslot e.mslot⟩

/-- Its draft list. -/
def State.draftList (s : State) (e : Seq) : PList := ⟨e.dplBase, e.dplCap, (s.mslot e.dslot).layers, s.mslot e.dslot⟩

/-- Both lists. -/
def State.listsOf (s : State) (e : Seq) : List PList :=
  s.mainList e :: (if e.dslot = 0xFF then [] else [s.draftList e])

/-- Address of an entry. -/
def PList.at (l : PList) (layer i : Nat) : Nat := l.base + 4 * (layer * l.cap + i)

/-- An entry: none where its word is poisoned. -/
def State.entry (s : State) (l : PList) (layer i : Nat) : Option Nat :=
  let r := s.readB (l.at layer i) 4
  if r.2.1 then none else some (leNat r.1)

/-- Write an entry. -/
def State.setEntryAt (s : State) (l : PList) (layer i page : Nat) : State := s.writeB (l.at layer i) (leBytes page 4)

/-- The pages a list names. -/
def State.pagesIn (s : State) (l : PList) : List Nat :=
  ((List.range l.layers).flatMap fun y => (List.range l.cap).filterMap fun i => s.entry l y i).filter (· ≠ nullPage)

/-- How many lists of a partition name a page. -/
def State.namedBy (s : State) (p page : Nat) : Nat :=
  ((s.seqsOf p).flatMap fun e => s.listsOf e.2).countP fun l => (s.pagesIn l).contains page

/-- A partition's prefix index. -/
def State.index (s : State) (p : Nat) : List PEntry := smGet (fun _ => []) s.sv.prefixes p

/-- Replace it, with its count. -/
def State.setIndex (s : State) (p : Nat) (x : List PEntry) : State :=
  ({ s with sv := { s.sv with prefixes := smSet (fun _ => []) s.sv.prefixes p x } } : State).setF F.SEQ_PFX_BLOCKS_COUNT x.length p

/-- The prefix index holds the page. -/
def State.indexed (s : State) (p page : Nat) : Bool := (s.index p).any fun e => e.pages.contains page

/-- A page is shared (R164). -/
def State.shared (s : State) (p page : Nat) : Bool := s.indexed p page || 1 < s.namedBy p page

/-- An admitted step's snapshot names the page. -/
def State.snapped (s : State) (p page : Nat) : Bool :=
  s.sv.steps.any fun x => x.part = p && x.works.any fun w => !w.left && (w.pages ++ w.dpages).any fun l => l.contains page

/-! ## The page pool (R163, R171) -/

/-- Entries of the pool ring as a power of two; 0: no pool. -/
def State.poolLog (s : State) (p : Nat) : Nat := s.getF F.SEQ_POOL_SIZE_LOG2 p

/-- Entries the pool holds. -/
def State.poolHeld (s : State) (p : Nat) : Nat := smGet (fun _ => 0) s.sv.pools p

/-- Address of a pool ring's position: a counter that runs freely, entry i in slot i mod 2^`LOG2`. -/
def State.poolAt (s : State) (p i : Nat) : Nat :=
  s.getPair A.SEQ_POOL_BASE_LO A.SEQ_POOL_BASE_HI p / 64 * 64 + 4 * (i % 2 ^ s.poolLog p)

/-- Set how many entries the pool holds. -/
def State.setPool (s : State) (p n : Nat) : State := { s with sv := { s.sv with pools := smSet (fun _ => 0) s.sv.pools p n } }

/-- Take the next entry: none in it where its word is poisoned. -/
def State.poolTake (s : State) (p : Nat) : Option (Option Nat × State) :=
  if s.poolHeld p = 0 || s.poolLog p = 0 then none
  else
    let i := s.getF F.SEQ_POOL_HEAD_INDEX p
    let r := s.readB (s.poolAt p i) 4
    let t := (r.2.2.setF F.SEQ_POOL_HEAD_INDEX ((i + 1) % 2 ^ 24) p).setPool p (s.poolHeld p - 1)
    some (if r.2.1 then none else some (leNat r.1), t)

/-- Append a page at the tail; a full ring, no ring, or one outside the partition's memory discards it with
`POOL_OVERFLOW` (R171, Table 7-9). -/
def State.poolAdd (s : State) (p page : Nat) : State :=
  let k := s.poolLog p
  let i := s.getF F.SEQ_POOL_TAIL_INDEX p
  if k = 0 || 2 ^ k ≤ s.poolHeld p || s.rangeStatus (.part p) true (s.poolAt p i) 4 ≠ 0 then s.err .seq 0 2
  else ((s.writeB (s.poolAt p i) (leBytes page 4)).setF F.SEQ_POOL_TAIL_INDEX ((i + 1) % 2 ^ 24) p).setPool p (s.poolHeld p + 1)

/-- A page removed from a list or the index returns to the pool, unless another list or the index still names it; while an
admitted step's snapshot names it, it waits, and it returns once (R171). -/
def State.returnPage (s : State) (p page : Nat) : State :=
  if page = nullPage then s
  else if s.snapped p page then
    if s.sv.removed.contains (p, page) then s else { s with sv := { s.sv with removed := s.sv.removed ++ [(p, page)] } }
  else if s.indexed p page || s.namedBy p page ≠ 0 then s
  else ({ s with sv := { s.sv with removed := s.sv.removed.filter (· ≠ (p, page)) } } : State).poolAdd p page

/-- PAGE_RELEASE (R171): a removed page returns once no admitted step names it. -/
def execPageRelease (part page : Nat) (s : State) : Res :=
  if s.sv.removed.contains (part, page) && !s.snapped part page then
    done (({ s with sv := { s.sv with removed := s.sv.removed.erase (part, page) } } : State).returnPage part page)
  else done s

/-- Evict the least recently matched entry whose pages no list names (R216). -/
def State.evictOne (s : State) (p : Nat) : Option State :=
  let free := (s.index p).filter fun e => e.pages.all fun g => s.namedBy p g = 0
  match free.foldl (fun (m : Option PEntry) (e : PEntry) => match m with
      | none => some e
      | some x => if e.used < x.used then some e else some x) none with
  | none => none
  | some e =>
    let t := (s.setIndex p ((s.index p).erase e)).bump F.SEQ_PFX_EVICTS_COUNT 1 p
    some (e.pages.foldl (fun u g => u.returnPage p g) t)

/-- Evict entries until the pool holds `POOL_LOW` or nothing more can go. -/
def State.evictLow (s : State) (p : Nat) : Nat → State
  | 0 => s
  | n + 1 =>
    if s.getF F.SEQ_POOL_LOW_COUNT p ≤ s.poolHeld p then s
    else match s.evictOne p with
      | some t => t.evictLow p n
      | none => s.err .seq 0 3

/-- A pool that has fallen below `POOL_LOW` (R216). -/
def State.poolLow (s : State) (p : Nat) : State :=
  if s.poolHeld p < s.getF F.SEQ_POOL_LOW_COUNT p then s.evictLow p ((s.index p).length + 1) else s

/-! ## Adapters (R209, R210) -/

/-- Does an entry bind, or an admitted step's snapshot name, a version? -/
def State.versionHeld (s : State) (a v : Nat) : Bool :=
  s.sv.seqs.any (fun e => e.2.st ≠ 0 && e.2.aslot = a && e.2.aver = v)
    || s.sv.steps.any fun x => x.works.any fun w => !w.left && w.aslot = a && w.aver = v

/-- Versions that are not current and that nothing holds are removed. -/
def State.trimAslot (s : State) (a : Nat) : State :=
  if a = 0xFFFF then s
  else
    let e := s.aslot a
    s.setAslot a { e with live := e.live.filter fun v => v.1 = e.cur || s.versionHeld a v.1 }

/-! ## Releasing a sequence (R171, R219, R351, R510) -/

/-- The words of a list are read. -/
def State.lookList (s : State) (l : PList) : State := (List.range l.layers).foldl (fun t y => (t.readB (l.at y 0) (4 * l.cap)).2.2) s

/-- Addresses of the poisoned words of a list. -/
def State.badEntries (s : State) (l : PList) : List Nat :=
  (List.range l.layers).flatMap fun y => ((List.range l.cap).map (l.at y)).filter fun a => (s.readB a 4).2.1

/-- An entry that becomes `FREE`: only its state and what goes with it change; the fields that SEQ_OPEN sets stand until the next
one (R193), so that the entry goes on being shown to the partition it names. -/
def Seq.freed (e : Seq) : Seq :=
  { e with st := 0, retainMs := 0, fails := 0, heldByFail := false, damaged := false, p0 := 0, parkedFrom := 0, recFrom := 0,
           recAt := 0, rebuilding := false, lastAdmit := 0, restart := false }

/-- A sequence's pages are released, its adapter version unbound, and its entry becomes `FREE`. -/
def State.releaseSeq (s : State) (q : Nat) : State :=
  let e := s.seq q
  let ls := s.listsOf e
  let s := ls.foldl State.lookList s
  let bad := ls.flatMap s.badEntries
  let pages := uniq (ls.flatMap s.pagesIn)
  let t := bad.foldl (fun u a => u.err .seq 0 6 (some (u.global (a / 8 * 8)))) s
  let t := t.setSeq q e.freed
  (pages.foldl (fun u g => u.returnPage e.part g) t).trimAslot e.aslot

/-! ## Block hashes and publication (R211 to R215, R522) -/

/-- The hash of block b of a history, or the address of its first poisoned word. -/
def State.blockHash (s : State) (e : Seq) (b : Nat) (prev : List Byte) : Except Nat (List Byte) :=
  let a := e.tokBase + 256 * b
  match (wordsOf a 256).find? s.asServed.wordBad with
  | some w => .error w
  | none =>
    let tokens := (s.readB a 256).1
    .ok (shake128 (sliceB prev 0 16 ++ [BitVec.ofNat 8 e.mslot, 0] ++ leBytes (s.mslot e.mslot).gen 2 ++ leBytes e.aslot 2
      ++ leBytes e.aver 2 ++ tokens) 16)

/-- A piece of work reads the words of block b of a history. -/
def State.lookBlock (s : State) (o : Own) (e : Seq) (b : Nat) : State := (s.loadFor o (e.tokBase + 256 * b) 256).2.2

/-- A poisoned history word is reported. -/
def State.historyPoison (s : State) (w : Nat) : State := s.err .seq 0 7 (some (s.global w))

/-- Space a radix tree of hashes takes: its leaves, and a 2 KiB node for the root and for every leading byte string of 1 to 15
bytes. -/
def treeSpace (es : List PEntry) : Nat :=
  es.foldl (fun n e => n + 64 + 4 * e.pages.length) 0
    + 2048 * (1 + (uniq (es.flatMap fun e => (List.range 15).map fun k => e.hash.take (k + 1))).length)

/-- The index has room for the entries (R212). -/
def State.indexRoom (s : State) (p : Nat) (es : List PEntry) : Bool :=
  if s.getF F.SEQ_PFX_MODE_MODE p = 1 then es.length ≤ 65536
  else treeSpace es ≤ s.getF F.SEQ_PFX_SIZE_MIB p * 2 ^ 20

/-- Add an entry, evicting what may go where there is no room; none where it cannot be had. -/
def State.indexAdd (s : State) (p : Nat) (e : PEntry) : Nat → Option State
  | 0 => none
  | n + 1 =>
    if s.indexRoom p (s.index p ++ [e]) then some (s.setIndex p (s.index p ++ [e]))
    else match s.evictOne p with
      | some t => t.indexAdd p e n
      | none => none

/-- A match of a hash: its entry becomes the most recently matched. -/
def State.matchHash (s : State) (p : Nat) (h : List Byte) : Option (PEntry × State) :=
  match (s.index p).find? fun e => e.hash = h with
  | none => none
  | some e =>
    let n := s.sv.matches_ + 1
    let t := s.setIndex p ((s.index p).map fun x => if x.hash = h then { x with used := n } else x)
    some (e, { t with sv := { t.sv with matches_ := n } })

/-- Publish block b of a sequence with its hash: a status, and the state after. -/
def State.publishBlock (s : State) (q b step : Nat) (h : List Byte) : Nat × State :=
  let e := s.seq q
  let p := e.part
  match s.matchHash p h with
  | some r => (0, r.2)
  | none =>
    let l := s.mainList e
    let s := if b < l.cap then (List.range l.layers).foldl (fun t y => (t.readB (l.at y b) 4).2.2) s else s
    let ws := (List.range l.layers).map fun y => if b < l.cap then s.entry l y b else some nullPage
    if ws.any Option.isNone then (St.poisonConsumed, s)
    else
      let pages := ws.filterMap id
      if pages.any fun g => s.pageStatus l.m p g ≠ 0 then (0x0309, s)
      else
        let n := s.sv.matches_ + 1
        let t : State := { s with sv := { s.sv with matches_ := n } }
        match t.indexAdd p ⟨h, pages, n, e.mslot, step⟩ ((t.index p).length + 1) with
        | some u => (0, u)
        | none => (0x0507, t)

/-- Publish a sequence's blocks in order below block `upto`, at most `fuel` of them (R213). -/
def State.publish (s : State) (o : Own) (q upto step : Nat) : Nat → Nat × State
  | 0 => (0, s)
  | n + 1 =>
    let e := s.seq q
    let b := e.pfxPub
    if upto ≤ b || e.clen < 64 * (b + 1) then (0, s)
    else
      let s := s.lookBlock o e b
      match s.blockHash e b e.lastHash with
      | .error w => (St.poisonConsumed, s.historyPoison w)
      | .ok h =>
        match s.publishBlock q b step h with
        | (0, t) => (t.setSeq q { t.seq q with pfxPub := b + 1, lastHash := h }).publish o q upto step n
        | r => r

/-- The prefix lookup of an opened sequence (R215), from block b on. -/
def State.lookup (s : State) (o : Own) (q b : Nat) : Nat → State
  | 0 => s
  | n + 1 =>
    let e := s.seq q
    if e.hlen ≤ 64 * (b + 1) || e.plCap ≤ b then s
    else
      let s := s.lookBlock o e b
      match s.blockHash e b e.lastHash with
      | .error w => (s.historyPoison w).bump F.SEQ_PFX_MISSES_COUNT 1 e.part
      | .ok h =>
        match s.matchHash e.part h with
        | none => s.bump F.SEQ_PFX_MISSES_COUNT 1 e.part
        | some (x, t) =>
          let l := t.mainList e
          let u := (x.pages.zipIdx).foldl (fun u g => u.setEntryAt l g.2 b g.1) (t.bump F.SEQ_PFX_HITS_COUNT 1 e.part)
          (u.setSeq q { e with clen := 64 * (b + 1), pfxPub := b + 1, lastHash := h }).lookup o q (b + 1) n

/-- `LAST_HASH` and `PFX_PUB` formed again from the history, up to `n` blocks (R522). -/
def State.rehash (s : State) (o : Own) (q n : Nat) : State :=
  let e := s.seq q
  let s := (List.range n).foldl (fun t b => t.lookBlock o e b) s
  let r := (List.range n).foldl (fun (acc : Nat × List Byte × Option Nat) b =>
    match acc.2.2 with
    | some _ => acc
    | none => match s.blockHash e b acc.2.1 with
      | .ok h => (b + 1, h, none)
      | .error w => (acc.1, acc.2.1, some w)) (0, List.replicate 16 0, none)
  let t := match r.2.2 with
    | some w => s.historyPoison w
    | none => s
  t.setSeq q { e with pfxPub := r.1, lastHash := r.2.1 }

/-! ## Damage (R507 to R510) -/

/-- The partition runs under LIVE. -/
def State.live (s : State) (p : Nat) : Bool := s.flag F.PRT_MODE_LIVE p

/-- A sequence is damaged: under CONSISTENT its partition enters `RECOVERING` and it is to be rebuilt from p0; under LIVE it is
to be released. One in `CLOSING` is not damaged. -/
def State.damage (s : State) (q p0 : Nat) : State :=
  let e := s.seq q
  if e.st = 0 || e.st = 5 then s
  else
    let again := e.damaged || e.st = 4
    let t := s.setSeq q { e with damaged := true, p0 := if again then min e.p0 p0 else p0, restart := e.st = 4 }
    if !s.live e.part && s.getF F.PRT_STATE_STATE e.part = 2 then t.setF F.PRT_STATE_STATE 5 e.part else t

/-- Mark a sequence `SUSPECT` (R399): its event record, its step's status, and its damage. -/
def State.markSuspect (s : State) (q p0 : Nat) : State :=
  let e := s.seq q
  let t := (s.setSeq q { e with suspect := true, status := St.suspect }).event q St.suspect
  let t := t.bump F.REG_SUSPECT_CNT_COUNT
  let t := t.sv.steps.foldl (fun u x =>
    if x.works.any fun w => w.seq = q && !w.left then
      u.onStep x.num fun y => { y with works := y.works.map fun w => if w.seq = q && !w.left then { w with status := St.suspect } else w }
    else u) t
  t.damage q p0

/-- LIVE_RELEASE (R510): a damaged sequence of a LIVE partition with no admitted step is released with a `LOST` record. -/
def execLiveRelease (seq : Nat) (s : State) : Res :=
  let e := s.seq seq
  if e.st ≠ 0 && e.damaged && s.live e.part && !s.inStep seq then done ((s.event seq St.lost).releaseSeq seq) else done s

end Sys2Proof.Machine
end

