-- ==== Sys2Proof/Machine/Edits.lean ====
section
/-! DEFINITION. Opening, editing and closing sequences, adapters, publication, and the pool, quota and prefix-index settings
(chapter 7). -/

namespace Sys2Proof.Machine

/-! ## SEQ_OPEN (R192, R193, R196, R210, R215, R315) -/

/-- A finite positive FP32 pattern. -/
def positive32 (x : Nat) : Bool := x < 0x7F800000 && x ≠ 0

/-- Bits [63:44] zero, 64-byte-aligned. -/
def baseOk (a : Nat) : Bool := a < 2 ^ 44 && a % 64 = 0

/-- `PL_CAP` values (R162). -/
def capOk (n : Nat) : Bool := n % 16 = 0 && 16 ≤ n && n ≤ 4096

/-- The entry an open record spells (Table 7-1). -/
def openEntry (b : List Byte) : Seq :=
  let f := fieldB b
  { st := 1, part := f 1 1 % 32, rule := f 2 1 % 2, autoPub := nbit (f 2 1) 1, lookup := nbit (f 2 1) 2, aclass := f 3 1
    mslot := f 4 1, dslot := f 5 1, aslot := f 6 2, specD := f 10 1, chunk := f 11 1, hlen := f 16 4, attnLo := f 24 4
    temp := f 28 4, plBase := f 32 8, dplBase := f 40 8, tokBase := f 48 8, tokCap := f 56 4, plCap := f 60 2
    dplCap := f 62 2, seed := f 64 8, cookie := f 72 8, stopTok := f 100 4, queue := f 114 1 }

/-- Fields of an open record out of range, or of the device's and reserved ones not zero. -/
def openBad (part : Nat) (b : List Byte) : Bool :=
  let f := fieldB b
  let e := openEntry b
  let zero (off n : Nat) : Bool := f off n = 0
  !zero 0 1 || f 1 1 ≠ part || nbits (f 2 1) 7 3 ≠ 0 || 5 < e.aclass || 63 < e.mslot || (63 < e.dslot && e.dslot ≠ 0xFF)
    || (1023 < e.aslot && e.aslot ≠ 0xFFFF) || !zero 8 2 || 7 < e.specD || 4 < e.chunk || e.tokCap < e.hlen
    || (if e.lookup then e.attnLo % 64 ≠ 0 else e.attnLo ≠ 0) || (e.rule = 1 && !positive32 e.temp) || !baseOk e.plBase
    || (e.dslot ≠ 0xFF && (!baseOk e.dplBase || !capOk e.dplCap)) || !baseOk e.tokBase || e.tokCap = 0 || 262145 < e.tokCap
    || !capOk e.plCap || !zero 80 16 || !zero 96 4 || !zero 104 8 || !zero 112 2 || 7 < e.queue || !zero 115 1 || !zero 116 4
    || !zero 120 4 || !zero 124 4

/-- A model slot of another partition (R196): an `EMPTY` slot belongs to none. -/
def State.foreignSlot (s : State) (part m : Nat) : Bool := (s.mslot m).st ≠ 0 && (s.mslot m).part ≠ part

/-- An adapter slot of another partition: one with no live version belongs to none. -/
def State.foreignAdapter (s : State) (part a : Nat) : Bool :=
  a ≠ 0xFFFF && (s.aslot a).live ≠ [] && (s.aslot a).part ≠ part

/-- The current version an entry would bind; none where R210 refuses it. -/
def State.bindable (s : State) (m a : Nat) : Option Nat :=
  if a = 0xFFFF then some 0
  else if 1023 < a || (s.aslot a).live = [] || (s.aslot a).cur = 0 || (s.aslot a).mslot ≠ m then none
  else some (s.aslot a).cur

/-- A base address lies in a granule the partition owns. -/
def State.baseOwned (s : State) (part a : Nat) : Bool :=
  a < 16 * stackBytes && s.present .stk (stackOf a) && s.granuleOwner (granule a) = some part

/-- What stops an open, in order, or 0. -/
def State.openStatus (s : State) (part : Nat) (b : List Byte) : Nat :=
  let e := openEntry b
  let draft := e.dslot ≠ 0xFF
  if openBad part b then St.badField
  else if s.foreignSlot part e.mslot || (draft && s.foreignSlot part e.dslot) || s.foreignAdapter part e.aslot then 0x0106
  else if (s.mslot e.mslot).st ≠ 2 || (draft && (s.mslot e.dslot).st ≠ 2) then St.slotNotReady
  else if draft && ((s.mslot e.dslot).vocab ≠ (s.mslot e.mslot).vocab || (s.mslot e.dslot).select = 0
      || (s.mslot e.dslot).tplDraft = 0xFFFF) then St.badField
  else if e.specD ≠ 0 && (!draft || (s.mslot e.mslot).select = 0) then St.badField
  else if (s.bindable e.mslot e.aslot).isNone then St.badField
  else if !s.baseOwned part e.plBase || !s.baseOwned part e.tokBase || (draft && !s.baseOwned part e.dplBase) then
    St.regionNotOwned
  else if s.getF F.SEQ_QUOTA_QUOTA part ≤ (s.seqsOf part).length then 0x0504
  else 0

/-- The lowest-numbered free entry. -/
def State.freeSeq (s : State) : Option Nat := (List.range 8192).find? fun q => (s.seq q).st = 0

/-- Clear an entry's bit in every reader set (R397). -/
def State.clearReader (s : State) (q : Nat) : State :=
  let strip (m : List (Nat × List Nat)) : List (Nat × List Nat) :=
    (m.map fun e => (e.1, e.2.filter (· ≠ q))).filter fun e => e.2 ≠ []
  { s with it := { s.it with cur := strip s.it.cur, prev := strip s.it.prev } }

/-- Open the entry of a record whose checks hold. -/
def State.openSeq (s : State) (o : Own) (q : Nat) (b : List Byte) : State :=
  let e := openEntry b
  let gen := ((s.seq q).gen + 1) % 2 ^ 32
  let t := (s.clearReader q).setSeq q { e with gen := gen, aver := (s.bindable e.mslot e.aslot).getD 0 }
  if e.lookup && s.getF F.SEQ_PFX_MODE_MODE e.part ≠ 0 then
    let u := t.lookup o q 0 4096
    u.setSeq q { u.seq q with attnLo := min e.attnLo (u.seq q).clen }
  else t.setSeq q { t.seq q with attnLo := 0 }

/-- SEQ_OPEN. -/
def execSeqOpen (part queue : Nat) (s : State) : Res :=
  s.runRow part queue 0x09 noPre noPre fun c t =>
    let a := c.word 1
    match t.gStatus c false a 128 with
    | 0 => match t.needs c.id 1 [(a, 128)] with
      | some u => u
      | none =>
        let c := (t.cmdOf c.id).getD c
        let t := t.look c a 128
        let b := t.gBytes c a 128
        if t.gBad a 128 then t.finish c.id St.poisonConsumed 0
        else match t.openStatus part b, t.freeSeq with
          | 0, some q =>
            let u := t.openSeq (.cmd c.id) q b
            u.finish c.id 0 ((u.seq q).gen * 2 ^ 32 + q)
          | 0, none => t.finish c.id 0x0504 0
          | e, _ => t.finish c.id e 0
    | e => t.finish c.id e 0

/-! ## SEQ_EDIT (R217, Tables 7-6 and 11-10) -/

/-- The list a PAGES edit works on, with its layer, first index and count. -/
def State.pagesEdit (s : State) (e : Seq) (w2 : Nat) : PList × Nat × Nat × Nat :=
  (if nbit w2 63 then s.draftList e else s.mainList e, nbits w2 55 48, nbits w2 43 32, nbits w2 12 0)

/-- An edit would put a field outside its range. -/
def State.editRange (s : State) (part : Nat) (c : Cmd) (e : Seq) : Bool :=
  let w2 := c.word 2
  match c.hdr 23 20 with
  | 1 => w2 < e.hlen || e.tokCap < w2
  | 2 => e.clen < w2
  | 3 => w2 % 64 ≠ 0 || e.clen < w2
  | 4 => !s.foreignAdapter part w2 && (s.bindable e.mslot w2).isNone
  | 5 => 7 < w2 % 256 || (w2 % 256 ≠ 0 && (e.dslot = 0xFF || (s.mslot e.mslot).select = 0))
      || (nbit w2 8 && !positive32 (w2 / 2 ^ 32))
  | 6 => 5 < w2 % 8 || 4 < nbits w2 10 8
  | 9 =>
    let x := s.pagesEdit e w2
    (nbit w2 63 && e.dslot = 0xFF) || x.1.cap < x.2.2.1 + x.2.2.2 || x.1.layers ≤ x.2.1
  | _ => false

/-- What stops an edit, at admission and when it is applied, or 0 (R193, R194, Tables 11-3 and 11-9). -/
def State.editStatus (s : State) (part : Nat) (c : Cmd) : Nat :=
  let e := s.seq (c.hdr 12 0)
  if e.st ≠ 0 && e.part ≠ part then 0x0106
  else if (e.st ≠ 1 && e.st ≠ 2) || e.gen ≠ c.word 1 then St.stateRefused
  else if s.editRange part c e then St.badField
  else if c.hdr 23 20 = 4 && s.foreignAdapter part (c.word 2) then 0x0106
  else 0

/-- `RELEASE`: `READY`, or `RECOVERING` where `SUSPECT` is set, the recomputation starting afresh (R217, R506, R509). -/
def State.releaseEdit (s : State) (q : Nat) : State :=
  let e := s.seq q
  let e1 := if e.heldByFail then { e with fails := 0, heldByFail := false } else e
  if e.st = 2 && e.suspect && !s.live e.part then
    let t := s.setSeq q { e1 with st := 4, damaged := true, recFrom := 1, rebuilding := false }
    if t.getF F.PRT_STATE_STATE e.part = 2 then t.setF F.PRT_STATE_STATE 5 e.part else t
  else s.setSeq q { e1 with st := 1 }

/-- A PAGES edit: the entries are replaced whole and what they named is released (R170, R171). -/
def State.pagesApply (s : State) (part q : Nat) (c : Cmd) : State :=
  let x := s.pagesEdit (s.seq q) (c.word 2)
  let idx := (List.range x.2.2.2).map fun k => x.2.2.1 + k
  let s := (s.readB (x.1.at x.2.1 x.2.2.1) (4 * x.2.2.2)).2.2
  let bad := (idx.map fun i => x.1.at x.2.1 i).filter fun a => (s.readB a 4).2.1
  let old := idx.filterMap fun i => s.entry x.1 x.2.1 i
  let new := s.gBytes c (c.word 3) (4 * x.2.2.2)
  let t := bad.foldl (fun u a => u.err .seq 0 6 (some (u.global (a / 8 * 8)))) s
  let t := t.writeB (x.1.at x.2.1 x.2.2.1) new
  (uniq old).foldl (fun u g => u.returnPage part g) t

/-- Apply an edit whose checks hold. -/
def State.editApply (s : State) (part : Nat) (c : Cmd) : State :=
  let q := c.hdr 12 0
  let e := s.seq q
  let w2 := c.word 2
  match c.hdr 23 20 with
  | 1 => s.setSeq q { e with hlen := w2 }
  | 2 =>
    let e1 := { e with clen := w2, hlen := w2, dlen := min e.dlen w2, attnLo := min e.attnLo (w2 / 64 * 64) }
    (s.setSeq q e1).rehash (.cmd c.id) q (min e.pfxPub (w2 / 64))
  | 3 => s.setSeq q { e with attnLo := w2 }
  | 4 => (s.setSeq q { e with aslot := w2, aver := (s.bindable e.mslot w2).getD 0 }).trimAslot e.aslot
  | 5 => s.setSeq q { e with specD := w2 % 256, rule := nbits w2 8 8, temp := w2 / 2 ^ 32, seed := c.word 3 }
  | 6 => s.setSeq q { e with aclass := w2 % 8, chunk := nbits w2 10 8, stopTok := w2 / 2 ^ 32 }
  | 7 => s.setSeq q { e with st := 2 }
  | 8 => s.releaseEdit q
  | _ => s.pagesApply part q c

/-- An edit is checked again and applied, or completes with what stops it; a PAGES edit's source is read for it. -/
def State.editNow (s : State) (part : Nat) (c : Cmd) : State :=
  match s.editStatus part c with
  | 0 =>
    if c.hdr 23 20 = 9 then
      let n := 4 * nbits (c.word 2) 12 0
      match s.gStatus c false (c.word 3) n with
      | 0 =>
        let s := s.look c (c.word 3) n
        if s.gBad (c.word 3) n then s.finish c.id St.poisonConsumed 0 else (s.editApply part c).finish c.id 0 0
      | e => s.finish c.id e 0
    else (s.editApply part c).finish c.id 0 0
  | e => s.finish c.id (if e = 0x0106 then St.stateRefused else e) 0

/-- Edits and closes of a sequence that wait. -/
def State.editWaits (s : State) (q : Nat) : Bool := s.sv.edits.any fun w => w.seq = q

/-- An admitted edit is applied at once, or waits until its sequence has no admitted step and earlier edits are done. -/
def State.editBody (part : Nat) (c : Cmd) (s : State) : State :=
  let q := c.hdr 12 0
  let go (t : State) (c : Cmd) : State :=
    if t.inStep q || t.editWaits q then { t with sv := { t.sv with edits := t.sv.edits ++ [⟨c.id, q⟩] } } else t.editNow part c
  if c.hdr 23 20 = 9 then
    match s.needs c.id 1 [(c.word 3, 4 * nbits (c.word 2) 12 0)] with
    | some t => t
    | none => go s ((s.cmdOf c.id).getD c)
  else go s c

/-- A SEQ_EDIT of one kind: the head of the queue is admitted where it is of that kind, or of no kind at all (then refused). -/
def editRow (part queue kind : Nat) (s : State) : Res :=
  let other (c : Cmd) : Bool := c.op = 0x0A && 1 ≤ c.hdr 23 20 && c.hdr 23 20 ≤ 9 && c.hdr 23 20 ≠ kind
  match s.resumed part queue 0x0A, s.admissible part queue with
  | some _, _ => if kind = 9 then s.runRow part queue 0x0A noPre noPre (State.editBody part) else done s
  | none, some c =>
    if other c then done s
    else s.admitRow part queue 0x0A (fun c s => s.editStatus part c) noPre (State.editBody part)
  | none, none => done s

/-- SET_INPUT (R217). -/
def execSetInput (part queue : Nat) (s : State) : Res := editRow part queue 1 s

/-- TRUNCATE (R217, R522). -/
def execTruncate (part queue : Nat) (s : State) : Res := editRow part queue 2 s

/-- SET_FLOOR (R217). -/
def execSetFloor (part queue : Nat) (s : State) : Res := editRow part queue 3 s

/-- REBIND (R210, R217). -/
def execRebind (part queue : Nat) (s : State) : Res := editRow part queue 4 s

/-- SET_SPEC (R217). -/
def execSetSpec (part queue : Nat) (s : State) : Res := editRow part queue 5 s

/-- SET_CLASS (R217). -/
def execSetClass (part queue : Nat) (s : State) : Res := editRow part queue 6 s

/-- HOLD (R194, R217). -/
def execHold (part queue : Nat) (s : State) : Res := editRow part queue 7 s

/-- RELEASE (R194, R217, R506, R509). -/
def execRelease (part queue : Nat) (s : State) : Res := editRow part queue 8 s

/-- PAGES (R170, R171, R217). -/
def execPages (part queue : Nat) (s : State) : Res := editRow part queue 9 s

/-- Take the first waiting edit or close of a sequence, if it is a command of opcode `op`. -/
def State.takeEdit (s : State) (q op : Nat) : Option (Cmd × State) :=
  match s.sv.edits.find? fun w => w.seq = q with
  | none => none
  | some w => match s.cmdOf w.cmd with
    | some c => if c.op = op then some (c, { s with sv := { s.sv with edits := s.sv.edits.erase w } }) else none
    | none => none

/-- SEQ_EDIT_APPLY (R170, R217): the first waiting edit of a sequence, once no admitted step holds it. -/
def execSeqEditApply (seq : Nat) (s : State) : Res :=
  match s.takeEdit seq 0x0A with
  | some (c, t) => if s.inStep seq then done s else done (t.editNow c.part c)
  | none => done s

/-! ## SEQ_CLOSE (R194, R219) -/

/-- What stops a close, or 0. -/
def State.closeStatus (s : State) (part : Nat) (c : Cmd) : Nat :=
  let e := s.seq (c.hdr 12 0)
  if e.st ≠ 0 && e.part ≠ part then 0x0106
  else if e.st = 0 || e.gen ≠ c.word 1 then St.stateRefused
  else 0

/-- A sequence enters `CLOSING`, unless it is `RECOVERING`: then the close waits until that ends (Table 21-3). -/
def State.closing (s : State) (q : Nat) : State := if (s.seq q).st = 4 then s else s.setSeq q { s.seq q with st := 5 }

/-- May a close finish? -/
def State.closeFree (s : State) (q : Nat) : Bool := !s.inStep q && (s.seq q).st ≠ 4

/-- SEQ_CLOSE. -/
def execSeqClose (part queue : Nat) (s : State) : Res :=
  s.admitRow part queue 0x0B (fun c s => s.closeStatus part c) noPre fun c t =>
    let q := c.hdr 12 0
    let u := t.closing q
    if u.closeFree q && !u.editWaits q then (u.releaseSeq q).finish c.id 0 0
    else { u with sv := { u.sv with edits := u.sv.edits ++ [⟨c.id, q⟩] } }

/-- SEQ_CLOSE_FINISH: the step that held the sequence has committed, or its recovery has ended. -/
def execSeqCloseFinish (seq : Nat) (s : State) : Res :=
  match s.takeEdit seq 0x0B with
  | none => done s
  | some (c, t) =>
    if !s.closeFree seq then done s
    else match t.closeStatus c.part c with
      | 0 => done (((t.closing seq).releaseSeq seq).finish c.id 0 0)
      | e => done (t.finish c.id (if e = 0x0106 then St.stateRefused else e) 0)

/-! ## Adapters (R209, R315, R414, R455, R456) -/

/-- The next version number of a slot: upward, from 0xFFFF to 1, past numbers still live. -/
def ASlot.version (e : ASlot) : Nat → Nat → Nat
  | 0, v => v
  | n + 1, v => if e.live.any fun x => x.1 = v then e.version n (v % 0xFFFF + 1) else v

/-- Codes of an ADAPTER_INSTALL before its image is read. -/
def installPre (c : Cmd) (s : State) : Nat :=
  let a := s.aslot (c.hdr 9 0)
  if (a.live ≠ [] && a.part ≠ c.part) || s.foreignSlot c.part (c.word 2) then 0x0106
  else if a.live.length = 4 then St.stateRefused
  else if a.live ≠ [] && a.mslot ≠ c.word 2 then St.badField
  else 0

/-- Bytes of the image a command reads: its header, then all of it. -/
def State.frxBytes (s : State) (c : Cmd) (a n : Nat) : Nat → Byte :=
  let b := s.gBytes c a n
  fun i => (b[i]?).getD 0

/-- ADAPTER_INSTALL: `sigOk` says that the header's signature checks under the key it names. -/
def execAdapterInstall (part queue : Nat) (sigOk : Bool) (s : State) : Res :=
  s.runRow part queue 0x0C installPre noPre fun c t =>
    let a := c.word 1
    match t.gStatus c false a 8192 with
    | 0 => match t.needs c.id 1 [(a, 8192)] with
      | some u => u
      | none =>
        let c := (t.cmdOf c.id).getD c
        let t := t.look c a 8192
        let rd := t.frxBytes c a 8192
        let sec := frxSection rd 0
        if t.gBad a 8192 then t.finish c.id St.poisonConsumed 0
        else if !sigOk || !frxLayoutOk rd 2 || !t.signerOk rd 2 part then (if sigOk then t else t.err .kst 0 0).finish c.id
          St.imageRejected 0
        else match t.gStatus c false (a + sec.offset) sec.length with
          | 0 => match t.needs c.id 1 [(a + sec.offset, sec.length)] with
            | some u => u
            | none =>
              let c := (t.cmdOf c.id).getD c
              let t := t.look c (a + sec.offset) sec.length
              let body := t.gBytes c (a + sec.offset) sec.length
              if t.gBad (a + sec.offset) sec.length then t.finish c.id St.poisonConsumed 0
              else if sha3 body ≠ (List.range 32).map (fun i => rd (64 + 32 + i)) then t.finish c.id St.imageRejected 0
              else if 64 < fieldB body 0 2 then t.finish c.id St.badField 0
              else
                let k := c.hdr 9 0
                let e := t.aslot k
                let v := e.version 5 e.next
                let u := t.setAslot k { mslot := c.word 2, part := part, live := e.live ++ [(v, a)], cur := v, next := v % 0xFFFF + 1 }
                let u := (u.trimAslot k).measure (8 + part)
                  (0x12#8 :: leBytes k 2 ++ leBytes v 2 ++ sha3 ((List.range 2112).map rd))
                u.finish c.id 0 v
          | e => t.finish c.id e 0
    | e => t.finish c.id e 0

/-- Codes of an ADAPTER_RETIRE. -/
def retirePre (c : Cmd) (s : State) : Nat :=
  let a := s.aslot (c.hdr 9 0)
  if a.live ≠ [] && a.part ≠ c.part then 0x0106 else if a.live = [] || a.cur = 0 then St.stateRefused else 0

/-- ADAPTER_RETIRE (R209). -/
def execAdapterRetire (part queue : Nat) (s : State) : Res :=
  s.admitRow part queue 0x0D retirePre noPre fun c t =>
    let k := c.hdr 9 0
    let e := t.aslot k
    ((t.setAslot k { e with cur := 0 }).trimAslot k).finish c.id 0 e.cur

/-! ## PREFIX_PUBLISH (R213, Table 11-9) -/

/-- Codes of a PREFIX_PUBLISH. -/
def publishPre (c : Cmd) (s : State) : Nat :=
  let e := s.seq (c.hdr 12 0)
  if e.st ≠ 0 && e.part ≠ c.part then 0x0106
  else if s.getF F.SEQ_PFX_MODE_MODE c.part = 0 || (e.st ≠ 1 && e.st ≠ 2) || e.gen ≠ c.word 1 then St.stateRefused
  else 0

/-- PREFIX_PUBLISH. -/
def execPrefixPublish (part queue : Nat) (s : State) : Res :=
  s.admitRow part queue 0x0F publishPre noPre fun c t =>
    let q := c.hdr 12 0
    let r := t.publish (.cmd c.id) q (c.word 2) t.stepCount 4097
    r.2.finish c.id r.1 (r.2.seq q).pfxPub

/-! ## Pool, quota and prefix-index settings (Table 7-9) -/

/-- A write of `SEQ_QUOTA` (Trowel only): ignored where the quotas would pass 8,192 or fall below what is held. -/
def State.quotaWrite (s : State) (p v : Nat) : State :=
  let t := s.setF F.SEQ_QUOTA_QUOTA v p
  let sum := (List.range 32).foldl (fun n q => n + t.getF F.SEQ_QUOTA_QUOTA q) 0
  if 8192 < sum || t.getF F.SEQ_QUOTA_QUOTA p < (s.seqsOf p).length then s.err .seq 0 1 else t

/-- A write of the pool ring's base (half 0 or 1) or size (half 2): ignored while the ring holds entries, or for a size the
ring cannot have. -/
def State.poolSetting (s : State) (p half v : Nat) : State :=
  if s.poolHeld p ≠ 0 || (half = 2 && !(v % 32 = 0 || (6 ≤ v % 32 && v % 32 ≤ 24))) then s.err .seq 0 4
  else if half = 0 then s.setF F.SEQ_POOL_BASE_LO_BASE (v / 64) p
  else if half = 1 then s.setF F.SEQ_POOL_BASE_HI_BASE v p
  else ((s.setF F.SEQ_POOL_SIZE_LOG2 v p).setF F.SEQ_POOL_HEAD_INDEX 0 p).setF F.SEQ_POOL_TAIL_INDEX 0 p

/-- The arena of a partition passes its checks for a mode. -/
def State.arenaOk (s : State) (p mode : Nat) : Bool :=
  let base := s.getPair A.SEQ_PFX_BASE_LO A.SEQ_PFX_BASE_HI p
  let n := s.getF F.SEQ_PFX_SIZE_MIB p * 2 ^ 20
  mode = 0 || (base % 2 ^ 21 = 0 && (if mode = 1 then 8 * 2 ^ 20 ≤ n else n ≠ 0) && base + n ≤ 16 * stackBytes
    && ((List.range ((base + n + 2 ^ 26 - 1) / 2 ^ 26 - base / 2 ^ 26)).all fun k =>
      s.granuleOwner (base / 2 ^ 26 + k) = some p))

/-- A write of `SEQ_PFX_MODE` (0), of the arena's base (1, 2) or of its size (3). -/
def State.prefixSetting (s : State) (p what v : Nat) : State :=
  let t := match what with
    | 0 => s.setF F.SEQ_PFX_MODE_MODE v p
    | 1 => s.setReg A.SEQ_PFX_BASE_LO (BitVec.ofNat 32 v) p
    | 2 => s.setF F.SEQ_PFX_BASE_HI_BASE v p
    | _ => s.setF F.SEQ_PFX_SIZE_MIB v p
  if what = 0 && v % 4 = 3 then s
  else if what = 0 && v % 4 = s.getF F.SEQ_PFX_MODE_MODE p && s.getF F.SEQ_PFX_BLOCKS_COUNT p ≠ 0 then s
  else if s.getF F.SEQ_PFX_BLOCKS_COUNT p ≠ 0 || !t.arenaOk p (t.getF F.SEQ_PFX_MODE_MODE p) then s.err .seq 0 4
  else t

end Sys2Proof.Machine
end

