-- ==== Sys2Proof/Machine/Select.lean ====
section
/-! DEFINITION. Token selection (R205 to R207): the selector's choice for a position from a logit vector. -/

namespace Sys2Proof.Machine

/-- FP64. -/
def fmtFP64 : FFmt := ⟨11, 52, 1023, 0x7FEFFFFFFFFFFFFF, true, some 0x7FF8000000000000⟩

/-- A value rounded to FP64. -/
def round64 (v : Num) : Num :=
  match v with
  | .fin neg m e => fmtFP64.decode (fmtFP64.signed neg (min fmtFP64.infMag (fmtFP64.roundMag m e)))
  | x => x

/-- The values of a logit vector's bytes, or the status of an unusable one (R207). -/
def logitsOf (bs : List Byte) (bad : Bool) (vocab : Nat) : Except Nat (List Nat) :=
  if bad then .error St.poisonConsumed
  else
    let zs := (List.range vocab).map fun i => fieldB bs (4 * i) 4
    if zs.any (fun z => num32 z = .nan || num32 z = .inf false) || zs.all (fun z => num32 z = .inf true) then .error 0x0506
    else .ok zs

/-- The smallest place of the largest value. -/
def argmax (zs : List Nat) : Nat :=
  ((zs.zipIdx).foldl (fun (b : Nat × Nat) z => if (num32 b.1).lt (num32 z.1) then z else b) (negInf32, 0)).2

/-- The uniform draw u for a position, as x of (x + 0.5) · 2⁻³². -/
def drawFor (seed pos : Nat) : Nat := leNat ((shake128 (leBytes seed 8 ++ leBytes pos 4 ++ [0, 0, 0, 0]) 16).take 4)

/-- The token of a seeded draw. -/
def seededToken (seed temp pos : Nat) (zs : List Nat) : Nat :=
  let m := zs.foldl max32 negInf32
  let ws := zs.map fun z => if num32 z = .inf true then 0 else expScaled z m temp
  let sums := (ws.foldl (fun (acc : List Num × Num) w =>
    let t := round64 (acc.2.add (num32 w))
    (acc.1 ++ [t], t)) ([], .fin false 0 0))
  let limit := (Num.fin false (2 * drawFor seed pos + 1) (-33)).mul sums.2
  match sums.1.findIdx? fun c => limit.lt c with
  | some i => i
  | none => ((List.range ws.length).filter fun i => (Num.fin false 0 0).lt (num32 (ws.getD i 0))).getLast?.getD 0

/-- The selector reads a logit vector for a piece of work and chooses a position's token; an unusable vector sets `LOGITS_INVALID`
(R205, R207, Table 7-10). -/
def State.choose (s : State) (o : Own) (e : Seq) (a vocab pos : Nat) : Except Nat Nat × State :=
  let r := s.loadFor o a (4 * vocab)
  match logitsOf r.1 r.2.1 vocab with
  | .error c => (.error c, r.2.2.err .seq 0 5)
  | .ok zs => (.ok (if e.rule = 0 then argmax zs else seededToken e.seed e.temp pos zs), r.2.2)

/-- Address of the logit vector of a work's t-th position. -/
def logitAt (p : TPlaces) (work t vocab : Nat) : Nat := p.logits + (work * 8 + t) * vocab * 4

end Sys2Proof.Machine
end

