-- ==== Sys2Proof/Machine/WalkBase.lean ====
section
/-! DEFINITION. What a walk covers and the descriptors it issues (chapter 6): attention ranges, rounds, units, latch loads, score and
value phases, and the checks of its descriptors at admission. -/

namespace Sys2Proof.Machine

/-! ## Ranges and rounds (R175, R183) -/

/-- The lower bound of the attention range of the query at position `pos` (R183). -/
def attnLow (m : MSlot) (attnLo pos : Nat) : Nat :=
  if m.window = 0 then attnLo else max attnLo (64 * (pos / 64 + 1 - m.window))

/-- Split a walk's pages into rounds: a round closes before the page that would be the sixteenth in one stack (R175). -/
def roundsOf (pages : List (Nat × Nat)) : List (List (Nat × Nat)) :=
  pages.foldl (fun rs pg =>
    match rs.getLast? with
    | none => [[pg]]
    | some r => if 15 ≤ r.countP (fun x => pgStack x.2 = pgStack pg.2) then rs ++ [[pg]] else rs.dropLast ++ [r ++ [pg]]) []

/-- Length bucket of an attended length (R174). -/
def bucketOf (l : Nat) : Nat := ((List.range 13).find? fun b => l ≤ 64 * 2 ^ b).getD 12

/-- The positions a work appends in the model's own list, as admitted. -/
def SWork.n (w : SWork) : Nat := w.given + w.drafts

/-- Those of its verify work: without the drafts of a draft stage that failed (R208). -/
def SWork.verified (w : SWork) : Nat := if w.skipped then w.given else w.n

/-- The draft positions of a work: first and how many. -/
def SWork.draftRange (w : SWork) : Nat × Nat :=
  if w.draftOnly ≠ 0 then (w.dlen, w.draftOnly)
  else if w.carry then (w.c, w.given)
  else if w.stage then (w.dlen, w.c + max 1 w.drafts - w.dlen)
  else (0, 0)

/-- The query positions of a layer's walk: first and how many; pass 0 is the model's own. -/
def SWork.walkRange (w : SWork) (pass : Nat) : Nat × Nat :=
  if pass = 0 then (w.c, w.verified)
  else if !w.stage then w.draftRange
  else if pass = 1 then (w.dlen, w.c + 1 - w.dlen)
  else (w.c + pass - 1, 1)

/-- The draft passes of a work that have walks, or copies of a chunk's pages. -/
def SWork.draftPasses (w : SWork) : Nat :=
  if w.skipped then 0 else if w.stage then max 1 w.drafts else if (w.carry || w.draftOnly ≠ 0) && w.dplaces.beds ≠ [] then 1 else 0

/-- A pass of a work goes by chunks: its pages are copied into Beds (R187). -/
def SWork.copies (w : SWork) (pass : Nat) : Bool := if pass = 0 then w.turn else !w.stage

/-! ## What a walk covers (R175, R176, R183) -/

/-- A walk by its number. -/
def State.walkOf (s : State) (id : Nat) : Option Walk := s.sv.walks.find? fun w => w.id = id

/-- Replace a walk. -/
def State.setWalk (s : State) (w : Walk) : State :=
  { s with sv := { s.sv with walks := s.sv.walks.map fun x => if x.id = w.id then w else x } }

/-- The lowest position that the t-th query attends to. -/
def State.walkLow (s : State) (w : Walk) (t : Nat) : Nat :=
  attnLow (s.mslot w.mslot) (s.seq w.seq).attnLo (w.first + t)

/-- The pages of a round that a query may attend to: index and number. -/
def State.unitPages (s : State) (w : Walk) (t round : Nat) : List (Nat × Nat) :=
  let lo := s.walkLow w t
  if w.first + t < lo then []
  else (w.rounds.getD round []).filter fun x => lo / 64 ≤ x.1 && x.1 ≤ (w.first + t) / 64

/-- Those of them that a stack holds. -/
def State.stackPages (s : State) (w : Walk) (t round stack : Nat) : List (Nat × Nat) :=
  (s.unitPages w t round).filter fun p => pgStack p.2 = stack

/-- The stacks that hold pages, rising. -/
def unitStacks (pages : List (Nat × Nat)) : List Nat := (List.range 16).filter fun x => pages.any fun p => pgStack p.2 = x

/-- Positions of a page that a query may attend to. -/
def permittedIn (pos page : Nat) : Nat := min 64 (pos + 1 - 64 * page)

/-- The units of a walk: every head, slot group and query position, by round, where a page is permitted. -/
def State.walkUnits (s : State) (w : Walk) : List WalkTag :=
  let m := s.mslot w.mslot
  (List.range w.rounds.length).flatMap fun r => (List.range m.kvHeads).flatMap fun h => (List.range m.groups).flatMap fun g =>
    ((List.range w.count).filter fun t => s.unitPages w t r ≠ []).map fun t => ⟨w.id, h, g, t, r⟩

/-- The slots of a slot group (R176). -/
def slotsOf (m : MSlot) (g : Nat) : Nat := 2 ^ min 8 (m.qPerKv - 8 * g) - 1

/-- The number of a unit among the places a template gives its walks. -/
def unitIndex (m : MSlot) (work h g t : Nat) : Nat := ((work * m.kvHeads + h) * m.groups + g) * 8 + t

/-- Query positions that one latch load carries (R176). -/
def MSlot.perLoad (m : MSlot) : Nat := 960 / m.headDim

/-- The first query position of a position's latch load, and how many the load carries. -/
def Walk.load (w : Walk) (m : MSlot) (t : Nat) : Nat × Nat :=
  let t0 := t / m.perLoad * m.perLoad
  (t0, min m.perLoad (w.count - t0))

/-- Where the rotated queries of a latch load stand, slot-major, and of each slot position by position. -/
def Walk.queryAt (w : Walk) (m : MSlot) (u : WalkTag) : Nat :=
  w.places.queries + unitIndex m w.work u.head u.sg (w.load m u.pos).1 * (8 * m.headDim * 2)

/-- Where a stack's softmax group of a unit keeps its local record and weights. -/
def Walk.scratchAt (w : Walk) (m : MSlot) (u : WalkTag) (stack : Nat) : Nat :=
  w.places.scratch + (unitIndex m w.work u.head u.sg u.pos * 16 + stack) * 16384

/-- Bytes that a round of a unit keeps: its output in FP32 and its global record (R169, R182). -/
def MSlot.roundBytes (m : MSlot) : Nat := m.headDim * 32 + 64

/-- Where a round of a unit keeps its output and global record, as an offset in its step's WORK space. -/
def Walk.roundAt (w : Walk) (m : MSlot) (u : WalkTag) : Nat :=
  w.buf + (((u.round * m.kvHeads + u.head) * m.groups + u.sg) * w.count + u.pos) * m.roundBytes

/-- Where a unit's attention output goes. -/
def Walk.outputAt (w : Walk) (m : MSlot) (u : WalkTag) : Nat :=
  w.places.output + unitIndex m w.work u.head u.sg u.pos * (8 * m.headDim * 4 + 64)

/-- Whom a walk's descriptors belong to. -/
def Walk.own (w : Walk) : Own := .step w.step (if w.pass = 0 then w.seq else 8192 + w.seq)

/-! ## Descriptors of a walk -/

/-- Is a group index of a stack free: no group has it or is about to get it (R175)? -/
def State.indexFree (s : State) (stack i : Nat) : Bool :=
  (s.groupAt (stack * 256 + i)).isNone && !(s.bk.waiting.any fun e => e.1 = stack * 256 + i)
    && !(s.bk.lists.any fun e => e.2.any fun d => d.kind = 9 && d.stack = stack && nbits d.w1 7 0 = i)

/-- The lowest group index that is free in every one of some stacks. -/
def State.freeGroup (s : State) (xs : List Nat) : Option Nat := (List.range 256).find? fun i => xs.all fun x => s.indexFree x i

/-- A GROUP_OPEN (Table 3-6). -/
def groupDesc (w : Walk) (u : WalkTag) (post outfmt slots dest outputs contrib home stack index phase : Nat) : Desc :=
  { w0 := 9 * 2 ^ 60 + post * 2 ^ 58 + outfmt * 2 ^ 56 + slots * 2 ^ 48 + dest
    w1 := outputs * 2 ^ 48 + contrib * 2 ^ 40 + home * 2 ^ 36 + stack * 2 ^ 12 + index
    w2 := w.seq * 2 ^ 51 + 2 ^ 50, w3 := 0, part := w.part, own := w.own, tag := some u, phase := phase }

/-- A LATCH (Table 3-5). -/
def latchDesc (w : Walk) (u : WalkTag) (die slots stack src mask count off phase : Nat) : Desc :=
  { w0 := 8 * 2 ^ 60 + die * 2 ^ 56 + slots * 2 ^ 48 + stack * 2 ^ 44 + src, w1 := mask
    w2 := count * 2 ^ 54 + off * 2 ^ 44, w3 := 0, part := w.part, own := w.own, tag := some u, phase := phase }

/-- A pass (Table 3-4). -/
def passDesc (w : Walk) (u : WalkTag) (kind fmt slots base cols off lanes outBase stack index : Nat) (page : Nat × Nat)
    (phase : Nat) : Desc :=
  { w0 := kind * 2 ^ 60 + fmt * 2 ^ 57 + slots * 2 ^ 49 + base
    w1 := cols * 2 ^ 54 + off * 2 ^ 44 + lanes * 2 ^ 38 + outBase * 2 ^ 16 + stack * 4096 + index
    w2 := w.seq * 2 ^ 51 + 2 ^ 50, w3 := 0, part := w.part, own := w.own, tag := some u, page := some page, phase := phase }

/-- By die, the mask of the banks that hold the items `items` of pages. -/
def itemBanks (pages : List (Nat × Nat)) (items : List Nat) : List (Nat × Nat) :=
  (List.range 16).filterMap fun die =>
    let banks := pages.flatMap fun p => (items.filter fun i => i % 16 = die).map fun i => pgBank p.2 + i / 16
    if banks = [] then none else some (die, (uniq banks).foldl (fun n b => n + 2 ^ b) 0)

/-- The key blocks of a unit in a stack: page with its place among the stack's, and block (R176). -/
def blocksOf (pos : Nat) (mine : List (Nat × Nat)) : List ((Nat × Nat) × Nat × Nat) :=
  (mine.zipIdx).flatMap fun p => ((List.range 2).filter fun b => 32 * b < permittedIn pos p.1.1).map fun b => (p.1, p.2, b)

/-- The query latches of a unit in a stack: loaded, for every position of its load, by the load's first unit there (R176). -/
def State.queryLatches (s : State) (w : Walk) (u : WalkTag) (stack : Nat) : List Desc :=
  let m := s.mslot w.mslot
  let l := w.load m u.pos
  let ts := (List.range l.2).map (l.1 + ·)
  if (ts.find? fun t => s.stackPages w t u.round stack ≠ []) ≠ some u.pos then []
  else
    (itemBanks (uniq (ts.flatMap fun t => s.stackPages w t u.round stack)) [4 * u.head, 4 * u.head + 1]).map fun d =>
      latchDesc w u d.1 (slotsOf m u.sg) stack (w.queryAt m u) d.2 (l.2 * m.headDim) 0 1

/-- The score phase of a unit in one stack: group, query latches and SCORE passes (R176, Table 6-5). -/
def State.scoreDescs (s : State) (w : Walk) (u : WalkTag) (stack index : Nat) : List Desc :=
  let m := s.mslot w.mslot
  let pos := w.first + u.pos
  let slots := slotsOf m u.sg
  let blocks := blocksOf pos (s.stackPages w u.pos u.round stack)
  groupDesc w u 1 1 slots (w.scratchAt m u stack) (32 * blocks.length) 1 stack stack index 1
    :: s.queryLatches w u stack
    ++ blocks.map fun e =>
        passDesc w u 2 m.kvFmt slots (m.rowAddr e.1.2 (4 * u.head + e.2.2) 0) m.headDim (u.pos % m.perLoad * m.headDim)
          (min 32 (permittedIn pos e.1.1 - 32 * e.2.2)) (64 * e.2.1 + 32 * e.2.2) stack index e.1 2

/-- The home stack of a round: the one with most of its pages, the lowest on a tie (R180). -/
def homeOf (pages : List (Nat × Nat)) : Nat :=
  (unitStacks pages).foldl (fun b x =>
    if pages.countP (fun p => pgStack p.2 = b) < pages.countP (fun p => pgStack p.2 = x) then x else b) ((unitStacks pages).headD 0)

/-- The stacks of a unit's value phase: those that hold permitted pages, and the round's home. -/
def State.valueStacks (s : State) (w : Walk) (u : WalkTag) : List Nat :=
  let xs := unitStacks (s.unitPages w u.pos u.round)
  let home := homeOf (w.rounds.getD u.round [])
  if xs.contains home then xs else xs ++ [home]

/-- The value group of a unit in a stack, of an index (R180). A round of several keeps its output in FP32 in the step's space. -/
def State.valueGroup (s : State) (w : Walk) (u : WalkTag) (stack index : Nat) : Desc :=
  let m := s.mslot w.mslot
  let home := homeOf (w.rounds.getD u.round [])
  let single := w.rounds.length ≤ 1
  let mine := (s.stackPages w u.pos u.round stack).length
  groupDesc w u 2 (if single then w.places.outFmt else 0) (slotsOf m u.sg) (if single then w.outputAt m u else w.roundAt m u)
    m.headDim (if stack = home then mine + (s.valueStacks w u).length - 1 else mine) home stack index 5

/-- The value phase of a unit in one stack: weight latches, the group where it is not the home, and VALUE passes (R179, R180,
Table 6-6). -/
def State.valueDescs (s : State) (w : Walk) (u : WalkTag) (stack index : Nat) : List Desc :=
  let m := s.mslot w.mslot
  let pos := w.first + u.pos
  let mine := s.stackPages w u.pos u.round stack
  let outputs := 32 * (blocksOf pos mine).length
  let slots := slotsOf m u.sg
  let off := u.pos % (960 / outputs) * outputs
  let home := homeOf (w.rounds.getD u.round [])
  (itemBanks mine [4 * u.head + 2, 4 * u.head + 3]).map (fun d =>
      latchDesc w u d.1 slots stack (w.scratchAt m u stack + 64) d.2 outputs off 4)
    ++ (if stack = home then [] else [s.valueGroup w u stack index])
    ++ (mine.zipIdx).flatMap fun p => (List.range m.slices).map fun q =>
        passDesc w u 3 m.kvFmt slots (m.rowAddr p.1.2 (4 * u.head + 2 + q / m.keyRows) (q % m.keyRows)) (permittedIn pos p.1.1)
          (off + 64 * p.2) 32 (32 * q) stack index p.1 5

/-- Append descriptors to a Hod engine's list. -/
def State.appendList (s : State) (hod : Nat) (ds : List Desc) : State :=
  { s with bk := { s.bk with lists := smSet (fun _ => []) s.bk.lists hod (smGet (fun _ => []) s.bk.lists hod ++ ds) } }

/-! ## The checks at admission (R173, 4) -/

/-- The descriptors that a walk will issue, its home group in its step's own space apart. -/
def State.walkDescs (s : State) (w : Walk) : List Desc :=
  let us := s.walkUnits w
  (us.flatMap fun u => (unitStacks (s.unitPages w u.pos u.round)).flatMap fun x => s.scoreDescs w u x 0)
    ++ us.flatMap fun u =>
      (if w.rounds.length ≤ 1 then [s.valueGroup w u (homeOf (w.rounds.getD u.round [])) 0] else [])
        ++ (unitStacks (s.unitPages w u.pos u.round)).flatMap fun x => s.valueDescs w u x 0

/-- The code of the first descriptor of a walk that R67 refuses, or 0. -/
def State.walkStatus (s : State) (w : Walk) : Nat := (((s.walkDescs w).map s.descStatus).find? (· ≠ 0)).getD 0

/-- A walk of a sequence: one layer, by pass, over pages of given index and number. -/
def State.walkAt (s : State) (part step q work pass layer mslot first count : Nat) (places : TPlaces) (pages : List (Nat × Nat)) :
    Walk :=
  let lo := attnLow (s.mslot mslot) (s.seq q).attnLo first
  { id := s.sv.nextWalk, hod := 0, part := part, step := step, seq := q, work := work, pass := pass, layer := layer, mslot := mslot
    first := first, count := count, bucket := bucketOf (first + count), places := places
    rounds := roundsOf (pages.filter fun p => lo / 64 ≤ p.1 && p.1 ≤ (first + count - 1) / 64) }

/-- The code of the first descriptor that R67 refuses among those of the walks of every layer of a pass, over the layers' pages from
index `i0` on. -/
def State.passStatus (s : State) (part q work pass mslot first count : Nat) (places : TPlaces) (i0 : Nat) (pages : List (List Nat)) : Nat :=
  (((pages.zipIdx).map fun l =>
    s.walkStatus (s.walkAt part 0 q work pass l.2 mslot first count places ((l.1.zipIdx).map fun p => (i0 + p.2, p.1)))).find?
    (· ≠ 0)).getD 0

end Sys2Proof.Machine
end

