-- ==== Sys2Proof/Machine/StepBase.lean ====
section
/-! DEFINITION. What the step builder keeps of an admitted step (chapters 6 and 7): its WORK space with snapshots, append records and
round buffers, what has ended of it, the draft stage and what waits for it, and the rotation of the partitions (R284). -/

namespace Sys2Proof.Machine

/-! ## The WORK space of a step (R165, R169, R182, R251) -/

/-- One page list of a work as its step keeps it: the positions it appends there, the first page index its snapshot copies, and the
page numbers by layer from index `from_` on. -/
structure LPart where
  work : Nat
  draft : Bool
  own : Nat
  m : MSlot
  first : Nat
  count : Nat
  low : Nat
  from_ : Nat
  pages : List (List Nat)
  walks : Bool

/-- The lists of a step's works. -/
def State.partsOf (s : State) (ws : List SWork) : List LPart :=
  (ws.zipIdx).flatMap fun x =>
    let w := x.1
    let e := s.seq w.seq
    if w.left then []
    else
      (if w.pages = [] then [] else
        [{ work := x.2, draft := false, own := w.seq, m := s.mslot e.mslot, first := w.c, count := w.n, low := w.low
           from_ := w.firstPage, pages := w.pages, walks := !w.turn }])
      ++ if w.dpages = [] then [] else
        [{ work := x.2, draft := true, own := 8192 + w.seq, m := s.mslot e.dslot, first := w.draftRange.1, count := w.draftRange.2
           low := w.dlow, from_ := w.dfirst, pages := w.dpages, walks := w.stage }]

/-- The entries that the snapshot copies of a layer (R169). -/
def LPart.entries (p : LPart) (y : Nat) : List Nat := (p.pages.getD y []).drop (p.low - p.from_)

/-- The pages that an append record of `n` positions names for a layer (Table 6-4). -/
def LPart.recPages (p : LPart) (y n : Nat) : List Nat :=
  ((p.pages.getD y []).drop (p.first / 64 - p.from_)).take ((p.first + n - 1) / 64 - p.first / 64 + 1)

/-- Bytes of a layer's append record. -/
def LPart.recBytes (p : LPart) (y : Nat) : Nat := 16 + 4 * (p.recPages y p.count).length

/-- Rounds that a layer's walk takes at most. -/
def LPart.rounds (p : LPart) (y : Nat) : Nat :=
  (roundsOf (((p.entries y).zipIdx).map fun e => (p.low + e.2, e.1))).length

/-- Bytes of the round buffers of one query position of a layer. -/
def LPart.posBytes (p : LPart) (y : Nat) : Nat := p.m.roundBytes * p.rounds y * p.m.kvHeads * p.m.groups

/-- Bytes of a layer's round buffers: none for a walk of one round. -/
def LPart.bufBytes (p : LPart) (y : Nat) : Nat := if !p.walks || p.rounds y ≤ 1 then 0 else p.posBytes y * p.count

/-- The layers of a step's lists, in order. -/
def layersOf (ps : List LPart) : List (LPart × Nat) := ps.flatMap fun p => (List.range p.pages.length).map fun y => (p, y)

/-- WORK space of a step's works, KiB (R169). -/
def State.stepSpace (s : State) (ws : List SWork) : Nat :=
  (((layersOf (s.partsOf ws)).foldl (fun n k => n + 4 * (k.1.entries k.2).length + k.1.recBytes k.2 + k.1.bufBytes k.2)
    (256 * ws.countP fun w => !w.left)) + 1023) / 1024

/-- What names a layer's things in a step's space: the work's place, whether its draft list, the layer. -/
abbrev SKey := Nat × Bool × Nat

/-- Where things stand in a step's space, by offset: round buffers, append records and the words of the snapshots. -/
structure SpaceMap where
  bufs : List (SKey × Nat)
  recs : List (SKey × Nat)
  snaps : List (SKey × List Nat)

/-- Words from one offset up to another. -/
def wordsFrom (a b : Nat) : List Nat := (List.range ((b - a) / 4)).map fun k => a + 4 * k

/-- The layout of a step's space, which is the device's own (DESIGN CHOICE, log 71): the round buffers; then the append records, none
of which crosses from one unit into the next; the words left over take the snapshots. -/
def State.spaceMap (s : State) (ws : List SWork) : SpaceMap :=
  let ks := layersOf (s.partsOf ws)
  let key (k : LPart × Nat) : SKey := (k.1.work, k.1.draft, k.2)
  let b := ks.foldl (fun (acc : List (SKey × Nat) × Nat) k => (acc.1 ++ [(key k, acc.2)], acc.2 + k.1.bufBytes k.2)) ([], 0)
  let r := ks.foldl (fun (acc : List (SKey × Nat) × List Nat × Nat) k =>
    let n := k.1.recBytes k.2
    let at_ := if 1024 < acc.2.2 % 1024 + n then (acc.2.2 / 1024 + 1) * 1024 else acc.2.2
    (acc.1 ++ [(key k, at_)], acc.2.1 ++ wordsFrom acc.2.2 at_, at_ + n)) ([], [], b.2)
  let free := r.2.1 ++ wordsFrom r.2.2 (1024 * s.stepSpace ws)
  let z := ks.foldl (fun (acc : List (SKey × List Nat) × List Nat) k =>
    let n := (k.1.entries k.2).length
    (acc.1 ++ [(key k, acc.2.take n)], acc.2.drop n)) ([], free)
  ⟨b.1, r.1, z.1⟩

/-- Look a key up. -/
def atKey {α : Type} (m : List (SKey × α)) (k : SKey) : Option α := (m.find? fun e => e.1 = k).map (·.2)

/-- Write a layer's append record, of `n` positions (Table 6-4). -/
def State.writeRecord (s : State) (num : Nat) (us : List Nat) (mp : SpaceMap) (p : LPart) (n y : Nat) : State :=
  let ps := p.recPages y n
  if n = 0 then s
  else s.writeSpace (.step num p.own) us ((atKey mp.recs (p.work, p.draft, y)).getD 0)
    (recB 16 [(0, 4, p.first), (4, 2, n), (6, 2, y), (8, 2, ps.length)] ++ ps.flatMap fun g => leBytes g 4)

/-- Write a layer's snapshot. -/
def State.writeSnapshot (s : State) (num : Nat) (us : List Nat) (mp : SpaceMap) (p : LPart) (y : Nat) : State :=
  (((atKey mp.snaps (p.work, p.draft, y)).getD []).zip (p.entries y)).foldl (fun t e =>
    t.writeSpace (.step num p.own) us e.1 (leBytes e.2 4)) s

/-- The space of an admitted step takes its snapshots and append records. -/
def State.fillSpace (s : State) (x : StepRun) : State :=
  let mp := s.spaceMap x.works
  (layersOf (s.partsOf x.works)).foldl (fun t k =>
    (t.writeSnapshot x.num x.units mp k.1 k.2).writeRecord x.num x.units mp k.1 k.1.count k.2) s

/-- A layer's snapshot as it is read: the page numbers, the local address of a poisoned word if there is one, and the state after. -/
def State.readSnapshot (s : State) (x : StepRun) (o : Own) (k : SKey) : List Nat × Option Nat × State :=
  ((atKey (s.spaceMap x.works).snaps k).getD []).foldl (fun (acc : List Nat × Option Nat × State) off =>
    let r := acc.2.2.readSpace o x.units off 4
    (acc.1 ++ [leNat r.1], if r.2.1 && acc.2.1.isNone then some (spaceAt x.units off) else acc.2.1, r.2.2)) ([], none, s)

/-! ## What is on its way for a step -/

/-- Is anything on its way for work that `mine` picks: descriptors, passes, latch loads, contributions? -/
def State.busyWith (s : State) (mine : Own → Bool) : Bool :=
  s.bk.lists.any (fun e => e.2.any fun d => mine d.own) || s.bk.runs.any (fun e => mine e.2.pass.own)
    || s.bk.arriving.any (fun c => mine c.own)
    || s.bk.work.any fun e => e.2.any fun w => match w with
      | .pass p => mine p.own
      | .latch l => mine l.own

/-- Is anything of a step still on its way? -/
def State.stepBusy (s : State) (num : Nat) : Bool :=
  s.busyWith (fun o => o.together (.step num 0)) || s.sv.walks.any fun w => w.step = num

/-- A status that commits: OK, or a hazard under REPORT (R147, R201, R506). -/
def commits (trap : Bool) (status : Nat) : Bool := status = 0 || (status = 0x0A01 && !trap)

/-- Do every layer's walks, or copies of a chunk's pages, of a pass have ended? -/
def StepRun.layersDone (x : StepRun) (q pass layers : Nat) : Bool := (List.range layers).all fun l => x.walked.contains (q, pass, l)

/-- The walks and copies that a step's unfailed works need have all ended (R174, R187). -/
def State.walksDone (s : State) (x : StepRun) : Bool :=
  x.works.all fun w =>
    let e := s.seq w.seq
    let main := w.draftOnly ≠ 0 || (w.turn && w.places.beds = []) || x.layersDone w.seq 0 (s.mslot e.mslot).layers
    let draft := (List.range w.draftPasses).all fun k => x.layersDone w.seq (k + 1) (s.mslot e.dslot).layers
    w.left || !(commits false w.status) || (main && draft)

/-- A step's work has all ended, here and at other devices. -/
def State.stepEnded (s : State) (x : StepRun) : Bool :=
  x.acks = 0 && x.items.all (fun i => i.ended) && x.lists = [] && !s.stepBusy x.num && (x.kind = 1 || s.walksDone x)

/-! ## The draft stage (R204, R208) -/

/-- A draft stage that has not failed runs for a work. -/
def SWork.drafting (w : SWork) : Bool := w.stage && !w.skipped && !w.left

/-- A draft pass of a work has ended: its work items, its walks, and what its descriptors began. -/
def State.passDone (s : State) (x : StepRun) (w : SWork) (k : Nat) : Bool :=
  x.items.all (fun i => i.ended || i.pass ≠ k || !i.seqs.contains (8192 + w.seq))
    && x.layersDone w.seq k (s.mslot (s.seq w.seq).dslot).layers && !(x.lists.any fun l => l.pass = k && l.serves.contains (8192 + w.seq))
    && !s.busyWith fun o => o = .step x.num (8192 + w.seq) || o = .step x.num 16387

/-- A work's draft stage is over: its drafts are chosen, or with none to choose its one pass has ended. -/
def State.draftsReady (s : State) (x : StepRun) (w : SWork) : Bool :=
  !w.drafting || (if w.drafts = 0 then s.passDone x w 1 else w.toks.length = w.drafts)

/-- May work of a pass begin for a work: a later draft pass has its token, and the verify work its drafts? -/
def State.passOpen (s : State) (x : StepRun) (w : SWork) (pass : Nat) : Bool :=
  if pass = 0 then s.draftsReady x w else w.skipped || !w.stage || pass - 1 ≤ w.toks.length

/-- Must a work item wait for a draft pass? -/
def State.itemHeld (s : State) (x : StepRun) (i : WItem) : Bool :=
  x.works.any fun w => i.seqs.contains (if i.pass = 0 then w.seq else 8192 + w.seq) && !s.passOpen x w i.pass

/-- The works of a step whose next draft can be chosen, with their places. -/
def State.draftsDue (s : State) (x : StepRun) : List (Nat × SWork) :=
  ((x.works.zipIdx).filter fun w => w.1.drafting && w.1.toks.length < w.1.drafts && s.passDone x w.1 (w.1.toks.length + 1)).map
    fun w => (w.2, w.1)

/-- Choose a work's next draft; where its vector is unusable, the draft stage fails (R208). -/
def State.chooseDraft (s : State) (x : StepRun) (k : Nat) (w : SWork) : State :=
  let e := s.seq w.seq
  let vocab := (s.mslot e.dslot).vocab
  let i := w.toks.length
  let r := s.choose (.step x.num (8192 + w.seq)) e (logitAt w.dplaces k i vocab) vocab (w.c + 1 + i)
  r.2.onStep x.num fun y => { y with works := y.works.modify k fun v => match r.1 with
    | .ok t => { v with toks := v.toks ++ [t] }
    | .error _ => { v with skipped := true } }

/-- Items not yet placed that serve failed draft stages alone are not run. -/
def StepRun.dropDrafts (x : StepRun) : StepRun :=
  let gone (q : Nat) : Bool := x.works.any fun w => q = 8192 + w.seq && w.stage && w.skipped
  { x with items := x.items.map fun i => if i.brick.isNone && i.pass ≠ 0 && i.seqs.all gone then { i with ended := true } else i }

/-- The verify work of a draft stage that failed runs with no drafts: its append records are cut (R208). -/
def State.cutRecords (s : State) (x : StepRun) : State :=
  let mp := s.spaceMap x.works
  (s.partsOf x.works).foldl (fun t p => match x.works[p.work]? with
    | some w =>
      if p.draft || !w.skipped || w.cut || w.drafts = 0 then t
      else (List.range p.pages.length).foldl (fun u y => u.writeRecord x.num x.units mp p w.given y)
        (t.onStep x.num fun y => { y with works := y.works.modify p.work fun v => { v with cut := true } })
    | none => t) s

/-- Descriptors of a step whose turn has come go to their Hod engines. -/
def State.giveReady (s : State) (x : StepRun) : State :=
  let open_ (l : SList) : Bool := x.works.all fun w =>
    !l.serves.contains (if l.pass = 0 then w.seq else 8192 + w.seq) || s.passOpen x w l.pass
  let t := s.onStep x.num fun y => { y with lists := y.lists.filter fun l => !open_ l }
  (x.lists.filter open_).foldl (fun u l => l.descs.foldl (fun u d => u.appendList d.1 d.2) u) t

/-! ## The rotation of the partitions (R284) -/

/-- A partition has a selection for the token selector: a draft's, or that of a step that can be committed. -/
def State.choiceDue (s : State) (p : Nat) : Bool :=
  s.sv.steps.any fun x => x.part = p && x.kind = 0 && (s.draftsDue x ≠ [] || s.stepEnded x)

/-- How far on from the one served last a partition's turn is. -/
def turnsFrom (last p : Nat) : Nat := (p + 31 - last) % 32

/-- It is a partition's turn among those that `due` picks. -/
def myTurn (last p : Nat) (due : Nat → Bool) : Bool :=
  (List.range 32).all fun q => q = p || !due q || turnsFrom last p < turnsFrom last q

/-- It is a partition's turn at the token selector. -/
def State.choiceTurn (s : State) (p : Nat) : Bool := myTurn s.sv.choice p s.choiceDue

/-- A selection of a partition: it has had its turn. -/
def State.hadChoice (s : State) (p : Nat) : State := { s with sv := { s.sv with choice := p } }

/-- The next draft of a partition is chosen, if one is due and it is the partition's turn. -/
def State.nextDraft (s : State) (p : Nat) : State :=
  match (s.sv.steps.filter fun x => x.part = p && x.kind = 0).findSome? fun x => (s.draftsDue x).head?.map fun w => (x, w) with
  | some (x, k, w) => if s.choiceTurn p then (s.chooseDraft x k w).hadChoice p else s
  | none => s

/-- The step builder goes on with a partition's steps: a draft is chosen, and what waited for one begins. -/
def State.builderGo (s : State) (p : Nat) : State :=
  let t := s.nextDraft p
  ((t.sv.steps.filter fun x => x.part = p).map fun x => x.num).foldl (fun u n =>
    let u := u.onStep n StepRun.dropDrafts
    match u.stepOf n with
    | some x => (u.cutRecords x).giveReady x
    | none => u) t

end Sys2Proof.Machine
end

