-- ==== Sys2Proof/Machine/Steps.lean ====
section
/-! DEFINITION. Steps (chapter 7): STEP and TRAIN_STEP, the admission of a step with its checks, page allocation and snapshot, and
the placement of work items. -/

namespace Sys2Proof.Machine

/-! ## STEP and TRAIN_STEP (R197, R311, R315) -/

/-- The queue whose rings a command's records and result entries go to. -/
def Cmd.ring (c : Cmd) : Nat := if c.hdr 50 50 = 1 then 7 else c.queue

/-- A STEP or TRAIN_STEP that is admitted and not done: what stops it is noted, and it completes once its steps have (R311). -/
def State.stepTick (s : State) (id : Nat) : State :=
  match s.cmdOf id with
  | none => s
  | some c =>
    let st := s.getF F.PRT_STATE_STATE c.part
    let open_ := st = 2 || st = 4 || st = 5
    if c.phase ≠ 1 then s
    else if c.op = 0x14 then (if c.count = 0 && !open_ then s.finish id St.stateRefused 0 else s)
    else if c.op ≠ 0x01 then s
    else
      let w1 := c.word 1
      let m := s.mslot (c.hdr 23 18)
      let gone := m.st ≠ 2 || m.part ≠ c.part
      let stop := c.stopped || !open_ || (w1 % 2 ^ 32 ≠ 0 && w1 % 2 ^ 32 ≤ c.count)
        || (nbit w1 40 && s.param c.part c.queue (nbits w1 39 32) ≠ 0) || gone
      if !stop then s
      else
        let status := if gone && !c.stopped then St.slotNotReady else c.status
        let t := s.onCmd id fun d => { d with stopped := true, status := if d.status = 0 then status else d.status }
        if s.sv.steps.any fun x => x.cmd = id then t else t.finish id status (c.count % 2 ^ 32)

/-- The STEPs and TRAIN_STEPs of a partition. -/
def State.stepsTick (s : State) (p : Nat) : State :=
  ((s.qu.cmds.filter fun c => c.part = p && c.phase = 1).map fun c => c.id).foldl State.stepTick s

/-- Codes of a STEP at admission (Tables 11-3 and 11-9, R311). -/
def stepPre (c : Cmd) (s : State) : Nat :=
  if s.foreignSlot c.part (c.hdr 23 18) then 0x0106
  else if s.getF F.PRT_STATE_STATE c.part ≠ 2 || s.getF F.PRT_RQSIZE_LOG2 c.part c.ring = 0 then St.stateRefused
  else if (s.mslot (c.hdr 23 18)).st ≠ 2 then St.slotNotReady
  else 0

/-- STEP (R197, R261, R311). -/
def execStepCmd (part queue : Nat) (s : State) : Res :=
  s.admitRow part queue 0x01 stepPre noPre fun c t =>
    (if c.hdr 53 53 = 1 then t.acquirePart part else t).stepTick c.id

/-- An argument word that is refused (R320): `AKIND` 3, or reserved bits not zero. -/
def argBad (w : Nat) : Bool :=
  w / 2 ^ 62 = 3 || nbits w 61 40 ≠ 0 || (if w / 2 ^ 62 = 0 then nbits w 39 32 ≠ 0 else w % 2 ^ 32 ≠ 0)

/-- A template pins a work item to an absent logical brick (R321). -/
def State.pinsAbsent (s : State) (t : Template) : Bool :=
  t.items.any fun i => match i.pin with
    | some l => (s.physOf l).isNone
    | none => false

/-- What a template fails every sequence of its step with, or 0 (R320, R321, R516). -/
def State.templateStatus (s : State) (t : Template) : Nat :=
  if t.items.any fun i => i.args.any argBad then St.badField
  else if s.pinsAbsent t then St.absentUnit
  else if t.items.any fun i => match i.pin.bind s.physOf with
    | some n => s.unit .brk n = 5
    | none => false then St.unitStateMismatch
  else 0

/-- Hod engines of a partition, in order. -/
def State.hodsOf (s : State) (p : Nat) : List Nat := (List.range 64).filter fun h => s.holdsHod p h

/-- The descriptors a template gives to each Hod engine, owned by their sequence or by `own` (R66). -/
def State.templateDescs (s : State) (p num : Nat) (t : Template) (draft : Bool) (own : Nat) : List (Nat × List Desc) :=
  t.lists.filterMap fun l => match (s.hodsOf p)[l.1]? with
    | none => none
    | some h => some (h, l.2.map fun w =>
        let d : Desc := { w0 := w.1, w1 := w.2.1, w2 := w.2.2.1, w3 := w.2.2.2, part := p, own := .none }
        { d with own := .step num (match d.seq with
          | some q => if draft then 8192 + q else q
          | none => own) })

/-- The code of the first descriptor that R67 refuses, or 0. -/
def State.descsStatus (s : State) (ds : List (Nat × List Desc)) : Nat :=
  (((ds.flatMap fun e => e.2).map s.descStatus).find? (· ≠ 0)).getD 0

/-- A training template names an absent unit: a brick it pins an item to, or what a descriptor is sent to (Table 11-3 step 4, R321). -/
def State.trainAbsent (s : State) (p : Nat) (t : Template) : Bool :=
  s.pinsAbsent t || (s.templateDescs p 0 t false 16384).any fun e => e.2.any fun d => s.descStatus d = St.absentUnit

/-- Codes of a TRAIN_STEP at admission (Tables 11-3 and 11-9, R318, R321). -/
def trainPre (c : Cmd) (s : State) : Nat :=
  let t := s.template c.part (c.word 1)
  if (t.map (s.trainAbsent c.part)).getD false then St.absentUnit
  else if s.foreignAdapter c.part (c.hdr 9 0) then 0x0106
  else match t with
    | none => St.stateRefused
    | some t => if t.kind ≠ 3 then St.badField else if s.getF F.PRT_STATE_STATE c.part ≠ 2 then St.stateRefused else 0

/-- TRAIN_STEP (R315): admitted; it waits for STEP_ADMISSION. -/
def execTrainStep (part queue : Nat) (s : State) : Res :=
  s.admitRow part queue 0x14 trainPre noPre fun c t => if c.hdr 53 53 = 1 then t.acquirePart part else t

/-! ## Forming the work of a step (R198, R200, R288, R350) -/

/-- A slot whose blocks wait for a reload admits no step and no draft pass (R393). -/
def State.reloading (s : State) (m : Nat) : Bool :=
  s.it.reloads.any fun e => s.isHashed (granule e.1) && nbits (s.region (granule e.1)) 52 47 = m

/-- The sequences a step of a slot may take. -/
def State.eligible (s : State) (p m : Nat) : List (Nat × Seq) :=
  s.sv.seqs.filter fun e => e.2.part = p && e.2.mslot = m && e.2.st = 1 && !e.2.damaged && !s.inStep e.1 && !s.editWaits e.1

/-- In index order from after the round-robin pointer. -/
def rotated (pt : Nat) (xs : List (Nat × Seq)) : List (Nat × Seq) :=
  xs.filter (fun e => pt < e.1) ++ xs.filter (fun e => e.1 ≤ pt)

/-- The slot of a grant. -/
def Grant.slot? : Grant → Option Nat
  | .slot i => some i
  | _ => none

/-- The grant of a class at this admission. -/
def State.classGrant (s : State) (p c : Nat) : Grant := s.grant p c (s.othersWait p c)

/-- The draft model of a sequence can serve. -/
def State.draftReady (s : State) (e : Seq) : Bool := (s.mslot e.dslot).st = 2 && !s.reloading e.dslot

/-- Stream work. -/
def State.streamWork (s : State) (p : Nat) (es : List (Nat × Seq)) : List SWork :=
  es.foldl (fun ws x =>
    let e := x.2
    let g := e.hlen - e.clen
    if g = 0 || 8 < g || s.getF F.SEQ_MAXSEQ_MAX_SEQ p ≤ ws.length then ws
    else match s.classGrant p e.aclass with
      | .no => ws
      | gr =>
        let stage := g = 1 && e.dslot ≠ 0xFF && e.clen - e.dlen ≤ 7
        let d := if stage && s.draftReady e then min e.specD (min (262143 - e.clen) (e.tokCap - e.clen - 2)) else 0
        ws ++ [{ seq := x.1, c := e.clen, given := g, drafts := d, stage := stage && s.draftReady e
                 skipped := stage && !s.draftReady e, dlen := e.dlen, cls := e.aclass, slot := gr.slot? }]) []

/-- By LAST_STEP, then index. -/
def byLastStep (es : List (Nat × Seq)) : List (Nat × Seq) :=
  es.mergeSort fun a b => a.2.lastStep < b.2.lastStep || (a.2.lastStep = b.2.lastStep && a.1 ≤ b.1)

/-- Turn work and draft catch-up; `left` positions are to be had. -/
def State.turnWork (s : State) (p : Nat) (es : List (Nat × Seq)) (taken : List Nat) : List SWork :=
  match s.classGrant p 2 with
  | .no => []
  | gr =>
    let turns := (byLastStep es).filter fun x => 8 < x.2.hlen - x.2.clen
    let r := turns.foldl (fun (acc : List SWork × Nat × Bool) x =>
      let e := x.2
      let g := e.hlen - e.clen
      if acc.2.2 || acc.2.1 < min 256 g then (acc.1, acc.2.1, true)
      else
        let n := min g (min (256 * 2 ^ e.chunk) acc.2.1)
        (acc.1 ++ [{ seq := x.1, c := e.clen, given := n, turn := true, dlen := e.dlen, cls := 2, slot := gr.slot?
                     carry := e.dslot ≠ 0xFF && e.dlen = e.clen && s.draftReady e }], acc.2.1 - n, false))
      ([], s.getF F.SEQ_POLICY_STEP_TOKENS p, false)
    let behind := (byLastStep es).filter fun x =>
      x.2.dslot ≠ 0xFF && 7 < x.2.clen - x.2.dlen && !taken.contains x.1 && !(r.1.any fun w => w.seq = x.1)
    let q := behind.foldl (fun (acc : List SWork × Nat × Bool) x =>
      let e := x.2
      if acc.2.2 || acc.2.1 < 256 then (acc.1, acc.2.1, true)
      else if !s.draftReady e then acc
      else
        let n := min (e.clen - e.dlen) (min (256 * 2 ^ e.chunk) acc.2.1)
        (acc.1 ++ [{ seq := x.1, c := e.clen, draftOnly := n, dlen := e.dlen, cls := 2, slot := gr.slot? }], acc.2.1 - n, false))
      ([], r.2.1, false)
    r.1 ++ q.1

/-- The partition is in the grace of a silence: its steps serve stream work only (R350). -/
def State.silent (s : State) (p : Nat) : Bool := s.getF F.LNT_SSTAT_PHASE p == 2

/-- The work of the next step of a slot. -/
def State.formWork (s : State) (p m : Nat) : List SWork :=
  let es := s.eligible p m
  let stream := s.streamWork p (rotated (smGet (fun _ => 8192) s.sv.pointer p) es)
  stream ++ (if s.silent p then [] else s.turnWork p es (stream.map fun w => w.seq))

/-! ## Templates at admission (R150, R199, R320, R321) -/

/-- A step template: the code it fails with (R199, 3), or the template. -/
def State.stepTemplate (s : State) (p n : Nat) : Except Nat Template :=
  match s.template p n with
  | none => .error St.stateRefused
  | some t => if t.kind = 2 then .ok t else .error St.badField

/-- An argument resolved for a command's queue. -/
def State.resolveArg (s : State) (c : Cmd) (w : Nat) : Nat :=
  let v := s.param c.part c.queue ((nbits w 39 32 + c.regOff) % 256)
  if w / 2 ^ 62 = 0 then w % 2 ^ 32 else if w / 2 ^ 62 = 1 then v % 2 ^ 32 else v / 2 ^ 32

/-- Record the first descriptor of a command that R67 refuses, if one is (Table 3-17). -/
def State.descsRefused (s : State) (ds : List (Nat × List Desc)) : State :=
  match (ds.flatMap fun e => e.2).find? fun d => s.descStatus d ≠ 0 with
  | some d => s.passRefused d
  | none => s

/-! ## Page allocation (R160, R163, R164, R169, R173) -/

/-- Copy a shared page's frame into a new one through the stack channels, every word checked (R164). -/
def State.copyFrame (s : State) (o : Own) (m : MSlot) (old new : Nat) : State :=
  s.copyRows o ((m.frame old).zip (m.frame new))

/-- Take pages from the pool, one for each of `need`, checking each; on failure the code, and what was taken returns. -/
def State.takePages (s : State) (p : Nat) (m : MSlot) : Nat → List Nat → Except (Nat × State) (List Nat × State)
  | 0, got => .ok (got, s)
  | n + 1, got =>
    let back (t : State) : State := got.foldl (fun u g => u.poolAdd p g) t
    if s.rangeStatus (.part p) false (s.poolAt p (s.getF F.SEQ_POOL_HEAD_INDEX p)) 4 ≠ 0 then
      .error (s.rangeStatus (.part p) false (s.poolAt p (s.getF F.SEQ_POOL_HEAD_INDEX p)) 4, back s)
    else match s.poolTake p with
      | none => .error (0x030B, back s)
      | some (none, t) => .error (St.poisonConsumed, back t)
      | some (some g, t) =>
        match t.pageStatus m p g with
        | 0 => t.takePages p m n (got ++ [g])
        | e => .error (e, back t)

/-- What a list gives a step: its page numbers by layer from index `from_` on, and the shared frames to copy. -/
structure Alloc where
  from_ : Nat
  pages : List (List Nat)
  copies : List (Nat × Nat)

/-- The pages of a list for positions `[first, first + n)` with lower bound `lo`, those the appends reach allocated or copied: the code
and state of R163 and R173, 2 to 4, or what they come to. `check` gives the code of the walks' descriptors from the pages; where
several words or pages fail check 2, the order here decides (DESIGN CHOICE, log 32). -/
def State.allocate (s : State) (p : Nat) (l : PList) (first n lo : Nat) (check : State → Nat → List (List Nat) → Nat) :
    Except (Nat × State) (Alloc × State) :=
  let i0 := min (lo / 64) (first / 64)
  let last := (first + n + 63) / 64 - 1
  let idx := (List.range (last + 1 - i0)).map (i0 + ·)
  if l.cap ≤ last then .error (0x030A, s)
  else
    let s := (List.range l.layers).foldl (fun t y => (t.readB (l.at y i0) (4 * idx.length)).2.2) s
    let word (y i : Nat) : Option Nat := s.entry l y i
    let spoiled (i : Nat) : Bool := (List.range l.layers).any fun y => (word y i).isNone
    let fresh := idx.filter fun i => first / 64 ≤ i && word 0 i = some nullPage && !spoiled i
    let cells := (List.range l.layers).flatMap fun y => idx.map fun i => (y, i)
    let kept := cells.filter fun c => !fresh.contains c.2
    let code := ((kept.filterMap fun c => (word c.1 c.2).map fun g =>
      if g = nullPage && first / 64 ≤ c.2 && spoiled c.2 then 0 else s.pageStatus l.m p g).find? (· ≠ 0)).getD 0
    let copies := kept.filter fun c => first / 64 ≤ c.2 && match word c.1 c.2 with
      | some g => s.shared p g
      | none => false
    let need := (fresh.flatMap fun i => (List.range l.layers).map fun y => (y, i)) ++ copies
    if code ≠ 0 then .error (code, s)
    else if s.poolHeld p < need.length then .error (0x030B, s)
    else match s.takePages p l.m need.length [] with
      | .error e => .error e
      | .ok (got, t) =>
        let pairs := need.zip got
        let final (c : Nat × Nat) : Nat := match pairs.find? fun e => e.1 = c with
          | some e => e.2
          | none => (word c.1 c.2).getD nullPage
        let pages := (List.range l.layers).map fun y => idx.map fun i => final (y, i)
        if kept.any fun c => (word c.1 c.2).isNone then .error (St.poisonConsumed, s)
        else match check s i0 pages with
          | 0 =>
            let old (e : (Nat × Nat) × Nat) : Nat := (word e.1.1 e.1.2).getD nullPage
            let u := pairs.foldl (fun u e => (u.setEntryAt l e.1.1 e.1.2 e.2).returnPage p (old e)) t
            .ok (⟨i0, pages, (pairs.filter fun e => old e ≠ nullPage).map fun e => (old e, e.2)⟩, u)
          | c => .error (c, s)

/-- A work is left out at admission with a code. -/
def State.leaveOut (s : State) (w : SWork) (code : Nat) : State × SWork :=
  let t := s.setSeq w.seq { s.seq w.seq with status := code }
  let t := if t.flag F.SEQ_ADMIT_FAIL_VALID then t
    else ((t.setFlag F.SEQ_ADMIT_FAIL_VALID true).setF F.SEQ_ADMIT_FAIL_SEQ w.seq).setF F.SEQ_ADMIT_FAIL_STATUS code
  ((t.bump F.SEQ_ADMIT_FCNT_COUNT).err .seq 0 0, { w with left := true, status := code, pages := [], dpages := [] })

/-- The templates a step's works need: the codes that R199 and R67 give for those of given positions and of chunks, the code that every
sequence of the step takes (R320, R321), and the works whose draft template fails. -/
structure TplCodes where
  given : Nat
  chunk : Nat
  whole : Nat
  noDraft : List Nat

/-- The checks of R199, with the codes of the templates, then check 1 of R173. -/
def State.earlyStatus (s : State) (w : SWork) (k : TplCodes) : Nat :=
  let e := s.seq w.seq
  let m := s.mslot e.mslot
  let out := w.c + w.n
  let emits := m.select = 1 && !w.again && w.draftOnly = 0 && (!w.turn || out = e.hlen)
  let tpl := if w.draftOnly ≠ 0 then 0 else if w.turn then k.chunk else k.given
  if e.aslot ≠ 0xFFFF && !(s.aslot e.aslot).live.any (fun v => v.1 = e.aver) then St.slotNotReady
  else if emits && e.tokCap ≤ out then 0x0508
  else if tpl ≠ 0 then tpl
  else if 262144 < out then St.lengthLimit
  else 0

/-- The first code of the walks of a draft stage's passes over its pages. -/
def State.stageStatus (s : State) (p k : Nat) (w : SWork) (i0 : Nat) (pages : List (List Nat)) : Nat :=
  if !w.stage then 0
  else (((List.range (max 1 w.drafts)).map fun j =>
    let r := w.walkRange (j + 1)
    s.passStatus p w.seq k (j + 1) (s.seq w.seq).dslot r.1 r.2 w.dplaces i0 pages).find? (· ≠ 0)).getD 0

/-- A work admitted or left out, with the frames to copy for it: draft list or not, old and new page. -/
structure Admitted where
  work : SWork
  copies : List (Bool × Nat × Nat) := []

/-- A draft stage that cannot run is skipped (R208). -/
def SWork.noDraft (w : SWork) : SWork := { w with skipped := true, stage := false, carry := false, drafts := 0 }

/-- Check one sequence's work, the k-th of its step, allocate its pages and take its snapshot (R163, R169, R173, R208, R210). The
step's templates are resolved once a work's own checks have passed (R198). -/
def State.admitWork (s : State) (k : Nat) (w : SWork) (codes : TplCodes) : State × Admitted :=
  let e := s.seq w.seq
  let out (t : State) (c : Nat) : State × Admitted := let r := t.leaveOut w c; (r.1, { work := r.2 })
  match s.earlyStatus w codes with
  | 0 =>
    let l := s.mainList e
    let lo := attnLow l.m e.attnLo w.c
    let check (t : State) (i0 : Nat) (pages : List (List Nat)) : Nat :=
      if w.turn then 0 else t.passStatus e.part w.seq k 0 e.mslot w.c w.n w.places i0 pages
    let main : Except (Nat × State) (Alloc × State) :=
      if w.draftOnly ≠ 0 then .ok (⟨0, [], []⟩, s) else s.allocate e.part l w.c w.n lo check
    match main with
    | .error (code, t) => out t code
    | .ok (a, t) =>
      if codes.whole ≠ 0 then out s codes.whole
      else
        let w := { w with pages := a.pages, firstPage := a.from_, low := lo / 64, aslot := e.aslot, aver := e.aver
                          adapter := match (s.aslot e.aslot).live.find? fun v => v.1 = e.aver with
                            | some v => v.2
                            | none => 0 }
        let copies := a.copies.map fun x => (false, x.1, x.2)
        let r := w.draftRange
        if r.2 = 0 then (t, ⟨w, copies⟩)
        else
          let dl := t.draftList e
          let dlo := attnLow dl.m e.attnLo r.1
          match t.allocate e.part dl r.1 r.2 dlo fun u i0 pages => u.stageStatus e.part k w i0 pages with
          | .ok (d, u) =>
            (u, ⟨{ w with dpages := d.pages, dfirst := d.from_, dlow := dlo / 64 }, copies ++ d.copies.map fun x => (true, x.1, x.2)⟩)
          | .error (_, u) => (u, ⟨w.noDraft, copies⟩)
  | code => out s code

/-! ## The items of a step -/

/-- The items of a template for those it serves, arguments resolved (R150). An item that takes an append record or an adapter
version is run for each of them with its own (R165, R210); the record's address goes in by its low half, its offset in the Yard's
direct window. -/
def State.itemsFor (s : State) (c : Cmd) (t : Template) (codes : List Nat) (pass : Nat) (recAt : Nat → Nat → Nat) (ad : Nat → Nat) :
    List WItem :=
  t.items.flatMap fun i =>
    let args := (List.range 12).map fun k => s.resolveArg c (i.args.getD k 0)
    let one (q : Nat) : WItem :=
      let xs := match i.recArg with
        | some k => args.set k (recAt q i.layer % 2 ^ 32)
        | none => args
      { item := i, seqs := [q], pass := pass
        args := match i.adArg with
          | some k => (xs.set k (ad q % 2 ^ 32)).set (k + 1) (ad q / 2 ^ 32)
          | none => xs }
    if i.recArg.isSome || i.adArg.isSome then codes.map one else [{ item := i, seqs := codes, pass := pass, args := args }]

/-- A template's items and descriptor lists as one step runs them for some of its works. -/
structure StepPart where
  items : List WItem
  list : SList

/-- The runs of templates of a step: draft passes first, then the given positions, then each chunk, catch-ups last. -/
def State.stepParts (s : State) (c : Cmd) (x : StepRun) : List StepPart :=
  let p := c.part
  let ws := x.works
  let mp := s.spaceMap ws
  let slot := s.mslot x.mslot
  let live := ws.filter fun w => !w.left
  let recAt (q y : Nat) : Nat :=
    spaceAt x.units ((atKey mp.recs (ws.findIdx fun w => w.seq = q % 8192, decide (8192 ≤ q), y)).getD 0)
  let ad (q : Nat) : Nat := ((ws.find? fun w => w.seq = q % 8192).map fun w => w.adapter).getD 0
  let stream := live.filter fun w => !w.turn && w.draftOnly = 0
  let stages := stream.filter fun w => w.stage
  let dslotOf (w : SWork) : Nat := (s.seq w.seq).dslot
  let runOf (n : Nat) (codes : List Nat) (pass : Nat) (draft : Bool) (own : Nat) : List StepPart :=
    match codes, s.stepTemplate p n with
    | _ :: _, .ok t => [⟨s.itemsFor c t codes pass recAt ad, ⟨pass, codes, s.templateDescs p x.num t draft own⟩⟩]
    | _, _ => []
  let drafts := (uniq (stages.map dslotOf)).flatMap fun d =>
    let mine := stages.filter fun w => dslotOf w = d
    (List.range (mine.foldl (fun k w => max k w.drafts) 1)).flatMap fun k =>
      runOf (s.mslot d).tplDraft ((mine.filter fun w => k = 0 || k < w.drafts).map fun w => 8192 + w.seq) (k + 1) true 16387
  let given := runOf slot.tplGiven (stream.map fun w => w.seq) 0 false 16385
  let carried (w : SWork) : List StepPart := runOf (s.mslot (dslotOf w)).tplChunk [8192 + w.seq] 1 true (8192 + w.seq)
  let chunks := (live.filter fun w => w.turn).flatMap fun w =>
    runOf slot.tplChunk [w.seq] 0 false w.seq ++ (if w.carry then carried w else [])
  drafts ++ given ++ chunks ++ (live.filter fun w => w.draftOnly ≠ 0 && !w.skipped).flatMap carried

/-- The template of a work's draft positions. -/
def State.draftTemplate (s : State) (w : SWork) : Nat :=
  let d := s.mslot (s.seq w.seq).dslot
  if w.stage then d.tplDraft else d.tplChunk

/-- A work has draft positions. -/
def SWork.drafty (w : SWork) : Bool := w.stage || w.carry || w.draftOnly ≠ 0

/-- The codes of the templates a step's works need. -/
def State.templateCodes (s : State) (p m : Nat) (ws : List SWork) : TplCodes :=
  let slot := s.mslot m
  let codeOf (n : Nat) : Nat := match s.stepTemplate p n with
    | .error e => e
    | .ok t => s.descsStatus (s.templateDescs p 0 t false 0)
  let whole (n : Nat) : Nat := match s.stepTemplate p n with
    | .error _ => 0
    | .ok t => s.templateStatus t
  let drafty := ws.filter SWork.drafty
  let codes := (if ws.any fun w => !w.turn && w.draftOnly = 0 then [whole slot.tplGiven] else [])
    ++ (if ws.any fun w => w.turn then [whole slot.tplChunk] else []) ++ drafty.map fun w => whole (s.draftTemplate w)
  { given := codeOf slot.tplGiven, chunk := codeOf slot.tplChunk, whole := (codes.find? (· ≠ 0)).getD 0
    noDraft := (drafty.filter fun w => codeOf (s.draftTemplate w) ≠ 0).map fun w => w.seq }

/-- Record the descriptors that R67 refuses in the templates a step's works need, once for each template. -/
def State.recordRefused (s : State) (p m : Nat) (ws : List SWork) : State :=
  let slot := s.mslot m
  let given := if ws.any fun w => !w.turn && w.draftOnly = 0 then [(slot.tplGiven, false)] else []
  let chunk := if ws.any fun w => w.turn then [(slot.tplChunk, false)] else []
  let drafts := (ws.filter SWork.drafty).map fun w => (s.draftTemplate w, true)
  (uniq (given ++ chunk ++ drafts)).foldl (fun t e => match t.stepTemplate p e.1 with
    | .error _ => t
    | .ok x => t.descsRefused (t.templateDescs p 0 x e.2 0)) s

/-- Places of the templates a work runs under. -/
def State.placesFor (s : State) (p n : Nat) : TPlaces := match s.stepTemplate p n with
  | .ok t => t.places
  | .error _ => {}

/-- A work with the places of its templates. -/
def State.withPlaces (s : State) (p m : Nat) (w : SWork) : SWork :=
  let slot := s.mslot m
  { w with places := s.placesFor p (if w.turn then slot.tplChunk else slot.tplGiven), dplaces := s.placesFor p (s.draftTemplate w) }

/-- Check every work of a step in turn, allocate and take the snapshots (R197 to R200): the state then, and what they come to. -/
def State.admitWorks (s : State) (p m : Nat) (ws0 : List SWork) : State × List Admitted :=
  let codes := s.templateCodes p m ws0
  let ws1 := ws0.map fun w => s.withPlaces p m (if codes.noDraft.contains w.seq then w.noDraft else w)
  (ws1.zipIdx).foldl (fun (acc : State × List Admitted) w =>
    let x := acc.1.admitWork w.2 w.1 codes
    (x.1, acc.2 ++ [x.2])) ((s.recordRefused p m ws0).poolLow p, [])

/-- A step whose works are checked and whose space is taken begins: it takes its number, what it samples, its space is filled, the
shared frames are copied, and its items and lists are set out (R150, R164, R197, R204). -/
def State.beginStep (s : State) (c : Cmd) (m kind : Nat) (as : List Admitted) (units : List Nat) : State :=
  let num := s.stepCount + 1
  let ws := as.map fun a => a.work
  let x : StepRun := { num := num, cmd := c.id, part := c.part, mslot := m, kind := kind, trap := s.flag F.PRT_HAZARD_TRAP c.part
                       units := units, seen := s.sample, works := ws }
  let parts := s.stepParts c x
  let y := { x with items := parts.flatMap fun z => z.items, lists := parts.map fun z => z.list }
  let t : State := { s with sv := { s.sv with steps := s.sv.steps ++ [y] } }
  let t := t.setPair A.SEQ_STEPS_LO A.SEQ_STEPS_HI num
  let t := as.foldl (fun u a => if a.work.left then u else
    let e := u.seq a.work.seq
    let u := u.setSeq a.work.seq { e with lastAdmit := num }
    a.copies.foldl (fun v z => v.copyFrame (.step num (if z.1 then 8192 + a.work.seq else a.work.seq))
      (v.mslot (if z.1 then e.dslot else e.mslot)) z.2.1 z.2.2) u) t
  let t := t.fillSpace y
  match t.stepOf num with
  | some z => t.giveReady z
  | none => t

/-- Admit the step of a STEP: checks, allocation, snapshot, arguments and lists (R197 to R204, R308); none where its WORK space cannot
be given yet (R251). -/
def State.admitStep (s : State) (c : Cmd) (m : Nat) (ws0 : List SWork) : Option State :=
  let p := c.part
  let r := s.admitWorks p m ws0
  match r.1.takeWork p (r.1.stepSpace (r.2.map fun a => a.work)) with
  | none => none
  | some (us, t) =>
    let t := t.poolLow p
    let t := if nbit (c.word 1) 41 then t.acquirePart p else t
    let t := t.beginStep c m 0 r.2 us
    let last := (ws0.filter fun w => !w.turn && w.draftOnly = 0).getLast?
    let t : State := { t with
      sv := { t.sv with pointer := match last with
        | some w => smSet (fun _ => 8192) t.sv.pointer p w.seq
        | none => t.sv.pointer }
      qu := { t.qu with reserved := t.qu.reserved ++ [(p * 8 + c.ring, r.2.length)] } }
    some (t.onCmd c.id fun d => { d with count := d.count + 1, counted := false })

/-- Admit a training step (R315). -/
def State.admitTraining (s : State) (c : Cmd) (g : Grant) : State :=
  match s.template c.part (c.word 1) with
  | none => s.finish c.id St.stateRefused 0
  | some t =>
    let num := s.stepCount + 1
    let ds := s.templateDescs c.part num t false 16384
    let code := if s.templateStatus t ≠ 0 then s.templateStatus t else s.descsStatus ds
    if code ≠ 0 then (if s.templateStatus t ≠ 0 then s else s.descsRefused ds).finish c.id code 0
    else
      let a := s.aslot (c.hdr 9 0)
      let ad := ((a.live.find? fun v => v.1 = a.cur).map fun v => v.2).getD 0
      let x : StepRun := { num := num, cmd := c.id, part := c.part, mslot := 0, kind := 1, trap := s.flag F.PRT_HAZARD_TRAP c.part
                           seen := s.sample, items := s.itemsFor c t [16384] 0 (fun _ _ => 0) (fun _ => ad), slot := g.slot? }
      let u : State := { s with sv := { s.sv with steps := s.sv.steps ++ [x] } }
      let u := (u.setPair A.SEQ_STEPS_LO A.SEQ_STEPS_HI num).onCmd c.id fun d => { d with count := 1 }
      ds.foldl (fun u d => u.appendList d.1 d.2) u

/-! ## Admission (R197, R284) -/

/-- The conditions of R197 that do not depend on the work. -/
def State.stepsOpen (s : State) (p : Nat) : Bool :=
  s.dv.st = .ready && !s.dv.draining && s.getF F.PRT_STATE_STATE p = 2 && s.flag F.SEQ_CTRL_ENABLE
    && (s.sv.steps.filter fun x => x.part = p).length < s.getF F.SEQ_POLICY_INFLIGHT p

/-- The work of a running STEP's next step where it may be admitted, its WORK space apart. -/
def State.stepWork (s : State) (c : Cmd) : List SWork :=
  let m := c.hdr 23 18
  if c.op ≠ 0x01 || c.phase ≠ 1 || c.stopped || !s.stepsOpen c.part || s.reloading m then []
  else
    let ws := s.formWork c.part m
    if s.rqRoom c.part c.ring < ws.length then [] else ws

/-- A running TRAIN_STEP may be admitted. -/
def State.trainReady (s : State) (c : Cmd) : Bool :=
  c.op = 0x14 && c.phase = 1 && c.count = 0 && !c.stopped && s.stepsOpen c.part && decide (s.classGrant c.part 4 ≠ .no)

/-- A partition has a step that the step builder can admit. -/
def State.stepDue (s : State) (p : Nat) : Bool :=
  s.qu.cmds.any fun c => c.part = p && (s.trainReady c || (s.stepWork c ≠ [] && (s.admitStep c (c.hdr 23 18) (s.stepWork c)).isSome))

/-- A partition's step has been admitted: it has had its turn. -/
def State.hadStep (s : State) (p : Nat) : State := { s with sv := { s.sv with turn := p } }

/-- STEP_ADMISSION: the running STEP or TRAIN_STEP of a number has its next step admitted where it may be, in its partition's turn
(R197, R284); one that waits for WORK space is counted once (R251). -/
def execStepAdmission (cmd : Nat) (s : State) : Res :=
  let t := s.stepTick cmd
  match t.cmdOf cmd with
  | none => done t
  | some c =>
    let turn := myTurn t.sv.turn c.part t.stepDue
    if t.trainReady c then done (if turn then (t.admitTraining c (t.classGrant c.part 4)).hadStep c.part else t)
    else
      let ws := t.stepWork c
      if ws = [] then done t
      else match t.admitStep c (c.hdr 23 18) ws with
        | some u => done (if turn then u.hadStep c.part else t)
        | none => done (if c.counted then t else (t.bump F.YRD_Q_WAITS_COUNT 1 c.part).onCmd cmd fun d => { d with counted := true })

/-! ## Placement (R203) -/

/-- A logical brick is free for a work item of a partition. -/
def State.brickFree (s : State) (p l : Nat) : Bool :=
  s.inPool p l && !(s.pt.leavingBricks.any fun e => e.1 = l)
    && !(s.sv.steps.any fun x => x.items.any fun i => !i.ended && i.brick = some l)
    && (match s.physOf l with
      | some n => s.unit .brk n = 3 && !s.quiesced .brk n && (s.brick n).run.isNone && !s.pt.clearing.contains n
      | none => false)

/-- The brick of a waiting item, if it finds one. -/
def State.brickFor (s : State) (p : Nat) (i : TItem) : Option Nat :=
  match i.pin with
  | some l => if s.brickFree p l then some l else none
  | none =>
    let pool := (List.range s.activeBricks).filter fun l => s.brickFree p l
    let want := s.sv.sets.find? fun e => e.1 = p * 256 + i.set
    let holds (l : Nat) : Bool := match want, s.physOf l with
      | some e, some n => (s.brick n).held = some (i.set, e.2.2)
      | _, _ => false
    match pool.find? holds with
    | some l => some l
    | none => pool.head?

/-- Waiting items of a partition that no draft pass holds back (R204): by class priority, then step, then list order. -/
def State.waitingItems (s : State) (p : Nat) : List (Nat × Nat × WItem) :=
  let all := (s.sv.steps.filter fun x => x.part = p).flatMap fun x =>
    ((x.items.zipIdx).filter fun i => i.1.brick.isNone && !i.1.ended && !s.itemHeld x i.1).map fun i => (x, i.2, i.1)
  let rank (e : StepRun × Nat × WItem) : Nat :=
    (s.itemClasses e.1 e.2.2).foldl (fun k c => min k (classPriority c)) 6
  (all.mergeSort fun a b => rank a ≤ rank b).map fun e => (e.1.num, e.2.1, e.2.2)

/-- PLACEMENT: the step builder goes on with the partition's steps, and the first waiting item that finds a brick takes it. -/
def execPlacement (part : Nat) (s : State) : Res :=
  let s := s.builderGo part
  match (s.waitingItems part).findSome? fun e => (s.brickFor part e.2.2.item).map fun l => (e.1, e.2.1, l) with
  | none => done s
  | some (num, k, l) =>
    let gen := match s.physOf l with
      | some n => s.genOf .brk n
      | none => 0
    done (s.onStep num fun x => { x with items := x.items.modify k fun i => { i with brick := some l, gen := gen } })

end Sys2Proof.Machine
end

