-- ==== Sys2Proof/Machine/Walks.lean ====
section
/-! DEFINITION. Walks (chapter 6): the attention of one sequence for one layer, in rounds, by a score phase, a combination and a
value phase; the copying of a chunk's pages; how a walk ends and what ends it early. -/

namespace Sys2Proof.Machine

/-! ## Units (R175) -/

/-- Begin the units that wait, in order, while every stack of the next has a free group index (R175). -/
def State.beginUnits (s : State) (id : Nat) : Nat → State
  | 0 => s
  | n + 1 =>
    match s.walkOf id with
    | none => s
    | some w => match w.todo with
      | [] => s
      | u :: rest =>
        let xs := unitStacks (s.unitPages w u.pos u.round)
        let idx := xs.filterMap fun x => (s.freeGroup [x]).map fun i => (x, i)
        if idx.length < xs.length then s
        else
          let ds := idx.flatMap fun e => s.scoreDescs w u e.1 e.2
          ((s.setWalk { w with todo := rest }).appendList w.hod ds).beginUnits id n

/-- Is it a tag of this walk? -/
def Walk.has (w : Walk) (t : Option WalkTag) : Bool := match t with
  | some g => g.walk = w.id
  | none => false

/-- A walk whose round is done begins the next. -/
def State.nextRound (s : State) (w : Walk) : State :=
  let busy := s.bk.groups.any (fun e => w.has e.2.tag) || s.bk.waiting.any (fun e => w.has e.2.tag)
    || s.bk.lists.any fun e => e.2.any fun d => w.has d.tag
  if w.todo ≠ [] || busy || w.rounds.length ≤ w.round + 1 then s
  else s.setWalk { w with round := w.round + 1, todo := w.units.filter fun u => u.round = w.round + 1 }

/-! ## Walks that end early (R188 to R190) -/

/-- Drop what belongs to a walk: its groups, and its descriptors not yet sent (R81). -/
def State.dropWalk (s : State) (w : Walk) : State :=
  let gone := (s.bk.groups.filter fun e => w.has e.2.tag).map fun e => e.1 / 256
  let t : State := { s with
    sv := { s.sv with walks := s.sv.walks.filter fun x => x.id ≠ w.id }
    bk := { s.bk with
      groups := s.bk.groups.filter fun e => !w.has e.2.tag
      waiting := s.bk.waiting.filter fun e => !w.has e.2.tag
      lists := (s.bk.lists.map fun e => (e.1, e.2.filter fun d => !w.has d.tag)).filter fun e => e.2 ≠ [] } }
  gone.foldl (fun u st => u.openWaiting st 1) t

/-- A walk ends without output, and its work takes the status. -/
def State.quitWalk (s : State) (w : Walk) (status : Nat) : State :=
  let t := (s.dropWalk w).workFail w.own status
  (if t.sv.walks.any fun x => x.hod = w.hod then t else t.setFlag F.HOD_CUR_SEQ_VALID false w.hod).hodFreed w.hod

/-- A walk ends under R188, R189 or R190: its engine keeps the first such fault. -/
def State.endWalk (s : State) (w : Walk) (status cause : Nat) (addr : Option Nat := none) : State :=
  let t := s.quitWalk w status
  let t := if t.flag F.HOD_FAULT_VALID w.hod then t
    else (((((t.setFlag F.HOD_FAULT_VALID true w.hod).setF F.HOD_FAULT_SEQ w.seq w.hod).setF F.HOD_FAULT_STATUS status w.hod).setF
      F.HOD_FAULT_PAGE_PAGE w.at_.2 w.hod).setF F.HOD_FAULT_LOC_INDEX w.at_.1 w.hod).setF F.HOD_FAULT_LOC_LAYER w.layer w.hod
  t.err .hod w.hod cause addr

/-- A stack no longer serves: what runs, waits or is held in it is gone, and every walk and piece of work that uses it ends with a code:
0x0308 (R96, R188), or 0x0701 where it is quarantined (R516). -/
def State.stackGone (s : State) (st code : Nat) : State :=
  let owners := (s.bk.groups.filterMap fun e => if e.1 / 256 = st && e.2.tag.isNone then some e.2.own else none)
    ++ (s.bk.waiting.filterMap fun e => if e.1 / 256 = st && e.2.tag.isNone then some e.2.own else none)
    ++ (s.bk.runs.filterMap fun e => if e.1 / 1024 = st then some e.2.pass.own else none)
    ++ (s.bk.work.flatMap fun e => if e.1 / 1024 = st then e.2.map fun w => match w with
      | .pass p => p.own
      | .latch l => l.own else [])
  let held := (s.bk.runs.flatMap fun e => if e.1 / 1024 = st then e.2.held else [])
    ++ s.bk.queued.filterMap fun e => if e.1 / 1024 = st then some e.2 else none
  let t : State := { s with bk := { s.bk with
    groups := s.bk.groups.filter fun e => e.1 / 256 ≠ st || e.2.tag.isSome
    waiting := s.bk.waiting.filter fun e => e.1 / 256 ≠ st || e.2.tag.isSome
    runs := s.bk.runs.filter fun e => e.1 / 1024 ≠ st
    work := s.bk.work.filter fun e => e.1 / 1024 ≠ st
    queued := s.bk.queued.filter fun e => e.1 / 1024 ≠ st
    latch := s.bk.latch.filter fun e => e.1 / 960 / 8 / 1024 ≠ st
    latchBad := s.bk.latchBad.filter fun e => e.slot / 8 / 1024 ≠ st
    acts := s.bk.acts.filter fun e => e.1 / 1024 ≠ st
    pulled := s.bk.pulled.filter fun e => e.1 / 1024 ≠ st } }
  let t := held.foldl (fun u h => u.pieceServed h.ticket code h.acc.addr []) t
  let t := owners.foldl (fun u o => u.workFail o code) t
  (t.sv.walks.filter fun w => w.rounds.any fun r => r.any fun p => pgStack p.2 = st).foldl
    (fun u w => u.endWalk w code 1) t

/-! ## Which walk starts where (R168, R174) -/

/-- Does a pass of a work call for a walk, or for the copying of its pages? -/
def SWork.wants (w : SWork) (pass : Nat) : Bool :=
  !w.left && if pass = 0 then w.draftOnly = 0 && (!w.turn || w.places.beds ≠ []) && commits false w.status else pass ≤ w.draftPasses

/-- A layer's append and query work items have ended (R174). -/
def StepRun.layerReady (x : StepRun) (q pass layer : Nat) : Bool :=
  x.items.all fun i =>
    !(i.item.beforeWalk && i.item.layer = layer && i.pass = pass
      && i.seqs.contains (if pass = 0 then q else 8192 + q)) || i.ended

/-- The walk that runs for a step's sequence, pass and layer. -/
def State.runningWalk (s : State) (step q pass layer : Nat) : Option Walk :=
  s.sv.walks.find? fun w => w.step = step && w.seq = q && w.pass = pass && w.layer = layer

/-- The model slot of a pass of a sequence. -/
def Seq.slotOf (e : Seq) (pass : Nat) : Nat := if pass = 0 then e.mslot else e.dslot

/-- May the walk of a layer of a work start now? -/
def State.walkReady (s : State) (x : StepRun) (w : SWork) (pass layer : Nat) : Bool :=
  w.wants pass && layer < (s.mslot ((s.seq w.seq).slotOf pass)).layers && x.layerReady w.seq pass layer
    && !x.walked.contains (w.seq, pass, layer) && s.passOpen x w pass && (s.runningWalk x.num w.seq pass layer).isNone

/-- A work's bucket in a pass (R174). -/
def SWork.bucket (w : SWork) (pass : Nat) : Nat := bucketOf ((w.walkRange pass).1 + (w.walkRange pass).2)

/-- The engine that takes a walk of a bucket: the first of the partition's that holds such walks and room for one, or the first that
holds none (R174; DESIGN CHOICE, log 33). -/
def State.engineFor (s : State) (p bucket : Nat) : Option Nat :=
  let held (h : Nat) : List Walk := s.sv.walks.filter fun w => w.hod = h
  match (s.hodsOf p).find? fun h => held h ≠ [] && (held h).length < 8 && (held h).all fun w => w.bucket = bucket with
  | some h => some h
  | none => (s.hodsOf p).find? fun h => held h = []

/-- Has a step a walk to start of a longer bucket than this, and an engine for it (R174)? -/
def State.longerWaits (s : State) (x : StepRun) (bucket : Nat) : Bool :=
  x.works.any fun w => (List.range (w.draftPasses + 1)).any fun pass =>
    bucket < w.bucket pass && (s.engineFor x.part (w.bucket pass)).isSome
      && (List.range (s.mslot ((s.seq w.seq).slotOf pass)).layers).any fun y => s.walkReady x w pass y

/-! ## Query positions with no permitted key (R184) -/

/-- Query positions with no permitted key write +0 and set `EMPTY_ATTN` (R184). -/
def State.emptyQueries (s : State) (w : Walk) : State :=
  let m := s.mslot w.mslot
  let es := (List.range w.count).filter fun t => w.first + t < s.walkLow w t
  let t := es.foldl (fun t k => (List.range m.kvHeads).foldl (fun t h => (List.range m.groups).foldl (fun t g =>
    let slots := npop (slotsOf m g) 8
    t.putFor w.own w.part (w.outputAt m ⟨w.id, h, g, k, 0⟩)
      (List.replicate (slots * m.headDim * (if w.places.outFmt = 1 then 2 else 4)) 0)) t) t) s
  if es = [] then t
  else t.onStep w.step fun x => { x with works := x.works.modify w.work fun y => { y with emptyAttn := true } }

/-! ## The pages of a chunk (R187) -/

/-- The pages of a chunk's portion and where each goes in Beds. -/
def Walk.portion (w : Walk) : List ((Nat × Nat) × Nat) := (w.rounds.getD w.round []).zip w.places.beds

/-- The next portion of a chunk's attended pages is copied into Beds, frame by frame, row after row of each; with the last the layer is
done. A frame or place that may not be used ends it with the code (R160, R256). -/
def State.copyPages (s : State) (w : Walk) : State :=
  let m := s.mslot w.mslot
  let rows := w.portion.flatMap fun e => ((m.frame e.1.2).zipIdx).map fun r => (r.1, e.2 + 2048 * r.2)
  let t := s.sampled w.own
  let code (r : Nat × Nat) : Nat := match t.rangeStatus (.part w.part) false r.1 2048 with
    | 0 => t.rangeStatus (.part w.part) true r.2 2048
    | c => c
  match (rows.map code).find? (· ≠ 0) with
  | some c => if c = St.stackUnavailable then s.endWalk w c 1 else s.quitWalk w c
  | none =>
    let u := s.copyRows w.own rows
    if w.round + 1 < w.rounds.length then u.setWalk { w with round := w.round + 1 } else u.walkOver w.id

/-- A list cut into runs of `n`, the last as long as what is left. -/
def cutEvery {α : Type} (n : Nat) : Nat → List α → List (List α)
  | 0, _ => []
  | f + 1, xs => if xs = [] then [] else xs.take n :: cutEvery n f (xs.drop n)

/-! ## The rows -/

/-- A walk or a copy takes its engine: its pages are those of the step's snapshot, whose poisoned word ends it (R169, R190); the step's
entries in the merge buffer are written back first (R168). -/
def State.beginWalk (s : State) (x : StepRun) (k : Nat) (w : SWork) (pass layer hod : Nat) (fault : BitVec 72) : State :=
  let e := s.seq w.seq
  let draft := decide (pass ≠ 0)
  let key : SKey := (k, draft, layer)
  let mp := s.spaceMap x.works
  let s := match (atKey mp.snaps key).getD [] with
    | off :: _ => s.flipBits (spaceAt x.units off / 8 * 8) fault
    | [] => s
  let o : Own := .step x.num (if draft then 8192 + w.seq else w.seq)
  let r := s.readSnapshot x o key
  let range := w.walkRange pass
  let pages := (r.1.zipIdx).map fun p => ((if draft then w.dlow else w.low) + p.2, p.1)
  let places := if draft then w.dplaces else w.places
  let w0 := r.2.2.walkAt x.part x.num w.seq k pass layer (e.slotOf pass) range.1 range.2 places pages
  let pos := match (s.partsOf x.works).find? fun p => p.work = k && p.draft = draft with
    | some p => (range.1 - p.first) * p.posBytes layer
    | none => 0
  let w0 := { w0 with hod := hod, buf := (atKey mp.bufs key).getD 0 + pos, at_ := ((w0.rounds.getD 0 []).head?).getD (0, nullPage) }
  let w1 := if w.copies pass then { w0 with rounds := cutEvery places.beds.length w0.rounds.flatten.length w0.rounds.flatten } else
    let units := s.walkUnits w0
    { w0 with units := units, todo := units.filter fun u => u.round = 0 }
  let u := r.2.2
  let t : State := { u with sv := { u.sv with walks := u.sv.walks ++ [w1], nextWalk := u.sv.nextWalk + 1 } }
  match r.2.1 with
  | some a => t.endWalk w1 St.poisonConsumed 2 (some (s.global a))
  | none =>
    let t := (t.flushOwn fun v => v.together o).showWalk w1 0
    if w.copies pass then t.copyPages w1
    else (((t.emptyQueries w1).nextRound w1).beginUnits w1.id 8192).walkOver w1.id

/-- WALK_START: the walk of a layer begins, the longest bucket that can first, on the engine it is dealt to; one already begun goes on
with the round, the groups or the portion of a chunk's pages that had to wait (R168, R174, R175, R184, R187). `fault` inverts bits of
the first word of its snapshot. -/
def execWalkStart (step seq pass layer : Nat) (fault : BitVec 72) (s : State) : Res :=
  match s.stepOf step with
  | none => done s
  | some x =>
    let k := x.works.findIdx fun w => w.seq = seq
    match x.works[k]?, s.runningWalk step seq pass layer with
    | some w, some v => done (if w.copies pass then s.copyPages v else (s.nextRound v).beginUnits v.id 8192)
    | some w, none =>
      let b := w.bucket pass
      match s.engineFor x.part b with
      | some hod =>
        if s.walkReady x w pass layer && !s.longerWaits x b then done (s.beginWalk x k w pass layer hod fault) else done s
      | none => done s
    | none, _ => done s

/-- The (M, L) of a slot over the stacks of a round, in rising stack order (R178). -/
def combineStats (xs : List (Nat × Nat)) : Nat × Nat :=
  if xs.any fun x => special32 x.2 || x.1 = nan32 then (nan32, nan32)
  else
    let m := xs.foldl (fun a x => max32 a x.1) negInf32
    (m, xs.foldl (fun a x => if x.1 = negInf32 then a else add32 a (mul32 x.2 (expDiff x.1 m))) 0)

/-- WALK_COMBINE (R178 to R180): every stack of the round has written a unit's local record; the records are combined, the home
value group opens, the global record is delivered, and the value phase is set out. It waits for an index free in all the unit's stacks
and for the home's reduction space. -/
def execWalkCombine (walk head sg pos : Nat) (s : State) : Res :=
  match s.walkOf walk with
  | none => done s
  | some w =>
    let u : WalkTag := ⟨walk, head, sg, pos, w.round⟩
    let xs := unitStacks (s.unitPages w pos w.round)
    let soft := xs.filterMap fun x => (s.bk.groups.find? fun e => e.1 / 256 = x && e.2.tag = some u && e.2.post = 1).map fun e => (x, e)
    let home := homeOf (w.rounds.getD w.round [])
    match s.freeGroup (s.valueStacks w u) with
    | none => done s
    | some i =>
      let units := if w.rounds.length ≤ 1 then [] else ((s.stepOf w.step).map fun x => x.units).getD []
      let hg := { (s.valueGroup w u home i).group with tag := some u, units := units }
      if !w.units.contains u || w.combined.any (fun c => c.1 = u) || soft.length < xs.length || soft.any (fun e => !e.2.2.local_)
          || s.paused .stk home
          || (s.nextOpen home).isSome || !s.reducerShare home hg || 4 * 2 ^ 20 < s.bufferUsed home + hg.space then done s
      else
        let gl := (List.range 8).map fun k => combineStats (soft.map fun e => e.2.2.stats.getD k (negInf32, 0))
        let t := (s.showWalk w 3).setWalk { w with combined := w.combined ++ [(u, gl)] }
        let t := t.setGroup (home * 256 + i) (some { hg with global := some gl })
        let t := soft.foldl (fun t e => (t.setGroup e.2.1 (some { e.2.2 with global := some gl })).groupTick e.2.1) t
        done (t.appendList w.hod (xs.flatMap fun x => s.valueDescs w u x i))

/-- The attention output of a unit of `k` slots from the buffers of its rounds: each round's output weighs its share of the sum
(R182). -/
def roundOutput (m : MSlot) (k outFmt : Nat) (bufs : List (List Byte)) : List Byte :=
  (List.range k).flatMap fun j =>
    let ml (b : List Byte) : Nat × Nat := (fieldB b (k * m.headDim * 4 + 8 * j) 4, fieldB b (k * m.headDim * 4 + 8 * j + 4) 4)
    let mm := bufs.foldl (fun a b => max32 a (ml b).1) negInf32
    let ws := bufs.map fun b => mul32 (ml b).2 (expDiff (ml b).1 mm)
    let sum := ws.foldl add32 0
    (List.range m.headDim).flatMap fun o =>
      let v := (bufs.zip ws).foldl (fun a e => add32 a (mul32 (quot32 e.2 sum) (fieldB e.1 ((j * m.headDim + o) * 4) 4))) 0
      leBytes (if outFmt = 1 then convertFmt 7 5 v else v) (if outFmt = 1 then 2 else 4)

/-- ROUND_COMBINE (R182): the round outputs of a unit become its attention output; a poisoned buffer ends the walk (R190). -/
def execRoundCombine (walk head sg pos : Nat) (s : State) : Res :=
  match s.walkOf walk with
  | none => done s
  | some w =>
    let m := s.mslot w.mslot
    let us := w.units.filter fun u => u.head = head && u.sg = sg && u.pos = pos
    let open_ (u : WalkTag) : Bool := s.bk.groups.any fun e => e.2.tag = some u
    if us = [] || w.rounds.length ≤ 1 || us.any (fun u => open_ u || !(w.combined.any fun c => c.1 = u))
        || w.merged.any (fun u => u.head = head && u.sg = sg && u.pos = pos) then done s
    else
      let k := npop (slotsOf m sg) 8
      let n := k * m.headDim * 4 + 64
      let space := ((s.stepOf w.step).map fun x => x.units).getD []
      let r := us.foldl (fun (acc : List (List Byte) × Option Nat × State) u =>
        let a := w.roundAt m u
        let v := acc.2.2.readSpace w.own space a n
        let bad := ((wordsOf a n).map (spaceAt space)).find? fun y => acc.2.2.asServed.wordBad (y / 8 * 8)
        (acc.1 ++ [v.1], if acc.2.1.isSome then acc.2.1 else bad, v.2.2)) ([], none, s)
      match r.2.1 with
      | some a => done (r.2.2.endWalk w St.poisonConsumed 2 (some (s.global a)))
      | none =>
        let u0 := us.headD ⟨walk, head, sg, pos, 0⟩
        let t := (r.2.2.showWalk w 6).setWalk { w with merged := w.merged ++ [u0] }
        done ((t.putFor w.own w.part (w.outputAt m u0) (roundOutput m k w.places.outFmt r.1)).walkOver walk)

/-- WALK_TIMEOUT (R189): a walk has waited longer than `HOD_WALK_TMO`; time that a stack it uses is paused does not count (R477). -/
def execWalkTimeout (walk us : Nat) (s : State) : Res :=
  match s.walkOf walk with
  | some w =>
    let paused := (unitStacks w.rounds.flatten).any fun x => s.paused .stk x
    if s.getF F.HOD_WALK_TMO_US w.hod < us && !paused then done (s.endWalk w St.walkTimeout 0) else done s
  | none => done s

end Sys2Proof.Machine
end

