-- ==== Sys2Proof/Machine/Commit.lean ====
section
/-! DEFINITION. How a step completes (chapters 7, 11 and 21): acceptance of drafts, commits, publications, result entries and the
step's record; and the stop of work that overdraws its slot (R290). -/

namespace Sys2Proof.Machine

/-! ## Acceptance (R206) -/

/-- The verifier's choices for a work at place `k`, up to the first that differs from its draft (R206): the acceptances and the output
token, or the status of an unusable vector. -/
def State.verify (s : State) (o : Own) (e : Seq) (w : SWork) (k : Nat) (ds : List Nat) : Nat → Nat → Except Nat (Nat × Nat) × State
  | 0, t => (.ok (t, 0), s)
  | n + 1, t =>
    let vocab := (s.mslot e.mslot).vocab
    let at_ := if w.turn then 0 else if w.given = 1 then t else w.given - 1
    match s.choose o e (logitAt w.places k at_ vocab) vocab (w.c + w.given + t) with
    | (.error c, u) => (.error c, u)
    | (.ok v, u) => match ds[t]? with
      | some d => if v = d then u.verify o e w k ds n (t + 1) else (.ok (t, v), u)
      | none => (.ok (t, v), u)

/-! ## Commits (R201, R206, R218) -/

/-- What a step made of a work: its status, the tokens emitted, and the entry it leaves. -/
structure Outcome where
  status : Nat
  tokens : List Nat
  entry : Seq
  skipped : Bool
  stopped : Bool := false
  commit : Bool := false

/-- A sequence enters `HELD`: at once, or when it leaves `PARKED`. -/
def Seq.hold (e : Seq) : Seq := if e.st = 1 then { e with st := 2 } else if e.st = 3 then { e with parkedFrom := 2 } else e

/-- Whose a work's own work is. -/
def StepRun.ownOf (x : StepRun) (w : SWork) : Own := .step x.num w.seq

/-- The outcome of a work at place `k`, and the state after its selections. -/
def State.outcome (s : State) (x : StepRun) (w : SWork) (k : Nat) : Outcome × State :=
  let e := s.seq w.seq
  let fail (c : Nat) : Outcome := { status := c, tokens := [], entry := e, skipped := w.skipped }
  if w.left || !commits x.trap w.status then (fail w.status, s)
  else if w.draftOnly ≠ 0 then
    ({ status := w.status, tokens := [], commit := true, skipped := w.skipped
       entry := { e with lastStep := x.num, dlen := if w.skipped then e.dlen else w.dlen + w.draftOnly } }, s)
  else
    let clen := w.c + w.given
    let carried := if w.carry && !w.skipped then clen else e.dlen
    let first := if !w.stage then carried else if w.skipped then e.dlen else w.c + 1
    if (s.mslot e.mslot).select ≠ 1 || (w.turn && clen ≠ e.hlen) then
      ({ status := w.status, tokens := [], commit := true, skipped := w.skipped
         entry := { e with clen := clen, lastStep := x.num, dlen := first } }, s)
    else
      let d := if w.skipped then [] else w.toks
      match s.verify (x.ownOf w) e w k d (d.length + 1) 0 with
      | (.error c, u) => (fail c, u)
      | (.ok (a, v), u) =>
        let e1 := { e with clen := clen + a, hlen := clen + a + 1, lastStep := x.num
                           dlen := if d = [] then first else w.c + 1 + min a (d.length - 1) }
        let stop := v = e.stopTok
        ({ status := w.status, tokens := d.take a ++ [v], commit := true, skipped := w.skipped, stopped := stop
           entry := if stop then e1.hold else e1 }, u)

/-- Statuses that count towards the retry limit (Table 21-1). -/
def countsRetry (trap : Bool) (c : Nat) : Bool :=
  [0x0308, 0x0506, 0x030C, 0x0701, 0x0401, 0x0801, 0x0503, 0x0A02, 0x0A03, 0x0A04, 0x0A05].contains c || (c = 0x0A01 && trap)

/-- A sequence whose step failed: the status is kept; the fourth failure in a row ends the retries (R186, R506). -/
def State.failSeq (s : State) (q status : Nat) (trap : Bool) : State :=
  let e := { s.seq q with status := status }
  if !countsRetry trap status then s.setSeq q e
  else if e.fails + 1 < 4 then s.setSeq q { e with fails := e.fails + 1 }
  else if s.live e.part then (s.setSeq q { e with fails := e.fails + 1 }).damage q 0
  else (s.setSeq q { e.hold with fails := e.fails + 1, heldByFail := true }).event q status

/-- A work's tokens go into its history (R195, R201), or the status with which its place there is refused (R88, R93, R96). -/
def State.keepTokens (s : State) (x : StepRun) (w : SWork) (o : Outcome) : Outcome × State :=
  let e := s.seq w.seq
  let a := e.tokBase + 4 * (w.c + w.given)
  if !o.commit || o.tokens = [] then (o, s)
  else match (s.sampled (x.ownOf w)).rangeStatus (.part x.part) true a (4 * o.tokens.length) with
    | 0 => (o, s.storeFor (x.ownOf w) a (o.tokens.flatMap fun k => leBytes k 4))
    | c => ({ status := c, tokens := [], entry := e, skipped := o.skipped }, s)

/-- Commit a work: entry and publications (R201, R202, R213, R214). -/
def State.commitSeq (s : State) (x : StepRun) (w : SWork) (o : Outcome) : Outcome × State :=
  let e := s.seq w.seq
  let t := s.setSeq w.seq { o.entry with fails := 0, heldByFail := false, status := if o.status = 0 then e.status else o.status }
  if e.autoPub && t.getF F.SEQ_PFX_MODE_MODE e.part ≠ 0 then
    let r := t.publish (x.ownOf w) w.seq (o.entry.clen / 64) x.num 4096
    let st := if o.status = 0 then r.1 else o.status
    ({ o with status := st }, if st = 0 then r.2 else r.2.setSeq w.seq { r.2.seq w.seq with status := st })
  else (o, t)

/-- A result entry (Table 11-8). -/
def resultEntry (q : Nat) (e : Seq) (o : Outcome) (empty : Bool) (num : Nat) : List Byte :=
  recB 64 ([(0, 2, q), (2, 2, o.status), (4, 1, o.tokens.length),
    (5, 1, (if empty then 1 else 0) + (if o.skipped then 2 else 0) + (if o.stopped then 4 else 0)),
    (8, 8, e.cookie), (16, 4, e.clen), (20, 4, e.gen), (56, 8, num)]
    ++ (o.tokens.zipIdx).map fun t => (24 + 4 * t.2, 4, t.1))

/-- Write a result entry at the tail of a result ring. -/
def State.putResult (s : State) (p ring : Nat) (bs : List Byte) : State :=
  let pos := s.getF F.PRT_RQTAIL_INDEX p ring
  let a := s.rqbase p ring + pos % 2 ^ s.getF F.PRT_RQSIZE_LOG2 p ring * 64
  let t : State := if s.ringStatus p true a 64 = 0 then
      let u := s.ringWrite p a bs
      { u with kl := { u.kl with epTokens := u.kl.epTokens + fieldB bs 4 1 } }
    else s
  t.setF F.PRT_RQTAIL_INDEX (pos + 1) p ring

/-! ## Completion of a step (R202, R308, R315) -/

/-- A step writes back what it left in the merge buffer (R84). -/
def State.flushStep (s : State) (num : Nat) : State := s.flushOwn fun o => o.together (.step num 0)

/-- The step is over: what it held is free. -/
def State.dropStep (s : State) (x : StepRun) : State :=
  let t := s.flushStep x.num
  let t : State := { t with sv := { t.sv with steps := t.sv.steps.filter fun y => y.num ≠ x.num } }
  let t := (t.giveWork x.units).closeGroups fun o => o.together (.step x.num 0)
  x.works.foldl (fun u w => if w.left then u else u.trimAslot w.aslot) t

/-- The selections of a step, its histories, then its commits, each work in turn. -/
def State.settleWorks (s : State) (x : StepRun) : List (SWork × Outcome) × State :=
  let r := (x.works.zipIdx).foldl (fun (acc : List (SWork × Outcome) × State) w =>
    let y := acc.2.outcome x w.1 w.2
    let z := y.2.keepTokens x w.1 y.1
    (acc.1 ++ [(w.1, z.1)], z.2)) ([], s)
  r.1.foldl (fun (acc : List (SWork × Outcome) × State) w =>
    if w.2.commit then
      let y := acc.2.commitSeq x w.1 w.2
      (acc.1 ++ [(w.1, y.1)], y.2)
    else (acc.1 ++ [w], acc.2)) ([], r.2)

/-- Commit or fail every work of a STEP's step, and write its entries and its record. -/
def State.commitStep (s : State) (x : StepRun) : State :=
  let c := s.cmdOf x.cmd
  let ring := match c with
    | some d => d.ring
    | none => 0
  let first := s.getF F.PRT_RQTAIL_INDEX x.part ring
  let r := s.settleWorks x
  let t := r.1.foldl (fun t w => t.putResult x.part ring (resultEntry w.1.seq (t.seq w.1.seq) w.2 w.1.emptyAttn x.num)) r.2
  let status := ((r.1.map fun w => w.2.status).find? (· ≠ 0)).getD 0
  let key := (x.part * 8 + ring, x.works.length)
  let t : State := { t with qu := { t.qu with reserved := t.qu.reserved.erase key } }
  let t := match c with
    | none => t
    | some d => t.addRec { part := x.part, ring := ring, origin := d.queue, tag := d.hdr 47 32, opcode := d.op, flags := 2
                           status := status, irq := d.hdr 52 52 = 1
                           result := first % 65536 * 2 ^ 48 + x.works.length * 2 ^ 32 + x.num % 2 ^ 32 }
  r.1.foldl (fun t w => if w.2.commit || w.1.left then t else t.failSeq w.1.seq w.2.status x.trap) t

/-- STEP_COMMIT: an admitted step whose work has all ended, here and at other devices, completes, in its partition's turn at the token
selector; until then the step builder goes on with it (R84, R201 to R208, R284). -/
def execStepCommit (step : Nat) (s : State) : Res :=
  match s.stepOf step with
  | none => done s
  | some x0 =>
    let s := s.builderGo x0.part
    match s.stepOf step with
    | none => done s
    | some x =>
      if x.kind = 2 || !s.stepEnded x then done s
      else if x.kind = 1 then
        let t := s.flushStep step
        done ((t.dropStep x).finish x.cmd (((t.stepOf step).map fun y => y.status).getD x.status) step)
      else if !s.choiceTurn x.part then done s
      else
        let t := s.flushStep step
        let y := (t.stepOf step).getD x
        done ((((t.commitStep y).dropStep y).hadChoice y.part).stepTick y.cmd)

/-! ## A slot overdrawn (R290) -/

/-- Is a piece of work, no recovery's, charged to a slot? -/
def State.chargedSlot (s : State) (o : Own) (p i : Nat) : Bool :=
  let r := s.chargedTo o
  !s.recoveryWork o && r.1 = p && r.2.any fun e => e.2 = some i

/-- Descriptors of lists without those charged to a slot. -/
def State.spared (s : State) (p i : Nat) (ls : List (Nat × List Desc)) : List (Nat × List Desc) :=
  (ls.map fun e => (e.1, e.2.filter fun d => !s.chargedSlot d.own p i)).filter fun e => e.2 ≠ []

/-- BUDGET_STOP: the slot's bricks are charged for the time they have held; where the slot is then overdrawn, or its next pass would
overdraw it, its work stops: items are halted, those that wait are not run, walks end, descriptors are dropped, and its sequences
complete with 0x0503. -/
def execBudgetStop (part slot : Nat) (s : State) : Res :=
  let mine (u : State) (n : Nat) : Bool := match (u.brick n).run with
    | some r => r.part = part && u.chargedSlot r.own part slot
    | none => false
  let bricks := (s.br.map fun e => e.1).filter fun n => mine s n
  let t := bricks.foldl (fun u n => u.chargeBrick n (u.brick n).cycle) s
  let spent := match (t.cycle part).slots[slot]? with
    | some x => x.overdrawn
    | none => false
  let stuck := t.bk.lists.any fun e => match e.2 with
    | d :: _ => t.chargedSlot d.own part slot && 1 ≤ d.kind && d.kind ≤ 4 && t.wouldOverdraw d.own 1 d.pass.cols 4096
    | [] => false
  if !spent && !stuck then done t
  else
    let works := (t.sv.steps.filter fun x => x.part = part).flatMap fun x =>
      (if x.kind = 1 && x.slot = some slot then [(x.num, 16384)] else [])
        ++ (x.works.filter fun w => x.kind ≠ 2 && !w.left && w.slot = some slot).map fun w => (x.num, w.seq)
    let u := works.foldl (fun u w => u.workFail (.step w.1 w.2) 0x0503) t
    let u := (u.sv.walks.filter fun w => works.contains (w.step, w.seq)).foldl (fun u w => u.endWalk w 0x0503 1) u
    let gone (num q : Nat) : Bool := works.any fun w => w.1 = num && (w.2 = q || 8192 + w.2 = q)
    let drop (x : StepRun) : StepRun := { x with
      items := x.items.map fun i => if i.brick.isNone && i.seqs.all (gone x.num) then { i with ended := true } else i
      lists := (x.lists.map fun l => { l with descs := t.spared part slot l.descs }).filter fun l => l.descs ≠ [] }
    let u : State := { u with
      bk := { u.bk with lists := t.spared part slot u.bk.lists }
      sv := { u.sv with steps := u.sv.steps.map fun x => if x.part = part then drop x else x } }
    let u := bricks.foldl (fun u n => u.halt n 0x0503) u
    done ((u.bump F.CYT_SLSTAT_STOPS 1 part slot).err .cyt part 1)

end Sys2Proof.Machine
end

