-- ==== Sys2Proof/Machine/Tile.lean ====
section
/-! DEFINITION. What the engines of a brick compute, and the course of an instruction that has issued: each of its reads and writes in
its own cycle (chapter 4, R143, R226, R233). -/

namespace Sys2Proof.Machine

/-! ## Arithmetic (R106, R115, R117) -/

/-- An exact sum: a finite sum is not rounded. -/
def exactSum (xs : List Num) : Num := xs.foldl Num.add (decodeNum 7 0)

/-- One level of a pairwise FP32 tree: adjacent values are paired, which R106 and R115 leave open (DESIGN CHOICE, log 22). -/
def treeLevel : List Num → List Num
  | a :: b :: rest => num32 (round32 (a.add b)) :: treeLevel rest
  | xs => xs

/-- A pairwise FP32 tree, each addition rounded. -/
def treeSum : Nat → List Num → Num
  | 0, xs => xs.headD (decodeNum 7 0)
  | n + 1, xs => match xs with
    | [] => decodeNum 7 0
    | [x] => x
    | _ => treeSum n (treeLevel xs)

/-- Canonical NaN in an accumulator. -/
def canon32 (x : Nat) : Nat := if isNan32 x then 0x7FC00000 else x

/-- Element k of a packed row of a format, as bits (R223). -/
def elemBits (fmt : Nat) (bs : List Byte) (k : Nat) : Nat :=
  if fmtBits fmt = 4 then
    let b := ((bs[k / 2]?).getD 0).toNat
    if k % 2 = 0 then b % 16 else b / 16
  else fieldB bs (k * (fmtBits fmt / 8)) (fmtBits fmt / 8)

/-- Is a format an integer format? -/
def intFmt (fmt : Nat) : Bool := fmt == 2 || fmt == 4

/-- Signed value of an integer element. -/
def intElem (fmt bits : Nat) : Int := signedN (fmtBits fmt) bits

/-- Do a bank's and a row's format pair (Table 4-5)? -/
def tilePair (w a : Nat) : Bool :=
  (w ≤ 1 && a ≤ 1) || (w == 2 && a == 2) || (w == 3 && a == 3) || (w == 4 && a == 4)
    || ((w == 5 || w == 6) && (a == 5 || a == 6))

/-- Weight of output i and input j in a TILE32 bank. -/
def tileWeight (fmt : Nat) (bs : List Byte) (i j : Nat) : Nat :=
  if fmt = 3 || fmt = 4 then
    let b := ((bs[j / 2 * 32 + i]?).getD 0).toNat
    if j % 2 = 0 then b % 16 else b / 16
  else if 5 ≤ fmt then fieldB bs (2 * (j * 32 + i)) 2
  else ((bs[j * 32 + i]?).getD 0).toNat

/-- One row through a bank: what each output adds to, given the accumulator's old pattern (R106). -/
def tileRow (wf af : Nat) (bank row : List Byte) (old : List Nat) : List Nat :=
  (List.range 32).map fun i =>
    let js := List.range (tileInputs wf)
    let o := old.getD i 0
    if intFmt wf then
      let sum : Int := js.foldl (fun t j => t + intElem wf (tileWeight wf bank i j) * intElem af (elemBits af row j)) 0
      ((((o : Nat) : Int) + sum) % (2 ^ 32 : Nat)).toNat
    else
      let ps := js.map fun j => (decodeNum wf (tileWeight wf bank i j)).mul (decodeNum af (elemBits af row j))
      let sum := if 5 ≤ wf then treeSum 6 ps else exactSum ps
      canon32 (round32 ((num32 o).add sum))

/-- The rounded tree sum of one input block's products with a slot's latch elements (R115). -/
def mvBlock (fmt : Nat) (block : List Byte) (latch : Nat → Nat) : Nat :=
  round32 (treeSum 7 ((List.range 64).map fun e => (decodeNum fmt (elemBits fmt block e)).mul (decodeNum 5 (latch e))))

/-- A block's sum is added to an FP32 output. -/
def mvAdd (a sum : Nat) : Nat := canon32 (round32 ((num32 a).add (num32 sum)))

/-- An element function on FP32 patterns (Table 4-8): computed, or within its bound. -/
def vecElem (f a b : Nat) : Nat :=
  match f with
  | 0x00 => a
  | 0x01 => add32 a b
  | 0x02 => mul32 a b
  | 0x03 => max32 a b
  | 0x04 => max32 a 0
  | k => bounded k a b

/-- Rotary coding of one head of elements at position p by a parameter block (R119, R120); dimensions past `ROPE_DIM` pass. -/
def ropeHead (pb : List Byte) (p : Nat) (xs : List Nat) : List Nat :=
  let d := fieldB pb 8 2
  let pr (j : Nat) : Nat × Nat := if fieldB pb 12 1 = 0 then (j, j + d / 2) else (2 * j, 2 * j + 1)
  (List.range (d / 2)).foldl (fun ys j =>
    let r := rotate (fieldB pb 0 4) (fieldB pb 4 4) d j (p % 262144) (xs.getD (pr j).1 0) (xs.getD (pr j).2 0)
    (ys.set (pr j).1 r.1).set (pr j).2 r.2) xs

/-- Cut a list into rows of n elements. -/
def rowsOf (n : Nat) : Nat → List Nat → List (List Nat)
  | 0, _ => []
  | k + 1, xs => xs.take n :: rowsOf n k (xs.drop n)

/-- A row function on one row (Table 4-8). NSTAT's result is its two sums, formed in element order; a square is exact in its sum. -/
def vecRow (pb : List Byte) (f : Nat) (row stats : List Nat) : List Nat :=
  if f = 0x12 then [row.foldl add32 0, row.foldl (fun t x => mac32 t (num32 x) (num32 x)) 0]
  else if f = 0x14 then
    let h := max 1 (fieldB pb 10 2)
    (rowsOf h ((row.length + h - 1) / h) row).flatMap (ropeHead pb (stats.headD 0))
  else rowBounded f row (fieldB pb 20 4) stats

/-! ## What a `STORE` writes (R121, R166, R233) -/

/-- Merge placed elements into whole bytes: nibbles of one byte join, a lone nibble keeps the byte's other half by `old`. -/
def placedBytes (old : Nat → Byte) (ps : List Placed) : List (Nat × Byte) :=
  ps.foldl (fun m p =>
    match p.nib with
    | none => smPut m p.addr (BitVec.ofNat 8 p.bits)
    | some k =>
      let b := (smGet old m p.addr).toNat
      smPut m p.addr (BitVec.ofNat 8 (if k = 0 then b / 16 * 16 + p.bits % 16 else b % 16 + p.bits % 16 * 16))) []

/-- Bytes of one element. -/
def Placed.split (fmt : Nat) (p : Placed) : List Placed :=
  if fmtBits fmt ≤ 8 then [p]
  else (List.range (fmtBits fmt / 8)).map fun k => ⟨p.addr + k, none, p.bits / 256 ^ k % 256⟩

/-- Runs of consecutive bytes of a sorted byte map. -/
def byteRuns : List (Nat × Byte) → List (Nat × List Byte)
  | [] => []
  | (a, b) :: rest =>
    match byteRuns rest with
    | (a', bs) :: more => if a + 1 = a' then (a, b :: bs) :: more else (a, [b]) :: (a', bs) :: more
    | [] => [(a, [b])]

/-- The first `n` of a list of patterns, zeros beyond its end. -/
def sliceNat (xs : List Nat) (n : Nat) : List Nat := (List.range n).map fun k => xs.getD k 0

/-- Write runs of bytes of a `STORE` to global addresses: local memory is checked and written, other devices by `RWR`; a failure halts
the item (R142), and a poisoned word is not sent to another device (Table 14-4). -/
def State.storeGlobal (s : State) (n : Nat) (r : BRun) (runs : List (Nat × List Byte)) (bad : Bool) : State :=
  runs.foldl (fun t p =>
    if (t.brick n).run.isNone then t
    else if p.1 / 2 ^ 44 % 256 ≠ 0 then t.halt n St.addressUnmapped
    else if devOf p.1 = t.dv.devNum then
      match (t.sampled r.own).rangeStatus (.part r.part) true (localOf p.1) p.2.length with
      | 0 => t.storeFor r.own (localOf p.1) p.2 (if bad then wordsOf (localOf p.1) p.2.length else [])
      | c => t.halt n c
    else if bad then t.workFail r.own St.poisonConsumed
    else t.writeAway r.own r.part p.1 p.2) s

/-! ## The reads of an issued instruction -/

/-- A location of the accumulators or the result buffer. -/
def Brick.accAt (b : Brick) (r : Nat) : List Nat := smGet (fun _ => List.replicate 32 0) b.acc r

/-- The slots of an output of the result buffer. -/
def Brick.rbAt (b : Brick) (o : Nat) : List Nat := (List.range 8).map fun sl => smGet (fun _ => 0) b.rb (o * 8 + sl)

/-- Is any element of an accumulator row poisoned? -/
def Brick.rowBad (b : Brick) (r : Nat) : Bool := b.accBad.any fun k => k / 32 = r

/-- A `VOP` reads a unit of operand a or b in cycle c: FP32 patterns and poison. A poisoned element poisons the unit's row. -/
def State.vecUnit (s : State) (n : Nat) (i : EIns) (acc : Bool) (addr c : Nat) : (List Nat × Bool) × State :=
  let b := s.brick n
  if acc then
    ((if b.accInt.contains addr then (b.accAt addr).map fun x => encodeNum 7 (intNum 32 x) else b.accAt addr, b.rowBad addr),
      s.watch n 2 i 1 addr c)
  else
    let one := vSrc i.word = 1
    let r := s.bedRead n 2 i addr (if one then 256 else 128) c
    (((List.range (vPer i.word)).map fun k => if one then fieldB r.1 (4 * k) 4 else convertFmt 5 7 (fieldB r.1 (2 * k) 2), r.2.1), r.2.2)

/-- A position of a second stream: the value itself, or a word of the Bed. -/
def State.posUnit (s : State) (n engine : Nat) (j : Job) (k c : Nat) : (List Nat × Bool) × State :=
  let a := j.aux.getD k 0
  if j.lit then (([a], false), s)
  else
    let r := s.bedRead n engine j.ins a 4 c
    (([leNat r.1], r.2.1), r.2.2)

/-- Operand b of a `VOP`'s read u, if one goes with it: a unit as operand a's, a row's statistics, or its position. -/
def State.vopSecond (s : State) (n : Nat) (j : Job) (u c : Nat) : List (List Nat × Bool) × State :=
  let f := vFunc j.ins.word
  let per := max 1 j.unitsPer
  if !twoOperand f || (rowFunc f && u % per ≠ 0) then ([], s)
  else if f = 0x14 then
    let r := s.posUnit n 2 j (u / per) c
    ([r.1], r.2)
  else if f = 0x13 then
    let r := s.bedRead n 2 j.ins (j.aux.getD (u / per) 0) 8 c
    ([([fieldB r.1 0 4, fieldB r.1 4 4], r.2.1)], r.2.2)
  else
    let r := s.vecUnit n j.ins false (j.aux.getD u 0) c
    ([r.1], r.2)

/-- A `STORE` reads row k of its source in cycle c: patterns, 1 before them where they are INT32, and poison. A row of `SRC` 2 is the eight
slots of one output, and zeros past them (DESIGN CHOICE, log 23). With `CONSUME` a row whose `FULL` is 0 is early, and `FULL` is cleared. -/
def State.storeSource (s : State) (n : Nat) (j : Job) (k c : Nat) : (List Nat × Bool) × State :=
  let w := j.ins.word
  let b := s.brick n
  let cols := nbits w 20 15
  let consume := nbit w 48
  match nbits w 57 56 with
  | 0 =>
    let r := (nbits w 30 21 + k) % 1024
    let t := s.watch n 3 j.ins 1 r c (consume && !b.full.contains r)
    let d := t.brick n
    (((if b.accInt.contains r then 1 else 0) :: sliceNat (b.accAt r) cols, b.rowBad r),
      if consume then t.setBrick n { d with full := d.full.filter (· ≠ r) } else t)
  | 1 =>
    let es := b.vecq.take cols
    ((0 :: sliceNat (es.map (·.1)) cols, es.any (·.2)), s.setBrick n { b with vecq := b.vecq.drop cols })
  | _ =>
    let r := (nbits w 30 21 + k) % 512
    let t := s.watch n 3 j.ins 2 r c (consume && !b.rbFull.contains r)
    let d := t.brick n
    ((0 :: sliceNat (b.rbAt r) cols, (List.range 8).any fun sl => b.rbBad.contains (r * 8 + sl)),
      if consume then t.setBrick n { d with rbFull := d.rbFull.filter (· ≠ r) } else t)

/-- Bytes as patterns. -/
def natsOf (bs : List Byte) : List Nat := bs.map fun b => b.toNat

/-- Patterns as bytes. -/
def bytesOf (xs : List Nat) : List Byte := xs.map (BitVec.ofNat 8)

/-- The slots and the elements within them that an `MVMUL`'s unit k is multiplied with. -/
def mvLatch (b : Brick) (w k sl e : Nat) : Nat := smGet (fun _ => 0) b.latch (sl * 2048 + nbits w 45 35 + k % mvBlocks w * 64 + e)

/-- The outputs that an `MVMUL` with `DST` 0 has already written take the mark of a poisoned weight. -/
def Brick.spoil (b : Brick) (j : Job) : Brick :=
  { b with rbBad := addNew b.rbBad ((List.range j.wr).flatMap fun o => (bitsOf (nbits j.ins.word 54 47) 8).map fun sl =>
      (nbits j.ins.word 18 10 + o) * 8 + sl) }

/-- The next read of an issued instruction, in its cycle. -/
def State.jobRead (s : State) (n : Nat) (j : Job) : State × Job :=
  let w := j.ins.word
  let k := j.rd
  let c := j.readAt k
  let off := nbits w 18 0
  let keep (t : State) (j : Job) (x : List Nat × Bool) : State × Job :=
    (t, { j with rd := k + 1, units := j.units.tail, buf := j.buf ++ [x] })
  match eOp w with
  | 1 =>
    let r := s.bedRead n 0 j.ins off (bankBytes (nbits w 56 54)) c
    let m := r.2.2.meets n j r.2.1 (some (bedAddr n off))
    keep m.1 m.2 (natsOf r.1, r.2.1)
  | 2 =>
    let a := j.units.headD 0
    let r := s.bedRead n 0 j.ins a (packBytes (nbits w 56 54) (tileInputs j.fmt)) c
    let m := r.2.2.meets n j r.2.1 (some (bedAddr n a))
    let t := (m.1.bumpW F.BRK_TILE_ROWS_COUNT 1 n).bumpW F.BRK_TILE_BUSY_COUNT 1 n
    keep t m.2 (natsOf r.1, r.2.1)
  | 3 =>
    let len := npop (nbits w 57 50) 8 * nbits w 49 38 * 2
    let r := s.bedRead n 1 j.ins off len c
    let m := r.2.2.meets n j r.2.1 (some (bedAddr n off))
    let bad := (List.range (len / 2)).filter fun e => (s.ecc (bedAddr n (off + 2 * e))).bad
    keep m.1 { m.2 with buf2 := [(bad, false)] } (natsOf r.1, r.2.1)
  | 5 =>
    let fmt := nbits w 57 55
    let a := j.units.headD 0
    let r := s.bedRead n 1 j.ins a (packBytes fmt 64) c
    let m := r.2.2.meets n j r.2.1 (some (bedAddr n a))
    let t := if r.2.1 && j.dst = 0 then m.1.setBrick n ((m.1.brick n).spoil j) else m.1
    keep t { m.2 with bad := j.bad || r.2.1 }
      ((bitsOf (nbits w 54 47) 8).map fun sl => mvBlock fmt r.1 (mvLatch (s.brick n) w k sl), r.2.1)
  | 6 =>
    let a := s.vecUnit n j.ins (vSrc w = 0) (j.units.headD 0) c
    let b := a.2.vopSecond n j k c
    let m := b.2.meets n j (a.1.2 || b.1.any (·.2)) none
    keep m.1 { m.2 with buf2 := j.buf2 ++ b.1 } a.1
  | 7 =>
    let r := s.bedRead n 2 j.ins off (if nbits w 57 56 = 0 then 4096 else 64) c
    let m := r.2.2.meets n j r.2.1 (some (bedAddr n off))
    let bad := (List.range 1024).filter fun e => (s.ecc (bedAddr n (off + 4 * e))).bad
    keep m.1 { m.2 with buf2 := [(if nbits w 57 56 = 0 then bad else [], false)] } (natsOf r.1, r.2.1)
  | _ =>
    let a := s.storeSource n j k c
    let runLen := max 1 (fieldB j.pb 10 2 / 32)
    let p := if nbit w 49 then a.2.posUnit n 3 j k c else (([], false), a.2)
    let m := p.2.meets n j (a.1.2 || (p.1.2 && k % runLen = 0)) none
    (m.1, { m.2 with rd := k + 1, buf := j.buf ++ [a.1], buf2 := j.buf2 ++ [p.1] })

/-! ## Its writes -/

/-- One row of a `TMUL` is written: with `LAST` after its final write its `FULL` is set (R104). -/
def Brick.tileWrite (b : Brick) (j : Job) : Brick :=
  let w := j.ins.word
  let k := j.wr
  let span := nbits w 21 11
  let r := accRow (nbits w 31 22) span k
  let bank := b.banks.getD (nbits w 57 57) {}
  let over_ := !nbit w 53 && k < span
  let x := j.buf.headD ([], false)
  let new := tileRow j.fmt (nbits w 56 54) bank.bytes (bytesOf x.1) (if over_ then List.replicate 32 0 else b.accAt r)
  let cols := (List.range 32).map (r * 32 + ·)
  let kept := if over_ then b.accBad.filter fun e => e / 32 ≠ r else b.accBad
  let b1 := { b with
    acc := smPut b.acc r new
    accInt := if intFmt j.fmt then addNew b.accInt [r] else b.accInt.filter (· ≠ r)
    accBad := if x.2 || j.bad then addNew kept cols else kept
    full := if nbit w 52 && nbits w 47 32 ≤ k + span then addNew b.full [r] else b.full }
  b1.mark 1 r j.ins.order

/-- One output of an `MVMUL` with `DST` 0 is written. -/
def Brick.mvWrite (b : Brick) (j : Job) : Brick :=
  let w := j.ins.word
  let r := nbits w 18 10 + j.wr
  let slots := (bitsOf (nbits w 54 47) 8)
  let sums := (j.buf.take (mvBlocks w)).map (·.1)
  let keys := slots.map (r * 8 + ·)
  let val (i sl : Nat) : Nat :=
    sums.foldl (fun a xs => mvAdd a (xs.getD i 0)) (if nbit w 46 then smGet (fun _ => 0) b.rb (r * 8 + sl) else 0)
  let kept := if nbit w 46 then b.rbBad else b.rbBad.filter fun k => !keys.contains k
  let b1 := { b with
    rb := (slots.zipIdx).foldl (fun (m : List (Nat × Nat)) (e : Nat × Nat) => smSet (fun _ => 0) m (r * 8 + e.1) (val e.2 e.1)) b.rb
    rbBad := if j.bad then addNew kept keys else kept
    rbFull := if nbit w 19 then addNew b.rbFull [r] else b.rbFull }
  b1.mark 2 r j.ins.order

/-- The contribution of an `MVMUL` with `DST` 1 (R116). -/
def mvContrib (j : Job) (own : Own) : Contrib :=
  let w := j.ins.word
  let outs := nbits w 29 20
  let slots := bitsOf (nbits w 54 47) 8
  { group := j.group / 4096 * 256 + j.group % 256, outBase := j.out, lanes := outs, slots := nbits w 54 47, bad := j.bad, own := own
    sums := (List.range outs).flatMap fun o => (slots.zipIdx).map fun e =>
      ((j.out + o) * 8 + e.1, (((j.buf.drop (o * mvBlocks w)).take (mvBlocks w)).map (·.1)).foldl (fun a xs => mvAdd a (xs.getD e.2 0)) 0) }

/-- The results of one unit, or of one row, of a `VOP`: patterns and poison. -/
def Brick.vopResult (b : Brick) (j : Job) : List Nat × Bool :=
  let w := j.ins.word
  let f := vFunc w
  let k := j.wr
  let n := if rowFunc f then j.unitsPer else 1
  let per := vPer w
  let first := if rowFunc f then 0 else k * per
  let size := if rowFunc f then j.len else min per (vCount w - k * per)
  let xs := j.buf.take n
  let ys := if twoOperand f then j.buf2.take 1 else []
  let row := ((xs.flatMap fun x => x.1.take per).take size).zipIdx.map fun x =>
    if nbit w 49 then mul32 x.1 (smGet (fun _ => 0) b.scale ((nbits w 47 38 + first + x.2) % 1024)) else x.1
  let o := (ys.headD ([], false)).1
  (if rowFunc f then vecRow j.pb f row o else (row.zipIdx).map fun x => vecElem f x.1 (o.getD x.2 0),
    j.bad || xs.any (·.2) || ys.any (·.2))

/-- The patterns of row k of a `STORE` in its output format, and poison: as they are or, with `ROPE`, of the head that row k is part of. -/
def storeOut (j : Job) : List Nat × Bool :=
  let w := j.ins.word
  let fmt := nbits w 55 53
  let runLen := max 1 (fieldB j.pb 10 2 / 32)
  let out (x : List Nat × Bool) (y : Nat) : Nat :=
    if x.1.headD 0 = 1 then encodeNum fmt (intNum 32 y) else if fmt = 7 then y else convertFmt 7 fmt y
  if nbit w 49 then
    let rows := j.buf.take runLen
    let head := rows.flatMap fun x => x.1.tail.map fun y => if x.1.headD 0 = 1 then encodeNum 7 (intNum 32 y) else y
    let pos := j.buf2.headD ([], false)
    let turned := ((ropeHead j.pb (pos.1.headD 0) head).drop (j.wr % runLen * 32)).take 32
    (turned.map fun y => if fmt = 7 then y else convertFmt 7 fmt y, j.bad || rows.any (·.2) || pos.2)
  else
    let x := j.buf.headD ([], false)
    (x.1.tail.map (out x), j.bad || x.2)

/-- Does a `STORE` fill each byte from two rows (Table 8-6)? A global one then writes both rows in the cycle of the second. -/
def pairsRows (w : Nat) : Bool := nbit w 47 && fmtBits (nbits w 55 53) = 4 && (nbits w 52 50 = 1 || nbits w 52 50 = 5)

/-- The placed elements of row k of a `STORE`. -/
def storePlaced (j : Job) (k : Nat) (vals : List Nat) : List Placed :=
  let w := j.ins.word
  let fmt := nbits w 55 53
  (vals.zipIdx).flatMap fun e => (placeElem (nbits w 52 50) fmt (fun u => j.units.getD u 0) k e.2 e.1).split fmt

/-- A row of a `STORE` is written (R121, R122, R124, R142). -/
def State.storeWrite (s : State) (n : Nat) (j : Job) : State × Job :=
  let w := j.ins.word
  let k := j.wr
  let o := storeOut j
  let runLen := max 1 (fieldB j.pb 10 2 / 32)
  let drop := if nbit w 49 then (if k % runLen = runLen - 1 then runLen else 0) else 1
  let on (t : State) : State × Job := (t, { j with wr := k + 1, buf := j.buf.drop drop, buf2 := j.buf2.drop drop })
  if nbit w 47 then
    match (s.brick n).run with
    | none => (s, j)
    | some r =>
      if pairsRows w && k % 2 = 0 then ((on s).1, { (on s).2 with half := o })
      else
        let before := if pairsRows w then storePlaced j (k - 1) j.half.1 else []
        let runs := byteRuns (placedBytes (fun _ => 0) (before ++ storePlaced j k o.1))
        on (s.storeGlobal n r runs (o.2 || (pairsRows w && j.half.2)))
  else
    let runs := byteRuns (placedBytes (fun a => s.okByte (bedAddr n a)) (storePlaced j k o.1))
    on (runs.foldl (fun t p => (t.bedWrite n j.ins p.1 p.2 o.2).2) s)

/-- The next write of an issued instruction, in its cycle. -/
def State.jobWrite (s : State) (n : Nat) (j : Job) : State × Job :=
  let w := j.ins.word
  let b := s.brick n
  let x := j.buf.headD ([], false)
  let k := j.wr + 1
  if j.eng = 4 then
    let a := j.units.headD 0
    let r := s.bedWrite n j.ins a (bytesOf x.1) false
    (if r.1 then (r.2.poisoned n (some (bedAddr n a))).halt n St.poisonConsumed else r.2, { j with wr := k })
  else match eOp w with
    | 1 => (s.setBrick n { b with banks := b.banks.modify (nbits w 57 57) fun y => { y with bytes := bytesOf x.1, bad := x.2 } },
        { j with wr := k })
    | 2 =>
      let old := b.rowBad (accRow (nbits w 31 22) (nbits w 21 11) j.wr) && (nbit w 53 || nbits w 21 11 ≤ j.wr)
      let m := s.meets n j old none
      (m.1.setBrick n ((m.1.brick n).tileWrite j), { m.2 with wr := k, buf := j.buf.tail })
    | 3 =>
      let count := nbits w 49 38
      let es := ((bitsOf (nbits w 57 50) 8).zipIdx).flatMap fun p => (List.range count).map fun e =>
        (p.1 * 2048 + nbits w 37 27 + e, p.2 * count + e)
      let bad := (j.buf2.headD ([], false)).1
      let bs := bytesOf x.1
      (s.setBrick n { b with
        latch := es.foldl (fun (m : List (Nat × Nat)) (e : Nat × Nat) => smSet (fun _ => 0) m e.1 (fieldB bs (2 * e.2) 2)) b.latch
        latchBad := (b.latchBad.filter fun l => !es.any fun (e : Nat × Nat) => e.1 = l)
          ++ (es.filter fun (e : Nat × Nat) => bad.contains e.2).map (·.1) },
        { j with wr := k })
    | 5 =>
      if j.dst = 0 then
        let r := nbits w 18 10 + j.wr
        let old := nbit w 46 && (bitsOf (nbits w 54 47) 8).any fun sl => b.rbBad.contains (r * 8 + sl)
        let m := s.meets n j old none
        (m.1.setBrick n ((m.1.brick n).mvWrite j), { m.2 with wr := k, buf := j.buf.drop (mvBlocks w) })
      else
        let own := match b.run with | some r => r.own | none => Own.none
        ({ s with bk := { s.bk with arriving := s.bk.arriving ++ [mvContrib j own] } }, { j with wr := k })
    | 6 =>
      let r := b.vopResult j
      let n1 := if rowFunc (vFunc w) then j.unitsPer else 1
      (s.setBrick n { b with vecq := b.vecq ++ r.1.map fun v => (v, r.2) },
        { j with wr := k, buf := j.buf.drop n1, buf2 := j.buf2.tail })
    | 7 =>
      let bs := bytesOf x.1
      let b1 := if nbits w 57 56 = 0 then
          { b with scale := (List.range 1024).foldl (fun m e => smSet (fun _ => 0) m e (fieldB bs (4 * e) 4)) b.scale
                   scaleBad := (j.buf2.headD ([], false)).1 }
        else { b with pblock := bs, pblockBad := x.2 }
      (s.setBrick n (if nbits w 57 56 = 0 then b1 else b1.mark 3 0 j.ins.order), { j with wr := k })
    | _ => s.storeWrite n j

/-! ## A brick's time -/

/-- The next read or write of a brick's issued instructions: its cycle, whether it writes, and its instruction's place. In one cycle reads
come before writes (R143), and what is earlier in program order before what is later. -/
def Brick.nextMove (b : Brick) : Option (Nat × Bool × Nat) :=
  let moves := (b.jobs.zipIdx).flatMap fun p =>
    (if p.1.rd < p.1.reads then [(p.1.readAt p.1.rd, false, p.1.ins.order, p.2)] else [])
      ++ if p.1.wr < p.1.writes then [(p.1.writeAt p.1.wr, true, p.1.ins.order, p.2)] else []
  let before (x y : Nat × Bool × Nat × Nat) : Bool :=
    x.1 < y.1 || (x.1 = y.1 && ((!x.2.1 && y.2.1) || (x.2.1 == y.2.1 && x.2.2.1 < y.2.2.1)))
  (moves.foldl (fun (m : Option (Nat × Bool × Nat × Nat)) x => match m with
    | none => some x
    | some y => if before x y then some x else m) none).map fun x => (x.1, x.2.1, x.2.2.2)

/-- Moves that are left. -/
def Brick.movesLeft (b : Brick) : Nat := b.jobs.foldl (fun n j => n + (j.reads - j.rd) + (j.writes - j.wr)) 0

/-- Make one move of the k-th issued instruction; one that has made all goes. -/
def State.move (s : State) (n k : Nat) (write : Bool) : State :=
  match (s.brick n).jobs[k]? with
  | none => s
  | some j =>
    let r := if write then s.jobWrite n j else s.jobRead n j
    let b := r.1.brick n
    if b.run.isNone then r.1
    else r.1.setBrick n { b with jobs := (b.jobs.set k r.2).filter fun j => j.wr < j.writes }

/-- Make the moves of the cycles before `c`, `fuel` at most; past the cycle in which TRAP halts the item nothing moves. -/
def State.moveTo (s : State) (n c : Nat) : Nat → State
  | 0 => s
  | fuel + 1 =>
    let b := s.brick n
    let lim := match b.run.bind fun r => r.stopAt with
      | some x => min c (x + 1)
      | none => c
    match b.nextMove with
    | none => s
    | some m => if m.1 < lim then (s.move n m.2.2 m.2.1).moveTo n c fuel else s

/-- After an event under TRAP the instructions that have issued go on to the cycle in which the brick halts the item (R147). -/
def State.trap (s : State) (n : Nat) : State :=
  match (s.brick n).run.bind fun r => r.stopAt with
  | none => s
  | some x =>
    let t := s.moveTo n (x + 1) (s.brick n).movesLeft
    if (t.brick n).run.isNone then t else (t.halt n 0x0A01).err .brk n 3

/-- A brick's time comes to cycle `c`: every read and write before it has been made. -/
def State.runTo (s : State) (n c : Nat) : State :=
  let t := s.moveTo n c (s.brick n).movesLeft
  let b := t.brick n
  (t.setBrick n { b with now := max b.now c }).trap n

end Sys2Proof.Machine
end

