-- ==== Sys2Proof/Machine/Engines.lean ====
section
/-! DEFINITION. The rows of the engines of a brick (chapter 4): when an instruction at the head of its queue issues, and inbound
transfers. A row issues the head of its engine's queue in the brick cycle it gives, when that instruction is the row's; a malformed head
halts the item whichever row of its engine meets it (R102). -/

namespace Sys2Proof.Machine

/-- Run a row of engine `e` in cycle `c`: nothing where nothing may issue; a malformed instruction halts; the row's own is given to `body`
with the brick's time at `c`. -/
def State.engineRow (s : State) (n e c : Nat) (is : Nat → Bool) (body : EIns → State → State) : State :=
  match s.head n e c with
  | none => s
  | some _ =>
    let t := s.runTo n c
    match t.head n e c with
    | none => t
    | some i =>
      if !engineWord e i.word then t.engineIllegal n
      else if is i.word then (body i t).trap n
      else t

/-- An instruction issues in cycle `c`: its engine is free again in cycle `free`, and `job` goes on; array words it reads have parity
errors `par`, and `bad` says that a poisoned array word spoils all its outputs. -/
def State.issue (s : State) (n e c free : Nat) (par : List (Nat × Nat)) (bad : Brick → Bool) (job : Job) : State :=
  let t := (s.noteWait n job.ins c).parity n par
  let m := t.meets n job (bad (t.brick n)) none
  m.1.setBrick n ((m.1.brick n).issue e c free (some { m.2 with bad := bad (t.brick n) }))

/-- ISSUE_TIMEOUT (R110): the head of an engine's queue has waited longer than `BRK_ISSUE_TMO`. Time does not count while a stack or a
Quoin die is paused and the brick awaits transfers, which may come from there (R477; DEDUCED, log 73). -/
def execIssueTimeout (brick engine us : Nat) (s : State) : Res :=
  if ((s.brick brick).queues.getD engine []) = [] || (s.anyPaused && (s.brick brick).inbound ≠ []) || us ≤ s.getF F.BRK_ISSUE_TMO_US brick then done s
  else done ((s.halt brick 0x0A02).err .brk brick 1)

/-! ## The tile (R103 to R108) -/

/-- TLOAD (R103): the shadow bank is loaded once no queued or running `TMUL` needs it. -/
def execTload (brick cycle : Nat) (par : List (Nat × Nat)) (s : State) : Res :=
  done (s.engineRow brick 0 cycle (fun w => eOp w = 1) fun i t =>
    let b := t.brick brick
    let wb := nbits i.word 57 57
    if b.lastBank = wb && cycle < b.free.getD 0 0 then t
    else
      let t := t.setBrick brick { b with banks := b.banks.modify wb fun x =>
        { x with fmt := nbits i.word 56 54, ready := cycle + 32, bad := false } }
      t.issue brick 0 cycle (b.free.getD 0 0) par (fun _ => false) { ins := i, eng := 0, t0 := cycle })

/-- TMUL (R104 to R108): it issues once its bank is loaded, its source present and its span free of `FULL` rows. -/
def execTmul (brick cycle : Nat) (par : List (Nat × Nat)) (s : State) : Res :=
  done (s.engineRow brick 0 cycle (fun w => eOp w = 2) fun i t =>
    let w := i.word
    let b := t.brick brick
    let wb := nbits w 57 57
    let af := nbits w 56 54
    let rows := nbits w 47 32
    let bank := b.banks.getD wb {}
    let size := if 5 ≤ af then 64 else 32
    if !tilePair bank.fmt af then t.engineIllegal brick
    else match takeStream (b.fifos.getD 0 []) with
      | none => t
      | some st =>
        if !streamOk st.1 [0] rows size size then t.engineIllegal brick
        else
          let fp := footprint st.1 size
          let span := (List.range (nbits w 21 11)).map (accRow (nbits w 31 22) (nbits w 21 11))
          let start := if b.lastBank = wb then b.free.getD 0 0 else b.free.getD 0 0 + 1
          if cycle < bank.ready || cycle < start || st.1.any (fun d => cycle < d.ready) || !b.presentIn fp
              || span.any b.full.contains then t
          else
            let t := t.setBrick brick { b with fifos := b.fifos.set 0 st.2, lastBank := wb }
            t.issue brick 0 cycle (cycle + rows * tileCycles bank.fmt) par (fun x => (x.banks.getD wb {}).bad)
              { ins := i, eng := 0, t0 := cycle, units := unitsOf st.1, n := rows, lo := fp.1, hi := fp.2, fmt := bank.fmt })

/-! ## The matrix-vector path (R112 to R116) -/

/-- MVLD (R112). -/
def execMvld (brick cycle : Nat) (par : List (Nat × Nat)) (s : State) : Res :=
  done (s.engineRow brick 1 cycle (fun w => eOp w = 3) fun i t =>
    let b := t.brick brick
    let j : Job := { ins := i, eng := 1, t0 := cycle }
    if cycle < b.free.getD 1 0 then t
    else (t.setBrick brick { b with latchReady := j.ends }).issue brick 1 cycle j.ends par (fun _ => false) j)

/-- MVCFG (R113). -/
def execMvcfg (brick cycle : Nat) (s : State) : Res :=
  done (s.engineRow brick 1 cycle (fun w => eOp w = 4) fun i t =>
    let b := (t.noteWait brick i cycle).brick brick
    if cycle < b.free.getD 1 0 then t
    else (t.noteWait brick i cycle).setBrick brick
      { b.issue 1 cycle (b.free.getD 1 0) none with
        mvDst := nbits i.word 57 57, mvGroup := nbits i.word 47 32, mvOut := nbits i.word 31 16 })

/-- MVMUL (R114 to R116): it issues once its latch is loaded, its source present and, with `DST` 0, its outputs free of `FULL`; the next
may follow when its weights have been taken in. -/
def execMvmul (brick cycle : Nat) (par : List (Nat × Nat)) (s : State) : Res :=
  done (s.engineRow brick 1 cycle (fun w => eOp w = 5) fun i t =>
    let w := i.word
    let b := t.brick brick
    let fmt := nbits w 57 55
    let kblk := mvBlocks w
    let outs := nbits w 29 20
    let base := nbits w 18 10
    let size := packBytes fmt 64
    if b.mvDst = 0 && 512 < base + outs then t.engineIllegal brick
    else match takeStream (b.fifos.getD 1 []) with
      | none => t
      | some st =>
        if !streamOk st.1 [0] (outs * kblk) size size then t.engineIllegal brick
        else
          let fp := footprint st.1 size
          if cycle < b.latchReady || cycle < b.free.getD 1 0 || st.1.any (fun d => cycle < d.ready) || !b.presentIn fp
              || (b.mvDst = 0 && b.rbFull.any fun o => base ≤ o && o < base + outs) then t
          else
            let t := t.setBrick brick { b with fifos := b.fifos.set 1 st.2, mvOut := if b.mvDst = 0 then b.mvOut else b.mvOut + outs }
            let used (l : Nat) : Bool := nbit (nbits w 54 47) (l / 2048) && nbits w 45 35 ≤ l % 2048
              && l % 2048 < nbits w 45 35 + 64 * kblk
            t.issue brick 1 cycle (cycle + outs * mvCycles fmt kblk) par (fun x => x.latchBad.any used)
              { ins := i, eng := 1, t0 := cycle, units := unitsOf st.1, n := outs * kblk, lo := fp.1, hi := fp.2
                dst := b.mvDst, group := b.mvGroup, out := b.mvOut })

/-! ## The vector unit (R117 to R120) -/

/-- A parameter block whose fields are out of range (Table 4-9). -/
def badPblock (bs : List Byte) : Bool :=
  let f (o n : Nat) : Nat := fieldB bs o n
  let pos (x : Nat) : Bool := x < 0x7F800000 && 0 < x
  !(0x3F800000 < f 0 4 && f 0 4 < 0x7F800000) || !pos (f 4 4) || f 8 2 % 2 ≠ 0 || f 8 2 < 2 || 256 < f 8 2
    || f 10 2 < f 8 2 || 256 < f 10 2 || 2 ≤ f 12 1 || f 13 3 ≠ 0 || f 16 2 = 0 || 16384 < f 16 2 || f 18 2 ≠ 0
    || !(f 20 4 < 0x7F800000) || (bs.drop 24).any (· ≠ 0)

/-- Does a `VOP`'s second stream match (Table 5-6)? -/
def vbOk (w rows units size : Nat) (st : List SDesc) : Bool :=
  let f := vFunc w
  if !twoOperand f then true
  else if f = 0x14 then streamOk st [0, 3] rows 4 4
  else if f = 0x13 then streamOk st [0] rows 8 8
  else streamOk st [0] units 64 size

/-- Shared part of the `VOP` rows of function `f`. A `VOP` follows the one before it when that has read its operands, and not so soon that
its results would come first (DESIGN CHOICE, log 70). -/
def State.vop (s : State) (n f cycle : Nat) (par : List (Nat × Nat)) : State :=
  s.engineRow n 2 cycle (fun w => eOp w = 6 && vFunc w = f) fun i t =>
    let w := i.word
    let b := t.brick n
    let count := vCount w
    let len := if rowFunc f then fieldB b.pblock 16 2 else count
    let rows := if rowFunc f then count / max 1 len else 1
    let acc := vSrc w = 0
    let units := rows * ((len + vPer w - 1) / vPer w)
    let size := if vSrc w = 1 then 256 else 128
    if rowFunc f && (len = 0 || 16384 < len || count % len ≠ 0) then t.engineIllegal n
    else match takeStream (b.fifos.getD 2 []), (if twoOperand f then takeStream (b.fifos.getD 3 []) else some ([], b.fifos.getD 3 [])) with
      | some va, some vb =>
        if !streamOk va.1 (if acc then [1] else [0]) units (if acc then 1 else 64) (if acc then 1 else size) || !vbOk w rows units size vb.1
        then t.engineIllegal n
        else
          let j : Job := { ins := i, eng := 2, t0 := cycle, units := unitsOf va.1, n := units, aux := unitsOf vb.1
                           lit := (vb.1.headD ⟨0, 0, 0, 0, 0⟩).space = 3, len := len, pb := b.pblock }
          if va.1.any (fun d => cycle < d.ready) || vb.1.any (fun d => cycle < d.ready) || cycle < b.free.getD 2 0
              || j.writeAt 0 ≤ b.idle.getD 2 0 then t
          else
            let used (k : Nat) : Bool := nbit w 49 && (k + 1024 - nbits w 47 38) % 1024 < len
            (t.setBrick n { b with fifos := (b.fifos.set 2 va.2).set 3 vb.2 }).issue n 2 cycle
              (if rowFunc f then cycle + rows * rowCycles len else cycle + units) par
              (fun x => x.scaleBad.any used || (rowFunc f && x.pblockBad)) j
      | _, _ => t

/-- VOP COPY (R117). -/
def execVopCopy (brick cycle : Nat) (par : List (Nat × Nat)) (s : State) : Res := done (s.vop brick 0x00 cycle par)
/-- VOP ADD (R117). -/
def execVopAdd (brick cycle : Nat) (par : List (Nat × Nat)) (s : State) : Res := done (s.vop brick 0x01 cycle par)
/-- VOP MUL (R117). -/
def execVopMul (brick cycle : Nat) (par : List (Nat × Nat)) (s : State) : Res := done (s.vop brick 0x02 cycle par)
/-- VOP MAX (R117). -/
def execVopMax (brick cycle : Nat) (par : List (Nat × Nat)) (s : State) : Res := done (s.vop brick 0x03 cycle par)
/-- VOP RELU (R117). -/
def execVopRelu (brick cycle : Nat) (par : List (Nat × Nat)) (s : State) : Res := done (s.vop brick 0x04 cycle par)
/-- VOP SIGMOID (R117). -/
def execVopSigmoid (brick cycle : Nat) (par : List (Nat × Nat)) (s : State) : Res := done (s.vop brick 0x05 cycle par)
/-- VOP SILU (R117). -/
def execVopSilu (brick cycle : Nat) (par : List (Nat × Nat)) (s : State) : Res := done (s.vop brick 0x06 cycle par)
/-- VOP GELU_TANH (R117). -/
def execVopGeluTanh (brick cycle : Nat) (par : List (Nat × Nat)) (s : State) : Res := done (s.vop brick 0x07 cycle par)
/-- VOP GATE_SILU (R117). -/
def execVopGateSilu (brick cycle : Nat) (par : List (Nat × Nat)) (s : State) : Res := done (s.vop brick 0x08 cycle par)
/-- VOP EXP (R117). -/
def execVopExp (brick cycle : Nat) (par : List (Nat × Nat)) (s : State) : Res := done (s.vop brick 0x09 cycle par)
/-- VOP RECIP (R117). -/
def execVopRecip (brick cycle : Nat) (par : List (Nat × Nat)) (s : State) : Res := done (s.vop brick 0x0A cycle par)
/-- VOP RSQRT (R117). -/
def execVopRsqrt (brick cycle : Nat) (par : List (Nat × Nat)) (s : State) : Res := done (s.vop brick 0x0B cycle par)
/-- VOP LNORM (R117). -/
def execVopLnorm (brick cycle : Nat) (par : List (Nat × Nat)) (s : State) : Res := done (s.vop brick 0x10 cycle par)
/-- VOP RMSNORM (R117). -/
def execVopRmsnorm (brick cycle : Nat) (par : List (Nat × Nat)) (s : State) : Res := done (s.vop brick 0x11 cycle par)
/-- VOP NSTAT (R117). -/
def execVopNstat (brick cycle : Nat) (par : List (Nat × Nat)) (s : State) : Res := done (s.vop brick 0x12 cycle par)
/-- VOP NAPPLY (R117). -/
def execVopNapply (brick cycle : Nat) (par : List (Nat × Nat)) (s : State) : Res := done (s.vop brick 0x13 cycle par)
/-- VOP ROPE (R119). -/
def execVopRope (brick cycle : Nat) (par : List (Nat × Nat)) (s : State) : Res := done (s.vop brick 0x14 cycle par)

/-- Shared part of the `VCFG` rows (R118). A parameter block whose fields Table 4-9 refuses is refused under R102 (DEDUCED, log 70). -/
def State.vcfg (s : State) (n what cycle : Nat) (par : List (Nat × Nat)) : State :=
  s.engineRow n 2 cycle (fun w => eOp w = 7 && nbits w 57 56 = what) fun i t =>
    let b := t.brick n
    let j : Job := { ins := i, eng := 2, t0 := cycle }
    if cycle < b.free.getD 2 0 || cycle ≤ b.idle.getD 2 0 then t
    else if what = 1 && badPblock (t.okBytes (bedAddr n (nbits i.word 18 0)) 64) then t.engineIllegal n
    else t.issue n 2 cycle j.ends par (fun _ => false) j

/-- VCFG with WHAT 0 (R118). -/
def execVcfgScaleTable (brick cycle : Nat) (par : List (Nat × Nat)) (s : State) : Res := done (s.vcfg brick 0 cycle par)

/-- VCFG with WHAT 1 (R118). -/
def execVcfgParameterBlock (brick cycle : Nat) (par : List (Nat × Nat)) (s : State) : Res := done (s.vcfg brick 1 cycle par)

/-! ## The store path (R121 to R125, R142, R166, R167, R233) -/

/-- Does every element of a `STORE` to the Bed stand within it? -/
def storeFits (layout fmt rows cols : Nat) (units : List Nat) : Bool :=
  (List.range rows).all fun i => [0, cols - 1].all fun j =>
    let e := elemAt layout fmt (fun u => units.getD u 0) i j
    e.1 + e.2 ≤ 2 ^ 19

/-- STORE: it waits for its streams and, with `SRC` 1, for its elements to stand in the vector queue; with `ROPE` 1 it reads the
parameter block as it issues. -/
def execStore (brick cycle : Nat) (par : List (Nat × Nat)) (s : State) : Res :=
  done (s.engineRow brick 3 cycle (fun w => eOp w = 8) fun i t =>
    let w := i.word
    let b := t.brick brick
    let fmt := nbits w 55 53
    let layout := nbits w 52 50
    let rope := nbit w 49
    let rows := nbits w 46 31
    let cols := nbits w 20 15
    match takeStream (b.fifos.getD 4 []), (if rope then takeStream (b.fifos.getD 5 []) else some ([], b.fifos.getD 5 [])) with
    | some sd, some sp =>
      let units := unitsOf sd.1
      if !streamOk sd.1 (if nbit w 47 then [2] else [0]) rows (unitAlign layout fmt) 1
          || (rope && !streamOk sp.1 [0, 3] rows 4 4) || storeBad layout fmt rows cols rope (fieldB b.pblock 10 2) units
          || (!nbit w 47 && !storeFits layout fmt rows cols units) then t.engineIllegal brick
      else if sd.1.any (fun d => cycle < d.ready) || sp.1.any (fun d => cycle < d.ready) || cycle < b.free.getD 3 0
          || (nbits w 57 56 = 1 && b.vecq.length < rows * cols) then t
      else
        let t := if rope then t.watch brick 3 i 3 0 cycle else t
        let b := t.brick brick
        (t.setBrick brick { b with fifos := (b.fifos.set 4 sd.2).set 5 sp.2 }).issue brick 3 cycle (cycle + rows) par
          (fun x => rope && x.pblockBad)
          { ins := i, eng := 3, t0 := cycle, units := units, n := rows, aux := unitsOf sp.1
            lit := (sp.1.headD ⟨0, 0, 0, 0, 0⟩).space = 3, pb := if rope then b.pblock else [] }
    | _, _ => t)

/-! ## Inbound transfers (R100, R109) -/

/-- INBOUND_ADMIT: the transfer clears `PRESENT` of its segments, and is held while an issued product still reads there. -/
def execInboundAdmit (brick off : Nat) (data : List Byte) (bad : List Nat) (cycle : Nat) (s : State) : Res :=
  if data = [] || 2 ^ 19 < off + data.length then done s
  else
    let t := s.runTo brick cycle
    done (t.setBrick brick ((t.brick brick).takeInbound { off := off, data := data, held := false, bad := bad }))

/-- INBOUND_LANDED: the k-th transfer lands in a cycle in which nothing holds it; a segment with no other transfer under way becomes
present. -/
def execInboundLanded (brick k cycle : Nat) (s : State) : Res :=
  let t := s.runTo brick cycle
  let b := t.brick brick
  match b.inbound[k]? with
  | none => done t
  | some x =>
    if x.held && b.readsIn x.off x.data.length then done t
    else
      let r := (t.setBrick brick (b.landed k)).perform
        { op := 1, addr := bedAddr brick x.off, len := x.data.length, data := x.data.map some, bad := x.bad.map (bedAddr brick ·) }
      done (match x.ticket with
        | some id => r.2.2.pieceServed id r.1 (bedAddr brick x.off) []
        | none => r.2.2)

end Sys2Proof.Machine
end

