-- ==== Sys2Proof/Machine/Partitions.lean ====
section
/-! DEFINITION. Partitions (chapter 10): their states, what they hold, and the partition reset (R274 to R278, R447, R465). -/

namespace Sys2Proof.Machine

/-- The state of a partition (Table 10-2). -/
def State.partState (s : State) (p : Nat) : Nat := s.getF F.PRT_STATE_STATE p

/-- Move a partition to a state. -/
def State.setPartState (s : State) (p st : Nat) : State := s.setF F.PRT_STATE_STATE st p

/-! ## Work that is dropped -/

/-- Drop what bank units, Hod engines, stack reducers, slabs, regulators and links hold of some owners; what is sent is answered to no
one, and accesses held at a bank that stops computing are served. -/
def State.dropWork (s : State) (f : Own → Bool) : State :=
  let runs := s.bk.runs.filter fun e => f e.2.pass.own
  let ours (k : Asker) : Bool := match k with
    | .read id _ => f (.cmd id)
    | _ => k.owners.any f
  let asked (m : QMsg) : Bool := match m.use with
    | .ack k => ours k
    | .read id => f (.cmd id)
    | .flag id => f (.cmd id)
    | .bed _ _ o _ => f o
    | _ => false
  let t : State := { s with
    bk := { s.bk with
      lists := (s.bk.lists.map fun e => (e.1, e.2.filter fun d => !f d.own)).filter fun e => e.2 ≠ []
      work := (s.bk.work.map fun e => (e.1, e.2.filter fun w => match w with
        | .pass p => !f p.own
        | .latch l => !f l.own)).filter fun e => e.2 ≠ []
      runs := s.bk.runs.filter fun e => !f e.2.pass.own
      arriving := s.bk.arriving.filter fun c => !f c.own }
    yd := { s.yd with waiting := s.yd.waiting.filter fun q => !ours q.asker }
    pt := { s.pt with owed := s.pt.owed.filter fun e => !f e.own }
    lk := { s.lk with
      links := s.lk.links.map fun e => (e.1, { e.2 with waiting := e.2.waiting.filter fun m => !asked m })
      held := s.lk.held.filter fun m => !asked m
      unpaid := s.lk.unpaid.filter fun m => !asked m } }
  let t := runs.foldl (fun u e => (e.2.held.foldl (fun v h => v.serveHeld e.1 h) u).latchesLoad e.1) t
  t.closeGroups f

/-- Does a piece of work belong to a partition? -/
def State.ownedWork (s : State) (p : Nat) (o : Own) : Bool :=
  match o with
  | .none => false
  | .cmd id => (match s.cmdOf id with
    | some c => c.part = p
    | none => false)
  | .step n _ => (match s.stepOf n with
    | some x => x.part = p
    | none => false)

/-- A walk stops without a fault: its engine shows it no longer. -/
def State.stopWalk (s : State) (w : Walk) : State :=
  let t := s.dropWalk w
  (if t.sv.walks.any fun x => x.hod = w.hod then t else t.setFlag F.HOD_CUR_SEQ_VALID false w.hod).hodFreed w.hod

/-- A brick's work item stops without a status. -/
def State.stopBrick (s : State) (n : Nat) : State := (s.setBrick n (s.brick n).flush).brickFreed n

/-- Every admitted step and command of a partition is halted, without records (R446, R447). -/
def State.haltPart (s : State) (p : Nat) : State :=
  let owned := s.ownedWork p
  let bricks := (s.br.filter fun e => match e.2.run with
    | some r => r.part = p
    | none => false).map fun e => e.1
  let t := bricks.foldl State.stopBrick s
  let t := (t.sv.walks.filter fun w => w.part = p).foldl State.stopWalk t
  let t := (t.dropWork owned).flushOwn owned
  let t := (t.sv.steps.filter fun x => x.part = p).foldl State.dropStep t
  let cs := t.qu.cmds.filter fun c => c.part = p
  let t := cs.foldl (fun u c => u.giveWork c.units) t
  let ids := cs.map fun c => c.id
  let t := (t.pt.leavingBricks.filter fun e => e.2 = p).foldl (fun u e => match u.physOf e.1 with
    | some n => u.brickFreed n
    | none => u) t
  let t := (t.pt.leavingHods.filter fun e => e.2 = p).foldl (fun u e => u.hodFreed e.1) t
  { t with
    qu := { t.qu with cmds := t.qu.cmds.filter fun c => c.part ≠ p
                      recs := t.qu.recs.filter fun r => r.part ≠ p
                      reserved := t.qu.reserved.filter fun e => e.1 / 8 ≠ p }
    sv := { t.sv with edits := t.sv.edits.filter fun e => !ids.contains e.cmd } }

/-! ## Model slots and their granules (R416, step 1) -/

/-- The granules that a slot's load committed to it. -/
def State.slotGranules (s : State) (m : Nat) : List Nat :=
  let e := s.mslot m
  (s.bk.regions.filter fun r => e.base ≤ r.1 * 2 ^ 26 && r.1 * 2 ^ 26 < e.base + e.area && !nbit r.2 61 && nbits r.2 52 47 = m).map
    fun r => r.1

/-- The granules of a slot return to Guarded, with `MUTABLE` 1 and `HASHED` 0; their contents stay. -/
def State.slotGuard (s : State) (m : Nat) : State :=
  let gs := s.slotGranules m
  let t := gs.foldl (fun t g => t.putRegion g (nsetBit (nsetBit (t.regionRaw g % 2 ^ 62) 61 true) 60 false)) s
  { t with it := { t.it with reloads := t.it.reloads.filter fun e => !gs.contains (granule e.1) } }

/-- A slot becomes `EMPTY`; its `GEN` stays. -/
def State.slotEmpty (s : State) (m : Nat) : State := (((s.slotGuard m).setMslot m { gen := (s.mslot m).gen })).journalClose 4 m

/-! ## What a partition owns -/

/-- Yard blocks a partition owns, from the block table. -/
def State.ownedBlocks (s : State) (p : Nat) : List Nat :=
  (s.regs.filterMap fun e => if e.1 / 0x8000 / 0x4000 = A.YRD_BENTRY then some (e.1 % 0x8000) else none).filter
    fun b => s.blockOwner b = some p

/-- Granules a partition owns. -/
def State.ownedGranules (s : State) (p : Nat) : List Nat :=
  (s.bk.regions.filter fun e => nbit e.2 58 && nbits e.2 57 53 = p).map fun e => e.1

/-- Does a partition hold any sequence entry, model slot or adapter slot (R277)? -/
def State.holdsEntries (s : State) (p : Nat) : Bool :=
  s.sv.seqs.any (fun e => e.2.st ≠ 0 && e.2.part = p) || s.sv.mslots.any (fun e => e.2.st ≠ 0 && e.2.part = p)
    || s.sv.aslots.any fun e => e.2.live ≠ [] && e.2.part = p

/-- The parameter registers of a partition read zero. -/
def State.clearParams (s : State) (p : Nat) : State :=
  { s with regs := s.regs.filter fun e =>
      !((e.1 / 0x8000 / 0x4000 = A.PRT_PVAL_LO || e.1 / 0x8000 / 0x4000 = A.PRT_PVAL_HI) && e.1 / 0x8000 % 0x4000 = p) }

/-- A measurement register returns to zero. -/
def State.clearMeas (s : State) (k : Nat) : State := { s with ks := { s.ks with meas := smDel s.ks.meas k } }

/-- A partition's key is unbound; an entry that no partition binds is freed (R460, R465). -/
def State.unbindKey (s : State) (p : Nat) : State :=
  if !s.flag F.PRT_OWNER_BOUND p then s
  else
    let k := s.getF F.PRT_OWNER_KEY p
    let t := (s.setReg A.PRT_OWNER 0 p).setBit (F.KST_KEYSTAT_PARTS.nth k) p false
    if t.getF (F.KST_KEYSTAT_PARTS.nth k) ≠ 0 then t
    else
      let u : State := { t with ks := { t.ks with ownerKeys := smDel t.ks.ownerKeys k } }
      (List.range 8).foldl (fun u i => u.setReg (A.KST_KEYHASH + 32 * k + 4 * i) 0) u

/-- Every right that a partition's entry of the grant table gives is withdrawn. -/
def State.clearGrants (s : State) (p : Nat) : State :=
  (List.range 8).foldl (fun t i => t.setReg (A.KST_GRANT + 32 * p + 4 * i) 0) s

/-- The import entries of the links that admit requests to a partition are cleared, with the grants they came from (R468). -/
def State.clearImports (s : State) (p : Nat) : State :=
  let t := (List.range 64).foldl (fun t l => (List.range 32).foldl (fun u k =>
    if u.flag F.QLK_IMPORT_VALID l k && u.getF F.QLK_IMPORT_LOCAL_PART l k = p then u.setReg A.QLK_IMPORT 0 l k else u) t) s
  { t with ks := { t.ks with imports := t.ks.imports.filter fun g => g.part ≠ p } }

/-! ## Assignments (R274 to R276) -/

/-- A logical brick carries work of a partition: placed on it, or running. -/
def State.brickBusy (s : State) (p l : Nat) : Bool :=
  s.sv.steps.any (fun x => x.part = p && x.items.any fun i => !i.ended && i.brick = some l)
    || (match s.physOf l with
      | some n => (s.brick n).run.isSome
      | none => false)

/-- A brick leaves a pool: at once, or when its work item ends. -/
def State.brickLeaves (s : State) (p l : Nat) : State :=
  if s.brickBusy p l then { s with pt := { s.pt with leavingBricks := smPut s.pt.leavingBricks l p } }
  else match s.physOf l with
    | some n => ({ s with pt := { s.pt with wasIn := smPut s.pt.wasIn n p } } : State).bumpGen .brk n
    | none => s

/-- A brick joins a pool; one that another partition last held is cleared first (R131). -/
def State.brickJoins (s : State) (p l : Nat) : State :=
  let t : State := { s with pt := { s.pt with leavingBricks := smDel s.pt.leavingBricks l } }
  match t.physOf l with
  | none => t
  | some n =>
    let other := t.pt.wasIn.any fun e => e.1 = n && e.2 ≠ p
    ({ t with pt := { t.pt with
      wasIn := smDel t.pt.wasIn n
      clearing := if other && !t.pt.clearing.contains n then t.pt.clearing ++ [n] else t.pt.clearing } } : State).bumpGen .brk n

/-- Would bricks `[f, f + c)` give a brick to two partitions at once? -/
def State.poolTaken (s : State) (p f c : Nat) : Bool :=
  ((List.range 32).any fun q => q ≠ p && (List.range 8).any fun k =>
      let g := s.getF (F.PRT_POOL_FIRST.nth k) q
      let n := s.getF (F.PRT_POOL_COUNT.nth k) q
      0 < n && 0 < c && g < f + c && f < g + n)
    || s.pt.leavingBricks.any fun e => e.2 ≠ p && f ≤ e.1 && e.1 < f + c

/-- `PRT_POOLk` takes a value: bricks leave and join the pool. -/
def State.poolSet (s : State) (p k v : Nat) : State :=
  let f := nbits v 31 18
  let c := nbits v 17 4
  let f0 := s.getF (F.PRT_POOL_FIRST.nth k) p
  let c0 := s.getF (F.PRT_POOL_COUNT.nth k) p
  let t := s.setReg (A.PRT_POOL + 4 * k) (BitVec.ofNat 32 (v / 16 * 16)) p
  let gone := ((List.range c0).map (f0 + ·)).filter fun l => s.inPool p l && !t.inPool p l
  let came := ((List.range c).map (f + ·)).filter fun l => t.inPool p l && !s.inPool p l
  let u := gone.foldl (fun u l => u.brickLeaves p l) t
  came.foldl (fun u l => u.brickJoins p l) u

/-- A write of `PRT_POOLk`, refused where a brick has another pool or the committed cycle table no longer fits (R274, R276). -/
def State.poolAssign (s : State) (p k v : Nat) : State :=
  let t := s.setReg (A.PRT_POOL + 4 * k) (BitVec.ofNat 32 (v / 16 * 16)) p
  if s.poolTaken p (nbits v 31 18) (nbits v 17 4) || !t.cycleFits p then s.err .prt p 0 else s.poolSet p k v

/-- A write of `PRT_BGRPk`: groups another partition holds, absent ones and a removal outside `CONFIG` are refused. -/
def State.bgrpAssign (s : State) (p k v : Nat) : State :=
  let old := s.getF (F.PRT_BGRP_GROUPS.nth k) p
  let taken := (List.range 32).any fun q => q ≠ p && (s.getF (F.PRT_BGRP_GROUPS.nth k) q &&& v) ≠ 0
  let t := s.setReg (A.PRT_BGRP + 4 * k) (BitVec.ofNat 32 v) p
  if taken || (s.dv.gradeC && k = 3 && v ≠ 0) || ((old &&& v) ≠ old && s.partState p ≠ 1) || !t.cycleFits p then s.err .prt p 1
  else t

/-- The Hod engines of a half as a partition holds them. -/
def hodField (half : Nat) : Fld := if half = 0 then F.PRT_HOD_LO_ENGINES else F.PRT_HOD_HI_ENGINES

/-- `PRT_HOD_LO` or `_HI` takes a value: engines leave and join the partition. -/
def State.hodSet (s : State) (p half v : Nat) : State :=
  let old := s.getF (hodField half) p
  let busy (h : Nat) : Bool := smGet (fun _ => []) s.bk.lists h ≠ [] || s.sv.walks.any fun w => w.hod = h
  let changed := (List.range 32).filter fun i => nbit old i != nbit v i
  changed.foldl (fun u i =>
    let h := 32 * half + i
    let w : State := if nbit v i then { u with pt := { u.pt with leavingHods := u.pt.leavingHods.filter fun e => e.1 ≠ h } }
      else if busy h then { u with pt := { u.pt with leavingHods := u.pt.leavingHods ++ [(h, p)] } } else u
    w.bumpGen .hod h) (s.setReg (if half = 0 then A.PRT_HOD_LO else A.PRT_HOD_HI) (BitVec.ofNat 32 v) p)

/-- A write of `PRT_HOD_LO` or `_HI`, refused where another partition holds an engine or the committed cycle table no longer fits. -/
def State.hodAssign (s : State) (p half v : Nat) : State :=
  let taken := ((List.range 32).any fun q => q ≠ p && (s.getF (hodField half) q &&& v) ≠ 0)
    || s.pt.leavingHods.any fun e => e.2 ≠ p && e.1 / 32 = half && nbit v (e.1 % 32)
  let t := s.setReg (if half = 0 then A.PRT_HOD_LO else A.PRT_HOD_HI) (BitVec.ofNat 32 v) p
  if taken || !t.cycleFits p then s.err .prt p 2 else s.hodSet p half v

/-- A write of `PRT_MODE`: ignored outside `CONFIG` (R278). -/
def State.modeWrite (s : State) (p v : Nat) : State := if s.partState p = 1 then s.setF F.PRT_MODE_LIVE v p else s

/-! ## `PRT_CMD` (R277) -/

/-- `CREATE`: parameter registers read zero, and a binding that survived a warm reset is kept and measured (R465). -/
def State.partCreate (s : State) (p : Nat) : State :=
  let t := (s.clearParams p).setPartState p 1
  if t.flag F.PRT_OWNER_BOUND p then t.measure (8 + p) (0x14#8 :: leBytes t.dv.warmResets 4) else t

/-- `RELEASE`: what the partition holds returns unowned; Yard blocks keep their kind and are zeroed, granules are filled. -/
def State.partRelease (s : State) (p : Nat) : State :=
  let t := s.clearExpired p
  let t := (List.range 8).foldl (fun u k => u.poolSet p k 0) t
  let t := (List.range 4).foldl (fun u k => u.setReg (A.PRT_BGRP + 4 * k) 0 p) t
  let t := (t.hodSet p 0 0).hodSet p 1 0
  let t := (t.ownedBlocks p).foldl (fun u b => u.bentryWrite b (u.blockKind b * 2 ^ 30)) t
  let t := (t.ownedGranules p).foldl (fun (u : State) g =>
    { u with bk := { u.bk with fills := smPut u.bk.fills g (putField (u.regionRaw g) 58 53 0) } }) t
  (((((t.unbindKey p).clearGrants p).setReg (A.KST_GCOUNT + 4 * p) 0).clearImports p).clearMeas (8 + p)).setPartState p 0

/-- A write of `PRT_CMD`; `trowel` says that a Trowel core wrote it. -/
def State.prtCmd (s : State) (p op : Nat) (trowel : Bool) : State :=
  let st := s.partState p
  if op = 1 && trowel && st = 0 then s.partCreate p
  else if op = 2 && st = 1 then s.setPartState p 2
  else if op = 3 && st = 2 then (s.setPartState p 3).stepsTick p
  else if op = 4 && trowel && st = 1 && !s.holdsEntries p then s.partRelease p
  else s.setFlag F.PRT_STATE_FAIL true p

/-- DRAIN_COMPLETE (Table 10-2): no admitted step remains. -/
def execDrainComplete (part : Nat) (s : State) : Res :=
  done (if s.partState part = 3 && !(s.sv.steps.any fun x => x.part = part) then s.setPartState part 1 else s)

/-! ## The partition reset (R447) -/

/-- The tables of a partition are emptied: its sequences, slots, pool, prefix index, templates and parameters (R447, 3 to 5). -/
def State.clearServing (s : State) (p : Nat) : State :=
  let t := (s.sv.seqs.filter fun e => e.2.part = p).foldl (fun u e => u.setSeq e.1 e.2.freed) s
  let t := (t.sv.mslots.filter fun e => e.2.part = p).foldl (fun u e => u.slotEmpty e.1) t
  let t := (t.sv.aslots.filter fun e => e.2.part = p).foldl (fun u e => u.setAslot e.1 {}) t
  let t := ((t.setF F.SEQ_POOL_HEAD_INDEX (t.getF F.SEQ_POOL_TAIL_INDEX p) p).setPool p 0).setIndex p []
  let t := ((t.setReg A.SEQ_PFX_HITS 0 p).setReg A.SEQ_PFX_MISSES 0 p).setReg A.SEQ_PFX_EVICTS 0 p
  ({ t with sv := { t.sv with removed := t.sv.removed.filter fun e => e.1 ≠ p
                              tpls := t.sv.tpls.filter fun e => e.1 / 4096 ≠ p } } : State).clearParams p

/-- The WORK blocks of a partition are zeroed, and with them its expiry list. -/
def State.zeroWork (s : State) (p : Nat) : State :=
  let t := ((s.ownedBlocks p).filter fun b => s.blockKind b = 2).foldl (fun u b => u.fillZero (yardBase + b * 65536) 65536) s
  t.clearExpired p

/-- A partition reset: ignored in `UNUSED` and while a warm reset runs (R449). -/
def State.partReset (s : State) (p : Nat) : State :=
  if s.partState p = 0 || s.dv.st = .warmReset then s
  else
    let t := s.haltPart p
    let t := (List.range 8).foldl (fun u q =>
      (u.setFlag F.PRT_QCTRL_ENABLE false p q).setF F.PRT_QADMIT_INDEX (u.getF F.PRT_QHEAD_INDEX p q) p q) t
    ((t.clearServing p).zeroWork p).setPartState p 1

end Sys2Proof.Machine
end

