-- ==== Sys2Proof/Machine/Power.lean ====
section
/-! DEFINITION. The package: input voltage, power sequencer, service connector, power status word and shutdowns (chapter 1,
with R437, R445 and R494). -/

namespace Sys2Proof.Machine

/-- The rails are on or ramping. -/
def State.railsUp (s : State) : Bool := s.pw.pwrState == 1 || s.pw.pwrState == 2

/-- `THERM_ALERT_N` is low while Kiln requests a reduction or a clamp acts (Table 1-7, R489, R493). -/
def State.thermAlert (s : State) : Bool := s.getF F.KLN_NEAR_REGION != 0 || s.getF F.KLN_CLAMP_ACTIVE != 0

/-- The Footing as it stands after a loss of power: only `SEALED` entries survive, no page is partly programmed (R19, R413). -/
def Footing.afterPowerLoss (f : Footing) : Footing :=
  let kept (i : Nat) : Bool := f.dir.any fun e => e.1 = i && e.2.state = 3
  { dir := f.dir.map (fun e => (e.1, if e.2.state = 3 then { e.2 with busy := false, fail := false, status := 0 }
      else { gen := e.2.gen })) |>.filter fun e => e.2 ≠ {}
    data := f.data.filter (fun e => kept (e.1 / 2 ^ 44 % 4096)), programmed := f.programmed.filter (fun u => kept (u / 2 ^ 32))
    certs := f.certs, deadDies := f.deadDies, pendComps := f.pendComps, oldImg := f.oldImg, brickRecord := f.brickRecord, sparesUsed := f.sparesUsed, repairRecord := f.repairRecord }

/-- Every piece of volatile state lost (R19, R445): what is left are the queue of waiting commands, the pins and the
sequencer, the fuses, the Footing, and the record of what left the block. -/
def State.volatileLost (s : State) : State :=
  { pending := s.pending, now := s.now, freeCount := s.freeCount, out := s.out, pw := s.pw, ftg := s.ftg.afterPowerLoss,
    dv := { gradeC := s.dv.gradeC, devNum := s.dv.devNum, rootHash := s.dv.rootHash, footingSeed := s.dv.footingSeed, arb := s.dv.arb } }

/-- A shutdown (R18 to R20, R22, R27, R31, R494): all rails fall, volatile state is lost, the cause is latched and
`THERM_TRIP_N` stays low until `PWR_EN` falls. -/
def State.shutdown (s : State) (cause : Nat) : State :=
  s.volatileLost.setPw { s.pw with
    pwrState := 4, cause := cause, pwrGood := false, svc3v3 := false, thermTripN := false }

/-- The coolant allows leaving power-up (Table 1-5). -/
def coolantOk (flow tInlet : Nat) : Bool := 40 ≤ flow && tInlet ≤ 96

/-- The four rail groups ramp in order and the device enters `BOOT` (R436, R437). -/
def State.railsRise (s : State) : State :=
  let s1 := s.setPw { s.pw with pwrState := 2, pwrGood := true, svc3v3 := true }
  { s1 with dv := { s1.dv with st := .boot } }

/-- POWER_UP (R18, R437): `PWR_EN` is high. From 30 V the sequencer runs and measures; at 39.0 V rising power-up begins, held at
`PWR_STATE` 1 while the coolant forbids leaving it. -/
def execPowerUp (vin flow tInlet : Nat) (s : State) : Res :=
  if 1500 ≤ vin && s.pw.vinPrsnt && !s.railsUp then
    let s1 := ({ s with pw := { s.pw with pwrEn := true } } : State).senseInput vin flow tInlet
    if 1950 ≤ vin then
      let s2 := s1.setPw { s1.pw with pwrState := 1 }
      done (if coolantOk flow tInlet then s2.railsRise else s2)
    else done s1
  else done s

/-- COOLANT_HOLD_RELEASE (R22): the coolant returns within range and power-up continues. -/
def execCoolantHoldRelease (flow tInlet : Nat) (s : State) : Res :=
  if s.pw.pwrState = 1 && coolantOk flow tInlet then
    done (s.senseInput s.pw.vin flow tInlet).railsRise
  else done s

/-- INPUT_LOSS_SHUTDOWN (R18): below 37.0 V for 20 µs. -/
def execInputLossShutdown (vin us : Nat) (s : State) : Res :=
  if s.railsUp && vin < 1850 && 20 ≤ us then done ((s.setPw { s.pw with vin := vin }).shutdown 0x01) else done s

/-- OVERVOLTAGE_SHUTDOWN (R18): above 60 V for 20 µs; the input stage disconnects. -/
def execOvervoltageShutdown (vin us : Nat) (s : State) : Res :=
  if s.railsUp && 3000 < vin && 20 ≤ us then done ((s.setPw { s.pw with vin := vin }).shutdown 0x02) else done s

/-- INPUT_POWER_SAMPLE (R20, R29): the sequencer's 1 µs measurement while `PWR_EN` is high and the input at least 30 V; with
the rails on, an average above 6.5 kW starts the hardware clamp. -/
def execInputPowerSample (w1us w1ms vin flow tInlet now : Nat) (s : State) : Res :=
  if s.pw.pwrEn && 1500 ≤ vin then
    let s1 := (s.at now).senseInput vin flow tInlet
    let s2 := (s1.setPw { s1.pw with pin := min (w1ms / 2) 4095 }).note powerRegion 3 (w1ms < 6200)
    done (if s.railsUp && 6500 < w1us then s2.clampOn powerRegion else s2)
  else done s

/-- POWER_LIMIT_SHUTDOWN (R20): still above 6.8 kW over 1 ms. -/
def execPowerLimitShutdown (w1ms : Nat) (s : State) : Res :=
  if s.railsUp && 6800 < w1ms then done ((s.setPw { s.pw with pin := min (w1ms / 2) 4095 }).shutdown 0x03) else done s

/-- COOLANT_SHUTDOWN (R22): out of range for 100 ms while running. -/
def execCoolantShutdown (flow tInlet ms : Nat) (s : State) : Res :=
  if s.pw.pwrState = 2 && !coolantOk flow tInlet && 100 ≤ ms then
    done ((s.senseInput s.pw.vin flow tInlet).shutdown 0x06)
  else done s

/-- VIN_PRSNT_OPEN (R21): the hot-swap stage disconnects the input; a running device then loses its input. -/
def execVinPrsntOpen (s : State) : Res :=
  let s1 := s.setPw { s.pw with vinPrsnt := false }
  done (if s.railsUp then s1.shutdown 0x01 else s1)

/-- VIN_PRSNT_MATE (R21): the hot-swap stage stops holding the input disconnected. -/
def execVinPrsntMate (s : State) : Res := done (s.setPw { s.pw with vinPrsnt := true })

/-- EMERG_OFF (R27): low for 1 µs turns the rails off. -/
def execEmergOff (us : Nat) (s : State) : Res :=
  if s.railsUp && 1 ≤ us then done (s.shutdown 0x04) else done s

/-- PWR_EN_FALL (R27, R29): no new page program starts, those begun complete, the rails go off; the latched status word
ends and `THERM_TRIP_N` is released. -/
def execPwrEnFall (s : State) : Res :=
  let p := { s.pw with
    pwrEn := false, pwrState := 0, cause := 0, pwrGood := false, svc3v3 := false,
    thermTripN := true }
  if s.railsUp then done (s.volatileLost.setPw p) else done (s.setPw p)

/-- INPUT_BELOW_30_V (R18, R29): nothing runs and the latched power status word is lost. DESIGN CHOICE (log entry 61): Table 1-3
also lets the package ride through a dip of less than 20 µs; this row is the input that stays below 30 V. -/
def execInputBelow30V (vin : Nat) (s : State) : Res :=
  if vin < 1500 then
    done (s.volatileLost.setPw { s.pw with
      vin := vin, pwrState := 0, cause := 0, pin := 0, flow := 0, tInlet := 0, tjMax := 0, pwrGood := false, svc3v3 := false,
      thermTripN := true })
  else done s

/-- REFERENCE_LOST (R31): stopped, or off by more than 1,000 ppm, for 2 µs. -/
def execReferenceLost (stopped : Bool) (ppm us : Nat) (s : State) : Res :=
  if s.railsUp && (stopped || 1000 < ppm) && 2 ≤ us then done (s.shutdown 0x05) else done s

/-- THERMAL_TRIP (R494): a region at its trip temperature on every sample for 1 ms. -/
def execThermalTrip (region now : Nat) (s : State) : Res :=
  let t := s.at now
  if t.railsUp && t.regionPresent region && t.readingAtLeast region (tripAt region) && t.heldFor region 4 1000000 then
    done (t.shutdown 0x07)
  else done t

/-- A cold reset (R445): every volatile state is cleared; the rails, the status word, the fuses, the Footing and the
identity of R439 stay; the device re-enters `BOOT`. -/
def State.coldReset (s : State) : State :=
  let t := s.volatileLost
  { t with dv := { t.dv with st := .boot, identity := s.dv.identity } }

/-- COLD_RESET (R27, R445): the pin low for 1 µs with the rails on, or Keystone at the supervisor duty's request. -/
def execColdReset (byPin : Bool) (us : Nat) (s : State) : Res :=
  if s.pw.pwrState = 2 && s.dv.st ≠ .off && s.pw.pwrEn && (if byPin then 1 ≤ us else s.dutyServed 0) then
    done (s.coldReset.setPw { s.pw with coldResetN := s.pw.coldResetN && !byPin })
  else done s

/-- COLD_RESET_N_RISE (R445): boot resumes. -/
def execColdResetNRise (s : State) : Res := done (s.setPw { s.pw with coldResetN := true })

/-- POWER_STATUS_READ (R29): the sequencer answers at its strapped address while `PWR_EN` is high and the input at least
30 V; the read releases `SMB_ALERT_N`. -/
def execPowerStatusRead (addr cmd : Nat) (s : State) : Res :=
  if s.pw.pwrEn && 1500 ≤ s.pw.vin && cmd = 0
      && addr = 0x60 + 2 * (if s.pw.smbAddr1 then 1 else 0) + (if s.pw.smbAddr0 then 1 else 0) then
    done (({ s with pw := { s.pw with wordChanged := false } } : State).emit (.smbus s.pw.word))
  else done s

/-- TAP_INSTRUCTION (R28): the mandatory instructions and boundary scan act; any other reads as `BYPASS` until Keystone has
accepted a debug authorisation, and what it does afterwards the spec does not say. -/
def execTapInstruction (mandatory : Bool) (s : State) : Res :=
  if s.pw.pwrState ≠ 2 then done s
  else if mandatory then done (s.emit (.tap false))
  else if s.flag F.KST_STATE_DEBUG then .refused .testAccessUnspecified
  else done (s.emit (.tap true))

end Sys2Proof.Machine
end

