-- ==== Sys2Proof/Machine/Quoin.lean ====
section
/-! DEFINITION. The Quoin links (chapter 13, R24, R25): cables, training, frames with retry, requests from other devices, the
key exchange and the ways a link goes down. -/

namespace Sys2Proof.Machine

/-! ## Cables (R24, R25) -/

/-- Change a connector's cable; `QLK_STATE.CABLE` of its links follows. -/
def State.setCable (s : State) (conn : Nat) (c : Cable) : State :=
  let t := s.setPw { s.pw with cables := smSet (fun _ => .absent) s.pw.cables conn c }
  (s.connLinks conn).foldl (fun u l => u.setFlag F.QLK_STATE_CABLE (c != .absent) l) t

/-- A link that is training, keying or up goes down; one that is down or disabled stays as it is. -/
def State.takeDown (s : State) (l cause : Nat) : State :=
  let st := s.linkState l
  if 1 ≤ st && st ≤ 4 then s.linkDown l cause else s

/-- A connector's links go down together: none of them takes over what waits on another. -/
def State.connDown (s : State) (conn cause : Nat) : State :=
  let live := (s.connLinks conn).filter fun l => 1 ≤ s.linkState l && s.linkState l ≤ 4
  let t := live.foldl (fun u l => u.setF F.QLK_STATE_STATE 0 l) s
  live.foldl (fun u l => u.linkDown l cause) t

/-- CABLE_SUPPLY_TRIP (R24): more than 4.8 A for 100 µs turns the connector's supply off until the cable is removed. -/
def execCableSupplyTrip (conn mA us : Nat) (s : State) : Res :=
  if s.cable conn = .powered && 4800 < mA && 100 ≤ us then done ((s.setCable conn .tripped).connDown conn 10) else done s

/-- CABLE_INSERT (R25, R442): the supply turns on, and firmware reads the cable and trains the connector's links, at once or
when the links duty is next served. -/
def execCableInsert (conn : Nat) (s : State) : Res :=
  if conn < 8 && s.cable conn = .absent then
    let t := s.setCable conn .powered
    done (State.readCables { t with lk := { t.lk with unread := t.lk.unread ++ [conn] } })
  else done s

/-- CABLE_REMOVE (R25): the connector's links go down. -/
def execCableRemove (conn : Nat) (s : State) : Res :=
  if s.cable conn = .absent then done s
  else
    let t := s.setCable conn .absent
    done (State.connDown { t with lk := { t.lk with unread := t.lk.unread.filter (· ≠ conn) } } conn 1)

/-! ## States of a link (R359 to R361) -/

/-- A retrain begins: keys, counters and the replay buffer stay (R361). -/
def State.retrain (s : State) (l : Nat) : State :=
  if (s.qlink l).retraining then s
  else ((s.setQlink l { s.qlink l with retraining := true, naks := 0 }).bump F.QLK_RETRAIN_CNT_COUNT 1 l).err .qlk l 1

/-- A write of `DISABLE`. -/
def State.linkDisable (s : State) (l : Nat) (on : Bool) : State :=
  let t := s.setFlag F.QLK_CTRL_DISABLE on l
  if on && s.linkState l ≠ 5 then (t.linkDown l 9).setF F.QLK_STATE_STATE 5 l
  else if !on && s.linkState l = 5 then t.setF F.QLK_STATE_STATE 0 l
  else t

/-- A lane's signal-to-noise ratio is what the lane gives: a free value after each training. -/
def State.noteSnr (s : State) (l : Nat) : State :=
  let r := s.free
  r.2.setF F.QLK_LANE_SNR_SNR r.1 l

/-- Set bits of the exchange's progress. -/
def State.kxSet (s : State) (l bits : Nat) : State := s.setQlink l { s.qlink l with kx := (s.qlink l).kx ||| bits }

/-- A key message of `n` bytes goes out: in `KEYING` as key frames of 480 bytes each, during a rekey under management credit (R367,
R375, R376). -/
def State.sendKx (s : State) (l : Nat) (name : String) (n : Nat) : State :=
  if s.linkUp l then (s.setQlink l { s.qlink l with mgt := (s.qlink l).mgt ++ [(name, n)] }).linkGo l
  else ((List.range ((n + 479) / 480)).foldl (fun u _ => u.sendFrame l 3) s).emit (.message l name 0 0 [])

/-- TRAINING_DONE: two lane pairs trained, or one, which makes the link degraded (R359); it enters `KEYING`, and its hello goes
out. -/
def execTrainingDone (link pairs : Nat) (s : State) : Res :=
  if s.linkState link ≠ 1 then done s
  else if pairs = 0 then done (s.linkDown link 11)
  else
    let t := (s.setF F.QLK_STATE_STATE 2 link).setF F.QLK_STATE_WIDTH (if 2 ≤ pairs then 2 else 1) link
    let t := if pairs = 1 then t.err .qlk link 4 else t
    done (((t.noteSnr link).sendKx link "KX_HELLO" (35 + s.ftg.certs.length)).kxSet link 1)

/-- TRAINING_TIMEOUT. -/
def execTrainingTimeout (link ms : Nat) (s : State) : Res :=
  done (if s.linkState link = 1 && 500 ≤ ms then s.linkDown link 2 else s)

/-- The key exchange of a link fails (R375). -/
def State.keyFail (s : State) (l : Nat) : State := (s.err .qlk l 2).linkDown l 6

/-- KEYING_TIMEOUT. -/
def execKeyingTimeout (link ms : Nat) (s : State) : Res :=
  done (if s.linkState link = 2 && 20 ≤ ms then s.keyFail link else s)

/-! ## Frames and retry (R362 to R368) -/

/-- Has a link keys to send under (R374)? -/
def State.sealed (s : State) (l : Nat) : Bool := s.linkUp l || nbit (s.qlink l).kx 3

/-- Send an idle (1) or NAK (2) frame: it takes no new `FSEQ`, and where the link has keys a transmit counter. -/
def State.sendIdle (s : State) (l kind fseq : Nat) : State :=
  (if s.sealed l then s.setPair A.QLK_TXCTR_LO A.QLK_TXCTR_HI (s.getPair A.QLK_TXCTR_LO A.QLK_TXCTR_HI l + 1) l else s).emit
    (.frame l kind fseq)

/-- Resend every frame of the replay buffer under fresh counters (R365); in `KEYING` they are key frames. -/
def State.resend (s : State) (l : Nat) : State :=
  let x := s.qlink l
  let t := (x.replay.foldl (fun u f => u.emit (.frame l (if s.linkUp l then 0 else 3) f)) s).bump F.QLK_REPLAY_CNT_COUNT
    x.replay.length l
  if s.linkUp l then t.setPair A.QLK_TXCTR_LO A.QLK_TXCTR_HI (t.getPair A.QLK_TXCTR_LO A.QLK_TXCTR_HI l + x.replay.length) l else t

/-- Frames up to and including `fack` leave the replay buffer. -/
def QLink.acked (x : QLink) (fack : Nat) : QLink :=
  if x.replay.contains fack then { x with replay := (x.replay.dropWhile (· ≠ fack)).drop 1, naks := 0 } else x

/-- Is an exchange open on a link at the step that needs bits `has` and has not done `lacks`? -/
def State.kxAt (s : State) (l has lacks : Nat) : Bool :=
  let x := s.qlink l
  (s.linkState l = 2 || (s.linkUp l && s.flag F.QLK_KEYSTAT_REKEYING l)) && (x.kx &&& has) = has && (x.kx &&& lacks) = 0

/-- The peer's first frame of the next epoch verifies: the old epoch ends (R376). -/
def State.kxSwitch (s : State) (l : Nat) : State :=
  let t := s.setQlink l { s.qlink l with kx := 3, framesRx := 1, rekeyDue := false }
  (t.setF F.QLK_KEYSTAT_RX_EPOCH ((t.getF F.QLK_KEYSTAT_RX_EPOCH l + 1) % 4) l).setFlag F.QLK_KEYSTAT_REKEYING false l

/-- A verified frame's epoch: the one in use stays; the next one, once its keys are derived, ends it. -/
def State.epochSeen (s : State) (l epoch : Nat) : State :=
  if s.linkUp l && s.kxAt l 24 0 && epoch = (s.getF F.QLK_KEYSTAT_RX_EPOCH l + 1) % 4 then s.kxSwitch l else s

/-- FRAME_RECEIVE (R362 to R367): a frame whose FEC, tag or CRC, kind or epoch is bad is discarded, a bad data or key frame with a
NAK; a good one acknowledges and returns credit, and the next data or key frame is taken in. -/
def execFrameReceive (link kind fseq fack rqh rqd mgt epoch corrected : Nat) (ackValid fecOk tagOk : Bool) (s : State) : Res :=
  let st := s.linkState link
  if st < 2 || 4 < st || s.linkStill link then done s
  else
    let s := s.bump F.QLK_FEC_CE_COUNT corrected link
    let s := if fecOk && tagOk then s.epochSeen link epoch else s
    let x := s.qlink link
    let nak (t : State) : State := t.sendIdle link 2 x.rxNext
    if !fecOk then
      let t := s.bump F.QLK_FEC_UE_COUNT 1 link
      done (nak (if t.getF F.QLK_FEC_UE_COUNT link = 65537 then t.err .qlk link 5 else t))
    else if !tagOk || (st ≠ 2 && epoch ≠ s.getF F.QLK_KEYSTAT_RX_EPOCH link) then
      let t := if st = 2 then s else s.bump F.QLK_TAGFAIL_CNT_COUNT 1 link
      done (if kind = 0 || kind = 3 then nak t else t)
    else if 3 < kind || (kind = 3 && st ≠ 2) then done s
    else
      let y := { (if ackValid then x.acked fack else x) with framesRx := x.framesRx + 1, gotH := rqh, gotD := rqd, gotM := mgt }
      let t := s.setQlink link y
      let t := if kind = 1 || kind = 2 then t
        else if fseq ≠ x.rxNext then nak t
        else
          let u := t.setQlink link { t.qlink link with rxNext := (x.rxNext + 1) % 4096 }
          if kind = 3 then u else u.setPair A.QLK_RXF_LO A.QLK_RXF_HI (u.getPair A.QLK_RXF_LO A.QLK_RXF_HI link + 1) link
      done (t.linkGo link)

/-- NAK_FRAME (R365, R366): frames before the one named are acknowledged, it and those after it resent; `NAK_LIMIT` NAKs of
one frame in a row retrain the link. -/
def execNakFrame (link fseq : Nat) (s : State) : Res :=
  let st := s.linkState link
  let x := s.qlink link
  if st < 2 || 4 < st || s.linkStill link then done s
  else if !x.replay.contains fseq then done (s.bump F.QLK_NAK_CNT_COUNT 1 link)
  else
    let again := x.replay.head? = some fseq
    let y := { x with replay := x.replay.dropWhile (· ≠ fseq), naks := if again then x.naks + 1 else 1 }
    let t := (s.setQlink link y).bump F.QLK_NAK_CNT_COUNT 1 link
    if max 1 (t.getF F.QLK_RETRY_NAK_LIMIT link) ≤ y.naks then done (t.retrain link) else done (t.resend link)

/-! ## Requests and responses (R369 to R373) -/

/-- The local partition that a link's import table gives a requester (R371). -/
def State.importFor (s : State) (l src part : Nat) : Option Nat :=
  ((List.range 32).find? fun k => s.flag F.QLK_IMPORT_VALID l k && s.getF F.QLK_IMPORT_SRC_DEV l k = src
    && s.getF F.QLK_IMPORT_SRC_PART l k = part).map fun k => s.getF F.QLK_IMPORT_LOCAL_PART l k

/-- What stops a request from another device before it is served (R369, R371, steps 1 and 2, R446): the code, with the state after
counting it, or the local partition. A malformed request is answered first (DESIGN CHOICE, log 38). -/
def State.remoteCheck (s : State) (l src dst part addr n : Nat) (bad : Bool) : Except (Nat × State) Nat :=
  if s.dv.st = .warmReset then .error (St.deviceResetting, s)
  else if bad || n = 0 || 256 < addr % 256 + n then .error (St.badField, s)
  else if dst ≠ s.dv.devNum then .error (St.noRoute, (s.bump F.QLK_MISDIR_CNT_COUNT 1 l).err .qlk l 6)
  else match s.importFor l src part with
    | none => .error (St.remoteDenied, (s.bump F.QLK_DENY_CNT_COUNT 1 l).err .qlk l 7)
    | some p => .ok p

/-- May a link take messages in? -/
def State.takes (s : State) (l : Nat) : Bool := s.linkUp l && !s.linkStill l

/-- A request from another device: refused, or it enters in the link-ingress class as though its local partition had made it, and is
answered once it is performed (R257, R371). -/
def State.ingress (s : State) (l top tid src dst part : Nat) (bad owners : Bool) (x : Access) : State :=
  let slots := if top = 8 then (x.len + 15) / 16 else 0
  if !s.takes l then s
  else match s.remoteCheck l src dst part x.addr x.len bad with
    | .error e => e.2.answer l top tid e.1 (if top = 8 then [] else List.replicate x.len 0) slots
    | .ok p => s.enter (.peer l top tid slots p owners) p 3 (s.global x.addr) x

/-- RRD: a read for another device; poison is answered with `0x0401` and zero data. -/
def execRrd (link tid src dst part len addr : Nat) (bad : Bool) (s : State) : Res :=
  done (s.ingress link 9 tid src dst part bad false { op := 0, addr := addr, len := len })

/-- RWR: a write for another device. -/
def execRwr (link tid src dst part addr : Nat) (data : List Byte) (bad : Bool) (s : State) : Res :=
  done (s.ingress link 8 tid src dst part bad false { op := 1, addr := addr, len := data.length, data := data.map some })

/-- RADD: a memory-side add for another device. -/
def execRadd (link tid src dst part type addr : Nat) (data : List Byte) (bad : Bool) (s : State) : Res :=
  done (s.ingress link 8 tid src dst part (bad || 3 < type) false
    { op := 2, addr := addr, len := data.length, type := type, data := data.map some })

/-- OWNRD: a read of owner-table entries for another device. -/
def execOwnrd (link tid src dst part len addr : Nat) (bad : Bool) (s : State) : Res :=
  done (s.ingress link 9 tid src dst part (bad || len % 8 ≠ 0 || 128 < len) true { op := 0, addr := addr, len := len })

/-- A response reaches the slot its request reserved; those abandoned by a warm reset are discarded (R446). -/
def State.response (s : State) (l tid status : Nat) (data : List Byte) (reads : Bool) : State :=
  if !s.takes l then s
  else if s.lk.discard.contains (l, tid) then { s with lk := { s.lk with discard := s.lk.discard.erase (l, tid) } }
  else
    let x := s.qlink l
    match x.sent.find? fun e => e.1 = tid with
    | none => s
    | some e =>
      if (e.2.top = 1 || e.2.top = 4) != reads then s
      else ((s.setQlink l { x with sent := x.sent.filter fun f => f.1 ≠ tid }).answerUse e.2 status (sliceB data 0 e.2.len)).linkGo l

/-- RACK: a write or add has been performed. -/
def execRack (link tid status : Nat) (s : State) : Res := done (s.response link tid status [] false)

/-- RDAT: the data of a read. -/
def execRdat (link tid status : Nat) (data : List Byte) (s : State) : Res := done (s.response link tid status data true)

/-! ## Keys (R374 to R377, R468) -/

/-- Is this side the initiator of a link's exchange: the side with the lower device number? -/
def State.initiator (s : State) (l : Nat) : Bool := s.dv.devNum < s.getF F.QLK_STATE_PEER_DEV l

/-- Does Keystone's policy admit a peer (R467)? -/
def State.peerAllowed (s : State) (hash : List Byte) : Bool := s.ks.peerMode = 0 || s.ks.peerList.contains hash

/-- Steps 2 to 4 begin: the initiator sends its `KX_INIT`. -/
def State.kxBegin (s : State) (l : Nat) : State := if s.initiator l then (s.sendKx l "KX_INIT" 3604).kxSet l 4 else s

/-- KX_HELLO: the peer's number, version and certificate chain. -/
def execKxHello (link peer version : Nat) (hash : List Byte) (chainOk : Bool) (s : State) : Res :=
  if s.linkState link ≠ 2 || nbit (s.qlink link).kx 1 || s.keystonePaused then done s
  else
    let t := (s.setFlag F.QLK_STATE_PEER_VALID true link).setF F.QLK_STATE_PEER_DEV peer link
    if !chainOk || version ≠ 1 || peer = s.dv.devNum then done (t.keyFail link)
    else if !t.peerAllowed hash then done ((t.err .kst 0 3).keyFail link)
    else done (((t.setQlink link { t.qlink link with peerHash := hash }).kxSet link 2).kxBegin link)

/-- Keys are derived: this side's first frame under them goes out, in the next epoch during a rekey (R376). -/
def State.keysDerived (s : State) (l : Nat) : State :=
  let t := s.kxSet l 24
  let t := if s.linkState l = 2 then t
    else t.setF F.QLK_KEYSTAT_TX_EPOCH ((t.getF F.QLK_KEYSTAT_TX_EPOCH l + 1) % 4) l
  (t.setPair A.QLK_TXCTR_LO A.QLK_TXCTR_HI 0 l).sendIdle l 1 (t.qlink l).txNext

/-- KX_INIT at the responder: its answer follows and the keys are derived. A peer may begin a rekey first. -/
def execKxInit (link : Nat) (sigOk : Bool) (s : State) : Res :=
  let s := if s.linkUp link && !s.flag F.QLK_KEYSTAT_REKEYING link && !s.initiator link && !(s.qlink link).retraining then
      (s.setFlag F.QLK_KEYSTAT_REKEYING true link).setQlink link { s.qlink link with kx := 3 } else s
  if s.initiator link || !s.kxAt link 3 4 || s.keystonePaused then done s
  else if !sigOk then done (s.keyFail link)
  else done (((s.kxSet link 4).sendKx link "KX_RESP" 3508).keysDerived link)

/-- KX_RESP at the initiator: the keys are derived. -/
def execKxResp (link : Nat) (sigOk : Bool) (s : State) : Res :=
  if !s.initiator link || !s.kxAt link 7 8 || s.keystonePaused then done s
  else if !sigOk then done (s.keyFail link)
  else done (s.keysDerived link)

/-- The import entry of a grant (Table 13-9). -/
def ImportGrant.entry (g : ImportGrant) : Word :=
  BitVec.ofNat 32 (2 ^ 31 + g.srcDev % 4096 * 2 ^ 19 + g.srcPart % 32 * 2 ^ 14 + g.part % 32 * 2 ^ 9)

/-- Keystone writes the import entries that standing grants give a link whose peer they name (R468). -/
def State.writeImport (s : State) (l : Nat) (g : ImportGrant) : State :=
  if !nbit g.links l || (s.qlink l).peerHash ≠ g.peer || !s.flag F.QLK_KEYSTAT_KEYED l then s
  else if (List.range 32).any fun k => s.reg A.QLK_IMPORT l k = g.entry then s
  else match (List.range 32).find? fun k => !s.flag F.QLK_IMPORT_VALID l k with
    | none => s.err .kst 0 4
    | some k => s.setReg A.QLK_IMPORT g.entry l k

/-- KX_DONE: the peer's first frame under the new keys verifies; the link comes up, or the old epoch ends. -/
def execKxDone (link : Nat) (s : State) : Res :=
  if !s.kxAt link 24 0 then done s
  else
    let x := s.qlink link
    if s.linkState link = 2 then
      let wide := s.getF F.QLK_STATE_WIDTH link = 2
      let t := (s.setQlink link { x with kx := 3, framesRx := 1 }).setF F.QLK_STATE_STATE (if wide then 3 else 4) link
      let t := ((t.setFlag F.QLK_CTRL_TRAIN false link).setFlag F.QLK_KEYSTAT_KEYED true link).setUnit .qlk link 3
      done ((t.ks.imports.foldl (fun u g => u.writeImport link g) t).linkGo link).goHeld
    else done (s.kxSwitch link)

/-- A rekey starts: both epochs are accepted until the new one verifies. -/
def State.rekey (s : State) (l : Nat) : State :=
  let t := (s.setFlag F.QLK_KEYSTAT_REKEYING true l).setQlink l { s.qlink l with kx := 3, rekeyDue := false }
  t.kxBegin l

/-- REKEY_DUE (R376): after 2³¹ frames in either direction or `REKEY_S` seconds; one that falls due in a retrain or a
pause of its Quoin die or of Keystone waits for its end. -/
def execRekeyDue (link secs : Nat) (s : State) : Res :=
  let x := s.qlink link
  let due := max 1 (s.getF F.QLK_REKEY_REKEY_S link) ≤ secs || 2 ^ 31 ≤ s.getPair A.QLK_TXCTR_LO A.QLK_TXCTR_HI link
    || 2 ^ 31 ≤ x.framesRx
  if !s.linkUp link || !due || s.flag F.QLK_KEYSTAT_REKEYING link then done s
  else if s.linkStill link || s.keystonePaused then done (s.setQlink link { x with rekeyDue := true })
  else done (s.rekey link)

/-- A link goes on after a retrain or a pause: a rekey that waited begins, and what waits is sent (R361, R376, R476). -/
def State.linkWakes (s : State) (l : Nat) : State :=
  (if (s.qlink l).rekeyDue && s.linkUp l && !s.linkStill l && !s.keystonePaused then s.rekey l else s).linkGo l

/-- COUNTER_EXHAUSTED (R376): a direction's counter reaches 2³² under one key. -/
def execCounterExhausted (link : Nat) (s : State) : Res :=
  done (if s.linkUp link && (2 ^ 32 ≤ s.getPair A.QLK_TXCTR_LO A.QLK_TXCTR_HI link || 2 ^ 32 ≤ (s.qlink link).framesRx) then
    s.linkDown link 8 else s)

/-- TAG_FAILURE_LIMIT (R377): more than 16 tag failures within 1 ms. -/
def execTagFailureLimit (link count us : Nat) (s : State) : Res :=
  done (if s.linkUp link && 16 < count && us ≤ 1000 then (s.err .qlk link 2).linkDown link 7 else s)

/-! ## Retrains, lane faults, timeouts, spares -/

/-- RETRAIN_DONE (R361): unacknowledged frames are resent; the third failure in a row takes the link down. -/
def execRetrainDone (link : Nat) (ok : Bool) (s : State) : Res :=
  let x := s.qlink link
  if !x.retraining then done s
  else if ok then
    let t := (s.setQlink link { x with retraining := false, retrains := 0 }).setFlag F.QLK_SPARE_STAT_BUSY false link
    done (((t.noteSnr link).resend link).linkWakes link)
  else if 3 ≤ x.retrains + 1 then done (s.linkDown link 3)
  else done (((s.setQlink link { x with retrains := x.retrains + 1 }).bump F.QLK_RETRAIN_CNT_COUNT 1 link).err .qlk
    link 1)

/-- LANE_DROP (R359): the lane's pair goes out of use; the link retrains on the other as `DEGRADED`, or goes down. -/
def execLaneDrop (link lane ms : Nat) (pairOk : Bool) (s : State) : Res :=
  if !s.linkUp link || 4 ≤ lane || ms < 100 then done s
  else if !pairOk then done (s.linkDown link 11)
  else if s.linkState link = 4 then done s
  else done ((((s.setF F.QLK_STATE_STATE 4 link).setF F.QLK_STATE_WIDTH 1 link).err .qlk link 4).retrain link)

/-- CREDIT_TIMEOUT (R368); time in a retrain or with the Quoin die paused does not count (R361, R477). -/
def execCreditTimeout (link us : Nat) (s : State) : Res :=
  let x := s.qlink link
  let starved := match x.waiting.head? with
    | some m => x.creditH = 0 || x.creditD < m.slots
    | none => false
  done (if s.takes link && starved && max 1 (s.getF F.QLK_TMO_CRED_TMO link) ≤ us then s.linkDown link 4 else s)

/-- RESPONSE_TIMEOUT (R368, R361, R477). -/
def execResponseTimeout (link tid us : Nat) (s : State) : Res :=
  done (if s.takes link && (s.qlink link).sent.any (fun e => e.1 = tid) && max 1 (s.getF F.QLK_TMO_RSP_TMO link) ≤ us then
    s.linkDown link 5 else s)

/-- The map of a lane field as it reads: lane k of link i of a die has transmitter (or receiver) 4i + k until it is spared. -/
def State.laneMap (s : State) (f : Fld) (l : Nat) : Nat :=
  let v := s.getF f l
  if v ≠ 0 then v else (List.range 4).foldl (fun n k => n + (4 * (l % 8) + k) * 2 ^ (6 * k)) 0

/-- A write of `QLK_SPARE_CMD` (R358). -/
def State.laneSpare (s : State) (l op lane : Nat) : State :=
  let die := (List.range 8).map (l / 8 * 8 + ·)
  let used := (die.map fun k => if op = 1 then (s.qlink k).txUsed.length else (s.qlink k).rxUsed.length).sum
  if s.flag F.QLK_SPARE_STAT_BUSY l then s
  else if (op ≠ 1 && op ≠ 2) || 4 ≤ used then (s.setFlag F.QLK_SPARE_STAT_FAIL true l).err .qlk l 3
  else
    let f : Fld := if op = 1 then F.QLK_TXMAP_MAP else F.QLK_RXMAP_MAP
    let old := s.laneMap f l
    let x := s.qlink l
    let gone := nbits old (6 * lane + 5) (6 * lane)
    let t := s.setF f (putField old (6 * lane + 5) (6 * lane) (32 + used)) l
    let t := t.setQlink l (if op = 1 then { x with txUsed := x.txUsed ++ [gone] } else { x with rxUsed := x.rxUsed ++ [gone] })
    let g : Fld := if op = 1 then F.QLK_SPARE_STAT_TX_LEFT else F.QLK_SPARE_STAT_RX_LEFT
    let t := die.foldl (fun u k => u.setF g (3 - used) k) t
    let t := (t.setFlag F.QLK_SPARE_STAT_FAIL false l).err .qlk l 3
    if t.linkUp l then (t.setFlag F.QLK_SPARE_STAT_BUSY true l).retrain l else t

end Sys2Proof.Machine
end

