-- ==== Sys2Proof/Machine/KeystoneSvc.lean ====
section
/-! DEFINITION. Keystone's services on channel 0 (chapter 18): certificates, reports, owner keys, grants, the peer policy and
debug authorisation. -/

namespace Sys2Proof.Machine

/-- The identity hash (R453), as `KST_ID_HASH` holds it. -/
def State.idHash (s : State) : List Byte := (List.range 8).flatMap fun k => leBytes (s.getF (F.KST_ID_HASH_HASH.nth k)) 4

/-- Write 32 bytes into eight registers, little-endian (Table 18-9). -/
def State.putHash (s : State) (a : Nat) (h : List Byte) : State :=
  (List.range 8).foldl (fun t k => t.setReg (a + 4 * k) (BitVec.ofNat 32 (fieldB h (4 * k) 4))) s

/-- Anti-rollback counter n: its blown fuses. -/
def State.arb (s : State) (n : Nat) : Nat := smGet (fun _ => 0) s.dv.arb n

/-- Exchange slot k (R458). -/
def State.slotAt (s : State) (k : Nat) : Nat := s.ks.exchBase + 8192 * k

/-- A request of this slot still waits for its reply to enter the ring (R459). -/
def State.slotBusy (s : State) (k : Nat) : Bool :=
  s.ks.slotsBusy.any fun e => e.1 = k && (smGet (fun _ => []) s.ln.held 0).contains e.2

/-- The device serves messages of channel 0. -/
def State.serving0 (s : State) : Bool := s.dv.st = .standby || s.dv.st = .ready

/-- Keystone replies: its status register shows the request, and the slot is busy until the reply leaves. -/
def State.ksReply (s : State) (m : Msg) (status : Nat) (payload : List (Nat × Nat × Nat)) : State :=
  let t := s.setReg A.KST_SVC_STAT (BitVec.ofNat 32 (fieldB m 0 2 % 128 * 2 ^ 24 + status))
  let reply := mkMsg (0x8000 + fieldB m 0 2) 2 (fieldB m 4 4) status payload
  let u := t.h2fAnswer 0 m status payload
  let kept := u.ks.slotsBusy.filter fun e => (smGet (fun _ => []) u.ln.held 0).contains e.2
  { u with ks := { u.ks with slotsBusy := kept ++ [(fieldB m 16 1, reply)] } }

/-- A Keystone request of a type at the head of channel 0, while the Keystone-services duty is served and Keystone is not paused: its slot is
checked, and `body` gives the status, the reply's payload and the state. -/
def State.ksRow (s : State) (type : Nat) (body : Msg → Nat → State → Nat × List (Nat × Nat × Nat) × State) : Res :=
  match s.h2fPeek 0 with
  | none => done s
  | some m =>
    if fieldB m 0 2 ≠ type || !s.dutyServed 5 || !s.serving0 || s.keystonePaused then done s
    else
      let k := fieldB m 16 1
      if 4 ≤ k || s.slotBusy k then done (s.ksReply m St.badField [])
      else
        let r := body m (s.slotAt k) s
        done (r.2.2.ksReply m r.1 r.2.1)

/-- KS_CERTS. -/
def execKsCerts (s : State) : Res :=
  s.ksRow 0x28 fun _ a t => (0, [(16, 4, t.ftg.certs.length)], t.writeB a (t.ftg.certs.take 8192))

/-- A measurement register's bytes. -/
def State.meas (s : State) (k : Nat) : List Byte := sliceB (smGet (fun _ => []) s.ks.meas k) 0 32

/-- Hash of the key bound to a partition, zero if none. -/
def State.boundHash (s : State) (p : Nat) : List Byte :=
  if s.flag F.PRT_OWNER_BOUND p then
    (List.range 8).flatMap fun i => leBytes (s.getF (F.KST_KEYHASH_HASH.nth (8 * s.getF F.PRT_OWNER_KEY p + i))) 4
  else List.replicate 32 0

/-- Bytes 0 to 511 of an attestation report (Table 18-6). -/
def State.report (s : State) (p : Nat) (nonce : List Byte) : List Byte :=
  let flags := s.getF F.KST_STATE_DEBUG + 2 * s.getF F.PRT_OWNER_BOUND p
  leBytes 0x31545441 4 ++ leBytes 1 2 ++ leBytes (if s.dv.gradeC then 1 else 0) 1 ++ leBytes flags 1 ++ leBytes s.dv.devNum 2
    ++ leBytes p 1 ++ leBytes (s.partState p) 1 ++ leBytes (s.getF F.PRT_MODE_LIVE p) 1 ++ [0, 0, 0]
    ++ leBytes (s.getPair A.KST_ATT_CNT_LO A.KST_ATT_CNT_HI) 8 ++ sliceB nonce 0 32 ++ s.idHash
    ++ (List.range 8).flatMap s.meas ++ s.meas (8 + p) ++ s.boundHash p ++ leBytes (s.getF (F.KST_GCOUNT_COUNTER.nth p)) 4
    ++ (List.range 4).flatMap (fun n => leBytes (s.arb n) 4) ++ List.replicate 84 0

/-- KS_ATTEST (R471): the report counts itself, and Keystone signs it. -/
def execKsAttest (sig : List Byte) (s : State) : Res :=
  s.ksRow 0x29 fun m a t =>
    let p := fieldB m 17 1
    if 32 ≤ p then (St.badField, [], t)
    else
      let t := t.setPair A.KST_ATT_CNT_LO A.KST_ATT_CNT_HI (t.getPair A.KST_ATT_CNT_LO A.KST_ATT_CNT_HI + 1)
      (0, [], t.writeB a (t.report p (sliceB m 24 32) ++ sliceB sig 0 2420))

/-- A refused object (Table 18-10). -/
def State.refuseObject (s : State) (code : Nat) : Nat × List (Nat × Nat × Nat) × State := (code, [], s.err .kst 0 1)

/-- KS_BIND (R460). -/
def execKsBind (s : State) : Res :=
  s.ksRow 0x2A fun m a t =>
    let p := fieldB m 17 1
    let k := fieldB m 18 1
    let r := t.readB a 1312
    let key := r.1
    let t := r.2.2
    if 32 ≤ p || 64 ≤ k then t.refuseObject St.badField
    else if r.2.1 then t.refuseObject St.poisonConsumed
    else if t.partState p ≠ 1 || t.flag F.PRT_OWNER_BOUND p || t.flag F.KST_STATE_DEBUG then t.refuseObject St.ownerState
    else if t.ks.ownerKeys.any fun e => e.1 = k && e.2 ≠ key then t.refuseObject St.objectRejected
    else
      let u : State := { t with ks := { t.ks with ownerKeys := smPut t.ks.ownerKeys k key } }
      let u := ((u.putHash (A.KST_KEYHASH + 32 * k) (sha3 key)).setBit (F.KST_KEYSTAT_PARTS.nth k) p true).setReg A.PRT_OWNER
        (BitVec.ofNat 32 (2 ^ 31 + k)) p
      let u := (((u.setReg (A.KST_GCOUNT + 4 * p) 0).clearGrants p).clearMeas (8 + p)).measure (8 + p)
        (0x10#8 :: leBytes k 1 ++ sha3 key)
      (0, [], u)

/-! ## Grants (R461, R462, R468) -/

/-- Does a grant object keep Table 18-5? -/
def grantOk (b : List Byte) : Bool :=
  let zero (lo hi : Nat) : Bool := fieldB b lo (hi - lo) = 0
  fieldB b 0 4 = 0x544E5247 && fieldB b 5 1 < 32 && zero 6 8 && zero 12 16 && match fieldB b 4 1 with
    | 1 => zero 80 304
    | 2 => fieldB b 80 2 < 4096 && fieldB b 82 1 < 32 && fieldB b 83 1 ≤ 1 && zero 92 304
    | 3 => fieldB b 48 1 = 1 && zero 49 304
    | _ => false

/-- Set bits of `BLK_LOCK` of a page for an instance; bit 1 alone also sets bit 0 (Table 2-9). -/
def State.lockPage (s : State) (page i v : Nat) : State :=
  let f : Fld := ⟨page * 0x1000 + 0x1C, 1, 0⟩
  let w := s.getF f i ||| (v % 4)
  s.setF f (if nbit w 1 then 3 else w) i

/-- A kind-2 grant: the standing grants and the links' entries change (R468). -/
def State.importGrant (s : State) (b : List Byte) : State :=
  let g : ImportGrant := { part := fieldB b 5 1, peer := sliceB b 48 32, srcDev := fieldB b 80 2, srcPart := fieldB b 82 1
                           links := fieldB b 84 8 }
  let same (x : ImportGrant) : Bool := x.part = g.part && x.peer = g.peer && x.srcDev = g.srcDev && x.srcPart = g.srcPart
  let had := (s.ks.imports.find? same).map fun x => x.links
  let rest := s.ks.imports.filter fun x => !same x
  if fieldB b 83 1 = 1 then
    let all := { g with links := had.getD 0 ||| g.links }
    (List.range 64).foldl (fun t l => t.writeImport l g) { s with ks := { s.ks with imports := rest ++ [all] } }
  else
    let left := (List.range 64).foldl (fun n l => nsetBit n l (nbit (had.getD 0) l && !nbit g.links l)) 0
    let t : State := { s with ks := { s.ks with imports := if left = 0 then rest else rest ++ [{ g with links := left }] } }
    (List.range 64).foldl (fun t l =>
      if !nbit g.links l || (t.qlink l).peerHash ≠ g.peer then t
      else (List.range 32).foldl (fun u k => if u.reg A.QLK_IMPORT l k = g.entry then u.setReg A.QLK_IMPORT 0 l k else u) t) t

/-- What a grant does once it passes. -/
def State.applyGrant (s : State) (b : List Byte) : State :=
  let p := fieldB b 5 1
  let t := (s.setReg (A.KST_GCOUNT + 4 * p) (BitVec.ofNat 32 (fieldB b 8 4))).measure (8 + p) (0x13#8 :: sha3 b)
  match fieldB b 4 1 with
  | 1 => (List.range 8).foldl (fun u i => u.setReg (A.KST_GRANT + 32 * p + 4 * i) (BitVec.ofNat 32 (fieldB b (48 + 4 * i) 4))) t
  | 2 => t.importGrant b
  | _ => [0x150, 0x151, 0x152, 0x154, 0x155].foldl (fun u page => u.lockPage page p 1) t

/-- A KS_GRANT of a kind; an object of no kind of Table 18-5 is refused whichever row takes it. -/
def State.grantRow (s : State) (kind : Nat) (sigOk : Bool) : Res :=
  match s.h2fPeek 0 with
  | none => done s
  | some m =>
    let k := fieldB (s.readB (s.slotAt (fieldB m 16 1)) 8).1 4 1
    if fieldB m 16 1 < 4 && 1 ≤ k && k ≤ 3 && k ≠ kind then done s
    else s.ksRow 0x2B fun _ a t =>
      let r := t.readB a 2724
      let b := r.1
      let t := r.2.2
      let p := fieldB b 5 1
      if r.2.1 then t.refuseObject St.poisonConsumed
      else if !grantOk b then t.refuseObject St.badField
      else if !t.flag F.PRT_OWNER_BOUND p then t.refuseObject St.ownerState
      else if sliceB b 16 32 ≠ t.idHash || !sigOk then t.refuseObject St.objectRejected
      else if fieldB b 8 4 ≤ t.getF (F.KST_GCOUNT_COUNTER.nth p) then t.refuseObject St.replayed
      else (0, [], t.applyGrant b)

/-- GRANT_HOST_RIGHTS: a kind-1 grant. -/
def execGrantHostRights (sigOk : Bool) (s : State) : Res := s.grantRow 1 sigOk

/-- GRANT_IMPORT: a kind-2 grant. -/
def execGrantImport (sigOk : Bool) (s : State) : Res := s.grantRow 2 sigOk

/-- GRANT_LOCK: a kind-3 grant. -/
def execGrantLock (sigOk : Bool) (s : State) : Res := s.grantRow 3 sigOk

/-! ## Peers and debug (R467, R470) -/

/-- KS_PEER: the policy takes effect at once; links whose peer no longer qualifies go down. -/
def execKsPeer (s : State) : Res :=
  s.ksRow 0x2C fun m a t =>
    let mode := fieldB m 17 1
    let n := if mode = 1 then fieldB m 18 2 else 0
    if 1 < mode || 64 < n then (St.badField, [], t)
    else
      let r := t.readB a (32 * n)
      if r.2.1 then (St.poisonConsumed, [], r.2.2)
      else
        let list := (List.range n).map fun k => sliceB r.1 (32 * k) 32
        let u : State := { r.2.2 with ks := { r.2.2.ks with peerMode := mode, peerList := list } }
        let u := ((u.setF F.KST_PEER_MODE_LIST mode).setF F.KST_PEER_COUNT_COUNT n).measure 6
          (0x04#8 :: leBytes mode 1 ++ if mode = 1 then sha3 r.1 else List.replicate 32 0)
        let out := (List.range 64).filter fun l => u.linkUp l && !u.peerAllowed (u.qlink l).peerHash
        (0, [], out.foldl (fun v l => (v.err .kst 0 3).linkDown l 6) u)

/-- KS_DEBUG. -/
def execKsDebug (sigOk : Bool) (s : State) : Res :=
  s.ksRow 0x2D fun _ a t =>
    let r := t.readB a 2484
    let b := r.1
    let t := r.2.2
    let nonce := t.getPair A.KST_BOOT_NONCE_LO A.KST_BOOT_NONCE_HI
    let code := if r.2.1 then St.poisonConsumed
      else if (List.range 32).any fun p => t.flag F.PRT_OWNER_BOUND p then St.ownerState
      else if fieldB b 0 4 ≠ 0x47424444 || sliceB b 4 32 ≠ t.idHash || fieldB b 36 8 ≠ nonce || fieldB b 48 16 ≠ 0 || !sigOk then
        St.objectRejected
      else 0
    let t := t.setF F.KST_DBG_STAT_STATUS code
    if code ≠ 0 then t.refuseObject code
    else (0, [], (((t.setFlag F.KST_DBG_STAT_ACCEPTED true).setFlag F.KST_STATE_DEBUG true).err .kst 0 2).measure 5
      (0x03#8 :: sha3 b))

end Sys2Proof.Machine
end

