-- ==== Sys2Proof/Machine/Loading.lean ====
section
/-! DEFINITION. MODEL_LOAD (chapter 15, R415 to R417): the checks at admission, the blocks that stream in, and the slot that
becomes ready. -/

namespace Sys2Proof.Machine

/-! ## What an image says -/

/-- A byte reader over an image's payload. -/
def State.frx (s : State) (i : Nat) : Nat → Byte := s.payload i

/-- The first section of a type. -/
def frxFind (rd : Nat → Byte) (t : Nat) : Option Section := (frxSections rd).find? fun x => x.type = t

/-- Offset of the first section of a type. -/
def frxAt (rd : Nat → Byte) (t : Nat) : Nat := match frxFind rd t with
  | some x => x.offset
  | none => 0

/-- The loaded sections in section-table order. -/
def frxLoaded (rd : Nat → Byte) : List Section := (frxSections rd).filter Section.loaded

/-- The granules of the loaded sections, counted in section-table order from a base. -/
def loadGranules (rd : Nat → Byte) (base : Nat) : List Nat :=
  (frxLoaded rd).flatMap fun x => (List.range (x.length / 2 ^ 26)).map fun k => (base + x.destOff) / 2 ^ 26 + k

/-- Blocks of 1 MiB the loaded sections hold. -/
def loadBlocks (rd : Nat → Byte) : Nat := (frxLoaded rd).foldl (fun n x => n + x.length / 2 ^ 20) 0

/-- End of the loaded area, from its base. -/
def loadExtent (rd : Nat → Byte) : Nat := (frxLoaded rd).foldl (fun n x => max n (x.destOff + x.length)) 0

/-- Where the k-th block of the loaded sections comes from (image offset) and goes to (offset from `BASE`). -/
def blockAt : List Section → Nat → Option (Nat × Nat)
  | [], _ => none
  | x :: xs, k => if k < x.length / 2 ^ 20 then some (x.offset + k * 2 ^ 20, x.destOff + k * 2 ^ 20)
      else blockAt xs (k - x.length / 2 ^ 20)

/-- The offsets of the image's routine sets in its routine-set section (zero: no set). -/
def frxSets (rd : Nat → Byte) : List Nat := match frxFind rd 4 with
  | some x => (List.range 256).map fun m => frxN rd (x.offset + 8 * m) 8
  | none => []

/-- The highest set an image holds, plus one. -/
def frxSetCount (rd : Nat → Byte) : Nat := ((frxSets rd).zipIdx).foldl (fun n e => if e.1 ≠ 0 then e.2 + 1 else n) 0

/-- The geometry record of Table 6-1 keeps its ranges (R157). -/
def geometryOk (rd : Nat → Byte) : Bool :=
  let a := frxAt rd 1
  let heads := frxN rd a 1
  let q := frxN rd (a + 1) 1
  let d := frxN rd (a + 2) 2
  let layers := frxN rd (a + 5) 1
  1 ≤ heads && heads ≤ 16 && 1 ≤ q && q ≤ 32 && 32 ≤ d && d ≤ 256 && d % 32 = 0 && frxN rd (a + 4) 1 ≤ 2 && 1 ≤ layers
    && frxN rd (a + 6) 2 ≤ 4096 && positive32 (frxN rd (a + 8) 4) && frxZero rd (a + 12) 52

/-- The slot record of Table 7-3 keeps its ranges, its template fields against the image's templates. -/
def slotRecordOk (rd : Nat → Byte) (kinds : List Nat) : Bool :=
  let a := frxAt rd 2
  let tpl (off : Nat) : Nat := frxN rd (a + off) 2
  let names (n : Nat) : Bool := kinds[n]? == some 2
  frxZero rd a 4 && 1 ≤ frxN rd (a + 4) 4 && frxN rd (a + 4) 4 ≤ 1048576 && frxN rd (a + 8) 1 ≤ 1 && frxZero rd (a + 9) 1
    && names (tpl 10) && names (tpl 12) && (tpl 14 = 0xFFFF || names (tpl 14)) && frxZero rd (a + 16) 48

/-- Entries of the image's manifest. -/
def manifestEntries (rd : Nat → Byte) : Nat := match frxFind rd 6 with
  | some x => x.length / 32
  | none => 0

/-! ## Admission (R415, Table 11-9) -/

/-- Codes of a MODEL_LOAD that read no image (Table 11-9, R196, R415 code 1). -/
def loadPre (c : Cmd) (s : State) : Nat :=
  let m := c.hdr 5 0
  let e := s.image (c.word 1)
  if s.foreignSlot c.part m then 0x0106
  else if (s.mslot m).st = 1 || s.sv.seqs.any (fun x => x.2.st ≠ 0 && (x.2.mslot = m || x.2.dslot = m)) then St.stateRefused
  else if 4096 ≤ c.word 1 || e.state ≠ 3 || e.kind ≠ 1 || e.owner ≠ c.part then St.imageAbsent
  else 0

/-- May a granule take a load of slot `m` (R415, 5)? -/
def State.granuleTakes (s : State) (p m g : Nat) : Bool :=
  s.granuleOwner g = some p && !nbit (s.region g) 59
    && (!s.isOpen g || (s.isHashed g && nbits (s.region g) 52 47 = m))

/-- The remaining codes of R415 in their order, or 0. -/
def State.loadStatus (s : State) (c : Cmd) (sigOk outliersOk : Bool) (kinds : List Nat) : Nat :=
  let rd := s.frx (c.word 1)
  let gs := loadGranules rd (c.word 2)
  if !sigOk || !s.signerOk rd 1 c.part then St.imageRejected
  else if !geometryOk rd || !slotRecordOk rd kinds || !outliersOk || 4096 < c.word 3 % 4096 + kinds.length
      || 256 < nbits (c.word 3) 23 16 + frxSetCount rd || 262144 < manifestEntries rd then St.badField
  else if gs.any fun g => !s.present .stk (g / 1536) || 16 ≤ g / 1536 then St.addressUnmapped
  else if gs.any fun g => !s.granuleTakes c.part (c.hdr 5 0) g then St.regionNotOwned
  else 0

/-- MODEL_LOAD (R415, R416 step 1): the checks, then the slot is `LOADING` under its next generation. -/
def execModelLoad (part queue : Nat) (sigOk outliersOk : Bool) (kinds : List Nat) (s : State) : Res :=
  s.admitRow part queue 0x0E loadPre noPre fun c t =>
    match t.loadStatus c sigOk outliersOk kinds with
    | 0 =>
      let m := c.hdr 5 0
      let rd := t.frx (c.word 1)
      let u := (t.slotGuard m).setMslot m { st := 1, part := part, gen := ((t.mslot m).gen + 1) % 65536, image := c.word 1
                                            base := c.word 2, setBase := nbits (c.word 3) 23 16, tplBase := c.word 3 % 4096 }
      let u : State := { u with ftg := { u.ftg with loads := u.ftg.loads ++ [c.id] } }
      (u.onCmd c.id fun d => { d with count := loadBlocks rd }).journalOpen 4 4 m
    | code => (if code = St.imageRejected && !sigOk then t.err .kst 0 0 else t).finish c.id code 0

/-! ## Blocks (R416 steps 2 to 4, R417) -/

/-- The MODEL_LOAD that has the channels: the first admitted and not complete. -/
def State.loadHead (s : State) : Option Cmd :=
  (s.ftg.loads.findSome? fun k => s.cmdOf k).filter fun c => c.phase = 1 && c.op = 0x0E

/-- A reload that takes the channels: it waits, or runs, for a stack that serves (R393, R417). -/
def State.reloadWants (s : State) : Bool := s.it.reloads.any fun e => e.2 ≠ 1 && s.stackServes (e.1 / stackBytes)

/-- The Footing's transfers wait at a block's boundary: a channel trains anew (Table 17-6), or Keystone, which delivers their keys, is
paused (Table 19-3). -/
def State.footingWaits (s : State) : Bool :=
  s.keystonePaused || (List.range 8).any fun c => s.getF F.FTG_CH_STATE_STATE c = 1

/-- The MODEL_LOAD of a slot, if it may go on: it is the first, no reload waits, the channels are free, and the Footing duty is served
(R417, Table 16-4). -/
def State.loadOf (s : State) (m : Nat) : Option Cmd :=
  s.loadHead.filter fun c => c.hdr 5 0 = m && s.dutyServed 4 && !s.reloadWants && !s.footingWaits

/-- Copy `n` payload bytes of an image into memory, every word with its check bits for its new address (R385). -/
def State.loadBytes (s : State) (img off dst n : Nat) : State :=
  let t := s.fillZero dst n
  let k := s.payloadKey img off
  { t with mem := (t.ftg.data.filter fun e => k ≤ e.1 && e.1 < k + n).foldl (fun m e => memPut m (dst + (e.1 - k)) e.2) t.mem }

/-- Steps 2 and 3 of R416: the manifest goes to its store, and the granules are committed to the slot. -/
def State.loadBegin (s : State) (c : Cmd) : State :=
  let m := c.hdr 5 0
  let rd := s.frx (c.word 1)
  let t := match frxFind rd 6 with
    | some x => s.loadBytes (c.word 1) x.offset (s.manifestStore m) x.length
    | none => s
  let t := ((loadGranules rd (c.word 2)).zipIdx).foldl (fun u e =>
    let own := u.regionRaw e.1 / 2 ^ 53 % 64 * 2 ^ 53
    u.putRegion e.1 (own + m * 2 ^ 47 + 64 * e.2)) t
  t.setMslot m { t.mslot m with area := loadExtent rd }

/-- A load completes: its place on the channels is free, and the key register is cleared. -/
def State.loadOver (s : State) (id : Nat) : State := { s.keyOut with ftg := { s.keyOut.ftg with loads := s.ftg.loads.filter (· ≠ id) } }

/-- The manifest of an image agrees with its header's hash. -/
def manifestAgrees (rd : Nat → Byte) : Bool := match frxFind rd 6 with
  | some x => sha3 ((List.range x.length).map fun k => rd (x.offset + k)) = (List.range 32).map fun k => rd (24 + k)
  | none => true

/-- The channels that deliver units of a block poisoned: those named, and for an image with units on failed dies the channels of these
(R419). -/
def State.undelivered (s : State) (img : Nat) (ue : List Nat) : List Nat :=
  if (s.image img).badDie then uniq (ue ++ s.ftg.deadDies.map fun d => d / 4) else ue

/-- A unit delivered poisoned is counted on its channel (R419). -/
def State.footingUe (s : State) (chans : List Nat) : State :=
  (chans.filter (· < 8)).foldl (fun t c => (t.bump F.FTG_CH_UE_COUNT 1 c).err .ftg c 0) s

/-- A block is read once more on every channel. -/
def State.footingRetry (s : State) : State := (List.range 8).foldl (fun t c => t.bump F.FTG_CH_RETRY_COUNT 1 c) s

/-- Note blocks read from the Footing. -/
def State.footingRead (s : State) (n : Nat) : State := { s with ftg := { s.ftg with blocksRead := s.ftg.blocksRead + n } }

/-- MODEL_LOAD_BLOCK: the next block of the slot's load. The first one follows the manifest and the region commits, which also
need the Stacks duty. -/
def execModelLoadBlock (slot : Nat) (ok retryOk : Bool) (ue : List Nat) (s : State) : Res :=
  match s.loadOf slot with
  | none => done s
  | some c =>
    let first := (s.mslot slot).area = 0
    if c.count = 0 || (first && !s.dutyServed 1) then done s
    else
      let t := (if first then s.loadBegin c else s).keyIn (c.word 1)
      let rd := t.frx (c.word 1)
      let ue := s.undelivered (c.word 1) ue
      let t := ((if ok then t else t.footingRetry).footingUe ue).footingRead 1
      if (!ok && !retryOk) || ue ≠ [] || (first && !manifestAgrees rd) then
        done (((t.slotEmpty slot).loadOver c.id).finish c.id St.imageCorrupt 0)
      else match blockAt (frxLoaded rd) (loadBlocks rd - c.count) with
        | none => done t
        | some (src, dst) =>
          let u := t.loadBytes (c.word 1) src (c.word 2 + dst) (2 ^ 20)
          done ((u.chargeOwn (.cmd c.id) 2 (2 ^ 20) 65536).onCmd c.id fun d => { d with count := d.count - 1 })

/-! ## Completion (R416 steps 5 and 6) -/

/-- The slot from an image's records: template fields offset by `TPL_BASE` where they are not 0xFFFF. -/
def MSlot.filled (e : MSlot) (rd : Nat → Byte) : MSlot :=
  let g := frxAt rd 1
  let a := frxAt rd 2
  let tpl (off : Nat) : Nat := if frxN rd (a + off) 2 = 0xFFFF then 0xFFFF else e.tplBase + frxN rd (a + off) 2
  { e with
    st := 2
    vocab := frxN rd (a + 4) 4
    select := frxN rd (a + 8) 1
    tplGiven := tpl 10
    tplChunk := tpl 12
    tplDraft := tpl 14
    kvHeads := frxN rd g 1
    qPerKv := frxN rd (g + 1) 1
    headDim := frxN rd (g + 2) 2
    kvFmt := frxN rd (g + 4) 1
    layers := frxN rd (g + 5) 1
    window := frxN rd (g + 6) 2
    smScale := frxN rd (g + 8) 4 }

/-- Routine set `k` of a partition is at a global address, under its next generation (R149). -/
def State.installSet (s : State) (k a : Nat) : State :=
  let gen := match s.sv.sets.find? fun e => e.1 = k with
    | some e => e.2.2
    | none => 0
  { s with sv := { s.sv with sets := (s.sv.sets.filter fun e => e.1 ≠ k) ++ [(k, a, (gen + 1) % 65536)] } }

/-- The templates and routine sets of an image enter the partition's tables (R315). -/
def State.installTables (s : State) (e : MSlot) (rd : Nat → Byte) (templates : List (Nat × Template)) : State :=
  let put := templates.filter fun x => e.tplBase + x.1 < 4096
  let key (n : Nat) : Nat := e.part * 4096 + e.tplBase + n
  let t : State := { s with sv := { s.sv with
    tpls := (s.sv.tpls.filter fun x => !put.any fun y => key y.1 = x.1) ++ put.map fun y => (key y.1, y.2) } }
  match frxFind rd 4 with
  | none => t
  | some x => ((frxSets rd).zipIdx).foldl (fun u y =>
      if y.1 = 0 then u else u.installSet (e.part * 256 + e.setBase + y.2) (u.global (e.base + x.destOff + y.1))) t

/-- MODEL_LOAD_COMPLETE: steps 5 and 6 of R416, once every block is in. -/
def execModelLoadComplete (slot : Nat) (templates : List (Nat × Template)) (s : State) : Res :=
  match s.loadOf slot with
  | none => done s
  | some c =>
    let e := s.mslot slot
    if c.count ≠ 0 || e.area = 0 || !s.dutyServed 1 then done s
    else
      let rd := s.frx e.image
      let t := s.installTables e rd templates
      let t := (s.slotGranules slot).foldl (fun u g =>
        u.putRegion g (nsetBit (u.regionRaw g % 2 ^ 62 + 2 ^ 62) 60 true)) t
      let t := t.setMslot slot (e.filled rd)
      let t := t.measure (8 + e.part) (0x11#8 :: leBytes slot 1 ++ leBytes e.gen 2 ++ sha3 ((List.range 2112).map rd)
        ++ (List.range 32).map (fun k => rd (24 + k)) ++ leBytes (t.global e.base) 8)
      done (((t.journalClose 4 slot).loadOver c.id).finish c.id 0 e.gen)

end Sys2Proof.Machine
end

