-- ==== Sys2Proof/Machine/Mason.lean ====
section
/-! DEFINITION. The Mason core of a brick (chapter 5): fetch, registers with their latencies, the local space, the 57 rows of
its instruction set, and a work item's start and end. A row runs the instruction at the brick's program counter when that
instruction is the row's; an illegal one faults whichever row meets it. -/

namespace Sys2Proof.Machine

/-! ## Instruction words (Table 5-3) -/

/-- `OP`. -/
def mOp (w : Nat) : Nat := nbits w 31 26

/-- Bits [25:21]: `RD`, or `RS2` of a store, or `RS1` of formats B, E and M. -/
def mA (w : Nat) : Nat := nbits w 25 21

/-- Bits [20:16]: `RS1`, or `RS2` of formats B and E. -/
def mB (w : Nat) : Nat := nbits w 20 16

/-- Bits [15:11]: `RS2` of format R. -/
def mC (w : Nat) : Nat := nbits w 15 11

/-- `IMM` zero-extended. -/
def mImm (w : Nat) : Nat := w % 2 ^ 16

/-- `IMM` sign-extended to 32 bits. -/
def mSext (w : Nat) : Nat := if nbit w 15 then 2 ^ 32 - 2 ^ 16 + w % 2 ^ 16 else w % 2 ^ 16

/-- `FUNCT`. -/
def mFunct (w : Nat) : Nat := w % 2 ^ 6

/-- `TGT`, or `ENG` of format W. -/
def mTgt (w : Nat) : Nat := nbits w 20 18

/-- Is a word a legal instruction (R137)? -/
def mLegal (w : Nat) : Bool :=
  let op := mOp w
  let f := mFunct w
  if op = 0 then nbits w 10 6 = 0 && (f ≤ 0x0D || (0x10 ≤ f && f ≤ 0x16))
  else if op ≤ 0x06 then true
  else if op ≤ 0x09 then nbits w 15 5 = 0
  else if op = 0x0A then mB w = 0
  else if 0x10 ≤ op && op ≤ 0x14 then true
  else if 0x18 ≤ op && op ≤ 0x1A then true
  else if 0x20 ≤ op && op ≤ 0x25 then true
  else if op = 0x26 then mB w = 0
  else if op = 0x27 then true
  else if op = 0x30 then nbits w 15 13 < 4 && nbits w 12 0 = 0
  else if op = 0x31 then mTgt w < 4 && nbits w 17 16 = 0
  else if op = 0x32 then mTgt w < 6 && nbits w 17 16 = 0
  else if op = 0x38 then mA w = 0 && mTgt w < 4 && nbits w 17 16 = 0 && nbits w 15 6 = 0
  else if op = 0x39 then mA w = 0 && mTgt w < 4 && nbits w 17 16 = 0 && mImm w = 0
  else if op = 0x3A then mA w = 0 && mTgt w < 4 && nbits w 17 16 = 0
  else if op = 0x3F then w % 2 ^ 26 = 0
  else false

/-! ## Faults and fetching (R153, R154) -/

/-- The ring message that reports a Mason fault or an absent routine. -/
def State.faultReport (s : State) (n : Nat) (r : BRun) (status pc addr : Nat) : State :=
  s.f2h (r.part + 1) (mkMsg 0x8010 0 0 0 [(16, 2, status), (18, 2, (s.logicalOf n).getD 0x3FFF), (20, 2, pc), (24, 8, addr),
    (32, 8, r.step)])

/-- Halt the work item with `MASON_FAULT`; firmware reports it. -/
def State.masonFault (s : State) (n addr : Nat) : State :=
  let b := s.brick n
  match b.run with
  | none => s
  | some r => (s.halt n 0x0A04).faultReport n r 0x0A04 b.pc addr

/-- Results whose latency has passed reach their registers; two in the opposite of their program order are a hazard, and
the register keeps the value written last (R144). -/
def State.landRegs (s : State) (n : Nat) : State :=
  let b := s.brick n
  let due := (b.pend.filter fun w => w.vis ≤ b.clk).mergeSort fun u v => u.vis < v.vis || (u.vis = v.vis && u.order ≤ v.order)
  due.foldl (fun t w =>
    let c := t.brick n
    let inverted := w.order < smGet (fun _ => 0) c.xOrder w.reg
    let t1 := t.setBrick n { c with
      x := smSet (fun _ => 0) c.x w.reg w.val
      xOrder := smSet (fun _ => 0) c.xOrder w.reg w.order }
    if inverted then t1.hazard n 0 c.pc 1 (0x7FF00 + w.reg) w.vis else t1)
    (s.setBrick n { b with pend := b.pend.filter fun w => b.clk < w.vis })

/-- What the core meets when it executes its next instruction. -/
inductive Fetch5 where
  | idle
  | fault (t : State)
  | word (w : Nat) (t : State)

/-- Fetch and check the instruction at the program counter, in the core's cycle or, where the brick's time has gone past it, in the one
the brick has reached (DESIGN CHOICE, log 70). -/
def State.fetchMason (s : State) (n : Nat) (parity : Bool) : Fetch5 :=
  let b := s.brick n
  match b.run with
  | none => .idle
  | some r =>
    if r.ended then .idle
    else
      let t := (s.setBrick n { b with clk := b.cycle }).runTo n b.cycle
      if (t.brick n).run.isNone then .fault t
      else if parity then
        let u := t.masonFault n b.pc
        .fault (u.setBrick n { u.brick n with held := none, code := [], entries := [] })
      else match b.code[b.pc]? with
        | none => .fault (t.masonFault n b.pc)
        | some w => if mLegal w then .word w (t.landRegs n) else .fault (t.masonFault n b.pc)

/-- Run a row: nothing where the core has nothing to execute or its next instruction is another row's; else the body, and
the hazard policy after it (R147). -/
def masonRow (brick : Nat) (parity : Bool) (is : Nat → Bool) (body : Nat → State → State) (s : State) : Res :=
  match s.fetchMason brick parity with
  | .idle => done s
  | .fault t => done t
  | .word w t => if is w then done ((body w t).trap brick) else done s

/-! ## Registers and the clock (R134, R143) -/

/-- Read a register at the core's cycle: a result not yet landed makes the read early. -/
def State.xr (s : State) (n r : Nat) : Nat × State :=
  if r = 0 then (0, s)
  else
    let b := s.brick n
    let v := smGet (fun _ => 0) b.x r
    if b.pend.any fun w => w.reg = r then (v, s.hazard n 0 b.pc 1 (0x7FF00 + r) b.clk) else (v, s)

/-- Send a result to a register with a latency. -/
def State.xw (s : State) (n r v lat : Nat) : State :=
  if r = 0 then s
  else
    let b := s.brick n
    s.setBrick n { b with pend := b.pend ++ [⟨r, v % 2 ^ 32, b.clk + lat, b.order⟩] }

/-- Go on: the next instruction's place and the cycle it executes in. -/
def State.mGo (s : State) (n pc clk : Nat) : State :=
  let b := s.brick n
  s.setBrick n { b with pc := pc % 2 ^ 13, clk := clk, order := b.order + 1 }

/-- Go on with the instruction after this one, `cyc` cycles later. -/
def State.mNext (s : State) (n : Nat) (cyc : Nat := 1) : State := s.mGo n ((s.brick n).pc + 1) ((s.brick n).clk + cyc)

/-! ## The ALU (Table 5-5, R138) -/

/-- A 32-bit pattern as a signed number. -/
def sgn32 (a : Nat) : Int := signedN 32 a

/-- A signed number as a 32-bit pattern. -/
def pat32 (v : Int) : Nat := (v % (2 ^ 32 : Nat)).toNat

/-- Signed division rounding toward zero, with the cases of R138. -/
def mDiv (a b : Nat) : Nat := if b = 0 then 0xFFFFFFFF else pat32 ((sgn32 a).tdiv (sgn32 b))

/-- Signed remainder with the dividend's sign. -/
def mRem (a b : Nat) : Nat := if b = 0 then a else pat32 ((sgn32 a).tmod (sgn32 b))

/-- An arithmetic right shift. -/
def mSra (a k : Nat) : Nat := pat32 (sgn32 a / (2 ^ k : Nat))

/-- A register-register row: `FUNCT`, its function and its latency. -/
def aluRow (brick : Nat) (parity : Bool) (funct : Nat) (f : Nat → Nat → Nat) (lat : Nat) (s : State) : Res :=
  masonRow brick parity (fun w => mOp w = 0 && mFunct w = funct) (fun w t =>
    let p := t.xr brick (mB w)
    let q := p.2.xr brick (mC w)
    (q.2.xw brick (mA w) (f p.1 q.1) lat).mNext brick) s

/-- An immediate row: its opcode and its function of `RS1` and the word. -/
def immRow (brick : Nat) (parity : Bool) (op : Nat) (f : Nat → Nat → Nat) (s : State) : Res :=
  masonRow brick parity (fun w => mOp w = op) (fun w t =>
    let p := t.xr brick (mB w)
    (p.2.xw brick (mA w) (f p.1 w) 1).mNext brick) s

def execAluAdd (brick : Nat) (parity : Bool) (s : State) : Res := aluRow brick parity 0x00 (fun a b => a + b) 1 s
def execAluSub (brick : Nat) (parity : Bool) (s : State) : Res := aluRow brick parity 0x01 (fun a b => a + (2 ^ 32 - b)) 1 s
def execAluAnd (brick : Nat) (parity : Bool) (s : State) : Res := aluRow brick parity 0x02 (fun a b => a &&& b) 1 s
def execAluOr (brick : Nat) (parity : Bool) (s : State) : Res := aluRow brick parity 0x03 (fun a b => a ||| b) 1 s
def execAluXor (brick : Nat) (parity : Bool) (s : State) : Res := aluRow brick parity 0x04 (fun a b => a ^^^ b) 1 s
def execAluSll (brick : Nat) (parity : Bool) (s : State) : Res := aluRow brick parity 0x05 (fun a b => a * 2 ^ (b % 32)) 1 s
def execAluSrl (brick : Nat) (parity : Bool) (s : State) : Res := aluRow brick parity 0x06 (fun a b => a / 2 ^ (b % 32)) 1 s
def execAluSra (brick : Nat) (parity : Bool) (s : State) : Res := aluRow brick parity 0x07 (fun a b => mSra a (b % 32)) 1 s
def execAluSlt (brick : Nat) (parity : Bool) (s : State) : Res :=
  aluRow brick parity 0x08 (fun a b => if sgn32 a < sgn32 b then 1 else 0) 1 s
def execAluSltu (brick : Nat) (parity : Bool) (s : State) : Res :=
  aluRow brick parity 0x09 (fun a b => if a < b then 1 else 0) 1 s
def execAluMin (brick : Nat) (parity : Bool) (s : State) : Res :=
  aluRow brick parity 0x0A (fun a b => if sgn32 a < sgn32 b then a else b) 1 s
def execAluMax (brick : Nat) (parity : Bool) (s : State) : Res :=
  aluRow brick parity 0x0B (fun a b => if sgn32 a < sgn32 b then b else a) 1 s
def execAluMinu (brick : Nat) (parity : Bool) (s : State) : Res := aluRow brick parity 0x0C (fun a b => min a b) 1 s
def execAluMaxu (brick : Nat) (parity : Bool) (s : State) : Res := aluRow brick parity 0x0D (fun a b => max a b) 1 s
def execAluMul (brick : Nat) (parity : Bool) (s : State) : Res := aluRow brick parity 0x10 (fun a b => a * b) 3 s
def execAluMulh (brick : Nat) (parity : Bool) (s : State) : Res :=
  aluRow brick parity 0x11 (fun a b => pat32 (sgn32 a * sgn32 b / (2 ^ 32 : Nat))) 3 s
def execAluMulhu (brick : Nat) (parity : Bool) (s : State) : Res := aluRow brick parity 0x12 (fun a b => a * b / 2 ^ 32) 3 s
def execAluDiv (brick : Nat) (parity : Bool) (s : State) : Res := aluRow brick parity 0x13 mDiv 34 s
def execAluDivu (brick : Nat) (parity : Bool) (s : State) : Res :=
  aluRow brick parity 0x14 (fun a b => if b = 0 then 0xFFFFFFFF else a / b) 34 s
def execAluRem (brick : Nat) (parity : Bool) (s : State) : Res := aluRow brick parity 0x15 mRem 34 s
def execAluRemu (brick : Nat) (parity : Bool) (s : State) : Res :=
  aluRow brick parity 0x16 (fun a b => if b = 0 then a else a % b) 34 s

def execAddi (brick : Nat) (parity : Bool) (s : State) : Res := immRow brick parity 0x01 (fun a w => a + mSext w) s
def execAndi (brick : Nat) (parity : Bool) (s : State) : Res := immRow brick parity 0x02 (fun a w => a &&& mImm w) s
def execOri (brick : Nat) (parity : Bool) (s : State) : Res := immRow brick parity 0x03 (fun a w => a ||| mImm w) s
def execXori (brick : Nat) (parity : Bool) (s : State) : Res := immRow brick parity 0x04 (fun a w => a ^^^ mImm w) s
def execSlti (brick : Nat) (parity : Bool) (s : State) : Res :=
  immRow brick parity 0x05 (fun a w => if sgn32 a < sgn32 (mSext w) then 1 else 0) s
def execSltiu (brick : Nat) (parity : Bool) (s : State) : Res :=
  immRow brick parity 0x06 (fun a w => if a < mSext w then 1 else 0) s
def execSlli (brick : Nat) (parity : Bool) (s : State) : Res := immRow brick parity 0x07 (fun a w => a * 2 ^ (mImm w % 32)) s
def execSrli (brick : Nat) (parity : Bool) (s : State) : Res := immRow brick parity 0x08 (fun a w => a / 2 ^ (mImm w % 32)) s
def execSrai (brick : Nat) (parity : Bool) (s : State) : Res := immRow brick parity 0x09 (fun a w => mSra a (mImm w % 32)) s
def execLui (brick : Nat) (parity : Bool) (s : State) : Res := immRow brick parity 0x0A (fun _ w => mImm w * 2 ^ 16) s

/-! ## The local space (Tables 5-1 and 5-2) -/

/-- The ranges of the local space. -/
inductive MSpace where
  | data (off : Nat)
  | bed (off : Nat)
  | ctrl (off : Nat)
  | none
deriving DecidableEq, Repr

/-- Where `len` bytes at a local address lie: naturally aligned and within one listed range (R135). -/
def mSpace (a len : Nat) : MSpace :=
  if a % len ≠ 0 then .none
  else if a < 0x10000 then .data a
  else if 0x80000 ≤ a && a < 0x100000 then .bed (a - 0x80000)
  else if 0x100000 ≤ a && a < 0x100140 then .ctrl (a - 0x100000)
  else .none

/-- The `WAIT` conditions that hold in cycle c, by bit (Table 5-5). -/
def Brick.condHolds (b : Brick) (c k : Nat) : Bool :=
  if k < 4 then (b.queues.getD k []) = [] && b.idle.getD k 0 < c
  else if k = 4 then b.absent = []
  else b.bedEnd < c

/-- A word whose bit j is set where `p j`. -/
def setMask (w : Nat) (p : Nat → Bool) : Nat := (List.range w).foldl (fun n j => if p j then n + 2 ^ j else n) 0

/-- A word of the control space (Table 5-2); unlisted words read as zero. -/
def State.ctrlWord (s : State) (n off : Nat) : Nat :=
  let b := s.brick n
  let q (e : Nat) : Nat := (b.queues.getD e []).length
  let f (k : Nat) : Nat := (b.fifos.getD k []).length
  if off = 0 then b.clk % 2 ^ 32
  else if off = 4 then b.clk / 2 ^ 32 % 2 ^ 32
  else if off = 8 then q 0 + q 1 * 2 ^ 8 + q 2 * 2 ^ 16 + q 3 * 2 ^ 24
  else if off = 0xC then f 0 + f 1 * 2 ^ 8 + f 2 * 2 ^ 16 + f 3 * 2 ^ 24
  else if off = 0x10 then f 4 + f 5 * 2 ^ 8
  else if off = 0x14 then setMask 6 (b.condHolds b.clk)
  else if off = 0x18 then (s.logicalOf n).getD 0x3FFF + (match b.run with | some r => r.part | none => 0) * 2 ^ 16
  else if 0x40 ≤ off && off < 0x60 then setMask 32 fun j => !b.absent.contains ((off - 0x40) / 4 * 32 + j)
  else if 0x80 ≤ off && off < 0x100 then setMask 32 fun j => b.full.contains ((off - 0x80) / 4 * 32 + j)
  else if 0x100 ≤ off then setMask 32 fun j => b.rbFull.contains ((off - 0x100) / 4 * 32 + j)
  else 0

/-- The local address of a load or store: register plus sign-extended immediate. -/
def mAddr (base w : Nat) : Nat := (base + mSext w) % 2 ^ 32

/-- Extend a value of `len` bytes, with its sign or with zeros. -/
def mExtend (len : Nat) (signed : Bool) (v : Nat) : Nat := if signed then pat32 (signedN (8 * len) v) else v

/-- Halt on poison consumed by the core (R126, R136, R153). -/
def State.masonPoison (s : State) (n : Nat) (a : Option Nat) : State := (s.poisoned n a).halt n St.poisonConsumed

/-- The core's own instruction, as the monitor sees it. -/
def Brick.mason (b : Brick) : EIns := ⟨0, b.pc, b.order, b.clk⟩

/-! ## Data memory (R153) -/

/-- How the checker reads the data-memory word of an offset. -/
def Brick.dataEcc (b : Brick) (o : Nat) : Ecc := decodeSyndrome (smGet syndDefault b.dsynd (o / 8)).toNat

/-- Set the syndrome of a data-memory word. -/
def Brick.dataSynd (b : Brick) (o v : Nat) : Brick := { b with dsynd := smSet syndDefault b.dsynd (o / 8) (BitVec.ofNat 8 v) }

/-- Bytes of data memory. -/
def Brick.data (b : Brick) (o n : Nat) : List Byte := (List.range n).map fun k => smGet (fun _ => 0) b.dmem (o + k)

/-- Write bytes of data memory as they are. -/
def Brick.dataPut (b : Brick) (o : Nat) (bs : List Byte) : Brick :=
  { b with dmem := (bs.zipIdx).foldl (fun (m : List (Nat × Byte)) (e : Byte × Nat) => smSet (fun _ => 0) m (o + e.2) e.1) b.dmem }

/-- Invert stored bits of a data-memory word: 64 data bits, then 8 check bits (R381, R382). -/
def Brick.dataFlip (b : Brick) (o : Nat) (fault : BitVec 72) : Brick :=
  let f := fault.toNat
  if f = 0 then b
  else
    let w := o / 8 * 8
    let syn := (smGet syndDefault b.dsynd (o / 8)).toNat ^^^ foldColumns dataColumns (f % 2 ^ 64) ^^^ (f / 2 ^ 64)
    (b.dataPut w (leBytes (leNat (b.data w 8) ^^^ (f % 2 ^ 64)) 8)).dataSynd o syn

/-- The checker meets the word of an offset: a correctable error is corrected in place. -/
def Brick.dataFix (b : Brick) (o : Nat) : Brick :=
  match b.dataEcc o with
  | .checkBit _ => b.dataSynd o 0
  | .dataBit i =>
    let a := o / 8 * 8 + i / 8
    (b.dataPut a [smGet (fun _ => 0) b.dmem a ^^^ BitVec.ofNat 8 (2 ^ (i % 8))]).dataSynd o 0
  | _ => b

/-- Bits of the data-memory word of an offset are inverted, and the words under `[o, o + n)` are checked: the flag says that one is
uncorrectable. -/
def State.dataCheck (s : State) (brick o n : Nat) (fault : BitVec 72) : Bool × State :=
  let b := (wordsOf o n).foldl Brick.dataFix ((s.brick brick).dataFlip o fault)
  ((wordsOf o n).any fun w => (b.dataEcc w).bad, s.setBrick brick b)

/-! ## Loads and stores -/

/-- A load row. `fault` inverts stored bits of the data-memory word first. -/
def loadRow (brick : Nat) (parity : Bool) (fault : BitVec 72) (op len : Nat) (signed : Bool) (s : State) : Res :=
  masonRow brick parity (fun w => mOp w = op) (fun w t =>
    let p := t.xr brick (mB w)
    let a := mAddr p.1 w
    let u := p.2
    match mSpace a len with
    | .none => u.masonFault brick a
    | .data o =>
      let c := u.dataCheck brick o len fault
      if c.1 then c.2.masonPoison brick none
      else (c.2.xw brick (mA w) (mExtend len signed (leNat ((c.2.brick brick).data o len))) 3).mNext brick
    | .bed o =>
      let r := u.bedRead brick 4 (u.brick brick).mason o len (u.brick brick).clk
      if r.2.1 then r.2.2.masonPoison brick (some (bedAddr brick o))
      else (r.2.2.xw brick (mA w) (mExtend len signed (leNat r.1)) 20).mNext brick
    | .ctrl o =>
      let v := u.ctrlWord brick (o / 4 * 4) / 2 ^ (8 * (o % 4)) % 2 ^ (8 * len)
      (u.xw brick (mA w) (mExtend len signed v) 4).mNext brick) s

/-- A store row. `fault` inverts stored bits of the data-memory word first; a store into an uncorrectable word is dropped and halts, as
R136 has it of the Bed (DEDUCED from Table 14-4, log 70). A store to the Bed is on its way for 20 cycles. -/
def storeRow (brick : Nat) (parity : Bool) (fault : BitVec 72) (op len : Nat) (s : State) : Res :=
  masonRow brick parity (fun w => mOp w = op) (fun w t =>
    let p := t.xr brick (mB w)
    let q := p.2.xr brick (mA w)
    let a := mAddr p.1 w
    let u := q.2
    match mSpace a len with
    | .none => u.masonFault brick a
    | .ctrl _ => u.masonFault brick a
    | .data o =>
      let c := u.dataCheck brick o len fault
      if c.1 then c.2.masonPoison brick none
      else (c.2.setBrick brick ((c.2.brick brick).dataPut o (leBytes q.1 len))).mNext brick
    | .bed o =>
      let b := u.brick brick
      let j : Job := { ins := b.mason, eng := 4, t0 := b.clk, units := [o], n := 1, buf := [(natsOf (leBytes q.1 len), false)] }
      (u.setBrick brick { b with jobs := b.jobs ++ [j], bedEnd := max b.bedEnd j.ends }).mNext brick) s

def execLw (brick : Nat) (parity : Bool) (fault : BitVec 72) (s : State) : Res := loadRow brick parity fault 0x10 4 false s
def execLh (brick : Nat) (parity : Bool) (fault : BitVec 72) (s : State) : Res := loadRow brick parity fault 0x11 2 true s
def execLhu (brick : Nat) (parity : Bool) (fault : BitVec 72) (s : State) : Res := loadRow brick parity fault 0x12 2 false s
def execLb (brick : Nat) (parity : Bool) (fault : BitVec 72) (s : State) : Res := loadRow brick parity fault 0x13 1 true s
def execLbu (brick : Nat) (parity : Bool) (fault : BitVec 72) (s : State) : Res := loadRow brick parity fault 0x14 1 false s
def execSw (brick : Nat) (parity : Bool) (fault : BitVec 72) (s : State) : Res := storeRow brick parity fault 0x18 4 s
def execSh (brick : Nat) (parity : Bool) (fault : BitVec 72) (s : State) : Res := storeRow brick parity fault 0x19 2 s
def execSb (brick : Nat) (parity : Bool) (fault : BitVec 72) (s : State) : Res := storeRow brick parity fault 0x1A 1 s

/-! ## Branches and jumps -/

/-- A conditional branch row. -/
def branchRow (brick : Nat) (parity : Bool) (op : Nat) (cond : Nat → Nat → Bool) (s : State) : Res :=
  masonRow brick parity (fun w => mOp w = op) (fun w t =>
    let p := t.xr brick (mA w)
    let q := p.2.xr brick (mB w)
    let b := q.2.brick brick
    if cond p.1 q.1 then q.2.mGo brick (b.pc + mSext w) (b.clk + 3) else q.2.mNext brick) s

def execBeq (brick : Nat) (parity : Bool) (s : State) : Res := branchRow brick parity 0x20 (fun a b => a = b) s
def execBne (brick : Nat) (parity : Bool) (s : State) : Res := branchRow brick parity 0x21 (fun a b => a ≠ b) s
def execBlt (brick : Nat) (parity : Bool) (s : State) : Res := branchRow brick parity 0x22 (fun a b => sgn32 a < sgn32 b) s
def execBge (brick : Nat) (parity : Bool) (s : State) : Res := branchRow brick parity 0x23 (fun a b => sgn32 b ≤ sgn32 a) s
def execBltu (brick : Nat) (parity : Bool) (s : State) : Res := branchRow brick parity 0x24 (fun a b => a < b) s
def execBgeu (brick : Nat) (parity : Bool) (s : State) : Res := branchRow brick parity 0x25 (fun a b => b ≤ a) s

/-- `JAL`. -/
def execJal (brick : Nat) (parity : Bool) (s : State) : Res :=
  masonRow brick parity (fun w => mOp w = 0x26) (fun w t =>
    let b := t.brick brick
    (t.xw brick (mA w) (b.pc + 1) 1).mGo brick (b.pc + mSext w) (b.clk + 3)) s

/-- `JALR`. -/
def execJalr (brick : Nat) (parity : Bool) (s : State) : Res :=
  masonRow brick parity (fun w => mOp w = 0x27) (fun w t =>
    let p := t.xr brick (mB w)
    let b := p.2.brick brick
    (p.2.xw brick (mA w) (b.pc + 1) 1).mGo brick (p.1 + mSext w) (b.clk + 3)) s

/-! ## Pushes (R139) -/

/-- Put an engine instruction in a queue that has room. -/
def State.pushIns (s : State) (n e word ready : Nat) : State :=
  let b := s.brick n
  s.setBrick n { b with queues := b.queues.modify e fun q => q ++ [⟨word, b.pc, b.order, b.clk + ready⟩] }

/-- Is an engine's queue full? -/
def Brick.queueFull (b : Brick) (e : Nat) : Bool := 16 ≤ (b.queues.getD e []).length

/-- `EPUSH`; into a full queue it stalls. -/
def execEpush (brick : Nat) (parity : Bool) (s : State) : Res :=
  match s.fetchMason brick parity with
  | .idle => done s
  | .fault t => done t
  | .word w t =>
    if mOp w = 0x30 && !(t.brick brick).queueFull (nbits w 15 13) then
      let p := t.xr brick (mA w)
      let q := p.2.xr brick (mB w)
      done (((q.2.pushIns brick (nbits w 15 13) (q.1 * 2 ^ 32 + p.1) 2).mNext brick).trap brick)
    else done s

/-- Do `n` bytes at a local address lie in data memory, aligned to `n`? -/
def inData (a n : Nat) : Bool := a % n = 0 && a + n ≤ 0x10000

/-- `EPUSHM`; into a full queue it stalls. `fault` inverts stored bits of the data-memory word first. -/
def execEpushm (brick : Nat) (parity : Bool) (fault : BitVec 72) (s : State) : Res :=
  match s.fetchMason brick parity with
  | .idle => done s
  | .fault t => done t
  | .word w t =>
    if mOp w = 0x31 && !(t.brick brick).queueFull (mTgt w) then
      let p := t.xr brick (mA w)
      let a := mAddr p.1 w
      if !inData a 8 then done (p.2.masonFault brick a)
      else
        let c := p.2.dataCheck brick a 8 fault
        if c.1 then done (c.2.masonPoison brick none)
        else done (((c.2.pushIns brick (mTgt w) (leNat ((c.2.brick brick).data a 8)) 4).mNext brick 3).trap brick)
    else done s

/-- `SPUSHM`; into a full FIFO it stalls, or faults where no descriptor there is the last of its stream. `fault` inverts stored bits of
the descriptor's first word. -/
def execSpushm (brick : Nat) (parity : Bool) (fault : BitVec 72) (s : State) : Res :=
  match s.fetchMason brick parity with
  | .idle => done s
  | .fault t => done t
  | .word w t =>
    if mOp w = 0x32 then
      let p := t.xr brick (mA w)
      let a := mAddr p.1 w
      let q := (p.2.brick brick).fifos.getD (mTgt w) []
      if !inData a 32 then done (p.2.masonFault brick a)
      else if 32 ≤ q.length then
        if q.any SDesc.last then done s else done (p.2.masonFault brick a)
      else
        let c := p.2.dataCheck brick a 32 fault
        if c.1 then done (c.2.masonPoison brick none)
        else
          let b := c.2.brick brick
          let bs := b.data a 32
          let d : SDesc := ⟨fieldB bs 0 8, fieldB bs 8 8, fieldB bs 16 8, fieldB bs 24 8, b.clk + 7⟩
          done (((c.2.setBrick brick { b with fifos := b.fifos.modify (mTgt w) fun f => f ++ [d] }).mNext brick 4).trap brick)
    else done s

/-! ## Waits and the end -/

/-- The cycle from which a `WAIT` condition has held; none while it cannot be told to hold. -/
def Brick.condSince (b : Brick) (k : Nat) : Option Nat :=
  if k < 4 then (if (b.queues.getD k []) = [] then some (b.idle.getD k 0) else none)
  else if k = 4 then (if b.absent = [] then some 0 else none)
  else some b.bedEnd

/-- `WAIT`: it ends when its conditions hold, and not before. -/
def execMasonWait (brick : Nat) (parity : Bool) (s : State) : Res :=
  match s.fetchMason brick parity with
  | .idle => done s
  | .fault t => done t
  | .word w t =>
    let b := t.brick brick
    let ks := bitsOf (mImm w) 6
    if mOp w = 0x38 && ks.all fun k => (b.condSince k).isSome then
      let c := ks.foldl (fun m k => max m ((b.condSince k).getD 0)) b.clk
      done ((t.mGo brick (b.pc + 1) (c + 1)).trap brick)
    else done s

/-- `WAITI`: it ends when the instruction last pushed to its engine has issued. -/
def execWaiti (brick : Nat) (parity : Bool) (s : State) : Res :=
  match s.fetchMason brick parity with
  | .idle => done s
  | .fault t => done t
  | .word w t =>
    let b := t.brick brick
    if mOp w = 0x39 && (b.queues.getD (mTgt w) []) = [] then
      done ((t.mGo brick (b.pc + 1) (max b.clk (b.popped.getD (mTgt w) 0) + 1)).trap brick)
    else done s

/-- `WAITC`. -/
def execWaitc (brick : Nat) (parity : Bool) (s : State) : Res :=
  masonRow brick parity (fun w => mOp w = 0x3A) (fun w t => t.mNext brick (max 1 (mImm w))) s

/-- `END`: the core has executed it (R149). -/
def execMEnd (brick : Nat) (parity : Bool) (s : State) : Res :=
  masonRow brick parity (fun w => mOp w = 0x3F) (fun _ t =>
    let b := t.brick brick
    (t.setBrick brick { b with run := b.run.map fun r => { r with ended := true } }).mNext brick) s

/-! ## Work items (R149 to R152) -/

/-- A routine set's header: code bytes, data bytes and routines, if Table 5-10 admits them. -/
def setHeader (hdr : List Byte) : Option (Nat × Nat × Nat) :=
  let cb := fieldB hdr 0 4
  let db := fieldB hdr 4 4
  let rs := fieldB hdr 8 2
  if 4 ≤ cb && cb ≤ 32768 && cb % 4 = 0 && db ≤ 65472 && db % 8 = 0 && 1 ≤ rs && rs ≤ 256 && fieldB hdr 10 2 = 1
      && (hdr.drop 12).all (· = 0) && 4 * rs ≤ db then some (cb, db, rs)
  else none

/-- The work descriptor (Table 5-11). -/
def workDesc (set routine step : Nat) (args : List Nat) : List Byte :=
  recB 64 ([(0, 2, set), (2, 2, routine), (8, 8, step)] ++ ((args.take 12).zipIdx).map fun a => (16 + 4 * a.2, 4, a.1))

/-- The work item cannot start: it completes with a status, and firmware reports it. -/
def State.routineAbsent (s : State) (n : Nat) (r : BRun) : State :=
  (((s.workFail r.own 0x0A05).itemOver r).faultReport n r 0x0A05 0 0)

/-- What loading a routine set comes to (R151): a status, 0x0A05 for a malformed image and 0x0401 where a word of it is poisoned, the
cycles it takes, and the state after. -/
def State.loadSet (s : State) (n : Nat) (r : BRun) (set gen ga : Nat) : Nat × Nat × State :=
  let base := localOf ga
  match (s.sampled r.own).rangeStatus (.part r.part) false base 64 with
  | 0 =>
    let h := s.loadFor r.own base 64
    if h.2.1 then (St.poisonConsumed, 0, h.2.2)
    else match setHeader h.1 with
      | none => (0x0A05, 0, h.2.2)
      | some (cb, db, rs) =>
        let off := (64 + cb + 63) / 64 * 64
        match (s.sampled r.own).rangeStatus (.part r.part) false base (off + db) with
        | 0 =>
          let c := h.2.2.loadFor r.own (base + 64) cb
          let d := c.2.2.loadFor r.own (base + off) db
          let b := d.2.2.brick n
          let t := d.2.2.setBrick n { b with
            held := some (set, gen), dsynd := []
            code := (List.range (cb / 4)).map fun k => fieldB c.1 (4 * k) 4
            entries := (List.range rs).map fun k => fieldB d.1 (4 * k) 4
            dmem := ((d.1.zipIdx).filter fun e => e.1 ≠ 0).map fun e => (e.2, e.1) }
          let res := t.yd.resident.filter (fun x => !(x.brick = n && x.routineSet)) ++ [({ brick := n, base := ga, len := off + db, routineSet := true } : Resident)]
          (if c.2.1 || d.2.1 then St.poisonConsumed else 0, 64 + ((cb + db) * 5 + 255) / 256, { t with yd := { t.yd with resident := res } })
        | c => (c, 0, h.2.2)
  | c => (c, 0, s)

/-- Does a brick hold a routine set and generation, with no ACQUIRE since that dropped its copy (R149, R259)? -/
def State.holdsSet (s : State) (n set gen : Nat) : Bool :=
  (s.brick n).held = some (set, gen) && s.yd.resident.any fun y => y.brick = n && y.routineSet

/-- Is a declared resident copy kept in a brick's Bed: Bed offset, global base and bytes? -/
def State.keeps (s : State) (n : Nat) (d : Nat × Nat × Nat) : Bool :=
  s.yd.resident.any fun x => x.brick = n && !x.routineSet && x.off = d.1 && x.base = d.2.1 && x.len = d.2.2

/-- A declared copy is loaded into a brick's Bed, in place of those it overlaps: at once from this device's memory, else by requests
for its bytes; and the status that its source is refused with (R256, R259). -/
def State.bringResident (s : State) (n : Nat) (r : BRun) (d : Nat × Nat × Nat) : Nat × State :=
  let covered (x : Resident) : Bool := x.brick = n && !x.routineSet && x.off < d.1 + d.2.2 && d.1 < x.off + x.len
  let put (t : State) (coming : List Nat) : State :=
    { t with yd := { t.yd with resident := t.yd.resident.filter (fun x => !covered x)
      ++ [({ brick := n, base := d.2.1, len := d.2.2, routineSet := false, off := d.1, coming := coming } : Resident)] } }
  if 2 ^ 19 < d.1 + d.2.2 || d.2.1 / 2 ^ 44 % 256 ≠ 0 then (St.addressUnmapped, s)
  else if devOf d.2.1 = s.dv.devNum then
    let a := localOf d.2.1
    match (s.sampled r.own).rangeStatus (.part r.part) false a d.2.2 with
    | 0 =>
      let bad := (wordsOf a d.2.2).filter s.asServed.wordBad
      let x := s.loadFor r.own a d.2.2
      let w : Access := { op := 1, addr := bedAddr n d.1, len := d.2.2, data := x.1.map some
                          bad := bad.map fun w => bedAddr n d.1 + w - a }
      (0, put (x.2.2.perform w).2.2 [])
    | c => (c, s)
  else
    let ps := piecesOf 256 d.2.1 d.2.2
    ps.foldl (fun (acc : Nat × State) p =>
      if acc.1 ≠ 0 then acc
      else
        let m : QMsg := { top := 1, addr := p.1, part := r.part, type := 0, len := p.2, data := []
                          use := .bed n (d.1 + p.1 - d.2.1) r.own true }
        match (acc.2.passAway r.own r.part p.2).sendRemote m with
        | (0, u) => (0, u.oweAck r.own 1)
        | e => e) (0, put s (ps.map (·.1)))

/-- The copies that a work item declares are brought where its brick does not keep them. -/
def State.bringResidents (s : State) (n : Nat) (r : BRun) (ds : List (Nat × Nat × Nat)) : Nat × State :=
  ds.foldl (fun (acc : Nat × State) d => if acc.1 ≠ 0 || acc.2.keeps n d then acc else acc.2.bringResident n r d) (0, s)

/-- Does a brick's copy still wait for bytes of another device? -/
def State.residentsComing (s : State) (n : Nat) : Bool := s.yd.resident.any fun x => x.brick = n && x.coming ≠ []

/-- WORK_ITEM_START: the item of an admitted step starts on the idle brick the step builder gave it, at a brick cycle, once the
resident copies it declares are there. -/
def execWorkItemStart (step item cycle : Nat) (s : State) : Res :=
  match s.sv.steps.find? fun x => x.num = step with
  | none => done s
  | some x =>
    match x.items[item]? with
    | none => done s
    | some it =>
      match it.brick.bind s.physOf with
      | none => done s
      | some n =>
        let b := s.brick n
        if it.ended || b.run.isSome || s.pt.clearing.contains n || s.quiesced .brk n || s.unit .brk n ≠ 3 || cycle < b.now
            || !s.holdsBrick x.part (it.brick.getD 0) then done s
        else
          let r : BRun := { step := step, item := item, seqs := it.seqs, part := x.part, trap := x.trap, start := cycle }
          let y := s.bringResidents n r it.item.residents
          let s := y.2
          if y.1 ≠ 0 then done ((s.workFail r.own y.1).itemOver r)
          else if s.residentsComing n then done s
          else match s.sv.sets.find? fun e => e.1 = x.part * 256 + it.item.set with
          | none => done (s.routineAbsent n r)
          | some (_, ga, gen) =>
            let l := if s.holdsSet n it.item.set gen then (0, 0, s) else s.loadSet n r it.item.set gen ga
            let c := l.2.2.brick n
            let entry := c.entries.getD it.item.routine (2 ^ 13)
            if l.1 = 0x0A05 || (l.1 = 0 && 2 ^ 13 ≤ entry) then done (l.2.2.routineAbsent n r)
            else if l.1 ≠ 0 && l.1 ≠ St.poisonConsumed then done ((l.2.2.workFail r.own l.1).itemOver r)
            else
              let d := (List.range 8).foldl (fun c k => c.dataSynd (0xFFC0 + 8 * k) 0)
                (c.dataPut 0xFFC0 (workDesc it.item.set it.item.routine step it.args))
              let xs := [(1, 0xFFC0), (2, it.brick.getD 0), (3, x.part)].filter fun (e : Nat × Nat) => e.2 ≠ 0
              let t := l.2.2.setBrick n { d with
                run := some r, x := xs, xOrder := [], pend := [], pc := entry, order := 1, now := max d.now cycle
                clk := cycle + l.2.1 + 40 }
              done (if l.1 = 0 then t else t.masonPoison n (some (localOf ga)))

/-- WORK_ITEM_END: the core has executed `END` and every `WAIT` condition holds at a brick cycle (R148, R149). -/
def execWorkItemEnd (brick cycle : Nat) (s : State) : Res :=
  let s := s.runTo brick (cycle + 1)
  let b := s.brick brick
  match b.run with
  | none => done s
  | some r =>
    if r.ended && ((List.range 6).all fun k => b.condHolds (cycle + 1) k) && b.clk ≤ cycle + 1 then
      let s := s.chargeBrick brick (cycle + 1)
      let s := ((s.setBrick brick { s.brick brick with clk := max b.clk (cycle + 34) }).landRegs brick).trap brick
      let b := s.brick brick
      match b.run with
      | none => done s
      | some q =>
        let s1 := if b.fifos.all fun f => f = [] then s else s.workFail r.own 0x0A03
        let s2 := if q.hazard then s1.workFail r.own St.hazardObserved else s1
        let placed := ((s2.sv.steps.find? fun x => x.num = r.step).bind fun x => x.items[r.item]?).map fun i => i.gen
        let s3 := ((s2.setBrick brick { b.flush with clk := cycle + 1 }).itemOver r).brickFreed brick
        done (if placed = some (s.genOf .brk brick) && s.unit .brk brick = 3 then s3
          else (s3.setUnit .brk brick 5).msgQuarantine .brk 0 brick St.unitStateMismatch 0 0 r.step)
    else done s

end Sys2Proof.Machine
end

