-- ==== Sys2Proof/Machine/Integrity.lean ====
section
/-! DEFINITION. The scrub, the marking of sequences, block reloads and recomputation (chapter 14). -/

namespace Sys2Proof.Machine

/-! ## Sweeps (R390 to R393) -/

/-- The checker that scrubs a word: block code · 2^16 + instance. -/
def State.checkerOf (s : State) (a : Nat) : Option Nat :=
  match s.area a with
  | .stack st => some (Blk.stk.code * 0x10000 + st)
  | .yard b => some (Blk.yrd.code * 0x10000 + smGet (fun l => l) s.yd.slabOf (b / 512))
  | .bed n => some (Blk.brk.code * 0x10000 + n)
  | _ => none

/-- End of the storage that holds a word: its stack, slab or Bed. -/
def unitEnd (a : Nat) : Nat :=
  if a < 16 * stackBytes then (a / stackBytes + 1) * stackBytes
  else if a < yardBase then a / 2 ^ 20 * 2 ^ 20 + 2 ^ 19
  else (a / 2 ^ 25 + 1) * 2 ^ 25

/-- A unit whose storage is scrubbed. -/
def State.scrubbed (s : State) (blk inst : Nat) : Bool :=
  (match Blk.all.find? fun b => b.code = blk with
   | some b => (b = .stk || b = .yrd || b = .brk) && s.present b inst && (s.unit b inst = 3 || s.unit b inst = 4)
   | none => false)

/-- The sweep of a checker that is in progress: its start, ms. -/
def State.sweepOf (s : State) (k : Nat) : Option Nat := (s.it.sweeps.find? fun e => e.1 = k).map fun e => e.2 - 1

/-- SCRUB_SWEEP_START (R390): a sweep begins where none is in progress. -/
def execScrubSweepStart (blk inst now : Nat) (s : State) : Res :=
  let k := blk * 0x10000 + inst
  if !s.scrubbed blk inst || (s.sweepOf k).isSome then done (s.at now)
  else
    let t : State := { s.at now with it := { s.it with sweeps := smPut s.it.sweeps k (now / 1000000 + 1) } }
    done (if blk = Blk.stk.code then t.setFlag F.REG_SCRUB_CTL_SWEEPING true else t)

/-- The sweep of a slab meets the copies its lines hold (R273, R391). -/
def State.scrubLines (s : State) (ph : Nat) : State :=
  (s.yd.lines.filter fun x => x.errs ≠ [] && s.physSlab x.slab = ph).foldl (fun t x =>
    let u := x.errs.foldl (fun (u : State) e =>
      if (decodeSyndrome e.2.2).bad then (u.bump F.REG_GUARD_UE_COUNT).err .reg 0 2 (some (x.line * 64 + 8 * e.1))
      else if e.2.2 = 0 then u
      else u.bump F.REG_GUARD_CE_COUNT) t
    u.checkLine x (List.range 8)) s

/-- The sweep of a brick meets its Mason data memory: correctable words are corrected in place (R153, R391). -/
def State.scrubData (s : State) (n : Nat) : State :=
  (s.brick n).dsynd.foldl (fun t e =>
    let b := t.brick n
    if (b.dataEcc (8 * e.1)).bad then (t.bump F.REG_GUARD_UE_COUNT).err .reg 0 2
    else (t.setBrick n (b.dataFix (8 * e.1))).bump F.REG_GUARD_CE_COUNT) s

/-- What a sweep meets beside the words of the address space: a slab's lines, a brick's data memory. -/
def State.scrubRest (s : State) (k : Nat) : State :=
  if k / 0x10000 = Blk.yrd.code then s.scrubLines (k % 0x10000)
  else if k / 0x10000 = Blk.brk.code then s.scrubData (k % 0x10000)
  else s

/-- A sweep of a checker ends. -/
def State.sweepEnd (s : State) (k now : Nat) : State :=
  let started := (s.sweepOf k).getD (now / 1000000)
  let t : State := { s with it := { s.it with sweeps := smDel s.it.sweeps k } }
  if k / 0x10000 ≠ Blk.stk.code then t
  else
    let u := (t.bumpW F.REG_SCRUB_SWEEPS_COUNT).raiseMax F.REG_SCRUB_LAG_MS (now / 1000000 - started)
    u.setFlag F.REG_SCRUB_CTL_SWEEPING (u.it.sweeps.any fun e => e.1 / 0x10000 = Blk.stk.code)

/-- A sweep reaches a granule: its current reader set becomes the previous one, and the visit is noted (R397, R398). -/
def State.rotateSets (s : State) (g : Nat) : State :=
  let cur := smGet (fun _ => []) s.it.cur g
  { s with it := { s.it with
      prev := smSet (fun _ => []) s.it.prev g cur
      cur := smDel s.it.cur g
      visitStep := smPut s.it.visitStep g (s.stepCount, (s.visits g).1) } }

/-- The scrub's finds in the Yard count as any other (R273); a stack counts those of ordinary reads (Table 3-16). -/
def State.scrubCount (s : State) (w : Nat) (ue : Bool) : State := if w < 16 * stackBytes then s else s.countEcc w ue

/-- The scrub meets one word (R391 to R393). -/
def State.scrubWord (s : State) (w : Nat) : State :=
  let g := granule w
  let since := (s.visits g).2
  let open_ := s.openWord w
  let guard (ue : Bool) (t : State) : State :=
    if open_ then t
    else if ue then (t.bump F.REG_GUARD_UE_COUNT).err .reg 0 2 (some (s.global w))
    else t.bump F.REG_GUARD_CE_COUNT
  let report (kind : Nat) (t : State) : State := if open_ then t.openFault w kind since else t
  match s.ecc w with
  | .clean => s
  | .poisoned => report 2 s
  | .uncorrectable => report 1 (guard true ((if s.rewritable w then s.poisonWord w else s).scrubCount w true))
  | _ => report 0 (guard false ((if open_ && s.isHashed g then s else s.correctWord w).scrubCount w false))

/-- Bytes as the data bits of a range read once every correctable word is corrected. -/
def State.dataBits (s : State) (a n : Nat) : List Byte := ((wordsOf a n).foldl State.correctWord s).bytes a n

/-- The image offset of a manifest entry of a slot. -/
def State.manifestAt (s : State) (m e : Nat) : Nat := frxAt (s.frx (s.mslot m).image) 6 + 32 * e

/-- A manifest entry: an uncorrectable one is reloaded from the image first (R393). -/
def State.manifestEntry (s : State) (m e : Nat) : List Byte × State :=
  let a := s.manifestStore m + 32 * e
  let t := if s.anyBad a 32 then s.loadBytes (s.mslot m).image (s.manifestAt m e) a 32 else s
  (t.dataBits a 32, t)

/-- The manifest index of a hashed block. -/
def State.blockEntry (s : State) (a : Nat) : Nat := s.region (granule a) % 2 ^ 32 + a % 2 ^ 26 / 2 ^ 20

/-- The slot that a hashed granule belongs to. -/
def State.hashedSlot (s : State) (a : Nat) : Nat := nbits (s.region (granule a)) 52 47

/-- The scrub has read a hashed block whole: its data bits are compared with the manifest. -/
def State.scrubBlock (s : State) (w : Nat) : State :=
  let block := w / 2 ^ 20 * 2 ^ 20
  if !s.openWord w || !s.isHashed (granule w) || w % 2 ^ 20 ≠ 2 ^ 20 - 8 || s.it.reloads.any (fun e => e.1 = block) then s
  else
    let m := s.manifestEntry (s.hashedSlot w) (s.blockEntry w)
    if sha3 (m.2.blockBits block) = m.1 then m.2
    else m.2.openFault w 3 (s.visits (granule w)).2

/-- The bank of a stack word is in a pass, or its stack paused: the scrub's read waits there as any access does (R75, R390). -/
def State.scrubWaits (s : State) (w : Nat) : Bool :=
  w < 16 * stackBytes && ((s.runAt (s.bankAt w)).isSome || s.paused .stk (s.bankAt w / 1024))

/-- The scrub's read takes its place in the bank's queue, once. -/
def State.scrubQueue (s : State) (w : Nat) : State :=
  let mine (h : Held) : Bool := h.acc.op = 3 && h.acc.addr = w
  if s.bk.queued.any (fun e => mine e.2) || s.bk.runs.any fun e => e.2.held.any mine then s
  else s.submit (.work []) { op := 3, addr := w, len := 8 }

/-- SCRUB_VISIT: the sweep in progress meets a word. `fault` first inverts stored bits. -/
def execScrubVisit (addr now : Nat) (fault : BitVec 72) (s : State) : Res :=
  let w := addr / 8 * 8
  match s.checkerOf w with
  | none => done s
  | some k =>
    if (s.sweepOf k).isNone then done s
    else
      let t := (s.at now).flipBits w fault
      if t.scrubWaits w then done (t.scrubQueue w)
      else
        let t := if w < 16 * stackBytes && w % 2 ^ 26 = 0 then t.rotateSets (granule w) else t
        let t := (t.scrubWord w).scrubBlock w
        done (if w + 8 = unitEnd w then (t.scrubRest k).sweepEnd k now else t)

/-- SCRUB_LATE (R390): a sweep has not ended at 0.9 × `PERIOD_MS`, and goes on. -/
def execScrubLate (blk inst now : Nat) (s : State) : Res :=
  match s.sweepOf (blk * 0x10000 + inst) with
  | none => done s
  | some start =>
    if 9 * s.getF F.REG_SCRUB_CTL_PERIOD_MS ≤ 10 * (now / 1000000 - start) then done ((s.at now).err .reg 0 5) else done s

/-! ## Marking (R397 to R400, R404) -/

/-- P₀ of a fault in a granule of pages: from the lowest page index of the list with a frame there (R400). -/
def State.pageP0 (s : State) (e : Seq) (g : Nat) : Nat :=
  let l := s.mainList e
  let hit (i : Nat) : Bool := (List.range l.layers).any fun y => match s.entry l y i with
    | some p => p ≠ nullPage && (l.m.frameGranules p).contains g
    | none => false
  match (List.range l.cap).find? hit with
  | some i => max e.attnLo (64 * i)
  | none => e.clen

/-- Remove prefix entries of a partition that `gone` names; their pages return (R171, R399). -/
def State.dropPrefixes (s : State) (p : Nat) (gone : PEntry → Bool) : State :=
  let out := (s.index p).filter gone
  if out = [] then s
  else
    let t := s.setIndex p ((s.index p).filter fun e => !gone e)
    out.foldl (fun u e => e.pages.foldl (fun v g => v.returnPage p g) u) t

/-- Send `SCRUB_REPORT` to the partitions that own a marked sequence or the granule (R404). -/
def State.scrubReport (s : State) (marked : List Nat) (status kind addr : Nat) : State :=
  let owner := s.granuleOwner (granule addr)
  (List.range 32).foldl (fun t p =>
    let n := (marked.filter fun q => (s.seq q).part = p).length
    if n = 0 && owner ≠ some p then t
    else t.f2h (p + 1) (mkMsg 0x8012 0 0 0 [(16, 2, status), (18, 1, kind), (20, 4, n), (24, 8, s.global addr), (32, 8, s.stepCount)])) s

/-- Mark the sequences that read a granule of keys and values (R398, `HASHED` 0). -/
def State.markPages (s : State) (f : OFault) : State :=
  let g := granule f.addr
  let members := uniq (smGet (fun _ => []) s.it.cur g ++ smGet (fun _ => []) s.it.prev g)
  let qs := members.filter fun q => q < 8192 && (s.seq q).st ≠ 0
  let t := if members.contains 8192 then s.err .reg 0 7 (some (s.global f.addr)) else s
  let t := qs.foldl (fun u q => u.markSuspect q (s.pageP0 (s.seq q) g)) t
  let t := (List.range 32).foldl (fun u p => u.dropPrefixes p fun e => e.pages.any fun pg =>
    ((s.mslot e.mslot).frameGranules pg).contains g) t
  t.scrubReport qs (if qs = [] then St.poisonConsumed else St.suspect) f.kind f.addr

/-- Mark the sequences that a weight block concerns (R398, `HASHED` 1). -/
def State.markBlock (s : State) (f : OFault) : State :=
  let m := s.hashedSlot f.addr
  let block := f.addr / 2 ^ 20 * 2 ^ 20
  let live := s.sv.seqs.filter fun e => e.2.st ≠ 0
  if live.any fun e => e.2.mslot = m then
    let qs := (live.filter fun e => e.2.mslot = m && f.since < e.2.lastAdmit).map fun e => e.1
    let t := qs.foldl (fun u q => u.markSuspect q (s.seq q).attnLo) s
    let t := (List.range 32).foldl (fun u p => u.dropPrefixes p fun e => e.mslot = m && f.since < e.step) t
    t.scrubReport qs (if qs = [] then St.poisonConsumed else St.suspect) f.kind (if f.kind = 3 then block else f.addr)
  else
    let qs := (live.filter fun e => e.2.dslot = m).map fun e => e.1
    let t := qs.foldl (fun u q => u.setSeq q { u.seq q with dlen := 0 }) s
    t.scrubReport [] St.poisonConsumed (if qs = [] then f.kind else 5) (if qs = [] && f.kind ≠ 3 then f.addr else block)

/-- OPEN_FAULT_MARK: one of the Open faults found is handled. -/
def execOpenFaultMark (k : Nat) (s : State) : Res :=
  match s.it.faults[k]? with
  | none => done s
  | some f =>
    let t : State := { s with it := { s.it with faults := s.it.faults.eraseIdx k } }
    done (if s.isHashed (granule f.addr) then t.markBlock f else t.markPages f)

/-! ## Reloads (R393, R512) -/

/-- Set how the reload of a block stands: 0 waiting, 1 failed, 2 running. -/
def State.setReload (s : State) (a st : Nat) : State :=
  { s with it := { s.it with reloads := s.it.reloads.map fun e => if e.1 = a then (a, st) else e } }

/-- Blocks whose reload concerns a slot. -/
def State.slotReloads (s : State) (m : Nat) : List (Nat × Nat) := s.it.reloads.filter fun e => s.hashedSlot e.1 = m

/-- SCRUB_RELOAD: a waiting block's reload starts, one at a time, where its stack serves. -/
def execScrubReload (addr : Nat) (s : State) : Res :=
  if s.it.reloads.contains (addr, 0) && !s.flag F.REG_RELOAD_STAT_BUSY && s.stackServes (addr / stackBytes) && !s.footingWaits then
    done ((((s.setReload addr 2).setFlag F.REG_RELOAD_STAT_BUSY true).setF F.REG_RELOAD_STAT_MSLOT (s.hashedSlot addr)).keyIn
      (s.mslot (s.hashedSlot addr)).image)
  else done s

/-- Where a block stands in its image. -/
def State.blockSource (s : State) (a : Nat) : Option Nat :=
  (blockAt (frxLoaded (s.frx (s.mslot (s.hashedSlot a)).image)) (s.blockEntry a)).map fun e => e.1

/-- RELOAD_DONE: the block is written afresh, or its slot stops serving. -/
def execReloadDone (addr : Nat) (ok : Bool) (ue : List Nat) (s : State) : Res :=
  if !s.it.reloads.contains (addr, 2) then done s
  else
    let m := s.hashedSlot addr
    let e := s.mslot m
    let ue := s.undelivered e.image ue
    let t := (((s.setFlag F.REG_RELOAD_STAT_BUSY false).footingUe ue).footingRead 1).keyOut
    match (if ok && ue = [] then t.blockSource addr else none) with
    | some src =>
      let u := (t.loadBytes e.image src addr (2 ^ 20)).bumpW F.REG_RELOADS_COUNT
      let u : State := { u.setFlag F.REG_RELOAD_STAT_FAIL false with
        it := { u.it with reloads := u.it.reloads.filter fun x => x.1 ≠ addr } }
      done (if e.st = 1 && u.slotReloads m = [] then u.setMslot m { e with st := 2 } else u)
    | none =>
      let u := ((t.setFlag F.REG_RELOAD_STAT_FAIL true).setReload addr 1).err .reg 0 4 (some (s.global addr))
      let u := (u.setMslot m { e with st := 1 }).scrubReport [] St.poisonConsumed 4 addr
      done (u.stepsTick e.part)

/-- RELOAD_RETRY: a failed reload is wanted again. -/
def execReloadRetry (addr : Nat) (s : State) : Res := done (if s.it.reloads.contains (addr, 1) then s.setReload addr 0 else s)

/-! ## Recomputation (R400, R401, R508, R509) -/

/-- A recomputation fails: the sequence is left `HELD` with `SUSPECT` set (R401). -/
def State.recomputeFail (s : State) (q : Nat) : State :=
  let e := s.seq q
  let t := s.setSeq q { e with st := 2, suspect := true, damaged := false, rebuilding := false, restart := false
                               status := St.recomputeFailed }
  ((t.event q St.recomputeFailed).bump F.REG_RECOMPUTES_FAILED).err .reg 0 6

/-- A recomputation ends: the sequence returns to the state it left. -/
def State.recomputeDone (s : State) (q : Nat) : State :=
  let e := s.seq q
  let t := s.setSeq q { e with st := e.recFrom, suspect := false, damaged := false, rebuilding := false, restart := false }
  (t.event q 0).bump F.REG_RECOMPUTES_DONE

/-- Pages of a list from index `i0` on that are to be replaced: shared ones, and those in a stack that is not ready. -/
def State.toReplace (s : State) (p : Nat) (l : PList) (i0 : Nat) (shared : Bool) : List (Nat × Nat × Nat) :=
  (List.range l.layers).flatMap fun y => ((List.range l.cap).drop i0).filterMap fun i => match s.entry l y i with
    | some g => if g ≠ nullPage && ((shared && s.shared p g) || s.unit .stk (pgStack g) ≠ 3) then some (y, i, g) else none
    | none => none

/-- Replace pages of a list; none where the pool cannot. The pairs are the frames to copy, those whose stack serves (R164); a page in a
stack that is not ready goes back to no pool, which would drop it as invalid (R512). -/
def State.replacePages (s : State) (p : Nat) (l : PList) (cells : List (Nat × Nat × Nat)) : Except State (State × List (Nat × Nat)) :=
  if s.poolHeld p < cells.length then .error s
  else match s.takePages p l.m cells.length [] with
    | .error e => .error e.2
    | .ok (got, t) => .ok ((cells.zip got).foldl (fun u c =>
        let v := u.setEntryAt l c.1.1 c.1.2.1 c.2
        if v.unit .stk (pgStack c.1.2.2) = 3 then v.returnPage p c.1.2.2 else v) t,
        ((cells.zip got).filter fun c => s.stackServes (pgStack c.1.2.2)).map fun c => (c.1.2.2, c.2))

/-- The checkers meet the words of a range that the block itself reads. -/
def State.lookAt (s : State) (a n : Nat) : State := (wordsOf a n).foldl State.checkWord s

/-- A sequence enters `RECOVERING` (R400). -/
def State.toRecovering (s : State) (q : Nat) : State :=
  let e := s.seq q
  if e.st = 4 then s else s.setSeq q { e with st := 4, recFrom := e.st }

/-- Recomputation begins from P₀: the checks of R401, the pages replaced, `DLEN` cut. The list names the frames to copy: of the draft list
or not, old and new page. -/
def State.recomputeBegin (s : State) (q : Nat) : State × List (Bool × Nat × Nat) :=
  let s := s.toRecovering q
  let e := { s.seq q with restart := false }
  let s := s.setSeq q e
  let p0 := e.p0
  if (s.mslot e.mslot).st ≠ 2 then (s.recomputeFail q, [])
  else if e.clen ≤ p0 then (s.recomputeDone q, [])
  else if s.anyBad (e.tokBase + 4 * p0) (4 * (e.clen - p0)) then
    ((s.lookAt (e.tokBase + 4 * p0) (4 * (e.clen - p0))).recomputeFail q, [])
  else
    let s := s.lookAt (e.tokBase + 4 * p0) (4 * (e.clen - p0))
    let l := s.mainList e
    match s.replacePages e.part l (s.toReplace e.part l (p0 / 64) true) with
    | .error t => (t.recomputeFail q, [])
    | .ok (t, main) =>
      let d := t.draftList e
      let r := if e.dslot = 0xFF then .ok (t, []) else t.replacePages e.part d (t.toReplace e.part d (p0 / 64) false)
      match r with
      | .error u => (u.recomputeFail q, [])
      | .ok (u, draft) =>
        (u.setSeq q { u.seq q with dlen := min e.dlen p0, recAt := p0, rebuilding := true },
          main.map (fun c => (false, c)) ++ draft.map fun c => (true, c))

/-- The command whose queue the arguments of a recomputation's chunk come from: none runs, so it is one of no effect. -/
def recomputeCmd (e : Seq) : Cmd := { id := 0, part := e.part, queue := e.queue, words := [] }

/-- The next chunk of a recomputation: a step of its own, charged to PREFILL where that slot has a balance and granted in every case
(R400, R508), with frames to copy before its first write. None while it waits for its WORK space; a chunk that is left out ends the
recomputation (R401). -/
def State.recomputeChunk (s : State) (q : Nat) (copies : List (Bool × Nat × Nat)) : Option State :=
  let e := s.seq q
  let n := min (256 * 2 ^ e.chunk) (e.clen - e.recAt)
  let w : SWork := { seq := q, c := e.recAt, given := n, turn := true, dlen := e.dlen, cls := 2, slot := (s.classGrant e.part 2).slot?
                     again := true }
  let r := s.admitWorks e.part e.mslot [w]
  if r.2.any fun a => a.work.left then some (r.1.recomputeFail q)
  else (r.1.takeWork e.part (r.1.stepSpace (r.2.map fun a => a.work))).map fun y =>
    (y.2.poolLow e.part).beginStep (recomputeCmd e) e.mslot 2 (r.2.map fun a => { a with copies := copies ++ a.copies }) y.1

/-- A damaged sequence of a CONSISTENT partition may be recomputed: it has no admitted step and is not closing. -/
def State.recomputable (s : State) (q : Nat) : Bool :=
  let e := s.seq q
  e.damaged && !s.live e.part && !s.inStep q && e.st ≠ 0 && e.st ≠ 5

/-- RECOMPUTE: a damaged sequence enters `RECOVERING`, or its next chunk runs; while blocks of its slot are being reloaded no
step of the slot is admitted (R393), so it waits. -/
def execRecompute (seq : Nat) (s : State) : Res :=
  let e := s.seq seq
  if !s.recomputable seq then done s
  else if (s.mslot e.mslot).st = 2 && s.reloading e.mslot then done (s.toRecovering seq)
  else
    let t := if e.rebuilding && !e.restart then (s, []) else s.recomputeBegin seq
    done (if (t.1.seq seq).rebuilding then (t.1.recomputeChunk seq t.2).getD (s.toRecovering seq) else t.1)

/-- RECOMPUTE_END: a chunk's step has completed: the recomputation goes on, starts again from a lower P₀, fails or ends. -/
def execRecomputeEnd (seq : Nat) (s : State) : Res :=
  match s.sv.steps.find? fun x => x.kind = 2 && x.works.any fun w => w.seq = seq with
  | none => done s
  | some x =>
    if !s.stepEnded x then done (s.builderGo x.part)
    else
      let t := s.flushStep x.num
      match t.stepOf x.num with
      | none => done t
      | some x =>
        if !t.stepEnded x then done t
        else
          let t := t.dropStep x
          let e := t.seq seq
          let status := ((x.works.map fun w => w.status).find? (· ≠ 0)).getD 0
          let n := (x.works.map fun w => w.given).foldl (· + ·) 0
          if e.restart then done (t.setSeq seq { e with rebuilding := false, restart := false })
          else if status ≠ 0 then done (t.recomputeFail seq)
          else if e.clen ≤ e.recAt + n then done (t.recomputeDone seq)
          else done (t.setSeq seq { e with recAt := e.recAt + n })

end Sys2Proof.Machine
end

