-- ==== Sys2Proof/Machine/Resets.lean ====
section
/-! DEFINITION. Component resets (chapter 17, R448 and Table 17-6). -/

namespace Sys2Proof.Machine

/-- The block's instances take component resets (R44, Table 17-6). -/
def takesReset (b : Blk) : Bool := b = .brk || b = .hod || b = .yrd || b = .stk || b = .qlk || b = .ftg || b = .cyt || b = .trw

/-- The precondition of Table 17-6. -/
def State.resetFree (s : State) (b : Blk) (i : Nat) : Bool :=
  match b with
  | .brk => (s.brick i).run.isNone && !s.sv.steps.any fun x => x.items.any fun k => !k.ended && k.brick.isSome && k.brick = s.logicalOf i
  | .hod => smGet (fun _ => []) s.bk.lists i = [] && !s.sv.walks.any fun w => w.hod = i
  | .yrd => !s.regs.any fun e => e.1 / 0x8000 / 0x4000 = A.YRD_BENTRY
      && s.physSlab (e.1 % 0x8000 / 512) = i && s.blockKind (e.1 % 0x8000) ≠ 0
  | .stk => !s.bk.regions.any fun e => e.1 / 1536 = i && s.isOpen e.1 && !s.isHashed e.1
  | .ftg => !s.flag F.REG_RELOAD_STAT_BUSY
  | _ => true

/-- The reload of every block of some granules is wanted (R393). -/
def State.wantReloads (s : State) (gs : List Nat) : State :=
  let blocks := (gs.flatMap fun g => (List.range 64).map fun b => g * 2 ^ 26 + b * 2 ^ 20).filter fun a =>
    !s.it.reloads.any fun e => e.1 = a
  { s with it := { s.it with reloads := s.it.reloads ++ blocks.map fun a => (a, 0) } }

/-- Granules of a stack that are Open with `HASHED` 1. -/
def State.hashedIn (s : State) (st : Nat) : List Nat :=
  (s.bk.regions.map fun e => e.1).filter fun g => g / 1536 = st && s.isOpen g && s.isHashed g

/-- No sweep of a unit is in progress any more. -/
def State.sweepStop (s : State) (b : Blk) (i : Nat) : State :=
  let t : State := { s with it := { s.it with sweeps := smDel s.it.sweeps (b.code * 0x10000 + i) } }
  if b = .stk then t.setFlag F.REG_SCRUB_CTL_SWEEPING (t.it.sweeps.any fun e => e.1 / 0x10000 = Blk.stk.code) else t

/-- What a component reset does at once. -/
def State.resetBegin (s : State) (b : Blk) (i : Nat) : State :=
  let t := (s.setFlag (hdrF b 0x08 31 31) true i).sweepStop b i
  match b with
  | .stk => ((t.stackGone i St.stackUnavailable).setUnit .stk i 6).setF F.STK_TRAIN_PHASE 0 i
  | .qlk => (t.takeDown i 9).linkTrain i
  | .ftg => (t.setF F.FTG_CH_STATE_STATE 1 i).setUnit .ftg i 6
  | .trw => t.restartCore i 4 0
  | .hod => t.setUnit .hod i 6
  | .cyt => t
  | _ => t.setUnit b i 6

/-- The unit state that a reset instance returns to: quiesced while its `QUIESCE` is 1. -/
def State.setBack (s : State) (b : Blk) (i : Nat) : State := s.setUnit b i (if s.quiesced b i then 4 else 3)

/-- A component reset ends; `pass` says that what it retrains or retests passes. -/
def State.resetEnd (s : State) (b : Blk) (i : Nat) (pass : Bool) : State :=
  let t := s.setFlag (hdrF b 0x08 31 31) false i
  match b with
  | .brk =>
    let u := t.clearBrick i
    let u : State := { u with pt := { u.pt with clearing := u.pt.clearing.filter (· ≠ i) } }
    if pass then u.setBack .brk i
    else (u.err .brk i 5).retireBrick i
  | .hod =>
    let u := (((t.setReg A.HOD_FAULT 0 i).setReg A.HOD_FAULT_PAGE 0 i).setReg A.HOD_FAULT_LOC 0 i).setFlag F.HOD_CUR_SEQ_VALID false i
    u.setBack .hod i
  | .yrd =>
    let l := (List.range 48).find? fun l => t.physSlab l = i
    let u : State := match l with
      | some l => (t.yd.lines.filter fun x => x.slab = l).foldl State.lineOut t
      | none => t
    if pass then u.setBack .yrd i else (u.err .yrd i 2).setUnit .yrd i 1
  | .stk =>
    if !pass then ((t.setF F.STK_TRAIN_PHASE 5 i).setUnit .stk i 1).err .stk i 2
    else (((t.fillStack i).setF F.STK_TRAIN_PHASE 4 i).setBack .stk i).wantReloads (t.hashedIn i)
  | .ftg => (t.setF F.FTG_CH_STATE_STATE (if pass then 2 else 3) i).setUnit .ftg i (if pass then 3 else 1)
  | .cyt => t.cytRestart i
  | _ => t

/-- A write of 1 to `COMP_RESET` of an instance other than a partition's (R44, R448, R449). -/
def State.compReset (s : State) (b : Blk) (i : Nat) : State :=
  if takesReset b && s.present b i && s.quiesced b i && !s.resetting b i && s.dv.st ≠ .warmReset && s.resetFree b i then
    s.resetBegin b i
  else s

/-- COMPONENT_RESET_DONE (R448). -/
def execComponentResetDone (blk inst : Nat) (pass : Bool) (s : State) : Res :=
  match Blk.all.find? fun b => b.code = blk with
  | none => done s
  | some b => if s.resetting b inst && takesReset b then done (s.resetEnd b inst pass) else done s

/-- The whole of a component reset that passes, as reconciliation performs it. -/
def State.resetUnit (s : State) (b : Blk) (i : Nat) : State := (s.resetBegin b i).resetEnd b i true

end Sys2Proof.Machine
end

