-- ==== Sys2Proof/Machine/Recovery.lean ====
section
/-! DEFINITION. Recovery (chapter 21): partitions that return to service, lost stacks, and units whose registers and completions
disagree. -/

namespace Sys2Proof.Machine

/-- RECOVERY_COMPLETE (R509): no sequence of the partition is `RECOVERING` or about to be. -/
def execRecoveryComplete (part : Nat) (s : State) : Res :=
  if s.partState part = 5 && !(s.sv.seqs.any fun e => e.2.part = part && (e.2.st = 4 || (e.2.damaged && e.2.st ≠ 5 && e.2.st ≠ 0))) then
    done ((s.setPartState part 2).stepsTick part)
  else done s

/-! ## Lost stacks (R512) -/

/-- Remove a pool's entries that name a stack. -/
def State.poolWithout (s : State) (p st : Nat) : State :=
  let k := s.poolLog p
  let n := s.poolHeld p
  if k = 0 || n = 0 then s
  else
    let h := s.getF F.SEQ_POOL_HEAD_INDEX p
    let words := (List.range n).map fun i => s.readB (s.poolAt p (h + i)) 4
    let kept := words.filter fun w => w.2.1 || pgStack (leNat w.1) ≠ st
    if kept.length = n then s
    else
      let t := (kept.zipIdx).foldl (fun u w =>
        let a := u.poolAt p (h + w.2)
        let v := u.writeB a w.1.1
        if w.1.2.1 then v.poisonWord a else v) s
      (t.setF F.SEQ_POOL_TAIL_INDEX ((h + kept.length) % 2 ^ 24) p).setPool p kept.length

/-- The position a sequence is rebuilt from when a stack is lost: none where no page of it lies there. -/
def State.lostFrom (s : State) (e : Seq) (st : Nat) : Option Nat :=
  let hit (l : PList) (i : Nat) : Bool := (List.range l.layers).any fun y => match s.entry l y i with
    | some g => g ≠ nullPage && pgStack g = st
    | none => false
  let l := s.mainList e
  let d := s.draftList e
  let main := ((List.range l.cap).find? (hit l)).map (64 * ·)
  let draft := if e.dslot ≠ 0xFF && (List.range d.cap).any (hit d) then some e.attnLo else none
  match main, draft with
  | some a, some b => some (min a b)
  | some a, none => some a
  | none, b => b

/-- What the loss of a stack does to pools, slots and sequences. -/
def State.stackLost (s : State) (st : Nat) : State :=
  let gs := s.hashedIn st
  let lost := s.sv.seqs.filterMap fun e => if e.2.st = 0 then none else (s.lostFrom e.2 st).map fun p0 => (e.1, p0)
  let t := (List.range 32).foldl (fun u p => u.poolWithout p st) s
  let slots := uniq (gs.map fun g => nbits (s.region g) 52 47)
  let t := slots.foldl (fun u m => u.setMslot m { u.mslot m with st := 1 }) t
  let t := (t.wantReloads gs).sweepStop .stk st
  let t := lost.foldl (fun u q => u.damage q.1 q.2) t
  slots.foldl (fun u m => u.stepsTick (u.mslot m).part) t

/-- STACK_LOST: a stack leaves ready or quiesced unbidden. -/
def execStackLost (stack : Nat) (s : State) : Res :=
  if s.present .stk stack && s.stackServes stack then
    done (((s.stackGone stack St.stackUnavailable).setUnit .stk stack 1).stackLost stack)
  else done s

/-! ## Quarantine and reconciliation (R515 to R517) -/

/-- The unit blocks that carry a state generation. -/
def unitBlk (blk : Nat) : Option Blk := [Blk.brk, .hod, .yrd, .stk, .qlk].find? fun b => b.code = blk

/-- Halt what a unit has in flight, its sequences completing with 0x0701 (R516). -/
def State.haltUnit (s : State) (b : Blk) (i : Nat) : State :=
  match b with
  | .brk => s.halt i St.unitStateMismatch
  | .hod =>
    let owners := (smGet (fun _ => []) s.bk.lists i).map fun d => d.own
    let t : State := { s with bk := { s.bk with lists := smDel s.bk.lists i } }
    let t := owners.foldl (fun u o => u.workFail o St.unitStateMismatch) t
    (t.sv.walks.filter fun w => w.hod = i).foldl (fun u w => u.endWalk w St.unitStateMismatch 1) t
  | .stk => s.stackGone i St.unitStateMismatch
  | .qlk =>
    let x := s.qlink i
    let t := s.setQlink i { x with sent := [], waiting := [] }
    (x.sent.map (·.2) ++ x.waiting).foldl (fun u m => u.answerUse m St.unitStateMismatch []) t
  | _ => s

/-- The two paths of a unit disagree: it is quarantined. -/
def State.quarantine (s : State) (b : Blk) (i : Nat) : State :=
  let lost := b = .stk && s.stackServes i
  let t := (s.haltUnit b i).setUnit b i 5
  let t := if lost then t.stackLost i else t
  t.msgQuarantine b 0 i St.unitStateMismatch 0 0 s.stepCount

/-- UNIT_AUDIT (R515): firmware compares a unit's registers with its journal and counters, once per second while the supervisor
duty is served. -/
def execUnitAudit (blk inst : Nat) (agrees : Bool) (s : State) : Res :=
  match unitBlk blk with
  | none => done s
  | some b =>
    if s.dutyServed 0 && !agrees && s.present b inst && 2 ≤ s.unit b inst && s.unit b inst ≤ 4 then done (s.quarantine b inst)
    else done s

/-- A unit is retired (R517, 4). -/
def State.retireUnit (s : State) (b : Blk) (i : Nat) : State :=
  match b with
  | .brk => s.retireBrick i
  | .yrd => match (List.range 48).find? fun l => smGet (fun l => l) s.yd.slabOf l = i with
    | some l => s.slabSpare 1 l
    | none => s
  | .qlk => s.linkDisable i true
  | .stk => (s.stackGone i St.stackUnavailable).setUnit .stk i 1
  | _ => s.setUnit b i 1

/-- RECONCILE: the supervisor rewrites the unit's configuration, tests it, resets it or retires it, stopping at the first step
that leaves the paths in agreement. -/
def execReconcile (blk inst : Nat) (rewriteOk selfTestOk resetOk : Bool) (s : State) : Res :=
  match unitBlk blk with
  | none => done s
  | some b =>
    if !s.dutyServed 0 || s.unit b inst ≠ 5 then done s
    else
      let back (step : Nat) (t : State) : State :=
        let u := t.setUnit b inst (if t.quiesced b inst then 4 else 3)
        u.msgQuarantine b 1 inst 0 step 0 0
      if rewriteOk then done (back 1 s)
      else if selfTestOk then done (back 2 s)
      else if !s.resetFree b inst then done s
      else if resetOk then done (back 3 (s.resetUnit b inst))
      else done (((s.retireUnit b inst).setUnit b inst 1).msgQuarantine b 2 inst St.unitStateMismatch 4 0 0)

end Sys2Proof.Machine
end

