-- ==== Sys2Proof/Machine/Startup.lean ====
section
/-! DEFINITION. Boot, bring-up, the fill and the release, start-up failures and the warm reset (chapter 17, R435 to R446, with
R402, R271, R483 and R519). -/

namespace Sys2Proof.Machine

/-! ## Boot in Keystone (R439) -/

/-- Fuse masks of the grade: Course dies, stacks, Quoin dies (R4). -/
def State.cdMask (s : State) : Nat := if s.dv.gradeC then 0x3F else 0xFF
def State.stkMask (s : State) : Nat := if s.dv.gradeC then 0x0FFF else 0xFFFF
def State.qdMask (s : State) : Nat := if s.dv.gradeC then 0x3F else 0xFF

/-- The measured record of the fuse load (Table 18-3). -/
def State.fuseRecord (s : State) : List Byte :=
  0x01#8 :: (leBytes (if s.dv.gradeC then 1 else 0) 1 ++ leBytes s.cdMask 1 ++ leBytes s.stkMask 2 ++ leBytes s.qdMask 1
    ++ leBytes s.dv.devNum 2 ++ (List.range 4).flatMap fun n => leBytes (s.arb n) 1)

/-- `COMPONENT`, `VERSION` and `SEC_VER` of a firmware image (Table 19-1, Table 15-3). -/
def State.fwComp (s : State) (i : Nat) : Nat := frxN (s.frx i) (frxComponentAt (s.frx i)) 1
def State.fwVersion (s : State) (i : Nat) : Nat := frxN (s.frx i) (frxComponentAt (s.frx i) + 4) 4
def State.fwSecVer (s : State) (i : Nat) : Nat := frxN (s.frx i) 16 4

/-- The `SEALED` firmware images of a component, by directory entry. -/
def State.fwImages (s : State) (c : Nat) : List Nat :=
  (s.ftg.dir.filter fun e => e.2.state = 3 && e.2.kind = 3 && !e.2.badDie && componentOk (s.frx e.1) && s.fwComp e.1 = c).map fun e => e.1

/-- The image of a component that boots: the newest whose security version its counter admits and whose check passes. -/
def State.bootImage (s : State) (c : Nat) (passing : List Nat) : Option Nat :=
  ((s.fwImages c).filter fun i => s.arb c ≤ s.fwSecVer i && passing.contains i).foldl (fun best i => match best with
    | none => some i
    | some b => if s.fwVersion b < s.fwVersion i then some i else some b) none

/-- The measurement register of a component (Table 18-3). -/
def compMeas (c : Nat) : Nat := if c = 0 then 1 else if c = 1 then 4 else c

/-- Measure a firmware image: the hash of its header's bytes 0 to 2,111 and its `SEC_VER`. -/
def State.measureImage (s : State) (c i : Nat) : State :=
  s.measure (compMeas c) (0x02#8 :: (sha3 ((List.range 2112).map (s.payload i)) ++ leBytes (s.fwSecVer i) 4))

/-- A component runs an image. -/
def State.runs (s : State) (c i : Nat) : State :=
  { s.setF (F.KST_RUNVER_VERSION.nth c) (s.fwVersion i) with ks := { s.ks with runImage := smPut s.ks.runImage c i } }

/-- The pending components and the images a fallback restores are shown (R485). -/
def State.showPending (s : State) : State :=
  let t := s.setF F.KST_UPD_STAT_PENDING (s.ftg.pendComps.foldl (fun m c => nsetBit m c true) 0)
  (List.range 4).foldl (fun u c => match s.ftg.oldImg.find? fun e => e.1 = c with
    | some e => (u.setFlag (F.KST_OLDIMG_VALID.nth c) true).setF (F.KST_OLDIMG_IMAGE.nth c) e.2
    | none => (u.setFlag (F.KST_OLDIMG_VALID.nth c) false).setF (F.KST_OLDIMG_IMAGE.nth c) 0) t

/-- The UCIe mainband trains at its highest rate (R325, R440). -/
def State.mainbandUp (s : State) : State :=
  let t := ((s.setF F.LNT_LINK_MOD_UP 0xFF).setF F.LNT_LINK_RATE_A 6).setF F.LNT_LINK_RATE_B 6
  (t.setFlag F.LNT_LINK_A_UP true).setFlag F.LNT_LINK_B_UP true

/-- Lintel grants the initial credits on a link (R332). -/
def State.grantCredits (s : State) (l : Nat) : State :=
  if s.hlinkUp l then s.setHlink l { s.hlink l with
    rq := s.getF F.LNT_CREDIT_RQ, pw := s.getF F.LNT_CREDIT_PW, data := s.getF F.LNT_CREDIT_DATA } else s

/-- Step k of R439 fails: the device is `FAILED`; a failure of step 5 leaves it held for recovery, the mainband trained and
credited (R483). -/
def State.bootFails (s : State) (k : Nat) : State :=
  let t := (s.setF F.KST_STATE_STATE 2).setF F.KST_STATE_FAIL_STEP k
  let t : State := { t with dv := { t.dv with st := .failed, failStep := k, romRecovery := k == 5 } }
  if k = 5 then ((t.mainbandUp.setUnit .lnt 0 3).grantCredits 0).grantCredits 1 else t

/-- The Footing is mounted from its newest whole directory copy: spares and dies as its own records have them. -/
def State.mountFooting (s : State) : State :=
  let spare := (Config.footingSpares - s.ftg.sparesUsed) % 2 ^ 20
  let t := (s.setF F.FTG_SPARE_BLOCKS spare).setF F.FTG_STATE_STORE (if spare = 0 then 3 else 2)
  let t := t.setUnit .ftg blockWide 3
  (List.range 8).foldl (fun u c =>
    let ok := (List.range 4).foldl (fun m d => nsetBit m d (!u.ftg.deadDies.contains (c * 4 + d))) 0
    ((u.setF F.FTG_CH_STATE_STATE 2 c).setF F.FTG_CH_STATE_DIES_OK ok c).setUnit .ftg c 3) t

/-- The boot nonce of R470. -/
def State.drawNonce (s : State) : State :=
  ({ s with freeCount := s.freeCount + 1 } : State).setPair A.KST_BOOT_NONCE_LO A.KST_BOOT_NONCE_HI
    (Config.bootNonce s.freeCount).toNat

/-- Steps 5 and 6 of R439: each component boots, and T0 starts. -/
def State.bootImages (s : State) (passing : List Nat) : State :=
  match s.bootImage 0 passing, s.bootImage 1 passing, s.bootImage 2 passing, s.bootImage 3 passing with
  | some a, some b, some c, some d =>
    let t := [(0, a), (1, b), (2, c), (3, d)].foldl (fun u e => (u.measureImage e.1 e.2).runs e.1 e.2) s
    let t := t.showPending.setF F.KST_STATE_STATE 1
    let t := (List.range 8).foldl (fun u k => u.setF F.TRW_IMG_VER_SEC_VER (s.fwSecVer a) k) t
    let t := (t.setUnit .trw 0 3).setUnit .trw blockWide 3
    { t with dv := { t.dv with st := .bringup } }
  | _, _, _, _ => s.bootFails 5

/-- KEYSTONE_BOOT (R439): the six steps of Keystone's ROM; the identity derived at power-up is kept over a cold reset. -/
def execKeystoneBoot (fusesOk identityOk selfTestOk mountOk : Bool) (idHash : List Byte) (passing : List Nat) (s : State) : Res :=
  if s.dv.st ≠ .boot || s.pw.pwrState ≠ 2 || !s.pw.coldResetN then done s
  else
    let s := ((s.drawNonce).setUnit .kst 0 3).setUnit .kln 0 3
    if !fusesOk then done (s.bootFails 1)
    else
      let s := s.measure 0 s.fuseRecord
      let kept := s.dv.identity ≠ []
      if !kept && !identityOk then done (s.bootFails 2)
      else
        let s : State := { s with dv := { s.dv with identity := if kept then s.dv.identity else sliceB idHash 0 32 } }
        let s := s.putHash A.KST_ID_HASH s.dv.identity
        if !selfTestOk then done (s.bootFails 3)
        else if !mountOk then done ((s.setF F.FTG_STATE_STORE 4).bootFails 4)
        else done (s.mountFooting.bootImages passing)

/-! ## Bring-up (R440) -/

/-- Start-up fails while firmware runs (R443, R444): 1 fewer than 48 slabs pass, 2 the Lintel encoder's self-test, 3 release not
reached in time; firmware writes the failure to the console. -/
def State.startupFails (s : State) (what : Nat) : State :=
  ({ s with dv := { s.dv with st := .failed } } : State).emit (.console what)

/-- Repairs of the Footing's record are applied to a stack again: spare rows and spare banks in use (R440). -/
def State.reapplyRepairs (s : State) (st : Nat) : State :=
  (s.ftg.repairRecord.filter fun r => r.1 / 1024 = st).foldl (fun t r =>
    if r.2 = 0 then
      let die := r.1 % 1024 / 64
      let left := t.getF F.STK_SPARE_BANKS_LEFT st
      t.setF F.STK_SPARE_BANKS_LEFT (putField left (2 * die + 1) (2 * die) (t.bankSpares st die - 1)) st
    else
      let n := smGet (fun _ => 0) t.bk.rowSpares r.1 + 1
      let u : State := { t with bk := { t.bk with rowSpares := smSet (fun _ => 0) t.bk.rowSpares r.1 n } }
      let u := u.setF F.STK_SPARE_ROWS_TOTAL (u.getF F.STK_SPARE_ROWS_TOTAL st - 1) st
      u.setF F.STK_SPARE_ROWS_MIN_BANK (min (u.getF F.STK_SPARE_ROWS_MIN_BANK st) (96 - n)) st) s

/-- A stack's checkers fail their self-test, before training (Table 14-7). -/
def State.stackFailsTest (s : State) (st : Nat) : State :=
  let t := ((s.setF F.STK_TRAIN_PHASE 5 st).setUnit .stk st 1).err .stk st 2
  { t with dv := { t.dv with stacksDone := t.dv.stacksDone ++ [st] } }

/-- The stacks of a bring-up: microcode, training, repairs, self-test. -/
def State.bringStacks (s : State) (failed : List Nat) : State :=
  ((List.range 16).filter (s.present .stk)).foldl (fun t st =>
    let u := t.reapplyRepairs st
    if failed.contains st then u.stackFailsTest st else u.stkTrain st) s

/-- The bricks of a die that serve (R519): those that pass and are not in the brick repair record, by number within the die. -/
def State.passingBricks (s : State) (failed : List Nat) (d : Nat) : List Nat :=
  (List.range 1344).filter fun k => !failed.contains (d * 1344 + k) && !s.ftg.brickRecord.contains (d * 1344 + k)

/-- The brick mapping of a die (R519). -/
def State.mapDie (s : State) (failed : List Nat) (d : Nat) : State :=
  let pass := s.passingBricks failed d
  let live := (pass.take 1280).zipIdx
  { s with bm := { s.bm with
    phys := live.foldl (fun m e => smSet (fun l => l / 1280 * 1344 + l % 1280) m (1280 * d + e.2) (1344 * d + e.1)) s.bm.phys
    gone := s.bm.gone ++ (List.range (1280 - pass.length)).map fun k => 1280 * d + pass.length + k
    spares := smSet (fun _ => (List.range 64).map (1280 + ·)) s.bm.spares d (pass.drop 1280)
    retired := s.bm.retired ++ ((List.range 1344).filter fun k => !pass.contains k).map (1344 * d + ·) } }

/-- The bricks of a bring-up: the self-test of R132 and the mapping of R519. -/
def State.bringBricks (s : State) (failed : List Nat) : State :=
  let t := (failed.filter (s.present .brk)).foldl (fun u n => u.err .brk n 5) s
  (List.range (if s.dv.gradeC then 6 else 8)).foldl (fun u d => u.mapDie failed d) t

/-- The slabs of a bring-up (R271, R245): those that pass, with their planes, take the logical numbers; fewer than 48 fail the
start-up. -/
def State.bringSlabs (s : State) (failed planes : List Nat) : State :=
  let pass := (List.range 50).filter fun n => !failed.contains n && !planes.contains n
  let t := (failed.filter (· < 50)).foldl (fun u n => u.err .yrd n 2) s
  let t := if planes.any (· < 50) then t.err .bnd 0 1 else t
  let ok := (List.range 50).foldl (fun m n => nsetBit m n (!planes.contains n)) 0
  let t := (List.range 50).foldl (fun u n => u.bumpGen .bnd n) t
  let t := (t.setPair A.BND_PLANE_OK_LO A.BND_PLANE_OK_HI ok).setF F.BND_PLANES_ACTIVE (min 48 pass.length)
  let t : State := { t with yd := { t.yd with
    slabOf := ((pass.take 48).zipIdx).foldl (fun m e => smSet (fun l => l) m e.2 e.1) []
    spares := pass.drop 48, retired := (List.range 50).filter fun n => !pass.contains n } }
  let t := t.setF F.YRD_SPARE_STAT_SPARES_LEFT (pass.length - 48)
  if pass.length < 48 then t.startupFails 1 else t

/-- The Lintel encoder's self-test and the mainband (R440). -/
def State.bringLintel (s : State) (encoderOk : Bool) : State :=
  if encoderOk then s.mainbandUp.setUnit .lnt 0 3 else s.startupFails 2

/-- The Quoin dies of a bring-up: those whose buffers fail keep their links down (Table 14-7), the others' cabled links train. -/
def State.bringLinks (s : State) (failed : List Nat) : State :=
  let t : State := { s with lk := { s.lk with deadQuoins := failed, unread := [] } }
  (List.range 64).foldl State.linkTrain t

/-- BRINGUP (R440, R443): T1 to T6 serve, T7 is idle, and everything tests itself and trains. -/
def execBringup (failedStacks failedBricks failedSlabs failedPlanes failedQuoins : List Nat) (encoderOk : Bool) (s : State) : Res :=
  if s.dv.st ≠ .bringup || s.unit .trw 1 ≠ 1 then done s
  else
    let t := ([1, 2, 3, 4, 5, 6, 7].foldl (fun u c => u.setUnit .trw c 3) s).setF F.TRW_CORE_STATE_PHASE 6 7
    let t := (((t.bringStacks failedStacks).bringBricks failedBricks).bringSlabs failedSlabs failedPlanes).bringLintel encoderOk
    done (t.bringLinks failedQuoins)

/-! ## The fill and the release (R441) -/

/-- Every present stack has finished its self-test, or failed. -/
def State.stacksSettled (s : State) : Bool :=
  (List.range 16).all fun st => !s.present .stk st || s.dv.stacksDone.contains st

/-- FILL_START (R441, R403). -/
def execFillStart (s : State) : Res :=
  if s.dv.st = .bringup && s.unit .trw 1 ≠ 1 && s.stacksSettled then
    done { s with dv := { s.dv with fillRunning := true } }
  else done s

/-- What the fill leaves: stacks, Yard and Beds zero with valid check bits; the trained stacks are ready (R403). -/
def State.filled (s : State) : State :=
  let t : State := { s with mem := [], synd := [], dv := { s.dv with fillRunning := false } }
  (List.range 16).foldl (fun u st =>
    if u.present .stk st && u.getF F.STK_TRAIN_PHASE st = 3 then (u.setF F.STK_TRAIN_PHASE 4 st).setUnit .stk st 3 else u) t

/-- The active bricks: those that serve a logical brick, by physical number. -/
def State.servingBricks (s : State) : List Nat :=
  (List.range (if s.dv.gradeC then 7680 else 10240)).filterMap s.physOf

/-- Bricks and Hod engines are released. -/
def State.freeEngines (s : State) : State :=
  let t := s.servingBricks.foldl (fun u n => u.setUnit .brk n 3) s
  (List.range 64).foldl (fun u h => u.setUnit .hod h 3) t

/-- Everything else that release starts. -/
def State.freeBlocks (s : State) : State :=
  let t := (List.range 48).foldl (fun u l => u.setUnit .yrd (u.physSlab l) 3) s
  let t := [Blk.lnt, .reg, .bnd, .seq].foldl (fun u b => u.setUnit b 0 3) t
  let t := (List.range 32).foldl (fun u p => (u.setUnit .prt p 3).setUnit .cyt p 3) t
  t.setUnit .yrd blockWide 3

/-- A range lies within the Yard. -/
def inYard (a n : Nat) : Bool := yardBase ≤ a && a + n ≤ yardBase + 48 * 2 ^ 25

/-- The bytes of a ring of 2ᵏ messages (R343). -/
def ringBytes (k : Nat) : Nat := (2 ^ k + 2) * 64

/-- Two ranges that do not meet. -/
def apart (a n b m : Nat) : Bool := a + n ≤ b || b + m ≤ a

/-- Firmware may place channel 0 so: rings of 16 to 4,096 messages and the 32 KiB exchange area, in Yard blocks, apart. -/
def placementOk (h2f f2h exch logH logF : Nat) : Bool :=
  4 ≤ logH && logH ≤ 12 && 4 ≤ logF && logF ≤ 12 && h2f % 64 = 0 && f2h % 64 = 0 && exch % 64 = 0
    && inYard h2f (ringBytes logH) && inYard f2h (ringBytes logF) && inYard exch 32768
    && apart h2f (ringBytes logH) f2h (ringBytes logF) && apart h2f (ringBytes logH) exch 32768
    && apart f2h (ringBytes logF) exch 32768

/-- The Yard blocks that a range meets become WORK blocks of no partition (R342). -/
def State.takeWorkBlocks (s : State) (a n : Nat) : State :=
  (List.range ((a + n - 1 - yardBase) / 65536 - (a - yardBase) / 65536 + 1)).foldl (fun t k =>
    t.setReg A.YRD_BENTRY (BitVec.ofNat 32 (2 * 2 ^ 30)) 0 ((a - yardBase) / 65536 + k)) s

/-- Firmware places channel 0's rings and the exchange area. -/
def State.placeChannel0 (s : State) (h2f f2h exch logH logF : Nat) : State :=
  let t := ((s.takeWorkBlocks h2f (ringBytes logH)).takeWorkBlocks f2h (ringBytes logF)).takeWorkBlocks exch 32768
  let t := (t.setPair A.LNT_H2F_BASE_LO A.LNT_H2F_BASE_HI h2f).setPair A.LNT_F2H_BASE_LO A.LNT_F2H_BASE_HI f2h
  let t := (t.setF F.LNT_H2F_SIZE_LOG2 logH).setF F.LNT_F2H_SIZE_LOG2 logF
  { t with ks := { t.ks with exchBase := exch } }

/-- Keystone locks its pages and KLN page 0 (R441 1, R55). -/
def State.lockBoot (s : State) : State := [0, 1, 2, 3, 4, 5, 0x20].foldl (fun t page => t.lockPage page 0 3) s

/-- The host interface version of the running Trowel image (Table 19-1). -/
def State.fwInterface (s : State) : Nat × Nat :=
  let i := smGet (fun _ => 0) s.ks.runImage 0
  let b := frxComponentAt (s.frx i)
  (frxN (s.frx i) (b + 8) 2, frxN (s.frx i) (b + 10) 2)

/-- The steps of R441 that serve the host: locks, `LNT_IFVER`, credits, channel 0 with `FW_READY` and `STANDBY`. -/
def State.openHost (s : State) (h2f f2h exch logH logF : Nat) : State :=
  let t := s.lockBoot
  let t := (t.setF F.LNT_IFVER_MAJOR t.fwInterface.1).setF F.LNT_IFVER_MINOR t.fwInterface.2
  let t := ((t.grantCredits 0).grantCredits 1).placeChannel0 h2f f2h exch logH logF
  t.setFwFlags 0 0b101

/-- STARTUP_RELEASE (R441, R446): after the fill, everything is released and the device enters `STANDBY`. After a start-up
failure with firmware running, the host alone is served (R444): bricks and Hod engines stay held and `SEQ_CTRL.ENABLE` 0. -/
def execStartupRelease (h2f f2h exch logH logF : Nat) (s : State) : Res :=
  if !placementOk h2f f2h exch logH logF then done s
  else if (s.dv.st = .bringup || s.dv.st = .warmReset) && s.dv.fillRunning then
    let t := ((s.filled.freeBlocks.freeEngines.openHost h2f f2h exch logH logF).setFlag F.SEQ_CTRL_ENABLE true).setFlag
      (hdrF .seq 0x08 31 31) false
    done { t with dv := { t.dv with st := .standby } }
  else if s.dv.st = .failed && s.unit .trw 0 ≠ 1 && s.unit .lnt 0 = 3 && !s.dv.releaseHeld then
    let t := s.freeBlocks.openHost h2f f2h exch logH logF
    done { t with dv := { t.dv with releaseHeld := true } }
  else done s

/-- RELEASE_TIMEOUT (Table 17-4): release not reached within 2 s of T0's start. -/
def execReleaseTimeout (ms : Nat) (s : State) : Res :=
  if s.dv.st = .bringup && 2000 ≤ ms then done (s.startupFails 3) else done s

/-! ## The warm reset (R445, R446) -/

/-- May this requester start a warm reset: the device right, or the core that serves the supervisor duty? -/
def State.mayWarmReset (s : State) (r : Requester) : Bool :=
  match r with
  | .host a => s.deviceRight a
  | .trowel c => s.dutyServed 0 && s.dutyCore 0 == some c
  | _ => false

/-- A component reset in progress is abandoned (R449): a stack trains anew and a Footing channel serves again, since the warm
reset itself does neither; bricks, Hod engines and slabs the release makes ready. -/
def State.abandonReset (s : State) (b : Blk) (i : Nat) : State :=
  let t := s.setFlag (hdrF b 0x08 31 31) false i
  match b with
  | .stk => t.stkTrain i
  | .ftg => (t.setF F.FTG_CH_STATE_STATE 2 i).setUnit .ftg i 3
  | _ => t

/-- Component resets in progress are abandoned. -/
def State.abandonResets (s : State) : State :=
  [Blk.brk, .hod, .yrd, .stk, .ftg, .cyt].foldl (fun t b =>
    (t.regs.filter fun e => e.1 / 0x8000 / 0x4000 = hdrAddr b 0x08 && nbit e.2.toNat 31).foldl (fun u e =>
      u.abandonReset b (e.1 / 0x8000 % 0x4000)) t) s

/-- A warm reset starts: every admitted step and command ends without a record. -/
def State.warmStart (s : State) : State :=
  let t := ((List.range 32).foldl State.haltPart s).abandonResets
  let t : State := { t with dv := { t.dv with
    st := .warmReset, draining := true, warmResets := t.dv.warmResets + 1, fillRunning := false } }
  t.setFlag (hdrF .seq 0x08 31 31) true

/-- A write of 1 to `COMP_RESET` of SEQ page 0 (R44). -/
def State.warmReset (s : State) (r : Requester) : State :=
  if s.mayWarmReset r && (s.dv.st = .standby || s.dv.st = .ready) then s.warmStart else s

/-- Registers that a warm reset returns to their reset values: what partitions, sequences and slots are set up with, the Yard's
block table and quotas, the region table's windows and the host attachment; headers and key bindings stay (Table 17-5). -/
def warmCleared (addr : Nat) : Bool :=
  let page := addr / 0x1000
  let off := addr % 0x1000
  0x40 ≤ off &&
    ((0x150 ≤ page && page ≤ 0x161 && addr ≠ A.PRT_OWNER) || (0x141 ≤ page && page ≤ 0x143) || page = 0x112
      || addr = A.YRD_BENTRY || addr = A.REG_INDEX || addr = A.REG_ENTRY_LO || addr = A.REG_RELOAD_STAT || page = 0x33
      || addr = A.LNT_DRVVER || addr = A.LNT_ATTACH || addr = A.LNT_ATTACHED || addr = A.LNT_SILENT || addr = A.LNT_PARKED
      || addr = A.LNT_SSTAT)

/-- A request that serves the host. -/
def QMsg.forHost (m : QMsg) : Bool :=
  match m.use with
  | .host _ _ _ _ _ => true
  | _ => false

/-- The requests of this device that other devices have not answered: their responses will be discarded (R446); host requests
among them complete with 0x0705. -/
def State.abandonRemote (s : State) (l : Nat) : State :=
  let x := s.qlink l
  let t := s.setQlink l { x with sent := [], waiting := [] }
  let t : State := { t with lk := { t.lk with discard := t.lk.discard ++ x.sent.map fun e => (l, e.1) } }
  ((x.sent.map (·.2) ++ x.waiting).filter QMsg.forHost).foldl (fun u m => u.answerUse m 0x0705 []) t

/-- Requests that no link has taken yet end likewise. -/
def State.abandonHeld (s : State) : State :=
  let t : State := { s with lk := { s.lk with held := [], unpaid := [] } }
  ((s.lk.held ++ s.lk.unpaid).filter QMsg.forHost).foldl (fun u m => u.answerUse m 0x0705 []) t

/-- Does the host or another device wait for the answer? -/
def Asker.outside : Asker → Bool
  | .host .. => true
  | .peer .. => true
  | _ => false

/-- Accesses of the host and of other devices that have not been served complete with 0x0705 (R446). -/
def State.abandonAccesses (s : State) : State :=
  let ks := s.bk.tickets.map (fun w => (w.asker, w.len)) ++ s.yd.waiting.map fun q => (q.asker, if q.acc.op = 0 then q.acc.len else 0)
  let t : State := { s with bk := { s.bk with tickets := [] }, yd := { s.yd with waiting := [] } }
  (ks.filter fun k => k.1.outside).foldl (fun u k => u.answerAsker k.1 0x0705 (List.replicate k.2 0)) t

/-- What a warm reset clears (Table 17-5). -/
def State.warmClear (s : State) : State :=
  let t := (State.abandonHeld ((List.range 64).foldl State.abandonRemote s)).abandonAccesses
  { t with
    regs := t.regs.filter fun e => !warmCleared (e.1 / 0x8000 / 0x4000)
    mem := [], synd := []
    bk := { rowSpares := t.bk.rowSpares, repair := t.bk.repair, acts := t.bk.acts, pulled := t.bk.pulled, nextTicket := t.bk.nextTicket }
    sv := {}, pt := {}, it := {}
    qu := { nextId := t.qu.nextId }
    br := (t.br.map fun e => (e.1, { clk := e.2.clk })).filter fun e => e.2 ≠ {}
    yd := { slabOf := t.yd.slabOf, spares := t.yd.spares, retired := t.yd.retired, replacing := t.yd.replacing }
    ln := { t.ln with held := t.ln.held.filter (fun e => e.1 = 0), bells := [], minor := 0, major := 0, expiry := [], expiryAt := [], ahead := 0 }
    ks := { t.ks with slotsBusy := [], actMsg := [] }
    ftg := { t.ftg with loads := [], keyReg := [] }
    tr := { t.tr with journal := t.tr.journal.filter fun e => e.kind ≠ 4 }
    dv := { t.dv with draining := false, fillRunning := true } }

/-- WARM_RESET_DRAIN_END (R446, 4): after at most 10 ms of draining the fill runs. -/
def execWarmResetDrainEnd (ms : Nat) (s : State) : Res :=
  if s.dv.st = .warmReset && s.dv.draining && ms ≤ 10 then
    done (s.warmClear.setFlag F.REG_SCRUB_CTL_SWEEPING false)
  else done s

end Sys2Proof.Machine
end

