-- ==== Sys2Proof/Machine/Update.lean ====
section
/-! DEFINITION. Firmware update: activation, confirmation, reverting and the automatic fallback (chapter 19). -/

namespace Sys2Proof.Machine

/-! ## The component records (R473, R474) -/

/-- `MIN_VER` and `MAX_VER` of component n in an image's record. -/
def State.fwMin (s : State) (i n : Nat) : Nat := frxN (s.frx i) (frxComponentAt (s.frx i) + 16 + 8 * n) 4
def State.fwMax (s : State) (i n : Nat) : Nat := frxN (s.frx i) (frxComponentAt (s.frx i) + 20 + 8 * n) 4

/-- The running image of a component. -/
def State.running (s : State) (c : Nat) : Nat := smGet (fun _ => 0) s.ks.runImage c

/-- Image x, of component c, runs beside image y, of component n: each version lies in the other's range (R474). -/
def State.fwBeside (s : State) (c x n y : Nat) : Bool :=
  s.fwMin x n ≤ s.fwVersion y && s.fwVersion y ≤ s.fwMax x n && s.fwMin y c ≤ s.fwVersion x && s.fwVersion x ≤ s.fwMax y c

/-- Image x of component c is compatible with the running set. -/
def State.compatible (s : State) (c x : Nat) : Bool :=
  (List.range 4).all fun n => n == c || s.fwBeside c x n (s.running n)

/-- A set of four images is compatible. -/
def State.setCompatible (s : State) (imgs : List Nat) : Bool :=
  (List.range 4).all fun c => (List.range 4).all fun n => n == c || s.fwBeside c (imgs.getD c 0) n (imgs.getD n 0)

/-! ## Messages (R482) -/

/-- The device serves update messages: in `STANDBY` and `READY`, and as in `STANDBY` after a start-up failure (R444). -/
def State.servesUpdate (s : State) : Bool := s.dutyServed 5 && (s.serving0 || s.dv.releaseHeld)

/-- An update message at the front of channel 0. -/
def State.updMsg (s : State) (type : Nat) : Option Msg :=
  match s.h2fPeek 0 with
  | some m => if fieldB m 0 2 = type && s.servesUpdate then some m else none
  | none => none

/-- `UPD_EVENT` (Table 19-4): 0 paused, 1 resumed, 2 fallback began, 3 fallback ended. -/
def State.updEvent (s : State) (c i event status : Nat) : State :=
  s.f2h 0 (mkMsg 0x8024 0 0 0 [(16, 1, c), (17, 1, i), (18, 1, event), (20, 2, status)])

/-- An update message is answered at once; `STATUS` shows it. -/
def State.updAnswer (s : State) (m : Msg) (status : Nat) (payload : List (Nat × Nat × Nat)) : State :=
  (s.setF F.KST_UPD_STAT_STATUS status).h2fAnswer 0 m status payload

/-- The reply of the ACTIVATE or REVERT in progress is written. -/
def State.updReply (s : State) (status : Nat) : State :=
  if s.ks.actMsg = [] then s
  else
    let t : State := { (s.setF F.KST_UPD_STAT_STATUS status) with ks := { s.ks with actMsg := [] } }
    t.h2fLate s.ks.actMsg status

/-- An update operation begins or, with `op` 0, ends. -/
def State.setOp (s : State) (op c : Nat) : State :=
  ((s.setFlag F.KST_UPD_STAT_BUSY (op != 0)).setF F.KST_UPD_STAT_OP op).setF F.KST_UPD_STAT_COMPONENT c

/-! ## Instances (R476) -/

/-- The instances of a component, in the order of Table 19-3; retired cores, absent stacks and absent dies have none. -/
def State.instancesOf (s : State) (c : Nat) : List Nat :=
  match c with
  | 0 => [7, 1, 2, 3, 4, 5, 6, 0].filter fun k => s.phase k ≠ 5
  | 1 => [0]
  | 2 => (List.range 16).filter (s.present .stk)
  | _ => List.range (if s.dv.gradeC then 6 else 8)

/-- The longest pause of an instance, ms (Table 19-3). -/
def pauseLimit (c : Nat) : Nat := match c with
  | 0 => 30 | 1 => 80 | _ => 15

/-- Instances left after those passed over: stacks that are not ready (R478). -/
def State.nextTurns (s : State) (c : Nat) (l : List Nat) : List Nat :=
  if c = 2 then l.dropWhile fun st => !s.stackServes st else l

/-- The next instance pauses: a Trowel core restarts with cause 5. A stack's turn waits while a repair runs in it (R478). -/
def State.pauseNext (s : State) (c : Nat) : State :=
  match s.ks.actLeft with
  | [] => s
  | i :: _ =>
    let t := s.setF F.KST_UPD_STAT_INSTANCE i
    if c = 2 && t.flag F.STK_RPR_STAT_BUSY i then t
    else
      let u : State := { t with ks := { t.ks with pausing := true } }
      let u := u.updEvent c i 0 0
      if c = 0 then u.restartCore i 5 0 else u

/-- The instances of a component begin to switch to an image. -/
def State.switchBegin (s : State) (c i : Nat) : State :=
  let t : State := { s with ks := { s.ks with actImage := i, actLeft := s.nextTurns c (s.instancesOf c), pausing := false } }
  t.pauseNext c

/-- The pause of an instance is over: what waited for it goes on. -/
def State.wakeInst (s : State) (c i : Nat) : State :=
  let s : State := { s with ks := { s.ks with pausing := false } }
  match c with
  | 0 => s
  | 1 => (List.range 64).foldl State.linkWakes s
  | 2 => ((s.stackResumes i).openWaiting i s.bk.waiting.length).yardAll
  | _ => (s.connLinks i).foldl State.linkWakes s

/-- An instance comes up on its image; T7 without duties is idle again. -/
def State.resumeInst (s : State) (c i : Nat) : State :=
  let s := s.wakeInst c i
  let t := if c ≠ 0 then s else
      let u := s.setF F.TRW_IMG_VER_SEC_VER (s.fwSecVer s.ks.actImage) i
      let u := if 1 ≤ u.phase i && u.phase i ≤ 4 then u.coreServes i else u
      if i = 7 && u.dutiesOf 7 = [] then u.setF F.TRW_CORE_STATE_PHASE 6 7 else u
  t.updEvent c i 1 0

/-! ## Fallback (R481) -/

/-- The next component of a fallback begins, or the fallback is over. -/
def State.fallNext (s : State) : State :=
  match s.ks.fallLeft with
  | [] => (s.setOp 0 0).updReply 0
  | c :: _ =>
    let old := ((s.ftg.oldImg.find? fun e => e.1 = c).map (·.2)).getD 0
    ((s.setF F.KST_UPD_STAT_COMPONENT c).updEvent c 0 2 0).switchBegin c old

/-- A fallback of some pending components begins, the one activated last first; a pause in progress is over. -/
def State.fallBegin (s : State) (op : Nat) (comps : List Nat) : State :=
  let s := match s.ks.actLeft with
    | i :: _ => if s.ks.pausing then s.wakeInst (s.getF F.KST_UPD_STAT_COMPONENT) i else s
    | [] => s
  let left := s.ftg.pendComps.filter fun c => comps.contains c
  let t : State := { s with ks := { s.ks with fallLeft := left, overruns := [] } }
  (t.setOp op (left.headD 0)).fallNext

/-- The automatic fallback: every pending component, and `UPDATE_FALLBACK`; an ACTIVATE in progress is answered. -/
def State.fallAuto (s : State) : State := ((s.updReply St.imageRejected).err .kst 0 5).fallBegin 4 s.ftg.pendComps

/-- A component runs its old image again: the rejected image returns to `FREE`. -/
def State.fallDone (s : State) (c : Nat) : State :=
  let bad := (s.fwImages c).filter fun i => i ≠ s.ks.actImage && s.fwVersion s.ks.actImage < s.fwVersion i
  let old := s.ks.actImage
  let t := (s.measureImage c old).runs c old
  let t := bad.foldl (fun u i => (u.releaseUnits i).setImage i { gen := (u.image i).gen + 1 }) t
  let t : State := { t with
    ftg := { t.ftg with pendComps := t.ftg.pendComps.filter (· ≠ c), oldImg := t.ftg.oldImg.filter fun e => e.1 ≠ c }
    ks := { t.ks with fallLeft := t.ks.fallLeft.tail } }
  ((t.showPending.updEvent c 0 3 0).journalClose 5 c).fallNext

/-! ## Activation (R475, R476) -/

/-- Reserved bytes of an ACTIVATE that are not zero. -/
def activateBad (m : Msg) : Bool :=
  fieldB m 2 1 / 4 ≠ 0 || fieldB m 3 1 ≠ 0 || fieldB m 10 10 ≠ 0 || fieldB m 24 40 ≠ 0 || 4096 ≤ fieldB m 20 4

/-- The first status of Table 19-2. -/
def State.activateStatus (s : State) (m : Msg) (checkOk : Bool) : Nat :=
  let i := fieldB m 20 4
  let e := s.image i
  let sealed_ := e.state = 3 && e.kind = 3
  let c := s.fwComp i
  if activateBad m then St.badField
  else if !s.serving0 || s.updBusy || (sealed_ && (s.ftg.pendComps.contains c
      || (s.fwImages c).any fun j => s.fwVersion i < s.fwVersion j)) then St.stateRefused
  else if !sealed_ then St.imageAbsent
  else if !checkOk || !componentOk (s.frx i) then St.imageRejected
  else if s.fwSecVer i < s.arb c then St.rollbackRefused
  else if !s.compatible c i || (c = 0 && s.getF F.LNT_ATTACH_DEV = 1
      && frxN (s.frx i) (frxComponentAt (s.frx i) + 8) 2 ≠ s.ln.major) then St.incompatible
  else 0

/-- An accepted activation: the component's record of what to fall back to is written, and its first instance pauses. -/
def State.activateBegin (s : State) (m : Msg) (i : Nat) : State :=
  let c := s.fwComp i
  let t : State := { s.h2fTake with
    ftg := { s.ftg with pendComps := c :: s.ftg.pendComps, oldImg := (c, s.running c) :: s.ftg.oldImg }
    ks := { s.ks with actMsg := m, overruns := smDel s.ks.overruns c } }
  ((t.setOp 1 c).journalOpen 5 5 c).switchBegin c i

/-- ACTIVATE: the checks of Table 19-2 in their order; a refusal changes nothing. -/
def execActivate (checkOk : Bool) (s : State) : Res :=
  match s.updMsg 0x20 with
  | none => done s
  | some m => match s.activateStatus m checkOk with
    | 0 => done (s.activateBegin m (fieldB m 20 4))
    | code => done ((if code = St.imageRejected then s.err .kst 0 0 else s).updAnswer m code [])

/-- The last instance has resumed: the image is measured, the component is pending, and the reply leaves. -/
def State.activateDone (s : State) (c : Nat) : State :=
  let i := s.ks.actImage
  let t := ((s.measureImage c i).runs c i).showPending
  let t := if c = 0 then (t.setF F.LNT_IFVER_MAJOR t.fwInterface.1).setF F.LNT_IFVER_MINOR t.fwInterface.2 else t
  ((t.setOp 0 0).journalClose 5 c).updReply 0

/-- ACTIVATION_INSTANCE: the instance whose turn it is begins its pause, after the gap, or ends it. One that fails, or the second
pause overrun, starts the automatic fallback; a stack's turn waits while a repair runs in it. Where every instance is passed over, the
component is done. -/
def execActivationInstance (ok : Bool) (ms : Nat) (s : State) : Res :=
  let c := s.getF F.KST_UPD_STAT_COMPONENT
  let falling := s.ks.fallLeft ≠ []
  if !s.updBusy || !s.serving0 then done s
  else match s.ks.actLeft with
  | [] => done (if falling then s.fallDone c else s.activateDone c)
  | i :: rest =>
    if !s.ks.pausing then
      -- a stack that has gone since its predecessor's turn is passed over (R478)
      let t : State := { s with ks := { s.ks with actLeft := s.nextTurns c s.ks.actLeft } }
      done (t.pauseNext c)
    else if !ok then done (if falling then s else s.fallAuto)
    else
      let t := s.resumeInst c i
      let n := smGet (fun _ => 0) t.ks.overruns c + if pauseLimit c < ms then 1 else 0
      let t : State := { t with ks := { t.ks with
        overruns := smSet (fun _ => 0) t.ks.overruns c n, actLeft := t.nextTurns c rest } }
      if !falling && 2 ≤ n then done t.fallAuto
      else if t.ks.actLeft = [] then done (if falling then t.fallDone c else t.activateDone c)
      else done (if c = 0 then t.pauseNext c else t)

/-! ## CONFIRM, REVERT, UPD_STATUS and the automatic fallback -/

/-- The components of a mask in payload byte 16. -/
def maskComps (m : Msg) : List Nat := (List.range 4).filter fun c => nbit (fieldB m 16 1) c

/-- Does a mask name only pending components? -/
def State.allPending (s : State) (cs : List Nat) : Bool := cs.all fun c => s.ftg.pendComps.contains c

/-- A component is confirmed: fuses are blown until `COUNT` equals the image's `SEC_VER`, and it is pending no more. -/
def State.confirmComp (s : State) (c : Nat) : State :=
  let sv := s.fwSecVer (s.running c)
  { s with
    dv := { s.dv with arb := smSet (fun _ => 0) s.dv.arb c (max (s.arb c) sv) }
    ftg := { s.ftg with pendComps := s.ftg.pendComps.filter (· ≠ c), oldImg := s.ftg.oldImg.filter fun e => e.1 ≠ c } }

/-- CONFIRM (R480). -/
def execConfirm (s : State) : Res :=
  match s.updMsg 0x21 with
  | none => done s
  | some m =>
    if s.updBusy || !s.allPending (maskComps m) then done (s.updAnswer m St.stateRefused [])
    else done (((maskComps m).foldl State.confirmComp s).showPending.updAnswer m 0 [])

/-- The running set with the old images of some components. -/
def State.revertedSet (s : State) (cs : List Nat) : List Nat :=
  (List.range 4).map fun c => match s.ftg.oldImg.find? fun e => e.1 = c && cs.contains c with
    | some e => e.2
    | none => s.running c

/-- REVERT (R481): the fallback of the components named, unless the set it would leave is incompatible. -/
def execRevert (s : State) : Res :=
  match s.updMsg 0x22 with
  | none => done s
  | some m =>
    let cs := maskComps m
    if s.updBusy || !s.allPending cs then done (s.updAnswer m St.stateRefused [])
    else if !s.setCompatible (s.revertedSet cs) then done (s.updAnswer m St.incompatible [])
    else if cs = [] then done (s.updAnswer m 0 [])
    else
      let t : State := { s.h2fTake with ks := { s.ks with actMsg := m } }
      done (t.fallBegin 3 cs)

/-- AUTOMATIC_FALLBACK (R481): a pending component fails. -/
def execAutomaticFallback (component : Nat) (s : State) : Res :=
  if s.ftg.pendComps.contains component && s.ks.fallLeft = [] && s.serving0 then done s.fallAuto else done s

/-- UPD_STATUS (Table 19-4): the pending mask and the four running versions. -/
def execUpdStatus (s : State) : Res :=
  match s.updMsg 0x23 with
  | none => done s
  | some m => done (s.updAnswer m 0 ((16, 1, s.getF F.KST_UPD_STAT_PENDING) ::
      (List.range 4).map fun c => (20 + 4 * c, 4, s.getF (F.KST_RUNVER_VERSION.nth c))))

end Sys2Proof.Machine
end

