-- ==== Sys2Proof/Machine/Silence.lean ====
section
/-! DEFINITION. The host link's flits, modules and retrains, host silence, and the attach messages (chapter 12, R325 to R354). -/

namespace Sys2Proof.Machine

/-! ## Host silence (R349 to R354) -/

/-- A partition's silence phase changes (Table 12-4). -/
def State.setPhase (s : State) (p phase cause ms : Nat) : State :=
  let t := ((s.setF F.LNT_SSTAT_PHASE phase p).setF F.LNT_SSTAT_CAUSE cause p).setF F.LNT_SSTAT_MS_LEFT ms p
  if s.getF F.LNT_SSTAT_PHASE p = phase then t else t.raise (256 + p)

/-- The grace of a partition, ms, and its retain time, s; a stored zero counts as one. -/
def State.graceMs (s : State) (p : Nat) : Nat := max 1 (s.getF F.PRT_SILENCE_MS p)
def State.retainS (s : State) (p : Nat) : Nat := max 1 (s.getF F.PRT_RETAIN_S p)

/-- A partition's host falls silent; only attached partitions are watched. -/
def State.silence (s : State) (p cause : Nat) : State :=
  if s.bit F.LNT_ATTACHED_MASK p && !s.bit F.LNT_SILENT_MASK p then
    ((s.setBit F.LNT_SILENT_MASK p true).err .lnt 0 5).setPhase p 2 cause (s.graceMs p)
  else s

/-- A sequence as parking leaves it: `READY` becomes `PARKED`; one being recomputed is parked when that ends. -/
def Seq.park (e : Seq) (ms : Nat) : Seq :=
  if e.st = 1 then { e with st := 3, parkedFrom := 1, retainMs := ms }
  else if e.st = 4 && e.recFrom = 1 then { e with recFrom := 3, parkedFrom := 1, retainMs := ms }
  else e

/-- The grace of a partition has ended (R351): an `ACTIVE` partition is parked. -/
def State.parkPart (s : State) (p : Nat) : State :=
  if s.partState p ≠ 2 then s
  else
    let ms := s.retainS p * 1000
    let t := (s.seqsOf p).foldl (fun u e => u.setSeq e.1 (e.2.park ms)) s
    ((t.setPartState p 4).setBit F.LNT_PARKED_MASK p true).setPhase p 3 (s.getF F.LNT_SSTAT_CAUSE p) ms

/-- The silence of a partition ends. -/
def State.silenceEnds (s : State) (p : Nat) : State :=
  ((s.setBit F.LNT_SILENT_MASK p false).setBit F.LNT_PARKED_MASK p false).setPhase p 1 0 0

/-- A write to `LNT_HBp`: in the grace it ends a silence whose cause was the heartbeat, or the link once a link is back (R350), unless
a `DETACH` has come meanwhile (DEDUCED, log 72). -/
def State.heartbeat (s : State) (p : Nat) : State :=
  let c := s.getF F.LNT_SSTAT_CAUSE p
  if s.getF F.LNT_SSTAT_PHASE p = 2 && s.bit F.LNT_ATTACHED_MASK p && (c = 1 || (c = 3 && s.intrLink.isSome)) then (s.silenceEnds p).stepsTick p else s

/-- HEARTBEAT_TIMEOUT (R349). -/
def execHeartbeatTimeout (part ms : Nat) (s : State) : Res :=
  done (if part < 32 && max 1 (s.getF F.LNT_HB_TMO_MS) ≤ ms then s.silence part 1 else s)

/-- A completion or result ring of queue q is full. -/
def State.ringFull (s : State) (p q : Nat) : Bool :=
  (s.getF F.PRT_CQSIZE_LOG2 p q ≠ 0 && s.cqRoom p q = 0) || (s.getF F.PRT_RQSIZE_LOG2 p q ≠ 0 && s.rqRoom p q = 0)

/-- RING_FULL_SILENCE (R349): a ring has stayed full for the grace, which is then spent. -/
def execRingFullSilence (part ring ms : Nat) (s : State) : Res :=
  if part < 32 && ring < 8 && s.ringFull part ring && s.graceMs part ≤ ms && s.bit F.LNT_ATTACHED_MASK part
      && !s.bit F.LNT_SILENT_MASK part then
    done (((s.silence part 4).setF F.LNT_SSTAT_MS_LEFT 0 part).parkPart part)
  else done s

/-- SILENCE_GRACE_END (R351); a partition that is `RECOVERING` is parked once it has recovered. -/
def execSilenceGraceEnd (part ms : Nat) (s : State) : Res :=
  if part < 32 && s.getF F.LNT_SSTAT_PHASE part = 2 && s.getF F.LNT_SSTAT_MS_LEFT part ≤ ms then done (s.parkPart part) else done s

/-- RETAIN_EXPIRY (R354): the retain time ends with no reattach: every sequence of the partition is released. -/
def execRetainExpiry (part secs : Nat) (s : State) : Res :=
  if part < 32 && s.partState part = 4 && s.retainS part ≤ secs then
    let qs := s.seqsOf part
    let t := (qs.foldl (fun u e => u.releaseSeq e.1) s).listExpired part (qs.map fun e => (e.1, e.2.gen, e.2.queue))
    let t := ((t.setPartState part 2).setBit F.LNT_PARKED_MASK part false).err .lnt 0 6
    done (t.setPhase part 4 (s.getF F.LNT_SSTAT_CAUSE part) 0)
  else done s

/-! ## The messages of Table 12-6 -/

/-- The code of a device state (Table 17-1). -/
def DevState.code : DevState → Nat
  | .off => 0 | .boot => 1 | .bringup => 2 | .standby => 3 | .ready => 4 | .warmReset => 5 | .failed => 6

/-- Firmware serves a channel: channel 0 from the release on, the others while the device is `READY` (R347, R444). -/
def State.servesChannel (s : State) (c : Nat) : Bool :=
  s.dutyServed 6 && (if c = 0 then s.serving0 || s.dv.releaseHeld else s.dv.st == .ready)

/-- A message of a type at the front of a channel that firmware serves. -/
def State.hostMsg (s : State) (c type : Nat) : Option Msg :=
  match s.h2fPeek c with
  | some m => if fieldB m 0 2 = type && s.servesChannel c then some m else none
  | none => none

/-- The payload of `ATTACH_REPLY`; the firmware build is the running Trowel image's `VERSION`. -/
def State.attachPayload (s : State) (resumed expired : Nat) : List (Nat × Nat × Nat) :=
  [(16, 2, s.getF F.LNT_IFVER_MAJOR), (18, 2, s.getF F.LNT_IFVER_MINOR), (20, 4, s.getF (F.KST_RUNVER_VERSION.nth 0)),
    (24, 4, resumed), (28, 4, expired), (32, 2, s.dv.devNum)]

/-- ATTACH on channel 0 (R346, R347): equal majors make a `STANDBY` device `READY`; different ones make a `READY` device
`STANDBY`. -/
def State.attachDev (s : State) (m : Msg) : State :=
  let major := fieldB m 16 2
  if major = s.getF F.LNT_IFVER_MAJOR then
    let t := (s.setF F.LNT_ATTACH_DEV 1).setF F.LNT_ATTACH_STATUS 0
    let t : State := { t with ln := { t.ln with major := major, minor := min (fieldB m 18 2) (s.getF F.LNT_IFVER_MINOR) } }
    let t := t.setFlag F.LNT_RSTAT_ATTACHED true 0
    let t := if s.serving0 then (({ t with dv := { t.dv with st := .ready } } : State).setFwFlags 0 0b0001) else t
    t.h2fAnswer 0 m 0 (t.attachPayload 0 0)
  else
    let t := ((s.setF F.LNT_ATTACH_DEV 2).setF F.LNT_ATTACH_STATUS St.ifverMismatch).err .lnt 0 4
    let t : State := if s.serving0 then { t with dv := { t.dv with st := .standby } } else t
    (t.setFwFlags 0 0b1101).h2fAnswer 0 m St.ifverMismatch (t.attachPayload 0 0)

/-- Sequences of a partition that parking holds. -/
def State.parkedSeqs (s : State) (p : Nat) : List (Nat × Seq) := (s.seqsOf p).filter fun e => e.2.st = 3

/-- Every `PARKED` sequence returns to the state it was parked from, with `RETAIN_MS` 0 (R353). -/
def State.unpark (s : State) (p : Nat) : State :=
  (s.seqsOf p).foldl (fun u e =>
    if e.2.st = 3 then u.setSeq e.1 { e.2 with st := e.2.parkedFrom, retainMs := 0 }
    else if e.2.st = 4 && e.2.recFrom = 3 then u.setSeq e.1 { e.2 with recFrom := e.2.parkedFrom, retainMs := 0 }
    else u) s

/-- The expiry list is told to the queues its sequences had, and cleared (R354). -/
def State.tellExpired (s : State) (p : Nat) : State :=
  let t := (s.expiryOf p).foldl (fun u x => u.addRec { part := p, ring := x.2.2, origin := x.2.2, tag := 0, opcode := 0, flags := 4
                                                       status := St.expired, result := x.2.1 * 2 ^ 32 + x.1, irq := true }) s
  t.clearExpired p

/-- Is an attach to a partition refused (R348)? -/
def State.attachBad (s : State) (p agent : Nat) (m : Msg) : Bool :=
  s.dv.st ≠ .ready || s.partState p = 0 || !s.hasRight agent p .reg || fieldB m 16 2 ≠ s.ln.major

/-- An accepted attach to a partition (R348, R353). -/
def State.attachPart (s : State) (p : Nat) (m : Msg) : State :=
  let resumed := if s.partState p = 4 then (s.parkedSeqs p).length else 0
  let expired := (s.expiryOf p).length
  let t := if s.partState p = 4 then (s.unpark p).setPartState p 2 else s
  let t := (t.setBit F.LNT_ATTACHED_MASK p true).setFlag F.LNT_RSTAT_ATTACHED true (p + 1)
  let t := (t.silenceEnds p).setFwFlags (p + 1) 1
  ((t.h2fAnswer (p + 1) m 0 (t.attachPayload resumed expired)).tellExpired p).stepsTick p

/-- ATTACH (R346 to R348, R353). -/
def execAttach (channel agent : Nat) (s : State) : Res :=
  match s.hostMsg channel 1 with
  | none => done s
  | some m =>
    if 33 ≤ channel then done s
    else if channel = 0 then done (s.attachDev m)
    else if s.attachBad (channel - 1) agent m then done (s.h2fAnswer channel m St.attachRefused (s.attachPayload 0 0))
    else done (s.attachPart (channel - 1) m)

/-- DETACH (R349, R350): the partition's host falls silent; `PARK_NOW` skips the grace. -/
def execDetach (channel : Nat) (s : State) : Res :=
  match s.hostMsg channel 2 with
  | none => done s
  | some m =>
    if channel = 0 || 33 ≤ channel then done s
    else
      let p := channel - 1
      let t := s.silence p 2
      let t := (t.setBit F.LNT_ATTACHED_MASK p false).setFlag F.LNT_RSTAT_ATTACHED false channel
      let t := if fieldB m 16 1 % 2 = 1 && t.getF F.LNT_SSTAT_PHASE p = 2 then (t.setF F.LNT_SSTAT_MS_LEFT 0 p).parkPart p else t
      done (t.h2fAnswer channel m 0 [])

/-- QUERY_STATE: `STATE_REPLY`; on channel 0 the partition's fields are zero. -/
def execQueryState (channel : Nat) (s : State) : Res :=
  match s.hostMsg channel 3 with
  | none => done s
  | some m =>
    let p := channel - 1
    let part := if channel = 0 then [] else
      [(17, 1, s.partState p), (18, 1, s.getF F.LNT_SSTAT_PHASE p), (20, 4, s.getF F.LNT_SSTAT_MS_LEFT p)]
    done (s.h2fAnswer channel m 0 ((16, 1, s.dv.st.code) :: part))

/-- Is a message type one that the host may send on a channel (Table 12-6, Tables 18-4 and 19-4)? -/
def msgKnown (c type : Nat) : Bool :=
  type = 1 || type = 3 || type = 0x11 || (type = 2 && c ≠ 0)
    || (c = 0 && ((0x20 ≤ type && type ≤ 0x23) || (0x28 ≤ type && type ≤ 0x2D)))

/-- UNKNOWN_MESSAGE (R345): answered with 0x0603 where a reply is expected, and discarded otherwise. -/
def execUnknownMessage (channel : Nat) (s : State) : Res :=
  match s.h2fPeek channel with
  | none => done s
  | some m =>
    if s.servesChannel channel && !msgKnown channel (fieldB m 0 2) then done (s.h2fAnswer channel m St.msgUnknown []) else done s

/-! ## Interrupts (R341) -/

/-- INTR_HOLDOFF_END: what was raised during the holdoff is delivered together. -/
def execIntrHoldoffEnd (source : Nat) (s : State) : Res :=
  done (({ s with ln := { s.ln with holdoff := s.ln.holdoff.filter (· ≠ source) } } : State).deliver source)

/-- A write of `LNT_IVEC` for the source a requester shows: `PENDING` stays, and clearing `MASK` delivers a pending source. -/
def State.ivecWrite (s : State) (rc v : Nat) : State :=
  let src := s.getF F.LNT_ISRC_SOURCE 0 rc
  let old := (s.reg A.LNT_IVEC src).toNat
  let keep := putField (v % 2 ^ 32) 28 19 0
  (s.setReg A.LNT_IVEC (BitVec.ofNat 32 (putField keep 29 29 (nbits old 29 29))) src).deliver src

/-! ## Flits, retrains and modules (R326, R331 to R333) -/

/-- Flits of the replay buffer up to and with `ack` are acknowledged; an `ack` that names none of them acknowledges nothing. -/
def ackFlits (l : List (Nat × List Out)) (ack : Nat) : List (Nat × List Out) :=
  if l.any fun e => e.1 = ack then (l.dropWhile fun e => e.1 ≠ ack).tail else l

/-- A link retrains (R333). -/
def State.hostRetrain (s : State) (l : Nat) : State :=
  (s.setHlink l { s.hlink l with retraining := true, naks := 0 }).bump F.LNT_RETRAIN_CNT_COUNT

/-- Requests that were taken in on a link are performed and receive no completion (R333): they belong to none of its later ones. -/
def State.forgetHost (s : State) (l : Nat) : State :=
  let f (k : Asker) : Asker := match k with
    | .host m kind tid agent part addr n => if m = l then .host (m + 2) kind tid agent part addr n else k
    | _ => k
  let g (m : QMsg) : QMsg := match m.use with
    | .host k kind tid agent part => if k = l then { m with use := .host (k + 2) kind tid agent part } else m
    | _ => m
  { s with
    yd := { s.yd with waiting := s.yd.waiting.map fun q => { q with asker := f q.asker } }
    bk := { s.bk with tickets := s.bk.tickets.map fun w => { w with asker := f w.asker } }
    lk := { s.lk with
      links := s.lk.links.map fun e => (e.1, { e.2 with sent := e.2.sent.map fun r => (r.1, g r.2), waiting := e.2.waiting.map g })
      held := s.lk.held.map g, unpaid := s.lk.unpaid.map g } }

/-- A link goes down (R326, R333): the unacknowledged interrupts go to the other link; with none up, every attached partition's
host falls silent. -/
def State.hostLinkDown (s : State) (l : Nat) : State :=
  let s := s.forgetHost l
  let x := s.hlink l
  let t := s.setFlag (if l = 0 then F.LNT_LINK_A_UP else F.LNT_LINK_B_UP) false
  let t := t.setF (if l = 0 then F.LNT_LINK_RATE_A else F.LNT_LINK_RATE_B) 0
  let t := (List.range 4).foldl (fun u k => u.setBit F.LNT_LINK_MOD_UP (4 * l + k) false) t
  let t := (t.setHlink l { failed := x.failed }).err .lnt 0 3
  let intrs := (x.replay.flatMap (fun e => e.2) ++ x.toSend).filter fun o => match o with
    | .intr _ _ => true
    | _ => false
  let t := intrs.foldl (fun u o => match u.intrLink, o with
    | some k, _ => u.toHost k o
    | none, .intr _ src => u.setFlag F.LNT_IVEC_PENDING true src
    | none, _ => u) t
  if t.intrLink.isNone then (List.range 32).foldl (fun u p => u.silence p 3) t else t

/-- FLIT_RECEIVE (R333): a good transaction flit with the next `FSEQ` is taken in; a bad CRC or a gap is answered with a NAK. -/
def execFlitReceive (link kind fseq ack rq pw data : Nat) (ackValid crcOk : Bool) (s : State) : Res :=
  let x := s.hlink link
  if 2 ≤ link || !s.hlinkUp link || x.retraining then done s
  else
    let last := (x.rxNext + 4095) % 4096
    if !crcOk then done ((s.bump F.LNT_CRC_CNT_COUNT).emit (.flit link 2 x.rxNext last))
    else
      let y := if ackValid then { x with replay := ackFlits x.replay ack } else x
      let y := if y.replay.length = x.replay.length then y else { y with naks := 0 }
      if kind = 0 && fseq ≠ x.rxNext then done (((s.setHlink link y).emit (.flit link 2 x.rxNext last)).sendHost link 4096)
      else if kind = 0 then
        done (((s.setHlink link { y with rxNext := (x.rxNext + 1) % 4096 }).emit (.flit link 1 y.txNext fseq)).sendHost link 4096)
      else
        let _ := (rq, pw, data)
        done ((s.setHlink link y).sendHost link 4096)

/-- Every flit of the replay buffer is sent again. -/
def State.resendFlits (s : State) (l : Nat) : State :=
  let x := s.hlink l
  let before := s.getF F.LNT_REPLAY_CNT_COUNT
  let t := s.bump F.LNT_REPLAY_CNT_COUNT x.replay.length
  let t := if before ≤ 65536 && 65536 < t.getF F.LNT_REPLAY_CNT_COUNT then t.err .lnt 0 1 else t
  x.replay.foldl (fun u e => u.emit (.flit l 0 e.1 ((x.rxNext + 4095) % 4096))) t

/-- NAK_FLIT (R333): the flits from the one named on are sent again; eight NAKs of one flit in a row cause a retrain. -/
def execNakFlit (link fseq : Nat) (s : State) : Res :=
  let x := s.hlink link
  if 2 ≤ link || !s.hlinkUp link || x.retraining || !x.replay.any (fun e => e.1 = fseq) then done s
  else
    let again := (x.replay.head?.map fun e => e.1) = some fseq
    let n := if again then x.naks + 1 else 1
    let t := s.setHlink link { x with replay := x.replay.dropWhile fun e => e.1 ≠ fseq, naks := n }
    if 8 ≤ n then done (t.hostRetrain link) else done ((t.resendFlits link).sendHost link 4096)

/-- UCIE_RETRAIN_END (R333): the unacknowledged flits are sent again; the third failure in a row takes the link down. -/
def execUcieRetrainEnd (link : Nat) (ok : Bool) (s : State) : Res :=
  let x := s.hlink link
  if 2 ≤ link || !s.hlinkUp link || !x.retraining then done s
  else if ok then
    done (((s.setHlink link { x with retraining := false, retrains := 0 }).resendFlits link).sendHost link 4096)
  else if 3 ≤ x.retrains + 1 then done (s.hostLinkDown link)
  else done ((s.setHlink link { x with retrains := x.retrains + 1 }).bump F.LNT_RETRAIN_CNT_COUNT)

/-- MODULE_FAILURE (R326): a module beyond repair takes its half down; the link retrains on the other half, or goes down. -/
def execModuleFailure (module : Nat) (s : State) : Res :=
  let l := module / 4
  let half := module % 4 / 2
  let x := s.hlink l
  if 8 ≤ module || !s.hlinkUp l || nbit x.failed (module % 4) then done s
  else
    let t := s.setHlink l { x with failed := nsetBit x.failed (module % 4) true }
    let t := ((t.setBit F.LNT_LINK_MOD_UP (4 * l + 2 * half) false).setBit F.LNT_LINK_MOD_UP (4 * l + 2 * half + 1) false).err .lnt 0 2
    let dead (h : Nat) : Bool := nbit (t.hlink l).failed (2 * h) || nbit (t.hlink l).failed (2 * h + 1)
    if dead 0 && dead 1 then done (t.hostLinkDown l) else done (t.hostRetrain l)

/-- Lintel grants credits again once the device has been released (R332, R441, R483). -/
def State.credited (s : State) : Bool := s.serving0 || s.dv.st = .warmReset || s.dv.releaseHeld || s.dv.romRecovery

/-- HOST_LINK_RETURN: a link that was down trains again on the halves that work; pending interrupts are delivered. -/
def execHostLinkReturn (link : Nat) (s : State) : Res :=
  let x := s.hlink link
  let good (h : Nat) : Bool := !nbit x.failed (2 * h) && !nbit x.failed (2 * h + 1)
  if 2 ≤ link || s.hlinkUp link || s.unit .lnt 0 ≠ 3 || !(good 0 || good 1) then done s
  else
    let t := s.setFlag (if link = 0 then F.LNT_LINK_A_UP else F.LNT_LINK_B_UP) true
    let t := t.setF (if link = 0 then F.LNT_LINK_RATE_A else F.LNT_LINK_RATE_B) 6
    let t := (List.range 4).foldl (fun u k => u.setBit F.LNT_LINK_MOD_UP (4 * link + k) (good (k / 2))) t
    let t := t.setHlink link { failed := x.failed }
    let t := if s.credited then t.grantCredits link else t
    done ((List.range 292).foldl State.deliver t)

end Sys2Proof.Machine
end

