-- ==== Sys2Proof/Machine/RegViews.lean ====
section
/-! DEFINITION. What a register reads as (chapter 2 and the register tables of every chapter): which copy a requester is shown,
the common header, and the registers whose value the rest of the state gives. -/

namespace Sys2Proof.Machine

/-! ## Which copy is shown (R49 to R51) -/

/-- A requester's copy of a block's select register. -/
def State.sel (s : State) (b : Blk) (r : Requester) : Nat := s.getF (hdrF b 0x18 15 0) 0 (reqCode r)

/-- A requester's copy of an index register. -/
def State.idx (s : State) (f : Fld) (r : Requester) : Nat := s.getF f 0 (reqCode r)

/-- The block has unselected pages besides selected ones. -/
def mixedPages (b : Blk) : Bool := b = .trw || b = .ftg || b = .yrd

/-- The instance a page shows: none where an absent one is selected. -/
def State.instOf (s : State) (b : Blk) (page : Nat) (r : Requester) : Option Nat :=
  if pageSelected b page then (if s.present b (s.sel b r) then some (s.sel b r) else none) else some 0

/-- The header set a page shows. -/
def State.hdrInst (s : State) (b : Blk) (page : Nat) (r : Requester) : Option Nat :=
  if !pageSelected b page && mixedPages b then some blockWide else s.instOf b page r

/-- The instance a lock of a page is held for (R52). -/
def State.lockInst (s : State) (b : Blk) (page : Nat) (r : Requester) : Option Nat := s.instOf b page r

/-- The copy of a register that a requester is shown through a page whose instance is `i`: its instance and sub-index. -/
def State.copyOf (s : State) (r : Requester) (i : Nat) (d : Dim) : Option (Nat × Nat) :=
  match d with
  | .single => some (0, 0)
  | .inst => some (i, 0)
  | .reqr => some (0, reqCode r)
  | .queue => some (i, s.idx F.PRT_QSEL_QUEUE r)
  | .param => some (i, s.idx F.PRT_QSEL_QUEUE r * 256 + s.idx F.PRT_PIDX_REG r)
  | .view => some (i, 0)
  | .seqPart => some (s.idx F.SEQ_PIDX_PARTITION r, 0)
  | .yardPart => some (s.idx F.YRD_QIDX_PARTITION r, 0)
  | .block => if s.idx F.YRD_BIDX_BLOCK r < 24576 then some (0, s.idx F.YRD_BIDX_BLOCK r) else none
  | .channel => if s.idx F.LNT_RCH_CHANNEL r ≤ 32 then some (s.idx F.LNT_RCH_CHANNEL r, 0) else none
  | .isrc => some (s.idx F.LNT_ISRC_SOURCE r, 0)
  | .sidx => some (s.idx F.LNT_SIDX_PARTITION r, 0)
  | .granule => if s.idx F.REG_INDEX_GRANULE r < s.granules then some (s.idx F.REG_INDEX_GRANULE r, 0) else none
  | .cytSlot => some (i, s.idx F.CYT_SIDX_SLOT r)
  | .image => some (s.idx F.FTG_IMG_IDX_IMAGE r, 0)
  | .imprt => some (i, s.idx F.QLK_IMPORT_IDX_ENTRY r)

/-! ## The common header (Tables 2-3 to 2-9) -/

/-- The image that an instance of a component runs: during an activation those already switched run the new one (R476). -/
def State.runsImage (s : State) (c i : Nat) : Option Nat :=
  let switched := s.updBusy && s.getF F.KST_UPD_STAT_COMPONENT = c && s.ks.actLeft ≠ [] && !s.ks.actLeft.contains i
  if switched then some s.ks.actImage else (s.ks.runImage.find? fun e => e.1 = c).map (·.2)

/-- `BLK_REV.UCODE`: the microcode of stack controllers and Quoin dies (Table 2-4). -/
def State.ucode (s : State) (b : Blk) (i : Nat) : Nat :=
  let of (c k : Nat) : Nat := match s.runsImage c k with
    | some x => nbits (s.fwVersion x) 31 24 * 256 + nbits (s.fwVersion x) 23 8 % 256
    | none => 0
  match b with
  | .stk => if s.unit .stk i = 1 && s.getF F.STK_TRAIN_PHASE i = 0 then 0 else of 2 i
  | .qlk => of 3 (i / 8)
  | _ => 0

/-- An instance has no work of its own, so that a quiesced one shows it (Table 2-3). -/
def State.workless (s : State) (b : Blk) (i : Nat) : Bool :=
  match b with
  | .brk => (s.brick i).run.isNone && !(match s.logicalOf i with
      | some l => (List.range 32).any fun p => s.brickBusy p l
      | none => false)
  | .hod => smGet (fun _ => []) s.bk.lists i = [] && !s.sv.walks.any fun w => w.hod = i
  | _ => true

/-- `UNIT_STATE` as it reads: a ready instance whose `QUIESCE` is 1 reads quiesced once its work has ended. -/
def State.unitShown (s : State) (b : Blk) (i : Nat) : Nat :=
  if s.unit b i = 3 && s.quiesced b i && s.workless b i then 4 else s.unit b i

/-- How many numbers below `n` satisfy `p`. -/
def countBelow (n : Nat) (p : Nat → Bool) : Nat := ((List.range n).filter p).length

/-- A number whose bit k says whether `p k`. -/
def maskOf (n : Nat) (p : Nat → Bool) : Nat := (List.range n).foldl (fun m k => nsetBit m k (p k)) 0

/-- Permuting commands in progress (R239). -/
def State.permuting (s : State) : Nat := (s.qu.cmds.filter fun c => c.phase = 1 && (c.op = 4 || c.op = 5 || c.op = 6)).length

/-- `BLK_SPEC` of a page (each block's chapter). -/
def State.blkSpec (s : State) (b : Blk) (page i : Nat) : Nat :=
  let k := page - b.page0
  match b with
  | .kst => if k = 0 then countBelow 64 fun e => s.getF (F.KST_KEYSTAT_PARTS.nth e) ≠ 0 else 0
  | .trw => if k = 0 then maskOf 7 (s.dutiesOf i).contains
      else if k = 2 then maskOf 8 fun c => s.phase c = 0 && s.unit .trw c = 3 else 0
  | .kln => if k = 0 then npop (s.getF F.KLN_ENF_REGION) 29 else 0
  | .lnt => if k = 0 then min 0xFFFF (s.ln.linkA.tids.length + s.ln.linkB.tids.length) else 0
  | .ftg => if k = 0 then s.imagesIn 1 else 0
  | .reg => if k = 1 then min 0xFFFF s.it.reloads.length else 0
  | .yrd => if k = 0 then countBelow 48 fun l => let u := s.unitShown .yrd (s.physSlab l); u = 3 || u = 4 else 0
  | .bnd => min 0xFFFF s.permuting
  | .hod =>
    let ws := s.sv.walks.filter fun w => w.hod = i
    min 15 ws.length + 16 * ((ws.head?.map (·.bucket)).getD 0 % 16)
  | .seq => min 0xFFFF s.sv.steps.length
  | .prt => (s.sv.steps.filter fun x => x.part = i).length % 8
  | .cyt => maskOf 6 fun c => s.grant i c (s.othersWait i c) ≠ .no
  | .stk => if k = 0 then (s.bk.runs.filter fun e => e.1 / 1024 = i).length else 0
  | .qlk => s.linkState i
  | .brk =>
    let x := s.brick i
    let busy (e : Nat) : Bool := x.queues.getD e [] ≠ [] || x.jobs.any fun j => j.eng = e
    maskOf 6 fun e => if e = 0 then (match x.run with | some r => !r.ended | none => false)
      else if e = 5 then x.inbound.any fun y => y.held && x.readsIn y.off y.data.length else busy (e - 1)

/-- A header register as it reads through a page whose header set is `i`. -/
def State.hdrShown (s : State) (b : Blk) (page i : Nat) (r : Requester) (off : Nat) : Nat :=
  let wide := i = blockWide
  if off = 0x00 then b.code * 2 ^ 24 + (page - b.page0) * 2 ^ 16 + (if wide then 0 else i)
  else if off = 0x04 then 2 ^ 24 + (if wide then 0 else s.ucode b i)
  else if off = 0x0C then (if wide then s.unit b i else s.unitShown b i) * 2 ^ 28 + s.blkSpec b page i
  else if off = 0x18 then (if b.insts = 1 then 0 else s.sel b r)
  else if off = 0x1C then s.getF ⟨page * 0x1000 + 0x1C, 1, 0⟩ (if pageSelected b page then i else 0)
  else if off = 0x08 || off = 0x10 || off = 0x14 || off = 0x20 || off = 0x24 then (s.reg (hdrAddr b off) i).toNat
  else 0

/-! ## Registers that show other state -/

/-- A sequence-table entry as bytes (Table 7-1). -/
def Seq.bytes (e : Seq) : List Byte :=
  let flags := e.rule % 2 + (if e.autoPub then 2 else 0) + (if e.lookup then 4 else 0) + (if e.suspect then 8 else 0)
  let b := recB 128 [(0, 1, e.st), (1, 1, e.part), (2, 1, flags), (3, 1, e.aclass), (4, 1, e.mslot), (5, 1, e.dslot),
    (6, 2, e.aslot), (8, 2, e.aver), (10, 1, e.specD), (11, 1, e.chunk), (12, 4, e.clen), (16, 4, e.hlen), (20, 4, e.dlen),
    (24, 4, e.attnLo), (28, 4, e.temp), (32, 8, e.plBase), (40, 8, e.dplBase), (48, 8, e.tokBase), (56, 4, e.tokCap),
    (60, 2, e.plCap), (62, 2, e.dplCap), (64, 8, e.seed), (72, 8, e.cookie), (96, 4, e.pfxPub), (100, 4, e.stopTok),
    (104, 8, e.lastStep), (112, 2, e.status), (114, 1, e.queue), (116, 4, e.gen), (120, 4, e.retainMs)]
  b.take 80 ++ sliceB e.lastHash 0 16 ++ b.drop 96

/-- `FTG_LOAD`, `FTG_LOAD_DONE` or `_TOTAL`: a running reload, else the MODEL_LOAD that has the channels. -/
def State.loadShown (s : State) (k : Nat) : Nat :=
  if s.flag F.REG_RELOAD_STAT_BUSY then
    let m := s.getF F.REG_RELOAD_STAT_MSLOT
    if k = 0 then 3 * 2 ^ 30 + m * 2 ^ 24 + (s.mslot m).image else if k = 1 then 0 else 1
  else match s.loadHead with
    | none => 0
    | some c =>
      let n := loadBlocks (s.frx (c.word 1))
      if k = 0 then 2 ^ 31 + c.hdr 5 0 * 2 ^ 24 + c.word 1 % 4096 else if k = 1 then n - c.count else n

/-- `FTG_IMG_STAT` of an entry. -/
def Image.stat (e : Image) : Nat :=
  (if e.busy then 2 ^ 31 else 0) + (if e.fail then 2 ^ 30 else 0) + e.state % 8 * 2 ^ 27 + e.kind % 4 * 2 ^ 25
    + e.owner % 32 * 2 ^ 20 + e.status % 2 ^ 16

/-- The partition that holds a Hod engine. -/
def State.hodOwner (s : State) (h : Nat) : Option Nat := (List.range 32).find? fun p => s.holdsHod p h

/-- `KLN_SREADk` through the window shown. -/
def State.sensorShown (s : State) (k : Nat) : Nat :=
  let w := s.getF F.KLN_SWIN_WINDOW
  let n := 32 * w + k
  let x := s.sensor n
  if 66 < w || 2128 ≤ n || !x.present then 0
  else (if s.sensorFlagged n then 0 else 2 ^ 31) + (if x.fast then 2 ^ 30 else 0) + (x.temp % 65536).toNat

/-- The computed registers of KST, TRW, KLN, LNT and FTG; none where the stored value stands. `k` counts registers of a run. -/
def State.viewA (s : State) (b : Blk) (base k i : Nat) : Option Nat :=
  match b with
  | .kst =>
    if base = A.KST_DEVNUM then some (s.dv.devNum % 4096)
    else if base = A.KST_CD_MASK then some ((if s.dv.gradeC then 256 else 0) + s.cdMask)
    else if base = A.KST_STK_MASK then some s.stkMask
    else if base = A.KST_QD_MASK then some s.qdMask
    else if base = A.KST_ROOT_HASH then some (fieldB s.dv.rootHash (4 * k) 4)
    else if base = A.KST_MEAS then some (fieldB (s.meas (k / 8)) (4 * (k % 8)) 4)
    else if base = A.KST_PMEAS then some (fieldB (s.meas (8 + k / 8)) (4 * (k % 8)) 4)
    else if base = A.KST_ARB then some ((128 - s.arb k) * 256 + s.arb k)
    else none
  | .trw =>
    if base = A.TRW_CORE_STATE then some (s.phase i * 2 ^ 29 + maskOf 7 (s.dutiesOf i).contains)
    else if base = A.TRW_JOURNAL then some (s.tr.journal.length % 256 * 65536 + s.getF F.TRW_JOURNAL_CE)
    else none
  | .kln => if base = A.KLN_SREAD then some (s.sensorShown k) else if base = A.KLN_GRACE then some (s.graceShown % 65536) else none
  | .lnt =>
    if base = A.LNT_IPEND then some (maskOf 32 fun j => s.flag F.LNT_IVEC_PENDING (32 * k + j))
    else if base = A.LNT_EXPIRED then some ((s.expiryOf i).length % 2 ^ 14)
    else none
  | .ftg =>
    if base = A.FTG_STATE then some (s.getF F.FTG_STATE_STORE * 2 ^ 29 + s.imagesIn 3)
    else if base = A.FTG_IMG_STAT then some (s.image i).stat
    else if base = A.FTG_IMG_SIZE_LO then some (s.imageSize i % 2 ^ 32)
    else if base = A.FTG_IMG_SIZE_HI then some (s.imageSize i / 2 ^ 32)
    else if base = A.FTG_FREE then some ((footingCapacity - s.footingUsed) / 1000000000)
    else if base = A.FTG_LOAD then some (s.loadShown 0)
    else if base = A.FTG_LOAD_DONE then some (s.loadShown 1)
    else if base = A.FTG_LOAD_TOTAL then some (s.loadShown 2)
    else if base = A.FTG_CH_RD then some (s.ftg.blocksRead / 8192)
    else none
  | _ => none

/-- The computed registers of REG, YRD, HOD and SEQ. -/
def State.viewB (s : State) (r : Requester) (b : Blk) (base k i : Nat) : Option Nat :=
  match b with
  | .reg =>
    if base = A.REG_ENTRY_LO then some (s.region i % 2 ^ 32)
    else if base = A.REG_ENTRY_HI then some (s.region i / 2 ^ 32)
    else if base = A.REG_COUNT then some s.granules
    else none
  | .yrd =>
    if base = A.YRD_SPARE_STAT then
      some (putField (s.reg base 0).toNat 9 8 s.yd.spares.length)
    else if base = A.YRD_SLAB_STATE then
      some (match (List.range 48).find? fun l => s.physSlab l = i with
        | some l => l * 2 ^ 24 + s.cacheBlocks l
        | none => (if s.yd.retired.contains i then 2 else 1) * 2 ^ 30 + 0x3F * 2 ^ 24 + 512)
    else if base = A.YRD_PF_ACTIVE then some (s.yd.streams.filter fun x => s.physSlab x.slab = i).length
    else if base = A.YRD_QOCC then
      some (match (List.range 48).find? fun l => s.physSlab l = i with
        | some l => (List.range 6).foldl (fun n c => n + s.classUse l c) 0
        | none => 0)
    else if base = A.YRD_DIRTY then some (s.yd.lines.filter fun x => s.physSlab x.slab = i && x.dirty).length
    else if base = A.YRD_Q_LAND then some (countBelow 24576 fun x => s.blockKind x = 1 && s.blockOwner x = some i)
    else if base = A.YRD_Q_WORK then some (countBelow 24576 fun x => s.blockKind x = 2 && s.blockOwner x = some i)
    else if base = A.YRD_Q_WUSED then some (s.workUsed i)
    else if base = A.YRD_Q_COCC then some (s.linesOf i / 1024)
    else none
  | .hod =>
    if base = A.HOD_STATE then
      let act := if s.sv.walks.any fun w => w.hod = i then 2 else if smGet (fun _ => []) s.bk.lists i = [] then 0 else 1
      some (act * 2 ^ 29 + (match s.hodOwner i with | some p => 2 ^ 28 + p * 2 ^ 23 | none => 0))
    else none
  | .seq =>
    if base = A.SEQ_INFLIGHT then some (s.sv.steps.length % 8192)
    else if base = A.SEQ_MS_STAT then
      let e := s.mslot (s.idx F.SEQ_MS_IDX_SLOT r)
      some (e.st % 4 * 2 ^ 30 + e.part % 32 * 2 ^ 24 + e.gen % 65536)
    else if base = A.SEQ_AS_STAT then
      let e := s.aslot (s.idx F.SEQ_AS_IDX_SLOT r)
      let st := if e.live = [] then 0 else if e.cur = 0 then 2 else 1
      some (st * 2 ^ 30 + (if e.live = [] then 0 else e.mslot % 64 * 2 ^ 24 + e.live.length % 16 * 2 ^ 20 + e.cur % 65536))
    else if base = A.SEQ_ENTRY then some (fieldB (s.seq (s.idx F.SEQ_IDX_ENTRY r)).bytes (4 * k) 4)
    else if base = A.SEQ_QUOTA then some ((s.seqsOf i).length * 2 ^ 16 + s.getF F.SEQ_QUOTA_QUOTA i)
    else none
  | _ => none

/-- The partition whose pool holds a logical brick. -/
def State.brickOwner (s : State) (l : Nat) : Option Nat := (List.range 32).find? fun p => s.holdsBrick p l

/-- The computed registers of PRT, CYT, STK, QLK and BRK. -/
def State.viewC (s : State) (r : Requester) (b : Blk) (base k i j : Nat) : Option Nat :=
  match b with
  | .prt =>
    if base = A.PRT_POOL_COUNT then some (s.poolCount i)
    else if base = A.PRT_QINFLIGHT then some (s.inflight i j % 1024)
    else if j = 7 && (base = A.PRT_QBASE_LO || base = A.PRT_QBASE_HI || base = A.PRT_QSIZE || base = A.PRT_QHEAD
        || base = A.PRT_QTAIL || base = A.PRT_QADMIT) then some 0
    else none
  | .cyt =>
    let bal (m : Nat) : Nat := match (s.cycle i).slots[s.idx F.CYT_SIDX_SLOT r]? with
      | some x => (x.bal.getD m 0 % (2 ^ 32 : Nat)).toNat
      | none => 0
    if base = A.CYT_BAL_BRK then some (bal 0)
    else if base = A.CYT_BAL_COL then some (bal 1)
    else if base = A.CYT_BAL_YRD then some (bal 2)
    else none
  | .stk =>
    if base = A.STK_STATE then
      some (putField (s.reg base i).toNat 7 6 (max (s.kilnLevel i) (s.getF F.STK_DERATE_FLOOR i)))
    else if base = A.STK_DERATE then some (s.getF F.STK_DERATE_FLOOR i * 256 + s.kilnLevel i)
    else if base = A.STK_BUSTAT then some (maskOf 32 fun x => (s.runAt (bankKey i (32 * k + x))).isNone)
    else none
  | .qlk =>
    if base = A.QLK_TXMAP then some (s.laneMap F.QLK_TXMAP_MAP i)
    else if base = A.QLK_RXMAP then some (s.laneMap F.QLK_RXMAP_MAP i)
    else if base = A.QLK_CRED_NOW then
      let x := s.qlink i
      some (if s.linkUp i then x.creditH % 1024 * 2 ^ 22 + x.creditD % 16384 * 2 ^ 8 + x.creditM % 256 else 0)
    else none
  | .brk =>
    if base = A.BRK_STATE then
      some (match s.logicalOf i with
        | some l => l * 65536 + (match s.brickOwner l with | some p => 2 ^ 15 + p * 2 ^ 10 | none => 0)
        | none => (if s.bm.retired.contains i then 2 else 1) * 2 ^ 30 + 0x3FFF * 65536)
    else if base = A.BRK_MAP_STAT then some (putField (s.reg base i).toNat 5 0 (s.sparesLeft (i / 1344)))
    else if base = A.BRK_PRESENT then some (maskOf 32 fun x => !(s.brick i).absent.contains (32 * k + x))
    else if base = A.BRK_CYCLES then some ((s.brick i).clk % 2 ^ 32)
    else none
  | _ => none

/-- A register of a table row as it reads, before its WO fields are blanked: register k of the row's run, copy (i, j). -/
def State.rowShown (s : State) (r : Requester) (b : Blk) (row : RegRow) (k i j : Nat) : Nat :=
  match s.viewA b row.addr k i with
  | some v => v
  | none => match s.viewB r b row.addr k i with
    | some v => v
    | none => match s.viewC r b row.addr k i j with
      | some v => v
      | none => (s.reg (row.addr + 4 * k) i j).toNat

/-- The register at a byte address of the register space (page times 0x1000 plus offset) as a requester reads it. -/
def State.shown (s : State) (r : Requester) (addr : Nat) : Nat :=
  let page := addr / 0x1000
  match blkOfPage page with
  | none => 0
  | some b =>
    if addr % 0x1000 < 0x40 then
      (match s.hdrInst b page r with
       | some i => s.hdrShown b page i r (addr % 0x1000)
       | none => if addr % 0x1000 = 0x18 then s.sel b r else 0)
    else match rowOf addr, s.instOf b page r with
      | some row, some i => match s.copyOf r i row.dim with
        | some c =>
          let v := s.rowShown r b row ((addr - row.addr) / 4) c.1 c.2
          v - (v &&& row.wo)
        | none => 0
      | _, _ => 0

end Sys2Proof.Machine
end

