-- ==== Sys2Proof/Machine/RegAccess.lean ====
section
/-! DEFINITION. Register accesses (chapter 2): who reaches a register, with which right and under which lock, what a write of
each register does and what a read returns and clears. -/

namespace Sys2Proof.Machine

/-! ## Writes of the common header (R40, R43 to R46, R52) -/

/-- Blocks in which `QUIESCE` and `COMP_RESET` are ignored (R44); the SEQ and PRT blocks have rules of their own. -/
def plainHeader (b : Blk) : Bool := b = .kst || b = .kln || b = .lnt || b = .reg || b = .bnd

/-- A write of `QUIESCE`: a stack reads quiesced at once, other instances once their work has ended. -/
def State.setQuiesce (s : State) (b : Blk) (i : Nat) (on : Bool) : State :=
  let t := s.setFlag (hdrF b 0x08 0 0) on i
  if on then (if b = .stk && t.unit b i = 3 then t.setUnit b i 4 else t)
  else
    let u := if t.unit b i = 4 then t.setUnit b i 3 else t
    if b = .qlk then u.goHeld else if b = .yrd then u.yardAll else u

/-- A write of `BLK_CTRL` (Table 2-3, R44, R49): `QUIESCE` is taken before `COMP_RESET`. -/
def State.ctrlWrite (s : State) (r : Requester) (b : Blk) (page i v : Nat) : State :=
  let t := s.setFlag (hdrF b 0x08 8 8) (nbit v 8) i
  if plainHeader b || i = blockWide then t
  else if b = .seq then (if page = 0x140 && nbit v 31 && t.mayWarmReset r then t.warmReset r else t)
  else if b = .prt then (if nbit v 31 then t.partReset i else t)
  else
    let u := t.setQuiesce b i (nbit v 0)
    if nbit v 31 then u.compReset b i else u

/-- A write of `BLK_ERR`: each 1 clears its bit, and `VALID` clears when none is left (R40, R46). -/
def State.errClear (s : State) (b : Blk) (i v : Nat) : State :=
  let left := (s.reg (hdrAddr b 0x10) i).toNat &&& (2 ^ 32 - 1 - v % 2 ^ 32)
  let t := s.setReg (hdrAddr b 0x10) (BitVec.ofNat 32 left) i
  if left = 0 then t.setFlag (hdrF b 0x24 31 31) false i else t

/-- The pages of which a chapter says that host writes are ignored (R520). -/
def hostIgnored (page : Nat) : Bool :=
  page < 0x10 || (0x10 ≤ page && page < 0x13) || (0x20 ≤ page && page < 0x24) || page = 0x101 || page = 0x110 || page = 0x111
    || page = 0x130 || page = 0x201 || page = 0x203 || page = 0x204 || (0x210 ≤ page && page < 0x215)
    || page = 0x300 || page = 0x301

/-- Does the requester write the RW, WO and W1S fields of a page? Only Keystone writes KST pages; R520 for the host. -/
def mayWrite (r : Requester) (page : Nat) : Bool :=
  match r with
  | .keystone => true
  | .host _ => !hostIgnored page
  | _ => 0x10 ≤ page

/-- A write of a header register through a page that shows header set `i`. -/
def State.hdrWrite (s : State) (r : Requester) (b : Blk) (page i off v : Nat) : State :=
  if off = 0x10 then s.errClear b i v
  else if off = 0x08 then (if mayWrite r page then s.ctrlWrite r b page i v else s)
  else if off = 0x14 then
    (if mayWrite r page then s.setReg (hdrAddr b 0x14) (BitVec.ofNat 32 (v % 2 ^ 31)) i else s)
  else if off = 0x1C then
    (if r = .keystone then s.lockPage page (if pageSelected b page then i else 0) v else s)
  else s

/-- A write of a requester's own copy of a block's select register (R50). -/
def State.selWrite (s : State) (b : Blk) (r : Requester) (v : Nat) : State :=
  if b.insts = 1 then s else s.setF (hdrF b 0x18 15 0) v 0 (reqCode r)

/-! ## Writes of registers whose meaning goes beyond their fields -/

/-- A doorbell of a channel's H2F ring: firmware is told of new messages (R339). -/
def State.ringBell (s : State) (c : Nat) : State :=
  if s.ln.bells.contains c then s else { s with ln := { s.ln with bells := s.ln.bells ++ [c] } }

/-- A value stored at 1 where it is written as 0. -/
def atLeast1 (v : Nat) : Nat := if v = 0 then 1 else v

/-- Writes of TRW and KLN registers; none: the table's masks say it all. `k` counts registers of a run. -/
def State.writeA (s : State) (trowel : Bool) (addr k i v : Nat) : Option State :=
  let only (t : State) : Option State := some (if trowel then t else s)
  if addr = A.TRW_CORE_CTRL then
    let t := if nbit v 31 then s.writeRestart i else s
    some (if trowel && nbit v 30 then t.retireCore i else t)
  else if addr = A.TRW_WDT then only (s.setF F.TRW_WDT_MS (clampN 1 10 (v % 16)) i)
  else if addr = A.TRW_LOOP_LIMIT then
    only ((s.setF F.TRW_LOOP_LIMIT_LOOP_COUNT (atLeast1 (nbits v 15 8))).setF F.TRW_LOOP_LIMIT_LOOP_S (atLeast1 (nbits v 7 0)))
  else if A.KLN_SENSFAULT ≤ addr && addr < A.KLN_SENSFAULT + 4 * 67 then only (s.clearSensorFlags k v)
  else if A.KLN_CLK ≤ addr && addr < A.KLN_CLK + 32 then only (s.writeCeil k v)
  else if addr = A.KLN_STK_LEVEL then only (s.writeLevels v)
  else if addr = A.KLN_EP_CTRL then
    -- a window begins with no tokens when the profile is enabled
    let s : State := if nbit v 31 && !s.flag F.KLN_EP_CTRL_EP_ENABLE then { s with kl := { s.kl with epTokens := 0 } } else s
    some ((s.setFlag F.KLN_EP_CTRL_EP_ENABLE (nbit v 31)).setF F.KLN_EP_CTRL_WINDOW_MS (clampN 10 10000 (nbits v 15 0)))
  else if addr = A.KLN_EP_FLOOR then some (s.setF F.KLN_EP_FLOOR_FLOOR_MHZ (clampN 800 2000 (nbits v 11 0)))
  else none

/-- The logarithm a ring size register stores (R295, R343). -/
def ringLog (lo hi v : Nat) : Nat := if lo ≤ v % 16 && v % 16 ≤ hi then v % 16 else 0

/-- Writes of LNT, FTG and REG registers with their status. -/
def State.writeB_ (s : State) (r : Requester) (trowel : Bool) (addr k i v : Nat) : Option (Nat × State) :=
  let ok (t : State) : Option (Nat × State) := some (St.ok, t)
  let ring (t : State) : Option (Nat × State) := ok (if i = 0 || s.flag F.LNT_RSTAT_ATTACHED i then s else t)
  if A.LNT_QDB ≤ addr && addr < A.LNT_QDB + 1024 then ok (s.doorbell (k / 8) (k % 8) (v % 65536))
  else if A.LNT_RDB ≤ addr && addr < A.LNT_RDB + 132 then ok (s.ringBell k)
  else if addr = A.LNT_IVEC then ok (s.ivecWrite (reqCode r) v)
  else if addr = A.LNT_H2F_BASE_LO then ring (s.setF F.LNT_H2F_BASE_LO_BASE (v / 64) i)
  else if addr = A.LNT_H2F_BASE_HI then ring (s.setF F.LNT_H2F_BASE_HI_BASE v i)
  else if addr = A.LNT_H2F_SIZE then ring (s.setF F.LNT_H2F_SIZE_LOG2 (ringLog 4 12 v) i)
  else if addr = A.LNT_F2H_BASE_LO then ring (s.setF F.LNT_F2H_BASE_LO_BASE (v / 64) i)
  else if addr = A.LNT_F2H_BASE_HI then ring (s.setF F.LNT_F2H_BASE_HI_BASE v i)
  else if addr = A.LNT_F2H_SIZE then ring (s.setF F.LNT_F2H_SIZE_LOG2 (ringLog 4 12 v) i)
  else if A.LNT_HB ≤ addr && addr < A.LNT_HB + 128 then ok (s.heartbeat k)
  else if addr = A.LNT_HB_TMO then ok (s.setF F.LNT_HB_TMO_MS (atLeast1 (v % 65536)))
  else if addr = A.FTG_IMG_CMD then ok (s.imageCmd (s.idx F.FTG_IMG_IDX_IMAGE r) v)
  else if addr = A.FTG_IMG_SIZE_LO then ok (s.imageSizeWrite i false v)
  else if addr = A.FTG_IMG_SIZE_HI then ok (s.imageSizeWrite i true v)
  else if addr = A.FTG_REFRESH_BITS then
    ok (if trowel then s.setF F.FTG_REFRESH_BITS_REFRESH_BITS (atLeast1 (v % 256)) else s)
  else if addr = A.REG_ENTRY_LO then ok (s.regStage r v)
  else if addr = A.REG_ENTRY_HI then some (s.regCommit r (s.regStaged r) v)
  else if addr = A.REG_SCRUB_CTL then
    ok (if trowel then s.setF F.REG_SCRUB_CTL_PERIOD_MS (clampN 1000 3600 (v % 4096)) else s)
  else none

/-- Writes of YRD, HOD and SEQ registers. -/
def State.writeC (s : State) (trowel : Bool) (addr i j v : Nat) : Option State :=
  let only (t : State) : Option State := some (if trowel then t else s)
  if addr = A.YRD_BENTRY then only (s.bentryWrite j v)
  else if A.YRD_CLS0 ≤ addr && addr ≤ A.YRD_CLS5 then only (s.clsWrite ((addr - A.YRD_CLS0) / 4) v)
  else if addr = A.YRD_SPARE_CMD then only (s.slabSpare (nbits v 31 28) (nbits v 5 0))
  else if addr = A.YRD_PF_CTL then
    only ((s.setFlag F.YRD_PF_CTL_ENABLE (nbit v 31) i).setF F.YRD_PF_CTL_DEPTH (clampN 1 256 (nbits v 8 0)) i)
  else if addr = A.YRD_Q_CACHE then only (s.quotaCacheWrite i v)
  else if addr = A.HOD_WALK_TMO then only (s.setF F.HOD_WALK_TMO_US (atLeast1 (v % 2 ^ 20)) i)
  else if addr = A.SEQ_QUOTA then only (s.quotaWrite i v)
  else if addr = A.SEQ_POOL_BASE_LO then some (s.poolSetting i 0 v)
  else if addr = A.SEQ_POOL_BASE_HI then some (s.poolSetting i 1 v)
  else if addr = A.SEQ_POOL_SIZE then some (s.poolSetting i 2 v)
  else if addr = A.SEQ_POOL_ADD then some (s.poolAdd i v)
  else if addr = A.SEQ_POLICY then
    some ((s.setF F.SEQ_POLICY_INFLIGHT (clampN 1 4 (nbits v 19 16)) i).setF F.SEQ_POLICY_STEP_TOKENS v i)
  else if addr = A.SEQ_MAXSEQ then some (s.setF F.SEQ_MAXSEQ_MAX_SEQ (atLeast1 (v % 8192)) i)
  else if addr = A.SEQ_PFX_MODE then some (s.prefixSetting i 0 v)
  else if addr = A.SEQ_PFX_BASE_LO then some (s.prefixSetting i 1 v)
  else if addr = A.SEQ_PFX_BASE_HI then some (s.prefixSetting i 2 v)
  else if addr = A.SEQ_PFX_SIZE then some (s.prefixSetting i 3 v)
  else none

/-- Writes of PRT pages 0 to 2 and 4. -/
def State.writeD (s : State) (trowel : Bool) (addr k i v : Nat) : Option State :=
  let only (t : State) : Option State := some (if trowel then t else s)
  if addr = A.PRT_CMD then some (s.prtCmd i (v % 16) trowel)
  else if addr = A.PRT_MODE then some (s.modeWrite i v)
  else if A.PRT_POOL ≤ addr && addr < A.PRT_POOL + 32 then only (s.poolAssign i k v)
  else if A.PRT_BGRP ≤ addr && addr < A.PRT_BGRP + 16 then only (s.bgrpAssign i k v)
  else if addr = A.PRT_HOD_LO then only (s.hodAssign i 0 v)
  else if addr = A.PRT_HOD_HI then only (s.hodAssign i 1 v)
  else if A.PRT_RG_STK_FLOOR ≤ addr && addr ≤ A.PRT_RG_LNK_CAP then only (s.rgWrite i ((addr - A.PRT_RG_STK_FLOOR) / 4) v)
  else if addr = A.PRT_SILENCE then some (s.setF F.PRT_SILENCE_MS (atLeast1 (v % 65536)) i)
  else if addr = A.PRT_RETAIN then some (s.setF F.PRT_RETAIN_S (atLeast1 (v % 65536)) i)
  else none

/-- Writes of PRT page 3 (Table 11-14) for queue `q` of partition `p`. -/
def State.writeQ (s : State) (addr p q v : Nat) : Option State :=
  let ring (t : State) : Option State := some (if s.ringsFree p q then t else s)
  let cmdRing (t : State) : Option State := some (if s.ringsFree p q && q ≠ 7 then t else s)
  if addr = A.PRT_QCTRL then
    let t := if nbit v 30 then s.setFlag F.PRT_QCTRL_DB_REFUSED false p q else s
    let t := if nbit v 29 then t.setFlag F.PRT_QCTRL_RING_FAULT false p q else t
    some (t.queueEnable p q (nbit v 0))
  else if addr = A.PRT_QBASE_LO then cmdRing (s.setF F.PRT_QBASE_LO_BASE (v / 64) p q)
  else if addr = A.PRT_QBASE_HI then cmdRing (s.setF F.PRT_QBASE_HI_BASE v p q)
  else if addr = A.PRT_QSIZE then cmdRing (s.setF F.PRT_QSIZE_LOG2 (ringLog 4 12 v) p q)
  else if addr = A.PRT_QTAIL then some (s.doorbell p q (v % 65536))
  else if addr = A.PRT_QRUNAHEAD then some (s.setF F.PRT_QRUNAHEAD_LIMIT (clampN 1 512 (v % 1024)) p q)
  else if addr = A.PRT_CQBASE_LO then ring (s.setF F.PRT_CQBASE_LO_BASE (v / 64) p q)
  else if addr = A.PRT_CQBASE_HI then ring (s.setF F.PRT_CQBASE_HI_BASE v p q)
  else if addr = A.PRT_CQSIZE then ring (s.setF F.PRT_CQSIZE_LOG2 (ringLog 6 14 v) p q)
  else if addr = A.PRT_CQHEAD then some (s.ringHead F.PRT_CQHEAD_INDEX F.PRT_CQTAIL_INDEX p q (v % 65536))
  else if addr = A.PRT_RQBASE_LO then ring (s.setF F.PRT_RQBASE_LO_BASE (v / 64) p q)
  else if addr = A.PRT_RQBASE_HI then ring (s.setF F.PRT_RQBASE_HI_BASE v p q)
  else if addr = A.PRT_RQSIZE then ring (s.setF F.PRT_RQSIZE_LOG2 (ringLog 4 14 v) p q)
  else if addr = A.PRT_RQHEAD then some (s.ringHead F.PRT_RQHEAD_INDEX F.PRT_RQTAIL_INDEX p q (v % 65536))
  else if addr = A.PRT_QRESUME then some (s.queueResume p (nbits v 15 8) (nbits v 7 0))
  else none

/-- Writes of CYT, STK, QLK and BRK registers. A commit is checked before `ENABLE` changes. -/
def State.writeE (s : State) (trowel : Bool) (addr i j v : Nat) : Option State :=
  let only (t : State) : Option State := some (if trowel then t else s)
  if addr = A.CYT_CTRL then some ((if nbit v 1 then s.cytCommit i else s).cytEnable i (nbit v 0))
  else if addr = A.CYT_SHIFT then some (s.cytShift i v)
  else if addr = A.CYT_SLOT1 then
    some ((s.setF F.CYT_SLOT1_LEN_US (nbits v 31 15) i j).setF F.CYT_SLOT1_OVERDRAFT (min 100 (nbits v 7 0)) i j)
  else if addr = A.STK_TRAIN then
    only (if nbit v 31 && !s.flag F.STK_TRAIN_START i then
      (if s.stackServes i then (s.stackGone i St.stackUnavailable).stackLost i else s).stkTrain i else s)
  else if A.STK_TCAW ≤ addr && addr ≤ A.STK_DERATE then some (s.setReg addr (BitVec.ofNat 32 (timingValue addr v)) i)
  else if addr = A.STK_REFCTL then some (s.setF F.STK_REFCTL_PULLIN_MAX (min 8 (v % 16)) i)
  else if addr = A.STK_RPR_CMD then some (s.rprCmd i v)
  else if addr = A.QLK_CTRL then
    only (let t := s.linkDisable i (nbit v 30)
          if nbit v 31 then t.linkTrain i else t)
  else if addr = A.QLK_TMO then
    only ((s.setF F.QLK_TMO_RSP_TMO (atLeast1 (nbits v 31 16)) i).setF F.QLK_TMO_CRED_TMO (atLeast1 (nbits v 15 0)) i)
  else if addr = A.QLK_SPARE_CMD then only (s.laneSpare i (nbits v 31 28) (nbits v 27 26))
  else if addr = A.QLK_RETRY then only (s.setF F.QLK_RETRY_NAK_LIMIT (atLeast1 (nbits v 15 8)) i)
  else if addr = A.QLK_REKEY then only (s.setF F.QLK_REKEY_REKEY_S (atLeast1 (v % 65536)) i)
  else if addr = A.BRK_MAP_CMD then only (s.mapCmd i (nbits v 31 28) (nbits v 27 14) (nbits v 5 0))
  else if addr = A.BRK_ISSUE_TMO then only (s.setF F.BRK_ISSUE_TMO_US (atLeast1 (v % 2 ^ 20)) i)
  else none

/-! ## A write of one register -/

/-- A write by the access codes of Table 2-1 alone: RW fields take the value, 1s clear W1C bits; fields of one requester keep
theirs for the others. -/
def State.plainWrite (s : State) (r : Requester) (row : RegRow) (rwToo : Bool) (addr i j v : Nat) : State :=
  let mine : Nat := match r with
    | .trowel _ => 2 ^ 32 - 1 - row.keystone
    | .keystone => 2 ^ 32 - 1 - row.trowel
    | _ => 2 ^ 32 - 1 - (row.trowel ||| row.keystone)
  let old := (s.reg addr i j).toNat
  let w := if rwToo then row.rw &&& mine else 0
  let kept := old &&& (2 ^ 32 - 1 - w)
  let clear := row.w1c &&& mine &&& v
  s.setReg addr (BitVec.ofNat 32 ((kept ||| (v &&& w)) &&& (2 ^ 32 - 1 - clear))) i j

/-- A requester that is a Trowel core. -/
def fromTrowel : Requester → Bool
  | .trowel _ => true
  | _ => false

/-- A write of a register beyond the header, through a page whose instance is `i`. -/
def State.rowWrite (s : State) (r : Requester) (page i : Nat) (row : RegRow) (addr v : Nat) : Nat × State :=
  match s.copyOf r i row.dim with
  | none => (St.ok, s)
  | some (x, j) =>
    let k := (addr - row.addr) / 4
    let t := fromTrowel r
    if row.dim = .reqr then (St.ok, if addr = A.REG_INDEX then s.regIndexWrite r v else s.plainWrite r row true addr x j v)
    else if !mayWrite r page && addr ≠ A.TRW_CORE_CTRL then (St.ok, s.plainWrite r row false addr x j v)
    else match s.writeA t addr k x v with
      | some u => (St.ok, u)
      | none => match s.writeB_ r t addr k x v with
        | some u => u
        | none => match s.writeC t addr x j v with
          | some u => (St.ok, u)
          | none => match s.writeD t addr k x v with
            | some u => (St.ok, u)
            | none => match (if page = 0x153 then s.writeQ addr x j v else s.writeE t addr x j v) with
              | some u => (St.ok, u)
              | none => (St.ok, s.plainWrite r row true addr x j v)

/-- A write of one register that no check stops: its status and the state after. -/
def State.putReg (s : State) (r : Requester) (addr v : Nat) : Nat × State :=
  let page := addr / 0x1000
  let off := addr % 0x1000
  match blkOfPage page with
  | none => (St.addressUnmapped, s)
  | some b =>
    if off = 0x18 then (St.ok, s.selWrite b r v)
    else if off < 0x40 then
      (match s.hdrInst b page r with
       | some i => (St.ok, s.hdrWrite r b page i off v)
       | none => (St.ok, s))
    else match rowOf addr, s.instOf b page r with
      | some row, some i => s.rowWrite r page i row addr v
      | _, _ => (St.ok, s)

/-! ## A read of one register -/

/-- A read: the value, and the state with its RC fields at their reset value unless the page is locked against the reader. -/
def State.takeReg (s : State) (r : Requester) (addr : Nat) (locked : Bool) : Nat × State :=
  let page := addr / 0x1000
  let v := s.shown r addr
  match blkOfPage page, rowOf addr with
  | some b, some row =>
    if addr % 0x1000 < 0x40 || row.rc = 0 || locked then (v, s)
    else match s.instOf b page r with
      | none => (v, s)
      | some i => match s.copyOf r i row.dim with
        | none => (v, s)
        | some (x, j) =>
          let old := (s.reg addr x j).toNat
          (v, s.setReg addr (BitVec.ofNat 32 ((old &&& (2 ^ 32 - 1 - row.rc)) ||| (row.reset &&& row.rc))) x j)
  | _, _ => (v, s)

/-! ## Locks, rights and service (R53, R335, R336, R347, R444, R446, R483) -/

/-- Is the page locked against the requester? -/
def State.lockedFor (s : State) (r : Requester) (page : Nat) : Bool :=
  match blkOfPage page with
  | none => false
  | some b => match s.lockInst b page r with
    | none => false
    | some i =>
      let l := s.getF ⟨page * 0x1000 + 0x1C, 1, 0⟩ (if pageSelected b page then i else 0)
      match r with
      | .host _ => l % 2 = 1
      | .keystone => false
      | _ => 2 ≤ l

/-- An agent has `REG` of some partition, or the device right: what the index registers of partition-scoped pages need. -/
def State.anyReg (s : State) (a : Nat) : Bool := s.deviceRight a || (List.range 32).any fun p => s.hasRight a p .reg

/-- An agent has a right for the partition shown; a number that shows no partition needs `REG` of any. -/
def State.forPart (s : State) (a p : Nat) (w : Right) : Bool := if p < 32 then s.hasRight a p w else s.anyReg a

/-- Does a host agent have the right that an access to a register needs (R336, 4)? -/
def State.hostMay (s : State) (a addr : Nat) (write : Bool) : Bool :=
  let r : Requester := .host a
  let page := addr / 0x1000
  let off := addr % 0x1000
  let owner (o : Option Nat) : Bool := match o with
    | some p => (!write && s.deviceRight a) || s.hasRight a p .reg
    | none => !write && s.deviceRight a
  if 0x150 ≤ page && page < 0x156 then
    (if off = 0x18 || addr = A.PRT_QSEL || addr = A.PRT_PIDX then s.anyReg a
     else s.forPart a (s.sel .prt r) (if addr = A.PRT_QTAIL then .db else .reg))
  else if page = 0x160 || page = 0x161 then
    (if off = 0x18 || addr = A.CYT_SIDX then s.anyReg a else s.forPart a (s.sel .cyt r) .reg)
  else if addr = A.SEQ_MS_IDX || addr = A.SEQ_AS_IDX then s.anyReg a
  else if addr = A.SEQ_MS_STAT then
    let e := s.mslot (s.idx F.SEQ_MS_IDX_SLOT r)
    owner (if e.st = 0 then none else some e.part)
  else if addr = A.SEQ_AS_STAT then
    let e := s.aslot (s.idx F.SEQ_AS_IDX_SLOT r)
    owner (if e.live = [] then none else some e.part)
  else if page = 0x141 then
    let e := s.seq (s.idx F.SEQ_IDX_ENTRY r)
    (if addr = A.SEQ_IDX then s.anyReg a else s.hasRight a e.part .reg)
  else if page = 0x142 || page = 0x143 then
    (if addr = A.SEQ_PIDX then s.anyReg a else s.forPart a (s.idx F.SEQ_PIDX_PARTITION r) .reg)
  else if page = 0x112 then
    (if addr = A.YRD_QIDX then s.anyReg a else s.forPart a (s.idx F.YRD_QIDX_PARTITION r) .reg)
  else if page = 0x31 && 0x40 ≤ off then
    (if addr < A.LNT_RDB then s.hasRight a ((addr - A.LNT_QDB) / 32 % 32) .db
     else
       let c := (addr - A.LNT_RDB) / 4
       if 1 ≤ c && c ≤ 32 then s.hasRight a (c - 1) .reg else s.deviceRight a)
  else if page = 0x34 && A.LNT_HB ≤ addr && addr < A.LNT_HB + 128 then s.hasRight a ((addr - A.LNT_HB) / 4) .reg
  else if page = 0x33 && 0x40 ≤ off then
    let c := s.idx F.LNT_RCH_CHANNEL r
    (if addr = A.LNT_RCH then s.anyReg a
     else if c = 0 then s.deviceRight a else if c ≤ 32 then s.hasRight a (c - 1) .reg else s.anyReg a)
  else if page = 0x100 && 0x40 ≤ off then
    (if addr = A.REG_INDEX || addr = A.REG_COUNT || addr = A.REG_GEN then s.anyReg a
     else
       let g := s.idx F.REG_INDEX_GRANULE r
       if s.granules ≤ g then s.anyReg a else owner (s.granuleOwner g))
  else s.deviceRight a

/-- The registers that a device in `STANDBY` serves (R347). -/
def standbyServes (addr : Nat) : Bool := addr / 0x1000 = 0x30 || addr / 0x1000 = 0x33 || addr = A.LNT_RDB

/-- How the device's state answers a host access to a register: none where nothing answers. -/
def State.hostService (s : State) (a addr : Nat) (write : Bool) : Option Nat :=
  match s.dv.st with
  | .ready => some St.ok
  | .standby => some (if standbyServes addr then St.ok else St.ifverMismatch)
  | .warmReset => some St.deviceResetting
  | .failed =>
    if s.dv.releaseHeld then
      some (if standbyServes addr || (!write && s.deviceRight a) then St.ok else St.ifverMismatch)
    else if s.dv.romRecovery then
      some (if a = 0 && (addr / 0x1000 = 0x30 || addr / 0x1000 = 0x40) then St.ok else St.accessDenied)
    else none
  | _ => none

/-- Can the requester reach the register space at all (R35)? -/
def State.reachesRegs (s : State) (r : Requester) : Bool :=
  s.dv.st ≠ .off && (match r with
    | .host a => a < 64
    | .trowel c => c < 8 && s.unit .trw c ≠ 1
    | .keystone => true
    | .debug => s.flag F.KST_DBG_STAT_ACCEPTED)

/-- The size and alignment of R37. -/
def widthOk (addr len : Nat) : Bool := (len = 4 && addr % 4 = 0) || (len = 8 && addr % 8 = 0)

/-- The registers an access covers, the lower first. -/
def regsOf (addr len : Nat) : List Nat := if len = 8 then [addr / 4 * 4, addr / 4 * 4 + 4] else [addr / 4 * 4]

/-- The status that stops an access before its locks, in the order of R336; none where nothing answers. -/
def State.regGate (s : State) (r : Requester) (addr len : Nat) (write : Bool) : Option Nat :=
  let mapped := addr < 2 ^ 28 && (blkOfPage (addr / 0x1000)).isSome
  let tail : Nat := if widthOk addr len then St.ok else 0x0702
  if !s.reachesRegs r then none
  else match r with
    | .host a =>
      (s.hostService a addr write).map fun c =>
        if c ≠ 0 then c
        else if !mapped then St.addressUnmapped
        else if (regsOf addr len).all (fun x => s.hostMay a x write || (s.dv.releaseHeld && !write && s.deviceRight a)) then tail
        else St.accessDenied
    | _ => some (if !mapped then St.addressUnmapped else tail)

/-- Write the registers of an access in turn; a locked page refuses all but the requester's select register (R53). -/
def State.putAll (s : State) (r : Requester) : List Nat → Nat → Nat × State
  | [], _ => (St.ok, s)
  | a :: as, v =>
    let x := if a % 0x1000 ≠ 0x18 && s.lockedFor r (a / 0x1000) then (St.registerLocked, s) else s.putReg r a (v % 2 ^ 32)
    let y := x.2.putAll r as (v / 2 ^ 32)
    (if x.1 ≠ 0 then x.1 else y.1, y.2)

/-- Read the registers of an access in turn. -/
def State.takeAll (s : State) (r : Requester) : List Nat → Nat × State
  | [] => (0, s)
  | a :: as =>
    let x := s.takeReg r a (s.lockedFor r (a / 0x1000))
    let y := x.2.takeAll r as
    (x.1 + y.1 * 2 ^ 32, y.2)

/-- A register write: its status and the state after, or nothing where it reaches no one. -/
def State.regWrite (s : State) (r : Requester) (addr len v : Nat) : Option (Nat × State) :=
  match s.regGate r addr len true with
  | none => none
  | some 0 => some (s.putAll r (regsOf addr len) v)
  | some c => some (c, s)

/-- A register read: its status, the value and the state after. -/
def State.regRead (s : State) (r : Requester) (addr len : Nat) : Option (Nat × Nat × State) :=
  match s.regGate r addr len false with
  | none => none
  | some 0 => some (St.ok, s.takeAll r (regsOf addr len))
  | some c => some (c, 0, s)

/-- A register write as a command: its requester is answered with the status. -/
def State.writeCmd (s : State) (r : Requester) (addr len v : Nat) : Res :=
  match s.regWrite r addr len v with
  | none => done s
  | some (c, t) => done (t.emit (.regReply r c 0))

end Sys2Proof.Machine
end

