-- ==== Sys2Proof/Machine/RegRows.lean ====
section
/-! DEFINITION. The rows that are one access to a register or the staging window: each is the write its name says, checked and
performed as chapter 2 lays down for every access. -/

namespace Sys2Proof.Machine

/-! ## The words written -/

/-- The low `w` bits of `v`, placed at bit `sh`. -/
def fieldAt (v w sh : Nat) : Nat := v % 2 ^ w * 2 ^ sh

/-- A write of register `k` of a run of `n` registers; a number past the run names no register. -/
def State.writeRun (s : State) (r : Requester) (base n k v : Nat) : Res :=
  if k < n then s.writeCmd r (base + 4 * k) 4 v else done s

/-- The word that sets `COMP_RESET` and leaves the page's other `BLK_CTRL` bits as the requester finds them. -/
def State.resetWord (s : State) (r : Requester) (page : Nat) : Nat :=
  fieldAt (s.shown r (page * 0x1000 + 8)) 1 0 + fieldAt (s.shown r (page * 0x1000 + 8) / 256) 1 8 + 2 ^ 31

/-- A write of `COMP_RESET`. -/
def State.resetCmd (s : State) (r : Requester) (page : Nat) : Res := s.writeCmd r (page * 0x1000 + 8) 4 (s.resetWord r page)

/-! ## Control pages (chapter 2) -/

/-- REGISTER_WRITE (R37, R40, R53). -/
def execRegisterWrite (req : Requester) (addr len data : Nat) (s : State) : Res := s.writeCmd req addr len data

/-- READ_CLEAR (R40): the value is returned, and the RC fields go to their reset value unless the page is locked. -/
def execReadClear (req : Requester) (addr len : Nat) (s : State) : Res :=
  match s.regRead req addr len with
  | none => done s
  | some (c, v, t) => done (t.emit (.regReply req c v))

/-- BLK_SEL_WRITE (R50, R51). -/
def execBlkSelWrite (req : Requester) (page : Nat) (value : Word) (s : State) : Res :=
  s.writeCmd req (page * 0x1000 + 0x18) 4 value.toNat

/-- BLK_ERR_CLEAR (R46). -/
def execBlkErrClear (req : Requester) (page : Nat) (value : Word) (s : State) : Res :=
  s.writeCmd req (page * 0x1000 + 0x10) 4 value.toNat

/-- LOCK_SET (R52). -/
def execLockSet (page : Nat) (value : Word) (s : State) : Res := s.writeCmd .keystone (page * 0x1000 + 0x1C) 4 value.toNat

/-- QUIESCE (R43). -/
def execQuiesce (req : Requester) (page : Nat) (value : Word) (s : State) : Res :=
  s.writeCmd req (page * 0x1000 + 8) 4 value.toNat

/-- COMP_RESET (R44). -/
def execCompReset (req : Requester) (page : Nat) (s : State) : Res := s.resetCmd req page

/-- WARM_RESET (R49, R446). -/
def execWarmReset (req : Requester) (s : State) : Res := s.resetCmd req 0x140

/-- PARTITION_RESET (R49, R285). -/
def execPartitionReset (req : Requester) (s : State) : Res := s.resetCmd req 0x150

/-! ## Region table, repairs and timing (chapter 3) -/

/-- REG_INDEX_WRITE (R89). -/
def execRegIndexWrite (req : Requester) (value : Word) (s : State) : Res := s.writeCmd req A.REG_INDEX 4 value.toNat

/-- REG_ENTRY_LO_WRITE (R90): the low half is staged; an 8-byte write commits at once. -/
def execRegEntryLoWrite (req : Requester) (value : Word) (high : Option Word) (s : State) : Res :=
  match high with
  | none => s.writeCmd req A.REG_ENTRY_LO 4 value.toNat
  | some h => s.writeCmd req A.REG_ENTRY_LO 8 (value.toNat + h.toNat * 2 ^ 32)

/-- REG_ENTRY_HI_WRITE (R90): the commit. -/
def execRegEntryHiWrite (req : Requester) (value : Word) (s : State) : Res := s.writeCmd req A.REG_ENTRY_HI 4 value.toNat

/-- ROW_SPARE (R98). -/
def execRowSpare (req : Requester) (die bank row : Nat) (s : State) : Res :=
  s.writeCmd req A.STK_RPR_CMD 4 (fieldAt 1 4 28 + fieldAt die 4 24 + fieldAt bank 6 18 + fieldAt row 16 0)

/-- BANK_SPARE (R98). -/
def execBankSpare (req : Requester) (die bank : Nat) (s : State) : Res :=
  s.writeCmd req A.STK_RPR_CMD 4 (fieldAt 2 4 28 + fieldAt die 4 24 + fieldAt bank 6 18)

/-- STK_TRAIN_START (R95). -/
def execStkTrainStart (req : Requester) (s : State) : Res := s.writeCmd req A.STK_TRAIN 4 (2 ^ 31)

/-- COMPUTE_TIMING_WRITE (R71 to R73). -/
def execComputeTimingWrite (req : Requester) (reg : Nat) (value : Word) (s : State) : Res :=
  s.writeRun req A.STK_TCAW 5 reg value.toNat

/-! ## Bricks (chapter 4) -/

/-- BRING_IN_SPARE (R130). -/
def execBringInSpare (req : Requester) (logical spare : Nat) (s : State) : Res :=
  s.writeCmd req A.BRK_MAP_CMD 4 (fieldAt 1 4 28 + fieldAt logical 14 14 + fieldAt spare 6 0)

/-- RETIRE_BRICK (R130). -/
def execRetireBrick (req : Requester) (s : State) : Res := s.writeCmd req A.BRK_MAP_CMD 4 (fieldAt 2 4 28)

/-! ## The serving engine (chapters 6 and 7) -/

/-- SEQ_POOL_ADD (R171). -/
def execSeqPoolAdd (req : Requester) (page : Nat) (s : State) : Res := s.writeCmd req A.SEQ_POOL_ADD 4 page

/-- SEQ_POOL_SIZE_WRITE (R170): the base's halves and the size. -/
def execSeqPoolSizeWrite (req : Requester) (half : Nat) (value : Word) (s : State) : Res :=
  s.writeRun req A.SEQ_POOL_BASE_LO 3 half value.toNat

/-- SEQ_QUOTA_WRITE (R172). -/
def execSeqQuotaWrite (req : Requester) (value : Word) (s : State) : Res := s.writeCmd req A.SEQ_QUOTA 4 value.toNat

/-- SEQ_PFX_MODE_WRITE (R174): the mode, the arena's base and its size. -/
def execSeqPfxModeWrite (req : Requester) (what : Nat) (value : Word) (s : State) : Res :=
  s.writeRun req A.SEQ_PFX_MODE 4 what value.toNat

/-! ## The Yard (chapter 9) -/

/-- YRD_BENTRY_WRITE (R250). -/
def execYrdBentryWrite (req : Requester) (value : Word) (s : State) : Res := s.writeCmd req A.YRD_BENTRY 4 value.toNat

/-- YRD_SPARE_CMD (R272). -/
def execYrdSpareCmd (req : Requester) (op logical : Nat) (s : State) : Res :=
  s.writeCmd req A.YRD_SPARE_CMD 4 (fieldAt op 4 28 + fieldAt logical 6 0)

/-- YRD_CLS_WRITE (R267). -/
def execYrdClsWrite (req : Requester) (cls : Nat) (value : Word) (s : State) : Res :=
  s.writeRun req A.YRD_CLS0 6 cls value.toNat

/-- YRD_Q_CACHE_WRITE (R254). -/
def execYrdQCacheWrite (req : Requester) (value : Word) (s : State) : Res := s.writeCmd req A.YRD_Q_CACHE 4 value.toNat

/-! ## Partitions and the cycle table (chapter 10) -/

/-- PARTITION_CREATE (R277). -/
def execPartitionCreate (req : Requester) (s : State) : Res := s.writeCmd req A.PRT_CMD 4 1

/-- PARTITION_ACTIVATE (R277). -/
def execPartitionActivate (req : Requester) (s : State) : Res := s.writeCmd req A.PRT_CMD 4 2

/-- PARTITION_DRAIN (R277). -/
def execPartitionDrain (req : Requester) (s : State) : Res := s.writeCmd req A.PRT_CMD 4 3

/-- PARTITION_RELEASE (R277, R278). -/
def execPartitionRelease (req : Requester) (s : State) : Res := s.writeCmd req A.PRT_CMD 4 4

/-- POOL_ASSIGN (R275). -/
def execPoolAssign (req : Requester) (k : Nat) (value : Word) (s : State) : Res := s.writeRun req A.PRT_POOL 8 k value.toNat

/-- BGRP_ASSIGN (R275). -/
def execBgrpAssign (req : Requester) (k : Nat) (value : Word) (s : State) : Res := s.writeRun req A.PRT_BGRP 4 k value.toNat

/-- HOD_ASSIGN (R275). -/
def execHodAssign (req : Requester) (half : Nat) (value : Word) (s : State) : Res :=
  s.writeRun req A.PRT_HOD_LO 2 half value.toNat

/-- PRT_MODE_WRITE (R276). -/
def execPrtModeWrite (req : Requester) (value : Word) (s : State) : Res := s.writeCmd req A.PRT_MODE 4 value.toNat

/-- REGULATOR_WRITE (R279). -/
def execRegulatorWrite (req : Requester) (reg : Nat) (value : Word) (s : State) : Res :=
  s.writeRun req A.PRT_RG_STK_FLOOR 6 reg value.toNat

/-- CYT_COMMIT (R286): the write of 1 to `COMMIT`, `ENABLE` as the requester finds it. -/
def execCytCommit (req : Requester) (s : State) : Res :=
  s.writeCmd req A.CYT_CTRL 4 (fieldAt 1 1 1 + fieldAt (s.shown req A.CYT_CTRL) 1 0)

/-- CYT_ENABLE_WRITE (R287). -/
def execCytEnableWrite (req : Requester) (on : Bool) (s : State) : Res := s.writeCmd req A.CYT_CTRL 4 (if on then 1 else 0)

/-- CYT_SHIFT (R288). -/
def execCytShift (req : Requester) (value : Word) (s : State) : Res := s.writeCmd req A.CYT_SHIFT 4 value.toNat

/-! ## Queues (chapter 11) -/

/-- QUEUE_DOORBELL_WRITE (R296, R339). -/
def execQueueDoorbellWrite (req : Requester) (index : Option Nat) (value : Word) (s : State) : Res :=
  match index with
  | none => s.writeCmd req A.PRT_QTAIL 4 value.toNat
  | some n => s.writeRun req A.LNT_QDB 256 n value.toNat

/-- PRT_QCTRL_ENABLE (R295). -/
def execPrtQctrlEnable (req : Requester) (on : Bool) (s : State) : Res := s.writeCmd req A.PRT_QCTRL 4 (if on then 1 else 0)

/-- RING_HEAD_WRITE (R296). -/
def execRingHeadWrite (req : Requester) (res : Bool) (value : Word) (s : State) : Res :=
  s.writeCmd req (if res then A.PRT_RQHEAD else A.PRT_CQHEAD) 4 value.toNat

/-- FLUSH (R322). -/
def execFlush (req : Requester) (queues : Nat) (s : State) : Res := s.writeCmd req A.PRT_QRESUME 4 (fieldAt queues 8 8)

/-- RESUME (R322). -/
def execResume (req : Requester) (queues : Nat) (s : State) : Res := s.writeCmd req A.PRT_QRESUME 4 (fieldAt queues 8 0)

/-- PRT_PVAL_WRITE (R316). -/
def execPrtPvalWrite (req : Requester) (lo : Word) (high : Option Word) (s : State) : Res :=
  match high with
  | none => s.writeCmd req A.PRT_PVAL_LO 4 lo.toNat
  | some h => s.writeCmd req A.PRT_PVAL_LO 8 (lo.toNat + h.toNat * 2 ^ 32)

/-! ## Links (chapter 13) -/

/-- LINK_TRAIN (R358): `DISABLE` as the requester finds it. -/
def execLinkTrain (req : Requester) (s : State) : Res :=
  s.writeCmd req A.QLK_CTRL 4 (2 ^ 31 + fieldAt (s.shown req A.QLK_CTRL / 2 ^ 30) 1 30)

/-- LINK_DISABLE (R358). -/
def execLinkDisable (req : Requester) (on : Bool) (s : State) : Res := s.writeCmd req A.QLK_CTRL 4 (if on then 2 ^ 30 else 0)

/-- SPARE_TRANSMITTER (R361). -/
def execSpareTransmitter (req : Requester) (lane : Nat) (s : State) : Res :=
  s.writeCmd req A.QLK_SPARE_CMD 4 (fieldAt 1 4 28 + fieldAt lane 2 26)

/-- SPARE_RECEIVER (R361). -/
def execSpareReceiver (req : Requester) (lane : Nat) (s : State) : Res :=
  s.writeCmd req A.QLK_SPARE_CMD 4 (fieldAt 2 4 28 + fieldAt lane 2 26)

/-! ## The Footing store (chapter 15) -/

/-- IMAGE_CREATE (R410). -/
def execImageCreate (req : Requester) (kind owner : Nat) (s : State) : Res :=
  s.writeCmd req A.FTG_IMG_CMD 4 (fieldAt 1 4 28 + fieldAt kind 2 26 + fieldAt owner 5 20)

/-- SEAL (R411). -/
def execSeal (req : Requester) (s : State) : Res := s.writeCmd req A.FTG_IMG_CMD 4 (fieldAt 2 4 28)

/-- IMAGE_DELETE (R412). -/
def execImageDelete (req : Requester) (s : State) : Res := s.writeCmd req A.FTG_IMG_CMD 4 (fieldAt 3 4 28)

/-- IMAGE_ABORT (R409). -/
def execImageAbort (req : Requester) (s : State) : Res := s.writeCmd req A.FTG_IMG_CMD 4 (fieldAt 4 4 28)

/-- How the device's state answers a host request: `standby` and `rom` say whether `STANDBY` and Keystone's ROM serve it
(R347, R435, R444, R446, R483); none where nothing answers. -/
def State.hostState (s : State) (agent : Nat) (standby rom : Bool) : Option Nat :=
  match s.dv.st with
  | .ready => some St.ok
  | .standby => some (if standby then St.ok else St.ifverMismatch)
  | .warmReset => some St.deviceResetting
  | .failed =>
    if s.dv.releaseHeld then some (if standby then St.ok else St.ifverMismatch)
    else if s.dv.romRecovery then some (if agent = 0 && rom then St.ok else St.accessDenied)
    else none
  | _ => none

/-- Is the local range in the staging window? -/
def inStaging (a n : Nat) : Bool := 0xE0000000000 ≤ a && a + n ≤ 0xE1000000000

/-- STAGING_WRITE (R410): a write through the staging window; the host needs the device right. -/
def execStagingWrite (req : Requester) (addr : Nat) (data : List Byte) (s : State) : Res :=
  if !s.reachesRegs req then done s
  else
    let gate : Option Nat := match req with
      | .host a => (s.hostState a false true).map fun c => if c ≠ 0 then c else if s.deviceRight a then St.ok else St.accessDenied
      | _ => some St.ok
    match gate with
    | none => done s
    | some c =>
      if c ≠ 0 then done (s.emit (.regReply req c 0))
      else if !inStaging addr data.length then done (s.emit (.regReply req St.addressUnmapped 0))
      else
        let w := s.stageWrite (reqCode req) addr data
        done (w.2.emit (.regReply req w.1 0))

/-! ## Trowel cores (chapter 16) -/

/-- CORE_RESTART_WRITE (R424): the write of `RESTART`. -/
def execCoreRestartWrite (req : Requester) (now : Nat) (s : State) : Res := (s.at now).writeCmd req A.TRW_CORE_CTRL 4 (2 ^ 31)

/-- CORE_RETIRE_WRITE (R424): the write of `RETIRE`. -/
def execCoreRetireWrite (req : Requester) (s : State) : Res := s.writeCmd req A.TRW_CORE_CTRL 4 (2 ^ 30)

/-! ## Kiln (chapter 20) -/

/-- SENSOR_FLAG_CLEAR (R486). -/
def execSensorFlagClear (req : Requester) (k : Nat) (value : Word) (s : State) : Res :=
  s.writeRun req A.KLN_SENSFAULT 67 k value.toNat

/-- CEIL_MHZ_WRITE (R488). -/
def execCeilMhzWrite (req : Requester) (die : Nat) (value : Word) (now : Nat) (s : State) : Res :=
  (s.at now).writeRun req A.KLN_CLK 8 die value.toNat

/-- KLN_STK_LEVEL_WRITE (R490). -/
def execKlnStkLevelWrite (req : Requester) (value : Word) (now : Nat) (s : State) : Res :=
  (s.at now).writeCmd req A.KLN_STK_LEVEL 4 value.toNat

end Sys2Proof.Machine
end

