-- ==== Sys2Proof/Machine/Lintel.lean ====
section
/-! DEFINITION. Host requests (chapter 12): transactions under their credits, the checks of R336, memory, register and staging
accesses, requests for other devices, doorbells and the sideband. -/

namespace Sys2Proof.Machine

/-! ## Taking a request in (R331, R332) -/

/-- 64-byte data credits of `n` bytes. -/
def dataUnits (n : Nat) : Nat := (n + 63) / 64

/-- A request of a link is taken in: the credits it consumes and, of a request that is answered, its TID; none where it is
dropped, with the state that says why. `posted`: `MWR` and `DB`. -/
def State.takeIn (s : State) (l tid n : Nat) (posted : Bool) : Bool × State :=
  let x := s.hlink l
  if (if posted then x.pw else x.rq) = 0 || x.data < dataUnits n then (false, s.err .lnt 0 7)
  else if !posted && x.tids.contains tid then (false, s.err .lnt 0 8)
  else (true, s.setHlink l { x with
    rq := if posted then x.rq else x.rq - 1
    pw := if posted then x.pw - 1 else x.pw
    data := x.data - dataUnits n
    tids := if posted then x.tids else x.tids ++ [tid] })

/-- Has a write of a link been taken in and not yet handed to its slab? -/
def State.writeWaits (s : State) (l : Nat) : Bool := s.yd.waiting.any fun q => match q.asker with
  | .host m kind _ _ _ _ _ => m % 2 == l && kind != 1
  | _ => false

/-- Does the mainband of a link carry transactions, and has every earlier write of the link been performed (R334)? A transaction
behind a write that waits stays in the link's buffer, and is taken in when it is sent to the model again (DESIGN CHOICE, log 16). -/
def State.hostTakes (s : State) (l : Nat) : Bool := l < 2 && s.hlinkUp l && !(s.hlink l).retraining && !s.writeWaits l

/-! ## The checks of R336 -/

/-- What a host request for memory touches, once it may proceed. -/
inductive HostTarget where
  | remote
  | mem (a : Nat)
  | stage (a : Nat)
  | reg (off : Nat)
deriving DecidableEq, Repr

/-- Does the local address lie in one of channel 0's WORK blocks (R342)? -/
def State.inChannel0 (s : State) (a : Nat) : Bool :=
  match s.area a with
  | .yard b => s.blockKind b = 2 && s.channel0Block b
  | _ => false

/-- Is a request of this area served in `STANDBY` (R347)? Registers are checked by their own rule. -/
def State.standbyMem (s : State) (agent addr : Nat) : Bool :=
  devOf addr = s.dv.devNum && s.inChannel0 (localOf addr) && s.deviceRight agent

/-- The first status of steps 1 to 5 of R336 that applies to a memory request; none where nothing answers. -/
def State.hostCheck (s : State) (agent part addr n : Nat) (write bad : Bool) : Option (Except Nat HostTarget) :=
  if s.dv.st = .warmReset then some (.error St.deviceResetting)
  else if bad || n = 0 || 256 < addr % 256 + n then some (.error St.badField)
  else
    let here : Bool := devOf addr = s.dv.devNum && addr / 2 ^ 44 % 256 = 0
    let a := localOf addr
    if here && s.area a = .regs then some (.ok (.reg (a - regBase)))
    else
      let staging : Bool := here && s.area a = .staging
      (s.hostState agent (here && s.standbyMem agent addr) staging).map fun c =>
        let right : Bool :=
          if staging || (here && s.inChannel0 a) then s.deviceRight agent
          else s.hasRight agent part (if write then .memW else .memR)
        let st := if here && !staging then s.placeStatus (.agent agent part) write a else St.ok
        if c ≠ 0 then .error c
        else if addr / 2 ^ 44 % 256 ≠ 0 then .error St.addressUnmapped
        else if st = St.addressUnmapped then .error St.addressUnmapped
        else if !right then .error St.accessDenied
        else if st ≠ 0 then .error st
        else .ok (if !here then .remote else if staging then .stage a else .mem a)

/-! ## Performing it -/

/-- A memory request that has been taken in: it is performed and answered, or set on its way to another device. `kind` is 1 for
`MRD`, 2 for `MWR`, 3 for `MWRC`. -/
def State.hostPerform (s : State) (l kind tid agent part addr n : Nat) (data : List Byte) (bad : Bool) : State :=
  let write : Bool := kind ≠ 1
  let reply (t : State) (status : Nat) (d : List Byte) : State := t.hostAnswer l kind tid agent part addr n status d
  match s.hostCheck agent part addr n write bad with
  | none => s
  | some (.error c) => reply s c []
  | some (.ok .remote) =>
    let t := if write then s.forgetCopies addr n else s
    (match t.sendRemote { top := if write then 2 else 1, addr := addr, part := part, type := 0, len := n, data := data,
                          use := .host l kind tid agent part } with
     | (0, u) => u
     | (c, u) => reply u c [])
  | some (.ok (.stage a)) =>
    if write then
      let w := s.stageWrite (reqCode (.host agent)) a data
      reply w.2 w.1 []
    else
      let r := s.stageRead (reqCode (.host agent)) a n
      reply s r.1 r.2
  | some (.ok (.reg off)) =>
    if write then
      (match s.regWrite (.host agent) off n (leNat data) with
       | none => s
       | some (c, t) => reply t c [])
    else
      (match s.regRead (.host agent) off n with
       | none => s
       | some (c, v, t) => reply t c (leBytes v n))
  | some (.ok (.mem a)) =>
    (if write then s else s.acquireRange part addr n).enter (.host l kind tid agent part addr n) part 4 addr
      { op := if write then 1 else 0, addr := a, len := n, data := data.map some }

/-- A memory request arrives on a link. One of the staging window waits while Keystone is paused (Table 19-3). -/
def State.hostRequest (s : State) (l kind tid agent part addr n : Nat) (data : List Byte) (bad : Bool) : Res :=
  if !s.hostTakes l || (s.keystonePaused && devOf addr = s.dv.devNum && inStaging (localOf addr) n) then done s
  else
    let x := s.takeIn l tid (if kind = 1 then 0 else n) (kind = 2)
    done (if x.1 then x.2.hostPerform l kind tid agent part addr n data bad else x.2)

/-- MRD (R331): answered by a `CPLD`. -/
def execMrd (link tid agent part len addr : Nat) (bad : Bool) (s : State) : Res :=
  s.hostRequest link 1 tid agent part addr len [] bad

/-- MWR (R334, R336): posted; a failing one is discarded and captured. -/
def execMwr (link agent part addr : Nat) (data : List Byte) (bad : Bool) (s : State) : Res :=
  s.hostRequest link 2 0 agent part addr data.length data bad

/-- MWRC (R331): answered by a `CPL` once performed. -/
def execMwrc (link tid agent part addr : Nat) (data : List Byte) (bad : Bool) (s : State) : Res :=
  s.hostRequest link 3 tid agent part addr data.length data bad

/-! ## Doorbells (R339) -/

/-- The status of a `DB`; none where nothing answers. -/
def State.dbCheck (s : State) (agent part target : Nat) (bad : Bool) : Option Nat :=
  if s.dv.st = .warmReset then some St.deviceResetting
  else if bad || 10 ≤ target then some St.badField
  else (s.hostState agent (target = 9) false).map fun c =>
    if c ≠ 0 then c
    else if (if target = 9 then s.deviceRight agent else s.hasRight agent part .db) then St.ok
    else St.accessDenied

/-- DB (R330, R336, R339): a doorbell of a queue of the partition, or of a channel's H2F ring. -/
def execDb (link agent part target tail : Nat) (bad : Bool) (s : State) : Res :=
  if !s.hostTakes link then done s
  else
    let x := s.takeIn link 0 0 true
    if !x.1 then done x.2
    else match s.dbCheck agent part target bad with
      | none => done x.2
      | some c =>
        let t := x.2.freeHost link 2 0
        done (if c ≠ 0 then t.postedRefused c agent part
          else if target = 9 then t.ringBell 0
          else if target = 8 then t.ringBell (part + 1)
          else t.doorbell part target (tail % 65536))

/-- RING_DOORBELL (R339): the write of `LNT_RDBc`. -/
def execRingDoorbell (req : Requester) (channel : Nat) (s : State) : Res := s.writeRun req A.LNT_RDB 33 channel 0

/-! ## The sideband (R327) -/

/-- The registers the sideband reaches. -/
def sidebandReaches (addr : Nat) : Bool := addr / 0x1000 = 0x30 || addr = A.LNT_RDB

/-- SIDEBAND_READ: before release only LNT page 0 is read (R435); it needs the device right like any read of it. -/
def execSidebandRead (agent addr : Nat) (s : State) : Res :=
  if s.dv.st = .off || 64 ≤ agent then done s
  else if !sidebandReaches addr then done (s.emit (.sideband St.addressUnmapped 0))
  else
    let early : Bool := s.dv.st = .boot || s.dv.st = .bringup || (s.dv.st = .failed && !s.dv.releaseHeld && !s.dv.romRecovery)
    if early then
      (if addr / 0x1000 ≠ 0x30 then done s
       else if !s.deviceRight agent then done (s.emit (.sideband St.accessDenied 0))
       else if !widthOk addr 4 then done (s.emit (.sideband St.registerWidth 0))
       else
        let r := s.takeAll (.host agent) (regsOf addr 4)
        done (r.2.emit (.sideband St.ok r.1)))
    else match s.regRead (.host agent) addr 4 with
      | none => done s
      | some (c, v, t) => done (t.emit (.sideband c v))

/-- SIDEBAND_WRITE: no write is served before release. -/
def execSidebandWrite (agent addr : Nat) (value : Word) (s : State) : Res :=
  if s.dv.st = .off || 64 ≤ agent then done s
  else if !sidebandReaches addr then done (s.emit (.sideband St.addressUnmapped 0))
  else match s.regWrite (.host agent) addr 4 value.toNat with
    | none => done s
    | some (c, t) => done (t.emit (.sideband c 0))

/-! ## Other Lintel registers -/

/-- LNT_IVEC_WRITE (R341). -/
def execLntIvecWrite (req : Requester) (value : Word) (s : State) : Res := s.writeCmd req A.LNT_IVEC 4 value.toNat

/-- HEARTBEAT (R349): the write of `LNT_HBp`. -/
def execHeartbeat (req : Requester) (part : Nat) (s : State) : Res := s.writeRun req A.LNT_HB 32 part 0

end Sys2Proof.Machine
end

