-- ==== Sys2Proof/Machine/Dispatch.lean ====
section
/-! DEFINITION. The dispatch: one arm per command, one direct call of its meaning. -/

namespace Sys2Proof.Machine

/-- A command's effect on everything but the queue. -/
def exec (i : Instr) (s : State) : Host.Outcome State Fault Refusal :=
  match i with
  | .powerUp vin flow tInlet => Sys2Proof.Machine.execPowerUp vin flow tInlet s
  | .coolantHoldRelease flow tInlet => Sys2Proof.Machine.execCoolantHoldRelease flow tInlet s
  | .inputLossShutdown vin us => Sys2Proof.Machine.execInputLossShutdown vin us s
  | .overvoltageShutdown vin us => Sys2Proof.Machine.execOvervoltageShutdown vin us s
  | .inputPowerSample w1us w1ms vin flow tInlet now => Sys2Proof.Machine.execInputPowerSample w1us w1ms vin flow tInlet now s
  | .powerLimitShutdown w1ms => Sys2Proof.Machine.execPowerLimitShutdown w1ms s
  | .coolantShutdown flow tInlet ms => Sys2Proof.Machine.execCoolantShutdown flow tInlet ms s
  | .vinPrsntOpen => Sys2Proof.Machine.execVinPrsntOpen s
  | .emergOff us => Sys2Proof.Machine.execEmergOff us s
  | .pwrEnFall => Sys2Proof.Machine.execPwrEnFall s
  | .coldReset byPin us => Sys2Proof.Machine.execColdReset byPin us s
  | .referenceLost stopped ppm us => Sys2Proof.Machine.execReferenceLost stopped ppm us s
  | .cableSupplyTrip conn mA us => Sys2Proof.Machine.execCableSupplyTrip conn mA us s
  | .cableInsert conn => Sys2Proof.Machine.execCableInsert conn s
  | .cableRemove conn => Sys2Proof.Machine.execCableRemove conn s
  | .powerStatusRead addr cmd => Sys2Proof.Machine.execPowerStatusRead addr cmd s
  | .tapInstruction mandatory => Sys2Proof.Machine.execTapInstruction mandatory s
  | .registerWrite req addr len data => Sys2Proof.Machine.execRegisterWrite req addr len data s
  | .readClear req addr len => Sys2Proof.Machine.execReadClear req addr len s
  | .blkSelWrite req page value => Sys2Proof.Machine.execBlkSelWrite req page value s
  | .blkErrClear req page value => Sys2Proof.Machine.execBlkErrClear req page value s
  | .lockSet page value => Sys2Proof.Machine.execLockSet page value s
  | .quiesce req page value => Sys2Proof.Machine.execQuiesce req page value s
  | .compReset req page => Sys2Proof.Machine.execCompReset req page s
  | .componentResetDone blk inst pass => Sys2Proof.Machine.execComponentResetDone blk inst pass s
  | .passMv hod => Sys2Proof.Machine.execPassMv hod s
  | .passScore hod => Sys2Proof.Machine.execPassScore hod s
  | .passValue hod => Sys2Proof.Machine.execPassValue hod s
  | .passOutlier hod => Sys2Proof.Machine.execPassOutlier hod s
  | .latch hod => Sys2Proof.Machine.execLatch hod s
  | .groupOpen hod => Sys2Proof.Machine.execGroupOpen hod s
  | .groupSpaceReserved stack => Sys2Proof.Machine.execGroupSpaceReserved stack s
  | .computeActivate stack bank now => Sys2Proof.Machine.execComputeActivate stack bank now s
  | .yieldPoint stack bank now => Sys2Proof.Machine.execYieldPoint stack bank now s
  | .refreshDue stack bank pullIn => Sys2Proof.Machine.execRefreshDue stack bank pullIn s
  | .ordinaryAccess part write addr data len now fault => Sys2Proof.Machine.execOrdinaryAccess part write addr data len now fault s
  | .passEnd stack bank now => Sys2Proof.Machine.execPassEnd stack bank now s
  | .contribution k => Sys2Proof.Machine.execContribution k s
  | .memorySideAdd part type addr data => Sys2Proof.Machine.execMemorySideAdd part type addr data s
  | .mergeIdleFlush line => Sys2Proof.Machine.execMergeIdleFlush line s
  | .regIndexWrite req value => Sys2Proof.Machine.execRegIndexWrite req value s
  | .regEntryLoWrite req value high => Sys2Proof.Machine.execRegEntryLoWrite req value high s
  | .regEntryHiWrite req value => Sys2Proof.Machine.execRegEntryHiWrite req value s
  | .regionFillDone granule => Sys2Proof.Machine.execRegionFillDone granule s
  | .rowSpare req die bank row => Sys2Proof.Machine.execRowSpare req die bank row s
  | .bankSpare req die bank => Sys2Proof.Machine.execBankSpare req die bank s
  | .repairDone stack => Sys2Proof.Machine.execRepairDone stack s
  | .stkTrainStart req => Sys2Proof.Machine.execStkTrainStart req s
  | .stkTrainDone stack result dieOk chOk => Sys2Proof.Machine.execStkTrainDone stack result dieOk chOk s
  | .computeTimingWrite req reg value => Sys2Proof.Machine.execComputeTimingWrite req reg value s
  | .stackHotEnd stack now => Sys2Proof.Machine.execStackHotEnd stack now s
  | .tload brick cycle par => Sys2Proof.Machine.execTload brick cycle par s
  | .tmul brick cycle par => Sys2Proof.Machine.execTmul brick cycle par s
  | .mvld brick cycle par => Sys2Proof.Machine.execMvld brick cycle par s
  | .mvcfg brick cycle => Sys2Proof.Machine.execMvcfg brick cycle s
  | .mvmul brick cycle par => Sys2Proof.Machine.execMvmul brick cycle par s
  | .vopCopy brick cycle par => Sys2Proof.Machine.execVopCopy brick cycle par s
  | .vopAdd brick cycle par => Sys2Proof.Machine.execVopAdd brick cycle par s
  | .vopMul brick cycle par => Sys2Proof.Machine.execVopMul brick cycle par s
  | .vopMax brick cycle par => Sys2Proof.Machine.execVopMax brick cycle par s
  | .vopRelu brick cycle par => Sys2Proof.Machine.execVopRelu brick cycle par s
  | .vopSigmoid brick cycle par => Sys2Proof.Machine.execVopSigmoid brick cycle par s
  | .vopSilu brick cycle par => Sys2Proof.Machine.execVopSilu brick cycle par s
  | .vopGeluTanh brick cycle par => Sys2Proof.Machine.execVopGeluTanh brick cycle par s
  | .vopGateSilu brick cycle par => Sys2Proof.Machine.execVopGateSilu brick cycle par s
  | .vopExp brick cycle par => Sys2Proof.Machine.execVopExp brick cycle par s
  | .vopRecip brick cycle par => Sys2Proof.Machine.execVopRecip brick cycle par s
  | .vopRsqrt brick cycle par => Sys2Proof.Machine.execVopRsqrt brick cycle par s
  | .vopLnorm brick cycle par => Sys2Proof.Machine.execVopLnorm brick cycle par s
  | .vopRmsnorm brick cycle par => Sys2Proof.Machine.execVopRmsnorm brick cycle par s
  | .vopNstat brick cycle par => Sys2Proof.Machine.execVopNstat brick cycle par s
  | .vopNapply brick cycle par => Sys2Proof.Machine.execVopNapply brick cycle par s
  | .vopRope brick cycle par => Sys2Proof.Machine.execVopRope brick cycle par s
  | .vcfgScaleTable brick cycle par => Sys2Proof.Machine.execVcfgScaleTable brick cycle par s
  | .vcfgParameterBlock brick cycle par => Sys2Proof.Machine.execVcfgParameterBlock brick cycle par s
  | .store brick cycle par => Sys2Proof.Machine.execStore brick cycle par s
  | .issueTimeout brick engine us => Sys2Proof.Machine.execIssueTimeout brick engine us s
  | .inboundAdmit brick off data bad cycle => Sys2Proof.Machine.execInboundAdmit brick off data bad cycle s
  | .inboundLanded brick k cycle => Sys2Proof.Machine.execInboundLanded brick k cycle s
  | .bringInSpare req logical spare => Sys2Proof.Machine.execBringInSpare req logical spare s
  | .retireBrick req => Sys2Proof.Machine.execRetireBrick req s
  | .brickClearDone brick => Sys2Proof.Machine.execBrickClearDone brick s
  | .aluAdd brick parity => Sys2Proof.Machine.execAluAdd brick parity s
  | .aluSub brick parity => Sys2Proof.Machine.execAluSub brick parity s
  | .aluAnd brick parity => Sys2Proof.Machine.execAluAnd brick parity s
  | .aluOr brick parity => Sys2Proof.Machine.execAluOr brick parity s
  | .aluXor brick parity => Sys2Proof.Machine.execAluXor brick parity s
  | .aluSll brick parity => Sys2Proof.Machine.execAluSll brick parity s
  | .aluSrl brick parity => Sys2Proof.Machine.execAluSrl brick parity s
  | .aluSra brick parity => Sys2Proof.Machine.execAluSra brick parity s
  | .aluSlt brick parity => Sys2Proof.Machine.execAluSlt brick parity s
  | .aluSltu brick parity => Sys2Proof.Machine.execAluSltu brick parity s
  | .aluMin brick parity => Sys2Proof.Machine.execAluMin brick parity s
  | .aluMax brick parity => Sys2Proof.Machine.execAluMax brick parity s
  | .aluMinu brick parity => Sys2Proof.Machine.execAluMinu brick parity s
  | .aluMaxu brick parity => Sys2Proof.Machine.execAluMaxu brick parity s
  | .aluMul brick parity => Sys2Proof.Machine.execAluMul brick parity s
  | .aluMulh brick parity => Sys2Proof.Machine.execAluMulh brick parity s
  | .aluMulhu brick parity => Sys2Proof.Machine.execAluMulhu brick parity s
  | .aluDiv brick parity => Sys2Proof.Machine.execAluDiv brick parity s
  | .aluDivu brick parity => Sys2Proof.Machine.execAluDivu brick parity s
  | .aluRem brick parity => Sys2Proof.Machine.execAluRem brick parity s
  | .aluRemu brick parity => Sys2Proof.Machine.execAluRemu brick parity s
  | .addi brick parity => Sys2Proof.Machine.execAddi brick parity s
  | .andi brick parity => Sys2Proof.Machine.execAndi brick parity s
  | .ori brick parity => Sys2Proof.Machine.execOri brick parity s
  | .xori brick parity => Sys2Proof.Machine.execXori brick parity s
  | .slti brick parity => Sys2Proof.Machine.execSlti brick parity s
  | .sltiu brick parity => Sys2Proof.Machine.execSltiu brick parity s
  | .slli brick parity => Sys2Proof.Machine.execSlli brick parity s
  | .srli brick parity => Sys2Proof.Machine.execSrli brick parity s
  | .srai brick parity => Sys2Proof.Machine.execSrai brick parity s
  | .lui brick parity => Sys2Proof.Machine.execLui brick parity s
  | .lw brick parity fault => Sys2Proof.Machine.execLw brick parity fault s
  | .lh brick parity fault => Sys2Proof.Machine.execLh brick parity fault s
  | .lhu brick parity fault => Sys2Proof.Machine.execLhu brick parity fault s
  | .lb brick parity fault => Sys2Proof.Machine.execLb brick parity fault s
  | .lbu brick parity fault => Sys2Proof.Machine.execLbu brick parity fault s
  | .sw brick parity fault => Sys2Proof.Machine.execSw brick parity fault s
  | .sh brick parity fault => Sys2Proof.Machine.execSh brick parity fault s
  | .sb brick parity fault => Sys2Proof.Machine.execSb brick parity fault s
  | .beq brick parity => Sys2Proof.Machine.execBeq brick parity s
  | .bne brick parity => Sys2Proof.Machine.execBne brick parity s
  | .blt brick parity => Sys2Proof.Machine.execBlt brick parity s
  | .bge brick parity => Sys2Proof.Machine.execBge brick parity s
  | .bltu brick parity => Sys2Proof.Machine.execBltu brick parity s
  | .bgeu brick parity => Sys2Proof.Machine.execBgeu brick parity s
  | .jal brick parity => Sys2Proof.Machine.execJal brick parity s
  | .jalr brick parity => Sys2Proof.Machine.execJalr brick parity s
  | .epush brick parity => Sys2Proof.Machine.execEpush brick parity s
  | .epushm brick parity fault => Sys2Proof.Machine.execEpushm brick parity fault s
  | .spushm brick parity fault => Sys2Proof.Machine.execSpushm brick parity fault s
  | .masonWait brick parity => Sys2Proof.Machine.execMasonWait brick parity s
  | .waiti brick parity => Sys2Proof.Machine.execWaiti brick parity s
  | .waitc brick parity => Sys2Proof.Machine.execWaitc brick parity s
  | .mEnd brick parity => Sys2Proof.Machine.execMEnd brick parity s
  | .workItemStart step item cycle => Sys2Proof.Machine.execWorkItemStart step item cycle s
  | .workItemEnd brick cycle => Sys2Proof.Machine.execWorkItemEnd brick cycle s
  | .stepCmd part queue => Sys2Proof.Machine.execStepCmd part queue s
  | .stepAdmission cmd => Sys2Proof.Machine.execStepAdmission cmd s
  | .placement part => Sys2Proof.Machine.execPlacement part s
  | .walkStart step seq pass layer fault => Sys2Proof.Machine.execWalkStart step seq pass layer fault s
  | .walkCombine walk head sg pos => Sys2Proof.Machine.execWalkCombine walk head sg pos s
  | .roundCombine walk head sg pos => Sys2Proof.Machine.execRoundCombine walk head sg pos s
  | .walkTimeout walk us => Sys2Proof.Machine.execWalkTimeout walk us s
  | .stepCommit step => Sys2Proof.Machine.execStepCommit step s
  | .pageRelease part page => Sys2Proof.Machine.execPageRelease part page s
  | .seqOpen part queue => Sys2Proof.Machine.execSeqOpen part queue s
  | .setInput part queue => Sys2Proof.Machine.execSetInput part queue s
  | .truncate part queue => Sys2Proof.Machine.execTruncate part queue s
  | .setFloor part queue => Sys2Proof.Machine.execSetFloor part queue s
  | .rebind part queue => Sys2Proof.Machine.execRebind part queue s
  | .setSpec part queue => Sys2Proof.Machine.execSetSpec part queue s
  | .setClass part queue => Sys2Proof.Machine.execSetClass part queue s
  | .hold part queue => Sys2Proof.Machine.execHold part queue s
  | .release part queue => Sys2Proof.Machine.execRelease part queue s
  | .pages part queue => Sys2Proof.Machine.execPages part queue s
  | .seqEditApply seq => Sys2Proof.Machine.execSeqEditApply seq s
  | .seqClose part queue => Sys2Proof.Machine.execSeqClose part queue s
  | .seqCloseFinish seq => Sys2Proof.Machine.execSeqCloseFinish seq s
  | .adapterInstall part queue sigOk => Sys2Proof.Machine.execAdapterInstall part queue sigOk s
  | .adapterRetire part queue => Sys2Proof.Machine.execAdapterRetire part queue s
  | .prefixPublish part queue => Sys2Proof.Machine.execPrefixPublish part queue s
  | .seqPoolAdd req page => Sys2Proof.Machine.execSeqPoolAdd req page s
  | .seqPoolSizeWrite req half value => Sys2Proof.Machine.execSeqPoolSizeWrite req half value s
  | .seqQuotaWrite req value => Sys2Proof.Machine.execSeqQuotaWrite req value s
  | .seqPfxModeWrite req what value => Sys2Proof.Machine.execSeqPfxModeWrite req what value s
  | .copy part queue parity => Sys2Proof.Machine.execCopy part queue parity s
  | .layout part queue parity => Sys2Proof.Machine.execLayout part queue parity s
  | .gather part queue parity => Sys2Proof.Machine.execGather part queue parity s
  | .yrdBentryWrite req value => Sys2Proof.Machine.execYrdBentryWrite req value s
  | .blockConversionDone block => Sys2Proof.Machine.execBlockConversionDone block s
  | .yardAccess part op type cls addr data len fault => Sys2Proof.Machine.execYardAccess part op type cls addr data len fault s
  | .streamDeclare part base len => Sys2Proof.Machine.execStreamDeclare part base len s
  | .yrdSpareCmd req op logical => Sys2Proof.Machine.execYrdSpareCmd req op logical s
  | .slabReplaceDone => Sys2Proof.Machine.execSlabReplaceDone s
  | .yrdClsWrite req cls value => Sys2Proof.Machine.execYrdClsWrite req cls value s
  | .yrdQCacheWrite req value => Sys2Proof.Machine.execYrdQCacheWrite req value s
  | .acquire part queue => Sys2Proof.Machine.execAcquire part queue s
  | .partitionCreate req => Sys2Proof.Machine.execPartitionCreate req s
  | .partitionActivate req => Sys2Proof.Machine.execPartitionActivate req s
  | .partitionDrain req => Sys2Proof.Machine.execPartitionDrain req s
  | .partitionRelease req => Sys2Proof.Machine.execPartitionRelease req s
  | .drainComplete part => Sys2Proof.Machine.execDrainComplete part s
  | .poolAssign req k value => Sys2Proof.Machine.execPoolAssign req k value s
  | .bgrpAssign req k value => Sys2Proof.Machine.execBgrpAssign req k value s
  | .hodAssign req half value => Sys2Proof.Machine.execHodAssign req half value s
  | .prtModeWrite req value => Sys2Proof.Machine.execPrtModeWrite req value s
  | .regulatorWrite req reg value => Sys2Proof.Machine.execRegulatorWrite req reg value s
  | .regulatorRefill => Sys2Proof.Machine.execRegulatorRefill s
  | .cytCommit req => Sys2Proof.Machine.execCytCommit req s
  | .cytEnableWrite req on => Sys2Proof.Machine.execCytEnableWrite req on s
  | .cytShift req value => Sys2Proof.Machine.execCytShift req value s
  | .periodWrap part => Sys2Proof.Machine.execPeriodWrap part s
  | .slotWindowEnd part slot => Sys2Proof.Machine.execSlotWindowEnd part slot s
  | .budgetStop part slot => Sys2Proof.Machine.execBudgetStop part slot s
  | .queueDoorbellWrite req index value => Sys2Proof.Machine.execQueueDoorbellWrite req index value s
  | .commandFetch part queue => Sys2Proof.Machine.execCommandFetch part queue s
  | .replay part queue => Sys2Proof.Machine.execReplay part queue s
  | .patch part queue => Sys2Proof.Machine.execPatch part queue s
  | .fence part queue => Sys2Proof.Machine.execFence part queue s
  | .modelLoad part queue sigOk outliersOk kinds => Sys2Proof.Machine.execModelLoad part queue sigOk outliersOk kinds s
  | .modelLoadBlock slot ok retryOk ue => Sys2Proof.Machine.execModelLoadBlock slot ok retryOk ue s
  | .modelLoadComplete slot templates => Sys2Proof.Machine.execModelLoadComplete slot templates s
  | .reduceRemote part queue => Sys2Proof.Machine.execReduceRemote part queue s
  | .waitCmd part queue => Sys2Proof.Machine.execWaitCmd part queue s
  | .waitEvaluate part queue => Sys2Proof.Machine.execWaitEvaluate part queue s
  | .waitTimeout part queue us => Sys2Proof.Machine.execWaitTimeout part queue us s
  | .signal part queue => Sys2Proof.Machine.execSignal part queue s
  | .nop part queue => Sys2Proof.Machine.execNop part queue s
  | .trainStep part queue => Sys2Proof.Machine.execTrainStep part queue s
  | .marker part queue => Sys2Proof.Machine.execMarker part queue s
  | .completionRecord part ring => Sys2Proof.Machine.execCompletionRecord part ring s
  | .prtQctrlEnable req on => Sys2Proof.Machine.execPrtQctrlEnable req on s
  | .ringHeadWrite req res value => Sys2Proof.Machine.execRingHeadWrite req res value s
  | .flush req queues => Sys2Proof.Machine.execFlush req queues s
  | .resume req queues => Sys2Proof.Machine.execResume req queues s
  | .prtPvalWrite req lo high => Sys2Proof.Machine.execPrtPvalWrite req lo high s
  | .flitReceive link kind fseq ack rq pw data ackValid crcOk => Sys2Proof.Machine.execFlitReceive link kind fseq ack rq pw data ackValid crcOk s
  | .nakFlit link fseq => Sys2Proof.Machine.execNakFlit link fseq s
  | .moduleFailure module => Sys2Proof.Machine.execModuleFailure module s
  | .mrd link tid agent part len addr bad => Sys2Proof.Machine.execMrd link tid agent part len addr bad s
  | .mwr link agent part addr data bad => Sys2Proof.Machine.execMwr link agent part addr data bad s
  | .mwrc link tid agent part addr data bad => Sys2Proof.Machine.execMwrc link tid agent part addr data bad s
  | .db link agent part target tail bad => Sys2Proof.Machine.execDb link agent part target tail bad s
  | .sidebandRead agent addr => Sys2Proof.Machine.execSidebandRead agent addr s
  | .sidebandWrite agent addr value => Sys2Proof.Machine.execSidebandWrite agent addr value s
  | .ringDoorbell req channel => Sys2Proof.Machine.execRingDoorbell req channel s
  | .intrHoldoffEnd source => Sys2Proof.Machine.execIntrHoldoffEnd source s
  | .lntIvecWrite req value => Sys2Proof.Machine.execLntIvecWrite req value s
  | .attach channel agent => Sys2Proof.Machine.execAttach channel agent s
  | .detach channel => Sys2Proof.Machine.execDetach channel s
  | .queryState channel => Sys2Proof.Machine.execQueryState channel s
  | .unknownMessage channel => Sys2Proof.Machine.execUnknownMessage channel s
  | .heartbeat req part => Sys2Proof.Machine.execHeartbeat req part s
  | .heartbeatTimeout part ms => Sys2Proof.Machine.execHeartbeatTimeout part ms s
  | .ringFullSilence part ring ms => Sys2Proof.Machine.execRingFullSilence part ring ms s
  | .silenceGraceEnd part ms => Sys2Proof.Machine.execSilenceGraceEnd part ms s
  | .retainExpiry part secs => Sys2Proof.Machine.execRetainExpiry part secs s
  | .linkTrain req => Sys2Proof.Machine.execLinkTrain req s
  | .linkDisable req on => Sys2Proof.Machine.execLinkDisable req on s
  | .trainingDone link pairs => Sys2Proof.Machine.execTrainingDone link pairs s
  | .trainingTimeout link ms => Sys2Proof.Machine.execTrainingTimeout link ms s
  | .keyingTimeout link ms => Sys2Proof.Machine.execKeyingTimeout link ms s
  | .frameReceive link kind fseq fack rqh rqd mgt epoch corrected ackValid fecOk tagOk => Sys2Proof.Machine.execFrameReceive link kind fseq fack rqh rqd mgt epoch corrected ackValid fecOk tagOk s
  | .nakFrame link fseq => Sys2Proof.Machine.execNakFrame link fseq s
  | .retrainDone link ok => Sys2Proof.Machine.execRetrainDone link ok s
  | .laneDrop link lane ms pairOk => Sys2Proof.Machine.execLaneDrop link lane ms pairOk s
  | .rrd link tid src dst part len addr bad => Sys2Proof.Machine.execRrd link tid src dst part len addr bad s
  | .rwr link tid src dst part addr data bad => Sys2Proof.Machine.execRwr link tid src dst part addr data bad s
  | .radd link tid src dst part type addr data bad => Sys2Proof.Machine.execRadd link tid src dst part type addr data bad s
  | .ownrd link tid src dst part len addr bad => Sys2Proof.Machine.execOwnrd link tid src dst part len addr bad s
  | .rack link tid status => Sys2Proof.Machine.execRack link tid status s
  | .rdat link tid status data => Sys2Proof.Machine.execRdat link tid status data s
  | .kxHello link peer version hash chainOk => Sys2Proof.Machine.execKxHello link peer version hash chainOk s
  | .kxInit link sigOk => Sys2Proof.Machine.execKxInit link sigOk s
  | .kxResp link sigOk => Sys2Proof.Machine.execKxResp link sigOk s
  | .kxDone link => Sys2Proof.Machine.execKxDone link s
  | .creditTimeout link us => Sys2Proof.Machine.execCreditTimeout link us s
  | .responseTimeout link tid us => Sys2Proof.Machine.execResponseTimeout link tid us s
  | .rekeyDue link secs => Sys2Proof.Machine.execRekeyDue link secs s
  | .tagFailureLimit link count us => Sys2Proof.Machine.execTagFailureLimit link count us s
  | .spareTransmitter req lane => Sys2Proof.Machine.execSpareTransmitter req lane s
  | .spareReceiver req lane => Sys2Proof.Machine.execSpareReceiver req lane s
  | .scrubSweepStart blk inst now => Sys2Proof.Machine.execScrubSweepStart blk inst now s
  | .scrubVisit addr now fault => Sys2Proof.Machine.execScrubVisit addr now fault s
  | .scrubLate blk inst now => Sys2Proof.Machine.execScrubLate blk inst now s
  | .openFaultMark k => Sys2Proof.Machine.execOpenFaultMark k s
  | .scrubReload addr => Sys2Proof.Machine.execScrubReload addr s
  | .reloadDone addr ok ue => Sys2Proof.Machine.execReloadDone addr ok ue s
  | .reloadRetry addr => Sys2Proof.Machine.execReloadRetry addr s
  | .recompute seq => Sys2Proof.Machine.execRecompute seq s
  | .recomputeEnd seq => Sys2Proof.Machine.execRecomputeEnd seq s
  | .imageCreate req kind owner => Sys2Proof.Machine.execImageCreate req kind owner s
  | .seal req => Sys2Proof.Machine.execSeal req s
  | .sealDone image sigOk manifestOk hashesOk blocksOk => Sys2Proof.Machine.execSealDone image sigOk manifestOk hashesOk blocksOk s
  | .imageDelete req => Sys2Proof.Machine.execImageDelete req s
  | .imageAbort req => Sys2Proof.Machine.execImageAbort req s
  | .stagingWrite req addr data => Sys2Proof.Machine.execStagingWrite req addr data s
  | .retentionSample chan bits => Sys2Proof.Machine.execRetentionSample chan bits s
  | .blockDefect chan => Sys2Proof.Machine.execBlockDefect chan s
  | .watchdogExpiry core ms now => Sys2Proof.Machine.execWatchdogExpiry core ms now s
  | .coreException core cause addr now => Sys2Proof.Machine.execCoreException core cause addr now s
  | .coreRestartWrite req now => Sys2Proof.Machine.execCoreRestartWrite req now s
  | .coreRetireWrite req => Sys2Proof.Machine.execCoreRetireWrite req s
  | .restartPhaseEnd core imageOk journalCe journalBad now => Sys2Proof.Machine.execRestartPhaseEnd core imageOk journalCe journalBad now s
  | .restartPhaseOverrun core imageOk now => Sys2Proof.Machine.execRestartPhaseOverrun core imageOk now s
  | .crashLoopRetire core => Sys2Proof.Machine.execCrashLoopRetire core s
  | .dutyMove duty core => Sys2Proof.Machine.execDutyMove duty core s
  | .unitAudit blk inst agrees => Sys2Proof.Machine.execUnitAudit blk inst agrees s
  | .reconcile blk inst rewriteOk selfTestOk resetOk => Sys2Proof.Machine.execReconcile blk inst rewriteOk selfTestOk resetOk s
  | .idleSelftest brick idleMs sinceMs pass => Sys2Proof.Machine.execIdleSelftest brick idleMs sinceMs pass s
  | .keystoneBoot fusesOk identityOk selfTestOk mountOk idHash passing => Sys2Proof.Machine.execKeystoneBoot fusesOk identityOk selfTestOk mountOk idHash passing s
  | .bringup failedStacks failedBricks failedSlabs failedPlanes failedQuoins encoderOk => Sys2Proof.Machine.execBringup failedStacks failedBricks failedSlabs failedPlanes failedQuoins encoderOk s
  | .fillStart => Sys2Proof.Machine.execFillStart s
  | .startupRelease h2f f2h exch logH logF => Sys2Proof.Machine.execStartupRelease h2f f2h exch logH logF s
  | .releaseTimeout ms => Sys2Proof.Machine.execReleaseTimeout ms s
  | .warmReset req => Sys2Proof.Machine.execWarmReset req s
  | .warmResetDrainEnd ms => Sys2Proof.Machine.execWarmResetDrainEnd ms s
  | .partitionReset req => Sys2Proof.Machine.execPartitionReset req s
  | .ksCerts => Sys2Proof.Machine.execKsCerts s
  | .ksAttest sig => Sys2Proof.Machine.execKsAttest sig s
  | .ksBind => Sys2Proof.Machine.execKsBind s
  | .grantHostRights sigOk => Sys2Proof.Machine.execGrantHostRights sigOk s
  | .grantImport sigOk => Sys2Proof.Machine.execGrantImport sigOk s
  | .grantLock sigOk => Sys2Proof.Machine.execGrantLock sigOk s
  | .ksPeer => Sys2Proof.Machine.execKsPeer s
  | .ksDebug sigOk => Sys2Proof.Machine.execKsDebug sigOk s
  | .activate checkOk => Sys2Proof.Machine.execActivate checkOk s
  | .activationInstance ok ms => Sys2Proof.Machine.execActivationInstance ok ms s
  | .confirm => Sys2Proof.Machine.execConfirm s
  | .revert => Sys2Proof.Machine.execRevert s
  | .automaticFallback component => Sys2Proof.Machine.execAutomaticFallback component s
  | .updStatus => Sys2Proof.Machine.execUpdStatus s
  | .sensorSample sensor temp now => Sys2Proof.Machine.execSensorSample sensor temp now s
  | .throttleReq region amount now => Sys2Proof.Machine.execThrottleReq region amount now s
  | .throttleAck chan => Sys2Proof.Machine.execThrottleAck chan s
  | .thermalGraceEnd region now => Sys2Proof.Machine.execThermalGraceEnd region now s
  | .enforcementStep region now => Sys2Proof.Machine.execEnforcementStep region now s
  | .nearEnd region now => Sys2Proof.Machine.execNearEnd region now s
  | .powerBudgetSample w10ms vin flow tInlet now => Sys2Proof.Machine.execPowerBudgetSample w10ms vin flow tInlet now s
  | .powerCeilingStep now => Sys2Proof.Machine.execPowerCeilingStep now s
  | .clampRelease region now => Sys2Proof.Machine.execClampRelease region now s
  | .clockRampStep die now => Sys2Proof.Machine.execClockRampStep die now s
  | .thermalTrip region now => Sys2Proof.Machine.execThermalTrip region now s
  | .sensorFlagClear req k value => Sys2Proof.Machine.execSensorFlagClear req k value s
  | .ceilMhzWrite req die value now => Sys2Proof.Machine.execCeilMhzWrite req die value now s
  | .klnStkLevelWrite req value now => Sys2Proof.Machine.execKlnStkLevelWrite req value now s
  | .epWindowEnd mJ => Sys2Proof.Machine.execEpWindowEnd mJ s
  | .recoveryComplete part => Sys2Proof.Machine.execRecoveryComplete part s
  | .liveRelease seq => Sys2Proof.Machine.execLiveRelease seq s
  | .stackLost stack => Sys2Proof.Machine.execStackLost stack s
  | .vinPrsntMate => Sys2Proof.Machine.execVinPrsntMate s
  | .inputBelow30V vin => Sys2Proof.Machine.execInputBelow30V vin s
  | .coldResetNRise => Sys2Proof.Machine.execColdResetNRise s
  | .ucieRetrainEnd link ok => Sys2Proof.Machine.execUcieRetrainEnd link ok s
  | .hostLinkReturn link => Sys2Proof.Machine.execHostLinkReturn link s
  | .counterExhausted link => Sys2Proof.Machine.execCounterExhausted link s
  | .slotWindowStart part slot => Sys2Proof.Machine.execSlotWindowStart part slot s
  | .footingDieFail chan die images => Sys2Proof.Machine.execFootingDieFail chan die images s

end Sys2Proof.Machine
end

