-- ==== Sys2Proof/Safety.lean ====
section
/-! DEFINITION. What statements about steps and runs refer to: the canonical forms of the stores, memory left alone, and a run
that never stops. -/

namespace Sys2Proof.Machine

/-- The register store, the memory and the syndromes are in their canonical forms: keys strictly rising and no entry equal to
what an unlisted key reads as. -/
abbrev State.Canonical (s : State) : Prop :=
  smWf regDefault s.regs = true ∧ Memory.wf s.mem = true ∧ smWf syndDefault s.synd = true

/-- Every byte of memory reads as before, and is checked as before. -/
def SameMemory (s t : State) : Prop := ∀ a, t.byte a = s.byte a ∧ t.ecc a = s.ecc a

/-- Every byte outside `[a, a + n)` reads, corrected, as before. -/
def ReadsOutside (a n : Nat) (s t : State) : Prop := ∀ x, (x < a ∨ a + n ≤ x) → t.okByte x = s.okByte x

/-- No bank computes, holds or awaits an access or a load, no merged byte waits, and nothing is wrong in a line's copy: reads deliver
the stored words, checked, and writes go straight to them. -/
abbrev State.atRest (s : State) : Prop :=
  s.bk.merge = [] ∧ s.bk.runs = [] ∧ s.bk.queued = [] ∧ s.bk.work = [] ∧ ∀ x ∈ s.yd.lines, x.errs = []

/-- The same, with no stack or Quoin die paused, every stack in service, and no brick's instruction under way. -/
abbrev State.memoryOpen (s : State) : Prop :=
  s.atRest ∧ s.anyPaused = false ∧ (∀ k, k < 16 → s.stackServes k = true) ∧ ∀ e ∈ s.br, e.2.jobs = []

/-- Memory is open and no word under `[a, a + n)` reads as poisoned or uncorrectable. -/
abbrev State.settledAt (s : State) (a n : Nat) : Prop := s.memoryOpen ∧ s.anyBad a n = false

/-- No regulator of a partition limits it (R282). -/
abbrev State.unmetered (s : State) (p : Nat) : Prop := ∀ r, r < 3 → s.rgFree p r = true

/-- Nothing waits in the Yard, and its slab takes the request at once (R266 to R268). -/
abbrev State.takenAtOnce (s : State) (k : Asker) (part cls ga : Nat) (x : Access) : Prop :=
  s.yd.waiting = [] ∧ s.yardMay { asker := k, part := part, cls := cls, slab := s.slabOf ga, ga := ga, acc := x, since := s.now } = true

/-- The descriptor `d` at the front of an engine's list has become work of its bank (R66, R68). -/
def PassIssued (hod : Nat) (d : Desc) (rest : List Desc) (s t : State) : Prop :=
  t.bankWork (s.bankAt d.pass.base) = s.bankWork (s.bankAt d.pass.base) ++ [.pass d.pass]
    ∧ (∀ b, b ≠ s.bankAt d.pass.base → t.bankWork b = s.bankWork b)
    ∧ smGet (fun _ => []) t.bk.lists hod = rest ∧ t.bk.runs = s.bk.runs ∧ t.mem = s.mem ∧ t.synd = s.synd

/-- The address of the register a key of the store names. -/
def keyAddr (k : Nat) : Nat := k / 0x8000 / 0x4000

/-- Registers at other addresses than those listed read as before. -/
def RegsBut (as : List Nat) (s t : State) : Prop :=
  ∀ k, keyAddr k ∉ as → smGet regDefault t.regs k = smGet regDefault s.regs k

/-- Registers at other keys than those listed read as before. -/
def RegsKeep (ks : List Nat) (s t : State) : Prop := ∀ k, k ∉ ks → smGet regDefault t.regs k = smGet regDefault s.regs k

/-- What an error recorded in a block writes (R45, R48): its cause and capture registers and the interrupt vectors' words. -/
def errAddrs (b : Blk) : List Nat := [hdrAddr b 0x10, hdrAddr b 0x20, hdrAddr b 0x24, A.LNT_IVEC]

/-- A requester's 4-byte write of a register is served: the device answers it, it has the right, and no lock holds the page
against it (R35 to R37, R53, R336). -/
abbrev State.grants (s : State) (r : Requester) (addr : Nat) : Prop :=
  s.regGate r addr 4 true = some 0 ∧ s.lockedFor r (addr / 0x1000) = false

/-- The state after a register access with its reply. -/
def State.replied (s : State) (r : Requester) (status : Nat) : State := s.emit (.regReply r status 0)

/-- The addresses of the dies' clock registers. -/
def clkAddrs : List Nat := (List.range 8).map fun d => (F.KLN_CLK_CUR_MHZ.nth d).addr

/-- After a shutdown with a cause (R18, R19, R26): the sequencer has tripped, every volatile part is as at reset, and what the
Footing has committed, the fuses and the waiting commands stay. -/
def ShutDown (cause : Nat) (s t : State) : Prop :=
  t.pw.pwrState = 4 ∧ t.pw.cause = cause ∧ t.pw.pwrGood = false ∧ t.pw.svc3v3 = false ∧ t.pw.thermTripN = false
    ∧ t.dv.st = .off ∧ t.dv.arb = s.dv.arb ∧ t.regs = [] ∧ t.mem = [] ∧ t.synd = [] ∧ t.ftg = s.ftg.afterPowerLoss
    ∧ t.pending = s.pending ∧ t.qu = {} ∧ t.sv = {} ∧ t.ks = {} ∧ t.br = []

/-! ## What statements about a Mason core refer to (chapter 5) -/

/-- A register as the core reads it. -/
def Brick.readX (b : Brick) (r : Nat) : Nat := if r = 0 then 0 else smGet (fun _ => 0) b.x r

/-- The brick as its core comes to its next instruction. -/
def Brick.arrived (b : Brick) : Brick := { b with clk := b.cycle, now := b.cycle }

/-- The core of brick `n` is at the legal instruction `w` of the work item `r`; nothing that has issued and no result is under way. -/
def State.masonAt (s : State) (n w : Nat) (r : BRun) : Prop :=
  smSorted s.br = true ∧ (s.brick n).run = some r ∧ r.ended = false ∧ r.stopAt = none ∧ (s.brick n).jobs = []
    ∧ (s.brick n).code[(s.brick n).pc]? = some w ∧ mLegal w = true ∧ (s.brick n).pend = [] ∧ ∀ e ∈ (s.brick n).x, e.2 < 2 ^ 32

/-- The brick after an instruction that goes on at `pc`, `cyc` cycles later. -/
def Brick.goesOn (b : Brick) (pc cyc : Nat) : Brick := { b with pc := pc % 2 ^ 13, clk := b.clk + cyc, order := b.order + 1 }

/-- The brick with the result `v` on its way to register `r`, seen `lat` cycles later (R143); writes to x0 are discarded. -/
def Brick.sends (b : Brick) (r v lat : Nat) : Brick :=
  if r = 0 then b else { b with pend := b.pend ++ [⟨r, v % 2 ^ 32, b.clk + lat, b.order⟩] }

/-- The brick after an instruction whose result is `v`. -/
def Brick.result (b : Brick) (r v lat : Nat) : Brick := (b.sends r v lat).goesOn (b.pc + 1) 1

/-- The address of a load or store at `w`. -/
def Brick.eaddr (b : Brick) (w : Nat) : Nat := (b.readX (mB w) + mSext w) % 2 ^ 32

/-- The address of a push from data memory at `w`, whose `RS1` stands in bits [25:21]. -/
def Brick.maddr (b : Brick) (w : Nat) : Nat := (b.readX (mA w) + mSext w) % 2 ^ 32

/-- Every data-memory word under `[o, o + n)` passes its check. -/
abbrev Brick.dataClean (b : Brick) (o n : Nat) : Prop := ∀ w ∈ wordsOf o n, b.dataEcc w = .clean

/-- What a row does about the bits inverted in a data-memory word (R153): with none it does `ok`; with one it does the same, the word put
right; with bits that make the word uncorrectable the work item halts and nothing is read or written. -/
def Protected (s : State) (n o len : Nat) (ok : State → Prop) (row : BitVec 72 → Res) : Prop :=
  let b := (s.brick n).arrived
  b.dataClean o len →
    (∃ t, row 0 = .next t ∧ ok t)
    ∧ (∀ k, k < 72 → smWf (fun _ => (0 : Byte)) b.dmem = true → smWf syndDefault b.dsynd = true → row (BitVec.twoPow 72 k) = row 0)
    ∧ (∀ fault, ((b.dataFlip o fault).dataEcc o).bad = true →
        row fault = .next ((s.setBrick n (b.dataFlip o fault)).masonPoison n none))

/-- A load of `len` bytes (Table 5-5, R135, R136, R153): its value from data memory, the Bed or the control space with its
latency, a fault elsewhere or misaligned, a halt on poison. -/
def LoadsAs (s : State) (n w len : Nat) (signed : Bool) (row : BitVec 72 → Res) : Prop :=
  let b := (s.brick n).arrived
  let a := b.eaddr w
  (a % len = 0 → a < 0x10000 →
    Protected s n a len (fun t => t = s.setBrick n (b.result (mA w) (mExtend len signed (leNat (b.data a len))) 3)) row)
  ∧ (a % len = 0 → 0x80000 ≤ a → a < 0x100000 → b.outstanding = [] → b.marks = [] → s.Canonical → ∀ fault,
      (s.anyBad (bedAddr n (a - 0x80000)) len = false →
        ∃ t, row fault = .next t ∧ (∀ x, t.okByte x = s.okByte x)
          ∧ t.brick n = b.result (mA w) (mExtend len signed (leNat (s.okBytes (bedAddr n (a - 0x80000)) len))) 20)
      ∧ (s.anyBad (bedAddr n (a - 0x80000)) len = true → ∃ t, row fault = .next t ∧ (t.brick n).run = none))
  ∧ (a % len = 0 → 0x100000 ≤ a → a < 0x100140 → ∀ fault,
    row fault = .next (s.setBrick n (b.result (mA w)
      (mExtend len signed ((s.setBrick n b).ctrlWord n ((a - 0x100000) / 4 * 4) / 2 ^ (8 * (a % 4)) % 2 ^ (8 * len))) 4)))
  ∧ ((a % len ≠ 0 ∨ (0x10000 ≤ a ∧ a < 0x80000) ∨ 0x100140 ≤ a) → ∀ fault, row fault = .next ((s.setBrick n b).masonFault n a))

/-- A store of `len` bytes (Table 5-5, R135, R143, R153): data memory at once, the Bed 20 cycles later. -/
def StoresAs (s : State) (n w len : Nat) (row : BitVec 72 → Res) : Prop :=
  let b := (s.brick n).arrived
  let a := b.eaddr w
  let v := b.readX (mA w)
  (a % len = 0 → a < 0x10000 → smSorted b.dmem = true →
    Protected s n a len (fun t =>
      (∀ k, k < len → smGet (fun _ => 0) (t.brick n).dmem (a + k) = BitVec.ofNat 8 (v / 256 ^ k))
      ∧ (∀ x, (x < a ∨ a + len ≤ x) → smGet (fun _ => 0) (t.brick n).dmem x = smGet (fun _ => 0) b.dmem x)
      ∧ t = s.setBrick n { b.goesOn (b.pc + 1) 1 with dmem := (t.brick n).dmem }) row)
  ∧ (a % len = 0 → 0x80000 ≤ a → a < 0x100000 → s.Canonical → s.anyBad (bedAddr n (a - 0x80000)) len = false → ∀ fault,
    ∃ t, row fault = .next t ∧ t.br = (s.setBrick n { b.goesOn (b.pc + 1) 1 with jobs := (t.brick n).jobs, bedEnd := max b.bedEnd (b.clk + 20) }).br
      ∧ t.mem = s.mem ∧ t.regs = s.regs
      ∧ (∀ c, c ≤ b.clk + 20 → ∀ x, (t.runTo n c).okByte x = s.okByte x)
      ∧ (t.runTo n (b.clk + 21)).okBytes (bedAddr n (a - 0x80000)) len = leBytes v len
      ∧ ReadsOutside (bedAddr n (a - 0x80000)) len s (t.runTo n (b.clk + 21)))
  ∧ ((a % len ≠ 0 ∨ (0x10000 ≤ a ∧ a < 0x80000) ∨ 0x100000 ≤ a) → ∀ fault, row fault = .next ((s.setBrick n b).masonFault n a))

/-- A conditional branch (Table 5-5, R143). -/
def BranchesAs (s : State) (n w : Nat) (taken : Bool) (r : Res) : Prop :=
  let b := (s.brick n).arrived
  r = .next (s.setBrick n (if taken then b.goesOn (b.pc + mSext w) 3 else b.goesOn (b.pc + 1) 1))

/-! ## What statements about a brick's engines refer to (chapter 4) -/

/-- Engine `e` of brick `n` has instruction `i` at its queue's head, which may issue in cycle `c`; no instruction is under way, and
hazards are only recorded. -/
def State.engineAt (s : State) (n e c : Nat) (i : EIns) (r : BRun) : Prop :=
  smSorted s.br = true ∧ s.head n e c = some i ∧ (s.brick n).run = some r ∧ r.trap = false ∧ r.stopAt = none
    ∧ (s.brick n).jobs = [] ∧ (s.brick n).queues.length = 4 ∧ (s.brick n).banks.length = 2 ∧ (s.brick n).fifos.length = 6
    ∧ (s.brick n).free.length = 4 ∧ (s.brick n).idle.length = 4 ∧ (s.brick n).popped.length = 4

/-- The state with brick `n`'s time at cycle `c`. -/
def State.atCycle (s : State) (n c : Nat) : State := s.setBrick n { s.brick n with now := c }

/-- The instruction at the head of engine `e`'s queue has issued: it is taken, its stream too, and it is under way; memory reads as before. -/
def IssuedAs (n e c : Nat) (i : EIns) (fifos : List (List SDesc)) (s t : State) : Prop :=
  (∃ j, (t.brick n).jobs = [j] ∧ j.ins = i ∧ j.t0 = c) ∧ (t.brick n).queues = (s.brick n).queues.modify e List.tail
    ∧ (t.brick n).popped = (s.brick n).popped.set e c ∧ (t.brick n).fifos = fifos ∧ (t.brick n).acc = (s.brick n).acc
    ∧ t.mem = s.mem ∧ t.synd = s.synd

/-- The instruction is over by cycle `c`: nothing is under way, every byte of memory reads as it did, and the work item goes on. -/
def OverAt (n c : Nat) (s u : State) : Prop :=
  (u.brick n).jobs = [] ∧ (u.brick n).now = c ∧ (∀ a, u.okByte a = s.okByte a) ∧ (u.brick n).run.isSome = true

/-- What an output of an `MVMUL` adds up (R115): its blocks' tree sums, in order, on what it held. -/
def mvOutput (fmt : Nat) (blocks : List (List Byte)) (latch : Nat → Nat) (old : Nat) : Nat :=
  (blocks.zipIdx).foldl (fun a b => mvAdd a (mvBlock fmt b.1 fun e => latch (64 * b.2 + e))) old

/-- The elements that a unit of a `VOP`'s source shows: an accumulator row's, or FP32 or BF16 elements of the Bed. -/
def State.vecElems (s : State) (n src u : Nat) (acc : Bool) : List Nat :=
  let b := s.brick n
  if acc then (if b.accInt.contains u then (b.accAt u).map fun x => encodeNum 7 (intNum 32 x) else b.accAt u)
  else (List.range (if src = 0 then 32 else 64)).map fun k =>
    if src = 1 then fieldB (s.okBytes (bedAddr n u) 256) (4 * k) 4 else convertFmt 5 7 (fieldB (s.okBytes (bedAddr n u) 128) (2 * k) 2)

/-- The second operand of a `VOP`, by row: the position of `ROPE`, the statistics of `NAPPLY`, else the elements. -/
def State.vecSecond (s : State) (n f src count : Nat) (ds : List SDesc) : List (List Nat) :=
  if f = 0x14 then (unitsOf ds).map fun u =>
    [if (ds.headD ⟨0, 0, 0, 0, 0⟩).space = 3 then u else leNat (s.okBytes (bedAddr n u) 4)]
  else if f = 0x13 then (unitsOf ds).map fun u =>
    [fieldB (s.okBytes (bedAddr n u) 8) 0 4, fieldB (s.okBytes (bedAddr n u) 8) 4 4]
  else if rowFunc f then []
  else [((unitsOf ds).flatMap fun u => s.vecElems n src u false).take count]

/-- The scale-table factor of channel `c` of a `VOP`. -/
def Brick.scaled (b : Brick) (w c x : Nat) : Nat :=
  if nbit w 49 then mul32 x (smGet (fun _ => 0) b.scale ((nbits w 47 38 + c) % 1024)) else x

/-- What a `VOP` of function `f` delivers (R117): element functions element by element, row functions row by row. -/
def State.vopDelivers (s : State) (n f w : Nat) (va vb : List SDesc) : List Nat :=
  let b := s.brick n
  let src := vSrc w
  let count := vCount w
  let first := (unitsOf va).flatMap fun u => s.vecElems n src u (src = 0)
  let second := s.vecSecond n f src count vb
  if rowFunc f then
    let rl := fieldB b.pblock 16 2
    let up := (rl + vPer w - 1) / vPer w
    ((rowsOf (up * vPer w) (count / max 1 rl) first).zipIdx).flatMap fun r =>
      vecRow b.pblock f (((r.1.take rl).zipIdx).map fun x => b.scaled w x.2 x.1) (second.getD r.2 [])
  else ((first.take count).zipIdx).map fun x => vecElem f (b.scaled w x.2 x.1) ((second.getD 0 []).getD x.2 0)

/-- The head is a `VOP` of function `f` whose fields and streams are in range and ready (R117, R141). -/
def State.vopReady (s : State) (n f c : Nat) (i : EIns) (va vb restA restB : List SDesc) : Prop :=
  let b := s.brick n
  let w := i.word
  let src := nbits w 51 50
  let count := nbits w 37 22
  let per := if src = 0 then 32 else 64
  let rl := if rowFunc f then fieldB b.pblock 16 2 else count
  let units := (if rowFunc f then count / max 1 rl else 1) * ((rl + per - 1) / per)
  let size := if src = 1 then 256 else 128
  nbits w 63 58 = 6 ∧ nbits w 57 52 = f ∧ src ≠ 3 ∧ nbit w 48 = false ∧ nbits w 21 0 = 0 ∧ count ≠ 0
    ∧ (rowFunc f = true → rl ≠ 0 ∧ rl ≤ 16384 ∧ count % rl = 0)
    ∧ takeStream (b.fifos.getD 2 []) = some (va, restA)
    ∧ (if twoOperand f then takeStream (b.fifos.getD 3 []) else some ([], b.fifos.getD 3 [])) = some (vb, restB)
    ∧ streamOk va (if src = 0 then [1] else [0]) units (if src = 0 then 1 else 64) (if src = 0 then 1 else size) = true
    ∧ (if !twoOperand f then true
       else if f = 0x14 then streamOk vb [0, 3] (count / max 1 rl) 4 4
       else if f = 0x13 then streamOk vb [0] (count / max 1 rl) 8 8
       else streamOk vb [0] units 64 size) = true
    ∧ (va ++ vb).all (fun d => d.ready ≤ c) = true ∧ b.free.getD 2 0 ≤ c ∧ b.idle.getD 2 0 ≤ c

/-- The cycles a `VOP` takes to its last write (Table 5-8). -/
def vopCycles (b : Brick) (f w : Nat) : Nat :=
  let rl := fieldB b.pblock 16 2
  if rowFunc f then vCount w / max 1 rl * rowCycles rl
  else (if 5 ≤ f then 10 else 4) + (vCount w + vPer w - 1) / vPer w - 1

/-- A `VOP` issues, and when it is over its results stand, in order, at the end of the store path's vector queue. -/
def VopRuns (s : State) (n f c : Nat) (i : EIns) (va vb restA restB : List SDesc) (r : Res) : Prop :=
  ∃ t, r = .next t ∧ IssuedAs n 2 c i (((s.brick n).fifos.set 2 restA).set 3 restB) s t
    ∧ (let u := t.runTo n (c + vopCycles (s.brick n) f i.word + 1);
      OverAt n (c + vopCycles (s.brick n) f i.word + 1) s u
        ∧ (u.brick n).vecq.map (·.1) = (s.brick n).vecq.map (·.1) ++ s.vopDelivers n f i.word va vb
        ∧ (u.brick n).acc = (s.brick n).acc)

/-- The patterns of row `k` of a `STORE`'s source, with whether they are INT32. -/
def State.rowTaken (s : State) (n w k : Nat) : List Nat × Bool :=
  let b := s.brick n
  let cols := nbits w 20 15
  if nbits w 57 56 = 0 then
    let r := (nbits w 30 21 + k) % 1024
    (sliceNat (b.accAt r) cols, b.accInt.contains r)
  else if nbits w 57 56 = 1 then (sliceNat (((b.vecq.drop (k * cols)).take cols).map (·.1)) cols, false)
  else (sliceNat (b.rbAt ((nbits w 30 21 + k) % 512)) cols, false)

/-- The bytes a `STORE` without rotary coding writes, by the addresses of its destination stream (R121, Table 8-6). -/
def State.storeBytes (s : State) (n w : Nat) (units : List Nat) (old : Nat → Byte) : List (Nat × Byte) :=
  let fmt := nbits w 55 53
  placedBytes old ((List.range (nbits w 46 31)).flatMap fun k =>
    let row := s.rowTaken n w k
    (row.1.zipIdx).flatMap fun e =>
      let bits := if row.2 then encodeNum fmt (intNum 32 e.1) else if fmt = 7 then e.1 else convertFmt 7 fmt e.1
      (placeElem (nbits w 52 50) fmt (fun u => units.getD u 0) k e.2 bits).split fmt)

/-! ## What statements about queues and commands refer to (chapter 11) -/

/-- Queue `q` admits next the command `c` of opcode `op`, which the queue takes and which, with its parameters put in, is `d`,
its fields in range; where the opcode is charged to BULK, the class has a grant (Table 11-3, steps 1 to 3, R285, R316). -/
abbrev State.accepts (s : State) (p q op : Nat) (c d : Cmd) : Prop :=
  s.admissible p q = some c ∧ c.op = op ∧ queueAccepts q op = true ∧ s.substituted c = some d ∧ d.badFields = false
    ∧ (bulkOp op = true → s.grant p 5 (s.othersWait p 5) ≠ .no)

/-- The cycle-table slot whose grant a command of opcode `op` uses. -/
def State.grantSlot (s : State) (p op : Nat) : Option Nat :=
  match (if bulkOp op then s.grant p 5 (s.othersWait p 5) else Grant.free) with
  | .slot i => some i
  | _ => none

/-- The state after the admission of `d` (R298): it runs, its queue's admission point has moved, and `n` KiB of WORK space are
its own. -/
def State.admitted (s : State) (p op : Nat) (d : Cmd) (n : Nat := 0) : State :=
  let x := (s.takeWork p n).getD ([], s)
  let e : Cmd := { d with units := x.1, slot := s.grantSlot p op, seen := s.sample }
  (x.2.begin_ e).onCmd d.id fun y => { y with units := x.1, slot := e.slot }

/-- The command as it runs. -/
def State.asRun (s : State) (p op : Nat) (d : Cmd) (n : Nat := 0) : Cmd :=
  { d with units := ((s.takeWork p n).getD ([], s)).1, slot := s.grantSlot p op, seen := s.sample, phase := 1 }

/-- No two commands have one number, and the numbers to come are new. -/
abbrev State.cmdsApart (s : State) : Prop := (s.qu.cmds.map Cmd.id).Nodup ∧ ∀ c ∈ s.qu.cmds, c.id < s.qu.nextId

/-- A command of its own queue that no other device still answers and that has no status yet. -/
abbrev Cmd.plain (d : Cmd) : Prop := d.replay = none ∧ d.acks = 0 ∧ d.status = 0 ∧ d.lost = 0

/-- The record of a plain command that ends with a status and a result (Table 11-5, R305 to R307, R322). -/
def Cmd.doneRecord (d : Cmd) (status result : Nat) : Rec :=
  { part := d.part, ring := if d.hdr 50 50 = 1 then 7 else d.queue, origin := d.queue, tag := d.hdr 47 32, opcode := d.op
    flags := 0, status := status, result := result, irq := d.hdr 52 52 = 1, quiet := status = 0 && d.hdr 51 51 = 1
    parks := status ≠ 0 && status ≠ 0x0108 && d.hdr 55 55 = 1, cmd := some d.id }

/-- The command `d` has been admitted and has ended with a status and a result: it is done, its record waits, its queue's
admission point has moved, and every other command stands as before. -/
def CmdDone (d : Cmd) (status result : Nat) (s t : State) : Prop :=
  t.qu.recs = s.qu.recs ++ [d.doneRecord status result]
    ∧ (∃ e, t.cmdOf d.id = some e ∧ e.phase = 2 ∧ e.status = status ∧ e.result = result)
    ∧ (∀ id, id ≠ d.id → t.cmdOf id = s.cmdOf id) ∧ t.qu.nextId = s.qu.nextId ∧ t.qu.reserved = s.qu.reserved
    ∧ t.getF F.PRT_QADMIT_INDEX d.part d.queue = (s.getF F.PRT_QADMIT_INDEX d.part d.queue + 1) % 65536

/-! ## What statements about tensors refer to (chapter 8) -/

/-- The descriptor at the global address `addr` is one of this device that partition `p` may read, in range, without owner table
and row-major with elements of whole bytes, and the memory it names is this device's: `x` is its tensor. -/
abbrev State.rowTensor (s : State) (p addr : Nat) (x : Tensor) : Prop :=
  devOf addr = s.dv.devNum ∧ addr / 2 ^ 44 % 256 = 0 ∧ s.rangeStatus (.part p) false (localOf addr) 64 = 0 ∧ s.anyBad (localOf addr) 64 = false
    ∧ x = ⟨readDesc (s.okBytes (localOf addr) 64), []⟩ ∧ s.descBad x.d = false ∧ x.d.owned = false ∧ x.d.layout = 0
    ∧ x.d.bits % 8 = 0 ∧ (∀ f ∈ x.allFootprints, devOf f.1 = s.dv.devNum ∧ localOf f.1 + f.2 ≤ 2 ^ 44)

/-- Every byte of this device's memory outside a tensor reads, corrected, as before. -/
def ReadsOutsideOf (x : Tensor) (s t : State) : Prop :=
  ∀ a, (∀ f ∈ x.allFootprints, a < localOf f.1 ∨ localOf f.1 + f.2 ≤ a) → t.okByte a = s.okByte a

/-- Nothing under a tensor reads as poisoned. -/
abbrev State.cleanUnder (s : State) (x : Tensor) : Prop := ∀ f ∈ x.allFootprints, s.anyBad (localOf f.1) f.2 = false

/-! ## What statements about sequences refer to (chapter 7) -/

/-- A SEQ_EDIT of a kind that changes only its entry, by `f`: its command is admitted, checked, applied at once or made to wait, or
refused with the first code that applies (R217, Tables 7-6 and 11-9). -/
def EditRuns (s : State) (p q kind : Nat) (f : Cmd → Seq → Seq) (r : Res) : Prop :=
  ∀ c d n, s.accepts p q 0x0A c d → s.resumed p q 0x0A = none → s.cmdsApart → s.Canonical → c.part = p → c.queue = q → c.plain →
    s.bk.merge = [] → smSorted s.sv.seqs = true → d.hdr 23 20 = kind → d.hdr 12 0 = n →
    (s.editStatus p d = 0 → s.inStep n = false → s.editWaits n = false →
      ∃ t, r = .next t ∧ CmdDone d 0 0 s t ∧ t.seq n = f d (s.seq n) ∧ (∀ m, m ≠ n → t.seq m = s.seq m)
        ∧ (∀ a, t.okByte a = s.okByte a) ∧ t.sv.edits = s.sv.edits)
    ∧ (s.editStatus p d = 0 → (s.inStep n = true ∨ s.editWaits n = true) →
      ∃ t, r = .next t ∧ t.sv = { s.sv with edits := s.sv.edits ++ [⟨d.id, n⟩] } ∧ t.qu.recs = s.qu.recs ∧ t.mem = s.mem)
    ∧ (s.editStatus p d ≠ 0 → ∃ t, r = .next t ∧ CmdDone d (s.editStatus p d) 0 s t ∧ t.sv = s.sv ∧ t.mem = s.mem)

/-- The hash of the last of the first `k` blocks of a history, from zero (R211). -/
def State.hashChain (s : State) (e : Seq) (k : Nat) : List Byte :=
  (List.range k).foldl (fun h b => match s.blockHash e b h with
    | .ok x => x
    | .error _ => h) (List.replicate 16 0)

/-! ## What statements about walks refer to (chapter 6) -/

/-- The key of a layer's things in its step's space, for the k-th work and a pass. -/
def walkKey (k pass layer : Nat) : SKey := (k, decide (pass ≠ 0), layer)

/-- Where the words of a layer's snapshot stand. -/
def State.snapshotAt (s : State) (x : StepRun) (k pass layer : Nat) : List Nat :=
  ((atKey (s.spaceMap x.works).snaps (walkKey k pass layer)).getD []).map (spaceAt x.units)

/-- The walk that the k-th work of a step begins for a layer of a pass, over the pages of its snapshot. -/
def State.newWalk (s : State) (x : StepRun) (k : Nat) (w : SWork) (pass layer hod : Nat) : Walk :=
  let pages := (s.snapshotAt x k pass layer).map fun a => leNat (s.okBytes a 4)
  { s.walkAt x.part x.num w.seq k pass layer ((s.seq w.seq).slotOf pass) (w.walkRange pass).1 (w.walkRange pass).2
      (if pass = 0 then w.places else w.dplaces)
      ((pages.zipIdx).map fun p => ((if pass = 0 then w.low else w.dlow) + p.2, p.1)) with hod := hod }

/-- A walk of a work of an admitted step may begin now, on an engine (R174). -/
abbrev State.walkMay (s : State) (x : StepRun) (w : SWork) (pass layer hod : Nat) : Prop :=
  s.engineFor x.part (w.bucket pass) = some hod ∧ s.walkReady x w pass layer = true ∧ s.longerWaits x (w.bucket pass) = false

/-- No group and no descriptor is of a walk of this number. -/
abbrev State.unwalked (s : State) (id : Nat) : Prop :=
  (∀ e ∈ s.bk.groups, e.2.tag.map WalkTag.walk ≠ some id) ∧ (∀ e ∈ s.bk.waiting, e.2.tag.map WalkTag.walk ≠ some id)
    ∧ ∀ e ∈ s.bk.lists, ∀ d ∈ e.2, d.tag.map WalkTag.walk ≠ some id

/-! ## What statements about the host links refer to (chapter 12) -/

/-- Host link `l` carries transactions, nothing waits to be sent on it, and the host may send any of them. -/
abbrev State.hostOpen (s : State) (l : Nat) : Prop :=
  let x := s.hlink l
  s.hostTakes l = true ∧ x.toSend = [] ∧ x.replay.length ≤ 254 ∧ 1 ≤ x.rq ∧ x.rq ≤ 512 ∧ 1 ≤ x.pw ∧ x.pw ≤ 512 ∧ 4 ≤ x.data
    ∧ x.data ≤ 2048

/-- Link `l` has sent `o`, whose request's credits are back; everything but the links' state and what has left is as before. -/
def Answered (l : Nat) (o : Out) (s t : State) : Prop :=
  o ∈ t.out ∧ (t.hlink l).rq = (s.hlink l).rq ∧ (t.hlink l).pw = (s.hlink l).pw ∧ (t.hlink l).data = (s.hlink l).data
    ∧ (t.hlink l).tids = (s.hlink l).tids ∧ t.hlink (1 - l) = s.hlink (1 - l)

/-! ## What statements about Keystone's messages refer to (chapters 18 and 19) -/

/-- A Keystone request `m` of a type stands at the head of channel 0, which is served, Keystone is not paused, and it names exchange slot `k`. -/
abbrev State.ksAt (s : State) (type : Nat) (m : Msg) (k : Nat) : Prop :=
  s.h2fPeek 0 = some m ∧ fieldB m 0 2 = type ∧ s.dutyServed 5 = true ∧ s.serving0 = true ∧ s.keystonePaused = false ∧ fieldB m 16 1 = k

/-- The slot exists and is not busy, and the `n` bytes read from it are clean. -/
abbrev State.ksSlot (s : State) (k n : Nat) : Prop :=
  k < 4 ∧ s.slotBusy k = false ∧ ∀ w ∈ wordsOf (s.slotAt k) n, s.ecc w = .clean

/-! ## Runs -/

/-- The block goes on from here: its next step neither faults nor refuses. -/
def State.goesOn (s : State) : Prop := ∃ t, step s = .next t

/-- A run of `k` steps that never stops. -/
def State.safeRun (s : State) (k : Nat) : Prop := ∃ t, Sys2Proof.core.run k s = .next t

end Sys2Proof.Machine
end

