-- ==== Sys2Proof/Certificates/Slice0/Obligations.lean ====
section
/-! DEFINITION. The statements about the block, for the provers: each docstring names the rules of spec/ it formalises. -/

open Sys2Proof Sys2Proof.Machine

/-- Power-up, the coolant hold and the pins that only note a level. Formalises R18 (Table 1-3), R22 (Table 1-5), R437 and the
rising edges of R21 and R445. Completes: powerUp, coolantHoldRelease, vinPrsntMate, coldResetNRise. -/
def Obligations.PowerUpRuns : Prop :=
  (∀ s vin flow tInlet, 1950 ≤ vin → s.pw.vinPrsnt = true → s.railsUp = false → 40 ≤ flow → tInlet ≤ 96 →
    ∃ t, exec (.powerUp vin flow tInlet) s = .next t ∧ t.pw.pwrState = 2 ∧ t.pw.pwrGood = true ∧ t.pw.svc3v3 = true
      ∧ t.pw.pwrEn = true ∧ t.pw.vin = min vin 4095 ∧ t.pw.flow = min flow 255 ∧ t.pw.tInlet = tInlet ∧ t.pw.cause = s.pw.cause
      ∧ t = { s with pw := t.pw, dv := { s.dv with st := .boot } })
  ∧ (∀ s vin flow tInlet, 1950 ≤ vin → s.pw.vinPrsnt = true → s.railsUp = false → (flow < 40 ∨ 96 < tInlet) →
    ∃ t, exec (.powerUp vin flow tInlet) s = .next t ∧ t.pw.pwrState = 1 ∧ t.pw.pwrGood = s.pw.pwrGood
      ∧ t = { s with pw := t.pw })
  ∧ (∀ s vin flow tInlet, 1500 ≤ vin → vin < 1950 → s.pw.vinPrsnt = true → s.railsUp = false →
    ∃ t, exec (.powerUp vin flow tInlet) s = .next t ∧ t.pw.pwrEn = true ∧ t.pw.vin = vin ∧ t.pw.pwrState = s.pw.pwrState
      ∧ t = { s with pw := t.pw })
  ∧ (∀ s flow tInlet, s.pw.pwrState = 1 → 40 ≤ flow → tInlet ≤ 96 →
    ∃ t, exec (.coolantHoldRelease flow tInlet) s = .next t ∧ t.pw.pwrState = 2 ∧ t.pw.pwrGood = true ∧ t.pw.svc3v3 = true
      ∧ t.pw.flow = min flow 255 ∧ t.pw.tInlet = tInlet ∧ t = { s with pw := t.pw, dv := { s.dv with st := .boot } })
  ∧ (∀ s, exec .vinPrsntMate s = .next { s with pw := { s.pw with vinPrsnt := true } })
  ∧ (∀ s, exec .coldResetNRise s = .next { s with pw := { s.pw with coldResetN := true } })

/-- Every shutdown trips the sequencer with its cause and loses all volatile state. Formalises the shutdowns of R18, R20, R22,
R27, R31 and R494 with what R19 and R26 leave; VIN_PRSNT_OPEN as log entry 2 reads R21. Completes: inputLossShutdown,
overvoltageShutdown, powerLimitShutdown, emergOff, referenceLost, coolantShutdown, thermalTrip, vinPrsntOpen. -/
def Obligations.ShutdownsTrip : Prop :=
  ∀ s : State, s.railsUp = true →
    (∀ vin us, vin < 1850 → 20 ≤ us → ∃ t, exec (.inputLossShutdown vin us) s = .next t ∧ ShutDown 1 s t ∧ t.pw.vin = vin)
    ∧ (∀ vin us, 3000 < vin → 20 ≤ us → ∃ t, exec (.overvoltageShutdown vin us) s = .next t ∧ ShutDown 2 s t ∧ t.pw.vin = vin)
    ∧ (∀ w, 6800 < w → ∃ t, exec (.powerLimitShutdown w) s = .next t ∧ ShutDown 3 s t ∧ t.pw.pin = min (w / 2) 4095)
    ∧ (∀ us, 1 ≤ us → ∃ t, exec (.emergOff us) s = .next t ∧ ShutDown 4 s t)
    ∧ (∀ stopped ppm us, (stopped = true ∨ 1000 < ppm) → 2 ≤ us →
        ∃ t, exec (.referenceLost stopped ppm us) s = .next t ∧ ShutDown 5 s t)
    ∧ (∀ flow tInlet ms, s.pw.pwrState = 2 → (flow < 40 ∨ 96 < tInlet) → 100 ≤ ms →
        ∃ t, exec (.coolantShutdown flow tInlet ms) s = .next t ∧ ShutDown 6 s t ∧ t.pw.flow = min flow 255)
    ∧ (∀ region now, s.regionPresent region = true → s.readingAtLeast region (tripAt region) = true →
          (s.at now).heldFor region 4 1000000 = true →
        ∃ t, exec (.thermalTrip region now) s = .next t ∧ ShutDown 7 s t)
    ∧ (∃ t, exec .vinPrsntOpen s = .next t ∧ ShutDown 1 s t ∧ t.pw.vinPrsnt = false)

/-- Loss of the reference shuts the device down. Formalises R31. Completes: referenceLost. -/
def Obligations.ReferenceStopShutsDown : Prop :=
  (∀ s : State, s.railsUp = true → ∀ stopped ppm us, (stopped = true ∨ 1000 < ppm) → 2 ≤ us →
    exec (.referenceLost stopped ppm us) s = .next (s.shutdown 0x05))
  ∧ (∀ (s : State) cause, ShutDown cause s (s.shutdown cause))
  ∧ (∀ (s : State) stopped ppm us, (stopped = false ∧ ppm ≤ 1000) ∨ us < 2 → exec (.referenceLost stopped ppm us) s = .next s)

/-- Cold reset, power-off, the power status word and test access. Formalises R445, R27, R18, R29 (Table 1-8), R20 (the sample
below the clamp limit) and R28. Completes: coldReset, pwrEnFall, inputBelow30V, powerStatusRead, inputPowerSample,
tapInstruction. -/
def Obligations.SequencerAnswers : Prop :=
  (∀ (s : State) byPin us, s.pw.pwrState = 2 → s.dv.st ≠ .off → s.pw.pwrEn = true →
      (if byPin then 1 ≤ us else s.dutyServed 0 = true) →
    ∃ t, exec (.coldReset byPin us) s = .next t ∧ t.dv.st = .boot ∧ t.dv.identity = s.dv.identity ∧ t.dv.arb = s.dv.arb
      ∧ t.regs = [] ∧ t.mem = [] ∧ t.synd = [] ∧ t.qu = {} ∧ t.sv = {} ∧ t.ks = {} ∧ t.ftg = s.ftg.afterPowerLoss
      ∧ t.pw.word = s.pw.word ∧ t.pw.pwrState = 2 ∧ t.pending = s.pending)
  ∧ (∀ s : State, s.railsUp = true → ∃ t, exec .pwrEnFall s = .next t ∧ t.pw.pwrState = 0 ∧ t.pw.cause = 0
      ∧ t.pw.thermTripN = true ∧ t.pw.pwrEn = false ∧ t.dv.st = .off ∧ t.regs = [] ∧ t.mem = [] ∧ t.ftg = s.ftg.afterPowerLoss)
  ∧ (∀ (s : State) vin, vin < 1500 → ∃ t, exec (.inputBelow30V vin) s = .next t ∧ t.pw.pwrState = 0 ∧ t.pw.cause = 0
      ∧ t.pw.vin = vin ∧ t.dv.st = .off ∧ t.regs = [] ∧ t.mem = [] ∧ t.ftg = s.ftg.afterPowerLoss)
  ∧ (∀ (s : State) addr, s.pw.pwrEn = true → 1500 ≤ s.pw.vin →
      addr = 0x60 + 2 * (if s.pw.smbAddr1 then 1 else 0) + (if s.pw.smbAddr0 then 1 else 0) →
    exec (.powerStatusRead addr 0) s = .next { s with
      pw := { s.pw with wordChanged := false }, out := s.out ++ [.smbus s.pw.word] })
  ∧ (∀ (s : State) w1us w1ms vin flow tInlet now, s.pw.pwrEn = true → 1500 ≤ vin → w1us ≤ 6500 →
    ∃ t, exec (.inputPowerSample w1us w1ms vin flow tInlet now) s = .next t
      ∧ t.pw = { s.pw with pin := min (w1ms / 2) 4095, vin := min vin 4095, flow := min flow 255, tInlet := min tInlet 255 }
      ∧ t = { s.at now with pw := t.pw, kl := t.kl } ∧ t.kl = { s.kl with since := t.kl.since })
  ∧ (∀ s : State, s.pw.pwrState = 2 → exec (.tapInstruction true) s = .next { s with out := s.out ++ [.tap false] })
  ∧ (∀ s : State, s.pw.pwrState = 2 → s.flag F.KST_STATE_DEBUG = false →
      exec (.tapInstruction false) s = .next { s with out := s.out ++ [.tap true] })
  ∧ (∀ s : State, s.pw.pwrState = 2 → s.flag F.KST_STATE_DEBUG = true →
      exec (.tapInstruction false) s = .refused .testAccessUnspecified)

/-- A sensor sample is recorded and its region acts on it. Formalises R487, the onsets of R489 and R493, and R73. Completes:
sensorSample, stackHotEnd. -/
def Obligations.SensorsAct : Prop :=
  (∀ (s : State) n temp now, s.Canonical → n < 2128 → s.regionPresent (sensorRegion n) = true → s.dv.st ≠ .off →
    ∃ t, exec (.sensorSample n temp now) s = .next t ∧ (t.sensor n).temp = temp ∧ (t.sensor n).present = true
      ∧ t.now = max s.now now
      ∧ (∀ u, t.regionReading (sensorRegion n) = some u →
          (nearAt (sensorRegion n) ≤ u → t.bit F.KLN_NEAR_REGION (sensorRegion n) = true)
          ∧ (clampAt (sensorRegion n) ≤ u → t.bit F.KLN_CLAMP_ACTIVE (sensorRegion n) = true))
      ∧ t = { s with now := t.now, pw := t.pw, regs := t.regs, kl := t.kl, ln := t.ln, out := t.out })
  ∧ (∀ (s : State) st now, s.Canonical → st < 16 → s.readingAtMost (8 + st) 332 = true →
    ((s.at now).heldFor (8 + st) 1 100000000 = true →
      ∃ t, exec (.stackHotEnd st now) s = .next t ∧ t.flag F.STK_STATE_HOT st = false
        ∧ RegsKeep [regKey F.STK_STATE_HOT.addr st 0] s t ∧ t = { s.at now with regs := t.regs })
    ∧ ((s.at now).heldFor (8 + st) 1 100000000 = false → exec (.stackHotEnd st now) s = .next (s.at now)))

/-- Enforcement after the grace, its further steps and the power budget. Formalises R489, R491 and R492, with R22 and R18 for
what the samples permit. Completes: thermalGraceEnd, enforcementStep, nearEnd, powerBudgetSample, powerCeilingStep. -/
def Obligations.EnforcementActs : Prop :=
  ∀ s : State, s.Canonical → ∀ now : Nat,
    (∀ r start, (r, start) ∈ s.kl.grace → start + 50000000 ≤ max s.now now → r < 28 → s.readingAtMost r (nearAt r - 12) = true →
      ∃ t, exec (.thermalGraceEnd r now) s = .next t ∧ (∀ x, (r, x) ∉ t.kl.grace) ∧ r ∈ t.kl.spared
        ∧ t = { s.at now with kl := t.kl })
    ∧ (∀ r start, (r, start) ∈ s.kl.grace → start + 50000000 ≤ max s.now now → r < 28 → s.readingAtMost r (nearAt r - 12) = false →
      ∃ t, exec (.thermalGraceEnd r now) s = .next t ∧ (∀ x, (r, x) ∉ t.kl.grace) ∧ t.bit F.KLN_ENF_REGION r = true
        ∧ (∀ d ∈ regionDies r, t.getF (F.KLN_CLK_CEIL_MHZ.nth d) =
            if s.getF (F.KLN_CLK_CEIL_MHZ.nth d) ≤ 1000 then s.getF (F.KLN_CLK_CEIL_MHZ.nth d)
            else max 1000 (s.getF (F.KLN_CLK_CEIL_MHZ.nth d) - 200))
        ∧ RegsBut ([A.KLN_ENF, A.KLN_STK_LEVEL] ++ clkAddrs ++ errAddrs .kln) s t
        ∧ t = { s.at now with regs := t.regs, kl := t.kl, ln := t.ln, out := t.out })
    ∧ (∀ r, (∀ start, (r, start) ∈ s.kl.grace → max s.now now < start + 50000000) → exec (.thermalGraceEnd r now) s = .next (s.at now))
    ∧ (∀ r, r < 28 → s.bit F.KLN_ENF_REGION r = true → s.readingAtLeast r 380 = true → (s.at now).heldFor r 5 10000000 = true →
      ∃ t, exec (.enforcementStep r now) s = .next t
        ∧ (∀ d ∈ regionDies r, t.getF (F.KLN_CLK_CEIL_MHZ.nth d) =
            if s.getF (F.KLN_CLK_CEIL_MHZ.nth d) ≤ 1000 then s.getF (F.KLN_CLK_CEIL_MHZ.nth d)
            else max 1000 (s.getF (F.KLN_CLK_CEIL_MHZ.nth d) - 100))
        ∧ RegsBut clkAddrs s t ∧ t = { s.at now with regs := t.regs, kl := t.kl } ∧ t.heldFor r 5 1 = false)
    ∧ (∀ r, r < 29 → s.bit F.KLN_NEAR_REGION r = true →
        (if r = 28 then s.powerCalm = true else s.readingAtMost r (nearAt r - 12) = true) → (s.at now).heldFor r 2 100000000 = true →
      ∃ t, exec (.nearEnd r now) s = .next t ∧ t.bit F.KLN_NEAR_REGION r = false ∧ t.bit F.KLN_ENF_REGION r = false
        ∧ (∀ x, (r, x) ∉ t.kl.grace) ∧ RegsBut [A.KLN_NEAR, A.KLN_ENF] s t ∧ t = { s.at now with regs := t.regs, kl := t.kl })
    ∧ (∀ w vin flow tInlet,
      let p := ((s.at now).senseInput vin flow tInlet).permitted
      ∃ t, exec (.powerBudgetSample w vin flow tInlet now) s = .next t ∧ t.getF F.KLN_PIN_W10 = w / 10 % 65536
        ∧ t.getF F.KLN_PERMIT_W10 = p / 10 ∧ t.kl.p10 = w ∧ t.pw.vin = min vin 4095 ∧ t.pw.flow = min flow 255
        ∧ t.pw.tInlet = min tInlet 255
        ∧ (97 * p ≤ w * 100 → t.bit F.KLN_NEAR_REGION 28 = true)
        ∧ (105 * p < w * 100 → t.bit F.KLN_ENF_REGION 28 = true)
        ∧ t = { s.at now with pw := t.pw, regs := t.regs, kl := t.kl, ln := t.ln, out := t.out })
    ∧ (s.bit F.KLN_ENF_REGION 28 = true → s.powerCalm = false → 1000 < s.getF F.KLN_POWER_CEIL_MHZ →
        (s.at now).heldFor 28 5 1000000 = true →
      ∃ t, exec (.powerCeilingStep now) s = .next t ∧ t.getF F.KLN_POWER_CEIL_MHZ = max 1000 (s.getF F.KLN_POWER_CEIL_MHZ - 100)
        ∧ RegsBut (A.KLN_POWER_CEIL :: clkAddrs) s t ∧ t = { s.at now with regs := t.regs, kl := t.kl })

/-- The hardware clamps, the ramp after them, the host requests and the energy profile. Formalises R20 (the clamp), R493, R490
and R500. Completes: inputPowerSample, clampRelease, clockRampStep, throttleReq, throttleAck, epWindowEnd. -/
def Obligations.ClampsAndRequests : Prop :=
  ∀ s : State, s.Canonical →
    (∀ w1us w1ms vin flow tInlet now, s.pw.pwrEn = true → 1500 ≤ vin → s.railsUp = true → 6500 < w1us →
        s.bit F.KLN_CLAMP_ACTIVE 28 = false →
      ∃ t, exec (.inputPowerSample w1us w1ms vin flow tInlet now) s = .next t ∧ t.bit F.KLN_CLAMP_ACTIVE 28 = true
        ∧ t.pw.pin = min (w1ms / 2) 4095 ∧ ∀ d, d < 8 → t.getF (F.KLN_CLK_CUR_MHZ.nth d) ≤ 1000)
    ∧ (∀ r now, r < 29 → s.bit F.KLN_CLAMP_ACTIVE r = true →
        (if r = 28 then (s.at now).heldFor 28 3 1000000 = true
         else s.readingAtMost r (clampAt r - 20) = true ∧ (s.at now).heldFor r 3 10000000 = true) →
      ∃ t, exec (.clampRelease r now) s = .next t ∧ t.bit F.KLN_CLAMP_ACTIVE r = false
        ∧ (∀ k, k < 29 → k ≠ r → t.bit F.KLN_CLAMP_ACTIVE k = s.bit F.KLN_CLAMP_ACTIVE k)
        ∧ RegsBut (A.KLN_CLAMP :: clkAddrs) s t ∧ t = { s.at now with regs := t.regs, kl := t.kl })
    ∧ (∀ d now, d < 8 → smGet (fun _ => 0) s.kl.ramp d ≠ 0 → s.dieClamped d = false → (s.at now).heldFor (32 + d) 5 100000 = true →
      ∃ t, exec (.clockRampStep d now) s = .next t ∧ t.getF (F.KLN_CLK_CUR_MHZ.nth d) ≤ smGet (fun _ => 0) s.kl.ramp d + 100
        ∧ RegsKeep [regKey (F.KLN_CLK_CUR_MHZ.nth d).addr 0 0] s t ∧ t = { s.at now with regs := t.regs, kl := t.kl })
    ∧ (∀ r amount now, r ∈ s.kl.asked → s.dutyServed 3 = true →
      ∃ t, exec (.throttleReq r amount now) s = .next t ∧ t.getF F.KLN_REQ_NUMBER = (s.getF F.KLN_REQ_NUMBER + 1) % 65536
        ∧ t.kl = { s.kl with asked := s.kl.asked.filter (· ≠ r) })
    ∧ (∀ chan m, s.h2fPeek chan = some m → fieldB m 0 2 = 0x0011 → s.dutyServed 6 = true →
      ∃ t, exec (.throttleAck chan) s = .next t ∧ t.getF F.KLN_ACKED_NUMBER = max (s.getF F.KLN_ACKED_NUMBER) (fieldB m 16 2)
        ∧ t.kl = s.kl)
    ∧ (∀ mJ, s.flag F.KLN_EP_CTRL_EP_ENABLE = true → s.dutyServed 3 = true →
      ∃ t, exec (.epWindowEnd mJ) s = .next t ∧ t.getF F.KLN_EP_TOKENS_COUNT = s.kl.epTokens % 2 ^ 32 ∧ t.kl.epTokens = 0
        ∧ (s.kl.epTokens = 0 → t.getF F.KLN_EP_CEIL_MHZ = s.getF F.KLN_EP_CEIL_MHZ)
        ∧ (s.kl.epTokens ≠ 0 → s.getF F.KLN_EP_TARGET_TARGET_MJ ≠ 0 →
            s.getF F.KLN_EP_TARGET_TARGET_MJ * s.kl.epTokens < mJ → s.getF F.KLN_EP_FLOOR_FLOOR_MHZ < s.getF F.KLN_EP_CEIL_MHZ →
          t.getF F.KLN_EP_CEIL_MHZ = max (s.getF F.KLN_EP_FLOOR_FLOOR_MHZ) (s.getF F.KLN_EP_CEIL_MHZ - 50))
        ∧ (s.kl.epTokens ≠ 0 → s.getF F.KLN_EP_TARGET_TARGET_MJ ≠ 0 →
            mJ * 100 < 90 * s.getF F.KLN_EP_TARGET_TARGET_MJ * s.kl.epTokens →
          t.getF F.KLN_EP_CEIL_MHZ = min 2000 (s.getF F.KLN_EP_CEIL_MHZ + 50))
        ∧ RegsBut ([A.KLN_EP_TOKENS, A.KLN_EP_MEASURED, A.KLN_EP_CEIL] ++ clkAddrs) s t
        ∧ t = { s with regs := t.regs, kl := t.kl })

/-- What stops a register access leaves every register as it was. Formalises R35, R37, R39 and R53 for REGISTER_WRITE.
Completes: registerWrite. -/
def Obligations.AccessesAreChecked : Prop :=
  (∀ (s : State) req addr len data, s.regGate req addr len true = none → exec (.registerWrite req addr len data) s = .next s)
  ∧ (∀ (s : State) req addr len data c, s.regGate req addr len true = some c → c ≠ 0 →
      exec (.registerWrite req addr len data) s = .next (s.replied req c))
  ∧ (∀ (s : State) c addr len data, s.reachesRegs (.trowel c) = true → blkOfPage (addr / 0x1000) = none →
      exec (.registerWrite (.trowel c) addr len data) s = .next (s.replied (.trowel c) 0x0304))
  ∧ (∀ (s : State) c addr len data, s.reachesRegs (.trowel c) = true → addr < 2 ^ 28 →
      (blkOfPage (addr / 0x1000)).isSome = true → ¬ (len = 4 ∧ addr % 4 = 0) → ¬ (len = 8 ∧ addr % 8 = 0) →
      exec (.registerWrite (.trowel c) addr len data) s = .next (s.replied (.trowel c) 0x0702))
  ∧ (∀ (s : State) req addr data, s.regGate req addr 4 true = some 0 → s.lockedFor req (addr / 0x1000) = true →
      addr % 0x1000 ≠ 0x18 → exec (.registerWrite req addr 4 data) s = .next (s.replied req 0x0703))

/-- An error sets its cause, captures the first address and overflows after that. Formalises R45. -/
def Obligations.ErrorsAreRecorded : Prop :=
  ∀ (s : State) (b : Blk) (i cause : Nat) (addr : Option Nat), s.Canonical → i < 0x4000 → cause < 31 →
    (s.err b i cause addr).bit (hdrF b 0x10 30 0) cause i = true
    ∧ (∀ k, k < 31 → k ≠ cause → (s.err b i cause addr).bit (hdrF b 0x10 30 0) k i = s.bit (hdrF b 0x10 30 0) k i)
    ∧ (∀ a, addr = some a → s.flag (hdrF b 0x24 31 31) i = false →
        (s.err b i cause addr).flag (hdrF b 0x24 31 31) i = true
        ∧ (s.err b i cause addr).getF (hdrF b 0x24 30 24) i = cause
        ∧ (s.err b i cause addr).getF (hdrF b 0x24 23 12) i = devOf a
        ∧ (s.err b i cause addr).getF (hdrF b 0x24 11 0) i = a / 2 ^ 32 % 0x1000
        ∧ (s.err b i cause addr).getF (hdrF b 0x20 31 0) i = a % 2 ^ 32
        ∧ (s.err b i cause addr).flag (hdrF b 0x10 31 31) i = s.flag (hdrF b 0x10 31 31) i)
    ∧ (s.flag (hdrF b 0x24 31 31) i = true →
        (s.err b i cause addr).flag (hdrF b 0x10 31 31) i = true
        ∧ (s.err b i cause addr).reg (hdrAddr b 0x24) i = s.reg (hdrAddr b 0x24) i
        ∧ (s.err b i cause addr).reg (hdrAddr b 0x20) i = s.reg (hdrAddr b 0x20) i)
    ∧ (s.err b i cause addr).reg (hdrAddr b 0x14) i = s.reg (hdrAddr b 0x14) i
    ∧ RegsBut (errAddrs b) s (s.err b i cause addr)

/-- A select value at or above the instance count shows nothing. Formalises R51. -/
def Obligations.AbsentSelectionShowsNothing : Prop :=
  (∀ (s : State) (b : Blk) req v, s.Canonical → b.insts ≠ 1 → (s.selWrite b req v).sel b req = v % 65536)
  ∧ (∀ (s : State) (b : Blk) req addr v, blkOfPage (addr / 0x1000) = some b → pageSelected b (addr / 0x1000) = true →
      b.insts ≤ s.sel b req → addr % 0x1000 ≠ 0x18 → s.shown req addr = 0 ∧ s.putReg req addr v = (0, s)
        ∧ (s.takeReg req addr false).2 = s)

/-- Select, error-clear, lock and quiesce writes, and plain registers. Formalises R50, R46, R52, Table 2-5 of R43 and Table
2-1 of R40. Completes: blkSelWrite, blkErrClear, lockSet, quiesce, registerWrite, readClear. -/
def Obligations.HeaderWritesActOnTheirInstance : Prop :=
  (∀ (s : State) req page (v : Word) b, s.Canonical → s.regGate req (page * 0x1000 + 0x18) 4 true = some 0 →
      blkOfPage page = some b → b.insts ≠ 1 →
    ∃ t, exec (.blkSelWrite req page v) s = .next t ∧ t.sel b req = v.toNat % 65536
      ∧ RegsKeep [regKey (hdrAddr b 0x18) 0 (reqCode req)] s t
      ∧ t = { s with regs := t.regs, out := s.out ++ [.regReply req 0 0] })
  ∧ (∀ (s : State) req page (v : Word) b i, s.Canonical → s.grants req (page * 0x1000 + 0x10) → blkOfPage page = some b →
      s.hdrInst b page req = some i →
    ∃ t, exec (.blkErrClear req page v) s = .next t
      ∧ (∀ k, k < 32 → nbit (t.reg (hdrAddr b 0x10) i).toNat k = (nbit (s.reg (hdrAddr b 0x10) i).toNat k && !nbit v.toNat k))
      ∧ t.flag (hdrF b 0x24 31 31) i = (s.flag (hdrF b 0x24 31 31) i && decide (t.reg (hdrAddr b 0x10) i ≠ 0#32))
      ∧ RegsKeep [regKey (hdrAddr b 0x10) i 0, regKey (hdrAddr b 0x24) i 0] s t
      ∧ t = { s with regs := t.regs, out := s.out ++ [.regReply req 0 0] })
  ∧ (∀ (s : State) page (v : Word) b i, s.Canonical → s.regGate .keystone (page * 0x1000 + 0x1C) 4 true = some 0 →
      blkOfPage page = some b → s.hdrInst b page .keystone = some i →
    ∃ t, exec (.lockSet page v) s = .next t
      ∧ (∀ k, k < 2 → (nbit v.toNat k = true ∨ s.bit ⟨page * 0x1000 + 0x1C, 1, 0⟩ k (if pageSelected b page then i else 0) = true) →
          t.bit ⟨page * 0x1000 + 0x1C, 1, 0⟩ k (if pageSelected b page then i else 0) = true)
      ∧ RegsKeep [regKey (page * 0x1000 + 0x1C) (if pageSelected b page then i else 0) 0] s t
      ∧ t = { s with regs := t.regs, out := s.out ++ [.regReply .keystone 0 0] })
  ∧ (∀ (s : State) req page (v : Word) b i, s.Canonical → s.grants req (page * 0x1000 + 8) → mayWrite req page = true →
      blkOfPage page = some b → s.hdrInst b page req = some i → plainHeader b = false → b ≠ .seq → b ≠ .prt → i ≠ blockWide →
      nbit v.toNat 31 = false → (nbit v.toNat 0 = true ∨ (b ≠ .qlk ∧ b ≠ .yrd)) →
    ∃ t, exec (.quiesce req page v) s = .next t ∧ t.quiesced b i = nbit v.toNat 0
      ∧ t.flag (hdrF b 0x08 8 8) i = nbit v.toNat 8
      ∧ RegsKeep [regKey (hdrAddr b 0x08) i 0, regKey (hdrAddr b 0x0C) i 0] s t
      ∧ t = { s with regs := t.regs, unitGen := t.unitGen, out := s.out ++ [.regReply req 0 0] })
  ∧ (∀ (s : State) req data, s.Canonical → s.grants req A.KLN_EP_TARGET →
    ∃ t, exec (.registerWrite req A.KLN_EP_TARGET 4 data) s = .next t ∧ t.getF F.KLN_EP_TARGET_TARGET_MJ = data % 65536
      ∧ RegsKeep [regKey A.KLN_EP_TARGET 0 0] s t ∧ t = { s with regs := t.regs, out := s.out ++ [.regReply req 0 0] })
  ∧ (∀ (s : State) req addr b row i x j, s.regGate req addr 4 false = some 0 → s.lockedFor req (addr / 0x1000) = false →
      blkOfPage (addr / 0x1000) = some b → rowOf addr = some row → 0x40 ≤ addr % 0x1000 → row.rc ≠ 0 →
      s.instOf b (addr / 0x1000) req = some i → s.copyOf req i row.dim = some (x, j) →
      exec (.readClear req addr 4) s = .next { s.setReg addr (BitVec.ofNat 32
        (((s.reg addr x j).toNat &&& (2 ^ 32 - 1 - row.rc)) ||| (row.reset &&& row.rc))) x j with
          out := s.out ++ [.regReply req 0 (s.shown req addr)] })

/-- A component reset starts on a quiesced, free instance and ends as its block says. Formalises R44 and R448 (Table 17-6).
Completes: compReset, componentResetDone. -/
def Obligations.ComponentResets : Prop :=
  (∀ (s : State) req page b i, s.Canonical → s.grants req (page * 0x1000 + 8) → mayWrite req page = true →
      blkOfPage page = some b → s.hdrInst b page req = some i → i < b.insts →
      takesReset b = true → s.present b i = true → s.quiesced b i = true → s.resetting b i = false →
      s.dv.st ≠ .warmReset → s.resetFree b i = true → (b = .stk → s.unit .stk i ≠ 3) →
    exec (.compReset req page) s = .next ((s.resetBegin b i).replied req 0))
  ∧ (∀ (s : State) (b : Blk) i, s.Canonical → i < b.insts → (b = .brk ∨ b = .hod ∨ b = .yrd) →
      (s.resetBegin b i).unit b i = 6 ∧ (s.resetBegin b i).resetting b i = true
      ∧ RegsKeep [regKey (hdrAddr b 0x08) i 0, regKey (hdrAddr b 0x0C) i 0] s (s.resetBegin b i) ∧ (s.resetBegin b i).mem = s.mem)
  ∧ (∀ (s : State) i, s.Canonical → i < 16 → (s.resetBegin .stk i).unit .stk i = 6
      ∧ (s.resetBegin .stk i).getF F.STK_TRAIN_PHASE i = 0)
  ∧ (∀ (s : State) i, s.Canonical → i < 8 → (s.resetBegin .ftg i).unit .ftg i = 6
      ∧ (s.resetBegin .ftg i).getF F.FTG_CH_STATE_STATE i = 1 ∧ (s.resetBegin .ftg i).ftg = s.ftg)
  ∧ (∀ (s : State) (b : Blk) i pass, takesReset b = true → s.resetting b i = false →
      exec (.componentResetDone b.code i pass) s = .next s)
  ∧ (∀ (s : State) i, s.Canonical → i < 64 → s.resetting .hod i = true →
    ∃ t, exec (.componentResetDone Blk.hod.code i true) s = .next t ∧ t.resetting .hod i = false
      ∧ t.unit .hod i = (if s.quiesced .hod i then 4 else 3) ∧ t.reg A.HOD_FAULT i = 0#32
      ∧ t = { s with regs := t.regs, unitGen := t.unitGen })
  ∧ (∀ (s : State) i l, s.Canonical → i < Blk.yrd.insts → s.resetting .yrd i = true → l < 48 → s.physSlab l = i →
      (∀ m, m < 48 → s.physSlab m = i → m = l) → (∀ x ∈ s.yd.lines, x.errs = []) →
    (∃ t, exec (.componentResetDone Blk.yrd.code i true) s = .next t ∧ t.resetting .yrd i = false
      ∧ t.unit .yrd i = (if s.quiesced .yrd i then 4 else 3) ∧ (∀ x ∈ t.yd.lines, x.slab ≠ l) ∧ t.mem = s.mem ∧ t.synd = s.synd)
    ∧ (∃ t, exec (.componentResetDone Blk.yrd.code i false) s = .next t ∧ t.resetting .yrd i = false ∧ t.unit .yrd i = 1
      ∧ t.bit (hdrF .yrd 0x10 30 0) 2 i = true))
  ∧ (∀ (s : State) i, s.Canonical → smSorted s.br = true → i < Blk.brk.insts → s.resetting .brk i = true →
    (∃ t, exec (.componentResetDone Blk.brk.code i true) s = .next t ∧ t.resetting .brk i = false
      ∧ t.unit .brk i = (if s.quiesced .brk i then 4 else 3) ∧ t.brick i = { clk := (s.brick i).clk }
      ∧ (∀ a, bedAddr i 0 ≤ a → a < bedAddr i 0 + 2 ^ 19 → t.okByte a = 0#8)
      ∧ (∀ a, (a < bedAddr i 0 ∨ bedAddr i 0 + 2 ^ 19 ≤ a) → t.byte a = s.byte a))
    ∧ (∃ t, exec (.componentResetDone Blk.brk.code i false) s = .next t ∧ t.resetting .brk i = false ∧ t.unit .brk i = 1
      ∧ i ∈ t.bm.retired))
  ∧ (∀ (s : State) i, s.Canonical → i < 16 → s.resetting .stk i = true →
    (∃ t, exec (.componentResetDone Blk.stk.code i true) s = .next t ∧ t.resetting .stk i = false
      ∧ t.unit .stk i = (if s.quiesced .stk i then 4 else 3) ∧ t.getF F.STK_TRAIN_PHASE i = 4)
    ∧ (∃ t, exec (.componentResetDone Blk.stk.code i false) s = .next t ∧ t.resetting .stk i = false ∧ t.unit .stk i = 1
      ∧ t.getF F.STK_TRAIN_PHASE i = 5 ∧ t.bit (hdrF .stk 0x10 30 0) 2 i = true ∧ t.mem = s.mem))
  ∧ (∀ (s : State) i pass, s.Canonical → i < 8 → s.resetting .ftg i = true →
    ∃ t, exec (.componentResetDone Blk.ftg.code i pass) s = .next t ∧ t.resetting .ftg i = false
      ∧ t.getF F.FTG_CH_STATE_STATE i = (if pass then 2 else 3) ∧ t.unit .ftg i = (if pass then 3 else 1) ∧ t.ftg = s.ftg)

/-- What restarts a Trowel core, and the phases of a restart. Formalises R423 (Table 16-2), R424 (Table 16-3), R427 (an
uncorrectable journal word) and R430. Completes: watchdogExpiry, coreException, coreRestartWrite, restartPhaseOverrun,
restartPhaseEnd. -/
def Obligations.CoresRestart : Prop :=
  ∀ s : State, s.Canonical →
    (∀ c ms now, c < 8 → s.phase c = 0 → s.unit .trw c = 3 → s.getF F.TRW_WDT_MS c ≤ ms →
      ∃ t, exec (.watchdogExpiry c ms now) s = .next t ∧ t.phase c = 1 ∧ t.unit .trw c = 6
        ∧ t.getF F.TRW_CORE_CAUSE_CAUSE c = 1 ∧ t.now = max s.now now)
    ∧ (∀ c cause addr now, c < 8 → s.phase c = 0 → s.unit .trw c = 3 → (cause = 2 ∨ cause = 3) →
      ∃ t, exec (.coreException c cause addr now) s = .next t ∧ t.phase c = 1 ∧ t.unit .trw c = 6
        ∧ t.getF F.TRW_CORE_CAUSE_CAUSE c = cause ∧ t.now = max s.now now)
    ∧ (∀ req now c, (s.at now).grants req A.TRW_CORE_CTRL → s.instOf .trw 0x10 req = some c → s.phase c = 0 →
        s.unit .trw c = 3 →
      ∃ t, exec (.coreRestartWrite req now) s = .next t ∧ t.phase c = 1 ∧ t.unit .trw c = 6
        ∧ t.getF F.TRW_CORE_CAUSE_CAUSE c = 4)
    ∧ (∀ c imageOk now, c < 8 → 1 ≤ s.phase c → s.phase c ≤ 4 → (s.phase c = 2 → imageOk = true) →
      ∃ t, exec (.restartPhaseOverrun c imageOk now) s = .next t ∧ t.phase c = 1 ∧ t.getF F.TRW_CORE_CAUSE_CAUSE c = 8)
    ∧ (∀ c ce bad now, c < 8 → 1 ≤ s.phase c → s.phase c ≤ 3 →
      ∃ t, exec (.restartPhaseEnd c true ce bad now) s = .next t ∧ t.phase c = s.phase c + 1
        ∧ RegsKeep [regKey A.TRW_CORE_STATE c 0] s t ∧ t = { s with now := max s.now now, regs := t.regs })
    ∧ (∀ c now, c < 8 → s.phase c = 4 →
      (∃ t, exec (.restartPhaseEnd c true 0 [] now) s = .next t ∧ t.phase c = 0 ∧ t.unit .trw c = 3)
      ∧ (∀ ce k a e, (s.tr.journal.filter fun x => x.core = c)[k]? = some e →
        ∃ t, exec (.restartPhaseEnd c true ce [(k, a)] now) s = .next t ∧ t.phase c = 0
          ∧ t.bit (hdrF .trw 0x10 30 0) 4 blockWide = true))

/-- Retirement, moves of duties, and the Kiln registers that firmware writes. Formalises R428, R422, R491 (the writes) and
R496 (the clearing of flags). Completes: crashLoopRetire, coreRetireWrite, dutyMove, ceilMhzWrite, klnStkLevelWrite,
sensorFlagClear. -/
def Obligations.CoresRetireAndDutiesMove : Prop :=
  ∀ s : State, s.Canonical →
    (∀ c, c < 8 → s.phase c ≠ 6 → s.phase c ≠ 5 → max 1 (s.getF F.TRW_LOOP_LIMIT_LOOP_COUNT) ≤ s.getF F.TRW_LOOP_COUNT c →
      ∃ t, exec (.crashLoopRetire c) s = .next t ∧ t.phase c = 5 ∧ t.unit .trw c = 1)
    ∧ (∀ k c, s.grants (.trowel k) A.TRW_CORE_CTRL → s.instOf .trw 0x10 (.trowel k) = some c → s.phase c ≠ 5 →
      ∃ t, exec (.coreRetireWrite (.trowel k)) s = .next t ∧ t.phase c = 5 ∧ t.unit .trw c = 1)
    ∧ (∀ d c, d < 7 → c < 8 → s.phase c = 0 → s.unit .trw c = 3 → ((s.dutiesOf c).filter (· ≠ d)).length < 2 →
        s.tr.lapsed.contains d = false →
      ∃ t, exec (.dutyMove d c) s = .next t ∧ t.dutyCore d = some c
        ∧ t.tr.moves = s.tr.moves.filter fun m => m.1 ≠ d)
    ∧ (∀ k d (v : Word) now, d < 8 → (s.at now).grants (.trowel k) (A.KLN_CLK + 4 * d) →
        clampN 800 2000 (v.toNat % 4096 / 50 * 50) ≤ s.getF (F.KLN_CLK_CEIL_MHZ.nth d) →
      ∃ t, exec (.ceilMhzWrite (.trowel k) d v now) s = .next t
        ∧ t.getF (F.KLN_CLK_CEIL_MHZ.nth d) = clampN 800 2000 (v.toNat % 4096 / 50 * 50)
        ∧ RegsKeep [regKey (A.KLN_CLK + 4 * d) 0 0] s t
        ∧ t = { s with now := max s.now now, regs := t.regs, out := s.out ++ [.regReply (.trowel k) 0 0] })
    ∧ (∀ k (v : Word) now, (s.at now).grants (.trowel k) A.KLN_STK_LEVEL →
      exec (.klnStkLevelWrite (.trowel k) v now) s = .next (((s.at now).writeLevels v.toNat).replied (.trowel k) 0))
    ∧ (∀ k n (v : Word), n < 67 → s.grants (.trowel k) (A.KLN_SENSFAULT + 4 * n) →
      exec (.sensorFlagClear (.trowel k) n v) s = .next ((s.clearSensorFlags n v.toNat).replied (.trowel k) 0))

/-- Every way a link goes down, and what a link that is down holds. Formalises R24, R25, R359 to R361, R368 and R375 to R378.
Completes: trainingTimeout, keyingTimeout, retrainDone, laneDrop, creditTimeout, responseTimeout, counterExhausted,
tagFailureLimit, linkDisable, cableRemove, cableSupplyTrip. -/
def Obligations.LinksGoDown : Prop :=
  (∀ (s : State) l ms, s.linkState l = 1 → 500 ≤ ms → exec (.trainingTimeout l ms) s = .next (s.linkDown l 2))
  ∧ (∀ (s : State) l ms, s.linkState l = 2 → 20 ≤ ms → exec (.keyingTimeout l ms) s = .next ((s.err .qlk l 2).linkDown l 6))
  ∧ (∀ (s : State) l, (s.qlink l).retraining = true → 2 ≤ (s.qlink l).retrains →
      exec (.retrainDone l false) s = .next (s.linkDown l 3))
  ∧ (∀ (s : State) l lane ms, s.linkUp l = true → lane < 4 → 100 ≤ ms →
      exec (.laneDrop l lane ms false) s = .next (s.linkDown l 11))
  ∧ (∀ (s : State) l us m ms, s.takes l = true → (s.qlink l).waiting = m :: ms →
      ((s.qlink l).creditH = 0 ∨ (s.qlink l).creditD < m.slots) → max 1 (s.getF F.QLK_TMO_CRED_TMO l) ≤ us →
      exec (.creditTimeout l us) s = .next (s.linkDown l 4))
  ∧ (∀ (s : State) l tid us m, s.takes l = true → (tid, m) ∈ (s.qlink l).sent → max 1 (s.getF F.QLK_TMO_RSP_TMO l) ≤ us →
      exec (.responseTimeout l tid us) s = .next (s.linkDown l 5))
  ∧ (∀ (s : State) l, s.linkUp l = true →
      (2 ^ 32 ≤ s.getPair A.QLK_TXCTR_LO A.QLK_TXCTR_HI l ∨ 2 ^ 32 ≤ (s.qlink l).framesRx) →
      exec (.counterExhausted l) s = .next (s.linkDown l 8))
  ∧ (∀ (s : State) l n us, s.linkUp l = true → 16 < n → us ≤ 1000 →
      exec (.tagFailureLimit l n us) s = .next ((s.err .qlk l 2).linkDown l 7))
  ∧ (∀ (s : State) k l, s.grants (.trowel k) A.QLK_CTRL → s.instOf .qlk (A.QLK_CTRL / 0x1000) (.trowel k) = some l →
      s.linkState l ≠ 5 →
      exec (.linkDisable (.trowel k) true) s
        = .next ((((s.setFlag F.QLK_CTRL_DISABLE true l).linkDown l 9).setF F.QLK_STATE_STATE 5 l).replied (.trowel k) 0))
  ∧ (∀ (s : State) conn, s.cable conn ≠ .absent →
      exec (.cableRemove conn) s = .next (State.connDown { s.setCable conn .absent with
        lk := { (s.setCable conn .absent).lk with unread := s.lk.unread.filter (· ≠ conn) } } conn 1))
  ∧ (∀ (s : State) conn mA us, s.cable conn = .powered → 4800 < mA → 100 ≤ us →
      exec (.cableSupplyTrip conn mA us) s = .next ((s.setCable conn .tripped).connDown conn 10))
  ∧ (∀ (s : State) conn mA us, s.Canonical → conn < 8 → smSorted s.pw.cables = true → s.lk.held = [] →
      (∀ l, l / 8 = conn → (s.qlink l).sent = [] ∧ (s.qlink l).waiting = []) →
      (s.cable conn ≠ .absent → ∃ t, exec (.cableRemove conn) s = .next t ∧ t.cable conn = .absent ∧ t.mem = s.mem
        ∧ ∀ l, l ∈ s.connLinks conn → 1 ≤ s.linkState l → s.linkState l ≤ 4 →
          t.linkState l = 0 ∧ t.getF F.QLK_DOWN_CAUSE_CAUSE l = 1)
      ∧ (s.cable conn = .powered → 4800 < mA → 100 ≤ us →
        ∃ t, exec (.cableSupplyTrip conn mA us) s = .next t ∧ t.cable conn = .tripped ∧ t.mem = s.mem
          ∧ ∀ l, l ∈ s.connLinks conn → 1 ≤ s.linkState l → s.linkState l ≤ 4 →
            t.linkState l = 0 ∧ t.getF F.QLK_DOWN_CAUSE_CAUSE l = 10))
  ∧ (∀ (s : State) l cause, s.Canonical → l < 64 → cause < 16 → (s.qlink l).sent = [] → (s.qlink l).waiting = [] → s.lk.held = [] →
      (s.linkDown l cause).linkState l = 0 ∧ (s.linkDown l cause).getF F.QLK_DOWN_CAUSE_CAUSE l = cause
      ∧ (s.linkDown l cause).unit .qlk l = 1 ∧ (s.linkDown l cause).reg A.QLK_KEYSTAT l = 0#32
      ∧ (∀ e, e < 32 → (s.linkDown l cause).reg A.QLK_IMPORT l e = 0#32)
      ∧ (s.linkDown l cause).mem = s.mem ∧ (s.linkDown l cause).synd = s.synd)

/-- From a cable to a keyed link, and rekeys. Formalises R25, R359, R360, R375, R376 and R467. Completes: cableInsert,
linkTrain, linkDisable, trainingDone, kxHello, kxInit, kxResp, kxDone, rekeyDue. -/
def Obligations.LinksComeUp : Prop :=
  (∀ (s : State) c, c < 8 → s.cable c = .absent → (s.dutyServed 2 = false ∨ s.dv.st = .boot) →
    ∃ t, exec (.cableInsert c) s = .next t ∧ t.cable c = .powered ∧ t.lk = { s.lk with unread := s.lk.unread ++ [c] }
      ∧ ∀ l, t.linkState l = s.linkState l)
  ∧ (∀ (s : State) c l, s.Canonical → c < 8 → s.cable c = .absent → s.dutyServed 2 = true → s.dv.st ≠ .boot → s.lk.unread = [] →
      l ∈ s.connLinks c → s.linkState l = 0 → s.lk.deadQuoins.contains c = false →
    ∃ t, exec (.cableInsert c) s = .next t ∧ t.cable c = .powered ∧ t.linkState l = 1 ∧ t.lk.unread = [])
  ∧ (∀ (s : State) k l, s.Canonical → s.grants (.trowel k) A.QLK_CTRL →
      s.instOf .qlk (A.QLK_CTRL / 0x1000) (.trowel k) = some l → s.linkState l = 0 → s.flag F.QLK_CTRL_DISABLE l = false →
      s.cable (l / 8) = .powered → s.lk.deadQuoins.contains (l / 8) = false →
    ∃ t, exec (.linkTrain (.trowel k)) s = .next t ∧ t.linkState l = 1 ∧ t.unit .qlk l = 2 ∧ t.flag F.QLK_CTRL_TRAIN l = true
      ∧ t = { s with regs := t.regs, unitGen := t.unitGen, lk := t.lk, out := s.out ++ [.regReply (.trowel k) 0 0] })
  ∧ (∀ (s : State) k l, s.Canonical → s.grants (.trowel k) A.QLK_CTRL →
      s.instOf .qlk (A.QLK_CTRL / 0x1000) (.trowel k) = some l → s.linkState l = 5 →
    ∃ t, exec (.linkDisable (.trowel k) false) s = .next t ∧ t.linkState l = 0 ∧ t.flag F.QLK_CTRL_DISABLE l = false
      ∧ t = { s with regs := t.regs, out := s.out ++ [.regReply (.trowel k) 0 0] })
  ∧ (∀ (s : State) l pairs, s.Canonical → l < 64 → s.linkState l = 1 → 1 ≤ pairs →
    ∃ t, exec (.trainingDone l pairs) s = .next t ∧ t.linkState l = 2
      ∧ t.getF F.QLK_STATE_WIDTH l = (if 2 ≤ pairs then 2 else 1) ∧ nbit (t.qlink l).kx 0 = true
      ∧ Out.message l "KX_HELLO" 0 0 [] ∈ t.out ∧ t.mem = s.mem)
  ∧ (∀ (s : State) l, s.linkState l = 1 → exec (.trainingDone l 0) s = .next (s.linkDown l 11))
  ∧ (∀ (s : State) l peer hash, s.Canonical → l < 64 → s.linkState l = 2 → nbit (s.qlink l).kx 1 = false → peer < 4096 →
      peer ≠ s.dv.devNum → s.peerAllowed hash = true → s.keystonePaused = false →
    ∃ t, exec (.kxHello l peer 1 hash true) s = .next t ∧ t.linkState l = 2 ∧ t.flag F.QLK_STATE_PEER_VALID l = true
      ∧ t.getF F.QLK_STATE_PEER_DEV l = peer ∧ (t.qlink l).peerHash = hash ∧ nbit (t.qlink l).kx 1 = true)
  ∧ (∀ (s : State) l, s.linkState l = 2 → s.initiator l = false → s.kxAt l 3 4 = true → s.keystonePaused = false →
      exec (.kxInit l true) s = .next (((s.kxSet l 4).sendKx l "KX_RESP" 3508).keysDerived l)
      ∧ exec (.kxInit l false) s = .next (s.keyFail l)
      ∧ (((s.kxSet l 4).sendKx l "KX_RESP" 3508).keysDerived l).kxAt l 31 0 = true)
  ∧ (∀ (s : State) l, s.linkState l = 2 → s.initiator l = true → s.kxAt l 7 8 = true → s.keystonePaused = false →
      exec (.kxResp l true) s = .next (s.keysDerived l) ∧ exec (.kxResp l false) s = .next (s.keyFail l)
      ∧ (s.keysDerived l).kxAt l 31 0 = true)
  ∧ (∀ (s : State) l, s.Canonical → l < 64 → s.linkState l = 2 → s.kxAt l 24 0 = true →
    ∃ t, exec (.kxDone l) s = .next t ∧ t.linkState l = (if s.getF F.QLK_STATE_WIDTH l = 2 then 3 else 4)
      ∧ t.unit .qlk l = 3 ∧ t.flag F.QLK_KEYSTAT_KEYED l = true)
  ∧ (∀ (s : State) l secs, s.Canonical → l < 64 → s.linkUp l = true → s.flag F.QLK_KEYSTAT_REKEYING l = false →
      max 1 (s.getF F.QLK_REKEY_REKEY_S l) ≤ secs →
    (s.linkStill l = false → s.keystonePaused = false →
      ∃ t, exec (.rekeyDue l secs) s = .next t ∧ t.flag F.QLK_KEYSTAT_REKEYING l = true ∧ (t.qlink l).rekeyDue = false)
    ∧ (s.linkStill l = true ∨ s.keystonePaused = true → exec (.rekeyDue l secs) s = .next (s.setQlink l { s.qlink l with rekeyDue := true })))

/-- Frames are taken in order, resent on a NAK and kept over a retrain. Formalises R364 to R366, R361, R359 and R358.
Completes: frameReceive, nakFrame, retrainDone, laneDrop, spareTransmitter, spareReceiver. -/
def Obligations.FramesAreCarriedOnce : Prop :=
  (∀ (s : State) l kind fack rqh rqd mgt epoch ce ackValid, 2 ≤ s.linkState l → s.linkState l ≤ 4 → s.Canonical → l < 64 →
      s.linkStill l = false → (s.linkState l = 2 ∨ epoch = s.getF F.QLK_KEYSTAT_RX_EPOCH l
        ∨ (s.kxAt l 24 0 = true ∧ epoch = (s.getF F.QLK_KEYSTAT_RX_EPOCH l + 1) % 4)) →
      (kind = 0 ∨ (kind = 3 ∧ s.linkState l = 2)) →
    ∃ t, exec (.frameReceive l kind (s.qlink l).rxNext fack rqh rqd mgt epoch ce ackValid true true) s = .next t
      ∧ (t.qlink l).rxNext = ((s.qlink l).rxNext + 1) % 4096 ∧ t.mem = s.mem)
  ∧ (∀ (s : State) l kind fseq fack rqh rqd mgt epoch ce ackValid, 2 ≤ s.linkState l → s.linkState l ≤ 4 → s.Canonical → l < 64 →
      s.linkStill l = false → (s.linkState l = 2 ∨ epoch = s.getF F.QLK_KEYSTAT_RX_EPOCH l
        ∨ (s.kxAt l 24 0 = true ∧ epoch = (s.getF F.QLK_KEYSTAT_RX_EPOCH l + 1) % 4)) →
      (kind = 0 ∨ (kind = 3 ∧ s.linkState l = 2)) → fseq ≠ (s.qlink l).rxNext →
    ∃ t, exec (.frameReceive l kind fseq fack rqh rqd mgt epoch ce ackValid true true) s = .next t
      ∧ (t.qlink l).rxNext = (s.qlink l).rxNext ∧ Out.frame l 2 (s.qlink l).rxNext ∈ t.out)
  ∧ (∀ (s : State) l fseq fack rqh rqd mgt epoch ce ackValid fecOk tagOk, 2 ≤ s.linkState l → s.linkState l ≤ 4 →
      s.linkStill l = false → (fecOk = false ∨ tagOk = false) →
    ∃ t, exec (.frameReceive l 0 fseq fack rqh rqd mgt epoch ce ackValid fecOk tagOk) s = .next t
      ∧ t.qlink l = s.qlink l ∧ Out.frame l 2 (s.qlink l).rxNext ∈ t.out)
  ∧ (∀ (s : State) l f, s.Canonical → l < 64 → 2 ≤ s.linkState l → s.linkState l ≤ 4 → s.linkStill l = false →
      f ∈ (s.qlink l).replay →
      (if (s.qlink l).replay.head? = some f then (s.qlink l).naks + 1 else 1) < max 1 (s.getF F.QLK_RETRY_NAK_LIMIT l) →
    ∃ t, exec (.nakFrame l f) s = .next t ∧ (t.qlink l).replay = (s.qlink l).replay.dropWhile (· ≠ f)
      ∧ t.out = s.out ++ ((s.qlink l).replay.dropWhile (· ≠ f)).map (fun g => Out.frame l (if s.linkUp l then 0 else 3) g))
  ∧ (∀ (s : State) l f, s.Canonical → l < 64 → 2 ≤ s.linkState l → s.linkState l ≤ 4 → s.linkStill l = false →
      f ∈ (s.qlink l).replay →
      max 1 (s.getF F.QLK_RETRY_NAK_LIMIT l) ≤ (if (s.qlink l).replay.head? = some f then (s.qlink l).naks + 1 else 1) →
    ∃ t, exec (.nakFrame l f) s = .next t ∧ (t.qlink l).retraining = true
      ∧ (t.qlink l).replay = (s.qlink l).replay.dropWhile (· ≠ f))
  ∧ (∀ (s : State) l, (s.qlink l).retraining = true → s.lk.links.all (fun e => e.2 ≠ {}) = true → smSorted s.lk.links = true →
    ∃ t, exec (.retrainDone l true) s = .next t ∧ (t.qlink l).retraining = false ∧ (t.qlink l).retrains = 0)
  ∧ (∀ (s : State) l, (s.qlink l).retraining = true → (s.qlink l).retrains + 1 < 3 →
    ∃ t, exec (.retrainDone l false) s = .next t ∧ (t.qlink l).retraining = true ∧ (t.qlink l).retrains = (s.qlink l).retrains + 1)
  ∧ (∀ (s : State) l lane ms, s.Canonical → l < 64 → s.linkState l = 3 → lane < 4 → 100 ≤ ms →
    ∃ t, exec (.laneDrop l lane ms true) s = .next t ∧ t.linkState l = 4 ∧ t.getF F.QLK_STATE_WIDTH l = 1
      ∧ (t.qlink l).retraining = true ∧ (t.qlink l).replay = (s.qlink l).replay)
  ∧ (∀ (s : State) k l lane, s.Canonical → s.grants (.trowel k) A.QLK_SPARE_CMD →
      s.instOf .qlk (A.QLK_SPARE_CMD / 0x1000) (.trowel k) = some l → lane < 4 → s.flag F.QLK_SPARE_STAT_BUSY l = false →
      (∀ m, m / 8 = l / 8 → (s.qlink m).txUsed = []) →
    ∃ t, exec (.spareTransmitter (.trowel k) lane) s = .next t ∧ t.getF F.QLK_SPARE_STAT_TX_LEFT l = 3
      ∧ nbits (t.laneMap F.QLK_TXMAP_MAP l) (6 * lane + 5) (6 * lane) = 32 ∧ t.flag F.QLK_SPARE_STAT_FAIL l = false)
  ∧ (∀ (s : State) k l lane, s.Canonical → s.grants (.trowel k) A.QLK_SPARE_CMD →
      s.instOf .qlk (A.QLK_SPARE_CMD / 0x1000) (.trowel k) = some l → lane < 4 → s.flag F.QLK_SPARE_STAT_BUSY l = false →
      (∀ m, m / 8 = l / 8 → (s.qlink m).rxUsed = []) →
    ∃ t, exec (.spareReceiver (.trowel k) lane) s = .next t ∧ t.getF F.QLK_SPARE_STAT_RX_LEFT l = 3
      ∧ nbits (t.laneMap F.QLK_RXMAP_MAP l) (6 * lane + 5) (6 * lane) = 32 ∧ t.flag F.QLK_SPARE_STAT_FAIL l = false)

/-- Requests of other devices are performed and answered, and responses reach what waits for them. Formalises R369 to R373.
Completes: rrd, rwr, radd, ownrd, rack, rdat. -/
def Obligations.RemoteRequestsAreServed : Prop :=
  (∀ (s : State) l tid src dst part len addr p, s.takes l = true → s.remoteCheck l src dst part addr len false = .ok p →
      exec (.rrd l tid src dst part len addr false) s
        = .next (s.enter (.peer l 9 tid 0 p false) p 3 (s.global addr) { op := 0, addr := addr, len := len })
      ∧ (s.Canonical → s.atRest → yardBase ≤ addr → addr < regBase → s.rangeStatus (.part p) false addr len = 0 →
          s.anyBad addr len = false →
          s.takenAtOnce (.peer l 9 tid 0 p false) p 3 (s.global addr) { op := 0, addr := addr, len := len } →
        ∃ u : State, (∀ a, u.okByte a = s.okByte a) ∧ u.lk = s.lk ∧ exec (.rrd l tid src dst part len addr false) s
          = .next (u.answer l 9 tid 0 (s.okBytes addr len) 0)))
  ∧ (∀ (s : State) l tid src dst part addr data p, s.takes l = true →
      s.remoteCheck l src dst part addr data.length false = .ok p →
      exec (.rwr l tid src dst part addr data false) s = .next (s.enter (.peer l 8 tid ((data.length + 15) / 16) p false) p 3
        (s.global addr) { op := 1, addr := addr, len := data.length, data := data.map some })
      ∧ (s.Canonical → s.atRest → yardBase ≤ addr → addr < regBase → s.rangeStatus (.part p) true addr data.length = 0 →
          s.anyBad addr data.length = false →
          s.takenAtOnce (.peer l 8 tid ((data.length + 15) / 16) p false) p 3 (s.global addr)
            { op := 1, addr := addr, len := data.length, data := data.map some } →
        ∃ u : State, u.okBytes addr data.length = data ∧ ReadsOutside addr data.length s u ∧ u.lk = s.lk
          ∧ exec (.rwr l tid src dst part addr data false) s = .next (u.answer l 8 tid 0 [] ((data.length + 15) / 16))))
  ∧ (∀ (s : State) l tid src dst part type addr data p, s.takes l = true → type ≤ 3 →
      s.remoteCheck l src dst part addr data.length false = .ok p →
      exec (.radd l tid src dst part type addr data false) s = .next (s.enter (.peer l 8 tid ((data.length + 15) / 16) p false) p 3
        (s.global addr) { op := 2, addr := addr, len := data.length, type := type, data := data.map some })
      ∧ (s.Canonical → s.memoryOpen → addFits type addr data.length = true → s.rangeStatus (.part p) true addr data.length = 0 →
          s.anyBad addr data.length = false →
          s.takenAtOnce (.peer l 8 tid ((data.length + 15) / 16) p false) p 3 (s.global addr)
            { op := 2, addr := addr, len := data.length, type := type, data := data.map some } →
        ∃ u : State, (∀ i, i < data.length / msBytes type → u.okBytes (addr + i * msBytes type) (msBytes type)
            = leBytes (msAdd type (leNat (s.okBytes (addr + i * msBytes type) (msBytes type)))
              (leNat ((data.drop (i * msBytes type)).take (msBytes type)))) (msBytes type))
          ∧ ReadsOutside addr data.length s u ∧ u.lk = s.lk
          ∧ exec (.radd l tid src dst part type addr data false) s = .next (u.answer l 8 tid 0 [] ((data.length + 15) / 16))))
  ∧ (∀ (s : State) l tid src dst part len addr p, s.takes l = true → len % 8 = 0 → len ≤ 128 →
      s.remoteCheck l src dst part addr len false = .ok p →
      exec (.ownrd l tid src dst part len addr false) s
        = .next (s.enter (.peer l 9 tid 0 p true) p 3 (s.global addr) { op := 0, addr := addr, len := len })
      ∧ (s.Canonical → s.atRest → yardBase ≤ addr → addr < regBase → s.rangeStatus (.part p) false addr len = 0 →
          s.anyBad addr len = false →
          s.takenAtOnce (.peer l 9 tid 0 p true) p 3 (s.global addr) { op := 0, addr := addr, len := len } →
        ∃ u : State, (∀ a, u.okByte a = s.okByte a) ∧ u.lk = s.lk ∧ exec (.ownrd l tid src dst part len addr false) s
          = .next (u.answer l 9 tid 0 ((List.range (len / 8)).flatMap fun k =>
            leBytes (s.ownerEntry p (fieldB (s.okBytes addr len) (8 * k) 8)) 8) 0)))
  ∧ (∀ (s : State) l tid src part len addr, s.takes l = true → s.dv.st ≠ .warmReset → len ≠ 0 → addr % 256 + len ≤ 256 →
      s.importFor l src part = none →
    ∃ t, exec (.rrd l tid src s.dv.devNum part len addr false) s = .next t ∧ t.mem = s.mem ∧ t.synd = s.synd
      ∧ t = (((s.bump F.QLK_DENY_CNT_COUNT 1 l).err .qlk l 7).answer l 9 tid 0x0802 (List.replicate len 0) 0))
  ∧ (∀ (s : State) l top tid status data slots, s.takes l = true → (s.qlink l).answers = [] → (s.qlink l).mgt = [] →
      (s.qlink l).replay.length + ((data.length + 15) / 16 + 30) / 30 ≤ 1024 →
      Out.message l (topName top) tid status data ∈ (s.answer l top tid status data slots).out)
  ∧ (∀ (s : State) l tid status m, s.takes l = true → s.lk.discard.contains (l, tid) = false →
      (s.qlink l).sent.find? (fun e => e.1 = tid) = some (tid, m) → m.top ≠ 1 → m.top ≠ 4 →
      exec (.rack l tid status) s = .next (((s.setQlink l { s.qlink l with
        sent := (s.qlink l).sent.filter fun f => f.1 ≠ tid }).answerUse m status (sliceB [] 0 m.len)).linkGo l))
  ∧ (∀ (s : State) l tid status data m, s.takes l = true → s.lk.discard.contains (l, tid) = false →
      (s.qlink l).sent.find? (fun e => e.1 = tid) = some (tid, m) → (m.top = 1 ∨ m.top = 4) →
      exec (.rdat l tid status data) s = .next (((s.setQlink l { s.qlink l with
        sent := (s.qlink l).sent.filter fun f => f.1 ≠ tid }).answerUse m status (sliceB data 0 m.len)).linkGo l))

/-- A pass from its engine to its bank, its activate, its yield points and its end. Formalises R66, R68 to R70, R72, R74 and
R75. Completes: passMv, passScore, passValue, passOutlier, computeActivate, yieldPoint, passEnd, refreshDue. -/
def Obligations.PassesTravel : Prop :=
  (∀ (s : State) hod d rest, smSorted s.bk.lists = true → smGet (fun _ => []) s.bk.lists hod = d :: rest →
      s.groupWaits hod d = false → s.wouldOverdraw d.own 1 d.pass.cols 4096 = false → s.stackServes d.stack = true →
    ((d.kind = 1 → ∃ t, exec (.passMv hod) s = .next t ∧ PassIssued hod d rest s t)
    ∧ (d.kind = 2 → ∃ t, exec (.passScore hod) s = .next t ∧ PassIssued hod d rest s t)
    ∧ (d.kind = 3 → ∃ t, exec (.passValue hod) s = .next t ∧ PassIssued hod d rest s t)
    ∧ (d.kind = 4 → ∃ t, exec (.passOutlier hod) s = .next t ∧ PassIssued hod d rest s t)))
  ∧ (∀ (s : State) stack bank now p rest, bank < 1024 → s.paused .stk stack = false → s.runAt (bankKey stack bank) = none → smSorted s.bk.work = true →
      s.bankWork (bankKey stack bank) = .pass p :: rest → s.stackServes stack = true →
      (s.at now).mayActivate (bankKey stack bank) (max s.now now) = true →
    ∃ t, exec (.computeActivate stack bank now) s = .next t ∧ t.runAt (bankKey stack bank) = some { pass := p }
      ∧ t.bankWork (bankKey stack bank) = rest ∧ (bankKey stack bank, max s.now now) ∈ t.bk.acts
      ∧ t = { s with now := max s.now now, bk := t.bk, qu := t.qu, sv := t.sv })
  ∧ (∀ (s : State) stack bank now, (s.at now).mayActivate (bankKey stack bank) (max s.now now) = false →
      exec (.computeActivate stack bank now) s = .next (s.at now))
  ∧ (∀ (s : State) stack bank now r, s.runAt (bankKey stack bank) = some r → r.next + modeYield r.pass.fmt < r.pass.cols →
      r.held = [] → s.yd.waiting = [] →
    ∃ t r', exec (.yieldPoint stack bank now) s = .next t ∧ t.runAt (bankKey stack bank) = some r'
      ∧ r'.next = r.next + modeYield r.pass.fmt ∧ r'.pass = r.pass ∧ r'.refresh = false ∧ r'.held = []
      ∧ t = { s with now := max s.now now, regs := t.regs, bk := { s.bk with runs := t.bk.runs } } ∧ RegsBut [A.STK_REFCNT] s t)
  ∧ (∀ (s : State) stack bank now r h w p, s.runAt (bankKey stack bank) = some r → r.next + modeYield r.pass.fmt < r.pass.cols →
      r.held = [h] → s.yd.waiting = [] → s.Canonical → h.acc.op = 1 → h.acc.bad = [] → h.acc.data.all Option.isSome = true →
      s.anyBad h.acc.addr h.acc.data.length = false →
      s.bk.tickets.find? (fun x => x.id = h.ticket) = some w → w.asker = .part p → w.left = 1 → w.status = 0 → w.len = 0 →
    ∃ t r', exec (.yieldPoint stack bank now) s = .next t ∧ t.runAt (bankKey stack bank) = some r'
      ∧ r'.next = r.next + modeYield r.pass.fmt ∧ r'.pass = r.pass ∧ r'.held = []
      ∧ (t.okBytes h.acc.addr h.acc.data.length).map some = h.acc.data ∧ ReadsOutside h.acc.addr h.acc.data.length s t
      ∧ t.bk.tickets = s.bk.tickets.filter (fun x => x.id ≠ h.ticket) ∧ t.out = s.out ++ [.memReply p 0 []])
  ∧ (∀ (s : State) stack bank now r, s.Canonical → smSorted s.bk.runs = true → s.runAt (bankKey stack bank) = some r →
      r.pass.cols ≤ r.next + modeYield r.pass.fmt → r.held = [] → s.yd.waiting = [] →
    ∃ t c, exec (.passEnd stack bank now) s = .next t ∧ t.runAt (bankKey stack bank) = none ∧ t.bk.arriving = s.bk.arriving ++ [c]
      ∧ c.group = r.pass.group / 4096 * 256 + r.pass.group % 256 ∧ c.outBase = r.pass.outBase ∧ c.lanes = r.pass.lanes
      ∧ c.slots = r.pass.slots ∧ c.own = r.pass.own
      ∧ (∀ k sl, k < r.pass.lanes → sl ∈ bitsOf r.pass.slots 8 → ((r.pass.outBase + k) * 8 + sl,
          smGet (fun _ => 0) (s.readColumns (bankKey stack bank) r r.pass.cols).acc (k * 8 + sl)) ∈ c.sums)
      ∧ t.mem = s.mem ∧ t.synd = s.synd ∧ RegsBut [A.STK_REFCNT, A.STK_PASSCNT] s t
      ∧ t.getF F.STK_PASSCNT_PASSES stack = (s.getF F.STK_PASSCNT_PASSES stack + 1) % 2 ^ 32)
  ∧ (∀ (s : State) stack bank r, s.runAt (bankKey stack bank) = some r →
      smGet (fun _ => 0) s.bk.pulled (bankKey stack bank) = 0 →
      exec (.refreshDue stack bank false) s = .next (s.setRun (bankKey stack bank) (some { r with refresh := true })))
  ∧ (∀ (s : State) stack bank, s.runAt (bankKey stack bank) = none →
      smGet (fun _ => 0) s.bk.pulled (bankKey stack bank) < min 8 (s.getF F.STK_REFCTL_PULLIN_MAX stack) →
    ∃ t, exec (.refreshDue stack bank true) s = .next t
      ∧ smGet (fun _ => 0) t.bk.pulled (bankKey stack bank) = smGet (fun _ => 0) s.bk.pulled (bankKey stack bank) + 1
      ∧ t = { s with bk := { s.bk with pulled := t.bk.pulled } })

/-- No compute activate beyond the limits of the loosest level. Formalises the level-0 column of R70 (Table 3-7), R71 and the
stack part of R493. Completes: computeTimingWrite. -/
def Obligations.TimingRulesHold : Prop :=
  (∀ (s : State) bk t, 8 ≤ (s.bk.acts.filter fun e => dieOf e.1 = dieOf bk && t < e.2 + 40).length → s.mayActivate bk t = false)
  ∧ (∀ (s : State) bk t e, e ∈ s.bk.acts → dieOf e.1 = dieOf bk → e.1 ≠ bk → t < e.2 + 4 → s.mayActivate bk t = false)
  ∧ (∀ (s : State) bk t, 32 ≤ (s.bk.runs.filter fun e => dieOf e.1 = dieOf bk).length → s.mayActivate bk t = false)
  ∧ (∀ (s : State) bk t, 768 ≤ (s.bk.acts.filter fun e => e.1 / 1024 = bk / 1024 && t < e.2 + 1000).length →
      s.mayActivate bk t = false)
  ∧ (∀ (s : State) bk t, s.stackClamped (bk / 1024) = true → s.mayActivate bk t = false)
  ∧ (∀ (s : State) req (v : Word) st k, s.Canonical → s.grants req (A.STK_TCAW + 4 * k) → mayWrite req 0x201 = true → k < 5 →
      s.instOf .stk 0x201 req = some st →
    ∃ t, exec (.computeTimingWrite req k v) s = .next t
      ∧ t.reg (A.STK_TCAW + 4 * k) st = BitVec.ofNat 32 (timingValue (A.STK_TCAW + 4 * k) v.toNat)
      ∧ (k = 0 → 40 ≤ t.getF F.STK_TCAW_WINDOW_NS st ∧ 1 ≤ t.getF F.STK_TCAW_MAX_ACT st ∧ t.getF F.STK_TCAW_MAX_ACT st ≤ 8)
      ∧ (k = 1 → 4 ≤ t.getF F.STK_TCRRD_NS st) ∧ (k = 2 → 1 ≤ t.getF F.STK_CONC_BANKS st ∧ t.getF F.STK_CONC_BANKS st ≤ 32)
      ∧ (k = 3 → 1 ≤ t.getF F.STK_TCPW_ACTS st ∧ t.getF F.STK_TCPW_ACTS st ≤ 768)
      ∧ RegsKeep [regKey (A.STK_TCAW + 4 * k) st 0] s t ∧ t = { s with regs := t.regs, out := s.out ++ [.regReply req 0 0] })

/-- Latch loads and ordinary accesses at a bank. Formalises R68 for LATCH, R75, R77, R88, R93 and R279 (the regulator).
Completes: latch, ordinaryAccess. -/
def Obligations.LatchesAndAccessesReachTheirBank : Prop :=
  (∀ (s : State) hod d rest b sl e, s.Canonical → s.memoryOpen → smSorted s.bk.lists = true → smSorted s.bk.latch = true →
      smGet (fun _ => []) s.bk.lists hod = d :: rest → d.kind = 8 → b < 64 → sl < 8 →
      d.w1 = 2 ^ b → nbits d.w0 55 48 = 2 ^ sl → nbits d.w2 53 44 + nbits d.w2 63 54 ≤ 960 → e < nbits d.w2 63 54 →
      (d.addr + 2 * nbits d.w2 63 54 ≤ 16 * stackBytes ∨ (yardBase ≤ d.addr ∧ d.addr < regBase)) →
      s.anyBad d.addr (2 * nbits d.w2 63 54) = false →
    ∃ t, exec (.latch hod) s = .next t
      ∧ t.latchAt (bankKey d.stack (nbits d.w0 59 56 * 64 + b)) sl (nbits d.w2 53 44 + e)
          = fieldB (s.okBytes d.addr (2 * nbits d.w2 63 54)) (2 * e) 2
      ∧ smGet (fun _ => []) t.bk.lists hod = rest ∧ t.bk.runs = s.bk.runs ∧ ∀ a, t.okByte a = s.okByte a)
  ∧ (∀ (s : State) part write addr data len now fault, addr + (if write then data.length else len) ≤ 16 * stackBytes →
      (s.rangeStatus (.part part) write addr (if write then data.length else len) ≠ 0 →
        exec (.ordinaryAccess part write addr data len now fault) s
          = .next ((s.at now).emit (.memReply part (s.rangeStatus (.part part) write addr (if write then data.length else len)) [])))
      ∧ (s.rangeStatus (.part part) write addr (if write then data.length else len) = 0 →
        exec (.ordinaryAccess part write addr data len now fault) s = .next (((s.at now).flipBits addr fault).enter (.part part) part 6
          (s.global addr) { op := if write then 1 else 0, addr := addr, len := if write then data.length else len,
                            data := data.map some })))
  ∧ (∀ (s : State) part (write : Bool) addr data len now r (x : Access),
      x = { op := (if write then 1 else 0), addr := addr, len := (if write then data.length else len), data := data.map some } →
      x.len ≠ 0 → addr % 2048 + x.len ≤ 2048 → addr < 16 * stackBytes → s.rangeStatus (.part part) write addr x.len = 0 →
      s.bk.merge = [] → (s.at now).takenAtOnce (.part part) part 6 (s.global addr) x → s.runAt (s.bankAt addr) = some r →
    ∃ t, exec (.ordinaryAccess part write addr data len now 0#72) s = .next t
      ∧ t.runAt (s.bankAt addr) = some { r with held := r.held ++ [⟨x, (if r.held.length < 8 then max s.now now else 0), s.bk.nextTicket⟩] }
      ∧ t.mem = s.mem ∧ t.synd = s.synd ∧ t.out = s.out)
  ∧ (∀ (s : State) part addr data len now, s.Canonical → s.settledAt addr data.length →
      addr + data.length ≤ 16 * stackBytes → s.rangeStatus (.part part) true addr data.length = 0 →
      (s.at now).takenAtOnce (.part part) part 6 (s.global addr)
        { op := 1, addr := addr, len := data.length, data := data.map some } →
    ∃ t, exec (.ordinaryAccess part true addr data len now 0#72) s = .next t ∧ t.okBytes addr data.length = data
      ∧ ReadsOutside addr data.length s t ∧ t.out = s.out ++ [.memReply part 0 []])
  ∧ (∀ (s : State) part addr data len now, s.Canonical → s.memoryOpen → (∀ w ∈ wordsOf addr len, s.ecc w = .clean) →
      addr + len ≤ 16 * stackBytes → s.rangeStatus (.part part) false addr len = 0 →
      (s.at now).takenAtOnce (.part part) part 6 (s.global addr) { op := 0, addr := addr, len := len, data := data.map some } →
    ∃ t, exec (.ordinaryAccess part false addr data len now 0#72) s = .next t ∧ SameMemory s t
      ∧ t.out = s.out ++ [.memReply part 0 (s.bytes addr len)])

/-- Groups open where there is space, add what arrives, and close. Formalises R78, R69, R79 (the count), R80 and R283 (which
group opens next). Completes: groupOpen, groupSpaceReserved, contribution. -/
def Obligations.GroupsReduce : Prop :=
  (∀ (s : State) hod d rest, smSorted s.bk.lists = true → smGet (fun _ => []) s.bk.lists hod = d :: rest → d.kind = 9 →
      s.stackServes d.stack = true → s.paused .stk d.stack = false → s.groupAt (nbits d.w1 15 12 * 256 + nbits d.w1 7 0) = none →
      s.bk.waiting = [] →
    ∃ t, exec (.groupOpen hod) s = .next t ∧ smGet (fun _ => []) t.bk.lists hod = rest ∧ t.mem = s.mem ∧ t.synd = s.synd
      ∧ (s.bufferUsed d.stack + d.group.space ≤ 4 * 2 ^ 20 →
          t.groupAt (nbits d.w1 15 12 * 256 + nbits d.w1 7 0) = some { d.group with scale := s.smScale d, tag := d.tag }
          ∧ t.bk.waiting = [])
      ∧ (4 * 2 ^ 20 < s.bufferUsed d.stack + d.group.space →
          t.groupAt (nbits d.w1 15 12 * 256 + nbits d.w1 7 0) = none
          ∧ t.bk.waiting = [(nbits d.w1 15 12 * 256 + nbits d.w1 7 0, { d.group with scale := s.smScale d, tag := d.tag })]))
  ∧ (∀ (s : State) st e, s.nextOpen st = some e → s.paused .stk st = false →
      s.bufferUsed st + e.2.space ≤ 4 * 2 ^ 20 →
      exec (.groupSpaceReserved st) s = .next { s with bk := { s.bk with
        waiting := s.bk.waiting.erase e, groups := smPut s.bk.groups e.1 e.2 } })
  ∧ (∀ (s : State) k c, s.bk.arriving[k]? = some c →
      (s.groupAt c.group = none ∨ ∃ g, s.groupAt c.group = some g ∧ c.discarded g = true) →
      exec (.contribution k) s = .next (({ s with bk := { s.bk with arriving := s.bk.arriving.eraseIdx k } } : State).workFail
        c.own 0x0102))
  ∧ (∀ (s : State) k c g b, s.bk.arriving[k]? = some c → s.groupAt c.group = some g → c.discarded g = false →
      c.blocks = [b] → smGet (fun _ => 0) g.count b + 1 < g.contrib →
    ∃ t g', exec (.contribution k) s = .next t ∧ t.groupAt c.group = some g'
      ∧ smGet (fun _ => 0) g'.count b = smGet (fun _ => 0) g.count b + 1
      ∧ (∀ o v, c.sums.filter (fun e => e.1 = o) = [(o, v)] →
          smGet (fun _ => 0) g'.sums o = add32 (smGet (fun _ => 0) g.sums o) v)
      ∧ (∀ o, c.sums.filter (fun e => e.1 = o) = [] → smGet (fun _ => 0) g'.sums o = smGet (fun _ => 0) g.sums o)
      ∧ g'.done = g.done
      ∧ t = { s with bk := { s.bk with arriving := s.bk.arriving.eraseIdx k, groups := t.bk.groups } })

/-- Memory-side adds and merged bytes change exactly the bytes they name. Formalises R82, R83, R84 and R86; the refusal of a
vector that leaves stack memory is the choice of log 75. Completes: memorySideAdd, mergeIdleFlush. -/
def Obligations.MemorySideWrites : Prop :=
  (∀ (s : State) part type addr data, s.Canonical → s.memoryOpen → addFits type addr data.length = true →
      s.rangeStatus (.part part) true addr data.length = 0 → (∀ w ∈ wordsOf addr data.length, s.ecc w = .clean) →
      s.takenAtOnce (.part part) part 6 (s.global addr)
        { op := 2, addr := addr, len := data.length, type := type, data := data.map some } →
    ∃ t, exec (.memorySideAdd part type addr data) s = .next t
      ∧ (∀ i, i < data.length / msBytes type →
          t.rdN (addr + i * msBytes type) (msBytes type)
            = msAdd type (s.rdN (addr + i * msBytes type) (msBytes type)) (fieldB data (i * msBytes type) (msBytes type))
                % 256 ^ msBytes type)
      ∧ ReadsOutside addr data.length s t ∧ t.regs = s.regs ∧ t.bk = s.bk ∧ t.out = s.out ++ [.memReply part 0 []])
  ∧ (∀ (s : State) part type addr data, addFits type addr data.length = false →
      exec (.memorySideAdd part type addr data) s = .next (s.emit (.memReply part 0x0102 [])))
  ∧ (∀ (s : State) e, s.Canonical → s.bk.merge.find? (fun f => f.line = e.line) = some e → smSorted e.bytes = true →
      (∀ b ∈ e.bytes, b.1 < 64) → s.anyBad (e.line * 64) 64 = false → s.bk.runs = [] → s.bk.work = [] → s.bk.queued = [] →
      s.anyPaused = false → (∀ k, k < 16 → s.stackServes k = true) → e.line * 64 < 16 * stackBytes →
    ∃ t, exec (.mergeIdleFlush e.line) s = .next t ∧ (∀ b ∈ e.bytes, t.okByte (e.line * 64 + b.1) = b.2)
      ∧ (∀ a, (∀ b ∈ e.bytes, a ≠ e.line * 64 + b.1) → t.okByte a = s.okByte a)
      ∧ t = { s with mem := t.mem, synd := t.synd, bk := { s.bk with merge := s.bk.merge.filter fun f => f.line ≠ e.line } })
  ∧ (∀ (s : State) a bs, s.Canonical → s.settledAt a bs.length → (a + bs.length ≤ 16 * stackBytes ∨ yardBase ≤ a) →
      (s.writeB a bs).okBytes a bs.length = bs ∧ ReadsOutside a bs.length s (s.writeB a bs) ∧ (s.writeB a bs).qu = s.qu
      ∧ (s.writeB a bs).Canonical)

/-- The entry window of the region table: select, stage, commit and fill. Formalises R90, the SPREAD rule of R91 in what a
commit stores, and R466. Completes: regIndexWrite, regEntryLoWrite, regEntryHiWrite, regionFillDone. -/
def Obligations.RegionTableCommits : Prop :=
  (∀ (s : State) req (v : Word), s.Canonical → s.grants req A.REG_INDEX →
    ∃ t, exec (.regIndexWrite req v) s = .next t ∧ t.getF F.REG_INDEX_GRANULE 0 (reqCode req) = v.toNat % 2 ^ 15
      ∧ t.regStaged req = (if s.granules ≤ v.toNat % 2 ^ 15 then 0 else s.regionRaw (v.toNat % 2 ^ 15) % 2 ^ 32)
      ∧ RegsKeep [regKey A.REG_INDEX 0 (reqCode req), regKey A.REG_ENTRY_LO 0 (reqCode req)] s t
      ∧ t = { s with regs := t.regs, out := s.out ++ [.regReply req 0 0] })
  ∧ (∀ (s : State) req (v : Word), s.Canonical → s.grants req A.REG_ENTRY_LO → mayWrite req 0x100 = true →
      s.getF F.REG_INDEX_GRANULE 0 (reqCode req) < s.granules →
    ∃ t, exec (.regEntryLoWrite req v none) s = .next t ∧ t.regStaged req = v.toNat
      ∧ RegsKeep [regKey A.REG_ENTRY_LO 0 (reqCode req)] s t
      ∧ t = { s with regs := t.regs, out := s.out ++ [.regReply req 0 0] })
  ∧ (∀ (s : State) req (v : Word), s.grants req A.REG_ENTRY_HI → mayWrite req 0x100 = true →
      exec (.regEntryHiWrite req v) s = .next ((s.regCommit req (s.regStaged req) v.toNat).2.replied req
        (s.regCommit req (s.regStaged req) v.toNat).1))
  ∧ (∀ (s : State) k (lo hi : Word) g, s.Canonical → s.regGate (.trowel k) A.REG_ENTRY_LO 8 true = some 0 →
      s.lockedFor (.trowel k) 0x100 = false → s.getF F.REG_INDEX_GRANULE 0 (64 + k) = g → g < s.granules →
      s.commitRefused g (s.commitValue (.trowel k) g lo.toNat hi.toNat) = false →
      (nbit (s.regionRaw g) 58 = false ∨ nbit (s.commitValue (.trowel k) g lo.toNat hi.toNat) 58 = true) →
      nbits (s.regionRaw g) 57 53 = nbits (s.commitValue (.trowel k) g lo.toNat hi.toNat) 57 53 →
      smSorted s.bk.regions = true →
    ∃ t, exec (.regEntryLoWrite (.trowel k) lo (some hi)) s = .next t
      ∧ t.regionRaw g = s.commitValue (.trowel k) g lo.toNat hi.toNat ∧ (∀ h, h ≠ g → t.regionRaw h = s.regionRaw h)
      ∧ t.getF F.REG_GEN_GEN = (s.getF F.REG_GEN_GEN + 1) % 2 ^ 32 ∧ t.mem = s.mem ∧ t.synd = s.synd)
  ∧ (∀ (s : State) k lo hi g, s.getF F.REG_INDEX_GRANULE 0 (64 + k) = g → g < s.granules →
      s.commitRefused g (s.commitValue (.trowel k) g lo hi) = true →
      (s.regCommit (.trowel k) lo hi).1 = 0x0306 ∧ (s.regCommit (.trowel k) lo hi).2.bk = s.bk)
  ∧ (∀ (s : State) k lo hi g, s.getF F.REG_INDEX_GRANULE 0 (64 + k) = g → g < s.granules →
      s.commitRefused g (s.commitValue (.trowel k) g lo hi) = false →
      ((nbit (s.regionRaw g) 58 = true ∧ nbit (s.commitValue (.trowel k) g lo hi) 58 = false)
        ∨ nbits (s.regionRaw g) 57 53 ≠ nbits (s.commitValue (.trowel k) g lo hi) 57 53) →
      (s.regCommit (.trowel k) lo hi).1 = 0
      ∧ (s.regCommit (.trowel k) lo hi).2.bk = { s.bk with fills := smPut s.bk.fills g (s.commitValue (.trowel k) g lo hi) })
  ∧ (∀ (s : State) g e, s.Canonical → smSorted s.bk.regions = true → s.bk.fills.find? (fun f => f.1 = g) = some (g, e) →
    ∃ t, exec (.regionFillDone g) s = .next t ∧ t.regionRaw g = e
      ∧ (∀ a, g * 2 ^ 26 ≤ a → a < (g + 1) * 2 ^ 26 → t.okByte a = 0#8 ∧ t.ecc a = .clean)
      ∧ (∀ a, (a < g * 2 ^ 26 ∨ (g + 1) * 2 ^ 26 ≤ a) → t.byte a = s.byte a ∧ t.ecc a = s.ecc a)
      ∧ t.getF F.REG_GEN_GEN = (s.getF F.REG_GEN_GEN + 1) % 2 ^ 32 ∧ RegsBut [A.REG_GEN] s t)

/-- The entry window past the granules of the grade. Formalises R94. -/
def Obligations.AbsentGranulesReadZero : Prop :=
  ∀ (s : State) req v, s.granules = (if s.dv.gradeC then 18432 else 24576)
    ∧ (s.granules ≤ s.getF F.REG_INDEX_GRANULE 0 (reqCode req) →
      s.shown req A.REG_ENTRY_LO = 0 ∧ s.shown req A.REG_ENTRY_HI = 0
      ∧ (s.putReg req A.REG_ENTRY_LO v).2 = s ∧ (s.putReg req A.REG_ENTRY_HI v).2 = s)

/-- Row and bank spares and stack training. Formalises R95, R402, and for stacks R440 and R443. Completes: rowSpare,
bankSpare, repairDone, stkTrainStart, stkTrainDone. -/
def Obligations.StacksTrainAndRepair : Prop :=
  (∀ (s : State) k st die bank row, s.Canonical → s.grants (.trowel k) A.STK_RPR_CMD →
      s.instOf .stk (A.STK_RPR_CMD / 0x1000) (.trowel k) = some st → s.flag F.STK_RPR_STAT_BUSY st = false →
      die < 16 → bank < 64 → row < 65536 → smGet (fun _ => 0) s.bk.rowSpares (bankKey st (die * 64 + bank)) < 96 →
    ∃ t, exec (.rowSpare (.trowel k) die bank row) s = .next t ∧ t.flag F.STK_RPR_STAT_BUSY st = true
      ∧ t.flag F.STK_RPR_STAT_FAIL st = false
      ∧ t.bk = { s.bk with repair := smPut s.bk.repair st (2 ^ 28 + die * 2 ^ 24 + bank * 2 ^ 18 + row + 1) }
      ∧ RegsKeep [regKey A.STK_RPR_STAT st 0] s t ∧ t.mem = s.mem ∧ t.out = s.out ++ [.regReply (.trowel k) 0 0])
  ∧ (∀ (s : State) k st die bank, s.Canonical → s.grants (.trowel k) A.STK_RPR_CMD →
      s.instOf .stk (A.STK_RPR_CMD / 0x1000) (.trowel k) = some st → s.flag F.STK_RPR_STAT_BUSY st = false →
      die < 16 → bank < 64 → 0 < s.bankSpares st die →
    ∃ t, exec (.bankSpare (.trowel k) die bank) s = .next t ∧ t.flag F.STK_RPR_STAT_BUSY st = true
      ∧ t.bk = { s.bk with repair := smPut s.bk.repair st (2 * 2 ^ 28 + die * 2 ^ 24 + bank * 2 ^ 18 + 1) }
      ∧ RegsKeep [regKey A.STK_RPR_STAT st 0] s t ∧ t.mem = s.mem)
  ∧ (∀ (s : State) k st die bank, s.Canonical → s.grants (.trowel k) A.STK_RPR_CMD →
      s.instOf .stk (A.STK_RPR_CMD / 0x1000) (.trowel k) = some st → s.flag F.STK_RPR_STAT_BUSY st = false →
      die < 16 → bank < 64 → s.bankSpares st die = 0 →
    ∃ t, exec (.bankSpare (.trowel k) die bank) s = .next t ∧ t.flag F.STK_RPR_STAT_EXHAUSTED st = true
      ∧ t.flag F.STK_RPR_STAT_FAIL st = true ∧ t.bk = s.bk ∧ t.mem = s.mem)
  ∧ (∀ (s : State) st die bank row, s.Canonical → st < 16 → die < 16 → bank < 64 → row < 65536 →
      s.bk.repair.find? (fun e => e.1 = st) = some (st, 2 ^ 28 + die * 2 ^ 24 + bank * 2 ^ 18 + row + 1) →
      s.runAt (bankKey st (die * 64 + bank)) = none →
    ∃ t, exec (.repairDone st) s = .next t ∧ t.flag F.STK_RPR_STAT_BUSY st = false
      ∧ smGet (fun _ => 0) t.bk.rowSpares (bankKey st (die * 64 + bank))
          = smGet (fun _ => 0) s.bk.rowSpares (bankKey st (die * 64 + bank)) + 1
      ∧ (bankKey st (die * 64 + bank), row + 1) ∈ t.ftg.repairRecord ∧ (∀ a, t.okByte a = s.okByte a))
  ∧ (∀ (s : State) k st, s.Canonical → s.grants (.trowel k) A.STK_TRAIN →
      s.instOf .stk (A.STK_TRAIN / 0x1000) (.trowel k) = some st → s.flag F.STK_TRAIN_START st = false →
      s.stackServes st = false →
    ∃ t, exec (.stkTrainStart (.trowel k)) s = .next t ∧ t.flag F.STK_TRAIN_START st = true ∧ t.getF F.STK_TRAIN_PHASE st = 1
      ∧ t.unit .stk st = 2 ∧ RegsKeep [regKey A.STK_TRAIN st 0, regKey (hdrAddr .stk 0x0C) st 0] s t
      ∧ t = { s with regs := t.regs, unitGen := t.unitGen, out := s.out ++ [.regReply (.trowel k) 0 0] })
  ∧ (∀ (s : State) st dieOk chOk, s.Canonical → st < 16 → s.flag F.STK_TRAIN_START st = true → s.dv.st ≠ .bringup →
    ∃ t, exec (.stkTrainDone st 0 dieOk chOk) s = .next t ∧ t.unit .stk st = 3 ∧ t.getF F.STK_TRAIN_PHASE st = 4
      ∧ t.flag F.STK_TRAIN_START st = false ∧ t.getF F.STK_STATE_DIE_OK st = dieOk % 65536
      ∧ (∀ a, a < 16 * stackBytes → s.heldBy a = st → t.byte a = 0#8)
      ∧ (∀ a, (16 * stackBytes ≤ a ∨ s.heldBy a ≠ st) → t.byte a = s.byte a))
  ∧ (∀ (s : State) st dieOk chOk, s.Canonical → st < 16 → s.flag F.STK_TRAIN_START st = true → s.dv.st = .bringup →
    ∃ t, exec (.stkTrainDone st 0 dieOk chOk) s = .next t ∧ t.getF F.STK_TRAIN_PHASE st = 3 ∧ t.unit .stk st = s.unit .stk st
      ∧ st ∈ t.dv.stacksDone ∧ t.mem = s.mem)
  ∧ (∀ (s : State) st n dieOk chOk, s.Canonical → st < 16 → n < 65535 → s.flag F.STK_TRAIN_START st = true →
    ∃ t, exec (.stkTrainDone st (n + 1) dieOk chOk) s = .next t ∧ t.getF F.STK_TRAIN_PHASE st = 5 ∧ t.unit .stk st = 1
      ∧ t.getF F.STK_TRAIN_RESULT st = n + 1 ∧ t.bit (hdrF .stk 0x10 30 0) 2 st = true ∧ t.mem = s.mem)

/-- Directory entries from CREATE to DELETE. Formalises R409, R411, R412, R408 (the generation), R469 (the key of the image
that is sealed) and what R414, R455 and R473 refuse. That a command waits for its duty is Table 16-4. Completes:
imageCreate, seal, imageAbort, imageDelete, sealDone. -/
def Obligations.ImagesLive : Prop :=
  (∀ (s : State) req i, s.grants req A.FTG_IMG_CMD → mayWrite req 0x40 = true → s.idx F.FTG_IMG_IDX_IMAGE req = i →
      smSorted s.ftg.dir = true → (s.image i).busy = false → (s.dutyServed 4 = true ∨ s.dv.romRecovery = true) →
    (∀ kind owner, (kind = 1 ∨ kind = 3) → owner < 32 → (s.image i).state = 0 →
        s.footingUsed + s.imageSize i ≤ footingCapacity → s.getF F.FTG_STATE_STORE ≠ 3 →
      ∃ t, exec (.imageCreate req kind owner) s = .next t
        ∧ t.image i = { gen := (s.image i).gen, state := 1, kind := kind, owner := owner, size := (s.image i).size }
        ∧ (∀ j, j ≠ i → t.image j = s.image j)
        ∧ t = { s with ftg := { s.ftg with dir := t.ftg.dir }, out := s.out ++ [.regReply req 0 0] })
    ∧ (∀ kind owner, (kind = 1 ∨ kind = 3) → owner < 32 → (s.image i).state = 0 →
        (footingCapacity < s.footingUsed + s.imageSize i ∨ s.getF F.FTG_STATE_STORE = 3) →
      ∃ t, exec (.imageCreate req kind owner) s = .next t
        ∧ t.image i = { s.image i with fail := true, status := 0x030E, busy := false })
    ∧ (∀ kind owner, (s.image i).state ≠ 0 →
      ∃ t, exec (.imageCreate req kind owner) s = .next t
        ∧ t.image i = { s.image i with fail := true, status := 0x0103, busy := false } ∧ t.ftg.data = s.ftg.data)
    ∧ ((s.image i).state = 1 →
      (∃ t, exec (.seal req) s = .next t
        ∧ t.image i = { s.image i with state := 2, busy := true, fail := false, status := 0 } ∧ t.ftg.data = s.ftg.data
        ∧ t.ftg.keyReg = s.imageKey i)
      ∧ (∃ t, exec (.imageAbort req) s = .next t ∧ t.image i = { gen := (s.image i).gen }
        ∧ (∀ off, off < 2 ^ 44 → t.payload i off = 0#8)
        ∧ (∀ j off, j ≠ i → j < 4096 → off < 2 ^ 44 → t.payload j off = s.payload j off)))
    ∧ ((s.image i).state = 3 → s.imageInUse i = false →
      ∃ t, exec (.imageDelete req) s = .next t ∧ t.image i = { gen := (s.image i).gen + 1 }
        ∧ (∀ off, off < 2 ^ 44 → t.payload i off = 0#8)
        ∧ (∀ j off, j ≠ i → j < 4096 → off < 2 ^ 44 → t.payload j off = s.payload j off ∧ t.image j = s.image j))
    ∧ ((s.image i).state = 3 → s.imageInUse i = true →
      ∃ t, exec (.imageDelete req) s = .next t
        ∧ t.image i = { s.image i with fail := true, status := 0x0103, busy := false } ∧ t.ftg.data = s.ftg.data))
  ∧ (∀ (s : State) req, s.grants req A.FTG_IMG_CMD → mayWrite req 0x40 = true → s.dutyServed 4 = false →
      s.dv.romRecovery = false → (s.image (s.idx F.FTG_IMG_IDX_IMAGE req)).busy = false →
    ∃ t, exec (.seal req) s = .next t ∧ t.image (s.idx F.FTG_IMG_IDX_IMAGE req)
        = { s.image (s.idx F.FTG_IMG_IDX_IMAGE req) with busy := true }
      ∧ t.ftg.waiting = s.ftg.waiting ++ [(s.idx F.FTG_IMG_IDX_IMAGE req, 2 * 2 ^ 28)])
  ∧ (∀ (s : State) i, (s.image i).state = 2 → s.keystonePaused = false → (s.image i).badDie = false →
      frxLayoutOk (s.payload i) (s.image i).kind = true →
      s.signerOk (s.payload i) (s.image i).kind (s.image i).owner = true →
      ((s.image i).kind ≠ 3 ∨ componentOk (s.payload i) = true) →
    ∃ t, exec (.sealDone i true true true true) s = .next t
      ∧ t.image i = { s.image i with state := 3, busy := false, fail := false, status := 0 }
      ∧ t = { s with ftg := { s.ftg with dir := t.ftg.dir, keyReg := [] } })
  ∧ (∀ (s : State) i sg mf hs bs, i < 4096 → (s.image i).state = 2 → s.keystonePaused = false → smSorted s.ftg.dir = true → s.Canonical →
      (sg = false ∨ mf = false ∨ hs = false ∨ bs = false ∨ frxLayoutOk (s.payload i) (s.image i).kind = false
        ∨ s.signerOk (s.payload i) (s.image i).kind (s.image i).owner = false ∨ (s.image i).badDie = true) →
    ∃ t, exec (.sealDone i sg mf hs bs) s = .next t
      ∧ t.image i = { gen := (s.image i).gen, fail := true, status := 0x0901 }
      ∧ (∀ off, off < 2 ^ 44 → t.payload i off = 0#8) ∧ t.bit (hdrF .ftg 0x10 30 0) 4 blockWide = true
      ∧ (sg = false → t.bit (hdrF .kst 0x10 30 0) 0 = true))

/-- The staging window, retention, defects and die failures. Formalises R410, R418 (retention and defects) and R419.
Completes: stagingWrite, retentionSample, blockDefect, footingDieFail. -/
def Obligations.FootingKeepsItsMedia : Prop :=
  (∀ (s : State) req addr data i off, s.reachesRegs req = true → (∀ a, req ≠ .host a) → inStaging addr data.length = true →
      s.stageAt (reqCode req) addr = (i, off) → data ≠ [] → off % 4096 + data.length ≤ 4096 → off + data.length ≤ 2 ^ 44 →
      (s.image i).state = 1 → smSorted s.ftg.data = true →
    (s.ftg.programmed.contains (i * 2 ^ 32 + off / 4096) = false → s.stagingRoom (i * 2 ^ 32 + off / 4096) = true →
      ∃ t, exec (.stagingWrite req addr data) s = .next t
        ∧ (∀ k, k < data.length → some (t.payload i (off + k)) = data[k]?)
        ∧ (∀ x, (x < off ∨ off + data.length ≤ x) → x < 2 ^ 44 → t.payload i x = s.payload i x)
        ∧ t = { s with regs := t.regs, freeCount := t.freeCount, out := s.out ++ [.regReply req 0 0]
                       ftg := { s.ftg with data := t.ftg.data, written := t.ftg.written, programmed := t.ftg.programmed, keyReg := [] } }
        ∧ RegsBut [F.FTG_PE_MAX_CYCLES.addr, F.FTG_PE_AVG_CYCLES.addr] s t)
    ∧ (s.ftg.programmed.contains (i * 2 ^ 32 + off / 4096) = true →
      ∃ t, exec (.stagingWrite req addr data) s = .next t ∧ t.ftg = { s.ftg with keyReg := [] } ∧ t.bit (hdrF .ftg 0x10 30 0) 3 blockWide = true))
  ∧ (∀ (s : State) req addr data, s.reachesRegs req = true → (∀ a, req ≠ .host a) → inStaging addr data.length = true →
      (s.image (s.stageAt (reqCode req) addr).1).state ≠ 1 →
      exec (.stagingWrite req addr data) s = .next (s.replied req 0x0304))
  ∧ (∀ (s : State) chan bits, s.Canonical → chan < 8 → s.dutyServed 4 = true → s.getF F.FTG_STATE_STORE = 2 →
      s.getF F.FTG_REFRESH_BITS_REFRESH_BITS < bits →
    ∃ t, exec (.retentionSample chan bits) s = .next t
      ∧ t.getF F.FTG_REFRESHED_COUNT = (s.getF F.FTG_REFRESHED_COUNT + 1) % 2 ^ F.FTG_REFRESHED_COUNT.width
      ∧ RegsKeep [regKey F.FTG_REFRESHED_COUNT.addr 0 0, regKey F.FTG_CH_CE_COUNT.addr chan 0, regKey F.FTG_PE_MAX_CYCLES.addr 0 0,
          regKey F.FTG_PE_AVG_CYCLES.addr 0 0] s t
      ∧ t = { s with regs := t.regs, freeCount := t.freeCount })
  ∧ (∀ (s : State) chan n, s.Canonical → chan < 8 → s.getF F.FTG_SPARE_BLOCKS = n + 1 →
    ∃ t, exec (.blockDefect chan) s = .next t ∧ t.getF F.FTG_SPARE_BLOCKS = n ∧ t.ftg.sparesUsed = s.ftg.sparesUsed + 1
      ∧ (n < s.getF F.FTG_SPARE_LOW_BLOCKS → t.bit (hdrF .ftg 0x10 30 0) 1 blockWide = true)
      ∧ (n = 0 → t.getF F.FTG_STATE_STORE = 3 ∧ t.bit (hdrF .ftg 0x10 30 0) 2 blockWide = true)
      ∧ t.mem = s.mem ∧ t.ftg = { s.ftg with sparesUsed := s.ftg.sparesUsed + 1 })
  ∧ (∀ (s : State) chan die images, s.Canonical → chan < 8 → die < 4 →
    ∃ t, exec (.footingDieFail chan die images) s = .next t ∧ t.bit F.FTG_CH_STATE_DIES_OK die chan = false
      ∧ t.ftg.deadDies = s.ftg.deadDies ++ [chan * 4 + die] ∧ t.bit (hdrF .ftg 0x10 30 0) 5 chan = true
      ∧ (∀ i ∈ images, (s.image i).state ≠ 0 → t.image i = { s.image i with badDie := true })
      ∧ (∀ i, i ∉ images → t.image i = s.image i) ∧ t.ftg.data = s.ftg.data)

/-- Inbound transfers, clearing, halts, self-tests and the mapping of bricks. Formalises R100, R109, R110, R130 to R132; that
a failed idle self-test quarantines the brick is the model's reading of R515. Completes: inboundAdmit, inboundLanded,
brickClearDone, issueTimeout, idleSelftest, bringInSpare, retireBrick. -/
def Obligations.BricksMapAndReceive : Prop :=
  (∀ (s : State) n off data bad cycle, data ≠ [] → off + data.length ≤ 2 ^ 19 →
      (∀ m, (s.brick n).nextMove = some m → cycle ≤ m.1) → ((s.brick n).run.bind fun r => r.stopAt) = none →
    ∃ t, exec (.inboundAdmit n off data bad cycle) s = .next t
      ∧ (t.brick n).inbound = (s.brick n).inbound
          ++ [{ off := off, data := data, held := (s.brick n).readsIn off data.length, bad := bad }]
      ∧ (∀ g, g ∈ (t.brick n).absent ↔ g ∈ (s.brick n).absent ∨ (off / 2048 ≤ g ∧ g ≤ (off + data.length - 1) / 2048))
      ∧ t = { s with br := t.br })
  ∧ (∀ (s : State) n k cycle x, s.Canonical → smSorted s.br = true → (s.brick n).inbound[k]? = some x →
      (∀ m, (s.brick n).nextMove = some m → cycle ≤ m.1) → ((s.brick n).run.bind fun r => r.stopAt) = none →
      (x.held = true → (s.brick n).readsIn x.off x.data.length = true →
        exec (.inboundLanded n k cycle) s = .next (s.setBrick n { s.brick n with now := max (s.brick n).now cycle }))
      ∧ ((x.held = false ∨ (s.brick n).readsIn x.off x.data.length = false) → x.bad = [] → x.ticket = none →
          s.anyBad (bedAddr n x.off) x.data.length = false →
        ∃ t, exec (.inboundLanded n k cycle) s = .next t ∧ (t.brick n).inbound = (s.brick n).inbound.eraseIdx k
          ∧ t.okBytes (bedAddr n x.off) x.data.length = x.data ∧ ReadsOutside (bedAddr n x.off) x.data.length s t
          ∧ (∀ g, g ∈ (t.brick n).absent ↔ g ∈ (s.brick n).absent
              ∧ ∃ y ∈ (s.brick n).inbound.eraseIdx k, g ∈ segsOf y.off y.data.length)))
  ∧ (∀ (s : State) n, smSorted s.br = true → s.pt.clearing.contains n = true →
    ∃ t, exec (.brickClearDone n) s = .next t ∧ n ∉ t.pt.clearing ∧ t.brick n = { clk := (s.brick n).clk }
      ∧ (∀ a, bedAddr n 0 ≤ a → a < bedAddr n 0 + 2 ^ 19 → t.okByte a = 0#8)
      ∧ (∀ a, (a < bedAddr n 0 ∨ bedAddr n 0 + 2 ^ 19 ≤ a) → t.byte a = s.byte a) ∧ t.regs = s.regs)
  ∧ (∀ (s : State) n e us, ((s.brick n).queues.getD e []) ≠ [] → s.getF F.BRK_ISSUE_TMO_US n < us →
      (s.anyPaused = false ∨ (s.brick n).inbound = []) →
      exec (.issueTimeout n e us) s = .next ((s.halt n 0x0A02).err .brk n 1))
  ∧ (∀ (s : State) n status r, smSorted s.br = true → (s.brick n).run = some r →
      (s.halt n status).brick n = (s.brick n).flush ∧ (s.halt n status).mem = s.mem ∧ (s.halt n status).synd = s.synd
      ∧ (s.brick n).flush.run = none ∧ (s.brick n).flush.queues = [[], [], [], []] ∧ (s.brick n).flush.full = [])
  ∧ (∀ (s : State) n idle since, s.Canonical → n < 10752 → (s.brick n).run = none → 1000 ≤ idle → 3600000 ≤ since →
      s.unit .brk n = 3 →
    (∃ t, exec (.idleSelftest n idle since false) s = .next t ∧ t.unit .brk n = 5 ∧ t.bit (hdrF .brk 0x10 30 0) 5 n = true
      ∧ t.mem = s.mem) ∧ exec (.idleSelftest n idle since true) s = .next s)
  ∧ (∀ (s : State) k n logical spare old sp, s.Canonical → s.grants (.trowel k) A.BRK_MAP_CMD →
      s.instOf .brk (A.BRK_MAP_CMD / 0x1000) (.trowel k) = some n → smSorted s.bm.phys = true → spare < 64 →
      logical / 1280 = n / 1344 → logical < 2 ^ 14 → s.physOf logical = some old → s.spareBrick (n / 1344) spare = some sp →
      s.brickIdle old = true → old / 1344 = n / 1344 → old ≠ sp → sp < 10752 →
    ∃ t, exec (.bringInSpare (.trowel k) logical spare) s = .next t ∧ t.physOf logical = some sp
      ∧ (∀ l, l ≠ logical → t.physOf l = s.physOf l) ∧ t.bm.retired = s.bm.retired ++ [old]
      ∧ t.ftg.brickRecord = s.ftg.brickRecord ++ [old] ∧ t.unit .brk old = 1 ∧ t.unit .brk sp = 3
      ∧ t.flag F.BRK_MAP_STAT_FAIL n = false ∧ t.mem = s.mem)
  ∧ (∀ (s : State) k n l, s.Canonical → s.grants (.trowel k) A.BRK_MAP_CMD →
      s.instOf .brk (A.BRK_MAP_CMD / 0x1000) (.trowel k) = some n → s.logicalOf n = some l → s.brickIdle n = true →
    ∃ t, exec (.retireBrick (.trowel k)) s = .next t ∧ t.physOf l = none ∧ n ∈ t.bm.retired ∧ t.unit .brk n = 1
      ∧ t.flag F.BRK_MAP_STAT_FAIL n = false ∧ t.mem = s.mem)
  ∧ (∀ (s : State) k n l, s.Canonical → s.grants (.trowel k) A.BRK_MAP_CMD →
      s.instOf .brk (A.BRK_MAP_CMD / 0x1000) (.trowel k) = some n → s.logicalOf n = some l → s.brickIdle n = false →
    ∃ t, exec (.retireBrick (.trowel k)) s = .next t ∧ t.bm = s.bm ∧ t.flag F.BRK_MAP_STAT_FAIL n = true
      ∧ RegsKeep [regKey A.BRK_MAP_STAT n 0] s t)

/-- Every arithmetic instruction of the Mason core. Formalises the arithmetic rows of Table 5-5, R138, R134 (x0) and R143 for
them. Completes: aluAdd, aluSub, aluAnd, aluOr, aluXor, aluSll, aluSrl, aluSra, aluSlt, aluSltu, aluMin, aluMax, aluMinu,
aluMaxu, aluMul, aluMulh, aluMulhu, aluDiv, aluDivu, aluRem, aluRemu, addi, andi, ori, xori, slti, sltiu, slli, srli,
srai, lui. -/
def Obligations.MasonComputes : Prop :=
  (∀ (s : State) n w r, s.masonAt n w r →
    let b := (s.brick n).arrived
    let x := BitVec.ofNat 32 (b.readX (mB w))
    let y := BitVec.ofNat 32 (b.readX (mC w))
    (mOp w = 0 → mFunct w = 0 → exec (.aluAdd n false) s = .next (s.setBrick n (b.result (mA w) (x + y).toNat 1)))
    ∧ (mOp w = 0 → mFunct w = 1 → exec (.aluSub n false) s = .next (s.setBrick n (b.result (mA w) (x - y).toNat 1)))
    ∧ (mOp w = 0 → mFunct w = 2 → exec (.aluAnd n false) s = .next (s.setBrick n (b.result (mA w) (x &&& y).toNat 1)))
    ∧ (mOp w = 0 → mFunct w = 3 → exec (.aluOr n false) s = .next (s.setBrick n (b.result (mA w) (x ||| y).toNat 1)))
    ∧ (mOp w = 0 → mFunct w = 4 → exec (.aluXor n false) s = .next (s.setBrick n (b.result (mA w) (x ^^^ y).toNat 1)))
    ∧ (mOp w = 0 → mFunct w = 5 → exec (.aluSll n false) s = .next (s.setBrick n (b.result (mA w) (x <<< (y.toNat % 32)).toNat 1)))
    ∧ (mOp w = 0 → mFunct w = 6 → exec (.aluSrl n false) s = .next (s.setBrick n (b.result (mA w) (x >>> (y.toNat % 32)).toNat 1)))
    ∧ (mOp w = 0 → mFunct w = 7 → exec (.aluSra n false) s = .next (s.setBrick n (b.result (mA w) (x.sshiftRight (y.toNat % 32)).toNat 1)))
    ∧ (mOp w = 0 → mFunct w = 8 → exec (.aluSlt n false) s = .next (s.setBrick n (b.result (mA w) (if x.slt y then 1#32 else 0#32).toNat 1)))
    ∧ (mOp w = 0 → mFunct w = 9 → exec (.aluSltu n false) s = .next (s.setBrick n (b.result (mA w) (if x.ult y then 1#32 else 0#32).toNat 1)))
    ∧ (mOp w = 0 → mFunct w = 10 → exec (.aluMin n false) s = .next (s.setBrick n (b.result (mA w) (if x.slt y then x else y).toNat 1)))
    ∧ (mOp w = 0 → mFunct w = 11 → exec (.aluMax n false) s = .next (s.setBrick n (b.result (mA w) (if x.slt y then y else x).toNat 1)))
    ∧ (mOp w = 0 → mFunct w = 12 → exec (.aluMinu n false) s = .next (s.setBrick n (b.result (mA w) (if x.ult y then x else y).toNat 1)))
    ∧ (mOp w = 0 → mFunct w = 13 → exec (.aluMaxu n false) s = .next (s.setBrick n (b.result (mA w) (if x.ult y then y else x).toNat 1)))
    ∧ (mOp w = 0 → mFunct w = 16 → exec (.aluMul n false) s = .next (s.setBrick n (b.result (mA w) (x * y).toNat 3)))
    ∧ (mOp w = 0 → mFunct w = 17 → exec (.aluMulh n false) s = .next (s.setBrick n (b.result (mA w) (BitVec.ofInt 32 (x.toInt * y.toInt / 2 ^ 32)).toNat 3)))
    ∧ (mOp w = 0 → mFunct w = 18 → exec (.aluMulhu n false) s = .next (s.setBrick n (b.result (mA w) (BitVec.ofNat 32 (x.toNat * y.toNat / 2 ^ 32)).toNat 3)))
    ∧ (mOp w = 0 → mFunct w = 19 → exec (.aluDiv n false) s = .next (s.setBrick n (b.result (mA w) (if y = 0#32 then 0xFFFFFFFF#32 else x.sdiv y).toNat 34)))
    ∧ (mOp w = 0 → mFunct w = 20 → exec (.aluDivu n false) s = .next (s.setBrick n (b.result (mA w) (if y = 0#32 then 0xFFFFFFFF#32 else x / y).toNat 34)))
    ∧ (mOp w = 0 → mFunct w = 21 → exec (.aluRem n false) s = .next (s.setBrick n (b.result (mA w) (if y = 0#32 then x else x.srem y).toNat 34)))
    ∧ (mOp w = 0 → mFunct w = 22 → exec (.aluRemu n false) s = .next (s.setBrick n (b.result (mA w) (if y = 0#32 then x else x % y).toNat 34))))
  ∧ (∀ (s : State) n w r, s.masonAt n w r →
    let b := (s.brick n).arrived
    let x := BitVec.ofNat 32 (b.readX (mB w))
    let se := (BitVec.ofNat 16 w).signExtend 32
    let ze := (BitVec.ofNat 16 w).setWidth 32
    (mOp w = 1 → exec (.addi n false) s = .next (s.setBrick n (b.result (mA w) (x + se).toNat 1)))
    ∧ (mOp w = 2 → exec (.andi n false) s = .next (s.setBrick n (b.result (mA w) (x &&& ze).toNat 1)))
    ∧ (mOp w = 3 → exec (.ori n false) s = .next (s.setBrick n (b.result (mA w) (x ||| ze).toNat 1)))
    ∧ (mOp w = 4 → exec (.xori n false) s = .next (s.setBrick n (b.result (mA w) (x ^^^ ze).toNat 1)))
    ∧ (mOp w = 5 → exec (.slti n false) s = .next (s.setBrick n (b.result (mA w) (if x.slt se then 1#32 else 0#32).toNat 1)))
    ∧ (mOp w = 6 → exec (.sltiu n false) s = .next (s.setBrick n (b.result (mA w) (if x.ult se then 1#32 else 0#32).toNat 1)))
    ∧ (mOp w = 7 → exec (.slli n false) s = .next (s.setBrick n (b.result (mA w) (x <<< (ze.toNat % 32)).toNat 1)))
    ∧ (mOp w = 8 → exec (.srli n false) s = .next (s.setBrick n (b.result (mA w) (x >>> (ze.toNat % 32)).toNat 1)))
    ∧ (mOp w = 9 → exec (.srai n false) s = .next (s.setBrick n (b.result (mA w) (x.sshiftRight (ze.toNat % 32)).toNat 1)))
    ∧ (mOp w = 10 → exec (.lui n false) s = .next (s.setBrick n (b.result (mA w) (ze <<< (16 : Nat)).toNat 1))))
  ∧ (∀ (s : State) n r v vis order, (s.brick n).run.isSome = true → smSorted s.br = true → smSorted (s.brick n).x = true →
      smSorted (s.brick n).xOrder = true →
      r ≠ 0 → (s.brick n).pend = [⟨r, v, vis, order⟩] → smGet (fun _ => 0) (s.brick n).xOrder r ≤ order →
    (vis ≤ (s.brick n).clk → ((s.landRegs n).brick n).readX r = v ∧ ((s.landRegs n).brick n).pend = []
      ∧ ∀ q, q ≠ r → ((s.landRegs n).brick n).readX q = (s.brick n).readX q)
    ∧ ((s.brick n).clk < vis → (s.landRegs n).brick n = s.brick n))

/-- Loads, stores, branches and jumps of the Mason core. Formalises the load, store, branch and jump rows of Table 5-5, R135,
R136, R153 and R143 for them. Completes: beq, bne, blt, bge, bltu, bgeu, jal, jalr, lh, lhu, lb, lbu, sw, sh, sb. -/
def Obligations.MasonLoadsStoresBranches : Prop :=
  ∀ (s : State) n w r, s.masonAt n w r →
    (mOp w = 16 → LoadsAs s n w 4 false fun f => exec (.lw n false f) s)
    ∧ (mOp w = 17 → LoadsAs s n w 2 true fun f => exec (.lh n false f) s)
    ∧ (mOp w = 18 → LoadsAs s n w 2 false fun f => exec (.lhu n false f) s)
    ∧ (mOp w = 19 → LoadsAs s n w 1 true fun f => exec (.lb n false f) s)
    ∧ (mOp w = 20 → LoadsAs s n w 1 false fun f => exec (.lbu n false f) s)
    ∧ (mOp w = 24 → StoresAs s n w 4 fun f => exec (.sw n false f) s)
    ∧ (mOp w = 25 → StoresAs s n w 2 fun f => exec (.sh n false f) s)
    ∧ (mOp w = 26 → StoresAs s n w 1 fun f => exec (.sb n false f) s)
    ∧ (let b := (s.brick n).arrived
      let x := BitVec.ofNat 32 (b.readX (mA w))
      let y := BitVec.ofNat 32 (b.readX (mB w))
      (mOp w = 32 → BranchesAs s n w (x == y) (exec (.beq n false) s))
      ∧ (mOp w = 33 → BranchesAs s n w (x != y) (exec (.bne n false) s))
      ∧ (mOp w = 34 → BranchesAs s n w (x.slt y) (exec (.blt n false) s))
      ∧ (mOp w = 35 → BranchesAs s n w (!x.slt y) (exec (.bge n false) s))
      ∧ (mOp w = 36 → BranchesAs s n w (x.ult y) (exec (.bltu n false) s))
      ∧ (mOp w = 37 → BranchesAs s n w (!x.ult y) (exec (.bgeu n false) s)))
    ∧ (mOp w = 38 → exec (.jal n false) s
        = .next (s.setBrick n (((s.brick n).arrived.sends (mA w) ((s.brick n).pc + 1) 1).goesOn ((s.brick n).pc + mSext w) 3)))
    ∧ (mOp w = 39 → exec (.jalr n false) s
        = .next (s.setBrick n (((s.brick n).arrived.sends (mA w) ((s.brick n).pc + 1) 1).goesOn ((s.brick n).readX (mB w) + mSext w) 3)))

/-- Pushes, waits and the end of a routine, and what faults the core. Formalises R137, R139, R143 for pushes and waits, R149
(END) and R153. That whichever row meets an illegal word takes the fault is the model's choice. Completes: epush, epushm,
spushm, masonWait, waiti, waitc, mEnd, aluAdd, lw. -/
def Obligations.MasonPushesAndWaits : Prop :=
  (∀ (s : State) n w r, s.masonAt n w r →
    let b := (s.brick n).arrived
    (mOp w = 48 → b.queueFull (nbits w 15 13) = false →
      exec (.epush n false) s = .next (s.setBrick n { b.goesOn (b.pc + 1) 1 with
        queues := b.queues.modify (nbits w 15 13) fun q =>
          q ++ [⟨b.readX (mB w) * 2 ^ 32 + b.readX (mA w), b.pc, b.order, b.clk + 2⟩] }))
    ∧ (mOp w = 48 → b.queueFull (nbits w 15 13) = true → exec (.epush n false) s = .next s)
    ∧ (∀ fault, mOp w = 49 → b.queueFull (mTgt w) = true → exec (.epushm n false fault) s = .next s)
    ∧ (mOp w = 49 → b.queueFull (mTgt w) = false → inData (b.maddr w) 8 = true →
      Protected s n (b.maddr w) 8 (fun t => t = s.setBrick n { b.goesOn (b.pc + 1) 3 with
        queues := b.queues.modify (mTgt w) fun q => q ++ [⟨leNat (b.data (b.maddr w) 8), b.pc, b.order, b.clk + 4⟩] })
        fun f => exec (.epushm n false f) s)
    ∧ (∀ fault, mOp w = 49 → b.queueFull (mTgt w) = false → inData (b.maddr w) 8 = false →
      exec (.epushm n false fault) s = .next ((s.setBrick n b).masonFault n (b.maddr w)))
    ∧ (mOp w = 50 → inData (b.maddr w) 32 = true → (b.fifos.getD (mTgt w) []).length < 32 →
      Protected s n (b.maddr w) 32 (fun t => t = s.setBrick n { b.goesOn (b.pc + 1) 4 with
        fifos := b.fifos.modify (mTgt w) fun f => f ++ [⟨fieldB (b.data (b.maddr w) 32) 0 8, fieldB (b.data (b.maddr w) 32) 8 8,
          fieldB (b.data (b.maddr w) 32) 16 8, fieldB (b.data (b.maddr w) 32) 24 8, b.clk + 7⟩] })
        fun f => exec (.spushm n false f) s)
    ∧ (∀ fault, mOp w = 50 → inData (b.maddr w) 32 = true → 32 ≤ (b.fifos.getD (mTgt w) []).length →
      exec (.spushm n false fault) s
        = .next (if (b.fifos.getD (mTgt w) []).any SDesc.last then s else (s.setBrick n b).masonFault n (b.maddr w)))
    ∧ (∀ fault, mOp w = 50 → inData (b.maddr w) 32 = false →
      exec (.spushm n false fault) s = .next ((s.setBrick n b).masonFault n (b.maddr w)))
    ∧ (mOp w = 56 → (∀ k ∈ bitsOf (mImm w) 6, (b.condSince k).isSome = true) →
      ∃ c, exec (.masonWait n false) s = .next (s.setBrick n { b with pc := (b.pc + 1) % 2 ^ 13, clk := c + 1, order := b.order + 1 })
        ∧ b.clk ≤ c ∧ (∀ k ∈ bitsOf (mImm w) 6, ∀ x, b.condSince k = some x → x ≤ c)
        ∧ (c = b.clk ∨ ∃ k ∈ bitsOf (mImm w) 6, b.condSince k = some c))
    ∧ (mOp w = 56 → (∃ k ∈ bitsOf (mImm w) 6, b.condSince k = none) → exec (.masonWait n false) s = .next s)
    ∧ (mOp w = 57 → (b.queues.getD (mTgt w) []) = [] →
      exec (.waiti n false) s = .next (s.setBrick n
        { b with pc := (b.pc + 1) % 2 ^ 13, clk := max b.clk (b.popped.getD (mTgt w) 0) + 1, order := b.order + 1 }))
    ∧ (mOp w = 57 → (b.queues.getD (mTgt w) []) ≠ [] → exec (.waiti n false) s = .next s)
    ∧ (mOp w = 58 → exec (.waitc n false) s = .next (s.setBrick n (b.goesOn (b.pc + 1) (max 1 (mImm w)))))
    ∧ (mOp w = 63 → exec (.mEnd n false) s = .next (s.setBrick n { b.goesOn (b.pc + 1) 1 with run := some { r with ended := true } })))
  ∧ (∀ (s : State) n r, smSorted s.br = true → (s.brick n).run = some r → r.ended = false → r.stopAt = none → (s.brick n).jobs = [] →
      ((s.brick n).code[(s.brick n).pc]? = none ∨ ∃ w, (s.brick n).code[(s.brick n).pc]? = some w ∧ mLegal w = false) →
      exec (.aluAdd n false) s = .next ((s.setBrick n (s.brick n).arrived).masonFault n (s.brick n).pc)
      ∧ exec (.lw n false 0) s = .next ((s.setBrick n (s.brick n).arrived).masonFault n (s.brick n).pc)
      ∧ exec (.epush n false) s = .next ((s.setBrick n (s.brick n).arrived).masonFault n (s.brick n).pc)
      ∧ exec (.mEnd n false) s = .next ((s.setBrick n (s.brick n).arrived).masonFault n (s.brick n).pc))
  ∧ (∀ (s : State) n r, smSorted s.br = true → (s.brick n).run = some r → r.ended = false → r.stopAt = none → (s.brick n).jobs = [] →
    ∃ t, exec (.mEnd n true) s = .next t ∧ (t.brick n).run = none ∧ (t.brick n).held = none ∧ (t.brick n).code = [])

/-- The tile and the matrix-vector path. Formalises R102 to R104, R107, R112 to R116 with the cycles of Table 5-8, and R127;
the arithmetic of R106 is that of tileRow and mvOutput. Completes: tload, tmul, mvld, mvcfg, mvmul, vopCopy, vopRope,
vcfgScaleTable, vcfgParameterBlock, store. -/
def Obligations.TileAndMatrixVector : Prop :=
  (∀ (s : State) n c i r, s.engineAt n 0 c i r → s.Canonical → nbits i.word 63 58 = 1 →
      let off := nbits i.word 18 0
      let fmt := nbits i.word 56 54
      let wb := nbits i.word 57 57
      fmt ≠ 7 → nbits i.word 53 19 = 0 → off % 64 = 0 → off + bankBytes fmt ≤ 2 ^ 19 →
      ((s.brick n).lastBank = wb → (s.brick n).free.getD 0 0 ≤ c) → s.anyBad (bedAddr n off) (bankBytes fmt) = false →
      ∃ t, exec (.tload n c []) s = .next t ∧ IssuedAs n 0 c i (s.brick n).fifos s t
        ∧ (let u := t.runTo n (c + 33);
          OverAt n (c + 33) s u
            ∧ (u.brick n).banks.getD wb {} = ⟨fmt, s.okBytes (bedAddr n off) (bankBytes fmt), c + 32, false⟩
            ∧ (u.brick n).banks.getD (1 - wb) {} = (s.brick n).banks.getD (1 - wb) {} ∧ (u.brick n).acc = (s.brick n).acc))
  ∧ (∀ (s : State) n c i r ds rest, s.engineAt n 0 c i r → s.Canonical → nbits i.word 63 58 = 2 →
      let b := s.brick n
      let af := nbits i.word 56 54
      let bank := b.banks.getD (nbits i.word 57 57) {}
      let rows := nbits i.word 47 32
      let base := nbits i.word 31 22
      let span := nbits i.word 21 11
      let size := if 5 ≤ af then 64 else 32
      let cyc := tileCycles bank.fmt
      let row (k : Nat) : List Byte := s.okBytes (bedAddr n ((unitsOf ds).getD k 0)) size
      af ≠ 7 → nbits i.word 51 48 = 0 → nbits i.word 10 0 = 0 → 1 ≤ rows → 1 ≤ span → span ≤ 1024 → tilePair bank.fmt af = true →
      takeStream (b.fifos.getD 0 []) = some (ds, rest) → streamOk ds [0] rows size size = true → bank.ready ≤ c → bank.bad = false →
      b.accBad = [] → (∀ u ∈ unitsOf ds, s.anyBad (bedAddr n u) size = false) →
      (if b.lastBank = nbits i.word 57 57 then b.free.getD 0 0 else b.free.getD 0 0 + 1) ≤ c → ds.all (fun d => d.ready ≤ c) = true →
      b.presentIn (footprint ds size) = true → (∀ k, k < span → accRow base span k ∉ b.full) →
    ∃ t, exec (.tmul n c []) s = .next t ∧ IssuedAs n 0 c i (b.fifos.set 0 rest) s t
      ∧ (t.brick n).free.getD 0 0 = c + rows * cyc
      ∧ (let u := t.runTo n (c + 15 + rows * cyc);
        OverAt n (c + 15 + rows * cyc) s u
          ∧ (∀ q, (u.brick n).accAt q
              = ((List.range rows).filter fun k => accRow base span k = q).foldl (fun old k =>
                  tileRow bank.fmt af bank.bytes (row k) (if nbits i.word 53 53 = 0 ∧ k < span then List.replicate 32 0 else old))
                  (b.accAt q))
          ∧ (∀ q, q ∈ (u.brick n).full ↔ q ∈ b.full ∨ (nbit i.word 52 = true ∧ ∃ k, k < min rows span ∧ accRow base span k = q))
          ∧ (∀ k, k < min rows span →
              (accRow base span k ∈ (u.brick n).accInt ↔ intFmt bank.fmt = true)))
      ∧ (nbit i.word 52 = true → ∀ k, k < rows → rows ≤ k + span →
          accRow base span k ∉ ((t.runTo n (c + 14 + k * cyc)).brick n).full
          ∧ accRow base span k ∈ ((t.runTo n (c + 15 + k * cyc)).brick n).full))
  ∧ (∀ (s : State) n c i r, s.engineAt n 1 c i r → s.Canonical → smSorted (s.brick n).latch = true → nbits i.word 63 58 = 3 →
      let slots := nbits i.word 57 50
      let count := nbits i.word 49 38
      let off := nbits i.word 18 0
      let len := npop slots 8 * count * 2
      let T := c + 3 + (npop slots 8 * count + 31) / 32
      slots ≠ 0 → count ≠ 0 → nbits i.word 37 27 + count ≤ 2048 → nbits i.word 26 19 = 0 → off % 64 = 0 → off + len ≤ 2 ^ 19 →
      (s.brick n).free.getD 1 0 ≤ c → s.anyBad (bedAddr n off) len = false →
    ∃ t, exec (.mvld n c []) s = .next t ∧ IssuedAs n 1 c i (s.brick n).fifos s t ∧ (t.brick n).latchReady = T - 1
      ∧ (let u := t.runTo n T;
        OverAt n T s u
          ∧ (∀ p sl e, (bitsOf slots 8)[p]? = some sl → e < count →
              smGet (fun _ => 0) (u.brick n).latch (sl * 2048 + nbits i.word 37 27 + e)
                = fieldB (s.okBytes (bedAddr n off) len) ((p * count + e) * 2) 2
              ∧ sl * 2048 + nbits i.word 37 27 + e ∉ (u.brick n).latchBad)
          ∧ (∀ sl e, sl < 8 → e < 2048 →
              (nbit slots sl = false ∨ e < nbits i.word 37 27 ∨ nbits i.word 37 27 + count ≤ e) →
              smGet (fun _ => 0) (u.brick n).latch (sl * 2048 + e) = smGet (fun _ => 0) (s.brick n).latch (sl * 2048 + e))))
  ∧ (∀ (s : State) n c i r, s.engineAt n 1 c i r → s.Canonical → nbits i.word 63 58 = 4 → nbits i.word 56 48 = 0 →
      nbits i.word 15 0 = 0 → nbits i.word 31 16 % 16 = 0 → nbits i.word 43 40 = 0 → (s.brick n).free.getD 1 0 ≤ c →
    ∃ t, exec (.mvcfg n c) s = .next t ∧ (t.brick n).mvDst = nbits i.word 57 57 ∧ (t.brick n).mvGroup = nbits i.word 47 32
      ∧ (t.brick n).mvOut = nbits i.word 31 16 ∧ (t.brick n).queues = (s.brick n).queues.modify 1 List.tail
      ∧ RegsKeep [regKey F.BRK_ISSUE_WAIT_MAX_CYCLES.addr n 0] s t ∧ t = { s with regs := t.regs, br := t.br })
  ∧ (∀ (s : State) n c i r ds rest, s.engineAt n 1 c i r → s.Canonical → nbits i.word 63 58 = 5 → smSorted (s.brick n).rb = true →
      let b := s.brick n
      let fmt := nbits i.word 57 55
      let kblk := if nbits i.word 34 30 = 0 then 32 else nbits i.word 34 30
      let outs := nbits i.word 29 20
      let base := nbits i.word 18 10
      let size := packBytes fmt 64
      let T := c + 11 + outs * mvCycles fmt kblk
      let blocks (o : Nat) : List (List Byte) := (List.range kblk).map fun j =>
        s.okBytes (bedAddr n ((unitsOf ds).getD (o * kblk + j) 0)) size
      let latch (sl e : Nat) : Nat := smGet (fun _ => 0) b.latch (sl * 2048 + nbits i.word 45 35 + e)
      fmt < 6 → nbits i.word 54 47 ≠ 0 → nbits i.word 45 35 + 64 * kblk ≤ 2048 → 1 ≤ outs → outs ≤ 512 → nbits i.word 9 0 = 0 →
      takeStream (b.fifos.getD 1 []) = some (ds, rest) → streamOk ds [0] (outs * kblk) size size = true →
      b.latchReady ≤ c → ds.all (fun d => d.ready ≤ c) = true → b.presentIn (footprint ds size) = true → b.free.getD 1 0 ≤ c →
      b.latchBad = [] → b.rbBad = [] → (∀ u ∈ unitsOf ds, s.anyBad (bedAddr n u) size = false) →
    (b.mvDst = 0 → base + outs ≤ 512 → (∀ o, o < outs → base + o ∉ b.rbFull) →
      ∃ t, exec (.mvmul n c []) s = .next t ∧ IssuedAs n 1 c i (b.fifos.set 1 rest) s t
        ∧ (let u := t.runTo n T;
          OverAt n T s u
            ∧ (∀ o sl, o < outs → sl ∈ bitsOf (nbits i.word 54 47) 8 →
                smGet (fun _ => 0) (u.brick n).rb ((base + o) * 8 + sl) = mvOutput fmt (blocks o) (latch sl)
                  (if nbit i.word 46 = true then smGet (fun _ => 0) b.rb ((base + o) * 8 + sl) else 0))
            ∧ (∀ q, q ∈ (u.brick n).rbFull ↔ q ∈ b.rbFull ∨ (nbit i.word 19 = true ∧ base ≤ q ∧ q < base + outs))
            ∧ u.bk = s.bk))
    ∧ (b.mvDst = 1 →
      ∃ t, exec (.mvmul n c []) s = .next t ∧ IssuedAs n 1 c i (b.fifos.set 1 rest) s t ∧ (t.brick n).mvOut = b.mvOut + outs
        ∧ (let u := t.runTo n T;
          OverAt n T s u
            ∧ u.bk = { s.bk with arriving := s.bk.arriving ++ [{ group := b.mvGroup / 4096 * 256 + b.mvGroup % 256, outBase := b.mvOut, lanes := outs, slots := nbits i.word 54 47, bad := false, own := r.own, sums := (List.range outs).flatMap fun o => (bitsOf (nbits i.word 54 47) 8).map fun sl => ((b.mvOut + o) * 8 + sl, mvOutput fmt (blocks o) (latch sl) 0) }] })))
  ∧ (∀ (s : State) n e c i r, s.engineAt n e c i r → engineWord e i.word = false →
      let t := (s.atCycle n c).engineIllegal n
      (e = 0 → exec (.tload n c []) s = .next t ∧ exec (.tmul n c []) s = .next t)
      ∧ (e = 1 → exec (.mvld n c []) s = .next t ∧ exec (.mvcfg n c) s = .next t ∧ exec (.mvmul n c []) s = .next t)
      ∧ (e = 2 → exec (.vopCopy n c []) s = .next t ∧ exec (.vopRope n c []) s = .next t ∧ exec (.vcfgScaleTable n c []) s = .next t
        ∧ exec (.vcfgParameterBlock n c []) s = .next t)
      ∧ (e = 3 → exec (.store n c []) s = .next t))
  ∧ (∀ (s : State) n k, n < 0x4000 → s.Canonical → smSorted s.br = true →
      k ∈ ((s.parity n [(2, k)]).brick n).accBad ∧ (s.parity n [(2, k)]).bit (hdrF .brk 0x10 30 0) 4 n = true
      ∧ (s.getF F.BRK_PARITY_CNT_COUNT n < 2 ^ 32 - 1 →
          (s.parity n [(2, k)]).getF F.BRK_PARITY_CNT_COUNT n = s.getF F.BRK_PARITY_CNT_COUNT n + 1))

/-- Every vector function, and the vector unit's tables. Formalises R117 to R120. Functions that the spec gives within an
error bound take free values within that bound (log entry 3): the statement holds for every one of them. Completes:
vopCopy, vopAdd, vopMul, vopMax, vopRelu, vopSigmoid, vopSilu, vopGeluTanh, vopGateSilu, vopExp, vopRecip, vopRsqrt,
vopLnorm, vopRmsnorm, vopNstat, vopNapply, vopRope, vcfgScaleTable, vcfgParameterBlock. -/
def Obligations.VectorUnit : Prop :=
  (∀ (s : State) n f c i r va vb restA restB, s.engineAt n 2 c i r → s.Canonical →
      s.vopReady n f c i va vb restA restB →
    (f = 0 → VopRuns s n f c i va vb restA restB (exec (.vopCopy n c []) s))
    ∧ (f = 1 → VopRuns s n f c i va vb restA restB (exec (.vopAdd n c []) s))
    ∧ (f = 2 → VopRuns s n f c i va vb restA restB (exec (.vopMul n c []) s))
    ∧ (f = 3 → VopRuns s n f c i va vb restA restB (exec (.vopMax n c []) s))
    ∧ (f = 4 → VopRuns s n f c i va vb restA restB (exec (.vopRelu n c []) s))
    ∧ (f = 5 → VopRuns s n f c i va vb restA restB (exec (.vopSigmoid n c []) s))
    ∧ (f = 6 → VopRuns s n f c i va vb restA restB (exec (.vopSilu n c []) s))
    ∧ (f = 7 → VopRuns s n f c i va vb restA restB (exec (.vopGeluTanh n c []) s))
    ∧ (f = 8 → VopRuns s n f c i va vb restA restB (exec (.vopGateSilu n c []) s))
    ∧ (f = 9 → VopRuns s n f c i va vb restA restB (exec (.vopExp n c []) s))
    ∧ (f = 10 → VopRuns s n f c i va vb restA restB (exec (.vopRecip n c []) s))
    ∧ (f = 11 → VopRuns s n f c i va vb restA restB (exec (.vopRsqrt n c []) s))
    ∧ (f = 16 → VopRuns s n f c i va vb restA restB (exec (.vopLnorm n c []) s))
    ∧ (f = 17 → VopRuns s n f c i va vb restA restB (exec (.vopRmsnorm n c []) s))
    ∧ (f = 18 → VopRuns s n f c i va vb restA restB (exec (.vopNstat n c []) s))
    ∧ (f = 19 → VopRuns s n f c i va vb restA restB (exec (.vopNapply n c []) s))
    ∧ (f = 20 → VopRuns s n f c i va vb restA restB (exec (.vopRope n c []) s)))
  ∧ (∀ (s : State) n c i r, s.engineAt n 2 c i r → s.Canonical → nbits i.word 63 58 = 7 → nbits i.word 55 19 = 0 →
      (s.brick n).free.getD 2 0 ≤ c → (s.brick n).idle.getD 2 0 < c → smSorted (s.brick n).scale = true →
      let off := nbits i.word 18 0
      off % 64 = 0 →
    (nbits i.word 57 56 = 0 → off + 4096 ≤ 2 ^ 19 → s.anyBad (bedAddr n off) 4096 = false →
      ∃ t, exec (.vcfgScaleTable n c []) s = .next t ∧ IssuedAs n 2 c i (s.brick n).fifos s t
        ∧ (let u := t.runTo n (c + 19);
          OverAt n (c + 19) s u
            ∧ (∀ k, k < 1024 → smGet (fun _ => 0) (u.brick n).scale k = fieldB (s.okBytes (bedAddr n off) 4096) (4 * k) 4)
            ∧ (u.brick n).scaleBad = [] ∧ (u.brick n).pblock = (s.brick n).pblock))
    ∧ (nbits i.word 57 56 = 1 → off + 64 ≤ 2 ^ 19 → s.anyBad (bedAddr n off) 64 = false →
        badPblock (s.okBytes (bedAddr n off) 64) = false →
      ∃ t, exec (.vcfgParameterBlock n c []) s = .next t ∧ IssuedAs n 2 c i (s.brick n).fifos s t
        ∧ (let u := t.runTo n (c + 4);
          OverAt n (c + 4) s u
            ∧ (u.brick n).pblock = s.okBytes (bedAddr n off) 64 ∧ (u.brick n).pblockBad = false
            ∧ (u.brick n).scale = (s.brick n).scale))
    ∧ (nbits i.word 57 56 = 1 → off + 64 ≤ 2 ^ 19 → badPblock (s.okBytes (bedAddr n off) 64) = true →
      exec (.vcfgParameterBlock n c []) s = .next ((s.atCycle n c).engineIllegal n)))

/-- The store path, and the start and end of a work item. Formalises R121 to R123 and R125 for stores without rotary coding,
R148, R149 and R151, and R515 for a brick. Completes: store, workItemStart, workItemEnd. -/
def Obligations.StoresAndWorkItems : Prop :=
  (∀ (s : State) n c i r sd rest, s.engineAt n 3 c i r → s.Canonical → s.atRest → (s.brick n).accBad = [] →
      (s.brick n).rbBad = [] → (s.brick n).vecq.all (fun e => !e.2) = true →
      let b := s.brick n
      let w := i.word
      let src := nbits w 57 56
      let cols := nbits w 20 15
      let rows := nbits w 46 31
      let global := nbit w 47
      let T := c + rows + 10
      let at_ (a : Nat) : Nat := if global then localOf a else bedAddr n a
      let bytes := s.storeBytes n w (unitsOf sd) (fun a => s.okByte (at_ a))
      let num (k : Nat) : Nat := if src = 0 then (nbits w 30 21 + k) % 1024 else (nbits w 30 21 + k) % 512
      nbits w 63 58 = 8 → nbit w 49 = false → src ≠ 3 → nbits w 52 50 ≠ 7 → rows ≠ 0 → cols ≠ 0 → cols ≤ 32 → nbits w 14 0 = 0 →
      takeStream (b.fifos.getD 4 []) = some (sd, rest) →
      streamOk sd (if global then [2] else [0]) rows (unitAlign (nbits w 52 50) (nbits w 55 53)) 1 = true →
      storeBad (nbits w 52 50) (nbits w 55 53) rows cols false (fieldB b.pblock 10 2) (unitsOf sd) = false →
      sd.all (fun d => d.ready ≤ c) = true → b.free.getD 3 0 ≤ c → (src = 1 → rows * cols ≤ b.vecq.length) →
      (∀ e ∈ bytes, (s.ecc (at_ e.1)).bad = false) →
      (global = false → storeFits (nbits w 52 50) (nbits w 55 53) rows cols (unitsOf sd) = true) →
      (global = true → ∀ e ∈ bytes, e.1 / 2 ^ 44 % 256 = 0 ∧ devOf e.1 = s.dv.devNum ∧ yardBase ≤ localOf e.1
        ∧ (s.sampled r.own).placeStatus (.part r.part) true (localOf e.1) = 0) →
    ∃ t, exec (.store n c []) s = .next t ∧ IssuedAs n 3 c i ((b.fifos.set 4 rest).set 5 (b.fifos.getD 5 [])) s t
      ∧ (let u := t.runTo n T;
        (u.brick n).jobs = [] ∧ (∀ e ∈ bytes, u.okByte (at_ e.1) = e.2)
          ∧ (∀ a, (∀ e ∈ bytes, a ≠ at_ e.1) → u.okByte a = s.okByte a)
          ∧ (u.brick n).vecq = (if src = 1 then b.vecq.drop (rows * cols) else b.vecq) ∧ (u.brick n).acc = b.acc
          ∧ (∀ q, q ∈ (u.brick n).full ↔ q ∈ b.full ∧ ¬ (nbit w 48 = true ∧ src = 0 ∧ ∃ k, k < rows ∧ num k = q))
          ∧ (∀ q, q ∈ (u.brick n).rbFull ↔ q ∈ b.rbFull ∧ ¬ (nbit w 48 = true ∧ src = 2 ∧ ∃ k, k < rows ∧ num k = q))))
  ∧ (∀ (s : State) num item c x it l n, smSorted s.br = true → s.sv.steps.find? (fun x => x.num = num) = some x →
      x.items[item]? = some it → it.brick = some l → s.physOf l = some n → it.ended = false → (s.brick n).run = none →
      (s.brick n).now ≤ c → s.pt.clearing.contains n = false → s.quiesced .brk n = false → s.unit .brk n = 3 →
      s.holdsBrick x.part l = true → it.item.residents = [] → s.residentsComing n = false →
      let r : BRun := { step := num, item := item, seqs := it.seqs, part := x.part, trap := x.trap, start := c }
    (s.sv.sets.find? (fun e => e.1 = x.part * 256 + it.item.set) = none →
      exec (.workItemStart num item c) s = .next (s.routineAbsent n r) ∧ ((s.routineAbsent n r).brick n).run = none)
    ∧ (∀ set ga gen, s.sv.sets.find? (fun e => e.1 = x.part * 256 + it.item.set) = some (set, ga, gen) →
        s.Canonical → s.atRest → smSorted (s.brick n).dmem = true →
        let base := localOf ga
        (s.holdsSet n it.item.set gen = true → (s.brick n).entries.getD it.item.routine (2 ^ 13) < 2 ^ 13 →
          ∃ t, exec (.workItemStart num item c) s = .next t ∧ (t.brick n).run = some r ∧ (t.brick n).clk = c + 40
            ∧ (t.brick n).pc = (s.brick n).entries.getD it.item.routine (2 ^ 13) ∧ (t.brick n).code = (s.brick n).code
            ∧ (t.brick n).readX 1 = 0xFFC0 ∧ (t.brick n).readX 2 = l ∧ (t.brick n).readX 3 = x.part
            ∧ (∀ q, 4 ≤ q → (t.brick n).readX q = 0)
            ∧ (t.brick n).data 0xFFC0 64 = workDesc it.item.set it.item.routine num it.args
            ∧ (∀ k, k < 0xFFC0 → smGet (fun _ => 0) (t.brick n).dmem k = smGet (fun _ => 0) (s.brick n).dmem k)
            ∧ t = { s with br := t.br })
        ∧ (∀ cb db rs, s.holdsSet n it.item.set gen = false → setHeader (s.okBytes base 64) = some (cb, db, rs) →
          let off := (64 + cb + 63) / 64 * 64
          (s.sampled r.own).rangeStatus (.part x.part) false base 64 = 0 →
          (s.sampled r.own).rangeStatus (.part x.part) false base (off + db) = 0 → s.anyBad base (off + db) = false →
          it.item.routine < rs → fieldB (s.okBytes (base + off) db) (4 * it.item.routine) 4 < 2 ^ 13 →
          ∃ t, exec (.workItemStart num item c) s = .next t ∧ (t.brick n).run = some r
            ∧ (t.brick n).pc = fieldB (s.okBytes (base + off) db) (4 * it.item.routine) 4
            ∧ (t.brick n).clk = c + 64 + ((cb + db) * 5 + 255) / 256 + 40
            ∧ (t.brick n).readX 1 = 0xFFC0 ∧ (t.brick n).readX 2 = l ∧ (t.brick n).readX 3 = x.part
            ∧ (∀ q, 4 ≤ q → (t.brick n).readX q = 0) ∧ (t.brick n).held = some (it.item.set, gen)
            ∧ (t.brick n).code = (List.range (cb / 4)).map (fun k => fieldB (s.okBytes (base + 64) cb) (4 * k) 4)
            ∧ (t.brick n).data 0 db = s.okBytes (base + off) db
            ∧ (t.brick n).data 0xFFC0 64 = workDesc it.item.set it.item.routine num it.args
            ∧ ∀ a, t.okByte a = s.okByte a)))
  ∧ (∀ (s : State) n c r, smSorted s.br = true → s.Canonical → n < 10752 → (s.brick n).run = some r → r.ended = true → r.stopAt = none →
      (s.brick n).jobs = [] → (s.brick n).pend = [] → (∀ k, k < 6 → (s.brick n).condHolds (c + 1) k = true) → (s.brick n).clk ≤ c + 1 →
    ∃ t, exec (.workItemEnd n c) s = .next t ∧ (t.brick n).run = none ∧ (t.brick n).queues = [[], [], [], []]
      ∧ (t.brick n).fifos = [[], [], [], [], [], []] ∧ (t.brick n).full = [] ∧ (t.brick n).rbFull = []
      ∧ (∀ x ∈ t.sv.steps, x.num = r.step → ∀ it, x.items[r.item]? = some it → it.ended = true)
      ∧ (∀ x it, s.sv.steps.find? (fun x => x.num = r.step) = some x → x.items[r.item]? = some it →
          t.unit .brk n = if it.gen = s.genOf .brk n ∧ s.unit .brk n = 3 then 3 else 5))

/-- Doorbells, ring heads, parameter registers and the queue enable. Formalises R296 (doorbells and ring heads, with the
doorbell page of R339) and of R295 and R316 what ENABLE and PRT_PVAL take. Completes: queueDoorbellWrite, ringHeadWrite,
prtQctrlEnable, prtPvalWrite. -/
def Obligations.DoorbellsAndRings : Prop :=
  (∀ (s : State) req p q, s.Canonical → s.instOf .prt 0x153 req = some p → s.idx F.PRT_QSEL_QUEUE req = q → mayWrite req 0x153 = true →
    (s.grants req A.PRT_QTAIL → ∀ v : Word,
      (∀ k, s.qlog p q = k → k ≠ 0 → ringGap (v.toNat % 65536) (s.getF F.PRT_QHEAD_INDEX p q) ≤ 2 ^ k →
        ∃ t, exec (.queueDoorbellWrite req none v) s = .next t ∧ t.getF F.PRT_QTAIL_INDEX p q = v.toNat % 65536
          ∧ RegsKeep [regKey A.PRT_QTAIL p q] s t ∧ t = { s with regs := t.regs, out := s.out ++ [.regReply req 0 0] })
      ∧ (∀ k, s.qlog p q = k → (k = 0 ∨ 2 ^ k < ringGap (v.toNat % 65536) (s.getF F.PRT_QHEAD_INDEX p q)) →
        ∃ t, exec (.queueDoorbellWrite req none v) s = .next t ∧ t.flag F.PRT_QCTRL_DB_REFUSED p q = true
          ∧ RegsKeep [regKey A.PRT_QCTRL p q] s t ∧ t = { s with regs := t.regs, out := s.out ++ [.regReply req 0 0] }))
    ∧ (s.grants req A.PRT_CQHEAD → ∀ v : Word,
      (ringGap (v.toNat % 65536) (s.getF F.PRT_CQHEAD_INDEX p q)
          ≤ ringGap (s.getF F.PRT_CQTAIL_INDEX p q) (s.getF F.PRT_CQHEAD_INDEX p q) →
        ∃ t, exec (.ringHeadWrite req false v) s = .next t ∧ t.getF F.PRT_CQHEAD_INDEX p q = v.toNat % 65536
          ∧ RegsKeep [regKey A.PRT_CQHEAD p q] s t ∧ t = { s with regs := t.regs, out := s.out ++ [.regReply req 0 0] })
      ∧ (ringGap (s.getF F.PRT_CQTAIL_INDEX p q) (s.getF F.PRT_CQHEAD_INDEX p q)
          < ringGap (v.toNat % 65536) (s.getF F.PRT_CQHEAD_INDEX p q) →
        exec (.ringHeadWrite req false v) s = .next (s.replied req 0)))
    ∧ (s.grants req A.PRT_QCTRL →
      (s.getF F.PRT_CQSIZE_LOG2 p q ≠ 0 → (q = 7 ∨ s.qlog p q ≠ 0) →
        ∃ t, exec (.prtQctrlEnable req true) s = .next t ∧ t.flag F.PRT_QCTRL_ENABLE p q = true
          ∧ RegsKeep [regKey A.PRT_QCTRL p q] s t ∧ t = { s with regs := t.regs, out := s.out ++ [.regReply req 0 0] })
      ∧ ((s.getF F.PRT_CQSIZE_LOG2 p q = 0 ∨ (q ≠ 7 ∧ s.qlog p q = 0)) →
        exec (.prtQctrlEnable req true) s = .next (s.replied req 0))
      ∧ (∃ t, exec (.prtQctrlEnable req false) s = .next t ∧ t.flag F.PRT_QCTRL_ENABLE p q = false
          ∧ RegsKeep [regKey A.PRT_QCTRL p q] s t ∧ t = { s with regs := t.regs, out := s.out ++ [.regReply req 0 0] }))
    ∧ (∀ (lo h : Word) x, s.idx F.PRT_PIDX_REG req = x → s.regGate req A.PRT_PVAL_LO 8 true = some 0 →
        s.lockedFor req 0x153 = false →
      ∃ t, exec (.prtPvalWrite req lo (some h)) s = .next t ∧ t.param p q x = lo.toNat + h.toNat * 2 ^ 32
        ∧ RegsKeep [regKey A.PRT_PVAL_LO p (q * 256 + x), regKey A.PRT_PVAL_HI p (q * 256 + x)] s t
        ∧ t = { s with regs := t.regs, out := s.out ++ [.regReply req 0 0] })
    ∧ (∀ (lo : Word) x, s.idx F.PRT_PIDX_REG req = x → s.grants req A.PRT_PVAL_LO →
      ∃ t, exec (.prtPvalWrite req lo none) s = .next t ∧ t.param p q x = lo.toNat + s.param p q x / 2 ^ 32 * 2 ^ 32
        ∧ RegsKeep [regKey A.PRT_PVAL_LO p (q * 256 + x)] s t ∧ t = { s with regs := t.regs, out := s.out ++ [.regReply req 0 0] }))
  ∧ (∀ (s : State) req n (v : Word), n < 256 → s.grants req (A.LNT_QDB + 4 * n) → mayWrite req 0x31 = true →
      exec (.queueDoorbellWrite req (some n) v) s = .next ((s.doorbell (n / 8) (n % 8) (v.toNat % 65536)).replied req 0))

/-- Fetching, records, flushing and resuming. Formalises R297, R300, R305 to R307, R322 and R323. Completes: commandFetch,
completionRecord, resume, flush. -/
def Obligations.CommandsAreFetchedAndRecorded : Prop :=
  (∀ (s : State) p q, s.getF F.PRT_STATE_STATE p ≠ 0 → s.dv.st = .ready → s.flag F.PRT_QCTRL_ENABLE p q = true →
      s.qlog p q ≠ 0 → s.getF F.PRT_QHEAD_INDEX p q ≠ s.getF F.PRT_QTAIL_INDEX p q →
      s.inflight p q < s.getF F.PRT_QRUNAHEAD_LIMIT p q → s.flag F.PRT_QCTRL_RING_FAULT p q = false → s.Canonical → p < 32 → q < 8 →
      s.atRest →
      let a := s.qbase p q + s.getF F.PRT_QHEAD_INDEX p q % 2 ^ s.qlog p q * 64
    (s.ringStatus p false a 64 = 0 → s.anyBad a 64 = false →
      ∃ t, exec (.commandFetch p q) s = .next t
        ∧ t.qu = { s.qu with
            cmds := s.qu.cmds ++ [{ id := s.qu.nextId, part := p, queue := q
                                    words := (List.range 8).map fun i => fieldB (s.okBytes a 64) (8 * i) 8 }]
            nextId := s.qu.nextId + 1 }
        ∧ t.getF F.PRT_QHEAD_INDEX p q = (s.getF F.PRT_QHEAD_INDEX p q + 1) % 65536
        ∧ (∀ x, t.okByte x = s.okByte x))
    ∧ (s.ringStatus p false a 64 ≠ 0 →
      ∃ t, exec (.commandFetch p q) s = .next t
        ∧ t.queueParked p q = true ∧ t.flag F.PRT_QCTRL_RING_FAULT p q = true ∧ t.getF F.PRT_QERR_TAG p q = 0xFFFF
        ∧ t.getF F.PRT_QERR_STATUS p q = s.ringStatus p false a 64
        ∧ t.getF F.PRT_QHEAD_INDEX p q = s.getF F.PRT_QHEAD_INDEX p q
        ∧ t.qu = { s.qu with recs := s.qu.recs ++ [{ part := p, ring := q, origin := q, tag := 0xFFFF, opcode := 0, flags := 0, status := s.ringStatus p false a 64, result := 0, irq := false, parks := true }] }
        ∧ t.mem = s.mem)
    ∧ (s.ringStatus p false a 64 = 0 → s.anyBad a 64 = true →
      ∃ t, exec (.commandFetch p q) s = .next t
        ∧ t.queueParked p q = true ∧ t.flag F.PRT_QCTRL_RING_FAULT p q = true ∧ t.qu.cmds = s.qu.cmds
        ∧ t.qu.recs = s.qu.recs ++ [{ part := p, ring := q, origin := q, tag := 0xFFFF, opcode := 0, flags := 0, status := 0x0401, result := 0, irq := false, parks := true }]))
  ∧ (∀ (s : State) p g r, s.qu.recs.find? (fun r => r.part = p && r.ring = g) = some r →
    (r.quiet = true → ∀ id, r.cmd = some id →
      exec (.completionRecord p g) s = .next (({ s with qu := { s.qu with recs := s.qu.recs.erase r } } : State).leave id))
    ∧ (r.quiet = false → s.cqRoom p g = 0 → exec (.completionRecord p g) s = .next s)
    ∧ (r.quiet = false → s.cqRoom p g ≠ 0 → r.cmd = none → r.irq = false → s.Canonical →
        let pos := s.getF F.PRT_CQTAIL_INDEX p g
        let k := s.getF F.PRT_CQSIZE_LOG2 p g
        let a := s.cqbase p g + pos % 2 ^ k * 16
      s.ringStatus p true a 16 = 0 → s.settledAt a 16 → p < 32 → g < 8 →
      ∃ t, exec (.completionRecord p g) s = .next t
        ∧ t.okBytes a 16 = leBytes r.tag 2 ++ leBytes r.opcode 1
            ++ leBytes ((if pos / 2 ^ k % 2 = 0 then 1 else 0) + r.flags + (if r.parks then 8 else 0) + r.origin * 16) 1
            ++ leBytes r.status 2 ++ leBytes r.part 1 ++ leBytes 0 1 ++ leBytes r.result 8
        ∧ ReadsOutside a 16 s t ∧ t.getF F.PRT_CQTAIL_INDEX p g = (pos + 1) % 65536
        ∧ t.queueParked p r.origin = (r.parks || s.queueParked p r.origin)
        ∧ t.qu = { s.qu with recs := s.qu.recs.erase r }))
  ∧ (∀ (s : State) req p fl, s.Canonical → s.grants req A.PRT_QRESUME → s.instOf .prt 0x153 req = some p → mayWrite req 0x153 = true →
    (exec (.resume req fl) s = .next ((s.queueResume p 0 (fl % 256)).replied req 0)
      ∧ ∀ q, q < 8 → (s.queueResume p 0 (fl % 256)).queueParked p q = (s.queueParked p q && !nbit fl q))
    ∧ (exec (.flush req fl) s = .next ((s.queueResume p (fl % 256) 0).replied req 0)))
  ∧ (∀ (s : State) p q, s.Canonical → s.cmdsApart → ringGap (s.getF F.PRT_QTAIL_INDEX p q) (s.getF F.PRT_QHEAD_INDEX p q) = 0 →
      (∀ c ∈ s.qu.cmds, c.acks = 0 ∧ c.status = 0) →
    let t := s.flushQueue p q
    let gone := (s.queueCmds p q).filter fun c => c.phase = 0 && c.replay.isNone
    t.qu.recs = s.qu.recs ++ gone.map (fun c => c.doneRecord 0x0108 0)
      ∧ t.getF F.PRT_QHEAD_INDEX p q = s.getF F.PRT_QTAIL_INDEX p q ∧ t.getF F.PRT_QADMIT_INDEX p q = s.getF F.PRT_QTAIL_INDEX p q
      ∧ t.mem = s.mem)

/-- NOP, PATCH, ACQUIRE, SIGNAL, FENCE, MARKER, WAIT and REPLAY. Formalises R302 (steps 2 and 3), R310, R313, R314, R317, R319
and what R261 has ACQUIRE drop on this device. Completes: nop, patch, acquire, signal, fence, marker, waitCmd,
waitTimeout, waitEvaluate, replay. -/
def Obligations.PlainCommandsComplete : Prop :=
  (∀ (s : State) p q c d, s.accepts p q 0x13 c d → s.cmdsApart → s.Canonical → c.part = p → c.queue = q → c.plain →
    ∃ t, exec (.nop p q) s = .next t ∧ CmdDone d 0 0 s t ∧ RegsKeep [regKey A.PRT_QADMIT p q] s t ∧ t.mem = s.mem ∧ t.synd = s.synd
      ∧ t.sv = s.sv ∧ t.yd = s.yd ∧ t.bk = s.bk)
  ∧ (∀ (s : State) p q c, s.admissible p q = some c → c.op = 0x13 → s.cmdsApart → s.Canonical → c.part = p → c.queue = q → c.plain →
    (queueAccepts q 0x13 = false → ∃ t, exec (.nop p q) s = .next t ∧ CmdDone c 0x0105 0 s t ∧ t.mem = s.mem)
    ∧ (∀ d, queueAccepts q 0x13 = true → s.substituted c = some d → d.badFields = true →
        ∃ t, exec (.nop p q) s = .next t ∧ CmdDone d 0x0102 0 s t ∧ t.mem = s.mem))
  ∧ (∀ (s : State) p q c d, s.accepts p q 0x03 c d → s.cmdsApart → s.Canonical → c.part = p → c.queue = q → c.plain → q < 8 →
    ∃ t, exec (.patch p q) s = .next t ∧ CmdDone d 0 0 s t ∧ t.mem = s.mem ∧ t.sv = s.sv
      ∧ (∀ i, i < d.hdr 2 0 → d.word (i + 1) < 2 ^ 64 → t.param p q (d.hdr 23 16 + i)
          = if d.hdr 8 8 = 1 then (s.param p q (d.hdr 23 16 + i) + d.word (i + 1)) % 2 ^ 64 else d.word (i + 1))
      ∧ (∀ r, r < 256 → (r < d.hdr 23 16 ∨ d.hdr 23 16 + d.hdr 2 0 ≤ r) → t.param p q r = s.param p q r))
  ∧ (∀ (s : State) p q c d, s.accepts p q 0x07 c d → s.cmdsApart → s.Canonical → c.part = p → c.queue = q → c.plain →
    ∃ t, exec (.acquire p q) s = .next t ∧ CmdDone d 0 0 s t ∧ t.mem = s.mem ∧ t.synd = s.synd
      ∧ (d.hdr 0 0 = 1 → ∀ x, x ∈ t.yd.lines ↔ x ∈ s.yd.lines ∧ x.remote = false)
      ∧ (d.hdr 0 0 = 0 → ∀ x, x ∈ t.yd.lines ↔ x ∈ s.yd.lines
          ∧ ¬(x.remote = true ∧ x.line * 64 < d.word 1 + d.word 2 ∧ d.word 1 < x.line * 64 + 64)))
  ∧ (∀ (s : State) p q c d, s.accepts p q 0x12 c d → s.cmdsApart → s.Canonical → c.part = p → c.queue = q → c.plain →
      s.pt.clearing = [] →
    (d.hdr 0 0 = 0 → devOf (d.word 1) = s.dv.devNum → s.gStatus d true (d.word 1) 8 = 0 → d.word 2 < 2 ^ 64 →
      s.settledAt (localOf (d.word 1)) 8 → s.unmetered p →
      ∃ t, exec (.signal p q) s = .next t ∧ CmdDone d 0 0 s t
        ∧ t.okBytes (localOf (d.word 1)) 8 = leBytes (d.word 2) 8 ∧ ReadsOutside (localOf (d.word 1)) 8 s t)
    ∧ (d.hdr 0 0 = 0 → s.gStatus d true (d.word 1) 8 ≠ 0 →
      ∃ t, exec (.signal p q) s = .next t ∧ CmdDone d (s.gStatus d true (d.word 1) 8) 0 s t ∧ t.mem = s.mem)
    ∧ (d.hdr 0 0 = 1 → d.word 1 / 2 ^ 44 % 256 = 0 → 16 * stackBytes ≤ localOf (d.word 1) →
      ∃ t, exec (.signal p q) s = .next t ∧ CmdDone d 0x0102 0 s t ∧ t.mem = s.mem)
    ∧ (d.hdr 0 0 = 1 → localOf (d.word 1) < 16 * stackBytes → devOf (d.word 1) = s.dv.devNum → s.gStatus d true (d.word 1) 8 = 0 →
      s.memoryOpen → s.ecc (localOf (d.word 1)) = .clean → s.unmetered p →
      ∃ t, exec (.signal p q) s = .next t ∧ CmdDone d 0 0 s t
        ∧ t.rdN (localOf (d.word 1)) 8 = (s.rdN (localOf (d.word 1)) 8 + d.word 2) % 2 ^ 64 ∧ ReadsOutside (localOf (d.word 1)) 8 s t))
  ∧ (∀ (s : State) p q c d, s.cmdsApart → s.Canonical → c.part = p → c.queue = q → c.plain → s.admissible p q = some c →
    (s.accepts p q 0x08 c d → d.hdr 0 0 = 0 →
      (s.earlier c = [] → ∃ t, exec (.fence p q) s = .next t ∧ CmdDone d 0 0 s t ∧ t.mem = s.mem)
      ∧ (s.earlier c ≠ [] → ∃ t e, exec (.fence p q) s = .next t ∧ t.cmdOf d.id = some e ∧ e.phase = 1
          ∧ e.waits = (s.earlier c).map (fun x => x.id) ∧ t.qu.recs = s.qu.recs ∧ t.mem = s.mem))
    ∧ (s.accepts p q 0x1F c d →
      (s.earlier c = [] → ∃ t, exec (.marker p q) s = .next t ∧ CmdDone d 0 (d.word 1) s t ∧ t.mem = s.mem)
      ∧ (s.earlier c ≠ [] → ∃ t e, exec (.marker p q) s = .next t ∧ t.cmdOf d.id = some e ∧ e.phase = 1
          ∧ e.waits = (s.earlier c).map (fun x => x.id) ∧ t.qu.recs = s.qu.recs ∧ t.mem = s.mem)))
  ∧ (∀ (s : State) p q c d, s.accepts p q 0x11 c d → s.cmdsApart → s.Canonical → c.part = p → c.queue = q → c.plain →
      s.pt.clearing = [] → devOf (d.word 1) = s.dv.devNum → s.gStatus d false (d.word 1) 8 = 0 →
      s.atRest → s.anyBad (localOf (d.word 1)) 8 = false → s.unmetered p →
    let v := leNat (s.okBytes (localOf (d.word 1)) 8)
    (d.flagMet v = true → ∃ t, exec (.waitCmd p q) s = .next t ∧ CmdDone d 0 v s t)
    ∧ (d.flagMet v = false → ∃ t e, exec (.waitCmd p q) s = .next t ∧ t.cmdOf d.id = some e ∧ e.phase = 1 ∧ t.qu.recs = s.qu.recs))
  ∧ (∀ (s : State) p q c, s.waiting p q = some c → s.cmdsApart → c ∈ s.qu.cmds → c.plain → s.Canonical →
    (∀ us, c.word 3 ≠ 0 → c.word 3 ≤ us →
      ∃ t, exec (.waitTimeout p q us) s = .next t ∧ t.qu.recs = s.qu.recs ++ [c.doneRecord 0x0107 0] ∧ t.mem = s.mem ∧ t.regs = s.regs)
    ∧ (∀ us, (c.word 3 = 0 ∨ us < c.word 3) → exec (.waitTimeout p q us) s = .next s)
    ∧ (s.pt.clearing = [] → devOf (c.word 1) = s.dv.devNum → s.gStatus c false (c.word 1) 8 = 0 →
        s.atRest → s.anyBad (localOf (c.word 1)) 8 = false → s.unmetered p → c.flagMet (leNat (s.okBytes (localOf (c.word 1)) 8)) = true →
      ∃ t, exec (.waitEvaluate p q) s = .next t
        ∧ t.qu.recs = s.qu.recs ++ [c.doneRecord 0 (leNat (s.okBytes (localOf (c.word 1)) 8))]))
  ∧ (∀ (s : State) p q c d tp, s.accepts p q 0x02 c d → s.cmdsApart → s.Canonical → c.part = p → c.queue = q → c.plain →
      d.hdr 53 53 = 0 → s.template p (d.hdr 11 0) = some tp → tp.kind = 1 → s.getF F.PRT_STATE_STATE p = 2 →
    ∃ t, exec (.replay p q) s = .next t ∧ t.mem = s.mem ∧ t.qu.recs = s.qu.recs
      ∧ t.qu.nextId = s.qu.nextId + tp.cmds.length
      ∧ (∀ i w, tp.cmds[i]? = some w → ∃ e, t.cmdOf (s.qu.nextId + i) = some e ∧ e.replay = some c.id ∧ e.place = i ∧ e.phase = 0
          ∧ e.hdr 47 32 = d.hdr 47 32 ∧ e.words.drop 1 = w.drop 1))

/-- COPY, LAYOUT, GATHER and REDUCE_REMOTE. Formalises R234, R235, R239, R240, R242, R243, R312 and REDUCE_REMOTE of R315 for
row-major tensors, and names the operation that runs for every layout. Completes: copy, layout, gather, reduceRemote. -/
def Obligations.TensorsMove : Prop :=
  (∀ (s : State) p q c d, s.cmdsApart → s.Canonical → c.part = p → c.queue = q → c.plain → s.admissible p q = some c →
      (∀ op, s.resumed p q op = none) → s.pt.clearing = [] → s.memoryOpen → s.unmetered p → d.hdr 53 53 = 0 → c.remote = [] → c.descs = [] →
      c.stage = 0 →
    (∀ par, s.accepts p q 0x04 c d → s.tableSpace d [d.word 1, d.word 2] = 0 →
      exec (.copy p q par) s
        = .next ((s.admitted p 0x04 d).jobRuns (s.asRun p 0x04 d) (copyJob true false par) (d.word 1) (d.word 2)))
    ∧ (∀ par, s.accepts p q 0x05 c d → s.tableSpace d [d.word 1, d.word 2] = 0 →
      exec (.layout p q par) s
        = .next ((s.admitted p 0x05 d).jobRuns (s.asRun p 0x05 d) (copyJob false (d.hdr 0 0 = 1) par) (d.word 1) (d.word 2)))
    ∧ (∀ x y, s.rowTensor p (d.word 1) x → s.rowTensor p (d.word 2) y →
      let carried (v : Nat) : Nat := if x.d.fmt = y.d.fmt then v else convertFmt x.d.fmt y.d.fmt v
      (s.accepts p q 0x04 c d →
        ((y.d.rows ≠ x.d.rows ∨ y.d.cols ≠ x.d.cols ∨ y.d.batch ≠ x.d.batch) →
          ∃ t, exec (.copy p q []) s = .next t ∧ CmdDone d 0x0202 0 s t ∧ ∀ a, t.okByte a = s.okByte a)
        ∧ (y.d.rows = x.d.rows → y.d.cols = x.d.cols → y.d.batch = x.d.batch →
            s.rangesStatus d false x.allFootprints ≠ 0 →
          ∃ t, exec (.copy p q []) s = .next t ∧ CmdDone d (s.rangesStatus d false x.allFootprints) 0 s t ∧ ∀ a, t.okByte a = s.okByte a)
        ∧ (y.d.rows = x.d.rows → y.d.cols = x.d.cols → y.d.batch = x.d.batch → plainPair x.d y.d = false →
            s.rangesStatus d false x.allFootprints = 0 → s.rangesStatus d true y.allFootprints = 0 →
            overlap x.intervals y.intervals = true →
          ∃ t, exec (.copy p q []) s = .next t ∧ CmdDone d 0x0201 0 s t ∧ ∀ a, t.okByte a = s.okByte a)
        ∧ (y.d.rows = x.d.rows → y.d.cols = x.d.cols → y.d.batch = x.d.batch →
            s.rangesStatus d false x.allFootprints = 0 → s.rangesStatus d true y.allFootprints = 0 →
            (plainPair x.d y.d = true ∨ overlap x.intervals y.intervals = false) → s.cleanUnder x → s.cleanUnder y →
          ∃ t, exec (.copy p q []) s = .next t ∧ CmdDone d 0 (y.written % 2 ^ 48) s t ∧ ReadsOutsideOf y s t
            ∧ ∀ k i j, k < y.d.batch → i < y.d.rows → j < y.d.cols → t.elem d y k i j = carried (s.elem d x k i j)))
      ∧ (s.accepts p q 0x05 c d → d.hdr 0 0 = 1 → y.d.rows = x.d.cols → y.d.cols = x.d.rows → y.d.batch = x.d.batch →
            s.rangesStatus d false x.allFootprints = 0 → s.rangesStatus d true y.allFootprints = 0 →
            overlap x.intervals y.intervals = false → s.cleanUnder x → s.cleanUnder y →
          ∃ t, exec (.layout p q []) s = .next t ∧ CmdDone d 0 (y.written % 2 ^ 48) s t ∧ ReadsOutsideOf y s t
            ∧ ∀ k i j, k < y.d.batch → i < y.d.rows → j < y.d.cols → t.elem d y k i j = carried (s.elem d x k j i)))
    ∧ (∀ x y, s.accepts p q 0x06 c d → s.rowTensor p (d.word 1) x → s.rowTensor p (d.word 4) y → x.d.batch = 1 → y.d.batch = 1 →
          y.d.rows = d.word 3 → y.d.cols = x.d.cols → devOf (d.word 2) = s.dv.devNum → localOf (d.word 2) + 4 * d.word 3 ≤ 2 ^ 44 →
          s.rangesStatus d false (x.allFootprints ++ [(d.word 2, 4 * d.word 3)]) = 0 → s.rangesStatus d true y.allFootprints = 0 →
          overlap ((devOf (d.word 2), localOf (d.word 2), localOf (d.word 2) + 4 * d.word 3 - 1) :: x.intervals) y.intervals = false →
          s.anyBad (localOf (d.word 2)) (4 * d.word 3) = false → s.cleanUnder x → s.cleanUnder y →
        let idx (r : Nat) : Nat := leNat (s.okBytes (localOf (d.word 2) + 4 * r) 4)
        let outs := ((List.range (d.word 3)).filter fun r => decide (x.d.rows ≤ idx r)).length
        let carried (v : Nat) : Nat := if x.d.fmt = y.d.fmt then v else convertFmt x.d.fmt y.d.fmt v
        (x.d.rows ≤ 2 ^ 31 → (d.hdr 1 0 ≠ 0 ∨ outs = 0) →
          ∃ t, exec (.gather p q []) s = .next t ∧ CmdDone d 0 (outs % 2 ^ 32) s t ∧ ReadsOutsideOf y s t
            ∧ ∀ r j, r < d.word 3 → j < y.d.cols → t.elem d y 0 r j
                = if idx r < x.d.rows then carried (s.elem d x 0 (idx r) j)
                  else if d.hdr 1 0 = 2 then carried (s.elem d x 0 (if 2 ^ 31 ≤ idx r then 0 else x.d.rows - 1) j)
                  else 0)
        ∧ (x.d.rows ≤ 2 ^ 31 → d.hdr 1 0 = 0 → outs ≠ 0 →
          ∃ t, exec (.gather p q []) s = .next t ∧ CmdDone d 0x0301 (outs % 2 ^ 32) s t ∧ ∀ a, t.okByte a = s.okByte a))
    ∧ (s.accepts p q 0x10 c d → devOf (d.word 1) = s.dv.devNum → devOf (d.word 2) = s.dv.devNum →
        d.word 2 / 2 ^ 44 % 256 = 0 → localOf (d.word 2) + d.word 3 ≤ 16 * stackBytes → 0 < d.word 3 →
        d.word 3 % msBytes (d.hdr 1 0) = 0 → d.word 2 % msBytes (d.hdr 1 0) = 0 →
        s.gStatus d false (d.word 1) (d.word 3) = 0 → s.rangeStatus (.part p) true (localOf (d.word 2)) (d.word 3) = 0 →
        s.anyBad (localOf (d.word 1)) (d.word 3) = false → (∀ w ∈ wordsOf (localOf (d.word 2)) (d.word 3), s.ecc w = .clean) →
        (localOf (d.word 1) + d.word 3 + 64 ≤ localOf (d.word 2) ∨ localOf (d.word 2) + d.word 3 + 64 ≤ localOf (d.word 1)) →
      ∃ t, exec (.reduceRemote p q) s = .next t ∧ CmdDone d 0 0 s t ∧ ReadsOutside (localOf (d.word 2)) (d.word 3) s t
        ∧ ∀ k, k < d.word 3 / msBytes (d.hdr 1 0) →
            t.rdN (localOf (d.word 2) + k * msBytes (d.hdr 1 0)) (msBytes (d.hdr 1 0))
              = msAdd (d.hdr 1 0) (s.rdN (localOf (d.word 2) + k * msBytes (d.hdr 1 0)) (msBytes (d.hdr 1 0)))
                  (s.rdN (localOf (d.word 1) + k * msBytes (d.hdr 1 0)) (msBytes (d.hdr 1 0))) % 256 ^ msBytes (d.hdr 1 0)))

/-- The Yard: accesses, the block table, spares, classes and quotas. Formalises R250, R254, R255, R267 and R272, and of R249
and R253 what an access answers and stores. Completes: yardAccess, yrdBentryWrite, blockConversionDone, yrdSpareCmd,
slabReplaceDone, yrdClsWrite, yrdQCacheWrite, streamDeclare. -/
def Obligations.YardServes : Prop :=
  (∀ (s : State) p cls addr len, s.Canonical → s.pt.clearing = [] → devOf addr = s.dv.devNum → addr / 2 ^ 44 % 256 = 0 →
      (addr % 64 + len ≤ 64 ∨ (yardBase ≤ localOf addr ∧ localOf addr < yardBase + 24576 * 65536)) → cls ∈ [0, 2, 3, 4, 5] → s.atRest →
    (s.takenAtOnce (.part p) p cls addr { op := 0, addr := localOf addr, len := len, data := [] } →
      (s.rangeStatus (.part p) false (localOf addr) len = 0 → s.anyBad (localOf addr) len = false →
        ∃ t more, exec (.yardAccess p 0 0 cls addr [] len 0#72) s = .next t
          ∧ t.out = s.out ++ .memReply p 0 (s.okBytes (localOf addr) len) :: more ∧ ∀ x, t.okByte x = s.okByte x)
      ∧ (s.rangeStatus (.part p) false (localOf addr) len ≠ 0 →
        ∃ t more, exec (.yardAccess p 0 0 cls addr [] len 0#72) s = .next t
          ∧ t.out = s.out ++ .memReply p (s.rangeStatus (.part p) false (localOf addr) len) [] :: more ∧ t.mem = s.mem ∧ t.synd = s.synd))
    ∧ (∀ data : List Byte, data.length = len → s.settledAt (localOf addr) len → s.rangeStatus (.part p) true (localOf addr) len = 0 →
        s.takenAtOnce (.part p) p cls addr { op := 1, addr := localOf addr, len := len, data := data.map some } →
      ∃ t, exec (.yardAccess p 1 0 cls addr data 0 0#72) s = .next t ∧ t.out = s.out ++ [.memReply p 0 []]
        ∧ t.okBytes (localOf addr) len = data ∧ ReadsOutside (localOf addr) len s t)
    ∧ (∀ data : List Byte, data.length = len → s.yd.waiting = [] → s.classAdmits (s.slabOf addr) cls = false →
      ∃ t r, exec (.yardAccess p 1 0 cls addr data 0 0#72) s = .next t ∧ t.yd.waiting = [r] ∧ r.ga = addr ∧ r.cls = cls
        ∧ r.acc.data = data.map some ∧ t.out = s.out ∧ t.mem = s.mem))
  ∧ (∀ (s : State) k b (v : Word), s.Canonical → s.grants (.trowel k) A.YRD_BENTRY → s.idx F.YRD_BIDX_BLOCK (.trowel k) = b → b < 24576 →
    exec (.yrdBentryWrite (.trowel k) v) s = .next ((s.bentryWrite b v.toNat).replied (.trowel k) 0)
    ∧ (nbits v.toNat 31 30 ≠ 3 → (s.blockKind b ≠ 2 ∨ s.blockInUse b = false) →
        (s.bentryWrite b v.toNat).flag F.YRD_BENTRY_BUSY 0 b = true
        ∧ (∃ cv, (s.bentryWrite b v.toNat).yd.converting.find? (fun x => x.block = b) = some cv ∧ cv.entry = nbits v.toNat 31 24)
        ∧ (s.bentryWrite b v.toNat).getF F.YRD_BGEN_GEN = (s.getF F.YRD_BGEN_GEN + 1) % 2 ^ 32
        ∧ (s.bentryWrite b v.toNat).blockKind b = s.blockKind b ∧ (s.bentryWrite b v.toNat).blockOwner b = s.blockOwner b
        ∧ (s.bentryWrite b v.toNat).mem = s.mem)
    ∧ ((nbits v.toNat 31 30 = 3 ∨ (s.blockKind b = 2 ∧ s.blockInUse b = true)) →
        (s.bentryWrite b v.toNat).bit (hdrF .yrd 0x10 30 0) 3 blockWide = true
        ∧ (s.bentryWrite b v.toNat).yd = s.yd ∧ RegsBut (errAddrs .yrd) s (s.bentryWrite b v.toNat)))
  ∧ (∀ (s : State) b cv, s.Canonical → s.yd.converting.find? (fun x => x.block = b) = some cv → b < 24576 → cv.entry < 256 →
      (∀ x ∈ s.qu.cmds, x.part + 1 = cv.was → x.phase ≠ 0 → cv ∈ x.seen.conv) →
      (∀ x ∈ s.sv.steps, x.part + 1 = cv.was → cv ∈ x.seen.conv) → (∀ x ∈ s.yd.lines, x.errs = []) →
    ∃ t, exec (.blockConversionDone b) s = .next t ∧ t.blockKind b = cv.entry / 64
      ∧ t.blockOwner b = (if nbit cv.entry 5 = true then some (cv.entry % 32) else none) ∧ t.flag F.YRD_BENTRY_BUSY 0 b = false
      ∧ (((s.blockKind b = 0 ∧ cv.entry / 64 ≠ 0) ∨ cv.was ≠ (if nbit cv.entry 5 = true then cv.entry % 32 + 1 else 0)) →
          ∀ a, a < 65536 → t.okByte (yardBase + b * 65536 + a) = 0#8)
      ∧ ReadsOutside (yardBase + b * 65536) 65536 s t ∧ (s.yd.lines = [] → RegsKeep [regKey A.YRD_BENTRY 0 b] s t))
  ∧ (∀ (s : State) k logical, s.Canonical → s.grants (.trowel k) A.YRD_SPARE_CMD → s.flag F.YRD_SPARE_STAT_BUSY = false →
      (∀ x ∈ s.yd.lines, x.errs = [] ∧ x.slab = slabOfLine x.line) →
    (∀ sp rest, logical < 48 → s.yd.spares = sp :: rest →
      ∃ t, exec (.yrdSpareCmd (.trowel k) 1 logical) s = .next t ∧ t.yd.replacing = some (logical, sp)
        ∧ t.flag F.YRD_SPARE_STAT_BUSY = true ∧ t.flag F.YRD_SPARE_STAT_FAIL = false ∧ t.yd.slabOf = s.yd.slabOf ∧ t.mem = s.mem
        ∧ (∀ x, x ∈ t.yd.lines ↔ x ∈ s.yd.lines ∧ x.slab ≠ logical))
    ∧ (∀ op, op < 16 → logical < 64 → (op ≠ 1 ∨ 48 ≤ logical ∨ s.yd.spares = []) →
      ∃ t, exec (.yrdSpareCmd (.trowel k) op logical) s = .next t ∧ t.flag F.YRD_SPARE_STAT_FAIL = true
        ∧ t.bit (hdrF .yrd 0x10 30 0) 5 blockWide = true ∧ t.yd = s.yd ∧ t.mem = s.mem))
  ∧ (∀ (s : State) l sp, s.Canonical → s.yd.replacing = some (l, sp) → l < 48 → sp < 50 → sp ≠ s.physSlab l → s.physSlab l < 50 →
      smSorted s.yd.slabOf = true →
    ∃ t, exec .slabReplaceDone s = .next t ∧ t.physSlab l = sp ∧ (∀ m, m ≠ l → t.physSlab m = s.physSlab m)
      ∧ t.unit .yrd sp = 3 ∧ t.unit .yrd (s.physSlab l) = 1 ∧ t.flag F.YRD_SPARE_STAT_BUSY = false
      ∧ t.yd.spares = s.yd.spares.erase sp ∧ t.yd.retired = s.yd.retired ++ [s.physSlab l] ∧ t.yd.replacing = none
      ∧ ∀ a, t.okByte a = s.okByte a)
  ∧ (∀ (s : State) n k (v : Word), s.Canonical → k < 6 → k ≠ 1 → s.grants (.trowel n) (A.YRD_CLS0 + 4 * k) →
      let floor := if k = 5 then max 32 (nbits v.toNat 25 16) else nbits v.toNat 25 16
    (floor ≤ 1023 → [0, 2, 3, 4, 5].foldl (fun m j => m + if j = k then floor else s.getF (clsFloor j)) 0 ≤ 1024 →
      ∃ t, exec (.yrdClsWrite (.trowel n) k v) s = .next t ∧ t.getF (clsFloor k) = floor
        ∧ t.getF (clsCap k) = max floor (min 1024 (nbits v.toNat 10 0)) ∧ RegsKeep [regKey (A.YRD_CLS0 + 4 * k) 0 0] s t
        ∧ t = { s with regs := t.regs, out := s.out ++ [.regReply (.trowel n) 0 0] })
    ∧ (floor ≤ 1023 → 1024 < [0, 2, 3, 4, 5].foldl (fun m j => m + if j = k then floor else s.getF (clsFloor j)) 0 →
      ∃ t, exec (.yrdClsWrite (.trowel n) k v) s = .next t ∧ t.bit (hdrF .yrd 0x10 30 0) 4 blockWide = true
        ∧ (∀ j, t.getF (clsFloor j) = s.getF (clsFloor j) ∧ t.getF (clsCap j) = s.getF (clsCap j))))
  ∧ (∀ (s : State) k p (v : Word), s.Canonical → s.grants (.trowel k) A.YRD_Q_CACHE → s.idx F.YRD_QIDX_PARTITION (.trowel k) = p → p < 32 →
    exec (.yrdQCacheWrite (.trowel k) v) s = .next ((s.quotaCacheWrite p v.toNat).replied (.trowel k) 0)
    ∧ ((List.range 32).foldl (fun n q => n + (s.setReg A.YRD_Q_CACHE v p).getF F.YRD_Q_CACHE_FLOOR q) 0
          ≤ (List.range 48).foldl (fun n sl => n + s.cacheBlocks sl) 0 →
        s.quotaCacheWrite p v.toNat = s.setReg A.YRD_Q_CACHE v p)
    ∧ ((List.range 48).foldl (fun n sl => n + s.cacheBlocks sl) 0
          < (List.range 32).foldl (fun n q => n + (s.setReg A.YRD_Q_CACHE v p).getF F.YRD_Q_CACHE_FLOOR q) 0 →
        s.quotaCacheWrite p v.toNat = s.err .yrd blockWide 4))
  ∧ (∀ (s : State) p base len, len ≠ 0 → let first := base / 64
      let slab := s.slabOf base
      s.flag F.YRD_PF_CTL_ENABLE (s.physSlab slab) = true →
    ((s.yd.streams.filter fun x => x.slab = slab).length < 64 →
      exec (.streamDeclare p base len) s = .next (({ s with yd := { s.yd with streams := s.yd.streams ++
        [{ slab := slab, part := p, first := first, next := first, last := (base + len - 1) / 64 }] } } : State).streamsRun first))
    ∧ (64 ≤ (s.yd.streams.filter fun x => x.slab = slab).length → exec (.streamDeclare p base len) s = .next s))

/-- SEQ_OPEN, the nine SEQ_EDITs and SEQ_CLOSE. Formalises R192, R194, R196, R210, R217, R219 and R522 (TRUNCATE); of R215
what an open without a lookup does. Completes: seqOpen, setInput, setFloor, rebind, setSpec, setClass, hold, truncate,
pages, seqEditApply, seqClose, seqCloseFinish, release. -/
def Obligations.SequencesOpenEditClose : Prop :=
  (∀ (s : State) p q c d, s.accepts p q 0x09 c d → s.resumed p q 0x09 = none → s.cmdsApart → s.Canonical → c.part = p → c.queue = q →
      c.plain → devOf (d.word 1) = s.dv.devNum → s.gStatus d false (d.word 1) 128 = 0 → s.anyBad (localOf (d.word 1)) 128 = false →
      s.memoryOpen → s.unmetered p → c.remote = [] → smSorted s.sv.seqs = true →
      let b := s.okBytes (localOf (d.word 1)) 128
    (∀ n, s.openStatus p b = 0 → s.freeSeq = some n → ((openEntry b).lookup = false ∨ s.getF F.SEQ_PFX_MODE_MODE p = 0) →
      ∃ t, exec (.seqOpen p q) s = .next t ∧ CmdDone d 0 (((s.seq n).gen + 1) % 2 ^ 32 * 2 ^ 32 + n) s t
        ∧ t.seq n = { openEntry b with gen := ((s.seq n).gen + 1) % 2 ^ 32, attnLo := 0
                                       aver := (s.bindable (openEntry b).mslot (openEntry b).aslot).getD 0 }
        ∧ (s.seq n).st = 0 ∧ n < 8192 ∧ (∀ m, m < n → (s.seq m).st ≠ 0) ∧ (∀ m, m ≠ n → t.seq m = s.seq m)
        ∧ ∀ a, t.okByte a = s.okByte a)
    ∧ (∀ n, s.openStatus p b = 0 → s.freeSeq = some n → p < 32 →
      ∃ t, exec (.seqOpen p q) s = .next t ∧ (t.seq n).st = 1 ∧ (t.seq n).part = p ∧ (t.seq n).gen = ((s.seq n).gen + 1) % 2 ^ 32
        ∧ (t.seq n).hlen = fieldB b 16 4 ∧ (t.seq n).dlen = 0 ∧ (t.seq n).clen = 64 * (t.seq n).pfxPub
        ∧ (t.seq n).attnLo ≤ (t.seq n).clen)
    ∧ (s.openStatus p b = 0 → s.freeSeq = none →
      ∃ t, exec (.seqOpen p q) s = .next t ∧ CmdDone d 0x0504 0 s t ∧ t.sv = s.sv ∧ ∀ a, t.okByte a = s.okByte a)
    ∧ (s.openStatus p b ≠ 0 →
      ∃ t, exec (.seqOpen p q) s = .next t ∧ CmdDone d (s.openStatus p b) 0 s t ∧ t.sv = s.sv ∧ ∀ a, t.okByte a = s.okByte a))
  ∧ (∀ (s : State) p q,
      EditRuns s p q 1 (fun d e => { e with hlen := d.word 2 }) (exec (.setInput p q) s)
      ∧ EditRuns s p q 3 (fun d e => { e with attnLo := d.word 2 }) (exec (.setFloor p q) s)
      ∧ EditRuns s p q 4 (fun d e => { e with aslot := d.word 2, aver := (s.bindable e.mslot (d.word 2)).getD 0 }) (exec (.rebind p q) s)
      ∧ EditRuns s p q 5 (fun d e => { e with specD := d.word 2 % 256, rule := nbits (d.word 2) 8 8, temp := d.word 2 / 2 ^ 32, seed := d.word 3 }) (exec (.setSpec p q) s)
      ∧ EditRuns s p q 6 (fun d e => { e with aclass := d.word 2 % 8, chunk := nbits (d.word 2) 10 8, stopTok := d.word 2 / 2 ^ 32 }) (exec (.setClass p q) s)
      ∧ EditRuns s p q 7 (fun _ e => { e with st := 2 }) (exec (.hold p q) s)
      ∧ EditRuns s p q 8 (fun _ e =>
          let e1 := if e.heldByFail then { e with fails := 0, heldByFail := false } else e
          if e.st = 2 ∧ e.suspect = true ∧ s.live e.part = false then { e1 with st := 4, damaged := true, recFrom := 1, rebuilding := false }
          else { e1 with st := 1 }) (exec (.release p q) s))
  ∧ (∀ (s : State) p q c d n, s.accepts p q 0x0A c d → s.resumed p q 0x0A = none → s.cmdsApart → s.Canonical → c.part = p →
      c.queue = q → c.plain → smSorted s.sv.seqs = true → d.hdr 12 0 = n → s.editStatus p d = 0 → s.inStep n = false →
      s.editWaits n = false →
    (d.hdr 23 20 = 2 → s.memoryOpen → s.unmetered p → let e := s.seq n
        let k := min e.pfxPub (d.word 2 / 64)
        (∀ b, b < k → s.anyBad (e.tokBase + 256 * b) 256 = false) →
      ∃ t, exec (.truncate p q) s = .next t ∧ CmdDone d 0 0 s t
        ∧ t.seq n = { e with clen := d.word 2, hlen := d.word 2, dlen := min e.dlen (d.word 2)
                             attnLo := min e.attnLo (d.word 2 / 64 * 64), pfxPub := k, lastHash := s.hashChain e k }
        ∧ (∀ m, m ≠ n → t.seq m = s.seq m) ∧ ∀ a, t.okByte a = s.okByte a)
    ∧ (d.hdr 23 20 = 9 → let x := s.pagesEdit (s.seq n) (d.word 2)
        let n4 := 4 * x.2.2.2
        let a := x.1.at x.2.1 x.2.2.1
        devOf (d.word 3) = s.dv.devNum → s.unmetered p → s.gStatus d false (d.word 3) n4 = 0 → s.anyBad (localOf (d.word 3)) n4 = false →
        s.settledAt a n4 → c.remote = [] → (∀ i, i < x.2.2.2 → s.entry x.1 x.2.1 (x.2.2.1 + i) = some nullPage) →
      ∃ t, exec (.pages p q) s = .next t ∧ CmdDone d 0 0 s t ∧ t.okBytes a n4 = s.okBytes (localOf (d.word 3)) n4
        ∧ ReadsOutside a n4 s t ∧ t.sv = s.sv))
  ∧ (∀ (s : State) n c t0, s.takeEdit n 0x0A = some (c, t0) →
    (s.inStep n = false → exec (.seqEditApply n) s = .next (t0.editNow c.part c)) ∧ (s.inStep n = true → exec (.seqEditApply n) s = .next s)
    ∧ t0 = { s with sv := { s.sv with edits := t0.sv.edits } } ∧ t0.sv.edits.length + 1 = s.sv.edits.length)
  ∧ (∀ (s : State) c n, s.cmdOf c.id = some c → c.plain → s.cmdsApart → s.bk.merge = [] → smSorted s.sv.seqs = true → c.hdr 12 0 = n →
      s.editStatus c.part c = 0 → c.hdr 23 20 = 1 →
    (s.editNow c.part c).seq n = { s.seq n with hlen := c.word 2 } ∧ (s.editNow c.part c).qu.recs = s.qu.recs ++ [c.doneRecord 0 0]
      ∧ (∀ m, m ≠ n → (s.editNow c.part c).seq m = s.seq m) ∧ (s.editNow c.part c).mem = s.mem)
  ∧ (∀ (s : State) p q c d n, s.accepts p q 0x0B c d → s.cmdsApart → s.Canonical → c.part = p → c.queue = q → c.plain →
      s.bk.merge = [] → smSorted s.sv.seqs = true → d.hdr 12 0 = n →
    (s.closeStatus p d = 0 → s.inStep n = false → s.editWaits n = false → (s.seq n).st ≠ 4 →
      ∃ t, exec (.seqClose p q) s = .next t ∧ CmdDone d 0 0 s t ∧ t.seq n = (s.seq n).freed ∧ (t.seq n).st = 0
        ∧ ∀ m, m ≠ n → t.seq m = s.seq m)
    ∧ (s.closeStatus p d = 0 → (s.inStep n = true ∨ s.editWaits n = true) → (s.seq n).st ≠ 4 →
      ∃ t, exec (.seqClose p q) s = .next t ∧ t.seq n = { s.seq n with st := 5 } ∧ t.sv.edits = s.sv.edits ++ [⟨d.id, n⟩]
        ∧ t.qu.recs = s.qu.recs ∧ t.mem = s.mem)
    ∧ (s.closeStatus p d ≠ 0 →
      ∃ t, exec (.seqClose p q) s = .next t ∧ CmdDone d (s.closeStatus p d) 0 s t ∧ t.sv = s.sv ∧ t.mem = s.mem))
  ∧ (∀ (s : State) n c t0, s.takeEdit n 0x0B = some (c, t0) → c.plain → s.cmdsApart → s.bk.merge = [] → smSorted s.sv.seqs = true → s.Canonical →
    (s.closeFree n = true → t0.closeStatus c.part c = 0 →
      ∃ t, exec (.seqCloseFinish n) s = .next t ∧ t.seq n = (s.seq n).freed ∧ (∀ m, m ≠ n → t.seq m = s.seq m)
        ∧ t.qu.recs = s.qu.recs ++ [c.doneRecord 0 0])
    ∧ (s.closeFree n = false → exec (.seqCloseFinish n) s = .next s))

/-- Adapters, the prefix index, page pools and their settings. Formalises R171, R192 (quotas), R209, R213, R315
(ADAPTER_INSTALL) and Table 7-9 (pool and prefix settings). Completes: adapterInstall, adapterRetire, prefixPublish,
seqPoolAdd, seqPoolSizeWrite, seqQuotaWrite, seqPfxModeWrite, pageRelease. -/
def Obligations.AdaptersPoolsAndPrefixes : Prop :=
  (∀ (s : State) p q c d, s.accepts p q 0x0C c d → s.resumed p q 0x0C = none → s.cmdsApart → s.Canonical → c.part = p → c.queue = q →
      c.plain → installPre d s = 0 → devOf (d.word 1) = s.dv.devNum → c.remote = [] → smSorted s.sv.aslots = true → s.memoryOpen → s.unmetered p →
      s.gStatus d false (d.word 1) 8192 = 0 → s.gBad (d.word 1) 8192 = false → d.hdr 9 0 < 1024 →
      let rd : Nat → Byte := s.frxBytes d (d.word 1) 8192
      let sec := frxSection rd 0
      let k := d.hdr 9 0
      let e := s.aslot k
    (devOf (d.word 1 + sec.offset) = s.dv.devNum → frxLayoutOk rd 2 = true → s.signerOk rd 2 p = true →
        s.gStatus d false (d.word 1 + sec.offset) sec.length = 0 → s.gBad (d.word 1 + sec.offset) sec.length = false →
        sha3 (s.gBytes d (d.word 1 + sec.offset) sec.length) = (List.range 32).map (fun i => rd (96 + i)) →
        fieldB (s.gBytes d (d.word 1 + sec.offset) sec.length) 0 2 ≤ 64 → 1 ≤ e.next → e.next ≤ 0xFFFF →
      ∃ t v, exec (.adapterInstall p q true) s = .next t ∧ CmdDone d 0 v s t ∧ 1 ≤ v ∧ v ≤ 0xFFFF ∧ (∀ x ∈ e.live, x.1 ≠ v)
        ∧ (t.aslot k).cur = v ∧ (t.aslot k).mslot = d.word 2 ∧ (t.aslot k).part = p ∧ (v, d.word 1) ∈ (t.aslot k).live
        ∧ (∀ x ∈ e.live, s.versionHeld k x.1 = true → x ∈ (t.aslot k).live) ∧ (∀ m, m ≠ k → t.aslot m = s.aslot m)
        ∧ ∀ a, t.okByte a = s.okByte a)
    ∧ (∃ t, exec (.adapterInstall p q false) s = .next t ∧ CmdDone d 0x0901 0 s t ∧ t.sv = s.sv
        ∧ t.bit (hdrF .kst 0x10 30 0) 0 = true ∧ ∀ a, t.okByte a = s.okByte a))
  ∧ (∀ (s : State) p q c d, s.accepts p q 0x0D c d → s.cmdsApart → s.Canonical → c.part = p → c.queue = q → c.plain → s.bk.merge = [] →
      smSorted s.sv.aslots = true → d.hdr 9 0 < 1024 → let k := d.hdr 9 0
    (retirePre d s = 0 →
      ∃ t, exec (.adapterRetire p q) s = .next t ∧ CmdDone d 0 (s.aslot k).cur s t
        ∧ t.aslot k = { s.aslot k with cur := 0, live := (s.aslot k).live.filter fun v => v.1 = 0 || s.versionHeld k v.1 }
        ∧ (∀ m, m ≠ k → t.aslot m = s.aslot m) ∧ t.mem = s.mem)
    ∧ (retirePre d s ≠ 0 → ∃ t, exec (.adapterRetire p q) s = .next t ∧ CmdDone d (retirePre d s) 0 s t ∧ t.sv = s.sv))
  ∧ (∀ (s : State) p q c d, s.accepts p q 0x0F c d → s.cmdsApart → s.Canonical → c.part = p → c.queue = q → c.plain →
      publishPre d s = 0 → s.memoryOpen → s.unmetered p → smSorted s.sv.seqs = true → smSorted s.sv.prefixes = true →
      let n := d.hdr 12 0
      let e := s.seq n
      let b := e.pfxPub
    ((d.word 2 ≤ b ∨ e.clen < 64 * (b + 1)) →
      ∃ t, exec (.prefixPublish p q) s = .next t ∧ CmdDone d 0 b s t ∧ t.sv = s.sv ∧ t.mem = s.mem)
    ∧ (∀ h pages, d.word 2 = b + 1 → 64 * (b + 1) ≤ e.clen → b < e.plCap → e.part = p →
        s.anyBad (e.tokBase + 256 * b) 256 = false → s.blockHash e b e.lastHash = .ok h → (∀ x ∈ s.index p, x.hash ≠ h) →
        (List.range (s.mslot e.mslot).layers).map (fun y => s.entry (s.mainList e) y b) = pages.map some →
        (∀ g ∈ pages, s.pageStatus (s.mslot e.mslot) p g = 0) →
        s.indexRoom p (s.index p ++ [⟨h, pages, s.sv.matches_ + 1, e.mslot, s.stepCount⟩]) = true →
      ∃ t, exec (.prefixPublish p q) s = .next t ∧ CmdDone d 0 (b + 1) s t
        ∧ t.index p = s.index p ++ [⟨h, pages, s.sv.matches_ + 1, e.mslot, s.stepCount⟩]
        ∧ t.seq n = { e with pfxPub := b + 1, lastHash := h } ∧ (∀ m, m ≠ n → t.seq m = s.seq m) ∧ ∀ a, t.okByte a = s.okByte a))
  ∧ (∀ (s : State) req (page : Nat) p, s.grants req A.SEQ_POOL_ADD → s.idx F.SEQ_PIDX_PARTITION req = p → mayWrite req 0x142 = true →
      page < 2 ^ 32 → s.Canonical → smSorted s.sv.pools = true →
      let i := s.getF F.SEQ_POOL_TAIL_INDEX p
      let k := s.poolLog p
    (k ≠ 0 → s.poolHeld p < 2 ^ k → s.rangeStatus (.part p) true (s.poolAt p i) 4 = 0 → s.settledAt (s.poolAt p i) 4 →
      ∃ t, exec (.seqPoolAdd req page) s = .next t ∧ t.okBytes (s.poolAt p i) 4 = leBytes page 4
        ∧ ReadsOutside (s.poolAt p i) 4 s t ∧ t.poolHeld p = s.poolHeld p + 1 ∧ (∀ r, r ≠ p → t.poolHeld r = s.poolHeld r)
        ∧ t.getF F.SEQ_POOL_TAIL_INDEX p = (i + 1) % 2 ^ 24 ∧ RegsKeep [regKey A.SEQ_POOL_TAIL p 0] s t)
    ∧ ((k = 0 ∨ 2 ^ k ≤ s.poolHeld p) →
      ∃ t, exec (.seqPoolAdd req page) s = .next t ∧ t.bit (hdrF .seq 0x10 30 0) 2 = true ∧ RegsBut (errAddrs .seq) s t
        ∧ t.sv = s.sv ∧ t.mem = s.mem))
  ∧ (∀ (s : State) req (v : Word) p, s.Canonical → s.idx F.SEQ_PIDX_PARTITION req = p → mayWrite req 0x142 = true →
    (s.grants req A.SEQ_POOL_SIZE → s.poolHeld p = 0 → (v.toNat % 32 = 0 ∨ (6 ≤ v.toNat % 32 ∧ v.toNat % 32 ≤ 24)) →
      ∃ t, exec (.seqPoolSizeWrite req 2 v) s = .next t ∧ t.poolLog p = v.toNat % 32 ∧ t.getF F.SEQ_POOL_HEAD_INDEX p = 0
        ∧ t.getF F.SEQ_POOL_TAIL_INDEX p = 0 ∧ t = { s with regs := t.regs, out := s.out ++ [.regReply req 0 0] })
    ∧ (∀ half, half < 3 → s.grants req (A.SEQ_POOL_BASE_LO + 4 * half) → s.poolHeld p ≠ 0 →
      ∃ t, exec (.seqPoolSizeWrite req half v) s = .next t ∧ t.bit (hdrF .seq 0x10 30 0) 4 = true ∧ RegsBut (errAddrs .seq) s t
        ∧ t.sv = s.sv ∧ t.mem = s.mem))
  ∧ (∀ (s : State) k (v : Word) p, s.Canonical → s.grants (.trowel k) A.SEQ_QUOTA → s.idx F.SEQ_PIDX_PARTITION (.trowel k) = p → p < 32 →
      let sum := (List.range 32).foldl (fun n q => n + if q = p then v.toNat % 2 ^ F.SEQ_QUOTA_QUOTA.width else s.getF F.SEQ_QUOTA_QUOTA q) 0
    (sum ≤ 8192 → (s.seqsOf p).length ≤ v.toNat % 2 ^ F.SEQ_QUOTA_QUOTA.width →
      ∃ t, exec (.seqQuotaWrite (.trowel k) v) s = .next t ∧ t.getF F.SEQ_QUOTA_QUOTA p = v.toNat % 2 ^ F.SEQ_QUOTA_QUOTA.width
        ∧ RegsKeep [regKey A.SEQ_QUOTA p 0] s t ∧ t = { s with regs := t.regs, out := s.out ++ [.regReply (.trowel k) 0 0] })
    ∧ ((8192 < sum ∨ v.toNat % 2 ^ F.SEQ_QUOTA_QUOTA.width < (s.seqsOf p).length) →
      ∃ t, exec (.seqQuotaWrite (.trowel k) v) s = .next t ∧ t.bit (hdrF .seq 0x10 30 0) 1 = true ∧ RegsBut (errAddrs .seq) s t
        ∧ t.sv = s.sv))
  ∧ (∀ (s : State) req (v : Word) p, s.Canonical → s.grants req A.SEQ_PFX_MODE → s.idx F.SEQ_PIDX_PARTITION req = p → mayWrite req 0x142 = true →
    (v.toNat % 4 ≠ 3 → s.getF F.SEQ_PFX_BLOCKS_COUNT p = 0 → (s.setF F.SEQ_PFX_MODE_MODE v.toNat p).arenaOk p (v.toNat % 4) = true →
      ∃ t, exec (.seqPfxModeWrite req 0 v) s = .next t ∧ t.getF F.SEQ_PFX_MODE_MODE p = v.toNat % 4
        ∧ RegsKeep [regKey A.SEQ_PFX_MODE p 0] s t ∧ t = { s with regs := t.regs, out := s.out ++ [.regReply req 0 0] })
    ∧ (v.toNat % 4 ≠ 3 → s.getF F.SEQ_PFX_BLOCKS_COUNT p ≠ 0 → v.toNat % 4 ≠ s.getF F.SEQ_PFX_MODE_MODE p →
      ∃ t, exec (.seqPfxModeWrite req 0 v) s = .next t ∧ t.bit (hdrF .seq 0x10 30 0) 4 = true ∧ RegsBut (errAddrs .seq) s t
        ∧ t.sv = s.sv))
  ∧ (∀ (s : State) p page, (p, page) ∈ s.sv.removed →
    (s.snapped p page = true → exec (.pageRelease p page) s = .next s)
    ∧ (s.snapped p page = false → page ≠ nullPage →
      let u : State := { s with sv := { s.sv with removed := s.sv.removed.erase (p, page) } }
      ((s.indexed p page = true ∨ s.namedBy p page ≠ 0) → exec (.pageRelease p page) s = .next u)
      ∧ (s.indexed p page = false → s.namedBy p page = 0 →
        exec (.pageRelease p page) s
          = .next (({ s with sv := { s.sv with removed := s.sv.removed.filter (· ≠ (p, page)) } } : State).poolAdd p page))))

/-- STEP, TRAIN_STEP, the admission of their steps and the placement of work items. Formalises R197, R198, R200, R203, R284
(admission), R308, R311 and R315 (TRAIN_STEP), and of R163 and R173 the snapshot of a list with no page to take.
Completes: stepCmd, trainStep, stepAdmission, placement. -/
def Obligations.StepsAreAdmitted : Prop :=
  (∀ (s : State) p q c d, s.accepts p q 0x01 c d → s.cmdsApart → s.Canonical → s.bk.merge = [] → c.part = p → c.queue = q → c.plain →
    (stepPre d s = 0 → d.hdr 53 53 = 0 → c.stopped = false → c.count = 0 →
        (nbit (d.word 1) 40 = false ∨ s.param p q (nbits (d.word 1) 39 32) = 0) →
      ∃ t, exec (.stepCmd p q) s = .next t ∧ t.cmdOf d.id = some (s.asRun p 0x01 d) ∧ t.qu.recs = s.qu.recs ∧ t.sv = s.sv ∧ t.mem = s.mem
        ∧ (∀ id, id ≠ d.id → t.cmdOf id = s.cmdOf id) ∧ t.getF F.PRT_QADMIT_INDEX p q = (s.getF F.PRT_QADMIT_INDEX p q + 1) % 65536)
    ∧ (stepPre d s = 0 → d.hdr 53 53 = 0 → c.stopped = false → c.count = 0 → nbit (d.word 1) 40 = true →
        s.param p q (nbits (d.word 1) 39 32) ≠ 0 → (∀ x ∈ s.sv.steps, x.cmd ≠ c.id) →
      ∃ t, exec (.stepCmd p q) s = .next t ∧ CmdDone d 0 0 s t ∧ t.sv = s.sv ∧ t.mem = s.mem)
    ∧ (stepPre d s ≠ 0 → ∃ t, exec (.stepCmd p q) s = .next t ∧ CmdDone d (stepPre d s) 0 s t ∧ t.sv = s.sv ∧ t.mem = s.mem))
  ∧ (∀ (s : State) p q c d, s.accepts p q 0x14 c d → s.cmdsApart → s.Canonical → s.bk.merge = [] → c.part = p → c.queue = q → c.plain →
    (trainPre d s = 0 → d.hdr 53 53 = 0 →
      ∃ t, exec (.trainStep p q) s = .next t ∧ t.cmdOf d.id = some (s.asRun p 0x14 d) ∧ t.qu.recs = s.qu.recs ∧ t.sv = s.sv ∧ t.mem = s.mem
        ∧ (∀ id, id ≠ d.id → t.cmdOf id = s.cmdOf id) ∧ t.getF F.PRT_QADMIT_INDEX p q = (s.getF F.PRT_QADMIT_INDEX p q + 1) % 65536)
    ∧ (trainPre d s ≠ 0 → ∃ t, exec (.trainStep p q) s = .next t ∧ CmdDone d (trainPre d s) 0 s t ∧ t.sv = s.sv ∧ t.mem = s.mem))
  ∧ (∀ (s : State) id c, s.cmdOf id = some c → s.stepTick id = s → c.phase = 1 → c.stopped = false → s.stepsOpen c.part = true → s.Canonical →
    (∀ m ws, c.op = 0x01 → m = c.hdr 23 18 → ws = s.formWork c.part m → ws ≠ [] → s.reloading m = false → ws.length ≤ s.rqRoom c.part c.ring →
        let a := s.admitWorks c.part m ws
        let room := a.1.takeWork c.part (a.1.stepSpace (a.2.map fun z => z.work))
      (room.isSome = true → myTurn s.sv.turn c.part s.stepDue = true → smSorted s.sv.seqs = true → (∀ y ∈ s.sv.steps, y.num ≤ s.stepCount) →
        ∃ t x, exec (.stepAdmission id) s = .next t ∧ t.sv.steps = s.sv.steps ++ [x] ∧ x.num = s.stepCount + 1 ∧ x.cmd = id
          ∧ x.part = c.part ∧ x.mslot = m ∧ x.kind = 0 ∧ x.works.map (fun w => w.seq) = ws.map (fun w => w.seq)
          ∧ x.works.map (fun w => (w.left, w.pages, w.dpages)) = a.2.map (fun z => (z.work.left, z.work.pages, z.work.dpages))
          ∧ x.units.length = a.1.stepSpace (a.2.map fun z => z.work) ∧ x.trap = s.flag F.PRT_HAZARD_TRAP c.part ∧ x.walked = []
          ∧ (∀ w ∈ x.works, w.left = false → (t.seq w.seq).lastAdmit = x.num) ∧ t.sv.turn = c.part
          ∧ t.stepCount = (s.stepCount + 1) % 2 ^ 64 ∧ t.qu.reserved = s.qu.reserved ++ [(c.part * 8 + c.ring, ws.length)]
          ∧ (t.cmdOf id).map (fun y => y.count) = some (c.count + 1) ∧ t.qu.recs = s.qu.recs)
      ∧ (room.isSome = true → myTurn s.sv.turn c.part s.stepDue = false → exec (.stepAdmission id) s = .next s)
      ∧ (room = none → exec (.stepAdmission id) s = .next (if c.counted then s else
          (s.bump F.YRD_Q_WAITS_COUNT 1 c.part).onCmd id fun d => { d with counted := true })))
    ∧ (∀ g tp, c.op = 0x14 → c.count = 0 → s.classGrant c.part 4 = g → g ≠ .no →
      (myTurn s.sv.turn c.part s.stepDue = true → s.template c.part (c.word 1) = some tp →
          s.templateStatus tp = 0 → s.descsStatus (s.templateDescs c.part (s.stepCount + 1) tp false 16384) = 0 →
        ∃ t x, exec (.stepAdmission id) s = .next t ∧ t.sv.steps = s.sv.steps ++ [x] ∧ x.kind = 1 ∧ x.num = s.stepCount + 1 ∧ x.cmd = id
          ∧ x.part = c.part ∧ x.works = [] ∧ x.items.length = tp.items.length ∧ x.slot = g.slot? ∧ t.sv.turn = c.part
          ∧ t.stepCount = (s.stepCount + 1) % 2 ^ 64 ∧ (t.cmdOf id).map (fun y => y.count) = some 1 ∧ t.mem = s.mem)
      ∧ (myTurn s.sv.turn c.part s.stepDue = false → exec (.stepAdmission id) s = .next s)))
  ∧ (∀ (s : State) p m, ∀ w ∈ s.formWork p m, ∃ e, (w.seq, e) ∈ s.eligible p m ∧ w.c = e.clen ∧ w.left = false ∧ w.status = 0
      ∧ (w.turn = false → w.draftOnly = 0 → 1 ≤ w.given ∧ w.given ≤ 8 ∧ w.given = e.hlen - e.clen ∧ w.drafts ≤ e.specD)
      ∧ (w.turn = true → 8 < e.hlen - e.clen ∧ w.given ≤ e.hlen - e.clen ∧ w.given ≤ 256 * 2 ^ e.chunk ∧ w.drafts = 0)
      ∧ (w.draftOnly ≠ 0 → 7 < e.clen - e.dlen ∧ w.draftOnly ≤ e.clen - e.dlen ∧ w.given = 0))
  ∧ (∀ (s : State) p m, ((s.formWork p m).filter fun w => !w.turn && w.draftOnly == 0).length ≤ s.getF F.SEQ_MAXSEQ_MAX_SEQ p
      ∧ ((s.formWork p m).map fun w => if w.turn then w.given else w.draftOnly).sum ≤ s.getF F.SEQ_POLICY_STEP_TOKENS p
      ∧ (s.silent p = true → ∀ w ∈ s.formWork p m, w.turn = false ∧ w.draftOnly = 0))
  ∧ (∀ (s : State) p l first n lo check (pg : Nat → Nat → Nat), s.Canonical → s.atRest →
      let i0 := min (lo / 64) (first / 64)
      let last := (first + n + 63) / 64 - 1
      let pages := (List.range l.layers).map fun y => (List.range (last + 1 - i0)).map fun k => pg y (i0 + k)
    (l.cap ≤ last → s.allocate p l first n lo check = .error (0x030A, s))
    ∧ (last < l.cap → (∀ y i, y < l.layers → i0 ≤ i → i ≤ last → s.entry l y i = some (pg y i) ∧ s.pageStatus l.m p (pg y i) = 0
          ∧ (first / 64 ≤ i → s.shared p (pg y i) = false)) → (∀ u, check u i0 pages = 0) →
      ∃ u, s.allocate p l first n lo check = .ok (⟨i0, pages, []⟩, u) ∧ (∀ a, u.okByte a = s.okByte a) ∧ u.sv = s.sv))
  ∧ (∀ (s : State) k (w : SWork) codes, s.earlyStatus w codes ≠ 0 → smSorted s.sv.seqs = true →
    (s.admitWork k w codes).2 = { work := { w with left := true, status := s.earlyStatus w codes, pages := [], dpages := [] } }
    ∧ (s.admitWork k w codes).1.seq w.seq = { s.seq w.seq with status := s.earlyStatus w codes }
    ∧ (s.admitWork k w codes).1.mem = s.mem
    ∧ ∀ m, m ≠ w.seq → (s.admitWork k w codes).1.seq m = s.seq m)
  ∧ (∀ (s : State) p, ((∀ x ∈ s.sv.steps, x.part ≠ p) → s.builderGo p = s)
    ∧ ∀ e ∈ s.waitingItems p, ∃ x ∈ s.sv.steps, x.num = e.1 ∧ x.part = p ∧ x.items[e.2.1]? = some e.2.2 ∧ s.itemHeld x e.2.2 = false)
  ∧ (∀ (s0 s : State) p num k l, s0.builderGo p = s →
      ((s.waitingItems p).findSome? fun e => (s.brickFor p e.2.2.item).map fun l => (e.1, e.2.1, l)) = some (num, k, l) →
    s.brickFree p l = true ∧ s.inPool p l = true
    ∧ ∃ t, exec (.placement p) s0 = .next t ∧ t = { s with sv := { s.sv with steps := t.sv.steps } } ∧ t.sv.steps.length = s.sv.steps.length
      ∧ ∀ (j : Nat) (x : StepRun), s.sv.steps[j]? = some x → ∃ y : StepRun, t.sv.steps[j]? = some y
        ∧ (x.num ≠ num → y = x)
        ∧ (x.num = num → y = { x with items := y.items } ∧ y.items.length = x.items.length ∧ (∀ i : Nat, i ≠ k → y.items[i]? = x.items[i]?)
          ∧ ∀ a : WItem, x.items[k]? = some a → ∃ b : WItem, y.items[k]? = some b ∧ b.brick = some l ∧ b.args = a.args ∧ b.seqs = a.seqs
              ∧ b.pass = a.pass ∧ b.ended = a.ended))

/-- How a step completes. Formalises R201, R202, R205 (greedy rule), R206, R207, R308, R315 (TRAIN_STEP) and R506. Completes:
stepCommit. -/
def Obligations.StepsCommit : Prop :=
  (∀ (s0 s : State) n x0 x c, s0.stepOf n = some x0 → s0.builderGo x0.part = s → s.stepOf n = some x → x.kind = 1 → s.stepEnded x = true →
      x.works = [] → s.cmdOf x.cmd = some c → c.plain → s.cmdsApart → s.Canonical → s.bk.merge = [] →
    ∃ t, exec (.stepCommit n) s0 = .next t ∧ t.qu.recs = s.qu.recs ++ [c.doneRecord x.status n]
      ∧ t.sv.steps = s.sv.steps.filter (fun y => y.num ≠ n) ∧ t.sv.seqs = s.sv.seqs ∧ t.mem = s.mem)
  ∧ (∀ (s0 s : State) n x0 x, s0.stepOf n = some x0 → s0.builderGo x0.part = s → s.stepOf n = some x →
      (x.kind = 2 ∨ x.acks ≠ 0 ∨ (∃ i ∈ x.items, i.ended = false) ∨ x.lists ≠ [] ∨ s.stepBusy n = true ∨ (x.kind = 0 ∧ s.walksDone x = false)
        ∨ (x.kind = 0 ∧ s.choiceTurn x.part = false)) →
    exec (.stepCommit n) s0 = .next s)
  ∧ (∀ (s0 s : State) n x0 x w c zs, s0.stepOf n = some x0 → s0.builderGo x0.part = s → s.stepOf n = some x → x.kind = 0 →
      s.stepEnded x = true → s.choiceTurn x.part = true → x.works = [w] → s.cmdOf x.cmd = some c → c.stopped = false → c.phase = 1 →
      s.cmdsApart → s.Canonical → s.unmetered x.part →
      smSorted s.sv.seqs = true → w.left = false → w.status = 0 → w.turn = false → w.draftOnly = 0 → w.stage = false → w.skipped = false →
      w.carry = false → w.toks = [] → 1 ≤ w.given →
      let e := s.seq w.seq
      let m := s.mslot e.mslot
      let v := argmax zs
      let la := logitAt w.places 0 (w.given - 1) m.vocab
      let at_ := e.tokBase + 4 * (w.c + w.given)
      let pos := s.getF F.PRT_RQTAIL_INDEX x.part c.ring
      let ra := s.rqbase x.part c.ring + pos % 2 ^ s.getF F.PRT_RQSIZE_LOG2 x.part c.ring * 64
      let e1 : Seq := { e with clen := w.c + w.given, hlen := w.c + w.given + 1, lastStep := n, fails := 0, heldByFail := false }
      let o : Outcome := { status := 0, tokens := [v], entry := e1, skipped := false, stopped := v = e.stopTok, commit := true }
      m.select = 1 → e.rule = 0 → e.autoPub = false → s.anyBad la (4 * m.vocab) = false → logitsOf (s.okBytes la (4 * m.vocab)) false m.vocab = .ok zs →
      (s.sampled (x.ownOf w)).rangeStatus (.part x.part) true at_ 4 = 0 → s.settledAt at_ 4 → s.settledAt ra 64 → (at_ + 4 ≤ ra ∨ ra + 64 ≤ at_) → s.ringStatus x.part true ra 64 = 0 → x.part < 32 →
    ∃ t more, exec (.stepCommit n) s0 = .next t ∧ t.okBytes at_ 4 = leBytes v 4
      ∧ t.okBytes ra 64 = resultEntry w.seq e1 o w.emptyAttn n
      ∧ (∀ a, (a < at_ ∨ at_ + 4 ≤ a) → (a < ra ∨ ra + 64 ≤ a) → t.okByte a = s.okByte a)
      ∧ (v ≠ e.stopTok → t.seq w.seq = e1) ∧ (v = e.stopTok → t.seq w.seq = e1.hold)
      ∧ (∀ q, q ≠ w.seq → t.seq q = s.seq q) ∧ t.sv.steps = s.sv.steps.filter (fun y => y.num ≠ n)
      ∧ t.getF F.PRT_RQTAIL_INDEX x.part c.ring = (pos + 1) % 65536
      ∧ t.qu.recs = s.qu.recs ++ { part := x.part, ring := c.ring, origin := c.queue, tag := c.hdr 47 32, opcode := c.op, flags := 2
                                   status := 0, irq := c.hdr 52 52 = 1, result := pos % 65536 * 2 ^ 48 + 2 ^ 32 + n % 2 ^ 32 } :: more)
  ∧ (∀ (s : State) x w k, (w.left = true ∨ commits x.trap w.status = false) →
      s.outcome x w k = ({ status := w.status, tokens := [], entry := s.seq w.seq, skipped := w.skipped }, s))
  ∧ (∀ trap status, commits trap status = true ↔ status = 0 ∨ (status = 0x0A01 ∧ trap = false))
  ∧ (∀ (s : State) q status trap, s.Canonical → smSorted s.sv.seqs = true →
      let t := s.failSeq q status trap
      let e := s.seq q
    (∀ r, r ≠ q → t.seq r = s.seq r) ∧ t.mem = s.mem
    ∧ (countsRetry trap status = false → t.seq q = { e with status := status } ∧ t.qu = s.qu)
    ∧ (countsRetry trap status = true → e.fails + 1 < 4 → t.seq q = { e with status := status, fails := e.fails + 1 } ∧ t.qu = s.qu)
    ∧ (countsRetry trap status = true → 4 ≤ e.fails + 1 → s.live e.part = false → e.st = 1 →
        (t.seq q).st = 2 ∧ (t.seq q).heldByFail = true ∧ (t.seq q).status = status
        ∧ t.qu.recs = s.qu.recs ++ [{ part := e.part, ring := e.queue, origin := e.queue, tag := 0, opcode := 0, flags := 4, status := status
                                      result := e.gen * 2 ^ 32 + q, irq := true }])
    ∧ (countsRetry trap status = true → 4 ≤ e.fails + 1 → s.live e.part = true → e.st = 1 → (t.seq q).damaged = true ∧ (t.seq q).st = 1))
  ∧ (∀ (o : Own) (e : Seq) (w : SWork) k vocab (ds : List Nat) (vs : Nat → Nat) (us : Nat → State), w.turn = false → w.given = 1 →
      (∀ j, j ≤ ds.length → ((us j).mslot e.mslot).vocab = vocab
        ∧ (us j).choose o e (logitAt w.places k j vocab) vocab (w.c + 1 + j) = (.ok (vs j), us (j + 1))) →
    ∃ a, (us 0).verify o e w k ds (ds.length + 1) 0 = (.ok (a, vs a), us (a + 1)) ∧ a ≤ ds.length ∧ (∀ j, j < a → ds[j]? = some (vs j))
      ∧ (a < ds.length → ds[a]? ≠ some (vs a)))
  ∧ (∀ bs vocab zs, logitsOf bs false vocab = .ok zs →
    zs.length = vocab ∧ argmax zs < zs.length
    ∧ (∀ i, i < zs.length → (num32 (zs.getD (argmax zs) 0)).lt (num32 (zs.getD i 0)) = false)
    ∧ ∀ i, i < argmax zs → (num32 (zs.getD i 0)).lt (num32 (zs.getD (argmax zs) 0)) = true)
  ∧ (∀ (s : State) o e a vocab pos, s.Canonical → s.memoryOpen → let r := s.choose o e a vocab pos
    (∀ zs, s.anyBad a (4 * vocab) = false → logitsOf (s.okBytes a (4 * vocab)) false vocab = .ok zs → e.rule = 0 → r.1 = .ok (argmax zs))
    ∧ (s.anyBad a (4 * vocab) = true → r.1 = .error 0x0401 ∧ r.2.bit (hdrF .seq 0x10 30 0) 5 = true)
    ∧ (∀ code, s.anyBad a (4 * vocab) = false → logitsOf (s.okBytes a (4 * vocab)) false vocab = .error code →
        code = 0x0506 ∧ r.1 = .error 0x0506 ∧ r.2.bit (hdrF .seq 0x10 30 0) 5 = true))

/-- Walks begin, combine their stacks and rounds, and end early. Formalises R174, R175 (rounds), R178, R180 (the home), R182,
R184, R187, R188, R189 and R190. Completes: walkStart, walkCombine, roundCombine, walkTimeout. -/
def Obligations.WalksRun : Prop :=
  (∀ (s : State) step q pass layer x k w f, s.stepOf step = some x → x.works.findIdx (fun w => w.seq = q) = k → x.works[k]? = some w →
    (s.runningWalk step q pass layer = none →
      (∀ hod, s.walkMay x w pass layer hod → exec (.walkStart step q pass layer f) s = .next (s.beginWalk x k w pass layer hod f))
      ∧ ((s.walkReady x w pass layer = false ∨ s.longerWaits x (w.bucket pass) = true ∨ s.engineFor x.part (w.bucket pass) = none) →
        exec (.walkStart step q pass layer f) s = .next s))
    ∧ (∀ v, s.runningWalk step q pass layer = some v →
        exec (.walkStart step q pass layer f) s
          = .next (if w.copies pass then s.copyPages v else (s.nextRound v).beginUnits v.id 8192)))
  ∧ (∀ (s : State) step q pass layer hod x k w, s.stepOf step = some x → x.works.findIdx (fun w => w.seq = q) = k → x.works[k]? = some w →
      s.runningWalk step q pass layer = none → s.walkMay x w pass layer hod → w.copies pass = false →
      (∀ v ∈ s.sv.walks, v.id < s.sv.nextWalk) → s.Canonical → s.memoryOpen → s.unmetered x.part → x.part < 32 →
      let w0 := s.newWalk x k w pass layer hod
    ((∀ a ∈ s.snapshotAt x k pass layer, s.anyBad a 4 = false) → s.walkUnits w0 ≠ [] →
        (∀ k, k < w0.count → s.walkLow w0 k ≤ w0.first + k) →
      ∃ t v, exec (.walkStart step q pass layer 0#72) s = .next t ∧ v ∈ t.sv.walks ∧ v.id = s.sv.nextWalk ∧ v.hod = hod ∧ v.step = step
        ∧ v.seq = q ∧ v.pass = pass ∧ v.layer = layer ∧ v.first = w0.first ∧ v.count = w0.count ∧ v.bucket = w0.bucket
        ∧ v.units = s.walkUnits w0 ∧ v.rounds = w0.rounds ∧ v.combined = []
        ∧ t.sv.nextWalk = s.sv.nextWalk + 1 ∧ (∀ y ∈ s.sv.walks, y ∈ t.sv.walks) ∧ t.sv.steps = s.sv.steps ∧ (∀ a, t.okByte a = s.okByte a)
        ∧ t.flag F.HOD_CUR_SEQ_VALID hod = true ∧ t.getF F.HOD_CUR_SEQ_SEQ hod = q % 2 ^ F.HOD_CUR_SEQ_SEQ.width)
    ∧ ((∃ a ∈ s.snapshotAt x k pass layer, s.anyBad a 4 = true) →
      ∃ t, exec (.walkStart step q pass layer 0#72) s = .next t ∧ t.walkOf s.sv.nextWalk = none ∧ t.flag F.HOD_FAULT_VALID hod = true
        ∧ (s.flag F.HOD_FAULT_VALID hod = false → t.getF F.HOD_FAULT_STATUS hod = 0x0401) ∧ t.bit (hdrF .hod 0x10 30 0) 2 hod = true
        ∧ ∀ a, t.okByte a = s.okByte a)
    ∧ ((∀ a ∈ s.snapshotAt x k pass layer, s.anyBad a 4 = false) → s.walkUnits w0 = [] → s.unwalked s.sv.nextWalk →
        (∀ k, k < w0.count → w0.first + k < s.walkLow w0 k) → 0 < w0.count →
        (∀ h g k, let m := s.mslot w0.mslot
          let a := w0.outputAt m ⟨w0.id, h, g, k, 0⟩
          let n := npop (slotsOf m g) 8 * m.headDim * (if w0.places.outFmt = 1 then 2 else 4)
          h < m.kvHeads → g < m.groups → k < w0.count →
          (16 * stackBytes ≤ a ∨ (a % 8 = 0 ∧ m.headDim % 4 = 0)) ∧ s.anyBad a n = false
            ∧ (s.sampled w0.own).rangeStatus (.part x.part) true a n = 0) →
      ∃ t, exec (.walkStart step q pass layer 0#72) s = .next t ∧ t.sv.walks = s.sv.walks
        ∧ (∃ y, t.stepOf step = some y ∧ y.walked = x.walked ++ [(q, pass, layer)] ∧ y.works[k]? = some { w with emptyAttn := true })
        ∧ ∀ h g k o, let m := s.mslot w0.mslot
          h < m.kvHeads → g < m.groups → k < w0.count →
          o < npop (slotsOf m g) 8 * m.headDim * (if w0.places.outFmt = 1 then 2 else 4) →
          t.okByte (w0.outputAt m ⟨w0.id, h, g, k, 0⟩ + o) = 0))
  ∧ (∀ (s : State) (w : Walk), s.walkOf w.id = some w → s.Canonical → s.memoryOpen →
      let rows := w.portion.flatMap fun e => (((s.mslot w.mslot).frame e.1.2).zipIdx).map fun r => (r.1, e.2 + 2048 * r.2)
    (∀ r ∈ rows, (s.sampled w.own).rangeStatus (.part w.part) false r.1 2048 = 0 ∧ (s.sampled w.own).rangeStatus (.part w.part) true r.2 2048 = 0
        ∧ s.anyBad r.1 2048 = false ∧ s.anyBad r.2 2048 = false ∧ bedBase ≤ r.2) →
      rows.Pairwise (fun a b => a.2 + 2048 ≤ b.2 ∨ b.2 + 2048 ≤ a.2) → (∀ r ∈ rows, r.1 + 2048 ≤ 16 * stackBytes) →
      let t := s.copyPages w
      (∀ r ∈ rows, t.okBytes r.2 2048 = s.okBytes r.1 2048) ∧ (∀ a, (∀ r ∈ rows, a < r.2 ∨ r.2 + 2048 ≤ a) → t.okByte a = s.okByte a)
        ∧ (w.round + 1 < w.rounds.length → ∃ v, t.walkOf w.id = some v ∧ v.round = w.round + 1)
        ∧ (w.rounds.length ≤ w.round + 1 → w.units = [] → w.todo = [] → s.unwalked w.id → t.walkOf w.id = none
          ∧ ∀ x, s.stepOf w.step = some x → ∃ y, t.stepOf w.step = some y ∧ (w.seq, w.pass, w.layer) ∈ y.walked))
  ∧ (∀ (s : State) id h g pos w i (gs : Nat → Nat × Group), s.walkOf id = some w →
      let m := s.mslot w.mslot
      let u : WalkTag := ⟨id, h, g, pos, w.round⟩
      let xs := unitStacks (s.unitPages w pos w.round)
      let home := homeOf (w.rounds.getD w.round [])
      let hg := { (s.valueGroup w u home i).group with
        tag := some u, units := (if w.rounds.length ≤ 1 then [] else ((s.stepOf w.step).map fun x => x.units).getD []) }
      let gl := (List.range 8).map fun k => combineStats (xs.map fun x => (gs x).2.stats.getD k (negInf32, 0))
    u ∈ w.units → (∀ c ∈ w.combined, c.1 ≠ u) → smSorted s.bk.groups = true → smSorted s.bk.lists = true →
      (∀ x ∈ xs, (s.bk.groups.find? fun e => e.1 / 256 = x && e.2.tag = some u && e.2.post = 1) = some (gs x) ∧ (gs x).2.local_ = true) →
      s.freeGroup (s.valueStacks w u) = some i → s.paused .stk home = false → s.nextOpen home = none → s.reducerShare home hg = true →
      s.bufferUsed home + hg.space ≤ 4 * 2 ^ 20 → w.outputAt m u < 2 ^ 48 → w.roundAt m u < 2 ^ 48 → w.places.outFmt ≤ 1 →
      ∃ t, exec (.walkCombine id h g pos) s = .next t
        ∧ (∃ v, t.walkOf id = some v ∧ v.combined = w.combined ++ [(u, gl)] ∧ v.units = w.units)
        ∧ (∃ y, t.groupAt (home * 256 + i) = some y ∧ y.post = 2 ∧ y.global = some gl ∧ y.tag = some u)
        ∧ (smGet (fun _ => []) s.bk.lists w.hod) <+: (smGet (fun _ => []) t.bk.lists w.hod))
  ∧ (∀ (s : State) id h g pos w, s.walkOf id = some w → (∃ c ∈ w.combined, c.1 = ⟨id, h, g, pos, w.round⟩) →
      exec (.walkCombine id h g pos) s = .next s)
  ∧ (∀ (s : State) id h g pos w, s.walkOf id = some w → s.Canonical → s.memoryOpen →
      let m := s.mslot w.mslot
      let us := w.units.filter fun u => u.head = h && u.sg = g && u.pos = pos
      let k := npop (slotsOf m g) 8
      let n := k * m.headDim * 4 + 64
      let len := k * m.headDim * (if w.places.outFmt = 1 then 2 else 4)
      let space := ((s.stepOf w.step).map fun x => x.units).getD []
      let at_ (u : WalkTag) (y : Nat) : Nat := spaceAt space (w.roundAt m u + y)
      let out := w.outputAt m (us.headD ⟨id, h, g, pos, 0⟩)
    us ≠ [] → 1 < w.rounds.length → (∀ u ∈ us, (∀ e ∈ s.bk.groups, e.2.tag ≠ some u) ∧ ∃ c ∈ w.combined, c.1 = u) →
      (∀ u ∈ w.merged, ¬(u.head = h ∧ u.sg = g ∧ u.pos = pos)) →
    ((∀ u ∈ us, ∀ y, y < n → s.anyBad (at_ u y) 1 = false) → (16 * stackBytes ≤ out ∨ (out % 8 = 0 ∧ m.headDim % 4 = 0)) →
        (s.sampled w.own).rangeStatus (.part w.part) true out len = 0 → s.anyBad out len = false →
      ∃ t, exec (.roundCombine id h g pos) s = .next t
        ∧ t.okBytes out len = roundOutput m k w.places.outFmt (us.map fun u => (List.range n).map fun y => s.okByte (at_ u y))
        ∧ ReadsOutside out len s t
        ∧ ∀ v, t.walkOf id = some v → v.merged = w.merged ++ [us.headD ⟨id, h, g, pos, 0⟩])
    ∧ ((∃ u ∈ us, ∃ y, y < n ∧ s.anyBad (at_ u y) 1 = true) →
      ∃ t, exec (.roundCombine id h g pos) s = .next t ∧ t.walkOf id = none ∧ ∀ a, t.okByte a = s.okByte a))
  ∧ (∀ (s : State) id us w, s.walkOf id = some w →
      let paused := ∃ x ∈ unitStacks w.rounds.flatten, s.paused .stk x = true
    (s.getF F.HOD_WALK_TMO_US w.hod < us → ¬paused → exec (.walkTimeout id us) s = .next (s.endWalk w 0x030C 0))
    ∧ ((us ≤ s.getF F.HOD_WALK_TMO_US w.hod ∨ paused) → exec (.walkTimeout id us) s = .next s))
  ∧ (∀ (s : State) (w : Walk) status cause a, s.Canonical → status < 2 ^ 16 →
      let t := s.endWalk w status cause a
    (∀ v ∈ t.sv.walks, v.id ≠ w.id) ∧ (∀ e ∈ t.bk.lists, ∀ d ∈ e.2, ∀ g, d.tag = some g → g.walk ≠ w.id)
      ∧ (∀ e ∈ t.bk.groups, ∀ g, e.2.tag = some g → g.walk ≠ w.id) ∧ (∀ e ∈ t.bk.waiting, ∀ g, e.2.tag = some g → g.walk ≠ w.id)
      ∧ (∀ v ∈ s.sv.walks, v.id ≠ w.id → v ∈ t.sv.walks) ∧ t.mem = s.mem ∧ t.sv.seqs = s.sv.seqs
      ∧ (s.flag F.HOD_FAULT_VALID w.hod = false → t.flag F.HOD_FAULT_VALID w.hod = true
          ∧ t.getF F.HOD_FAULT_STATUS w.hod = status ∧ t.getF F.HOD_FAULT_SEQ w.hod = w.seq % 2 ^ F.HOD_FAULT_SEQ.width)
      ∧ (s.flag F.HOD_FAULT_VALID w.hod = true → t.flag F.HOD_FAULT_VALID w.hod = true
          ∧ t.getF F.HOD_FAULT_STATUS w.hod = s.getF F.HOD_FAULT_STATUS w.hod)
      ∧ (∀ x y, w.pass = 0 → w.seq < 8192 → s.stepOf w.step = some x → y ∈ x.works → y.seq = w.seq → y.left = false → y.status = 0 →
          ∃ z, t.stepOf w.step = some z ∧ { y with status := status } ∈ z.works))
  ∧ (∀ pages : List (Nat × Nat), (roundsOf pages).flatten = pages
      ∧ (∀ r ∈ roundsOf pages, r ≠ [] ∧ ∀ st, r.countP (fun x => pgStack x.2 = st) ≤ 15)
      ∧ (pages ≠ [] → (∀ p ∈ pages, p.2 < 2 ^ 32) → homeOf pages ∈ unitStacks pages ∧ ∀ x ∈ unitStacks pages,
          pages.countP (fun p => pgStack p.2 = x) ≤ pages.countP (fun p => pgStack p.2 = homeOf pages)
          ∧ (pages.countP (fun p => pgStack p.2 = x) = pages.countP (fun p => pgStack p.2 = homeOf pages) → homeOf pages ≤ x)))
  ∧ (∀ l, l ≤ 64 * 2 ^ 12 → bucketOf l ≤ 12 ∧ l ≤ 64 * 2 ^ bucketOf l ∧ ∀ b, b < bucketOf l → 64 * 2 ^ b < l)

/-- Partition states, what a partition holds, and its regulators. Formalises R274 to R279 and R282; of R277 what RELEASE takes
from the partition, of R131 that a brick from another pool is to be cleared. Completes: partitionCreate, partitionRelease,
partitionActivate, partitionDrain, drainComplete, poolAssign, bgrpAssign, hodAssign, prtModeWrite, regulatorWrite,
regulatorRefill. -/
def Obligations.PartitionsLive : Prop :=
  (∀ (s : State) k p, s.grants (.trowel k) A.PRT_CMD → s.instOf .prt (A.PRT_CMD / 0x1000) (.trowel k) = some p → p < 32 → s.Canonical →
    (s.partState p = 0 →
      ∃ t, exec (.partitionCreate (.trowel k)) s = .next t ∧ t.partState p = 1 ∧ (∀ q r, q < 8 → t.param p q r = 0)
        ∧ (∀ m, m ≠ p → t.partState m = s.partState m ∧ ∀ q r, q < 8 → t.param m q r = s.param m q r) ∧ t.mem = s.mem ∧ t.sv = s.sv ∧ t.qu = s.qu)
    ∧ (s.partState p = 1 → s.holdsEntries p = false →
      ∃ t, exec (.partitionRelease (.trowel k)) s = .next t ∧ t.partState p = 0
        ∧ (∀ i, i < 8 → t.getF (F.PRT_POOL_COUNT.nth i) p = 0) ∧ (∀ i, i < 4 → t.getF (F.PRT_BGRP_GROUPS.nth i) p = 0)
        ∧ t.getF F.PRT_HOD_LO_ENGINES p = 0 ∧ t.getF F.PRT_HOD_HI_ENGINES p = 0 ∧ t.flag F.PRT_OWNER_BOUND p = false
        ∧ (∀ i, i < 8 → t.reg (A.KST_GRANT + 32 * p + 4 * i) = 0)
        ∧ (∀ b, b < 24576 → s.blockOwner b = some p → s.blockKind b < 2 →
            ∃ c ∈ t.yd.converting, c.block = b ∧ nbit c.entry 5 = false ∧ c.entry / 64 = s.blockKind b)
        ∧ (∀ e ∈ s.bk.regions, nbit e.2 58 = true → nbits e.2 57 53 = p → ∃ f ∈ t.bk.fills, f.1 = e.1 ∧ nbit f.2 58 = false)
        ∧ (∀ m, m ≠ p → t.partState m = s.partState m) ∧ t.mem = s.mem ∧ t.qu.cmds = s.qu.cmds ∧ t.sv = s.sv)
    ∧ (s.partState p ≠ 0 → ∃ t, exec (.partitionCreate (.trowel k)) s = .next t ∧ t.flag F.PRT_STATE_FAIL p = true
        ∧ t.partState p = s.partState p ∧ RegsKeep [regKey A.PRT_STATE p 0] s t ∧ t = { s with regs := t.regs, out := s.out ++ [.regReply (.trowel k) 0 0] })
    ∧ ((s.partState p ≠ 1 ∨ s.holdsEntries p = true) → ∃ t, exec (.partitionRelease (.trowel k)) s = .next t ∧ t.flag F.PRT_STATE_FAIL p = true
        ∧ t.partState p = s.partState p ∧ RegsKeep [regKey A.PRT_STATE p 0] s t ∧ t = { s with regs := t.regs, out := s.out ++ [.regReply (.trowel k) 0 0] }))
  ∧ (∀ (s : State) req p, s.grants req A.PRT_CMD → s.instOf .prt (A.PRT_CMD / 0x1000) req = some p → mayWrite req (A.PRT_CMD / 0x1000) = true →
      p < 32 → s.Canonical →
    (s.partState p = 1 → ∃ t, exec (.partitionActivate req) s = .next t ∧ t.partState p = 2 ∧ RegsKeep [regKey A.PRT_STATE p 0] s t
        ∧ t = { s with regs := t.regs, out := s.out ++ [.regReply req 0 0] })
    ∧ (s.partState p = 2 → (∀ c ∈ s.qu.cmds, c.part ≠ p ∨ c.phase ≠ 1) →
        ∃ t, exec (.partitionDrain req) s = .next t ∧ t.partState p = 3 ∧ RegsKeep [regKey A.PRT_STATE p 0] s t
        ∧ t = { s with regs := t.regs, out := s.out ++ [.regReply req 0 0] })
    ∧ (s.partState p = 2 → s.cmdsApart → s.bk.merge = [] → ∃ t, exec (.partitionDrain req) s = .next t ∧ t.partState p = 3 ∧ t.mem = s.mem
        ∧ ∀ c ∈ s.qu.cmds, c.part = p → c.phase = 1 → c.op = 0x01 → (∀ x ∈ s.sv.steps, x.cmd ≠ c.id) → c.acks = 0 → c.replay = none →
          c.stopped = false → c.status = 0 → (s.mslot (c.hdr 23 18)).st = 2 → (s.mslot (c.hdr 23 18)).part = p →
          ∃ d, t.cmdOf c.id = some d ∧ d.phase = 2 ∧ d.status = 0 ∧ d.result = c.count % 2 ^ 32)
    ∧ (s.partState p ≠ 1 → ∃ t, exec (.partitionActivate req) s = .next t ∧ t.flag F.PRT_STATE_FAIL p = true ∧ t.partState p = s.partState p
        ∧ RegsKeep [regKey A.PRT_STATE p 0] s t ∧ t = { s with regs := t.regs, out := s.out ++ [.regReply req 0 0] })
    ∧ (s.partState p ≠ 2 → ∃ t, exec (.partitionDrain req) s = .next t ∧ t.flag F.PRT_STATE_FAIL p = true ∧ t.partState p = s.partState p
        ∧ RegsKeep [regKey A.PRT_STATE p 0] s t ∧ t = { s with regs := t.regs, out := s.out ++ [.regReply req 0 0] })
    ∧ ((∀ k, req ≠ .trowel k) → ∃ t u, exec (.partitionCreate req) s = .next t ∧ exec (.partitionRelease req) s = .next u
        ∧ t.flag F.PRT_STATE_FAIL p = true ∧ u.flag F.PRT_STATE_FAIL p = true ∧ t.partState p = s.partState p ∧ u.partState p = s.partState p))
  ∧ (∀ (s : State) p, p < 32 → s.Canonical →
    (s.partState p = 3 → (∀ x ∈ s.sv.steps, x.part ≠ p) →
      ∃ t, exec (.drainComplete p) s = .next t ∧ t.partState p = 1 ∧ RegsKeep [regKey A.PRT_STATE p 0] s t ∧ t = { s with regs := t.regs })
    ∧ ((s.partState p ≠ 3 ∨ ∃ x ∈ s.sv.steps, x.part = p) → exec (.drainComplete p) s = .next s))
  ∧ (∀ (s : State) k p i (v : Word), s.grants (.trowel k) (A.PRT_POOL + 4 * i) → s.instOf .prt (A.PRT_POOL / 0x1000) (.trowel k) = some p → p < 32 →
      s.Canonical → i < 8 →
      let f := nbits v.toNat 31 18
      let c := nbits v.toNat 17 4
      let t1 := s.setReg (A.PRT_POOL + 4 * i) (BitVec.ofNat 32 (v.toNat / 16 * 16)) p
    (s.poolTaken p f c = false → t1.cycleFits p = true →
      ∃ t, exec (.poolAssign (.trowel k) i v) s = .next t ∧ t.getF (F.PRT_POOL_FIRST.nth i) p = f ∧ t.getF (F.PRT_POOL_COUNT.nth i) p = c
        ∧ RegsKeep [regKey (A.PRT_POOL + 4 * i) p 0] s t ∧ t.mem = s.mem
        ∧ (s.getF (F.PRT_POOL_COUNT.nth i) p = 0 → ∀ l n q, f ≤ l → l < f + c → s.inPool p l = false → t.inPool p l = true → s.physOf l = some n →
            (n, q) ∈ s.pt.wasIn → q ≠ p → n ∈ t.pt.clearing))
    ∧ ((s.poolTaken p f c = true ∨ t1.cycleFits p = false) →
      ∃ t, exec (.poolAssign (.trowel k) i v) s = .next t ∧ t.bit (hdrF .prt 0x10 30 0) 0 p = true ∧ RegsBut (errAddrs .prt) s t ∧ t.pt = s.pt))
  ∧ (∀ (s : State) k p i (v : Word), s.grants (.trowel k) (A.PRT_BGRP + 4 * i) → s.instOf .prt (A.PRT_BGRP / 0x1000) (.trowel k) = some p → p < 32 →
      s.Canonical → i < 4 →
      let old := s.getF (F.PRT_BGRP_GROUPS.nth i) p
      let bad := (∃ q, q < 32 ∧ q ≠ p ∧ s.getF (F.PRT_BGRP_GROUPS.nth i) q &&& v.toNat ≠ 0) ∨ (s.dv.gradeC = true ∧ i = 3 ∧ v ≠ 0)
        ∨ (old &&& v.toNat ≠ old ∧ s.partState p ≠ 1) ∨ (s.setReg (A.PRT_BGRP + 4 * i) v p).cycleFits p = false
    (¬bad → ∃ t, exec (.bgrpAssign (.trowel k) i v) s = .next t ∧ t.getF (F.PRT_BGRP_GROUPS.nth i) p = v.toNat
        ∧ RegsKeep [regKey (A.PRT_BGRP + 4 * i) p 0] s t ∧ t = { s with regs := t.regs, out := s.out ++ [.regReply (.trowel k) 0 0] })
    ∧ (bad → ∃ t, exec (.bgrpAssign (.trowel k) i v) s = .next t ∧ t.bit (hdrF .prt 0x10 30 0) 1 p = true ∧ RegsBut (errAddrs .prt) s t ∧ t.pt = s.pt))
  ∧ (∀ (s : State) k p half (v : Word), s.grants (.trowel k) (A.PRT_HOD_LO + 4 * half) → s.instOf .prt (A.PRT_HOD_LO / 0x1000) (.trowel k) = some p →
      p < 32 → s.Canonical → half < 2 →
      let bad := (∃ q, q < 32 ∧ q ≠ p ∧ s.getF (hodField half) q &&& v.toNat ≠ 0)
        ∨ (∃ e ∈ s.pt.leavingHods, e.2 ≠ p ∧ e.1 / 32 = half ∧ nbit v.toNat (e.1 % 32) = true)
        ∨ (s.setReg (A.PRT_HOD_LO + 4 * half) v p).cycleFits p = false
    (¬bad → ∃ t, exec (.hodAssign (.trowel k) half v) s = .next t ∧ t.getF (hodField half) p = v.toNat
        ∧ RegsKeep [regKey (A.PRT_HOD_LO + 4 * half) p 0] s t ∧ t.mem = s.mem ∧ t.sv = s.sv
        ∧ ∀ h, h / 32 = half → h < 64 → nbit (s.getF (hodField half) p) (h % 32) = true → nbit v.toNat (h % 32) = false →
            ((∃ w ∈ s.sv.walks, w.hod = h) → (h, p) ∈ t.pt.leavingHods))
    ∧ (bad → ∃ t, exec (.hodAssign (.trowel k) half v) s = .next t ∧ t.bit (hdrF .prt 0x10 30 0) 2 p = true ∧ RegsBut (errAddrs .prt) s t ∧ t.pt = s.pt))
  ∧ (∀ (s : State) req p (v : Word), s.grants req A.PRT_MODE → s.instOf .prt (A.PRT_MODE / 0x1000) req = some p →
      mayWrite req (A.PRT_MODE / 0x1000) = true → p < 32 → s.Canonical →
    (s.partState p = 1 → ∃ t, exec (.prtModeWrite req v) s = .next t ∧ t.live p = nbit v.toNat 0 ∧ RegsKeep [regKey A.PRT_MODE p 0] s t
        ∧ t = { s with regs := t.regs, out := s.out ++ [.regReply req 0 0] })
    ∧ (s.partState p ≠ 1 → exec (.prtModeWrite req v) s = .next (s.replied req 0)))
  ∧ (∀ (s : State) k p i (v : Word), s.grants (.trowel k) (A.PRT_RG_STK_FLOOR + 4 * i) →
      s.instOf .prt (A.PRT_RG_STK_FLOOR / 0x1000) (.trowel k) = some p → p < 32 → s.Canonical → i < 6 →
      let fld := if i % 2 = 0 then rgFloor (i / 2) else rgCap (i / 2)
      let t1 := s.setF fld v.toNat p
    (t1.rgSum (i / 2) ≤ t1.rgLimit (i / 2) → t1.getF (rgFloor (i / 2)) p ≤ t1.getF (rgCap (i / 2)) p →
      ∃ t, exec (.regulatorWrite (.trowel k) i v) s = .next t ∧ t.getF fld p = v.toNat % 2 ^ fld.width
        ∧ RegsKeep [regKey (A.PRT_RG_STK_FLOOR + 4 * i) p 0] s t ∧ t = { s with regs := t.regs, out := s.out ++ [.regReply (.trowel k) 0 0] })
    ∧ ((t1.rgLimit (i / 2) < t1.rgSum (i / 2) ∨ t1.getF (rgCap (i / 2)) p < t1.getF (rgFloor (i / 2)) p) →
      ∃ t, exec (.regulatorWrite (.trowel k) i v) s = .next t ∧ t.bit (hdrF .prt 0x10 30 0) 3 p = true ∧ RegsBut (errAddrs .prt) s t))
  ∧ (∀ s : State, smSorted s.pt.buckets = true → s.lk.unpaid = [] → s.yd.waiting = [] →
      let filled (p r : Nat) : Bucket := ⟨min (2 * (s.getF (rgFloor r) p * 1000)) ((s.bucket p r).floor + s.getF (rgFloor r) p * 1000),
            min (2 * (s.getF (rgCap r) p * 1000)) ((s.bucket p r).cap + s.getF (rgCap r) p * 1000)⟩
      (s.pt.owed = [] →
        ∃ t, exec .regulatorRefill s = .next t ∧ t = { s with pt := { s.pt with buckets := t.pt.buckets } }
          ∧ ∀ p r, p < 32 → r < 3 → t.bucket p r = filled p r)
      ∧ (∀ p r n id c, p < 32 → r < 3 → s.pt.owed = [⟨p, r, n, .cmd id⟩] → s.cmdOf id = some c → c.phase = 1 →
          n ≤ (filled p r).floor →
        ∃ t, exec .regulatorRefill s = .next t ∧ t.pt.owed = [] ∧ (t.cmdOf id).map (fun d => d.acks) = some (c.acks - 1)
          ∧ t.bucket p r = ⟨(filled p r).floor - n, (filled p r).cap - n⟩ ∧ t.mem = s.mem))

/-- Cycle tables: commits, the period counter, windows, shifts and stops. Formalises R286 (the order of the checks and what
each says of a table), R287, R288, R290 to R293. Completes: cytCommit, cytEnableWrite, cytShift, periodWrap,
slotWindowStart, slotWindowEnd, budgetStop. -/
def Obligations.CycleTablesGrant : Prop :=
  (∀ (s : State) req p, s.grants req A.CYT_CTRL → s.instOf .cyt (A.CYT_CTRL / 0x1000) req = some p → mayWrite req (A.CYT_CTRL / 0x1000) = true →
      p < 32 → s.Canonical → smSorted s.pt.cycles = true →
      s.shown req A.CYT_CTRL % 2 = (if s.flag F.CYT_CTRL_ENABLE p then 1 else 0) →
      let period := s.getF F.CYT_PERIOD_US p
      let n := s.getF F.CYT_NSLOTS_COUNT p
      let xs := s.shadowSlots p n
      let status := (List.range n).map fun k => regKey A.CYT_SLSTAT p k
    (s.cycleFails p period n xs = none → s.flag F.CYT_CTRL_ENABLE p = true →
      ∃ t, exec (.cytCommit req) s = .next t ∧ t.cycle p = { s.cycle p with pend := some (period, xs) } ∧ t.flag F.CYT_CTRL_PENDING p = true
        ∧ t.flag F.CYT_CTRL_ENABLE p = true ∧ RegsKeep [regKey A.CYT_CTRL p 0] s t ∧ (∀ q, q ≠ p → t.cycle q = s.cycle q) ∧ t.mem = s.mem)
    ∧ (s.cycleFails p period n xs = none → s.flag F.CYT_CTRL_ENABLE p = false →
      ∃ t, exec (.cytCommit req) s = .next t ∧ t.cycle p = { s.cycle p with period := period, slots := windowsAt xs (s.getF F.CYT_COUNT_US p), pend := none }
        ∧ t.flag F.CYT_CTRL_PENDING p = false ∧ RegsKeep (regKey A.CYT_CTRL p 0 :: status) s t ∧ (∀ q, q ≠ p → t.cycle q = s.cycle q))
    ∧ (∀ chk slot, s.cycleFails p period n xs = some (chk, slot) →
      ((s.cycle p).pend = none ∨ s.flag F.CYT_CTRL_ENABLE p = true) →
      ∃ t, exec (.cytCommit req) s = .next t ∧ t.getF F.CYT_REFUSE_CHECK p = chk ∧ t.getF F.CYT_REFUSE_SLOT p = slot
        ∧ t.bit (hdrF .cyt 0x10 30 0) 0 p = true ∧ t.cycle p = s.cycle p ∧ RegsBut (A.CYT_REFUSE :: A.CYT_CTRL :: errAddrs .cyt) s t
        ∧ t.flag F.CYT_CTRL_ENABLE p = s.flag F.CYT_CTRL_ENABLE p))
  ∧ (∀ (s : State) req p, s.grants req A.CYT_CTRL → s.instOf .cyt (A.CYT_CTRL / 0x1000) req = some p → mayWrite req (A.CYT_CTRL / 0x1000) = true →
      p < 32 → s.Canonical → smSorted s.pt.cycles = true →
    (s.flag F.CYT_CTRL_ENABLE p = false →
      ∃ t, exec (.cytEnableWrite req true) s = .next t ∧ t.flag F.CYT_CTRL_ENABLE p = true ∧ t.getF F.CYT_COUNT_US p = 0
        ∧ t.cycle p = { s.cycle p with slots := windowsAt ((s.cycle p).slots.map fun x => { x with bal := x.budget.map Int.ofNat, rest := [0, 0, 0] }) 0 }
        ∧ (∀ q, q ≠ p → t.cycle q = s.cycle q) ∧ t.mem = s.mem ∧ t.sv = s.sv)
    ∧ (s.flag F.CYT_CTRL_ENABLE p = true →
      ∃ t, exec (.cytEnableWrite req true) s = .next t ∧ t = { s with regs := t.regs, out := s.out ++ [.regReply req 0 0] }
        ∧ t.flag F.CYT_CTRL_ENABLE p = true ∧ RegsKeep [regKey A.CYT_CTRL p 0] s t)
    ∧ ((s.cycle p).pend = none →
      ∃ t, exec (.cytEnableWrite req false) s = .next t ∧ t = { s with regs := t.regs, out := s.out ++ [.regReply req 0 0] }
        ∧ t.flag F.CYT_CTRL_ENABLE p = false ∧ RegsKeep [regKey A.CYT_CTRL p 0] s t)
    ∧ (∀ period xs, (s.cycle p).pend = some (period, xs) →
      ∃ t, exec (.cytEnableWrite req false) s = .next t ∧ t.flag F.CYT_CTRL_ENABLE p = false ∧ t.flag F.CYT_CTRL_PENDING p = false
        ∧ t.cycle p = { s.cycle p with period := period, slots := windowsAt xs (s.getF F.CYT_COUNT_US p), pend := none }))
  ∧ (∀ (s : State) req p (v : Word), s.grants req A.CYT_SHIFT → s.instOf .cyt (A.CYT_SHIFT / 0x1000) req = some p →
      mayWrite req (A.CYT_SHIFT / 0x1000) = true → p < 32 → smSorted s.pt.cycles = true →
      let d := signedN 18 v.toNat
    (2 * d ≤ ((s.cycle p).period : Int) → -((s.cycle p).period : Int) ≤ 2 * d →
      ∃ t, exec (.cytShift req v) s = .next t ∧ t.cycle p = { s.cycle p with shift := d } ∧ (∀ q, q ≠ p → t.cycle q = s.cycle q) ∧ t.regs = s.regs)
    ∧ ((((s.cycle p).period : Int) < 2 * d ∨ 2 * d < -((s.cycle p).period : Int)) → exec (.cytShift req v) s = .next (s.replied req 0)))
  ∧ (∀ (s : State) p, p < 32 → s.Canonical → smSorted s.pt.cycles = true →
    (s.flag F.CYT_CTRL_ENABLE p = true → (s.cycle p).pend = none →
      ∃ t, exec (.periodWrap p) s = .next t ∧ t.getF F.CYT_COUNT_US p = 0
        ∧ t.getF F.CYT_PERIODS_COUNT p = (s.getF F.CYT_PERIODS_COUNT p + 1) % 2 ^ 32 ∧ (t.cycle p).shift = 0 ∧ (t.cycle p).period = (s.cycle p).period
        ∧ (t.cycle p).slots.length = (s.cycle p).slots.length
        ∧ ∀ (i : Nat) (x : CSlot), (s.cycle p).slots[i]? = some x → ∃ y : CSlot, (t.cycle p).slots[i]? = some y ∧ y.budget = x.budget ∧ y.cls = x.cls
          ∧ (y.active = true ↔ x.start = 0 ∧ 0 < x.len)
          ∧ ∀ (m b : Nat) (c : Int), x.budget[m]? = some b → x.bal[m]? = some c → y.bal[m]? = some (if c < 0 then (b : Int) + c else b))
    ∧ (∀ period xs, s.flag F.CYT_CTRL_ENABLE p = true → (s.cycle p).pend = some (period, xs) →
      ∃ t, exec (.periodWrap p) s = .next t ∧ t.getF F.CYT_COUNT_US p = 0 ∧ t.flag F.CYT_CTRL_PENDING p = false
        ∧ t.cycle p = { s.cycle p with period := period, slots := windowsAt xs 0, pend := none, shift := 0 })
    ∧ (s.flag F.CYT_CTRL_ENABLE p = false → exec (.periodWrap p) s = .next s))
  ∧ (∀ (s : State) p i x, (s.cycle p).slots[i]? = some x → p < 32 → i < 256 → s.Canonical → smSorted s.pt.cycles = true →
    (s.flag F.CYT_CTRL_ENABLE p = true →
      ∃ t, exec (.slotWindowStart p i) s = .next t ∧ (t.cycle p).slots[i]? = some { x with active := true, wanted := false }
        ∧ (∀ j : Nat, j ≠ i → (t.cycle p).slots[j]? = (s.cycle p).slots[j]?) ∧ t.getF F.CYT_COUNT_US p = x.start % 2 ^ 17
        ∧ t.flag F.CYT_SLSTAT_ACTIVE p i = true ∧ RegsKeep [regKey A.CYT_COUNT p 0, regKey A.CYT_SLSTAT p i] s t)
    ∧ (s.flag F.CYT_CTRL_ENABLE p = false → exec (.slotWindowStart p i) s = .next s)
    ∧ (x.active = true →
      ∃ t, exec (.slotWindowEnd p i) s = .next t ∧ (t.cycle p).slots[i]? = some { x with active := false, wanted := false }
        ∧ (∀ j : Nat, j ≠ i → (t.cycle p).slots[j]? = (s.cycle p).slots[j]?) ∧ t.flag F.CYT_SLSTAT_ACTIVE p i = false
        ∧ t.flag F.CYT_SLSTAT_SHORT p i = (x.left && x.wanted)
        ∧ (x.left = true → x.wanted = true → t.bit (hdrF .cyt 0x10 30 0) 2 p = true)
        ∧ ((x.left && x.wanted) = false → RegsKeep [regKey A.CYT_COUNT p 0, regKey A.CYT_SLSTAT p i] s t))
    ∧ (x.active = false → exec (.slotWindowEnd p i) s = .next s))
  ∧ (∀ (s : State) p i x, (s.cycle p).slots[i]? = some x → p < 32 → i < 256 → s.Canonical →
      (∀ n r, (s.brick n).run = some r → r.part = p → s.chargedSlot r.own p i = false) →
    (x.overdrawn = true →
      ∃ t, exec (.budgetStop p i) s = .next t ∧ t.bit (hdrF .cyt 0x10 30 0) 1 p = true ∧ t.mem = s.mem
        ∧ (∀ e ∈ t.bk.lists, ∀ d ∈ e.2, s.chargedSlot d.own p i = false)
        ∧ ∀ z ∈ s.sv.steps, z.part = p → z.kind = 0 → ∀ w ∈ z.works, w.left = false → w.slot = some i → w.status = 0 → w.seq < 8192 →
          ∃ y ∈ t.sv.steps, y.num = z.num ∧ ∃ v ∈ y.works, v.seq = w.seq ∧ v.status = 0x0503)
    ∧ (x.overdrawn = false → s.bk.lists = [] → exec (.budgetStop p i) s = .next s))
  ∧ (∀ xs m unit limit, firstOver xs m unit limit = none ↔ ∀ t, rateAt xs m unit t ≤ (limit : Rat))
  ∧ (∀ xs, classClash xs = none ↔ ∀ (i j : Nat) (a b : CSlot), j < i → xs[i]? = some a → xs[j]? = some b →
      a.cls = b.cls → b.start + b.len ≤ a.start ∨ a.start + a.len ≤ b.start)
  ∧ (∀ (s : State) p c others, (s.flag F.CYT_CTRL_ENABLE p = false → s.grant p c others = .free)
    ∧ (s.flag F.CYT_CTRL_ENABLE p = true →
      (∀ i, s.grant p c others = .slot i → ∃ x : CSlot, (s.cycle p).slots[i]? = some x ∧ x.cls = c ∧ x.grants = true
          ∧ ∀ (j : Nat) (y : CSlot), j < i → (s.cycle p).slots[j]? = some y → ¬(y.cls = c ∧ y.grants = true))
      ∧ (s.grant p c others = .no ↔ (∀ y ∈ (s.cycle p).slots, ¬(y.cls = c ∧ y.grants = true)) ∧ (s.bit F.CYT_IDLE_MASK c p = false ∨ others = true))))

/-- MODEL_LOAD, its blocks and its completion. Formalises R415 (order of the codes as in `loadPre` and `loadStatus`), R416 and
R417. Completes: modelLoad, modelLoadBlock, modelLoadComplete. -/
def Obligations.ModelsLoad : Prop :=
  (∀ (s : State) p q c d sigOk outliersOk kinds, s.accepts p q 0x0E c d → s.cmdsApart → s.Canonical → c.part = p → c.queue = q → c.plain → s.bk.merge = [] →
      smSorted s.sv.mslots = true → smSorted s.bk.regions = true →
      let m := d.hdr 5 0
    (loadPre d s = 0 → s.loadStatus d sigOk outliersOk kinds = 0 →
      ∃ t, exec (.modelLoad p q sigOk outliersOk kinds) s = .next t
        ∧ t.mslot m = { st := 1, part := p, gen := ((s.mslot m).gen + 1) % 65536, image := d.word 1, base := d.word 2
                        setBase := nbits (d.word 3) 23 16, tplBase := d.word 3 % 4096 }
        ∧ (∀ n, n ≠ m → t.mslot n = s.mslot n) ∧ t.ftg.loads = s.ftg.loads ++ [d.id]
        ∧ t.cmdOf d.id = some { s.asRun p 0x0E d with count := loadBlocks (s.frx (d.word 1)) }
        ∧ (∀ g ∈ s.slotGranules m, t.isOpen g = false ∧ t.isMutable g = true ∧ t.isHashed g = false ∧ t.granuleOwner g = s.granuleOwner g)
        ∧ (∀ g, g ∉ s.slotGranules m → t.regionRaw g = s.regionRaw g) ∧ t.qu.recs = s.qu.recs ∧ t.mem = s.mem ∧ t.synd = s.synd)
    ∧ (loadPre d s = 0 → s.loadStatus d sigOk outliersOk kinds ≠ 0 →
      ∃ t, exec (.modelLoad p q sigOk outliersOk kinds) s = .next t ∧ CmdDone d (s.loadStatus d sigOk outliersOk kinds) 0 s t ∧ t.sv = s.sv
        ∧ t.bk = s.bk ∧ t.ftg = s.ftg ∧ (sigOk = false → t.bit (hdrF .kst 0x10 30 0) 0 = true))
    ∧ (loadPre d s ≠ 0 → ∃ t, exec (.modelLoad p q sigOk outliersOk kinds) s = .next t ∧ CmdDone d (loadPre d s) 0 s t ∧ t.sv = s.sv ∧ t.bk = s.bk))
  ∧ (∀ (s : State) c d sigOk outliersOk kinds, s.loadStatus d sigOk outliersOk kinds = c →
      (sigOk = false → c = 0x0901) ∧ (sigOk = true → s.signerOk (s.frx (d.word 1)) 1 d.part = true →
        (geometryOk (s.frx (d.word 1)) = false → c = 0x0102)
        ∧ (c = 0x0307 → ∃ g ∈ loadGranules (s.frx (d.word 1)) (d.word 2), s.granuleOwner g ≠ some d.part ∨ nbit (s.region g) 59 = true
            ∨ (s.isOpen g = true ∧ ¬(s.isHashed g = true ∧ nbits (s.region g) 52 47 = d.hdr 5 0)))))
  ∧ (∀ (s : State) m c retryOk src dst, s.loadOf m = some c → s.cmdsApart → s.Canonical → smSorted s.ftg.data = true → c.count ≠ 0 →
      (s.image (c.word 1)).badDie = false → (s.mslot m).area ≠ 0 → blockAt (frxLoaded (s.frx (c.word 1))) (loadBlocks (s.frx (c.word 1)) - c.count) = some (src, dst) →
      src + 2 ^ 20 ≤ 2 ^ 44 → (c.word 2 + dst) % 2 ^ 20 = 0 →
    (∃ t, exec (.modelLoadBlock m true retryOk []) s = .next t
        ∧ (∀ j, j < 2 ^ 20 → t.okByte (c.word 2 + dst + j) = s.frx (c.word 1) (src + j))
        ∧ t.anyBad (c.word 2 + dst) (2 ^ 20) = false ∧ ReadsOutside (c.word 2 + dst) (2 ^ 20) s t
        ∧ t.cmdOf c.id = some { c with count := c.count - 1 } ∧ t.ftg.blocksRead = s.ftg.blocksRead + 1 ∧ t.sv = s.sv)
    ∧ (smSorted s.sv.mslots = true → c.plain → s.bk.merge = [] →
        ∃ t, exec (.modelLoadBlock m false false []) s = .next t ∧ (t.mslot m).st = 0 ∧ (t.mslot m).gen = (s.mslot m).gen
        ∧ (∀ n, n ≠ m → t.mslot n = s.mslot n) ∧ t.qu.recs = s.qu.recs ++ [c.doneRecord 0x030F 0] ∧ c.id ∉ t.ftg.loads ∧ t.mem = s.mem))
  ∧ (∀ (s : State) m c retryOk, s.loadOf m = some c → s.cmdsApart → s.dutyServed 1 = true → c.count ≠ 0 → (s.mslot m).area = 0 → m < 64 →
      (s.image (c.word 1)).badDie = false → manifestAgrees (s.frx (c.word 1)) = true →
      smSorted s.sv.mslots = true → smSorted s.bk.regions = true → (loadGranules (s.frx (c.word 1)) (c.word 2)).Nodup →
      (loadGranules (s.frx (c.word 1)) (c.word 2)).length ≤ 2 ^ 16 →
    ∃ t, exec (.modelLoadBlock m true retryOk []) s = .next t ∧ (t.mslot m).area = loadExtent (s.frx (c.word 1))
      ∧ (t.mslot m).st = (s.mslot m).st ∧ (t.mslot m).gen = (s.mslot m).gen
      ∧ (∀ (k g : Nat), (loadGranules (s.frx (c.word 1)) (c.word 2))[k]? = some g →
          nbits (t.regionRaw g) 52 47 = m ∧ t.regionRaw g % 2 ^ 32 = 64 * k ∧ nbits (t.regionRaw g) 58 53 = nbits (s.regionRaw g) 58 53
          ∧ t.regionRaw g / 2 ^ 59 = 0)
      ∧ ∀ g, g ∉ loadGranules (s.frx (c.word 1)) (c.word 2) → t.regionRaw g = s.regionRaw g)
  ∧ (∀ (s : State) m ok retryOk ue, s.loadOf m = none → exec (.modelLoadBlock m ok retryOk ue) s = .next s)
  ∧ (∀ (s : State) m c (ts : List (Nat × Template)), s.loadOf m = some c → s.cmdsApart → c.plain → s.bk.merge = [] → c.count = 0 → (s.mslot m).area ≠ 0 → s.dutyServed 1 = true →
      smSorted s.sv.mslots = true → smSorted s.bk.regions = true → (ts.map Prod.fst).Nodup →
      let e := s.mslot m
    ∃ t, exec (.modelLoadComplete m ts) s = .next t ∧ t.mslot m = e.filled (s.frx e.image) ∧ (t.mslot m).st = 2 ∧ (t.mslot m).gen = e.gen
      ∧ (∀ n, n ≠ m → t.mslot n = s.mslot n) ∧ t.qu.recs = s.qu.recs ++ [c.doneRecord 0 e.gen] ∧ c.id ∉ t.ftg.loads
      ∧ (∀ g ∈ s.slotGranules m, t.isOpen g = true ∧ t.isHashed g = true ∧ nbits (t.regionRaw g) 52 47 = m)
      ∧ (∀ x ∈ ts, e.tplBase + x.1 < 4096 → t.template e.part (e.tplBase + x.1) = some x.2)
      ∧ (∀ n, (∀ x ∈ ts, e.tplBase + x.1 ≠ n) → n < 4096 → t.template e.part n = s.template e.part n)
      ∧ t.mem = s.mem ∧ t.synd = s.synd)

/-- Host transactions under their credits: answered, performed, refused. Formalises R331, R332, R334, R336 and R339 for
memory, registers, staging and doorbells. Completes: mrd, mwr, mwrc, db, ringDoorbell. -/
def Obligations.HostTransactionsAnswered : Prop :=
  (∀ (s : State) l tid agent part addr n a, l < 2 → s.hostOpen l → s.Canonical → tid ∉ (s.hlink l).tids →
      s.hostCheck agent part addr n false false = some (.ok (.mem a)) → s.settle a = s → s.atRest → s.anyPaused = false →
      s.takenAtOnce (.host l 1 tid agent part addr n) part 4 addr { op := 0, addr := a, len := n, data := [] } →
    ((∀ w ∈ wordsOf a n, s.ecc w = .clean) →
      ∃ t, exec (.mrd l tid agent part n addr false) s = .next t ∧ Answered l (.cpld l tid 0 (s.okBytes a n)) s t
        ∧ t.mem = s.mem ∧ t.synd = s.synd ∧ t.out.length = s.out.length + (Out.cpld l tid 0 (s.okBytes a n)).flits + 1)
    ∧ ((∀ w ∈ wordsOf a n, s.ecc w = .clean ∨ (s.ecc w = .poisoned ∧ s.openWord w = false)) → s.anyBad a n = true →
      ∃ t, exec (.mrd l tid agent part n addr false) s = .next t ∧ Answered l (.cpld l tid 0x0401 (List.replicate n 0)) s t
        ∧ t.mem = s.mem))
  ∧ (∀ (s : State) l tid agent part addr n bad c, l < 2 → s.hostOpen l → tid ∉ (s.hlink l).tids → n ≤ 256 →
      s.keystonePaused = false → s.hostCheck agent part addr n false bad = some (.error c) → c ≠ 0 →
    ∃ t, exec (.mrd l tid agent part n addr bad) s = .next t ∧ Answered l (.cpld l tid c (List.replicate n 0)) s t
      ∧ t.regs = s.regs ∧ t.mem = s.mem)
  ∧ (∀ (s : State) l tid agent part addr data a, l < 2 → s.hostOpen l → s.Canonical → s.ln.held = [] → s.pt.clearing = [] →
      s.hostCheck agent part addr data.length true false = some (.ok (.mem a)) → s.settle a = s →
      s.settledAt a data.length →
    (s.takenAtOnce (.host l 2 0 agent part addr data.length) part 4 addr { op := 1, addr := a, len := data.length, data := data.map some } →
      ∃ t, exec (.mwr l agent part addr data false) s = .next t ∧ t.okBytes a data.length = data
      ∧ ReadsOutside a data.length s t ∧ t.out = s.out ∧ t.ln = s.ln)
    ∧ (tid ∉ (s.hlink l).tids →
      s.takenAtOnce (.host l 3 tid agent part addr data.length) part 4 addr { op := 1, addr := a, len := data.length, data := data.map some } →
      ∃ t, exec (.mwrc l tid agent part addr data false) s = .next t ∧ t.okBytes a data.length = data
      ∧ ReadsOutside a data.length s t ∧ Answered l (.cpl l tid 0) s t))
  ∧ (∀ (s : State) l tid agent part addr data bad c, l < 2 → s.hostOpen l → data.length ≤ 256 →
      s.keystonePaused = false → s.hostCheck agent part addr data.length true bad = some (.error c) → c ≠ 0 →
    exec (.mwr l agent part addr data bad) s = .next (s.postedFail c agent part addr)
    ∧ (tid ∉ (s.hlink l).tids → ∃ t, exec (.mwrc l tid agent part addr data bad) s = .next t ∧ Answered l (.cpl l tid c) s t
        ∧ t.regs = s.regs ∧ t.mem = s.mem))
  ∧ (∀ (s : State) agent part addr c, s.Canonical → agent < 64 → part < 32 → c < 65536 → addr < 2 ^ 64 →
    (s.flag (hdrF .lnt 0x24 31 31) = false →
      let t := s.postedFail c agent part addr
      t.bit (hdrF .lnt 0x10 30 0) 0 = true ∧ t.getF F.LNT_PWSTAT_STATUS = c ∧ t.getF F.LNT_PWSTAT_AGENT = agent
      ∧ t.getF F.LNT_PWSTAT_PART = part ∧ t.flag (hdrF .lnt 0x24 31 31) = true
      ∧ (t.reg (hdrAddr .lnt 0x20)).toNat = addr % 2 ^ 32)
    ∧ (s.flag (hdrF .lnt 0x24 31 31) = true →
      let t := s.postedFail c agent part addr
      t.bit (hdrF .lnt 0x10 30 0) 0 = true ∧ t.reg F.LNT_PWSTAT_STATUS.addr = s.reg F.LNT_PWSTAT_STATUS.addr
      ∧ t.reg (hdrAddr .lnt 0x20) = s.reg (hdrAddr .lnt 0x20)))
  ∧ (∀ (s : State) l tid agent part addr n off bad c v t, l < 2 → s.hostOpen l → tid ∉ (s.hlink l).tids →
      s.hostCheck agent part addr n false bad = some (.ok (.reg off)) →
      (s.takeIn l tid 0 false).2.regRead (.host agent) off n = some (c, v, t) →
    exec (.mrd l tid agent part n addr bad) s = .next (t.hostAnswer l 1 tid agent part addr n c (leBytes v n)))
  ∧ (∀ (s : State) l tid agent part addr data off bad c t, l < 2 → s.hostOpen l → tid ∉ (s.hlink l).tids → data.length ≤ 256 →
      s.hostCheck agent part addr data.length true bad = some (.ok (.reg off)) →
      (s.takeIn l tid data.length false).2.regWrite (.host agent) off data.length (leNat data) = some (c, t) →
    exec (.mwrc l tid agent part addr data bad) s = .next (t.hostAnswer l 3 tid agent part addr data.length c []))
  ∧ (∀ (s : State) l tid agent part addr data bad, s.hostTakes l = true → data.length ≤ 256 → s.keystonePaused = false →
    ((s.hlink l).rq = 0 → exec (.mrd l tid agent part 4 addr bad) s = .next (s.err .lnt 0 7)
      ∧ exec (.mwrc l tid agent part addr data bad) s = .next (s.err .lnt 0 7))
    ∧ ((s.hlink l).pw = 0 ∨ (s.hlink l).data * 64 < data.length → exec (.mwr l agent part addr data bad) s = .next (s.err .lnt 0 7))
    ∧ ((s.hlink l).rq ≠ 0 → tid ∈ (s.hlink l).tids → exec (.mrd l tid agent part 4 addr bad) s = .next (s.err .lnt 0 8)))
  ∧ (∀ (s : State) agent part addr n write bad, n ≠ 0 →
    (s.dv.st = .warmReset → s.hostCheck agent part addr n write bad = some (.error 0x0705))
    ∧ (s.dv.st ≠ .warmReset → (bad = true ∨ 256 < addr % 256 + n) →
        s.hostCheck agent part addr n write bad = some (.error 0x0102))
    ∧ (s.dv.st = .standby → bad = false → addr % 256 + n ≤ 256 → devOf addr ≠ s.dv.devNum →
        s.hostCheck agent part addr n write bad = some (.error 0x0601))
    ∧ (s.dv.st = .ready → bad = false → addr % 256 + n ≤ 256 → addr / 2 ^ 44 % 256 = 0 → devOf addr ≠ s.dv.devNum →
        s.hostCheck agent part addr n write bad
          = some (if s.hasRight agent part (if write then .memW else .memR) then .ok .remote else .error 0x0602))
    ∧ (∀ st, s.dv.st = .ready → bad = false → addr % 256 + n ≤ 256 → addr / 2 ^ 44 % 256 = 0 → devOf addr = s.dv.devNum →
        s.area (localOf addr) = .stack st →
        s.hostCheck agent part addr n write bad
          = some (if s.hasRight agent part (if write then .memW else .memR) = false then .error 0x0602
                  else if s.granuleOwner (granule (localOf addr)) ≠ some part then .error 0x0307
                  else if s.stackServes st = false then .error 0x0308
                  else if write && !s.isMutable (granule (localOf addr)) then .error 0x0305
                  else .ok (.mem (localOf addr)))))
  ∧ (∀ (s : State) l agent part target tail, l < 2 → s.hostOpen l →
    (s.dbCheck agent part target false = some 0 →
      (target < 8 → exec (.db l agent part target tail false) s = .next (s.doorbell part target (tail % 65536)))
      ∧ (target = 8 → exec (.db l agent part target tail false) s = .next (s.ringBell (part + 1)))
      ∧ (target = 9 → exec (.db l agent part target tail false) s = .next (s.ringBell 0)))
    ∧ (∀ bad c, s.dbCheck agent part target bad = some c → c ≠ 0 →
        exec (.db l agent part target tail bad) s = .next (s.postedRefused c agent part))
    ∧ (s.dv.st = .ready → s.dbCheck agent part target false
        = some (if 10 ≤ target then 0x0102
                else if (if target = 9 then s.deviceRight agent else s.hasRight agent part .db) then 0 else 0x0602)))
  ∧ (∀ (s : State) p q tail, s.Canonical → p < 32 → q < 8 → tail < 65536 →
    (s.qlog p q = 0 ∨ 2 ^ s.qlog p q < ringGap tail (s.getF F.PRT_QHEAD_INDEX p q) →
      (s.doorbell p q tail).flag F.PRT_QCTRL_DB_REFUSED p q = true
      ∧ (s.doorbell p q tail).getF F.PRT_QTAIL_INDEX p q = s.getF F.PRT_QTAIL_INDEX p q)
    ∧ (s.qlog p q ≠ 0 → ringGap tail (s.getF F.PRT_QHEAD_INDEX p q) ≤ 2 ^ s.qlog p q →
      (s.doorbell p q tail).getF F.PRT_QTAIL_INDEX p q = tail
      ∧ ∀ p' q', p' < 32 → q' < 8 → (p', q') ≠ (p, q) →
          (s.doorbell p q tail).getF F.PRT_QTAIL_INDEX p' q' = s.getF F.PRT_QTAIL_INDEX p' q'))
  ∧ (∀ (s : State) req c, s.grants req (A.LNT_RDB + 4 * c) → mayWrite req 0x31 = true → c < 33 →
      exec (.ringDoorbell req c) s = .next ((s.ringBell c).replied req 0) ∧ c ∈ (s.ringBell c).ln.bells)

/-- Flits, retrains, modules, interrupts and the sideband of the host links. Formalises R326, R327, R332, R333, R341 and R349
(the silence of a link). Completes: flitReceive, nakFlit, ucieRetrainEnd, moduleFailure, hostLinkReturn, intrHoldoffEnd,
lntIvecWrite, sidebandRead, sidebandWrite. -/
def Obligations.HostLinkLives : Prop :=
  (∀ (s : State) l fseq ack rq pw data, l < 2 → s.hlinkUp l = true → (s.hlink l).retraining = false → s.Canonical →
    (fseq = (s.hlink l).rxNext →
      ∃ t, exec (.flitReceive l 0 fseq ack rq pw data false true) s = .next t ∧ (t.hlink l).rxNext = (fseq + 1) % 4096
        ∧ Out.flit l 1 (s.hlink l).txNext fseq ∈ t.out ∧ t.regs = s.regs ∧ t.mem = s.mem ∧ t.hlink (1 - l) = s.hlink (1 - l))
    ∧ (fseq ≠ (s.hlink l).rxNext →
      ∃ t, exec (.flitReceive l 0 fseq ack rq pw data false true) s = .next t ∧ (t.hlink l).rxNext = (s.hlink l).rxNext
        ∧ Out.flit l 2 (s.hlink l).rxNext (((s.hlink l).rxNext + 4095) % 4096) ∈ t.out ∧ t.regs = s.regs ∧ t.mem = s.mem)
    ∧ (∀ kind ackValid, exec (.flitReceive l kind fseq ack rq pw data ackValid false) s
        = .next ((s.bump F.LNT_CRC_CNT_COUNT).emit (.flit l 2 (s.hlink l).rxNext (((s.hlink l).rxNext + 4095) % 4096)))))
  ∧ (∀ (s : State) l fseq ack rq pw data o pre rest, l < 2 → s.hlinkUp l = true → (s.hlink l).retraining = false → (s.hlink l).toSend = [] →
      (s.hlink l).replay = pre ++ (ack, o) :: rest → (∀ e ∈ pre, e.1 ≠ ack) →
    exec (.flitReceive l 1 fseq ack rq pw data true true) s = .next (s.setHlink l { s.hlink l with replay := rest, naks := 0 }))
  ∧ (∀ (s : State) l fseq, (2 ≤ l ∨ s.hlinkUp l = false ∨ (s.hlink l).retraining = true) → exec (.nakFlit l fseq) s = .next s)
  ∧ (∀ (s : State) l fseq o pre rest, l < 2 → s.hlinkUp l = true → (s.hlink l).retraining = false → (s.hlink l).toSend = [] →
      (s.hlink l).replay = pre ++ (fseq, o) :: rest → (∀ e ∈ pre, e.1 ≠ fseq) →
    let n := if pre = [] then (s.hlink l).naks + 1 else 1
    let u := s.setHlink l { s.hlink l with replay := (fseq, o) :: rest, naks := n }
    (n < 8 → exec (.nakFlit l fseq) s = .next (u.resendFlits l)) ∧ (8 ≤ n → exec (.nakFlit l fseq) s = .next (u.hostRetrain l)))
  ∧ (∀ (s : State) l, s.Canonical → l < 2 →
      (∀ e ∈ (s.hlink l).replay, Out.flit l 0 e.1 (((s.hlink l).rxNext + 4095) % 4096) ∈ (s.resendFlits l).out)
      ∧ (s.resendFlits l).getF F.LNT_REPLAY_CNT_COUNT
          = min (2 ^ 32 - 1) (s.getF F.LNT_REPLAY_CNT_COUNT + (s.hlink l).replay.length)
      ∧ (s.resendFlits l).mem = s.mem
      ∧ ((s.hostRetrain l).hlink l).retraining = true ∧ ((s.hostRetrain l).hlink l).replay = (s.hlink l).replay)
  ∧ (∀ (s : State) l, s.Canonical → l < 2 → s.hlinkUp l = true → (s.hlink l).retraining = true →
    ((s.hlink l).toSend = [] →
      ∃ t, exec (.ucieRetrainEnd l true) s = .next t ∧ (t.hlink l).retraining = false ∧ (t.hlink l).retrains = 0 ∧ t.mem = s.mem
        ∧ ∀ e ∈ (s.hlink l).replay, Out.flit l 0 e.1 (((s.hlink l).rxNext + 4095) % 4096) ∈ t.out)
    ∧ ((s.hlink l).retrains < 2 → ∃ t, exec (.ucieRetrainEnd l false) s = .next t ∧ (t.hlink l).retraining = true
        ∧ (t.hlink l).retrains = (s.hlink l).retrains + 1 ∧ t.mem = s.mem)
    ∧ (2 ≤ (s.hlink l).retrains → exec (.ucieRetrainEnd l false) s = .next (s.hostLinkDown l)))
  ∧ (∀ (s : State) l, s.Canonical → l < 2 →
    let t := s.hostLinkDown l
    t.hlinkUp l = false ∧ t.getF (if l = 0 then F.LNT_LINK_RATE_A else F.LNT_LINK_RATE_B) = 0
      ∧ t.hlink l = { failed := (s.hlink l).failed } ∧ t.bit (hdrF .lnt 0x10 30 0) 3 = true
      ∧ (∀ k, k < 4 → t.bit F.LNT_LINK_MOD_UP (4 * l + k) = false) ∧ t.hlinkUp (1 - l) = s.hlinkUp (1 - l) ∧ t.mem = s.mem
      ∧ (s.hlinkUp (1 - l) = false → ∀ p, p < 32 → s.bit F.LNT_ATTACHED_MASK p = true → s.bit F.LNT_SILENT_MASK p = false →
          t.bit F.LNT_SILENT_MASK p = true ∧ t.getF F.LNT_SSTAT_PHASE p = 2 ∧ t.getF F.LNT_SSTAT_CAUSE p = 3
          ∧ t.getF F.LNT_SSTAT_MS_LEFT p = s.graceMs p)
      ∧ (s.hlinkUp (1 - l) = true → ∀ p, t.bit F.LNT_SILENT_MASK p = s.bit F.LNT_SILENT_MASK p))
  ∧ (∀ (s : State) m, s.Canonical → m < 8 → s.hlinkUp (m / 4) = true → nbit (s.hlink (m / 4)).failed (m % 4) = false →
      (s.hlink (m / 4)).failed < 16 →
    let l := m / 4
    let h := m % 4 / 2
    ∃ t, exec (.moduleFailure m) s = .next t ∧ t.bit F.LNT_LINK_MOD_UP (4 * l + 2 * h) = false
      ∧ t.bit F.LNT_LINK_MOD_UP (4 * l + 2 * h + 1) = false ∧ t.bit (hdrF .lnt 0x10 30 0) 2 = true
      ∧ (t.hlink l).failed = (s.hlink l).failed + 2 ^ (m % 4) ∧ t.mem = s.mem
      ∧ ((s.hlink l).failed / 4 ^ (1 - h) % 4 = 0 → t.hlinkUp l = true ∧ (t.hlink l).retraining = true)
      ∧ ((s.hlink l).failed / 4 ^ (1 - h) % 4 ≠ 0 → t.hlinkUp l = false ∧ t.bit (hdrF .lnt 0x10 30 0) 3 = true))
  ∧ (∀ (s : State) l, s.Canonical → l < 2 → s.hlinkUp l = false → s.unit .lnt 0 = 3 → (s.hlink l).failed < 16 →
    ((s.hlink l).failed % 4 = 0 ∨ (s.hlink l).failed / 4 = 0 →
      ∃ t, exec (.hostLinkReturn l) s = .next t ∧ t.hlinkUp l = true
        ∧ t.getF (if l = 0 then F.LNT_LINK_RATE_A else F.LNT_LINK_RATE_B) = 6
        ∧ t.bit F.LNT_LINK_MOD_UP (4 * l) = decide ((s.hlink l).failed % 4 = 0)
        ∧ t.bit F.LNT_LINK_MOD_UP (4 * l + 3) = decide ((s.hlink l).failed / 4 = 0)
        ∧ (t.hlink l).rxNext = 0 ∧ (t.hlink l).retraining = false ∧ t.mem = s.mem
        ∧ (t.hlink l).rq = (if s.credited then s.getF F.LNT_CREDIT_RQ else 0)
        ∧ (t.hlink l).pw = (if s.credited then s.getF F.LNT_CREDIT_PW else 0)
        ∧ (t.hlink l).data = (if s.credited then s.getF F.LNT_CREDIT_DATA else 0))
    ∧ ((s.hlink l).failed % 4 ≠ 0 → (s.hlink l).failed / 4 ≠ 0 → exec (.hostLinkReturn l) s = .next s))
  ∧ (∀ (s : State) src l, s.Canonical → src < 292 → s.intrLink = some l → s.flag F.LNT_IVEC_PENDING src = true →
    let u : State := { s with ln := { s.ln with holdoff := s.ln.holdoff.filter (· ≠ src) } }
    (s.flag F.LNT_IVEC_ENABLE src = true → s.flag F.LNT_IVEC_MASK src = false → (s.hlink l).toSend = [] →
        (s.hlink l).retraining = false → (s.hlink l).replay.length < 256 →
      ∃ t, exec (.intrHoldoffEnd src) s = .next t ∧ Out.intr (s.getF F.LNT_IVEC_VECTOR src) src ∈ t.out
        ∧ t.flag F.LNT_IVEC_PENDING src = false ∧ RegsKeep [regKey A.LNT_IVEC src 0] s t
        ∧ (src ∈ t.ln.holdoff ↔ s.getF F.LNT_IVEC_HOLD_US src ≠ 0))
    ∧ ((s.flag F.LNT_IVEC_ENABLE src = false ∨ s.flag F.LNT_IVEC_MASK src = true) → exec (.intrHoldoffEnd src) s = .next u))
  ∧ (∀ (s : State) req v src, s.Canonical → s.grants req A.LNT_IVEC → mayWrite req 0x32 = true →
      s.idx F.LNT_ISRC_SOURCE req = src → s.ln.holdoff.contains src = true ∨ s.intrLink = none →
    ∃ t, exec (.lntIvecWrite req v) s = .next t ∧ t.flag F.LNT_IVEC_ENABLE src = nbit v.toNat 31
      ∧ t.flag F.LNT_IVEC_MASK src = nbit v.toNat 30 ∧ t.flag F.LNT_IVEC_PENDING src = s.flag F.LNT_IVEC_PENDING src
      ∧ t.getF F.LNT_IVEC_HOLD_US src = nbits v.toNat 18 11 ∧ t.getF F.LNT_IVEC_VECTOR src = v.toNat % 2048
      ∧ RegsKeep [regKey A.LNT_IVEC src 0] s t ∧ t.out = s.out ++ [.regReply req 0 0] ∧ t.mem = s.mem)
  ∧ (∀ (s : State) agent addr v, s.dv.st ≠ .off → agent < 64 →
    (addr / 0x1000 ≠ 0x30 → addr ≠ A.LNT_RDB →
      exec (.sidebandRead agent addr) s = .next (s.emit (.sideband 0x0304 0))
      ∧ exec (.sidebandWrite agent addr v) s = .next (s.emit (.sideband 0x0304 0)))
    ∧ (addr / 0x1000 = 0x30 ∨ addr = A.LNT_RDB → ∀ c t,
      (s.regWrite (.host agent) addr 4 v.toNat = some (c, t) → exec (.sidebandWrite agent addr v) s = .next (t.emit (.sideband c 0)))
      ∧ (s.regWrite (.host agent) addr 4 v.toNat = none → exec (.sidebandWrite agent addr v) s = .next s)
      ∧ (∀ x, (s.dv.st = .standby ∨ s.dv.st = .ready ∨ s.dv.st = .warmReset) → s.regRead (.host agent) addr 4 = some (c, x, t) →
          exec (.sidebandRead agent addr) s = .next (t.emit (.sideband c x))))
    ∧ (addr / 0x1000 = 0x30 → s.dv.st = .boot ∨ s.dv.st = .bringup → s.deviceRight agent = true → addr % 4 = 0 →
        exec (.sidebandRead agent addr) s
          = .next ((s.takeAll (.host agent) [addr]).2.emit (.sideband 0 (s.takeAll (.host agent) [addr]).1))))

/-- Attaches, detaches, queries, silence, parking and expiry. Formalises R345 to R351, R353 and R354. Completes: attach,
detach, queryState, unknownMessage, heartbeat, heartbeatTimeout, ringFullSilence, silenceGraceEnd, retainExpiry. -/
def Obligations.HostsAttachAndFallSilent : Prop :=
  (∀ (s : State) c agent, (∀ ty, s.hostMsg c ty = none) → exec (.attach c agent) s = .next s ∧ exec (.detach c) s = .next s
      ∧ exec (.queryState c) s = .next s)
  ∧ (∀ (s : State) agent m, s.hostMsg 0 1 = some m → s.Canonical → s.ln.ahead = 0 →
    (fieldB m 16 2 = s.getF F.LNT_IFVER_MAJOR →
      ∃ t, exec (.attach 0 agent) s = .next t ∧ t.dv.st = (if s.serving0 then .ready else s.dv.st)
        ∧ t.getF F.LNT_ATTACH_DEV = 1 ∧ t.getF F.LNT_ATTACH_STATUS = 0 ∧ t.flag F.LNT_RSTAT_ATTACHED 0 = true
        ∧ t.ln.major = fieldB m 16 2 ∧ t.ln.minor = min (fieldB m 18 2) (s.getF F.LNT_IFVER_MINOR)
        ∧ RegsBut [A.LNT_ATTACH, A.LNT_RSTAT, A.LNT_IVEC] s t ∧ t.sv = s.sv ∧ t.qu = s.qu)
    ∧ (fieldB m 16 2 ≠ s.getF F.LNT_IFVER_MAJOR →
      ∃ t, exec (.attach 0 agent) s = .next t ∧ t.dv.st = (if s.serving0 then .standby else s.dv.st)
        ∧ t.getF F.LNT_ATTACH_DEV = 2 ∧ t.getF F.LNT_ATTACH_STATUS = 0x0601 ∧ t.bit (hdrF .lnt 0x10 30 0) 4 = true
        ∧ t.ln.major = s.ln.major ∧ t.sv = s.sv ∧ t.qu = s.qu))
  ∧ (∀ (s : State) p agent m, p < 32 → s.hostMsg (p + 1) 1 = some m → s.Canonical → smSorted s.ln.expiry = true →
    (s.attachBad p agent m = true → exec (.attach (p + 1) agent) s = .next (s.h2fAnswer (p + 1) m 0x0604 (s.attachPayload 0 0)))
    ∧ (s.dv.st = .standby ∨ s.partState p = 0 ∨ s.hasRight agent p .reg = false ∨ fieldB m 16 2 ≠ s.ln.major → s.attachBad p agent m = true)
    ∧ (s.attachBad p agent m = false → exec (.attach (p + 1) agent) s = .next (s.attachPart p m)
        ∧ ((∀ c ∈ s.qu.cmds, c.part ≠ p ∨ c.phase ≠ 1) →
          let t := s.attachPart p m
          t.bit F.LNT_ATTACHED_MASK p = true ∧ t.flag F.LNT_RSTAT_ATTACHED (p + 1) = true ∧ t.bit F.LNT_SILENT_MASK p = false
          ∧ t.bit F.LNT_PARKED_MASK p = false ∧ t.getF F.LNT_SSTAT_PHASE p = 1 ∧ t.getF F.LNT_SSTAT_CAUSE p = 0
          ∧ t.partState p = (if s.partState p = 4 then 2 else s.partState p)
          ∧ (∀ n, t.seq n = (if s.partState p = 4 then (s.unpark p).seq n else s.seq n))
          ∧ t.expiryOf p = [] ∧ t.qu.recs.length = s.qu.recs.length + (s.expiryOf p).length
          ∧ (∀ p', p' < 32 → p' ≠ p → t.bit F.LNT_ATTACHED_MASK p' = s.bit F.LNT_ATTACHED_MASK p' ∧ t.partState p' = s.partState p'))))
  ∧ (∀ (s : State) p n, smSorted s.sv.seqs = true →
      (s.unpark p).seq n = (if (s.seq n).part = p ∧ (s.seq n).st = 3 then { s.seq n with st := (s.seq n).parkedFrom, retainMs := 0 }
        else if (s.seq n).part = p ∧ (s.seq n).st = 4 ∧ (s.seq n).recFrom = 3 then
          { s.seq n with recFrom := (s.seq n).parkedFrom, retainMs := 0 }
        else s.seq n))
  ∧ (∀ (s : State) p m, p < 32 → s.hostMsg (p + 1) 2 = some m → s.Canonical →
    ∃ t, exec (.detach (p + 1)) s = .next t ∧ t.bit F.LNT_ATTACHED_MASK p = false ∧ t.flag F.LNT_RSTAT_ATTACHED (p + 1) = false
      ∧ (s.bit F.LNT_ATTACHED_MASK p = true → s.bit F.LNT_SILENT_MASK p = false → t.bit F.LNT_SILENT_MASK p = true
          ∧ t.getF F.LNT_SSTAT_CAUSE p = 2 ∧ (fieldB m 16 1 % 2 = 0 → t.getF F.LNT_SSTAT_PHASE p = 2
            ∧ t.getF F.LNT_SSTAT_MS_LEFT p = s.graceMs p ∧ t.partState p = s.partState p)
          ∧ (fieldB m 16 1 % 2 = 1 → s.partState p = 2 → t.partState p = 4 ∧ t.getF F.LNT_SSTAT_PHASE p = 3))
      ∧ (∀ p', p' < 32 → p' ≠ p → t.bit F.LNT_SILENT_MASK p' = s.bit F.LNT_SILENT_MASK p' ∧ t.partState p' = s.partState p'))
  ∧ (∀ (s : State) m, s.hostMsg 0 2 = some m → exec (.detach 0) s = .next s)
  ∧ (∀ (s : State) c m, s.hostMsg c 3 = some m →
      exec (.queryState c) s = .next (s.h2fAnswer c m 0 ((16, 1, s.dv.st.code) :: (if c = 0 then [] else
        [(17, 1, s.partState (c - 1)), (18, 1, s.getF F.LNT_SSTAT_PHASE (c - 1)), (20, 4, s.getF F.LNT_SSTAT_MS_LEFT (c - 1))]))))
  ∧ (∀ (s : State) c m, s.h2fPeek c = some m → s.servesChannel c = true →
      (fieldB m 0 2 = 2 → c = 0 → exec (.unknownMessage c) s = .next (s.h2fAnswer c m 0x0603 []))
      ∧ (fieldB m 0 2 ∉ [1, 2, 3, 0x11] → (c ≠ 0 ∨ fieldB m 0 2 ∉ [0x20, 0x21, 0x22, 0x23, 0x28, 0x29, 0x2A, 0x2B, 0x2C, 0x2D]) →
          exec (.unknownMessage c) s = .next (s.h2fAnswer c m 0x0603 []))
      ∧ (fieldB m 0 2 ∈ [1, 3, 0x11] → exec (.unknownMessage c) s = .next s))
  ∧ (∀ (s : State) c m st pay, s.Canonical → 4 ≤ s.getF F.LNT_F2H_SIZE_LOG2 c → s.getF F.LNT_F2H_SIZE_LOG2 c ≤ 12 → c ≠ 0 →
      smSorted s.ln.held = true → smGet (fun _ => []) s.ln.held c = [] → s.dutyServed 6 = true → fieldB m 2 1 % 2 = 1 →
      let k := s.getF F.LNT_F2H_SIZE_LOG2 c
      let b := s.f2hBase c
      let h := s.h2fBase c
      (s.rdN b 2 + 65536 - s.rdN (b + 64) 2) % 65536 < 2 ^ k → b + 128 + 64 * 2 ^ k ≤ h ∨ h + 128 ≤ b →
      b + 128 + 64 * 2 ^ k ≤ 2 ^ 44 → h + 128 ≤ 2 ^ 44 → s.pt.clearing = [] →
      s.anyBad b 8 = false → s.anyBad (h + 64) 8 = false →
      let t := s.h2fAnswer c m st pay
      t.okBytes (b + 128 + 64 * (s.rdN b 2 % 2 ^ k)) 64 = mkMsg (0x8000 + fieldB m 0 2) 2 (fieldB m 4 4) st pay
      ∧ t.rdN b 2 = (s.rdN b 2 + 1) % 65536 ∧ t.rdN (h + 64) 2 = (s.rdN (h + 64) 2 + 1) % 65536)
  ∧ (∀ (s : State) req p, p < 32 → s.grants req (A.LNT_HB + 4 * p) → mayWrite req (A.LNT_HB / 0x1000) = true →
      exec (.heartbeat req p) s = .next ((s.heartbeat p).replied req 0)
      ∧ (s.Canonical → s.bit F.LNT_ATTACHED_MASK p = true → s.getF F.LNT_SSTAT_PHASE p = 2 → (s.getF F.LNT_SSTAT_CAUSE p = 1 ∨ (s.getF F.LNT_SSTAT_CAUSE p = 3 ∧ s.intrLink ≠ none)) →
          (∀ c ∈ s.qu.cmds, c.part ≠ p ∨ c.phase ≠ 1) →
          (s.heartbeat p).bit F.LNT_SILENT_MASK p = false ∧ (s.heartbeat p).getF F.LNT_SSTAT_PHASE p = 1
          ∧ (s.heartbeat p).getF F.LNT_SSTAT_MS_LEFT p = 0)
      ∧ ((s.bit F.LNT_ATTACHED_MASK p = false ∨ s.getF F.LNT_SSTAT_PHASE p ≠ 2 ∨ s.getF F.LNT_SSTAT_CAUSE p = 2 ∨ s.getF F.LNT_SSTAT_CAUSE p = 4) → s.heartbeat p = s))
  ∧ (∀ (s : State) p ms, p < 32 → s.Canonical →
    (s.bit F.LNT_ATTACHED_MASK p = true → s.bit F.LNT_SILENT_MASK p = false → max 1 (s.getF F.LNT_HB_TMO_MS) ≤ ms →
      ∃ t, exec (.heartbeatTimeout p ms) s = .next t ∧ t.bit F.LNT_SILENT_MASK p = true ∧ t.getF F.LNT_SSTAT_PHASE p = 2
        ∧ t.getF F.LNT_SSTAT_CAUSE p = 1 ∧ t.getF F.LNT_SSTAT_MS_LEFT p = s.graceMs p ∧ t.bit (hdrF .lnt 0x10 30 0) 5 = true
        ∧ (∀ p', p' < 32 → p' ≠ p → t.bit F.LNT_SILENT_MASK p' = s.bit F.LNT_SILENT_MASK p') ∧ t.mem = s.mem ∧ t.sv = s.sv)
    ∧ (s.bit F.LNT_ATTACHED_MASK p = false ∨ ms < max 1 (s.getF F.LNT_HB_TMO_MS) → exec (.heartbeatTimeout p ms) s = .next s))
  ∧ (∀ (s : State) p r ms, p < 32 → r < 8 → s.Canonical →
    (s.ringFull p r = true → s.graceMs p ≤ ms → s.bit F.LNT_ATTACHED_MASK p = true → s.bit F.LNT_SILENT_MASK p = false →
      ∃ t, exec (.ringFullSilence p r ms) s = .next t ∧ t.bit F.LNT_SILENT_MASK p = true ∧ t.getF F.LNT_SSTAT_CAUSE p = 4
        ∧ (s.partState p = 2 → t.partState p = 4 ∧ t.getF F.LNT_SSTAT_PHASE p = 3) ∧ t.mem = s.mem)
    ∧ (s.ringFull p r = false → exec (.ringFullSilence p r ms) s = .next s))
  ∧ (∀ (s : State) p ms, p < 32 → s.Canonical → smSorted s.sv.seqs = true →
    (s.getF F.LNT_SSTAT_PHASE p = 2 → s.getF F.LNT_SSTAT_MS_LEFT p ≤ ms → s.partState p = 2 →
      ∃ t, exec (.silenceGraceEnd p ms) s = .next t ∧ t.partState p = 4 ∧ t.bit F.LNT_PARKED_MASK p = true
        ∧ t.getF F.LNT_SSTAT_PHASE p = 3 ∧ t.getF F.LNT_SSTAT_MS_LEFT p = s.retainS p * 1000
        ∧ (∀ n, (s.seq n).part = p → (s.seq n).st = 1 → t.seq n = { s.seq n with st := 3, parkedFrom := 1, retainMs := s.retainS p * 1000 })
        ∧ (∀ n, ((s.seq n).part ≠ p ∨ ((s.seq n).st ≠ 1 ∧ (s.seq n).st ≠ 4)) → t.seq n = s.seq n) ∧ t.mem = s.mem)
    ∧ (s.getF F.LNT_SSTAT_PHASE p ≠ 2 ∨ s.partState p ≠ 2 → exec (.silenceGraceEnd p ms) s = .next s))
  ∧ (∀ (s : State) p secs, p < 32 → s.Canonical → smSorted s.sv.seqs = true → smSorted s.ln.expiry = true →
    (s.partState p = 4 → s.retainS p ≤ secs →
      ∃ t, exec (.retainExpiry p secs) s = .next t ∧ t.partState p = 2 ∧ t.bit F.LNT_PARKED_MASK p = false
        ∧ t.bit (hdrF .lnt 0x10 30 0) 6 = true ∧ t.getF F.LNT_SSTAT_PHASE p = 4
        ∧ t.expiryOf p = s.expiryOf p ++ (s.seqsOf p).map (fun e => (e.1, e.2.gen, e.2.queue))
        ∧ (∀ n, (s.seq n).st ≠ 0 → (s.seq n).part = p → (t.seq n).st = 0)
        ∧ (∀ n, (s.seq n).part ≠ p → t.seq n = s.seq n))
    ∧ (s.partState p ≠ 4 ∨ secs < s.retainS p → exec (.retainExpiry p secs) s = .next s))

/-- Sweeps, the marks of Open faults, and block reloads. Formalises R390 to R393, R397 to R399 and R512 for reloads. That a
failed reload keeps its slot from serving until it succeeds is R512. Completes: scrubSweepStart, scrubVisit, scrubLate,
openFaultMark, scrubReload, reloadRetry, reloadDone. -/
def Obligations.ScrubFindsAndReloads : Prop :=
  (∀ (s : State) blk inst now,
    (s.scrubbed blk inst = true → s.sweepOf (blk * 0x10000 + inst) = none →
      ∃ t, exec (.scrubSweepStart blk inst now) s = .next t
        ∧ t.it = { s.it with sweeps := smPut s.it.sweeps (blk * 0x10000 + inst) (now / 1000000 + 1) }
        ∧ (s.Canonical → blk = Blk.stk.code → t.flag F.REG_SCRUB_CTL_SWEEPING = true) ∧ t.mem = s.mem ∧ t.synd = s.synd)
    ∧ (s.scrubbed blk inst = false ∨ s.sweepOf (blk * 0x10000 + inst) ≠ none → exec (.scrubSweepStart blk inst now) s = .next (s.at now)))
  ∧ (∀ (s : State) a now fault k, s.checkerOf (a / 8 * 8) = some k →
    (s.sweepOf k = none → exec (.scrubVisit a now fault) s = .next s)
    ∧ (s.sweepOf k ≠ none → a < 16 * stackBytes → s.scrubWaits (a / 8 * 8) = false → a / 8 * 8 % 2 ^ 26 ≠ 0 → a / 8 * 8 % 2 ^ 20 ≠ 2 ^ 20 - 8 → s.ecc a = .clean →
        exec (.scrubVisit a now 0#72) s = .next (s.at now)))
  ∧ (∀ (s : State) a now i j k, s.checkerOf (a / 8 * 8) = some k → s.sweepOf k ≠ none → s.Canonical → a < 16 * stackBytes →
      s.scrubWaits (a / 8 * 8) = false →
      a / 8 * 8 % 2 ^ 26 ≠ 0 → a / 8 * 8 % 2 ^ 20 ≠ 2 ^ 20 - 8 → s.ecc a = .clean → s.openWord (a / 8 * 8) = false → i < 72 → j < 72 → i ≠ j →
    (∃ t, exec (.scrubVisit a now (1#72 <<< i)) s = .next t ∧ t.ecc a = .clean ∧ (∀ x, t.byte x = s.byte x)
      ∧ t.getF F.REG_GUARD_CE_COUNT = min (2 ^ 32 - 1) (s.getF F.REG_GUARD_CE_COUNT + 1) ∧ RegsKeep [regKey A.REG_GUARD_CE 0 0] s t)
    ∧ (let u := s.flipBits a (1#72 <<< i ||| 1#72 <<< j)
      ((s.at now).flipBits a (1#72 <<< i ||| 1#72 <<< j)).ecc a = u.ecc a ∧ (u.ecc a = .uncorrectable ∨ u.ecc a = .poisoned)
      ∧ ∃ t, exec (.scrubVisit a now (1#72 <<< i ||| 1#72 <<< j)) s = .next t
        ∧ t.ecc a = (if s.isMutable (granule a) then .poisoned else u.ecc a)
        ∧ (u.ecc a = .uncorrectable → t.bit (hdrF .reg 0x10 30 0) 2 = true
            ∧ t.getF F.REG_GUARD_UE_COUNT = min (2 ^ 32 - 1) (s.getF F.REG_GUARD_UE_COUNT + 1))))
  ∧ (∀ (s : State) a now k start, s.Canonical → a % 8 = 0 → a + 8 = unitEnd a → a < 16 * stackBytes → s.checkerOf a = some k → s.sweepOf k = some start →
      s.scrubWaits a = false → s.ecc a = .clean → s.openWord a = false → smSorted s.it.sweeps = true →
    ∃ t, exec (.scrubVisit a now 0#72) s = .next t ∧ t.sweepOf k = none
      ∧ t.getF F.REG_SCRUB_SWEEPS_COUNT = (s.getF F.REG_SCRUB_SWEEPS_COUNT + 1) % 2 ^ 32 ∧ t.mem = s.mem ∧ t.synd = s.synd)
  ∧ (∀ (s : State) blk inst now start, s.Canonical → s.sweepOf (blk * 0x10000 + inst) = some start →
    (9 * s.getF F.REG_SCRUB_CTL_PERIOD_MS ≤ 10 * (now / 1000000 - start) →
      ∃ t, exec (.scrubLate blk inst now) s = .next t ∧ t.bit (hdrF .reg 0x10 30 0) 5 = true ∧ t.it = s.it ∧ t.mem = s.mem)
    ∧ (10 * (now / 1000000 - start) < 9 * s.getF F.REG_SCRUB_CTL_PERIOD_MS → exec (.scrubLate blk inst now) s = .next s))
  ∧ (∀ (s : State) k f, s.Canonical → smSorted s.sv.seqs = true → s.it.faults[k]? = some f → s.isHashed (granule f.addr) = false →
      let g := granule f.addr
      let readers := smGet (fun _ => []) s.it.cur g ++ smGet (fun _ => []) s.it.prev g
    ∃ t, exec (.openFaultMark k) s = .next t ∧ t.it.faults = s.it.faults.eraseIdx k
      ∧ (∀ q, q ∈ readers → q < 8192 → (s.seq q).st ≠ 0 → (t.seq q).suspect = true ∧ (t.seq q).status = 0x0402
          ∧ (∃ r ∈ t.qu.recs, r.flags = 4 ∧ r.status = 0x0402 ∧ r.part = (s.seq q).part ∧ r.result = (s.seq q).gen * 2 ^ 32 + q)
          ∧ ((s.seq q).st ≠ 5 → (t.seq q).damaged = true
              ∧ ((s.seq q).damaged = false → (s.seq q).st ≠ 4 → (t.seq q).p0 = s.pageP0 (s.seq q) g)
              ∧ (s.live (s.seq q).part = false → (s.seq q).part < 32 → s.partState (s.seq q).part = 2 → t.partState (s.seq q).part = 5)))
      ∧ (∀ q, q ∉ readers → t.seq q = s.seq q)
      ∧ (8192 ∈ readers → t.bit (hdrF .reg 0x10 30 0) 7 = true))
  ∧ (∀ (s : State) k f, s.Canonical → smSorted s.sv.seqs = true → s.it.faults[k]? = some f → s.isHashed (granule f.addr) = true →
      let m := s.hashedSlot f.addr
    ((∃ q, (s.seq q).st ≠ 0 ∧ (s.seq q).mslot = m) →
      ∃ t, exec (.openFaultMark k) s = .next t ∧ t.it.faults = s.it.faults.eraseIdx k
        ∧ (∀ q, (s.seq q).st ≠ 0 → (s.seq q).mslot = m → f.since < (s.seq q).lastAdmit → (t.seq q).suspect = true ∧ (t.seq q).status = 0x0402
            ∧ ((s.seq q).st ≠ 5 → (s.seq q).damaged = false → (s.seq q).st ≠ 4 → (t.seq q).p0 = (s.seq q).attnLo))
        ∧ (∀ q, ((s.seq q).mslot ≠ m ∨ (s.seq q).lastAdmit ≤ f.since) → t.seq q = s.seq q))
    ∧ ((∀ q, (s.seq q).st ≠ 0 → (s.seq q).mslot ≠ m) →
      ∃ t, exec (.openFaultMark k) s = .next t ∧ t.it.faults = s.it.faults.eraseIdx k
        ∧ (∀ q, (s.seq q).st ≠ 0 → t.seq q = (if (s.seq q).dslot = m then { s.seq q with dlen := 0 } else s.seq q))))
  ∧ (∀ (s : State) k, s.it.faults.length ≤ k → exec (.openFaultMark k) s = .next s)
  ∧ (∀ (s : State) a, s.Canonical →
    ((a, 0) ∈ s.it.reloads → s.flag F.REG_RELOAD_STAT_BUSY = false → s.stackServes (a / stackBytes) = true → s.footingWaits = false →
      ∃ t, exec (.scrubReload a) s = .next t ∧ (a, 2) ∈ t.it.reloads ∧ t.flag F.REG_RELOAD_STAT_BUSY = true
        ∧ t.getF F.REG_RELOAD_STAT_MSLOT = s.hashedSlot a ∧ (∀ e ∈ s.it.reloads, e.1 ≠ a → e ∈ t.it.reloads)
        ∧ t = { s with regs := t.regs, it := t.it, ftg := { s.ftg with keyReg := s.imageKey (s.mslot (s.hashedSlot a)).image } })
    ∧ ((a, 0) ∉ s.it.reloads ∨ s.flag F.REG_RELOAD_STAT_BUSY = true ∨ s.footingWaits = true → exec (.scrubReload a) s = .next s)
    ∧ ((a, 1) ∈ s.it.reloads → exec (.reloadRetry a) s = .next (s.setReload a 0) ∧ (a, 0) ∈ (s.setReload a 0).it.reloads)
    ∧ ((a, 1) ∉ s.it.reloads → exec (.reloadRetry a) s = .next s))
  ∧ (∀ (s : State) a, (a, 2) ∈ s.it.reloads → s.Canonical → smSorted s.sv.mslots = true → a % 2 ^ 20 = 0 → a + 2 ^ 20 ≤ 2 ^ 44 →
      let m := s.hashedSlot a
    (∀ src, smSorted s.ftg.data = true → (s.image (s.mslot m).image).badDie = false → s.blockSource a = some src → src + 2 ^ 20 ≤ 2 ^ 44 →
      ∃ t, exec (.reloadDone a true []) s = .next t ∧ (∀ j, j < 2 ^ 20 → t.okByte (a + j) = s.frx (s.mslot m).image (src + j))
        ∧ t.anyBad a (2 ^ 20) = false ∧ ReadsOutside a (2 ^ 20) s t ∧ (∀ e ∈ t.it.reloads, e.1 ≠ a)
        ∧ t.flag F.REG_RELOAD_STAT_BUSY = false ∧ t.flag F.REG_RELOAD_STAT_FAIL = false
        ∧ t.getF F.REG_RELOADS_COUNT = (s.getF F.REG_RELOADS_COUNT + 1) % 2 ^ 32
        ∧ ((s.mslot m).st = 1 → (∀ e ∈ s.slotReloads m, e.1 = a) → (t.mslot m).st = 2)
        ∧ (∀ n, n ≠ m → t.mslot n = s.mslot n))
    ∧ ((∀ c ∈ s.qu.cmds, c.part ≠ (s.mslot m).part ∨ c.phase ≠ 1) →
      ∃ t, exec (.reloadDone a false []) s = .next t ∧ (a, 1) ∈ t.it.reloads ∧ t.flag F.REG_RELOAD_STAT_BUSY = false
        ∧ t.flag F.REG_RELOAD_STAT_FAIL = true ∧ t.bit (hdrF .reg 0x10 30 0) 4 = true ∧ (t.mslot m).st = 1
        ∧ (∀ n, n ≠ m → t.mslot n = s.mslot n)))
  ∧ (∀ (s : State) a ok ue, (a, 2) ∉ s.it.reloads → exec (.reloadDone a ok ue) s = .next s)

/-- Recomputation, release of lost sequences, lost stacks and quarantined units. Formalises R400, R401, R509, R510, R512 and
R515 to R517. Completes: recompute, recomputeEnd, liveRelease, recoveryComplete, stackLost, unitAudit, reconcile. -/
def Obligations.DamageIsRecovered : Prop :=
  (∀ (s : State) q, s.recomputable q = false → exec (.recompute q) s = .next s)
  ∧ (∀ (s : State) q, smSorted s.sv.seqs = true → s.Canonical → s.recomputable q = true →
    ((s.mslot (s.seq q).mslot).st = 2 → s.reloading (s.seq q).mslot = true →
      ∃ t, exec (.recompute q) s = .next t ∧ (t.seq q).st = 4
        ∧ t.seq q = (if (s.seq q).st = 4 then s.seq q else { s.seq q with st := 4, recFrom := (s.seq q).st }) ∧ ∀ n, n ≠ q → t.seq n = s.seq n)
    ∧ ((s.mslot (s.seq q).mslot).st ≠ 2 → ((s.seq q).rebuilding = false ∨ (s.seq q).restart = true) →
      ∃ t, exec (.recompute q) s = .next t ∧ (t.seq q).st = 2 ∧ (t.seq q).suspect = true ∧ (t.seq q).damaged = false
        ∧ (t.seq q).status = 0x0403 ∧ t.bit (hdrF .reg 0x10 30 0) 6 = true
        ∧ t.getF F.REG_RECOMPUTES_FAILED = min 65535 (s.getF F.REG_RECOMPUTES_FAILED + 1)
        ∧ (∃ r, t.qu.recs = s.qu.recs ++ [r] ∧ r.flags = 4 ∧ r.status = 0x0403 ∧ r.result = (s.seq q).gen * 2 ^ 32 + q)
        ∧ (∀ n, n ≠ q → t.seq n = s.seq n) ∧ t.mem = s.mem)
    ∧ ((s.mslot (s.seq q).mslot).st = 2 → s.reloading (s.seq q).mslot = false → ((s.seq q).rebuilding = false ∨ (s.seq q).restart = true) →
        (s.seq q).clen ≤ (s.seq q).p0 →
      ∃ t, exec (.recompute q) s = .next t ∧ (t.seq q).st = (if (s.seq q).st = 4 then (s.seq q).recFrom else (s.seq q).st)
        ∧ (t.seq q).suspect = false ∧ (t.seq q).damaged = false ∧ (t.seq q).clen = (s.seq q).clen ∧ (t.seq q).hlen = (s.seq q).hlen
        ∧ t.getF F.REG_RECOMPUTES_DONE = min 65535 (s.getF F.REG_RECOMPUTES_DONE + 1)
        ∧ (∃ r, t.qu.recs = s.qu.recs ++ [r] ∧ r.flags = 4 ∧ r.status = 0 ∧ r.result = (s.seq q).gen * 2 ^ 32 + q)
        ∧ (∀ n, n ≠ q → t.seq n = s.seq n) ∧ t.mem = s.mem)
    ∧ (let e := s.seq q
        let n := min (256 * 2 ^ e.chunk) (e.clen - e.recAt)
        let w : SWork := { seq := q, c := e.recAt, given := n, turn := true, dlen := e.dlen, cls := 2, slot := (s.classGrant e.part 2).slot?
                           again := true }
        let a := s.admitWorks e.part e.mslot [w]
        let room := a.1.takeWork e.part (a.1.stepSpace (a.2.map fun z => z.work))
        e.part < 32 → (s.mslot e.mslot).st = 2 → s.reloading e.mslot = false → e.rebuilding = true → e.restart = false →
        (a.2.map (fun z => z.work.left) = [false] →
          (room.isSome = true →
            ∃ t, exec (.recompute q) s = .next t ∧ (t.seq q).lastAdmit = s.stepCount + 1 ∧ (t.seq q).clen = e.clen ∧ (t.seq q).hlen = e.hlen
              ∧ (∃ x ∈ t.sv.steps, x.num = s.stepCount + 1 ∧ x.kind = 2 ∧ x.part = e.part ∧ x.mslot = e.mslot
                  ∧ x.works.map (fun y => (y.seq, y.c, y.given, y.turn)) = [(q, e.recAt, n, true)])
              ∧ (∀ m, m ≠ q → t.seq m = s.seq m))
          ∧ (room = none → exec (.recompute q) s = .next (s.toRecovering q)))
        ∧ (a.2.map (fun z => z.work.left) = [true] →
            ∃ t, exec (.recompute q) s = .next t ∧ (t.seq q).st = 2 ∧ (t.seq q).suspect = true ∧ (t.seq q).damaged = false
              ∧ (t.seq q).status = 0x0403 ∧ t.sv.steps = s.sv.steps ∧ ∀ m, m ≠ q → t.seq m = s.seq m)))
  ∧ (∀ (s : State) q x w, smSorted s.sv.seqs = true → s.Canonical →
      (s.sv.steps.find? fun y => y.kind = 2 && y.works.any fun v => v.seq = q) = some x →
      x.works = [w] → w.seq = q →
    (s.stepEnded x = false → exec (.recomputeEnd q) s = .next (s.builderGo x.part))
    ∧ (s.stepEnded x = true → s.bk.merge = [] → s.stepOf x.num = some x →
      let e := s.seq q
    (e.restart = true →
      ∃ t, exec (.recomputeEnd q) s = .next t ∧ t.seq q = { e with rebuilding := false, restart := false }
        ∧ (∀ y ∈ t.sv.steps, y.num ≠ x.num) ∧ ∀ n, n ≠ q → t.seq n = s.seq n)
    ∧ (e.restart = false → w.status ≠ 0 →
      ∃ t, exec (.recomputeEnd q) s = .next t ∧ (t.seq q).st = 2 ∧ (t.seq q).suspect = true ∧ (t.seq q).status = 0x0403
        ∧ (∀ y ∈ t.sv.steps, y.num ≠ x.num) ∧ ∀ n, n ≠ q → t.seq n = s.seq n)
    ∧ (e.restart = false → w.status = 0 → e.clen ≤ e.recAt + w.given →
      ∃ t, exec (.recomputeEnd q) s = .next t ∧ t.seq q = { e with st := e.recFrom, suspect := false, damaged := false, rebuilding := false, restart := false }
        ∧ (∃ r, t.qu.recs = s.qu.recs ++ [r] ∧ r.flags = 4 ∧ r.status = 0 ∧ r.result = e.gen * 2 ^ 32 + q)
        ∧ (∀ y ∈ t.sv.steps, y.num ≠ x.num) ∧ ∀ n, n ≠ q → t.seq n = s.seq n)
    ∧ (e.restart = false → w.status = 0 → e.recAt + w.given < e.clen →
      ∃ t, exec (.recomputeEnd q) s = .next t ∧ t.seq q = { e with recAt := e.recAt + w.given } ∧ t.qu.recs = s.qu.recs
        ∧ (∀ y ∈ t.sv.steps, y.num ≠ x.num) ∧ ∀ n, n ≠ q → t.seq n = s.seq n)))
  ∧ (∀ (s : State) q, smSorted s.sv.seqs = true →
    ((s.seq q).st ≠ 0 → (s.seq q).damaged = true → s.live (s.seq q).part = true → s.inStep q = false →
      ∃ t r, exec (.liveRelease q) s = .next t ∧ (t.seq q).st = 0 ∧ (∀ n, n ≠ q → t.seq n = s.seq n)
        ∧ t.qu.recs = s.qu.recs ++ [r] ∧ r.flags = 4 ∧ r.status = 0x0502 ∧ r.result = (s.seq q).gen * 2 ^ 32 + q)
    ∧ ((s.seq q).damaged = false ∨ s.live (s.seq q).part = false ∨ s.inStep q = true → exec (.liveRelease q) s = .next s))
  ∧ (∀ (s : State) p, p < 32 → s.Canonical →
    (s.partState p = 5 → (∀ e ∈ s.sv.seqs, e.2.part = p → e.2.st ≠ 4 ∧ (e.2.damaged = true → e.2.st = 5 ∨ e.2.st = 0)) →
        (∀ c ∈ s.qu.cmds, c.part ≠ p ∨ c.phase ≠ 1) →
      ∃ t, exec (.recoveryComplete p) s = .next t ∧ t.partState p = 2 ∧ RegsKeep [regKey A.PRT_STATE p 0] s t ∧ t = { s with regs := t.regs })
    ∧ ((s.partState p ≠ 5 ∨ ∃ e ∈ s.sv.seqs, e.2.part = p ∧ e.2.st = 4) → exec (.recoveryComplete p) s = .next s))
  ∧ (∀ (s : State) st, s.Canonical → smSorted s.sv.seqs = true → smSorted s.sv.mslots = true → s.present .stk st = true →
      s.stackServes st = true → (∀ c ∈ s.qu.cmds, c.phase ≠ 1) →
    ∃ t, exec (.stackLost st) s = .next t ∧ t.unit .stk st = 1
      ∧ (∀ g ∈ s.hashedIn st, (t.mslot (nbits (s.region g) 52 47)).st = 1
          ∧ ∀ b, b < 64 → ∃ k, (g * 2 ^ 26 + b * 2 ^ 20, k) ∈ t.it.reloads)
      ∧ (∀ m, (∀ g ∈ s.hashedIn st, nbits (s.region g) 52 47 ≠ m) → t.mslot m = s.mslot m)
      ∧ (∀ q p0, (s.seq q).st ≠ 0 → (s.seq q).st ≠ 5 → s.sv.steps = [] → s.sv.walks = [] → s.lostFrom (s.seq q) st = some p0 →
          (t.seq q).damaged = true ∧ ((s.seq q).damaged = false → (s.seq q).st ≠ 4 → (t.seq q).p0 = p0))
      ∧ (∀ e ∈ t.bk.runs, e.1 / 1024 ≠ st) ∧ (∀ e ∈ t.bk.work, e.1 / 1024 ≠ st))
  ∧ (∀ (s : State) st, s.stackServes st = false → exec (.stackLost st) s = .next s)
  ∧ (∀ (s : State) b i, s.Canonical → i < 0x4000 → b ∈ [Blk.brk, .hod, .yrd, .stk, .qlk] → s.dutyServed 0 = true →
    (s.present b i = true → 2 ≤ s.unit b i → s.unit b i ≤ 4 →
      exec (.unitAudit b.code i false) s = .next (s.quarantine b i) ∧ (s.quarantine b i).unit b i = 5)
    ∧ exec (.unitAudit b.code i true) s = .next s
    ∧ (s.unit b i = 5 →
      (∀ self reset, ∃ t, exec (.reconcile b.code i true self reset) s = .next t ∧ t.unit b i = (if s.quiesced b i then 4 else 3)
        ∧ t.sv = s.sv ∧ t.qu = s.qu)
      ∧ (∀ reset, ∃ t, exec (.reconcile b.code i false true reset) s = .next t ∧ t.unit b i = (if s.quiesced b i then 4 else 3)
        ∧ t.sv = s.sv ∧ t.qu = s.qu)
      ∧ (s.resetFree b i = false → ∀ reset, exec (.reconcile b.code i false false reset) s = .next s)
      ∧ (s.resetFree b i = true → ∃ t, exec (.reconcile b.code i false false false) s = .next t ∧ t.unit b i = 1)
      ∧ (s.resetFree b i = true → exec (.reconcile b.code i false false true) s
          = .next ((((s.resetUnit b i).setUnit b i (if (s.resetUnit b i).quiesced b i then 4 else 3))).msgQuarantine b 1 i 0 3 0 0)))
    ∧ (s.unit b i ≠ 5 → ∀ x y z, exec (.reconcile b.code i x y z) s = .next s))

/-- Boot, bring-up, the fill, the release and the warm and partition resets. Formalises R439 to R441, R444 to R447, R483,
R519, R271 and R403; the measurements of R456 aside. Completes: keystoneBoot, bringup, fillStart, releaseTimeout,
startupRelease, warmReset, warmResetDrainEnd, partitionReset. -/
def Obligations.StartsAndRestarts : Prop :=
  (∀ (s : State) f i st m id passing, (s.dv.st ≠ .boot ∨ s.pw.pwrState ≠ 2 ∨ s.pw.coldResetN = false) →
      exec (.keystoneBoot f i st m id passing) s = .next s)
  ∧ (∀ (s : State) fusesOk identityOk selfTestOk mountOk id passing, s.dv.st = .boot → s.pw.pwrState = 2 → s.pw.coldResetN = true → s.Canonical →
      let idOk := decide (s.dv.identity ≠ []) || identityOk
      let missing := (List.range 4).any fun c => (s.bootImage c passing).isNone
      let k := if fusesOk = false then 1 else if idOk = false then 2 else if selfTestOk = false then 3 else if mountOk = false then 4
        else if missing then 5 else 0
    ∃ t, exec (.keystoneBoot fusesOk identityOk selfTestOk mountOk id passing) s = .next t ∧ t.mem = s.mem ∧ t.ftg = s.ftg
      ∧ (k ≠ 0 → t.dv.st = .failed ∧ t.dv.failStep = k ∧ t.getF F.KST_STATE_STATE = 2 ∧ t.getF F.KST_STATE_FAIL_STEP = k
          ∧ t.dv.romRecovery = decide (k = 5))
      ∧ (k = 4 → t.getF F.FTG_STATE_STORE = 4)
      ∧ (k = 5 → t.hlinkUp 0 = true ∧ t.hlinkUp 1 = true ∧ (t.hlink 0).rq = s.getF F.LNT_CREDIT_RQ ∧ (t.hlink 1).pw = s.getF F.LNT_CREDIT_PW)
      ∧ (k = 0 → t.dv.st = .bringup ∧ t.getF F.KST_STATE_STATE = 1 ∧ t.unit .trw 0 = 3
          ∧ t.dv.identity = (if s.dv.identity ≠ [] then s.dv.identity else sliceB id 0 32)
          ∧ ∀ c n, c < 4 → s.bootImage c passing = some n →
              t.getF (F.KST_RUNVER_VERSION.nth c) = s.fwVersion n % 2 ^ 32 ∧ smGet (fun _ => 64) t.ks.runImage c = n))
  ∧ (∀ (s : State) c passing n, s.bootImage c passing = some n →
      n ∈ s.fwImages c ∧ n ∈ passing ∧ s.arb c ≤ s.fwSecVer n
      ∧ ∀ m, m ∈ s.fwImages c → m ∈ passing → s.arb c ≤ s.fwSecVer m → s.fwVersion m ≤ s.fwVersion n)
  ∧ (∀ (s : State) fs fb fl fp fq enc, s.Canonical →
    (s.dv.st = .bringup → s.unit .trw 1 = 1 → s.bm = {} →
      let pass := (List.range 50).filter fun n => !fl.contains n && !fp.contains n
      ∃ t, exec (.bringup fs fb fl fp fq enc) s = .next t
        ∧ t.dv.st = (if pass.length < 48 ∨ enc = false then .failed else .bringup)
        ∧ (pass.length < 48 → Out.console 1 ∈ t.out) ∧ (enc = false → Out.console 2 ∈ t.out)
        ∧ (∀ c, 1 ≤ c → c ≤ 7 → t.unit .trw c = 3) ∧ t.getF F.TRW_CORE_STATE_PHASE 7 = 6
        ∧ (∀ st, st < 16 → s.present .stk st = true → st ∈ fs → t.getF F.STK_TRAIN_PHASE st = 5 ∧ t.unit .stk st = 1 ∧ st ∈ t.dv.stacksDone)
        ∧ (∀ st, st < 16 → s.present .stk st = true → st ∉ fs → s.flag F.STK_TRAIN_START st = false →
            t.getF F.STK_TRAIN_PHASE st = 1 ∧ t.unit .stk st = 2)
        ∧ (∀ (l n : Nat), pass[l]? = some n → l < 48 → smGet (fun l => l) t.yd.slabOf l = n)
        ∧ (∀ (d l n : Nat), d < (if s.dv.gradeC then 6 else 8) → l < 1280 → (s.passingBricks fb d)[l]? = some n →
            t.physOf (1280 * d + l) = some (1344 * d + n))
        ∧ (∀ d l, d < (if s.dv.gradeC then 6 else 8) → l < 1280 → (s.passingBricks fb d).length ≤ l → t.physOf (1280 * d + l) = none)
        ∧ t.lk.deadQuoins = fq ∧ t.mem = s.mem)
    ∧ (s.dv.st ≠ .bringup ∨ s.unit .trw 1 ≠ 1 → exec (.bringup fs fb fl fp fq enc) s = .next s))
  ∧ (∀ (s : State),
    (s.dv.st = .bringup → s.unit .trw 1 ≠ 1 → s.stacksSettled = true →
      exec .fillStart s = .next { s with dv := { s.dv with fillRunning := true } })
    ∧ (s.dv.st ≠ .bringup ∨ s.stacksSettled = false → exec .fillStart s = .next s)
    ∧ ∀ ms, exec (.releaseTimeout ms) s = .next (if s.dv.st = .bringup ∧ 2000 ≤ ms then
        { s with dv := { s.dv with st := .failed }, out := s.out ++ [.console 3] } else s))
  ∧ (∀ (s : State) h2f f2h exch lh lf, placementOk h2f f2h exch lh lf = false → exec (.startupRelease h2f f2h exch lh lf) s = .next s)
  ∧ (∀ (s : State) h2f f2h exch lh lf, placementOk h2f f2h exch lh lf = true → s.Canonical →
    ((s.dv.st = .bringup ∨ s.dv.st = .warmReset) → s.dv.fillRunning = true →
      ∃ t, exec (.startupRelease h2f f2h exch lh lf) s = .next t ∧ t.dv.st = .standby ∧ t.dv.fillRunning = false
        ∧ (∀ a, (a < f2h + 4 ∨ f2h + 8 ≤ a) → (a < h2f + 68 ∨ h2f + 72 ≤ a) → t.okByte a = 0#8)
        ∧ t.rdN (f2h + 4) 4 = 5 ∧ t.rdN (h2f + 68) 4 = 5 ∧ t.getF F.LNT_RSTAT_FWFLAGS = 5
        ∧ (∀ st, st < 16 → s.present .stk st = true → s.getF F.STK_TRAIN_PHASE st = 3 → t.getF F.STK_TRAIN_PHASE st = 4 ∧ t.unit .stk st = 3)
        ∧ (∀ n ∈ s.servingBricks, t.unit .brk n = 3) ∧ (∀ h, h < 64 → t.unit .hod h = 3) ∧ (∀ p, p < 32 → t.unit .prt p = 3 ∧ t.unit .cyt p = 3)
        ∧ t.unit .lnt 0 = 3 ∧ t.unit .seq 0 = 3 ∧ t.flag F.SEQ_CTRL_ENABLE = true ∧ t.flag (hdrF .seq 0x08 31 31) = false
        ∧ (∀ page ∈ [0, 1, 2, 3, 4, 5, 0x20], t.getF ⟨page * 0x1000 + 0x1C, 1, 0⟩ = 3)
        ∧ t.getF F.LNT_IFVER_MAJOR = s.fwInterface.1 ∧ t.getF F.LNT_IFVER_MINOR = s.fwInterface.2
        ∧ t.h2fBase 0 = h2f ∧ t.f2hBase 0 = f2h ∧ t.ks.exchBase = exch ∧ t.getF F.LNT_H2F_SIZE_LOG2 = lh ∧ t.getF F.LNT_F2H_SIZE_LOG2 = lf
        ∧ (∀ l, l < 2 → s.hlinkUp l = true → (t.hlink l).rq = s.getF F.LNT_CREDIT_RQ ∧ (t.hlink l).data = s.getF F.LNT_CREDIT_DATA))
    ∧ (s.dv.st = .failed → s.unit .trw 0 ≠ 1 → s.unit .lnt 0 = 3 → s.dv.releaseHeld = false →
      ∃ t, exec (.startupRelease h2f f2h exch lh lf) s = .next t ∧ t.dv.st = .failed ∧ t.dv.releaseHeld = true
        ∧ (∀ n, n < 10752 → t.unit .brk n = s.unit .brk n) ∧ (∀ h, h < 64 → t.unit .hod h = s.unit .hod h)
        ∧ t.flag F.SEQ_CTRL_ENABLE = s.flag F.SEQ_CTRL_ENABLE ∧ t.getF F.LNT_RSTAT_FWFLAGS = 5 ∧ t.ks.exchBase = exch))
  ∧ (∀ (s : State) req, s.grants req 0x140008 → s.Canonical → s.mayWarmReset req = true → mayWrite req 0x140 = true →
    ((s.dv.st = .standby ∨ s.dv.st = .ready) →
      ∃ t, exec (.warmReset req) s = .next t ∧ t.dv.st = .warmReset ∧ t.dv.draining = true ∧ t.dv.warmResets = s.dv.warmResets + 1
        ∧ (∀ c ∈ t.qu.cmds, 32 ≤ c.part) ∧ (∀ x ∈ t.sv.steps, 32 ≤ x.part) ∧ (∀ w ∈ t.sv.walks, 32 ≤ w.part)
        ∧ t.flag (hdrF .seq 0x08 31 31) = true)
    ∧ (s.dv.st ≠ .standby → s.dv.st ≠ .ready → ∃ t, exec (.warmReset req) s = .next t ∧ t.dv = s.dv ∧ t.qu = s.qu ∧ t.sv = s.sv ∧ t.mem = s.mem))
  ∧ (∀ (s : State) ms, s.dv.st = .warmReset → s.dv.draining = true → ms ≤ 10 → s.Canonical →
      (∀ l, (s.qlink l).sent = [] ∧ (s.qlink l).waiting = []) → s.lk.held = [] → s.lk.unpaid = [] → s.bk.tickets = [] → s.yd.waiting = [] →
    ∃ t, exec (.warmResetDrainEnd ms) s = .next t ∧ t.mem = [] ∧ t.synd = [] ∧ t.sv = {} ∧ t.pt = {} ∧ t.it = {} ∧ t.qu.cmds = [] ∧ t.qu.recs = []
      ∧ t.dv = { s.dv with draining := false, fillRunning := true }
      ∧ (∀ k, warmCleared (keyAddr k) = true → smGet regDefault t.regs k = regDefault k)
      ∧ (∀ k, warmCleared (keyAddr k) = false → keyAddr k ≠ F.REG_SCRUB_CTL_SWEEPING.addr → smGet regDefault t.regs k = smGet regDefault s.regs k)
      ∧ t.bm = s.bm ∧ t.ftg = { s.ftg with loads := [], keyReg := [] } ∧ t.pw = s.pw ∧ t.kl = s.kl ∧ t.yd.slabOf = s.yd.slabOf ∧ t.out = s.out)
  ∧ (∀ (s : State) ms, (s.dv.st ≠ .warmReset ∨ s.dv.draining = false ∨ 10 < ms) → exec (.warmResetDrainEnd ms) s = .next s)
  ∧ (∀ (s : State) req p, s.grants req 0x150008 → s.Canonical → mayWrite req 0x150 = true → s.hdrInst .prt 0x150 req = some p → p < 32 →
      s.dv.st ≠ .warmReset → smSorted s.sv.seqs = true → smSorted s.sv.mslots = true →
    (s.partState p ≠ 0 →
      ∃ t, exec (.partitionReset req) s = .next t ∧ t.partState p = 1
        ∧ (∀ c ∈ t.qu.cmds, c.part ≠ p) ∧ (∀ r ∈ t.qu.recs, r.part ≠ p) ∧ (∀ x ∈ t.sv.steps, x.part ≠ p)
        ∧ (∀ n, (s.seq n).part = p → (t.seq n).st = 0) ∧ (∀ n, (s.seq n).part ≠ p → t.seq n = s.seq n)
        ∧ (∀ m, (s.mslot m).part = p → (t.mslot m).st = 0) ∧ (∀ m, (s.mslot m).part ≠ p → t.mslot m = s.mslot m)
        ∧ (∀ q, q < 8 → t.flag F.PRT_QCTRL_ENABLE p q = false ∧ t.getF F.PRT_QADMIT_INDEX p q = s.getF F.PRT_QHEAD_INDEX p q
            ∧ ∀ r, r < 256 → t.param p q r = 0)
        ∧ (∀ b, b < 24576 → s.blockKind b = 2 → s.blockOwner b = some p → ∀ j, j < 65536 → t.okByte (yardBase + b * 65536 + j) = 0#8)
        ∧ (∀ p', p' < 32 → p' ≠ p → t.partState p' = s.partState p'))
    ∧ (s.partState p = 0 → ∃ t, exec (.partitionReset req) s = .next t ∧ t.partState p = 0 ∧ t.qu = s.qu ∧ t.sv = s.sv ∧ t.mem = s.mem))

/-- Certificates, reports, owner keys, grants, the peer policy and debug. Formalises R454, R458 to R462, R467, R468, R470 and
R471; the signature check is the outcome of the command (log entry on Keystone). Completes: ksCerts, ksAttest, ksBind,
ksPeer, ksDebug, grantHostRights, grantImport, grantLock. -/
def Obligations.KeystoneServes : Prop :=
  (∀ (s : State) sig sg, s.h2fPeek 0 = none ∨ s.dutyServed 5 = false ∨ s.serving0 = false ∨ s.keystonePaused = true →
      exec .ksCerts s = .next s ∧ exec (.ksAttest sig) s = .next s ∧ exec .ksBind s = .next s ∧ exec .ksPeer s = .next s ∧ exec (.ksDebug sg) s = .next s
      ∧ exec (.grantHostRights sg) s = .next s ∧ exec (.grantImport sg) s = .next s ∧ exec (.grantLock sg) s = .next s)
  ∧ (∀ (s : State) m k, (4 ≤ k ∨ s.slotBusy k = true) →
      (s.ksAt 0x28 m k → exec .ksCerts s = .next (s.ksReply m 0x0102 [])) ∧ (s.ksAt 0x2A m k → exec .ksBind s = .next (s.ksReply m 0x0102 []))
      ∧ (s.ksAt 0x2C m k → exec .ksPeer s = .next (s.ksReply m 0x0102 [])))
  ∧ (∀ (s : State) m status pay, s.Canonical → status < 65536 →
      let t := s.ksReply m status pay
      t.getF F.KST_SVC_STAT_MTYPE = fieldB m 0 2 % 128 ∧ t.getF F.KST_SVC_STAT_STATUS = status ∧ t.flag F.KST_SVC_STAT_BUSY = false
      ∧ (∃ r, (fieldB m 16 1, r) ∈ t.ks.slotsBusy) ∧ RegsBut [A.KST_SVC_STAT, A.LNT_IVEC] s t)
  ∧ (∀ (s : State) m k, s.ksAt 0x28 m k → k < 4 → s.slotBusy k = false → s.Canonical → s.bk.merge = [] → yardBase ≤ s.slotAt k →
      (∀ w ∈ wordsOf (s.slotAt k) 8192, s.ecc w = .clean) →
    ∃ u : State, exec .ksCerts s = .next (u.ksReply m 0 [(16, 4, s.ftg.certs.length)])
      ∧ u.okBytes (s.slotAt k) (min 8192 s.ftg.certs.length) = s.ftg.certs.take 8192
      ∧ ReadsOutside (s.slotAt k) (min 8192 s.ftg.certs.length) s u ∧ u.regs = s.regs)
  ∧ (∀ (s : State) m k sig, s.ksAt 0x29 m k → k < 4 → s.slotBusy k = false → s.Canonical → s.bk.merge = [] → yardBase ≤ s.slotAt k →
      s.anyBad (s.slotAt k) 8192 = false → sig.length = 2420 →
    (fieldB m 17 1 < 32 → s.getPair A.KST_ATT_CNT_LO A.KST_ATT_CNT_HI + 1 < 2 ^ 64 → (s.report (fieldB m 17 1) (sliceB m 24 32)).length = 512 →
      ∃ u : State, exec (.ksAttest sig) s = .next (u.ksReply m 0 [])
        ∧ u.getPair A.KST_ATT_CNT_LO A.KST_ATT_CNT_HI = s.getPair A.KST_ATT_CNT_LO A.KST_ATT_CNT_HI + 1
        ∧ u.okBytes (s.slotAt k) 512 = u.report (fieldB m 17 1) (sliceB m 24 32) ∧ u.okBytes (s.slotAt k + 512) 2420 = sig
        ∧ ReadsOutside (s.slotAt k) 2932 s u)
    ∧ (32 ≤ fieldB m 17 1 → exec (.ksAttest sig) s = .next (s.ksReply m 0x0102 [])))
  ∧ (∀ (s : State) p nonce, let b := s.report p nonce;
      fieldB b 0 4 = 0x31545441 ∧ fieldB b 4 2 = 1 ∧ fieldB b 10 1 = p % 256 ∧ fieldB b 11 1 = s.partState p % 256
      ∧ fieldB b 16 8 = s.getPair A.KST_ATT_CNT_LO A.KST_ATT_CNT_HI % 2 ^ 64 ∧ sliceB b 24 32 = sliceB nonce 0 32)
  ∧ (∀ (s : State) m k, s.ksAt 0x2A m k → s.ksSlot k 1312 → s.Canonical →
      let p := fieldB m 17 1
      let i := fieldB m 18 1
      let key := s.okBytes (s.slotAt k) 1312
    (p < 32 → i < 64 → s.partState p = 1 → s.flag F.PRT_OWNER_BOUND p = false → s.flag F.KST_STATE_DEBUG = false →
        (∀ e ∈ s.ks.ownerKeys, e.1 = i → e.2 = key) →
      ∃ u : State, exec .ksBind s = .next (u.ksReply m 0 []) ∧ u.flag F.PRT_OWNER_BOUND p = true ∧ u.getF F.PRT_OWNER_KEY p = i
        ∧ (∀ n, n < 8 → u.getF (F.KST_KEYHASH_HASH.nth (8 * i + n)) = fieldB (sha3 key) (4 * n) 4)
        ∧ u.bit (F.KST_KEYSTAT_PARTS.nth i) p = true ∧ u.getF (F.KST_GCOUNT_COUNTER.nth p) = 0
        ∧ (∀ n, n < 8 → u.reg (A.KST_GRANT + 32 * p + 4 * n) = 0#32) ∧ (i, key) ∈ u.ks.ownerKeys
        ∧ u.ks.meas = ((s.clearMeas (8 + p)).measure (8 + p) (0x10#8 :: leBytes i 1 ++ sha3 key)).ks.meas
        ∧ (∀ p', p' < 32 → p' ≠ p → u.reg A.PRT_OWNER p' = s.reg A.PRT_OWNER p') ∧ u.mem = s.mem ∧ u.synd = s.synd)
    ∧ (32 ≤ p ∨ 64 ≤ i → exec .ksBind s = .next ((s.err .kst 0 1).ksReply m 0x0102 []))
    ∧ (p < 32 → i < 64 → (s.partState p ≠ 1 ∨ s.flag F.PRT_OWNER_BOUND p = true ∨ s.flag F.KST_STATE_DEBUG = true) →
        exec .ksBind s = .next ((s.err .kst 0 1).ksReply m 0x0905 []))
    ∧ (p < 32 → i < 64 → s.partState p = 1 → s.flag F.PRT_OWNER_BOUND p = false → s.flag F.KST_STATE_DEBUG = false →
        (∃ e ∈ s.ks.ownerKeys, e.1 = i ∧ e.2 ≠ key) → exec .ksBind s = .next ((s.err .kst 0 1).ksReply m 0x0903 [])))
  ∧ (∀ (s : State) m k sigOk, s.ksAt 0x2B m k → s.ksSlot k 2724 →
      let b := s.okBytes (s.slotAt k) 2724
      let p := fieldB b 5 1
      let code := if grantOk b = false then 0x0102 else if s.flag F.PRT_OWNER_BOUND p = false then 0x0905
        else if sliceB b 16 32 ≠ s.idHash ∨ sigOk = false then 0x0903
        else if fieldB b 8 4 ≤ s.getF (F.KST_GCOUNT_COUNTER.nth p) then 0x0904 else 0
    (fieldB b 4 1 = 1 → (code = 0 → exec (.grantHostRights sigOk) s = .next ((s.applyGrant b).ksReply m 0 []))
        ∧ (code ≠ 0 → exec (.grantHostRights sigOk) s = .next ((s.err .kst 0 1).ksReply m code []))
        ∧ exec (.grantImport sigOk) s = .next s ∧ exec (.grantLock sigOk) s = .next s)
    ∧ (fieldB b 4 1 = 2 → (code = 0 → exec (.grantImport sigOk) s = .next ((s.applyGrant b).ksReply m 0 []))
        ∧ (code ≠ 0 → exec (.grantImport sigOk) s = .next ((s.err .kst 0 1).ksReply m code []))
        ∧ exec (.grantHostRights sigOk) s = .next s ∧ exec (.grantLock sigOk) s = .next s)
    ∧ (fieldB b 4 1 = 3 → (code = 0 → exec (.grantLock sigOk) s = .next ((s.applyGrant b).ksReply m 0 []))
        ∧ (code ≠ 0 → exec (.grantLock sigOk) s = .next ((s.err .kst 0 1).ksReply m code []))
        ∧ exec (.grantHostRights sigOk) s = .next s ∧ exec (.grantImport sigOk) s = .next s)
    ∧ (fieldB b 4 1 = 0 ∨ 3 < fieldB b 4 1 → exec (.grantHostRights sigOk) s = .next ((s.err .kst 0 1).ksReply m 0x0102 [])))
  ∧ (∀ (s : State) b, s.Canonical → fieldB b 5 1 < 32 →
      let p := fieldB b 5 1
      let t := s.applyGrant b
    t.ks.meas = (s.measure (8 + p) (0x13#8 :: sha3 b)).ks.meas ∧ t.mem = s.mem
    ∧ t.getF (F.KST_GCOUNT_COUNTER.nth p) = fieldB b 8 4
    ∧ (fieldB b 4 1 = 1 → (∀ i, i < 8 → (t.reg (A.KST_GRANT + 32 * p + 4 * i)).toNat = fieldB b (48 + 4 * i) 4)
        ∧ (∀ p' i, p' < 32 → p' ≠ p → i < 8 → t.reg (A.KST_GRANT + 32 * p' + 4 * i) = s.reg (A.KST_GRANT + 32 * p' + 4 * i)))
    ∧ (fieldB b 4 1 = 3 → (∀ page ∈ [0x150, 0x151, 0x152, 0x154, 0x155], nbit (t.getF ⟨page * 0x1000 + 0x1C, 1, 0⟩ p) 0 = true)
        ∧ ∀ p', p' < 32 → p' ≠ p → ∀ page ∈ [0x150, 0x151, 0x152, 0x154, 0x155], t.getF ⟨page * 0x1000 + 0x1C, 1, 0⟩ p' = s.getF ⟨page * 0x1000 + 0x1C, 1, 0⟩ p')
    ∧ (fieldB b 4 1 = 2 → fieldB b 83 1 = 1 →
        (∃ g ∈ t.ks.imports, g.part = p ∧ g.peer = sliceB b 48 32 ∧ g.srcDev = fieldB b 80 2 ∧ g.srcPart = fieldB b 82 1
          ∧ ∀ l, l < 64 → nbit (fieldB b 84 8) l = true → nbit g.links l = true))
    ∧ (fieldB b 4 1 = 2 → fieldB b 83 1 = 0 → ∀ g ∈ t.ks.imports, g.part = p → g.peer = sliceB b 48 32 → g.srcDev = fieldB b 80 2 →
        g.srcPart = fieldB b 82 1 → ∀ l, l < 64 → nbit (fieldB b 84 8) l = true → nbit g.links l = false))
  ∧ (∀ (s : State) m k, s.ksAt 0x2C m k → k < 4 → s.slotBusy k = false →
      let mode := fieldB m 17 1
      let n := if mode = 1 then fieldB m 18 2 else 0
      let list := (List.range n).map fun j => s.okBytes (s.slotAt k + 32 * j) 32
    (1 < mode ∨ 64 < n → exec .ksPeer s = .next (s.ksReply m 0x0102 []))
    ∧ (mode ≤ 1 → n ≤ 64 → s.Canonical → (∀ w ∈ wordsOf (s.slotAt k) (32 * n), s.ecc w = .clean) →
      ∃ u : State, exec .ksPeer s = .next (u.ksReply m 0 []) ∧ u.ks.peerMode = mode ∧ u.ks.peerList = list
        ∧ u.getF F.KST_PEER_MODE_LIST = mode ∧ u.getF F.KST_PEER_COUNT_COUNT = n
        ∧ (∀ l, l < 64 → s.linkUp l = true → mode = 1 → (s.qlink l).peerHash ∉ list → u.linkState l = 0 ∧ u.bit (hdrF .kst 0x10 30 0) 3 = true)
        ∧ (∀ l, l < 64 → (mode = 0 ∨ (s.qlink l).peerHash ∈ list) → u.linkState l = s.linkState l)))
  ∧ (∀ (s : State) m k sigOk, s.ksAt 0x2D m k → s.ksSlot k 2484 → s.Canonical →
      let b := s.okBytes (s.slotAt k) 2484
      let good := fieldB b 0 4 = 0x47424444 ∧ sliceB b 4 32 = s.idHash ∧ fieldB b 36 8 = s.getPair A.KST_BOOT_NONCE_LO A.KST_BOOT_NONCE_HI
        ∧ fieldB b 48 16 = 0 ∧ sigOk = true
    ((∀ p, p < 32 → s.flag F.PRT_OWNER_BOUND p = false) → good →
      ∃ u : State, exec (.ksDebug sigOk) s = .next (u.ksReply m 0 []) ∧ u.flag F.KST_DBG_STAT_ACCEPTED = true ∧ u.flag F.KST_STATE_DEBUG = true
        ∧ u.getF F.KST_DBG_STAT_STATUS = 0 ∧ u.bit (hdrF .kst 0x10 30 0) 2 = true ∧ u.mem = s.mem
        ∧ u.ks.meas = (s.measure 5 (0x03#8 :: sha3 b)).ks.meas)
    ∧ ((∃ p, p < 32 ∧ s.flag F.PRT_OWNER_BOUND p = true) →
        exec (.ksDebug sigOk) s = .next (((s.setF F.KST_DBG_STAT_STATUS 0x0905).err .kst 0 1).ksReply m 0x0905 []))
    ∧ ((∀ p, p < 32 → s.flag F.PRT_OWNER_BOUND p = false) → ¬ good →
        exec (.ksDebug sigOk) s = .next (((s.setF F.KST_DBG_STAT_STATUS 0x0903).err .kst 0 1).ksReply m 0x0903 [])))

/-- Activation, its instances, confirmation, reverting and the automatic fallback. Formalises R474 to R476, R480 to R482 and
R485; measurements aside. Completes: activate, confirm, revert, updStatus, activationInstance, automaticFallback. -/
def Obligations.UpdatesActivate : Prop :=
  (∀ (s : State) ok, (∀ ty, s.updMsg ty = none) → exec (.activate ok) s = .next s ∧ exec .confirm s = .next s ∧ exec .revert s = .next s
      ∧ exec .updStatus s = .next s)
  ∧ (∀ (s : State) m ok, s.updMsg 0x20 = some m →
    (s.activateStatus m ok ≠ 0 → s.activateStatus m ok ≠ 0x0901 → exec (.activate ok) s = .next (s.updAnswer m (s.activateStatus m ok) []))
    ∧ (s.activateStatus m ok = 0x0901 → exec (.activate ok) s = .next ((s.err .kst 0 0).updAnswer m 0x0901 []))
    ∧ (s.activateStatus m ok = 0 → s.Canonical →
        let i := fieldB m 20 4
        let c := s.fwComp i
      ∃ t, exec (.activate ok) s = .next t ∧ t.flag F.KST_UPD_STAT_BUSY = true ∧ t.getF F.KST_UPD_STAT_OP = 1
        ∧ t.getF F.KST_UPD_STAT_COMPONENT = c ∧ t.ftg.pendComps = c :: s.ftg.pendComps ∧ t.ftg.oldImg = (c, s.running c) :: s.ftg.oldImg
        ∧ t.ks.actImage = i ∧ t.ks.actMsg = m ∧ t.ks.actLeft = s.nextTurns c (s.instancesOf c) ∧ t.ks.runImage = s.ks.runImage
        ∧ (∀ j rest, s.nextTurns c (s.instancesOf c) = j :: rest → t.getF F.KST_UPD_STAT_INSTANCE = j
            ∧ t.ks.pausing = !(decide (c = 2) && s.flag F.STK_RPR_STAT_BUSY j))))
  ∧ (∀ (s : State) m ok, s.activateStatus m ok = 0 → ok = true ∧ s.serving0 = true ∧ s.updBusy = false ∧ (s.image (fieldB m 20 4)).state = 3
      ∧ (s.image (fieldB m 20 4)).kind = 3 ∧ s.fwComp (fieldB m 20 4) < 4 ∧ s.fwComp (fieldB m 20 4) ∉ s.ftg.pendComps
      ∧ s.arb (s.fwComp (fieldB m 20 4)) ≤ s.fwSecVer (fieldB m 20 4) ∧ s.compatible (s.fwComp (fieldB m 20 4)) (fieldB m 20 4) = true
      ∧ ∀ j ∈ s.fwImages (s.fwComp (fieldB m 20 4)), s.fwVersion j ≤ s.fwVersion (fieldB m 20 4))
  ∧ (∀ (s : State) m, s.activateStatus m false ≠ 0)
  ∧ (∀ (s : State) m pay st, s.Canonical → st < 65536 → (s.updAnswer m st pay).getF F.KST_UPD_STAT_STATUS = st
      ∧ (s.updAnswer m st pay).ftg = s.ftg ∧ (s.updAnswer m st pay).dv = s.dv ∧ RegsBut [A.KST_UPD_STAT, A.LNT_IVEC] s (s.updAnswer m st pay))
  ∧ (∀ (s : State) ok ms, s.updBusy = false → exec (.activationInstance ok ms) s = .next s)
  ∧ (∀ (s : State) i rest ok ms, s.updBusy = true → s.serving0 = true → s.Canonical → s.ks.actLeft = i :: rest → s.ks.pausing = false →
      let c := s.getF F.KST_UPD_STAT_COMPONENT
    (c = 2 → s.stackServes i = true) → c < 4 → i < 64 →
    ((c = 2 → s.flag F.STK_RPR_STAT_BUSY i = false) →
      ∃ t, exec (.activationInstance ok ms) s = .next t ∧ t.inPause c i = true ∧ t.getF F.KST_UPD_STAT_INSTANCE = i ∧ t.ks.actLeft = i :: rest
        ∧ t.flag F.KST_UPD_STAT_BUSY = true ∧ t.ks.runImage = s.ks.runImage ∧ t.ftg.pendComps = s.ftg.pendComps)
    ∧ (c = 2 → s.flag F.STK_RPR_STAT_BUSY i = true →
      ∃ t, exec (.activationInstance ok ms) s = .next t ∧ t.ks = s.ks ∧ t.getF F.KST_UPD_STAT_INSTANCE = i ∧ t.mem = s.mem ∧ t.ftg = s.ftg))
  ∧ (∀ (s : State) i rest ok ms, s.updBusy = true → s.serving0 = true → s.ks.actLeft = i :: rest → s.ks.pausing = false →
      s.getF F.KST_UPD_STAT_COMPONENT = 2 → s.stackServes i = false → (∀ j ∈ rest, s.stackServes j = false) →
    ∃ t, exec (.activationInstance ok ms) s = .next t ∧ t.ks = { s.ks with actLeft := [] } ∧ t.regs = s.regs ∧ t.mem = s.mem)
  ∧ (∀ (s : State) ok ms, s.updBusy = true → s.serving0 = true → s.Canonical → s.ks.actLeft = [] → s.ks.fallLeft = [] →
      let c := s.getF F.KST_UPD_STAT_COMPONENT
    c < 4 → ∃ t, exec (.activationInstance ok ms) s = .next t ∧ t.flag F.KST_UPD_STAT_BUSY = false ∧ t.running c = s.ks.actImage
      ∧ t.getF (F.KST_RUNVER_VERSION.nth c) = s.fwVersion s.ks.actImage ∧ t.ks.actMsg = [])
  ∧ (∀ (s : State) i rest ms, s.updBusy = true → s.serving0 = true → s.Canonical → s.ks.actLeft = i :: rest → s.ks.pausing = true →
      let c := s.getF F.KST_UPD_STAT_COMPONENT
    c < 4 → (c = 0 → s.ftg.waiting = []) → (c = 2 → ∀ j ∈ rest, s.stackServes j = true) →
    (∀ j more, rest = j :: more → ms ≤ pauseLimit c → j < 64 → (s.ks.fallLeft ≠ [] ∨ smGet (fun _ => 0) s.ks.overruns c < 2) →
      ∃ t, exec (.activationInstance true ms) s = .next t ∧ t.ks.actLeft = rest ∧ (c = 0 → t.inPause 0 j = true ∧ t.getF F.KST_UPD_STAT_INSTANCE = j)
        ∧ (c ≠ 0 → t.ks.pausing = false) ∧ t.flag F.KST_UPD_STAT_BUSY = true ∧ t.ks.runImage = s.ks.runImage
        ∧ t.ftg.pendComps = s.ftg.pendComps ∧ t.ftg.oldImg = s.ftg.oldImg
        ∧ (c = 0 → i < 8 → i ≠ j → t.getF F.TRW_IMG_VER_SEC_VER i = s.fwSecVer s.ks.actImage % 2 ^ F.TRW_IMG_VER_SEC_VER.width))
    ∧ (rest = [] → s.ks.fallLeft = [] → ms ≤ pauseLimit c → smGet (fun _ => 0) s.ks.overruns c < 2 →
      ∃ t, exec (.activationInstance true ms) s = .next t ∧ t.flag F.KST_UPD_STAT_BUSY = false ∧ t.getF F.KST_UPD_STAT_OP = 0
        ∧ t.running c = s.ks.actImage ∧ t.getF (F.KST_RUNVER_VERSION.nth c) = s.fwVersion s.ks.actImage ∧ t.ks.actMsg = []
        ∧ t.ks.actLeft = [] ∧ t.ks.pausing = false ∧ t.ftg.pendComps = s.ftg.pendComps ∧ t.ftg.oldImg = s.ftg.oldImg
        ∧ (∀ n, n < 4 → nbit (t.getF F.KST_UPD_STAT_PENDING) n = s.ftg.pendComps.contains n))
    ∧ (s.ks.fallLeft = [] → exec (.activationInstance false ms) s = .next s.fallAuto)
    ∧ (s.ks.fallLeft ≠ [] → exec (.activationInstance false ms) s = .next s)
    ∧ (s.ks.fallLeft = [] → pauseLimit c < ms → 1 ≤ smGet (fun _ => 0) s.ks.overruns c →
      ∃ t, exec (.activationInstance true ms) s = .next t ∧ t.bit (hdrF .kst 0x10 30 0) 5 = true)
    ∧ (rest = [] → s.ks.fallLeft = [c] → smSorted s.ftg.dir = true →
      ∃ t, exec (.activationInstance true ms) s = .next t ∧ t.flag F.KST_UPD_STAT_BUSY = false ∧ t.running c = s.ks.actImage
        ∧ t.getF (F.KST_RUNVER_VERSION.nth c) = s.fwVersion s.ks.actImage ∧ t.ftg.pendComps = s.ftg.pendComps.filter (· ≠ c)
        ∧ t.ks.fallLeft = []
        ∧ (∀ n ∈ s.fwImages c, n ≠ s.ks.actImage → s.fwVersion s.ks.actImage < s.fwVersion n → t.image n = { gen := (s.image n).gen + 1 })
        ∧ (∀ n, n ∉ s.fwImages c → t.image n = s.image n)))
  ∧ (∀ (s : State) l tid us, s.paused .qlk (l / 8) = true →
      exec (.creditTimeout l us) s = .next s ∧ exec (.responseTimeout l tid us) s = .next s)
  ∧ (∀ (s : State) m, s.updMsg 0x21 = some m →
    (s.updBusy = true ∨ s.allPending (maskComps m) = false → exec .confirm s = .next (s.updAnswer m 0x0103 []))
    ∧ (s.updBusy = false → s.allPending (maskComps m) = true → s.Canonical → smSorted s.dv.arb = true →
      ∃ t, exec .confirm s = .next t ∧ t.ftg.pendComps = s.ftg.pendComps.filter (fun c => !(maskComps m).contains c)
        ∧ t.ftg.oldImg = s.ftg.oldImg.filter (fun e => !(maskComps m).contains e.1)
        ∧ (∀ c, t.arb c = (if c ∈ maskComps m then max (s.arb c) (s.fwSecVer (s.running c)) else s.arb c))
        ∧ (∀ n, n < 4 → nbit (t.getF F.KST_UPD_STAT_PENDING) n = t.ftg.pendComps.contains n) ∧ t.getF F.KST_UPD_STAT_STATUS = 0
        ∧ t.ks.runImage = s.ks.runImage))
  ∧ (∀ (s : State) m, s.updMsg 0x22 = some m →
    (s.updBusy = true ∨ s.allPending (maskComps m) = false → exec .revert s = .next (s.updAnswer m 0x0103 []))
    ∧ (s.updBusy = false → s.allPending (maskComps m) = true →
      (s.setCompatible (s.revertedSet (maskComps m)) = false → exec .revert s = .next (s.updAnswer m 0x0906 []))
      ∧ (s.setCompatible (s.revertedSet (maskComps m)) = true → maskComps m = [] → exec .revert s = .next (s.updAnswer m 0 []))
      ∧ (s.setCompatible (s.revertedSet (maskComps m)) = true → s.Canonical → s.ks.actLeft = [] →
          ∀ c left old, s.ftg.pendComps.filter (fun n => (maskComps m).contains n) = c :: left → c < 4 →
            s.ftg.oldImg.find? (fun e => e.1 = c) = some (c, old) →
        ∃ t, exec .revert s = .next t ∧ t.flag F.KST_UPD_STAT_BUSY = true ∧ t.getF F.KST_UPD_STAT_OP = 3
          ∧ t.getF F.KST_UPD_STAT_COMPONENT = c ∧ t.ks.fallLeft = c :: left ∧ t.ks.actImage = old ∧ t.ks.actMsg = m
          ∧ t.ks.actLeft = s.nextTurns c (s.instancesOf c) ∧ t.ftg = s.ftg)))
  ∧ (∀ (s : State) c,
    (c ∈ s.ftg.pendComps → s.ks.fallLeft = [] → s.serving0 = true →
      exec (.automaticFallback c) s = .next s.fallAuto
      ∧ (s.Canonical → ∀ n left old, s.ftg.pendComps = n :: left → n < 4 → s.ftg.oldImg.find? (fun e => e.1 = n) = some (n, old) →
          s.fallAuto.bit (hdrF .kst 0x10 30 0) 5 = true ∧ s.fallAuto.flag F.KST_UPD_STAT_BUSY = true ∧ s.fallAuto.getF F.KST_UPD_STAT_OP = 4
          ∧ s.fallAuto.getF F.KST_UPD_STAT_COMPONENT = n ∧ s.fallAuto.ks.fallLeft = n :: left ∧ s.fallAuto.ks.actImage = old
          ∧ s.fallAuto.ks.actMsg = []))
    ∧ (c ∉ s.ftg.pendComps ∨ s.ks.fallLeft ≠ [] ∨ s.serving0 = false → exec (.automaticFallback c) s = .next s))
  ∧ (∀ (s : State) m, s.updMsg 0x23 = some m →
      exec .updStatus s = .next (s.updAnswer m 0 ((16, 1, s.getF F.KST_UPD_STAT_PENDING) ::
        (List.range 4).map fun c => (20 + 4 * c, 4, s.getF (F.KST_RUNVER_VERSION.nth c)))))

/-- A step performs the front command on the rest of the queue. The rule of the block's queue; that an empty queue idles is
the model's choice. -/
def Obligations.StepTakesTheFrontCommand : Prop :=
  (∀ c cs (s : State), s.pending = c :: cs → step s = exec c { s with pending := cs })
  ∧ (∀ s : State, s.pending = [] → step s = .next s)

/-- The reset state is canonical, off, empty and idle. The invariant of EveryStepKeepsTheCanonicalForms at reset; the device
state is R435. -/
def Obligations.ResetIsCanonical : Prop :=
  State.reset.Canonical ∧ State.reset.pending = [] ∧ State.reset.dv.st = .off ∧ State.reset.out = [] ∧ State.reset.qu.cmds = []
  ∧ State.reset.sv.steps = [] ∧ State.reset.mem = [] ∧ (∀ a, State.reset.okByte a = 0#8) ∧ step State.reset = .next State.reset

/-- Every step of every command keeps the canonical forms. The invariant that makes reads after writes well defined for every
other statement here. -/
def Obligations.EveryStepKeepsTheCanonicalForms : Prop :=
  ∀ s t : State, s.Canonical → step s = .next t → t.Canonical

/-- Only a test-access instruction is ever refused; no command touches the queue or the fuses. R4, R7, R439 and R469: grade,
device number, root hash and Footing seed are fused; R28 opens test access without describing it. -/
def Obligations.CommandsRunAndKeepTheFuses : Prop :=
  ∀ (s : State) c cs, s.pending = c :: cs →
    (∃ t, step s = .next t ∧ t.pending = cs ∧ t.dv.gradeC = s.dv.gradeC ∧ t.dv.devNum = s.dv.devNum ∧ t.dv.rootHash = s.dv.rootHash ∧ t.dv.footingSeed = s.dv.footingSeed)
    ∨ (∃ i, c = .tapInstruction i ∧ step s = .refused .testAccessUnspecified)
end

