-- ==== Sys2Proof/Laws/Keep.lean ====
section
/-! SUPPORT. What every shared operation keeps. A predicate on states is `Stable` when it survives register writes and every
change outside the registers, the memory, the queue of commands and the fuses; it is `StableMem` when it survives the
primitive memory writes too. One lemma per operation, `<operation>_keeps`, then says once what the operation can do to those
parts: it keeps every such predicate. The files KeepA to KeepF hold them, in the order of the model's files. -/

namespace Sys2Proof.Machine

/-- A predicate that register writes, register clearing and changes elsewhere keep. -/
structure Stable (P : State → Prop) : Prop where
  reg : ∀ {s : State}, P s → ∀ k v, P { s with regs := smSet regDefault s.regs k v }
  clr : ∀ {s : State}, P s → ∀ p, P { s with regs := s.regs.filter p }
  rest : ∀ {s : State}, P s → ∀ now fc pw ug ftg tr kl ks ln yd pt bm bk br lk qu sv it out,
    P ⟨s.pending, now, fc, pw, s.dv, s.regs, s.mem, s.synd, ug, ftg, tr, kl, ks, ln, yd, pt, bm, bk, br, lk, qu, sv, it, out⟩
  dev : ∀ {s : State}, P s → ∀ now fc pw ug ftg tr kl ks ln yd pt bm bk br lk qu sv it out st arb idn rel rom fill stk drn wr fs,
    P ⟨s.pending, now, fc, pw, ⟨st, s.dv.gradeC, s.dv.devNum, s.dv.rootHash, s.dv.footingSeed, arb, idn, rel, rom, fill, stk, drn, wr, fs⟩,
      s.regs, s.mem, s.synd, ug, ftg, tr, kl, ks, ln, yd, pt, bm, bk, br, lk, qu, sv, it, out⟩

/-- A predicate that the primitive memory writes keep too. -/
structure StableMem (P : State → Prop) : Prop extends Stable P where
  synd : ∀ {s : State}, P s → ∀ k v, P { s with synd := smSet syndDefault s.synd k v }
  put : ∀ {s : State}, P s → ∀ a b, P { s with mem := memPut s.mem a b }
  cut : ∀ {s : State}, P s → ∀ p q, P { s with mem := s.mem.filter p, synd := s.synd.filter q }

/-- A predicate on the second part of a pair. -/
abbrev Snd {α β : Type} (Q : β → Prop) (x : α × β) : Prop := Q x.2

/-- A predicate on the first part of a pair. -/
abbrev Fst {α β : Type} (Q : α → Prop) (x : α × β) : Prop := Q x.1

/-- A predicate on what an option holds. -/
abbrev Opt {α : Type} (Q : α → Prop) (x : Option α) : Prop := ∀ a, x = some a → Q a

/-- A predicate on both sides of an exception. -/
abbrev Exc {α β : Type} (R : α → Prop) (Q : β → Prop) (x : Except α β) : Prop :=
  (∀ a, x = .error a → R a) ∧ ∀ b, x = .ok b → Q b

/-- No demand. -/
abbrev Any {α : Type} (_ : α) : Prop := True

/-- A predicate on a next state. -/
abbrev Nxt (P : State → Prop) (r : Res) : Prop := ∀ t, r = .next t → P t

theorem keep_cut {a b : Prop} (h : a) (f : a → b) : b := f h
theorem keep_done {P : State → Prop} {s : State} (h : P s) : Nxt P (done s) := by
  intro t e; cases e; exact h
theorem keep_refused {P : State → Prop} {r : Refusal} : Nxt P (.refused r) := by intro t e; cases e
theorem keep_ite {α : Type} {Q : α → Prop} {c : Prop} [Decidable c] {a b : α} (h : c → Q a) (h' : ¬c → Q b) :
    Q (if c then a else b) := by
  split
  · exact h ‹_›
  · exact h' ‹_›
theorem keep_some {α : Type} {Q : α → Prop} {a : α} (h : Q a) : Opt Q (some a) := by intro b e; cases e; exact h
theorem keep_none {α : Type} {Q : α → Prop} : Opt Q none := by intro b e; cases e
theorem keep_ok {α β : Type} {R : α → Prop} {Q : β → Prop} {b : β} (h : Q b) : Exc R Q (.ok b) :=
  ⟨fun _ e => (by cases e), fun _ e => (by cases e; exact h)⟩
theorem keep_error {α β : Type} {R : α → Prop} {Q : β → Prop} {a : α} (h : R a) : Exc R Q (.error a) :=
  ⟨fun _ e => (by cases e; exact h), fun _ e => (by cases e)⟩
theorem keep_fst {α β : Type} {P : α → Prop} {x : α × β} (h : Fst P x) : P x.1 := h
theorem keep_snd {α β : Type} {P : β → Prop} {x : α × β} (h : Snd P x) : P x.2 := h
theorem keep_pair_fst {α β : Type} {Q : α → Prop} {a : α} {b : β} (h : Q a) : Fst Q (a, b) := h
theorem keep_pair_snd {α β : Type} {Q : β → Prop} {a : α} {b : β} (h : Q b) : Snd Q (a, b) := h
theorem keep_getD {α : Type} {Q : α → Prop} {o : Option α} {a : α} (h : Opt Q o) (ha : Q a) : Q (o.getD a) := by
  cases o with
  | none => exact ha
  | some b => exact h b rfl
theorem keep_of_some {α : Type} {Q : α → Prop} {o : Option α} {a : α} (e : o = some a) (h : Opt Q o) : Q a := h a e
theorem keep_of_some_snd {α β : Type} {Q : β → Prop} {o : Option (α × β)} {a : α} {b : β} (e : o = some (a, b))
    (h : Opt (Snd Q) o) : Q b := h (a, b) e
theorem keep_of_some_snd2 {α γ β : Type} {Q : β → Prop} {o : Option (α × γ × β)} {a : α} {c : γ} {b : β}
    (e : o = some (a, c, b)) (h : Opt (Snd (Snd Q)) o) : Q b := h (a, c, b) e
theorem keep_of_pair {α β : Type} {Q : β → Prop} {o : α × β} {a : α} {b : β} (e : o = (a, b)) (h : Snd Q o) : Q b := by
  subst e; exact h
theorem keep_of_pair_fst {α β : Type} {Q : α → Prop} {o : α × β} {a : α} {b : β} (e : o = (a, b)) (h : Fst Q o) : Q a := by
  subst e; exact h
theorem keep_of_pair2 {α γ β : Type} {Q : β → Prop} {o : α × γ × β} {a : α} {c : γ} {b : β} (e : o = (a, c, b))
    (h : Snd (Snd Q) o) : Q b := by
  subst e; exact h
theorem keep_of_error {α γ β : Type} {Q : β → Prop} {R : γ → Prop} {o : Except (α × β) γ} {a : α} {b : β}
    (e : o = .error (a, b)) (h : Exc (Snd Q) R o) : Q b := h.1 _ e
theorem keep_of_ok {α γ β : Type} {Q : β → Prop} {R : γ → Prop} {o : Except γ (α × β)} {a : α} {b : β}
    (e : o = .ok (a, b)) (h : Exc R (Snd Q) o) : Q b := h.2 _ e
theorem keep_of_error' {γ β : Type} {Q : β → Prop} {R : γ → Prop} {o : Except β γ} {b : β}
    (e : o = .error b) (h : Exc Q R o) : Q b := h.1 _ e
theorem keep_of_ok' {γ β : Type} {Q : β → Prop} {R : γ → Prop} {o : Except γ β} {b : β}
    (e : o = .ok b) (h : Exc R Q o) : Q b := h.2 _ e
theorem keep_foldl {α β : Type} {Q : β → Prop} {g : β → α → β} {l : List α} {s : β} (h : Q s)
    (hg : ∀ t x, Q t → Q (g t x)) : Q (l.foldl g s) := by
  induction l generalizing s with
  | nil => exact h
  | cons x l ih => exact ih (hg s x h)

theorem keep_putFold {α : Type} {P : State → Prop} (hP : StableMem P) (f : α → Nat) (g : α → Byte) (l : List α) {s : State}
    (h : P s) : P { s with mem := l.foldl (fun m p => memPut m (f p) (g p)) s.mem } := by
  induction l generalizing s with
  | nil => exact h
  | cons x l ih => exact ih (hP.put h (f x) (g x))

theorem keep_putAll {P : State → Prop} (hP : StableMem P) (bs : List Byte) (a : Nat) {s : State} (h : P s) :
    P { s with mem := memPutAll s.mem a bs } := by
  induction bs generalizing a s with
  | nil => exact h
  | cons b bs ih => exact ih (a + 1) (hP.put h a b)

theorem keep_wipe {P : State → Prop} (hP : StableMem P) {s : State} (h : P s) : P { s with mem := [], synd := [] } := by
  have w := hP.cut h (fun _ => false) (fun _ => false)
  simpa using w

theorem keep_wipeAll {P : State → Prop} (hP : StableMem P) {s : State} (h : P s) :
    P { s with regs := [], mem := [], synd := [] } := by
  have w := hP.clr (keep_wipe hP h) (fun _ => false)
  simpa using w

/-- What a fetch may leave behind. -/
abbrev Fetched (P : State → Prop) (f : Fetch5) : Prop := (∀ t, f = .fault t → P t) ∧ ∀ w t, f = .word w t → P t

theorem keep_idle {P : State → Prop} : Fetched P .idle := ⟨fun _ e => (by cases e), fun _ _ e => (by cases e)⟩
theorem keep_fault {P : State → Prop} {s : State} (h : P s) : Fetched P (.fault s) :=
  ⟨fun _ e => (by cases e; exact h), fun _ _ e => (by cases e)⟩
theorem keep_word {P : State → Prop} {w : Nat} {s : State} (h : P s) : Fetched P (.word w s) :=
  ⟨fun _ e => (by cases e), fun _ _ e => (by cases e; exact h)⟩
theorem keep_of_fault {P : State → Prop} {f : Fetch5} {t : State} (e : f = .fault t) (h : Fetched P f) : P t := h.1 t e
theorem keep_of_word {P : State → Prop} {f : Fetch5} {w : Nat} {t : State} (e : f = .word w t) (h : Fetched P f) : P t :=
  h.2 w t e

end Sys2Proof.Machine
end

