-- ==== Sys2Proof/Laws/KeepA.lean ====
section
/-! SUPPORT. What the operations over registers, the Footing, the Trowel complex, cycle tables, accesses, commands, Kiln, links, memory and slabs keep (see Keep.lean). -/

namespace Sys2Proof.Machine

theorem State.setReg_keeps {P : State → Prop} (hP : Stable P) {s : State} {a1 : Nat} {a2 : Word} {a3 : Nat} {a4 : Nat} (h : P s) :
    P (State.setReg s a1 a2 a3 a4) := by
  exact hP.reg h _ _

theorem State.setF_keeps {P : State → Prop} (hP : Stable P) {s : State} {a1 : Fld} {a2 : Nat} {a3 : Nat} {a4 : Nat} (h : P s) :
    P (State.setF s a1 a2 a3 a4) := by
  unfold State.setF
  with_reducible apply State.setReg_keeps hP
  with_reducible assumption

theorem State.setFlag_keeps {P : State → Prop} (hP : Stable P) {s : State} {a1 : Fld} {a2 : Bool} {a3 : Nat} {a4 : Nat} (h : P s) :
    P (State.setFlag s a1 a2 a3 a4) := by
  unfold State.setFlag
  with_reducible apply State.setF_keeps hP
  with_reducible assumption

theorem State.setBrick_keeps {P : State → Prop} (hP : Stable P) {s : State} {a1 : Nat} {a2 : Brick} (h : P s) :
    P (State.setBrick s a1 a2) := by
  unfold State.setBrick
  with_reducible apply hP.rest
  with_reducible assumption

theorem State.fillZero_keeps {P : State → Prop} (hP : StableMem P) {s : State} {a1 : Nat} {a2 : Nat} (h : P s) :
    P (State.fillZero s a1 a2) := by
  exact hP.cut h _ _

theorem State.clearBrick_keeps {P : State → Prop} (hP : StableMem P) {s : State} {a1 : Nat} (h : P s) :
    P (State.clearBrick s a1) := by
  unfold State.clearBrick
  extract_lets t1 t2
  have h3 : P t1 := by
    unfold t1
    with_reducible apply State.setBrick_keeps hP.toStable
    with_reducible apply State.fillZero_keeps hP
    with_reducible assumption
  clear_value t1 t2
  with_reducible apply hP.toStable.rest
  with_reducible assumption

theorem State.bumpGen_keeps {P : State → Prop} (hP : Stable P) {s : State} {a1 : Blk} {a2 : Nat} (h : P s) :
    P (State.bumpGen s a1 a2) := by
  unfold State.bumpGen
  with_reducible apply hP.rest
  with_reducible assumption

theorem State.setUnit_keeps {P : State → Prop} (hP : Stable P) {s : State} {a1 : Blk} {a2 : Nat} {a3 : Nat} (h : P s) :
    P (State.setUnit s a1 a2 a3) := by
  unfold State.setUnit
  with_reducible apply State.bumpGen_keeps hP
  with_reducible apply State.setF_keeps hP
  with_reducible assumption

theorem State.setBit_keeps {P : State → Prop} (hP : Stable P) {s : State} {a1 : Fld} {a2 : Nat} {a3 : Bool} {a4 : Nat} {a5 : Nat} (h : P s) :
    P (State.setBit s a1 a2 a3 a4 a5) := by
  unfold State.setBit
  with_reducible apply State.setF_keeps hP
  with_reducible assumption

theorem State.emit_keeps {P : State → Prop} (hP : Stable P) {s : State} {a1 : Out} (h : P s) :
    P (State.emit s a1) := by
  unfold State.emit
  with_reducible apply hP.rest
  with_reducible assumption

theorem State.setHlink_keeps {P : State → Prop} (hP : Stable P) {s : State} {a1 : Nat} {a2 : HLink} (h : P s) :
    P (State.setHlink s a1 a2) := by
  unfold State.setHlink
  with_reducible refine keep_ite (fun _ => ?_) (fun _ => ?_)
  · with_reducible apply hP.rest
    with_reducible assumption
  · with_reducible apply hP.rest
    with_reducible assumption

theorem State.sendHost_keeps {P : State → Prop} (hP : Stable P) {s : State} {a1 : Nat} {a2 : Nat} (h : P s) :
    P (State.sendHost s a1 a2) := by
  induction a2 generalizing s a1
  · unfold State.sendHost
    with_reducible assumption
  · unfold State.sendHost
    rename_i ih
    extract_lets t1
    clear_value t1
    split
    · with_reducible assumption
    · with_reducible refine keep_ite (fun _ => ?_) (fun _ => ?_)
      · extract_lets t2 t3 t4
        clear_value t2
        have h5 : P t3 := by
          unfold t3
          with_reducible apply State.setHlink_keeps hP
          with_reducible assumption
        clear_value t3
        have h6 : P t4 := by
          unfold t4
          with_reducible apply keep_foldl (Q := P)
          · with_reducible assumption
          · intro x7 x8 x9
            with_reducible apply State.emit_keeps hP
            with_reducible assumption
        clear_value t4
        with_reducible apply ih
        with_reducible apply State.emit_keeps hP
        with_reducible assumption
      · with_reducible assumption

theorem State.toHost_keeps {P : State → Prop} (hP : Stable P) {s : State} {a1 : Nat} {a2 : Out} (h : P s) :
    P (State.toHost s a1 a2) := by
  unfold State.toHost
  with_reducible apply State.sendHost_keeps hP
  with_reducible apply State.setHlink_keeps hP
  with_reducible assumption

theorem State.deliver_keeps {P : State → Prop} (hP : Stable P) {s : State} {a1 : Nat} (h : P s) :
    P (State.deliver s a1) := by
  unfold State.deliver
  split
  · with_reducible assumption
  · with_reducible refine keep_ite (fun _ => ?_) (fun _ => ?_)
    · extract_lets t1 t2
      have h3 : P t1 := by
        unfold t1
        with_reducible apply State.toHost_keeps hP
        with_reducible apply State.setFlag_keeps hP
        with_reducible assumption
      clear_value t1 t2
      with_reducible refine keep_ite (fun _ => ?_) (fun _ => ?_)
      · with_reducible assumption
      · with_reducible apply hP.rest
        with_reducible assumption
    · with_reducible assumption

theorem State.raise_keeps {P : State → Prop} (hP : Stable P) {s : State} {a1 : Nat} (h : P s) :
    P (State.raise s a1) := by
  unfold State.raise
  with_reducible refine keep_ite (fun _ => ?_) (fun _ => ?_)
  · with_reducible apply State.deliver_keeps hP
    with_reducible apply State.setFlag_keeps hP
    with_reducible assumption
  · with_reducible assumption

theorem State.errIrq_keeps {P : State → Prop} (hP : Stable P) {s : State} {a1 : Blk} {a2 : Nat} {a3 : Nat} (h : P s) :
    P (State.errIrq s a1 a2 a3) := by
  unfold State.errIrq
  extract_lets t1 t2 t3
  clear_value t1
  have h4 : P t2 := by
    unfold t2
    with_reducible apply hP.rest
    with_reducible assumption
  clear_value t2
  have h5 : P t3 := by
    unfold t3
    split
    · with_reducible refine keep_ite (fun _ => ?_) (fun _ => ?_)
      · with_reducible apply State.emit_keeps hP
        with_reducible assumption
      · with_reducible assumption
    · with_reducible assumption
  clear_value t3
  split
  · with_reducible apply State.raise_keeps hP
    with_reducible assumption
  · with_reducible assumption

theorem State.err_keeps {P : State → Prop} (hP : Stable P) {s : State} {a1 : Blk} {a2 : Nat} {a3 : Nat} {a4 : Option Nat} (h : P s) :
    P (State.err s a1 a2 a3 a4) := by
  unfold State.err
  extract_lets t1 t2 t3 t4
  clear_value t1 t2
  have h5 : P t3 := by
    unfold t3
    with_reducible apply State.setBit_keeps hP
    with_reducible assumption
  clear_value t3
  have h6 : P t4 := by
    unfold t4
    with_reducible refine keep_ite (fun _ => ?_) (fun _ => ?_)
    · with_reducible apply State.setFlag_keeps hP
      with_reducible assumption
    · split
      · with_reducible apply State.setReg_keeps hP
        with_reducible apply State.setReg_keeps hP
        with_reducible assumption
      · with_reducible assumption
  clear_value t4
  with_reducible refine keep_ite (fun _ => ?_) (fun _ => ?_)
  · with_reducible apply State.errIrq_keeps hP
    with_reducible assumption
  · with_reducible assumption

theorem State.setBucket_keeps {P : State → Prop} (hP : Stable P) {s : State} {a1 : Nat} {a2 : Nat} {a3 : Bucket} (h : P s) :
    P (State.setBucket s a1 a2 a3) := by
  unfold State.setBucket
  with_reducible apply hP.rest
  with_reducible assumption

theorem State.pay_keeps {P : State → Prop} (hP : Stable P) {s : State} {a1 : Nat} {a2 : Nat} {a3 : Nat} (h : P s) :
    (Snd P) (State.pay s a1 a2 a3) := by
  unfold State.pay
  extract_lets t1 t2 t3 t4
  clear_value t1 t2 t3 t4
  with_reducible apply keep_pair_snd
  with_reducible apply State.setBucket_keeps hP
  with_reducible assumption

theorem State.bump_keeps {P : State → Prop} (hP : Stable P) {s : State} {a1 : Fld} {a2 : Nat} {a3 : Nat} {a4 : Nat} (h : P s) :
    P (State.bump s a1 a2 a3 a4) := by
  unfold State.bump
  with_reducible apply State.setF_keeps hP
  with_reducible assumption

theorem State.onCmd_keeps {P : State → Prop} (hP : Stable P) {s : State} {a1 : Nat} {a2 : Cmd → Cmd} (h : P s) :
    P (State.onCmd s a1 a2) := by
  unfold State.onCmd
  with_reducible apply hP.rest
  with_reducible assumption

theorem State.oweAck_keeps {P : State → Prop} (hP : Stable P) {s : State} {a1 : Own} {a2 : Nat} (h : P s) :
    P (State.oweAck s a1 a2) := by
  unfold State.oweAck
  split
  · with_reducible assumption
  · with_reducible apply State.onCmd_keeps hP
    with_reducible assumption
  · with_reducible apply hP.rest
    with_reducible assumption

theorem State.moved_keeps {P : State → Prop} (hP : Stable P) {s : State} {a1 : Own} {a2 : Nat} {a3 : Nat} {a4 : Nat} (h : P s) :
    P (State.moved s a1 a2 a3 a4) := by
  unfold State.moved
  extract_lets t1 t2 t3
  have h4 : (Snd (P)) t1 := by
    unfold t1
    with_reducible apply State.pay_keeps hP
    with_reducible assumption
  clear_value t1
  have h5 : P t2 := by
    unfold t2
    with_reducible apply State.bump_keeps hP
    with_reducible assumption
  clear_value t2 t3
  with_reducible refine keep_ite (fun _ => ?_) (fun _ => ?_)
  · with_reducible assumption
  · with_reducible apply State.oweAck_keeps hP
    with_reducible apply hP.rest
    with_reducible assumption

theorem State.slabEcc_keeps {P : State → Prop} (hP : Stable P) {s : State} {a1 : Nat} {a2 : Bool} {a3 : Nat} (h : P s) :
    P (State.slabEcc s a1 a2 a3) := by
  unfold State.slabEcc
  extract_lets t1 t2
  clear_value t1
  have h3 : P t2 := by
    unfold t2
    with_reducible apply State.bump_keeps hP
    with_reducible assumption
  clear_value t2
  with_reducible refine keep_ite (fun _ => ?_) (fun _ => ?_)
  · with_reducible apply State.err_keeps hP
    with_reducible apply State.bump_keeps hP
    with_reducible assumption
  · with_reducible refine keep_ite (fun _ => ?_) (fun _ => ?_)
    · with_reducible apply State.err_keeps hP
      with_reducible assumption
    · with_reducible assumption

theorem State.setSynd_keeps {P : State → Prop} (hP : StableMem P) {s : State} {a1 : Nat} {a2 : Nat} (h : P s) :
    P (State.setSynd s a1 a2) := by
  exact hP.synd h _ _

theorem State.poisonWord_keeps {P : State → Prop} (hP : StableMem P) {s : State} {a1 : Nat} (h : P s) :
    P (State.poisonWord s a1) := by
  unfold State.poisonWord
  with_reducible apply State.setSynd_keeps hP
  with_reducible assumption

theorem State.lineOut_keeps {P : State → Prop} (hP : StableMem P) {s : State} {a1 : YLine} (h : P s) :
    P (State.lineOut s a1) := by
  unfold State.lineOut
  extract_lets t1 t2
  clear_value t1
  have h3 : P t2 := by
    unfold t2
    with_reducible apply hP.toStable.rest
    with_reducible assumption
  clear_value t2
  with_reducible refine keep_ite (fun _ => ?_) (fun _ => ?_)
  · with_reducible assumption
  · with_reducible apply State.moved_keeps hP.toStable
    with_reducible apply keep_foldl (Q := P)
    · with_reducible assumption
    · intro x4 x5 x6
      with_reducible refine keep_ite (fun _ => ?_) (fun _ => ?_)
      · with_reducible apply State.slabEcc_keeps hP.toStable
        with_reducible apply State.poisonWord_keeps hP
        with_reducible assumption
      · with_reducible assumption

theorem State.showSlots_keeps {P : State → Prop} (hP : Stable P) {s : State} {a1 : Nat} (h : P s) :
    P (State.showSlots s a1) := by
  unfold State.showSlots
  with_reducible apply keep_foldl (Q := P)
  · with_reducible assumption
  · intro x1 x2 x3
    with_reducible apply State.setFlag_keeps hP
    with_reducible assumption

theorem State.setCycle_keeps {P : State → Prop} (hP : Stable P) {s : State} {a1 : Nat} {a2 : Cycle} (h : P s) :
    P (State.setCycle s a1 a2) := by
  unfold State.setCycle
  with_reducible apply hP.rest
  with_reducible assumption

theorem State.cytRestart_keeps {P : State → Prop} (hP : Stable P) {s : State} {a1 : Nat} (h : P s) :
    P (State.cytRestart s a1) := by
  unfold State.cytRestart
  extract_lets t1 t2
  clear_value t1 t2
  with_reducible apply State.showSlots_keeps hP
  with_reducible apply State.setCycle_keeps hP
  with_reducible apply State.setF_keeps hP
  with_reducible assumption

theorem State.onStep_keeps {P : State → Prop} (hP : Stable P) {s : State} {a1 : Nat} {a2 : StepRun → StepRun} (h : P s) :
    P (State.onStep s a1 a2) := by
  unfold State.onStep
  with_reducible apply hP.rest
  with_reducible assumption

theorem State.workFail_keeps {P : State → Prop} (hP : Stable P) {s : State} {a1 : Own} {a2 : Nat} (h : P s) :
    P (State.workFail s a1 a2) := by
  unfold State.workFail
  split
  · with_reducible assumption
  · with_reducible apply hP.rest
    with_reducible assumption
  · with_reducible apply State.onStep_keeps hP
    with_reducible assumption

theorem State.tellReplay_keeps {P : State → Prop} (hP : Stable P) {s : State} {a1 : Cmd} {a2 : Nat} (h : P s) :
    P (State.tellReplay s a1 a2) := by
  unfold State.tellReplay
  split
  · with_reducible assumption
  · with_reducible refine keep_ite (fun _ => ?_) (fun _ => ?_)
    · with_reducible assumption
    · extract_lets t1 t2 t3
      have h4 : P t2 := by
        unfold t2
        with_reducible apply State.onCmd_keeps hP
        with_reducible assumption
      clear_value t2 t3
      with_reducible refine keep_ite (fun _ => ?_) (fun _ => ?_)
      · with_reducible apply hP.rest
        with_reducible assumption
      · with_reducible assumption

theorem State.complete_keeps {P : State → Prop} (hP : Stable P) {s : State} {a1 : Nat} (h : P s) :
    P (State.complete s a1) := by
  unfold State.complete
  split
  · with_reducible apply State.tellReplay_keeps hP
    with_reducible apply hP.rest
    with_reducible assumption
  · with_reducible assumption

theorem State.takeAck_keeps {P : State → Prop} (hP : Stable P) {s : State} {a1 : Own} (h : P s) :
    P (State.takeAck s a1) := by
  unfold State.takeAck
  split
  · with_reducible assumption
  · extract_lets t1
    have h2 : P t1 := by
      unfold t1
      with_reducible apply State.onCmd_keeps hP
      with_reducible assumption
    clear_value t1
    split
    · with_reducible refine keep_ite (fun _ => ?_) (fun _ => ?_)
      · with_reducible apply State.complete_keeps hP
        with_reducible assumption
      · with_reducible assumption
    · with_reducible assumption
  · with_reducible apply hP.rest
    with_reducible assumption

theorem State.remoteBytes_keeps {P : State → Prop} (hP : Stable P) {s : State} {a1 : Nat} {a2 : Nat} {a3 : List Byte} (h : P s) :
    P (State.remoteBytes s a1 a2 a3) := by
  unfold State.remoteBytes
  with_reducible apply hP.rest
  with_reducible assumption

theorem State.freeHost_keeps {P : State → Prop} (hP : Stable P) {s : State} {a1 : Nat} {a2 : Nat} {a3 : Nat} (h : P s) :
    P (State.freeHost s a1 a2 a3) := by
  unfold State.freeHost
  extract_lets t1 t2
  clear_value t1 t2
  with_reducible apply State.setHlink_keeps hP
  with_reducible assumption

theorem State.pwStat_keeps {P : State → Prop} (hP : Stable P) {s : State} {a1 : Nat} {a2 : Nat} {a3 : Nat} (h : P s) :
    P (State.pwStat s a1 a2 a3) := by
  unfold State.pwStat
  with_reducible refine keep_ite (fun _ => ?_) (fun _ => ?_)
  · with_reducible assumption
  · with_reducible apply State.setF_keeps hP
    with_reducible apply State.setF_keeps hP
    with_reducible apply State.setF_keeps hP
    with_reducible assumption

theorem State.postedFail_keeps {P : State → Prop} (hP : Stable P) {s : State} {a1 : Nat} {a2 : Nat} {a3 : Nat} {a4 : Nat} (h : P s) :
    P (State.postedFail s a1 a2 a3 a4) := by
  unfold State.postedFail
  with_reducible apply State.err_keeps hP
  with_reducible apply State.pwStat_keeps hP
  with_reducible assumption

theorem State.hostAnswer_keeps {P : State → Prop} (hP : Stable P) {s : State} {a1 : Nat} {a2 : Nat} {a3 : Nat} {a4 : Nat} {a5 : Nat} {a6 : Nat} {a7 : Nat} {a8 : Nat} {a9 : List Byte} (h : P s) :
    P (State.hostAnswer s a1 a2 a3 a4 a5 a6 a7 a8 a9) := by
  unfold State.hostAnswer
  extract_lets t1 t2 t3
  have h4 : P t1 := by
    unfold t1
    with_reducible refine keep_ite (fun _ => ?_) (fun _ => ?_)
    · with_reducible apply State.freeHost_keeps hP
      with_reducible assumption
    · with_reducible assumption
  clear_value t1 t2
  have h5 : P t3 := by
    unfold t3
    with_reducible apply State.setHlink_keeps hP
    with_reducible assumption
  clear_value t3
  with_reducible refine keep_ite (fun _ => ?_) (fun _ => ?_)
  · with_reducible refine keep_ite (fun _ => ?_) (fun _ => ?_)
    · with_reducible assumption
    · with_reducible apply State.postedFail_keeps hP
      with_reducible assumption
  · with_reducible refine keep_ite (fun _ => ?_) (fun _ => ?_)
    · with_reducible refine keep_ite (fun _ => ?_) (fun _ => ?_)
      · with_reducible apply State.toHost_keeps hP
        with_reducible assumption
      · with_reducible apply State.toHost_keeps hP
        with_reducible assumption
    · with_reducible assumption

theorem State.correctWord_keeps {P : State → Prop} (hP : StableMem P) {s : State} {a1 : Nat} (h : P s) :
    P (State.correctWord s a1) := by
  unfold State.correctWord
  split
  · exact hP.synd h _ _
  · exact hP.synd (hP.put h _ _) _ _
  · exact h

theorem State.wr_keeps {P : State → Prop} (hP : StableMem P) {s : State} {a1 : Nat} {a2 : List Byte} (h : P s) :
    P (State.wr s a1 a2) := by
  unfold State.wr
  extract_lets n full bad s1 kept
  have h1 : P s1 := by
    refine keep_foldl (Q := P) h fun t w ht => ?_
    split
    · exact hP.synd ht _ _
    · split
      · exact hP.synd ht _ _
      · exact State.correctWord_keeps hP ht
  exact keep_putFold hP _ _ kept h1

theorem State.wrN_keeps {P : State → Prop} (hP : StableMem P) {s : State} {a1 : Nat} {a2 : Nat} {a3 : Nat} (h : P s) :
    P (State.wrN s a1 a2 a3) := by
  unfold State.wrN
  with_reducible apply State.wr_keeps hP
  with_reducible assumption

theorem State.f2hPut_keeps {P : State → Prop} (hP : StableMem P) {s : State} {a1 : Nat} {a2 : Msg} (h : P s) :
    (Opt P) (State.f2hPut s a1 a2) := by
  unfold State.f2hPut
  extract_lets t1 t2 t3 t4
  clear_value t1 t2 t3 t4
  with_reducible refine keep_ite (fun _ => ?_) (fun _ => ?_)
  · with_reducible apply keep_some
    with_reducible apply State.raise_keeps hP.toStable
    with_reducible apply State.wrN_keeps hP
    with_reducible apply State.wr_keeps hP
    with_reducible assumption
  · with_reducible apply keep_none

theorem State.f2hFlush_keeps {P : State → Prop} (hP : StableMem P) {s : State} {a1 : Nat} {a2 : Nat} (h : P s) :
    P (State.f2hFlush s a1 a2) := by
  induction a2 generalizing s a1
  · unfold State.f2hFlush
    with_reducible assumption
  · unfold State.f2hFlush
    rename_i ih
    split
    · with_reducible assumption
    · with_reducible refine keep_ite (fun _ => ?_) (fun _ => ?_)
      · split
        · with_reducible apply ih
          with_reducible apply hP.toStable.rest
          refine keep_of_some ‹_ = some _› ?_
          with_reducible apply State.f2hPut_keeps hP
          with_reducible assumption
        · with_reducible assumption
      · with_reducible assumption

theorem State.setQlink_keeps {P : State → Prop} (hP : Stable P) {s : State} {a1 : Nat} {a2 : QLink} (h : P s) :
    P (State.setQlink s a1 a2) := by
  unfold State.setQlink
  with_reducible apply hP.rest
  with_reducible assumption

theorem State.setPair_keeps {P : State → Prop} (hP : Stable P) {s : State} {a1 : Nat} {a2 : Nat} {a3 : Nat} {a4 : Nat} {a5 : Nat} (h : P s) :
    P (State.setPair s a1 a2 a3 a4 a5) := by
  unfold State.setPair
  with_reducible apply State.setReg_keeps hP
  with_reducible apply State.setReg_keeps hP
  with_reducible assumption

theorem State.sendFrame_keeps {P : State → Prop} (hP : Stable P) {s : State} {a1 : Nat} {a2 : Nat} (h : P s) :
    P (State.sendFrame s a1 a2) := by
  unfold State.sendFrame
  extract_lets t1 t2 t3 t4
  clear_value t1
  have h5 : P t2 := by
    unfold t2
    with_reducible apply State.setQlink_keeps hP
    with_reducible assumption
  clear_value t2
  have h6 : P t3 := by
    unfold t3
    with_reducible apply State.setPair_keeps hP
    with_reducible assumption
  clear_value t3
  have h7 : P t4 := by
    unfold t4
    with_reducible refine keep_ite (fun _ => ?_) (fun _ => ?_)
    · with_reducible assumption
    · with_reducible apply State.setPair_keeps hP
      with_reducible assumption
  clear_value t4
  with_reducible apply State.emit_keeps hP
  with_reducible assumption

theorem State.sendMgt_keeps {P : State → Prop} (hP : Stable P) {s : State} {a1 : Nat} {a2 : Nat} (h : P s) :
    P (State.sendMgt s a1 a2) := by
  induction a2 generalizing s a1
  · unfold State.sendMgt
    with_reducible assumption
  · unfold State.sendMgt
    rename_i ih
    extract_lets t1
    clear_value t1
    split
    · with_reducible assumption
    · extract_lets t2 t3 t4
      clear_value t2
      have h5 : P t3 := by
        unfold t3
        with_reducible apply State.setQlink_keeps hP
        with_reducible assumption
      clear_value t3
      have h6 : P t4 := by
        unfold t4
        with_reducible apply keep_foldl (Q := P)
        · with_reducible assumption
        · intro x7 x8 x9
          with_reducible apply State.sendFrame_keeps hP
          with_reducible assumption
      clear_value t4
      with_reducible refine keep_ite (fun _ => ?_) (fun _ => ?_)
      · with_reducible apply ih
        with_reducible apply State.emit_keeps hP
        with_reducible assumption
      · with_reducible assumption

theorem State.sendAnswers_keeps {P : State → Prop} (hP : Stable P) {s : State} {a1 : Nat} {a2 : Nat} (h : P s) :
    P (State.sendAnswers s a1 a2) := by
  induction a2 generalizing s a1
  · unfold State.sendAnswers
    with_reducible assumption
  · unfold State.sendAnswers
    rename_i ih
    extract_lets t1
    clear_value t1
    split
    · with_reducible assumption
    · extract_lets t2 t3 t4
      clear_value t2
      have h5 : P t3 := by
        unfold t3
        with_reducible apply State.setQlink_keeps hP
        with_reducible assumption
      clear_value t3
      have h6 : P t4 := by
        unfold t4
        with_reducible apply keep_foldl (Q := P)
        · with_reducible assumption
        · intro x7 x8 x9
          with_reducible apply State.sendFrame_keeps hP
          with_reducible assumption
      clear_value t4
      with_reducible refine keep_ite (fun _ => ?_) (fun _ => ?_)
      · with_reducible apply ih
        with_reducible apply State.emit_keeps hP
        with_reducible assumption
      · with_reducible assumption

theorem State.sendWaiting_keeps {P : State → Prop} (hP : Stable P) {s : State} {a1 : Nat} {a2 : Nat} (h : P s) :
    P (State.sendWaiting s a1 a2) := by
  induction a2 generalizing s with
  | zero => unfold State.sendWaiting; with_reducible assumption
  | succ n ih =>
    unfold State.sendWaiting
    extract_lets x
    clear_value x
    split
    · exact h
    · with_reducible refine keep_ite (fun _ => ?_) (fun _ => ?_)
      · generalize State.freeTid _ _ _ = o
        cases o with
        | none => exact h
        | some tid =>
          refine ih (State.emit_keeps hP (keep_foldl (Q := P) (State.setQlink_keeps hP h) fun u _ hu => ?_))
          exact State.sendFrame_keeps hP hu
      · exact h

theorem State.linkGo_keeps {P : State → Prop} (hP : Stable P) {s : State} {a1 : Nat} (h : P s) :
    P (State.linkGo s a1) := by
  unfold State.linkGo
  extract_lets t1 t2
  have h3 : P t1 := by
    unfold t1
    with_reducible apply State.sendMgt_keeps hP
    with_reducible assumption
  clear_value t1
  have h4 : P t2 := by
    unfold t2
    with_reducible apply State.sendAnswers_keeps hP
    with_reducible assumption
  clear_value t2
  with_reducible apply State.sendWaiting_keeps hP
  with_reducible assumption

theorem State.answer_keeps {P : State → Prop} (hP : Stable P) {s : State} {a1 : Nat} {a2 : Nat} {a3 : Nat} {a4 : Nat} {a5 : List Byte} {a6 : Nat} (h : P s) :
    P (State.answer s a1 a2 a3 a4 a5 a6) := by
  unfold State.answer
  extract_lets t1
  clear_value t1
  with_reducible apply State.linkGo_keeps hP
  with_reducible apply State.setQlink_keeps hP
  with_reducible assumption

theorem State.answerAsker_keeps {P : State → Prop} (hP : StableMem P) {s : State} {a1 : Asker} {a2 : Nat} {a3 : List Byte} (h : P s) :
    P (State.answerAsker s a1 a2 a3) := by
  unfold State.answerAsker
  split
  · with_reducible refine keep_ite (fun _ => ?_) (fun _ => ?_)
    · with_reducible assumption
    · with_reducible apply keep_foldl (Q := P)
      · with_reducible assumption
      · intro x1 x2 x3
        with_reducible apply State.workFail_keeps hP.toStable
        with_reducible assumption
  · with_reducible apply State.emit_keeps hP.toStable
    with_reducible assumption
  · with_reducible apply State.takeAck_keeps hP.toStable
    with_reducible refine keep_ite (fun _ => ?_) (fun _ => ?_)
    · with_reducible apply State.remoteBytes_keeps hP.toStable
      with_reducible assumption
    · with_reducible apply State.workFail_keeps hP.toStable
      with_reducible assumption
  · with_reducible apply State.hostAnswer_keeps hP.toStable
    with_reducible refine keep_ite (fun _ => ?_) (fun _ => ?_)
    · with_reducible assumption
    · with_reducible apply keep_foldl (Q := P)
      · with_reducible assumption
      · intro x4 x5 x6
        with_reducible apply State.f2hFlush_keeps hP
        with_reducible assumption
  · extract_lets t7
    clear_value t7
    with_reducible apply State.answer_keeps hP.toStable
    with_reducible assumption

theorem State.pieceServed_keeps {P : State → Prop} (hP : StableMem P) {s : State} {a1 : Nat} {a2 : Nat} {a3 : Nat} {a4 : List Byte} (h : P s) :
    P (State.pieceServed s a1 a2 a3 a4) := by
  unfold State.pieceServed
  split
  · with_reducible assumption
  · extract_lets t1 t2 t3 t4
    clear_value t1 t2 t3
    have h5 : P t4 := by
      unfold t4
      with_reducible apply State.answerAsker_keeps hP
      with_reducible apply hP.toStable.rest
      with_reducible assumption
    clear_value t4
    with_reducible refine keep_ite (fun _ => ?_) (fun _ => ?_)
    · with_reducible apply hP.toStable.rest
      with_reducible assumption
    · with_reducible apply keep_foldl (Q := P)
      · with_reducible assumption
      · intro x6 x7 x8
        with_reducible apply State.takeAck_keeps hP.toStable
        with_reducible assumption

theorem State.linkTrain_keeps {P : State → Prop} (hP : Stable P) {s : State} {a1 : Nat} (h : P s) :
    P (State.linkTrain s a1) := by
  unfold State.linkTrain
  with_reducible refine keep_ite (fun _ => ?_) (fun _ => ?_)
  · extract_lets t1 t2 t3
    clear_value t1
    have h4 : P t2 := by
      unfold t2
      with_reducible apply State.setFlag_keeps hP
      with_reducible apply State.setQlink_keeps hP
      with_reducible assumption
    clear_value t2
    have h5 : P t3 := by
      unfold t3
      with_reducible apply State.setFlag_keeps hP
      with_reducible apply State.setF_keeps hP
      with_reducible apply State.setF_keeps hP
      with_reducible assumption
    clear_value t3
    with_reducible apply State.setUnit_keeps hP
    with_reducible apply State.setF_keeps hP
    with_reducible assumption
  · with_reducible assumption

theorem State.forgetPeer_keeps {P : State → Prop} (hP : Stable P) {s : State} {a1 : Nat} (h : P s) :
    P (State.forgetPeer s a1) := by
  unfold State.forgetPeer
  extract_lets t1 t2 t3
  clear_value t1 t2 t3
  with_reducible apply hP.rest
  with_reducible assumption

theorem State.loseBytes_keeps {P : State → Prop} (hP : Stable P) {s : State} {a1 : Own} {a2 : Nat} (h : P s) :
    P (State.loseBytes s a1 a2) := by
  unfold State.loseBytes
  split
  · with_reducible apply State.onCmd_keeps hP
    with_reducible assumption
  · with_reducible assumption

theorem State.openFault_keeps {P : State → Prop} (hP : Stable P) {s : State} {a1 : Nat} {a2 : Nat} {a3 : Nat} (h : P s) :
    P (State.openFault s a1 a2 a3) := by
  unfold State.openFault
  extract_lets t1 t2 t3 t4 t5 t6 t7
  clear_value t1 t2 t3
  have h8 : P t4 := by
    unfold t4
    with_reducible apply State.err_keeps hP
    with_reducible apply State.bump_keeps hP
    with_reducible assumption
  clear_value t4
  have h9 : P t5 := by
    unfold t5
    with_reducible refine keep_ite (fun _ => ?_) (fun _ => ?_)
    · with_reducible apply State.err_keeps hP
      with_reducible assumption
    · with_reducible assumption
  clear_value t5
  have h10 : P t6 := by
    unfold t6
    with_reducible refine keep_ite (fun _ => ?_) (fun _ => ?_)
    · with_reducible apply State.bump_keeps hP
      with_reducible assumption
    · with_reducible assumption
  clear_value t6 t7
  with_reducible refine keep_ite (fun _ => ?_) (fun _ => ?_)
  · with_reducible assumption
  · with_reducible apply hP.rest
    with_reducible assumption

theorem State.countEcc_keeps {P : State → Prop} (hP : Stable P) {s : State} {a1 : Nat} {a2 : Bool} (h : P s) :
    P (State.countEcc s a1 a2) := by
  unfold State.countEcc
  split
  · with_reducible refine keep_ite (fun _ => ?_) (fun _ => ?_)
    · with_reducible apply State.err_keeps hP
      with_reducible apply State.bump_keeps hP
      with_reducible assumption
    · extract_lets t1
      have h2 : P t1 := by
        unfold t1
        with_reducible apply State.bump_keeps hP
        with_reducible assumption
      clear_value t1
      with_reducible refine keep_ite (fun _ => ?_) (fun _ => ?_)
      · with_reducible apply State.err_keeps hP
        with_reducible assumption
      · with_reducible assumption
  · extract_lets t3 t4
    clear_value t3
    have h5 : P t4 := by
      unfold t4
      with_reducible apply State.bump_keeps hP
      with_reducible assumption
    clear_value t4
    with_reducible refine keep_ite (fun _ => ?_) (fun _ => ?_)
    · with_reducible apply State.err_keeps hP
      with_reducible apply State.bump_keeps hP
      with_reducible assumption
    · with_reducible refine keep_ite (fun _ => ?_) (fun _ => ?_)
      · with_reducible apply State.err_keeps hP
        with_reducible assumption
      · with_reducible assumption
  · with_reducible assumption

theorem State.checkWord_keeps {P : State → Prop} (hP : StableMem P) {s : State} {a1 : Nat} (h : P s) :
    P (State.checkWord s a1) := by
  unfold State.checkWord
  extract_lets t1
  have h2 : ∀ y0 y1, P y1 → (P) (t1 y0 y1) := by
    unfold t1
    intro x3 x4 x5
    with_reducible refine keep_ite (fun _ => ?_) (fun _ => ?_)
    · with_reducible apply State.openFault_keeps hP.toStable
      with_reducible assumption
    · with_reducible assumption
  clear_value t1
  split
  · with_reducible assumption
  · with_reducible apply h2
    with_reducible assumption
  · with_reducible apply h2
    with_reducible apply State.countEcc_keeps hP.toStable
    with_reducible refine keep_ite (fun _ => ?_) (fun _ => ?_)
    · with_reducible apply State.poisonWord_keeps hP
      with_reducible assumption
    · with_reducible assumption
  · with_reducible apply h2
    with_reducible apply State.countEcc_keeps hP.toStable
    with_reducible refine keep_ite (fun _ => ?_) (fun _ => ?_)
    · with_reducible apply State.correctWord_keeps hP
      with_reducible assumption
    · with_reducible assumption

theorem State.putWord_keeps {P : State → Prop} (hP : StableMem P) {s : State} {a1 : Nat} {a2 : List (Option Byte)} (h : P s) :
    (Fst P) (State.putWord s a1 a2) := by
  unfold State.putWord
  extract_lets put t
  have hput : ∀ u, P u → P (put u) := by
    intro u hu
    unfold put
    generalize a2.zipIdx = l
    induction l generalizing u with
    | nil => exact hu
    | cons x l ih =>
      simp only [List.foldl_cons]
      obtain ⟨o, k⟩ := x
      cases o with
      | none => exact ih u hu
      | some b => exact ih { u with mem := memPut u.mem (a1 + k) b } (hP.put hu _ _)
  clear_value put
  have ht : P t := State.poisonWord_keeps hP h
  clear_value t
  split
  · exact keep_pair_fst h
  · split
    · exact keep_pair_fst (hP.synd (hput _ h) _ _)
    · split
      · refine keep_pair_fst ?_
        split
        · exact State.err_keeps hP.toStable (State.bump_keeps hP.toStable ht)
        · exact ht
      · exact keep_pair_fst (hput _ (State.correctWord_keeps hP h))

theorem State.putRun_keeps {P : State → Prop} (hP : StableMem P) {s : State} {a1 : Nat} {a2 : List (Option Byte)} {a3 : Nat} (h : P s) :
    (Fst P) (State.putRun s a1 a2 a3) := by
  induction a3 generalizing s a1 a2
  · unfold State.putRun
    with_reducible assumption
  · unfold State.putRun
    rename_i ih
    with_reducible refine keep_ite (fun _ => ?_) (fun _ => ?_)
    · with_reducible assumption
    · extract_lets t1 t2 t3 t4
      clear_value t1 t2
      have h5 : (Fst (P)) t3 := by
        unfold t3
        with_reducible apply State.putWord_keeps hP
        with_reducible assumption
      clear_value t3
      have h6 : (Fst (P)) t4 := by
        unfold t4
        with_reducible apply ih
        with_reducible assumption
      clear_value t4
      with_reducible assumption

theorem State.addStored_keeps {P : State → Prop} (hP : StableMem P) {s : State} {a1 : Nat} {a2 : Nat} {a3 : Nat} (h : P s) :
    (Fst P) (State.addStored s a1 a2 a3) := by
  unfold State.addStored
  extract_lets t1 t2
  clear_value t1
  have h3 : P t2 := by
    unfold t2
    with_reducible apply State.checkWord_keeps hP
    with_reducible assumption
  clear_value t2
  with_reducible refine keep_ite (fun _ => ?_) (fun _ => ?_)
  · with_reducible assumption
  · with_reducible apply keep_pair_fst
    with_reducible apply keep_fst
    with_reducible apply State.putRun_keeps hP
    with_reducible assumption

theorem State.perform_keeps {P : State → Prop} (hP : StableMem P) {s : State} {a1 : Access} (h : P s) :
    (Snd (Snd P)) (State.perform s a1) := by
  unfold State.perform
  extract_lets t1 t2 t3 t4 t5
  clear_value t1 t2
  have h6 : (Fst (P)) t3 := by
    unfold t3
    with_reducible apply State.putRun_keeps hP
    with_reducible assumption
  clear_value t3 t4
  have h7 : (Fst (P)) t5 := by
    unfold t5
    with_reducible apply keep_foldl (Q := Fst (P))
    · with_reducible assumption
    · intro x8 x9 x10
      extract_lets t11
      have h12 : (Fst (P)) t11 := by
        unfold t11
        with_reducible apply State.addStored_keeps hP
        with_reducible assumption
      clear_value t11
      with_reducible assumption
  clear_value t5
  with_reducible refine keep_ite (fun _ => ?_) (fun _ => ?_)
  · with_reducible apply keep_pair_snd
    with_reducible apply keep_pair_snd
    with_reducible apply keep_foldl (Q := P)
    · with_reducible assumption
    · intro x13 x14 x15
      with_reducible apply State.checkWord_keeps hP
      with_reducible assumption
  · with_reducible refine keep_ite (fun _ => ?_) (fun _ => ?_)
    · with_reducible apply keep_pair_snd
      with_reducible apply keep_pair_snd
      with_reducible apply keep_foldl (Q := P)
      · with_reducible assumption
      · intro x16 x17 x18
        with_reducible apply State.poisonWord_keeps hP
        with_reducible assumption
    · with_reducible refine keep_ite (fun _ => ?_) (fun _ => ?_)
      · with_reducible assumption
      · with_reducible assumption

theorem State.bedFilled_keeps {P : State → Prop} (hP : StableMem P) {s : State} {a1 : Nat} {a2 : Nat} {a3 : Own} {a4 : Bool} {a5 : Nat} {a6 : Nat} {a7 : List Byte} (h : P s) :
    P (State.bedFilled s a1 a2 a3 a4 a5 a6 a7) := by
  unfold State.bedFilled
  extract_lets t1 t2 t3 t4 t5 t6
  clear_value t1 t2
  have h7 : P t3 := by
    unfold t3
    with_reducible apply hP.toStable.rest
    with_reducible assumption
  clear_value t3
  have h8 : P t4 := by
    unfold t4
    with_reducible apply State.workFail_keeps hP.toStable
    with_reducible assumption
  clear_value t4
  have h9 : P t5 := by
    unfold t5
    with_reducible apply keep_snd
    with_reducible apply keep_snd
    with_reducible apply State.perform_keeps hP
    with_reducible assumption
  clear_value t5 t6
  with_reducible refine keep_ite (fun _ => ?_) (fun _ => ?_)
  · split
    · with_reducible apply State.onStep_keeps hP.toStable
      with_reducible assumption
    · with_reducible assumption
  · with_reducible refine keep_ite (fun _ => ?_) (fun _ => ?_)
    · with_reducible assumption
    · with_reducible apply hP.toStable.rest
      with_reducible assumption

theorem State.putLine_keeps {P : State → Prop} (hP : Stable P) {s : State} {a1 : YLine} (h : P s) :
    P (State.putLine s a1) := by
  unfold State.putLine
  with_reducible apply hP.rest
  with_reducible assumption

theorem State.allocLine_keeps {P : State → Prop} (hP : StableMem P) {s : State} {a1 : YLine} (h : P s) :
    (Snd P) (State.allocLine s a1) := by
  unfold State.allocLine
  extract_lets t1 t2
  clear_value t1 t2
  with_reducible refine keep_ite (fun _ => ?_) (fun _ => ?_)
  · with_reducible assumption
  · with_reducible refine keep_ite (fun _ => ?_) (fun _ => ?_)
    · with_reducible apply keep_pair_snd
      with_reducible apply State.putLine_keeps hP.toStable
      with_reducible assumption
    · split
      · with_reducible apply keep_pair_snd
        with_reducible apply State.putLine_keeps hP.toStable
        with_reducible apply State.lineOut_keeps hP
        with_reducible assumption
      · with_reducible assumption

theorem State.settleBrick_keeps {P : State → Prop} (hP : StableMem P) {s : State} {a1 : Nat} (h : P s) :
    P (State.settleBrick s a1) := by
  unfold State.settleBrick
  with_reducible refine keep_ite (fun _ => ?_) (fun _ => ?_)
  · extract_lets t1 t2
    have h3 : P t1 := by
      unfold t1
      with_reducible apply State.clearBrick_keeps hP
      with_reducible assumption
    clear_value t1 t2
    with_reducible apply hP.toStable.rest
    with_reducible assumption
  · with_reducible assumption

theorem State.settle_keeps {P : State → Prop} (hP : StableMem P) {s : State} {a1 : Nat} (h : P s) :
    P (State.settle s a1) := by
  unfold State.settle
  split
  · with_reducible apply State.settleBrick_keeps hP
    with_reducible assumption
  · with_reducible assumption

theorem State.bumpW_keeps {P : State → Prop} (hP : Stable P) {s : State} {a1 : Fld} {a2 : Nat} {a3 : Nat} {a4 : Nat} (h : P s) :
    P (State.bumpW s a1 a2 a3 a4) := by
  unfold State.bumpW
  with_reducible apply State.setF_keeps hP
  with_reducible assumption

theorem State.checkLine_keeps {P : State → Prop} (hP : StableMem P) {s : State} {a1 : YLine} {a2 : List Nat} (h : P s) :
    P (State.checkLine s a1 a2) := by
  unfold State.checkLine
  with_reducible apply keep_foldl (Q := P)
  · with_reducible assumption
  · intro x1 x2 x3
    split
    · with_reducible assumption
    · with_reducible refine keep_ite (fun _ => ?_) (fun _ => ?_)
      · with_reducible assumption
      · with_reducible refine keep_ite (fun _ => ?_) (fun _ => ?_)
        · with_reducible refine keep_ite (fun _ => ?_) (fun _ => ?_)
          · with_reducible apply State.lineOut_keeps hP
            with_reducible assumption
          · with_reducible apply State.slabEcc_keeps hP.toStable
            with_reducible apply State.lineOut_keeps hP
            with_reducible assumption
        · extract_lets t4 t5
          clear_value t4 t5
          with_reducible apply State.slabEcc_keeps hP.toStable
          with_reducible apply State.putLine_keeps hP.toStable
          with_reducible assumption

theorem State.lineRead_keeps {P : State → Prop} (hP : StableMem P) {s : State} {a1 : Nat} {a2 : Nat} {a3 : List Nat} {a4 : Bool} (h : P s) :
    P (State.lineRead s a1 a2 a3 a4) := by
  unfold State.lineRead
  extract_lets t1 t2 t3
  clear_value t1 t2
  have h4 : P t3 := by
    unfold t3
    with_reducible apply State.bumpW_keeps hP.toStable
    with_reducible assumption
  clear_value t3
  split
  · extract_lets t5 t6
    have h7 : P t5 := by
      unfold t5
      with_reducible apply State.putLine_keeps hP.toStable
      with_reducible apply State.bumpW_keeps hP.toStable
      with_reducible assumption
    clear_value t5
    have h8 : P t6 := by
      unfold t6
      with_reducible refine keep_ite (fun _ => ?_) (fun _ => ?_)
      · with_reducible apply State.bumpW_keeps hP.toStable
        with_reducible assumption
      · with_reducible assumption
    clear_value t6
    with_reducible refine keep_ite (fun _ => ?_) (fun _ => ?_)
    · with_reducible assumption
    · with_reducible apply State.checkLine_keeps hP
      with_reducible assumption
  · with_reducible refine keep_ite (fun _ => ?_) (fun _ => ?_)
    · with_reducible assumption
    · with_reducible apply keep_snd
      with_reducible apply State.allocLine_keeps hP
      with_reducible assumption

theorem State.lineWrite_keeps {P : State → Prop} (hP : StableMem P) {s : State} {a1 : Nat} {a2 : Nat} {a3 : Bool} {a4 : List Nat} {a5 : List Nat} (h : P s) :
    P (State.lineWrite s a1 a2 a3 a4 a5) := by
  unfold State.lineWrite
  extract_lets t1
  clear_value t1
  split
  · extract_lets t2
    have h3 : P t2 := by
      unfold t2
      with_reducible refine keep_ite (fun _ => ?_) (fun _ => ?_)
      · with_reducible assumption
      · with_reducible apply State.checkLine_keeps hP
        with_reducible assumption
    clear_value t2
    split
    · with_reducible apply State.putLine_keeps hP.toStable
      with_reducible assumption
    · with_reducible assumption
  · with_reducible refine keep_ite (fun _ => ?_) (fun _ => ?_)
    · with_reducible assumption
    · with_reducible apply keep_snd
      with_reducible apply State.allocLine_keeps hP
      with_reducible assumption

theorem State.dropLine_keeps {P : State → Prop} (hP : StableMem P) {s : State} {a1 : Nat} (h : P s) :
    P (State.dropLine s a1) := by
  unfold State.dropLine
  split
  · with_reducible apply State.lineOut_keeps hP
    with_reducible assumption
  · with_reducible assumption

theorem State.passLines_keeps {P : State → Prop} (hP : StableMem P) {s : State} {a1 : Nat} {a2 : Nat} {a3 : Nat} {a4 : Nat} (h : P s) :
    P (State.passLines s a1 a2 a3 a4) := by
  unfold State.passLines
  extract_lets t1
  clear_value t1
  with_reducible apply keep_foldl (Q := P)
  · with_reducible assumption
  · intro x2 x3 x4
    extract_lets t5
    clear_value t5
    with_reducible refine keep_ite (fun _ => ?_) (fun _ => ?_)
    · with_reducible apply State.lineRead_keeps hP
      with_reducible assumption
    · with_reducible refine keep_ite (fun _ => ?_) (fun _ => ?_)
      · with_reducible apply State.lineWrite_keeps hP
        with_reducible assumption
      · with_reducible apply State.dropLine_keeps hP
        with_reducible assumption

theorem State.issueTicket_keeps {P : State → Prop} (hP : Stable P) {s : State} {a1 : Asker} {a2 : Access} {a3 : Option Nat} {a4 : Nat} {a5 : Nat} {a6 : List (Nat × Byte)} (h : P s) :
    P (State.issueTicket s a1 a2 a3 a4 a5 a6) := by
  unfold State.issueTicket
  extract_lets t1 t2 t3
  clear_value t1 t2
  have h4 : P t3 := by
    unfold t3
    with_reducible apply hP.rest
    with_reducible assumption
  clear_value t3
  with_reducible apply keep_foldl (Q := P)
  · with_reducible assumption
  · intro x5 x6 x7
    with_reducible apply State.oweAck_keeps hP
    with_reducible assumption

theorem State.submitBed_keeps {P : State → Prop} (hP : StableMem P) {s : State} {a1 : Asker} {a2 : Access} {a3 : Option Nat} {a4 : Nat} {a5 : Nat} (h : P s) :
    P (State.submitBed s a1 a2 a3 a4 a5) := by
  unfold State.submitBed
  with_reducible refine keep_ite (fun _ => ?_) (fun _ => ?_)
  · extract_lets t1
    clear_value t1
    with_reducible apply State.issueTicket_keeps hP.toStable
    with_reducible apply State.setBrick_keeps hP.toStable
    with_reducible assumption
  · extract_lets t2
    have h3 : (Snd (Snd (P))) t2 := by
      unfold t2
      with_reducible apply State.perform_keeps hP
      with_reducible assumption
    clear_value t2
    with_reducible apply State.answerAsker_keeps hP
    with_reducible assumption

theorem State.usesBadLatch_keeps {P : State → Prop} (hP : Stable P) {s : State} {a1 : Nat} {a2 : Pass} (h : P s) :
    P (State.usesBadLatch s a1 a2) := by
  unfold State.usesBadLatch
  with_reducible refine keep_ite (fun _ => ?_) (fun _ => ?_)
  · with_reducible apply State.workFail_keeps hP
    with_reducible assumption
  · with_reducible assumption

theorem State.setRun_keeps {P : State → Prop} (hP : Stable P) {s : State} {a1 : Nat} {a2 : Option Run} (h : P s) :
    P (State.setRun s a1 a2) := by
  unfold State.setRun
  with_reducible apply hP.rest
  with_reducible assumption

theorem State.setBankWork_keeps {P : State → Prop} (hP : Stable P) {s : State} {a1 : Nat} {a2 : List BWork} (h : P s) :
    P (State.setBankWork s a1 a2) := by
  unfold State.setBankWork
  with_reducible apply hP.rest
  with_reducible assumption

theorem State.activate_keeps {P : State → Prop} (hP : Stable P) {s : State} {a1 : Nat} (h : P s) :
    P (State.activate s a1) := by
  unfold State.activate
  split
  · with_reducible refine keep_ite (fun _ => ?_) (fun _ => ?_)
    · extract_lets t1 t2
      have h3 : P t1 := by
        unfold t1
        with_reducible apply State.usesBadLatch_keeps hP
        with_reducible apply State.setRun_keeps hP
        with_reducible apply State.setBankWork_keeps hP
        with_reducible assumption
      clear_value t1 t2
      with_reducible apply hP.rest
      with_reducible assumption
    · with_reducible assumption
  · with_reducible assumption

theorem State.reach_keeps {P : State → Prop} (hP : StableMem P) {s : State} {a1 : Nat} {a2 : Access} (h : P s) :
    (Snd P) (State.reach s a1 a2) := by
  unfold State.reach
  extract_lets t1 t2 t3 t4
  clear_value t1 t2
  have h5 : P t3 := by
    unfold t3
    with_reducible apply State.activate_keeps hP.toStable
    with_reducible assumption
  clear_value t3
  have h6 : (Snd (Snd (P))) t4 := by
    unfold t4
    with_reducible apply State.perform_keeps hP
    with_reducible assumption
  clear_value t4
  with_reducible refine keep_ite (fun _ => ?_) (fun _ => ?_)
  · with_reducible assumption
  · with_reducible refine keep_ite (fun _ => ?_) (fun _ => ?_)
    · with_reducible apply keep_pair_snd
      with_reducible apply hP.toStable.rest
      with_reducible assumption
    · split
      · extract_lets t7
        clear_value t7
        with_reducible apply keep_pair_snd
        with_reducible apply State.setRun_keeps hP.toStable
        with_reducible assumption
      · with_reducible assumption

theorem State.submit_keeps {P : State → Prop} (hP : StableMem P) {s : State} {a1 : Asker} {a2 : Access} {a3 : Option Nat} (h : P s) :
    P (State.submit s a1 a2 a3) := by
  unfold State.submit
  with_reducible refine keep_ite (fun _ => ?_) (fun _ => ?_)
  · split
    · with_reducible apply State.submitBed_keeps hP
      with_reducible assumption
    · extract_lets t1
      have h2 : (Snd (Snd (P))) t1 := by
        unfold t1
        with_reducible apply State.perform_keeps hP
        with_reducible assumption
      clear_value t1
      with_reducible apply State.answerAsker_keeps hP
      with_reducible assumption
  · extract_lets t3 t4
    clear_value t3
    have h5 : (Fst (P)) t4 := by
      unfold t4
      with_reducible apply keep_foldl (Q := Fst (P))
      · with_reducible assumption
      · intro x6 x7 x8
        split
        · with_reducible apply keep_pair_fst
          refine keep_of_pair ‹_ = (_, _)› ?_
          with_reducible apply State.reach_keeps hP
          with_reducible assumption
        · with_reducible apply keep_pair_fst
          refine keep_of_pair ‹_ = (_, _)› ?_
          with_reducible apply State.reach_keeps hP
          with_reducible assumption
    clear_value t4
    with_reducible refine keep_ite (fun _ => ?_) (fun _ => ?_)
    · with_reducible apply State.answerAsker_keeps hP
      with_reducible assumption
    · with_reducible apply State.issueTicket_keeps hP.toStable
      with_reducible assumption

theorem State.mergeOut_keeps {P : State → Prop} (hP : StableMem P) {s : State} {a1 : MEntry} (h : P s) :
    P (State.mergeOut s a1) := by
  unfold State.mergeOut
  extract_lets t1 t2
  clear_value t1
  have h3 : P t2 := by
    unfold t2
    with_reducible apply hP.toStable.rest
    with_reducible assumption
  clear_value t2
  with_reducible apply State.submit_keeps hP
  with_reducible assumption

theorem State.mergeOutRange_keeps {P : State → Prop} (hP : StableMem P) {s : State} {a1 : Nat} {a2 : Nat} (h : P s) :
    P (State.mergeOutRange s a1 a2) := by
  unfold State.mergeOutRange
  with_reducible apply keep_foldl (Q := P)
  · with_reducible assumption
  · intro x1 x2 x3
    with_reducible apply State.mergeOut_keeps hP
    with_reducible assumption

theorem State.asServed_keeps {P : State → Prop} (hP : StableMem P) {s : State} (h : P s) :
    P (State.asServed s) := by
  unfold State.asServed
  extract_lets t1
  have h2 : ∀ y0 y1, P y0 → (P) (t1 y0 y1) := by
    unfold t1
    intro x3 x4 x5
    with_reducible refine keep_ite (fun _ => ?_) (fun _ => ?_)
    · with_reducible assumption
    · with_reducible apply keep_snd
      with_reducible apply keep_snd
      with_reducible apply State.perform_keeps hP
      with_reducible assumption
  clear_value t1
  with_reducible apply keep_foldl (Q := P)
  · with_reducible apply keep_foldl (Q := P)
    · with_reducible assumption
    · intro x6 x7 x8
      with_reducible apply keep_foldl (Q := P)
      · with_reducible assumption
      · with_reducible assumption
  · intro x9 x10 x11
    with_reducible apply h2
    with_reducible assumption

theorem State.readB_keeps {P : State → Prop} (hP : StableMem P) {s : State} {a1 : Nat} {a2 : Nat} (h : P s) :
    (Snd (Snd P)) (State.readB s a1 a2) := by
  unfold State.readB
  extract_lets t1 t2
  have h3 : P t1 := by
    unfold t1
    with_reducible apply State.asServed_keeps hP
    with_reducible assumption
  clear_value t1 t2
  with_reducible apply keep_pair_snd
  with_reducible apply keep_pair_snd
  with_reducible apply keep_foldl (Q := P)
  · with_reducible assumption
  · intro x4 x5 x6
    with_reducible apply State.checkWord_keeps hP
    with_reducible assumption

theorem State.mergeIn_keeps {P : State → Prop} (hP : StableMem P) {s : State} {a1 : Own} {a2 : Nat} {a3 : List Byte} (h : P s) :
    P (State.mergeIn s a1 a2 a3) := by
  unfold State.mergeIn
  with_reducible apply keep_foldl (Q := P)
  · with_reducible assumption
  · intro x1 x2 x3
    extract_lets t4 t5 t6 t7 t8
    clear_value t4 t5 t6
    have h9 : P t7 := by
      unfold t7
      with_reducible refine keep_ite (fun _ => ?_) (fun _ => ?_)
      · with_reducible assumption
      · split
        · with_reducible apply State.mergeOut_keeps hP
          with_reducible assumption
        · with_reducible assumption
    clear_value t7 t8
    split
    · with_reducible apply hP.toStable.rest
      with_reducible assumption
    · with_reducible apply hP.toStable.rest
      with_reducible assumption

theorem State.addB_keeps {P : State → Prop} (hP : StableMem P) {s : State} {a1 : Asker} {a2 : Nat} {a3 : Nat} {a4 : List Byte} {a5 : Option Nat} (h : P s) :
    P (State.addB s a1 a2 a3 a4 a5) := by
  unfold State.addB
  extract_lets t1
  clear_value t1
  split
  · with_reducible refine keep_ite (fun _ => ?_) (fun _ => ?_)
    · with_reducible apply State.submit_keeps hP
      with_reducible apply State.mergeOutRange_keeps hP
      with_reducible assumption
    · with_reducible apply keep_foldl (Q := P)
      · with_reducible assumption
      · intro x2 x3 x4
        extract_lets t5 t6 t7 t8
        clear_value t5 t6
        have h9 : P t7 := by
          unfold t7
          with_reducible apply State.activate_keeps hP.toStable
          with_reducible assumption
        clear_value t7
        have h10 : (Snd (Snd (P))) t8 := by
          unfold t8
          with_reducible apply State.readB_keeps hP
          with_reducible assumption
        clear_value t8
        with_reducible refine keep_ite (fun _ => ?_) (fun _ => ?_)
        · with_reducible apply State.submit_keeps hP
          with_reducible apply State.mergeOutRange_keeps hP
          with_reducible assumption
        · with_reducible refine keep_ite (fun _ => ?_) (fun _ => ?_)
          · with_reducible apply State.workFail_keeps hP.toStable
            with_reducible assumption
          · with_reducible apply State.mergeIn_keeps hP
            with_reducible assumption
  · with_reducible apply State.submit_keeps hP
    with_reducible apply State.mergeOutRange_keeps hP
    with_reducible assumption

theorem State.serveLocal_keeps {P : State → Prop} (hP : StableMem P) {s : State} {a1 : YReq} (h : P s) :
    P (State.serveLocal s a1) := by
  unfold State.serveLocal
  extract_lets t1 t2 t3 t4 t5 t6 t7 t8
  clear_value t1 t2
  have h9 : P t3 := by
    unfold t3
    with_reducible apply State.settle_keeps hP
    with_reducible assumption
  clear_value t3 t4
  have h10 : P t5 := by
    unfold t5
    with_reducible refine keep_ite (fun _ => ?_) (fun _ => ?_)
    · with_reducible apply State.passLines_keeps hP
      with_reducible assumption
    · with_reducible assumption
  clear_value t5
  have h11 : P t6 := by
    unfold t6
    with_reducible refine keep_ite (fun _ => ?_) (fun _ => ?_)
    · with_reducible apply State.mergeOutRange_keeps hP
      with_reducible assumption
    · with_reducible assumption
  clear_value t6
  have h12 : (Snd (Snd (P))) t7 := by
    unfold t7
    with_reducible apply State.perform_keeps hP
    with_reducible assumption
  clear_value t7 t8
  with_reducible refine keep_ite (fun _ => ?_) (fun _ => ?_)
  · with_reducible apply State.answerAsker_keeps hP
    with_reducible assumption
  · split
    · with_reducible refine keep_ite (fun _ => ?_) (fun _ => ?_)
      · with_reducible apply State.addB_keeps hP
        with_reducible assumption
      · with_reducible refine keep_ite (fun _ => ?_) (fun _ => ?_)
        · with_reducible apply State.answerAsker_keeps hP
          with_reducible assumption
        · with_reducible apply State.submit_keeps hP
          with_reducible assumption
    · with_reducible apply State.answerAsker_keeps hP
      with_reducible assumption

theorem State.takeFare_keeps {P : State → Prop} (hP : Stable P) {s : State} {a1 : Nat} {a2 : Nat} {a3 : Nat} (h : P s) :
    P (State.takeFare s a1 a2 a3) := by
  unfold State.takeFare
  extract_lets t1
  clear_value t1
  with_reducible apply State.setBucket_keeps hP
  with_reducible assumption

theorem State.raiseMax_keeps {P : State → Prop} (hP : Stable P) {s : State} {a1 : Fld} {a2 : Nat} {a3 : Nat} {a4 : Nat} (h : P s) :
    P (State.raiseMax s a1 a2 a3 a4) := by
  unfold State.raiseMax
  with_reducible apply State.setF_keeps hP
  with_reducible assumption

theorem State.placeRemote_keeps {P : State → Prop} (hP : Stable P) {s : State} {a1 : QMsg} (h : P s) :
    (Snd P) (State.placeRemote s a1) := by
  unfold State.placeRemote
  split
  · with_reducible assumption
  · with_reducible apply keep_pair_snd
    with_reducible apply hP.rest
    with_reducible assumption
  · extract_lets t1
    clear_value t1
    with_reducible apply keep_pair_snd
    with_reducible apply State.sendWaiting_keeps hP
    with_reducible apply State.setQlink_keeps hP
    with_reducible assumption

theorem State.sendRemote_keeps {P : State → Prop} (hP : Stable P) {s : State} {a1 : QMsg} (h : P s) :
    (Snd P) (State.sendRemote s a1) := by
  unfold State.sendRemote
  split
  · with_reducible assumption
  · with_reducible refine keep_ite (fun _ => ?_) (fun _ => ?_)
    · with_reducible apply keep_pair_snd
      extract_lets t1 t2
      have h3 : P t1 := by
        unfold t1
        with_reducible apply State.bump_keeps hP
        with_reducible assumption
      clear_value t1 t2
      with_reducible apply hP.rest
      with_reducible assumption
    · with_reducible apply State.placeRemote_keeps hP
      with_reducible apply State.takeFare_keeps hP
      with_reducible assumption

theorem State.dropFills_keeps {P : State → Prop} (hP : Stable P) {s : State} {a1 : QMsg → Bool} {a2 : Bool} (h : P s) :
    P (State.dropFills s a1 a2) := by
  unfold State.dropFills
  extract_lets t1 t2
  clear_value t1 t2
  with_reducible apply hP.rest
  with_reducible assumption

theorem State.forgetCopies_keeps {P : State → Prop} (hP : StableMem P) {s : State} {a1 : Nat} {a2 : Nat} (h : P s) :
    P (State.forgetCopies s a1 a2) := by
  unfold State.forgetCopies
  with_reducible apply State.dropFills_keeps hP.toStable
  with_reducible apply keep_foldl (Q := P)
  · with_reducible assumption
  · intro x1 x2 x3
    with_reducible apply State.dropLine_keeps hP
    with_reducible assumption

theorem State.serveRemote_keeps {P : State → Prop} (hP : StableMem P) {s : State} {a1 : YReq} (h : P s) :
    P (State.serveRemote s a1) := by
  unfold State.serveRemote
  extract_lets t1 t2 t3 t4 t5 t6 t7 t8
  clear_value t1 t2
  have h9 : P t3 := by
    unfold t3
    with_reducible apply State.lineRead_keeps hP
    with_reducible assumption
  clear_value t3 t4 t5 t6 t7 t8
  with_reducible refine keep_ite (fun _ => ?_) (fun _ => ?_)
  · split
    · with_reducible apply State.answerAsker_keeps hP
      with_reducible assumption
    · with_reducible refine keep_ite (fun _ => ?_) (fun _ => ?_)
      · with_reducible apply hP.toStable.rest
        with_reducible assumption
      · split
        · refine keep_of_pair ‹_ = (_, _)› ?_
          with_reducible apply State.sendRemote_keeps hP.toStable
          with_reducible assumption
        · with_reducible apply State.answerAsker_keeps hP
          refine keep_of_pair ‹_ = (_, _)› ?_
          with_reducible apply State.sendRemote_keeps hP.toStable
          with_reducible assumption
  · split
    · refine keep_of_pair ‹_ = (_, _)› ?_
      with_reducible apply State.sendRemote_keeps hP.toStable
      with_reducible apply State.forgetCopies_keeps hP
      with_reducible assumption
    · with_reducible apply State.answerAsker_keeps hP
      refine keep_of_pair ‹_ = (_, _)› ?_
      with_reducible apply State.sendRemote_keeps hP.toStable
      with_reducible apply State.forgetCopies_keeps hP
      with_reducible assumption

theorem State.grantReq_keeps {P : State → Prop} (hP : StableMem P) {s : State} {a1 : YReq} (h : P s) :
    P (State.grantReq s a1) := by
  unfold State.grantReq
  extract_lets t1 t2 t3 t4
  have h5 : P t2 := by
    unfold t2
    with_reducible apply State.raiseMax_keeps hP.toStable
    with_reducible apply State.raiseMax_keeps hP.toStable
    with_reducible assumption
  clear_value t2
  have h6 : P t3 := by
    unfold t3
    with_reducible refine keep_ite (fun _ => ?_) (fun _ => ?_)
    · with_reducible assumption
    · with_reducible apply State.takeFare_keeps hP.toStable
      with_reducible assumption
  clear_value t3
  have h7 : P t4 := by
    unfold t4
    with_reducible refine keep_ite (fun _ => ?_) (fun _ => ?_)
    · with_reducible assumption
    · with_reducible apply State.takeFare_keeps hP.toStable
      with_reducible assumption
  clear_value t4
  with_reducible refine keep_ite (fun _ => ?_) (fun _ => ?_)
  · with_reducible apply State.serveLocal_keeps hP
    with_reducible apply State.takeFare_keeps hP.toStable
    with_reducible assumption
  · with_reducible refine keep_ite (fun _ => ?_) (fun _ => ?_)
    · with_reducible apply State.serveLocal_keeps hP
      with_reducible assumption
    · with_reducible apply State.serveRemote_keeps hP
      with_reducible assumption

theorem State.yardGo_keeps {P : State → Prop} (hP : StableMem P) {s : State} {a1 : Nat} {a2 : Nat} (h : P s) :
    P (State.yardGo s a1 a2) := by
  induction a2 generalizing s a1
  · unfold State.yardGo
    with_reducible assumption
  · unfold State.yardGo
    rename_i ih
    extract_lets t1 t2
    clear_value t1 t2
    split
    · with_reducible assumption
    · extract_lets t3 t4
      clear_value t3 t4
      split
      · with_reducible assumption
      · extract_lets t5
        have h6 : P t5 := by
          unfold t5
          with_reducible apply hP.toStable.rest
          with_reducible assumption
        clear_value t5
        with_reducible apply ih
        with_reducible apply State.grantReq_keeps hP
        with_reducible assumption

theorem State.answerUse_keeps {P : State → Prop} (hP : StableMem P) {s : State} {a1 : QMsg} {a2 : Nat} {a3 : List Byte} (h : P s) :
    P (State.answerUse s a1 a2 a3) := by
  unfold State.answerUse
  split
  · extract_lets t1
    have h2 : P t1 := by
      unfold t1
      with_reducible apply State.answerAsker_keeps hP
      with_reducible assumption
    clear_value t1
    with_reducible apply keep_foldl (Q := P)
    · with_reducible assumption
    · intro x3 x4 x5
      with_reducible apply State.takeAck_keeps hP.toStable
      with_reducible refine keep_ite (fun _ => ?_) (fun _ => ?_)
      · with_reducible assumption
      · with_reducible apply State.loseBytes_keeps hP.toStable
        with_reducible assumption
  · with_reducible apply State.takeAck_keeps hP.toStable
    with_reducible refine keep_ite (fun _ => ?_) (fun _ => ?_)
    · with_reducible apply State.remoteBytes_keeps hP.toStable
      with_reducible assumption
    · with_reducible apply State.workFail_keeps hP.toStable
      with_reducible assumption
  · with_reducible apply State.takeAck_keeps hP.toStable
    with_reducible refine keep_ite (fun _ => ?_) (fun _ => ?_)
    · with_reducible apply State.remoteBytes_keeps hP.toStable
      with_reducible assumption
    · with_reducible apply State.workFail_keeps hP.toStable
      with_reducible assumption
  · with_reducible apply State.takeAck_keeps hP.toStable
    with_reducible apply State.bedFilled_keeps hP
    with_reducible assumption
  · extract_lets t6 t7
    have h8 : P t6 := by
      unfold t6
      with_reducible apply keep_foldl (Q := P)
      · with_reducible assumption
      · intro x9 x10 x11
        with_reducible apply State.answerAsker_keeps hP
        with_reducible assumption
    clear_value t6
    have h12 : P t7 := by
      unfold t7
      with_reducible refine keep_ite (fun _ => ?_) (fun _ => ?_)
      · with_reducible apply keep_snd
        with_reducible apply State.allocLine_keeps hP
        with_reducible assumption
      · with_reducible assumption
    clear_value t7
    with_reducible apply State.yardGo_keeps hP
    with_reducible assumption
  · with_reducible apply State.hostAnswer_keeps hP.toStable
    with_reducible assumption

theorem resend_keeps {P : State → Prop} (hP : Stable P) {a0 : State → QMsg → Nat × State} {a1 : List QMsg} {s : State} (h0 : ∀ x0 x1, P x0 → (Snd P) (a0 x0 x1)) (h : P s) :
    (Snd P) (resend a0 a1 s) := by
  unfold resend
  with_reducible apply keep_foldl (Q := Snd (P))
  · with_reducible assumption
  · intro x1 x2 x3
    split
    · with_reducible apply keep_pair_snd
      refine keep_of_pair ‹_ = (_, _)› ?_
      with_reducible apply h0
      with_reducible assumption
    · with_reducible apply keep_pair_snd
      refine keep_of_pair ‹_ = (_, _)› ?_
      with_reducible apply h0
      with_reducible assumption

theorem State.goAgain_keeps {P : State → Prop} (hP : StableMem P) {s : State} {a1 : State → QMsg → Nat × State} {a2 : List QMsg} (h : P s) (h1 : ∀ x0 x1, P x0 → (Snd P) (a1 x0 x1)) :
    P (State.goAgain s a1 a2) := by
  unfold State.goAgain
  extract_lets t1
  have h2 : (Snd (P)) t1 := by
    unfold t1
    with_reducible apply resend_keeps hP.toStable
    · with_reducible assumption
    · with_reducible assumption
  clear_value t1
  with_reducible apply keep_foldl (Q := P)
  · with_reducible assumption
  · intro x3 x4 x5
    with_reducible apply State.answerUse_keeps hP
    with_reducible assumption

theorem State.goHeld_keeps {P : State → Prop} (hP : StableMem P) {s : State} (h : P s) :
    P (State.goHeld s) := by
  unfold State.goHeld
  with_reducible apply State.goAgain_keeps hP
  · with_reducible apply hP.toStable.rest
    with_reducible assumption
  · intro x1 x2 x3
    with_reducible apply State.placeRemote_keeps hP.toStable
    with_reducible assumption

theorem State.linkDown_keeps {P : State → Prop} (hP : StableMem P) {s : State} {a1 : Nat} {a2 : Nat} (h : P s) :
    P (State.linkDown s a1 a2) := by
  unfold State.linkDown
  extract_lets t1 t2 t3 t4 t5 t6 t7 t8 t9
  clear_value t1
  have h10 : P t2 := by
    unfold t2
    with_reducible apply State.setF_keeps hP.toStable
    with_reducible apply State.setF_keeps hP.toStable
    with_reducible apply State.setF_keeps hP.toStable
    with_reducible assumption
  clear_value t2
  have h11 : P t3 := by
    unfold t3
    with_reducible apply State.setFlag_keeps hP.toStable
    with_reducible apply State.setReg_keeps hP.toStable
    with_reducible apply State.setFlag_keeps hP.toStable
    with_reducible assumption
  clear_value t3
  have h12 : P t4 := by
    unfold t4
    with_reducible apply keep_foldl (Q := P)
    · with_reducible assumption
    · intro x13 x14 x15
      with_reducible apply State.setReg_keeps hP.toStable
      with_reducible assumption
  clear_value t4
  have h16 : P t5 := by
    unfold t5
    with_reducible apply State.setQlink_keeps hP.toStable
    with_reducible apply State.setPair_keeps hP.toStable
    with_reducible assumption
  clear_value t5 t6
  have h17 : P t7 := by
    unfold t7
    with_reducible apply hP.toStable.rest
    with_reducible assumption
  clear_value t7
  have h18 : P t8 := by
    unfold t8
    with_reducible apply State.forgetPeer_keeps hP.toStable
    with_reducible apply State.err_keeps hP.toStable
    with_reducible apply State.setUnit_keeps hP.toStable
    with_reducible assumption
  clear_value t8
  have h19 : P t9 := by
    unfold t9
    with_reducible apply keep_foldl (Q := P)
    · with_reducible assumption
    · intro x20 x21 x22
      with_reducible apply State.answerUse_keeps hP
      with_reducible assumption
  clear_value t9
  with_reducible apply State.goHeld_keeps hP
  with_reducible apply State.goAgain_keeps hP
  · with_reducible assumption
  · intro x23 x24 x25
    with_reducible apply State.placeRemote_keeps hP.toStable
    with_reducible assumption

theorem State.countLoop_keeps {P : State → Prop} (hP : Stable P) {s : State} {a1 : Nat} (h : P s) :
    P (State.countLoop s a1) := by
  unfold State.countLoop
  extract_lets t1 t2 t3 t4
  clear_value t1 t2 t3
  have h5 : P t4 := by
    unfold t4
    with_reducible apply hP.rest
    with_reducible assumption
  clear_value t4
  with_reducible refine keep_ite (fun _ => ?_) (fun _ => ?_)
  · with_reducible apply State.setF_keeps hP
    with_reducible assumption
  · with_reducible apply State.bump_keeps hP
    with_reducible assumption

theorem State.dropCopies_keeps {P : State → Prop} (hP : Stable P) {s : State} {a1 : Nat} (h : P s) :
    P (State.dropCopies s a1) := by
  exact hP.clr h _

theorem State.setFwFlags_keeps {P : State → Prop} (hP : StableMem P) {s : State} {a1 : Nat} {a2 : Nat} (h : P s) :
    P (State.setFwFlags s a1 a2) := by
  unfold State.setFwFlags
  extract_lets t1 t2 t3
  have h4 : P t1 := by
    unfold t1
    with_reducible apply State.setF_keeps hP.toStable
    with_reducible assumption
  clear_value t1
  have h5 : P t2 := by
    unfold t2
    with_reducible refine keep_ite (fun _ => ?_) (fun _ => ?_)
    · with_reducible assumption
    · with_reducible apply State.wrN_keeps hP
      with_reducible assumption
  clear_value t2
  have h6 : P t3 := by
    unfold t3
    with_reducible refine keep_ite (fun _ => ?_) (fun _ => ?_)
    · with_reducible assumption
    · with_reducible apply State.wrN_keeps hP
      with_reducible assumption
  clear_value t3
  with_reducible refine keep_ite (fun _ => ?_) (fun _ => ?_)
  · with_reducible assumption
  · with_reducible refine keep_ite (fun _ => ?_) (fun _ => ?_)
    · with_reducible apply State.raise_keeps hP.toStable
      with_reducible assumption
    · with_reducible assumption

theorem State.fwFlagAll_keeps {P : State → Prop} (hP : StableMem P) {s : State} {a1 : Nat} {a2 : Bool} (h : P s) :
    P (State.fwFlagAll s a1 a2) := by
  unfold State.fwFlagAll
  with_reducible apply keep_foldl (Q := P)
  · with_reducible assumption
  · intro x1 x2 x3
    with_reducible apply State.setFwFlags_keeps hP
    with_reducible assumption

theorem State.restartCore_keeps {P : State → Prop} (hP : StableMem P) {s : State} {a1 : Nat} {a2 : Nat} {a3 : Nat} (h : P s) :
    P (State.restartCore s a1 a2 a3) := by
  unfold State.restartCore
  extract_lets t1 t2 t3 t4 t5
  have h6 : P t1 := by
    unfold t1
    with_reducible apply State.setF_keeps hP.toStable
    with_reducible apply State.setF_keeps hP.toStable
    with_reducible apply State.setF_keeps hP.toStable
    with_reducible assumption
  clear_value t1
  have h7 : P t2 := by
    unfold t2
    with_reducible apply State.setUnit_keeps hP.toStable
    with_reducible apply State.countLoop_keeps hP.toStable
    with_reducible apply State.bump_keeps hP.toStable
    with_reducible assumption
  clear_value t2 t3
  have h8 : P t4 := by
    unfold t4
    with_reducible refine keep_ite (fun _ => ?_) (fun _ => ?_)
    · with_reducible apply hP.toStable.rest
      with_reducible assumption
    · with_reducible assumption
  clear_value t4
  have h9 : P t5 := by
    unfold t5
    with_reducible apply State.err_keeps hP.toStable
    with_reducible apply State.dropCopies_keeps hP.toStable
    with_reducible assumption
  clear_value t5
  with_reducible refine keep_ite (fun _ => ?_) (fun _ => ?_)
  · with_reducible apply State.fwFlagAll_keeps hP
    with_reducible assumption
  · with_reducible assumption

theorem State.setSlot_keeps {P : State → Prop} (hP : Stable P) {s : State} {a1 : Nat} {a2 : Nat} {a3 : CSlot} (h : P s) :
    P (State.setSlot s a1 a2 a3) := by
  unfold State.setSlot
  extract_lets t1
  clear_value t1
  with_reducible apply State.setCycle_keeps hP
  with_reducible assumption

theorem State.charge_keeps {P : State → Prop} (hP : Stable P) {s : State} {a1 : Nat} {a2 : Nat} {a3 : Nat} {a4 : Nat} {a5 : Nat} (h : P s) :
    P (State.charge s a1 a2 a3 a4 a5) := by
  unfold State.charge
  split
  · with_reducible refine keep_ite (fun _ => ?_) (fun _ => ?_)
    · with_reducible assumption
    · extract_lets t1
      clear_value t1
      with_reducible apply State.setSlot_keeps hP
      with_reducible assumption
  · with_reducible assumption

theorem State.chargeOwn_keeps {P : State → Prop} (hP : Stable P) {s : State} {a1 : Own} {a2 : Nat} {a3 : Nat} {a4 : Nat} (h : P s) :
    P (State.chargeOwn s a1 a2 a3 a4) := by
  unfold State.chargeOwn
  extract_lets t1
  clear_value t1
  with_reducible apply keep_foldl (Q := P)
  · with_reducible assumption
  · intro x2 x3 x4
    split
    · with_reducible apply State.charge_keeps hP
      with_reducible assumption
    · with_reducible assumption

theorem State.traffic_keeps {P : State → Prop} (hP : StableMem P) {s : State} {a1 : Own} {a2 : Nat} {a3 : Nat} {a4 : Nat} {a5 : Nat} (h : P s) :
    P (State.traffic s a1 a2 a3 a4 a5) := by
  unfold State.traffic
  extract_lets t1
  have h2 : P t1 := by
    unfold t1
    with_reducible apply State.chargeOwn_keeps hP.toStable
    with_reducible assumption
  clear_value t1
  with_reducible refine keep_ite (fun _ => ?_) (fun _ => ?_)
  · with_reducible assumption
  · with_reducible refine keep_ite (fun _ => ?_) (fun _ => ?_)
    · with_reducible apply State.moved_keeps hP.toStable
      with_reducible apply State.moved_keeps hP.toStable
      with_reducible apply State.passLines_keeps hP
      with_reducible assumption
    · with_reducible refine keep_ite (fun _ => ?_) (fun _ => ?_)
      · with_reducible apply State.moved_keeps hP.toStable
        with_reducible assumption
      · with_reducible assumption

theorem State.loadFor_keeps {P : State → Prop} (hP : StableMem P) {s : State} {a1 : Own} {a2 : Nat} {a3 : Nat} (h : P s) :
    (Snd (Snd P)) (State.loadFor s a1 a2 a3) := by
  unfold State.loadFor
  with_reducible apply State.readB_keeps hP
  with_reducible apply State.traffic_keeps hP
  with_reducible assumption

theorem State.poisonRange_keeps {P : State → Prop} (hP : StableMem P) {s : State} {a1 : Nat} {a2 : Nat} (h : P s) :
    P (State.poisonRange s a1 a2) := by
  unfold State.poisonRange
  with_reducible apply keep_foldl (Q := P)
  · with_reducible assumption
  · intro x1 x2 x3
    with_reducible apply State.poisonWord_keeps hP
    with_reducible assumption

theorem State.sampled_keeps {P : State → Prop} (hP : Stable P) {s : State} {a1 : Own} (h : P s) :
    P (State.sampled s a1) := by
  unfold State.sampled
  extract_lets t1 t2 t3
  clear_value t1 t2
  have h4 : ∀ y0, (P) (t3 y0) := by
    unfold t3
    intro x5
    with_reducible apply hP.rest
    with_reducible assumption
  clear_value t3
  split
  · with_reducible assumption
  · split
    · with_reducible refine keep_ite (fun _ => ?_) (fun _ => ?_)
      · with_reducible assumption
      · with_reducible apply h4
    · with_reducible assumption
  · split
    · with_reducible apply h4
    · with_reducible assumption

theorem State.writeB_keeps {P : State → Prop} (hP : StableMem P) {s : State} {a1 : Nat} {a2 : List Byte} {a3 : Own} {a4 : List Nat} (h : P s) :
    P (State.writeB s a1 a2 a3 a4) := by
  unfold State.writeB
  with_reducible apply State.submit_keeps hP
  with_reducible apply State.mergeOutRange_keeps hP
  with_reducible assumption

theorem State.storeB_keeps {P : State → Prop} (hP : StableMem P) {s : State} {a1 : Own} {a2 : Nat} {a3 : List Byte} {a4 : List Nat} (h : P s) :
    P (State.storeB s a1 a2 a3 a4) := by
  unfold State.storeB
  extract_lets t1 t2 t3 t4
  clear_value t1 t2
  have h5 : P t3 := by
    unfold t3
    with_reducible apply State.mergeIn_keeps hP
    with_reducible assumption
  clear_value t3
  have h6 : P t4 := by
    unfold t4
    with_reducible refine keep_ite (fun _ => ?_) (fun _ => ?_)
    · with_reducible assumption
    · with_reducible apply State.writeB_keeps hP
      with_reducible assumption
  clear_value t4
  with_reducible refine keep_ite (fun _ => ?_) (fun _ => ?_)
  · with_reducible apply State.writeB_keeps hP
    with_reducible assumption
  · with_reducible apply State.mergeIn_keeps hP
    with_reducible assumption

theorem State.storeFor_keeps {P : State → Prop} (hP : StableMem P) {s : State} {a1 : Own} {a2 : Nat} {a3 : List Byte} {a4 : List Nat} (h : P s) :
    P (State.storeFor s a1 a2 a3 a4) := by
  unfold State.storeFor
  extract_lets t1 t2 t3
  have h4 : P t1 := by
    unfold t1
    with_reducible apply State.traffic_keeps hP
    with_reducible assumption
  clear_value t1
  have h5 : P t2 := by
    unfold t2
    with_reducible apply State.mergeOutRange_keeps hP
    with_reducible assumption
  clear_value t2
  have h6 : (Snd (Snd (P))) t3 := by
    unfold t3
    with_reducible apply State.perform_keeps hP
    with_reducible assumption
  clear_value t3
  with_reducible refine keep_ite (fun _ => ?_) (fun _ => ?_)
  · with_reducible apply State.answerAsker_keeps hP
    with_reducible assumption
  · with_reducible apply State.storeB_keeps hP
    with_reducible assumption

theorem State.writeRemote_keeps {P : State → Prop} (hP : Stable P) {s : State} {a1 : Own} {a2 : Nat} {a3 : Nat} {a4 : List Byte} {a5 : Nat} {a6 : Nat} (h : P s) :
    P (State.writeRemote s a1 a2 a3 a4 a5 a6) := by
  unfold State.writeRemote
  with_reducible apply keep_foldl (Q := P)
  · with_reducible assumption
  · intro x1 x2 x3
    extract_lets t4
    clear_value t4
    split
    · with_reducible apply State.oweAck_keeps hP
      refine keep_of_pair ‹_ = (_, _)› ?_
      with_reducible apply State.sendRemote_keeps hP
      with_reducible assumption
    · with_reducible apply State.loseBytes_keeps hP
      with_reducible apply State.workFail_keeps hP
      refine keep_of_pair ‹_ = (_, _)› ?_
      with_reducible apply State.sendRemote_keeps hP
      with_reducible assumption

theorem State.passAway_keeps {P : State → Prop} (hP : Stable P) {s : State} {a1 : Own} {a2 : Nat} {a3 : Nat} (h : P s) :
    P (State.passAway s a1 a2 a3) := by
  unfold State.passAway
  with_reducible apply State.moved_keeps hP
  with_reducible apply State.chargeOwn_keeps hP
  with_reducible assumption

theorem State.writeAway_keeps {P : State → Prop} (hP : StableMem P) {s : State} {a1 : Own} {a2 : Nat} {a3 : Nat} {a4 : List Byte} {a5 : Nat} {a6 : Nat} (h : P s) :
    P (State.writeAway s a1 a2 a3 a4 a5 a6) := by
  unfold State.writeAway
  with_reducible apply State.writeRemote_keeps hP.toStable
  with_reducible apply State.passAway_keeps hP.toStable
  with_reducible apply State.forgetCopies_keeps hP
  with_reducible assumption

theorem State.f2h_keeps {P : State → Prop} (hP : StableMem P) {s : State} {a1 : Nat} {a2 : Msg} (h : P s) :
    P (State.f2h s a1 a2) := by
  unfold State.f2h
  extract_lets t1 t2 t3 t4 t5
  clear_value t1 t2
  have h6 : P t3 := by
    unfold t3
    with_reducible apply hP.toStable.rest
    with_reducible assumption
  clear_value t3 t4
  have h7 : P t5 := by
    unfold t5
    with_reducible refine keep_ite (fun _ => ?_) (fun _ => ?_)
    · with_reducible apply hP.toStable.rest
      with_reducible assumption
    · with_reducible apply State.raise_keeps hP.toStable
      with_reducible refine keep_ite (fun _ => ?_) (fun _ => ?_)
      · with_reducible assumption
      · with_reducible apply State.wrN_keeps hP
        with_reducible assumption
  clear_value t5
  with_reducible apply State.f2hFlush_keeps hP
  with_reducible assumption

theorem done_keeps {P : State → Prop} (_ : Stable P) {s : State} (h : P s) :
    (Nxt P) (done s) := by
  exact keep_done h

theorem State.h2fDone_keeps {P : State → Prop} (hP : StableMem P) {s : State} {a1 : Nat} (h : P s) :
    P (State.h2fDone s a1) := by
  unfold State.h2fDone
  with_reducible refine keep_ite (fun _ => ?_) (fun _ => ?_)
  · with_reducible apply hP.toStable.rest
    with_reducible assumption
  · extract_lets t1 t2 t3 t4
    clear_value t1 t2
    have h5 : P t3 := by
      unfold t3
      with_reducible apply State.wrN_keeps hP
      with_reducible assumption
    clear_value t3 t4
    with_reducible refine keep_ite (fun _ => ?_) (fun _ => ?_)
    · with_reducible apply hP.toStable.rest
      with_reducible assumption
    · with_reducible assumption

theorem State.h2fAnswer_keeps {P : State → Prop} (hP : StableMem P) {s : State} {a1 : Nat} {a2 : Msg} {a3 : Nat} {a4 : List (Nat × Nat × Nat)} (h : P s) :
    P (State.h2fAnswer s a1 a2 a3 a4) := by
  unfold State.h2fAnswer
  extract_lets t1
  have h2 : P t1 := by
    unfold t1
    with_reducible refine keep_ite (fun _ => ?_) (fun _ => ?_)
    · with_reducible apply State.f2h_keeps hP
      with_reducible assumption
    · with_reducible assumption
  clear_value t1
  with_reducible apply State.h2fDone_keeps hP
  with_reducible assumption

theorem State.raiseHeldErrs_keeps {P : State → Prop} (hP : Stable P) {s : State} (h : P s) :
    P (State.raiseHeldErrs s) := by
  unfold State.raiseHeldErrs
  split
  · with_reducible assumption
  · extract_lets t1 t2
    clear_value t1
    have h3 : P t2 := by
      unfold t2
      with_reducible apply hP.rest
      with_reducible assumption
    clear_value t2
    with_reducible apply keep_foldl (Q := P)
    · with_reducible assumption
    · intro x4 x5 x6
      with_reducible apply State.emit_keeps hP
      with_reducible assumption

theorem State.flushOwn_keeps {P : State → Prop} (hP : StableMem P) {s : State} {a1 : Own → Bool} (h : P s) :
    P (State.flushOwn s a1) := by
  unfold State.flushOwn
  with_reducible apply keep_foldl (Q := P)
  · with_reducible assumption
  · intro x1 x2 x3
    with_reducible apply State.mergeOut_keeps hP
    with_reducible assumption

theorem State.finish_keeps {P : State → Prop} (hP : StableMem P) {s : State} {a1 : Nat} {a2 : Nat} {a3 : Nat} (h : P s) :
    P (State.finish s a1 a2 a3) := by
  unfold State.finish
  extract_lets t1
  have h2 : P t1 := by
    unfold t1
    with_reducible apply State.flushOwn_keeps hP
    with_reducible assumption
  clear_value t1
  split
  · with_reducible assumption
  · extract_lets t3 t4
    clear_value t3
    have h5 : P t4 := by
      unfold t4
      with_reducible apply State.onCmd_keeps hP.toStable
      with_reducible assumption
    clear_value t4
    with_reducible refine keep_ite (fun _ => ?_) (fun _ => ?_)
    · with_reducible apply State.complete_keeps hP.toStable
      with_reducible assumption
    · with_reducible assumption

theorem State.countWaits_keeps {P : State → Prop} (hP : Stable P) {s : State} (h : P s) :
    P (State.countWaits s) := by
  unfold State.countWaits
  extract_lets t1 t2 t3
  clear_value t1
  have h4 : P t2 := by
    unfold t2
    with_reducible apply keep_foldl (Q := P)
    · with_reducible assumption
    · intro x5 x6 x7
      with_reducible refine keep_ite (fun _ => ?_) (fun _ => ?_)
      · with_reducible assumption
      · with_reducible refine keep_ite (fun _ => ?_) (fun _ => ?_)
        · with_reducible apply State.bump_keeps hP
          with_reducible assumption
        · with_reducible refine keep_ite (fun _ => ?_) (fun _ => ?_)
          · with_reducible apply State.bump_keeps hP
            with_reducible assumption
          · with_reducible assumption
  clear_value t2 t3
  with_reducible apply hP.rest
  with_reducible assumption

theorem State.enter_keeps {P : State → Prop} (hP : StableMem P) {s : State} {a1 : Asker} {a2 : Nat} {a3 : Nat} {a4 : Nat} {a5 : Access} (h : P s) :
    P (State.enter s a1 a2 a3 a4 a5) := by
  unfold State.enter
  extract_lets t1 t2 t3
  clear_value t1 t2
  have h4 : P t3 := by
    unfold t3
    with_reducible apply hP.toStable.rest
    with_reducible assumption
  clear_value t3
  with_reducible apply State.countWaits_keeps hP.toStable
  with_reducible apply State.yardGo_keeps hP
  with_reducible assumption

theorem State.at_keeps {P : State → Prop} (hP : Stable P) {s : State} {a1 : Nat} (h : P s) :
    P (State.at s a1) := by
  unfold State.at
  with_reducible apply hP.rest
  with_reducible assumption

theorem State.yardAll_keeps {P : State → Prop} (hP : StableMem P) {s : State} (h : P s) :
    P (State.yardAll s) := by
  unfold State.yardAll
  with_reducible apply keep_foldl (Q := P)
  · with_reducible assumption
  · intro x1 x2 x3
    with_reducible apply State.yardGo_keeps hP
    with_reducible assumption

theorem State.serveHeld_keeps {P : State → Prop} (hP : StableMem P) {s : State} {a1 : Nat} {a2 : Held} (h : P s) :
    P (State.serveHeld s a1 a2) := by
  unfold State.serveHeld
  extract_lets t1
  have h2 : (Snd (Snd (P))) t1 := by
    unfold t1
    with_reducible apply State.perform_keeps hP
    with_reducible assumption
  clear_value t1
  with_reducible apply State.pieceServed_keeps hP
  with_reducible apply State.raiseMax_keeps hP.toStable
  with_reducible assumption

theorem State.loadLatch_keeps {P : State → Prop} (hP : Stable P) {s : State} {a1 : Nat} {a2 : LLoad} (h : P s) :
    P (State.loadLatch s a1 a2) := by
  unfold State.loadLatch
  extract_lets t1 t2 t3 t4
  clear_value t1 t2 t3 t4
  with_reducible apply hP.rest
  with_reducible assumption

theorem State.latchesGo_keeps {P : State → Prop} (hP : Stable P) {s : State} {a1 : Nat} {a2 : Nat} (h : P s) :
    P (State.latchesGo s a1 a2) := by
  induction a2 generalizing s a1
  · unfold State.latchesGo
    with_reducible assumption
  · unfold State.latchesGo
    rename_i ih
    split
    · with_reducible apply ih
      with_reducible apply State.setBankWork_keeps hP
      with_reducible apply State.loadLatch_keeps hP
      with_reducible assumption
    · with_reducible assumption

theorem State.latchesLoad_keeps {P : State → Prop} (hP : Stable P) {s : State} {a1 : Nat} (h : P s) :
    P (State.latchesLoad s a1) := by
  unfold State.latchesLoad
  with_reducible refine keep_ite (fun _ => ?_) (fun _ => ?_)
  · with_reducible assumption
  · with_reducible apply State.latchesGo_keeps hP
    with_reducible assumption

theorem State.journalClose_keeps {P : State → Prop} (hP : Stable P) {s : State} {a1 : Nat} {a2 : Nat} (h : P s) :
    P (State.journalClose s a1 a2) := by
  unfold State.journalClose
  with_reducible apply hP.rest
  with_reducible assumption

theorem State.writeRestart_keeps {P : State → Prop} (hP : StableMem P) {s : State} {a1 : Nat} (h : P s) :
    P (State.writeRestart s a1) := by
  unfold State.writeRestart
  with_reducible refine keep_ite (fun _ => ?_) (fun _ => ?_)
  · with_reducible apply State.restartCore_keeps hP
    with_reducible apply State.setFlag_keeps hP.toStable
    with_reducible assumption
  · with_reducible assumption

theorem State.setDuty_keeps {P : State → Prop} (hP : Stable P) {s : State} {a1 : Nat} {a2 : Nat} (h : P s) :
    P (State.setDuty s a1 a2) := by
  unfold State.setDuty
  with_reducible apply State.setF_keeps hP
  with_reducible assumption

theorem State.dutyLapses_keeps {P : State → Prop} (hP : StableMem P) {s : State} {a1 : Nat} (h : P s) :
    P (State.dutyLapses s a1) := by
  unfold State.dutyLapses
  extract_lets t1 t2 t3 t4
  have h5 : P t1 := by
    unfold t1
    with_reducible apply State.setDuty_keeps hP.toStable
    with_reducible assumption
  clear_value t1 t2
  have h6 : P t3 := by
    unfold t3
    with_reducible apply hP.toStable.rest
    with_reducible assumption
  clear_value t3
  have h7 : P t4 := by
    unfold t4
    with_reducible apply State.err_keeps hP.toStable
    with_reducible assumption
  clear_value t4
  with_reducible refine keep_ite (fun _ => ?_) (fun _ => ?_)
  · with_reducible apply State.fwFlagAll_keeps hP
    with_reducible assumption
  · with_reducible assumption

theorem State.placeDuty_keeps {P : State → Prop} (hP : StableMem P) {s : State} {a1 : Nat} {a2 : Bool} (h : P s) :
    P (State.placeDuty s a1 a2) := by
  unfold State.placeDuty
  extract_lets t1 t2
  have h3 : P t1 := by
    unfold t1
    with_reducible apply State.setDuty_keeps hP.toStable
    with_reducible assumption
  clear_value t1 t2
  with_reducible refine keep_ite (fun _ => ?_) (fun _ => ?_)
  · with_reducible apply hP.toStable.rest
    with_reducible assumption
  · split
    · with_reducible apply hP.toStable.rest
      with_reducible assumption
    · with_reducible apply State.dutyLapses_keeps hP
      with_reducible assumption

theorem State.retireCore_keeps {P : State → Prop} (hP : StableMem P) {s : State} {a1 : Nat} (h : P s) :
    P (State.retireCore s a1) := by
  unfold State.retireCore
  with_reducible refine keep_ite (fun _ => ?_) (fun _ => ?_)
  · with_reducible assumption
  · extract_lets t1 t2 t3 t4 t5
    clear_value t1 t2
    have h6 : P t3 := by
      unfold t3
      with_reducible apply State.err_keeps hP.toStable
      with_reducible apply State.setUnit_keeps hP.toStable
      with_reducible apply State.setF_keeps hP.toStable
      with_reducible assumption
    clear_value t3
    have h7 : P t4 := by
      unfold t4
      with_reducible refine keep_ite (fun _ => ?_) (fun _ => ?_)
      · with_reducible apply State.fwFlagAll_keeps hP
        with_reducible assumption
      · with_reducible assumption
    clear_value t4
    have h8 : P t5 := by
      unfold t5
      with_reducible apply keep_foldl (Q := P)
      · with_reducible assumption
      · intro x9 x10 x11
        with_reducible apply State.placeDuty_keeps hP
        with_reducible assumption
    clear_value t5
    with_reducible refine keep_ite (fun _ => ?_) (fun _ => ?_)
    · with_reducible apply State.restartCore_keeps hP
      with_reducible assumption
    · with_reducible assumption

theorem State.setPw_keeps {P : State → Prop} (hP : Stable P) {s : State} {a1 : Power} (h : P s) :
    P (State.setPw s a1) := by
  unfold State.setPw
  with_reducible apply hP.rest
  with_reducible assumption

theorem State.showTj_keeps {P : State → Prop} (hP : Stable P) {s : State} (h : P s) :
    P (State.showTj s) := by
  unfold State.showTj
  extract_lets t1 t2
  clear_value t1 t2
  with_reducible apply State.setPw_keeps hP
  with_reducible assumption

theorem State.note_keeps {P : State → Prop} (hP : Stable P) {s : State} {a1 : Nat} {a2 : Nat} {a3 : Bool} (h : P s) :
    P (State.note s a1 a2 a3) := by
  unfold State.note
  extract_lets t1 t2
  clear_value t1 t2
  with_reducible apply hP.rest
  with_reducible assumption

theorem State.noteReading_keeps {P : State → Prop} (hP : Stable P) {s : State} {a1 : Nat} (h : P s) :
    P (State.noteReading s a1) := by
  unfold State.noteReading
  extract_lets t1 t2
  have h3 : P t1 := by
    unfold t1
    with_reducible apply State.note_keeps hP
    with_reducible apply State.note_keeps hP
    with_reducible apply State.note_keeps hP
    with_reducible assumption
  clear_value t1 t2
  with_reducible refine keep_ite (fun _ => ?_) (fun _ => ?_)
  · with_reducible apply State.note_keeps hP
    with_reducible apply State.note_keeps hP
    with_reducible assumption
  · with_reducible assumption

theorem State.setClock_keeps {P : State → Prop} (hP : Stable P) {s : State} {a1 : Nat} (h : P s) :
    P (State.setClock s a1) := by
  unfold State.setClock
  extract_lets t1
  clear_value t1
  with_reducible apply State.setF_keeps hP
  with_reducible apply State.setF_keeps hP
  with_reducible assumption

theorem State.setClocks_keeps {P : State → Prop} (hP : Stable P) {s : State} (h : P s) :
    P (State.setClocks s) := by
  unfold State.setClocks
  with_reducible apply keep_foldl (Q := P)
  · with_reducible assumption
  · intro x1 x2 x3
    with_reducible apply State.setClock_keeps hP
    with_reducible assumption

theorem State.clampOn_keeps {P : State → Prop} (hP : Stable P) {s : State} {a1 : Nat} (h : P s) :
    P (State.clampOn s a1) := by
  unfold State.clampOn
  with_reducible refine keep_ite (fun _ => ?_) (fun _ => ?_)
  · with_reducible assumption
  · extract_lets t1 t2
    have h3 : P t1 := by
      unfold t1
      with_reducible apply State.err_keeps hP
      with_reducible apply State.raise_keeps hP
      with_reducible apply State.bump_keeps hP
      with_reducible apply State.setBit_keeps hP
      with_reducible assumption
    clear_value t1 t2
    with_reducible apply State.setClocks_keeps hP
    with_reducible apply hP.rest
    with_reducible assumption

theorem State.rederate_keeps {P : State → Prop} (hP : Stable P) {s : State} {a1 : Nat} (h : P s) :
    P (State.rederate s a1) := by
  unfold State.rederate
  extract_lets t1 t2 t3 t4 t5
  clear_value t1 t2
  have h6 : P t3 := by
    unfold t3
    with_reducible refine keep_ite (fun _ => ?_) (fun _ => ?_)
    · with_reducible assumption
    · with_reducible apply State.setBit_keeps hP
      with_reducible assumption
  clear_value t3
  have h7 : P t4 := by
    unfold t4
    with_reducible refine keep_ite (fun _ => ?_) (fun _ => ?_)
    · with_reducible apply State.err_keeps hP
      with_reducible assumption
    · with_reducible assumption
  clear_value t4
  have h8 : P t5 := by
    unfold t5
    with_reducible refine keep_ite (fun _ => ?_) (fun _ => ?_)
    · with_reducible apply State.clampOn_keeps hP
      with_reducible assumption
    · with_reducible assumption
  clear_value t5
  with_reducible apply State.setClocks_keeps hP
  with_reducible refine keep_ite (fun _ => ?_) (fun _ => ?_)
  · with_reducible apply State.setFlag_keeps hP
    with_reducible assumption
  · with_reducible assumption

theorem State.setSince_keeps {P : State → Prop} (hP : Stable P) {s : State} {a1 : Nat} {a2 : Nat} {a3 : Bool} (h : P s) :
    P (State.setSince s a1 a2 a3) := by
  unfold State.setSince
  with_reducible apply hP.rest
  with_reducible assumption

theorem State.clampOff_keeps {P : State → Prop} (hP : Stable P) {s : State} {a1 : Nat} (h : P s) :
    P (State.clampOff s a1) := by
  unfold State.clampOff
  extract_lets t1 t2
  have h3 : P t1 := by
    unfold t1
    with_reducible apply keep_foldl (Q := P)
    · with_reducible apply State.setBit_keeps hP
      with_reducible assumption
    · intro x4 x5 x6
      with_reducible apply State.setSince_keeps hP
      with_reducible assumption
  clear_value t1 t2
  with_reducible apply State.setClocks_keeps hP
  with_reducible apply hP.rest
  with_reducible assumption

theorem State.clearSensorFlags_keeps {P : State → Prop} (hP : Stable P) {s : State} {a1 : Nat} {a2 : Nat} (h : P s) :
    P (State.clearSensorFlags s a1 a2) := by
  unfold State.clearSensorFlags
  extract_lets t1
  clear_value t1
  with_reducible apply State.showTj_keeps hP
  with_reducible apply keep_foldl (Q := P)
  · with_reducible assumption
  · intro x2 x3 x4
    extract_lets t5 t6 t7 t8 t9 t10 t11
    clear_value t5 t6
    have h12 : P t7 := by
      unfold t7
      with_reducible apply State.setF_keeps hP
      with_reducible apply State.setBit_keeps hP
      with_reducible assumption
    clear_value t7 t8 t9
    have h13 : P t10 := by
      unfold t10
      with_reducible apply hP.rest
      with_reducible assumption
    clear_value t10
    have h14 : P t11 := by
      unfold t11
      with_reducible apply State.noteReading_keeps hP
      with_reducible apply State.rederate_keeps hP
      with_reducible assumption
    clear_value t11
    with_reducible refine keep_ite (fun _ => ?_) (fun _ => ?_)
    · with_reducible apply State.clampOff_keeps hP
      with_reducible assumption
    · with_reducible assumption

theorem State.writeCeil_keeps {P : State → Prop} (hP : Stable P) {s : State} {a1 : Nat} {a2 : Nat} (h : P s) :
    P (State.writeCeil s a1 a2) := by
  unfold State.writeCeil
  extract_lets t1 t2 t3 t4 t5 t6 t7
  clear_value t1 t2 t3 t4 t5
  have h8 : P t6 := by
    unfold t6
    with_reducible apply State.setF_keeps hP
    with_reducible assumption
  clear_value t6 t7
  with_reducible apply State.setClock_keeps hP
  with_reducible refine keep_ite (fun _ => ?_) (fun _ => ?_)
  · with_reducible apply hP.rest
    with_reducible assumption
  · with_reducible assumption

theorem State.setKilnLevel_keeps {P : State → Prop} (hP : Stable P) {s : State} {a1 : Nat} {a2 : Nat} (h : P s) :
    P (State.setKilnLevel s a1 a2) := by
  unfold State.setKilnLevel
  with_reducible apply State.setF_keeps hP
  with_reducible assumption

theorem State.writeLevels_keeps {P : State → Prop} (hP : Stable P) {s : State} {a1 : Nat} (h : P s) :
    P (State.writeLevels s a1) := by
  unfold State.writeLevels
  with_reducible apply keep_foldl (Q := P)
  · with_reducible assumption
  · intro x1 x2 x3
    extract_lets t4 t5 t6 t7 t8 t9
    clear_value t4 t5 t6 t7 t8
    have h10 : P t9 := by
      unfold t9
      with_reducible apply State.setKilnLevel_keeps hP
      with_reducible assumption
    clear_value t9
    with_reducible refine keep_ite (fun _ => ?_) (fun _ => ?_)
    · with_reducible apply State.setSince_keeps hP
      with_reducible assumption
    · with_reducible assumption

theorem State.setImage_keeps {P : State → Prop} (hP : Stable P) {s : State} {a1 : Nat} {a2 : Image} (h : P s) :
    P (State.setImage s a1 a2) := by
  unfold State.setImage
  with_reducible apply hP.rest
  with_reducible assumption

theorem State.imageStat_keeps {P : State → Prop} (hP : Stable P) {s : State} {a1 : Nat} {a2 : Nat} (h : P s) :
    P (State.imageStat s a1 a2) := by
  unfold State.imageStat
  with_reducible apply State.setImage_keeps hP
  with_reducible assumption

theorem State.keyIn_keeps {P : State → Prop} (hP : Stable P) {s : State} {a1 : Nat} (h : P s) :
    P (State.keyIn s a1) := by
  unfold State.keyIn
  with_reducible apply hP.rest
  with_reducible assumption

theorem State.releaseUnits_keeps {P : State → Prop} (hP : Stable P) {s : State} {a1 : Nat} (h : P s) :
    P (State.releaseUnits s a1) := by
  unfold State.releaseUnits
  with_reducible apply hP.rest
  with_reducible assumption

theorem State.imageCmdRun_keeps {P : State → Prop} (hP : Stable P) {s : State} {a1 : Nat} {a2 : Nat} (h : P s) :
    P (State.imageCmdRun s a1 a2) := by
  unfold State.imageCmdRun
  extract_lets t1 t2
  clear_value t1 t2
  split
  · with_reducible refine keep_ite (fun _ => ?_) (fun _ => ?_)
    · with_reducible apply State.imageStat_keeps hP
      with_reducible assumption
    · with_reducible refine keep_ite (fun _ => ?_) (fun _ => ?_)
      · with_reducible apply State.imageStat_keeps hP
        with_reducible assumption
      · with_reducible refine keep_ite (fun _ => ?_) (fun _ => ?_)
        · with_reducible apply State.imageStat_keeps hP
          with_reducible assumption
        · with_reducible apply State.setImage_keeps hP
          with_reducible assumption
  · with_reducible refine keep_ite (fun _ => ?_) (fun _ => ?_)
    · with_reducible apply State.imageStat_keeps hP
      with_reducible assumption
    · with_reducible apply State.keyIn_keeps hP
      with_reducible apply State.setImage_keeps hP
      with_reducible assumption
  · with_reducible refine keep_ite (fun _ => ?_) (fun _ => ?_)
    · with_reducible apply State.imageStat_keeps hP
      with_reducible assumption
    · with_reducible apply State.setImage_keeps hP
      with_reducible apply State.releaseUnits_keeps hP
      with_reducible assumption
  · with_reducible refine keep_ite (fun _ => ?_) (fun _ => ?_)
    · with_reducible apply State.imageStat_keeps hP
      with_reducible assumption
    · with_reducible apply State.setImage_keeps hP
      with_reducible apply State.releaseUnits_keeps hP
      with_reducible assumption
  · with_reducible apply State.setImage_keeps hP
    with_reducible assumption

theorem State.imageCmd_keeps {P : State → Prop} (hP : Stable P) {s : State} {a1 : Nat} {a2 : Nat} (h : P s) :
    P (State.imageCmd s a1 a2) := by
  unfold State.imageCmd
  with_reducible refine keep_ite (fun _ => ?_) (fun _ => ?_)
  · with_reducible apply State.setImage_keeps hP
    with_reducible assumption
  · with_reducible refine keep_ite (fun _ => ?_) (fun _ => ?_)
    · with_reducible apply State.imageCmdRun_keeps hP
      with_reducible assumption
    · with_reducible apply State.setImage_keeps hP
      with_reducible apply hP.rest
      with_reducible assumption

theorem State.imageSizeWrite_keeps {P : State → Prop} (hP : Stable P) {s : State} {a1 : Nat} {a2 : Bool} {a3 : Nat} (h : P s) :
    P (State.imageSizeWrite s a1 a2 a3) := by
  unfold State.imageSizeWrite
  extract_lets t1
  clear_value t1
  with_reducible refine keep_ite (fun _ => ?_) (fun _ => ?_)
  · with_reducible assumption
  · with_reducible apply State.setImage_keeps hP
    with_reducible assumption

theorem State.journalOpen_keeps {P : State → Prop} (hP : Stable P) {s : State} {a1 : Nat} {a2 : Nat} {a3 : Nat} (h : P s) :
    P (State.journalOpen s a1 a2 a3) := by
  unfold State.journalOpen
  with_reducible apply hP.rest
  with_reducible assumption

theorem State.rgWrite_keeps {P : State → Prop} (hP : Stable P) {s : State} {a1 : Nat} {a2 : Nat} {a3 : Nat} (h : P s) :
    P (State.rgWrite s a1 a2 a3) := by
  unfold State.rgWrite
  extract_lets t1 t2
  clear_value t1
  have h3 : P t2 := by
    unfold t2
    with_reducible refine keep_ite (fun _ => ?_) (fun _ => ?_)
    · with_reducible apply State.setF_keeps hP
      with_reducible assumption
    · with_reducible apply State.setF_keeps hP
      with_reducible assumption
  clear_value t2
  with_reducible refine keep_ite (fun _ => ?_) (fun _ => ?_)
  · with_reducible apply State.err_keeps hP
    with_reducible assumption
  · with_reducible assumption

theorem State.applyTable_keeps {P : State → Prop} (hP : Stable P) {s : State} {a1 : Nat} {a2 : Nat} {a3 : List CSlot} (h : P s) :
    P (State.applyTable s a1 a2 a3) := by
  unfold State.applyTable
  extract_lets t1 t2
  clear_value t1 t2
  with_reducible apply State.showSlots_keeps hP
  with_reducible apply State.setFlag_keeps hP
  with_reducible apply State.setCycle_keeps hP
  with_reducible assumption

theorem State.cytEnable_keeps {P : State → Prop} (hP : Stable P) {s : State} {a1 : Nat} {a2 : Bool} (h : P s) :
    P (State.cytEnable s a1 a2) := by
  unfold State.cytEnable
  extract_lets t1 t2
  clear_value t1
  have h3 : P t2 := by
    unfold t2
    with_reducible apply State.setFlag_keeps hP
    with_reducible assumption
  clear_value t2
  with_reducible refine keep_ite (fun _ => ?_) (fun _ => ?_)
  · with_reducible apply State.cytRestart_keeps hP
    with_reducible assumption
  · with_reducible refine keep_ite (fun _ => ?_) (fun _ => ?_)
    · with_reducible assumption
    · split
      · with_reducible apply State.applyTable_keeps hP
        with_reducible assumption
      · with_reducible assumption

theorem State.cytCommit_keeps {P : State → Prop} (hP : Stable P) {s : State} {a1 : Nat} (h : P s) :
    P (State.cytCommit s a1) := by
  unfold State.cytCommit
  extract_lets t1 t2 t3 t4
  clear_value t1 t2 t3 t4
  split
  · with_reducible apply State.err_keeps hP
    with_reducible apply State.setF_keeps hP
    with_reducible apply State.setF_keeps hP
    with_reducible assumption
  · with_reducible refine keep_ite (fun _ => ?_) (fun _ => ?_)
    · with_reducible apply State.setFlag_keeps hP
      with_reducible apply State.setCycle_keeps hP
      with_reducible assumption
    · with_reducible apply State.applyTable_keeps hP
      with_reducible assumption

theorem State.cytShift_keeps {P : State → Prop} (hP : Stable P) {s : State} {a1 : Nat} {a2 : Nat} (h : P s) :
    P (State.cytShift s a1 a2) := by
  unfold State.cytShift
  extract_lets t1 t2
  clear_value t1 t2
  with_reducible refine keep_ite (fun _ => ?_) (fun _ => ?_)
  · with_reducible assumption
  · with_reducible apply State.setCycle_keeps hP
    with_reducible assumption

theorem State.memAdd_keeps {P : State → Prop} (hP : StableMem P) {s : State} {a1 : Who} {a2 : Asker} {a3 : Nat} {a4 : Nat} {a5 : List Byte} {a6 : Option Nat} (h : P s) :
    P (State.memAdd s a1 a2 a3 a4 a5 a6) := by
  unfold State.memAdd
  with_reducible refine keep_ite (fun _ => ?_) (fun _ => ?_)
  · with_reducible apply State.answerAsker_keeps hP
    with_reducible assumption
  · split
    · with_reducible apply State.addB_keeps hP
      with_reducible assumption
    · with_reducible apply State.answerAsker_keeps hP
      with_reducible assumption

theorem State.stackResumes_keeps {P : State → Prop} (hP : StableMem P) {s : State} {a1 : Nat} (h : P s) :
    P (State.stackResumes s a1) := by
  unfold State.stackResumes
  extract_lets t1 t2 t3 t4
  clear_value t1 t2
  have h5 : P t3 := by
    unfold t3
    with_reducible apply hP.toStable.rest
    with_reducible assumption
  clear_value t3
  have h6 : P t4 := by
    unfold t4
    with_reducible apply keep_foldl (Q := P)
    · with_reducible assumption
    · intro x7 x8 x9
      split
      · with_reducible apply State.setRun_keeps hP.toStable
        with_reducible assumption
      · extract_lets t10
        have h11 : (Snd (Snd (P))) t10 := by
          unfold t10
          with_reducible apply State.perform_keeps hP
          with_reducible assumption
        clear_value t10
        with_reducible apply State.pieceServed_keeps hP
        with_reducible assumption
  clear_value t4
  with_reducible apply keep_foldl (Q := P)
  · with_reducible assumption
  · intro x12 x13 x14
    with_reducible apply State.latchesLoad_keeps hP.toStable
    with_reducible assumption

theorem State.h2fLate_keeps {P : State → Prop} (hP : StableMem P) {s : State} {a1 : Msg} {a2 : Nat} (h : P s) :
    P (State.h2fLate s a1 a2) := by
  unfold State.h2fLate
  extract_lets t1 t2 t3
  have h4 : P t1 := by
    unfold t1
    with_reducible refine keep_ite (fun _ => ?_) (fun _ => ?_)
    · with_reducible apply State.f2h_keeps hP
      with_reducible assumption
    · with_reducible assumption
  clear_value t1 t2 t3
  with_reducible apply State.wrN_keeps hP
  with_reducible apply hP.toStable.rest
  with_reducible assumption

theorem execCrashLoopRetire_keeps {P : State → Prop} (hP : StableMem P) {a0 : Nat} {s : State} (h : P s) :
    (Nxt P) (execCrashLoopRetire a0 s) := by
  unfold execCrashLoopRetire
  with_reducible apply done_keeps hP.toStable
  with_reducible refine keep_ite (fun _ => ?_) (fun _ => ?_)
  · with_reducible apply State.retireCore_keeps hP
    with_reducible assumption
  · with_reducible assumption

theorem State.readSpace_keeps {P : State → Prop} (hP : StableMem P) {s : State} {a1 : Own} {a2 : List Nat} {a3 : Nat} {a4 : Nat} (h : P s) :
    (Snd (Snd P)) (State.readSpace s a1 a2 a3 a4) := by
  unfold State.readSpace
  with_reducible apply keep_foldl (Q := Snd (Snd (P)))
  · with_reducible assumption
  · intro x1 x2 x3
    extract_lets t4
    have h5 : (Snd (Snd (P))) t4 := by
      unfold t4
      with_reducible apply State.loadFor_keeps hP
      with_reducible assumption
    clear_value t4
    with_reducible assumption

theorem State.copyRows_keeps {P : State → Prop} (hP : StableMem P) {s : State} {a1 : Own} {a2 : List (Nat × Nat)} (h : P s) :
    P (State.copyRows s a1 a2) := by
  unfold State.copyRows
  with_reducible apply keep_foldl (Q := P)
  · with_reducible assumption
  · intro x1 x2 x3
    extract_lets t4 t5
    clear_value t4
    have h6 : (Snd (Snd (P))) t5 := by
      unfold t5
      with_reducible apply State.loadFor_keeps hP
      with_reducible assumption
    clear_value t5
    with_reducible apply State.storeFor_keeps hP
    with_reducible assumption

theorem State.senseInput_keeps {P : State → Prop} (hP : Stable P) {s : State} {a1 : Nat} {a2 : Nat} {a3 : Nat} (h : P s) :
    P (State.senseInput s a1 a2 a3) := by
  unfold State.senseInput
  with_reducible apply State.setPw_keeps hP
  with_reducible assumption

theorem State.readCables_keeps {P : State → Prop} (hP : Stable P) {s : State} (h : P s) :
    P (State.readCables s) := by
  unfold State.readCables
  with_reducible refine keep_ite (fun _ => ?_) (fun _ => ?_)
  · extract_lets t1 t2
    clear_value t1
    have h3 : P t2 := by
      unfold t2
      with_reducible apply hP.rest
      with_reducible assumption
    clear_value t2
    with_reducible apply keep_foldl (Q := P)
    · with_reducible assumption
    · intro x4 x5 x6
      with_reducible apply keep_foldl (Q := P)
      · with_reducible assumption
      · intro x7 x8 x9
        with_reducible apply State.linkTrain_keeps hP
        with_reducible assumption
  · with_reducible assumption

theorem State.writeSpace_keeps {P : State → Prop} (hP : StableMem P) {s : State} {a1 : Own} {a2 : List Nat} {a3 : Nat} {a4 : List Byte} {a5 : List Nat} (h : P s) :
    P (State.writeSpace s a1 a2 a3 a4 a5) := by
  unfold State.writeSpace
  with_reducible apply keep_foldl (Q := P)
  · with_reducible assumption
  · intro x1 x2 x3
    with_reducible apply State.storeFor_keeps hP
    with_reducible assumption

theorem execStackHotEnd_keeps {P : State → Prop} (hP : Stable P) {a0 : Nat} {a1 : Nat} {s : State} (h : P s) :
    (Nxt P) (execStackHotEnd a0 a1 s) := by
  unfold execStackHotEnd
  extract_lets t1
  have h2 : P t1 := by
    unfold t1
    with_reducible apply State.at_keeps hP
    with_reducible assumption
  clear_value t1
  with_reducible apply done_keeps hP
  with_reducible refine keep_ite (fun _ => ?_) (fun _ => ?_)
  · with_reducible apply State.setFlag_keeps hP
    with_reducible assumption
  · with_reducible assumption

theorem State.msgQuarantine_keeps {P : State → Prop} (hP : StableMem P) {s : State} {a1 : Blk} {a2 : Nat} {a3 : Nat} {a4 : Nat} {a5 : Nat} {a6 : Nat} {a7 : Nat} (h : P s) :
    P (State.msgQuarantine s a1 a2 a3 a4 a5 a6 a7) := by
  unfold State.msgQuarantine
  with_reducible apply State.f2h_keeps hP
  with_reducible assumption

theorem State.settlePool_keeps {P : State → Prop} (hP : StableMem P) {s : State} {a1 : Nat} (h : P s) :
    P (State.settlePool s a1) := by
  unfold State.settlePool
  with_reducible apply keep_foldl (Q := P)
  · with_reducible assumption
  · intro x1 x2 x3
    split
    · with_reducible refine keep_ite (fun _ => ?_) (fun _ => ?_)
      · with_reducible apply State.settleBrick_keeps hP
        with_reducible assumption
      · with_reducible assumption
    · with_reducible assumption

theorem State.flipLine_keeps {P : State → Prop} (hP : Stable P) {s : State} {a1 : YLine} {a2 : Nat} {a3 : BitVec 72} (h : P s) :
    P (State.flipLine s a1 a2 a3) := by
  unfold State.flipLine
  extract_lets t1 t2 t3 t4 t5
  clear_value t1 t2 t3 t4 t5
  with_reducible apply State.putLine_keeps hP
  with_reducible assumption

theorem State.goUnpaid_keeps {P : State → Prop} (hP : StableMem P) {s : State} (h : P s) :
    P (State.goUnpaid s) := by
  unfold State.goUnpaid
  with_reducible apply keep_foldl (Q := P)
  · with_reducible apply hP.toStable.rest
    with_reducible assumption
  · intro x1 x2 x3
    with_reducible refine keep_ite (fun _ => ?_) (fun _ => ?_)
    · with_reducible apply hP.toStable.rest
      with_reducible assumption
    · split
      · refine keep_of_pair ‹_ = (_, _)› ?_
        with_reducible apply State.placeRemote_keeps hP.toStable
        with_reducible apply State.takeFare_keeps hP.toStable
        with_reducible assumption
      · with_reducible apply State.answerUse_keeps hP
        refine keep_of_pair ‹_ = (_, _)› ?_
        with_reducible apply State.placeRemote_keeps hP.toStable
        with_reducible apply State.takeFare_keeps hP.toStable
        with_reducible assumption

theorem State.payOwed_keeps {P : State → Prop} (hP : Stable P) {s : State} (h : P s) :
    P (State.payOwed s) := by
  unfold State.payOwed
  with_reducible apply keep_foldl (Q := P)
  · with_reducible apply hP.rest
    with_reducible assumption
  · intro x1 x2 x3
    extract_lets t4 t5 t6
    have h7 : (Snd (P)) t4 := by
      unfold t4
      with_reducible apply State.pay_keeps hP
      with_reducible assumption
    clear_value t4
    have h8 : P t5 := by
      unfold t5
      with_reducible assumption
    clear_value t5 t6
    with_reducible refine keep_ite (fun _ => ?_) (fun _ => ?_)
    · with_reducible apply State.takeAck_keeps hP
      with_reducible assumption
    · with_reducible apply hP.rest
      with_reducible assumption

theorem State.refill_keeps {P : State → Prop} (hP : Stable P) {s : State} (h : P s) :
    P (State.refill s) := by
  unfold State.refill
  with_reducible apply keep_foldl (Q := P)
  · with_reducible assumption
  · intro x1 x2 x3
    extract_lets t4 t5 t6
    clear_value t4 t5 t6
    with_reducible apply State.setBucket_keeps hP
    with_reducible assumption

theorem execPeriodWrap_keeps {P : State → Prop} (hP : Stable P) {a0 : Nat} {s : State} (h : P s) :
    (Nxt P) (execPeriodWrap a0 s) := by
  unfold execPeriodWrap
  with_reducible refine keep_ite (fun _ => ?_) (fun _ => ?_)
  · extract_lets t1 t2 t3
    clear_value t1
    have h4 : P t2 := by
      unfold t2
      with_reducible apply State.bumpW_keeps hP
      with_reducible apply State.setF_keeps hP
      with_reducible assumption
    clear_value t2 t3
    split
    · with_reducible apply done_keeps hP
      with_reducible apply State.applyTable_keeps hP
      with_reducible apply State.setCycle_keeps hP
      with_reducible assumption
    · with_reducible apply done_keeps hP
      with_reducible apply State.showSlots_keeps hP
      with_reducible apply State.setCycle_keeps hP
      with_reducible assumption
  · with_reducible apply done_keeps hP
    with_reducible assumption

theorem execSlotWindowEnd_keeps {P : State → Prop} (hP : Stable P) {a0 : Nat} {a1 : Nat} {s : State} (h : P s) :
    (Nxt P) (execSlotWindowEnd a0 a1 s) := by
  unfold execSlotWindowEnd
  split
  · with_reducible refine keep_ite (fun _ => ?_) (fun _ => ?_)
    · extract_lets t1 t2 t3
      clear_value t1
      have h4 : P t2 := by
        unfold t2
        with_reducible apply State.setFlag_keeps hP
        with_reducible apply State.setFlag_keeps hP
        with_reducible apply State.setSlot_keeps hP
        with_reducible assumption
      clear_value t2
      have h5 : P t3 := by
        unfold t3
        with_reducible apply State.setF_keeps hP
        with_reducible assumption
      clear_value t3
      with_reducible apply done_keeps hP
      with_reducible refine keep_ite (fun _ => ?_) (fun _ => ?_)
      · with_reducible apply State.err_keeps hP
        with_reducible assumption
      · with_reducible assumption
    · with_reducible apply done_keeps hP
      with_reducible assumption
  · with_reducible apply done_keeps hP
    with_reducible assumption

theorem State.keyOut_keeps {P : State → Prop} (hP : Stable P) {s : State} (h : P s) :
    P (State.keyOut s) := by
  unfold State.keyOut
  with_reducible apply hP.rest
  with_reducible assumption

theorem State.addFor_keeps {P : State → Prop} (hP : StableMem P) {s : State} {a1 : Own} {a2 : Nat} {a3 : Nat} {a4 : List Byte} (h : P s) :
    P (State.addFor s a1 a2 a3 a4) := by
  unfold State.addFor
  with_reducible apply State.addB_keeps hP
  with_reducible apply State.traffic_keeps hP
  with_reducible assumption

theorem State.free_keeps {P : State → Prop} (hP : Stable P) {s : State} (h : P s) :
    (Snd P) (State.free s) := by
  unfold State.free
  with_reducible apply keep_pair_snd
  with_reducible apply hP.rest
  with_reducible assumption

theorem State.wear_keeps {P : State → Prop} (hP : Stable P) {s : State} (h : P s) :
    P (State.wear s) := by
  unfold State.wear
  extract_lets t1 t2 t3 t4
  have h5 : (Snd (P)) t1 := by
    unfold t1
    with_reducible apply State.free_keeps hP
    with_reducible assumption
  clear_value t1 t2 t3 t4
  with_reducible apply State.setF_keeps hP
  with_reducible apply State.setF_keeps hP
  with_reducible assumption

theorem State.markWritten_keeps {P : State → Prop} (hP : Stable P) {s : State} {a1 : Nat} {a2 : Nat} {a3 : Nat} (h : P s) :
    P (State.markWritten s a1 a2 a3) := by
  unfold State.markWritten
  extract_lets t1 t2 t3
  clear_value t1 t2
  have h4 : P t3 := by
    unfold t3
    with_reducible apply hP.rest
    with_reducible assumption
  clear_value t3
  with_reducible refine keep_ite (fun _ => ?_) (fun _ => ?_)
  · with_reducible apply State.wear_keeps hP
    with_reducible assumption
  · with_reducible apply hP.rest
    with_reducible assumption

theorem State.stagePut_keeps {P : State → Prop} (hP : Stable P) {s : State} {a1 : Nat} {a2 : Nat} {a3 : List Byte} {a4 : Nat} (h : P s) :
    P (State.stagePut s a1 a2 a3 a4) := by
  induction a4 generalizing s a1 a2 a3
  · unfold State.stagePut
    with_reducible assumption
  · unfold State.stagePut
    rename_i ih
    extract_lets t1 t2 t3 t4
    clear_value t1 t2 t3
    have h5 : P t4 := by
      unfold t4
      with_reducible refine keep_ite (fun _ => ?_) (fun _ => ?_)
      · with_reducible apply State.err_keeps hP
        with_reducible assumption
      · with_reducible refine keep_ite (fun _ => ?_) (fun _ => ?_)
        · with_reducible apply State.markWritten_keeps hP
          with_reducible apply hP.rest
          with_reducible assumption
        · with_reducible assumption
    clear_value t4
    with_reducible refine keep_ite (fun _ => ?_) (fun _ => ?_)
    · with_reducible assumption
    · with_reducible apply ih
      with_reducible assumption

theorem State.stageWrite_keeps {P : State → Prop} (hP : Stable P) {s : State} {a1 : Nat} {a2 : Nat} {a3 : List Byte} (h : P s) :
    (Snd P) (State.stageWrite s a1 a2 a3) := by
  unfold State.stageWrite
  split
  with_reducible refine keep_ite (fun _ => ?_) (fun _ => ?_)
  · with_reducible assumption
  · with_reducible apply keep_pair_snd
    with_reducible apply State.keyOut_keeps hP
    with_reducible apply State.stagePut_keeps hP
    with_reducible assumption

theorem State.postedRefused_keeps {P : State → Prop} (hP : Stable P) {s : State} {a1 : Nat} {a2 : Nat} {a3 : Nat} (h : P s) :
    P (State.postedRefused s a1 a2 a3) := by
  unfold State.postedRefused
  with_reducible apply State.err_keeps hP
  with_reducible apply State.pwStat_keeps hP
  with_reducible assumption

theorem execSealDone_keeps {P : State → Prop} (hP : Stable P) {a0 : Nat} {a1 : Bool} {a2 : Bool} {a3 : Bool} {a4 : Bool} {s : State} (h : P s) :
    (Nxt P) (execSealDone a0 a1 a2 a3 a4 s) := by
  unfold execSealDone
  extract_lets t1 t2 t3 t4 t5 t6
  clear_value t1
  have h7 : P t2 := by
    unfold t2
    with_reducible apply State.keyOut_keeps hP
    with_reducible assumption
  clear_value t2 t3 t4
  have h8 : P t5 := by
    unfold t5
    with_reducible apply State.setImage_keeps hP
    with_reducible apply State.releaseUnits_keeps hP
    with_reducible assumption
  clear_value t5
  have h9 : P t6 := by
    unfold t6
    with_reducible apply State.err_keeps hP
    with_reducible assumption
  clear_value t6
  with_reducible refine keep_ite (fun _ => ?_) (fun _ => ?_)
  · with_reducible apply done_keeps hP
    with_reducible assumption
  · with_reducible refine keep_ite (fun _ => ?_) (fun _ => ?_)
    · with_reducible apply done_keeps hP
      with_reducible apply State.setImage_keeps hP
      with_reducible assumption
    · with_reducible apply done_keeps hP
      with_reducible refine keep_ite (fun _ => ?_) (fun _ => ?_)
      · with_reducible assumption
      · with_reducible apply State.err_keeps hP
        with_reducible assumption

theorem execRetentionSample_keeps {P : State → Prop} (hP : Stable P) {a0 : Nat} {a1 : Nat} {s : State} (h : P s) :
    (Nxt P) (execRetentionSample a0 a1 s) := by
  unfold execRetentionSample
  extract_lets t1
  have h2 : P t1 := by
    unfold t1
    with_reducible refine keep_ite (fun _ => ?_) (fun _ => ?_)
    · with_reducible apply State.bump_keeps hP
      with_reducible assumption
    · with_reducible assumption
  clear_value t1
  with_reducible apply done_keeps hP
  with_reducible refine keep_ite (fun _ => ?_) (fun _ => ?_)
  · with_reducible apply State.wear_keeps hP
    with_reducible apply State.bumpW_keeps hP
    with_reducible assumption
  · with_reducible assumption

theorem execBlockDefect_keeps {P : State → Prop} (hP : Stable P) {a0 : Nat} {s : State} (h : P s) :
    (Nxt P) (execBlockDefect a0 s) := by
  unfold execBlockDefect
  extract_lets t1 t2 t3 t4
  clear_value t1 t2
  have h5 : P t3 := by
    unfold t3
    with_reducible apply State.setF_keeps hP
    with_reducible apply hP.rest
    with_reducible assumption
  clear_value t3
  have h6 : P t4 := by
    unfold t4
    with_reducible refine keep_ite (fun _ => ?_) (fun _ => ?_)
    · with_reducible apply State.err_keeps hP
      with_reducible assumption
    · with_reducible assumption
  clear_value t4
  with_reducible refine keep_ite (fun _ => ?_) (fun _ => ?_)
  · with_reducible apply done_keeps hP
    with_reducible assumption
  · with_reducible apply done_keeps hP
    with_reducible refine keep_ite (fun _ => ?_) (fun _ => ?_)
    · with_reducible apply State.err_keeps hP
      with_reducible apply State.setF_keeps hP
      with_reducible assumption
    · with_reducible assumption

theorem execWatchdogExpiry_keeps {P : State → Prop} (hP : StableMem P) {a0 : Nat} {a1 : Nat} {a2 : Nat} {s : State} (h : P s) :
    (Nxt P) (execWatchdogExpiry a0 a1 a2 s) := by
  unfold execWatchdogExpiry
  extract_lets t1 t2
  have h3 : P t1 := by
    unfold t1
    with_reducible apply State.at_keeps hP.toStable
    with_reducible assumption
  clear_value t1 t2
  with_reducible apply done_keeps hP.toStable
  with_reducible refine keep_ite (fun _ => ?_) (fun _ => ?_)
  · with_reducible apply State.restartCore_keeps hP
    with_reducible apply hP.toStable.rest
    with_reducible assumption
  · with_reducible assumption

theorem execCoreException_keeps {P : State → Prop} (hP : StableMem P) {a0 : Nat} {a1 : Nat} {a2 : Nat} {a3 : Nat} {s : State} (h : P s) :
    (Nxt P) (execCoreException a0 a1 a2 a3 s) := by
  unfold execCoreException
  extract_lets t1
  have h2 : P t1 := by
    unfold t1
    with_reducible apply State.at_keeps hP.toStable
    with_reducible assumption
  clear_value t1
  with_reducible apply done_keeps hP.toStable
  with_reducible refine keep_ite (fun _ => ?_) (fun _ => ?_)
  · with_reducible apply State.restartCore_keeps hP
    with_reducible assumption
  · with_reducible assumption

theorem State.imageCmdsResume_keeps {P : State → Prop} (hP : Stable P) {s : State} (h : P s) :
    P (State.imageCmdsResume s) := by
  unfold State.imageCmdsResume
  extract_lets t1 t2 t3
  clear_value t1 t2
  have h4 : P t3 := by
    unfold t3
    with_reducible apply hP.rest
    with_reducible assumption
  clear_value t3
  with_reducible apply keep_foldl (Q := P)
  · with_reducible assumption
  · intro x5 x6 x7
    with_reducible apply State.imageCmdRun_keeps hP
    with_reducible apply State.setImage_keeps hP
    with_reducible assumption

theorem State.dutyServes_keeps {P : State → Prop} (hP : StableMem P) {s : State} {a1 : Nat} (h : P s) :
    P (State.dutyServes s a1) := by
  unfold State.dutyServes
  split
  · with_reducible apply State.raiseHeldErrs_keeps hP.toStable
    with_reducible assumption
  · with_reducible apply State.readCables_keeps hP.toStable
    with_reducible assumption
  · with_reducible apply State.imageCmdsResume_keeps hP.toStable
    with_reducible assumption
  · with_reducible apply keep_foldl (Q := P)
    · with_reducible assumption
    · intro x1 x2 x3
      with_reducible apply State.f2hFlush_keeps hP
      with_reducible assumption
  · with_reducible assumption

theorem State.takeMoves_keeps {P : State → Prop} (hP : StableMem P) {s : State} {a1 : Nat} (h : P s) :
    P (State.takeMoves s a1) := by
  unfold State.takeMoves
  extract_lets t1 t2 t3
  clear_value t1 t2
  have h4 : P t3 := by
    unfold t3
    with_reducible apply hP.toStable.rest
    with_reducible assumption
  clear_value t3
  with_reducible apply keep_foldl (Q := P)
  · with_reducible assumption
  · intro x5 x6 x7
    with_reducible apply State.dutyServes_keeps hP
    with_reducible apply State.setDuty_keeps hP.toStable
    with_reducible assumption

theorem State.msgRestarted_keeps {P : State → Prop} (hP : StableMem P) {s : State} {a1 : Nat} (h : P s) :
    P (State.msgRestarted s a1) := by
  unfold State.msgRestarted
  with_reducible apply State.f2h_keeps hP
  with_reducible assumption

theorem State.coreServes_keeps {P : State → Prop} (hP : StableMem P) {s : State} {a1 : Nat} (h : P s) :
    P (State.coreServes s a1) := by
  unfold State.coreServes
  extract_lets t1 t2 t3 t4 t5 t6 t7
  clear_value t1
  have h8 : P t2 := by
    unfold t2
    with_reducible apply State.setUnit_keeps hP.toStable
    with_reducible apply State.setFlag_keeps hP.toStable
    with_reducible apply State.setF_keeps hP.toStable
    with_reducible assumption
  clear_value t2
  have h9 : P t3 := by
    unfold t3
    with_reducible apply State.raiseMax_keeps hP.toStable
    with_reducible apply State.setF_keeps hP.toStable
    with_reducible assumption
  clear_value t3 t4
  have h10 : P t5 := by
    unfold t5
    with_reducible apply hP.toStable.rest
    with_reducible assumption
  clear_value t5
  have h11 : P t6 := by
    unfold t6
    with_reducible apply State.takeMoves_keeps hP
    with_reducible assumption
  clear_value t6
  have h12 : P t7 := by
    unfold t7
    with_reducible refine keep_ite (fun _ => ?_) (fun _ => ?_)
    · with_reducible apply keep_foldl (Q := P)
      · with_reducible assumption
      · intro x13 x14 x15
        extract_lets t16 t17
        have h18 : P t16 := by
          unfold t16
          with_reducible apply State.setFwFlags_keeps hP
          with_reducible assumption
        have h19 : P t17 := by
          unfold t17
          with_reducible refine keep_ite (fun _ => ?_) (fun _ => ?_)
          · with_reducible assumption
          · with_reducible apply State.wrN_keeps hP
            with_reducible assumption
        with_reducible refine keep_ite (fun _ => ?_) (fun _ => ?_)
        · with_reducible assumption
        · with_reducible apply State.wrN_keeps hP
          with_reducible assumption
    · with_reducible assumption
  clear_value t7
  with_reducible apply State.msgRestarted_keeps hP
  with_reducible apply keep_foldl (Q := P)
  · with_reducible assumption
  · intro x20 x21 x22
    with_reducible apply State.dutyServes_keeps hP
    with_reducible assumption

theorem State.readJournal_keeps {P : State → Prop} (hP : StableMem P) {s : State} {a1 : Nat} {a2 : Nat} {a3 : List (Nat × Nat)} (h : P s) :
    P (State.readJournal s a1 a2 a3) := by
  unfold State.readJournal
  extract_lets t1 t2 t3 t4 t5
  clear_value t1 t2
  have h6 : P t3 := by
    unfold t3
    with_reducible apply State.bump_keeps hP.toStable
    with_reducible assumption
  clear_value t3 t4
  have h7 : P t5 := by
    unfold t5
    with_reducible apply hP.toStable.rest
    with_reducible assumption
  clear_value t5
  with_reducible apply keep_foldl (Q := P)
  · with_reducible assumption
  · intro x8 x9 x10
    with_reducible apply State.msgQuarantine_keeps hP
    with_reducible apply State.err_keeps hP.toStable
    with_reducible assumption

theorem execRestartPhaseEnd_keeps {P : State → Prop} (hP : StableMem P) {a0 : Nat} {a1 : Bool} {a2 : Nat} {a3 : List (Nat × Nat)} {a4 : Nat} {s : State} (h : P s) :
    (Nxt P) (execRestartPhaseEnd a0 a1 a2 a3 a4 s) := by
  unfold execRestartPhaseEnd
  extract_lets t1
  have h2 : P t1 := by
    unfold t1
    with_reducible apply State.at_keeps hP.toStable
    with_reducible assumption
  clear_value t1
  with_reducible refine keep_ite (fun _ => ?_) (fun _ => ?_)
  · with_reducible apply done_keeps hP.toStable
    with_reducible assumption
  · split
    · with_reducible apply done_keeps hP.toStable
      with_reducible apply State.setF_keeps hP.toStable
      with_reducible assumption
    · with_reducible apply done_keeps hP.toStable
      with_reducible refine keep_ite (fun _ => ?_) (fun _ => ?_)
      · with_reducible apply State.setF_keeps hP.toStable
        with_reducible assumption
      · with_reducible apply State.restartCore_keeps hP
        with_reducible apply State.err_keeps hP.toStable
        with_reducible assumption
    · with_reducible apply done_keeps hP.toStable
      with_reducible apply State.setF_keeps hP.toStable
      with_reducible assumption
    · with_reducible apply done_keeps hP.toStable
      with_reducible apply State.coreServes_keeps hP
      with_reducible apply State.readJournal_keeps hP
      with_reducible assumption
    · with_reducible apply done_keeps hP.toStable
      with_reducible assumption

theorem execRestartPhaseOverrun_keeps {P : State → Prop} (hP : StableMem P) {a0 : Nat} {a1 : Bool} {a2 : Nat} {s : State} (h : P s) :
    (Nxt P) (execRestartPhaseOverrun a0 a1 a2 s) := by
  unfold execRestartPhaseOverrun
  extract_lets t1 t2
  have h3 : P t1 := by
    unfold t1
    with_reducible apply State.at_keeps hP.toStable
    with_reducible assumption
  clear_value t1 t2
  with_reducible refine keep_ite (fun _ => ?_) (fun _ => ?_)
  · with_reducible apply done_keeps hP.toStable
    with_reducible refine keep_ite (fun _ => ?_) (fun _ => ?_)
    · with_reducible apply State.restartCore_keeps hP
      with_reducible apply State.err_keeps hP.toStable
      with_reducible assumption
    · with_reducible apply State.restartCore_keeps hP
      with_reducible assumption
  · with_reducible apply done_keeps hP.toStable
    with_reducible assumption

theorem execDutyMove_keeps {P : State → Prop} (hP : StableMem P) {a0 : Nat} {a1 : Nat} {s : State} (h : P s) :
    (Nxt P) (execDutyMove a0 a1 s) := by
  unfold execDutyMove
  extract_lets t1 t2 t3 t4 t5
  clear_value t1 t2
  have h6 : P t3 := by
    unfold t3
    with_reducible apply hP.toStable.rest
    with_reducible assumption
  clear_value t3
  have h7 : P t4 := by
    unfold t4
    with_reducible apply State.dutyServes_keeps hP
    with_reducible apply State.setDuty_keeps hP.toStable
    with_reducible assumption
  clear_value t4
  have h8 : P t5 := by
    unfold t5
    with_reducible refine keep_ite (fun _ => ?_) (fun _ => ?_)
    · with_reducible apply State.fwFlagAll_keeps hP
      with_reducible assumption
    · with_reducible assumption
  clear_value t5
  with_reducible apply done_keeps hP.toStable
  with_reducible refine keep_ite (fun _ => ?_) (fun _ => ?_)
  · with_reducible apply State.msgRestarted_keeps hP
    with_reducible assumption
  · with_reducible assumption

theorem State.h2fTake_keeps {P : State → Prop} (hP : Stable P) {s : State} (h : P s) :
    P (State.h2fTake s) := by
  unfold State.h2fTake
  with_reducible apply hP.rest
  with_reducible assumption

theorem State.nearOnset_keeps {P : State → Prop} (hP : Stable P) {s : State} {a1 : Nat} (h : P s) :
    P (State.nearOnset s a1) := by
  unfold State.nearOnset
  extract_lets t1 t2
  have h3 : P t1 := by
    unfold t1
    with_reducible apply State.err_keeps hP
    with_reducible apply State.raise_keeps hP
    with_reducible apply State.setBit_keeps hP
    with_reducible assumption
  clear_value t1 t2
  with_reducible apply hP.rest
  with_reducible assumption

theorem State.lowerCeil_keeps {P : State → Prop} (hP : Stable P) {s : State} {a1 : Nat} {a2 : Nat} (h : P s) :
    P (State.lowerCeil s a1 a2) := by
  unfold State.lowerCeil
  extract_lets t1
  clear_value t1
  with_reducible refine keep_ite (fun _ => ?_) (fun _ => ?_)
  · with_reducible assumption
  · with_reducible apply State.setF_keeps hP
    with_reducible assumption

theorem State.raiseLevel_keeps {P : State → Prop} (hP : Stable P) {s : State} {a1 : Int} {a2 : Nat} (h : P s) :
    P (State.raiseLevel s a1 a2) := by
  unfold State.raiseLevel
  extract_lets t1
  clear_value t1
  with_reducible refine keep_ite (fun _ => ?_) (fun _ => ?_)
  · with_reducible apply State.setKilnLevel_keeps hP
    with_reducible assumption
  · with_reducible assumption

theorem State.enforce_keeps {P : State → Prop} (hP : Stable P) {s : State} {a1 : Nat} (h : P s) :
    P (State.enforce s a1) := by
  unfold State.enforce
  extract_lets t1 t2 t3 t4 t5
  clear_value t1
  have h6 : P t2 := by
    unfold t2
    with_reducible apply hP.rest
    with_reducible assumption
  clear_value t2
  have h7 : P t3 := by
    unfold t3
    with_reducible apply State.setSince_keeps hP
    with_reducible apply State.setBit_keeps hP
    with_reducible assumption
  clear_value t3
  have h8 : P t4 := by
    unfold t4
    with_reducible apply keep_foldl (Q := P)
    · with_reducible assumption
    · intro x9 x10 x11
      with_reducible apply State.lowerCeil_keeps hP
      with_reducible assumption
  clear_value t4
  have h12 : P t5 := by
    unfold t5
    with_reducible apply keep_foldl (Q := P)
    · with_reducible assumption
    · intro x13 x14 x15
      split
      · with_reducible apply State.raiseLevel_keeps hP
        with_reducible assumption
      · with_reducible assumption
  clear_value t5
  with_reducible refine keep_ite (fun _ => ?_) (fun _ => ?_)
  · with_reducible apply State.err_keeps hP
    with_reducible assumption
  · with_reducible apply State.setClocks_keeps hP
    with_reducible apply State.err_keeps hP
    with_reducible assumption

theorem State.regionAct_keeps {P : State → Prop} (hP : Stable P) {s : State} {a1 : Nat} (h : P s) :
    P (State.regionAct s a1) := by
  unfold State.regionAct
  split
  · with_reducible assumption
  · extract_lets t1 t2 t3 t4 t5
    have h6 : P t1 := by
      unfold t1
      with_reducible refine keep_ite (fun _ => ?_) (fun _ => ?_)
      · with_reducible refine keep_ite (fun _ => ?_) (fun _ => ?_)
        · with_reducible apply State.nearOnset_keeps hP
          with_reducible assumption
        · with_reducible refine keep_ite (fun _ => ?_) (fun _ => ?_)
          · with_reducible apply State.enforce_keeps hP
            with_reducible assumption
          · with_reducible assumption
      · with_reducible assumption
    clear_value t1
    have h7 : P t2 := by
      unfold t2
      with_reducible refine keep_ite (fun _ => ?_) (fun _ => ?_)
      · with_reducible apply keep_foldl (Q := P)
        · with_reducible assumption
        · intro x8 x9 x10
          with_reducible apply State.raiseLevel_keeps hP
          with_reducible assumption
      · with_reducible assumption
    clear_value t2
    have h11 : P t3 := by
      unfold t3
      with_reducible refine keep_ite (fun _ => ?_) (fun _ => ?_)
      · with_reducible apply State.clampOn_keeps hP
        with_reducible assumption
      · with_reducible assumption
    clear_value t3 t4
    have h12 : P t5 := by
      unfold t5
      with_reducible apply State.setF_keeps hP
      with_reducible assumption
    clear_value t5
    with_reducible refine keep_ite (fun _ => ?_) (fun _ => ?_)
    · with_reducible refine keep_ite (fun _ => ?_) (fun _ => ?_)
      · with_reducible apply State.setFlag_keeps hP
        with_reducible assumption
      · with_reducible assumption
    · with_reducible assumption

theorem State.sensorSample_keeps {P : State → Prop} (hP : Stable P) {s : State} {a1 : Nat} {a2 : Int} (h : P s) :
    P (State.sensorSample s a1 a2) := by
  unfold State.sensorSample
  extract_lets t1 t2 t3 t4 t5 t6 t7 t8 t9 t10 t11 t12
  clear_value t1 t2 t3 t4 t5 t6 t7 t8 t9
  have h13 : P t10 := by
    unfold t10
    with_reducible apply hP.rest
    with_reducible assumption
  clear_value t10
  have h14 : P t11 := by
    unfold t11
    with_reducible refine keep_ite (fun _ => ?_) (fun _ => ?_)
    · with_reducible apply State.rederate_keeps hP
      with_reducible apply State.err_keeps hP
      with_reducible apply State.bump_keeps hP
      with_reducible apply State.setBit_keeps hP
      with_reducible assumption
    · with_reducible assumption
  clear_value t11
  have h15 : P t12 := by
    unfold t12
    with_reducible apply State.regionAct_keeps hP
    with_reducible assumption
  clear_value t12
  with_reducible refine keep_ite (fun _ => ?_) (fun _ => ?_)
  · with_reducible apply State.noteReading_keeps hP
    with_reducible apply State.showTj_keeps hP
    with_reducible assumption
  · with_reducible assumption

theorem execSensorSample_keeps {P : State → Prop} (hP : Stable P) {a0 : Nat} {a1 : Int} {a2 : Nat} {s : State} (h : P s) :
    (Nxt P) (execSensorSample a0 a1 a2 s) := by
  unfold execSensorSample
  with_reducible apply done_keeps hP
  with_reducible apply State.sensorSample_keeps hP
  with_reducible apply State.at_keeps hP
  with_reducible assumption

theorem execThrottleReq_keeps {P : State → Prop} (hP : StableMem P) {a0 : Nat} {a1 : Nat} {a2 : Nat} {s : State} (h : P s) :
    (Nxt P) (execThrottleReq a0 a1 a2 s) := by
  unfold execThrottleReq
  extract_lets t1 t2 t3 t4 t5 t6 t7 t8 t9 t10
  have h11 : P t1 := by
    unfold t1
    with_reducible apply State.at_keeps hP.toStable
    with_reducible assumption
  clear_value t1 t2 t3 t4 t5 t6 t7
  have h12 : P t8 := by
    unfold t8
    with_reducible apply State.setF_keeps hP.toStable
    with_reducible assumption
  clear_value t8 t9
  have h13 : P t10 := by
    unfold t10
    with_reducible apply hP.toStable.rest
    with_reducible assumption
  clear_value t10
  with_reducible apply done_keeps hP.toStable
  with_reducible refine keep_ite (fun _ => ?_) (fun _ => ?_)
  · with_reducible apply keep_foldl (Q := P)
    · with_reducible apply State.f2h_keeps hP
      with_reducible assumption
    · intro x14 x15 x16
      with_reducible apply State.f2h_keeps hP
      with_reducible assumption
  · with_reducible assumption

theorem execThrottleAck_keeps {P : State → Prop} (hP : StableMem P) {a0 : Nat} {s : State} (h : P s) :
    (Nxt P) (execThrottleAck a0 s) := by
  unfold execThrottleAck
  with_reducible apply done_keeps hP.toStable
  split
  · with_reducible refine keep_ite (fun _ => ?_) (fun _ => ?_)
    · with_reducible apply State.h2fAnswer_keeps hP
      with_reducible apply State.raiseMax_keeps hP.toStable
      with_reducible assumption
    · with_reducible assumption
  · with_reducible assumption

theorem execThermalGraceEnd_keeps {P : State → Prop} (hP : Stable P) {a0 : Nat} {a1 : Nat} {s : State} (h : P s) :
    (Nxt P) (execThermalGraceEnd a0 a1 s) := by
  unfold execThermalGraceEnd
  extract_lets t1 t2
  have h3 : P t1 := by
    unfold t1
    with_reducible apply State.at_keeps hP
    with_reducible assumption
  clear_value t1 t2
  with_reducible apply done_keeps hP
  with_reducible refine keep_ite (fun _ => ?_) (fun _ => ?_)
  · with_reducible refine keep_ite (fun _ => ?_) (fun _ => ?_)
    · with_reducible apply hP.rest
      with_reducible assumption
    · with_reducible apply State.enforce_keeps hP
      with_reducible assumption
  · with_reducible assumption

theorem execEnforcementStep_keeps {P : State → Prop} (hP : Stable P) {a0 : Nat} {a1 : Nat} {s : State} (h : P s) :
    (Nxt P) (execEnforcementStep a0 a1 s) := by
  unfold execEnforcementStep
  extract_lets t1
  have h2 : P t1 := by
    unfold t1
    with_reducible apply State.at_keeps hP
    with_reducible assumption
  clear_value t1
  with_reducible apply done_keeps hP
  with_reducible refine keep_ite (fun _ => ?_) (fun _ => ?_)
  · with_reducible apply State.setClocks_keeps hP
    with_reducible apply State.setSince_keeps hP
    with_reducible apply keep_foldl (Q := P)
    · with_reducible assumption
    · intro x3 x4 x5
      with_reducible apply State.lowerCeil_keeps hP
      with_reducible assumption
  · with_reducible assumption

theorem execNearEnd_keeps {P : State → Prop} (hP : Stable P) {a0 : Nat} {a1 : Nat} {s : State} (h : P s) :
    (Nxt P) (execNearEnd a0 a1 s) := by
  unfold execNearEnd
  extract_lets t1 t2 t3 t4
  have h5 : P t1 := by
    unfold t1
    with_reducible apply State.at_keeps hP
    with_reducible assumption
  clear_value t1 t2
  have h6 : P t3 := by
    unfold t3
    with_reducible apply State.setBit_keeps hP
    with_reducible apply State.setBit_keeps hP
    with_reducible assumption
  clear_value t3 t4
  with_reducible apply done_keeps hP
  with_reducible refine keep_ite (fun _ => ?_) (fun _ => ?_)
  · with_reducible apply hP.rest
    with_reducible assumption
  · with_reducible assumption

theorem execPowerBudgetSample_keeps {P : State → Prop} (hP : Stable P) {a0 : Nat} {a1 : Nat} {a2 : Nat} {a3 : Nat} {a4 : Nat} {s : State} (h : P s) :
    (Nxt P) (execPowerBudgetSample a0 a1 a2 a3 a4 s) := by
  unfold execPowerBudgetSample
  extract_lets t1 t2 t3 t4 t5 t6 t7 t8 t9 t10 t11
  have h12 : P t1 := by
    unfold t1
    with_reducible apply State.senseInput_keeps hP
    with_reducible apply State.at_keeps hP
    with_reducible assumption
  clear_value t1 t2 t3
  have h13 : P t4 := by
    unfold t4
    with_reducible apply hP.rest
    with_reducible assumption
  clear_value t4
  have h14 : P t5 := by
    unfold t5
    with_reducible apply State.setF_keeps hP
    with_reducible apply State.setF_keeps hP
    with_reducible assumption
  clear_value t5 t6
  have h15 : P t7 := by
    unfold t7
    with_reducible refine keep_ite (fun _ => ?_) (fun _ => ?_)
    · with_reducible apply State.nearOnset_keeps hP
      with_reducible assumption
    · with_reducible assumption
  clear_value t7
  have h16 : P t8 := by
    unfold t8
    with_reducible refine keep_ite (fun _ => ?_) (fun _ => ?_)
    · with_reducible apply State.enforce_keeps hP
      with_reducible assumption
    · with_reducible assumption
  clear_value t8
  have h17 : P t9 := by
    unfold t9
    with_reducible apply State.note_keeps hP
    with_reducible assumption
  clear_value t9 t10 t11
  with_reducible apply done_keeps hP
  with_reducible refine keep_ite (fun _ => ?_) (fun _ => ?_)
  · with_reducible apply State.setClocks_keeps hP
    with_reducible apply State.setSince_keeps hP
    with_reducible apply State.setF_keeps hP
    with_reducible assumption
  · with_reducible assumption

theorem execPowerCeilingStep_keeps {P : State → Prop} (hP : Stable P) {a0 : Nat} {s : State} (h : P s) :
    (Nxt P) (execPowerCeilingStep a0 s) := by
  unfold execPowerCeilingStep
  extract_lets t1 t2
  have h3 : P t1 := by
    unfold t1
    with_reducible apply State.at_keeps hP
    with_reducible assumption
  clear_value t1 t2
  with_reducible apply done_keeps hP
  with_reducible refine keep_ite (fun _ => ?_) (fun _ => ?_)
  · with_reducible apply State.setClocks_keeps hP
    with_reducible apply State.setSince_keeps hP
    with_reducible apply State.setF_keeps hP
    with_reducible assumption
  · with_reducible assumption

theorem execClampRelease_keeps {P : State → Prop} (hP : Stable P) {a0 : Nat} {a1 : Nat} {s : State} (h : P s) :
    (Nxt P) (execClampRelease a0 a1 s) := by
  unfold execClampRelease
  extract_lets t1 t2
  have h3 : P t1 := by
    unfold t1
    with_reducible apply State.at_keeps hP
    with_reducible assumption
  clear_value t1 t2
  with_reducible apply done_keeps hP
  with_reducible refine keep_ite (fun _ => ?_) (fun _ => ?_)
  · with_reducible apply State.clampOff_keeps hP
    with_reducible assumption
  · with_reducible assumption

theorem execClockRampStep_keeps {P : State → Prop} (hP : Stable P) {a0 : Nat} {a1 : Nat} {s : State} (h : P s) :
    (Nxt P) (execClockRampStep a0 a1 s) := by
  unfold execClockRampStep
  extract_lets t1 t2 t3 t4 t5
  have h6 : P t1 := by
    unfold t1
    with_reducible apply State.at_keeps hP
    with_reducible assumption
  clear_value t1 t2 t3
  have h7 : P t4 := by
    unfold t4
    with_reducible apply hP.rest
    with_reducible assumption
  clear_value t4 t5
  with_reducible refine keep_ite (fun _ => ?_) (fun _ => ?_)
  · with_reducible apply done_keeps hP
    with_reducible assumption
  · with_reducible apply done_keeps hP
    with_reducible refine keep_ite (fun _ => ?_) (fun _ => ?_)
    · with_reducible apply State.setClock_keeps hP
      with_reducible assumption
    · with_reducible apply State.setClock_keeps hP
      with_reducible apply State.setSince_keeps hP
      with_reducible apply hP.rest
      with_reducible assumption

theorem execEpWindowEnd_keeps {P : State → Prop} (hP : Stable P) {a0 : Nat} {s : State} (h : P s) :
    (Nxt P) (execEpWindowEnd a0 s) := by
  unfold execEpWindowEnd
  with_reducible refine keep_ite (fun _ => ?_) (fun _ => ?_)
  · extract_lets t1 t2 t3 t4 t5 t6 t7
    clear_value t1 t2
    have h8 : P t3 := by
      unfold t3
      with_reducible apply hP.rest
      with_reducible assumption
    clear_value t3
    have h9 : P t4 := by
      unfold t4
      with_reducible apply State.setF_keeps hP
      with_reducible assumption
    clear_value t4 t5 t6
    have h10 : P t7 := by
      unfold t7
      with_reducible apply State.setF_keeps hP
      with_reducible assumption
    clear_value t7
    with_reducible refine keep_ite (fun _ => ?_) (fun _ => ?_)
    · with_reducible apply done_keeps hP
      with_reducible assumption
    · with_reducible apply done_keeps hP
      with_reducible refine keep_ite (fun _ => ?_) (fun _ => ?_)
      · with_reducible assumption
      · with_reducible refine keep_ite (fun _ => ?_) (fun _ => ?_)
        · with_reducible apply State.setClocks_keeps hP
          with_reducible apply State.setF_keeps hP
          with_reducible assumption
        · with_reducible refine keep_ite (fun _ => ?_) (fun _ => ?_)
          · with_reducible apply State.setClocks_keeps hP
            with_reducible apply State.setF_keeps hP
            with_reducible assumption
          · with_reducible assumption
  · with_reducible apply done_keeps hP
    with_reducible assumption

theorem execSlotWindowStart_keeps {P : State → Prop} (hP : Stable P) {a0 : Nat} {a1 : Nat} {s : State} (h : P s) :
    (Nxt P) (execSlotWindowStart a0 a1 s) := by
  unfold execSlotWindowStart
  split
  · with_reducible refine keep_ite (fun _ => ?_) (fun _ => ?_)
    · with_reducible apply done_keeps hP
      with_reducible apply State.setFlag_keeps hP
      with_reducible apply State.setF_keeps hP
      with_reducible apply State.setSlot_keeps hP
      with_reducible assumption
    · with_reducible apply done_keeps hP
      with_reducible assumption
  · with_reducible apply done_keeps hP
    with_reducible assumption

theorem execFootingDieFail_keeps {P : State → Prop} (hP : Stable P) {a0 : Nat} {a1 : Nat} {a2 : List Nat} {s : State} (h : P s) :
    (Nxt P) (execFootingDieFail a0 a1 a2 s) := by
  unfold execFootingDieFail
  with_reducible refine keep_ite (fun _ => ?_) (fun _ => ?_)
  · extract_lets t1 t2 t3
    have h4 : P t1 := by
      unfold t1
      with_reducible apply State.setBit_keeps hP
      with_reducible assumption
    clear_value t1
    have h5 : P t2 := by
      unfold t2
      with_reducible apply keep_foldl (Q := P)
      · with_reducible assumption
      · intro x6 x7 x8
        with_reducible refine keep_ite (fun _ => ?_) (fun _ => ?_)
        · with_reducible assumption
        · with_reducible apply State.setImage_keeps hP
          with_reducible assumption
    clear_value t2 t3
    with_reducible apply done_keeps hP
    with_reducible apply State.err_keeps hP
    with_reducible apply hP.rest
    with_reducible assumption
  · with_reducible apply done_keeps hP
    with_reducible assumption

theorem State.readN_keeps {P : State → Prop} (hP : StableMem P) {s : State} {a1 : Nat} {a2 : Nat} (h : P s) :
    (Snd (Snd P)) (State.readN s a1 a2) := by
  unfold State.readN
  extract_lets t1
  have h2 : (Snd (Snd (P))) t1 := by
    unfold t1
    with_reducible apply State.readB_keeps hP
    with_reducible assumption
  clear_value t1
  with_reducible assumption

end Sys2Proof.Machine
end

