-- ==== Sys2Proof/Laws/KeepB.lean ====
section
/-! SUPPORT. What the operations over bank units, reducers, stacks, the Yard, bricks and queues keep (see Keep.lean). -/

namespace Sys2Proof.Machine

theorem State.retirePhys_keeps {P : State → Prop} (hP : Stable P) {s : State} {a1 : Nat} (h : P s) :
    P (State.retirePhys s a1) := by
  unfold State.retirePhys
  with_reducible apply hP.rest
  with_reducible assumption

theorem State.retireBrick_keeps {P : State → Prop} (hP : Stable P) {s : State} {a1 : Nat} (h : P s) :
    P (State.retireBrick s a1) := by
  unfold State.retireBrick
  extract_lets t1 t2
  clear_value t1
  have h3 : P t2 := by
    unfold t2
    split
    · with_reducible apply hP.rest
      with_reducible assumption
    · with_reducible assumption
  clear_value t2
  with_reducible apply State.setUnit_keeps hP
  with_reducible apply State.retirePhys_keeps hP
  with_reducible assumption

theorem State.fillStack_keeps {P : State → Prop} (hP : StableMem P) {s : State} {a1 : Nat} (h : P s) :
    P (State.fillStack s a1) := by
  exact hP.cut h _ _

theorem State.setGroup_keeps {P : State → Prop} (hP : Stable P) {s : State} {a1 : Nat} {a2 : Option Group} (h : P s) :
    P (State.setGroup s a1 a2) := by
  unfold State.setGroup
  with_reducible apply hP.rest
  with_reducible assumption

theorem State.openWaiting_keeps {P : State → Prop} (hP : Stable P) {s : State} {a1 : Nat} {a2 : Nat} (h : P s) :
    P (State.openWaiting s a1 a2) := by
  induction a2 generalizing s a1
  · unfold State.openWaiting
    with_reducible assumption
  · unfold State.openWaiting
    rename_i ih
    split
    · with_reducible assumption
    · with_reducible refine keep_ite (fun _ => ?_) (fun _ => ?_)
      · with_reducible apply ih
        with_reducible apply State.setGroup_keeps hP
        with_reducible apply hP.rest
        with_reducible assumption
      · with_reducible assumption

theorem State.hodFreed_keeps {P : State → Prop} (hP : Stable P) {s : State} {a1 : Nat} (h : P s) :
    P (State.hodFreed s a1) := by
  unfold State.hodFreed
  with_reducible refine keep_ite (fun _ => ?_) (fun _ => ?_)
  · with_reducible apply hP.rest
    with_reducible assumption
  · with_reducible assumption

theorem State.bedWrite_keeps {P : State → Prop} (hP : StableMem P) {s : State} {a1 : Nat} {a2 : EIns} {a3 : Nat} {a4 : List Byte} {a5 : Bool} (h : P s) :
    (Snd P) (State.bedWrite s a1 a2 a3 a4 a5) := by
  unfold State.bedWrite
  extract_lets t1 t2
  have h3 : (Fst (P)) t1 := by
    unfold t1
    with_reducible apply State.putRun_keeps hP
    with_reducible assumption
  clear_value t1
  have h4 : P t2 := by
    unfold t2
    with_reducible refine keep_ite (fun _ => ?_) (fun _ => ?_)
    · with_reducible apply State.poisonRange_keeps hP
      with_reducible assumption
    · with_reducible assumption
  clear_value t2
  with_reducible apply keep_pair_snd
  with_reducible apply State.setBrick_keeps hP.toStable
  with_reducible assumption

theorem State.chargeBrick_keeps {P : State → Prop} (hP : Stable P) {s : State} {a1 : Nat} {a2 : Nat} (h : P s) :
    P (State.chargeBrick s a1 a2) := by
  unfold State.chargeBrick
  extract_lets t1
  clear_value t1
  split
  · with_reducible assumption
  · extract_lets t2
    have h3 : P t2 := by
      unfold t2
      with_reducible apply State.chargeOwn_keeps hP
      with_reducible assumption
    clear_value t2
    with_reducible apply State.setBrick_keeps hP
    with_reducible assumption

theorem State.brickFreed_keeps {P : State → Prop} (hP : Stable P) {s : State} {a1 : Nat} (h : P s) :
    P (State.brickFreed s a1) := by
  unfold State.brickFreed
  split
  · with_reducible assumption
  · split
    · with_reducible assumption
    · with_reducible apply State.bumpGen_keeps hP
      with_reducible apply hP.rest
      with_reducible assumption

theorem State.itemOver_keeps {P : State → Prop} (hP : Stable P) {s : State} {a1 : BRun} (h : P s) :
    P (State.itemOver s a1) := by
  unfold State.itemOver
  with_reducible apply State.onStep_keeps hP
  with_reducible assumption

theorem State.halt_keeps {P : State → Prop} (hP : Stable P) {s : State} {a1 : Nat} {a2 : Nat} (h : P s) :
    P (State.halt s a1 a2) := by
  unfold State.halt
  extract_lets t1 t2
  have h3 : P t1 := by
    unfold t1
    with_reducible apply State.chargeBrick_keeps hP
    with_reducible assumption
  clear_value t1 t2
  split
  · with_reducible assumption
  · with_reducible apply State.brickFreed_keeps hP
    with_reducible apply State.itemOver_keeps hP
    with_reducible apply State.workFail_keeps hP
    with_reducible apply State.setBrick_keeps hP
    with_reducible assumption

theorem State.poisoned_keeps {P : State → Prop} (hP : Stable P) {s : State} {a1 : Nat} {a2 : Option Nat} (h : P s) :
    P (State.poisoned s a1 a2) := by
  unfold State.poisoned
  extract_lets t1
  have h2 : P t1 := by
    unfold t1
    with_reducible apply State.err_keeps hP
    with_reducible apply State.bump_keeps hP
    with_reducible assumption
  clear_value t1
  split
  · with_reducible apply State.workFail_keeps hP
    with_reducible assumption
  · with_reducible assumption

theorem State.meets_keeps {P : State → Prop} (hP : Stable P) {s : State} {a1 : Nat} {a2 : Job} {a3 : Bool} {a4 : Option Nat} (h : P s) :
    (Fst P) (State.meets s a1 a2 a3 a4) := by
  unfold State.meets
  with_reducible refine keep_ite (fun _ => ?_) (fun _ => ?_)
  · with_reducible apply keep_pair_fst
    with_reducible apply State.poisoned_keeps hP
    with_reducible assumption
  · with_reducible assumption

theorem State.hazard_keeps {P : State → Prop} (hP : Stable P) {s : State} {a1 : Nat} {a2 : Nat} {a3 : Nat} {a4 : Nat} {a5 : Nat} {a6 : Nat} (h : P s) :
    P (State.hazard s a1 a2 a3 a4 a5 a6) := by
  unfold State.hazard
  extract_lets t1 t2 t3 t4
  have h5 : P t1 := by
    unfold t1
    with_reducible apply State.setF_keeps hP
    with_reducible apply State.setF_keeps hP
    with_reducible apply State.setFlag_keeps hP
    with_reducible assumption
  clear_value t1
  have h6 : P t2 := by
    unfold t2
    with_reducible refine keep_ite (fun _ => ?_) (fun _ => ?_)
    · with_reducible apply State.setFlag_keeps hP
      with_reducible assumption
    · with_reducible apply State.setF_keeps hP
      with_reducible apply State.setF_keeps hP
      with_reducible assumption
  clear_value t2
  have h7 : P t3 := by
    unfold t3
    with_reducible apply State.bump_keeps hP
    with_reducible assumption
  clear_value t3 t4
  split
  · with_reducible apply State.setBrick_keeps hP
    with_reducible assumption
  · with_reducible assumption

theorem State.watch_keeps {P : State → Prop} (hP : Stable P) {s : State} {a1 : Nat} {a2 : Nat} {a3 : EIns} {a4 : Nat} {a5 : Nat} {a6 : Nat} {a7 : Bool} (h : P s) :
    P (State.watch s a1 a2 a3 a4 a5 a6 a7) := by
  unfold State.watch
  extract_lets t1
  clear_value t1
  with_reducible refine keep_ite (fun _ => ?_) (fun _ => ?_)
  · with_reducible apply State.hazard_keeps hP
    with_reducible assumption
  · with_reducible assumption

theorem State.bedRead_keeps {P : State → Prop} (hP : StableMem P) {s : State} {a1 : Nat} {a2 : Nat} {a3 : EIns} {a4 : Nat} {a5 : Nat} {a6 : Nat} (h : P s) :
    (Snd (Snd P)) (State.bedRead s a1 a2 a3 a4 a5 a6) := by
  unfold State.bedRead
  extract_lets t1 t2
  clear_value t1
  have h3 : P t2 := by
    unfold t2
    with_reducible apply keep_foldl (Q := P)
    · with_reducible assumption
    · intro x4 x5 x6
      with_reducible apply State.watch_keeps hP.toStable
      with_reducible assumption
  clear_value t2
  with_reducible apply keep_pair_snd
  with_reducible apply keep_pair_snd
  with_reducible apply keep_foldl (Q := P)
  · with_reducible assumption
  · intro x7 x8 x9
    with_reducible apply State.checkWord_keeps hP
    with_reducible assumption

theorem State.engineIllegal_keeps {P : State → Prop} (hP : Stable P) {s : State} {a1 : Nat} (h : P s) :
    P (State.engineIllegal s a1) := by
  unfold State.engineIllegal
  with_reducible apply State.err_keeps hP
  with_reducible apply State.halt_keeps hP
  with_reducible assumption

theorem State.parity_keeps {P : State → Prop} (hP : Stable P) {s : State} {a1 : Nat} {a2 : List (Nat × Nat)} (h : P s) :
    P (State.parity s a1 a2) := by
  unfold State.parity
  with_reducible apply keep_foldl (Q := P)
  · with_reducible assumption
  · intro x1 x2 x3
    with_reducible apply State.err_keeps hP
    with_reducible apply State.bump_keeps hP
    with_reducible apply State.setBrick_keeps hP
    with_reducible assumption

theorem State.noteWait_keeps {P : State → Prop} (hP : Stable P) {s : State} {a1 : Nat} {a2 : EIns} {a3 : Nat} (h : P s) :
    P (State.noteWait s a1 a2 a3) := by
  unfold State.noteWait
  with_reducible apply State.raiseMax_keeps hP
  with_reducible assumption

theorem State.acquire_keeps {P : State → Prop} (hP : Stable P) {s : State} {a1 : Nat} {a2 : YLine → Bool} {a3 : Stream → Bool} {a4 : QMsg → Bool} {a5 : Resident → Bool} (h : P s) :
    P (State.acquire s a1 a2 a3 a4 a5) := by
  unfold State.acquire
  extract_lets t1 t2
  clear_value t1
  have h3 : P t2 := by
    unfold t2
    with_reducible apply hP.rest
    with_reducible assumption
  clear_value t2
  with_reducible apply State.bumpW_keeps hP
  with_reducible apply State.dropFills_keeps hP
  with_reducible assumption

theorem State.acquireAll_keeps {P : State → Prop} (hP : Stable P) {s : State} {a1 : Nat} (h : P s) :
    P (State.acquireAll s a1) := by
  unfold State.acquireAll
  with_reducible apply State.acquire_keeps hP
  with_reducible assumption

theorem State.needs_keeps {P : State → Prop} (hP : StableMem P) {s : State} {a1 : Nat} {a2 : Nat} {a3 : List (Nat × Nat)} (h : P s) :
    (Opt P) (State.needs s a1 a2 a3) := by
  unfold State.needs
  split
  · with_reducible apply keep_none
  · with_reducible refine keep_ite (fun _ => ?_) (fun _ => ?_)
    · with_reducible apply keep_some
      with_reducible apply State.finish_keeps hP
      with_reducible assumption
    · extract_lets t1 t2
      clear_value t1
      have h3 : P t2 := by
        unfold t2
        with_reducible apply keep_foldl (Q := P)
        · with_reducible apply State.onCmd_keeps hP.toStable
          with_reducible assumption
        · intro x4 x5 x6
          extract_lets t7
          have h8 : P t7 := by
            unfold t7
            with_reducible apply State.chargeOwn_keeps hP.toStable
            with_reducible assumption
          clear_value t7
          with_reducible refine keep_ite (fun _ => ?_) (fun _ => ?_)
          · with_reducible apply State.enter_keeps hP
            with_reducible apply State.oweAck_keeps hP.toStable
            with_reducible assumption
          · split
            · with_reducible apply State.oweAck_keeps hP.toStable
              refine keep_of_pair ‹_ = (_, _)› ?_
              with_reducible apply State.sendRemote_keeps hP.toStable
              with_reducible assumption
            · with_reducible apply State.workFail_keeps hP.toStable
              refine keep_of_pair ‹_ = (_, _)› ?_
              with_reducible apply State.sendRemote_keeps hP.toStable
              with_reducible assumption
      clear_value t2
      with_reducible refine keep_ite (fun _ => ?_) (fun _ => ?_)
      · with_reducible apply keep_none
      · split
        · with_reducible apply keep_some
          with_reducible refine keep_ite (fun _ => ?_) (fun _ => ?_)
          · with_reducible apply State.finish_keeps hP
            with_reducible assumption
          · with_reducible assumption
        · with_reducible apply keep_some
          with_reducible assumption

theorem State.look_keeps {P : State → Prop} (hP : StableMem P) {s : State} {a1 : Cmd} {a2 : Nat} {a3 : Nat} (h : P s) :
    P (State.look s a1 a2 a3) := by
  unfold State.look
  with_reducible refine keep_ite (fun _ => ?_) (fun _ => ?_)
  · with_reducible apply keep_snd
    with_reducible apply keep_snd
    with_reducible apply State.loadFor_keeps hP
    with_reducible assumption
  · with_reducible assumption

theorem State.takeWork_keeps {P : State → Prop} (hP : Stable P) {s : State} {a1 : Nat} {a2 : Nat} (h : P s) :
    (Opt (Snd P)) (State.takeWork s a1 a2) := by
  unfold State.takeWork
  with_reducible refine keep_ite (fun _ => ?_) (fun _ => ?_)
  · with_reducible apply keep_some
    with_reducible assumption
  · extract_lets t1 t2 t3
    clear_value t1 t2
    have h4 : P t3 := by
      unfold t3
      with_reducible apply hP.rest
      with_reducible assumption
    clear_value t3
    with_reducible refine keep_ite (fun _ => ?_) (fun _ => ?_)
    · with_reducible apply keep_none
    · with_reducible apply keep_some
      with_reducible apply keep_pair_snd
      with_reducible apply State.raiseMax_keeps hP
      with_reducible assumption

theorem State.acquireRange_keeps {P : State → Prop} (hP : Stable P) {s : State} {a1 : Nat} {a2 : Nat} {a3 : Nat} (h : P s) :
    P (State.acquireRange s a1 a2 a3) := by
  unfold State.acquireRange
  extract_lets t1
  clear_value t1
  with_reducible apply State.acquire_keeps hP
  with_reducible assumption

theorem State.clsWrite_keeps {P : State → Prop} (hP : Stable P) {s : State} {a1 : Nat} {a2 : Nat} (h : P s) :
    P (State.clsWrite s a1 a2) := by
  unfold State.clsWrite
  extract_lets t1 t2 t3
  clear_value t1 t2
  have h4 : P t3 := by
    unfold t3
    with_reducible apply State.setF_keeps hP
    with_reducible apply State.setF_keeps hP
    with_reducible assumption
  clear_value t3
  with_reducible refine keep_ite (fun _ => ?_) (fun _ => ?_)
  · with_reducible assumption
  · with_reducible refine keep_ite (fun _ => ?_) (fun _ => ?_)
    · with_reducible apply State.err_keeps hP
      with_reducible assumption
    · with_reducible assumption

theorem State.afterService_keeps {P : State → Prop} (hP : StableMem P) {s : State} (h : P s) :
    P (State.afterService s) := by
  unfold State.afterService
  with_reducible refine keep_ite (fun _ => ?_) (fun _ => ?_)
  · with_reducible assumption
  · with_reducible apply State.yardAll_keeps hP
    with_reducible assumption

theorem State.serveYield_keeps {P : State → Prop} (hP : StableMem P) {s : State} {a1 : Nat} {a2 : Run} (h : P s) :
    P (State.serveYield s a1 a2) := by
  unfold State.serveYield
  extract_lets t1 t2
  have h3 : P t1 := by
    unfold t1
    with_reducible refine keep_ite (fun _ => ?_) (fun _ => ?_)
    · with_reducible apply State.bumpW_keeps hP.toStable
      with_reducible assumption
    · with_reducible assumption
  clear_value t1
  have h4 : P t2 := by
    unfold t2
    with_reducible apply State.setRun_keeps hP.toStable
    with_reducible assumption
  clear_value t2
  with_reducible apply keep_foldl (Q := P)
  · with_reducible assumption
  · intro x5 x6 x7
    with_reducible apply State.serveHeld_keeps hP
    with_reducible assumption

theorem execYieldPoint_keeps {P : State → Prop} (hP : StableMem P) {a0 : Nat} {a1 : Nat} {a2 : Nat} {s : State} (h : P s) :
    (Nxt P) (execYieldPoint a0 a1 a2 s) := by
  unfold execYieldPoint
  extract_lets t1 t2
  clear_value t1
  have h3 : P t2 := by
    unfold t2
    with_reducible apply State.at_keeps hP.toStable
    with_reducible assumption
  clear_value t2
  split
  · with_reducible apply done_keeps hP.toStable
    with_reducible assumption
  · extract_lets t4
    clear_value t4
    with_reducible refine keep_ite (fun _ => ?_) (fun _ => ?_)
    · with_reducible apply done_keeps hP.toStable
      with_reducible assumption
    · with_reducible apply done_keeps hP.toStable
      with_reducible apply State.afterService_keeps hP
      with_reducible apply State.serveYield_keeps hP
      with_reducible assumption

theorem State.stkTrain_keeps {P : State → Prop} (hP : Stable P) {s : State} {a1 : Nat} (h : P s) :
    P (State.stkTrain s a1) := by
  unfold State.stkTrain
  with_reducible refine keep_ite (fun _ => ?_) (fun _ => ?_)
  · with_reducible assumption
  · with_reducible apply State.setUnit_keeps hP
    with_reducible apply State.setF_keeps hP
    with_reducible apply State.setF_keeps hP
    with_reducible apply State.setFlag_keeps hP
    with_reducible assumption

theorem State.closeGroups_keeps {P : State → Prop} (hP : Stable P) {s : State} {a1 : Own → Bool} (h : P s) :
    P (State.closeGroups s a1) := by
  unfold State.closeGroups
  extract_lets t1 t2 t3
  clear_value t1 t2
  have h4 : P t3 := by
    unfold t3
    with_reducible apply hP.rest
    with_reducible assumption
  clear_value t3
  with_reducible apply keep_foldl (Q := P)
  · with_reducible assumption
  · intro x5 x6 x7
    with_reducible apply State.openWaiting_keeps hP
    with_reducible assumption

theorem State.giveWork_keeps {P : State → Prop} (hP : Stable P) {s : State} {a1 : List Nat} (h : P s) :
    P (State.giveWork s a1) := by
  unfold State.giveWork
  with_reducible apply hP.rest
  with_reducible assumption

theorem State.clearExpired_keeps {P : State → Prop} (hP : Stable P) {s : State} {a1 : Nat} (h : P s) :
    P (State.clearExpired s a1) := by
  unfold State.clearExpired
  extract_lets t1 t2
  have h3 : P t1 := by
    unfold t1
    with_reducible apply State.giveWork_keeps hP
    with_reducible assumption
  clear_value t1 t2
  with_reducible apply hP.rest
  with_reducible assumption

theorem State.putRegion_keeps {P : State → Prop} (hP : Stable P) {s : State} {a1 : Nat} {a2 : Nat} (h : P s) :
    P (State.putRegion s a1 a2) := by
  unfold State.putRegion
  with_reducible apply State.bumpW_keeps hP
  with_reducible apply hP.rest
  with_reducible assumption

theorem State.regIndexWrite_keeps {P : State → Prop} (hP : Stable P) {s : State} {a1 : Requester} {a2 : Nat} (h : P s) :
    P (State.regIndexWrite s a1 a2) := by
  unfold State.regIndexWrite
  extract_lets t1 t2
  have h3 : P t1 := by
    unfold t1
    with_reducible apply State.setF_keeps hP
    with_reducible assumption
  clear_value t1 t2
  with_reducible apply State.setReg_keeps hP
  with_reducible assumption

theorem State.doorbell_keeps {P : State → Prop} (hP : Stable P) {s : State} {a1 : Nat} {a2 : Nat} {a3 : Nat} (h : P s) :
    P (State.doorbell s a1 a2 a3) := by
  unfold State.doorbell
  extract_lets t1
  clear_value t1
  with_reducible refine keep_ite (fun _ => ?_) (fun _ => ?_)
  · with_reducible apply State.setFlag_keeps hP
    with_reducible assumption
  · with_reducible apply State.setF_keeps hP
    with_reducible assumption

theorem State.regStage_keeps {P : State → Prop} (hP : Stable P) {s : State} {a1 : Requester} {a2 : Nat} (h : P s) :
    P (State.regStage s a1 a2) := by
  unfold State.regStage
  with_reducible refine keep_ite (fun _ => ?_) (fun _ => ?_)
  · with_reducible assumption
  · with_reducible apply State.setReg_keeps hP
    with_reducible assumption

theorem State.regCommit_keeps {P : State → Prop} (hP : Stable P) {s : State} {a1 : Requester} {a2 : Nat} {a3 : Nat} (h : P s) :
    (Snd P) (State.regCommit s a1 a2 a3) := by
  unfold State.regCommit
  extract_lets t1 t2 t3 t4 t5 t6
  clear_value t1 t2 t3 t4 t5
  have h7 : (Snd (P)) t6 := by
    unfold t6
    with_reducible refine keep_ite (fun _ => ?_) (fun _ => ?_)
    · with_reducible apply keep_pair_snd
      with_reducible apply State.err_keeps hP
      with_reducible assumption
    · with_reducible refine keep_ite (fun _ => ?_) (fun _ => ?_)
      · with_reducible apply keep_pair_snd
        with_reducible apply hP.rest
        with_reducible assumption
      · with_reducible apply keep_pair_snd
        with_reducible apply State.putRegion_keeps hP
        with_reducible assumption
  clear_value t6
  with_reducible refine keep_ite (fun _ => ?_) (fun _ => ?_)
  · with_reducible assumption
  · with_reducible refine keep_ite (fun _ => ?_) (fun _ => ?_)
    · with_reducible assumption
    · with_reducible apply keep_pair_snd
      with_reducible apply State.setReg_keeps hP
      with_reducible assumption

theorem State.bentryWrite_keeps {P : State → Prop} (hP : Stable P) {s : State} {a1 : Nat} {a2 : Nat} (h : P s) :
    P (State.bentryWrite s a1 a2) := by
  unfold State.bentryWrite
  with_reducible refine keep_ite (fun _ => ?_) (fun _ => ?_)
  · with_reducible assumption
  · with_reducible refine keep_ite (fun _ => ?_) (fun _ => ?_)
    · with_reducible apply State.err_keeps hP
      with_reducible assumption
    · extract_lets t1 t2 t3 t4
      clear_value t1 t2 t3
      have h5 : P t4 := by
        unfold t4
        with_reducible apply hP.rest
        with_reducible assumption
      clear_value t4
      with_reducible apply State.bumpW_keeps hP
      with_reducible apply State.setFlag_keeps hP
      with_reducible assumption

theorem State.slabSpare_keeps {P : State → Prop} (hP : StableMem P) {s : State} {a1 : Nat} {a2 : Nat} (h : P s) :
    P (State.slabSpare s a1 a2) := by
  unfold State.slabSpare
  extract_lets t1 t2
  have h3 : P t1 := by
    unfold t1
    with_reducible apply State.err_keeps hP.toStable
    with_reducible apply State.setFlag_keeps hP.toStable
    with_reducible assumption
  clear_value t1 t2
  with_reducible refine keep_ite (fun _ => ?_) (fun _ => ?_)
  · with_reducible assumption
  · with_reducible refine keep_ite (fun _ => ?_) (fun _ => ?_)
    · with_reducible assumption
    · split
      · with_reducible assumption
      · extract_lets t4 t5
        have h6 : P t4 := by
          unfold t4
          with_reducible apply hP.toStable.rest
          with_reducible assumption
        clear_value t4
        have h7 : P t5 := by
          unfold t5
          with_reducible apply keep_foldl (Q := P)
          · with_reducible assumption
          · intro x8 x9 x10
            with_reducible apply State.lineOut_keeps hP
            with_reducible assumption
        clear_value t5
        with_reducible apply State.journalOpen_keeps hP.toStable
        with_reducible apply State.setF_keeps hP.toStable
        with_reducible apply State.setFlag_keeps hP.toStable
        with_reducible apply State.setFlag_keeps hP.toStable
        with_reducible assumption

theorem State.quotaCacheWrite_keeps {P : State → Prop} (hP : Stable P) {s : State} {a1 : Nat} {a2 : Nat} (h : P s) :
    P (State.quotaCacheWrite s a1 a2) := by
  unfold State.quotaCacheWrite
  extract_lets t1 t2
  have h3 : P t1 := by
    unfold t1
    with_reducible apply State.setReg_keeps hP
    with_reducible assumption
  clear_value t1 t2
  with_reducible refine keep_ite (fun _ => ?_) (fun _ => ?_)
  · with_reducible apply State.err_keeps hP
    with_reducible assumption
  · with_reducible assumption

theorem State.queueEnable_keeps {P : State → Prop} (hP : Stable P) {s : State} {a1 : Nat} {a2 : Nat} {a3 : Bool} (h : P s) :
    P (State.queueEnable s a1 a2 a3) := by
  unfold State.queueEnable
  with_reducible refine keep_ite (fun _ => ?_) (fun _ => ?_)
  · with_reducible assumption
  · with_reducible apply State.setFlag_keeps hP
    with_reducible assumption

theorem State.ringHead_keeps {P : State → Prop} (hP : Stable P) {s : State} {a1 : Fld} {a2 : Fld} {a3 : Nat} {a4 : Nat} {a5 : Nat} (h : P s) :
    P (State.ringHead s a1 a2 a3 a4 a5) := by
  unfold State.ringHead
  with_reducible refine keep_ite (fun _ => ?_) (fun _ => ?_)
  · with_reducible apply State.setF_keeps hP
    with_reducible assumption
  · with_reducible assumption

theorem State.ringRead_keeps {P : State → Prop} (hP : StableMem P) {s : State} {a1 : Nat} {a2 : Nat} {a3 : Nat} (h : P s) :
    (Snd (Snd P)) (State.ringRead s a1 a2 a3) := by
  unfold State.ringRead
  with_reducible apply State.readB_keeps hP
  with_reducible refine keep_ite (fun _ => ?_) (fun _ => ?_)
  · with_reducible apply State.passLines_keeps hP
    with_reducible assumption
  · with_reducible assumption

theorem State.addCmd_keeps {P : State → Prop} (hP : Stable P) {s : State} {a1 : Nat} {a2 : Nat} {a3 : List Nat} (h : P s) :
    P (State.addCmd s a1 a2 a3) := by
  unfold State.addCmd
  with_reducible apply hP.rest
  with_reducible assumption

theorem State.flushQueue_keeps {P : State → Prop} (hP : StableMem P) {s : State} {a1 : Nat} {a2 : Nat} (h : P s) :
    P (State.flushQueue s a1 a2) := by
  unfold State.flushQueue
  extract_lets t1 t2 t3 t4 t5
  have h6 : P t1 := by
    unfold t1
    with_reducible apply keep_foldl (Q := P)
    · with_reducible assumption
    · intro x7 x8 x9
      with_reducible apply State.finish_keeps hP
      with_reducible apply State.onCmd_keeps hP.toStable
      with_reducible assumption
  clear_value t1 t4
  have h10 : P t5 := by
    unfold t5
    with_reducible apply keep_foldl (Q := P)
    · with_reducible assumption
    · intro x11 x12 x13
      extract_lets t14 t15 t16 t17 t18 t19
      have h20 : (Snd (Snd (P))) t15 := by
        unfold t15
        with_reducible apply State.ringRead_keeps hP
        with_reducible assumption
      clear_value t15 t17
      have h21 : P t18 := by
        unfold t18
        with_reducible refine keep_ite (fun _ => ?_) (fun _ => ?_)
        · with_reducible assumption
        · with_reducible assumption
      clear_value t18 t19
      with_reducible apply State.finish_keeps hP
      with_reducible apply State.onCmd_keeps hP.toStable
      with_reducible apply State.addCmd_keeps hP.toStable
      with_reducible assumption
  clear_value t5
  with_reducible apply State.setF_keeps hP.toStable
  with_reducible apply State.setF_keeps hP.toStable
  with_reducible assumption

theorem State.queueResume_keeps {P : State → Prop} (hP : StableMem P) {s : State} {a1 : Nat} {a2 : Nat} {a3 : Nat} (h : P s) :
    P (State.queueResume s a1 a2 a3) := by
  unfold State.queueResume
  extract_lets t1
  have h2 : P t1 := by
    unfold t1
    with_reducible apply keep_foldl (Q := P)
    · with_reducible assumption
    · intro x3 x4 x5
      with_reducible apply State.flushQueue_keeps hP
      with_reducible assumption
  clear_value t1
  with_reducible apply keep_foldl (Q := P)
  · with_reducible assumption
  · intro x6 x7 x8
    with_reducible refine keep_ite (fun _ => ?_) (fun _ => ?_)
    · with_reducible apply State.setFlag_keeps hP.toStable
      with_reducible assumption
    · with_reducible assumption

theorem State.rprCmd_keeps {P : State → Prop} (hP : Stable P) {s : State} {a1 : Nat} {a2 : Nat} (h : P s) :
    P (State.rprCmd s a1 a2) := by
  unfold State.rprCmd
  extract_lets t1 t2 t3 t4 t5 t6
  clear_value t1 t2 t3
  have h7 : ∀ y0, P y0 → (P) (t4 y0) := by
    unfold t4
    intro x8 x9
    with_reducible apply State.setFlag_keeps hP
    with_reducible assumption
  clear_value t4
  have h10 : ∀ y0, P y0 → (P) (t5 y0) := by
    unfold t5
    intro x11 x12
    with_reducible apply State.journalOpen_keeps hP
    with_reducible apply State.setF_keeps hP
    with_reducible apply State.setFlag_keeps hP
    with_reducible apply State.setFlag_keeps hP
    with_reducible apply hP.rest
    with_reducible assumption
  clear_value t5
  have h13 : ∀ y0, P y0 → (P) (t6 y0) := by
    unfold t6
    intro x14 x15
    with_reducible apply State.err_keeps hP
    with_reducible apply State.setFlag_keeps hP
    with_reducible apply h7
    with_reducible assumption
  clear_value t6
  with_reducible refine keep_ite (fun _ => ?_) (fun _ => ?_)
  · with_reducible assumption
  · with_reducible refine keep_ite (fun _ => ?_) (fun _ => ?_)
    · with_reducible refine keep_ite (fun _ => ?_) (fun _ => ?_)
      · with_reducible apply h10
        with_reducible assumption
      · with_reducible apply h13
        with_reducible assumption
    · with_reducible refine keep_ite (fun _ => ?_) (fun _ => ?_)
      · with_reducible refine keep_ite (fun _ => ?_) (fun _ => ?_)
        · with_reducible apply h10
          with_reducible assumption
        · with_reducible apply h13
          with_reducible assumption
      · with_reducible apply h7
        with_reducible assumption

theorem State.mapCmd_keeps {P : State → Prop} (hP : Stable P) {s : State} {a1 : Nat} {a2 : Nat} {a3 : Nat} {a4 : Nat} (h : P s) :
    P (State.mapCmd s a1 a2 a3 a4) := by
  unfold State.mapCmd
  extract_lets t1 t2 t3 t4
  clear_value t1
  have h5 : P t2 := by
    unfold t2
    with_reducible apply State.setFlag_keeps hP
    with_reducible assumption
  clear_value t2
  have h6 : ∀ y0, P y0 → (P) (t3 y0) := by
    unfold t3
    intro x7 x8
    with_reducible apply State.setFlag_keeps hP
    with_reducible assumption
  clear_value t3 t4
  with_reducible refine keep_ite (fun _ => ?_) (fun _ => ?_)
  · split
    · with_reducible refine keep_ite (fun _ => ?_) (fun _ => ?_)
      · extract_lets t9 t10
        have h11 : P t9 := by
          unfold t9
          with_reducible apply hP.rest
          with_reducible assumption
        clear_value t9
        have h12 : P t10 := by
          unfold t10
          with_reducible apply State.retirePhys_keeps hP
          with_reducible assumption
        clear_value t10
        with_reducible apply h6
        with_reducible apply State.setFlag_keeps hP
        with_reducible apply State.setUnit_keeps hP
        with_reducible apply State.setUnit_keeps hP
        with_reducible assumption
      · with_reducible assumption
    · with_reducible assumption
  · with_reducible refine keep_ite (fun _ => ?_) (fun _ => ?_)
    · with_reducible refine keep_ite (fun _ => ?_) (fun _ => ?_)
      · with_reducible apply h6
        with_reducible apply State.retireBrick_keeps hP
        with_reducible assumption
      · with_reducible assumption
    · with_reducible assumption

theorem execBrickClearDone_keeps {P : State → Prop} (hP : StableMem P) {a0 : Nat} {s : State} (h : P s) :
    (Nxt P) (execBrickClearDone a0 s) := by
  unfold execBrickClearDone
  with_reducible apply done_keeps hP.toStable
  with_reducible apply State.settleBrick_keeps hP
  with_reducible assumption

theorem State.trimSlab_keeps {P : State → Prop} (hP : StableMem P) {s : State} {a1 : Nat} (h : P s) :
    P (State.trimSlab s a1) := by
  unfold State.trimSlab
  extract_lets t1
  clear_value t1
  with_reducible apply keep_foldl (Q := P)
  · with_reducible assumption
  · intro x2 x3 x4
    with_reducible apply State.lineOut_keeps hP
    with_reducible assumption

theorem State.begin__keeps {P : State → Prop} (hP : Stable P) {s : State} {a1 : Cmd} (h : P s) :
    P (State.begin_ s a1) := by
  unfold State.begin_
  extract_lets t1 t2 t3
  have h4 : P t1 := by
    unfold t1
    with_reducible apply State.onCmd_keeps hP
    with_reducible assumption
  clear_value t1
  have h5 : P t2 := by
    unfold t2
    with_reducible refine keep_ite (fun _ => ?_) (fun _ => ?_)
    · with_reducible apply State.bumpW_keeps hP
      with_reducible assumption
    · with_reducible assumption
  clear_value t2 t3
  with_reducible refine keep_ite (fun _ => ?_) (fun _ => ?_)
  · with_reducible apply hP.rest
    with_reducible assumption
  · with_reducible assumption

theorem State.admitRow_keeps {P : State → Prop} (hP : StableMem P) {s : State} {a1 : Nat} {a2 : Nat} {a3 : Nat} {a4 : Cmd → State → Nat} {a5 : Cmd → State → Nat} {a6 : Cmd → State → State} (h : P s) (h6 : ∀ x0 x1, P x1 → P (a6 x0 x1)) :
    (Nxt P) (State.admitRow s a1 a2 a3 a4 a5 a6) := by
  unfold State.admitRow
  split
  · with_reducible apply done_keeps hP.toStable
    with_reducible assumption
  · extract_lets t1
    have h2 : ∀ y0 y1, (Nxt P) (t1 y0 y1) := by
      unfold t1
      intro x3 x4
      with_reducible apply done_keeps hP.toStable
      with_reducible apply State.finish_keeps hP
      with_reducible apply State.begin__keeps hP.toStable
      with_reducible assumption
    clear_value t1
    with_reducible refine keep_ite (fun _ => ?_) (fun _ => ?_)
    · with_reducible apply h2
    · with_reducible refine keep_ite (fun _ => ?_) (fun _ => ?_)
      · with_reducible apply h2
      · with_reducible refine keep_ite (fun _ => ?_) (fun _ => ?_)
        · with_reducible apply done_keeps hP.toStable
          with_reducible assumption
        · split
          · with_reducible apply h2
          · with_reducible refine keep_ite (fun _ => ?_) (fun _ => ?_)
            · with_reducible apply h2
            · extract_lets t5 t6
              clear_value t5 t6
              with_reducible refine keep_ite (fun _ => ?_) (fun _ => ?_)
              · with_reducible apply h2
              · split
                · with_reducible apply done_keeps hP.toStable
                  with_reducible assumption
                · split
                  · with_reducible refine keep_ite (fun _ => ?_) (fun _ => ?_)
                    · with_reducible apply done_keeps hP.toStable
                      with_reducible assumption
                    · with_reducible apply done_keeps hP.toStable
                      with_reducible apply State.onCmd_keeps hP.toStable
                      with_reducible apply State.bump_keeps hP.toStable
                      with_reducible assumption
                  · extract_lets t7 t8 t9
                    clear_value t7 t8
                    have h10 : P t9 := by
                      unfold t9
                      with_reducible apply State.onCmd_keeps hP.toStable
                      with_reducible apply State.begin__keeps hP.toStable
                      refine keep_of_some_snd ‹_ = some (_, _)› ?_
                      with_reducible apply State.takeWork_keeps hP.toStable
                      with_reducible assumption
                    clear_value t9
                    with_reducible apply done_keeps hP.toStable
                    with_reducible apply h6
                    with_reducible assumption

theorem State.runRow_keeps {P : State → Prop} (hP : StableMem P) {s : State} {a1 : Nat} {a2 : Nat} {a3 : Nat} {a4 : Cmd → State → Nat} {a5 : Cmd → State → Nat} {a6 : Cmd → State → State} (h : P s) (h6 : ∀ x0 x1, P x1 → P (a6 x0 x1)) :
    (Nxt P) (State.runRow s a1 a2 a3 a4 a5 a6) := by
  unfold State.runRow
  split
  · with_reducible apply done_keeps hP.toStable
    with_reducible apply h6
    with_reducible assumption
  · with_reducible apply State.admitRow_keeps hP
    · with_reducible assumption
    · with_reducible assumption

theorem State.putFor_keeps {P : State → Prop} (hP : StableMem P) {s : State} {a1 : Own} {a2 : Nat} {a3 : Nat} {a4 : List Byte} {a5 : List Nat} (h : P s) :
    P (State.putFor s a1 a2 a3 a4 a5) := by
  unfold State.putFor
  split
  · with_reducible apply State.storeFor_keeps hP
    with_reducible assumption
  · with_reducible apply State.workFail_keeps hP.toStable
    with_reducible assumption

theorem State.passRefused_keeps {P : State → Prop} (hP : Stable P) {s : State} {a1 : Desc} (h : P s) :
    P (State.passRefused s a1) := by
  unfold State.passRefused
  with_reducible refine keep_ite (fun _ => ?_) (fun _ => ?_)
  · with_reducible apply State.err_keeps hP
    with_reducible apply State.bump_keeps hP
    with_reducible assumption
  · with_reducible assumption

theorem State.giveList_keeps {P : State → Prop} (hP : Stable P) {s : State} {a1 : Nat} {a2 : List Desc} (h : P s) :
    (Snd P) (State.giveList s a1 a2) := by
  unfold State.giveList
  split
  · with_reducible apply keep_pair_snd
    with_reducible apply State.passRefused_keeps hP
    with_reducible assumption
  · extract_lets t1 t2
    clear_value t1 t2
    with_reducible apply keep_pair_snd
    with_reducible apply hP.rest
    with_reducible assumption

theorem State.flipBits_keeps {P : State → Prop} (hP : StableMem P) {s : State} {a1 : Nat} {a2 : BitVec 72} (h : P s) :
    P (State.flipBits s a1 a2) := by
  unfold State.flipBits
  extract_lets w f data syn
  split
  · exact h
  · exact hP.synd (keep_putAll hP _ _ h) _ _

theorem State.showWalk_keeps {P : State → Prop} (hP : Stable P) {s : State} {a1 : Walk} {a2 : Nat} (h : P s) :
    P (State.showWalk s a1 a2) := by
  unfold State.showWalk
  with_reducible apply State.setF_keeps hP
  with_reducible apply State.setF_keeps hP
  with_reducible apply State.setF_keeps hP
  with_reducible apply State.setF_keeps hP
  with_reducible apply State.setFlag_keeps hP
  with_reducible assumption

theorem State.walkOver_keeps {P : State → Prop} (hP : Stable P) {s : State} {a1 : Nat} (h : P s) :
    P (State.walkOver s a1) := by
  unfold State.walkOver
  split
  · with_reducible assumption
  · extract_lets t1 t2 t3 t4 t5 t6 t7 t8
    clear_value t1 t2 t3 t4 t5
    have h9 : P t6 := by
      unfold t6
      with_reducible apply hP.rest
      with_reducible assumption
    clear_value t6
    have h10 : P t7 := by
      unfold t7
      with_reducible apply State.bumpW_keeps hP
      with_reducible assumption
    clear_value t7
    have h11 : P t8 := by
      unfold t8
      with_reducible refine keep_ite (fun _ => ?_) (fun _ => ?_)
      · with_reducible assumption
      · with_reducible apply State.setFlag_keeps hP
        with_reducible assumption
    clear_value t8
    with_reducible refine keep_ite (fun _ => ?_) (fun _ => ?_)
    · with_reducible assumption
    · with_reducible apply State.hodFreed_keeps hP
      with_reducible assumption

theorem State.noteWalk_keeps {P : State → Prop} (hP : Stable P) {s : State} {a1 : Nat} {a2 : Desc} (h : P s) :
    P (State.noteWalk s a1 a2) := by
  unfold State.noteWalk
  split
  · with_reducible assumption
  · split
    · with_reducible assumption
    · extract_lets t1 t2 t3
      clear_value t1 t2
      have h4 : P t3 := by
        unfold t3
        with_reducible apply hP.rest
        with_reducible assumption
      clear_value t3
      with_reducible apply State.setF_keeps hP
      with_reducible apply State.showWalk_keeps hP
      with_reducible assumption

theorem State.nextDesc_keeps {P : State → Prop} (hP : Stable P) {s : State} {a1 : Nat} {a2 : Nat → Bool} (h : P s) :
    (Opt (Snd P)) (State.nextDesc s a1 a2) := by
  unfold State.nextDesc
  split
  · with_reducible refine keep_ite (fun _ => ?_) (fun _ => ?_)
    · with_reducible apply keep_some
      with_reducible apply keep_pair_snd
      with_reducible apply State.hodFreed_keeps hP
      with_reducible apply State.noteWalk_keeps hP
      with_reducible apply hP.rest
      with_reducible assumption
    · with_reducible apply keep_none
  · with_reducible apply keep_none

theorem State.readerMarks_keeps {P : State → Prop} (hP : Stable P) {s : State} {a1 : Pass} (h : P s) :
    P (State.readerMarks s a1) := by
  unfold State.readerMarks
  extract_lets t1 t2
  clear_value t1 t2
  with_reducible apply hP.rest
  with_reducible assumption

theorem State.sendPass_keeps {P : State → Prop} (hP : Stable P) {s : State} {a1 : Nat} {a2 : Nat} (h : P s) :
    P (State.sendPass s a1 a2) := by
  unfold State.sendPass
  split
  · with_reducible assumption
  · with_reducible refine keep_ite (fun _ => ?_) (fun _ => ?_)
    · with_reducible assumption
    · with_reducible refine keep_ite (fun _ => ?_) (fun _ => ?_)
      · with_reducible apply State.workFail_keeps hP
        refine keep_of_some_snd ‹_ = some (_, _)› ?_
        with_reducible apply State.nextDesc_keeps hP
        with_reducible assumption
      · extract_lets t1
        clear_value t1
        with_reducible apply State.bumpW_keeps hP
        with_reducible apply State.chargeOwn_keeps hP
        with_reducible apply State.readerMarks_keeps hP
        with_reducible apply State.setBankWork_keeps hP
        refine keep_of_some_snd ‹_ = some (_, _)› ?_
        with_reducible apply State.nextDesc_keeps hP
        with_reducible assumption

theorem execPassMv_keeps {P : State → Prop} (hP : Stable P) {a0 : Nat} {s : State} (h : P s) :
    (Nxt P) (execPassMv a0 s) := by
  unfold execPassMv
  with_reducible apply done_keeps hP
  with_reducible apply State.sendPass_keeps hP
  with_reducible assumption

theorem execPassScore_keeps {P : State → Prop} (hP : Stable P) {a0 : Nat} {s : State} (h : P s) :
    (Nxt P) (execPassScore a0 s) := by
  unfold execPassScore
  with_reducible apply done_keeps hP
  with_reducible apply State.sendPass_keeps hP
  with_reducible assumption

theorem execPassValue_keeps {P : State → Prop} (hP : Stable P) {a0 : Nat} {s : State} (h : P s) :
    (Nxt P) (execPassValue a0 s) := by
  unfold execPassValue
  with_reducible apply done_keeps hP
  with_reducible apply State.sendPass_keeps hP
  with_reducible assumption

theorem execPassOutlier_keeps {P : State → Prop} (hP : Stable P) {a0 : Nat} {s : State} (h : P s) :
    (Nxt P) (execPassOutlier a0 s) := by
  unfold execPassOutlier
  with_reducible apply done_keeps hP
  with_reducible apply State.sendPass_keeps hP
  with_reducible assumption

theorem State.latchSource_keeps {P : State → Prop} (hP : StableMem P) {s : State} {a1 : Own} {a2 : Nat} {a3 : Nat} {a4 : Nat} (h : P s) :
    (Snd (Snd P)) (State.latchSource s a1 a2 a3 a4) := by
  unfold State.latchSource
  extract_lets t1
  have h2 : (Snd (Snd (P))) t1 := by
    unfold t1
    with_reducible apply State.loadFor_keeps hP
    with_reducible assumption
  clear_value t1
  with_reducible assumption

theorem execLatch_keeps {P : State → Prop} (hP : StableMem P) {a0 : Nat} {s : State} (h : P s) :
    (Nxt P) (execLatch a0 s) := by
  unfold execLatch
  split
  · with_reducible apply done_keeps hP.toStable
    with_reducible assumption
  · extract_lets t1 t2 t3 t4 t5 t6 t7
    clear_value t1 t2 t3
    have h8 : (Snd (Snd (P))) t4 := by
      unfold t4
      with_reducible apply State.latchSource_keeps hP
      refine keep_of_some_snd ‹_ = some (_, _)› ?_
      with_reducible apply State.nextDesc_keeps hP.toStable
      with_reducible assumption
    clear_value t4 t5 t6
    have h9 : P t7 := by
      unfold t7
      with_reducible refine keep_ite (fun _ => ?_) (fun _ => ?_)
      · with_reducible apply State.workFail_keeps hP.toStable
        with_reducible assumption
      · with_reducible assumption
    clear_value t7
    with_reducible refine keep_ite (fun _ => ?_) (fun _ => ?_)
    · with_reducible apply done_keeps hP.toStable
      with_reducible apply State.workFail_keeps hP.toStable
      refine keep_of_some_snd ‹_ = some (_, _)› ?_
      with_reducible apply State.nextDesc_keeps hP.toStable
      with_reducible assumption
    · with_reducible apply done_keeps hP.toStable
      with_reducible apply keep_foldl (Q := P)
      · with_reducible assumption
      · intro x10 x11 x12
        extract_lets t13
        clear_value t13
        with_reducible apply State.latchesLoad_keeps hP.toStable
        with_reducible apply State.setBankWork_keeps hP.toStable
        with_reducible assumption

theorem State.askGroup_keeps {P : State → Prop} (hP : Stable P) {s : State} {a1 : Desc} {a2 : Group} (h : P s) :
    P (State.askGroup s a1 a2) := by
  unfold State.askGroup
  extract_lets t1 t2
  clear_value t1 t2
  with_reducible refine keep_ite (fun _ => ?_) (fun _ => ?_)
  · with_reducible apply State.workFail_keeps hP
    with_reducible assumption
  · with_reducible refine keep_ite (fun _ => ?_) (fun _ => ?_)
    · with_reducible apply State.workFail_keeps hP
      with_reducible apply State.passRefused_keeps hP
      with_reducible assumption
    · with_reducible apply State.openWaiting_keeps hP
      with_reducible apply hP.rest
      with_reducible assumption

theorem execGroupOpen_keeps {P : State → Prop} (hP : Stable P) {a0 : Nat} {s : State} (h : P s) :
    (Nxt P) (execGroupOpen a0 s) := by
  unfold execGroupOpen
  split
  · with_reducible apply done_keeps hP
    with_reducible assumption
  · with_reducible apply done_keeps hP
    with_reducible apply State.askGroup_keeps hP
    refine keep_of_some_snd ‹_ = some (_, _)› ?_
    with_reducible apply State.nextDesc_keeps hP
    with_reducible assumption

theorem execGroupSpaceReserved_keeps {P : State → Prop} (hP : Stable P) {a0 : Nat} {s : State} (h : P s) :
    (Nxt P) (execGroupSpaceReserved a0 s) := by
  unfold execGroupSpaceReserved
  with_reducible apply done_keeps hP
  with_reducible apply State.openWaiting_keeps hP
  with_reducible assumption

theorem execComputeActivate_keeps {P : State → Prop} (hP : Stable P) {a0 : Nat} {a1 : Nat} {a2 : Nat} {s : State} (h : P s) :
    (Nxt P) (execComputeActivate a0 a1 a2 s) := by
  unfold execComputeActivate
  with_reducible apply done_keeps hP
  with_reducible apply State.activate_keeps hP
  with_reducible apply State.at_keeps hP
  with_reducible assumption

theorem execRefreshDue_keeps {P : State → Prop} (hP : Stable P) {a0 : Nat} {a1 : Nat} {a2 : Bool} {s : State} (h : P s) :
    (Nxt P) (execRefreshDue a0 a1 a2 s) := by
  unfold execRefreshDue
  extract_lets t1 t2 t3
  clear_value t1 t2 t3
  split
  · with_reducible refine keep_ite (fun _ => ?_) (fun _ => ?_)
    · with_reducible apply done_keeps hP
      with_reducible apply hP.rest
      with_reducible assumption
    · with_reducible refine keep_ite (fun _ => ?_) (fun _ => ?_)
      · with_reducible apply done_keeps hP
        with_reducible assumption
      · with_reducible apply done_keeps hP
        with_reducible apply hP.rest
        with_reducible assumption
  · with_reducible refine keep_ite (fun _ => ?_) (fun _ => ?_)
    · with_reducible apply done_keeps hP
      with_reducible assumption
    · with_reducible refine keep_ite (fun _ => ?_) (fun _ => ?_)
      · with_reducible apply done_keeps hP
        with_reducible apply hP.rest
        with_reducible assumption
      · with_reducible apply done_keeps hP
        with_reducible apply State.setRun_keeps hP
        with_reducible assumption

theorem execOrdinaryAccess_keeps {P : State → Prop} (hP : StableMem P) {a0 : Nat} {a1 : Bool} {a2 : Nat} {a3 : List Byte} {a4 : Nat} {a5 : Nat} {a6 : BitVec 72} {s : State} (h : P s) :
    (Nxt P) (execOrdinaryAccess a0 a1 a2 a3 a4 a5 a6 s) := by
  unfold execOrdinaryAccess
  extract_lets t1 t2
  have h3 : P t1 := by
    unfold t1
    with_reducible apply State.at_keeps hP.toStable
    with_reducible assumption
  clear_value t1 t2
  with_reducible refine keep_ite (fun _ => ?_) (fun _ => ?_)
  · with_reducible apply done_keeps hP.toStable
    with_reducible apply State.emit_keeps hP.toStable
    with_reducible assumption
  · split
    · with_reducible apply done_keeps hP.toStable
      with_reducible apply State.enter_keeps hP
      with_reducible apply State.flipBits_keeps hP
      with_reducible assumption
    · with_reducible apply done_keeps hP.toStable
      with_reducible apply State.emit_keeps hP.toStable
      with_reducible assumption

theorem execPassEnd_keeps {P : State → Prop} (hP : StableMem P) {a0 : Nat} {a1 : Nat} {a2 : Nat} {s : State} (h : P s) :
    (Nxt P) (execPassEnd a0 a1 a2 s) := by
  unfold execPassEnd
  extract_lets t1 t2
  clear_value t1
  have h3 : P t2 := by
    unfold t2
    with_reducible apply State.at_keeps hP.toStable
    with_reducible assumption
  clear_value t2
  split
  · with_reducible apply done_keeps hP.toStable
    with_reducible assumption
  · with_reducible refine keep_ite (fun _ => ?_) (fun _ => ?_)
    · with_reducible apply done_keeps hP.toStable
      with_reducible assumption
    · extract_lets t4 t5 t6 t7 t8 t9 t10
      clear_value t4 t5 t6 t7
      have h11 : P t8 := by
        unfold t8
        with_reducible apply State.bumpW_keeps hP.toStable
        with_reducible refine keep_ite (fun _ => ?_) (fun _ => ?_)
        · with_reducible apply State.bumpW_keeps hP.toStable
          with_reducible assumption
        · with_reducible assumption
      clear_value t8
      have h12 : P t9 := by
        unfold t9
        with_reducible apply keep_foldl (Q := P)
        · with_reducible apply State.setRun_keeps hP.toStable
          with_reducible assumption
        · intro x13 x14 x15
          with_reducible apply State.serveHeld_keeps hP
          with_reducible assumption
      clear_value t9 t10
      with_reducible apply done_keeps hP.toStable
      with_reducible apply State.afterService_keeps hP
      with_reducible apply State.latchesLoad_keeps hP.toStable
      with_reducible apply hP.toStable.rest
      with_reducible assumption

theorem State.forwardBlock_keeps {P : State → Prop} (hP : Stable P) {s : State} {a1 : Nat} {a2 : Group} {a3 : Nat} (h : P s) :
    P (State.forwardBlock s a1 a2 a3) := by
  unfold State.forwardBlock
  extract_lets t1 t2
  clear_value t1 t2
  with_reducible apply hP.rest
  with_reducible assumption

theorem State.groupWrite_keeps {P : State → Prop} (hP : StableMem P) {s : State} {a1 : Group} {a2 : Nat} {a3 : List Byte} {a4 : List Nat} (h : P s) :
    P (State.groupWrite s a1 a2 a3 a4) := by
  unfold State.groupWrite
  with_reducible refine keep_ite (fun _ => ?_) (fun _ => ?_)
  · with_reducible apply State.writeSpace_keeps hP
    with_reducible assumption
  · with_reducible apply State.putFor_keeps hP
    with_reducible assumption

theorem State.writeBlock_keeps {P : State → Prop} (hP : StableMem P) {s : State} {a1 : Group} {a2 : Nat} (h : P s) :
    P (State.writeBlock s a1 a2) := by
  unfold State.writeBlock
  with_reducible apply keep_foldl (Q := P)
  · with_reducible assumption
  · intro x1 x2 x3
    extract_lets t4 t5
    clear_value t4 t5
    with_reducible apply State.groupWrite_keeps hP
    with_reducible assumption

theorem State.writeWeights_keeps {P : State → Prop} (hP : StableMem P) {s : State} {a1 : Group} {a2 : List (Nat × Nat)} (h : P s) :
    P (State.writeWeights s a1 a2) := by
  unfold State.writeWeights
  with_reducible apply keep_foldl (Q := P)
  · with_reducible assumption
  · intro x1 x2 x3
    extract_lets t4 t5
    clear_value t4 t5
    with_reducible apply State.groupWrite_keeps hP
    with_reducible assumption

theorem State.groupTick_keeps {P : State → Prop} (hP : StableMem P) {s : State} {a1 : Nat} (h : P s) :
    P (State.groupTick s a1) := by
  unfold State.groupTick
  split
  · with_reducible assumption
  · with_reducible refine keep_ite (fun _ => ?_) (fun _ => ?_)
    · with_reducible assumption
    · with_reducible refine keep_ite (fun _ => ?_) (fun _ => ?_)
      · with_reducible refine keep_ite (fun _ => ?_) (fun _ => ?_)
        · with_reducible apply State.setGroup_keeps hP.toStable
          with_reducible apply State.groupWrite_keeps hP
          with_reducible assumption
        · split
          · with_reducible apply State.openWaiting_keeps hP.toStable
            with_reducible apply State.setGroup_keeps hP.toStable
            with_reducible apply State.writeWeights_keeps hP
            with_reducible assumption
          · with_reducible assumption
      · with_reducible refine keep_ite (fun _ => ?_) (fun _ => ?_)
        · split
          · extract_lets t1 t2
            have h3 : P t1 := by
              unfold t1
              with_reducible apply keep_foldl (Q := P)
              · with_reducible assumption
              · intro x4 x5 x6
                with_reducible apply State.writeBlock_keeps hP
                with_reducible assumption
            clear_value t1
            have h7 : P t2 := by
              unfold t2
              with_reducible apply State.openWaiting_keeps hP.toStable
              with_reducible apply State.setGroup_keeps hP.toStable
              with_reducible apply State.groupWrite_keeps hP
              with_reducible assumption
            clear_value t2
            split
            · with_reducible apply State.walkOver_keeps hP.toStable
              with_reducible assumption
            · with_reducible assumption
          · with_reducible assumption
        · with_reducible apply State.openWaiting_keeps hP.toStable
          with_reducible apply State.setGroup_keeps hP.toStable
          with_reducible assumption

theorem State.blockDone_keeps {P : State → Prop} (hP : StableMem P) {s : State} {a1 : Nat} {a2 : Group} {a3 : Nat} (h : P s) :
    P (State.blockDone s a1 a2 a3) := by
  unfold State.blockDone
  extract_lets t1 t2 t3 t4 t5 t6
  clear_value t1 t2 t3 t4 t5
  have h7 : P t6 := by
    unfold t6
    with_reducible refine keep_ite (fun _ => ?_) (fun _ => ?_)
    · with_reducible apply State.setGroup_keeps hP.toStable
      with_reducible assumption
    · with_reducible refine keep_ite (fun _ => ?_) (fun _ => ?_)
      · with_reducible apply State.setGroup_keeps hP.toStable
        with_reducible apply State.forwardBlock_keeps hP.toStable
        with_reducible assumption
      · with_reducible refine keep_ite (fun _ => ?_) (fun _ => ?_)
        · with_reducible apply State.setGroup_keeps hP.toStable
          with_reducible assumption
        · with_reducible apply State.setGroup_keeps hP.toStable
          with_reducible apply State.writeBlock_keeps hP
          with_reducible assumption
  clear_value t6
  with_reducible apply State.groupTick_keeps hP
  with_reducible assumption

theorem State.contribute_keeps {P : State → Prop} (hP : StableMem P) {s : State} {a1 : Contrib} (h : P s) :
    P (State.contribute s a1) := by
  unfold State.contribute
  split
  · with_reducible apply State.workFail_keeps hP.toStable
    with_reducible assumption
  · with_reducible refine keep_ite (fun _ => ?_) (fun _ => ?_)
    · with_reducible apply State.workFail_keeps hP.toStable
      with_reducible assumption
    · extract_lets t1 t2 t3
      clear_value t1 t2 t3
      with_reducible apply keep_foldl (Q := P)
      · with_reducible apply State.setGroup_keeps hP.toStable
        with_reducible assumption
      · intro x4 x5 x6
        split
        · with_reducible refine keep_ite (fun _ => ?_) (fun _ => ?_)
          · with_reducible apply State.blockDone_keeps hP
            with_reducible assumption
          · with_reducible assumption
        · with_reducible assumption

theorem execContribution_keeps {P : State → Prop} (hP : StableMem P) {a0 : Nat} {s : State} (h : P s) :
    (Nxt P) (execContribution a0 s) := by
  unfold execContribution
  split
  · with_reducible apply done_keeps hP.toStable
    with_reducible assumption
  · with_reducible apply done_keeps hP.toStable
    with_reducible apply State.contribute_keeps hP
    with_reducible apply hP.toStable.rest
    with_reducible assumption

theorem execMemorySideAdd_keeps {P : State → Prop} (hP : StableMem P) {a0 : Nat} {a1 : Nat} {a2 : Nat} {a3 : List Byte} {s : State} (h : P s) :
    (Nxt P) (execMemorySideAdd a0 a1 a2 a3 s) := by
  unfold execMemorySideAdd
  with_reducible refine keep_ite (fun _ => ?_) (fun _ => ?_)
  · with_reducible apply done_keeps hP.toStable
    with_reducible apply State.emit_keeps hP.toStable
    with_reducible assumption
  · with_reducible apply done_keeps hP.toStable
    with_reducible apply State.enter_keeps hP
    with_reducible assumption

theorem execMergeIdleFlush_keeps {P : State → Prop} (hP : StableMem P) {a0 : Nat} {s : State} (h : P s) :
    (Nxt P) (execMergeIdleFlush a0 s) := by
  unfold execMergeIdleFlush
  split
  · with_reducible apply done_keeps hP.toStable
    with_reducible apply State.mergeOut_keeps hP
    with_reducible assumption
  · with_reducible apply done_keeps hP.toStable
    with_reducible assumption

theorem execRegionFillDone_keeps {P : State → Prop} (hP : StableMem P) {a0 : Nat} {s : State} (h : P s) :
    (Nxt P) (execRegionFillDone a0 s) := by
  unfold execRegionFillDone
  split
  · with_reducible apply done_keeps hP.toStable
    with_reducible assumption
  · extract_lets t1 t2
    have h3 : P t1 := by
      unfold t1
      with_reducible apply State.putRegion_keeps hP.toStable
      with_reducible apply State.fillZero_keeps hP
      with_reducible assumption
    clear_value t1 t2
    with_reducible apply done_keeps hP.toStable
    with_reducible apply hP.toStable.rest
    with_reducible assumption

theorem State.correctAll_keeps {P : State → Prop} (hP : StableMem P) {s : State} {a1 : Nat → Bool} (h : P s) :
    P (State.correctAll s a1) := by
  unfold State.correctAll
  with_reducible apply keep_foldl (Q := P)
  · with_reducible assumption
  · intro x1 x2 x3
    with_reducible apply State.correctWord_keeps hP
    with_reducible assumption

theorem State.recordRepair_keeps {P : State → Prop} (hP : Stable P) {s : State} {a1 : Nat} {a2 : Nat} (h : P s) :
    P (State.recordRepair s a1 a2) := by
  unfold State.recordRepair
  with_reducible apply hP.rest
  with_reducible assumption

theorem execRepairDone_keeps {P : State → Prop} (hP : StableMem P) {a0 : Nat} {s : State} (h : P s) :
    (Nxt P) (execRepairDone a0 s) := by
  unfold execRepairDone
  split
  · with_reducible apply done_keeps hP.toStable
    with_reducible assumption
  · extract_lets t1 t2 t3 t4 t5 t6 t7 t8 t9 t10 t11 t12 t13 t14 t15 t16
    clear_value t1 t2 t3 t4 t5 t6
    have h17 : P t7 := by
      unfold t7
      with_reducible apply hP.toStable.rest
      with_reducible assumption
    clear_value t7
    have h18 : P t8 := by
      unfold t8
      with_reducible apply State.journalClose_keeps hP.toStable
      with_reducible apply State.setFlag_keeps hP.toStable
      with_reducible assumption
    clear_value t8 t9 t10
    have h19 : P t11 := by
      unfold t11
      with_reducible apply State.correctAll_keeps hP
      with_reducible assumption
    clear_value t11 t12
    have h20 : P t13 := by
      unfold t13
      with_reducible apply hP.toStable.rest
      with_reducible assumption
    clear_value t13
    have h21 : P t14 := by
      unfold t14
      with_reducible apply State.setF_keeps hP.toStable
      with_reducible assumption
    clear_value t14
    have h22 : P t15 := by
      unfold t15
      with_reducible apply State.correctAll_keeps hP
      with_reducible assumption
    clear_value t15 t16
    with_reducible refine keep_ite (fun _ => ?_) (fun _ => ?_)
    · with_reducible apply done_keeps hP.toStable
      with_reducible assumption
    · with_reducible refine keep_ite (fun _ => ?_) (fun _ => ?_)
      · with_reducible apply done_keeps hP.toStable
        with_reducible apply State.recordRepair_keeps hP.toStable
        with_reducible apply State.setF_keeps hP.toStable
        with_reducible assumption
      · with_reducible apply done_keeps hP.toStable
        with_reducible apply State.recordRepair_keeps hP.toStable
        with_reducible apply State.setF_keeps hP.toStable
        with_reducible assumption

theorem execStkTrainDone_keeps {P : State → Prop} (hP : StableMem P) {a0 : Nat} {a1 : Nat} {a2 : Nat} {a3 : Nat} {s : State} (h : P s) :
    (Nxt P) (execStkTrainDone a0 a1 a2 a3 s) := by
  unfold execStkTrainDone
  with_reducible refine keep_ite (fun _ => ?_) (fun _ => ?_)
  · with_reducible apply done_keeps hP.toStable
    with_reducible assumption
  · extract_lets t1 t2 t3 t4
    have h5 : P t1 := by
      unfold t1
      with_reducible apply State.setF_keeps hP.toStable
      with_reducible apply State.setFlag_keeps hP.toStable
      with_reducible assumption
    clear_value t1
    have h6 : P t2 := by
      unfold t2
      with_reducible apply State.setPair_keeps hP.toStable
      with_reducible apply State.setF_keeps hP.toStable
      with_reducible assumption
    clear_value t2
    have h7 : P t4 := by
      unfold t4
      with_reducible apply hP.toStable.dev
      with_reducible assumption
    clear_value t4
    with_reducible refine keep_ite (fun _ => ?_) (fun _ => ?_)
    · with_reducible apply done_keeps hP.toStable
      with_reducible apply State.err_keeps hP.toStable
      with_reducible apply State.setUnit_keeps hP.toStable
      with_reducible apply State.setF_keeps hP.toStable
      with_reducible assumption
    · with_reducible refine keep_ite (fun _ => ?_) (fun _ => ?_)
      · with_reducible apply done_keeps hP.toStable
        with_reducible apply State.setF_keeps hP.toStable
        with_reducible assumption
      · with_reducible apply done_keeps hP.toStable
        with_reducible apply State.setUnit_keeps hP.toStable
        with_reducible apply State.setF_keeps hP.toStable
        with_reducible apply State.fillStack_keeps hP
        with_reducible assumption

theorem State.acquirePart_keeps {P : State → Prop} (hP : Stable P) {s : State} {a1 : Nat} (h : P s) :
    P (State.acquirePart s a1) := by
  unfold State.acquirePart
  with_reducible apply State.acquire_keeps hP
  with_reducible assumption

theorem State.ringWrite_keeps {P : State → Prop} (hP : StableMem P) {s : State} {a1 : Nat} {a2 : Nat} {a3 : List Byte} (h : P s) :
    P (State.ringWrite s a1 a2 a3) := by
  unfold State.ringWrite
  with_reducible refine keep_ite (fun _ => ?_) (fun _ => ?_)
  · with_reducible assumption
  · with_reducible apply State.writeB_keeps hP
    with_reducible refine keep_ite (fun _ => ?_) (fun _ => ?_)
    · with_reducible apply State.passLines_keeps hP
      with_reducible assumption
    · with_reducible assumption

theorem State.addRec_keeps {P : State → Prop} (hP : Stable P) {s : State} {a1 : Rec} (h : P s) :
    P (State.addRec s a1) := by
  unfold State.addRec
  with_reducible apply hP.rest
  with_reducible assumption

theorem State.event_keeps {P : State → Prop} (hP : Stable P) {s : State} {a1 : Nat} {a2 : Nat} (h : P s) :
    P (State.event s a1 a2) := by
  unfold State.event
  extract_lets t1
  clear_value t1
  with_reducible apply State.addRec_keeps hP
  with_reducible assumption

theorem State.gWrite_keeps {P : State → Prop} (hP : StableMem P) {s : State} {a1 : Cmd} {a2 : Nat} {a3 : List Byte} {a4 : List Nat} (h : P s) :
    P (State.gWrite s a1 a2 a3 a4) := by
  unfold State.gWrite
  with_reducible refine keep_ite (fun _ => ?_) (fun _ => ?_)
  · with_reducible apply State.storeFor_keeps hP
    with_reducible assumption
  · with_reducible apply keep_foldl (Q := P)
    · with_reducible assumption
    · intro x1 x2 x3
      with_reducible refine keep_ite (fun _ => ?_) (fun _ => ?_)
      · with_reducible apply State.loseBytes_keeps hP.toStable
        with_reducible apply State.workFail_keeps hP.toStable
        with_reducible assumption
      · with_reducible apply State.writeAway_keeps hP
        with_reducible assumption

theorem execBlockConversionDone_keeps {P : State → Prop} (hP : StableMem P) {a0 : Nat} {s : State} (h : P s) :
    (Nxt P) (execBlockConversionDone a0 s) := by
  unfold execBlockConversionDone
  split
  · with_reducible apply done_keeps hP.toStable
    with_reducible assumption
  · extract_lets t1 t2 t3 t4 t5 t6 t7 t8
    clear_value t1 t2 t3 t4
    have h9 : P t5 := by
      unfold t5
      with_reducible refine keep_ite (fun _ => ?_) (fun _ => ?_)
      · with_reducible apply State.fillZero_keeps hP
        with_reducible assumption
      · with_reducible assumption
    clear_value t5
    have h10 : P t6 := by
      unfold t6
      with_reducible apply State.setReg_keeps hP.toStable
      with_reducible assumption
    clear_value t6 t7
    have h11 : P t8 := by
      unfold t8
      with_reducible apply hP.toStable.rest
      with_reducible assumption
    clear_value t8
    with_reducible refine keep_ite (fun _ => ?_) (fun _ => ?_)
    · with_reducible apply done_keeps hP.toStable
      with_reducible assumption
    · with_reducible apply done_keeps hP.toStable
      with_reducible apply State.trimSlab_keeps hP
      with_reducible assumption

theorem State.prefetch_keeps {P : State → Prop} (hP : StableMem P) {s : State} {a1 : Stream} {a2 : Nat} (h : P s) :
    (Fst P) (State.prefetch s a1 a2) := by
  induction a2 generalizing s a1
  · unfold State.prefetch
    with_reducible assumption
  · unfold State.prefetch
    rename_i ih
    with_reducible refine keep_ite (fun _ => ?_) (fun _ => ?_)
    · with_reducible assumption
    · extract_lets t1 t2 t3
      clear_value t1
      have h4 : ∀ y0, P y0 → (Fst (P)) (t2 y0) := by
        unfold t2
        intro x5 x6
        with_reducible apply ih
        with_reducible assumption
      clear_value t2
      have h7 : (Snd (P)) t3 := by
        unfold t3
        with_reducible apply State.allocLine_keeps hP
        with_reducible apply State.takeFare_keeps hP.toStable
        with_reducible apply State.takeFare_keeps hP.toStable
        with_reducible assumption
      clear_value t3
      split
      · with_reducible apply h4
        with_reducible assumption
      · with_reducible assumption
      · with_reducible apply h4
        with_reducible refine keep_ite (fun _ => ?_) (fun _ => ?_)
        · with_reducible apply State.bumpW_keeps hP.toStable
          with_reducible assumption
        · with_reducible assumption
      · split
        · with_reducible apply h4
          with_reducible apply State.bumpW_keeps hP.toStable
          refine keep_of_pair ‹_ = (_, _)› ?_
          with_reducible apply State.sendRemote_keeps hP.toStable
          with_reducible apply State.takeFare_keeps hP.toStable
          with_reducible assumption
        · with_reducible apply h4
          with_reducible assumption

theorem State.streamsRun_keeps {P : State → Prop} (hP : StableMem P) {s : State} {a1 : Nat} (h : P s) :
    P (State.streamsRun s a1) := by
  unfold State.streamsRun
  with_reducible apply keep_foldl (Q := P)
  · with_reducible assumption
  · intro x1 x2 x3
    extract_lets t4 t5 t6 t7
    clear_value t4
    have h8 : (Fst (P)) t5 := by
      unfold t5
      with_reducible apply State.prefetch_keeps hP
      with_reducible assumption
    clear_value t5
    have h9 : P t6 := by
      unfold t6
      with_reducible assumption
    clear_value t6 t7
    with_reducible refine keep_ite (fun _ => ?_) (fun _ => ?_)
    · with_reducible apply hP.toStable.rest
      with_reducible assumption
    · with_reducible assumption

theorem execYardAccess_keeps {P : State → Prop} (hP : StableMem P) {a0 : Nat} {a1 : Nat} {a2 : Nat} {a3 : Nat} {a4 : Nat} {a5 : List Byte} {a6 : Nat} {a7 : BitVec 72} {s : State} (h : P s) :
    (Nxt P) (execYardAccess a0 a1 a2 a3 a4 a5 a6 a7 s) := by
  unfold execYardAccess
  extract_lets t1 t2 t3 t4 t5
  clear_value t1 t2 t3
  have h6 : P t4 := by
    unfold t4
    split
    · with_reducible refine keep_ite (fun _ => ?_) (fun _ => ?_)
      · with_reducible assumption
      · with_reducible apply State.flipLine_keeps hP.toStable
        with_reducible assumption
    · with_reducible refine keep_ite (fun _ => ?_) (fun _ => ?_)
      · with_reducible apply State.flipBits_keeps hP
        with_reducible assumption
      · with_reducible assumption
  clear_value t4
  have h7 : P t5 := by
    unfold t5
    with_reducible apply State.enter_keeps hP
    with_reducible assumption
  clear_value t5
  with_reducible refine keep_ite (fun _ => ?_) (fun _ => ?_)
  · with_reducible apply done_keeps hP.toStable
    with_reducible apply State.emit_keeps hP.toStable
    with_reducible assumption
  · with_reducible apply done_keeps hP.toStable
    with_reducible refine keep_ite (fun _ => ?_) (fun _ => ?_)
    · with_reducible apply State.streamsRun_keeps hP
      with_reducible assumption
    · with_reducible assumption

theorem execStreamDeclare_keeps {P : State → Prop} (hP : StableMem P) {a0 : Nat} {a1 : Nat} {a2 : Nat} {s : State} (h : P s) :
    (Nxt P) (execStreamDeclare a0 a1 a2 s) := by
  unfold execStreamDeclare
  extract_lets t1 t2 t3 t4 t5
  clear_value t1 t2 t3 t4 t5
  with_reducible refine keep_ite (fun _ => ?_) (fun _ => ?_)
  · with_reducible apply done_keeps hP.toStable
    with_reducible assumption
  · with_reducible apply done_keeps hP.toStable
    with_reducible apply State.streamsRun_keeps hP
    with_reducible apply hP.toStable.rest
    with_reducible assumption

theorem execSlabReplaceDone_keeps {P : State → Prop} (hP : StableMem P) {s : State} (h : P s) :
    (Nxt P) (execSlabReplaceDone s) := by
  unfold execSlabReplaceDone
  split
  · with_reducible apply done_keeps hP.toStable
    with_reducible assumption
  · extract_lets t1 t2 t3 t4 t5 t6 t7 t8
    clear_value t1
    have h9 : P t2 := by
      unfold t2
      with_reducible apply State.correctAll_keeps hP
      with_reducible assumption
    clear_value t2 t3 t4
    have h10 : P t5 := by
      unfold t5
      with_reducible apply hP.toStable.rest
      with_reducible assumption
    clear_value t5
    have h11 : P t6 := by
      unfold t6
      with_reducible apply State.setFlag_keeps hP.toStable
      with_reducible apply State.setUnit_keeps hP.toStable
      with_reducible apply State.setUnit_keeps hP.toStable
      with_reducible assumption
    clear_value t6 t7
    have h12 : P t8 := by
      unfold t8
      with_reducible apply State.bumpGen_keeps hP.toStable
      with_reducible apply State.setPair_keeps hP.toStable
      with_reducible assumption
    clear_value t8
    with_reducible apply done_keeps hP.toStable
    with_reducible apply State.journalClose_keeps hP.toStable
    with_reducible apply State.setF_keeps hP.toStable
    with_reducible assumption

theorem execRegulatorRefill_keeps {P : State → Prop} (hP : StableMem P) {s : State} (h : P s) :
    (Nxt P) (execRegulatorRefill s) := by
  unfold execRegulatorRefill
  with_reducible apply done_keeps hP.toStable
  with_reducible apply State.countWaits_keeps hP.toStable
  with_reducible apply State.yardAll_keeps hP
  with_reducible apply State.goUnpaid_keeps hP
  with_reducible apply State.payOwed_keeps hP.toStable
  with_reducible apply State.refill_keeps hP.toStable
  with_reducible assumption

theorem State.park_keeps {P : State → Prop} (hP : Stable P) {s : State} {a1 : Nat} {a2 : Nat} {a3 : Nat} {a4 : Nat} (h : P s) :
    P (State.park s a1 a2 a3 a4) := by
  unfold State.park
  with_reducible apply State.setF_keeps hP
  with_reducible apply State.setF_keeps hP
  with_reducible apply State.setFlag_keeps hP
  with_reducible assumption

theorem execCommandFetch_keeps {P : State → Prop} (hP : StableMem P) {a0 : Nat} {a1 : Nat} {s : State} (h : P s) :
    (Nxt P) (execCommandFetch a0 a1 s) := by
  unfold execCommandFetch
  extract_lets t1 t2 t3 t4 t5 t6 t7 t8
  clear_value t1 t2 t3 t4
  have h9 : (Snd (Snd (P))) t5 := by
    unfold t5
    with_reducible apply State.ringRead_keeps hP
    with_reducible assumption
  clear_value t5 t6
  have h10 : P t7 := by
    unfold t7
    with_reducible apply State.setFlag_keeps hP.toStable
    with_reducible refine keep_ite (fun _ => ?_) (fun _ => ?_)
    · with_reducible assumption
    · with_reducible assumption
  clear_value t7 t8
  with_reducible refine keep_ite (fun _ => ?_) (fun _ => ?_)
  · with_reducible apply done_keeps hP.toStable
    with_reducible assumption
  · with_reducible refine keep_ite (fun _ => ?_) (fun _ => ?_)
    · with_reducible apply done_keeps hP.toStable
      with_reducible apply State.addRec_keeps hP.toStable
      with_reducible apply State.park_keeps hP.toStable
      with_reducible assumption
    · with_reducible apply done_keeps hP.toStable
      with_reducible apply State.addCmd_keeps hP.toStable
      with_reducible apply State.setF_keeps hP.toStable
      with_reducible assumption

theorem State.setParam_keeps {P : State → Prop} (hP : Stable P) {s : State} {a1 : Nat} {a2 : Nat} {a3 : Nat} {a4 : Nat} (h : P s) :
    P (State.setParam s a1 a2 a3 a4) := by
  unfold State.setParam
  with_reducible apply State.setPair_keeps hP
  with_reducible assumption

theorem State.leave_keeps {P : State → Prop} (hP : StableMem P) {s : State} {a1 : Nat} (h : P s) :
    P (State.leave s a1) := by
  unfold State.leave
  split
  · with_reducible assumption
  · extract_lets t1 t2 t3 t4
    have h5 : P t1 := by
      unfold t1
      with_reducible refine keep_ite (fun _ => ?_) (fun _ => ?_)
      · with_reducible assumption
      · with_reducible apply State.giveWork_keeps hP.toStable
        with_reducible assumption
    clear_value t1 t2
    have h6 : P t3 := by
      unfold t3
      with_reducible apply hP.toStable.rest
      with_reducible assumption
    clear_value t3 t4
    with_reducible apply keep_foldl (Q := P)
    · with_reducible assumption
    · intro x7 x8 x9
      with_reducible apply State.finish_keeps hP
      with_reducible assumption

theorem execCompletionRecord_keeps {P : State → Prop} (hP : StableMem P) {a0 : Nat} {a1 : Nat} {s : State} (h : P s) :
    (Nxt P) (execCompletionRecord a0 a1 s) := by
  unfold execCompletionRecord
  split
  · with_reducible apply done_keeps hP.toStable
    with_reducible assumption
  · with_reducible refine keep_ite (fun _ => ?_) (fun _ => ?_)
    · with_reducible apply done_keeps hP.toStable
      with_reducible assumption
    · extract_lets t1 t2 t3 t4 t5 t6 t7 t8
      clear_value t1
      have h9 : P t2 := by
        unfold t2
        with_reducible apply hP.toStable.rest
        with_reducible assumption
      clear_value t2 t3 t4 t5
      have h10 : P t6 := by
        unfold t6
        with_reducible apply State.setF_keeps hP.toStable
        with_reducible apply State.ringWrite_keeps hP
        with_reducible assumption
      clear_value t6
      have h11 : P t7 := by
        unfold t7
        with_reducible refine keep_ite (fun _ => ?_) (fun _ => ?_)
        · with_reducible apply State.park_keeps hP.toStable
          with_reducible assumption
        · with_reducible assumption
      clear_value t7
      have h12 : P t8 := by
        unfold t8
        with_reducible refine keep_ite (fun _ => ?_) (fun _ => ?_)
        · with_reducible assumption
        · with_reducible refine keep_ite (fun _ => ?_) (fun _ => ?_)
          · with_reducible apply State.raise_keeps hP.toStable
            with_reducible assumption
          · with_reducible assumption
      clear_value t8
      with_reducible apply done_keeps hP.toStable
      split
      · with_reducible apply State.leave_keeps hP
        with_reducible assumption
      · with_reducible assumption

theorem State.listExpired_keeps {P : State → Prop} (hP : Stable P) {s : State} {a1 : Nat} {a2 : List (Nat × Nat × Nat)} (h : P s) :
    P (State.listExpired s a1 a2) := by
  unfold State.listExpired
  extract_lets t1 t2
  clear_value t1 t2
  split
  with_reducible apply hP.rest
  refine keep_of_pair ‹_ = (_, _)› ?_
  with_reducible apply keep_getD
  · with_reducible apply State.takeWork_keeps hP
    with_reducible assumption
  · with_reducible assumption

theorem execIdleSelftest_keeps {P : State → Prop} (hP : Stable P) {a0 : Nat} {a1 : Nat} {a2 : Nat} {a3 : Bool} {s : State} (h : P s) :
    (Nxt P) (execIdleSelftest a0 a1 a2 a3 s) := by
  unfold execIdleSelftest
  with_reducible refine keep_ite (fun _ => ?_) (fun _ => ?_)
  · with_reducible apply done_keeps hP
    with_reducible assumption
  · with_reducible apply done_keeps hP
    with_reducible apply State.setUnit_keeps hP
    with_reducible apply State.err_keeps hP
    with_reducible assumption

end Sys2Proof.Machine
end

