-- ==== Sys2Proof/Laws/KeepC.lean ====
section
/-! SUPPORT. What the operations over layouts, commands, sequences, edits, steps, walks and commits keep (see Keep.lean). -/

namespace Sys2Proof.Machine

theorem State.dropWalk_keeps {P : State → Prop} (hP : Stable P) {s : State} {a1 : Walk} (h : P s) :
    P (State.dropWalk s a1) := by
  unfold State.dropWalk
  extract_lets t1 t2 t3 t4
  clear_value t1 t2 t3
  have h5 : P t4 := by
    unfold t4
    with_reducible apply hP.rest
    with_reducible assumption
  clear_value t4
  with_reducible apply keep_foldl (Q := P)
  · with_reducible assumption
  · intro x6 x7 x8
    with_reducible apply State.openWaiting_keeps hP
    with_reducible assumption

theorem State.quitWalk_keeps {P : State → Prop} (hP : Stable P) {s : State} {a1 : Walk} {a2 : Nat} (h : P s) :
    P (State.quitWalk s a1 a2) := by
  unfold State.quitWalk
  extract_lets t1
  have h2 : P t1 := by
    unfold t1
    with_reducible apply State.workFail_keeps hP
    with_reducible apply State.dropWalk_keeps hP
    with_reducible assumption
  clear_value t1
  with_reducible apply State.hodFreed_keeps hP
  with_reducible refine keep_ite (fun _ => ?_) (fun _ => ?_)
  · with_reducible assumption
  · with_reducible apply State.setFlag_keeps hP
    with_reducible assumption

theorem State.endWalk_keeps {P : State → Prop} (hP : Stable P) {s : State} {a1 : Walk} {a2 : Nat} {a3 : Nat} {a4 : Option Nat} (h : P s) :
    P (State.endWalk s a1 a2 a3 a4) := by
  unfold State.endWalk
  extract_lets t1 t2
  have h3 : P t1 := by
    unfold t1
    with_reducible apply State.quitWalk_keeps hP
    with_reducible assumption
  clear_value t1
  have h4 : P t2 := by
    unfold t2
    with_reducible refine keep_ite (fun _ => ?_) (fun _ => ?_)
    · with_reducible assumption
    · with_reducible apply State.setF_keeps hP
      with_reducible apply State.setF_keeps hP
      with_reducible apply State.setF_keeps hP
      with_reducible apply State.setF_keeps hP
      with_reducible apply State.setF_keeps hP
      with_reducible apply State.setFlag_keeps hP
      with_reducible assumption
  clear_value t2
  with_reducible apply State.err_keeps hP
  with_reducible assumption

theorem State.stackGone_keeps {P : State → Prop} (hP : StableMem P) {s : State} {a1 : Nat} {a2 : Nat} (h : P s) :
    P (State.stackGone s a1 a2) := by
  unfold State.stackGone
  extract_lets t1 t2 t3 t4 t5 t6
  clear_value t1 t2 t3
  have h7 : P t4 := by
    unfold t4
    with_reducible apply hP.toStable.rest
    with_reducible assumption
  clear_value t4
  have h8 : P t5 := by
    unfold t5
    with_reducible apply keep_foldl (Q := P)
    · with_reducible assumption
    · intro x9 x10 x11
      with_reducible apply State.pieceServed_keeps hP
      with_reducible assumption
  clear_value t5
  have h12 : P t6 := by
    unfold t6
    with_reducible apply keep_foldl (Q := P)
    · with_reducible assumption
    · intro x13 x14 x15
      with_reducible apply State.workFail_keeps hP.toStable
      with_reducible assumption
  clear_value t6
  with_reducible apply keep_foldl (Q := P)
  · with_reducible assumption
  · intro x16 x17 x18
    with_reducible apply State.endWalk_keeps hP.toStable
    with_reducible assumption

theorem State.choose_keeps {P : State → Prop} (hP : StableMem P) {s : State} {a1 : Own} {a2 : Seq} {a3 : Nat} {a4 : Nat} {a5 : Nat} (h : P s) :
    (Snd P) (State.choose s a1 a2 a3 a4 a5) := by
  unfold State.choose
  extract_lets t1
  have h2 : (Snd (Snd (P))) t1 := by
    unfold t1
    with_reducible apply State.loadFor_keeps hP
    with_reducible assumption
  clear_value t1
  split
  · with_reducible apply keep_pair_snd
    with_reducible apply State.err_keeps hP.toStable
    with_reducible assumption
  · with_reducible assumption

theorem State.measure_keeps {P : State → Prop} (hP : Stable P) {s : State} {a1 : Nat} {a2 : List Byte} (h : P s) :
    P (State.measure s a1 a2) := by
  unfold State.measure
  extract_lets t1 t2
  clear_value t1 t2
  with_reducible apply hP.rest
  with_reducible assumption

theorem State.setSeq_keeps {P : State → Prop} (hP : Stable P) {s : State} {a1 : Nat} {a2 : Seq} (h : P s) :
    P (State.setSeq s a1 a2) := by
  unfold State.setSeq
  with_reducible apply hP.rest
  with_reducible assumption

theorem State.lookBlock_keeps {P : State → Prop} (hP : StableMem P) {s : State} {a1 : Own} {a2 : Seq} {a3 : Nat} (h : P s) :
    P (State.lookBlock s a1 a2 a3) := by
  unfold State.lookBlock
  with_reducible apply keep_snd
  with_reducible apply keep_snd
  with_reducible apply State.loadFor_keeps hP
  with_reducible assumption

theorem State.historyPoison_keeps {P : State → Prop} (hP : Stable P) {s : State} {a1 : Nat} (h : P s) :
    P (State.historyPoison s a1) := by
  unfold State.historyPoison
  with_reducible apply State.err_keeps hP
  with_reducible assumption

theorem State.setIndex_keeps {P : State → Prop} (hP : Stable P) {s : State} {a1 : Nat} {a2 : List PEntry} (h : P s) :
    P (State.setIndex s a1 a2) := by
  unfold State.setIndex
  with_reducible apply State.setF_keeps hP
  with_reducible apply hP.rest
  with_reducible assumption

theorem State.matchHash_keeps {P : State → Prop} (hP : Stable P) {s : State} {a1 : Nat} {a2 : List Byte} (h : P s) :
    (Opt (Snd P)) (State.matchHash s a1 a2) := by
  unfold State.matchHash
  split
  · with_reducible apply keep_none
  · extract_lets t1 t2 t3
    clear_value t1
    have h4 : P t2 := by
      unfold t2
      with_reducible apply State.setIndex_keeps hP
      with_reducible assumption
    clear_value t2 t3
    with_reducible apply keep_some
    with_reducible apply keep_pair_snd
    with_reducible apply hP.rest
    with_reducible assumption

theorem State.setPool_keeps {P : State → Prop} (hP : Stable P) {s : State} {a1 : Nat} {a2 : Nat} (h : P s) :
    P (State.setPool s a1 a2) := by
  unfold State.setPool
  with_reducible apply hP.rest
  with_reducible assumption

theorem State.poolAdd_keeps {P : State → Prop} (hP : StableMem P) {s : State} {a1 : Nat} {a2 : Nat} (h : P s) :
    P (State.poolAdd s a1 a2) := by
  unfold State.poolAdd
  extract_lets t1 t2
  clear_value t1 t2
  with_reducible refine keep_ite (fun _ => ?_) (fun _ => ?_)
  · with_reducible apply State.err_keeps hP.toStable
    with_reducible assumption
  · with_reducible apply State.setPool_keeps hP.toStable
    with_reducible apply State.setF_keeps hP.toStable
    with_reducible apply State.writeB_keeps hP
    with_reducible assumption

theorem State.returnPage_keeps {P : State → Prop} (hP : StableMem P) {s : State} {a1 : Nat} {a2 : Nat} (h : P s) :
    P (State.returnPage s a1 a2) := by
  unfold State.returnPage
  with_reducible refine keep_ite (fun _ => ?_) (fun _ => ?_)
  · with_reducible assumption
  · with_reducible refine keep_ite (fun _ => ?_) (fun _ => ?_)
    · with_reducible refine keep_ite (fun _ => ?_) (fun _ => ?_)
      · with_reducible assumption
      · with_reducible apply hP.toStable.rest
        with_reducible assumption
    · with_reducible refine keep_ite (fun _ => ?_) (fun _ => ?_)
      · with_reducible assumption
      · with_reducible apply State.poolAdd_keeps hP
        with_reducible apply hP.toStable.rest
        with_reducible assumption

theorem State.evictOne_keeps {P : State → Prop} (hP : StableMem P) {s : State} {a1 : Nat} (h : P s) :
    (Opt P) (State.evictOne s a1) := by
  unfold State.evictOne
  extract_lets t1
  clear_value t1
  split
  · with_reducible apply keep_none
  · extract_lets t2
    have h3 : P t2 := by
      unfold t2
      with_reducible apply State.bump_keeps hP.toStable
      with_reducible apply State.setIndex_keeps hP.toStable
      with_reducible assumption
    clear_value t2
    with_reducible apply keep_some
    with_reducible apply keep_foldl (Q := P)
    · with_reducible assumption
    · intro x4 x5 x6
      with_reducible apply State.returnPage_keeps hP
      with_reducible assumption

theorem State.indexAdd_keeps {P : State → Prop} (hP : StableMem P) {s : State} {a1 : Nat} {a2 : PEntry} {a3 : Nat} (h : P s) :
    (Opt P) (State.indexAdd s a1 a2 a3) := by
  induction a3 generalizing s a1 a2
  · unfold State.indexAdd
    with_reducible apply keep_none
  · unfold State.indexAdd
    rename_i ih
    with_reducible refine keep_ite (fun _ => ?_) (fun _ => ?_)
    · with_reducible apply keep_some
      with_reducible apply State.setIndex_keeps hP.toStable
      with_reducible assumption
    · split
      · with_reducible apply ih
        refine keep_of_some ‹_ = some _› ?_
        with_reducible apply State.evictOne_keeps hP
        with_reducible assumption
      · with_reducible apply keep_none

theorem State.publishBlock_keeps {P : State → Prop} (hP : StableMem P) {s : State} {a1 : Nat} {a2 : Nat} {a3 : Nat} {a4 : List Byte} (h : P s) :
    (Snd P) (State.publishBlock s a1 a2 a3 a4) := by
  unfold State.publishBlock
  extract_lets t1 t2 t3 t4 t5 t6 t7 t8 t9
  clear_value t1 t2 t3
  have h10 : P t4 := by
    unfold t4
    with_reducible refine keep_ite (fun _ => ?_) (fun _ => ?_)
    · with_reducible apply keep_foldl (Q := P)
      · with_reducible assumption
      · intro x11 x12 x13
        with_reducible apply keep_snd
        with_reducible apply keep_snd
        with_reducible apply State.readB_keeps hP
        with_reducible assumption
    · with_reducible assumption
  clear_value t4 t5 t6 t7 t8
  have h14 : P t9 := by
    unfold t9
    with_reducible apply hP.toStable.rest
    with_reducible assumption
  clear_value t9
  split
  · with_reducible apply keep_pair_snd
    with_reducible apply keep_snd
    refine keep_of_some ‹_ = some _› ?_
    with_reducible apply State.matchHash_keeps hP.toStable
    with_reducible assumption
  · with_reducible refine keep_ite (fun _ => ?_) (fun _ => ?_)
    · with_reducible assumption
    · with_reducible refine keep_ite (fun _ => ?_) (fun _ => ?_)
      · with_reducible assumption
      · split
        · with_reducible apply keep_pair_snd
          refine keep_of_some ‹_ = some _› ?_
          with_reducible apply State.indexAdd_keeps hP
          with_reducible assumption
        · with_reducible assumption

theorem State.publish_keeps {P : State → Prop} (hP : StableMem P) {s : State} {a1 : Own} {a2 : Nat} {a3 : Nat} {a4 : Nat} {a5 : Nat} (h : P s) :
    (Snd P) (State.publish s a1 a2 a3 a4 a5) := by
  induction a5 generalizing s a1 a2 a3 a4
  · unfold State.publish
    with_reducible assumption
  · unfold State.publish
    rename_i ih
    extract_lets t1 t2 t3
    clear_value t1 t2
    have h4 : P t3 := by
      unfold t3
      with_reducible apply State.lookBlock_keeps hP
      with_reducible assumption
    clear_value t3
    with_reducible refine keep_ite (fun _ => ?_) (fun _ => ?_)
    · with_reducible assumption
    · split
      · with_reducible apply keep_pair_snd
        with_reducible apply State.historyPoison_keeps hP.toStable
        with_reducible assumption
      · split
        · with_reducible apply ih
          with_reducible apply State.setSeq_keeps hP.toStable
          refine keep_of_pair ‹_ = (_, _)› ?_
          with_reducible apply State.publishBlock_keeps hP
          with_reducible assumption
        · with_reducible apply State.publishBlock_keeps hP
          with_reducible assumption

theorem State.commitSeq_keeps {P : State → Prop} (hP : StableMem P) {s : State} {a1 : StepRun} {a2 : SWork} {a3 : Outcome} (h : P s) :
    (Snd P) (State.commitSeq s a1 a2 a3) := by
  unfold State.commitSeq
  extract_lets t1 t2 t3 t4 t5 t6
  clear_value t1 t2
  have h7 : P t3 := by
    unfold t3
    with_reducible apply State.setSeq_keeps hP.toStable
    with_reducible assumption
  clear_value t3
  have h8 : (Snd (P)) t4 := by
    unfold t4
    with_reducible apply State.publish_keeps hP
    with_reducible assumption
  clear_value t4 t5 t6
  with_reducible refine keep_ite (fun _ => ?_) (fun _ => ?_)
  · with_reducible apply keep_pair_snd
    with_reducible refine keep_ite (fun _ => ?_) (fun _ => ?_)
    · with_reducible assumption
    · with_reducible apply State.setSeq_keeps hP.toStable
      with_reducible assumption
  · with_reducible assumption

theorem State.jobMoves_keeps {P : State → Prop} (hP : StableMem P) {s : State} {a1 : Nat} {a2 : TJob} (h : P s) (hj : ∀ c x y t, P t → P (a2.move c x y t)) :
    P (State.jobMoves s a1 a2) := by
  unfold State.jobMoves
  split
  · with_reducible assumption
  · extract_lets t1
    clear_value t1
    split
    · refine keep_of_some ‹_ = some _› ?_
      with_reducible apply State.needs_keeps hP
      with_reducible assumption
    · with_reducible refine keep_ite (fun _ => ?_) (fun _ => ?_)
      · with_reducible apply State.finish_keeps hP
        with_reducible assumption
      · with_reducible apply hj
        with_reducible assumption

theorem State.jobRanges_keeps {P : State → Prop} (hP : StableMem P) {s : State} {a1 : Nat} {a2 : TJob} (h : P s) (hj : ∀ c x y t, P t → P (a2.move c x y t)) :
    P (State.jobRanges s a1 a2) := by
  unfold State.jobRanges
  split
  · with_reducible assumption
  · extract_lets t1 t2 t3 t4 t5
    clear_value t1 t2 t3
    have h6 : P t4 := by
      unfold t4
      with_reducible refine keep_ite (fun _ => ?_) (fun _ => ?_)
      · with_reducible apply keep_foldl (Q := P)
        · with_reducible assumption
        · intro x7 x8 x9
          with_reducible apply State.acquireRange_keeps hP.toStable
          with_reducible assumption
      · with_reducible assumption
    clear_value t4 t5
    split
    · split
      · with_reducible refine keep_ite (fun _ => ?_) (fun _ => ?_)
        · with_reducible apply State.finish_keeps hP
          with_reducible apply State.bump_keeps hP.toStable
          with_reducible assumption
        · with_reducible apply State.jobMoves_keeps hP
          · with_reducible apply State.onCmd_keeps hP.toStable
            with_reducible assumption
          · with_reducible assumption
      · with_reducible apply State.finish_keeps hP
        with_reducible assumption
    · with_reducible apply State.finish_keeps hP
      with_reducible assumption

theorem State.jobTables_keeps {P : State → Prop} (hP : StableMem P) {s : State} {a1 : Nat} {a2 : TJob} (h : P s) (hj : ∀ c x y t, P t → P (a2.move c x y t)) :
    P (State.jobTables s a1 a2) := by
  unfold State.jobTables
  split
  · with_reducible assumption
  · split
    · refine keep_of_some ‹_ = some _› ?_
      with_reducible apply State.needs_keeps hP
      with_reducible assumption
    · extract_lets t1 t2 t3
      have h4 : P t1 := by
        unfold t1
        with_reducible apply keep_foldl (Q := P)
        · with_reducible assumption
        · intro x5 x6 x7
          with_reducible apply State.look_keeps hP
          with_reducible assumption
      clear_value t1 t2
      have h8 : P t3 := by
        unfold t3
        with_reducible apply keep_foldl (Q := P)
        · with_reducible assumption
        · intro x9 x10 x11
          with_reducible apply keep_foldl (Q := P)
          · with_reducible assumption
          · intro x12 x13 x14
            with_reducible apply State.wr_keeps hP
            with_reducible assumption
      clear_value t3
      with_reducible refine keep_ite (fun _ => ?_) (fun _ => ?_)
      · with_reducible apply State.finish_keeps hP
        with_reducible assumption
      · split
        · with_reducible apply State.finish_keeps hP
          with_reducible apply State.err_keeps hP.toStable
          with_reducible assumption
        · with_reducible apply State.jobRanges_keeps hP
          · with_reducible assumption
          · with_reducible assumption

theorem State.jobSpace_keeps {P : State → Prop} (hP : StableMem P) {s : State} {a1 : Nat} {a2 : TJob} (h : P s) (hj : ∀ c x y t, P t → P (a2.move c x y t)) :
    P (State.jobSpace s a1 a2) := by
  unfold State.jobSpace
  split
  · with_reducible assumption
  · split
    · with_reducible apply State.onCmd_keeps hP.toStable
      with_reducible refine keep_ite (fun _ => ?_) (fun _ => ?_)
      · with_reducible assumption
      · with_reducible apply State.bump_keeps hP.toStable
        with_reducible assumption
    · extract_lets t1
      clear_value t1
      split
      with_reducible apply State.jobTables_keeps hP
      · with_reducible apply State.onCmd_keeps hP.toStable
        refine keep_of_pair ‹_ = (_, _)› ?_
        with_reducible apply keep_getD
        · with_reducible apply State.takeWork_keeps hP.toStable
          refine keep_of_some_snd ‹_ = some (_, _)› ?_
          with_reducible apply State.takeWork_keeps hP.toStable
          with_reducible assumption
        · with_reducible apply keep_pair_snd
          refine keep_of_some_snd ‹_ = some (_, _)› ?_
          with_reducible apply State.takeWork_keeps hP.toStable
          with_reducible assumption
      · with_reducible assumption

theorem State.jobDescs_keeps {P : State → Prop} (hP : StableMem P) {s : State} {a1 : Cmd} {a2 : TJob} {a3 : Nat} {a4 : Nat} (h : P s) (hj : ∀ c x y t, P t → P (a2.move c x y t)) :
    P (State.jobDescs s a1 a2 a3 a4) := by
  unfold State.jobDescs
  split
  · split
    · refine keep_of_some ‹_ = some _› ?_
      with_reducible apply State.needs_keeps hP
      with_reducible assumption
    · extract_lets t1 t2 t3 t4 t5
      have h6 : P t1 := by
        unfold t1
        with_reducible apply State.look_keeps hP
        with_reducible apply State.look_keeps hP
        with_reducible assumption
      clear_value t1 t2 t3 t4
      have h7 : P t5 := by
        unfold t5
        with_reducible apply State.onCmd_keeps hP.toStable
        with_reducible assumption
      clear_value t5
      with_reducible refine keep_ite (fun _ => ?_) (fun _ => ?_)
      · with_reducible apply State.finish_keeps hP
        with_reducible assumption
      · with_reducible refine keep_ite (fun _ => ?_) (fun _ => ?_)
        · with_reducible apply State.finish_keeps hP
          with_reducible assumption
        · with_reducible refine keep_ite (fun _ => ?_) (fun _ => ?_)
          · with_reducible apply State.finish_keeps hP
            with_reducible assumption
          · split
            · with_reducible apply State.jobSpace_keeps hP
              · with_reducible assumption
              · with_reducible assumption
            · with_reducible apply State.finish_keeps hP
              with_reducible assumption
  · with_reducible apply State.finish_keeps hP
    with_reducible assumption

theorem State.poolTake_keeps {P : State → Prop} (hP : StableMem P) {s : State} {a1 : Nat} (h : P s) :
    (Opt (Snd P)) (State.poolTake s a1) := by
  unfold State.poolTake
  with_reducible refine keep_ite (fun _ => ?_) (fun _ => ?_)
  · with_reducible apply keep_none
  · extract_lets t1 t2 t3
    clear_value t1
    have h4 : (Snd (Snd (P))) t2 := by
      unfold t2
      with_reducible apply State.readB_keeps hP
      with_reducible assumption
    clear_value t2
    have h5 : P t3 := by
      unfold t3
      with_reducible apply State.setPool_keeps hP.toStable
      with_reducible apply State.setF_keeps hP.toStable
      with_reducible assumption
    clear_value t3
    with_reducible apply keep_some
    with_reducible assumption

theorem State.flushStep_keeps {P : State → Prop} (hP : StableMem P) {s : State} {a1 : Nat} (h : P s) :
    P (State.flushStep s a1) := by
  unfold State.flushStep
  with_reducible apply State.flushOwn_keeps hP
  with_reducible assumption

theorem State.setAslot_keeps {P : State → Prop} (hP : Stable P) {s : State} {a1 : Nat} {a2 : ASlot} (h : P s) :
    P (State.setAslot s a1 a2) := by
  unfold State.setAslot
  with_reducible apply hP.rest
  with_reducible assumption

theorem State.trimAslot_keeps {P : State → Prop} (hP : Stable P) {s : State} {a1 : Nat} (h : P s) :
    P (State.trimAslot s a1) := by
  unfold State.trimAslot
  with_reducible refine keep_ite (fun _ => ?_) (fun _ => ?_)
  · with_reducible assumption
  · extract_lets t1
    clear_value t1
    with_reducible apply State.setAslot_keeps hP
    with_reducible assumption

theorem State.dropStep_keeps {P : State → Prop} (hP : StableMem P) {s : State} {a1 : StepRun} (h : P s) :
    P (State.dropStep s a1) := by
  unfold State.dropStep
  extract_lets t1 t2 t3 t4
  have h5 : P t1 := by
    unfold t1
    with_reducible apply State.flushStep_keeps hP
    with_reducible assumption
  clear_value t1 t2
  have h6 : P t3 := by
    unfold t3
    with_reducible apply hP.toStable.rest
    with_reducible assumption
  clear_value t3
  have h7 : P t4 := by
    unfold t4
    with_reducible apply State.closeGroups_keeps hP.toStable
    with_reducible apply State.giveWork_keeps hP.toStable
    with_reducible assumption
  clear_value t4
  with_reducible apply keep_foldl (Q := P)
  · with_reducible assumption
  · intro x8 x9 x10
    with_reducible refine keep_ite (fun _ => ?_) (fun _ => ?_)
    · with_reducible assumption
    · with_reducible apply State.trimAslot_keeps hP.toStable
      with_reducible assumption

theorem State.setMslot_keeps {P : State → Prop} (hP : Stable P) {s : State} {a1 : Nat} {a2 : MSlot} (h : P s) :
    P (State.setMslot s a1 a2) := by
  unfold State.setMslot
  with_reducible apply hP.rest
  with_reducible assumption

theorem State.stepTick_keeps {P : State → Prop} (hP : StableMem P) {s : State} {a1 : Nat} (h : P s) :
    P (State.stepTick s a1) := by
  unfold State.stepTick
  split
  · with_reducible assumption
  · extract_lets t1 t2 t3 t4 t5 t6 t7 t8
    clear_value t1 t2 t3 t4 t5 t6 t7
    have h9 : P t8 := by
      unfold t8
      with_reducible apply State.onCmd_keeps hP.toStable
      with_reducible assumption
    clear_value t8
    with_reducible refine keep_ite (fun _ => ?_) (fun _ => ?_)
    · with_reducible assumption
    · with_reducible refine keep_ite (fun _ => ?_) (fun _ => ?_)
      · with_reducible refine keep_ite (fun _ => ?_) (fun _ => ?_)
        · with_reducible apply State.finish_keeps hP
          with_reducible assumption
        · with_reducible assumption
      · with_reducible refine keep_ite (fun _ => ?_) (fun _ => ?_)
        · with_reducible assumption
        · with_reducible refine keep_ite (fun _ => ?_) (fun _ => ?_)
          · with_reducible assumption
          · with_reducible refine keep_ite (fun _ => ?_) (fun _ => ?_)
            · with_reducible assumption
            · with_reducible apply State.finish_keeps hP
              with_reducible assumption

theorem State.stepsTick_keeps {P : State → Prop} (hP : StableMem P) {s : State} {a1 : Nat} (h : P s) :
    P (State.stepsTick s a1) := by
  unfold State.stepsTick
  with_reducible apply keep_foldl (Q := P)
  · with_reducible assumption
  · intro x1 x2 x3
    with_reducible apply State.stepTick_keeps hP
    with_reducible assumption

theorem State.quotaWrite_keeps {P : State → Prop} (hP : Stable P) {s : State} {a1 : Nat} {a2 : Nat} (h : P s) :
    P (State.quotaWrite s a1 a2) := by
  unfold State.quotaWrite
  extract_lets t1 t2
  have h3 : P t1 := by
    unfold t1
    with_reducible apply State.setF_keeps hP
    with_reducible assumption
  clear_value t1 t2
  with_reducible refine keep_ite (fun _ => ?_) (fun _ => ?_)
  · with_reducible apply State.err_keeps hP
    with_reducible assumption
  · with_reducible assumption

theorem State.poolSetting_keeps {P : State → Prop} (hP : Stable P) {s : State} {a1 : Nat} {a2 : Nat} {a3 : Nat} (h : P s) :
    P (State.poolSetting s a1 a2 a3) := by
  unfold State.poolSetting
  with_reducible refine keep_ite (fun _ => ?_) (fun _ => ?_)
  · with_reducible apply State.err_keeps hP
    with_reducible assumption
  · with_reducible refine keep_ite (fun _ => ?_) (fun _ => ?_)
    · with_reducible apply State.setF_keeps hP
      with_reducible assumption
    · with_reducible refine keep_ite (fun _ => ?_) (fun _ => ?_)
      · with_reducible apply State.setF_keeps hP
        with_reducible assumption
      · with_reducible apply State.setF_keeps hP
        with_reducible apply State.setF_keeps hP
        with_reducible apply State.setF_keeps hP
        with_reducible assumption

theorem State.prefixSetting_keeps {P : State → Prop} (hP : Stable P) {s : State} {a1 : Nat} {a2 : Nat} {a3 : Nat} (h : P s) :
    P (State.prefixSetting s a1 a2 a3) := by
  unfold State.prefixSetting
  extract_lets t1
  have h2 : P t1 := by
    unfold t1
    split
    · with_reducible apply State.setF_keeps hP
      with_reducible assumption
    · with_reducible apply State.setReg_keeps hP
      with_reducible assumption
    · with_reducible apply State.setF_keeps hP
      with_reducible assumption
    · with_reducible apply State.setF_keeps hP
      with_reducible assumption
  clear_value t1
  with_reducible refine keep_ite (fun _ => ?_) (fun _ => ?_)
  · with_reducible assumption
  · with_reducible refine keep_ite (fun _ => ?_) (fun _ => ?_)
    · with_reducible assumption
    · with_reducible refine keep_ite (fun _ => ?_) (fun _ => ?_)
      · with_reducible apply State.err_keeps hP
        with_reducible assumption
      · with_reducible assumption

theorem State.damage_keeps {P : State → Prop} (hP : Stable P) {s : State} {a1 : Nat} {a2 : Nat} (h : P s) :
    P (State.damage s a1 a2) := by
  unfold State.damage
  extract_lets t1 t2 t3
  clear_value t1 t2
  have h4 : P t3 := by
    unfold t3
    with_reducible apply State.setSeq_keeps hP
    with_reducible assumption
  clear_value t3
  with_reducible refine keep_ite (fun _ => ?_) (fun _ => ?_)
  · with_reducible assumption
  · with_reducible refine keep_ite (fun _ => ?_) (fun _ => ?_)
    · with_reducible apply State.setF_keeps hP
      with_reducible assumption
    · with_reducible assumption

theorem State.rehash_keeps {P : State → Prop} (hP : StableMem P) {s : State} {a1 : Own} {a2 : Nat} {a3 : Nat} (h : P s) :
    P (State.rehash s a1 a2 a3) := by
  unfold State.rehash
  extract_lets t1 t2 t3 t4
  clear_value t1
  have h5 : P t2 := by
    unfold t2
    with_reducible apply keep_foldl (Q := P)
    · with_reducible assumption
    · intro x6 x7 x8
      with_reducible apply State.lookBlock_keeps hP
      with_reducible assumption
  clear_value t2 t3
  have h9 : P t4 := by
    unfold t4
    split
    · with_reducible apply State.historyPoison_keeps hP.toStable
      with_reducible assumption
    · with_reducible assumption
  clear_value t4
  with_reducible apply State.setSeq_keeps hP.toStable
  with_reducible assumption

theorem State.releaseEdit_keeps {P : State → Prop} (hP : Stable P) {s : State} {a1 : Nat} (h : P s) :
    P (State.releaseEdit s a1) := by
  unfold State.releaseEdit
  extract_lets t1 t2 t3
  clear_value t1 t2
  have h4 : P t3 := by
    unfold t3
    with_reducible apply State.setSeq_keeps hP
    with_reducible assumption
  clear_value t3
  with_reducible refine keep_ite (fun _ => ?_) (fun _ => ?_)
  · with_reducible refine keep_ite (fun _ => ?_) (fun _ => ?_)
    · with_reducible apply State.setF_keeps hP
      with_reducible assumption
    · with_reducible assumption
  · with_reducible apply State.setSeq_keeps hP
    with_reducible assumption

theorem State.pagesApply_keeps {P : State → Prop} (hP : StableMem P) {s : State} {a1 : Nat} {a2 : Nat} {a3 : Cmd} (h : P s) :
    P (State.pagesApply s a1 a2 a3) := by
  unfold State.pagesApply
  extract_lets t1 t2 t3 t4 t5 t6 t7 t8
  clear_value t1 t2
  have h9 : P t3 := by
    unfold t3
    with_reducible apply keep_snd
    with_reducible apply keep_snd
    with_reducible apply State.readB_keeps hP
    with_reducible assumption
  clear_value t3 t4 t5 t6
  have h10 : P t7 := by
    unfold t7
    with_reducible apply keep_foldl (Q := P)
    · with_reducible assumption
    · intro x11 x12 x13
      with_reducible apply State.err_keeps hP.toStable
      with_reducible assumption
  clear_value t7
  have h14 : P t8 := by
    unfold t8
    with_reducible apply State.writeB_keeps hP
    with_reducible assumption
  clear_value t8
  with_reducible apply keep_foldl (Q := P)
  · with_reducible assumption
  · intro x15 x16 x17
    with_reducible apply State.returnPage_keeps hP
    with_reducible assumption

theorem State.editApply_keeps {P : State → Prop} (hP : StableMem P) {s : State} {a1 : Nat} {a2 : Cmd} (h : P s) :
    P (State.editApply s a1 a2) := by
  unfold State.editApply
  extract_lets t1 t2 t3 t4
  clear_value t1 t2 t3 t4
  split
  · with_reducible apply State.setSeq_keeps hP.toStable
    with_reducible assumption
  · with_reducible apply State.rehash_keeps hP
    with_reducible apply State.setSeq_keeps hP.toStable
    with_reducible assumption
  · with_reducible apply State.setSeq_keeps hP.toStable
    with_reducible assumption
  · with_reducible apply State.trimAslot_keeps hP.toStable
    with_reducible apply State.setSeq_keeps hP.toStable
    with_reducible assumption
  · with_reducible apply State.setSeq_keeps hP.toStable
    with_reducible assumption
  · with_reducible apply State.setSeq_keeps hP.toStable
    with_reducible assumption
  · with_reducible apply State.setSeq_keeps hP.toStable
    with_reducible assumption
  · with_reducible apply State.releaseEdit_keeps hP.toStable
    with_reducible assumption
  · with_reducible apply State.pagesApply_keeps hP
    with_reducible assumption

theorem State.editNow_keeps {P : State → Prop} (hP : StableMem P) {s : State} {a1 : Nat} {a2 : Cmd} (h : P s) :
    P (State.editNow s a1 a2) := by
  unfold State.editNow
  split
  · with_reducible refine keep_ite (fun _ => ?_) (fun _ => ?_)
    · extract_lets t1 t2
      clear_value t1
      have h3 : P t2 := by
        unfold t2
        with_reducible apply State.look_keeps hP
        with_reducible assumption
      clear_value t2
      split
      · with_reducible refine keep_ite (fun _ => ?_) (fun _ => ?_)
        · with_reducible apply State.finish_keeps hP
          with_reducible assumption
        · with_reducible apply State.finish_keeps hP
          with_reducible apply State.editApply_keeps hP
          with_reducible assumption
      · with_reducible apply State.finish_keeps hP
        with_reducible assumption
    · with_reducible apply State.finish_keeps hP
      with_reducible apply State.editApply_keeps hP
      with_reducible assumption
  · with_reducible apply State.finish_keeps hP
    with_reducible assumption

theorem State.editBody_keeps {P : State → Prop} (hP : StableMem P) {a0 : Nat} {a1 : Cmd} {s : State} (h : P s) :
    P (State.editBody a0 a1 s) := by
  unfold State.editBody
  extract_lets t1 t2
  clear_value t1
  have h3 : ∀ y0 y1, P y0 → (P) (t2 y0 y1) := by
    unfold t2
    intro x4 x5 x6
    with_reducible refine keep_ite (fun _ => ?_) (fun _ => ?_)
    · with_reducible apply hP.toStable.rest
      with_reducible assumption
    · with_reducible apply State.editNow_keeps hP
      with_reducible assumption
  clear_value t2
  with_reducible refine keep_ite (fun _ => ?_) (fun _ => ?_)
  · split
    · refine keep_of_some ‹_ = some _› ?_
      with_reducible apply State.needs_keeps hP
      with_reducible assumption
    · with_reducible apply h3
      with_reducible assumption
  · with_reducible apply h3
    with_reducible assumption

theorem editRow_keeps {P : State → Prop} (hP : StableMem P) {a0 : Nat} {a1 : Nat} {a2 : Nat} {s : State} (h : P s) :
    (Nxt P) (editRow a0 a1 a2 s) := by
  unfold editRow
  extract_lets t1
  clear_value t1
  split
  · with_reducible refine keep_ite (fun _ => ?_) (fun _ => ?_)
    · with_reducible apply State.runRow_keeps hP
      · with_reducible assumption
      · intro x2 x3 x4
        with_reducible apply State.editBody_keeps hP
        with_reducible assumption
    · with_reducible apply done_keeps hP.toStable
      with_reducible assumption
  · with_reducible refine keep_ite (fun _ => ?_) (fun _ => ?_)
    · with_reducible apply done_keeps hP.toStable
      with_reducible assumption
    · with_reducible apply State.admitRow_keeps hP
      · with_reducible assumption
      · intro x5 x6 x7
        with_reducible apply State.editBody_keeps hP
        with_reducible assumption
  · with_reducible apply done_keeps hP.toStable
    with_reducible assumption

theorem execHold_keeps {P : State → Prop} (hP : StableMem P) {a0 : Nat} {a1 : Nat} {s : State} (h : P s) :
    (Nxt P) (execHold a0 a1 s) := by
  unfold execHold
  with_reducible apply editRow_keeps hP
  with_reducible assumption

theorem State.waitFor_keeps {P : State → Prop} (hP : StableMem P) {s : State} {a1 : Cmd} {a2 : List Nat} {a3 : Nat} (h : P s) :
    P (State.waitFor s a1 a2 a3) := by
  unfold State.waitFor
  with_reducible refine keep_ite (fun _ => ?_) (fun _ => ?_)
  · with_reducible apply State.finish_keeps hP
    with_reducible assumption
  · with_reducible apply State.onCmd_keeps hP.toStable
    with_reducible assumption

theorem execMarker_keeps {P : State → Prop} (hP : StableMem P) {a0 : Nat} {a1 : Nat} {s : State} (h : P s) :
    (Nxt P) (execMarker a0 a1 s) := by
  unfold execMarker
  with_reducible apply State.admitRow_keeps hP
  · with_reducible assumption
  · intro x1 x2 x3
    with_reducible apply State.waitFor_keeps hP
    with_reducible assumption

theorem State.readSnapshot_keeps {P : State → Prop} (hP : StableMem P) {s : State} {a1 : StepRun} {a2 : Own} {a3 : SKey} (h : P s) :
    (Snd (Snd P)) (State.readSnapshot s a1 a2 a3) := by
  unfold State.readSnapshot
  with_reducible apply keep_foldl (Q := Snd (Snd (P)))
  · with_reducible assumption
  · intro x1 x2 x3
    extract_lets t4
    have h5 : (Snd (Snd (P))) t4 := by
      unfold t4
      with_reducible apply State.readSpace_keeps hP
      with_reducible assumption
    clear_value t4
    with_reducible assumption

theorem State.setWalk_keeps {P : State → Prop} (hP : Stable P) {s : State} {a1 : Walk} (h : P s) :
    P (State.setWalk s a1) := by
  unfold State.setWalk
  with_reducible apply hP.rest
  with_reducible assumption

theorem State.copyPages_keeps {P : State → Prop} (hP : StableMem P) {s : State} {a1 : Walk} (h : P s) :
    P (State.copyPages s a1) := by
  unfold State.copyPages
  extract_lets t1 t2 t3 t4 t5
  clear_value t1 t2
  have h6 : P t3 := by
    unfold t3
    with_reducible apply State.sampled_keeps hP.toStable
    with_reducible assumption
  clear_value t3 t4
  have h7 : P t5 := by
    unfold t5
    with_reducible apply State.copyRows_keeps hP
    with_reducible assumption
  clear_value t5
  split
  · with_reducible refine keep_ite (fun _ => ?_) (fun _ => ?_)
    · with_reducible apply State.endWalk_keeps hP.toStable
      with_reducible assumption
    · with_reducible apply State.quitWalk_keeps hP.toStable
      with_reducible assumption
  · with_reducible refine keep_ite (fun _ => ?_) (fun _ => ?_)
    · with_reducible apply State.setWalk_keeps hP.toStable
      with_reducible assumption
    · with_reducible apply State.walkOver_keeps hP.toStable
      with_reducible assumption

theorem State.appendList_keeps {P : State → Prop} (hP : Stable P) {s : State} {a1 : Nat} {a2 : List Desc} (h : P s) :
    P (State.appendList s a1 a2) := by
  unfold State.appendList
  with_reducible apply hP.rest
  with_reducible assumption

theorem State.beginUnits_keeps {P : State → Prop} (hP : Stable P) {s : State} {a1 : Nat} {a2 : Nat} (h : P s) :
    P (State.beginUnits s a1 a2) := by
  induction a2 generalizing s a1
  · unfold State.beginUnits
    with_reducible assumption
  · unfold State.beginUnits
    rename_i ih
    split
    · with_reducible assumption
    · split
      · with_reducible assumption
      · extract_lets t1 t2 t3
        clear_value t1 t2 t3
        with_reducible refine keep_ite (fun _ => ?_) (fun _ => ?_)
        · with_reducible assumption
        · with_reducible apply ih
          with_reducible apply State.appendList_keeps hP
          with_reducible apply State.setWalk_keeps hP
          with_reducible assumption

theorem State.nextRound_keeps {P : State → Prop} (hP : Stable P) {s : State} {a1 : Walk} (h : P s) :
    P (State.nextRound s a1) := by
  unfold State.nextRound
  extract_lets t1
  clear_value t1
  with_reducible refine keep_ite (fun _ => ?_) (fun _ => ?_)
  · with_reducible assumption
  · with_reducible apply State.setWalk_keeps hP
    with_reducible assumption

theorem State.emptyQueries_keeps {P : State → Prop} (hP : StableMem P) {s : State} {a1 : Walk} (h : P s) :
    P (State.emptyQueries s a1) := by
  unfold State.emptyQueries
  extract_lets t1 t2 t3
  clear_value t1 t2
  have h4 : P t3 := by
    unfold t3
    with_reducible apply keep_foldl (Q := P)
    · with_reducible assumption
    · intro x5 x6 x7
      with_reducible apply keep_foldl (Q := P)
      · with_reducible assumption
      · intro x8 x9 x10
        with_reducible apply keep_foldl (Q := P)
        · with_reducible assumption
        · intro x11 x12 x13
          extract_lets t14
          clear_value t14
          with_reducible apply State.putFor_keeps hP
          with_reducible assumption
  clear_value t3
  with_reducible refine keep_ite (fun _ => ?_) (fun _ => ?_)
  · with_reducible assumption
  · with_reducible apply State.onStep_keeps hP.toStable
    with_reducible assumption

theorem State.beginWalk_keeps {P : State → Prop} (hP : StableMem P) {s : State} {a1 : StepRun} {a2 : Nat} {a3 : SWork} {a4 : Nat} {a5 : Nat} {a6 : Nat} {a7 : BitVec 72} (h : P s) :
    P (State.beginWalk s a1 a2 a3 a4 a5 a6 a7) := by
  unfold State.beginWalk
  extract_lets t1 t2 t3 t4 t5 t6 t7 t8 t9 t10 t11 t12 t13 t14 t15 t16 t17 t18 t19
  clear_value t1 t2 t3 t4
  have h20 : P t5 := by
    unfold t5
    split
    · with_reducible apply State.flipBits_keeps hP
      with_reducible assumption
    · with_reducible assumption
  clear_value t5 t6
  have h21 : (Snd (Snd (P))) t7 := by
    unfold t7
    with_reducible apply State.readSnapshot_keeps hP
    with_reducible assumption
  clear_value t7 t8 t9 t10 t11 t12 t13 t14 t15
  have h22 : P t16 := by
    unfold t16
    with_reducible assumption
  clear_value t16 t17
  have h23 : P t18 := by
    unfold t18
    with_reducible apply hP.toStable.rest
    with_reducible assumption
  clear_value t18
  have h24 : P t19 := by
    unfold t19
    with_reducible apply State.showWalk_keeps hP.toStable
    with_reducible apply State.flushOwn_keeps hP
    with_reducible assumption
  clear_value t19
  split
  · with_reducible apply State.endWalk_keeps hP.toStable
    with_reducible assumption
  · with_reducible refine keep_ite (fun _ => ?_) (fun _ => ?_)
    · with_reducible apply State.copyPages_keeps hP
      with_reducible assumption
    · with_reducible apply State.walkOver_keeps hP.toStable
      with_reducible apply State.beginUnits_keeps hP.toStable
      with_reducible apply State.nextRound_keeps hP.toStable
      with_reducible apply State.emptyQueries_keeps hP
      with_reducible assumption

theorem State.keepTokens_keeps {P : State → Prop} (hP : StableMem P) {s : State} {a1 : StepRun} {a2 : SWork} {a3 : Outcome} (h : P s) :
    (Snd P) (State.keepTokens s a1 a2 a3) := by
  unfold State.keepTokens
  extract_lets t1 t2
  clear_value t1 t2
  with_reducible refine keep_ite (fun _ => ?_) (fun _ => ?_)
  · with_reducible assumption
  · split
    · with_reducible apply keep_pair_snd
      with_reducible apply State.storeFor_keeps hP
      with_reducible assumption
    · with_reducible assumption

theorem execStepCmd_keeps {P : State → Prop} (hP : StableMem P) {a0 : Nat} {a1 : Nat} {s : State} (h : P s) :
    (Nxt P) (execStepCmd a0 a1 s) := by
  unfold execStepCmd
  with_reducible apply State.admitRow_keeps hP
  · with_reducible assumption
  · intro x1 x2 x3
    with_reducible apply State.stepTick_keeps hP
    with_reducible refine keep_ite (fun _ => ?_) (fun _ => ?_)
    · with_reducible apply State.acquirePart_keeps hP.toStable
      with_reducible assumption
    · with_reducible assumption

theorem State.hadStep_keeps {P : State → Prop} (hP : Stable P) {s : State} {a1 : Nat} (h : P s) :
    P (State.hadStep s a1) := by
  unfold State.hadStep
  with_reducible apply hP.rest
  with_reducible assumption

theorem State.descsRefused_keeps {P : State → Prop} (hP : Stable P) {s : State} {a1 : List (Nat × List Desc)} (h : P s) :
    P (State.descsRefused s a1) := by
  unfold State.descsRefused
  split
  · with_reducible apply State.passRefused_keeps hP
    with_reducible assumption
  · with_reducible assumption

theorem State.admitTraining_keeps {P : State → Prop} (hP : StableMem P) {s : State} {a1 : Cmd} {a2 : Grant} (h : P s) :
    P (State.admitTraining s a1 a2) := by
  unfold State.admitTraining
  split
  · with_reducible apply State.finish_keeps hP
    with_reducible assumption
  · extract_lets t1 t2 t3 t4 t5 t6 t7 t8 t9
    clear_value t1 t2 t3 t4 t5 t6 t7
    have h10 : P t8 := by
      unfold t8
      with_reducible apply hP.toStable.rest
      with_reducible assumption
    clear_value t8
    have h11 : P t9 := by
      unfold t9
      with_reducible apply State.onCmd_keeps hP.toStable
      with_reducible apply State.setPair_keeps hP.toStable
      with_reducible assumption
    clear_value t9
    with_reducible refine keep_ite (fun _ => ?_) (fun _ => ?_)
    · with_reducible apply State.finish_keeps hP
      with_reducible refine keep_ite (fun _ => ?_) (fun _ => ?_)
      · with_reducible assumption
      · with_reducible apply State.descsRefused_keeps hP.toStable
        with_reducible assumption
    · with_reducible apply keep_foldl (Q := P)
      · with_reducible assumption
      · intro x12 x13 x14
        with_reducible apply State.appendList_keeps hP.toStable
        with_reducible assumption

theorem State.leaveOut_keeps {P : State → Prop} (hP : Stable P) {s : State} {a1 : SWork} {a2 : Nat} (h : P s) :
    (Fst P) (State.leaveOut s a1 a2) := by
  unfold State.leaveOut
  extract_lets t1 t2 t3
  clear_value t1
  have h4 : P t2 := by
    unfold t2
    with_reducible apply State.setSeq_keeps hP
    with_reducible assumption
  clear_value t2
  have h5 : P t3 := by
    unfold t3
    with_reducible refine keep_ite (fun _ => ?_) (fun _ => ?_)
    · with_reducible assumption
    · with_reducible apply State.setF_keeps hP
      with_reducible apply State.setF_keeps hP
      with_reducible apply State.setFlag_keeps hP
      with_reducible assumption
  clear_value t3
  with_reducible apply keep_pair_fst
  with_reducible apply State.err_keeps hP
  with_reducible apply State.bump_keeps hP
  with_reducible assumption

theorem State.takePages_keeps {P : State → Prop} (hP : StableMem P) {s : State} {a1 : Nat} {a2 : MSlot} {a3 : Nat} {a4 : List Nat} (h : P s) :
    (Exc (Snd P) (Snd P)) (State.takePages s a1 a2 a3 a4) := by
  induction a3 generalizing s a1 a2 a4
  · unfold State.takePages
    with_reducible apply keep_ok
    with_reducible assumption
  · unfold State.takePages
    rename_i ih
    extract_lets t1
    have h2 : ∀ y0, P y0 → (P) (t1 y0) := by
      unfold t1
      intro x3 x4
      with_reducible apply keep_foldl (Q := P)
      · with_reducible assumption
      · intro x5 x6 x7
        with_reducible apply State.poolAdd_keeps hP
        with_reducible assumption
    clear_value t1
    with_reducible refine keep_ite (fun _ => ?_) (fun _ => ?_)
    · with_reducible apply keep_error
      with_reducible apply keep_pair_snd
      with_reducible apply h2
      with_reducible assumption
    · split
      · with_reducible apply keep_error
        with_reducible apply keep_pair_snd
        with_reducible apply h2
        with_reducible assumption
      · with_reducible apply keep_error
        with_reducible apply keep_pair_snd
        with_reducible apply h2
        refine keep_of_some_snd ‹_ = some (_, _)› ?_
        with_reducible apply State.poolTake_keeps hP
        with_reducible assumption
      · split
        · with_reducible apply ih
          refine keep_of_some_snd ‹_ = some (_, _)› ?_
          with_reducible apply State.poolTake_keeps hP
          with_reducible assumption
        · with_reducible apply keep_error
          with_reducible apply keep_pair_snd
          with_reducible apply h2
          refine keep_of_some_snd ‹_ = some (_, _)› ?_
          with_reducible apply State.poolTake_keeps hP
          with_reducible assumption

theorem State.setEntryAt_keeps {P : State → Prop} (hP : StableMem P) {s : State} {a1 : PList} {a2 : Nat} {a3 : Nat} {a4 : Nat} (h : P s) :
    P (State.setEntryAt s a1 a2 a3 a4) := by
  unfold State.setEntryAt
  with_reducible apply State.writeB_keeps hP
  with_reducible assumption

theorem State.allocate_keeps {P : State → Prop} (hP : StableMem P) {s : State} {a1 : Nat} {a2 : PList} {a3 : Nat} {a4 : Nat} {a5 : Nat} {a6 : State → Nat → List (List Nat) → Nat} (h : P s) :
    (Exc (Snd P) (Snd P)) (State.allocate s a1 a2 a3 a4 a5 a6) := by
  unfold State.allocate
  extract_lets t1 t2 t3 t4 t5 t6 t7 t8 t9 t10 t11 t12 t13
  clear_value t1 t2 t3
  have h14 : P t4 := by
    unfold t4
    with_reducible apply keep_foldl (Q := P)
    · with_reducible assumption
    · intro x15 x16 x17
      with_reducible apply keep_snd
      with_reducible apply keep_snd
      with_reducible apply State.readB_keeps hP
      with_reducible assumption
  clear_value t4 t5 t6 t7 t8 t9 t10 t11 t12 t13
  with_reducible refine keep_ite (fun _ => ?_) (fun _ => ?_)
  · with_reducible apply keep_error
    with_reducible assumption
  · with_reducible refine keep_ite (fun _ => ?_) (fun _ => ?_)
    · with_reducible apply keep_error
      with_reducible assumption
    · with_reducible refine keep_ite (fun _ => ?_) (fun _ => ?_)
      · with_reducible apply keep_error
        with_reducible assumption
      · split
        · with_reducible apply keep_error
          refine keep_of_error' (Q := Snd P) (R := Snd P) ‹_ = Except.error _› ?_
          with_reducible apply State.takePages_keeps hP
          with_reducible assumption
        · extract_lets t18 t19 t20 t21
          clear_value t18 t19 t20
          have h22 : P t21 := by
            unfold t21
            with_reducible apply keep_foldl (Q := P)
            · refine keep_of_ok (R := Snd P) ‹_ = Except.ok (_, _)› ?_
              with_reducible apply State.takePages_keeps hP
              with_reducible assumption
            · intro x23 x24 x25
              with_reducible apply State.returnPage_keeps hP
              with_reducible apply State.setEntryAt_keeps hP
              with_reducible assumption
          clear_value t21
          with_reducible refine keep_ite (fun _ => ?_) (fun _ => ?_)
          · with_reducible apply keep_error
            with_reducible assumption
          · split
            · with_reducible apply keep_ok
              with_reducible assumption
            · with_reducible apply keep_error
              with_reducible assumption

theorem State.admitWork_keeps {P : State → Prop} (hP : StableMem P) {s : State} {a1 : Nat} {a2 : SWork} {a3 : TplCodes} (h : P s) :
    (Fst P) (State.admitWork s a1 a2 a3) := by
  unfold State.admitWork
  extract_lets t1 t2 t3 t4 t5 t6
  clear_value t1
  have h7 : ∀ y0 y1, P y0 → (Fst (P)) (t2 y0 y1) := by
    unfold t2
    intro x8 x9 x10
    extract_lets t11
    have h12 : (Fst (P)) t11 := by
      unfold t11
      with_reducible apply State.leaveOut_keeps hP.toStable
      with_reducible assumption
    clear_value t11
    with_reducible assumption
  clear_value t2 t3 t4 t5
  have h13 : (Exc (Snd (P)) (Snd (P))) t6 := by
    unfold t6
    with_reducible refine keep_ite (fun _ => ?_) (fun _ => ?_)
    · with_reducible apply keep_ok
      with_reducible assumption
    · with_reducible apply State.allocate_keeps hP
      with_reducible assumption
  clear_value t6
  split
  · split
    · with_reducible apply h7
      with_reducible exact h13.1 _ rfl
    · with_reducible refine keep_ite (fun _ => ?_) (fun _ => ?_)
      · with_reducible apply h7
        with_reducible assumption
      · extract_lets t14 t15 t16 t17 t18
        clear_value t14 t15 t16 t17 t18
        with_reducible refine keep_ite (fun _ => ?_) (fun _ => ?_)
        · with_reducible apply keep_pair_fst
          with_reducible exact h13.2 _ rfl
        · split
          · with_reducible apply keep_pair_fst
            refine keep_of_ok (R := Snd P) ‹_ = Except.ok (_, _)› ?_
            with_reducible apply State.allocate_keeps hP
            with_reducible exact h13.2 _ rfl
          · with_reducible apply keep_pair_fst
            refine keep_of_error' (Q := Snd P) (R := Snd P) ‹_ = Except.error _› ?_
            with_reducible apply State.allocate_keeps hP
            with_reducible exact h13.2 _ rfl
  · with_reducible apply h7
    with_reducible assumption

theorem State.evictLow_keeps {P : State → Prop} (hP : StableMem P) {s : State} {a1 : Nat} {a2 : Nat} (h : P s) :
    P (State.evictLow s a1 a2) := by
  induction a2 generalizing s a1
  · unfold State.evictLow
    with_reducible assumption
  · unfold State.evictLow
    rename_i ih
    with_reducible refine keep_ite (fun _ => ?_) (fun _ => ?_)
    · with_reducible assumption
    · split
      · with_reducible apply ih
        refine keep_of_some ‹_ = some _› ?_
        with_reducible apply State.evictOne_keeps hP
        with_reducible assumption
      · with_reducible apply State.err_keeps hP.toStable
        with_reducible assumption

theorem State.poolLow_keeps {P : State → Prop} (hP : StableMem P) {s : State} {a1 : Nat} (h : P s) :
    P (State.poolLow s a1) := by
  unfold State.poolLow
  with_reducible refine keep_ite (fun _ => ?_) (fun _ => ?_)
  · with_reducible apply State.evictLow_keeps hP
    with_reducible assumption
  · with_reducible assumption

theorem State.recordRefused_keeps {P : State → Prop} (hP : Stable P) {s : State} {a1 : Nat} {a2 : Nat} {a3 : List SWork} (h : P s) :
    P (State.recordRefused s a1 a2 a3) := by
  unfold State.recordRefused
  extract_lets t1 t2 t3 t4
  clear_value t1 t2 t3 t4
  with_reducible apply keep_foldl (Q := P)
  · with_reducible assumption
  · intro x5 x6 x7
    split
    · with_reducible assumption
    · with_reducible apply State.descsRefused_keeps hP
      with_reducible assumption

theorem State.admitWorks_keeps {P : State → Prop} (hP : StableMem P) {s : State} {a1 : Nat} {a2 : Nat} {a3 : List SWork} (h : P s) :
    (Fst P) (State.admitWorks s a1 a2 a3) := by
  unfold State.admitWorks
  extract_lets t1 t2
  clear_value t1 t2
  with_reducible apply keep_foldl (Q := Fst (P))
  · with_reducible apply keep_pair_fst
    with_reducible apply State.poolLow_keeps hP
    with_reducible apply State.recordRefused_keeps hP.toStable
    with_reducible assumption
  · intro x3 x4 x5
    extract_lets t6
    have h7 : (Fst (P)) t6 := by
      unfold t6
      with_reducible apply State.admitWork_keeps hP
      with_reducible assumption
    clear_value t6
    with_reducible assumption

theorem State.copyFrame_keeps {P : State → Prop} (hP : StableMem P) {s : State} {a1 : Own} {a2 : MSlot} {a3 : Nat} {a4 : Nat} (h : P s) :
    P (State.copyFrame s a1 a2 a3 a4) := by
  unfold State.copyFrame
  with_reducible apply State.copyRows_keeps hP
  with_reducible assumption

theorem State.writeRecord_keeps {P : State → Prop} (hP : StableMem P) {s : State} {a1 : Nat} {a2 : List Nat} {a3 : SpaceMap} {a4 : LPart} {a5 : Nat} {a6 : Nat} (h : P s) :
    P (State.writeRecord s a1 a2 a3 a4 a5 a6) := by
  unfold State.writeRecord
  extract_lets t1
  clear_value t1
  with_reducible refine keep_ite (fun _ => ?_) (fun _ => ?_)
  · with_reducible assumption
  · with_reducible apply State.writeSpace_keeps hP
    with_reducible assumption

theorem State.writeSnapshot_keeps {P : State → Prop} (hP : StableMem P) {s : State} {a1 : Nat} {a2 : List Nat} {a3 : SpaceMap} {a4 : LPart} {a5 : Nat} (h : P s) :
    P (State.writeSnapshot s a1 a2 a3 a4 a5) := by
  unfold State.writeSnapshot
  with_reducible apply keep_foldl (Q := P)
  · with_reducible assumption
  · intro x1 x2 x3
    with_reducible apply State.writeSpace_keeps hP
    with_reducible assumption

theorem State.fillSpace_keeps {P : State → Prop} (hP : StableMem P) {s : State} {a1 : StepRun} (h : P s) :
    P (State.fillSpace s a1) := by
  unfold State.fillSpace
  extract_lets t1
  clear_value t1
  with_reducible apply keep_foldl (Q := P)
  · with_reducible assumption
  · intro x2 x3 x4
    with_reducible apply State.writeRecord_keeps hP
    with_reducible apply State.writeSnapshot_keeps hP
    with_reducible assumption

theorem State.giveReady_keeps {P : State → Prop} (hP : Stable P) {s : State} {a1 : StepRun} (h : P s) :
    P (State.giveReady s a1) := by
  unfold State.giveReady
  extract_lets t1 t2
  clear_value t1
  have h3 : P t2 := by
    unfold t2
    with_reducible apply State.onStep_keeps hP
    with_reducible assumption
  clear_value t2
  with_reducible apply keep_foldl (Q := P)
  · with_reducible assumption
  · intro x4 x5 x6
    with_reducible apply keep_foldl (Q := P)
    · with_reducible assumption
    · intro x7 x8 x9
      with_reducible apply State.appendList_keeps hP
      with_reducible assumption

theorem State.beginStep_keeps {P : State → Prop} (hP : StableMem P) {s : State} {a1 : Cmd} {a2 : Nat} {a3 : Nat} {a4 : List Admitted} {a5 : List Nat} (h : P s) :
    P (State.beginStep s a1 a2 a3 a4 a5) := by
  unfold State.beginStep
  extract_lets t1 t2 t3 t4 t5 t6 t7 t8 t9 t10
  clear_value t1 t2 t3 t4 t5 t6
  have h11 : P t7 := by
    unfold t7
    with_reducible apply hP.toStable.rest
    with_reducible assumption
  clear_value t7
  have h12 : P t8 := by
    unfold t8
    with_reducible apply State.setPair_keeps hP.toStable
    with_reducible assumption
  clear_value t8
  have h13 : P t9 := by
    unfold t9
    with_reducible apply keep_foldl (Q := P)
    · with_reducible assumption
    · intro x14 x15 x16
      with_reducible refine keep_ite (fun _ => ?_) (fun _ => ?_)
      · with_reducible assumption
      · extract_lets t17 t18
        clear_value t17
        have h19 : P t18 := by
          unfold t18
          with_reducible apply State.setSeq_keeps hP.toStable
          with_reducible assumption
        clear_value t18
        with_reducible apply keep_foldl (Q := P)
        · with_reducible assumption
        · intro x20 x21 x22
          with_reducible apply State.copyFrame_keeps hP
          with_reducible assumption
  clear_value t9
  have h23 : P t10 := by
    unfold t10
    with_reducible apply State.fillSpace_keeps hP
    with_reducible assumption
  clear_value t10
  split
  · with_reducible apply State.giveReady_keeps hP.toStable
    with_reducible assumption
  · with_reducible assumption

theorem State.admitStep_keeps {P : State → Prop} (hP : StableMem P) {s : State} {a1 : Cmd} {a2 : Nat} {a3 : List SWork} (h : P s) :
    (Opt P) (State.admitStep s a1 a2 a3) := by
  unfold State.admitStep
  extract_lets t1 t2 t3
  clear_value t1
  have h4 : (Fst (P)) t2 := by
    unfold t2
    with_reducible apply State.admitWorks_keeps hP
    with_reducible assumption
  clear_value t2 t3
  split
  · with_reducible apply keep_none
  · extract_lets t5 t6 t7 t8 t9 t10
    have h11 : P t5 := by
      unfold t5
      with_reducible apply State.poolLow_keeps hP
      refine keep_of_some_snd ‹_ = some (_, _)› ?_
      with_reducible apply State.takeWork_keeps hP.toStable
      with_reducible assumption
    clear_value t5
    have h12 : P t6 := by
      unfold t6
      with_reducible refine keep_ite (fun _ => ?_) (fun _ => ?_)
      · with_reducible apply State.acquirePart_keeps hP.toStable
        with_reducible assumption
      · with_reducible assumption
    clear_value t6
    have h13 : P t7 := by
      unfold t7
      with_reducible apply State.beginStep_keeps hP
      with_reducible assumption
    clear_value t7 t8 t9
    have h14 : P t10 := by
      unfold t10
      with_reducible apply hP.toStable.rest
      with_reducible assumption
    clear_value t10
    with_reducible apply keep_some
    with_reducible apply State.onCmd_keeps hP.toStable
    with_reducible assumption

theorem execStepAdmission_keeps {P : State → Prop} (hP : StableMem P) {a0 : Nat} {s : State} (h : P s) :
    (Nxt P) (execStepAdmission a0 s) := by
  unfold execStepAdmission
  extract_lets t1
  have h2 : P t1 := by
    unfold t1
    with_reducible apply State.stepTick_keeps hP
    with_reducible assumption
  clear_value t1
  split
  · with_reducible apply done_keeps hP.toStable
    with_reducible assumption
  · extract_lets t3 t4
    clear_value t3 t4
    with_reducible refine keep_ite (fun _ => ?_) (fun _ => ?_)
    · with_reducible apply done_keeps hP.toStable
      with_reducible refine keep_ite (fun _ => ?_) (fun _ => ?_)
      · with_reducible apply State.hadStep_keeps hP.toStable
        with_reducible apply State.admitTraining_keeps hP
        with_reducible assumption
      · with_reducible assumption
    · with_reducible refine keep_ite (fun _ => ?_) (fun _ => ?_)
      · with_reducible apply done_keeps hP.toStable
        with_reducible assumption
      · split
        · with_reducible apply done_keeps hP.toStable
          with_reducible refine keep_ite (fun _ => ?_) (fun _ => ?_)
          · with_reducible apply State.hadStep_keeps hP.toStable
            refine keep_of_some ‹_ = some _› ?_
            with_reducible apply State.admitStep_keeps hP
            with_reducible assumption
          · with_reducible assumption
        · with_reducible apply done_keeps hP.toStable
          with_reducible refine keep_ite (fun _ => ?_) (fun _ => ?_)
          · with_reducible assumption
          · with_reducible apply State.onCmd_keeps hP.toStable
            with_reducible apply State.bump_keeps hP.toStable
            with_reducible assumption

theorem State.hadChoice_keeps {P : State → Prop} (hP : Stable P) {s : State} {a1 : Nat} (h : P s) :
    P (State.hadChoice s a1) := by
  unfold State.hadChoice
  with_reducible apply hP.rest
  with_reducible assumption

theorem State.chooseDraft_keeps {P : State → Prop} (hP : StableMem P) {s : State} {a1 : StepRun} {a2 : Nat} {a3 : SWork} (h : P s) :
    P (State.chooseDraft s a1 a2 a3) := by
  unfold State.chooseDraft
  extract_lets t1 t2 t3 t4
  clear_value t1 t2 t3
  have h5 : (Snd (P)) t4 := by
    unfold t4
    with_reducible apply State.choose_keeps hP
    with_reducible assumption
  clear_value t4
  with_reducible apply State.onStep_keeps hP.toStable
  with_reducible assumption

theorem State.nextDraft_keeps {P : State → Prop} (hP : StableMem P) {s : State} {a1 : Nat} (h : P s) :
    P (State.nextDraft s a1) := by
  unfold State.nextDraft
  split
  · with_reducible refine keep_ite (fun _ => ?_) (fun _ => ?_)
    · with_reducible apply State.hadChoice_keeps hP.toStable
      with_reducible apply State.chooseDraft_keeps hP
      with_reducible assumption
    · with_reducible assumption
  · with_reducible assumption

theorem State.cutRecords_keeps {P : State → Prop} (hP : StableMem P) {s : State} {a1 : StepRun} (h : P s) :
    P (State.cutRecords s a1) := by
  unfold State.cutRecords
  extract_lets t1
  clear_value t1
  with_reducible apply keep_foldl (Q := P)
  · with_reducible assumption
  · intro x2 x3 x4
    split
    · with_reducible refine keep_ite (fun _ => ?_) (fun _ => ?_)
      · with_reducible assumption
      · with_reducible apply keep_foldl (Q := P)
        · with_reducible apply State.onStep_keeps hP.toStable
          with_reducible assumption
        · intro x5 x6 x7
          with_reducible apply State.writeRecord_keeps hP
          with_reducible assumption
    · with_reducible assumption

theorem State.builderGo_keeps {P : State → Prop} (hP : StableMem P) {s : State} {a1 : Nat} (h : P s) :
    P (State.builderGo s a1) := by
  unfold State.builderGo
  extract_lets t1
  have h2 : P t1 := by
    unfold t1
    with_reducible apply State.nextDraft_keeps hP
    with_reducible assumption
  clear_value t1
  with_reducible apply keep_foldl (Q := P)
  · with_reducible assumption
  · intro x3 x4 x5
    extract_lets t6
    have h7 : P t6 := by
      unfold t6
      with_reducible apply State.onStep_keeps hP.toStable
      with_reducible assumption
    clear_value t6
    split
    · with_reducible apply State.giveReady_keeps hP.toStable
      with_reducible apply State.cutRecords_keeps hP
      with_reducible assumption
    · with_reducible assumption

theorem execPlacement_keeps {P : State → Prop} (hP : StableMem P) {a0 : Nat} {s : State} (h : P s) :
    (Nxt P) (execPlacement a0 s) := by
  unfold execPlacement
  extract_lets t1
  have h2 : P t1 := by
    unfold t1
    with_reducible apply State.builderGo_keeps hP
    with_reducible assumption
  clear_value t1
  split
  · with_reducible apply done_keeps hP.toStable
    with_reducible assumption
  · extract_lets t3
    clear_value t3
    with_reducible apply done_keeps hP.toStable
    with_reducible apply State.onStep_keeps hP.toStable
    with_reducible assumption

theorem execWalkStart_keeps {P : State → Prop} (hP : StableMem P) {a0 : Nat} {a1 : Nat} {a2 : Nat} {a3 : Nat} {a4 : BitVec 72} {s : State} (h : P s) :
    (Nxt P) (execWalkStart a0 a1 a2 a3 a4 s) := by
  unfold execWalkStart
  split
  · with_reducible apply done_keeps hP.toStable
    with_reducible assumption
  · extract_lets t1
    clear_value t1
    split
    · with_reducible apply done_keeps hP.toStable
      with_reducible refine keep_ite (fun _ => ?_) (fun _ => ?_)
      · with_reducible apply State.copyPages_keeps hP
        with_reducible assumption
      · with_reducible apply State.beginUnits_keeps hP.toStable
        with_reducible apply State.nextRound_keeps hP.toStable
        with_reducible assumption
    · extract_lets t2
      clear_value t2
      split
      · with_reducible refine keep_ite (fun _ => ?_) (fun _ => ?_)
        · with_reducible apply done_keeps hP.toStable
          with_reducible apply State.beginWalk_keeps hP
          with_reducible assumption
        · with_reducible apply done_keeps hP.toStable
          with_reducible assumption
      · with_reducible apply done_keeps hP.toStable
        with_reducible assumption
    · with_reducible apply done_keeps hP.toStable
      with_reducible assumption

theorem execWalkCombine_keeps {P : State → Prop} (hP : StableMem P) {a0 : Nat} {a1 : Nat} {a2 : Nat} {a3 : Nat} {s : State} (h : P s) :
    (Nxt P) (execWalkCombine a0 a1 a2 a3 s) := by
  unfold execWalkCombine
  split
  · with_reducible apply done_keeps hP.toStable
    with_reducible assumption
  · extract_lets t1 t2 t3 t4 t5 t6 t7
    clear_value t1 t2 t3 t4 t5 t6
    have h8 : P t7 := by
      unfold t7
      with_reducible apply State.setWalk_keeps hP.toStable
      with_reducible apply State.showWalk_keeps hP.toStable
      with_reducible assumption
    clear_value t7
    split
    · with_reducible apply done_keeps hP.toStable
      with_reducible assumption
    · extract_lets t9 t10 t11 t12
      clear_value t9 t10
      have h13 : P t11 := by
        unfold t11
        with_reducible apply State.setGroup_keeps hP.toStable
        with_reducible assumption
      clear_value t11
      have h14 : P t12 := by
        unfold t12
        with_reducible apply keep_foldl (Q := P)
        · with_reducible assumption
        · intro x15 x16 x17
          with_reducible apply State.groupTick_keeps hP
          with_reducible apply State.setGroup_keeps hP.toStable
          with_reducible assumption
      clear_value t12
      with_reducible refine keep_ite (fun _ => ?_) (fun _ => ?_)
      · with_reducible apply done_keeps hP.toStable
        with_reducible assumption
      · with_reducible apply done_keeps hP.toStable
        with_reducible apply State.appendList_keeps hP.toStable
        with_reducible assumption

theorem execRoundCombine_keeps {P : State → Prop} (hP : StableMem P) {a0 : Nat} {a1 : Nat} {a2 : Nat} {a3 : Nat} {s : State} (h : P s) :
    (Nxt P) (execRoundCombine a0 a1 a2 a3 s) := by
  unfold execRoundCombine
  split
  · with_reducible apply done_keeps hP.toStable
    with_reducible assumption
  · extract_lets t1 t2 t3 t4 t5 t6 t7 t8 t9
    clear_value t1 t2 t3 t4 t5 t6
    have h10 : (Snd (Snd (P))) t7 := by
      unfold t7
      with_reducible apply keep_foldl (Q := Snd (Snd (P)))
      · with_reducible assumption
      · intro x11 x12 x13
        extract_lets t14 t15 t16
        clear_value t14
        have h17 : (Snd (Snd (P))) t15 := by
          unfold t15
          with_reducible apply State.readSpace_keeps hP
          with_reducible assumption
        clear_value t15 t16
        with_reducible assumption
    clear_value t7 t8
    have h18 : P t9 := by
      unfold t9
      with_reducible apply State.setWalk_keeps hP.toStable
      with_reducible apply State.showWalk_keeps hP.toStable
      with_reducible assumption
    clear_value t9
    with_reducible refine keep_ite (fun _ => ?_) (fun _ => ?_)
    · with_reducible apply done_keeps hP.toStable
      with_reducible assumption
    · split
      · with_reducible apply done_keeps hP.toStable
        with_reducible apply State.endWalk_keeps hP.toStable
        with_reducible assumption
      · with_reducible apply done_keeps hP.toStable
        with_reducible apply State.walkOver_keeps hP.toStable
        with_reducible apply State.putFor_keeps hP
        with_reducible assumption

theorem execWalkTimeout_keeps {P : State → Prop} (hP : Stable P) {a0 : Nat} {a1 : Nat} {s : State} (h : P s) :
    (Nxt P) (execWalkTimeout a0 a1 s) := by
  unfold execWalkTimeout
  split
  · extract_lets t1
    clear_value t1
    with_reducible refine keep_ite (fun _ => ?_) (fun _ => ?_)
    · with_reducible apply done_keeps hP
      with_reducible apply State.endWalk_keeps hP
      with_reducible assumption
    · with_reducible apply done_keeps hP
      with_reducible assumption
  · with_reducible apply done_keeps hP
    with_reducible assumption

theorem State.verify_keeps {P : State → Prop} (hP : StableMem P) {s : State} {a1 : Own} {a2 : Seq} {a3 : SWork} {a4 : Nat} {a5 : List Nat} {a6 : Nat} {a7 : Nat} (h : P s) :
    (Snd P) (State.verify s a1 a2 a3 a4 a5 a6 a7) := by
  induction a6 generalizing s a7 with
  | zero => exact h
  | succ n ih =>
    unfold State.verify
    extract_lets v k
    have hc : Snd P (s.choose a1 a2 (logitAt a3.places a4 k v) v (a3.c + a3.given + a7)) := State.choose_keeps hP h
    split
    · rename_i e
      rw [e] at hc
      exact hc
    · rename_i e
      rw [e] at hc
      have hu := hc
      split
      · split
        · exact ih hu
        · exact hu
      · exact hu

theorem State.outcome_keeps {P : State → Prop} (hP : StableMem P) {s : State} {a1 : StepRun} {a2 : SWork} {a3 : Nat} (h : P s) :
    (Snd P) (State.outcome s a1 a2 a3) := by
  unfold State.outcome
  extract_lets t1 t2 t3 t4 t5 t6
  clear_value t1 t2 t3 t4 t5 t6
  with_reducible refine keep_ite (fun _ => ?_) (fun _ => ?_)
  · with_reducible assumption
  · with_reducible refine keep_ite (fun _ => ?_) (fun _ => ?_)
    · with_reducible assumption
    · with_reducible refine keep_ite (fun _ => ?_) (fun _ => ?_)
      · with_reducible assumption
      · split
        · with_reducible apply keep_pair_snd
          refine keep_of_pair ‹_ = (_, _)› ?_
          with_reducible apply State.verify_keeps hP
          with_reducible assumption
        · extract_lets t7 t8
          clear_value t7
          with_reducible apply keep_pair_snd
          refine keep_of_pair ‹_ = (_, _)› ?_
          with_reducible apply State.verify_keeps hP
          with_reducible assumption

theorem State.settleWorks_keeps {P : State → Prop} (hP : StableMem P) {s : State} {a1 : StepRun} (h : P s) :
    (Snd P) (State.settleWorks s a1) := by
  unfold State.settleWorks
  extract_lets t1
  have h2 : (Snd (P)) t1 := by
    unfold t1
    with_reducible apply keep_foldl (Q := Snd (P))
    · with_reducible assumption
    · intro x3 x4 x5
      extract_lets t6 t7
      have h8 : (Snd (P)) t6 := by
        unfold t6
        with_reducible apply State.outcome_keeps hP
        with_reducible assumption
      clear_value t6
      have h9 : (Snd (P)) t7 := by
        unfold t7
        with_reducible apply State.keepTokens_keeps hP
        with_reducible assumption
      clear_value t7
      with_reducible assumption
  clear_value t1
  with_reducible apply keep_foldl (Q := Snd (P))
  · with_reducible assumption
  · intro x10 x11 x12
    with_reducible refine keep_ite (fun _ => ?_) (fun _ => ?_)
    · extract_lets t13
      have h14 : (Snd (P)) t13 := by
        unfold t13
        with_reducible apply State.commitSeq_keeps hP
        with_reducible assumption
      clear_value t13
      with_reducible assumption
    · with_reducible assumption

theorem State.putResult_keeps {P : State → Prop} (hP : StableMem P) {s : State} {a1 : Nat} {a2 : Nat} {a3 : List Byte} (h : P s) :
    P (State.putResult s a1 a2 a3) := by
  unfold State.putResult
  extract_lets t1 t2 t3 t4 t5
  clear_value t1 t2
  have h6 : P t3 := by
    unfold t3
    with_reducible apply State.ringWrite_keeps hP
    with_reducible assumption
  clear_value t3 t4
  have h7 : P t5 := by
    unfold t5
    with_reducible refine keep_ite (fun _ => ?_) (fun _ => ?_)
    · with_reducible apply hP.toStable.rest
      with_reducible assumption
    · with_reducible assumption
  clear_value t5
  with_reducible apply State.setF_keeps hP.toStable
  with_reducible assumption

theorem State.failSeq_keeps {P : State → Prop} (hP : Stable P) {s : State} {a1 : Nat} {a2 : Nat} {a3 : Bool} (h : P s) :
    P (State.failSeq s a1 a2 a3) := by
  unfold State.failSeq
  extract_lets t1 t2 t3
  clear_value t1 t2 t3
  with_reducible refine keep_ite (fun _ => ?_) (fun _ => ?_)
  · with_reducible apply State.setSeq_keeps hP
    with_reducible assumption
  · with_reducible refine keep_ite (fun _ => ?_) (fun _ => ?_)
    · with_reducible apply State.setSeq_keeps hP
      with_reducible assumption
    · with_reducible refine keep_ite (fun _ => ?_) (fun _ => ?_)
      · with_reducible apply State.damage_keeps hP
        with_reducible apply State.setSeq_keeps hP
        with_reducible assumption
      · with_reducible apply State.event_keeps hP
        with_reducible apply State.setSeq_keeps hP
        with_reducible assumption

theorem State.commitStep_keeps {P : State → Prop} (hP : StableMem P) {s : State} {a1 : StepRun} (h : P s) :
    P (State.commitStep s a1) := by
  unfold State.commitStep
  extract_lets t1 t2 t3 t4 t5 t6 t7 t8 t9 t10
  clear_value t1 t2 t3
  have h11 : (Snd (P)) t4 := by
    unfold t4
    with_reducible apply State.settleWorks_keeps hP
    with_reducible assumption
  clear_value t4
  have h12 : P t5 := by
    unfold t5
    with_reducible apply keep_foldl (Q := P)
    · with_reducible assumption
    · intro x13 x14 x15
      with_reducible apply State.putResult_keeps hP
      with_reducible assumption
  clear_value t5 t6 t7 t8
  have h16 : P t9 := by
    unfold t9
    with_reducible apply hP.toStable.rest
    with_reducible assumption
  clear_value t9
  have h17 : P t10 := by
    unfold t10
    split
    · with_reducible assumption
    · with_reducible apply State.addRec_keeps hP.toStable
      with_reducible assumption
  clear_value t10
  with_reducible apply keep_foldl (Q := P)
  · with_reducible assumption
  · intro x18 x19 x20
    with_reducible refine keep_ite (fun _ => ?_) (fun _ => ?_)
    · with_reducible assumption
    · with_reducible apply State.failSeq_keeps hP.toStable
      with_reducible assumption

theorem execStepCommit_keeps {P : State → Prop} (hP : StableMem P) {a0 : Nat} {s : State} (h : P s) :
    (Nxt P) (execStepCommit a0 s) := by
  unfold execStepCommit
  split
  · with_reducible apply done_keeps hP.toStable
    with_reducible assumption
  · extract_lets t1 t2
    have h3 : P t1 := by
      unfold t1
      with_reducible apply State.builderGo_keeps hP
      with_reducible assumption
    clear_value t1
    have h4 : P t2 := by
      unfold t2
      with_reducible apply State.flushStep_keeps hP
      with_reducible assumption
    clear_value t2
    split
    · with_reducible apply done_keeps hP.toStable
      with_reducible assumption
    · with_reducible refine keep_ite (fun _ => ?_) (fun _ => ?_)
      · with_reducible apply done_keeps hP.toStable
        with_reducible assumption
      · with_reducible refine keep_ite (fun _ => ?_) (fun _ => ?_)
        · with_reducible apply done_keeps hP.toStable
          with_reducible apply State.finish_keeps hP
          with_reducible apply State.dropStep_keeps hP
          with_reducible assumption
        · with_reducible refine keep_ite (fun _ => ?_) (fun _ => ?_)
          · with_reducible apply done_keeps hP.toStable
            with_reducible assumption
          · extract_lets t5
            clear_value t5
            with_reducible apply done_keeps hP.toStable
            with_reducible apply State.stepTick_keeps hP
            with_reducible apply State.hadChoice_keeps hP.toStable
            with_reducible apply State.dropStep_keeps hP
            with_reducible apply State.commitStep_keeps hP
            with_reducible assumption

theorem execPageRelease_keeps {P : State → Prop} (hP : StableMem P) {a0 : Nat} {a1 : Nat} {s : State} (h : P s) :
    (Nxt P) (execPageRelease a0 a1 s) := by
  unfold execPageRelease
  with_reducible refine keep_ite (fun _ => ?_) (fun _ => ?_)
  · with_reducible apply done_keeps hP.toStable
    with_reducible apply State.returnPage_keeps hP
    with_reducible apply hP.toStable.rest
    with_reducible assumption
  · with_reducible apply done_keeps hP.toStable
    with_reducible assumption

theorem State.clearReader_keeps {P : State → Prop} (hP : Stable P) {s : State} {a1 : Nat} (h : P s) :
    P (State.clearReader s a1) := by
  unfold State.clearReader
  extract_lets t1 t2
  clear_value t1 t2
  with_reducible apply hP.rest
  with_reducible assumption

theorem State.lookup_keeps {P : State → Prop} (hP : StableMem P) {s : State} {a1 : Own} {a2 : Nat} {a3 : Nat} {a4 : Nat} (h : P s) :
    P (State.lookup s a1 a2 a3 a4) := by
  induction a4 generalizing s a1 a2 a3
  · unfold State.lookup
    with_reducible assumption
  · unfold State.lookup
    rename_i ih
    extract_lets t1 t2
    clear_value t1
    have h3 : P t2 := by
      unfold t2
      with_reducible apply State.lookBlock_keeps hP
      with_reducible assumption
    clear_value t2
    with_reducible refine keep_ite (fun _ => ?_) (fun _ => ?_)
    · with_reducible assumption
    · split
      · with_reducible apply State.bump_keeps hP.toStable
        with_reducible apply State.historyPoison_keeps hP.toStable
        with_reducible assumption
      · split
        · with_reducible apply State.bump_keeps hP.toStable
          with_reducible assumption
        · extract_lets t4 t5
          clear_value t4
          have h6 : P t5 := by
            unfold t5
            with_reducible apply keep_foldl (Q := P)
            · with_reducible apply State.bump_keeps hP.toStable
              refine keep_of_some_snd ‹_ = some (_, _)› ?_
              with_reducible apply State.matchHash_keeps hP.toStable
              with_reducible assumption
            · intro x7 x8 x9
              with_reducible apply State.setEntryAt_keeps hP
              with_reducible assumption
          clear_value t5
          with_reducible apply ih
          with_reducible apply State.setSeq_keeps hP.toStable
          with_reducible assumption

theorem State.openSeq_keeps {P : State → Prop} (hP : StableMem P) {s : State} {a1 : Own} {a2 : Nat} {a3 : List Byte} (h : P s) :
    P (State.openSeq s a1 a2 a3) := by
  unfold State.openSeq
  extract_lets t1 t2 t3 t4 t5 t6
  clear_value t1 t2
  have h7 : P t3 := by
    unfold t3
    with_reducible apply State.setSeq_keeps hP.toStable
    with_reducible apply State.clearReader_keeps hP.toStable
    with_reducible assumption
  clear_value t3
  have h8 : P t4 := by
    unfold t4
    with_reducible apply State.lookup_keeps hP
    with_reducible assumption
  clear_value t4 t5 t6
  with_reducible refine keep_ite (fun _ => ?_) (fun _ => ?_)
  · with_reducible apply State.setSeq_keeps hP.toStable
    with_reducible assumption
  · with_reducible apply State.setSeq_keeps hP.toStable
    with_reducible assumption

theorem execSeqOpen_keeps {P : State → Prop} (hP : StableMem P) {a0 : Nat} {a1 : Nat} {s : State} (h : P s) :
    (Nxt P) (execSeqOpen a0 a1 s) := by
  unfold execSeqOpen
  with_reducible apply State.runRow_keeps hP
  · with_reducible assumption
  · intro x1 x2 x3
    extract_lets t4 t5 t6 t7
    clear_value t4 t5
    have h8 : P t6 := by
      unfold t6
      with_reducible apply State.look_keeps hP
      with_reducible assumption
    clear_value t6 t7
    split
    · split
      · refine keep_of_some ‹_ = some _› ?_
        with_reducible apply State.needs_keeps hP
        with_reducible assumption
      · with_reducible refine keep_ite (fun _ => ?_) (fun _ => ?_)
        · with_reducible apply State.finish_keeps hP
          with_reducible assumption
        · split
          · extract_lets t9
            have h10 : P t9 := by
              unfold t9
              with_reducible apply State.openSeq_keeps hP
              with_reducible assumption
            clear_value t9
            with_reducible apply State.finish_keeps hP
            with_reducible assumption
          · with_reducible apply State.finish_keeps hP
            with_reducible assumption
          · with_reducible apply State.finish_keeps hP
            with_reducible assumption
    · with_reducible apply State.finish_keeps hP
      with_reducible assumption

theorem execSetInput_keeps {P : State → Prop} (hP : StableMem P) {a0 : Nat} {a1 : Nat} {s : State} (h : P s) :
    (Nxt P) (execSetInput a0 a1 s) := by
  unfold execSetInput
  with_reducible apply editRow_keeps hP
  with_reducible assumption

theorem execTruncate_keeps {P : State → Prop} (hP : StableMem P) {a0 : Nat} {a1 : Nat} {s : State} (h : P s) :
    (Nxt P) (execTruncate a0 a1 s) := by
  unfold execTruncate
  with_reducible apply editRow_keeps hP
  with_reducible assumption

theorem execSetFloor_keeps {P : State → Prop} (hP : StableMem P) {a0 : Nat} {a1 : Nat} {s : State} (h : P s) :
    (Nxt P) (execSetFloor a0 a1 s) := by
  unfold execSetFloor
  with_reducible apply editRow_keeps hP
  with_reducible assumption

theorem execRebind_keeps {P : State → Prop} (hP : StableMem P) {a0 : Nat} {a1 : Nat} {s : State} (h : P s) :
    (Nxt P) (execRebind a0 a1 s) := by
  unfold execRebind
  with_reducible apply editRow_keeps hP
  with_reducible assumption

theorem execSetSpec_keeps {P : State → Prop} (hP : StableMem P) {a0 : Nat} {a1 : Nat} {s : State} (h : P s) :
    (Nxt P) (execSetSpec a0 a1 s) := by
  unfold execSetSpec
  with_reducible apply editRow_keeps hP
  with_reducible assumption

theorem execSetClass_keeps {P : State → Prop} (hP : StableMem P) {a0 : Nat} {a1 : Nat} {s : State} (h : P s) :
    (Nxt P) (execSetClass a0 a1 s) := by
  unfold execSetClass
  with_reducible apply editRow_keeps hP
  with_reducible assumption

theorem execRelease_keeps {P : State → Prop} (hP : StableMem P) {a0 : Nat} {a1 : Nat} {s : State} (h : P s) :
    (Nxt P) (execRelease a0 a1 s) := by
  unfold execRelease
  with_reducible apply editRow_keeps hP
  with_reducible assumption

theorem execPages_keeps {P : State → Prop} (hP : StableMem P) {a0 : Nat} {a1 : Nat} {s : State} (h : P s) :
    (Nxt P) (execPages a0 a1 s) := by
  unfold execPages
  with_reducible apply editRow_keeps hP
  with_reducible assumption

theorem State.takeEdit_keeps {P : State → Prop} (hP : Stable P) {s : State} {a1 : Nat} {a2 : Nat} (h : P s) :
    (Opt (Snd P)) (State.takeEdit s a1 a2) := by
  unfold State.takeEdit
  split
  · with_reducible apply keep_none
  · split
    · with_reducible refine keep_ite (fun _ => ?_) (fun _ => ?_)
      · with_reducible apply keep_some
        with_reducible apply keep_pair_snd
        with_reducible apply hP.rest
        with_reducible assumption
      · with_reducible apply keep_none
    · with_reducible apply keep_none

theorem execSeqEditApply_keeps {P : State → Prop} (hP : StableMem P) {a0 : Nat} {s : State} (h : P s) :
    (Nxt P) (execSeqEditApply a0 s) := by
  unfold execSeqEditApply
  split
  · with_reducible refine keep_ite (fun _ => ?_) (fun _ => ?_)
    · with_reducible apply done_keeps hP.toStable
      with_reducible assumption
    · with_reducible apply done_keeps hP.toStable
      with_reducible apply State.editNow_keeps hP
      refine keep_of_some_snd ‹_ = some (_, _)› ?_
      with_reducible apply State.takeEdit_keeps hP.toStable
      with_reducible assumption
  · with_reducible apply done_keeps hP.toStable
    with_reducible assumption

theorem State.closing_keeps {P : State → Prop} (hP : Stable P) {s : State} {a1 : Nat} (h : P s) :
    P (State.closing s a1) := by
  unfold State.closing
  with_reducible refine keep_ite (fun _ => ?_) (fun _ => ?_)
  · with_reducible assumption
  · with_reducible apply State.setSeq_keeps hP
    with_reducible assumption

theorem State.lookList_keeps {P : State → Prop} (hP : StableMem P) {s : State} {a1 : PList} (h : P s) :
    P (State.lookList s a1) := by
  unfold State.lookList
  with_reducible apply keep_foldl (Q := P)
  · with_reducible assumption
  · intro x1 x2 x3
    with_reducible apply keep_snd
    with_reducible apply keep_snd
    with_reducible apply State.readB_keeps hP
    with_reducible assumption

theorem State.releaseSeq_keeps {P : State → Prop} (hP : StableMem P) {s : State} {a1 : Nat} (h : P s) :
    P (State.releaseSeq s a1) := by
  unfold State.releaseSeq
  extract_lets t1 t2 t3 t4 t5 t6 t7
  clear_value t1 t2
  have h8 : P t3 := by
    unfold t3
    with_reducible apply keep_foldl (Q := P)
    · with_reducible assumption
    · intro x9 x10 x11
      with_reducible apply State.lookList_keeps hP
      with_reducible assumption
  clear_value t3 t4 t5
  have h12 : P t6 := by
    unfold t6
    with_reducible apply keep_foldl (Q := P)
    · with_reducible assumption
    · intro x13 x14 x15
      with_reducible apply State.err_keeps hP.toStable
      with_reducible assumption
  clear_value t6
  have h16 : P t7 := by
    unfold t7
    with_reducible apply State.setSeq_keeps hP.toStable
    with_reducible assumption
  clear_value t7
  with_reducible apply State.trimAslot_keeps hP.toStable
  with_reducible apply keep_foldl (Q := P)
  · with_reducible assumption
  · intro x17 x18 x19
    with_reducible apply State.returnPage_keeps hP
    with_reducible assumption

theorem execSeqClose_keeps {P : State → Prop} (hP : StableMem P) {a0 : Nat} {a1 : Nat} {s : State} (h : P s) :
    (Nxt P) (execSeqClose a0 a1 s) := by
  unfold execSeqClose
  with_reducible apply State.admitRow_keeps hP
  · with_reducible assumption
  · intro x1 x2 x3
    extract_lets t4 t5 t6
    clear_value t4
    have h7 : P t5 := by
      unfold t5
      with_reducible apply State.closing_keeps hP.toStable
      with_reducible assumption
    clear_value t5 t6
    with_reducible refine keep_ite (fun _ => ?_) (fun _ => ?_)
    · with_reducible apply State.finish_keeps hP
      with_reducible apply State.releaseSeq_keeps hP
      with_reducible assumption
    · with_reducible apply hP.toStable.rest
      with_reducible assumption

theorem execSeqCloseFinish_keeps {P : State → Prop} (hP : StableMem P) {a0 : Nat} {s : State} (h : P s) :
    (Nxt P) (execSeqCloseFinish a0 s) := by
  unfold execSeqCloseFinish
  split
  · with_reducible apply done_keeps hP.toStable
    with_reducible assumption
  · with_reducible refine keep_ite (fun _ => ?_) (fun _ => ?_)
    · with_reducible apply done_keeps hP.toStable
      with_reducible assumption
    · split
      · with_reducible apply done_keeps hP.toStable
        with_reducible apply State.finish_keeps hP
        with_reducible apply State.releaseSeq_keeps hP
        with_reducible apply State.closing_keeps hP.toStable
        refine keep_of_some_snd ‹_ = some (_, _)› ?_
        with_reducible apply State.takeEdit_keeps hP.toStable
        with_reducible assumption
      · with_reducible apply done_keeps hP.toStable
        with_reducible apply State.finish_keeps hP
        refine keep_of_some_snd ‹_ = some (_, _)› ?_
        with_reducible apply State.takeEdit_keeps hP.toStable
        with_reducible assumption

theorem execAdapterInstall_keeps {P : State → Prop} (hP : StableMem P) {a0 : Nat} {a1 : Nat} {a2 : Bool} {s : State} (h : P s) :
    (Nxt P) (execAdapterInstall a0 a1 a2 s) := by
  unfold execAdapterInstall
  with_reducible apply State.runRow_keeps hP
  · with_reducible assumption
  · intro x1 x2 x3
    extract_lets t4 t5 t6 t7 t8 t9 t10 t11 t12 t13 t14 t15 t16
    clear_value t4 t5
    have h17 : P t6 := by
      unfold t6
      with_reducible apply State.look_keeps hP
      with_reducible assumption
    clear_value t6 t7 t8 t9
    have h18 : P t10 := by
      unfold t10
      with_reducible apply State.look_keeps hP
      with_reducible assumption
    clear_value t10 t11 t12 t13 t14
    have h19 : P t15 := by
      unfold t15
      with_reducible apply State.setAslot_keeps hP.toStable
      with_reducible assumption
    clear_value t15
    have h20 : P t16 := by
      unfold t16
      with_reducible apply State.measure_keeps hP.toStable
      with_reducible apply State.trimAslot_keeps hP.toStable
      with_reducible assumption
    clear_value t16
    split
    · split
      · refine keep_of_some ‹_ = some _› ?_
        with_reducible apply State.needs_keeps hP
        with_reducible assumption
      · with_reducible refine keep_ite (fun _ => ?_) (fun _ => ?_)
        · with_reducible apply State.finish_keeps hP
          with_reducible assumption
        · with_reducible refine keep_ite (fun _ => ?_) (fun _ => ?_)
          · with_reducible apply State.finish_keeps hP
            with_reducible refine keep_ite (fun _ => ?_) (fun _ => ?_)
            · with_reducible assumption
            · with_reducible apply State.err_keeps hP.toStable
              with_reducible assumption
          · split
            · split
              · refine keep_of_some ‹_ = some _› ?_
                with_reducible apply State.needs_keeps hP
                with_reducible assumption
              · with_reducible refine keep_ite (fun _ => ?_) (fun _ => ?_)
                · with_reducible apply State.finish_keeps hP
                  with_reducible assumption
                · with_reducible refine keep_ite (fun _ => ?_) (fun _ => ?_)
                  · with_reducible apply State.finish_keeps hP
                    with_reducible assumption
                  · with_reducible refine keep_ite (fun _ => ?_) (fun _ => ?_)
                    · with_reducible apply State.finish_keeps hP
                      with_reducible assumption
                    · with_reducible apply State.finish_keeps hP
                      with_reducible assumption
            · with_reducible apply State.finish_keeps hP
              with_reducible assumption
    · with_reducible apply State.finish_keeps hP
      with_reducible assumption

theorem execAdapterRetire_keeps {P : State → Prop} (hP : StableMem P) {a0 : Nat} {a1 : Nat} {s : State} (h : P s) :
    (Nxt P) (execAdapterRetire a0 a1 s) := by
  unfold execAdapterRetire
  with_reducible apply State.admitRow_keeps hP
  · with_reducible assumption
  · intro x1 x2 x3
    extract_lets t4 t5
    clear_value t4 t5
    with_reducible apply State.finish_keeps hP
    with_reducible apply State.trimAslot_keeps hP.toStable
    with_reducible apply State.setAslot_keeps hP.toStable
    with_reducible assumption

theorem execPrefixPublish_keeps {P : State → Prop} (hP : StableMem P) {a0 : Nat} {a1 : Nat} {s : State} (h : P s) :
    (Nxt P) (execPrefixPublish a0 a1 s) := by
  unfold execPrefixPublish
  with_reducible apply State.admitRow_keeps hP
  · with_reducible assumption
  · intro x1 x2 x3
    extract_lets t4 t5
    clear_value t4
    have h6 : (Snd (P)) t5 := by
      unfold t5
      with_reducible apply State.publish_keeps hP
      with_reducible assumption
    clear_value t5
    with_reducible apply State.finish_keeps hP
    with_reducible assumption

theorem State.jobRuns_keeps {P : State → Prop} (hP : StableMem P) {a0 : Cmd} {a1 : TJob} {a2 : Nat} {a3 : Nat} {s : State} (hj : ∀ c x y t, P t → P (a1.move c x y t)) (h : P s) :
    P (State.jobRuns a0 a1 a2 a3 s) := by
  unfold State.jobRuns
  extract_lets t1
  have h2 : P t1 := by
    unfold t1
    with_reducible apply State.settlePool_keeps hP
    with_reducible assumption
  clear_value t1
  with_reducible refine keep_ite (fun _ => ?_) (fun _ => ?_)
  · with_reducible apply State.jobMoves_keeps hP
    · with_reducible assumption
    · with_reducible assumption
  · with_reducible refine keep_ite (fun _ => ?_) (fun _ => ?_)
    · with_reducible apply State.jobTables_keeps hP
      · with_reducible assumption
      · with_reducible assumption
    · with_reducible refine keep_ite (fun _ => ?_) (fun _ => ?_)
      · with_reducible apply State.jobSpace_keeps hP
        · with_reducible assumption
        · with_reducible assumption
      · with_reducible apply State.jobDescs_keeps hP
        · with_reducible assumption
        · with_reducible assumption

theorem State.planes_keeps {P : State → Prop} (hP : Stable P) {s : State} {a1 : Tensor} {a2 : List Nat} (h : P s) :
    P (State.planes s a1 a2) := by
  unfold State.planes
  extract_lets t1 t2
  clear_value t1
  have h3 : P t2 := by
    unfold t2
    with_reducible apply State.setPair_keeps hP
    with_reducible assumption
  clear_value t2
  with_reducible apply keep_foldl (Q := P)
  · with_reducible assumption
  · intro x4 x5 x6
    extract_lets t7
    clear_value t7
    with_reducible apply State.err_keeps hP
    with_reducible apply State.bump_keeps hP
    with_reducible assumption

theorem State.putTensor_keeps {P : State → Prop} (hP : StableMem P) {s : State} {a1 : Cmd} {a2 : Tensor} {a3 : List Nat} {a4 : Nat → Nat → Nat → Nat × Bool} (h : P s) :
    P (State.putTensor s a1 a2 a3 a4) := by
  unfold State.putTensor
  extract_lets t1 t2 t3 t4
  clear_value t1 t2 t3 t4
  with_reducible apply keep_foldl (Q := P)
  · with_reducible assumption
  · intro x5 x6 x7
    with_reducible apply State.gWrite_keeps hP
    with_reducible assumption

theorem State.copyMove_keeps {P : State → Prop} (hP : StableMem P) {a0 : Bool} {a1 : Bool} {a2 : List Nat} {a3 : Cmd} {a4 : Tensor} {a5 : Tensor} {s : State} (h : P s) :
    P (State.copyMove a0 a1 a2 a3 a4 a5 s) := by
  unfold State.copyMove
  extract_lets t1 t2
  have h3 : P t1 := by
    unfold t1
    with_reducible apply keep_foldl (Q := P)
    · with_reducible assumption
    · intro x4 x5 x6
      with_reducible apply State.look_keeps hP
      with_reducible assumption
  clear_value t1
  have h7 : P t2 := by
    unfold t2
    with_reducible refine keep_ite (fun _ => ?_) (fun _ => ?_)
    · with_reducible assumption
    · with_reducible apply State.planes_keeps hP.toStable
      with_reducible assumption
  clear_value t2
  with_reducible apply State.finish_keeps hP
  with_reducible apply State.putTensor_keeps hP
  with_reducible assumption

theorem State.gatherMove_keeps {P : State → Prop} (hP : StableMem P) {a0 : List Nat} {a1 : Cmd} {a2 : Tensor} {a3 : Tensor} {s : State} (h : P s) :
    P (State.gatherMove a0 a1 a2 a3 s) := by
  unfold State.gatherMove
  extract_lets t1 t2 t3 t4 t5 t6 t7 t8 t9 t10 t11 t12
  clear_value t1 t2
  have h13 : P t3 := by
    unfold t3
    with_reducible apply State.look_keeps hP
    with_reducible assumption
  clear_value t3 t4 t5 t6
  have h14 : P t7 := by
    unfold t7
    with_reducible apply State.bump_keeps hP.toStable
    with_reducible assumption
  clear_value t7 t8 t9 t10
  have h15 : P t11 := by
    unfold t11
    with_reducible apply State.bump_keeps hP.toStable
    with_reducible assumption
  clear_value t11
  have h16 : P t12 := by
    unfold t12
    with_reducible apply keep_foldl (Q := P)
    · with_reducible assumption
    · intro x17 x18 x19
      with_reducible apply keep_foldl (Q := P)
      · with_reducible assumption
      · intro x20 x21 x22
        with_reducible apply State.look_keeps hP
        with_reducible assumption
  clear_value t12
  with_reducible refine keep_ite (fun _ => ?_) (fun _ => ?_)
  · with_reducible apply State.finish_keeps hP
    with_reducible assumption
  · with_reducible refine keep_ite (fun _ => ?_) (fun _ => ?_)
    · with_reducible apply State.finish_keeps hP
      with_reducible assumption
    · with_reducible apply State.finish_keeps hP
      with_reducible apply State.putTensor_keeps hP
      with_reducible apply State.planes_keeps hP.toStable
      with_reducible assumption

theorem execCopy_keeps {P : State → Prop} (hP : StableMem P) {a0 : Nat} {a1 : Nat} {a2 : List Nat} {s : State} (h : P s) :
    (Nxt P) (execCopy a0 a1 a2 s) := by
  unfold execCopy
  with_reducible apply State.runRow_keeps hP
  · with_reducible assumption
  · intro x1 x2 x3
    with_reducible apply State.jobRuns_keeps hP
    · intro x4 x5 x6 x7 x8
      (unfold copyJob; dsimp only)
      with_reducible apply State.copyMove_keeps hP
      with_reducible assumption
    · with_reducible assumption

theorem execLayout_keeps {P : State → Prop} (hP : StableMem P) {a0 : Nat} {a1 : Nat} {a2 : List Nat} {s : State} (h : P s) :
    (Nxt P) (execLayout a0 a1 a2 s) := by
  unfold execLayout
  with_reducible apply State.runRow_keeps hP
  · with_reducible assumption
  · intro x1 x2 x3
    with_reducible apply State.jobRuns_keeps hP
    · intro x4 x5 x6 x7 x8
      (unfold copyJob; dsimp only)
      with_reducible apply State.copyMove_keeps hP
      with_reducible assumption
    · with_reducible assumption

theorem execGather_keeps {P : State → Prop} (hP : StableMem P) {a0 : Nat} {a1 : Nat} {a2 : List Nat} {s : State} (h : P s) :
    (Nxt P) (execGather a0 a1 a2 s) := by
  unfold execGather
  with_reducible apply State.runRow_keeps hP
  · with_reducible assumption
  · intro x1 x2 x3
    with_reducible apply State.jobRuns_keeps hP
    · intro x4 x5 x6 x7 x8
      (unfold gatherJob; dsimp only)
      with_reducible apply State.gatherMove_keeps hP
      with_reducible assumption
    · with_reducible assumption

theorem execAcquire_keeps {P : State → Prop} (hP : StableMem P) {a0 : Nat} {a1 : Nat} {s : State} (h : P s) :
    (Nxt P) (execAcquire a0 a1 s) := by
  unfold execAcquire
  with_reducible apply State.admitRow_keeps hP
  · with_reducible assumption
  · intro x1 x2 x3
    with_reducible apply State.finish_keeps hP
    with_reducible refine keep_ite (fun _ => ?_) (fun _ => ?_)
    · with_reducible apply State.acquireAll_keeps hP.toStable
      with_reducible assumption
    · with_reducible apply State.acquireRange_keeps hP.toStable
      with_reducible assumption

theorem execBudgetStop_keeps {P : State → Prop} (hP : Stable P) {a0 : Nat} {a1 : Nat} {s : State} (h : P s) :
    (Nxt P) (execBudgetStop a0 a1 s) := by
  unfold execBudgetStop
  extract_lets t1 t2 t3 t4 t5 t6 t7 t8 t9 t10 t11 t12 t13 t14
  clear_value t1 t2
  have h15 : P t3 := by
    unfold t3
    with_reducible apply keep_foldl (Q := P)
    · with_reducible assumption
    · intro x16 x17 x18
      with_reducible apply State.chargeBrick_keeps hP
      with_reducible assumption
  clear_value t3 t4 t5 t6
  have h19 : P t7 := by
    unfold t7
    with_reducible apply keep_foldl (Q := P)
    · with_reducible assumption
    · intro x20 x21 x22
      with_reducible apply State.workFail_keeps hP
      with_reducible assumption
  clear_value t7
  have h23 : P t8 := by
    unfold t8
    with_reducible apply keep_foldl (Q := P)
    · with_reducible assumption
    · intro x24 x25 x26
      with_reducible apply State.endWalk_keeps hP
      with_reducible assumption
  clear_value t8 t9 t10 t11 t12
  have h27 : P t13 := by
    unfold t13
    with_reducible apply hP.rest
    with_reducible assumption
  clear_value t13
  have h28 : P t14 := by
    unfold t14
    with_reducible apply keep_foldl (Q := P)
    · with_reducible assumption
    · intro x29 x30 x31
      with_reducible apply State.halt_keeps hP
      with_reducible assumption
  clear_value t14
  with_reducible refine keep_ite (fun _ => ?_) (fun _ => ?_)
  · with_reducible apply done_keeps hP
    with_reducible assumption
  · with_reducible apply done_keeps hP
    with_reducible apply State.err_keeps hP
    with_reducible apply State.bump_keeps hP
    with_reducible assumption

theorem execReplay_keeps {P : State → Prop} (hP : StableMem P) {a0 : Nat} {a1 : Nat} {s : State} (h : P s) :
    (Nxt P) (execReplay a0 a1 s) := by
  unfold execReplay
  with_reducible apply State.admitRow_keeps hP
  · with_reducible assumption
  · intro x1 x2 x3
    extract_lets t4 t5
    have h6 : P t4 := by
      unfold t4
      with_reducible refine keep_ite (fun _ => ?_) (fun _ => ?_)
      · with_reducible apply State.acquirePart_keeps hP.toStable
        with_reducible assumption
      · with_reducible assumption
    clear_value t4 t5
    split
    · with_reducible assumption
    · extract_lets t7 t8
      clear_value t7 t8
      with_reducible apply hP.toStable.rest
      with_reducible assumption

theorem execPatch_keeps {P : State → Prop} (hP : StableMem P) {a0 : Nat} {a1 : Nat} {s : State} (h : P s) :
    (Nxt P) (execPatch a0 a1 s) := by
  unfold execPatch
  with_reducible apply State.admitRow_keeps hP
  · with_reducible assumption
  · intro x1 x2 x3
    with_reducible apply State.finish_keeps hP
    with_reducible apply keep_foldl (Q := P)
    · with_reducible assumption
    · intro x4 x5 x6
      extract_lets t7 t8
      clear_value t7 t8
      with_reducible apply State.setParam_keeps hP.toStable
      with_reducible assumption

theorem execFence_keeps {P : State → Prop} (hP : StableMem P) {a0 : Nat} {a1 : Nat} {s : State} (h : P s) :
    (Nxt P) (execFence a0 a1 s) := by
  unfold execFence
  with_reducible apply State.admitRow_keeps hP
  · with_reducible assumption
  · intro x1 x2 x3
    extract_lets t4 t5
    clear_value t4 t5
    with_reducible apply State.waitFor_keeps hP
    with_reducible assumption

theorem State.addPieces_keeps {P : State → Prop} (hP : StableMem P) {s : State} {a1 : Cmd} {a2 : Nat} {a3 : Nat} {a4 : Nat} {a5 : Nat} {a6 : State → Nat → List Byte → State} (h : P s) (h6 : ∀ x0 x1 x2, P x0 → P (a6 x0 x1 x2)) :
    P (State.addPieces s a1 a2 a3 a4 a5 a6) := by
  unfold State.addPieces
  extract_lets t1 t2
  clear_value t1
  have h3 : P t2 := by
    unfold t2
    with_reducible apply keep_snd
    with_reducible apply keep_snd
    with_reducible apply State.loadFor_keeps hP
    with_reducible assumption
  clear_value t2
  with_reducible apply keep_foldl (Q := P)
  · with_reducible assumption
  · intro x4 x5 x6
    with_reducible refine keep_ite (fun _ => ?_) (fun _ => ?_)
    · with_reducible apply State.workFail_keeps hP.toStable
      with_reducible assumption
    · with_reducible apply h6
      with_reducible assumption

theorem execReduceRemote_keeps {P : State → Prop} (hP : StableMem P) {a0 : Nat} {a1 : Nat} {s : State} (h : P s) :
    (Nxt P) (execReduceRemote a0 a1 s) := by
  unfold execReduceRemote
  with_reducible apply State.admitRow_keeps hP
  · with_reducible assumption
  · intro x1 x2 x3
    extract_lets t4 t5 t6 t7 t8 t9 t10
    have h11 : P t4 := by
      unfold t4
      with_reducible apply State.settlePool_keeps hP
      with_reducible assumption
    clear_value t4 t5 t6 t7 t8
    have h12 : P t9 := by
      unfold t9
      with_reducible refine keep_ite (fun _ => ?_) (fun _ => ?_)
      · with_reducible apply State.acquireRange_keeps hP.toStable
        with_reducible assumption
      · with_reducible assumption
    clear_value t9
    have h13 : P t10 := by
      unfold t10
      with_reducible refine keep_ite (fun _ => ?_) (fun _ => ?_)
      · with_reducible apply State.addPieces_keeps hP
        · with_reducible assumption
        · intro x14 x15 x16 x17
          with_reducible apply State.addFor_keeps hP
          with_reducible assumption
      · with_reducible apply State.addPieces_keeps hP
        · with_reducible assumption
        · intro x18 x19 x20 x21
          with_reducible apply State.writeAway_keeps hP
          with_reducible assumption
    clear_value t10
    split
    · with_reducible refine keep_ite (fun _ => ?_) (fun _ => ?_)
      · with_reducible apply State.finish_keeps hP
        with_reducible assumption
      · with_reducible refine keep_ite (fun _ => ?_) (fun _ => ?_)
        · with_reducible apply State.finish_keeps hP
          with_reducible assumption
        · split
          · with_reducible apply State.finish_keeps hP
            with_reducible assumption
          · with_reducible apply State.finish_keeps hP
            with_reducible assumption
    · with_reducible apply State.finish_keeps hP
      with_reducible assumption

theorem State.evalWait_keeps {P : State → Prop} (hP : StableMem P) {s : State} {a1 : Cmd} (h : P s) :
    P (State.evalWait s a1) := by
  unfold State.evalWait
  extract_lets t1 t2 t3 t4 t5
  have h6 : P t1 := by
    unfold t1
    with_reducible apply State.settlePool_keeps hP
    with_reducible assumption
  clear_value t1 t2
  have h7 : (Snd (Snd (P))) t3 := by
    unfold t3
    with_reducible apply State.loadFor_keeps hP
    with_reducible assumption
  clear_value t3 t4
  have h8 : P t5 := by
    unfold t5
    with_reducible apply State.onCmd_keeps hP.toStable
    with_reducible assumption
  clear_value t5
  with_reducible refine keep_ite (fun _ => ?_) (fun _ => ?_)
  · with_reducible assumption
  · with_reducible refine keep_ite (fun _ => ?_) (fun _ => ?_)
    · with_reducible apply State.finish_keeps hP
      with_reducible assumption
    · split
      · with_reducible refine keep_ite (fun _ => ?_) (fun _ => ?_)
        · with_reducible refine keep_ite (fun _ => ?_) (fun _ => ?_)
          · with_reducible apply State.finish_keeps hP
            with_reducible assumption
          · with_reducible refine keep_ite (fun _ => ?_) (fun _ => ?_)
            · with_reducible apply State.finish_keeps hP
              with_reducible assumption
            · with_reducible assumption
        · with_reducible refine keep_ite (fun _ => ?_) (fun _ => ?_)
          · with_reducible apply State.finish_keeps hP
            with_reducible assumption
          · split
            · with_reducible apply State.oweAck_keeps hP.toStable
              refine keep_of_pair ‹_ = (_, _)› ?_
              with_reducible apply State.sendRemote_keeps hP.toStable
              with_reducible apply State.passAway_keeps hP.toStable
              with_reducible assumption
            · with_reducible apply State.finish_keeps hP
              refine keep_of_pair ‹_ = (_, _)› ?_
              with_reducible apply State.sendRemote_keeps hP.toStable
              with_reducible apply State.passAway_keeps hP.toStable
              with_reducible assumption
      · with_reducible apply State.finish_keeps hP
        with_reducible assumption

theorem execWaitCmd_keeps {P : State → Prop} (hP : StableMem P) {a0 : Nat} {a1 : Nat} {s : State} (h : P s) :
    (Nxt P) (execWaitCmd a0 a1 s) := by
  unfold execWaitCmd
  with_reducible apply State.admitRow_keeps hP
  · with_reducible assumption
  · intro x1 x2 x3
    with_reducible apply State.evalWait_keeps hP
    with_reducible assumption

theorem execWaitEvaluate_keeps {P : State → Prop} (hP : StableMem P) {a0 : Nat} {a1 : Nat} {s : State} (h : P s) :
    (Nxt P) (execWaitEvaluate a0 a1 s) := by
  unfold execWaitEvaluate
  split
  · with_reducible apply done_keeps hP.toStable
    with_reducible apply State.evalWait_keeps hP
    with_reducible assumption
  · with_reducible apply done_keeps hP.toStable
    with_reducible assumption

theorem execWaitTimeout_keeps {P : State → Prop} (hP : StableMem P) {a0 : Nat} {a1 : Nat} {a2 : Nat} {s : State} (h : P s) :
    (Nxt P) (execWaitTimeout a0 a1 a2 s) := by
  unfold execWaitTimeout
  split
  · with_reducible refine keep_ite (fun _ => ?_) (fun _ => ?_)
    · with_reducible apply done_keeps hP.toStable
      with_reducible apply State.finish_keeps hP
      with_reducible assumption
    · with_reducible apply done_keeps hP.toStable
      with_reducible assumption
  · with_reducible apply done_keeps hP.toStable
    with_reducible assumption

theorem execSignal_keeps {P : State → Prop} (hP : StableMem P) {a0 : Nat} {a1 : Nat} {s : State} (h : P s) :
    (Nxt P) (execSignal a0 a1 s) := by
  unfold execSignal
  with_reducible apply State.admitRow_keeps hP
  · with_reducible assumption
  · intro x1 x2 x3
    extract_lets t4 t5 t6
    have h7 : P t4 := by
      unfold t4
      with_reducible apply State.settlePool_keeps hP
      with_reducible assumption
    clear_value t4 t5
    have h8 : P t6 := by
      unfold t6
      with_reducible refine keep_ite (fun _ => ?_) (fun _ => ?_)
      · with_reducible apply State.gWrite_keeps hP
        with_reducible assumption
      · with_reducible refine keep_ite (fun _ => ?_) (fun _ => ?_)
        · with_reducible apply State.addFor_keeps hP
          with_reducible assumption
        · with_reducible apply State.writeAway_keeps hP
          with_reducible assumption
    clear_value t6
    with_reducible refine keep_ite (fun _ => ?_) (fun _ => ?_)
    · with_reducible apply State.finish_keeps hP
      with_reducible assumption
    · split
      · with_reducible apply State.finish_keeps hP
        with_reducible assumption
      · with_reducible apply State.finish_keeps hP
        with_reducible assumption

theorem execNop_keeps {P : State → Prop} (hP : StableMem P) {a0 : Nat} {a1 : Nat} {s : State} (h : P s) :
    (Nxt P) (execNop a0 a1 s) := by
  unfold execNop
  with_reducible apply State.admitRow_keeps hP
  · with_reducible assumption
  · intro x1 x2 x3
    with_reducible apply State.finish_keeps hP
    with_reducible assumption

theorem execTrainStep_keeps {P : State → Prop} (hP : StableMem P) {a0 : Nat} {a1 : Nat} {s : State} (h : P s) :
    (Nxt P) (execTrainStep a0 a1 s) := by
  unfold execTrainStep
  with_reducible apply State.admitRow_keeps hP
  · with_reducible assumption
  · intro x1 x2 x3
    with_reducible refine keep_ite (fun _ => ?_) (fun _ => ?_)
    · with_reducible apply State.acquirePart_keeps hP.toStable
      with_reducible assumption
    · with_reducible assumption

theorem State.markSuspect_keeps {P : State → Prop} (hP : Stable P) {s : State} {a1 : Nat} {a2 : Nat} (h : P s) :
    P (State.markSuspect s a1 a2) := by
  unfold State.markSuspect
  extract_lets t1 t2 t3 t4
  clear_value t1
  have h5 : P t2 := by
    unfold t2
    with_reducible apply State.event_keeps hP
    with_reducible apply State.setSeq_keeps hP
    with_reducible assumption
  clear_value t2
  have h6 : P t3 := by
    unfold t3
    with_reducible apply State.bump_keeps hP
    with_reducible assumption
  clear_value t3
  have h7 : P t4 := by
    unfold t4
    with_reducible apply keep_foldl (Q := P)
    · with_reducible assumption
    · intro x8 x9 x10
      with_reducible refine keep_ite (fun _ => ?_) (fun _ => ?_)
      · with_reducible apply State.onStep_keeps hP
        with_reducible assumption
      · with_reducible assumption
  clear_value t4
  with_reducible apply State.damage_keeps hP
  with_reducible assumption

theorem execLiveRelease_keeps {P : State → Prop} (hP : StableMem P) {a0 : Nat} {s : State} (h : P s) :
    (Nxt P) (execLiveRelease a0 s) := by
  unfold execLiveRelease
  extract_lets t1
  clear_value t1
  with_reducible refine keep_ite (fun _ => ?_) (fun _ => ?_)
  · with_reducible apply done_keeps hP.toStable
    with_reducible apply State.releaseSeq_keeps hP
    with_reducible apply State.event_keeps hP.toStable
    with_reducible assumption
  · with_reducible apply done_keeps hP.toStable
    with_reducible assumption

end Sys2Proof.Machine
end

