-- ==== Sys2Proof/Laws/KeepD.lean ====
section
/-! SUPPORT. What the operations over tiles, engines, partitions, power, Quoin, Keystone, loading and Mason keep (see Keep.lean). -/

namespace Sys2Proof.Machine

theorem State.takeDown_keeps {P : State → Prop} (hP : StableMem P) {s : State} {a1 : Nat} {a2 : Nat} (h : P s) :
    P (State.takeDown s a1 a2) := by
  unfold State.takeDown
  extract_lets t1
  clear_value t1
  with_reducible refine keep_ite (fun _ => ?_) (fun _ => ?_)
  · with_reducible apply State.linkDown_keeps hP
    with_reducible assumption
  · with_reducible assumption

theorem State.storeGlobal_keeps {P : State → Prop} (hP : StableMem P) {s : State} {a1 : Nat} {a2 : BRun} {a3 : List (Nat × List Byte)} {a4 : Bool} (h : P s) :
    P (State.storeGlobal s a1 a2 a3 a4) := by
  unfold State.storeGlobal
  with_reducible apply keep_foldl (Q := P)
  · with_reducible assumption
  · intro x1 x2 x3
    with_reducible refine keep_ite (fun _ => ?_) (fun _ => ?_)
    · with_reducible assumption
    · with_reducible refine keep_ite (fun _ => ?_) (fun _ => ?_)
      · with_reducible apply State.halt_keeps hP.toStable
        with_reducible assumption
      · with_reducible refine keep_ite (fun _ => ?_) (fun _ => ?_)
        · split
          · with_reducible apply State.storeFor_keeps hP
            with_reducible assumption
          · with_reducible apply State.halt_keeps hP.toStable
            with_reducible assumption
        · with_reducible refine keep_ite (fun _ => ?_) (fun _ => ?_)
          · with_reducible apply State.workFail_keeps hP.toStable
            with_reducible assumption
          · with_reducible apply State.writeAway_keeps hP
            with_reducible assumption

theorem State.storeWrite_keeps {P : State → Prop} (hP : StableMem P) {s : State} {a1 : Nat} {a2 : Job} (h : P s) :
    (Fst P) (State.storeWrite s a1 a2) := by
  unfold State.storeWrite
  extract_lets t1 t2 t3 t4 t5 t6 t7 t8 t9 t10
  clear_value t1 t2 t3 t4 t5
  have h11 : ∀ y0, P y0 → (Fst (P)) (t6 y0) := by
    unfold t6
    intro x12 x13
    with_reducible assumption
  clear_value t6 t7 t8 t9 t10
  with_reducible refine keep_ite (fun _ => ?_) (fun _ => ?_)
  · split
    · with_reducible assumption
    · with_reducible refine keep_ite (fun _ => ?_) (fun _ => ?_)
      · with_reducible apply keep_pair_fst
        with_reducible apply keep_fst
        with_reducible apply h11
        with_reducible assumption
      · with_reducible apply h11
        with_reducible apply State.storeGlobal_keeps hP
        with_reducible assumption
  · with_reducible apply h11
    with_reducible apply keep_foldl (Q := P)
    · with_reducible assumption
    · intro x14 x15 x16
      with_reducible apply keep_snd
      with_reducible apply State.bedWrite_keeps hP
      with_reducible assumption

theorem State.jobWrite_keeps {P : State → Prop} (hP : StableMem P) {s : State} {a1 : Nat} {a2 : Job} (h : P s) :
    (Fst P) (State.jobWrite s a1 a2) := by
  unfold State.jobWrite
  extract_lets t1 t2 t3 t4 t5 t6 t7 t8 t9 t10 t11 t12 t13 t14 t15 t16 t17 t18 t19 t20 t21 t22
  clear_value t1 t2 t3 t4 t5
  have h23 : (Snd (P)) t6 := by
    unfold t6
    with_reducible apply State.bedWrite_keeps hP
    with_reducible assumption
  clear_value t6 t7
  have h24 : (Fst (P)) t8 := by
    unfold t8
    with_reducible apply State.meets_keeps hP.toStable
    with_reducible assumption
  clear_value t8 t9 t10 t11 t12 t13 t14 t15
  have h25 : (Fst (P)) t16 := by
    unfold t16
    with_reducible apply State.meets_keeps hP.toStable
    with_reducible assumption
  clear_value t16 t17 t18 t19 t20 t21 t22
  with_reducible refine keep_ite (fun _ => ?_) (fun _ => ?_)
  · with_reducible apply keep_pair_fst
    with_reducible refine keep_ite (fun _ => ?_) (fun _ => ?_)
    · with_reducible apply State.halt_keeps hP.toStable
      with_reducible apply State.poisoned_keeps hP.toStable
      with_reducible assumption
    · with_reducible assumption
  · split
    · with_reducible apply keep_pair_fst
      with_reducible apply State.setBrick_keeps hP.toStable
      with_reducible assumption
    · with_reducible apply keep_pair_fst
      with_reducible apply State.setBrick_keeps hP.toStable
      with_reducible assumption
    · with_reducible apply keep_pair_fst
      with_reducible apply State.setBrick_keeps hP.toStable
      with_reducible assumption
    · with_reducible refine keep_ite (fun _ => ?_) (fun _ => ?_)
      · with_reducible apply keep_pair_fst
        with_reducible apply State.setBrick_keeps hP.toStable
        with_reducible assumption
      · with_reducible apply keep_pair_fst
        with_reducible apply hP.toStable.rest
        with_reducible assumption
    · with_reducible apply keep_pair_fst
      with_reducible apply State.setBrick_keeps hP.toStable
      with_reducible assumption
    · with_reducible apply keep_pair_fst
      with_reducible apply State.setBrick_keeps hP.toStable
      with_reducible assumption
    · with_reducible apply State.storeWrite_keeps hP
      with_reducible assumption

theorem State.vecUnit_keeps {P : State → Prop} (hP : StableMem P) {s : State} {a1 : Nat} {a2 : EIns} {a3 : Bool} {a4 : Nat} {a5 : Nat} (h : P s) :
    (Snd P) (State.vecUnit s a1 a2 a3 a4 a5) := by
  unfold State.vecUnit
  extract_lets t1 t2 t3
  clear_value t1
  have h4 : (Snd (Snd (P))) t3 := by
    unfold t3
    with_reducible apply State.bedRead_keeps hP
    with_reducible assumption
  clear_value t3
  with_reducible refine keep_ite (fun _ => ?_) (fun _ => ?_)
  · with_reducible apply keep_pair_snd
    with_reducible apply State.watch_keeps hP.toStable
    with_reducible assumption
  · with_reducible assumption

theorem State.posUnit_keeps {P : State → Prop} (hP : StableMem P) {s : State} {a1 : Nat} {a2 : Nat} {a3 : Job} {a4 : Nat} {a5 : Nat} (h : P s) :
    (Snd P) (State.posUnit s a1 a2 a3 a4 a5) := by
  unfold State.posUnit
  extract_lets t1 t2
  clear_value t1
  have h3 : (Snd (Snd (P))) t2 := by
    unfold t2
    with_reducible apply State.bedRead_keeps hP
    with_reducible assumption
  clear_value t2
  with_reducible refine keep_ite (fun _ => ?_) (fun _ => ?_)
  · with_reducible assumption
  · with_reducible assumption

theorem State.vopSecond_keeps {P : State → Prop} (hP : StableMem P) {s : State} {a1 : Nat} {a2 : Job} {a3 : Nat} {a4 : Nat} (h : P s) :
    (Snd P) (State.vopSecond s a1 a2 a3 a4) := by
  unfold State.vopSecond
  extract_lets t1 t2 t3 t4 t5
  clear_value t1 t2
  have h6 : (Snd (P)) t3 := by
    unfold t3
    with_reducible apply State.posUnit_keeps hP
    with_reducible assumption
  clear_value t3
  have h7 : (Snd (Snd (P))) t4 := by
    unfold t4
    with_reducible apply State.bedRead_keeps hP
    with_reducible assumption
  clear_value t4
  have h8 : (Snd (P)) t5 := by
    unfold t5
    with_reducible apply State.vecUnit_keeps hP
    with_reducible assumption
  clear_value t5
  with_reducible refine keep_ite (fun _ => ?_) (fun _ => ?_)
  · with_reducible assumption
  · with_reducible refine keep_ite (fun _ => ?_) (fun _ => ?_)
    · with_reducible assumption
    · with_reducible refine keep_ite (fun _ => ?_) (fun _ => ?_)
      · with_reducible assumption
      · with_reducible assumption

theorem State.storeSource_keeps {P : State → Prop} (hP : Stable P) {s : State} {a1 : Nat} {a2 : Job} {a3 : Nat} {a4 : Nat} (h : P s) :
    (Snd P) (State.storeSource s a1 a2 a3 a4) := by
  unfold State.storeSource
  extract_lets t1 t2 t3 t4 t5 t6 t7 t8 t9 t10 t11
  clear_value t1 t2 t3 t4 t5
  have h12 : P t6 := by
    unfold t6
    with_reducible apply State.watch_keeps hP
    with_reducible assumption
  clear_value t6 t7 t8 t9
  have h13 : P t10 := by
    unfold t10
    with_reducible apply State.watch_keeps hP
    with_reducible assumption
  clear_value t10 t11
  split
  · with_reducible apply keep_pair_snd
    with_reducible refine keep_ite (fun _ => ?_) (fun _ => ?_)
    · with_reducible apply State.setBrick_keeps hP
      with_reducible assumption
    · with_reducible assumption
  · with_reducible apply keep_pair_snd
    with_reducible apply State.setBrick_keeps hP
    with_reducible assumption
  · with_reducible apply keep_pair_snd
    with_reducible refine keep_ite (fun _ => ?_) (fun _ => ?_)
    · with_reducible apply State.setBrick_keeps hP
      with_reducible assumption
    · with_reducible assumption

theorem State.jobRead_keeps {P : State → Prop} (hP : StableMem P) {s : State} {a1 : Nat} {a2 : Job} (h : P s) :
    (Fst P) (State.jobRead s a1 a2) := by
  unfold State.jobRead
  extract_lets t1 t2 t3 t4 t5 t6 t7 t8 t9 t10 t11 t12 t13 t14 t15 t16 t17 t18 t19 t20 t21 t22 t23 t24 t25 t26 t27 t28 t29 t30 t31 t32 t33 t34
  clear_value t1 t2 t3 t4
  have h35 : ∀ y0 y1 y2, P y0 → (Fst (P)) (t5 y0 y1 y2) := by
    unfold t5
    intro x36 x37 x38 x39
    with_reducible assumption
  clear_value t5
  have h40 : (Snd (Snd (P))) t6 := by
    unfold t6
    with_reducible apply State.bedRead_keeps hP
    with_reducible assumption
  clear_value t6
  have h41 : (Fst (P)) t7 := by
    unfold t7
    with_reducible apply State.meets_keeps hP.toStable
    with_reducible assumption
  clear_value t7 t8
  have h42 : (Snd (Snd (P))) t9 := by
    unfold t9
    with_reducible apply State.bedRead_keeps hP
    with_reducible assumption
  clear_value t9
  have h43 : (Fst (P)) t10 := by
    unfold t10
    with_reducible apply State.meets_keeps hP.toStable
    with_reducible assumption
  clear_value t10
  have h44 : P t11 := by
    unfold t11
    with_reducible apply State.bumpW_keeps hP.toStable
    with_reducible apply State.bumpW_keeps hP.toStable
    with_reducible assumption
  clear_value t11 t12
  have h45 : (Snd (Snd (P))) t13 := by
    unfold t13
    with_reducible apply State.bedRead_keeps hP
    with_reducible assumption
  clear_value t13
  have h46 : (Fst (P)) t14 := by
    unfold t14
    with_reducible apply State.meets_keeps hP.toStable
    with_reducible assumption
  clear_value t14 t15 t16 t17
  have h47 : (Snd (Snd (P))) t18 := by
    unfold t18
    with_reducible apply State.bedRead_keeps hP
    with_reducible assumption
  clear_value t18
  have h48 : (Fst (P)) t19 := by
    unfold t19
    with_reducible apply State.meets_keeps hP.toStable
    with_reducible assumption
  clear_value t19
  have h49 : P t20 := by
    unfold t20
    with_reducible refine keep_ite (fun _ => ?_) (fun _ => ?_)
    · with_reducible apply State.setBrick_keeps hP.toStable
      with_reducible assumption
    · with_reducible assumption
  clear_value t20 t21
  have h50 : (Snd (P)) t22 := by
    unfold t22
    with_reducible apply State.vecUnit_keeps hP
    with_reducible assumption
  clear_value t22
  have h51 : (Snd (P)) t23 := by
    unfold t23
    with_reducible apply State.vopSecond_keeps hP
    with_reducible assumption
  clear_value t23
  have h52 : (Fst (P)) t24 := by
    unfold t24
    with_reducible apply State.meets_keeps hP.toStable
    with_reducible assumption
  clear_value t24 t25
  have h53 : (Snd (Snd (P))) t26 := by
    unfold t26
    with_reducible apply State.bedRead_keeps hP
    with_reducible assumption
  clear_value t26
  have h54 : (Fst (P)) t27 := by
    unfold t27
    with_reducible apply State.meets_keeps hP.toStable
    with_reducible assumption
  clear_value t27 t28 t29
  have h55 : (Snd (P)) t30 := by
    unfold t30
    with_reducible apply State.storeSource_keeps hP.toStable
    with_reducible assumption
  clear_value t30 t31
  have h56 : (Snd (P)) t32 := by
    unfold t32
    with_reducible refine keep_ite (fun _ => ?_) (fun _ => ?_)
    · with_reducible apply State.posUnit_keeps hP
      with_reducible assumption
    · with_reducible assumption
  clear_value t32
  have h57 : (Fst (P)) t33 := by
    unfold t33
    with_reducible apply State.meets_keeps hP.toStable
    with_reducible assumption
  clear_value t33 t34
  split
  · with_reducible apply h35
    with_reducible assumption
  · with_reducible apply h35
    with_reducible assumption
  · with_reducible apply h35
    with_reducible assumption
  · with_reducible apply h35
    with_reducible assumption
  · with_reducible apply h35
    with_reducible assumption
  · with_reducible apply h35
    with_reducible assumption
  · with_reducible assumption

theorem State.move_keeps {P : State → Prop} (hP : StableMem P) {s : State} {a1 : Nat} {a2 : Nat} {a3 : Bool} (h : P s) :
    P (State.move s a1 a2 a3) := by
  unfold State.move
  split
  · with_reducible assumption
  · extract_lets t1 t2
    have h3 : (Fst (P)) t1 := by
      unfold t1
      with_reducible refine keep_ite (fun _ => ?_) (fun _ => ?_)
      · with_reducible apply State.jobWrite_keeps hP
        with_reducible assumption
      · with_reducible apply State.jobRead_keeps hP
        with_reducible assumption
    clear_value t1 t2
    with_reducible refine keep_ite (fun _ => ?_) (fun _ => ?_)
    · with_reducible assumption
    · with_reducible apply State.setBrick_keeps hP.toStable
      with_reducible assumption

theorem State.moveTo_keeps {P : State → Prop} (hP : StableMem P) {s : State} {a1 : Nat} {a2 : Nat} {a3 : Nat} (h : P s) :
    P (State.moveTo s a1 a2 a3) := by
  induction a3 generalizing s a1 a2
  · unfold State.moveTo
    with_reducible assumption
  · unfold State.moveTo
    rename_i ih
    extract_lets t1 t2
    clear_value t1 t2
    split
    · with_reducible assumption
    · with_reducible refine keep_ite (fun _ => ?_) (fun _ => ?_)
      · with_reducible apply ih
        with_reducible apply State.move_keeps hP
        with_reducible assumption
      · with_reducible assumption

theorem State.trap_keeps {P : State → Prop} (hP : StableMem P) {s : State} {a1 : Nat} (h : P s) :
    P (State.trap s a1) := by
  unfold State.trap
  split
  · with_reducible assumption
  · extract_lets t1
    have h2 : P t1 := by
      unfold t1
      with_reducible apply State.moveTo_keeps hP
      with_reducible assumption
    clear_value t1
    with_reducible refine keep_ite (fun _ => ?_) (fun _ => ?_)
    · with_reducible assumption
    · with_reducible apply State.err_keeps hP.toStable
      with_reducible apply State.halt_keeps hP.toStable
      with_reducible assumption

theorem State.runTo_keeps {P : State → Prop} (hP : StableMem P) {s : State} {a1 : Nat} {a2 : Nat} (h : P s) :
    P (State.runTo s a1 a2) := by
  unfold State.runTo
  extract_lets t1 t2
  have h3 : P t1 := by
    unfold t1
    with_reducible apply State.moveTo_keeps hP
    with_reducible assumption
  clear_value t1 t2
  with_reducible apply State.trap_keeps hP
  with_reducible apply State.setBrick_keeps hP.toStable
  with_reducible assumption

theorem State.faultReport_keeps {P : State → Prop} (hP : StableMem P) {s : State} {a1 : Nat} {a2 : BRun} {a3 : Nat} {a4 : Nat} {a5 : Nat} (h : P s) :
    P (State.faultReport s a1 a2 a3 a4 a5) := by
  unfold State.faultReport
  with_reducible apply State.f2h_keeps hP
  with_reducible assumption

theorem State.masonFault_keeps {P : State → Prop} (hP : StableMem P) {s : State} {a1 : Nat} {a2 : Nat} (h : P s) :
    P (State.masonFault s a1 a2) := by
  unfold State.masonFault
  extract_lets t1
  clear_value t1
  split
  · with_reducible assumption
  · with_reducible apply State.faultReport_keeps hP
    with_reducible apply State.halt_keeps hP.toStable
    with_reducible assumption

theorem State.landRegs_keeps {P : State → Prop} (hP : Stable P) {s : State} {a1 : Nat} (h : P s) :
    P (State.landRegs s a1) := by
  unfold State.landRegs
  extract_lets t1 t2
  clear_value t1 t2
  with_reducible apply keep_foldl (Q := P)
  · with_reducible apply State.setBrick_keeps hP
    with_reducible assumption
  · intro x3 x4 x5
    extract_lets t6 t7 t8
    clear_value t6
    have h9 : P t8 := by
      unfold t8
      with_reducible apply State.setBrick_keeps hP
      with_reducible assumption
    clear_value t8
    with_reducible refine keep_ite (fun _ => ?_) (fun _ => ?_)
    · with_reducible apply State.hazard_keeps hP
      with_reducible assumption
    · with_reducible assumption

theorem State.fetchMason_keeps {P : State → Prop} (hP : StableMem P) {s : State} {a1 : Nat} {a2 : Bool} (h : P s) :
    (Fetched P) (State.fetchMason s a1 a2) := by
  unfold State.fetchMason
  extract_lets t1 t2 t3 t4
  clear_value t1
  have h5 : P t2 := by
    unfold t2
    with_reducible apply State.runTo_keeps hP
    with_reducible apply State.setBrick_keeps hP.toStable
    with_reducible assumption
  clear_value t2
  have h6 : P t3 := by
    unfold t3
    with_reducible apply State.masonFault_keeps hP
    with_reducible assumption
  clear_value t3 t4
  split
  · with_reducible exact keep_idle
  · with_reducible refine keep_ite (fun _ => ?_) (fun _ => ?_)
    · with_reducible exact keep_idle
    · with_reducible refine keep_ite (fun _ => ?_) (fun _ => ?_)
      · with_reducible apply keep_fault
        with_reducible assumption
      · with_reducible refine keep_ite (fun _ => ?_) (fun _ => ?_)
        · with_reducible apply keep_fault
          with_reducible apply State.setBrick_keeps hP.toStable
          with_reducible assumption
        · split
          · with_reducible apply keep_fault
            with_reducible apply State.masonFault_keeps hP
            with_reducible assumption
          · with_reducible refine keep_ite (fun _ => ?_) (fun _ => ?_)
            · with_reducible apply keep_word
              with_reducible apply State.landRegs_keeps hP.toStable
              with_reducible assumption
            · with_reducible apply keep_fault
              with_reducible apply State.masonFault_keeps hP
              with_reducible assumption

theorem masonRow_keeps {P : State → Prop} (hP : StableMem P) {a0 : Nat} {a1 : Bool} {a2 : Nat → Bool} {a3 : Nat → State → State} {s : State} (h3 : ∀ x0 x1, P x1 → P (a3 x0 x1)) (h : P s) :
    (Nxt P) (masonRow a0 a1 a2 a3 s) := by
  unfold masonRow
  split
  · with_reducible apply done_keeps hP.toStable
    with_reducible assumption
  · with_reducible apply done_keeps hP.toStable
    refine keep_of_fault ‹_ = Fetch5.fault _› ?_
    with_reducible apply State.fetchMason_keeps hP
    with_reducible assumption
  · with_reducible refine keep_ite (fun _ => ?_) (fun _ => ?_)
    · with_reducible apply done_keeps hP.toStable
      with_reducible apply State.trap_keeps hP
      with_reducible apply h3
      refine keep_of_word ‹_ = Fetch5.word _ _› ?_
      with_reducible apply State.fetchMason_keeps hP
      with_reducible assumption
    · with_reducible apply done_keeps hP.toStable
      with_reducible assumption

theorem State.xr_keeps {P : State → Prop} (hP : Stable P) {s : State} {a1 : Nat} {a2 : Nat} (h : P s) :
    (Snd P) (State.xr s a1 a2) := by
  unfold State.xr
  with_reducible refine keep_ite (fun _ => ?_) (fun _ => ?_)
  · with_reducible assumption
  · extract_lets t1 t2
    clear_value t1 t2
    with_reducible refine keep_ite (fun _ => ?_) (fun _ => ?_)
    · with_reducible apply keep_pair_snd
      with_reducible apply State.hazard_keeps hP
      with_reducible assumption
    · with_reducible assumption

theorem State.dataCheck_keeps {P : State → Prop} (hP : Stable P) {s : State} {a1 : Nat} {a2 : Nat} {a3 : Nat} {a4 : BitVec 72} (h : P s) :
    (Snd P) (State.dataCheck s a1 a2 a3 a4) := by
  unfold State.dataCheck
  extract_lets t1
  clear_value t1
  with_reducible apply keep_pair_snd
  with_reducible apply State.setBrick_keeps hP
  with_reducible assumption

theorem State.masonPoison_keeps {P : State → Prop} (hP : Stable P) {s : State} {a1 : Nat} {a2 : Option Nat} (h : P s) :
    P (State.masonPoison s a1 a2) := by
  unfold State.masonPoison
  with_reducible apply State.halt_keeps hP
  with_reducible apply State.poisoned_keeps hP
  with_reducible assumption

theorem State.mGo_keeps {P : State → Prop} (hP : Stable P) {s : State} {a1 : Nat} {a2 : Nat} {a3 : Nat} (h : P s) :
    P (State.mGo s a1 a2 a3) := by
  unfold State.mGo
  extract_lets t1
  clear_value t1
  with_reducible apply State.setBrick_keeps hP
  with_reducible assumption

theorem State.mNext_keeps {P : State → Prop} (hP : Stable P) {s : State} {a1 : Nat} {a2 : Nat} (h : P s) :
    P (State.mNext s a1 a2) := by
  unfold State.mNext
  with_reducible apply State.mGo_keeps hP
  with_reducible assumption

theorem State.xw_keeps {P : State → Prop} (hP : Stable P) {s : State} {a1 : Nat} {a2 : Nat} {a3 : Nat} {a4 : Nat} (h : P s) :
    P (State.xw s a1 a2 a3 a4) := by
  unfold State.xw
  with_reducible refine keep_ite (fun _ => ?_) (fun _ => ?_)
  · with_reducible assumption
  · extract_lets t1
    clear_value t1
    with_reducible apply State.setBrick_keeps hP
    with_reducible assumption

theorem loadRow_keeps {P : State → Prop} (hP : StableMem P) {a0 : Nat} {a1 : Bool} {a2 : BitVec 72} {a3 : Nat} {a4 : Nat} {a5 : Bool} {s : State} (h : P s) :
    (Nxt P) (loadRow a0 a1 a2 a3 a4 a5 s) := by
  unfold loadRow
  with_reducible apply masonRow_keeps hP
  · intro x1 x2 x3
    extract_lets t4 t5 t6
    have h7 : (Snd (P)) t4 := by
      unfold t4
      with_reducible apply State.xr_keeps hP.toStable
      with_reducible assumption
    clear_value t4 t5
    have h8 : P t6 := by
      unfold t6
      with_reducible assumption
    clear_value t6
    split
    · with_reducible apply State.masonFault_keeps hP
      with_reducible assumption
    · extract_lets t9
      have h10 : (Snd (P)) t9 := by
        unfold t9
        with_reducible apply State.dataCheck_keeps hP.toStable
        with_reducible assumption
      clear_value t9
      with_reducible refine keep_ite (fun _ => ?_) (fun _ => ?_)
      · with_reducible apply State.masonPoison_keeps hP.toStable
        with_reducible assumption
      · with_reducible apply State.mNext_keeps hP.toStable
        with_reducible apply State.xw_keeps hP.toStable
        with_reducible assumption
    · extract_lets t11
      have h12 : (Snd (Snd (P))) t11 := by
        unfold t11
        with_reducible apply State.bedRead_keeps hP
        with_reducible assumption
      clear_value t11
      with_reducible refine keep_ite (fun _ => ?_) (fun _ => ?_)
      · with_reducible apply State.masonPoison_keeps hP.toStable
        with_reducible assumption
      · with_reducible apply State.mNext_keeps hP.toStable
        with_reducible apply State.xw_keeps hP.toStable
        with_reducible assumption
    · extract_lets t13
      clear_value t13
      with_reducible apply State.mNext_keeps hP.toStable
      with_reducible apply State.xw_keeps hP.toStable
      with_reducible assumption
  · with_reducible assumption

theorem execLhu_keeps {P : State → Prop} (hP : StableMem P) {a0 : Nat} {a1 : Bool} {a2 : BitVec 72} {s : State} (h : P s) :
    (Nxt P) (execLhu a0 a1 a2 s) := by
  unfold execLhu
  with_reducible apply loadRow_keeps hP
  with_reducible assumption

theorem State.ksReply_keeps {P : State → Prop} (hP : StableMem P) {s : State} {a1 : Msg} {a2 : Nat} {a3 : List (Nat × Nat × Nat)} (h : P s) :
    P (State.ksReply s a1 a2 a3) := by
  unfold State.ksReply
  extract_lets t1 t2 t3 t4 t5
  have h6 : P t1 := by
    unfold t1
    with_reducible apply State.setReg_keeps hP.toStable
    with_reducible assumption
  clear_value t1 t2
  have h7 : P t3 := by
    unfold t3
    with_reducible apply State.h2fAnswer_keeps hP
    with_reducible assumption
  clear_value t3 t4 t5
  with_reducible apply hP.toStable.rest
  with_reducible assumption

theorem State.ksRow_keeps {P : State → Prop} (hP : StableMem P) {s : State} {a1 : Nat} {a2 : Msg → Nat → State → Nat × List (Nat × Nat × Nat) × State} (h : P s) (h2 : ∀ x0 x1 x2, P x2 → (Snd (Snd P)) (a2 x0 x1 x2)) :
    (Nxt P) (State.ksRow s a1 a2) := by
  unfold State.ksRow
  split
  · with_reducible apply done_keeps hP.toStable
    with_reducible assumption
  · with_reducible refine keep_ite (fun _ => ?_) (fun _ => ?_)
    · with_reducible apply done_keeps hP.toStable
      with_reducible assumption
    · extract_lets t1 t2
      clear_value t1
      have h3 : (Snd (Snd (P))) t2 := by
        unfold t2
        with_reducible apply h2
        with_reducible assumption
      clear_value t2
      with_reducible refine keep_ite (fun _ => ?_) (fun _ => ?_)
      · with_reducible apply done_keeps hP.toStable
        with_reducible apply State.ksReply_keeps hP
        with_reducible assumption
      · with_reducible apply done_keeps hP.toStable
        with_reducible apply State.ksReply_keeps hP
        with_reducible assumption

theorem State.refuseObject_keeps {P : State → Prop} (hP : Stable P) {s : State} {a1 : Nat} (h : P s) :
    (Snd (Snd P)) (State.refuseObject s a1) := by
  unfold State.refuseObject
  with_reducible apply keep_pair_snd
  with_reducible apply keep_pair_snd
  with_reducible apply State.err_keeps hP
  with_reducible assumption

theorem State.writeImport_keeps {P : State → Prop} (hP : Stable P) {s : State} {a1 : Nat} {a2 : ImportGrant} (h : P s) :
    P (State.writeImport s a1 a2) := by
  unfold State.writeImport
  with_reducible refine keep_ite (fun _ => ?_) (fun _ => ?_)
  · with_reducible assumption
  · with_reducible refine keep_ite (fun _ => ?_) (fun _ => ?_)
    · with_reducible assumption
    · split
      · with_reducible apply State.err_keeps hP
        with_reducible assumption
      · with_reducible apply State.setReg_keeps hP
        with_reducible assumption

theorem State.importGrant_keeps {P : State → Prop} (hP : Stable P) {s : State} {a1 : List Byte} (h : P s) :
    P (State.importGrant s a1) := by
  unfold State.importGrant
  extract_lets t1 t2 t3 t4 t5 t6 t7 t8
  clear_value t1 t2 t3 t4 t5 t6 t7
  have h9 : P t8 := by
    unfold t8
    with_reducible apply hP.rest
    with_reducible assumption
  clear_value t8
  with_reducible refine keep_ite (fun _ => ?_) (fun _ => ?_)
  · with_reducible apply keep_foldl (Q := P)
    · with_reducible apply hP.rest
      with_reducible assumption
    · intro x10 x11 x12
      with_reducible apply State.writeImport_keeps hP
      with_reducible assumption
  · with_reducible apply keep_foldl (Q := P)
    · with_reducible assumption
    · intro x13 x14 x15
      with_reducible refine keep_ite (fun _ => ?_) (fun _ => ?_)
      · with_reducible assumption
      · with_reducible apply keep_foldl (Q := P)
        · with_reducible assumption
        · intro x16 x17 x18
          with_reducible refine keep_ite (fun _ => ?_) (fun _ => ?_)
          · with_reducible apply State.setReg_keeps hP
            with_reducible assumption
          · with_reducible assumption

theorem State.lockPage_keeps {P : State → Prop} (hP : Stable P) {s : State} {a1 : Nat} {a2 : Nat} {a3 : Nat} (h : P s) :
    P (State.lockPage s a1 a2 a3) := by
  unfold State.lockPage
  extract_lets t1 t2
  clear_value t1 t2
  with_reducible apply State.setF_keeps hP
  with_reducible assumption

theorem State.applyGrant_keeps {P : State → Prop} (hP : Stable P) {s : State} {a1 : List Byte} (h : P s) :
    P (State.applyGrant s a1) := by
  unfold State.applyGrant
  extract_lets t1 t2
  clear_value t1
  have h3 : P t2 := by
    unfold t2
    with_reducible apply State.measure_keeps hP
    with_reducible apply State.setReg_keeps hP
    with_reducible assumption
  clear_value t2
  split
  · with_reducible apply keep_foldl (Q := P)
    · with_reducible assumption
    · intro x4 x5 x6
      with_reducible apply State.setReg_keeps hP
      with_reducible assumption
  · with_reducible apply State.importGrant_keeps hP
    with_reducible assumption
  · with_reducible apply keep_foldl (Q := P)
    · with_reducible assumption
    · intro x7 x8 x9
      with_reducible apply State.lockPage_keeps hP
      with_reducible assumption

theorem State.grantRow_keeps {P : State → Prop} (hP : StableMem P) {s : State} {a1 : Nat} {a2 : Bool} (h : P s) :
    (Nxt P) (State.grantRow s a1 a2) := by
  unfold State.grantRow
  split
  · with_reducible apply done_keeps hP.toStable
    with_reducible assumption
  · extract_lets t1
    clear_value t1
    with_reducible refine keep_ite (fun _ => ?_) (fun _ => ?_)
    · with_reducible apply done_keeps hP.toStable
      with_reducible assumption
    · with_reducible apply State.ksRow_keeps hP
      · with_reducible assumption
      · intro x2 x3 x4 x5
        extract_lets t6 t7 t8 t9
        have h10 : (Snd (Snd (P))) t6 := by
          unfold t6
          with_reducible apply State.readB_keeps hP
          with_reducible assumption
        clear_value t6 t7
        have h11 : P t8 := by
          unfold t8
          with_reducible assumption
        clear_value t8 t9
        with_reducible refine keep_ite (fun _ => ?_) (fun _ => ?_)
        · with_reducible apply State.refuseObject_keeps hP.toStable
          with_reducible assumption
        · with_reducible refine keep_ite (fun _ => ?_) (fun _ => ?_)
          · with_reducible apply State.refuseObject_keeps hP.toStable
            with_reducible assumption
          · with_reducible refine keep_ite (fun _ => ?_) (fun _ => ?_)
            · with_reducible apply State.refuseObject_keeps hP.toStable
              with_reducible assumption
            · with_reducible refine keep_ite (fun _ => ?_) (fun _ => ?_)
              · with_reducible apply State.refuseObject_keeps hP.toStable
                with_reducible assumption
              · with_reducible refine keep_ite (fun _ => ?_) (fun _ => ?_)
                · with_reducible apply State.refuseObject_keeps hP.toStable
                  with_reducible assumption
                · with_reducible apply keep_pair_snd
                  with_reducible apply keep_pair_snd
                  with_reducible apply State.applyGrant_keeps hP.toStable
                  with_reducible assumption

theorem execGrantLock_keeps {P : State → Prop} (hP : StableMem P) {a0 : Bool} {s : State} (h : P s) :
    (Nxt P) (execGrantLock a0 s) := by
  unfold execGrantLock
  with_reducible apply State.grantRow_keeps hP
  with_reducible assumption

theorem branchRow_keeps {P : State → Prop} (hP : StableMem P) {a0 : Nat} {a1 : Bool} {a2 : Nat} {a3 : Nat → Nat → Bool} {s : State} (h : P s) :
    (Nxt P) (branchRow a0 a1 a2 a3 s) := by
  unfold branchRow
  with_reducible apply masonRow_keeps hP
  · intro x1 x2 x3
    extract_lets t4 t5 t6
    have h7 : (Snd (P)) t4 := by
      unfold t4
      with_reducible apply State.xr_keeps hP.toStable
      with_reducible assumption
    clear_value t4
    have h8 : (Snd (P)) t5 := by
      unfold t5
      with_reducible apply State.xr_keeps hP.toStable
      with_reducible assumption
    clear_value t5 t6
    with_reducible refine keep_ite (fun _ => ?_) (fun _ => ?_)
    · with_reducible apply State.mGo_keeps hP.toStable
      with_reducible assumption
    · with_reducible apply State.mNext_keeps hP.toStable
      with_reducible assumption
  · with_reducible assumption

theorem execBltu_keeps {P : State → Prop} (hP : StableMem P) {a0 : Nat} {a1 : Bool} {s : State} (h : P s) :
    (Nxt P) (execBltu a0 a1 s) := by
  unfold execBltu
  with_reducible apply branchRow_keeps hP
  with_reducible assumption

theorem State.engineRow_keeps {P : State → Prop} (hP : StableMem P) {s : State} {a1 : Nat} {a2 : Nat} {a3 : Nat} {a4 : Nat → Bool} {a5 : EIns → State → State} (h : P s) (h5 : ∀ x0 x1, P x1 → P (a5 x0 x1)) :
    P (State.engineRow s a1 a2 a3 a4 a5) := by
  unfold State.engineRow
  split
  · with_reducible assumption
  · extract_lets t1
    have h2 : P t1 := by
      unfold t1
      with_reducible apply State.runTo_keeps hP
      with_reducible assumption
    clear_value t1
    split
    · with_reducible assumption
    · with_reducible refine keep_ite (fun _ => ?_) (fun _ => ?_)
      · with_reducible apply State.engineIllegal_keeps hP.toStable
        with_reducible assumption
      · with_reducible refine keep_ite (fun _ => ?_) (fun _ => ?_)
        · with_reducible apply State.trap_keeps hP
          with_reducible apply h5
          with_reducible assumption
        · with_reducible assumption

theorem State.issue_keeps {P : State → Prop} (hP : Stable P) {s : State} {a1 : Nat} {a2 : Nat} {a3 : Nat} {a4 : Nat} {a5 : List (Nat × Nat)} {a6 : Brick → Bool} {a7 : Job} (h : P s) :
    P (State.issue s a1 a2 a3 a4 a5 a6 a7) := by
  unfold State.issue
  extract_lets t1 t2 t3
  have h4 : P t1 := by
    unfold t1
    with_reducible apply State.parity_keeps hP
    with_reducible apply State.noteWait_keeps hP
    with_reducible assumption
  clear_value t1
  have h5 : (Fst (P)) t2 := by
    unfold t2
    with_reducible apply State.meets_keeps hP
    with_reducible assumption
  clear_value t2 t3
  with_reducible apply State.setBrick_keeps hP
  with_reducible assumption

theorem execTload_keeps {P : State → Prop} (hP : StableMem P) {a0 : Nat} {a1 : Nat} {a2 : List (Nat × Nat)} {s : State} (h : P s) :
    (Nxt P) (execTload a0 a1 a2 s) := by
  unfold execTload
  with_reducible apply done_keeps hP.toStable
  with_reducible apply State.engineRow_keeps hP
  · with_reducible assumption
  · intro x1 x2 x3
    extract_lets t4 t5 t6
    clear_value t4 t5
    have h7 : P t6 := by
      unfold t6
      with_reducible apply State.setBrick_keeps hP.toStable
      with_reducible assumption
    clear_value t6
    with_reducible refine keep_ite (fun _ => ?_) (fun _ => ?_)
    · with_reducible assumption
    · with_reducible apply State.issue_keeps hP.toStable
      with_reducible assumption

theorem aluRow_keeps {P : State → Prop} (hP : StableMem P) {a0 : Nat} {a1 : Bool} {a2 : Nat} {a3 : Nat → Nat → Nat} {a4 : Nat} {s : State} (h : P s) :
    (Nxt P) (aluRow a0 a1 a2 a3 a4 s) := by
  unfold aluRow
  with_reducible apply masonRow_keeps hP
  · intro x1 x2 x3
    extract_lets t4 t5
    have h6 : (Snd (P)) t4 := by
      unfold t4
      with_reducible apply State.xr_keeps hP.toStable
      with_reducible assumption
    clear_value t4
    have h7 : (Snd (P)) t5 := by
      unfold t5
      with_reducible apply State.xr_keeps hP.toStable
      with_reducible assumption
    clear_value t5
    with_reducible apply State.mNext_keeps hP.toStable
    with_reducible apply State.xw_keeps hP.toStable
    with_reducible assumption
  · with_reducible assumption

theorem execAluXor_keeps {P : State → Prop} (hP : StableMem P) {a0 : Nat} {a1 : Bool} {s : State} (h : P s) :
    (Nxt P) (execAluXor a0 a1 s) := by
  unfold execAluXor
  with_reducible apply aluRow_keeps hP
  with_reducible assumption

theorem State.setPartState_keeps {P : State → Prop} (hP : Stable P) {s : State} {a1 : Nat} {a2 : Nat} (h : P s) :
    P (State.setPartState s a1 a2) := by
  unfold State.setPartState
  with_reducible apply State.setF_keeps hP
  with_reducible assumption

theorem State.stopBrick_keeps {P : State → Prop} (hP : Stable P) {s : State} {a1 : Nat} (h : P s) :
    P (State.stopBrick s a1) := by
  unfold State.stopBrick
  with_reducible apply State.brickFreed_keeps hP
  with_reducible apply State.setBrick_keeps hP
  with_reducible assumption

theorem State.stopWalk_keeps {P : State → Prop} (hP : Stable P) {s : State} {a1 : Walk} (h : P s) :
    P (State.stopWalk s a1) := by
  unfold State.stopWalk
  extract_lets t1
  have h2 : P t1 := by
    unfold t1
    with_reducible apply State.dropWalk_keeps hP
    with_reducible assumption
  clear_value t1
  with_reducible apply State.hodFreed_keeps hP
  with_reducible refine keep_ite (fun _ => ?_) (fun _ => ?_)
  · with_reducible assumption
  · with_reducible apply State.setFlag_keeps hP
    with_reducible assumption

theorem State.dropWork_keeps {P : State → Prop} (hP : StableMem P) {s : State} {a1 : Own → Bool} (h : P s) :
    P (State.dropWork s a1) := by
  unfold State.dropWork
  extract_lets t1 t2 t3 t4 t5 t6 t7 t8 t9
  clear_value t1 t2 t3 t4 t5 t6 t7
  have h10 : P t8 := by
    unfold t8
    with_reducible apply hP.toStable.rest
    with_reducible assumption
  clear_value t8
  have h11 : P t9 := by
    unfold t9
    with_reducible apply keep_foldl (Q := P)
    · with_reducible assumption
    · intro x12 x13 x14
      with_reducible apply State.latchesLoad_keeps hP.toStable
      with_reducible apply keep_foldl (Q := P)
      · with_reducible assumption
      · intro x15 x16 x17
        with_reducible apply State.serveHeld_keeps hP
        with_reducible assumption
  clear_value t9
  with_reducible apply State.closeGroups_keeps hP.toStable
  with_reducible assumption

theorem State.haltPart_keeps {P : State → Prop} (hP : StableMem P) {s : State} {a1 : Nat} (h : P s) :
    P (State.haltPart s a1) := by
  unfold State.haltPart
  extract_lets t1 t2 t3 t4 t5 t6 t7 t8 t9 t10 t11 t12 t13
  clear_value t1 t2
  have h14 : P t3 := by
    unfold t3
    with_reducible apply keep_foldl (Q := P)
    · with_reducible assumption
    · intro x15 x16 x17
      with_reducible apply State.stopBrick_keeps hP.toStable
      with_reducible assumption
  clear_value t3
  have h18 : P t4 := by
    unfold t4
    with_reducible apply keep_foldl (Q := P)
    · with_reducible assumption
    · intro x19 x20 x21
      with_reducible apply State.stopWalk_keeps hP.toStable
      with_reducible assumption
  clear_value t4
  have h22 : P t5 := by
    unfold t5
    with_reducible apply State.flushOwn_keeps hP
    with_reducible apply State.dropWork_keeps hP
    with_reducible assumption
  clear_value t5
  have h23 : P t6 := by
    unfold t6
    with_reducible apply keep_foldl (Q := P)
    · with_reducible assumption
    · intro x24 x25 x26
      with_reducible apply State.dropStep_keeps hP
      with_reducible assumption
  clear_value t6 t7
  have h27 : P t8 := by
    unfold t8
    with_reducible apply keep_foldl (Q := P)
    · with_reducible assumption
    · intro x28 x29 x30
      with_reducible apply State.giveWork_keeps hP.toStable
      with_reducible assumption
  clear_value t8 t9
  have h31 : P t10 := by
    unfold t10
    with_reducible apply keep_foldl (Q := P)
    · with_reducible assumption
    · intro x32 x33 x34
      split
      · with_reducible apply State.brickFreed_keeps hP.toStable
        with_reducible assumption
      · with_reducible assumption
  clear_value t10
  have h35 : P t11 := by
    unfold t11
    with_reducible apply keep_foldl (Q := P)
    · with_reducible assumption
    · intro x36 x37 x38
      with_reducible apply State.hodFreed_keeps hP.toStable
      with_reducible assumption
  clear_value t11 t12 t13
  with_reducible apply hP.toStable.rest
  with_reducible assumption

theorem State.zeroWork_keeps {P : State → Prop} (hP : StableMem P) {s : State} {a1 : Nat} (h : P s) :
    P (State.zeroWork s a1) := by
  unfold State.zeroWork
  extract_lets t1
  have h2 : P t1 := by
    unfold t1
    with_reducible apply keep_foldl (Q := P)
    · with_reducible assumption
    · intro x3 x4 x5
      with_reducible apply State.fillZero_keeps hP
      with_reducible assumption
  clear_value t1
  with_reducible apply State.clearExpired_keeps hP.toStable
  with_reducible assumption

theorem State.slotGuard_keeps {P : State → Prop} (hP : Stable P) {s : State} {a1 : Nat} (h : P s) :
    P (State.slotGuard s a1) := by
  unfold State.slotGuard
  extract_lets t1 t2 t3
  clear_value t1
  have h4 : P t2 := by
    unfold t2
    with_reducible apply keep_foldl (Q := P)
    · with_reducible assumption
    · intro x5 x6 x7
      with_reducible apply State.putRegion_keeps hP
      with_reducible assumption
  clear_value t2 t3
  with_reducible apply hP.rest
  with_reducible assumption

theorem State.slotEmpty_keeps {P : State → Prop} (hP : Stable P) {s : State} {a1 : Nat} (h : P s) :
    P (State.slotEmpty s a1) := by
  unfold State.slotEmpty
  with_reducible apply State.journalClose_keeps hP
  with_reducible apply State.setMslot_keeps hP
  with_reducible apply State.slotGuard_keeps hP
  with_reducible assumption

theorem State.clearParams_keeps {P : State → Prop} (hP : Stable P) {s : State} {a1 : Nat} (h : P s) :
    P (State.clearParams s a1) := by
  exact hP.clr h _

theorem State.clearServing_keeps {P : State → Prop} (hP : Stable P) {s : State} {a1 : Nat} (h : P s) :
    P (State.clearServing s a1) := by
  unfold State.clearServing
  extract_lets t1 t2 t3 t4 t5 t6
  have h7 : P t1 := by
    unfold t1
    with_reducible apply keep_foldl (Q := P)
    · with_reducible assumption
    · intro x8 x9 x10
      with_reducible apply State.setSeq_keeps hP
      with_reducible assumption
  clear_value t1
  have h11 : P t2 := by
    unfold t2
    with_reducible apply keep_foldl (Q := P)
    · with_reducible assumption
    · intro x12 x13 x14
      with_reducible apply State.slotEmpty_keeps hP
      with_reducible assumption
  clear_value t2
  have h15 : P t3 := by
    unfold t3
    with_reducible apply keep_foldl (Q := P)
    · with_reducible assumption
    · intro x16 x17 x18
      with_reducible apply State.setAslot_keeps hP
      with_reducible assumption
  clear_value t3
  have h19 : P t4 := by
    unfold t4
    with_reducible apply State.setIndex_keeps hP
    with_reducible apply State.setPool_keeps hP
    with_reducible apply State.setF_keeps hP
    with_reducible assumption
  clear_value t4
  have h20 : P t5 := by
    unfold t5
    with_reducible apply State.setReg_keeps hP
    with_reducible apply State.setReg_keeps hP
    with_reducible apply State.setReg_keeps hP
    with_reducible assumption
  clear_value t5 t6
  with_reducible apply State.clearParams_keeps hP
  with_reducible apply hP.rest
  with_reducible assumption

theorem State.partReset_keeps {P : State → Prop} (hP : StableMem P) {s : State} {a1 : Nat} (h : P s) :
    P (State.partReset s a1) := by
  unfold State.partReset
  with_reducible refine keep_ite (fun _ => ?_) (fun _ => ?_)
  · with_reducible assumption
  · extract_lets t1 t2
    have h3 : P t1 := by
      unfold t1
      with_reducible apply State.haltPart_keeps hP
      with_reducible assumption
    clear_value t1
    have h4 : P t2 := by
      unfold t2
      with_reducible apply keep_foldl (Q := P)
      · with_reducible assumption
      · intro x5 x6 x7
        with_reducible apply State.setF_keeps hP.toStable
        with_reducible apply State.setFlag_keeps hP.toStable
        with_reducible assumption
    clear_value t2
    with_reducible apply State.setPartState_keeps hP.toStable
    with_reducible apply State.zeroWork_keeps hP
    with_reducible apply State.clearServing_keeps hP.toStable
    with_reducible assumption

theorem State.partCreate_keeps {P : State → Prop} (hP : Stable P) {s : State} {a1 : Nat} (h : P s) :
    P (State.partCreate s a1) := by
  unfold State.partCreate
  extract_lets t1
  have h2 : P t1 := by
    unfold t1
    with_reducible apply State.setPartState_keeps hP
    with_reducible apply State.clearParams_keeps hP
    with_reducible assumption
  clear_value t1
  with_reducible refine keep_ite (fun _ => ?_) (fun _ => ?_)
  · with_reducible apply State.measure_keeps hP
    with_reducible assumption
  · with_reducible assumption

theorem State.brickLeaves_keeps {P : State → Prop} (hP : Stable P) {s : State} {a1 : Nat} {a2 : Nat} (h : P s) :
    P (State.brickLeaves s a1 a2) := by
  unfold State.brickLeaves
  with_reducible refine keep_ite (fun _ => ?_) (fun _ => ?_)
  · with_reducible apply hP.rest
    with_reducible assumption
  · split
    · with_reducible apply State.bumpGen_keeps hP
      with_reducible apply hP.rest
      with_reducible assumption
    · with_reducible assumption

theorem State.brickJoins_keeps {P : State → Prop} (hP : Stable P) {s : State} {a1 : Nat} {a2 : Nat} (h : P s) :
    P (State.brickJoins s a1 a2) := by
  unfold State.brickJoins
  extract_lets t1 t2 t3
  clear_value t1
  have h4 : P t2 := by
    unfold t2
    with_reducible apply hP.rest
    with_reducible assumption
  clear_value t2 t3
  split
  · with_reducible assumption
  · extract_lets t5
    clear_value t5
    with_reducible apply State.bumpGen_keeps hP
    with_reducible apply hP.rest
    with_reducible assumption

theorem State.poolSet_keeps {P : State → Prop} (hP : Stable P) {s : State} {a1 : Nat} {a2 : Nat} {a3 : Nat} (h : P s) :
    P (State.poolSet s a1 a2 a3) := by
  unfold State.poolSet
  extract_lets t1 t2 t3 t4 t5 t6 t7 t8
  clear_value t1 t2 t3 t4
  have h9 : P t5 := by
    unfold t5
    with_reducible apply State.setReg_keeps hP
    with_reducible assumption
  clear_value t5 t6 t7
  have h10 : P t8 := by
    unfold t8
    with_reducible apply keep_foldl (Q := P)
    · with_reducible assumption
    · intro x11 x12 x13
      with_reducible apply State.brickLeaves_keeps hP
      with_reducible assumption
  clear_value t8
  with_reducible apply keep_foldl (Q := P)
  · with_reducible assumption
  · intro x14 x15 x16
    with_reducible apply State.brickJoins_keeps hP
    with_reducible assumption

theorem State.hodSet_keeps {P : State → Prop} (hP : Stable P) {s : State} {a1 : Nat} {a2 : Nat} {a3 : Nat} (h : P s) :
    P (State.hodSet s a1 a2 a3) := by
  unfold State.hodSet
  extract_lets t1 t2 t3
  clear_value t1 t2 t3
  with_reducible apply keep_foldl (Q := P)
  · with_reducible apply State.setReg_keeps hP
    with_reducible assumption
  · intro x4 x5 x6
    extract_lets t7 t8 t9
    clear_value t7 t8
    have h10 : P t9 := by
      unfold t9
      with_reducible refine keep_ite (fun _ => ?_) (fun _ => ?_)
      · with_reducible apply hP.rest
        with_reducible assumption
      · with_reducible refine keep_ite (fun _ => ?_) (fun _ => ?_)
        · with_reducible apply hP.rest
          with_reducible assumption
        · with_reducible assumption
    clear_value t9
    with_reducible apply State.bumpGen_keeps hP
    with_reducible assumption

theorem State.clearMeas_keeps {P : State → Prop} (hP : Stable P) {s : State} {a1 : Nat} (h : P s) :
    P (State.clearMeas s a1) := by
  unfold State.clearMeas
  with_reducible apply hP.rest
  with_reducible assumption

theorem State.clearImports_keeps {P : State → Prop} (hP : Stable P) {s : State} {a1 : Nat} (h : P s) :
    P (State.clearImports s a1) := by
  unfold State.clearImports
  extract_lets t1 t2
  have h3 : P t1 := by
    unfold t1
    with_reducible apply keep_foldl (Q := P)
    · with_reducible assumption
    · intro x4 x5 x6
      with_reducible apply keep_foldl (Q := P)
      · with_reducible assumption
      · intro x7 x8 x9
        with_reducible refine keep_ite (fun _ => ?_) (fun _ => ?_)
        · with_reducible apply State.setReg_keeps hP
          with_reducible assumption
        · with_reducible assumption
  clear_value t1 t2
  with_reducible apply hP.rest
  with_reducible assumption

theorem State.clearGrants_keeps {P : State → Prop} (hP : Stable P) {s : State} {a1 : Nat} (h : P s) :
    P (State.clearGrants s a1) := by
  unfold State.clearGrants
  with_reducible apply keep_foldl (Q := P)
  · with_reducible assumption
  · intro x1 x2 x3
    with_reducible apply State.setReg_keeps hP
    with_reducible assumption

theorem State.unbindKey_keeps {P : State → Prop} (hP : Stable P) {s : State} {a1 : Nat} (h : P s) :
    P (State.unbindKey s a1) := by
  unfold State.unbindKey
  with_reducible refine keep_ite (fun _ => ?_) (fun _ => ?_)
  · with_reducible assumption
  · extract_lets t1 t2 t3 t4
    clear_value t1
    have h5 : P t2 := by
      unfold t2
      with_reducible apply State.setBit_keeps hP
      with_reducible apply State.setReg_keeps hP
      with_reducible assumption
    clear_value t2 t3
    have h6 : P t4 := by
      unfold t4
      with_reducible apply hP.rest
      with_reducible assumption
    clear_value t4
    with_reducible refine keep_ite (fun _ => ?_) (fun _ => ?_)
    · with_reducible assumption
    · with_reducible apply keep_foldl (Q := P)
      · with_reducible assumption
      · intro x7 x8 x9
        with_reducible apply State.setReg_keeps hP
        with_reducible assumption

theorem State.partRelease_keeps {P : State → Prop} (hP : Stable P) {s : State} {a1 : Nat} (h : P s) :
    P (State.partRelease s a1) := by
  unfold State.partRelease
  extract_lets t1 t2 t3 t4 t5 t6
  have h7 : P t1 := by
    unfold t1
    with_reducible apply State.clearExpired_keeps hP
    with_reducible assumption
  clear_value t1
  have h8 : P t2 := by
    unfold t2
    with_reducible apply keep_foldl (Q := P)
    · with_reducible assumption
    · intro x9 x10 x11
      with_reducible apply State.poolSet_keeps hP
      with_reducible assumption
  clear_value t2
  have h12 : P t3 := by
    unfold t3
    with_reducible apply keep_foldl (Q := P)
    · with_reducible assumption
    · intro x13 x14 x15
      with_reducible apply State.setReg_keeps hP
      with_reducible assumption
  clear_value t3
  have h16 : P t4 := by
    unfold t4
    with_reducible apply State.hodSet_keeps hP
    with_reducible apply State.hodSet_keeps hP
    with_reducible assumption
  clear_value t4
  have h17 : P t5 := by
    unfold t5
    with_reducible apply keep_foldl (Q := P)
    · with_reducible assumption
    · intro x18 x19 x20
      with_reducible apply State.bentryWrite_keeps hP
      with_reducible assumption
  clear_value t5
  have h21 : P t6 := by
    unfold t6
    with_reducible apply keep_foldl (Q := P)
    · with_reducible assumption
    · intro x22 x23 x24
      with_reducible apply hP.rest
      with_reducible assumption
  clear_value t6
  with_reducible apply State.setPartState_keeps hP
  with_reducible apply State.clearMeas_keeps hP
  with_reducible apply State.clearImports_keeps hP
  with_reducible apply State.setReg_keeps hP
  with_reducible apply State.clearGrants_keeps hP
  with_reducible apply State.unbindKey_keeps hP
  with_reducible assumption

theorem State.prtCmd_keeps {P : State → Prop} (hP : StableMem P) {s : State} {a1 : Nat} {a2 : Nat} {a3 : Bool} (h : P s) :
    P (State.prtCmd s a1 a2 a3) := by
  unfold State.prtCmd
  extract_lets t1
  clear_value t1
  with_reducible refine keep_ite (fun _ => ?_) (fun _ => ?_)
  · with_reducible apply State.partCreate_keeps hP.toStable
    with_reducible assumption
  · with_reducible refine keep_ite (fun _ => ?_) (fun _ => ?_)
    · with_reducible apply State.setPartState_keeps hP.toStable
      with_reducible assumption
    · with_reducible refine keep_ite (fun _ => ?_) (fun _ => ?_)
      · with_reducible apply State.stepsTick_keeps hP
        with_reducible apply State.setPartState_keeps hP.toStable
        with_reducible assumption
      · with_reducible refine keep_ite (fun _ => ?_) (fun _ => ?_)
        · with_reducible apply State.partRelease_keeps hP.toStable
          with_reducible assumption
        · with_reducible apply State.setFlag_keeps hP.toStable
          with_reducible assumption

theorem State.modeWrite_keeps {P : State → Prop} (hP : Stable P) {s : State} {a1 : Nat} {a2 : Nat} (h : P s) :
    P (State.modeWrite s a1 a2) := by
  unfold State.modeWrite
  with_reducible refine keep_ite (fun _ => ?_) (fun _ => ?_)
  · with_reducible apply State.setF_keeps hP
    with_reducible assumption
  · with_reducible assumption

theorem State.poolAssign_keeps {P : State → Prop} (hP : Stable P) {s : State} {a1 : Nat} {a2 : Nat} {a3 : Nat} (h : P s) :
    P (State.poolAssign s a1 a2 a3) := by
  unfold State.poolAssign
  extract_lets t1
  have h2 : P t1 := by
    unfold t1
    with_reducible apply State.setReg_keeps hP
    with_reducible assumption
  clear_value t1
  with_reducible refine keep_ite (fun _ => ?_) (fun _ => ?_)
  · with_reducible apply State.err_keeps hP
    with_reducible assumption
  · with_reducible apply State.poolSet_keeps hP
    with_reducible assumption

theorem State.bgrpAssign_keeps {P : State → Prop} (hP : Stable P) {s : State} {a1 : Nat} {a2 : Nat} {a3 : Nat} (h : P s) :
    P (State.bgrpAssign s a1 a2 a3) := by
  unfold State.bgrpAssign
  extract_lets t1 t2 t3
  clear_value t1 t2
  have h4 : P t3 := by
    unfold t3
    with_reducible apply State.setReg_keeps hP
    with_reducible assumption
  clear_value t3
  with_reducible refine keep_ite (fun _ => ?_) (fun _ => ?_)
  · with_reducible apply State.err_keeps hP
    with_reducible assumption
  · with_reducible assumption

theorem State.hodAssign_keeps {P : State → Prop} (hP : Stable P) {s : State} {a1 : Nat} {a2 : Nat} {a3 : Nat} (h : P s) :
    P (State.hodAssign s a1 a2 a3) := by
  unfold State.hodAssign
  extract_lets t1 t2
  clear_value t1
  have h3 : P t2 := by
    unfold t2
    with_reducible apply State.setReg_keeps hP
    with_reducible assumption
  clear_value t2
  with_reducible refine keep_ite (fun _ => ?_) (fun _ => ?_)
  · with_reducible apply State.err_keeps hP
    with_reducible assumption
  · with_reducible apply State.hodSet_keeps hP
    with_reducible assumption

theorem State.linkDisable_keeps {P : State → Prop} (hP : StableMem P) {s : State} {a1 : Nat} {a2 : Bool} (h : P s) :
    P (State.linkDisable s a1 a2) := by
  unfold State.linkDisable
  extract_lets t1
  have h2 : P t1 := by
    unfold t1
    with_reducible apply State.setFlag_keeps hP.toStable
    with_reducible assumption
  clear_value t1
  with_reducible refine keep_ite (fun _ => ?_) (fun _ => ?_)
  · with_reducible apply State.setF_keeps hP.toStable
    with_reducible apply State.linkDown_keeps hP
    with_reducible assumption
  · with_reducible refine keep_ite (fun _ => ?_) (fun _ => ?_)
    · with_reducible apply State.setF_keeps hP.toStable
      with_reducible assumption
    · with_reducible assumption

theorem State.retrain_keeps {P : State → Prop} (hP : Stable P) {s : State} {a1 : Nat} (h : P s) :
    P (State.retrain s a1) := by
  unfold State.retrain
  with_reducible refine keep_ite (fun _ => ?_) (fun _ => ?_)
  · with_reducible assumption
  · with_reducible apply State.err_keeps hP
    with_reducible apply State.bump_keeps hP
    with_reducible apply State.setQlink_keeps hP
    with_reducible assumption

theorem State.laneSpare_keeps {P : State → Prop} (hP : Stable P) {s : State} {a1 : Nat} {a2 : Nat} {a3 : Nat} (h : P s) :
    P (State.laneSpare s a1 a2 a3) := by
  unfold State.laneSpare
  extract_lets t1 t2 t3 t4 t5 t6 t7 t8 t9 t10 t11
  clear_value t1 t2 t3 t4 t5 t6
  have h12 : P t7 := by
    unfold t7
    with_reducible apply State.setF_keeps hP
    with_reducible assumption
  clear_value t7
  have h13 : P t8 := by
    unfold t8
    with_reducible apply State.setQlink_keeps hP
    with_reducible assumption
  clear_value t8 t9
  have h14 : P t10 := by
    unfold t10
    with_reducible apply keep_foldl (Q := P)
    · with_reducible assumption
    · intro x15 x16 x17
      with_reducible apply State.setF_keeps hP
      with_reducible assumption
  clear_value t10
  have h18 : P t11 := by
    unfold t11
    with_reducible apply State.err_keeps hP
    with_reducible apply State.setFlag_keeps hP
    with_reducible assumption
  clear_value t11
  with_reducible refine keep_ite (fun _ => ?_) (fun _ => ?_)
  · with_reducible assumption
  · with_reducible refine keep_ite (fun _ => ?_) (fun _ => ?_)
    · with_reducible apply State.err_keeps hP
      with_reducible apply State.setFlag_keeps hP
      with_reducible assumption
    · with_reducible refine keep_ite (fun _ => ?_) (fun _ => ?_)
      · with_reducible apply State.retrain_keeps hP
        with_reducible apply State.setFlag_keeps hP
        with_reducible assumption
      · with_reducible assumption

theorem execAluAnd_keeps {P : State → Prop} (hP : StableMem P) {a0 : Nat} {a1 : Bool} {s : State} (h : P s) :
    (Nxt P) (execAluAnd a0 a1 s) := by
  unfold execAluAnd
  with_reducible apply aluRow_keeps hP
  with_reducible assumption

theorem execLaneDrop_keeps {P : State → Prop} (hP : StableMem P) {a0 : Nat} {a1 : Nat} {a2 : Nat} {a3 : Bool} {s : State} (h : P s) :
    (Nxt P) (execLaneDrop a0 a1 a2 a3 s) := by
  unfold execLaneDrop
  with_reducible refine keep_ite (fun _ => ?_) (fun _ => ?_)
  · with_reducible apply done_keeps hP.toStable
    with_reducible assumption
  · with_reducible refine keep_ite (fun _ => ?_) (fun _ => ?_)
    · with_reducible apply done_keeps hP.toStable
      with_reducible apply State.linkDown_keeps hP
      with_reducible assumption
    · with_reducible refine keep_ite (fun _ => ?_) (fun _ => ?_)
      · with_reducible apply done_keeps hP.toStable
        with_reducible assumption
      · with_reducible apply done_keeps hP.toStable
        with_reducible apply State.retrain_keeps hP.toStable
        with_reducible apply State.err_keeps hP.toStable
        with_reducible apply State.setF_keeps hP.toStable
        with_reducible apply State.setF_keeps hP.toStable
        with_reducible assumption

theorem State.kxSet_keeps {P : State → Prop} (hP : Stable P) {s : State} {a1 : Nat} {a2 : Nat} (h : P s) :
    P (State.kxSet s a1 a2) := by
  unfold State.kxSet
  with_reducible apply State.setQlink_keeps hP
  with_reducible assumption

theorem State.sendKx_keeps {P : State → Prop} (hP : Stable P) {s : State} {a1 : Nat} {a2 : String} {a3 : Nat} (h : P s) :
    P (State.sendKx s a1 a2 a3) := by
  unfold State.sendKx
  with_reducible refine keep_ite (fun _ => ?_) (fun _ => ?_)
  · with_reducible apply State.linkGo_keeps hP
    with_reducible apply State.setQlink_keeps hP
    with_reducible assumption
  · with_reducible apply State.emit_keeps hP
    with_reducible apply keep_foldl (Q := P)
    · with_reducible assumption
    · intro x1 x2 x3
      with_reducible apply State.sendFrame_keeps hP
      with_reducible assumption

theorem State.kxBegin_keeps {P : State → Prop} (hP : Stable P) {s : State} {a1 : Nat} (h : P s) :
    P (State.kxBegin s a1) := by
  unfold State.kxBegin
  with_reducible refine keep_ite (fun _ => ?_) (fun _ => ?_)
  · with_reducible apply State.kxSet_keeps hP
    with_reducible apply State.sendKx_keeps hP
    with_reducible assumption
  · with_reducible assumption

theorem State.rekey_keeps {P : State → Prop} (hP : Stable P) {s : State} {a1 : Nat} (h : P s) :
    P (State.rekey s a1) := by
  unfold State.rekey
  extract_lets t1 t2
  clear_value t1
  have h3 : P t2 := by
    unfold t2
    with_reducible apply State.setQlink_keeps hP
    with_reducible apply State.setFlag_keeps hP
    with_reducible assumption
  clear_value t2
  with_reducible apply State.kxBegin_keeps hP
  with_reducible assumption

theorem State.linkWakes_keeps {P : State → Prop} (hP : Stable P) {s : State} {a1 : Nat} (h : P s) :
    P (State.linkWakes s a1) := by
  unfold State.linkWakes
  with_reducible apply State.linkGo_keeps hP
  with_reducible refine keep_ite (fun _ => ?_) (fun _ => ?_)
  · with_reducible apply State.rekey_keeps hP
    with_reducible assumption
  · with_reducible assumption

theorem State.kxSwitch_keeps {P : State → Prop} (hP : Stable P) {s : State} {a1 : Nat} (h : P s) :
    P (State.kxSwitch s a1) := by
  unfold State.kxSwitch
  extract_lets t1 t2
  clear_value t1
  have h3 : P t2 := by
    unfold t2
    with_reducible apply State.setQlink_keeps hP
    with_reducible assumption
  clear_value t2
  with_reducible apply State.setFlag_keeps hP
  with_reducible apply State.setF_keeps hP
  with_reducible assumption

theorem execKxDone_keeps {P : State → Prop} (hP : StableMem P) {a0 : Nat} {s : State} (h : P s) :
    (Nxt P) (execKxDone a0 s) := by
  unfold execKxDone
  with_reducible refine keep_ite (fun _ => ?_) (fun _ => ?_)
  · with_reducible apply done_keeps hP.toStable
    with_reducible assumption
  · extract_lets t1 t2 t3 t4
    clear_value t1
    have h5 : P t3 := by
      unfold t3
      with_reducible apply State.setF_keeps hP.toStable
      with_reducible apply State.setQlink_keeps hP.toStable
      with_reducible assumption
    clear_value t3
    have h6 : P t4 := by
      unfold t4
      with_reducible apply State.setUnit_keeps hP.toStable
      with_reducible apply State.setFlag_keeps hP.toStable
      with_reducible apply State.setFlag_keeps hP.toStable
      with_reducible assumption
    clear_value t4
    with_reducible refine keep_ite (fun _ => ?_) (fun _ => ?_)
    · with_reducible apply done_keeps hP.toStable
      with_reducible apply State.goHeld_keeps hP
      with_reducible apply State.linkGo_keeps hP.toStable
      with_reducible apply keep_foldl (Q := P)
      · with_reducible assumption
      · intro x7 x8 x9
        with_reducible apply State.writeImport_keeps hP.toStable
        with_reducible assumption
    · with_reducible apply done_keeps hP.toStable
      with_reducible apply State.kxSwitch_keeps hP.toStable
      with_reducible assumption

theorem State.resend_keeps {P : State → Prop} (hP : Stable P) {s : State} {a1 : Nat} (h : P s) :
    P (State.resend s a1) := by
  unfold State.resend
  extract_lets t1 t2
  clear_value t1
  have h3 : P t2 := by
    unfold t2
    with_reducible apply State.bump_keeps hP
    with_reducible apply keep_foldl (Q := P)
    · with_reducible assumption
    · intro x4 x5 x6
      with_reducible apply State.emit_keeps hP
      with_reducible assumption
  clear_value t2
  with_reducible refine keep_ite (fun _ => ?_) (fun _ => ?_)
  · with_reducible apply State.setPair_keeps hP
    with_reducible assumption
  · with_reducible assumption

theorem execNakFrame_keeps {P : State → Prop} (hP : Stable P) {a0 : Nat} {a1 : Nat} {s : State} (h : P s) :
    (Nxt P) (execNakFrame a0 a1 s) := by
  unfold execNakFrame
  extract_lets t1 t2 t3 t4 t5
  clear_value t1 t2 t4
  have h6 : P t5 := by
    unfold t5
    with_reducible apply State.bump_keeps hP
    with_reducible apply State.setQlink_keeps hP
    with_reducible assumption
  clear_value t5
  with_reducible refine keep_ite (fun _ => ?_) (fun _ => ?_)
  · with_reducible apply done_keeps hP
    with_reducible assumption
  · with_reducible refine keep_ite (fun _ => ?_) (fun _ => ?_)
    · with_reducible apply done_keeps hP
      with_reducible apply State.bump_keeps hP
      with_reducible assumption
    · with_reducible refine keep_ite (fun _ => ?_) (fun _ => ?_)
      · with_reducible apply done_keeps hP
        with_reducible apply State.retrain_keeps hP
        with_reducible assumption
      · with_reducible apply done_keeps hP
        with_reducible apply State.resend_keeps hP
        with_reducible assumption

theorem execLh_keeps {P : State → Prop} (hP : StableMem P) {a0 : Nat} {a1 : Bool} {a2 : BitVec 72} {s : State} (h : P s) :
    (Nxt P) (execLh a0 a1 a2 s) := by
  unfold execLh
  with_reducible apply loadRow_keeps hP
  with_reducible assumption

theorem State.railsRise_keeps {P : State → Prop} (hP : Stable P) {s : State} (h : P s) :
    P (State.railsRise s) := by
  unfold State.railsRise
  extract_lets t1 t2 t3
  clear_value t1
  have h4 : P t2 := by
    unfold t2
    with_reducible apply State.setPw_keeps hP
    with_reducible assumption
  clear_value t2
  unfold t3
  with_reducible apply hP.dev
  with_reducible assumption

theorem execPowerUp_keeps {P : State → Prop} (hP : Stable P) {a0 : Nat} {a1 : Nat} {a2 : Nat} {s : State} (h : P s) :
    (Nxt P) (execPowerUp a0 a1 a2 s) := by
  unfold execPowerUp
  with_reducible refine keep_ite (fun _ => ?_) (fun _ => ?_)
  · extract_lets t1 t2 t3 t4
    clear_value t1
    have h5 : P t2 := by
      unfold t2
      with_reducible apply State.senseInput_keeps hP
      with_reducible apply hP.rest
      with_reducible assumption
    clear_value t2 t3
    have h6 : P t4 := by
      unfold t4
      with_reducible apply State.setPw_keeps hP
      with_reducible assumption
    clear_value t4
    with_reducible refine keep_ite (fun _ => ?_) (fun _ => ?_)
    · with_reducible apply done_keeps hP
      with_reducible refine keep_ite (fun _ => ?_) (fun _ => ?_)
      · with_reducible apply State.railsRise_keeps hP
        with_reducible assumption
      · with_reducible assumption
    · with_reducible apply done_keeps hP
      with_reducible assumption
  · with_reducible apply done_keeps hP
    with_reducible assumption

theorem execCoolantHoldRelease_keeps {P : State → Prop} (hP : Stable P) {a0 : Nat} {a1 : Nat} {s : State} (h : P s) :
    (Nxt P) (execCoolantHoldRelease a0 a1 s) := by
  unfold execCoolantHoldRelease
  with_reducible refine keep_ite (fun _ => ?_) (fun _ => ?_)
  · with_reducible apply done_keeps hP
    with_reducible apply State.railsRise_keeps hP
    with_reducible apply State.senseInput_keeps hP
    with_reducible assumption
  · with_reducible apply done_keeps hP
    with_reducible assumption

theorem State.volatileLost_keeps {P : State → Prop} (hP : StableMem P) {s : State} (h : P s) :
    P (State.volatileLost s) := by
  exact hP.dev (keep_wipeAll hP h) _ _ _ _ _ _ _ _ _ _ _ _ _ _ _ _ _ _ _ _ _ _ _ _ _ _ _ _ _

theorem State.shutdown_keeps {P : State → Prop} (hP : StableMem P) {s : State} {a1 : Nat} (h : P s) :
    P (State.shutdown s a1) := by
  unfold State.shutdown
  with_reducible apply State.setPw_keeps hP.toStable
  with_reducible apply State.volatileLost_keeps hP
  with_reducible assumption

theorem execInputLossShutdown_keeps {P : State → Prop} (hP : StableMem P) {a0 : Nat} {a1 : Nat} {s : State} (h : P s) :
    (Nxt P) (execInputLossShutdown a0 a1 s) := by
  unfold execInputLossShutdown
  with_reducible refine keep_ite (fun _ => ?_) (fun _ => ?_)
  · with_reducible apply done_keeps hP.toStable
    with_reducible apply State.shutdown_keeps hP
    with_reducible apply State.setPw_keeps hP.toStable
    with_reducible assumption
  · with_reducible apply done_keeps hP.toStable
    with_reducible assumption

theorem execOvervoltageShutdown_keeps {P : State → Prop} (hP : StableMem P) {a0 : Nat} {a1 : Nat} {s : State} (h : P s) :
    (Nxt P) (execOvervoltageShutdown a0 a1 s) := by
  unfold execOvervoltageShutdown
  with_reducible refine keep_ite (fun _ => ?_) (fun _ => ?_)
  · with_reducible apply done_keeps hP.toStable
    with_reducible apply State.shutdown_keeps hP
    with_reducible apply State.setPw_keeps hP.toStable
    with_reducible assumption
  · with_reducible apply done_keeps hP.toStable
    with_reducible assumption

theorem execInputPowerSample_keeps {P : State → Prop} (hP : Stable P) {a0 : Nat} {a1 : Nat} {a2 : Nat} {a3 : Nat} {a4 : Nat} {a5 : Nat} {s : State} (h : P s) :
    (Nxt P) (execInputPowerSample a0 a1 a2 a3 a4 a5 s) := by
  unfold execInputPowerSample
  with_reducible refine keep_ite (fun _ => ?_) (fun _ => ?_)
  · extract_lets t1 t2 t3
    have h4 : P t1 := by
      unfold t1
      with_reducible apply State.senseInput_keeps hP
      with_reducible apply State.at_keeps hP
      with_reducible assumption
    clear_value t1 t2
    have h5 : P t3 := by
      unfold t3
      with_reducible apply State.note_keeps hP
      with_reducible apply State.setPw_keeps hP
      with_reducible assumption
    clear_value t3
    with_reducible apply done_keeps hP
    with_reducible refine keep_ite (fun _ => ?_) (fun _ => ?_)
    · with_reducible apply State.clampOn_keeps hP
      with_reducible assumption
    · with_reducible assumption
  · with_reducible apply done_keeps hP
    with_reducible assumption

theorem execPowerLimitShutdown_keeps {P : State → Prop} (hP : StableMem P) {a0 : Nat} {s : State} (h : P s) :
    (Nxt P) (execPowerLimitShutdown a0 s) := by
  unfold execPowerLimitShutdown
  with_reducible refine keep_ite (fun _ => ?_) (fun _ => ?_)
  · with_reducible apply done_keeps hP.toStable
    with_reducible apply State.shutdown_keeps hP
    with_reducible apply State.setPw_keeps hP.toStable
    with_reducible assumption
  · with_reducible apply done_keeps hP.toStable
    with_reducible assumption

theorem execCoolantShutdown_keeps {P : State → Prop} (hP : StableMem P) {a0 : Nat} {a1 : Nat} {a2 : Nat} {s : State} (h : P s) :
    (Nxt P) (execCoolantShutdown a0 a1 a2 s) := by
  unfold execCoolantShutdown
  with_reducible refine keep_ite (fun _ => ?_) (fun _ => ?_)
  · with_reducible apply done_keeps hP.toStable
    with_reducible apply State.shutdown_keeps hP
    with_reducible apply State.senseInput_keeps hP.toStable
    with_reducible assumption
  · with_reducible apply done_keeps hP.toStable
    with_reducible assumption

theorem execVinPrsntOpen_keeps {P : State → Prop} (hP : StableMem P) {s : State} (h : P s) :
    (Nxt P) (execVinPrsntOpen s) := by
  unfold execVinPrsntOpen
  extract_lets t1 t2
  clear_value t1
  have h3 : P t2 := by
    unfold t2
    with_reducible apply State.setPw_keeps hP.toStable
    with_reducible assumption
  clear_value t2
  with_reducible apply done_keeps hP.toStable
  with_reducible refine keep_ite (fun _ => ?_) (fun _ => ?_)
  · with_reducible apply State.shutdown_keeps hP
    with_reducible assumption
  · with_reducible assumption

theorem execEmergOff_keeps {P : State → Prop} (hP : StableMem P) {a0 : Nat} {s : State} (h : P s) :
    (Nxt P) (execEmergOff a0 s) := by
  unfold execEmergOff
  with_reducible refine keep_ite (fun _ => ?_) (fun _ => ?_)
  · with_reducible apply done_keeps hP.toStable
    with_reducible apply State.shutdown_keeps hP
    with_reducible assumption
  · with_reducible apply done_keeps hP.toStable
    with_reducible assumption

theorem execPwrEnFall_keeps {P : State → Prop} (hP : StableMem P) {s : State} (h : P s) :
    (Nxt P) (execPwrEnFall s) := by
  unfold execPwrEnFall
  extract_lets t1 t2
  clear_value t1 t2
  with_reducible refine keep_ite (fun _ => ?_) (fun _ => ?_)
  · with_reducible apply done_keeps hP.toStable
    with_reducible apply State.setPw_keeps hP.toStable
    with_reducible apply State.volatileLost_keeps hP
    with_reducible assumption
  · with_reducible apply done_keeps hP.toStable
    with_reducible apply State.setPw_keeps hP.toStable
    with_reducible assumption

theorem State.coldReset_keeps {P : State → Prop} (hP : StableMem P) {s : State} (h : P s) :
    P (State.coldReset s) := by
  unfold State.coldReset
  extract_lets t1 t2
  have h3 : P t1 := by
    unfold t1
    with_reducible apply State.volatileLost_keeps hP
    with_reducible assumption
  clear_value t1
  unfold t2
  with_reducible apply hP.toStable.dev
  with_reducible assumption

theorem execColdReset_keeps {P : State → Prop} (hP : StableMem P) {a0 : Bool} {a1 : Nat} {s : State} (h : P s) :
    (Nxt P) (execColdReset a0 a1 s) := by
  unfold execColdReset
  with_reducible refine keep_ite (fun _ => ?_) (fun _ => ?_)
  · with_reducible apply done_keeps hP.toStable
    with_reducible apply State.setPw_keeps hP.toStable
    with_reducible apply State.coldReset_keeps hP
    with_reducible assumption
  · with_reducible apply done_keeps hP.toStable
    with_reducible assumption

theorem execReferenceLost_keeps {P : State → Prop} (hP : StableMem P) {a0 : Bool} {a1 : Nat} {a2 : Nat} {s : State} (h : P s) :
    (Nxt P) (execReferenceLost a0 a1 a2 s) := by
  unfold execReferenceLost
  with_reducible refine keep_ite (fun _ => ?_) (fun _ => ?_)
  · with_reducible apply done_keeps hP.toStable
    with_reducible apply State.shutdown_keeps hP
    with_reducible assumption
  · with_reducible apply done_keeps hP.toStable
    with_reducible assumption

theorem State.connDown_keeps {P : State → Prop} (hP : StableMem P) {s : State} {a1 : Nat} {a2 : Nat} (h : P s) :
    P (State.connDown s a1 a2) := by
  unfold State.connDown
  extract_lets t1 t2
  clear_value t1
  have h3 : P t2 := by
    unfold t2
    with_reducible apply keep_foldl (Q := P)
    · with_reducible assumption
    · intro x4 x5 x6
      with_reducible apply State.setF_keeps hP.toStable
      with_reducible assumption
  clear_value t2
  with_reducible apply keep_foldl (Q := P)
  · with_reducible assumption
  · intro x7 x8 x9
    with_reducible apply State.linkDown_keeps hP
    with_reducible assumption

theorem State.setCable_keeps {P : State → Prop} (hP : Stable P) {s : State} {a1 : Nat} {a2 : Cable} (h : P s) :
    P (State.setCable s a1 a2) := by
  unfold State.setCable
  extract_lets t1 t2
  clear_value t1
  have h3 : P t2 := by
    unfold t2
    with_reducible apply State.setPw_keeps hP
    with_reducible assumption
  clear_value t2
  with_reducible apply keep_foldl (Q := P)
  · with_reducible assumption
  · intro x4 x5 x6
    with_reducible apply State.setFlag_keeps hP
    with_reducible assumption

theorem execCableSupplyTrip_keeps {P : State → Prop} (hP : StableMem P) {a0 : Nat} {a1 : Nat} {a2 : Nat} {s : State} (h : P s) :
    (Nxt P) (execCableSupplyTrip a0 a1 a2 s) := by
  unfold execCableSupplyTrip
  with_reducible refine keep_ite (fun _ => ?_) (fun _ => ?_)
  · with_reducible apply done_keeps hP.toStable
    with_reducible apply State.connDown_keeps hP
    with_reducible apply State.setCable_keeps hP.toStable
    with_reducible assumption
  · with_reducible apply done_keeps hP.toStable
    with_reducible assumption

theorem execCableInsert_keeps {P : State → Prop} (hP : Stable P) {a0 : Nat} {s : State} (h : P s) :
    (Nxt P) (execCableInsert a0 s) := by
  unfold execCableInsert
  with_reducible refine keep_ite (fun _ => ?_) (fun _ => ?_)
  · extract_lets t1 t2
    have h3 : P t1 := by
      unfold t1
      with_reducible apply State.setCable_keeps hP
      with_reducible assumption
    clear_value t1 t2
    with_reducible apply done_keeps hP
    with_reducible apply State.readCables_keeps hP
    with_reducible apply hP.rest
    with_reducible assumption
  · with_reducible apply done_keeps hP
    with_reducible assumption

theorem execCableRemove_keeps {P : State → Prop} (hP : StableMem P) {a0 : Nat} {s : State} (h : P s) :
    (Nxt P) (execCableRemove a0 s) := by
  unfold execCableRemove
  with_reducible refine keep_ite (fun _ => ?_) (fun _ => ?_)
  · with_reducible apply done_keeps hP.toStable
    with_reducible assumption
  · extract_lets t1 t2
    have h3 : P t1 := by
      unfold t1
      with_reducible apply State.setCable_keeps hP.toStable
      with_reducible assumption
    clear_value t1 t2
    with_reducible apply done_keeps hP.toStable
    with_reducible apply State.connDown_keeps hP
    with_reducible apply hP.toStable.rest
    with_reducible assumption

theorem execPowerStatusRead_keeps {P : State → Prop} (hP : Stable P) {a0 : Nat} {a1 : Nat} {s : State} (h : P s) :
    (Nxt P) (execPowerStatusRead a0 a1 s) := by
  unfold execPowerStatusRead
  with_reducible refine keep_ite (fun _ => ?_) (fun _ => ?_)
  · with_reducible apply done_keeps hP
    with_reducible apply State.emit_keeps hP
    with_reducible apply hP.rest
    with_reducible assumption
  · with_reducible apply done_keeps hP
    with_reducible assumption

theorem execTapInstruction_keeps {P : State → Prop} (hP : Stable P) {a0 : Bool} {s : State} (h : P s) :
    (Nxt P) (execTapInstruction a0 s) := by
  unfold execTapInstruction
  with_reducible refine keep_ite (fun _ => ?_) (fun _ => ?_)
  · with_reducible apply done_keeps hP
    with_reducible assumption
  · with_reducible refine keep_ite (fun _ => ?_) (fun _ => ?_)
    · with_reducible apply done_keeps hP
      with_reducible apply State.emit_keeps hP
      with_reducible assumption
    · with_reducible refine keep_ite (fun _ => ?_) (fun _ => ?_)
      · with_reducible apply keep_refused
      · with_reducible apply done_keeps hP
        with_reducible apply State.emit_keeps hP
        with_reducible assumption

theorem execTmul_keeps {P : State → Prop} (hP : StableMem P) {a0 : Nat} {a1 : Nat} {a2 : List (Nat × Nat)} {s : State} (h : P s) :
    (Nxt P) (execTmul a0 a1 a2 s) := by
  unfold execTmul
  with_reducible apply done_keeps hP.toStable
  with_reducible apply State.engineRow_keeps hP
  · with_reducible assumption
  · intro x1 x2 x3
    extract_lets t4 t5 t6 t7 t8 t9 t10 t11 t12
    clear_value t4 t5 t6 t7 t8 t9 t10 t11 t12
    with_reducible refine keep_ite (fun _ => ?_) (fun _ => ?_)
    · with_reducible apply State.engineIllegal_keeps hP.toStable
      with_reducible assumption
    · split
      · with_reducible assumption
      · with_reducible refine keep_ite (fun _ => ?_) (fun _ => ?_)
        · with_reducible apply State.engineIllegal_keeps hP.toStable
          with_reducible assumption
        · extract_lets t13 t14
          clear_value t13
          have h15 : P t14 := by
            unfold t14
            with_reducible apply State.setBrick_keeps hP.toStable
            with_reducible assumption
          clear_value t14
          with_reducible refine keep_ite (fun _ => ?_) (fun _ => ?_)
          · with_reducible assumption
          · with_reducible apply State.issue_keeps hP.toStable
            with_reducible assumption

theorem execMvld_keeps {P : State → Prop} (hP : StableMem P) {a0 : Nat} {a1 : Nat} {a2 : List (Nat × Nat)} {s : State} (h : P s) :
    (Nxt P) (execMvld a0 a1 a2 s) := by
  unfold execMvld
  with_reducible apply done_keeps hP.toStable
  with_reducible apply State.engineRow_keeps hP
  · with_reducible assumption
  · intro x1 x2 x3
    extract_lets t4 t5
    clear_value t4 t5
    with_reducible refine keep_ite (fun _ => ?_) (fun _ => ?_)
    · with_reducible assumption
    · with_reducible apply State.issue_keeps hP.toStable
      with_reducible apply State.setBrick_keeps hP.toStable
      with_reducible assumption

theorem execMvcfg_keeps {P : State → Prop} (hP : StableMem P) {a0 : Nat} {a1 : Nat} {s : State} (h : P s) :
    (Nxt P) (execMvcfg a0 a1 s) := by
  unfold execMvcfg
  with_reducible apply done_keeps hP.toStable
  with_reducible apply State.engineRow_keeps hP
  · with_reducible assumption
  · intro x1 x2 x3
    extract_lets t4 t5
    clear_value t4 t5
    with_reducible refine keep_ite (fun _ => ?_) (fun _ => ?_)
    · with_reducible assumption
    · with_reducible apply State.setBrick_keeps hP.toStable
      with_reducible apply State.noteWait_keeps hP.toStable
      with_reducible assumption

theorem execMvmul_keeps {P : State → Prop} (hP : StableMem P) {a0 : Nat} {a1 : Nat} {a2 : List (Nat × Nat)} {s : State} (h : P s) :
    (Nxt P) (execMvmul a0 a1 a2 s) := by
  unfold execMvmul
  with_reducible apply done_keeps hP.toStable
  with_reducible apply State.engineRow_keeps hP
  · with_reducible assumption
  · intro x1 x2 x3
    extract_lets t4 t5 t6 t7 t8 t9 t10 t11
    clear_value t4 t5 t6 t7 t8 t9 t10 t11
    with_reducible refine keep_ite (fun _ => ?_) (fun _ => ?_)
    · with_reducible apply State.engineIllegal_keeps hP.toStable
      with_reducible assumption
    · split
      · with_reducible assumption
      · with_reducible refine keep_ite (fun _ => ?_) (fun _ => ?_)
        · with_reducible apply State.engineIllegal_keeps hP.toStable
          with_reducible assumption
        · extract_lets t12 t13
          clear_value t12
          have h14 : P t13 := by
            unfold t13
            with_reducible apply State.setBrick_keeps hP.toStable
            with_reducible assumption
          clear_value t13
          with_reducible refine keep_ite (fun _ => ?_) (fun _ => ?_)
          · with_reducible assumption
          · with_reducible apply State.issue_keeps hP.toStable
            with_reducible assumption

theorem State.vop_keeps {P : State → Prop} (hP : StableMem P) {s : State} {a1 : Nat} {a2 : Nat} {a3 : Nat} {a4 : List (Nat × Nat)} (h : P s) :
    P (State.vop s a1 a2 a3 a4) := by
  unfold State.vop
  with_reducible apply State.engineRow_keeps hP
  · with_reducible assumption
  · intro x1 x2 x3
    extract_lets t4 t5 t6 t7 t8 t9 t10 t11 t12
    clear_value t4 t5 t6 t7 t8 t10 t11 t12
    with_reducible refine keep_ite (fun _ => ?_) (fun _ => ?_)
    · with_reducible apply State.engineIllegal_keeps hP.toStable
      with_reducible assumption
    · split
      · with_reducible refine keep_ite (fun _ => ?_) (fun _ => ?_)
        · with_reducible apply State.engineIllegal_keeps hP.toStable
          with_reducible assumption
        · extract_lets t13
          clear_value t13
          with_reducible refine keep_ite (fun _ => ?_) (fun _ => ?_)
          · with_reducible assumption
          · with_reducible apply State.issue_keeps hP.toStable
            with_reducible apply State.setBrick_keeps hP.toStable
            with_reducible assumption
      · with_reducible assumption

theorem execVopCopy_keeps {P : State → Prop} (hP : StableMem P) {a0 : Nat} {a1 : Nat} {a2 : List (Nat × Nat)} {s : State} (h : P s) :
    (Nxt P) (execVopCopy a0 a1 a2 s) := by
  unfold execVopCopy
  with_reducible apply done_keeps hP.toStable
  with_reducible apply State.vop_keeps hP
  with_reducible assumption

theorem execVopAdd_keeps {P : State → Prop} (hP : StableMem P) {a0 : Nat} {a1 : Nat} {a2 : List (Nat × Nat)} {s : State} (h : P s) :
    (Nxt P) (execVopAdd a0 a1 a2 s) := by
  unfold execVopAdd
  with_reducible apply done_keeps hP.toStable
  with_reducible apply State.vop_keeps hP
  with_reducible assumption

theorem execVopMul_keeps {P : State → Prop} (hP : StableMem P) {a0 : Nat} {a1 : Nat} {a2 : List (Nat × Nat)} {s : State} (h : P s) :
    (Nxt P) (execVopMul a0 a1 a2 s) := by
  unfold execVopMul
  with_reducible apply done_keeps hP.toStable
  with_reducible apply State.vop_keeps hP
  with_reducible assumption

theorem execVopMax_keeps {P : State → Prop} (hP : StableMem P) {a0 : Nat} {a1 : Nat} {a2 : List (Nat × Nat)} {s : State} (h : P s) :
    (Nxt P) (execVopMax a0 a1 a2 s) := by
  unfold execVopMax
  with_reducible apply done_keeps hP.toStable
  with_reducible apply State.vop_keeps hP
  with_reducible assumption

theorem execVopRelu_keeps {P : State → Prop} (hP : StableMem P) {a0 : Nat} {a1 : Nat} {a2 : List (Nat × Nat)} {s : State} (h : P s) :
    (Nxt P) (execVopRelu a0 a1 a2 s) := by
  unfold execVopRelu
  with_reducible apply done_keeps hP.toStable
  with_reducible apply State.vop_keeps hP
  with_reducible assumption

theorem execVopSigmoid_keeps {P : State → Prop} (hP : StableMem P) {a0 : Nat} {a1 : Nat} {a2 : List (Nat × Nat)} {s : State} (h : P s) :
    (Nxt P) (execVopSigmoid a0 a1 a2 s) := by
  unfold execVopSigmoid
  with_reducible apply done_keeps hP.toStable
  with_reducible apply State.vop_keeps hP
  with_reducible assumption

theorem execVopSilu_keeps {P : State → Prop} (hP : StableMem P) {a0 : Nat} {a1 : Nat} {a2 : List (Nat × Nat)} {s : State} (h : P s) :
    (Nxt P) (execVopSilu a0 a1 a2 s) := by
  unfold execVopSilu
  with_reducible apply done_keeps hP.toStable
  with_reducible apply State.vop_keeps hP
  with_reducible assumption

theorem execVopGeluTanh_keeps {P : State → Prop} (hP : StableMem P) {a0 : Nat} {a1 : Nat} {a2 : List (Nat × Nat)} {s : State} (h : P s) :
    (Nxt P) (execVopGeluTanh a0 a1 a2 s) := by
  unfold execVopGeluTanh
  with_reducible apply done_keeps hP.toStable
  with_reducible apply State.vop_keeps hP
  with_reducible assumption

theorem execVopGateSilu_keeps {P : State → Prop} (hP : StableMem P) {a0 : Nat} {a1 : Nat} {a2 : List (Nat × Nat)} {s : State} (h : P s) :
    (Nxt P) (execVopGateSilu a0 a1 a2 s) := by
  unfold execVopGateSilu
  with_reducible apply done_keeps hP.toStable
  with_reducible apply State.vop_keeps hP
  with_reducible assumption

theorem execVopExp_keeps {P : State → Prop} (hP : StableMem P) {a0 : Nat} {a1 : Nat} {a2 : List (Nat × Nat)} {s : State} (h : P s) :
    (Nxt P) (execVopExp a0 a1 a2 s) := by
  unfold execVopExp
  with_reducible apply done_keeps hP.toStable
  with_reducible apply State.vop_keeps hP
  with_reducible assumption

theorem execVopRecip_keeps {P : State → Prop} (hP : StableMem P) {a0 : Nat} {a1 : Nat} {a2 : List (Nat × Nat)} {s : State} (h : P s) :
    (Nxt P) (execVopRecip a0 a1 a2 s) := by
  unfold execVopRecip
  with_reducible apply done_keeps hP.toStable
  with_reducible apply State.vop_keeps hP
  with_reducible assumption

theorem execVopRsqrt_keeps {P : State → Prop} (hP : StableMem P) {a0 : Nat} {a1 : Nat} {a2 : List (Nat × Nat)} {s : State} (h : P s) :
    (Nxt P) (execVopRsqrt a0 a1 a2 s) := by
  unfold execVopRsqrt
  with_reducible apply done_keeps hP.toStable
  with_reducible apply State.vop_keeps hP
  with_reducible assumption

theorem execVopLnorm_keeps {P : State → Prop} (hP : StableMem P) {a0 : Nat} {a1 : Nat} {a2 : List (Nat × Nat)} {s : State} (h : P s) :
    (Nxt P) (execVopLnorm a0 a1 a2 s) := by
  unfold execVopLnorm
  with_reducible apply done_keeps hP.toStable
  with_reducible apply State.vop_keeps hP
  with_reducible assumption

theorem execVopRmsnorm_keeps {P : State → Prop} (hP : StableMem P) {a0 : Nat} {a1 : Nat} {a2 : List (Nat × Nat)} {s : State} (h : P s) :
    (Nxt P) (execVopRmsnorm a0 a1 a2 s) := by
  unfold execVopRmsnorm
  with_reducible apply done_keeps hP.toStable
  with_reducible apply State.vop_keeps hP
  with_reducible assumption

theorem execVopNstat_keeps {P : State → Prop} (hP : StableMem P) {a0 : Nat} {a1 : Nat} {a2 : List (Nat × Nat)} {s : State} (h : P s) :
    (Nxt P) (execVopNstat a0 a1 a2 s) := by
  unfold execVopNstat
  with_reducible apply done_keeps hP.toStable
  with_reducible apply State.vop_keeps hP
  with_reducible assumption

theorem execVopNapply_keeps {P : State → Prop} (hP : StableMem P) {a0 : Nat} {a1 : Nat} {a2 : List (Nat × Nat)} {s : State} (h : P s) :
    (Nxt P) (execVopNapply a0 a1 a2 s) := by
  unfold execVopNapply
  with_reducible apply done_keeps hP.toStable
  with_reducible apply State.vop_keeps hP
  with_reducible assumption

theorem execVopRope_keeps {P : State → Prop} (hP : StableMem P) {a0 : Nat} {a1 : Nat} {a2 : List (Nat × Nat)} {s : State} (h : P s) :
    (Nxt P) (execVopRope a0 a1 a2 s) := by
  unfold execVopRope
  with_reducible apply done_keeps hP.toStable
  with_reducible apply State.vop_keeps hP
  with_reducible assumption

theorem State.vcfg_keeps {P : State → Prop} (hP : StableMem P) {s : State} {a1 : Nat} {a2 : Nat} {a3 : Nat} {a4 : List (Nat × Nat)} (h : P s) :
    P (State.vcfg s a1 a2 a3 a4) := by
  unfold State.vcfg
  with_reducible apply State.engineRow_keeps hP
  · with_reducible assumption
  · intro x1 x2 x3
    extract_lets t4 t5
    clear_value t4 t5
    with_reducible refine keep_ite (fun _ => ?_) (fun _ => ?_)
    · with_reducible assumption
    · with_reducible refine keep_ite (fun _ => ?_) (fun _ => ?_)
      · with_reducible apply State.engineIllegal_keeps hP.toStable
        with_reducible assumption
      · with_reducible apply State.issue_keeps hP.toStable
        with_reducible assumption

theorem execVcfgScaleTable_keeps {P : State → Prop} (hP : StableMem P) {a0 : Nat} {a1 : Nat} {a2 : List (Nat × Nat)} {s : State} (h : P s) :
    (Nxt P) (execVcfgScaleTable a0 a1 a2 s) := by
  unfold execVcfgScaleTable
  with_reducible apply done_keeps hP.toStable
  with_reducible apply State.vcfg_keeps hP
  with_reducible assumption

theorem execVcfgParameterBlock_keeps {P : State → Prop} (hP : StableMem P) {a0 : Nat} {a1 : Nat} {a2 : List (Nat × Nat)} {s : State} (h : P s) :
    (Nxt P) (execVcfgParameterBlock a0 a1 a2 s) := by
  unfold execVcfgParameterBlock
  with_reducible apply done_keeps hP.toStable
  with_reducible apply State.vcfg_keeps hP
  with_reducible assumption

theorem execStore_keeps {P : State → Prop} (hP : StableMem P) {a0 : Nat} {a1 : Nat} {a2 : List (Nat × Nat)} {s : State} (h : P s) :
    (Nxt P) (execStore a0 a1 a2 s) := by
  unfold execStore
  with_reducible apply done_keeps hP.toStable
  with_reducible apply State.engineRow_keeps hP
  · with_reducible assumption
  · intro x1 x2 x3
    extract_lets t4 t5 t6 t7 t8 t9 t10 t11 t12
    clear_value t4 t5 t6 t7 t8 t9 t10
    have h13 : P t11 := by
      unfold t11
      with_reducible refine keep_ite (fun _ => ?_) (fun _ => ?_)
      · with_reducible apply State.watch_keeps hP.toStable
        with_reducible assumption
      · with_reducible assumption
    clear_value t11 t12
    split
    · extract_lets t14
      clear_value t14
      with_reducible refine keep_ite (fun _ => ?_) (fun _ => ?_)
      · with_reducible apply State.engineIllegal_keeps hP.toStable
        with_reducible assumption
      · with_reducible refine keep_ite (fun _ => ?_) (fun _ => ?_)
        · with_reducible assumption
        · with_reducible apply State.issue_keeps hP.toStable
          with_reducible apply State.setBrick_keeps hP.toStable
          with_reducible assumption
    · with_reducible assumption

theorem execIssueTimeout_keeps {P : State → Prop} (hP : Stable P) {a0 : Nat} {a1 : Nat} {a2 : Nat} {s : State} (h : P s) :
    (Nxt P) (execIssueTimeout a0 a1 a2 s) := by
  unfold execIssueTimeout
  with_reducible refine keep_ite (fun _ => ?_) (fun _ => ?_)
  · with_reducible apply done_keeps hP
    with_reducible assumption
  · with_reducible apply done_keeps hP
    with_reducible apply State.err_keeps hP
    with_reducible apply State.halt_keeps hP
    with_reducible assumption

theorem execInboundAdmit_keeps {P : State → Prop} (hP : StableMem P) {a0 : Nat} {a1 : Nat} {a2 : List Byte} {a3 : List Nat} {a4 : Nat} {s : State} (h : P s) :
    (Nxt P) (execInboundAdmit a0 a1 a2 a3 a4 s) := by
  unfold execInboundAdmit
  with_reducible refine keep_ite (fun _ => ?_) (fun _ => ?_)
  · with_reducible apply done_keeps hP.toStable
    with_reducible assumption
  · extract_lets t1
    have h2 : P t1 := by
      unfold t1
      with_reducible apply State.runTo_keeps hP
      with_reducible assumption
    clear_value t1
    with_reducible apply done_keeps hP.toStable
    with_reducible apply State.setBrick_keeps hP.toStable
    with_reducible assumption

theorem execInboundLanded_keeps {P : State → Prop} (hP : StableMem P) {a0 : Nat} {a1 : Nat} {a2 : Nat} {s : State} (h : P s) :
    (Nxt P) (execInboundLanded a0 a1 a2 s) := by
  unfold execInboundLanded
  extract_lets t1 t2
  have h3 : P t1 := by
    unfold t1
    with_reducible apply State.runTo_keeps hP
    with_reducible assumption
  clear_value t1 t2
  split
  · with_reducible apply done_keeps hP.toStable
    with_reducible assumption
  · with_reducible refine keep_ite (fun _ => ?_) (fun _ => ?_)
    · with_reducible apply done_keeps hP.toStable
      with_reducible assumption
    · extract_lets t4
      have h5 : (Snd (Snd (P))) t4 := by
        unfold t4
        with_reducible apply State.perform_keeps hP
        with_reducible apply State.setBrick_keeps hP.toStable
        with_reducible assumption
      clear_value t4
      with_reducible apply done_keeps hP.toStable
      split
      · with_reducible apply State.pieceServed_keeps hP
        with_reducible assumption
      · with_reducible assumption

theorem execAluAdd_keeps {P : State → Prop} (hP : StableMem P) {a0 : Nat} {a1 : Bool} {s : State} (h : P s) :
    (Nxt P) (execAluAdd a0 a1 s) := by
  unfold execAluAdd
  with_reducible apply aluRow_keeps hP
  with_reducible assumption

theorem execAluSub_keeps {P : State → Prop} (hP : StableMem P) {a0 : Nat} {a1 : Bool} {s : State} (h : P s) :
    (Nxt P) (execAluSub a0 a1 s) := by
  unfold execAluSub
  with_reducible apply aluRow_keeps hP
  with_reducible assumption

theorem execAluOr_keeps {P : State → Prop} (hP : StableMem P) {a0 : Nat} {a1 : Bool} {s : State} (h : P s) :
    (Nxt P) (execAluOr a0 a1 s) := by
  unfold execAluOr
  with_reducible apply aluRow_keeps hP
  with_reducible assumption

theorem execAluSll_keeps {P : State → Prop} (hP : StableMem P) {a0 : Nat} {a1 : Bool} {s : State} (h : P s) :
    (Nxt P) (execAluSll a0 a1 s) := by
  unfold execAluSll
  with_reducible apply aluRow_keeps hP
  with_reducible assumption

theorem execAluSrl_keeps {P : State → Prop} (hP : StableMem P) {a0 : Nat} {a1 : Bool} {s : State} (h : P s) :
    (Nxt P) (execAluSrl a0 a1 s) := by
  unfold execAluSrl
  with_reducible apply aluRow_keeps hP
  with_reducible assumption

theorem execAluSra_keeps {P : State → Prop} (hP : StableMem P) {a0 : Nat} {a1 : Bool} {s : State} (h : P s) :
    (Nxt P) (execAluSra a0 a1 s) := by
  unfold execAluSra
  with_reducible apply aluRow_keeps hP
  with_reducible assumption

theorem execAluSlt_keeps {P : State → Prop} (hP : StableMem P) {a0 : Nat} {a1 : Bool} {s : State} (h : P s) :
    (Nxt P) (execAluSlt a0 a1 s) := by
  unfold execAluSlt
  with_reducible apply aluRow_keeps hP
  with_reducible assumption

theorem execAluSltu_keeps {P : State → Prop} (hP : StableMem P) {a0 : Nat} {a1 : Bool} {s : State} (h : P s) :
    (Nxt P) (execAluSltu a0 a1 s) := by
  unfold execAluSltu
  with_reducible apply aluRow_keeps hP
  with_reducible assumption

theorem execAluMin_keeps {P : State → Prop} (hP : StableMem P) {a0 : Nat} {a1 : Bool} {s : State} (h : P s) :
    (Nxt P) (execAluMin a0 a1 s) := by
  unfold execAluMin
  with_reducible apply aluRow_keeps hP
  with_reducible assumption

theorem execAluMax_keeps {P : State → Prop} (hP : StableMem P) {a0 : Nat} {a1 : Bool} {s : State} (h : P s) :
    (Nxt P) (execAluMax a0 a1 s) := by
  unfold execAluMax
  with_reducible apply aluRow_keeps hP
  with_reducible assumption

theorem execAluMinu_keeps {P : State → Prop} (hP : StableMem P) {a0 : Nat} {a1 : Bool} {s : State} (h : P s) :
    (Nxt P) (execAluMinu a0 a1 s) := by
  unfold execAluMinu
  with_reducible apply aluRow_keeps hP
  with_reducible assumption

theorem execAluMaxu_keeps {P : State → Prop} (hP : StableMem P) {a0 : Nat} {a1 : Bool} {s : State} (h : P s) :
    (Nxt P) (execAluMaxu a0 a1 s) := by
  unfold execAluMaxu
  with_reducible apply aluRow_keeps hP
  with_reducible assumption

theorem execAluMul_keeps {P : State → Prop} (hP : StableMem P) {a0 : Nat} {a1 : Bool} {s : State} (h : P s) :
    (Nxt P) (execAluMul a0 a1 s) := by
  unfold execAluMul
  with_reducible apply aluRow_keeps hP
  with_reducible assumption

theorem execAluMulh_keeps {P : State → Prop} (hP : StableMem P) {a0 : Nat} {a1 : Bool} {s : State} (h : P s) :
    (Nxt P) (execAluMulh a0 a1 s) := by
  unfold execAluMulh
  with_reducible apply aluRow_keeps hP
  with_reducible assumption

theorem execAluMulhu_keeps {P : State → Prop} (hP : StableMem P) {a0 : Nat} {a1 : Bool} {s : State} (h : P s) :
    (Nxt P) (execAluMulhu a0 a1 s) := by
  unfold execAluMulhu
  with_reducible apply aluRow_keeps hP
  with_reducible assumption

theorem execAluDiv_keeps {P : State → Prop} (hP : StableMem P) {a0 : Nat} {a1 : Bool} {s : State} (h : P s) :
    (Nxt P) (execAluDiv a0 a1 s) := by
  unfold execAluDiv
  with_reducible apply aluRow_keeps hP
  with_reducible assumption

theorem execAluDivu_keeps {P : State → Prop} (hP : StableMem P) {a0 : Nat} {a1 : Bool} {s : State} (h : P s) :
    (Nxt P) (execAluDivu a0 a1 s) := by
  unfold execAluDivu
  with_reducible apply aluRow_keeps hP
  with_reducible assumption

theorem execAluRem_keeps {P : State → Prop} (hP : StableMem P) {a0 : Nat} {a1 : Bool} {s : State} (h : P s) :
    (Nxt P) (execAluRem a0 a1 s) := by
  unfold execAluRem
  with_reducible apply aluRow_keeps hP
  with_reducible assumption

theorem execAluRemu_keeps {P : State → Prop} (hP : StableMem P) {a0 : Nat} {a1 : Bool} {s : State} (h : P s) :
    (Nxt P) (execAluRemu a0 a1 s) := by
  unfold execAluRemu
  with_reducible apply aluRow_keeps hP
  with_reducible assumption

theorem immRow_keeps {P : State → Prop} (hP : StableMem P) {a0 : Nat} {a1 : Bool} {a2 : Nat} {a3 : Nat → Nat → Nat} {s : State} (h : P s) :
    (Nxt P) (immRow a0 a1 a2 a3 s) := by
  unfold immRow
  with_reducible apply masonRow_keeps hP
  · intro x1 x2 x3
    extract_lets t4
    have h5 : (Snd (P)) t4 := by
      unfold t4
      with_reducible apply State.xr_keeps hP.toStable
      with_reducible assumption
    clear_value t4
    with_reducible apply State.mNext_keeps hP.toStable
    with_reducible apply State.xw_keeps hP.toStable
    with_reducible assumption
  · with_reducible assumption

theorem execAddi_keeps {P : State → Prop} (hP : StableMem P) {a0 : Nat} {a1 : Bool} {s : State} (h : P s) :
    (Nxt P) (execAddi a0 a1 s) := by
  unfold execAddi
  with_reducible apply immRow_keeps hP
  with_reducible assumption

theorem execAndi_keeps {P : State → Prop} (hP : StableMem P) {a0 : Nat} {a1 : Bool} {s : State} (h : P s) :
    (Nxt P) (execAndi a0 a1 s) := by
  unfold execAndi
  with_reducible apply immRow_keeps hP
  with_reducible assumption

theorem execOri_keeps {P : State → Prop} (hP : StableMem P) {a0 : Nat} {a1 : Bool} {s : State} (h : P s) :
    (Nxt P) (execOri a0 a1 s) := by
  unfold execOri
  with_reducible apply immRow_keeps hP
  with_reducible assumption

theorem execXori_keeps {P : State → Prop} (hP : StableMem P) {a0 : Nat} {a1 : Bool} {s : State} (h : P s) :
    (Nxt P) (execXori a0 a1 s) := by
  unfold execXori
  with_reducible apply immRow_keeps hP
  with_reducible assumption

theorem execSlti_keeps {P : State → Prop} (hP : StableMem P) {a0 : Nat} {a1 : Bool} {s : State} (h : P s) :
    (Nxt P) (execSlti a0 a1 s) := by
  unfold execSlti
  with_reducible apply immRow_keeps hP
  with_reducible assumption

theorem execSltiu_keeps {P : State → Prop} (hP : StableMem P) {a0 : Nat} {a1 : Bool} {s : State} (h : P s) :
    (Nxt P) (execSltiu a0 a1 s) := by
  unfold execSltiu
  with_reducible apply immRow_keeps hP
  with_reducible assumption

theorem execSlli_keeps {P : State → Prop} (hP : StableMem P) {a0 : Nat} {a1 : Bool} {s : State} (h : P s) :
    (Nxt P) (execSlli a0 a1 s) := by
  unfold execSlli
  with_reducible apply immRow_keeps hP
  with_reducible assumption

theorem execSrli_keeps {P : State → Prop} (hP : StableMem P) {a0 : Nat} {a1 : Bool} {s : State} (h : P s) :
    (Nxt P) (execSrli a0 a1 s) := by
  unfold execSrli
  with_reducible apply immRow_keeps hP
  with_reducible assumption

theorem execSrai_keeps {P : State → Prop} (hP : StableMem P) {a0 : Nat} {a1 : Bool} {s : State} (h : P s) :
    (Nxt P) (execSrai a0 a1 s) := by
  unfold execSrai
  with_reducible apply immRow_keeps hP
  with_reducible assumption

theorem execLui_keeps {P : State → Prop} (hP : StableMem P) {a0 : Nat} {a1 : Bool} {s : State} (h : P s) :
    (Nxt P) (execLui a0 a1 s) := by
  unfold execLui
  with_reducible apply immRow_keeps hP
  with_reducible assumption

theorem execLw_keeps {P : State → Prop} (hP : StableMem P) {a0 : Nat} {a1 : Bool} {a2 : BitVec 72} {s : State} (h : P s) :
    (Nxt P) (execLw a0 a1 a2 s) := by
  unfold execLw
  with_reducible apply loadRow_keeps hP
  with_reducible assumption

theorem execLb_keeps {P : State → Prop} (hP : StableMem P) {a0 : Nat} {a1 : Bool} {a2 : BitVec 72} {s : State} (h : P s) :
    (Nxt P) (execLb a0 a1 a2 s) := by
  unfold execLb
  with_reducible apply loadRow_keeps hP
  with_reducible assumption

theorem execLbu_keeps {P : State → Prop} (hP : StableMem P) {a0 : Nat} {a1 : Bool} {a2 : BitVec 72} {s : State} (h : P s) :
    (Nxt P) (execLbu a0 a1 a2 s) := by
  unfold execLbu
  with_reducible apply loadRow_keeps hP
  with_reducible assumption

theorem storeRow_keeps {P : State → Prop} (hP : StableMem P) {a0 : Nat} {a1 : Bool} {a2 : BitVec 72} {a3 : Nat} {a4 : Nat} {s : State} (h : P s) :
    (Nxt P) (storeRow a0 a1 a2 a3 a4 s) := by
  unfold storeRow
  with_reducible apply masonRow_keeps hP
  · intro x1 x2 x3
    extract_lets t4 t5 t6 t7 t8
    have h9 : (Snd (P)) t4 := by
      unfold t4
      with_reducible apply State.xr_keeps hP.toStable
      with_reducible assumption
    clear_value t4
    have h10 : (Snd (P)) t5 := by
      unfold t5
      with_reducible apply State.xr_keeps hP.toStable
      with_reducible assumption
    clear_value t5 t6
    have h11 : P t7 := by
      unfold t7
      with_reducible assumption
    clear_value t7 t8
    split
    · with_reducible apply State.masonFault_keeps hP
      with_reducible assumption
    · with_reducible apply State.masonFault_keeps hP
      with_reducible assumption
    · extract_lets t12
      have h13 : (Snd (P)) t12 := by
        unfold t12
        with_reducible apply State.dataCheck_keeps hP.toStable
        with_reducible assumption
      clear_value t12
      with_reducible refine keep_ite (fun _ => ?_) (fun _ => ?_)
      · with_reducible apply State.masonPoison_keeps hP.toStable
        with_reducible assumption
      · with_reducible apply State.mNext_keeps hP.toStable
        with_reducible apply State.setBrick_keeps hP.toStable
        with_reducible assumption
    · extract_lets t14
      clear_value t14
      with_reducible apply State.mNext_keeps hP.toStable
      with_reducible apply State.setBrick_keeps hP.toStable
      with_reducible assumption
  · with_reducible assumption

theorem execSw_keeps {P : State → Prop} (hP : StableMem P) {a0 : Nat} {a1 : Bool} {a2 : BitVec 72} {s : State} (h : P s) :
    (Nxt P) (execSw a0 a1 a2 s) := by
  unfold execSw
  with_reducible apply storeRow_keeps hP
  with_reducible assumption

theorem execSh_keeps {P : State → Prop} (hP : StableMem P) {a0 : Nat} {a1 : Bool} {a2 : BitVec 72} {s : State} (h : P s) :
    (Nxt P) (execSh a0 a1 a2 s) := by
  unfold execSh
  with_reducible apply storeRow_keeps hP
  with_reducible assumption

theorem execSb_keeps {P : State → Prop} (hP : StableMem P) {a0 : Nat} {a1 : Bool} {a2 : BitVec 72} {s : State} (h : P s) :
    (Nxt P) (execSb a0 a1 a2 s) := by
  unfold execSb
  with_reducible apply storeRow_keeps hP
  with_reducible assumption

theorem execBeq_keeps {P : State → Prop} (hP : StableMem P) {a0 : Nat} {a1 : Bool} {s : State} (h : P s) :
    (Nxt P) (execBeq a0 a1 s) := by
  unfold execBeq
  with_reducible apply branchRow_keeps hP
  with_reducible assumption

theorem execBne_keeps {P : State → Prop} (hP : StableMem P) {a0 : Nat} {a1 : Bool} {s : State} (h : P s) :
    (Nxt P) (execBne a0 a1 s) := by
  unfold execBne
  with_reducible apply branchRow_keeps hP
  with_reducible assumption

theorem execBlt_keeps {P : State → Prop} (hP : StableMem P) {a0 : Nat} {a1 : Bool} {s : State} (h : P s) :
    (Nxt P) (execBlt a0 a1 s) := by
  unfold execBlt
  with_reducible apply branchRow_keeps hP
  with_reducible assumption

theorem execBge_keeps {P : State → Prop} (hP : StableMem P) {a0 : Nat} {a1 : Bool} {s : State} (h : P s) :
    (Nxt P) (execBge a0 a1 s) := by
  unfold execBge
  with_reducible apply branchRow_keeps hP
  with_reducible assumption

theorem execBgeu_keeps {P : State → Prop} (hP : StableMem P) {a0 : Nat} {a1 : Bool} {s : State} (h : P s) :
    (Nxt P) (execBgeu a0 a1 s) := by
  unfold execBgeu
  with_reducible apply branchRow_keeps hP
  with_reducible assumption

theorem execJal_keeps {P : State → Prop} (hP : StableMem P) {a0 : Nat} {a1 : Bool} {s : State} (h : P s) :
    (Nxt P) (execJal a0 a1 s) := by
  unfold execJal
  with_reducible apply masonRow_keeps hP
  · intro x1 x2 x3
    extract_lets t4
    clear_value t4
    with_reducible apply State.mGo_keeps hP.toStable
    with_reducible apply State.xw_keeps hP.toStable
    with_reducible assumption
  · with_reducible assumption

theorem execJalr_keeps {P : State → Prop} (hP : StableMem P) {a0 : Nat} {a1 : Bool} {s : State} (h : P s) :
    (Nxt P) (execJalr a0 a1 s) := by
  unfold execJalr
  with_reducible apply masonRow_keeps hP
  · intro x1 x2 x3
    extract_lets t4 t5
    have h6 : (Snd (P)) t4 := by
      unfold t4
      with_reducible apply State.xr_keeps hP.toStable
      with_reducible assumption
    clear_value t4 t5
    with_reducible apply State.mGo_keeps hP.toStable
    with_reducible apply State.xw_keeps hP.toStable
    with_reducible assumption
  · with_reducible assumption

theorem State.pushIns_keeps {P : State → Prop} (hP : Stable P) {s : State} {a1 : Nat} {a2 : Nat} {a3 : Nat} {a4 : Nat} (h : P s) :
    P (State.pushIns s a1 a2 a3 a4) := by
  unfold State.pushIns
  extract_lets t1
  clear_value t1
  with_reducible apply State.setBrick_keeps hP
  with_reducible assumption

theorem execEpush_keeps {P : State → Prop} (hP : StableMem P) {a0 : Nat} {a1 : Bool} {s : State} (h : P s) :
    (Nxt P) (execEpush a0 a1 s) := by
  unfold execEpush
  split
  · with_reducible apply done_keeps hP.toStable
    with_reducible assumption
  · with_reducible apply done_keeps hP.toStable
    refine keep_of_fault ‹_ = Fetch5.fault _› ?_
    with_reducible apply State.fetchMason_keeps hP
    with_reducible assumption
  · with_reducible refine keep_ite (fun _ => ?_) (fun _ => ?_)
    · extract_lets t1 t2
      have h3 : (Snd (P)) t1 := by
        unfold t1
        with_reducible apply State.xr_keeps hP.toStable
        refine keep_of_word ‹_ = Fetch5.word _ _› ?_
        with_reducible apply State.fetchMason_keeps hP
        with_reducible assumption
      clear_value t1
      have h4 : (Snd (P)) t2 := by
        unfold t2
        with_reducible apply State.xr_keeps hP.toStable
        with_reducible assumption
      clear_value t2
      with_reducible apply done_keeps hP.toStable
      with_reducible apply State.trap_keeps hP
      with_reducible apply State.mNext_keeps hP.toStable
      with_reducible apply State.pushIns_keeps hP.toStable
      with_reducible assumption
    · with_reducible apply done_keeps hP.toStable
      with_reducible assumption

theorem execEpushm_keeps {P : State → Prop} (hP : StableMem P) {a0 : Nat} {a1 : Bool} {a2 : BitVec 72} {s : State} (h : P s) :
    (Nxt P) (execEpushm a0 a1 a2 s) := by
  unfold execEpushm
  split
  · with_reducible apply done_keeps hP.toStable
    with_reducible assumption
  · with_reducible apply done_keeps hP.toStable
    refine keep_of_fault ‹_ = Fetch5.fault _› ?_
    with_reducible apply State.fetchMason_keeps hP
    with_reducible assumption
  · with_reducible refine keep_ite (fun _ => ?_) (fun _ => ?_)
    · extract_lets t1 t2 t3
      have h4 : (Snd (P)) t1 := by
        unfold t1
        with_reducible apply State.xr_keeps hP.toStable
        refine keep_of_word ‹_ = Fetch5.word _ _› ?_
        with_reducible apply State.fetchMason_keeps hP
        with_reducible assumption
      clear_value t1 t2
      have h5 : (Snd (P)) t3 := by
        unfold t3
        with_reducible apply State.dataCheck_keeps hP.toStable
        with_reducible assumption
      clear_value t3
      with_reducible refine keep_ite (fun _ => ?_) (fun _ => ?_)
      · with_reducible apply done_keeps hP.toStable
        with_reducible apply State.masonFault_keeps hP
        with_reducible assumption
      · with_reducible refine keep_ite (fun _ => ?_) (fun _ => ?_)
        · with_reducible apply done_keeps hP.toStable
          with_reducible apply State.masonPoison_keeps hP.toStable
          with_reducible assumption
        · with_reducible apply done_keeps hP.toStable
          with_reducible apply State.trap_keeps hP
          with_reducible apply State.mNext_keeps hP.toStable
          with_reducible apply State.pushIns_keeps hP.toStable
          with_reducible assumption
    · with_reducible apply done_keeps hP.toStable
      with_reducible assumption

theorem execSpushm_keeps {P : State → Prop} (hP : StableMem P) {a0 : Nat} {a1 : Bool} {a2 : BitVec 72} {s : State} (h : P s) :
    (Nxt P) (execSpushm a0 a1 a2 s) := by
  unfold execSpushm
  split
  · with_reducible apply done_keeps hP.toStable
    with_reducible assumption
  · with_reducible apply done_keeps hP.toStable
    refine keep_of_fault ‹_ = Fetch5.fault _› ?_
    with_reducible apply State.fetchMason_keeps hP
    with_reducible assumption
  · with_reducible refine keep_ite (fun _ => ?_) (fun _ => ?_)
    · extract_lets t1 t2 t3 t4 t5 t6 t7
      have h8 : (Snd (P)) t1 := by
        unfold t1
        with_reducible apply State.xr_keeps hP.toStable
        refine keep_of_word ‹_ = Fetch5.word _ _› ?_
        with_reducible apply State.fetchMason_keeps hP
        with_reducible assumption
      clear_value t1 t2 t3
      have h9 : (Snd (P)) t4 := by
        unfold t4
        with_reducible apply State.dataCheck_keeps hP.toStable
        with_reducible assumption
      clear_value t4 t5 t6 t7
      with_reducible refine keep_ite (fun _ => ?_) (fun _ => ?_)
      · with_reducible apply done_keeps hP.toStable
        with_reducible apply State.masonFault_keeps hP
        with_reducible assumption
      · with_reducible refine keep_ite (fun _ => ?_) (fun _ => ?_)
        · with_reducible refine keep_ite (fun _ => ?_) (fun _ => ?_)
          · with_reducible apply done_keeps hP.toStable
            with_reducible assumption
          · with_reducible apply done_keeps hP.toStable
            with_reducible apply State.masonFault_keeps hP
            with_reducible assumption
        · with_reducible refine keep_ite (fun _ => ?_) (fun _ => ?_)
          · with_reducible apply done_keeps hP.toStable
            with_reducible apply State.masonPoison_keeps hP.toStable
            with_reducible assumption
          · with_reducible apply done_keeps hP.toStable
            with_reducible apply State.trap_keeps hP
            with_reducible apply State.mNext_keeps hP.toStable
            with_reducible apply State.setBrick_keeps hP.toStable
            with_reducible assumption
    · with_reducible apply done_keeps hP.toStable
      with_reducible assumption

theorem execMasonWait_keeps {P : State → Prop} (hP : StableMem P) {a0 : Nat} {a1 : Bool} {s : State} (h : P s) :
    (Nxt P) (execMasonWait a0 a1 s) := by
  unfold execMasonWait
  split
  · with_reducible apply done_keeps hP.toStable
    with_reducible assumption
  · with_reducible apply done_keeps hP.toStable
    refine keep_of_fault ‹_ = Fetch5.fault _› ?_
    with_reducible apply State.fetchMason_keeps hP
    with_reducible assumption
  · extract_lets t1 t2 t3
    clear_value t1 t2 t3
    with_reducible refine keep_ite (fun _ => ?_) (fun _ => ?_)
    · with_reducible apply done_keeps hP.toStable
      with_reducible apply State.trap_keeps hP
      with_reducible apply State.mGo_keeps hP.toStable
      refine keep_of_word ‹_ = Fetch5.word _ _› ?_
      with_reducible apply State.fetchMason_keeps hP
      with_reducible assumption
    · with_reducible apply done_keeps hP.toStable
      with_reducible assumption

theorem execWaiti_keeps {P : State → Prop} (hP : StableMem P) {a0 : Nat} {a1 : Bool} {s : State} (h : P s) :
    (Nxt P) (execWaiti a0 a1 s) := by
  unfold execWaiti
  split
  · with_reducible apply done_keeps hP.toStable
    with_reducible assumption
  · with_reducible apply done_keeps hP.toStable
    refine keep_of_fault ‹_ = Fetch5.fault _› ?_
    with_reducible apply State.fetchMason_keeps hP
    with_reducible assumption
  · extract_lets t1
    clear_value t1
    with_reducible refine keep_ite (fun _ => ?_) (fun _ => ?_)
    · with_reducible apply done_keeps hP.toStable
      with_reducible apply State.trap_keeps hP
      with_reducible apply State.mGo_keeps hP.toStable
      refine keep_of_word ‹_ = Fetch5.word _ _› ?_
      with_reducible apply State.fetchMason_keeps hP
      with_reducible assumption
    · with_reducible apply done_keeps hP.toStable
      with_reducible assumption

theorem execWaitc_keeps {P : State → Prop} (hP : StableMem P) {a0 : Nat} {a1 : Bool} {s : State} (h : P s) :
    (Nxt P) (execWaitc a0 a1 s) := by
  unfold execWaitc
  with_reducible apply masonRow_keeps hP
  · intro x1 x2 x3
    with_reducible apply State.mNext_keeps hP.toStable
    with_reducible assumption
  · with_reducible assumption

theorem execMEnd_keeps {P : State → Prop} (hP : StableMem P) {a0 : Nat} {a1 : Bool} {s : State} (h : P s) :
    (Nxt P) (execMEnd a0 a1 s) := by
  unfold execMEnd
  with_reducible apply masonRow_keeps hP
  · intro x1 x2 x3
    extract_lets t4
    clear_value t4
    with_reducible apply State.mNext_keeps hP.toStable
    with_reducible apply State.setBrick_keeps hP.toStable
    with_reducible assumption
  · with_reducible assumption

theorem State.bringResident_keeps {P : State → Prop} (hP : StableMem P) {s : State} {a1 : Nat} {a2 : BRun} {a3 : Nat × Nat × Nat} (h : P s) :
    (Snd P) (State.bringResident s a1 a2 a3) := by
  unfold State.bringResident
  extract_lets t1 t2 t3 t4 t5 t6 t7
  clear_value t1
  have h8 : ∀ y0 y1, P y0 → (P) (t2 y0 y1) := by
    unfold t2
    intro x9 x10 x11
    with_reducible apply hP.toStable.rest
    with_reducible assumption
  clear_value t2 t3 t4
  have h12 : (Snd (Snd (P))) t5 := by
    unfold t5
    with_reducible apply State.loadFor_keeps hP
    with_reducible assumption
  clear_value t5 t6 t7
  with_reducible refine keep_ite (fun _ => ?_) (fun _ => ?_)
  · with_reducible assumption
  · with_reducible refine keep_ite (fun _ => ?_) (fun _ => ?_)
    · split
      · with_reducible apply keep_pair_snd
        with_reducible apply h8
        with_reducible apply keep_snd
        with_reducible apply keep_snd
        with_reducible apply State.perform_keeps hP
        with_reducible assumption
      · with_reducible assumption
    · with_reducible apply keep_foldl (Q := Snd (P))
      · with_reducible apply keep_pair_snd
        with_reducible apply h8
        with_reducible assumption
      · intro x13 x14 x15
        with_reducible refine keep_ite (fun _ => ?_) (fun _ => ?_)
        · with_reducible assumption
        · extract_lets t16
          clear_value t16
          split
          · with_reducible apply keep_pair_snd
            with_reducible apply State.oweAck_keeps hP.toStable
            refine keep_of_pair ‹_ = (_, _)› ?_
            with_reducible apply State.sendRemote_keeps hP.toStable
            with_reducible apply State.passAway_keeps hP.toStable
            with_reducible assumption
          · with_reducible apply State.sendRemote_keeps hP.toStable
            with_reducible apply State.passAway_keeps hP.toStable
            with_reducible assumption

theorem State.bringResidents_keeps {P : State → Prop} (hP : StableMem P) {s : State} {a1 : Nat} {a2 : BRun} {a3 : List (Nat × Nat × Nat)} (h : P s) :
    (Snd P) (State.bringResidents s a1 a2 a3) := by
  unfold State.bringResidents
  with_reducible apply keep_foldl (Q := Snd (P))
  · with_reducible assumption
  · intro x1 x2 x3
    with_reducible refine keep_ite (fun _ => ?_) (fun _ => ?_)
    · with_reducible assumption
    · with_reducible apply State.bringResident_keeps hP
      with_reducible assumption

theorem State.routineAbsent_keeps {P : State → Prop} (hP : StableMem P) {s : State} {a1 : Nat} {a2 : BRun} (h : P s) :
    P (State.routineAbsent s a1 a2) := by
  unfold State.routineAbsent
  with_reducible apply State.faultReport_keeps hP
  with_reducible apply State.itemOver_keeps hP.toStable
  with_reducible apply State.workFail_keeps hP.toStable
  with_reducible assumption

theorem State.loadSet_keeps {P : State → Prop} (hP : StableMem P) {s : State} {a1 : Nat} {a2 : BRun} {a3 : Nat} {a4 : Nat} {a5 : Nat} (h : P s) :
    (Snd (Snd P)) (State.loadSet s a1 a2 a3 a4 a5) := by
  unfold State.loadSet
  extract_lets t1 t2
  clear_value t1
  have h3 : (Snd (Snd (P))) t2 := by
    unfold t2
    with_reducible apply State.loadFor_keeps hP
    with_reducible assumption
  clear_value t2
  split
  · with_reducible refine keep_ite (fun _ => ?_) (fun _ => ?_)
    · with_reducible assumption
    · split
      · with_reducible assumption
      · extract_lets t4 t5 t6 t7 t8 t9 t10
        clear_value t4
        have h11 : (Snd (Snd (P))) t5 := by
          unfold t5
          with_reducible apply State.loadFor_keeps hP
          with_reducible assumption
        clear_value t5
        have h12 : (Snd (Snd (P))) t6 := by
          unfold t6
          with_reducible apply State.loadFor_keeps hP
          with_reducible assumption
        clear_value t6 t7
        have h13 : P t8 := by
          unfold t8
          with_reducible apply State.setBrick_keeps hP.toStable
          with_reducible assumption
        clear_value t8 t9 t10
        split
        · with_reducible apply keep_pair_snd
          with_reducible apply keep_pair_snd
          with_reducible apply hP.toStable.rest
          with_reducible assumption
        · with_reducible assumption
  · with_reducible assumption

theorem execWorkItemStart_keeps {P : State → Prop} (hP : StableMem P) {a0 : Nat} {a1 : Nat} {a2 : Nat} {s : State} (h : P s) :
    (Nxt P) (execWorkItemStart a0 a1 a2 s) := by
  unfold execWorkItemStart
  split
  · with_reducible apply done_keeps hP.toStable
    with_reducible assumption
  · split
    · with_reducible apply done_keeps hP.toStable
      with_reducible assumption
    · split
      · with_reducible apply done_keeps hP.toStable
        with_reducible assumption
      · extract_lets t1 t2 t3 t4 t5
        clear_value t1 t2
        have h6 : (Snd (P)) t3 := by
          unfold t3
          with_reducible apply State.bringResidents_keeps hP
          with_reducible assumption
        clear_value t3
        have h7 : P t4 := by
          unfold t4
          with_reducible assumption
        clear_value t4 t5
        with_reducible refine keep_ite (fun _ => ?_) (fun _ => ?_)
        · with_reducible apply done_keeps hP.toStable
          with_reducible assumption
        · with_reducible refine keep_ite (fun _ => ?_) (fun _ => ?_)
          · with_reducible apply done_keeps hP.toStable
            with_reducible apply State.itemOver_keeps hP.toStable
            with_reducible apply State.workFail_keeps hP.toStable
            with_reducible assumption
          · with_reducible refine keep_ite (fun _ => ?_) (fun _ => ?_)
            · with_reducible apply done_keeps hP.toStable
              with_reducible assumption
            · split
              · with_reducible apply done_keeps hP.toStable
                with_reducible apply State.routineAbsent_keeps hP
                with_reducible assumption
              · extract_lets t8 t9 t10 t11 t12
                have h13 : (Snd (Snd (P))) t8 := by
                  unfold t8
                  with_reducible refine keep_ite (fun _ => ?_) (fun _ => ?_)
                  · with_reducible assumption
                  · with_reducible apply State.loadSet_keeps hP
                    with_reducible assumption
                clear_value t8 t9 t10 t11
                have h14 : P t12 := by
                  unfold t12
                  with_reducible apply State.setBrick_keeps hP.toStable
                  with_reducible assumption
                clear_value t12
                with_reducible refine keep_ite (fun _ => ?_) (fun _ => ?_)
                · with_reducible apply done_keeps hP.toStable
                  with_reducible apply State.routineAbsent_keeps hP
                  with_reducible assumption
                · with_reducible refine keep_ite (fun _ => ?_) (fun _ => ?_)
                  · with_reducible apply done_keeps hP.toStable
                    with_reducible apply State.itemOver_keeps hP.toStable
                    with_reducible apply State.workFail_keeps hP.toStable
                    with_reducible assumption
                  · with_reducible apply done_keeps hP.toStable
                    with_reducible refine keep_ite (fun _ => ?_) (fun _ => ?_)
                    · with_reducible assumption
                    · with_reducible apply State.masonPoison_keeps hP.toStable
                      with_reducible assumption

theorem execWorkItemEnd_keeps {P : State → Prop} (hP : StableMem P) {a0 : Nat} {a1 : Nat} {s : State} (h : P s) :
    (Nxt P) (execWorkItemEnd a0 a1 s) := by
  unfold execWorkItemEnd
  extract_lets t1 t2 t3 t4 t5 t6 t7
  have h8 : P t1 := by
    unfold t1
    with_reducible apply State.runTo_keeps hP
    with_reducible assumption
  clear_value t1 t2
  have h9 : P t3 := by
    unfold t3
    with_reducible apply State.chargeBrick_keeps hP.toStable
    with_reducible assumption
  clear_value t3 t4
  have h10 : P t5 := by
    unfold t5
    with_reducible apply State.trap_keeps hP
    with_reducible apply State.landRegs_keeps hP.toStable
    with_reducible apply State.setBrick_keeps hP.toStable
    with_reducible assumption
  clear_value t5 t6 t7
  split
  · with_reducible apply done_keeps hP.toStable
    with_reducible assumption
  · with_reducible refine keep_ite (fun _ => ?_) (fun _ => ?_)
    · split
      · with_reducible apply done_keeps hP.toStable
        with_reducible assumption
      · extract_lets t11 t12 t13 t14
        have h15 : P t11 := by
          unfold t11
          with_reducible refine keep_ite (fun _ => ?_) (fun _ => ?_)
          · with_reducible assumption
          · with_reducible apply State.workFail_keeps hP.toStable
            with_reducible assumption
        clear_value t11
        have h16 : P t12 := by
          unfold t12
          with_reducible refine keep_ite (fun _ => ?_) (fun _ => ?_)
          · with_reducible apply State.workFail_keeps hP.toStable
            with_reducible assumption
          · with_reducible assumption
        clear_value t12 t13
        have h17 : P t14 := by
          unfold t14
          with_reducible apply State.brickFreed_keeps hP.toStable
          with_reducible apply State.itemOver_keeps hP.toStable
          with_reducible apply State.setBrick_keeps hP.toStable
          with_reducible assumption
        clear_value t14
        with_reducible apply done_keeps hP.toStable
        with_reducible refine keep_ite (fun _ => ?_) (fun _ => ?_)
        · with_reducible assumption
        · with_reducible apply State.msgQuarantine_keeps hP
          with_reducible apply State.setUnit_keeps hP.toStable
          with_reducible assumption
    · with_reducible apply done_keeps hP.toStable
      with_reducible assumption

theorem execDrainComplete_keeps {P : State → Prop} (hP : Stable P) {a0 : Nat} {s : State} (h : P s) :
    (Nxt P) (execDrainComplete a0 s) := by
  unfold execDrainComplete
  with_reducible apply done_keeps hP
  with_reducible refine keep_ite (fun _ => ?_) (fun _ => ?_)
  · with_reducible apply State.setPartState_keeps hP
    with_reducible assumption
  · with_reducible assumption

theorem execModelLoad_keeps {P : State → Prop} (hP : StableMem P) {a0 : Nat} {a1 : Nat} {a2 : Bool} {a3 : Bool} {a4 : List Nat} {s : State} (h : P s) :
    (Nxt P) (execModelLoad a0 a1 a2 a3 a4 s) := by
  unfold execModelLoad
  with_reducible apply State.admitRow_keeps hP
  · with_reducible assumption
  · intro x1 x2 x3
    split
    · extract_lets t4 t5 t6 t7 t8
      clear_value t4 t5
      have h9 : P t6 := by
        unfold t6
        with_reducible apply State.setMslot_keeps hP.toStable
        with_reducible apply State.slotGuard_keeps hP.toStable
        with_reducible assumption
      clear_value t6 t7
      have h10 : P t8 := by
        unfold t8
        with_reducible apply hP.toStable.rest
        with_reducible assumption
      clear_value t8
      with_reducible apply State.journalOpen_keeps hP.toStable
      with_reducible apply State.onCmd_keeps hP.toStable
      with_reducible assumption
    · with_reducible apply State.finish_keeps hP
      with_reducible refine keep_ite (fun _ => ?_) (fun _ => ?_)
      · with_reducible apply State.err_keeps hP.toStable
        with_reducible assumption
      · with_reducible assumption

theorem State.loadBytes_keeps {P : State → Prop} (hP : StableMem P) {s : State} {a1 : Nat} {a2 : Nat} {a3 : Nat} {a4 : Nat} (h : P s) :
    P (State.loadBytes s a1 a2 a3 a4) := by
  unfold State.loadBytes
  exact keep_putFold hP (fun e : Nat × Byte => _ + (e.1 - _)) (fun e => e.2) _ (State.fillZero_keeps hP h)

theorem State.loadBegin_keeps {P : State → Prop} (hP : StableMem P) {s : State} {a1 : Cmd} (h : P s) :
    P (State.loadBegin s a1) := by
  unfold State.loadBegin
  extract_lets t1 t2 t3 t4 t5
  clear_value t1 t2
  have h6 : P t3 := by
    unfold t3
    split
    · with_reducible apply State.loadBytes_keeps hP
      with_reducible assumption
    · with_reducible assumption
  clear_value t3
  have h7 : P t4 := by
    unfold t4
    with_reducible apply keep_foldl (Q := P)
    · with_reducible assumption
    · intro x8 x9 x10
      extract_lets t11
      clear_value t11
      with_reducible apply State.putRegion_keeps hP.toStable
      with_reducible assumption
  clear_value t4 t5
  with_reducible apply State.setMslot_keeps hP.toStable
  with_reducible assumption

theorem State.footingRead_keeps {P : State → Prop} (hP : Stable P) {s : State} {a1 : Nat} (h : P s) :
    P (State.footingRead s a1) := by
  unfold State.footingRead
  with_reducible apply hP.rest
  with_reducible assumption

theorem State.footingUe_keeps {P : State → Prop} (hP : Stable P) {s : State} {a1 : List Nat} (h : P s) :
    P (State.footingUe s a1) := by
  unfold State.footingUe
  with_reducible apply keep_foldl (Q := P)
  · with_reducible assumption
  · intro x1 x2 x3
    with_reducible apply State.err_keeps hP
    with_reducible apply State.bump_keeps hP
    with_reducible assumption

theorem State.footingRetry_keeps {P : State → Prop} (hP : Stable P) {s : State} (h : P s) :
    P (State.footingRetry s) := by
  unfold State.footingRetry
  with_reducible apply keep_foldl (Q := P)
  · with_reducible assumption
  · intro x1 x2 x3
    with_reducible apply State.bump_keeps hP
    with_reducible assumption

theorem State.loadOver_keeps {P : State → Prop} (hP : Stable P) {s : State} {a1 : Nat} (h : P s) :
    P (State.loadOver s a1) := by
  unfold State.loadOver
  extract_lets t1 t2
  have h3 : P t1 := by
    unfold t1
    with_reducible apply State.keyOut_keeps hP
    with_reducible assumption
  clear_value t1 t2
  with_reducible apply hP.rest
  with_reducible assumption

theorem execModelLoadBlock_keeps {P : State → Prop} (hP : StableMem P) {a0 : Nat} {a1 : Bool} {a2 : Bool} {a3 : List Nat} {s : State} (h : P s) :
    (Nxt P) (execModelLoadBlock a0 a1 a2 a3 s) := by
  unfold execModelLoadBlock
  split
  · with_reducible apply done_keeps hP.toStable
    with_reducible assumption
  · extract_lets t1 t2 t3 t4 t5
    have h6 : P t2 := by
      unfold t2
      with_reducible apply State.keyIn_keeps hP.toStable
      with_reducible refine keep_ite (fun _ => ?_) (fun _ => ?_)
      · with_reducible apply State.loadBegin_keeps hP
        with_reducible assumption
      · with_reducible assumption
    clear_value t2 t3 t4
    have h7 : P t5 := by
      unfold t5
      with_reducible apply State.footingRead_keeps hP.toStable
      with_reducible apply State.footingUe_keeps hP.toStable
      with_reducible refine keep_ite (fun _ => ?_) (fun _ => ?_)
      · with_reducible assumption
      · with_reducible apply State.footingRetry_keeps hP.toStable
        with_reducible assumption
    clear_value t5
    with_reducible refine keep_ite (fun _ => ?_) (fun _ => ?_)
    · with_reducible apply done_keeps hP.toStable
      with_reducible assumption
    · with_reducible refine keep_ite (fun _ => ?_) (fun _ => ?_)
      · with_reducible apply done_keeps hP.toStable
        with_reducible apply State.finish_keeps hP
        with_reducible apply State.loadOver_keeps hP.toStable
        with_reducible apply State.slotEmpty_keeps hP.toStable
        with_reducible assumption
      · split
        · with_reducible apply done_keeps hP.toStable
          with_reducible assumption
        · extract_lets t8
          have h9 : P t8 := by
            unfold t8
            with_reducible apply State.loadBytes_keeps hP
            with_reducible assumption
          clear_value t8
          with_reducible apply done_keeps hP.toStable
          with_reducible apply State.onCmd_keeps hP.toStable
          with_reducible apply State.chargeOwn_keeps hP.toStable
          with_reducible assumption

theorem State.installSet_keeps {P : State → Prop} (hP : Stable P) {s : State} {a1 : Nat} {a2 : Nat} (h : P s) :
    P (State.installSet s a1 a2) := by
  unfold State.installSet
  extract_lets t1 t2
  clear_value t1 t2
  with_reducible apply hP.rest
  with_reducible assumption

theorem State.installTables_keeps {P : State → Prop} (hP : Stable P) {s : State} {a1 : MSlot} {a2 : Nat → Byte} {a3 : List (Nat × Template)} (h : P s) :
    P (State.installTables s a1 a2 a3) := by
  unfold State.installTables
  extract_lets t1 t2 t3 t4
  clear_value t1 t2 t3
  have h5 : P t4 := by
    unfold t4
    with_reducible apply hP.rest
    with_reducible assumption
  clear_value t4
  split
  · with_reducible assumption
  · with_reducible apply keep_foldl (Q := P)
    · with_reducible assumption
    · intro x6 x7 x8
      with_reducible refine keep_ite (fun _ => ?_) (fun _ => ?_)
      · with_reducible assumption
      · with_reducible apply State.installSet_keeps hP
        with_reducible assumption

theorem execModelLoadComplete_keeps {P : State → Prop} (hP : StableMem P) {a0 : Nat} {a1 : List (Nat × Template)} {s : State} (h : P s) :
    (Nxt P) (execModelLoadComplete a0 a1 s) := by
  unfold execModelLoadComplete
  split
  · with_reducible apply done_keeps hP.toStable
    with_reducible assumption
  · extract_lets t1 t2 t3 t4 t5 t6
    clear_value t1 t2
    have h7 : P t3 := by
      unfold t3
      with_reducible apply State.installTables_keeps hP.toStable
      with_reducible assumption
    clear_value t3
    have h8 : P t4 := by
      unfold t4
      with_reducible apply keep_foldl (Q := P)
      · with_reducible assumption
      · intro x9 x10 x11
        with_reducible apply State.putRegion_keeps hP.toStable
        with_reducible assumption
    clear_value t4
    have h12 : P t5 := by
      unfold t5
      with_reducible apply State.setMslot_keeps hP.toStable
      with_reducible assumption
    clear_value t5
    have h13 : P t6 := by
      unfold t6
      with_reducible apply State.measure_keeps hP.toStable
      with_reducible assumption
    clear_value t6
    with_reducible refine keep_ite (fun _ => ?_) (fun _ => ?_)
    · with_reducible apply done_keeps hP.toStable
      with_reducible assumption
    · with_reducible apply done_keeps hP.toStable
      with_reducible apply State.finish_keeps hP
      with_reducible apply State.loadOver_keeps hP.toStable
      with_reducible apply State.journalClose_keeps hP.toStable
      with_reducible assumption

theorem State.noteSnr_keeps {P : State → Prop} (hP : Stable P) {s : State} {a1 : Nat} (h : P s) :
    P (State.noteSnr s a1) := by
  unfold State.noteSnr
  extract_lets t1
  have h2 : (Snd (P)) t1 := by
    unfold t1
    with_reducible apply State.free_keeps hP
    with_reducible assumption
  clear_value t1
  with_reducible apply State.setF_keeps hP
  with_reducible assumption

theorem execTrainingDone_keeps {P : State → Prop} (hP : StableMem P) {a0 : Nat} {a1 : Nat} {s : State} (h : P s) :
    (Nxt P) (execTrainingDone a0 a1 s) := by
  unfold execTrainingDone
  with_reducible refine keep_ite (fun _ => ?_) (fun _ => ?_)
  · with_reducible apply done_keeps hP.toStable
    with_reducible assumption
  · with_reducible refine keep_ite (fun _ => ?_) (fun _ => ?_)
    · with_reducible apply done_keeps hP.toStable
      with_reducible apply State.linkDown_keeps hP
      with_reducible assumption
    · extract_lets t1 t2
      have h3 : P t1 := by
        unfold t1
        with_reducible apply State.setF_keeps hP.toStable
        with_reducible apply State.setF_keeps hP.toStable
        with_reducible assumption
      clear_value t1
      have h4 : P t2 := by
        unfold t2
        with_reducible refine keep_ite (fun _ => ?_) (fun _ => ?_)
        · with_reducible apply State.err_keeps hP.toStable
          with_reducible assumption
        · with_reducible assumption
      clear_value t2
      with_reducible apply done_keeps hP.toStable
      with_reducible apply State.kxSet_keeps hP.toStable
      with_reducible apply State.sendKx_keeps hP.toStable
      with_reducible apply State.noteSnr_keeps hP.toStable
      with_reducible assumption

theorem execTrainingTimeout_keeps {P : State → Prop} (hP : StableMem P) {a0 : Nat} {a1 : Nat} {s : State} (h : P s) :
    (Nxt P) (execTrainingTimeout a0 a1 s) := by
  unfold execTrainingTimeout
  with_reducible apply done_keeps hP.toStable
  with_reducible refine keep_ite (fun _ => ?_) (fun _ => ?_)
  · with_reducible apply State.linkDown_keeps hP
    with_reducible assumption
  · with_reducible assumption

theorem State.keyFail_keeps {P : State → Prop} (hP : StableMem P) {s : State} {a1 : Nat} (h : P s) :
    P (State.keyFail s a1) := by
  unfold State.keyFail
  with_reducible apply State.linkDown_keeps hP
  with_reducible apply State.err_keeps hP.toStable
  with_reducible assumption

theorem execKeyingTimeout_keeps {P : State → Prop} (hP : StableMem P) {a0 : Nat} {a1 : Nat} {s : State} (h : P s) :
    (Nxt P) (execKeyingTimeout a0 a1 s) := by
  unfold execKeyingTimeout
  with_reducible apply done_keeps hP.toStable
  with_reducible refine keep_ite (fun _ => ?_) (fun _ => ?_)
  · with_reducible apply State.keyFail_keeps hP
    with_reducible assumption
  · with_reducible assumption

theorem State.epochSeen_keeps {P : State → Prop} (hP : Stable P) {s : State} {a1 : Nat} {a2 : Nat} (h : P s) :
    P (State.epochSeen s a1 a2) := by
  unfold State.epochSeen
  with_reducible refine keep_ite (fun _ => ?_) (fun _ => ?_)
  · with_reducible apply State.kxSwitch_keeps hP
    with_reducible assumption
  · with_reducible assumption

theorem State.sendIdle_keeps {P : State → Prop} (hP : Stable P) {s : State} {a1 : Nat} {a2 : Nat} {a3 : Nat} (h : P s) :
    P (State.sendIdle s a1 a2 a3) := by
  unfold State.sendIdle
  with_reducible apply State.emit_keeps hP
  with_reducible refine keep_ite (fun _ => ?_) (fun _ => ?_)
  · with_reducible apply State.setPair_keeps hP
    with_reducible assumption
  · with_reducible assumption

theorem execFrameReceive_keeps {P : State → Prop} (hP : Stable P) {a0 : Nat} {a1 : Nat} {a2 : Nat} {a3 : Nat} {a4 : Nat} {a5 : Nat} {a6 : Nat} {a7 : Nat} {a8 : Nat} {a9 : Bool} {a10 : Bool} {a11 : Bool} {s : State} (h : P s) :
    (Nxt P) (execFrameReceive a0 a1 a2 a3 a4 a5 a6 a7 a8 a9 a10 a11 s) := by
  unfold execFrameReceive
  extract_lets t1 t2 t3 t4 t5 t6 t7 t8 t9 t10 t11 t12 t13
  clear_value t1
  have h14 : P t2 := by
    unfold t2
    with_reducible apply State.bump_keeps hP
    with_reducible assumption
  clear_value t2
  have h15 : P t3 := by
    unfold t3
    with_reducible refine keep_ite (fun _ => ?_) (fun _ => ?_)
    · with_reducible apply State.epochSeen_keeps hP
      with_reducible assumption
    · with_reducible assumption
  clear_value t3 t4
  have h16 : ∀ y0, P y0 → (P) (t5 y0) := by
    unfold t5
    intro x17 x18
    with_reducible apply State.sendIdle_keeps hP
    with_reducible assumption
  clear_value t5
  have h19 : P t6 := by
    unfold t6
    with_reducible apply State.bump_keeps hP
    with_reducible assumption
  clear_value t6
  have h20 : P t7 := by
    unfold t7
    with_reducible refine keep_ite (fun _ => ?_) (fun _ => ?_)
    · with_reducible assumption
    · with_reducible apply State.bump_keeps hP
      with_reducible assumption
  clear_value t7 t8 t9
  have h21 : P t10 := by
    unfold t10
    with_reducible apply State.setQlink_keeps hP
    with_reducible assumption
  clear_value t10 t11
  have h22 : P t12 := by
    unfold t12
    with_reducible apply State.setQlink_keeps hP
    with_reducible assumption
  clear_value t12
  have h23 : P t13 := by
    unfold t13
    with_reducible refine keep_ite (fun _ => ?_) (fun _ => ?_)
    · with_reducible assumption
    · with_reducible refine keep_ite (fun _ => ?_) (fun _ => ?_)
      · with_reducible apply h16
        with_reducible assumption
      · with_reducible refine keep_ite (fun _ => ?_) (fun _ => ?_)
        · with_reducible assumption
        · with_reducible apply State.setPair_keeps hP
          with_reducible assumption
  clear_value t13
  with_reducible refine keep_ite (fun _ => ?_) (fun _ => ?_)
  · with_reducible apply done_keeps hP
    with_reducible assumption
  · with_reducible refine keep_ite (fun _ => ?_) (fun _ => ?_)
    · with_reducible apply done_keeps hP
      with_reducible apply h16
      with_reducible refine keep_ite (fun _ => ?_) (fun _ => ?_)
      · with_reducible apply State.err_keeps hP
        with_reducible assumption
      · with_reducible assumption
    · with_reducible refine keep_ite (fun _ => ?_) (fun _ => ?_)
      · with_reducible apply done_keeps hP
        with_reducible refine keep_ite (fun _ => ?_) (fun _ => ?_)
        · with_reducible apply h16
          with_reducible assumption
        · with_reducible assumption
      · with_reducible refine keep_ite (fun _ => ?_) (fun _ => ?_)
        · with_reducible apply done_keeps hP
          with_reducible assumption
        · with_reducible apply done_keeps hP
          with_reducible apply State.linkGo_keeps hP
          with_reducible assumption

theorem execRetrainDone_keeps {P : State → Prop} (hP : StableMem P) {a0 : Nat} {a1 : Bool} {s : State} (h : P s) :
    (Nxt P) (execRetrainDone a0 a1 s) := by
  unfold execRetrainDone
  extract_lets t1 t2
  clear_value t1
  have h3 : P t2 := by
    unfold t2
    with_reducible apply State.setFlag_keeps hP.toStable
    with_reducible apply State.setQlink_keeps hP.toStable
    with_reducible assumption
  clear_value t2
  with_reducible refine keep_ite (fun _ => ?_) (fun _ => ?_)
  · with_reducible apply done_keeps hP.toStable
    with_reducible assumption
  · with_reducible refine keep_ite (fun _ => ?_) (fun _ => ?_)
    · with_reducible apply done_keeps hP.toStable
      with_reducible apply State.linkWakes_keeps hP.toStable
      with_reducible apply State.resend_keeps hP.toStable
      with_reducible apply State.noteSnr_keeps hP.toStable
      with_reducible assumption
    · with_reducible refine keep_ite (fun _ => ?_) (fun _ => ?_)
      · with_reducible apply done_keeps hP.toStable
        with_reducible apply State.linkDown_keeps hP
        with_reducible assumption
      · with_reducible apply done_keeps hP.toStable
        with_reducible apply State.err_keeps hP.toStable
        with_reducible apply State.bump_keeps hP.toStable
        with_reducible apply State.setQlink_keeps hP.toStable
        with_reducible assumption

theorem State.remoteCheck_keeps {P : State → Prop} (hP : Stable P) {s : State} {a1 : Nat} {a2 : Nat} {a3 : Nat} {a4 : Nat} {a5 : Nat} {a6 : Nat} {a7 : Bool} (h : P s) :
    (Exc (Snd P) Any) (State.remoteCheck s a1 a2 a3 a4 a5 a6 a7) := by
  unfold State.remoteCheck
  with_reducible refine keep_ite (fun _ => ?_) (fun _ => ?_)
  · with_reducible apply keep_error
    with_reducible assumption
  · with_reducible refine keep_ite (fun _ => ?_) (fun _ => ?_)
    · with_reducible apply keep_error
      with_reducible assumption
    · with_reducible refine keep_ite (fun _ => ?_) (fun _ => ?_)
      · with_reducible apply keep_error
        with_reducible apply keep_pair_snd
        with_reducible apply State.err_keeps hP
        with_reducible apply State.bump_keeps hP
        with_reducible assumption
      · split
        · with_reducible apply keep_error
          with_reducible apply keep_pair_snd
          with_reducible apply State.err_keeps hP
          with_reducible apply State.bump_keeps hP
          with_reducible assumption
        · with_reducible apply keep_ok
          trivial

theorem State.ingress_keeps {P : State → Prop} (hP : StableMem P) {s : State} {a1 : Nat} {a2 : Nat} {a3 : Nat} {a4 : Nat} {a5 : Nat} {a6 : Nat} {a7 : Bool} {a8 : Bool} {a9 : Access} (h : P s) :
    P (State.ingress s a1 a2 a3 a4 a5 a6 a7 a8 a9) := by
  unfold State.ingress
  extract_lets t1
  clear_value t1
  with_reducible refine keep_ite (fun _ => ?_) (fun _ => ?_)
  · with_reducible assumption
  · split
    · with_reducible apply State.answer_keeps hP.toStable
      with_reducible apply keep_snd
      refine keep_of_error' (Q := Snd P) (R := Any) ‹_ = Except.error _› ?_
      with_reducible apply State.remoteCheck_keeps hP.toStable
      with_reducible assumption
    · with_reducible apply State.enter_keeps hP
      with_reducible assumption

theorem execRrd_keeps {P : State → Prop} (hP : StableMem P) {a0 : Nat} {a1 : Nat} {a2 : Nat} {a3 : Nat} {a4 : Nat} {a5 : Nat} {a6 : Nat} {a7 : Bool} {s : State} (h : P s) :
    (Nxt P) (execRrd a0 a1 a2 a3 a4 a5 a6 a7 s) := by
  unfold execRrd
  with_reducible apply done_keeps hP.toStable
  with_reducible apply State.ingress_keeps hP
  with_reducible assumption

theorem execRwr_keeps {P : State → Prop} (hP : StableMem P) {a0 : Nat} {a1 : Nat} {a2 : Nat} {a3 : Nat} {a4 : Nat} {a5 : Nat} {a6 : List Byte} {a7 : Bool} {s : State} (h : P s) :
    (Nxt P) (execRwr a0 a1 a2 a3 a4 a5 a6 a7 s) := by
  unfold execRwr
  with_reducible apply done_keeps hP.toStable
  with_reducible apply State.ingress_keeps hP
  with_reducible assumption

theorem execRadd_keeps {P : State → Prop} (hP : StableMem P) {a0 : Nat} {a1 : Nat} {a2 : Nat} {a3 : Nat} {a4 : Nat} {a5 : Nat} {a6 : Nat} {a7 : List Byte} {a8 : Bool} {s : State} (h : P s) :
    (Nxt P) (execRadd a0 a1 a2 a3 a4 a5 a6 a7 a8 s) := by
  unfold execRadd
  with_reducible apply done_keeps hP.toStable
  with_reducible apply State.ingress_keeps hP
  with_reducible assumption

theorem execOwnrd_keeps {P : State → Prop} (hP : StableMem P) {a0 : Nat} {a1 : Nat} {a2 : Nat} {a3 : Nat} {a4 : Nat} {a5 : Nat} {a6 : Nat} {a7 : Bool} {s : State} (h : P s) :
    (Nxt P) (execOwnrd a0 a1 a2 a3 a4 a5 a6 a7 s) := by
  unfold execOwnrd
  with_reducible apply done_keeps hP.toStable
  with_reducible apply State.ingress_keeps hP
  with_reducible assumption

theorem State.response_keeps {P : State → Prop} (hP : StableMem P) {s : State} {a1 : Nat} {a2 : Nat} {a3 : Nat} {a4 : List Byte} {a5 : Bool} (h : P s) :
    P (State.response s a1 a2 a3 a4 a5) := by
  unfold State.response
  with_reducible refine keep_ite (fun _ => ?_) (fun _ => ?_)
  · with_reducible assumption
  · with_reducible refine keep_ite (fun _ => ?_) (fun _ => ?_)
    · with_reducible apply hP.toStable.rest
      with_reducible assumption
    · extract_lets t1
      clear_value t1
      split
      · with_reducible assumption
      · with_reducible refine keep_ite (fun _ => ?_) (fun _ => ?_)
        · with_reducible assumption
        · with_reducible apply State.linkGo_keeps hP.toStable
          with_reducible apply State.answerUse_keeps hP
          with_reducible apply State.setQlink_keeps hP.toStable
          with_reducible assumption

theorem execRack_keeps {P : State → Prop} (hP : StableMem P) {a0 : Nat} {a1 : Nat} {a2 : Nat} {s : State} (h : P s) :
    (Nxt P) (execRack a0 a1 a2 s) := by
  unfold execRack
  with_reducible apply done_keeps hP.toStable
  with_reducible apply State.response_keeps hP
  with_reducible assumption

theorem execRdat_keeps {P : State → Prop} (hP : StableMem P) {a0 : Nat} {a1 : Nat} {a2 : Nat} {a3 : List Byte} {s : State} (h : P s) :
    (Nxt P) (execRdat a0 a1 a2 a3 s) := by
  unfold execRdat
  with_reducible apply done_keeps hP.toStable
  with_reducible apply State.response_keeps hP
  with_reducible assumption

theorem execKxHello_keeps {P : State → Prop} (hP : StableMem P) {a0 : Nat} {a1 : Nat} {a2 : Nat} {a3 : List Byte} {a4 : Bool} {s : State} (h : P s) :
    (Nxt P) (execKxHello a0 a1 a2 a3 a4 s) := by
  unfold execKxHello
  with_reducible refine keep_ite (fun _ => ?_) (fun _ => ?_)
  · with_reducible apply done_keeps hP.toStable
    with_reducible assumption
  · extract_lets t1 t2
    have h3 : P t1 := by
      unfold t1
      with_reducible apply State.setF_keeps hP.toStable
      with_reducible apply State.setFlag_keeps hP.toStable
      with_reducible assumption
    clear_value t1 t2
    with_reducible refine keep_ite (fun _ => ?_) (fun _ => ?_)
    · with_reducible apply done_keeps hP.toStable
      with_reducible apply State.keyFail_keeps hP
      with_reducible assumption
    · with_reducible refine keep_ite (fun _ => ?_) (fun _ => ?_)
      · with_reducible apply done_keeps hP.toStable
        with_reducible apply State.keyFail_keeps hP
        with_reducible apply State.err_keeps hP.toStable
        with_reducible assumption
      · with_reducible apply done_keeps hP.toStable
        with_reducible apply State.kxBegin_keeps hP.toStable
        with_reducible apply State.kxSet_keeps hP.toStable
        with_reducible apply State.setQlink_keeps hP.toStable
        with_reducible assumption

theorem State.keysDerived_keeps {P : State → Prop} (hP : Stable P) {s : State} {a1 : Nat} (h : P s) :
    P (State.keysDerived s a1) := by
  unfold State.keysDerived
  extract_lets t1 t2
  have h3 : P t1 := by
    unfold t1
    with_reducible apply State.kxSet_keeps hP
    with_reducible assumption
  clear_value t1
  have h4 : P t2 := by
    unfold t2
    with_reducible refine keep_ite (fun _ => ?_) (fun _ => ?_)
    · with_reducible assumption
    · with_reducible apply State.setF_keeps hP
      with_reducible assumption
  clear_value t2
  with_reducible apply State.sendIdle_keeps hP
  with_reducible apply State.setPair_keeps hP
  with_reducible assumption

theorem execKxInit_keeps {P : State → Prop} (hP : StableMem P) {a0 : Nat} {a1 : Bool} {s : State} (h : P s) :
    (Nxt P) (execKxInit a0 a1 s) := by
  unfold execKxInit
  extract_lets t1 t2
  clear_value t1
  have h3 : P t2 := by
    unfold t2
    with_reducible refine keep_ite (fun _ => ?_) (fun _ => ?_)
    · with_reducible apply State.setQlink_keeps hP.toStable
      with_reducible apply State.setFlag_keeps hP.toStable
      with_reducible assumption
    · with_reducible assumption
  clear_value t2
  with_reducible refine keep_ite (fun _ => ?_) (fun _ => ?_)
  · with_reducible apply done_keeps hP.toStable
    with_reducible assumption
  · with_reducible refine keep_ite (fun _ => ?_) (fun _ => ?_)
    · with_reducible apply done_keeps hP.toStable
      with_reducible apply State.keyFail_keeps hP
      with_reducible assumption
    · with_reducible apply done_keeps hP.toStable
      with_reducible apply State.keysDerived_keeps hP.toStable
      with_reducible apply State.sendKx_keeps hP.toStable
      with_reducible apply State.kxSet_keeps hP.toStable
      with_reducible assumption

theorem execKxResp_keeps {P : State → Prop} (hP : StableMem P) {a0 : Nat} {a1 : Bool} {s : State} (h : P s) :
    (Nxt P) (execKxResp a0 a1 s) := by
  unfold execKxResp
  with_reducible refine keep_ite (fun _ => ?_) (fun _ => ?_)
  · with_reducible apply done_keeps hP.toStable
    with_reducible assumption
  · with_reducible refine keep_ite (fun _ => ?_) (fun _ => ?_)
    · with_reducible apply done_keeps hP.toStable
      with_reducible apply State.keyFail_keeps hP
      with_reducible assumption
    · with_reducible apply done_keeps hP.toStable
      with_reducible apply State.keysDerived_keeps hP.toStable
      with_reducible assumption

theorem execCreditTimeout_keeps {P : State → Prop} (hP : StableMem P) {a0 : Nat} {a1 : Nat} {s : State} (h : P s) :
    (Nxt P) (execCreditTimeout a0 a1 s) := by
  unfold execCreditTimeout
  extract_lets t1 t2
  clear_value t1 t2
  with_reducible apply done_keeps hP.toStable
  with_reducible refine keep_ite (fun _ => ?_) (fun _ => ?_)
  · with_reducible apply State.linkDown_keeps hP
    with_reducible assumption
  · with_reducible assumption

theorem execResponseTimeout_keeps {P : State → Prop} (hP : StableMem P) {a0 : Nat} {a1 : Nat} {a2 : Nat} {s : State} (h : P s) :
    (Nxt P) (execResponseTimeout a0 a1 a2 s) := by
  unfold execResponseTimeout
  with_reducible apply done_keeps hP.toStable
  with_reducible refine keep_ite (fun _ => ?_) (fun _ => ?_)
  · with_reducible apply State.linkDown_keeps hP
    with_reducible assumption
  · with_reducible assumption

theorem execRekeyDue_keeps {P : State → Prop} (hP : Stable P) {a0 : Nat} {a1 : Nat} {s : State} (h : P s) :
    (Nxt P) (execRekeyDue a0 a1 s) := by
  unfold execRekeyDue
  extract_lets t1 t2
  clear_value t1 t2
  with_reducible refine keep_ite (fun _ => ?_) (fun _ => ?_)
  · with_reducible apply done_keeps hP
    with_reducible assumption
  · with_reducible refine keep_ite (fun _ => ?_) (fun _ => ?_)
    · with_reducible apply done_keeps hP
      with_reducible apply State.setQlink_keeps hP
      with_reducible assumption
    · with_reducible apply done_keeps hP
      with_reducible apply State.rekey_keeps hP
      with_reducible assumption

theorem execTagFailureLimit_keeps {P : State → Prop} (hP : StableMem P) {a0 : Nat} {a1 : Nat} {a2 : Nat} {s : State} (h : P s) :
    (Nxt P) (execTagFailureLimit a0 a1 a2 s) := by
  unfold execTagFailureLimit
  with_reducible apply done_keeps hP.toStable
  with_reducible refine keep_ite (fun _ => ?_) (fun _ => ?_)
  · with_reducible apply State.linkDown_keeps hP
    with_reducible apply State.err_keeps hP.toStable
    with_reducible assumption
  · with_reducible assumption

theorem State.putHash_keeps {P : State → Prop} (hP : Stable P) {s : State} {a1 : Nat} {a2 : List Byte} (h : P s) :
    P (State.putHash s a1 a2) := by
  unfold State.putHash
  with_reducible apply keep_foldl (Q := P)
  · with_reducible assumption
  · intro x1 x2 x3
    with_reducible apply State.setReg_keeps hP
    with_reducible assumption

theorem execKsCerts_keeps {P : State → Prop} (hP : StableMem P) {s : State} (h : P s) :
    (Nxt P) (execKsCerts s) := by
  unfold execKsCerts
  with_reducible apply State.ksRow_keeps hP
  · with_reducible assumption
  · intro x1 x2 x3 x4
    with_reducible apply keep_pair_snd
    with_reducible apply keep_pair_snd
    with_reducible apply State.writeB_keeps hP
    with_reducible assumption

theorem execKsAttest_keeps {P : State → Prop} (hP : StableMem P) {a0 : List Byte} {s : State} (h : P s) :
    (Nxt P) (execKsAttest a0 s) := by
  unfold execKsAttest
  with_reducible apply State.ksRow_keeps hP
  · with_reducible assumption
  · intro x1 x2 x3 x4
    extract_lets t5 t6
    clear_value t5
    have h7 : P t6 := by
      unfold t6
      with_reducible apply State.setPair_keeps hP.toStable
      with_reducible assumption
    clear_value t6
    with_reducible refine keep_ite (fun _ => ?_) (fun _ => ?_)
    · with_reducible assumption
    · with_reducible apply keep_pair_snd
      with_reducible apply keep_pair_snd
      with_reducible apply State.writeB_keeps hP
      with_reducible assumption

theorem execKsBind_keeps {P : State → Prop} (hP : StableMem P) {s : State} (h : P s) :
    (Nxt P) (execKsBind s) := by
  unfold execKsBind
  with_reducible apply State.ksRow_keeps hP
  · with_reducible assumption
  · intro x1 x2 x3 x4
    extract_lets t5 t6 t7 t8 t9 t10 t11 t12 t13
    clear_value t5 t6
    have h14 : (Snd (Snd (P))) t7 := by
      unfold t7
      with_reducible apply State.readB_keeps hP
      with_reducible assumption
    clear_value t7 t8
    have h15 : P t9 := by
      unfold t9
      with_reducible assumption
    clear_value t9 t10
    have h16 : P t11 := by
      unfold t11
      with_reducible apply hP.toStable.rest
      with_reducible assumption
    clear_value t11
    have h17 : P t12 := by
      unfold t12
      with_reducible apply State.setReg_keeps hP.toStable
      with_reducible apply State.setBit_keeps hP.toStable
      with_reducible apply State.putHash_keeps hP.toStable
      with_reducible assumption
    clear_value t12
    have h18 : P t13 := by
      unfold t13
      with_reducible apply State.measure_keeps hP.toStable
      with_reducible apply State.clearMeas_keeps hP.toStable
      with_reducible apply State.clearGrants_keeps hP.toStable
      with_reducible apply State.setReg_keeps hP.toStable
      with_reducible assumption
    clear_value t13
    with_reducible refine keep_ite (fun _ => ?_) (fun _ => ?_)
    · with_reducible apply State.refuseObject_keeps hP.toStable
      with_reducible assumption
    · with_reducible refine keep_ite (fun _ => ?_) (fun _ => ?_)
      · with_reducible apply State.refuseObject_keeps hP.toStable
        with_reducible assumption
      · with_reducible refine keep_ite (fun _ => ?_) (fun _ => ?_)
        · with_reducible apply State.refuseObject_keeps hP.toStable
          with_reducible assumption
        · with_reducible refine keep_ite (fun _ => ?_) (fun _ => ?_)
          · with_reducible apply State.refuseObject_keeps hP.toStable
            with_reducible assumption
          · with_reducible assumption

theorem execGrantHostRights_keeps {P : State → Prop} (hP : StableMem P) {a0 : Bool} {s : State} (h : P s) :
    (Nxt P) (execGrantHostRights a0 s) := by
  unfold execGrantHostRights
  with_reducible apply State.grantRow_keeps hP
  with_reducible assumption

theorem execGrantImport_keeps {P : State → Prop} (hP : StableMem P) {a0 : Bool} {s : State} (h : P s) :
    (Nxt P) (execGrantImport a0 s) := by
  unfold execGrantImport
  with_reducible apply State.grantRow_keeps hP
  with_reducible assumption

theorem execKsPeer_keeps {P : State → Prop} (hP : StableMem P) {s : State} (h : P s) :
    (Nxt P) (execKsPeer s) := by
  unfold execKsPeer
  with_reducible apply State.ksRow_keeps hP
  · with_reducible assumption
  · intro x1 x2 x3 x4
    extract_lets t5 t6 t7 t8 t9 t10 t11 t12 t13
    clear_value t5 t6
    have h14 : (Snd (Snd (P))) t7 := by
      unfold t7
      with_reducible apply State.readB_keeps hP
      with_reducible assumption
    clear_value t7 t8
    have h15 : P t9 := by
      unfold t9
      with_reducible assumption
    clear_value t9 t10
    have h16 : P t11 := by
      unfold t11
      with_reducible apply hP.toStable.rest
      with_reducible assumption
    clear_value t11
    have h17 : P t12 := by
      unfold t12
      with_reducible apply State.measure_keeps hP.toStable
      with_reducible apply State.setF_keeps hP.toStable
      with_reducible apply State.setF_keeps hP.toStable
      with_reducible assumption
    clear_value t12 t13
    with_reducible refine keep_ite (fun _ => ?_) (fun _ => ?_)
    · with_reducible assumption
    · with_reducible refine keep_ite (fun _ => ?_) (fun _ => ?_)
      · with_reducible assumption
      · with_reducible apply keep_pair_snd
        with_reducible apply keep_pair_snd
        with_reducible apply keep_foldl (Q := P)
        · with_reducible assumption
        · intro x18 x19 x20
          with_reducible apply State.linkDown_keeps hP
          with_reducible apply State.err_keeps hP.toStable
          with_reducible assumption

theorem execKsDebug_keeps {P : State → Prop} (hP : StableMem P) {a0 : Bool} {s : State} (h : P s) :
    (Nxt P) (execKsDebug a0 s) := by
  unfold execKsDebug
  with_reducible apply State.ksRow_keeps hP
  · with_reducible assumption
  · intro x1 x2 x3 x4
    extract_lets t5 t6 t7 t8 t9 t10
    have h11 : (Snd (Snd (P))) t5 := by
      unfold t5
      with_reducible apply State.readB_keeps hP
      with_reducible assumption
    clear_value t5 t6
    have h12 : P t7 := by
      unfold t7
      with_reducible assumption
    clear_value t7 t8 t9
    have h13 : P t10 := by
      unfold t10
      with_reducible apply State.setF_keeps hP.toStable
      with_reducible assumption
    clear_value t10
    with_reducible refine keep_ite (fun _ => ?_) (fun _ => ?_)
    · with_reducible apply State.refuseObject_keeps hP.toStable
      with_reducible assumption
    · with_reducible apply keep_pair_snd
      with_reducible apply keep_pair_snd
      with_reducible apply State.measure_keeps hP.toStable
      with_reducible apply State.err_keeps hP.toStable
      with_reducible apply State.setFlag_keeps hP.toStable
      with_reducible apply State.setFlag_keeps hP.toStable
      with_reducible assumption

theorem execThermalTrip_keeps {P : State → Prop} (hP : StableMem P) {a0 : Nat} {a1 : Nat} {s : State} (h : P s) :
    (Nxt P) (execThermalTrip a0 a1 s) := by
  unfold execThermalTrip
  extract_lets t1
  have h2 : P t1 := by
    unfold t1
    with_reducible apply State.at_keeps hP.toStable
    with_reducible assumption
  clear_value t1
  with_reducible refine keep_ite (fun _ => ?_) (fun _ => ?_)
  · with_reducible apply done_keeps hP.toStable
    with_reducible apply State.shutdown_keeps hP
    with_reducible assumption
  · with_reducible apply done_keeps hP.toStable
    with_reducible assumption

theorem execVinPrsntMate_keeps {P : State → Prop} (hP : Stable P) {s : State} (h : P s) :
    (Nxt P) (execVinPrsntMate s) := by
  unfold execVinPrsntMate
  with_reducible apply done_keeps hP
  with_reducible apply State.setPw_keeps hP
  with_reducible assumption

theorem execInputBelow30V_keeps {P : State → Prop} (hP : StableMem P) {a0 : Nat} {s : State} (h : P s) :
    (Nxt P) (execInputBelow30V a0 s) := by
  unfold execInputBelow30V
  with_reducible refine keep_ite (fun _ => ?_) (fun _ => ?_)
  · with_reducible apply done_keeps hP.toStable
    with_reducible apply State.setPw_keeps hP.toStable
    with_reducible apply State.volatileLost_keeps hP
    with_reducible assumption
  · with_reducible apply done_keeps hP.toStable
    with_reducible assumption

theorem execColdResetNRise_keeps {P : State → Prop} (hP : Stable P) {s : State} (h : P s) :
    (Nxt P) (execColdResetNRise s) := by
  unfold execColdResetNRise
  with_reducible apply done_keeps hP
  with_reducible apply State.setPw_keeps hP
  with_reducible assumption

theorem execCounterExhausted_keeps {P : State → Prop} (hP : StableMem P) {a0 : Nat} {s : State} (h : P s) :
    (Nxt P) (execCounterExhausted a0 s) := by
  unfold execCounterExhausted
  with_reducible apply done_keeps hP.toStable
  with_reducible refine keep_ite (fun _ => ?_) (fun _ => ?_)
  · with_reducible apply State.linkDown_keeps hP
    with_reducible assumption
  · with_reducible assumption

end Sys2Proof.Machine
end

