-- ==== Sys2Proof/Laws/KeepE.lean ====
section
/-! SUPPORT. What the operations over integrity, resets, recovery, start-up, update and silence keep (see Keep.lean). -/

namespace Sys2Proof.Machine

theorem State.setBack_keeps {P : State → Prop} (hP : Stable P) {s : State} {a1 : Blk} {a2 : Nat} (h : P s) :
    P (State.setBack s a1 a2) := by
  unfold State.setBack
  with_reducible apply State.setUnit_keeps hP
  with_reducible assumption

theorem State.wantReloads_keeps {P : State → Prop} (hP : Stable P) {s : State} {a1 : List Nat} (h : P s) :
    P (State.wantReloads s a1) := by
  unfold State.wantReloads
  extract_lets t1 t2
  clear_value t1 t2
  with_reducible apply hP.rest
  with_reducible assumption

theorem State.resetEnd_keeps {P : State → Prop} (hP : StableMem P) {s : State} {a1 : Blk} {a2 : Nat} {a3 : Bool} (h : P s) :
    P (State.resetEnd s a1 a2 a3) := by
  unfold State.resetEnd
  extract_lets t1 t2 t3 t4 t5 t6 t7
  have h8 : P t1 := by
    unfold t1
    with_reducible apply State.setFlag_keeps hP.toStable
    with_reducible assumption
  clear_value t1
  have h9 : P t2 := by
    unfold t2
    with_reducible apply State.clearBrick_keeps hP
    with_reducible assumption
  clear_value t2 t3
  have h10 : P t4 := by
    unfold t4
    with_reducible apply hP.toStable.rest
    with_reducible assumption
  clear_value t4
  have h11 : P t5 := by
    unfold t5
    with_reducible apply State.setFlag_keeps hP.toStable
    with_reducible apply State.setReg_keeps hP.toStable
    with_reducible apply State.setReg_keeps hP.toStable
    with_reducible apply State.setReg_keeps hP.toStable
    with_reducible assumption
  clear_value t5 t6
  have h12 : P t7 := by
    unfold t7
    split
    · with_reducible apply keep_foldl (Q := P)
      · with_reducible assumption
      · intro x13 x14 x15
        with_reducible apply State.lineOut_keeps hP
        with_reducible assumption
    · with_reducible assumption
  clear_value t7
  split
  · with_reducible refine keep_ite (fun _ => ?_) (fun _ => ?_)
    · with_reducible apply State.setBack_keeps hP.toStable
      with_reducible assumption
    · with_reducible apply State.retireBrick_keeps hP.toStable
      with_reducible apply State.err_keeps hP.toStable
      with_reducible assumption
  · with_reducible apply State.setBack_keeps hP.toStable
    with_reducible assumption
  · with_reducible refine keep_ite (fun _ => ?_) (fun _ => ?_)
    · with_reducible apply State.setBack_keeps hP.toStable
      with_reducible assumption
    · with_reducible apply State.setUnit_keeps hP.toStable
      with_reducible apply State.err_keeps hP.toStable
      with_reducible assumption
  · with_reducible refine keep_ite (fun _ => ?_) (fun _ => ?_)
    · with_reducible apply State.err_keeps hP.toStable
      with_reducible apply State.setUnit_keeps hP.toStable
      with_reducible apply State.setF_keeps hP.toStable
      with_reducible assumption
    · with_reducible apply State.wantReloads_keeps hP.toStable
      with_reducible apply State.setBack_keeps hP.toStable
      with_reducible apply State.setF_keeps hP.toStable
      with_reducible apply State.fillStack_keeps hP
      with_reducible assumption
  · with_reducible apply State.setUnit_keeps hP.toStable
    with_reducible apply State.setF_keeps hP.toStable
    with_reducible assumption
  · with_reducible apply State.cytRestart_keeps hP.toStable
    with_reducible assumption
  · with_reducible assumption

theorem State.sweepStop_keeps {P : State → Prop} (hP : Stable P) {s : State} {a1 : Blk} {a2 : Nat} (h : P s) :
    P (State.sweepStop s a1 a2) := by
  unfold State.sweepStop
  extract_lets t1 t2
  clear_value t1
  have h3 : P t2 := by
    unfold t2
    with_reducible apply hP.rest
    with_reducible assumption
  clear_value t2
  with_reducible refine keep_ite (fun _ => ?_) (fun _ => ?_)
  · with_reducible apply State.setFlag_keeps hP
    with_reducible assumption
  · with_reducible assumption

theorem State.resetBegin_keeps {P : State → Prop} (hP : StableMem P) {s : State} {a1 : Blk} {a2 : Nat} (h : P s) :
    P (State.resetBegin s a1 a2) := by
  unfold State.resetBegin
  extract_lets t1
  have h2 : P t1 := by
    unfold t1
    with_reducible apply State.sweepStop_keeps hP.toStable
    with_reducible apply State.setFlag_keeps hP.toStable
    with_reducible assumption
  clear_value t1
  split
  · with_reducible apply State.setF_keeps hP.toStable
    with_reducible apply State.setUnit_keeps hP.toStable
    with_reducible apply State.stackGone_keeps hP
    with_reducible assumption
  · with_reducible apply State.linkTrain_keeps hP.toStable
    with_reducible apply State.takeDown_keeps hP
    with_reducible assumption
  · with_reducible apply State.setUnit_keeps hP.toStable
    with_reducible apply State.setF_keeps hP.toStable
    with_reducible assumption
  · with_reducible apply State.restartCore_keeps hP
    with_reducible assumption
  · with_reducible apply State.setUnit_keeps hP.toStable
    with_reducible assumption
  · with_reducible assumption
  · with_reducible apply State.setUnit_keeps hP.toStable
    with_reducible assumption

theorem State.resetUnit_keeps {P : State → Prop} (hP : StableMem P) {s : State} {a1 : Blk} {a2 : Nat} (h : P s) :
    P (State.resetUnit s a1 a2) := by
  unfold State.resetUnit
  with_reducible apply State.resetEnd_keeps hP
  with_reducible apply State.resetBegin_keeps hP
  with_reducible assumption

theorem State.startupFails_keeps {P : State → Prop} (hP : Stable P) {s : State} {a1 : Nat} (h : P s) :
    P (State.startupFails s a1) := by
  unfold State.startupFails
  with_reducible apply State.emit_keeps hP
  with_reducible apply hP.dev
  with_reducible assumption

theorem execReleaseTimeout_keeps {P : State → Prop} (hP : Stable P) {a0 : Nat} {s : State} (h : P s) :
    (Nxt P) (execReleaseTimeout a0 s) := by
  unfold execReleaseTimeout
  with_reducible refine keep_ite (fun _ => ?_) (fun _ => ?_)
  · with_reducible apply done_keeps hP
    with_reducible apply State.startupFails_keeps hP
    with_reducible assumption
  · with_reducible apply done_keeps hP
    with_reducible assumption

theorem State.abandonReset_keeps {P : State → Prop} (hP : Stable P) {s : State} {a1 : Blk} {a2 : Nat} (h : P s) :
    P (State.abandonReset s a1 a2) := by
  unfold State.abandonReset
  extract_lets t1
  have h2 : P t1 := by
    unfold t1
    with_reducible apply State.setFlag_keeps hP
    with_reducible assumption
  clear_value t1
  split
  · with_reducible apply State.stkTrain_keeps hP
    with_reducible assumption
  · with_reducible apply State.setUnit_keeps hP
    with_reducible apply State.setF_keeps hP
    with_reducible assumption
  · with_reducible assumption

theorem State.abandonResets_keeps {P : State → Prop} (hP : Stable P) {s : State} (h : P s) :
    P (State.abandonResets s) := by
  unfold State.abandonResets
  with_reducible apply keep_foldl (Q := P)
  · with_reducible assumption
  · intro x1 x2 x3
    with_reducible apply keep_foldl (Q := P)
    · with_reducible assumption
    · intro x4 x5 x6
      with_reducible apply State.abandonReset_keeps hP
      with_reducible assumption

theorem State.warmStart_keeps {P : State → Prop} (hP : StableMem P) {s : State} (h : P s) :
    P (State.warmStart s) := by
  unfold State.warmStart
  extract_lets t1 t2 t3
  have h4 : P t1 := by
    unfold t1
    with_reducible apply State.abandonResets_keeps hP.toStable
    with_reducible apply keep_foldl (Q := P)
    · with_reducible assumption
    · intro x5 x6 x7
      with_reducible apply State.haltPart_keeps hP
      with_reducible assumption
  clear_value t1
  have h8 : P t3 := by
    unfold t3
    with_reducible apply hP.toStable.dev
    with_reducible assumption
  clear_value t3
  with_reducible apply State.setFlag_keeps hP.toStable
  with_reducible assumption

theorem State.warmReset_keeps {P : State → Prop} (hP : StableMem P) {s : State} {a1 : Requester} (h : P s) :
    P (State.warmReset s a1) := by
  unfold State.warmReset
  with_reducible refine keep_ite (fun _ => ?_) (fun _ => ?_)
  · with_reducible apply State.warmStart_keeps hP
    with_reducible assumption
  · with_reducible assumption

theorem State.compReset_keeps {P : State → Prop} (hP : StableMem P) {s : State} {a1 : Blk} {a2 : Nat} (h : P s) :
    P (State.compReset s a1 a2) := by
  unfold State.compReset
  with_reducible refine keep_ite (fun _ => ?_) (fun _ => ?_)
  · with_reducible apply State.resetBegin_keeps hP
    with_reducible assumption
  · with_reducible assumption

theorem State.ivecWrite_keeps {P : State → Prop} (hP : Stable P) {s : State} {a1 : Nat} {a2 : Nat} (h : P s) :
    P (State.ivecWrite s a1 a2) := by
  unfold State.ivecWrite
  extract_lets t1 t2 t3
  clear_value t1 t2 t3
  with_reducible apply State.deliver_keeps hP
  with_reducible apply State.setReg_keeps hP
  with_reducible assumption

theorem State.setPhase_keeps {P : State → Prop} (hP : Stable P) {s : State} {a1 : Nat} {a2 : Nat} {a3 : Nat} {a4 : Nat} (h : P s) :
    P (State.setPhase s a1 a2 a3 a4) := by
  unfold State.setPhase
  extract_lets t1
  have h2 : P t1 := by
    unfold t1
    with_reducible apply State.setF_keeps hP
    with_reducible apply State.setF_keeps hP
    with_reducible apply State.setF_keeps hP
    with_reducible assumption
  clear_value t1
  with_reducible refine keep_ite (fun _ => ?_) (fun _ => ?_)
  · with_reducible assumption
  · with_reducible apply State.raise_keeps hP
    with_reducible assumption

theorem State.silenceEnds_keeps {P : State → Prop} (hP : Stable P) {s : State} {a1 : Nat} (h : P s) :
    P (State.silenceEnds s a1) := by
  unfold State.silenceEnds
  with_reducible apply State.setPhase_keeps hP
  with_reducible apply State.setBit_keeps hP
  with_reducible apply State.setBit_keeps hP
  with_reducible assumption

theorem State.heartbeat_keeps {P : State → Prop} (hP : StableMem P) {s : State} {a1 : Nat} (h : P s) :
    P (State.heartbeat s a1) := by
  unfold State.heartbeat
  extract_lets t1
  clear_value t1
  with_reducible refine keep_ite (fun _ => ?_) (fun _ => ?_)
  · with_reducible apply State.stepsTick_keeps hP
    with_reducible apply State.silenceEnds_keeps hP.toStable
    with_reducible assumption
  · with_reducible assumption

theorem State.poolWithout_keeps {P : State → Prop} (hP : StableMem P) {s : State} {a1 : Nat} {a2 : Nat} (h : P s) :
    P (State.poolWithout s a1 a2) := by
  unfold State.poolWithout
  extract_lets t1 t2 t3 t4 t5 t6
  clear_value t1 t2 t3 t4 t5
  have h7 : P t6 := by
    unfold t6
    with_reducible apply keep_foldl (Q := P)
    · with_reducible assumption
    · intro x8 x9 x10
      extract_lets t11 t12
      clear_value t11
      have h13 : P t12 := by
        unfold t12
        with_reducible apply State.writeB_keeps hP
        with_reducible assumption
      clear_value t12
      with_reducible refine keep_ite (fun _ => ?_) (fun _ => ?_)
      · with_reducible apply State.poisonWord_keeps hP
        with_reducible assumption
      · with_reducible assumption
  clear_value t6
  with_reducible refine keep_ite (fun _ => ?_) (fun _ => ?_)
  · with_reducible assumption
  · with_reducible refine keep_ite (fun _ => ?_) (fun _ => ?_)
    · with_reducible assumption
    · with_reducible apply State.setPool_keeps hP.toStable
      with_reducible apply State.setF_keeps hP.toStable
      with_reducible assumption

theorem State.stackLost_keeps {P : State → Prop} (hP : StableMem P) {s : State} {a1 : Nat} (h : P s) :
    P (State.stackLost s a1) := by
  unfold State.stackLost
  extract_lets t1 t2 t3 t4 t5 t6 t7
  clear_value t1 t2
  have h8 : P t3 := by
    unfold t3
    with_reducible apply keep_foldl (Q := P)
    · with_reducible assumption
    · intro x9 x10 x11
      with_reducible apply State.poolWithout_keeps hP
      with_reducible assumption
  clear_value t3 t4
  have h12 : P t5 := by
    unfold t5
    with_reducible apply keep_foldl (Q := P)
    · with_reducible assumption
    · intro x13 x14 x15
      with_reducible apply State.setMslot_keeps hP.toStable
      with_reducible assumption
  clear_value t5
  have h16 : P t6 := by
    unfold t6
    with_reducible apply State.sweepStop_keeps hP.toStable
    with_reducible apply State.wantReloads_keeps hP.toStable
    with_reducible assumption
  clear_value t6
  have h17 : P t7 := by
    unfold t7
    with_reducible apply keep_foldl (Q := P)
    · with_reducible assumption
    · intro x18 x19 x20
      with_reducible apply State.damage_keeps hP.toStable
      with_reducible assumption
  clear_value t7
  with_reducible apply keep_foldl (Q := P)
  · with_reducible assumption
  · intro x21 x22 x23
    with_reducible apply State.stepsTick_keeps hP
    with_reducible assumption

theorem State.toRecovering_keeps {P : State → Prop} (hP : Stable P) {s : State} {a1 : Nat} (h : P s) :
    P (State.toRecovering s a1) := by
  unfold State.toRecovering
  extract_lets t1
  clear_value t1
  with_reducible refine keep_ite (fun _ => ?_) (fun _ => ?_)
  · with_reducible assumption
  · with_reducible apply State.setSeq_keeps hP
    with_reducible assumption

theorem State.wakeInst_keeps {P : State → Prop} (hP : StableMem P) {s : State} {a1 : Nat} {a2 : Nat} (h : P s) :
    P (State.wakeInst s a1 a2) := by
  unfold State.wakeInst
  extract_lets t1 t2
  clear_value t1
  have h3 : P t2 := by
    unfold t2
    with_reducible apply hP.toStable.rest
    with_reducible assumption
  clear_value t2
  split
  · with_reducible assumption
  · with_reducible apply keep_foldl (Q := P)
    · with_reducible assumption
    · intro x4 x5 x6
      with_reducible apply State.linkWakes_keeps hP.toStable
      with_reducible assumption
  · with_reducible apply State.yardAll_keeps hP
    with_reducible apply State.openWaiting_keeps hP.toStable
    with_reducible apply State.stackResumes_keeps hP
    with_reducible assumption
  · with_reducible apply keep_foldl (Q := P)
    · with_reducible assumption
    · intro x7 x8 x9
      with_reducible apply State.linkWakes_keeps hP.toStable
      with_reducible assumption

theorem State.updReply_keeps {P : State → Prop} (hP : StableMem P) {s : State} {a1 : Nat} (h : P s) :
    P (State.updReply s a1) := by
  unfold State.updReply
  with_reducible refine keep_ite (fun _ => ?_) (fun _ => ?_)
  · with_reducible assumption
  · extract_lets t1 t2 t3
    have h4 : P t1 := by
      unfold t1
      with_reducible apply State.setF_keeps hP.toStable
      with_reducible assumption
    clear_value t1 t2
    have h5 : P t3 := by
      unfold t3
      with_reducible apply hP.toStable.rest
      with_reducible assumption
    clear_value t3
    with_reducible apply State.h2fLate_keeps hP
    with_reducible assumption

theorem State.setOp_keeps {P : State → Prop} (hP : Stable P) {s : State} {a1 : Nat} {a2 : Nat} (h : P s) :
    P (State.setOp s a1 a2) := by
  unfold State.setOp
  with_reducible apply State.setF_keeps hP
  with_reducible apply State.setF_keeps hP
  with_reducible apply State.setFlag_keeps hP
  with_reducible assumption

theorem State.updEvent_keeps {P : State → Prop} (hP : StableMem P) {s : State} {a1 : Nat} {a2 : Nat} {a3 : Nat} {a4 : Nat} (h : P s) :
    P (State.updEvent s a1 a2 a3 a4) := by
  unfold State.updEvent
  with_reducible apply State.f2h_keeps hP
  with_reducible assumption

theorem State.pauseNext_keeps {P : State → Prop} (hP : StableMem P) {s : State} {a1 : Nat} (h : P s) :
    P (State.pauseNext s a1) := by
  unfold State.pauseNext
  split
  · with_reducible assumption
  · extract_lets t1 t2 t3 t4
    have h5 : P t1 := by
      unfold t1
      with_reducible apply State.setF_keeps hP.toStable
      with_reducible assumption
    clear_value t1 t2
    have h6 : P t3 := by
      unfold t3
      with_reducible apply hP.toStable.rest
      with_reducible assumption
    clear_value t3
    have h7 : P t4 := by
      unfold t4
      with_reducible apply State.updEvent_keeps hP
      with_reducible assumption
    clear_value t4
    with_reducible refine keep_ite (fun _ => ?_) (fun _ => ?_)
    · with_reducible assumption
    · with_reducible refine keep_ite (fun _ => ?_) (fun _ => ?_)
      · with_reducible apply State.restartCore_keeps hP
        with_reducible assumption
      · with_reducible assumption

theorem State.switchBegin_keeps {P : State → Prop} (hP : StableMem P) {s : State} {a1 : Nat} {a2 : Nat} (h : P s) :
    P (State.switchBegin s a1 a2) := by
  unfold State.switchBegin
  extract_lets t1 t2
  clear_value t1
  have h3 : P t2 := by
    unfold t2
    with_reducible apply hP.toStable.rest
    with_reducible assumption
  clear_value t2
  with_reducible apply State.pauseNext_keeps hP
  with_reducible assumption

theorem State.fallNext_keeps {P : State → Prop} (hP : StableMem P) {s : State} (h : P s) :
    P (State.fallNext s) := by
  unfold State.fallNext
  split
  · with_reducible apply State.updReply_keeps hP
    with_reducible apply State.setOp_keeps hP.toStable
    with_reducible assumption
  · extract_lets t1
    clear_value t1
    with_reducible apply State.switchBegin_keeps hP
    with_reducible apply State.updEvent_keeps hP
    with_reducible apply State.setF_keeps hP.toStable
    with_reducible assumption

theorem State.fallBegin_keeps {P : State → Prop} (hP : StableMem P) {s : State} {a1 : Nat} {a2 : List Nat} (h : P s) :
    P (State.fallBegin s a1 a2) := by
  unfold State.fallBegin
  extract_lets t1 t2 t3 t4
  have h5 : P t1 := by
    unfold t1
    split
    · with_reducible refine keep_ite (fun _ => ?_) (fun _ => ?_)
      · with_reducible apply State.wakeInst_keeps hP
        with_reducible assumption
      · with_reducible assumption
    · with_reducible assumption
  clear_value t1 t2 t3
  have h6 : P t4 := by
    unfold t4
    with_reducible apply hP.toStable.rest
    with_reducible assumption
  clear_value t4
  with_reducible apply State.fallNext_keeps hP
  with_reducible apply State.setOp_keeps hP.toStable
  with_reducible assumption

theorem State.fallAuto_keeps {P : State → Prop} (hP : StableMem P) {s : State} (h : P s) :
    P (State.fallAuto s) := by
  unfold State.fallAuto
  with_reducible apply State.fallBegin_keeps hP
  with_reducible apply State.err_keeps hP.toStable
  with_reducible apply State.updReply_keeps hP
  with_reducible assumption

theorem execAutomaticFallback_keeps {P : State → Prop} (hP : StableMem P) {a0 : Nat} {s : State} (h : P s) :
    (Nxt P) (execAutomaticFallback a0 s) := by
  unfold execAutomaticFallback
  with_reducible refine keep_ite (fun _ => ?_) (fun _ => ?_)
  · with_reducible apply done_keeps hP.toStable
    with_reducible apply State.fallAuto_keeps hP
    with_reducible assumption
  · with_reducible apply done_keeps hP.toStable
    with_reducible assumption

theorem execComponentResetDone_keeps {P : State → Prop} (hP : StableMem P) {a0 : Nat} {a1 : Nat} {a2 : Bool} {s : State} (h : P s) :
    (Nxt P) (execComponentResetDone a0 a1 a2 s) := by
  unfold execComponentResetDone
  split
  · with_reducible apply done_keeps hP.toStable
    with_reducible assumption
  · with_reducible refine keep_ite (fun _ => ?_) (fun _ => ?_)
    · with_reducible apply done_keeps hP.toStable
      with_reducible apply State.resetEnd_keeps hP
      with_reducible assumption
    · with_reducible apply done_keeps hP.toStable
      with_reducible assumption

theorem execFlitReceive_keeps {P : State → Prop} (hP : Stable P) {a0 : Nat} {a1 : Nat} {a2 : Nat} {a3 : Nat} {a4 : Nat} {a5 : Nat} {a6 : Nat} {a7 : Bool} {a8 : Bool} {s : State} (h : P s) :
    (Nxt P) (execFlitReceive a0 a1 a2 a3 a4 a5 a6 a7 a8 s) := by
  unfold execFlitReceive
  extract_lets t1 t2 t3 t4 t5
  clear_value t1 t2 t3 t4 t5
  with_reducible refine keep_ite (fun _ => ?_) (fun _ => ?_)
  · with_reducible apply done_keeps hP
    with_reducible assumption
  · with_reducible refine keep_ite (fun _ => ?_) (fun _ => ?_)
    · with_reducible apply done_keeps hP
      with_reducible apply State.emit_keeps hP
      with_reducible apply State.bump_keeps hP
      with_reducible assumption
    · with_reducible refine keep_ite (fun _ => ?_) (fun _ => ?_)
      · with_reducible apply done_keeps hP
        with_reducible apply State.sendHost_keeps hP
        with_reducible apply State.emit_keeps hP
        with_reducible apply State.setHlink_keeps hP
        with_reducible assumption
      · with_reducible refine keep_ite (fun _ => ?_) (fun _ => ?_)
        · with_reducible apply done_keeps hP
          with_reducible apply State.sendHost_keeps hP
          with_reducible apply State.emit_keeps hP
          with_reducible apply State.setHlink_keeps hP
          with_reducible assumption
        · with_reducible apply done_keeps hP
          with_reducible apply State.sendHost_keeps hP
          with_reducible apply State.setHlink_keeps hP
          with_reducible assumption

theorem State.hostRetrain_keeps {P : State → Prop} (hP : Stable P) {s : State} {a1 : Nat} (h : P s) :
    P (State.hostRetrain s a1) := by
  unfold State.hostRetrain
  with_reducible apply State.bump_keeps hP
  with_reducible apply State.setHlink_keeps hP
  with_reducible assumption

theorem State.resendFlits_keeps {P : State → Prop} (hP : Stable P) {s : State} {a1 : Nat} (h : P s) :
    P (State.resendFlits s a1) := by
  unfold State.resendFlits
  extract_lets t1 t2 t3 t4
  clear_value t1 t2
  have h5 : P t3 := by
    unfold t3
    with_reducible apply State.bump_keeps hP
    with_reducible assumption
  clear_value t3
  have h6 : P t4 := by
    unfold t4
    with_reducible refine keep_ite (fun _ => ?_) (fun _ => ?_)
    · with_reducible apply State.err_keeps hP
      with_reducible assumption
    · with_reducible assumption
  clear_value t4
  with_reducible apply keep_foldl (Q := P)
  · with_reducible assumption
  · intro x7 x8 x9
    with_reducible apply State.emit_keeps hP
    with_reducible assumption

theorem execNakFlit_keeps {P : State → Prop} (hP : Stable P) {a0 : Nat} {a1 : Nat} {s : State} (h : P s) :
    (Nxt P) (execNakFlit a0 a1 s) := by
  unfold execNakFlit
  extract_lets t1 t2 t3 t4
  clear_value t1 t3
  have h5 : P t4 := by
    unfold t4
    with_reducible apply State.setHlink_keeps hP
    with_reducible assumption
  clear_value t4
  with_reducible refine keep_ite (fun _ => ?_) (fun _ => ?_)
  · with_reducible apply done_keeps hP
    with_reducible assumption
  · with_reducible refine keep_ite (fun _ => ?_) (fun _ => ?_)
    · with_reducible apply done_keeps hP
      with_reducible apply State.hostRetrain_keeps hP
      with_reducible assumption
    · with_reducible apply done_keeps hP
      with_reducible apply State.sendHost_keeps hP
      with_reducible apply State.resendFlits_keeps hP
      with_reducible assumption

theorem State.forgetHost_keeps {P : State → Prop} (hP : Stable P) {s : State} {a1 : Nat} (h : P s) :
    P (State.forgetHost s a1) := by
  unfold State.forgetHost
  extract_lets t1 t2 t3 t4 t5
  clear_value t1 t2 t3 t4 t5
  with_reducible apply hP.rest
  with_reducible assumption

theorem State.silence_keeps {P : State → Prop} (hP : Stable P) {s : State} {a1 : Nat} {a2 : Nat} (h : P s) :
    P (State.silence s a1 a2) := by
  unfold State.silence
  with_reducible refine keep_ite (fun _ => ?_) (fun _ => ?_)
  · with_reducible apply State.setPhase_keeps hP
    with_reducible apply State.err_keeps hP
    with_reducible apply State.setBit_keeps hP
    with_reducible assumption
  · with_reducible assumption

theorem State.hostLinkDown_keeps {P : State → Prop} (hP : Stable P) {s : State} {a1 : Nat} (h : P s) :
    P (State.hostLinkDown s a1) := by
  unfold State.hostLinkDown
  extract_lets t1 t2 t3 t4 t5 t6 t7 t8
  have h9 : P t1 := by
    unfold t1
    with_reducible apply State.forgetHost_keeps hP
    with_reducible assumption
  clear_value t1 t2
  have h10 : P t3 := by
    unfold t3
    with_reducible apply State.setFlag_keeps hP
    with_reducible assumption
  clear_value t3
  have h11 : P t4 := by
    unfold t4
    with_reducible apply State.setF_keeps hP
    with_reducible assumption
  clear_value t4
  have h12 : P t5 := by
    unfold t5
    with_reducible apply keep_foldl (Q := P)
    · with_reducible assumption
    · intro x13 x14 x15
      with_reducible apply State.setBit_keeps hP
      with_reducible assumption
  clear_value t5
  have h16 : P t6 := by
    unfold t6
    with_reducible apply State.err_keeps hP
    with_reducible apply State.setHlink_keeps hP
    with_reducible assumption
  clear_value t6 t7
  have h17 : P t8 := by
    unfold t8
    with_reducible apply keep_foldl (Q := P)
    · with_reducible assumption
    · intro x18 x19 x20
      split
      · with_reducible apply State.toHost_keeps hP
        with_reducible assumption
      · with_reducible apply State.setFlag_keeps hP
        with_reducible assumption
      · with_reducible assumption
  clear_value t8
  with_reducible refine keep_ite (fun _ => ?_) (fun _ => ?_)
  · with_reducible apply keep_foldl (Q := P)
    · with_reducible assumption
    · intro x21 x22 x23
      with_reducible apply State.silence_keeps hP
      with_reducible assumption
  · with_reducible assumption

theorem execModuleFailure_keeps {P : State → Prop} (hP : Stable P) {a0 : Nat} {s : State} (h : P s) :
    (Nxt P) (execModuleFailure a0 s) := by
  unfold execModuleFailure
  extract_lets t1 t2 t3 t4 t5 t6
  clear_value t1 t2 t3
  have h7 : P t4 := by
    unfold t4
    with_reducible apply State.setHlink_keeps hP
    with_reducible assumption
  clear_value t4
  have h8 : P t5 := by
    unfold t5
    with_reducible apply State.err_keeps hP
    with_reducible apply State.setBit_keeps hP
    with_reducible apply State.setBit_keeps hP
    with_reducible assumption
  clear_value t5 t6
  with_reducible refine keep_ite (fun _ => ?_) (fun _ => ?_)
  · with_reducible apply done_keeps hP
    with_reducible assumption
  · with_reducible refine keep_ite (fun _ => ?_) (fun _ => ?_)
    · with_reducible apply done_keeps hP
      with_reducible apply State.hostLinkDown_keeps hP
      with_reducible assumption
    · with_reducible apply done_keeps hP
      with_reducible apply State.hostRetrain_keeps hP
      with_reducible assumption

theorem execIntrHoldoffEnd_keeps {P : State → Prop} (hP : Stable P) {a0 : Nat} {s : State} (h : P s) :
    (Nxt P) (execIntrHoldoffEnd a0 s) := by
  unfold execIntrHoldoffEnd
  with_reducible apply done_keeps hP
  with_reducible apply State.deliver_keeps hP
  with_reducible apply hP.rest
  with_reducible assumption

theorem State.attachDev_keeps {P : State → Prop} (hP : StableMem P) {s : State} {a1 : Msg} (h : P s) :
    P (State.attachDev s a1) := by
  unfold State.attachDev
  extract_lets t1 t2 t3 t4 t5 t6 t7 t8 t9 t10
  clear_value t1
  have h11 : P t2 := by
    unfold t2
    with_reducible apply State.setF_keeps hP.toStable
    with_reducible apply State.setF_keeps hP.toStable
    with_reducible assumption
  clear_value t2 t3
  have h12 : P t4 := by
    unfold t4
    with_reducible apply hP.toStable.rest
    with_reducible assumption
  clear_value t4
  have h13 : P t5 := by
    unfold t5
    with_reducible apply State.setFlag_keeps hP.toStable
    with_reducible assumption
  clear_value t5
  have h14 : P t7 := by
    unfold t7
    with_reducible refine keep_ite (fun _ => ?_) (fun _ => ?_)
    · with_reducible apply State.setFwFlags_keeps hP
      with_reducible apply hP.toStable.dev
      with_reducible assumption
    · with_reducible assumption
  clear_value t7
  have h15 : P t8 := by
    unfold t8
    with_reducible apply State.err_keeps hP.toStable
    with_reducible apply State.setF_keeps hP.toStable
    with_reducible apply State.setF_keeps hP.toStable
    with_reducible assumption
  clear_value t8
  have h16 : P t10 := by
    unfold t10
    with_reducible refine keep_ite (fun _ => ?_) (fun _ => ?_)
    · with_reducible apply hP.toStable.dev
      with_reducible assumption
    · with_reducible assumption
  clear_value t10
  with_reducible refine keep_ite (fun _ => ?_) (fun _ => ?_)
  · with_reducible apply State.h2fAnswer_keeps hP
    with_reducible assumption
  · with_reducible apply State.h2fAnswer_keeps hP
    with_reducible apply State.setFwFlags_keeps hP
    with_reducible assumption

theorem State.unpark_keeps {P : State → Prop} (hP : Stable P) {s : State} {a1 : Nat} (h : P s) :
    P (State.unpark s a1) := by
  unfold State.unpark
  with_reducible apply keep_foldl (Q := P)
  · with_reducible assumption
  · intro x1 x2 x3
    with_reducible refine keep_ite (fun _ => ?_) (fun _ => ?_)
    · with_reducible apply State.setSeq_keeps hP
      with_reducible assumption
    · with_reducible refine keep_ite (fun _ => ?_) (fun _ => ?_)
      · with_reducible apply State.setSeq_keeps hP
        with_reducible assumption
      · with_reducible assumption

theorem State.tellExpired_keeps {P : State → Prop} (hP : Stable P) {s : State} {a1 : Nat} (h : P s) :
    P (State.tellExpired s a1) := by
  unfold State.tellExpired
  extract_lets t1
  have h2 : P t1 := by
    unfold t1
    with_reducible apply keep_foldl (Q := P)
    · with_reducible assumption
    · intro x3 x4 x5
      with_reducible apply State.addRec_keeps hP
      with_reducible assumption
  clear_value t1
  with_reducible apply State.clearExpired_keeps hP
  with_reducible assumption

theorem State.attachPart_keeps {P : State → Prop} (hP : StableMem P) {s : State} {a1 : Nat} {a2 : Msg} (h : P s) :
    P (State.attachPart s a1 a2) := by
  unfold State.attachPart
  extract_lets t1 t2 t3 t4 t5
  clear_value t1 t2
  have h6 : P t3 := by
    unfold t3
    with_reducible refine keep_ite (fun _ => ?_) (fun _ => ?_)
    · with_reducible apply State.setPartState_keeps hP.toStable
      with_reducible apply State.unpark_keeps hP.toStable
      with_reducible assumption
    · with_reducible assumption
  clear_value t3
  have h7 : P t4 := by
    unfold t4
    with_reducible apply State.setFlag_keeps hP.toStable
    with_reducible apply State.setBit_keeps hP.toStable
    with_reducible assumption
  clear_value t4
  have h8 : P t5 := by
    unfold t5
    with_reducible apply State.setFwFlags_keeps hP
    with_reducible apply State.silenceEnds_keeps hP.toStable
    with_reducible assumption
  clear_value t5
  with_reducible apply State.stepsTick_keeps hP
  with_reducible apply State.tellExpired_keeps hP.toStable
  with_reducible apply State.h2fAnswer_keeps hP
  with_reducible assumption

theorem execAttach_keeps {P : State → Prop} (hP : StableMem P) {a0 : Nat} {a1 : Nat} {s : State} (h : P s) :
    (Nxt P) (execAttach a0 a1 s) := by
  unfold execAttach
  split
  · with_reducible apply done_keeps hP.toStable
    with_reducible assumption
  · with_reducible refine keep_ite (fun _ => ?_) (fun _ => ?_)
    · with_reducible apply done_keeps hP.toStable
      with_reducible assumption
    · with_reducible refine keep_ite (fun _ => ?_) (fun _ => ?_)
      · with_reducible apply done_keeps hP.toStable
        with_reducible apply State.attachDev_keeps hP
        with_reducible assumption
      · with_reducible refine keep_ite (fun _ => ?_) (fun _ => ?_)
        · with_reducible apply done_keeps hP.toStable
          with_reducible apply State.h2fAnswer_keeps hP
          with_reducible assumption
        · with_reducible apply done_keeps hP.toStable
          with_reducible apply State.attachPart_keeps hP
          with_reducible assumption

theorem State.parkPart_keeps {P : State → Prop} (hP : Stable P) {s : State} {a1 : Nat} (h : P s) :
    P (State.parkPart s a1) := by
  unfold State.parkPart
  with_reducible refine keep_ite (fun _ => ?_) (fun _ => ?_)
  · with_reducible assumption
  · extract_lets t1 t2
    clear_value t1
    have h3 : P t2 := by
      unfold t2
      with_reducible apply keep_foldl (Q := P)
      · with_reducible assumption
      · intro x4 x5 x6
        with_reducible apply State.setSeq_keeps hP
        with_reducible assumption
    clear_value t2
    with_reducible apply State.setPhase_keeps hP
    with_reducible apply State.setBit_keeps hP
    with_reducible apply State.setPartState_keeps hP
    with_reducible assumption

theorem execDetach_keeps {P : State → Prop} (hP : StableMem P) {a0 : Nat} {s : State} (h : P s) :
    (Nxt P) (execDetach a0 s) := by
  unfold execDetach
  split
  · with_reducible apply done_keeps hP.toStable
    with_reducible assumption
  · with_reducible refine keep_ite (fun _ => ?_) (fun _ => ?_)
    · with_reducible apply done_keeps hP.toStable
      with_reducible assumption
    · extract_lets t1 t2 t3 t4
      clear_value t1
      have h5 : P t2 := by
        unfold t2
        with_reducible apply State.silence_keeps hP.toStable
        with_reducible assumption
      clear_value t2
      have h6 : P t3 := by
        unfold t3
        with_reducible apply State.setFlag_keeps hP.toStable
        with_reducible apply State.setBit_keeps hP.toStable
        with_reducible assumption
      clear_value t3
      have h7 : P t4 := by
        unfold t4
        with_reducible refine keep_ite (fun _ => ?_) (fun _ => ?_)
        · with_reducible apply State.parkPart_keeps hP.toStable
          with_reducible apply State.setF_keeps hP.toStable
          with_reducible assumption
        · with_reducible assumption
      clear_value t4
      with_reducible apply done_keeps hP.toStable
      with_reducible apply State.h2fAnswer_keeps hP
      with_reducible assumption

theorem execQueryState_keeps {P : State → Prop} (hP : StableMem P) {a0 : Nat} {s : State} (h : P s) :
    (Nxt P) (execQueryState a0 s) := by
  unfold execQueryState
  split
  · with_reducible apply done_keeps hP.toStable
    with_reducible assumption
  · extract_lets t1 t2
    clear_value t1 t2
    with_reducible apply done_keeps hP.toStable
    with_reducible apply State.h2fAnswer_keeps hP
    with_reducible assumption

theorem execUnknownMessage_keeps {P : State → Prop} (hP : StableMem P) {a0 : Nat} {s : State} (h : P s) :
    (Nxt P) (execUnknownMessage a0 s) := by
  unfold execUnknownMessage
  split
  · with_reducible apply done_keeps hP.toStable
    with_reducible assumption
  · with_reducible refine keep_ite (fun _ => ?_) (fun _ => ?_)
    · with_reducible apply done_keeps hP.toStable
      with_reducible apply State.h2fAnswer_keeps hP
      with_reducible assumption
    · with_reducible apply done_keeps hP.toStable
      with_reducible assumption

theorem execHeartbeatTimeout_keeps {P : State → Prop} (hP : Stable P) {a0 : Nat} {a1 : Nat} {s : State} (h : P s) :
    (Nxt P) (execHeartbeatTimeout a0 a1 s) := by
  unfold execHeartbeatTimeout
  with_reducible apply done_keeps hP
  with_reducible refine keep_ite (fun _ => ?_) (fun _ => ?_)
  · with_reducible apply State.silence_keeps hP
    with_reducible assumption
  · with_reducible assumption

theorem execRingFullSilence_keeps {P : State → Prop} (hP : Stable P) {a0 : Nat} {a1 : Nat} {a2 : Nat} {s : State} (h : P s) :
    (Nxt P) (execRingFullSilence a0 a1 a2 s) := by
  unfold execRingFullSilence
  with_reducible refine keep_ite (fun _ => ?_) (fun _ => ?_)
  · with_reducible apply done_keeps hP
    with_reducible apply State.parkPart_keeps hP
    with_reducible apply State.setF_keeps hP
    with_reducible apply State.silence_keeps hP
    with_reducible assumption
  · with_reducible apply done_keeps hP
    with_reducible assumption

theorem execSilenceGraceEnd_keeps {P : State → Prop} (hP : Stable P) {a0 : Nat} {a1 : Nat} {s : State} (h : P s) :
    (Nxt P) (execSilenceGraceEnd a0 a1 s) := by
  unfold execSilenceGraceEnd
  with_reducible refine keep_ite (fun _ => ?_) (fun _ => ?_)
  · with_reducible apply done_keeps hP
    with_reducible apply State.parkPart_keeps hP
    with_reducible assumption
  · with_reducible apply done_keeps hP
    with_reducible assumption

theorem execRetainExpiry_keeps {P : State → Prop} (hP : StableMem P) {a0 : Nat} {a1 : Nat} {s : State} (h : P s) :
    (Nxt P) (execRetainExpiry a0 a1 s) := by
  unfold execRetainExpiry
  with_reducible refine keep_ite (fun _ => ?_) (fun _ => ?_)
  · extract_lets t1 t2 t3
    clear_value t1
    have h4 : P t2 := by
      unfold t2
      with_reducible apply State.listExpired_keeps hP.toStable
      with_reducible apply keep_foldl (Q := P)
      · with_reducible assumption
      · intro x5 x6 x7
        with_reducible apply State.releaseSeq_keeps hP
        with_reducible assumption
    clear_value t2
    have h8 : P t3 := by
      unfold t3
      with_reducible apply State.err_keeps hP.toStable
      with_reducible apply State.setBit_keeps hP.toStable
      with_reducible apply State.setPartState_keeps hP.toStable
      with_reducible assumption
    clear_value t3
    with_reducible apply done_keeps hP.toStable
    with_reducible apply State.setPhase_keeps hP.toStable
    with_reducible assumption
  · with_reducible apply done_keeps hP.toStable
    with_reducible assumption

theorem execScrubSweepStart_keeps {P : State → Prop} (hP : Stable P) {a0 : Nat} {a1 : Nat} {a2 : Nat} {s : State} (h : P s) :
    (Nxt P) (execScrubSweepStart a0 a1 a2 s) := by
  unfold execScrubSweepStart
  extract_lets t1 t2 t3 t4
  clear_value t1
  have h5 : P t2 := by
    unfold t2
    with_reducible apply State.at_keeps hP
    with_reducible assumption
  clear_value t2 t3
  have h6 : P t4 := by
    unfold t4
    with_reducible apply hP.rest
    with_reducible assumption
  clear_value t4
  with_reducible refine keep_ite (fun _ => ?_) (fun _ => ?_)
  · with_reducible apply done_keeps hP
    with_reducible apply State.at_keeps hP
    with_reducible assumption
  · with_reducible apply done_keeps hP
    with_reducible refine keep_ite (fun _ => ?_) (fun _ => ?_)
    · with_reducible apply State.setFlag_keeps hP
      with_reducible assumption
    · with_reducible assumption

theorem State.scrubQueue_keeps {P : State → Prop} (hP : StableMem P) {s : State} {a1 : Nat} (h : P s) :
    P (State.scrubQueue s a1) := by
  unfold State.scrubQueue
  extract_lets t1
  clear_value t1
  with_reducible refine keep_ite (fun _ => ?_) (fun _ => ?_)
  · with_reducible assumption
  · with_reducible apply State.submit_keeps hP
    with_reducible assumption

theorem State.rotateSets_keeps {P : State → Prop} (hP : Stable P) {s : State} {a1 : Nat} (h : P s) :
    P (State.rotateSets s a1) := by
  unfold State.rotateSets
  extract_lets t1 t2
  clear_value t1 t2
  with_reducible apply hP.rest
  with_reducible assumption

theorem State.manifestEntry_keeps {P : State → Prop} (hP : StableMem P) {s : State} {a1 : Nat} {a2 : Nat} (h : P s) :
    (Snd P) (State.manifestEntry s a1 a2) := by
  unfold State.manifestEntry
  extract_lets t1 t2
  clear_value t1
  have h3 : P t2 := by
    unfold t2
    with_reducible refine keep_ite (fun _ => ?_) (fun _ => ?_)
    · with_reducible apply State.loadBytes_keeps hP
      with_reducible assumption
    · with_reducible assumption
  clear_value t2
  with_reducible assumption

theorem State.scrubBlock_keeps {P : State → Prop} (hP : StableMem P) {s : State} {a1 : Nat} (h : P s) :
    P (State.scrubBlock s a1) := by
  unfold State.scrubBlock
  extract_lets t1 t2
  clear_value t1
  have h3 : (Snd (P)) t2 := by
    unfold t2
    with_reducible apply State.manifestEntry_keeps hP
    with_reducible assumption
  clear_value t2
  with_reducible refine keep_ite (fun _ => ?_) (fun _ => ?_)
  · with_reducible assumption
  · with_reducible refine keep_ite (fun _ => ?_) (fun _ => ?_)
    · with_reducible assumption
    · with_reducible apply State.openFault_keeps hP.toStable
      with_reducible assumption

theorem State.scrubCount_keeps {P : State → Prop} (hP : Stable P) {s : State} {a1 : Nat} {a2 : Bool} (h : P s) :
    P (State.scrubCount s a1 a2) := by
  unfold State.scrubCount
  with_reducible refine keep_ite (fun _ => ?_) (fun _ => ?_)
  · with_reducible assumption
  · with_reducible apply State.countEcc_keeps hP
    with_reducible assumption

theorem State.scrubWord_keeps {P : State → Prop} (hP : StableMem P) {s : State} {a1 : Nat} (h : P s) :
    P (State.scrubWord s a1) := by
  unfold State.scrubWord
  extract_lets t1 t2 t3 t4 t5
  clear_value t1 t2 t3
  have h6 : ∀ y0 y1, P y1 → (P) (t4 y0 y1) := by
    unfold t4
    intro x7 x8 x9
    with_reducible refine keep_ite (fun _ => ?_) (fun _ => ?_)
    · with_reducible assumption
    · with_reducible refine keep_ite (fun _ => ?_) (fun _ => ?_)
      · with_reducible apply State.err_keeps hP.toStable
        with_reducible apply State.bump_keeps hP.toStable
        with_reducible assumption
      · with_reducible apply State.bump_keeps hP.toStable
        with_reducible assumption
  clear_value t4
  have h10 : ∀ y0 y1, P y1 → (P) (t5 y0 y1) := by
    unfold t5
    intro x11 x12 x13
    with_reducible refine keep_ite (fun _ => ?_) (fun _ => ?_)
    · with_reducible apply State.openFault_keeps hP.toStable
      with_reducible assumption
    · with_reducible assumption
  clear_value t5
  split
  · with_reducible assumption
  · with_reducible apply h10
    with_reducible assumption
  · with_reducible apply h10
    with_reducible apply h6
    with_reducible apply State.scrubCount_keeps hP.toStable
    with_reducible refine keep_ite (fun _ => ?_) (fun _ => ?_)
    · with_reducible apply State.poisonWord_keeps hP
      with_reducible assumption
    · with_reducible assumption
  · with_reducible apply h10
    with_reducible apply h6
    with_reducible apply State.scrubCount_keeps hP.toStable
    with_reducible refine keep_ite (fun _ => ?_) (fun _ => ?_)
    · with_reducible assumption
    · with_reducible apply State.correctWord_keeps hP
      with_reducible assumption

theorem State.sweepEnd_keeps {P : State → Prop} (hP : Stable P) {s : State} {a1 : Nat} {a2 : Nat} (h : P s) :
    P (State.sweepEnd s a1 a2) := by
  unfold State.sweepEnd
  extract_lets t1 t2 t3 t4
  clear_value t1 t2
  have h5 : P t3 := by
    unfold t3
    with_reducible apply hP.rest
    with_reducible assumption
  clear_value t3
  have h6 : P t4 := by
    unfold t4
    with_reducible apply State.raiseMax_keeps hP
    with_reducible apply State.bumpW_keeps hP
    with_reducible assumption
  clear_value t4
  with_reducible refine keep_ite (fun _ => ?_) (fun _ => ?_)
  · with_reducible assumption
  · with_reducible apply State.setFlag_keeps hP
    with_reducible assumption

theorem State.scrubLines_keeps {P : State → Prop} (hP : StableMem P) {s : State} {a1 : Nat} (h : P s) :
    P (State.scrubLines s a1) := by
  unfold State.scrubLines
  with_reducible apply keep_foldl (Q := P)
  · with_reducible assumption
  · intro x1 x2 x3
    extract_lets t4
    have h5 : P t4 := by
      unfold t4
      with_reducible apply keep_foldl (Q := P)
      · with_reducible assumption
      · intro x6 x7 x8
        with_reducible refine keep_ite (fun _ => ?_) (fun _ => ?_)
        · with_reducible apply State.err_keeps hP.toStable
          with_reducible apply State.bump_keeps hP.toStable
          with_reducible assumption
        · with_reducible refine keep_ite (fun _ => ?_) (fun _ => ?_)
          · with_reducible assumption
          · with_reducible apply State.bump_keeps hP.toStable
            with_reducible assumption
    clear_value t4
    with_reducible apply State.checkLine_keeps hP
    with_reducible assumption

theorem State.scrubData_keeps {P : State → Prop} (hP : Stable P) {s : State} {a1 : Nat} (h : P s) :
    P (State.scrubData s a1) := by
  unfold State.scrubData
  with_reducible apply keep_foldl (Q := P)
  · with_reducible assumption
  · intro x1 x2 x3
    extract_lets t4
    clear_value t4
    with_reducible refine keep_ite (fun _ => ?_) (fun _ => ?_)
    · with_reducible apply State.err_keeps hP
      with_reducible apply State.bump_keeps hP
      with_reducible assumption
    · with_reducible apply State.bump_keeps hP
      with_reducible apply State.setBrick_keeps hP
      with_reducible assumption

theorem State.scrubRest_keeps {P : State → Prop} (hP : StableMem P) {s : State} {a1 : Nat} (h : P s) :
    P (State.scrubRest s a1) := by
  unfold State.scrubRest
  with_reducible refine keep_ite (fun _ => ?_) (fun _ => ?_)
  · with_reducible apply State.scrubLines_keeps hP
    with_reducible assumption
  · with_reducible refine keep_ite (fun _ => ?_) (fun _ => ?_)
    · with_reducible apply State.scrubData_keeps hP.toStable
      with_reducible assumption
    · with_reducible assumption

theorem execScrubVisit_keeps {P : State → Prop} (hP : StableMem P) {a0 : Nat} {a1 : Nat} {a2 : BitVec 72} {s : State} (h : P s) :
    (Nxt P) (execScrubVisit a0 a1 a2 s) := by
  unfold execScrubVisit
  extract_lets t1 t2 t3 t4
  clear_value t1
  have h5 : P t2 := by
    unfold t2
    with_reducible apply State.flipBits_keeps hP
    with_reducible apply State.at_keeps hP.toStable
    with_reducible assumption
  clear_value t2
  have h6 : P t3 := by
    unfold t3
    with_reducible refine keep_ite (fun _ => ?_) (fun _ => ?_)
    · with_reducible apply State.rotateSets_keeps hP.toStable
      with_reducible assumption
    · with_reducible assumption
  clear_value t3
  have h7 : P t4 := by
    unfold t4
    with_reducible apply State.scrubBlock_keeps hP
    with_reducible apply State.scrubWord_keeps hP
    with_reducible assumption
  clear_value t4
  split
  · with_reducible apply done_keeps hP.toStable
    with_reducible assumption
  · with_reducible refine keep_ite (fun _ => ?_) (fun _ => ?_)
    · with_reducible apply done_keeps hP.toStable
      with_reducible assumption
    · with_reducible refine keep_ite (fun _ => ?_) (fun _ => ?_)
      · with_reducible apply done_keeps hP.toStable
        with_reducible apply State.scrubQueue_keeps hP
        with_reducible assumption
      · with_reducible apply done_keeps hP.toStable
        with_reducible refine keep_ite (fun _ => ?_) (fun _ => ?_)
        · with_reducible apply State.sweepEnd_keeps hP.toStable
          with_reducible apply State.scrubRest_keeps hP
          with_reducible assumption
        · with_reducible assumption

theorem execScrubLate_keeps {P : State → Prop} (hP : Stable P) {a0 : Nat} {a1 : Nat} {a2 : Nat} {s : State} (h : P s) :
    (Nxt P) (execScrubLate a0 a1 a2 s) := by
  unfold execScrubLate
  split
  · with_reducible apply done_keeps hP
    with_reducible assumption
  · with_reducible refine keep_ite (fun _ => ?_) (fun _ => ?_)
    · with_reducible apply done_keeps hP
      with_reducible apply State.err_keeps hP
      with_reducible apply State.at_keeps hP
      with_reducible assumption
    · with_reducible apply done_keeps hP
      with_reducible assumption

theorem State.dropPrefixes_keeps {P : State → Prop} (hP : StableMem P) {s : State} {a1 : Nat} {a2 : PEntry → Bool} (h : P s) :
    P (State.dropPrefixes s a1 a2) := by
  unfold State.dropPrefixes
  extract_lets t1 t2
  clear_value t1
  have h3 : P t2 := by
    unfold t2
    with_reducible apply State.setIndex_keeps hP.toStable
    with_reducible assumption
  clear_value t2
  with_reducible refine keep_ite (fun _ => ?_) (fun _ => ?_)
  · with_reducible assumption
  · with_reducible apply keep_foldl (Q := P)
    · with_reducible assumption
    · intro x4 x5 x6
      with_reducible apply keep_foldl (Q := P)
      · with_reducible assumption
      · intro x7 x8 x9
        with_reducible apply State.returnPage_keeps hP
        with_reducible assumption

theorem State.scrubReport_keeps {P : State → Prop} (hP : StableMem P) {s : State} {a1 : List Nat} {a2 : Nat} {a3 : Nat} {a4 : Nat} (h : P s) :
    P (State.scrubReport s a1 a2 a3 a4) := by
  unfold State.scrubReport
  extract_lets t1
  clear_value t1
  with_reducible apply keep_foldl (Q := P)
  · with_reducible assumption
  · intro x2 x3 x4
    extract_lets t5
    clear_value t5
    with_reducible refine keep_ite (fun _ => ?_) (fun _ => ?_)
    · with_reducible assumption
    · with_reducible apply State.f2h_keeps hP
      with_reducible assumption

theorem State.markBlock_keeps {P : State → Prop} (hP : StableMem P) {s : State} {a1 : OFault} (h : P s) :
    P (State.markBlock s a1) := by
  unfold State.markBlock
  extract_lets t1 t2 t3 t4 t5 t6 t7 t8
  clear_value t1 t2 t3 t4
  have h9 : P t5 := by
    unfold t5
    with_reducible apply keep_foldl (Q := P)
    · with_reducible assumption
    · intro x10 x11 x12
      with_reducible apply State.markSuspect_keeps hP.toStable
      with_reducible assumption
  clear_value t5
  have h13 : P t6 := by
    unfold t6
    with_reducible apply keep_foldl (Q := P)
    · with_reducible assumption
    · intro x14 x15 x16
      with_reducible apply State.dropPrefixes_keeps hP
      with_reducible assumption
  clear_value t6 t7
  have h17 : P t8 := by
    unfold t8
    with_reducible apply keep_foldl (Q := P)
    · with_reducible assumption
    · intro x18 x19 x20
      with_reducible apply State.setSeq_keeps hP.toStable
      with_reducible assumption
  clear_value t8
  with_reducible refine keep_ite (fun _ => ?_) (fun _ => ?_)
  · with_reducible apply State.scrubReport_keeps hP
    with_reducible assumption
  · with_reducible apply State.scrubReport_keeps hP
    with_reducible assumption

theorem State.markPages_keeps {P : State → Prop} (hP : StableMem P) {s : State} {a1 : OFault} (h : P s) :
    P (State.markPages s a1) := by
  unfold State.markPages
  extract_lets t1 t2 t3 t4 t5 t6
  clear_value t1 t2 t3
  have h7 : P t4 := by
    unfold t4
    with_reducible refine keep_ite (fun _ => ?_) (fun _ => ?_)
    · with_reducible apply State.err_keeps hP.toStable
      with_reducible assumption
    · with_reducible assumption
  clear_value t4
  have h8 : P t5 := by
    unfold t5
    with_reducible apply keep_foldl (Q := P)
    · with_reducible assumption
    · intro x9 x10 x11
      with_reducible apply State.markSuspect_keeps hP.toStable
      with_reducible assumption
  clear_value t5
  have h12 : P t6 := by
    unfold t6
    with_reducible apply keep_foldl (Q := P)
    · with_reducible assumption
    · intro x13 x14 x15
      with_reducible apply State.dropPrefixes_keeps hP
      with_reducible assumption
  clear_value t6
  with_reducible apply State.scrubReport_keeps hP
  with_reducible assumption

theorem execOpenFaultMark_keeps {P : State → Prop} (hP : StableMem P) {a0 : Nat} {s : State} (h : P s) :
    (Nxt P) (execOpenFaultMark a0 s) := by
  unfold execOpenFaultMark
  split
  · with_reducible apply done_keeps hP.toStable
    with_reducible assumption
  · extract_lets t1 t2
    clear_value t1
    have h3 : P t2 := by
      unfold t2
      with_reducible apply hP.toStable.rest
      with_reducible assumption
    clear_value t2
    with_reducible apply done_keeps hP.toStable
    with_reducible refine keep_ite (fun _ => ?_) (fun _ => ?_)
    · with_reducible apply State.markBlock_keeps hP
      with_reducible assumption
    · with_reducible apply State.markPages_keeps hP
      with_reducible assumption

theorem State.setReload_keeps {P : State → Prop} (hP : Stable P) {s : State} {a1 : Nat} {a2 : Nat} (h : P s) :
    P (State.setReload s a1 a2) := by
  unfold State.setReload
  with_reducible apply hP.rest
  with_reducible assumption

theorem execScrubReload_keeps {P : State → Prop} (hP : Stable P) {a0 : Nat} {s : State} (h : P s) :
    (Nxt P) (execScrubReload a0 s) := by
  unfold execScrubReload
  with_reducible refine keep_ite (fun _ => ?_) (fun _ => ?_)
  · with_reducible apply done_keeps hP
    with_reducible apply State.keyIn_keeps hP
    with_reducible apply State.setF_keeps hP
    with_reducible apply State.setFlag_keeps hP
    with_reducible apply State.setReload_keeps hP
    with_reducible assumption
  · with_reducible apply done_keeps hP
    with_reducible assumption

theorem execReloadDone_keeps {P : State → Prop} (hP : StableMem P) {a0 : Nat} {a1 : Bool} {a2 : List Nat} {s : State} (h : P s) :
    (Nxt P) (execReloadDone a0 a1 a2 s) := by
  unfold execReloadDone
  with_reducible refine keep_ite (fun _ => ?_) (fun _ => ?_)
  · with_reducible apply done_keeps hP.toStable
    with_reducible assumption
  · extract_lets t1 t2 t3 t4 t5 t6
    clear_value t1 t2 t3
    have h7 : P t4 := by
      unfold t4
      with_reducible apply State.keyOut_keeps hP.toStable
      with_reducible apply State.footingRead_keeps hP.toStable
      with_reducible apply State.footingUe_keeps hP.toStable
      with_reducible apply State.setFlag_keeps hP.toStable
      with_reducible assumption
    clear_value t4
    have h8 : P t5 := by
      unfold t5
      with_reducible apply State.err_keeps hP.toStable
      with_reducible apply State.setReload_keeps hP.toStable
      with_reducible apply State.setFlag_keeps hP.toStable
      with_reducible assumption
    clear_value t5
    have h9 : P t6 := by
      unfold t6
      with_reducible apply State.scrubReport_keeps hP
      with_reducible apply State.setMslot_keeps hP.toStable
      with_reducible assumption
    clear_value t6
    split
    · extract_lets t10 t11 t12 t13
      have h14 : P t10 := by
        unfold t10
        with_reducible apply State.bumpW_keeps hP.toStable
        with_reducible apply State.loadBytes_keeps hP
        with_reducible assumption
      clear_value t10
      have h15 : P t11 := by
        unfold t11
        with_reducible apply State.setFlag_keeps hP.toStable
        with_reducible assumption
      clear_value t11 t12
      have h16 : P t13 := by
        unfold t13
        with_reducible apply hP.toStable.rest
        with_reducible assumption
      clear_value t13
      with_reducible apply done_keeps hP.toStable
      with_reducible refine keep_ite (fun _ => ?_) (fun _ => ?_)
      · with_reducible apply State.setMslot_keeps hP.toStable
        with_reducible assumption
      · with_reducible assumption
    · with_reducible apply done_keeps hP.toStable
      with_reducible apply State.stepsTick_keeps hP
      with_reducible assumption

theorem execReloadRetry_keeps {P : State → Prop} (hP : Stable P) {a0 : Nat} {s : State} (h : P s) :
    (Nxt P) (execReloadRetry a0 s) := by
  unfold execReloadRetry
  with_reducible apply done_keeps hP
  with_reducible refine keep_ite (fun _ => ?_) (fun _ => ?_)
  · with_reducible apply State.setReload_keeps hP
    with_reducible assumption
  · with_reducible assumption

theorem State.recomputeFail_keeps {P : State → Prop} (hP : Stable P) {s : State} {a1 : Nat} (h : P s) :
    P (State.recomputeFail s a1) := by
  unfold State.recomputeFail
  extract_lets t1 t2
  clear_value t1
  have h3 : P t2 := by
    unfold t2
    with_reducible apply State.setSeq_keeps hP
    with_reducible assumption
  clear_value t2
  with_reducible apply State.err_keeps hP
  with_reducible apply State.bump_keeps hP
  with_reducible apply State.event_keeps hP
  with_reducible assumption

theorem State.recomputeDone_keeps {P : State → Prop} (hP : Stable P) {s : State} {a1 : Nat} (h : P s) :
    P (State.recomputeDone s a1) := by
  unfold State.recomputeDone
  extract_lets t1 t2
  clear_value t1
  have h3 : P t2 := by
    unfold t2
    with_reducible apply State.setSeq_keeps hP
    with_reducible assumption
  clear_value t2
  with_reducible apply State.bump_keeps hP
  with_reducible apply State.event_keeps hP
  with_reducible assumption

theorem State.lookAt_keeps {P : State → Prop} (hP : StableMem P) {s : State} {a1 : Nat} {a2 : Nat} (h : P s) :
    P (State.lookAt s a1 a2) := by
  unfold State.lookAt
  with_reducible apply keep_foldl (Q := P)
  · with_reducible assumption
  · intro x1 x2 x3
    with_reducible apply State.checkWord_keeps hP
    with_reducible assumption

theorem State.replacePages_keeps {P : State → Prop} (hP : StableMem P) {s : State} {a1 : Nat} {a2 : PList} {a3 : List (Nat × Nat × Nat)} (h : P s) :
    (Exc P (Fst P)) (State.replacePages s a1 a2 a3) := by
  unfold State.replacePages
  with_reducible refine keep_ite (fun _ => ?_) (fun _ => ?_)
  · with_reducible apply keep_error
    with_reducible assumption
  · split
    · with_reducible apply keep_error
      with_reducible apply keep_snd
      refine keep_of_error' (Q := Snd P) (R := Snd P) ‹_ = Except.error _› ?_
      with_reducible apply State.takePages_keeps hP
      with_reducible assumption
    · with_reducible apply keep_ok
      with_reducible apply keep_pair_fst
      with_reducible apply keep_foldl (Q := P)
      · refine keep_of_ok (R := Snd P) ‹_ = Except.ok (_, _)› ?_
        with_reducible apply State.takePages_keeps hP
        with_reducible assumption
      · intro x6 x7 x8
        extract_lets t9
        have h10 : P t9 := by
          unfold t9
          with_reducible apply State.setEntryAt_keeps hP
          with_reducible assumption
        clear_value t9
        with_reducible refine keep_ite (fun _ => ?_) (fun _ => ?_)
        · with_reducible apply State.returnPage_keeps hP
          with_reducible assumption
        · with_reducible assumption

theorem State.recomputeBegin_keeps {P : State → Prop} (hP : StableMem P) {s : State} {a1 : Nat} (h : P s) :
    (Fst P) (State.recomputeBegin s a1) := by
  unfold State.recomputeBegin
  extract_lets t src e t2 p0
  have h1 : P t := State.toRecovering_keeps hP.toStable h
  have h2 : P t2 := State.setSeq_keeps hP.toStable h1
  clear_value t src e t2 p0
  split
  · exact keep_pair_fst (State.recomputeFail_keeps hP.toStable h2)
  · split
    · exact keep_pair_fst (State.recomputeDone_keeps hP.toStable h2)
    · split
      · exact keep_pair_fst (State.recomputeFail_keeps hP.toStable (State.lookAt_keeps hP h2))
      · rename_i t3 l _ _ _
        have h3 : P t3 := State.lookAt_keeps hP h2
        clear_value t3 l
        have hr : Exc P (Fst P) (t3.replacePages e.part l (t3.toReplace e.part l (p0 / 64) true)) := State.replacePages_keeps hP h3
        split
        · exact keep_pair_fst (State.recomputeFail_keeps hP.toStable (hr.1 _ ‹_›))
        · rename_i u main eu
          have hu : P u := hr.2 _ eu
          extract_lets d r
          have hd : Exc P (Fst P) r := by
            unfold r
            split
            · exact keep_ok hu
            · exact State.replacePages_keeps hP hu
          clear_value d r
          split
          · exact keep_pair_fst (State.recomputeFail_keeps hP.toStable (hd.1 _ rfl))
          · exact keep_pair_fst (State.setSeq_keeps hP.toStable (hd.2 (_, _) rfl))

theorem State.recomputeChunk_keeps {P : State → Prop} (hP : StableMem P) {s : State} {a1 : Nat} {a2 : List (Bool × Nat × Nat)} (h : P s) :
    (Opt P) (State.recomputeChunk s a1 a2) := by
  unfold State.recomputeChunk
  extract_lets e n w r
  have hr : Fst P r := State.admitWorks_keeps hP h
  clear_value r
  split
  · exact keep_some (State.recomputeFail_keeps hP.toStable hr)
  · intro u hu
    obtain ⟨y, ey, rfl⟩ := Option.map_eq_some_iff.mp hu
    have hw : Opt (Snd P) (r.1.takeWork e.part (r.1.stepSpace (r.2.map fun a => a.work))) := State.takeWork_keeps hP.toStable hr
    exact State.beginStep_keeps hP (State.poolLow_keeps hP (hw _ ey))

theorem execRecompute_keeps {P : State → Prop} (hP : StableMem P) {a0 : Nat} {s : State} (h : P s) :
    (Nxt P) (execRecompute a0 s) := by
  unfold execRecompute
  extract_lets t1 t2
  clear_value t1
  have h3 : (Fst (P)) t2 := by
    unfold t2
    with_reducible refine keep_ite (fun _ => ?_) (fun _ => ?_)
    · with_reducible assumption
    · with_reducible apply State.recomputeBegin_keeps hP
      with_reducible assumption
  clear_value t2
  with_reducible refine keep_ite (fun _ => ?_) (fun _ => ?_)
  · with_reducible apply done_keeps hP.toStable
    with_reducible assumption
  · with_reducible refine keep_ite (fun _ => ?_) (fun _ => ?_)
    · with_reducible apply done_keeps hP.toStable
      with_reducible apply State.toRecovering_keeps hP.toStable
      with_reducible assumption
    · with_reducible apply done_keeps hP.toStable
      with_reducible refine keep_ite (fun _ => ?_) (fun _ => ?_)
      · with_reducible apply keep_getD
        · with_reducible apply State.recomputeChunk_keeps hP
          with_reducible assumption
        · with_reducible apply State.toRecovering_keeps hP.toStable
          with_reducible assumption
      · with_reducible assumption

theorem execRecomputeEnd_keeps {P : State → Prop} (hP : StableMem P) {a0 : Nat} {s : State} (h : P s) :
    (Nxt P) (execRecomputeEnd a0 s) := by
  unfold execRecomputeEnd
  split
  · with_reducible apply done_keeps hP.toStable
    with_reducible assumption
  · with_reducible refine keep_ite (fun _ => ?_) (fun _ => ?_)
    · with_reducible apply done_keeps hP.toStable
      with_reducible apply State.builderGo_keeps hP
      with_reducible assumption
    · extract_lets t1
      have h2 : P t1 := by
        unfold t1
        with_reducible apply State.flushStep_keeps hP
        with_reducible assumption
      clear_value t1
      split
      · with_reducible apply done_keeps hP.toStable
        with_reducible assumption
      · with_reducible refine keep_ite (fun _ => ?_) (fun _ => ?_)
        · with_reducible apply done_keeps hP.toStable
          with_reducible assumption
        · extract_lets t3 t4 t5 t6
          have h7 : P t3 := by
            unfold t3
            with_reducible apply State.dropStep_keeps hP
            with_reducible assumption
          clear_value t3 t4 t5 t6
          with_reducible refine keep_ite (fun _ => ?_) (fun _ => ?_)
          · with_reducible apply done_keeps hP.toStable
            with_reducible apply State.setSeq_keeps hP.toStable
            with_reducible assumption
          · with_reducible refine keep_ite (fun _ => ?_) (fun _ => ?_)
            · with_reducible apply done_keeps hP.toStable
              with_reducible apply State.recomputeFail_keeps hP.toStable
              with_reducible assumption
            · with_reducible refine keep_ite (fun _ => ?_) (fun _ => ?_)
              · with_reducible apply done_keeps hP.toStable
                with_reducible apply State.recomputeDone_keeps hP.toStable
                with_reducible assumption
              · with_reducible apply done_keeps hP.toStable
                with_reducible apply State.setSeq_keeps hP.toStable
                with_reducible assumption

theorem State.haltUnit_keeps {P : State → Prop} (hP : StableMem P) {s : State} {a1 : Blk} {a2 : Nat} (h : P s) :
    P (State.haltUnit s a1 a2) := by
  unfold State.haltUnit
  split
  · with_reducible apply State.halt_keeps hP.toStable
    with_reducible assumption
  · extract_lets t1 t2 t3 t4
    clear_value t1 t2
    have h5 : P t3 := by
      unfold t3
      with_reducible apply hP.toStable.rest
      with_reducible assumption
    clear_value t3
    have h6 : P t4 := by
      unfold t4
      with_reducible apply keep_foldl (Q := P)
      · with_reducible assumption
      · intro x7 x8 x9
        with_reducible apply State.workFail_keeps hP.toStable
        with_reducible assumption
    clear_value t4
    with_reducible apply keep_foldl (Q := P)
    · with_reducible assumption
    · intro x10 x11 x12
      with_reducible apply State.endWalk_keeps hP.toStable
      with_reducible assumption
  · with_reducible apply State.stackGone_keeps hP
    with_reducible assumption
  · extract_lets t13 t14
    clear_value t13
    have h15 : P t14 := by
      unfold t14
      with_reducible apply State.setQlink_keeps hP.toStable
      with_reducible assumption
    clear_value t14
    with_reducible apply keep_foldl (Q := P)
    · with_reducible assumption
    · intro x16 x17 x18
      with_reducible apply State.answerUse_keeps hP
      with_reducible assumption
  · with_reducible assumption

theorem State.quarantine_keeps {P : State → Prop} (hP : StableMem P) {s : State} {a1 : Blk} {a2 : Nat} (h : P s) :
    P (State.quarantine s a1 a2) := by
  unfold State.quarantine
  extract_lets t1 t2 t3
  clear_value t1
  have h4 : P t2 := by
    unfold t2
    with_reducible apply State.setUnit_keeps hP.toStable
    with_reducible apply State.haltUnit_keeps hP
    with_reducible assumption
  clear_value t2
  have h5 : P t3 := by
    unfold t3
    with_reducible refine keep_ite (fun _ => ?_) (fun _ => ?_)
    · with_reducible apply State.stackLost_keeps hP
      with_reducible assumption
    · with_reducible assumption
  clear_value t3
  with_reducible apply State.msgQuarantine_keeps hP
  with_reducible assumption

theorem execUnitAudit_keeps {P : State → Prop} (hP : StableMem P) {a0 : Nat} {a1 : Nat} {a2 : Bool} {s : State} (h : P s) :
    (Nxt P) (execUnitAudit a0 a1 a2 s) := by
  unfold execUnitAudit
  split
  · with_reducible apply done_keeps hP.toStable
    with_reducible assumption
  · with_reducible refine keep_ite (fun _ => ?_) (fun _ => ?_)
    · with_reducible apply done_keeps hP.toStable
      with_reducible apply State.quarantine_keeps hP
      with_reducible assumption
    · with_reducible apply done_keeps hP.toStable
      with_reducible assumption

theorem State.retireUnit_keeps {P : State → Prop} (hP : StableMem P) {s : State} {a1 : Blk} {a2 : Nat} (h : P s) :
    P (State.retireUnit s a1 a2) := by
  unfold State.retireUnit
  split
  · with_reducible apply State.retireBrick_keeps hP.toStable
    with_reducible assumption
  · split
    · with_reducible apply State.slabSpare_keeps hP
      with_reducible assumption
    · with_reducible assumption
  · with_reducible apply State.linkDisable_keeps hP
    with_reducible assumption
  · with_reducible apply State.setUnit_keeps hP.toStable
    with_reducible apply State.stackGone_keeps hP
    with_reducible assumption
  · with_reducible apply State.setUnit_keeps hP.toStable
    with_reducible assumption

theorem execReconcile_keeps {P : State → Prop} (hP : StableMem P) {a0 : Nat} {a1 : Nat} {a2 : Bool} {a3 : Bool} {a4 : Bool} {s : State} (h : P s) :
    (Nxt P) (execReconcile a0 a1 a2 a3 a4 s) := by
  unfold execReconcile
  split
  · with_reducible apply done_keeps hP.toStable
    with_reducible assumption
  · with_reducible refine keep_ite (fun _ => ?_) (fun _ => ?_)
    · with_reducible apply done_keeps hP.toStable
      with_reducible assumption
    · extract_lets t1
      have h2 : ∀ y0 y1, P y1 → (P) (t1 y0 y1) := by
        unfold t1
        intro x3 x4 x5
        extract_lets t6
        have h7 : P t6 := by
          unfold t6
          with_reducible apply State.setUnit_keeps hP.toStable
          with_reducible assumption
        clear_value t6
        with_reducible apply State.msgQuarantine_keeps hP
        with_reducible assumption
      clear_value t1
      with_reducible refine keep_ite (fun _ => ?_) (fun _ => ?_)
      · with_reducible apply done_keeps hP.toStable
        with_reducible apply h2
        with_reducible assumption
      · with_reducible refine keep_ite (fun _ => ?_) (fun _ => ?_)
        · with_reducible apply done_keeps hP.toStable
          with_reducible apply h2
          with_reducible assumption
        · with_reducible refine keep_ite (fun _ => ?_) (fun _ => ?_)
          · with_reducible apply done_keeps hP.toStable
            with_reducible assumption
          · with_reducible refine keep_ite (fun _ => ?_) (fun _ => ?_)
            · with_reducible apply done_keeps hP.toStable
              with_reducible apply h2
              with_reducible apply State.resetUnit_keeps hP
              with_reducible assumption
            · with_reducible apply done_keeps hP.toStable
              with_reducible apply State.msgQuarantine_keeps hP
              with_reducible apply State.setUnit_keeps hP.toStable
              with_reducible apply State.retireUnit_keeps hP
              with_reducible assumption

theorem State.drawNonce_keeps {P : State → Prop} (hP : Stable P) {s : State} (h : P s) :
    P (State.drawNonce s) := by
  unfold State.drawNonce
  with_reducible apply State.setPair_keeps hP
  with_reducible apply hP.rest
  with_reducible assumption

theorem State.grantCredits_keeps {P : State → Prop} (hP : Stable P) {s : State} {a1 : Nat} (h : P s) :
    P (State.grantCredits s a1) := by
  unfold State.grantCredits
  with_reducible refine keep_ite (fun _ => ?_) (fun _ => ?_)
  · with_reducible apply State.setHlink_keeps hP
    with_reducible assumption
  · with_reducible assumption

theorem State.mainbandUp_keeps {P : State → Prop} (hP : Stable P) {s : State} (h : P s) :
    P (State.mainbandUp s) := by
  unfold State.mainbandUp
  extract_lets t1
  have h2 : P t1 := by
    unfold t1
    with_reducible apply State.setF_keeps hP
    with_reducible apply State.setF_keeps hP
    with_reducible apply State.setF_keeps hP
    with_reducible assumption
  clear_value t1
  with_reducible apply State.setFlag_keeps hP
  with_reducible apply State.setFlag_keeps hP
  with_reducible assumption

theorem State.bootFails_keeps {P : State → Prop} (hP : Stable P) {s : State} {a1 : Nat} (h : P s) :
    P (State.bootFails s a1) := by
  unfold State.bootFails
  extract_lets t1 t2 t3
  have h4 : P t1 := by
    unfold t1
    with_reducible apply State.setF_keeps hP
    with_reducible apply State.setF_keeps hP
    with_reducible assumption
  clear_value t1
  have h5 : P t3 := by
    unfold t3
    with_reducible apply hP.dev
    with_reducible assumption
  clear_value t3
  with_reducible refine keep_ite (fun _ => ?_) (fun _ => ?_)
  · with_reducible apply State.grantCredits_keeps hP
    with_reducible apply State.grantCredits_keeps hP
    with_reducible apply State.setUnit_keeps hP
    with_reducible apply State.mainbandUp_keeps hP
    with_reducible assumption
  · with_reducible assumption

theorem State.runs_keeps {P : State → Prop} (hP : Stable P) {s : State} {a1 : Nat} {a2 : Nat} (h : P s) :
    P (State.runs s a1 a2) := by
  unfold State.runs
  extract_lets t1 t2
  have h3 : P t1 := by
    unfold t1
    with_reducible apply State.setF_keeps hP
    with_reducible assumption
  clear_value t1 t2
  with_reducible apply hP.rest
  with_reducible assumption

theorem State.measureImage_keeps {P : State → Prop} (hP : Stable P) {s : State} {a1 : Nat} {a2 : Nat} (h : P s) :
    P (State.measureImage s a1 a2) := by
  unfold State.measureImage
  with_reducible apply State.measure_keeps hP
  with_reducible assumption

theorem State.showPending_keeps {P : State → Prop} (hP : Stable P) {s : State} (h : P s) :
    P (State.showPending s) := by
  unfold State.showPending
  extract_lets t1
  have h2 : P t1 := by
    unfold t1
    with_reducible apply State.setF_keeps hP
    with_reducible assumption
  clear_value t1
  with_reducible apply keep_foldl (Q := P)
  · with_reducible assumption
  · intro x3 x4 x5
    split
    · with_reducible apply State.setF_keeps hP
      with_reducible apply State.setFlag_keeps hP
      with_reducible assumption
    · with_reducible apply State.setF_keeps hP
      with_reducible apply State.setFlag_keeps hP
      with_reducible assumption

theorem State.bootImages_keeps {P : State → Prop} (hP : Stable P) {s : State} {a1 : List Nat} (h : P s) :
    P (State.bootImages s a1) := by
  unfold State.bootImages
  split
  · extract_lets t1 t2 t3 t4 t5
    have h6 : P t1 := by
      unfold t1
      with_reducible apply keep_foldl (Q := P)
      · with_reducible assumption
      · intro x7 x8 x9
        with_reducible apply State.runs_keeps hP
        with_reducible apply State.measureImage_keeps hP
        with_reducible assumption
    clear_value t1
    have h10 : P t2 := by
      unfold t2
      with_reducible apply State.setF_keeps hP
      with_reducible apply State.showPending_keeps hP
      with_reducible assumption
    clear_value t2
    have h11 : P t3 := by
      unfold t3
      with_reducible apply keep_foldl (Q := P)
      · with_reducible assumption
      · intro x12 x13 x14
        with_reducible apply State.setF_keeps hP
        with_reducible assumption
    clear_value t3
    have h15 : P t4 := by
      unfold t4
      with_reducible apply State.setUnit_keeps hP
      with_reducible apply State.setUnit_keeps hP
      with_reducible assumption
    clear_value t4
    unfold t5
    with_reducible apply hP.dev
    with_reducible assumption
  · with_reducible apply State.bootFails_keeps hP
    with_reducible assumption

theorem State.mountFooting_keeps {P : State → Prop} (hP : Stable P) {s : State} (h : P s) :
    P (State.mountFooting s) := by
  unfold State.mountFooting
  extract_lets t1 t2 t3
  clear_value t1
  have h4 : P t2 := by
    unfold t2
    with_reducible apply State.setF_keeps hP
    with_reducible apply State.setF_keeps hP
    with_reducible assumption
  clear_value t2
  have h5 : P t3 := by
    unfold t3
    with_reducible apply State.setUnit_keeps hP
    with_reducible assumption
  clear_value t3
  with_reducible apply keep_foldl (Q := P)
  · with_reducible assumption
  · intro x6 x7 x8
    extract_lets t9
    clear_value t9
    with_reducible apply State.setUnit_keeps hP
    with_reducible apply State.setF_keeps hP
    with_reducible apply State.setF_keeps hP
    with_reducible assumption

theorem execKeystoneBoot_keeps {P : State → Prop} (hP : Stable P) {a0 : Bool} {a1 : Bool} {a2 : Bool} {a3 : Bool} {a4 : List Byte} {a5 : List Nat} {s : State} (h : P s) :
    (Nxt P) (execKeystoneBoot a0 a1 a2 a3 a4 a5 s) := by
  unfold execKeystoneBoot
  with_reducible refine keep_ite (fun _ => ?_) (fun _ => ?_)
  · with_reducible apply done_keeps hP
    with_reducible assumption
  · extract_lets t1 t2 t3 t4 t5 t6
    have h7 : P t1 := by
      unfold t1
      with_reducible apply State.setUnit_keeps hP
      with_reducible apply State.setUnit_keeps hP
      with_reducible apply State.drawNonce_keeps hP
      with_reducible assumption
    clear_value t1
    have h8 : P t2 := by
      unfold t2
      with_reducible apply State.measure_keeps hP
      with_reducible assumption
    clear_value t2
    have h9 : P t5 := by
      unfold t5
      with_reducible apply hP.dev
      with_reducible assumption
    clear_value t5
    have h10 : P t6 := by
      unfold t6
      with_reducible apply State.putHash_keeps hP
      with_reducible assumption
    clear_value t6
    with_reducible refine keep_ite (fun _ => ?_) (fun _ => ?_)
    · with_reducible apply done_keeps hP
      with_reducible apply State.bootFails_keeps hP
      with_reducible assumption
    · with_reducible refine keep_ite (fun _ => ?_) (fun _ => ?_)
      · with_reducible apply done_keeps hP
        with_reducible apply State.bootFails_keeps hP
        with_reducible assumption
      · with_reducible refine keep_ite (fun _ => ?_) (fun _ => ?_)
        · with_reducible apply done_keeps hP
          with_reducible apply State.bootFails_keeps hP
          with_reducible assumption
        · with_reducible refine keep_ite (fun _ => ?_) (fun _ => ?_)
          · with_reducible apply done_keeps hP
            with_reducible apply State.bootFails_keeps hP
            with_reducible apply State.setF_keeps hP
            with_reducible assumption
          · with_reducible apply done_keeps hP
            with_reducible apply State.bootImages_keeps hP
            with_reducible apply State.mountFooting_keeps hP
            with_reducible assumption

theorem State.bringLintel_keeps {P : State → Prop} (hP : Stable P) {s : State} {a1 : Bool} (h : P s) :
    P (State.bringLintel s a1) := by
  unfold State.bringLintel
  with_reducible refine keep_ite (fun _ => ?_) (fun _ => ?_)
  · with_reducible apply State.setUnit_keeps hP
    with_reducible apply State.mainbandUp_keeps hP
    with_reducible assumption
  · with_reducible apply State.startupFails_keeps hP
    with_reducible assumption

theorem State.bringSlabs_keeps {P : State → Prop} (hP : Stable P) {s : State} {a1 : List Nat} {a2 : List Nat} (h : P s) :
    P (State.bringSlabs s a1 a2) := by
  unfold State.bringSlabs
  extract_lets t1 t2 t3 t4 t5 t6 t7 t8 t9
  clear_value t1
  have h10 : P t2 := by
    unfold t2
    with_reducible apply keep_foldl (Q := P)
    · with_reducible assumption
    · intro x11 x12 x13
      with_reducible apply State.err_keeps hP
      with_reducible assumption
  clear_value t2
  have h14 : P t3 := by
    unfold t3
    with_reducible refine keep_ite (fun _ => ?_) (fun _ => ?_)
    · with_reducible apply State.err_keeps hP
      with_reducible assumption
    · with_reducible assumption
  clear_value t3 t4
  have h15 : P t5 := by
    unfold t5
    with_reducible apply keep_foldl (Q := P)
    · with_reducible assumption
    · intro x16 x17 x18
      with_reducible apply State.bumpGen_keeps hP
      with_reducible assumption
  clear_value t5
  have h19 : P t6 := by
    unfold t6
    with_reducible apply State.setF_keeps hP
    with_reducible apply State.setPair_keeps hP
    with_reducible assumption
  clear_value t6 t7
  have h20 : P t8 := by
    unfold t8
    with_reducible apply hP.rest
    with_reducible assumption
  clear_value t8
  have h21 : P t9 := by
    unfold t9
    with_reducible apply State.setF_keeps hP
    with_reducible assumption
  clear_value t9
  with_reducible refine keep_ite (fun _ => ?_) (fun _ => ?_)
  · with_reducible apply State.startupFails_keeps hP
    with_reducible assumption
  · with_reducible assumption

theorem State.mapDie_keeps {P : State → Prop} (hP : Stable P) {s : State} {a1 : List Nat} {a2 : Nat} (h : P s) :
    P (State.mapDie s a1 a2) := by
  unfold State.mapDie
  extract_lets t1 t2 t3
  clear_value t1 t2 t3
  with_reducible apply hP.rest
  with_reducible assumption

theorem State.bringBricks_keeps {P : State → Prop} (hP : Stable P) {s : State} {a1 : List Nat} (h : P s) :
    P (State.bringBricks s a1) := by
  unfold State.bringBricks
  extract_lets t1
  have h2 : P t1 := by
    unfold t1
    with_reducible apply keep_foldl (Q := P)
    · with_reducible assumption
    · intro x3 x4 x5
      with_reducible apply State.err_keeps hP
      with_reducible assumption
  clear_value t1
  with_reducible apply keep_foldl (Q := P)
  · with_reducible assumption
  · intro x6 x7 x8
    with_reducible apply State.mapDie_keeps hP
    with_reducible assumption

theorem State.reapplyRepairs_keeps {P : State → Prop} (hP : Stable P) {s : State} {a1 : Nat} (h : P s) :
    P (State.reapplyRepairs s a1) := by
  unfold State.reapplyRepairs
  with_reducible apply keep_foldl (Q := P)
  · with_reducible assumption
  · intro x1 x2 x3
    with_reducible refine keep_ite (fun _ => ?_) (fun _ => ?_)
    · extract_lets t4 t5
      clear_value t4 t5
      with_reducible apply State.setF_keeps hP
      with_reducible assumption
    · extract_lets t6 t7 t8 t9
      clear_value t6 t7
      have h10 : P t8 := by
        unfold t8
        with_reducible apply hP.rest
        with_reducible assumption
      clear_value t8
      have h11 : P t9 := by
        unfold t9
        with_reducible apply State.setF_keeps hP
        with_reducible assumption
      clear_value t9
      with_reducible apply State.setF_keeps hP
      with_reducible assumption

theorem State.stackFailsTest_keeps {P : State → Prop} (hP : Stable P) {s : State} {a1 : Nat} (h : P s) :
    P (State.stackFailsTest s a1) := by
  unfold State.stackFailsTest
  extract_lets t1 t2
  have h3 : P t1 := by
    unfold t1
    with_reducible apply State.err_keeps hP
    with_reducible apply State.setUnit_keeps hP
    with_reducible apply State.setF_keeps hP
    with_reducible assumption
  clear_value t1
  unfold t2
  with_reducible apply hP.dev
  with_reducible assumption

theorem State.bringStacks_keeps {P : State → Prop} (hP : Stable P) {s : State} {a1 : List Nat} (h : P s) :
    P (State.bringStacks s a1) := by
  unfold State.bringStacks
  with_reducible apply keep_foldl (Q := P)
  · with_reducible assumption
  · intro x1 x2 x3
    extract_lets t4
    have h5 : P t4 := by
      unfold t4
      with_reducible apply State.reapplyRepairs_keeps hP
      with_reducible assumption
    clear_value t4
    with_reducible refine keep_ite (fun _ => ?_) (fun _ => ?_)
    · with_reducible apply State.stackFailsTest_keeps hP
      with_reducible assumption
    · with_reducible apply State.stkTrain_keeps hP
      with_reducible assumption

theorem State.bringLinks_keeps {P : State → Prop} (hP : Stable P) {s : State} {a1 : List Nat} (h : P s) :
    P (State.bringLinks s a1) := by
  unfold State.bringLinks
  extract_lets t1 t2
  clear_value t1
  have h3 : P t2 := by
    unfold t2
    with_reducible apply hP.rest
    with_reducible assumption
  clear_value t2
  with_reducible apply keep_foldl (Q := P)
  · with_reducible assumption
  · intro x4 x5 x6
    with_reducible apply State.linkTrain_keeps hP
    with_reducible assumption

theorem execBringup_keeps {P : State → Prop} (hP : Stable P) {a0 : List Nat} {a1 : List Nat} {a2 : List Nat} {a3 : List Nat} {a4 : List Nat} {a5 : Bool} {s : State} (h : P s) :
    (Nxt P) (execBringup a0 a1 a2 a3 a4 a5 s) := by
  unfold execBringup
  with_reducible refine keep_ite (fun _ => ?_) (fun _ => ?_)
  · with_reducible apply done_keeps hP
    with_reducible assumption
  · extract_lets t1 t2
    have h3 : P t1 := by
      unfold t1
      with_reducible apply State.setF_keeps hP
      with_reducible apply keep_foldl (Q := P)
      · with_reducible assumption
      · intro x4 x5 x6
        with_reducible apply State.setUnit_keeps hP
        with_reducible assumption
    clear_value t1
    have h7 : P t2 := by
      unfold t2
      with_reducible apply State.bringLintel_keeps hP
      with_reducible apply State.bringSlabs_keeps hP
      with_reducible apply State.bringBricks_keeps hP
      with_reducible apply State.bringStacks_keeps hP
      with_reducible assumption
    clear_value t2
    with_reducible apply done_keeps hP
    with_reducible apply State.bringLinks_keeps hP
    with_reducible assumption

theorem execFillStart_keeps {P : State → Prop} (hP : Stable P) {s : State} (h : P s) :
    (Nxt P) (execFillStart s) := by
  unfold execFillStart
  with_reducible refine keep_ite (fun _ => ?_) (fun _ => ?_)
  · with_reducible apply done_keeps hP
    with_reducible apply hP.dev
    with_reducible assumption
  · with_reducible apply done_keeps hP
    with_reducible assumption

theorem State.lockBoot_keeps {P : State → Prop} (hP : Stable P) {s : State} (h : P s) :
    P (State.lockBoot s) := by
  unfold State.lockBoot
  with_reducible apply keep_foldl (Q := P)
  · with_reducible assumption
  · intro x1 x2 x3
    with_reducible apply State.lockPage_keeps hP
    with_reducible assumption

theorem State.takeWorkBlocks_keeps {P : State → Prop} (hP : Stable P) {s : State} {a1 : Nat} {a2 : Nat} (h : P s) :
    P (State.takeWorkBlocks s a1 a2) := by
  unfold State.takeWorkBlocks
  with_reducible apply keep_foldl (Q := P)
  · with_reducible assumption
  · intro x1 x2 x3
    with_reducible apply State.setReg_keeps hP
    with_reducible assumption

theorem State.placeChannel0_keeps {P : State → Prop} (hP : Stable P) {s : State} {a1 : Nat} {a2 : Nat} {a3 : Nat} {a4 : Nat} {a5 : Nat} (h : P s) :
    P (State.placeChannel0 s a1 a2 a3 a4 a5) := by
  unfold State.placeChannel0
  extract_lets t1 t2 t3 t4
  have h5 : P t1 := by
    unfold t1
    with_reducible apply State.takeWorkBlocks_keeps hP
    with_reducible apply State.takeWorkBlocks_keeps hP
    with_reducible apply State.takeWorkBlocks_keeps hP
    with_reducible assumption
  clear_value t1
  have h6 : P t2 := by
    unfold t2
    with_reducible apply State.setPair_keeps hP
    with_reducible apply State.setPair_keeps hP
    with_reducible assumption
  clear_value t2
  have h7 : P t3 := by
    unfold t3
    with_reducible apply State.setF_keeps hP
    with_reducible apply State.setF_keeps hP
    with_reducible assumption
  clear_value t3 t4
  with_reducible apply hP.rest
  with_reducible assumption

theorem State.openHost_keeps {P : State → Prop} (hP : StableMem P) {s : State} {a1 : Nat} {a2 : Nat} {a3 : Nat} {a4 : Nat} {a5 : Nat} (h : P s) :
    P (State.openHost s a1 a2 a3 a4 a5) := by
  unfold State.openHost
  extract_lets t1 t2 t3
  have h4 : P t1 := by
    unfold t1
    with_reducible apply State.lockBoot_keeps hP.toStable
    with_reducible assumption
  clear_value t1
  have h5 : P t2 := by
    unfold t2
    with_reducible apply State.setF_keeps hP.toStable
    with_reducible apply State.setF_keeps hP.toStable
    with_reducible assumption
  clear_value t2
  have h6 : P t3 := by
    unfold t3
    with_reducible apply State.placeChannel0_keeps hP.toStable
    with_reducible apply State.grantCredits_keeps hP.toStable
    with_reducible apply State.grantCredits_keeps hP.toStable
    with_reducible assumption
  clear_value t3
  with_reducible apply State.setFwFlags_keeps hP
  with_reducible assumption

theorem State.freeEngines_keeps {P : State → Prop} (hP : Stable P) {s : State} (h : P s) :
    P (State.freeEngines s) := by
  unfold State.freeEngines
  extract_lets t1
  have h2 : P t1 := by
    unfold t1
    with_reducible apply keep_foldl (Q := P)
    · with_reducible assumption
    · intro x3 x4 x5
      with_reducible apply State.setUnit_keeps hP
      with_reducible assumption
  clear_value t1
  with_reducible apply keep_foldl (Q := P)
  · with_reducible assumption
  · intro x6 x7 x8
    with_reducible apply State.setUnit_keeps hP
    with_reducible assumption

theorem State.freeBlocks_keeps {P : State → Prop} (hP : Stable P) {s : State} (h : P s) :
    P (State.freeBlocks s) := by
  unfold State.freeBlocks
  extract_lets t1 t2 t3
  have h4 : P t1 := by
    unfold t1
    with_reducible apply keep_foldl (Q := P)
    · with_reducible assumption
    · intro x5 x6 x7
      with_reducible apply State.setUnit_keeps hP
      with_reducible assumption
  clear_value t1
  have h8 : P t2 := by
    unfold t2
    with_reducible apply keep_foldl (Q := P)
    · with_reducible assumption
    · intro x9 x10 x11
      with_reducible apply State.setUnit_keeps hP
      with_reducible assumption
  clear_value t2
  have h12 : P t3 := by
    unfold t3
    with_reducible apply keep_foldl (Q := P)
    · with_reducible assumption
    · intro x13 x14 x15
      with_reducible apply State.setUnit_keeps hP
      with_reducible apply State.setUnit_keeps hP
      with_reducible assumption
  clear_value t3
  with_reducible apply State.setUnit_keeps hP
  with_reducible assumption

theorem State.filled_keeps {P : State → Prop} (hP : StableMem P) {s : State} (h : P s) :
    P (State.filled s) := by
  unfold State.filled
  extract_lets dv0 t
  have ht : P t := hP.dev (keep_wipe hP h) _ _ _ _ _ _ _ _ _ _ _ _ _ _ _ _ _ _ _ _ _ _ _ _ _ _ _ _ _
  clear_value t
  refine keep_foldl (Q := P) ht fun u st hu => ?_
  split
  · exact State.setUnit_keeps hP.toStable (State.setF_keeps hP.toStable hu)
  · exact hu

theorem execStartupRelease_keeps {P : State → Prop} (hP : StableMem P) {a0 : Nat} {a1 : Nat} {a2 : Nat} {a3 : Nat} {a4 : Nat} {s : State} (h : P s) :
    (Nxt P) (execStartupRelease a0 a1 a2 a3 a4 s) := by
  unfold execStartupRelease
  with_reducible refine keep_ite (fun _ => ?_) (fun _ => ?_)
  · with_reducible apply done_keeps hP.toStable
    with_reducible assumption
  · with_reducible refine keep_ite (fun _ => ?_) (fun _ => ?_)
    · extract_lets t1 t2
      have h3 : P t1 := by
        unfold t1
        with_reducible apply State.setFlag_keeps hP.toStable
        with_reducible apply State.setFlag_keeps hP.toStable
        with_reducible apply State.openHost_keeps hP
        with_reducible apply State.freeEngines_keeps hP.toStable
        with_reducible apply State.freeBlocks_keeps hP.toStable
        with_reducible apply State.filled_keeps hP
        with_reducible assumption
      clear_value t1
      unfold t2
      with_reducible apply done_keeps hP.toStable
      with_reducible apply hP.toStable.dev
      with_reducible assumption
    · with_reducible refine keep_ite (fun _ => ?_) (fun _ => ?_)
      · extract_lets t4 t5
        have h6 : P t4 := by
          unfold t4
          with_reducible apply State.openHost_keeps hP
          with_reducible apply State.freeBlocks_keeps hP.toStable
          with_reducible assumption
        clear_value t4
        unfold t5
        with_reducible apply done_keeps hP.toStable
        with_reducible apply hP.toStable.dev
        with_reducible assumption
      · with_reducible apply done_keeps hP.toStable
        with_reducible assumption

theorem State.abandonAccesses_keeps {P : State → Prop} (hP : StableMem P) {s : State} (h : P s) :
    P (State.abandonAccesses s) := by
  unfold State.abandonAccesses
  extract_lets t1 t2 t3 t4
  clear_value t1 t2 t3
  have h5 : P t4 := by
    unfold t4
    with_reducible apply hP.toStable.rest
    with_reducible assumption
  clear_value t4
  with_reducible apply keep_foldl (Q := P)
  · with_reducible assumption
  · intro x6 x7 x8
    with_reducible apply State.answerAsker_keeps hP
    with_reducible assumption

theorem State.abandonHeld_keeps {P : State → Prop} (hP : StableMem P) {s : State} (h : P s) :
    P (State.abandonHeld s) := by
  unfold State.abandonHeld
  extract_lets t1 t2
  clear_value t1
  have h3 : P t2 := by
    unfold t2
    with_reducible apply hP.toStable.rest
    with_reducible assumption
  clear_value t2
  with_reducible apply keep_foldl (Q := P)
  · with_reducible assumption
  · intro x4 x5 x6
    with_reducible apply State.answerUse_keeps hP
    with_reducible assumption

theorem State.abandonRemote_keeps {P : State → Prop} (hP : StableMem P) {s : State} {a1 : Nat} (h : P s) :
    P (State.abandonRemote s a1) := by
  unfold State.abandonRemote
  extract_lets t1 t2 t3 t4
  clear_value t1
  have h5 : P t2 := by
    unfold t2
    with_reducible apply State.setQlink_keeps hP.toStable
    with_reducible assumption
  clear_value t2 t3
  have h6 : P t4 := by
    unfold t4
    with_reducible apply hP.toStable.rest
    with_reducible assumption
  clear_value t4
  with_reducible apply keep_foldl (Q := P)
  · with_reducible assumption
  · intro x7 x8 x9
    with_reducible apply State.answerUse_keeps hP
    with_reducible assumption

theorem State.warmClear_keeps {P : State → Prop} (hP : StableMem P) {s : State} (h : P s) :
    P (State.warmClear s) := by
  unfold State.warmClear
  have ht : P (State.abandonHeld ((List.range 64).foldl State.abandonRemote s)).abandonAccesses :=
    State.abandonAccesses_keeps hP (State.abandonHeld_keeps hP (keep_foldl (Q := P) h fun u l hu => State.abandonRemote_keeps hP hu))
  generalize (State.abandonHeld ((List.range 64).foldl State.abandonRemote s)).abandonAccesses = t at ht ⊢
  exact hP.dev (hP.clr (keep_wipe hP ht) _) _ _ _ _ _ _ _ _ _ _ _ _ _ _ _ _ _ _ _ _ _ _ _ _ _ _ _ _ _

theorem execWarmResetDrainEnd_keeps {P : State → Prop} (hP : StableMem P) {a0 : Nat} {s : State} (h : P s) :
    (Nxt P) (execWarmResetDrainEnd a0 s) := by
  unfold execWarmResetDrainEnd
  with_reducible refine keep_ite (fun _ => ?_) (fun _ => ?_)
  · with_reducible apply done_keeps hP.toStable
    with_reducible apply State.setFlag_keeps hP.toStable
    with_reducible apply State.warmClear_keeps hP
    with_reducible assumption
  · with_reducible apply done_keeps hP.toStable
    with_reducible assumption

theorem State.activateBegin_keeps {P : State → Prop} (hP : StableMem P) {s : State} {a1 : Msg} {a2 : Nat} (h : P s) :
    P (State.activateBegin s a1 a2) := by
  unfold State.activateBegin
  extract_lets t1 t2 t3 t4 t5
  clear_value t1
  have h6 : P t2 := by
    unfold t2
    with_reducible apply State.h2fTake_keeps hP.toStable
    with_reducible assumption
  clear_value t2 t3 t4
  have h7 : P t5 := by
    unfold t5
    with_reducible apply hP.toStable.rest
    with_reducible assumption
  clear_value t5
  with_reducible apply State.switchBegin_keeps hP
  with_reducible apply State.journalOpen_keeps hP.toStable
  with_reducible apply State.setOp_keeps hP.toStable
  with_reducible assumption

theorem State.updAnswer_keeps {P : State → Prop} (hP : StableMem P) {s : State} {a1 : Msg} {a2 : Nat} {a3 : List (Nat × Nat × Nat)} (h : P s) :
    P (State.updAnswer s a1 a2 a3) := by
  unfold State.updAnswer
  with_reducible apply State.h2fAnswer_keeps hP
  with_reducible apply State.setF_keeps hP.toStable
  with_reducible assumption

theorem execActivate_keeps {P : State → Prop} (hP : StableMem P) {a0 : Bool} {s : State} (h : P s) :
    (Nxt P) (execActivate a0 s) := by
  unfold execActivate
  split
  · with_reducible apply done_keeps hP.toStable
    with_reducible assumption
  · split
    · with_reducible apply done_keeps hP.toStable
      with_reducible apply State.activateBegin_keeps hP
      with_reducible assumption
    · with_reducible apply done_keeps hP.toStable
      with_reducible apply State.updAnswer_keeps hP
      with_reducible refine keep_ite (fun _ => ?_) (fun _ => ?_)
      · with_reducible apply State.err_keeps hP.toStable
        with_reducible assumption
      · with_reducible assumption

theorem State.fallDone_keeps {P : State → Prop} (hP : StableMem P) {s : State} {a1 : Nat} (h : P s) :
    P (State.fallDone s a1) := by
  unfold State.fallDone
  extract_lets t1 t2 t3 t4 t5 t6 t7
  clear_value t1 t2
  have h8 : P t3 := by
    unfold t3
    with_reducible apply State.runs_keeps hP.toStable
    with_reducible apply State.measureImage_keeps hP.toStable
    with_reducible assumption
  clear_value t3
  have h9 : P t4 := by
    unfold t4
    with_reducible apply keep_foldl (Q := P)
    · with_reducible assumption
    · intro x10 x11 x12
      with_reducible apply State.setImage_keeps hP.toStable
      with_reducible apply State.releaseUnits_keeps hP.toStable
      with_reducible assumption
  clear_value t4 t5 t6
  have h13 : P t7 := by
    unfold t7
    with_reducible apply hP.toStable.rest
    with_reducible assumption
  clear_value t7
  with_reducible apply State.fallNext_keeps hP
  with_reducible apply State.journalClose_keeps hP.toStable
  with_reducible apply State.updEvent_keeps hP
  with_reducible apply State.showPending_keeps hP.toStable
  with_reducible assumption

theorem State.activateDone_keeps {P : State → Prop} (hP : StableMem P) {s : State} {a1 : Nat} (h : P s) :
    P (State.activateDone s a1) := by
  unfold State.activateDone
  extract_lets t1 t2 t3
  clear_value t1
  have h4 : P t2 := by
    unfold t2
    with_reducible apply State.showPending_keeps hP.toStable
    with_reducible apply State.runs_keeps hP.toStable
    with_reducible apply State.measureImage_keeps hP.toStable
    with_reducible assumption
  clear_value t2
  have h5 : P t3 := by
    unfold t3
    with_reducible refine keep_ite (fun _ => ?_) (fun _ => ?_)
    · with_reducible apply State.setF_keeps hP.toStable
      with_reducible apply State.setF_keeps hP.toStable
      with_reducible assumption
    · with_reducible assumption
  clear_value t3
  with_reducible apply State.updReply_keeps hP
  with_reducible apply State.journalClose_keeps hP.toStable
  with_reducible apply State.setOp_keeps hP.toStable
  with_reducible assumption

theorem State.resumeInst_keeps {P : State → Prop} (hP : StableMem P) {s : State} {a1 : Nat} {a2 : Nat} (h : P s) :
    P (State.resumeInst s a1 a2) := by
  unfold State.resumeInst
  extract_lets t1 t2 t3 t4
  have h5 : P t1 := by
    unfold t1
    with_reducible apply State.wakeInst_keeps hP
    with_reducible assumption
  clear_value t1
  have h6 : P t2 := by
    unfold t2
    with_reducible apply State.setF_keeps hP.toStable
    with_reducible assumption
  clear_value t2
  have h7 : P t3 := by
    unfold t3
    with_reducible refine keep_ite (fun _ => ?_) (fun _ => ?_)
    · with_reducible apply State.coreServes_keeps hP
      with_reducible assumption
    · with_reducible assumption
  clear_value t3
  have h8 : P t4 := by
    unfold t4
    with_reducible refine keep_ite (fun _ => ?_) (fun _ => ?_)
    · with_reducible assumption
    · with_reducible refine keep_ite (fun _ => ?_) (fun _ => ?_)
      · with_reducible apply State.setF_keeps hP.toStable
        with_reducible assumption
      · with_reducible assumption
  clear_value t4
  with_reducible apply State.updEvent_keeps hP
  with_reducible assumption

theorem execActivationInstance_keeps {P : State → Prop} (hP : StableMem P) {a0 : Bool} {a1 : Nat} {s : State} (h : P s) :
    (Nxt P) (execActivationInstance a0 a1 s) := by
  unfold execActivationInstance
  extract_lets t1 t2 t3 t4
  clear_value t1 t3
  have h5 : P t4 := by
    unfold t4
    with_reducible apply hP.toStable.rest
    with_reducible assumption
  clear_value t4
  with_reducible refine keep_ite (fun _ => ?_) (fun _ => ?_)
  · with_reducible apply done_keeps hP.toStable
    with_reducible assumption
  · split
    · with_reducible apply done_keeps hP.toStable
      with_reducible refine keep_ite (fun _ => ?_) (fun _ => ?_)
      · with_reducible apply State.fallDone_keeps hP
        with_reducible assumption
      · with_reducible apply State.activateDone_keeps hP
        with_reducible assumption
    · with_reducible refine keep_ite (fun _ => ?_) (fun _ => ?_)
      · with_reducible apply done_keeps hP.toStable
        with_reducible apply State.pauseNext_keeps hP
        with_reducible assumption
      · with_reducible refine keep_ite (fun _ => ?_) (fun _ => ?_)
        · with_reducible apply done_keeps hP.toStable
          with_reducible refine keep_ite (fun _ => ?_) (fun _ => ?_)
          · with_reducible assumption
          · with_reducible apply State.fallAuto_keeps hP
            with_reducible assumption
        · extract_lets t6 t7 t8 t9
          have h10 : P t6 := by
            unfold t6
            with_reducible apply State.resumeInst_keeps hP
            with_reducible assumption
          clear_value t6 t7 t8
          have h11 : P t9 := by
            unfold t9
            with_reducible apply hP.toStable.rest
            with_reducible assumption
          clear_value t9
          with_reducible refine keep_ite (fun _ => ?_) (fun _ => ?_)
          · with_reducible apply done_keeps hP.toStable
            with_reducible apply State.fallAuto_keeps hP
            with_reducible assumption
          · with_reducible refine keep_ite (fun _ => ?_) (fun _ => ?_)
            · with_reducible apply done_keeps hP.toStable
              with_reducible refine keep_ite (fun _ => ?_) (fun _ => ?_)
              · with_reducible apply State.fallDone_keeps hP
                with_reducible assumption
              · with_reducible apply State.activateDone_keeps hP
                with_reducible assumption
            · with_reducible apply done_keeps hP.toStable
              with_reducible refine keep_ite (fun _ => ?_) (fun _ => ?_)
              · with_reducible apply State.pauseNext_keeps hP
                with_reducible assumption
              · with_reducible assumption

theorem State.confirmComp_keeps {P : State → Prop} (hP : Stable P) {s : State} {a1 : Nat} (h : P s) :
    P (State.confirmComp s a1) := by
  unfold State.confirmComp
  extract_lets t1 t2 t3
  clear_value t1
  unfold t2
  clear_value t3
  with_reducible apply hP.dev
  with_reducible assumption

theorem execConfirm_keeps {P : State → Prop} (hP : StableMem P) {s : State} (h : P s) :
    (Nxt P) (execConfirm s) := by
  unfold execConfirm
  split
  · with_reducible apply done_keeps hP.toStable
    with_reducible assumption
  · with_reducible refine keep_ite (fun _ => ?_) (fun _ => ?_)
    · with_reducible apply done_keeps hP.toStable
      with_reducible apply State.updAnswer_keeps hP
      with_reducible assumption
    · with_reducible apply done_keeps hP.toStable
      with_reducible apply State.updAnswer_keeps hP
      with_reducible apply State.showPending_keeps hP.toStable
      with_reducible apply keep_foldl (Q := P)
      · with_reducible assumption
      · intro x1 x2 x3
        with_reducible apply State.confirmComp_keeps hP.toStable
        with_reducible assumption

theorem execRevert_keeps {P : State → Prop} (hP : StableMem P) {s : State} (h : P s) :
    (Nxt P) (execRevert s) := by
  unfold execRevert
  split
  · with_reducible apply done_keeps hP.toStable
    with_reducible assumption
  · extract_lets t1 t2 t3 t4
    clear_value t1
    have h5 : P t2 := by
      unfold t2
      with_reducible apply State.h2fTake_keeps hP.toStable
      with_reducible assumption
    clear_value t2 t3
    have h6 : P t4 := by
      unfold t4
      with_reducible apply hP.toStable.rest
      with_reducible assumption
    clear_value t4
    with_reducible refine keep_ite (fun _ => ?_) (fun _ => ?_)
    · with_reducible apply done_keeps hP.toStable
      with_reducible apply State.updAnswer_keeps hP
      with_reducible assumption
    · with_reducible refine keep_ite (fun _ => ?_) (fun _ => ?_)
      · with_reducible apply done_keeps hP.toStable
        with_reducible apply State.updAnswer_keeps hP
        with_reducible assumption
      · with_reducible refine keep_ite (fun _ => ?_) (fun _ => ?_)
        · with_reducible apply done_keeps hP.toStable
          with_reducible apply State.updAnswer_keeps hP
          with_reducible assumption
        · with_reducible apply done_keeps hP.toStable
          with_reducible apply State.fallBegin_keeps hP
          with_reducible assumption

theorem execUpdStatus_keeps {P : State → Prop} (hP : StableMem P) {s : State} (h : P s) :
    (Nxt P) (execUpdStatus s) := by
  unfold execUpdStatus
  split
  · with_reducible apply done_keeps hP.toStable
    with_reducible assumption
  · with_reducible apply done_keeps hP.toStable
    with_reducible apply State.updAnswer_keeps hP
    with_reducible assumption

theorem execRecoveryComplete_keeps {P : State → Prop} (hP : StableMem P) {a0 : Nat} {s : State} (h : P s) :
    (Nxt P) (execRecoveryComplete a0 s) := by
  unfold execRecoveryComplete
  with_reducible refine keep_ite (fun _ => ?_) (fun _ => ?_)
  · with_reducible apply done_keeps hP.toStable
    with_reducible apply State.stepsTick_keeps hP
    with_reducible apply State.setPartState_keeps hP.toStable
    with_reducible assumption
  · with_reducible apply done_keeps hP.toStable
    with_reducible assumption

theorem execStackLost_keeps {P : State → Prop} (hP : StableMem P) {a0 : Nat} {s : State} (h : P s) :
    (Nxt P) (execStackLost a0 s) := by
  unfold execStackLost
  with_reducible refine keep_ite (fun _ => ?_) (fun _ => ?_)
  · with_reducible apply done_keeps hP.toStable
    with_reducible apply State.stackLost_keeps hP
    with_reducible apply State.setUnit_keeps hP.toStable
    with_reducible apply State.stackGone_keeps hP
    with_reducible assumption
  · with_reducible apply done_keeps hP.toStable
    with_reducible assumption

theorem execUcieRetrainEnd_keeps {P : State → Prop} (hP : Stable P) {a0 : Nat} {a1 : Bool} {s : State} (h : P s) :
    (Nxt P) (execUcieRetrainEnd a0 a1 s) := by
  unfold execUcieRetrainEnd
  extract_lets t1
  clear_value t1
  with_reducible refine keep_ite (fun _ => ?_) (fun _ => ?_)
  · with_reducible apply done_keeps hP
    with_reducible assumption
  · with_reducible refine keep_ite (fun _ => ?_) (fun _ => ?_)
    · with_reducible apply done_keeps hP
      with_reducible apply State.sendHost_keeps hP
      with_reducible apply State.resendFlits_keeps hP
      with_reducible apply State.setHlink_keeps hP
      with_reducible assumption
    · with_reducible refine keep_ite (fun _ => ?_) (fun _ => ?_)
      · with_reducible apply done_keeps hP
        with_reducible apply State.hostLinkDown_keeps hP
        with_reducible assumption
      · with_reducible apply done_keeps hP
        with_reducible apply State.bump_keeps hP
        with_reducible apply State.setHlink_keeps hP
        with_reducible assumption

theorem execHostLinkReturn_keeps {P : State → Prop} (hP : Stable P) {a0 : Nat} {s : State} (h : P s) :
    (Nxt P) (execHostLinkReturn a0 s) := by
  unfold execHostLinkReturn
  extract_lets t1 t2 t3 t4 t5 t6 t7
  clear_value t1 t2
  have h8 : P t3 := by
    unfold t3
    with_reducible apply State.setFlag_keeps hP
    with_reducible assumption
  clear_value t3
  have h9 : P t4 := by
    unfold t4
    with_reducible apply State.setF_keeps hP
    with_reducible assumption
  clear_value t4
  have h10 : P t5 := by
    unfold t5
    with_reducible apply keep_foldl (Q := P)
    · with_reducible assumption
    · intro x11 x12 x13
      with_reducible apply State.setBit_keeps hP
      with_reducible assumption
  clear_value t5
  have h14 : P t6 := by
    unfold t6
    with_reducible apply State.setHlink_keeps hP
    with_reducible assumption
  clear_value t6
  have h15 : P t7 := by
    unfold t7
    with_reducible refine keep_ite (fun _ => ?_) (fun _ => ?_)
    · with_reducible apply State.grantCredits_keeps hP
      with_reducible assumption
    · with_reducible assumption
  clear_value t7
  with_reducible refine keep_ite (fun _ => ?_) (fun _ => ?_)
  · with_reducible apply done_keeps hP
    with_reducible assumption
  · with_reducible apply done_keeps hP
    with_reducible apply keep_foldl (Q := P)
    · with_reducible assumption
    · intro x16 x17 x18
      with_reducible apply State.deliver_keeps hP
      with_reducible assumption

end Sys2Proof.Machine
end

