-- ==== Sys2Proof/Laws/KeepF.lean ====
section
/-! SUPPORT. What the operations over register access and the host interface keep (see Keep.lean). -/

namespace Sys2Proof.Machine

theorem State.selWrite_keeps {P : State → Prop} (hP : Stable P) {s : State} {a1 : Blk} {a2 : Requester} {a3 : Nat} (h : P s) :
    P (State.selWrite s a1 a2 a3) := by
  unfold State.selWrite
  with_reducible refine keep_ite (fun _ => ?_) (fun _ => ?_)
  · with_reducible assumption
  · with_reducible apply State.setF_keeps hP
    with_reducible assumption

theorem State.errClear_keeps {P : State → Prop} (hP : Stable P) {s : State} {a1 : Blk} {a2 : Nat} {a3 : Nat} (h : P s) :
    P (State.errClear s a1 a2 a3) := by
  unfold State.errClear
  extract_lets t1 t2
  clear_value t1
  have h3 : P t2 := by
    unfold t2
    with_reducible apply State.setReg_keeps hP
    with_reducible assumption
  clear_value t2
  with_reducible refine keep_ite (fun _ => ?_) (fun _ => ?_)
  · with_reducible apply State.setFlag_keeps hP
    with_reducible assumption
  · with_reducible assumption

theorem State.setQuiesce_keeps {P : State → Prop} (hP : StableMem P) {s : State} {a1 : Blk} {a2 : Nat} {a3 : Bool} (h : P s) :
    P (State.setQuiesce s a1 a2 a3) := by
  unfold State.setQuiesce
  extract_lets t1 t2
  have h3 : P t1 := by
    unfold t1
    with_reducible apply State.setFlag_keeps hP.toStable
    with_reducible assumption
  clear_value t1
  have h4 : P t2 := by
    unfold t2
    with_reducible refine keep_ite (fun _ => ?_) (fun _ => ?_)
    · with_reducible apply State.setUnit_keeps hP.toStable
      with_reducible assumption
    · with_reducible assumption
  clear_value t2
  with_reducible refine keep_ite (fun _ => ?_) (fun _ => ?_)
  · with_reducible refine keep_ite (fun _ => ?_) (fun _ => ?_)
    · with_reducible apply State.setUnit_keeps hP.toStable
      with_reducible assumption
    · with_reducible assumption
  · with_reducible refine keep_ite (fun _ => ?_) (fun _ => ?_)
    · with_reducible apply State.goHeld_keeps hP
      with_reducible assumption
    · with_reducible refine keep_ite (fun _ => ?_) (fun _ => ?_)
      · with_reducible apply State.yardAll_keeps hP
        with_reducible assumption
      · with_reducible assumption

theorem State.ctrlWrite_keeps {P : State → Prop} (hP : StableMem P) {s : State} {a1 : Requester} {a2 : Blk} {a3 : Nat} {a4 : Nat} {a5 : Nat} (h : P s) :
    P (State.ctrlWrite s a1 a2 a3 a4 a5) := by
  unfold State.ctrlWrite
  extract_lets t1 t2
  have h3 : P t1 := by
    unfold t1
    with_reducible apply State.setFlag_keeps hP.toStable
    with_reducible assumption
  clear_value t1
  have h4 : P t2 := by
    unfold t2
    with_reducible apply State.setQuiesce_keeps hP
    with_reducible assumption
  clear_value t2
  with_reducible refine keep_ite (fun _ => ?_) (fun _ => ?_)
  · with_reducible assumption
  · with_reducible refine keep_ite (fun _ => ?_) (fun _ => ?_)
    · with_reducible refine keep_ite (fun _ => ?_) (fun _ => ?_)
      · with_reducible apply State.warmReset_keeps hP
        with_reducible assumption
      · with_reducible assumption
    · with_reducible refine keep_ite (fun _ => ?_) (fun _ => ?_)
      · with_reducible refine keep_ite (fun _ => ?_) (fun _ => ?_)
        · with_reducible apply State.partReset_keeps hP
          with_reducible assumption
        · with_reducible assumption
      · with_reducible refine keep_ite (fun _ => ?_) (fun _ => ?_)
        · with_reducible apply State.compReset_keeps hP
          with_reducible assumption
        · with_reducible assumption

theorem State.hdrWrite_keeps {P : State → Prop} (hP : StableMem P) {s : State} {a1 : Requester} {a2 : Blk} {a3 : Nat} {a4 : Nat} {a5 : Nat} {a6 : Nat} (h : P s) :
    P (State.hdrWrite s a1 a2 a3 a4 a5 a6) := by
  unfold State.hdrWrite
  with_reducible refine keep_ite (fun _ => ?_) (fun _ => ?_)
  · with_reducible apply State.errClear_keeps hP.toStable
    with_reducible assumption
  · with_reducible refine keep_ite (fun _ => ?_) (fun _ => ?_)
    · with_reducible refine keep_ite (fun _ => ?_) (fun _ => ?_)
      · with_reducible apply State.ctrlWrite_keeps hP
        with_reducible assumption
      · with_reducible assumption
    · with_reducible refine keep_ite (fun _ => ?_) (fun _ => ?_)
      · with_reducible refine keep_ite (fun _ => ?_) (fun _ => ?_)
        · with_reducible apply State.setReg_keeps hP.toStable
          with_reducible assumption
        · with_reducible assumption
      · with_reducible refine keep_ite (fun _ => ?_) (fun _ => ?_)
        · with_reducible refine keep_ite (fun _ => ?_) (fun _ => ?_)
          · with_reducible apply State.lockPage_keeps hP.toStable
            with_reducible assumption
          · with_reducible assumption
        · with_reducible assumption

theorem State.plainWrite_keeps {P : State → Prop} (hP : Stable P) {s : State} {a1 : Requester} {a2 : RegRow} {a3 : Bool} {a4 : Nat} {a5 : Nat} {a6 : Nat} {a7 : Nat} (h : P s) :
    P (State.plainWrite s a1 a2 a3 a4 a5 a6 a7) := by
  unfold State.plainWrite
  extract_lets t1 t2 t3 t4 t5
  clear_value t1 t2 t3 t4 t5
  with_reducible apply State.setReg_keeps hP
  with_reducible assumption

theorem State.writeA_keeps {P : State → Prop} (hP : StableMem P) {s : State} {a1 : Bool} {a2 : Nat} {a3 : Nat} {a4 : Nat} {a5 : Nat} (h : P s) :
    (Opt P) (State.writeA s a1 a2 a3 a4 a5) := by
  unfold State.writeA
  extract_lets t1 t2 t3 t4
  have h5 : ∀ y0, P y0 → (Opt (P)) (t1 y0) := by
    unfold t1
    intro x6 x7
    with_reducible apply keep_some
    with_reducible refine keep_ite (fun _ => ?_) (fun _ => ?_)
    · with_reducible assumption
    · with_reducible assumption
  clear_value t1
  have h8 : P t2 := by
    unfold t2
    with_reducible refine keep_ite (fun _ => ?_) (fun _ => ?_)
    · with_reducible apply State.writeRestart_keeps hP
      with_reducible assumption
    · with_reducible assumption
  clear_value t2 t3
  have h9 : P t4 := by
    unfold t4
    with_reducible refine keep_ite (fun _ => ?_) (fun _ => ?_)
    · with_reducible apply hP.toStable.rest
      with_reducible assumption
    · with_reducible assumption
  clear_value t4
  with_reducible refine keep_ite (fun _ => ?_) (fun _ => ?_)
  · with_reducible apply keep_some
    with_reducible refine keep_ite (fun _ => ?_) (fun _ => ?_)
    · with_reducible apply State.retireCore_keeps hP
      with_reducible assumption
    · with_reducible assumption
  · with_reducible refine keep_ite (fun _ => ?_) (fun _ => ?_)
    · with_reducible apply h5
      with_reducible apply State.setF_keeps hP.toStable
      with_reducible assumption
    · with_reducible refine keep_ite (fun _ => ?_) (fun _ => ?_)
      · with_reducible apply h5
        with_reducible apply State.setF_keeps hP.toStable
        with_reducible apply State.setF_keeps hP.toStable
        with_reducible assumption
      · with_reducible refine keep_ite (fun _ => ?_) (fun _ => ?_)
        · with_reducible apply h5
          with_reducible apply State.clearSensorFlags_keeps hP.toStable
          with_reducible assumption
        · with_reducible refine keep_ite (fun _ => ?_) (fun _ => ?_)
          · with_reducible apply h5
            with_reducible apply State.writeCeil_keeps hP.toStable
            with_reducible assumption
          · with_reducible refine keep_ite (fun _ => ?_) (fun _ => ?_)
            · with_reducible apply h5
              with_reducible apply State.writeLevels_keeps hP.toStable
              with_reducible assumption
            · with_reducible refine keep_ite (fun _ => ?_) (fun _ => ?_)
              · with_reducible apply keep_some
                with_reducible apply State.setF_keeps hP.toStable
                with_reducible apply State.setFlag_keeps hP.toStable
                with_reducible assumption
              · with_reducible refine keep_ite (fun _ => ?_) (fun _ => ?_)
                · with_reducible apply keep_some
                  with_reducible apply State.setF_keeps hP.toStable
                  with_reducible assumption
                · with_reducible apply keep_none

theorem State.ringBell_keeps {P : State → Prop} (hP : Stable P) {s : State} {a1 : Nat} (h : P s) :
    P (State.ringBell s a1) := by
  unfold State.ringBell
  with_reducible refine keep_ite (fun _ => ?_) (fun _ => ?_)
  · with_reducible assumption
  · with_reducible apply hP.rest
    with_reducible assumption

theorem State.writeB__keeps {P : State → Prop} (hP : StableMem P) {s : State} {a1 : Requester} {a2 : Bool} {a3 : Nat} {a4 : Nat} {a5 : Nat} {a6 : Nat} (h : P s) :
    (Opt (Snd P)) (State.writeB_ s a1 a2 a3 a4 a5 a6) := by
  unfold State.writeB_
  extract_lets t1 t2
  have h3 : ∀ y0, P y0 → (Opt (Snd (P))) (t1 y0) := by
    unfold t1
    intro x4 x5
    with_reducible apply keep_some
    with_reducible assumption
  clear_value t1
  have h6 : ∀ y0, P y0 → (Opt (Snd (P))) (t2 y0) := by
    unfold t2
    intro x7 x8
    with_reducible apply h3
    with_reducible refine keep_ite (fun _ => ?_) (fun _ => ?_)
    · with_reducible assumption
    · with_reducible assumption
  clear_value t2
  with_reducible refine keep_ite (fun _ => ?_) (fun _ => ?_)
  · with_reducible apply h3
    with_reducible apply State.doorbell_keeps hP.toStable
    with_reducible assumption
  · with_reducible refine keep_ite (fun _ => ?_) (fun _ => ?_)
    · with_reducible apply h3
      with_reducible apply State.ringBell_keeps hP.toStable
      with_reducible assumption
    · with_reducible refine keep_ite (fun _ => ?_) (fun _ => ?_)
      · with_reducible apply h3
        with_reducible apply State.ivecWrite_keeps hP.toStable
        with_reducible assumption
      · with_reducible refine keep_ite (fun _ => ?_) (fun _ => ?_)
        · with_reducible apply h6
          with_reducible apply State.setF_keeps hP.toStable
          with_reducible assumption
        · with_reducible refine keep_ite (fun _ => ?_) (fun _ => ?_)
          · with_reducible apply h6
            with_reducible apply State.setF_keeps hP.toStable
            with_reducible assumption
          · with_reducible refine keep_ite (fun _ => ?_) (fun _ => ?_)
            · with_reducible apply h6
              with_reducible apply State.setF_keeps hP.toStable
              with_reducible assumption
            · with_reducible refine keep_ite (fun _ => ?_) (fun _ => ?_)
              · with_reducible apply h6
                with_reducible apply State.setF_keeps hP.toStable
                with_reducible assumption
              · with_reducible refine keep_ite (fun _ => ?_) (fun _ => ?_)
                · with_reducible apply h6
                  with_reducible apply State.setF_keeps hP.toStable
                  with_reducible assumption
                · with_reducible refine keep_ite (fun _ => ?_) (fun _ => ?_)
                  · with_reducible apply h6
                    with_reducible apply State.setF_keeps hP.toStable
                    with_reducible assumption
                  · with_reducible refine keep_ite (fun _ => ?_) (fun _ => ?_)
                    · with_reducible apply h3
                      with_reducible apply State.heartbeat_keeps hP
                      with_reducible assumption
                    · with_reducible refine keep_ite (fun _ => ?_) (fun _ => ?_)
                      · with_reducible apply h3
                        with_reducible apply State.setF_keeps hP.toStable
                        with_reducible assumption
                      · with_reducible refine keep_ite (fun _ => ?_) (fun _ => ?_)
                        · with_reducible apply h3
                          with_reducible apply State.imageCmd_keeps hP.toStable
                          with_reducible assumption
                        · with_reducible refine keep_ite (fun _ => ?_) (fun _ => ?_)
                          · with_reducible apply h3
                            with_reducible apply State.imageSizeWrite_keeps hP.toStable
                            with_reducible assumption
                          · with_reducible refine keep_ite (fun _ => ?_) (fun _ => ?_)
                            · with_reducible apply h3
                              with_reducible apply State.imageSizeWrite_keeps hP.toStable
                              with_reducible assumption
                            · with_reducible refine keep_ite (fun _ => ?_) (fun _ => ?_)
                              · with_reducible apply h3
                                with_reducible refine keep_ite (fun _ => ?_) (fun _ => ?_)
                                · with_reducible apply State.setF_keeps hP.toStable
                                  with_reducible assumption
                                · with_reducible assumption
                              · with_reducible refine keep_ite (fun _ => ?_) (fun _ => ?_)
                                · with_reducible apply h3
                                  with_reducible apply State.regStage_keeps hP.toStable
                                  with_reducible assumption
                                · with_reducible refine keep_ite (fun _ => ?_) (fun _ => ?_)
                                  · with_reducible apply keep_some
                                    with_reducible apply State.regCommit_keeps hP.toStable
                                    with_reducible assumption
                                  · with_reducible refine keep_ite (fun _ => ?_) (fun _ => ?_)
                                    · with_reducible apply h3
                                      with_reducible refine keep_ite (fun _ => ?_) (fun _ => ?_)
                                      · with_reducible apply State.setF_keeps hP.toStable
                                        with_reducible assumption
                                      · with_reducible assumption
                                    · with_reducible apply keep_none

theorem State.writeC_keeps {P : State → Prop} (hP : StableMem P) {s : State} {a1 : Bool} {a2 : Nat} {a3 : Nat} {a4 : Nat} {a5 : Nat} (h : P s) :
    (Opt P) (State.writeC s a1 a2 a3 a4 a5) := by
  unfold State.writeC
  extract_lets t1
  have h2 : ∀ y0, P y0 → (Opt (P)) (t1 y0) := by
    unfold t1
    intro x3 x4
    with_reducible apply keep_some
    with_reducible refine keep_ite (fun _ => ?_) (fun _ => ?_)
    · with_reducible assumption
    · with_reducible assumption
  clear_value t1
  with_reducible refine keep_ite (fun _ => ?_) (fun _ => ?_)
  · with_reducible apply h2
    with_reducible apply State.bentryWrite_keeps hP.toStable
    with_reducible assumption
  · with_reducible refine keep_ite (fun _ => ?_) (fun _ => ?_)
    · with_reducible apply h2
      with_reducible apply State.clsWrite_keeps hP.toStable
      with_reducible assumption
    · with_reducible refine keep_ite (fun _ => ?_) (fun _ => ?_)
      · with_reducible apply h2
        with_reducible apply State.slabSpare_keeps hP
        with_reducible assumption
      · with_reducible refine keep_ite (fun _ => ?_) (fun _ => ?_)
        · with_reducible apply h2
          with_reducible apply State.setF_keeps hP.toStable
          with_reducible apply State.setFlag_keeps hP.toStable
          with_reducible assumption
        · with_reducible refine keep_ite (fun _ => ?_) (fun _ => ?_)
          · with_reducible apply h2
            with_reducible apply State.quotaCacheWrite_keeps hP.toStable
            with_reducible assumption
          · with_reducible refine keep_ite (fun _ => ?_) (fun _ => ?_)
            · with_reducible apply h2
              with_reducible apply State.setF_keeps hP.toStable
              with_reducible assumption
            · with_reducible refine keep_ite (fun _ => ?_) (fun _ => ?_)
              · with_reducible apply h2
                with_reducible apply State.quotaWrite_keeps hP.toStable
                with_reducible assumption
              · with_reducible refine keep_ite (fun _ => ?_) (fun _ => ?_)
                · with_reducible apply keep_some
                  with_reducible apply State.poolSetting_keeps hP.toStable
                  with_reducible assumption
                · with_reducible refine keep_ite (fun _ => ?_) (fun _ => ?_)
                  · with_reducible apply keep_some
                    with_reducible apply State.poolSetting_keeps hP.toStable
                    with_reducible assumption
                  · with_reducible refine keep_ite (fun _ => ?_) (fun _ => ?_)
                    · with_reducible apply keep_some
                      with_reducible apply State.poolSetting_keeps hP.toStable
                      with_reducible assumption
                    · with_reducible refine keep_ite (fun _ => ?_) (fun _ => ?_)
                      · with_reducible apply keep_some
                        with_reducible apply State.poolAdd_keeps hP
                        with_reducible assumption
                      · with_reducible refine keep_ite (fun _ => ?_) (fun _ => ?_)
                        · with_reducible apply keep_some
                          with_reducible apply State.setF_keeps hP.toStable
                          with_reducible apply State.setF_keeps hP.toStable
                          with_reducible assumption
                        · with_reducible refine keep_ite (fun _ => ?_) (fun _ => ?_)
                          · with_reducible apply keep_some
                            with_reducible apply State.setF_keeps hP.toStable
                            with_reducible assumption
                          · with_reducible refine keep_ite (fun _ => ?_) (fun _ => ?_)
                            · with_reducible apply keep_some
                              with_reducible apply State.prefixSetting_keeps hP.toStable
                              with_reducible assumption
                            · with_reducible refine keep_ite (fun _ => ?_) (fun _ => ?_)
                              · with_reducible apply keep_some
                                with_reducible apply State.prefixSetting_keeps hP.toStable
                                with_reducible assumption
                              · with_reducible refine keep_ite (fun _ => ?_) (fun _ => ?_)
                                · with_reducible apply keep_some
                                  with_reducible apply State.prefixSetting_keeps hP.toStable
                                  with_reducible assumption
                                · with_reducible refine keep_ite (fun _ => ?_) (fun _ => ?_)
                                  · with_reducible apply keep_some
                                    with_reducible apply State.prefixSetting_keeps hP.toStable
                                    with_reducible assumption
                                  · with_reducible apply keep_none

theorem State.writeD_keeps {P : State → Prop} (hP : StableMem P) {s : State} {a1 : Bool} {a2 : Nat} {a3 : Nat} {a4 : Nat} {a5 : Nat} (h : P s) :
    (Opt P) (State.writeD s a1 a2 a3 a4 a5) := by
  unfold State.writeD
  extract_lets t1
  have h2 : ∀ y0, P y0 → (Opt (P)) (t1 y0) := by
    unfold t1
    intro x3 x4
    with_reducible apply keep_some
    with_reducible refine keep_ite (fun _ => ?_) (fun _ => ?_)
    · with_reducible assumption
    · with_reducible assumption
  clear_value t1
  with_reducible refine keep_ite (fun _ => ?_) (fun _ => ?_)
  · with_reducible apply keep_some
    with_reducible apply State.prtCmd_keeps hP
    with_reducible assumption
  · with_reducible refine keep_ite (fun _ => ?_) (fun _ => ?_)
    · with_reducible apply keep_some
      with_reducible apply State.modeWrite_keeps hP.toStable
      with_reducible assumption
    · with_reducible refine keep_ite (fun _ => ?_) (fun _ => ?_)
      · with_reducible apply h2
        with_reducible apply State.poolAssign_keeps hP.toStable
        with_reducible assumption
      · with_reducible refine keep_ite (fun _ => ?_) (fun _ => ?_)
        · with_reducible apply h2
          with_reducible apply State.bgrpAssign_keeps hP.toStable
          with_reducible assumption
        · with_reducible refine keep_ite (fun _ => ?_) (fun _ => ?_)
          · with_reducible apply h2
            with_reducible apply State.hodAssign_keeps hP.toStable
            with_reducible assumption
          · with_reducible refine keep_ite (fun _ => ?_) (fun _ => ?_)
            · with_reducible apply h2
              with_reducible apply State.hodAssign_keeps hP.toStable
              with_reducible assumption
            · with_reducible refine keep_ite (fun _ => ?_) (fun _ => ?_)
              · with_reducible apply h2
                with_reducible apply State.rgWrite_keeps hP.toStable
                with_reducible assumption
              · with_reducible refine keep_ite (fun _ => ?_) (fun _ => ?_)
                · with_reducible apply keep_some
                  with_reducible apply State.setF_keeps hP.toStable
                  with_reducible assumption
                · with_reducible refine keep_ite (fun _ => ?_) (fun _ => ?_)
                  · with_reducible apply keep_some
                    with_reducible apply State.setF_keeps hP.toStable
                    with_reducible assumption
                  · with_reducible apply keep_none

theorem State.writeQ_keeps {P : State → Prop} (hP : StableMem P) {s : State} {a1 : Nat} {a2 : Nat} {a3 : Nat} {a4 : Nat} (h : P s) :
    (Opt P) (State.writeQ s a1 a2 a3 a4) := by
  unfold State.writeQ
  extract_lets t1 t2 t3 t4
  have h5 : ∀ y0, P y0 → (Opt (P)) (t1 y0) := by
    unfold t1
    intro x6 x7
    with_reducible apply keep_some
    with_reducible refine keep_ite (fun _ => ?_) (fun _ => ?_)
    · with_reducible assumption
    · with_reducible assumption
  clear_value t1
  have h8 : ∀ y0, P y0 → (Opt (P)) (t2 y0) := by
    unfold t2
    intro x9 x10
    with_reducible apply keep_some
    with_reducible refine keep_ite (fun _ => ?_) (fun _ => ?_)
    · with_reducible assumption
    · with_reducible assumption
  clear_value t2
  have h11 : P t3 := by
    unfold t3
    with_reducible refine keep_ite (fun _ => ?_) (fun _ => ?_)
    · with_reducible apply State.setFlag_keeps hP.toStable
      with_reducible assumption
    · with_reducible assumption
  clear_value t3
  have h12 : P t4 := by
    unfold t4
    with_reducible refine keep_ite (fun _ => ?_) (fun _ => ?_)
    · with_reducible apply State.setFlag_keeps hP.toStable
      with_reducible assumption
    · with_reducible assumption
  clear_value t4
  with_reducible refine keep_ite (fun _ => ?_) (fun _ => ?_)
  · with_reducible apply keep_some
    with_reducible apply State.queueEnable_keeps hP.toStable
    with_reducible assumption
  · with_reducible refine keep_ite (fun _ => ?_) (fun _ => ?_)
    · with_reducible apply h8
      with_reducible apply State.setF_keeps hP.toStable
      with_reducible assumption
    · with_reducible refine keep_ite (fun _ => ?_) (fun _ => ?_)
      · with_reducible apply h8
        with_reducible apply State.setF_keeps hP.toStable
        with_reducible assumption
      · with_reducible refine keep_ite (fun _ => ?_) (fun _ => ?_)
        · with_reducible apply h8
          with_reducible apply State.setF_keeps hP.toStable
          with_reducible assumption
        · with_reducible refine keep_ite (fun _ => ?_) (fun _ => ?_)
          · with_reducible apply keep_some
            with_reducible apply State.doorbell_keeps hP.toStable
            with_reducible assumption
          · with_reducible refine keep_ite (fun _ => ?_) (fun _ => ?_)
            · with_reducible apply keep_some
              with_reducible apply State.setF_keeps hP.toStable
              with_reducible assumption
            · with_reducible refine keep_ite (fun _ => ?_) (fun _ => ?_)
              · with_reducible apply h5
                with_reducible apply State.setF_keeps hP.toStable
                with_reducible assumption
              · with_reducible refine keep_ite (fun _ => ?_) (fun _ => ?_)
                · with_reducible apply h5
                  with_reducible apply State.setF_keeps hP.toStable
                  with_reducible assumption
                · with_reducible refine keep_ite (fun _ => ?_) (fun _ => ?_)
                  · with_reducible apply h5
                    with_reducible apply State.setF_keeps hP.toStable
                    with_reducible assumption
                  · with_reducible refine keep_ite (fun _ => ?_) (fun _ => ?_)
                    · with_reducible apply keep_some
                      with_reducible apply State.ringHead_keeps hP.toStable
                      with_reducible assumption
                    · with_reducible refine keep_ite (fun _ => ?_) (fun _ => ?_)
                      · with_reducible apply h5
                        with_reducible apply State.setF_keeps hP.toStable
                        with_reducible assumption
                      · with_reducible refine keep_ite (fun _ => ?_) (fun _ => ?_)
                        · with_reducible apply h5
                          with_reducible apply State.setF_keeps hP.toStable
                          with_reducible assumption
                        · with_reducible refine keep_ite (fun _ => ?_) (fun _ => ?_)
                          · with_reducible apply h5
                            with_reducible apply State.setF_keeps hP.toStable
                            with_reducible assumption
                          · with_reducible refine keep_ite (fun _ => ?_) (fun _ => ?_)
                            · with_reducible apply keep_some
                              with_reducible apply State.ringHead_keeps hP.toStable
                              with_reducible assumption
                            · with_reducible refine keep_ite (fun _ => ?_) (fun _ => ?_)
                              · with_reducible apply keep_some
                                with_reducible apply State.queueResume_keeps hP
                                with_reducible assumption
                              · with_reducible apply keep_none

theorem State.writeE_keeps {P : State → Prop} (hP : StableMem P) {s : State} {a1 : Bool} {a2 : Nat} {a3 : Nat} {a4 : Nat} {a5 : Nat} (h : P s) :
    (Opt P) (State.writeE s a1 a2 a3 a4 a5) := by
  unfold State.writeE
  extract_lets t1 t2
  have h3 : ∀ y0, P y0 → (Opt (P)) (t1 y0) := by
    unfold t1
    intro x4 x5
    with_reducible apply keep_some
    with_reducible refine keep_ite (fun _ => ?_) (fun _ => ?_)
    · with_reducible assumption
    · with_reducible assumption
  clear_value t1
  have h6 : P t2 := by
    unfold t2
    with_reducible apply State.linkDisable_keeps hP
    with_reducible assumption
  clear_value t2
  with_reducible refine keep_ite (fun _ => ?_) (fun _ => ?_)
  · with_reducible apply keep_some
    with_reducible apply State.cytEnable_keeps hP.toStable
    with_reducible refine keep_ite (fun _ => ?_) (fun _ => ?_)
    · with_reducible apply State.cytCommit_keeps hP.toStable
      with_reducible assumption
    · with_reducible assumption
  · with_reducible refine keep_ite (fun _ => ?_) (fun _ => ?_)
    · with_reducible apply keep_some
      with_reducible apply State.cytShift_keeps hP.toStable
      with_reducible assumption
    · with_reducible refine keep_ite (fun _ => ?_) (fun _ => ?_)
      · with_reducible apply keep_some
        with_reducible apply State.setF_keeps hP.toStable
        with_reducible apply State.setF_keeps hP.toStable
        with_reducible assumption
      · with_reducible refine keep_ite (fun _ => ?_) (fun _ => ?_)
        · with_reducible apply h3
          with_reducible refine keep_ite (fun _ => ?_) (fun _ => ?_)
          · with_reducible apply State.stkTrain_keeps hP.toStable
            with_reducible refine keep_ite (fun _ => ?_) (fun _ => ?_)
            · with_reducible apply State.stackLost_keeps hP
              with_reducible apply State.stackGone_keeps hP
              with_reducible assumption
            · with_reducible assumption
          · with_reducible assumption
        · with_reducible refine keep_ite (fun _ => ?_) (fun _ => ?_)
          · with_reducible apply keep_some
            with_reducible apply State.setReg_keeps hP.toStable
            with_reducible assumption
          · with_reducible refine keep_ite (fun _ => ?_) (fun _ => ?_)
            · with_reducible apply keep_some
              with_reducible apply State.setF_keeps hP.toStable
              with_reducible assumption
            · with_reducible refine keep_ite (fun _ => ?_) (fun _ => ?_)
              · with_reducible apply keep_some
                with_reducible apply State.rprCmd_keeps hP.toStable
                with_reducible assumption
              · with_reducible refine keep_ite (fun _ => ?_) (fun _ => ?_)
                · with_reducible apply h3
                  with_reducible refine keep_ite (fun _ => ?_) (fun _ => ?_)
                  · with_reducible apply State.linkTrain_keeps hP.toStable
                    with_reducible assumption
                  · with_reducible assumption
                · with_reducible refine keep_ite (fun _ => ?_) (fun _ => ?_)
                  · with_reducible apply h3
                    with_reducible apply State.setF_keeps hP.toStable
                    with_reducible apply State.setF_keeps hP.toStable
                    with_reducible assumption
                  · with_reducible refine keep_ite (fun _ => ?_) (fun _ => ?_)
                    · with_reducible apply h3
                      with_reducible apply State.laneSpare_keeps hP.toStable
                      with_reducible assumption
                    · with_reducible refine keep_ite (fun _ => ?_) (fun _ => ?_)
                      · with_reducible apply h3
                        with_reducible apply State.setF_keeps hP.toStable
                        with_reducible assumption
                      · with_reducible refine keep_ite (fun _ => ?_) (fun _ => ?_)
                        · with_reducible apply h3
                          with_reducible apply State.setF_keeps hP.toStable
                          with_reducible assumption
                        · with_reducible refine keep_ite (fun _ => ?_) (fun _ => ?_)
                          · with_reducible apply h3
                            with_reducible apply State.mapCmd_keeps hP.toStable
                            with_reducible assumption
                          · with_reducible refine keep_ite (fun _ => ?_) (fun _ => ?_)
                            · with_reducible apply h3
                              with_reducible apply State.setF_keeps hP.toStable
                              with_reducible assumption
                            · with_reducible apply keep_none

theorem State.rowWrite_keeps {P : State → Prop} (hP : StableMem P) {s : State} {a1 : Requester} {a2 : Nat} {a3 : Nat} {a4 : RegRow} {a5 : Nat} {a6 : Nat} (h : P s) :
    (Snd P) (State.rowWrite s a1 a2 a3 a4 a5 a6) := by
  unfold State.rowWrite
  split
  · with_reducible assumption
  · extract_lets t1 t2
    clear_value t1 t2
    with_reducible refine keep_ite (fun _ => ?_) (fun _ => ?_)
    · with_reducible apply keep_pair_snd
      with_reducible refine keep_ite (fun _ => ?_) (fun _ => ?_)
      · with_reducible apply State.regIndexWrite_keeps hP.toStable
        with_reducible assumption
      · with_reducible apply State.plainWrite_keeps hP.toStable
        with_reducible assumption
    · with_reducible refine keep_ite (fun _ => ?_) (fun _ => ?_)
      · with_reducible apply keep_pair_snd
        with_reducible apply State.plainWrite_keeps hP.toStable
        with_reducible assumption
      · split
        · with_reducible apply keep_pair_snd
          refine keep_of_some ‹_ = some _› ?_
          with_reducible apply State.writeA_keeps hP
          with_reducible assumption
        · split
          · refine keep_of_some ‹_ = some _› ?_
            with_reducible apply State.writeB__keeps hP
            with_reducible assumption
          · split
            · with_reducible apply keep_pair_snd
              refine keep_of_some ‹_ = some _› ?_
              with_reducible apply State.writeC_keeps hP
              with_reducible assumption
            · split
              · with_reducible apply keep_pair_snd
                refine keep_of_some ‹_ = some _› ?_
                with_reducible apply State.writeD_keeps hP
                with_reducible assumption
              · split
                · with_reducible apply keep_pair_snd
                  refine keep_of_some ‹_ = some _› ?_
                  with_reducible refine keep_ite (fun _ => ?_) (fun _ => ?_)
                  · with_reducible apply State.writeQ_keeps hP
                    with_reducible assumption
                  · with_reducible apply State.writeE_keeps hP
                    with_reducible assumption
                · with_reducible apply keep_pair_snd
                  with_reducible apply State.plainWrite_keeps hP.toStable
                  with_reducible assumption

theorem State.putReg_keeps {P : State → Prop} (hP : StableMem P) {s : State} {a1 : Requester} {a2 : Nat} {a3 : Nat} (h : P s) :
    (Snd P) (State.putReg s a1 a2 a3) := by
  unfold State.putReg
  extract_lets t1 t2
  clear_value t1 t2
  split
  · with_reducible assumption
  · with_reducible refine keep_ite (fun _ => ?_) (fun _ => ?_)
    · with_reducible apply keep_pair_snd
      with_reducible apply State.selWrite_keeps hP.toStable
      with_reducible assumption
    · with_reducible refine keep_ite (fun _ => ?_) (fun _ => ?_)
      · split
        · with_reducible apply keep_pair_snd
          with_reducible apply State.hdrWrite_keeps hP
          with_reducible assumption
        · with_reducible assumption
      · split
        · with_reducible apply State.rowWrite_keeps hP
          with_reducible assumption
        · with_reducible assumption

theorem State.putAll_keeps {P : State → Prop} (hP : StableMem P) {s : State} {a1 : Requester} {a2 : List Nat} {a3 : Nat} (h : P s) :
    (Snd P) (State.putAll s a1 a2 a3) := by
  induction a2 generalizing s a3 with
  | nil => exact h
  | cons a as ih =>
    unfold State.putAll
    extract_lets x y
    have hx : Snd P x := by
      unfold x
      split
      · exact h
      · exact State.putReg_keeps hP h
    clear_value x
    exact ih hx

theorem State.regWrite_keeps {P : State → Prop} (hP : StableMem P) {s : State} {a1 : Requester} {a2 : Nat} {a3 : Nat} {a4 : Nat} (h : P s) :
    (Opt (Snd P)) (State.regWrite s a1 a2 a3 a4) := by
  unfold State.regWrite
  split
  · with_reducible apply keep_none
  · with_reducible apply keep_some
    with_reducible apply State.putAll_keeps hP
    with_reducible assumption
  · with_reducible apply keep_some
    with_reducible assumption

theorem State.writeCmd_keeps {P : State → Prop} (hP : StableMem P) {s : State} {a1 : Requester} {a2 : Nat} {a3 : Nat} {a4 : Nat} (h : P s) :
    (Nxt P) (State.writeCmd s a1 a2 a3 a4) := by
  unfold State.writeCmd
  split
  · with_reducible apply done_keeps hP.toStable
    with_reducible assumption
  · with_reducible apply done_keeps hP.toStable
    with_reducible apply State.emit_keeps hP.toStable
    refine keep_of_some_snd ‹_ = some (_, _)› ?_
    with_reducible apply State.regWrite_keeps hP
    with_reducible assumption

theorem State.writeRun_keeps {P : State → Prop} (hP : StableMem P) {s : State} {a1 : Requester} {a2 : Nat} {a3 : Nat} {a4 : Nat} {a5 : Nat} (h : P s) :
    (Nxt P) (State.writeRun s a1 a2 a3 a4 a5) := by
  unfold State.writeRun
  with_reducible refine keep_ite (fun _ => ?_) (fun _ => ?_)
  · with_reducible apply State.writeCmd_keeps hP
    with_reducible assumption
  · with_reducible apply done_keeps hP.toStable
    with_reducible assumption

theorem execPoolAssign_keeps {P : State → Prop} (hP : StableMem P) {a0 : Requester} {a1 : Nat} {a2 : Word} {s : State} (h : P s) :
    (Nxt P) (execPoolAssign a0 a1 a2 s) := by
  unfold execPoolAssign
  with_reducible apply State.writeRun_keeps hP
  with_reducible assumption

theorem execRegisterWrite_keeps {P : State → Prop} (hP : StableMem P) {a0 : Requester} {a1 : Nat} {a2 : Nat} {a3 : Nat} {s : State} (h : P s) :
    (Nxt P) (execRegisterWrite a0 a1 a2 a3 s) := by
  unfold execRegisterWrite
  with_reducible apply State.writeCmd_keeps hP
  with_reducible assumption

theorem State.takeReg_keeps {P : State → Prop} (hP : Stable P) {s : State} {a1 : Requester} {a2 : Nat} {a3 : Bool} (h : P s) :
    (Snd P) (State.takeReg s a1 a2 a3) := by
  unfold State.takeReg
  extract_lets t1 t2
  clear_value t1 t2
  split
  · with_reducible refine keep_ite (fun _ => ?_) (fun _ => ?_)
    · with_reducible assumption
    · split
      · with_reducible assumption
      · split
        · with_reducible assumption
        · extract_lets t3
          clear_value t3
          with_reducible apply keep_pair_snd
          with_reducible apply State.setReg_keeps hP
          with_reducible assumption
  · with_reducible assumption

theorem State.takeAll_keeps {P : State → Prop} (hP : Stable P) {s : State} {a1 : Requester} {a2 : List Nat} (h : P s) :
    (Snd P) (State.takeAll s a1 a2) := by
  induction a2 generalizing s a1
  · unfold State.takeAll
    with_reducible assumption
  · unfold State.takeAll
    rename_i ih
    extract_lets t1 t2
    have h3 : (Snd (P)) t1 := by
      unfold t1
      with_reducible apply State.takeReg_keeps hP
      with_reducible assumption
    clear_value t1
    have h4 : (Snd (P)) t2 := by
      unfold t2
      with_reducible apply ih
      with_reducible assumption
    clear_value t2
    with_reducible assumption

theorem State.regRead_keeps {P : State → Prop} (hP : Stable P) {s : State} {a1 : Requester} {a2 : Nat} {a3 : Nat} (h : P s) :
    (Opt (Snd (Snd P))) (State.regRead s a1 a2 a3) := by
  unfold State.regRead
  split
  · with_reducible apply keep_none
  · with_reducible apply keep_some
    with_reducible apply keep_pair_snd
    with_reducible apply State.takeAll_keeps hP
    with_reducible assumption
  · with_reducible apply keep_some
    with_reducible assumption

theorem execReadClear_keeps {P : State → Prop} (hP : Stable P) {a0 : Requester} {a1 : Nat} {a2 : Nat} {s : State} (h : P s) :
    (Nxt P) (execReadClear a0 a1 a2 s) := by
  unfold execReadClear
  split
  · with_reducible apply done_keeps hP
    with_reducible assumption
  · with_reducible apply done_keeps hP
    with_reducible apply State.emit_keeps hP
    refine keep_of_some_snd2 ‹_ = some (_, _, _)› ?_
    with_reducible apply State.regRead_keeps hP
    with_reducible assumption

theorem execBlkSelWrite_keeps {P : State → Prop} (hP : StableMem P) {a0 : Requester} {a1 : Nat} {a2 : Word} {s : State} (h : P s) :
    (Nxt P) (execBlkSelWrite a0 a1 a2 s) := by
  unfold execBlkSelWrite
  with_reducible apply State.writeCmd_keeps hP
  with_reducible assumption

theorem execBlkErrClear_keeps {P : State → Prop} (hP : StableMem P) {a0 : Requester} {a1 : Nat} {a2 : Word} {s : State} (h : P s) :
    (Nxt P) (execBlkErrClear a0 a1 a2 s) := by
  unfold execBlkErrClear
  with_reducible apply State.writeCmd_keeps hP
  with_reducible assumption

theorem execLockSet_keeps {P : State → Prop} (hP : StableMem P) {a0 : Nat} {a1 : Word} {s : State} (h : P s) :
    (Nxt P) (execLockSet a0 a1 s) := by
  unfold execLockSet
  with_reducible apply State.writeCmd_keeps hP
  with_reducible assumption

theorem execQuiesce_keeps {P : State → Prop} (hP : StableMem P) {a0 : Requester} {a1 : Nat} {a2 : Word} {s : State} (h : P s) :
    (Nxt P) (execQuiesce a0 a1 a2 s) := by
  unfold execQuiesce
  with_reducible apply State.writeCmd_keeps hP
  with_reducible assumption

theorem State.resetCmd_keeps {P : State → Prop} (hP : StableMem P) {s : State} {a1 : Requester} {a2 : Nat} (h : P s) :
    (Nxt P) (State.resetCmd s a1 a2) := by
  unfold State.resetCmd
  with_reducible apply State.writeCmd_keeps hP
  with_reducible assumption

theorem execCompReset_keeps {P : State → Prop} (hP : StableMem P) {a0 : Requester} {a1 : Nat} {s : State} (h : P s) :
    (Nxt P) (execCompReset a0 a1 s) := by
  unfold execCompReset
  with_reducible apply State.resetCmd_keeps hP
  with_reducible assumption

theorem execRegIndexWrite_keeps {P : State → Prop} (hP : StableMem P) {a0 : Requester} {a1 : Word} {s : State} (h : P s) :
    (Nxt P) (execRegIndexWrite a0 a1 s) := by
  unfold execRegIndexWrite
  with_reducible apply State.writeCmd_keeps hP
  with_reducible assumption

theorem execRegEntryLoWrite_keeps {P : State → Prop} (hP : StableMem P) {a0 : Requester} {a1 : Word} {a2 : Option Word} {s : State} (h : P s) :
    (Nxt P) (execRegEntryLoWrite a0 a1 a2 s) := by
  unfold execRegEntryLoWrite
  split
  · with_reducible apply State.writeCmd_keeps hP
    with_reducible assumption
  · with_reducible apply State.writeCmd_keeps hP
    with_reducible assumption

theorem execRegEntryHiWrite_keeps {P : State → Prop} (hP : StableMem P) {a0 : Requester} {a1 : Word} {s : State} (h : P s) :
    (Nxt P) (execRegEntryHiWrite a0 a1 s) := by
  unfold execRegEntryHiWrite
  with_reducible apply State.writeCmd_keeps hP
  with_reducible assumption

theorem execRowSpare_keeps {P : State → Prop} (hP : StableMem P) {a0 : Requester} {a1 : Nat} {a2 : Nat} {a3 : Nat} {s : State} (h : P s) :
    (Nxt P) (execRowSpare a0 a1 a2 a3 s) := by
  unfold execRowSpare
  with_reducible apply State.writeCmd_keeps hP
  with_reducible assumption

theorem execBankSpare_keeps {P : State → Prop} (hP : StableMem P) {a0 : Requester} {a1 : Nat} {a2 : Nat} {s : State} (h : P s) :
    (Nxt P) (execBankSpare a0 a1 a2 s) := by
  unfold execBankSpare
  with_reducible apply State.writeCmd_keeps hP
  with_reducible assumption

theorem execStkTrainStart_keeps {P : State → Prop} (hP : StableMem P) {a0 : Requester} {s : State} (h : P s) :
    (Nxt P) (execStkTrainStart a0 s) := by
  unfold execStkTrainStart
  with_reducible apply State.writeCmd_keeps hP
  with_reducible assumption

theorem execComputeTimingWrite_keeps {P : State → Prop} (hP : StableMem P) {a0 : Requester} {a1 : Nat} {a2 : Word} {s : State} (h : P s) :
    (Nxt P) (execComputeTimingWrite a0 a1 a2 s) := by
  unfold execComputeTimingWrite
  with_reducible apply State.writeRun_keeps hP
  with_reducible assumption

theorem execBringInSpare_keeps {P : State → Prop} (hP : StableMem P) {a0 : Requester} {a1 : Nat} {a2 : Nat} {s : State} (h : P s) :
    (Nxt P) (execBringInSpare a0 a1 a2 s) := by
  unfold execBringInSpare
  with_reducible apply State.writeCmd_keeps hP
  with_reducible assumption

theorem execRetireBrick_keeps {P : State → Prop} (hP : StableMem P) {a0 : Requester} {s : State} (h : P s) :
    (Nxt P) (execRetireBrick a0 s) := by
  unfold execRetireBrick
  with_reducible apply State.writeCmd_keeps hP
  with_reducible assumption

theorem execSeqPoolAdd_keeps {P : State → Prop} (hP : StableMem P) {a0 : Requester} {a1 : Nat} {s : State} (h : P s) :
    (Nxt P) (execSeqPoolAdd a0 a1 s) := by
  unfold execSeqPoolAdd
  with_reducible apply State.writeCmd_keeps hP
  with_reducible assumption

theorem execSeqPoolSizeWrite_keeps {P : State → Prop} (hP : StableMem P) {a0 : Requester} {a1 : Nat} {a2 : Word} {s : State} (h : P s) :
    (Nxt P) (execSeqPoolSizeWrite a0 a1 a2 s) := by
  unfold execSeqPoolSizeWrite
  with_reducible apply State.writeRun_keeps hP
  with_reducible assumption

theorem execSeqQuotaWrite_keeps {P : State → Prop} (hP : StableMem P) {a0 : Requester} {a1 : Word} {s : State} (h : P s) :
    (Nxt P) (execSeqQuotaWrite a0 a1 s) := by
  unfold execSeqQuotaWrite
  with_reducible apply State.writeCmd_keeps hP
  with_reducible assumption

theorem execSeqPfxModeWrite_keeps {P : State → Prop} (hP : StableMem P) {a0 : Requester} {a1 : Nat} {a2 : Word} {s : State} (h : P s) :
    (Nxt P) (execSeqPfxModeWrite a0 a1 a2 s) := by
  unfold execSeqPfxModeWrite
  with_reducible apply State.writeRun_keeps hP
  with_reducible assumption

theorem execYrdBentryWrite_keeps {P : State → Prop} (hP : StableMem P) {a0 : Requester} {a1 : Word} {s : State} (h : P s) :
    (Nxt P) (execYrdBentryWrite a0 a1 s) := by
  unfold execYrdBentryWrite
  with_reducible apply State.writeCmd_keeps hP
  with_reducible assumption

theorem execYrdSpareCmd_keeps {P : State → Prop} (hP : StableMem P) {a0 : Requester} {a1 : Nat} {a2 : Nat} {s : State} (h : P s) :
    (Nxt P) (execYrdSpareCmd a0 a1 a2 s) := by
  unfold execYrdSpareCmd
  with_reducible apply State.writeCmd_keeps hP
  with_reducible assumption

theorem execYrdClsWrite_keeps {P : State → Prop} (hP : StableMem P) {a0 : Requester} {a1 : Nat} {a2 : Word} {s : State} (h : P s) :
    (Nxt P) (execYrdClsWrite a0 a1 a2 s) := by
  unfold execYrdClsWrite
  with_reducible apply State.writeRun_keeps hP
  with_reducible assumption

theorem execYrdQCacheWrite_keeps {P : State → Prop} (hP : StableMem P) {a0 : Requester} {a1 : Word} {s : State} (h : P s) :
    (Nxt P) (execYrdQCacheWrite a0 a1 s) := by
  unfold execYrdQCacheWrite
  with_reducible apply State.writeCmd_keeps hP
  with_reducible assumption

theorem execPartitionCreate_keeps {P : State → Prop} (hP : StableMem P) {a0 : Requester} {s : State} (h : P s) :
    (Nxt P) (execPartitionCreate a0 s) := by
  unfold execPartitionCreate
  with_reducible apply State.writeCmd_keeps hP
  with_reducible assumption

theorem execPartitionActivate_keeps {P : State → Prop} (hP : StableMem P) {a0 : Requester} {s : State} (h : P s) :
    (Nxt P) (execPartitionActivate a0 s) := by
  unfold execPartitionActivate
  with_reducible apply State.writeCmd_keeps hP
  with_reducible assumption

theorem execPartitionDrain_keeps {P : State → Prop} (hP : StableMem P) {a0 : Requester} {s : State} (h : P s) :
    (Nxt P) (execPartitionDrain a0 s) := by
  unfold execPartitionDrain
  with_reducible apply State.writeCmd_keeps hP
  with_reducible assumption

theorem execPartitionRelease_keeps {P : State → Prop} (hP : StableMem P) {a0 : Requester} {s : State} (h : P s) :
    (Nxt P) (execPartitionRelease a0 s) := by
  unfold execPartitionRelease
  with_reducible apply State.writeCmd_keeps hP
  with_reducible assumption

theorem execBgrpAssign_keeps {P : State → Prop} (hP : StableMem P) {a0 : Requester} {a1 : Nat} {a2 : Word} {s : State} (h : P s) :
    (Nxt P) (execBgrpAssign a0 a1 a2 s) := by
  unfold execBgrpAssign
  with_reducible apply State.writeRun_keeps hP
  with_reducible assumption

theorem execHodAssign_keeps {P : State → Prop} (hP : StableMem P) {a0 : Requester} {a1 : Nat} {a2 : Word} {s : State} (h : P s) :
    (Nxt P) (execHodAssign a0 a1 a2 s) := by
  unfold execHodAssign
  with_reducible apply State.writeRun_keeps hP
  with_reducible assumption

theorem execPrtModeWrite_keeps {P : State → Prop} (hP : StableMem P) {a0 : Requester} {a1 : Word} {s : State} (h : P s) :
    (Nxt P) (execPrtModeWrite a0 a1 s) := by
  unfold execPrtModeWrite
  with_reducible apply State.writeCmd_keeps hP
  with_reducible assumption

theorem execRegulatorWrite_keeps {P : State → Prop} (hP : StableMem P) {a0 : Requester} {a1 : Nat} {a2 : Word} {s : State} (h : P s) :
    (Nxt P) (execRegulatorWrite a0 a1 a2 s) := by
  unfold execRegulatorWrite
  with_reducible apply State.writeRun_keeps hP
  with_reducible assumption

theorem execCytCommit_keeps {P : State → Prop} (hP : StableMem P) {a0 : Requester} {s : State} (h : P s) :
    (Nxt P) (execCytCommit a0 s) := by
  unfold execCytCommit
  with_reducible apply State.writeCmd_keeps hP
  with_reducible assumption

theorem execCytEnableWrite_keeps {P : State → Prop} (hP : StableMem P) {a0 : Requester} {a1 : Bool} {s : State} (h : P s) :
    (Nxt P) (execCytEnableWrite a0 a1 s) := by
  unfold execCytEnableWrite
  with_reducible apply State.writeCmd_keeps hP
  with_reducible assumption

theorem execCytShift_keeps {P : State → Prop} (hP : StableMem P) {a0 : Requester} {a1 : Word} {s : State} (h : P s) :
    (Nxt P) (execCytShift a0 a1 s) := by
  unfold execCytShift
  with_reducible apply State.writeCmd_keeps hP
  with_reducible assumption

theorem execQueueDoorbellWrite_keeps {P : State → Prop} (hP : StableMem P) {a0 : Requester} {a1 : Option Nat} {a2 : Word} {s : State} (h : P s) :
    (Nxt P) (execQueueDoorbellWrite a0 a1 a2 s) := by
  unfold execQueueDoorbellWrite
  split
  · with_reducible apply State.writeCmd_keeps hP
    with_reducible assumption
  · with_reducible apply State.writeRun_keeps hP
    with_reducible assumption

theorem execPrtQctrlEnable_keeps {P : State → Prop} (hP : StableMem P) {a0 : Requester} {a1 : Bool} {s : State} (h : P s) :
    (Nxt P) (execPrtQctrlEnable a0 a1 s) := by
  unfold execPrtQctrlEnable
  with_reducible apply State.writeCmd_keeps hP
  with_reducible assumption

theorem execRingHeadWrite_keeps {P : State → Prop} (hP : StableMem P) {a0 : Requester} {a1 : Bool} {a2 : Word} {s : State} (h : P s) :
    (Nxt P) (execRingHeadWrite a0 a1 a2 s) := by
  unfold execRingHeadWrite
  with_reducible apply State.writeCmd_keeps hP
  with_reducible assumption

theorem execFlush_keeps {P : State → Prop} (hP : StableMem P) {a0 : Requester} {a1 : Nat} {s : State} (h : P s) :
    (Nxt P) (execFlush a0 a1 s) := by
  unfold execFlush
  with_reducible apply State.writeCmd_keeps hP
  with_reducible assumption

theorem execResume_keeps {P : State → Prop} (hP : StableMem P) {a0 : Requester} {a1 : Nat} {s : State} (h : P s) :
    (Nxt P) (execResume a0 a1 s) := by
  unfold execResume
  with_reducible apply State.writeCmd_keeps hP
  with_reducible assumption

theorem execPrtPvalWrite_keeps {P : State → Prop} (hP : StableMem P) {a0 : Requester} {a1 : Word} {a2 : Option Word} {s : State} (h : P s) :
    (Nxt P) (execPrtPvalWrite a0 a1 a2 s) := by
  unfold execPrtPvalWrite
  split
  · with_reducible apply State.writeCmd_keeps hP
    with_reducible assumption
  · with_reducible apply State.writeCmd_keeps hP
    with_reducible assumption

theorem State.takeIn_keeps {P : State → Prop} (hP : Stable P) {s : State} {a1 : Nat} {a2 : Nat} {a3 : Nat} {a4 : Bool} (h : P s) :
    (Snd P) (State.takeIn s a1 a2 a3 a4) := by
  unfold State.takeIn
  extract_lets t1
  clear_value t1
  with_reducible refine keep_ite (fun _ => ?_) (fun _ => ?_)
  · with_reducible apply keep_pair_snd
    with_reducible apply State.err_keeps hP
    with_reducible assumption
  · with_reducible refine keep_ite (fun _ => ?_) (fun _ => ?_)
    · with_reducible apply keep_pair_snd
      with_reducible apply State.err_keeps hP
      with_reducible assumption
    · with_reducible apply keep_pair_snd
      with_reducible apply State.setHlink_keeps hP
      with_reducible assumption

theorem State.hostPerform_keeps {P : State → Prop} (hP : StableMem P) {s : State} {a1 : Nat} {a2 : Nat} {a3 : Nat} {a4 : Nat} {a5 : Nat} {a6 : Nat} {a7 : Nat} {a8 : List Byte} {a9 : Bool} (h : P s) :
    P (State.hostPerform s a1 a2 a3 a4 a5 a6 a7 a8 a9) := by
  unfold State.hostPerform
  extract_lets t1 t2 t3
  clear_value t1
  have h4 : ∀ y0 y1 y2, P y0 → (P) (t2 y0 y1 y2) := by
    unfold t2
    intro x5 x6 x7 x8
    with_reducible apply State.hostAnswer_keeps hP.toStable
    with_reducible assumption
  clear_value t2
  have h9 : P t3 := by
    unfold t3
    with_reducible refine keep_ite (fun _ => ?_) (fun _ => ?_)
    · with_reducible apply State.forgetCopies_keeps hP
      with_reducible assumption
    · with_reducible assumption
  clear_value t3
  split
  · with_reducible assumption
  · with_reducible apply h4
    with_reducible assumption
  · split
    · refine keep_of_pair ‹_ = (_, _)› ?_
      with_reducible apply State.sendRemote_keeps hP.toStable
      with_reducible assumption
    · with_reducible apply h4
      refine keep_of_pair ‹_ = (_, _)› ?_
      with_reducible apply State.sendRemote_keeps hP.toStable
      with_reducible assumption
  · with_reducible refine keep_ite (fun _ => ?_) (fun _ => ?_)
    · extract_lets t10
      have h11 : (Snd (P)) t10 := by
        unfold t10
        with_reducible apply State.stageWrite_keeps hP.toStable
        with_reducible assumption
      clear_value t10
      with_reducible apply h4
      with_reducible assumption
    · extract_lets t12
      clear_value t12
      with_reducible apply h4
      with_reducible assumption
  · with_reducible refine keep_ite (fun _ => ?_) (fun _ => ?_)
    · split
      · with_reducible assumption
      · with_reducible apply h4
        refine keep_of_some_snd ‹_ = some (_, _)› ?_
        with_reducible apply State.regWrite_keeps hP
        with_reducible assumption
    · split
      · with_reducible assumption
      · with_reducible apply h4
        refine keep_of_some_snd2 ‹_ = some (_, _, _)› ?_
        with_reducible apply State.regRead_keeps hP.toStable
        with_reducible assumption
  · with_reducible apply State.enter_keeps hP
    with_reducible refine keep_ite (fun _ => ?_) (fun _ => ?_)
    · with_reducible assumption
    · with_reducible apply State.acquireRange_keeps hP.toStable
      with_reducible assumption

theorem State.hostRequest_keeps {P : State → Prop} (hP : StableMem P) {s : State} {a1 : Nat} {a2 : Nat} {a3 : Nat} {a4 : Nat} {a5 : Nat} {a6 : Nat} {a7 : Nat} {a8 : List Byte} {a9 : Bool} (h : P s) :
    (Nxt P) (State.hostRequest s a1 a2 a3 a4 a5 a6 a7 a8 a9) := by
  unfold State.hostRequest
  with_reducible refine keep_ite (fun _ => ?_) (fun _ => ?_)
  · with_reducible apply done_keeps hP.toStable
    with_reducible assumption
  · extract_lets t1
    have h2 : (Snd (P)) t1 := by
      unfold t1
      with_reducible apply State.takeIn_keeps hP.toStable
      with_reducible assumption
    clear_value t1
    with_reducible apply done_keeps hP.toStable
    with_reducible refine keep_ite (fun _ => ?_) (fun _ => ?_)
    · with_reducible apply State.hostPerform_keeps hP
      with_reducible assumption
    · with_reducible assumption

theorem execMrd_keeps {P : State → Prop} (hP : StableMem P) {a0 : Nat} {a1 : Nat} {a2 : Nat} {a3 : Nat} {a4 : Nat} {a5 : Nat} {a6 : Bool} {s : State} (h : P s) :
    (Nxt P) (execMrd a0 a1 a2 a3 a4 a5 a6 s) := by
  unfold execMrd
  with_reducible apply State.hostRequest_keeps hP
  with_reducible assumption

theorem execMwr_keeps {P : State → Prop} (hP : StableMem P) {a0 : Nat} {a1 : Nat} {a2 : Nat} {a3 : Nat} {a4 : List Byte} {a5 : Bool} {s : State} (h : P s) :
    (Nxt P) (execMwr a0 a1 a2 a3 a4 a5 s) := by
  unfold execMwr
  with_reducible apply State.hostRequest_keeps hP
  with_reducible assumption

theorem execMwrc_keeps {P : State → Prop} (hP : StableMem P) {a0 : Nat} {a1 : Nat} {a2 : Nat} {a3 : Nat} {a4 : Nat} {a5 : List Byte} {a6 : Bool} {s : State} (h : P s) :
    (Nxt P) (execMwrc a0 a1 a2 a3 a4 a5 a6 s) := by
  unfold execMwrc
  with_reducible apply State.hostRequest_keeps hP
  with_reducible assumption

theorem execDb_keeps {P : State → Prop} (hP : Stable P) {a0 : Nat} {a1 : Nat} {a2 : Nat} {a3 : Nat} {a4 : Nat} {a5 : Bool} {s : State} (h : P s) :
    (Nxt P) (execDb a0 a1 a2 a3 a4 a5 s) := by
  unfold execDb
  with_reducible refine keep_ite (fun _ => ?_) (fun _ => ?_)
  · with_reducible apply done_keeps hP
    with_reducible assumption
  · extract_lets t1 t2
    have h3 : (Snd (P)) t1 := by
      unfold t1
      with_reducible apply State.takeIn_keeps hP
      with_reducible assumption
    clear_value t1
    have h4 : P t2 := by
      unfold t2
      with_reducible apply State.freeHost_keeps hP
      with_reducible assumption
    clear_value t2
    with_reducible refine keep_ite (fun _ => ?_) (fun _ => ?_)
    · with_reducible apply done_keeps hP
      with_reducible assumption
    · split
      · with_reducible apply done_keeps hP
        with_reducible assumption
      · with_reducible apply done_keeps hP
        with_reducible refine keep_ite (fun _ => ?_) (fun _ => ?_)
        · with_reducible apply State.postedRefused_keeps hP
          with_reducible assumption
        · with_reducible refine keep_ite (fun _ => ?_) (fun _ => ?_)
          · with_reducible apply State.ringBell_keeps hP
            with_reducible assumption
          · with_reducible refine keep_ite (fun _ => ?_) (fun _ => ?_)
            · with_reducible apply State.ringBell_keeps hP
              with_reducible assumption
            · with_reducible apply State.doorbell_keeps hP
              with_reducible assumption

theorem execSidebandRead_keeps {P : State → Prop} (hP : Stable P) {a0 : Nat} {a1 : Nat} {s : State} (h : P s) :
    (Nxt P) (execSidebandRead a0 a1 s) := by
  unfold execSidebandRead
  with_reducible refine keep_ite (fun _ => ?_) (fun _ => ?_)
  · with_reducible apply done_keeps hP
    with_reducible assumption
  · with_reducible refine keep_ite (fun _ => ?_) (fun _ => ?_)
    · with_reducible apply done_keeps hP
      with_reducible apply State.emit_keeps hP
      with_reducible assumption
    · extract_lets t1 t2
      clear_value t1
      have h3 : (Snd (P)) t2 := by
        unfold t2
        with_reducible apply State.takeAll_keeps hP
        with_reducible assumption
      clear_value t2
      with_reducible refine keep_ite (fun _ => ?_) (fun _ => ?_)
      · with_reducible refine keep_ite (fun _ => ?_) (fun _ => ?_)
        · with_reducible apply done_keeps hP
          with_reducible assumption
        · with_reducible refine keep_ite (fun _ => ?_) (fun _ => ?_)
          · with_reducible apply done_keeps hP
            with_reducible apply State.emit_keeps hP
            with_reducible assumption
          · with_reducible refine keep_ite (fun _ => ?_) (fun _ => ?_)
            · with_reducible apply done_keeps hP
              with_reducible apply State.emit_keeps hP
              with_reducible assumption
            · with_reducible apply done_keeps hP
              with_reducible apply State.emit_keeps hP
              with_reducible assumption
      · split
        · with_reducible apply done_keeps hP
          with_reducible assumption
        · with_reducible apply done_keeps hP
          with_reducible apply State.emit_keeps hP
          refine keep_of_some_snd2 ‹_ = some (_, _, _)› ?_
          with_reducible apply State.regRead_keeps hP
          with_reducible assumption

theorem execSidebandWrite_keeps {P : State → Prop} (hP : StableMem P) {a0 : Nat} {a1 : Nat} {a2 : Word} {s : State} (h : P s) :
    (Nxt P) (execSidebandWrite a0 a1 a2 s) := by
  unfold execSidebandWrite
  with_reducible refine keep_ite (fun _ => ?_) (fun _ => ?_)
  · with_reducible apply done_keeps hP.toStable
    with_reducible assumption
  · with_reducible refine keep_ite (fun _ => ?_) (fun _ => ?_)
    · with_reducible apply done_keeps hP.toStable
      with_reducible apply State.emit_keeps hP.toStable
      with_reducible assumption
    · split
      · with_reducible apply done_keeps hP.toStable
        with_reducible assumption
      · with_reducible apply done_keeps hP.toStable
        with_reducible apply State.emit_keeps hP.toStable
        refine keep_of_some_snd ‹_ = some (_, _)› ?_
        with_reducible apply State.regWrite_keeps hP
        with_reducible assumption

theorem execRingDoorbell_keeps {P : State → Prop} (hP : StableMem P) {a0 : Requester} {a1 : Nat} {s : State} (h : P s) :
    (Nxt P) (execRingDoorbell a0 a1 s) := by
  unfold execRingDoorbell
  with_reducible apply State.writeRun_keeps hP
  with_reducible assumption

theorem execLntIvecWrite_keeps {P : State → Prop} (hP : StableMem P) {a0 : Requester} {a1 : Word} {s : State} (h : P s) :
    (Nxt P) (execLntIvecWrite a0 a1 s) := by
  unfold execLntIvecWrite
  with_reducible apply State.writeCmd_keeps hP
  with_reducible assumption

theorem execHeartbeat_keeps {P : State → Prop} (hP : StableMem P) {a0 : Requester} {a1 : Nat} {s : State} (h : P s) :
    (Nxt P) (execHeartbeat a0 a1 s) := by
  unfold execHeartbeat
  with_reducible apply State.writeRun_keeps hP
  with_reducible assumption

theorem execLinkTrain_keeps {P : State → Prop} (hP : StableMem P) {a0 : Requester} {s : State} (h : P s) :
    (Nxt P) (execLinkTrain a0 s) := by
  unfold execLinkTrain
  with_reducible apply State.writeCmd_keeps hP
  with_reducible assumption

theorem execLinkDisable_keeps {P : State → Prop} (hP : StableMem P) {a0 : Requester} {a1 : Bool} {s : State} (h : P s) :
    (Nxt P) (execLinkDisable a0 a1 s) := by
  unfold execLinkDisable
  with_reducible apply State.writeCmd_keeps hP
  with_reducible assumption

theorem execSpareTransmitter_keeps {P : State → Prop} (hP : StableMem P) {a0 : Requester} {a1 : Nat} {s : State} (h : P s) :
    (Nxt P) (execSpareTransmitter a0 a1 s) := by
  unfold execSpareTransmitter
  with_reducible apply State.writeCmd_keeps hP
  with_reducible assumption

theorem execSpareReceiver_keeps {P : State → Prop} (hP : StableMem P) {a0 : Requester} {a1 : Nat} {s : State} (h : P s) :
    (Nxt P) (execSpareReceiver a0 a1 s) := by
  unfold execSpareReceiver
  with_reducible apply State.writeCmd_keeps hP
  with_reducible assumption

theorem execImageCreate_keeps {P : State → Prop} (hP : StableMem P) {a0 : Requester} {a1 : Nat} {a2 : Nat} {s : State} (h : P s) :
    (Nxt P) (execImageCreate a0 a1 a2 s) := by
  unfold execImageCreate
  with_reducible apply State.writeCmd_keeps hP
  with_reducible assumption

theorem execSeal_keeps {P : State → Prop} (hP : StableMem P) {a0 : Requester} {s : State} (h : P s) :
    (Nxt P) (execSeal a0 s) := by
  unfold execSeal
  with_reducible apply State.writeCmd_keeps hP
  with_reducible assumption

theorem execImageDelete_keeps {P : State → Prop} (hP : StableMem P) {a0 : Requester} {s : State} (h : P s) :
    (Nxt P) (execImageDelete a0 s) := by
  unfold execImageDelete
  with_reducible apply State.writeCmd_keeps hP
  with_reducible assumption

theorem execImageAbort_keeps {P : State → Prop} (hP : StableMem P) {a0 : Requester} {s : State} (h : P s) :
    (Nxt P) (execImageAbort a0 s) := by
  unfold execImageAbort
  with_reducible apply State.writeCmd_keeps hP
  with_reducible assumption

theorem execStagingWrite_keeps {P : State → Prop} (hP : Stable P) {a0 : Requester} {a1 : Nat} {a2 : List Byte} {s : State} (h : P s) :
    (Nxt P) (execStagingWrite a0 a1 a2 s) := by
  unfold execStagingWrite
  with_reducible refine keep_ite (fun _ => ?_) (fun _ => ?_)
  · with_reducible apply done_keeps hP
    with_reducible assumption
  · extract_lets t1 t2
    clear_value t1
    have h3 : (Snd (P)) t2 := by
      unfold t2
      with_reducible apply State.stageWrite_keeps hP
      with_reducible assumption
    clear_value t2
    split
    · with_reducible apply done_keeps hP
      with_reducible assumption
    · with_reducible refine keep_ite (fun _ => ?_) (fun _ => ?_)
      · with_reducible apply done_keeps hP
        with_reducible apply State.emit_keeps hP
        with_reducible assumption
      · with_reducible refine keep_ite (fun _ => ?_) (fun _ => ?_)
        · with_reducible apply done_keeps hP
          with_reducible apply State.emit_keeps hP
          with_reducible assumption
        · with_reducible apply done_keeps hP
          with_reducible apply State.emit_keeps hP
          with_reducible assumption

theorem execCoreRestartWrite_keeps {P : State → Prop} (hP : StableMem P) {a0 : Requester} {a1 : Nat} {s : State} (h : P s) :
    (Nxt P) (execCoreRestartWrite a0 a1 s) := by
  unfold execCoreRestartWrite
  with_reducible apply State.writeCmd_keeps hP
  with_reducible apply State.at_keeps hP.toStable
  with_reducible assumption

theorem execCoreRetireWrite_keeps {P : State → Prop} (hP : StableMem P) {a0 : Requester} {s : State} (h : P s) :
    (Nxt P) (execCoreRetireWrite a0 s) := by
  unfold execCoreRetireWrite
  with_reducible apply State.writeCmd_keeps hP
  with_reducible assumption

theorem execWarmReset_keeps {P : State → Prop} (hP : StableMem P) {a0 : Requester} {s : State} (h : P s) :
    (Nxt P) (execWarmReset a0 s) := by
  unfold execWarmReset
  with_reducible apply State.resetCmd_keeps hP
  with_reducible assumption

theorem execPartitionReset_keeps {P : State → Prop} (hP : StableMem P) {a0 : Requester} {s : State} (h : P s) :
    (Nxt P) (execPartitionReset a0 s) := by
  unfold execPartitionReset
  with_reducible apply State.resetCmd_keeps hP
  with_reducible assumption

theorem execSensorFlagClear_keeps {P : State → Prop} (hP : StableMem P) {a0 : Requester} {a1 : Nat} {a2 : Word} {s : State} (h : P s) :
    (Nxt P) (execSensorFlagClear a0 a1 a2 s) := by
  unfold execSensorFlagClear
  with_reducible apply State.writeRun_keeps hP
  with_reducible assumption

theorem execCeilMhzWrite_keeps {P : State → Prop} (hP : StableMem P) {a0 : Requester} {a1 : Nat} {a2 : Word} {a3 : Nat} {s : State} (h : P s) :
    (Nxt P) (execCeilMhzWrite a0 a1 a2 a3 s) := by
  unfold execCeilMhzWrite
  with_reducible apply State.writeRun_keeps hP
  with_reducible apply State.at_keeps hP.toStable
  with_reducible assumption

theorem execKlnStkLevelWrite_keeps {P : State → Prop} (hP : StableMem P) {a0 : Requester} {a1 : Word} {a2 : Nat} {s : State} (h : P s) :
    (Nxt P) (execKlnStkLevelWrite a0 a1 a2 s) := by
  unfold execKlnStkLevelWrite
  with_reducible apply State.writeCmd_keeps hP
  with_reducible apply State.at_keeps hP.toStable
  with_reducible assumption

end Sys2Proof.Machine
end

