-- ==== Sys2Proof/Laws/Maps.lean ====
section
/-! SUPPORT. Laws of the sparse maps: read after write, and the canonical form that every update keeps. -/

namespace Sys2Proof.Machine

variable {α : Type}

/-- Every key of a list lies above `k`. -/
def smAbove (k : Nat) (m : List (Nat × α)) : Prop := ∀ e ∈ m, k < e.1

/-- The recursive form of `smSorted`. -/
theorem smSorted_cons {j : Nat} {v : α} {m : List (Nat × α)} :
    smSorted ((j, v) :: m) = true ↔ smAbove j m ∧ smSorted m = true := by
  induction m generalizing j v with
  | nil => simp [smSorted, smAbove]
  | cons e m ih =>
    obtain ⟨k, w⟩ := e
    simp only [smSorted, Bool.and_eq_true, decide_eq_true_eq]
    constructor
    · rintro ⟨hjk, hs⟩
      refine ⟨?_, hs⟩
      intro e he
      rcases List.mem_cons.1 he with rfl | he
      · exact hjk
      · exact lt_trans hjk ((ih.1 hs).1 e he)
    · rintro ⟨ha, hs⟩
      exact ⟨ha (k, w) (by simp), hs⟩

/-- A key below every listed one reads as its default. -/
theorem smGet_above {d : Nat → α} {m : List (Nat × α)} {k : Nat} (h : smAbove k m) : smGet d m k = d k := by
  induction m with
  | nil => rfl
  | cons e m ih =>
    obtain ⟨j, v⟩ := e
    have hj : k < j := h (j, v) (by simp)
    have : k ≠ j := by omega
    simp only [smGet, this, if_false]
    exact ih fun e he => h e (List.mem_cons_of_mem _ he)

/-- Reading the key just put. -/
@[simp] theorem smGet_smPut_same (d : Nat → α) (m : List (Nat × α)) (k : Nat) (v : α) : smGet d (smPut m k v) k = v := by
  induction m with
  | nil => simp [smPut, smGet]
  | cons e m ih =>
    obtain ⟨j, w⟩ := e
    unfold smPut
    split
    · simp [smGet]
    · split
      · simp [smGet]
      · rename_i h _
        simp [smGet, h, ih]

/-- Putting a key leaves every other one. -/
theorem smGet_smPut_ne (d : Nat → α) (m : List (Nat × α)) {k j : Nat} (v : α) (h : j ≠ k) :
    smGet d (smPut m k v) j = smGet d m j := by
  induction m with
  | nil => simp [smPut, smGet, h]
  | cons e m ih =>
    obtain ⟨i, w⟩ := e
    unfold smPut
    split
    · rename_i hk; subst hk; simp [smGet, h]
    · split
      · simp [smGet, h]
      · simp [smGet, ih]

/-- Removing a key of a sorted list makes it read as its default. -/
theorem smGet_smDel_same {d : Nat → α} {m : List (Nat × α)} (hm : smSorted m = true) (k : Nat) :
    smGet d (smDel m k) k = d k := by
  induction m with
  | nil => rfl
  | cons e m ih =>
    obtain ⟨j, v⟩ := e
    obtain ⟨ha, hs⟩ := smSorted_cons.1 hm
    unfold smDel
    split
    · rename_i h; subst h; exact smGet_above ha
    · rename_i h; simp [smGet, h, ih hs]

/-- Removing a key leaves every other one. -/
theorem smGet_smDel_ne (d : Nat → α) (m : List (Nat × α)) {k j : Nat} (h : j ≠ k) :
    smGet d (smDel m k) j = smGet d m j := by
  induction m with
  | nil => rfl
  | cons e m ih =>
    obtain ⟨i, v⟩ := e
    unfold smDel
    split
    · rename_i hk; subst hk; simp [smGet, h]
    · simp [smGet, ih]

/-- Reading the key just written, in a sorted map. -/
theorem smGet_smSet_same [DecidableEq α] {d : Nat → α} {m : List (Nat × α)} (hm : smSorted m = true) (k : Nat) (v : α) :
    smGet d (smSet d m k v) k = v := by
  unfold smSet
  split
  · rename_i h; rw [smGet_smDel_same hm, h]
  · simp

/-- Writing a key leaves every other one. -/
theorem smGet_smSet_ne [DecidableEq α] (d : Nat → α) (m : List (Nat × α)) {k j : Nat} (v : α) (h : j ≠ k) :
    smGet d (smSet d m k v) j = smGet d m j := by
  unfold smSet
  split
  · exact smGet_smDel_ne d m h
  · exact smGet_smPut_ne d m v h

theorem smAbove_smDel {m : List (Nat × α)} {j k : Nat} (h : smAbove j m) : smAbove j (smDel m k) := by
  induction m with
  | nil => exact h
  | cons e m ih =>
    obtain ⟨i, v⟩ := e
    have h2 : smAbove j m := fun e he => h e (List.mem_cons_of_mem _ he)
    unfold smDel
    split
    · exact h2
    · intro e he
      rcases List.mem_cons.1 he with rfl | he
      · exact h _ (by simp)
      · exact ih h2 e he

theorem smAbove_smPut {m : List (Nat × α)} {j k : Nat} {v : α} (h : smAbove j m) (hk : j < k) : smAbove j (smPut m k v) := by
  induction m with
  | nil => intro e he; simp [smPut] at he; subst he; exact hk
  | cons e m ih =>
    obtain ⟨i, w⟩ := e
    have h2 : smAbove j m := fun e he => h e (List.mem_cons_of_mem _ he)
    have hi : j < i := h (i, w) (by simp)
    unfold smPut
    split
    · intro e he
      rcases List.mem_cons.1 he with rfl | he
      · exact hk
      · exact h2 e he
    · split
      · intro e he
        rcases List.mem_cons.1 he with rfl | he
        · exact hk
        · exact h e he
      · intro e he
        rcases List.mem_cons.1 he with rfl | he
        · exact hi
        · exact ih h2 e he

theorem smSorted_smDel {m : List (Nat × α)} (k : Nat) (h : smSorted m = true) : smSorted (smDel m k) = true := by
  induction m with
  | nil => exact h
  | cons e m ih =>
    obtain ⟨j, v⟩ := e
    obtain ⟨ha, hs⟩ := smSorted_cons.1 h
    unfold smDel
    split
    · exact hs
    · exact smSorted_cons.2 ⟨smAbove_smDel ha, ih hs⟩

theorem smSorted_smPut {m : List (Nat × α)} (k : Nat) (v : α) (h : smSorted m = true) : smSorted (smPut m k v) = true := by
  induction m with
  | nil => rfl
  | cons e m ih =>
    obtain ⟨j, w⟩ := e
    obtain ⟨ha, hs⟩ := smSorted_cons.1 h
    unfold smPut
    split
    · rename_i hk; subst hk; exact smSorted_cons.2 ⟨ha, hs⟩
    · split
      · rename_i hkj
        refine smSorted_cons.2 ⟨?_, h⟩
        intro e he
        rcases List.mem_cons.1 he with rfl | he
        · exact hkj
        · exact lt_trans hkj (ha e he)
      · rename_i h1 h2
        exact smSorted_cons.2 ⟨smAbove_smPut ha (by omega), ih hs⟩

theorem smSorted_filter {m : List (Nat × α)} (p : Nat × α → Bool) (h : smSorted m = true) : smSorted (m.filter p) = true := by
  induction m with
  | nil => rfl
  | cons e m ih =>
    obtain ⟨j, v⟩ := e
    obtain ⟨ha, hs⟩ := smSorted_cons.1 h
    simp only [List.filter_cons]
    split
    · exact smSorted_cons.2 ⟨fun e he => ha e (List.mem_of_mem_filter he), ih hs⟩
    · exact ih hs

theorem mem_smDel {m : List (Nat × α)} {k : Nat} {e : Nat × α} (h : e ∈ smDel m k) : e ∈ m := by
  induction m with
  | nil => exact h
  | cons x m ih =>
    obtain ⟨j, v⟩ := x
    unfold smDel at h
    split at h
    · exact List.mem_cons_of_mem _ h
    · rcases List.mem_cons.1 h with rfl | h
      · simp
      · exact List.mem_cons_of_mem _ (ih h)

theorem mem_smPut {m : List (Nat × α)} {k : Nat} {v : α} {e : Nat × α} (h : e ∈ smPut m k v) : e = (k, v) ∨ e ∈ m := by
  induction m with
  | nil => simp [smPut] at h; exact .inl h
  | cons x m ih =>
    obtain ⟨j, w⟩ := x
    unfold smPut at h
    split at h
    · rcases List.mem_cons.1 h with rfl | h
      · exact .inl rfl
      · exact .inr (List.mem_cons_of_mem _ h)
    · split at h
      · rcases List.mem_cons.1 h with rfl | h
        · exact .inl rfl
        · exact .inr h
      · rcases List.mem_cons.1 h with rfl | h
        · exact .inr (by simp)
        · rcases ih h with h | h
          · exact .inl h
          · exact .inr (List.mem_cons_of_mem _ h)

/-- A write keeps the canonical form. -/
theorem smWf_smSet [DecidableEq α] {d : Nat → α} {m : List (Nat × α)} (k : Nat) (v : α) (h : smWf d m = true) :
    smWf d (smSet d m k v) = true := by
  simp only [smWf, Bool.and_eq_true, List.all_eq_true, decide_eq_true_eq] at h ⊢
  unfold smSet
  split
  · exact ⟨smSorted_smDel k h.1, fun e he => h.2 e (mem_smDel he)⟩
  · rename_i hv
    refine ⟨smSorted_smPut k v h.1, fun e he => ?_⟩
    rcases mem_smPut he with rfl | he
    · exact hv
    · exact h.2 e he

/-- Dropping entries keeps the canonical form. -/
theorem smWf_filter [DecidableEq α] {d : Nat → α} {m : List (Nat × α)} (p : Nat × α → Bool) (h : smWf d m = true) :
    smWf d (m.filter p) = true := by
  simp only [smWf, Bool.and_eq_true, List.all_eq_true, decide_eq_true_eq] at h ⊢
  exact ⟨smSorted_filter p h.1, fun e he => h.2 e (List.mem_of_mem_filter he)⟩

theorem smSorted_of_wf [DecidableEq α] {d : Nat → α} {m : List (Nat × α)} (h : smWf d m = true) : smSorted m = true := by
  simp only [smWf, Bool.and_eq_true] at h
  exact h.1

end Sys2Proof.Machine
end

