-- ==== Sys2Proof/Laws/Regs.lean ====
section
/-! SUPPORT. Laws of the register store: fields read back what was written, and leave every other field and register. -/

namespace Sys2Proof.Machine

/-- The register store is in its canonical form. -/
abbrev State.RegsWf (s : State) : Prop := smWf regDefault s.regs = true

/-- Keys of registers at different addresses differ. -/
theorem regKey_ne_addr {a b i j k l : Nat} (h : a ≠ b) (hi : i < 0x4000) (hk : k < 0x4000) (hj : j < 0x8000) (hl : l < 0x8000) :
    regKey a i j ≠ regKey b k l := by
  unfold regKey; omega

/-- Keys of different instances of a register differ. -/
theorem regKey_ne_inst {a i j k l : Nat} (h : i ≠ k) (hj : j < 0x8000) (hl : l < 0x8000) : regKey a i j ≠ regKey a k l := by
  unfold regKey; omega

theorem State.reg_setReg_same {s : State} (h : s.RegsWf) (a : Nat) (v : Word) (i j : Nat) : (s.setReg a v i j).reg a i j = v :=
  smGet_smSet_same (smSorted_of_wf h) _ _

theorem State.reg_setReg_ne {s : State} {a b i j k l : Nat} (v : Word) (h : regKey b k l ≠ regKey a i j) :
    (s.setReg a v i j).reg b k l = s.reg b k l :=
  smGet_smSet_ne _ _ _ h

theorem State.regsWf_setReg {s : State} (h : s.RegsWf) (a : Nat) (v : Word) (i j : Nat) : (s.setReg a v i j).RegsWf :=
  smWf_smSet _ _ h

theorem State.regsWf_setF {s : State} (h : s.RegsWf) (f : Fld) (v i j : Nat) : (s.setF f v i j).RegsWf :=
  State.regsWf_setReg h _ _ _ _

/-- A field's place within a register value that fits a word. -/
def Fld.Fits (f : Fld) : Prop := f.lo ≤ f.hi ∧ f.hi < 32

theorem putField_lt {old hi lo v : Nat} (h : old < 2 ^ 32) (hl : lo ≤ hi) (hh : hi < 32) : putField old hi lo v < 2 ^ 32 := by
  have e : 2 ^ lo * 2 ^ (hi + 1 - lo) * 2 ^ (31 - hi) = 2 ^ 32 := by
    rw [← pow_add, ← pow_add]; congr 1; omega
  have e2 : 2 ^ lo * 2 ^ (hi + 1 - lo) = 2 ^ (hi + 1) := by rw [← pow_add]; congr 1; omega
  unfold putField
  set w := 2 ^ (hi + 1 - lo)
  set p := 2 ^ lo
  have hp : 0 < p := Nat.two_pow_pos _
  have hw : 0 < w := Nat.two_pow_pos _
  have hv : v % w < w := Nat.mod_lt _ hw
  -- old = rest + field * p, rest's upper part is a multiple of p * w
  have h1 : old = old % p + p * (old / p % w) + p * w * (old / p / w) := by
    have a := Nat.div_add_mod old p
    have b := Nat.div_add_mod (old / p) w
    calc old = p * (old / p) + old % p := a.symm
      _ = p * (w * (old / p / w) + old / p % w) + old % p := by rw [b]
      _ = _ := by ring
  have h2 : old - old / p % w * p + v % w * p = old % p + p * (v % w) + p * w * (old / p / w) := by
    have : old - old / p % w * p = old % p + p * w * (old / p / w) := by
      conv_lhs => rw [h1]
      have : (old % p + p * (old / p % w) + p * w * (old / p / w)) / p % w * p = old / p % w * p := by rw [← h1]
      rw [this]
      have : p * (old / p % w) = old / p % w * p := by ring
      omega
    rw [this]; ring
  rw [h2]
  have hr : old / p / w < 2 ^ (31 - hi) := by
    rw [Nat.div_div_eq_div_mul]
    apply Nat.div_lt_of_lt_mul
    calc old < 2 ^ 32 := h
      _ = p * w * 2 ^ (31 - hi) := e.symm
  have hq : old % p < p := Nat.mod_lt _ hp
  calc old % p + p * (v % w) + p * w * (old / p / w)
      < p * w + p * w * (old / p / w) := by
        have : p * (v % w) + p ≤ p * w := by
          have : v % w + 1 ≤ w := hv
          calc p * (v % w) + p = p * (v % w + 1) := by ring
            _ ≤ p * w := Nat.mul_le_mul_left _ this
        omega
    _ = p * w * (old / p / w + 1) := by ring
    _ ≤ p * w * 2 ^ (31 - hi) := Nat.mul_le_mul_left _ hr
    _ = 2 ^ 32 := e

/-- A field reads what was put in it. -/
theorem putField_same {old hi lo v : Nat} :
    putField old hi lo v / 2 ^ lo % 2 ^ (hi + 1 - lo) = v % 2 ^ (hi + 1 - lo) := by
  unfold putField
  set w := 2 ^ (hi + 1 - lo)
  set p := 2 ^ lo
  have hp : 0 < p := Nat.two_pow_pos _
  have hw : 0 < w := Nat.two_pow_pos _
  have h1 : old = old % p + p * (old / p % w) + p * w * (old / p / w) := by
    have a := Nat.div_add_mod old p
    have b := Nat.div_add_mod (old / p) w
    calc old = p * (old / p) + old % p := a.symm
      _ = p * (w * (old / p / w) + old / p % w) + old % p := by rw [b]
      _ = _ := by ring
  have h2 : old - old / p % w * p + v % w * p = old % p + p * (v % w + w * (old / p / w)) := by
    have : old - old / p % w * p = old % p + p * w * (old / p / w) := by
      conv_lhs => rw [h1]
      have : (old % p + p * (old / p % w) + p * w * (old / p / w)) / p % w * p = old / p % w * p := by rw [← h1]
      rw [this]
      have : p * (old / p % w) = old / p % w * p := by ring
      omega
    rw [this]; ring
  rw [h2, Nat.add_mul_div_left _ _ hp, Nat.div_eq_of_lt (Nat.mod_lt _ hp), Nat.zero_add, Nat.add_mul_mod_self_left,
    Nat.mod_mod]

/-- Fields of one register that do not overlap are apart. -/
def Fld.Apart (f g : Fld) : Prop := g.hi < f.lo ∨ f.hi < g.lo

/-- A field that does not overlap the one replaced reads as before. -/
theorem putField_other {old hi lo v gh gl : Nat} (hl : lo ≤ hi) (hg : gl ≤ gh) (h : gh < lo ∨ hi < gl) :
    putField old hi lo v / 2 ^ gl % 2 ^ (gh + 1 - gl) = old / 2 ^ gl % 2 ^ (gh + 1 - gl) := by
  have bit : ∀ i, i < lo ∨ hi < i → (putField old hi lo v).testBit i = old.testBit i := by
    intro i hi'
    unfold putField
    set w := 2 ^ (hi + 1 - lo) with hw
    set p := 2 ^ lo with hp
    have p0 : 0 < p := Nat.two_pow_pos _
    have w0 : 0 < w := Nat.two_pow_pos _
    have h1 : old = old % p + p * (old / p % w) + p * w * (old / p / w) := by
      have a := Nat.div_add_mod old p
      have b := Nat.div_add_mod (old / p) w
      calc old = p * (old / p) + old % p := a.symm
        _ = p * (w * (old / p / w) + old / p % w) + old % p := by rw [b]
        _ = _ := by ring
    have h2 : old - old / p % w * p + v % w * p = old % p + p * (v % w + w * (old / p / w)) := by
      have : old - old / p % w * p = old % p + p * w * (old / p / w) := by
        have e : p * (old / p % w) = old / p % w * p := by ring
        omega
      rw [this]; ring
    rw [h2]
    simp only [Nat.testBit_eq_decide_div_mod_eq]
    congr 2
    rcases hi' with hi' | hi'
    · have e : p = 2 ^ i * (2 * 2 ^ (lo - i - 1)) := by
        rw [hp, ← pow_succ', ← pow_add]; congr 1; omega
      have i0 : 0 < 2 ^ i := Nat.two_pow_pos _
      have : ∀ x, (old % p + p * x) / 2 ^ i % 2 = old % p / 2 ^ i % 2 := by
        intro x
        have : old % p + p * x = old % p + 2 ^ i * (2 * (2 ^ (lo - i - 1) * x)) := by
          have e3 : p * x = 2 ^ i * (2 * (2 ^ (lo - i - 1) * x)) := by rw [e]; ring
          rw [e3]
        rw [this, Nat.add_mul_div_left _ _ i0, Nat.add_mul_mod_self_left]
      rw [this]
      have b : old = old % p + p * (old / p) := (Nat.mod_add_div old p).symm
      conv_rhs => rw [b]
      rw [this]
    · have e : 2 ^ i = p * w * 2 ^ (i - hi - 1) := by
        rw [hp, hw, ← pow_add, ← pow_add]; congr 1; omega
      have q : ∀ x, x < w → (old % p + p * (x + w * (old / p / w))) / 2 ^ i = old / p / w / 2 ^ (i - hi - 1) := by
        intro x hx
        rw [e, ← Nat.div_div_eq_div_mul, ← Nat.div_div_eq_div_mul, Nat.add_mul_div_left _ _ p0,
          Nat.div_eq_of_lt (Nat.mod_lt _ p0), Nat.zero_add, Nat.add_mul_div_left _ _ w0, Nat.div_eq_of_lt hx, Nat.zero_add]
      rw [q _ (Nat.mod_lt _ w0)]
      have : old = old % p + p * (old / p % w + w * (old / p / w)) := by
        rw [Nat.mod_add_div, Nat.mod_add_div]
      conv_rhs => rw [this]
      rw [q _ (Nat.mod_lt _ w0)]
  apply Nat.eq_of_testBit_eq
  intro i
  rw [Nat.testBit_mod_two_pow, Nat.testBit_mod_two_pow, Nat.testBit_div_two_pow, Nat.testBit_div_two_pow]
  by_cases c : i < gh + 1 - gl
  · rw [bit (i + gl) (by omega)]
  · simp [c]

theorem State.getF_setF_same {s : State} (h : s.RegsWf) {f : Fld} (hf : f.Fits) (v i j : Nat) :
    (s.setF f v i j).getF f i j = v % 2 ^ f.width := by
  unfold State.getF State.setF
  rw [State.reg_setReg_same h, BitVec.toNat_ofNat,
    Nat.mod_eq_of_lt (putField_lt (s.reg f.addr i j).isLt hf.1 hf.2)]
  exact putField_same

theorem State.getF_setF_apart {s : State} (h : s.RegsWf) {f g : Fld} (hf : f.Fits) (hg : g.Fits) (ha : f.addr = g.addr)
    (hd : f.Apart g) (v i j : Nat) : (s.setF f v i j).getF g i j = s.getF g i j := by
  unfold State.getF State.setF
  rw [← ha, State.reg_setReg_same h, BitVec.toNat_ofNat,
    Nat.mod_eq_of_lt (putField_lt (s.reg f.addr i j).isLt hf.1 hf.2)]
  exact putField_other hf.1 hg.1 hd

theorem State.getF_setF_ne {s : State} {f g : Fld} {i j k l : Nat} (v : Nat) (h : regKey g.addr k l ≠ regKey f.addr i j) :
    (s.setF f v i j).getF g k l = s.getF g k l := by
  unfold State.getF State.setF
  rw [State.reg_setReg_ne _ h]

theorem State.flag_setFlag_same {s : State} (h : s.RegsWf) {f : Fld} (hf : f.Fits) (b : Bool) (i j : Nat) :
    (s.setFlag f b i j).flag f i j = b := by
  unfold State.flag State.setFlag
  rw [State.getF_setF_same h hf]
  have h1 : 1 ≤ f.width := by unfold Fld.width; have := hf.1; omega
  have : 2 ≤ 2 ^ f.width := by
    calc 2 = 2 ^ 1 := rfl
      _ ≤ 2 ^ f.width := Nat.pow_le_pow_right (by omega) h1
  cases b
  · simp
  · simp [Nat.mod_eq_of_lt (show 1 < 2 ^ f.width by omega)]

end Sys2Proof.Machine
end

