-- ==== Sys2Proof/Laws/Memory.lean ====
section
/-! SUPPORT. Memory: the canonical form is kept by every memory operation, and a write is read back and touches nothing
else. -/

namespace Sys2Proof.Machine

/-- Register writes and the primitive memory writes keep the canonical forms; so does every operation, by its lemma in Keep. -/
theorem canonical_stable : StableMem State.Canonical where
  reg h k v := ⟨smWf_smSet k v h.1, h.2⟩
  clr h p := ⟨smWf_filter p h.1, h.2⟩
  rest h := by intros; exact h
  dev h := by intros; exact h
  synd h k v := ⟨h.1, h.2.1, smWf_smSet k v h.2.2⟩
  put h a b := ⟨h.1, smWf_smSet a b h.2.1, h.2.2⟩
  cut h p q := ⟨h.1, smWf_filter p h.2.1, smWf_filter q h.2.2⟩

/-- The queue of commands and the fuses are touched by no operation. -/
theorem fixed_stable (q : List Instr) (g : Bool) (n : Nat) (r f : List Byte) :
    StableMem fun s => s.pending = q ∧ s.dv.gradeC = g ∧ s.dv.devNum = n ∧ s.dv.rootHash = r ∧ s.dv.footingSeed = f where
  reg h _ _ := h
  clr h _ := h
  rest h := by intros; exact h
  dev h := by intros; exact h
  synd h _ _ := h
  put h _ _ := h
  cut h _ _ := h

/-- An operation that needs no more than `Stable` leaves all of memory as it is, syndromes included. -/
theorem memory_stable (m : List Host.Cell) (y : List (Nat × Byte)) : Stable fun s => s.mem = m ∧ s.synd = y where
  reg h _ _ := h
  clr h _ := h
  rest h := by intros; exact h
  dev h := by intros; exact h

theorem memPut_wf {m : List Host.Cell} (a : Nat) (b : Byte) (h : Memory.wf m = true) : Memory.wf (memPut m a b) = true :=
  smWf_smSet a b h

theorem memPutAll_wf {m : List Host.Cell} (a : Nat) (bs : List Byte) (h : Memory.wf m = true) :
    Memory.wf (memPutAll m a bs) = true := by
  induction bs generalizing m a with
  | nil => exact h
  | cons b bs ih => exact ih (a + 1) (memPut_wf a b h)

theorem memClear_wf {m : List Host.Cell} (a n : Nat) (h : Memory.wf m = true) : Memory.wf (memClear m a n) = true :=
  smWf_filter _ h

/-- A byte put is read back. -/
theorem memPut_same {m : List Host.Cell} (h : Memory.wf m = true) (a : Nat) (b : Byte) :
    smGet memDefault (memPut m a b) a = b := smGet_smSet_same (smSorted_of_wf h) a b

/-- A byte put leaves every other one. -/
theorem memPut_ne {m : List Host.Cell} {a x : Nat} (b : Byte) (h : x ≠ a) :
    smGet memDefault (memPut m a b) x = smGet memDefault m x := smGet_smSet_ne _ _ _ h

/-- Bytes outside those put stay. -/
theorem memPutAll_outside {m : List Host.Cell} {a x : Nat} {bs : List Byte} (h : x < a ∨ a + bs.length ≤ x) :
    smGet memDefault (memPutAll m a bs) x = smGet memDefault m x := by
  induction bs generalizing m a with
  | nil => rfl
  | cons b bs ih =>
    simp only [List.length_cons] at h
    have := ih (m := memPut m a b) (a := a + 1) (by omega)
    simp only [memPutAll, this]
    exact memPut_ne b (by omega)

/-- Correcting a word changes no byte outside it. -/
theorem State.byte_correctWord {s : State} {a x : Nat} (h : x / 8 ≠ a / 8) : (s.correctWord a).byte x = s.byte x := by
  unfold State.correctWord
  split
  · rfl
  · rename_i i hi
    unfold State.setSynd State.byte
    apply memPut_ne
    have : i < 64 := by
      unfold State.ecc decodeSyndrome at hi
      split at hi
      · cases hi
      · split at hi
        · cases hi
        · split at hi
          · cases hi
          · split at hi
            · rename_i p hp
              cases hi
              have hm := List.mem_of_find?_eq_some hp
              have hlt := (List.mem_zipIdx hm).2.1
              have hl : dataColumns.length = 64 := by decide +kernel
              omega
            · cases hi
    omega
  · rfl

/-- Folding writes of syndromes and corrections over words leaves bytes outside those words. -/
theorem State.byte_foldl {ws : List Nat} {g : State → Nat → State} {x : Nat} (hw : ∀ w ∈ ws, x / 8 ≠ w / 8)
    (hg : ∀ t w, x / 8 ≠ w / 8 → (g t w).byte x = t.byte x) (s : State) : (ws.foldl g s).byte x = s.byte x := by
  induction ws generalizing s with
  | nil => rfl
  | cons w ws ih =>
    simp only [List.foldl_cons]
    rw [ih (fun v hv => hw v (List.mem_cons_of_mem _ hv)), hg s w (hw w (by simp))]

/-- A write leaves every byte of the words it does not touch. -/
theorem State.byte_wr_outside {s : State} {a x : Nat} {bs : List Byte} (h : ∀ w ∈ wordsOf a bs.length, x / 8 ≠ w / 8)
    (ho : x < a ∨ a + bs.length ≤ x) : (s.wr a bs).byte x = s.byte x := by
  have put : ∀ (l : List (Byte × Nat)) (m : List Host.Cell), (∀ p ∈ l, a + p.2 ≠ x) →
      smGet memDefault (l.foldl (fun m p => memPut m (a + p.2) p.1) m) x = smGet memDefault m x := by
    intro l
    induction l with
    | nil => intro m _; rfl
    | cons p l ih =>
      intro m hl
      simp only [List.foldl_cons]
      rw [ih _ fun q hq => hl q (List.mem_cons_of_mem _ hq)]
      exact memPut_ne _ (hl p (by simp)).symm
  unfold State.wr
  extract_lets n full bad s1 kept
  have h1 : s1.byte x = s.byte x := by
    refine State.byte_foldl h (fun t w hw => ?_) s
    split
    · rfl
    · split
      · rfl
      · exact State.byte_correctWord hw
  unfold State.byte at h1 ⊢
  rw [← h1]
  refine put kept s1.mem fun p hp => ?_
  have hm : p ∈ bs.zipIdx := List.mem_of_mem_filter hp
  have := (List.mem_zipIdx hm).2.1
  omega

end Sys2Proof.Machine
end

