-- ==== Sys2Proof/Laws/State.lean ====
section
/-! SUPPORT. One lemma per field per named update: what an update leaves alone, true by unfolding, so that no proof unfolds a
record update. -/

namespace Sys2Proof.Machine

@[simp] theorem State.setReg_pending (s : State) (a : Nat) (v : Word) (i j : Nat) : (s.setReg a v i j).pending = s.pending := by rw [State.setReg]
@[simp] theorem State.setReg_now (s : State) (a : Nat) (v : Word) (i j : Nat) : (s.setReg a v i j).now = s.now := by rw [State.setReg]
@[simp] theorem State.setReg_freeCount (s : State) (a : Nat) (v : Word) (i j : Nat) : (s.setReg a v i j).freeCount = s.freeCount := by rw [State.setReg]
@[simp] theorem State.setReg_pw (s : State) (a : Nat) (v : Word) (i j : Nat) : (s.setReg a v i j).pw = s.pw := by rw [State.setReg]
@[simp] theorem State.setReg_dv (s : State) (a : Nat) (v : Word) (i j : Nat) : (s.setReg a v i j).dv = s.dv := by rw [State.setReg]
@[simp] theorem State.setReg_mem (s : State) (a : Nat) (v : Word) (i j : Nat) : (s.setReg a v i j).mem = s.mem := by rw [State.setReg]
@[simp] theorem State.setReg_synd (s : State) (a : Nat) (v : Word) (i j : Nat) : (s.setReg a v i j).synd = s.synd := by rw [State.setReg]
@[simp] theorem State.setReg_unitGen (s : State) (a : Nat) (v : Word) (i j : Nat) : (s.setReg a v i j).unitGen = s.unitGen := by rw [State.setReg]
@[simp] theorem State.setReg_ftg (s : State) (a : Nat) (v : Word) (i j : Nat) : (s.setReg a v i j).ftg = s.ftg := by rw [State.setReg]
@[simp] theorem State.setReg_tr (s : State) (a : Nat) (v : Word) (i j : Nat) : (s.setReg a v i j).tr = s.tr := by rw [State.setReg]
@[simp] theorem State.setReg_kl (s : State) (a : Nat) (v : Word) (i j : Nat) : (s.setReg a v i j).kl = s.kl := by rw [State.setReg]
@[simp] theorem State.setReg_ks (s : State) (a : Nat) (v : Word) (i j : Nat) : (s.setReg a v i j).ks = s.ks := by rw [State.setReg]
@[simp] theorem State.setReg_ln (s : State) (a : Nat) (v : Word) (i j : Nat) : (s.setReg a v i j).ln = s.ln := by rw [State.setReg]
@[simp] theorem State.setReg_yd (s : State) (a : Nat) (v : Word) (i j : Nat) : (s.setReg a v i j).yd = s.yd := by rw [State.setReg]
@[simp] theorem State.setReg_pt (s : State) (a : Nat) (v : Word) (i j : Nat) : (s.setReg a v i j).pt = s.pt := by rw [State.setReg]
@[simp] theorem State.setReg_bm (s : State) (a : Nat) (v : Word) (i j : Nat) : (s.setReg a v i j).bm = s.bm := by rw [State.setReg]
@[simp] theorem State.setReg_bk (s : State) (a : Nat) (v : Word) (i j : Nat) : (s.setReg a v i j).bk = s.bk := by rw [State.setReg]
@[simp] theorem State.setReg_br (s : State) (a : Nat) (v : Word) (i j : Nat) : (s.setReg a v i j).br = s.br := by rw [State.setReg]
@[simp] theorem State.setReg_lk (s : State) (a : Nat) (v : Word) (i j : Nat) : (s.setReg a v i j).lk = s.lk := by rw [State.setReg]
@[simp] theorem State.setReg_qu (s : State) (a : Nat) (v : Word) (i j : Nat) : (s.setReg a v i j).qu = s.qu := by rw [State.setReg]
@[simp] theorem State.setReg_sv (s : State) (a : Nat) (v : Word) (i j : Nat) : (s.setReg a v i j).sv = s.sv := by rw [State.setReg]
@[simp] theorem State.setReg_it (s : State) (a : Nat) (v : Word) (i j : Nat) : (s.setReg a v i j).it = s.it := by rw [State.setReg]
@[simp] theorem State.setReg_out (s : State) (a : Nat) (v : Word) (i j : Nat) : (s.setReg a v i j).out = s.out := by rw [State.setReg]

@[simp] theorem State.setF_pending (s : State) (f : Fld) (v i j : Nat) : (s.setF f v i j).pending = s.pending := by simp [State.setF]
@[simp] theorem State.setF_now (s : State) (f : Fld) (v i j : Nat) : (s.setF f v i j).now = s.now := by simp [State.setF]
@[simp] theorem State.setF_freeCount (s : State) (f : Fld) (v i j : Nat) : (s.setF f v i j).freeCount = s.freeCount := by simp [State.setF]
@[simp] theorem State.setF_pw (s : State) (f : Fld) (v i j : Nat) : (s.setF f v i j).pw = s.pw := by simp [State.setF]
@[simp] theorem State.setF_dv (s : State) (f : Fld) (v i j : Nat) : (s.setF f v i j).dv = s.dv := by simp [State.setF]
@[simp] theorem State.setF_mem (s : State) (f : Fld) (v i j : Nat) : (s.setF f v i j).mem = s.mem := by simp [State.setF]
@[simp] theorem State.setF_synd (s : State) (f : Fld) (v i j : Nat) : (s.setF f v i j).synd = s.synd := by simp [State.setF]
@[simp] theorem State.setF_unitGen (s : State) (f : Fld) (v i j : Nat) : (s.setF f v i j).unitGen = s.unitGen := by simp [State.setF]
@[simp] theorem State.setF_ftg (s : State) (f : Fld) (v i j : Nat) : (s.setF f v i j).ftg = s.ftg := by simp [State.setF]
@[simp] theorem State.setF_tr (s : State) (f : Fld) (v i j : Nat) : (s.setF f v i j).tr = s.tr := by simp [State.setF]
@[simp] theorem State.setF_kl (s : State) (f : Fld) (v i j : Nat) : (s.setF f v i j).kl = s.kl := by simp [State.setF]
@[simp] theorem State.setF_ks (s : State) (f : Fld) (v i j : Nat) : (s.setF f v i j).ks = s.ks := by simp [State.setF]
@[simp] theorem State.setF_ln (s : State) (f : Fld) (v i j : Nat) : (s.setF f v i j).ln = s.ln := by simp [State.setF]
@[simp] theorem State.setF_yd (s : State) (f : Fld) (v i j : Nat) : (s.setF f v i j).yd = s.yd := by simp [State.setF]
@[simp] theorem State.setF_pt (s : State) (f : Fld) (v i j : Nat) : (s.setF f v i j).pt = s.pt := by simp [State.setF]
@[simp] theorem State.setF_bm (s : State) (f : Fld) (v i j : Nat) : (s.setF f v i j).bm = s.bm := by simp [State.setF]
@[simp] theorem State.setF_bk (s : State) (f : Fld) (v i j : Nat) : (s.setF f v i j).bk = s.bk := by simp [State.setF]
@[simp] theorem State.setF_br (s : State) (f : Fld) (v i j : Nat) : (s.setF f v i j).br = s.br := by simp [State.setF]
@[simp] theorem State.setF_lk (s : State) (f : Fld) (v i j : Nat) : (s.setF f v i j).lk = s.lk := by simp [State.setF]
@[simp] theorem State.setF_qu (s : State) (f : Fld) (v i j : Nat) : (s.setF f v i j).qu = s.qu := by simp [State.setF]
@[simp] theorem State.setF_sv (s : State) (f : Fld) (v i j : Nat) : (s.setF f v i j).sv = s.sv := by simp [State.setF]
@[simp] theorem State.setF_it (s : State) (f : Fld) (v i j : Nat) : (s.setF f v i j).it = s.it := by simp [State.setF]
@[simp] theorem State.setF_out (s : State) (f : Fld) (v i j : Nat) : (s.setF f v i j).out = s.out := by simp [State.setF]

@[simp] theorem State.setFlag_pending (s : State) (f : Fld) (b : Bool) (i j : Nat) : (s.setFlag f b i j).pending = s.pending := by simp [State.setFlag]
@[simp] theorem State.setFlag_now (s : State) (f : Fld) (b : Bool) (i j : Nat) : (s.setFlag f b i j).now = s.now := by simp [State.setFlag]
@[simp] theorem State.setFlag_freeCount (s : State) (f : Fld) (b : Bool) (i j : Nat) : (s.setFlag f b i j).freeCount = s.freeCount := by simp [State.setFlag]
@[simp] theorem State.setFlag_pw (s : State) (f : Fld) (b : Bool) (i j : Nat) : (s.setFlag f b i j).pw = s.pw := by simp [State.setFlag]
@[simp] theorem State.setFlag_dv (s : State) (f : Fld) (b : Bool) (i j : Nat) : (s.setFlag f b i j).dv = s.dv := by simp [State.setFlag]
@[simp] theorem State.setFlag_mem (s : State) (f : Fld) (b : Bool) (i j : Nat) : (s.setFlag f b i j).mem = s.mem := by simp [State.setFlag]
@[simp] theorem State.setFlag_synd (s : State) (f : Fld) (b : Bool) (i j : Nat) : (s.setFlag f b i j).synd = s.synd := by simp [State.setFlag]
@[simp] theorem State.setFlag_unitGen (s : State) (f : Fld) (b : Bool) (i j : Nat) : (s.setFlag f b i j).unitGen = s.unitGen := by simp [State.setFlag]
@[simp] theorem State.setFlag_ftg (s : State) (f : Fld) (b : Bool) (i j : Nat) : (s.setFlag f b i j).ftg = s.ftg := by simp [State.setFlag]
@[simp] theorem State.setFlag_tr (s : State) (f : Fld) (b : Bool) (i j : Nat) : (s.setFlag f b i j).tr = s.tr := by simp [State.setFlag]
@[simp] theorem State.setFlag_kl (s : State) (f : Fld) (b : Bool) (i j : Nat) : (s.setFlag f b i j).kl = s.kl := by simp [State.setFlag]
@[simp] theorem State.setFlag_ks (s : State) (f : Fld) (b : Bool) (i j : Nat) : (s.setFlag f b i j).ks = s.ks := by simp [State.setFlag]
@[simp] theorem State.setFlag_ln (s : State) (f : Fld) (b : Bool) (i j : Nat) : (s.setFlag f b i j).ln = s.ln := by simp [State.setFlag]
@[simp] theorem State.setFlag_yd (s : State) (f : Fld) (b : Bool) (i j : Nat) : (s.setFlag f b i j).yd = s.yd := by simp [State.setFlag]
@[simp] theorem State.setFlag_pt (s : State) (f : Fld) (b : Bool) (i j : Nat) : (s.setFlag f b i j).pt = s.pt := by simp [State.setFlag]
@[simp] theorem State.setFlag_bm (s : State) (f : Fld) (b : Bool) (i j : Nat) : (s.setFlag f b i j).bm = s.bm := by simp [State.setFlag]
@[simp] theorem State.setFlag_bk (s : State) (f : Fld) (b : Bool) (i j : Nat) : (s.setFlag f b i j).bk = s.bk := by simp [State.setFlag]
@[simp] theorem State.setFlag_br (s : State) (f : Fld) (b : Bool) (i j : Nat) : (s.setFlag f b i j).br = s.br := by simp [State.setFlag]
@[simp] theorem State.setFlag_lk (s : State) (f : Fld) (b : Bool) (i j : Nat) : (s.setFlag f b i j).lk = s.lk := by simp [State.setFlag]
@[simp] theorem State.setFlag_qu (s : State) (f : Fld) (b : Bool) (i j : Nat) : (s.setFlag f b i j).qu = s.qu := by simp [State.setFlag]
@[simp] theorem State.setFlag_sv (s : State) (f : Fld) (b : Bool) (i j : Nat) : (s.setFlag f b i j).sv = s.sv := by simp [State.setFlag]
@[simp] theorem State.setFlag_it (s : State) (f : Fld) (b : Bool) (i j : Nat) : (s.setFlag f b i j).it = s.it := by simp [State.setFlag]
@[simp] theorem State.setFlag_out (s : State) (f : Fld) (b : Bool) (i j : Nat) : (s.setFlag f b i j).out = s.out := by simp [State.setFlag]

@[simp] theorem State.bump_pending (s : State) (f : Fld) (n i j : Nat) : (s.bump f n i j).pending = s.pending := by simp [State.bump]
@[simp] theorem State.bump_now (s : State) (f : Fld) (n i j : Nat) : (s.bump f n i j).now = s.now := by simp [State.bump]
@[simp] theorem State.bump_freeCount (s : State) (f : Fld) (n i j : Nat) : (s.bump f n i j).freeCount = s.freeCount := by simp [State.bump]
@[simp] theorem State.bump_pw (s : State) (f : Fld) (n i j : Nat) : (s.bump f n i j).pw = s.pw := by simp [State.bump]
@[simp] theorem State.bump_dv (s : State) (f : Fld) (n i j : Nat) : (s.bump f n i j).dv = s.dv := by simp [State.bump]
@[simp] theorem State.bump_mem (s : State) (f : Fld) (n i j : Nat) : (s.bump f n i j).mem = s.mem := by simp [State.bump]
@[simp] theorem State.bump_synd (s : State) (f : Fld) (n i j : Nat) : (s.bump f n i j).synd = s.synd := by simp [State.bump]
@[simp] theorem State.bump_unitGen (s : State) (f : Fld) (n i j : Nat) : (s.bump f n i j).unitGen = s.unitGen := by simp [State.bump]
@[simp] theorem State.bump_ftg (s : State) (f : Fld) (n i j : Nat) : (s.bump f n i j).ftg = s.ftg := by simp [State.bump]
@[simp] theorem State.bump_tr (s : State) (f : Fld) (n i j : Nat) : (s.bump f n i j).tr = s.tr := by simp [State.bump]
@[simp] theorem State.bump_kl (s : State) (f : Fld) (n i j : Nat) : (s.bump f n i j).kl = s.kl := by simp [State.bump]
@[simp] theorem State.bump_ks (s : State) (f : Fld) (n i j : Nat) : (s.bump f n i j).ks = s.ks := by simp [State.bump]
@[simp] theorem State.bump_ln (s : State) (f : Fld) (n i j : Nat) : (s.bump f n i j).ln = s.ln := by simp [State.bump]
@[simp] theorem State.bump_yd (s : State) (f : Fld) (n i j : Nat) : (s.bump f n i j).yd = s.yd := by simp [State.bump]
@[simp] theorem State.bump_pt (s : State) (f : Fld) (n i j : Nat) : (s.bump f n i j).pt = s.pt := by simp [State.bump]
@[simp] theorem State.bump_bm (s : State) (f : Fld) (n i j : Nat) : (s.bump f n i j).bm = s.bm := by simp [State.bump]
@[simp] theorem State.bump_bk (s : State) (f : Fld) (n i j : Nat) : (s.bump f n i j).bk = s.bk := by simp [State.bump]
@[simp] theorem State.bump_br (s : State) (f : Fld) (n i j : Nat) : (s.bump f n i j).br = s.br := by simp [State.bump]
@[simp] theorem State.bump_lk (s : State) (f : Fld) (n i j : Nat) : (s.bump f n i j).lk = s.lk := by simp [State.bump]
@[simp] theorem State.bump_qu (s : State) (f : Fld) (n i j : Nat) : (s.bump f n i j).qu = s.qu := by simp [State.bump]
@[simp] theorem State.bump_sv (s : State) (f : Fld) (n i j : Nat) : (s.bump f n i j).sv = s.sv := by simp [State.bump]
@[simp] theorem State.bump_it (s : State) (f : Fld) (n i j : Nat) : (s.bump f n i j).it = s.it := by simp [State.bump]
@[simp] theorem State.bump_out (s : State) (f : Fld) (n i j : Nat) : (s.bump f n i j).out = s.out := by simp [State.bump]

@[simp] theorem State.bumpW_pending (s : State) (f : Fld) (n i j : Nat) : (s.bumpW f n i j).pending = s.pending := by simp [State.bumpW]
@[simp] theorem State.bumpW_now (s : State) (f : Fld) (n i j : Nat) : (s.bumpW f n i j).now = s.now := by simp [State.bumpW]
@[simp] theorem State.bumpW_freeCount (s : State) (f : Fld) (n i j : Nat) : (s.bumpW f n i j).freeCount = s.freeCount := by simp [State.bumpW]
@[simp] theorem State.bumpW_pw (s : State) (f : Fld) (n i j : Nat) : (s.bumpW f n i j).pw = s.pw := by simp [State.bumpW]
@[simp] theorem State.bumpW_dv (s : State) (f : Fld) (n i j : Nat) : (s.bumpW f n i j).dv = s.dv := by simp [State.bumpW]
@[simp] theorem State.bumpW_mem (s : State) (f : Fld) (n i j : Nat) : (s.bumpW f n i j).mem = s.mem := by simp [State.bumpW]
@[simp] theorem State.bumpW_synd (s : State) (f : Fld) (n i j : Nat) : (s.bumpW f n i j).synd = s.synd := by simp [State.bumpW]
@[simp] theorem State.bumpW_unitGen (s : State) (f : Fld) (n i j : Nat) : (s.bumpW f n i j).unitGen = s.unitGen := by simp [State.bumpW]
@[simp] theorem State.bumpW_ftg (s : State) (f : Fld) (n i j : Nat) : (s.bumpW f n i j).ftg = s.ftg := by simp [State.bumpW]
@[simp] theorem State.bumpW_tr (s : State) (f : Fld) (n i j : Nat) : (s.bumpW f n i j).tr = s.tr := by simp [State.bumpW]
@[simp] theorem State.bumpW_kl (s : State) (f : Fld) (n i j : Nat) : (s.bumpW f n i j).kl = s.kl := by simp [State.bumpW]
@[simp] theorem State.bumpW_ks (s : State) (f : Fld) (n i j : Nat) : (s.bumpW f n i j).ks = s.ks := by simp [State.bumpW]
@[simp] theorem State.bumpW_ln (s : State) (f : Fld) (n i j : Nat) : (s.bumpW f n i j).ln = s.ln := by simp [State.bumpW]
@[simp] theorem State.bumpW_yd (s : State) (f : Fld) (n i j : Nat) : (s.bumpW f n i j).yd = s.yd := by simp [State.bumpW]
@[simp] theorem State.bumpW_pt (s : State) (f : Fld) (n i j : Nat) : (s.bumpW f n i j).pt = s.pt := by simp [State.bumpW]
@[simp] theorem State.bumpW_bm (s : State) (f : Fld) (n i j : Nat) : (s.bumpW f n i j).bm = s.bm := by simp [State.bumpW]
@[simp] theorem State.bumpW_bk (s : State) (f : Fld) (n i j : Nat) : (s.bumpW f n i j).bk = s.bk := by simp [State.bumpW]
@[simp] theorem State.bumpW_br (s : State) (f : Fld) (n i j : Nat) : (s.bumpW f n i j).br = s.br := by simp [State.bumpW]
@[simp] theorem State.bumpW_lk (s : State) (f : Fld) (n i j : Nat) : (s.bumpW f n i j).lk = s.lk := by simp [State.bumpW]
@[simp] theorem State.bumpW_qu (s : State) (f : Fld) (n i j : Nat) : (s.bumpW f n i j).qu = s.qu := by simp [State.bumpW]
@[simp] theorem State.bumpW_sv (s : State) (f : Fld) (n i j : Nat) : (s.bumpW f n i j).sv = s.sv := by simp [State.bumpW]
@[simp] theorem State.bumpW_it (s : State) (f : Fld) (n i j : Nat) : (s.bumpW f n i j).it = s.it := by simp [State.bumpW]
@[simp] theorem State.bumpW_out (s : State) (f : Fld) (n i j : Nat) : (s.bumpW f n i j).out = s.out := by simp [State.bumpW]

@[simp] theorem State.raiseMax_pending (s : State) (f : Fld) (v i j : Nat) : (s.raiseMax f v i j).pending = s.pending := by simp [State.raiseMax]
@[simp] theorem State.raiseMax_now (s : State) (f : Fld) (v i j : Nat) : (s.raiseMax f v i j).now = s.now := by simp [State.raiseMax]
@[simp] theorem State.raiseMax_freeCount (s : State) (f : Fld) (v i j : Nat) : (s.raiseMax f v i j).freeCount = s.freeCount := by simp [State.raiseMax]
@[simp] theorem State.raiseMax_pw (s : State) (f : Fld) (v i j : Nat) : (s.raiseMax f v i j).pw = s.pw := by simp [State.raiseMax]
@[simp] theorem State.raiseMax_dv (s : State) (f : Fld) (v i j : Nat) : (s.raiseMax f v i j).dv = s.dv := by simp [State.raiseMax]
@[simp] theorem State.raiseMax_mem (s : State) (f : Fld) (v i j : Nat) : (s.raiseMax f v i j).mem = s.mem := by simp [State.raiseMax]
@[simp] theorem State.raiseMax_synd (s : State) (f : Fld) (v i j : Nat) : (s.raiseMax f v i j).synd = s.synd := by simp [State.raiseMax]
@[simp] theorem State.raiseMax_unitGen (s : State) (f : Fld) (v i j : Nat) : (s.raiseMax f v i j).unitGen = s.unitGen := by simp [State.raiseMax]
@[simp] theorem State.raiseMax_ftg (s : State) (f : Fld) (v i j : Nat) : (s.raiseMax f v i j).ftg = s.ftg := by simp [State.raiseMax]
@[simp] theorem State.raiseMax_tr (s : State) (f : Fld) (v i j : Nat) : (s.raiseMax f v i j).tr = s.tr := by simp [State.raiseMax]
@[simp] theorem State.raiseMax_kl (s : State) (f : Fld) (v i j : Nat) : (s.raiseMax f v i j).kl = s.kl := by simp [State.raiseMax]
@[simp] theorem State.raiseMax_ks (s : State) (f : Fld) (v i j : Nat) : (s.raiseMax f v i j).ks = s.ks := by simp [State.raiseMax]
@[simp] theorem State.raiseMax_ln (s : State) (f : Fld) (v i j : Nat) : (s.raiseMax f v i j).ln = s.ln := by simp [State.raiseMax]
@[simp] theorem State.raiseMax_yd (s : State) (f : Fld) (v i j : Nat) : (s.raiseMax f v i j).yd = s.yd := by simp [State.raiseMax]
@[simp] theorem State.raiseMax_pt (s : State) (f : Fld) (v i j : Nat) : (s.raiseMax f v i j).pt = s.pt := by simp [State.raiseMax]
@[simp] theorem State.raiseMax_bm (s : State) (f : Fld) (v i j : Nat) : (s.raiseMax f v i j).bm = s.bm := by simp [State.raiseMax]
@[simp] theorem State.raiseMax_bk (s : State) (f : Fld) (v i j : Nat) : (s.raiseMax f v i j).bk = s.bk := by simp [State.raiseMax]
@[simp] theorem State.raiseMax_br (s : State) (f : Fld) (v i j : Nat) : (s.raiseMax f v i j).br = s.br := by simp [State.raiseMax]
@[simp] theorem State.raiseMax_lk (s : State) (f : Fld) (v i j : Nat) : (s.raiseMax f v i j).lk = s.lk := by simp [State.raiseMax]
@[simp] theorem State.raiseMax_qu (s : State) (f : Fld) (v i j : Nat) : (s.raiseMax f v i j).qu = s.qu := by simp [State.raiseMax]
@[simp] theorem State.raiseMax_sv (s : State) (f : Fld) (v i j : Nat) : (s.raiseMax f v i j).sv = s.sv := by simp [State.raiseMax]
@[simp] theorem State.raiseMax_it (s : State) (f : Fld) (v i j : Nat) : (s.raiseMax f v i j).it = s.it := by simp [State.raiseMax]
@[simp] theorem State.raiseMax_out (s : State) (f : Fld) (v i j : Nat) : (s.raiseMax f v i j).out = s.out := by simp [State.raiseMax]

@[simp] theorem State.setBit_pending (s : State) (f : Fld) (k : Nat) (b : Bool) (i j : Nat) : (s.setBit f k b i j).pending = s.pending := by simp [State.setBit]
@[simp] theorem State.setBit_now (s : State) (f : Fld) (k : Nat) (b : Bool) (i j : Nat) : (s.setBit f k b i j).now = s.now := by simp [State.setBit]
@[simp] theorem State.setBit_freeCount (s : State) (f : Fld) (k : Nat) (b : Bool) (i j : Nat) : (s.setBit f k b i j).freeCount = s.freeCount := by simp [State.setBit]
@[simp] theorem State.setBit_pw (s : State) (f : Fld) (k : Nat) (b : Bool) (i j : Nat) : (s.setBit f k b i j).pw = s.pw := by simp [State.setBit]
@[simp] theorem State.setBit_dv (s : State) (f : Fld) (k : Nat) (b : Bool) (i j : Nat) : (s.setBit f k b i j).dv = s.dv := by simp [State.setBit]
@[simp] theorem State.setBit_mem (s : State) (f : Fld) (k : Nat) (b : Bool) (i j : Nat) : (s.setBit f k b i j).mem = s.mem := by simp [State.setBit]
@[simp] theorem State.setBit_synd (s : State) (f : Fld) (k : Nat) (b : Bool) (i j : Nat) : (s.setBit f k b i j).synd = s.synd := by simp [State.setBit]
@[simp] theorem State.setBit_unitGen (s : State) (f : Fld) (k : Nat) (b : Bool) (i j : Nat) : (s.setBit f k b i j).unitGen = s.unitGen := by simp [State.setBit]
@[simp] theorem State.setBit_ftg (s : State) (f : Fld) (k : Nat) (b : Bool) (i j : Nat) : (s.setBit f k b i j).ftg = s.ftg := by simp [State.setBit]
@[simp] theorem State.setBit_tr (s : State) (f : Fld) (k : Nat) (b : Bool) (i j : Nat) : (s.setBit f k b i j).tr = s.tr := by simp [State.setBit]
@[simp] theorem State.setBit_kl (s : State) (f : Fld) (k : Nat) (b : Bool) (i j : Nat) : (s.setBit f k b i j).kl = s.kl := by simp [State.setBit]
@[simp] theorem State.setBit_ks (s : State) (f : Fld) (k : Nat) (b : Bool) (i j : Nat) : (s.setBit f k b i j).ks = s.ks := by simp [State.setBit]
@[simp] theorem State.setBit_ln (s : State) (f : Fld) (k : Nat) (b : Bool) (i j : Nat) : (s.setBit f k b i j).ln = s.ln := by simp [State.setBit]
@[simp] theorem State.setBit_yd (s : State) (f : Fld) (k : Nat) (b : Bool) (i j : Nat) : (s.setBit f k b i j).yd = s.yd := by simp [State.setBit]
@[simp] theorem State.setBit_pt (s : State) (f : Fld) (k : Nat) (b : Bool) (i j : Nat) : (s.setBit f k b i j).pt = s.pt := by simp [State.setBit]
@[simp] theorem State.setBit_bm (s : State) (f : Fld) (k : Nat) (b : Bool) (i j : Nat) : (s.setBit f k b i j).bm = s.bm := by simp [State.setBit]
@[simp] theorem State.setBit_bk (s : State) (f : Fld) (k : Nat) (b : Bool) (i j : Nat) : (s.setBit f k b i j).bk = s.bk := by simp [State.setBit]
@[simp] theorem State.setBit_br (s : State) (f : Fld) (k : Nat) (b : Bool) (i j : Nat) : (s.setBit f k b i j).br = s.br := by simp [State.setBit]
@[simp] theorem State.setBit_lk (s : State) (f : Fld) (k : Nat) (b : Bool) (i j : Nat) : (s.setBit f k b i j).lk = s.lk := by simp [State.setBit]
@[simp] theorem State.setBit_qu (s : State) (f : Fld) (k : Nat) (b : Bool) (i j : Nat) : (s.setBit f k b i j).qu = s.qu := by simp [State.setBit]
@[simp] theorem State.setBit_sv (s : State) (f : Fld) (k : Nat) (b : Bool) (i j : Nat) : (s.setBit f k b i j).sv = s.sv := by simp [State.setBit]
@[simp] theorem State.setBit_it (s : State) (f : Fld) (k : Nat) (b : Bool) (i j : Nat) : (s.setBit f k b i j).it = s.it := by simp [State.setBit]
@[simp] theorem State.setBit_out (s : State) (f : Fld) (k : Nat) (b : Bool) (i j : Nat) : (s.setBit f k b i j).out = s.out := by simp [State.setBit]

@[simp] theorem State.setPair_pending (s : State) (lo hi v i j : Nat) : (s.setPair lo hi v i j).pending = s.pending := by simp [State.setPair]
@[simp] theorem State.setPair_now (s : State) (lo hi v i j : Nat) : (s.setPair lo hi v i j).now = s.now := by simp [State.setPair]
@[simp] theorem State.setPair_freeCount (s : State) (lo hi v i j : Nat) : (s.setPair lo hi v i j).freeCount = s.freeCount := by simp [State.setPair]
@[simp] theorem State.setPair_pw (s : State) (lo hi v i j : Nat) : (s.setPair lo hi v i j).pw = s.pw := by simp [State.setPair]
@[simp] theorem State.setPair_dv (s : State) (lo hi v i j : Nat) : (s.setPair lo hi v i j).dv = s.dv := by simp [State.setPair]
@[simp] theorem State.setPair_mem (s : State) (lo hi v i j : Nat) : (s.setPair lo hi v i j).mem = s.mem := by simp [State.setPair]
@[simp] theorem State.setPair_synd (s : State) (lo hi v i j : Nat) : (s.setPair lo hi v i j).synd = s.synd := by simp [State.setPair]
@[simp] theorem State.setPair_unitGen (s : State) (lo hi v i j : Nat) : (s.setPair lo hi v i j).unitGen = s.unitGen := by simp [State.setPair]
@[simp] theorem State.setPair_ftg (s : State) (lo hi v i j : Nat) : (s.setPair lo hi v i j).ftg = s.ftg := by simp [State.setPair]
@[simp] theorem State.setPair_tr (s : State) (lo hi v i j : Nat) : (s.setPair lo hi v i j).tr = s.tr := by simp [State.setPair]
@[simp] theorem State.setPair_kl (s : State) (lo hi v i j : Nat) : (s.setPair lo hi v i j).kl = s.kl := by simp [State.setPair]
@[simp] theorem State.setPair_ks (s : State) (lo hi v i j : Nat) : (s.setPair lo hi v i j).ks = s.ks := by simp [State.setPair]
@[simp] theorem State.setPair_ln (s : State) (lo hi v i j : Nat) : (s.setPair lo hi v i j).ln = s.ln := by simp [State.setPair]
@[simp] theorem State.setPair_yd (s : State) (lo hi v i j : Nat) : (s.setPair lo hi v i j).yd = s.yd := by simp [State.setPair]
@[simp] theorem State.setPair_pt (s : State) (lo hi v i j : Nat) : (s.setPair lo hi v i j).pt = s.pt := by simp [State.setPair]
@[simp] theorem State.setPair_bm (s : State) (lo hi v i j : Nat) : (s.setPair lo hi v i j).bm = s.bm := by simp [State.setPair]
@[simp] theorem State.setPair_bk (s : State) (lo hi v i j : Nat) : (s.setPair lo hi v i j).bk = s.bk := by simp [State.setPair]
@[simp] theorem State.setPair_br (s : State) (lo hi v i j : Nat) : (s.setPair lo hi v i j).br = s.br := by simp [State.setPair]
@[simp] theorem State.setPair_lk (s : State) (lo hi v i j : Nat) : (s.setPair lo hi v i j).lk = s.lk := by simp [State.setPair]
@[simp] theorem State.setPair_qu (s : State) (lo hi v i j : Nat) : (s.setPair lo hi v i j).qu = s.qu := by simp [State.setPair]
@[simp] theorem State.setPair_sv (s : State) (lo hi v i j : Nat) : (s.setPair lo hi v i j).sv = s.sv := by simp [State.setPair]
@[simp] theorem State.setPair_it (s : State) (lo hi v i j : Nat) : (s.setPair lo hi v i j).it = s.it := by simp [State.setPair]
@[simp] theorem State.setPair_out (s : State) (lo hi v i j : Nat) : (s.setPair lo hi v i j).out = s.out := by simp [State.setPair]

@[simp] theorem State.bumpGen_pending (s : State) (b : Blk) (i : Nat) : (s.bumpGen b i).pending = s.pending := by simp [State.bumpGen]
@[simp] theorem State.bumpGen_now (s : State) (b : Blk) (i : Nat) : (s.bumpGen b i).now = s.now := by simp [State.bumpGen]
@[simp] theorem State.bumpGen_freeCount (s : State) (b : Blk) (i : Nat) : (s.bumpGen b i).freeCount = s.freeCount := by simp [State.bumpGen]
@[simp] theorem State.bumpGen_pw (s : State) (b : Blk) (i : Nat) : (s.bumpGen b i).pw = s.pw := by simp [State.bumpGen]
@[simp] theorem State.bumpGen_dv (s : State) (b : Blk) (i : Nat) : (s.bumpGen b i).dv = s.dv := by simp [State.bumpGen]
@[simp] theorem State.bumpGen_regs (s : State) (b : Blk) (i : Nat) : (s.bumpGen b i).regs = s.regs := by simp [State.bumpGen]
@[simp] theorem State.bumpGen_mem (s : State) (b : Blk) (i : Nat) : (s.bumpGen b i).mem = s.mem := by simp [State.bumpGen]
@[simp] theorem State.bumpGen_synd (s : State) (b : Blk) (i : Nat) : (s.bumpGen b i).synd = s.synd := by simp [State.bumpGen]
@[simp] theorem State.bumpGen_ftg (s : State) (b : Blk) (i : Nat) : (s.bumpGen b i).ftg = s.ftg := by simp [State.bumpGen]
@[simp] theorem State.bumpGen_tr (s : State) (b : Blk) (i : Nat) : (s.bumpGen b i).tr = s.tr := by simp [State.bumpGen]
@[simp] theorem State.bumpGen_kl (s : State) (b : Blk) (i : Nat) : (s.bumpGen b i).kl = s.kl := by simp [State.bumpGen]
@[simp] theorem State.bumpGen_ks (s : State) (b : Blk) (i : Nat) : (s.bumpGen b i).ks = s.ks := by simp [State.bumpGen]
@[simp] theorem State.bumpGen_ln (s : State) (b : Blk) (i : Nat) : (s.bumpGen b i).ln = s.ln := by simp [State.bumpGen]
@[simp] theorem State.bumpGen_yd (s : State) (b : Blk) (i : Nat) : (s.bumpGen b i).yd = s.yd := by simp [State.bumpGen]
@[simp] theorem State.bumpGen_pt (s : State) (b : Blk) (i : Nat) : (s.bumpGen b i).pt = s.pt := by simp [State.bumpGen]
@[simp] theorem State.bumpGen_bm (s : State) (b : Blk) (i : Nat) : (s.bumpGen b i).bm = s.bm := by simp [State.bumpGen]
@[simp] theorem State.bumpGen_bk (s : State) (b : Blk) (i : Nat) : (s.bumpGen b i).bk = s.bk := by simp [State.bumpGen]
@[simp] theorem State.bumpGen_br (s : State) (b : Blk) (i : Nat) : (s.bumpGen b i).br = s.br := by simp [State.bumpGen]
@[simp] theorem State.bumpGen_lk (s : State) (b : Blk) (i : Nat) : (s.bumpGen b i).lk = s.lk := by simp [State.bumpGen]
@[simp] theorem State.bumpGen_qu (s : State) (b : Blk) (i : Nat) : (s.bumpGen b i).qu = s.qu := by simp [State.bumpGen]
@[simp] theorem State.bumpGen_sv (s : State) (b : Blk) (i : Nat) : (s.bumpGen b i).sv = s.sv := by simp [State.bumpGen]
@[simp] theorem State.bumpGen_it (s : State) (b : Blk) (i : Nat) : (s.bumpGen b i).it = s.it := by simp [State.bumpGen]
@[simp] theorem State.bumpGen_out (s : State) (b : Blk) (i : Nat) : (s.bumpGen b i).out = s.out := by simp [State.bumpGen]

@[simp] theorem State.setUnit_pending (s : State) (b : Blk) (i st : Nat) : (s.setUnit b i st).pending = s.pending :=
    (State.bumpGen_pending _ _ _).trans (State.setF_pending _ _ _ _ _)
@[simp] theorem State.setUnit_now (s : State) (b : Blk) (i st : Nat) : (s.setUnit b i st).now = s.now :=
    (State.bumpGen_now _ _ _).trans (State.setF_now _ _ _ _ _)
@[simp] theorem State.setUnit_freeCount (s : State) (b : Blk) (i st : Nat) : (s.setUnit b i st).freeCount = s.freeCount :=
    (State.bumpGen_freeCount _ _ _).trans (State.setF_freeCount _ _ _ _ _)
@[simp] theorem State.setUnit_pw (s : State) (b : Blk) (i st : Nat) : (s.setUnit b i st).pw = s.pw :=
    (State.bumpGen_pw _ _ _).trans (State.setF_pw _ _ _ _ _)
@[simp] theorem State.setUnit_dv (s : State) (b : Blk) (i st : Nat) : (s.setUnit b i st).dv = s.dv :=
    (State.bumpGen_dv _ _ _).trans (State.setF_dv _ _ _ _ _)
@[simp] theorem State.setUnit_mem (s : State) (b : Blk) (i st : Nat) : (s.setUnit b i st).mem = s.mem :=
    (State.bumpGen_mem _ _ _).trans (State.setF_mem _ _ _ _ _)
@[simp] theorem State.setUnit_synd (s : State) (b : Blk) (i st : Nat) : (s.setUnit b i st).synd = s.synd :=
    (State.bumpGen_synd _ _ _).trans (State.setF_synd _ _ _ _ _)
@[simp] theorem State.setUnit_ftg (s : State) (b : Blk) (i st : Nat) : (s.setUnit b i st).ftg = s.ftg :=
    (State.bumpGen_ftg _ _ _).trans (State.setF_ftg _ _ _ _ _)
@[simp] theorem State.setUnit_tr (s : State) (b : Blk) (i st : Nat) : (s.setUnit b i st).tr = s.tr :=
    (State.bumpGen_tr _ _ _).trans (State.setF_tr _ _ _ _ _)
@[simp] theorem State.setUnit_kl (s : State) (b : Blk) (i st : Nat) : (s.setUnit b i st).kl = s.kl :=
    (State.bumpGen_kl _ _ _).trans (State.setF_kl _ _ _ _ _)
@[simp] theorem State.setUnit_ks (s : State) (b : Blk) (i st : Nat) : (s.setUnit b i st).ks = s.ks :=
    (State.bumpGen_ks _ _ _).trans (State.setF_ks _ _ _ _ _)
@[simp] theorem State.setUnit_ln (s : State) (b : Blk) (i st : Nat) : (s.setUnit b i st).ln = s.ln :=
    (State.bumpGen_ln _ _ _).trans (State.setF_ln _ _ _ _ _)
@[simp] theorem State.setUnit_yd (s : State) (b : Blk) (i st : Nat) : (s.setUnit b i st).yd = s.yd :=
    (State.bumpGen_yd _ _ _).trans (State.setF_yd _ _ _ _ _)
@[simp] theorem State.setUnit_pt (s : State) (b : Blk) (i st : Nat) : (s.setUnit b i st).pt = s.pt :=
    (State.bumpGen_pt _ _ _).trans (State.setF_pt _ _ _ _ _)
@[simp] theorem State.setUnit_bm (s : State) (b : Blk) (i st : Nat) : (s.setUnit b i st).bm = s.bm :=
    (State.bumpGen_bm _ _ _).trans (State.setF_bm _ _ _ _ _)
@[simp] theorem State.setUnit_bk (s : State) (b : Blk) (i st : Nat) : (s.setUnit b i st).bk = s.bk :=
    (State.bumpGen_bk _ _ _).trans (State.setF_bk _ _ _ _ _)
@[simp] theorem State.setUnit_br (s : State) (b : Blk) (i st : Nat) : (s.setUnit b i st).br = s.br :=
    (State.bumpGen_br _ _ _).trans (State.setF_br _ _ _ _ _)
@[simp] theorem State.setUnit_lk (s : State) (b : Blk) (i st : Nat) : (s.setUnit b i st).lk = s.lk :=
    (State.bumpGen_lk _ _ _).trans (State.setF_lk _ _ _ _ _)
@[simp] theorem State.setUnit_qu (s : State) (b : Blk) (i st : Nat) : (s.setUnit b i st).qu = s.qu :=
    (State.bumpGen_qu _ _ _).trans (State.setF_qu _ _ _ _ _)
@[simp] theorem State.setUnit_sv (s : State) (b : Blk) (i st : Nat) : (s.setUnit b i st).sv = s.sv :=
    (State.bumpGen_sv _ _ _).trans (State.setF_sv _ _ _ _ _)
@[simp] theorem State.setUnit_it (s : State) (b : Blk) (i st : Nat) : (s.setUnit b i st).it = s.it :=
    (State.bumpGen_it _ _ _).trans (State.setF_it _ _ _ _ _)
@[simp] theorem State.setUnit_out (s : State) (b : Blk) (i st : Nat) : (s.setUnit b i st).out = s.out :=
    (State.bumpGen_out _ _ _).trans (State.setF_out _ _ _ _ _)

@[simp] theorem State.setSynd_pending (s : State) (a v : Nat) : (s.setSynd a v).pending = s.pending := by simp [State.setSynd]
@[simp] theorem State.setSynd_now (s : State) (a v : Nat) : (s.setSynd a v).now = s.now := by simp [State.setSynd]
@[simp] theorem State.setSynd_freeCount (s : State) (a v : Nat) : (s.setSynd a v).freeCount = s.freeCount := by simp [State.setSynd]
@[simp] theorem State.setSynd_pw (s : State) (a v : Nat) : (s.setSynd a v).pw = s.pw := by simp [State.setSynd]
@[simp] theorem State.setSynd_dv (s : State) (a v : Nat) : (s.setSynd a v).dv = s.dv := by simp [State.setSynd]
@[simp] theorem State.setSynd_regs (s : State) (a v : Nat) : (s.setSynd a v).regs = s.regs := by simp [State.setSynd]
@[simp] theorem State.setSynd_mem (s : State) (a v : Nat) : (s.setSynd a v).mem = s.mem := by simp [State.setSynd]
@[simp] theorem State.setSynd_unitGen (s : State) (a v : Nat) : (s.setSynd a v).unitGen = s.unitGen := by simp [State.setSynd]
@[simp] theorem State.setSynd_ftg (s : State) (a v : Nat) : (s.setSynd a v).ftg = s.ftg := by simp [State.setSynd]
@[simp] theorem State.setSynd_tr (s : State) (a v : Nat) : (s.setSynd a v).tr = s.tr := by simp [State.setSynd]
@[simp] theorem State.setSynd_kl (s : State) (a v : Nat) : (s.setSynd a v).kl = s.kl := by simp [State.setSynd]
@[simp] theorem State.setSynd_ks (s : State) (a v : Nat) : (s.setSynd a v).ks = s.ks := by simp [State.setSynd]
@[simp] theorem State.setSynd_ln (s : State) (a v : Nat) : (s.setSynd a v).ln = s.ln := by simp [State.setSynd]
@[simp] theorem State.setSynd_yd (s : State) (a v : Nat) : (s.setSynd a v).yd = s.yd := by simp [State.setSynd]
@[simp] theorem State.setSynd_pt (s : State) (a v : Nat) : (s.setSynd a v).pt = s.pt := by simp [State.setSynd]
@[simp] theorem State.setSynd_bm (s : State) (a v : Nat) : (s.setSynd a v).bm = s.bm := by simp [State.setSynd]
@[simp] theorem State.setSynd_bk (s : State) (a v : Nat) : (s.setSynd a v).bk = s.bk := by simp [State.setSynd]
@[simp] theorem State.setSynd_br (s : State) (a v : Nat) : (s.setSynd a v).br = s.br := by simp [State.setSynd]
@[simp] theorem State.setSynd_lk (s : State) (a v : Nat) : (s.setSynd a v).lk = s.lk := by simp [State.setSynd]
@[simp] theorem State.setSynd_qu (s : State) (a v : Nat) : (s.setSynd a v).qu = s.qu := by simp [State.setSynd]
@[simp] theorem State.setSynd_sv (s : State) (a v : Nat) : (s.setSynd a v).sv = s.sv := by simp [State.setSynd]
@[simp] theorem State.setSynd_it (s : State) (a v : Nat) : (s.setSynd a v).it = s.it := by simp [State.setSynd]
@[simp] theorem State.setSynd_out (s : State) (a v : Nat) : (s.setSynd a v).out = s.out := by simp [State.setSynd]

@[simp] theorem State.poisonWord_pending (s : State) (a : Nat) : (s.poisonWord a).pending = s.pending := by simp [State.poisonWord]
@[simp] theorem State.poisonWord_now (s : State) (a : Nat) : (s.poisonWord a).now = s.now := by simp [State.poisonWord]
@[simp] theorem State.poisonWord_freeCount (s : State) (a : Nat) : (s.poisonWord a).freeCount = s.freeCount := by simp [State.poisonWord]
@[simp] theorem State.poisonWord_pw (s : State) (a : Nat) : (s.poisonWord a).pw = s.pw := by simp [State.poisonWord]
@[simp] theorem State.poisonWord_dv (s : State) (a : Nat) : (s.poisonWord a).dv = s.dv := by simp [State.poisonWord]
@[simp] theorem State.poisonWord_regs (s : State) (a : Nat) : (s.poisonWord a).regs = s.regs := by simp [State.poisonWord]
@[simp] theorem State.poisonWord_mem (s : State) (a : Nat) : (s.poisonWord a).mem = s.mem := by simp [State.poisonWord]
@[simp] theorem State.poisonWord_unitGen (s : State) (a : Nat) : (s.poisonWord a).unitGen = s.unitGen := by simp [State.poisonWord]
@[simp] theorem State.poisonWord_ftg (s : State) (a : Nat) : (s.poisonWord a).ftg = s.ftg := by simp [State.poisonWord]
@[simp] theorem State.poisonWord_tr (s : State) (a : Nat) : (s.poisonWord a).tr = s.tr := by simp [State.poisonWord]
@[simp] theorem State.poisonWord_kl (s : State) (a : Nat) : (s.poisonWord a).kl = s.kl := by simp [State.poisonWord]
@[simp] theorem State.poisonWord_ks (s : State) (a : Nat) : (s.poisonWord a).ks = s.ks := by simp [State.poisonWord]
@[simp] theorem State.poisonWord_ln (s : State) (a : Nat) : (s.poisonWord a).ln = s.ln := by simp [State.poisonWord]
@[simp] theorem State.poisonWord_yd (s : State) (a : Nat) : (s.poisonWord a).yd = s.yd := by simp [State.poisonWord]
@[simp] theorem State.poisonWord_pt (s : State) (a : Nat) : (s.poisonWord a).pt = s.pt := by simp [State.poisonWord]
@[simp] theorem State.poisonWord_bm (s : State) (a : Nat) : (s.poisonWord a).bm = s.bm := by simp [State.poisonWord]
@[simp] theorem State.poisonWord_bk (s : State) (a : Nat) : (s.poisonWord a).bk = s.bk := by simp [State.poisonWord]
@[simp] theorem State.poisonWord_br (s : State) (a : Nat) : (s.poisonWord a).br = s.br := by simp [State.poisonWord]
@[simp] theorem State.poisonWord_lk (s : State) (a : Nat) : (s.poisonWord a).lk = s.lk := by simp [State.poisonWord]
@[simp] theorem State.poisonWord_qu (s : State) (a : Nat) : (s.poisonWord a).qu = s.qu := by simp [State.poisonWord]
@[simp] theorem State.poisonWord_sv (s : State) (a : Nat) : (s.poisonWord a).sv = s.sv := by simp [State.poisonWord]
@[simp] theorem State.poisonWord_it (s : State) (a : Nat) : (s.poisonWord a).it = s.it := by simp [State.poisonWord]
@[simp] theorem State.poisonWord_out (s : State) (a : Nat) : (s.poisonWord a).out = s.out := by simp [State.poisonWord]

@[simp] theorem State.fillZero_pending (s : State) (a n : Nat) : (s.fillZero a n).pending = s.pending := by simp [State.fillZero]
@[simp] theorem State.fillZero_now (s : State) (a n : Nat) : (s.fillZero a n).now = s.now := by simp [State.fillZero]
@[simp] theorem State.fillZero_freeCount (s : State) (a n : Nat) : (s.fillZero a n).freeCount = s.freeCount := by simp [State.fillZero]
@[simp] theorem State.fillZero_pw (s : State) (a n : Nat) : (s.fillZero a n).pw = s.pw := by simp [State.fillZero]
@[simp] theorem State.fillZero_dv (s : State) (a n : Nat) : (s.fillZero a n).dv = s.dv := by simp [State.fillZero]
@[simp] theorem State.fillZero_regs (s : State) (a n : Nat) : (s.fillZero a n).regs = s.regs := by simp [State.fillZero]
@[simp] theorem State.fillZero_unitGen (s : State) (a n : Nat) : (s.fillZero a n).unitGen = s.unitGen := by simp [State.fillZero]
@[simp] theorem State.fillZero_ftg (s : State) (a n : Nat) : (s.fillZero a n).ftg = s.ftg := by simp [State.fillZero]
@[simp] theorem State.fillZero_tr (s : State) (a n : Nat) : (s.fillZero a n).tr = s.tr := by simp [State.fillZero]
@[simp] theorem State.fillZero_kl (s : State) (a n : Nat) : (s.fillZero a n).kl = s.kl := by simp [State.fillZero]
@[simp] theorem State.fillZero_ks (s : State) (a n : Nat) : (s.fillZero a n).ks = s.ks := by simp [State.fillZero]
@[simp] theorem State.fillZero_ln (s : State) (a n : Nat) : (s.fillZero a n).ln = s.ln := by simp [State.fillZero]
@[simp] theorem State.fillZero_yd (s : State) (a n : Nat) : (s.fillZero a n).yd = s.yd := by simp [State.fillZero]
@[simp] theorem State.fillZero_pt (s : State) (a n : Nat) : (s.fillZero a n).pt = s.pt := by simp [State.fillZero]
@[simp] theorem State.fillZero_bm (s : State) (a n : Nat) : (s.fillZero a n).bm = s.bm := by simp [State.fillZero]
@[simp] theorem State.fillZero_bk (s : State) (a n : Nat) : (s.fillZero a n).bk = s.bk := by simp [State.fillZero]
@[simp] theorem State.fillZero_br (s : State) (a n : Nat) : (s.fillZero a n).br = s.br := by simp [State.fillZero]
@[simp] theorem State.fillZero_lk (s : State) (a n : Nat) : (s.fillZero a n).lk = s.lk := by simp [State.fillZero]
@[simp] theorem State.fillZero_qu (s : State) (a n : Nat) : (s.fillZero a n).qu = s.qu := by simp [State.fillZero]
@[simp] theorem State.fillZero_sv (s : State) (a n : Nat) : (s.fillZero a n).sv = s.sv := by simp [State.fillZero]
@[simp] theorem State.fillZero_it (s : State) (a n : Nat) : (s.fillZero a n).it = s.it := by simp [State.fillZero]
@[simp] theorem State.fillZero_out (s : State) (a n : Nat) : (s.fillZero a n).out = s.out := by simp [State.fillZero]

@[simp] theorem State.emit_pending (s : State) (o : Out) : (s.emit o).pending = s.pending := by simp [State.emit]
@[simp] theorem State.emit_now (s : State) (o : Out) : (s.emit o).now = s.now := by simp [State.emit]
@[simp] theorem State.emit_freeCount (s : State) (o : Out) : (s.emit o).freeCount = s.freeCount := by simp [State.emit]
@[simp] theorem State.emit_pw (s : State) (o : Out) : (s.emit o).pw = s.pw := by simp [State.emit]
@[simp] theorem State.emit_dv (s : State) (o : Out) : (s.emit o).dv = s.dv := by simp [State.emit]
@[simp] theorem State.emit_regs (s : State) (o : Out) : (s.emit o).regs = s.regs := by simp [State.emit]
@[simp] theorem State.emit_mem (s : State) (o : Out) : (s.emit o).mem = s.mem := by simp [State.emit]
@[simp] theorem State.emit_synd (s : State) (o : Out) : (s.emit o).synd = s.synd := by simp [State.emit]
@[simp] theorem State.emit_unitGen (s : State) (o : Out) : (s.emit o).unitGen = s.unitGen := by simp [State.emit]
@[simp] theorem State.emit_ftg (s : State) (o : Out) : (s.emit o).ftg = s.ftg := by simp [State.emit]
@[simp] theorem State.emit_tr (s : State) (o : Out) : (s.emit o).tr = s.tr := by simp [State.emit]
@[simp] theorem State.emit_kl (s : State) (o : Out) : (s.emit o).kl = s.kl := by simp [State.emit]
@[simp] theorem State.emit_ks (s : State) (o : Out) : (s.emit o).ks = s.ks := by simp [State.emit]
@[simp] theorem State.emit_ln (s : State) (o : Out) : (s.emit o).ln = s.ln := by simp [State.emit]
@[simp] theorem State.emit_yd (s : State) (o : Out) : (s.emit o).yd = s.yd := by simp [State.emit]
@[simp] theorem State.emit_pt (s : State) (o : Out) : (s.emit o).pt = s.pt := by simp [State.emit]
@[simp] theorem State.emit_bm (s : State) (o : Out) : (s.emit o).bm = s.bm := by simp [State.emit]
@[simp] theorem State.emit_bk (s : State) (o : Out) : (s.emit o).bk = s.bk := by simp [State.emit]
@[simp] theorem State.emit_br (s : State) (o : Out) : (s.emit o).br = s.br := by simp [State.emit]
@[simp] theorem State.emit_lk (s : State) (o : Out) : (s.emit o).lk = s.lk := by simp [State.emit]
@[simp] theorem State.emit_qu (s : State) (o : Out) : (s.emit o).qu = s.qu := by simp [State.emit]
@[simp] theorem State.emit_sv (s : State) (o : Out) : (s.emit o).sv = s.sv := by simp [State.emit]
@[simp] theorem State.emit_it (s : State) (o : Out) : (s.emit o).it = s.it := by simp [State.emit]

@[simp] theorem State.at_pending (s : State) (t : Nat) : (s.at t).pending = s.pending := by simp [State.at]
@[simp] theorem State.at_freeCount (s : State) (t : Nat) : (s.at t).freeCount = s.freeCount := by simp [State.at]
@[simp] theorem State.at_pw (s : State) (t : Nat) : (s.at t).pw = s.pw := by simp [State.at]
@[simp] theorem State.at_dv (s : State) (t : Nat) : (s.at t).dv = s.dv := by simp [State.at]
@[simp] theorem State.at_regs (s : State) (t : Nat) : (s.at t).regs = s.regs := by simp [State.at]
@[simp] theorem State.at_mem (s : State) (t : Nat) : (s.at t).mem = s.mem := by simp [State.at]
@[simp] theorem State.at_synd (s : State) (t : Nat) : (s.at t).synd = s.synd := by simp [State.at]
@[simp] theorem State.at_unitGen (s : State) (t : Nat) : (s.at t).unitGen = s.unitGen := by simp [State.at]
@[simp] theorem State.at_ftg (s : State) (t : Nat) : (s.at t).ftg = s.ftg := by simp [State.at]
@[simp] theorem State.at_tr (s : State) (t : Nat) : (s.at t).tr = s.tr := by simp [State.at]
@[simp] theorem State.at_kl (s : State) (t : Nat) : (s.at t).kl = s.kl := by simp [State.at]
@[simp] theorem State.at_ks (s : State) (t : Nat) : (s.at t).ks = s.ks := by simp [State.at]
@[simp] theorem State.at_ln (s : State) (t : Nat) : (s.at t).ln = s.ln := by simp [State.at]
@[simp] theorem State.at_yd (s : State) (t : Nat) : (s.at t).yd = s.yd := by simp [State.at]
@[simp] theorem State.at_pt (s : State) (t : Nat) : (s.at t).pt = s.pt := by simp [State.at]
@[simp] theorem State.at_bm (s : State) (t : Nat) : (s.at t).bm = s.bm := by simp [State.at]
@[simp] theorem State.at_bk (s : State) (t : Nat) : (s.at t).bk = s.bk := by simp [State.at]
@[simp] theorem State.at_br (s : State) (t : Nat) : (s.at t).br = s.br := by simp [State.at]
@[simp] theorem State.at_lk (s : State) (t : Nat) : (s.at t).lk = s.lk := by simp [State.at]
@[simp] theorem State.at_qu (s : State) (t : Nat) : (s.at t).qu = s.qu := by simp [State.at]
@[simp] theorem State.at_sv (s : State) (t : Nat) : (s.at t).sv = s.sv := by simp [State.at]
@[simp] theorem State.at_it (s : State) (t : Nat) : (s.at t).it = s.it := by simp [State.at]
@[simp] theorem State.at_out (s : State) (t : Nat) : (s.at t).out = s.out := by simp [State.at]

@[simp] theorem State.setBrick_pending (s : State) (n : Nat) (b : Brick) : (s.setBrick n b).pending = s.pending := by simp [State.setBrick]
@[simp] theorem State.setBrick_now (s : State) (n : Nat) (b : Brick) : (s.setBrick n b).now = s.now := by simp [State.setBrick]
@[simp] theorem State.setBrick_freeCount (s : State) (n : Nat) (b : Brick) : (s.setBrick n b).freeCount = s.freeCount := by simp [State.setBrick]
@[simp] theorem State.setBrick_pw (s : State) (n : Nat) (b : Brick) : (s.setBrick n b).pw = s.pw := by simp [State.setBrick]
@[simp] theorem State.setBrick_dv (s : State) (n : Nat) (b : Brick) : (s.setBrick n b).dv = s.dv := by simp [State.setBrick]
@[simp] theorem State.setBrick_regs (s : State) (n : Nat) (b : Brick) : (s.setBrick n b).regs = s.regs := by simp [State.setBrick]
@[simp] theorem State.setBrick_mem (s : State) (n : Nat) (b : Brick) : (s.setBrick n b).mem = s.mem := by simp [State.setBrick]
@[simp] theorem State.setBrick_synd (s : State) (n : Nat) (b : Brick) : (s.setBrick n b).synd = s.synd := by simp [State.setBrick]
@[simp] theorem State.setBrick_unitGen (s : State) (n : Nat) (b : Brick) : (s.setBrick n b).unitGen = s.unitGen := by simp [State.setBrick]
@[simp] theorem State.setBrick_ftg (s : State) (n : Nat) (b : Brick) : (s.setBrick n b).ftg = s.ftg := by simp [State.setBrick]
@[simp] theorem State.setBrick_tr (s : State) (n : Nat) (b : Brick) : (s.setBrick n b).tr = s.tr := by simp [State.setBrick]
@[simp] theorem State.setBrick_kl (s : State) (n : Nat) (b : Brick) : (s.setBrick n b).kl = s.kl := by simp [State.setBrick]
@[simp] theorem State.setBrick_ks (s : State) (n : Nat) (b : Brick) : (s.setBrick n b).ks = s.ks := by simp [State.setBrick]
@[simp] theorem State.setBrick_ln (s : State) (n : Nat) (b : Brick) : (s.setBrick n b).ln = s.ln := by simp [State.setBrick]
@[simp] theorem State.setBrick_yd (s : State) (n : Nat) (b : Brick) : (s.setBrick n b).yd = s.yd := by simp [State.setBrick]
@[simp] theorem State.setBrick_pt (s : State) (n : Nat) (b : Brick) : (s.setBrick n b).pt = s.pt := by simp [State.setBrick]
@[simp] theorem State.setBrick_bm (s : State) (n : Nat) (b : Brick) : (s.setBrick n b).bm = s.bm := by simp [State.setBrick]
@[simp] theorem State.setBrick_bk (s : State) (n : Nat) (b : Brick) : (s.setBrick n b).bk = s.bk := by simp [State.setBrick]
@[simp] theorem State.setBrick_lk (s : State) (n : Nat) (b : Brick) : (s.setBrick n b).lk = s.lk := by simp [State.setBrick]
@[simp] theorem State.setBrick_qu (s : State) (n : Nat) (b : Brick) : (s.setBrick n b).qu = s.qu := by simp [State.setBrick]
@[simp] theorem State.setBrick_sv (s : State) (n : Nat) (b : Brick) : (s.setBrick n b).sv = s.sv := by simp [State.setBrick]
@[simp] theorem State.setBrick_it (s : State) (n : Nat) (b : Brick) : (s.setBrick n b).it = s.it := by simp [State.setBrick]
@[simp] theorem State.setBrick_out (s : State) (n : Nat) (b : Brick) : (s.setBrick n b).out = s.out := by simp [State.setBrick]

@[simp] theorem State.setImage_pending (s : State) (i : Nat) (e : Image) : (s.setImage i e).pending = s.pending := by simp [State.setImage]
@[simp] theorem State.setImage_now (s : State) (i : Nat) (e : Image) : (s.setImage i e).now = s.now := by simp [State.setImage]
@[simp] theorem State.setImage_freeCount (s : State) (i : Nat) (e : Image) : (s.setImage i e).freeCount = s.freeCount := by simp [State.setImage]
@[simp] theorem State.setImage_pw (s : State) (i : Nat) (e : Image) : (s.setImage i e).pw = s.pw := by simp [State.setImage]
@[simp] theorem State.setImage_dv (s : State) (i : Nat) (e : Image) : (s.setImage i e).dv = s.dv := by simp [State.setImage]
@[simp] theorem State.setImage_regs (s : State) (i : Nat) (e : Image) : (s.setImage i e).regs = s.regs := by simp [State.setImage]
@[simp] theorem State.setImage_mem (s : State) (i : Nat) (e : Image) : (s.setImage i e).mem = s.mem := by simp [State.setImage]
@[simp] theorem State.setImage_synd (s : State) (i : Nat) (e : Image) : (s.setImage i e).synd = s.synd := by simp [State.setImage]
@[simp] theorem State.setImage_unitGen (s : State) (i : Nat) (e : Image) : (s.setImage i e).unitGen = s.unitGen := by simp [State.setImage]
@[simp] theorem State.setImage_tr (s : State) (i : Nat) (e : Image) : (s.setImage i e).tr = s.tr := by simp [State.setImage]
@[simp] theorem State.setImage_kl (s : State) (i : Nat) (e : Image) : (s.setImage i e).kl = s.kl := by simp [State.setImage]
@[simp] theorem State.setImage_ks (s : State) (i : Nat) (e : Image) : (s.setImage i e).ks = s.ks := by simp [State.setImage]
@[simp] theorem State.setImage_ln (s : State) (i : Nat) (e : Image) : (s.setImage i e).ln = s.ln := by simp [State.setImage]
@[simp] theorem State.setImage_yd (s : State) (i : Nat) (e : Image) : (s.setImage i e).yd = s.yd := by simp [State.setImage]
@[simp] theorem State.setImage_pt (s : State) (i : Nat) (e : Image) : (s.setImage i e).pt = s.pt := by simp [State.setImage]
@[simp] theorem State.setImage_bm (s : State) (i : Nat) (e : Image) : (s.setImage i e).bm = s.bm := by simp [State.setImage]
@[simp] theorem State.setImage_bk (s : State) (i : Nat) (e : Image) : (s.setImage i e).bk = s.bk := by simp [State.setImage]
@[simp] theorem State.setImage_br (s : State) (i : Nat) (e : Image) : (s.setImage i e).br = s.br := by simp [State.setImage]
@[simp] theorem State.setImage_lk (s : State) (i : Nat) (e : Image) : (s.setImage i e).lk = s.lk := by simp [State.setImage]
@[simp] theorem State.setImage_qu (s : State) (i : Nat) (e : Image) : (s.setImage i e).qu = s.qu := by simp [State.setImage]
@[simp] theorem State.setImage_sv (s : State) (i : Nat) (e : Image) : (s.setImage i e).sv = s.sv := by simp [State.setImage]
@[simp] theorem State.setImage_it (s : State) (i : Nat) (e : Image) : (s.setImage i e).it = s.it := by simp [State.setImage]
@[simp] theorem State.setImage_out (s : State) (i : Nat) (e : Image) : (s.setImage i e).out = s.out := by simp [State.setImage]

@[simp] theorem State.setQlink_pending (s : State) (l : Nat) (x : QLink) : (s.setQlink l x).pending = s.pending := by simp [State.setQlink]
@[simp] theorem State.setQlink_now (s : State) (l : Nat) (x : QLink) : (s.setQlink l x).now = s.now := by simp [State.setQlink]
@[simp] theorem State.setQlink_freeCount (s : State) (l : Nat) (x : QLink) : (s.setQlink l x).freeCount = s.freeCount := by simp [State.setQlink]
@[simp] theorem State.setQlink_pw (s : State) (l : Nat) (x : QLink) : (s.setQlink l x).pw = s.pw := by simp [State.setQlink]
@[simp] theorem State.setQlink_dv (s : State) (l : Nat) (x : QLink) : (s.setQlink l x).dv = s.dv := by simp [State.setQlink]
@[simp] theorem State.setQlink_regs (s : State) (l : Nat) (x : QLink) : (s.setQlink l x).regs = s.regs := by simp [State.setQlink]
@[simp] theorem State.setQlink_mem (s : State) (l : Nat) (x : QLink) : (s.setQlink l x).mem = s.mem := by simp [State.setQlink]
@[simp] theorem State.setQlink_synd (s : State) (l : Nat) (x : QLink) : (s.setQlink l x).synd = s.synd := by simp [State.setQlink]
@[simp] theorem State.setQlink_unitGen (s : State) (l : Nat) (x : QLink) : (s.setQlink l x).unitGen = s.unitGen := by simp [State.setQlink]
@[simp] theorem State.setQlink_ftg (s : State) (l : Nat) (x : QLink) : (s.setQlink l x).ftg = s.ftg := by simp [State.setQlink]
@[simp] theorem State.setQlink_tr (s : State) (l : Nat) (x : QLink) : (s.setQlink l x).tr = s.tr := by simp [State.setQlink]
@[simp] theorem State.setQlink_kl (s : State) (l : Nat) (x : QLink) : (s.setQlink l x).kl = s.kl := by simp [State.setQlink]
@[simp] theorem State.setQlink_ks (s : State) (l : Nat) (x : QLink) : (s.setQlink l x).ks = s.ks := by simp [State.setQlink]
@[simp] theorem State.setQlink_ln (s : State) (l : Nat) (x : QLink) : (s.setQlink l x).ln = s.ln := by simp [State.setQlink]
@[simp] theorem State.setQlink_yd (s : State) (l : Nat) (x : QLink) : (s.setQlink l x).yd = s.yd := by simp [State.setQlink]
@[simp] theorem State.setQlink_pt (s : State) (l : Nat) (x : QLink) : (s.setQlink l x).pt = s.pt := by simp [State.setQlink]
@[simp] theorem State.setQlink_bm (s : State) (l : Nat) (x : QLink) : (s.setQlink l x).bm = s.bm := by simp [State.setQlink]
@[simp] theorem State.setQlink_bk (s : State) (l : Nat) (x : QLink) : (s.setQlink l x).bk = s.bk := by simp [State.setQlink]
@[simp] theorem State.setQlink_br (s : State) (l : Nat) (x : QLink) : (s.setQlink l x).br = s.br := by simp [State.setQlink]
@[simp] theorem State.setQlink_qu (s : State) (l : Nat) (x : QLink) : (s.setQlink l x).qu = s.qu := by simp [State.setQlink]
@[simp] theorem State.setQlink_sv (s : State) (l : Nat) (x : QLink) : (s.setQlink l x).sv = s.sv := by simp [State.setQlink]
@[simp] theorem State.setQlink_it (s : State) (l : Nat) (x : QLink) : (s.setQlink l x).it = s.it := by simp [State.setQlink]
@[simp] theorem State.setQlink_out (s : State) (l : Nat) (x : QLink) : (s.setQlink l x).out = s.out := by simp [State.setQlink]

@[simp] theorem State.setBankWork_pending (s : State) (k : Nat) (w : List BWork) : (s.setBankWork k w).pending = s.pending := by simp [State.setBankWork]
@[simp] theorem State.setBankWork_now (s : State) (k : Nat) (w : List BWork) : (s.setBankWork k w).now = s.now := by simp [State.setBankWork]
@[simp] theorem State.setBankWork_freeCount (s : State) (k : Nat) (w : List BWork) : (s.setBankWork k w).freeCount = s.freeCount := by simp [State.setBankWork]
@[simp] theorem State.setBankWork_pw (s : State) (k : Nat) (w : List BWork) : (s.setBankWork k w).pw = s.pw := by simp [State.setBankWork]
@[simp] theorem State.setBankWork_dv (s : State) (k : Nat) (w : List BWork) : (s.setBankWork k w).dv = s.dv := by simp [State.setBankWork]
@[simp] theorem State.setBankWork_regs (s : State) (k : Nat) (w : List BWork) : (s.setBankWork k w).regs = s.regs := by simp [State.setBankWork]
@[simp] theorem State.setBankWork_mem (s : State) (k : Nat) (w : List BWork) : (s.setBankWork k w).mem = s.mem := by simp [State.setBankWork]
@[simp] theorem State.setBankWork_synd (s : State) (k : Nat) (w : List BWork) : (s.setBankWork k w).synd = s.synd := by simp [State.setBankWork]
@[simp] theorem State.setBankWork_unitGen (s : State) (k : Nat) (w : List BWork) : (s.setBankWork k w).unitGen = s.unitGen := by simp [State.setBankWork]
@[simp] theorem State.setBankWork_ftg (s : State) (k : Nat) (w : List BWork) : (s.setBankWork k w).ftg = s.ftg := by simp [State.setBankWork]
@[simp] theorem State.setBankWork_tr (s : State) (k : Nat) (w : List BWork) : (s.setBankWork k w).tr = s.tr := by simp [State.setBankWork]
@[simp] theorem State.setBankWork_kl (s : State) (k : Nat) (w : List BWork) : (s.setBankWork k w).kl = s.kl := by simp [State.setBankWork]
@[simp] theorem State.setBankWork_ks (s : State) (k : Nat) (w : List BWork) : (s.setBankWork k w).ks = s.ks := by simp [State.setBankWork]
@[simp] theorem State.setBankWork_ln (s : State) (k : Nat) (w : List BWork) : (s.setBankWork k w).ln = s.ln := by simp [State.setBankWork]
@[simp] theorem State.setBankWork_yd (s : State) (k : Nat) (w : List BWork) : (s.setBankWork k w).yd = s.yd := by simp [State.setBankWork]
@[simp] theorem State.setBankWork_pt (s : State) (k : Nat) (w : List BWork) : (s.setBankWork k w).pt = s.pt := by simp [State.setBankWork]
@[simp] theorem State.setBankWork_bm (s : State) (k : Nat) (w : List BWork) : (s.setBankWork k w).bm = s.bm := by simp [State.setBankWork]
@[simp] theorem State.setBankWork_br (s : State) (k : Nat) (w : List BWork) : (s.setBankWork k w).br = s.br := by simp [State.setBankWork]
@[simp] theorem State.setBankWork_lk (s : State) (k : Nat) (w : List BWork) : (s.setBankWork k w).lk = s.lk := by simp [State.setBankWork]
@[simp] theorem State.setBankWork_qu (s : State) (k : Nat) (w : List BWork) : (s.setBankWork k w).qu = s.qu := by simp [State.setBankWork]
@[simp] theorem State.setBankWork_sv (s : State) (k : Nat) (w : List BWork) : (s.setBankWork k w).sv = s.sv := by simp [State.setBankWork]
@[simp] theorem State.setBankWork_it (s : State) (k : Nat) (w : List BWork) : (s.setBankWork k w).it = s.it := by simp [State.setBankWork]
@[simp] theorem State.setBankWork_out (s : State) (k : Nat) (w : List BWork) : (s.setBankWork k w).out = s.out := by simp [State.setBankWork]

@[simp] theorem State.setRun_pending (s : State) (k : Nat) (r : Option Run) : (s.setRun k r).pending = s.pending := by simp [State.setRun]
@[simp] theorem State.setRun_now (s : State) (k : Nat) (r : Option Run) : (s.setRun k r).now = s.now := by simp [State.setRun]
@[simp] theorem State.setRun_freeCount (s : State) (k : Nat) (r : Option Run) : (s.setRun k r).freeCount = s.freeCount := by simp [State.setRun]
@[simp] theorem State.setRun_pw (s : State) (k : Nat) (r : Option Run) : (s.setRun k r).pw = s.pw := by simp [State.setRun]
@[simp] theorem State.setRun_dv (s : State) (k : Nat) (r : Option Run) : (s.setRun k r).dv = s.dv := by simp [State.setRun]
@[simp] theorem State.setRun_regs (s : State) (k : Nat) (r : Option Run) : (s.setRun k r).regs = s.regs := by simp [State.setRun]
@[simp] theorem State.setRun_mem (s : State) (k : Nat) (r : Option Run) : (s.setRun k r).mem = s.mem := by simp [State.setRun]
@[simp] theorem State.setRun_synd (s : State) (k : Nat) (r : Option Run) : (s.setRun k r).synd = s.synd := by simp [State.setRun]
@[simp] theorem State.setRun_unitGen (s : State) (k : Nat) (r : Option Run) : (s.setRun k r).unitGen = s.unitGen := by simp [State.setRun]
@[simp] theorem State.setRun_ftg (s : State) (k : Nat) (r : Option Run) : (s.setRun k r).ftg = s.ftg := by simp [State.setRun]
@[simp] theorem State.setRun_tr (s : State) (k : Nat) (r : Option Run) : (s.setRun k r).tr = s.tr := by simp [State.setRun]
@[simp] theorem State.setRun_kl (s : State) (k : Nat) (r : Option Run) : (s.setRun k r).kl = s.kl := by simp [State.setRun]
@[simp] theorem State.setRun_ks (s : State) (k : Nat) (r : Option Run) : (s.setRun k r).ks = s.ks := by simp [State.setRun]
@[simp] theorem State.setRun_ln (s : State) (k : Nat) (r : Option Run) : (s.setRun k r).ln = s.ln := by simp [State.setRun]
@[simp] theorem State.setRun_yd (s : State) (k : Nat) (r : Option Run) : (s.setRun k r).yd = s.yd := by simp [State.setRun]
@[simp] theorem State.setRun_pt (s : State) (k : Nat) (r : Option Run) : (s.setRun k r).pt = s.pt := by simp [State.setRun]
@[simp] theorem State.setRun_bm (s : State) (k : Nat) (r : Option Run) : (s.setRun k r).bm = s.bm := by simp [State.setRun]
@[simp] theorem State.setRun_br (s : State) (k : Nat) (r : Option Run) : (s.setRun k r).br = s.br := by simp [State.setRun]
@[simp] theorem State.setRun_lk (s : State) (k : Nat) (r : Option Run) : (s.setRun k r).lk = s.lk := by simp [State.setRun]
@[simp] theorem State.setRun_qu (s : State) (k : Nat) (r : Option Run) : (s.setRun k r).qu = s.qu := by simp [State.setRun]
@[simp] theorem State.setRun_sv (s : State) (k : Nat) (r : Option Run) : (s.setRun k r).sv = s.sv := by simp [State.setRun]
@[simp] theorem State.setRun_it (s : State) (k : Nat) (r : Option Run) : (s.setRun k r).it = s.it := by simp [State.setRun]
@[simp] theorem State.setRun_out (s : State) (k : Nat) (r : Option Run) : (s.setRun k r).out = s.out := by simp [State.setRun]

@[simp] theorem State.setCycle_pending (s : State) (p : Nat) (c : Cycle) : (s.setCycle p c).pending = s.pending := by simp [State.setCycle]
@[simp] theorem State.setCycle_now (s : State) (p : Nat) (c : Cycle) : (s.setCycle p c).now = s.now := by simp [State.setCycle]
@[simp] theorem State.setCycle_freeCount (s : State) (p : Nat) (c : Cycle) : (s.setCycle p c).freeCount = s.freeCount := by simp [State.setCycle]
@[simp] theorem State.setCycle_pw (s : State) (p : Nat) (c : Cycle) : (s.setCycle p c).pw = s.pw := by simp [State.setCycle]
@[simp] theorem State.setCycle_dv (s : State) (p : Nat) (c : Cycle) : (s.setCycle p c).dv = s.dv := by simp [State.setCycle]
@[simp] theorem State.setCycle_regs (s : State) (p : Nat) (c : Cycle) : (s.setCycle p c).regs = s.regs := by simp [State.setCycle]
@[simp] theorem State.setCycle_mem (s : State) (p : Nat) (c : Cycle) : (s.setCycle p c).mem = s.mem := by simp [State.setCycle]
@[simp] theorem State.setCycle_synd (s : State) (p : Nat) (c : Cycle) : (s.setCycle p c).synd = s.synd := by simp [State.setCycle]
@[simp] theorem State.setCycle_unitGen (s : State) (p : Nat) (c : Cycle) : (s.setCycle p c).unitGen = s.unitGen := by simp [State.setCycle]
@[simp] theorem State.setCycle_ftg (s : State) (p : Nat) (c : Cycle) : (s.setCycle p c).ftg = s.ftg := by simp [State.setCycle]
@[simp] theorem State.setCycle_tr (s : State) (p : Nat) (c : Cycle) : (s.setCycle p c).tr = s.tr := by simp [State.setCycle]
@[simp] theorem State.setCycle_kl (s : State) (p : Nat) (c : Cycle) : (s.setCycle p c).kl = s.kl := by simp [State.setCycle]
@[simp] theorem State.setCycle_ks (s : State) (p : Nat) (c : Cycle) : (s.setCycle p c).ks = s.ks := by simp [State.setCycle]
@[simp] theorem State.setCycle_ln (s : State) (p : Nat) (c : Cycle) : (s.setCycle p c).ln = s.ln := by simp [State.setCycle]
@[simp] theorem State.setCycle_yd (s : State) (p : Nat) (c : Cycle) : (s.setCycle p c).yd = s.yd := by simp [State.setCycle]
@[simp] theorem State.setCycle_bm (s : State) (p : Nat) (c : Cycle) : (s.setCycle p c).bm = s.bm := by simp [State.setCycle]
@[simp] theorem State.setCycle_bk (s : State) (p : Nat) (c : Cycle) : (s.setCycle p c).bk = s.bk := by simp [State.setCycle]
@[simp] theorem State.setCycle_br (s : State) (p : Nat) (c : Cycle) : (s.setCycle p c).br = s.br := by simp [State.setCycle]
@[simp] theorem State.setCycle_lk (s : State) (p : Nat) (c : Cycle) : (s.setCycle p c).lk = s.lk := by simp [State.setCycle]
@[simp] theorem State.setCycle_qu (s : State) (p : Nat) (c : Cycle) : (s.setCycle p c).qu = s.qu := by simp [State.setCycle]
@[simp] theorem State.setCycle_sv (s : State) (p : Nat) (c : Cycle) : (s.setCycle p c).sv = s.sv := by simp [State.setCycle]
@[simp] theorem State.setCycle_it (s : State) (p : Nat) (c : Cycle) : (s.setCycle p c).it = s.it := by simp [State.setCycle]
@[simp] theorem State.setCycle_out (s : State) (p : Nat) (c : Cycle) : (s.setCycle p c).out = s.out := by simp [State.setCycle]

@[simp] theorem State.onCmd_pending (s : State) (id : Nat) (f : Cmd → Cmd) : (s.onCmd id f).pending = s.pending := by simp [State.onCmd]
@[simp] theorem State.onCmd_now (s : State) (id : Nat) (f : Cmd → Cmd) : (s.onCmd id f).now = s.now := by simp [State.onCmd]
@[simp] theorem State.onCmd_freeCount (s : State) (id : Nat) (f : Cmd → Cmd) : (s.onCmd id f).freeCount = s.freeCount := by simp [State.onCmd]
@[simp] theorem State.onCmd_pw (s : State) (id : Nat) (f : Cmd → Cmd) : (s.onCmd id f).pw = s.pw := by simp [State.onCmd]
@[simp] theorem State.onCmd_dv (s : State) (id : Nat) (f : Cmd → Cmd) : (s.onCmd id f).dv = s.dv := by simp [State.onCmd]
@[simp] theorem State.onCmd_regs (s : State) (id : Nat) (f : Cmd → Cmd) : (s.onCmd id f).regs = s.regs := by simp [State.onCmd]
@[simp] theorem State.onCmd_mem (s : State) (id : Nat) (f : Cmd → Cmd) : (s.onCmd id f).mem = s.mem := by simp [State.onCmd]
@[simp] theorem State.onCmd_synd (s : State) (id : Nat) (f : Cmd → Cmd) : (s.onCmd id f).synd = s.synd := by simp [State.onCmd]
@[simp] theorem State.onCmd_unitGen (s : State) (id : Nat) (f : Cmd → Cmd) : (s.onCmd id f).unitGen = s.unitGen := by simp [State.onCmd]
@[simp] theorem State.onCmd_ftg (s : State) (id : Nat) (f : Cmd → Cmd) : (s.onCmd id f).ftg = s.ftg := by simp [State.onCmd]
@[simp] theorem State.onCmd_tr (s : State) (id : Nat) (f : Cmd → Cmd) : (s.onCmd id f).tr = s.tr := by simp [State.onCmd]
@[simp] theorem State.onCmd_kl (s : State) (id : Nat) (f : Cmd → Cmd) : (s.onCmd id f).kl = s.kl := by simp [State.onCmd]
@[simp] theorem State.onCmd_ks (s : State) (id : Nat) (f : Cmd → Cmd) : (s.onCmd id f).ks = s.ks := by simp [State.onCmd]
@[simp] theorem State.onCmd_ln (s : State) (id : Nat) (f : Cmd → Cmd) : (s.onCmd id f).ln = s.ln := by simp [State.onCmd]
@[simp] theorem State.onCmd_yd (s : State) (id : Nat) (f : Cmd → Cmd) : (s.onCmd id f).yd = s.yd := by simp [State.onCmd]
@[simp] theorem State.onCmd_pt (s : State) (id : Nat) (f : Cmd → Cmd) : (s.onCmd id f).pt = s.pt := by simp [State.onCmd]
@[simp] theorem State.onCmd_bm (s : State) (id : Nat) (f : Cmd → Cmd) : (s.onCmd id f).bm = s.bm := by simp [State.onCmd]
@[simp] theorem State.onCmd_bk (s : State) (id : Nat) (f : Cmd → Cmd) : (s.onCmd id f).bk = s.bk := by simp [State.onCmd]
@[simp] theorem State.onCmd_br (s : State) (id : Nat) (f : Cmd → Cmd) : (s.onCmd id f).br = s.br := by simp [State.onCmd]
@[simp] theorem State.onCmd_lk (s : State) (id : Nat) (f : Cmd → Cmd) : (s.onCmd id f).lk = s.lk := by simp [State.onCmd]
@[simp] theorem State.onCmd_sv (s : State) (id : Nat) (f : Cmd → Cmd) : (s.onCmd id f).sv = s.sv := by simp [State.onCmd]
@[simp] theorem State.onCmd_it (s : State) (id : Nat) (f : Cmd → Cmd) : (s.onCmd id f).it = s.it := by simp [State.onCmd]
@[simp] theorem State.onCmd_out (s : State) (id : Nat) (f : Cmd → Cmd) : (s.onCmd id f).out = s.out := by simp [State.onCmd]

@[simp] theorem State.setReload_pending (s : State) (a st : Nat) : (s.setReload a st).pending = s.pending := by simp [State.setReload]
@[simp] theorem State.setReload_now (s : State) (a st : Nat) : (s.setReload a st).now = s.now := by simp [State.setReload]
@[simp] theorem State.setReload_freeCount (s : State) (a st : Nat) : (s.setReload a st).freeCount = s.freeCount := by simp [State.setReload]
@[simp] theorem State.setReload_pw (s : State) (a st : Nat) : (s.setReload a st).pw = s.pw := by simp [State.setReload]
@[simp] theorem State.setReload_dv (s : State) (a st : Nat) : (s.setReload a st).dv = s.dv := by simp [State.setReload]
@[simp] theorem State.setReload_regs (s : State) (a st : Nat) : (s.setReload a st).regs = s.regs := by simp [State.setReload]
@[simp] theorem State.setReload_mem (s : State) (a st : Nat) : (s.setReload a st).mem = s.mem := by simp [State.setReload]
@[simp] theorem State.setReload_synd (s : State) (a st : Nat) : (s.setReload a st).synd = s.synd := by simp [State.setReload]
@[simp] theorem State.setReload_unitGen (s : State) (a st : Nat) : (s.setReload a st).unitGen = s.unitGen := by simp [State.setReload]
@[simp] theorem State.setReload_ftg (s : State) (a st : Nat) : (s.setReload a st).ftg = s.ftg := by simp [State.setReload]
@[simp] theorem State.setReload_tr (s : State) (a st : Nat) : (s.setReload a st).tr = s.tr := by simp [State.setReload]
@[simp] theorem State.setReload_kl (s : State) (a st : Nat) : (s.setReload a st).kl = s.kl := by simp [State.setReload]
@[simp] theorem State.setReload_ks (s : State) (a st : Nat) : (s.setReload a st).ks = s.ks := by simp [State.setReload]
@[simp] theorem State.setReload_ln (s : State) (a st : Nat) : (s.setReload a st).ln = s.ln := by simp [State.setReload]
@[simp] theorem State.setReload_yd (s : State) (a st : Nat) : (s.setReload a st).yd = s.yd := by simp [State.setReload]
@[simp] theorem State.setReload_pt (s : State) (a st : Nat) : (s.setReload a st).pt = s.pt := by simp [State.setReload]
@[simp] theorem State.setReload_bm (s : State) (a st : Nat) : (s.setReload a st).bm = s.bm := by simp [State.setReload]
@[simp] theorem State.setReload_bk (s : State) (a st : Nat) : (s.setReload a st).bk = s.bk := by simp [State.setReload]
@[simp] theorem State.setReload_br (s : State) (a st : Nat) : (s.setReload a st).br = s.br := by simp [State.setReload]
@[simp] theorem State.setReload_lk (s : State) (a st : Nat) : (s.setReload a st).lk = s.lk := by simp [State.setReload]
@[simp] theorem State.setReload_qu (s : State) (a st : Nat) : (s.setReload a st).qu = s.qu := by simp [State.setReload]
@[simp] theorem State.setReload_sv (s : State) (a st : Nat) : (s.setReload a st).sv = s.sv := by simp [State.setReload]
@[simp] theorem State.setReload_out (s : State) (a st : Nat) : (s.setReload a st).out = s.out := by simp [State.setReload]

@[simp] theorem State.setSeq_pending (s : State) (q : Nat) (e : Seq) : (s.setSeq q e).pending = s.pending := by simp [State.setSeq]
@[simp] theorem State.setSeq_now (s : State) (q : Nat) (e : Seq) : (s.setSeq q e).now = s.now := by simp [State.setSeq]
@[simp] theorem State.setSeq_freeCount (s : State) (q : Nat) (e : Seq) : (s.setSeq q e).freeCount = s.freeCount := by simp [State.setSeq]
@[simp] theorem State.setSeq_pw (s : State) (q : Nat) (e : Seq) : (s.setSeq q e).pw = s.pw := by simp [State.setSeq]
@[simp] theorem State.setSeq_dv (s : State) (q : Nat) (e : Seq) : (s.setSeq q e).dv = s.dv := by simp [State.setSeq]
@[simp] theorem State.setSeq_regs (s : State) (q : Nat) (e : Seq) : (s.setSeq q e).regs = s.regs := by simp [State.setSeq]
@[simp] theorem State.setSeq_mem (s : State) (q : Nat) (e : Seq) : (s.setSeq q e).mem = s.mem := by simp [State.setSeq]
@[simp] theorem State.setSeq_synd (s : State) (q : Nat) (e : Seq) : (s.setSeq q e).synd = s.synd := by simp [State.setSeq]
@[simp] theorem State.setSeq_unitGen (s : State) (q : Nat) (e : Seq) : (s.setSeq q e).unitGen = s.unitGen := by simp [State.setSeq]
@[simp] theorem State.setSeq_ftg (s : State) (q : Nat) (e : Seq) : (s.setSeq q e).ftg = s.ftg := by simp [State.setSeq]
@[simp] theorem State.setSeq_tr (s : State) (q : Nat) (e : Seq) : (s.setSeq q e).tr = s.tr := by simp [State.setSeq]
@[simp] theorem State.setSeq_kl (s : State) (q : Nat) (e : Seq) : (s.setSeq q e).kl = s.kl := by simp [State.setSeq]
@[simp] theorem State.setSeq_ks (s : State) (q : Nat) (e : Seq) : (s.setSeq q e).ks = s.ks := by simp [State.setSeq]
@[simp] theorem State.setSeq_ln (s : State) (q : Nat) (e : Seq) : (s.setSeq q e).ln = s.ln := by simp [State.setSeq]
@[simp] theorem State.setSeq_yd (s : State) (q : Nat) (e : Seq) : (s.setSeq q e).yd = s.yd := by simp [State.setSeq]
@[simp] theorem State.setSeq_pt (s : State) (q : Nat) (e : Seq) : (s.setSeq q e).pt = s.pt := by simp [State.setSeq]
@[simp] theorem State.setSeq_bm (s : State) (q : Nat) (e : Seq) : (s.setSeq q e).bm = s.bm := by simp [State.setSeq]
@[simp] theorem State.setSeq_bk (s : State) (q : Nat) (e : Seq) : (s.setSeq q e).bk = s.bk := by simp [State.setSeq]
@[simp] theorem State.setSeq_br (s : State) (q : Nat) (e : Seq) : (s.setSeq q e).br = s.br := by simp [State.setSeq]
@[simp] theorem State.setSeq_lk (s : State) (q : Nat) (e : Seq) : (s.setSeq q e).lk = s.lk := by simp [State.setSeq]
@[simp] theorem State.setSeq_qu (s : State) (q : Nat) (e : Seq) : (s.setSeq q e).qu = s.qu := by simp [State.setSeq]
@[simp] theorem State.setSeq_it (s : State) (q : Nat) (e : Seq) : (s.setSeq q e).it = s.it := by simp [State.setSeq]
@[simp] theorem State.setSeq_out (s : State) (q : Nat) (e : Seq) : (s.setSeq q e).out = s.out := by simp [State.setSeq]

@[simp] theorem State.setPw_pending (s : State) (x : Power) : (s.setPw x).pending = s.pending := by simp [State.setPw]
@[simp] theorem State.setPw_now (s : State) (x : Power) : (s.setPw x).now = s.now := by simp [State.setPw]
@[simp] theorem State.setPw_freeCount (s : State) (x : Power) : (s.setPw x).freeCount = s.freeCount := by simp [State.setPw]
@[simp] theorem State.setPw_dv (s : State) (x : Power) : (s.setPw x).dv = s.dv := by simp [State.setPw]
@[simp] theorem State.setPw_regs (s : State) (x : Power) : (s.setPw x).regs = s.regs := by simp [State.setPw]
@[simp] theorem State.setPw_mem (s : State) (x : Power) : (s.setPw x).mem = s.mem := by simp [State.setPw]
@[simp] theorem State.setPw_synd (s : State) (x : Power) : (s.setPw x).synd = s.synd := by simp [State.setPw]
@[simp] theorem State.setPw_unitGen (s : State) (x : Power) : (s.setPw x).unitGen = s.unitGen := by simp [State.setPw]
@[simp] theorem State.setPw_ftg (s : State) (x : Power) : (s.setPw x).ftg = s.ftg := by simp [State.setPw]
@[simp] theorem State.setPw_tr (s : State) (x : Power) : (s.setPw x).tr = s.tr := by simp [State.setPw]
@[simp] theorem State.setPw_kl (s : State) (x : Power) : (s.setPw x).kl = s.kl := by simp [State.setPw]
@[simp] theorem State.setPw_ks (s : State) (x : Power) : (s.setPw x).ks = s.ks := by simp [State.setPw]
@[simp] theorem State.setPw_ln (s : State) (x : Power) : (s.setPw x).ln = s.ln := by simp [State.setPw]
@[simp] theorem State.setPw_yd (s : State) (x : Power) : (s.setPw x).yd = s.yd := by simp [State.setPw]
@[simp] theorem State.setPw_pt (s : State) (x : Power) : (s.setPw x).pt = s.pt := by simp [State.setPw]
@[simp] theorem State.setPw_bm (s : State) (x : Power) : (s.setPw x).bm = s.bm := by simp [State.setPw]
@[simp] theorem State.setPw_bk (s : State) (x : Power) : (s.setPw x).bk = s.bk := by simp [State.setPw]
@[simp] theorem State.setPw_br (s : State) (x : Power) : (s.setPw x).br = s.br := by simp [State.setPw]
@[simp] theorem State.setPw_lk (s : State) (x : Power) : (s.setPw x).lk = s.lk := by simp [State.setPw]
@[simp] theorem State.setPw_qu (s : State) (x : Power) : (s.setPw x).qu = s.qu := by simp [State.setPw]
@[simp] theorem State.setPw_sv (s : State) (x : Power) : (s.setPw x).sv = s.sv := by simp [State.setPw]
@[simp] theorem State.setPw_it (s : State) (x : Power) : (s.setPw x).it = s.it := by simp [State.setPw]
@[simp] theorem State.setPw_out (s : State) (x : Power) : (s.setPw x).out = s.out := by simp [State.setPw]

@[simp] theorem State.setHlink_pending (s : State) (l : Nat) (x : HLink) : (s.setHlink l x).pending = s.pending := by unfold State.setHlink; split <;> rfl
@[simp] theorem State.setHlink_now (s : State) (l : Nat) (x : HLink) : (s.setHlink l x).now = s.now := by unfold State.setHlink; split <;> rfl
@[simp] theorem State.setHlink_freeCount (s : State) (l : Nat) (x : HLink) : (s.setHlink l x).freeCount = s.freeCount := by unfold State.setHlink; split <;> rfl
@[simp] theorem State.setHlink_pw (s : State) (l : Nat) (x : HLink) : (s.setHlink l x).pw = s.pw := by unfold State.setHlink; split <;> rfl
@[simp] theorem State.setHlink_dv (s : State) (l : Nat) (x : HLink) : (s.setHlink l x).dv = s.dv := by unfold State.setHlink; split <;> rfl
@[simp] theorem State.setHlink_regs (s : State) (l : Nat) (x : HLink) : (s.setHlink l x).regs = s.regs := by unfold State.setHlink; split <;> rfl
@[simp] theorem State.setHlink_mem (s : State) (l : Nat) (x : HLink) : (s.setHlink l x).mem = s.mem := by unfold State.setHlink; split <;> rfl
@[simp] theorem State.setHlink_synd (s : State) (l : Nat) (x : HLink) : (s.setHlink l x).synd = s.synd := by unfold State.setHlink; split <;> rfl
@[simp] theorem State.setHlink_unitGen (s : State) (l : Nat) (x : HLink) : (s.setHlink l x).unitGen = s.unitGen := by unfold State.setHlink; split <;> rfl
@[simp] theorem State.setHlink_ftg (s : State) (l : Nat) (x : HLink) : (s.setHlink l x).ftg = s.ftg := by unfold State.setHlink; split <;> rfl
@[simp] theorem State.setHlink_tr (s : State) (l : Nat) (x : HLink) : (s.setHlink l x).tr = s.tr := by unfold State.setHlink; split <;> rfl
@[simp] theorem State.setHlink_kl (s : State) (l : Nat) (x : HLink) : (s.setHlink l x).kl = s.kl := by unfold State.setHlink; split <;> rfl
@[simp] theorem State.setHlink_ks (s : State) (l : Nat) (x : HLink) : (s.setHlink l x).ks = s.ks := by unfold State.setHlink; split <;> rfl
@[simp] theorem State.setHlink_yd (s : State) (l : Nat) (x : HLink) : (s.setHlink l x).yd = s.yd := by unfold State.setHlink; split <;> rfl
@[simp] theorem State.setHlink_pt (s : State) (l : Nat) (x : HLink) : (s.setHlink l x).pt = s.pt := by unfold State.setHlink; split <;> rfl
@[simp] theorem State.setHlink_bm (s : State) (l : Nat) (x : HLink) : (s.setHlink l x).bm = s.bm := by unfold State.setHlink; split <;> rfl
@[simp] theorem State.setHlink_bk (s : State) (l : Nat) (x : HLink) : (s.setHlink l x).bk = s.bk := by unfold State.setHlink; split <;> rfl
@[simp] theorem State.setHlink_br (s : State) (l : Nat) (x : HLink) : (s.setHlink l x).br = s.br := by unfold State.setHlink; split <;> rfl
@[simp] theorem State.setHlink_lk (s : State) (l : Nat) (x : HLink) : (s.setHlink l x).lk = s.lk := by unfold State.setHlink; split <;> rfl
@[simp] theorem State.setHlink_qu (s : State) (l : Nat) (x : HLink) : (s.setHlink l x).qu = s.qu := by unfold State.setHlink; split <;> rfl
@[simp] theorem State.setHlink_sv (s : State) (l : Nat) (x : HLink) : (s.setHlink l x).sv = s.sv := by unfold State.setHlink; split <;> rfl
@[simp] theorem State.setHlink_it (s : State) (l : Nat) (x : HLink) : (s.setHlink l x).it = s.it := by unfold State.setHlink; split <;> rfl
@[simp] theorem State.setHlink_out (s : State) (l : Nat) (x : HLink) : (s.setHlink l x).out = s.out := by unfold State.setHlink; split <;> rfl

@[simp] theorem State.setBucket_pending (s : State) (p r : Nat) (b : Bucket) : (s.setBucket p r b).pending = s.pending := rfl
@[simp] theorem State.setBucket_now (s : State) (p r : Nat) (b : Bucket) : (s.setBucket p r b).now = s.now := rfl
@[simp] theorem State.setBucket_freeCount (s : State) (p r : Nat) (b : Bucket) : (s.setBucket p r b).freeCount = s.freeCount := rfl
@[simp] theorem State.setBucket_pw (s : State) (p r : Nat) (b : Bucket) : (s.setBucket p r b).pw = s.pw := rfl
@[simp] theorem State.setBucket_dv (s : State) (p r : Nat) (b : Bucket) : (s.setBucket p r b).dv = s.dv := rfl
@[simp] theorem State.setBucket_regs (s : State) (p r : Nat) (b : Bucket) : (s.setBucket p r b).regs = s.regs := rfl
@[simp] theorem State.setBucket_mem (s : State) (p r : Nat) (b : Bucket) : (s.setBucket p r b).mem = s.mem := rfl
@[simp] theorem State.setBucket_synd (s : State) (p r : Nat) (b : Bucket) : (s.setBucket p r b).synd = s.synd := rfl
@[simp] theorem State.setBucket_unitGen (s : State) (p r : Nat) (b : Bucket) : (s.setBucket p r b).unitGen = s.unitGen := rfl
@[simp] theorem State.setBucket_ftg (s : State) (p r : Nat) (b : Bucket) : (s.setBucket p r b).ftg = s.ftg := rfl
@[simp] theorem State.setBucket_tr (s : State) (p r : Nat) (b : Bucket) : (s.setBucket p r b).tr = s.tr := rfl
@[simp] theorem State.setBucket_kl (s : State) (p r : Nat) (b : Bucket) : (s.setBucket p r b).kl = s.kl := rfl
@[simp] theorem State.setBucket_ks (s : State) (p r : Nat) (b : Bucket) : (s.setBucket p r b).ks = s.ks := rfl
@[simp] theorem State.setBucket_ln (s : State) (p r : Nat) (b : Bucket) : (s.setBucket p r b).ln = s.ln := rfl
@[simp] theorem State.setBucket_yd (s : State) (p r : Nat) (b : Bucket) : (s.setBucket p r b).yd = s.yd := rfl
@[simp] theorem State.setBucket_bm (s : State) (p r : Nat) (b : Bucket) : (s.setBucket p r b).bm = s.bm := rfl
@[simp] theorem State.setBucket_bk (s : State) (p r : Nat) (b : Bucket) : (s.setBucket p r b).bk = s.bk := rfl
@[simp] theorem State.setBucket_br (s : State) (p r : Nat) (b : Bucket) : (s.setBucket p r b).br = s.br := rfl
@[simp] theorem State.setBucket_lk (s : State) (p r : Nat) (b : Bucket) : (s.setBucket p r b).lk = s.lk := rfl
@[simp] theorem State.setBucket_qu (s : State) (p r : Nat) (b : Bucket) : (s.setBucket p r b).qu = s.qu := rfl
@[simp] theorem State.setBucket_sv (s : State) (p r : Nat) (b : Bucket) : (s.setBucket p r b).sv = s.sv := rfl
@[simp] theorem State.setBucket_it (s : State) (p r : Nat) (b : Bucket) : (s.setBucket p r b).it = s.it := rfl
@[simp] theorem State.setBucket_out (s : State) (p r : Nat) (b : Bucket) : (s.setBucket p r b).out = s.out := rfl

@[simp] theorem State.setGroup_pending (s : State) (k : Nat) (g : Option Group) : (s.setGroup k g).pending = s.pending := rfl
@[simp] theorem State.setGroup_now (s : State) (k : Nat) (g : Option Group) : (s.setGroup k g).now = s.now := rfl
@[simp] theorem State.setGroup_freeCount (s : State) (k : Nat) (g : Option Group) : (s.setGroup k g).freeCount = s.freeCount := rfl
@[simp] theorem State.setGroup_pw (s : State) (k : Nat) (g : Option Group) : (s.setGroup k g).pw = s.pw := rfl
@[simp] theorem State.setGroup_dv (s : State) (k : Nat) (g : Option Group) : (s.setGroup k g).dv = s.dv := rfl
@[simp] theorem State.setGroup_regs (s : State) (k : Nat) (g : Option Group) : (s.setGroup k g).regs = s.regs := rfl
@[simp] theorem State.setGroup_mem (s : State) (k : Nat) (g : Option Group) : (s.setGroup k g).mem = s.mem := rfl
@[simp] theorem State.setGroup_synd (s : State) (k : Nat) (g : Option Group) : (s.setGroup k g).synd = s.synd := rfl
@[simp] theorem State.setGroup_unitGen (s : State) (k : Nat) (g : Option Group) : (s.setGroup k g).unitGen = s.unitGen := rfl
@[simp] theorem State.setGroup_ftg (s : State) (k : Nat) (g : Option Group) : (s.setGroup k g).ftg = s.ftg := rfl
@[simp] theorem State.setGroup_tr (s : State) (k : Nat) (g : Option Group) : (s.setGroup k g).tr = s.tr := rfl
@[simp] theorem State.setGroup_kl (s : State) (k : Nat) (g : Option Group) : (s.setGroup k g).kl = s.kl := rfl
@[simp] theorem State.setGroup_ks (s : State) (k : Nat) (g : Option Group) : (s.setGroup k g).ks = s.ks := rfl
@[simp] theorem State.setGroup_ln (s : State) (k : Nat) (g : Option Group) : (s.setGroup k g).ln = s.ln := rfl
@[simp] theorem State.setGroup_yd (s : State) (k : Nat) (g : Option Group) : (s.setGroup k g).yd = s.yd := rfl
@[simp] theorem State.setGroup_pt (s : State) (k : Nat) (g : Option Group) : (s.setGroup k g).pt = s.pt := rfl
@[simp] theorem State.setGroup_bm (s : State) (k : Nat) (g : Option Group) : (s.setGroup k g).bm = s.bm := rfl
@[simp] theorem State.setGroup_br (s : State) (k : Nat) (g : Option Group) : (s.setGroup k g).br = s.br := rfl
@[simp] theorem State.setGroup_lk (s : State) (k : Nat) (g : Option Group) : (s.setGroup k g).lk = s.lk := rfl
@[simp] theorem State.setGroup_qu (s : State) (k : Nat) (g : Option Group) : (s.setGroup k g).qu = s.qu := rfl
@[simp] theorem State.setGroup_sv (s : State) (k : Nat) (g : Option Group) : (s.setGroup k g).sv = s.sv := rfl
@[simp] theorem State.setGroup_it (s : State) (k : Nat) (g : Option Group) : (s.setGroup k g).it = s.it := rfl
@[simp] theorem State.setGroup_out (s : State) (k : Nat) (g : Option Group) : (s.setGroup k g).out = s.out := rfl

@[simp] theorem State.setMslot_pending (s : State) (m : Nat) (e : MSlot) : (s.setMslot m e).pending = s.pending := rfl
@[simp] theorem State.setMslot_now (s : State) (m : Nat) (e : MSlot) : (s.setMslot m e).now = s.now := rfl
@[simp] theorem State.setMslot_freeCount (s : State) (m : Nat) (e : MSlot) : (s.setMslot m e).freeCount = s.freeCount := rfl
@[simp] theorem State.setMslot_pw (s : State) (m : Nat) (e : MSlot) : (s.setMslot m e).pw = s.pw := rfl
@[simp] theorem State.setMslot_dv (s : State) (m : Nat) (e : MSlot) : (s.setMslot m e).dv = s.dv := rfl
@[simp] theorem State.setMslot_regs (s : State) (m : Nat) (e : MSlot) : (s.setMslot m e).regs = s.regs := rfl
@[simp] theorem State.setMslot_mem (s : State) (m : Nat) (e : MSlot) : (s.setMslot m e).mem = s.mem := rfl
@[simp] theorem State.setMslot_synd (s : State) (m : Nat) (e : MSlot) : (s.setMslot m e).synd = s.synd := rfl
@[simp] theorem State.setMslot_unitGen (s : State) (m : Nat) (e : MSlot) : (s.setMslot m e).unitGen = s.unitGen := rfl
@[simp] theorem State.setMslot_ftg (s : State) (m : Nat) (e : MSlot) : (s.setMslot m e).ftg = s.ftg := rfl
@[simp] theorem State.setMslot_tr (s : State) (m : Nat) (e : MSlot) : (s.setMslot m e).tr = s.tr := rfl
@[simp] theorem State.setMslot_kl (s : State) (m : Nat) (e : MSlot) : (s.setMslot m e).kl = s.kl := rfl
@[simp] theorem State.setMslot_ks (s : State) (m : Nat) (e : MSlot) : (s.setMslot m e).ks = s.ks := rfl
@[simp] theorem State.setMslot_ln (s : State) (m : Nat) (e : MSlot) : (s.setMslot m e).ln = s.ln := rfl
@[simp] theorem State.setMslot_yd (s : State) (m : Nat) (e : MSlot) : (s.setMslot m e).yd = s.yd := rfl
@[simp] theorem State.setMslot_pt (s : State) (m : Nat) (e : MSlot) : (s.setMslot m e).pt = s.pt := rfl
@[simp] theorem State.setMslot_bm (s : State) (m : Nat) (e : MSlot) : (s.setMslot m e).bm = s.bm := rfl
@[simp] theorem State.setMslot_bk (s : State) (m : Nat) (e : MSlot) : (s.setMslot m e).bk = s.bk := rfl
@[simp] theorem State.setMslot_br (s : State) (m : Nat) (e : MSlot) : (s.setMslot m e).br = s.br := rfl
@[simp] theorem State.setMslot_lk (s : State) (m : Nat) (e : MSlot) : (s.setMslot m e).lk = s.lk := rfl
@[simp] theorem State.setMslot_qu (s : State) (m : Nat) (e : MSlot) : (s.setMslot m e).qu = s.qu := rfl
@[simp] theorem State.setMslot_it (s : State) (m : Nat) (e : MSlot) : (s.setMslot m e).it = s.it := rfl
@[simp] theorem State.setMslot_out (s : State) (m : Nat) (e : MSlot) : (s.setMslot m e).out = s.out := rfl

@[simp] theorem State.setAslot_pending (s : State) (a : Nat) (e : ASlot) : (s.setAslot a e).pending = s.pending := rfl
@[simp] theorem State.setAslot_now (s : State) (a : Nat) (e : ASlot) : (s.setAslot a e).now = s.now := rfl
@[simp] theorem State.setAslot_freeCount (s : State) (a : Nat) (e : ASlot) : (s.setAslot a e).freeCount = s.freeCount := rfl
@[simp] theorem State.setAslot_pw (s : State) (a : Nat) (e : ASlot) : (s.setAslot a e).pw = s.pw := rfl
@[simp] theorem State.setAslot_dv (s : State) (a : Nat) (e : ASlot) : (s.setAslot a e).dv = s.dv := rfl
@[simp] theorem State.setAslot_regs (s : State) (a : Nat) (e : ASlot) : (s.setAslot a e).regs = s.regs := rfl
@[simp] theorem State.setAslot_mem (s : State) (a : Nat) (e : ASlot) : (s.setAslot a e).mem = s.mem := rfl
@[simp] theorem State.setAslot_synd (s : State) (a : Nat) (e : ASlot) : (s.setAslot a e).synd = s.synd := rfl
@[simp] theorem State.setAslot_unitGen (s : State) (a : Nat) (e : ASlot) : (s.setAslot a e).unitGen = s.unitGen := rfl
@[simp] theorem State.setAslot_ftg (s : State) (a : Nat) (e : ASlot) : (s.setAslot a e).ftg = s.ftg := rfl
@[simp] theorem State.setAslot_tr (s : State) (a : Nat) (e : ASlot) : (s.setAslot a e).tr = s.tr := rfl
@[simp] theorem State.setAslot_kl (s : State) (a : Nat) (e : ASlot) : (s.setAslot a e).kl = s.kl := rfl
@[simp] theorem State.setAslot_ks (s : State) (a : Nat) (e : ASlot) : (s.setAslot a e).ks = s.ks := rfl
@[simp] theorem State.setAslot_ln (s : State) (a : Nat) (e : ASlot) : (s.setAslot a e).ln = s.ln := rfl
@[simp] theorem State.setAslot_yd (s : State) (a : Nat) (e : ASlot) : (s.setAslot a e).yd = s.yd := rfl
@[simp] theorem State.setAslot_pt (s : State) (a : Nat) (e : ASlot) : (s.setAslot a e).pt = s.pt := rfl
@[simp] theorem State.setAslot_bm (s : State) (a : Nat) (e : ASlot) : (s.setAslot a e).bm = s.bm := rfl
@[simp] theorem State.setAslot_bk (s : State) (a : Nat) (e : ASlot) : (s.setAslot a e).bk = s.bk := rfl
@[simp] theorem State.setAslot_br (s : State) (a : Nat) (e : ASlot) : (s.setAslot a e).br = s.br := rfl
@[simp] theorem State.setAslot_lk (s : State) (a : Nat) (e : ASlot) : (s.setAslot a e).lk = s.lk := rfl
@[simp] theorem State.setAslot_qu (s : State) (a : Nat) (e : ASlot) : (s.setAslot a e).qu = s.qu := rfl
@[simp] theorem State.setAslot_it (s : State) (a : Nat) (e : ASlot) : (s.setAslot a e).it = s.it := rfl
@[simp] theorem State.setAslot_out (s : State) (a : Nat) (e : ASlot) : (s.setAslot a e).out = s.out := rfl

@[simp] theorem State.setWalk_pending (s : State) (w : Walk) : (s.setWalk w).pending = s.pending := rfl
@[simp] theorem State.setWalk_now (s : State) (w : Walk) : (s.setWalk w).now = s.now := rfl
@[simp] theorem State.setWalk_freeCount (s : State) (w : Walk) : (s.setWalk w).freeCount = s.freeCount := rfl
@[simp] theorem State.setWalk_pw (s : State) (w : Walk) : (s.setWalk w).pw = s.pw := rfl
@[simp] theorem State.setWalk_dv (s : State) (w : Walk) : (s.setWalk w).dv = s.dv := rfl
@[simp] theorem State.setWalk_regs (s : State) (w : Walk) : (s.setWalk w).regs = s.regs := rfl
@[simp] theorem State.setWalk_mem (s : State) (w : Walk) : (s.setWalk w).mem = s.mem := rfl
@[simp] theorem State.setWalk_synd (s : State) (w : Walk) : (s.setWalk w).synd = s.synd := rfl
@[simp] theorem State.setWalk_unitGen (s : State) (w : Walk) : (s.setWalk w).unitGen = s.unitGen := rfl
@[simp] theorem State.setWalk_ftg (s : State) (w : Walk) : (s.setWalk w).ftg = s.ftg := rfl
@[simp] theorem State.setWalk_tr (s : State) (w : Walk) : (s.setWalk w).tr = s.tr := rfl
@[simp] theorem State.setWalk_kl (s : State) (w : Walk) : (s.setWalk w).kl = s.kl := rfl
@[simp] theorem State.setWalk_ks (s : State) (w : Walk) : (s.setWalk w).ks = s.ks := rfl
@[simp] theorem State.setWalk_ln (s : State) (w : Walk) : (s.setWalk w).ln = s.ln := rfl
@[simp] theorem State.setWalk_yd (s : State) (w : Walk) : (s.setWalk w).yd = s.yd := rfl
@[simp] theorem State.setWalk_pt (s : State) (w : Walk) : (s.setWalk w).pt = s.pt := rfl
@[simp] theorem State.setWalk_bm (s : State) (w : Walk) : (s.setWalk w).bm = s.bm := rfl
@[simp] theorem State.setWalk_bk (s : State) (w : Walk) : (s.setWalk w).bk = s.bk := rfl
@[simp] theorem State.setWalk_br (s : State) (w : Walk) : (s.setWalk w).br = s.br := rfl
@[simp] theorem State.setWalk_lk (s : State) (w : Walk) : (s.setWalk w).lk = s.lk := rfl
@[simp] theorem State.setWalk_qu (s : State) (w : Walk) : (s.setWalk w).qu = s.qu := rfl
@[simp] theorem State.setWalk_it (s : State) (w : Walk) : (s.setWalk w).it = s.it := rfl
@[simp] theorem State.setWalk_out (s : State) (w : Walk) : (s.setWalk w).out = s.out := rfl

@[simp] theorem State.onStep_pending (s : State) (n : Nat) (f : StepRun → StepRun) : (s.onStep n f).pending = s.pending := rfl
@[simp] theorem State.onStep_now (s : State) (n : Nat) (f : StepRun → StepRun) : (s.onStep n f).now = s.now := rfl
@[simp] theorem State.onStep_freeCount (s : State) (n : Nat) (f : StepRun → StepRun) : (s.onStep n f).freeCount = s.freeCount := rfl
@[simp] theorem State.onStep_pw (s : State) (n : Nat) (f : StepRun → StepRun) : (s.onStep n f).pw = s.pw := rfl
@[simp] theorem State.onStep_dv (s : State) (n : Nat) (f : StepRun → StepRun) : (s.onStep n f).dv = s.dv := rfl
@[simp] theorem State.onStep_regs (s : State) (n : Nat) (f : StepRun → StepRun) : (s.onStep n f).regs = s.regs := rfl
@[simp] theorem State.onStep_mem (s : State) (n : Nat) (f : StepRun → StepRun) : (s.onStep n f).mem = s.mem := rfl
@[simp] theorem State.onStep_synd (s : State) (n : Nat) (f : StepRun → StepRun) : (s.onStep n f).synd = s.synd := rfl
@[simp] theorem State.onStep_unitGen (s : State) (n : Nat) (f : StepRun → StepRun) : (s.onStep n f).unitGen = s.unitGen := rfl
@[simp] theorem State.onStep_ftg (s : State) (n : Nat) (f : StepRun → StepRun) : (s.onStep n f).ftg = s.ftg := rfl
@[simp] theorem State.onStep_tr (s : State) (n : Nat) (f : StepRun → StepRun) : (s.onStep n f).tr = s.tr := rfl
@[simp] theorem State.onStep_kl (s : State) (n : Nat) (f : StepRun → StepRun) : (s.onStep n f).kl = s.kl := rfl
@[simp] theorem State.onStep_ks (s : State) (n : Nat) (f : StepRun → StepRun) : (s.onStep n f).ks = s.ks := rfl
@[simp] theorem State.onStep_ln (s : State) (n : Nat) (f : StepRun → StepRun) : (s.onStep n f).ln = s.ln := rfl
@[simp] theorem State.onStep_yd (s : State) (n : Nat) (f : StepRun → StepRun) : (s.onStep n f).yd = s.yd := rfl
@[simp] theorem State.onStep_pt (s : State) (n : Nat) (f : StepRun → StepRun) : (s.onStep n f).pt = s.pt := rfl
@[simp] theorem State.onStep_bm (s : State) (n : Nat) (f : StepRun → StepRun) : (s.onStep n f).bm = s.bm := rfl
@[simp] theorem State.onStep_bk (s : State) (n : Nat) (f : StepRun → StepRun) : (s.onStep n f).bk = s.bk := rfl
@[simp] theorem State.onStep_br (s : State) (n : Nat) (f : StepRun → StepRun) : (s.onStep n f).br = s.br := rfl
@[simp] theorem State.onStep_lk (s : State) (n : Nat) (f : StepRun → StepRun) : (s.onStep n f).lk = s.lk := rfl
@[simp] theorem State.onStep_qu (s : State) (n : Nat) (f : StepRun → StepRun) : (s.onStep n f).qu = s.qu := rfl
@[simp] theorem State.onStep_it (s : State) (n : Nat) (f : StepRun → StepRun) : (s.onStep n f).it = s.it := rfl
@[simp] theorem State.onStep_out (s : State) (n : Nat) (f : StepRun → StepRun) : (s.onStep n f).out = s.out := rfl

@[simp] theorem State.setPool_pending (s : State) (p n : Nat) : (s.setPool p n).pending = s.pending := rfl
@[simp] theorem State.setPool_now (s : State) (p n : Nat) : (s.setPool p n).now = s.now := rfl
@[simp] theorem State.setPool_freeCount (s : State) (p n : Nat) : (s.setPool p n).freeCount = s.freeCount := rfl
@[simp] theorem State.setPool_pw (s : State) (p n : Nat) : (s.setPool p n).pw = s.pw := rfl
@[simp] theorem State.setPool_dv (s : State) (p n : Nat) : (s.setPool p n).dv = s.dv := rfl
@[simp] theorem State.setPool_regs (s : State) (p n : Nat) : (s.setPool p n).regs = s.regs := rfl
@[simp] theorem State.setPool_mem (s : State) (p n : Nat) : (s.setPool p n).mem = s.mem := rfl
@[simp] theorem State.setPool_synd (s : State) (p n : Nat) : (s.setPool p n).synd = s.synd := rfl
@[simp] theorem State.setPool_unitGen (s : State) (p n : Nat) : (s.setPool p n).unitGen = s.unitGen := rfl
@[simp] theorem State.setPool_ftg (s : State) (p n : Nat) : (s.setPool p n).ftg = s.ftg := rfl
@[simp] theorem State.setPool_tr (s : State) (p n : Nat) : (s.setPool p n).tr = s.tr := rfl
@[simp] theorem State.setPool_kl (s : State) (p n : Nat) : (s.setPool p n).kl = s.kl := rfl
@[simp] theorem State.setPool_ks (s : State) (p n : Nat) : (s.setPool p n).ks = s.ks := rfl
@[simp] theorem State.setPool_ln (s : State) (p n : Nat) : (s.setPool p n).ln = s.ln := rfl
@[simp] theorem State.setPool_yd (s : State) (p n : Nat) : (s.setPool p n).yd = s.yd := rfl
@[simp] theorem State.setPool_pt (s : State) (p n : Nat) : (s.setPool p n).pt = s.pt := rfl
@[simp] theorem State.setPool_bm (s : State) (p n : Nat) : (s.setPool p n).bm = s.bm := rfl
@[simp] theorem State.setPool_bk (s : State) (p n : Nat) : (s.setPool p n).bk = s.bk := rfl
@[simp] theorem State.setPool_br (s : State) (p n : Nat) : (s.setPool p n).br = s.br := rfl
@[simp] theorem State.setPool_lk (s : State) (p n : Nat) : (s.setPool p n).lk = s.lk := rfl
@[simp] theorem State.setPool_qu (s : State) (p n : Nat) : (s.setPool p n).qu = s.qu := rfl
@[simp] theorem State.setPool_it (s : State) (p n : Nat) : (s.setPool p n).it = s.it := rfl
@[simp] theorem State.setPool_out (s : State) (p n : Nat) : (s.setPool p n).out = s.out := rfl

end Sys2Proof.Machine
end

