-- ==== Sys2Proof/WellFormed.lean ====
section
/-! DEFINITION. When the operands of a command fit the fields and unit numbers that the spec gives them. A command that does
not is no command of the block: `exec` is total on it all the same, and nothing is claimed of it. -/

namespace Sys2Proof

/-- A requester names an agent or a core that exists (R35, R330). -/
def reqOk : Requester → Bool
  | .host a => a < 64
  | .trowel c => c < 8
  | .keystone => true
  | .debug => true

/-- A partition (R274). -/
def partOk (p : Nat) : Bool := p < 32

/-- A queue of a partition (R294). -/
def queueOk (q : Nat) : Bool := q < 8

/-- A host link (Table 12-1). -/
def hostLinkOk (l : Nat) : Bool := l < 2

/-- A Quoin link (R357). -/
def quoinLinkOk (l : Nat) : Bool := l < 64

/-- A 12-bit `TID` (Tables 12-3, 13-4). -/
def tidOk (t : Nat) : Bool := t < 4096

/-- A host agent (R335). -/
def agentOk (a : Nat) : Bool := a < 64

/-- A 4-bit `TARGET`. -/
def targetOk (t : Nat) : Bool := t < 16

/-- A 16-bit `TAIL`. -/
def tailOk (t : Nat) : Bool := t < 65536

/-- A 12-bit device number (R7). -/
def deviceOk (d : Nat) : Bool := d < 4096

/-- A 12-bit `FSEQ`. -/
def seqNumberOk (f : Nat) : Bool := f < 4096

/-- A 16-bit status. -/
def statusOk (c : Nat) : Bool := c < 65536

/-- A physical brick (R9). -/
def brickOk (b : Nat) : Bool := b < 10752

/-- A stack (R56). -/
def stackOk (k : Nat) : Bool := k < 16

/-- A Trowel core. -/
def coreOk (c : Nat) : Bool := c < 8

/-- A Hod engine. -/
def hodOk (h : Nat) : Bool := h < 64

/-- An index of the sequence table. -/
def sequenceOk (q : Nat) : Bool := q < 8192

/-- A UCIe module. -/
def moduleOk (m : Nat) : Bool := m < 8

/-- A lane of a link. -/
def laneOk (l : Nat) : Bool := l < 4

/-- A page of the register space (R36). -/
def pageOk (p : Nat) : Bool := p < 65536

/-- A 64-bit global address. -/
def globalOk (a : Nat) : Bool := a < 2 ^ 64

/-- An offset in the register space. -/
def windowOk (a : Nat) : Bool := a < 2 ^ 28

/-- A 7-bit SMBus address. -/
def smbusOk (a : Nat) : Bool := a < 128

/-- A 44-bit local address. -/
def localOk (a : Nat) : Bool := a < 2 ^ 44

/-- The data length of a transaction or request: `LEN` − 1 has eight bits. -/
def lengthOk (n : Nat) : Bool := 1 ≤ n && n ≤ 256

/-- An interrupt source (Table 12-4). -/
def sourceOk (n : Nat) : Bool := n < 512

/-- Well-formed commands. -/
def Instr.wf : Instr → Bool
  | .powerUp _ _ _ => true
  | .coolantHoldRelease _ _ => true
  | .inputLossShutdown _ _ => true
  | .overvoltageShutdown _ _ => true
  | .inputPowerSample _ _ _ _ _ _ => true
  | .powerLimitShutdown _ => true
  | .coolantShutdown _ _ _ => true
  | .vinPrsntOpen => true
  | .emergOff _ => true
  | .pwrEnFall => true
  | .coldReset _ _ => true
  | .referenceLost _ _ _ => true
  | .cableSupplyTrip _ _ _ => true
  | .cableInsert _ => true
  | .cableRemove _ => true
  | .powerStatusRead addr _ => smbusOk addr
  | .tapInstruction _ => true
  | .registerWrite req addr _ _ => reqOk req && windowOk addr
  | .readClear req addr _ => reqOk req && windowOk addr
  | .blkSelWrite req page _ => reqOk req && pageOk page
  | .blkErrClear req page _ => reqOk req && pageOk page
  | .lockSet page _ => pageOk page
  | .quiesce req page _ => reqOk req && pageOk page
  | .compReset req page => reqOk req && pageOk page
  | .componentResetDone _ _ _ => true
  | .passMv hod => hodOk hod
  | .passScore hod => hodOk hod
  | .passValue hod => hodOk hod
  | .passOutlier hod => hodOk hod
  | .latch hod => hodOk hod
  | .groupOpen hod => hodOk hod
  | .groupSpaceReserved stack => stackOk stack
  | .computeActivate stack _ _ => stackOk stack
  | .yieldPoint stack _ _ => stackOk stack
  | .refreshDue stack _ _ => stackOk stack
  | .ordinaryAccess part _ addr _ _ _ _ => partOk part && localOk addr
  | .passEnd stack _ _ => stackOk stack
  | .contribution _ => true
  | .memorySideAdd part _ addr _ => partOk part && localOk addr
  | .mergeIdleFlush _ => true
  | .regIndexWrite req _ => reqOk req
  | .regEntryLoWrite req _ _ => reqOk req
  | .regEntryHiWrite req _ => reqOk req
  | .regionFillDone _ => true
  | .rowSpare req _ _ _ => reqOk req
  | .bankSpare req _ _ => reqOk req
  | .repairDone stack => stackOk stack
  | .stkTrainStart req => reqOk req
  | .stkTrainDone stack _ _ _ => stackOk stack
  | .computeTimingWrite req _ _ => reqOk req
  | .stackHotEnd stack _ => stackOk stack
  | .tload brick _ _ => brickOk brick
  | .tmul brick _ _ => brickOk brick
  | .mvld brick _ _ => brickOk brick
  | .mvcfg brick _ => brickOk brick
  | .mvmul brick _ _ => brickOk brick
  | .vopCopy brick _ _ => brickOk brick
  | .vopAdd brick _ _ => brickOk brick
  | .vopMul brick _ _ => brickOk brick
  | .vopMax brick _ _ => brickOk brick
  | .vopRelu brick _ _ => brickOk brick
  | .vopSigmoid brick _ _ => brickOk brick
  | .vopSilu brick _ _ => brickOk brick
  | .vopGeluTanh brick _ _ => brickOk brick
  | .vopGateSilu brick _ _ => brickOk brick
  | .vopExp brick _ _ => brickOk brick
  | .vopRecip brick _ _ => brickOk brick
  | .vopRsqrt brick _ _ => brickOk brick
  | .vopLnorm brick _ _ => brickOk brick
  | .vopRmsnorm brick _ _ => brickOk brick
  | .vopNstat brick _ _ => brickOk brick
  | .vopNapply brick _ _ => brickOk brick
  | .vopRope brick _ _ => brickOk brick
  | .vcfgScaleTable brick _ _ => brickOk brick
  | .vcfgParameterBlock brick _ _ => brickOk brick
  | .store brick _ _ => brickOk brick
  | .issueTimeout brick _ _ => brickOk brick
  | .inboundAdmit brick _ _ _ _ => brickOk brick
  | .inboundLanded brick _ _ => brickOk brick
  | .bringInSpare req _ _ => reqOk req
  | .retireBrick req => reqOk req
  | .brickClearDone brick => brickOk brick
  | .aluAdd brick _ => brickOk brick
  | .aluSub brick _ => brickOk brick
  | .aluAnd brick _ => brickOk brick
  | .aluOr brick _ => brickOk brick
  | .aluXor brick _ => brickOk brick
  | .aluSll brick _ => brickOk brick
  | .aluSrl brick _ => brickOk brick
  | .aluSra brick _ => brickOk brick
  | .aluSlt brick _ => brickOk brick
  | .aluSltu brick _ => brickOk brick
  | .aluMin brick _ => brickOk brick
  | .aluMax brick _ => brickOk brick
  | .aluMinu brick _ => brickOk brick
  | .aluMaxu brick _ => brickOk brick
  | .aluMul brick _ => brickOk brick
  | .aluMulh brick _ => brickOk brick
  | .aluMulhu brick _ => brickOk brick
  | .aluDiv brick _ => brickOk brick
  | .aluDivu brick _ => brickOk brick
  | .aluRem brick _ => brickOk brick
  | .aluRemu brick _ => brickOk brick
  | .addi brick _ => brickOk brick
  | .andi brick _ => brickOk brick
  | .ori brick _ => brickOk brick
  | .xori brick _ => brickOk brick
  | .slti brick _ => brickOk brick
  | .sltiu brick _ => brickOk brick
  | .slli brick _ => brickOk brick
  | .srli brick _ => brickOk brick
  | .srai brick _ => brickOk brick
  | .lui brick _ => brickOk brick
  | .lw brick _ _ => brickOk brick
  | .lh brick _ _ => brickOk brick
  | .lhu brick _ _ => brickOk brick
  | .lb brick _ _ => brickOk brick
  | .lbu brick _ _ => brickOk brick
  | .sw brick _ _ => brickOk brick
  | .sh brick _ _ => brickOk brick
  | .sb brick _ _ => brickOk brick
  | .beq brick _ => brickOk brick
  | .bne brick _ => brickOk brick
  | .blt brick _ => brickOk brick
  | .bge brick _ => brickOk brick
  | .bltu brick _ => brickOk brick
  | .bgeu brick _ => brickOk brick
  | .jal brick _ => brickOk brick
  | .jalr brick _ => brickOk brick
  | .epush brick _ => brickOk brick
  | .epushm brick _ _ => brickOk brick
  | .spushm brick _ _ => brickOk brick
  | .masonWait brick _ => brickOk brick
  | .waiti brick _ => brickOk brick
  | .waitc brick _ => brickOk brick
  | .mEnd brick _ => brickOk brick
  | .workItemStart _ _ _ => true
  | .workItemEnd brick _ => brickOk brick
  | .stepCmd part queue => partOk part && queueOk queue
  | .stepAdmission _ => true
  | .placement part => partOk part
  | .walkStart _ seq _ _ _ => sequenceOk seq
  | .walkCombine _ _ _ _ => true
  | .roundCombine _ _ _ _ => true
  | .walkTimeout _ _ => true
  | .stepCommit _ => true
  | .pageRelease part _ => partOk part
  | .seqOpen part queue => partOk part && queueOk queue
  | .setInput part queue => partOk part && queueOk queue
  | .truncate part queue => partOk part && queueOk queue
  | .setFloor part queue => partOk part && queueOk queue
  | .rebind part queue => partOk part && queueOk queue
  | .setSpec part queue => partOk part && queueOk queue
  | .setClass part queue => partOk part && queueOk queue
  | .hold part queue => partOk part && queueOk queue
  | .release part queue => partOk part && queueOk queue
  | .pages part queue => partOk part && queueOk queue
  | .seqEditApply seq => sequenceOk seq
  | .seqClose part queue => partOk part && queueOk queue
  | .seqCloseFinish seq => sequenceOk seq
  | .adapterInstall part queue _ => partOk part && queueOk queue
  | .adapterRetire part queue => partOk part && queueOk queue
  | .prefixPublish part queue => partOk part && queueOk queue
  | .seqPoolAdd req _ => reqOk req
  | .seqPoolSizeWrite req _ _ => reqOk req
  | .seqQuotaWrite req _ => reqOk req
  | .seqPfxModeWrite req _ _ => reqOk req
  | .copy part queue _ => partOk part && queueOk queue
  | .layout part queue _ => partOk part && queueOk queue
  | .gather part queue _ => partOk part && queueOk queue
  | .yrdBentryWrite req _ => reqOk req
  | .blockConversionDone _ => true
  | .yardAccess part _ _ _ addr _ _ _ => partOk part && globalOk addr
  | .streamDeclare part _ _ => partOk part
  | .yrdSpareCmd req _ _ => reqOk req
  | .slabReplaceDone => true
  | .yrdClsWrite req _ _ => reqOk req
  | .yrdQCacheWrite req _ => reqOk req
  | .acquire part queue => partOk part && queueOk queue
  | .partitionCreate req => reqOk req
  | .partitionActivate req => reqOk req
  | .partitionDrain req => reqOk req
  | .partitionRelease req => reqOk req
  | .drainComplete part => partOk part
  | .poolAssign req _ _ => reqOk req
  | .bgrpAssign req _ _ => reqOk req
  | .hodAssign req _ _ => reqOk req
  | .prtModeWrite req _ => reqOk req
  | .regulatorWrite req _ _ => reqOk req
  | .regulatorRefill => true
  | .cytCommit req => reqOk req
  | .cytEnableWrite req _ => reqOk req
  | .cytShift req _ => reqOk req
  | .periodWrap part => partOk part
  | .slotWindowEnd part _ => partOk part
  | .budgetStop part _ => partOk part
  | .queueDoorbellWrite req _ _ => reqOk req
  | .commandFetch part queue => partOk part && queueOk queue
  | .replay part queue => partOk part && queueOk queue
  | .patch part queue => partOk part && queueOk queue
  | .fence part queue => partOk part && queueOk queue
  | .modelLoad part queue _ _ _ => partOk part && queueOk queue
  | .modelLoadBlock _ _ _ _ => true
  | .modelLoadComplete _ _ => true
  | .reduceRemote part queue => partOk part && queueOk queue
  | .waitCmd part queue => partOk part && queueOk queue
  | .waitEvaluate part queue => partOk part && queueOk queue
  | .waitTimeout part queue _ => partOk part && queueOk queue
  | .signal part queue => partOk part && queueOk queue
  | .nop part queue => partOk part && queueOk queue
  | .trainStep part queue => partOk part && queueOk queue
  | .marker part queue => partOk part && queueOk queue
  | .completionRecord part ring => partOk part && queueOk ring
  | .prtQctrlEnable req _ => reqOk req
  | .ringHeadWrite req _ _ => reqOk req
  | .flush req _ => reqOk req
  | .resume req _ => reqOk req
  | .prtPvalWrite req _ _ => reqOk req
  | .flitReceive link _ fseq _ _ _ _ _ _ => hostLinkOk link && seqNumberOk fseq
  | .nakFlit link fseq => hostLinkOk link && seqNumberOk fseq
  | .moduleFailure module => moduleOk module
  | .mrd link tid agent part len addr _ => hostLinkOk link && tidOk tid && agentOk agent && partOk part && lengthOk len && globalOk addr
  | .mwr link agent part addr data _ => hostLinkOk link && agentOk agent && partOk part && globalOk addr && lengthOk data.length
  | .mwrc link tid agent part addr data _ => hostLinkOk link && tidOk tid && agentOk agent && partOk part && globalOk addr && lengthOk data.length
  | .db link agent part target tail _ => hostLinkOk link && agentOk agent && partOk part && targetOk target && tailOk tail
  | .sidebandRead agent addr => agentOk agent && windowOk addr
  | .sidebandWrite agent addr _ => agentOk agent && windowOk addr
  | .ringDoorbell req _ => reqOk req
  | .intrHoldoffEnd source => sourceOk source
  | .lntIvecWrite req _ => reqOk req
  | .attach _ agent => agentOk agent
  | .detach _ => true
  | .queryState _ => true
  | .unknownMessage _ => true
  | .heartbeat req part => reqOk req && partOk part
  | .heartbeatTimeout part _ => partOk part
  | .ringFullSilence part ring _ => partOk part && queueOk ring
  | .silenceGraceEnd part _ => partOk part
  | .retainExpiry part _ => partOk part
  | .linkTrain req => reqOk req
  | .linkDisable req _ => reqOk req
  | .trainingDone link _ => quoinLinkOk link
  | .trainingTimeout link _ => quoinLinkOk link
  | .keyingTimeout link _ => quoinLinkOk link
  | .frameReceive link _ fseq _ _ _ _ _ _ _ _ _ => quoinLinkOk link && seqNumberOk fseq
  | .nakFrame link fseq => quoinLinkOk link && seqNumberOk fseq
  | .retrainDone link _ => quoinLinkOk link
  | .laneDrop link _ _ _ => quoinLinkOk link
  | .rrd link tid src dst part len addr _ => quoinLinkOk link && tidOk tid && deviceOk src && deviceOk dst && partOk part && lengthOk len && localOk addr
  | .rwr link tid src dst part addr data _ => quoinLinkOk link && tidOk tid && deviceOk src && deviceOk dst && partOk part && localOk addr && lengthOk data.length
  | .radd link tid src dst part _ addr data _ => quoinLinkOk link && tidOk tid && deviceOk src && deviceOk dst && partOk part && localOk addr && lengthOk data.length
  | .ownrd link tid src dst part len addr _ => quoinLinkOk link && tidOk tid && deviceOk src && deviceOk dst && partOk part && lengthOk len && localOk addr
  | .rack link tid status => quoinLinkOk link && tidOk tid && statusOk status
  | .rdat link tid status _ => quoinLinkOk link && tidOk tid && statusOk status
  | .kxHello link _ _ _ _ => quoinLinkOk link
  | .kxInit link _ => quoinLinkOk link
  | .kxResp link _ => quoinLinkOk link
  | .kxDone link => quoinLinkOk link
  | .creditTimeout link _ => quoinLinkOk link
  | .responseTimeout link tid _ => quoinLinkOk link && tidOk tid
  | .rekeyDue link _ => quoinLinkOk link
  | .tagFailureLimit link _ _ => quoinLinkOk link
  | .spareTransmitter req lane => reqOk req && laneOk lane
  | .spareReceiver req lane => reqOk req && laneOk lane
  | .scrubSweepStart _ _ _ => true
  | .scrubVisit addr _ _ => localOk addr
  | .scrubLate _ _ _ => true
  | .openFaultMark _ => true
  | .scrubReload addr => localOk addr
  | .reloadDone addr _ _ => localOk addr
  | .reloadRetry addr => localOk addr
  | .recompute seq => sequenceOk seq
  | .recomputeEnd seq => sequenceOk seq
  | .imageCreate req _ _ => reqOk req
  | .seal req => reqOk req
  | .sealDone _ _ _ _ _ => true
  | .imageDelete req => reqOk req
  | .imageAbort req => reqOk req
  | .stagingWrite req addr _ => reqOk req && localOk addr
  | .retentionSample _ _ => true
  | .blockDefect _ => true
  | .watchdogExpiry core _ _ => coreOk core
  | .coreException core _ addr _ => coreOk core && localOk addr
  | .coreRestartWrite req _ => reqOk req
  | .coreRetireWrite req => reqOk req
  | .restartPhaseEnd core _ _ _ _ => coreOk core
  | .restartPhaseOverrun core _ _ => coreOk core
  | .crashLoopRetire core => coreOk core
  | .dutyMove _ core => coreOk core
  | .unitAudit _ _ _ => true
  | .reconcile _ _ _ _ _ => true
  | .idleSelftest brick _ _ _ => brickOk brick
  | .keystoneBoot _ _ _ _ _ _ => true
  | .bringup _ _ _ _ _ _ => true
  | .fillStart => true
  | .startupRelease _ _ _ _ _ => true
  | .releaseTimeout _ => true
  | .warmReset req => reqOk req
  | .warmResetDrainEnd _ => true
  | .partitionReset req => reqOk req
  | .ksCerts => true
  | .ksAttest _ => true
  | .ksBind => true
  | .grantHostRights _ => true
  | .grantImport _ => true
  | .grantLock _ => true
  | .ksPeer => true
  | .ksDebug _ => true
  | .activate _ => true
  | .activationInstance _ _ => true
  | .confirm => true
  | .revert => true
  | .automaticFallback _ => true
  | .updStatus => true
  | .sensorSample _ _ _ => true
  | .throttleReq _ _ _ => true
  | .throttleAck _ => true
  | .thermalGraceEnd _ _ => true
  | .enforcementStep _ _ => true
  | .nearEnd _ _ => true
  | .powerBudgetSample _ _ _ _ _ => true
  | .powerCeilingStep _ => true
  | .clampRelease _ _ => true
  | .clockRampStep _ _ => true
  | .thermalTrip _ _ => true
  | .sensorFlagClear req _ _ => reqOk req
  | .ceilMhzWrite req _ _ _ => reqOk req
  | .klnStkLevelWrite req _ _ => reqOk req
  | .epWindowEnd _ => true
  | .recoveryComplete part => partOk part
  | .liveRelease seq => sequenceOk seq
  | .stackLost stack => stackOk stack
  | .vinPrsntMate => true
  | .inputBelow30V _ => true
  | .coldResetNRise => true
  | .ucieRetrainEnd link _ => hostLinkOk link
  | .hostLinkReturn link => hostLinkOk link
  | .counterExhausted link => quoinLinkOk link
  | .slotWindowStart part _ => partOk part
  | .footingDieFail _ _ _ => true

end Sys2Proof
end

