-- ==== Sys2Proof/Tests/Slice0.lean ====
section
/-! SUPPORT. The author's own tests: the checks of WellFormed, small steps, and for every statement with hypotheses a state
and operands that meet them. -/

namespace Sys2Proof.Tests

open Sys2Proof Sys2Proof.Machine

-- The theorems below are checked one after another: run side by side, their evaluations need more memory than there is.
set_option Elab.async false

/-- A device that runs: rails on, `READY`, `PWR_EN` high. -/
def running : State :=
  { State.reset with
    pw := { ({} : Power) with pwrState := 2, pwrEn := true, vin := 2400, flow := 95, tInlet := 80, pwrGood := true, svc3v3 := true }
    dv := { ({} : Device) with st := .ready } }

/-- The same device waiting for its coolant at power-up. -/
def waitingCoolant : State := { State.reset with pw := { ({} : Power) with pwrState := 1 } }

theorem witness_PowerUpRuns :
    (State.reset.pw.vinPrsnt = true ∧ State.reset.railsUp = false ∧ 1950 ≤ 1950 ∧ 1500 ≤ 1500 ∧ 1949 < 1950 ∧ 40 ≤ 40 ∧ 96 ≤ 96)
    ∧ ((39 < 40 ∨ 96 < 97) ∧ State.reset.railsUp = false) ∧ waitingCoolant.pw.pwrState = 1 := by decide

/-- A running device whose sensor `n` reads `t` quarter degrees. -/
def reading (n : Nat) (t : Int) : State :=
  { running with kl := { ({} : Kiln) with sensors := [(n, { ({} : Sensor) with temp := t, present := true })], since := [(8 * sensorRegion n + 4, 1)] } }

theorem witness_ShutdownsTrip :
    running.railsUp = true ∧ 1849 < 1850 ∧ 3000 < 3001 ∧ 6800 < 6801 ∧ (1000 < 1001) ∧ running.pw.pwrState = 2
    ∧ (39 < 40) ∧ (reading 2048 408).railsUp = true ∧ (reading 2048 408).regionPresent 8 = true
    ∧ (reading 2048 408).readingAtLeast 8 (tripAt 8) = true
    ∧ ((reading 2048 408).at 1000000).heldFor 8 4 1000000 = true := by decide

theorem witness_ReferenceStopShutsDown : running.railsUp = true ∧ (1000 < 1001 ∧ 2 ≤ 2)
    ∧ (((false = false ∧ 1000 ≤ 1000) ∨ 5 < 2) ∧ ((true = false ∧ 1000 ≤ 1000) ∨ 1 < 2)) := by decide

theorem witness_SequencerAnswers :
    (running.pw.pwrState = 2 ∧ running.dv.st ≠ .off ∧ running.pw.pwrEn = true ∧ (if true then 1 ≤ 1 else running.dutyServed 0 = true))
    ∧ running.railsUp = true ∧ 1499 < 1500 ∧ 1500 ≤ running.pw.vin
    ∧ 0x60 = 0x60 + 2 * (if running.pw.smbAddr1 then 1 else 0) + (if running.pw.smbAddr0 then 1 else 0)
    ∧ running.flag F.KST_STATE_DEBUG = false ∧ (running.setFlag F.KST_STATE_DEBUG true).flag F.KST_STATE_DEBUG = true
    ∧ (running.setFlag F.KST_STATE_DEBUG true).pw.pwrState = 2 := by decide

/-- A device whose region 8 reads `t`, condition `k` of region `r` having held from the start. -/
def coolSince (r k : Nat) (t : Int) : State :=
  { reading 2048 t with kl := { (reading 2048 t).kl with since := [(8 * r + k, 1)] } }

theorem witness_SensorsAct :
    (running.Canonical ∧ 2048 < 2128 ∧ running.regionPresent (sensorRegion 2048) = true ∧ running.dv.st ≠ .off)
    ∧ ((coolSince 8 1 332).Canonical ∧ (coolSince 8 1 332).readingAtMost (8 + 0) 332 = true
      ∧ ((coolSince 8 1 332).at 100000000).heldFor (8 + 0) 1 100000000 = true
      ∧ ((coolSince 8 1 332).at 99999999).heldFor (8 + 0) 1 100000000 = false) := by decide

/-- A device with a region whose grace runs and whose sensor reads `t`. -/
def inGrace (t : Int) : State := { reading 2048 t with kl := { (reading 2048 t).kl with grace := [(8, 0)] } }

/-- A device under enforcement of a region, its sensor reading `t` and its power `p`. -/
def enforced (r : Nat) (t : Int) (p : Nat) : State :=
  ((({ reading 2048 t with kl := { (reading 2048 t).kl with p10 := p, since := [(8 * r + 2, 1), (8 * r + 5, 1)] } } : State).setBit F.KLN_ENF_REGION r true).setBit
    F.KLN_NEAR_REGION r true).setF F.KLN_PERMIT_W10 650

theorem witness_EnforcementActs :
    ((inGrace 340).Canonical ∧ (8, 0) ∈ (inGrace 340).kl.grace ∧ 0 + 50000000 ≤ max (inGrace 340).now 50000000 ∧ (inGrace 340).readingAtMost 8 (nearAt 8 - 12) = true)
    ∧ ((inGrace 341).Canonical ∧ (8, 0) ∈ (inGrace 341).kl.grace ∧ (inGrace 341).readingAtMost 8 (nearAt 8 - 12) = false)
    ∧ ((enforced 8 380 0).Canonical ∧ (enforced 8 380 0).bit F.KLN_ENF_REGION 8 = true
      ∧ (enforced 8 380 0).readingAtLeast 8 380 = true ∧ ((enforced 8 380 0).at 10000000).heldFor 8 5 10000000 = true)
    ∧ ((enforced 8 340 0).Canonical ∧ (enforced 8 340 0).bit F.KLN_NEAR_REGION 8 = true
      ∧ (if 8 = 28 then (enforced 8 340 0).powerCalm = true else (enforced 8 340 0).readingAtMost 8 (nearAt 8 - 12) = true)
      ∧ ((enforced 8 340 0).at 100000000).heldFor 8 2 100000000 = true)
    ∧ ((enforced 28 0 6174).Canonical ∧ (enforced 28 0 6174).bit F.KLN_NEAR_REGION 28 = true
      ∧ (if 28 = 28 then (enforced 28 0 6174).powerCalm = true else (enforced 28 0 6174).readingAtMost 28 0 = true)
      ∧ ((enforced 28 0 6174).at 100000000).heldFor 28 2 100000000 = true)
    ∧ ((enforced 28 0 6175).Canonical ∧ (enforced 28 0 6175).bit F.KLN_ENF_REGION 28 = true
      ∧ (enforced 28 0 6175).powerCalm = false ∧ ((enforced 28 0 6175).at 1000000).heldFor 28 5 1000000 = true ∧ 1000 < (enforced 28 0 6175).getF F.KLN_POWER_CEIL_MHZ)
    ∧ (running.Canonical ∧ 97 * ((running.at 0).senseInput 2400 95 80).permitted ≤ 6305 * 100
      ∧ 105 * ((running.at 0).senseInput 2400 95 80).permitted < 6826 * 100
      ∧ ((running.at 0).senseInput 1900 95 80).permitted = 6460) := by decide

/-- The core of duty `d` runs. -/
def served (d : Nat) (s : State) : State := s.setF (hdrF .trw 0x0C 31 28) 3 d

/-- A device whose die 0 ramps after a clamp release, and whose T3 has region 8's request to send. -/
def ramping : State :=
  served 3 { running with kl := { ({} : Kiln) with ramp := [(0, 1000)], asked := [8], epTokens := 10, since := [(8 * 32 + 5, 1)] } }

/-- A device with the energy profile on and a target of `m` mJ. -/
def profiled (m : Nat) : State := (ramping.setFlag F.KLN_EP_CTRL_EP_ENABLE true).setF F.KLN_EP_TARGET_TARGET_MJ m

/-- A device with a clamp acting on a region, region 8's sensor at 92 °C. -/
def clamped (r : Nat) : State := (coolSince r 3 368).setBit F.KLN_CLAMP_ACTIVE r true

/-- A device that serves its rings (duty 6; duty 5 as well), with message `m` at the head of channel `c`'s H2F ring. -/
def mailed (c : Nat) (m : Msg) : State :=
  let s := ((served 5 (served 6 running)).setF F.LNT_H2F_SIZE_LOG2 4 c).setReg A.LNT_H2F_BASE_LO 0x10000#32 c
  ({ s with ln := { s.ln with bells := [c] } } : State).wrN 0x10000 2 1 |>.wr 0x10080 m

theorem witness_ClampsAndRequests :
    (running.Canonical ∧ running.railsUp = true ∧ running.pw.pwrEn = true ∧ 6500 < 6501 ∧ running.bit F.KLN_CLAMP_ACTIVE 28 = false)
    ∧ ((clamped 8).Canonical ∧ (clamped 8).bit F.KLN_CLAMP_ACTIVE 8 = true
      ∧ (clamped 8).readingAtMost 8 (clampAt 8 - 20) = true ∧ ((clamped 8).at 10000000).heldFor 8 3 10000000 = true)
    ∧ ((clamped 28).Canonical ∧ (clamped 28).bit F.KLN_CLAMP_ACTIVE 28 = true
      ∧ ((clamped 28).at 1000000).heldFor 28 3 1000000 = true)
    ∧ (ramping.Canonical ∧ smGet (fun _ => 0) ramping.kl.ramp 0 ≠ 0 ∧ ramping.dieClamped 0 = false
      ∧ (ramping.at 100000).heldFor (32 + 0) 5 100000 = true)
    ∧ (8 ∈ ramping.kl.asked ∧ ramping.dutyServed 3 = true)
    ∧ ((mailed 0 (mkMsg 0x0011 0 1 0 [(16, 2, 7)])).Canonical ∧ (mailed 0 (mkMsg 0x0011 0 1 0 [(16, 2, 7)])).dutyServed 6 = true
      ∧ (mailed 0 (mkMsg 0x0011 0 1 0 [(16, 2, 7)])).h2fPeek 0 = some (mkMsg 0x0011 0 1 0 [(16, 2, 7)])
      ∧ fieldB (mkMsg 0x0011 0 1 0 [(16, 2, 7)]) 0 2 = 0x0011)
    ∧ ((profiled 100).Canonical ∧ (profiled 100).flag F.KLN_EP_CTRL_EP_ENABLE = true ∧ (profiled 100).dutyServed 3 = true
      ∧ (profiled 100).kl.epTokens ≠ 0 ∧ (profiled 100).getF F.KLN_EP_TARGET_TARGET_MJ ≠ 0
      ∧ (profiled 100).getF F.KLN_EP_TARGET_TARGET_MJ * (profiled 100).kl.epTokens < 1001
      ∧ (profiled 100).getF F.KLN_EP_FLOOR_FLOOR_MHZ < (profiled 100).getF F.KLN_EP_CEIL_MHZ
      ∧ 899 * 100 < 90 * (profiled 100).getF F.KLN_EP_TARGET_TARGET_MJ * (profiled 100).kl.epTokens) := by decide

/-- Page `p` is locked against every requester. -/
def lockedPage (p : Nat) (s : State) : State := s.lockPage p 0 2

theorem witness_AccessesAreChecked :
    State.reset.regGate (.host 0) 0x24044 4 true = none ∧ (running.regGate (.host 5) 0x24044 4 true = some 0x0602)
    ∧ (running.reachesRegs (.trowel 0) = false ∧ (served 0 running).reachesRegs (.trowel 0) = true)
    ∧ blkOfPage (0x50000 / 0x1000) = none ∧ ((blkOfPage (0x24044 / 0x1000)).isSome = true ∧ ¬(4 = 4 ∧ 0x24046 % 4 = 0)
      ∧ ¬(4 = 8 ∧ 0x24046 % 8 = 0)) ∧ ((lockedPage 0x24 (served 0 running)).regGate (.trowel 0) 0x24044 4 true = some 0
      ∧ (lockedPage 0x24 (served 0 running)).lockedFor (.trowel 0) (0x24044 / 0x1000) = true) := by decide

theorem witness_ErrorsAreRecorded :
    (running.Canonical ∧ 15 < 0x4000 ∧ 30 < 31 ∧ running.flag (hdrF .stk 0x24 31 31) 15 = false)
    ∧ ((running.setFlag (hdrF .stk 0x24 31 31) true 15).Canonical
      ∧ (running.setFlag (hdrF .stk 0x24 31 31) true 15).flag (hdrF .stk 0x24 31 31) 15 = true) := by decide

/-- Trowel core 0 runs, and its copies of the select registers name instance `i` of block `b`. -/
def choosing (b : Blk) (i : Nat) (s : State) : State := s.setF (hdrF b 0x18 15 0) i 0 (reqCode (.trowel 0))

theorem witness_AbsentSelectionShowsNothing :
    (running.Canonical ∧ Blk.stk.insts ≠ 1) ∧ blkOfPage (0x200040 / 0x1000) = some .stk
    ∧ pageSelected .stk (0x200040 / 0x1000) = true ∧ Blk.stk.insts ≤ (choosing .stk 16 running).sel .stk (.trowel 0)
    ∧ 0x200040 % 0x1000 ≠ 0x18 := by decide

/-- A device whose Trowel core 0 runs and shows itself instance `i` of block `b`. -/
def onUnit (b : Blk) (i : Nat) : State := choosing b i (served 0 running)

theorem witness_HeaderWritesActOnTheirInstance :
    ((onUnit .stk 3).Canonical ∧ (onUnit .stk 3).regGate (.trowel 0) (0x200 * 0x1000 + 0x18) 4 true = some 0
      ∧ blkOfPage 0x200 = some .stk ∧ Blk.stk.insts ≠ 1)
    ∧ ((onUnit .stk 3).grants (.trowel 0) (0x200 * 0x1000 + 0x10) ∧ (onUnit .stk 3).hdrInst .stk 0x200 (.trowel 0) = some 3)
    ∧ (running.regGate .keystone (0x24 * 0x1000 + 0x1C) 4 true = some 0 ∧ blkOfPage 0x24 = some .kln
      ∧ running.hdrInst .kln 0x24 .keystone = some 0)
    ∧ ((onUnit .brk 7).Canonical ∧ (onUnit .brk 7).grants (.trowel 0) (0x300 * 0x1000 + 8) ∧ mayWrite (.trowel 0) 0x300 = true
      ∧ blkOfPage 0x300 = some .brk ∧ (onUnit .brk 7).hdrInst .brk 0x300 (.trowel 0) = some 7 ∧ plainHeader .brk = false
      ∧ 7 ≠ blockWide ∧ nbit (257#32).toNat 31 = false)
    ∧ (onUnit .brk 7).grants (.trowel 0) A.KLN_EP_TARGET := by decide

/-- A register with clear-on-read fields: `KLN_CLAMP_CNT`'s neighbour set is searched for one. -/
theorem witness_readClear :
    (regRowsStk.filter fun r => r.rc ≠ 0).all (fun r =>
      (onUnit .stk 3).regGate (.trowel 0) r.addr 4 false = some 0 && !(onUnit .stk 3).lockedFor (.trowel 0) (r.addr / 0x1000)
        && blkOfPage (r.addr / 0x1000) = some .stk && rowOf r.addr = some r && decide (0x40 ≤ r.addr % 0x1000)
        && (onUnit .stk 3).instOf .stk (r.addr / 0x1000) (.trowel 0) = some 3
        && ((onUnit .stk 3).copyOf (.trowel 0) 3 r.dim).isSome) = true
    ∧ (regRowsStk.filter fun r => r.rc ≠ 0) ≠ [] := by decide

/-- Brick 7 ready and quiesced. -/
def quietBrick : State := ((onUnit .brk 7).setF (hdrF .brk 0x0C 31 28) 3 7).setFlag (hdrF .brk 0x08 0 0) true 7

/-- Instance `i` of block `b` in a component reset. -/
def inReset (b : Blk) (i : Nat) : State := running.setFlag (hdrF b 0x08 31 31) true i

theorem witness_ComponentResets :
    (quietBrick.Canonical ∧ quietBrick.grants (.trowel 0) (0x300 * 0x1000 + 8) ∧ mayWrite (.trowel 0) 0x300 = true
      ∧ quietBrick.hdrInst .brk 0x300 (.trowel 0) = some 7 ∧ takesReset .brk = true ∧ quietBrick.present .brk 7 = true
      ∧ quietBrick.quiesced .brk 7 = true ∧ quietBrick.resetting .brk 7 = false ∧ quietBrick.dv.st ≠ .warmReset
      ∧ quietBrick.resetFree .brk 7 = true)
    ∧ ((inReset .hod 63).Canonical ∧ (inReset .hod 63).resetting .hod 63 = true)
    ∧ ((inReset .yrd 47).Canonical ∧ 47 < Blk.yrd.insts ∧ (inReset .yrd 47).resetting .yrd 47 = true
      ∧ (inReset .yrd 47).physSlab 47 = 47 ∧ (inReset .yrd 47).yd.lines = []
      ∧ (∀ m, m < 48 → (inReset .yrd 47).physSlab m = 47 → m = 47))
    ∧ ((inReset .stk 15).Canonical ∧ (inReset .stk 15).resetting .stk 15 = true)
    ∧ ((inReset .ftg 7).Canonical ∧ (inReset .ftg 7).resetting .ftg 7 = true)
    ∧ ((inReset .brk 10751).Canonical ∧ smSorted (inReset .brk 10751).br = true ∧ 10751 < Blk.brk.insts ∧ (inReset .brk 10751).resetting .brk 10751 = true) := by decide

/-- Core `c` in service, core 0 running and showing itself core `c`. -/
def coreUp (c : Nat) : State := served c (onUnit .trw c)

/-- Core `c` in phase `p` of a restart. -/
def coreIn (c p : Nat) : State := (coreUp c).setF F.TRW_CORE_STATE_PHASE p c

theorem witness_CoresRestart :
    ((coreUp 7).Canonical ∧ (coreUp 6).phase 6 = 0 ∧ (coreUp 6).unit .trw 6 = 3 ∧ (coreUp 6).getF F.TRW_WDT_MS 6 ≤ 10)
    ∧ ((coreUp 6).Canonical ∧ ((coreUp 6).at 5).grants (.trowel 0) A.TRW_CORE_CTRL
      ∧ (coreUp 6).instOf .trw 0x10 (.trowel 0) = some 6)
    ∧ ((coreIn 6 1).Canonical ∧ (coreIn 6 1).phase 6 = 1) ∧ ((coreIn 6 2).Canonical ∧ (coreIn 6 2).phase 6 = 2)
    ∧ ((coreIn 6 3).Canonical ∧ (coreIn 6 3).phase 6 = 3) ∧ ((coreIn 6 4).Canonical ∧ (coreIn 6 4).phase 6 = 4)
    ∧ (({ coreIn 6 4 with tr := { (coreIn 6 4).tr with journal := [⟨6, 3, 0⟩] } } : State).tr.journal.filter fun x => x.core = 6)[0]?
      = some ⟨6, 3, 0⟩ := by decide

/-- Core 6 has restarted `n` times in its window. -/
def looping (n : Nat) : State := (coreUp 6).setF F.TRW_LOOP_COUNT n 6

theorem witness_CoresRetireAndDutiesMove :
    ((looping 15).Canonical ∧ (looping 15).phase 6 ≠ 6 ∧ (looping 15).phase 6 ≠ 5
      ∧ max 1 ((looping 15).getF F.TRW_LOOP_LIMIT_LOOP_COUNT) ≤ (looping 15).getF F.TRW_LOOP_COUNT 6)
    ∧ ((coreUp 6).grants (.trowel 0) A.TRW_CORE_CTRL ∧ (coreUp 6).instOf .trw 0x10 (.trowel 0) = some 6 ∧ (coreUp 6).phase 6 ≠ 5)
    ∧ ((coreUp 6).phase 6 = 0 ∧ (coreUp 6).unit .trw 6 = 3 ∧ (((coreUp 6).dutiesOf 6).filter (· ≠ 3)).length < 2
      ∧ (coreUp 6).tr.lapsed.contains 3 = false)
    ∧ (((coreUp 6).at 9).grants (.trowel 0) (A.KLN_CLK + 4 * 7)
      ∧ clampN 800 2000 ((1500#32).toNat % 4096 / 50 * 50) ≤ (coreUp 6).getF (F.KLN_CLK_CEIL_MHZ.nth 7))
    ∧ ((coreUp 6).at 9).grants (.trowel 0) A.KLN_STK_LEVEL ∧ (coreUp 6).grants (.trowel 0) (A.KLN_SENSFAULT + 4 * 66) := by decide

/-- Link `l` in state `st` with the running device's Trowel core 0 showing itself that link. -/
def linkIn (l st : Nat) : State := (onUnit .qlk l).setF F.QLK_STATE_STATE st l

/-- An up link with what its record says. -/
def linkWith (l : Nat) (x : QLink) : State := (linkIn l 3).setQlink l x

/-- A request that waits or is outstanding: a read of 8 bytes of device 1. -/
def oneRead : QMsg := { top := 1, addr := 2 ^ 52, part := 0, type := 0, len := 8, data := [], use := .ack (.work []) }

/-- A device whose connector `c` holds a cable in state `k`. -/
def cabled (c : Nat) (k : Cable) : State := (onUnit .qlk (8 * c)).setCable c k

theorem witness_LinksGoDown :
    (linkIn 63 1).linkState 63 = 1 ∧ (linkIn 0 2).linkState 0 = 2
    ∧ ((linkWith 5 { ({} : QLink) with retraining := true, retrains := 2 }).qlink 5).retraining = true
    ∧ (linkIn 5 3).linkUp 5 = true ∧ (linkIn 5 4).linkUp 5 = true
    ∧ ((linkWith 5 { ({} : QLink) with waiting := [oneRead], usedH := 512 }).takes 5 = true
      ∧ ((linkWith 5 { ({} : QLink) with waiting := [oneRead], usedH := 512 }).qlink 5).creditH = 0
      ∧ max 1 ((linkWith 5 { ({} : QLink) with waiting := [oneRead], usedH := 512 }).getF F.QLK_TMO_CRED_TMO 5) ≤ 65536)
    ∧ ((linkWith 5 { ({} : QLink) with sent := [(7, oneRead)] }).takes 5 = true
      ∧ (7, oneRead) ∈ ((linkWith 5 { ({} : QLink) with sent := [(7, oneRead)] }).qlink 5).sent
      ∧ max 1 ((linkIn 5 3).getF F.QLK_TMO_RSP_TMO 5) ≤ 65536)
    ∧ (2 ^ 32 ≤ ((linkWith 5 { ({} : QLink) with framesRx := 2 ^ 32 }).qlink 5).framesRx)
    ∧ ((linkIn 5 3).grants (.trowel 0) A.QLK_CTRL ∧ (linkIn 5 3).instOf .qlk (A.QLK_CTRL / 0x1000) (.trowel 0) = some 5
      ∧ (linkIn 5 3).linkState 5 ≠ 5)
    ∧ (cabled 0 .powered).cable 0 = .powered ∧ (cabled 0 .tripped).cable 0 ≠ .absent
    ∧ ((linkIn 63 3).Canonical ∧ ((linkIn 63 3).qlink 63).sent = [] ∧ ((linkIn 63 3).qlink 63).waiting = []
      ∧ (linkIn 63 3).lk.held = [])
    ∧ ((cabled 7 .powered).Canonical ∧ smSorted (cabled 7 .powered).pw.cables = true ∧ (cabled 7 .powered).lk.links = []
      ∧ (cabled 7 .powered).lk.held = [] ∧ (cabled 7 .powered).cable 7 = .powered) := by decide

/-- Link `l` in KEYING, its exchange at step bits `k`, its peer device 1, this device number `d`. -/
def keying (l k d : Nat) : State :=
  { (((linkIn l 2).setQlink l { ({} : QLink) with kx := k }).setF F.QLK_STATE_PEER_DEV 1 l) with
    dv := { running.dv with devNum := d } }

theorem witness_LinksComeUp :
    (running.cable 7 = .absent ∧ running.dutyServed 2 = false)
    ∧ ((served 2 (onUnit .qlk 56)).Canonical ∧ (served 2 (onUnit .qlk 56)).cable 7 = .absent
      ∧ (served 2 (onUnit .qlk 56)).dutyServed 2 = true ∧ (served 2 (onUnit .qlk 56)).dv.st ≠ .boot
      ∧ (served 2 (onUnit .qlk 56)).lk.unread = [] ∧ 63 ∈ (served 2 (onUnit .qlk 56)).connLinks 7
      ∧ (served 2 (onUnit .qlk 56)).linkState 63 = 0 ∧ (served 2 (onUnit .qlk 56)).lk.deadQuoins.contains 7 = false)
    ∧ ((cabled 1 .powered).Canonical ∧ (cabled 1 .powered).grants (.trowel 0) A.QLK_CTRL
      ∧ (cabled 1 .powered).instOf .qlk (A.QLK_CTRL / 0x1000) (.trowel 0) = some 8 ∧ (cabled 1 .powered).linkState 8 = 0
      ∧ (cabled 1 .powered).flag F.QLK_CTRL_DISABLE 8 = false ∧ (cabled 1 .powered).cable (8 / 8) = .powered
      ∧ (cabled 1 .powered).lk.deadQuoins.contains (8 / 8) = false)
    ∧ ((linkIn 63 5).Canonical ∧ (linkIn 63 5).grants (.trowel 0) A.QLK_CTRL
      ∧ (linkIn 63 5).instOf .qlk (A.QLK_CTRL / 0x1000) (.trowel 0) = some 63 ∧ (linkIn 63 5).linkState 63 = 5)
    ∧ ((linkIn 63 1).Canonical ∧ (linkIn 63 1).linkState 63 = 1)
    ∧ ((keying 2 1 0).Canonical ∧ (keying 2 1 0).linkState 2 = 2 ∧ nbit ((keying 2 1 0).qlink 2).kx 1 = false
      ∧ 4095 ≠ (keying 2 1 0).dv.devNum ∧ (keying 2 1 0).peerAllowed [1] = true)
    ∧ ((keying 2 3 2).initiator 2 = false ∧ (keying 2 3 2).kxAt 2 3 4 = true ∧ (keying 2 3 2).keystonePaused = false)
    ∧ ((keying 2 7 0).initiator 2 = true ∧ (keying 2 7 0).kxAt 2 7 8 = true)
    ∧ ((keying 2 31 0).Canonical ∧ (keying 2 31 0).kxAt 2 24 0 = true)
    ∧ ((linkIn 5 4).Canonical ∧ (linkIn 5 4).linkUp 5 = true ∧ (linkIn 5 4).flag F.QLK_KEYSTAT_REKEYING 5 = false
      ∧ max 1 ((linkIn 5 4).getF F.QLK_REKEY_REKEY_S 5) ≤ 65536 ∧ (linkIn 5 4).linkStill 5 = false ∧ (linkIn 5 4).keystonePaused = false
      ∧ (linkWith 5 { ({} : QLink) with retraining := true }).linkStill 5 = true) := by decide

theorem witness_FramesAreCarriedOnce :
    ((linkIn 5 3).Canonical ∧ 2 ≤ (linkIn 5 3).linkState 5 ∧ (linkIn 5 3).linkState 5 ≤ 4 ∧ (linkIn 5 3).linkStill 5 = false ∧ 0 = (linkIn 5 3).getF F.QLK_KEYSTAT_RX_EPOCH 5
      ∧ (4095 : Nat) ≠ ((linkIn 5 3).qlink 5).rxNext)
    ∧ ((linkWith 5 { ({} : QLink) with replay := [1, 2, 3] }).Canonical
      ∧ 2 ∈ ((linkWith 5 { ({} : QLink) with replay := [1, 2, 3] }).qlink 5).replay
      ∧ 1 < max 1 ((linkIn 5 3).getF F.QLK_RETRY_NAK_LIMIT 5)
      ∧ max 1 ((linkIn 5 3).getF F.QLK_RETRY_NAK_LIMIT 5) ≤ 255 + 1
      ∧ ((linkWith 5 { ({} : QLink) with replay := [1, 2, 3], naks := 255 }).qlink 5).replay.head? = some 1
      ∧ ((linkWith 5 { ({} : QLink) with replay := [1, 2, 3], naks := 255 }).qlink 5).naks = 255)
    ∧ (((linkWith 5 { ({} : QLink) with retraining := true }).qlink 5).retraining = true
      ∧ (linkWith 5 { ({} : QLink) with retraining := true }).lk.links.all (fun e => e.2 ≠ {}) = true
      ∧ smSorted (linkWith 5 { ({} : QLink) with retraining := true }).lk.links = true)
    ∧ ((linkIn 63 3).linkState 63 = 3)
    ∧ ((linkIn 63 3).grants (.trowel 0) A.QLK_SPARE_CMD
      ∧ (linkIn 63 3).instOf .qlk (A.QLK_SPARE_CMD / 0x1000) (.trowel 0) = some 63
      ∧ (linkIn 63 3).flag F.QLK_SPARE_STAT_BUSY 63 = false ∧ (linkIn 63 3).lk.links = []) := by decide

/-- Yard block `b` is a LAND block of partition `p`. -/
def landBlock (b p : Nat) (s : State) : State :=
  ((s.setF F.YRD_BENTRY_KIND 1 0 b).setFlag F.YRD_BENTRY_OWNED true 0 b).setF F.YRD_BENTRY_OWNER p 0 b

/-- An up link whose import table lets device 1's partition 2 act as partition 0, which owns Yard block 0, and what the classes and
regulators have from Trowel (Tables 9-11 and 10-2). -/
def importing : State := landBlock 0 0 ((linkIn 5 3).setReg A.QLK_IMPORT 0x80088000#32 5 0)

/-- A link with a request outstanding under TID 7. -/
def asking (top : Nat) : State := linkWith 5 { ({} : QLink) with sent := [(7, { oneRead with top := top })] }

theorem witness_RemoteRequestsAreServed :
    (importing.takes 5 = true ∧ importing.remoteCheck 5 1 0 2 yardBase 128 false = .ok 0
      ∧ importing.rangeStatus (.part 0) false yardBase 128 = 0 ∧ importing.anyBad yardBase 128 = false
      ∧ importing.Canonical ∧ importing.atRest ∧ importing.takenAtOnce (.peer 5 9 1 0 0 false) 0 3 (importing.global yardBase)
          { op := 0, addr := yardBase, len := 128 }
      ∧ importing.remoteCheck 5 1 0 2 yardBase 256 false = .ok 0 ∧ importing.rangeStatus (.part 0) true yardBase 256 = 0) ∧
    ((asking 1).takes 5 = true ∧ (asking 1).lk.discard.contains (5, 7) = false
      ∧ ((asking 1).qlink 5).sent.find? (fun e => e.1 = 7) = some (7, oneRead))
    ∧ (((asking 2).qlink 5).sent.find? (fun e => e.1 = 7) = some (7, { oneRead with top := 2 }))
    ∧ ((linkIn 5 3).takes 5 = true ∧ (linkIn 5 3).dv.st ≠ .warmReset ∧ (linkIn 5 3).importFor 5 1 2 = none)
    ∧ ((linkIn 5 3).takes 5 = true ∧ ((linkIn 5 3).qlink 5).mgt = [] ∧ ((linkIn 5 3).qlink 5).answers = []
      ∧ ((linkIn 5 3).qlink 5).replay.length + ((256 + 15) / 16 + 30) / 30 ≤ 1024) := by decide +kernel

/-- A ready stack 0 whose engine 0 holds the descriptor `d`. -/
def stackUp (s : State) : State := s.setF (hdrF .stk 0x0C 31 28) 3 0

def listed (d : Desc) : State :=
  { stackUp running with bk := { ({} : Banks) with lists := [(0, [d])] } }

/-- A pass of kind `k`: one column operation of row 0 of bank 0, lane 0, slot 0, group 0. -/
def passDesc (k : Nat) : Desc :=
  { w0 := k * 2 ^ 60 + (if k = 4 then 5 else 0) * 2 ^ 57 + 2 ^ 49, w1 := 2 ^ 54 + 2 ^ 38, w2 := 0, w3 := 0, part := 0, own := .none }

/-- Bank 0 of stack 0 with the pass waiting, or in it from column `n` on with `h` held accesses. -/
def bankWaits : State := { stackUp running with bk := { ({} : Banks) with work := [(0, [.pass (passDesc 1).pass])] } }

def bankRuns (cols n : Nat) (h : List Held) : State :=
  { stackUp running with bk := { ({} : Banks) with
      runs := [(0, { pass := { (passDesc 1).pass with cols := cols }, next := n, held := h })] } }

/-- Bank 0 of stack 0 in a pass with one write of partition 3 held under ticket 7. -/
def holding : State :=
  let h : Held := ⟨{ op := 1, addr := 5, len := 1, data := [some 9#8] }, 0, 7⟩
  { bankRuns 65 0 [h] with bk := { (bankRuns 65 0 [h]).bk with
      tickets := [{ id := 7, asker := .part 3, addr := 5, len := 0, left := 1 }] } }

theorem witness_PassesTravel :
    (∀ k ∈ [1, 2, 3, 4], smSorted (listed (passDesc k)).bk.lists = true
      ∧ smGet (fun _ => []) (listed (passDesc k)).bk.lists 0 = passDesc k :: []
      ∧ (listed (passDesc k)).groupWaits 0 (passDesc k) = false
      ∧ (listed (passDesc k)).wouldOverdraw (passDesc k).own 1 (passDesc k).pass.cols 4096 = false
      ∧ (listed (passDesc k)).stackServes (passDesc k).stack = true ∧ (passDesc k).kind = k)
    ∧ (bankWaits.runAt (bankKey 0 0) = none ∧ smSorted bankWaits.bk.work = true ∧ bankWaits.paused .stk 0 = false
      ∧ bankWaits.bankWork (bankKey 0 0) = [.pass (passDesc 1).pass] ∧ bankWaits.stackServes 0 = true
      ∧ (bankWaits.at 5).mayActivate (bankKey 0 0) (max bankWaits.now 5) = true
      ∧ (clamped 8).stackClamped 0 = true)
    ∧ (((bankRuns 65 0 []).runAt (bankKey 0 0)).isSome = true ∧ 0 + modeYield 0 < 65 ∧ (bankRuns 65 0 []).yd.waiting = [])
    ∧ (holding.Canonical ∧ (holding.runAt (bankKey 0 0)).map (·.held) = some [⟨{ op := 1, addr := 5, len := 1, data := [some 9#8] }, 0, 7⟩]
      ∧ holding.yd.waiting = [] ∧ holding.anyBad 5 1 = false ∧ (holding.bk.tickets.find? fun x => x.id = 7).isSome = true)
    ∧ ((bankRuns 64 0 []).Canonical ∧ smSorted (bankRuns 64 0 []).bk.runs = true ∧ 64 ≤ 0 + modeYield 0)
    ∧ (smGet (fun _ => 0) (bankRuns 64 0 []).bk.pulled (bankKey 0 0) = 0)
    ∧ (bankWaits.runAt (bankKey 0 0) = none
      ∧ smGet (fun _ => 0) bankWaits.bk.pulled (bankKey 0 0) < min 8 (bankWaits.getF F.STK_REFCTL_PULLIN_MAX 0)) := by decide

/-- `n` activates of different banks of die 0 of stack 0 at time 0, and as many banks in a pass. -/
def crowded (n : Nat) : State :=
  { running with bk := { ({} : Banks) with
      acts := (List.range n).map fun k => (k, 0), runs := (List.range n).map fun k => (k, { pass := (passDesc 1).pass }) } }

/-- 768 activates of one bank at time 0. -/
def busyStack : State := { running with bk := { ({} : Banks) with acts := List.replicate 768 (0, 0) } }

theorem witness_fullMicrosecond :
    768 ≤ (busyStack.bk.acts.filter fun e => e.1 / 1024 = 0 / 1024 && decide (999 < e.2 + 1000)).length := by
  show 768 ≤ ((List.replicate 768 ((0 : Nat), (0 : Nat))).filter _).length
  rw [List.filter_replicate_of_pos (by decide), List.length_replicate]

theorem witness_TimingRulesHold :
    8 ≤ ((crowded 8).bk.acts.filter fun e => dieOf e.1 = dieOf 9 && decide (39 < e.2 + 40)).length
    ∧ ((0, 0) ∈ (crowded 1).bk.acts ∧ dieOf 0 = dieOf 63 ∧ 3 < 0 + 4)
    ∧ 32 ≤ ((crowded 32).bk.runs.filter fun e => dieOf e.1 = dieOf 9).length
    ∧ (clamped 8).stackClamped (0 / 1024) = true
    ∧ ((onUnit .stk 3).Canonical ∧ mayWrite (.trowel 0) 0x201 = true ∧ (onUnit .stk 3).instOf .stk 0x201 (.trowel 0) = some 3
      ∧ ∀ k, k < 5 → (onUnit .stk 3).grants (.trowel 0) (A.STK_TCAW + 4 * k)) := by decide

/-- A LATCH of one BF16 element at 0 for slot 7 of bank 63 of die 15 of stack 0, element 959. -/
def latchDesc : Desc :=
  { w0 := 8 * 2 ^ 60 + 15 * 2 ^ 56 + 2 ^ 55, w1 := 2 ^ 63, w2 := 2 ^ 54 + 959 * 2 ^ 44, w3 := 0, part := 0, own := .none }

/-- Granule 0 belongs to partition 0 and is mutable. -/
def owned (s : State) : State :=
  { s with bk := { s.bk with regions := [(0, 0x2400000000000000)] } }

/-- Every stack is in service. -/
def stacksUp (s : State) : State := (List.range 16).foldl (fun t k => t.setF (hdrF .stk 0x0C 31 28) 3 k) s

def stackOwned : State := owned (stacksUp running)

theorem witness_LatchesAndAccessesReachTheirBank :
    (let s : State := { stacksUp running with bk := { ({} : Banks) with lists := [(0, [latchDesc])] } };
      smSorted s.bk.lists = true ∧ smGet (fun _ => []) s.bk.lists 0 = latchDesc :: [] ∧ s.Canonical ∧ s.memoryOpen
      ∧ latchDesc.kind = 8 ∧ latchDesc.w1 = 2 ^ 63 ∧ smSorted s.bk.latch = true
      ∧ nbits latchDesc.w0 55 48 = 2 ^ 7 ∧ nbits latchDesc.w2 53 44 + nbits latchDesc.w2 63 54 ≤ 960 ∧ 0 < nbits latchDesc.w2 63 54
      ∧ latchDesc.addr + 2 * nbits latchDesc.w2 63 54 ≤ 16 * stackBytes ∧ s.anyBad latchDesc.addr 2 = false)
    ∧ ((stackUp running).rangeStatus (.part 0) true 0 3 ≠ 0 ∧ 0 + 3 ≤ 16 * stackBytes)
    ∧ (stackOwned.Canonical ∧ stackOwned.settledAt 5 3 ∧ stackOwned.rangeStatus (.part 0) true 5 3 = 0
      ∧ stackOwned.rangeStatus (.part 0) false 5 3 = 0 ∧ (∀ w ∈ wordsOf 5 3, stackOwned.ecc w = .clean)
      ∧ (stackOwned.at 4).takenAtOnce (.part 0) 0 6 (stackOwned.global 5) { op := 1, addr := 5, len := 3, data := [some 1, some 2, some 3] }
      ∧ (stackOwned.at 4).takenAtOnce (.part 0) 0 6 (stackOwned.global 5) { op := 0, addr := 5, len := 3, data := [] })
    ∧ ((owned (bankRuns 64 0 [])).rangeStatus (.part 0) false 5 3 = 0
      ∧ ((owned (bankRuns 64 0 [])).runAt ((owned (bankRuns 64 0 [])).bankAt 5)).isSome = true
      ∧ ((owned (bankRuns 64 0 [])).at 0).takenAtOnce (.part 0) 0 6 ((owned (bankRuns 64 0 [])).global 5)
          { op := 0, addr := 5, len := 3, data := [] }) := by decide +kernel

/-- A device whose link takes an RADD of device 1 to stack memory that partition 0 owns. -/
def remoteAdding : State := owned (stacksUp importing)

/-- Whichever slab serves its line, it takes it at once. -/
theorem witness_remoteAddEverySlab : ∀ sl, sl < 48 → remoteAdding.yardMay
    { asker := .peer 5 8 1 1 0 false, part := 0, cls := 3, slab := sl, ga := remoteAdding.global 8,
      acc := { op := 2, addr := 8, len := 4, type := 0, data := [1, 2, 3, 4].map some }, since := remoteAdding.now } = true := by
  decide +kernel

theorem witness_remoteAddChecks : remoteAdding.Canonical ∧ remoteAdding.memoryOpen ∧ remoteAdding.remoteCheck 5 1 0 2 8 4 false = .ok 0
    ∧ addFits 0 8 4 = true ∧ remoteAdding.rangeStatus (.part 0) true 8 4 = 0 ∧ remoteAdding.anyBad 8 4 = false := by decide +kernel

theorem witness_remoteAdd : remoteAdding.takenAtOnce (.peer 5 8 1 1 0 false) 0 3 (remoteAdding.global 8)
    { op := 2, addr := 8, len := 4, type := 0, data := [1, 2, 3, 4].map some } := by
  have h : remoteAdding.slabOf (remoteAdding.global 8) = slabOfLine (remoteAdding.global 8 / 64) := by
    simp only [State.slabOf]
    exact if_neg (by decide +kernel)
  refine ⟨rfl, ?_⟩
  rw [h]
  exact witness_remoteAddEverySlab _ (Nat.mod_lt _ (by decide))

/-- A GROUP_OPEN of index 255 in stack 0: `n` outputs of 8 slots, two contributions, sent to `DEST` 0. -/
def groupDesc (n : Nat) : Desc :=
  { w0 := 9 * 2 ^ 60 + 255 * 2 ^ 48, w1 := n * 2 ^ 48 + 2 * 2 ^ 40 + 255, w2 := 0, w3 := 0, part := 0, own := .none }

/-- One contribution of lane 31 of block 0 to group `k`. -/
def oneSum (k : Nat) : Contrib :=
  { group := k, outBase := 31, lanes := 1, slots := 1, sums := [(248, 0x3F800000)], bad := false, own := .none }

def gathering : State :=
  { stackUp running with bk := { ({} : Banks) with groups := [(255, (groupDesc 32).group)], arriving := [oneSum 255] } }

theorem witness_GroupsReduce :
    (smGet (fun _ => []) (listed (groupDesc 65535)).bk.lists 0 = groupDesc 65535 :: [] ∧ (groupDesc 65535).kind = 9
      ∧ (listed (groupDesc 65535)).stackServes (groupDesc 65535).stack = true
      ∧ (listed (groupDesc 65535)).groupAt 255 = none ∧ (listed (groupDesc 65535)).bk.waiting = []
      ∧ (listed (groupDesc 65535)).bufferUsed 0 + (groupDesc 65535).group.space ≤ 4 * 2 ^ 20
      ∧ 4 * 2 ^ 20 < ({ listed (groupDesc 65535) with bk := { (listed (groupDesc 65535)).bk with
          groups := [(253, (groupDesc 65535).group), (254, (groupDesc 32).group)] } } : State).bufferUsed 0 + (groupDesc 65535).group.space
      ∧ (groupDesc 65535).stack = 0)
    ∧ ((255, (groupDesc 32).group) ∈ [(255, (groupDesc 32).group)]
      ∧ ({ running with bk := { ({} : Banks) with waiting := [(255, (groupDesc 32).group)] } } : State).nextOpen 0
          = some (255, (groupDesc 32).group) ∧ running.paused .stk 0 = false)
    ∧ (gathering.bk.arriving[0]? = some (oneSum 255) ∧ gathering.groupAt 255 = some (groupDesc 32).group
      ∧ (oneSum 255).discarded (groupDesc 32).group = false ∧ (oneSum 255).blocks = [0]
      ∧ smGet (fun _ => 0) (groupDesc 32).group.count 0 + 1 < (groupDesc 32).group.contrib
      ∧ (oneSum 255).sums.filter (fun e => e.1 = 248) = [(248, 0x3F800000)])
    ∧ (oneSum 255).discarded (groupDesc 31).group = true ∧ (bankWaits.groupAt 255 = none) := by decide

/-- A merge entry of line 0 with one byte. -/
def merging : State := { stackOwned with bk := { stackOwned.bk with merge := [⟨0, [(63, 7)], [.none]⟩] } }

theorem witness_MemorySideWrites :
    (stackOwned.Canonical ∧ stackOwned.memoryOpen ∧ addFits 1 6 [0x80, 0x3F, 0x80, 0x3F].length = true
      ∧ stackOwned.rangeStatus (.part 0) true 6 4 = 0 ∧ (∀ w ∈ wordsOf 6 4, stackOwned.ecc w = .clean)
      ∧ stackOwned.takenAtOnce (.part 0) 0 6 (stackOwned.global 6)
          { op := 2, addr := 6, len := 4, type := 1, data := [0x80, 0x3F, 0x80, 0x3F].map some })
    ∧ (addFits 0 6 4 = false ∧ addFits 0 (16 * stackBytes) 4 = false)
    ∧ (merging.Canonical ∧ merging.bk.merge.find? (fun f => f.line = 0) = some ⟨0, [(63, 7)], [.none]⟩
      ∧ smSorted [((63 : Nat), (7 : Byte))] = true ∧ merging.anyBad (0 * 64) 64 = false
      ∧ merging.bk.runs = [] ∧ merging.bk.work = [] ∧ merging.bk.queued = [] ∧ merging.anyPaused = false
      ∧ ∀ k, k < 16 → merging.stackServes k = true)
    ∧ stackOwned.settledAt 5 3 := by decide +kernel

/-- A device whose Trowel core 0 shows itself granule `g`. -/
def granuleOf (g : Nat) : State := (served 0 running).setF F.REG_INDEX_GRANULE g 0 64

theorem witness_RegionTableCommits :
    (∀ a ∈ [A.REG_INDEX, A.REG_ENTRY_LO, A.REG_ENTRY_HI], (granuleOf 24575).grants (.trowel 0) a)
    ∧ mayWrite (.trowel 0) 0x100 = true ∧ (granuleOf 24575).Canonical
    ∧ ((granuleOf 24575).getF F.REG_INDEX_GRANULE 0 (reqCode (.trowel 0)) < (granuleOf 24575).granules)
    ∧ ((granuleOf 24575).regGate (.trowel 0) A.REG_ENTRY_LO 8 true = some 0
      ∧ (granuleOf 24575).lockedFor (.trowel 0) 0x100 = false
      ∧ (granuleOf 24575).commitRefused 24575 ((granuleOf 24575).commitValue (.trowel 0) 24575 0 0x20000000) = false
      ∧ nbit ((granuleOf 24575).regionRaw 24575) 58 = false
      ∧ nbits ((granuleOf 24575).regionRaw 24575) 57 53
          = nbits ((granuleOf 24575).commitValue (.trowel 0) 24575 0 0x20000000) 57 53
      ∧ smSorted (granuleOf 24575).bk.regions = true)
    ∧ ((granuleOf 0).commitRefused 0 ((granuleOf 0).commitValue (.trowel 0) 0 0 0x30000000) = true)
    ∧ ((owned (granuleOf 0)).commitRefused 0 ((owned (granuleOf 0)).commitValue (.trowel 0) 0 0 0x20000000) = false
      ∧ nbit ((owned (granuleOf 0)).regionRaw 0) 58 = true
      ∧ nbit ((owned (granuleOf 0)).commitValue (.trowel 0) 0 0 0x20000000) 58 = false)
    ∧ (({ running with bk := { ({} : Banks) with fills := [(3, 0x2000000000000000)] } } : State).bk.fills.find? fun f => f.1 = 3)
        = some (3, 0x2000000000000000) := by decide

theorem witness_AbsentGranulesReadZero :
    (granuleOf 24576).granules ≤ (granuleOf 24576).getF F.REG_INDEX_GRANULE 0 (reqCode (.trowel 0))
    ∧ ({ granuleOf 18432 with dv := { running.dv with gradeC := true } } : State).granules
        ≤ (granuleOf 18432).getF F.REG_INDEX_GRANULE 0 (reqCode (.trowel 0)) := by decide

/-- A stack that trains. -/
def inTraining (st : Nat) (d : DevState) : State :=
  { running.setFlag F.STK_TRAIN_START true st with dv := { running.dv with st := d } }

/-- A repair of the last row of the last bank of stack 15 runs. -/
def inRepair : State :=
  { running with bk := { ({} : Banks) with repair := [(15, 2 ^ 28 + 15 * 2 ^ 24 + 63 * 2 ^ 18 + 65535 + 1)] } }

theorem witness_StacksTrainAndRepair :
    ((onUnit .stk 15).Canonical ∧ (onUnit .stk 15).grants (.trowel 0) A.STK_RPR_CMD
      ∧ (onUnit .stk 15).instOf .stk (A.STK_RPR_CMD / 0x1000) (.trowel 0) = some 15
      ∧ (onUnit .stk 15).flag F.STK_RPR_STAT_BUSY 15 = false
      ∧ smGet (fun _ => 0) (onUnit .stk 15).bk.rowSpares (bankKey 15 (15 * 64 + 63)) < 96
      ∧ 0 < ((onUnit .stk 15).setF F.STK_SPARE_BANKS_LEFT 0xFFFFFFFF 15).bankSpares 15 15
      ∧ ((onUnit .stk 15).setF F.STK_SPARE_BANKS_LEFT 0 15).bankSpares 15 15 = 0)
    ∧ (inRepair.Canonical
      ∧ inRepair.bk.repair.find? (fun e => e.1 = 15) = some (15, 2 ^ 28 + 15 * 2 ^ 24 + 63 * 2 ^ 18 + 65535 + 1)
      ∧ inRepair.runAt (bankKey 15 (15 * 64 + 63)) = none)
    ∧ ((onUnit .stk 15).grants (.trowel 0) A.STK_TRAIN
      ∧ (onUnit .stk 15).instOf .stk (A.STK_TRAIN / 0x1000) (.trowel 0) = some 15
      ∧ (onUnit .stk 15).flag F.STK_TRAIN_START 15 = false ∧ (onUnit .stk 15).stackServes 15 = false)
    ∧ ((inTraining 15 .ready).Canonical ∧ (inTraining 15 .ready).flag F.STK_TRAIN_START 15 = true)
    ∧ ((inTraining 0 .bringup).Canonical ∧ (inTraining 0 .bringup).flag F.STK_TRAIN_START 0 = true) := by decide

/-- A device that serves the Footing duty, its Trowel core 0 showing itself entry `i`, which is in state `st`. -/
def imaging (i st : Nat) : State :=
  let s := (served 4 (served 0 running)).setF F.FTG_IMG_IDX_IMAGE i 0 64
  { s with ftg := { ({} : Footing) with dir := if st = 0 then [] else [(i, { ({} : Image) with state := st, kind := 3 })] } }

theorem witness_ImagesLive :
    (∀ st ∈ [0, 1, 3], (imaging 63 st).grants (.trowel 0) A.FTG_IMG_CMD
      ∧ (imaging 63 st).idx F.FTG_IMG_IDX_IMAGE (.trowel 0) = 63 ∧ smSorted (imaging 63 st).ftg.dir = true
      ∧ ((imaging 63 st).image 63).busy = false ∧ (imaging 63 st).dutyServed 4 = true ∧ ((imaging 63 st).image 63).state = st)
    ∧ mayWrite (.trowel 0) 0x40 = true
    ∧ ((imaging 63 0).footingUsed + (imaging 63 0).imageSize 63 ≤ footingCapacity ∧ (imaging 63 0).getF F.FTG_STATE_STORE ≠ 3
      ∧ ((imaging 63 0).setF F.FTG_STATE_STORE 3).getF F.FTG_STATE_STORE = 3)
    ∧ (imaging 63 3).imageInUse 63 = false
    ∧ ({ imaging 63 3 with sv := { ({} : Serving) with mslots := [(0, { ({} : MSlot) with st := 2, image := 63 })] } } : State).imageInUse
        63 = true
    ∧ (running.dutyServed 4 = false ∧ running.dv.romRecovery = false
      ∧ (running.image (running.idx F.FTG_IMG_IDX_IMAGE (.trowel 0))).busy = false)
    ∧ (((imaging 63 2).image 63).state = 2 ∧ (imaging 63 2).Canonical ∧ (imaging 63 2).keystonePaused = false) := by decide

/-- The bytes of a firmware image of one Trowel section: header, one section entry, a component record. -/
def frxBytes : List (Nat × Byte) :=
  ((([(0, 4, 0x31585246), (4, 2, 1), (6, 1, 3), (7, 1, 1), (20, 4, 0x01000000), (64, 1, 8), (72, 8, 8192), (80, 8, 256),
    (8192, 1, 0)] : List (Nat × Nat × Nat)).flatMap fun f => (leBytes f.2.2 f.2.1).zipIdx.map fun b => (f.1 + b.2, b.1)).filter
      fun e => e.2 ≠ 0#8)

/-- A sealing firmware image of those bytes. -/
def sealing : State :=
  { imaging 63 2 with ftg := { (imaging 63 2).ftg with data := frxBytes.map fun e => (63 * 2 ^ 44 + e.1, e.2) } }

theorem witness_sealing :
    (sealing.image 63).state = 2 ∧ sealing.keystonePaused = false ∧ (sealing.image 63).badDie = false ∧ frxLayoutOk (sealing.payload 63) (sealing.image 63).kind = true
    ∧ sealing.signerOk (sealing.payload 63) (sealing.image 63).kind (sealing.image 63).owner = true := by decide +kernel

theorem witness_sealingComponent : componentOk (sealing.payload 63) = true := by decide +kernel

theorem witness_FootingKeepsItsMedia :
    ((imaging 0 1).reachesRegs (.trowel 0) = true ∧ inStaging (0xE0000000000 + 4095) [7].length = true
      ∧ (imaging 0 1).stageAt (reqCode (.trowel 0)) (0xE0000000000 + 4095) = (0, 4095) ∧ 4095 % 4096 + [7].length ≤ 4096
      ∧ ((imaging 0 1).image 0).state = 1 ∧ smSorted (imaging 0 1).ftg.data = true
      ∧ (imaging 0 1).ftg.programmed.contains (0 * 2 ^ 32 + 4095 / 4096) = false
      ∧ (imaging 0 1).stagingRoom (0 * 2 ^ 32 + 4095 / 4096) = true
      ∧ ((imaging 0 3).image ((imaging 0 3).stageAt (reqCode (.trowel 0)) 0xE0000000000).1).state ≠ 1)
    ∧ ({ imaging 0 1 with ftg := { (imaging 0 1).ftg with programmed := [0] } } : State).ftg.programmed.contains
        (0 * 2 ^ 32 + 4095 / 4096) = true
    ∧ (((imaging 0 1).setF F.FTG_STATE_STORE 2).Canonical ∧ ((imaging 0 1).setF F.FTG_STATE_STORE 2).dutyServed 4 = true
      ∧ ((imaging 0 1).setF F.FTG_STATE_STORE 2).getF F.FTG_STATE_STORE = 2
      ∧ ((imaging 0 1).setF F.FTG_STATE_STORE 2).getF F.FTG_REFRESH_BITS_REFRESH_BITS < 256)
    ∧ (((imaging 0 1).setF F.FTG_SPARE_BLOCKS 1).Canonical ∧ ((imaging 0 1).setF F.FTG_SPARE_BLOCKS 1).getF F.FTG_SPARE_BLOCKS = 0 + 1
      ∧ 0 < ((imaging 0 1).setF F.FTG_SPARE_LOW_BLOCKS 1).getF F.FTG_SPARE_LOW_BLOCKS)
    ∧ ((imaging 0 1).Canonical ∧ ((imaging 0 1).image 0).state ≠ 0) := by decide

/-- Brick `n` as `b`. -/
def bricked (n : Nat) (b : Brick) : State := { running with br := [(n, b)] }

/-- A work item of step 1. -/
def oneItem : BRun := { step := 1, item := 0, seqs := [0], part := 0, trap := false }

/-- A `TMUL` of one row issued in cycle 6 whose footprint is the whole Bed. -/
def reader : Job := { ins := ⟨2 * 2 ^ 58 + 2 ^ 32, 0, 0, 0⟩, eng := 0, t0 := 6, lo := 0, hi := 2 ^ 19 - 1 }

theorem witness_BricksMapAndReceive :
    (((bricked 0 {}).brick 0).nextMove = none ∧ ((bricked 0 {}).brick 0).readsIn (2 ^ 19 - 1) 1 = false)
    ∧ ((bricked 0 { ({} : Brick) with jobs := [reader] }).brick 0).readsIn (2 ^ 19 - 1) 1 = true
    ∧ (((bricked 0 { ({} : Brick) with jobs := [reader] }).brick 0).nextMove).all (fun m => 8 ≤ m.1) = true
    ∧ (let s := bricked 0 { ({} : Brick) with inbound := [{ off := 0, data := [1, 2], held := true }] };
      s.Canonical ∧ smSorted s.br = true ∧ (s.brick 0).inbound[0]? = some { off := 0, data := [1, 2], held := true }
      ∧ (s.brick 0).readsIn 0 2 = false ∧ s.anyBad (bedAddr 0 0) 2 = false ∧ ((s.brick 0).run.bind fun r => r.stopAt) = none)
    ∧ (let s := bricked 0 { ({} : Brick) with jobs := [reader], inbound := [{ off := 2 ^ 19 - 1, data := [1], held := true }] };
      (s.brick 0).readsIn (2 ^ 19 - 1) 1 = true ∧ ((s.brick 0).nextMove).all (fun m => 8 ≤ m.1) = true)
    ∧ ({ bricked 0 { ({} : Brick) with clk := 4 } with pt := { ({} : Part) with clearing := [0] } } : State).pt.clearing.contains 0 = true
    ∧ ((bricked 0 { ({} : Brick) with run := some oneItem, queues := [[⟨0, 0, 0, 0⟩], [], [], []] }).brick 0).run = some oneItem
    ∧ (((bricked 0 { ({} : Brick) with run := some oneItem, queues := [[⟨0, 0, 0, 0⟩], [], [], []] }).brick 0).queues.getD 0 []) ≠ []
    ∧ running.getF F.BRK_ISSUE_TMO_US 0 < 2 ^ 20 ∧ running.anyPaused = false
    ∧ (quietBrick.Canonical ∧ (quietBrick.brick 7).run = none ∧ quietBrick.unit .brk 7 = 3)
    ∧ (quietBrick.grants (.trowel 0) A.BRK_MAP_CMD ∧ quietBrick.instOf .brk (A.BRK_MAP_CMD / 0x1000) (.trowel 0) = some 7
      ∧ smSorted quietBrick.bm.phys = true ∧ 7 / 1280 = 7 / 1344 ∧ quietBrick.physOf 7 = some 7
      ∧ quietBrick.brickIdle 7 = true ∧ quietBrick.logicalOf 7 = some 7)
    ∧ ((onUnit .brk 7).brickIdle 7 = false ∧ (onUnit .brk 7).logicalOf 7 = some 7
      ∧ (onUnit .brk 7).grants (.trowel 0) A.BRK_MAP_CMD ∧ (onUnit .brk 7).instOf .brk (A.BRK_MAP_CMD / 0x1000) (.trowel 0) = some 7) := by
  decide

/-- Brick 7 runs a work item whose only instruction is `w`, with registers x1 to x3. -/
def coreAt (w : Nat) (x1 x2 x3 : Nat) : State :=
  bricked 7 { ({} : Brick) with run := some oneItem, code := [w], x := [(1, x1), (2, x2), (3, x3)] }

/-- A word of format R: `RD` x3, `RS1` x1, `RS2` x2. -/
def wordR (funct : Nat) : Nat := 3 * 2 ^ 21 + 1 * 2 ^ 16 + 2 * 2 ^ 11 + funct

/-- A word of format I: `RD` x3, `RS1` x1, `IMM`. -/
def wordI (op imm : Nat) : Nat := op * 2 ^ 26 + 3 * 2 ^ 21 + 1 * 2 ^ 16 + imm

theorem witness_MasonComputes :
    (∀ f ∈ [0, 1, 2, 3, 4, 5, 6, 7, 8, 9, 0xA, 0xB, 0xC, 0xD, 0x10, 0x11, 0x12, 0x13, 0x14, 0x15, 0x16],
      (coreAt (wordR f) 0x80000000 0xFFFFFFFF 0).masonAt 7 (wordR f) oneItem ∧ mOp (wordR f) = 0 ∧ mFunct (wordR f) = f)
    ∧ (∀ op ∈ [1, 2, 3, 4, 5, 6], (coreAt (wordI op 0xFFFF) 5 0 0).masonAt 7 (wordI op 0xFFFF) oneItem
      ∧ mOp (wordI op 0xFFFF) = op)
    ∧ (∀ op ∈ [7, 8, 9], (coreAt (wordI op 31) 5 0 0).masonAt 7 (wordI op 31) oneItem ∧ mOp (wordI op 31) = op)
    ∧ ((coreAt (0x0A * 2 ^ 26 + 3 * 2 ^ 21 + 0xFFFF) 5 0 0).masonAt 7 (0x0A * 2 ^ 26 + 3 * 2 ^ 21 + 0xFFFF) oneItem)
    ∧ (((bricked 7 { ({} : Brick) with run := some oneItem, pend := [⟨31, 5, 3, 1⟩], clk := 3 }).brick 7).pend = [⟨31, 5, 3, 1⟩]
      ∧ smSorted (bricked 7 { ({} : Brick) with run := some oneItem, pend := [⟨31, 5, 3, 1⟩], clk := 3 }).br = true) := by
  simp only [State.masonAt]; decide

/-- Results by hand: the corners of R138 and the signed forms. -/
theorem test_masonArithmetic :
    mDiv 0x80000000 0xFFFFFFFF = 0x80000000 ∧ mRem 0x80000000 0xFFFFFFFF = 0 ∧ mDiv 7 0 = 0xFFFFFFFF ∧ mRem 7 0 = 7
    ∧ mDiv 0xFFFFFFF9 2 = 0xFFFFFFFD ∧ mRem 0xFFFFFFF9 2 = 0xFFFFFFFF ∧ mSra 0x80000000 31 = 0xFFFFFFFF := by decide

/-- A word of a load, a store or a branch: bits [25:21] x3, [20:16] x1. -/
def masonWords : List Nat :=
  [0x10, 0x11, 0x12, 0x13, 0x14, 0x18, 0x19, 0x1A, 0x20, 0x21, 0x22, 0x23, 0x24, 0x25].map fun op => wordI op 0xFFFC

theorem witness_MasonLoadsStoresBranches :
    (∀ w ∈ masonWords, (coreAt w 4 0 9).masonAt 7 w oneItem)
    ∧ ((coreAt (0x26 * 2 ^ 26 + 3 * 2 ^ 21 + 0x8000) 4 0 9).masonAt 7 (0x26 * 2 ^ 26 + 3 * 2 ^ 21 + 0x8000) oneItem)
    ∧ ((coreAt (wordI 0x27 4) 4 0 9).masonAt 7 (wordI 0x27 4) oneItem)
    ∧ (∀ a ∈ [(4, 0), (0x10003, 0xFFFF), (0x80004, 0x80000), (0x100003, 0xFFFFF), (0x100004, 0x100000), (0x100143, 0x10013F)],
        ((coreAt (wordI 0x13 0xFFFC) a.1 0 9).brick 7).eaddr (wordI 0x13 0xFFFC) = a.2)
    ∧ ((coreAt (wordI 0x10 0xFFFC) 0x80004 0 9).Canonical
      ∧ (coreAt (wordI 0x10 0xFFFC) 0x80004 0 9).anyBad (bedAddr 7 0) 4 = false
      ∧ ((coreAt (wordI 0x10 0xFFFC) 0x80004 0 9).brick 7).outstanding = []) := by
  simp only [State.masonAt]; decide

/-- The words of a push, a wait and the end. -/
def pushWords : List Nat :=
  [0x30 * 2 ^ 26 + 3 * 2 ^ 21 + 1 * 2 ^ 16 + 3 * 2 ^ 13, 0x31 * 2 ^ 26 + 3 * 2 ^ 18, 0x32 * 2 ^ 26 + 5 * 2 ^ 18, 0x38 * 2 ^ 26 + 63,
    0x39 * 2 ^ 26 + 3 * 2 ^ 18, 0x3A * 2 ^ 26 + 0xFFFF, 0x3F * 2 ^ 26]

/-- A core with its engines' queues and FIFOs full of entries that end no stream. -/
def jammed (w : Nat) (last : Nat) : State :=
  bricked 7 { ({} : Brick) with
    run := some oneItem, code := [w], queues := List.replicate 4 (List.replicate 16 ⟨0, 0, 0, 0⟩)
    fifos := List.replicate 6 (List.replicate 32 ⟨last, 0, 0, 0, 0⟩) }

theorem witness_MasonPushesAndWaits :
    (∀ w ∈ pushWords, (coreAt w 0 0 9).masonAt 7 w oneItem ∧ (jammed w 0).masonAt 7 w oneItem)
    ∧ (((coreAt 0 0 0 9).brick 7).queueFull 3 = false ∧ ((jammed 0 0).brick 7).queueFull 3 = true
      ∧ inData (((coreAt 0 0 0 9).brick 7).maddr 0) 8 = true ∧ inData 0x10000 8 = false ∧ inData (((jammed 0 0).brick 7).maddr 0) 32 = true
      ∧ ((coreAt 0 0 0 9).brick 7).dataClean 0 32
      ∧ smWf (fun _ => (0 : Byte)) ((coreAt 0 0 0 9).brick 7).dmem = true ∧ smWf syndDefault ((coreAt 0 0 0 9).brick 7).dsynd = true
      ∧ ((((coreAt 0 0 0 9).brick 7).dataFlip 0 3).dataEcc 0).bad = true
      ∧ 32 ≤ (((jammed 0 0).brick 7).fifos.getD 5 []).length ∧ (((jammed 0 (2 ^ 61)).brick 7).fifos.getD 5 []).any SDesc.last = true
      ∧ (((jammed 0 0).brick 7).fifos.getD 5 []).any SDesc.last = false)
    ∧ (∀ k ∈ bitsOf 63 6, (((coreAt 0 0 0 9).brick 7).condSince k).isSome = true)
    ∧ (((jammed 0 0).brick 7).condSince 0 = none ∧ (((jammed 0 0).brick 7).queues.getD 3 []) ≠ [])
    ∧ (((coreAt (11 * 2 ^ 26) 0 0 9).brick 7).code[((coreAt (11 * 2 ^ 26) 0 0 9).brick 7).pc]? = some (11 * 2 ^ 26)
      ∧ mLegal (11 * 2 ^ 26) = false) := by
  simp only [State.masonAt]; decide

/-- Brick 7 with instruction `w` at the head of engine `e`'s queue, and a stream of one descriptor in each FIFO listed. -/
def engineWith (e w : Nat) (fifos : List (List SDesc)) (b : Brick) : State :=
  bricked 7 { b with run := some oneItem, queues := ([[], [], [], []] : List (List EIns)).set e [⟨w, 0, 1, 0⟩], fifos := fifos }

/-- A one-descriptor stream of `count` units from `base` of a space, `step` apart. -/
def streamOf (space base count step : Nat) : List SDesc :=
  [⟨space * 2 ^ 62 + 2 ^ 61 + base, step * 2 ^ 32 + count * 2 ^ 16, 1 * 2 ^ 16, 0, 0⟩]

def tmulWord : Nat := 2 * 2 ^ 58 + 2 ^ 52 + 3 * 2 ^ 32 + 1023 * 2 ^ 22 + 2 * 2 ^ 11
def mvmulWord : Nat := 5 * 2 ^ 58 + 0x81 * 2 ^ 47 + 2 ^ 46 + 1 * 2 ^ 30 + 2 * 2 ^ 20 + 2 ^ 19 + 510 * 2 ^ 10

/-- A `TLOAD` of bank 1 from the last 1,024 bytes of the Bed. -/
def tloadWord : Nat := 2 ^ 58 + 2 ^ 57 + (2 ^ 19 - 1024)

theorem witness_TileAndMatrixVector :
    ((engineWith 0 tloadWord [[], [], [], [], [], []] {}).engineAt 7 0 0 ⟨tloadWord, 0, 1, 0⟩ oneItem
      ∧ (engineWith 0 tloadWord [[], [], [], [], [], []] {}).Canonical ∧ nbits tloadWord 63 58 = 1
      ∧ nbits tloadWord 18 0 + bankBytes 0 ≤ 2 ^ 19
      ∧ (engineWith 0 tloadWord [[], [], [], [], [], []] {}).anyBad (bedAddr 7 (nbits tloadWord 18 0)) (bankBytes 0) = false)
    ∧ ((engineWith 0 tmulWord [streamOf 0 64 3 32, [], [], [], [], []] {}).engineAt 7 0 0 ⟨tmulWord, 0, 1, 0⟩ oneItem
      ∧ takeStream (streamOf 0 64 3 32) = some (streamOf 0 64 3 32, []) ∧ streamOk (streamOf 0 64 3 32) [0] 3 32 32 = true
      ∧ tilePair 0 0 = true ∧ ({} : Brick).presentIn (footprint (streamOf 0 64 3 32) 32) = true
      ∧ (streamOf 0 64 3 32).all (fun d => d.ready ≤ 0) = true ∧ 3 ≤ 2 + 2
      ∧ (∀ u ∈ unitsOf (streamOf 0 64 3 32),
          (engineWith 0 tmulWord [streamOf 0 64 3 32, [], [], [], [], []] {}).anyBad (bedAddr 7 u) 32 = false)) := by
  simp only [State.engineAt]; decide +kernel

theorem witness_MatrixVector :
    (engineWith 1 (3 * 2 ^ 58 + 0x81 * 2 ^ 50 + 2 ^ 38 + 2047 * 2 ^ 27) [[], [], [], [], [], []] {}).engineAt 7 1 0
        ⟨3 * 2 ^ 58 + 0x81 * 2 ^ 50 + 2 ^ 38 + 2047 * 2 ^ 27, 0, 1, 0⟩ oneItem
    ∧ (engineWith 1 (4 * 2 ^ 58 + 2 ^ 57 + 16 * 2 ^ 16) [[], [], [], [], [], []] {}).engineAt 7 1 0
        ⟨4 * 2 ^ 58 + 2 ^ 57 + 16 * 2 ^ 16, 0, 1, 0⟩ oneItem
    ∧ ((engineWith 1 mvmulWord [[], streamOf 0 0 2 64, [], [], [], []] {}).engineAt 7 1 0 ⟨mvmulWord, 0, 1, 0⟩ oneItem
      ∧ streamOk (streamOf 0 0 2 64) [0] (2 * 1) (packBytes 0 64) (packBytes 0 64) = true ∧ 510 + 2 ≤ 512
      ∧ nbits mvmulWord 54 47 = 0x81 ∧ nbits mvmulWord 29 20 = 2 ∧ nbits mvmulWord 34 30 = 1 ∧ nbits mvmulWord 18 10 = 510
      ∧ nbits mvmulWord 9 0 = 0
      ∧ (∀ u ∈ unitsOf (streamOf 0 0 2 64),
          (engineWith 1 mvmulWord [[], streamOf 0 0 2 64, [], [], [], []] {}).anyBad (bedAddr 7 u) (packBytes 0 64) = false))
    ∧ (engineWith 1 mvmulWord [[], streamOf 0 0 2 64, [], [], [], []] { ({} : Brick) with mvDst := 1 }).engineAt 7 1 0
        ⟨mvmulWord, 0, 1, 0⟩ oneItem := by
  simp only [State.engineAt]; decide +kernel

theorem witness_MalformedHead :
    ∀ e ∈ [0, 1, 2, 3], (engineWith e (63 * 2 ^ 58) [[], [], [], [], [], []] {}).engineAt 7 e 0 ⟨63 * 2 ^ 58, 0, 1, 0⟩ oneItem
      ∧ engineWord e (63 * 2 ^ 58) = false := by
  simp only [State.engineAt]; decide +kernel

/-- A `VOP` of function `f` on 64 elements of the Bed, FP32. -/
def vopWord (f : Nat) : Nat := 6 * 2 ^ 58 + f * 2 ^ 52 + 2 ^ 50 + 64 * 2 ^ 22

/-- Brick 7 with that `VOP` at its vector queue's head, its streams and rows of 64 elements set. -/
def vopAt (f : Nat) : State :=
  engineWith 2 (vopWord f)
    [[], [], streamOf 0 0 1 0, if f = 0x14 then streamOf 3 5 1 0 else if f = 0x13 then streamOf 0 8 1 0 else streamOf 0 256 1 0, [], []]
    { ({} : Brick) with pblock := List.replicate 16 0 ++ [64, 0] }

theorem witness_VectorUnit : (vopAt 0).Canonical ∧
    ∀ f ∈ [0, 1, 2, 3, 4, 5, 6, 7, 8, 9, 10, 11, 16, 17, 18, 19, 20],
      (vopAt f).engineAt 7 2 0 ⟨vopWord f, 0, 1, 0⟩ oneItem
      ∧ (vopAt f).vopReady 7 f 0 ⟨vopWord f, 0, 1, 0⟩ (streamOf 0 0 1 0)
          (if twoOperand f then ((vopAt f).brick 7).fifos.getD 3 [] else []) [] (if twoOperand f then [] else
            ((vopAt f).brick 7).fifos.getD 3 []) := by
  simp only [State.engineAt, State.vopReady]; decide +kernel

/-- A parameter block in range: θ = 2, s = 1, d = 2, h = 2, rows of 1. -/
def goodPblock : List (Nat × Byte) :=
  [(3, 0x40), (6, 0x80), (7, 0x3F), (8, 2), (10, 2), (16, 1)].map fun e => (bedAddr 7 e.1, e.2)

theorem witness_vcfg :
    (engineWith 2 (7 * 2 ^ 58 + 2 ^ 56) [[], [], [], [], [], []] {}).engineAt 7 2 0 ⟨7 * 2 ^ 58 + 2 ^ 56, 0, 1, 0⟩ oneItem
    ∧ (engineWith 2 (7 * 2 ^ 58 + (2 ^ 19 - 4096)) [[], [], [], [], [], []] {}).engineAt 7 2 0
        ⟨7 * 2 ^ 58 + (2 ^ 19 - 4096), 0, 1, 0⟩ oneItem
    ∧ (engineWith 2 (7 * 2 ^ 58 + (2 ^ 19 - 4096)) [[], [], [], [], [], []] {}).anyBad (bedAddr 7 (2 ^ 19 - 4096)) 4096 = false
    ∧ (engineWith 2 (7 * 2 ^ 58 + 2 ^ 56) [[], [], [], [], [], []] { ({} : Brick) with idle := [0, 0, 8, 0] }).engineAt 7 2 9
        ⟨7 * 2 ^ 58 + 2 ^ 56, 0, 1, 0⟩ oneItem
    ∧ badPblock (({ running with mem := goodPblock } : State).okBytes (bedAddr 7 0) 64) = false ∧ Memory.wf goodPblock = true
    ∧ badPblock (running.okBytes (bedAddr 7 0) 64) = true := by
  simp only [State.engineAt]; decide +kernel

/-- A STORE of one row of two vector-queue elements as FP32, row layout, to the Bed (or to global addresses). -/
def storeWord (global : Bool) : Nat :=
  8 * 2 ^ 58 + 2 ^ 56 + 7 * 2 ^ 53 + (if global then 2 ^ 47 else 0) + 2 ^ 31 + 2 * 2 ^ 15

def storeAt (global : Bool) (sd : List SDesc) : State :=
  landBlock 0 0 (engineWith 3 (storeWord global) [[], [], [], [], sd, []]
    { ({} : Brick) with vecq := [(0x3F800000, false), (0, false)] })

theorem witness_StoreToBed :
    (storeAt false (streamOf 0 64 1 0)).engineAt 7 3 0 ⟨storeWord false, 0, 1, 0⟩ oneItem
    ∧ (storeAt false (streamOf 0 64 1 0)).Canonical ∧ ((storeAt false (streamOf 0 64 1 0)).brick 7).vecq.all (fun e => !e.2) = true
    ∧ streamOk (streamOf 0 64 1 0) [0] 1 (unitAlign 0 7) 1 = true
    ∧ storeBad 0 7 1 2 false (fieldB ((storeAt false (streamOf 0 64 1 0)).brick 7).pblock 10 2) (unitsOf (streamOf 0 64 1 0)) = false
    ∧ storeFits 0 7 1 2 (unitsOf (streamOf 0 64 1 0)) = true ∧ (storeAt false (streamOf 0 64 1 0)).atRest
    ∧ ((storeAt false (streamOf 0 64 1 0)).storeBytes 7 (storeWord false) (unitsOf (streamOf 0 64 1 0)) (fun _ => 0)).map (·.1)
        = [64, 65, 66, 67, 68, 69, 70, 71]
    ∧ (∀ e ∈ (storeAt false (streamOf 0 64 1 0)).storeBytes 7 (storeWord false) (unitsOf (streamOf 0 64 1 0))
          (fun a => (storeAt false (streamOf 0 64 1 0)).okByte (bedAddr 7 a)),
        ((storeAt false (streamOf 0 64 1 0)).ecc (bedAddr 7 e.1)).bad = false) := by
  simp only [State.engineAt]; decide

theorem witness_StoreToYard :
    (storeAt true (streamOf 2 yardBase 1 0)).engineAt 7 3 0 ⟨storeWord true, 0, 1, 0⟩ oneItem
    ∧ streamOk (streamOf 2 yardBase 1 0) [2] 1 (unitAlign 0 7) 1 = true
    ∧ (∀ e ∈ (storeAt true (streamOf 2 yardBase 1 0)).storeBytes 7 (storeWord true) (unitsOf (streamOf 2 yardBase 1 0)) (fun _ => 0),
        e.1 / 2 ^ 44 % 256 = 0 ∧ devOf e.1 = 0 ∧ yardBase ≤ localOf e.1
        ∧ ((storeAt true (streamOf 2 yardBase 1 0)).sampled oneItem.own).placeStatus (.part 0) true (localOf e.1) = 0) := by
  simp only [State.engineAt]; decide

/-- A routine set of one instruction (END) and one routine in Yard block 0 of partition 0. -/
def setBytes : List (Nat × Byte) :=
  [(yardBase, 4), (yardBase + 4, 8), (yardBase + 8, 1), (yardBase + 10, 1), (yardBase + 67, 0xFC)]

/-- A work item of routine 0 of set 0 placed on logical brick 7. -/
def setItem : WItem :=
  { item := { set := 0, routine := 0, args := [], pin := none, layer := 0, beforeWalk := false, recArg := none, adArg := none, residents := [] }
    args := [5], seqs := [0], brick := some 7 }

/-- Step 1 has that work item; the brick is ready, in partition 0's pool and as `b` says. -/
def itemWaits (b : Brick) (resident : List Resident) : State :=
  let s := (((landBlock 0 0 running).setF (hdrF .brk 0x0C 31 28) 3 7).setF F.PRT_POOL_FIRST 0 0).setF F.PRT_POOL_COUNT 100 0
  { s with
    mem := setBytes
    br := if b = {} then [] else [(7, b)]
    yd := { s.yd with resident := resident }
    sv := { ({} : Serving) with
      sets := [(0, yardBase, 1)]
      steps := [{ num := 1, cmd := 1, part := 0, mslot := 0, items := [setItem] }] } }

/-- The run of that item. -/
def setRun : BRun := { step := 1, item := 0, seqs := [0], part := 0, trap := false, start := 0 }

theorem witness_WorkItemStart :
    smSorted (itemWaits {} []).br = true ∧ ((itemWaits {} []).sv.steps.find? fun x => x.num = 1).isSome = true
    ∧ (itemWaits {} []).physOf 7 = some 7 ∧ ((itemWaits {} []).brick 7).run = none ∧ (itemWaits {} []).pt.clearing.contains 7 = false
    ∧ (itemWaits {} []).quiesced .brk 7 = false ∧ (itemWaits {} []).unit .brk 7 = 3 ∧ (itemWaits {} []).holdsBrick 0 7 = true
    ∧ (itemWaits {} []).residentsComing 7 = false ∧ (itemWaits {} []).Canonical ∧ (itemWaits {} []).atRest
    ∧ (itemWaits {} []).sv.sets.find? (fun e => e.1 = 0 * 256 + 0) = some (0, yardBase, 1)
    ∧ (itemWaits {} []).holdsSet 7 0 1 = false ∧ setHeader ((itemWaits {} []).okBytes yardBase 64) = some (4, 8, 1)
    ∧ ((itemWaits {} []).sampled setRun.own).rangeStatus (.part 0) false yardBase 64 = 0
    ∧ ((itemWaits {} []).sampled setRun.own).rangeStatus (.part 0) false yardBase ((64 + 4 + 63) / 64 * 64 + 8) = 0
    ∧ (itemWaits {} []).anyBad yardBase ((64 + 4 + 63) / 64 * 64 + 8) = false
    ∧ fieldB ((itemWaits {} []).okBytes (yardBase + 128) 8) 0 4 < 2 ^ 13
    ∧ (({ itemWaits {} [] with sv := { (itemWaits {} []).sv with sets := [] } } : State).sv.sets.find? fun e => e.1 = 0 * 256 + 0) = none
    ∧ (itemWaits { ({} : Brick) with held := some (0, 1), entries := [0] }
        [{ brick := 7, base := yardBase, len := 136, routineSet := true }]).holdsSet 7 0 1 = true := by decide +kernel

/-- Brick 7 whose core has executed END, nothing under way. -/
def ending : State := bricked 7 { ({} : Brick) with run := some { oneItem with ended := true } }

theorem witness_WorkItemEnd :
    ending.Canonical ∧ (ending.brick 7).run = some { oneItem with ended := true }
    ∧ (∀ k, k < 6 → (ending.brick 7).condHolds (0 + 1) k = true) ∧ (ending.brick 7).clk ≤ 0 + 1 ∧ (ending.brick 7).jobs = [] := by decide

theorem witness_WorkItemEndsOnItsBrick :
    ((itemWaits { ({} : Brick) with run := some { setRun with ended := true } } []).sv.steps.find? fun x => x.num = 1).isSome = true
    ∧ setItem.gen = (itemWaits {} []).genOf .brk 7 ∧ (itemWaits {} []).unit .brk 7 = 3 := by decide

/-- Partition `p` is ACTIVE and its queue `q` has a command ring of 16 entries at granule 0, a completion ring of 64 records at
0x400 and a result ring of 16 entries at 0x800, is enabled, and fetches up to 8 ahead. -/
def queueOf (p q : Nat) (s : State) : State :=
  let t := (((((owned s).setF F.PRT_STATE_STATE 2 p).setF F.PRT_QSIZE_LOG2 4 p q).setF F.PRT_CQSIZE_LOG2 6 p q).setF
    F.PRT_RQSIZE_LOG2 4 p q).setF F.PRT_QRUNAHEAD_LIMIT 8 p q
  (((t.setF F.PRT_CQBASE_LO_BASE 0x10 p q).setF F.PRT_RQBASE_LO_BASE 0x20 p q).setFlag F.PRT_QCTRL_ENABLE true p q)

/-- Trowel core 0 runs and is shown partition 0's queue 0. -/
def queued : State := queueOf 0 0 (stacksUp (onUnit .prt 0))

theorem witness_DoorbellsAndRings :
    queued.Canonical ∧ queued.instOf .prt 0x153 (.trowel 0) = some 0 ∧ queued.idx F.PRT_QSEL_QUEUE (.trowel 0) = 0
    ∧ mayWrite (.trowel 0) 0x153 = true ∧ queued.grants (.trowel 0) A.PRT_QTAIL ∧ queued.grants (.trowel 0) A.PRT_CQHEAD
    ∧ queued.grants (.trowel 0) A.PRT_QCTRL ∧ queued.grants (.trowel 0) A.PRT_PVAL_LO
    ∧ queued.regGate (.trowel 0) A.PRT_PVAL_LO 8 true = some 0 ∧ queued.lockedFor (.trowel 0) 0x153 = false
    ∧ queued.qlog 0 0 = 4 ∧ ringGap ((16#32).toNat % 65536) (queued.getF F.PRT_QHEAD_INDEX 0 0) ≤ 2 ^ 4
    ∧ 2 ^ 4 < ringGap ((17#32).toNat % 65536) (queued.getF F.PRT_QHEAD_INDEX 0 0) := by decide +kernel

theorem witness_DoorbellsAndRings_heads :
    ringGap ((0#32).toNat % 65536) (queued.getF F.PRT_CQHEAD_INDEX 0 0)
        ≤ ringGap (queued.getF F.PRT_CQTAIL_INDEX 0 0) (queued.getF F.PRT_CQHEAD_INDEX 0 0)
    ∧ ringGap (queued.getF F.PRT_CQTAIL_INDEX 0 0) (queued.getF F.PRT_CQHEAD_INDEX 0 0)
        < ringGap ((1#32).toNat % 65536) (queued.getF F.PRT_CQHEAD_INDEX 0 0)
    ∧ queued.getF F.PRT_CQSIZE_LOG2 0 0 ≠ 0 ∧ (onUnit .prt 0).getF F.PRT_CQSIZE_LOG2 0 0 = 0
    ∧ queued.grants (.trowel 0) (A.LNT_QDB + 4 * 255) ∧ mayWrite (.trowel 0) 0x31 = true := by decide +kernel

/-- `queued` with a NOP in the first entry of its ring, or with the words `ws` fetched as command 1. -/
def ringed : State := (queued.setF F.PRT_QTAIL_INDEX 1 0 0).wrN 0 8 (0x13 * 2 ^ 56)

def fetched (ws : List Nat) (s : State) : State :=
  { s with qu := { s.qu with cmds := [{ id := 1, part := 0, queue := 0, words := ws }], nextId := 2 } }

/-- A record that waits for queue 0's ring. -/
def oneRec (quiet parks : Bool) (cmd : Option Nat) : Rec :=
  { part := 0, ring := 0, origin := 0, tag := 7, opcode := 0x13, flags := 0, status := 0, result := 0, irq := false, quiet := quiet
    parks := parks, cmd := cmd }

def recorded1 (r : Rec) : State := { queued with qu := { queued.qu with recs := [r] } }

theorem witness_fetch :
    (ringed.getF F.PRT_STATE_STATE 0 ≠ 0 ∧ ringed.dv.st = .ready ∧ ringed.flag F.PRT_QCTRL_ENABLE 0 0 = true ∧ ringed.qlog 0 0 ≠ 0
      ∧ ringed.getF F.PRT_QHEAD_INDEX 0 0 ≠ ringed.getF F.PRT_QTAIL_INDEX 0 0
      ∧ ringed.inflight 0 0 < ringed.getF F.PRT_QRUNAHEAD_LIMIT 0 0 ∧ ringed.flag F.PRT_QCTRL_RING_FAULT 0 0 = false ∧ ringed.Canonical
      ∧ ringed.atRest ∧ ringed.ringStatus 0 false 0 64 = 0 ∧ ringed.anyBad 0 64 = false)
    ∧ (ringed.poisonWord 0).anyBad 0 64 = true ∧ (ringed.poisonWord 0).ringStatus 0 false 0 64 = 0
    ∧ (ringed.poisonWord 0).Canonical
    ∧ ({ ringed with bk := { ringed.bk with regions := [] } } : State).ringStatus 0 false 0 64 ≠ 0 := by decide +kernel

theorem witness_records :
    ((recorded1 (oneRec true false (some 1))).qu.recs.find? fun r => r.part = 0 && r.ring = 0) = some (oneRec true false (some 1))
    ∧ ((recorded1 (oneRec false true none)).cqRoom 0 0 ≠ 0 ∧ (recorded1 (oneRec false true none)).Canonical
      ∧ (recorded1 (oneRec false true none)).ringStatus 0 true ((recorded1 (oneRec false true none)).cqbase 0 0) 16 = 0
      ∧ (recorded1 (oneRec false true none)).settledAt ((recorded1 (oneRec false true none)).cqbase 0 0) 16)
    ∧ ({ running with qu := { running.qu with recs := [oneRec false false none] } } : State).cqRoom 0 0 = 0
    ∧ queued.grants (.trowel 0) A.PRT_QRESUME
    ∧ (fetched [0x13 * 2 ^ 56, 0, 0, 0, 0, 0, 0, 0] queued).cmdsApart
    ∧ ringGap ((fetched [] queued).getF F.PRT_QTAIL_INDEX 0 0) ((fetched [] queued).getF F.PRT_QHEAD_INDEX 0 0) = 0
    ∧ (∀ c ∈ (fetched [] queued).qu.cmds, c.acks = 0 ∧ c.status = 0) ∧ (fetched [] queued).Canonical := by decide +kernel

/-- A command of opcode `op` with header bits `h` and body `ws`, fetched as command 1 of queue 0. -/
def cmdWords (op h : Nat) (ws : List Nat) : List Nat := ([op * 2 ^ 56 + h] ++ ws ++ List.replicate 7 0).take 8

def asked (op h : Nat) (ws : List Nat) : State := fetched (cmdWords op h ws) queued

def cmd1 (op h : Nat) (ws : List Nat) : Cmd := { id := 1, part := 0, queue := 0, words := cmdWords op h ws }

/-- A partition's template 5: two recorded NOPs. -/
def templated (s : State) : State :=
  { s with sv := { s.sv with tpls := [(5, { kind := 1, cmds := [cmdWords 0x13 0 [], cmdWords 0x13 0 []] })] } }

theorem witness_PlainCommandsComplete :
    ((asked 0x13 0 []).accepts 0 0 0x13 (cmd1 0x13 0 []) (cmd1 0x13 0 []) ∧ (asked 0x13 0 []).cmdsApart ∧ (asked 0x13 0 []).Canonical
      ∧ (cmd1 0x13 0 []).plain)
    ∧ ((cmd1 0x13 1 []).badFields = true ∧ (asked 0x13 1 []).admissible 0 0 = some (cmd1 0x13 1 [])
      ∧ (asked 0x13 1 []).substituted (cmd1 0x13 1 []) = some (cmd1 0x13 1 []) ∧ queueAccepts 0 0x13 = true ∧ queueAccepts 7 0x13 = false)
    ∧ (asked 0x03 (255 * 2 ^ 16 + 2 ^ 8 + 1) [9]).accepts 0 0 0x03 (cmd1 0x03 (255 * 2 ^ 16 + 2 ^ 8 + 1) [9])
        (cmd1 0x03 (255 * 2 ^ 16 + 2 ^ 8 + 1) [9])
    ∧ (asked 0x07 1 []).accepts 0 0 0x07 (cmd1 0x07 1 []) (cmd1 0x07 1 [])
    ∧ (asked 0x07 0 [2 ^ 52, 64]).accepts 0 0 0x07 (cmd1 0x07 0 [2 ^ 52, 64]) (cmd1 0x07 0 [2 ^ 52, 64]) := by decide +kernel

theorem witness_signals :
    ((asked 0x12 0 [0x1000, 5]).accepts 0 0 0x12 (cmd1 0x12 0 [0x1000, 5]) (cmd1 0x12 0 [0x1000, 5])
      ∧ (asked 0x12 0 [0x1000, 5]).pt.clearing = [] ∧ devOf ((cmd1 0x12 0 [0x1000, 5]).word 1) = (asked 0x12 0 []).dv.devNum
      ∧ (asked 0x12 0 [0x1000, 5]).gStatus (cmd1 0x12 0 [0x1000, 5]) true 0x1000 8 = 0 ∧ (asked 0x12 0 [0x1000, 5]).unmetered 0 ∧ (asked 0x12 0 [0x1000, 5]).settledAt 0x1000 8)
    ∧ ((asked 0x12 0 [2 ^ 26, 5]).gStatus (cmd1 0x12 0 [2 ^ 26, 5]) true (2 ^ 26) 8 ≠ 0
      ∧ (asked 0x12 0 [2 ^ 26, 5]).accepts 0 0 0x12 (cmd1 0x12 0 [2 ^ 26, 5]) (cmd1 0x12 0 [2 ^ 26, 5])) := by decide +kernel

theorem witness_signal_adds :
    ((asked 0x12 1 [yardBase, 5]).accepts 0 0 0x12 (cmd1 0x12 1 [yardBase, 5]) (cmd1 0x12 1 [yardBase, 5])
      ∧ 16 * stackBytes ≤ localOf yardBase ∧ yardBase / 2 ^ 44 % 256 = 0)
    ∧ ((asked 0x12 1 [0x1000, 5]).accepts 0 0 0x12 (cmd1 0x12 1 [0x1000, 5]) (cmd1 0x12 1 [0x1000, 5])
      ∧ localOf 0x1000 < 16 * stackBytes ∧ (asked 0x12 1 [0x1000, 5]).memoryOpen ∧ (asked 0x12 1 [0x1000, 5]).ecc 0x1000 = .clean
      ∧ (asked 0x12 1 [0x1000, 5]).gStatus (cmd1 0x12 1 [0x1000, 5]) true 0x1000 8 = 0) := by decide +kernel

/-- The command `ws` behind a NOP still running. -/
def behind (op h : Nat) (ws : List Nat) : State :=
  { queued with qu := { queued.qu with
      cmds := [{ id := 2, part := 0, queue := 0, words := cmdWords 0x13 0 [], phase := 1 }, cmd1 op h ws], nextId := 3 } }

theorem witness_fences :
    ((asked 0x08 0 []).accepts 0 0 0x08 (cmd1 0x08 0 []) (cmd1 0x08 0 []) ∧ (asked 0x08 0 []).earlier (cmd1 0x08 0 []) = [])
    ∧ ((behind 0x08 0 []).accepts 0 0 0x08 (cmd1 0x08 0 []) (cmd1 0x08 0 []) ∧ (behind 0x08 0 []).earlier (cmd1 0x08 0 []) ≠ []
      ∧ (behind 0x08 0 []).cmdsApart ∧ (behind 0x08 0 []).Canonical)
    ∧ ((asked 0x1F 0 [9]).accepts 0 0 0x1F (cmd1 0x1F 0 [9]) (cmd1 0x1F 0 [9]))
    ∧ ((behind 0x1F 0 [9]).accepts 0 0 0x1F (cmd1 0x1F 0 [9]) (cmd1 0x1F 0 [9]) ∧ (behind 0x1F 0 [9]).earlier (cmd1 0x1F 0 [9]) ≠ [])
    := by decide +kernel

/-- A WAIT that runs: its flag at 0x1000 is to reach `v`, within 10 µs. -/
def waitCmd (v : Nat) : Cmd := { cmd1 0x11 0 [0x1000, v, 10] with phase := 1, seen := queued.sample }

def waitsFor (v : Nat) : State := { queued with qu := { queued.qu with cmds := [waitCmd v], nextId := 2 } }

theorem witness_waits :
    ((asked 0x11 0 [0x1000, 0, 10]).accepts 0 0 0x11 (cmd1 0x11 0 [0x1000, 0, 10]) (cmd1 0x11 0 [0x1000, 0, 10])
      ∧ (asked 0x11 0 [0x1000, 0, 10]).gStatus (cmd1 0x11 0 [0x1000, 0, 10]) false 0x1000 8 = 0 ∧ (asked 0x11 0 [0x1000, 0, 10]).atRest ∧ (asked 0x11 0 [0x1000, 0, 10]).anyBad 0x1000 8 = false
      ∧ (cmd1 0x11 0 [0x1000, 0, 10]).flagMet (leNat ((asked 0x11 0 [0x1000, 0, 10]).okBytes 0x1000 8)) = true
      ∧ (cmd1 0x11 0 [0x1000, 1, 10]).flagMet (leNat ((asked 0x11 0 [0x1000, 1, 10]).okBytes 0x1000 8)) = false)
    ∧ ((waitsFor 0).waiting 0 0 = some (waitCmd 0) ∧ (waitsFor 0).cmdsApart ∧ (waitsFor 0).Canonical
      ∧ (waitsFor 0).pt.clearing = [] ∧ (waitsFor 0).unmetered 0
      ∧ (waitsFor 0).gStatus (waitCmd 0) false 0x1000 8 = 0
      ∧ (cmd1 0x11 0 [0x1000, 0, 10]).word 3 = 10)
    ∧ ((templated (asked 0x02 5 [])).accepts 0 0 0x02 (cmd1 0x02 5 []) (cmd1 0x02 5 [])
      ∧ (cmd1 0x02 5 []).hdr 53 53 = 0 ∧ (templated (asked 0x02 5 [])).getF F.PRT_STATE_STATE 0 = 2
      ∧ ((templated (asked 0x02 5 [])).template 0 5).map (fun x => x.kind) = some 1) := by decide +kernel

/-- BULK has its grant: the partition's table has one whole-period slot of class 5. -/
def granted (s : State) : State :=
  { s with pt := { s.pt with cycles := [(0, { ({} : Cycle) with slots := [{ ({} : CSlot) with
      len := 10000, cls := 5, budget := [1000, 1000, 1000], bal := [1000, 1000, 1000], active := true, wanted := true }] })] } }

/-- A descriptor of `r` rows of `c` FP32 elements at `a`, row after row. -/
def descAt (at_ a r c : Nat) (s : State) : State :=
  s.wr at_ (recB 64 [(0, 8, a), (8, 4, r), (12, 4, c), (16, 4, 1), (20, 1, 7), (24, 8, 4 * c)])

/-- The tensor of that descriptor. -/
def tensorOf (s : State) (at_ : Nat) : Tensor := ⟨readDesc (s.okBytes at_ 64), []⟩

/-- Source 2 by 3 at 0x2000, destination `r` by `c` at 0x3000, indexes at 0x4000, descriptors at 0x1000 and 0x1040. -/
def moving (op h r c : Nat) (ws : List Nat) : State :=
  (((descAt 0x1000 0x2000 2 3 (descAt 0x1040 0x3000 r c (granted (asked op h ws)))).wr 0x2000 (List.replicate 24 1)).wr 0x4000
    (leBytes 1 4 ++ leBytes 7 4))

theorem witness_copies :
    let s := moving 4 0 2 3 [0x1000, 0x1040]
    (s.accepts 0 0 4 (cmd1 4 0 [0x1000, 0x1040]) (cmd1 4 0 [0x1000, 0x1040]) ∧ s.cmdsApart ∧ s.Canonical
      ∧ s.resumed 0 0 4 = none ∧ s.pt.clearing = [] ∧ s.memoryOpen ∧ s.unmetered 0
      ∧ s.tableSpace (cmd1 4 0 [0x1000, 0x1040]) [0x1000, 0x1040] = 0)
    ∧ (s.rowTensor 0 0x1000 (tensorOf s 0x1000) ∧ s.rowTensor 0 0x1040 (tensorOf s 0x1040))
    ∧ ((tensorOf s 0x1040).d.rows = 2 ∧ (tensorOf s 0x1040).d.cols = 3 ∧ plainPair (tensorOf s 0x1000).d (tensorOf s 0x1040).d = true
      ∧ s.rangesStatus (cmd1 4 0 [0x1000, 0x1040]) false (tensorOf s 0x1000).allFootprints = 0 ∧ s.rangesStatus (cmd1 4 0 [0x1000, 0x1040]) true (tensorOf s 0x1040).allFootprints = 0
      ∧ s.cleanUnder (tensorOf s 0x1000) ∧ s.cleanUnder (tensorOf s 0x1040)) := by decide +kernel

theorem witness_resumedNone (op : Nat) : (moving 4 0 2 3 [0x1000, 0x1040]).resumed 0 0 op = none := by
  have h : ((moving 4 0 2 3 [0x1000, 0x1040]).queueCmds 0 0) = [cmd1 4 0 [0x1000, 0x1040]] := by decide +kernel
  simp [State.resumed, h, cmd1]

theorem witness_layouts :
    (let s := moving 5 1 3 2 [0x1000, 0x1040];
      s.accepts 0 0 5 (cmd1 5 1 [0x1000, 0x1040]) (cmd1 5 1 [0x1000, 0x1040]) ∧ s.rowTensor 0 0x1040 (tensorOf s 0x1040)
      ∧ (tensorOf s 0x1040).d.rows = (tensorOf s 0x1000).d.cols ∧ overlap (tensorOf s 0x1000).intervals (tensorOf s 0x1040).intervals = false)
    ∧ (let s := moving 6 2 2 3 [0x1000, 0x4000, 2, 0x1040];
      s.accepts 0 0 6 (cmd1 6 2 [0x1000, 0x4000, 2, 0x1040]) (cmd1 6 2 [0x1000, 0x4000, 2, 0x1040])
      ∧ s.rowTensor 0 0x1000 (tensorOf s 0x1000) ∧ s.rowTensor 0 0x1040 (tensorOf s 0x1040)
      ∧ s.rangesStatus (cmd1 6 2 [0x1000, 0x4000, 2, 0x1040]) false ((tensorOf s 0x1000).allFootprints ++ [(0x4000, 8)]) = 0
      ∧ overlap ((0, 0x4000, 0x4007) :: (tensorOf s 0x1000).intervals) (tensorOf s 0x1040).intervals = false
      ∧ s.anyBad 0x4000 8 = false ∧ s.cleanUnder (tensorOf s 0x1000) ∧ s.cleanUnder (tensorOf s 0x1040)
      ∧ (tensorOf s 0x1000).d.rows ≤ 2 ^ 31) := by decide +kernel

theorem witness_moves_refused :
    (let s := moving 4 0 3 3 [0x1000, 0x1040];
      s.accepts 0 0 4 (cmd1 4 0 [0x1000, 0x1040]) (cmd1 4 0 [0x1000, 0x1040]) ∧ (tensorOf s 0x1040).d.rows ≠ (tensorOf s 0x1000).d.rows)
    ∧ (let s := (descAt 0x1040 0x2004 2 3 (moving 4 0 2 3 [0x1000, 0x1040])).wr 0x1058 (leBytes 16 8);
      s.accepts 0 0 4 (cmd1 4 0 [0x1000, 0x1040]) (cmd1 4 0 [0x1000, 0x1040]) ∧ s.rowTensor 0 0x1040 (tensorOf s 0x1040)
      ∧ plainPair (tensorOf s 0x1000).d (tensorOf s 0x1040).d = false
      ∧ overlap (tensorOf s 0x1000).intervals (tensorOf s 0x1040).intervals = true)
    ∧ (let s := descAt 0x1000 (2 ^ 26) 2 3 (moving 4 0 2 3 [0x1000, 0x1040]);
      s.rowTensor 0 0x1000 (tensorOf s 0x1000) ∧ s.rangesStatus (cmd1 4 0 [0x1000, 0x1040]) false (tensorOf s 0x1000).allFootprints ≠ 0)
    ∧ (let s := moving 0x10 0 2 3 [0x2000, 0x3000, 8];
      s.accepts 0 0 0x10 (cmd1 0x10 0 [0x2000, 0x3000, 8]) (cmd1 0x10 0 [0x2000, 0x3000, 8]) ∧ s.gStatus (cmd1 0x10 0 [0x2000, 0x3000, 8]) false 0x2000 8 = 0
      ∧ s.rangeStatus (.part 0) true 0x3000 8 = 0 ∧ s.anyBad 0x2000 8 = false ∧ ∀ w ∈ wordsOf 0x3000 8, s.ecc w = .clean) := by decide +kernel

theorem witness_yardAccess :
    (queued.Canonical ∧ queued.pt.clearing = [] ∧ queued.atRest ∧ queued.rangeStatus (.part 0) false 0x1000 64 = 0
      ∧ queued.anyBad 0x1000 64 = false ∧ queued.settledAt 0x1000 64
      ∧ queued.rangeStatus (.part 0) true 0x1000 64 = 0 ∧ queued.rangeStatus (.part 0) false (2 ^ 26) 64 ≠ 0) := by decide +kernel

/-- Whichever slab serves its line, it takes a read at once; with class 0 shut, none admits it. -/
theorem witness_yardEverySlab : ∀ sl, sl < 48 → queued.yardMay
    { asker := .part 0, part := 0, cls := 0, slab := sl, ga := 0x1000, acc := { op := 0, addr := 0x1000, len := 64, data := [] }
      since := queued.now } = true ∧ (queued.setF (clsCap 0) 0).classAdmits sl 0 = false := by
  decide +kernel

theorem witness_yardReads : queued.takenAtOnce (.part 0) 0 0 0x1000 { op := 0, addr := 0x1000, len := 64, data := [] } := by
  have h : queued.slabOf 0x1000 = slabOfLine (0x1000 / 64) := by
    simp only [State.slabOf]
    exact if_neg (by decide +kernel)
  refine ⟨rfl, ?_⟩
  rw [h]
  exact (witness_yardEverySlab _ (Nat.mod_lt _ (by decide))).1

theorem witness_yardWrites :
    (landBlock 0 0 queued).takenAtOnce (.part 0) 0 0 yardBase { op := 1, addr := yardBase, len := 2, data := [some 1, some 2] }
    ∧ (landBlock 0 0 queued).settledAt yardBase 2 ∧ (landBlock 0 0 queued).rangeStatus (.part 0) true yardBase 2 = 0
    ∧ (landBlock 0 0 queued).Canonical := by decide +kernel

/-- Trowel core 0 is shown Yard block `b`. -/
def yardBlock (b : Nat) : State := (onUnit .yrd 0).setF F.YRD_BIDX_BLOCK b 0 64

/-- Yard block 24575 waits for its conversion to a LAND block of partition 3. -/
def converting : State :=
  { yardBlock 24575 with yd := { (yardBlock 24575).yd with converting := [{ block := 24575, entry := 64 + 32 + 3, was := 0 }] } }

theorem witness_yardBlocks :
    ((yardBlock 24575).Canonical ∧ (yardBlock 24575).grants (.trowel 0) A.YRD_BENTRY
      ∧ (yardBlock 24575).idx F.YRD_BIDX_BLOCK (.trowel 0) = 24575 ∧ nbits (0x63000000#32).toNat 31 30 ≠ 3
      ∧ (yardBlock 24575).blockKind 24575 ≠ 2 ∧ nbits (0xC0000000#32).toNat 31 30 = 3)
    ∧ (converting.Canonical ∧ converting.yd.converting.find? (fun x => x.block = 24575)
        = some { block := 24575, entry := 99, was := 0 } ∧ converting.qu.cmds = [] ∧ converting.sv.steps = [])
    := by decide

/-- The spare slab 48 is to replace logical slab `l`. -/
def spared (l : Nat) (busy : Option (Nat × Nat)) : State :=
  { yardBlock l with yd := { (yardBlock l).yd with spares := [48, 49], replacing := busy } }

theorem witness_yardSpares :
    ((spared 47 none).Canonical ∧ (spared 47 none).grants (.trowel 0) A.YRD_SPARE_CMD ∧ (spared 47 none).flag F.YRD_SPARE_STAT_BUSY = false
      ∧ (spared 47 none).yd.spares = 48 :: [49])
    ∧ ((spared 47 (some (47, 48))).yd.replacing = some (47, 48) ∧ 48 ≠ (spared 47 (some (47, 48))).physSlab 47
      ∧ (spared 47 (some (47, 48))).physSlab 47 < 50 ∧ smSorted (spared 47 (some (47, 48))).yd.slabOf = true)
    ∧ ((yardBlock 0).grants (.trowel 0) (A.YRD_CLS0 + 4 * 5)
      ∧ [0, 2, 3, 4, 5].foldl (fun m j => m + if j = 5 then max 32 (nbits (0x00000400#32).toNat 25 16) else (yardBlock 0).getF (clsFloor j)) 0 ≤ 1024
      ∧ 1024 < [0, 2, 3, 4, 5].foldl (fun m j => m + if j = 5 then max 32 (nbits (0x03FF0400#32).toNat 25 16) else (yardBlock 0).getF (clsFloor j)) 0)
    ∧ ((yardBlock 0).grants (.trowel 0) A.YRD_Q_CACHE ∧ (yardBlock 0).idx F.YRD_QIDX_PARTITION (.trowel 0) = 0)
    ∧ (∀ ph < 50, (yardBlock 0).flag F.YRD_PF_CTL_ENABLE ph = true) ∧ (yardBlock 0).yd.streams = [] := by decide

/-- Model slot 0 of partition 0 is READY, with one layer of one key-value head of 64 elements. -/
def slotted (s : State) : State :=
  { s with sv := { s.sv with mslots := [(0, { ({} : MSlot) with st := 2, part := 0, gen := 1, vocab := 100, select := 1, kvHeads := 1, qPerKv := 1, headDim := 64, layers := 1 })] } }

/-- Partition 0 may hold 8 sequences. -/
def quotaed (s : State) : State := s.setF F.SEQ_QUOTA_QUOTA 8 0

/-- An open record: 10 given tokens of at most 100, lists of 16 pages at 0x10000, history at 0x20000. -/
def openRec (s : State) : State :=
  s.wr 0x1000 (recB 128 [(5, 1, 0xFF), (6, 2, 0xFFFF), (16, 4, 10), (32, 8, 0x10000), (48, 8, 0x20000), (56, 4, 100), (60, 2, 16)])

/-- An open sequence 0 of that kind, in state `st`. -/
def opened (st : Nat) (s : State) : State :=
  { slotted s with sv := { (slotted s).sv with seqs := [(0, { ({} : Seq) with
      st := st, dslot := 0xFF, aslot := 0xFFFF, hlen := 10, clen := 8, plBase := 0x10000, tokBase := 0x20000, tokCap := 100, plCap := 16, gen := 1 })] } }

/-- A step that holds sequence 0. -/
def stepping (s : State) : State :=
  { s with sv := { s.sv with steps := [{ num := 1, cmd := 9, part := 0, mslot := 0, works := [{ seq := 0, c := 8 }] }] } }

theorem witness_opens :
    (let s := openRec (quotaed (slotted (asked 9 0 [0x1000])))
     s.accepts 0 0 9 (cmd1 9 0 [0x1000]) (cmd1 9 0 [0x1000]) ∧ s.resumed 0 0 9 = none ∧ s.cmdsApart ∧ s.Canonical
      ∧ s.gStatus (cmd1 9 0 [0x1000]) false 0x1000 128 = 0 ∧ s.anyBad 0x1000 128 = false ∧ s.memoryOpen ∧ s.unmetered 0 ∧ smSorted s.sv.seqs = true
      ∧ s.openStatus 0 (s.okBytes 0x1000 128) = 0 ∧ (openEntry (s.okBytes 0x1000 128)).lookup = false)
    ∧ (let s := openRec (slotted (asked 9 0 [0x1000]))
     s.openStatus 0 (s.okBytes 0x1000 128) = 0x0504 ∧ s.accepts 0 0 9 (cmd1 9 0 [0x1000]) (cmd1 9 0 [0x1000])) := by decide +kernel

theorem witness_freeSeq : (openRec (quotaed (slotted (asked 9 0 [0x1000])))).freeSeq = some 0 := by
  unfold State.freeSeq
  rw [show 8192 = 8191 + 1 from rfl, List.range_succ_eq_map, List.find?_cons_of_pos (by decide +kernel)]

theorem witness_edits :
    (∀ x ∈ [(1, 10, 0), (2, 8, 0), (3, 0, 0), (4, 0xFFFF, 0), (5, 0, 0), (6, 5 + 4 * 2 ^ 8, 0), (7, 0, 0), (8, 0, 0)],
      let s := opened 1 (asked 10 (x.1 * 2 ^ 20) [1, x.2.1, x.2.2])
      let c := cmd1 10 (x.1 * 2 ^ 20) [1, x.2.1, x.2.2]
      s.accepts 0 0 10 c c ∧ s.resumed 0 0 10 = none ∧ s.cmdsApart ∧ s.Canonical ∧ s.memoryOpen ∧ s.unmetered 0 ∧ smSorted s.sv.seqs = true ∧ s.editStatus 0 c = 0
        ∧ s.inStep 0 = false ∧ s.editWaits 0 = false ∧ c.hdr 23 20 = x.1 ∧ c.hdr 12 0 = 0 ∧ (stepping s).inStep 0 = true
        ∧ (opened 3 (asked 10 (x.1 * 2 ^ 20) [1, x.2.1, x.2.2])).editStatus 0 c ≠ 0) := by decide +kernel

/-- The last page list entries of sequence 0 are null, and the words to put there lie at 0x2000. -/
def paged : State :=
  (opened 1 (asked 10 (9 * 2 ^ 20) [1, 15 * 2 ^ 32 + 1, 0x2000])).wr (0x10000 + 60) (leBytes nullPage 4)

theorem witness_pages :
    let c := cmd1 10 (9 * 2 ^ 20) [1, 15 * 2 ^ 32 + 1, 0x2000]
    paged.accepts 0 0 10 c c ∧ paged.editStatus 0 c = 0 ∧ paged.resumed 0 0 10 = none
    ∧ paged.unmetered 0 ∧ paged.gStatus c false 0x2000 4 = 0 ∧ paged.anyBad 0x2000 4 = false ∧ paged.settledAt (0x10000 + 60) 4
    ∧ (paged.pagesEdit (paged.seq 0) (c.word 2)).2 = (0, 15, 1)
    ∧ paged.entry (paged.pagesEdit (paged.seq 0) (c.word 2)).1 0 15 = some nullPage := by decide +kernel

/-- A command that waits for sequence 0. -/
def editWaiting (op h : Nat) (ws : List Nat) : State :=
  let s := opened 1 queued
  { s with qu := { s.qu with cmds := [{ cmd1 op h ws with phase := 1 }], nextId := 2 }, sv := { s.sv with edits := [⟨1, 0⟩] } }

theorem witness_waiting :
    (((editWaiting 10 (2 ^ 20) [1, 10]).takeEdit 0 10).isSome = true ∧ (editWaiting 10 (2 ^ 20) [1, 10]).inStep 0 = false
      ∧ (stepping (editWaiting 10 (2 ^ 20) [1, 10])).inStep 0 = true
      ∧ (editWaiting 10 (2 ^ 20) [1, 10]).cmdOf 1 = some { cmd1 10 (2 ^ 20) [1, 10] with phase := 1 }
      ∧ (editWaiting 10 (2 ^ 20) [1, 10]).editStatus 0 { cmd1 10 (2 ^ 20) [1, 10] with phase := 1 } = 0
      ∧ (editWaiting 10 (2 ^ 20) [1, 10]).cmdsApart ∧ smSorted (editWaiting 10 (2 ^ 20) [1, 10]).sv.seqs = true)
    ∧ (let s := opened 1 (asked 11 0 [1])
      s.accepts 0 0 11 (cmd1 11 0 [1]) (cmd1 11 0 [1]) ∧ s.closeStatus 0 (cmd1 11 0 [1]) = 0 ∧ s.inStep 0 = false ∧ s.editWaits 0 = false
        ∧ (s.seq 0).st ≠ 4 ∧ s.Canonical ∧ s.cmdsApart ∧ (opened 0 (asked 11 0 [1])).closeStatus 0 (cmd1 11 0 [1]) ≠ 0)
    ∧ ((editWaiting 11 0 [1]).takeEdit 0 11).isSome = true ∧ (editWaiting 11 0 [1]).closeFree 0 = true
    ∧ (editWaiting 11 0 [1]).closeStatus 0 (cmd1 11 0 [1]) = 0 ∧ (stepping (editWaiting 11 0 [1])).closeFree 0 = false := by
  decide +kernel

/-- An adapter image at 0x40000: a header of one section, and the section of 16 bytes, of rank 8, with its SHA3-256. -/
def adapterImage (s : State) : State :=
  ((([(0, 4, 827871814), (4, 2, 1), (6, 1, 2), (7, 1, 1), (20, 4, 33554432), (64, 1, 7), (72, 8, 8192), (80, 8, 16), (96, 1, 12), (97, 1, 82), (98, 1, 173), (99, 1, 223), (100, 1, 160), (101, 1, 44), (102, 1, 148), (103, 1, 228), (104, 1, 11), (105, 1, 123), (106, 1, 45), (107, 1, 92), (108, 1, 74), (109, 1, 40), (110, 1, 74), (111, 1, 126), (112, 1, 209), (113, 1, 9), (114, 1, 244), (115, 1, 35), (116, 1, 108), (117, 1, 225), (118, 1, 246), (119, 1, 172), (120, 1, 110), (121, 1, 61), (122, 1, 182), (123, 1, 161), (124, 1, 55), (125, 1, 47), (126, 1, 223), (127, 1, 165)] : List (Nat × Nat × Nat)).foldl (fun t f => t.wr (0x40000 + f.1) (leBytes f.2.2 f.2.1)) s).wr 0x42000 [8#8]).setFlag
    F.PRT_OWNER_BOUND true 0

/-- An adapter slot 5 with a current version 3. -/
def adapted (s : State) : State :=
  { s with sv := { s.sv with aslots := [(5, { ({} : ASlot) with mslot := 0, part := 0, live := [(3, 0x40000)], cur := 3, next := 4 })] } }

def installing : State := adapterImage (adapted (granted (asked 12 5 [0x40000, 0])))

theorem witness_installs :
    let c := cmd1 12 5 [0x40000, 0]
    installing.accepts 0 0 12 c c ∧ installing.resumed 0 0 12 = none ∧ installing.cmdsApart ∧ installing.Canonical
    ∧ installPre c installing = 0 ∧ smSorted installing.sv.aslots = true ∧ installing.memoryOpen ∧ installing.unmetered 0 ∧ installing.gStatus c false 0x40000 8192 = 0
    ∧ frxSection (installing.frxBytes c 0x40000 8192) 0 = ⟨7, 8192, 16, 0⟩
    ∧ installing.gStatus c false 0x42000 16 = 0 ∧ installing.gBad 0x42000 16 = false
    ∧ fieldB (installing.gBytes c 0x42000 16) 0 2 ≤ 64 ∧ 1 ≤ (installing.aslot 5).next := by decide +kernel

theorem frxBytes_eq (s : State) (c : Cmd) (a n : Nat) :
    s.frxBytes c a n = fun i => if i < n then s.gByte c (a + i) else 0 := by
  funext i
  by_cases h : i < n <;> simp [State.frxBytes, State.gBytes, h]

theorem witness_installLayout :
    frxLayoutOk (installing.frxBytes (cmd1 12 5 [0x40000, 0]) 0x40000 8192) 2 = true
    ∧ installing.signerOk (installing.frxBytes (cmd1 12 5 [0x40000, 0]) 0x40000 8192) 2 0 = true := by
  rw [frxBytes_eq]; decide +kernel

theorem witness_installHash :
    sha3 (installing.gBytes (cmd1 12 5 [0x40000, 0]) 0x42000 16)
      = (List.range 32).map (fun i => installing.frxBytes (cmd1 12 5 [0x40000, 0]) 0x40000 8192 (96 + i)) := by decide +kernel

theorem witness_installClean : installing.gBad 0x40000 8192 = false := by decide +kernel

theorem witness_retires :
    (adapted (asked 13 5 [])).accepts 0 0 13 (cmd1 13 5 []) (cmd1 13 5 []) ∧ retirePre (cmd1 13 5 []) (adapted (asked 13 5 [])) = 0
    ∧ (adapted (asked 13 5 [])).bk.merge = [] ∧ (adapted (asked 13 5 [])).cmdsApart ∧ (adapted (asked 13 5 [])).Canonical ∧ retirePre (cmd1 13 5 []) (asked 13 5 []) ≠ 0
    ∧ (asked 13 5 []).accepts 0 0 13 (cmd1 13 5 []) (cmd1 13 5 []) := by decide +kernel

/-- Sequence 0 has 128 committed positions and one block to publish; its only list word for block 0 names page 0. -/
def publishing (upto : Nat) : State :=
  let s := (opened 1 (granted (asked 15 0 [1, upto]))).setF F.SEQ_PFX_MODE_MODE 1 0
  { s with sv := { s.sv with seqs := [(0, { s.seq 0 with clen := 128, hlen := 130 })] }, bk := { s.bk with regions := [0, 1, 2, 3].map fun k => (k, 0x6400000000000000) } }

theorem witness_publishes :
    (∀ u ∈ [0, 1], let s := publishing u
      let c := cmd1 15 0 [1, u]
      s.accepts 0 0 15 c c ∧ s.cmdsApart ∧ s.Canonical ∧ publishPre c s = 0 ∧ s.memoryOpen ∧ s.unmetered 0 ∧ smSorted s.sv.seqs = true ∧ (s.seq 0).pfxPub = 0)
    ∧ (let s := publishing 1
      (List.range (s.mslot 0).layers).map (fun y => s.entry (s.mainList (s.seq 0)) y 0) = [0].map some ∧ s.index 0 = []
        ∧ s.pageStatus (s.mslot 0) 0 0 = 0 ∧ s.anyBad 0x20000 256 = false) := by decide +kernel

theorem blockHash_ok (s : State) (e : Seq) (b : Nat) (l : List Byte)
    (h : (wordsOf (e.tokBase + 256 * b) 256).find? s.asServed.wordBad = none) : ∃ x, s.blockHash e b l = .ok x := by
  simp [State.blockHash, h]

theorem witness_publishHash : (∃ h, (publishing 1).blockHash ((publishing 1).seq 0) 0 ((publishing 1).seq 0).lastHash = .ok h)
    ∧ ∀ h, (publishing 1).indexRoom 0 ((publishing 1).index 0 ++ [⟨h, [0], (publishing 1).sv.matches_ + 1, 0, (publishing 1).stepCount⟩]) = true := by
  refine ⟨blockHash_ok _ _ _ _ (by decide +kernel), fun h => ?_⟩
  have e : (publishing 1).getF F.SEQ_PFX_MODE_MODE 0 = 1 := by decide +kernel
  have i : (publishing 1).index 0 = [] := by decide +kernel
  simp [State.indexRoom, e, i]

/-- Trowel core 0 is shown partition 0, whose pool ring of 64 entries at 0x30000 holds `n`. -/
def pooled (n : Nat) : State :=
  let s := (((owned (onUnit .seq 0)).setF F.SEQ_POOL_SIZE_LOG2 6 0).setF F.SEQ_POOL_BASE_LO_BASE 0xC00 0)
  { stacksUp s with sv := { s.sv with pools := if n = 0 then [] else [(0, n)], removed := [(0, 9)] } }

theorem witness_pools :
    (∀ n ∈ [0, 63, 64], (pooled n).grants (.trowel 0) A.SEQ_POOL_ADD ∧ (pooled n).idx F.SEQ_PIDX_PARTITION (.trowel 0) = 0
      ∧ (pooled n).Canonical ∧ smSorted (pooled n).sv.pools = true ∧ (pooled n).poolLog 0 = 6 ∧ (pooled n).poolHeld 0 = n
      ∧ (pooled n).grants (.trowel 0) A.SEQ_POOL_SIZE ∧ (pooled n).grants (.trowel 0) (A.SEQ_POOL_BASE_LO + 4 * 1))
    ∧ mayWrite (.trowel 0) 0x142 = true
    ∧ (pooled 63).rangeStatus (.part 0) true ((pooled 63).poolAt 0 ((pooled 63).getF F.SEQ_POOL_TAIL_INDEX 0)) 4 = 0
    ∧ (pooled 63).settledAt ((pooled 63).poolAt 0 ((pooled 63).getF F.SEQ_POOL_TAIL_INDEX 0)) 4
    ∧ (0, 9) ∈ (pooled 1).sv.removed ∧ (pooled 1).snapped 0 9 = false ∧ (pooled 1).indexed 0 9 = false ∧ (pooled 1).namedBy 0 9 = 0
    ∧ (pooled 1).grants (.trowel 0) A.SEQ_QUOTA ∧ (pooled 1).grants (.trowel 0) A.SEQ_PFX_MODE := by decide +kernel

theorem witness_settings :
    (let sum := (List.range 32).foldl (fun n q => n + if q = 0 then 8191 % 2 ^ F.SEQ_QUOTA_QUOTA.width else (pooled 0).getF F.SEQ_QUOTA_QUOTA q) 0;
      sum ≤ 8192)
    ∧ ((8191#32).toNat % 2 ^ F.SEQ_QUOTA_QUOTA.width < 8192 ∧ (opened 1 (pooled 0)).seqsOf 0 ≠ []
      ∧ (opened 1 (pooled 0)).grants (.trowel 0) A.SEQ_QUOTA)
    ∧ ((pooled 0).getF F.SEQ_PFX_BLOCKS_COUNT 0 = 0 ∧ ((pooled 0).setF F.SEQ_PFX_MODE_MODE 0 0).arenaOk 0 0 = true)
    ∧ (((pooled 0).setF F.SEQ_PFX_BLOCKS_COUNT 1 0).getF F.SEQ_PFX_BLOCKS_COUNT 0 ≠ 0
      ∧ 1 ≠ ((pooled 0).setF F.SEQ_PFX_BLOCKS_COUNT 1 0).getF F.SEQ_PFX_MODE_MODE 0)
    ∧ ({ stepping (pooled 0) with sv := { (stepping (pooled 0)).sv with steps := [{ num := 1, cmd := 9, part := 0, mslot := 0, works := [{ seq := 0, c := 8, pages := [[9]] }] }] } } : State).snapped 0 9 = true := by
  decide +kernel

/-- Partition 0 runs steps: model slot 0 with its template 3, room for 4 streams and 512 tokens, one Yard block of WORK space. -/
def stepReady (s : State) : State :=
  let t := (((((((s.setF F.PRT_BGRP_GROUPS 0xFF 0).setF F.SEQ_MAXSEQ_MAX_SEQ 4 0).setF F.SEQ_POLICY_STEP_TOKENS 512 0).setF F.SEQ_POLICY_INFLIGHT 2 0).setFlag
    F.SEQ_CTRL_ENABLE true).setF F.YRD_BENTRY_KIND 2 0 24575).setFlag F.YRD_BENTRY_OWNED true 0 24575).setF F.YRD_BENTRY_OWNER 0 0 24575
  { t with bk := { t.bk with regions := [0, 1, 2, 3].map fun k => (k, 0x6400000000000000) }
           sv := { t.sv with tpls := [(3, { kind := 2, places := { queries := 0x1000, scratch := 0x2000, output := 0x3000, logits := 0x4000 } }), (5, { kind := 3, items := [{ set := 0, routine := 0, args := [], pin := none, layer := 0, beforeWalk := false }] })] } }

/-- Sequence 0 has `n` given positions to take, and the STEP or TRAIN_STEP of header `h` and body `ws` runs. -/
def admitting (op h n : Nat) (ws : List Nat) : State :=
  let s := stepReady (opened 1 queued)
  { s with qu := { s.qu with cmds := [{ cmd1 op h ws with phase := 1 }], nextId := 2 }
           sv := { s.sv with mslots := [(0, { ({} : MSlot) with st := 2, part := 0, gen := 1, vocab := 4, select := 1, kvHeads := 1, qPerKv := 1, headDim := 64, layers := 1, tplGiven := 3, tplChunk := 3 })]
                             seqs := [(0, { s.seq 0 with hlen := 8 + n })] } }

theorem witness_stepCommands :
    (let s := slotted (asked 1 0 [5]);
      s.accepts 0 0 1 (cmd1 1 0 [5]) (cmd1 1 0 [5]) ∧ s.cmdsApart ∧ s.Canonical ∧ s.bk.merge = [] ∧ stepPre (cmd1 1 0 [5]) s = 0)
    ∧ (let s := (slotted (asked 1 0 [2 ^ 40])).setParam 0 0 0 1;
      s.accepts 0 0 1 (cmd1 1 0 [2 ^ 40]) (cmd1 1 0 [2 ^ 40]) ∧ s.param 0 0 0 ≠ 0 ∧ s.Canonical ∧ stepPre (cmd1 1 0 [2 ^ 40]) s = 0)
    ∧ ((asked 1 0 [5]).accepts 0 0 1 (cmd1 1 0 [5]) (cmd1 1 0 [5]) ∧ stepPre (cmd1 1 0 [5]) (asked 1 0 [5]) ≠ 0)
    ∧ (let s := stepReady (asked 20 0 [5]);
      s.accepts 0 0 20 (cmd1 20 0 [5]) (cmd1 20 0 [5]) ∧ s.cmdsApart ∧ s.Canonical ∧ s.bk.merge = [] ∧ trainPre (cmd1 20 0 [5]) s = 0
      ∧ trainPre (cmd1 20 0 [5]) (asked 20 0 [5]) ≠ 0) := by decide +kernel

theorem witness_admits :
    let s := admitting 1 0 2 [5]
    s.cmdOf 1 = some { cmd1 1 0 [5] with phase := 1 } ∧ s.stepTick 1 = s ∧ s.stepsOpen 0 = true ∧ s.Canonical ∧ s.formWork 0 0 ≠ []
    ∧ s.reloading 0 = false ∧ (s.formWork 0 0).length ≤ s.rqRoom 0 0 ∧ smSorted s.sv.seqs = true
    ∧ ((s.admitWorks 0 0 (s.formWork 0 0)).2.map fun z => z.work.left) = [false]
    ∧ (let a := s.admitWorks 0 0 (s.formWork 0 0)
      (a.1.takeWork 0 (a.1.stepSpace (a.2.map fun z => z.work))).isSome = true)
    ∧ myTurn s.sv.turn 0 s.stepDue = true ∧ s.sv.steps = [] := by decide +kernel

/-- Partition 1 has a step due as well, and the turn before was partition 0's. -/
def contended : State :=
  let s := admitting 20 0 2 [5]
  let t : State := { s with qu := { s.qu with cmds := s.qu.cmds ++ [{ cmd1 20 0 [5] with id := 2, part := 1, phase := 1 }], nextId := 3 } }
  { (t.setF F.PRT_STATE_STATE 2 1).setF F.SEQ_POLICY_INFLIGHT 2 1 with sv := { t.sv with turn := 0 } }

theorem witness_trains :
    (let s := admitting 20 0 2 [5]
    s.cmdOf 1 = some { cmd1 20 0 [5] with phase := 1 } ∧ s.stepTick 1 = s ∧ s.stepsOpen 0 = true ∧ s.classGrant 0 4 = .free
    ∧ myTurn s.sv.turn 0 s.stepDue = true
    ∧ (s.template 0 5).map (fun t => (t.kind, s.templateStatus t, s.descsStatus (s.templateDescs 0 1 t false 16384))) = some (3, 0, 0))
    ∧ contended.cmdOf 1 = some { cmd1 20 0 [5] with phase := 1 } ∧ contended.stepTick 1 = contended ∧ contended.stepsOpen 0 = true
    ∧ myTurn contended.sv.turn 0 contended.stepDue = false := by decide +kernel

theorem witness_allocates :
    let s := admitting 1 0 2 [5]
    (s.mainList (s.seq 0)).cap = 16 ∧ s.entry (s.mainList (s.seq 0)) 0 0 = some 0 ∧ s.pageStatus (s.mainList (s.seq 0)).m 0 0 = 0
    ∧ s.shared 0 0 = false ∧ s.atRest
    ∧ s.earlyStatus { seq := 0, c := 99, given := 1 } (s.templateCodes 0 0 []) ≠ 0 := by decide +kernel

/-- A training step whose item waits, with pool brick 0 free. -/
def placing : State :=
  let s := (((onUnit .prt 0).setF (F.PRT_POOL_COUNT.nth 0) 1 0).setF (hdrF .brk 0x0C 31 28) 3 0)
  { s with sv := { s.sv with steps := [{ num := 1, cmd := 1, part := 0, mslot := 0, kind := 1, items := [{ item := { set := 0, routine := 0, args := [], pin := none, layer := 0, beforeWalk := false }, args := [], seqs := [16384] }] }] } }

theorem placing_some (s : State) (p l : Nat) (i : TItem) (hl : l < s.activeBricks) (hf : s.brickFree p l = true) (hp : i.pin = none) :
    ∃ m, s.brickFor p i = some m := by
  have hm : l ∈ (List.range s.activeBricks).filter fun l => s.brickFree p l := by simp [hl, hf]
  simp only [State.brickFor, hp]
  split
  · exact ⟨_, rfl⟩
  · cases h : (List.range s.activeBricks).filter fun l => s.brickFree p l with
    | nil => simp [h] at hm
    | cons a _ => exact ⟨a, rfl⟩

theorem witness_places : placing.builderGo 0 = placing ∧ (placing.waitingItems 0).map (fun e => (e.1, e.2.1)) = [(1, 0)] ∧ placing.brickFree 0 0 = true
    ∧ 0 < placing.activeBricks := by decide +kernel

/-- A step 1 of a STEP, for sequence 0 with 2 given positions, whose work has ended, and its logits; or a training step 1. -/
def committing (kind : Nat) : State :=
  let s := admitting (if kind = 1 then 20 else 1) 0 2 [5]
  let w : SWork := { seq := 0, c := 8, given := 2, places := { logits := 0x30000 } }
  (({ s with sv := { s.sv with steps := [{ num := 1, cmd := 1, part := 0, mslot := 0, kind := kind, seen := s.sample, works := if kind = 1 then [] else [w], walked := [(0, 0, 0)] }] } } : State).wr
    0x30010 (leBytes 0x3F800000 4 ++ leBytes 0x40000000 4 ++ leBytes 0x40000000 4 ++ leBytes 0 4))

theorem witness_trainCommit :
    let s := committing 1
    let x : StepRun := { num := 1, cmd := 1, part := 0, mslot := 0, kind := 1, seen := s.sample, walked := [(0, 0, 0)] }
    s.stepOf 1 = some x ∧ s.builderGo 0 = s ∧ s.stepEnded x = true
    ∧ s.cmdsApart ∧ s.Canonical ∧ s.bk.merge = [] ∧ s.cmdOf 1 = some { cmd1 20 0 [5] with phase := 1 } ∧ (cmd1 20 0 [5]).plain := by decide +kernel

theorem witness_commits :
    let s := committing 0
    let w : SWork := { seq := 0, c := 8, given := 2, places := { logits := 0x30000 } }
    let x : StepRun := { num := 1, cmd := 1, part := 0, mslot := 0, seen := s.sample, works := [w], walked := [(0, 0, 0)] }
    s.stepOf 1 = some x ∧ s.builderGo 0 = s ∧ s.stepEnded x = true ∧ s.choiceTurn 0 = true ∧ s.unmetered 0
    ∧ s.cmdsApart ∧ s.Canonical ∧ s.cmdOf 1 = some { cmd1 1 0 [5] with phase := 1 } ∧ (cmd1 1 0 [5]).ring = 0
    ∧ (s.mslot 0).select = 1 ∧ (s.seq 0).rule = 0
    ∧ s.anyBad (logitAt w.places 0 1 4) 16 = false
    ∧ (logitsOf (s.okBytes (logitAt w.places 0 1 4) 16) false 4).toOption = some [0x3F800000, 0x40000000, 0x40000000, 0]
    ∧ argmax [0x3F800000, 0x40000000, 0x40000000, 0] = 1
    ∧ s.settledAt (0x20000 + 4 * 10) 4 ∧ s.settledAt (s.rqbase 0 0) 64 ∧ s.rqbase 0 0 + 64 ≤ 0x20000
    ∧ (s.sampled (x.ownOf w)).rangeStatus (.part 0) true (0x20000 + 40) 4 = 0
    ∧ s.getF F.PRT_RQTAIL_INDEX 0 0 = 0 ∧ s.ringStatus 0 true (s.rqbase 0 0) 64 = 0 := by decide +kernel

theorem witness_fails :
    commits true 0x0A01 = false ∧ commits false 0x0A01 = true ∧ countsRetry true 0x0A01 = true ∧ countsRetry false 0x0A01 = false
    ∧ (committing 0).Canonical ∧ smSorted (committing 0).sv.seqs = true ∧ ((committing 0).seq 0).st = 1 ∧ (committing 0).live 0 = false
    ∧ ((committing 0).setFlag F.PRT_MODE_LIVE true 0).live 0 = true := by decide +kernel

theorem witness_logits :
    (logitsOf [0, 0, 0x80#8, 0xFF#8] false 1).toOption = none ∧ (committing 0).memoryOpen
    ∧ ((committing 0).poisonWord 0x30010).anyBad 0x30010 16 = true ∧ ((committing 0).poisonWord 0x30010).memoryOpen := by decide +kernel

/-- The verifier's choice for the first position of a work with no drafts. -/
theorem witness_verifies : ∃ v u,
    (committing 0).choose .none ((committing 0).seq 0) (logitAt { logits := 0x30010 } 0 0 4) 4 (8 + 1 + 0) = (.ok v, u) := by
  have h : ((committing 0).choose .none ((committing 0).seq 0) (logitAt { logits := 0x30010 } 0 0 4) 4 (8 + 1 + 0)).1.toOption = some 1 := by
    decide +kernel
  generalize hr : (committing 0).choose .none ((committing 0).seq 0) (logitAt { logits := 0x30010 } 0 0 4) 4 (8 + 1 + 0) = r at h
  obtain ⟨a, u⟩ := r
  cases a with
  | error e => simp [Except.toOption] at h
  | ok v => exact ⟨v, u, rfl⟩

/-- Step 1 of partition 0, which holds Hod engine 0: sequence 0 has 2 positions from 8 on, and attends to page 0 from `lo` on. -/
def walkReady (lo : Nat) : State :=
  let s := (admitting 1 0 2 [5]).setF F.PRT_HOD_LO_ENGINES 1 0
  let x : StepRun := { num := 1, cmd := 1, part := 0, mslot := 0, seen := s.sample, units := [(yardBase + 24575 * 65536) / 1024]
                       works := [{ seq := 0, c := 8, given := 2, pages := [[0]], places := { output := 0x3000 } }] }
  ({ s with sv := { s.sv with seqs := [(0, { s.seq 0 with attnLo := lo })], steps := [x] } } : State).fillSpace x

/-- That step and its work. -/
def walkStep (lo : Nat) : StepRun := ((walkReady lo).stepOf 1).getD { num := 0, cmd := 0, part := 0, mslot := 0 }
def walkWork : SWork := { seq := 0, c := 8, given := 2, pages := [[0]], places := { output := 0x3000 } }

theorem witness_walkStarts : ∀ lo ∈ [0, 64],
    let s := walkReady lo
    s.stepOf 1 = some (walkStep lo) ∧ (walkStep lo).works[0]? = some walkWork ∧ s.runningWalk 1 0 0 0 = none
    ∧ s.walkMay (walkStep lo) walkWork 0 0 0 ∧ walkWork.copies 0 = false ∧ s.Canonical ∧ s.memoryOpen ∧ s.unmetered 0 := by decide +kernel

theorem witness_walkUnits : ∀ lo ∈ [0, 64],
    let s := walkReady lo
    let w0 := s.newWalk (walkStep lo) 0 walkWork 0 0 0
    s.snapshotAt (walkStep lo) 0 0 0 ≠ [] ∧ (∀ a ∈ s.snapshotAt (walkStep lo) 0 0 0, s.anyBad a 4 = false)
    ∧ w0.count = 2 ∧ w0.first = 8 ∧ s.walkLow w0 1 = lo
    ∧ s.walkUnits w0 = (if lo = 0 then [⟨1, 0, 0, 0, 0⟩, ⟨1, 0, 0, 1, 0⟩] else [])
    ∧ (∀ k ∈ [0, 1], (s.sampled w0.own).rangeStatus (.part 0) true (w0.outputAt (s.mslot 0) ⟨w0.id, 0, 0, k, 0⟩) 256 = 0
      ∧ s.anyBad (w0.outputAt (s.mslot 0) ⟨w0.id, 0, 0, k, 0⟩) 256 = false ∧ w0.outputAt (s.mslot 0) ⟨w0.id, 0, 0, k, 0⟩ % 8 = 0)
    ∧ (∀ a ∈ s.snapshotAt (walkStep lo) 0 0 0, (s.poisonWord a).anyBad a 4 = true) := by decide +kernel

/-- A walk 0 of that step with the rounds `rs`. -/
def walk0 (rs : List (List (Nat × Nat))) (us : List WalkTag) (cs : List (WalkTag × List (Nat × Nat))) : Walk :=
  { id := 0, hod := 0, part := 0, step := 1, seq := 0, work := 0, pass := 0, layer := 0, mslot := 0, first := 8, count := 2, bucket := 0
    places := { output := 0x3000, scratch := 0x2000 }, rounds := rs, units := us, combined := cs }

/-- A chunk's walk: page 0 goes into Bed 0. -/
def chunkCopy : Walk := { walk0 [[(0, 0)]] [] [] with places := { beds := [bedBase] } }

def copying : State :=
  let s := ((walkReady 0).setF (F.PRT_POOL_COUNT.nth 0) 1 0).setF (hdrF .brk 0x0C 31 28) 3 0
  { s with sv := { s.sv with walks := [chunkCopy], nextWalk := 1 } }

theorem witness_copies_pages :
    let rows := chunkCopy.portion.flatMap fun e => (((copying.mslot 0).frame e.1.2).zipIdx).map fun r => (r.1, e.2 + 2048 * r.2)
    copying.walkOf 0 = some chunkCopy ∧ copying.Canonical ∧ copying.memoryOpen ∧ rows.length = 4 ∧ copying.unwalked 0
    ∧ (∀ r ∈ rows, (copying.sampled chunkCopy.own).rangeStatus (.part 0) false r.1 2048 = 0
        ∧ (copying.sampled chunkCopy.own).rangeStatus (.part 0) true r.2 2048 = 0 ∧ bedBase ≤ r.2 ∧ r.1 + 2048 ≤ 16 * stackBytes)
    ∧ rows.Pairwise (fun a b => a.2 + 2048 ≤ b.2 ∨ b.2 + 2048 ≤ a.2) := by decide +kernel

theorem witness_copies_clean :
    let rows := chunkCopy.portion.flatMap fun e => (((copying.mslot 0).frame e.1.2).zipIdx).map fun r => (r.1, e.2 + 2048 * r.2)
    ∀ r ∈ rows, copying.anyBad r.1 2048 = false ∧ copying.anyBad r.2 2048 = false := by decide +kernel

/-- The walk has its local record in stack 0. -/
def combining : State :=
  let s := walkReady 0
  { s with sv := { s.sv with walks := [walk0 [[(0, 0)]] [⟨0, 0, 0, 0, 0⟩, ⟨0, 0, 0, 1, 0⟩] []], nextWalk := 1 }
           bk := { s.bk with groups := [(0, { post := 1, outfmt := 1, slots := 1, dest := 0x2000, outputs := 32, contrib := 1, home := 0, part := 0
                                              own := .step 1 0, tag := some ⟨0, 0, 0, 0, 0⟩, local_ := true })] } }

/-- The walk has the outputs of its two rounds. -/
def roundsDone : State :=
  let s := walkReady 0
  { s with sv := { s.sv with nextWalk := 1
                             walks := [walk0 [[(0, 0)], [(1, 0)]] [⟨0, 0, 0, 0, 0⟩, ⟨0, 0, 0, 0, 1⟩] [(⟨0, 0, 0, 0, 0⟩, []), (⟨0, 0, 0, 0, 1⟩, [])]] } }

theorem witness_walkCombines :
    let s := combining
    let w := walk0 [[(0, 0)]] [⟨0, 0, 0, 0, 0⟩, ⟨0, 0, 0, 1, 0⟩] []
    let u : WalkTag := ⟨0, 0, 0, 0, 0⟩
    s.walkOf 0 = some w ∧ s.unitPages w 0 0 = [(0, 0)] ∧ unitStacks (s.unitPages w 0 0) = [0] ∧ homeOf (w.rounds.getD w.round []) = 0
    ∧ (s.bk.groups.find? fun e => e.1 / 256 = 0 && e.2.tag = some u && e.2.post = 1) = s.bk.groups.head?
    ∧ s.freeGroup (s.valueStacks w u) = some 1 ∧ s.paused .stk 0 = false ∧ s.nextOpen 0 = none
    ∧ s.reducerShare 0 { (s.valueGroup w u 0 1).group with tag := some u } = true
    ∧ s.bufferUsed 0 + (s.valueGroup w u 0 1).group.space ≤ 4 * 2 ^ 20
    ∧ w.outputAt (s.mslot 0) u < 2 ^ 48 ∧ w.roundAt (s.mslot 0) u < 2 ^ 48 ∧ w.places.outFmt ≤ 1
    ∧ smSorted s.bk.groups = true ∧ smSorted s.bk.lists = true := by decide +kernel

theorem witness_roundsCombine :
    let s := roundsDone
    let w := walk0 [[(0, 0)], [(1, 0)]] [⟨0, 0, 0, 0, 0⟩, ⟨0, 0, 0, 0, 1⟩] [(⟨0, 0, 0, 0, 0⟩, []), (⟨0, 0, 0, 0, 1⟩, [])]
    let space := ((s.stepOf w.step).map fun x => x.units).getD []
    let out := w.outputAt (s.mslot 0) ⟨0, 0, 0, 0, 0⟩
    s.walkOf 0 = some w ∧ s.Canonical ∧ s.memoryOpen ∧ (w.units.filter fun u => u.head = 0 && u.sg = 0 && u.pos = 0).length = 2
    ∧ (∀ u ∈ w.units, ∀ y ∈ [0, 319], s.anyBad (spaceAt space (w.roundAt (s.mslot 0) u + y)) 1 = false)
    ∧ (s.sampled w.own).rangeStatus (.part 0) true out 256 = 0 ∧ s.anyBad out 256 = false ∧ out % 8 = 0 ∧ (s.mslot 0).headDim % 4 = 0
    ∧ s.getF F.HOD_WALK_TMO_US 0 < 100000000 ∧ s.flag F.HOD_FAULT_VALID 0 = false
    ∧ (s.stepOf 1).map (fun x => x.works.map fun y => (y.seq, y.left, y.status)) = some [(0, false, 0)] := by decide +kernel

/-- Trowel core 0 is shown partition `p`, in state `st`. -/
def partIn (p st : Nat) : State := (onUnit .prt p).setF F.PRT_STATE_STATE st p

theorem witness_partitionStates :
    (∀ st ∈ [0, 1, 2, 3], (partIn 31 st).grants (.trowel 0) A.PRT_CMD ∧ (partIn 31 st).instOf .prt (A.PRT_CMD / 0x1000) (.trowel 0) = some 31
      ∧ (partIn 31 st).Canonical ∧ (partIn 31 st).partState 31 = st ∧ (partIn 31 st).holdsEntries 31 = false ∧ (partIn 31 st).cmdsApart ∧ (partIn 31 st).bk.merge = [])
    ∧ mayWrite (.trowel 0) (A.PRT_CMD / 0x1000) = true
    ∧ (opened 1 ((onUnit .prt 0).setF F.PRT_STATE_STATE 1 0)).holdsEntries 0 = true := by decide +kernel

theorem witness_assigns :
    (∀ i ∈ [0, 7], (partIn 31 1).grants (.trowel 0) (A.PRT_POOL + 4 * i)) ∧ (∀ i ∈ [0, 3], (partIn 31 1).grants (.trowel 0) (A.PRT_BGRP + 4 * i))
    ∧ (∀ h ∈ [0, 1], (partIn 31 1).grants (.trowel 0) (A.PRT_HOD_LO + 4 * h)) ∧ (∀ i ∈ [0, 5], (partIn 31 1).grants (.trowel 0) (A.PRT_RG_STK_FLOOR + 4 * i))
    ∧ (partIn 31 1).instOf .prt (A.PRT_POOL / 0x1000) (.trowel 0) = some 31 ∧ (partIn 31 1).instOf .prt (A.PRT_RG_STK_FLOOR / 0x1000) (.trowel 0) = some 31
    ∧ (partIn 31 1).poolTaken 31 0 5 = false ∧ ((partIn 31 1).setReg A.PRT_POOL 80 31).cycleFits 31 = true
    ∧ ((partIn 31 1).setF (F.PRT_POOL_COUNT.nth 0) 9 3).poolTaken 31 0 5 = true
    ∧ ((partIn 31 1).setReg A.PRT_BGRP 1 31).cycleFits 31 = true ∧ ((partIn 31 1).setReg A.PRT_HOD_LO 1 31).cycleFits 31 = true
    ∧ ((partIn 31 1).setF (F.PRT_BGRP_GROUPS.nth 0) 1 3).getF (F.PRT_BGRP_GROUPS.nth 0) 3 &&& (1#32).toNat ≠ 0
    ∧ ((partIn 31 1).setF F.PRT_HOD_LO_ENGINES 1 3).getF (hodField 0) 3 &&& (1#32).toNat ≠ 0
    ∧ (partIn 31 1).grants (.trowel 0) A.PRT_MODE ∧ (partIn 31 2).grants (.trowel 0) A.PRT_MODE := by decide +kernel

theorem witness_regulators :
    (let t := (partIn 31 1).setF (rgCap 0) 5 31; t.rgSum 0 ≤ t.rgLimit 0 ∧ t.getF (rgFloor 0) 31 ≤ t.getF (rgCap 0) 31)
    ∧ (let t := (partIn 31 1).setF (rgFloor 1) 60000 31; t.rgLimit 1 < t.rgSum 1) ∧ smSorted (partIn 31 1).pt.buckets = true
    ∧ (let t := ((partIn 31 1).setF (rgFloor 2) 6 31).setF (rgCap 2) 5 31; t.getF (rgCap 2) 31 < t.getF (rgFloor 2) 31) := by decide +kernel

theorem witness_refills :
    let c := { cmd1 4 0 [] with phase := 1, acks := 1 }
    let s : State := { (partIn 0 2).setF (rgFloor 0) 5 0 with qu := { queued.qu with cmds := [c] } }
    let u : State := { s with pt := { s.pt with owed := [⟨0, 0, 4000, .cmd 1⟩] } }
    smSorted u.pt.buckets = true ∧ u.lk.unpaid = [] ∧ u.yd.waiting = [] ∧ s.pt.owed = [] ∧ u.cmdOf 1 = some c
    ∧ 4000 ≤ min (2 * (s.getF (rgFloor 0) 0 * 1000)) ((s.bucket 0 0).floor + s.getF (rgFloor 0) 0 * 1000) := by decide +kernel

theorem witness_cleared :
    let s := { partIn 31 1 with pt := { (partIn 31 1).pt with wasIn := [(0, 3)] } }
    s.inPool 31 0 = false ∧ s.physOf 0 = some 0 ∧ (0, 3) ∈ s.pt.wasIn ∧ s.getF (F.PRT_POOL_COUNT.nth 0) 31 = 0
    ∧ (s.setReg A.PRT_POOL 80 31).inPool 31 0 = true := by decide +kernel

/-- Trowel core 0 is shown partition 0's cycle table: live slot 0 of class 0, a window of 1,000 µs from 0 on. -/
def cycling (on : Bool) (bal : Int) (pend : Option (Nat × List CSlot)) : State :=
  let s := ((onUnit .cyt 0).setFlag F.CYT_CTRL_ENABLE on 0).setF F.CYT_PERIOD_US 1000 0
  { s with pt := { s.pt with cycles := [(0, { ({} : Cycle) with
      period := 1000, pend := pend, slots := [{ ({} : CSlot) with len := 1000, budget := [10, 0, 0], bal := [bal, 0, 0], active := true, wanted := true }] })] } }

theorem witness_commitsTables :
    (∀ on ∈ [true, false], (cycling on 5 none).grants (.trowel 0) A.CYT_CTRL ∧ (cycling on 5 none).instOf .cyt (A.CYT_CTRL / 0x1000) (.trowel 0) = some 0
      ∧ (cycling on 5 none).Canonical ∧ smSorted (cycling on 5 none).pt.cycles = true
      ∧ (cycling on 5 none).shown (.trowel 0) A.CYT_CTRL % 2 = (if (cycling on 5 none).flag F.CYT_CTRL_ENABLE 0 then 1 else 0)
      ∧ (cycling on 5 none).flag F.CYT_CTRL_ENABLE 0 = on ∧ (cycling on 5 none).cycleFails 0 1000 0 [] = none
      ∧ (cycling on 5 none).getF F.CYT_NSLOTS_COUNT 0 = 0 ∧ (cycling on 5 none).getF F.CYT_PERIOD_US 0 = 1000)
    ∧ mayWrite (.trowel 0) (A.CYT_CTRL / 0x1000) = true
    ∧ (cycling true 5 none).cycleFails 0 999 0 [] = some (1, 0) ∧ (cycling true 5 (some (2000, []))).cycle 0 ≠ (cycling true 5 none).cycle 0
    ∧ ((cycling true 5 none).setF F.CYT_PERIOD_US 999 0).getF F.CYT_PERIOD_US 0 = 999
    ∧ (cycling true 5 none).grants (.trowel 0) A.CYT_SHIFT
    ∧ 2 * signedN 18 (500#32).toNat ≤ (((cycling true 5 none).cycle 0).period : Int)
    ∧ (((cycling true 5 none).cycle 0).period : Int) < 2 * signedN 18 (501#32).toNat := by decide +kernel

theorem witness_windows :
    ((cycling true 5 none).cycle 0).slots[0]? = some { ({} : CSlot) with len := 1000, budget := [10, 0, 0], bal := [5, 0, 0], active := true, wanted := true }
    ∧ (({ ({} : CSlot) with len := 1000, budget := [10, 0, 0], bal := [5, 0, 0], active := true, wanted := true }).left
      && ({ ({} : CSlot) with len := 1000, budget := [10, 0, 0], bal := [5, 0, 0], active := true, wanted := true }).wanted) = true
    ∧ ({ ({} : CSlot) with budget := [10, 0, 0], bal := [-1, 0, 0] }).overdrawn = true
    ∧ ({ ({} : CSlot) with budget := [10, 0, 0], bal := [5, 0, 0] }).overdrawn = false
    ∧ (cycling true (-1) none).br = [] ∧ (cycling true (-1) none).bk.lists = []
    ∧ (cycling false 5 none).flag F.CYT_CTRL_ENABLE 0 = false := by decide +kernel

/-- The bytes of a model image: one granule of weights, its geometry, slot record and manifest. -/
def modelBytes : List (Nat × Byte) :=
  ((([(0, 4, 827871814), (4, 2, 1), (6, 1, 1), (7, 1, 4), (20, 4, 33554432), (24, 1, 158), (25, 1, 98), (26, 1, 145), (27, 1, 151), (28, 1, 12), (29, 1, 180), (30, 1, 77), (31, 1, 217), (32, 1, 64), (33, 1, 8), (34, 1, 199), (35, 1, 155), (36, 1, 202), (37, 1, 249), (38, 1, 216), (39, 1, 111), (40, 1, 24), (41, 1, 180), (42, 1, 180), (43, 1, 155), (44, 1, 165), (45, 1, 178), (46, 1, 160), (47, 1, 71), (48, 1, 129), (49, 1, 219), (50, 1, 113), (51, 1, 153), (52, 1, 237), (53, 1, 59), (54, 1, 158), (55, 1, 78), (64, 1, 1), (72, 8, 8192), (80, 8, 64), (88, 8, 0), (128, 1, 2), (136, 8, 12288), (144, 8, 64), (152, 8, 0), (192, 1, 5), (200, 8, 67108864), (208, 8, 67108864), (216, 8, 0), (256, 1, 6), (264, 8, 16384), (272, 8, 32), (280, 8, 0), (8192, 1, 1), (8193, 1, 1), (8194, 2, 64), (8197, 1, 1), (8200, 4, 1065353216), (12292, 4, 100), (12296, 1, 1), (12302, 2, 65535)] : List (Nat × Nat × Nat)).flatMap fun f => ((leBytes f.2.2 f.2.1).zipIdx).map fun b => (f.1 + b.2, b.1)).filter fun e => e.2 ≠ 0)

/-- Image 63 is that image, sealed, of partition 0, whose owner key is bound; granule 0 is partition 0's. -/
def modelled (s : State) : State :=
  { (owned s).setFlag F.PRT_OWNER_BOUND true 0 with ftg := { ({} : Footing) with
      dir := [(63, { ({} : Image) with state := 3, kind := 1, owner := 0 })], data := modelBytes.map fun e => (63 * 2 ^ 44 + e.1, e.2) } }

def loadAsked : State := modelled (granted (asked 14 0 [63, 0, 0]))

theorem witness_modelLoad :
    let c := cmd1 14 0 [63, 0, 0]
    loadAsked.bk.merge = [] ∧ (loadAsked.image 63).badDie = false ∧ loadAsked.accepts 0 0 14 c c ∧ loadAsked.cmdsApart ∧ loadAsked.Canonical ∧ smSorted loadAsked.sv.mslots = true
    ∧ smSorted loadAsked.bk.regions = true ∧ loadPre c loadAsked = 0 ∧ loadPre (cmd1 14 0 [62, 0, 0]) loadAsked ≠ 0
    ∧ (cmd1 14 0 [62, 0, 0]).badFields = false := by decide +kernel

theorem witness_loadStatus :
    loadAsked.loadStatus (cmd1 14 0 [63, 0, 0]) true true [2] = 0 ∧ loadAsked.loadStatus (cmd1 14 0 [63, 0, 0]) false true [2] = 0x0901 := by
  decide +kernel

/-- The load runs: `n` blocks are owed, of an area of `a` bytes. -/
def loading (n a : Nat) : State :=
  let s := (((served 4 (served 1 (modelled queued))).setF (hdrF .trw 0x0C 31 28) 3 1).setF (hdrF .trw 0x0C 31 28) 3 4)
  { s with sv := { s.sv with mslots := [(0, { ({} : MSlot) with st := 1, part := 0, gen := 1, image := 63, area := a })] }
           ftg := { s.ftg with loads := [1] }
           qu := { s.qu with cmds := [{ cmd1 14 0 [63, 0, 0] with phase := 1, count := n }], nextId := 2 } }

theorem witness_loadBlocks :
    ((loading 64 (2 ^ 26)).loadOf 0 = some { cmd1 14 0 [63, 0, 0] with phase := 1, count := 64 } ∧ (loading 64 (2 ^ 26)).cmdsApart
      ∧ (loading 64 (2 ^ 26)).Canonical ∧ smSorted (loading 64 (2 ^ 26)).ftg.data = true
      ∧ loadBlocks ((loading 64 (2 ^ 26)).frx 63) = 64
      ∧ blockAt (frxLoaded ((loading 64 (2 ^ 26)).frx 63)) 0 = some (2 ^ 26, 0))
    ∧ ((loading 64 0).dutyServed 1 = true ∧ (loading 64 0).loadOf 0 = some { cmd1 14 0 [63, 0, 0] with phase := 1, count := 64 }
      ∧ loadGranules ((loading 64 0).frx 63) 0 = [0])
    ∧ (loading 0 (2 ^ 26)).loadOf 0 = some { cmd1 14 0 [63, 0, 0] with phase := 1, count := 0 } := by decide +kernel

theorem witness_loadManifest : manifestAgrees ((loading 64 0).frx 63) = true := by decide +kernel

/-- Both host links up with all credits, partition 0 and device rights with agent 0. -/
def hosted (s : State) : State :=
  let x : HLink := { ({} : HLink) with rq := 512, pw := 512, data := 2048 }
  let s := (((s.setFlag F.LNT_LINK_A_UP true).setFlag F.LNT_LINK_B_UP true).setHlink 0 x).setHlink 1 x
  ((((s.setBit (F.KST_GRANT_MASK.nth 6) 0 true).setBit (F.KST_GRANT_MASK.nth 0) 0 true).setBit (F.KST_GRANT_MASK.nth 2) 0 true).setBit (F.KST_GRANT_MASK.nth 4) 0 true).setBit
    F.KST_DEVRIGHT_LO_MASK 0 true

/-- Its granule 0 is partition 0's and mutable, and its stacks serve. -/
def hostedMem : State := hosted stackOwned

theorem witness_hostMemory :
    hostedMem.hostOpen 0 ∧ hostedMem.hostOpen 1 ∧ hostedMem.Canonical ∧ 65535 ∉ (hostedMem.hlink 0).tids := by decide +kernel

theorem witness_hostReads :
    hostedMem.hostCheck 0 0 0 256 false false = some (.ok (.mem 0)) ∧ hostedMem.settle 0 = hostedMem ∧ hostedMem.atRest
    ∧ (hostedMem.poisonWord 0).atRest ∧ (hostedMem.poisonWord 0).anyPaused = false ∧ hostedMem.keystonePaused = false
    ∧ (wordsOf 0 256).all (fun w => hostedMem.ecc w = .clean) = true
    ∧ (hostedMem.poisonWord 0).hostCheck 0 0 0 8 false false = some (.ok (.mem 0))
    ∧ ((hostedMem.poisonWord 0).ecc 0 = .poisoned ∧ (hostedMem.poisonWord 0).openWord 0 = false
      ∧ (hostedMem.poisonWord 0).anyBad 0 8 = true ∧ (hostedMem.poisonWord 0).hostOpen 0 ∧ (hostedMem.poisonWord 0).Canonical
      ∧ (hostedMem.poisonWord 0).settle 0 = hostedMem.poisonWord 0) := by decide +kernel

/-- Whichever slab serves its line, it takes the host's reads at once. -/
theorem witness_hostEverySlab : ∀ sl, sl < 48 → hostedMem.yardMay
      { asker := .host 0 1 65535 0 0 0 256, part := 0, cls := 4, slab := sl, ga := 0, acc := { op := 0, addr := 0, len := 256, data := [] }
        since := hostedMem.now } = true
    ∧ (hostedMem.poisonWord 0).yardMay
      { asker := .host 0 1 65535 0 0 0 8, part := 0, cls := 4, slab := sl, ga := 0, acc := { op := 0, addr := 0, len := 8, data := [] }
        since := (hostedMem.poisonWord 0).now } = true := by decide +kernel

theorem witness_hostTaken :
    hostedMem.takenAtOnce (.host 0 1 65535 0 0 0 256) 0 4 0 { op := 0, addr := 0, len := 256, data := [] } := by
  have h : hostedMem.slabOf 0 = slabOfLine (0 / 64) := by
    simp only [State.slabOf]
    exact if_neg (by decide +kernel)
  refine ⟨rfl, ?_⟩
  rw [h]
  exact (witness_hostEverySlab _ (Nat.mod_lt _ (by decide : 0 < 48))).1

/-- Yard block 0 is a LAND block of partition 0. -/
def hostedLand : State := landBlock 0 0 hostedMem

theorem witness_hostWrites :
    (hostedLand.hostOpen 0 ∧ hostedLand.Canonical ∧ hostedLand.ln.held = [] ∧ hostedLand.pt.clearing = []
      ∧ hostedLand.hostCheck 0 0 yardBase 1 true false = some (.ok (.mem yardBase)) ∧ hostedLand.settle yardBase = hostedLand)
    ∧ hostedLand.settledAt yardBase 1 ∧ 65535 ∉ (hostedLand.hlink 0).tids
    ∧ hostedLand.takenAtOnce (.host 0 2 0 0 0 yardBase 1) 0 4 yardBase { op := 1, addr := yardBase, len := 1, data := [some 7] }
    ∧ hostedLand.takenAtOnce (.host 0 3 65535 0 0 yardBase 1) 0 4 yardBase { op := 1, addr := yardBase, len := 1, data := [some 7] } := by
  decide +kernel

theorem witness_hostTakenPoisoned :
    (hostedMem.poisonWord 0).takenAtOnce (.host 0 1 65535 0 0 0 8) 0 4 0 { op := 0, addr := 0, len := 8, data := [] } := by
  have h : (hostedMem.poisonWord 0).slabOf 0 = slabOfLine (0 / 64) := by
    simp only [State.slabOf]
    exact if_neg (by decide +kernel)
  refine ⟨rfl, ?_⟩
  rw [h]
  exact (witness_hostEverySlab _ (Nat.mod_lt _ (by decide : 0 < 48))).2

theorem witness_hostRefusals :
    hostedMem.hostCheck 1 0 0 256 false false = some (.error 0x0602) ∧ hostedMem.hostCheck 0 0 0 256 true true = some (.error 0x0102)
    ∧ hostedMem.flag (hdrF .lnt 0x24 31 31) = false ∧ (hostedMem.postedFail 0x0102 63 31 0).flag (hdrF .lnt 0x24 31 31) = true
    ∧ (hostedMem.postedFail 0x0102 63 31 0).Canonical := by decide +kernel

theorem witness_hostRegRead :
    hostedMem.hostCheck 0 0 (regBase + 0x30040) 4 false false = some (.ok (.reg 0x30040))
    ∧ ((hostedMem.takeIn 0 7 0 false).2.regRead (.host 0) 0x30040 4).isSome = true := by decide +kernel

theorem witness_hostRegWrite :
    hostedMem.hostCheck 0 0 (regBase + 0x31440) 4 true false = some (.ok (.reg 0x31440))
    ∧ ((hostedMem.takeIn 0 7 4 false).2.regWrite (.host 0) 0x31440 4 0).isSome = true := by decide +kernel

theorem witness_hostAccepts :
    ((hostedMem.setHlink 0 {}).hostTakes 0 = true ∧ ((hostedMem.setHlink 0 {}).hlink 0).rq = 0 ∧ ((hostedMem.setHlink 0 {}).hlink 0).pw = 0)
    ∧ ((hostedMem.setHlink 0 { ({} : HLink) with rq := 1, pw := 1, data := 3, tids := [9] }).hostTakes 0 = true
      ∧ 9 ∈ ((hostedMem.setHlink 0 { ({} : HLink) with rq := 1, pw := 1, data := 3, tids := [9] }).hlink 0).tids)
    ∧ (hostedMem.area (localOf 0) = .stack 0 ∧ hostedMem.dv.st = .ready ∧ devOf 0 = hostedMem.dv.devNum
      ∧ devOf (2 ^ 52) ≠ hostedMem.dv.devNum) := by decide +kernel

theorem witness_hostDoorbells :
    hostedMem.dbCheck 0 0 7 false = some 0 ∧ hostedMem.dbCheck 0 0 9 false = some 0 ∧ hostedMem.dbCheck 0 0 8 false = some 0
    ∧ hostedMem.dbCheck 0 0 10 false = some 0x0102 ∧ hostedMem.dbCheck 5 0 0 false = some 0x0602
    ∧ hostedMem.qlog 0 7 = 0 ∧ ((queued.qlog 0 0 ≠ 0) ∧ ringGap 2 (queued.getF F.PRT_QHEAD_INDEX 0 0) ≤ 2 ^ queued.qlog 0 0 ∧ queued.Canonical)
    ∧ (hostedMem.grants (.host 0) A.LNT_RDB ∧ mayWrite (.host 0) 0x31 = true ∧ (served 0 running).grants (.trowel 0) (A.LNT_RDB + 4 * 32)) := by decide +kernel

/-- Link 0 as it says, link 1 up or down. -/
def hlinked (x : HLink) (up1 : Bool) : State := (hosted (served 0 running)).setFlag F.LNT_LINK_B_UP up1 |>.setHlink 0 x

/-- Interrupt source 291 pending, held off where `h`. -/
def pendingIrq (on mask h : Bool) : State :=
  let s := (((hlinked {} true).setFlag F.LNT_IVEC_PENDING true 291).setFlag F.LNT_IVEC_ENABLE on 291).setFlag F.LNT_IVEC_MASK mask 291
  let s := s.setF F.LNT_ISRC_SOURCE 291 0 64
  { s with ln := { s.ln with holdoff := if h then [291] else [] } }

theorem witness_flits :
    (hlinked {} true).hlinkUp 0 = true ∧ ((hlinked {} true).hlink 0).retraining = false ∧ (hlinked {} true).Canonical
    ∧ (hlinked {} true).hlinkUp 1 = true ∧ ((hlinked {} true).hlink 1).retraining = false
    ∧ ((hlinked { ({} : HLink) with replay := [(4095, []), (0, []), (1, [])] } true).hlink 0).replay
        = [(4095, [])] ++ ((0, []) :: [(1, [])])
    ∧ ((hlinked { ({} : HLink) with retraining := true } true).hlink 0).retraining = true
    ∧ ((hlinked { ({} : HLink) with replay := [(4095, [])], naks := 7 } true).hlinkUp 0 = true
      ∧ ((hlinked { ({} : HLink) with replay := [(4095, [])], naks := 7 } true).hlink 0).retraining = false
      ∧ ((hlinked { ({} : HLink) with replay := [(4095, [])], naks := 7 } true).hlink 0).replay = [] ++ ((4095, []) :: []))
    := by decide +kernel

theorem witness_retrains :
    ((hlinked { ({} : HLink) with retraining := true, retrains := 2 } true).Canonical
      ∧ (hlinked { ({} : HLink) with retraining := true, retrains := 2 } true).hlinkUp 0 = true)
    ∧ ((hlinked {} false).hlinkUp 1 = false ∧ ((hlinked {} false).setBit F.LNT_ATTACHED_MASK 31 true).bit F.LNT_ATTACHED_MASK 31 = true
      ∧ ((hlinked {} false).setBit F.LNT_ATTACHED_MASK 31 true).bit F.LNT_SILENT_MASK 31 = false)
    ∧ ((hlinked {} true).hlinkUp (7 / 4) = true ∧ nbit ((hlinked {} true).hlink (7 / 4)).failed (7 % 4) = false
      ∧ ((hlinked {} true).hlink 1).failed / 4 ^ (1 - 1) % 4 = 0)
    ∧ ((hlinked { ({} : HLink) with failed := 1 } true).hlink 0).failed / 4 ^ (1 - 1) % 4 ≠ 0
    ∧ nbit ((hlinked { ({} : HLink) with failed := 1 } true).hlink 0).failed (2 % 4) = false
    ∧ ((running.setUnit .lnt 0 3).hlinkUp 1 = false ∧ (running.setUnit .lnt 0 3).unit .lnt 0 = 3 ∧ (running.setUnit .lnt 0 3).Canonical)
    ∧ (((running.setUnit .lnt 0 3).setHlink 0 { ({} : HLink) with failed := 5 }).hlink 0).failed % 4 ≠ 0 := by decide +kernel

theorem witness_interrupts :
    ((pendingIrq true false false).Canonical ∧ (pendingIrq true false false).intrLink = some 0
      ∧ (pendingIrq true false false).flag F.LNT_IVEC_PENDING 291 = true ∧ (pendingIrq true false false).flag F.LNT_IVEC_ENABLE 291 = true
      ∧ (pendingIrq true false false).flag F.LNT_IVEC_MASK 291 = false)
    ∧ (pendingIrq false false false).flag F.LNT_IVEC_ENABLE 291 = false ∧ (pendingIrq true true false).flag F.LNT_IVEC_MASK 291 = true
    ∧ ((pendingIrq true true true).grants (.trowel 0) A.LNT_IVEC ∧ mayWrite (.trowel 0) 0x32 = true
      ∧ (pendingIrq true true true).idx F.LNT_ISRC_SOURCE (.trowel 0) = 291 ∧ (pendingIrq true true true).ln.holdoff.contains 291 = true)
    := by decide +kernel

/-- The device before release, agent 0 with the device right. -/
def booting : State := let s := hosted State.reset; { s with dv := { s.dv with st := .boot } }

theorem witness_sideband :
    (hlinked {} true).dv.st ≠ .off ∧ 0x31000 / 0x1000 ≠ 0x30 ∧ 0x31000 ≠ A.LNT_RDB
    ∧ ((hlinked {} true).regWrite (.host 0) A.LNT_RDB 4 0).isSome = true
    ∧ ((hlinked {} true).regRead (.host 0) 0x30FFC 4).isSome = true
    ∧ ((hosted State.reset).regWrite (.host 0) A.LNT_RDB 4 0).isSome = false
    ∧ (booting.deviceRight 0 = true ∧ booting.dv.st = .boot) := by decide +kernel

/-- Partition `p`'s host attached, its silence phase and cause as given, the partition in state `st`. -/
def attachedIn (p st phase cause : Nat) : State :=
  ((((served 0 (partIn p st)).setBit F.LNT_ATTACHED_MASK p true).setF F.LNT_SSTAT_PHASE phase p).setF F.LNT_SSTAT_CAUSE cause p)

/-- A message of a type at the head of channel `c`, with a reply wanted. -/
def told (c ty : Nat) (pay : List (Nat × Nat × Nat)) : State := mailed c (mkMsg ty 1 7 0 pay)

/-- The same with partition 31 in state `st`, agent 0 holding its register right, and interface major `v` in use. -/
def told31 (ty st v : Nat) (pay : List (Nat × Nat × Nat)) : State :=
  let s := ((told 32 ty pay).setF F.PRT_STATE_STATE st 31).setBit (F.KST_GRANT_MASK.nth (31 * 8 + 6)) 0 true
  let s := s.setBit (F.KST_GRANT_MASK.nth (31 * 8 + 4)) 0 true
  { s with ln := { s.ln with major := v } }

theorem witness_attachDevice :
    running.h2fPeek 0 = none
    ∧ ((told 0 1 [(16, 2, 1)]).hostMsg 0 1 = some (mkMsg 1 1 7 0 [(16, 2, 1)]) ∧ (told 0 1 [(16, 2, 1)]).Canonical
      ∧ (told 0 1 [(16, 2, 1)]).ln.ahead = 0)
    ∧ (((told 0 1 [(16, 2, 1)]).setF F.LNT_IFVER_MAJOR 1).getF F.LNT_IFVER_MAJOR = 1 ∧ fieldB (mkMsg 1 1 7 0 [(16, 2, 1)]) 16 2 = 1)
    ∧ fieldB (mkMsg 1 1 7 0 [(16, 2, 2)]) 16 2 ≠ 1 := by decide +kernel

theorem witness_attachPart :
    ((told31 1 4 1 [(16, 2, 1)]).hostMsg 32 1 = some (mkMsg 1 1 7 0 [(16, 2, 1)]) ∧ (told31 1 4 1 [(16, 2, 1)]).Canonical
      ∧ (told31 1 4 1 [(16, 2, 1)]).attachBad 31 0 (mkMsg 1 1 7 0 [(16, 2, 1)]) = false ∧ (told31 1 4 1 [(16, 2, 1)]).qu.cmds = [])
    ∧ (told31 1 0 1 [(16, 2, 1)]).partState 31 = 0
    ∧ ((told31 2 2 1 [(16, 1, 1)]).hostMsg 32 2 = some (mkMsg 2 1 7 0 [(16, 1, 1)]) ∧ (told31 2 2 1 [(16, 1, 1)]).Canonical)
    ∧ (told 0 2 []).hostMsg 0 2 = some (mkMsg 2 1 7 0 []) ∧ (told31 3 2 1 []).hostMsg 32 3 = some (mkMsg 3 1 7 0 []) := by decide +kernel

theorem witness_unknownMessages :
    ((told 0 2 []).h2fPeek 0 = some (mkMsg 2 1 7 0 []) ∧ (told 0 2 []).servesChannel 0 = true)
    ∧ (fieldB (mkMsg 0x20 1 7 0 []) 0 2 ∉ [1, 2, 3, 0x11] ∧ (told 1 0x20 []).h2fPeek 1 = some (mkMsg 0x20 1 7 0 []))
    ∧ ((let s := ((told31 3 2 1 []).setF F.LNT_F2H_SIZE_LOG2 4 32).setReg A.LNT_F2H_BASE_LO 0x20000#32 32
        s.Canonical ∧ 4 ≤ s.getF F.LNT_F2H_SIZE_LOG2 32 ∧ smGet (fun _ => []) s.ln.held 32 = [] ∧ s.dutyServed 6 = true
          ∧ (s.rdN (s.f2hBase 32) 2 + 65536 - s.rdN (s.f2hBase 32 + 64) 2) % 65536 < 2 ^ 4
          ∧ s.h2fBase 32 + 128 ≤ s.f2hBase 32 ∧ s.pt.clearing = [] ∧ s.anyBad (s.f2hBase 32) 8 = false
          ∧ s.anyBad (s.h2fBase 32 + 64) 8 = false)) := by decide +kernel

theorem witness_silences :
    ((attachedIn 31 2 2 1).Canonical ∧ (attachedIn 31 2 2 1).grants (.trowel 0) (A.LNT_HB + 4 * 31)
      ∧ mayWrite (.trowel 0) (A.LNT_HB / 0x1000) = true ∧ (attachedIn 31 2 2 1).bit F.LNT_ATTACHED_MASK 31 = true ∧ (attachedIn 31 2 2 1).getF F.LNT_SSTAT_PHASE 31 = 2
      ∧ (attachedIn 31 2 2 1).getF F.LNT_SSTAT_CAUSE 31 = 1 ∧ (attachedIn 31 2 2 1).qu.cmds = [])
    ∧ ((attachedIn 31 2 1 0).bit F.LNT_ATTACHED_MASK 31 = true ∧ (attachedIn 31 2 1 0).bit F.LNT_SILENT_MASK 31 = false
      ∧ max 1 ((attachedIn 31 2 1 0).getF F.LNT_HB_TMO_MS) ≤ 65535)
    ∧ (((attachedIn 31 2 1 0).setF F.PRT_CQSIZE_LOG2 4 31 7).setF F.PRT_CQTAIL_INDEX 16 31 7).ringFull 31 7 = true
    ∧ (attachedIn 31 2 1 0).graceMs 31 ≤ 65536 := by decide +kernel

theorem witness_parkingEnds :
    ((attachedIn 31 2 2 1).getF F.LNT_SSTAT_MS_LEFT 31 ≤ 0 ∧ (attachedIn 31 2 2 1).partState 31 = 2
      ∧ smSorted (opened 1 (attachedIn 0 2 2 1)).sv.seqs = true ∧ ((opened 1 (attachedIn 0 2 2 1)).seq 0).st = 1
      ∧ ((opened 1 (attachedIn 0 2 2 1)).seq 0).part = 0)
    ∧ ((attachedIn 31 4 3 1).partState 31 = 4 ∧ (attachedIn 31 4 3 1).retainS 31 ≤ 65535 ∧ (attachedIn 31 4 3 1).Canonical) := by decide +kernel

/-- Stack 0 in a sweep, as its registers and owners stand in `stackUp`. -/
def sweeping : State :=
  let s := stackOwned
  { s with it := { s.it with sweeps := [(Blk.stk.code * 0x10000, 1)] } }

/-- An Open fault at `a`, its granule 0 of pages or of slot 0's weights; sequence 0 read it. -/
def faulted (a region : Nat) (readers : List Nat) : State :=
  let s := opened 1 ((onUnit .prt 0).setF F.PRT_STATE_STATE 2 0)
  { s with it := { s.it with faults := [⟨a, 1, 0⟩], cur := [(0, readers)] }, bk := { s.bk with regions := [(0, region)] } }

/-- Block 0 of slot 0's weights waits for its reload (0), has failed (1) or is being reloaded (2). -/
def reloadingAt (st : Nat) : State :=
  let s := (loading 0 (2 ^ 26)).setUnit .stk 0 3
  { s with it := { s.it with reloads := [(0, st)] }, bk := { s.bk with regions := [(0, 0x5400000000000000)] } }

theorem witness_sweeps :
    (stackOwned.scrubbed Blk.stk.code 0 = true ∧ stackOwned.sweepOf (Blk.stk.code * 0x10000) = none ∧ stackOwned.Canonical)
    ∧ running.scrubbed Blk.stk.code 16 = false
    ∧ (sweeping.checkerOf 64 = some (Blk.stk.code * 0x10000) ∧ stackOwned.checkerOf 64 = some (Blk.stk.code * 0x10000)
      ∧ sweeping.scrubWaits 64 = false ∧ sweeping.scrubWaits (stackBytes - 8) = false
      ∧ sweeping.sweepOf (Blk.stk.code * 0x10000) = some 0 ∧ sweeping.ecc 64 = .clean ∧ sweeping.Canonical ∧ sweeping.openWord 64 = false)
    ∧ (sweeping.checkerOf (stackBytes - 8) = some (Blk.stk.code * 0x10000) ∧ sweeping.ecc (stackBytes - 8) = .clean
      ∧ stackBytes - 8 + 8 = unitEnd (stackBytes - 8) ∧ sweeping.openWord (stackBytes - 8) = false ∧ smSorted sweeping.it.sweeps = true)
    ∧ 9 * sweeping.getF F.REG_SCRUB_CTL_PERIOD_MS ≤ 10 * (2 ^ 40 / 1000000 - 0) := by decide +kernel

theorem witness_openFaults :
    ((faulted 64 0 [0, 8192]).Canonical ∧ smSorted (faulted 64 0 [0, 8192]).sv.seqs = true
      ∧ (faulted 64 0 [0, 8192]).it.faults[0]? = some ⟨64, 1, 0⟩ ∧ (faulted 64 0 [0, 8192]).isHashed (granule 64) = false
      ∧ ((faulted 64 0 [0, 8192]).seq 0).st = 1)
    ∧ ((faulted 64 0x5400000000000000 []).isHashed (granule 64) = true ∧ (faulted 64 0x5400000000000000 []).hashedSlot 64 = 0
      ∧ ((faulted 64 0x5400000000000000 []).seq 0).mslot = 0)
    ∧ ((faulted 64 0x5400800000000000 []).isHashed (granule 64) = true ∧ (faulted 64 0x5400800000000000 []).hashedSlot 64 = 1
      ∧ (faulted 64 0x5400800000000000 []).sv.seqs.all (fun e => decide (e.2.mslot ≠ 1)) = true) := by decide +kernel

theorem witness_reloads :
    ((reloadingAt 0).Canonical ∧ (0, 0) ∈ (reloadingAt 0).it.reloads ∧ (reloadingAt 0).flag F.REG_RELOAD_STAT_BUSY = false
      ∧ (reloadingAt 0).stackServes (0 / stackBytes) = true ∧ (reloadingAt 0).footingWaits = false)
    ∧ (0, 1) ∈ (reloadingAt 1).it.reloads ∧ (0, 2) ∈ (reloadingAt 2).it.reloads ∧ (reloadingAt 2).hashedSlot 0 = 0
    ∧ smSorted (reloadingAt 2).sv.mslots = true ∧ smSorted (reloadingAt 2).ftg.data = true
    ∧ (reloadingAt 2).blockSource 0 = some (2 ^ 26) ∧ ((reloadingAt 2).mslot 0).st = 1
    ∧ (reloadingAt 2).slotReloads 0 = [(0, 2)] ∧ (0, 2) ∉ (reloadingAt 1).it.reloads
    ∧ ((reloadingAt 2).image ((reloadingAt 2).mslot 0).image).badDie = false := by decide +kernel

/-- Sequence 0 is damaged: its model slot in state `st`, rebuilt up to `recAt`, from `p0`, its chunks running where `rb`. -/
def recomp (st recAt p0 : Nat) (rb : Bool) : State :=
  let s := stepReady (opened 4 queued)
  { s with sv := { s.sv with mslots := [(0, { ({} : MSlot) with st := st, part := 0, gen := 1, vocab := 4, select := 1, kvHeads := 1, qPerKv := 1, headDim := 64, layers := 1, tplGiven := 3, tplChunk := 3 })]
                             seqs := [(0, { s.seq 0 with damaged := true, rebuilding := rb, recFrom := 1, recAt := recAt, p0 := p0 })] } }

/-- A chunk of sequence 0 with `given` positions stands ended. -/
def recompEnding (given status : Nat) (restart : Bool) : State :=
  let s := recomp 2 0 0 true
  { s with sv := { s.sv with seqs := [(0, { s.seq 0 with restart := restart })]
                             steps := [{ num := 1, cmd := 0, part := 0, mslot := 0, kind := 2, works := [{ seq := 0, c := 0, given := given, turn := true, status := status }] }] } }

theorem witness_recompute :
    ((recomp 2 0 0 true).recomputable 0 = true ∧ (recomp 2 0 0 true).Canonical ∧ smSorted (recomp 2 0 0 true).sv.seqs = true)
    ∧ ((recomp 1 0 0 false).recomputable 0 = true ∧ ((recomp 1 0 0 false).mslot 0).st ≠ 2)
    ∧ ((recomp 2 0 8 false).seq 0).clen ≤ 8 ∧ (recomp 2 0 8 false).reloading 0 = false
    ∧ (let s := recomp 2 0 0 true
       let r : State := { s with it := { s.it with reloads := [(0, 0)] }, bk := { s.bk with regions := [(0, 0x5400000000000000)] } }
       r.reloading 0 = true ∧ r.recomputable 0 = true) ∧ (running.recomputable 0 = false) := by decide +kernel

/-- The work of its next chunk. -/
def chunkWork : SWork := { seq := 0, c := 0, given := 8, turn := true, dlen := 0, cls := 2, slot := ((recomp 2 0 0 true).classGrant 0 2).slot?, again := true }

/-- With no template to run under, its chunk is left out. -/
def recompShort : State :=
  let s := recomp 2 0 0 true
  { s with sv := { s.sv with tpls := [] } }

theorem witness_chunk :
    min (256 * 2 ^ ((recomp 2 0 0 true).seq 0).chunk) (((recomp 2 0 0 true).seq 0).clen - 0) = 8
    ∧ ((recomp 2 0 0 true).admitWorks 0 0 [chunkWork]).2.map (fun z => z.work.left) = [false]
    ∧ (let a := (recomp 2 0 0 true).admitWorks 0 0 [chunkWork]
      (a.1.takeWork 0 (a.1.stepSpace (a.2.map fun z => z.work))).isSome = true)
    ∧ (let s := (recomp 2 0 0 true).setF F.YRD_BENTRY_KIND 1 0 24575
      let a := s.admitWorks 0 0 [chunkWork]
      a.2.map (fun z => z.work.left) = [false] ∧ (a.1.takeWork 0 (a.1.stepSpace (a.2.map fun z => z.work))).isSome = false)
    ∧ (recompShort.admitWorks 0 0 [chunkWork]).2.map (fun z => z.work.left) = [true] := by decide +kernel

theorem witness_recomputeEnd :
    (∀ x ∈ [(8, 0, true), (8, 0x0401, false), (8, 0, false), (4, 0, false)], let s := recompEnding x.1 x.2.1 x.2.2;
      s.Canonical ∧ smSorted s.sv.seqs = true ∧ s.sv.steps.length = 1 ∧ (s.seq 0).restart = x.2.2 ∧ s.sv.steps.map s.stepEnded = [true] ∧ s.bk.merge = [] ∧ s.stepOf 1 = s.sv.steps.head?)
    ∧ (recompEnding 8 0 false).sv.steps.find? (fun y => y.kind = 2 && y.works.any fun v => v.seq = 0)
        = some { num := 1, cmd := 0, part := 0, mslot := 0, kind := 2, works := [{ seq := 0, c := 0, given := 8, turn := true, status := 0 }] }
    ∧ (let s := recompEnding 8 0 false
      let u : State := { s with sv := { s.sv with steps := s.sv.steps.map fun y => { y with acks := 1 } } }
      u.sv.steps.map u.stepEnded = [false]) := by decide +kernel

theorem witness_recovery :
    (let s := (recomp 2 0 0 true).setFlag F.PRT_MODE_LIVE true 0
     (s.seq 0).st ≠ 0 ∧ (s.seq 0).damaged = true ∧ s.live 0 = true ∧ s.inStep 0 = false)
    ∧ ((partIn 31 5).partState 31 = 5 ∧ (partIn 31 5).Canonical ∧ (partIn 31 5).sv.seqs = [])
    ∧ ((faulted 64 0x5400000000000000 []).Canonical ∧ smSorted (faulted 64 0x5400000000000000 []).sv.mslots = true) := by decide +kernel

theorem witness_lostStack :
    (let s := (faulted 64 0x5400000000000000 []).setUnit .stk 0 3
     s.present .stk 0 = true ∧ s.stackServes 0 = true ∧ s.hashedIn 0 = [0] ∧ s.Canonical ∧ s.lostFrom (s.seq 0) 0 = some 0
      ∧ s.qu.cmds = [] ∧ s.sv.steps = []) ∧ running.stackServes 15 = false := by decide +kernel

theorem witness_audits :
    (∀ b ∈ [Blk.brk, .hod, .yrd, .stk, .qlk], let s := (served 0 running).setUnit b 7 3;
      s.Canonical ∧ s.dutyServed 0 = true ∧ s.present b 7 = true ∧ s.unit b 7 = 3
      ∧ ((served 0 running).setUnit b 7 5).unit b 7 = 5) ∧ ((served 0 running).setUnit .hod 7 5).resetFree .hod 7 = true
    ∧ (let s := recomp 2 0 0 true; ({ s with bk := { s.bk with lists := [(7, [{ w0 := 0, w1 := 0, w2 := 0, w3 := 0, part := 0, own := .none }])] } } : State).resetFree .hod 7 = false) := by decide +kernel

/-- Powered up and in `BOOT`, with sealed firmware images of the four components. -/
def bootable : State :=
  let bytes (i : Nat) : List (Nat × Byte) :=
    (frxBytes ++ (if i = 0 then [] else [(8192, BitVec.ofNat 8 i)] : List (Nat × Byte))).map fun e => (i * 2 ^ 44 + e.1, e.2)
  { State.reset with
    pw := { running.pw with coldResetN := true }, dv := { State.reset.dv with st := .boot }
    ftg := { ({} : Footing) with dir := (List.range 4).map fun i => (i, { ({} : Image) with state := 3, kind := 3 })
                                 data := (List.range 4).flatMap bytes } }

/-- In bring-up, before T1 starts, or with T1 to T7 started. -/
def bringing (up : Bool) : State :=
  let s : State := { State.reset with dv := { State.reset.dv with st := .bringup } }
  if up then s.setUnit .trw 1 3 else s

theorem witness_boot :
    (bootable.dv.st = .boot ∧ bootable.pw.pwrState = 2 ∧ bootable.pw.coldResetN = true ∧ bootable.Canonical)
    ∧ bootable.fwVersion 1 = 0 ∧ bootable.bootImage 0 [] = none ∧ State.reset.dv.st ≠ .boot := by decide +kernel

theorem witness_bootImages : (List.range 4).all (fun c => decide (bootable.bootImage c [0, 1, 2, 3] = some c)) = true := by decide +kernel

theorem witness_bringup :
    ((bringing false).Canonical ∧ (bringing false).dv.st = .bringup ∧ (bringing false).unit .trw 1 = 1 ∧ (bringing false).bm = {}
      ∧ (bringing false).present .stk 15 = true ∧ (bringing false).flag F.STK_TRAIN_START 15 = false)
    ∧ (let s : State := { bringing true with dv := { (bringing true).dv with stacksDone := List.range 16 } }
       s.unit .trw 1 ≠ 1 ∧ s.stacksSettled = true) ∧ (bringing true).stacksSettled = false := by decide +kernel

theorem witness_release :
    placementOk yardBase (yardBase + 0x10000) (yardBase + 0x60000) 4 12 = true ∧ placementOk 0 0 0 4 4 = false
    ∧ (let s : State := { bringing true with dv := { (bringing true).dv with fillRunning := true } }
       s.Canonical ∧ s.dv.st = .bringup ∧ s.present .stk 15 = true ∧ ((s.setF F.STK_TRAIN_PHASE 3 15).getF F.STK_TRAIN_PHASE 15 = 3))
    ∧ (let s := ((bringing true).setUnit .trw 0 3).setUnit .lnt 0 3
       let s : State := { s with dv := { s.dv with st := .failed } }
       s.Canonical ∧ s.unit .trw 0 ≠ 1 ∧ s.unit .lnt 0 = 3 ∧ s.dv.releaseHeld = false) := by decide +kernel

theorem witness_resets :
    ((served 0 running).grants (.trowel 0) 0x140008 ∧ (served 0 running).mayWarmReset (.trowel 0) = true ∧ mayWrite (.trowel 0) 0x140 = true
      ∧ (served 0 running).dv.st = .ready)
    ∧ (let s : State := { served 0 running with dv := { running.dv with st := .warmReset, draining := true } }
       s.Canonical ∧ s.lk.links = [] ∧ s.lk.held = [] ∧ s.lk.unpaid = [] ∧ s.bk.tickets = [] ∧ s.yd.waiting = [] ∧ s.grants (.trowel 0) 0x140008 ∧ s.mayWarmReset (.trowel 0) = true)
    ∧ ((partIn 31 2).grants (.trowel 0) 0x150008 ∧ mayWrite (.trowel 0) 0x150 = true ∧ (partIn 31 2).hdrInst .prt 0x150 (.trowel 0) = some 31
      ∧ (partIn 31 2).partState 31 = 2 ∧ (partIn 31 2).Canonical ∧ (partIn 31 0).partState 31 = 0
      ∧ (partIn 31 0).hdrInst .prt 0x150 (.trowel 0) = some 31) := by decide +kernel

/-- A Keystone request at the head of channel 0, its slot holding `b`; partition 31 in `CONFIG`. -/
def keyed (type : Nat) (pay : List (Nat × Nat × Nat)) (b : List Byte) : State :=
  let s := (mailed 0 (mkMsg type 1 7 0 pay)).setF F.PRT_STATE_STATE 1 31
  ({ s with ks := { s.ks with exchBase := yardBase + 0x80000 }, ln := { s.ln with bells := [0] } } : State).wr (yardBase + 0x80000) b

theorem witness_keystoneIdle : running.h2fPeek 0 = none ∧ State.reset.h2fPeek 0 = none := by decide +kernel

theorem witness_keystoneRows :
    ((keyed 0x28 [(16, 1, 4)] []).ksAt 0x28 (mkMsg 0x28 1 7 0 [(16, 1, 4)]) 4)
    ∧ ((keyed 0x28 [(16, 1, 0)] []).ksAt 0x28 (mkMsg 0x28 1 7 0 [(16, 1, 0)]) 0 ∧ (keyed 0x28 [(16, 1, 0)] []).slotBusy 0 = false
      ∧ (keyed 0x28 [(16, 1, 0)] []).Canonical ∧ (keyed 0x28 [(16, 1, 0)] []).bk.merge = [] ∧ yardBase ≤ (keyed 0x28 [(16, 1, 0)] []).slotAt 0
      ∧ (wordsOf ((keyed 0x28 [(16, 1, 0)] []).slotAt 0) 8192).all (fun w => (keyed 0x28 [(16, 1, 0)] []).ecc w = .clean) = true
      ∧ (keyed 0x28 [(16, 1, 0)] []).anyBad ((keyed 0x28 [(16, 1, 0)] []).slotAt 0) 8192 = false)
    ∧ ((keyed 0x29 [(16, 1, 0), (17, 1, 31)] []).ksAt 0x29 (mkMsg 0x29 1 7 0 [(16, 1, 0), (17, 1, 31)]) 0
      ∧ (keyed 0x29 [(16, 1, 0), (17, 1, 31)] []).getPair A.KST_ATT_CNT_LO A.KST_ATT_CNT_HI + 1 < 2 ^ 64)
    ∧ (keyed 0x29 [(16, 1, 0), (17, 1, 32)] []).ksAt 0x29 (mkMsg 0x29 1 7 0 [(16, 1, 0), (17, 1, 32)]) 0
    ∧ fieldB (mkMsg 0x29 1 7 0 [(16, 1, 0), (17, 1, 32)]) 17 1 = 32 := by decide +kernel

theorem witness_reportLength : ((keyed 0x29 [(16, 1, 0), (17, 1, 31)] []).report 31 (sliceB (mkMsg 0x29 1 7 0 [(16, 1, 0), (17, 1, 31)]) 24 32)).length = 512 := by decide +kernel

theorem witness_binds :
    (let s := keyed 0x2A [(16, 1, 0), (17, 1, 31), (18, 1, 63)] []
     s.ksAt 0x2A (mkMsg 0x2A 1 7 0 [(16, 1, 0), (17, 1, 31), (18, 1, 63)]) 0 ∧ s.ksSlot 0 1312 ∧ s.Canonical ∧ s.partState 31 = 1
      ∧ s.flag F.PRT_OWNER_BOUND 31 = false ∧ s.flag F.KST_STATE_DEBUG = false ∧ s.ks.ownerKeys = []
      ∧ (s.setFlag F.PRT_OWNER_BOUND true 31).flag F.PRT_OWNER_BOUND 31 = true)
    ∧ (let s := keyed 0x2A [(16, 1, 0), (17, 1, 31), (18, 1, 64)] []
     s.ksAt 0x2A (mkMsg 0x2A 1 7 0 [(16, 1, 0), (17, 1, 31), (18, 1, 64)]) 0 ∧ s.ksSlot 0 1312) := by decide +kernel

/-- A grant of a kind to partition 31, counter 5. -/
def grantBytes (kind : Nat) (more : List (Nat × Nat × Nat)) : List Byte :=
  recB 320 ([(0, 4, 0x544E5247), (4, 1, kind), (5, 1, 31), (8, 4, 5)] ++ more)

/-- The request that names it; partition 31 is bound. -/
def granting (kind : Nat) (more : List (Nat × Nat × Nat)) : State :=
  (keyed 0x2B [(16, 1, 0)] (grantBytes kind more)).setFlag F.PRT_OWNER_BOUND true 31

theorem witness_grants :
    ∀ x ∈ [(1, []), (2, [(83, 1, 1), (84, 8, 1)]), (3, [(48, 1, 1)])],
      let s := granting x.1 x.2;
      s.ksAt 0x2B (mkMsg 0x2B 1 7 0 [(16, 1, 0)]) 0 ∧ s.ksSlot 0 2724 ∧ grantOk (s.okBytes (s.slotAt 0) 2724) = true
      ∧ fieldB (s.okBytes (s.slotAt 0) 2724) 4 1 = x.1 ∧ s.flag F.PRT_OWNER_BOUND 31 = true
      ∧ sliceB (s.okBytes (s.slotAt 0) 2724) 16 32 = s.idHash ∧ s.getF (F.KST_GCOUNT_COUNTER.nth 31) < 5 ∧ s.Canonical := by decide +kernel

theorem witness_grantOfNoKind :
    (granting 4 []).ksAt 0x2B (mkMsg 0x2B 1 7 0 [(16, 1, 0)]) 0 ∧ (granting 4 []).ksSlot 0 2724
    ∧ 3 < fieldB ((granting 4 []).okBytes ((granting 4 []).slotAt 0) 2724) 4 1 := by decide +kernel

theorem witness_peers :
    (let s := keyed 0x2C [(16, 1, 3), (17, 1, 1), (18, 2, 1)] []
     let t := (s.setF F.QLK_STATE_STATE 3 63)
     t.ksAt 0x2C (mkMsg 0x2C 1 7 0 [(16, 1, 3), (17, 1, 1), (18, 2, 1)]) 3 ∧ t.slotBusy 3 = false ∧ t.Canonical ∧ t.linkUp 63 = true
      ∧ (t.qlink 63).peerHash ≠ t.okBytes (t.slotAt 3) 32 ∧ (wordsOf (t.slotAt 3) 32).all (fun w => t.ecc w = .clean) = true)
    ∧ (keyed 0x2C [(16, 1, 0), (17, 1, 2)] []).ksAt 0x2C (mkMsg 0x2C 1 7 0 [(16, 1, 0), (17, 1, 2)]) 0 := by decide +kernel

theorem witness_debug :
    (let s := keyed 0x2D [(16, 1, 0)] (recB 64 [(0, 4, 0x47424444)])
     s.ksAt 0x2D (mkMsg 0x2D 1 7 0 [(16, 1, 0)]) 0 ∧ s.ksSlot 0 2484 ∧ s.Canonical ∧ (∀ p, p < 32 → s.flag F.PRT_OWNER_BOUND p = false)
      ∧ fieldB (s.okBytes (s.slotAt 0) 64) 0 4 = 0x47424444 ∧ sliceB (s.okBytes (s.slotAt 0) 64) 4 32 = s.idHash
      ∧ fieldB (s.okBytes (s.slotAt 0) 64) 36 8 = s.getPair A.KST_BOOT_NONCE_LO A.KST_BOOT_NONCE_HI
      ∧ (s.setFlag F.PRT_OWNER_BOUND true 31).flag F.PRT_OWNER_BOUND 31 = true) := by decide +kernel

/-- The directory of four running firmware images, and image 4: version 1 of component 2. -/
def firmwareDir : Footing :=
  let more (i : Nat) : List (Nat × Byte) := (if i = 4 then [(8192, 2#8), (8196, 1#8)] else if i = 0 then [] else [(8192, BitVec.ofNat 8 i)])
    ++ (if i = 2 ∨ i = 4 then [] else [(8228, 9#8)])
  { ({} : Footing) with dir := (List.range 5).map fun i => (i, { ({} : Image) with state := 3, kind := 3 })
                        data := (List.range 5).flatMap fun i => (frxBytes ++ more i).map fun e => (i * 2 ^ 44 + e.1, e.2) }

/-- An update message at the head of channel 0. -/
def updAsked (ty : Nat) (pay : List (Nat × Nat × Nat)) : State :=
  let s := mailed 0 (mkMsg ty 1 7 0 pay)
  { s with ftg := firmwareDir, ks := { s.ks with runImage := [(0, 0), (1, 1), (2, 2), (3, 3)] } }

/-- Component 2 is pending: image 4 runs beside image 2, kept. -/
def pendingUpd (ty : Nat) (pay : List (Nat × Nat × Nat)) : State :=
  let s := updAsked ty pay
  { s with ftg := { s.ftg with pendComps := [2], oldImg := [(2, 2)] }, ks := { s.ks with runImage := [(0, 0), (1, 1), (2, 4), (3, 3)] } }

/-- Its instances `l` are still to switch to image `i`; it is being taken back where `f`. -/
def switching (l : List Nat) (i : Nat) (f : Bool) : State :=
  let s := (pendingUpd 0x23 []).setOp (if f then 3 else 1) 2
  { s with ks := { s.ks with actLeft := l, actImage := i, actMsg := mkMsg 0x20 1 7 0 [], fallLeft := if f then [2] else [], pausing := true } }

/-- The same between two instances' pauses. -/
def between (l : List Nat) : State := let s := switching l 4 false; { s with ks := { s.ks with pausing := false } }

theorem witness_betweenPauses :
    (let s := (between [0, 1]).setUnit .stk 0 3
     s.updBusy = true ∧ s.serving0 = true ∧ s.Canonical ∧ s.ks.actLeft = [0, 1] ∧ s.ks.pausing = false ∧ s.stackServes 0 = true
      ∧ s.getF F.KST_UPD_STAT_COMPONENT = 2 ∧ s.flag F.STK_RPR_STAT_BUSY 0 = false
      ∧ (s.setFlag F.STK_RPR_STAT_BUSY true 0).flag F.STK_RPR_STAT_BUSY 0 = true)
    ∧ ((between [14, 15]).stackServes 14 = false ∧ (between [14, 15]).stackServes 15 = false)
    ∧ ((between []).ks.actLeft = [] ∧ (between []).ks.fallLeft = [] ∧ (between []).Canonical)
    ∧ (((switching [7] 4 false).setF F.KST_UPD_STAT_COMPONENT 3).paused .qlk (63 / 8) = true) := by decide +kernel

theorem witness_activates :
    (updAsked 0x20 [(20, 4, 4)]).updMsg 0x20 = some (mkMsg 0x20 1 7 0 [(20, 4, 4)]) ∧ (updAsked 0x20 [(20, 4, 4)]).Canonical
    ∧ (updAsked 0x20 [(20, 4, 4)]).updMsg 0x21 = none
    ∧ (updAsked 0x20 [(20, 4, 5)]).updMsg 0x20 = some (mkMsg 0x20 1 7 0 [(20, 4, 5)])
    ∧ (updAsked 0x20 [(20, 4, 5)]).activateStatus (mkMsg 0x20 1 7 0 [(20, 4, 5)]) true = 0x030D ∧ (running.updMsg 0x23 = none) := by decide +kernel

theorem witness_activateAccepted : (updAsked 0x20 [(20, 4, 4)]).activateStatus (mkMsg 0x20 1 7 0 [(20, 4, 4)]) true = 0 := by decide +kernel

theorem witness_activateRejected : (updAsked 0x20 [(20, 4, 4)]).activateStatus (mkMsg 0x20 1 7 0 [(20, 4, 4)]) false = 0x0901 := by decide +kernel

theorem witness_instances :
    ((switching [0, 1] 4 false).updBusy = true ∧ (switching [0, 1] 4 false).serving0 = true ∧ (switching [0, 1] 4 false).Canonical
      ∧ (switching [0, 1] 4 false).getF F.KST_UPD_STAT_COMPONENT = 2 ∧ (switching [0, 1] 4 false).flag F.STK_RPR_STAT_BUSY 0 = false
      ∧ ((switching [0, 1] 4 false).setUnit .stk 1 3).stackServes 1 = true ∧ ((switching [0, 1] 4 false).setUnit .stk 1 3).ks.actLeft = [0, 1])
    ∧ ((switching [15] 4 false).ks.actLeft = 15 :: [] ∧ (switching [15] 2 true).ks.fallLeft = [2] ∧ smSorted (switching [15] 2 true).ftg.dir = true)
    ∧ running.updBusy = false := by decide +kernel

theorem witness_confirms :
    ((pendingUpd 0x21 [(16, 1, 4)]).updMsg 0x21 = some (mkMsg 0x21 1 7 0 [(16, 1, 4)]) ∧ (pendingUpd 0x21 [(16, 1, 4)]).updBusy = false
      ∧ (pendingUpd 0x21 [(16, 1, 4)]).allPending (maskComps (mkMsg 0x21 1 7 0 [(16, 1, 4)])) = true ∧ (pendingUpd 0x21 [(16, 1, 4)]).Canonical
      ∧ smSorted (pendingUpd 0x21 [(16, 1, 4)]).dv.arb = true)
    ∧ (pendingUpd 0x21 [(16, 1, 5)]).allPending (maskComps (mkMsg 0x21 1 7 0 [(16, 1, 5)])) = false
    ∧ (pendingUpd 0x23 []).updMsg 0x23 = some (mkMsg 0x23 1 7 0 []) := by decide +kernel

theorem witness_reverts :
    (pendingUpd 0x22 [(16, 1, 4)]).updMsg 0x22 = some (mkMsg 0x22 1 7 0 [(16, 1, 4)])
    ∧ (pendingUpd 0x22 [(16, 1, 4)]).setCompatible ((pendingUpd 0x22 [(16, 1, 4)]).revertedSet [2]) = true
    ∧ maskComps (mkMsg 0x22 1 7 0 [(16, 1, 4)]) = [2] ∧ (pendingUpd 0x22 [(16, 1, 4)]).ftg.pendComps.filter (fun n => [2].contains n) = [2]
    ∧ (pendingUpd 0x22 [(16, 1, 4)]).ftg.oldImg.find? (fun e => e.1 = 2) = some (2, 2) ∧ (pendingUpd 0x22 []).ks.fallLeft = [] ∧ (pendingUpd 0x22 [(16, 1, 4)]).ks.actLeft = []
    ∧ (pendingUpd 0x22 []).serving0 = true ∧ maskComps (mkMsg 0x22 1 7 0 []) = [] := by decide +kernel

theorem witness_revertIncompatible :
    (let s := pendingUpd 0x22 [(16, 1, 4)]
     let t : State := { s with ftg := { s.ftg with oldImg := [(2, 4)] }, ks := { s.ks with runImage := [(0, 2), (1, 1), (2, 2), (3, 3)] } }
     t.setCompatible (t.revertedSet [2])) = false := by decide +kernel

/-- A queue of two commands. -/
def twoWaiting : State := { running with pending := [.vinPrsntMate, .updStatus] }

theorem witness_steps :
    twoWaiting.pending = .vinPrsntMate :: [.updStatus] ∧ twoWaiting.Canonical ∧ running.pending = []
    ∧ (match step twoWaiting with
        | .next t => decide (t.pending = [.updStatus])
        | _ => false) = true := by decide +kernel

/-! ## The checks of WellFormed each refuse something -/

theorem test_wfRequesters : Instr.wf (.blkErrClear (.host 64) 0 0#32) = false ∧ Instr.wf (.compReset (.trowel 8) 0) = false
    ∧ Instr.wf (.compReset (.trowel 7) 65536) = false ∧ Instr.wf (.registerWrite (.host 0) (2 ^ 28) 4 0) = false
    ∧ Instr.wf (.registerWrite (.host 63) (2 ^ 28 - 4) 4 0) = true ∧ Instr.wf (.powerStatusRead 128 0) = false := by decide

theorem test_wfHostLinks : Instr.wf (.nakFlit 2 0) = false ∧ Instr.wf (.nakFlit 1 4096) = false ∧ Instr.wf (.nakFlit 1 4095) = true
    ∧ Instr.wf (.mrd 0 4096 0 0 1 0 false) = false ∧ Instr.wf (.mrd 0 0 64 0 1 0 false) = false ∧ Instr.wf (.mrd 0 0 0 32 1 0 false) = false
    ∧ Instr.wf (.mrd 0 0 0 0 0 0 false) = false ∧ Instr.wf (.mrd 0 0 0 0 257 0 false) = false ∧ Instr.wf (.mrd 0 0 0 0 256 (2 ^ 64) false) = false
    ∧ Instr.wf (.mrd 1 4095 63 31 256 (2 ^ 64 - 256) false) = true ∧ Instr.wf (.mwr 0 0 0 0 [] false) = false
    ∧ Instr.wf (.db 0 0 0 16 0 false) = false ∧ Instr.wf (.db 0 0 0 15 65536 false) = false ∧ Instr.wf (.moduleFailure 8) = false
    ∧ Instr.wf (.intrHoldoffEnd 512) = false := by decide

theorem test_wfQuoinLinks : Instr.wf (.rrd 64 0 0 0 0 1 0 false) = false ∧ Instr.wf (.rrd 63 0 4096 0 0 1 0 false) = false
    ∧ Instr.wf (.rrd 63 0 0 4096 0 1 0 false) = false ∧ Instr.wf (.rrd 63 0 0 0 0 1 (2 ^ 44) false) = false
    ∧ Instr.wf (.rrd 63 4095 4095 4095 31 256 (2 ^ 44 - 256) false) = true ∧ Instr.wf (.rack 0 0 65536) = false
    ∧ Instr.wf (.spareTransmitter .keystone 4) = false := by decide

theorem test_wfUnits : Instr.wf (.brickClearDone 10752) = false ∧ Instr.wf (.brickClearDone 10751) = true ∧ Instr.wf (.repairDone 16) = false
    ∧ Instr.wf (.dutyMove 0 8) = false ∧ Instr.wf (.latch 64) = false ∧ Instr.wf (.recompute 8192) = false
    ∧ Instr.wf (.stepCmd 32 0) = false ∧ Instr.wf (.stepCmd 31 8) = false ∧ Instr.wf (.stepCmd 31 7) = true := by decide

/-! ## Values the spec writes out -/

/-- Table 14-1: D(0), D(1), D(2), D(55), D(56), D(63); A(0) to A(3), A(11) and A(43). -/
theorem test_columns : [0, 1, 2, 55, 56, 63].map (fun i => dataColumns.getD i 0) = [0x07, 0x0B, 0x0D, 0xE0, 0x1F, 0x57]
    ∧ [0, 1, 2, 3, 11, 43].map (fun i => addrColumns.getD i 0) = [0x81, 0x82, 0x84, 0x87, 0x96, 0xD7] := by decide +kernel

/-- R383's bank-decode fault: the syndrome of bit 11 alone is uncorrectable. -/
theorem test_wrongBank : decodeSyndrome (checkBits 0 (2 ^ 11) ^^^ checkBits 0 0) = .uncorrectable := by decide +kernel

/-- A faulty bit of a Guard word is put right by the scrub's visit (R391). -/
theorem test_scrubCorrects :
    (match exec (.scrubVisit 64 5 (1#72 <<< 9)) sweeping with
      | .next t => decide (t.ecc 64 = .clean ∧ t.getF F.REG_GUARD_CE_COUNT = 1)
      | _ => false) = true := by decide +kernel

/-- A doorbell within the ring moves the tail (R295, R339). -/
theorem test_doorbell :
    (match exec (.db 0 0 0 0 2 false) (hosted queued) with
      | .next t => decide (t.getF F.PRT_QTAIL_INDEX 0 0 = 2)
      | _ => false) = true := by decide +kernel

end Sys2Proof.Tests
end

/-! SUPPORT. One step of any command: what it keeps, by the lemmas of Keep.lean, and which commands end in a next state. -/

namespace Sys2Proof.Machine

/-! ## What every command keeps -/

/-- Every command keeps what register writes, the primitive memory writes and changes elsewhere keep. SEAL, whose name is a word
of Lean, is the last arm. -/
theorem exec_keeps {P : State → Prop} (hP : StableMem P) (i : Instr) {s : State} (h : P s) : Nxt P (exec i s) := by
  unfold exec
  cases i with
  | powerUp => exact execPowerUp_keeps hP.toStable h
  | coolantHoldRelease => exact execCoolantHoldRelease_keeps hP.toStable h
  | inputLossShutdown => exact execInputLossShutdown_keeps hP h
  | overvoltageShutdown => exact execOvervoltageShutdown_keeps hP h
  | inputPowerSample => exact execInputPowerSample_keeps hP.toStable h
  | powerLimitShutdown => exact execPowerLimitShutdown_keeps hP h
  | coolantShutdown => exact execCoolantShutdown_keeps hP h
  | vinPrsntOpen => exact execVinPrsntOpen_keeps hP h
  | emergOff => exact execEmergOff_keeps hP h
  | pwrEnFall => exact execPwrEnFall_keeps hP h
  | coldReset => exact execColdReset_keeps hP h
  | referenceLost => exact execReferenceLost_keeps hP h
  | cableSupplyTrip => exact execCableSupplyTrip_keeps hP h
  | cableInsert => exact execCableInsert_keeps hP.toStable h
  | cableRemove => exact execCableRemove_keeps hP h
  | powerStatusRead => exact execPowerStatusRead_keeps hP.toStable h
  | tapInstruction => exact execTapInstruction_keeps hP.toStable h
  | registerWrite => exact execRegisterWrite_keeps hP h
  | readClear => exact execReadClear_keeps hP.toStable h
  | blkSelWrite => exact execBlkSelWrite_keeps hP h
  | blkErrClear => exact execBlkErrClear_keeps hP h
  | lockSet => exact execLockSet_keeps hP h
  | quiesce => exact execQuiesce_keeps hP h
  | compReset => exact execCompReset_keeps hP h
  | componentResetDone => exact execComponentResetDone_keeps hP h
  | passMv => exact execPassMv_keeps hP.toStable h
  | passScore => exact execPassScore_keeps hP.toStable h
  | passValue => exact execPassValue_keeps hP.toStable h
  | passOutlier => exact execPassOutlier_keeps hP.toStable h
  | latch => exact execLatch_keeps hP h
  | groupOpen => exact execGroupOpen_keeps hP.toStable h
  | groupSpaceReserved => exact execGroupSpaceReserved_keeps hP.toStable h
  | computeActivate => exact execComputeActivate_keeps hP.toStable h
  | yieldPoint => exact execYieldPoint_keeps hP h
  | refreshDue => exact execRefreshDue_keeps hP.toStable h
  | ordinaryAccess => exact execOrdinaryAccess_keeps hP h
  | passEnd => exact execPassEnd_keeps hP h
  | contribution => exact execContribution_keeps hP h
  | memorySideAdd => exact execMemorySideAdd_keeps hP h
  | mergeIdleFlush => exact execMergeIdleFlush_keeps hP h
  | regIndexWrite => exact execRegIndexWrite_keeps hP h
  | regEntryLoWrite => exact execRegEntryLoWrite_keeps hP h
  | regEntryHiWrite => exact execRegEntryHiWrite_keeps hP h
  | regionFillDone => exact execRegionFillDone_keeps hP h
  | rowSpare => exact execRowSpare_keeps hP h
  | bankSpare => exact execBankSpare_keeps hP h
  | repairDone => exact execRepairDone_keeps hP h
  | stkTrainStart => exact execStkTrainStart_keeps hP h
  | stkTrainDone => exact execStkTrainDone_keeps hP h
  | computeTimingWrite => exact execComputeTimingWrite_keeps hP h
  | stackHotEnd => exact execStackHotEnd_keeps hP.toStable h
  | tload => exact execTload_keeps hP h
  | tmul => exact execTmul_keeps hP h
  | mvld => exact execMvld_keeps hP h
  | mvcfg => exact execMvcfg_keeps hP h
  | mvmul => exact execMvmul_keeps hP h
  | vopCopy => exact execVopCopy_keeps hP h
  | vopAdd => exact execVopAdd_keeps hP h
  | vopMul => exact execVopMul_keeps hP h
  | vopMax => exact execVopMax_keeps hP h
  | vopRelu => exact execVopRelu_keeps hP h
  | vopSigmoid => exact execVopSigmoid_keeps hP h
  | vopSilu => exact execVopSilu_keeps hP h
  | vopGeluTanh => exact execVopGeluTanh_keeps hP h
  | vopGateSilu => exact execVopGateSilu_keeps hP h
  | vopExp => exact execVopExp_keeps hP h
  | vopRecip => exact execVopRecip_keeps hP h
  | vopRsqrt => exact execVopRsqrt_keeps hP h
  | vopLnorm => exact execVopLnorm_keeps hP h
  | vopRmsnorm => exact execVopRmsnorm_keeps hP h
  | vopNstat => exact execVopNstat_keeps hP h
  | vopNapply => exact execVopNapply_keeps hP h
  | vopRope => exact execVopRope_keeps hP h
  | vcfgScaleTable => exact execVcfgScaleTable_keeps hP h
  | vcfgParameterBlock => exact execVcfgParameterBlock_keeps hP h
  | store => exact execStore_keeps hP h
  | issueTimeout => exact execIssueTimeout_keeps hP.toStable h
  | inboundAdmit => exact execInboundAdmit_keeps hP h
  | inboundLanded => exact execInboundLanded_keeps hP h
  | bringInSpare => exact execBringInSpare_keeps hP h
  | retireBrick => exact execRetireBrick_keeps hP h
  | brickClearDone => exact execBrickClearDone_keeps hP h
  | aluAdd => exact execAluAdd_keeps hP h
  | aluSub => exact execAluSub_keeps hP h
  | aluAnd => exact execAluAnd_keeps hP h
  | aluOr => exact execAluOr_keeps hP h
  | aluXor => exact execAluXor_keeps hP h
  | aluSll => exact execAluSll_keeps hP h
  | aluSrl => exact execAluSrl_keeps hP h
  | aluSra => exact execAluSra_keeps hP h
  | aluSlt => exact execAluSlt_keeps hP h
  | aluSltu => exact execAluSltu_keeps hP h
  | aluMin => exact execAluMin_keeps hP h
  | aluMax => exact execAluMax_keeps hP h
  | aluMinu => exact execAluMinu_keeps hP h
  | aluMaxu => exact execAluMaxu_keeps hP h
  | aluMul => exact execAluMul_keeps hP h
  | aluMulh => exact execAluMulh_keeps hP h
  | aluMulhu => exact execAluMulhu_keeps hP h
  | aluDiv => exact execAluDiv_keeps hP h
  | aluDivu => exact execAluDivu_keeps hP h
  | aluRem => exact execAluRem_keeps hP h
  | aluRemu => exact execAluRemu_keeps hP h
  | addi => exact execAddi_keeps hP h
  | andi => exact execAndi_keeps hP h
  | ori => exact execOri_keeps hP h
  | xori => exact execXori_keeps hP h
  | slti => exact execSlti_keeps hP h
  | sltiu => exact execSltiu_keeps hP h
  | slli => exact execSlli_keeps hP h
  | srli => exact execSrli_keeps hP h
  | srai => exact execSrai_keeps hP h
  | lui => exact execLui_keeps hP h
  | lw => exact execLw_keeps hP h
  | lh => exact execLh_keeps hP h
  | lhu => exact execLhu_keeps hP h
  | lb => exact execLb_keeps hP h
  | lbu => exact execLbu_keeps hP h
  | sw => exact execSw_keeps hP h
  | sh => exact execSh_keeps hP h
  | sb => exact execSb_keeps hP h
  | beq => exact execBeq_keeps hP h
  | bne => exact execBne_keeps hP h
  | blt => exact execBlt_keeps hP h
  | bge => exact execBge_keeps hP h
  | bltu => exact execBltu_keeps hP h
  | bgeu => exact execBgeu_keeps hP h
  | jal => exact execJal_keeps hP h
  | jalr => exact execJalr_keeps hP h
  | epush => exact execEpush_keeps hP h
  | epushm => exact execEpushm_keeps hP h
  | spushm => exact execSpushm_keeps hP h
  | masonWait => exact execMasonWait_keeps hP h
  | waiti => exact execWaiti_keeps hP h
  | waitc => exact execWaitc_keeps hP h
  | mEnd => exact execMEnd_keeps hP h
  | workItemStart => exact execWorkItemStart_keeps hP h
  | workItemEnd => exact execWorkItemEnd_keeps hP h
  | stepCmd => exact execStepCmd_keeps hP h
  | stepAdmission => exact execStepAdmission_keeps hP h
  | placement => exact execPlacement_keeps hP h
  | walkStart => exact execWalkStart_keeps hP h
  | walkCombine => exact execWalkCombine_keeps hP h
  | roundCombine => exact execRoundCombine_keeps hP h
  | walkTimeout => exact execWalkTimeout_keeps hP.toStable h
  | stepCommit => exact execStepCommit_keeps hP h
  | pageRelease => exact execPageRelease_keeps hP h
  | seqOpen => exact execSeqOpen_keeps hP h
  | setInput => exact execSetInput_keeps hP h
  | truncate => exact execTruncate_keeps hP h
  | setFloor => exact execSetFloor_keeps hP h
  | rebind => exact execRebind_keeps hP h
  | setSpec => exact execSetSpec_keeps hP h
  | setClass => exact execSetClass_keeps hP h
  | hold => exact execHold_keeps hP h
  | release => exact execRelease_keeps hP h
  | pages => exact execPages_keeps hP h
  | seqEditApply => exact execSeqEditApply_keeps hP h
  | seqClose => exact execSeqClose_keeps hP h
  | seqCloseFinish => exact execSeqCloseFinish_keeps hP h
  | adapterInstall => exact execAdapterInstall_keeps hP h
  | adapterRetire => exact execAdapterRetire_keeps hP h
  | prefixPublish => exact execPrefixPublish_keeps hP h
  | seqPoolAdd => exact execSeqPoolAdd_keeps hP h
  | seqPoolSizeWrite => exact execSeqPoolSizeWrite_keeps hP h
  | seqQuotaWrite => exact execSeqQuotaWrite_keeps hP h
  | seqPfxModeWrite => exact execSeqPfxModeWrite_keeps hP h
  | copy => exact execCopy_keeps hP h
  | layout => exact execLayout_keeps hP h
  | gather => exact execGather_keeps hP h
  | yrdBentryWrite => exact execYrdBentryWrite_keeps hP h
  | blockConversionDone => exact execBlockConversionDone_keeps hP h
  | yardAccess => exact execYardAccess_keeps hP h
  | streamDeclare => exact execStreamDeclare_keeps hP h
  | yrdSpareCmd => exact execYrdSpareCmd_keeps hP h
  | slabReplaceDone => exact execSlabReplaceDone_keeps hP h
  | yrdClsWrite => exact execYrdClsWrite_keeps hP h
  | yrdQCacheWrite => exact execYrdQCacheWrite_keeps hP h
  | acquire => exact execAcquire_keeps hP h
  | partitionCreate => exact execPartitionCreate_keeps hP h
  | partitionActivate => exact execPartitionActivate_keeps hP h
  | partitionDrain => exact execPartitionDrain_keeps hP h
  | partitionRelease => exact execPartitionRelease_keeps hP h
  | drainComplete => exact execDrainComplete_keeps hP.toStable h
  | poolAssign => exact execPoolAssign_keeps hP h
  | bgrpAssign => exact execBgrpAssign_keeps hP h
  | hodAssign => exact execHodAssign_keeps hP h
  | prtModeWrite => exact execPrtModeWrite_keeps hP h
  | regulatorWrite => exact execRegulatorWrite_keeps hP h
  | regulatorRefill => exact execRegulatorRefill_keeps hP h
  | cytCommit => exact execCytCommit_keeps hP h
  | cytEnableWrite => exact execCytEnableWrite_keeps hP h
  | cytShift => exact execCytShift_keeps hP h
  | periodWrap => exact execPeriodWrap_keeps hP.toStable h
  | slotWindowEnd => exact execSlotWindowEnd_keeps hP.toStable h
  | budgetStop => exact execBudgetStop_keeps hP.toStable h
  | queueDoorbellWrite => exact execQueueDoorbellWrite_keeps hP h
  | commandFetch => exact execCommandFetch_keeps hP h
  | replay => exact execReplay_keeps hP h
  | patch => exact execPatch_keeps hP h
  | fence => exact execFence_keeps hP h
  | modelLoad => exact execModelLoad_keeps hP h
  | modelLoadBlock => exact execModelLoadBlock_keeps hP h
  | modelLoadComplete => exact execModelLoadComplete_keeps hP h
  | reduceRemote => exact execReduceRemote_keeps hP h
  | waitCmd => exact execWaitCmd_keeps hP h
  | waitEvaluate => exact execWaitEvaluate_keeps hP h
  | waitTimeout => exact execWaitTimeout_keeps hP h
  | signal => exact execSignal_keeps hP h
  | nop => exact execNop_keeps hP h
  | trainStep => exact execTrainStep_keeps hP h
  | marker => exact execMarker_keeps hP h
  | completionRecord => exact execCompletionRecord_keeps hP h
  | prtQctrlEnable => exact execPrtQctrlEnable_keeps hP h
  | ringHeadWrite => exact execRingHeadWrite_keeps hP h
  | flush => exact execFlush_keeps hP h
  | resume => exact execResume_keeps hP h
  | prtPvalWrite => exact execPrtPvalWrite_keeps hP h
  | flitReceive link kind fseq ack rq pw data => exact execFlitReceive_keeps (a4 := rq) (a5 := pw) (a6 := data) hP.toStable h
  | nakFlit => exact execNakFlit_keeps hP.toStable h
  | moduleFailure => exact execModuleFailure_keeps hP.toStable h
  | mrd => exact execMrd_keeps hP h
  | mwr => exact execMwr_keeps hP h
  | mwrc => exact execMwrc_keeps hP h
  | db => exact execDb_keeps hP.toStable h
  | sidebandRead => exact execSidebandRead_keeps hP.toStable h
  | sidebandWrite => exact execSidebandWrite_keeps hP h
  | ringDoorbell => exact execRingDoorbell_keeps hP h
  | intrHoldoffEnd => exact execIntrHoldoffEnd_keeps hP.toStable h
  | lntIvecWrite => exact execLntIvecWrite_keeps hP h
  | attach => exact execAttach_keeps hP h
  | detach => exact execDetach_keeps hP h
  | queryState => exact execQueryState_keeps hP h
  | unknownMessage => exact execUnknownMessage_keeps hP h
  | heartbeat => exact execHeartbeat_keeps hP h
  | heartbeatTimeout => exact execHeartbeatTimeout_keeps hP.toStable h
  | ringFullSilence => exact execRingFullSilence_keeps hP.toStable h
  | silenceGraceEnd => exact execSilenceGraceEnd_keeps hP.toStable h
  | retainExpiry => exact execRetainExpiry_keeps hP h
  | linkTrain => exact execLinkTrain_keeps hP h
  | linkDisable => exact execLinkDisable_keeps hP h
  | trainingDone => exact execTrainingDone_keeps hP h
  | trainingTimeout => exact execTrainingTimeout_keeps hP h
  | keyingTimeout => exact execKeyingTimeout_keeps hP h
  | frameReceive => exact execFrameReceive_keeps hP.toStable h
  | nakFrame => exact execNakFrame_keeps hP.toStable h
  | retrainDone => exact execRetrainDone_keeps hP h
  | laneDrop => exact execLaneDrop_keeps hP h
  | rrd => exact execRrd_keeps hP h
  | rwr => exact execRwr_keeps hP h
  | radd => exact execRadd_keeps hP h
  | ownrd => exact execOwnrd_keeps hP h
  | rack => exact execRack_keeps hP h
  | rdat => exact execRdat_keeps hP h
  | kxHello => exact execKxHello_keeps hP h
  | kxInit => exact execKxInit_keeps hP h
  | kxResp => exact execKxResp_keeps hP h
  | kxDone => exact execKxDone_keeps hP h
  | creditTimeout => exact execCreditTimeout_keeps hP h
  | responseTimeout => exact execResponseTimeout_keeps hP h
  | rekeyDue => exact execRekeyDue_keeps hP.toStable h
  | tagFailureLimit => exact execTagFailureLimit_keeps hP h
  | spareTransmitter => exact execSpareTransmitter_keeps hP h
  | spareReceiver => exact execSpareReceiver_keeps hP h
  | scrubSweepStart => exact execScrubSweepStart_keeps hP.toStable h
  | scrubVisit => exact execScrubVisit_keeps hP h
  | scrubLate => exact execScrubLate_keeps hP.toStable h
  | openFaultMark => exact execOpenFaultMark_keeps hP h
  | scrubReload => exact execScrubReload_keeps hP.toStable h
  | reloadDone => exact execReloadDone_keeps hP h
  | reloadRetry => exact execReloadRetry_keeps hP.toStable h
  | recompute => exact execRecompute_keeps hP h
  | recomputeEnd => exact execRecomputeEnd_keeps hP h
  | imageCreate => exact execImageCreate_keeps hP h
  | sealDone => exact execSealDone_keeps hP.toStable h
  | imageDelete => exact execImageDelete_keeps hP h
  | imageAbort => exact execImageAbort_keeps hP h
  | stagingWrite => exact execStagingWrite_keeps hP.toStable h
  | retentionSample => exact execRetentionSample_keeps hP.toStable h
  | blockDefect => exact execBlockDefect_keeps hP.toStable h
  | watchdogExpiry => exact execWatchdogExpiry_keeps hP h
  | coreException => exact execCoreException_keeps hP h
  | coreRestartWrite => exact execCoreRestartWrite_keeps hP h
  | coreRetireWrite => exact execCoreRetireWrite_keeps hP h
  | restartPhaseEnd => exact execRestartPhaseEnd_keeps hP h
  | restartPhaseOverrun => exact execRestartPhaseOverrun_keeps hP h
  | crashLoopRetire => exact execCrashLoopRetire_keeps hP h
  | dutyMove => exact execDutyMove_keeps hP h
  | unitAudit => exact execUnitAudit_keeps hP h
  | reconcile => exact execReconcile_keeps hP h
  | idleSelftest => exact execIdleSelftest_keeps hP.toStable h
  | keystoneBoot => exact execKeystoneBoot_keeps hP.toStable h
  | bringup => exact execBringup_keeps hP.toStable h
  | fillStart => exact execFillStart_keeps hP.toStable h
  | startupRelease => exact execStartupRelease_keeps hP h
  | releaseTimeout => exact execReleaseTimeout_keeps hP.toStable h
  | warmReset => exact execWarmReset_keeps hP h
  | warmResetDrainEnd => exact execWarmResetDrainEnd_keeps hP h
  | partitionReset => exact execPartitionReset_keeps hP h
  | ksCerts => exact execKsCerts_keeps hP h
  | ksAttest => exact execKsAttest_keeps hP h
  | ksBind => exact execKsBind_keeps hP h
  | grantHostRights => exact execGrantHostRights_keeps hP h
  | grantImport => exact execGrantImport_keeps hP h
  | grantLock => exact execGrantLock_keeps hP h
  | ksPeer => exact execKsPeer_keeps hP h
  | ksDebug => exact execKsDebug_keeps hP h
  | activate => exact execActivate_keeps hP h
  | activationInstance => exact execActivationInstance_keeps hP h
  | confirm => exact execConfirm_keeps hP h
  | revert => exact execRevert_keeps hP h
  | automaticFallback => exact execAutomaticFallback_keeps hP h
  | updStatus => exact execUpdStatus_keeps hP h
  | sensorSample => exact execSensorSample_keeps hP.toStable h
  | throttleReq => exact execThrottleReq_keeps hP h
  | throttleAck => exact execThrottleAck_keeps hP h
  | thermalGraceEnd => exact execThermalGraceEnd_keeps hP.toStable h
  | enforcementStep => exact execEnforcementStep_keeps hP.toStable h
  | nearEnd => exact execNearEnd_keeps hP.toStable h
  | powerBudgetSample => exact execPowerBudgetSample_keeps hP.toStable h
  | powerCeilingStep => exact execPowerCeilingStep_keeps hP.toStable h
  | clampRelease => exact execClampRelease_keeps hP.toStable h
  | clockRampStep => exact execClockRampStep_keeps hP.toStable h
  | thermalTrip => exact execThermalTrip_keeps hP h
  | sensorFlagClear => exact execSensorFlagClear_keeps hP h
  | ceilMhzWrite => exact execCeilMhzWrite_keeps hP h
  | klnStkLevelWrite => exact execKlnStkLevelWrite_keeps hP h
  | epWindowEnd => exact execEpWindowEnd_keeps hP.toStable h
  | recoveryComplete => exact execRecoveryComplete_keeps hP h
  | liveRelease => exact execLiveRelease_keeps hP h
  | stackLost => exact execStackLost_keeps hP h
  | vinPrsntMate => exact execVinPrsntMate_keeps hP.toStable h
  | inputBelow30V => exact execInputBelow30V_keeps hP h
  | coldResetNRise => exact execColdResetNRise_keeps hP.toStable h
  | ucieRetrainEnd => exact execUcieRetrainEnd_keeps hP.toStable h
  | hostLinkReturn => exact execHostLinkReturn_keeps hP.toStable h
  | counterExhausted => exact execCounterExhausted_keeps hP h
  | slotWindowStart => exact execSlotWindowStart_keeps hP.toStable h
  | footingDieFail => exact execFootingDieFail_keeps hP.toStable h
  | _ => exact execSeal_keeps hP h

theorem step_nil {s : State} (h : s.pending = []) : step s = .next s := by rw [step, h]

theorem step_cons {s : State} {c : Instr} {cs : List Instr} (h : s.pending = c :: cs) :
    step s = exec c { s with pending := cs } := by rw [step, h]

/-- A predicate that no operation breaks and that does not speak of the queue of commands is kept by every step. -/
theorem step_keeps {P : State → Prop} (hP : StableMem P) (hq : ∀ {s : State} cs, P s → P { s with pending := cs })
    {s : State} (h : P s) : Nxt P (step s) := by
  cases hs : s.pending with
  | nil => rw [step_nil hs]; exact keep_done h
  | cons c cs => rw [step_cons hs]; exact exec_keeps hP c (hq cs h)

/-- Settles O59: what no operation breaks, no step breaks, and the canonical forms do not speak of the queue. -/
theorem everyStepKeepsTheCanonicalForms : Obligations.EveryStepKeepsTheCanonicalForms := by
  intro s t h ht
  exact step_keeps canonical_stable (fun _ hs => hs) h t ht

/-! ## Which commands answer -/

/-- A command ends in a next state: it neither faults nor is refused. -/
def Answers (r : Res) : Prop := ∃ t, r = .next t

theorem Answers.done {s : State} : Answers (done s) := ⟨s, rfl⟩

theorem Answers.ite {c : Prop} [Decidable c] {a b : Res} (ha : Answers a) (hb : Answers b) : Answers (if c then a else b) := by
  split
  · exact ha
  · exact hb

/-! ### The shared rows -/

theorem State.writeCmd_answers {s : State} {r : Requester} {addr len v : Nat} : Answers (State.writeCmd s r addr len v) := by
  unfold State.writeCmd
  split <;> exact .done

theorem State.writeRun_answers {s : State} {r : Requester} {base n k v : Nat} : Answers (State.writeRun s r base n k v) :=
  .ite State.writeCmd_answers .done

theorem State.resetCmd_answers {s : State} {r : Requester} {page : Nat} : Answers (State.resetCmd s r page) :=
  State.writeCmd_answers

theorem State.hostRequest_answers {s : State} {l kind tid agent part addr n : Nat} {data : List Byte} {bad : Bool} :
    Answers (State.hostRequest s l kind tid agent part addr n data bad) := .ite .done .done

theorem State.admitRow_answers {s : State} {p q op : Nat} {pre : Cmd → State → Nat} {space : Cmd → State → Nat}
    {body : Cmd → State → State} :
    Answers (State.admitRow s p q op pre space body) := by
  unfold State.admitRow
  split
  · exact .done
  · refine .ite .done ?_
    refine .ite .done ?_
    refine .ite .done ?_
    split
    · exact .done
    · refine .ite .done ?_
      refine .ite .done ?_
      split
      · exact .done
      · extract_lets
        split
        · exact .ite .done .done
        · exact .done

theorem State.runRow_answers {s : State} {p q op : Nat} {pre : Cmd → State → Nat} {space : Cmd → State → Nat}
    {body : Cmd → State → State} :
    Answers (State.runRow s p q op pre space body) := by
  unfold State.runRow
  split
  · exact .done
  · exact State.admitRow_answers

theorem editRow_answers {part queue kind : Nat} {s : State} : Answers (editRow part queue kind s) := by
  unfold editRow
  extract_lets
  split
  · exact .ite State.runRow_answers .done
  · exact .ite .done State.admitRow_answers
  · exact .done

theorem State.ksRow_answers {s : State} {type : Nat} {body : Msg → Nat → State → Nat × List (Nat × Nat × Nat) × State} :
    Answers (State.ksRow s type body) := by
  unfold State.ksRow
  split
  · exact .done
  · exact .ite .done (.ite .done .done)

theorem State.grantRow_answers {s : State} {kind : Nat} {sigOk : Bool} : Answers (State.grantRow s kind sigOk) := by
  unfold State.grantRow
  split
  · exact .done
  · exact .ite .done State.ksRow_answers

theorem masonRow_answers {brick : Nat} {parity : Bool} {is : Nat → Bool} {body : Nat → State → State} {s : State} :
    Answers (masonRow brick parity is body s) := by
  unfold masonRow
  split
  · exact .done
  · exact .done
  · exact .ite .done .done

theorem aluRow_answers {brick : Nat} {parity : Bool} {funct : Nat} {f : Nat → Nat → Nat} {lat : Nat} {s : State} :
    Answers (aluRow brick parity funct f lat s) := masonRow_answers

theorem immRow_answers {brick : Nat} {parity : Bool} {op : Nat} {f : Nat → Nat → Nat} {s : State} :
    Answers (immRow brick parity op f s) := masonRow_answers

theorem loadRow_answers {brick : Nat} {parity : Bool} {fault : BitVec 72} {op len : Nat} {signed : Bool} {s : State} :
    Answers (loadRow brick parity fault op len signed s) := masonRow_answers

theorem storeRow_answers {brick : Nat} {parity : Bool} {fault : BitVec 72} {op len : Nat} {s : State} :
    Answers (storeRow brick parity fault op len s) := masonRow_answers

theorem branchRow_answers {brick : Nat} {parity : Bool} {op : Nat} {cond : Nat → Nat → Bool} {s : State} :
    Answers (branchRow brick parity op cond s) := masonRow_answers

/-! ### The rows that first look something up -/

theorem execReadClear_answers {req : Requester} {addr len : Nat} {s : State} : Answers (execReadClear req addr len s) := by
  unfold execReadClear
  split <;> exact .done

theorem execComponentResetDone_answers {blk inst : Nat} {pass : Bool} {s : State} :
    Answers (execComponentResetDone blk inst pass s) := by
  unfold execComponentResetDone
  split
  · exact .done
  · exact .ite .done .done

theorem execLatch_answers {hod : Nat} {s : State} : Answers (execLatch hod s) := by
  unfold execLatch
  split
  · exact .done
  · exact .ite .done .done

theorem execGroupOpen_answers {hod : Nat} {s : State} : Answers (execGroupOpen hod s) := by
  unfold execGroupOpen
  split <;> exact .done

theorem execYieldPoint_answers {stack bank now : Nat} {s : State} : Answers (execYieldPoint stack bank now s) := by
  unfold execYieldPoint
  extract_lets
  split
  · exact .done
  · exact .ite .done .done

theorem execRefreshDue_answers {stack bank : Nat} {pullIn : Bool} {s : State} :
    Answers (execRefreshDue stack bank pullIn s) := by
  unfold execRefreshDue
  extract_lets
  split <;> exact .ite .done (.ite .done .done)

theorem execOrdinaryAccess_answers {part : Nat} {write : Bool} {addr : Nat} {data : List Byte} {len now : Nat}
    {fault : BitVec 72} {s : State} :
    Answers (execOrdinaryAccess part write addr data len now fault s) := by
  unfold execOrdinaryAccess
  refine .ite .done ?_
  split <;> exact .done

theorem execPassEnd_answers {stack bank now : Nat} {s : State} : Answers (execPassEnd stack bank now s) := by
  unfold execPassEnd
  extract_lets
  split
  · exact .done
  · exact .ite .done .done

theorem execContribution_answers {k : Nat} {s : State} : Answers (execContribution k s) := by
  unfold execContribution
  split <;> exact .done

theorem execMergeIdleFlush_answers {line : Nat} {s : State} : Answers (execMergeIdleFlush line s) := by
  unfold execMergeIdleFlush
  split <;> exact .done

theorem execRegEntryLoWrite_answers {req : Requester} {value : Word} {high : Option Word} {s : State} :
    Answers (execRegEntryLoWrite req value high s) := by
  unfold execRegEntryLoWrite
  split <;> exact State.writeCmd_answers

theorem execRegionFillDone_answers {granule : Nat} {s : State} : Answers (execRegionFillDone granule s) := by
  unfold execRegionFillDone
  split <;> exact .done

theorem execRepairDone_answers {stack : Nat} {s : State} : Answers (execRepairDone stack s) := by
  unfold execRepairDone
  split
  · exact .done
  · exact .ite .done (.ite .done .done)

theorem execInboundLanded_answers {brick k cycle : Nat} {s : State} : Answers (execInboundLanded brick k cycle s) := by
  unfold execInboundLanded
  extract_lets
  split
  · exact .done
  · exact .ite .done .done

theorem execEpush_answers {brick : Nat} {parity : Bool} {s : State} : Answers (execEpush brick parity s) := by
  unfold execEpush
  split
  · exact .done
  · exact .done
  · exact .ite .done .done

theorem execEpushm_answers {brick : Nat} {parity : Bool} {fault : BitVec 72} {s : State} :
    Answers (execEpushm brick parity fault s) := by
  unfold execEpushm
  split
  · exact .done
  · exact .done
  · exact .ite (.ite .done (.ite .done .done)) .done

theorem execSpushm_answers {brick : Nat} {parity : Bool} {fault : BitVec 72} {s : State} :
    Answers (execSpushm brick parity fault s) := by
  unfold execSpushm
  split
  · exact .done
  · exact .done
  · exact .ite (.ite .done (.ite (.ite .done .done) (.ite .done .done))) .done

theorem execMasonWait_answers {brick : Nat} {parity : Bool} {s : State} : Answers (execMasonWait brick parity s) := by
  unfold execMasonWait
  split
  · exact .done
  · exact .done
  · exact .ite .done .done

theorem execWaiti_answers {brick : Nat} {parity : Bool} {s : State} : Answers (execWaiti brick parity s) := by
  unfold execWaiti
  split
  · exact .done
  · exact .done
  · exact .ite .done .done

theorem execWorkItemStart_answers {step item cycle : Nat} {s : State} : Answers (execWorkItemStart step item cycle s) := by
  unfold execWorkItemStart
  split
  · exact .done
  · split
    · exact .done
    · split
      · exact .done
      · refine .ite .done ?_
        refine .ite .done ?_
        refine .ite .done ?_
        split
        · exact .done
        · exact .ite .done (.ite .done .done)

theorem execWorkItemEnd_answers {brick cycle : Nat} {s : State} : Answers (execWorkItemEnd brick cycle s) := by
  unfold execWorkItemEnd
  extract_lets
  split
  · exact .done
  · refine .ite ?_ .done
    extract_lets
    split <;> exact .done

theorem execStepAdmission_answers {cmd : Nat} {s : State} : Answers (execStepAdmission cmd s) := by
  unfold execStepAdmission
  extract_lets
  split
  · exact .done
  · refine .ite .done ?_
    refine .ite .done ?_
    split <;> exact .done

theorem execPlacement_answers {part : Nat} {s : State} : Answers (execPlacement part s) := by
  unfold execPlacement
  extract_lets
  split <;> exact .done

theorem execWalkStart_answers {step seq pass layer : Nat} {fault : BitVec 72} {s : State} :
    Answers (execWalkStart step seq pass layer fault s) := by
  unfold execWalkStart
  split
  · exact .done
  · extract_lets
    split
    · exact .done
    · extract_lets
      split
      · exact .ite .done .done
      · exact .done
    · exact .done

theorem execWalkCombine_answers {walk head sg pos : Nat} {s : State} : Answers (execWalkCombine walk head sg pos s) := by
  unfold execWalkCombine
  split
  · exact .done
  · extract_lets
    split
    · exact .done
    · exact .ite .done .done

theorem execRoundCombine_answers {walk head sg pos : Nat} {s : State} : Answers (execRoundCombine walk head sg pos s) := by
  unfold execRoundCombine
  split
  · exact .done
  · refine .ite .done ?_
    extract_lets
    split <;> exact .done

theorem execWalkTimeout_answers {walk us : Nat} {s : State} : Answers (execWalkTimeout walk us s) := by
  unfold execWalkTimeout
  split
  · exact .ite .done .done
  · exact .done

theorem execStepCommit_answers {step : Nat} {s : State} : Answers (execStepCommit step s) := by
  unfold execStepCommit
  split
  · exact .done
  · extract_lets
    split
    · exact .done
    · exact .ite .done (.ite .done (.ite .done .done))

theorem execSeqEditApply_answers {seq : Nat} {s : State} : Answers (execSeqEditApply seq s) := by
  unfold execSeqEditApply
  split
  · exact .ite .done .done
  · exact .done

theorem execSeqCloseFinish_answers {seq : Nat} {s : State} : Answers (execSeqCloseFinish seq s) := by
  unfold execSeqCloseFinish
  split
  · exact .done
  · refine .ite .done ?_
    split <;> exact .done

theorem execBlockConversionDone_answers {block : Nat} {s : State} : Answers (execBlockConversionDone block s) := by
  unfold execBlockConversionDone
  split
  · exact .done
  · exact .ite .done .done

theorem execSlabReplaceDone_answers {s : State} : Answers (execSlabReplaceDone s) := by
  unfold execSlabReplaceDone
  split <;> exact .done

theorem execPeriodWrap_answers {part : Nat} {s : State} : Answers (execPeriodWrap part s) := by
  unfold execPeriodWrap
  refine .ite ?_ .done
  extract_lets
  split <;> exact .done

theorem execSlotWindowEnd_answers {part slot : Nat} {s : State} : Answers (execSlotWindowEnd part slot s) := by
  unfold execSlotWindowEnd
  split
  · exact .ite .done .done
  · exact .done

theorem execQueueDoorbellWrite_answers {req : Requester} {index : Option Nat} {value : Word} {s : State} :
    Answers (execQueueDoorbellWrite req index value s) := by
  unfold execQueueDoorbellWrite
  split
  · exact State.writeCmd_answers
  · exact State.writeRun_answers

theorem execModelLoadBlock_answers {slot : Nat} {ok retryOk : Bool} {ue : List Nat} {s : State} :
    Answers (execModelLoadBlock slot ok retryOk ue s) := by
  unfold execModelLoadBlock
  split
  · exact .done
  · refine .ite .done ?_
    refine .ite .done ?_
    split <;> exact .done

theorem execModelLoadComplete_answers {slot : Nat} {templates : List (Nat × Template)} {s : State} :
    Answers (execModelLoadComplete slot templates s) := by
  unfold execModelLoadComplete
  split
  · exact .done
  · exact .ite .done .done

theorem execWaitEvaluate_answers {part queue : Nat} {s : State} : Answers (execWaitEvaluate part queue s) := by
  unfold execWaitEvaluate
  split <;> exact .done

theorem execWaitTimeout_answers {part queue us : Nat} {s : State} : Answers (execWaitTimeout part queue us s) := by
  unfold execWaitTimeout
  split
  · exact .ite .done .done
  · exact .done

theorem execCompletionRecord_answers {part ring : Nat} {s : State} : Answers (execCompletionRecord part ring s) := by
  unfold execCompletionRecord
  split
  · exact .done
  · exact .ite .done .done

theorem execPrtPvalWrite_answers {req : Requester} {lo : Word} {high : Option Word} {s : State} :
    Answers (execPrtPvalWrite req lo high s) := by
  unfold execPrtPvalWrite
  split <;> exact State.writeCmd_answers

theorem execDb_answers {link agent part target tail : Nat} {bad : Bool} {s : State} :
    Answers (execDb link agent part target tail bad s) := by
  unfold execDb
  refine .ite .done ?_
  refine .ite .done ?_
  split <;> exact .done

theorem execSidebandRead_answers {agent addr : Nat} {s : State} : Answers (execSidebandRead agent addr s) := by
  unfold execSidebandRead
  refine .ite .done ?_
  refine .ite .done ?_
  refine .ite (.ite .done (.ite .done (.ite .done .done))) ?_
  split <;> exact .done

theorem execSidebandWrite_answers {agent addr : Nat} {value : Word} {s : State} :
    Answers (execSidebandWrite agent addr value s) := by
  unfold execSidebandWrite
  refine .ite .done ?_
  refine .ite .done ?_
  split <;> exact .done

theorem execAttach_answers {channel agent : Nat} {s : State} : Answers (execAttach channel agent s) := by
  unfold execAttach
  split
  · exact .done
  · exact .ite .done (.ite .done (.ite .done .done))

theorem execDetach_answers {channel : Nat} {s : State} : Answers (execDetach channel s) := by
  unfold execDetach
  split
  · exact .done
  · exact .ite .done .done

theorem execQueryState_answers {channel : Nat} {s : State} : Answers (execQueryState channel s) := by
  unfold execQueryState
  split <;> exact .done

theorem execUnknownMessage_answers {channel : Nat} {s : State} : Answers (execUnknownMessage channel s) := by
  unfold execUnknownMessage
  split
  · exact .done
  · exact .ite .done .done

theorem execScrubVisit_answers {addr now : Nat} {fault : BitVec 72} {s : State} :
    Answers (execScrubVisit addr now fault s) := by
  unfold execScrubVisit
  extract_lets
  split
  · exact .done
  · exact .ite .done (.ite .done .done)

theorem execScrubLate_answers {blk inst now : Nat} {s : State} : Answers (execScrubLate blk inst now s) := by
  unfold execScrubLate
  split
  · exact .done
  · exact .ite .done .done

theorem execOpenFaultMark_answers {k : Nat} {s : State} : Answers (execOpenFaultMark k s) := by
  unfold execOpenFaultMark
  split <;> exact .done

theorem execReloadDone_answers {addr : Nat} {ok : Bool} {ue : List Nat} {s : State} :
    Answers (execReloadDone addr ok ue s) := by
  unfold execReloadDone
  refine .ite .done ?_
  extract_lets
  split <;> exact .done

theorem execRecomputeEnd_answers {seq : Nat} {s : State} : Answers (execRecomputeEnd seq s) := by
  unfold execRecomputeEnd
  split
  · exact .done
  · refine .ite .done ?_
    extract_lets
    split
    · exact .done
    · exact .ite .done (.ite .done (.ite .done (.ite .done .done)))

theorem execStagingWrite_answers {req : Requester} {addr : Nat} {data : List Byte} {s : State} :
    Answers (execStagingWrite req addr data s) := by
  unfold execStagingWrite
  refine .ite .done ?_
  extract_lets gate w
  clear_value gate
  split
  · exact .done
  · exact .ite .done (.ite .done .done)

theorem execRestartPhaseEnd_answers {core : Nat} {imageOk : Bool} {journalCe : Nat} {journalBad : List (Nat × Nat)}
    {now : Nat} {s : State} :
    Answers (execRestartPhaseEnd core imageOk journalCe journalBad now s) := by
  unfold execRestartPhaseEnd
  refine .ite .done ?_
  split <;> exact .done

theorem execUnitAudit_answers {blk inst : Nat} {agrees : Bool} {s : State} : Answers (execUnitAudit blk inst agrees s) := by
  unfold execUnitAudit
  split
  · exact .done
  · exact .ite .done .done

theorem execReconcile_answers {blk inst : Nat} {rewriteOk selfTestOk resetOk : Bool} {s : State} :
    Answers (execReconcile blk inst rewriteOk selfTestOk resetOk s) := by
  unfold execReconcile
  split
  · exact .done
  · exact .ite .done (.ite .done (.ite .done (.ite .done (.ite .done .done))))

theorem execActivate_answers {checkOk : Bool} {s : State} : Answers (execActivate checkOk s) := by
  unfold execActivate
  split
  · exact .done
  · split <;> exact .done

theorem execActivationInstance_answers {ok : Bool} {ms : Nat} {s : State} : Answers (execActivationInstance ok ms s) := by
  unfold execActivationInstance
  refine .ite .done ?_
  split
  · exact .done
  · exact .ite .done (.ite .done (.ite .done (.ite .done .done)))

theorem execConfirm_answers {s : State} : Answers (execConfirm s) := by
  unfold execConfirm
  split
  · exact .done
  · exact .ite .done .done

theorem execRevert_answers {s : State} : Answers (execRevert s) := by
  unfold execRevert
  split
  · exact .done
  · exact .ite .done (.ite .done (.ite .done .done))

theorem execUpdStatus_answers {s : State} : Answers (execUpdStatus s) := by
  unfold execUpdStatus
  split <;> exact .done

theorem execSlotWindowStart_answers {part slot : Nat} {s : State} : Answers (execSlotWindowStart part slot s) := by
  unfold execSlotWindowStart
  split
  · exact .ite .done .done
  · exact .done

/-- Only a test-access instruction can be refused (R28). The rows stand by the operation they share or by how they branch;
SEAL, whose name is a word of Lean, is the last arm. -/
theorem exec_answers (i : Instr) (s : State) (hi : ∀ b, i ≠ .tapInstruction b) : Answers (exec i s) := by
  unfold exec
  cases i with
  | tapInstruction b => exact absurd rfl (hi b)
  | registerWrite | blkSelWrite | blkErrClear | lockSet | quiesce | regIndexWrite | regEntryHiWrite | rowSpare | bankSpare
    | stkTrainStart | bringInSpare | retireBrick | seqPoolAdd | seqQuotaWrite | yrdBentryWrite | yrdSpareCmd | yrdQCacheWrite
    | partitionCreate | partitionActivate | partitionDrain | partitionRelease | prtModeWrite | cytCommit | cytEnableWrite
    | cytShift | prtQctrlEnable | ringHeadWrite | flush | resume | lntIvecWrite | linkTrain | linkDisable | spareTransmitter
    | spareReceiver | imageCreate | imageDelete | imageAbort | coreRestartWrite | coreRetireWrite
    | klnStkLevelWrite => exact State.writeCmd_answers
  | compReset | warmReset | partitionReset => exact State.resetCmd_answers
  | computeTimingWrite | seqPoolSizeWrite | seqPfxModeWrite | yrdClsWrite | poolAssign | bgrpAssign | hodAssign
    | regulatorWrite | ringDoorbell | heartbeat | sensorFlagClear | ceilMhzWrite => exact State.writeRun_answers
  | aluAdd | aluSub | aluAnd | aluOr | aluXor | aluSll | aluSrl | aluSra | aluSlt | aluSltu | aluMin | aluMax | aluMinu
    | aluMaxu | aluMul | aluMulh | aluMulhu | aluDiv | aluDivu | aluRem | aluRemu => exact aluRow_answers
  | addi | andi | ori | xori | slti | sltiu | slli | srli | srai | lui => exact immRow_answers
  | lw | lh | lhu | lb | lbu => exact loadRow_answers
  | sw | sh | sb => exact storeRow_answers
  | beq | bne | blt | bge | bltu | bgeu => exact branchRow_answers
  | jal | jalr | waitc | mEnd => exact masonRow_answers
  | stepCmd | seqClose | adapterRetire | prefixPublish | acquire | replay | patch | fence | modelLoad | reduceRemote | waitCmd
    | signal | nop | trainStep | marker => exact State.admitRow_answers
  | seqOpen | adapterInstall | copy | layout | gather => exact State.runRow_answers
  | setInput | truncate | setFloor | rebind | setSpec | setClass | hold | release | pages => exact editRow_answers
  | mrd | mwr | mwrc => exact State.hostRequest_answers
  | ksCerts | ksAttest | ksBind | ksPeer | ksDebug => exact State.ksRow_answers
  | grantHostRights | grantImport | grantLock => exact State.grantRow_answers
  | vinPrsntOpen | passMv | passScore | passValue | passOutlier | groupSpaceReserved | computeActivate | stackHotEnd | tload
    | tmul | mvld | mvcfg | mvmul | vopCopy | vopAdd | vopMul | vopMax | vopRelu | vopSigmoid | vopSilu | vopGeluTanh
    | vopGateSilu | vopExp | vopRecip | vopRsqrt | vopLnorm | vopRmsnorm | vopNstat | vopNapply | vopRope | vcfgScaleTable
    | vcfgParameterBlock | store | brickClearDone | drainComplete | regulatorRefill | intrHoldoffEnd | heartbeatTimeout
    | trainingTimeout | keyingTimeout | rrd | rwr | radd | ownrd | rack | rdat | creditTimeout | responseTimeout
    | tagFailureLimit | reloadRetry | retentionSample | watchdogExpiry | coreException | crashLoopRetire | dutyMove
    | sensorSample | throttleReq | throttleAck | thermalGraceEnd | enforcementStep | nearEnd | powerBudgetSample
    | powerCeilingStep | clampRelease | vinPrsntMate | coldResetNRise | counterExhausted => exact .done
  | coolantHoldRelease | inputLossShutdown | overvoltageShutdown | inputPowerSample | powerLimitShutdown | coolantShutdown
    | emergOff | pwrEnFall | coldReset | referenceLost | cableSupplyTrip | cableInsert | cableRemove | powerStatusRead
    | memorySideAdd | issueTimeout | inboundAdmit | pageRelease | yardAccess | streamDeclare | budgetStop | ringFullSilence
    | silenceGraceEnd | retainExpiry | scrubSweepStart | scrubReload | blockDefect | restartPhaseOverrun | idleSelftest
    | bringup | fillStart | releaseTimeout | warmResetDrainEnd | automaticFallback | clockRampStep | thermalTrip
    | recoveryComplete | liveRelease | stackLost | inputBelow30V | hostLinkReturn | footingDieFail => exact .ite .done .done
  | powerUp | epWindowEnd => exact .ite (.ite .done .done) .done
  | commandFetch | nakFlit | moduleFailure | trainingDone | kxInit | kxResp | kxDone | rekeyDue | recompute
    | sealDone => exact .ite .done (.ite .done .done)
  | stkTrainDone | nakFrame | retrainDone | laneDrop | kxHello | startupRelease
    | ucieRetrainEnd => exact .ite .done (.ite .done (.ite .done .done))
  | flitReceive | frameReceive => exact .ite .done (.ite .done (.ite .done (.ite .done .done)))
  | keystoneBoot => exact .ite .done (.ite .done (.ite .done (.ite .done (.ite .done .done))))
  | readClear => exact execReadClear_answers
  | componentResetDone => exact execComponentResetDone_answers
  | latch => exact execLatch_answers
  | groupOpen => exact execGroupOpen_answers
  | yieldPoint => exact execYieldPoint_answers
  | refreshDue => exact execRefreshDue_answers
  | ordinaryAccess => exact execOrdinaryAccess_answers
  | passEnd => exact execPassEnd_answers
  | contribution => exact execContribution_answers
  | mergeIdleFlush => exact execMergeIdleFlush_answers
  | regEntryLoWrite => exact execRegEntryLoWrite_answers
  | regionFillDone => exact execRegionFillDone_answers
  | repairDone => exact execRepairDone_answers
  | inboundLanded => exact execInboundLanded_answers
  | epush => exact execEpush_answers
  | epushm => exact execEpushm_answers
  | spushm => exact execSpushm_answers
  | masonWait => exact execMasonWait_answers
  | waiti => exact execWaiti_answers
  | workItemStart => exact execWorkItemStart_answers
  | workItemEnd => exact execWorkItemEnd_answers
  | stepAdmission => exact execStepAdmission_answers
  | placement => exact execPlacement_answers
  | walkStart => exact execWalkStart_answers
  | walkCombine => exact execWalkCombine_answers
  | roundCombine => exact execRoundCombine_answers
  | walkTimeout => exact execWalkTimeout_answers
  | stepCommit => exact execStepCommit_answers
  | seqEditApply => exact execSeqEditApply_answers
  | seqCloseFinish => exact execSeqCloseFinish_answers
  | blockConversionDone => exact execBlockConversionDone_answers
  | slabReplaceDone => exact execSlabReplaceDone_answers
  | periodWrap => exact execPeriodWrap_answers
  | slotWindowEnd => exact execSlotWindowEnd_answers
  | queueDoorbellWrite => exact execQueueDoorbellWrite_answers
  | modelLoadBlock => exact execModelLoadBlock_answers
  | modelLoadComplete => exact execModelLoadComplete_answers
  | waitEvaluate => exact execWaitEvaluate_answers
  | waitTimeout => exact execWaitTimeout_answers
  | completionRecord => exact execCompletionRecord_answers
  | prtPvalWrite => exact execPrtPvalWrite_answers
  | db => exact execDb_answers
  | sidebandRead => exact execSidebandRead_answers
  | sidebandWrite => exact execSidebandWrite_answers
  | attach => exact execAttach_answers
  | detach => exact execDetach_answers
  | queryState => exact execQueryState_answers
  | unknownMessage => exact execUnknownMessage_answers
  | scrubVisit => exact execScrubVisit_answers
  | scrubLate => exact execScrubLate_answers
  | openFaultMark => exact execOpenFaultMark_answers
  | reloadDone => exact execReloadDone_answers
  | recomputeEnd => exact execRecomputeEnd_answers
  | stagingWrite => exact execStagingWrite_answers
  | restartPhaseEnd => exact execRestartPhaseEnd_answers
  | unitAudit => exact execUnitAudit_answers
  | reconcile => exact execReconcile_answers
  | activate => exact execActivate_answers
  | activationInstance => exact execActivationInstance_answers
  | confirm => exact execConfirm_answers
  | revert => exact execRevert_answers
  | updStatus => exact execUpdStatus_answers
  | slotWindowStart => exact execSlotWindowStart_answers
  | _ => exact State.writeCmd_answers

theorem execTapInstruction_answers_or_refused (b : Bool) (s : State) :
    Answers (execTapInstruction b s) ∨ execTapInstruction b s = .refused .testAccessUnspecified := by
  unfold execTapInstruction
  split
  · exact .inl .done
  · split
    · exact .inl .done
    · split
      · exact .inr rfl
      · exact .inl .done

theorem exec_answers_or_refused (i : Instr) (s : State) :
    Answers (exec i s) ∨ ∃ b, i = .tapInstruction b ∧ exec i s = .refused .testAccessUnspecified := by
  by_cases hi : ∃ b, i = .tapInstruction b
  · obtain ⟨b, rfl⟩ := hi
    exact (execTapInstruction_answers_or_refused b s).imp_right fun h => ⟨b, rfl, h⟩
  · exact .inl (exec_answers i s fun b hb => hi ⟨b, hb⟩)

/-- Settles O60: the command answers or is a refused test access, and the rest of the queue and the fuses, which stand in the
state it is performed on, are fixed for every operation. -/
theorem commandsRunAndKeepTheFuses : Obligations.CommandsRunAndKeepTheFuses := by
  intro s c cs hq
  have fixed := exec_keeps (fixed_stable cs s.dv.gradeC s.dv.devNum s.dv.rootHash s.dv.footingSeed) c
    (s := { s with pending := cs }) ⟨rfl, rfl, rfl, rfl, rfl⟩
  rw [step_cons hq]
  obtain ⟨t, ht⟩ | refused := exec_answers_or_refused c { s with pending := cs }
  · exact .inl ⟨t, ht, fixed t ht⟩
  · exact .inr refused

end Sys2Proof.Machine

/-! SUPPORT. The power sequencer and the queue: what a rise of the rails, a measurement and a shutdown leave, and the
obligations about them (chapter 1; log entry 1 for the queue). -/

namespace Sys2Proof.Machine

/-! ## The queue -/

/-- Settles O57, by the two equations of `step`. -/
theorem stepTakesTheFrontCommand : Obligations.StepTakesTheFrontCommand :=
  ⟨fun _ _ _ => step_cons, fun _ => step_nil⟩

/-! ## Rows of the sequencer -/

theorem coolantOk_iff {flow tInlet : Nat} : coolantOk flow tInlet = true ↔ 40 ≤ flow ∧ tInlet ≤ 96 := by
  simp [coolantOk]

theorem coolantOk_eq_false_iff {flow tInlet : Nat} : coolantOk flow tInlet = false ↔ flow < 40 ∨ 96 < tInlet := by
  rw [← Bool.not_eq_true, coolantOk_iff]
  omega

/-- `PWR_EN` is high and the sequencer has measured. -/
def State.sequencerOn (s : State) (vin flow tInlet : Nat) : State :=
  ({ s with pw := { s.pw with pwrEn := true } } : State).senseInput vin flow tInlet

/-- Power-up has begun and waits for the coolant. -/
def State.coolantHold (s : State) : State := s.setPw { s.pw with pwrState := 1 }

/-- R18, Table 1-5: what POWER_UP does with the input mated and the rails off. -/
theorem exec_powerUp {s : State} {vin flow tInlet : Nat} (hvin : 1500 ≤ vin) (hpin : s.pw.vinPrsnt = true)
    (hoff : s.railsUp = false) : exec (.powerUp vin flow tInlet) s = .next (
      if 1950 ≤ vin then (if coolantOk flow tInlet then (s.sequencerOn vin flow tInlet).coolantHold.railsRise
        else (s.sequencerOn vin flow tInlet).coolantHold)
      else s.sequencerOn vin flow tInlet) := by
  show execPowerUp vin flow tInlet s = _
  rw [execPowerUp, if_pos (by simp [hvin, hpin, hoff])]
  split
  · rfl
  · rfl

/-- Pins that the power status word does not show change without a word of it changing (Table 1-8). -/
theorem State.setPw_of_word_eq {s : State} {p : Power} (hw : p.word = s.pw.word) : s.setPw p = { s with pw := p } := by
  simp [State.setPw, hw]

/-- Settles O1: each row is its guard, a measurement and, where the coolant allows, the rise of the rails. -/
theorem powerUpRuns : Obligations.PowerUpRuns := by
  refine ⟨?_, ?_, ?_, ?_, fun s => ?_, fun s => ?_⟩
  · intro s vin flow tInlet hvin hpin hoff hflow hin
    refine ⟨_, exec_powerUp (by omega) hpin hoff, ?_⟩
    rw [if_pos hvin, if_pos (coolantOk_iff.2 ⟨hflow, hin⟩)]
    exact ⟨rfl, rfl, rfl, rfl, rfl, rfl, Nat.min_eq_left (by omega), rfl, rfl⟩
  · intro s vin flow tInlet hvin hpin hoff hout
    refine ⟨_, exec_powerUp (by omega) hpin hoff, ?_⟩
    rw [if_pos hvin, if_neg (by rw [coolantOk_eq_false_iff.2 hout]; decide)]
    exact ⟨rfl, rfl, rfl⟩
  · intro s vin flow tInlet hlo hhi hpin hoff
    refine ⟨_, exec_powerUp hlo hpin hoff, ?_⟩
    rw [if_neg (by omega)]
    exact ⟨rfl, Nat.min_eq_left (by omega), rfl, rfl⟩
  · intro s flow tInlet hst hflow hin
    have ok := coolantOk_iff.2 ⟨hflow, hin⟩
    have go : exec (.coolantHoldRelease flow tInlet) s = .next (s.senseInput s.pw.vin flow tInlet).railsRise := by
      show execCoolantHoldRelease flow tInlet s = _
      simp [execCoolantHoldRelease, hst, ok, done]
    exact ⟨_, go, rfl, rfl, rfl, rfl, Nat.min_eq_left (by omega), rfl⟩
  · exact congrArg Host.Outcome.next (State.setPw_of_word_eq rfl)
  · exact congrArg Host.Outcome.next (State.setPw_of_word_eq rfl)

/-! ## Shutdowns -/

/-- R18, R19, R26: a shutdown latches its cause and loses what is volatile. -/
theorem State.shutDown_shutdown (s : State) (cause : Nat) : ShutDown cause s (s.shutdown cause) :=
  ⟨rfl, rfl, rfl, rfl, rfl, rfl, rfl, rfl, rfl, rfl, rfl, rfl, rfl, rfl, rfl, rfl⟩

/-- What the sequencer measured just before a shutdown makes no difference to what is lost. -/
theorem State.shutDown_setPw (s : State) (p : Power) (cause : Nat) : ShutDown cause s ((s.setPw p).shutdown cause) :=
  State.shutDown_shutdown (s.setPw p) cause

theorem exec_referenceLost {s : State} {stopped : Bool} {ppm us : Nat} (hup : s.railsUp = true)
    (hoff : stopped = true ∨ 1000 < ppm) (hus : 2 ≤ us) :
    exec (.referenceLost stopped ppm us) s = .next (s.shutdown 0x05) := by
  show execReferenceLost stopped ppm us s = _
  simp [execReferenceLost, hup, hoff, hus, done]

/-- Settles O2: with its guard met each row is a shutdown, after what it measured is recorded. -/
theorem shutdownsTrip : Obligations.ShutdownsTrip := by
  intro s hup
  refine ⟨?_, ?_, ?_, ?_, ?_, ?_, ?_, ?_⟩
  · intro vin us hvin hus
    have go : exec (.inputLossShutdown vin us) s = .next ((s.setPw { s.pw with vin := vin }).shutdown 0x01) := by
      show execInputLossShutdown vin us s = _
      simp [execInputLossShutdown, hup, hvin, hus, done]
    exact ⟨_, go, s.shutDown_setPw _ _, rfl⟩
  · intro vin us hvin hus
    have go : exec (.overvoltageShutdown vin us) s = .next ((s.setPw { s.pw with vin := vin }).shutdown 0x02) := by
      show execOvervoltageShutdown vin us s = _
      simp [execOvervoltageShutdown, hup, hvin, hus, done]
    exact ⟨_, go, s.shutDown_setPw _ _, rfl⟩
  · intro w hw
    have go : exec (.powerLimitShutdown w) s = .next ((s.setPw { s.pw with pin := min (w / 2) 4095 }).shutdown 0x03) := by
      show execPowerLimitShutdown w s = _
      simp [execPowerLimitShutdown, hup, hw, done]
    exact ⟨_, go, s.shutDown_setPw _ _, rfl⟩
  · intro us hus
    have go : exec (.emergOff us) s = .next (s.shutdown 0x04) := by
      show execEmergOff us s = _
      simp [execEmergOff, hup, hus, done]
    exact ⟨_, go, s.shutDown_shutdown _⟩
  · exact fun stopped ppm us hoff hus => ⟨_, exec_referenceLost hup hoff hus, s.shutDown_shutdown _⟩
  · intro flow tInlet ms hst hout hms
    have bad := coolantOk_eq_false_iff.2 hout
    have go : exec (.coolantShutdown flow tInlet ms) s = .next ((s.senseInput s.pw.vin flow tInlet).shutdown 0x06) := by
      show execCoolantShutdown flow tInlet ms s = _
      simp [execCoolantShutdown, hst, bad, hms, done]
    exact ⟨_, go, s.shutDown_setPw _ _, rfl⟩
  · intro region now hpres hhot hheld
    have go : exec (.thermalTrip region now) s = .next ((s.at now).shutdown 0x07) := by
      show execThermalTrip region now s = _
      have up : (s.at now).railsUp = true := hup
      have pres : (s.at now).regionPresent region = true := hpres
      have hot : (s.at now).readingAtLeast region (tripAt region) = true := hhot
      simp [execThermalTrip, up, pres, hot, hheld, done]
    exact ⟨_, go, (s.at now).shutDown_shutdown _⟩
  · have go : exec .vinPrsntOpen s = .next ((s.setPw { s.pw with vinPrsnt := false }).shutdown 0x01) := by
      show execVinPrsntOpen s = _
      simp [execVinPrsntOpen, hup, done]
    exact ⟨_, go, s.shutDown_setPw _ _, rfl⟩

/-- Settles O3: the row's guard is the rule's condition, and its effect the shutdown with cause 0x05. -/
theorem referenceStopShutsDown : Obligations.ReferenceStopShutsDown := by
  refine ⟨fun _ hup _ _ _ hoff hus => exec_referenceLost hup hoff hus, fun s cause => s.shutDown_shutdown cause, ?_⟩
  intro s stopped ppm us hsmall
  have unmet : (s.railsUp && (stopped || decide (1000 < ppm)) && decide (2 ≤ us)) = false := by
    rcases hsmall with ⟨rfl, hppm⟩ | hus
    · simp [show ¬ 1000 < ppm by omega]
    · simp [show ¬ 2 ≤ us by omega]
  show execReferenceLost stopped ppm us s = _
  rw [execReferenceLost, if_neg (by simp [unmet])]
  rfl

end Sys2Proof.Machine

/-! SUPPORT. Reads after writes: bits of a mask field, and which registers an operation leaves alone, by their keys. -/

namespace Sys2Proof.Machine

/-! ## Bits -/

theorem nbit_eq_testBit (n i : Nat) : nbit n i = n.testBit i := by
  rw [nbit, Nat.testBit_eq_decide_div_mod_eq, beq_eq_decide]

/-- Adding the weight of a clear bit sets that bit alone. -/
theorem testBit_add_two_pow {n b : Nat} (hb : n.testBit b = false) (k : Nat) :
    (n + 2 ^ b).testBit k = if k = b then true else n.testBit k := by
  obtain ⟨q, hq⟩ : ∃ q, n / 2 ^ b = 2 * q := ⟨n / 2 ^ b / 2, by
    have := Nat.testBit_eq_decide_div_mod_eq (x := n) (i := b)
    rw [hb] at this
    have even : n / 2 ^ b % 2 ≠ 1 := by simpa using this.symm
    omega⟩
  have hr : n % 2 ^ b < 2 ^ b := Nat.mod_lt _ (Nat.two_pow_pos b)
  have hn : n = 2 ^ b * (2 * q) + n % 2 ^ b := by rw [← hq]; exact (Nat.div_add_mod n _).symm
  have hs : n + 2 ^ b = 2 ^ b * (2 * q + 1) + n % 2 ^ b := by
    conv_lhs => rw [hn]
    ring
  rw [hs, Nat.testBit_two_pow_mul_add _ hr]
  conv_rhs => rw [hn, Nat.testBit_two_pow_mul_add _ hr]
  rcases lt_trichotomy k b with h | rfl | h
  · simp [h, h.ne]
  · simp
  · obtain ⟨d, rfl⟩ : ∃ d, k = b + 1 + d := ⟨k - b - 1, by omega⟩
    have hd : b + 1 + d - b = d + 1 := by omega
    simp [show ¬ b + 1 + d < b by omega, show b + 1 + d ≠ b by omega, hd, Nat.testBit_succ, show (2 * q + 1) / 2 = q by omega]

theorem nbit_nsetBit (n b : Nat) (v : Bool) (k : Nat) : nbit (nsetBit n b v) k = if k = b then v else nbit n k := by
  simp only [nsetBit, nbit_eq_testBit]
  cases hb : n.testBit b
  · cases v
    · by_cases h : k = b
      · simp [h, hb]
      · simp [h]
    · simp [testBit_add_two_pow hb]
  · cases v
    · -- the number without the bit has it clear, and adding it again gives the number
      have hle : 2 ^ b ≤ n := Nat.ge_two_pow_of_testBit hb
      have odd : n / 2 ^ b % 2 = 1 := by simpa [Nat.testBit_eq_decide_div_mod_eq] using hb
      have clear : (n - 2 ^ b).testBit b = false := by
        have : (n - 2 ^ b) / 2 ^ b = n / 2 ^ b - 1 := by simpa using Nat.sub_mul_div n (2 ^ b) 1
        rw [Nat.testBit_eq_decide_div_mod_eq, this]
        simp
        omega
      have back := testBit_add_two_pow clear k
      rw [Nat.sub_add_cancel hle] at back
      by_cases h : k = b
      · simp [h, clear]
      · simp [h, back]
    · by_cases h : k = b
      · simp [h, hb]
      · simp [h]

theorem nbit_mod_two_pow {n w k : Nat} (h : k < w) : nbit (n % 2 ^ w) k = nbit n k := by
  simp [nbit_eq_testBit, Nat.testBit_mod_two_pow, h]

/-- A bit of a mask field after one of them was written. -/
theorem State.bit_setBit {s : State} (h : s.RegsWf) {f : Fld} (hf : f.Fits) {b k : Nat} (hk : k < f.width) (v : Bool) (i j : Nat) :
    (s.setBit f b v i j).bit f k i j = if k = b then v else s.bit f k i j := by
  rw [State.bit, State.setBit, State.getF_setF_same h hf, nbit_mod_two_pow hk, nbit_nsetBit, State.bit]

theorem State.getF_lt (s : State) (f : Fld) (i j : Nat) : s.getF f i j < 2 ^ f.width := Nat.mod_lt _ (Nat.two_pow_pos _)

/-! ## Registers that read as before -/

/-- The registers whose keys satisfy `K` read in `t` as in `s`. -/
def RegsSame (K : Nat → Prop) (s t : State) : Prop := ∀ k, K k → smGet regDefault t.regs k = smGet regDefault s.regs k

section
variable {K : Nat → Prop} {s t u : State}

theorem RegsSame.refl (s : State) : RegsSame K s s := fun _ _ => rfl

theorem RegsSame.trans (h : RegsSame K s t) (h' : RegsSame K t u) : RegsSame K s u := fun k hk => (h' k hk).trans (h k hk)

/-- What leaves the store alone may follow. -/
theorem RegsSame.of_regs (h : RegsSame K s t) (e : u.regs = t.regs) : RegsSame K s u := fun k hk => by rw [e, h k hk]

theorem RegsSame.mono {L : Nat → Prop} (h : RegsSame K s t) (hL : ∀ k, L k → K k) : RegsSame L s t := fun k hk => h k (hL k hk)

theorem RegsSame.reg (h : RegsSame K s t) {a i j : Nat} (hk : K (regKey a i j)) : t.reg a i j = s.reg a i j := h _ hk

theorem RegsSame.getF (h : RegsSame K s t) {f : Fld} {i j : Nat} (hk : K (regKey f.addr i j)) : t.getF f i j = s.getF f i j := by
  rw [State.getF, State.getF, h.reg hk]

theorem RegsSame.bit (h : RegsSame K s t) {f : Fld} {b i j : Nat} (hk : K (regKey f.addr i j)) :
    t.bit f b i j = s.bit f b i j := by
  rw [State.bit, State.bit, h.getF hk]

theorem RegsSame.setReg (h : RegsSame K s t) {a : Nat} {v : Word} {i j : Nat} (hk : ¬ K (regKey a i j)) :
    RegsSame K s (t.setReg a v i j) :=
  fun k hK => (smGet_smSet_ne _ _ _ fun e : k = regKey a i j => hk (e ▸ hK)).trans (h k hK)

theorem RegsSame.setF (h : RegsSame K s t) {f : Fld} {v i j : Nat} (hk : ¬ K (regKey f.addr i j)) :
    RegsSame K s (t.setF f v i j) := h.setReg hk

theorem RegsSame.setFlag (h : RegsSame K s t) {f : Fld} {v : Bool} {i j : Nat} (hk : ¬ K (regKey f.addr i j)) :
    RegsSame K s (t.setFlag f v i j) := h.setReg hk

theorem RegsSame.setBit (h : RegsSame K s t) {f : Fld} {b : Nat} {v : Bool} {i j : Nat} (hk : ¬ K (regKey f.addr i j)) :
    RegsSame K s (t.setBit f b v i j) := h.setReg hk

theorem RegsSame.bump (h : RegsSame K s t) {f : Fld} {n i j : Nat} (hk : ¬ K (regKey f.addr i j)) :
    RegsSame K s (t.bump f n i j) := h.setReg hk

theorem RegsSame.setPair (h : RegsSame K s t) {lo hi v i j : Nat} (hl : ¬ K (regKey lo i j)) (hh : ¬ K (regKey hi i j)) :
    RegsSame K s (t.setPair lo hi v i j) := (h.setReg hl).setReg hh

theorem RegsSame.setUnit (h : RegsSame K s t) {b : Blk} {i st : Nat} (hk : ¬ K (regKey (hdrAddr b 0x0C) i 0)) :
    RegsSame K s (t.setUnit b i st) := RegsSame.of_regs (h.setReg hk) rfl

theorem RegsSame.foldl {α : Type} {g : State → α → State} {l : List α} (h : RegsSame K s t)
    (hg : ∀ t x, x ∈ l → RegsSame K t (g t x)) : RegsSame K s (l.foldl g t) := by
  induction l generalizing t with
  | nil => exact h
  | cons x l ih => exact ih (h.trans (hg t x (by simp))) fun t y hy => hg t y (List.mem_cons_of_mem _ hy)

end

theorem regsKeep_iff {ks : List Nat} {s t : State} : RegsKeep ks s t ↔ RegsSame (fun k => k ∉ ks) s t := Iff.rfl

/-! ## Parts of a key -/

/-- Which copy of a register a key of the store names. -/
def keyInst (k : Nat) : Nat := k / 0x8000 % 0x4000

theorem keyAddr_regKey {a i j : Nat} (hi : i < 0x4000) (hj : j < 0x8000) : keyAddr (regKey a i j) = a := by
  unfold keyAddr regKey; omega

theorem keyInst_regKey {a i j : Nat} (hi : i < 0x4000) (hj : j < 0x8000) : keyInst (regKey a i j) = i := by
  unfold keyInst regKey; omega

end Sys2Proof.Machine

/-! SUPPORT. A Quoin link on which nothing waits goes down (R378): what its registers then read, and what it leaves. -/

namespace Sys2Proof.Machine

/-! ## Operations that change registers alone, or registers and what an error sends -/

/-- Nothing but registers differs. -/
def RegsOnly (s t : State) : Prop := ∃ r, t = { s with regs := r }

/-- Nothing differs but registers, the error interrupts held and what has left the block. -/
def ErrOnly (s t : State) : Prop := ∃ r tr out, t = { s with regs := r, tr := tr, out := out }

theorem RegsOnly.trans {s t u : State} (h : RegsOnly s t) (h' : RegsOnly t u) : RegsOnly s u := by
  obtain ⟨r, rfl⟩ := h
  obtain ⟨r', rfl⟩ := h'
  exact ⟨r', rfl⟩

theorem RegsOnly.refl (s : State) : RegsOnly s s := ⟨s.regs, rfl⟩

theorem RegsOnly.setReg {s t : State} (h : RegsOnly s t) {a : Nat} {v : Word} {i j : Nat} : RegsOnly s (t.setReg a v i j) :=
  h.trans ⟨_, rfl⟩

theorem RegsOnly.setF {s t : State} (h : RegsOnly s t) {f : Fld} {v i j : Nat} : RegsOnly s (t.setF f v i j) := h.setReg

theorem RegsOnly.setFlag {s t : State} (h : RegsOnly s t) {f : Fld} {v : Bool} {i j : Nat} : RegsOnly s (t.setFlag f v i j) :=
  h.setReg

theorem RegsOnly.setPair {s t : State} (h : RegsOnly s t) {lo hi v i j : Nat} : RegsOnly s (t.setPair lo hi v i j) :=
  h.setReg.setReg

theorem RegsOnly.foldl {α : Type} {g : State → α → State} (hg : ∀ t x, RegsOnly t (g t x)) {l : List α} {s t : State}
    (h : RegsOnly s t) : RegsOnly s (l.foldl g t) := by
  induction l generalizing t with
  | nil => exact h
  | cons x l ih => exact ih (h.trans (hg t x))

theorem RegsOnly.errOnly {s t : State} (h : RegsOnly s t) : ErrOnly s t := by
  obtain ⟨r, rfl⟩ := h
  exact ⟨r, _, _, rfl⟩

theorem ErrOnly.trans {s t u : State} (h : ErrOnly s t) (h' : ErrOnly t u) : ErrOnly s u := by
  obtain ⟨r, tr, out, rfl⟩ := h
  obtain ⟨r', tr', out', rfl⟩ := h'
  exact ⟨r', tr', out', rfl⟩

/-- The interrupt of R48 is sent to a core or held, where no host source carries it too. -/
theorem State.errIrq_only (s : State) {b : Blk} {i : Nat} (cause : Nat) (hb : errSource b i = none) :
    ∃ tr out, s.errIrq b i cause = { s with tr := tr, out := out } := by
  unfold State.errIrq
  simp only [hb]
  cases s.dutyCore 0 with
  | none => exact ⟨_, _, rfl⟩
  | some c =>
    dsimp only
    split
    · exact ⟨_, _, rfl⟩
    · exact ⟨_, _, rfl⟩

/-- R45, R48: an error without an address writes the block's cause register and sends or holds its interrupt. -/
theorem State.err_only (s : State) {b : Blk} {i : Nat} (cause : Nat) (hb : errSource b i = none) :
    ErrOnly s (s.err b i cause) ∧ ∀ K, ¬ K (regKey (hdrAddr b 0x10) i 0) → RegsSame K s (s.err b i cause) := by
  unfold State.err
  extract_lets was valid s1 s2
  have recorded : RegsOnly s s2 ∧ ∀ K, ¬ K (regKey (hdrAddr b 0x10) i 0) → RegsSame K s s2 := by
    have first : RegsOnly s s1 := (RegsOnly.refl s).setReg
    have firstSame : ∀ K, ¬ K (regKey (hdrAddr b 0x10) i 0) → RegsSame K s s1 := fun K hk => RegsSame.setBit (RegsSame.refl s) hk
    unfold s2
    split
    · exact ⟨first.setFlag, fun K hk => (firstSame K hk).setFlag hk⟩
    · exact ⟨first, firstSame⟩
  obtain ⟨only, same⟩ := recorded
  split
  · obtain ⟨tr, out, e⟩ := s2.errIrq_only cause hb
    rw [e]
    exact ⟨only.errOnly.trans ⟨_, tr, out, rfl⟩, fun K hk => (same K hk).of_regs rfl⟩
  · exact ⟨only.errOnly, same⟩

theorem RegsSame.err {K : Nat → Prop} {s t : State} (h : RegsSame K s t) {b : Blk} {i cause : Nat} (hb : errSource b i = none)
    (hk : ¬ K (regKey (hdrAddr b 0x10) i 0)) : RegsSame K s (t.err b i cause) :=
  h.trans ((t.err_only cause hb).2 K hk)

/-! ## One link -/

/-- The status and control registers of a link that goes down: `DOWN` with its cause, no training, no keys. -/
def State.linkFlagsDown (s : State) (l cause : Nat) : State :=
  let t := ((s.setF F.QLK_STATE_STATE 0 l).setF F.QLK_STATE_WIDTH 0 l).setF F.QLK_DOWN_CAUSE_CAUSE cause l
  ((t.setFlag F.QLK_CTRL_TRAIN false l).setReg A.QLK_KEYSTAT 0 l).setFlag F.QLK_SPARE_STAT_BUSY false l

/-- The first `n` import entries of a link cleared. -/
def State.importsCleared (s : State) (l n : Nat) : State := (List.range n).foldl (fun u k => u.setReg A.QLK_IMPORT 0 l k) s

/-- The registers of a link that goes down. -/
def State.linkRegsDown (s : State) (l cause : Nat) : State :=
  ((s.linkFlagsDown l cause).importsCleared l 32).setPair A.QLK_TXCTR_LO A.QLK_TXCTR_HI 0 l

/-- What a link keeps beyond its registers when it goes down: the lanes taken out of use. -/
def State.linkEmptied (s : State) (l : Nat) (x : QLink) : State :=
  let t := s.setQlink l { txUsed := x.txUsed, rxUsed := x.rxUsed }
  { t with lk := { t.lk with discard := t.lk.discard.filter fun e => e.1 ≠ l } }

/-- The state in which what was sent on the link is answered. -/
def State.linkDropped (s : State) (l cause : Nat) : State :=
  (((((s.linkRegsDown l cause).linkEmptied l (s.qlink l)).setUnit .qlk l 1).err .qlk l 0).forgetPeer l)

theorem State.linkDown_eq (s : State) (l cause : Nat) : s.linkDown l cause =
    (((s.qlink l).sent.foldl (fun u e => u.answerUse e.2 St.linkDown []) (s.linkDropped l cause)).goAgain State.placeRemote
      (s.qlink l).waiting).goHeld := rfl

@[simp] theorem State.linkEmptied_regs (s : State) (l : Nat) (x : QLink) : (s.linkEmptied l x).regs = s.regs := by
  rw [State.linkEmptied, State.setQlink]

@[simp] theorem State.forgetPeer_regs (s : State) (l : Nat) : (s.forgetPeer l).regs = s.regs := by rw [State.forgetPeer]

/-- With no request held, none goes on. -/
theorem State.goHeld_of_nil {s : State} (h : s.lk.held = []) : s.goHeld = s := by
  rw [State.goHeld, h]
  show { s with lk := { s.lk with held := [] } } = s
  rw [← h]

theorem State.linkRegsDown_only (s : State) (l cause : Nat) : RegsOnly s (s.linkRegsDown l cause) :=
  (RegsOnly.foldl (fun t _ => (RegsOnly.refl t).setReg) (RegsOnly.refl s).setF.setF.setF.setFlag.setReg.setFlag).setPair

/-- What a fall of the link alone leaves of the rest of the state. -/
theorem State.linkDropped_frame (s : State) (l cause : Nat) :
    (s.linkDropped l cause).pw = s.pw ∧ (s.linkDropped l cause).dv = s.dv ∧ (s.linkDropped l cause).mem = s.mem
      ∧ (s.linkDropped l cause).synd = s.synd ∧ (s.linkDropped l cause).lk.held = s.lk.held
      ∧ ∀ k, k ≠ l → (s.linkDropped l cause).qlink k = s.qlink k := by
  obtain ⟨r, e⟩ := s.linkRegsDown_only l cause
  obtain ⟨r', tr, out, e'⟩ :=
    ((((s.linkRegsDown l cause).linkEmptied l (s.qlink l)).setUnit .qlk l 1).err_only (b := .qlk) (i := l) 0 rfl).1
  rw [State.linkDropped, e', e]
  refine ⟨?_, ?_, ?_, ?_, ?_, fun k hk => ?_⟩
  case refine_6 =>
    have other := smGet_smSet_ne (fun _ => ({} : QLink)) s.lk.links { txUsed := (s.qlink l).txUsed, rxUsed := (s.qlink l).rxUsed } hk
    simpa [State.forgetPeer, State.linkEmptied, State.qlink, State.setQlink] using other
  all_goals simp [State.forgetPeer, State.linkEmptied, State.setQlink]

/-- A link on which nothing waits and nothing was sent goes down alone (R378). -/
theorem State.linkDown_of_quiet {s : State} {l cause : Nat} (hs : (s.qlink l).sent = []) (hw : (s.qlink l).waiting = [])
    (hh : s.lk.held = []) : s.linkDown l cause = s.linkDropped l cause := by
  obtain ⟨-, -, -, -, held, -⟩ := s.linkDropped_frame l cause
  rw [State.linkDown_eq, hs, hw]
  exact State.goHeld_of_nil (held.trans hh)

/-! ### What its registers read -/

theorem State.regsWf_importsCleared {s : State} (h : s.RegsWf) (l n : Nat) : (s.importsCleared l n).RegsWf :=
  keep_foldl (Q := State.RegsWf) h fun _ _ ht => State.regsWf_setReg ht _ _ _ _

theorem State.reg_importsCleared {s : State} (h : s.RegsWf) (l : Nat) {n e : Nat} (he : e < n) (hn : n ≤ 32) :
    (s.importsCleared l n).reg A.QLK_IMPORT l e = 0#32 := by
  induction n with
  | zero => omega
  | succ n ih =>
    have last : s.importsCleared l (n + 1) = (s.importsCleared l n).setReg A.QLK_IMPORT 0 l n := by
      simp [State.importsCleared, List.range_succ]
    rw [last]
    by_cases hen : e = n
    · rw [hen, State.reg_setReg_same (State.regsWf_importsCleared h l n)]
      rfl
    · rw [State.reg_setReg_ne]
      · exact ih (by omega) (by omega)
      · unfold regKey; omega

theorem State.regsWf_linkFlagsDown {s : State} (h : s.RegsWf) (l cause : Nat) : (s.linkFlagsDown l cause).RegsWf :=
  State.regsWf_setF (State.regsWf_setReg (State.regsWf_setF (State.regsWf_setF (State.regsWf_setF
    (State.regsWf_setF h _ _ _ _) _ _ _ _) _ _ _ _) _ _ _ _) _ _ _ _) _ _ _ _

/-- A register at another address has another key. -/
theorem keyAddr_regKey_ne {a b i j : Nat} (hi : i < 0x4000) (hj : j < 0x8000) (h : b ≠ a) : ¬ keyAddr (regKey b i j) = a := by
  rwa [keyAddr_regKey hi hj]

section
variable {s : State} {l cause : Nat} {K : Nat → Prop}

/-- The registers a falling link writes after those of `linkFlagsDown`. -/
theorem State.linkDropped_tail (hk : ∀ k, k < 32 → ¬ K (regKey A.QLK_IMPORT l k))
    (ha : ∀ a ∈ [A.QLK_TXCTR_LO, A.QLK_TXCTR_HI, hdrAddr .qlk 0x0C, hdrAddr .qlk 0x10], ¬ K (regKey a l 0)) :
    RegsSame K (s.linkFlagsDown l cause) (s.linkDropped l cause) := by
  simp only [List.mem_cons, List.not_mem_nil, or_false, forall_eq_or_imp, forall_eq] at ha
  obtain ⟨lo, hi, unit, err⟩ := ha
  have imports : RegsSame K (s.linkFlagsDown l cause) ((s.linkFlagsDown l cause).importsCleared l 32) :=
    (RegsSame.refl _).foldl fun t k hm => (RegsSame.refl t).setReg (hk k (List.mem_range.1 hm))
  have regs : RegsSame K (s.linkFlagsDown l cause) (s.linkRegsDown l cause) := imports.setPair lo hi
  have emptied := regs.of_regs (State.linkEmptied_regs _ l (s.qlink l))
  exact ((emptied.setUnit unit).err rfl err).of_regs (State.forgetPeer_regs _ l)

/-- Every register that a falling link writes is the link's own copy (R378). -/
theorem State.linkDropped_same_inst (hl : l < 64) : RegsSame (fun k => keyInst k ≠ l) s (s.linkDropped l cause) := by
  have mine : ∀ a j, j < 0x8000 → ¬ keyInst (regKey a l j) ≠ l := fun a j hj => not_not.2 (keyInst_regKey (by omega) hj)
  have flags : RegsSame (fun k => keyInst k ≠ l) s (s.linkFlagsDown l cause) :=
    ((((((RegsSame.refl s).setF (mine _ _ (by omega))).setF (mine _ _ (by omega))).setF (mine _ _ (by omega))).setFlag
      (mine _ _ (by omega))).setReg (mine _ _ (by omega))).setFlag (mine _ _ (by omega))
  exact flags.trans (State.linkDropped_tail (fun k hk => mine _ _ (by omega)) fun a _ => mine a 0 (by omega))

/-- A register that only `linkFlagsDown` writes reads what that left. -/
theorem State.linkDropped_tail_at (hl : l < 64) {a : Nat}
    (ha : a ∉ [A.QLK_IMPORT, A.QLK_TXCTR_LO, A.QLK_TXCTR_HI, hdrAddr .qlk 0x0C, hdrAddr .qlk 0x10]) :
    RegsSame (fun k => keyAddr k = a) (s.linkFlagsDown l cause) (s.linkDropped l cause) :=
  State.linkDropped_tail
    (fun k hk => keyAddr_regKey_ne (by omega) (by omega) fun e => ha (by simp [e]))
    fun b hb => keyAddr_regKey_ne (by omega) (by omega) fun e => ha (e ▸ List.mem_cons_of_mem _ hb)

theorem State.linkDropped_linkState (h : s.RegsWf) (hl : l < 64) : (s.linkDropped l cause).linkState l = 0 := by
  have other : ∀ a, a ≠ A.QLK_STATE → ¬ keyAddr (regKey a l 0) = A.QLK_STATE :=
    fun a ha => keyAddr_regKey_ne (by omega) (by omega) ha
  have later : RegsSame (fun k => keyAddr k = A.QLK_STATE) ((s.setF F.QLK_STATE_STATE 0 l).setF F.QLK_STATE_WIDTH 0 l)
      (s.linkFlagsDown l cause) :=
    ((((RegsSame.refl _).setF (other _ (by decide))).setFlag (other _ (by decide))).setReg (other _ (by decide))).setFlag
      (other _ (by decide))
  rw [State.linkState, (later.trans (State.linkDropped_tail_at hl (by decide))).getF (keyAddr_regKey (by omega) (by omega)),
    State.getF_setF_apart (f := F.QLK_STATE_WIDTH) (g := F.QLK_STATE_STATE) (State.regsWf_setF h _ _ _ _)
      ⟨by decide, by decide⟩ ⟨by decide, by decide⟩ rfl (.inr (by decide)),
    State.getF_setF_same h ⟨by decide, by decide⟩]
  rfl

theorem State.linkDropped_cause (h : s.RegsWf) (hl : l < 64) (hc : cause < 16) :
    (s.linkDropped l cause).getF F.QLK_DOWN_CAUSE_CAUSE l = cause := by
  have other : ∀ a, a ≠ A.QLK_DOWN_CAUSE → ¬ keyAddr (regKey a l 0) = A.QLK_DOWN_CAUSE :=
    fun a ha => keyAddr_regKey_ne (by omega) (by omega) ha
  have later : RegsSame (fun k => keyAddr k = A.QLK_DOWN_CAUSE)
      (((s.setF F.QLK_STATE_STATE 0 l).setF F.QLK_STATE_WIDTH 0 l).setF F.QLK_DOWN_CAUSE_CAUSE cause l) (s.linkFlagsDown l cause) :=
    (((RegsSame.refl _).setFlag (other _ (by decide))).setReg (other _ (by decide))).setFlag (other _ (by decide))
  rw [(later.trans (State.linkDropped_tail_at hl (by decide))).getF (keyAddr_regKey (by omega) (by omega)),
    State.getF_setF_same (State.regsWf_setF (State.regsWf_setF h _ _ _ _) _ _ _ _) ⟨by decide, by decide⟩]
  exact Nat.mod_eq_of_lt hc

theorem State.linkDropped_keystat (h : s.RegsWf) (hl : l < 64) : (s.linkDropped l cause).reg A.QLK_KEYSTAT l = 0#32 := by
  let t := (((s.setF F.QLK_STATE_STATE 0 l).setF F.QLK_STATE_WIDTH 0 l).setF F.QLK_DOWN_CAUSE_CAUSE cause l).setFlag
    F.QLK_CTRL_TRAIN false l
  have wf : t.RegsWf := State.regsWf_setF (State.regsWf_setF (State.regsWf_setF (State.regsWf_setF h _ _ _ _) _ _ _ _) _ _ _ _) _ _ _ _
  have later : RegsSame (fun k => keyAddr k = A.QLK_KEYSTAT) (t.setReg A.QLK_KEYSTAT 0 l) (s.linkFlagsDown l cause) :=
    (RegsSame.refl _).setFlag (keyAddr_regKey_ne (by omega) (by omega) (by decide))
  rw [(later.trans (State.linkDropped_tail_at hl (by decide))).reg (keyAddr_regKey (by omega) (by omega)),
    State.reg_setReg_same wf]
  rfl

theorem State.regsWf_linkRegsDown (h : s.RegsWf) : (s.linkRegsDown l cause).RegsWf :=
  State.regsWf_setReg (State.regsWf_setReg (State.regsWf_importsCleared (State.regsWf_linkFlagsDown h l cause) l 32) _ _ _ _) _ _ _ _

theorem State.linkDropped_import (h : s.RegsWf) (hl : l < 64) {e : Nat} (he : e < 32) :
    (s.linkDropped l cause).reg A.QLK_IMPORT l e = 0#32 := by
  have other : ∀ a, a ≠ A.QLK_IMPORT → ¬ keyAddr (regKey a l 0) = A.QLK_IMPORT :=
    fun a ha => keyAddr_regKey_ne (by omega) (by omega) ha
  have counter : RegsSame (fun k => keyAddr k = A.QLK_IMPORT) ((s.linkFlagsDown l cause).importsCleared l 32)
      (s.linkRegsDown l cause) := (RegsSame.refl _).setPair (other _ (by decide)) (other _ (by decide))
  have later : RegsSame (fun k => keyAddr k = A.QLK_IMPORT) ((s.linkFlagsDown l cause).importsCleared l 32)
      (s.linkDropped l cause) :=
    (((counter.of_regs (State.linkEmptied_regs _ l (s.qlink l))).setUnit (other _ (by decide))).err rfl
      (other _ (by decide))).of_regs (State.forgetPeer_regs _ l)
  rw [later.reg (keyAddr_regKey (by omega) (by omega)),
    State.reg_importsCleared (State.regsWf_linkFlagsDown h l cause) l he le_rfl]

theorem State.unit_setUnit {t : State} (h : t.RegsWf) (b : Blk) (i st : Nat) : (t.setUnit b i st).unit b i = st % 16 := by
  have field := State.getF_setF_same (f := hdrF b 0x0C 31 28) h ⟨by simp [hdrF], by simp [hdrF]⟩ st i 0
  simpa [State.unit, State.setUnit, State.getF, State.reg, Fld.width, hdrF] using field

theorem State.linkDropped_unit (h : s.RegsWf) (hl : l < 64) : (s.linkDropped l cause).unit .qlk l = 1 := by
  have other : ¬ keyAddr (regKey (hdrAddr .qlk 0x10) l 0) = hdrAddr .qlk 0x0C :=
    keyAddr_regKey_ne (by omega) (by omega) (by decide)
  have later : RegsSame (fun k => keyAddr k = hdrAddr .qlk 0x0C)
      (((s.linkRegsDown l cause).linkEmptied l (s.qlink l)).setUnit .qlk l 1) (s.linkDropped l cause) :=
    (RegsSame.err (K := fun k => keyAddr k = hdrAddr .qlk 0x0C) (RegsSame.refl _) rfl other).of_regs (State.forgetPeer_regs _ l)
  have wf : ((s.linkRegsDown l cause).linkEmptied l (s.qlink l)).RegsWf := by
    rw [State.RegsWf, State.linkEmptied_regs]
    exact State.regsWf_linkRegsDown h
  rw [State.unit, later.getF (keyAddr_regKey (by omega) (by omega))]
  exact State.unit_setUnit wf .qlk l 1

end

end Sys2Proof.Machine

/-! SUPPORT. The ways a link goes down (R24, R25, R359 to R361, R368, R375 to R378), and the obligation about them. -/

namespace Sys2Proof.Machine

/-! ## The links of a connector -/

theorem State.mem_connLinks {s : State} {conn l : Nat} (h : l ∈ s.connLinks conn) : l / 8 = conn ∧ l < 8 * conn + 8 := by
  obtain ⟨i, hi, rfl⟩ := List.mem_map.1 (List.mem_of_mem_filter h)
  have := List.mem_range.1 hi
  omega

theorem State.connLinks_nodup (s : State) (conn : Nat) : (s.connLinks conn).Nodup :=
  (List.nodup_range.map fun _ _ h => Nat.add_left_cancel h).filter _

/-- Links on which nothing waits go down one after the other, each with the cause. -/
theorem State.linkDown_foldl {cause : Nat} (hc : cause < 16) (ls : List Nat) (s : State) (hs : s.Canonical) (hh : s.lk.held = [])
    (hd : ls.Nodup) (hq : ∀ l ∈ ls, l < 64 ∧ (s.qlink l).sent = [] ∧ (s.qlink l).waiting = []) :
    let t := ls.foldl (fun u l => u.linkDown l cause) s
    t.mem = s.mem ∧ t.pw = s.pw ∧ (∀ l ∈ ls, t.linkState l = 0 ∧ t.getF F.QLK_DOWN_CAUSE_CAUSE l = cause)
      ∧ RegsSame (fun k => keyInst k ∉ ls) s t := by
  induction ls generalizing s with
  | nil => exact ⟨rfl, rfl, by simp, RegsSame.refl s⟩
  | cons l ls ih =>
    obtain ⟨hl, sent, waiting⟩ := hq l (by simp)
    obtain ⟨hnew, hd'⟩ := List.nodup_cons.1 hd
    obtain ⟨pw, -, mem, -, held, others⟩ := s.linkDropped_frame l cause
    have alone := State.linkDown_of_quiet (cause := cause) sent waiting hh
    have canon : (s.linkDropped l cause).Canonical := alone ▸ State.linkDown_keeps canonical_stable hs
    have quiet : ∀ k ∈ ls, k < 64 ∧ ((s.linkDropped l cause).qlink k).sent = [] ∧ ((s.linkDropped l cause).qlink k).waiting = [] := by
      intro k hk
      rw [others k fun e => hnew (e ▸ hk)]
      exact hq k (List.mem_cons_of_mem _ hk)
    obtain ⟨mem', pw', down, same⟩ := ih (s.linkDropped l cause) canon (held.trans hh) hd' quiet
    have kept : ∀ f : Fld, (ls.foldl (fun u l => u.linkDown l cause) (s.linkDropped l cause)).getF f l
        = (s.linkDropped l cause).getF f l :=
      fun f => same.getF (by rw [keyInst_regKey (by omega) (by omega)]; exact hnew)
    simp only [List.foldl_cons, alone]
    refine ⟨mem'.trans mem, pw'.trans pw, fun k hk => ?_, ?_⟩
    · rcases List.mem_cons.1 hk with rfl | hk
      · exact ⟨(kept _).trans (State.linkDropped_linkState hs.1 hl), (kept _).trans (State.linkDropped_cause hs.1 hl hc)⟩
      · exact down k hk
    · refine RegsSame.trans ((State.linkDropped_same_inst (cause := cause) hl).mono fun k hk e => hk (e ▸ List.mem_cons_self)) ?_
      exact same.mono fun k hk hm => hk (List.mem_cons_of_mem _ hm)

/-- The links of a connector that are training, keying or up go down with the cause, where nothing waits on them (R24, R25). -/
theorem State.connDown_quiet {s : State} {conn cause : Nat} (hs : s.Canonical) (hconn : conn < 8) (hc : cause < 16)
    (hh : s.lk.held = []) (hq : ∀ l, l / 8 = conn → (s.qlink l).sent = [] ∧ (s.qlink l).waiting = []) :
    (s.connDown conn cause).mem = s.mem ∧ (s.connDown conn cause).pw = s.pw
      ∧ ∀ l, l ∈ s.connLinks conn → 1 ≤ s.linkState l → s.linkState l ≤ 4 →
        (s.connDown conn cause).linkState l = 0 ∧ (s.connDown conn cause).getF F.QLK_DOWN_CAUSE_CAUSE l = cause := by
  unfold State.connDown
  extract_lets live t
  have only : RegsOnly s t := RegsOnly.foldl (fun u _ => (RegsOnly.refl u).setF) (RegsOnly.refl s)
  have canon : t.Canonical := keep_foldl (Q := State.Canonical) hs fun u _ hu => State.setF_keeps canonical_stable.toStable hu
  have quiet : ∀ l ∈ live, l < 64 ∧ (t.qlink l).sent = [] ∧ (t.qlink l).waiting = [] := by
    intro l hl
    obtain ⟨conn_eq, hlt⟩ := State.mem_connLinks (List.mem_of_mem_filter hl)
    obtain ⟨r, e⟩ := only
    rw [e]
    exact ⟨by omega, hq l conn_eq⟩
  have held : t.lk.held = [] := by
    obtain ⟨r, e⟩ := only
    rw [e]
    exact hh
  obtain ⟨mem, pw, down, -⟩ := State.linkDown_foldl hc live t canon held ((s.connLinks_nodup conn).filter _) quiet
  obtain ⟨r, e⟩ := only
  refine ⟨mem.trans (by rw [e]), pw.trans (by rw [e]), fun l hl h1 h4 => down l (List.mem_filter.2 ⟨hl, by simp [h1, h4]⟩)⟩

/-! ### Cables -/

/-- A change of a cable is seen in the pins and in registers (R25). -/
theorem State.setCable_frame (s : State) (conn : Nat) (c : Cable) :
    (s.setCable conn c).mem = s.mem ∧ (s.setCable conn c).dv = s.dv ∧ (s.setCable conn c).lk = s.lk
      ∧ (s.setCable conn c).pw.cables = smSet (fun _ => .absent) s.pw.cables conn c := by
  unfold State.setCable
  extract_lets p t
  obtain ⟨r, e⟩ : RegsOnly t ((s.connLinks conn).foldl (fun u l => u.setFlag F.QLK_STATE_CABLE (c != .absent) l) t) :=
    RegsOnly.foldl (fun u _ => (RegsOnly.refl u).setFlag) (RegsOnly.refl t)
  rw [e]
  exact ⟨rfl, rfl, rfl, rfl⟩

/-- A link's state is not its cable's. -/
theorem State.setCable_linkState {s : State} (hs : s.Canonical) (conn : Nat) (c : Cable) (l : Nat) :
    (s.setCable conn c).linkState l = s.linkState l := by
  have step : ∀ (u : State) (k : Nat) (b : Bool), u.Canonical → (u.setFlag F.QLK_STATE_CABLE b k).linkState l = u.linkState l := by
    intro u k b hu
    by_cases hkl : l = k
    · subst hkl
      exact State.getF_setF_apart (f := F.QLK_STATE_CABLE) (g := F.QLK_STATE_STATE) hu.1 ⟨by decide, by decide⟩
        ⟨by decide, by decide⟩ rfl (.inr (by decide)) _ _ _
    · exact State.getF_setF_ne _ (regKey_ne_inst hkl (by omega) (by omega))
  unfold State.setCable
  extract_lets p t
  have ht : t.Canonical := hs
  refine (keep_foldl (Q := fun u : State => u.Canonical ∧ u.linkState l = s.linkState l) ⟨ht, rfl⟩ fun u k hu => ?_).2
  exact ⟨State.setFlag_keeps canonical_stable.toStable hu.1, (step u k _ hu.1).trans hu.2⟩

/-- A change of a cable that takes the connector's links down, where nothing waits on them. -/
theorem State.setCable_connDown {s u : State} {conn cause : Nat} {c : Cable} (hs : s.Canonical) (hconn : conn < 8)
    (hcab : smSorted s.pw.cables = true) (hc : cause < 16) (hh : s.lk.held = [])
    (hq : ∀ l, l / 8 = conn → (s.qlink l).sent = [] ∧ (s.qlink l).waiting = [])
    (hu : ∃ unread, u = { s.setCable conn c with lk := { (s.setCable conn c).lk with unread := unread } }) :
    (u.connDown conn cause).cable conn = c ∧ (u.connDown conn cause).mem = s.mem
      ∧ ∀ l, l ∈ s.connLinks conn → 1 ≤ s.linkState l → s.linkState l ≤ 4 →
        (u.connDown conn cause).linkState l = 0 ∧ (u.connDown conn cause).getF F.QLK_DOWN_CAUSE_CAUSE l = cause := by
  obtain ⟨unread, rfl⟩ := hu
  obtain ⟨mem, dv, lk, cables⟩ := s.setCable_frame conn c
  have canon : (s.setCable conn c).Canonical := State.setCable_keeps canonical_stable.toStable hs
  have state := fun l => State.setCable_linkState hs conn c l
  generalize s.setCable conn c = t at mem dv lk cables canon state ⊢
  let u : State := { t with lk := { t.lk with unread := unread } }
  have links : ∀ l, u.qlink l = s.qlink l := fun l => by
    show smGet _ t.lk.links l = _
    rw [lk]; rfl
  have conns : u.connLinks conn = s.connLinks conn := by
    show List.filter _ _ = List.filter _ _
    congr 1
    funext l
    show (decide (l < Blk.insts .qlk) && !(t.dv.gradeC && _)) = _
    rw [dv]; rfl
  obtain ⟨umem, upw, down⟩ := State.connDown_quiet (s := u) (cause := cause) canon hconn hc (by
    show t.lk.held = []
    rw [lk]; exact hh) fun l hl => by rw [links]; exact hq l hl
  refine ⟨?_, umem.trans mem, fun l hl h1 h4 => ?_⟩
  · rw [State.cable, upw]
    show smGet _ t.pw.cables conn = c
    rw [cables, smGet_smSet_same hcab]
  · have same : u.linkState l = s.linkState l := state l
    exact down l (conns ▸ hl) (same ▸ h1) (same ▸ h4)


/-! ## Rows -/

/-- A served 4-byte write of one register is performed and answered (R37). -/
theorem State.writeCmd_of_putReg {s t : State} {r : Requester} {addr v : Nat} (hg : s.grants r addr) (ha : addr % 4 = 0)
    (hv : v < 2 ^ 32) (hp : s.putReg r addr v = (0, t)) : s.writeCmd r addr 4 v = .next (t.replied r 0) := by
  obtain ⟨gate, unlocked⟩ := hg
  have one : regsOf addr 4 = [addr] := by simp [regsOf, Nat.div_mul_cancel (Nat.dvd_of_mod_eq_zero ha)]
  have all : s.putAll r [addr] v = (0, t) := by
    rw [State.putAll, Nat.mod_eq_of_lt hv]
    simp [unlocked, hp, State.putAll, St.ok]
  simp [State.writeCmd, State.regWrite, gate, one, all, done, State.replied]

/-- What a Trowel core's write of `QLK_CTRL` does to the link shown (R358). -/
theorem State.putReg_qlkCtrl {s : State} {k l v : Nat} (hl : s.instOf .qlk (A.QLK_CTRL / 0x1000) (.trowel k) = some l) :
    s.putReg (.trowel k) A.QLK_CTRL v = (0, if nbit v 31 then (s.linkDisable l (nbit v 30)).linkTrain l
      else s.linkDisable l (nbit v 30)) := by
  have blk : blkOfPage (A.QLK_CTRL / 0x1000) = some .qlk := by decide
  have row : rowOf A.QLK_CTRL = some ⟨A.QLK_CTRL, 1, .inst, 0, 0x40000000, 0, 0x80000000, 0, 0, 0xc0000000, 0⟩ := by decide
  have page : (A.QLK_CTRL / 0x1000 = 0x153) = False := by decide
  have may : mayWrite (.trowel k) (A.QLK_CTRL / 0x1000) = true := rfl
  have a : ∀ n x, s.writeA true A.QLK_CTRL n x v = none := by
    intro n x
    simp +decide only [State.writeA, if_false]
  have b : ∀ n x, s.writeB_ (.trowel k) true A.QLK_CTRL n x v = none := by
    intro n x
    simp +decide only [State.writeB_, if_false]
  have c : ∀ x j, s.writeC true A.QLK_CTRL x j v = none := by
    intro x j
    simp +decide only [State.writeC, if_false]
  have d : ∀ n x, s.writeD true A.QLK_CTRL n x v = none := by
    intro n x
    simp +decide only [State.writeD, if_false]
  have e : ∀ x j, s.writeE true A.QLK_CTRL x j v = some (if nbit v 31 then (s.linkDisable x (nbit v 30)).linkTrain x
      else s.linkDisable x (nbit v 30)) := by
    intro x j
    simp +decide only [State.writeE, if_false, if_true]
  simp only [State.putReg, blk, row, hl]
  rw [if_neg (by decide), if_neg (by decide)]
  simp only [State.rowWrite, State.copyOf, fromTrowel, may, a, b, c, d, e, page]
  rfl

/-- R25: a cable that is there is removed, and the connector's links go down. -/
theorem exec_cableRemove {s : State} {conn : Nat} (h : s.cable conn ≠ .absent) : exec (.cableRemove conn) s =
    .next (State.connDown { s.setCable conn .absent with
      lk := { (s.setCable conn .absent).lk with unread := s.lk.unread.filter (· ≠ conn) } } conn 1) := by
  obtain ⟨-, -, lk, -⟩ := s.setCable_frame conn .absent
  show execCableRemove conn s = _
  rw [execCableRemove, if_neg h, ← show (s.setCable conn .absent).lk.unread = s.lk.unread by rw [lk]]
  rfl

/-- R24: the connector's supply trips, and its links go down. -/
theorem exec_cableSupplyTrip {s : State} {conn mA us : Nat} (h : s.cable conn = .powered) (hmA : 4800 < mA) (hus : 100 ≤ us) :
    exec (.cableSupplyTrip conn mA us) s = .next ((s.setCable conn .tripped).connDown conn 10) := by
  show execCableSupplyTrip conn mA us s = _
  simp [execCableSupplyTrip, h, hmA, hus, done]

/-- Settles O15: each row's guard holds, and a link that goes down alone is described by `linkDropped`. -/
theorem linksGoDown : Obligations.LinksGoDown := by
  refine ⟨?_, ?_, ?_, ?_, ?_, ?_, ?_, ?_, ?_, ?_, ?_, ?_, ?_⟩
  · intro s l ms hst hms
    show execTrainingTimeout l ms s = _
    simp [execTrainingTimeout, hst, hms, done]
  · intro s l ms hst hms
    show execKeyingTimeout l ms s = _
    simp [execKeyingTimeout, State.keyFail, hst, hms, done]
  · intro s l hre htries
    show execRetrainDone l false s = _
    simp [execRetrainDone, hre, show 3 ≤ (s.qlink l).retrains + 1 by omega, done]
  · intro s l lane ms hup hlane hms
    show execLaneDrop l lane ms false s = _
    simp [execLaneDrop, hup, show ¬ 4 ≤ lane by omega, show ¬ ms < 100 by omega, done]
  · intro s l us m ms htakes hwait hcred hus
    show execCreditTimeout l us s = _
    simp [execCreditTimeout, htakes, hwait, hcred, hus, done]
  · intro s l tid us m htakes hsent hus
    show execResponseTimeout l tid us s = _
    have outstanding : (s.qlink l).sent.any (fun e => e.1 = tid) = true := List.any_eq_true.2 ⟨(tid, m), hsent, by simp⟩
    simp [execResponseTimeout, htakes, outstanding, hus, done]
  · intro s l hup hcount
    show execCounterExhausted l s = _
    rw [execCounterExhausted, if_pos (by simpa [hup] using hcount)]
    rfl
  · intro s l n us hup hn hus
    show execTagFailureLimit l n us s = _
    simp [execTagFailureLimit, hup, hn, hus, done]
  · intro s k l hg hl hst
    show s.writeCmd (.trowel k) A.QLK_CTRL 4 (if true then 2 ^ 30 else 0) = _
    rw [if_pos rfl, State.writeCmd_of_putReg hg (by decide) (by decide) (State.putReg_qlkCtrl hl), show nbit (2 ^ 30) 31 = false by decide,
      show nbit (2 ^ 30) 30 = true by decide]
    simp [State.linkDisable, hst]
  · exact fun s conn hcab => exec_cableRemove hcab
  · exact fun s conn mA us hcab hmA hus => exec_cableSupplyTrip hcab hmA hus
  · intro s conn mA us hs hconn hcables hh hq
    exact ⟨fun hcab => ⟨_, exec_cableRemove hcab, State.setCable_connDown hs hconn hcables (by decide) hh hq ⟨_, rfl⟩⟩,
      fun hcab hmA hus => ⟨_, exec_cableSupplyTrip hcab hmA hus,
        State.setCable_connDown hs hconn hcables (by decide) hh hq ⟨_, rfl⟩⟩⟩
  · intro s l cause hs hl hc sent waiting hh
    obtain ⟨-, -, mem, synd, -, -⟩ := s.linkDropped_frame l cause
    rw [State.linkDown_of_quiet sent waiting hh]
    exact ⟨State.linkDropped_linkState hs.1 hl, State.linkDropped_cause hs.1 hl hc, State.linkDropped_unit hs.1 hl,
      State.linkDropped_keystat hs.1 hl, fun e he => State.linkDropped_import hs.1 hl he, mem, synd⟩

end Sys2Proof.Machine

/-! SUPPORT. What sending an interrupt or a firmware message leaves alone (R48, R341, R344): every register below the interrupt
vectors', and everything but memory, the registers and what waits to be sent. -/

namespace Sys2Proof.Machine

/-- Nothing differs but memory, the registers from the interrupt vectors on, and what waits to be sent or has been. -/
def SendsOnly (s t : State) : Prop :=
  (∃ r m y tr ln out, t = { s with regs := r, mem := m, synd := y, tr := tr, ln := ln, out := out })
    ∧ RegsSame (fun k => k < regKey A.LNT_IVEC 0 0) s t

theorem SendsOnly.refl (s : State) : SendsOnly s s := ⟨⟨_, _, _, _, _, _, rfl⟩, RegsSame.refl s⟩

theorem SendsOnly.trans {s t u : State} (h : SendsOnly s t) (h' : SendsOnly t u) : SendsOnly s u := by
  obtain ⟨⟨r, m, y, tr, ln, out, rfl⟩, same⟩ := h
  obtain ⟨⟨r', m', y', tr', ln', out', rfl⟩, same'⟩ := h'
  exact ⟨⟨r', m', y', tr', ln', out', rfl⟩, same.trans same'⟩

theorem SendsOnly.foldl {α : Type} {g : State → α → State} (hg : ∀ t x, SendsOnly t (g t x)) (l : List α) (s : State) :
    SendsOnly s (l.foldl g s) := by
  induction l generalizing s with
  | nil => exact SendsOnly.refl s
  | cons x l ih => exact (hg s x).trans (ih (g s x))

theorem SendsOnly.ite {s t u : State} {c : Prop} [Decidable c] (ht : SendsOnly s t) (hu : SendsOnly s u) :
    SendsOnly s (if c then t else u) := by
  split
  · exact ht
  · exact hu

theorem SendsOnly.pw {s t : State} (h : SendsOnly s t) : t.pw = s.pw := by
  obtain ⟨⟨r, m, y, tr, ln, out, rfl⟩, -⟩ := h
  rfl

theorem SendsOnly.kl {s t : State} (h : SendsOnly s t) : t.kl = s.kl := by
  obtain ⟨⟨r, m, y, tr, ln, out, rfl⟩, -⟩ := h
  rfl

/-- A register below the interrupt vectors' reads as before. -/
theorem SendsOnly.getF {s t : State} (h : SendsOnly s t) {f : Fld} {i j : Nat} (hf : f.addr < A.LNT_IVEC) (hi : i < 0x4000)
    (hj : j < 0x8000) : t.getF f i j = s.getF f i j :=
  h.2.getF (by unfold regKey; omega)

theorem RegsSame.sends {K : Nat → Prop} {s t u : State} (h : RegsSame K s t) (h' : SendsOnly t u)
    (hK : ∀ k, K k → keyAddr k < A.LNT_IVEC) : RegsSame K s u :=
  h.trans (h'.2.mono fun k hk => by
    have := hK k hk
    unfold keyAddr A.LNT_IVEC at this
    unfold regKey A.LNT_IVEC
    omega)

/-! ## The host links -/

theorem State.emit_sends (s : State) (o : Out) : SendsOnly s (s.emit o) :=
  ⟨⟨_, _, _, _, _, _, rfl⟩, RegsSame.of_regs (RegsSame.refl s) rfl⟩

theorem State.setLn_sends (s : State) (ln : Lintel) : SendsOnly s { s with ln := ln } :=
  ⟨⟨_, _, _, _, _, _, rfl⟩, RegsSame.of_regs (RegsSame.refl s) rfl⟩

theorem State.setHlink_sends (s : State) (l : Nat) (x : HLink) : SendsOnly s (s.setHlink l x) := by
  unfold State.setHlink
  split
  · exact s.setLn_sends _
  · exact s.setLn_sends _

theorem State.sendHost_sends (l n : Nat) (s : State) : SendsOnly s (s.sendHost l n) := by
  induction n generalizing s with
  | zero => exact SendsOnly.refl s
  | succ n ih =>
    unfold State.sendHost
    extract_lets x
    split
    · exact SendsOnly.refl s
    · split
      · refine (SendsOnly.trans ?_ (State.emit_sends _ _)).trans (ih _)
        exact (s.setHlink_sends _ _).trans (SendsOnly.foldl (fun t f => t.emit_sends _) _ _)
      · exact SendsOnly.refl s

theorem State.toHost_sends (s : State) (l : Nat) (o : Out) : SendsOnly s (s.toHost l o) :=
  (s.setHlink_sends _ _).trans (State.sendHost_sends _ _ _)

/-! ## Interrupts -/

theorem State.setPending_sends (s : State) (b : Bool) (src : Nat) : SendsOnly s (s.setFlag F.LNT_IVEC_PENDING b src) :=
  ⟨⟨_, _, _, _, _, _, rfl⟩, (RegsSame.refl s).setFlag (by simp only [regKey, F.LNT_IVEC_PENDING, A.LNT_IVEC]; omega)⟩

theorem State.deliver_sends (s : State) (src : Nat) : SendsOnly s (s.deliver src) := by
  unfold State.deliver
  split
  · exact SendsOnly.refl s
  · next l _ =>
    have sent := (s.setPending_sends false src).trans (State.toHost_sends _ l (.intr (s.getF F.LNT_IVEC_VECTOR src) src))
    exact .ite (.ite sent (sent.trans (State.setLn_sends _ _))) (SendsOnly.refl s)

theorem State.raise_sends (s : State) (src : Nat) : SendsOnly s (s.raise src) :=
  .ite ((s.setPending_sends true src).trans (State.deliver_sends _ src)) (SendsOnly.refl s)

/-! ## Memory and firmware messages -/

theorem State.setMem_sends (s : State) (m : List Host.Cell) (y : List (Nat × Byte)) :
    SendsOnly s { s with mem := m, synd := y } :=
  ⟨⟨_, _, _, _, _, _, rfl⟩, RegsSame.of_regs (RegsSame.refl s) rfl⟩

theorem State.correctWord_sends (s : State) (a : Nat) : SendsOnly s (s.correctWord a) := by
  unfold State.correctWord
  split
  · exact s.setMem_sends _ _
  · exact s.setMem_sends _ _
  · exact SendsOnly.refl s

theorem State.wr_sends (s : State) (a : Nat) (bs : List Byte) : SendsOnly s (s.wr a bs) := by
  unfold State.wr
  extract_lets n full bad s1 kept
  have words : SendsOnly s s1 :=
    SendsOnly.foldl (fun t w => .ite (t.setMem_sends _ _) (.ite (t.setMem_sends _ _) (t.correctWord_sends w))) _ s
  exact words.trans (s1.setMem_sends _ _)

theorem State.f2hPut_sends {s t : State} {c : Nat} {m : Msg} (h : s.f2hPut c m = some t) : SendsOnly s t := by
  unfold State.f2hPut at h
  extract_lets k base tail head at h
  split at h
  · cases h
    exact ((s.wr_sends _ _).trans (State.wr_sends _ _ _)).trans (State.raise_sends _ _)
  · cases h

theorem State.f2hFlush_sends (c n : Nat) (s : State) : SendsOnly s (s.f2hFlush c n) := by
  induction n generalizing s with
  | zero => exact SendsOnly.refl s
  | succ n ih =>
    unfold State.f2hFlush
    split
    · exact SendsOnly.refl s
    · split
      · split
        · next ht => exact ((State.f2hPut_sends ht).trans (State.setLn_sends _ _)).trans (ih _)
        · exact SendsOnly.refl s
      · exact SendsOnly.refl s

theorem State.f2h_sends (s : State) (c : Nat) (m : Msg) : SendsOnly s (s.f2h c m) := by
  unfold State.f2h
  extract_lets q ln s1 base s0
  have kept : SendsOnly s s0 := by
    refine .ite (s.setLn_sends _) (SendsOnly.trans ?_ (State.raise_sends _ _))
    exact .ite (s.setLn_sends _) ((s.setLn_sends _).trans (State.wr_sends _ _ _))
  exact kept.trans (State.f2hFlush_sends _ _ _)

theorem State.h2fDone_sends (s : State) (c : Nat) : SendsOnly s (s.h2fDone c) := by
  unfold State.h2fDone
  refine .ite (s.setLn_sends _) ?_
  exact .ite ((s.wr_sends _ _).trans (State.setLn_sends _ _)) (s.wr_sends _ _)

theorem State.h2fAnswer_sends (s : State) (c : Nat) (m : Msg) (st : Nat) (fs : List (Nat × Nat × Nat)) :
    SendsOnly s (s.h2fAnswer c m st fs) :=
  SendsOnly.trans (.ite (s.f2h_sends _ _) (SendsOnly.refl s)) (State.h2fDone_sends _ _)

end Sys2Proof.Machine

/-! SUPPORT. Clocks, clamps and the energy profile of Kiln (R488, R493, R500): what a die's clock is set to, what the updates leave
alone, and the obligation about clamps and requests. -/

namespace Sys2Proof.Machine

/-! ## Updates of Kiln's registers and record -/

/-- Nothing but registers and Kiln's record differs. -/
def KilnOnly (s t : State) : Prop := ∃ r k, t = { s with regs := r, kl := k }

theorem KilnOnly.eq {s t : State} (h : KilnOnly s t) : t = { s with regs := t.regs, kl := t.kl } := by
  obtain ⟨r, k, rfl⟩ := h
  rfl

theorem KilnOnly.trans {s t u : State} (h : KilnOnly s t) (h' : KilnOnly t u) : KilnOnly s u := by
  obtain ⟨r, k, rfl⟩ := h
  obtain ⟨r', k', rfl⟩ := h'
  exact ⟨r', k', rfl⟩

theorem KilnOnly.setKl {s t : State} (h : KilnOnly s t) (k : Kiln) : KilnOnly s { t with kl := k } := by
  obtain ⟨r, k', rfl⟩ := h
  exact ⟨r, k, rfl⟩

theorem RegsOnly.pw {s t : State} (h : RegsOnly s t) : t.pw = s.pw := by
  obtain ⟨r, rfl⟩ := h
  rfl

theorem ErrOnly.pw {s t : State} (h : ErrOnly s t) : t.pw = s.pw := by
  obtain ⟨r, tr, out, rfl⟩ := h
  rfl

theorem RegsSame.setKl {K : Nat → Prop} {s t : State} (h : RegsSame K s t) (k : Kiln) : RegsSame K s { t with kl := k } :=
  h.of_regs rfl

theorem RegsOnly.kilnOnly {s t : State} (h : RegsOnly s t) : KilnOnly s t := by
  obtain ⟨r, rfl⟩ := h
  exact ⟨r, _, rfl⟩

/-! ## The clock of a die -/

theorem lowestCeiling_cons (e : Nat × Nat) (cs : List (Nat × Nat)) : (lowestCeiling (e :: cs)).2 =
    if e.2 < 2000 ∧ e.2 ≤ (lowestCeiling cs).2 then e.2 else (lowestCeiling cs).2 := by
  simp only [lowestCeiling, Bool.and_eq_true, decide_eq_true_eq]
  split
  · rfl
  · rfl

theorem lowestCeiling_le_top (cs : List (Nat × Nat)) : (lowestCeiling cs).2 ≤ 2000 := by
  induction cs with
  | nil => exact le_rfl
  | cons e cs ih => rw [lowestCeiling_cons]; split <;> omega

/-- The lowest of some ceilings is no higher than any of them. -/
theorem lowestCeiling_le {cs : List (Nat × Nat)} {c m : Nat} (h : (c, m) ∈ cs) : (lowestCeiling cs).2 ≤ m := by
  induction cs with
  | nil => cases h
  | cons e cs ih =>
    have top := lowestCeiling_le_top cs
    rw [lowestCeiling_cons]
    rcases List.mem_cons.1 h with rfl | h
    · split <;> omega
    · have := ih h
      split <;> omega

theorem mem_clkAddrs {d : Nat} (h : d < 8) : (F.KLN_CLK_CUR_MHZ.nth d).addr ∈ clkAddrs :=
  List.mem_map.2 ⟨d, List.mem_range.2 h, rfl⟩

theorem State.setClock_only (s : State) (d : Nat) : RegsOnly s (s.setClock d) := (RegsOnly.refl s).setF.setF

theorem RegsSame.setClock {K : Nat → Prop} {s t : State} (h : RegsSame K s t) {d : Nat}
    (hk : ¬ K (regKey (F.KLN_CLK_CUR_MHZ.nth d).addr 0 0)) : RegsSame K s (t.setClock d) := (h.setF hk).setF hk

theorem State.setClocks_only (s : State) : RegsOnly s s.setClocks :=
  RegsOnly.foldl State.setClock_only (RegsOnly.refl s)

theorem RegsSame.setClocks {K : Nat → Prop} {s t : State} (h : RegsSame K s t)
    (hk : ∀ d, d < 8 → ¬ K (regKey (F.KLN_CLK_CUR_MHZ.nth d).addr 0 0)) : RegsSame K s t.setClocks :=
  h.foldl fun t d hd => (RegsSame.refl t).setClock (hk d (List.mem_range.1 hd))

/-- Only the clock registers are written when the clocks are set. -/
theorem RegsSame.setClocks_of_clkAddrs {K : Nat → Prop} {s t : State} (h : RegsSame K s t)
    (hk : ∀ k, K k → keyAddr k ∉ clkAddrs) : RegsSame K s t.setClocks :=
  h.setClocks fun d hd hK => hk _ hK (by
    rw [keyAddr_regKey (by omega) (by omega)]
    exact mem_clkAddrs hd)

/-- A die's clock is no higher than its lowest ceiling (R488). -/
theorem State.setClock_cur_le_lowest {s : State} (h : s.RegsWf) (d : Nat) :
    (s.setClock d).getF (F.KLN_CLK_CUR_MHZ.nth d) ≤ (lowestCeiling (s.ceilings d)).2 := by
  have fits : (F.KLN_CLK_CUR_MHZ.nth d).Fits := ⟨by simp [Fld.nth, F.KLN_CLK_CUR_MHZ], by simp [Fld.nth, F.KLN_CLK_CUR_MHZ]⟩
  have fits' : (F.KLN_CLK_LIMITER.nth d).Fits := ⟨by simp [Fld.nth, F.KLN_CLK_LIMITER], by simp [Fld.nth, F.KLN_CLK_LIMITER]⟩
  unfold State.setClock
  extract_lets low
  rw [State.getF_setF_apart (f := F.KLN_CLK_LIMITER.nth d) (g := F.KLN_CLK_CUR_MHZ.nth d) (State.regsWf_setF h _ _ _ _) fits' fits rfl
    (.inl (by simp [Fld.nth, F.KLN_CLK_CUR_MHZ, F.KLN_CLK_LIMITER])), State.getF_setF_same h fits]
  exact (Nat.mod_le _ _).trans (Nat.div_mul_le_self _ _)

theorem State.setClock_cur_le {s : State} (h : s.RegsWf) {d c m : Nat} (hm : (c, m) ∈ s.ceilings d) :
    (s.setClock d).getF (F.KLN_CLK_CUR_MHZ.nth d) ≤ m :=
  (State.setClock_cur_le_lowest h d).trans (lowestCeiling_le hm)

/-- What one step of a fold establishes and the others keep holds after the fold. -/
theorem foldl_establishes {α β : Type} {I P : β → Prop} {g : β → α → β} {x : α} {l : List α} {s : β}
    (hI : ∀ u y, I u → I (g u y)) (hx : ∀ u, I u → P (g u x)) (hy : ∀ u y, y ≠ x → I u → P u → P (g u y)) (hs : I s)
    (h : x ∈ l ∨ P s) : P (l.foldl g s) := by
  induction l generalizing s with
  | nil => simpa using h
  | cons y l ih =>
    refine ih (hI s y hs) ?_
    by_cases hyx : y = x
    · exact .inr (hyx ▸ hx s hs)
    · rcases h with h | h
      · exact .inl (List.mem_of_ne_of_mem (Ne.symm hyx) h)
      · exact .inr (hy s y hyx hs h)

/-- While the power clamp acts, every die runs at 1.00 GHz or less (R493). -/
theorem State.setClocks_cur_le_of_powerClamp {s : State} (hs : s.RegsWf) (hc : s.bit F.KLN_CLAMP_ACTIVE powerRegion = true) {d : Nat}
    (hd : d < 8) : s.setClocks.getF (F.KLN_CLK_CUR_MHZ.nth d) ≤ 1000 := by
  have clamped : ∀ u : State, u.bit F.KLN_CLAMP_ACTIVE powerRegion = true → (5, 1000) ∈ u.ceilings d := by
    intro u hu
    have : u.dieClamped d = true := by simp [State.dieClamped, hu]
    simp [State.ceilings, this]
  have clampApart : ∀ y, regKey (F.KLN_CLK_CUR_MHZ.nth y).addr 0 0 ≠ regKey F.KLN_CLAMP_ACTIVE.addr 0 0 := by
    intro y
    simp only [regKey, Fld.nth, F.KLN_CLK_CUR_MHZ, F.KLN_CLAMP_ACTIVE]
    omega
  have clkApart : ∀ y, y ≠ d → regKey (F.KLN_CLK_CUR_MHZ.nth y).addr 0 0 ≠ regKey (F.KLN_CLK_CUR_MHZ.nth d).addr 0 0 := by
    intro y hy
    simp only [regKey, Fld.nth, F.KLN_CLK_CUR_MHZ]
    omega
  refine foldl_establishes (I := fun u : State => u.RegsWf ∧ u.bit F.KLN_CLAMP_ACTIVE powerRegion = true)
    (P := fun u => u.getF (F.KLN_CLK_CUR_MHZ.nth d) ≤ 1000) (x := d) ?_ ?_ ?_ ⟨hs, hc⟩ (.inl (List.mem_range.2 hd))
  · rintro u y ⟨hu, hb⟩
    have same : RegsSame (fun k => k = regKey F.KLN_CLAMP_ACTIVE.addr 0 0) u (u.setClock y) :=
      (RegsSame.refl u).setClock (clampApart y)
    exact ⟨State.regsWf_setF (State.regsWf_setF hu _ _ _ _) _ _ _ _, (same.bit rfl).trans hb⟩
  · rintro u ⟨hu, hb⟩
    exact State.setClock_cur_le hu (clamped u hb)
  · rintro u y hy - hP
    have same : RegsSame (fun k => k = regKey (F.KLN_CLK_CUR_MHZ.nth d).addr 0 0) u (u.setClock y) :=
      (RegsSame.refl u).setClock (clkApart y hy)
    exact (same.getF rfl).trans_le hP

/-! ## Clamps -/

theorem clampActive_fits : F.KLN_CLAMP_ACTIVE.Fits := ⟨by decide, by decide⟩

/-- The power clamp starts to act (R493): the host is told, and every die falls to 1.00 GHz or lower. -/
theorem State.clampOn_power {s : State} (hs : s.Canonical) (hoff : s.bit F.KLN_CLAMP_ACTIVE powerRegion = false) :
    (s.clampOn powerRegion).bit F.KLN_CLAMP_ACTIVE powerRegion = true ∧ (s.clampOn powerRegion).pw = s.pw
      ∧ ∀ d, d < 8 → (s.clampOn powerRegion).getF (F.KLN_CLK_CUR_MHZ.nth d) ≤ 1000 := by
  unfold State.clampOn
  rw [if_neg (by simp [hoff])]
  extract_lets s1
  have stable := canonical_stable.toStable
  have other : ∀ a, a ≠ A.KLN_CLAMP → ¬ keyAddr (regKey a 0 0) = A.KLN_CLAMP :=
    fun a ha => keyAddr_regKey_ne (by omega) (by omega) ha
  have told : RegsSame (fun k => keyAddr k = A.KLN_CLAMP) (s.setBit F.KLN_CLAMP_ACTIVE powerRegion true) s1 :=
    (((RegsSame.refl _).bump (other _ (by decide))).sends (State.raise_sends _ 291) fun k hk => by rw [hk]; decide).err rfl
      (other _ (by decide))
  have wf : s1.RegsWf := (State.err_keeps stable (State.raise_keeps stable (State.bump_keeps stable (State.setBit_keeps stable hs)))).1
  have on : s1.bit F.KLN_CLAMP_ACTIVE powerRegion = true := by
    rw [told.bit (keyAddr_regKey (by omega) (by omega)), State.bit_setBit hs.1 clampActive_fits (by decide), if_pos rfl]
  have pw : s1.pw = s.pw :=
    (State.err_only (b := .kln) (i := 0) _ 2 rfl).1.pw.trans ((State.raise_sends _ 291).pw.trans (by simp))
  have clocks : ∀ k : Kiln, (State.setClocks { s1 with kl := k }).bit F.KLN_CLAMP_ACTIVE powerRegion = true
      ∧ (State.setClocks { s1 with kl := k }).pw = s.pw
      ∧ ∀ d, d < 8 → (State.setClocks { s1 with kl := k }).getF (F.KLN_CLK_CUR_MHZ.nth d) ≤ 1000 := by
    intro k
    have same : RegsSame (fun k => keyAddr k = A.KLN_CLAMP) s1 (State.setClocks { s1 with kl := k }) :=
      ((RegsSame.refl s1).setKl k).setClocks_of_clkAddrs fun k hk => by rw [hk]; decide
    exact ⟨(same.bit (keyAddr_regKey (by omega) (by omega))).trans on, (State.setClocks_only _).pw.trans pw,
      fun d hd => State.setClocks_cur_le_of_powerClamp (s := { s1 with kl := k }) wf on hd⟩
  exact clocks _

/-- A clamp is released (R493): beyond its bit, only the clock registers are written. -/
theorem State.clampOff_frame (s : State) (r : Nat) :
    KilnOnly s (s.clampOff r)
      ∧ ∀ K, (∀ k, K k → keyAddr k ∉ clkAddrs) → RegsSame K (s.setBit F.KLN_CLAMP_ACTIVE r false) (s.clampOff r) := by
  unfold State.clampOff
  extract_lets s1
  have timed : KilnOnly s s1 ∧ s1.regs = (s.setBit F.KLN_CLAMP_ACTIVE r false).regs := by
    refine keep_foldl (Q := fun u : State => KilnOnly s u ∧ u.regs = (s.setBit F.KLN_CLAMP_ACTIVE r false).regs)
      ⟨(RegsOnly.refl s).setF.kilnOnly, rfl⟩ fun u d hu => ⟨hu.1.setKl _, hu.2⟩
  refine ⟨(timed.1.setKl _).trans (State.setClocks_only _).kilnOnly, fun K hK => ?_⟩
  exact (((RegsSame.refl _).of_regs timed.2).setKl _).setClocks_of_clkAddrs hK

/-- R493: the release of region `r`'s clamp, which leaves the others. -/
theorem State.clampOff_bit {s : State} (hs : s.RegsWf) (r : Nat) {k : Nat} (hk : k < 29) :
    (s.clampOff r).bit F.KLN_CLAMP_ACTIVE k = if k = r then false else s.bit F.KLN_CLAMP_ACTIVE k := by
  have same := (s.clampOff_frame r).2 (fun x => keyAddr x = A.KLN_CLAMP) fun x hx => by rw [hx]; decide
  rw [same.bit (keyAddr_regKey (by omega) (by omega)), State.bit_setBit hs clampActive_fits hk]

theorem State.clampOff_regsBut (s : State) (r : Nat) : RegsBut (A.KLN_CLAMP :: clkAddrs) s (s.clampOff r) := by
  have bit : RegsSame (fun k => keyAddr k ∉ A.KLN_CLAMP :: clkAddrs) s (s.setBit F.KLN_CLAMP_ACTIVE r false) :=
    (RegsSame.refl s).setBit (by rw [keyAddr_regKey (by omega) (by omega)]; decide)
  exact bit.trans ((s.clampOff_frame r).2 _ fun k hk hm => hk (List.mem_cons_of_mem _ hm))

/-! ## Rows -/

/-- A value that is not the default is read back, whether or not the map is sorted. -/
theorem smGet_smSet_of_ne {α : Type} [DecidableEq α] {d : Nat → α} (m : List (Nat × α)) {k : Nat} {v : α} (h : v ≠ d k) :
    smGet d (smSet d m k v) k = v := by
  rw [smSet, if_neg h, smGet_smPut_same]

/-- The state of Kiln after a step of a die's ramp to `m` MHz, at `now` (R493). -/
def Kiln.ramped (k : Kiln) (d m now : Nat) : Kiln :=
  { k with ramp := smSet (fun _ => 0) k.ramp d m, since := smSet (fun _ => 0) k.since (8 * (32 + d) + 5) (now + 1) }

/-- The state of Kiln after the last step of a die's ramp. -/
def Kiln.rampOver (k : Kiln) (d : Nat) : Kiln := { k with ramp := smSet (fun _ => 0) k.ramp d 0 }

/-- R493: a clock that rises after a release takes a step, the last one where another ceiling is reached. -/
theorem exec_clockRampStep {s : State} {d now : Nat} (hm : smGet (fun _ => 0) s.kl.ramp d ≠ 0)
    (hheld : (s.at now).heldFor (32 + d) 5 100000 = true) : exec (.clockRampStep d now) s = .next (
      if (lowestCeiling (State.ceilings { s.at now with kl := s.kl.rampOver d } d)).2 ≤ smGet (fun _ => 0) s.kl.ramp d + 100 then
        State.setClock { s.at now with kl := s.kl.rampOver d } d
      else State.setClock { s.at now with kl := s.kl.ramped d (smGet (fun _ => 0) s.kl.ramp d + 100) (s.at now).now } d) := by
  show execClockRampStep d now s = _
  have guard : (decide (smGet (fun _ => 0) (s.at now).kl.ramp d = 0) || !(s.at now).heldFor (32 + d) 5 100000) = false := by
    rw [hheld, decide_eq_false (show ¬ smGet (fun _ => 0) (s.at now).kl.ramp d = 0 from hm)]
    rfl
  rw [execClockRampStep, guard]
  rfl

/-- The clock of a die that its ramp limits lies at or below the ramp (R488, R493). -/
theorem State.setClock_cur_le_of_ramp {s : State} (hs : s.RegsWf) {d m : Nat} (hm : smGet (fun _ => 0) s.kl.ramp d = m) (h0 : m ≠ 0)
    (hfree : s.dieClamped d = false) : (s.setClock d).getF (F.KLN_CLK_CUR_MHZ.nth d) ≤ m := by
  refine State.setClock_cur_le (c := 5) hs ?_
  obtain ⟨n, rfl⟩ := Nat.exists_eq_succ_of_ne_zero h0
  simp [State.ceilings, hfree, hm]

/-- R493: a step of a ramp raises the clock of its die by 100 MHz at most, and writes no other register. -/
theorem clockRampStep_limits {s : State} (hs : s.RegsWf) {d now : Nat} (hm : smGet (fun _ => 0) s.kl.ramp d ≠ 0)
    (hfree : s.dieClamped d = false) (hheld : (s.at now).heldFor (32 + d) 5 100000 = true) :
    ∃ t, exec (.clockRampStep d now) s = .next t ∧ t.getF (F.KLN_CLK_CUR_MHZ.nth d) ≤ smGet (fun _ => 0) s.kl.ramp d + 100
      ∧ RegsKeep [regKey (F.KLN_CLK_CUR_MHZ.nth d).addr 0 0] s t ∧ t = { s.at now with regs := t.regs, kl := t.kl } := by
  have wf : ∀ k : Kiln, State.RegsWf { s.at now with kl := k } := fun k => hs
  have at_regs : ∀ k : Kiln, State.regs { s.at now with kl := k } = s.regs := fun k => rfl
  have stepped : ∀ k : Kiln, RegsKeep [regKey (F.KLN_CLK_CUR_MHZ.nth d).addr 0 0] s (State.setClock { s.at now with kl := k } d)
      ∧ KilnOnly (s.at now) (State.setClock { s.at now with kl := k } d) := by
    intro k
    exact ⟨regsKeep_iff.2 (RegsSame.setClock (RegsSame.of_regs (RegsSame.refl s) (at_regs k)) (by simp)),
      ((RegsOnly.refl (s.at now)).kilnOnly.setKl k).trans (State.setClock_only _ d).kilnOnly⟩
  refine ⟨_, exec_clockRampStep hm hheld, ?_⟩
  split
  · next low =>
    obtain ⟨keep, only⟩ := stepped (s.kl.rampOver d)
    exact ⟨(State.setClock_cur_le_lowest (wf _) d).trans low, keep, only.eq⟩
  · obtain ⟨keep, only⟩ := stepped (s.kl.ramped d (smGet (fun _ => 0) s.kl.ramp d + 100) (s.at now).now)
    refine ⟨State.setClock_cur_le_of_ramp (m := smGet (fun _ => 0) s.kl.ramp d + 100) (wf _) ?_ (by omega) hfree, keep, only.eq⟩
    exact smGet_smSet_of_ne (d := fun _ => 0) (v := smGet (fun _ => 0) s.kl.ramp d + 100) _ (Nat.succ_ne_zero _)

/-! ## The energy profile (R500) -/

/-- The tokens of the window are shown, and the next window begins. -/
def State.epCounted (s : State) : State :=
  ({ s with kl := { s.kl with epTokens := 0 } } : State).setF F.KLN_EP_TOKENS_COUNT s.kl.epTokens

/-- The energy per token is shown too. -/
def State.epMeasured (s : State) (mJ : Nat) : State :=
  s.epCounted.setF F.KLN_EP_MEASURED_MJ (min (mJ / s.kl.epTokens) (2 ^ 32 - 1))

/-- The energy-profile ceiling is set, and the clocks follow. -/
def State.epCeiling (s : State) (mhz : Nat) : State := (s.setF F.KLN_EP_CEIL_MHZ mhz).setClocks

theorem exec_epWindowEnd {s : State} {mJ : Nat} (hon : s.flag F.KLN_EP_CTRL_EP_ENABLE = true) (hduty : s.dutyServed 3 = true) :
    exec (.epWindowEnd mJ) s = .next (
      let n := s.kl.epTokens
      let c := s.getF F.KLN_EP_CEIL_MHZ
      let floor := s.getF F.KLN_EP_FLOOR_FLOOR_MHZ
      let target := s.getF F.KLN_EP_TARGET_TARGET_MJ
      if n = 0 then s.epCounted
      else if target = 0 then s.epMeasured mJ
      else if target * n < mJ then (s.epMeasured mJ).epCeiling (if c ≤ floor then c else max floor (c - 50))
      else if mJ * 100 < 90 * target * n then (s.epMeasured mJ).epCeiling (min 2000 (c + 50))
      else s.epMeasured mJ) := by
  show execEpWindowEnd mJ s = _
  rw [execEpWindowEnd, hon, hduty]
  simp only [Bool.and_self, if_true]
  split
  · rfl
  · rfl

/-- `t` is the state after the tokens were shown, but for the other registers that the end of a window writes. -/
def EpWindow (s t : State) : Prop :=
  RegsOnly s.epCounted t ∧ RegsSame (fun k => keyAddr k ∉ [A.KLN_EP_MEASURED, A.KLN_EP_CEIL] ++ clkAddrs) s.epCounted t

theorem EpWindow.counted (s : State) : EpWindow s s.epCounted := ⟨RegsOnly.refl _, RegsSame.refl _⟩

theorem EpWindow.measured (s : State) (mJ : Nat) : EpWindow s (s.epMeasured mJ) :=
  ⟨(RegsOnly.refl _).setF, (RegsSame.refl _).setF (by rw [keyAddr_regKey (by omega) (by omega)]; decide)⟩

theorem EpWindow.ceiling {s t : State} (h : EpWindow s t) (mhz : Nat) : EpWindow s (t.epCeiling mhz) :=
  ⟨h.1.setF.trans (State.setClocks_only _),
    (h.2.setF (by rw [keyAddr_regKey (by omega) (by omega)]; decide)).setClocks_of_clkAddrs
      fun _ hk hm => hk (List.mem_append_right _ hm)⟩

/-- What every end of a window with the profile enabled leaves (R500). -/
theorem EpWindow.frame {s t : State} (hs : s.RegsWf) (h : EpWindow s t) :
    t.getF F.KLN_EP_TOKENS_COUNT = s.kl.epTokens % 2 ^ 32 ∧ t.kl.epTokens = 0
      ∧ RegsBut ([A.KLN_EP_TOKENS, A.KLN_EP_MEASURED, A.KLN_EP_CEIL] ++ clkAddrs) s t
      ∧ t = { s with regs := t.regs, kl := t.kl } := by
  obtain ⟨only, same⟩ := h
  have counted : RegsSame (fun k => keyAddr k ∉ [A.KLN_EP_TOKENS, A.KLN_EP_MEASURED, A.KLN_EP_CEIL] ++ clkAddrs) s s.epCounted :=
    ((RegsSame.refl s).setKl _).setF (by rw [keyAddr_regKey (by omega) (by omega)]; decide)
  refine ⟨?_, ?_, counted.trans (same.mono fun k hk hm => hk (List.mem_cons_of_mem _ hm)), ?_⟩
  · rw [same.getF (by rw [keyAddr_regKey (by omega) (by omega)]; decide)]
    exact State.getF_setF_same (s := { s with kl := { s.kl with epTokens := 0 } }) hs ⟨by decide, by decide⟩ _ _ _
  · obtain ⟨r, rfl⟩ := only
    rfl
  · exact ((((RegsOnly.refl s).kilnOnly.setKl _).trans (RegsOnly.refl _).setF.kilnOnly).trans only.kilnOnly).eq

theorem State.epCounted_ceil (s : State) : s.epCounted.getF F.KLN_EP_CEIL_MHZ = s.getF F.KLN_EP_CEIL_MHZ :=
  RegsSame.getF (K := fun k => keyAddr k = A.KLN_EP_CEIL)
    (((RegsSame.refl s).setKl _).setF (keyAddr_regKey_ne (by omega) (by omega) (by decide))) (keyAddr_regKey (by omega) (by omega))

theorem State.epCeiling_ceil {s : State} (hs : s.RegsWf) {mhz : Nat} (h : mhz < 4096) :
    (s.epCeiling mhz).getF F.KLN_EP_CEIL_MHZ = mhz := by
  have clocks : RegsSame (fun k => keyAddr k = A.KLN_EP_CEIL) (s.setF F.KLN_EP_CEIL_MHZ mhz) (s.epCeiling mhz) :=
    (RegsSame.refl _).setClocks_of_clkAddrs fun k hk => by rw [hk]; decide
  rw [clocks.getF (keyAddr_regKey (by omega) (by omega)), State.getF_setF_same hs ⟨by decide, by decide⟩]
  exact Nat.mod_eq_of_lt h

theorem State.regsWf_epMeasured {s : State} (hs : s.RegsWf) (mJ : Nat) : (s.epMeasured mJ).RegsWf :=
  State.regsWf_setF (State.regsWf_setF (s := { s with kl := { s.kl with epTokens := 0 } }) hs _ _ _ _) _ _ _ _

/-- R500: how the end of a window moves the energy-profile ceiling. -/
theorem epWindowEnd_ceil {s : State} (hs : s.RegsWf) {mJ : Nat} (hon : s.flag F.KLN_EP_CTRL_EP_ENABLE = true)
    (hduty : s.dutyServed 3 = true) :
    ∃ t, exec (.epWindowEnd mJ) s = .next t ∧ EpWindow s t
      ∧ (s.kl.epTokens = 0 → t.getF F.KLN_EP_CEIL_MHZ = s.getF F.KLN_EP_CEIL_MHZ)
      ∧ (s.kl.epTokens ≠ 0 → s.getF F.KLN_EP_TARGET_TARGET_MJ ≠ 0 →
          s.getF F.KLN_EP_TARGET_TARGET_MJ * s.kl.epTokens < mJ → s.getF F.KLN_EP_FLOOR_FLOOR_MHZ < s.getF F.KLN_EP_CEIL_MHZ →
        t.getF F.KLN_EP_CEIL_MHZ = max (s.getF F.KLN_EP_FLOOR_FLOOR_MHZ) (s.getF F.KLN_EP_CEIL_MHZ - 50))
      ∧ (s.kl.epTokens ≠ 0 → s.getF F.KLN_EP_TARGET_TARGET_MJ ≠ 0 →
          mJ * 100 < 90 * s.getF F.KLN_EP_TARGET_TARGET_MJ * s.kl.epTokens →
        t.getF F.KLN_EP_CEIL_MHZ = min 2000 (s.getF F.KLN_EP_CEIL_MHZ + 50)) := by
  have floor_lt : s.getF F.KLN_EP_FLOOR_FLOOR_MHZ < 4096 := State.getF_lt ..
  have ceil_lt : s.getF F.KLN_EP_CEIL_MHZ < 4096 := State.getF_lt ..
  have lowered : max (s.getF F.KLN_EP_FLOOR_FLOOR_MHZ) (s.getF F.KLN_EP_CEIL_MHZ - 50) < 4096 := by omega
  have raised : min 2000 (s.getF F.KLN_EP_CEIL_MHZ + 50) < 4096 := by omega
  have wf := State.regsWf_epMeasured hs mJ
  have measured := EpWindow.measured s mJ
  refine ⟨_, exec_epWindowEnd hon hduty, ?_⟩
  dsimp only
  generalize s.getF F.KLN_EP_TARGET_TARGET_MJ = target
  split_ifs with hn htarget hover hlow hunder
  · exact ⟨.counted s, fun _ => s.epCounted_ceil, fun h => absurd hn h, fun h => absurd hn h⟩
  · exact ⟨measured, fun h => absurd h hn, fun _ h => absurd htarget h, fun _ h => absurd htarget h⟩
  · exact ⟨measured.ceiling _, fun h => absurd h hn, fun _ _ _ h => absurd hlow (by omega), fun _ _ h => by nlinarith⟩
  · exact ⟨measured.ceiling _, fun h => absurd h hn, fun _ _ _ _ => State.epCeiling_ceil wf lowered, fun _ _ h => by nlinarith⟩
  · exact ⟨measured.ceiling _, fun h => absurd h hn, fun _ _ h => absurd h hover, fun _ _ _ => State.epCeiling_ceil wf raised⟩
  · exact ⟨measured, fun h => absurd h hn, fun _ _ h => absurd h hover, fun _ _ h => absurd h hunder⟩

/-! ## Requests to the host (R490) -/

theorem leNat_lt (bs : List Byte) : leNat bs < 256 ^ bs.length := by
  induction bs with
  | nil => simp [leNat]
  | cons b bs ih =>
    have : b.toNat < 256 := b.isLt
    rw [leNat, List.length_cons, pow_succ]
    omega

theorem fieldB_lt (bs : List Byte) (off n : Nat) : fieldB bs off n < 256 ^ n := by
  simpa [fieldB, sliceB] using leNat_lt (sliceB bs off n)

/-- R490: a request takes the next number, and is sent once. -/
theorem exec_throttleReq {s : State} {r amount now : Nat} (hr : r ∈ s.kl.asked) (hduty : s.dutyServed 3 = true) :
    ∃ t, exec (.throttleReq r amount now) s = .next t
      ∧ SendsOnly { (s.at now).setF F.KLN_REQ_NUMBER ((s.getF F.KLN_REQ_NUMBER + 1) % 65536) with
        kl := { s.kl with asked := s.kl.asked.filter (· ≠ r) } } t := by
  have allowed : ((s.at now).kl.asked.contains r && (s.at now).dutyServed 3) = true := by
    rw [show (s.at now).kl.asked.contains r = true from List.contains_iff_mem.2 hr]
    exact hduty
  have go : ∃ m, exec (.throttleReq r amount now) s = .next (((s.at now).partsNamed r).foldl (fun t p => t.f2h (p + 1) m)
      (State.f2h { (s.at now).setF F.KLN_REQ_NUMBER ((s.getF F.KLN_REQ_NUMBER + 1) % 65536) with
        kl := { s.kl with asked := s.kl.asked.filter (· ≠ r) } } 0 m)) := by
    apply Exists.intro
    show execThrottleReq r amount now s = _
    rw [execThrottleReq]
    dsimp only
    rw [if_pos allowed]
    rfl
  obtain ⟨m, go⟩ := go
  exact ⟨_, go, (State.f2h_sends _ 0 m).trans (SendsOnly.foldl (fun t p => t.f2h_sends _ m) _ _)⟩

/-- R490: an answer records the number it names. -/
theorem exec_throttleAck {s : State} {chan : Nat} {m : Msg} (hm : s.h2fPeek chan = some m) (htype : fieldB m 0 2 = 0x0011)
    (hduty : s.dutyServed 6 = true) :
    exec (.throttleAck chan) s = .next ((s.raiseMax F.KLN_ACKED_NUMBER (fieldB m 16 2)).h2fAnswer chan m 0 []) := by
  show execThrottleAck chan s = _
  simp only [execThrottleAck, hm, htype, hduty, decide_true, Bool.and_self, if_true]
  rfl

/-! ## The input power and the clamps (R20, R492, R493) -/

/-- The state at a sample of the input power, before it sets the power clamp. -/
def State.powerSampled (s : State) (w1ms vin flow tInlet now : Nat) : State :=
  let s1 := (s.at now).senseInput vin flow tInlet
  (s1.setPw { s1.pw with pin := min (w1ms / 2) 4095 }).note powerRegion 3 (w1ms < 6200)

theorem exec_inputPowerSample {s : State} {w1us w1ms vin flow tInlet now : Nat} (hen : s.pw.pwrEn = true) (hvin : 1500 ≤ vin)
    (hup : s.railsUp = true) (hw : 6500 < w1us) :
    exec (.inputPowerSample w1us w1ms vin flow tInlet now) s = .next ((s.powerSampled w1ms vin flow tInlet now).clampOn powerRegion) := by
  show execInputPowerSample w1us w1ms vin flow tInlet now s = _
  rw [execInputPowerSample, if_pos (by rw [hen, decide_eq_true hvin]; rfl)]
  extract_lets s1 s2
  rw [if_pos (by rw [hup, decide_eq_true hw]; rfl)]
  rfl

theorem exec_clampRelease {s : State} {r now : Nat} (hon : s.bit F.KLN_CLAMP_ACTIVE r = true)
    (hcalm : if r = 28 then (s.at now).heldFor 28 3 1000000 = true
      else s.readingAtMost r (clampAt r - 20) = true ∧ (s.at now).heldFor r 3 10000000 = true) :
    exec (.clampRelease r now) s = .next ((s.at now).clampOff r) := by
  show execClampRelease r now s = _
  have calm : (if r = powerRegion then (s.at now).heldFor powerRegion 3 1000000
      else (s.at now).readingAtMost r (clampAt r - 20) && (s.at now).heldFor r 3 10000000) = true := by
    unfold powerRegion
    split_ifs at hcalm ⊢ with hr
    · exact hcalm
    · obtain ⟨cool, held⟩ := hcalm
      rw [held, Bool.and_true]
      exact cool
  rw [execClampRelease]
  rw [calm, Bool.and_true, if_pos (show (s.at now).bit F.KLN_CLAMP_ACTIVE r = true from hon)]
  rfl

/-- Settles O7: the clamps by what `clampOn` and `clampOff` do to the clamp register and the clocks, the requests by what sending
leaves alone, the profile by the registers its window writes. -/
theorem clampsAndRequests : Obligations.ClampsAndRequests := by
  intro s hs
  refine ⟨?_, ?_, ?_, ?_, ?_, ?_⟩
  · intro w1us w1ms vin flow tInlet now hen hvin hup hw hoff
    have canon : (s.powerSampled w1ms vin flow tInlet now).Canonical := hs
    obtain ⟨on, pw, clocks⟩ := State.clampOn_power canon hoff
    exact ⟨_, exec_inputPowerSample hen hvin hup hw, on, congrArg Power.pin pw, clocks⟩
  · intro r now hr hon hcalm
    have wf : (s.at now).RegsWf := hs.1
    refine ⟨_, exec_clampRelease hon hcalm, ?_, fun k hk hkr => ?_, (s.at now).clampOff_regsBut r, ((s.at now).clampOff_frame r).1.eq⟩
    · rw [State.clampOff_bit wf r hr, if_pos rfl]
    · rw [State.clampOff_bit wf r hk, if_neg hkr]
      rfl
  · intro d now _ hm hfree hheld
    exact clockRampStep_limits hs.1 hm hfree hheld
  · intro r amount now hr hduty
    obtain ⟨t, go, sends⟩ := exec_throttleReq (amount := amount) (now := now) hr hduty
    refine ⟨t, go, ?_, sends.kl⟩
    have wf : (s.at now).RegsWf := hs.1
    have unasked : RegsSame (fun _ => True) ((s.at now).setF F.KLN_REQ_NUMBER ((s.getF F.KLN_REQ_NUMBER + 1) % 65536)) _ :=
      (RegsSame.refl _).setKl { s.kl with asked := s.kl.asked.filter (· ≠ r) }
    rw [sends.getF (by decide) (by omega) (by omega), unasked.getF trivial, State.getF_setF_same wf ⟨by decide, by decide⟩]
    exact Nat.mod_mod _ _
  · intro chan m hm htype hduty
    have sends := State.h2fAnswer_sends (s.raiseMax F.KLN_ACKED_NUMBER (fieldB m 16 2)) chan m 0 []
    refine ⟨_, exec_throttleAck hm htype hduty, ?_, sends.kl.trans (by simp)⟩
    have named : fieldB m 16 2 < 65536 := fieldB_lt m 16 2
    have acked : s.getF F.KLN_ACKED_NUMBER < 65536 := State.getF_lt ..
    rw [sends.getF (by decide) (by omega) (by omega), State.raiseMax, State.getF_setF_same hs.1 ⟨by decide, by decide⟩,
      show F.KLN_ACKED_NUMBER.width = 16 from rfl]
    omega
  · intro mJ hon hduty
    obtain ⟨t, go, window, still, lower, raise⟩ := epWindowEnd_ceil hs.1 (mJ := mJ) hon hduty
    obtain ⟨shown, spent, but, frame⟩ := window.frame hs.1
    exact ⟨t, go, shown, spent, still, lower, raise, but, frame⟩

end Sys2Proof.Machine

/-! SUPPORT. The obligation about links that come up, refuted: it asks for canonical registers, but nothing of it says that the
link table is sorted. -/

namespace Sys2Proof.Machine

/-- Link 0 exchanges keys, and its entry stands twice in the link table: what removes the first shows the second. -/
def keyingTwice : State :=
  let s : State := State.setF {} F.QLK_STATE_STATE 2 0
  { s with lk := { s.lk with links := [(0, { peerHash := [1] }), (0, { peerHash := [2] })] } }

theorem keyingTwice_canonical : keyingTwice.Canonical := by decide +kernel

theorem keyingTwice_keys : keyingTwice.linkState 0 = 2 ∧ nbit (keyingTwice.qlink 0).kx 1 = false ∧ 1 ≠ keyingTwice.dv.devNum
    ∧ keyingTwice.peerAllowed [] = true ∧ keyingTwice.keystonePaused = false := by
  decide +kernel

/-- The accepted KX_HELLO carries the hash `[]`, and the link's entry then holds `[2]`. -/
theorem exec_kxHello_keyingTwice {t : State} (h : exec (.kxHello 0 1 1 [] true) keyingTwice = .next t) :
    (t.qlink 0).peerHash = [2] := by
  have run : (match execKxHello 0 1 1 [] true keyingTwice with
      | .next u => (u.qlink 0).peerHash == [2]
      | _ => false) = true := by decide +kernel
  change execKxHello 0 1 1 [] true keyingTwice = .next t at h
  rw [h] at run
  simpa using run

/-- Refutes O16: its clause on an accepted KX_HELLO lacks the premise that the link table holds one entry for a link. Setting an
entry to its default value removes the first of two, and the peer's hash is then read from the second. -/
theorem not_linksComeUp : ¬ Obligations.LinksComeUp := by
  intro h
  obtain ⟨-, -, -, -, -, -, hello, -⟩ := h
  obtain ⟨keying, fresh, other, allowed, going⟩ := keyingTwice_keys
  obtain ⟨t, run, -, -, -, hash, -⟩ := hello keyingTwice 0 1 [] keyingTwice_canonical (by decide) keying fresh (by decide) other allowed going
  rw [exec_kxHello_keyingTwice run] at hash
  exact absurd hash (by decide)

end Sys2Proof.Machine

/-! SUPPORT. Errors recorded (R45, R48), and the obligation about them refuted: its bound on the copy named is that of the
register store's keys, and the interrupt source of a copy is 256 numbers further on. -/

namespace Sys2Proof.Machine

/-- A partition number that PRT does not have, and the interrupt source that stands for it, have their interrupts enabled. -/
def straySource : State :=
  (State.setFlag {} (hdrF .prt 0x08 8 8) true 0x3F00).setFlag F.LNT_IVEC_ENABLE true 0x4000

theorem straySource_canonical : straySource.Canonical := by decide +kernel

/-- Source 256 + 0x3F00 has the key of the first copy at the next address, and its `PENDING` is set there. -/
theorem straySource_err : (straySource.err .prt 0x3F00 0).reg (A.LNT_IVEC + 1) ≠ straySource.reg (A.LNT_IVEC + 1) := by
  decide +kernel

/-- Refutes O9: with `i < 0x4000` alone the interrupt's source 256 + `i` can pass the copies that a key has room for, so that the
interrupt of PRT's number 0x3F00 sets a bit at an address that no list of the statement names. -/
theorem not_errorsAreRecorded : ¬ Obligations.ErrorsAreRecorded := by
  intro h
  obtain ⟨-, -, -, -, -, but⟩ := h straySource .prt 0x3F00 0 none straySource_canonical (by decide) (by decide)
  exact straySource_err (but (regKey (A.LNT_IVEC + 1) 0 0) (by decide))

end Sys2Proof.Machine

/-! SUPPORT. Register accesses (chapter 2): what the checks of a served access imply, and what a write of one register does, first
for every register and then for those of the common header; the obligations about checks and absent selections. -/

namespace Sys2Proof.Machine

section
variable {s t : State} {r : Requester} {addr len v : Nat} {b : Blk} {page i : Nat}

/-! ## The checks of an access (R35, R37, R53) -/

/-- R37: what no check stops has the size and alignment of an access. -/
theorem widthOk_of_regGate {write : Bool} (h : s.regGate r addr len write = some 0) : widthOk addr len = true := by
  by_contra hw
  simp only [State.regGate, hw, if_false] at h
  split at h
  · cases h
  · split at h
    · obtain ⟨c, -, e⟩ := Option.map_eq_some_iff.1 h
      split_ifs at e with hc hm hr
      · exact hc e
      · cases e
      · cases e
    · split_ifs at h with hm
      · cases h
      · cases h

/-- R37: a 4-byte access that no check stops is aligned, and covers the one register it names. -/
theorem regsOf_of_regGate {write : Bool} (h : s.regGate r addr 4 write = some 0) : regsOf addr 4 = [addr] := by
  have aligned : addr % 4 = 0 := by simpa [widthOk] using widthOk_of_regGate h
  simp [regsOf, Nat.div_mul_cancel (Nat.dvd_of_mod_eq_zero aligned)]

/-- R35, R37: the checks of an access by a Trowel core. -/
theorem State.regGate_trowel {c : Nat} {write : Bool} (h : s.reachesRegs (.trowel c) = true) :
    s.regGate (.trowel c) addr len write = some (if (decide (addr < 2 ^ 28) && (blkOfPage (addr / 0x1000)).isSome) = true then
      (if widthOk addr len then St.ok else 0x0702) else St.addressUnmapped) := by
  unfold State.regGate
  extract_lets mapped rest
  rw [if_neg (by simp [h])]
  show some (if (!mapped) = true then _ else _) = some (if mapped = true then _ else _)
  cases mapped
  · rfl
  · rfl

theorem State.writeCmd_of_none (h : s.regGate r addr len true = none) : s.writeCmd r addr len v = .next s := by
  rw [State.writeCmd, State.regWrite, h]
  rfl

theorem State.writeCmd_of_status {c : Nat} (h : s.regGate r addr len true = some c) (hc : c ≠ 0) :
    s.writeCmd r addr len v = .next (s.replied r c) := by
  obtain ⟨n, rfl⟩ := Nat.exists_eq_succ_of_ne_zero hc
  rw [State.writeCmd, State.regWrite, h]
  rfl

/-- R53: a page locked against the requester refuses the write. -/
theorem State.writeCmd_of_locked (h : s.regGate r addr 4 true = some 0) (hl : s.lockedFor r (addr / 0x1000) = true)
    (ho : addr % 0x1000 ≠ 0x18) : s.writeCmd r addr 4 v = .next (s.replied r 0x0703) := by
  simp [State.writeCmd, State.regWrite, h, regsOf_of_regGate h, State.putAll, hl, ho, done, State.replied, St.registerLocked]

/-- A 4-byte write that neither a check nor a lock stops is performed and answered; no lock holds a select register (R53). -/
theorem State.writeCmd_of_unlocked (h : s.regGate r addr 4 true = some 0)
    (hl : addr % 0x1000 = 0x18 ∨ s.lockedFor r (addr / 0x1000) = false) (hp : s.putReg r addr (v % 2 ^ 32) = (0, t)) :
    s.writeCmd r addr 4 v = .next (t.replied r 0) := by
  have free : (decide (addr % 0x1000 ≠ 0x18) && s.lockedFor r (addr / 0x1000)) = false := by
    rcases hl with hl | hl
    · simp [hl]
    · simp [hl]
  have one : s.putAll r [addr] v = (0, t) := by
    rw [State.putAll, free, if_neg Bool.false_ne_true, hp]
    rfl
  rw [State.writeCmd, State.regWrite, h]
  simp [regsOf_of_regGate h, one, done, State.replied]

/-- Settles O8: each clause is one outcome of the checks of a write. -/
theorem accessesAreChecked : Obligations.AccessesAreChecked := by
  refine ⟨?_, ?_, ?_, ?_, ?_⟩
  · exact fun s req addr len data h => State.writeCmd_of_none h
  · exact fun s req addr len data c h hc => State.writeCmd_of_status h hc
  · intro s c addr len data hreach hpage
    refine State.writeCmd_of_status ?_ (by decide : 0x0304 ≠ 0)
    rw [State.regGate_trowel hreach, if_neg (by simp [hpage])]
    rfl
  · intro s c addr len data hreach haddr hpage h4 h8
    refine State.writeCmd_of_status ?_ (by decide : 0x0702 ≠ 0)
    have width : widthOk addr len = false := by simpa [widthOk] using ⟨not_and.1 h4, not_and.1 h8⟩
    rw [State.regGate_trowel hreach, if_pos (by rw [decide_eq_true haddr, hpage]; rfl), width]
    rfl
  · exact fun s req addr data h hl ho => State.writeCmd_of_locked h hl ho

/-! ## An absent selection (R51) -/

theorem hdrF_fits (b : Blk) (off : Nat) {hi lo : Nat} (hl : lo ≤ hi) (hh : hi < 32) : (hdrF b off hi lo).Fits := ⟨hl, hh⟩

/-- R50: a requester's copy of a select register takes the value as written. -/
theorem State.sel_selWrite (hs : s.RegsWf) (hb : b.insts ≠ 1) (r : Requester) (v : Nat) : (s.selWrite b r v).sel b r = v % 65536 := by
  rw [State.sel, State.selWrite, if_neg hb]
  exact State.getF_setF_same hs (hdrF_fits b 0x18 (by decide) (by decide)) v 0 (reqCode r)

/-- R51: a select value at or above a block's count shows none of its units. -/
theorem State.instOf_of_absent (hp : pageSelected b page = true) (hi : b.insts ≤ s.sel b r) : s.instOf b page r = none := by
  have absent : s.present b (s.sel b r) = false := by simp [State.present, Nat.not_lt.2 hi]
  rw [State.instOf, if_pos hp, absent]
  rfl

theorem State.hdrInst_of_absent (hp : pageSelected b page = true) (hi : b.insts ≤ s.sel b r) : s.hdrInst b page r = none := by
  rw [State.hdrInst, hp]
  exact State.instOf_of_absent hp hi

section
variable (hb : blkOfPage (addr / 0x1000) = some b) (hinst : s.instOf b (addr / 0x1000) r = none)
  (hhdr : s.hdrInst b (addr / 0x1000) r = none) (ho : addr % 0x1000 ≠ 0x18)
include hb hinst

theorem State.takeReg_of_absent (locked : Bool) : (s.takeReg r addr locked).2 = s := by
  simp only [State.takeReg, hb]
  cases rowOf addr with
  | none => rfl
  | some row =>
    dsimp only
    split
    · rfl
    · rw [hinst]

include hhdr ho

theorem State.shown_of_absent : s.shown r addr = 0 := by
  simp only [State.shown, hb, hinst, hhdr]
  rw [if_neg ho]
  split
  · rfl
  · cases rowOf addr with
    | none => rfl
    | some row => rfl

theorem State.putReg_of_absent (v : Nat) : s.putReg r addr v = (0, s) := by
  simp only [State.putReg, hb, hinst, hhdr]
  rw [if_neg ho]
  split
  · rfl
  · cases rowOf addr with
    | none => rfl
    | some row => rfl

end

/-- Settles O10: an absent selection shows no unit and no header set, and an access to a register of neither does nothing. -/
theorem absentSelectionShowsNothing : Obligations.AbsentSelectionShowsNothing := by
  refine ⟨fun s b req v hs hb => State.sel_selWrite hs.1 hb req v, ?_⟩
  intro s b req addr v hb hsel habsent ho
  have inst := State.instOf_of_absent hsel habsent
  have hdr := State.hdrInst_of_absent hsel habsent
  exact ⟨State.shown_of_absent hb inst hdr ho, State.putReg_of_absent hb inst hdr ho v, State.takeReg_of_absent hb inst false⟩

end
end Sys2Proof.Machine

/-! SUPPORT. Writes of the common header's registers and of plain registers (R40, R43, R46, R50, R52), with the obligation about
them: what each writes, and that it writes nothing else. -/

namespace Sys2Proof.Machine

section
variable {s t : State} {r : Requester} {addr v : Nat} {b : Blk} {page i off : Nat}

/-! ## Registers and replies -/

theorem State.regsWf_setFlag (h : s.RegsWf) (f : Fld) (x : Bool) (j : Nat) : (s.setFlag f x i j).RegsWf :=
  State.regsWf_setF h _ _ _ _

theorem RegsSame.flag {K : Nat → Prop} (h : RegsSame K s t) {f : Fld} {j : Nat} (hk : K (regKey f.addr i j)) :
    t.flag f i j = s.flag f i j := by
  rw [State.flag, State.flag, h.getF hk]

theorem State.flag_setFlag_apart (h : s.RegsWf) {f g : Fld} (hf : f.Fits) (hg : g.Fits) (ha : f.addr = g.addr) (hd : f.Apart g)
    (x : Bool) (j : Nat) : (s.setFlag f x i j).flag g i j = s.flag g i j := by
  rw [State.flag, State.setFlag, State.getF_setF_apart h hf hg ha hd, State.flag]

/-- The same copy of registers at two addresses has two keys. -/
theorem regKey_ne_of_addr {a a' j : Nat} (h : a ≠ a') : regKey a i j ≠ regKey a' i j := by
  unfold regKey
  omega

/-- Header registers of one unit have different keys. -/
theorem hdrKey_ne {o o' j : Nat} (h : o ≠ o') : regKey (hdrAddr b o) i j ≠ regKey (hdrAddr b o') i j :=
  regKey_ne_of_addr fun e => h (Nat.add_left_cancel e)

/-- An access that changed registers alone has added its reply, and nothing else. -/
theorem RegsOnly.replied (h : RegsOnly s t) (c : Nat) :
    t.replied r c = { s with regs := (t.replied r c).regs, out := s.out ++ [.regReply r c 0] } := by
  obtain ⟨x, rfl⟩ := h
  rfl

theorem RegsSame.replied {K : Nat → Prop} (h : RegsSame K s t) (c : Nat) : RegsSame K s (t.replied r c) := h.of_regs rfl

/-! ## Writes through a page of the common header -/

theorem addr_page (h : off < 0x1000) : (page * 0x1000 + off) / 0x1000 = page ∧ (page * 0x1000 + off) % 0x1000 = off := by
  omega

theorem State.putReg_header (hb : blkOfPage page = some b) (hi : s.hdrInst b page r = some i) (ho : off < 0x40) (hsel : off ≠ 0x18) :
    s.putReg r (page * 0x1000 + off) v = (0, s.hdrWrite r b page i off v) := by
  obtain ⟨hpage, hoff⟩ := addr_page (page := page) (off := off) (by omega)
  simp only [State.putReg, hpage, hoff, hb, hi]
  rw [if_neg hsel, if_pos ho]
  rfl

/-- A served write of a header register other than the select register. -/
theorem State.writeCmd_header (hb : blkOfPage page = some b) (hi : s.hdrInst b page r = some i) (ho : off < 0x40) (hsel : off ≠ 0x18)
    (hg : s.grants r (page * 0x1000 + off)) (hv : v < 2 ^ 32) :
    s.writeCmd r (page * 0x1000 + off) 4 v = .next ((s.hdrWrite r b page i off v).replied r 0) := by
  obtain ⟨gate, unlocked⟩ := hg
  exact State.writeCmd_of_unlocked gate (.inr unlocked) (by rw [Nat.mod_eq_of_lt hv, State.putReg_header hb hi ho hsel])

/-! ## The select register (R50) -/

theorem exec_blkSelWrite {v : Word} (hb : blkOfPage page = some b) (hg : s.regGate r (page * 0x1000 + 0x18) 4 true = some 0) :
    exec (.blkSelWrite r page v) s = .next ((s.selWrite b r v.toNat).replied r 0) := by
  obtain ⟨hpage, hoff⟩ := addr_page (page := page) (off := 0x18) (by decide)
  refine State.writeCmd_of_unlocked hg (.inl hoff) ?_
  rw [Nat.mod_eq_of_lt v.isLt]
  simp only [State.putReg, hpage, hoff, hb]
  rfl

theorem State.selWrite_eq (hb : b.insts ≠ 1) : s.selWrite b r v = s.setF (hdrF b 0x18 15 0) v 0 (reqCode r) := if_neg hb

/-! ## The error registers (R46) -/

/-- The causes that a write of `v` to `BLK_ERR` leaves. -/
def State.errLeft (s : State) (b : Blk) (i v : Nat) : Nat := (s.reg (hdrAddr b 0x10) i).toNat &&& (2 ^ 32 - 1 - v % 2 ^ 32)

theorem State.errLeft_lt : s.errLeft b i v < 2 ^ 32 := Nat.and_lt_two_pow _ (by omega)

theorem State.nbit_errLeft {k : Nat} (hv : v < 2 ^ 32) (hk : k < 32) :
    nbit (s.errLeft b i v) k = (nbit (s.reg (hdrAddr b 0x10) i).toNat k && !nbit v k) := by
  have flip : (2 ^ 32 - 1 - v).testBit k = !v.testBit k := by
    rw [show 2 ^ 32 - 1 - v = 2 ^ 32 - (v + 1) by omega, Nat.testBit_two_pow_sub_succ hv, decide_eq_true hk, Bool.true_and]
  simp only [nbit_eq_testBit, State.errLeft, Nat.testBit_and, Nat.mod_eq_of_lt hv, flip]

theorem State.errClear_eq : s.errClear b i v =
    if s.errLeft b i v = 0 then (s.setReg (hdrAddr b 0x10) (BitVec.ofNat 32 (s.errLeft b i v)) i).setFlag (hdrF b 0x24 31 31) false i
    else s.setReg (hdrAddr b 0x10) (BitVec.ofNat 32 (s.errLeft b i v)) i := rfl

theorem State.errClear_only : RegsOnly s (s.errClear b i v) := by
  rw [State.errClear_eq]
  split
  · exact (RegsOnly.refl s).setReg.setFlag
  · exact (RegsOnly.refl s).setReg

theorem State.errClear_keep : RegsKeep [regKey (hdrAddr b 0x10) i 0, regKey (hdrAddr b 0x24) i 0] s (s.errClear b i v) := by
  rw [State.errClear_eq, regsKeep_iff]
  split
  · exact ((RegsSame.refl s).setReg (by simp)).setFlag (by simp [hdrF])
  · exact (RegsSame.refl s).setReg (by simp)

theorem State.errClear_reg (hs : s.RegsWf) :
    (s.errClear b i v).reg (hdrAddr b 0x10) i = BitVec.ofNat 32 (s.errLeft b i v) := by
  rw [State.errClear_eq]
  split
  · have same : RegsSame (fun k => k = regKey (hdrAddr b 0x10) i 0) (s.setReg (hdrAddr b 0x10) (BitVec.ofNat 32 (s.errLeft b i v)) i) _ :=
      (RegsSame.refl _).setFlag (f := hdrF b 0x24 31 31) (v := false) (i := i) (j := 0) (hdrKey_ne (by decide))
    rw [same.reg rfl, State.reg_setReg_same hs]
  · exact State.reg_setReg_same hs _ _ _ _

/-- R46: `VALID` stays while a cause is left. -/
theorem State.errClear_valid (hs : s.RegsWf) : (s.errClear b i v).flag (hdrF b 0x24 31 31) i =
    (s.flag (hdrF b 0x24 31 31) i && decide ((s.errClear b i v).reg (hdrAddr b 0x10) i ≠ 0#32)) := by
  have zero : BitVec.ofNat 32 (s.errLeft b i v) = 0#32 ↔ s.errLeft b i v = 0 := by
    rw [← BitVec.toNat_inj, BitVec.toNat_ofNat, Nat.mod_eq_of_lt State.errLeft_lt]
    rfl
  rw [State.errClear_reg hs, State.errClear_eq]
  split
  · next left =>
    rw [State.flag_setFlag_same (State.regsWf_setReg hs _ _ _ _) (hdrF_fits b 0x24 (by decide) (by decide)),
      decide_eq_false (by simp [left]), Bool.and_false]
  · next left =>
    have same : RegsSame (fun k => k = regKey (hdrAddr b 0x24) i 0) s _ :=
      (RegsSame.refl s).setReg (v := BitVec.ofNat 32 (s.errLeft b i v)) (a := hdrAddr b 0x10) (i := i) (j := 0) (hdrKey_ne (by decide))
    rw [same.flag (f := hdrF b 0x24 31 31) rfl, decide_eq_true (by simpa [zero] using left), Bool.and_true]

/-! ## Locks (R52) -/

/-- The lock bits of a page. -/
def lockF (page : Nat) : Fld := ⟨page * 0x1000 + 0x1C, 1, 0⟩

theorem lockF_fits : (lockF page).Fits := ⟨by simp [lockF], by simp [lockF]⟩

theorem State.lockedFor_keystone : s.lockedFor .keystone page = false := by
  unfold State.lockedFor
  split
  · rfl
  · split
    · rfl
    · rfl

/-- Table 2-9: the lock bits written as 1 join those set, and bit 1 brings bit 0. -/
theorem State.lockPage_eq : s.lockPage page i v =
    s.setF (lockF page) (if nbit (s.getF (lockF page) i ||| (v % 4)) 1 then 3 else s.getF (lockF page) i ||| (v % 4)) i := rfl

/-- R52: a lock bit written as 1 is set, and none is cleared. -/
theorem State.lockPage_bit (hs : s.RegsWf) {k : Nat} (hk : k < 2) (h : nbit v k = true ∨ s.bit (lockF page) k i = true) :
    (s.lockPage page i v).bit (lockF page) k i = true := by
  have joined : nbit (s.getF (lockF page) i ||| (v % 4)) k = true := by
    have low : nbit (v % 4) k = nbit v k := nbit_mod_two_pow (w := 2) hk
    rw [nbit_eq_testBit, Nat.testBit_or, ← nbit_eq_testBit, ← nbit_eq_testBit, low, Bool.or_eq_true]
    exact h.symm
  rw [State.lockPage_eq, State.bit, State.getF_setF_same hs lockF_fits, nbit_mod_two_pow (show k < (lockF page).width from hk)]
  split
  · next both =>
    interval_cases k
    · rfl
    · rfl
  · exact joined

theorem exec_lockSet {v : Word} (hb : blkOfPage page = some b) (hi : s.hdrInst b page .keystone = some i)
    (hg : s.regGate .keystone (page * 0x1000 + 0x1C) 4 true = some 0) :
    exec (.lockSet page v) s = .next ((s.lockPage page (if pageSelected b page then i else 0) v.toNat).replied .keystone 0) := by
  have put : s.hdrWrite .keystone b page i 0x1C v.toNat = s.lockPage page (if pageSelected b page then i else 0) v.toNat := by
    rw [State.hdrWrite, if_neg (by decide), if_neg (by decide), if_neg (by decide), if_pos rfl, if_pos rfl]
  rw [← put]
  exact State.writeCmd_header hb hi (by decide) (by decide) ⟨hg, State.lockedFor_keystone⟩ v.isLt

/-! ## Quiescing (R43) -/

/-- Nothing differs but registers and units' generations. -/
def UnitsOnly (s t : State) : Prop := ∃ x g, t = { s with regs := x, unitGen := g }

theorem RegsOnly.unitsOnly (h : RegsOnly s t) : UnitsOnly s t := by
  obtain ⟨x, rfl⟩ := h
  exact ⟨x, _, rfl⟩

theorem UnitsOnly.trans {u : State} (h : UnitsOnly s t) (h' : UnitsOnly t u) : UnitsOnly s u := by
  obtain ⟨x, g, rfl⟩ := h
  obtain ⟨x', g', rfl⟩ := h'
  exact ⟨x', g', rfl⟩

theorem State.bumpGen_unitsOnly (s : State) (b : Blk) (i : Nat) : UnitsOnly s (s.bumpGen b i) := ⟨s.regs, _, rfl⟩

theorem UnitsOnly.setUnit (h : UnitsOnly s t) (b : Blk) (i st : Nat) : UnitsOnly s (t.setUnit b i st) :=
  h.trans ((RegsOnly.refl t).setF.unitsOnly.trans (State.bumpGen_unitsOnly _ b i))

theorem UnitsOnly.eq (h : UnitsOnly s t) : t = { s with regs := t.regs, unitGen := t.unitGen } := by
  obtain ⟨x, g, rfl⟩ := h
  rfl

theorem UnitsOnly.replied (h : UnitsOnly s t) (c : Nat) : t.replied r c =
    { s with regs := (t.replied r c).regs, unitGen := (t.replied r c).unitGen, out := s.out ++ [.regReply r c 0] } := by
  obtain ⟨x, g, rfl⟩ := h
  rfl

/-- A write of `QUIESCE` stores it and may show it in `UNIT_STATE` at once; only a link or a slab that goes on does more. -/
theorem State.setQuiesce_cases {on : Bool} (h : on = true ∨ (b ≠ .qlk ∧ b ≠ .yrd)) :
    s.setQuiesce b i on = s.setFlag (hdrF b 0x08 0 0) on i
      ∨ ∃ st, s.setQuiesce b i on = (s.setFlag (hdrF b 0x08 0 0) on i).setUnit b i st := by
  unfold State.setQuiesce
  extract_lets t u
  split
  · split
    · exact .inr ⟨4, rfl⟩
    · exact .inl rfl
  · next off =>
    obtain ⟨hq, hy⟩ := h.resolve_left off
    rw [if_neg hq, if_neg hy]
    unfold u
    split
    · exact .inr ⟨3, rfl⟩
    · exact .inl rfl

/-- What a write of `QUIESCE` and of the interrupt enable leaves. -/
theorem State.setQuiesce_frame {on : Bool} (hs : s.RegsWf) (h : on = true ∨ (b ≠ .qlk ∧ b ≠ .yrd)) :
    (s.setQuiesce b i on).quiesced b i = on ∧ (s.setQuiesce b i on).flag (hdrF b 0x08 8 8) i = s.flag (hdrF b 0x08 8 8) i
      ∧ RegsKeep [regKey (hdrAddr b 0x08) i 0, regKey (hdrAddr b 0x0C) i 0] s (s.setQuiesce b i on)
      ∧ UnitsOnly s (s.setQuiesce b i on) := by
  have quiesced : (s.setFlag (hdrF b 0x08 0 0) on i).flag (hdrF b 0x08 0 0) i = on :=
    State.flag_setFlag_same hs (hdrF_fits b 0x08 (by decide) (by decide)) on i 0
  have enable : (s.setFlag (hdrF b 0x08 0 0) on i).flag (hdrF b 0x08 8 8) i = s.flag (hdrF b 0x08 8 8) i :=
    State.flag_setFlag_apart (f := hdrF b 0x08 0 0) (g := hdrF b 0x08 8 8) hs (hdrF_fits b 0x08 (by decide) (by decide))
      (hdrF_fits b 0x08 (by decide) (by decide)) rfl (.inr (show 0 < 8 by decide)) on 0
  have keep : RegsSame (fun k => k ∉ [regKey (hdrAddr b 0x08) i 0, regKey (hdrAddr b 0x0C) i 0]) s (s.setFlag (hdrF b 0x08 0 0) on i) :=
    (RegsSame.refl s).setFlag (by simp [hdrF])
  have only : UnitsOnly s (s.setFlag (hdrF b 0x08 0 0) on i) := (RegsOnly.refl s).setFlag.unitsOnly
  rcases State.setQuiesce_cases (s := s) (i := i) h with e | ⟨st, e⟩
  · rw [e]
    exact ⟨quiesced, enable, keep, only⟩
  · have same : RegsSame (fun k => k = regKey (hdrAddr b 0x08) i 0) (s.setFlag (hdrF b 0x08 0 0) on i)
        ((s.setFlag (hdrF b 0x08 0 0) on i).setUnit b i st) := (RegsSame.refl _).setUnit (hdrKey_ne (by decide))
    rw [e]
    exact ⟨(same.flag (f := hdrF b 0x08 0 0) rfl).trans quiesced, (same.flag (f := hdrF b 0x08 8 8) rfl).trans enable,
      keep.setUnit (by simp), only.setUnit b i st⟩

/-- A write of `BLK_CTRL` with `COMP_RESET` 0, of a unit that has a `QUIESCE` of its own. -/
theorem State.ctrlWrite_quiesce (hp : plainHeader b = false) (hseq : b ≠ .seq) (hprt : b ≠ .prt) (hi : i ≠ blockWide) :
    s.ctrlWrite r b page i v = if nbit v 31 then ((s.setFlag (hdrF b 0x08 8 8) (nbit v 8) i).setQuiesce b i (nbit v 0)).compReset b i
      else (s.setFlag (hdrF b 0x08 8 8) (nbit v 8) i).setQuiesce b i (nbit v 0) := by
  rw [State.ctrlWrite, if_neg (by simp [hp, hi]), if_neg hseq, if_neg hprt]

/-- A served write of `BLK_CTRL`. -/
theorem State.writeCmd_ctrl (hb : blkOfPage page = some b) (hi : s.hdrInst b page r = some i) (hg : s.grants r (page * 0x1000 + 8))
    (hw : mayWrite r page = true) (hv : v < 2 ^ 32) :
    s.writeCmd r (page * 0x1000 + 8) 4 v = .next ((s.ctrlWrite r b page i v).replied r 0) := by
  have put : s.hdrWrite r b page i 8 v = s.ctrlWrite r b page i v := by
    rw [State.hdrWrite, if_neg (by decide), if_pos rfl, if_pos hw]
  rw [← put]
  exact State.writeCmd_header hb hi (by decide) (by decide) hg hv

theorem exec_blkErrClear {v : Word} (hb : blkOfPage page = some b) (hi : s.hdrInst b page r = some i)
    (hg : s.grants r (page * 0x1000 + 0x10)) :
    exec (.blkErrClear r page v) s = .next ((s.errClear b i v.toNat).replied r 0) :=
  State.writeCmd_header hb hi (by decide) (by decide) hg v.isLt

/-! ## Registers of plain fields, and reads that clear (R40) -/

/-- A write of `KLN_EP_TARGET`, a register with no meaning beyond its field, stores the field. -/
theorem State.putReg_epTarget : s.putReg r A.KLN_EP_TARGET v =
    (0, s.plainWrite r ⟨A.KLN_EP_TARGET, 1, .single, 0, 0xffff, 0, 0, 0, 0, 0, 0⟩ true A.KLN_EP_TARGET 0 0 v) := by
  have blk : blkOfPage (A.KLN_EP_TARGET / 0x1000) = some .kln := by decide
  have row : rowOf A.KLN_EP_TARGET = some ⟨A.KLN_EP_TARGET, 1, .single, 0, 0xffff, 0, 0, 0, 0, 0, 0⟩ := by decide
  have inst : s.instOf .kln (A.KLN_EP_TARGET / 0x1000) r = some 0 := rfl
  have may : mayWrite r (A.KLN_EP_TARGET / 0x1000) = true := by
    cases r with
    | host a => rfl
    | trowel c => rfl
    | keystone => rfl
    | debug => rfl
  have page : (A.KLN_EP_TARGET / 0x1000 = 0x153) = False := by decide
  have a : ∀ x n i, s.writeA x A.KLN_EP_TARGET n i v = none := by
    intro x n i
    simp +decide only [State.writeA, if_false]
  have b : ∀ x n i, s.writeB_ r x A.KLN_EP_TARGET n i v = none := by
    intro x n i
    simp +decide only [State.writeB_, if_false]
  have c : ∀ x i j, s.writeC x A.KLN_EP_TARGET i j v = none := by
    intro x i j
    simp +decide only [State.writeC, if_false]
  have d : ∀ x n i, s.writeD x A.KLN_EP_TARGET n i v = none := by
    intro x n i
    simp +decide only [State.writeD, if_false]
  have e : ∀ x i j, s.writeE x A.KLN_EP_TARGET i j v = none := by
    intro x i j
    simp +decide only [State.writeE, if_false]
  simp only [State.putReg, blk, row, inst]
  rw [if_neg (by decide), if_neg (by decide)]
  simp only [State.rowWrite, State.copyOf, may, a, b, c, d, e, page]
  rfl

/-- Table 2-1: bits [15:0] of `KLN_EP_TARGET` are RW and take the value; the others stay. -/
theorem State.plainWrite_epTarget :
    s.plainWrite r ⟨A.KLN_EP_TARGET, 1, .single, 0, 0xffff, 0, 0, 0, 0, 0, 0⟩ true A.KLN_EP_TARGET 0 0 v =
      s.setReg A.KLN_EP_TARGET (BitVec.ofNat 32
        ((((s.reg A.KLN_EP_TARGET).toNat &&& 0xFFFF0000) ||| (v &&& 0xFFFF)) &&& (2 ^ 32 - 1 - (0 &&& v)))) := by
  cases r with
  | host a => simp [State.plainWrite]
  | trowel c => simp [State.plainWrite]
  | keystone => simp [State.plainWrite]
  | debug => simp [State.plainWrite]

theorem State.getF_plainWrite_epTarget (hs : s.RegsWf) :
    (s.plainWrite r ⟨A.KLN_EP_TARGET, 1, .single, 0, 0xffff, 0, 0, 0, 0, 0, 0⟩ true A.KLN_EP_TARGET 0 0 v).getF
      F.KLN_EP_TARGET_TARGET_MJ = v % 65536 := by
  generalize hold : (s.reg A.KLN_EP_TARGET).toNat = old
  have low : (((old &&& 0xFFFF0000) ||| (v &&& 0xFFFF)) &&& (2 ^ 32 - 1 - (0 &&& v))) % 2 ^ 32 / 2 ^ 0 % 2 ^ 16 = v % 2 ^ 16 := by
    rw [Nat.pow_zero, Nat.div_one, Nat.mod_mod_of_dvd _ (by decide), show v &&& 0xFFFF = v % 2 ^ 16 from Nat.and_two_pow_sub_one_eq_mod v 16,
      Nat.and_mod_two_pow, Nat.or_mod_two_pow, Nat.and_mod_two_pow]
    simpa using Nat.and_two_pow_sub_one_eq_mod (v % 65536) 16
  rw [State.plainWrite_epTarget, State.getF]
  show (State.reg (State.setReg s A.KLN_EP_TARGET _) A.KLN_EP_TARGET).toNat / 2 ^ 0 % 2 ^ 16 = _
  rw [State.reg_setReg_same hs, BitVec.toNat_ofNat, hold]
  exact low

/-- R40: a read returns what the register shows, and its RC fields go to their reset value. -/
theorem exec_readClear {row : RegRow} {x j : Nat} (hg : s.regGate r addr 4 false = some 0) (hl : s.lockedFor r (addr / 0x1000) = false)
    (hb : blkOfPage (addr / 0x1000) = some b) (hrow : rowOf addr = some row) (ho : 0x40 ≤ addr % 0x1000) (hrc : row.rc ≠ 0)
    (hi : s.instOf b (addr / 0x1000) r = some i) (hc : s.copyOf r i row.dim = some (x, j)) :
    exec (.readClear r addr 4) s = .next ((s.setReg addr (BitVec.ofNat 32
      (((s.reg addr x j).toNat &&& (2 ^ 32 - 1 - row.rc)) ||| (row.reset &&& row.rc))) x j).emit (.regReply r 0 (s.shown r addr))) := by
  have clears : (decide (addr % 0x1000 < 0x40) || decide (row.rc = 0) || false) = false := by simp [Nat.not_lt.2 ho, hrc]
  have take : s.takeReg r addr false = (s.shown r addr, s.setReg addr (BitVec.ofNat 32
      (((s.reg addr x j).toNat &&& (2 ^ 32 - 1 - row.rc)) ||| (row.reset &&& row.rc))) x j) := by
    simp only [State.takeReg, hb, hrow, hi, hc]
    rw [clears]
    rfl
  show execReadClear r addr 4 s = _
  rw [execReadClear, State.regRead, hg]
  simp only [regsOf_of_regGate hg, State.takeAll, hl, take]
  rfl

end

/-- Settles O11: what each write does to the registers, and that it changes nothing else but its reply. -/
theorem headerWritesActOnTheirInstance : Obligations.HeaderWritesActOnTheirInstance := by
  refine ⟨?_, ?_, ?_, ?_, ?_, ?_⟩
  · intro s req page v b hs hg hb hinsts
    refine ⟨_, exec_blkSelWrite hb hg, State.sel_selWrite hs.1 hinsts req v.toNat, ?_, ?_⟩
    · rw [State.selWrite_eq hinsts]
      exact RegsSame.replied ((RegsSame.refl s).setF (by simp [hdrF])) 0
    · rw [State.selWrite_eq hinsts]
      exact (RegsOnly.refl s).setF.replied 0
  · intro s req page v b i hs hg hb hi
    refine ⟨_, exec_blkErrClear hb hi hg, fun k hk => ?_, State.errClear_valid hs.1, RegsSame.replied State.errClear_keep 0,
      State.errClear_only.replied 0⟩
    have left : ((s.errClear b i v.toNat).reg (hdrAddr b 0x10) i).toNat = s.errLeft b i v.toNat := by
      rw [State.errClear_reg hs.1, BitVec.toNat_ofNat, Nat.mod_eq_of_lt State.errLeft_lt]
    exact (congrArg (nbit · k) left).trans (State.nbit_errLeft v.isLt hk)
  · intro s page v b i hs hg hb hi
    refine ⟨_, exec_lockSet hb hi hg, fun k hk h => State.lockPage_bit hs.1 hk h, ?_, ?_⟩
    · rw [State.lockPage_eq]
      exact RegsSame.replied ((RegsSame.refl s).setF (by simp [lockF])) 0
    · rw [State.lockPage_eq]
      exact (RegsOnly.refl s).setF.replied 0
  · intro s req page v b i hs hg hw hb hi hplain hseq hprt hwide hreset hgoes
    have wf := State.regsWf_setFlag (i := i) hs.1 (hdrF b 0x08 8 8) (nbit v.toNat 8) 0
    obtain ⟨quiesced, enable, keep, only⟩ := State.setQuiesce_frame (i := i) wf hgoes
    have stored := State.flag_setFlag_same hs.1 (hdrF_fits b 0x08 (hi := 8) (lo := 8) (by decide) (by decide)) (nbit v.toNat 8) i 0
    have first : RegsSame (fun k => k ∉ [regKey (hdrAddr b 0x08) i 0, regKey (hdrAddr b 0x0C) i 0]) s
        (s.setFlag (hdrF b 0x08 8 8) (nbit v.toNat 8) i) := (RegsSame.refl s).setFlag (by simp [hdrF])
    refine ⟨_, State.writeCmd_ctrl hb hi hg hw v.isLt, ?_⟩
    rw [State.ctrlWrite_quiesce hplain hseq hprt hwide, if_neg (by simp [hreset])]
    exact ⟨quiesced, enable.trans stored, RegsSame.replied (first.trans keep) 0,
      ((RegsOnly.refl s).setFlag.unitsOnly.trans only).replied 0⟩
  · intro s req data hs hg
    obtain ⟨gate, unlocked⟩ := hg
    refine ⟨_, State.writeCmd_of_unlocked gate (.inr unlocked) State.putReg_epTarget, ?_, ?_, ?_⟩
    · exact (State.getF_plainWrite_epTarget hs.1).trans (by omega)
    · exact RegsSame.replied ((RegsSame.refl s).setReg (by simp)) 0
    · exact (RegsOnly.refl s).setReg.replied 0
  · exact fun s req addr b row i x j hg hl hb hrow ho hrc hi hc => exec_readClear hg hl hb hrow ho hrc hi hc

end Sys2Proof.Machine

/-! SUPPORT. Component resets (R44, R448, Table 17-6): a write that stores what a register holds already, how a reset starts and ends,
what it leaves in the registers it shows, and the obligation about them. -/

namespace Sys2Proof.Machine

/-! ## Writes that change nothing -/

section
variable {α : Type} {d : Nat → α}

/-- Putting what a sorted map holds. -/
theorem smPut_smGet {m : List (Nat × α)} (hm : smSorted m = true) {k : Nat} (hk : smGet d m k ≠ d k) : smPut m k (smGet d m k) = m := by
  induction m with
  | nil => exact absurd rfl hk
  | cons e m ih =>
    obtain ⟨j, v⟩ := e
    obtain ⟨above, sorted⟩ := smSorted_cons.1 hm
    by_cases hkj : k = j
    · simp [smGet, smPut, hkj]
    · have later : smGet d ((j, v) :: m) k = smGet d m k := by simp [smGet, hkj]
      rw [later] at hk ⊢
      have hjk : ¬ k < j := fun h => hk (smGet_above fun e he => h.trans (above e he))
      rw [smPut, if_neg hkj, if_neg hjk, ih sorted hk]

/-- Removing a key that reads as its default, in the canonical form. -/
theorem smDel_of_default {m : List (Nat × α)} (hm : ∀ e ∈ m, e.2 ≠ d e.1) {k : Nat} (hk : smGet d m k = d k) : smDel m k = m := by
  induction m with
  | nil => rfl
  | cons e m ih =>
    obtain ⟨j, v⟩ := e
    by_cases hkj : k = j
    · subst hkj
      exact absurd (by simpa [smGet] using hk) (hm (k, v) (by simp))
    · rw [smDel, if_neg hkj, ih (fun e he => hm e (List.mem_cons_of_mem _ he)) (by simpa [smGet, hkj] using hk)]

/-- Writing what is read keeps a map in its canonical form as it is. -/
theorem smSet_smGet [DecidableEq α] {m : List (Nat × α)} (hm : smWf d m = true) (k : Nat) : smSet d m k (smGet d m k) = m := by
  have listed : ∀ e ∈ m, e.2 ≠ d e.1 := by simpa using (Bool.and_eq_true_iff.1 hm).2
  rw [smSet]
  split
  · next h => exact smDel_of_default listed h
  · next h => exact smPut_smGet (smSorted_of_wf hm) h

theorem smGet_filter_of_pos {m : List (Nat × α)} {p : Nat × α → Bool} {k : Nat} (h : ∀ v, p (k, v) = true) :
    smGet d (m.filter p) k = smGet d m k := by
  induction m with
  | nil => rfl
  | cons e m ih =>
    obtain ⟨j, v⟩ := e
    by_cases hkj : k = j
    · subst hkj
      simp [h, smGet]
    · rw [List.filter_cons]
      split
      · simp [smGet, hkj, ih]
      · simp [smGet, hkj, ih]

theorem smGet_filter_of_neg {m : List (Nat × α)} {p : Nat × α → Bool} {k : Nat} (h : ∀ v, p (k, v) = false) :
    smGet d (m.filter p) k = d k := by
  induction m with
  | nil => rfl
  | cons e m ih =>
    obtain ⟨j, v⟩ := e
    by_cases hkj : k = j
    · subst hkj
      simpa [h] using ih
    · rw [List.filter_cons]
      split
      · simpa [smGet, hkj] using ih
      · exact ih

end

section
variable {s t u : State} {r : Requester} {b : Blk} {page i : Nat}

theorem State.setReg_self (hs : s.RegsWf) (a i j : Nat) : s.setReg a (s.reg a i j) i j = s := by
  rw [State.setReg, State.reg, smSet_smGet hs]

theorem putField_self {old hi lo : Nat} : putField old hi lo (old / 2 ^ lo % 2 ^ (hi + 1 - lo)) = old := by
  have le : old / 2 ^ lo % 2 ^ (hi + 1 - lo) * 2 ^ lo ≤ old :=
    (Nat.mul_le_mul_right _ (Nat.mod_le _ _)).trans (Nat.div_mul_le_self _ _)
  rw [putField, Nat.mod_mod, Nat.sub_add_cancel le]

theorem State.setF_self (hs : s.RegsWf) (f : Fld) (i j : Nat) : s.setF f (s.getF f i j) i j = s := by
  rw [State.setF, State.getF, Fld.width, putField_self, BitVec.ofNat_toNat, BitVec.setWidth_eq, State.setReg_self hs]

theorem State.setFlag_self (hs : s.RegsWf) {f : Fld} (hf : f.width = 1) (i j : Nat) : s.setFlag f (s.flag f i j) i j = s := by
  have small : s.getF f i j < 2 := (State.getF_lt s f i j).trans_eq (by rw [hf]; rfl)
  have bit : (if s.flag f i j then 1 else 0) = s.getF f i j := by
    rw [State.flag]
    interval_cases s.getF f i j
    · rfl
    · rfl
  rw [State.setFlag, bit, State.setF_self hs]

/-! ## The start of a reset -/

theorem insts_le (b : Blk) : b.insts ≤ 10752 := by cases b <;> decide

theorem ne_blockWide_of_lt (hi : i < b.insts) : i ≠ blockWide := by
  have := insts_le b
  unfold blockWide
  omega

/-- The blocks of Table 17-6 follow Table 2-3 and have no rule of their own. -/
theorem of_takesReset (h : takesReset b = true) : plainHeader b = false ∧ b ≠ .seq ∧ b ≠ .prt := by
  revert h
  cases b <;> decide

theorem State.shown_ctrl (hb : blkOfPage page = some b) (hi : s.hdrInst b page r = some i) :
    s.shown r (page * 0x1000 + 8) = (s.reg (hdrAddr b 0x08) i).toNat := by
  obtain ⟨hpage, hoff⟩ := addr_page (page := page) (off := 8) (by decide)
  simp only [State.shown, hpage, hoff, hb, hi]
  rfl

/-- The word that sets `COMP_RESET` leaves `QUIESCE` and the interrupt enable as they are. -/
theorem State.resetWord_bits (hb : blkOfPage page = some b) (hi : s.hdrInst b page r = some i) :
    s.resetWord r page < 2 ^ 32 ∧ nbit (s.resetWord r page) 31 = true ∧ nbit (s.resetWord r page) 0 = s.quiesced b i
      ∧ nbit (s.resetWord r page) 8 = s.flag (hdrF b 0x08 8 8) i := by
  have word : s.resetWord r page = (s.reg (hdrAddr b 0x08) i).toNat % 2 + (s.reg (hdrAddr b 0x08) i).toNat / 256 % 2 * 256 + 2 ^ 31 := by
    simp [State.resetWord, State.shown_ctrl hb hi, fieldAt]
  have quiesced : s.quiesced b i = ((s.reg (hdrAddr b 0x08) i).toNat % 2 == 1) := by
    simp [State.quiesced, State.flag, State.getF, hdrF, Fld.width]
  have enable : s.flag (hdrF b 0x08 8 8) i = ((s.reg (hdrAddr b 0x08) i).toNat / 256 % 2 == 1) := by
    simp [State.flag, State.getF, hdrF, Fld.width]
  rw [word, quiesced, enable]
  generalize (s.reg (hdrAddr b 0x08) i).toNat = x
  refine ⟨by omega, ?_, ?_, ?_⟩
  · rw [nbit, show (x % 2 + x / 256 % 2 * 256 + 2 ^ 31) / 2 ^ 31 % 2 = 1 by omega]
    rfl
  · rw [nbit, show (x % 2 + x / 256 % 2 * 256 + 2 ^ 31) / 2 ^ 0 % 2 = x % 2 by omega]
  · rw [nbit, show (x % 2 + x / 256 % 2 * 256 + 2 ^ 31) / 2 ^ 8 % 2 = x / 256 % 2 by omega]

/-- `QUIESCE` written as it stands changes nothing, but for a ready stack, which it shows quiesced. -/
theorem State.setQuiesce_self (hs : s.RegsWf) (hq : s.quiesced b i = true) (hstk : b = .stk → s.unit .stk i ≠ 3) :
    s.setQuiesce b i true = s := by
  have stored : s.setFlag (hdrF b 0x08 0 0) true i = s := by
    conv_lhs => rw [← hq]
    exact State.setFlag_self hs rfl i 0
  have ready : (decide (b = .stk) && decide (s.unit b i = 3)) = false := by
    by_cases h : b = .stk
    · subst h
      simp [hstk rfl]
    · simp [h]
  simp only [State.setQuiesce, stored, ready]
  rfl

/-- R44, R448: a write of 1 to `COMP_RESET` of a unit that meets Table 17-6 starts its reset. -/
theorem exec_compReset (hs : s.Canonical) (hg : s.grants r (page * 0x1000 + 8)) (hw : mayWrite r page = true)
    (hb : blkOfPage page = some b) (hi : s.hdrInst b page r = some i) (hlt : i < b.insts) (htakes : takesReset b = true)
    (hpres : s.present b i = true) (hq : s.quiesced b i = true) (hre : s.resetting b i = false) (hst : s.dv.st ≠ .warmReset)
    (hfree : s.resetFree b i = true) (hstk : b = .stk → s.unit .stk i ≠ 3) :
    exec (.compReset r page) s = .next ((s.resetBegin b i).replied r 0) := by
  obtain ⟨hplain, hseq, hprt⟩ := of_takesReset htakes
  obtain ⟨hv, sets, keepsQ, keepsE⟩ := State.resetWord_bits hb hi
  have start : s.compReset b i = s.resetBegin b i := by
    rw [State.compReset, if_pos (by simp [htakes, hpres, hq, hre, hst, hfree])]
  have ctrl : s.ctrlWrite r b page i (s.resetWord r page) = s.resetBegin b i := by
    rw [State.ctrlWrite_quiesce hplain hseq hprt (ne_blockWide_of_lt hlt), if_pos sets, keepsQ, keepsE,
      State.setFlag_self hs.1 rfl, hq, State.setQuiesce_self hs.1 hq hstk, start]
  show s.writeCmd r (page * 0x1000 + 8) 4 (s.resetWord r page) = _
  rw [State.writeCmd_ctrl hb hi hg hw hv, ctrl]

/-- The state in which a unit's reset has been recorded as begun. -/
def State.resetMarked (s : State) (b : Blk) (i : Nat) : State := (s.setFlag (hdrF b 0x08 31 31) true i).sweepStop b i

theorem resetBit_fits (b : Blk) : (hdrF b 0x08 31 31).Fits := hdrF_fits b 0x08 (by decide) (by decide)

theorem State.canonical_resetMarked (hs : s.Canonical) (b : Blk) (i : Nat) : (s.resetMarked b i).Canonical :=
  State.sweepStop_keeps canonical_stable.toStable (State.setFlag_keeps canonical_stable.toStable hs)

theorem State.sweepStop_frame (hb : b ≠ .stk) : (s.sweepStop b i).regs = s.regs ∧ (s.sweepStop b i).mem = s.mem
    ∧ (s.sweepStop b i).ftg = s.ftg := by
  rw [State.sweepStop, if_neg hb]
  exact ⟨rfl, rfl, rfl⟩

theorem State.resetMarked_frame (hb : b ≠ .stk) : (s.resetMarked b i).regs = (s.setFlag (hdrF b 0x08 31 31) true i).regs
    ∧ (s.resetMarked b i).mem = s.mem ∧ (s.resetMarked b i).ftg = s.ftg := by
  obtain ⟨regs, mem, ftg⟩ := State.sweepStop_frame (s := s.setFlag (hdrF b 0x08 31 31) true i) (i := i) hb
  exact ⟨regs, mem.trans (State.setFlag_mem ..), ftg.trans (State.setFlag_ftg ..)⟩

/-- A brick, an engine or a slab restarts when its reset starts. -/
theorem State.resetBegin_restarts (hb : b = .brk ∨ b = .hod ∨ b = .yrd) : s.resetBegin b i = (s.resetMarked b i).setUnit b i 6 := by
  rcases hb with rfl | rfl | rfl
  · rfl
  · rfl
  · rfl

theorem State.resetBegin_restarts_frame (hs : s.Canonical) (hb : b = .brk ∨ b = .hod ∨ b = .yrd) :
    (s.resetBegin b i).unit b i = 6 ∧ (s.resetBegin b i).resetting b i = true
      ∧ RegsKeep [regKey (hdrAddr b 0x08) i 0, regKey (hdrAddr b 0x0C) i 0] s (s.resetBegin b i) ∧ (s.resetBegin b i).mem = s.mem := by
  have stk : b ≠ .stk := by rintro rfl; simp at hb
  obtain ⟨regs, mem, -⟩ := State.resetMarked_frame (s := s) (i := i) stk
  have marked : RegsSame (fun k => k = regKey (hdrAddr b 0x08) i 0) (s.setFlag (hdrF b 0x08 31 31) true i) ((s.resetMarked b i).setUnit b i 6) :=
    ((RegsSame.refl _).of_regs regs).setUnit (hdrKey_ne (by decide))
  have keep : RegsSame (fun k => k ∉ [regKey (hdrAddr b 0x08) i 0, regKey (hdrAddr b 0x0C) i 0]) s ((s.resetMarked b i).setUnit b i 6) :=
    (((RegsSame.refl s).setFlag (f := hdrF b 0x08 31 31) (v := true) (i := i) (j := 0) (by simp [hdrF])).of_regs regs).setUnit (by simp)
  rw [State.resetBegin_restarts hb]
  exact ⟨State.unit_setUnit (State.canonical_resetMarked hs b i).1 b i 6,
    (marked.flag (f := hdrF b 0x08 31 31) rfl).trans (State.flag_setFlag_same hs.1 (resetBit_fits b) true i 0), keep,
    (State.setUnit_mem _ _ _ _).trans mem⟩

theorem trainPhase_fits : F.STK_TRAIN_PHASE.Fits := ⟨by decide, by decide⟩

theorem chState_fits : F.FTG_CH_STATE_STATE.Fits := ⟨by decide, by decide⟩

/-- `UNIT_STATE` reads the same after a field at another address is written. -/
theorem State.unit_setF (f : Fld) (v : Nat) (h : f.addr ≠ hdrAddr b 0x0C) : (s.setF f v i).unit b i = s.unit b i :=
  State.getF_setF_ne v (regKey_ne_of_addr h.symm)

theorem State.getF_setUnit (f : Fld) (st : Nat) (h : f.addr ≠ hdrAddr b 0x0C) : (s.setUnit b i st).getF f i = s.getF f i :=
  (RegsSame.refl s).setUnit (K := fun k => k = regKey f.addr i 0) (regKey_ne_of_addr h.symm) |>.getF rfl

theorem State.getF_setBack (f : Fld) (h : f.addr ≠ hdrAddr b 0x0C) : (s.setBack b i).getF f i = s.getF f i :=
  State.getF_setUnit f _ h

/-- A stack under reset trains from the start. -/
theorem State.resetBegin_stk (hs : s.Canonical) :
    (s.resetBegin .stk i).unit .stk i = 6 ∧ (s.resetBegin .stk i).getF F.STK_TRAIN_PHASE i = 0 := by
  have gone : ((s.resetMarked .stk i).stackGone i St.stackUnavailable).Canonical :=
    State.stackGone_keeps canonical_stable (State.canonical_resetMarked hs .stk i)
  have begun : s.resetBegin .stk i =
      (((s.resetMarked .stk i).stackGone i St.stackUnavailable).setUnit .stk i 6).setF F.STK_TRAIN_PHASE 0 i := rfl
  rw [begun, State.unit_setF _ _ (by decide), State.unit_setUnit gone.1,
    State.getF_setF_same (State.setUnit_keeps canonical_stable.toStable gone).1 trainPhase_fits]
  exact ⟨rfl, rfl⟩

/-- A Footing channel under reset restarts, and the store keeps what it holds. -/
theorem State.resetBegin_ftg (hs : s.Canonical) :
    (s.resetBegin .ftg i).unit .ftg i = 6 ∧ (s.resetBegin .ftg i).getF F.FTG_CH_STATE_STATE i = 1 ∧ (s.resetBegin .ftg i).ftg = s.ftg := by
  have wf := (State.canonical_resetMarked hs .ftg i).1
  have begun : s.resetBegin .ftg i = ((s.resetMarked .ftg i).setF F.FTG_CH_STATE_STATE 1 i).setUnit .ftg i 6 := rfl
  rw [begun, State.unit_setUnit (State.regsWf_setF wf _ _ _ _), State.getF_setUnit _ _ (by decide), State.getF_setF_same wf chState_fits,
    State.setUnit_ftg, State.setF_ftg, (State.resetMarked_frame (by decide)).2.2]
  exact ⟨rfl, rfl, rfl⟩

/-! ## The end of a reset -/

theorem find_code (b : Blk) : (Blk.all.find? fun x => x.code = b.code) = some b := by cases b <;> rfl

/-- R448: what answers the end of a reset. -/
theorem exec_componentResetDone (pass : Bool) (htakes : takesReset b = true) : exec (.componentResetDone b.code i pass) s =
    .next (if s.resetting b i then s.resetEnd b i pass else s) := by
  show execComponentResetDone b.code i pass s = _
  rw [execComponentResetDone, find_code]
  dsimp only
  rw [htakes, Bool.and_true]
  split
  · rfl
  · rfl

/-- The reset of a unit no longer reads as under way. -/
def State.resetCleared (s : State) (b : Blk) (i : Nat) : State := s.setFlag (hdrF b 0x08 31 31) false i

theorem State.canonical_resetCleared (hs : s.Canonical) (b : Blk) (i : Nat) : (s.resetCleared b i).Canonical :=
  State.setFlag_keeps canonical_stable.toStable hs

/-- `BLK_CTRL` of the unit reads as after the reset bit was cleared. -/
abbrev CtrlCleared (b : Blk) (i : Nat) (s t : State) : Prop := RegsSame (fun k => k = regKey (hdrAddr b 0x08) i 0) (s.resetCleared b i) t

theorem CtrlCleared.resetting (hs : s.RegsWf) (h : CtrlCleared b i s t) : t.resetting b i = false :=
  (h.flag (f := hdrF b 0x08 31 31) rfl).trans (State.flag_setFlag_same hs (resetBit_fits b) false i 0)

theorem CtrlCleared.quiesced (hs : s.RegsWf) (h : CtrlCleared b i s t) : t.quiesced b i = s.quiesced b i :=
  (h.flag (f := hdrF b 0x08 0 0) rfl).trans (State.flag_setFlag_apart (f := hdrF b 0x08 31 31) (g := hdrF b 0x08 0 0) hs (resetBit_fits b)
    (hdrF_fits b 0x08 (by decide) (by decide)) rfl (.inl (show 0 < 31 by decide)) false 0)

/-- R448: a unit that comes back reads ready, or quiesced while its `QUIESCE` is 1. -/
theorem CtrlCleared.setBack (hs : s.RegsWf) (h : CtrlCleared b i s t) (ht : t.RegsWf) :
    (t.setBack b i).resetting b i = false ∧ (t.setBack b i).unit b i = (if s.quiesced b i then 4 else 3) := by
  have after : CtrlCleared b i s (t.setBack b i) := h.setUnit (hdrKey_ne (by decide))
  refine ⟨after.resetting hs, ?_⟩
  rw [State.setBack, State.unit_setUnit ht, h.quiesced hs]
  split
  · rfl
  · rfl

/-- A unit that failed is absent. -/
theorem CtrlCleared.absent (hs : s.RegsWf) (h : CtrlCleared b i s t) (ht : t.RegsWf) :
    (t.setUnit b i 1).resetting b i = false ∧ (t.setUnit b i 1).unit b i = 1 :=
  ⟨CtrlCleared.resetting hs (h.setUnit (hdrKey_ne (by decide))), State.unit_setUnit ht b i 1⟩

/-! ### Hod engines -/

/-- A Hod engine without its faults. -/
def State.hodCleared (s : State) (i : Nat) : State :=
  (((s.setReg A.HOD_FAULT 0 i).setReg A.HOD_FAULT_PAGE 0 i).setReg A.HOD_FAULT_LOC 0 i).setFlag F.HOD_CUR_SEQ_VALID false i

theorem State.regsWf_hodCleared (hs : s.RegsWf) : (s.hodCleared i).RegsWf :=
  State.regsWf_setFlag (State.regsWf_setReg (State.regsWf_setReg (State.regsWf_setReg hs _ _ _ _) _ _ _ _) _ _ _ _) _ _ _

theorem State.hodCleared_only : RegsOnly s (s.hodCleared i) := (RegsOnly.refl s).setReg.setReg.setReg.setFlag

theorem State.hodCleared_fault (hs : s.RegsWf) : (s.hodCleared i).reg A.HOD_FAULT i = 0#32 := by
  have later : RegsSame (fun k => k = regKey A.HOD_FAULT i 0) (s.setReg A.HOD_FAULT 0 i) (s.hodCleared i) := by
    unfold State.hodCleared
    refine RegsSame.setFlag (RegsSame.setReg (RegsSame.setReg (RegsSame.refl _) ?_) ?_) ?_
    all_goals exact regKey_ne_of_addr (by decide)
  rw [later.reg rfl, State.reg_setReg_same hs]
  rfl

theorem CtrlCleared.hod : CtrlCleared .hod i s ((s.resetCleared .hod i).hodCleared i) := by
  unfold State.hodCleared
  refine RegsSame.setFlag (RegsSame.setReg (RegsSame.setReg (RegsSame.setReg (RegsSame.refl _) ?_) ?_) ?_) ?_
  all_goals exact regKey_ne_of_addr (by decide)

theorem State.resetEnd_hod_frame (hs : s.RegsWf) (pass : Bool) : (s.resetEnd .hod i pass).resetting .hod i = false
    ∧ (s.resetEnd .hod i pass).unit .hod i = (if s.quiesced .hod i then 4 else 3)
    ∧ (s.resetEnd .hod i pass).reg A.HOD_FAULT i = 0#32 ∧ UnitsOnly s (s.resetEnd .hod i pass) := by
  have wf : (s.resetCleared .hod i).RegsWf := State.regsWf_setFlag hs _ _ _
  obtain ⟨done, unit⟩ := CtrlCleared.setBack hs CtrlCleared.hod (State.regsWf_hodCleared wf)
  have fault : RegsSame (fun k => k = regKey A.HOD_FAULT i 0) ((s.resetCleared .hod i).hodCleared i) (s.resetEnd .hod i pass) :=
    (RegsSame.refl _).setUnit (regKey_ne_of_addr (by decide))
  have only : RegsOnly s ((s.resetCleared .hod i).hodCleared i) := (RegsOnly.refl s).setFlag.trans State.hodCleared_only
  exact ⟨done, unit, (fault.reg rfl).trans (State.hodCleared_fault wf), only.unitsOnly.setUnit _ _ _⟩

/-! ### Stacks and Footing channels -/

/-- R45: an error recorded shows its cause, where no host source carries its interrupt too. -/
theorem State.bit_err (hs : s.RegsWf) {cause : Nat} (hb : errSource b i = none) (hc : cause < 31) :
    (s.err b i cause).bit (hdrF b 0x10 30 0) cause i = true := by
  have fits : (hdrF b 0x10 30 0).Fits := hdrF_fits b 0x10 (by decide) (by decide)
  have first : (s.setBit (hdrF b 0x10 30 0) cause true i).bit (hdrF b 0x10 30 0) cause i = true := by
    rw [State.bit_setBit hs fits (show cause < (hdrF b 0x10 30 0).width from hc), if_pos rfl]
  have overflow : ∀ x, ((s.setBit (hdrF b 0x10 30 0) cause true i).setFlag (hdrF b 0x10 31 31) x i).bit (hdrF b 0x10 30 0) cause i = true := by
    intro x
    have apart := State.getF_setF_apart (f := hdrF b 0x10 31 31) (g := hdrF b 0x10 30 0)
      (State.regsWf_setF hs (hdrF b 0x10 30 0) (nsetBit (s.getF (hdrF b 0x10 30 0) i) cause true) i 0)
      (hdrF_fits b 0x10 (by decide) (by decide)) fits rfl (.inl (show 30 < 31 by decide)) (if x then 1 else 0) i 0
    exact (congrArg (nbit · cause) apart).trans first
  unfold State.err
  extract_lets was valid s1 s2
  have recorded : s2.bit (hdrF b 0x10 30 0) cause i = true := by
    unfold s2
    split
    · exact overflow true
    · exact first
  split
  · obtain ⟨tr, out, e⟩ := s2.errIrq_only cause hb
    rw [e]
    exact recorded
  · exact recorded

theorem CtrlCleared.err (h : CtrlCleared b i s t) {cause : Nat} (hb : errSource b i = none) : CtrlCleared b i s (t.err b i cause) :=
  RegsSame.err h hb (hdrKey_ne (by decide))

theorem CtrlCleared.setF (h : CtrlCleared b i s t) {f : Fld} {v : Nat} (ha : f.addr ≠ hdrAddr b 0x08) : CtrlCleared b i s (t.setF f v i) :=
  RegsSame.setF h (regKey_ne_of_addr ha)

theorem State.resetEnd_stk_pass : s.resetEnd .stk i true = ((((s.resetCleared .stk i).fillStack i).setF F.STK_TRAIN_PHASE 4 i).setBack
    .stk i).wantReloads ((s.resetCleared .stk i).hashedIn i) := rfl

theorem State.resetEnd_stk_pass_frame (hs : s.Canonical) : (s.resetEnd .stk i true).resetting .stk i = false
    ∧ (s.resetEnd .stk i true).unit .stk i = (if s.quiesced .stk i then 4 else 3)
    ∧ (s.resetEnd .stk i true).getF F.STK_TRAIN_PHASE i = 4 := by
  have filled : CtrlCleared .stk i s ((s.resetCleared .stk i).fillStack i) := RegsSame.of_regs (RegsSame.refl _) rfl
  have wf : ((s.resetCleared .stk i).fillStack i).RegsWf := (State.canonical_resetCleared hs .stk i).1
  obtain ⟨done, unit⟩ := CtrlCleared.setBack hs.1 (filled.setF (f := F.STK_TRAIN_PHASE) (v := 4) (by decide)) (State.regsWf_setF wf _ _ _ _)
  have phase := (State.getF_setBack (b := .stk) F.STK_TRAIN_PHASE (by decide)).trans (State.getF_setF_same wf trainPhase_fits 4 i 0)
  rw [State.resetEnd_stk_pass]
  generalize (((s.resetCleared .stk i).fillStack i).setF F.STK_TRAIN_PHASE 4 i).setBack .stk i = u at done unit phase
  have same : RegsSame (fun _ => True) u (u.wantReloads ((s.resetCleared .stk i).hashedIn i)) := RegsSame.of_regs (RegsSame.refl u) rfl
  exact ⟨(same.flag (f := hdrF .stk 0x08 31 31) trivial).trans done, (same.getF (f := hdrF .stk 0x0C 31 28) trivial).trans unit,
    (same.getF trivial).trans phase⟩

theorem State.resetEnd_stk_fail : s.resetEnd .stk i false =
    (((s.resetCleared .stk i).setF F.STK_TRAIN_PHASE 5 i).setUnit .stk i 1).err .stk i 2 := by
  simp only [State.resetEnd, State.resetCleared, Bool.not_false, if_true]

theorem State.resetEnd_stk_fail_frame (hs : s.Canonical) : (s.resetEnd .stk i false).resetting .stk i = false
    ∧ (s.resetEnd .stk i false).unit .stk i = 1 ∧ (s.resetEnd .stk i false).getF F.STK_TRAIN_PHASE i = 5
    ∧ (s.resetEnd .stk i false).bit (hdrF .stk 0x10 30 0) 2 i = true ∧ (s.resetEnd .stk i false).mem = s.mem := by
  have wf := (State.canonical_resetCleared hs .stk i).1
  have phased : CtrlCleared .stk i s ((s.resetCleared .stk i).setF F.STK_TRAIN_PHASE 5 i) :=
    CtrlCleared.setF (RegsSame.refl _) (by decide)
  obtain ⟨-, unit⟩ := phased.absent hs.1 (State.regsWf_setF wf _ _ _ _)
  have ended : CtrlCleared .stk i s (((s.resetCleared .stk i).setF F.STK_TRAIN_PHASE 5 i).setUnit .stk i 1) :=
    phased.setUnit (hdrKey_ne (by decide))
  have phase : (((s.resetCleared .stk i).setF F.STK_TRAIN_PHASE 5 i).setUnit .stk i 1).getF F.STK_TRAIN_PHASE i = 5 := by
    rw [State.getF_setUnit _ _ (by decide), State.getF_setF_same wf trainPhase_fits]
    rfl
  have mem : (((s.resetCleared .stk i).setF F.STK_TRAIN_PHASE 5 i).setUnit .stk i 1).mem = s.mem := by simp [State.resetCleared]
  have uwf : (((s.resetCleared .stk i).setF F.STK_TRAIN_PHASE 5 i).setUnit .stk i 1).RegsWf :=
    (State.setUnit_keeps canonical_stable.toStable (State.setF_keeps canonical_stable.toStable (State.canonical_resetCleared hs .stk i))).1
  rw [State.resetEnd_stk_fail]
  generalize ((s.resetCleared .stk i).setF F.STK_TRAIN_PHASE 5 i).setUnit .stk i 1 = u at *
  obtain ⟨⟨x, tr, out, e⟩, same⟩ := u.err_only (b := .stk) (i := i) 2 rfl
  have unitSame := same (fun k => k = regKey (hdrAddr .stk 0x0C) i 0) (hdrKey_ne (by decide))
  have phaseSame := same (fun k => k = regKey F.STK_TRAIN_PHASE.addr i 0) (regKey_ne_of_addr (by decide))
  exact ⟨(ended.err rfl).resetting hs.1, (unitSame.getF (f := hdrF .stk 0x0C 31 28) rfl).trans unit, (phaseSame.getF rfl).trans phase,
    State.bit_err uwf rfl (by decide), by rw [e]; exact mem⟩

theorem State.resetEnd_ftg (pass : Bool) : s.resetEnd .ftg i pass =
    ((s.resetCleared .ftg i).setF F.FTG_CH_STATE_STATE (if pass then 2 else 3) i).setUnit .ftg i (if pass then 3 else 1) := rfl

theorem State.resetEnd_ftg_frame (hs : s.Canonical) (pass : Bool) : (s.resetEnd .ftg i pass).resetting .ftg i = false
    ∧ (s.resetEnd .ftg i pass).getF F.FTG_CH_STATE_STATE i = (if pass then 2 else 3)
    ∧ (s.resetEnd .ftg i pass).unit .ftg i = (if pass then 3 else 1) ∧ (s.resetEnd .ftg i pass).ftg = s.ftg := by
  have wf := (State.canonical_resetCleared hs .ftg i).1
  have channel : CtrlCleared .ftg i s ((s.resetCleared .ftg i).setF F.FTG_CH_STATE_STATE (if pass then 2 else 3) i) :=
    CtrlCleared.setF (RegsSame.refl _) (by decide)
  have ended : CtrlCleared .ftg i s (s.resetEnd .ftg i pass) := channel.setUnit (hdrKey_ne (by decide))
  refine ⟨ended.resetting hs.1, ?_, ?_, ?_⟩
  · rw [State.resetEnd_ftg, State.getF_setUnit _ _ (by decide), State.getF_setF_same wf chState_fits]
    cases pass
    · rfl
    · rfl
  · rw [State.resetEnd_ftg, State.unit_setUnit (State.regsWf_setF wf _ _ _ _)]
    cases pass
    · rfl
    · rfl
  · rw [State.resetEnd_ftg, State.setUnit_ftg, State.setF_ftg, State.resetCleared, State.setFlag_ftg]

/-! ### Bricks -/

theorem State.byte_fillZero {a n x : Nat} (h : x < a ∨ a + n ≤ x) : (s.fillZero a n).byte x = s.byte x :=
  smGet_filter_of_pos fun v => by simpa using h

/-- A range of whole words filled with zero words reads zero. -/
theorem State.okByte_fillZero {a n x : Nat} (ha : a % 8 = 0) (hn : n % 8 = 0) (hlo : a ≤ x) (hhi : x < a + n) :
    (s.fillZero a n).okByte x = 0#8 := by
  have synd : smGet syndDefault (s.fillZero a n).synd (x / 8) = 0#8 :=
    smGet_filter_of_neg (d := syndDefault) fun v => by simp only [Bool.or_eq_false_iff, decide_eq_false_iff_not]; omega
  have byte : (s.fillZero a n).byte x = 0#8 :=
    smGet_filter_of_neg (d := memDefault) fun v => by simp only [Bool.or_eq_false_iff, decide_eq_false_iff_not]; omega
  have clean : (s.fillZero a n).ecc x = .clean := by
    rw [State.ecc, State.syndOf, synd]
    rfl
  rw [State.okByte, clean, byte]

theorem State.okByte_congr (hm : t.mem = s.mem) (hs : t.synd = s.synd) (a : Nat) : t.okByte a = s.okByte a := by
  simp only [State.okByte, State.ecc, State.syndOf, State.byte, hm, hs]

theorem regsWf_stable : Stable State.RegsWf where
  reg h k v := smWf_smSet k v h
  clr h p := smWf_filter p h
  rest h := by intros; exact h
  dev h := by intros; exact h

/-- A brick cleared, with no clearing of it left to end (R131). -/
def State.brickCleared (s : State) (i : Nat) : State :=
  { s.clearBrick i with pt := { (s.clearBrick i).pt with clearing := (s.clearBrick i).pt.clearing.filter (· ≠ i) } }

theorem State.brickCleared_frame (s : State) (i : Nat) : (s.brickCleared i).regs = s.regs
    ∧ (s.brickCleared i).mem = (s.fillZero (bedAddr i 0) (2 ^ 19)).mem ∧ (s.brickCleared i).synd = (s.fillZero (bedAddr i 0) (2 ^ 19)).synd
    ∧ (s.brickCleared i).br = smSet (fun _ => {}) s.br i { clk := (s.brick i).clk } :=
  ⟨rfl, rfl, rfl, rfl⟩

theorem CtrlCleared.brk : CtrlCleared .brk i s ((s.resetCleared .brk i).brickCleared i) :=
  RegsSame.of_regs (RegsSame.refl _) (State.brickCleared_frame _ i).1

theorem State.regsWf_brickCleared (hs : s.Canonical) : ((s.resetCleared .brk i).brickCleared i).RegsWf := by
  rw [State.RegsWf, (State.brickCleared_frame _ i).1]
  exact (State.canonical_resetCleared hs .brk i).1

/-- A brick that passes comes back with nothing in it. -/
theorem State.resetEnd_brk_pass_frame (hs : s.Canonical) (hbr : smSorted s.br = true) :
    (s.resetEnd .brk i true).resetting .brk i = false ∧ (s.resetEnd .brk i true).unit .brk i = (if s.quiesced .brk i then 4 else 3)
      ∧ (s.resetEnd .brk i true).brick i = { clk := (s.brick i).clk }
      ∧ (∀ a, bedAddr i 0 ≤ a → a < bedAddr i 0 + 2 ^ 19 → (s.resetEnd .brk i true).okByte a = 0#8)
      ∧ ∀ a, (a < bedAddr i 0 ∨ bedAddr i 0 + 2 ^ 19 ≤ a) → (s.resetEnd .brk i true).byte a = s.byte a := by
  obtain ⟨done, unit⟩ := CtrlCleared.brk.setBack hs.1 (State.regsWf_brickCleared hs)
  obtain ⟨-, mem, synd, br⟩ := State.brickCleared_frame (s.resetCleared .brk i) i
  have old : (s.resetCleared .brk i).br = s.br ∧ (s.resetCleared .brk i).mem = s.mem := by simp [State.resetCleared]
  have brick : (s.resetCleared .brk i).brick i = s.brick i := by rw [State.brick, old.1, State.brick]
  have mem' : (s.resetEnd .brk i true).mem = _ := (State.setUnit_mem _ _ _ _).trans mem
  have synd' : (s.resetEnd .brk i true).synd = _ := (State.setUnit_synd _ _ _ _).trans synd
  have br' : (s.resetEnd .brk i true).br = _ := (State.setUnit_br _ _ _ _).trans br
  refine ⟨done, unit, ?_, fun a hlo hhi => ?_, fun a ha => ?_⟩
  · rw [State.brick, br', old.1, smGet_smSet_same hbr, brick]
  · rw [State.okByte_congr mem' synd']
    exact State.okByte_fillZero (by unfold bedAddr bedBase; omega) (by decide) hlo hhi
  · rw [State.byte, mem']
    exact (State.byte_fillZero ha).trans (by rw [State.byte, old.2, State.byte])

/-- A brick is retired: it joins the retired bricks and is absent. -/
theorem State.retireBrick_eq (s : State) (i : Nat) : ∃ u : State, s.retireBrick i = u.setUnit .brk i 1 ∧ u.regs = s.regs ∧ i ∈ u.bm.retired := by
  unfold State.retireBrick
  extract_lets m u
  have regs : u.regs = s.regs := by
    unfold u
    split
    · rfl
    · rfl
  exact ⟨u.retirePhys i, rfl, regs, by simp [State.retirePhys]⟩

theorem State.resetEnd_brk_fail : s.resetEnd .brk i false = (((s.resetCleared .brk i).brickCleared i).err .brk i 5).retireBrick i := by
  simp only [State.resetEnd, Bool.false_eq_true, if_false]
  rfl

/-- A brick that fails is retired. -/
theorem State.resetEnd_brk_fail_frame (hs : s.Canonical) : (s.resetEnd .brk i false).resetting .brk i = false
    ∧ (s.resetEnd .brk i false).unit .brk i = 1 ∧ i ∈ (s.resetEnd .brk i false).bm.retired := by
  obtain ⟨u, retired, regs, hmem⟩ := State.retireBrick_eq (((s.resetCleared .brk i).brickCleared i).err .brk i 5) i
  have cleared : CtrlCleared .brk i s u := RegsSame.of_regs (CtrlCleared.brk.err rfl) regs
  have wf : u.RegsWf := by
    rw [State.RegsWf, regs]
    exact State.err_keeps regsWf_stable (State.regsWf_brickCleared hs)
  obtain ⟨done, unit⟩ := cleared.absent hs.1 wf
  rw [State.resetEnd_brk_fail, retired]
  exact ⟨done, unit, by simpa using hmem⟩

/-! ### Slabs -/

/-- The keys below the first of the regulators' wait counters. -/
def BelowWaits (k : Nat) : Prop := k < regKey A.PRT_RG_WAIT_STK 0 0

theorem belowWaits_yrd (hi : i < 0x4000) {off : Nat} (ho : off < 0x40) : BelowWaits (regKey (hdrAddr .yrd off) i 0) := by
  have addr : hdrAddr .yrd off = 0x110000 + off := rfl
  unfold BelowWaits regKey A.PRT_RG_WAIT_STK
  omega

/-- What moving bytes costs is kept by the regulators and counted in their registers (R279). -/
theorem State.moved_frame (s : State) (p n : Nat) : (s.moved .none p 0 n).mem = s.mem ∧ (s.moved .none p 0 n).synd = s.synd
    ∧ (s.moved .none p 0 n).yd = s.yd ∧ RegsSame BelowWaits s (s.moved .none p 0 n) := by
  unfold State.moved
  extract_lets x u
  have paid : x.2.mem = s.mem ∧ x.2.synd = s.synd ∧ x.2.yd = s.yd ∧ RegsSame BelowWaits s x.2 :=
    ⟨rfl, rfl, rfl, RegsSame.of_regs (RegsSame.refl s) rfl⟩
  obtain ⟨mem, synd, yd, same⟩ := paid
  clear_value x
  split
  · exact ⟨mem, synd, yd, same⟩
  · have counted : RegsSame BelowWaits s u := same.bump (by
      show ¬ regKey A.PRT_RG_WAIT_STK p 0 < regKey A.PRT_RG_WAIT_STK 0 0
      unfold regKey
      omega)
    have kept : u.mem = s.mem ∧ u.synd = s.synd ∧ u.yd = s.yd :=
      ⟨(State.bump_mem ..).trans mem, (State.bump_synd ..).trans synd, (State.bump_yd ..).trans yd⟩
    obtain ⟨umem, usynd, uyd⟩ := kept
    clear_value u
    exact ⟨umem, usynd, uyd, counted.of_regs rfl⟩

/-- The lines `ls` have left the Yard, and with them only what that costs has changed. -/
def LinesGone (ls : List YLine) (s t : State) : Prop :=
  t.mem = s.mem ∧ t.synd = s.synd ∧ RegsSame BelowWaits s t ∧ ∀ y ∈ t.yd.lines, y ∈ s.yd.lines ∧ ∀ x ∈ ls, y.line ≠ x.line

/-- A line whose copy is clean leaves the Yard (R253). -/
theorem State.lineOut_gone (s : State) {x : YLine} (hx : x.errs = []) : LinesGone [x] s (s.lineOut x) := by
  unfold State.lineOut
  extract_lets d t
  have gone : LinesGone [x] s t := by
    refine ⟨rfl, rfl, RegsSame.of_regs (RegsSame.refl s) rfl, fun y hy => ?_⟩
    simpa [t, d] using hy
  rw [hx]
  split
  · exact gone
  · obtain ⟨mem, synd, same, lines⟩ := gone
    obtain ⟨mem', synd', yd, same'⟩ := t.moved_frame x.part 64
    exact ⟨mem'.trans mem, synd'.trans synd, same.trans same', fun y hy => lines y (yd ▸ hy)⟩

theorem State.foldl_lineOut_gone {ls : List YLine} (h : ∀ x ∈ ls, x.errs = []) (s : State) : LinesGone ls s (ls.foldl State.lineOut s) := by
  induction ls generalizing s with
  | nil => exact ⟨rfl, rfl, RegsSame.refl s, fun y hy => ⟨hy, by simp⟩⟩
  | cons x ls ih =>
    obtain ⟨mem, synd, same, lines⟩ := s.lineOut_gone (h x (by simp))
    obtain ⟨mem', synd', same', lines'⟩ := ih (fun y hy => h y (List.mem_cons_of_mem _ hy)) (s.lineOut x)
    refine ⟨mem'.trans mem, synd'.trans synd, same.trans same', fun y hy => ?_⟩
    obtain ⟨hy', others⟩ := lines' y hy
    obtain ⟨hy'', first⟩ := lines y hy'
    exact ⟨hy'', List.forall_mem_cons.2 ⟨first x (by simp), others⟩⟩

/-- A logical slab gives up its lines. -/
def State.slabOut (s : State) (l : Nat) : State := (s.yd.lines.filter fun x => x.slab = l).foldl State.lineOut s

theorem State.slabOut_gone {l : Nat} (h : ∀ x ∈ s.yd.lines, x.errs = []) :
    (s.slabOut l).mem = s.mem ∧ (s.slabOut l).synd = s.synd ∧ RegsSame BelowWaits s (s.slabOut l)
      ∧ ∀ y ∈ (s.slabOut l).yd.lines, y.slab ≠ l := by
  obtain ⟨mem, synd, same, lines⟩ := State.foldl_lineOut_gone (ls := s.yd.lines.filter fun x => x.slab = l)
    (fun x hx => h x (List.mem_of_mem_filter hx)) s
  refine ⟨mem, synd, same, fun y hy hslab => ?_⟩
  obtain ⟨hmem, others⟩ := lines y hy
  exact others y (List.mem_filter.2 ⟨hmem, by simpa using hslab⟩) rfl

theorem State.canonical_slabOut (hs : s.Canonical) (l : Nat) : (s.slabOut l).Canonical :=
  keep_foldl hs fun _ _ h => State.lineOut_keeps canonical_stable h

section
variable {l : Nat} (hl : l < 48) (hphys : s.physSlab l = i) (honly : ∀ m, m < 48 → s.physSlab m = i → m = l)
include hl hphys honly

/-- The logical slab that the physical slab `i` serves. -/
theorem State.find_slab : ((List.range 48).find? fun m => (s.resetCleared .yrd i).physSlab m = i) = some l := by
  have phys : ∀ m, (s.resetCleared .yrd i).physSlab m = s.physSlab m := by
    intro m
    simp [State.physSlab, State.resetCleared]
  simp only [phys]
  cases hf : (List.range 48).find? fun m => s.physSlab m = i with
  | none =>
    have := List.find?_eq_none.1 hf l (List.mem_range.2 hl)
    simp [hphys] at this
  | some m =>
    have found : s.physSlab m = i := by simpa using List.find?_some hf
    rw [honly m (List.mem_range.1 (List.mem_of_find?_eq_some hf)) found]

theorem State.resetEnd_yrd (pass : Bool) : s.resetEnd .yrd i pass =
    if pass then ((s.resetCleared .yrd i).slabOut l).setBack .yrd i
    else (((s.resetCleared .yrd i).slabOut l).err .yrd i 2).setUnit .yrd i 1 := by
  have found := State.find_slab hl hphys honly
  unfold State.resetCleared at found
  simp only [State.resetEnd, found]
  rfl

end

/-- A slab comes back without cached lines, or is absent with its error. -/
theorem State.slabOut_ended (hs : s.Canonical) (hi : i < 0x4000) {l : Nat} (herrs : ∀ x ∈ s.yd.lines, x.errs = []) :
    CtrlCleared .yrd i s ((s.resetCleared .yrd i).slabOut l) ∧ ((s.resetCleared .yrd i).slabOut l).Canonical
      ∧ ((s.resetCleared .yrd i).slabOut l).mem = s.mem ∧ ((s.resetCleared .yrd i).slabOut l).synd = s.synd
      ∧ ∀ y ∈ ((s.resetCleared .yrd i).slabOut l).yd.lines, y.slab ≠ l := by
  have old : (s.resetCleared .yrd i).mem = s.mem ∧ (s.resetCleared .yrd i).synd = s.synd ∧ (s.resetCleared .yrd i).yd = s.yd := by
    simp [State.resetCleared]
  obtain ⟨mem, synd, yd⟩ := old
  obtain ⟨mem', synd', same, lines⟩ := State.slabOut_gone (s := s.resetCleared .yrd i) (l := l) (by rw [yd]; exact herrs)
  exact ⟨same.mono fun k hk => hk ▸ belowWaits_yrd hi (by decide), State.canonical_slabOut (State.canonical_resetCleared hs .yrd i) l,
    mem'.trans mem, synd'.trans synd, lines⟩

end

/-- Settles O12: the start of a reset by the write that asks for it, its start and end by what each block's operation writes. -/
theorem componentResets : Obligations.ComponentResets := by
  refine ⟨?_, ?_, ?_, ?_, ?_, ?_, ?_, ?_, ?_, ?_⟩
  · intro s req page b i hs hg hw hb hi hlt htakes hpres hq hre hst hfree hstk
    exact exec_compReset hs hg hw hb hi hlt htakes hpres hq hre hst hfree hstk
  · exact fun s b i hs _ hb => State.resetBegin_restarts_frame hs hb
  · exact fun s i hs _ => State.resetBegin_stk hs
  · exact fun s i hs _ => State.resetBegin_ftg hs
  · intro s b i pass htakes hre
    rw [exec_componentResetDone pass htakes, hre]
    rfl
  · intro s i hs _ hre
    obtain ⟨done, unit, fault, only⟩ := State.resetEnd_hod_frame (i := i) hs.1 true
    exact ⟨_, (exec_componentResetDone true rfl).trans (by rw [if_pos hre]), done, unit, fault, only.eq⟩
  · intro s i l hs hi hre hl hphys honly herrs
    have small : i < 0x4000 := hi.trans (by decide)
    obtain ⟨cleared, canon, mem, synd, lines⟩ := State.slabOut_ended (l := l) hs small herrs
    have ended := fun pass => (exec_componentResetDone (s := s) (i := i) (b := .yrd) pass rfl).trans
      (by rw [if_pos hre, State.resetEnd_yrd hl hphys honly])
    constructor
    · obtain ⟨done, unit⟩ := cleared.setBack hs.1 canon.1
      refine ⟨_, ended true, done, unit, ?_, (State.setUnit_mem ..).trans mem, (State.setUnit_synd ..).trans synd⟩
      intro x hx
      exact lines x (by simpa [State.setBack] using hx)
    · have wf := (State.err_keeps (a1 := .yrd) (a2 := i) (a3 := 2) (a4 := none) canonical_stable.toStable canon).1
      obtain ⟨done, unit⟩ := (cleared.err (cause := 2) rfl).absent hs.1 wf
      refine ⟨_, ended false, done, unit, ?_⟩
      have same : RegsSame (fun k => k = regKey (hdrAddr .yrd 0x10) i 0) (((s.resetCleared .yrd i).slabOut l).err .yrd i 2) _ :=
        (RegsSame.refl _).setUnit (b := .yrd) (i := i) (st := 1) (hdrKey_ne (by decide))
      exact (same.bit (f := hdrF .yrd 0x10 30 0) rfl).trans (State.bit_err canon.1 rfl (by decide))
  · intro s i hs hbr _ hre
    exact ⟨⟨_, (exec_componentResetDone true rfl).trans (by rw [if_pos hre]), State.resetEnd_brk_pass_frame hs hbr⟩,
      ⟨_, (exec_componentResetDone false rfl).trans (by rw [if_pos hre]), State.resetEnd_brk_fail_frame hs⟩⟩
  · intro s i hs _ hre
    exact ⟨⟨_, (exec_componentResetDone true rfl).trans (by rw [if_pos hre]), State.resetEnd_stk_pass_frame hs⟩,
      ⟨_, (exec_componentResetDone false rfl).trans (by rw [if_pos hre]), State.resetEnd_stk_fail_frame hs⟩⟩
  · intro s i pass hs _ hre
    exact ⟨_, (exec_componentResetDone pass rfl).trans (by rw [if_pos hre]), State.resetEnd_ftg_frame hs pass⟩

end Sys2Proof.Machine

/-! SUPPORT. Registers of the tables beyond the header (Tables 2-1, 3-12, 3-16): which copy an access reaches, and what a write of a
stack's register does; the obligations about the entry window and about the compute-timing registers. -/

namespace Sys2Proof.Machine

section
variable {s u : State} {r : Requester} {b : Blk} {row : RegRow} {addr i v : Nat}

/-! ## Which copy an access reaches -/

/-- A write of a register beyond the header goes to its row. -/
theorem State.putReg_of_row (hb : blkOfPage (addr / 0x1000) = some b) (ho : 0x40 ≤ addr % 0x1000) (hr : rowOf addr = some row)
    (hi : s.instOf b (addr / 0x1000) r = some i) : s.putReg r addr v = s.rowWrite r (addr / 0x1000) i row addr v := by
  simp only [State.putReg, hb, hr, hi]
  rw [if_neg (by omega), if_neg (by omega)]

/-- A register of which the index register names no copy ignores writes. -/
theorem State.rowWrite_of_noCopy {page : Nat} (hc : s.copyOf r i row.dim = none) : s.rowWrite r page i row addr v = (0, s) := by
  simp only [State.rowWrite, hc]
  rfl

/-- A register of which the index register names no copy reads zero. -/
theorem State.shown_of_noCopy (hb : blkOfPage (addr / 0x1000) = some b) (ho : 0x40 ≤ addr % 0x1000) (hr : rowOf addr = some row)
    (hi : s.instOf b (addr / 0x1000) r = some i) (hc : s.copyOf r i row.dim = none) : s.shown r addr = 0 := by
  simp only [State.shown, hb, hr, hi, hc]
  rw [if_neg (by omega)]

/-! ## The entry window (R94) -/

/-- The entry window shows no copy past the granules of the grade. -/
theorem State.copyOf_granule_of_absent (h : s.granules ≤ s.getF F.REG_INDEX_GRANULE 0 (reqCode r)) :
    s.copyOf r i .granule = none :=
  if_neg (Nat.not_lt.mpr h)

/-- A register of the entry window past the granules of the grade reads zero and ignores writes. -/
theorem State.entryWindow_of_absent (hb : blkOfPage (addr / 0x1000) = some .reg) (ho : 0x40 ≤ addr % 0x1000)
    (hd : (rowOf addr).map RegRow.dim = some .granule) (h : s.granules ≤ s.getF F.REG_INDEX_GRANULE 0 (reqCode r)) :
    s.shown r addr = 0 ∧ (s.putReg r addr v).2 = s := by
  obtain ⟨row, hr, dim⟩ := Option.map_eq_some_iff.mp hd
  have inst : s.instOf .reg (addr / 0x1000) r = some 0 := rfl
  have copy : s.copyOf r 0 row.dim = none := dim ▸ State.copyOf_granule_of_absent h
  exact ⟨State.shown_of_noCopy hb ho hr inst copy, by rw [State.putReg_of_row hb ho hr inst, State.rowWrite_of_noCopy copy]⟩

/-! ## Writes of a stack's registers -/

/-- What a write of a stack's register stores is `writeE`'s to say. -/
theorem State.rowWrite_stk (hlo : 0x200000 ≤ addr) (hhi : addr < 0x210000) (hd : row.dim = .inst)
    (hw : mayWrite r (addr / 0x1000) = true) (he : s.writeE (fromTrowel r) addr i 0 v = some u) :
    s.rowWrite r (addr / 0x1000) i row addr v = (0, u) := by
  have other : ∀ c, c < 0x200000 → addr ≠ c := by omega
  have past : ∀ c, c ≤ 0x200000 → ¬ addr < c := by omega
  have past' : ∀ c, c < 0x200000 → ¬ addr ≤ c := by omega
  have a : ∀ x n, s.writeA x addr n i v = none := by
    intro x n
    simp (disch := decide) [State.writeA, other, past]
  have b : ∀ n, s.writeB_ r (fromTrowel r) addr n i v = none := by
    intro n
    simp (disch := decide) [State.writeB_, other, past]
  have c : s.writeC (fromTrowel r) addr i 0 v = none := by
    simp (disch := decide) [State.writeC, other, past']
  have d : ∀ n, s.writeD (fromTrowel r) addr n i v = none := by
    intro n
    simp (disch := decide) [State.writeD, other, past, past']
  have page : addr / 0x1000 ≠ 0x153 := by omega
  simp only [State.rowWrite, State.copyOf, hd, hw, a, b, c, d, he, page]
  rfl

end

/-- Settles O25: `REG_ENTRY_LO` and `REG_ENTRY_HI` have a copy for each granule of the grade and none beyond. -/
theorem absentGranulesReadZero : Obligations.AbsentGranulesReadZero := by
  intro s req v
  refine ⟨rfl, fun h => ?_⟩
  obtain ⟨low, lowKept⟩ := State.entryWindow_of_absent (addr := A.REG_ENTRY_LO) (v := v) (by decide) (by decide) (by decide) h
  obtain ⟨high, highKept⟩ := State.entryWindow_of_absent (addr := A.REG_ENTRY_HI) (v := v) (by decide) (by decide) (by decide) h
  exact ⟨low, high, lowKept, highKept⟩

end Sys2Proof.Machine

/-! SUPPORT. The compute timing rules (R70, R71, R493): what an activate that is allowed satisfies, and what a write of a
compute-timing register stores; the obligation about them. -/

namespace Sys2Proof.Machine

section
variable {s : State} {r : Requester} {bk t k st v : Nat}

/-! ## What an activate that is allowed satisfies -/

theorem le_levelCaw (l : Nat) : 40 ≤ levelCaw l := by
  unfold levelCaw
  split <;> omega

theorem le_levelCrrd (l : Nat) : 4 ≤ levelCrrd l := by
  unfold levelCrrd
  split <;> omega

theorem levelBanks_le (l : Nat) : levelBanks l ≤ 32 := by
  unfold levelBanks
  split <;> omega

theorem levelCpw_le (l : Nat) : levelCpw l ≤ 768 := by
  unfold levelCpw
  split <;> omega

/-- A longer window holds at least as many activates. -/
theorem length_filter_window_le (es : List (Nat × Nat)) (t : Nat) {m n : Nat} (h : m ≤ n) :
    (es.filter fun e => t < e.2 + m).length ≤ (es.filter fun e => t < e.2 + n).length := by
  rw [← List.countP_eq_length_filter, ← List.countP_eq_length_filter]
  refine List.countP_mono_left fun e _ he => ?_
  simp only [decide_eq_true_eq] at he ⊢
  omega

/-- The rules of the loosest level hold of every activate that is allowed. -/
theorem State.of_mayActivate (h : s.mayActivate bk t = true) :
    s.stackClamped (bk / 1024) = false
    ∧ (s.bk.acts.filter fun e => dieOf e.1 = dieOf bk && t < e.2 + 40).length < 8
    ∧ (∀ e ∈ s.bk.acts, dieOf e.1 = dieOf bk → e.1 = bk ∨ e.2 + 4 ≤ t)
    ∧ (s.bk.runs.filter fun e => dieOf e.1 = dieOf bk).length < 32
    ∧ (s.bk.acts.filter fun e => e.1 / 1024 = bk / 1024 && t < e.2 + 1000).length < 768 := by
  simp only [State.mayActivate, Bool.and_eq_true, Bool.not_eq_true', decide_eq_true_eq, List.all_eq_true, Bool.or_eq_true,
    List.mem_filter] at h
  obtain ⟨⟨⟨⟨⟨clamp, window⟩, apart⟩, banks⟩, acts⟩, -⟩ := h
  have slots := le_levelCaw (s.level (bk / 1024))
  have gap := le_levelCrrd (s.level (bk / 1024))
  have conc := levelBanks_le (s.level (bk / 1024))
  have stack := levelCpw_le (s.level (bk / 1024))
  refine ⟨clamp, ?_, fun e he hd => ?_, by omega, by omega⟩
  · have grow := length_filter_window_le (s.bk.acts.filter fun e => dieOf e.1 = dieOf bk) t
      (slots.trans (le_max_left _ (s.getF F.STK_TCAW_WINDOW_NS (bk / 1024))))
    rw [List.filter_filter] at grow
    simp only [Bool.and_comm] at grow ⊢
    omega
  · rcases apart e ⟨he, hd⟩ with same | gone
    · exact .inl same
    · exact .inr (by omega)

/-! ## What a write of a compute-timing register stores -/

theorem State.writeE_timing (x : Bool) (h : k < 5) :
    s.writeE x (A.STK_TCAW + 4 * k) st 0 v
      = some (s.setReg (A.STK_TCAW + 4 * k) (BitVec.ofNat 32 (timingValue (A.STK_TCAW + 4 * k) v)) st) := by
  have lo : (A.STK_TCAW ≤ A.STK_TCAW + 4 * k && A.STK_TCAW + 4 * k ≤ A.STK_DERATE) = true := by
    rw [Bool.and_eq_true, decide_eq_true_eq, decide_eq_true_eq]
    simp only [A.STK_TCAW, A.STK_DERATE]
    omega
  have ne : ∀ c, c < A.STK_TCAW → A.STK_TCAW + 4 * k ≠ c := by omega
  simp (disch := decide) only [State.writeE, ne, lo, if_false, if_true]

/-- A served write of a compute-timing register. -/
theorem exec_computeTimingWrite {v : Word} (hg : s.grants r (A.STK_TCAW + 4 * k)) (hw : mayWrite r 0x201 = true) (hk : k < 5)
    (hi : s.instOf .stk 0x201 r = some st) :
    exec (.computeTimingWrite r k v) s = .next
      ((s.setReg (A.STK_TCAW + 4 * k) (BitVec.ofNat 32 (timingValue (A.STK_TCAW + 4 * k) v.toNat)) st).replied r 0) := by
  have page : (A.STK_TCAW + 4 * k) / 0x1000 = 0x201 := by
    simp only [A.STK_TCAW]
    omega
  have off : 0x40 ≤ (A.STK_TCAW + 4 * k) % 0x1000 := by
    simp only [A.STK_TCAW]
    omega
  have dim : ∀ k, k < 5 → (rowOf (A.STK_TCAW + 4 * k)).map RegRow.dim = some .inst := by decide
  obtain ⟨row, hr, hd⟩ := Option.map_eq_some_iff.mp (dim k hk)
  have put := (State.putReg_of_row (v := v.toNat) (page ▸ show blkOfPage 0x201 = some .stk by decide) off hr (page.symm ▸ hi)).trans
    (State.rowWrite_stk (by simp only [A.STK_TCAW]; omega) (by simp only [A.STK_TCAW]; omega) hd (page.symm ▸ hw)
      (State.writeE_timing _ hk))
  show s.writeRun r A.STK_TCAW 5 k v.toNat = _
  rw [State.writeRun, if_pos hk]
  exact State.writeCmd_of_putReg hg (by simp only [A.STK_TCAW]; omega) v.isLt put

theorem tighter_bounds {hi : Nat} (h : 1 ≤ hi) (v : Nat) : 1 ≤ tighter hi v ∧ tighter hi v ≤ hi := by
  unfold tighter
  split <;> omega

theorem nbits_lt (n hi lo : Nat) : nbits n hi lo < 2 ^ (hi + 1 - lo) := Nat.mod_lt _ (Nat.two_pow_pos _)

/-- The values stored in the first four registers. -/
theorem timingValue_eq (v : Nat) :
    timingValue A.STK_TCAW v = max 40 (nbits v 15 8) * 256 + tighter 8 (nbits v 7 0)
    ∧ timingValue A.STK_TCRRD v = max 4 (nbits v 7 0) ∧ timingValue A.STK_CONC v = tighter 32 (nbits v 5 0)
    ∧ timingValue A.STK_TCPW v = tighter 768 (nbits v 9 0) :=
  ⟨rfl, rfl, rfl, rfl⟩

/-- The field of a register that has just been written. -/
theorem State.getF_setReg_ofNat (hs : s.RegsWf) (f : Fld) {n : Nat} (hn : n < 2 ^ 32) :
    (s.setReg f.addr (BitVec.ofNat 32 n) st).getF f st = n / 2 ^ f.lo % 2 ^ f.width := by
  rw [State.getF, State.reg_setReg_same hs, BitVec.toNat_ofNat, Nat.mod_eq_of_lt hn]

end

/-- Settles O20: each rule of the level in force is as tight as the loosest level's, and a write of a compute-timing register stores
`timingValue`, which never passes the reset values. -/
theorem timingRulesHold : Obligations.TimingRulesHold := by
  refine ⟨fun s bk t h => ?_, fun s bk t e he hd hne ht => ?_, fun s bk t h => ?_, fun s bk t h => ?_, fun s bk t h => ?_, ?_⟩
  · refine Bool.eq_false_iff.mpr fun may => ?_
    obtain ⟨-, window, -⟩ := State.of_mayActivate may
    omega
  · refine Bool.eq_false_iff.mpr fun may => ?_
    obtain ⟨-, -, apart, -⟩ := State.of_mayActivate may
    rcases apart e he hd with same | gone
    · exact hne same
    · omega
  · refine Bool.eq_false_iff.mpr fun may => ?_
    obtain ⟨-, -, -, banks, -⟩ := State.of_mayActivate may
    omega
  · refine Bool.eq_false_iff.mpr fun may => ?_
    obtain ⟨-, -, -, -, acts⟩ := State.of_mayActivate may
    omega
  · refine Bool.eq_false_iff.mpr fun may => ?_
    obtain ⟨clamp, -⟩ := State.of_mayActivate may
    exact absurd clamp (by simp [h])
  · intro s req v st k hs hg hw hk hi
    have low := nbits_lt v.toNat 7 0
    have high := nbits_lt v.toNat 15 8
    obtain ⟨caw, crrd, conc, cpw⟩ := timingValue_eq v.toNat
    have acts := tighter_bounds (hi := 8) (by decide) (nbits v.toNat 7 0)
    have banks := tighter_bounds (hi := 32) (by decide) (nbits v.toNat 5 0)
    have stack := tighter_bounds (hi := 768) (by decide) (nbits v.toNat 9 0)
    refine ⟨_, exec_computeTimingWrite hg hw hk hi, State.reg_setReg_same hs.1 _ _ _ _, ?_, ?_, ?_, ?_, ?_, rfl⟩
    · rintro rfl
      have window := State.getF_setReg_ofNat (st := st) hs.1 F.STK_TCAW_WINDOW_NS (n := timingValue A.STK_TCAW v.toNat) (by omega)
      have most := State.getF_setReg_ofNat (st := st) hs.1 F.STK_TCAW_MAX_ACT (n := timingValue A.STK_TCAW v.toNat) (by omega)
      refine ⟨window ▸ ?_, most ▸ ?_, most ▸ ?_⟩ <;> simp only [caw, Fld.width, F.STK_TCAW_WINDOW_NS, F.STK_TCAW_MAX_ACT] <;> omega
    · rintro rfl
      have ns := State.getF_setReg_ofNat (st := st) hs.1 F.STK_TCRRD_NS (n := timingValue A.STK_TCRRD v.toNat) (by omega)
      refine ns ▸ ?_
      simp only [crrd, Fld.width, F.STK_TCRRD_NS]
      omega
    · rintro rfl
      have most := State.getF_setReg_ofNat (st := st) hs.1 F.STK_CONC_BANKS (n := timingValue A.STK_CONC v.toNat) (by omega)
      refine ⟨most ▸ ?_, most ▸ ?_⟩ <;> simp only [conc, Fld.width, F.STK_CONC_BANKS] <;> omega
    · rintro rfl
      have most := State.getF_setReg_ofNat (st := st) hs.1 F.STK_TCPW_ACTS (n := timingValue A.STK_TCPW v.toNat) (by omega)
      refine ⟨most ▸ ?_, most ▸ ?_⟩ <;> simp only [cpw, Fld.width, F.STK_TCPW_ACTS] <;> omega
    · exact regsKeep_iff.mpr (((RegsSame.refl s).setReg (by simp)).replied 0)

end Sys2Proof.Machine

/-! SUPPORT. The obligation about passes, refuted: it bounds neither a stack's number nor a bank's. -/

namespace Sys2Proof.Machine

/-- A pass of 1,000 column operations, and a refresh due in it. -/
def refreshedRun : Run :=
  { pass := { kind := 1, fmt := 0, slots := 1, base := 0, cols := 1000, latchOff := 0, lanes := 1, outBase := 0, group := 0
              seq := none, own := .none }
    refresh := true }

/-- The pass runs at bank 0 of a stack whose number is past the copies that a register key has room for. -/
def strayRun : State := { bk := { runs := [(bankKey 0x4000 0, refreshedRun)] } }

theorem runAt_strayRun : strayRun.runAt (bankKey 0x4000 0) = some refreshedRun := by decide +kernel

/-- The yield point counts the refresh in the first copy at the address after that of `STK_REFCNT`. -/
theorem exec_yieldPoint_strayRun {t : State} (h : exec (.yieldPoint 0x4000 0 0) strayRun = .next t) :
    t.reg (A.STK_REFCNT + 1) ≠ strayRun.reg (A.STK_REFCNT + 1) := by
  have run : (match execYieldPoint 0x4000 0 0 strayRun with
      | .next u => u.reg (A.STK_REFCNT + 1) != strayRun.reg (A.STK_REFCNT + 1)
      | _ => false) = true := by decide +kernel
  change execYieldPoint 0x4000 0 0 strayRun = .next t at h
  rw [h] at run
  simpa using run

/-- Refutes O19: its clause on YIELD_POINT holds for no stack number that passes the copies of a register. The refresh taken is
counted under the key of another address, which the statement says keeps its value. -/
theorem not_passesTravel : ¬ Obligations.PassesTravel := by
  intro h
  obtain ⟨-, -, -, yielding, -⟩ := h
  obtain ⟨t, r, run, -, -, -, -, -, -, but⟩ :=
    yielding strayRun 0x4000 0 0 refreshedRun runAt_strayRun (by decide) rfl rfl
  exact exec_yieldPoint_strayRun run (but (regKey (A.STK_REFCNT + 1) 0 0) (by decide))

end Sys2Proof.Machine

/-! SUPPORT. The obligation about groups, refuted: it bounds no engine's number. -/

namespace Sys2Proof.Machine

/-- An engine's number past the copies that a register key has room for: its `HOD_CUR_PAGE` has the key of stack S0's `BLK_STAT`. -/
def strayHod : Nat := (hdrAddr .stk 0x0C - A.HOD_CUR_PAGE) * 0x4000

/-- The GROUP_OPEN of a walk, of index 0 in stack S0, with one output. -/
def strayOpen : Desc :=
  { w0 := 9 * 2 ^ 60, w1 := 2 ^ 48, w2 := 0, w3 := 0, part := 0, own := .none
    tag := some { walk := 1, head := 0, sg := 0, pos := 0, round := 0 } }

/-- The descriptor at the front of that engine's list, its walk, and stack S0 in service. -/
def strayAsk : State :=
  let s : State := State.setF {} (hdrF .stk 0x0C 31 28) 3 0
  { s with
    bk := { s.bk with lists := [(strayHod, [strayOpen])] }
    sv := { s.sv with walks := [{ id := 1, hod := 0, part := 0, step := 0, seq := 0, work := 0, pass := 0, layer := 0, mslot := 0
                                  first := 0, count := 0, bucket := 0, places := {} }] } }

theorem strayAsk_meets :
    smSorted strayAsk.bk.lists = true ∧ smGet (fun _ => []) strayAsk.bk.lists strayHod = [strayOpen] ∧ strayOpen.kind = 9
    ∧ strayAsk.stackServes strayOpen.stack = true ∧ strayAsk.paused .stk strayOpen.stack = false
    ∧ strayAsk.groupAt (nbits strayOpen.w1 15 12 * 256 + nbits strayOpen.w1 7 0) = none
    ∧ strayAsk.bufferUsed strayOpen.stack + strayOpen.group.space ≤ 4 * 2 ^ 20 := by
  decide +kernel

/-- The page noted overwrites the stack's unit state, and the group does not open. -/
theorem exec_groupOpen_strayAsk {t : State} (h : exec (.groupOpen strayHod) strayAsk = .next t) : t.groupAt 0 = none := by
  have run : (match execGroupOpen strayHod strayAsk with
      | .next u => (u.groupAt 0).isNone
      | _ => false) = true := by decide +kernel
  change execGroupOpen strayHod strayAsk = .next t at h
  rw [h] at run
  simpa using run

/-- Refutes O22: its clause on GROUP_OPEN holds for no engine number that passes the copies of a register. The page that the engine's
registers show of the walk goes to the key of the stack's `BLK_STAT`, the stack reads as out of service, and the group is refused. -/
theorem not_groupsReduce : ¬ Obligations.GroupsReduce := by
  intro h
  obtain ⟨opening, -⟩ := h
  obtain ⟨sorted, front, kind, serves, going, fresh, room⟩ := strayAsk_meets
  obtain ⟨t, run, -, -, -, opens, -⟩ := opening strayAsk strayHod strayOpen [] sorted front kind serves going fresh rfl
  have opened := (opens room).1
  rw [show nbits strayOpen.w1 15 12 * 256 + nbits strayOpen.w1 7 0 = 0 by decide, exec_groupOpen_strayAsk run] at opened
  exact absurd opened (by simp)

end Sys2Proof.Machine

/-! SUPPORT. A request that the Yard takes at once (R266 to R268): it pays, and is served. -/

namespace Sys2Proof.Machine

section
variable {s : State} {k : Asker} {part ga : Nat} {x : Access} {q : YReq}

/-- The request that a partition's access at a stack makes of the Yard, which it passes (class 6). -/
def State.stackReq (s : State) (k : Asker) (part ga : Nat) (x : Access) : YReq :=
  { asker := k, part := part, cls := 6, slab := s.slabOf ga, ga := ga, acc := x, since := s.now }

/-- The state with these requests waiting in the Yard. -/
def State.withWaiting (s : State) (qs : List YReq) : State := { s with yd := { s.yd with waiting := qs } }

/-- The state in which such a request is served: no class under its floor has been passed over since, and the fare is paid. -/
def State.granted (s : State) (part ga n : Nat) : State :=
  ({ s with yd := { s.yd with passed := smSet (fun _ => 0) s.yd.passed (s.slabOf ga * 8 + 6) 0 } } : State).takeFare part 0 n

theorem State.withWaiting_self (h : s.yd.waiting = []) : s.withWaiting [] = s := by
  rw [State.withWaiting, ← h]

/-- Nothing waits: there is nothing to count. -/
theorem State.countWaits_of_empty (h : s.yd.waiting = []) : s.countWaits = s := by
  simp only [State.countWaits, h, List.foldl_nil, List.map_nil]
  exact State.withWaiting_self h

/-- Class 6 is next where it alone is ready. -/
theorem State.nextClass_six (s : State) (slab : Nat) (hq : q.cls = 6) : s.nextClass slab [q] = some 6 := by
  have only : ∀ c, ([q].any fun r => r.cls = c) = decide (c = 6) := by
    intro c
    simp [hq, eq_comm]
  simp only [State.nextClass, only, grantOrder]
  by_cases use : s.classUse slab 6 < s.getF (clsFloor 6)
  · by_cases passed : 15 ≤ s.passedOver slab 6
    · simp [use, passed]
    · simp [passed]
  · simp [use]

/-- The grant of a request that alone is ready. -/
theorem State.yardGo_stackReq (h : s.yardMay (s.stackReq k part ga x) = true) (empty : s.yd.waiting = []) :
    (s.withWaiting [s.stackReq k part ga x]).yardGo (s.slabOf ga) 1
      = (s.granted part ga x.len).serveLocal (s.stackReq k part ga x) := by
  generalize hq : s.stackReq k part ga x = q at h ⊢
  have cls : q.cls = 6 := by rw [← hq]; rfl
  have slab : q.slab = s.slabOf ga := by rw [← hq]; rfl
  have mine : (s.withWaiting [q]).yd.waiting.filter (fun r => r.slab = s.slabOf ga && (s.withWaiting [q]).yardMay r) = [q] := by
    have may : (s.withWaiting [q]).yardMay q = true := h
    rw [show (s.withWaiting [q]).yd.waiting = [q] from rfl]
    simp [slab, may]
  rw [State.yardGo]
  have own : [q].filter (fun r => r.cls = 6) = [q] := by simp [cls]
  have first : (([q].find? fun r => (s.withWaiting [q]).fare r.part 1 r.acc.len = .guaranteed).orElse fun _ => [q].head?)
      = some q := by
    by_cases g : (s.withWaiting [q]).fare q.part 1 q.acc.len = .guaranteed
    · simp [g]
    · simp [g]
  have passed : grantOrder.foldl (fun m j =>
      if j = 6 then smSet (fun _ => 0) m (s.slabOf ga * 8 + j) 0
      else if ([q].any fun r => r.cls = j) && (s.withWaiting [q]).classUse (s.slabOf ga) j < (s.withWaiting [q]).getF (clsFloor j) then
        smSet (fun _ => 0) m (s.slabOf ga * 8 + j) (smGet (fun _ => 0) m (s.slabOf ga * 8 + j) + 1)
      else m) s.yd.passed = smSet (fun _ => 0) s.yd.passed (s.slabOf ga * 8 + 6) 0 := by
    simp [grantOrder, cls]
  simp only [mine, State.nextClass_six _ _ cls, own, first]
  rw [show (s.withWaiting [q]).yd.passed = s.yd.passed from rfl, passed, show (s.withWaiting [q]).yd.waiting.erase q = [] by
      simp [State.withWaiting], State.yardGo, State.grantReq]
  simp only [cls, if_true]
  rw [show s.granted part ga x.len = (s.withWaiting []).granted part ga x.len by rw [State.withWaiting_self empty], ← hq]
  rfl

/-- A request taken at once is granted, and served after its fare is paid. -/
theorem State.enter_of_takenAtOnce (h : s.takenAtOnce k part 6 ga x) :
    s.enter k part 6 ga x = ((s.granted part ga x.len).serveLocal (s.stackReq k part ga x)).countWaits := by
  obtain ⟨empty, may⟩ := h
  rw [← State.yardGo_stackReq may empty, State.enter]
  simp only [empty]
  rfl

end

end Sys2Proof.Machine

/-! SUPPORT. The obligation about latch loads and ordinary accesses, refuted: the bytes that a read is given are not cut to its length. -/

namespace Sys2Proof.Machine

/-- A bank of stack S0 computes, partition 0 owns the granule at address 0, and its STACK regulator has bytes. -/
def computingBank : State :=
  let s : State := State.setF {} (hdrF .stk 0x0C 31 28) 3 0
  { s with
    bk := { s.bk with
      regions := [(0, 2 ^ 61 + 2 ^ 58)]
      runs := [(0, { pass := { kind := 1, fmt := 0, slots := 1, base := 0, cols := 1000, latchOff := 0, lanes := 1, outBase := 0
                               group := 0, seq := none, own := .none } })] }
    pt := { s.pt with buckets := [(0, { floor := 64, cap := 64 })] } }

/-- A read of one byte that carries two bytes of data. -/
def longRead : Access := { op := 0, addr := 0, len := 1, data := [some 0, some 0] }

theorem computingBank_meets :
    computingBank.rangeStatus (.part 0) false 0 1 = 0 ∧ (computingBank.runAt (computingBank.bankAt 0)).isSome = true
    ∧ (computingBank.at 0).yd.waiting = []
    ∧ (computingBank.at 0).yardMay ((computingBank.at 0).stackReq (.part 0) 0 (computingBank.global 0) longRead) = true := by
  decide +kernel

/-- An ordinary access that passes its check enters the Yard (R279). -/
theorem exec_ordinaryAccess_of_allowed {s : State} {part addr len now : Nat} {write : Bool} {data : List Byte}
    (hr : addr + (if write then data.length else len) ≤ 16 * stackBytes)
    (ok : s.rangeStatus (.part part) write addr (if write then data.length else len) = 0) :
    exec (.ordinaryAccess part write addr data len now 0) s = .next ((s.at now).enter (.part part) part 6 (s.global addr)
      { op := if write then 1 else 0, addr := addr, len := if write then data.length else len, data := data.map some }) := by
  have same : (s.at now).rangeStatus (.part part) write addr (if write then data.length else len) = 0 := ok
  show execOrdinaryAccess part write addr data len now 0 s = _
  simp only [execOrdinaryAccess]
  rw [if_neg (Nat.not_lt.mpr hr), same]
  rfl

/-- What the bank holds of the read is its one byte. -/
theorem exec_ordinaryAccess_computingBank {t : State} (h : exec (.ordinaryAccess 0 false 0 [0, 0] 1 0 0) computingBank = .next t) :
    ((t.runAt (computingBank.bankAt 0)).map fun r => r.held.map fun h => h.acc.data.length) = some [1] := by
  obtain ⟨allowed, -, waiting, may⟩ := computingBank_meets
  have enter := (exec_ordinaryAccess_of_allowed (now := 0) (data := [0, 0]) (by decide) allowed).trans
    (congrArg Host.Outcome.next (State.enter_of_takenAtOnce ⟨waiting, may⟩))
  have run : (((((computingBank.at 0).granted 0 (computingBank.global 0) 1).serveLocal
      ((computingBank.at 0).stackReq (.part 0) 0 (computingBank.global 0) longRead)).countWaits.runAt
        (computingBank.bankAt 0)).map fun r => r.held.map fun h => h.acc.data.length) = some [1] := by
    decide +kernel
  rw [Host.Outcome.next.inj (h.symm.trans enter)]
  exact run

/-- Refutes O21: its clause on a bank in a pass takes a read with data of any length, and says that the bank holds the access as it
came. A read of one byte that carries two is held with the one that its length covers. -/
theorem not_latchesAndAccessesReachTheirBank : ¬ Obligations.LatchesAndAccessesReachTheirBank := by
  intro h
  obtain ⟨-, -, holding, -⟩ := h
  obtain ⟨allowed, runs, waiting, may⟩ := computingBank_meets
  obtain ⟨r, at0⟩ := Option.isSome_iff_exists.mp runs
  obtain ⟨t, run, held, -⟩ := holding computingBank 0 false 0 [0, 0] 1 0 r longRead rfl (by decide) (by decide) (by decide) allowed rfl
    ⟨waiting, may⟩ at0
  have short := exec_ordinaryAccess_computingBank run
  rw [held, Option.map_some, Option.some_inj, List.map_append] at short
  exact absurd (congrArg List.getLast? short) (by simp [longRead])

end Sys2Proof.Machine

/-! SUPPORT. The obligation about tensors, refuted: nothing of it bounds the physical number behind a slab of the Yard. -/

namespace Sys2Proof.Machine

/-- The descriptor of `n` rows of one byte. -/
def byteRows (n : Nat) : List Byte := recB 64 [(8, 4, n), (12, 4, 1), (16, 4, 1), (24, 8, 1)]

/-- A COPY between the descriptors in Yard block 0. -/
def straySlabCopy : Cmd := { id := 1, part := 0, queue := 0, words := [4 * 2 ^ 56, yardBase, yardBase + 64, 0, 0, 0, 0, 0] }

/-- Partition 0 owns LAND block 0, which holds the descriptors of one and of two rows, a check bit of the first's first word wrong. The
physical number behind the block's slab passes the copies that a register key has room for: its `YRD_CE_CNT` has the key of the
`PRT_QADMIT` of the partition's queue 0, which is about to admit the COPY. -/
def straySlab : State :=
  let s : State := (List.range 16).foldl (fun t k => t.setF (hdrF .stk 0x0C 31 28) 3 k) {}
  let s := (s.setF F.PRT_STATE_STATE 2).setFlag F.PRT_QCTRL_ENABLE true
  let s := (s.setF F.YRD_BENTRY_KIND 1).setFlag F.YRD_BENTRY_OWNED true
  let s := ((s.wr yardBase (byteRows 1)).wr (yardBase + 64) (byteRows 2)).setSynd yardBase 1
  { s with
    dv := { s.dv with st := .ready }
    yd := { s.yd with slabOf := [(0, (A.PRT_QADMIT - A.YRD_CE_CNT) * 0x4000)] }
    qu := { s.qu with cmds := [straySlabCopy], nextId := 2 } }

/-- The tensors of the descriptors. -/
def straySlabTensor (a : Nat) : Tensor := ⟨readDesc (straySlab.okBytes a 64), []⟩

theorem straySlab_open : straySlab.Canonical ∧ straySlab.cmdsApart ∧ straySlabCopy.plain ∧ straySlab.pt.clearing = []
    ∧ straySlab.memoryOpen ∧ straySlab.unmetered 0 := by
  decide +kernel

theorem straySlab_accepts : straySlab.admissible 0 0 = some straySlabCopy
    ∧ straySlab.accepts 0 0 0x04 straySlabCopy straySlabCopy := by
  decide +kernel

theorem straySlab_tensors : straySlab.rowTensor 0 yardBase (straySlabTensor yardBase)
    ∧ straySlab.rowTensor 0 (yardBase + 64) (straySlabTensor (yardBase + 64))
    ∧ (straySlabTensor (yardBase + 64)).d.rows ≠ (straySlabTensor yardBase).d.rows := by
  decide +kernel

theorem straySlab_resumes (op : Nat) : straySlab.resumed 0 0 op = none := by
  have one : straySlab.queueCmds 0 0 = [straySlabCopy] := by decide +kernel
  simp [State.resumed, one, straySlabCopy]

/-- The admission and the corrected word both move the admission point. -/
theorem exec_copy_straySlab {t : State} (h : exec (.copy 0 0 []) straySlab = .next t) :
    t.getF F.PRT_QADMIT_INDEX straySlabCopy.part straySlabCopy.queue
      ≠ (straySlab.getF F.PRT_QADMIT_INDEX straySlabCopy.part straySlabCopy.queue + 1) % 65536 := by
  have run : (match execCopy 0 0 [] straySlab with
      | .next u => u.getF F.PRT_QADMIT_INDEX straySlabCopy.part straySlabCopy.queue
          != (straySlab.getF F.PRT_QADMIT_INDEX straySlabCopy.part straySlabCopy.queue + 1) % 65536
      | _ => false) = true := by decide +kernel
  change execCopy 0 0 [] straySlab = .next t at h
  rw [h] at run
  simpa using run

/-- Refutes O39: its clauses let a descriptor be corrected as it is read, and nothing bounds the physical number of the slab that counts
the correction. The count can go to the key of the queue's admission point, which then moves by two. -/
theorem not_tensorsMove : ¬ Obligations.TensorsMove := by
  intro h
  obtain ⟨canonical, apart, plain, clearing, opened, unmetered⟩ := straySlab_open
  obtain ⟨admissible, accepts⟩ := straySlab_accepts
  obtain ⟨source, destination, rows⟩ := straySlab_tensors
  obtain ⟨-, -, moves, -⟩ := h straySlab 0 0 straySlabCopy straySlabCopy apart canonical rfl rfl plain admissible straySlab_resumes
    clearing opened unmetered rfl rfl rfl rfl
  obtain ⟨copies, -⟩ := moves _ _ source destination
  obtain ⟨differ, -⟩ := copies accepts
  obtain ⟨t, run, ⟨-, -, -, -, -, admits⟩, -⟩ := differ (.inl rows)
  exact exec_copy_straySlab run admits

end Sys2Proof.Machine

/-! SUPPORT. The obligation about the Yard, refuted: the error that a read records can leave before its answer. -/

namespace Sys2Proof.Machine

/-- Partition 0 owns LAND block 0, a check bit of whose first word is wrong. Slab 0 has counted 65,536 corrected words, its errors raise
interrupts, and the core of the supervisor duty runs. -/
def countingSlab : State :=
  let s : State := (State.setF {} F.YRD_BENTRY_KIND 1).setFlag F.YRD_BENTRY_OWNED true
  let s := ((s.setF F.YRD_CE_CNT_COUNT 65536).setFlag (hdrF .yrd 0x08 8 8) true).setF (hdrF .trw 0x0C 31 28) 3
  { s.setSynd yardBase 1 with pt := { s.pt with buckets := [(1, { floor := 64, cap := 64 })] } }

theorem countingSlab_meets :
    countingSlab.Canonical ∧ countingSlab.atRest
    ∧ countingSlab.takenAtOnce (.part 0) 0 0 yardBase { op := 0, addr := localOf yardBase, len := 8, data := [] }
    ∧ countingSlab.rangeStatus (.part 0) false (localOf yardBase) 8 = 0 ∧ countingSlab.anyBad (localOf yardBase) 8 = false := by
  decide +kernel

/-- The first thing that leaves is the interrupt. -/
theorem exec_yardAccess_countingSlab {t : State} (h : exec (.yardAccess 0 0 0 0 yardBase [] 8 0) countingSlab = .next t) :
    t.out.head? = some (.fwIntr 0 Blk.yrd.code 0 1) := by
  have run : (match execYardAccess 0 0 0 0 yardBase [] 8 0 countingSlab with
      | .next u => u.out.head? == some (.fwIntr 0 Blk.yrd.code 0 1)
      | _ => false) = true := by decide +kernel
  change execYardAccess 0 0 0 0 yardBase [] 8 0 countingSlab = .next t at h
  rw [h] at run
  simpa using run

/-- Refutes O40: its clause on reads has the answer leave first. A read that meets a correctable word while its slab's count stands at
65,536 records the error of R273, and the interrupt of R48 leaves before the answer. -/
theorem not_yardServes : ¬ Obligations.YardServes := by
  intro h
  obtain ⟨access, -⟩ := h
  obtain ⟨canonical, rest, taken, allowed, clean⟩ := countingSlab_meets
  obtain ⟨reads, -⟩ := access countingSlab 0 0 yardBase 8 canonical rfl rfl (by decide) (.inl (by decide)) (by decide) rest
  obtain ⟨t, more, run, out, -⟩ := (reads taken).1 allowed clean
  have first := exec_yardAccess_countingSlab run
  rw [out, show countingSlab.out = [] from rfl] at first
  exact absurd first (by simp)

end Sys2Proof.Machine

/-! SUPPORT. What a word's checker delivers (Table 14-2): a correction keeps it, and a run of bytes written replaces those given and
keeps the others. -/

namespace Sys2Proof.Machine

section
variable {s t : State} {a w x : Nat}

/-! ## Words -/

theorem State.ecc_congr (h : x / 8 = a / 8) : s.ecc x = s.ecc a := by
  rw [State.ecc, State.ecc, State.syndOf, State.syndOf, h]

/-- A decoded data bit is one of the word's 64. -/
theorem lt_of_decodeSyndrome {v i : Nat} (h : decodeSyndrome v = .dataBit i) : i < 64 := by
  unfold decodeSyndrome at h
  split at h
  · cases h
  · split at h
    · cases h
    · split at h
      · cases h
      · split at h
        case h_1 p hp =>
          cases h
          have place := (List.mem_zipIdx (List.mem_of_find?_eq_some hp)).2.1
          have len : dataColumns.length = 64 := by decide +kernel
          omega
        case h_2 => cases h

/-- A word of which every byte reads as stored. -/
theorem State.okByte_eq_byte (h : ∀ i, s.ecc x ≠ .dataBit i) : s.okByte x = s.byte x := by
  unfold State.okByte
  split
  · rename_i i hi
    exact absurd hi (h i)
  · rfl

theorem State.okByte_of_clean (h : s.ecc x = .clean) : s.okByte x = s.byte x := State.okByte_eq_byte (by simp [h])

/-- A word set clean reads as stored. -/
theorem State.ecc_setSynd_zero (hs : s.Canonical) (h : x / 8 = w / 8) : (s.setSynd w 0).ecc x = .clean := by
  obtain ⟨-, -, synd⟩ := hs
  rw [State.ecc, State.syndOf, h, State.setSynd, smGet_smSet_same (smSorted_of_wf synd)]
  rfl

/-- Words other than the one whose syndrome is set are checked as before. -/
theorem State.ecc_setSynd_ne {v : Nat} (h : x / 8 ≠ w / 8) : (s.setSynd w v).ecc x = s.ecc x := by
  rw [State.ecc, State.syndOf, State.setSynd, smGet_smSet_ne _ _ _ h]
  rfl

/-! ## Corrections (R382) -/

/-- A correction writes stored bytes and syndromes only. -/
def MemOnly (s t : State) : Prop := ∃ m y, t = { s with mem := m, synd := y }

theorem MemOnly.refl (s : State) : MemOnly s s := ⟨_, _, rfl⟩

theorem MemOnly.trans {u : State} (h : MemOnly s t) (h' : MemOnly t u) : MemOnly s u := by
  obtain ⟨m, y, rfl⟩ := h
  obtain ⟨m', y', rfl⟩ := h'
  exact ⟨m', y', rfl⟩

theorem State.correctWord_only (s : State) (w : Nat) : MemOnly s (s.correctWord w) := by
  unfold State.correctWord
  split
  · exact ⟨_, _, rfl⟩
  · exact ⟨_, _, rfl⟩
  · exact MemOnly.refl s

theorem State.correctWord_of_clean (h : s.ecc w = .clean) : s.correctWord w = s := by
  rw [State.correctWord, h]

/-- A word with one wrong bit is clean once it has been corrected. -/
theorem State.ecc_correctWord (hs : s.Canonical) (h : x / 8 = w / 8) (ok : (s.ecc w).bad = false) : (s.correctWord w).ecc x = .clean := by
  unfold State.correctWord
  split
  · exact State.ecc_setSynd_zero hs h
  · exact State.ecc_setSynd_zero (s := { s with mem := _ }) ⟨hs.1, memPut_wf _ _ hs.2.1, hs.2.2⟩ h
  · cases e : s.ecc w <;> simp_all [State.ecc_congr h, Ecc.bad]

/-- A correction leaves other words as they are checked. -/
theorem State.ecc_correctWord_ne (h : x / 8 ≠ w / 8) : (s.correctWord w).ecc x = s.ecc x := by
  unfold State.correctWord
  split
  · exact State.ecc_setSynd_ne h
  · exact (State.ecc_setSynd_ne h).trans rfl
  · rfl

/-- A corrected word is delivered as before. -/
theorem State.okByte_correctWord (hs : s.Canonical) : (s.correctWord w).okByte x = s.okByte x := by
  by_cases h : x / 8 = w / 8
  · cases e : s.ecc w with
    | clean => rw [State.correctWord_of_clean e]
    | poisoned => rw [State.correctWord, e]
    | uncorrectable => rw [State.correctWord, e]
    | checkBit j =>
      have clean := State.ecc_correctWord hs h (show (s.ecc w).bad = false by rw [e]; rfl)
      rw [State.okByte_of_clean clean, State.okByte_eq_byte (by simp [State.ecc_congr h, e]), State.correctWord, e]
      rfl
    | dataBit i =>
      have clean := State.ecc_correctWord hs h (show (s.ecc w).bad = false by rw [e]; rfl)
      have small := lt_of_decodeSyndrome e
      rw [State.okByte_of_clean clean, State.okByte, State.ecc_congr h, e, State.correctWord, e]
      by_cases here : i / 8 = x % 8
      · have place : w / 8 * 8 + i / 8 = x := by omega
        simp only [here, if_true]
        rw [here] at place
        simp only [State.setSynd, State.byte, place]
        exact memPut_same hs.2.1 _ _
      · simp only [here, if_false]
        exact memPut_ne _ (by omega)
  · rw [State.okByte, State.okByte, State.ecc_correctWord_ne h, State.byte_correctWord h]

end

end Sys2Proof.Machine

/-! SUPPORT. What a run of bytes written leaves in memory (R84, R86): the bytes given read back, every other byte reads as before. -/

namespace Sys2Proof.Machine

section
variable {s t : State} {a w x n : Nat} {xs : List (Option Byte)}

/-! ## Some of a run of stored bytes -/

/-- Stored bytes with those given of `xs` in place from `w` on. -/
def putSome (m : List Host.Cell) (w : Nat) (xs : List (Option Byte)) (k : Nat := 0) : List Host.Cell :=
  (xs.zipIdx k).foldl (fun m p => match p.1 with
    | some b => memPut m (w + p.2) b
    | none => m) m

theorem putSome_cons_some (m : List Host.Cell) (w : Nat) (b : Byte) (xs : List (Option Byte)) (k : Nat) :
    putSome m w (some b :: xs) k = putSome (memPut m (w + k) b) w xs (k + 1) := rfl

theorem putSome_wf {m : List Host.Cell} (h : Memory.wf m = true) (w : Nat) (xs : List (Option Byte)) (k : Nat) :
    Memory.wf (putSome m w xs k) = true := by
  induction xs generalizing m k with
  | nil => exact h
  | cons o xs ih =>
    cases o with
    | none => exact ih h (k + 1)
    | some b => exact ih (memPut_wf _ b h) (k + 1)

theorem smGet_putSome_below {m : List Host.Cell} (k : Nat) (h : x < w + k) :
    smGet memDefault (putSome m w xs k) x = smGet memDefault m x := by
  induction xs generalizing m k with
  | nil => rfl
  | cons o xs ih =>
    cases o with
    | none => exact ih (k + 1) (by omega)
    | some b => exact (ih (k + 1) (by omega)).trans (memPut_ne b (by omega))

/-- The byte at `w + k + i` is the one given there, or the one before. -/
theorem smGet_putSome {m : List Host.Cell} (hm : Memory.wf m = true) (k i : Nat) (h : x = w + k + i) :
    smGet memDefault (putSome m w xs k) x = (xs.getD i none).getD (smGet memDefault m x) := by
  induction xs generalizing m k i with
  | nil => rfl
  | cons o xs ih =>
    cases i with
    | zero =>
      cases o with
      | none => exact smGet_putSome_below (k + 1) (by omega)
      | some b =>
        rw [putSome_cons_some, smGet_putSome_below (k + 1) (by omega), h]
        exact memPut_same hm _ b
    | succ i =>
      cases o with
      | none => exact ih hm (k + 1) i (by omega)
      | some b =>
        rw [putSome_cons_some, ih (memPut_wf _ b hm) (k + 1) i (by omega), memPut_ne b (by omega)]
        rfl

/-! ## One word -/

/-- The state with the bytes given of `xs` stored from `w` on. -/
def State.putSome (s : State) (w : Nat) (xs : List (Option Byte)) : State := { s with mem := Machine.putSome s.mem w xs }

/-- What a write of a word does, by what is given of it. -/
theorem State.putWord_cases (ok : (s.ecc w).bad = false) :
    ((xs.all Option.isNone = true ∧ s.putWord w xs = (s, false))
      ∨ (xs.all Option.isSome = true ∧ xs.length = 8 ∧ s.putWord w xs = ((s.putSome w xs).setSynd w 0, false)))
      ∨ s.putWord w xs = ((s.correctWord w).putSome w xs, false) := by
  unfold State.putWord
  extract_lets put
  by_cases none : xs.all Option.isNone = true
  · exact .inl (.inl ⟨none, if_pos none⟩)
  · rw [if_neg none]
    by_cases whole : (xs.all Option.isSome && xs.length = 8) = true
    · rw [if_pos whole]
      simp only [Bool.and_eq_true, decide_eq_true_eq] at whole
      exact .inl (.inr ⟨whole.1, whole.2, rfl⟩)
    · rw [if_neg whole, if_neg (by simp [ok])]
      exact .inr rfl

/-- A write of a word that is not poisoned: nothing is dropped, and memory alone changes. -/
theorem State.putWord_only (ok : (s.ecc w).bad = false) : (s.putWord w xs).2 = false ∧ MemOnly s (s.putWord w xs).1 := by
  rcases State.putWord_cases (xs := xs) ok with (⟨-, e⟩ | ⟨-, -, e⟩) | e
  · rw [e]
    exact ⟨rfl, MemOnly.refl s⟩
  · rw [e]
    exact ⟨rfl, _, _, rfl⟩
  · rw [e]
    exact ⟨rfl, (s.correctWord_only w).trans ⟨_, _, rfl⟩⟩

/-- Other words are checked as before. -/
theorem State.ecc_putWord_ne (ok : (s.ecc w).bad = false) (h : x / 8 ≠ w / 8) : (s.putWord w xs).1.ecc x = s.ecc x := by
  rcases State.putWord_cases (xs := xs) ok with (⟨-, e⟩ | ⟨-, -, e⟩) | e
  · rw [e]
  · rw [e]
    exact (State.ecc_setSynd_ne h).trans rfl
  · rw [e]
    exact Eq.trans rfl (State.ecc_correctWord_ne h)

/-- The word is clean, or as it was. -/
theorem State.ecc_putWord (hs : s.Canonical) (ok : (s.ecc w).bad = false) :
    (s.putWord w xs).1.ecc w = .clean ∨ (s.putWord w xs).1.ecc w = s.ecc w := by
  rcases State.putWord_cases (xs := xs) ok with (⟨-, e⟩ | ⟨-, -, e⟩) | e
  · exact .inr (by rw [e])
  · rw [e]
    exact .inl (State.ecc_setSynd_zero (s := s.putSome w xs) ⟨hs.1, putSome_wf hs.2.1 w xs 0, hs.2.2⟩ rfl)
  · rw [e]
    exact .inl (Eq.trans rfl (State.ecc_correctWord hs rfl ok))

/-- The bytes given of a word read back, its others and those of other words read as before. -/
theorem State.okByte_putWord (hs : s.Canonical) (ok : (s.ecc w).bad = false) (hw : w % 8 = 0) (hl : xs.length = 8) :
    (s.putWord w xs).1.okByte x = if x / 8 = w / 8 then (xs.getD (x % 8) none).getD (s.okByte x) else s.okByte x := by
  by_cases h : x / 8 = w / 8
  · have place : x = w + 0 + x % 8 := by omega
    rw [if_pos h]
    rcases State.putWord_cases (xs := xs) ok with (⟨empty, e⟩ | ⟨whole, -, e⟩) | e
    · have absent : xs.getD (x % 8) none = none := by
        rw [List.getD_eq_getElem _ _ (by omega)]
        exact Option.isNone_iff_eq_none.mp (List.all_eq_true.mp empty _ (List.getElem_mem _))
      rw [e, absent]
      rfl
    · have given : (xs.getD (x % 8) none).isSome = true := by
        rw [List.getD_eq_getElem _ _ (by omega)]
        exact List.all_eq_true.mp whole _ (List.getElem_mem _)
      obtain ⟨b, hb⟩ := Option.isSome_iff_exists.mp given
      have clean : ((s.putSome w xs).setSynd w 0).ecc x = .clean :=
        State.ecc_setSynd_zero (s := s.putSome w xs) ⟨hs.1, putSome_wf hs.2.1 w xs 0, hs.2.2⟩ h
      rw [e, State.okByte_of_clean clean]
      have stored := smGet_putSome (xs := xs) hs.2.1 0 (x % 8) place
      rw [hb] at stored ⊢
      exact stored
    · have clean : ((s.correctWord w).putSome w xs).ecc x = .clean := Eq.trans rfl (State.ecc_correctWord hs h ok)
      have fixed : (s.correctWord w).byte x = s.okByte x := by
        rw [← State.okByte_correctWord (w := w) hs, State.okByte_of_clean (State.ecc_correctWord hs h ok)]
      have keep : (s.correctWord w).Canonical := State.correctWord_keeps canonical_stable hs
      rw [e, State.okByte_of_clean clean, ← fixed]
      exact smGet_putSome keep.2.1 0 (x % 8) place
  · have out : (s.putWord w xs).1.byte x = s.byte x := by
      have far : ∀ m, Memory.wf m = true → smGet memDefault (Machine.putSome m w xs) x = smGet memDefault m x := by
        intro m hm
        by_cases low : x < w
        · exact smGet_putSome_below 0 (by omega)
        · rw [smGet_putSome hm 0 (x - w) (by omega), List.getD_eq_default _ _ (by omega)]
          rfl
      rcases State.putWord_cases (xs := xs) ok with (⟨-, e⟩ | ⟨-, -, e⟩) | e
      · rw [e]
      · rw [e]
        exact far s.mem hs.2.1
      · have keep : (s.correctWord w).Canonical := State.correctWord_keeps canonical_stable hs
        rw [e]
        exact (far _ keep.2.1).trans (State.byte_correctWord h)
    rw [if_neg h, State.okByte, State.okByte, State.ecc_putWord_ne ok h, out]

end

end Sys2Proof.Machine

/-! SUPPORT. Sweeps: writes that go through memory from low to high addresses and leave, up to where they have come, the bytes that a
function of the address says (R82, R84, R86). -/

namespace Sys2Proof.Machine

section
variable {s t : State} {f : Nat → Byte} {a c n x : Nat} {xs : List (Option Byte)}

/-- From `s` to `t`, memory alone has changed: the bytes of `[a, c)` read as `f` says and the others as before, and no word has become
worse. -/
structure Swept (s : State) (f : Nat → Byte) (a c : Nat) (t : State) : Prop where
  only : MemOnly s t
  canonical : t.Canonical
  reads : ∀ x, t.okByte x = if a ≤ x ∧ x < c then f x else s.okByte x
  sound : ∀ x, (s.ecc x).bad = false → (t.ecc x).bad = false
  clean : ∀ x, s.ecc x = .clean → t.ecc x = .clean

theorem Swept.start (hs : s.Canonical) (f : Nat → Byte) (a : Nat) : Swept s f a a s where
  only := MemOnly.refl s
  canonical := hs
  reads x := (if_neg (by omega)).symm
  sound _ h := h
  clean _ h := h

/-- Above where a sweep has come, bytes read as at its start. -/
theorem Swept.ahead (h : Swept s f a c t) (hx : c ≤ x) : t.okByte x = s.okByte x := by
  rw [h.reads, if_neg (by omega)]

/-! ## The word that a run of bytes begins in -/

/-- What a run of bytes from `a` on gives of the word that holds `a`. -/
def wordWith (a : Nat) (xs : List (Option Byte)) : List (Option Byte) :=
  let part := List.replicate (a % 8) none ++ xs.take (8 - a % 8)
  part ++ List.replicate (8 - part.length) none

theorem length_wordWith (a : Nat) (xs : List (Option Byte)) : (wordWith a xs).length = 8 := by
  simp only [wordWith, List.length_append, List.length_replicate, List.length_take]
  omega

theorem getD_wordWith (a : Nat) (xs : List (Option Byte)) {j : Nat} (hj : j < 8) :
    (wordWith a xs).getD j none = if a % 8 ≤ j then xs.getD (j - a % 8) none else none := by
  simp only [wordWith, List.getD_eq_getElem?_getD, List.getElem?_append, List.length_append, List.length_replicate, List.length_take,
    List.getElem?_replicate, List.getElem?_take]
  split
  · split
    · rw [if_neg (by omega)]
      rfl
    · rw [if_pos (by omega), if_pos (by omega)]
  · have past : a % 8 ≤ j := by omega
    rw [if_pos past, List.getElem?_eq_none (by omega)]
    split <;> rfl

theorem State.putRun_succ (s : State) (a : Nat) (xs : List (Option Byte)) (n : Nat) (h : xs ≠ []) :
    s.putRun a xs (n + 1) = (((s.putWord (a / 8 * 8) (wordWith a xs)).1.putRun (a + (8 - a % 8)) (xs.drop (8 - a % 8)) n).1,
      (s.putWord (a / 8 * 8) (wordWith a xs)).2
        || ((s.putWord (a / 8 * 8) (wordWith a xs)).1.putRun (a + (8 - a % 8)) (xs.drop (8 - a % 8)) n).2) := by
  rw [State.putRun, if_neg h]
  rfl

@[simp] theorem State.putRun_nil (s : State) (a n : Nat) : s.putRun a [] n = (s, false) := by
  cases n <;> rfl

/-! ## Runs of bytes -/

/-- A word's write goes on to the end of the word, or of the bytes. -/
theorem Swept.putWord (h : Swept s f a c t) (hac : a ≤ c) (ok : (s.ecc c).bad = false)
    (hf : ∀ i, i < xs.length → f (c + i) = (xs.getD i none).getD (s.okByte (c + i))) :
    (t.putWord (c / 8 * 8) (wordWith c xs)).2 = false
      ∧ Swept s f a (c + min (8 - c % 8) xs.length) (t.putWord (c / 8 * 8) (wordWith c xs)).1 := by
  have word : (c / 8 * 8) / 8 = c / 8 := by omega
  have sound : (t.ecc (c / 8 * 8)).bad = false := State.ecc_congr (s := t) word ▸ h.sound c ok
  obtain ⟨kept, only⟩ := State.putWord_only (xs := wordWith c xs) sound
  have same := State.ecc_putWord (xs := wordWith c xs) h.canonical sound
  refine ⟨kept, h.only.trans only, State.putWord_keeps canonical_stable h.canonical, fun x => ?_, fun x hx => ?_, fun x hx => ?_⟩
  · rw [State.okByte_putWord h.canonical sound (by omega) (length_wordWith c xs), h.reads]
    by_cases here : x / 8 = c / 8
    · rw [if_pos (here.trans word.symm), getD_wordWith c xs (by omega)]
      by_cases low : x < c
      · rw [if_neg (by omega)]
        have : (a ≤ x ∧ x < c + min (8 - c % 8) xs.length) ↔ (a ≤ x ∧ x < c) := by omega
        simp [this]
      · rw [if_pos (by omega), show x % 8 - c % 8 = x - c by omega, if_neg (by omega)]
        by_cases given : x - c < xs.length
        · have at_ := hf (x - c) given
          rw [show c + (x - c) = x by omega] at at_
          rw [if_pos (by omega), at_]
        · rw [if_neg (by omega), List.getD_eq_default _ _ (by omega)]
          rfl
    · have : (a ≤ x ∧ x < c + min (8 - c % 8) xs.length) ↔ (a ≤ x ∧ x < c) := by omega
      rw [if_neg (by omega)]
      simp [this]
  · by_cases here : x / 8 = c / 8
    · rw [State.ecc_congr (here.trans word.symm)]
      rcases same with e | e
      · rw [e]
        rfl
      · rw [e]
        exact sound
    · rw [State.ecc_putWord_ne sound (by omega)]
      exact h.sound x hx
  · by_cases here : x / 8 = c / 8
    · rw [State.ecc_congr (here.trans word.symm)]
      rcases same with e | e
      · exact e
      · rw [e, ← State.ecc_congr (s := t) (here.trans word.symm)]
        exact h.clean x hx
    · rw [State.ecc_putWord_ne sound (by omega)]
      exact h.clean x hx

/-- A run of bytes, none of whose words is poisoned, is written whole. -/
theorem Swept.putRun (h : Swept s f a c t) (hac : a ≤ c) (ok : ∀ x, c ≤ x → x < c + xs.length → (s.ecc x).bad = false)
    (hf : ∀ i, i < xs.length → f (c + i) = (xs.getD i none).getD (s.okByte (c + i))) (fuel : c % 8 + xs.length ≤ 8 * n) :
    (t.putRun c xs n).2 = false ∧ Swept s f a (c + xs.length) (t.putRun c xs n).1 := by
  induction n generalizing c xs t with
  | zero =>
    obtain rfl : xs = [] := List.eq_nil_of_length_eq_zero (by omega)
    exact ⟨rfl, h⟩
  | succ n ih =>
    by_cases empty : xs = []
    · subst empty
      exact ⟨by simp, by simpa using h⟩
    · have some_ := List.length_pos_iff.mpr empty
      obtain ⟨kept, word⟩ := h.putWord hac (ok c (by omega) (by omega)) hf
      rw [State.putRun_succ _ _ _ _ empty, kept, Bool.false_or]
      by_cases last : xs.length ≤ 8 - c % 8
      · rw [List.drop_eq_nil_of_le last, State.putRun_nil]
        rw [Nat.min_eq_right last] at word
        exact ⟨rfl, word⟩
      · rw [Nat.min_eq_left (by omega)] at word
        have rest := ih (xs := xs.drop (8 - c % 8)) word (by omega) (fun x hx hl => ok x (by omega) (by rw [List.length_drop] at hl; omega))
          (fun i hi => ?_) (by rw [List.length_drop]; omega)
        · rw [List.length_drop, show c + (8 - c % 8) + (xs.length - (8 - c % 8)) = c + xs.length by omega] at rest
          exact rest
        · rw [List.length_drop] at hi
          rw [Nat.add_assoc, hf _ (by omega)]
          simp [List.getD_eq_getElem?_getD]

end

end Sys2Proof.Machine

/-! SUPPORT. Accesses that reach idle banks (R75, R82, R86): each piece is carried out at once, and an access sweeps its range. -/

namespace Sys2Proof.Machine

section
variable {s t : State} {f : Nat → Byte} {a c n : Nat} {x : Access} {k : Asker} {e : Option Nat}

/-! ## Numbers and their bytes -/

theorem length_leBytes (v n : Nat) : (leBytes v n).length = n := by
  induction n generalizing v with
  | zero => rfl
  | succ n ih => simp [leBytes, ih]

theorem getElem?_leBytes (v : Nat) {n i : Nat} (h : i < n) : (leBytes v n)[i]? = some (BitVec.ofNat 8 (v / 256 ^ i)) := by
  induction n generalizing v i with
  | zero => omega
  | succ n ih =>
    cases i with
    | zero => simp [leBytes]
    | succ i => rw [leBytes, List.getElem?_cons_succ, ih _ (by omega), Nat.div_div_eq_div_mul, ← Nat.pow_succ']

theorem leBytes_eq_map (v n : Nat) : leBytes v n = (List.range n).map fun i => BitVec.ofNat 8 (v / 256 ^ i) := by
  refine List.ext_getElem? fun i => ?_
  by_cases h : i < n
  · simp [getElem?_leBytes v h, h]
  · rw [List.getElem?_eq_none (by rw [length_leBytes]; omega), List.getElem?_eq_none (by simp; omega)]

theorem leNat_leBytes (v n : Nat) : leNat (leBytes v n) = v % 256 ^ n := by
  induction n generalizing v with
  | zero => simp [leBytes, leNat, Nat.mod_one]
  | succ n ih =>
    rw [leBytes, leNat, ih, BitVec.toNat_ofNat, show 256 ^ (n + 1) = 256 * 256 ^ n from Nat.pow_succ']
    exact (Nat.mod_mul (x := v) (a := 256) (b := 256 ^ n)).symm

/-- Bytes within a list are a stretch of it. -/
theorem sliceB_eq_take_drop {bs : List Byte} {off n : Nat} (h : off + n ≤ bs.length) : sliceB bs off n = (bs.drop off).take n := by
  refine List.ext_getElem (by simp [sliceB]; omega) fun i h1 _ => ?_
  have hi : i < n := by simpa [sliceB] using h1
  simp [sliceB, List.getElem?_eq_getElem (show off + i < bs.length by omega)]

/-! ## Writes -/

/-- A write whose words are not poisoned is applied whole. -/
theorem Swept.perform_write (h : Swept s f a c t) (hac : a ≤ c) (op : x.op = 1) (bad : x.bad = []) (start : x.addr = c)
    (len : x.data.length = x.len) (ok : ∀ y, c ≤ y → y < c + x.len → (s.ecc y).bad = false)
    (hf : ∀ i, i < x.len → f (c + i) = (x.data.getD i none).getD (s.okByte (c + i))) :
    ∃ u, t.perform x = (0, [], u) ∧ Swept s f a (c + x.len) u := by
  obtain ⟨kept, swept⟩ := h.putRun (n := x.len / 8 + 2) (xs := x.data) hac (by rwa [len]) (by rwa [len]) (by omega)
  rw [len] at swept
  refine ⟨_, ?_, swept⟩
  rw [State.perform, if_neg (by omega), if_pos op]
  simp only [start, bad, kept]
  rfl

/-! ## Adds -/

/-- Byte `y` of the element at `c` of a sum: the stored element, and `v`. -/
def State.sumByte (s : State) (type c v y : Nat) : Byte :=
  BitVec.ofNat 8 (msAdd type (s.rdN c (msBytes type)) v / 256 ^ (y - c))

theorem msBytes_cases (type : Nat) : msBytes type = 2 ∨ msBytes type = 4 ∨ msBytes type = 8 := by
  unfold msBytes
  split <;> decide

/-- An aligned element lies in one word. -/
theorem element_in_word {type : Nat} (h : c % msBytes type = 0) : c % 8 + msBytes type ≤ 8 := by
  rcases msBytes_cases type with e | e | e
  · rw [e] at h ⊢
    omega
  · rw [e] at h ⊢
    omega
  · rw [e] at h ⊢
    omega

/-- An element is added to a stored word that is clean. -/
theorem Swept.addStored (h : Swept s f a c t) (hac : a ≤ c) {type v : Nat} (merge : s.bk.merge = []) (ha : c % msBytes type = 0)
    (ok : s.ecc c = .clean) (hf : ∀ i, i < msBytes type → f (c + i) = s.sumByte type c v (c + i)) :
    ∃ u, t.addStored type c v = (u, false) ∧ Swept s f a (c + msBytes type) u := by
  have inWord := element_in_word ha
  have sound : t.ecc (c / 8 * 8) = .clean := (State.ecc_congr (by omega)).trans (h.clean c ok)
  have checked : t.checkWord (c / 8 * 8) = t := by rw [State.checkWord, sound]
  have good : t.wordBad (c / 8 * 8) = false := by rw [State.wordBad, sound]; rfl
  have empty : t.bk.merge = [] := by
    obtain ⟨m, y, rfl⟩ := h.only
    exact merge
  have stored : leNat ((List.range (msBytes type)).map fun k => t.mergedByte (c + k)) = s.rdN c (msBytes type) := by
    rw [State.rdN, State.okBytes]
    congr 1
    refine List.map_congr_left fun i _ => ?_
    rw [State.mergedByte, State.mergeOf, empty]
    exact h.ahead (by omega)
  have words : ∀ y, c ≤ y → y < c + msBytes type → (s.ecc y).bad = false := fun y h1 h2 => by
    rw [State.ecc_congr (a := c) (by omega), ok]
    rfl
  obtain ⟨-, swept⟩ := h.putRun (n := 1) (xs := (leBytes (msAdd type (s.rdN c (msBytes type)) v) (msBytes type)).map some) hac
    (by simpa [length_leBytes] using words)
    (fun i hi => by
      rw [List.length_map, length_leBytes] at hi
      rw [hf i hi, State.sumByte, Nat.add_sub_cancel_left]
      simp [List.getD_eq_getElem?_getD, getElem?_leBytes _ hi])
    (by simp only [List.length_map, length_leBytes]; omega)
  rw [List.length_map, length_leBytes] at swept
  refine ⟨_, ?_, swept⟩
  rw [State.addStored]
  simp only [checked, good, stored]
  rfl

/-- An access that adds `bs`, whole and aligned elements, to clean words adds each element. -/
theorem Swept.perform_add {bs : List Byte} (h : Swept s f a c t) (hac : a ≤ c) (op : x.op = 2) (start : x.addr = c)
    (data : x.data = bs.map some) (len : bs.length = x.len) (merge : s.bk.merge = []) (ha : c % msBytes x.type = 0)
    (hl : x.len % msBytes x.type = 0) (ok : ∀ y, c ≤ y → y < c + x.len → s.ecc y = .clean)
    (hf : ∀ i j, i < x.len / msBytes x.type → j < msBytes x.type → f (c + i * msBytes x.type + j)
      = s.sumByte x.type (c + i * msBytes x.type) (fieldB bs (i * msBytes x.type) (msBytes x.type)) (c + i * msBytes x.type + j)) :
    ∃ u, t.perform x = (0, [], u) ∧ Swept s f a (c + x.len) u := by
  have size := msBytes_cases x.type
  have last : x.len / msBytes x.type * msBytes x.type = x.len := Nat.div_mul_cancel (Nat.dvd_of_mod_eq_zero hl)
  have inside : ∀ i, i < x.len / msBytes x.type → i * msBytes x.type + msBytes x.type ≤ x.len := fun i hi => by
    rw [← Nat.succ_mul, ← last]
    exact Nat.mul_le_mul_right _ hi
  have operand : ∀ i, i < x.len / msBytes x.type →
      leNat (((x.data.drop (i * msBytes x.type)).take (msBytes x.type)).map fun b => b.getD 0)
        = fieldB bs (i * msBytes x.type) (msBytes x.type) := by
    intro i hi
    rw [fieldB, sliceB_eq_take_drop (len ▸ inside i hi), data]
    congr 1
    simp [← List.map_drop, ← List.map_take]
  have fold : ∀ m, m ≤ x.len / msBytes x.type → ∃ u, (List.range m).foldl (fun (acc : State × Bool) i =>
      let y := acc.1.addStored x.type (x.addr + i * msBytes x.type)
        (leNat (((x.data.drop (i * msBytes x.type)).take (msBytes x.type)).map fun b => b.getD 0))
      (y.1, acc.2 || y.2)) (t, false) = (u, false) ∧ Swept s f a (c + m * msBytes x.type) u := by
    intro m hm
    induction m with
    | zero => exact ⟨t, rfl, by simpa using h⟩
    | succ m ih =>
      obtain ⟨u, run, swept⟩ := ih (by omega)
      have here := inside m hm
      obtain ⟨w, added, next⟩ := swept.addStored (v := fieldB bs (m * msBytes x.type) (msBytes x.type)) (by omega) merge
        (by rw [Nat.add_mul_mod_self_right]; exact ha) (ok _ (by omega) (by omega)) (fun j hj => hf m j hm hj)
      refine ⟨w, ?_, ?_⟩
      · rw [List.range_succ, List.foldl_append, run]
        simp only [List.foldl_cons, List.foldl_nil, start, operand m hm, added]
        rfl
      · rw [Nat.succ_mul, ← Nat.add_assoc]
        exact next
  obtain ⟨u, run, swept⟩ := fold _ le_rfl
  rw [last] at swept
  refine ⟨u, ?_, swept⟩
  rw [State.perform, if_neg (by omega), if_neg (by omega), if_neg (by omega)]
  simp only [run]
  rfl

end

end Sys2Proof.Machine

/-! SUPPORT. Accesses to local memory with no bank in a pass, no work waiting and nothing paused (R75 to R77): their pieces are carried
out in turn, and their asker is answered. -/

namespace Sys2Proof.Machine

section
variable {s t : State} {f : Nat → Byte} {a c n : Nat} {x : Access} {k : Asker} {e : Option Nat}

/-! ## Pieces -/

/-- Where the first `j` pieces of 2 KiB of `[a, a + n)` end. -/
def pieceEnd (a n j : Nat) : Nat := max a (min (a + n) ((a / 2048 + j) * 2048))

theorem piecesOf_eq (h : n ≠ 0) : piecesOf 2048 a n
    = (List.range ((a + n - 1) / 2048 - a / 2048 + 1)).map fun j => (pieceEnd a n j, pieceEnd a n (j + 1) - pieceEnd a n j) := by
  rw [piecesOf, if_neg h]
  refine List.map_congr_left fun j hj => ?_
  have := List.mem_range.mp hj
  simp only [pieceEnd, Prod.mk.injEq]
  omega

/-- What a piece is: a stretch of the range, between ends of the range or multiples of 2 KiB. -/
structure PieceOf (a n lo len : Nat) : Prop where
  lower : a ≤ lo
  upper : lo + len ≤ a + n
  first : lo = a ∨ lo % 2048 = 0
  last : lo + len = a + n ∨ (lo + len) % 2048 = 0

theorem pieceOf_pieceEnd {j : Nat} (hj : j < (a + n - 1) / 2048 - a / 2048 + 1) (h : n ≠ 0) :
    PieceOf a n (pieceEnd a n j) (pieceEnd a n (j + 1) - pieceEnd a n j) := by
  constructor <;> simp only [pieceEnd] <;> omega

/-! ## Banks -/

theorem State.not_paused (h : s.anyPaused = false) {st : Nat} (hst : st < 16) : s.paused .stk st = false := by
  simp only [State.anyPaused, Bool.or_eq_false_iff, List.any_eq_false] at h
  obtain ⟨each, -⟩ := h
  simpa using each st (List.mem_range.mpr hst)

theorem State.heldBy_lt (s : State) {y : Nat} (h : y < 16 * stackBytes) : s.heldBy y < 16 := by
  have count : s.stackCount ≤ 16 ∧ 0 < s.stackCount := by
    unfold State.stackCount
    split <;> omega
  unfold State.heldBy
  split
  · exact (Nat.mod_lt _ count.2).trans_le count.1
  · exact Nat.div_lt_of_lt_mul (by omega)

theorem State.bankAt_div (s : State) (y : Nat) : s.bankAt y / 1024 = s.heldBy y := by
  have inStack : bankOf y < 1024 := by
    simp only [bankOf, nbits]
    omega
  rw [State.bankAt, bankKey]
  omega

/-- No bank computes or has work waiting, nothing is paused, and every stack serves. -/
structure State.BanksOpen (s : State) : Prop where
  runs : s.bk.runs = []
  work : s.bk.work = []
  going : s.anyPaused = false
  serves : ∀ k, k < 16 → s.stackServes k = true

theorem State.BanksOpen.mem (h : s.BanksOpen) (only : MemOnly s t) : t.BanksOpen := by
  obtain ⟨m, y, rfl⟩ := only
  exact ⟨h.runs, h.work, h.going, h.serves⟩

/-- An access reaches its bank and is carried out. -/
theorem State.reach_of_open (h : s.BanksOpen) (hx : x.addr < 16 * stackBytes) (id : Nat) :
    s.reach id x = (some ((s.perform x).1, (s.perform x).2.1), (s.perform x).2.2) := by
  have place := s.heldBy_lt hx
  have idle : s.runAt (s.bankAt x.addr) = none := by rw [State.runAt, h.runs]; rfl
  have still : s.activate (s.bankAt x.addr) = s := by
    rw [State.activate, idle, State.bankWork, h.work]
    rfl
  rw [State.reach]
  simp only [State.bankAt_div, h.serves _ place, State.not_paused h.going place, still, idle]
  rfl

/-! ## Sweeps of accesses -/

/-- What has come of the pieces of an access so far: the state, the pieces that wait, the status and the bytes read. -/
abbrev PieceAcc := State × Nat × Nat × List (Nat × Byte)

/-- One more piece of `x` reaches its bank. -/
def pieceReaches (id : Nat) (x : Access) (acc : PieceAcc) (p : Nat × Nat) : PieceAcc :=
  match acc.1.reach id (x.cut p.1 p.2) with
  | (none, t) => (t, acc.2.1 + 1, acc.2.2.1, acc.2.2.2)
  | (some r, t) => (t, acc.2.1, if acc.2.2.1 = 0 then r.1 else acc.2.2.1,
      acc.2.2.2 ++ (r.2.zipIdx).map fun b => (p.1 + b.2, b.1))

/-- A stack access is answered at once where none of its pieces waits. -/
theorem State.submit_eq_answer (hx : x.addr < 16 * stackBytes)
    (all : (piecesOf 2048 x.addr x.len).foldl (pieceReaches s.bk.nextTicket x) (s, 0, 0, []) = (t, 0, 0, [])) :
    s.submit k x e = t.answerAsker k 0 [] := by
  have run : s.submit k x e = (let z := (piecesOf 2048 x.addr x.len).foldl (pieceReaches s.bk.nextTicket x) (s, 0, 0, []);
      if z.2.1 = 0 then z.1.answerAsker k z.2.2.1 (z.2.2.2.map (·.2)) else z.1.issueTicket k x e z.2.1 z.2.2.1 z.2.2.2) := by
    rw [State.submit, if_neg (by omega)]
    rfl
  rw [run, all]
  rfl

/-- A piece that is carried out with status 0 and no data. -/
theorem pieceReaches_of_open (h : s.BanksOpen) {id lo len : Nat} (hlo : lo < 16 * stackBytes) (done_ : s.perform (x.cut lo len) = (0, [], t)) :
    pieceReaches id x (s, 0, 0, []) (lo, len) = (t, 0, 0, []) := by
  simp only [pieceReaches, State.reach_of_open h (x := x.cut lo len) hlo, done_]
  rfl

/-- Pieces that are each carried out, with status 0 and no data, sweep the range and are answered so. -/
theorem State.submit_of_swept (hs : s.Canonical) (opened : s.BanksOpen) (hx : x.addr < 16 * stackBytes)
    (hl : x.addr + x.len ≤ 16 * stackBytes)
    (piece : ∀ t lo len, PieceOf x.addr x.len lo len → Swept s f x.addr lo t →
      ∃ u, t.perform (x.cut lo len) = (0, [], u) ∧ Swept s f x.addr (lo + len) u) :
    ∃ u, s.submit k x e = u.answerAsker k 0 [] ∧ Swept s f x.addr (x.addr + x.len) u := by
  by_cases empty : x.len = 0
  · exact ⟨s, State.submit_eq_answer hx (by simp [piecesOf, empty]), by rw [empty]; exact Swept.start hs f x.addr⟩
  · have fold : ∀ m, m ≤ (x.addr + x.len - 1) / 2048 - x.addr / 2048 + 1 → ∃ u,
        ((List.range m).map fun j => (pieceEnd x.addr x.len j, pieceEnd x.addr x.len (j + 1) - pieceEnd x.addr x.len j)).foldl
          (pieceReaches s.bk.nextTicket x) (s, 0, 0, []) = (u, 0, 0, []) ∧ Swept s f x.addr (pieceEnd x.addr x.len m) u := by
      intro m hm
      induction m with
      | zero =>
        refine ⟨s, rfl, ?_⟩
        rw [show pieceEnd x.addr x.len 0 = x.addr by simp only [pieceEnd]; omega]
        exact Swept.start hs f x.addr
      | succ m ih =>
        obtain ⟨u, run, swept⟩ := ih (by omega)
        have rises : pieceEnd x.addr x.len m < pieceEnd x.addr x.len (m + 1) := by simp only [pieceEnd]; omega
        have within : pieceEnd x.addr x.len m < x.addr + x.len := by simp only [pieceEnd]; omega
        obtain ⟨w, done_, next⟩ := piece u _ _ (pieceOf_pieceEnd (by omega) empty) swept
        rw [Nat.add_sub_cancel' rises.le] at next
        refine ⟨w, ?_, next⟩
        rw [List.range_succ, List.map_append, List.foldl_append, run]
        exact pieceReaches_of_open (opened.mem swept.only) (by omega) done_
    obtain ⟨u, run, swept⟩ := fold _ le_rfl
    rw [show pieceEnd x.addr x.len ((x.addr + x.len - 1) / 2048 - x.addr / 2048 + 1) = x.addr + x.len by
      simp only [pieceEnd]; omega] at swept
    exact ⟨u, State.submit_eq_answer hx (piecesOf_eq empty ▸ run), swept⟩

end

end Sys2Proof.Machine

/-! SUPPORT. Writes and memory-side adds to memory at rest (R82 to R86), and the obligation about them. -/

namespace Sys2Proof.Machine

section
variable {s t : State} {a n : Nat} {x : Access} {k : Asker} {e : Option Nat} {bs : List Byte}

/-! ## Words under a range -/

theorem mem_wordsOf {y : Nat} (h1 : a ≤ y) (h2 : y < a + n) : y / 8 * 8 ∈ wordsOf a n := by
  rw [wordsOf, if_neg (by omega)]
  refine List.mem_map.mpr ⟨y / 8 - a / 8, List.mem_range.mpr ?_, ?_⟩ <;> omega

theorem State.not_bad_of_anyBad (h : s.anyBad a n = false) {y : Nat} (h1 : a ≤ y) (h2 : y < a + n) : (s.ecc y).bad = false := by
  rw [State.anyBad, List.any_eq_false] at h
  rw [State.ecc_congr (a := y / 8 * 8) (by omega)]
  simpa using h _ (mem_wordsOf h1 h2)

theorem State.clean_of_wordsOf (h : ∀ w ∈ wordsOf a n, s.ecc w = .clean) {y : Nat} (h1 : a ≤ y) (h2 : y < a + n) : s.ecc y = .clean := by
  rw [State.ecc_congr (a := y / 8 * 8) (by omega)]
  exact h _ (mem_wordsOf h1 h2)

/-! ## Writes -/

/-- Byte `y` once the access `x` has been written. -/
def State.writtenByte (s : State) (x : Access) (y : Nat) : Byte := (x.data.getD (y - x.addr) none).getD (s.okByte y)

/-- A write of words none of which is poisoned sweeps its range and is answered with 0. -/
theorem State.submit_write (hs : s.Canonical) (opened : s.BanksOpen) (hx : x.addr < 16 * stackBytes)
    (hl : x.addr + x.len ≤ 16 * stackBytes) (op : x.op = 1) (bad : x.bad = []) (len : x.data.length = x.len)
    (ok : ∀ y, x.addr ≤ y → y < x.addr + x.len → (s.ecc y).bad = false) :
    ∃ u, s.submit k x e = u.answerAsker k 0 [] ∧ Swept s (s.writtenByte x) x.addr (x.addr + x.len) u := by
  refine State.submit_of_swept hs opened hx hl fun t lo m piece swept => ?_
  have lower := piece.lower
  have upper := piece.upper
  refine swept.perform_write (x := x.cut lo m) lower op (by simp [Access.cut, bad]) rfl ?_
    (fun y h1 h2 => ok y (by omega) (h2.trans_le upper)) fun i hi => ?_
  · simp only [Access.cut, List.length_take, List.length_drop, len]
    omega
  · have inside : i < m := hi
    simp only [State.writtenByte, Access.cut, List.getD_eq_getElem?_getD, List.getElem?_take, List.getElem?_drop, if_pos inside,
      Nat.sub_add_comm lower]

/-- An access to what is neither stack memory nor a brick's is carried out at once. -/
theorem State.submit_beyond {c : Nat} (hx : 16 * stackBytes ≤ x.addr) (far : ∀ m, s.area x.addr ≠ .bed m)
    (done_ : s.perform x = (c, bs, t)) : s.submit k x e = t.answerAsker k c bs := by
  rw [State.submit, if_pos hx]
  split
  · rename_i m hm
    exact absurd hm (far m)
  · rw [done_]

/-- The same of an address that is neither stack memory nor a brick's. -/
theorem State.submit_write_beyond (hs : s.Canonical) (hx : 16 * stackBytes ≤ x.addr) (far : ∀ m, s.area x.addr ≠ .bed m) (op : x.op = 1)
    (bad : x.bad = []) (len : x.data.length = x.len) (ok : ∀ y, x.addr ≤ y → y < x.addr + x.len → (s.ecc y).bad = false) :
    ∃ u, s.submit k x e = u.answerAsker k 0 [] ∧ Swept s (s.writtenByte x) x.addr (x.addr + x.len) u := by
  obtain ⟨u, done_, swept⟩ := (Swept.start hs (s.writtenByte x) x.addr).perform_write le_rfl op bad rfl len ok fun i hi => by
    rw [State.writtenByte, Nat.add_sub_cancel_left]
  exact ⟨u, State.submit_beyond hx far done_, swept⟩

/-! ## Adds -/

/-- Byte `y` once `bs` has been added, element by element, from `a` on. -/
def State.addedByte (s : State) (type a : Nat) (bs : List Byte) (y : Nat) : Byte :=
  let off := (y - a) / msBytes type * msBytes type
  s.sumByte type (a + off) (fieldB bs off (msBytes type)) y

theorem fieldB_take_drop {off i m : Nat} (h : i + n ≤ m) : fieldB ((bs.drop off).take m) i n = fieldB bs (off + i) n := by
  rw [fieldB, fieldB, sliceB, sliceB]
  congr 1
  refine List.map_congr_left fun j hj => ?_
  have := List.mem_range.mp hj
  rw [List.getElem?_take, if_pos (by omega), List.getElem?_drop, Nat.add_assoc]

/-- An add of whole, aligned elements to clean words sweeps its range and is answered with 0. -/
theorem State.submit_add (hs : s.Canonical) (opened : s.BanksOpen) (hx : x.addr < 16 * stackBytes)
    (hl : x.addr + x.len ≤ 16 * stackBytes) (op : x.op = 2) (data : x.data = bs.map some) (len : bs.length = x.len) (merge : s.bk.merge = [])
    (ha : x.addr % msBytes x.type = 0) (hn : x.len % msBytes x.type = 0)
    (ok : ∀ y, x.addr ≤ y → y < x.addr + x.len → s.ecc y = .clean) :
    ∃ u, s.submit k x e = u.answerAsker k 0 [] ∧ Swept s (s.addedByte x.type x.addr bs) x.addr (x.addr + x.len) u := by
  refine State.submit_of_swept hs opened hx hl fun t lo m piece swept => ?_
  obtain ⟨lower, upper, first, last⟩ := piece
  have size := msBytes_cases x.type
  have aligned : lo % msBytes x.type = 0 ∧ m % msBytes x.type = 0 := by
    rcases size with h | h | h <;> rw [h] at ha hn ⊢ <;> omega
  refine swept.perform_add (x := x.cut lo m) (bs := (bs.drop (lo - x.addr)).take m) lower op rfl ?_ ?_ merge aligned.1 aligned.2
    (fun y h1 h2 => ok y (by omega) (h2.trans_le upper)) fun i j hi hj => ?_
  · simp only [Access.cut, data, List.map_take, List.map_drop]
  · simp only [Access.cut, List.length_take, List.length_drop]
    omega
  · change i < m / msBytes x.type at hi
    change j < msBytes x.type at hj
    change s.addedByte x.type x.addr bs (lo + i * msBytes x.type + j) = s.sumByte x.type (lo + i * msBytes x.type)
      (fieldB ((bs.drop (lo - x.addr)).take m) (i * msBytes x.type) (msBytes x.type)) (lo + i * msBytes x.type + j)
    obtain ⟨off, inside⟩ : (lo + i * msBytes x.type + j - x.addr) / msBytes x.type * msBytes x.type = lo - x.addr + i * msBytes x.type
        ∧ i * msBytes x.type + msBytes x.type ≤ m := by
      rcases size with h | h | h <;> rw [h] at ha hi hj aligned ⊢ <;> omega
    rw [State.addedByte]
    simp only [off, fieldB_take_drop inside]
    rw [show x.addr + (lo - x.addr + i * msBytes x.type) = lo + i * msBytes x.type by omega]

/-- An element of a range swept by an add. -/
theorem Swept.rdN_added {type i : Nat} (h : Swept s (s.addedByte type a bs) a (a + bs.length) t) (hi : i < bs.length / msBytes type) :
    t.rdN (a + i * msBytes type) (msBytes type)
      = msAdd type (s.rdN (a + i * msBytes type) (msBytes type)) (fieldB bs (i * msBytes type) (msBytes type)) % 256 ^ msBytes type := by
  rw [← leNat_leBytes, State.rdN, State.okBytes, leBytes_eq_map]
  congr 1
  refine List.map_congr_left fun j hj => ?_
  have below := List.mem_range.mp hj
  have inside : i * msBytes type + j < bs.length := by
    have size := msBytes_cases type
    rcases size with h | h | h <;> rw [h] at hi below ⊢ <;> omega
  have off : (a + i * msBytes type + j - a) / msBytes type * msBytes type = i * msBytes type := by
    rw [show a + i * msBytes type + j - a = j + i * msBytes type by omega, Nat.add_mul_div_right _ _ (by omega),
      Nat.div_eq_of_lt below, Nat.zero_add]
  rw [h.reads, if_pos (by omega), State.addedByte]
  simp only [off, State.sumByte]
  rw [show a + i * msBytes type + j - (a + i * msBytes type) = j by omega]

end

end Sys2Proof.Machine

/-! SUPPORT. The obligation about memory-side writes, settled: a memory-side add through the Yard, a merge-buffer entry written out, and
a write of its own. -/

namespace Sys2Proof.Machine

section
variable {s t : State} {a part type : Nat} {k : Asker} {bs : List Byte}

theorem State.memoryOpen.banksOpen (h : s.memoryOpen) : s.BanksOpen := by
  obtain ⟨⟨-, runs, -, work, -⟩, going, serves, -⟩ := h
  exact ⟨runs, work, going, serves⟩

/-! ## Where an address does not lie -/

/-- Addresses below the Bed windows and above them are no brick's. -/
theorem State.area_ne_bed (h : a < bedBase ∨ bedBase + 10752 * 2 ^ 20 ≤ a) (m : Nat) : s.area a ≠ .bed m := by
  unfold State.area
  extract_lets n
  rw [if_neg (show ¬ ((bedBase ≤ a && a < bedBase + 10752 * 2 ^ 20) = true) by simp; omega)]
  split
  · split <;> simp
  · split
    · simp
    · split
      · simp
      · split <;> simp

theorem State.settle_of_not_bed (h : a < bedBase) : s.settle a = s := by
  unfold State.settle
  split
  · rename_i m hm
    exact absurd hm (State.area_ne_bed (.inl h) m)
  · rfl

theorem stackEnd_lt_bedBase : 16 * stackBytes < bedBase := by decide

/-! ## A memory-side add (R82, R83) -/

/-- The access that a memory-side add of a partition makes. -/
def addAccess (type a : Nat) (bs : List Byte) : Access := { op := 2, addr := a, len := bs.length, type := type, data := bs.map some }

theorem State.mergeOutRange_of_empty (h : s.bk.merge = []) (a n : Nat) : s.mergeOutRange a n = s := by
  rw [State.mergeOutRange, h]
  rfl

/-- An add that the Yard has granted reaches its banks. -/
theorem State.serveLocal_add {g : State} {ga : Nat} (fits : addFits type a bs.length = true)
    (allowed : g.rangeStatus (.part part) true a bs.length = 0) (below : a < bedBase) (merge : g.bk.merge = []) :
    g.serveLocal (s.stackReq (.part part) part ga (addAccess type a bs))
      = g.submit (.part part) (addAccess type a bs) (some (s.slabOf ga * 8 + 6)) := by
  have back : (bs.map some).map (fun b : Option Byte => b.getD 0) = bs := by simp [Function.comp_def]
  simp only [State.serveLocal, State.stackReq, addAccess, YReq.who, fits, back]
  rw [show ((2 != 0) : Bool) = true from rfl, allowed]
  simp [State.settle_of_not_bed below, State.addB, State.mergeOutRange_of_empty merge]

/-- A memory-side add that the Yard takes at once sweeps its range with the sums, and its partition is answered. -/
theorem exec_memorySideAdd (hs : s.Canonical) (opened : s.memoryOpen) (fits : addFits type a bs.length = true)
    (allowed : s.rangeStatus (.part part) true a bs.length = 0) (clean : ∀ w ∈ wordsOf a bs.length, s.ecc w = .clean)
    (taken : s.takenAtOnce (.part part) part 6 (s.global a) (addAccess type a bs)) :
    ∃ u, exec (.memorySideAdd part type a bs) s = .next (u.emit (.memReply part 0 []))
      ∧ Swept (s.granted part (s.global a) bs.length) ((s.granted part (s.global a) bs.length).addedByte type a bs) a (a + bs.length) u := by
  have merge : s.bk.merge = [] := opened.1.1
  have checks := fits
  simp only [addFits, Bool.and_eq_true, decide_eq_true_eq] at checks
  obtain ⟨⟨⟨-, aligned⟩, whole⟩, inStacks⟩ := checks
  have below := stackEnd_lt_bedBase
  have run : exec (.memorySideAdd part type a bs) s
      = .next ((s.granted part (s.global a) bs.length).submit (.part part) (addAccess type a bs)
          (some (s.slabOf (s.global a) * 8 + 6))).countWaits := by
    rw [← State.serveLocal_add (g := s.granted part (s.global a) bs.length) fits allowed (by omega) merge]
    refine Eq.trans ?_ (congrArg Host.Outcome.next (State.enter_of_takenAtOnce taken))
    show execMemorySideAdd part type a bs s = _
    rw [execMemorySideAdd, fits]
    rfl
  have free : (s.granted part (s.global a) bs.length).BanksOpen :=
    ⟨opened.banksOpen.runs, opened.banksOpen.work, opened.banksOpen.going, opened.banksOpen.serves⟩
  obtain ⟨u, answered, swept⟩ : ∃ u, (s.granted part (s.global a) bs.length).submit (.part part) (addAccess type a bs)
      (some (s.slabOf (s.global a) * 8 + 6)) = u.answerAsker (.part part) 0 []
      ∧ Swept (s.granted part (s.global a) bs.length) ((s.granted part (s.global a) bs.length).addedByte type a bs) a (a + bs.length) u := by
    by_cases inside : a < 16 * stackBytes
    · exact State.submit_add (x := addAccess type a bs) hs free inside inStacks rfl rfl rfl merge aligned whole
        fun y h1 h2 => State.clean_of_wordsOf clean h1 h2
    · have empty : bs = [] := List.eq_nil_of_length_eq_zero (by omega)
      subst empty
      refine ⟨s.granted part (s.global a) 0, State.submit_beyond (Nat.not_lt.mp inside) (State.area_ne_bed (.inl ?_)) ?_,
        Swept.start (show (s.granted part (s.global a) 0).Canonical from hs) _ a⟩
      · show a < bedBase
        omega
      · simp [State.perform, addAccess, St.ok]
  refine ⟨u, ?_, swept⟩
  have waiting : (u.emit (.memReply part 0 [])).yd.waiting = [] := by
    obtain ⟨m, y, rfl⟩ := swept.only
    exact taken.1
  rw [run, answered]
  exact congrArg Host.Outcome.next (State.countWaits_of_empty waiting)

/-! ## A merge-buffer entry written out (R84, R86) -/

/-- The state in which the entry of a line has left the merge buffer. -/
def State.withoutEntry (s : State) (line : Nat) : State := { s with bk := { s.bk with merge := s.bk.merge.filter fun f => f.line ≠ line } }

/-- The write that takes a merge-buffer entry to memory. -/
def MEntry.access (e : MEntry) : Access :=
  { op := 1, addr := e.line * 64, len := 64, data := (List.range 64).map fun k => (e.bytes.find? fun b => b.1 = k).map (·.2) }

theorem MEntry.getD_access (e : MEntry) {i : Nat} (h : i < 64) : e.access.data.getD i none = (e.bytes.find? fun b => b.1 = i).map (·.2) := by
  simp [MEntry.access, List.getD_eq_getElem?_getD, h]

/-- A key's entry in a sorted list is found. -/
theorem find?_of_mem_of_sorted {α : Type} {m : List (Nat × α)} (h : smSorted m = true) {b : Nat × α} (hb : b ∈ m) :
    m.find? (fun e => e.1 = b.1) = some b := by
  induction m with
  | nil => cases hb
  | cons e m ih =>
    obtain ⟨above, sorted⟩ := smSorted_cons.mp h
    rcases List.mem_cons.mp hb with rfl | tail
    · simp
    · rw [List.find?_cons_of_neg (by simpa using (above b tail).ne)]
      exact ih sorted tail

/-- What a merge-buffer entry's write leaves: its valid bytes, and every other byte of the line as it was. -/
theorem State.writtenByte_access {e : MEntry} {y : Nat} (h1 : e.line * 64 ≤ y) (h2 : y < e.line * 64 + 64) :
    s.writtenByte e.access y = ((e.bytes.find? fun b => b.1 = y - e.line * 64).map (·.2)).getD (s.okByte y) := by
  rw [State.writtenByte, show e.access.addr = e.line * 64 from rfl, MEntry.getD_access e (by omega)]

theorem exec_mergeIdleFlush {e : MEntry} (he : s.bk.merge.find? (fun f => f.line = e.line) = some e) :
    exec (.mergeIdleFlush e.line) s = .next ((s.withoutEntry e.line).submit (.work e.owners) e.access) := by
  show execMergeIdleFlush e.line s = _
  rw [execMergeIdleFlush, he]
  rfl

/-! ## A write of its own -/

/-- The access of a write of `bs` at `a`. -/
def writeAccess (a : Nat) (bs : List Byte) : Access := { op := 1, addr := a, len := bs.length, data := bs.map some }

theorem State.writtenByte_writeAccess {i : Nat} (h : i < bs.length) : s.writtenByte (writeAccess a bs) (a + i) = bs[i] := by
  simp [State.writtenByte, writeAccess, List.getD_eq_getElem?_getD, h]

/-- A write where no merged byte waits sweeps its range. -/
theorem State.writeB_swept (hs : s.Canonical) (settled : s.settledAt a bs.length)
    (place : a + bs.length ≤ 16 * stackBytes ∨ yardBase ≤ a) :
    Swept s (s.writtenByte (writeAccess a bs)) a (a + bs.length) (s.writeB a bs) := by
  obtain ⟨opened, sound⟩ := settled
  have below := stackEnd_lt_bedBase
  have above : bedBase + 10752 * 2 ^ 20 ≤ yardBase := by decide
  have apart : 16 * stackBytes < yardBase := by decide
  have ok : ∀ y, a ≤ y → y < a + bs.length → (s.ecc y).bad = false := fun y h1 h2 => State.not_bad_of_anyBad sound h1 h2
  have run : s.writeB a bs = s.submit (.work [.none]) (writeAccess a bs) := by
    rw [State.writeB, State.mergeOutRange_of_empty opened.1.1]
    rfl
  by_cases inside : a < 16 * stackBytes
  · obtain ⟨u, answered, swept⟩ := State.submit_write (k := .work [.none]) (e := none) (x := writeAccess a bs) hs opened.banksOpen inside
      (show a + bs.length ≤ _ by omega) rfl rfl (by simp [writeAccess]) ok
    rw [run, answered]
    exact swept
  · obtain ⟨u, answered, swept⟩ := State.submit_write_beyond (k := .work [.none]) (e := none) (x := writeAccess a bs) hs
      (Nat.not_lt.mp inside) (State.area_ne_bed (show a < bedBase ∨ bedBase + 10752 * 2 ^ 20 ≤ a by omega)) rfl rfl
      (by simp [writeAccess]) ok
    rw [run, answered]
    exact swept

end

/-- Settles O23: every such write sweeps its range from low to high addresses, whole words with fresh check bits and others corrected
and merged. -/
theorem memorySideWrites : Obligations.MemorySideWrites := by
  refine ⟨?_, ?_, ?_, ?_⟩
  · intro s part type a bs hs opened fits allowed clean taken
    obtain ⟨u, run, swept⟩ := exec_memorySideAdd hs opened fits allowed clean taken
    refine ⟨_, run, fun i hi => swept.rdN_added hi, fun x hx => (swept.reads x).trans (if_neg (by omega)), ?_⟩
    obtain ⟨m, y, rfl⟩ := swept.only
    exact ⟨rfl, rfl, rfl⟩
  · intro s part type a bs h
    show execMemorySideAdd part type a bs s = _
    rw [execMemorySideAdd, h]
    rfl
  · intro s e hs he sorted within sound runs work queued going serves inside
    have opened : (s.withoutEntry e.line).BanksOpen := ⟨runs, work, going, serves⟩
    have lines : 16 * stackBytes = 64 * (stackBytes / 4) := by decide
    obtain ⟨u, answered, swept⟩ := State.submit_write (k := .work e.owners) (e := none) (x := e.access)
      (show (s.withoutEntry e.line).Canonical from hs) opened inside (show e.line * 64 + 64 ≤ _ by omega) rfl rfl (by simp [MEntry.access])
      fun y h1 h2 => State.not_bad_of_anyBad sound h1 h2
    refine ⟨u, (exec_mergeIdleFlush he).trans (congrArg _ answered), fun b hb => ?_, fun y hy => ?_, ?_⟩
    · have small := within b hb
      have read := swept.reads (e.line * 64 + b.1)
      rw [if_pos ⟨Nat.le_add_right _ _, Nat.add_lt_add_left small _⟩,
        State.writtenByte_access (Nat.le_add_right _ _) (Nat.add_lt_add_left small _), Nat.add_sub_cancel_left,
        find?_of_mem_of_sorted sorted hb] at read
      exact read
    · have read : u.okByte y = if e.line * 64 ≤ y ∧ y < e.line * 64 + 64 then (s.withoutEntry e.line).writtenByte e.access y
          else s.okByte y := swept.reads y
      by_cases h : e.line * 64 ≤ y ∧ y < e.line * 64 + 64
      · have absent : e.bytes.find? (fun b => b.1 = y - e.line * 64) = none := by
          rw [List.find?_eq_none]
          intro b hb
          have := hy b hb
          simp only [decide_eq_true_eq]
          omega
        rw [if_pos h, State.writtenByte_access h.1 h.2, absent] at read
        exact read
      · exact read.trans (if_neg h)
    · obtain ⟨m, y, rfl⟩ := swept.only
      rfl
  · intro s a bs hs settled place
    have swept := State.writeB_swept hs settled place
    refine ⟨List.ext_getElem (by simp [State.okBytes]) fun i _ hi => ?_, fun x hx => (swept.reads x).trans (if_neg (by omega)), ?_,
      swept.canonical⟩
    · simp only [State.okBytes, List.getElem_map, List.getElem_range]
      rw [swept.reads, if_pos (by omega), State.writtenByte_writeAccess hi]
    · obtain ⟨m, y, e⟩ := swept.only
      rw [e]

end Sys2Proof.Machine

/-! SUPPORT. Errors recorded with an address (R45), and writes of a stack's registers by a Trowel core. -/

namespace Sys2Proof.Machine

section
variable {s t u : State} {b : Blk} {i st v k : Nat}

/-! ## Errors recorded with an address (R45) -/

/-- R45, R48: an error that may carry an address writes the block's cause and capture registers and sends or holds its interrupt. -/
theorem State.err_at_only (s : State) {b : Blk} {i : Nat} (cause : Nat) (addr : Option Nat) (hb : errSource b i = none) :
    ErrOnly s (s.err b i cause addr) ∧ ∀ K, ¬ K (regKey (hdrAddr b 0x10) i 0) → ¬ K (regKey (hdrAddr b 0x20) i 0) →
      ¬ K (regKey (hdrAddr b 0x24) i 0) → RegsSame K s (s.err b i cause addr) := by
  cases addr with
  | none =>
    obtain ⟨only, same⟩ := s.err_only cause hb
    exact ⟨only, fun K hk _ _ => same K hk⟩
  | some a =>
    unfold State.err
    extract_lets was valid s1 s2
    have recorded : RegsOnly s s2 ∧ ∀ K, ¬ K (regKey (hdrAddr b 0x10) i 0) → ¬ K (regKey (hdrAddr b 0x20) i 0) →
        ¬ K (regKey (hdrAddr b 0x24) i 0) → RegsSame K s s2 := by
      have first : RegsOnly s s1 := (RegsOnly.refl s).setReg
      have firstSame : ∀ K, ¬ K (regKey (hdrAddr b 0x10) i 0) → RegsSame K s s1 := fun K h1 => RegsSame.setBit (RegsSame.refl s) h1
      unfold s2
      generalize BitVec.ofNat 32 a = low
      generalize BitVec.ofNat 32 (0x80000000 + cause * 0x1000000 + (a / 2 ^ 52 % 0x1000) * 0x1000 + a / 2 ^ 32 % 0x1000) = high
      split
      · exact ⟨first.setFlag, fun K h1 _ _ => (firstSame K h1).setFlag h1⟩
      · exact ⟨first.setReg.setReg, fun K h1 h2 h3 => ((firstSame K h1).setReg h2).setReg h3⟩
    obtain ⟨only, same⟩ := recorded
    split
    · obtain ⟨tr, out, e⟩ := s2.errIrq_only cause hb
      rw [e]
      exact ⟨only.errOnly.trans ⟨_, tr, out, rfl⟩, fun K h1 h2 h3 => (same K h1 h2 h3).of_regs rfl⟩
    · exact ⟨only.errOnly, same⟩

/-! ## Writes of a stack's registers by a Trowel core -/

/-- A Trowel core's served write of a stack's register does what `writeE` says. -/
theorem State.writeCmd_stk {addr : Nat} (hg : s.grants (.trowel k) addr) (hlo : 0x200000 ≤ addr) (hhi : addr < 0x210000)
    (ha : addr % 4 = 0) (hb : blkOfPage (addr / 0x1000) = some .stk) (ho : 0x40 ≤ addr % 0x1000)
    (hd : (rowOf addr).map RegRow.dim = some .inst) (hi : s.instOf .stk (addr / 0x1000) (.trowel k) = some st) (hv : v < 2 ^ 32)
    (he : s.writeE true addr st 0 v = some u) : s.writeCmd (.trowel k) addr 4 v = .next (u.replied (.trowel k) 0) := by
  obtain ⟨row, hr, dim⟩ := Option.map_eq_some_iff.mp hd
  have may : mayWrite (.trowel k) (addr / 0x1000) = true := by
    simp only [mayWrite, decide_eq_true_eq]
    omega
  exact State.writeCmd_of_putReg hg ha hv ((State.putReg_of_row hb ho hr hi).trans (State.rowWrite_stk hlo hhi dim may he))

end

end Sys2Proof.Machine

/-! SUPPORT. Row and bank spares (R95): what a repair's command names, what its start and its end leave. -/

namespace Sys2Proof.Machine

section
variable {s : State} {st v op die bank row k : Nat}

/-! ## The command's word -/

/-- The word of a repair's command. -/
def repairWord (op die bank row : Nat) : Nat := op * 2 ^ 28 + die * 2 ^ 24 + bank * 2 ^ 18 + row

theorem repairWord_fields (ho : op < 16) (hd : die < 16) (hb : bank < 64) (hr : row < 65536) :
    nbits (repairWord op die bank row) 31 28 = op ∧ nbits (repairWord op die bank row) 27 24 = die
      ∧ nbits (repairWord op die bank row) 23 18 = bank ∧ nbits (repairWord op die bank row) 15 0 = row
      ∧ repairWord op die bank row < 2 ^ 32 := by
  simp only [repairWord, nbits]
  omega

theorem fieldAt_of_lt {w sh : Nat} (h : v < 2 ^ w) : fieldAt v w sh = v * 2 ^ sh := by
  rw [fieldAt, Nat.mod_eq_of_lt h]

/-! ## A repair begins, or fails -/

/-- A repair of a stack under way. -/
def State.repairBegun (s : State) (st v : Nat) : State :=
  (((({ s with bk := { s.bk with repair := smPut s.bk.repair st (v + 1) } } : State).setFlag F.STK_RPR_STAT_BUSY true st).setFlag
    F.STK_RPR_STAT_FAIL false st).setF F.STK_RPR_STAT_PROGRESS 0 st).journalOpen 1 1 st

/-- A repair that finds no spare. -/
def State.repairExhausted (s : State) (st a : Nat) : State :=
  ((s.setFlag F.STK_RPR_STAT_FAIL true st).setFlag F.STK_RPR_STAT_EXHAUSTED true st).err .stk st 5 (some a)

theorem State.rprCmd_row (idle : s.flag F.STK_RPR_STAT_BUSY st = false) (op : nbits v 31 28 = 1)
    (spare : smGet (fun _ => 0) s.bk.rowSpares (bankKey st (nbits v 27 24 * 64 + nbits v 23 18)) < 96) :
    s.rprCmd st v = s.repairBegun st v := by
  unfold State.rprCmd
  extract_lets code
  rw [if_neg (by simp [idle]), if_pos op, if_pos spare]
  rfl

theorem State.rprCmd_bank (idle : s.flag F.STK_RPR_STAT_BUSY st = false) (op : nbits v 31 28 = 2) :
    (0 < s.bankSpares st (nbits v 27 24) → s.rprCmd st v = s.repairBegun st v)
      ∧ (s.bankSpares st (nbits v 27 24) = 0 → ∃ a, s.rprCmd st v = s.repairExhausted st a) := by
  unfold State.rprCmd
  extract_lets code
  rw [if_neg (by simp [idle]), if_neg (by omega), if_pos op]
  exact ⟨fun h => (if_pos h).trans rfl, fun h => ⟨_, (if_neg (Nat.not_lt.mpr (Nat.le_of_eq h))).trans rfl⟩⟩

theorem repairFields_fit : F.STK_RPR_STAT_BUSY.Fits ∧ F.STK_RPR_STAT_FAIL.Fits ∧ F.STK_RPR_STAT_EXHAUSTED.Fits
    ∧ F.STK_RPR_STAT_PROGRESS.Fits :=
  ⟨⟨by decide, by decide⟩, ⟨by decide, by decide⟩, ⟨by decide, by decide⟩, ⟨by decide, by decide⟩⟩

end

end Sys2Proof.Machine

/-! SUPPORT. Row and bank spares (R95): what their start and their want of a spare leave. -/

namespace Sys2Proof.Machine

section
variable {s : State} {st v a die bank row k : Nat}

/-! ## What a repair's start and its want of a spare leave -/

/-- A repair that begins shows `BUSY` and no failure, and is recorded; nothing else of the stack's registers changes. -/
theorem State.repairBegun_facts (hs : s.RegsWf) : (s.repairBegun st v).flag F.STK_RPR_STAT_BUSY st = true
    ∧ (s.repairBegun st v).flag F.STK_RPR_STAT_FAIL st = false ∧ RegsKeep [regKey A.STK_RPR_STAT st 0] s (s.repairBegun st v) := by
  obtain ⟨busy, fail, -, progress⟩ := repairFields_fit
  generalize hu : ({ s with bk := { s.bk with repair := smPut s.bk.repair st (v + 1) } } : State) = u
  have regs : u.regs = s.regs := by rw [← hu]
  have wf : u.RegsWf := by
    rw [State.RegsWf, regs]
    exact hs
  have wfBusy := State.regsWf_setFlag (i := st) wf F.STK_RPR_STAT_BUSY true 0
  have wfFail := State.regsWf_setFlag (i := st) wfBusy F.STK_RPR_STAT_FAIL false 0
  have last : (s.repairBegun st v).regs
      = (((u.setFlag F.STK_RPR_STAT_BUSY true st).setFlag F.STK_RPR_STAT_FAIL false st).setF F.STK_RPR_STAT_PROGRESS 0 st).regs := by
    rw [← hu]
    rfl
  have same : ∀ g : Fld, g.Fits → F.STK_RPR_STAT_PROGRESS.addr = g.addr → F.STK_RPR_STAT_PROGRESS.Apart g →
      (s.repairBegun st v).flag g st = ((u.setFlag F.STK_RPR_STAT_BUSY true st).setFlag F.STK_RPR_STAT_FAIL false st).flag g st := by
    intro g fits here apart
    rw [((RegsSame.refl (K := fun _ => True) _).of_regs last).flag trivial, State.flag, State.getF_setF_apart wfFail progress fits here apart,
      State.flag]
  refine ⟨?_, ?_, ?_⟩
  · rw [same _ busy rfl (.inr (by decide)), State.flag_setFlag_apart wfBusy fail busy rfl (.inr (by decide)), State.flag_setFlag_same wf busy]
  · rw [same _ fail rfl (.inr (by decide)), State.flag_setFlag_same wfBusy fail]
  · have out : ∀ {x : Nat}, ¬ (x ∉ [regKey A.STK_RPR_STAT st 0]) ↔ x = regKey A.STK_RPR_STAT st 0 := by simp
    have step := (((RegsSame.refl s).of_regs regs (K := fun x => x ∉ [regKey A.STK_RPR_STAT st 0])).setFlag (f := F.STK_RPR_STAT_BUSY)
      (v := true) (i := st) (j := 0) (out.mpr rfl)).setFlag (f := F.STK_RPR_STAT_FAIL) (v := false) (i := st) (j := 0) (out.mpr rfl)
    exact (step.setF (f := F.STK_RPR_STAT_PROGRESS) (v := 0) (i := st) (j := 0) (out.mpr rfl)).of_regs last

/-- What a repair that begins leaves besides the registers. -/
theorem State.repairBegun_frame (s : State) (st v : Nat) : (s.repairBegun st v).mem = s.mem ∧ (s.repairBegun st v).out = s.out
    ∧ (s.repairBegun st v).bk = { s.bk with repair := smPut s.bk.repair st (v + 1) } := by
  simp only [State.repairBegun, State.journalOpen, State.setF_mem, State.setF_out, State.setF_bk, State.setFlag_mem, State.setFlag_out,
    State.setFlag_bk, and_self]

/-- A repair that finds no spare shows `FAIL` and `EXHAUSTED`, and leaves banks and memory. -/
theorem State.repairExhausted_facts (hs : s.RegsWf) : (s.repairExhausted st a).flag F.STK_RPR_STAT_EXHAUSTED st = true
    ∧ (s.repairExhausted st a).flag F.STK_RPR_STAT_FAIL st = true ∧ (s.repairExhausted st a).bk = s.bk
    ∧ (s.repairExhausted st a).mem = s.mem := by
  obtain ⟨-, fail, exhausted, -⟩ := repairFields_fit
  have wfFail := State.regsWf_setFlag (i := st) hs F.STK_RPR_STAT_FAIL true 0
  generalize hu : (s.setFlag F.STK_RPR_STAT_FAIL true st).setFlag F.STK_RPR_STAT_EXHAUSTED true st = u
  obtain ⟨only, same⟩ := u.err_at_only (b := .stk) (i := st) 5 (some a) rfl
  have kept : RegsSame (· = regKey A.STK_RPR_STAT st 0) u (u.err .stk st 5 (some a)) :=
    same _ (regKey_ne_of_addr (by decide)) (regKey_ne_of_addr (by decide)) (regKey_ne_of_addr (by decide))
  have whole : s.repairExhausted st a = u.err .stk st 5 (some a) := by rw [State.repairExhausted, hu]
  obtain ⟨_, _, _, frame⟩ := only
  rw [whole, kept.flag (f := F.STK_RPR_STAT_EXHAUSTED) rfl, kept.flag (f := F.STK_RPR_STAT_FAIL) rfl, frame, ← hu]
  refine ⟨State.flag_setFlag_same wfFail exhausted _ _ _, ?_, by simp only [State.setFlag_bk], by simp only [State.setFlag_mem]⟩
  rw [State.flag_setFlag_apart wfFail exhausted fail rfl (.inr (by decide)), State.flag_setFlag_same hs fail]

/-! ## The commands -/

/-- A Trowel core's served write of `STK_RPR_CMD`. -/
theorem State.writeCmd_rprCmd (hg : s.grants (.trowel k) A.STK_RPR_CMD)
    (hi : s.instOf .stk (A.STK_RPR_CMD / 0x1000) (.trowel k) = some st) (hv : v < 2 ^ 32) :
    s.writeCmd (.trowel k) A.STK_RPR_CMD 4 v = .next ((s.rprCmd st v).replied (.trowel k) 0) := by
  refine State.writeCmd_stk hg (by decide) (by decide) (by decide) (by decide) (by decide) (by decide) hi hv ?_
  simp +decide only [State.writeE, if_false, if_true]

theorem exec_rowSpare (hd : die < 16) (hb : bank < 64) (hr : row < 65536) :
    exec (.rowSpare (.trowel k) die bank row) s = s.writeCmd (.trowel k) A.STK_RPR_CMD 4 (repairWord 1 die bank row) := by
  change s.writeCmd _ _ _ _ = _
  rw [fieldAt_of_lt (w := 4) (v := 1) (by decide), fieldAt_of_lt (w := 4) hd, fieldAt_of_lt (w := 6) hb, fieldAt_of_lt (w := 16) hr,
    Nat.pow_zero, Nat.mul_one, repairWord]

theorem exec_bankSpare (hd : die < 16) (hb : bank < 64) :
    exec (.bankSpare (.trowel k) die bank) s = s.writeCmd (.trowel k) A.STK_RPR_CMD 4 (repairWord 2 die bank 0) := by
  change s.writeCmd _ _ _ _ = _
  rw [fieldAt_of_lt (w := 4) (v := 2) (by decide), fieldAt_of_lt (w := 4) hd, fieldAt_of_lt (w := 6) hb, repairWord, Nat.add_zero]

/-- A row's spare begins. -/
theorem exec_rowSpare_begins (hg : s.grants (.trowel k) A.STK_RPR_CMD) (hi : s.instOf .stk (A.STK_RPR_CMD / 0x1000) (.trowel k) = some st)
    (idle : s.flag F.STK_RPR_STAT_BUSY st = false) (hd : die < 16) (hb : bank < 64) (hr : row < 65536)
    (spare : smGet (fun _ => 0) s.bk.rowSpares (bankKey st (die * 64 + bank)) < 96) :
    exec (.rowSpare (.trowel k) die bank row) s = .next ((s.repairBegun st (repairWord 1 die bank row)).replied (.trowel k) 0) := by
  obtain ⟨op, die', bank', -, word⟩ := repairWord_fields (op := 1) (by decide) hd hb hr
  rw [exec_rowSpare hd hb hr, State.writeCmd_rprCmd hg hi word, State.rprCmd_row idle op (by rwa [die', bank'])]

/-- A bank's spare begins where one is left, and fails where none is. -/
theorem exec_bankSpare_begins (hg : s.grants (.trowel k) A.STK_RPR_CMD) (hi : s.instOf .stk (A.STK_RPR_CMD / 0x1000) (.trowel k) = some st)
    (idle : s.flag F.STK_RPR_STAT_BUSY st = false) (hd : die < 16) (hb : bank < 64) :
    (0 < s.bankSpares st die →
      exec (.bankSpare (.trowel k) die bank) s = .next ((s.repairBegun st (repairWord 2 die bank 0)).replied (.trowel k) 0))
    ∧ (s.bankSpares st die = 0 →
      ∃ a, exec (.bankSpare (.trowel k) die bank) s = .next ((s.repairExhausted st a).replied (.trowel k) 0)) := by
  obtain ⟨op, die', -, -, word⟩ := repairWord_fields (op := 2) (row := 0) (by decide) hd hb (by decide)
  obtain ⟨begins, fails⟩ := State.rprCmd_bank idle op
  rw [die'] at begins fails
  rw [exec_bankSpare hd hb, State.writeCmd_rprCmd hg hi word]
  refine ⟨fun left => by rw [begins left], fun none => ?_⟩
  obtain ⟨a, e⟩ := fails none
  exact ⟨a, by rw [e]⟩

end

end Sys2Proof.Machine

/-! SUPPORT. The end of a row's repair (R95): the copy ends corrected, and the spare row is switched in. -/

namespace Sys2Proof.Machine

section
variable {s t : State} {st bk a die bank row : Nat}

/-! ## The copy, corrected -/

/-- Corrections of any words leave every byte as it is delivered, and change nothing but stored bytes and syndromes. -/
theorem State.foldl_correctWord (ws : List (Nat × Byte)) : ∀ s : State, s.Canonical →
    MemOnly s (ws.foldl (fun t e => t.correctWord (e.1 * 8)) s)
      ∧ ∀ x, (ws.foldl (fun t e => t.correctWord (e.1 * 8)) s).okByte x = s.okByte x := by
  induction ws with
  | nil => exact fun s _ => ⟨MemOnly.refl s, fun _ => rfl⟩
  | cons e ws ih =>
    intro s hs
    obtain ⟨only, same⟩ := ih (s.correctWord (e.1 * 8)) (State.correctWord_keeps canonical_stable hs)
    exact ⟨(s.correctWord_only _).trans only, fun x => (same x).trans (State.okByte_correctWord hs)⟩

theorem State.correctAll_only (hs : s.Canonical) (p : Nat → Bool) :
    MemOnly s (s.correctAll p) ∧ ∀ x, (s.correctAll p).okByte x = s.okByte x :=
  State.foldl_correctWord _ s hs

/-! ## The repair ends -/

/-- The repair of a stack is over. -/
def State.repairEnded (s : State) (st : Nat) : State :=
  (({ s with bk := { s.bk with repair := smDel s.bk.repair st } } : State).setFlag F.STK_RPR_STAT_BUSY false st).journalClose 1 st

/-- A row of a bank, which lies at `a`, is copied to a spare row and switched. -/
def State.rowCopied (t : State) (bk a : Nat) : State :=
  { (t.correctAll fun x => a ≤ x && x < a + 2048) with
    bk := { t.bk with rowSpares := smSet (fun _ => 0) t.bk.rowSpares bk (smGet (fun _ => 0) t.bk.rowSpares bk + 1) } }

/-- The spare rows left are counted and the repair is recorded; `n` rows of the bank have been spared. -/
def State.rowRecorded (t : State) (st bk row n : Nat) : State :=
  ((t.setF F.STK_SPARE_ROWS_TOTAL (t.getF F.STK_SPARE_ROWS_TOTAL st - 1) st).setF F.STK_SPARE_ROWS_MIN_BANK
    (min ((t.setF F.STK_SPARE_ROWS_TOTAL (t.getF F.STK_SPARE_ROWS_TOTAL st - 1) st).getF F.STK_SPARE_ROWS_MIN_BANK st) (96 - n))
    st).recordRepair bk (row + 1)

theorem State.repairEnded_frame (s : State) (st : Nat) : (s.repairEnded st).mem = s.mem ∧ (s.repairEnded st).synd = s.synd
    ∧ (s.repairEnded st).bk = { s.bk with repair := smDel s.bk.repair st } := by
  simp only [State.repairEnded, State.journalClose, State.setFlag_mem, State.setFlag_synd, State.setFlag_bk, and_self]

theorem State.canonical_repairEnded (hs : s.Canonical) : (s.repairEnded st).Canonical :=
  State.journalClose_keeps canonical_stable.toStable (State.setFlag_keeps canonical_stable.toStable hs)

theorem State.flag_repairEnded (hs : s.RegsWf) : (s.repairEnded st).flag F.STK_RPR_STAT_BUSY st = false :=
  State.flag_setFlag_same (s := { s with bk := _ }) hs repairFields_fit.1 false st 0

/-- What the copy of a row changes: no byte as delivered, no register, one more spare row used. -/
theorem State.rowCopied_facts (ht : t.Canonical) : (∀ x, (t.rowCopied bk a).okByte x = t.okByte x) ∧ (t.rowCopied bk a).regs = t.regs
    ∧ (t.rowCopied bk a).bk
      = { t.bk with rowSpares := smSet (fun _ => 0) t.bk.rowSpares bk (smGet (fun _ => 0) t.bk.rowSpares bk + 1) } := by
  obtain ⟨⟨m, y, only⟩, same⟩ := State.correctAll_only ht fun x => a ≤ x && x < a + 2048
  exact ⟨fun x => (State.okByte_congr rfl rfl x).trans (same x), (congrArg State.regs only :), rfl⟩

theorem State.recordRepair_facts (t : State) (bk row : Nat) : (t.recordRepair bk row).regs = t.regs
    ∧ (bk, row) ∈ (t.recordRepair bk row).ftg.repairRecord :=
  ⟨rfl, List.mem_append_right _ (List.mem_singleton_self _)⟩

/-- What the record of a row's repair changes: the count of spare rows and the record. -/
theorem State.rowRecorded_facts (t : State) (st bk row n : Nat) : (∀ x, (t.rowRecorded st bk row n).okByte x = t.okByte x)
    ∧ (t.rowRecorded st bk row n).flag F.STK_RPR_STAT_BUSY st = t.flag F.STK_RPR_STAT_BUSY st ∧ (t.rowRecorded st bk row n).bk = t.bk
    ∧ (bk, row + 1) ∈ (t.rowRecorded st bk row n).ftg.repairRecord := by
  refine ⟨State.okByte_congr ?_ ?_, ?_, ?_, ?_⟩
  · simp only [State.rowRecorded, State.recordRepair, State.setF_mem]
  · simp only [State.rowRecorded, State.recordRepair, State.setF_synd]
  · have first : ∀ v, RegsSame (· = regKey A.STK_RPR_STAT st 0) t (t.setF F.STK_SPARE_ROWS_TOTAL v st) := fun v =>
      (RegsSame.refl t).setF (regKey_ne_of_addr (by decide))
    have second : ∀ v w, RegsSame (· = regKey A.STK_RPR_STAT st 0) t
        ((t.setF F.STK_SPARE_ROWS_TOTAL v st).setF F.STK_SPARE_ROWS_MIN_BANK w st) := fun v w =>
      (first v).setF (regKey_ne_of_addr (by decide))
    unfold State.rowRecorded
    generalize t.getF F.STK_SPARE_ROWS_TOTAL st - 1 = v
    generalize min ((t.setF F.STK_SPARE_ROWS_TOTAL v st).getF F.STK_SPARE_ROWS_MIN_BANK st) (96 - n) = w
    exact ((second v w).of_regs (State.recordRepair_facts _ _ _).1).flag (f := F.STK_RPR_STAT_BUSY) rfl
  · simp only [State.rowRecorded, State.recordRepair, State.setF_bk]
  · exact (State.recordRepair_facts _ _ _).2

/-- REPAIR_DONE of a row, its bank in no pass. -/
theorem exec_repairDone_row (hd : die < 16) (hb : bank < 64) (hr : row < 65536)
    (found : s.bk.repair.find? (fun e => e.1 = st) = some (st, repairWord 1 die bank row + 1))
    (idle : s.runAt (bankKey st (die * 64 + bank)) = none) :
    exec (.repairDone st) s
      = .next (((s.repairEnded st).rowCopied (bankKey st (die * 64 + bank))
          ((s.repairEnded st).addrIn st (rowOffset die bank row))).rowRecorded st (bankKey st (die * 64 + bank)) row
            (smGet (fun _ => 0) (s.repairEnded st).bk.rowSpares (bankKey st (die * 64 + bank)) + 1)) := by
  obtain ⟨op, die', bank', row', -⟩ := repairWord_fields (op := 1) (by decide) hd hb hr
  change execRepairDone st s = _
  unfold execRepairDone
  simp only [found, Nat.add_sub_cancel, op, die', bank', row', idle, Option.isSome_none, Bool.false_eq_true, if_false, if_true]
  rfl

end

end Sys2Proof.Machine

/-! SUPPORT. Stack training (R402, R440, R443): its start, and what its end leaves. -/

namespace Sys2Proof.Machine

section
variable {s t : State} {st result dieOk chOk k x : Nat}

theorem trainFields_fit : F.STK_TRAIN_START.Fits ∧ F.STK_TRAIN_RESULT.Fits ∧ F.STK_STATE_DIE_OK.Fits :=
  ⟨⟨by decide, by decide⟩, ⟨by decide, by decide⟩, ⟨by decide, by decide⟩⟩

/-! ## The start -/

/-- A stack whose training has started. -/
def State.trainStarted (s : State) (st : Nat) : State :=
  (((s.setFlag F.STK_TRAIN_START true st).setF F.STK_TRAIN_PHASE 1 st).setF F.STK_TRAIN_RESULT 0 st).setUnit .stk st 2

theorem State.stkTrain_of_idle (idle : s.flag F.STK_TRAIN_START st = false) : s.stkTrain st = s.trainStarted st := by
  rw [State.stkTrain, if_neg (by simp [idle]), State.trainStarted]

theorem exec_stkTrainStart (hg : s.grants (.trowel k) A.STK_TRAIN) (hi : s.instOf .stk (A.STK_TRAIN / 0x1000) (.trowel k) = some st)
    (idle : s.flag F.STK_TRAIN_START st = false) (off : s.stackServes st = false) :
    exec (.stkTrainStart (.trowel k)) s = .next ((s.trainStarted st).replied (.trowel k) 0) := by
  refine State.writeCmd_stk hg (by decide) (by decide) (by decide) (by decide) (by decide) (by decide) hi (by decide) ?_
  rw [← State.stkTrain_of_idle idle]
  simp +decide only [State.writeE, if_false, if_true, idle, off]

/-- Training that starts shows `START`, `PHASE` 1 and a stack that trains, and changes nothing else but its result. -/
theorem State.trainStarted_facts (hs : s.RegsWf) : (s.trainStarted st).flag F.STK_TRAIN_START st = true
    ∧ (s.trainStarted st).getF F.STK_TRAIN_PHASE st = 1 ∧ (s.trainStarted st).unit .stk st = 2
    ∧ RegsKeep [regKey A.STK_TRAIN st 0, regKey (hdrAddr .stk 0x0C) st 0] s (s.trainStarted st)
    ∧ UnitsOnly s (s.trainStarted st) := by
  obtain ⟨start, result, -⟩ := trainFields_fit
  have wf1 := State.regsWf_setFlag (i := st) hs F.STK_TRAIN_START true 0
  have wf2 := State.regsWf_setF wf1 F.STK_TRAIN_PHASE 1 st 0
  have wf3 := State.regsWf_setF wf2 F.STK_TRAIN_RESULT 0 st 0
  unfold State.trainStarted
  refine ⟨?_, ?_, State.unit_setUnit wf3 .stk st 2, ?_, ?_⟩
  · rw [State.flag, State.getF_setUnit F.STK_TRAIN_START 2 (by decide), State.getF_setF_apart wf2 result start rfl (.inr (by decide)),
      State.getF_setF_apart wf1 trainPhase_fits start rfl (.inr (by decide))]
    exact State.flag_setFlag_same hs start true st 0
  · rw [State.getF_setUnit F.STK_TRAIN_PHASE 2 (by decide), State.getF_setF_apart wf2 result trainPhase_fits rfl (.inr (by decide)),
      State.getF_setF_same wf1 trainPhase_fits]
    rfl
  · generalize hL : [regKey A.STK_TRAIN st 0, regKey (hdrAddr .stk 0x0C) st 0] = L
    have train : ¬ (regKey A.STK_TRAIN st 0 ∉ L) := not_not_intro (hL ▸ List.mem_cons_self)
    have state : ¬ (regKey (hdrAddr .stk 0x0C) st 0 ∉ L) := not_not_intro (hL ▸ List.mem_cons_of_mem _ (List.mem_singleton_self _))
    have started := (RegsSame.refl (K := (· ∉ L)) s).setFlag (f := F.STK_TRAIN_START) (v := true) (i := st) (j := 0) train
    have shown := (started.setF (f := F.STK_TRAIN_PHASE) (v := 1) (i := st) (j := 0) train).setF (f := F.STK_TRAIN_RESULT) (v := 0)
      (i := st) (j := 0) train
    exact shown.setUnit state
  · exact (((RegsOnly.refl s).setFlag.setF.setF).unitsOnly).setUnit .stk st 2

/-! ## The end -/

/-- Start-up counts a stack among those whose training has ended. -/
def State.stackCounted (t : State) (st : Nat) : State :=
  { t with dv := { t.dv with stacksDone := if t.dv.stacksDone.contains st then t.dv.stacksDone else t.dv.stacksDone ++ [st] } }

/-- A stack whose training has ended: `START` is clear, its result, dies and channels are shown, and start-up counts it. -/
def State.trainOver (s : State) (st result dieOk chOk : Nat) : State :=
  ((((s.setFlag F.STK_TRAIN_START false st).setF F.STK_TRAIN_RESULT result st).setF F.STK_STATE_DIE_OK dieOk st).setPair
    A.STK_CHOK_LO A.STK_CHOK_HI chOk st).stackCounted st

theorem State.stackCounted_frame (t : State) (st : Nat) : (t.Canonical → (t.stackCounted st).Canonical)
    ∧ (t.stackCounted st).regs = t.regs ∧ (t.stackCounted st).mem = t.mem ∧ (t.stackCounted st).bk = t.bk
    ∧ (t.stackCounted st).dv.gradeC = t.dv.gradeC ∧ (t.stackCounted st).dv.st = t.dv.st :=
  ⟨id, rfl, rfl, rfl, rfl, rfl⟩

theorem State.mem_stackCounted (t : State) (st : Nat) : st ∈ (t.stackCounted st).dv.stacksDone := by
  unfold State.stackCounted
  dsimp only
  split
  · next h => exact List.contains_iff_mem.mp h
  · exact List.mem_append_right _ (List.mem_singleton_self _)

/-- A stack that has passed is ready, filled with zero. -/
def State.trainPassed (t : State) (st : Nat) : State := ((t.fillStack st).setF F.STK_TRAIN_PHASE 4 st).setUnit .stk st 3

/-- A stack that has failed is off, and an error says so. -/
def State.trainFailed (t : State) (st : Nat) : State := ((t.setF F.STK_TRAIN_PHASE 5 st).setUnit .stk st 1).err .stk st 2

theorem exec_stkTrainDone (on : s.flag F.STK_TRAIN_START st = true) :
    exec (.stkTrainDone st result dieOk chOk) s =
      (if result ≠ 0 then done ((s.trainOver st result dieOk chOk).trainFailed st)
       else if (s.trainOver st result dieOk chOk).dv.st = .bringup then
         done ((s.trainOver st result dieOk chOk).setF F.STK_TRAIN_PHASE 3 st)
       else done ((s.trainOver st result dieOk chOk).trainPassed st)) := by
  change execStkTrainDone st result dieOk chOk s = _
  unfold execStkTrainDone
  rw [if_neg (by simp [on])]
  rfl

theorem State.canonical_trainOver (hs : s.Canonical) : (s.trainOver st result dieOk chOk).Canonical :=
  (State.stackCounted_frame _ st).1 (State.setPair_keeps canonical_stable.toStable (State.setF_keeps canonical_stable.toStable
    (State.setF_keeps canonical_stable.toStable (State.setFlag_keeps canonical_stable.toStable hs))))

theorem State.trainOver_frame (s : State) (st result dieOk chOk : Nat) : (s.trainOver st result dieOk chOk).mem = s.mem
    ∧ (s.trainOver st result dieOk chOk).dv.gradeC = s.dv.gradeC ∧ (s.trainOver st result dieOk chOk).bk = s.bk
    ∧ (s.trainOver st result dieOk chOk).dv.st = s.dv.st ∧ st ∈ (s.trainOver st result dieOk chOk).dv.stacksDone := by
  obtain ⟨-, -, mem, bk, grade, phase⟩ := State.stackCounted_frame ((((s.setFlag F.STK_TRAIN_START false st).setF F.STK_TRAIN_RESULT result
    st).setF F.STK_STATE_DIE_OK dieOk st).setPair A.STK_CHOK_LO A.STK_CHOK_HI chOk st) st
  refine ⟨mem.trans ?_, grade.trans ?_, bk.trans ?_, phase.trans ?_, State.mem_stackCounted _ _⟩
  · simp only [State.setPair_mem, State.setF_mem, State.setFlag_mem]
  · simp only [State.setPair_dv, State.setF_dv, State.setFlag_dv]
  · simp only [State.setPair_bk, State.setF_bk, State.setFlag_bk]
  · simp only [State.setPair_dv, State.setF_dv, State.setFlag_dv]

/-- What training that ended shows. -/
theorem State.trainOver_facts (hs : s.RegsWf) : (s.trainOver st result dieOk chOk).flag F.STK_TRAIN_START st = false
    ∧ (s.trainOver st result dieOk chOk).getF F.STK_TRAIN_RESULT st = result % 65536
    ∧ (s.trainOver st result dieOk chOk).getF F.STK_STATE_DIE_OK st = dieOk % 65536
    ∧ (s.trainOver st result dieOk chOk).unit .stk st = s.unit .stk st := by
  obtain ⟨start, fits, die⟩ := trainFields_fit
  have wf1 := State.regsWf_setFlag (i := st) hs F.STK_TRAIN_START false 0
  have wf2 := State.regsWf_setF wf1 F.STK_TRAIN_RESULT result st 0
  generalize hu : (s.setFlag F.STK_TRAIN_START false st).setF F.STK_TRAIN_RESULT result st = u at wf2
  have last : (s.trainOver st result dieOk chOk).regs = ((u.setF F.STK_STATE_DIE_OK dieOk st).setPair A.STK_CHOK_LO A.STK_CHOK_HI chOk st).regs := by
    rw [← hu]
    exact (State.stackCounted_frame _ st).2.1
  have pair : ∀ f : Fld, f.addr ≠ A.STK_CHOK_LO → f.addr ≠ A.STK_CHOK_HI →
      (s.trainOver st result dieOk chOk).getF f st = (u.setF F.STK_STATE_DIE_OK dieOk st).getF f st := fun f lo hi =>
    (((RegsSame.refl (K := (· = regKey f.addr st 0)) (u.setF F.STK_STATE_DIE_OK dieOk st)).setPair (regKey_ne_of_addr lo.symm)
      (regKey_ne_of_addr hi.symm)).of_regs last).getF rfl
  have both : ∀ f : Fld, f.addr ≠ A.STK_CHOK_LO → f.addr ≠ A.STK_CHOK_HI → f.addr ≠ F.STK_STATE_DIE_OK.addr →
      (s.trainOver st result dieOk chOk).getF f st = u.getF f st := fun f lo hi dies =>
    (pair f lo hi).trans (State.getF_setF_ne dieOk (regKey_ne_of_addr dies))
  refine ⟨?_, ?_, ?_, ?_⟩
  · rw [State.flag, both F.STK_TRAIN_START (by decide) (by decide) (by decide), ← hu,
      State.getF_setF_apart wf1 fits start rfl (.inr (by decide))]
    exact State.flag_setFlag_same hs start false st 0
  · rw [both F.STK_TRAIN_RESULT (by decide) (by decide) (by decide), ← hu, State.getF_setF_same wf1 fits]
    rfl
  · rw [pair F.STK_STATE_DIE_OK (by decide) (by decide), State.getF_setF_same wf2 die]
    rfl
  · rw [State.unit, both (hdrF .stk 0x0C 31 28) (by decide) (by decide) (by decide), ← hu]
    exact (State.unit_setF F.STK_TRAIN_RESULT result (by decide)).trans (State.unit_setF F.STK_TRAIN_START _ (by decide))

end

end Sys2Proof.Machine

/-! SUPPORT. Stack training (R402, R440, R443): a stack that passed, and one that failed. -/

namespace Sys2Proof.Machine

section
variable {s t : State} {st a : Nat}

/-! ## A stack that passed -/

/-- The stack that holds an address is a matter of the region table and the grade. -/
theorem State.heldBy_congr (hb : t.bk = s.bk) (hg : t.dv.gradeC = s.dv.gradeC) (a : Nat) : t.heldBy a = s.heldBy a := by
  have region : t.region (granule a) = s.region (granule a) := by simp only [State.region, State.regionRaw, hb]
  have count : t.stackCount = s.stackCount := by rw [State.stackCount, State.stackCount, hg]
  rw [State.heldBy, State.heldBy, region, count]

/-- The fill of a stack zeroes the bytes it holds and no other. -/
theorem State.byte_fillStack (t : State) (st a : Nat) : (a < 16 * stackBytes → t.heldBy a = st → (t.fillStack st).byte a = 0#8)
    ∧ ((16 * stackBytes ≤ a ∨ t.heldBy a ≠ st) → (t.fillStack st).byte a = t.byte a) := by
  refine ⟨fun inside held => ?_, fun outside => ?_⟩
  · exact smGet_filter_of_neg (d := memDefault) fun v => by
      simp only [Bool.or_eq_false_iff, decide_eq_false_iff_not]
      exact ⟨Nat.not_le.mpr inside, not_not_intro held⟩
  · exact smGet_filter_of_pos (d := memDefault) fun v => by
      simp only [Bool.or_eq_true, decide_eq_true_eq]
      exact outside

/-- A stack that passed is ready, in its last phase, and keeps its other fields. -/
theorem State.trainPassed_facts (ht : t.Canonical) : (t.trainPassed st).unit .stk st = 3
    ∧ (t.trainPassed st).getF F.STK_TRAIN_PHASE st = 4 ∧ (t.trainPassed st).flag F.STK_TRAIN_START st = t.flag F.STK_TRAIN_START st
    ∧ (t.trainPassed st).getF F.STK_STATE_DIE_OK st = t.getF F.STK_STATE_DIE_OK st
    ∧ (t.trainPassed st).mem = (t.fillStack st).mem := by
  obtain ⟨start, -, -⟩ := trainFields_fit
  have filled : (t.fillStack st).Canonical := State.fillStack_keeps canonical_stable ht
  have same : ∀ f : Fld, (t.fillStack st).getF f st = t.getF f st := fun _ => rfl
  have shown := State.regsWf_setF filled.1 F.STK_TRAIN_PHASE 4 st 0
  unfold State.trainPassed
  generalize t.fillStack st = u at filled same shown ⊢
  refine ⟨State.unit_setUnit shown .stk st 3, ?_, ?_, ?_, by simp only [State.setUnit_mem, State.setF_mem]⟩
  · rw [State.getF_setUnit F.STK_TRAIN_PHASE 3 (by decide), State.getF_setF_same filled.1 trainPhase_fits]
    rfl
  · rw [State.flag, State.flag, State.getF_setUnit F.STK_TRAIN_START 3 (by decide),
      State.getF_setF_apart filled.1 trainPhase_fits start rfl (.inr (by decide)), same]
  · rw [State.getF_setUnit F.STK_STATE_DIE_OK 3 (by decide), State.getF_setF_ne 4 (regKey_ne_of_addr (by decide)), same]

/-! ## A stack that waits for the common fill -/

theorem State.setF_phase_facts (ht : t.RegsWf) : (t.setF F.STK_TRAIN_PHASE 3 st).getF F.STK_TRAIN_PHASE st = 3
    ∧ (t.setF F.STK_TRAIN_PHASE 3 st).unit .stk st = t.unit .stk st :=
  ⟨State.getF_setF_same ht trainPhase_fits 3 st 0, State.unit_setF F.STK_TRAIN_PHASE 3 (by decide)⟩

/-! ## A stack that failed -/

/-- A stack that failed is off, in its failed phase, keeps its result and memory, and shows its cause. -/
theorem State.trainFailed_facts (ht : t.RegsWf) : (t.trainFailed st).unit .stk st = 1
    ∧ (t.trainFailed st).getF F.STK_TRAIN_PHASE st = 5
    ∧ (t.trainFailed st).getF F.STK_TRAIN_RESULT st = t.getF F.STK_TRAIN_RESULT st
    ∧ (t.trainFailed st).bit (hdrF .stk 0x10 30 0) 2 st = true ∧ (t.trainFailed st).mem = t.mem := by
  obtain ⟨-, result, -⟩ := trainFields_fit
  have shown := State.regsWf_setF ht F.STK_TRAIN_PHASE 5 st 0
  generalize hu : (t.setF F.STK_TRAIN_PHASE 5 st).setUnit .stk st 1 = u
  have wf : u.RegsWf := hu ▸ State.setUnit_keeps regsWf_stable shown
  have field : ∀ f : Fld, f.addr ≠ hdrAddr .stk 0x10 → f.addr ≠ hdrAddr .stk 0x0C →
      (t.trainFailed st).getF f st = (t.setF F.STK_TRAIN_PHASE 5 st).getF f st := fun f cause unit => by
    rw [State.trainFailed, hu, ((u.err_only 2 rfl).2 (· = regKey f.addr st 0) (regKey_ne_of_addr cause.symm)).getF rfl, ← hu,
      State.getF_setUnit f 1 unit]
  have kept : RegsSame (· = regKey (hdrAddr .stk 0x0C) st 0) u (t.trainFailed st) := by
    rw [State.trainFailed, hu]
    exact (u.err_only 2 rfl).2 _ (hdrKey_ne (by decide))
  obtain ⟨⟨_, _, _, frame⟩, -⟩ := u.err_only (b := .stk) (i := st) 2 rfl
  refine ⟨?_, ?_, ?_, ?_, ?_⟩
  · rw [State.unit, kept.getF (f := hdrF .stk 0x0C 31 28) rfl, ← hu]
    exact State.unit_setUnit shown .stk st 1
  · rw [field F.STK_TRAIN_PHASE (by decide) (by decide), State.getF_setF_same ht trainPhase_fits]
    rfl
  · rw [field F.STK_TRAIN_RESULT (by decide) (by decide), State.getF_setF_apart ht trainPhase_fits result rfl (.inl (by decide))]
  · rw [State.trainFailed, hu]
    exact State.bit_err wf rfl (by decide)
  · rw [State.trainFailed, hu, frame, ← hu]
    simp only [State.setUnit_mem, State.setF_mem]

end

end Sys2Proof.Machine

/-! SUPPORT. Row and bank spares and stack training, with the obligation about them. -/

namespace Sys2Proof.Machine

section
variable {s u : State} {st k die bank row n dieOk chOk : Nat}

/-- A reply is sent: no register, bank or byte changes. -/
theorem State.replied_frame (u : State) (r : Requester) (c : Nat) : (u.replied r c).regs = u.regs ∧ (u.replied r c).bk = u.bk
    ∧ (u.replied r c).mem = u.mem ∧ (u.replied r c).out = u.out ++ [.regReply r c 0] :=
  ⟨rfl, rfl, rfl, rfl⟩

theorem State.getF_of_regs {t : State} (h : t.regs = s.regs) (f : Fld) (i : Nat) : t.getF f i = s.getF f i := by
  simp only [State.getF, State.reg, h]

theorem State.flag_of_regs {t : State} (h : t.regs = s.regs) (f : Fld) (i : Nat) : t.flag f i = s.flag f i := by
  rw [State.flag, State.flag, State.getF_of_regs h]

theorem repairWord_one (die bank row : Nat) : repairWord 1 die bank row = 2 ^ 28 + die * 2 ^ 24 + bank * 2 ^ 18 + row := by
  rw [repairWord, Nat.one_mul]

theorem repairWord_two (die bank : Nat) : repairWord 2 die bank 0 = 2 * 2 ^ 28 + die * 2 ^ 24 + bank * 2 ^ 18 := by
  rw [repairWord, Nat.add_zero]

/-! ## Repairs -/

/-- A repair that begins, answered. -/
theorem State.repairBegun_replied (hs : s.RegsWf) (r : Requester) (v : Nat) :
    ((s.repairBegun st v).replied r 0).flag F.STK_RPR_STAT_BUSY st = true
      ∧ ((s.repairBegun st v).replied r 0).flag F.STK_RPR_STAT_FAIL st = false
      ∧ ((s.repairBegun st v).replied r 0).bk = { s.bk with repair := smPut s.bk.repair st (v + 1) }
      ∧ RegsKeep [regKey A.STK_RPR_STAT st 0] s ((s.repairBegun st v).replied r 0)
      ∧ ((s.repairBegun st v).replied r 0).mem = s.mem
      ∧ ((s.repairBegun st v).replied r 0).out = s.out ++ [.regReply r 0 0] := by
  obtain ⟨busy, fail, keep⟩ := State.repairBegun_facts (st := st) (v := v) hs
  obtain ⟨mem, out, bk⟩ := s.repairBegun_frame st v
  generalize s.repairBegun st v = u at busy fail keep mem out bk ⊢
  obtain ⟨regs', bk', mem', out'⟩ := u.replied_frame r 0
  rw [State.flag_of_regs regs', State.flag_of_regs regs', bk', mem', out', out]
  exact ⟨busy, fail, bk, RegsSame.of_regs keep regs', mem, rfl⟩

/-- A repair without a spare, answered. -/
theorem State.repairExhausted_replied (hs : s.RegsWf) (r : Requester) (a : Nat) :
    ((s.repairExhausted st a).replied r 0).flag F.STK_RPR_STAT_EXHAUSTED st = true
      ∧ ((s.repairExhausted st a).replied r 0).flag F.STK_RPR_STAT_FAIL st = true
      ∧ ((s.repairExhausted st a).replied r 0).bk = s.bk ∧ ((s.repairExhausted st a).replied r 0).mem = s.mem := by
  obtain ⟨exhausted, fail, bk, mem⟩ := State.repairExhausted_facts (st := st) (a := a) hs
  generalize s.repairExhausted st a = u at exhausted fail bk mem ⊢
  obtain ⟨regs', bk', mem', -⟩ := u.replied_frame r 0
  rw [State.flag_of_regs regs', State.flag_of_regs regs', bk', mem']
  exact ⟨exhausted, fail, bk, mem⟩

/-- A row's repair ends. -/
theorem exec_repairDone_row_facts (hs : s.Canonical) (hd : die < 16) (hb : bank < 64) (hr : row < 65536)
    (found : s.bk.repair.find? (fun e => e.1 = st) = some (st, repairWord 1 die bank row + 1))
    (idle : s.runAt (bankKey st (die * 64 + bank)) = none) :
    ∃ t, exec (.repairDone st) s = .next t ∧ t.flag F.STK_RPR_STAT_BUSY st = false
      ∧ smGet (fun _ => 0) t.bk.rowSpares (bankKey st (die * 64 + bank))
          = smGet (fun _ => 0) s.bk.rowSpares (bankKey st (die * 64 + bank)) + 1
      ∧ (bankKey st (die * 64 + bank), row + 1) ∈ t.ftg.repairRecord ∧ (∀ a, t.okByte a = s.okByte a) := by
  refine ⟨_, exec_repairDone_row hd hb hr found idle, ?_⟩
  generalize bankKey st (die * 64 + bank) = bk
  have ended := State.canonical_repairEnded (st := st) hs
  have busy := State.flag_repairEnded (st := st) hs.1
  obtain ⟨endedMem, endedSynd, endedBk⟩ := s.repairEnded_frame st
  have used : (s.repairEnded st).bk.rowSpares = s.bk.rowSpares := by rw [endedBk]
  generalize s.repairEnded st = e at ended busy endedMem endedSynd used ⊢
  generalize e.addrIn st (rowOffset die bank row) = a
  obtain ⟨copiedBytes, copiedRegs, copiedBk⟩ := State.rowCopied_facts (bk := bk) (a := a) ended
  generalize e.rowCopied bk a = c at copiedBytes copiedRegs copiedBk ⊢
  obtain ⟨bytes, flag, banks, record⟩ := c.rowRecorded_facts st bk row (smGet (fun _ => 0) e.bk.rowSpares bk + 1)
  refine ⟨flag.trans ((State.flag_of_regs copiedRegs _ _).trans busy), ?_, record, fun x => ?_⟩
  · rw [banks, copiedBk, used]
    exact smGet_smSet_of_ne (d := fun _ => 0) _ (Nat.succ_ne_zero (smGet (fun _ => 0) s.bk.rowSpares bk))
  · rw [bytes, copiedBytes]
    exact State.okByte_congr endedMem endedSynd x

/-! ## Training -/

/-- Training that starts, answered. -/
theorem State.trainStarted_replied (hs : s.RegsWf) (r : Requester) :
    ((s.trainStarted st).replied r 0).flag F.STK_TRAIN_START st = true
      ∧ ((s.trainStarted st).replied r 0).getF F.STK_TRAIN_PHASE st = 1 ∧ ((s.trainStarted st).replied r 0).unit .stk st = 2
      ∧ RegsKeep [regKey A.STK_TRAIN st 0, regKey (hdrAddr .stk 0x0C) st 0] s ((s.trainStarted st).replied r 0)
      ∧ (s.trainStarted st).replied r 0 = { s with
          regs := ((s.trainStarted st).replied r 0).regs, unitGen := ((s.trainStarted st).replied r 0).unitGen
          out := s.out ++ [.regReply r 0 0] } := by
  obtain ⟨start, phase, unit, keep, only⟩ := State.trainStarted_facts (st := st) hs
  generalize s.trainStarted st = u at start phase unit keep only ⊢
  obtain ⟨regs', -⟩ := u.replied_frame r 0
  refine ⟨(State.flag_of_regs regs' _ _).trans start, (State.getF_of_regs regs' _ _).trans phase,
    (State.getF_of_regs regs' _ _).trans unit, RegsSame.of_regs keep regs', only.replied 0⟩

/-- A stack passes at a time other than start-up. -/
theorem exec_stkTrainDone_pass (hs : s.Canonical) (on : s.flag F.STK_TRAIN_START st = true) (up : s.dv.st ≠ .bringup) :
    ∃ t, exec (.stkTrainDone st 0 dieOk chOk) s = .next t ∧ t.unit .stk st = 3 ∧ t.getF F.STK_TRAIN_PHASE st = 4
      ∧ t.flag F.STK_TRAIN_START st = false ∧ t.getF F.STK_STATE_DIE_OK st = dieOk % 65536
      ∧ (∀ a, a < 16 * stackBytes → s.heldBy a = st → t.byte a = 0#8)
      ∧ (∀ a, (16 * stackBytes ≤ a ∨ s.heldBy a ≠ st) → t.byte a = s.byte a) := by
  have canon := State.canonical_trainOver (st := st) (result := 0) (dieOk := dieOk) (chOk := chOk) hs
  obtain ⟨start, -, dies, -⟩ := State.trainOver_facts (st := st) (result := 0) (dieOk := dieOk) (chOk := chOk) hs.1
  obtain ⟨mem, grade, bk, phase, -⟩ := s.trainOver_frame st 0 dieOk chOk
  refine ⟨_, (exec_stkTrainDone on).trans ((if_neg (by decide)).trans (if_neg (phase.symm ▸ up))), ?_⟩
  generalize s.trainOver st 0 dieOk chOk = t at canon start dies mem grade bk ⊢
  obtain ⟨unit, shown, start', dies', filled⟩ := State.trainPassed_facts (st := st) canon
  have byte : ∀ a, (t.trainPassed st).byte a = (t.fillStack st).byte a := fun a => by rw [State.byte, State.byte, filled]
  have old : ∀ a, t.byte a = s.byte a := fun a => by rw [State.byte, State.byte, mem]
  refine ⟨unit, shown, start'.trans start, dies'.trans dies, fun a inside held => ?_, fun a outside => ?_⟩
  · exact (byte a).trans ((State.byte_fillStack t st a).1 inside ((State.heldBy_congr bk grade a).trans held))
  · rw [← State.heldBy_congr bk grade a] at outside
    exact (byte a).trans (((State.byte_fillStack t st a).2 outside).trans (old a))

/-- A stack passes in start-up, and waits for the common fill. -/
theorem exec_stkTrainDone_bringup (hs : s.Canonical) (on : s.flag F.STK_TRAIN_START st = true) (up : s.dv.st = .bringup) :
    ∃ t, exec (.stkTrainDone st 0 dieOk chOk) s = .next t ∧ t.getF F.STK_TRAIN_PHASE st = 3 ∧ t.unit .stk st = s.unit .stk st
      ∧ st ∈ t.dv.stacksDone ∧ t.mem = s.mem := by
  have canon := State.canonical_trainOver (st := st) (result := 0) (dieOk := dieOk) (chOk := chOk) hs
  obtain ⟨-, -, -, unit⟩ := State.trainOver_facts (st := st) (result := 0) (dieOk := dieOk) (chOk := chOk) hs.1
  obtain ⟨mem, -, -, phase, counted⟩ := s.trainOver_frame st 0 dieOk chOk
  refine ⟨_, (exec_stkTrainDone on).trans ((if_neg (by decide)).trans (if_pos (phase.trans up))), ?_⟩
  generalize s.trainOver st 0 dieOk chOk = t at canon unit mem counted ⊢
  obtain ⟨shown, unit'⟩ := State.setF_phase_facts (st := st) canon.1
  exact ⟨shown, unit'.trans unit, by rwa [State.setF_dv], by rwa [State.setF_mem]⟩

/-- A stack fails. -/
theorem exec_stkTrainDone_fail (hs : s.Canonical) (hn : n < 65535) (on : s.flag F.STK_TRAIN_START st = true) :
    ∃ t, exec (.stkTrainDone st (n + 1) dieOk chOk) s = .next t ∧ t.getF F.STK_TRAIN_PHASE st = 5 ∧ t.unit .stk st = 1
      ∧ t.getF F.STK_TRAIN_RESULT st = n + 1 ∧ t.bit (hdrF .stk 0x10 30 0) 2 st = true ∧ t.mem = s.mem := by
  have canon := State.canonical_trainOver (st := st) (result := n + 1) (dieOk := dieOk) (chOk := chOk) hs
  obtain ⟨-, result, -, -⟩ := State.trainOver_facts (st := st) (result := n + 1) (dieOk := dieOk) (chOk := chOk) hs.1
  obtain ⟨mem, -, -, -, -⟩ := s.trainOver_frame st (n + 1) dieOk chOk
  refine ⟨_, (exec_stkTrainDone on).trans (if_pos (Nat.succ_ne_zero n)), ?_⟩
  generalize s.trainOver st (n + 1) dieOk chOk = t at canon result mem ⊢
  obtain ⟨unit, phase, result', cause, mem'⟩ := State.trainFailed_facts (st := st) canon.1
  exact ⟨phase, unit, result'.trans (result.trans (Nat.mod_eq_of_lt (by omega))), cause, mem'.trans mem⟩

end

/-- Settles O26. A write of `STK_RPR_CMD` or `STK_TRAIN` is followed to the register it sets; the copy of a row corrects words, which
leaves what is delivered; and the end of training is followed in its three outcomes. -/
theorem stacksTrainAndRepair : Obligations.StacksTrainAndRepair := by
  unfold Obligations.StacksTrainAndRepair
  refine ⟨?_, ?_, ?_, ?_, ?_, ?_, ?_, ?_⟩
  case refine_1 =>
    intro s k st die bank row hs hg hi idle hd hb hr spare
    refine ⟨_, exec_rowSpare_begins hg hi idle hd hb hr spare, ?_⟩
    rw [← repairWord_one]
    exact State.repairBegun_replied hs.1 _ _
  case refine_2 =>
    intro s k st die bank hs hg hi idle hd hb left
    refine ⟨_, (exec_bankSpare_begins hg hi idle hd hb).1 left, ?_⟩
    rw [← repairWord_two]
    obtain ⟨busy, -, bk, keep, mem, -⟩ := State.repairBegun_replied (st := st) hs.1 (.trowel k) (repairWord 2 die bank 0)
    exact ⟨busy, bk, keep, mem⟩
  case refine_3 =>
    intro s k st die bank hs hg hi idle hd hb none
    obtain ⟨a, e⟩ := (exec_bankSpare_begins hg hi idle hd hb).2 none
    exact ⟨_, e, State.repairExhausted_replied hs.1 _ a⟩
  case refine_4 =>
    intro s st die bank row hs _ hd hb hr found idle
    rw [← repairWord_one] at found
    exact exec_repairDone_row_facts hs hd hb hr found idle
  case refine_5 =>
    intro s k st hs hg hi idle off
    exact ⟨_, exec_stkTrainStart hg hi idle off, State.trainStarted_replied hs.1 _⟩
  case refine_6 =>
    intro s st dieOk chOk hs _ on up
    exact exec_stkTrainDone_pass hs on up
  case refine_7 =>
    intro s st dieOk chOk hs _ on up
    exact exec_stkTrainDone_bringup hs on up
  case refine_8 =>
    intro s st n dieOk chOk hs _ hn on
    exact exec_stkTrainDone_fail hs hn on

end Sys2Proof.Machine

/-! SUPPORT. The obligation about inbound transfers and the mapping of bricks, refuted: its clause on an admission does not say
that the brick table is sorted. -/

namespace Sys2Proof.Machine

/-- Brick 0 stands twice in the brick table: once as new, once with a transfer on its way. What removes the first entry shows the
second. -/
def brickTwice : State :=
  { br := [(0, {}), (0, { inbound := [{ off := 0, data := [2#8], held := false }] })] }

theorem brickTwice_new : brickTwice.brick 0 = {} := by decide +kernel

/-- The admitted transfer joins the one of the second entry. -/
theorem exec_inboundAdmit_brickTwice {t : State} (h : exec (.inboundAdmit 0 0 [1#8] [] 0) brickTwice = .next t) :
    (t.brick 0).inbound.length = 2 := by
  have run : (match execInboundAdmit 0 0 [1#8] [] 0 brickTwice with
      | .next u => (u.brick 0).inbound.length == 2
      | _ => false) = true := by decide +kernel
  change execInboundAdmit 0 0 [1#8] [] 0 brickTwice = .next t at h
  rw [h] at run
  simpa using run

/-- Refutes O29: its clause on an admitted transfer lacks the premise that the brick table holds one entry for a brick. Setting the
brick's time leaves it as new, which removes the first of two entries, and the transfer is then added to the second. -/
theorem not_bricksMapAndReceive : ¬ Obligations.BricksMapAndReceive := by
  intro h
  obtain ⟨admitted, -⟩ := h
  obtain ⟨t, run, inbound, -⟩ := admitted brickTwice 0 0 [1#8] [] 0 (by decide) (by decide)
    (by rw [brickTwice_new]; exact fun m hm => nomatch hm) (by rw [brickTwice_new]; rfl)
  have two := exec_inboundAdmit_brickTwice run
  rw [inbound, brickTwice_new] at two
  exact absurd two (by decide)

end Sys2Proof.Machine

/-! SUPPORT. The obligation about the vector unit, refuted: it takes an accumulator row as it is stored, whatever its length. -/

namespace Sys2Proof.Machine

/-- A `VOP` COPY of 33 elements from the accumulators. -/
def copyRow : EIns := { word := 6 * 2 ^ 58 + 33 * 2 ^ 22, pc := 0, order := 1, ready := 0 }

/-- The stream of accumulator rows 0 and 1. -/
def rowStream : SDesc := { w0 := 2 ^ 62 + 2 ^ 61, w1 := 2 ^ 32 + 2 * 2 ^ 16, w2 := 2 ^ 16, w3 := 0, ready := 0 }

/-- The work item of `longRow`. -/
def longRowItem : BRun := { step := 0, item := 0, seqs := [], part := 0, trap := false }

/-- Brick 0 is about to copy accumulator rows 0 and 1, and row 0 is stored with 33 elements. -/
def longRow : State :=
  { br := [(0, { run := some longRowItem, queues := [[], [], [copyRow], []], fifos := [[], [], [rowStream], [], [], []]
                 acc := [(0, List.range 33)] })] }

theorem longRow_engineAt : longRow.engineAt 0 2 0 copyRow longRowItem := by
  unfold State.engineAt; decide +kernel

theorem longRow_canonical : longRow.Canonical := by decide +kernel

theorem longRow_vopReady : longRow.vopReady 0 0 0 copyRow [rowStream] [] [] [] := by
  unfold State.vopReady; decide +kernel

/-- The last element delivered is the first of row 1. -/
theorem exec_vopCopy_longRow {t : State} (h : exec (.vopCopy 0 0 []) longRow = .next t) :
    ((t.runTo 0 (0 + vopCycles (longRow.brick 0) 0 copyRow.word + 1)).brick 0).vecq.map (·.1) = List.range 32 ++ [0] := by
  have run : (match execVopCopy 0 0 [] longRow with
      | .next u => ((u.runTo 0 (0 + vopCycles (longRow.brick 0) 0 copyRow.word + 1)).brick 0).vecq.map (·.1)
          == List.range 32 ++ [0]
      | _ => false) = true := by decide +kernel
  change execVopCopy 0 0 [] longRow = .next t at h
  rw [h] at run
  simpa using run

/-- The statement takes the first 33 elements of the two rows as they are stored. -/
theorem longRow_vopDelivers : (longRow.brick 0).vecq = [] ∧
    longRow.vopDelivers 0 0 copyRow.word [rowStream] [] = List.range 33 := by
  decide +kernel

/-- Refutes O34: its clause on a `VOP` lacks the premise that an accumulator row is stored with 32 elements. Of a longer one the
vector unit takes 32, where the statement takes them all. -/
theorem not_vectorUnit : ¬ Obligations.VectorUnit := by
  intro h
  obtain ⟨vop, -⟩ := h
  obtain ⟨copy, -⟩ := vop longRow 0 0 0 copyRow longRowItem [rowStream] [] [] [] longRow_engineAt longRow_canonical
    longRow_vopReady
  obtain ⟨t, run, -, -, delivered, -⟩ := copy rfl
  obtain ⟨empty, spec⟩ := longRow_vopDelivers
  rw [exec_vopCopy_longRow run, empty, spec] at delivered
  exact absurd delivered (by decide)

end Sys2Proof.Machine

/-! SUPPORT. The brick table, and what looking at memory and at the arrays leaves as it was: the monitor records, the checkers count and
put right, and every byte reads as before (R144 to R146, R382). -/

namespace Sys2Proof.Machine

section
variable {s t u : State} {n m : Nat} {b : Brick}

/-! ## The brick table -/

theorem smSorted_smSet {α : Type} [DecidableEq α] {d : Nat → α} {m : List (Nat × α)} (k : Nat) (v : α) (h : smSorted m = true) :
    smSorted (smSet d m k v) = true := by
  unfold smSet
  split
  · exact smSorted_smDel k h
  · exact smSorted_smPut k v h

theorem State.brick_setBrick_same (h : smSorted s.br = true) (n : Nat) (b : Brick) : (s.setBrick n b).brick n = b :=
  smGet_smSet_same h n b

theorem State.sorted_setBrick (h : smSorted s.br = true) (n : Nat) (b : Brick) : smSorted (s.setBrick n b).br = true :=
  smSorted_smSet (d := fun _ => ({} : Brick)) n b h

theorem State.brick_of_br (h : t.br = s.br) (n : Nat) : t.brick n = s.brick n := by rw [State.brick, State.brick, h]

/-- The brick with its work item `r`, whose hazard flag is `h`. -/
def Brick.hazarded (b : Brick) (r : BRun) (h : Bool) : Brick := { b with run := some { r with hazard := h } }

/-! ## Memory that reads as before -/

/-- Memory reads and is checked as before, and the stores are in their canonical forms. -/
structure ReadsAs (s t : State) : Prop where
  canonical : t.Canonical
  okByte : ∀ a, t.okByte a = s.okByte a
  bad : ∀ a, (t.ecc a).bad = (s.ecc a).bad

theorem ReadsAs.refl (hs : s.Canonical) : ReadsAs s s := ⟨hs, fun _ => rfl, fun _ => rfl⟩

theorem ReadsAs.trans (h : ReadsAs s t) (h' : ReadsAs t u) : ReadsAs s u :=
  ⟨h'.canonical, fun a => (h'.okByte a).trans (h.okByte a), fun a => (h'.bad a).trans (h.bad a)⟩

/-- What keeps memory and syndromes keeps what is read. -/
theorem ReadsAs.keep (h : ReadsAs s t) (hu : u.Canonical) (mem : u.mem = t.mem) (synd : u.synd = t.synd) : ReadsAs s u :=
  h.trans ⟨hu, State.okByte_congr mem synd, fun a => by rw [State.ecc, State.ecc, State.syndOf, State.syndOf, synd]⟩

theorem ReadsAs.setBrick (h : ReadsAs s t) (n : Nat) (b : Brick) : ReadsAs s (t.setBrick n b) := h.keep h.canonical rfl rfl

theorem ReadsAs.okBytes (h : ReadsAs s t) (a n : Nat) : t.okBytes a n = s.okBytes a n := by
  simp only [State.okBytes, h.okByte]

theorem ReadsAs.anyBad (h : ReadsAs s t) (a n : Nat) : t.anyBad a n = s.anyBad a n := by
  simp only [State.anyBad, h.bad]

/-- An operation that needs no more than `Stable` keeps what is read. -/
theorem ReadsAs.stable (h : ReadsAs s t) (keeps : ∀ {P : State → Prop}, Stable P → P t → P u) : ReadsAs s u := by
  obtain ⟨mem, synd⟩ := keeps (memory_stable t.mem t.synd) ⟨rfl, rfl⟩
  exact h.keep (keeps canonical_stable.toStable h.canonical) mem synd

/-- Nothing differs but registers, stored words, bricks, the error interrupts held, the faults found and what has left the block. -/
def CheckOnly (s t : State) : Prop :=
  ∃ r m y tr br it out, t = { s with regs := r, mem := m, synd := y, tr := tr, br := br, it := it, out := out }

theorem CheckOnly.refl (s : State) : CheckOnly s s := ⟨_, _, _, _, _, _, _, rfl⟩

theorem CheckOnly.trans (h : CheckOnly s t) (h' : CheckOnly t u) : CheckOnly s u := by
  obtain ⟨_, _, _, _, _, _, _, rfl⟩ := h
  obtain ⟨_, _, _, _, _, _, _, rfl⟩ := h'
  exact ⟨_, _, _, _, _, _, _, rfl⟩

theorem ErrOnly.checkOnly (h : ErrOnly s t) : CheckOnly s t := by
  obtain ⟨r, tr, out, rfl⟩ := h
  exact ⟨_, _, _, _, _, _, _, rfl⟩

theorem MemOnly.checkOnly (h : MemOnly s t) : CheckOnly s t := by
  obtain ⟨m, y, rfl⟩ := h
  exact ⟨_, _, _, _, _, _, _, rfl⟩

theorem CheckOnly.bk (h : CheckOnly s t) : t.bk = s.bk := by
  obtain ⟨_, _, _, _, _, _, _, rfl⟩ := h
  rfl

theorem ErrOnly.br (h : ErrOnly s t) : t.br = s.br := by
  obtain ⟨r, tr, out, rfl⟩ := h
  rfl

/-! ## The checkers (R382, R391, R394) -/

theorem State.countEcc_only (s : State) (w : Nat) : ErrOnly s (s.countEcc w false) := by
  unfold State.countEcc
  split
  · rename_i st _
    simp only [Bool.false_eq_true, if_false]
    have counted : ErrOnly s (s.bump F.STK_CE_CNT_COUNT 1 st) := (RegsOnly.refl s).setF.errOnly
    split
    · exact counted.trans (State.err_only _ 1 rfl).1
    · exact counted
  · rename_i bk _
    simp only [Bool.false_eq_true, if_false]
    have counted : ErrOnly s (s.bump F.YRD_CE_CNT_COUNT 1 (smGet (fun l => l) s.yd.slabOf (bk / 512))) :=
      (RegsOnly.refl s).setF.errOnly
    split
    · exact counted.trans (State.err_only _ 1 rfl).1
    · exact counted
  · exact ⟨_, _, _, rfl⟩

theorem State.openFault_only (s : State) (w kind since : Nat) : CheckOnly s (s.openFault w kind since) ∧ (s.openFault w kind since).br = s.br := by
  unfold State.openFault
  extract_lets block hashed at_ t1 t2 t3
  have first : ErrOnly s t1 := (RegsOnly.refl s).setF.errOnly.trans (State.err_at_only _ 1 _ rfl).1
  have second : ErrOnly s t2 := by
    unfold t2
    split
    · exact first.trans (State.err_at_only _ 3 _ rfl).1
    · exact first
  have third : ErrOnly s t3 := by
    unfold t3
    split
    · exact second.trans (RegsOnly.refl t2).setF.errOnly
    · exact second
  split
  · exact ⟨CheckOnly.refl s, rfl⟩
  · exact ⟨third.checkOnly.trans ⟨_, _, _, _, _, _, _, rfl⟩, third.br⟩

/-- A word put right in place reads as before, and no word becomes bad. -/
theorem State.correctWord_readsAs (hs : s.Canonical) (w : Nat) : ReadsAs s (s.correctWord w) where
  canonical := State.correctWord_keeps canonical_stable hs
  okByte _ := State.okByte_correctWord hs
  bad a := by
    by_cases h : a / 8 = w / 8
    · cases ok : (s.ecc w).bad with
      | false => rw [State.ecc_correctWord hs h ok, State.ecc_congr h, ok]; rfl
      | true =>
        have still : s.correctWord w = s := by
          unfold State.correctWord
          cases e : s.ecc w <;> simp_all [Ecc.bad]
        rw [still]
    · rw [State.ecc_correctWord_ne h]

/-- A checker that meets a word which is not bad keeps what is read, and leaves the bricks alone. -/
theorem State.checkWord_facts (hs : s.Canonical) {w : Nat} (ok : (s.ecc w).bad = false) :
    ReadsAs s (s.checkWord w) ∧ CheckOnly s (s.checkWord w) ∧ (s.checkWord w).br = s.br := by
  have righted (p : Prop) [Decidable p] : ReadsAs s (if p then s.correctWord w else s) ∧ MemOnly s (if p then s.correctWord w else s) := by
    split
    · exact ⟨State.correctWord_readsAs hs w, State.correctWord_only s w⟩
    · exact ⟨ReadsAs.refl hs, MemOnly.refl s⟩
  have counted (p : Prop) [Decidable p] : let t := (if p then s.correctWord w else s).countEcc w false
      ReadsAs s t ∧ CheckOnly s t ∧ t.br = s.br := by
    obtain ⟨reads, only⟩ := righted p
    refine ⟨reads.stable fun hP h => State.countEcc_keeps hP h, only.checkOnly.trans (State.countEcc_only _ w).checkOnly, ?_⟩
    rw [(State.countEcc_only _ w).br]
    obtain ⟨_, _, e⟩ := only
    rw [e]
  have reported (p : Prop) [Decidable p] (k v : Nat) : let t := (if p then s.correctWord w else s).countEcc w false
      let u := if s.openWord w then t.openFault w k v else t
      ReadsAs s u ∧ CheckOnly s u ∧ u.br = s.br := by
    obtain ⟨reads, only, br⟩ := counted p
    dsimp only
    split
    · obtain ⟨fault, same⟩ := State.openFault_only ((if p then s.correctWord w else s).countEcc w false) w k v
      exact ⟨reads.stable fun hP h => State.openFault_keeps hP h, only.trans fault, same.trans br⟩
    · exact ⟨reads, only, br⟩
  unfold State.checkWord
  cases e : s.ecc w with
  | clean => exact ⟨ReadsAs.refl hs, CheckOnly.refl s, rfl⟩
  | poisoned => rw [e] at ok; cases ok
  | uncorrectable => rw [e] at ok; cases ok
  | checkBit _ => exact reported _ _ _
  | dataBit _ => exact reported _ _ _

/-- The same of a run of words. -/
theorem State.checkWords_facts (ws : List Nat) (hs : s.Canonical) (ok : ∀ w ∈ ws, (s.ecc w).bad = false) :
    ReadsAs s (ws.foldl State.checkWord s) ∧ CheckOnly s (ws.foldl State.checkWord s) ∧ (ws.foldl State.checkWord s).br = s.br := by
  induction ws generalizing s with
  | nil => exact ⟨ReadsAs.refl hs, CheckOnly.refl s, rfl⟩
  | cons w ws ih =>
    obtain ⟨reads, only, br⟩ := State.checkWord_facts hs (ok w (by simp))
    obtain ⟨reads', only', br'⟩ := ih reads.canonical fun x hx => (reads.bad x).trans (ok x (by simp [hx]))
    exact ⟨reads.trans reads', only.trans only', br'.trans br⟩

end

end Sys2Proof.Machine

/-! SUPPORT. What an instruction of an engine does when it reads: the monitor looks at each location and, where it sees a hazard,
records it; the work item goes on (R144 to R147). -/

namespace Sys2Proof.Machine

section
variable {s t u : State} {n : Nat} {r : BRun} {b : Brick} {h : Bool}

@[simp] theorem Brick.hazarded_hazarded (b : Brick) (r : BRun) (g h : Bool) : (b.hazarded r g).hazarded r h = b.hazarded r h := rfl

theorem Brick.hazarded_self (run : b.run = some { r with hazard := h }) : b.hazarded r h = b := by
  rw [Brick.hazarded, ← run]

/-- Brick `n` runs `r`, whatever its hazard flag. -/
def State.runsItem (s : State) (n : Nat) (r : BRun) : Prop := ∃ h, (s.brick n).run = some { r with hazard := h }

/-- The monitor and the checkers have looked on behalf of the work item `r` of brick `n`: memory reads as before, and of the brick no more
than the item's hazard flag has changed. -/
structure Looked (n : Nat) (r : BRun) (s t : State) : Prop where
  reads : ReadsAs s t
  only : CheckOnly s t
  sorted : smSorted t.br = true
  brick : ∃ h, t.brick n = (s.brick n).hazarded r h

theorem Looked.refl (hs : s.Canonical) (sorted : smSorted s.br = true) (run : s.runsItem n r) : Looked n r s s := by
  obtain ⟨h, run⟩ := run
  exact ⟨ReadsAs.refl hs, CheckOnly.refl s, sorted, h, (Brick.hazarded_self run).symm⟩

theorem Looked.trans (h : Looked n r s t) (h' : Looked n r t u) : Looked n r s u := by
  obtain ⟨a, ha⟩ := h.brick
  obtain ⟨b, hb⟩ := h'.brick
  exact ⟨h.reads.trans h'.reads, h.only.trans h'.only, h'.sorted, b, by rw [hb, ha, Brick.hazarded_hazarded]⟩

theorem Looked.runsItem (h : Looked n r s t) : t.runsItem n r := by
  obtain ⟨a, ha⟩ := h.brick
  exact ⟨a, by rw [ha]; rfl⟩

/-- What changes registers alone may come after. -/
theorem Looked.regs (h : Looked n r s t) (only : RegsOnly t u) (hu : u.Canonical) : Looked n r s u := by
  obtain ⟨g, rfl⟩ := only
  exact ⟨h.reads.keep hu rfl rfl, h.only.trans ⟨_, _, _, _, _, _, _, rfl⟩, h.sorted, h.brick⟩

/-- What the checkers do may come after. -/
theorem Looked.checks (h : Looked n r s t) (reads : ReadsAs t u) (only : CheckOnly t u) (br : u.br = t.br) : Looked n r s u :=
  ⟨h.reads.trans reads, h.only.trans only, by rw [br]; exact h.sorted, by rw [State.brick_of_br br]; exact h.brick⟩

/-- The hazard registers as `hazard` writes them. -/
def State.hazardNoted (s : State) (n engine pc space addr : Nat) : State :=
  (if s.flag F.BRK_HAZ_VALID n then s.setFlag F.BRK_HAZ_MULTI true n
    else ((((s.setFlag F.BRK_HAZ_VALID true n).setF F.BRK_HAZ_ENGINE engine n).setF F.BRK_HAZ_PC pc n).setF
      F.BRK_HAZ_ADDR_SPACE space n).setF F.BRK_HAZ_ADDR_ADDR addr n).bump F.BRK_HAZ_CNT_COUNT 1 n

theorem State.hazardNoted_only (s : State) (n engine pc space addr : Nat) : RegsOnly s (s.hazardNoted n engine pc space addr) := by
  unfold State.hazardNoted
  split
  · exact (RegsOnly.refl s).setFlag.setF
  · exact (RegsOnly.refl s).setFlag.setF.setF.setF.setF.setF

/-- Without TRAP a hazard is recorded, and the item goes on (R146). -/
theorem State.hazard_eq (run : s.runsItem n r) (trap : r.trap = false) (engine pc space addr c : Nat) :
    s.hazard n engine pc space addr c
      = (s.hazardNoted n engine pc space addr).setBrick n ((s.brick n).hazarded r true) := by
  obtain ⟨h, run⟩ := run
  have br : (s.hazardNoted n engine pc space addr).brick n = s.brick n := by
    obtain ⟨g, e⟩ := State.hazardNoted_only s n engine pc space addr
    rw [e]; rfl
  change (match ((s.hazardNoted n engine pc space addr).brick n).run with
    | some r => (s.hazardNoted n engine pc space addr).setBrick n { (s.hazardNoted n engine pc space addr).brick n with run := some { r with
        hazard := true
        stopAt := if r.trap && r.stopAt.isNone then some (c + Config.trapDelay n c % 5) else r.stopAt } }
    | none => s.hazardNoted n engine pc space addr) = _
  rw [br, run]
  simp [trap, Brick.hazarded]

theorem Looked.hazard (h : Looked n r s t) (trap : r.trap = false) (engine pc space addr c : Nat) :
    Looked n r s (t.hazard n engine pc space addr c) := by
  have canonical : (t.hazard n engine pc space addr c).Canonical := State.hazard_keeps canonical_stable.toStable h.reads.canonical
  rw [State.hazard_eq h.runsItem trap] at canonical ⊢
  obtain ⟨g, e⟩ := State.hazardNoted_only t n engine pc space addr
  rw [e] at canonical ⊢
  refine h.trans ⟨(ReadsAs.refl h.reads.canonical).keep canonical rfl rfl, ⟨_, _, _, _, _, _, _, rfl⟩, State.sorted_setBrick h.sorted _ _,
    true, State.brick_setBrick_same h.sorted _ _⟩

theorem Looked.watch (h : Looked n r s t) (trap : r.trap = false) (engine : Nat) (i : EIns) (space addr c : Nat) (early : Bool := false) :
    Looked n r s (t.watch n engine i space addr c early) := by
  unfold State.watch
  dsimp only
  split
  · exact h.hazard trap _ _ _ _ _
  · exact h

theorem Looked.watches (ws : List Nat) (h : Looked n r s t) (trap : r.trap = false) (engine : Nat) (i : EIns) (c : Nat) :
    Looked n r s (ws.foldl (fun v w => v.watch n engine i 0 w c) t) := by
  induction ws generalizing t with
  | nil => exact h
  | cons w ws ih => exact ih (h.watch trap engine i 0 w c)

/-- A read of the Bed whose words are good: the bytes are delivered, no word is poisoned, and the monitor and the checkers have looked. -/
theorem Looked.bedRead (h : Looked n r s t) (trap : r.trap = false) (engine : Nat) (i : EIns) (off len c : Nat)
    (ok : s.anyBad (bedAddr n off) len = false) :
    (t.bedRead n engine i off len c).1 = s.okBytes (bedAddr n off) len ∧ (t.bedRead n engine i off len c).2.1 = false
      ∧ Looked n r s (t.bedRead n engine i off len c).2.2 := by
  refine ⟨h.reads.okBytes _ _, (h.reads.anyBad _ _).trans ok, ?_⟩
  have watched := h.watches (wordsOf off len) trap engine i c
  obtain ⟨reads, only, br⟩ := State.checkWords_facts (wordsOf (bedAddr n off) len) watched.reads.canonical fun w hw => by
    rw [watched.reads.bad]
    simp only [State.anyBad, List.any_eq_false, Bool.not_eq_true] at ok
    exact ok w hw
  exact watched.checks reads only br

end

end Sys2Proof.Machine

/-! SUPPORT. The course of the one instruction under way: which read or write is next, and what has been made when a brick's time comes
to a cycle (R143). -/

namespace Sys2Proof.Machine

section
variable {s t : State} {n : Nat} {b : Brick} {j : Job}

/-- In one cycle the read comes before the write. -/
theorem Brick.nextMove_of_single (jobs : b.jobs = [j]) :
    b.nextMove = if j.rd < j.reads ∧ (j.wr < j.writes → j.readAt j.rd ≤ j.writeAt j.wr) then some (j.readAt j.rd, false, 0)
      else if j.wr < j.writes then some (j.writeAt j.wr, true, 0) else none := by
  rw [Brick.nextMove, jobs]
  by_cases reads : j.rd < j.reads
  · by_cases writes : j.wr < j.writes
    · by_cases first : j.readAt j.rd ≤ j.writeAt j.wr
      · have later : ¬ j.writeAt j.wr < j.readAt j.rd := by omega
        simp [reads, writes, first, later]
      · have earlier : j.writeAt j.wr < j.readAt j.rd := by omega
        simp [reads, writes, first, earlier]
    · simp [reads, writes]
  · by_cases writes : j.wr < j.writes
    · simp [reads, writes]
    · simp [reads, writes]

theorem Brick.nextMove_of_none (jobs : b.jobs = []) : b.nextMove = none := by rw [Brick.nextMove, jobs]; rfl

theorem Brick.movesLeft_of_single (jobs : b.jobs = [j]) : b.movesLeft = (j.reads - j.rd) + (j.writes - j.wr) := by
  rw [Brick.movesLeft, jobs]
  simp

/-- The state and the instruction after the next read, or write, of `j`. -/
def State.moved1 (s : State) (n : Nat) (j : Job) (write : Bool) : State × Job := if write then s.jobWrite n j else s.jobRead n j

/-- One move of the one instruction under way: it goes once it has made its last write. -/
theorem State.move_of_single {write : Bool} (jobs : (s.brick n).jobs = [j]) (jobs' : ((s.moved1 n j write).1.brick n).jobs = [j])
    (run : ((s.moved1 n j write).1.brick n).run.isSome = true) :
    s.move n 0 write = (s.moved1 n j write).1.setBrick n { (s.moved1 n j write).1.brick n with
      jobs := if (s.moved1 n j write).2.wr < (s.moved1 n j write).2.writes then [(s.moved1 n j write).2] else [] } := by
  unfold State.move
  rw [jobs]
  change (if ((s.moved1 n j write).1.brick n).run.isNone then _ else _) = _
  rw [if_neg (by rw [Option.isNone_iff_eq_none]; exact Option.isSome_iff_ne_none.mp run)]
  change (s.moved1 n j write).1.setBrick n { (s.moved1 n j write).1.brick n with
    jobs := (((s.moved1 n j write).1.brick n).jobs.set 0 (s.moved1 n j write).2).filter fun j => j.wr < j.writes } = _
  rw [jobs']
  split
  · simp_all
  · simp_all

/-- Nothing halts the item of brick `n` (R147). -/
def State.unstopped (s : State) (n : Nat) : Prop := ((s.brick n).run.bind fun r => r.stopAt) = none

theorem State.trap_of_unstopped (going : s.unstopped n) : s.trap n = s := by
  rw [State.trap, going]

theorem State.moveTo_of_none (jobs : (s.brick n).jobs = []) (c fuel : Nat) : s.moveTo n c fuel = s := by
  cases fuel with
  | zero => rfl
  | succ fuel => rw [State.moveTo, Brick.nextMove_of_none jobs]

/-- With nothing under way a brick's time passes. -/
theorem State.runTo_of_none (sorted : smSorted s.br = true) (going : s.unstopped n) (jobs : (s.brick n).jobs = []) (c : Nat) :
    s.runTo n c = s.setBrick n { s.brick n with now := max (s.brick n).now c } := by
  unfold State.runTo
  rw [State.moveTo_of_none jobs]
  exact State.trap_of_unstopped (by rw [State.unstopped, State.brick_setBrick_same sorted]; exact going)

/-- How an instruction with `R` reads, in the cycles `ra`, and `W` writes, in the cycles `wa`, takes its course: `P p q` holds when it
has made `p` reads and `q` writes, and write `q` follows `need q` reads. -/
structure Course (n R W : Nat) (ra wa need : Nat → Nat) (job : Nat → Nat → Job) (P : Nat → Nat → State → Prop) : Prop where
  facts : ∀ {p q}, p ≤ R → q < W → (job p q).rd = p ∧ (job p q).wr = q ∧ (job p q).reads = R ∧ (job p q).writes = W
    ∧ (job p q).readAt p = ra p ∧ (job p q).writeAt q = wa q
  order : ∀ {p q}, q < W → p < need q → p < R ∧ ra p ≤ wa q
  bound : ∀ {p q s}, P p q s → p ≤ R ∧ q ≤ W
  sorted : ∀ {p q s}, P p q s → smSorted s.br = true
  going : ∀ {p q s}, P p q s → s.unstopped n
  jobs : ∀ {p q s}, P p q s → (s.brick n).jobs = if q < W then [job p q] else []
  read : ∀ {p q s}, P p q s → q < W → p < R → P (p + 1) q (s.move n 0 false)
  write : ∀ {p q s}, P p q s → q < W → need q ≤ p → P p (q + 1) (s.move n 0 true)

variable {R W : Nat} {ra wa need : Nat → Nat} {job : Nat → Nat → Job} {P : Nat → Nat → State → Prop}

/-- Every write before a cycle has been made, and no other. -/
theorem Course.moveTo (C : Course n R W ra wa need job P) (T : Nat) {fuel p q : Nat} (h : P p q s) (enough : (R - p) + (W - q) ≤ fuel) :
    ∃ p' q', P p' q' (s.moveTo n T fuel) ∧ (q' < W → T ≤ wa q') ∧ ∀ i, q ≤ i → i < q' → wa i < T := by
  induction fuel generalizing p q s with
  | zero =>
    obtain ⟨-, qW⟩ := C.bound h
    exact ⟨p, q, h, by omega, by omega⟩
  | succ fuel ih =>
    obtain ⟨pR, qW⟩ := C.bound h
    have jobs := C.jobs h
    have going := C.going h
    rw [State.unstopped] at going
    rw [State.moveTo, going]
    dsimp only
    by_cases left : q < W
    · rw [if_pos left] at jobs
      obtain ⟨rd, wr, reads, writes, readAt, writeAt⟩ := C.facts pR left
      rw [Brick.nextMove_of_single jobs, rd, wr, reads, writes, readAt, writeAt]
      by_cases first : p < R ∧ (q < W → ra p ≤ wa q)
      · rw [if_pos first]
        dsimp only
        split
        · exact ih (C.read h left first.1) (by omega)
        · exact ⟨p, q, h, fun _ => by have := first.2 left; omega, by omega⟩
      · rw [if_neg first, if_pos left]
        dsimp only
        have ready : need q ≤ p := by
          by_contra early
          obtain ⟨more, sooner⟩ := C.order left (Nat.lt_of_not_le early)
          exact first ⟨more, fun _ => sooner⟩
        split
        · rename_i now
          obtain ⟨p', q', h', last, made⟩ := ih (C.write h left ready) (by omega)
          refine ⟨p', q', h', last, fun i low high => ?_⟩
          by_cases same : i = q
          · rw [same]; exact now
          · exact made i (by omega) high
        · exact ⟨p, q, h, fun _ => by omega, by omega⟩
    · rw [if_neg left] at jobs
      rw [Brick.nextMove_of_none jobs]
      exact ⟨p, q, h, by omega, by omega⟩

/-- The same for the brick's time, which comes to the cycle. -/
theorem Course.runTo (C : Course n R W ra wa need job P) (T : Nat) (h : P 0 0 s) :
    ∃ p q t, P p q t ∧ (q < W → T ≤ wa q) ∧ (∀ i, i < q → wa i < T)
      ∧ s.runTo n T = t.setBrick n { t.brick n with now := max (t.brick n).now T } := by
  have enough : (R - 0) + (W - 0) ≤ (s.brick n).movesLeft ∨ W = 0 := by
    by_cases none : W = 0
    · exact .inr none
    · have jobs := C.jobs h
      have left : 0 < W := by omega
      rw [if_pos left] at jobs
      obtain ⟨rd, wr, reads, writes, -, -⟩ := C.facts (Nat.zero_le R) left
      rw [Brick.movesLeft_of_single jobs, rd, wr, reads, writes]
      exact .inl (by omega)
  have moved : ∃ p q, P p q (s.moveTo n T (s.brick n).movesLeft) ∧ (q < W → T ≤ wa q) ∧ ∀ i, 0 ≤ i → i < q → wa i < T := by
    rcases enough with enough | none
    · exact C.moveTo T h enough
    · have jobs := C.jobs h
      rw [if_neg (by omega)] at jobs
      rw [State.moveTo_of_none jobs]
      exact ⟨0, 0, h, by omega, by omega⟩
  obtain ⟨p, q, h', last, made⟩ := moved
  refine ⟨p, q, _, h', last, fun i hi => made i (Nat.zero_le i) hi, ?_⟩
  unfold State.runTo
  exact State.trap_of_unstopped (by rw [State.unstopped, State.brick_setBrick_same (C.sorted h')]; exact C.going h')

end

end Sys2Proof.Machine

/-! SUPPORT. When an instruction of an engine issues, and what it leaves as it was while it is under way (R102, R143). -/

namespace Sys2Proof.Machine

section
variable {s t u : State} {n e c : Nat} {i : EIns} {r : BRun} {b : Brick} {j : Job}

/-! ## The row of an engine -/

theorem State.engineAt.cycle_le (at_ : s.engineAt n e c i r) : (s.brick n).now ≤ c := by
  obtain ⟨-, head, -⟩ := at_
  rw [State.head] at head
  by_contra late
  simp [Nat.lt_of_not_le late] at head

theorem State.engineAt.unstopped (at_ : s.engineAt n e c i r) : s.unstopped n := by
  obtain ⟨-, -, run, -, stop, -⟩ := at_
  rw [State.unstopped, run]
  exact stop

theorem State.engineAt.runTo (at_ : s.engineAt n e c i r) : s.runTo n c = s.atCycle n c := by
  have going := at_.unstopped
  have before := at_.cycle_le
  obtain ⟨sorted, -, -, -, -, jobs, -⟩ := at_
  rw [State.runTo_of_none sorted going jobs, Nat.max_eq_right before, State.atCycle]

/-- The brick with its time at cycle `c`. -/
def Brick.atCycle (b : Brick) (c : Nat) : Brick := { b with now := c }

theorem State.brick_atCycle (sorted : smSorted s.br = true) (n c : Nat) : (s.atCycle n c).brick n = (s.brick n).atCycle c :=
  State.brick_setBrick_same sorted _ _

theorem State.engineAt.head_atCycle (at_ : s.engineAt n e c i r) : (s.atCycle n c).head n e c = some i := by
  have before := at_.cycle_le
  obtain ⟨sorted, head, -⟩ := at_
  rw [State.head, State.brick_atCycle sorted]
  rw [State.head] at head
  simpa [Brick.atCycle, Nat.not_lt.mpr before] using head

/-- A row of engine `e` at its queue's head: a malformed word halts, the row's own is given to `body` (R102). -/
theorem State.engineAt.engineRow (at_ : s.engineAt n e c i r) (is : Nat → Bool) (body : EIns → State → State) :
    s.engineRow n e c is body = if engineWord e i.word = false then (s.atCycle n c).engineIllegal n
      else if is i.word = true then (body i (s.atCycle n c)).trap n else s.atCycle n c := by
  obtain ⟨-, head, -⟩ := id at_
  rw [State.engineRow, head]
  dsimp only
  rw [at_.runTo, at_.head_atCycle]
  dsimp only
  cases engineWord e i.word <;> simp

/-- The state in which the brick is `b`, of the registers no more than the longest wait having changed. -/
def IssuedWith (n : Nat) (b : Brick) (s t : State) : Prop :=
  t.brick n = b ∧ smSorted t.br = true ∧ t.Canonical
    ∧ RegsKeep [regKey F.BRK_ISSUE_WAIT_MAX_CYCLES.addr n 0] s t ∧ t = { s with regs := t.regs, br := t.br }

/-- Nothing differs but registers and bricks. -/
def BricksOnly (s t : State) : Prop := ∃ g br, t = { s with regs := g, br := br }

theorem BricksOnly.setBrick (h : BricksOnly s t) (n : Nat) (b : Brick) : BricksOnly s (t.setBrick n b) := by
  obtain ⟨g, br, rfl⟩ := h
  exact ⟨g, _, rfl⟩

theorem BricksOnly.regs (h : BricksOnly s t) (only : RegsOnly t u) : BricksOnly s u := by
  obtain ⟨g, br, rfl⟩ := h
  obtain ⟨g', rfl⟩ := only
  exact ⟨g', br, rfl⟩

theorem BricksOnly.refl (s : State) : BricksOnly s s := ⟨s.regs, s.br, rfl⟩

theorem BricksOnly.eq (h : BricksOnly s t) : t = { s with regs := t.regs, br := t.br } := by
  obtain ⟨g, br, rfl⟩ := h
  rfl

/-- An instruction that reads no bad word of an array issues. -/
theorem State.issue_facts (hs : s.Canonical) (sorted : smSorted s.br = true) (b : Brick) {bad : Brick → Bool} (ok : bad b = false)
    (free : Nat) (j : Job) :
    IssuedWith n (b.issue e c free (some { j with bad := false })) s (((s.atCycle n c).setBrick n b).issue n e c free [] bad j) := by
  have sorted' := State.sorted_setBrick (State.sorted_setBrick sorted n { s.brick n with now := c }) n b
  have canonical : (((s.atCycle n c).setBrick n b).issue n e c free [] bad j).Canonical :=
    State.issue_keeps canonical_stable.toStable hs
  have same : ((((s.atCycle n c).setBrick n b).noteWait n j.ins c).brick n) = b := State.brick_setBrick_same
    (State.sorted_setBrick sorted n { s.brick n with now := c }) n b
  have eq : ((s.atCycle n c).setBrick n b).issue n e c free [] bad j
      = (((s.atCycle n c).setBrick n b).noteWait n j.ins c).setBrick n (b.issue e c free (some { j with bad := false })) := by
    unfold State.issue
    simp only [State.parity, List.foldl_nil, same, ok, State.meets, Bool.false_and, Bool.false_eq_true, if_false]
  have waited : RegsOnly ((s.atCycle n c).setBrick n b) (((s.atCycle n c).setBrick n b).noteWait n j.ins c) :=
    (RegsOnly.refl _).setF
  have frame := ((((BricksOnly.refl s).setBrick n { s.brick n with now := c }).setBrick n b).regs waited).setBrick n
    (b.issue e c free (some { j with bad := false }))
  have kept : RegsSame (fun k => k ∉ [regKey F.BRK_ISSUE_WAIT_MAX_CYCLES.addr n 0]) ((s.atCycle n c).setBrick n b)
      (((s.atCycle n c).setBrick n b).noteWait n j.ins c) := (RegsSame.refl _).setF fun away => away (List.mem_singleton.mpr rfl)
  rw [eq] at canonical ⊢
  have sorted'' : smSorted (((s.atCycle n c).setBrick n b).noteWait n j.ins c).br = true := sorted'
  exact ⟨State.brick_setBrick_same sorted'' _ _, State.sorted_setBrick sorted'' _ _, canonical, kept, frame.eq⟩

/-! ## Under way -/

/-- From `s` the work item `r` of brick `n` goes on, and memory reads as it did; the brick's time stands at `c`. -/
structure Going (n c : Nat) (r : BRun) (s t : State) : Prop where
  reads : ReadsAs s t
  sorted : smSorted t.br = true
  run : t.runsItem n r
  now : (t.brick n).now = c

theorem Going.unstopped (h : Going n c r s t) (stop : r.stopAt = none) : t.unstopped n := by
  obtain ⟨g, run⟩ := h.run
  rw [State.unstopped, run]
  exact stop

theorem Going.looked (h : Going n c r s t) : Looked n r t t := Looked.refl h.reads.canonical h.sorted h.run

theorem Going.setBrick (h : Going n c r s t) (run : b.run = (t.brick n).run) (now : b.now = (t.brick n).now) :
    Going n c r s (t.setBrick n b) := by
  obtain ⟨g, hg⟩ := h.run
  have same := State.brick_setBrick_same h.sorted n b
  exact ⟨h.reads.setBrick n b, State.sorted_setBrick h.sorted n b, ⟨g, by rw [same, run, hg]⟩, by rw [same, now, h.now]⟩

theorem Going.after (h : Going n c r s t) (l : Looked n r t u) : Going n c r s u := by
  obtain ⟨g, hg⟩ := l.brick
  exact ⟨h.reads.trans l.reads, l.sorted, l.runsItem, by rw [hg]; exact h.now⟩

/-- A read of the one instruction under way in which the monitor and the checkers looked. -/
theorem Going.read (h : Going n c r s t) (jobs : (t.brick n).jobs = [j]) (l : Looked n r t (t.jobRead n j).1)
    (left : (t.jobRead n j).2.wr < (t.jobRead n j).2.writes) :
    Going n c r s (t.move n 0 false) ∧ (t.move n 0 false).bk = t.bk
      ∧ ∃ g, (t.move n 0 false).brick n = { (t.brick n).hazarded r g with jobs := [(t.jobRead n j).2] } := by
  obtain ⟨g, hg⟩ := l.brick
  have eq : t.move n 0 false = (t.jobRead n j).1.setBrick n { (t.brick n).hazarded r g with jobs := [(t.jobRead n j).2] } := by
    rw [State.move_of_single (write := false) jobs (by change ((t.jobRead n j).1.brick n).jobs = [j]; rw [hg]; exact jobs)
      (by change ((t.jobRead n j).1.brick n).run.isSome = true; rw [hg]; rfl)]
    change (t.jobRead n j).1.setBrick n { (t.jobRead n j).1.brick n with jobs := if (t.jobRead n j).2.wr < (t.jobRead n j).2.writes then [(t.jobRead n j).2] else [] } = _
    rw [if_pos left, hg]
  have going := h.after l
  rw [eq]
  refine ⟨going.setBrick ?_ ?_, l.only.bk, g, State.brick_setBrick_same l.sorted _ _⟩
  · rw [hg]
  · rw [hg]

/-- A write of the one instruction under way that leaves its brick as `b`. -/
theorem Going.write (h : Going n c r s t) (jobs : (t.brick n).jobs = [j]) (eq : (t.jobWrite n j).1 = t.setBrick n b)
    (run : b.run = (t.brick n).run) (now : b.now = (t.brick n).now) (same : b.jobs = (t.brick n).jobs) :
    Going n c r s (t.move n 0 true) ∧ (t.move n 0 true).bk = t.bk
      ∧ (t.move n 0 true).brick n = { b with
        jobs := if (t.jobWrite n j).2.wr < (t.jobWrite n j).2.writes then [(t.jobWrite n j).2] else [] } := by
  have brick : (t.jobWrite n j).1.brick n = b := by rw [eq]; exact State.brick_setBrick_same h.sorted n b
  have wrote : Going n c r s (t.jobWrite n j).1 := by rw [eq]; exact h.setBrick run now
  obtain ⟨g, hg⟩ := h.run
  rw [State.move_of_single (write := true) jobs (by change ((t.jobWrite n j).1.brick n).jobs = [j]; rw [brick, same, jobs])
    (by change ((t.jobWrite n j).1.brick n).run.isSome = true; rw [brick, run, hg]; rfl)]
  change Going n c r s ((t.jobWrite n j).1.setBrick n _) ∧ _
  refine ⟨wrote.setBrick rfl rfl, ?_, ?_⟩
  · change (t.jobWrite n j).1.bk = t.bk
    rw [eq]; rfl
  · change ((t.jobWrite n j).1.setBrick n _).brick n = _
    rw [State.brick_setBrick_same wrote.sorted]
    change { (t.jobWrite n j).1.brick n with jobs := if (t.jobWrite n j).2.wr < (t.jobWrite n j).2.writes then [(t.jobWrite n j).2] else [] } = _
    rw [brick]

/-- The instruction is over once nothing is under way (R143). -/
theorem Going.overAt (h : Going n c r s t) (jobs : (t.brick n).jobs = []) {T : Nat} (le : c ≤ T) :
    OverAt n T s (t.setBrick n { t.brick n with now := max (t.brick n).now T }) := by
  obtain ⟨g, hg⟩ := h.run
  have same := State.brick_setBrick_same h.sorted n { t.brick n with now := max (t.brick n).now T }
  refine ⟨by rw [same]; exact jobs, by rw [same, h.now]; exact Nat.max_eq_right le, (h.reads.setBrick _ _).okByte, ?_⟩
  rw [same]
  change (t.brick n).run.isSome = true
  rw [hg]; rfl

/-- What has issued is under way. -/
theorem IssuedWith.going (hs : s.Canonical) (h : IssuedWith n b s t) (run : b.run = some r) (now : b.now = c) : Going n c r s t := by
  obtain ⟨brick, sorted, canonical, -, frame⟩ := h
  refine ⟨(ReadsAs.refl hs).keep canonical (by rw [frame]) (by rw [frame]), sorted, ⟨r.hazard, by rw [brick, run]⟩, by rw [brick, now]⟩

end

end Sys2Proof.Machine

/-! SUPPORT. A `TLOAD` and its course: its bank is read at issue and usable 32 cycles later (R103). -/

namespace Sys2Proof.Machine

section
variable {s t u : State} {n e c : Nat} {i : EIns} {r : BRun} {b : Brick} {j : Job}

/-! ## What statements about an issued instruction ask for -/

/-- An issued instruction has left its queue with its stream, and is under way. -/
theorem IssuedWith.issuedAs {free : Nat} (h : IssuedWith n (b.issue e c free (some j)) s t) (jobs : b.jobs = [])
    (queues : b.queues = (s.brick n).queues) (popped : b.popped = (s.brick n).popped) (acc : b.acc = (s.brick n).acc)
    (ins : j.ins = i) (t0 : j.t0 = c) : IssuedAs n e c i b.fifos s t := by
  obtain ⟨brick, -, -, -, frame⟩ := h
  refine ⟨⟨j, ?_, ins, t0⟩, ?_, ?_, ?_, ?_, by rw [frame], by rw [frame]⟩
  · rw [brick, Brick.issue, jobs]; rfl
  · rw [brick, ← queues]; rfl
  · rw [brick, ← popped]; rfl
  · rw [brick]; rfl
  · rw [brick, ← acc]; rfl

theorem bytesOf_natsOf (bs : List Byte) : bytesOf (natsOf bs) = bs := by
  simp only [bytesOf, natsOf, List.map_map]
  exact List.map_id'' (fun b => by simp) bs

theorem getD_modify_same {α : Type} (l : List α) {k : Nat} (h : k < l.length) (f : α → α) (d : α) :
    (l.modify k f).getD k d = f (l.getD k d) := by
  simp [List.getD_eq_getElem?_getD, h]

theorem getD_modify_ne {α : Type} (l : List α) {k m : Nat} (h : k ≠ m) (f : α → α) (d : α) :
    (l.modify k f).getD m d = l.getD m d := by
  simp [List.getD_eq_getElem?_getD, h]

/-! ## `TLOAD` -/

/-- A `TLOAD` after `p` reads, which took `bs`, and `q` writes. -/
def tloadJob (i : EIns) (c : Nat) (bs : List Byte) (p q : Nat) : Job :=
  { ins := i, eng := 0, t0 := c, rd := p, wr := q, buf := if p = 0 then [] else [(natsOf bs, false)] }

/-- The banks of a brick after a `TLOAD` of bank `wb` has taken the bytes `bs`. -/
def banksLoaded (banks : List WBank) (wb : Nat) (bs : List Byte) : List WBank :=
  banks.modify wb fun y => { y with bytes := bs, bad := false }

/-- The brick at the issue of a `TLOAD`: its bank is of the format given and usable in 32 cycles. -/
def Brick.bankAwaited (b : Brick) (i : EIns) (c : Nat) : Brick :=
  { b with banks := b.banks.modify (nbits i.word 57 57) fun x => { x with fmt := nbits i.word 56 54, ready := c + 32, bad := false } }

/-- A `TLOAD` that issued on brick `b` in state `s` has made `p` reads and `q` writes. -/
structure TloadAt (n c : Nat) (i : EIns) (r : BRun) (s : State) (b : Brick) (bs : List Byte) (p q : Nat) (t : State) : Prop where
  going : Going n c r s t
  reads : p ≤ 1
  writes : q ≤ p
  jobs : (t.brick n).jobs = if q < 1 then [tloadJob i c bs p q] else []
  banks : (t.brick n).banks = if q = 0 then b.banks else banksLoaded b.banks (nbits i.word 57 57) bs
  acc : (t.brick n).acc = b.acc

theorem tloadAt_course {bs : List Byte} (stop : r.stopAt = none) (trap : r.trap = false) (op : nbits i.word 63 58 = 1)
    (bytes : s.okBytes (bedAddr n (nbits i.word 18 0)) (bankBytes (nbits i.word 56 54)) = bs)
    (ok : s.anyBad (bedAddr n (nbits i.word 18 0)) (bankBytes (nbits i.word 56 54)) = false) :
    Course n 1 1 (fun _ => c) (fun _ => c + 32) (fun _ => 1) (tloadJob i c bs) (TloadAt n c i r s b bs) where
  facts _ _ := by simp [tloadJob, Job.reads, Job.writes, Job.readAt, Job.writeAt, eOp, op]
  order {p q} _ early := ⟨early, by omega⟩
  bound h := ⟨h.reads, h.writes.trans h.reads⟩
  sorted h := h.going.sorted
  going h := h.going.unstopped stop
  jobs h := h.jobs
  read {p q t} h left more := by
    obtain rfl : q = 0 := by omega
    obtain rfl : p = 0 := by omega
    have jobs := h.jobs
    rw [if_pos left] at jobs
    obtain ⟨read, good, looked⟩ := h.going.looked.bedRead trap 0 i (nbits i.word 18 0) (bankBytes (nbits i.word 56 54)) c
      ((h.going.reads.anyBad _ _).trans ok)
    rw [h.going.reads.okBytes, bytes] at read
    have eq : t.jobRead n (tloadJob i c bs 0 0)
        = ((t.bedRead n 0 i (nbits i.word 18 0) (bankBytes (nbits i.word 56 54)) c).2.2, tloadJob i c bs 1 0) := by
      simp [State.jobRead, tloadJob, eOp, op, Job.readAt, State.meets, good, read]
    obtain ⟨going, -, g, brick⟩ := h.going.read jobs (by rw [eq]; exact looked)
      (by rw [eq]; simp [tloadJob, Job.writes, eOp, op])
    rw [eq] at brick
    exact ⟨going, by omega, by omega, by rw [brick]; rfl, by rw [brick]; exact h.banks, by rw [brick]; exact h.acc⟩
  write {p q t} h left ready := by
    obtain rfl : q = 0 := by omega
    obtain rfl : p = 1 := by have := h.reads; omega
    have jobs := h.jobs
    rw [if_pos left] at jobs
    have banks := h.banks
    rw [if_pos rfl] at banks
    have eq : t.jobWrite n (tloadJob i c bs 1 0)
        = (t.setBrick n { t.brick n with banks := banksLoaded b.banks (nbits i.word 57 57) bs }, tloadJob i c bs 1 1) := by
      simp [State.jobWrite, tloadJob, eOp, op, bytesOf_natsOf, banksLoaded, banks]
    obtain ⟨going, -, brick⟩ := h.going.write jobs (congrArg Prod.fst eq) rfl rfl rfl
    rw [eq] at brick
    refine ⟨going, h.reads, by omega, ?_, by rw [brick]; rfl, by rw [brick]; exact h.acc⟩
    rw [brick]
    simp [tloadJob, Job.writes, eOp, op]

/-- A `TLOAD` whose bank is free issues. -/
theorem exec_tload (at_ : s.engineAt n 0 c i r) (op : nbits i.word 63 58 = 1) (legal : engineWord 0 i.word = true)
    (idle : (s.brick n).lastBank = nbits i.word 57 57 → (s.brick n).free.getD 0 0 ≤ c) :
    exec (.tload n c []) s = .next ((((s.atCycle n c).setBrick n (((s.atCycle n c).brick n).bankAwaited i c)).issue n 0 c
      ((s.brick n).free.getD 0 0) [] (fun _ => false) { ins := i, eng := 0, t0 := c }).trap n) := by
  change Host.Outcome.next (s.engineRow n 0 c _ _) = _
  obtain ⟨sorted, -⟩ := id at_
  have free : (((s.atCycle n c).brick n).lastBank = nbits i.word 57 57 && decide (c < ((s.atCycle n c).brick n).free.getD 0 0)) = false := by
    rw [State.brick_atCycle sorted]
    by_cases same : (s.brick n).lastBank = nbits i.word 57 57
    · simpa [Brick.atCycle, same] using idle same
    · simp [Brick.atCycle, same]
  rw [at_.engineRow, legal]
  dsimp only
  rw [if_neg (by simp), if_pos (decide_eq_true (p := eOp i.word = 1) op), if_neg (by rw [free]; exact Bool.false_ne_true), State.brick_atCycle sorted]
  rfl

/-- The first clause of O33: a `TLOAD` issues, and 32 cycles later its bank holds the bytes of the Bed. -/
theorem tload_loads (at_ : s.engineAt n 0 c i r) (hs : s.Canonical) (op : nbits i.word 63 58 = 1) (fmt : nbits i.word 56 54 ≠ 7)
    (zero : nbits i.word 53 19 = 0) (aligned : nbits i.word 18 0 % 64 = 0) (fits : nbits i.word 18 0 + bankBytes (nbits i.word 56 54) ≤ 2 ^ 19)
    (idle : (s.brick n).lastBank = nbits i.word 57 57 → (s.brick n).free.getD 0 0 ≤ c)
    (ok : s.anyBad (bedAddr n (nbits i.word 18 0)) (bankBytes (nbits i.word 56 54)) = false) :
    ∃ t, exec (.tload n c []) s = .next t ∧ IssuedAs n 0 c i (s.brick n).fifos s t
      ∧ OverAt n (c + 33) s (t.runTo n (c + 33))
      ∧ ((t.runTo n (c + 33)).brick n).banks.getD (nbits i.word 57 57) {}
        = ⟨nbits i.word 56 54, s.okBytes (bedAddr n (nbits i.word 18 0)) (bankBytes (nbits i.word 56 54)), c + 32, false⟩
      ∧ ((t.runTo n (c + 33)).brick n).banks.getD (1 - nbits i.word 57 57) {} = (s.brick n).banks.getD (1 - nbits i.word 57 57) {}
      ∧ ((t.runTo n (c + 33)).brick n).acc = (s.brick n).acc := by
  have legal : engineWord 0 i.word = true := by
    simpa [engineWord, eOp, op, fmt, zero, aligned] using fits
  have run := exec_tload at_ op legal idle
  obtain ⟨sorted, -, item, trap, stop, jobs, -, banks, -⟩ := id at_
  rw [State.brick_atCycle sorted] at run
  have issued := State.issue_facts (n := n) (e := 0) (c := c) hs sorted (((s.brick n).atCycle c).bankAwaited i c) (bad := fun _ => false) rfl
    ((s.brick n).free.getD 0 0) { ins := i, eng := 0, t0 := c }
  generalize State.issue _ n 0 c _ [] _ _ = t at run issued
  have going : Going n c r s t := issued.going hs item rfl
  rw [State.trap_of_unstopped (going.unstopped stop)] at run
  refine ⟨t, run, issued.issuedAs jobs rfl rfl rfl rfl rfl, ?_⟩
  obtain ⟨brick, -⟩ := id issued
  have start : TloadAt n c i r s (((s.brick n).atCycle c).bankAwaited i c)
      (s.okBytes (bedAddr n (nbits i.word 18 0)) (bankBytes (nbits i.word 56 54))) 0 0 t :=
    ⟨going, by omega, by omega, by rw [brick, Brick.issue, if_pos (by omega)]; simp only [Brick.bankAwaited, Brick.atCycle, jobs]; rfl, by rw [brick]; rfl,
      by rw [brick]; rfl⟩
  obtain ⟨p, q, v, h, last, -, eq⟩ := (tloadAt_course stop trap op rfl ok).runTo (c + 33) start
  have all : ¬ q < 1 := fun left => by have := last left; omega
  have ended := h.jobs
  rw [if_neg all] at ended
  have loaded := h.banks
  rw [if_neg (by omega)] at loaded
  have bank : nbits i.word 57 57 < 2 := nbits_lt _ _ _
  rw [eq, State.brick_setBrick_same h.going.sorted]
  refine ⟨h.going.overAt ended (by omega), ?_, ?_, h.acc⟩
  · change (v.brick n).banks.getD _ _ = _
    rw [loaded, banksLoaded, getD_modify_same _ (by simpa [Brick.bankAwaited, Brick.atCycle, banks] using Nat.le_of_lt_succ bank), Brick.bankAwaited,
      getD_modify_same _ (by simpa [Brick.atCycle, banks] using Nat.le_of_lt_succ bank)]
  · change (v.brick n).banks.getD _ _ = _
    rw [loaded, banksLoaded, getD_modify_ne _ (by omega), Brick.bankAwaited, getD_modify_ne _ (by omega), Brick.atCycle]

end

end Sys2Proof.Machine

/-! SUPPORT. `MVLD` and `MVCFG`: the latch elements of the selected slots are read at issue and usable at the load's end; the destination is set
at once (R112, R113). -/

namespace Sys2Proof.Machine

/-! ## Entries set one after the other -/

section
variable {α β : Type} [DecidableEq α] {d : Nat → α} {key : β → Nat} {val : β → α} {m : List (Nat × α)} {k : Nat}

theorem smSorted_foldl_smSet (es : List β) (hm : smSorted m = true) :
    smSorted (es.foldl (fun m e => smSet d m (key e) (val e)) m) = true := by
  induction es generalizing m with
  | nil => exact hm
  | cons e es ih => exact ih (smSorted_smSet _ _ hm)

theorem smGet_foldl_smSet_of_ne {es : List β} (h : ∀ e ∈ es, key e ≠ k) :
    smGet d (es.foldl (fun m e => smSet d m (key e) (val e)) m) k = smGet d m k := by
  induction es generalizing m with
  | nil => rfl
  | cons e es ih =>
    rw [List.foldl_cons, ih fun x hx => h x (by simp [hx])]
    exact smGet_smSet_ne _ _ _ (h e (by simp)).symm

/-- Where all entries set at a key carry one value, that value stands there. -/
theorem smGet_foldl_smSet_of_eq {es : List β} {v : α} (hm : smSorted m = true) (h : ∀ e ∈ es, key e = k → val e = v)
    (some : ∃ e ∈ es, key e = k) : smGet d (es.foldl (fun m e => smSet d m (key e) (val e)) m) k = v := by
  induction es generalizing m with
  | nil => simp at some
  | cons e es ih =>
    rw [List.foldl_cons]
    by_cases later : ∃ x ∈ es, key x = k
    · exact ih (smSorted_smSet _ _ hm) (fun x hx => h x (by simp [hx])) later
    · have here : key e = k := by
        obtain ⟨x, hx, same⟩ := some
        rcases List.mem_cons.mp hx with rfl | hx
        · exact same
        · exact absurd ⟨x, hx, same⟩ later
      rw [smGet_foldl_smSet_of_ne fun x hx same => later ⟨x, hx, same⟩, here, smGet_smSet_same hm, h e (by simp) here]

end

theorem mem_bitsOf {n w k : Nat} : k ∈ bitsOf n w ↔ k < w ∧ nbit n k = true := by
  rw [bitsOf, List.mem_filter, List.mem_range]

theorem bitsOf_nodup (n w : Nat) : (bitsOf n w).Nodup := List.nodup_range.filter _

section
variable {s t u : State} {n e c : Nat} {i : EIns} {r : BRun} {b : Brick} {j : Job}

/-! ## `MVLD` -/

/-- The latch elements that an `MVLD` loads, each with its place in what was read. -/
def latchPlaces (i : EIns) : List (Nat × Nat) :=
  ((bitsOf (nbits i.word 57 50) 8).zipIdx).flatMap fun p => (List.range (nbits i.word 49 38)).map fun e =>
    (p.1 * 2048 + nbits i.word 37 27 + e, p.2 * nbits i.word 49 38 + e)

/-- The latch after an `MVLD` of the bytes `bs`. -/
def latchLoaded (latch : List (Nat × Nat)) (i : EIns) (bs : List Byte) : List (Nat × Nat) :=
  (latchPlaces i).foldl (fun m e => smSet (fun _ => 0) m e.1 (fieldB bs (2 * e.2) 2)) latch

theorem mem_latchPlaces {i : EIns} {x : Nat × Nat} : x ∈ latchPlaces i ↔ ∃ p sl e, (bitsOf (nbits i.word 57 50) 8)[p]? = some sl
    ∧ e < nbits i.word 49 38 ∧ x = (sl * 2048 + nbits i.word 37 27 + e, p * nbits i.word 49 38 + e) := by
  simp only [latchPlaces, List.mem_flatMap, List.mem_map, List.mem_range, List.mem_zipIdx_iff_getElem?]
  constructor
  · rintro ⟨⟨sl, p⟩, here, e, small, rfl⟩
    exact ⟨p, sl, e, here, small, rfl⟩
  · rintro ⟨p, sl, e, here, small, rfl⟩
    exact ⟨(sl, p), here, e, small, rfl⟩

/-- An element of a selected slot is the one read for it. -/
theorem smGet_latchLoaded {latch : List (Nat × Nat)} (hm : smSorted latch = true) (fits : nbits i.word 37 27 + nbits i.word 49 38 ≤ 2048)
    (bs : List Byte) {p sl e : Nat} (slot : (bitsOf (nbits i.word 57 50) 8)[p]? = some sl) (small : e < nbits i.word 49 38) :
    smGet (fun _ => 0) (latchLoaded latch i bs) (sl * 2048 + nbits i.word 37 27 + e) = fieldB bs ((p * nbits i.word 49 38 + e) * 2) 2 := by
  refine smGet_foldl_smSet_of_eq hm (fun x hx same => ?_) ⟨_, mem_latchPlaces.mpr ⟨p, sl, e, slot, small, rfl⟩, rfl⟩
  obtain ⟨p', sl', e', slot', small', rfl⟩ := mem_latchPlaces.mp hx
  dsimp only at same ⊢
  obtain rfl : sl' = sl := by omega
  obtain rfl : e' = e := by omega
  obtain ⟨place, at_⟩ := List.getElem?_eq_some_iff.mp slot
  obtain ⟨place', at'⟩ := List.getElem?_eq_some_iff.mp slot'
  obtain rfl : p' = p := (bitsOf_nodup _ _).getElem_inj_iff.mp (at'.trans at_.symm)
  rw [Nat.mul_comm]

/-- Every other element stays. -/
theorem smGet_latchLoaded_ne {latch : List (Nat × Nat)} (fits : nbits i.word 37 27 + nbits i.word 49 38 ≤ 2048)
    (bs : List Byte) {sl e : Nat} (inside : e < 2048)
    (away : nbit (nbits i.word 57 50) sl = false ∨ e < nbits i.word 37 27 ∨ nbits i.word 37 27 + nbits i.word 49 38 ≤ e) :
    smGet (fun _ => 0) (latchLoaded latch i bs) (sl * 2048 + e) = smGet (fun _ => 0) latch (sl * 2048 + e) := by
  refine smGet_foldl_smSet_of_ne fun x hx same => ?_
  obtain ⟨p', sl', e', slot', small', rfl⟩ := mem_latchPlaces.mp hx
  dsimp only at same
  obtain rfl : sl' = sl := by omega
  have selected := (mem_bitsOf.mp (List.mem_of_getElem? slot')).2
  rcases away with off | low | high
  · rw [off] at selected; cases selected
  · omega
  · omega

/-- An `MVLD` after `p` reads, which took `bs`, and `q` writes. -/
def mvldJob (i : EIns) (c : Nat) (bs : List Byte) (p q : Nat) : Job :=
  { ins := i, eng := 1, t0 := c, rd := p, wr := q, buf := if p = 0 then [] else [(natsOf bs, false)]
    buf2 := if p = 0 then [] else [([], false)] }

/-- The bytes that an `MVLD` reads. -/
def mvldBytes (i : EIns) : Nat := npop (nbits i.word 57 50) 8 * nbits i.word 49 38 * 2

/-- The cycles from its issue to its end. -/
def mvldCycles (i : EIns) : Nat := 2 + (npop (nbits i.word 57 50) 8 * nbits i.word 49 38 + 31) / 32

/-- An `MVLD` that issued on brick `b` in state `s` has made `p` reads and `q` writes. -/
structure MvldAt (n c : Nat) (i : EIns) (r : BRun) (s : State) (b : Brick) (bs : List Byte) (p q : Nat) (t : State) : Prop where
  going : Going n c r s t
  reads : p ≤ 1
  writes : q ≤ p
  jobs : (t.brick n).jobs = if q < 1 then [mvldJob i c bs p q] else []
  latch : (t.brick n).latch = if q = 0 then b.latch else latchLoaded b.latch i bs
  latchBad : q = 1 → ∀ k ∈ (t.brick n).latchBad, ∀ x ∈ latchPlaces i, x.1 ≠ k

theorem mvldAt_course {bs : List Byte} (stop : r.stopAt = none) (trap : r.trap = false) (op : nbits i.word 63 58 = 3)
    (bytes : s.okBytes (bedAddr n (nbits i.word 18 0)) (mvldBytes i) = bs)
    (ok : s.anyBad (bedAddr n (nbits i.word 18 0)) (mvldBytes i) = false) :
    Course n 1 1 (fun _ => c) (fun _ => c + mvldCycles i) (fun _ => 1) (mvldJob i c bs) (MvldAt n c i r s b bs) where
  facts _ _ := by simp [mvldJob, mvldCycles, Job.reads, Job.writes, Job.readAt, Job.writeAt, eOp, op, Nat.add_assoc]
  order {p q} _ early := ⟨early, by omega⟩
  bound h := ⟨h.reads, h.writes.trans h.reads⟩
  sorted h := h.going.sorted
  going h := h.going.unstopped stop
  jobs h := h.jobs
  read {p q t} h left more := by
    obtain rfl : q = 0 := by omega
    obtain rfl : p = 0 := by omega
    have jobs := h.jobs
    rw [if_pos left] at jobs
    have okHere := (h.going.reads.anyBad (bedAddr n (nbits i.word 18 0)) (mvldBytes i)).trans ok
    obtain ⟨read, good, looked⟩ := h.going.looked.bedRead trap 1 i (nbits i.word 18 0) (mvldBytes i) c okHere
    rw [h.going.reads.okBytes, bytes] at read
    have clean : ∀ e < npop (nbits i.word 57 50) 8 * nbits i.word 49 38, (t.ecc (bedAddr n (nbits i.word 18 0 + 2 * e))).bad = false := by
      intro e he
      refine State.not_bad_of_anyBad okHere ?_ ?_
      · simp only [bedAddr]; omega
      · simp only [bedAddr, mvldBytes]; omega
    have eq : t.jobRead n (mvldJob i c bs 0 0)
        = ((t.bedRead n 1 i (nbits i.word 18 0) (mvldBytes i) c).2.2, mvldJob i c bs 1 0) := by
      rw [mvldBytes] at read good ⊢
      simpa [State.jobRead, mvldJob, eOp, op, Job.readAt, State.meets, good, read] using clean
    obtain ⟨going, -, g, brick⟩ := h.going.read jobs (by rw [eq]; exact looked)
      (by rw [eq]; simp [mvldJob, Job.writes, eOp, op])
    rw [eq] at brick
    exact ⟨going, by omega, by omega, by rw [brick]; rfl, by rw [brick]; exact h.latch, by omega⟩
  write {p q t} h left ready := by
    obtain rfl : q = 0 := by omega
    obtain rfl : p = 1 := by have := h.reads; omega
    have jobs := h.jobs
    rw [if_pos left] at jobs
    have latch := h.latch
    rw [if_pos rfl] at latch
    have eq : t.jobWrite n (mvldJob i c bs 1 0)
        = (t.setBrick n { t.brick n with
            latch := latchLoaded b.latch i bs
            latchBad := (t.brick n).latchBad.filter fun l => !(latchPlaces i).any fun e => e.1 = l }, mvldJob i c bs 1 1) := by
      simp [State.jobWrite, mvldJob, eOp, op, bytesOf_natsOf, latch, latchLoaded, latchPlaces]
    obtain ⟨going, -, brick⟩ := h.going.write jobs (congrArg Prod.fst eq) rfl rfl rfl
    rw [eq] at brick
    refine ⟨going, h.reads, by omega, ?_, by rw [brick]; rfl, fun _ k hk x hx same => ?_⟩
    · rw [brick]
      simp [mvldJob, Job.writes, eOp, op]
    · rw [brick] at hk
      have kept := (List.mem_filter.mp hk).2
      rw [Bool.not_eq_true', List.any_eq_false] at kept
      exact kept x hx (by simpa using same)

/-- An `MVLD` that finds its port free issues. -/
theorem exec_mvld (at_ : s.engineAt n 1 c i r) (op : nbits i.word 63 58 = 3) (legal : engineWord 1 i.word = true)
    (idle : (s.brick n).free.getD 1 0 ≤ c) :
    exec (.mvld n c []) s = .next ((((s.atCycle n c).setBrick n { (s.brick n).atCycle c with latchReady := c + mvldCycles i }).issue n 1 c
      (c + mvldCycles i) [] (fun _ => false) { ins := i, eng := 1, t0 := c }).trap n) := by
  change Host.Outcome.next (s.engineRow n 1 c _ _) = _
  obtain ⟨sorted, -⟩ := id at_
  have ends : ({ ins := i, eng := 1, t0 := c } : Job).ends = c + mvldCycles i := by
    simp [Job.ends, Job.writeAt, eOp, op, mvldCycles, Nat.add_assoc]
  rw [at_.engineRow, legal]
  dsimp only
  rw [if_neg (by simp), if_pos (decide_eq_true (p := eOp i.word = 3) op), State.brick_atCycle sorted,
    if_neg (show ¬ c < ((s.brick n).atCycle c).free.getD 1 0 from Nat.not_lt.mpr idle), ends]

/-- The clause of O33 on `MVLD`: it issues, and at its end the selected slots hold what the Bed held, the others what they did. -/
theorem mvld_loads (at_ : s.engineAt n 1 c i r) (hs : s.Canonical)
    (op : nbits i.word 63 58 = 3) (some : nbits i.word 57 50 ≠ 0) (count : nbits i.word 49 38 ≠ 0)
    (inside : nbits i.word 37 27 + nbits i.word 49 38 ≤ 2048) (zero : nbits i.word 26 19 = 0) (aligned : nbits i.word 18 0 % 64 = 0)
    (fits : nbits i.word 18 0 + mvldBytes i ≤ 2 ^ 19) (idle : (s.brick n).free.getD 1 0 ≤ c)
    (ok : s.anyBad (bedAddr n (nbits i.word 18 0)) (mvldBytes i) = false) :
    ∃ t, exec (.mvld n c []) s = .next t ∧ IssuedAs n 1 c i (s.brick n).fifos s t ∧ (t.brick n).latchReady = c + mvldCycles i
      ∧ ∃ u, t.runTo n (c + mvldCycles i + 1) = u ∧ OverAt n (c + mvldCycles i + 1) s u
        ∧ (u.brick n).latch = latchLoaded (s.brick n).latch i (s.okBytes (bedAddr n (nbits i.word 18 0)) (mvldBytes i))
        ∧ ∀ k ∈ (u.brick n).latchBad, ∀ x ∈ latchPlaces i, x.1 ≠ k := by
  have legal : engineWord 1 i.word = true := by
    have small : nbits i.word 49 38 ≤ 2048 := by omega
    simpa [engineWord, eOp, op, some, count, small, inside, zero, aligned, mvldBytes] using fits
  have run := exec_mvld at_ op legal idle
  obtain ⟨sorted, -, item, trap, stop, jobs, -⟩ := id at_
  have issued := State.issue_facts (n := n) (e := 1) (c := c) hs sorted { (s.brick n).atCycle c with latchReady := c + mvldCycles i }
    (bad := fun _ => false) rfl (c + mvldCycles i) { ins := i, eng := 1, t0 := c }
  generalize State.issue _ n 1 c _ [] _ _ = t at run issued
  have going : Going n c r s t := issued.going hs item rfl
  rw [State.trap_of_unstopped (going.unstopped stop)] at run
  obtain ⟨brick, -⟩ := id issued
  refine ⟨t, run, issued.issuedAs jobs rfl rfl rfl rfl rfl, by rw [brick]; rfl, _, rfl, ?_⟩
  have start : MvldAt n c i r s (s.brick n) (s.okBytes (bedAddr n (nbits i.word 18 0)) (mvldBytes i)) 0 0 t :=
    ⟨going, by omega, by omega, by rw [brick, Brick.issue, if_pos (by omega)]; simp only [Brick.atCycle, jobs]; rfl, by rw [brick]; rfl, by omega⟩
  obtain ⟨p, q, v, h, last, -, eq⟩ := (mvldAt_course stop trap op rfl ok).runTo (c + mvldCycles i + 1) start
  have all : ¬ q < 1 := fun left => by have := last left; omega
  have ended := h.jobs
  rw [if_neg all] at ended
  have loaded := h.latch
  rw [if_neg (by omega)] at loaded
  rw [eq, State.brick_setBrick_same h.going.sorted]
  exact ⟨h.going.overAt ended (by omega), loaded, h.latchBad (by have := h.reads; have := h.writes; omega)⟩

/-! ## `MVCFG` -/

/-- The brick after an `MVCFG`. -/
def Brick.configured (b : Brick) (i : EIns) (c : Nat) : Brick :=
  { (b.atCycle c).issue 1 c (b.free.getD 1 0) none with
    mvDst := nbits i.word 57 57, mvGroup := nbits i.word 47 32, mvOut := nbits i.word 31 16 }

/-- The clause of O33 on `MVCFG`: it sets the destination of the `MVMUL`s after it. -/
theorem exec_mvcfg (at_ : s.engineAt n 1 c i r) (hs : s.Canonical) (op : nbits i.word 63 58 = 4) (zero : nbits i.word 56 48 = 0)
    (low : nbits i.word 15 0 = 0) (aligned : nbits i.word 31 16 % 16 = 0) (group : nbits i.word 43 40 = 0)
    (idle : (s.brick n).free.getD 1 0 ≤ c) :
    ∃ t, exec (.mvcfg n c) s = .next t ∧ IssuedWith n ((s.brick n).configured i c) s t := by
  have legal : engineWord 1 i.word = true := by simp [engineWord, eOp, op, zero, low, aligned, group]
  obtain ⟨sorted, -, item, trap, stop, -⟩ := id at_
  have sorted' : smSorted ((s.atCycle n c).noteWait n i c).br = true := State.sorted_setBrick sorted _ _
  have same : ((s.atCycle n c).noteWait n i c).brick n = (s.brick n).atCycle c := State.brick_atCycle sorted n c
  have run : exec (.mvcfg n c) s = .next ((((s.atCycle n c).noteWait n i c).setBrick n ((s.brick n).configured i c)).trap n) := by
    change Host.Outcome.next (s.engineRow n 1 c _ _) = _
    rw [at_.engineRow, legal]
    dsimp only
    rw [if_neg (by simp), if_pos (decide_eq_true (p := eOp i.word = 4) op), same,
      if_neg (show ¬ c < ((s.brick n).atCycle c).free.getD 1 0 from Nat.not_lt.mpr idle)]
    rfl
  have brick : (((s.atCycle n c).noteWait n i c).setBrick n ((s.brick n).configured i c)).brick n = (s.brick n).configured i c :=
    State.brick_setBrick_same sorted' _ _
  have waited : RegsOnly (s.atCycle n c) ((s.atCycle n c).noteWait n i c) := (RegsOnly.refl _).setF
  have kept : RegsSame (fun k => k ∉ [regKey F.BRK_ISSUE_WAIT_MAX_CYCLES.addr n 0]) (s.atCycle n c) ((s.atCycle n c).noteWait n i c) :=
    (RegsSame.refl _).setF fun away => away (List.mem_singleton.mpr rfl)
  have frame := (((BricksOnly.refl s).setBrick n ((s.brick n).atCycle c)).regs waited).setBrick n ((s.brick n).configured i c)
  have canonical : ((s.atCycle n c).noteWait n i c).Canonical := State.noteWait_keeps canonical_stable.toStable hs
  rw [State.trap_of_unstopped (by rw [State.unstopped, brick]; change (s.brick n).run.bind _ = none; rw [item]; exact stop)] at run
  exact ⟨_, run, brick, State.sorted_setBrick sorted' _ _, canonical, kept, frame.eq⟩

end

end Sys2Proof.Machine

/-! SUPPORT. A `TMUL` and its course: row by row a unit of its stream passes through the bank into the accumulator rows of its span, and the
last write of each row sets its `FULL` (R104 to R107). -/

namespace Sys2Proof.Machine

/-! ## What has been read and not yet written -/

/-- The values `f q` to `f (p - 1)`. -/
def between {α : Type} (f : Nat → α) (q p : Nat) : List α := ((List.range p).map f).drop q

section
variable {α : Type} {f : Nat → α} {p q : Nat}

theorem between_succ (f : Nat → α) (h : q ≤ p) : between f q p ++ [f p] = between f q (p + 1) := by
  rw [between, between, List.range_succ, List.map_append, List.drop_append_of_le_length (by simpa using h)]
  rfl

theorem between_eq_cons (f : Nat → α) (h : q < p) : between f q p = f q :: between f (q + 1) p := by
  rw [between, between, List.drop_eq_getElem_cons (by simpa using h)]
  simp

theorem headD_drop (l : List α) (k : Nat) (d : α) : (l.drop k).headD d = l.getD k d := by
  rw [List.headD_eq_head?_getD, List.head?_drop, List.getD_eq_getElem?_getD]

end

/-! ## Streams -/

theorem length_unitsOf (ds : List SDesc) : (unitsOf ds).length = unitCount ds := by
  have from_ (ds : List SDesc) (m : Nat) : m + (unitsOf ds).length = ds.foldl (fun n d => n + d.count * d.rep) m := by
    induction ds generalizing m with
    | nil => rfl
    | cons d ds ih => simp [unitsOf, ← ih, Nat.add_assoc]
  simpa [unitCount] using from_ ds 0

theorem length_unitsOf_of_streamOk {ds : List SDesc} {spaces : List Nat} {units align size : Nat}
    (h : streamOk ds spaces units align size = true) : (unitsOf ds).length = units := by
  rw [streamOk, Bool.and_eq_true, decide_eq_true_eq] at h
  rw [length_unitsOf, h.2]

theorem getD_mem {α : Type} {l : List α} {k : Nat} {d : α} (h : k < l.length) : l.getD k d ∈ l := by
  rw [List.getD_eq_getElem _ _ h]
  exact List.getElem_mem h

/-! ## The rows of a span -/

theorem accRow_mod (base span k : Nat) : accRow base span (k % span) = accRow base span k := by
  simp [accRow]

/-- Within a span's worth of rows no accumulator row comes twice. -/
theorem accRow_ne {base span k l : Nat} (small : span ≤ 1024) (lt : k < l) (near : l < k + span) :
    accRow base span k ≠ accRow base span l := by
  intro same
  rw [accRow, accRow] at same
  have hk : k % span < span := Nat.mod_lt _ (by omega)
  have hl : l % span < span := Nat.mod_lt _ (by omega)
  have equal : k % span = l % span := by omega
  have multiple : span ∣ l - k := (Nat.modEq_iff_dvd' lt.le).mp equal
  have := Nat.le_of_dvd (by omega) multiple
  omega

/-- The rows written last are those of the span. -/
theorem exists_last_iff {base span rows x : Nat} (h : 1 ≤ span) :
    (∃ k, k < rows ∧ rows ≤ k + span ∧ accRow base span k = x) ↔ ∃ k, k < min rows span ∧ accRow base span k = x := by
  constructor
  · rintro ⟨k, low, -, rfl⟩
    have small : k % span < span := Nat.mod_lt _ h
    have le : k % span ≤ k := Nat.mod_le _ _
    exact ⟨k % span, by omega, accRow_mod _ _ _⟩
  · rintro ⟨k, low, rfl⟩
    have within : (rows - 1 - k) / span * span ≤ rows - 1 - k := Nat.div_mul_le_self _ _
    have rest : rows - 1 - k < (rows - 1 - k) / span * span + span := by
      have := Nat.lt_div_mul_add (a := rows - 1 - k) h
      omega
    refine ⟨k + (rows - 1 - k) / span * span, by omega, by omega, ?_⟩
    rw [accRow, accRow, Nat.add_mul_mod_self_right]

theorem packBytes_tileInputs {wf af : Nat} (pair : tilePair wf af = true) : packBytes af (tileInputs wf) = if 5 ≤ af then 64 else 32 := by
  simp only [tilePair, Bool.or_eq_true, Bool.and_eq_true, decide_eq_true_eq, beq_iff_eq] at pair
  rcases pair with (((⟨hw, ha⟩ | ⟨rfl, rfl⟩) | ⟨rfl, rfl⟩) | ⟨rfl, rfl⟩) | ⟨hw, ha⟩
  · interval_cases wf <;> interval_cases af <;> rfl
  · rfl
  · rfl
  · rfl
  · rcases hw with rfl | rfl <;> rcases ha with rfl | rfl <;> rfl

end Sys2Proof.Machine

/-! SUPPORT. What each read and each write of a `TMUL` does: the rows that wait, the accumulator rows written, their marks (R104, R106). -/

namespace Sys2Proof.Machine

section
variable {s t u : State} {n e c : Nat} {i : EIns} {r : BRun} {b : Brick} {j : Job}

/-- What a row of a `TMUL` reads: its unit of the stream. -/
def State.tmulRow (s : State) (n : Nat) (i : EIns) (us : List Nat) (k : Nat) : List Byte :=
  s.okBytes (bedAddr n (us.getD k 0)) (if 5 ≤ nbits i.word 56 54 then 64 else 32)

/-- A `TMUL` of the units `us` in footprint `fp` through a bank of format `fmt`, after `p` reads, which took `row`, and `q` writes. -/
def tmulJob (i : EIns) (c fmt : Nat) (fp : Nat × Nat) (us : List Nat) (row : Nat → List Byte) (p q : Nat) : Job :=
  { ins := i, eng := 0, t0 := c, units := us.drop p, n := nbits i.word 47 32, lo := fp.1, hi := fp.2, fmt := fmt, rd := p, wr := q
    buf := between (fun k => (natsOf (row k), false)) q p }

/-- The accumulator row that row `k` of a `TMUL` goes to. -/
def EIns.accRow (i : EIns) (k : Nat) : Nat := Machine.accRow (nbits i.word 31 22) (nbits i.word 21 11) k

/-- What row `k` of a `TMUL` leaves where `old` stood. -/
def tmulStep (i : EIns) (bank : WBank) (row : Nat → List Byte) (old : List Nat) (k : Nat) : List Nat :=
  tileRow bank.fmt (nbits i.word 56 54) bank.bytes (row k)
    (if nbits i.word 53 53 = 0 ∧ k < nbits i.word 21 11 then List.replicate 32 0 else old)

/-- The bank a `TMUL` uses. -/
def Brick.bankOf (b : Brick) (i : EIns) : WBank := b.banks.getD (nbits i.word 57 57) {}

theorem nbit_eq_false_iff (w k : Nat) : nbit w k = false ↔ nbits w k k = 0 := by
  rw [nbit, nbits, show k + 1 - k = 1 by omega]
  simp

/-- Row `j.wr` written: its accumulator row, the marks of INT32 and of `FULL`; nothing is poisoned that was not. -/
theorem Brick.tileWrite_facts (bad : b.accBad = []) (good : j.bad = false) {x : List Nat} {rest : List (List Nat × Bool)}
    (buf : j.buf = (x, false) :: rest) :
    (b.tileWrite j).accBad = []
    ∧ (b.tileWrite j).acc = smPut b.acc (j.ins.accRow j.wr) (tileRow j.fmt (nbits j.ins.word 56 54) (b.bankOf j.ins).bytes (bytesOf x)
        (if nbits j.ins.word 53 53 = 0 ∧ j.wr < nbits j.ins.word 21 11 then List.replicate 32 0 else b.accAt (j.ins.accRow j.wr)))
    ∧ (b.tileWrite j).accInt = (if intFmt j.fmt then addNew b.accInt [j.ins.accRow j.wr] else b.accInt.filter (· ≠ j.ins.accRow j.wr))
    ∧ (b.tileWrite j).full = (if nbit j.ins.word 52 && nbits j.ins.word 47 32 ≤ j.wr + nbits j.ins.word 21 11
        then addNew b.full [j.ins.accRow j.wr] else b.full)
    ∧ (b.tileWrite j).run = b.run ∧ (b.tileWrite j).now = b.now ∧ (b.tileWrite j).jobs = b.jobs ∧ (b.tileWrite j).banks = b.banks := by
  refine ⟨?_, ?_, rfl, rfl, rfl, rfl, rfl, rfl⟩
  · simp [Brick.tileWrite, Brick.mark, buf, good, bad]
  · simp only [Brick.tileWrite, Brick.mark, buf, EIns.accRow, Brick.bankOf, List.headD_cons]
    congr 2
    simp [nbit_eq_false_iff]

/-- A `TMUL` that issued on brick `b` in state `s` has made `p` reads and `q` writes. -/
structure TmulAt (n c : Nat) (i : EIns) (r : BRun) (s : State) (b : Brick) (fp : Nat × Nat) (us : List Nat) (p q : Nat) (t : State) :
    Prop where
  going : Going n c r s t
  reads : p ≤ nbits i.word 47 32
  writes : q ≤ p
  jobs : (t.brick n).jobs = if q < nbits i.word 47 32 then [tmulJob i c (b.bankOf i).fmt fp us (s.tmulRow n i us) p q] else []
  banks : (t.brick n).banks = b.banks
  accBad : (t.brick n).accBad = []
  acc : ∀ x, (t.brick n).accAt x
    = ((List.range q).filter fun k => i.accRow k = x).foldl (tmulStep i (b.bankOf i) (s.tmulRow n i us)) (b.accAt x)
  full : ∀ x, x ∈ (t.brick n).full ↔ x ∈ b.full ∨ (nbit i.word 52 = true
    ∧ ∃ k, k < q ∧ nbits i.word 47 32 ≤ k + nbits i.word 21 11 ∧ i.accRow k = x)
  ints : ∀ k, k < q → (i.accRow k ∈ (t.brick n).accInt ↔ intFmt (b.bankOf i).fmt = true)

theorem mem_addNew {xs ys : List Nat} {y : Nat} : y ∈ addNew xs ys ↔ y ∈ xs ∨ y ∈ ys := by
  by_cases h : y ∈ xs <;> simp [addNew, h]

/-- The next row read: its bytes join those waiting. -/
theorem TmulAt.jobRead {fp : Nat × Nat} {us : List Nat} {p q : Nat} (h : TmulAt n c i r s b fp us p q t) (trap : r.trap = false)
    (op : nbits i.word 63 58 = 2) (pair : tilePair (b.bankOf i).fmt (nbits i.word 56 54) = true) (more : p < us.length)
    (ok : ∀ u ∈ us, s.anyBad (bedAddr n u) (if 5 ≤ nbits i.word 56 54 then 64 else 32) = false) :
    Looked n r t (t.jobRead n (tmulJob i c (b.bankOf i).fmt fp us (s.tmulRow n i us) p q)).1
      ∧ (t.jobRead n (tmulJob i c (b.bankOf i).fmt fp us (s.tmulRow n i us) p q)).2
        = tmulJob i c (b.bankOf i).fmt fp us (s.tmulRow n i us) (p + 1) q := by
  obtain ⟨read, good, looked⟩ := h.going.looked.bedRead trap 0 i (us.getD p 0) (if 5 ≤ nbits i.word 56 54 then 64 else 32)
    (c + 2 + p * tileCycles (b.bankOf i).fmt) ((h.going.reads.anyBad _ _).trans (ok _ (getD_mem more)))
  rw [h.going.reads.okBytes] at read
  have counted : RegsOnly (t.bedRead n 0 i (us.getD p 0) (if 5 ≤ nbits i.word 56 54 then 64 else 32) (c + 2 + p * tileCycles (b.bankOf i).fmt)).2.2
    (((t.bedRead n 0 i (us.getD p 0) (if 5 ≤ nbits i.word 56 54 then 64 else 32) (c + 2 + p * tileCycles (b.bankOf i).fmt)).2.2.bumpW
      F.BRK_TILE_ROWS_COUNT 1 n).bumpW F.BRK_TILE_BUSY_COUNT 1 n) := (RegsOnly.refl _).setF.setF
  have canonical := State.bumpW_keeps canonical_stable.toStable (a1 := F.BRK_TILE_BUSY_COUNT) (a2 := 1) (a3 := n) (a4 := 0)
    (State.bumpW_keeps canonical_stable.toStable (a1 := F.BRK_TILE_ROWS_COUNT) (a2 := 1) (a3 := n) (a4 := 0) looked.reads.canonical)
  have eq : t.jobRead n (tmulJob i c (b.bankOf i).fmt fp us (s.tmulRow n i us) p q)
      = (((t.bedRead n 0 i (us.getD p 0) (if 5 ≤ nbits i.word 56 54 then 64 else 32) (c + 2 + p * tileCycles (b.bankOf i).fmt)).2.2.bumpW
        F.BRK_TILE_ROWS_COUNT 1 n).bumpW F.BRK_TILE_BUSY_COUNT 1 n, tmulJob i c (b.bankOf i).fmt fp us (s.tmulRow n i us) (p + 1) q) := by
    have row : s.tmulRow n i us p = s.okBytes (bedAddr n (us.getD p 0)) (if 5 ≤ nbits i.word 56 54 then 64 else 32) := rfl
    unfold State.jobRead
    simp only [tmulJob, eOp, op, Job.readAt, headD_drop, packBytes_tileInputs pair, State.meets, good, read, Bool.false_and,
      Bool.false_eq_true, if_false, List.tail_drop, ← between_succ _ h.writes, row]
  rw [eq]
  exact ⟨looked.regs counted canonical, rfl⟩

theorem filter_range_succ (f : Nat → Nat) (q x : Nat) : (List.range (q + 1)).filter (fun k => f k = x)
    = (List.range q).filter (fun k => f k = x) ++ if f q = x then [q] else [] := by
  rw [List.range_succ, List.filter_append, List.filter_singleton]
  by_cases h : f q = x <;> simp [h]

/-- The next row written. -/
theorem TmulAt.written {fp : Nat × Nat} {us : List Nat} {p q : Nat} (h : TmulAt n c i r s b fp us p q t)
    (op : nbits i.word 63 58 = 2) (left : q < nbits i.word 47 32) (ready : q < p) :
    TmulAt n c i r s b fp us p (q + 1) (t.move n 0 true) := by
  have jobs := h.jobs
  rw [if_pos left] at jobs
  have buf : (tmulJob i c (b.bankOf i).fmt fp us (s.tmulRow n i us) p q).buf
      = (natsOf (s.tmulRow n i us q), false) :: between (fun k => (natsOf (s.tmulRow n i us k), false)) (q + 1) p := between_eq_cons _ ready
  obtain ⟨accBad, acc, ints, full, run, now, same, banks⟩ := (t.brick n).tileWrite_facts h.accBad (j := tmulJob i c (b.bankOf i).fmt fp us (s.tmulRow n i us) p q)
    rfl buf
  have bank : (t.brick n).bankOf i = b.bankOf i := by rw [Brick.bankOf, h.banks, Brick.bankOf]
  have old : (t.brick n).rowBad (accRow (nbits i.word 31 22) (nbits i.word 21 11) q) = false := by rw [Brick.rowBad, h.accBad]; rfl
  have eq : t.jobWrite n (tmulJob i c (b.bankOf i).fmt fp us (s.tmulRow n i us) p q)
      = (t.setBrick n ((t.brick n).tileWrite (tmulJob i c (b.bankOf i).fmt fp us (s.tmulRow n i us) p q)),
        tmulJob i c (b.bankOf i).fmt fp us (s.tmulRow n i us) p (q + 1)) := by
    have job : { tmulJob i c (b.bankOf i).fmt fp us (s.tmulRow n i us) p q with
        wr := q + 1, buf := (tmulJob i c (b.bankOf i).fmt fp us (s.tmulRow n i us) p q).buf.tail }
        = tmulJob i c (b.bankOf i).fmt fp us (s.tmulRow n i us) p (q + 1) := by rw [buf]; rfl
    rw [← job]
    simp [State.jobWrite, tmulJob, eOp, op, old, State.meets]
  obtain ⟨going, -, brick⟩ := h.going.write jobs (congrArg Prod.fst eq) run now same
  rw [eq] at brick
  have writes : (tmulJob i c (b.bankOf i).fmt fp us (s.tmulRow n i us) p (q + 1)).writes = nbits i.word 47 32 := by
    simp [tmulJob, Job.writes, eOp, op]
  have wr : (tmulJob i c (b.bankOf i).fmt fp us (s.tmulRow n i us) p (q + 1)).wr = q + 1 := rfl
  refine ⟨going, h.reads, ready, ?_, ?_, ?_, fun x => ?_, fun x => ?_, fun k hk => ?_⟩
  · rw [brick, wr, writes]
  · rw [brick]; exact banks.trans h.banks
  · rw [brick]; exact accBad
  · have put : ((t.move n 0 true).brick n).accAt x = smGet (fun _ => List.replicate 32 0) (smPut (t.brick n).acc (i.accRow q)
        (tmulStep i (b.bankOf i) (s.tmulRow n i us) ((t.brick n).accAt (i.accRow q)) q)) x := by
      rw [brick]
      change smGet _ ((t.brick n).tileWrite _).acc x = _
      rw [acc]
      change smGet _ (smPut _ _ (tileRow _ _ ((t.brick n).bankOf i).bytes (bytesOf (natsOf _)) _)) x = _
      rw [bank, bytesOf_natsOf]
      rfl
    rw [put, filter_range_succ, List.foldl_append]
    by_cases here : i.accRow q = x
    · rw [if_pos here, here, smGet_smPut_same, h.acc x]
      rfl
    · rw [if_neg here, smGet_smPut_ne _ _ _ (Ne.symm here)]
      exact h.acc x
  · rw [brick]
    change x ∈ ((t.brick n).tileWrite _).full ↔ _
    rw [full]
    change x ∈ (if nbit i.word 52 && decide (nbits i.word 47 32 ≤ q + nbits i.word 21 11) then addNew (t.brick n).full [i.accRow q] else (t.brick n).full) ↔ _
    by_cases last : nbit i.word 52 = true ∧ nbits i.word 47 32 ≤ q + nbits i.word 21 11
    · rw [if_pos (by simpa using last), mem_addNew, h.full, List.mem_singleton]
      constructor
      · rintro ((inB | ⟨-, k, low, rest⟩) | rfl)
        · exact .inl inB
        · exact .inr ⟨last.1, k, by omega, rest⟩
        · exact .inr ⟨last.1, q, by omega, last.2, rfl⟩
      · rintro (inB | ⟨-, k, low, late, rfl⟩)
        · exact .inl (.inl inB)
        · by_cases this : k = q
          · exact .inr (by rw [this])
          · exact .inl (.inr ⟨last.1, k, by omega, late, rfl⟩)
    · rw [if_neg (by simpa using last), h.full]
      constructor
      · rintro (inB | ⟨on, k, low, rest⟩)
        · exact .inl inB
        · exact .inr ⟨on, k, by omega, rest⟩
      · rintro (inB | ⟨on, k, low, late, rfl⟩)
        · exact .inl inB
        · by_cases this : k = q
          · rw [this] at late
            exact absurd ⟨on, late⟩ last
          · exact .inr ⟨on, k, by omega, late, rfl⟩
  · rw [brick]
    change i.accRow k ∈ ((t.brick n).tileWrite _).accInt ↔ _
    rw [ints]
    change i.accRow k ∈ (if intFmt (b.bankOf i).fmt then addNew (t.brick n).accInt [i.accRow q] else (t.brick n).accInt.filter (· ≠ i.accRow q)) ↔ _
    have before (other : i.accRow k ≠ i.accRow q) : i.accRow k ∈ (t.brick n).accInt ↔ intFmt (b.bankOf i).fmt = true :=
      h.ints k (by
        by_contra late
        exact other (by rw [show k = q by omega]))
    by_cases int : intFmt (b.bankOf i).fmt = true
    · rw [if_pos int, mem_addNew, List.mem_singleton]
      by_cases here : i.accRow k = i.accRow q
      · simp [here, int]
      · simp [before here, here]
    · rw [if_neg int, List.mem_filter]
      by_cases here : i.accRow k = i.accRow q
      · simp [here, int]
      · simp [before here, here]

theorem tmulAt_course {fp : Nat × Nat} {us : List Nat} (stop : r.stopAt = none) (trap : r.trap = false) (op : nbits i.word 63 58 = 2)
    (pair : tilePair (b.bankOf i).fmt (nbits i.word 56 54) = true) (length : us.length = nbits i.word 47 32)
    (ok : ∀ u ∈ us, s.anyBad (bedAddr n u) (if 5 ≤ nbits i.word 56 54 then 64 else 32) = false) :
    Course n (nbits i.word 47 32) (nbits i.word 47 32) (fun p => c + 2 + p * tileCycles (b.bankOf i).fmt)
      (fun q => c + 14 + q * tileCycles (b.bankOf i).fmt) (fun q => q + 1)
      (tmulJob i c (b.bankOf i).fmt fp us (s.tmulRow n i us)) (TmulAt n c i r s b fp us) where
  facts _ _ := by simp [tmulJob, Job.reads, Job.writes, Job.readAt, Job.writeAt, eOp, op]
  order {p q} left early := by
    have le : p * tileCycles (b.bankOf i).fmt ≤ q * tileCycles (b.bankOf i).fmt := Nat.mul_le_mul_right _ (by omega)
    exact ⟨by omega, by omega⟩
  bound h := ⟨h.reads, h.writes.trans h.reads⟩
  sorted h := h.going.sorted
  going h := h.going.unstopped stop
  jobs h := h.jobs
  read {p q t} h left more := by
    have jobs := h.jobs
    rw [if_pos left] at jobs
    obtain ⟨looked, eq⟩ := h.jobRead trap op pair (by omega) ok
    obtain ⟨going, -, g, brick⟩ := h.going.read jobs looked (by rw [eq]; simpa [tmulJob, Job.writes, eOp, op] using left)
    rw [eq] at brick
    have fields (x : Nat) : ((t.move n 0 false).brick n).accAt x = (t.brick n).accAt x := by rw [brick]; rfl
    exact ⟨going, more, h.writes.trans (Nat.le_succ p), by rw [brick, if_pos left], by rw [brick]; exact h.banks, by rw [brick]; exact h.accBad,
      fun x => (fields x).trans (h.acc x), by rw [brick]; exact h.full, by rw [brick]; exact h.ints⟩
  write h left ready := h.written op left ready

end

end Sys2Proof.Machine

/-! SUPPORT. When a `TMUL` issues, what it leaves when it is over, and the cycle that sets a row's `FULL` (R104, R107). -/

namespace Sys2Proof.Machine

section
variable {s t u : State} {n e c : Nat} {i : EIns} {r : BRun} {b : Brick} {j : Job}

/-- What a `TMUL` at the head finds where it may issue (R104, R107). -/
structure TmulMay (n c : Nat) (i : EIns) (s : State) (ds rest : List SDesc) : Prop where
  op : nbits i.word 63 58 = 2
  fmt : nbits i.word 56 54 ≠ 7
  zero : nbits i.word 51 48 = 0
  low : nbits i.word 10 0 = 0
  rows : 1 ≤ nbits i.word 47 32
  span : 1 ≤ nbits i.word 21 11
  spanLe : nbits i.word 21 11 ≤ 1024
  pair : tilePair ((s.brick n).bankOf i).fmt (nbits i.word 56 54) = true
  stream : takeStream ((s.brick n).fifos.getD 0 []) = some (ds, rest)
  streamOk : streamOk ds [0] (nbits i.word 47 32) (if 5 ≤ nbits i.word 56 54 then 64 else 32) (if 5 ≤ nbits i.word 56 54 then 64 else 32) = true
  bankReady : ((s.brick n).bankOf i).ready ≤ c
  bankGood : ((s.brick n).bankOf i).bad = false
  accBad : (s.brick n).accBad = []
  units : ∀ u ∈ unitsOf ds, s.anyBad (bedAddr n u) (if 5 ≤ nbits i.word 56 54 then 64 else 32) = false
  idle : (if (s.brick n).lastBank = nbits i.word 57 57 then (s.brick n).free.getD 0 0 else (s.brick n).free.getD 0 0 + 1) ≤ c
  ready : ds.all (fun d => d.ready ≤ c) = true
  present : (s.brick n).presentIn (footprint ds (if 5 ≤ nbits i.word 56 54 then 64 else 32)) = true
  notFull : ∀ k, k < nbits i.word 21 11 → i.accRow k ∉ (s.brick n).full

/-- The brick at the issue of a `TMUL`. -/
def Brick.tmulTaken (b : Brick) (i : EIns) (rest : List SDesc) : Brick :=
  { b with fifos := b.fifos.set 0 rest, lastBank := nbits i.word 57 57 }

/-- The footprint of a `TMUL`'s stream. -/
def tmulPrint (i : EIns) (ds : List SDesc) : Nat × Nat := footprint ds (if 5 ≤ nbits i.word 56 54 then 64 else 32)

theorem any_late_eq_false {ds : List SDesc} (ready : ds.all (fun d => d.ready ≤ c) = true) : ds.any (fun d => c < d.ready) = false := by
  rw [List.any_eq_false]
  intro d hd
  have := of_decide_eq_true (List.all_eq_true.mp ready d hd)
  simpa using this

theorem exec_tmul {ds rest : List SDesc} (at_ : s.engineAt n 0 c i r) (may : TmulMay n c i s ds rest) :
    exec (.tmul n c []) s = .next ((((s.atCycle n c).setBrick n (((s.brick n).atCycle c).tmulTaken i rest)).issue n 0 c
      (c + nbits i.word 47 32 * tileCycles ((s.brick n).bankOf i).fmt) [] (fun x => (x.bankOf i).bad)
      (tmulJob i c ((s.brick n).bankOf i).fmt (tmulPrint i ds) (unitsOf ds) (s.tmulRow n i (unitsOf ds)) 0 0)).trap n) := by
  have legal : engineWord 0 i.word = true := by
    have rows := may.rows
    have span := may.span
    simp [engineWord, eOp, may.op, may.fmt, may.zero, may.low, may.spanLe, Nat.ne_of_gt rows, Nat.ne_of_gt span]
  obtain ⟨sorted, -⟩ := id at_
  have bank : ((s.brick n).atCycle c).banks.getD (nbits i.word 57 57) {} = (s.brick n).bankOf i := rfl
  have stream : takeStream (((s.brick n).atCycle c).fifos.getD 0 []) = some (ds, rest) := may.stream
  have start : (if ((s.brick n).atCycle c).lastBank = nbits i.word 57 57 then ((s.brick n).atCycle c).free.getD 0 0
      else ((s.brick n).atCycle c).free.getD 0 0 + 1) ≤ c := may.idle
  have present : ((s.brick n).atCycle c).presentIn (footprint ds (if 5 ≤ nbits i.word 56 54 then 64 else 32)) = true := may.present
  have full : ((List.range (nbits i.word 21 11)).map (accRow (nbits i.word 31 22) (nbits i.word 21 11))).any
      ((s.brick n).atCycle c).full.contains = false := by
    rw [List.any_eq_false]
    intro x hx
    obtain ⟨k, hk, rfl⟩ := List.mem_map.mp hx
    rw [List.contains_iff_mem]
    exact may.notFull k (List.mem_range.mp hk)
  change Host.Outcome.next (s.engineRow n 0 c _ _) = _
  rw [at_.engineRow, legal]
  dsimp only
  rw [if_neg (by simp), if_pos (decide_eq_true (p := eOp i.word = 2) may.op), State.brick_atCycle sorted, bank, may.pair, stream]
  simp only [Bool.not_true, Bool.false_eq_true, if_false, may.streamOk, any_late_eq_false may.ready, present, full,
    Bool.or_self, Nat.not_lt.mpr may.bankReady, Nat.not_lt.mpr start, decide_false]
  rfl

/-- The clause of O33 on `TMUL`, with the course it takes. -/
theorem tmul_issues {ds rest : List SDesc} (at_ : s.engineAt n 0 c i r) (hs : s.Canonical) (may : TmulMay n c i s ds rest) :
    ∃ t, exec (.tmul n c []) s = .next t ∧ IssuedAs n 0 c i ((s.brick n).fifos.set 0 rest) s t
      ∧ (t.brick n).free.getD 0 0 = c + nbits i.word 47 32 * tileCycles ((s.brick n).bankOf i).fmt
      ∧ TmulAt n c i r s (s.brick n) (tmulPrint i ds) (unitsOf ds) 0 0 t := by
  have run := exec_tmul at_ may
  obtain ⟨sorted, -, item, trap, stop, jobs, -, -, -, free, -⟩ := id at_
  have issued := State.issue_facts (n := n) (e := 0) (c := c) hs sorted (((s.brick n).atCycle c).tmulTaken i rest)
    (bad := fun x => (x.bankOf i).bad) may.bankGood (c + nbits i.word 47 32 * tileCycles ((s.brick n).bankOf i).fmt)
    (tmulJob i c ((s.brick n).bankOf i).fmt (tmulPrint i ds) (unitsOf ds) (s.tmulRow n i (unitsOf ds)) 0 0)
  generalize State.issue _ n 0 c _ [] _ _ = t at run issued
  have going : Going n c r s t := issued.going hs item rfl
  rw [State.trap_of_unstopped (going.unstopped stop)] at run
  obtain ⟨brick, -⟩ := id issued
  refine ⟨t, run, issued.issuedAs jobs rfl rfl rfl rfl rfl, ?_, going, Nat.zero_le _, Nat.le_refl 0, ?_, by rw [brick]; rfl,
    by rw [brick]; exact may.accBad, fun x => by rw [brick]; rfl, fun x => ?_, by omega⟩
  · rw [brick]
    change ((s.brick n).free.set 0 _).getD 0 0 = _
    rw [List.getD_eq_getElem?_getD, List.getElem?_set_self (by rw [free]; decide)]
    rfl
  · rw [brick, if_pos (show 0 < nbits i.word 47 32 from may.rows), Brick.issue]
    simp only [Brick.tmulTaken, Brick.atCycle, jobs]
    rfl
  · rw [brick]
    exact ⟨.inl, fun h => h.elim id fun ⟨_, k, low, _⟩ => absurd low (Nat.not_lt_zero k)⟩

theorem tileCycles_pos (fmt : Nat) : 1 ≤ tileCycles fmt := by
  unfold tileCycles
  split <;> decide

/-- At cycle `T` every row that is written before it has been written. -/
theorem tmul_at {ds rest : List SDesc} (at_ : s.engineAt n 0 c i r) (may : TmulMay n c i s ds rest)
    (start : TmulAt n c i r s (s.brick n) (tmulPrint i ds) (unitsOf ds) 0 0 t) (T : Nat) :
    ∃ p q v, TmulAt n c i r s (s.brick n) (tmulPrint i ds) (unitsOf ds) p q v
      ∧ (q < nbits i.word 47 32 → T ≤ c + 14 + q * tileCycles ((s.brick n).bankOf i).fmt)
      ∧ (∀ k, k < q → c + 14 + k * tileCycles ((s.brick n).bankOf i).fmt < T)
      ∧ t.runTo n T = v.setBrick n { v.brick n with now := max (v.brick n).now T } := by
  obtain ⟨-, -, -, trap, stop, -⟩ := at_
  exact (tmulAt_course stop trap may.op may.pair (length_unitsOf_of_streamOk may.streamOk) may.units).runTo T start

/-- When a `TMUL` is over each accumulator row holds what its rows left there, and the span's rows are marked. -/
theorem tmul_over {ds rest : List SDesc} (at_ : s.engineAt n 0 c i r) (may : TmulMay n c i s ds rest)
    (start : TmulAt n c i r s (s.brick n) (tmulPrint i ds) (unitsOf ds) 0 0 t) {T : Nat}
    (late : T = c + 15 + nbits i.word 47 32 * tileCycles ((s.brick n).bankOf i).fmt) :
    OverAt n T s (t.runTo n T)
      ∧ (∀ x, ((t.runTo n T).brick n).accAt x = ((List.range (nbits i.word 47 32)).filter fun k => i.accRow k = x).foldl
          (tmulStep i ((s.brick n).bankOf i) (s.tmulRow n i (unitsOf ds))) ((s.brick n).accAt x))
      ∧ (∀ x, x ∈ ((t.runTo n T).brick n).full ↔ x ∈ (s.brick n).full
          ∨ (nbit i.word 52 = true ∧ ∃ k, k < min (nbits i.word 47 32) (nbits i.word 21 11) ∧ i.accRow k = x))
      ∧ ∀ k, k < min (nbits i.word 47 32) (nbits i.word 21 11) →
          (i.accRow k ∈ ((t.runTo n T).brick n).accInt ↔ intFmt ((s.brick n).bankOf i).fmt = true) := by
  obtain ⟨p, q, v, h, last, -, eq⟩ := tmul_at at_ may start T
  have all : q = nbits i.word 47 32 := by
    have := h.reads
    have := h.writes
    by_contra left
    have short : q * tileCycles ((s.brick n).bankOf i).fmt ≤ nbits i.word 47 32 * tileCycles ((s.brick n).bankOf i).fmt :=
      Nat.mul_le_mul_right _ (by omega)
    have := last (by omega)
    omega
  have ended := h.jobs
  rw [if_neg (by omega)] at ended
  have complete := h.going.overAt (T := T) ended (by omega)
  rw [eq, State.brick_setBrick_same h.going.sorted]
  refine ⟨complete, fun x => ?_, fun x => ?_, fun k hk => h.ints k (by omega)⟩
  · rw [← all]
    exact h.acc x
  · change x ∈ (v.brick n).full ↔ _
    rw [h.full, all]
    exact or_congr_right (and_congr_right fun _ => exists_last_iff may.span)

/-- `FULL` of a row of the last span is set in the cycle of that row's write, not before (R104). -/
theorem tmul_full_at {ds rest : List SDesc} (at_ : s.engineAt n 0 c i r) (may : TmulMay n c i s ds rest)
    (start : TmulAt n c i r s (s.brick n) (tmulPrint i ds) (unitsOf ds) 0 0 t) (on : nbit i.word 52 = true) {k : Nat}
    (row : k < nbits i.word 47 32) (final : nbits i.word 47 32 ≤ k + nbits i.word 21 11) :
    i.accRow k ∉ ((t.runTo n (c + 14 + k * tileCycles ((s.brick n).bankOf i).fmt)).brick n).full
      ∧ i.accRow k ∈ ((t.runTo n (c + 15 + k * tileCycles ((s.brick n).bankOf i).fmt)).brick n).full := by
  have cycles := tileCycles_pos ((s.brick n).bankOf i).fmt
  constructor
  · obtain ⟨p, q, v, h, -, made, eq⟩ := tmul_at at_ may start (c + 14 + k * tileCycles ((s.brick n).bankOf i).fmt)
    rw [eq, State.brick_setBrick_same h.going.sorted]
    change i.accRow k ∉ (v.brick n).full
    rw [h.full]
    rintro (before | ⟨-, l, written, lastSpan, same⟩)
    · have free := may.notFull (k % nbits i.word 21 11) (Nat.mod_lt _ may.span)
      rw [EIns.accRow, accRow_mod] at free
      exact free before
    · have early := made l written
      have lt : l < k := by
        by_contra ge
        have le : k * tileCycles ((s.brick n).bankOf i).fmt ≤ l * tileCycles ((s.brick n).bankOf i).fmt := Nat.mul_le_mul_right _ (by omega)
        omega
      exact accRow_ne may.spanLe lt (by omega) same
  · obtain ⟨p, q, v, h, last, -, eq⟩ := tmul_at at_ may start (c + 15 + k * tileCycles ((s.brick n).bankOf i).fmt)
    rw [eq, State.brick_setBrick_same h.going.sorted]
    change i.accRow k ∈ (v.brick n).full
    rw [h.full]
    refine .inr ⟨on, k, ?_, final, rfl⟩
    by_contra unwritten
    have le : q * tileCycles ((s.brick n).bankOf i).fmt ≤ k * tileCycles ((s.brick n).bankOf i).fmt := Nat.mul_le_mul_right _ (by omega)
    have := last (by omega)
    omega

end

end Sys2Proof.Machine

/-! SUPPORT. An `MVMUL` and its course: the tree sums of its blocks are formed as they are read, and each output adds up its own, in the
result buffer or in one contribution (R114 to R116). -/

namespace Sys2Proof.Machine

theorem zipIdx_map_range {α : Type} (f : Nat → α) (m : Nat) : ((List.range m).map f).zipIdx = (List.range m).map fun j => (f j, j) := by
  apply List.ext_getElem?
  intro k
  rw [List.getElem?_zipIdx, List.getElem?_map, List.getElem?_map]
  by_cases h : k < m
  · simp [List.getElem?_range h]
  · simp [List.getElem?_eq_none (show (List.range m).length ≤ k by simpa using h)]

section
variable {α : Type} {f : Nat → α} {p q : Nat}

theorem length_between (f : Nat → α) (q p : Nat) : (between f q p).length = p - q := by simp [between]

theorem drop_between (f : Nat → α) (q p k : Nat) : (between f q p).drop k = between f (q + k) p := by
  rw [between, between, List.drop_drop]

theorem take_between (f : Nat → α) {q p k : Nat} (h : q + k ≤ p) : (between f q p).take k = (List.range k).map fun j => f (q + j) := by
  apply List.ext_getElem?
  intro m
  by_cases small : m < k
  · simp only [between, List.getElem?_take, small, if_true, List.getElem?_drop, List.getElem?_map]
    rw [List.getElem?_range (by omega), List.getElem?_range small]
    rfl
  · rw [List.getElem?_eq_none (by rw [List.length_take, length_between]; omega), List.getElem?_eq_none (by simpa using Nat.le_of_not_lt small)]

end

/-- In one block's turn its units have all been read (R143). -/
theorem mvRead_le_mvCycles {fmt m K : Nat} (hf : fmt < 6) (h : m < K) : m * packBytes fmt 64 / 64 ≤ mvCycles fmt K := by
  have size : packBytes fmt 64 = if fmt ≤ 2 then 64 else if fmt ≤ 4 then 32 else 128 := by
    interval_cases fmt <;> rfl
  rw [size, mvCycles]
  split
  · omega
  · split <;> omega

theorem mvBlocks_pos (w : Nat) : 1 ≤ mvBlocks w := by
  unfold mvBlocks
  split <;> omega

section
variable {s t u : State} {n e c : Nat} {i : EIns} {r : BRun} {b : Brick} {j : Job} {us : List Nat}

/-- The slots an `MVMUL` selects. -/
def EIns.slots (i : EIns) : List Nat := bitsOf (nbits i.word 54 47) 8

/-- Unit `k` of an `MVMUL`'s stream. -/
def State.mvUnit (s : State) (n : Nat) (i : EIns) (us : List Nat) (k : Nat) : List Byte :=
  s.okBytes (bedAddr n (us.getD k 0)) (packBytes (nbits i.word 57 55) 64)

/-- The tree sums of unit `k`, by selected slot. -/
def State.mvSums (s : State) (n : Nat) (i : EIns) (us : List Nat) (k : Nat) : List Nat :=
  i.slots.map fun sl => mvBlock (nbits i.word 57 55) (s.mvUnit n i us k) (mvLatch (s.brick n) i.word k sl)

/-- What output `o` of an `MVMUL` adds up in slot `sl` on `old`. -/
def State.mvTotal (s : State) (n : Nat) (i : EIns) (us : List Nat) (o sl old : Nat) : Nat :=
  mvOutput (nbits i.word 57 55) ((List.range (mvBlocks i.word)).map fun j => s.mvUnit n i us (o * mvBlocks i.word + j))
    (fun e => smGet (fun _ => 0) (s.brick n).latch (sl * 2048 + nbits i.word 45 35 + e)) old

/-- The sums of an output's blocks, added in order, are its total. -/
theorem State.foldl_mvSums (s : State) (n : Nat) (i : EIns) (us : List Nat) {k sl : Nat} (slot : i.slots[k]? = some sl) (o old : Nat) :
    ((List.range (mvBlocks i.word)).map fun j => s.mvSums n i us (o * mvBlocks i.word + j)).foldl (fun a xs => mvAdd a (xs.getD k 0)) old
      = s.mvTotal n i us o sl old := by
  rw [State.mvTotal, mvOutput, zipIdx_map_range, List.foldl_map, List.foldl_map]
  refine List.foldl_ext _ _ _ fun a j hj => ?_
  have small : j < mvBlocks i.word := List.mem_range.mp hj
  have place : (o * mvBlocks i.word + j) % mvBlocks i.word = j := by rw [Nat.mul_add_mod', Nat.mod_eq_of_lt small]
  have latch (e : Nat) : mvLatch (s.brick n) i.word (o * mvBlocks i.word + j) sl e
      = smGet (fun _ => 0) (s.brick n).latch (sl * 2048 + nbits i.word 45 35 + (64 * j + e)) := by
    rw [mvLatch, place, show sl * 2048 + nbits i.word 45 35 + j * 64 + e = sl * 2048 + nbits i.word 45 35 + (64 * j + e) by omega]
  rw [State.mvSums, List.getD_eq_getElem?_getD, List.getElem?_map, slot]
  simp only [Option.map_some, Option.getD_some]
  rw [show mvLatch (s.brick n) i.word (o * mvBlocks i.word + j) sl
    = fun e => smGet (fun _ => 0) (s.brick n).latch (sl * 2048 + nbits i.word 45 35 + (64 * j + e)) from funext latch]

/-- An `MVMUL` of the units `us` in footprint `fp`, issued on brick `b`, after `p` reads, which summed up to `sums`, and `q` writes. -/
def mvmulJob (i : EIns) (c : Nat) (b : Brick) (fp : Nat × Nat) (us : List Nat) (sums : Nat → List Nat) (p q : Nat) : Job :=
  { ins := i, eng := 1, t0 := c, units := us.drop p, n := nbits i.word 29 20 * mvBlocks i.word, lo := fp.1, hi := fp.2
    dst := b.mvDst, group := b.mvGroup, out := b.mvOut, rd := p, wr := q
    buf := between (fun k => (sums k, false)) (q * mvBlocks i.word) p }

/-- Cycles of one output. -/
def EIns.mvCycles (i : EIns) : Nat := Machine.mvCycles (nbits i.word 57 55) (mvBlocks i.word)

/-- The reads of an `MVMUL` come before the writes they are for. -/
theorem mvmul_order (fmt : nbits i.word 57 55 < 6) {p q : Nat} (early : p < (q + 1) * mvBlocks i.word) :
    c + 2 + p / mvBlocks i.word * i.mvCycles + p % mvBlocks i.word * packBytes (nbits i.word 57 55) 64 / 64
      ≤ c + 10 + (q + 1) * i.mvCycles := by
  have within := mvRead_le_mvCycles fmt (Nat.mod_lt p (mvBlocks_pos i.word))
  have output : p / mvBlocks i.word ≤ q := by
    have := (Nat.div_lt_iff_lt_mul (mvBlocks_pos i.word)).mpr early
    omega
  have le : p / mvBlocks i.word * i.mvCycles ≤ q * i.mvCycles := Nat.mul_le_mul_right _ output
  have step : (q + 1) * i.mvCycles = q * i.mvCycles + i.mvCycles := Nat.succ_mul _ _
  rw [← EIns.mvCycles] at within
  omega

/-- An `MVMUL`'s next read: the sums of its blocks join those waiting. -/
theorem mvmul_jobRead {fp : Nat × Nat} {p q : Nat} (going : Going n c r s t) (latch : (t.brick n).latch = (s.brick n).latch) (trap : r.trap = false)
    (op : nbits i.word 63 58 = 5) (made : q * mvBlocks i.word ≤ p) (more : p < us.length)
    (ok : ∀ u ∈ us, s.anyBad (bedAddr n u) (packBytes (nbits i.word 57 55) 64) = false) :
    Looked n r t (t.jobRead n (mvmulJob i c b fp us (s.mvSums n i us) p q)).1
      ∧ (t.jobRead n (mvmulJob i c b fp us (s.mvSums n i us) p q)).2 = mvmulJob i c b fp us (s.mvSums n i us) (p + 1) q := by
  obtain ⟨read, good, looked⟩ := going.looked.bedRead trap 1 i (us.getD p 0) (packBytes (nbits i.word 57 55) 64)
    ((mvmulJob i c b fp us (s.mvSums n i us) p q).readAt p) ((going.reads.anyBad _ _).trans (ok _ (getD_mem more)))
  rw [going.reads.okBytes] at read
  have sums : s.mvSums n i us p = (bitsOf (nbits i.word 54 47) 8).map fun sl => mvBlock (nbits i.word 57 55)
      (s.okBytes (bedAddr n (us.getD p 0)) (packBytes (nbits i.word 57 55) 64)) (mvLatch (t.brick n) i.word p sl) := by
    have same (sl : Nat) : mvLatch (t.brick n) i.word p sl = mvLatch (s.brick n) i.word p sl := by
      funext e
      rw [mvLatch, mvLatch, latch]
    simp only [same]
    rfl
  have eq : t.jobRead n (mvmulJob i c b fp us (s.mvSums n i us) p q)
      = ((t.bedRead n 1 i (us.getD p 0) (packBytes (nbits i.word 57 55) 64) ((mvmulJob i c b fp us (s.mvSums n i us) p q).readAt p)).2.2,
        mvmulJob i c b fp us (s.mvSums n i us) (p + 1) q) := by
    unfold State.jobRead
    simp only [mvmulJob, eOp, op, headD_drop, State.meets, good, Bool.false_and, Bool.or_self,
      Bool.false_eq_true, if_false, List.tail_drop, ← between_succ _ made] at read good ⊢
    simp only [read, sums]
  rw [eq]
  exact ⟨looked, rfl⟩

end

end Sys2Proof.Machine

/-! SUPPORT. What each write of an `MVMUL` does: an output of the result buffer, or the contribution of all outputs (R115, R116). -/

namespace Sys2Proof.Machine

section
variable {s t u : State} {n e c : Nat} {i : EIns} {r : BRun} {b : Brick} {j : Job} {us : List Nat}

/-- What an output of an `MVMUL` adds to in slot `sl`. -/
def EIns.mvOld (i : EIns) (b : Brick) (o sl : Nat) : Nat :=
  if nbit i.word 46 = true then smGet (fun _ => 0) b.rb ((nbits i.word 18 10 + o) * 8 + sl) else 0

/-- Output `j.wr` written: its slots, its `FULL`; nothing is poisoned that was not. -/
theorem Brick.mvWrite_facts (sorted : smSorted b.rb = true) (bad : b.rbBad = []) (good : j.bad = false) {o : Nat} (wr : j.wr = o) (ins : j.ins = i)
    (sums : (j.buf.take (mvBlocks i.word)).map (·.1) = (List.range (mvBlocks i.word)).map fun m => s.mvSums n i us (o * mvBlocks i.word + m)) :
    (b.mvWrite j).rbBad = []
    ∧ smSorted (b.mvWrite j).rb = true
    ∧ (∀ sl ∈ i.slots, smGet (fun _ => 0) (b.mvWrite j).rb ((nbits i.word 18 10 + o) * 8 + sl) = s.mvTotal n i us o sl (i.mvOld b o sl))
    ∧ (∀ k, (∀ sl ∈ i.slots, k ≠ (nbits i.word 18 10 + o) * 8 + sl) → smGet (fun _ => 0) (b.mvWrite j).rb k = smGet (fun _ => 0) b.rb k)
    ∧ (b.mvWrite j).rbFull = (if nbit i.word 19 then addNew b.rbFull [nbits i.word 18 10 + o] else b.rbFull)
    ∧ (b.mvWrite j).run = b.run ∧ (b.mvWrite j).now = b.now ∧ (b.mvWrite j).jobs = b.jobs ∧ (b.mvWrite j).latch = b.latch := by
  have rb : (b.mvWrite j).rb = (i.slots.zipIdx).foldl (fun (m : List (Nat × Nat)) (e : Nat × Nat) => smSet (fun _ => 0) m
      ((nbits i.word 18 10 + o) * 8 + e.1) (((List.range (mvBlocks i.word)).map fun m => s.mvSums n i us (o * mvBlocks i.word + m)).foldl
        (fun a xs => mvAdd a (xs.getD e.2 0)) (i.mvOld b o e.1))) b.rb := by
    rw [← sums, ← ins, ← wr]
    rfl
  refine ⟨?_, ?_, fun sl hsl => ?_, fun k away => ?_, ?_, rfl, rfl, rfl, rfl⟩
  · simp [Brick.mvWrite, Brick.mark, good, bad]
  · rw [rb]
    exact smSorted_foldl_smSet _ sorted
  · rw [rb]
    obtain ⟨k, small, at_⟩ := List.mem_iff_getElem.mp hsl
    refine smGet_foldl_smSet_of_eq sorted (fun x hx same => ?_) ⟨(sl, k), List.mem_zipIdx_iff_getElem?.mpr (by rw [List.getElem?_eq_getElem small, at_]), rfl⟩
    obtain rfl : x.1 = sl := by omega
    exact s.foldl_mvSums n i us (List.mem_zipIdx_iff_getElem?.mp hx) o _
  · rw [rb]
    refine smGet_foldl_smSet_of_ne fun x hx same => ?_
    exact away x.1 (List.mem_of_getElem? (List.mem_zipIdx_iff_getElem?.mp hx)) same.symm
  · rw [← ins, ← wr]
    rfl

/-! ## Into the result buffer -/

/-- An `MVMUL` with `DST` 0 that issued on brick `b` in state `s` has made `p` reads and `q` writes. -/
structure MvmulAt (n c : Nat) (i : EIns) (r : BRun) (s : State) (b : Brick) (fp : Nat × Nat) (us : List Nat) (p q : Nat) (t : State) :
    Prop where
  going : Going n c r s t
  reads : p ≤ nbits i.word 29 20 * mvBlocks i.word
  writes : q * mvBlocks i.word ≤ p
  jobs : (t.brick n).jobs = if q < nbits i.word 29 20 then [mvmulJob i c b fp us (s.mvSums n i us) p q] else []
  latch : (t.brick n).latch = (s.brick n).latch
  rbBad : (t.brick n).rbBad = []
  sorted : smSorted (t.brick n).rb = true
  bk : t.bk = s.bk
  written : ∀ o sl, o < q → sl ∈ i.slots →
    smGet (fun _ => 0) (t.brick n).rb ((nbits i.word 18 10 + o) * 8 + sl) = s.mvTotal n i us o sl (i.mvOld b o sl)
  ahead : ∀ o sl, q ≤ o → sl ∈ i.slots →
    smGet (fun _ => 0) (t.brick n).rb ((nbits i.word 18 10 + o) * 8 + sl) = smGet (fun _ => 0) b.rb ((nbits i.word 18 10 + o) * 8 + sl)
  full : ∀ x, x ∈ (t.brick n).rbFull ↔ x ∈ b.rbFull ∨ (nbit i.word 19 = true ∧ nbits i.word 18 10 ≤ x ∧ x < nbits i.word 18 10 + q)

theorem EIns.slot_lt {sl : Nat} (h : sl ∈ i.slots) : sl < 8 := (mem_bitsOf.mp h).1

theorem MvmulAt.next {fp : Nat × Nat} {p q : Nat} (h : MvmulAt n c i r s b fp us p q t) (dst : b.mvDst = 0)
    (op : nbits i.word 63 58 = 5) (left : q < nbits i.word 29 20) (ready : (q + 1) * mvBlocks i.word ≤ p) :
    MvmulAt n c i r s b fp us p (q + 1) (t.move n 0 true) := by
  have jobs := h.jobs
  rw [if_pos left] at jobs
  have room : q * mvBlocks i.word + mvBlocks i.word ≤ p := by rw [← Nat.succ_mul]; exact ready
  have sums : (((mvmulJob i c b fp us (s.mvSums n i us) p q).buf).take (mvBlocks i.word)).map (·.1)
      = (List.range (mvBlocks i.word)).map fun m => s.mvSums n i us (q * mvBlocks i.word + m) := by
    change ((between (fun k => (s.mvSums n i us k, false)) (q * mvBlocks i.word) p).take (mvBlocks i.word)).map (·.1) = _
    rw [take_between _ room, List.map_map]
    rfl
  obtain ⟨rbBad, sorted, here, others, full, run, now, same, latch⟩ := (t.brick n).mvWrite_facts (s := s) (n := n) (us := us) (i := i) h.sorted h.rbBad
    (j := mvmulJob i c b fp us (s.mvSums n i us) p q) rfl (o := q) rfl rfl sums
  have eq : t.jobWrite n (mvmulJob i c b fp us (s.mvSums n i us) p q)
      = (t.setBrick n ((t.brick n).mvWrite (mvmulJob i c b fp us (s.mvSums n i us) p q)), mvmulJob i c b fp us (s.mvSums n i us) p (q + 1)) := by
    have job : { mvmulJob i c b fp us (s.mvSums n i us) p q with
        wr := q + 1, buf := (mvmulJob i c b fp us (s.mvSums n i us) p q).buf.drop (mvBlocks i.word) }
        = mvmulJob i c b fp us (s.mvSums n i us) p (q + 1) := by
      have rest : (mvmulJob i c b fp us (s.mvSums n i us) p q).buf.drop (mvBlocks i.word)
          = (mvmulJob i c b fp us (s.mvSums n i us) p (q + 1)).buf := by
        change (between _ _ _).drop _ = between _ _ _
        rw [drop_between, Nat.succ_mul]
      rw [rest]; rfl
    rw [← job]
    simp [State.jobWrite, mvmulJob, eOp, op, dst, h.rbBad, State.meets]
  obtain ⟨going, bk, brick⟩ := h.going.write jobs (congrArg Prod.fst eq) run now same
  rw [eq] at brick
  have writes : (mvmulJob i c b fp us (s.mvSums n i us) p (q + 1)).writes = nbits i.word 29 20 := by
    simp [mvmulJob, Job.writes, eOp, op, dst]
  have wr : (mvmulJob i c b fp us (s.mvSums n i us) p (q + 1)).wr = q + 1 := rfl
  refine ⟨going, h.reads, ready, by rw [brick, wr, writes], by rw [brick]; exact latch.trans h.latch, by rw [brick]; exact rbBad,
    by rw [brick]; exact sorted, bk.trans h.bk, fun o sl lt hsl => ?_, fun o sl ge hsl => ?_, fun x => ?_⟩
  · rw [brick]
    change smGet _ ((t.brick n).mvWrite _).rb _ = _
    by_cases last : o = q
    · rw [last, here sl hsl]
      congr 1
      rw [EIns.mvOld, EIns.mvOld, h.ahead q sl (Nat.le_refl q) hsl]
    · rw [others _ fun sl' hsl' same => ?_]
      · exact h.written o sl (by omega) hsl
      · have := EIns.slot_lt hsl
        have := EIns.slot_lt hsl'
        omega
  · rw [brick]
    change smGet _ ((t.brick n).mvWrite _).rb _ = _
    rw [others _ fun sl' hsl' same => ?_]
    · exact h.ahead o sl (by omega) hsl
    · have := EIns.slot_lt hsl
      have := EIns.slot_lt hsl'
      omega
  · rw [brick]
    change x ∈ ((t.brick n).mvWrite _).rbFull ↔ _
    rw [full]
    by_cases last : nbit i.word 19 = true
    · rw [if_pos last, mem_addNew, h.full, List.mem_singleton]
      simp only [last, true_and, or_assoc]
      refine or_congr_right ?_
      omega
    · rw [if_neg last, h.full]
      simp [last]

theorem mvmulAt_course {fp : Nat × Nat} (stop : r.stopAt = none) (trap : r.trap = false) (dst : b.mvDst = 0) (op : nbits i.word 63 58 = 5)
    (fmt : nbits i.word 57 55 < 6) (length : us.length = nbits i.word 29 20 * mvBlocks i.word)
    (ok : ∀ u ∈ us, s.anyBad (bedAddr n u) (packBytes (nbits i.word 57 55) 64) = false) :
    Course n (nbits i.word 29 20 * mvBlocks i.word) (nbits i.word 29 20)
      (fun p => c + 2 + p / mvBlocks i.word * i.mvCycles + p % mvBlocks i.word * packBytes (nbits i.word 57 55) 64 / 64)
      (fun q => c + 10 + (q + 1) * i.mvCycles) (fun q => (q + 1) * mvBlocks i.word)
      (mvmulJob i c b fp us (s.mvSums n i us)) (MvmulAt n c i r s b fp us) where
  facts _ _ := by simp [mvmulJob, Job.reads, Job.writes, Job.readAt, Job.writeAt, eOp, op, dst, EIns.mvCycles]
  order {p q} left early := by
    have le : (q + 1) * mvBlocks i.word ≤ nbits i.word 29 20 * mvBlocks i.word := Nat.mul_le_mul_right _ left
    exact ⟨by omega, mvmul_order fmt early⟩
  bound h := ⟨h.reads, Nat.le_of_mul_le_mul_right (h.writes.trans h.reads) (mvBlocks_pos _)⟩
  sorted h := h.going.sorted
  going h := h.going.unstopped stop
  jobs h := h.jobs
  read {p q t} h left more := by
    have jobs := h.jobs
    rw [if_pos left] at jobs
    obtain ⟨looked, eq⟩ := mvmul_jobRead (b := b) (fp := fp) h.going h.latch trap op h.writes (by omega) ok
    obtain ⟨going, bk, g, brick⟩ := h.going.read jobs looked (by rw [eq]; simpa [mvmulJob, Job.writes, eOp, op, dst] using left)
    rw [eq] at brick
    exact ⟨going, more, h.writes.trans (Nat.le_succ p), by rw [brick, if_pos left], by rw [brick]; exact h.latch, by rw [brick]; exact h.rbBad,
      by rw [brick]; exact h.sorted, bk.trans h.bk, by rw [brick]; exact h.written, by rw [brick]; exact h.ahead, by rw [brick]; exact h.full⟩
  write h left ready := h.next dst op left ready

/-! ## As a contribution -/

/-- What an `MVMUL` with `DST` 1 sends (R116). -/
def State.mvSent (s : State) (n : Nat) (i : EIns) (b : Brick) (us : List Nat) (own : Own) : Contrib :=
  { group := b.mvGroup / 4096 * 256 + b.mvGroup % 256, outBase := b.mvOut, lanes := nbits i.word 29 20, slots := nbits i.word 54 47
    bad := false, own := own
    sums := (List.range (nbits i.word 29 20)).flatMap fun o => i.slots.map fun sl => ((b.mvOut + o) * 8 + sl, s.mvTotal n i us o sl 0) }

theorem zipIdx_map_fst {α β : Type} (l : List α) (f : α × Nat → β) (g : α → β) (h : ∀ k x, l[k]? = some x → f (x, k) = g x) :
    l.zipIdx.map f = l.map g := by
  apply List.ext_getElem?
  intro k
  rw [List.getElem?_map, List.getElem?_map, List.getElem?_zipIdx]
  cases e : l[k]? with
  | none => rfl
  | some x => simpa using h k x e

/-- When all has been read the contribution is what the statement says. -/
theorem mvContrib_mvmulJob (s : State) (n : Nat) (i : EIns) (c : Nat) (b : Brick) (fp : Nat × Nat) (us : List Nat) (own : Own) :
    mvContrib (mvmulJob i c b fp us (s.mvSums n i us) (nbits i.word 29 20 * mvBlocks i.word) 0) own = s.mvSent n i b us own := by
  have sums : (mvContrib (mvmulJob i c b fp us (s.mvSums n i us) (nbits i.word 29 20 * mvBlocks i.word) 0) own).sums
      = (s.mvSent n i b us own).sums := by
    refine List.flatMap_congr fun o ho => zipIdx_map_fst _ _ _ fun k sl slot => ?_
    have room : 0 * mvBlocks i.word + o * mvBlocks i.word + mvBlocks i.word ≤ nbits i.word 29 20 * mvBlocks i.word := by
      rw [Nat.zero_mul, Nat.zero_add, ← Nat.succ_mul]
      exact Nat.mul_le_mul_right _ (List.mem_range.mp ho)
    have taken : (((mvmulJob i c b fp us (s.mvSums n i us) (nbits i.word 29 20 * mvBlocks i.word) 0).buf.drop (o * mvBlocks i.word)).take
        (mvBlocks i.word)).map (·.1) = (List.range (mvBlocks i.word)).map fun m => s.mvSums n i us (o * mvBlocks i.word + m) := by
      change (((between (fun k => (s.mvSums n i us k, false)) (0 * mvBlocks i.word) (nbits i.word 29 20 * mvBlocks i.word)).drop
        (o * mvBlocks i.word)).take (mvBlocks i.word)).map (·.1) = _
      rw [drop_between, take_between _ room, List.map_map]
      simp only [Nat.zero_mul, Nat.zero_add]
      rfl
    change ((b.mvOut + o) * 8 + sl, ((((mvmulJob i c b fp us (s.mvSums n i us) (nbits i.word 29 20 * mvBlocks i.word) 0).buf.drop
      (o * mvBlocks i.word)).take (mvBlocks i.word)).map (·.1)).foldl (fun a xs => mvAdd a (xs.getD k 0)) 0) = _
    rw [taken, s.foldl_mvSums n i us slot]
  change ({ s.mvSent n i b us own with sums := (mvContrib (mvmulJob i c b fp us (s.mvSums n i us) (nbits i.word 29 20 * mvBlocks i.word) 0) own).sums } : Contrib) = _
  rw [sums]

/-- An `MVMUL` with `DST` 1 that issued on brick `b` in state `s` has made `p` reads, and its write if `q` is 1. -/
structure MvsendAt (n c : Nat) (i : EIns) (r : BRun) (s : State) (b : Brick) (fp : Nat × Nat) (us : List Nat) (p q : Nat) (t : State) :
    Prop where
  going : Going n c r s t
  reads : p ≤ nbits i.word 29 20 * mvBlocks i.word
  writes : q ≤ 1
  jobs : (t.brick n).jobs = if q < 1 then [mvmulJob i c b fp us (s.mvSums n i us) p q] else []
  latch : (t.brick n).latch = (s.brick n).latch
  bk : t.bk = if q = 0 then s.bk else { s.bk with arriving := s.bk.arriving ++ [s.mvSent n i b us r.own] }

theorem MvsendAt.next {fp : Nat × Nat} {p : Nat} (h : MvsendAt n c i r s b fp us p 0 t) (dst : b.mvDst = 1) (op : nbits i.word 63 58 = 5)
    (all : p = nbits i.word 29 20 * mvBlocks i.word) : MvsendAt n c i r s b fp us p 1 (t.move n 0 true) := by
  have jobs := h.jobs
  rw [if_pos (by decide)] at jobs
  have bk := h.bk
  rw [if_pos rfl] at bk
  obtain ⟨g, run⟩ := h.going.run
  have eq : t.moved1 n (mvmulJob i c b fp us (s.mvSums n i us) p 0) true
      = ({ t with bk := { s.bk with arriving := s.bk.arriving ++ [s.mvSent n i b us r.own] } },
        { mvmulJob i c b fp us (s.mvSums n i us) p 0 with wr := 1 }) := by
    rw [all, ← mvContrib_mvmulJob s n i c b fp us r.own, ← bk]
    simp only [State.moved1, if_true, State.jobWrite]
    simp [mvmulJob, eOp, op, dst, run]
    rfl
  have gone : ¬ ({ mvmulJob i c b fp us (s.mvSums n i us) p 0 with wr := 1 } : Job).wr
      < ({ mvmulJob i c b fp us (s.mvSums n i us) p 0 with wr := 1 } : Job).writes := by
    simp [mvmulJob, Job.writes, eOp, op, dst]
  have moved := State.move_of_single (write := true) jobs (by rw [eq]; exact jobs) (by rw [eq]; change (t.brick n).run.isSome = true; rw [run]; rfl)
  rw [eq, if_neg gone] at moved
  have here : Going n c r s { t with bk := { s.bk with arriving := s.bk.arriving ++ [s.mvSent n i b us r.own] } } :=
    ⟨h.going.reads.keep h.going.reads.canonical rfl rfl, h.going.sorted, h.going.run, h.going.now⟩
  have brick : (t.move n 0 true).brick n = { t.brick n with jobs := [] } := by
    rw [moved]
    exact State.brick_setBrick_same h.going.sorted _ _
  refine ⟨?_, h.reads, Nat.le_refl 1, by rw [brick]; rfl, by rw [brick]; exact h.latch, by rw [moved]; rfl⟩
  rw [moved]
  exact here.setBrick rfl rfl

theorem mvsendAt_course {fp : Nat × Nat} (stop : r.stopAt = none) (trap : r.trap = false) (dst : b.mvDst = 1) (op : nbits i.word 63 58 = 5)
    (fmt : nbits i.word 57 55 < 6) (outs : 1 ≤ nbits i.word 29 20) (length : us.length = nbits i.word 29 20 * mvBlocks i.word)
    (ok : ∀ u ∈ us, s.anyBad (bedAddr n u) (packBytes (nbits i.word 57 55) 64) = false) :
    Course n (nbits i.word 29 20 * mvBlocks i.word) 1
      (fun p => c + 2 + p / mvBlocks i.word * i.mvCycles + p % mvBlocks i.word * packBytes (nbits i.word 57 55) 64 / 64)
      (fun _ => c + 10 + nbits i.word 29 20 * i.mvCycles) (fun _ => nbits i.word 29 20 * mvBlocks i.word)
      (mvmulJob i c b fp us (s.mvSums n i us)) (MvsendAt n c i r s b fp us) where
  facts _ _ := by simp [mvmulJob, Job.reads, Job.writes, Job.readAt, Job.writeAt, eOp, op, dst, EIns.mvCycles]
  order {p q} _ early := by
    obtain ⟨k, hk⟩ := Nat.exists_eq_add_of_le' outs
    rw [hk] at early ⊢
    exact ⟨early, mvmul_order fmt early⟩
  bound h := ⟨h.reads, h.writes⟩
  sorted h := h.going.sorted
  going h := h.going.unstopped stop
  jobs h := h.jobs
  read {p q t} h left more := by
    obtain rfl : q = 0 := by omega
    have jobs := h.jobs
    rw [if_pos left] at jobs
    obtain ⟨looked, eq⟩ := mvmul_jobRead (b := b) (fp := fp) (p := p) (q := 0) h.going h.latch trap op (by simp) (by omega) ok
    obtain ⟨going, bk, g, brick⟩ := h.going.read jobs looked (by rw [eq]; simp [mvmulJob, Job.writes, eOp, op, dst])
    rw [eq] at brick
    exact ⟨going, more, Nat.zero_le 1, by rw [brick, if_pos left], by rw [brick]; exact h.latch, bk.trans h.bk⟩
  write {p q t} h left ready := by
    obtain rfl : q = 0 := by omega
    exact h.next dst op (Nat.le_antisymm h.reads ready)

end

end Sys2Proof.Machine

/-! SUPPORT. When an `MVMUL` issues and what it leaves when it is over (R114 to R116); parity errors of the accumulators (R127). -/

namespace Sys2Proof.Machine

section
variable {s t u : State} {n e c : Nat} {i : EIns} {r : BRun} {b : Brick} {j : Job}

/-- What an `MVMUL` at the head finds where it may issue (R114 to R116). -/
structure MvmulMay (n c : Nat) (i : EIns) (s : State) (ds rest : List SDesc) : Prop where
  op : nbits i.word 63 58 = 5
  fmt : nbits i.word 57 55 < 6
  slots : nbits i.word 54 47 ≠ 0
  latch : nbits i.word 45 35 + 64 * mvBlocks i.word ≤ 2048
  outs : 1 ≤ nbits i.word 29 20
  outsLe : nbits i.word 29 20 ≤ 512
  zero : nbits i.word 9 0 = 0
  stream : takeStream ((s.brick n).fifos.getD 1 []) = some (ds, rest)
  streamOk : streamOk ds [0] (nbits i.word 29 20 * mvBlocks i.word) (packBytes (nbits i.word 57 55) 64) (packBytes (nbits i.word 57 55) 64) = true
  latchReady : (s.brick n).latchReady ≤ c
  ready : ds.all (fun d => d.ready ≤ c) = true
  present : (s.brick n).presentIn (footprint ds (packBytes (nbits i.word 57 55) 64)) = true
  idle : (s.brick n).free.getD 1 0 ≤ c
  latchBad : (s.brick n).latchBad = []
  units : ∀ u ∈ unitsOf ds, s.anyBad (bedAddr n u) (packBytes (nbits i.word 57 55) 64) = false
  dst : (s.brick n).mvDst = 0 → nbits i.word 18 10 + nbits i.word 29 20 ≤ 512
    ∧ ∀ o, o < nbits i.word 29 20 → nbits i.word 18 10 + o ∉ (s.brick n).rbFull

/-- The brick at the issue of an `MVMUL`. -/
def Brick.mvmulTaken (b : Brick) (i : EIns) (rest : List SDesc) : Brick :=
  { b with fifos := b.fifos.set 1 rest, mvOut := if b.mvDst = 0 then b.mvOut else b.mvOut + nbits i.word 29 20 }

/-- The latch elements an `MVMUL` uses. -/
def EIns.mvUses (i : EIns) (l : Nat) : Bool :=
  nbit (nbits i.word 54 47) (l / 2048) && nbits i.word 45 35 ≤ l % 2048 && l % 2048 < nbits i.word 45 35 + 64 * mvBlocks i.word

/-- The footprint of an `MVMUL`'s stream. -/
def mvmulPrint (i : EIns) (ds : List SDesc) : Nat × Nat := footprint ds (packBytes (nbits i.word 57 55) 64)

theorem mvmulJob_zero (i : EIns) (c : Nat) (b : Brick) (fp : Nat × Nat) (us : List Nat) (sums : Nat → List Nat) :
    mvmulJob i c b fp us sums 0 0 = { ins := i, eng := 1, t0 := c, units := us, n := nbits i.word 29 20 * mvBlocks i.word
                                      lo := fp.1, hi := fp.2, dst := b.mvDst, group := b.mvGroup, out := b.mvOut } := by
  simp [mvmulJob, between]

theorem exec_mvmul {ds rest : List SDesc} (at_ : s.engineAt n 1 c i r) (may : MvmulMay n c i s ds rest) :
    exec (.mvmul n c []) s = .next ((((s.atCycle n c).setBrick n (((s.brick n).atCycle c).mvmulTaken i rest)).issue n 1 c
      (c + nbits i.word 29 20 * i.mvCycles) [] (fun x => x.latchBad.any i.mvUses)
      (mvmulJob i c (s.brick n) (mvmulPrint i ds) (unitsOf ds) (s.mvSums n i (unitsOf ds)) 0 0)).trap n) := by
  have legal : engineWord 1 i.word = true := by
    have outs := may.outs
    simp [engineWord, eOp, may.op, may.fmt, may.slots, may.latch, may.outsLe, may.zero, Nat.ne_of_gt outs]
  obtain ⟨sorted, -⟩ := id at_
  have stream : takeStream (((s.brick n).atCycle c).fifos.getD 1 []) = some (ds, rest) := may.stream
  have present : ((s.brick n).atCycle c).presentIn (footprint ds (packBytes (nbits i.word 57 55) 64)) = true := may.present
  have inside : (decide (((s.brick n).atCycle c).mvDst = 0) && decide (512 < nbits i.word 18 10 + nbits i.word 29 20)) = false := by
    by_cases into : (s.brick n).mvDst = 0
    · simpa [Brick.atCycle, into] using (may.dst into).1
    · simp [Brick.atCycle, into]
  have free : (decide (((s.brick n).atCycle c).mvDst = 0) && ((s.brick n).atCycle c).rbFull.any fun o =>
      decide (nbits i.word 18 10 ≤ o) && decide (o < nbits i.word 18 10 + nbits i.word 29 20)) = false := by
    by_cases into : (s.brick n).mvDst = 0
    · rw [Bool.and_eq_false_iff]
      refine .inr (List.any_eq_false.mpr fun o ho => ?_)
      intro inRange
      rw [Bool.and_eq_true, decide_eq_true_eq, decide_eq_true_eq] at inRange
      refine (may.dst into).2 (o - nbits i.word 18 10) (by omega) ?_
      rw [Nat.add_sub_cancel' inRange.1]
      exact ho
    · simp [Brick.atCycle, into]
  have latched : ¬ c < ((s.brick n).atCycle c).latchReady := Nat.not_lt.mpr may.latchReady
  have idle : ¬ c < ((s.brick n).atCycle c).free.getD 1 0 := Nat.not_lt.mpr may.idle
  change Host.Outcome.next (s.engineRow n 1 c _ _) = _
  rw [at_.engineRow, legal]
  dsimp only
  rw [if_neg (by simp), if_pos (decide_eq_true (p := eOp i.word = 5) may.op), State.brick_atCycle sorted, stream]
  simp only [Bool.not_true, Bool.false_eq_true, if_false, may.streamOk, any_late_eq_false may.ready, present, inside, free,
    Bool.or_self, latched, idle, decide_false, mvmulJob_zero]
  rfl

/-- An `MVMUL` issues. -/
theorem mvmul_issues {ds rest : List SDesc} (at_ : s.engineAt n 1 c i r) (hs : s.Canonical) (may : MvmulMay n c i s ds rest) :
    ∃ t, exec (.mvmul n c []) s = .next t ∧ IssuedAs n 1 c i ((s.brick n).fifos.set 1 rest) s t
      ∧ IssuedWith n ((((s.brick n).atCycle c).mvmulTaken i rest).issue 1 c (c + nbits i.word 29 20 * i.mvCycles)
        (some (mvmulJob i c (s.brick n) (mvmulPrint i ds) (unitsOf ds) (s.mvSums n i (unitsOf ds)) 0 0))) s t := by
  have run := exec_mvmul at_ may
  obtain ⟨sorted, -, item, trap, stop, jobs, -⟩ := id at_
  have issued := State.issue_facts (n := n) (e := 1) (c := c) hs sorted (((s.brick n).atCycle c).mvmulTaken i rest)
    (bad := fun x => x.latchBad.any i.mvUses) (by change (s.brick n).latchBad.any _ = false; rw [may.latchBad]; rfl)
    (c + nbits i.word 29 20 * i.mvCycles)
    (mvmulJob i c (s.brick n) (mvmulPrint i ds) (unitsOf ds) (s.mvSums n i (unitsOf ds)) 0 0)
  generalize State.issue _ n 1 c _ [] _ _ = t at run issued
  have going : Going n c r s t := issued.going hs item rfl
  rw [State.trap_of_unstopped (going.unstopped stop)] at run
  exact ⟨t, run, issued.issuedAs jobs rfl rfl rfl rfl rfl, issued⟩

/-- The clause of O33 on `MVMUL` into the result buffer. -/
theorem mvmul_adds {ds rest : List SDesc} (at_ : s.engineAt n 1 c i r) (hs : s.Canonical) (may : MvmulMay n c i s ds rest)
    (rbSorted : smSorted (s.brick n).rb = true) (rbBad : (s.brick n).rbBad = []) (dst : (s.brick n).mvDst = 0) {T : Nat}
    (late : T = c + 11 + nbits i.word 29 20 * i.mvCycles) :
    ∃ t, exec (.mvmul n c []) s = .next t ∧ IssuedAs n 1 c i ((s.brick n).fifos.set 1 rest) s t ∧ OverAt n T s (t.runTo n T)
      ∧ (∀ o sl, o < nbits i.word 29 20 → sl ∈ i.slots →
          smGet (fun _ => 0) ((t.runTo n T).brick n).rb ((nbits i.word 18 10 + o) * 8 + sl)
            = s.mvTotal n i (unitsOf ds) o sl (i.mvOld (s.brick n) o sl))
      ∧ (∀ x, x ∈ ((t.runTo n T).brick n).rbFull ↔ x ∈ (s.brick n).rbFull
          ∨ (nbit i.word 19 = true ∧ nbits i.word 18 10 ≤ x ∧ x < nbits i.word 18 10 + nbits i.word 29 20))
      ∧ (t.runTo n T).bk = s.bk := by
  obtain ⟨t, run, issuedAs, issued⟩ := mvmul_issues at_ hs may
  obtain ⟨sorted, -, item, trap, stop, jobs, -⟩ := id at_
  have going : Going n c r s t := issued.going hs item rfl
  obtain ⟨brick, -, -, -, frame⟩ := issued
  refine ⟨t, run, issuedAs, ?_⟩
  have start : MvmulAt n c i r s (s.brick n) (mvmulPrint i ds) (unitsOf ds) 0 0 t :=
    ⟨going, Nat.zero_le _, by simp, by
      rw [brick, if_pos (show 0 < nbits i.word 29 20 from may.outs), Brick.issue]
      simp only [Brick.mvmulTaken, Brick.atCycle, jobs]
      rfl, by rw [brick]; rfl, by rw [brick]; exact rbBad, by rw [brick]; exact rbSorted, by rw [frame],
      fun o _ lt => absurd lt (Nat.not_lt_zero o), fun o sl _ _ => by rw [brick]; rfl, fun x => by
        rw [brick]
        exact ⟨.inl, fun h => h.elim id fun ⟨_, low, high⟩ => absurd high (Nat.not_lt.mpr low)⟩⟩
  obtain ⟨p, q, v, h, last, -, eq⟩ := (mvmulAt_course stop trap dst may.op may.fmt (length_unitsOf_of_streamOk may.streamOk) may.units).runTo T start
  have all : q = nbits i.word 29 20 := by
    have le := Nat.le_of_mul_le_mul_right (h.writes.trans h.reads) (mvBlocks_pos i.word)
    by_contra left
    have short : (q + 1) * i.mvCycles ≤ nbits i.word 29 20 * i.mvCycles := Nat.mul_le_mul_right _ (by omega)
    have := last (by omega)
    omega
  have ended := h.jobs
  rw [if_neg (by omega)] at ended
  have complete := h.going.overAt (T := T) ended (by omega)
  rw [eq, State.brick_setBrick_same h.going.sorted]
  refine ⟨complete, fun o sl lt => h.written o sl (by omega), fun x => ?_, h.bk⟩
  change x ∈ (v.brick n).rbFull ↔ _
  rw [h.full, all]

/-- The clause of O33 on `MVMUL` as a contribution. -/
theorem mvmul_sends {ds rest : List SDesc} (at_ : s.engineAt n 1 c i r) (hs : s.Canonical) (may : MvmulMay n c i s ds rest)
    (dst : (s.brick n).mvDst = 1) {T : Nat} (late : T = c + 11 + nbits i.word 29 20 * i.mvCycles) :
    ∃ t, exec (.mvmul n c []) s = .next t ∧ IssuedAs n 1 c i ((s.brick n).fifos.set 1 rest) s t
      ∧ (t.brick n).mvOut = (s.brick n).mvOut + nbits i.word 29 20 ∧ OverAt n T s (t.runTo n T)
      ∧ (t.runTo n T).bk = { s.bk with arriving := s.bk.arriving ++ [s.mvSent n i (s.brick n) (unitsOf ds) r.own] } := by
  obtain ⟨t, run, issuedAs, issued⟩ := mvmul_issues at_ hs may
  obtain ⟨sorted, -, item, trap, stop, jobs, -⟩ := id at_
  have going : Going n c r s t := issued.going hs item rfl
  obtain ⟨brick, -, -, -, frame⟩ := issued
  have out : (t.brick n).mvOut = (s.brick n).mvOut + nbits i.word 29 20 := by
    rw [brick]
    change (if (s.brick n).mvDst = 0 then _ else _) = _
    rw [if_neg (by omega)]
    rfl
  refine ⟨t, run, issuedAs, out, ?_⟩
  have start : MvsendAt n c i r s (s.brick n) (mvmulPrint i ds) (unitsOf ds) 0 0 t :=
    ⟨going, Nat.zero_le _, Nat.zero_le _, by
      rw [brick, if_pos (by decide), Brick.issue]
      simp only [Brick.mvmulTaken, Brick.atCycle, jobs]
      rfl, by rw [brick]; rfl, by rw [if_pos rfl, frame]⟩
  obtain ⟨p, q, v, h, last, -, eq⟩ := (mvsendAt_course stop trap dst may.op may.fmt may.outs (length_unitsOf_of_streamOk may.streamOk) may.units).runTo T start
  have all : ¬ q < 1 := fun left => by have := last left; omega
  have ended := h.jobs
  rw [if_neg all] at ended
  have complete := h.going.overAt (T := T) ended (by omega)
  have sent := h.bk
  rw [if_neg (by omega)] at sent
  rw [eq]
  exact ⟨complete, sent⟩

/-! ## Malformed words and parity (R102, R127) -/

/-- A parity error of an accumulator word marks it, is recorded and counted. -/
theorem parity_accumulator (k : Nat) (hn : n < 0x4000) (hs : s.Canonical) (sorted : smSorted s.br = true) :
    k ∈ ((s.parity n [(2, k)]).brick n).accBad ∧ (s.parity n [(2, k)]).bit (hdrF .brk 0x10 30 0) 4 n = true
      ∧ (s.getF F.BRK_PARITY_CNT_COUNT n < 2 ^ 32 - 1 →
          (s.parity n [(2, k)]).getF F.BRK_PARITY_CNT_COUNT n = s.getF F.BRK_PARITY_CNT_COUNT n + 1) := by
  let t : State := (s.setBrick n ((s.brick n).poisonWord 2 k)).bump F.BRK_PARITY_CNT_COUNT 1 n
  have eq : s.parity n [(2, k)] = t.err .brk n 4 := rfl
  obtain ⟨only, same⟩ := t.err_only (b := .brk) (i := n) 4 rfl
  have brick : t.brick n = (s.brick n).poisonWord 2 k := State.brick_setBrick_same sorted _ _
  have wf : t.RegsWf := State.regsWf_setF (s := s.setBrick n ((s.brick n).poisonWord 2 k)) hs.1 _ _ _ _
  rw [eq]
  refine ⟨?_, ?_, fun room => ?_⟩
  · rw [State.brick_of_br only.br, brick]
    exact mem_addNew.mpr (.inr (List.mem_singleton.mpr rfl))
  · exact State.bit_err wf rfl (by decide)
  · rw [RegsSame.getF (same (fun x => x = regKey F.BRK_PARITY_CNT_COUNT.addr n 0) (regKey_ne_addr (by decide) (by omega) (by omega) (by decide) (by decide))) rfl]
    have counted : t.getF F.BRK_PARITY_CNT_COUNT n = min (s.getF F.BRK_PARITY_CNT_COUNT n + 1) (2 ^ 32 - 1) % 2 ^ F.BRK_PARITY_CNT_COUNT.width :=
      State.getF_setF_same (s := s.setBrick n ((s.brick n).poisonWord 2 k)) hs.1 ⟨by decide, by decide⟩ _ _ _
    rw [counted, show F.BRK_PARITY_CNT_COUNT.width = 32 from rfl]
    omega

end

end Sys2Proof.Machine

/-! SUPPORT. The obligation about the tile and the matrix-vector path. -/

namespace Sys2Proof.Machine

section
variable {s : State} {n e c : Nat} {i : EIns} {r : BRun}

/-- A malformed word halts the work item, whatever the row does with others. -/
theorem State.engineAt.engineRow_illegal (at_ : s.engineAt n e c i r) (illegal : engineWord e i.word = false) (is : Nat → Bool)
    (body : EIns → State → State) : done (s.engineRow n e c is body) = .next ((s.atCycle n c).engineIllegal n) := by
  rw [done, at_.engineRow, if_pos illegal]

end

/-- Settles O33, by the course of the one instruction under way: what holds at issue is kept by each of its reads and writes, in the
order of their cycles, and gives the state at the cycle after the last. -/
theorem tileAndMatrixVector : Obligations.TileAndMatrixVector := by
  unfold Obligations.TileAndMatrixVector
  refine ⟨?tload, ?tmul, ?mvld, ?mvcfg, ?mvmul, ?malformed, ?parity⟩
  case tload =>
    intro s n c i r at_ hs op off fmt wb fmtOk zero aligned fits idle ok
    exact tload_loads at_ hs op fmtOk zero aligned fits idle ok
  case tmul =>
    intro s n c i r ds rest at_ hs op b af bank rows base span size cyc row fmtOk zero low rowsPos spanPos spanLe pair stream streamed
      bankReady bankGood accBad units idle ready present notFull
    have may : TmulMay n c i s ds rest := ⟨op, fmtOk, zero, low, rowsPos, spanPos, spanLe, pair, stream, streamed, bankReady, bankGood, accBad,
      units, idle, ready, present, notFull⟩
    obtain ⟨t, run, issued, free, start⟩ := tmul_issues at_ hs may
    refine ⟨t, run, issued, free, tmul_over at_ may start rfl, fun on k row final => tmul_full_at at_ may start on row final⟩
  case mvld =>
    intro s n c i r at_ hs sorted op slots count off len T some counted inside zero aligned fits idle ok
    have end_ : T = c + mvldCycles i + 1 := by
      simp only [T, slots, count, mvldCycles]
      omega
    obtain ⟨t, run, issued, ready, u, rfl, over_, latch, good⟩ := mvld_loads at_ hs op some counted inside zero aligned fits idle ok
    rw [← end_] at over_ latch good
    refine ⟨t, run, issued, by rw [ready, end_]; rfl, over_, fun p sl e slot small => ?_, fun sl e _ low away => ?_⟩
    · rw [latch]
      exact ⟨smGet_latchLoaded sorted inside _ slot small,
        fun bad => good _ bad _ (mem_latchPlaces.mpr ⟨p, sl, e, slot, small, rfl⟩) rfl⟩
    · rw [latch]
      exact smGet_latchLoaded_ne inside _ low away
  case mvcfg =>
    intro s n c i r at_ hs op zero low aligned group idle
    obtain ⟨t, run, brick, -, -, kept, frame⟩ := exec_mvcfg at_ hs op zero low aligned group idle
    exact ⟨t, run, by rw [brick]; rfl, by rw [brick]; rfl, by rw [brick]; rfl, by rw [brick]; rfl, kept, frame⟩
  case mvmul =>
    intro s n c i r ds rest at_ hs op rbSorted b fmt kblk outs base size T blocks latch fmtOk slots latchFits outsPos outsLe zero stream streamed
      latchReady ready present idle latchBad rbBad units
    have may (dst : (s.brick n).mvDst = 0 → nbits i.word 18 10 + nbits i.word 29 20 ≤ 512
        ∧ ∀ o, o < nbits i.word 29 20 → nbits i.word 18 10 + o ∉ (s.brick n).rbFull) : MvmulMay n c i s ds rest :=
      ⟨op, fmtOk, slots, latchFits, outsPos, outsLe, zero, stream, streamed, latchReady, ready, present, idle, latchBad, units, dst⟩
    refine ⟨fun dst inside free => ?_, fun dst => ?_⟩
    · exact mvmul_adds at_ hs (may fun _ => ⟨inside, free⟩) rbSorted rbBad dst rfl
    · have other : (s.brick n).mvDst ≠ 0 := by rw [dst]; decide
      exact mvmul_sends at_ hs (may fun dst0 => absurd dst0 other) dst rfl
  case malformed =>
    intro s n e c i r at_ illegal t
    refine ⟨?_, ?_, ?_, ?_⟩
    · rintro rfl
      exact ⟨at_.engineRow_illegal illegal _ _, at_.engineRow_illegal illegal _ _⟩
    · rintro rfl
      exact ⟨at_.engineRow_illegal illegal _ _, at_.engineRow_illegal illegal _ _, at_.engineRow_illegal illegal _ _⟩
    · rintro rfl
      exact ⟨at_.engineRow_illegal illegal _ _, at_.engineRow_illegal illegal _ _, at_.engineRow_illegal illegal _ _,
        at_.engineRow_illegal illegal _ _⟩
    · rintro rfl
      exact at_.engineRow_illegal illegal _ _
  case parity =>
    intro s n k hn hs sorted
    exact parity_accumulator k hn hs sorted

end Sys2Proof.Machine

/-! SUPPORT. The bytes that placed elements make (Table 8-6, R233): what stands at an address, which addresses they touch, and the runs
they are written in. -/

namespace Sys2Proof.Machine

section
variable {α : Type} {d : Nat → α} {m : List (Nat × α)} {a k : Nat} {v : α}

/-- The keys of a list with an entry put. -/
theorem exists_key_smPut : (∃ e ∈ smPut m k v, e.1 = a) ↔ a = k ∨ ∃ e ∈ m, e.1 = a := by
  induction m with
  | nil => simp [smPut, eq_comm]
  | cons e m ih =>
    obtain ⟨j, w⟩ := e
    unfold smPut
    by_cases here : k = j
    · subst here
      simp [eq_comm]
    · by_cases below : k < j
      · simp [here, below, eq_comm]
      · simp only [here, below, if_false, List.exists_mem_cons_iff, ih]
        tauto

theorem smGet_of_mem (hm : smSorted m = true) {e : Nat × α} (h : e ∈ m) : smGet d m e.1 = e.2 := by
  induction m with
  | nil => cases h
  | cons x m ih =>
    obtain ⟨j, w⟩ := x
    obtain ⟨above, rest⟩ := smSorted_cons.mp hm
    rcases List.mem_cons.mp h with rfl | h
    · simp [smGet]
    · have ne : e.1 ≠ j := (above e h).ne'
      rw [smGet, if_neg ne]
      exact ih rest h

theorem smGet_of_not_mem (h : ∀ e ∈ m, e.1 ≠ a) : smGet d m a = d a := by
  induction m with
  | nil => rfl
  | cons x m ih =>
    obtain ⟨j, w⟩ := x
    rw [smGet, if_neg fun same => h (j, w) (by simp) same.symm]
    exact ih fun e he => h e (by simp [he])

/-- The keys of a sorted list are different. -/
theorem nodup_keys (hm : smSorted m = true) : (m.map (·.1)).Nodup := by
  induction m with
  | nil => exact List.nodup_nil
  | cons x m ih =>
    obtain ⟨j, w⟩ := x
    obtain ⟨above, rest⟩ := smSorted_cons.mp hm
    rw [List.map_cons, List.nodup_cons]
    refine ⟨fun there => ?_, ih rest⟩
    obtain ⟨e, he, same⟩ := List.mem_map.mp there
    exact absurd (above e he) (by rw [same]; exact Nat.lt_irrefl j)

end

/-! ## Placed elements, one after the other -/

/-- One element joins the bytes made so far. -/
def placeStep (old : Nat → Byte) (m : List (Nat × Byte)) (p : Placed) : List (Nat × Byte) :=
  match p.nib with
  | none => smPut m p.addr (BitVec.ofNat 8 p.bits)
  | some k => smPut m p.addr (BitVec.ofNat 8 (if k = 0 then (smGet old m p.addr).toNat / 16 * 16 + p.bits % 16
      else (smGet old m p.addr).toNat % 16 + p.bits % 16 * 16))

theorem placedBytes_eq (old : Nat → Byte) (ps : List Placed) : placedBytes old ps = ps.foldl (placeStep old) [] := rfl

/-- A step puts one entry. -/
theorem placeStep_eq (old : Nat → Byte) (m : List (Nat × Byte)) (p : Placed) : ∃ v, placeStep old m p = smPut m p.addr v := by
  unfold placeStep
  split
  · exact ⟨_, rfl⟩
  · exact ⟨_, rfl⟩

section
variable {old old' : Nat → Byte} {m m' : List (Nat × Byte)} {ps : List Placed} {a : Nat}

theorem smSorted_placed (hm : smSorted m = true) (ps : List Placed) : smSorted (ps.foldl (placeStep old) m) = true := by
  induction ps generalizing m with
  | nil => exact hm
  | cons p ps ih =>
    obtain ⟨v, e⟩ := placeStep_eq old m p
    exact ih (by rw [e]; exact smSorted_smPut _ _ hm)

/-- The addresses of the bytes made are those of the elements. -/
theorem exists_key_placed : (∃ e ∈ ps.foldl (placeStep old) m, e.1 = a) ↔ (∃ e ∈ m, e.1 = a) ∨ ∃ p ∈ ps, p.addr = a := by
  induction ps generalizing m with
  | nil => simp
  | cons p ps ih =>
    obtain ⟨v, e⟩ := placeStep_eq old m p
    rw [List.foldl_cons, ih, e, exists_key_smPut, List.exists_mem_cons_iff, eq_comm, or_comm (a := p.addr = a), or_assoc]

/-- What stands at an address depends on what stood there before. -/
theorem smGet_placed_congr (h : smGet old m a = smGet old' m' a) (ps : List Placed) :
    smGet old (ps.foldl (placeStep old) m) a = smGet old' (ps.foldl (placeStep old') m') a := by
  induction ps generalizing m m' with
  | nil => exact h
  | cons p ps ih =>
    refine ih ?_
    unfold placeStep
    by_cases here : a = p.addr
    · subst here
      rw [h]
      split
      · rw [smGet_smPut_same, smGet_smPut_same]
      · rw [smGet_smPut_same, smGet_smPut_same]
    · split
      · rw [smGet_smPut_ne _ _ _ here, smGet_smPut_ne _ _ _ here, h]
      · rw [smGet_smPut_ne _ _ _ here, smGet_smPut_ne _ _ _ here, h]

/-- The same of elements placed on two grounds. -/
theorem smGet_placedBytes_congr (h : old a = old' a) (ps : List Placed) :
    smGet old (placedBytes old ps) a = smGet old' (placedBytes old' ps) a :=
  smGet_placed_congr (m := []) (m' := []) h ps

/-- Elements placed after others, on the bytes that those left. -/
theorem smGet_placed_append (old : Nat → Byte) (ps qs : List Placed) (a : Nat) :
    smGet old (placedBytes old (ps ++ qs)) a
      = smGet (smGet old (placedBytes old ps)) (placedBytes (smGet old (placedBytes old ps)) qs) a := by
  rw [placedBytes_eq old (ps ++ qs), List.foldl_append]
  exact smGet_placed_congr (old := old) (m := ps.foldl (placeStep old) []) (old' := smGet old (placedBytes old ps)) (m' := []) rfl qs

/-- The addresses of the bytes made are those of the elements. -/
theorem exists_mem_placedBytes : (∃ e ∈ placedBytes old ps, e.1 = a) ↔ ∃ p ∈ ps, p.addr = a := by
  rw [placedBytes_eq, exists_key_placed]
  simp

theorem smGet_placedBytes {e : Nat × Byte} (h : e ∈ placedBytes old ps) : smGet old (placedBytes old ps) e.1 = e.2 :=
  smGet_of_mem (smSorted_placed rfl ps) h

/-! ## Bytes whose halves are both given -/

/-- The element gives the lower half of the byte at its address. -/
def Placed.low (p : Placed) : Prop := p.nib = none ∨ p.nib = some 0

/-- The element gives the upper half. -/
def Placed.high (p : Placed) : Prop := p.nib = none ∨ ∃ k, p.nib = some k ∧ k ≠ 0

/-! A byte's halves after one of them is given. -/

theorem low_of_low (o b : Nat) : (BitVec.ofNat 8 (o / 16 * 16 + b % 16)).toNat % 16 = b % 16 := by
  rw [BitVec.toNat_ofNat, Nat.mod_mod_of_dvd _ (by norm_num), Nat.mul_add_mod_self_right, Nat.mod_mod]

theorem low_of_high (o b : Nat) : (BitVec.ofNat 8 (o % 16 + b % 16 * 16)).toNat % 16 = o % 16 := by
  rw [BitVec.toNat_ofNat, Nat.mod_mod_of_dvd _ (by norm_num), Nat.add_mul_mod_self_right, Nat.mod_mod]

theorem high_of_low (o : Byte) (b : Nat) : (BitVec.ofNat 8 (o.toNat / 16 * 16 + b % 16)).toNat / 16 = o.toNat / 16 := by
  have small := o.isLt
  rw [BitVec.toNat_ofNat, Nat.mod_eq_of_lt (by omega), Nat.add_comm, Nat.add_mul_div_right _ _ (by norm_num),
    Nat.div_eq_of_lt (Nat.mod_lt b (by norm_num)), Nat.zero_add]

theorem high_of_high (o b : Nat) : (BitVec.ofNat 8 (o % 16 + b % 16 * 16)).toNat / 16 = b % 16 := by
  rw [BitVec.toNat_ofNat, Nat.mod_eq_of_lt (by omega), Nat.add_mul_div_right _ _ (by norm_num), Nat.div_eq_of_lt (Nat.mod_lt o (by norm_num)),
    Nat.zero_add]

theorem placeStep_low {p : Placed} (h : (smGet old m a).toNat % 16 = (smGet old' m' a).toNat % 16 ∨ (p.addr = a ∧ p.low)) :
    (smGet old (placeStep old m p) a).toNat % 16 = (smGet old' (placeStep old' m' p) a).toNat % 16 := by
  unfold placeStep
  by_cases here : a = p.addr
  · subst here
    cases e : p.nib with
    | none => simp only [smGet_smPut_same]
    | some k =>
      simp only [smGet_smPut_same]
      by_cases first : k = 0
      · simp only [first, if_true, low_of_low]
      · have same : (smGet old m p.addr).toNat % 16 = (smGet old' m' p.addr).toNat % 16 := by
          rcases h with h | ⟨-, none_ | zero⟩
          · exact h
          · rw [e] at none_; cases none_
          · rw [e] at zero; cases zero; exact absurd rfl first
        simp only [first, if_false, low_of_high, same]
  · have same : (smGet old m a).toNat % 16 = (smGet old' m' a).toNat % 16 := by
      rcases h with h | ⟨at_, -⟩
      · exact h
      · exact absurd at_.symm here
    cases p.nib with
    | none => simp only [smGet_smPut_ne _ _ _ here, same]
    | some k => simp only [smGet_smPut_ne _ _ _ here, same]

theorem placeStep_high {p : Placed} (h : (smGet old m a).toNat / 16 = (smGet old' m' a).toNat / 16 ∨ (p.addr = a ∧ p.high)) :
    (smGet old (placeStep old m p) a).toNat / 16 = (smGet old' (placeStep old' m' p) a).toNat / 16 := by
  unfold placeStep
  by_cases here : a = p.addr
  · subst here
    cases e : p.nib with
    | none => simp only [smGet_smPut_same]
    | some k =>
      simp only [smGet_smPut_same]
      by_cases first : k = 0
      · have same : (smGet old m p.addr).toNat / 16 = (smGet old' m' p.addr).toNat / 16 := by
          rcases h with h | ⟨-, none_ | ⟨j, at_, ne⟩⟩
          · exact h
          · rw [e] at none_; cases none_
          · rw [e] at at_; cases at_; exact absurd first ne
        simp only [first, if_true, high_of_low, same]
      · simp only [first, if_false, high_of_high]
  · have same : (smGet old m a).toNat / 16 = (smGet old' m' a).toNat / 16 := by
      rcases h with h | ⟨at_, -⟩
      · exact h
      · exact absurd at_.symm here
    cases p.nib with
    | none => simp only [smGet_smPut_ne _ _ _ here, same]
    | some k => simp only [smGet_smPut_ne _ _ _ here, same]

theorem placed_low (h : (smGet old m a).toNat % 16 = (smGet old' m' a).toNat % 16 ∨ ∃ p ∈ ps, p.addr = a ∧ p.low) :
    (smGet old (ps.foldl (placeStep old) m) a).toNat % 16 = (smGet old' (ps.foldl (placeStep old') m') a).toNat % 16 := by
  induction ps generalizing m m' with
  | nil => simpa using h
  | cons p ps ih =>
    refine ih ?_
    rcases h with h | ⟨q, hq, given⟩
    · exact .inl (placeStep_low (.inl h))
    · rcases List.mem_cons.mp hq with rfl | hq
      · exact .inl (placeStep_low (.inr given))
      · exact .inr ⟨q, hq, given⟩

theorem placed_high (h : (smGet old m a).toNat / 16 = (smGet old' m' a).toNat / 16 ∨ ∃ p ∈ ps, p.addr = a ∧ p.high) :
    (smGet old (ps.foldl (placeStep old) m) a).toNat / 16 = (smGet old' (ps.foldl (placeStep old') m') a).toNat / 16 := by
  induction ps generalizing m m' with
  | nil => simpa using h
  | cons p ps ih =>
    refine ih ?_
    rcases h with h | ⟨q, hq, given⟩
    · exact .inl (placeStep_high (.inl h))
    · rcases List.mem_cons.mp hq with rfl | hq
      · exact .inl (placeStep_high (.inr given))
      · exact .inr ⟨q, hq, given⟩

/-- The elements give both halves of every byte they touch. -/
def Whole (ps : List Placed) : Prop :=
  ∀ p ∈ ps, (∃ q ∈ ps, q.addr = p.addr ∧ q.low) ∧ ∃ q ∈ ps, q.addr = p.addr ∧ q.high

/-- Whole bytes do not depend on what stood there. -/
theorem Whole.smGet (h : Whole ps) {p : Placed} (hp : p ∈ ps) (old old' : Nat → Byte) :
    Machine.smGet old (placedBytes old ps) p.addr = Machine.smGet old' (placedBytes old' ps) p.addr := by
  obtain ⟨low, high⟩ := h p hp
  have l := placed_low (old := old) (old' := old') (m := []) (m' := []) (.inr low)
  have u := placed_high (old := old) (old' := old') (m := []) (m' := []) (.inr high)
  rw [placedBytes_eq, placedBytes_eq]
  apply BitVec.eq_of_toNat_eq
  omega

end

/-! ## Runs of bytes -/

/-- The bytes `bs` from address `a` on, each with its address. -/
def bytesAt (a : Nat) (bs : List Byte) : List (Nat × Byte) := bs.zipIdx.map fun e => (a + e.2, e.1)

theorem bytesAt_cons (a : Nat) (b : Byte) (bs : List Byte) : bytesAt a (b :: bs) = (a, b) :: bytesAt (a + 1) bs := by
  rw [bytesAt, bytesAt, List.zipIdx_cons, List.map_cons, List.zipIdx_succ, List.map_map]
  congr 1
  refine List.map_congr_left fun e _ => ?_
  simp only [Function.comp_apply, Prod.mk.injEq, and_true]
  omega

theorem mem_bytesAt {a : Nat} {bs : List Byte} {e : Nat × Byte} : e ∈ bytesAt a bs ↔ ∃ k, bs[k]? = some e.2 ∧ e.1 = a + k := by
  rw [bytesAt, List.mem_map]
  constructor
  · rintro ⟨⟨b, k⟩, here, rfl⟩
    exact ⟨k, List.mem_zipIdx_iff_getElem?.mp here, rfl⟩
  · rintro ⟨k, here, at_⟩
    exact ⟨(e.2, k), List.mem_zipIdx_iff_getElem?.mpr here, by rw [← at_]⟩

/-- No run is empty. -/
theorem byteRuns_ne_nil {m : List (Nat × Byte)} {p : Nat × List Byte} (h : p ∈ byteRuns m) : p.2 ≠ [] := by
  induction m generalizing p with
  | nil => cases h
  | cons e m ih =>
    obtain ⟨a, b⟩ := e
    rw [byteRuns] at h
    split at h
    · rename_i a' bs more runs
      rw [runs] at ih
      split at h
      · rcases List.mem_cons.mp h with rfl | h
        · exact List.cons_ne_nil _ _
        · exact ih (List.mem_cons_of_mem _ h)
      · rcases List.mem_cons.mp h with rfl | h
        · exact List.cons_ne_nil _ _
        · exact ih h
    · rw [List.mem_singleton.mp h]
      exact List.cons_ne_nil _ _

/-- The runs hold the bytes, in order. -/
theorem flatMap_byteRuns (m : List (Nat × Byte)) : ((byteRuns m).flatMap fun p => bytesAt p.1 p.2) = m := by
  induction m with
  | nil => rfl
  | cons e m ih =>
    obtain ⟨a, b⟩ := e
    rw [byteRuns]
    split
    · rename_i a' bs more runs
      rw [runs, List.flatMap_cons] at ih
      dsimp only at ih
      split
      · rename_i next
        rw [List.flatMap_cons, bytesAt_cons, next, List.cons_append, ih]
      · rw [List.flatMap_cons, List.flatMap_cons, bytesAt_cons]
        simp only [bytesAt, List.zipIdx_nil, List.map_nil, List.cons_append, List.nil_append, List.cons.injEq, true_and]
        exact ih
    · rename_i runs
      rw [runs] at ih
      rw [← ih]
      rfl

end Sys2Proof.Machine

/-! SUPPORT. Bytes written to memory, run by run: those given read back, every other byte reads as before, and no good word becomes bad. -/

namespace Sys2Proof.Machine

section
variable {s t u : State} {l l' : List (Nat × Byte)} {a : Nat} {bs : List Byte}

/-- The bytes `l` have been written. -/
structure Wrote (l : List (Nat × Byte)) (s t : State) : Prop where
  canonical : t.Canonical
  sound : ∀ x, (s.ecc x).bad = false → (t.ecc x).bad = false
  there : ∀ e ∈ l, t.okByte e.1 = e.2
  others : ∀ x, (∀ e ∈ l, e.1 ≠ x) → t.okByte x = s.okByte x

theorem Wrote.nil (hs : s.Canonical) : Wrote [] s s := ⟨hs, fun _ h => h, fun _ h => absurd h List.not_mem_nil, fun _ _ => rfl⟩

theorem Wrote.append (h : Wrote l s t) (h' : Wrote l' t u) (apart : ∀ e ∈ l, ∀ e' ∈ l', e'.1 ≠ e.1) : Wrote (l ++ l') s u where
  canonical := h'.canonical
  sound x ok := h'.sound x (h.sound x ok)
  there e he := by
    rcases List.mem_append.mp he with he | he
    · rw [h'.others _ fun e' he' => apart e he e' he', h.there e he]
    · exact h'.there e he
  others x away := by
    rw [h'.others x fun e he => away e (List.mem_append_right _ he), h.others x fun e he => away e (List.mem_append_left _ he)]

theorem Wrote.of_swept {f : Nat → Byte} (h : Swept s f a (a + bs.length) t) (hf : ∀ k b, bs[k]? = some b → f (a + k) = b) :
    Wrote (bytesAt a bs) s t where
  canonical := h.canonical
  sound := h.sound
  there e he := by
    obtain ⟨k, here, at_⟩ := mem_bytesAt.mp he
    have small := (List.getElem?_eq_some_iff.mp here).1
    rw [h.reads, at_, if_pos (by omega), hf k _ here]
  others x away := by
    rw [h.reads]
    by_cases inside : a ≤ x ∧ x < a + bs.length
    · refine absurd ?_ (away (x, bs[x - a]'(by omega)) (mem_bytesAt.mpr ⟨x - a, List.getElem?_eq_getElem _, by simp only; omega⟩))
      rfl
    · rw [if_neg inside]

/-- What leaves memory and syndromes alone may come after. -/
theorem Wrote.keep (h : Wrote l s t) (hu : u.Canonical) (mem : u.mem = t.mem) (synd : u.synd = t.synd) : Wrote l s u where
  canonical := hu
  sound x ok := by
    rw [State.ecc, State.syndOf, synd]
    exact h.sound x ok
  there e he := (State.okByte_congr mem synd e.1).trans (h.there e he)
  others x away := (State.okByte_congr mem synd x).trans (h.others x away)

/-- Or before. -/
theorem Wrote.after (h : Wrote l t u) (mem : t.mem = s.mem) (synd : t.synd = s.synd) : Wrote l s u where
  canonical := h.canonical
  sound x ok := h.sound x (by rwa [State.ecc, State.syndOf, synd])
  there := h.there
  others x away := (h.others x away).trans (State.okByte_congr mem synd x)

/-- Runs of bytes written one after the other: if writing each does what it says, all bytes are written. -/
theorem Wrote.runs {g : State → Nat × List Byte → State} {at_ : Nat → Nat} {I : State → Prop}
    (step : ∀ t p, I t → p.2 ≠ [] → (∀ e ∈ bytesAt p.1 p.2, (t.ecc (at_ e.1)).bad = false ∧ e ∈ l) →
      I (g t p) ∧ Wrote ((bytesAt p.1 p.2).map fun e => (at_ e.1, e.2)) t (g t p))
    (runs : List (Nat × List Byte)) (some : ∀ p ∈ runs, p.2 ≠ []) (hs : s.Canonical) (hI : I s) (sub : ∀ e ∈ runs.flatMap fun p => bytesAt p.1 p.2, e ∈ l)
    (ok : ∀ e ∈ runs.flatMap fun p => bytesAt p.1 p.2, (s.ecc (at_ e.1)).bad = false)
    (apart : ((runs.flatMap fun p => bytesAt p.1 p.2).map fun e => at_ e.1).Nodup) :
    I (runs.foldl g s) ∧ Wrote ((runs.flatMap fun p => bytesAt p.1 p.2).map fun e => (at_ e.1, e.2)) s (runs.foldl g s) := by
  induction runs generalizing s with
  | nil => exact ⟨hI, Wrote.nil hs⟩
  | cons p runs ih =>
    simp only [List.flatMap_cons, List.mem_append, List.map_append, List.foldl_cons] at *
    obtain ⟨hI', wrote⟩ := step s p hI (some p (by simp)) fun e he => ⟨ok e (.inl he), sub e (.inl he)⟩
    obtain ⟨hI'', rest⟩ := ih (fun p hp => some p (by simp [hp])) wrote.canonical hI' (fun e he => sub e (.inr he)) (fun e he => wrote.sound _ (ok e (.inr he)))
      (List.nodup_append.mp apart).2.1
    refine ⟨hI'', wrote.append rest fun e he e' he' same => ?_⟩
    obtain ⟨x, hx, rfl⟩ := List.mem_map.mp he
    obtain ⟨x', hx', rfl⟩ := List.mem_map.mp he'
    exact (List.nodup_append.mp apart).2.2 _ (List.mem_map.mpr ⟨x, hx, rfl⟩) _ (List.mem_map.mpr ⟨x', hx', rfl⟩) same.symm

/-- Elements placed row after row: those of `ps`, then those of `qs` by bytes that come to the same as on what stood there. -/
theorem Wrote.placed {at_ : Nat → Nat} {old new : Nat → Byte} {ps qs : List Placed} (before : ∀ a, old a = s.okByte (at_ a))
    (inj : ∀ p ∈ ps ++ qs, ∀ q ∈ ps ++ qs, at_ p.addr = at_ q.addr → p.addr = q.addr)
    (same : ∀ q ∈ qs, ∀ old', (∀ a, old' a = t.okByte (at_ a)) →
      smGet new (placedBytes new qs) q.addr = smGet old' (placedBytes old' qs) q.addr)
    (h : Wrote ((placedBytes old ps).map fun e => (at_ e.1, e.2)) s t)
    (h' : Wrote ((placedBytes new qs).map fun e => (at_ e.1, e.2)) t u) :
    Wrote ((placedBytes old (ps ++ qs)).map fun e => (at_ e.1, e.2)) s u := by
  have apart (l : List Placed) (sub : ∀ p ∈ l, p ∈ ps ++ qs) (f : Nat → Byte) {q : Placed} (hq : q ∈ ps ++ qs)
      (away : ∀ p ∈ l, p.addr ≠ q.addr) : ∀ e ∈ (placedBytes f l).map fun e => (at_ e.1, e.2), e.1 ≠ at_ q.addr := by
    intro e he hit
    obtain ⟨x, hx, rfl⟩ := List.mem_map.mp he
    obtain ⟨p, hp, at_p⟩ := exists_mem_placedBytes.mp ⟨x, hx, rfl⟩
    exact away p hp (inj p (sub p hp) q hq (by rw [at_p]; exact hit))
  have inPs (p : Placed) (hp : p ∈ ps) : p ∈ ps ++ qs := List.mem_append_left _ hp
  have inQs (p : Placed) (hp : p ∈ qs) : p ∈ ps ++ qs := List.mem_append_right _ hp
  have left {q : Placed} (hq : q ∈ ps ++ qs) : t.okByte (at_ q.addr) = smGet old (placedBytes old ps) q.addr := by
    by_cases hit : ∃ p ∈ ps, p.addr = q.addr
    · obtain ⟨x, hx, at_x⟩ := exists_mem_placedBytes.mpr hit
      have read := h.there _ (List.mem_map.mpr ⟨x, hx, rfl⟩)
      dsimp only at read
      rw [← at_x, read, smGet_placedBytes hx]
    · have none_ : ∀ e ∈ placedBytes old ps, e.1 ≠ q.addr := fun e he at_e => hit (exists_mem_placedBytes.mp ⟨e, he, at_e⟩)
      rw [h.others _ (apart ps inPs old hq fun p hp at_p => hit ⟨p, hp, at_p⟩), smGet_of_not_mem none_, before]
  refine ⟨h'.canonical, fun x ok => h'.sound x (h.sound x ok), fun e he => ?_, fun x away => ?_⟩
  · obtain ⟨x, hx, rfl⟩ := List.mem_map.mp he
    dsimp only
    obtain ⟨q, hq, at_q⟩ := exists_mem_placedBytes.mp ⟨x, hx, rfl⟩
    rw [← smGet_placedBytes hx, smGet_placed_append, ← at_q]
    by_cases hit : ∃ p ∈ qs, p.addr = q.addr
    · obtain ⟨y, hy, at_y⟩ := exists_mem_placedBytes.mpr hit
      obtain ⟨p, hp, at_p⟩ := hit
      have read := h'.there _ (List.mem_map.mpr ⟨y, hy, rfl⟩)
      dsimp only at read
      rw [← at_y, read, ← smGet_placedBytes hy, at_y, ← at_p, same p hp (fun a => t.okByte (at_ a)) fun _ => rfl]
      exact smGet_placedBytes_congr (left (inQs p hp)) qs
    · have none_ : ∀ e ∈ placedBytes (smGet old (placedBytes old ps)) qs, e.1 ≠ q.addr :=
        fun e he at_e => hit (exists_mem_placedBytes.mp ⟨e, he, at_e⟩)
      rw [h'.others _ (apart qs inQs new hq fun p hp at_p => hit ⟨p, hp, at_p⟩), left hq, smGet_of_not_mem none_]
  · have hits (l : List Placed) (f : Nat → Byte) (sub : ∀ p ∈ l, p ∈ ps ++ qs) : ∀ e ∈ (placedBytes f l).map fun e => (at_ e.1, e.2), e.1 ≠ x := by
      intro e he hit
      obtain ⟨y, hy, rfl⟩ := List.mem_map.mp he
      obtain ⟨p, hp, at_p⟩ := exists_mem_placedBytes.mp ⟨y, hy, rfl⟩
      obtain ⟨z, hz, at_z⟩ := exists_mem_placedBytes.mpr ⟨p, sub p hp, at_p⟩
      exact away _ (List.mem_map.mpr ⟨z, hz, rfl⟩) (by dsimp only; rw [at_z]; exact hit)
    rw [h'.others x (hits qs new inQs), h.others x (hits ps old inPs)]

end

/-! ## A run into the Bed -/

section
variable {s : State} {n off : Nat} {bs : List Byte} {i : EIns}

/-- The marks that a run into the Bed leaves. -/
def Brick.marked (b : Brick) (i : EIns) (off len : Nat) : Brick := (wordsOf off len).foldl (fun b w => b.mark 0 w i.order) b

/-- Of the brick no more than the marks changes. -/
theorem Brick.marked_eq (b : Brick) (i : EIns) (off len : Nat) : ∃ m, b.marked i off len = { b with marks := m } := by
  unfold Brick.marked
  generalize wordsOf off len = ws
  induction ws generalizing b with
  | nil => exact ⟨b.marks, rfl⟩
  | cons w ws ih =>
    obtain ⟨m, e⟩ := ih (b.mark 0 w i.order)
    exact ⟨m, by rw [List.foldl_cons, e]; rfl⟩

/-- An instruction writes good words of the Bed. -/
theorem State.bedWrite_facts (hs : s.Canonical)
    (ok : ∀ e ∈ bytesAt (bedAddr n off) bs, (s.ecc e.1).bad = false) :
    ∃ m y, (s.bedWrite n i off bs false).2
        = ({ s with mem := m, synd := y } : State).setBrick n ((s.brick n).marked i off bs.length)
      ∧ Wrote (bytesAt (bedAddr n off) bs) s (s.bedWrite n i off bs false).2 := by
  have value (k : Nat) (b : Byte) (h : bs[k]? = some b) :
      (fun x => (((bs.map some).getD (x - bedAddr n off) none).getD (s.okByte x))) (bedAddr n off + k) = b := by
    simp [List.getD_eq_getElem?_getD, h]
  obtain ⟨-, swept⟩ := (Swept.start hs (fun x => ((bs.map some).getD (x - bedAddr n off) none).getD (s.okByte x)) (bedAddr n off)).putRun
    (xs := bs.map some) (n := bs.length / 8 + 2) (Nat.le_refl _) (fun x low high => by
      rw [List.length_map] at high
      exact ok (x, bs[x - bedAddr n off]'(by omega)) (mem_bytesAt.mpr ⟨x - bedAddr n off, List.getElem?_eq_getElem _, by simp only; omega⟩))
    (fun k _ => by simp) (by rw [List.length_map]; omega)
  rw [List.length_map] at swept
  obtain ⟨m, y, e⟩ := swept.only
  have brick : ((s.putRun (bedAddr n off) (bs.map some) (bs.length / 8 + 2)).1).brick n = s.brick n := by rw [e]; rfl
  have eq : (s.bedWrite n i off bs false).2
      = ((s.putRun (bedAddr n off) (bs.map some) (bs.length / 8 + 2)).1).setBrick n ((s.brick n).marked i off bs.length) := by
    rw [← brick]
    rfl
  refine ⟨m, y, by rw [eq, e], ?_⟩
  rw [eq]
  exact (Wrote.of_swept swept value).keep (State.setBrick_keeps canonical_stable.toStable swept.canonical) rfl rfl

end

end Sys2Proof.Machine

/-! SUPPORT. The elements a `STORE` places, row by row: their bits, their addresses, and which of them fill their bytes (Table 8-6, R121, R166). -/

namespace Sys2Proof.Machine

/-! ## Rows and their elements -/

/-- Row `k` of a `STORE` as its read takes it: 1 before the patterns where they are INT32. -/
def State.storeRow (s : State) (n : Nat) (i : EIns) (k : Nat) : List Nat × Bool :=
  ((if (s.rowTaken n i.word k).2 then 1 else 0) :: (s.rowTaken n i.word k).1, false)

/-- Row `k` in the output format. -/
def State.storeBits (s : State) (n : Nat) (i : EIns) (k : Nat) : List Nat :=
  (s.rowTaken n i.word k).1.map fun y => if (s.rowTaken n i.word k).2 then encodeNum (nbits i.word 55 53) (intNum 32 y)
    else if nbits i.word 55 53 = 7 then y else convertFmt 7 (nbits i.word 55 53) y

/-- The elements that the values `vals` of row `k` are placed as. -/
def EIns.storeElems (i : EIns) (us : List Nat) (k : Nat) (vals : List Nat) : List Placed :=
  vals.zipIdx.flatMap fun e => (placeElem (nbits i.word 52 50) (nbits i.word 55 53) (fun u => us.getD u 0) k e.2 e.1).split (nbits i.word 55 53)

/-- The elements of the first `q` rows. -/
def State.storeRows (s : State) (n : Nat) (i : EIns) (us : List Nat) (q : Nat) : List Placed :=
  (List.range q).flatMap fun k => i.storeElems us k (s.storeBits n i k)

theorem State.storeRows_succ (s : State) (n : Nat) (i : EIns) (us : List Nat) (q : Nat) :
    s.storeRows n i us (q + 1) = s.storeRows n i us q ++ i.storeElems us q (s.storeBits n i q) := by
  rw [State.storeRows, State.storeRows, List.range_succ, List.flatMap_append, List.flatMap_singleton]

/-- What a `STORE` writes is made of its rows' elements. -/
theorem State.storeBytes_eq (s : State) (n : Nat) (i : EIns) (us : List Nat) (old : Nat → Byte) :
    s.storeBytes n i.word us old = placedBytes old (s.storeRows n i us (nbits i.word 46 31)) := by
  rw [State.storeBytes, State.storeRows]
  congr 1
  refine List.flatMap_congr fun k _ => ?_
  rw [EIns.storeElems, State.storeBits, List.zipIdx_map, List.flatMap_map]
  rfl

theorem State.length_storeBits (s : State) (n : Nat) (i : EIns) (k : Nat) : (s.storeBits n i k).length = nbits i.word 20 15 := by
  rw [State.storeBits, List.length_map, State.rowTaken]
  dsimp only
  split
  · simp [sliceNat]
  · split
    · simp [sliceNat]
    · simp [sliceNat]

section
variable {i : EIns} {us vals : List Nat} {k j v : Nat} {p : Placed}

theorem EIns.mem_storeElems : p ∈ i.storeElems us k vals ↔ ∃ j v, vals[j]? = some v
    ∧ p ∈ (placeElem (nbits i.word 52 50) (nbits i.word 55 53) (fun u => us.getD u 0) k j v).split (nbits i.word 55 53) := by
  rw [EIns.storeElems, List.mem_flatMap]
  constructor
  · rintro ⟨⟨v, j⟩, here, mem⟩
    exact ⟨j, v, List.mem_zipIdx_iff_getElem?.mp here, mem⟩
  · rintro ⟨j, v, here, mem⟩
    exact ⟨(v, j), List.mem_zipIdx_iff_getElem?.mpr here, mem⟩

/-! ## Bytes that the rows fill -/

theorem Whole.of_nib_none {ps : List Placed} (h : ∀ p ∈ ps, p.nib = none) : Whole ps :=
  fun p hp => ⟨⟨p, hp, rfl, .inl (h p hp)⟩, p, hp, rfl, .inl (h p hp)⟩

theorem placeElem_nib_none {layout fmt : Nat} (wide : fmtBits fmt ≠ 4) (u : Nat → Nat) (i j bits : Nat) :
    (placeElem layout fmt u i j bits).nib = none := by
  unfold placeElem
  simp only [wide, if_false]
  split <;> rfl

theorem Placed.split_nib_none {fmt : Nat} {q : Placed} (h : q.nib = none) (hp : p ∈ q.split fmt) : p.nib = none := by
  unfold Placed.split at hp
  split at hp
  · rw [List.mem_singleton.mp hp, h]
  · obtain ⟨_, -, rfl⟩ := List.mem_map.mp hp
    rfl

theorem EIns.storeElems_nib_none (wide : fmtBits (nbits i.word 55 53) ≠ 4) (hp : p ∈ i.storeElems us k vals) : p.nib = none := by
  obtain ⟨j, v, -, mem⟩ := EIns.mem_storeElems.mp hp
  exact Placed.split_nib_none (placeElem_nib_none wide ..) mem

theorem EIns.mem_storeElems_four (four : fmtBits (nbits i.word 55 53) = 4) : p ∈ i.storeElems us k vals ↔ ∃ j v, vals[j]? = some v
    ∧ p = placeElem (nbits i.word 52 50) (nbits i.word 55 53) (fun u => us.getD u 0) k j v := by
  rw [EIns.mem_storeElems]
  simp only [Placed.split, four, show 4 ≤ 8 by omega, if_true, List.mem_singleton]

/-- Two elements side by side share a byte, the even one below. -/
theorem placeElem_beside {layout fmt : Nat} (four : fmtBits fmt = 4) (hl : layout ∈ [0, 2, 3, 4]) (u : Nat → Nat) (i j x v v' : Nat) (hx : x < 2) :
    (placeElem layout fmt u i (j / 2 * 2 + x) v').addr = (placeElem layout fmt u i j v).addr
      ∧ (placeElem layout fmt u i (j / 2 * 2 + x) v').nib = some x := by
  have half : (j / 2 * 2 + x) / 2 = j / 2 := by omega
  have side : (j / 2 * 2 + x) % 2 = x := by omega
  have far : ((j / 2 * 2 + x) / 16 * 256 + (j / 2 * 2 + x) % 16) / 2 = (j / 16 * 256 + j % 16) / 2 := by omega
  simp only [List.mem_cons, List.not_mem_nil, or_false] at hl
  rcases hl with rfl | rfl | rfl | rfl
  · simp [placeElem, four, half, side]
  · simp [placeElem, four, far, side]
  · simp [placeElem, four, half, side]
  · simp [placeElem, four, half, side]

/-- Two elements one below the other share a byte. -/
theorem placeElem_below {layout fmt : Nat} (four : fmtBits fmt = 4) (hl : layout = 1 ∨ layout = 5) (u : Nat → Nat) (j x y v v' : Nat) (hx : x < 2)
    (hy : y < 2) (m : Nat) :
    (placeElem layout fmt u (2 * m + x) j v').addr = (placeElem layout fmt u (2 * m + y) j v).addr
      ∧ (placeElem layout fmt u (2 * m + x) j v').nib = some x := by
  rcases hl with rfl | rfl
  · have row : (2 * m + x) / 32 = (2 * m + y) / 32 := by omega
    have byte : (2 * m + x) % 32 / 2 = (2 * m + y) % 32 / 2 := by omega
    have side : (2 * m + x) % 32 % 2 = x := by omega
    simp [placeElem, four, row, byte, side]
  · have row : (2 * m + x) / 2 = (2 * m + y) / 2 := by omega
    have side : (2 * m + x) % 2 = x := by omega
    simp [placeElem, four, row, side]

/-- A row of the layouts that place its elements side by side fills its bytes. -/
theorem EIns.whole_row (i : EIns) (us : List Nat) (k : Nat) {vals : List Nat} (even : fmtBits (nbits i.word 55 53) = 4 →
    nbits i.word 52 50 ∈ [0, 2, 3, 4] ∧ vals.length % 2 = 0) : Whole (i.storeElems us k vals) := by
  by_cases four : fmtBits (nbits i.word 55 53) = 4
  · obtain ⟨layout, even⟩ := even four
    intro p hp
    obtain ⟨j, v, here, rfl⟩ := (EIns.mem_storeElems_four four).mp hp
    have inside : j < vals.length := (List.getElem?_eq_some_iff.mp here).1
    have other (x : Nat) (hx : x < 2) : ∃ q ∈ i.storeElems us k vals, q.addr = (placeElem (nbits i.word 52 50) (nbits i.word 55 53)
        (fun u => us.getD u 0) k j v).addr ∧ q.nib = some x := by
      have small : j / 2 * 2 + x < vals.length := by omega
      obtain ⟨addr, nib⟩ := placeElem_beside four layout (fun u => us.getD u 0) k j x v vals[j / 2 * 2 + x] hx
      exact ⟨_, (EIns.mem_storeElems_four four).mpr ⟨_, _, List.getElem?_eq_getElem small, rfl⟩, addr, nib⟩
    obtain ⟨q0, mem0, addr0, nib0⟩ := other 0 (by omega)
    obtain ⟨q1, mem1, addr1, nib1⟩ := other 1 (by omega)
    exact ⟨⟨q0, mem0, addr0, .inr nib0⟩, q1, mem1, addr1, .inr ⟨1, nib1, by omega⟩⟩
  · exact Whole.of_nib_none fun p hp => EIns.storeElems_nib_none four hp

/-- Two rows of the layouts that place them one below the other fill their bytes. -/
theorem EIns.whole_pair (i : EIns) (us : List Nat) (m : Nat) {vals vals' : List Nat} (four : fmtBits (nbits i.word 55 53) = 4)
    (layout : nbits i.word 52 50 = 1 ∨ nbits i.word 52 50 = 5) (same : vals.length = vals'.length) :
    Whole (i.storeElems us (2 * m) vals ++ i.storeElems us (2 * m + 1) vals') := by
  have low (j v : Nat) (hj : j < vals.length) (y : Nat) (hy : y < 2) :
      ∃ q ∈ i.storeElems us (2 * m) vals ++ i.storeElems us (2 * m + 1) vals',
        q.addr = (placeElem (nbits i.word 52 50) (nbits i.word 55 53) (fun u => us.getD u 0) (2 * m + y) j v).addr ∧ q.low := by
    obtain ⟨addr, nib⟩ := placeElem_below four layout (fun u => us.getD u 0) j 0 y v vals[j] (by omega) hy m
    exact ⟨_, List.mem_append_left _ ((EIns.mem_storeElems_four four).mpr ⟨j, _, List.getElem?_eq_getElem hj, rfl⟩), addr, .inr nib⟩
  have high (j v : Nat) (hj : j < vals'.length) (y : Nat) (hy : y < 2) :
      ∃ q ∈ i.storeElems us (2 * m) vals ++ i.storeElems us (2 * m + 1) vals',
        q.addr = (placeElem (nbits i.word 52 50) (nbits i.word 55 53) (fun u => us.getD u 0) (2 * m + y) j v).addr ∧ q.high := by
    obtain ⟨addr, nib⟩ := placeElem_below four layout (fun u => us.getD u 0) j 1 y v vals'[j] (by omega) hy m
    exact ⟨_, List.mem_append_right _ ((EIns.mem_storeElems_four four).mpr ⟨j, _, List.getElem?_eq_getElem hj, rfl⟩), addr, .inr ⟨1, nib, by omega⟩⟩
  intro p hp
  rcases List.mem_append.mp hp with hp | hp
  · obtain ⟨j, v, here, rfl⟩ := (EIns.mem_storeElems_four four).mp hp
    have inside : j < vals.length := (List.getElem?_eq_some_iff.mp here).1
    exact ⟨low j v inside 0 (by omega), high j v (by omega) 0 (by omega)⟩
  · obtain ⟨j, v, here, rfl⟩ := (EIns.mem_storeElems_four four).mp hp
    have inside : j < vals'.length := (List.getElem?_eq_some_iff.mp here).1
    exact ⟨low j v (by omega) 1 (by omega), high j v inside 1 (by omega)⟩

/-! ## How far the elements reach -/

theorem placeElem_addr_lt {layout fmt B : Nat} {u : Nat → Nat} (hu : ∀ k, u k < B) (small : fmtBits fmt ≤ 32) (i : Nat) {j : Nat} (hj : j < 32)
    (bits : Nat) : (placeElem layout fmt u i j bits).addr < B + 4096 := by
  have wide : fmtBits fmt / 8 ≤ 4 := by omega
  have scaled {x : Nat} (h : x < 1024) : x * (fmtBits fmt / 8) < 4096 := (Nat.mul_le_mul_left x wide).trans_lt (by omega)
  unfold placeElem
  dsimp only
  split
  · split
    · exact Nat.add_lt_add (hu _) (by omega)
    · exact Nat.add_lt_add (hu _) (scaled (by omega))
  · split
    · exact Nat.add_lt_add (hu _) (by omega)
    · exact Nat.add_lt_add (hu _) (scaled (by omega))
  · split
    · exact Nat.add_lt_add (hu _) (by omega)
    · exact Nat.add_lt_add (hu _) (scaled (by omega))
  · split
    · exact Nat.add_lt_add (hu _) (by omega)
    · exact Nat.add_lt_add (hu _) (scaled (by omega))
  · exact Nat.add_lt_add (hu _) (by omega)
  · split
    · exact Nat.add_lt_add (hu _) (by omega)
    · exact Nat.add_lt_add (hu _) (scaled (by omega))

theorem fmtBits_le (fmt : Nat) : fmtBits fmt ≤ 32 := by
  unfold fmtBits
  split <;> omega

theorem EIns.storeElems_addr_lt {B : Nat} (hu : ∀ k, us.getD k 0 < B) (cols : vals.length ≤ 32) (hp : p ∈ i.storeElems us k vals) :
    p.addr < B + 8192 := by
  obtain ⟨j, v, here, mem⟩ := EIns.mem_storeElems.mp hp
  have inside : j < vals.length := (List.getElem?_eq_some_iff.mp here).1
  have base := placeElem_addr_lt (layout := nbits i.word 52 50) hu (fmtBits_le (nbits i.word 55 53)) k (show j < 32 by omega) v
  unfold Placed.split at mem
  split at mem
  · rw [List.mem_singleton.mp mem]
    omega
  · obtain ⟨x, hx, rfl⟩ := List.mem_map.mp mem
    have := List.mem_range.mp hx
    have := fmtBits_le (nbits i.word 55 53)
    dsimp only
    omega

/-- Global units lie below the end of the last device's memory. -/
theorem unitsOf_lt_of_streamOk {ds : List SDesc} {units align size : Nat} (h : streamOk ds [2] units align size = true) (k : Nat) :
    (unitsOf ds).getD k 0 < 4095 * 2 ^ 52 + 2 ^ 44 := by
  by_cases inside : k < (unitsOf ds).length
  · obtain ⟨d, hd, mem⟩ := List.mem_flatMap.mp (getD_mem (d := 0) inside)
    obtain ⟨x, -, at_⟩ := List.mem_map.mp mem
    simp only [streamOk, Bool.and_eq_true, List.all_eq_true] at h
    obtain ⟨⟨⟨-, space⟩, -⟩, -⟩ := h.1 d hd
    have two : d.space = 2 := by simpa using space
    rw [unitsOf, ← at_, SDesc.unit]
    simp only [two, if_true]
    have device : nbits d.w0 55 44 < 2 ^ 12 := nbits_lt _ _ _
    have local_ : (((d.base : Int) + (x % d.count : Nat) * d.stride + (x / d.count : Nat) * d.outer) % (2 ^ 44 : Nat)).toNat < 2 ^ 44 := by
      have := Int.emod_lt_of_pos ((d.base : Int) + (x % d.count : Nat) * d.stride + (x / d.count : Nat) * d.outer)
        (show (0 : Int) < ((2 ^ 44 : Nat) : Int) by decide)
      have := Int.emod_nonneg ((d.base : Int) + (x % d.count : Nat) * d.stride + (x / d.count : Nat) * d.outer)
        (show ((2 ^ 44 : Nat) : Int) ≠ 0 by decide)
      omega
    omega
  · rw [List.getD_eq_default _ _ (by omega)]
    decide

end

end Sys2Proof.Machine

/-! SUPPORT. The course of a `STORE`: what it has read of its source and written of its rows, and what of the state does not matter to its
writes (R121, R124, R143). -/

namespace Sys2Proof.Machine

section
variable {s t u v : State} {n c k p q : Nat} {i : EIns} {r : BRun} {b d : Brick} {j j' : Job} {us : List Nat}

/-! ## What a check of the Yard sees -/

theorem not_belowWaits {a : Nat} (h : A.PRT_RG_WAIT_STK ≤ a) (i j : Nat) : ¬ BelowWaits (regKey a i j) := by
  unfold BelowWaits regKey A.PRT_RG_WAIT_STK at *
  omega

/-- A check of the Yard finds what it found before: the block table and its conversions, the device, what steps sampled; and as many merged
bytes wait. -/
structure YardAlike (s t : State) : Prop where
  regs : RegsSame BelowWaits s t
  yd : t.yd = s.yd
  dv : t.dv = s.dv
  merge : t.bk.merge = s.bk.merge
  seen : (t.sv.steps.map fun x => (x.num, x.seen)) = s.sv.steps.map fun x => (x.num, x.seen)

theorem YardAlike.refl (s : State) : YardAlike s s := ⟨RegsSame.refl s, rfl, rfl, rfl, rfl⟩

theorem YardAlike.trans (h : YardAlike s t) (h' : YardAlike t u) : YardAlike s u :=
  ⟨h.regs.trans h'.regs, h'.yd.trans h.yd, h'.dv.trans h.dv, h'.merge.trans h.merge, h'.seen.trans h.seen⟩

theorem YardAlike.setBr (h : YardAlike s t) (br : List (Nat × Brick)) : YardAlike s { t with br := br } :=
  ⟨h.regs, h.yd, h.dv, h.merge, h.seen⟩

theorem CheckOnly.alike (h : CheckOnly s t) (regs : RegsSame BelowWaits s t) : YardAlike s t := by
  obtain ⟨_, _, _, _, _, _, _, rfl⟩ := h
  exact ⟨regs, rfl, rfl, rfl, rfl⟩

theorem IssuedWith.alike (h : IssuedWith n b s t) : YardAlike s t := by
  obtain ⟨-, -, -, kept, frame⟩ := h
  refine ⟨fun k low => kept k fun listed => ?_, by rw [frame], by rw [frame], by rw [frame], by rw [frame]⟩
  rw [List.mem_singleton.mp listed] at low
  exact not_belowWaits (by decide) _ _ low

theorem RegsSame.watch (run : t.runsItem n r) (trap : r.trap = false) (e : Nat) (i : EIns) (space addr c : Nat) (early : Bool) :
    RegsSame BelowWaits t (t.watch n e i space addr c early) := by
  have high (f : Fld) (h : A.PRT_RG_WAIT_STK ≤ f.addr) : ¬ BelowWaits (regKey f.addr n 0) := not_belowWaits h _ _
  have noted (engine pc space addr : Nat) : RegsSame BelowWaits t (t.hazardNoted n engine pc space addr) := by
    unfold State.hazardNoted
    refine RegsSame.bump ?_ (high _ (by decide))
    split
    · exact (RegsSame.refl t).setFlag (high _ (by decide))
    · exact ((((RegsSame.refl t).setFlag (high _ (by decide))).setF (high _ (by decide))).setF (high _ (by decide))).setF (high _ (by decide))
        |>.setF (high _ (by decide))
  unfold State.watch
  dsimp only
  split
  · rw [State.hazard_eq run trap]
    exact (noted _ _ _ _).of_regs rfl
  · exact RegsSame.refl t

/-! ## The source -/

/-- The accumulator row, or the output, that row `k` is read from. -/
def EIns.storeNum (i : EIns) (k : Nat) : Nat :=
  if nbits i.word 57 56 = 0 then (nbits i.word 30 21 + k) % 1024 else (nbits i.word 30 21 + k) % 512

/-- What the read of row `k` takes from the brick. -/
def Brick.consumed (b : Brick) (i : EIns) (k : Nat) : Brick :=
  if nbits i.word 57 56 = 0 then (if nbit i.word 48 then { b with full := b.full.filter (· ≠ i.storeNum k) } else b)
  else if nbits i.word 57 56 = 1 then { b with vecq := b.vecq.drop (nbits i.word 20 15) }
  else if nbit i.word 48 then { b with rbFull := b.rbFull.filter (· ≠ i.storeNum k) } else b

/-- Of the source `b` the brick `d` holds what is left after `p` rows. -/
structure SourceAt (i : EIns) (b : Brick) (p : Nat) (d : Brick) : Prop where
  acc : d.acc = b.acc
  accInt : d.accInt = b.accInt
  accBad : d.accBad = []
  rb : d.rb = b.rb
  rbBad : d.rbBad = []
  vecq : d.vecq = if nbits i.word 57 56 = 1 then b.vecq.drop (p * nbits i.word 20 15) else b.vecq
  full : ∀ x, x ∈ d.full ↔ x ∈ b.full ∧ ¬ (nbit i.word 48 = true ∧ nbits i.word 57 56 = 0 ∧ ∃ k, k < p ∧ i.storeNum k = x)
  rbFull : ∀ x, x ∈ d.rbFull ↔ x ∈ b.rbFull ∧ ¬ (nbit i.word 48 = true ∧ nbits i.word 57 56 = 2 ∧ ∃ k, k < p ∧ i.storeNum k = x)

/-- The rest of the brick does not matter. -/
theorem SourceAt.keep (h : SourceAt i b p d) (jobs : List Job) (marks : List Mark) (run : Option BRun) (now : Nat) :
    SourceAt i b p { d with jobs := jobs, marks := marks, run := run, now := now } :=
  ⟨h.acc, h.accInt, h.accBad, h.rb, h.rbBad, h.vecq, h.full, h.rbFull⟩

theorem exists_lt_succ_eq {f : Nat → Nat} {x : Nat} : (∃ k, k < p + 1 ∧ f k = x) ↔ (∃ k, k < p ∧ f k = x) ∨ f p = x := by
  constructor
  · rintro ⟨k, low, at_⟩
    by_cases last : k = p
    · exact .inr (last ▸ at_)
    · exact .inl ⟨k, by omega, at_⟩
  · rintro (⟨k, low, at_⟩ | at_)
    · exact ⟨k, by omega, at_⟩
    · exact ⟨p, by omega, at_⟩

/-- One row more has been read. -/
theorem SourceAt.consumed (h : SourceAt i b p d) (src : nbits i.word 57 56 < 3) : SourceAt i b (p + 1) (d.consumed i p) := by
  have marks {l m : List Nat} (on : Prop) (hl : ∀ x, x ∈ l ↔ x ∈ m ∧ ¬ (nbit i.word 48 = true ∧ on ∧ ∃ k, k < p ∧ i.storeNum k = x)) (x : Nat) :
      x ∈ (if nbit i.word 48 then l.filter (· ≠ i.storeNum p) else l)
        ↔ x ∈ m ∧ ¬ (nbit i.word 48 = true ∧ (on ∧ (∃ k, k < p ∧ i.storeNum k = x) ∨ i.storeNum p = x)) := by
    split
    · rename_i consume
      have apart : x ≠ i.storeNum p ↔ ¬ i.storeNum p = x := ⟨Ne.symm, Ne.symm⟩
      simp only [List.mem_filter, hl, consume, true_and, decide_eq_true_eq, apart, and_assoc, not_or]
    · rename_i consume
      simp only [hl, consume, Bool.false_eq_true, false_and]
  rcases (by omega : nbits i.word 57 56 = 0 ∨ nbits i.word 57 56 = 1 ∨ nbits i.word 57 56 = 2) with src | src | src
  · have eq : d.consumed i p = { d with full := if nbit i.word 48 then d.full.filter (· ≠ i.storeNum p) else d.full } := by
      rw [Brick.consumed, if_pos src]
      split <;> rfl
    rw [eq]
    have vecq := h.vecq
    rw [if_neg (by omega)] at vecq
    refine ⟨h.acc, h.accInt, h.accBad, h.rb, h.rbBad, vecq.trans (if_neg (show ¬ nbits i.word 57 56 = 1 by omega)).symm, fun x => ?_, fun x => ?_⟩
    · have := marks (nbits i.word 57 56 = 0) h.full x
      rw [this, exists_lt_succ_eq]
      simp only [src, true_and]
    · rw [h.rbFull]
      simp [src]
  · have eq : d.consumed i p = { d with vecq := d.vecq.drop (nbits i.word 20 15) } := by
      rw [Brick.consumed, if_neg (by omega), if_pos src]
    rw [eq]
    refine ⟨h.acc, h.accInt, h.accBad, h.rb, h.rbBad, ?_, fun x => ?_, fun x => ?_⟩
    · have vecq := h.vecq
      rw [if_pos src] at vecq ⊢
      change d.vecq.drop _ = _
      rw [vecq, List.drop_drop, Nat.succ_mul]
    · rw [h.full]
      simp [src]
    · rw [h.rbFull]
      simp [src]
  · have eq : d.consumed i p = { d with rbFull := if nbit i.word 48 then d.rbFull.filter (· ≠ i.storeNum p) else d.rbFull } := by
      rw [Brick.consumed, if_neg (by omega), if_neg (by omega)]
      split <;> rfl
    rw [eq]
    have vecq := h.vecq
    rw [if_neg (by omega)] at vecq
    refine ⟨h.acc, h.accInt, h.accBad, h.rb, h.rbBad, vecq.trans (if_neg (show ¬ nbits i.word 57 56 = 1 by omega)).symm, fun x => ?_, fun x => ?_⟩
    · rw [h.full]
      simp [src]
    · have := marks (nbits i.word 57 56 = 2) h.rbFull x
      rw [this, exists_lt_succ_eq]
      simp only [src, true_and]

/-- The read of a row of accumulators. -/
theorem State.storeSource_acc (t : State) (n : Nat) (j : Job) (k c : Nat) (src : nbits j.ins.word 57 56 = 0) {w : State}
    (watched : t.watch n 3 j.ins 1 ((nbits j.ins.word 30 21 + k) % 1024) c
      (nbit j.ins.word 48 && !(t.brick n).full.contains ((nbits j.ins.word 30 21 + k) % 1024)) = w) :
    t.storeSource n j k c
      = (((if (t.brick n).accInt.contains ((nbits j.ins.word 30 21 + k) % 1024) then 1 else 0)
          :: sliceNat ((t.brick n).accAt ((nbits j.ins.word 30 21 + k) % 1024)) (nbits j.ins.word 20 15),
          (t.brick n).rowBad ((nbits j.ins.word 30 21 + k) % 1024)),
        if nbit j.ins.word 48 then
          w.setBrick n { w.brick n with full := (w.brick n).full.filter (· ≠ (nbits j.ins.word 30 21 + k) % 1024) } else w) := by
  rw [State.storeSource, src, ← watched]
  rfl

/-- The read of a row of the vector queue. -/
theorem State.storeSource_vec (t : State) (n : Nat) (j : Job) (k c : Nat) (src : nbits j.ins.word 57 56 = 1) :
    t.storeSource n j k c
      = ((0 :: sliceNat (((t.brick n).vecq.take (nbits j.ins.word 20 15)).map (·.1)) (nbits j.ins.word 20 15),
          ((t.brick n).vecq.take (nbits j.ins.word 20 15)).any (·.2)),
        t.setBrick n { t.brick n with vecq := (t.brick n).vecq.drop (nbits j.ins.word 20 15) }) := by
  rw [State.storeSource, src]
  rfl

/-- The read of an output of the result buffer. -/
theorem State.storeSource_rb (t : State) (n : Nat) (j : Job) (k c : Nat) (src : nbits j.ins.word 57 56 = 2) {w : State}
    (watched : t.watch n 3 j.ins 2 ((nbits j.ins.word 30 21 + k) % 512) c
      (nbit j.ins.word 48 && !(t.brick n).rbFull.contains ((nbits j.ins.word 30 21 + k) % 512)) = w) :
    t.storeSource n j k c
      = ((0 :: sliceNat ((t.brick n).rbAt ((nbits j.ins.word 30 21 + k) % 512)) (nbits j.ins.word 20 15),
          (List.range 8).any fun sl => (t.brick n).rbBad.contains ((nbits j.ins.word 30 21 + k) % 512 * 8 + sl)),
        if nbit j.ins.word 48 then
          w.setBrick n { w.brick n with rbFull := (w.brick n).rbFull.filter (· ≠ (nbits j.ins.word 30 21 + k) % 512) } else w) := by
  rw [State.storeSource, src, ← watched]
  rfl

/-- The read of a row that holds no poison: its patterns, and what is taken. -/
theorem State.storeSource_facts (source : SourceAt i (s.brick n) p (t.brick n)) (hs : t.Canonical) (sorted : smSorted t.br = true)
    (run : t.runsItem n r) (trap : r.trap = false) (src : nbits i.word 57 56 < 3) (good : (s.brick n).vecq.all (fun e => !e.2) = true)
    (ins : j.ins = i) (c : Nat) :
    (t.storeSource n j p c).1 = s.storeRow n i p ∧ ReadsAs t (t.storeSource n j p c).2 ∧ YardAlike t (t.storeSource n j p c).2
      ∧ smSorted (t.storeSource n j p c).2.br = true ∧ ∃ g, (t.storeSource n j p c).2.brick n = ((t.brick n).hazarded r g).consumed i p := by
  subst ins
  have looked (space addr : Nat) (early : Bool) : ∃ w, t.watch n 3 j.ins space addr c early = w ∧ Looked n r t w ∧ YardAlike t w :=
    have l := (Looked.refl hs sorted run).watch trap 3 j.ins space addr c early
    ⟨_, rfl, l, l.only.alike (RegsSame.watch run trap _ _ _ _ _ _)⟩
  rcases (by omega : nbits j.ins.word 57 56 = 0 ∨ nbits j.ins.word 57 56 = 1 ∨ nbits j.ins.word 57 56 = 2) with src | src | src
  · obtain ⟨w, watched, l, alike⟩ := looked 1 ((nbits j.ins.word 30 21 + p) % 1024)
      (nbit j.ins.word 48 && !(t.brick n).full.contains ((nbits j.ins.word 30 21 + p) % 1024))
    obtain ⟨g, brick⟩ := l.brick
    have row : ((if (t.brick n).accInt.contains ((nbits j.ins.word 30 21 + p) % 1024) then 1 else 0)
        :: sliceNat ((t.brick n).accAt ((nbits j.ins.word 30 21 + p) % 1024)) (nbits j.ins.word 20 15),
        (t.brick n).rowBad ((nbits j.ins.word 30 21 + p) % 1024)) = s.storeRow n j.ins p := by
      rw [State.storeRow, State.rowTaken, Brick.rowBad, Brick.accAt, source.accBad, source.acc, source.accInt]
      dsimp only
      rw [if_pos src]
      rfl
    have num : j.ins.storeNum p = (nbits j.ins.word 30 21 + p) % 1024 := by rw [EIns.storeNum, if_pos src]
    rw [t.storeSource_acc n j p c src watched, row]
    by_cases consume : nbit j.ins.word 48 = true
    · rw [if_pos consume]
      refine ⟨rfl, l.reads.setBrick n _, alike.setBr _, State.sorted_setBrick l.sorted n _, g, ?_⟩
      rw [State.brick_setBrick_same l.sorted, brick, Brick.consumed, if_pos src, if_pos consume, num]
    · rw [if_neg consume]
      refine ⟨rfl, l.reads, alike, l.sorted, g, ?_⟩
      rw [brick, Brick.consumed, if_pos src, if_neg consume]
  · obtain ⟨g, hg⟩ := run
    have vecq := source.vecq
    rw [if_pos src] at vecq
    have poison : (((t.brick n).vecq.take (nbits j.ins.word 20 15)).any (·.2)) = false := by
      rw [List.any_eq_false]
      intro e he
      rw [vecq] at he
      have fine := List.all_eq_true.mp good e (List.mem_of_mem_drop (List.mem_of_mem_take he))
      simpa using fine
    have row : (0 :: sliceNat (((t.brick n).vecq.take (nbits j.ins.word 20 15)).map (·.1)) (nbits j.ins.word 20 15),
        ((t.brick n).vecq.take (nbits j.ins.word 20 15)).any (·.2)) = s.storeRow n j.ins p := by
      rw [poison, vecq, State.storeRow, State.rowTaken]
      dsimp only
      rw [if_neg (show ¬ nbits j.ins.word 57 56 = 0 by omega), if_pos src]
      rfl
    rw [t.storeSource_vec n j p c src, row]
    refine ⟨rfl, (ReadsAs.refl hs).setBrick n _, (YardAlike.refl t).setBr _, State.sorted_setBrick sorted n _, g, ?_⟩
    rw [State.brick_setBrick_same sorted, Brick.hazarded_self hg, Brick.consumed, if_neg (by omega), if_pos src]
  · obtain ⟨w, watched, l, alike⟩ := looked 2 ((nbits j.ins.word 30 21 + p) % 512)
      (nbit j.ins.word 48 && !(t.brick n).rbFull.contains ((nbits j.ins.word 30 21 + p) % 512))
    obtain ⟨g, brick⟩ := l.brick
    have row : (0 :: sliceNat ((t.brick n).rbAt ((nbits j.ins.word 30 21 + p) % 512)) (nbits j.ins.word 20 15),
        (List.range 8).any fun sl => (t.brick n).rbBad.contains ((nbits j.ins.word 30 21 + p) % 512 * 8 + sl)) = s.storeRow n j.ins p := by
      have outputs : (t.brick n).rbAt ((nbits j.ins.word 30 21 + p) % 512) = (s.brick n).rbAt ((nbits j.ins.word 30 21 + p) % 512) := by
        rw [Brick.rbAt, Brick.rbAt, source.rb]
      rw [State.storeRow, State.rowTaken, outputs, source.rbBad]
      dsimp only
      rw [if_neg (show ¬ nbits j.ins.word 57 56 = 0 by omega), if_neg (show ¬ nbits j.ins.word 57 56 = 1 by omega)]
      simp
    have num : j.ins.storeNum p = (nbits j.ins.word 30 21 + p) % 512 := by rw [EIns.storeNum, if_neg (by omega)]
    rw [t.storeSource_rb n j p c src watched, row]
    by_cases consume : nbit j.ins.word 48 = true
    · rw [if_pos consume]
      refine ⟨rfl, l.reads.setBrick n _, alike.setBr _, State.sorted_setBrick l.sorted n _, g, ?_⟩
      rw [State.brick_setBrick_same l.sorted, brick, Brick.consumed, if_neg (by omega), if_neg (by omega), if_pos consume, num]
    · rw [if_neg consume]
      refine ⟨rfl, l.reads, alike, l.sorted, g, ?_⟩
      rw [brick, Brick.consumed, if_neg (by omega), if_neg (by omega), if_neg consume]

end

end Sys2Proof.Machine

/-! SUPPORT. Each move of a `STORE` under way: a row read, a row written (R121, R143). -/

namespace Sys2Proof.Machine

section
variable {s t u v : State} {n c k p q : Nat} {i : EIns} {r : BRun} {b d : Brick} {j j' : Job} {us : List Nat} {rows : List Placed}

/-- Rows whose elements stand in memory once `q` writes have been made: a row that waits for the one that fills its bytes does not. -/
def EIns.placedRows (i : EIns) (q : Nat) : Nat := if pairsRows i.word then q / 2 * 2 else q

/-- The row that waits. -/
def State.storeHalf (s : State) (n : Nat) (i : EIns) (q : Nat) : List Nat × Bool :=
  if pairsRows i.word ∧ q ≠ 0 then (s.storeBits n i ((q - 1) / 2 * 2), false) else ([], false)

/-- A `STORE` of the units `us` after `p` reads and `q` writes. -/
def State.storeJob (s : State) (n : Nat) (i : EIns) (c : Nat) (us : List Nat) (p q : Nat) : Job :=
  { ins := i, eng := 3, t0 := c, units := us, n := nbits i.word 46 31, rd := p, wr := q, buf := between (s.storeRow n i) q p
    buf2 := between (fun _ => ([], false)) q p, half := s.storeHalf n i q }

/-- The local address of a byte that a `STORE` addresses as `a`. -/
def EIns.storeAt (i : EIns) (n a : Nat) : Nat := if nbit i.word 47 then localOf a else bedAddr n a

/-- The bytes that a `STORE` of the elements `rows` leaves, with their local addresses. -/
def State.storedBytes (s : State) (n : Nat) (i : EIns) (rows : List Placed) : List (Nat × Byte) :=
  (placedBytes (fun a => s.okByte (i.storeAt n a)) rows).map fun e => (i.storeAt n e.1, e.2)

/-- A `STORE` that issued in state `s` has made `p` reads and `q` writes. -/
structure StoreAt (n c : Nat) (i : EIns) (r : BRun) (s : State) (us : List Nat) (p q : Nat) (t : State) : Prop where
  sorted : smSorted t.br = true
  run : t.runsItem n r
  now : (t.brick n).now = c
  reads : p ≤ nbits i.word 46 31
  writes : q ≤ p
  jobs : (t.brick n).jobs = if q < nbits i.word 46 31 then [s.storeJob n i c us p q] else []
  alike : YardAlike s t
  source : SourceAt i (s.brick n) p (t.brick n)
  wrote : Wrote (s.storedBytes n i (s.storeRows n i us (i.placedRows q))) s t

/-- One move of the one instruction under way changes the brick's instructions, whatever else it does. -/
theorem State.move_facts {write : Bool} (jobs : (t.brick n).jobs = [j]) (eq : t.moved1 n j write = (u, j')) (sorted : smSorted u.br = true)
    (jobs' : (u.brick n).jobs = [j]) (run : u.runsItem n r) :
    (t.move n 0 write).brick n = { u.brick n with jobs := if j'.wr < j'.writes then [j'] else [] }
      ∧ smSorted (t.move n 0 write).br = true ∧ ∃ br, t.move n 0 write = { u with br := br } := by
  obtain ⟨g, run⟩ := run
  have moved := State.move_of_single (write := write) jobs (by rw [eq]; exact jobs') (by rw [eq]; change (u.brick n).run.isSome = true; rw [run]; rfl)
  rw [eq] at moved
  rw [moved]
  exact ⟨State.brick_setBrick_same sorted _ _, State.sorted_setBrick sorted _ _, _, rfl⟩

/-- What a read of memory and of the arrays leaves may follow. -/
theorem Wrote.reads {l : List (Nat × Byte)} (h : Wrote l s t) (h' : ReadsAs t u) : Wrote l s u :=
  ⟨h'.canonical, fun x ok => (h'.bad x).trans (h.sound x ok), fun e he => (h'.okByte _).trans (h.there e he),
    fun x away => (h'.okByte x).trans (h.others x away)⟩

theorem Wrote.setBr {l : List (Nat × Byte)} (h : Wrote l s t) (br : List (Nat × Brick)) : Wrote l s { t with br := br } :=
  h.keep h.canonical rfl rfl

/-- Of the rest of the brick a read takes nothing. -/
theorem Brick.consumed_fields (b : Brick) (i : EIns) (k : Nat) :
    (b.consumed i k).run = b.run ∧ (b.consumed i k).now = b.now ∧ (b.consumed i k).jobs = b.jobs := by
  unfold Brick.consumed
  split
  · split <;> exact ⟨rfl, rfl, rfl⟩
  · split
    · exact ⟨rfl, rfl, rfl⟩
    · split <;> exact ⟨rfl, rfl, rfl⟩

/-- The next row is read. -/
theorem StoreAt.read (h : StoreAt n c i r s us p q t) (trap : r.trap = false) (op : nbits i.word 63 58 = 8) (plain : nbit i.word 49 = false)
    (src : nbits i.word 57 56 < 3) (good : (s.brick n).vecq.all (fun e => !e.2) = true) (left : q < nbits i.word 46 31)
    (more : p < nbits i.word 46 31) : StoreAt n c i r s us (p + 1) q (t.move n 0 false) := by
  have jobs := h.jobs
  rw [if_pos left] at jobs
  obtain ⟨row, reads, alike, sorted, g, brick⟩ := State.storeSource_facts (j := s.storeJob n i c us p q) h.source h.wrote.canonical h.sorted h.run
    trap src good rfl ((s.storeJob n i c us p q).readAt p)
  have eq : t.moved1 n (s.storeJob n i c us p q) false
      = ((t.storeSource n (s.storeJob n i c us p q) p ((s.storeJob n i c us p q).readAt p)).2, s.storeJob n i c us (p + 1) q) := by
    have job : { s.storeJob n i c us p q with
        rd := p + 1, buf := between (s.storeRow n i) q p ++ [s.storeRow n i p], buf2 := between (fun _ => ([], false)) q p ++ [([], false)] }
        = s.storeJob n i c us (p + 1) q := by
      rw [between_succ _ h.writes, between_succ (fun _ => (([] : List Nat), false)) h.writes]
      rfl
    rw [← job, ← row]
    have clean : (t.storeSource n (s.storeJob n i c us p q) p ((s.storeJob n i c us p q).readAt p)).1.2 = false := by rw [row]; rfl
    simp only [State.moved1, Bool.false_eq_true, if_false, State.jobRead]
    change (match eOp i.word with | 1 => _ | 2 => _ | 3 => _ | 5 => _ | 6 => _ | 7 => _ | _ => _) = _
    rw [show eOp i.word = 8 from op]
    dsimp only [State.storeJob] at clean ⊢
    simp only [plain, Bool.false_eq_true, if_false, clean, State.meets, Bool.false_and, Bool.or_self]
  obtain ⟨run, now, same⟩ := ((t.brick n).hazarded r g).consumed_fields i p
  obtain ⟨moved, sorted', br, frame⟩ := State.move_facts jobs eq sorted (by rw [brick, same]; exact jobs) ⟨g, by rw [brick, run]; rfl⟩
  have writes : (s.storeJob n i c us (p + 1) q).writes = nbits i.word 46 31 := by simp [State.storeJob, Job.writes, eOp, op]
  refine ⟨sorted', ⟨g, ?_⟩, ?_, more, h.writes.trans (Nat.le_succ p), ?_, ?_, ?_, ?_⟩
  · rw [moved, brick]
    exact run
  · rw [moved, brick]
    exact now.trans h.now
  · rw [moved, writes]
    rfl
  · rw [frame]
    exact (h.alike.trans alike).setBr br
  · rw [moved, brick]
    exact ((h.source.keep (t.brick n).jobs (t.brick n).marks (some { r with hazard := g }) (t.brick n).now).consumed src).keep _ _ _ _
  · rw [frame]
    exact (h.wrote.reads reads).setBr br

/-- A row is written: bytes stand in memory, marks in the brick, and nothing else of what matters has changed. -/
theorem StoreAt.written {m : List Mark} (h : StoreAt n c i r s us p q t) (op : nbits i.word 63 58 = 8) (left : q < nbits i.word 46 31)
    (ready : q < p) (eq : t.jobWrite n (s.storeJob n i c us p q) = (u, s.storeJob n i c us p (q + 1))) (sorted : smSorted u.br = true)
    (brick : u.brick n = { t.brick n with marks := m }) (alike : YardAlike t u)
    (wrote : Wrote (s.storedBytes n i (s.storeRows n i us (i.placedRows (q + 1)))) s u) :
    StoreAt n c i r s us p (q + 1) (t.move n 0 true) := by
  have jobs := h.jobs
  rw [if_pos left] at jobs
  obtain ⟨g, run⟩ := h.run
  obtain ⟨moved, sorted', br, frame⟩ := State.move_facts (write := true) jobs eq sorted (by rw [brick]; exact jobs) ⟨g, by rw [brick]; exact run⟩
  have writes : (s.storeJob n i c us p (q + 1)).writes = nbits i.word 46 31 := by simp [State.storeJob, Job.writes, eOp, op]
  have wr : (s.storeJob n i c us p (q + 1)).wr = q + 1 := rfl
  refine ⟨sorted', ⟨g, by rw [moved, brick]; exact run⟩, by rw [moved, brick]; exact h.now, h.reads, ready, by rw [moved, writes, wr], ?_, ?_, ?_⟩
  · rw [frame]
    exact (h.alike.trans alike).setBr br
  · rw [moved, brick]
    exact h.source.keep _ _ _ _
  · rw [frame]
    exact wrote.setBr br

/-! ## What a write does -/

/-- The row that is next to be written, in the output format. -/
theorem State.storeOut_storeJob (s : State) (n : Nat) (i : EIns) (c : Nat) (us : List Nat) (plain : nbit i.word 49 = false) (ready : q < p) :
    storeOut (s.storeJob n i c us p q) = (s.storeBits n i q, false) := by
  have buf : (s.storeJob n i c us p q).buf = s.storeRow n i q :: between (s.storeRow n i) (q + 1) p := between_eq_cons _ ready
  unfold storeOut
  dsimp only
  rw [buf, show (s.storeJob n i c us p q).ins = i from rfl, plain]
  simp only [Bool.false_eq_true, if_false, List.headD_cons, State.storeRow, List.tail_cons, State.storeBits, Bool.or_false]
  refine Prod.ext ?_ rfl
  refine List.map_congr_left fun y _ => ?_
  by_cases int : (s.rowTaken n i.word q).2 = true
  · simp only [int, if_true]
  · simp [int]

/-- The instruction after its write. -/
theorem State.storeJob_succ (s : State) (n : Nat) (i : EIns) (c : Nat) (us : List Nat) (p q : Nat) {half : List Nat × Bool}
    (next : half = s.storeHalf n i (q + 1)) :
    { s.storeJob n i c us p q with
      wr := q + 1, buf := (s.storeJob n i c us p q).buf.drop 1, buf2 := (s.storeJob n i c us p q).buf2.drop 1, half := half }
      = s.storeJob n i c us p (q + 1) := by
  have buf : (s.storeJob n i c us p q).buf.drop 1 = between (s.storeRow n i) (q + 1) p := drop_between _ q p 1
  have buf2 : (s.storeJob n i c us p q).buf2.drop 1 = between (fun _ => ([], false)) (q + 1) p := drop_between _ q p 1
  rw [buf, buf2, next]
  rfl

/-- To the Bed: the row's bytes by what stands there. -/
theorem State.storeWrite_local (t : State) (s : State) (n : Nat) (i : EIns) (c : Nat) (us : List Nat) (plain : nbit i.word 49 = false)
    (bed : nbit i.word 47 = false) (ready : q < p) :
    t.storeWrite n (s.storeJob n i c us p q)
      = ((byteRuns (placedBytes (fun a => t.okByte (bedAddr n a)) (i.storeElems us q (s.storeBits n i q)))).foldl
          (fun t p => (t.bedWrite n i p.1 p.2 false).2) t, s.storeJob n i c us p (q + 1)) := by
  have half : (s.storeJob n i c us p q).half = s.storeHalf n i (q + 1) := by
    simp [State.storeJob, State.storeHalf, pairsRows, bed]
  rw [← s.storeJob_succ n i c us p q half]
  have wr : (s.storeJob n i c us p q).wr = q := rfl
  have ins : (s.storeJob n i c us p q).ins = i := rfl
  unfold State.storeWrite
  dsimp only
  rw [s.storeOut_storeJob n i c us plain ready, ins, wr, plain, bed]
  rfl

/-- To global addresses, each row by itself. -/
theorem State.storeWrite_row {g : Bool} (t : State) (s : State) (n : Nat) (i : EIns) (c : Nat) (us : List Nat) (plain : nbit i.word 49 = false)
    (far : nbit i.word 47 = true) (single : pairsRows i.word = false) (ready : q < p) (run : (t.brick n).run = some { r with hazard := g }) :
    t.storeWrite n (s.storeJob n i c us p q)
      = (t.storeGlobal n r (byteRuns (placedBytes (fun _ => 0) (i.storeElems us q (s.storeBits n i q)))) false, s.storeJob n i c us p (q + 1)) := by
  have half : (s.storeJob n i c us p q).half = s.storeHalf n i (q + 1) := by
    simp [State.storeJob, State.storeHalf, single]
  rw [← s.storeJob_succ n i c us p q half]
  have wr : (s.storeJob n i c us p q).wr = q := rfl
  have ins : (s.storeJob n i c us p q).ins = i := rfl
  unfold State.storeWrite
  dsimp only
  rw [s.storeOut_storeJob n i c us plain ready, ins, wr, plain, far, single, run]
  rfl

/-- A row that waits for the next. -/
theorem State.storeWrite_even {g : Bool} (t : State) (s : State) (n : Nat) (i : EIns) (c : Nat) (us : List Nat) (plain : nbit i.word 49 = false)
    (far : nbit i.word 47 = true) (pair : pairsRows i.word = true) (even : q % 2 = 0) (ready : q < p)
    (run : (t.brick n).run = some { r with hazard := g }) :
    t.storeWrite n (s.storeJob n i c us p q) = (t, s.storeJob n i c us p (q + 1)) := by
  have half : (s.storeBits n i q, false) = s.storeHalf n i (q + 1) := by
    rw [State.storeHalf, if_pos ⟨pair, by omega⟩, show (q + 1 - 1) / 2 * 2 = q by omega]
  rw [← s.storeJob_succ n i c us p q half]
  have wr : (s.storeJob n i c us p q).wr = q := rfl
  have ins : (s.storeJob n i c us p q).ins = i := rfl
  unfold State.storeWrite
  dsimp only
  rw [s.storeOut_storeJob n i c us plain ready, ins, wr, plain, far, pair, run]
  simp only [if_true, Bool.true_and, even, decide_true]
  rfl

/-- Two rows that fill their bytes. -/
theorem State.storeWrite_odd {g : Bool} (t : State) (s : State) (n : Nat) (i : EIns) (c : Nat) (us : List Nat) (plain : nbit i.word 49 = false)
    (far : nbit i.word 47 = true) (pair : pairsRows i.word = true) (odd : q % 2 = 1) (ready : q < p)
    (run : (t.brick n).run = some { r with hazard := g }) :
    t.storeWrite n (s.storeJob n i c us p q)
      = (t.storeGlobal n r (byteRuns (placedBytes (fun _ => 0)
          (i.storeElems us (q - 1) (s.storeBits n i (q - 1)) ++ i.storeElems us q (s.storeBits n i q)))) false, s.storeJob n i c us p (q + 1)) := by
  have before : (s.storeJob n i c us p q).half = (s.storeBits n i (q - 1), false) := by
    change s.storeHalf n i q = _
    rw [State.storeHalf, if_pos ⟨pair, by omega⟩, show (q - 1) / 2 * 2 = q - 1 by omega]
  have half : (s.storeJob n i c us p q).half = s.storeHalf n i (q + 1) := by
    rw [before, State.storeHalf, if_pos ⟨pair, by omega⟩, show (q + 1 - 1) / 2 * 2 = q - 1 by omega]
  rw [← s.storeJob_succ n i c us p q half]
  have wr : (s.storeJob n i c us p q).wr = q := rfl
  have ins : (s.storeJob n i c us p q).ins = i := rfl
  unfold State.storeWrite
  dsimp only
  rw [s.storeOut_storeJob n i c us plain ready, ins, wr, plain, far, pair, run, before]
  simp only [if_true, Bool.true_and, odd, Nat.one_ne_zero, decide_false, Bool.false_eq_true, if_false]
  rfl

end

end Sys2Proof.Machine

/-! SUPPORT. The rows of a `STORE` to the Bed: each run of bytes is written and leaves its marks (R121, R144). -/

namespace Sys2Proof.Machine

section
variable {s t u v : State} {n c k p q : Nat} {i : EIns} {r : BRun} {b d : Brick} {j j' : Job} {us : List Nat} {qs : List Placed}
  {at_ : Nat → Nat} {g : State → Nat × List Byte → State} {new : Nat → Byte}

theorem State.mem_storeRows {x : Placed} : x ∈ s.storeRows n i us q ↔ ∃ k, k < q ∧ x ∈ i.storeElems us k (s.storeBits n i k) := by
  simp [State.storeRows, List.mem_flatMap]

/-- Bytes at addresses that keep their distances. -/
theorem map_bytesAt {a : Nat} {bs : List Byte} (steps : ∀ k, k < bs.length → at_ (a + k) = at_ a + k) :
    ((bytesAt a bs).map fun e => (at_ e.1, e.2)) = bytesAt (at_ a) bs := by
  rw [bytesAt, bytesAt, List.map_map]
  refine List.map_congr_left fun e he => ?_
  have inside : e.2 < bs.length := (List.getElem?_eq_some_iff.mp (List.mem_zipIdx_iff_getElem?.mp he)).1
  simp only [Function.comp_apply, steps e.2 inside]

/-- While a row is written: of the brick no more than its marks has changed, and a check of the Yard finds what it found. -/
structure RowKept (n : Nat) (t u : State) : Prop where
  sorted : smSorted u.br = true
  canonical : u.Canonical
  brick : ∃ m, u.brick n = { t.brick n with marks := m }
  alike : YardAlike t u

theorem RowKept.refl (hs : t.Canonical) (sorted : smSorted t.br = true) : RowKept n t t :=
  ⟨sorted, hs, ⟨_, rfl⟩, YardAlike.refl t⟩

/-- A row's bytes are written if each of their runs is. -/
theorem Wrote.row (hs : t.Canonical) (sorted : smSorted t.br = true)
    (inj : ∀ p ∈ qs, ∀ q ∈ qs, at_ p.addr = at_ q.addr → p.addr = q.addr) (ok : ∀ q ∈ qs, (t.ecc (at_ q.addr)).bad = false)
    (step : ∀ u p, RowKept n t u → p.2 ≠ [] → (∀ e ∈ bytesAt p.1 p.2, (u.ecc (at_ e.1)).bad = false ∧ ∃ q ∈ qs, q.addr = e.1) →
      RowKept n t (g u p) ∧ Wrote ((bytesAt p.1 p.2).map fun e => (at_ e.1, e.2)) u (g u p)) :
    RowKept n t ((byteRuns (placedBytes new qs)).foldl g t)
      ∧ Wrote ((placedBytes new qs).map fun e => (at_ e.1, e.2)) t ((byteRuns (placedBytes new qs)).foldl g t) := by
  have elem {e : Nat × Byte} (he : e ∈ placedBytes new qs) : ∃ q ∈ qs, q.addr = e.1 := exists_mem_placedBytes.mp ⟨e, he, rfl⟩
  have apart : ((placedBytes new qs).map fun e => at_ e.1).Nodup := by
    have keys : ((placedBytes new qs).map (·.1)).Nodup := nodup_keys (smSorted_placed rfl qs)
    rw [show ((placedBytes new qs).map fun e => at_ e.1) = ((placedBytes new qs).map (·.1)).map at_ by rw [List.map_map]; rfl]
    refine List.Nodup.map_on (fun x hx y hy same => ?_) keys
    obtain ⟨e, he, rfl⟩ := List.mem_map.mp hx
    obtain ⟨e', he', rfl⟩ := List.mem_map.mp hy
    obtain ⟨p, hp, at_p⟩ := elem he
    obtain ⟨q, hq, at_q⟩ := elem he'
    rw [← at_p, ← at_q] at same ⊢
    exact inj p hp q hq same
  have runs := Wrote.runs (l := placedBytes new qs) (g := g) (at_ := at_) (I := RowKept n t)
    (fun u p kept some here => step u p kept some fun e he => ⟨(here e he).1, elem (here e he).2⟩)
    (byteRuns (placedBytes new qs)) (fun p hp => byteRuns_ne_nil hp) hs (RowKept.refl hs sorted)
    (by rw [flatMap_byteRuns]; exact fun e he => he)
    (by
      rw [flatMap_byteRuns]
      intro e he
      obtain ⟨q, hq, at_q⟩ := elem he
      rw [← at_q]
      exact ok q hq)
    (by rw [flatMap_byteRuns]; exact apart)
  rwa [flatMap_byteRuns] at runs

/-- A run into the Bed. -/
theorem RowKept.bedWrite {p : Nat × List Byte} (kept : RowKept n t u) (ok : ∀ e ∈ bytesAt p.1 p.2, (u.ecc (bedAddr n e.1)).bad = false) :
    RowKept n t (u.bedWrite n i p.1 p.2 false).2
      ∧ Wrote ((bytesAt p.1 p.2).map fun e => (bedAddr n e.1, e.2)) u (u.bedWrite n i p.1 p.2 false).2 := by
  have shift : ((bytesAt p.1 p.2).map fun e => (bedAddr n e.1, e.2)) = bytesAt (bedAddr n p.1) p.2 :=
    map_bytesAt fun k _ => by simp only [bedAddr]; omega
  obtain ⟨m, y, eq, wrote⟩ := State.bedWrite_facts (n := n) (off := p.1) (bs := p.2) (i := i) kept.canonical fun e he => by
    rw [← shift] at he
    obtain ⟨x, hx, rfl⟩ := List.mem_map.mp he
    exact ok x hx
  rw [shift]
  refine ⟨?_, wrote⟩
  obtain ⟨marks, brick⟩ := kept.brick
  obtain ⟨marks', marked⟩ := (u.brick n).marked_eq i p.1 p.2.length
  have canonical := wrote.canonical
  rw [eq] at canonical ⊢
  refine ⟨State.sorted_setBrick kept.sorted n _, canonical, ⟨marks', ?_⟩, kept.alike.trans ⟨RegsSame.refl _, rfl, rfl, rfl, rfl⟩⟩
  rw [State.brick_setBrick_same (s := { u with mem := m, synd := y }) kept.sorted, marked, brick]

/-- A row of a `STORE` to the Bed is written. -/
theorem StoreAt.writeLocal (h : StoreAt n c i r s us p q t) (op : nbits i.word 63 58 = 8) (plain : nbit i.word 49 = false)
    (bed : nbit i.word 47 = false) (left : q < nbits i.word 46 31) (ready : q < p)
    (ok : ∀ x ∈ s.storeRows n i us (nbits i.word 46 31), (s.ecc (bedAddr n x.addr)).bad = false) :
    StoreAt n c i r s us p (q + 1) (t.move n 0 true) := by
  have place : i.storeAt n = bedAddr n := by
    funext a
    rw [EIns.storeAt, bed]
    rfl
  have single : ∀ q, i.placedRows q = q := fun q => by simp [EIns.placedRows, pairsRows, bed]
  have inj (x y : Nat) (same : bedAddr n x = bedAddr n y) : x = y := by
    simp only [bedAddr] at same
    omega
  obtain ⟨kept, wrote⟩ := Wrote.row (n := n) (at_ := bedAddr n) (g := fun t p => (t.bedWrite n i p.1 p.2 false).2)
    (new := fun a => t.okByte (bedAddr n a)) (qs := i.storeElems us q (s.storeBits n i q)) h.wrote.canonical h.sorted
    (fun x _ y _ same => inj _ _ same) (fun x hx => h.wrote.sound _ (ok x (State.mem_storeRows.mpr ⟨q, left, hx⟩)))
    (fun u p kept _ here => kept.bedWrite fun e he => (here e he).1)
  obtain ⟨m, brick⟩ := kept.brick
  refine h.written (m := m) op left ready ?_ kept.sorted brick kept.alike ?_
  · rw [← t.storeWrite_local s n i c us plain bed ready]
    simp [State.jobWrite, State.storeJob, eOp, op]
  · have before := h.wrote
    rw [State.storedBytes, place, single] at before ⊢
    rw [State.storeRows_succ]
    refine Wrote.placed (fun _ => rfl) (fun x _ y _ same => inj _ _ same) (fun x _ old' at_old => ?_) before wrote
    rw [show (fun a => t.okByte (bedAddr n a)) = old' from (funext at_old).symm]

/-- The course of a `STORE` whose rows are written as they should be. -/
theorem storeAt_course (stop : r.stopAt = none) (trap : r.trap = false) (op : nbits i.word 63 58 = 8) (plain : nbit i.word 49 = false)
    (src : nbits i.word 57 56 < 3) (good : (s.brick n).vecq.all (fun e => !e.2) = true)
    (write : ∀ {p q t}, StoreAt n c i r s us p q t → q < nbits i.word 46 31 → q < p → StoreAt n c i r s us p (q + 1) (t.move n 0 true)) :
    Course n (nbits i.word 46 31) (nbits i.word 46 31) (fun p => c + 2 + p) (fun q => c + 10 + q) (fun q => q + 1)
      (s.storeJob n i c us) (StoreAt n c i r s us) where
  facts {p q} _ _ := by
    simp only [State.storeJob, Job.reads, Job.writes, Job.readAt, Job.writeAt, eOp, op, plain]
    simp
    omega
  order {p q} left early := ⟨by omega, by omega⟩
  bound h := ⟨h.reads, h.writes.trans h.reads⟩
  sorted h := h.sorted
  going h := by
    obtain ⟨g, run⟩ := h.run
    rw [State.unstopped, run]
    exact stop
  jobs h := h.jobs
  read h left more := h.read trap op plain src good left more
  write h left ready := write h left ready

end

end Sys2Proof.Machine

/-! SUPPORT. The rows of a `STORE` to global addresses of this device's Yard: the checks of each run pass, what moving the bytes costs leaves the
Yard as it is, and the bytes are written (R122, R142, R279). -/

namespace Sys2Proof.Machine

/-! ## Checks of the Yard -/

theorem yardBase_le : 16 * stackBytes ≤ yardBase := by decide

/-- A range of the Yard touches places within it. -/
theorem mem_placesOf_yard {a len x : Nat} (ha : yardBase ≤ a) (h : x ∈ placesOf a len) : a ≤ x ∧ x < a + len := by
  have low := yardBase_le
  unfold placesOf at h
  split at h
  · cases h
  · rw [if_neg (by omega), if_neg (by omega)] at h
    rcases List.mem_cons.mp h with rfl | h
    · omega
    · obtain ⟨k, hk, rfl⟩ := List.mem_map.mp h
      have inside := List.mem_range.mp hk
      omega

theorem State.rangeStatus_yard {s : State} {w : Who} {write : Bool} {a len : Nat} (ha : yardBase ≤ a)
    (h : ∀ x, a ≤ x → x < a + len → s.placeStatus w write x = 0) : s.rangeStatus w write a len = 0 := by
  unfold State.rangeStatus
  rw [List.find?_eq_none.mpr]
  · rfl
  · intro c hc
    obtain ⟨x, hx, rfl⟩ := List.mem_map.mp hc
    obtain ⟨low, high⟩ := mem_placesOf_yard ha hx
    simp [h x low high]

/-- The areas from the Yard's window on. -/
def yardArea (a : Nat) : Area :=
  if a < yardBase + 24576 * 2 ^ 16 then .yard ((a - yardBase) / 2 ^ 16)
  else if 0xE0000000000 ≤ a && a < 0xE1000000000 then .staging
  else if regBase ≤ a && a < regBase + 2 ^ 28 then .regs
  else .unmapped

/-- From the Yard's window on an address's area is the same in every state. -/
theorem State.area_eq_yardArea (s : State) {a : Nat} (ha : yardBase ≤ a) : s.area a = yardArea a := by
  have low := yardBase_le
  have bed : ¬ (bedBase ≤ a && a < bedBase + 10752 * 2 ^ 20) = true := by
    have above : bedBase + 10752 * 2 ^ 20 ≤ yardBase := by decide
    simp only [Bool.and_eq_true, decide_eq_true_eq]
    omega
  unfold State.area
  dsimp only
  rw [if_neg (by omega), if_neg bed]
  simp only [ha, decide_true, Bool.true_and, decide_eq_true_eq]
  rfl

theorem yardArea_cases {a : Nat} (ha : yardBase ≤ a) : (∃ b, b < 24576 ∧ yardArea a = .yard b) ∨ yardArea a = .staging ∨ yardArea a = .regs
    ∨ yardArea a = .unmapped := by
  unfold yardArea
  split
  · exact .inl ⟨_, by omega, rfl⟩
  · split
    · exact .inr (.inl rfl)
    · split
      · exact .inr (.inr (.inl rfl))
      · exact .inr (.inr (.inr rfl))

theorem State.area_yard_ne_bed (s : State) {a : Nat} (ha : yardBase ≤ a) (m : Nat) : s.area a ≠ .bed m := by
  have above : bedBase + 10752 * 2 ^ 20 ≤ yardBase := by decide
  exact State.area_ne_bed (by omega) m

section
variable {s t u : State} {n c k p q a : Nat} {i : EIns} {r : BRun} {us : List Nat} {l : List Nat}

/-- What a step sampled of the conversions. -/
def State.sampledConv (s : State) (num : Nat) : List Conv :=
  (((s.sv.steps.map fun x => (x.num, x.seen)).find? fun e => e.1 = num).map fun e => e.2.conv).getD s.yd.converting

theorem State.sampled_step (s : State) (num q : Nat) :
    (s.sampled (.step num q)).yd.converting = s.sampledConv num ∧ (s.sampled (.step num q)).regs = s.regs := by
  rw [State.sampledConv, List.find?_map]
  simp only [State.sampled]
  have same : (s.sv.steps.find? fun x => x.num = num) = s.sv.steps.find? ((fun e => decide (e.1 = num)) ∘ fun x => (x.num, x.seen)) := rfl
  rw [← same]
  cases s.sv.steps.find? fun x => x.num = num with
  | none => exact ⟨rfl, rfl⟩
  | some x => exact ⟨rfl, rfl⟩

theorem YardAlike.blockSeen (h : YardAlike s t) (num q : Nat) {b : Nat} (hb : b < 24576) :
    (t.sampled (.step num q)).blockSeen b = (s.sampled (.step num q)).blockSeen b := by
  obtain ⟨conv, regs⟩ := s.sampled_step num q
  obtain ⟨conv', regs'⟩ := t.sampled_step num q
  have same : t.sampledConv num = s.sampledConv num := by rw [State.sampledConv, h.seen, h.yd]; rfl
  have alike : RegsSame BelowWaits (s.sampled (.step num q)) (t.sampled (.step num q)) := fun k low => by
    rw [regs, regs']
    exact h.regs k low
  have low (f : Fld) (hf : f.addr = A.YRD_BENTRY) : BelowWaits (regKey f.addr 0 b) := by
    rw [hf]
    unfold BelowWaits regKey A.YRD_BENTRY A.PRT_RG_WAIT_STK
    omega
  have kind : (t.sampled (.step num q)).blockKind b = (s.sampled (.step num q)).blockKind b := alike.getF (low _ rfl)
  have owner : (t.sampled (.step num q)).blockOwner b = (s.sampled (.step num q)).blockOwner b := by
    rw [State.blockOwner, State.blockOwner, State.flag, State.flag, alike.getF (low F.YRD_BENTRY_OWNED rfl), alike.getF (low F.YRD_BENTRY_OWNER rfl)]
  rw [State.blockSeen, State.blockSeen, conv, conv', same, kind, owner]

/-- What a step may write of the Yard it may still write. -/
theorem YardAlike.placeStatus (h : YardAlike s t) (num q part : Nat) (ha : yardBase ≤ a)
    (ok : (s.sampled (.step num q)).placeStatus (.part part) true a = 0) : (t.sampled (.step num q)).placeStatus (.part part) true a = 0 := by
  unfold State.placeStatus at ok ⊢
  rw [State.area_eq_yardArea _ ha] at ok ⊢
  rcases yardArea_cases ha with ⟨b, hb, e⟩ | e | e | e
  · rw [e] at ok ⊢
    dsimp only at ok ⊢
    rw [h.blockSeen num q hb]
    generalize (s.sampled (.step num q)).blockSeen b = found at ok ⊢
    obtain ⟨kind, owner⟩ := found
    rcases kind with _ | _ | _ | kind
    · exact ok
    · exact ok
    · exact ok
    · exact ok
  · rw [e] at ok
    cases ok
  · rw [e] at ok
    cases ok
  · rw [e] at ok
    cases ok

/-! ## What moving bytes costs -/

/-- Moving bytes leaves memory and bricks alone, and a check of the Yard finds what it found. -/
structure MovedOnly (s t : State) : Prop where
  mem : t.mem = s.mem
  synd : t.synd = s.synd
  br : t.br = s.br
  alike : YardAlike s t

theorem MovedOnly.refl (s : State) : MovedOnly s s := ⟨rfl, rfl, rfl, YardAlike.refl s⟩

theorem MovedOnly.trans (h : MovedOnly s t) (h' : MovedOnly t u) : MovedOnly s u :=
  ⟨h'.mem.trans h.mem, h'.synd.trans h.synd, h'.br.trans h.br, h.alike.trans h'.alike⟩

theorem MovedOnly.setPt (s : State) (pt : Part) : MovedOnly s { s with pt := pt } := ⟨rfl, rfl, rfl, RegsSame.refl s, rfl, rfl, rfl, rfl⟩

theorem State.charge_moved (s : State) (p i m n unit : Nat) : MovedOnly s (s.charge p i m n unit) := by
  unfold State.charge
  split
  · split
    · exact MovedOnly.refl s
    · exact MovedOnly.setPt s _
  · exact MovedOnly.refl s

theorem State.chargeOwn_moved (s : State) (o : Own) (m n unit : Nat) : MovedOnly s (s.chargeOwn o m n unit) := by
  unfold State.chargeOwn
  dsimp only
  generalize (s.chargedTo o).2.zip (shares n (s.chargedTo o).2.length) = es
  generalize (s.chargedTo o).1 = p
  induction es generalizing s with
  | nil => exact MovedOnly.refl s
  | cons e es ih =>
    rw [List.foldl_cons]
    refine MovedOnly.trans ?_ (ih _)
    split
    · exact State.charge_moved ..
    · exact MovedOnly.refl s

theorem State.oweAck_moved (s : State) (o : Own) (n : Nat) : MovedOnly s (s.oweAck o n) := by
  unfold State.oweAck
  split
  · exact MovedOnly.refl s
  · exact ⟨rfl, rfl, rfl, RegsSame.refl s, rfl, rfl, rfl, rfl⟩
  · refine ⟨rfl, rfl, rfl, RegsSame.refl s, rfl, rfl, rfl, ?_⟩
    change (s.sv.steps.map _).map _ = _
    rw [List.map_map]
    refine List.map_congr_left fun x _ => ?_
    rw [Function.comp_apply]
    split <;> rfl

theorem State.moved_moved (s : State) (o : Own) (p r n : Nat) : MovedOnly s (s.moved o p r n) := by
  unfold State.moved
  extract_lets x t
  have paid : MovedOnly s x.2 := MovedOnly.setPt s _
  clear_value x
  split
  · exact paid
  · have counted : MovedOnly x.2 t := by
      refine ⟨rfl, rfl, rfl, (RegsSame.refl x.2).bump ?_, rfl, rfl, rfl, rfl⟩
      unfold rgWait
      split
      · exact not_belowWaits (by decide) _ _
      · exact not_belowWaits (by decide) _ _
      · exact not_belowWaits (by decide) _ _
    exact (paid.trans counted).trans ((MovedOnly.setPt t _).trans (State.oweAck_moved _ o 1))

/-- Of an access to the Yard no line is asked. -/
theorem State.traffic_moved (s : State) (o : Own) (part op n : Nat) (ha : yardBase ≤ a) : MovedOnly s (s.traffic o part op a n) := by
  have low := yardBase_le
  have charged := s.chargeOwn_moved o 2 n 65536
  unfold State.traffic
  extract_lets t
  split
  · exact charged
  · rw [if_neg (by omega)]
    exact charged.trans (State.moved_moved t o part 1 n)

/-! ## A run into the Yard -/

/-- A work item writes good words of the Yard. -/
theorem State.storeFor_yard {o : Own} {bs : List Byte} (hs : s.Canonical) (ha : yardBase ≤ a) (merge : s.bk.merge = [])
    (ok : ∀ e ∈ bytesAt a bs, (s.ecc e.1).bad = false) :
    Wrote (bytesAt a bs) s (s.storeFor o a bs) ∧ (s.storeFor o a bs).br = s.br ∧ YardAlike s (s.storeFor o a bs)
      ∧ (s.storeFor o a bs).Canonical := by
  have low := yardBase_le
  obtain ⟨mem, synd, br, alike⟩ := s.traffic_moved o (s.partOf o) 1 bs.length ha
  have canonical : (s.traffic o (s.partOf o) 1 a bs.length).Canonical := State.traffic_keeps canonical_stable hs
  generalize e : s.traffic o (s.partOf o) 1 a bs.length = t at *
  have serves : t.yardServes 1 a bs.length = false := by
    rw [State.yardServes, decide_eq_false (show ¬ a < 16 * stackBytes by omega)]
    rfl
  obtain ⟨u, answered, swept⟩ := State.submit_write_beyond (k := .work [o]) (e := none) (x := writeAccess a bs) canonical
    (show 16 * stackBytes ≤ a by omega) (State.area_yard_ne_bed t ha) rfl rfl (by simp [writeAccess]) fun y h1 h2 => by
      have inside : y - a < bs.length := by change y < a + bs.length at h2; change a ≤ y at h1; omega
      rw [State.ecc, State.syndOf, synd]
      exact ok (y, bs[y - a]) (mem_bytesAt.mpr ⟨y - a, List.getElem?_eq_getElem inside, by change a ≤ y at h1; dsimp only; omega⟩)
  have run : s.storeFor o a bs = u := by
    rw [State.storeFor, e]
    dsimp only
    rw [serves, if_neg (by decide), State.storeB]
    dsimp only
    rw [if_pos (by simp; omega), State.writeB, State.mergeOutRange_of_empty (alike.merge.trans merge)]
    exact answered
  have wrote := Wrote.of_swept swept fun k b here => by
    obtain ⟨inside, at_⟩ := List.getElem?_eq_some_iff.mp here
    exact (State.writtenByte_writeAccess inside).trans at_
  obtain ⟨m, y, only⟩ := swept.only
  rw [run]
  refine ⟨wrote.after mem synd, ?_, alike.trans ?_, swept.canonical⟩
  · rw [only]
    exact br
  · rw [only]
    exact ⟨RegsSame.refl t, rfl, rfl, rfl, rfl⟩

end

end Sys2Proof.Machine

/-! SUPPORT. The clause of O35 on `STORE`: its course to the Bed and to this device's Yard, and what it leaves (R121 to R123, R125). -/

namespace Sys2Proof.Machine

section
variable {s t u : State} {n c k p q a : Nat} {i : EIns} {r : BRun} {us : List Nat} {qs : List Placed}

/-! ## Global addresses of this device -/

/-- A work item `r` may write the byte at the global address `a`, which is of this device's Yard. -/
structure State.StoresTo (s : State) (r : BRun) (a : Nat) : Prop where
  small : a < 2 ^ 64
  middle : a / 2 ^ 44 % 256 = 0
  device : devOf a = s.dv.devNum
  yard : yardBase ≤ localOf a
  status : (s.sampled r.own).placeStatus (.part r.part) true (localOf a) = 0

/-- A stored address is its device's base and its local address. -/
theorem State.StoresTo.eq_parts (h : s.StoresTo r a) : a = devOf a * 2 ^ 52 + localOf a := by
  obtain ⟨small, middle, -, -, -⟩ := h
  unfold devOf localOf
  omega

/-- Within this device a local address stands for one global address. -/
theorem State.StoresTo.inj {b : Nat} (ha : s.StoresTo r a) (hb : s.StoresTo r b) (same : localOf a = localOf b) : a = b := by
  rw [ha.eq_parts, hb.eq_parts, ha.device, hb.device, same]

theorem State.StoresTo.step (ha : s.StoresTo r a) (hb : s.StoresTo r (a + k)) : localOf (a + k) = localOf a + k := by
  have first := ha.eq_parts
  have second := hb.eq_parts
  rw [ha.device] at first
  rw [hb.device] at second
  omega

/-- One run of a row to global addresses. -/
def State.globalRun (n : Nat) (r : BRun) (t : State) (p : Nat × List Byte) : State :=
  if (t.brick n).run.isNone then t
  else if p.1 / 2 ^ 44 % 256 ≠ 0 then t.halt n St.addressUnmapped
  else if devOf p.1 = t.dv.devNum then
    match (t.sampled r.own).rangeStatus (.part r.part) true (localOf p.1) p.2.length with
    | 0 => t.storeFor r.own (localOf p.1) p.2
    | c => t.halt n c
  else t.writeAway r.own r.part p.1 p.2

theorem State.storeGlobal_eq (s : State) (n : Nat) (r : BRun) (runs : List (Nat × List Byte)) :
    s.storeGlobal n r runs false = runs.foldl (State.globalRun n r) s := rfl

/-- A run to this device's Yard that passes its checks. -/
theorem RowKept.globalRun {run : Nat × List Byte} (alike : YardAlike s t) (merge : s.bk.merge = []) (going : (t.brick n).run.isSome = true)
    (kept : RowKept n t u) (some : run.2 ≠ [])
    (here : ∀ e ∈ bytesAt run.1 run.2, (u.ecc (localOf e.1)).bad = false ∧ s.StoresTo r e.1) :
    RowKept n t (State.globalRun n r u run) ∧ Wrote ((bytesAt run.1 run.2).map fun e => (localOf e.1, e.2)) u (State.globalRun n r u run) := by
  have dest (k : Nat) (hk : k < run.2.length) : s.StoresTo r (run.1 + k) :=
    (here (run.1 + k, run.2[k]) (mem_bytesAt.mpr ⟨k, List.getElem?_eq_getElem hk, rfl⟩)).2
  have first : s.StoresTo r run.1 := dest 0 (List.length_pos_iff.mpr some)
  have steps (k : Nat) (hk : k < run.2.length) : localOf (run.1 + k) = localOf run.1 + k := first.step (dest k hk)
  have shift : ((bytesAt run.1 run.2).map fun e => (localOf e.1, e.2)) = bytesAt (localOf run.1) run.2 := map_bytesAt steps
  have alike' : YardAlike s u := alike.trans kept.alike
  obtain ⟨m, brick⟩ := kept.brick
  have status : (u.sampled r.own).rangeStatus (.part r.part) true (localOf run.1) run.2.length = 0 := by
    refine State.rangeStatus_yard first.yard fun x low high => ?_
    have at_ : localOf run.1 + (x - localOf run.1) = x := by omega
    rw [← at_, ← steps (x - localOf run.1) (by omega)]
    exact alike'.placeStatus _ _ _ (dest _ (by omega)).yard (dest _ (by omega)).status
  have eq : State.globalRun n r u run = u.storeFor r.own (localOf run.1) run.2 := by
    unfold State.globalRun
    rw [if_neg (by rw [brick]; change ¬ ((t.brick n).run.isNone = true); rw [← Option.not_isSome, going]; decide),
      if_neg (by rw [first.middle]; decide), if_pos (by rw [first.device, alike'.dv]), status]
    rfl
  obtain ⟨wrote, br, moved, canonical⟩ := State.storeFor_yard (o := r.own) kept.canonical first.yard (alike'.merge.trans merge) fun e he => by
    rw [← shift] at he
    obtain ⟨x, hx, rfl⟩ := List.mem_map.mp he
    exact (here x hx).1
  rw [eq, shift]
  exact ⟨⟨by rw [br]; exact kept.sorted, canonical, ⟨m, by rw [State.brick_of_br br, brick]⟩, kept.alike.trans moved⟩, wrote⟩

/-- Elements that fill their bytes are written as they would be by what stands there. -/
theorem StoreAt.globalRow {l : List Placed} (h : StoreAt n c i r s us p q t) (far : nbit i.word 47 = true) (merge : s.bk.merge = []) (whole : Whole qs)
    (dest : ∀ x ∈ l ++ qs, s.StoresTo r x.addr ∧ (s.ecc (localOf x.addr)).bad = false)
    (before : Wrote (s.storedBytes n i l) s t) :
    RowKept n t (t.storeGlobal n r (byteRuns (placedBytes (fun _ => 0) qs)) false)
      ∧ Wrote (s.storedBytes n i (l ++ qs)) s (t.storeGlobal n r (byteRuns (placedBytes (fun _ => 0) qs)) false) := by
  have place : i.storeAt n = localOf := by
    funext a
    rw [EIns.storeAt, if_pos far]
  have mine {x : Placed} (hx : x ∈ qs) := dest x (List.mem_append_right _ hx)
  obtain ⟨g, run⟩ := h.run
  obtain ⟨kept, wrote⟩ := Wrote.row (n := n) (at_ := localOf) (g := State.globalRun n r) (new := fun _ => 0) (qs := qs) h.wrote.canonical h.sorted
    (fun x hx y hy same => (mine hx).1.inj (mine hy).1 same) (fun x hx => h.wrote.sound _ (mine hx).2)
    (fun u p kept some here => kept.globalRun h.alike merge (by rw [run]; rfl) some fun e he => by
      obtain ⟨ok, x, hx, at_x⟩ := here e he
      exact ⟨ok, at_x ▸ (mine hx).1⟩)
  rw [State.storeGlobal_eq]
  refine ⟨kept, ?_⟩
  rw [State.storedBytes, place] at before ⊢
  exact Wrote.placed (fun _ => rfl) (fun x hx y hy same => (dest x hx).1.inj (dest y hy).1 same)
    (fun x hx old' _ => whole.smGet hx _ _) before wrote

/-- What a `STORE` to global addresses asks of its rows (Table 8-6). -/
structure EIns.StoreRows (i : EIns) : Prop where
  single : pairsRows i.word = false → fmtBits (nbits i.word 55 53) = 4 → nbits i.word 52 50 ∈ [0, 2, 3, 4] ∧ nbits i.word 20 15 % 2 = 0
  pair : pairsRows i.word = true → fmtBits (nbits i.word 55 53) = 4 ∧ (nbits i.word 52 50 = 1 ∨ nbits i.word 52 50 = 5)

/-- A row of a `STORE` to this device's Yard is written. -/
theorem StoreAt.writeGlobal (h : StoreAt n c i r s us p q t) (op : nbits i.word 63 58 = 8) (plain : nbit i.word 49 = false)
    (far : nbit i.word 47 = true) (shape : i.StoreRows) (merge : s.bk.merge = []) (left : q < nbits i.word 46 31) (ready : q < p)
    (dest : ∀ x ∈ s.storeRows n i us (nbits i.word 46 31), s.StoresTo r x.addr ∧ (s.ecc (localOf x.addr)).bad = false) :
    StoreAt n c i r s us p (q + 1) (t.move n 0 true) := by
  obtain ⟨g, run⟩ := h.run
  have jobWrite {v : State} (eq : t.storeWrite n (s.storeJob n i c us p q) = (v, s.storeJob n i c us p (q + 1))) :
      t.jobWrite n (s.storeJob n i c us p q) = (v, s.storeJob n i c us p (q + 1)) := by
    rw [← eq]
    simp [State.jobWrite, State.storeJob, eOp, op]
  have inside {x : Placed} {m : Nat} (hm : m ≤ q + 1) (hx : x ∈ s.storeRows n i us m) : x ∈ s.storeRows n i us (nbits i.word 46 31) := by
    obtain ⟨k, low, mem⟩ := State.mem_storeRows.mp hx
    exact State.mem_storeRows.mpr ⟨k, by omega, mem⟩
  by_cases pairs : pairsRows i.word = true
  · obtain ⟨four, layout⟩ := shape.pair pairs
    have rows (q : Nat) : i.placedRows q = q / 2 * 2 := by rw [EIns.placedRows, if_pos pairs]
    rcases Nat.mod_two_eq_zero_or_one q with even | odd
    · refine h.written (m := (t.brick n).marks) op left ready (jobWrite (t.storeWrite_even s n i c us plain far pairs even ready run)) h.sorted rfl
        (YardAlike.refl t) ?_
      rw [rows, show (q + 1) / 2 * 2 = q / 2 * 2 by omega, ← rows]
      exact h.wrote
    · obtain ⟨m, rfl⟩ : ∃ m, q = 2 * m + 1 := ⟨q / 2, by omega⟩
      have placed : s.storeRows n i us (i.placedRows (2 * m + 1 + 1)) = s.storeRows n i us (i.placedRows (2 * m + 1))
          ++ (i.storeElems us (2 * m) (s.storeBits n i (2 * m)) ++ i.storeElems us (2 * m + 1) (s.storeBits n i (2 * m + 1))) := by
        rw [rows, rows, show (2 * m + 1 + 1) / 2 * 2 = 2 * m + 1 + 1 by omega, show (2 * m + 1) / 2 * 2 = 2 * m by omega, State.storeRows_succ,
          State.storeRows_succ, List.append_assoc]
      have whole := i.whole_pair us m (vals := s.storeBits n i (2 * m)) (vals' := s.storeBits n i (2 * m + 1)) four layout
        (by rw [State.length_storeBits, State.length_storeBits])
      obtain ⟨kept, wrote⟩ := h.globalRow far merge whole (fun x hx => dest x (inside (by rw [rows]; omega) (placed ▸ hx))) h.wrote
      rw [← placed] at wrote
      obtain ⟨marks, brick⟩ := kept.brick
      exact h.written (m := marks) op left ready (jobWrite (t.storeWrite_odd s n i c us plain far pairs odd ready run)) kept.sorted brick kept.alike wrote
  · rw [Bool.not_eq_true] at pairs
    have rows (q : Nat) : i.placedRows q = q := by rw [EIns.placedRows, pairs]; rfl
    have whole := i.whole_row us q (vals := s.storeBits n i q) fun four => by
      rw [State.length_storeBits]
      exact shape.single pairs four
    have before := h.wrote
    rw [rows] at before
    obtain ⟨kept, wrote⟩ := h.globalRow far merge whole (fun x hx => dest x (inside (Nat.le_refl _) (by rw [State.storeRows_succ]; exact hx))) before
    obtain ⟨marks, brick⟩ := kept.brick
    refine h.written (m := marks) op left ready (jobWrite (t.storeWrite_row s n i c us plain far pairs ready run)) kept.sorted brick kept.alike ?_
    rw [rows, State.storeRows_succ]
    exact wrote

end

end Sys2Proof.Machine

/-! SUPPORT. When a `STORE` issues and what it leaves: the clause of O35 on it (R121 to R123, R125). -/

namespace Sys2Proof.Machine

section
variable {s t u : State} {n c k p q a : Nat} {i : EIns} {r : BRun} {us : List Nat} {sd rest : List SDesc}

/-- What a `STORE` without rotary coding at the head finds where it may issue. -/
structure StoreMay (n c : Nat) (i : EIns) (s : State) (sd rest : List SDesc) : Prop where
  op : nbits i.word 63 58 = 8
  plain : nbit i.word 49 = false
  src : nbits i.word 57 56 ≠ 3
  layout : nbits i.word 52 50 ≠ 7
  rows : nbits i.word 46 31 ≠ 0
  cols : nbits i.word 20 15 ≠ 0
  colsLe : nbits i.word 20 15 ≤ 32
  zero : nbits i.word 14 0 = 0
  stream : takeStream ((s.brick n).fifos.getD 4 []) = some (sd, rest)
  streamOk : streamOk sd (if nbit i.word 47 then [2] else [0]) (nbits i.word 46 31) (unitAlign (nbits i.word 52 50) (nbits i.word 55 53)) 1 = true
  fine : storeBad (nbits i.word 52 50) (nbits i.word 55 53) (nbits i.word 46 31) (nbits i.word 20 15) false (fieldB (s.brick n).pblock 10 2)
    (unitsOf sd) = false
  ready : sd.all (fun d => d.ready ≤ c) = true
  idle : (s.brick n).free.getD 3 0 ≤ c
  queued : nbits i.word 57 56 = 1 → nbits i.word 46 31 * nbits i.word 20 15 ≤ (s.brick n).vecq.length
  fits : nbit i.word 47 = false → storeFits (nbits i.word 52 50) (nbits i.word 55 53) (nbits i.word 46 31) (nbits i.word 20 15) (unitsOf sd) = true

/-- The brick at the issue of a `STORE`. -/
def Brick.storeTaken (b : Brick) (rest : List SDesc) : Brick := { b with fifos := (b.fifos.set 4 rest).set 5 (b.fifos.getD 5 []) }

theorem exec_store (at_ : s.engineAt n 3 c i r) (may : StoreMay n c i s sd rest) :
    exec (.store n c []) s = .next ((((s.atCycle n c).setBrick n (((s.brick n).atCycle c).storeTaken rest)).issue n 3 c
      (c + nbits i.word 46 31) [] (fun x => nbit i.word 49 && x.pblockBad) (s.storeJob n i c (unitsOf sd) 0 0)).trap n) := by
  have legal : engineWord 3 i.word = true := by
    have layout := may.layout
    simp [engineWord, eOp, may.op, may.src, may.layout, may.rows, may.cols, may.colsLe, may.zero]
  obtain ⟨sorted, -⟩ := id at_
  have stream : takeStream (((s.brick n).atCycle c).fifos.getD 4 []) = some (sd, rest) := may.stream
  have fine : storeBad (nbits i.word 52 50) (nbits i.word 55 53) (nbits i.word 46 31) (nbits i.word 20 15) false
      (fieldB ((s.brick n).atCycle c).pblock 10 2) (unitsOf sd) = false := may.fine
  have idle : ¬ c < ((s.brick n).atCycle c).free.getD 3 0 := Nat.not_lt.mpr may.idle
  have queued : (decide (nbits i.word 57 56 = 1) && decide (((s.brick n).atCycle c).vecq.length < nbits i.word 46 31 * nbits i.word 20 15)) = false := by
    by_cases vec : nbits i.word 57 56 = 1
    · have room := may.queued vec
      rw [decide_eq_false (show ¬ ((s.brick n).atCycle c).vecq.length < _ from Nat.not_lt.mpr room), Bool.and_false]
    · rw [decide_eq_false vec, Bool.false_and]
  have fits : (!nbit i.word 47 && !storeFits (nbits i.word 52 50) (nbits i.word 55 53) (nbits i.word 46 31) (nbits i.word 20 15) (unitsOf sd)) = false := by
    cases bed : nbit i.word 47 with
    | true => rfl
    | false => rw [may.fits bed]; rfl
  change Host.Outcome.next (s.engineRow n 3 c _ _) = _
  rw [at_.engineRow, legal]
  dsimp only
  rw [if_neg (by simp), if_pos (decide_eq_true (p := eOp i.word = 8) may.op), State.brick_atCycle sorted, stream]
  simp only [may.plain, Bool.false_eq_true, if_false, may.streamOk, fine, fits, queued, idle, any_late_eq_false may.ready, Bool.not_true,
    Bool.false_and, Bool.or_self, decide_false, List.any_nil, State.brick_atCycle sorted]
  have half : s.storeHalf n i 0 = ([], false) := by simp [State.storeHalf]
  have literal : decide ((([] : List SDesc).headD ⟨0, 0, 0, 0, 0⟩).space = 3) = false := by decide
  rw [literal]
  simp only [State.storeJob, half]
  rfl

/-- A `STORE` issues. -/
theorem store_issues (at_ : s.engineAt n 3 c i r) (hs : s.Canonical) (may : StoreMay n c i s sd rest) (accBad : (s.brick n).accBad = [])
    (rbBad : (s.brick n).rbBad = []) :
    ∃ t, exec (.store n c []) s = .next t ∧ IssuedAs n 3 c i (((s.brick n).fifos.set 4 rest).set 5 ((s.brick n).fifos.getD 5 [])) s t
      ∧ StoreAt n c i r s (unitsOf sd) 0 0 t := by
  have run := exec_store at_ may
  obtain ⟨sorted, -, item, trap, stop, jobs, -⟩ := id at_
  have issued := State.issue_facts (n := n) (e := 3) (c := c) hs sorted (((s.brick n).atCycle c).storeTaken rest)
    (bad := fun x => nbit i.word 49 && x.pblockBad) (by simp [may.plain]) (c + nbits i.word 46 31) (s.storeJob n i c (unitsOf sd) 0 0)
  generalize State.issue _ n 3 c _ [] _ _ = t at run issued
  have going : Going n c r s t := issued.going hs item rfl
  rw [State.trap_of_unstopped (going.unstopped stop)] at run
  obtain ⟨brick, -⟩ := id issued
  have pos : 0 < nbits i.word 46 31 := Nat.pos_of_ne_zero may.rows
  refine ⟨t, run, issued.issuedAs jobs rfl rfl rfl rfl rfl, going.sorted, going.run, going.now, Nat.zero_le _, Nat.le_refl 0, ?_, issued.alike, ?_, ?_⟩
  · rw [brick, if_pos pos, Brick.issue]
    simp only [Brick.storeTaken, Brick.atCycle, jobs]
    rfl
  · rw [brick]
    have none_ (on : Prop) (f : Nat → Prop) : ¬ (nbit i.word 48 = true ∧ on ∧ ∃ k, k < 0 ∧ f k) := fun ⟨_, _, k, low, _⟩ => Nat.not_lt_zero k low
    refine ⟨rfl, rfl, accBad, rfl, rbBad, ?_, fun x => ?_, fun x => ?_⟩
    · rw [Nat.zero_mul, List.drop_zero, ite_self]
      rfl
    · exact ⟨fun h => ⟨h, none_ _ _⟩, And.left⟩
    · exact ⟨fun h => ⟨h, none_ _ _⟩, And.left⟩
  · have nothing : s.storedBytes n i (s.storeRows n i (unitsOf sd) (i.placedRows 0)) = [] := by
      have zero : i.placedRows 0 = 0 := by simp [EIns.placedRows]
      rw [zero]
      rfl
    rw [nothing]
    exact (Wrote.nil hs).reads going.reads

/-- A `STORE` whose rows are written as they should be leaves what it says when it is over. -/
theorem store_over (at_ : s.engineAt n 3 c i r) (may : StoreMay n c i s sd rest) (good : (s.brick n).vecq.all (fun e => !e.2) = true)
    (even : pairsRows i.word = true → nbits i.word 46 31 % 2 = 0)
    (write : ∀ {p q t}, StoreAt n c i r s (unitsOf sd) p q t → q < nbits i.word 46 31 → q < p →
      StoreAt n c i r s (unitsOf sd) p (q + 1) (t.move n 0 true))
    (start : StoreAt n c i r s (unitsOf sd) 0 0 t) {T : Nat} (late : T = c + nbits i.word 46 31 + 10) :
    ((t.runTo n T).brick n).jobs = []
      ∧ Wrote (s.storedBytes n i (s.storeRows n i (unitsOf sd) (nbits i.word 46 31))) s (t.runTo n T)
      ∧ SourceAt i (s.brick n) (nbits i.word 46 31) ((t.runTo n T).brick n) := by
  obtain ⟨-, -, -, trap, stop, -⟩ := at_
  have src : nbits i.word 57 56 < 3 := by
    have := may.src
    have := nbits_lt i.word 57 56
    omega
  obtain ⟨p, q, v, h, last, -, eq⟩ := (storeAt_course stop trap may.op may.plain src good write).runTo T start
  have all : q = nbits i.word 46 31 := by
    have := h.reads
    have := h.writes
    by_contra left
    have := last (by omega)
    omega
  have made : p = nbits i.word 46 31 := by
    have := h.reads
    have := h.writes
    omega
  have placed : i.placedRows q = nbits i.word 46 31 := by
    rw [EIns.placedRows, all]
    split
    · rename_i pairs
      have := even pairs
      omega
    · rfl
  have ended := h.jobs
  rw [if_neg (by omega)] at ended
  have wrote := h.wrote
  have source := h.source
  rw [placed] at wrote
  rw [made] at source
  rw [eq, State.brick_setBrick_same h.sorted]
  exact ⟨ended, wrote.setBr _, source.keep _ _ _ _⟩

/-- Elements of four bits fill their bytes within a row, or within two. -/
theorem storeBad_four {layout fmt rows cols headDim : Nat} (fine : storeBad layout fmt rows cols false headDim us = false) (four : fmtBits fmt = 4)
    (known : layout < 7) : (layout ∈ [0, 2, 3, 4] ∧ cols % 2 = 0) ∨ ((layout = 1 ∨ layout = 5) ∧ rows % 2 = 0) := by
  have narrow : 3 ≤ fmt := by
    by_contra wide
    have cases_ : fmt = 0 ∨ fmt = 1 ∨ fmt = 2 := by omega
    rcases cases_ with rfl | rfl | rfl <;> cases four
  simp only [storeBad, four, decide_true, Bool.true_and, Bool.or_eq_false_iff, Bool.and_eq_false_iff, decide_eq_false_iff_not] at fine
  obtain ⟨⟨⟨⟨⟨beside, tall⟩, -⟩, below⟩, plain⟩, -⟩ := fine
  have layouts : layout = 0 ∨ layout = 1 ∨ layout = 2 ∨ layout = 3 ∨ layout = 4 ∨ layout = 5 ∨ layout = 6 := by omega
  have even (h : [0, 2, 3, 4].contains layout = true) : layout ∈ [0, 2, 3, 4] ∧ cols % 2 = 0 := by
    refine ⟨by simpa using h, ?_⟩
    rw [h] at beside
    simpa using beside
  rcases layouts with rfl | rfl | rfl | rfl | rfl | rfl | rfl
  · exact .inl (even rfl)
  · refine .inr ⟨.inl rfl, ?_⟩
    have whole : rows % 32 = 0 := by simpa using tall
    omega
  · exact .inl (even rfl)
  · exact .inl (even rfl)
  · exact .inl (even rfl)
  · refine .inr ⟨.inr rfl, ?_⟩
    have pairs : rows % 2 = 0 := by
      have := below.resolve_left (by simp)
      simpa using this.2
    exact pairs
  · have := plain.resolve_left (by simp)
    exact absurd narrow (by simpa using this.1)

theorem pairsRows_iff (w : Nat) : pairsRows w = true
    ↔ nbit w 47 = true ∧ fmtBits (nbits w 55 53) = 4 ∧ (nbits w 52 50 = 1 ∨ nbits w 52 50 = 5) := by
  simp [pairsRows, and_assoc]

/-- What Table 8-6 asks of a `STORE` to global addresses. -/
theorem StoreMay.shape (may : StoreMay n c i s sd rest) :
    (nbit i.word 47 = true → i.StoreRows) ∧ (pairsRows i.word = true → nbits i.word 46 31 % 2 = 0) := by
  have known : nbits i.word 52 50 < 7 := by
    have := may.layout
    have := nbits_lt i.word 52 50
    omega
  have four (h : fmtBits (nbits i.word 55 53) = 4) := storeBad_four may.fine h known
  refine ⟨fun far => ⟨fun single narrow => ?_, fun pairs => ((pairsRows_iff _).mp pairs).2⟩, fun pairs => ?_⟩
  · rcases four narrow with row | ⟨layout, -⟩
    · exact row
    · rw [(pairsRows_iff _).mpr ⟨far, narrow, layout⟩] at single
      cases single
  · obtain ⟨-, narrow, layout⟩ := (pairsRows_iff _).mp pairs
    rcases four narrow with ⟨other, -⟩ | ⟨-, even⟩
    · simp only [List.mem_cons, List.not_mem_nil, or_false] at other
      omega
    · exact even

/-- Global addresses have 64 bits. -/
theorem StoreMay.addr_lt (may : StoreMay n c i s sd rest) (far : nbit i.word 47 = true) {x : Placed}
    (hx : x ∈ s.storeRows n i (unitsOf sd) (nbits i.word 46 31)) : x.addr < 2 ^ 64 := by
  obtain ⟨k, -, mem⟩ := State.mem_storeRows.mp hx
  have streamed := may.streamOk
  rw [if_pos far] at streamed
  have below := EIns.storeElems_addr_lt (unitsOf_lt_of_streamOk streamed) (by rw [State.length_storeBits]; exact may.colsLe) mem
  omega

/-- The clause of O35 on `STORE`. -/
theorem store_stores (at_ : s.engineAt n 3 c i r) (hs : s.Canonical) (merge : s.bk.merge = []) (may : StoreMay n c i s sd rest)
    (accBad : (s.brick n).accBad = []) (rbBad : (s.brick n).rbBad = []) (good : (s.brick n).vecq.all (fun e => !e.2) = true)
    (ok : ∀ x ∈ s.storeRows n i (unitsOf sd) (nbits i.word 46 31), (s.ecc (i.storeAt n x.addr)).bad = false)
    (dest : nbit i.word 47 = true → ∀ x ∈ s.storeRows n i (unitsOf sd) (nbits i.word 46 31), s.StoresTo r x.addr) {T : Nat}
    (late : T = c + nbits i.word 46 31 + 10) :
    ∃ t, exec (.store n c []) s = .next t ∧ IssuedAs n 3 c i (((s.brick n).fifos.set 4 rest).set 5 ((s.brick n).fifos.getD 5 [])) s t
      ∧ ((t.runTo n T).brick n).jobs = []
      ∧ Wrote (s.storedBytes n i (s.storeRows n i (unitsOf sd) (nbits i.word 46 31))) s (t.runTo n T)
      ∧ SourceAt i (s.brick n) (nbits i.word 46 31) ((t.runTo n T).brick n) := by
  obtain ⟨t, run, issued, start⟩ := store_issues at_ hs may accBad rbBad
  obtain ⟨shape, even⟩ := may.shape
  refine ⟨t, run, issued, store_over at_ may good even (fun h left ready => ?_) start late⟩
  cases far : nbit i.word 47 with
  | false =>
    refine h.writeLocal may.op may.plain far left ready fun x hx => ?_
    have := ok x hx
    rwa [EIns.storeAt, far] at this
  | true =>
    refine h.writeGlobal may.op may.plain far (shape far) merge left ready fun x hx => ⟨dest far x hx, ?_⟩
    have := ok x hx
    rwa [EIns.storeAt, far] at this

end

end Sys2Proof.Machine

/-! SUPPORT. The registers that a firmware message to a channel leaves alone: all but the vector of the channel's interrupt (R341, R344). -/

namespace Sys2Proof.Machine

section
variable {K : Nat → Prop} {s t : State} {src c : Nat}

theorem RegsSame.correctWord (h : RegsSame K s t) (a : Nat) : RegsSame K s (t.correctWord a) := by
  unfold State.correctWord
  split
  · exact h.of_regs rfl
  · exact h.of_regs rfl
  · exact h

theorem RegsSame.wr (h : RegsSame K s t) (a : Nat) (bs : List Byte) : RegsSame K s (t.wr a bs) := by
  unfold State.wr
  extract_lets n full bad t1 kept
  have words : RegsSame K s t1 := h.foldl fun u w _ => by
    split
    · exact (RegsSame.refl u).of_regs rfl
    · split
      · exact (RegsSame.refl u).of_regs rfl
      · exact (RegsSame.refl u).correctWord w
  exact words.of_regs rfl

theorem RegsSame.setHlink (h : RegsSame K s t) (l : Nat) (x : HLink) : RegsSame K s (t.setHlink l x) := by
  unfold State.setHlink
  split
  · exact h.of_regs rfl
  · exact h.of_regs rfl

theorem RegsSame.sendHost (h : RegsSame K s t) (l n : Nat) : RegsSame K s (t.sendHost l n) := by
  induction n generalizing t with
  | zero => exact h
  | succ n ih =>
    unfold State.sendHost
    extract_lets x
    split
    · exact h
    · split
      · extract_lets sent u1 u2
        have flits : RegsSame K s u2 := (h.setHlink l _).foldl fun u f _ => RegsSame.of_regs (RegsSame.refl u) rfl
        exact ih (flits.of_regs rfl)
      · exact h

/-- Sending an interrupt changes no register but its vector's. -/
theorem RegsSame.raise (h : RegsSame K s t) (hk : ¬ K (regKey F.LNT_IVEC_PENDING.addr src 0)) : RegsSame K s (t.raise src) := by
  have deliver (u : State) (hu : RegsSame K s u) : RegsSame K s (u.deliver src) := by
    unfold State.deliver
    split
    · exact hu
    · split
      · extract_lets u1
        have sent : RegsSame K s u1 := ((hu.setFlag hk).setHlink _ _).sendHost _ _
        split
        · exact sent
        · exact sent.of_regs rfl
      · exact hu
  unfold State.raise
  split
  · exact deliver _ (h.setFlag hk)
  · exact h

theorem RegsSame.f2hPut {m : Msg} {u : State} (h : RegsSame K s t) (hk : ¬ K (regKey F.LNT_IVEC_PENDING.addr (chanSource c) 0))
    (put : t.f2hPut c m = some u) : RegsSame K s u := by
  unfold State.f2hPut at put
  extract_lets k base tail head at put
  split at put
  · obtain rfl := Option.some.inj put
    exact ((h.wr _ _).wr base (leBytes ((tail + 1) % 65536) 2)).raise hk
  · cases put

theorem RegsSame.f2hFlush (h : RegsSame K s t) (hk : ¬ K (regKey F.LNT_IVEC_PENDING.addr (chanSource c) 0)) (n : Nat) :
    RegsSame K s (t.f2hFlush c n) := by
  induction n generalizing t with
  | zero => exact h
  | succ n ih =>
    unfold State.f2hFlush
    split
    · exact h
    · split
      · split
        · rename_i put
          exact ih ((h.f2hPut hk put).of_regs rfl)
        · exact h
      · exact h

/-- A firmware message to a channel changes no register but the vector of the channel's interrupt. -/
theorem RegsSame.f2h (h : RegsSame K s t) (hk : ¬ K (regKey F.LNT_IVEC_PENDING.addr (chanSource c) 0)) (m : Msg) : RegsSame K s (t.f2h c m) := by
  unfold State.f2h
  extract_lets q ln t1 base t0
  refine RegsSame.f2hFlush ?_ hk 257
  have held : RegsSame K s t1 := h.of_regs rfl
  unfold t0
  split
  · exact h.of_regs rfl
  · refine RegsSame.raise ?_ hk
    split
    · exact held
    · exact held.wr _ _

end

end Sys2Proof.Machine

/-! SUPPORT. The end of a work item: the brick is freed, the item is over for its step, and a brick that changed meanwhile is quarantined
(R148, R149, R515). -/

namespace Sys2Proof.Machine

section
variable {s t u : State} {n c k : Nat} {r : BRun} {b : Brick}

/-! ## The items of steps -/

/-- Steps have the items they had. -/
def ItemsAlike (s t : State) : Prop := (t.sv.steps.map fun x => (x.num, x.items)) = s.sv.steps.map fun x => (x.num, x.items)

theorem ItemsAlike.trans (h : ItemsAlike s t) (h' : ItemsAlike t u) : ItemsAlike s u := Eq.trans h' h

/-- What steps' items are looked up as. -/
theorem ItemsAlike.item (h : ItemsAlike s t) (num i : Nat) :
    ((t.sv.steps.find? fun x => x.num = num).bind fun x => x.items[i]?) = (s.sv.steps.find? fun x => x.num = num).bind fun x => x.items[i]? := by
  have lookup (v : State) : ((v.sv.steps.find? fun x => x.num = num).bind fun x => x.items[i]?)
      = (((v.sv.steps.map fun x => (x.num, x.items)).find? fun e => e.1 = num).bind fun e => e.2[i]?) := by
    rw [List.find?_map, Option.bind_map]
    rfl
  rw [lookup, lookup, h]

theorem StepRun.fail_items (x : StepRun) (status q : Nat) : (x.fail status q).num = x.num ∧ (x.fail status q).items = x.items := by
  unfold StepRun.fail
  split <;> exact ⟨rfl, rfl⟩

theorem StepRun.foldl_fail_items (codes : List Nat) (x : StepRun) (status : Nat) :
    (codes.foldl (fun y q => y.fail status q) x).num = x.num ∧ (codes.foldl (fun y q => y.fail status q) x).items = x.items := by
  induction codes generalizing x with
  | nil => exact ⟨rfl, rfl⟩
  | cons q codes ih =>
    obtain ⟨num, items⟩ := ih (x.fail status q)
    obtain ⟨num', items'⟩ := x.fail_items status q
    exact ⟨num.trans num', items.trans items'⟩

/-- Work that fails marks its command or its step. -/
theorem State.workFail_only (s : State) (o : Own) (status : Nat) :
    (∃ qu sv, s.workFail o status = { s with qu := qu, sv := sv }) ∧ ItemsAlike s (s.workFail o status) := by
  unfold State.workFail
  split
  · exact ⟨⟨_, _, rfl⟩, rfl⟩
  · exact ⟨⟨_, _, rfl⟩, rfl⟩
  · refine ⟨⟨_, _, rfl⟩, ?_⟩
    change (s.sv.steps.map _).map _ = _
    rw [List.map_map]
    refine List.map_congr_left fun x _ => ?_
    rw [Function.comp_apply]
    split
    · obtain ⟨num, items⟩ := StepRun.foldl_fail_items (x.codes _) x status
      exact Prod.ext num items
    · rfl

/-- An item that is over has ended. -/
theorem State.itemOver_ended (s : State) (r : BRun) {x : StepRun} (hx : x ∈ (s.itemOver r).sv.steps) (num : x.num = r.step) {it : WItem}
    (item : x.items[r.item]? = some it) : it.ended = true := by
  obtain ⟨y, -, rfl⟩ := List.mem_map.mp hx
  split at item
  · dsimp only at item
    rw [List.getElem?_modify_eq] at item
    obtain ⟨z, -, rfl⟩ := Option.map_eq_some_iff.mp item
    rfl
  · rename_i other
    rw [if_neg other] at num
    exact absurd num other

/-! ## What a work item's end does -/

/-- Nothing but the partitions' record differs. -/
def PtOnly (s t : State) : Prop := ∃ pt, t = { s with pt := pt }

theorem PtOnly.refl (s : State) : PtOnly s s := ⟨s.pt, rfl⟩

theorem PtOnly.trans (h : PtOnly s t) (h' : PtOnly t u) : PtOnly s u := by
  obtain ⟨_, rfl⟩ := h
  obtain ⟨pt, rfl⟩ := h'
  exact ⟨pt, rfl⟩

theorem State.charge_only (s : State) (p i m n unit : Nat) : PtOnly s (s.charge p i m n unit) := by
  unfold State.charge
  split
  · split
    · exact PtOnly.refl s
    · exact ⟨_, rfl⟩
  · exact PtOnly.refl s

theorem State.chargeOwn_only (s : State) (o : Own) (m n unit : Nat) : PtOnly s (s.chargeOwn o m n unit) := by
  unfold State.chargeOwn
  dsimp only
  generalize (s.chargedTo o).2.zip (shares n (s.chargedTo o).2.length) = es
  generalize (s.chargedTo o).1 = p
  induction es generalizing s with
  | nil => exact PtOnly.refl s
  | cons e es ih =>
    rw [List.foldl_cons]
    refine PtOnly.trans ?_ (ih _)
    split
    · exact State.charge_only ..
    · exact PtOnly.refl s

/-- The time a work item has held its brick is charged. -/
theorem State.chargeBrick_eq (run : (s.brick n).run = some r) (c : Nat) : ∃ pt, s.chargeBrick n c
    = ({ s with pt := pt } : State).setBrick n { s.brick n with run := some { r with start := max r.start c } } := by
  unfold State.chargeBrick
  dsimp only
  rw [run]
  obtain ⟨pt, only⟩ := s.chargeOwn_only r.own 0 (c - r.start) (max 1 (s.getF (F.KLN_CLK_CUR_MHZ.nth (n / 1344))))
  exact ⟨pt, by dsimp only; rw [only]⟩

theorem State.landRegs_of_none (pend : (s.brick n).pend = []) : s.landRegs n = s.setBrick n { s.brick n with pend := [] } := by
  unfold State.landRegs
  dsimp only
  rw [pend]
  simp only [List.filter_nil, List.mergeSort_nil, List.foldl_nil]

/-- A brick freed: its partition may lose it. -/
theorem State.brickFreed_only (s : State) (n : Nat) : ∃ pt ug, s.brickFreed n = { s with pt := pt, unitGen := ug } := by
  unfold State.brickFreed
  split
  · exact ⟨_, _, rfl⟩
  · split
    · exact ⟨_, _, rfl⟩
    · exact ⟨_, _, rfl⟩

/-- Brick `n` has become `b`, and nothing else differs but what partitions are charged. -/
structure BrickNow (n : Nat) (b : Brick) (s t : State) : Prop where
  only : ∃ pt br, t = { s with pt := pt, br := br }
  sorted : smSorted t.br = true
  brick : t.brick n = b

theorem BrickNow.set {b' : Brick} (h : BrickNow n b s t) : BrickNow n b' s (t.setBrick n b') := by
  obtain ⟨⟨pt, br, only⟩, sorted, -⟩ := h
  refine ⟨⟨pt, (t.setBrick n b').br, by rw [only]; rfl⟩, State.sorted_setBrick sorted n b', State.brick_setBrick_same sorted n b'⟩

theorem BrickNow.charge (h : BrickNow n b s t) (run : b.run = some r) (c : Nat) :
    BrickNow n { b with run := some { r with start := max r.start c } } s (t.chargeBrick n c) := by
  obtain ⟨pt', charged⟩ := State.chargeBrick_eq (s := t) (n := n) (by rw [h.brick]; exact run) c
  obtain ⟨⟨pt, br, only⟩, sorted, brick⟩ := h
  rw [charged, brick]
  have paid : BrickNow n b s { t with pt := pt' } := ⟨⟨pt', br, by rw [only]⟩, sorted, brick⟩
  exact paid.set

/-- The state in which a work item that may end is found: its time is charged, and its core stands still. -/
theorem State.end_charged (sorted : smSorted s.br = true) (run : (s.brick n).run = some r) (stop : r.stopAt = none) (jobs : (s.brick n).jobs = [])
    (pend : (s.brick n).pend = []) (c k : Nat) : ∃ b, b.run = some { r with start := max r.start c }
      ∧ BrickNow n b s (((((s.runTo n c).chargeBrick n c).setBrick n { ((s.runTo n c).chargeBrick n c).brick n with clk := k }).landRegs n).trap n) := by
  have going : s.unstopped n := by
    rw [State.unstopped, run]
    exact stop
  have still : BrickNow n (s.brick n) s s := ⟨⟨s.pt, s.br, rfl⟩, sorted, rfl⟩
  have ran : BrickNow n { s.brick n with now := max (s.brick n).now c } s (s.runTo n c) := by
    rw [State.runTo_of_none sorted going jobs]
    exact still.set
  have charged := ran.charge (r := r) run c
  have clocked := charged.set (b' := { ((s.runTo n c).chargeBrick n c).brick n with clk := k })
  rw [charged.brick] at clocked
  have landed := clocked.set (b' := { ((((s.runTo n c).chargeBrick n c).setBrick n
    { ((s.runTo n c).chargeBrick n c).brick n with clk := k }).brick n) with pend := [] })
  rw [charged.brick, clocked.brick] at landed
  rw [charged.brick, State.landRegs_of_none (by rw [clocked.brick]; exact pend), clocked.brick,
    State.trap_of_unstopped (by rw [State.unstopped, landed.brick]; exact stop)]
  exact ⟨_, rfl, landed⟩

end

end Sys2Proof.Machine

/-! SUPPORT. The clause of O35 on the end of a work item (R148, R149, R515). -/

namespace Sys2Proof.Machine

section
variable {s t u : State} {n c k : Nat} {r q : BRun} {b : Brick}

/-- Nothing but commands and steps differs, and steps have the items they had. -/
structure WorkOnly (s t : State) : Prop where
  only : ∃ qu sv, t = { s with qu := qu, sv := sv }
  items : ItemsAlike s t

theorem WorkOnly.refl (s : State) : WorkOnly s s := ⟨⟨s.qu, s.sv, rfl⟩, rfl⟩

theorem WorkOnly.fail (h : WorkOnly s t) (o : Own) (status : Nat) : WorkOnly s (t.workFail o status) := by
  obtain ⟨only, items⟩ := t.workFail_only o status
  refine ⟨?_, h.items.trans items⟩
  obtain ⟨⟨_, _, rfl⟩, -⟩ := h
  obtain ⟨qu, sv, e⟩ := only
  exact ⟨qu, sv, e⟩

/-- What a work item that ends has done wrong: streams left over, and hazards. -/
def State.endFails (s : State) (n : Nat) (r q : BRun) : State :=
  let s1 := if (s.brick n).fifos.all fun f => f = [] then s else s.workFail r.own 0x0A03
  if q.hazard then s1.workFail r.own St.hazardObserved else s1

theorem State.endFails_only (s : State) (n : Nat) (r q : BRun) : WorkOnly s (s.endFails n r q) := by
  unfold State.endFails
  extract_lets s1
  have first : WorkOnly s s1 := by
    unfold s1
    split
    · exact WorkOnly.refl s
    · exact (WorkOnly.refl s).fail _ _
  split
  · exact first.fail _ _
  · exact first

/-- The item is over and its brick is free. -/
def State.workEnded (s : State) (n c : Nat) (r : BRun) (b : Brick) : State :=
  ((s.setBrick n { b.flush with clk := c + 1 }).itemOver r).brickFreed n

theorem State.workEnded_facts (sorted : smSorted s.br = true) (c : Nat) (r : BRun) (b : Brick) :
    (s.workEnded n c r b).brick n = { b.flush with clk := c + 1 } ∧ (s.workEnded n c r b).regs = s.regs
      ∧ ∀ x ∈ (s.workEnded n c r b).sv.steps, x.num = r.step → ∀ it, x.items[r.item]? = some it → it.ended = true := by
  obtain ⟨pt, ug, freed⟩ := (((s.setBrick n { b.flush with clk := c + 1 }).itemOver r)).brickFreed_only n
  rw [State.workEnded, freed]
  exact ⟨State.brick_setBrick_same sorted n _, rfl, fun x hx num it item => State.itemOver_ended _ r hx num item⟩

/-- The generation that the step builder found when it placed the item. -/
def State.placedGen (s : State) (r : BRun) : Option Nat :=
  ((s.sv.steps.find? fun x => x.num = r.step).bind fun x => x.items[r.item]?).map fun i => i.gen

/-- The end of a work item: its brick is kept if it is as the step builder found it. -/
def State.endBrick (s : State) (n c : Nat) (r : BRun) (b : Brick) (kept : Bool) : State :=
  if kept then s.workEnded n c r b
  else ((s.workEnded n c r b).setUnit .brk n 5).msgQuarantine .brk 0 n St.unitStateMismatch 0 0 r.step

/-- A brick is quarantined: it is unavailable, and the message to firmware changes neither bricks nor steps. -/
theorem State.quarantined_facts (hn : n < 10752) (wf : s.RegsWf) (m : Msg) : ((s.setUnit .brk n 5).f2h 0 m).brick n = s.brick n
    ∧ ((s.setUnit .brk n 5).f2h 0 m).sv = s.sv ∧ ((s.setUnit .brk n 5).f2h 0 m).unit .brk n = 5 := by
  have unit : (s.setUnit .brk n 5).unit .brk n = 5 := State.unit_setUnit wf .brk n 5
  have br := s.setUnit_br .brk n 5
  have sv := s.setUnit_sv .brk n 5
  generalize s.setUnit .brk n 5 = t at *
  have vector : ¬ regKey F.LNT_IVEC_PENDING.addr (chanSource 0) 0 = regKey (hdrF .brk 0x0C 31 28).addr n 0 :=
    regKey_ne_addr (by decide) (by decide) (by omega) (by decide) (by decide)
  have kept : RegsSame (fun k => k = regKey (hdrF .brk 0x0C 31 28).addr n 0) t (t.f2h 0 m) :=
    RegsSame.f2h (c := 0) (RegsSame.refl t) (by exact vector) m
  obtain ⟨⟨g, mem, synd, tr, ln, out, sent⟩, -⟩ := t.f2h_sends 0 m
  refine ⟨State.brick_of_br ?_ n, ?_, ?_⟩
  · rw [sent]
    exact br
  · rw [sent]
    exact sv
  · rw [State.unit] at unit ⊢
    rw [kept.getF rfl, unit]

/-- Of a brick that ends its work item the run and the state: the quarantine message reaches neither. -/
theorem State.endBrick_facts (sorted : smSorted s.br = true) (wf : s.RegsWf) (hn : n < 10752) (c : Nat) (r : BRun) (b : Brick) (kept : Bool)
    (unit : kept = true → s.unit .brk n = 3) :
    (s.endBrick n c r b kept).brick n = { b.flush with clk := c + 1 } ∧ (s.endBrick n c r b kept).unit .brk n = (if kept then 3 else 5)
      ∧ ∀ x ∈ (s.endBrick n c r b kept).sv.steps, x.num = r.step → ∀ it, x.items[r.item]? = some it → it.ended = true := by
  obtain ⟨brick, regs, items⟩ := s.workEnded_facts (n := n) sorted c r b
  cases kept with
  | true =>
    refine ⟨brick, ?_, items⟩
    rw [if_pos rfl, ← unit rfl]
    change (s.workEnded n c r b).getF _ n = _
    rw [State.getF, State.reg, regs]
    rfl
  | false =>
    obtain ⟨m, eq⟩ : ∃ m, s.endBrick n c r b false = ((s.workEnded n c r b).setUnit .brk n 5).f2h 0 m := by
      rw [State.endBrick, if_neg Bool.false_ne_true, State.msgQuarantine]
      exact ⟨_, rfl⟩
    obtain ⟨brick', items', unit'⟩ := State.quarantined_facts hn (s := s.workEnded n c r b) (by rw [State.RegsWf, regs]; exact wf) m
    rw [eq]
    exact ⟨brick'.trans brick, unit', by rw [items']; exact items⟩

/-- The clause of O35 on the end of a work item. -/
theorem workItemEnd_ends (sorted : smSorted s.br = true) (hs : s.Canonical) (hn : n < 10752) (run : (s.brick n).run = some r)
    (ended : r.ended = true) (stop : r.stopAt = none) (jobs : (s.brick n).jobs = []) (pend : (s.brick n).pend = [])
    (holds : ∀ k, k < 6 → (s.brick n).condHolds (c + 1) k = true) (clk : (s.brick n).clk ≤ c + 1) :
    ∃ t, exec (.workItemEnd n c) s = .next t ∧ (∃ b : Brick, t.brick n = { b.flush with clk := c + 1 })
      ∧ (∀ x ∈ t.sv.steps, x.num = r.step → ∀ it, x.items[r.item]? = some it → it.ended = true)
      ∧ t.unit .brk n = if s.placedGen r = some (s.genOf .brk n) ∧ s.unit .brk n = 3 then 3 else 5 := by
  have going : s.unstopped n := by
    rw [State.unstopped, run]
    exact stop
  have ran : (s.runTo n (c + 1)).brick n = { s.brick n with now := max (s.brick n).now (c + 1) } := by
    rw [State.runTo_of_none sorted going jobs]
    exact State.brick_setBrick_same sorted n _
  obtain ⟨b, item, ⟨⟨pt, br, only⟩, sorted', brick⟩⟩ := State.end_charged sorted run stop jobs pend (c + 1) (max (s.brick n).clk (c + 34))
  generalize charged : ((((s.runTo n (c + 1)).chargeBrick n (c + 1)).setBrick n { ((s.runTo n (c + 1)).chargeBrick n (c + 1)).brick n with
    clk := max (s.brick n).clk (c + 34) }).landRegs n).trap n = v at only sorted' brick
  have may : (r.ended && ((List.range 6).all fun k => ({ s.brick n with now := max (s.brick n).now (c + 1) } : Brick).condHolds (c + 1) k)
      && decide ((s.brick n).clk ≤ c + 1)) = true := by
    rw [ended, decide_eq_true clk, Bool.true_and, Bool.and_true, List.all_eq_true]
    exact fun k hk => holds k (List.mem_range.mp hk)
  obtain ⟨⟨qu, sv, failed⟩, items⟩ := v.endFails_only n r { r with start := max r.start (c + 1) }
  have eq : exec (.workItemEnd n c) s = .next ((v.endFails n r { r with start := max r.start (c + 1) }).endBrick n c r b
      (decide (s.placedGen r = some (s.genOf .brk n) ∧ s.unit .brk n = 3))) := by
    have placed : (v.endFails n r { r with start := max r.start (c + 1) }).placedGen r = s.placedGen r := by
      rw [State.placedGen, items.item, only]
      rfl
    change execWorkItemEnd n c s = _
    unfold execWorkItemEnd
    dsimp only
    rw [ran, run]
    dsimp only
    rw [if_pos may, charged, brick, item]
    dsimp only
    have fails : v.endFails n r { r with start := max r.start (c + 1) }
        = if r.hazard then (if b.fifos.all fun f => f = [] then v else v.workFail r.own 0x0A03).workFail r.own St.hazardObserved
          else if b.fifos.all fun f => f = [] then v else v.workFail r.own 0x0A03 := by
      rw [State.endFails, brick]
    rw [← fails]
    have same : (decide ((v.endFails n r { r with start := max r.start (c + 1) }).placedGen r = some (v.genOf .brk n))
        && decide (v.unit .brk n = 3)) = decide (s.placedGen r = some (s.genOf .brk n) ∧ s.unit .brk n = 3) := by
      rw [placed, only, Bool.decide_and]
      rfl
    rw [State.endBrick, ← same]
    rfl
  rw [eq]
  obtain ⟨brick', unit', items'⟩ := (v.endFails n r { r with start := max r.start (c + 1) }).endBrick_facts (n := n) (by rw [failed]; exact sorted')
    (by rw [failed, only]; exact hs.1) hn c r b (decide (s.placedGen r = some (s.genOf .brk n) ∧ s.unit .brk n = 3)) fun kept => by
      rw [failed, only]
      exact (of_decide_eq_true kept).2
  refine ⟨_, rfl, ⟨b, brick'⟩, items', ?_⟩
  rw [unit']
  simp only [decide_eq_true_eq]

end

end Sys2Proof.Machine

/-! SUPPORT. A work item reads memory at rest: the bytes that stand there are delivered, and what passing slabs and regulators costs leaves
memory, banks and bricks as they are (R253, R279, R285). -/

namespace Sys2Proof.Machine

section
variable {s t u : State} {n c k a : Nat} {r q : BRun} {b : Brick} {x : YLine}

/-- No copy that the Yard holds of a line has a fault. -/
def State.LinesClean (s : State) : Prop := ∀ x ∈ s.yd.lines, x.errs = []

/-- Lines have come and gone, bytes have been charged, and registers have counted: memory, banks and bricks are as they were, and the Yard's
copies are clean. -/
structure PassedOnly (s t : State) : Prop where
  mem : t.mem = s.mem
  synd : t.synd = s.synd
  br : t.br = s.br
  bk : t.bk = s.bk
  clean : t.LinesClean

theorem PassedOnly.refl (h : s.LinesClean) : PassedOnly s s := ⟨rfl, rfl, rfl, rfl, h⟩

theorem PassedOnly.oweAck (h : PassedOnly s t) (o : Own) (k : Nat) : PassedOnly s (t.oweAck o k) := by
  unfold State.oweAck
  split
  · exact h
  · exact ⟨h.mem, h.synd, h.br, h.bk, h.clean⟩
  · exact ⟨h.mem, h.synd, h.br, h.bk, h.clean⟩

theorem PassedOnly.moved (h : PassedOnly s t) (o : Own) (p r k : Nat) : PassedOnly s (t.moved o p r k) := by
  unfold State.moved
  extract_lets x u
  have paid : PassedOnly s x.2 := ⟨h.mem, h.synd, h.br, h.bk, h.clean⟩
  clear_value x
  split
  · exact paid
  · have counted : PassedOnly s u := ⟨paid.mem, paid.synd, paid.br, paid.bk, paid.clean⟩
    clear_value u
    refine PassedOnly.oweAck ?_ o 1
    exact ⟨counted.mem, counted.synd, counted.br, counted.bk, counted.clean⟩

theorem PassedOnly.putLine (h : PassedOnly s t) (hx : x.errs = []) : PassedOnly s (t.putLine x) := by
  refine ⟨h.mem, h.synd, h.br, h.bk, fun y hy => ?_⟩
  rcases List.mem_append.mp hy with hy | hy
  · exact h.clean y (List.mem_of_mem_filter hy)
  · rw [List.mem_singleton.mp hy]
    exact hx

/-- A clean line leaves the Yard. -/
theorem PassedOnly.lineOut (h : PassedOnly s t) (hx : x.errs = []) : PassedOnly s (t.lineOut x) := by
  have gone : PassedOnly s { t with yd := { t.yd with lines := t.yd.lines.filter fun y => y.line ≠ x.line } } :=
    ⟨h.mem, h.synd, h.br, h.bk, fun y hy => h.clean y (List.mem_of_mem_filter hy)⟩
  unfold State.lineOut
  extract_lets u
  rw [hx]
  split
  · exact gone
  · exact gone.moved _ _ _ _

theorem State.victim_mem {p : Nat} {ways : List YLine} (h : s.victim p ways = some x) : x ∈ ways := by
  unfold State.victim at h
  dsimp only at h
  split at h
  · exact List.mem_of_find?_eq_some h
  · exact List.mem_of_find?_eq_some h

/-- A clean line is allocated, another leaving where its set is full. -/
theorem PassedOnly.allocLine (h : PassedOnly s t) (hx : x.errs = []) : PassedOnly s (t.allocLine x).2 := by
  unfold State.allocLine
  extract_lets sets ways
  split
  · exact h
  · split
    · exact h.putLine hx
    · split
      · rename_i v found
        exact (h.lineOut (h.clean v (List.mem_of_mem_filter (State.victim_mem found)))).putLine hx
      · exact h

/-- A read passes a line. -/
theorem PassedOnly.lineRead (h : PassedOnly s t) (part line : Nat) (ks : List Nat) (remote : Bool) : PassedOnly s (t.lineRead part line ks remote) := by
  unfold State.lineRead
  extract_lets slab ph
  split
  · rename_i y found
    extract_lets u v
    have clean : y.errs = [] := h.clean y (List.mem_of_find?_eq_some found)
    have hit : PassedOnly s u := PassedOnly.putLine (t := t.bumpW F.YRD_HITS_COUNT 1 ph) ⟨h.mem, h.synd, h.br, h.bk, h.clean⟩ clean
    have used : PassedOnly s v := by
      unfold v
      split
      · exact ⟨hit.mem, hit.synd, hit.br, hit.bk, hit.clean⟩
      · exact hit
    rw [if_pos clean]
    exact used
  · have missed : PassedOnly s (t.bumpW F.YRD_MISSES_COUNT 1 ph) := ⟨h.mem, h.synd, h.br, h.bk, h.clean⟩
    split
    · exact missed
    · exact missed.allocLine rfl

theorem PassedOnly.foldl {β : Type} {f : State → β → State} (step : ∀ t e, PassedOnly s t → PassedOnly s (f t e)) (es : List β)
    (h : PassedOnly s t) : PassedOnly s (es.foldl f t) := by
  induction es generalizing t with
  | nil => exact h
  | cons e es ih => exact ih (step t e h)

theorem PassedOnly.passReads (h : PassedOnly s t) (part a k : Nat) : PassedOnly s (t.passLines part 0 a k) := by
  unfold State.passLines
  extract_lets ga
  refine PassedOnly.foldl (fun u line hu => ?_) _ h
  extract_lets ks
  rw [if_pos rfl]
  exact hu.lineRead part line ks false

/-- What a read by a piece of work costs. -/
theorem PassedOnly.traffic (h : PassedOnly s t) (o : Own) (part a k : Nat) : PassedOnly s (t.traffic o part 0 a k) := by
  obtain ⟨pt, charged⟩ := t.chargeOwn_only o 2 k 65536
  unfold State.traffic
  extract_lets u
  have paid : PassedOnly s u := by
    unfold u
    rw [charged]
    exact ⟨h.mem, h.synd, h.br, h.bk, h.clean⟩
  clear_value u
  split
  · exact paid
  · split
    · exact ((paid.passReads _ _ _).moved _ _ _ _).moved _ _ _ _
    · split
      · exact paid.moved _ _ _ _
      · exact paid

/-! ## Loads -/

theorem State.asServed_of_atRest (h : s.atRest) : s.asServed = s := by
  obtain ⟨-, runs, queued, -, -⟩ := h
  rw [State.asServed, runs, queued]
  rfl

theorem State.mergeOf_of_empty (h : s.bk.merge = []) (a : Nat) : s.mergeOf a = none := by rw [State.mergeOf, h]; rfl

/-- A read of memory at rest whose words are good. -/
theorem State.readB_facts (hs : s.Canonical) (still : s.atRest) {len : Nat} (ok : s.anyBad a len = false) :
    (s.readB a len).1 = s.okBytes a len ∧ (s.readB a len).2.1 = false ∧ ReadsAs s (s.readB a len).2.2 ∧ (s.readB a len).2.2.br = s.br
      ∧ (s.readB a len).2.2.atRest := by
  have merge := still.1
  have words : ∀ w ∈ wordsOf a len, (s.ecc w).bad = false := by
    simpa only [State.anyBad, List.any_eq_false, Bool.not_eq_true] using ok
  obtain ⟨reads, only, br⟩ := State.checkWords_facts ((wordsOf a len).filter fun w => !s.wordMerged w && s.syndOf w = s.syndOf w) hs
    fun w hw => words w (List.mem_of_mem_filter hw)
  unfold State.readB
  rw [State.asServed_of_atRest still]
  dsimp only
  refine ⟨?_, ?_, reads, br, ?_⟩
  · refine List.map_congr_left fun k _ => ?_
    rw [State.mergedByte, State.mergeOf_of_empty merge]
  · rw [List.any_eq_false]
    intro w hw
    rw [State.wordBad, words w hw, Bool.false_and]
    exact Bool.false_ne_true
  · obtain ⟨_, _, _, _, _, _, _, e⟩ := only
    rw [e]
    exact still

/-- A piece of work loads good words at rest. -/
structure LoadKept (s t : State) : Prop where
  reads : ReadsAs s t
  br : t.br = s.br
  rest : t.atRest

theorem LoadKept.refl (hs : s.Canonical) (still : s.atRest) : LoadKept s s := ⟨ReadsAs.refl hs, rfl, still⟩

theorem LoadKept.loadFor (h : LoadKept s t) (o : Own) {len : Nat} (ok : s.anyBad a len = false) :
    (t.loadFor o a len).1 = s.okBytes a len ∧ (t.loadFor o a len).2.1 = false ∧ LoadKept s (t.loadFor o a len).2.2 := by
  obtain ⟨mem, synd, br, bk, clean⟩ := (PassedOnly.refl (s := t) h.rest.2.2.2.2).traffic o (t.partOf o) a len
  have canonical : (t.traffic o (t.partOf o) 0 a len).Canonical := State.traffic_keeps canonical_stable h.reads.canonical
  unfold State.loadFor
  generalize t.traffic o (t.partOf o) 0 a len = u at *
  have reads : ReadsAs s u := h.reads.keep canonical mem synd
  have still : u.atRest := by
    obtain ⟨merge, runs, queued, work, -⟩ := h.rest
    rw [State.atRest, bk]
    exact ⟨merge, runs, queued, work, clean⟩
  obtain ⟨bytes, good, reads', br', still'⟩ := State.readB_facts canonical still ((reads.anyBad a len).trans ok)
  exact ⟨bytes.trans (reads.okBytes a len), good, reads.trans reads', br'.trans (br.trans h.br), still'⟩

end

end Sys2Proof.Machine

/-! SUPPORT. The data memory and the registers that a work item starts with (R149, R151). -/

namespace Sys2Proof.Machine

section
variable {b : Brick} {bs : List Byte} {k o : Nat}

/-! ## Data memory -/

/-- Every byte written stands where it was put. -/
theorem Brick.smGet_dataPut (hm : smSorted b.dmem = true) (hk : k < bs.length) :
    smGet (fun _ => 0) (b.dataPut o bs).dmem (o + k) = bs[k] := by
  refine smGet_foldl_smSet_of_eq (key := fun e : Byte × Nat => o + e.2) hm (fun e he same => ?_) ⟨(bs[k], k), ?_, rfl⟩
  · have at_k : e.2 = k := Nat.add_left_cancel same
    have entry := List.mem_zipIdx_iff_getElem?.mp he
    rw [at_k, List.getElem?_eq_getElem hk] at entry
    exact (Option.some.inj entry).symm
  · exact List.mem_zipIdx_iff_getElem?.mpr (List.getElem?_eq_getElem hk)

/-- Below where bytes are written, data memory stays. -/
theorem Brick.smGet_dataPut_below (hk : k < o) : smGet (fun _ => 0) (b.dataPut o bs).dmem k = smGet (fun _ => 0) b.dmem k :=
  smGet_foldl_smSet_of_ne fun _ _ same => absurd same (by omega)

/-- What has been written is read. -/
theorem Brick.data_dataPut (hm : smSorted b.dmem = true) : (b.dataPut o bs).data o bs.length = bs := by
  refine List.ext_getElem (by simp [Brick.data]) fun k hk hk' => ?_
  simp only [Brick.data, List.getElem_map, List.getElem_range]
  exact Brick.smGet_dataPut hm hk'

/-- Data memory as a routine set's data bytes are loaded into it. -/
def loadedData (bs : List Byte) : List (Nat × Byte) := ((bs.zipIdx).filter fun e => e.1 ≠ 0).map fun e => (e.2, e.1)

theorem mem_loadedData {e : Nat × Byte} : e ∈ loadedData bs ↔ bs[e.1]? = some e.2 ∧ e.2 ≠ 0 := by
  simp only [loadedData, List.mem_map, List.mem_filter, Prod.exists, List.mem_zipIdx_iff_getElem?, decide_eq_true_eq]
  constructor
  · rintro ⟨v, i, ⟨entry, some⟩, rfl⟩
    exact ⟨entry, some⟩
  · intro h
    exact ⟨e.2, e.1, h, rfl⟩

/-- A list with rising keys is sorted. -/
theorem smSorted_of_pairwise {α : Type} {m : List (Nat × α)} (h : m.Pairwise fun e e' => e.1 < e'.1) : smSorted m = true := by
  induction m with
  | nil => rfl
  | cons e m ih =>
    obtain ⟨above, rest⟩ := List.pairwise_cons.mp h
    exact smSorted_cons.mpr ⟨above, ih rest⟩

theorem smSorted_loadedData (bs : List Byte) : smSorted (loadedData bs) = true := by
  have rising : (bs.zipIdx).Pairwise fun e e' => e.2 < e'.2 := by
    rw [List.pairwise_iff_getElem]
    intro i j hi hj below
    simpa using below
  exact smSorted_of_pairwise (List.pairwise_map.mpr (rising.filter _))

theorem smGet_loadedData (hk : k < bs.length) : smGet (fun _ => 0) (loadedData bs) k = bs[k] := by
  by_cases zero : bs[k] = 0
  · rw [zero]
    refine smGet_of_not_mem fun e he same => ?_
    obtain ⟨entry, some⟩ := mem_loadedData.mp he
    rw [same, List.getElem?_eq_getElem hk, zero] at entry
    exact some (Option.some.inj entry).symm
  · exact smGet_of_mem (smSorted_loadedData bs) (e := (k, bs[k])) (mem_loadedData.mpr ⟨List.getElem?_eq_getElem hk, zero⟩)

/-! ## The brick as the work item starts -/

theorem length_recB (len : Nat) (fs : List (Nat × Nat × Nat)) : (recB len fs).length = len := by simp [recB]

theorem length_workDesc (set routine step : Nat) (args : List Nat) : (workDesc set routine step args).length = 64 := length_recB 64 _

/-- `x1` to `x3` as a work item starts on the logical brick `l` for partition `part`. -/
def startRegs (l part : Nat) : List (Nat × Nat) := [(1, 0xFFC0), (2, l), (3, part)].filter fun e => e.2 ≠ 0

/-- A brick's data memory with the work descriptor `desc` and its syndromes. -/
def Brick.described (b : Brick) (desc : List Byte) : Brick :=
  (List.range 8).foldl (fun c k => c.dataSynd (0xFFC0 + 8 * k) 0) (b.dataPut 0xFFC0 desc)

/-- The brick on which the work item `r` starts at cycle `c` of its core `wait` cycles later, at `entry`. -/
def Brick.started (b : Brick) (r : BRun) (l c wait entry : Nat) (desc : List Byte) : Brick :=
  { b.described desc with
    run := some r, x := startRegs l r.part, xOrder := [], pend := [], pc := entry, order := 1, now := max (b.described desc).now c
    clk := c + wait + 40 }

theorem Brick.described_only (b : Brick) (desc : List Byte) : ∃ y, b.described desc = { b.dataPut 0xFFC0 desc with dsynd := y } := by
  unfold Brick.described
  generalize b.dataPut 0xFFC0 desc = d
  induction List.range 8 generalizing d with
  | nil => exact ⟨_, rfl⟩
  | cons k ks ih =>
    obtain ⟨y, eq⟩ := ih (d.dataSynd (0xFFC0 + 8 * k) 0)
    exact ⟨y, eq⟩

variable {r : BRun} {l c wait entry : Nat} {desc : List Byte}

theorem Brick.started_dmem : (b.started r l c wait entry desc).dmem = (b.dataPut 0xFFC0 desc).dmem := by
  obtain ⟨y, eq⟩ := b.described_only desc
  rw [Brick.started, eq]

/-- A started brick holds the routine set it held. -/
theorem Brick.started_code : (b.started r l c wait entry desc).code = b.code := by
  obtain ⟨y, eq⟩ := b.described_only desc
  rw [Brick.started, eq]
  rfl

theorem Brick.started_held : (b.started r l c wait entry desc).held = b.held := by
  obtain ⟨y, eq⟩ := b.described_only desc
  rw [Brick.started, eq]
  rfl

/-! ## The registers of a started brick -/

theorem smGet_startRegs (l part : Nat) : smGet (fun _ => 0) (startRegs l part) 1 = 0xFFC0 ∧ smGet (fun _ => 0) (startRegs l part) 2 = l
    ∧ smGet (fun _ => 0) (startRegs l part) 3 = part := by
  unfold startRegs
  by_cases brickZero : l = 0 <;> by_cases partZero : part = 0 <;> simp [smGet, brickZero, partZero]

theorem Brick.started_readX1 : (b.started r l c wait entry desc).readX 1 = 0xFFC0 := (smGet_startRegs l r.part).1

theorem Brick.started_readX2 : (b.started r l c wait entry desc).readX 2 = l := (smGet_startRegs l r.part).2.1

theorem Brick.started_readX3 : (b.started r l c wait entry desc).readX 3 = r.part := (smGet_startRegs l r.part).2.2

theorem Brick.started_readX_above {q : Nat} (hq : 4 ≤ q) : (b.started r l c wait entry desc).readX q = 0 := by
  have other : smGet (fun _ => 0) (startRegs l r.part) q = 0 := smGet_of_not_mem fun e he same => by
    have := List.mem_of_mem_filter he
    simp only [List.mem_cons, List.not_mem_nil, or_false] at this
    rcases this with rfl | rfl | rfl <;> omega
  rw [Brick.readX]
  exact (if_neg (by omega)).trans other

/-! ## The data memory of a started brick -/

/-- The work descriptor stands at its top. -/
theorem Brick.started_desc (hm : smSorted b.dmem = true) (len : desc.length = 64) :
    (b.started r l c wait entry desc).data 0xFFC0 64 = desc := by
  rw [Brick.data, Brick.started_dmem, ← len]
  exact Brick.data_dataPut hm

theorem Brick.started_below (hk : k < 0xFFC0) :
    smGet (fun _ => 0) (b.started r l c wait entry desc).dmem k = smGet (fun _ => 0) b.dmem k := by
  rw [Brick.started_dmem]
  exact Brick.smGet_dataPut_below hk

end

end Sys2Proof.Machine

/-! SUPPORT. The start of a work item: its routine set is loaded where the brick does not hold it, and the item starts at its routine's entry
(R149, R151). -/

namespace Sys2Proof.Machine

section
variable {s t u : State} {num item c n l : Nat} {x : StepRun} {it : WItem}

/-- Item `item` of step `num` may start at cycle `c` on brick `n`, the logical brick `l`: it is idle, ready and of the pool, and the item
declares no resident copies. -/
structure StartMay (s : State) (num item c n l : Nat) (x : StepRun) (it : WItem) : Prop where
  step : s.sv.steps.find? (fun x => x.num = num) = some x
  item : x.items[item]? = some it
  brick : it.brick = some l
  phys : s.physOf l = some n
  fresh : it.ended = false
  idle : (s.brick n).run = none
  now : (s.brick n).now ≤ c
  clearing : s.pt.clearing.contains n = false
  quiet : s.quiesced .brk n = false
  ready : s.unit .brk n = 3
  pool : s.holdsBrick x.part l = true
  residents : it.item.residents = []
  coming : s.residentsComing n = false

/-- The run of an item as it starts. -/
def StepRun.starts (x : StepRun) (it : WItem) (num item c : Nat) : BRun :=
  { step := num, item := item, seqs := it.seqs, part := x.part, trap := x.trap, start := c }

/-- The routine set that a brick starts with: the one it holds, or the one loaded now. -/
def State.setToRun (s : State) (n : Nat) (r : BRun) (set gen ga : Nat) : Nat × Nat × State :=
  if s.holdsSet n set gen then (0, 0, s) else s.loadSet n r set gen ga

theorem StartMay.admits (may : StartMay s num item c n l x it) :
    ¬ (it.ended || (s.brick n).run.isSome || s.pt.clearing.contains n || s.quiesced .brk n || decide (s.unit .brk n ≠ 3)
      || decide (c < (s.brick n).now) || !s.holdsBrick x.part l) = true := by
  rw [may.fresh, may.idle, may.clearing, may.quiet, may.ready, may.pool, decide_eq_false (Nat.not_lt.mpr may.now)]
  decide

/-- The item, once its routine set is known: it starts where the set and the entry are good, and fails otherwise. -/
def State.startItem (s : State) (n : Nat) (r : BRun) (l : Nat) (it : WItem) (c : Nat) : Option (Nat × Nat × Nat) → State
  | none => s.routineAbsent n r
  | some (_, ga, gen) =>
    let m := s.setToRun n r it.item.set gen ga
    let b := m.2.2.brick n
    let entry := b.entries.getD it.item.routine (2 ^ 13)
    if m.1 = 0x0A05 || (m.1 = 0 && 2 ^ 13 ≤ entry) then m.2.2.routineAbsent n r
    else if m.1 ≠ 0 && m.1 ≠ St.poisonConsumed then (m.2.2.workFail r.own m.1).itemOver r
    else
      let t := m.2.2.setBrick n (b.started r l c m.2.1 entry (workDesc it.item.set it.item.routine r.step it.args))
      if m.1 = 0 then t else t.masonPoison n (some (localOf ga))

/-- An item that may start is started by its routine set's entry in the table. -/
theorem exec_workItemStart (may : StartMay s num item c n l x it) :
    exec (.workItemStart num item c) s = .next (s.startItem n (x.starts it num item c) l it c
      (s.sv.sets.find? fun e => e.1 = x.part * 256 + it.item.set)) := by
  change execWorkItemStart num item c s = _
  unfold execWorkItemStart
  rw [may.step]
  dsimp only
  rw [may.item]
  dsimp only
  rw [may.brick, Option.bind_some, may.phys]
  dsimp only [Option.getD_some]
  rw [if_neg may.admits, may.residents, State.bringResidents, List.foldl_nil]
  dsimp only
  rw [if_neg (by simp), may.coming, if_neg Bool.false_ne_true]
  generalize (s.sv.sets.find? fun e => e.1 = x.part * 256 + it.item.set) = found
  rcases found with _ | ⟨set, ga, gen⟩
  · rfl
  · dsimp only [State.startItem]
    refine Eq.trans ?_ (apply_ite Host.Outcome.next _ _ _).symm
    refine if_congr Iff.rfl rfl (Eq.trans ?_ (apply_ite Host.Outcome.next _ _ _).symm)
    exact if_congr Iff.rfl rfl rfl

/-- An item whose routine set stands in the brick's memories starts. -/
theorem start_runs (may : StartMay s num item c n l x it) {set ga gen wait : Nat}
    (found : s.sv.sets.find? (fun e => e.1 = x.part * 256 + it.item.set) = some (set, ga, gen))
    (loaded : s.setToRun n (x.starts it num item c) it.item.set gen ga = (0, wait, t))
    (entry : (t.brick n).entries.getD it.item.routine (2 ^ 13) < 2 ^ 13) :
    exec (.workItemStart num item c) s = .next (t.setBrick n ((t.brick n).started (x.starts it num item c) l c wait
      ((t.brick n).entries.getD it.item.routine (2 ^ 13)) (workDesc it.item.set it.item.routine num it.args))) := by
  have legal : (decide ((0 : Nat) = 0x0A05) || decide ((0 : Nat) = 0) && decide (2 ^ 13 ≤ (t.brick n).entries.getD it.item.routine (2 ^ 13)))
      = false := by
    rw [decide_eq_false (Nat.not_le.mpr entry)]
    decide
  rw [exec_workItemStart may, found, State.startItem]
  dsimp only
  rw [loaded]
  dsimp only
  rw [legal, if_neg Bool.false_ne_true, if_neg (by simp), if_pos rfl]
  rfl

/-- The work fails and firmware is told: no brick changes. -/
theorem State.routineAbsent_br (s : State) (n : Nat) (r : BRun) : (s.routineAbsent n r).br = s.br := by
  obtain ⟨⟨qu, sv, failed⟩, -⟩ := s.workFail_only r.own 0x0A05
  obtain ⟨⟨regs, mem, synd, tr, ln, out, sent⟩, -⟩ := (((s.workFail r.own 0x0A05).itemOver r).f2h_sends (r.part + 1)
    (mkMsg 0x8010 0 0 0 [(16, 2, 0x0A05), (18, 2, (((s.workFail r.own 0x0A05).itemOver r).logicalOf n).getD 0x3FFF), (20, 2, 0), (24, 8, 0),
      (32, 8, r.step)]))
  rw [State.routineAbsent, State.faultReport, sent]
  change (s.workFail r.own 0x0A05).br = s.br
  rw [failed]

/-! ## Loading the set -/

/-- A word under a range holds a byte of it. -/
theorem exists_of_mem_wordsOf {a k w : Nat} (h : w ∈ wordsOf a k) : ∃ y, a ≤ y ∧ y < a + k ∧ w / 8 = y / 8 := by
  unfold wordsOf at h
  split at h
  · cases h
  · obtain ⟨j, hj, rfl⟩ := List.mem_map.mp h
    have last : a / 8 + j ≤ (a + k - 1) / 8 := by have := List.mem_range.mp hj; omega
    by_cases first : j = 0
    · exact ⟨a, le_rfl, by omega, by omega⟩
    · exact ⟨(a / 8 + j) * 8, by omega, by omega, rfl⟩

/-- Good bytes within good bytes. -/
theorem State.anyBad_of_within {a k b m : Nat} (ok : s.anyBad a k = false) (low : a ≤ b) (high : b + m ≤ a + k) : s.anyBad b m = false := by
  rw [State.anyBad, List.any_eq_false]
  intro w hw
  obtain ⟨y, first, last, word⟩ := exists_of_mem_wordsOf hw
  rw [State.ecc_congr word, State.not_bad_of_anyBad ok (low.trans first) (by omega)]
  exact Bool.false_ne_true

/-- Table 5-10 keeps a set's data bytes below the work descriptor. -/
theorem setHeader_bounds {hdr : List Byte} {cb db rs : Nat} (h : setHeader hdr = some (cb, db, rs)) : db ≤ 0xFFC0 := by
  unfold setHeader at h
  dsimp only at h
  split at h
  · rename_i good
    simp only [Bool.and_eq_true, decide_eq_true_eq] at good
    obtain ⟨⟨⟨⟨⟨⟨⟨⟨⟨-, -⟩, -⟩, bytes⟩, -⟩, -⟩, -⟩, -⟩, -⟩, -⟩ := good
    obtain ⟨rfl, rfl, rfl⟩ : _ = cb ∧ _ = db ∧ _ = rs := by simpa only [Option.some.injEq, Prod.mk.injEq] using h
    exact bytes
  · cases h

/-- The brick with the routine set of code bytes `cs` and data bytes `ds`. -/
def Brick.withSet (b : Brick) (set gen cb rs : Nat) (cs ds : List Byte) : Brick :=
  { b with
    held := some (set, gen), dsynd := [], code := (List.range (cb / 4)).map fun k => fieldB cs (4 * k) 4
    entries := (List.range rs).map fun k => fieldB ds (4 * k) 4, dmem := loadedData ds }

/-- The Yard notes that brick `n` holds the routine set of `len` bytes at the global address `ga`, in place of the one it held. -/
def State.noteSet (s : State) (n ga len : Nat) : State :=
  { s with yd := { s.yd with
      resident := s.yd.resident.filter (fun x => !(x.brick = n && x.routineSet))
        ++ [({ brick := n, base := ga, len := len, routineSet := true } : Resident)] } }

/-- A set in good memory at rest that the item's partition may read is loaded. -/
theorem State.loadSet_loads (sorted : smSorted s.br = true) (hs : s.Canonical) (still : s.atRest) (r : BRun) {set gen ga cb db rs off : Nat}
    (hdr : setHeader (s.okBytes (localOf ga) 64) = some (cb, db, rs)) (at_ : (64 + cb + 63) / 64 * 64 = off)
    (first : (s.sampled r.own).rangeStatus (.part r.part) false (localOf ga) 64 = 0)
    (all : (s.sampled r.own).rangeStatus (.part r.part) false (localOf ga) (off + db) = 0)
    (ok : s.anyBad (localOf ga) (off + db) = false) :
    ∃ t, s.loadSet n r set gen ga = (0, 64 + ((cb + db) * 5 + 255) / 256, t) ∧ smSorted t.br = true ∧ (∀ a, t.okByte a = s.okByte a)
      ∧ t.brick n = (s.brick n).withSet set gen cb rs (s.okBytes (localOf ga + 64) cb) (s.okBytes (localOf ga + off) db) := by
  obtain ⟨bytes, good, kept⟩ := (LoadKept.refl hs still).loadFor r.own (State.anyBad_of_within ok (b := localOf ga) (m := 64) le_rfl (by omega))
  generalize header : s.loadFor r.own (localOf ga) 64 = h at bytes good kept
  obtain ⟨codes, goodCode, kept'⟩ := kept.loadFor r.own (State.anyBad_of_within ok (b := localOf ga + 64) (m := cb) (by omega) (by omega))
  generalize code : h.2.2.loadFor r.own (localOf ga + 64) cb = k at codes goodCode kept'
  obtain ⟨datas, goodData, kept''⟩ := kept'.loadFor r.own (State.anyBad_of_within ok (b := localOf ga + off) (m := db) (by omega) (by omega))
  generalize data : k.2.2.loadFor r.own (localOf ga + off) db = d at datas goodData kept''
  have brick : d.2.2.brick n = s.brick n := State.brick_of_br kept''.br n
  have sorted' : smSorted d.2.2.br = true := by rw [kept''.br]; exact sorted
  have eq : s.loadSet n r set gen ga = (0, 64 + ((cb + db) * 5 + 255) / 256,
      (d.2.2.setBrick n ((d.2.2.brick n).withSet set gen cb rs k.1 d.1)).noteSet n ga (off + db)) := by
    unfold State.loadSet
    dsimp only
    rw [first, header, good, if_neg Bool.false_ne_true, bytes, hdr]
    dsimp only
    rw [at_, all, code, data, goodCode, goodData, Bool.or_false, if_neg Bool.false_ne_true]
    rfl
  refine ⟨_, eq, State.sorted_setBrick sorted' n _, fun a => ?_, ?_⟩
  · exact (State.okByte_congr rfl rfl a).trans (kept''.reads.okByte a)
  · have noted (u : State) : (u.noteSet n ga (off + db)).brick n = u.brick n := rfl
    rw [noted, State.brick_setBrick_same sorted', brick, codes, datas]

/-- A loaded set's table of entries. -/
theorem Brick.withSet_entry (b : Brick) {set gen cb rs k : Nat} {cs ds : List Byte} (hk : k < rs) (none : Nat) :
    (b.withSet set gen cb rs cs ds).entries.getD k none = fieldB ds (4 * k) 4 := by simp [Brick.withSet, hk]

/-- A loaded set's data bytes stand at the bottom of data memory as the work item starts. -/
theorem Brick.started_loaded (b : Brick) {set gen cb rs len : Nat} {cs ds desc : List Byte} {r : BRun} {c wait entry : Nat} (size : ds.length = len)
    (fits : len ≤ 0xFFC0) : ((b.withSet set gen cb rs cs ds).started r l c wait entry desc).data 0 len = ds := by
  refine List.ext_getElem (by simp [Brick.data, size]) fun k hk hk' => ?_
  simp only [Brick.data, List.getElem_map, List.getElem_range, Nat.zero_add]
  exact (Brick.started_below (by omega)).trans (smGet_loadedData hk')

/-- O35, on an item whose routine set the brick holds. -/
theorem start_held (may : StartMay s num item c n l x it) (sorted : smSorted s.br = true) (data : smSorted (s.brick n).dmem = true) {set ga gen : Nat}
    (found : s.sv.sets.find? (fun e => e.1 = x.part * 256 + it.item.set) = some (set, ga, gen)) (holds : s.holdsSet n it.item.set gen = true)
    (entry : (s.brick n).entries.getD it.item.routine (2 ^ 13) < 2 ^ 13) :
    ∃ t, exec (.workItemStart num item c) s = .next t ∧ (t.brick n).run = some (x.starts it num item c) ∧ (t.brick n).clk = c + 40
      ∧ (t.brick n).pc = (s.brick n).entries.getD it.item.routine (2 ^ 13) ∧ (t.brick n).code = (s.brick n).code
      ∧ (t.brick n).readX 1 = 0xFFC0 ∧ (t.brick n).readX 2 = l ∧ (t.brick n).readX 3 = x.part
      ∧ (∀ q, 4 ≤ q → (t.brick n).readX q = 0)
      ∧ (t.brick n).data 0xFFC0 64 = workDesc it.item.set it.item.routine num it.args
      ∧ (∀ k, k < 0xFFC0 → smGet (fun _ => 0) (t.brick n).dmem k = smGet (fun _ => 0) (s.brick n).dmem k)
      ∧ t = { s with br := t.br } := by
  have kept : s.setToRun n (x.starts it num item c) it.item.set gen ga = (0, 0, s) := if_pos holds
  refine ⟨_, start_runs may found kept entry, ?_⟩
  rw [State.brick_setBrick_same sorted]
  exact ⟨rfl, rfl, rfl, Brick.started_code, Brick.started_readX1, Brick.started_readX2, Brick.started_readX3,
    fun _ => Brick.started_readX_above, Brick.started_desc data (length_workDesc _ _ _ _), fun _ => Brick.started_below, rfl⟩

/-- O35, on an item whose routine set is loaded first. -/
theorem start_loads (may : StartMay s num item c n l x it) (sorted : smSorted s.br = true) (hs : s.Canonical) (still : s.atRest)
    {set ga gen cb db rs off : Nat} (found : s.sv.sets.find? (fun e => e.1 = x.part * 256 + it.item.set) = some (set, ga, gen))
    (other : s.holdsSet n it.item.set gen = false) (hdr : setHeader (s.okBytes (localOf ga) 64) = some (cb, db, rs))
    (at_ : (64 + cb + 63) / 64 * 64 = off)
    (first : (s.sampled (x.starts it num item c).own).rangeStatus (.part x.part) false (localOf ga) 64 = 0)
    (all : (s.sampled (x.starts it num item c).own).rangeStatus (.part x.part) false (localOf ga) (off + db) = 0)
    (ok : s.anyBad (localOf ga) (off + db) = false) (routine : it.item.routine < rs)
    (entry : fieldB (s.okBytes (localOf ga + off) db) (4 * it.item.routine) 4 < 2 ^ 13) :
    ∃ t, exec (.workItemStart num item c) s = .next t ∧ (t.brick n).run = some (x.starts it num item c)
      ∧ (t.brick n).pc = fieldB (s.okBytes (localOf ga + off) db) (4 * it.item.routine) 4
      ∧ (t.brick n).clk = c + 64 + ((cb + db) * 5 + 255) / 256 + 40
      ∧ (t.brick n).readX 1 = 0xFFC0 ∧ (t.brick n).readX 2 = l ∧ (t.brick n).readX 3 = x.part
      ∧ (∀ q, 4 ≤ q → (t.brick n).readX q = 0) ∧ (t.brick n).held = some (it.item.set, gen)
      ∧ (t.brick n).code = (List.range (cb / 4)).map (fun k => fieldB (s.okBytes (localOf ga + 64) cb) (4 * k) 4)
      ∧ (t.brick n).data 0 db = s.okBytes (localOf ga + off) db
      ∧ (t.brick n).data 0xFFC0 64 = workDesc it.item.set it.item.routine num it.args
      ∧ ∀ a, t.okByte a = s.okByte a := by
  obtain ⟨t, load, sorted', reads, brick⟩ := State.loadSet_loads (n := n) sorted hs still (x.starts it num item c) (set := it.item.set) (gen := gen)
    hdr at_ first all ok
  have loaded : s.setToRun n (x.starts it num item c) it.item.set gen ga = (0, 64 + ((cb + db) * 5 + 255) / 256, t) :=
    (if_neg (by simp [other])).trans load
  have entered : (t.brick n).entries.getD it.item.routine (2 ^ 13) = fieldB (s.okBytes (localOf ga + off) db) (4 * it.item.routine) 4 := by
    rw [brick]
    exact Brick.withSet_entry _ routine _
  refine ⟨_, start_runs may found loaded (entered ▸ entry), ?_⟩
  rw [State.brick_setBrick_same sorted', entered, brick]
  refine ⟨rfl, rfl, ?_, Brick.started_readX1, Brick.started_readX2, Brick.started_readX3, fun _ => Brick.started_readX_above, Brick.started_held,
    Brick.started_code, (s.brick n).started_loaded (by simp [State.okBytes]) (setHeader_bounds hdr),
    Brick.started_desc (smSorted_loadedData _) (length_workDesc _ _ _ _), fun a => (State.okByte_congr rfl rfl a).trans (reads a)⟩
  change c + (64 + ((cb + db) * 5 + 255) / 256) + 40 = _
  omega

end

end Sys2Proof.Machine

/-! O35: the store path, and the start and end of a work item. -/

namespace Sys2Proof.Machine

/-- Settles O35: a store's bytes are followed element by element through its rows, a routine set's load reads memory at rest, and the end of a
work item finds the generation its step noted. -/
theorem storesAndWorkItems : Obligations.StoresAndWorkItems := by
  unfold Obligations.StoresAndWorkItems
  refine ⟨?store, ?start, ?finish⟩
  case store =>
    intro s n c i r sd rest at_ hs still accBad rbBad good b w src cols rows global T place bytes num op plain srcOk layout some cols0 colsLe zero
      stream streamed fine ready idle queued ok fits dest
    have may : StoreMay n c i s sd rest := ⟨op, plain, srcOk, layout, some, cols0, colsLe, zero, stream, streamed, fine, ready, idle, queued, fits⟩
    have made : bytes = placedBytes (fun a => s.okByte (i.storeAt n a)) (s.storeRows n i (unitsOf sd) (nbits i.word 46 31)) := s.storeBytes_eq n i _ _
    have elem {x : Placed} (hx : x ∈ s.storeRows n i (unitsOf sd) (nbits i.word 46 31)) : ∃ e ∈ bytes, e.1 = x.addr := by
      rw [made]
      exact exists_mem_placedBytes.mpr ⟨x, hx, rfl⟩
    have dest' (far : nbit i.word 47 = true) (x : Placed) (hx : x ∈ s.storeRows n i (unitsOf sd) (nbits i.word 46 31)) : s.StoresTo r x.addr := by
      obtain ⟨e, he, at_e⟩ := elem hx
      obtain ⟨middle, device, yard, status⟩ := dest far e he
      rw [at_e] at middle device yard status
      exact ⟨may.addr_lt far hx, middle, device, yard, status⟩
    obtain ⟨t, run, issued, jobs, wrote, source⟩ := store_stores at_ hs still.1 may accBad rbBad good
      (fun x hx => by
        obtain ⟨e, he, at_e⟩ := elem hx
        rw [← at_e]
        exact ok e he) dest' (T := T) rfl
    refine ⟨t, run, issued, jobs, fun e he => ?_, fun a away => ?_, source.vecq, source.acc, source.full, source.rbFull⟩
    · exact wrote.there (place e.1, e.2) (List.mem_map.mpr ⟨e, made ▸ he, rfl⟩)
    · refine wrote.others a fun e he => ?_
      obtain ⟨x, hx, rfl⟩ := List.mem_map.mp he
      exact (away x (made ▸ hx)).symm
  case start =>
    intro s num item c x it l n sorted step placed brick phys fresh idle now clearing quiet ready pool residents coming r
    have may : StartMay s num item c n l x it :=
      ⟨step, placed, brick, phys, fresh, idle, now, clearing, quiet, ready, pool, residents, coming⟩
    constructor
    · intro gone
      rw [exec_workItemStart may, gone]
      exact ⟨rfl, (congrArg Brick.run (State.brick_of_br (s.routineAbsent_br n r) n)).trans idle⟩
    · intro set ga gen found hs still data base
      constructor
      · exact start_held may sorted data found
      · intro cb db rs other hdr off first all ok routine entry
        exact start_loads may sorted hs still found other hdr rfl first all ok routine entry
  case finish =>
    intro s n c r sorted hs bound run ended stop jobs pend holds clk
    obtain ⟨t, ends, ⟨b, flushed⟩, items, unit⟩ := workItemEnd_ends sorted hs bound run ended stop jobs pend holds clk
    refine ⟨t, ends, ?_, ?_, ?_, ?_, ?_, items, fun x it step placed => ?_⟩
    iterate 5 rw [flushed]; rfl
    · have gen : s.placedGen r = some it.gen := by
        rw [State.placedGen, step, Option.bind_some, placed]
        rfl
      rw [unit, gen]
      simp only [Option.some.injEq]

end Sys2Proof.Machine
